-- ==== Sys2Proof/Word.lean ====
section
/-! DEFINITION. The word types of the register space (R9: registers are 32 bits wide) and of byte payloads. -/

namespace Sys2Proof

/-- A 32-bit register or table word (R9). -/
abbrev Word := BitVec 32

/-- One byte of a datagram or of a frame. -/
abbrev Byte := BitVec 8

/-- A 64-bit quantity: energy, volume, sequence numbers, digests (R10). -/
abbrev Dword := BitVec 64

end Sys2Proof
end

