-- ==== Sys2Proof/Machine/Bits.lean ====
section
/-! DEFINITION. Bit fields of a word (R9: a field range is written high to low), signed readings, and the
sparse maps that hold the registers and the table records. -/

namespace Sys2Proof.Machine

/-- The `n` bits of `w` from bit `lo` up, as a number. -/
def wbits (w : Word) (lo n : Nat) : Nat := (w >>> lo).toNat % 2 ^ n

/-- The mask of the `n` bits from bit `lo` up. -/
def wmask (lo n : Nat) : Word := BitVec.ofNat 32 ((2 ^ n - 1) * 2 ^ lo)

/-- `w` with the `n` bits from bit `lo` up replaced by `v`. -/
def wput (w : Word) (lo n v : Nat) : Word :=
  (w &&& ~~~ wmask lo n) ||| (BitVec.ofNat 32 (v * 2 ^ lo) &&& wmask lo n)

/-- Bit `i` of `w`. -/
def wbit (w : Word) (i : Nat) : Bool := w.getLsbD i

/-- A 32-bit word read as a signed number. -/
def sint (w : Word) : Int := w.toInt

/-- A signed number as a 32-bit word, modulo 2^32. -/
def ofInt (x : Int) : Word := BitVec.ofInt 32 x

/-- `n` bits read as a signed number. -/
def signed (n v : Nat) : Int := if v < 2 ^ (n - 1) then (v : Int) else (v : Int) - 2 ^ n

/-- A signed value held at the limits of a 32-bit signed word. -/
def clampS32 (x : Int) : Int := max (-2147483648) (min 2147483647 x)

/-- A value held at the limits `lo` and `hi`. -/
def clampI (lo hi x : Int) : Int := max lo (min hi x)

/-- The low and the high word of a 64-bit value. -/
def lo32 (x : Nat) : Word := BitVec.ofNat 32 x
def hi32 (x : Nat) : Word := BitVec.ofNat 32 (x / 2 ^ 32)

/-- One if `b`, else zero. -/
def b2n (b : Bool) : Nat := if b then 1 else 0

/-- A sparse map from keys to words: keys strictly rising, no entry equal to what an unlisted key reads as. -/
abbrev SMap := List (Nat × Word)

/-- The listed word at `k`, if any. -/
def smFind : SMap → Nat → Option Word
  | [], _ => none
  | (k', v) :: m, k => if k = k' then some v else smFind m k

/-- The word at `k`, where `d` says what an unlisted key reads as. -/
def smGet (d : Nat → Word) (m : SMap) (k : Nat) : Word := (smFind m k).getD (d k)

/-- `m` with the entry `k ↦ v`, in key order. -/
def smInsert : SMap → Nat → Word → SMap
  | [], k, v => [(k, v)]
  | (k', v') :: m, k, v =>
    if k < k' then (k, v) :: (k', v') :: m
    else if k = k' then (k, v) :: m
    else (k', v') :: smInsert m k v

/-- `m` without an entry at `k`. -/
def smErase (m : SMap) (k : Nat) : SMap := m.filter (fun e => e.1 != k)

/-- `m` with `v` at `k`: an entry equal to what an unlisted key reads as is removed, so equal maps are equal data. -/
def smSet (d : Nat → Word) (m : SMap) (k : Nat) (v : Word) : SMap :=
  if v = d k then smErase m k else smInsert m k v

/-- The keys of `m` rise strictly. -/
def smSorted : SMap → Bool
  | [] => true
  | [_] => true
  | (a, _) :: (b, w) :: m => decide (a < b) && smSorted ((b, w) :: m)

/-- The canonical form of a sparse map. -/
def smWf (d : Nat → Word) (m : SMap) : Bool := smSorted m && m.all (fun e => decide (e.2 ≠ d e.1))

/-- The entries whose key satisfies `p`. -/
def smFilter (m : SMap) (p : Nat → Bool) : SMap := m.filter (fun e => p e.1)

/-- `m` with every entry of `n` written over it. -/
def smOver (d : Nat → Word) (m n : SMap) : SMap := n.foldl (fun acc e => smSet d acc e.1 e.2) m

/-- Replaces the element at position `i`, if there is one. -/
def setAt {α : Type} (l : List α) (i : Nat) (x : α) : List α := l.set i x

/-- Applies `f` to the element at position `i`, if there is one. -/
def modAt {α : Type} : List α → Nat → (α → α) → List α
  | [], _, _ => []
  | x :: l, 0, f => f x :: l
  | x :: l, i + 1, f => x :: modAt l i f

end Sys2Proof.Machine
end

