-- ==== Sys2Proof/Machine/Parts.lean ====
section
/-! DEFINITION. The pieces of the state as plain data: the exchange area, the host sessions, and what each block holds beside its
registers. The registers and the table records hold every architectural field the page maps and table layouts name; the
structures below hold what the rules describe and no register shows. -/

namespace Sys2Proof

/-- STATUS of R429. -/
inductive Status where
  | ok | denied | badAddr | badTable | busy | tooLate | refused | authFail | range
deriving DecidableEq, Repr

/-- The code of a status (R429). -/
def Status.code : Status → Nat
  | .ok => 0 | .denied => 1 | .badAddr => 2 | .badTable => 3 | .busy => 4
  | .tooLate => 5 | .refused => 6 | .authFail => 7 | .range => 8

/-- A timed-command request of TCMD_SEND (R386): the block's INST_ID, tag, NODE, KIND, its four values, TIMED and LAUNCH. -/
structure TcmdReq where
  inst : Nat
  tag : Nat
  node : Nat
  kind : Nat
  vals : List Word
  timed : Bool
  sec : Nat
  ns : Nat
deriving DecidableEq, Repr

end Sys2Proof

namespace Sys2Proof.Machine

/-! ## Exchange area (R28 to R33, R544) -/

/-- An item of a mailbox: a word and its status byte (R544). -/
structure Item where
  w : Word
  st : Nat
deriving DecidableEq, Repr

/-- A mailbox: number, writer engine, reader mask, size in words, front and back buffers; `img`, the items that its writer
holds and writes again with each publication (R29: the writer must write every word it publishes); `late`, items written after the
close that belong to the next publication, and whether the writer holds them (R259, R302); whether it was closed
since the last tick, whether it swapped at the last tick, and the STALE bit (R28 to R30). -/
structure Mbx where
  num : Nat
  writer : Nat
  readers : Nat
  words : Nat
  front : List Item
  back : List Item
  img : List (Nat × Item)
  late : List (Nat × Item × Bool)
  closed : Bool
  swapped : Bool
  stale : Bool
deriving DecidableEq, Repr

/-! ## Host ports, sessions and ownership -/

/-- A response kept for a session: REQ_ID, OP, STATUS and the data words (R427, R428). -/
structure Resp where
  reqId : Nat
  op : Nat
  status : Status
  data : List Word
deriving DecidableEq, Repr

/-- A request received and not yet applied: register words, one table record, or an ownership request. -/
inductive HOp where
  | regs (op : Nat) (ws : List (Nat × Word))
  | table (tid idx : Nat) (ws : List Word) (split : Nat)
  | tread (tid cnt idx : Nat)
  | ownReq (prio : Nat) (ovr : Bool)
  | renew
  | handover (target : Nat)
  | release
deriving DecidableEq, Repr

/-- A waiting request, with the session and the serial number of that session's opening, so that a session opened later
under the same number does not answer for it (R426). -/
structure HReq where
  ses : Nat
  gen : Nat
  reqId : Nat
  op : HOp
deriving DecidableEq, Repr

/-- A command accepted under R430 and not yet completed. `acted` is false until the tick at which it acts. -/
structure HCmd where
  ses : Nat
  gen : Nat
  tag : Nat
  code : Nat
  args : List Word
  acted : Bool
deriving DecidableEq, Repr

/-- A pending notification item (R434): a completion, an event code, or a presentation to HOST. -/
inductive NItem where
  | completion
  | event (code : Nat)
  | source (src : Nat)
deriving DecidableEq, Repr

/-- One KWP session (R425 to R445). `st`: 0 free, 1 opening, 2 open, 3 dormant. -/
structure Sess where
  st : Nat
  gen : Nat
  cred : Nat
  port : Nat
  svc : Bool
  own : Bool
  prio : Nat
  rxTop : Nat
  rxSeen : List Nat
  txSeq : Nat
  cache : List Resp
  inflight : List Nat
  cq : List (List Word)
  items : List NItem
  oldestAt : Nat
  modCnt : Nat
  modDly : Nat
  pageMask : Nat
  nseq : Nat
  wakeSev : Nat
  hostMac : Nat
  lastRx : Nat
  since : Nat
  woke : Nat
  wolLast : Option Nat
  hostId : Word
deriving DecidableEq, Repr

/-- A session number that is free (R426). -/
def Sess.free : Sess :=
  { st := 0, gen := 0, cred := 0, port := 0, svc := false, own := false, prio := 0, rxTop := 0, rxSeen := [],
    txSeq := 0, cache := [], inflight := [], cq := [], items := [], oldestAt := 0, modCnt := 1,
    modDly := 1000, pageMask := 0, nseq := 0, wakeSev := 15, hostMac := 0, lastRx := 0, since := 0,
    woke := 0, wolLast := none, hostId := 0 }

/-- The host block beside its registers: sessions; nonces per credential (the last 16 accepted, newest first); requests
waiting for a tick; ownership requests waiting for a tick; the owner, its priority and the frame from which its lease
runs; `closing`: the owner's session has closed and the tick that shows it has not come (R441); `endNext`: a DORMANT with
DORM_MAX 0 ends ownership at the next tick (R443); the commands accepted and not completed, in order of acceptance; the
table requests that engine transfers serve (R140, R378); whether AUTH_FAIL was raised in this hyperframe (R423). -/
structure HostSt where
  sess : List Sess
  nonces : List (Nat × Nat)
  queue : List HReq
  ownQ : List HReq
  owner : Option Nat
  prio : Nat
  leaseAt : Nat
  closing : Bool
  endNext : Bool
  cmds : List HCmd
  xferQ : List HReq
  authRaised : Bool
  opens : Nat
deriving DecidableEq, Repr

/-! ## Interrupt controller -/

/-- The ICU beside its table: for each of the 13 targets its stack (top first), and the source presented (R402). `fresh`: the events
raised since the last tick began, newest first, as page, bit and whether the bit was pending before (R58); `early`: the tick to come has begun
with a command that precedes FRAME_TICK. -/
structure IcuSt where
  stack : List (List Nat)
  pres : List Nat
  fresh : List (Nat × Nat × Bool)
  early : Bool
deriving DecidableEq, Repr

/-! ## Event recorder -/

/-- An event in the intake queue (R409): its time, code, kind, frame, extension flag, time quality, the table index of
its code record (`none`: the default bucket), the snapshot words once taken, and whether a summary precedes it. -/
structure Intake where
  sec : Nat
  ns : Nat
  code : Nat
  kind : Nat
  frame : Nat
  ext : Bool
  tq : Nat
  codeRec : Option Nat
  snap : Option (List Word)
  summary : Option (List Word)
deriving DecidableEq, Repr

/-- The recorder beside its registers and tables: the intake queue, the frame of each bucket's last gain (key 1024: the
default bucket), whether INTAKE_LOST was raised in the current run, and the frame at which a freeze began. -/
structure EvrSt where
  intake : List Intake
  gains : List (Nat × Nat)
  lostRun : Bool
  frzAt : Nat
deriving DecidableEq, Repr

/-! ## Configuration and module state -/

/-- The configuration of the running image beside the registers it loaded (R509): its PAGE_INIT values, the PRIV_COMP
mask, whether it defines a pair, the pair's serial numbers and identity fingerprints, and CPE_REF. -/
structure CfgSt where
  init : SMap
  privComp : Nat
  pair : Bool
  serials : List (Nat × Nat)
  cpeRef : List (Nat × Nat × Nat)
deriving DecidableEq, Repr

/-- What the module remembers of its states: the frames at which it entered FAULT (R522), the frame of the last entry
into FAULT; whether a restart is due at the next tick (R523), and the boot cause of a restart that has begun and whose start-up is
the next POWER_GOOD; the frames at which steps 9 and 10 began; `recovery`: it is leaving PARKED (R248). -/
structure DevSt where
  faults : List Nat
  faultAt : Nat
  restartNext : Bool
  restart : Option Nat
  negFrom : Nat
  admitFrom : Nat
  recovery : Bool
deriving DecidableEq, Repr
/-! ## Frame sequencer -/

/-- The sequencer beside its registers: whether the first tick has come; the highest frame number of the current hyperframe
that has run as a frame of its own (R73); how many frames it has run, extension frames included, and whether it was
truncated or extended (R75); whether the frame's table has reached its END (R77); the resources whose later PUBLISH entries
of this frame are skipped (R96); the overruns of this frame as (UNIT, entry), recorded at the next tick; for each of the 12
engines the consecutive entries without acknowledgement (R41); whether the last tick started a hyperframe, and the second that
the hyperframe belongs to; `pos`: the record of the running table that is issued next (R77). -/
structure SeqSt where
  started : Bool
  lastRun : Nat
  frames : Nat
  entry : Nat
  trunc : Bool
  ext : Bool
  ended : Bool
  skip : List Nat
  ovr : List (Nat × Nat)
  missed : List Nat
  hfStart : Bool
  hfSec : Nat
  pos : Nat
deriving DecidableEq, Repr

/-! ## Timebase -/

/-- An Announce as the best master clock algorithm uses it: grandmasterPriority1, clockClass, clockAccuracy, offsetScaledLogVariance,
grandmasterPriority2, grandmasterIdentity, stepsRemoved and the sender's identity; `qual`: the sender is a qualified foreign master; `cal`: the port
has been calibrated on it. -/
structure PtpAnn where
  p1 : Nat
  cls : Nat
  acc : Nat
  var : Nat
  p2 : Nat
  gmLo : Word
  gmHi : Word
  steps : Nat
  src : Nat
  qual : Bool
  cal : Bool
deriving DecidableEq, Repr

/-- A PTP port (R104, R107): its portState of IEEE 1588, the FRAME_NO of the last Sync with its Follow_Up, the FRAME_NO since which no
Announce has come while the receipt timeout runs, and the last Announce of a qualified master. -/
structure PtpPort where
  st : Nat
  lastSync : Option Nat
  lastAnn : Option Nat
  ann : Option PtpAnn
deriving DecidableEq, Repr

/-- The timebase beside its registers: the servo's accumulator (R113); the four PTP ports A, B, H1, H2, and those in SLAVE in the
order in which they reached it (R108); for the sources 1 to
4 the frame since which each is valid and its latest offset of that period (R105, R117); the offsets in a row within
LOCK_THR (R118); |θ| of the last accepted offset since the last step, and the one before entry into holdover (R119); the
running minute of holdover, that of learning with the sum of y in it, and the minutes learned (R114); the 1PPS edges and sentences (R104, R111); twin link time (R104); an initial
set and a step waiting for the next tick (R106, R116); the old-clock instant of the coming tick where a step has already set its clock; and the
level of the 1PPS output (R112). -/
structure TimeSt where
  acc : Int
  ports : List PtpPort
  slaves : List Nat
  since : List (Option Nat)
  offs : List (Option Int)
  lockN : Nat
  lastAcc : Option Nat
  holdBase : Option Nat
  holdStart : Nat
  minStart : Nat
  minSum : Int
  learn : List Int
  ppsAt : Option Int
  ppsFno : Nat
  ppsGood : Nat
  tod : Option Nat
  todFresh : Bool
  twinFno : Option Nat
  initPend : Option Int
  stepPend : Option Int
  stepAt : Option Int
  ppsOut : Bool
deriving DecidableEq, Repr

/-- The timebase at power-up. -/
def TimeSt.init : TimeSt :=
  { acc := 0, ports := List.replicate 4 ⟨0, none, none, none⟩, slaves := [], since := List.replicate 4 none,
    offs := List.replicate 4 none, lockN := 0, lastAcc := none, holdBase := none, holdStart := 0, minStart := 0, minSum := 0, learn := [],
    ppsAt := none, ppsFno := 0, ppsGood := 0, tod := none, todFresh := false, twinFno := none, initPend := none,
    stepPend := none, stepAt := none, ppsOut := false }

/-! ## Control program engines -/

/-- A save of the RETAIN variables in the MRAM (R392): sequence number, IMAGE_ID, RETAIN_SIZE, and bytes by VAR_ID. -/
structure RetSave where
  seq : Nat
  image : Nat
  size : Nat
  vars : List (Nat × List Nat)
deriving DecidableEq, Repr

/-- The save slots of a CPE: A and B, each with a correct CRC or none, and the slot of the next save (0 A, 1 B). -/
structure RetNv where
  a : Option RetSave
  b : Option RetSave
  next : Nat
deriving DecidableEq, Repr

/-- What block code may do in its classes (R375): integer operations at 8, 16, 32 or 64 bits, floating-point operations, comparisons and
conversions. -/
inductive IntFn where
  | add | sub | mul | div | mod | shl | shr | and | or | xor | not
deriving DecidableEq, Repr
inductive FltFn where
  | add | sub | mul | div | sqrt | min | max | abs
deriving DecidableEq, Repr
inductive CmpRel where
  | eq | ne | lt | le | gt | ge
deriving DecidableEq, Repr

/-- The type of a number: an integer of 2^k bytes, signed where `sg`, binary32 or binary64. -/
inductive NumTy where
  | int (k : Fin 4) (sg : Bool)
  | f32
  | f64
deriving DecidableEq, Repr

/-- An operation of block code (R375). `sg`: a result narrower than the register is extended with its sign. -/
inductive CpeOp where
  | jump
  | branchZero
  | branchNonzero
  | endTask
  | load (k : Fin 4) (sg : Bool)
  | store (k : Fin 4)
  | readSlot
  | writeSlot
  | int (f : IntFn) (k : Fin 4) (sg : Bool)
  | f32 (f : FltFn)
  | f64 (f : FltFn)
  | cmp (r : CmpRel) (t : NumTy)
  | cvt (src dst : NumTy)
  | call
  | ret
  | const (high : Bool)
  | svc
deriving DecidableEq, Repr

/-- The opcode class of an operation. -/
def CpeOp.cls : CpeOp → Nat
  | .jump | .branchZero | .branchNonzero | .endTask => 0x0
  | .load _ _ => 0x1
  | .store _ => 0x2
  | .readSlot | .writeSlot => 0x3
  | .int _ _ _ => 0x4
  | .f32 _ => 0x5
  | .f64 _ => 0x6
  | .cmp _ _ => 0x7
  | .cvt _ _ => 0x8
  | .call | .ret => 0x9
  | .const _ => 0xA
  | .svc => 0xB

/-- What the engine keeps of an instance of a library block beside its variables (R382, R385, R395): its INST_ID and BLOCK_TYPE, the
FRAME_NO of its previous execution, whether its timer runs, and M, its inputs at its previous execution. -/
structure BlkSt where
  inst : Nat
  typ : Nat
  fno : Nat
  run : Bool
  m : Nat
deriving DecidableEq, Repr

/-- A request of TCMD_SEND whose result its block has not taken (R386): INST_ID, tag, the FRAME_NO of the request, and the result with the
FRAME_NO at which E10 wrote it. -/
structure TcmdWait where
  inst : Nat
  tag : Nat
  fno : Nat
  res : Option (Bool × Nat)
deriving DecidableEq, Repr

/-- A control program engine beside its registers and tables. `tasks`: the tasks of the active image with their BUDGET_NS; the
variable triggers' values at the end of the last execution, the item triggers' at the last task-4 entry, and the event tasks
pending (R381); the tasks that have not completed since a fault or an overrun (R383); the next record of the error ring and
whether a run of refused records has raised ERRQ_FULL (R384); AT_FRAME of a pending timed switch, and whether
it is due at the next hyperframe (R394); the FRAME_NO of the switch frame; the requests written to the command mailbox, and those
published (R386); the FRAME_NO of the last RETAIN save; the working registers w0 to w63 (R374); the instances of library blocks that
have executed; the tasks that have run since EN was last 0 (R371); and the requests whose results wait, with the tag of the next one. -/
structure CpeSt where
  tasks : List (Nat × Nat)
  evtVal : List (Nat × Bool)
  evtItem : List (Nat × Bool)
  evtPend : List Nat
  stale : List Nat
  errNext : Nat
  errFull : Bool
  switchAt : Option Nat
  switchDue : Bool
  switchFno : Option Nat
  tcmdBack : List (Nat × TcmdReq)
  tcmdFront : List TcmdReq
  retAt : Option Nat
  wreg : List (BitVec 64)
  blks : List BlkSt
  warm : List Nat
  tcmdWait : List TcmdWait
  tcmdTag : Nat
deriving DecidableEq, Repr

/-- A CPE without an image. -/
def CpeSt.empty : CpeSt :=
  { tasks := [], evtVal := [], evtItem := [], evtPend := [], stale := [], errNext := 0, errFull := false, switchAt := none,
    switchDue := false, switchFno := none, tcmdBack := [], tcmdFront := [], retAt := none, wreg := List.replicate 64 0#64, blks := [],
    warm := [], tcmdWait := [], tcmdTag := 0 }

/-! ## Network model engine -/

/-- A parcel of a segment: a volume of water at one temperature (R144). -/
structure Parcel where
  vol : Int
  temp : Int
deriving DecidableEq, Repr

/-- The adaptation sums of a segment over the hour (R160): samples, Σw, Σw·r, Σ modelled drop; the same for roughness. -/
structure AdaptSum where
  n : Nat
  w : Int
  wr : Int
  drop : Int
  n2 : Nat
  w2 : Int
  wr2 : Int
  drop2 : Int
deriving DecidableEq, Repr

/-- The network model engine beside its registers and tables. Numbers are in the engine's own format. `last`: the last usable
value of each measured input (R129); `press`: the piezometric pressure of each junction and `flow` the flow of each branch
after the last converged solve of their circuit (R143); `parcels` of each segment, from the FROM end; the volume that has
entered a segment since R147 restarted it, while it is below its own; `jtemp` and the junctions whose temperature came from
unflushed segments; for each circuit the FRAME_NO of its last thermal step, the balance samples of the last 60 s (R157) and
the frames since which the mean has been above, or not above, LEAK_THR (R158); the frame of each node's last bias update
(R159); the adaptation sums and the TAI hour of each circuit's last update (R160); the frame of each part's last refresh
(R156); circuits whose results take INIT after a bank switch (R139); whether PARCEL_FULL was raised in this hyperframe. -/
structure ModelSt where
  last : List (Nat × Word)
  press : List (Nat × Int)
  flow : List (Nat × Int)
  parcels : List (Nat × List Parcel)
  entered : List (Nat × Int)
  jtemp : List (Nat × Int)
  jinit : List Nat
  thmAt : List (Option Nat)
  bal : List (List (Nat × Int))
  above : List (Option Nat)
  below : List (Option Nat)
  biasAt : List (Nat × Nat)
  bias : List (Nat × Int)
  adapt : List (Nat × AdaptSum)
  hour : List Nat
  arrAt : List (Option Nat)
  initQ : List Bool
  fullHf : Bool
deriving DecidableEq, Repr

/-- The engine at start-up. -/
def ModelSt.init : ModelSt :=
  { last := [], press := [], flow := [], parcels := [], entered := [], jtemp := [], jinit := [],
    thmAt := List.replicate 4 none, bal := List.replicate 4 [], above := List.replicate 4 none,
    below := List.replicate 4 none, biasAt := [], bias := [], adapt := [], hour := List.replicate 4 0,
    arrAt := List.replicate 16 none, initQ := List.replicate 4 false, fullHf := false }

/-! ## Dispatch optimiser -/

/-- What a solve takes at its start (R36, R183): T0, OPT_LOCAL_OFS, the registers that parameterise it, the asset, series and calendar
tables with the attachments and circuits they refer to, the initial values of R178 with the coefficients of R175 (keys in Opt), and the
measured zone powers of R181 (zone, step, W). -/
structure SolveIn where
  t0 : Nat
  ofs : Int
  regs : SMap
  tbl : SMap
  vals : List (Nat × Int)
  zones : List (Nat × Nat × Int)
deriving DecidableEq, Repr

/-- A solve in progress (R183, R184): the FRAME_NO and the clock at its start, the host command that named it, its inputs; the relaxed
solution of stage 1, the commitments that stage 2 fixed, whether stages 2 and 3 repeat with ROUND_THR halved, and the iterations of
stages 1 and 3. The stage it is in stands in OPT_STAT. -/
structure SolveSt where
  fno : Nat
  clock : Int
  cmd : Option HCmd
  inp : SolveIn
  relaxed : List (Nat × Int)
  fixed : List (Nat × Int)
  halved : Bool
  it1 : Nat
  it3 : Nat
deriving DecidableEq, Repr

/-- The PLAN and PLAN_PART sections of an input record (R456, R457). SUB 0, a publication: T0, the start of its solve (TAI ns), its local
offset, the words of the plan summary, the fit coefficients, and the slice, each record index with its steps 0 and 1. SUB 1: OPT_LAST of a
solve that ended. PLAN_PART: records of the plan table. -/
structure PlanPub where
  t0 : Nat
  clock : Int
  ofs : Int
  summary : List Word
  fit : List (Nat × List Word)
  slice : List (Nat × Word × Word)
deriving DecidableEq, Repr

structure PlanSec where
  pub : Option PlanPub
  last : Option Word
  parts : List (Nat × List Word)
deriving DecidableEq, Repr

def PlanSec.none_ : PlanSec := { pub := none, last := none, parts := [] }

/-- A finished solve that waits for its publication (R186): iterations, objective and its six terms, plan records. -/
structure PlanOut where
  it1 : Nat
  it3 : Nat
  objective : List Int
  recs : List (Nat × List Word)
deriving DecidableEq, Repr

/-- One step of a class's history (R176): class, TAI second of the step's start, the heat its members metered in W (none where
more than 10 % lacked a GOOD reading), and the weather values and profile factor of the step. -/
structure FitRow where
  cls : Nat
  step : Nat
  heat : Option Int
  x1 : Int
  sol : Int
  wind : Int
  prof : Nat
deriving DecidableEq, Repr

/-- A command of the setpoint publisher: node, kind, change time T_j, launch time and values (R196, R197). -/
structure PubCmd where
  node : Nat
  kind : Nat
  at_ : Nat × Nat
  launch : Nat × Nat
  vals : List Word
deriving DecidableEq, Repr

/-- What the setpoint publisher keeps (R196 to R198): the value last commanded for a change time of a circuit; the budgets last
commanded for a change time of a zone; commands that wait for a later frame; commands enqueued, for replacement. -/
structure PubSt where
  sup : List (Nat × (Nat × Nat) × Int)
  zone : List (Nat × (Nat × Nat) × List Word)
  wait : List PubCmd
  sent : List PubCmd
deriving DecidableEq, Repr

/-- The optimiser beside its registers and tables: the solve running and the finished plan waiting; a SOLVE command waiting
for the next tick; the SOLVE commands that have ended (R193); the snapshots in DRAM (R34); the start of the plan in force and
the seconds and nanoseconds at which its step 0 first applied (R188, R196); the frame at which FALLBACK acted (R191); the UTC
offset of step alignment (R162); the local day last fitted and the history (R176); each source's state and the second since
which it has held it; the energy registers of nodes at the last step boundary; the weather and profile that stood when the running step
began (R176); the measured power of lighting zones by zone and step (R181); the setpoint publisher;
OPT_LOCAL_OFS as the last solve took it, as the plan in force was solved with, and as the default schedule follows it (R163); the frame at
which a solve last started (R183); the PLAN sections of the running frame's record, and the plan table records not yet sent (R457). -/
structure OptSt where
  run : Option SolveSt
  done : Option PlanOut
  startReq : Option HCmd
  ended : List (Nat × Nat × Nat)
  snap : List (Nat × List Item)
  planStart : Option Int
  appliedSec : Nat
  appliedNs : Nat
  fbAt : Option Nat
  utc : Option Nat
  fitDay : Nat
  hist : List FitRow
  held : List (Nat × Bool × Nat)
  energy : List (Nat × Nat × Bool)
  wx : List FitRow
  zoneHist : List (Nat × Nat × Int)
  pub : PubSt
  ofsSolve : Int
  ofsPlan : Int
  ofsDef : Int
  startAt : Option Nat
  sec : PlanSec
  parts : List Nat
deriving DecidableEq, Repr

/-- The optimiser at start-up. -/
def OptSt.init : OptSt :=
  { run := none, done := none, startReq := none, ended := [], snap := [], planStart := none, appliedSec := 0, appliedNs := 0,
    fbAt := none, utc := none, fitDay := 0, hist := [], held := [], energy := [], wx := [], zoneHist := [],
    pub := { sup := [], zone := [], wait := [], sent := [] }, ofsSolve := 0, ofsPlan := 0, ofsDef := 0, startAt := none,
    sec := PlanSec.none_, parts := [] }

/-! ## Substation network -/

/-- A SUB_HELLO that waits for its answer (R233): whether its epoch is lower than known, and the type code and serial number
of its IDENT. -/
structure Hello where
  back : Bool
  ident : Option (Nat × Nat)
deriving DecidableEq, Repr

/-- A SUB_REPORT accepted and not yet at its report slot (R219): extended sequence, LAUNCH, receive timestamp corrected by the port's latency,
whether it came with the epoch known before it (R234), TLV records. -/
structure Report where
  x : Nat
  sec : Nat
  ns : Nat
  rxSec : Nat
  rxNs : Nat
  known : Bool
  recs : List (Nat × List Byte)
deriving DecidableEq, Repr

/-- A steady setpoint (R231): kind, launch time (the time of queueing for an immediate entry), values. -/
structure Steady where
  kind : Nat
  sec : Nat
  ns : Nat
  vals : List Word
deriving DecidableEq, Repr

/-- What the link engine keeps of a node beside its image and counters. `epoch`, `x`, `seen`: the last accepted epoch and the
tracking of R208; `txX`: the extended sequence of the next message to the node; `hello`: an answer due; `helloWin`: a
SUB_HELLO came in the running window (R237); `reps`: the reports of the window; `prevSlot`: the previous report slot's
instant; `rxCyc`, `txCyc`: the substation cycle in which its report slot and its command slot have been drawn (R217); `msgCyc`,
`msgs`: other messages of the cycle (R216); `needState`: SUB_STATE_REQ is sent (R234); `stateOk`: its state is accepted;
`pend`: the registers of a SUB_STATE that waits for NODE_ACCEPT; `base`, `saved`: the last accepted registers by KIND, and
their copy in MRAM (R235); `run`, `lastRegs`: consecutive used reports of R236 and the registers of the last; `have`: the
fields that have held a reported value (R223); `cmdSeq`, `cmdIdx`: SEQ and queue records of the last SUB_CMD (R228);
`slotDue`: a SLOT record goes into the next SUB_CMD, `graceCyc`: the cycle in which a missed report is not counted (R221);
`repAt`, `cmdAt`: REPORT_AT and CMD_AT (R218); the steady setpoints; `latBad`: its last latency was above the budget
(R243, R283). -/
structure NodeSt where
  epoch : Option Nat
  x : Nat
  seen : List Nat
  txX : Nat
  hello : Option Hello
  helloWin : Bool
  reps : List Report
  prevSlot : Option (Nat × Nat)
  rxCyc : Option Nat
  txCyc : Option Nat
  msgCyc : Nat
  msgs : Nat
  needState : Bool
  stateOk : Bool
  pend : Option (List (Nat × Nat))
  base : List (Nat × Nat)
  saved : List (Nat × Nat)
  run : Nat
  lastRegs : List (Nat × Nat)
  have_ : List Nat
  cmdSeq : Option Nat
  cmdIdx : List Nat
  slotDue : Bool
  graceCyc : Option Nat
  repAt : Option Nat
  cmdAt : Option Nat
  steady : List Steady
  latBad : Bool
deriving DecidableEq, Repr

/-- A node before its first message. -/
def NodeSt.init : NodeSt :=
  { epoch := none, x := 0, seen := [], txX := 0, hello := none, helloWin := false, reps := [], prevSlot := none,
    rxCyc := none, txCyc := none, msgCyc := 0, msgs := 0, needState := false, stateOk := false, pend := none, base := [],
    saved := [], run := 0, lastRegs := [], have_ := [], cmdSeq := none, cmdIdx := [], slotDue := false, graceCyc := none,
    repAt := none, cmdAt := none, steady := [], latBad := false }

/-- A rekey in progress (R239): its group, its new GEN, S as LT64, whether S has passed, the nodes that have not
acknowledged, and whether REKEY_DONE has been raised. -/
structure Rekey where
  group : Nat
  gen : Nat
  sec : Nat
  ns : Nat
  switched : Bool
  left : List Nat
  done : Bool
deriving DecidableEq, Repr

/-- The substation network beside its registers and tables: what each node has; GEN of each group (0 where none is listed);
the groups in the overlap of R240 with the FRAME_NO of S; the rekeys in progress; the number of the running substation cycle;
the frame of the last refused enqueue (R226); line events that the next tick shows, as (port, event bit) (R245); the frame of
the last PRP supervision frame, and the sequence number of the next frame's redundancy control trailer (R200); the lines of ports A, B, H1,
H2 and T: up or down now; whether LAT_EXCEED was raised in this hyperframe (R243). -/
structure SnetSt where
  nodes : List (Nat × NodeSt)
  gens : List (Nat × Nat)
  old : List (Nat × Nat)
  rekeys : List Rekey
  cyc : Nat
  fullAt : Option Nat
  line : List (Nat × Nat)
  supAt : Option Nat
  prpSeq : Nat
  lines : List Bool
  latHf : Bool
deriving DecidableEq, Repr

/-- The substation network at start-up. -/
def SnetSt.init : SnetSt :=
  { nodes := [], gens := [], old := [], rekeys := [], cyc := 0, fullAt := none, line := [], supAt := none, prpSeq := 0,
    lines := List.replicate 5 false, latHf := false }

/-- What carries a GSP message (R200, R203): the sequence number of its PRP redundancy control trailer, VLAN ID and priority where it is
tagged, whether it is IPv6, the DSCP or traffic class, source and destination address and UDP port. -/
structure NetHdr where
  prp : Nat
  vlan : Option (Nat × Nat)
  ip6 : Bool
  dscp : Nat
  src : List Word
  sport : Nat
  dst : List Word
  dport : Nat
deriving DecidableEq, Repr

/-- A GSP message to a node (R204): the ports it leaves on, TYPE, FLAGS, NODE, SEQ, KEY fields, LAUNCH, and the TLV records of its payload;
its 24-byte header, which is the additional authenticated data, the 12-byte nonce (R207), and what carries it. -/
structure GspTx where
  ports : List Nat
  typ : Nat
  flags : Nat
  node : Nat
  seq : Nat
  group : Nat
  gen : Nat
  nk : Bool
  sec : Nat
  ns : Nat
  recs : List (Nat × List Byte)
  hdr : List Byte
  nonce : List Byte
  net : NetHdr
deriving DecidableEq, Repr

/-! ## Plant buses -/

/-- A privileged message in the buffer of a port (R269, R270): CHANNEL, REQ_SEQ, STATION, the frame's data bytes, and
the instant at which it was placed there, in ns of elapsed frames. -/
structure PrivMsg where
  ch : Nat
  seq : Nat
  stn : Nat
  data : List Byte
  at_ : Nat
deriving DecidableEq, Repr

/-- What the link engine keeps of a station beside its record (R274 to R276, R388): whether the running basic cycle is good, and the one
before it; the last accepted STATE and ERR; the reported points, and those published in RUN last; the last values published with quality GOOD;
CNT of the output message. -/
structure StnSt where
  good : Bool
  ended : Bool
  rstate : Nat
  err : Nat
  pts : List Item
  pub : List Item
  lastGood : List (Nat × Word)
  outCnt : Nat
deriving DecidableEq, Repr

/-- A station before its first message. -/
def StnSt.init : StnSt := { good := false, ended := false, rstate := 0, err := 0, pts := [], pub := [], lastGood := [], outCnt := 0 }

/-- A plant-bus port beside its registers and tables. `sleep`, `integ`: asleep, integrating; `tail`: the instant (LT64) of the tick at which
it ceased to act, while the frame then on the bus may still end (R254, R264); `pend`: captured data of the pending objects with the instant since
which each is pending (R260); `ref`: the reference message that waits, with its cycle start and the instant at which it was queued (R261);
`refDly`: SOF_DLY of the last reference; `refRun`, `privRun`: consecutive data-field errors of the reference and of identifier 0x000 (R271);
`first`: the next reference is the first since start-up or takeover; `gap`, `gapEnded`: the running cycle overlaps a switch-over gap, or the one
before it did (R467); `boff`, `boffAt`: the recessive sequences counted towards recovery, and the frame since which they count (R267); `priv`: the privileged messages, oldest first; `suspect`: identifiers with their runs
of R272 and whether the run has been reported; `stn`: its stations; `latBad`: its last privileged message took longer than
PRIV_CAN_LAT (R283). -/
structure CanSt where
  sleep : Bool
  integ : Bool
  tail : Option (Nat × Nat)
  pend : List (Nat × List Byte × Nat × Nat)
  ref : Option (List Byte × (Nat × Nat) × Nat × Nat)
  refDly : Option Nat
  refRun : Nat
  privRun : Nat
  first : Bool
  gap : Bool
  gapEnded : Bool
  boff : Nat
  boffAt : Nat
  priv : List PrivMsg
  suspect : List (Nat × Nat × Bool)
  stn : List (Nat × StnSt)
  latBad : Bool
deriving DecidableEq, Repr

/-- A port at start-up: it integrates when it is first switched on. -/
def CanSt.init : CanSt :=
  { sleep := false, integ := true, tail := none, pend := [], ref := none, refDly := none, refRun := 0, privRun := 0, first := true,
    gap := false, gapEnded := false, boff := 0, boffAt := 0, priv := [], suspect := [], stn := [], latBad := false }

/-! ## Local inputs and outputs -/

/-- The digital inputs and outputs beside their registers: the filtered levels of the 16 digital and 8 fast inputs now; the
trip latches as (channel, pairs held) (R290); the level of each armed channel's input at arming; the consecutive conversions
beyond LIMIT of each ADC reflex channel; the solid-state outputs on at the entry into FAULT, and whether outputs were driven
then (R314); the PWM outputs' applied period and the start of the period, in ns of elapsed frames (R312); the read-back of the
last tick's outputs that differs from their state, bits 7..0 outputs and 11..8 trip pairs. -/
structure DioSt where
  di : Nat
  fast : Nat
  trips : List (Nat × Nat)
  armLvl : List (Nat × Bool)
  adcRun : List (Nat × Nat)
  hold : Nat
  wasDriven : Bool
  pwm : List (Nat × Nat)
  rbDiff : Nat
deriving DecidableEq, Repr

/-- Inputs low, nothing latched. -/
def DioSt.init : DioSt :=
  { di := 0, fast := 0, trips := [], armLvl := [], adcRun := [], hold := 0, wasDriven := false,
    pwm := List.replicate 4 (0, 0), rbDiff := 0 }

/-! ## Analogue inputs -/

/-- The window of a channel (R300, R303, R304): the instant at which it opened, sum, count, sum of squares, extremes, clamped and
clamped-and-counted conversions, excluded conversions; whether the ADC clock was lost in it, and whether it carries SHORT. -/
structure AdcWin where
  start : Nat
  s : Int
  n : Nat
  q : Nat
  mn : Int
  mx : Int
  nOvr : Nat
  nClamp : Nat
  nSettle : Nat
  lost : Bool
  short : Bool
deriving DecidableEq, Repr

/-- An empty window. -/
def AdcWin.init : AdcWin :=
  { start := 0, s := 0, n := 0, q := 0, mn := 32767, mx := -32768, nOvr := 0, nClamp := 0, nSettle := 0, lost := false,
    short := false }

/-- A closed window (R302): its counts, LATE, the instant and the LT64 of the closing tick, and the channel record in force. -/
structure AdcClose where
  win : AdcWin
  late : Bool
  at_ : Nat
  sec : Nat
  ns : Nat
  record : List Word
deriving DecidableEq, Repr

/-- A trigger on its way to a converter (R298, R299): sample instant, converter, source (0 to 3 timers, 4 to 7 PWM, 8 entries) and
the end of its delay. -/
structure AdcTrg where
  at_ : Nat
  conv : Nat
  src : Nat
  dlyEnd : Nat
deriving DecidableEq, Repr

/-- The ADC subsystem beside its registers: the running conversion of each converter as (channel, sample instant); the triggers on
their way; the SETTLE conversions left of each converter (R304); the input each converter has selected by ADC_SEL or ADC_CHSEL
(R297); windows by channel; closed windows that wait for a conversion sampled in them. Instants are ns of elapsed frames. -/
structure AdcSt where
  conv : List (Option (Nat × Nat))
  sched : List AdcTrg
  settle : List Nat
  sel : List Nat
  win : List (Nat × AdcWin)
  closing : List (Nat × AdcClose)
deriving DecidableEq, Repr

/-- The ADC subsystem at start-up. -/
def AdcSt.init : AdcSt :=
  { conv := List.replicate 4 none, sched := [], settle := List.replicate 4 0, sel := List.replicate 4 0, win := [], closing := [] }
/-! ## Launch comparators and privileged requests -/

/-- What an armed comparator has latched (R120): its number, launch time, GRACE_MS, ACTION and TARGET. -/
structure LnchArm where
  n : Nat
  sec : Nat
  ns : Nat
  grace : Nat
  act : Nat
  tgt : Nat
deriving DecidableEq, Repr

/-- An outstanding privileged request (R281 to R285): channel, class, requester (0 host, 1 CPE0, 2 CPE1), REQ_SEQ; acceptance
instant and release bound B in ns of elapsed frames; TIMED and the launch time; words 3 to 13 of the request (to 17 by KWP);
class 1: its comparator; class 2: its release slot; class 3: its primary port; the instant of the last release, if any; whether
it was taken over (R291); its record in the request log. -/
structure PrivReq where
  ch : Nat
  cls : Nat
  src : Nat
  seq : Nat
  ta : Nat
  bound : Int
  timed : Bool
  sec : Nat
  ns : Nat
  args : List Word
  comp : Nat
  slot : Nat
  port : Nat
  released : Option Nat
  taken : Bool
  log : Nat
deriving DecidableEq, Repr

/-- A verdict as the input record's PRIV section carries it (R456): channel, requester, REQ_SEQ, verdict of R282 (0 accepted). -/
structure PrivVerdict where
  ch : Nat
  src : Nat
  seq : Nat
  code : Nat
deriving DecidableEq, Repr

/-- The privileged channels beside their registers and tables: outstanding requests in order of acceptance; acceptances of each
channel since start-up (R289); release slots given in the privileged transmit path, and the times of
its last 16 releases (R279); paths, as (channel, 0 A to 3 D),
that fail their declared latency (R283); the verdicts given since the last TWIN_REC, which the next record takes, and on a standby
module those of the record in execution not yet taken by a request (R291). -/
structure PrivSt where
  reqs : List PrivReq
  counts : List (Nat × Nat)
  slots : List Nat
  outs : List Nat
  latBad : List (Nat × Nat)
  given : List PrivVerdict
  due : List PrivVerdict
deriving DecidableEq, Repr

/-- No request yet. -/
def PrivSt.init : PrivSt := { reqs := [], counts := [], slots := [], outs := [], latBad := [], given := [], due := [] }
/-! ## Metering -/

/-- An open interval (R337): its start and end in TAI seconds, the six registers at its start, frames unmeasured in it,
reversals, STEPPED, PF, and its number. -/
structure MetInt where
  start : Int
  stop : Int
  base : List Nat
  gap : Nat
  reversals : Nat
  stepped : Bool
  pf : Bool
  no : Nat
deriving DecidableEq, Repr

/-- The close of a window that waits for the point's next EMET_CLOSE (R325): LATE, SHORT, the closing tick's LT64, and the frames of the
window with those unmeasured. -/
structure MetDue where
  late : Bool
  short : Bool
  frames : Nat
  gaps : Nat
  sec : Nat
  ns : Nat
deriving DecidableEq, Repr

/-- An electrical point beside its registers: the latched samples, 7 codes each, with the mask of invalid inputs (R319, R320); the
last 160 calibrated samples (R324); the open window: its samples, the active and reactive energy of each phase and the total in W·s, whether
a clip occurred, whether the neutral input was invalid, its frames and those unmeasured, the largest codes; the close that waits; the runs of windows of R327 and
R328, as (reversed, correct) and (neutral lost, not); whether its last window had samples; total P and Q of the last frame closed (R342). -/
structure MetPt where
  latch : Option (List (List Int) × Nat)
  hist : List (List Int)
  win : List (List Int)
  eP : List Int
  eQ : List Int
  clip : Bool
  nBad : Bool
  frames : Nat
  gaps : Nat
  peaks : List Nat
  due : Option MetDue
  seqRun : Nat × Nat
  nlRun : Nat × Nat
  hadData : Bool
  lastP : Int
  lastQ : Int
deriving DecidableEq, Repr

/-- A point before its first sample. -/
def MetPt.init : MetPt :=
  { latch := none, hist := [], win := [], eP := [0, 0, 0, 0], eQ := [0, 0, 0, 0], clip := false, nBad := false, frames := 0,
    gaps := 0, peaks := [0, 0, 0, 0, 0, 0, 0], due := none, seqRun := (0, 0), nlRun := (0, 0), hadData := true, lastP := 0, lastQ := 0 }

/-- A thermal point beside its registers: the 8 kHz sample count and the pulse count at its last close; the sign of its last flow, and
whether it has had any;
whether its inputs failed at the last close; FAULT_MS in samples of 125 µs; whether REVERSAL was raised in the open interval. -/
structure HmetPt where
  at_ : Option Nat
  count : Option Nat
  rev : Bool
  flowed : Bool
  fault : Bool
  faultT : Nat
  revRaised : Bool
deriving DecidableEq, Repr

/-- A point before its first close. -/
def HmetPt.init : HmetPt := { at_ := none, count := none, rev := false, flowed := false, fault := false, faultT := 0, revRaised := false }

/-- A save of the meter registers in the MRAM (R339): sequence number, register words by table key, and residues. -/
structure MetSave where
  seq : Nat
  words : SMap
  res : List (Nat × Int)
deriving DecidableEq, Repr

/-- The metering engine beside its registers and tables: register words formed since the last tick, which shows them (R330, R336);
the residues below 1 mWh (R323); the points; the open intervals, electrical points 0 to 3, thermal ones from 16; the last step,
as old and new clock in TAI seconds; inputs whose last evaluated frame was invalid; whether this frame is counted in MOD_FAULT_CNT, whether
the MOD domain lost its lock in it, and whether a soft reset of MOD fell on its tick; points
latched in this frame with all phases valid; the ns by which frames have been longer than 1 ms (R73); a save due; the save being written; registers not restored (R340); the points whose
first interval after a restart carries PF (R343). -/
structure MetSt where
  pend : SMap
  res : List (Nat × Int)
  pts : List MetPt
  hpts : List (Nat × HmetPt)
  ints : List (Nat × MetInt)
  stepFrom : Option (Int × Int)
  badRun : Nat
  faulted : Bool
  lost : Bool
  dropped : Bool
  good : List Nat
  longNs : Nat
  saveDue : Bool
  saving : Option MetSave
  unrestored : Bool
  pfNext : List Nat
deriving DecidableEq, Repr

/-- The engine at start-up. -/
def MetSt.init : MetSt :=
  { pend := [], res := [], pts := List.replicate 4 MetPt.init, hpts := [], ints := [], stepFrom := none, badRun := 0,
    faulted := false, lost := false, dropped := false, good := [], longNs := 0, saveDue := false, saving := none, unrestored := false, pfNext := [] }

/-- The saves in the MRAM: slot A, slot B, last gasp (R339, R341), each with a correct CRC or none, the slot of the next save
(0 A, 1 B), and the tail record as words of the tail tables (R342). -/
structure MetNv where
  a : Option MetSave
  b : Option MetSave
  gasp : Option MetSave
  next : Nat
  tail : Option SMap
deriving DecidableEq, Repr

/-! ## Supply -/

/-- The power-fail sequence (R341, R343): the instant of the declaration in ns of elapsed frames, and whether the snapshot has been
taken. -/
structure PwrSt where
  pfAt : Option Nat
  done : Bool
deriving DecidableEq, Repr
/-! ## Loop engine -/

/-- What the loop engine keeps of a loop beside its record (R349 to R354): the FRAME_NO of its last execution; whether its next
execution is its first; whether the next one in AUTO returns under R351; x_prev and D; whether it last ran in AUTO, and whether
a write of MAN_OUT has taken effect since; the last usable SP. -/
structure LoopSt where
  last : Option Nat
  first : Bool
  ret : Bool
  xPrev : Word
  d : Word
  wasAuto : Bool
  manWr : Bool
  sp : Option Word
deriving DecidableEq, Repr

/-- A loop before its first execution. -/
def LoopSt.init : LoopSt :=
  { last := none, first := true, ret := false, xPrev := 0, d := 0, wasAuto := false, manWr := false, sp := none }

/-- A relay test (R363, R364): its loop, BIAS, SP0, the FRAME_NO of its start, the level published (true: BIAS + AMP), the
FRAME_NO of the last switch to BIAS + AMP, the extremes of PV since, and the cycles since, as (ms, half peak-to-peak PV), the
first of which is discarded. -/
structure TuneSt where
  loop : Nat
  bias : Word
  sp0 : Word
  at_ : Nat
  high : Option Bool
  up : Option Nat
  lo : Word
  hi : Word
  cycles : List (Nat × Word)
deriving DecidableEq, Repr

/-- The loop engine beside its registers and tables: its loops, the test that runs, the winner of each group since it
was written. -/
structure LoopEng where
  loops : List (Nat × LoopSt)
  tune : Option TuneSt
  won : List (Nat × Nat)
deriving DecidableEq, Repr

/-- The engine at start-up. -/
def LoopEng.init : LoopEng := { loops := [], tune := none, won := [] }
/-! ## The key store and the tamper monitor -/

/-- A staged key, beside the slot table (R489, R492): its kind, parent, generation and label; the KCV that the import buffer gave and
the one of the key itself (R493); of a public key its point, X then Y. The key itself is in no register, table or message (R488). -/
structure KeyNew where
  kind : Nat
  parent : Nat
  gen : Nat
  label : List Word
  want : Word
  kcv : Word
  point : List Word
deriving DecidableEq, Repr

/-- A STAGE or VERIFY that runs (R490): which, its slot, and the import buffer as it stood when STAGE acted. -/
structure KeyRun where
  verify : Bool
  slot : Nat
  buf : List Word
deriving DecidableEq, Repr

/-- The key store and the tamper monitor beside their registers and tables: the staged key of each slot that holds one, whether a
pending promotion fell into frames that were skipped (R51), the operation that runs; the AON clock in s and ns (R503); whether a
sensor has triggered since the last tick (R502); the image verifications that began with slot 3 ACTIVE (R500). -/
structure KeySt where
  staged : List (Nat × KeyNew)
  promDue : Bool
  run : Option KeyRun
  aonSec : Nat
  aonNs : Nat
  tampDue : Bool
  imgKey : List Nat
deriving DecidableEq, Repr

def KeySt.init : KeySt := { staged := [], promDue := false, run := none, aonSec := 0, aonNs := 0, tampDue := false, imgKey := [] }

/-! ## Twin operation -/

/-- The header of an input record (R456): FRAME_NO, FRAME and EXT, TICK_SEC and TICK_NS, TWIN_EPOCH, OVERFLOW, HANDOVER; and its PLAN and
PLAN_PART sections. -/
structure RecHdr where
  fno : Nat
  frame : Nat
  ext : Bool
  sec : Nat
  ns : Nat
  epoch : Nat
  overflow : Bool
  handover : Bool
  plan : PlanSec
  priv : List PrivVerdict
deriving DecidableEq, Repr

/-- What the last heartbeat of the partner said (R451). -/
structure PartnerHb where
  mstate : Nat
  recOk : Bool
  instep : Bool
  eligible : Bool
  joining : Bool
  fno : Nat
  epoch : Nat
  health : Word
deriving DecidableEq, Repr

/-- Twin operation beside its registers and tables. Records: `run`, the one executed in this frame; `recs`, complete records not yet
executed; `exec`, the last frame executed, `execSec` and `execLast` the second of its hyperframe and the highest frame of that
hyperframe executed; `stored`, bytes in the replay store (R476). Heartbeats and beacons: `on`, this module
sends them; the partner's last; of the running tick and the one before: received on the link, on the tether, a good one (R463), a
beacon seen in time (R454); `ticks` since heartbeats began; `seen`, a beacon since start-up. Failure (R463 to R465): `declared`;
ISOLATED raised for the declaration; the isolation check passed. Step (R461, R473): INSTEP, whether a digest has agreed since the
last join, digests of this module and of the partner by FRAME_NO; JOINING and its F; the frame since which the partner has been
out of step (R474); a join that starts at the next tick; whether both modules run the same images. The active module's record: closed
in this frame, closed in the last, ticks in a row without one (R462); a planned switch acts (R470). ISOLATED, COLD, PARTNER_LOST.
Commands for the next tick: a park control (R521), a split (R468). Self-tests (R471): the failed ones, whether TEST_CLR waits, the
last outcomes; frames in a row that each output has differed; the runs of each compared input, and for an input that failed the agreeing
checks since. TX_NS and RX_NS of the next heartbeat on port T (R451). The
frame's digest content: GSP messages, CAN frames. FRAME_HI (R456); the meter saves and baselines are kept elsewhere. `scrub`, an
MRAM scrub pass runs (R542). -/
structure TwinSt where
  run : Option RecHdr
  recs : List RecHdr
  exec : Option Nat
  execSec : Nat
  execLast : Nat
  stored : Nat
  on : Bool
  hb : Option PartnerHb
  link : Bool
  tether : Bool
  good : Bool
  goodPrev : Bool
  any : Bool
  anyPrev : Bool
  beacon : Bool
  beaconPrev : Bool
  ticks : Nat
  seen : Bool
  declared : Bool
  isoRaised : Bool
  passed : Bool
  instep : Bool
  agreed : Bool
  mine : List (Nat × Nat)
  theirs : List (Nat × Nat)
  joining : Bool
  joinF : Option Nat
  joinAt : Option Nat
  leftAt : Option Nat
  same : Bool
  replayed : Bool
  closed : Bool
  closedPrev : Bool
  notClosed : Nat
  handover : Bool
  isolated : Bool
  cold : Bool
  lost : Bool
  control : Option Nat
  split : Bool
  failed : List Nat
  clr : Bool
  scrubOk : Bool
  rbOk : Bool
  loopOk : Bool
  plausOk : Bool
  rbRun : List (Nat × Nat)
  plausRun : List (Nat × Nat)
  plausAgree : List (Nat × Nat)
  txNs : Nat
  rxNs : Nat
  msgs : List GspTx
  cans : List (Nat × Nat × List Byte)
  fhi : Nat
  scrub : Bool
deriving DecidableEq, Repr

/-- Twin operation at start-up. -/
def TwinSt.init : TwinSt :=
  { run := none, recs := [], exec := none, execSec := 0, execLast := 0, stored := 0, on := false, hb := none, link := false, tether := false,
    good := false, goodPrev := false, any := false, anyPrev := false, beacon := false, beaconPrev := false, ticks := 0,
    seen := false, declared := false, isoRaised := false, passed := false, instep := false, agreed := false, mine := [],
    theirs := [], joining := false, joinF := none, joinAt := none, leftAt := none, same := true, replayed := false,
    closed := false, closedPrev := true, notClosed := 0, handover := false, isolated := false, cold := false, lost := false,
    control := none, split := false, failed := [], clr := false, scrubOk := true, rbOk := true, loopOk := true,
    plausOk := true, rbRun := [], plausRun := [], plausAgree := [], txNs := 0, rxNs := 0, msgs := [], cans := [], fhi := 0, scrub := false }

/-- What the digest of a frame is taken over (R460): the back buffers of the mailboxes closed in the frame, the GSP messages built,
the CAN frames captured, the commanded states of the local outputs at the frame's end. -/
structure DigestIn where
  mbx : List (Nat × List Item)
  gsp : List (List Byte × List (Nat × List Byte))
  can : List (Nat × Nat × List Byte)
  outs : List Nat
deriving DecidableEq, Repr

/-- What a segment of a snapshot holds (R475), or a state that a replay ends in: registers and table words that differ from their
reset values, and the parts of the state that it covers. -/
structure SegData where
  regs : SMap
  tbl : SMap
  mbx : Option (List Mbx)
  met : Option MetSt
  metSave : Option MetSave
  lnch : Option (List LnchArm)
  snet : Option SnetSt
  can : Option (List CanSt)
  priv : Option PrivSt
  model : Option ModelSt
  loop : Option LoopEng
  cpe : Option (List CpeSt)
  cpeNv : Option (List RetNv)
  host : Option HostSt
  icu : Option IcuSt
  opt : Option OptSt
  keys : Option (List (Nat × KeyNew))
  fhi : Option Nat
deriving DecidableEq, Repr

/-- A segment with nothing in it. -/
def SegData.empty : SegData :=
  { regs := [], tbl := [], mbx := none, met := none, metSave := none, lnch := none, snet := none, can := none, priv := none,
    model := none, loop := none, cpe := none, cpeNv := none, host := none, icu := none, opt := none, keys := none, fhi := none }


end Sys2Proof.Machine
end

