-- ==== Sys2Proof/Syntax.lean ====
section
/-! DEFINITION. The commands of the block: one constructor for each row of the table of operations and events, with the
operands a command carries and the values an event observes (a measured sample, the contents of a received message, the
outcome of a check whose arithmetic the spec leaves to cryptography or to an unstated solver). -/

namespace Sys2Proof

/-- A KWP REQUEST datagram as it is checked under R423: the port (0 H1, 1 H2), whether it came to a service address, the
SESSION and SEQ of its header, its REQ_ID, whether step 1's checks of the header hold, and whether the GCM tag verifies. -/
structure Kwp where
  port : Nat
  svc : Bool
  ses : Nat
  seq : Nat
  reqId : Nat
  fmtOk : Bool
  tagOk : Bool
deriving DecidableEq, Repr

/-- A KWP OPEN datagram (R425): port, service address, SEQ, header checks, tag, CRED and H_NONCE, the D_NONCE the
controller picks, and the session key in use is derived from them. -/
structure KwpOpen where
  port : Nat
  svc : Bool
  seq : Nat
  fmtOk : Bool
  tagOk : Bool
  cred : Nat
  hNonce : Nat
  dNonce : Nat
deriving DecidableEq, Repr

/-- How an engine stood at the deadline of an entry: whether it acknowledged the stop within 1 µs (R96), and how many parts of the activity
were complete. -/
structure Stopped where
  acked : Bool
  done : Nat
deriving DecidableEq, Repr

/-- What an Announce says beside its clockClass and grandmasterIdentity: grandmasterPriority1, clockAccuracy, offsetScaledLogVariance,
grandmasterPriority2, stepsRemoved and the sender's identity; `qual`: the sender is a qualified foreign master; `cal`: the port has been
calibrated on it. -/
structure PtpData where
  p1 : Nat
  acc : Nat
  var : Nat
  p2 : Nat
  steps : Nat
  src : Nat
  qual : Bool
  cal : Bool
deriving DecidableEq, Repr

/-- What port A or B has seen since the last tick (R245): whether the far end reports a remote fault, the frames with a wrong frame check
sequence and those dropped for lack of buffer, and the readings of its SFP module: SFP_ID, SFP_MON and SFP_POWER. -/
structure PortObs where
  remote : Bool
  crc : Nat
  drop : Nat
  sfpId : Nat
  sfpMon : Word
  sfpPower : Word
deriving DecidableEq, Repr

/-- What the module measures at a tick: supply voltage in mV, hold-up store in mV, input power in mW, TCXO and board
temperature in 0.01 °C, the loop current of the four analogue outputs in µA, and the output lines whose read-back differs from their state,
bits 7..0 solid-state outputs and 11..8 trip pairs (R526, R527, R311, R309). On a standby module (R471): outputs whose own driver is not
passive, and outputs whose line differs from the commanded state beyond its limit, bits 7..0 solid-state, 11..8 analogue, 15..12 PWM;
and the plausibility checks made at the tick, as (input, difference): 0 to 31 ADC channels with the difference of means in codes, 32
on digital and 48 on fast inputs with 1 for a difference. `ports`: what ports A and B have seen, in this order; empty, nothing new.
`viol`: accesses of engines' firmware in the frame that ended which the crossbar or the MRAM controller refused, as (engine, address). `tamper`: the sensors of R501 that are triggered. -/
structure Meas where
  vin : Nat
  ballast : Nat
  power : Nat
  tcxoTemp : Word
  boardTemp : Word
  aoutUa : List Nat
  rbDiff : Nat
  drivers : Nat
  lineDiff : Nat
  plaus : List (Nat × Nat)
  ports : List PortObs
  viol : List (Nat × Word)
  tamper : Nat
deriving DecidableEq, Repr

/-- A GSP datagram as ports A and B receive it (R204): the port of the copy that arrives first (0 A, 1 B), whether the second
copy arrives on the other port (R201), whether the frame carries the other LAN's identifier (R245), the UDP port it came to; its header
fields; whether the GCM tag verifies under the key that KEY names (R206), and the nonce with which its sender sealed it (R207), under which
alone it does; the receive timestamp of the first copy; and the decrypted payload. -/
structure Gsp where
  port : Nat
  second : Bool
  wrongLan : Bool
  dport : Nat
  version : Nat
  typ : Nat
  flags : Nat
  node : Nat
  seq : Nat
  epoch : Nat
  length : Nat
  group : Nat
  gen : Nat
  nk : Bool
  launchSec : Nat
  launchNs : Nat
  tagOk : Bool
  nonce : List Byte
  rxSec : Nat
  rxNs : Nat
  payload : List Byte
deriving DecidableEq, Repr

/-- A CAN frame that a port receives without error (R247): port (0 C, 1 D), IDE, FDF, BRS, ESI, whether it is a remote frame, identifier,
data bytes, and the LT64 of its start of frame. -/
structure CanFrame where
  port : Nat
  ide : Bool
  fdf : Bool
  brs : Bool
  esi : Bool
  remote : Bool
  id : Nat
  data : List Byte
  sofSec : Nat
  sofNs : Nat
deriving DecidableEq, Repr

/-- A bus error that a port detects (R266, R271, R272): the error of CANx_LEC (1 stuff, 2 form, 3 acknowledge, 4 bit 1, 5 bit 0,
6 CRC); for a frame of its own the pending frame (0 to 63 a message object, 64 the reference, 65 the privileged message);
whether the error fell into the data field, after arbitration was won; the identifier, 0 if arbitration was not complete; and
how often dominant bits during or after the error flag add 8 to the error counter under ISO 11898-1. -/
structure CanErr where
  port : Nat
  kind : Nat
  own : Option Nat
  inData : Bool
  id : Nat
  dom : Nat
deriving DecidableEq, Repr
/-- What is observed of one execution of a task's block code (R380): the task (0 to 4, or 8 to 15), its duration in ns, the instants in ns into
the frame of the GO writes of its privileged requests in order, and the instant of those not named. -/
structure CpeRun where
  task : Nat
  ns : Nat
  gos : List Nat
  goAt : Nat
deriving DecidableEq, Repr

/-- A heartbeat of the partner as this module receives it (R451 to R453): the path (0 port T, 1 tether), its delay in ns from the tick
at which it was sent, whether its CRC is correct, its fields, EXEC_FNO and DIGEST; with twin link time, the instants t1 to t4 of R453 in
ns; and whether both modules run the same firmware and configuration images by check word (R474). -/
structure Heartbeat where
  path : Nat
  ns : Nat
  crcOk : Bool
  mstate : Nat
  recOk : Bool
  instep : Bool
  eligible : Bool
  joining : Bool
  fno : Nat
  epoch : Nat
  health : Word
  digest : Nat
  execFno : Nat
  timed : Bool
  t1 : Int
  t2 : Int
  t3 : Int
  t4 : Int
  same : Bool
deriving DecidableEq, Repr

/-- An input record as the standby module receives it (R456): its header, LENGTH, TIME_STAT of its TIME section, and whether its CRC and
tag verify. The other sections are the rows of what they hold: on a standby module an event of a port, a window or an owner's
write is the one that the record in execution holds (R459). -/
structure InRec where
  hdr : Machine.RecHdr
  len : Nat
  timeStat : Word
  ok : Bool
deriving DecidableEq, Repr

/-- A frame beacon (R454): its delay in ns from the tick, whether its CRC is correct, serial number, FRAME_NO, TWIN_EPOCH. -/
structure Beacon where
  port : Nat
  ns : Nat
  crcOk : Bool
  serial : Nat
  fno : Nat
  epoch : Nat
deriving DecidableEq, Repr

/-- What the verification of a configuration bank observes (R513): whether the check words and the signature verify, what the rules of
the pages refuse beyond what the bank's own words show, as CFG_VFY_SUB and CFG_VFY_REC, and the byte offset that a failure names. -/
structure CfgObs where
  crc : Bool
  sig : Bool
  content : Option (Word × Word)
  off : Nat
deriving DecidableEq, Repr

/-- What a start-up observes (R516): whether the frangible trace reads broken at step 2, whether firmware banks A and B verify, whether
the self-test passes, the verification of configuration banks A and B, and the ends of steps 2 to 9 in ms. -/
structure BootObs where
  trace : Bool
  fwA : Bool
  fwB : Bool
  selfTest : Bool
  a : CfgObs
  b : CfgObs
  ms : List Nat
deriving DecidableEq, Repr

/-- What role negotiation learns of the partner (R519, R498): whether both its signatures verify, the first 8 bytes of the SHA-384 of its
identity point as the PAIR section writes them, its order code and its serial number. -/
structure NegObs where
  sigs : Bool
  finger : Nat
  order : Nat
  serial : Nat
deriving DecidableEq, Repr
/-- The commands and events of the block, in the order of the table of operations and events. -/
inductive Instr where
  /-- FRAME_TICK (R69): The timebase produces the frame tick at each frame start: mailboxes swap, host writes take effect, windows close and the next frame table starts. -/
  | frameTick (m : Meas)
  /-- NOP (R80): A NOP frame table entry does nothing. -/
  | nop (unit : Nat)
  /-- END (R77): An END entry ends the frame table for the frame. -/
  | endEntry
  /-- PUBLISH (R29): A PUBLISH entry closes a mailbox, first copying the front buffer into the back buffer when COPY is 1. -/
  | publish (mb : Nat) (copy : Bool)
  /-- SNAP (R80): A SNAP entry writes an event-recorder snapshot record under its event code. -/
  | snap (code : Nat)
  /-- LAUNCH_ARM (R120): A LAUNCH_ARM entry arms a launch comparator with its latched time and action. -/
  | launchArm (arg : Nat) (ns : Nat)
  /-- ADC_SEL (R297): An ADC_SEL entry selects a converter's input for its next conversion. -/
  | adcSel (conv : Nat) (arg : Nat) (ns : Nat)
  /-- ADC_TRIG (R298): An ADC_TRIG entry triggers the masked converters together after DELAY. -/
  | adcTrig (arg : Nat) (ns : Nat)
  /-- MOD_LATCH (R319): A MOD_LATCH entry latches the decimated modulator samples of the masked metering points. -/
  | modLatch (arg : Nat) (samples : List (List (List Int))) (invalid : Nat)
  /-- EMET_CLOSE (R322): An EMET_CLOSE entry processes a point's latched samples into energy registers and forms window results when due. -/
  | emetClose (arg : Nat)
  /-- HMET_CLOSE (R332): An HMET_CLOSE entry forms a thermal point's volume and heat increments and classifies them into registers. -/
  | hmetClose (arg : Nat) (ns : Nat)
  /-- LOOP_GROUP (R348): A LOOP_GROUP entry runs the covered due loops in order and then the low-select of their groups. -/
  | loopGroup (arg : Nat)
  /-- CPE_TASK (R380): A CPE_TASK entry runs one execution of a cyclic task, or the error and event tasks for task 4. -/
  | cpeTask (unit : Nat) (arg : Nat) (runs : List CpeRun)
  /-- MODEL_HYD (R142): A MODEL_HYD entry solves a circuit's hydraulics and determines its critical differential pressure. -/
  | modelHyd (arg : Nat)
  /-- MODEL_THM (R144): A MODEL_THM entry advances a circuit's parcels by one transport step and forms its mass balance. -/
  | modelThm (arg : Nat)
  /-- MODEL_ARR (R152): A MODEL_ARR entry refreshes the arrival records of one part with delays, shares and predicted profiles. -/
  | modelArr (arg : Nat)
  /-- ARR_PART_STALE (R156): A part not refreshed within 1,000 frames is marked STALE. -/
  | arrPartStale (part : Nat)
  /-- LEAK_DETECT (R158): The LEAK bit of a circuit is set or cleared after its mean balance has stayed above or below LEAK_THR for LEAK_TIME. -/
  | leakDetect (c : Nat)
  /-- GSP_TX (R220): A GSP_TX entry sends a node's control message and SUB_CMD in its command slot on ports A and B. -/
  | gspTx (arg : Nat) (ns : Nat)
  /-- GSP_RXCLOSE (R222): A GSP_RXCLOSE entry closes a node's report window and writes its image. -/
  | gspRxclose (arg : Nat) (ns : Nat)
  /-- NODE_SILENT (R223): An admitted node whose MISS reaches 3 becomes SILENT and its values are substituted. -/
  | nodeSilent (n : Nat)
  /-- NODE_LOST (R224): A silent node whose MISS reaches 50 becomes LOST and SNET_LOST_CNT increments. -/
  | nodeLost (n : Nat)
  /-- CAN_REF (R261): A CAN_REF entry queues the basic cycle's reference message and evaluates the port's stations. -/
  | canRef (arg : Nat)
  /-- STN_DROP (R274): A station whose MISS reaches DROP_CYC in MISSING enters DROPPED, and each binding CPE queues an error record. -/
  | stnDrop (port : Nat) (stn : Nat)
  /-- CAN_TX (R260): A CAN_TX entry captures a message object's data and marks it pending. -/
  | canTx (arg : Nat)
  /-- TWIN_REC (R455): A TWIN_REC entry closes the frame's input record and runs the setpoint publisher. -/
  | twinRec (len : Nat)
  /-- ENTRY_DEADLINE (R95): An engine activity not acknowledged by its deadline is stopped, later PUBLISH entries are skipped and OVERRUN is recorded. -/
  | entryDeadline (unit : Nat) (entry : Nat) (acked : Stopped)
  /-- ENGINE_LOST (R41): An engine that misses its acknowledgement for 3 consecutive entries raises ENGINE_LOST and the module enters FAULT. -/
  | engineLost (e : Nat)
  /-- TIMED_COMMIT (R50): A pending page commit copies the page's shadow to its active registers at its chosen tick. -/
  | timedCommit (page : Nat)
  /-- SEQ_BANK_SWITCH (R93): A pending sequence bank switch exchanges the banks at the tick that starts a hyperframe. -/
  | seqBankSwitch
  /-- MODEL_BANK_SWITCH (R139): A pending model bank switch takes effect at the tick that starts a hyperframe, keeping unchanged parcels and pressures. -/
  | modelBankSwitch
  /-- OPT_BANK_SWITCH (R172): A pending asset bank switch takes effect at a hyperframe start and abandons a running solve with code BANK. -/
  | optBankSwitch
  /-- CPE_BANK_SWITCH (R394): A pending program switch migrates instance data in the switch frame and runs the new image from the next frame. -/
  | cpeBankSwitch (p : Nat)
  /-- KWP_OPEN (R425): An OPEN datagram under a credential key opens a session and is answered with OPEN_ACK. -/
  | kwpOpen (o : KwpOpen)
  /-- SESSION_OPENING_TIMEOUT (R425): A session still opening 2,000 ms after its OPEN_ACK is freed without an event. -/
  | sessionOpeningTimeout (ses : Nat)
  /-- SESSION_IDLE_TIMEOUT (R426): A session without an accepted datagram for SESS_IDLE seconds closes. -/
  | sessionIdleTimeout (ses : Nat)
  /-- DORMANCY_TIMEOUT (R443): A dormant session closes DORM_MAX seconds after DORMANT unless RESUME arrives first. -/
  | dormancyTimeout (ses : Nat)
  /-- READ (R428): A KWP READ returns one register word. -/
  | read (k : Kwp) (addr : Nat)
  /-- WRITE (R47): A KWP WRITE from the owner writes one register word, taking effect at a tick by its access type. -/
  | write (k : Kwp) (addr : Nat) (v : Word)
  /-- READ_BLOCK (R62): A KWP READ_BLOCK returns up to 256 consecutive words of one page within one frame. -/
  | readBlock (k : Kwp) (addr : Nat) (cnt : Nat)
  /-- WRITE_BLOCK (R47): A KWP WRITE_BLOCK from the owner writes up to 256 consecutive words of one page. -/
  | writeBlock (k : Kwp) (addr : Nat) (ws : List Word)
  /-- TABLE_READ (R66): A KWP TABLE_READ returns up to 64 records of a table. -/
  | tableRead (k : Kwp) (tid : Nat) (cnt : Nat) (idx : Nat)
  /-- TABLE_WRITE (R66): A KWP TABLE_WRITE from the owner writes one record of a table at one tick or word by word. -/
  | tableWrite (k : Kwp) (tid : Nat) (idx : Nat) (ws : List Word)
  /-- CANCEL (R433): The CMD CANCEL withdraws a command of the same session that has not yet acted. -/
  | cancel (k : Kwp) (tag : Nat) (args : List Word)
  /-- SOLVE (R193): The CMD SOLVE starts a dispatch solve at the first tick after it acts. -/
  | solve (k : Kwp) (tag : Nat) (args : List Word)
  /-- ABORT (R194): The CMD ABORT ends a running solve if it acts before the commit point. -/
  | abort (k : Kwp) (tag : Nat) (args : List Word)
  /-- PRIV_REQ (R281): The CMD PRIV_REQ submits a privileged request from the owner, admitted at the tick at which it acts. -/
  | privReq (k : Kwp) (tag : Nat) (args : List Word)
  /-- CQ_READ (R431): CQ_READ returns and removes the oldest completion records of the session. -/
  | cqRead (k : Kwp) (maxN : Nat)
  /-- NOTIFY_CFG (R434): NOTIFY_CFG sets the session's moderation and page mask and restarts the moderation timer. -/
  | notifyCfg (k : Kwp) (cnt : Nat) (dly : Nat) (mask : Nat) (us : Nat)
  /-- OWN_REQ (R438): OWN_REQ requests ownership, resolved at the next tick by election or pre-emption. -/
  | ownReq (k : Kwp) (prio : Nat) (ovr : Nat)
  /-- OWNERSHIP_RESOLVE (R442): At a tick the controller applies closings, releases, lapses, pre-emptions, handovers and then the election. -/
  | ownershipResolve
  /-- OWN_RENEW (R439): OWN_RENEW renews the owner's lease at its tick. -/
  | ownRenew (k : Kwp)
  /-- OWN_HANDOVER (R440): OWN_HANDOVER passes ownership to another session at its tick. -/
  | ownHandover (k : Kwp) (dst : Nat)
  /-- OWN_RELEASE (R440): OWN_RELEASE ends ownership at its tick. -/
  | ownRelease (k : Kwp)
  /-- LEASE_LAPSED (R439): An owner's lease lapses 2,000 ms after its grant or last renewal, ending ownership. -/
  | leaseLapsed
  /-- DORMANT (R443): DORMANT makes the session dormant, holding its notifications. -/
  | dormant (k : Kwp) (sev : Nat) (mac : Nat)
  /-- RESUME (R444): RESUME ends dormancy with one aggregate notification. -/
  | resume (k : Kwp) (us : Nat)
  /-- CLOSE (R426): CLOSE ends the session after its response. -/
  | closeReq (k : Kwp)
  /-- NOTIFY_SEND (R434): A NOTIFY leaves when pending items reach MOD_CNT or the oldest has waited MOD_DLY. -/
  | notifySend (ses : Nat) (us : Nat)
  /-- WAKE_ON_LAN (R445): A held event item of sufficient severity on a dormant session sends a Wake-on-LAN magic packet. -/
  | wakeOnLan (ses : Nat)
  /-- KICK (R426): The owner's KICK closes the session named in HOST_CMD_ARG. -/
  | kick (writer : Nat)
  /-- REGISTER_WRITE (R47): A host write to a register without a row of its own takes effect by its access type at a tick. -/
  | registerWrite (addr : Nat) (v : Word)
  /-- SRST (R55): A soft reset returns a page's block registers to the image values and clears its kind S and E counters at the next tick. -/
  | srst (page : Nat)
  /-- FREEZE (R54): PG_CTRL.FREEZE holds the visible copy of a page's RO block registers. -/
  | freeze (page : Nat) (on : Bool)
  /-- FRZ_TMO (R54): The controller clears a FREEZE held for 1,000 frames and raises FRZ_TMO. -/
  | frzTmo (page : Nat)
  /-- COMMIT (R50): A write of COMMIT to PG_COMMIT requests a commit of the page's shadow, now or at AT_FRAME. -/
  | commit (page : Nat) (v : Word)
  /-- DISCARD (R51): A write of DISCARD reloads the shadow from the active values and cancels a pending commit. -/
  | discard (page : Nat)
  /-- PG_EVT_SET (R57): PG_EVT_SET raises the written event bits for test. -/
  | pgEvtSet (page : Nat) (v : Word)
  /-- PG_EVT_CLR (R58): PG_EVT_CLR clears pending event bits at the next tick. -/
  | pgEvtClr (page : Nat) (v : Word)
  /-- PG_MASK_SET (R57): PG_MASK_SET masks event bits from the page summary source. -/
  | pgMaskSet (page : Nat) (v : Word)
  /-- PG_MASK_CLR (R57): PG_MASK_CLR unmasks event bits and signals the summary source for a pending one. -/
  | pgMaskClr (page : Nat) (v : Word)
  /-- COUNTER_CLEAR (R60): A write to a counter clear field resets the named kind S or E counter and its flag. -/
  | counterClear (addr : Nat) (v : Word)
  /-- SEQ_VERIFY (R92): SEQ_CMD.VERIFY starts verification of the inactive sequence bank. -/
  | seqVerify
  /-- SEQ_VERIFY_END (R90): Sequence bank verification ends with VFY_DONE or VFY_FAIL and its failure code. -/
  | seqVerifyEnd
  /-- SEQ_SWITCH (R92): SEQ_CMD.SWITCH requests a switch to the verified inactive sequence bank. -/
  | seqSwitch
  /-- SEQ_CANCEL (R92): SEQ_CMD.CANCEL withdraws a pending sequence bank switch. -/
  | seqCancel
  /-- PTP_SYNC_RX (R113): A Sync with its Follow_Up yields an offset that the servo applies or refuses. -/
  | ptpSyncRx (port : Nat) (domain : Nat) (master : Int) (rx : Int)
  /-- PTP_ANNOUNCE_RX (R107): An Announce message is used by the best master clock algorithm of its port pair. -/
  | ptpAnnounceRx (port : Nat) (domain : Nat) (cls : Nat) (gmLo : Word) (gmHi : Word) (bmca : PtpData)
  /-- PTP_PDELAY_EXCHANGE (R108): A peer-delay exchange on a port measures its mean link delay. -/
  | ptpPdelayExchange (port : Nat) (domain : Nat) (t1 : Int) (t2 : Int) (t3 : Int) (t4 : Int)
  /-- PPS_EDGE (R111): A rising 1PPS edge yields an offset measurement. -/
  | ppsEdge (edge : Int)
  /-- TOD_SENTENCE_RX (R111): A ZDA time-of-day sentence names the TAI second of a 1PPS edge. -/
  | todSentenceRx (utc : Nat) (crcOk : Bool)
  /-- SOURCE_INVALID (R105): A selected time source stops being valid and the highest-ranked valid source is selected at once. -/
  | sourceInvalid
  /-- SOURCE_UPGRADE (R105): A higher-ranked source valid for 10 s continuously replaces the selected source. -/
  | sourceUpgrade
  /-- INIT_SET (R106): The first measured offset sets the clock at the next tick while EVER_SYNC is 0 and INIT_SET_EN is 1. -/
  | initSet
  /-- STEP_ACCEPT (R116): TIME_CMD.STEP_ACCEPT accepts a step while offsets are refused. -/
  | stepAccept
  /-- STEP_APPLIED (R116): An accepted step is applied at the next tick, adjusting frames under R73. -/
  | stepApplied
  /-- RELEARN (R114): TIME_CMD.RELEARN clears frequency learning. -/
  | relearn
  /-- CLR_CNT (R125): TIME_CMD.CLR_CNT clears every TIME counter of kind S and its flag. -/
  | clrCnt
  /-- LEARN_MINUTE (R114): Each 60,000 frames a learning or holdover minute is counted and the learned frequency updated. -/
  | learnMinute (tempOk : Bool)
  /-- ARM (R120): LNCH_STAT.ARM arms a launch comparator at the tick. -/
  | arm (n : Nat)
  /-- DISARM (R123): LNCH_STAT.DISARM ends a comparator's arming at the tick. -/
  | disarm (n : Nat)
  /-- LAUNCH_FIRE (R121): An armed comparator whose launch time becomes due performs its action and signals its interrupt source. -/
  | launchFire (n : Nat)
  /-- PARCEL_RESET (R147): MODEL_CMD.PARCEL_RESET restarts all parcels. -/
  | parcelReset
  /-- ADAPT_RESET (R160): MODEL_CMD.ADAPT_RESET returns every factor to its initial value. -/
  | adaptReset
  /-- MODEL_VERIFY (R137): MODEL_CMD.VERIFY starts verification of the inactive model bank. -/
  | modelVerify
  /-- MODEL_VERIFY_END (R137): Model bank verification ends with VFY_DONE or VFY_FAIL. -/
  | modelVerifyEnd
  /-- MODEL_SWITCH (R137): MODEL_CMD.SWITCH requests a switch to the verified model bank. -/
  | modelSwitch
  /-- MODEL_CANCEL (R137): MODEL_CMD.CANCEL withdraws a pending model bank switch. -/
  | modelCancel
  /-- PERIODIC_SOLVE_START (R183): A solve starts at the tick of each TAI second matching PERIOD and PHASE, or is skipped while one runs. -/
  | periodicSolveStart
  /-- SOLVE_END (R184): A solve finishes its stages, or ends as infeasible, not converged or numeric. -/
  | solveEnd (r : Nat)
  /-- SOLVE_DEADLINE (R186): A solve not finished 45 s after its start ends with code DEADLINE. -/
  | solveDeadline
  /-- PLAN_PUB (R37): The bridge publishes a finished plan at the first tick after it finishes, the solve's commit point. -/
  | planPub
  /-- BRIDGE_SNAPSHOT_COPY (R34): In the frame after a snapshot mailbox is published the bridge copies it into DRAM. -/
  | bridgeSnapshotCopy (mb : Nat)
  /-- PLAN_SHIFT (R188): At each step boundary without publication the plan in force shifts by one step. -/
  | planShift
  /-- FALLBACK_AGE_EXPIRE (R190): When the plan's age exceeds OPT_FALLBACK_AGE dispatch enters fallback. -/
  | fallbackAgeExpire
  /-- FALLBACK (R190): OPT_CMD.FALLBACK makes dispatch follow the default schedule. -/
  | fallback
  /-- OPT_VERIFY (R172): OPT_CMD.VERIFY starts verification of the inactive asset bank. -/
  | optVerify
  /-- OPT_VERIFY_END (R172): Asset bank verification ends with VFY_DONE or VFY_FAIL. -/
  | optVerifyEnd
  /-- OPT_SWITCH (R172): OPT_CMD.SWITCH requests a switch to the verified asset bank. -/
  | optSwitch
  /-- OPT_CANCEL (R172): OPT_CMD.CANCEL withdraws a pending asset bank switch. -/
  | optCancel
  /-- ECC_UNCORR (R39): An uncorrected DRAM error fails the running solve. -/
  | eccUncorr
  /-- SUB_HELLO_RX (R233): A SUB_HELLO from a node is accepted and answered with ADMIT in its next command slot. -/
  | subHelloRx (g : Gsp)
  /-- SUB_REPORT_RX (R219): A SUB_REPORT is checked and held for the node's report window. -/
  | subReportRx (g : Gsp)
  /-- SUB_STATE_RX (R235): A SUB_STATE is checked against the node's meter baseline and accepts its state. -/
  | subStateRx (g : Gsp)
  /-- SUB_ACK_RX (R239): A node's SUB_ACK acknowledges installation of a group key. -/
  | subAckRx (g : Gsp)
  /-- SUB_PRIV_ACK_RX (R285): A SUB_PRIV_ACK delivers a class 2 privileged request. -/
  | subPrivAckRx (g : Gsp)
  /-- LAUNCH_QUEUE_EXPIRE (R228): An acknowledged timed entry is removed from the launch queue when its launch time passes. -/
  | launchQueueExpire (e : Nat) (ns : Nat)
  /-- NODE_ACCEPT (R235): SNET_CMD.NODE_ACCEPT accepts a node's decreased meter registers as its new baseline. -/
  | nodeAccept
  /-- NODE_RESET (R237): SNET_CMD.NODE_RESET returns a node to INIT and discards its queue entries. -/
  | nodeReset
  /-- NODE_CLR (R244): SNET_CMD.NODE_CLR clears a node's counters. -/
  | nodeClr
  /-- REKEY (R239): SNET_CMD.REKEY starts distribution of a group's next key generation. -/
  | rekey
  /-- REKEY_SWITCH (R239): At the switch instant S the controller sends under the new group key generation. -/
  | rekeySwitch (g : Nat)
  /-- REKEY_OVERLAP_END (R240): Two substation cycles after S only the new generation is accepted. -/
  | rekeyOverlapEnd (g : Nat)
  /-- LINK_DOWN (R245): A port's link goes down and reception and transmission stop. -/
  | linkDown (port : Nat)
  /-- LINK_UP (R245): A port's link comes up and traffic resumes. -/
  | linkUp (port : Nat)
  /-- SFP_FAULT (R245): An SFP reports TX fault or loss of signal, or is removed. -/
  | sfpFault (port : Nat) (txFault : Bool) (los : Bool) (removed : Bool)
  /-- CAN_FRAME_RX (R259): A received CAN frame is matched against the receive objects and written to the image mailbox. -/
  | canFrameRx (f : CanFrame)
  /-- CAN_PRIV_ACK_RX (R270): A station's privileged acknowledgement frame ends a class 3 request. -/
  | canPrivAckRx (f : CanFrame)
  /-- CAN_FRAME_TX_DONE (R260): A pending frame wins arbitration and is sent, clearing its pending state. -/
  | canFrameTxDone (port : Nat) (item : Nat) (sofSec : Nat) (sofNs : Nat) (edges : List Nat) (ns : Nat)
  /-- CAN_ERROR (R266): A detected bus error updates the error counters and ERR_RUN. -/
  | canError (e : CanErr)
  /-- ERR_PASSIVE (R266): A port whose error counter reaches 128 enters error-passive. -/
  | errPassive (port : Nat)
  /-- BUS_OFF (R267): A port whose transmit error counter exceeds 255 goes bus-off and a pending privileged message moves. -/
  | busOff (port : Nat)
  /-- BOFF_RECOVERED (R267): After 128 recessive sequences a bus-off port recovers and sends its pending objects. -/
  | boffRecovered (port : Nat)
  /-- ID_CLASH (R271): An object whose ERR_RUN reaches 3 is stopped and ID_CLASH is raised. -/
  | idClash (port : Nat) (item : Nat)
  /-- ID_CLASH_SUSPECT (R272): Three received frames of one identifier ended by data-field errors raise ID_CLASH_SUSPECT. -/
  | idClashSuspect (port : Nat) (id : Nat)
  /-- SLEEP (R264): CANx_CMD.SLEEP puts the port to sleep at its tick. -/
  | sleep (port : Nat)
  /-- WAKE (R265): CANx_CMD.WAKE wakes a sleeping port. -/
  | wake (port : Nat)
  /-- BUS_WAKE (R265): A dominant level or matching wake frame on the bus wakes a sleeping port. -/
  | busWake (port : Nat) (domNs : Nat) (f : Option CanFrame)
  /-- STN_RESET (R274): CANx_CMD.STN_RESET returns a station to INIT and clears its DROPS. -/
  | stnReset (port : Nat)
  /-- FAST_INPUT_EDGE (R308): An edge of a privileged fast input passes the 40 ns filter and signals its interrupt source. -/
  | fastInputEdge (inp : Nat) (rising : Bool)
  /-- PRIV_ARM (R290): PRIV_CMD.ARM arms a reflex channel. -/
  | privArm
  /-- PRIV_DISARM (R290): PRIV_CMD.DISARM disarms a reflex channel. -/
  | privDisarm
  /-- RESET_TRIP (R290): PRIV_CMD.RESET_TRIP clears a reflex channel's latch when its input is inactive. -/
  | resetTrip
  /-- PRIV_RELEASE (R285): An accepted network request is released on its path no later than its bound B. -/
  | privRelease (ch : Nat) (seq : Nat) (ns : Nat)
  /-- PRIV_RETX (R285): A class 2 request unacknowledged after PRIV_GSP_RETX is sent again. -/
  | privRetx (ch : Nat) (seq : Nat) (ns : Nat)
  /-- PRIV_REQUEST_END (R285): A network request still outstanding at t_a plus PROMISE_US ends with its outcome. -/
  | privRequestEnd (ch : Nat) (seq : Nat) (ns : Nat)
  /-- PRIV_BREACH (R294): A breach of a privileged promise is recorded and the module enters FAULT. -/
  | privBreach (kind : Nat) (ch : Nat) (seq : Nat) (ns : Nat)
  /-- ADC_TIMER_TRIGGER (R298): An ADC timer fires at the tick plus multiples of its PERIOD and triggers conversions. -/
  | adcTimerTrigger (k : Nat) (ns : Nat)
  /-- PWM_COMPARE_TRIGGER (R298): A PWM output's compare event triggers conversions after its delay. -/
  | pwmCompareTrigger (k : Nat) (ns : Nat)
  /-- ADC_CONVERSION_END (R304): A conversion ends and is added to its channel's accumulator, or clamped and settled. -/
  | adcConversionEnd (conv : Nat) (code : Int) (ns : Nat)
  /-- DI_EDGE (R307): A filtered digital input edge advances its pulse counter and signals its interrupt source. -/
  | diEdge (inp : Nat) (rising : Bool)
  /-- OVERCURRENT (R309): A solid-state output above 0.7 A for 100 µs is switched off and latches OC. -/
  | overcurrent (o : Nat)
  /-- READBACK (R309): An output read-back differing from its intended state for 1 ms raises READBACK. -/
  | readback (o : Nat)
  /-- OPEN (R311): An analogue output current below 90 % for 10 ms sets OPEN. -/
  | openLoop (a : Nat)
  /-- DIO_DO_SET (R309): DIO_DO_SET sets the CMD bits of host-driven outputs. -/
  | dioDoSet (v : Word)
  /-- DIO_DO_CLR (R309): DIO_DO_CLR clears the CMD bits of host-driven outputs. -/
  | dioDoClr (v : Word)
  /-- DIO_OC_CLR (R309): DIO_OC_CLR clears overcurrent latches. -/
  | dioOcClr (v : Word)
  /-- METER_SAVE (R339): At the tick of frame 500 the meter registers are saved to alternate MRAM slots. -/
  | meterSave
  /-- RETAIN_SAVE (R392): At the tick of frame 500 the RETAIN variables are saved to alternate MRAM slots. -/
  | retainSave
  /-- RESTORE_ACK (R340): EMET_CMD.RESTORE_ACK ends the BAD quality of unrestored energy registers. -/
  | restoreAck
  /-- POWER_FAIL (R341): A supply below 7 V for 200 µs declares power fail, sheds loads and starts the hold-up sequence. -/
  | powerFail (ns : Nat) (shedUs : Nat)
  /-- PF_SNAPSHOT (R341): At the first tick at or after PF plus 12 ms the registers are snapshotted and the last-gasp and tail records committed. -/
  | pfSnapshot (commit : Nat) (ok : Bool)
  /-- POWER_RESTORED (R343): A supply back at 8 V for 10 ms before the snapshot ends the power fail and restores loads. -/
  | powerRestored (ns : Nat)
  /-- OVERVOLT (R529): A supply above 60 V raises OVERVOLT, and protection disconnects it beyond its limits. -/
  | overvolt (mv : Nat)
  /-- BALLAST_LOW (R531): A hold-up store below 68 V for 10 ms clears BALLAST_OK. -/
  | ballastLow (mv : Nat)
  /-- LOCK_LOST (R23): Loss of a clock or its lock takes the consequence for that domain. -/
  | lockLost (d : Nat)
  /-- LOCK_REGAINED (R23): A derived clock regains lock and its subsystem resumes. -/
  | lockRegained (d : Nat)
  /-- TUNE (R363): LOOP_CMD.TUNE starts a relay test on a loop. -/
  | tune
  /-- TUNE_TIMEOUT (R365): A relay test running TMO seconds aborts with reason 2. -/
  | tuneTimeout
  /-- TUNE_ABORT (R365): LOOP_CMD.TUNE_ABORT aborts a running relay test. -/
  | tuneAbort
  /-- APPLY_PROP (R366): LOOP_CMD.APPLY_PROP copies a completed proposal into the loop's coefficients. -/
  | applyProp
  /-- LOOP_HOLD_SET (R362): LOOP_HOLD_SET sets HOLD of loops. -/
  | loopHoldSet (k : Nat) (v : Word)
  /-- LOOP_HOLD_CLR (R362): LOOP_HOLD_CLR clears HOLD of loops. -/
  | loopHoldClr (k : Nat) (v : Word)
  /-- CPE_VERIFY (R393): CPEx_CMD.VERIFY starts verification of the inactive program bank. -/
  | cpeVerify (p : Nat)
  /-- CPE_VERIFY_END (R393): Program bank verification ends with VFY_DONE or VFY_FAIL and the migration worst case. -/
  | cpeVerifyEnd (p : Nat) (sigOk : Bool)
  /-- CPE_SWITCH (R394): CPEx_CMD.SWITCH requests a switch to the verified program bank at AT_FRAME. -/
  | cpeSwitch (p : Nat)
  /-- CPE_CANCEL (R396): CPEx_CMD.CANCEL withdraws a pending program switch without an event. -/
  | cpeCancel (p : Nat)
  /-- CLR_FORCES (R391): CPEx_CMD.CLR_FORCES clears ENABLE in every force record. -/
  | clrForces (p : Nat)
  /-- ICU_DOORBELL (R400): A write to ICU_DOORBELL signals an interrupt source. -/
  | icuDoorbell (eng : Option Nat) (src : Nat)
  /-- ICU_EN_SET (R400): ICU_EN_SET enables a source. -/
  | icuEnSet (eng : Option Nat) (src : Nat)
  /-- ICU_EN_CLR (R400): ICU_EN_CLR disables a source and clears its PENDING. -/
  | icuEnClr (eng : Option Nat) (src : Nat)
  /-- ICU_MASK_SET (R406): ICU_MASK_SET masks a source and withdraws an unclaimed presentation. -/
  | icuMaskSet (eng : Option Nat) (src : Nat)
  /-- ICU_MASK_CLR (R400): ICU_MASK_CLR unmasks a source. -/
  | icuMaskClr (eng : Option Nat) (src : Nat)
  /-- ICU_PEND_SET (R400): ICU_PEND_SET sets a source pending as a signal. -/
  | icuPendSet (eng : Option Nat) (src : Nat)
  /-- ICU_PEND_CLR (R400): ICU_PEND_CLR clears a source's PENDING. -/
  | icuPendClr (eng : Option Nat) (src : Nat)
  /-- ICU_CLAIM (R403): A read of ICU_CLAIM_t claims the presented source and pushes it onto the target's stack. -/
  | icuClaim (t : Nat)
  /-- ICU_EOI (R404): A write to ICU_EOI_t completes the top source or freezes the stack on a mismatch. -/
  | icuEoi (t : Nat) (src : Nat)
  /-- ICU_STACK_RESET (R405): A write to ICU_STACK_RESET_t empties the target's stack and clears FAULT. -/
  | icuStackReset (t : Nat)
  /-- EVR_RECORD_COMMIT (R409): E11 commits up to 64 queued events per frame to the recorder, with summaries where due. -/
  | evrRecordCommit
  /-- EVR_TOKEN_REFILL (R410): A code's bucket gains one token each PERIOD frames while below BURST. -/
  | evrTokenRefill (idx : Nat)
  /-- EVR_FREEZE (R414): EVR_CMD.FREEZE stops admission to the recorder. -/
  | evrFreeze
  /-- UNFREEZE (R414): EVR_CMD.UNFREEZE ends the recorder freeze. -/
  | unfreeze
  /-- CLEAR (R414): EVR_CMD.CLEAR empties the frozen recorder. -/
  | evrClear
  /-- CLR_SUPP (R411): EVR_CMD.CLR_SUPP clears the suppression counts of every code. -/
  | clrSupp
  /-- FRZ_EXPIRED (R415): A recorder freeze held FRZ_TMO seconds ends and raises FRZ_EXPIRED. -/
  | frzExpired
  /-- HEARTBEAT_RX (R452): A partner heartbeat arrives on port T or the tether and is checked. -/
  | heartbeatRx (h : Heartbeat)
  /-- HEARTBEAT_MISS (R452): A heartbeat not received within 100 µs after its tick counts as missing. -/
  | heartbeatMiss (path : Nat)
  /-- PARTNER_LOST (R463): The active module misses 2 partner heartbeats or sees it in FAULT or PARKED and continues alone. -/
  | partnerLost
  /-- FAILURE_DECLARE (R463): The standby declares the active module failed 100 µs after two consecutive missed ticks. -/
  | failureDeclare
  /-- ISOLATION_CHECK (R464): By ISO_WIN after the tick the standby checks for beacons before taking over. -/
  | isolationCheck
  /-- TAKEOVER (R465): An eligible standby takes over at the next tick, increments TWIN_EPOCH and drives outputs. -/
  | takeover
  /-- TWIN_COLD (R480): A standby that is not eligible takes over cold with COLD_TAKEOVER at 1. -/
  | twinCold
  /-- INPUT_RECORD_RX (R459): The standby receives and verifies an input record and executes it in its next frame. -/
  | inputRecordRx (r : InRec)
  /-- REC_LOST (R461): A record still incomplete 2 frames after its due tick makes the standby lose step. -/
  | recLost
  /-- RECORD_NOT_CLOSED (R462): An active module that has not closed a record at 2 consecutive ticks enters FAULT. -/
  | recordNotClosed
  /-- BEACON_RX (R454): A frame beacon of another module is seen on port A or B. -/
  | beaconRx (b : Beacon)
  /-- TWIN_SWITCH (R470): TWIN_CMD.SWITCH hands the active role to an eligible partner. -/
  | twinSwitch
  /-- TWIN_JOIN (R474): TWIN_CMD.JOIN starts a join of the standby partner. -/
  | twinJoin
  /-- JOIN_START (R474): With AUTO_JOIN the active module starts a join JOIN_HOLD seconds after the partner left step. -/
  | joinStart
  /-- SEGMENT_COMMIT (R475): A copy segment verifies at the standby and is committed, or is sent again. -/
  | segmentCommit (seg : Nat) (ok : Bool) (size : Nat) (crc : Word) (d : Machine.SegData)
  /-- REPLAY_END (R476): With all segments committed the standby loads the snapshot and replays the stored records. -/
  | replayEnd (d : Machine.SegData)
  /-- JOIN_DONE (R477): A join completes at the first digest that agrees after replay. -/
  | joinDone
  /-- JOIN_TIMEOUT (R477): A join not complete COPY_MAX seconds after F fails with code 4. -/
  | joinTimeout
  /-- ABANDON (R477): TWIN_CMD.ABANDON ends a running join with code 7. -/
  | abandon
  /-- PARK_CONTROL_RX (R521): A park control frame on port T parks or unparks the partner at its next tick. -/
  | parkControlRx (cmd : Nat) (serial : Nat) (crcOk : Bool)
  /-- PARK (R521): DEV_CMD.PARK parks the standby partner. -/
  | park
  /-- UNPARK (R521): DEV_CMD.UNPARK releases the parked partner. -/
  | unpark
  /-- UNPARK_DISCARD (R521): DEV_CMD.UNPARK_DISCARD releases the parked partner with its state discarded. -/
  | unparkDiscard
  /-- TEST_CLR (R471): HLTH_CMD.TEST_CLR clears the latched TEST_FAIL once the test passes. -/
  | testClr
  /-- SRAM_SCRUB_PASS (R471): A completed SRAM scrub pass reports corrected and uncorrected errors. -/
  | sramScrubPass (corr : Nat) (uncorr : Nat)
  /-- DRAM_SCRUB_PASS (R471): A completed DRAM scrub pass on the standby reports uncorrected errors. -/
  | dramScrubPass (uncorr : Nat)
  /-- PORT_LOOPBACK_TEST (R471): Every 1 s the standby loops a test frame inside each port MAC. -/
  | portLoopbackTest (fail : Nat)
  /-- PLAUS_FAIL (R471): A masked input differing from the record for 10 consecutive checks raises PLAUS_FAIL. -/
  | plausFail (inp : Nat)
  /-- MRAM_SCRUB_START (R542): A yearly scrub pass of the MRAM and flash starts at the first tick in RUN that is due. -/
  | mramScrubStart
  /-- MRAM_SCRUB_END (R542): A scrub pass ends, records HLTH_MRAM_SCRUB and raises SCRUB_CORR or SCRUB_UNCORR. -/
  | mramScrubEnd (corr : Nat) (uncorr : Nat)
  /-- KEY_STAGE (R493): KEY_CMD.STAGE unwraps the import buffer into a slot's current key or successor. -/
  | keyStage
  /-- KEY_STAGE_END (R491): A STAGE finishes, zeroes the import buffer and raises OP_DONE or OP_FAIL. -/
  | keyStageEnd (tagOk : Bool) (pointOk : Bool) (kcv : Word)
  /-- KEY_VERIFY (R494): KEY_CMD.VERIFY checks a staged key. -/
  | keyVerify
  /-- KEY_VERIFY_END (R491): A key VERIFY finishes with VERIFIED or OP_FAIL. -/
  | keyVerifyEnd (pointOk : Bool) (sigOk : Bool)
  /-- PROMOTE (R490): KEY_CMD.PROMOTE schedules a verified key to become ACTIVE. -/
  | promote
  /-- PROMOTED (R496): At its tick a promotion replaces the current key and re-derives the keys below it. -/
  | promoted
  /-- KEY_CANCEL (R490): KEY_CMD.CANCEL discards a staged key and withdraws its pending promotion. -/
  | keyCancel
  /-- KEY_REVOKE (R495): KEY_CMD.REVOKE revokes a slot and every key derived below it. -/
  | keyRevoke
  /-- KEY_ERASE (R490): KEY_CMD.ERASE destroys a slot's material and returns it to EMPTY. -/
  | keyErase
  /-- TAMPER (R502): A tamper sensor triggers, zeroises key material, blows a fuse and logs the event. -/
  | tamper (sensors : Nat) (ns : Nat)
  /-- POWER_GOOD (R516): Power good starts the start-up sequence from step 2 to role negotiation. -/
  | powerGood (o : BootObs)
  /-- ROLE_NEGOTIATION (R519): At each tick of step 9 the module takes its role from the partner's heartbeats. -/
  | roleNegotiation (o : NegObs)
  /-- NEG_WAIT_EXPIRE (R519): With no partner heartbeat at the end of NEG_WAIT the module becomes active alone. -/
  | negWaitExpire
  /-- BOOT_DONE (R516): Substation admission ends at ADMIT_FRAC or ADMIT_WAIT and the module enters RUN. -/
  | bootDone
  /-- FAULT_RESTART (R522): A module in FAULT restarts after FAULT_RESTART seconds unless it has faulted 3 times in an hour. -/
  | faultRestart
  /-- CFG_VERIFY (R512): CFG_CMD.VERIFY starts verification of the inactive configuration bank. -/
  | cfgVerify
  /-- CFG_VERIFY_END (R513): Configuration bank verification ends with VFY_DONE or VFY_FAIL. -/
  | cfgVerifyEnd (o : CfgObs)
  /-- CFG_SWITCH (R512): CFG_CMD.SWITCH makes the verified inactive bank the boot bank. -/
  | cfgSwitch
  /-- CFG_CANCEL (R512): CFG_CMD.CANCEL withdraws a pending configuration switch. -/
  | cfgCancel
  /-- RESTART (R523): CFG_CMD.RESTART restarts this module, via a planned switch when the partner is eligible. -/
  | restart
  /-- RESTART_PAIR (R523): CFG_CMD.RESTART_PAIR restarts both modules of a pair at one tick. -/
  | restartPair
  /-- ANNOUNCE_RECEIPT_TIMEOUT (R107): A PTP port that receives no Announce within the announce receipt timeout leaves its BMCA state. -/
  | announceReceiptTimeout (port : Nat)
  /-- PTP_SYNC_TX (R107): A port pair acting as master sends a two-step Sync and Follow_Up at each logSyncInterval. -/
  | ptpSyncTx (port : Nat)
  /-- PTP_ANNOUNCE_TX (R110): A port pair acting as master sends an Announce with clockClass taken from the time quality at each logAnnounceInterval. -/
  | ptpAnnounceTx (port : Nat)
  /-- PRP_SUPERVISION_FRAME (R200): Ports A and B send a PRP supervision frame every 2,000 ms. -/
  | prpSupervisionFrame
  /-- CAN_INTEGRATED (R254): A plant-bus port that is integrating sees 11 recessive bits and enters its mode of R248. -/
  | canIntegrated (port : Nat)
  /-- OPEN_CLEARED (R311): OPEN of an analogue output clears when its loop current recovers. -/
  | openCleared (a : Nat)
  /-- METER_SAVE_VERIFY (R339): A meter save's MRAM write is verified within 2 ms, and a failure raises SAVE_FAIL so the next save goes to the same slot. -/
  | meterSaveVerify (ok : Bool)
  /-- DRAM_CORRECTED_ERROR (R39): A corrected DRAM error increments OPT_ECC_CORR. -/
  | dramCorrectedError
  /-- NODE_BASELINE_SAVE (R235): Once a minute the last accepted meter registers of every node are saved to MRAM. -/
  | nodeBaselineSave
  /-- UNDERVOLT (R526): A supply below UV_WARN sets PWR_STAT.UV and raises UNDERVOLT. -/
  | undervolt (mv : Nat)
deriving DecidableEq, Repr

end Sys2Proof
end

