-- ==== Sys2Proof/Machine/Flags.lean ====
section
/-! DEFINITION. Status bytes and their quality (R11). -/

namespace Sys2Proof.Machine

/-- The quality of a status byte: bits 2..0. -/
def qual (st : Nat) : Nat := st % 8
def GOOD : Nat := 0
def ESTIM : Nat := 1
def SUBST : Nat := 2
def STALEQ : Nat := 3
def FORCED : Nat := 4
def BAD : Nat := 5
def INITQ : Nat := 6

/-- LATE, OVR and SETTLE of a status byte. -/
def stLATE : Nat := 8
def stOVR : Nat := 16
def stSETTLE : Nat := 32

/-- A status byte with another quality. -/
def withQual (st q : Nat) : Nat := st - st % 8 + q

/-- What a reader takes from a STALE mailbox: STALE in place of GOOD, ESTIM or SUBST (R30). -/
def staleSt (st : Nat) : Nat := if qual st < 3 then withQual st STALEQ else st

/-- An item is usable when its quality is GOOD, ESTIM, SUBST, STALE or FORCED (R129). -/
def usableSt (st : Nat) : Bool := decide (qual st ≤ 4)

/-- The worse of two qualities: the higher code, as R11 orders GOOD, ESTIM, SUBST, STALE, FORCED, BAD, INIT. -/
def worseQ (a b : Nat) : Nat := max a b

end Sys2Proof.Machine
end

