-- ==== Sys2Proof/Machine/State.lean ====
section
/-! DEFINITION. The state of the DN-2048: the faults and refusals of a step, what leaves the block, and State with its reset. -/

namespace Sys2Proof.Machine

/-- A step of this model never stops with a fault: a block answers commands, and a clause that turns one away gives it
a status (R429) or no effect. Raised by nobody. -/
inductive Fault where
deriving DecidableEq, Repr

/-- No meaning for a command. `notModelled` is raised by an arm of the dispatch whose command has no meaning yet (safe:
the model stops where the hardware goes on). -/
inductive Refusal where
  | notModelled (mnemonic : String)
deriving DecidableEq, Repr

/-! ## What leaves the block -/

/-- A message or an answer that leaves the block. -/
inductive OutMsg where
  /-- a KWP RESPONSE of a session, with its SEQ (R421, R427) -/
  | resp (ses seq : Nat) (r : Resp)
  /-- an OPEN_ACK, of SEQ 0: STATUS, SESSION, H_NONCE, D_NONCE, ADDR_KIND (R425) -/
  | openAck (status : Status) (ses hNonce dNonce kind : Nat)
  /-- a NOTIFY: session, SEQ, NSEQ, AGGREGATE, CODES_LOST, CQ_N, HOST_SRC, FNO, codes (R421, R435) -/
  | notify (ses seq nseq : Nat) (aggregate lost : Bool) (cqN src fno : Nat) (codes : List Nat)
  /-- a Wake-on-LAN magic packet (R445) -/
  | wol (ses mac : Nat)
  /-- a gratuitous ARP, or an unsolicited neighbour advertisement where `ip6`, for the service address of a port (R420) -/
  | arp (port : Nat) (ip6 : Bool)
  /-- the value that a claim of a target returned (R403) -/
  | claimed (t : Nat) (v : Word)
  /-- a two-step Sync with its Follow_Up from a PTP port (R107), with the sequence number of its PRP trailer on ports A and B (R200) -/
  | ptpSync (port : Nat) (prp : Option Nat)
  /-- an Announce from a PTP port: clockClass, clockAccuracy, currentUtcOffset, timeSource (R110), and its PRP trailer -/
  | ptpAnnounce (port cls acc utc src : Nat) (prp : Option Nat)
  /-- a GSP message (R204) -/
  | gsp (m : GspTx)
  /-- a PRP supervision frame on a port, with the sequence number of its trailer (R200) -/
  | prpSup (port prp : Nat)
  /-- a CAN frame: port, which pending frame it was, IDE, FDF, BRS, ESI, identifier, data (R247, R260, R261, R270) -/
  | can (port item : Nat) (ide fdf brs esi : Bool) (id : Nat) (data : List Byte)
  /-- a heartbeat on port T (0) or the tether (1): MSTATE, FLAGS, FRAME_NO, TWIN_EPOCH, HEALTH, DIGEST, EXEC_FNO, TX_NS, RX_NS,
  TICK_SEC (R451) -/
  | heartbeat (path mstate flags fno epoch : Nat) (health : Word) (digest execFno txNs rxNs sec : Nat)
  /-- a frame beacon on port A (0) or B (1): FRAME_NO, TWIN_EPOCH, serial number (R454), and the sequence number of its PRP trailer (R200) -/
  | beacon (port fno epoch serial prp : Nat)
  /-- an input record: its header, LENGTH, and FRAME_HI of its nonce, whose other parts are TWIN_EPOCH and FRAME_NO (R456) -/
  | record_ (h : RecHdr) (len fhi : Nat)
  /-- the HANDOVER mark of the record of a frame (R470) -/
  | handover (fno : Nat)
  /-- a park control frame on port T: CMD and the partner's serial number (R521) -/
  | parkControl (cmd serial : Nat)
deriving DecidableEq, Repr

/-- The state of the block. -/
structure State where
  /-- the register space, by byte address (R43) -/
  regs : SMap
  /-- the copy of the RO block registers that readers see: taken at each tick, held while FREEZE (R54, R62) -/
  vis : SMap
  /-- the shadow words of RWS registers written and not yet applied (R50) -/
  shadow : SMap
  /-- the records of every table, by table key (R65) -/
  tbl : SMap
  /-- the shadow words of RWS table records (R50, R66) -/
  tshadow : SMap
  /-- pages frozen, with the FRAME_NO at which FREEZE took effect (R54) -/
  frzFrom : List (Nat × Nat)
  /-- pages whose timed commit fell into skipped frames and is due at the next hyperframe entry (R51) -/
  commitDue : List Nat
  /-- the exchange area (R28) -/
  mbx : List Mbx
  /-- sessions and ownership -/
  host : HostSt
  /-- stacks and presentations (R402) -/
  icu : IcuSt
  /-- the recorder -/
  evr : EvrSt
  /-- the frame sequencer beside its registers -/
  seq : SeqSt
  /-- CPE0 and CPE1 beside their registers -/
  cpe : List CpeSt
  /-- the timebase beside its registers -/
  time : TimeSt
  /-- the network model engine beside its registers -/
  model : ModelSt
  /-- the dispatch optimiser beside its registers -/
  opt : OptSt
  /-- the substation network beside its registers and tables -/
  snet : SnetSt
  /-- ports C and D beside their registers and tables -/
  can : List CanSt
  /-- digital inputs, outputs, trips and reflex channels beside their registers -/
  dio : DioSt
  /-- the ADC subsystem beside its registers -/
  adc : AdcSt
  /-- what the armed launch comparators have latched (R120) -/
  lnch : List LnchArm
  /-- the privileged channels beside their registers and tables -/
  priv : PrivSt
  /-- the metering engine beside its registers and tables -/
  met : MetSt
  /-- the meter saves in the MRAM (R339, R341) -/
  metNv : MetNv
  /-- the power-fail sequence (R341) -/
  pwr : PwrSt
  /-- the saves of the RETAIN variables in the MRAM (R392) -/
  cpeNv : List RetNv
  /-- the loop engine beside its registers and tables -/
  loop : LoopEng
  /-- twin operation beside its registers and tables -/
  twin : TwinSt
  /-- the segments committed in the running join (R475) -/
  segs : List (Nat × SegData)
  /-- the key store and the tamper monitor beside their registers and tables -/
  keys : KeySt
  /-- the running configuration -/
  cfg : CfgSt
  /-- module state -/
  dev : DevSt
  /-- what the block has sent on its ports, and the values it has answered, since the last tick (the model's own) -/
  sent : List OutMsg
  /-- which free value is used next (the model's own) -/
  free : Nat
  /-- commands waiting, first in first out (the model's own) -/
  pending : List Instr
deriving DecidableEq, Repr

/-- The machine right after power-up: every register at the reset value of its page map, every table cleared, nothing
waiting (R53, R510). -/
def State.reset : State where
  regs := []
  vis := []
  shadow := []
  tbl := []
  tshadow := []
  frzFrom := []
  commitDue := []
  mbx := []
  host := { sess := List.replicate 8 Sess.free, nonces := [], queue := [], ownQ := [], owner := none, prio := 0, leaseAt := 0, closing := false, endNext := false, cmds := [], xferQ := [], authRaised := false, opens := 0 }
  icu := { stack := List.replicate 13 [], pres := List.replicate 13 0, fresh := [], early := false }
  evr := { intake := [], gains := [], lostRun := false, frzAt := 0 }
  seq := { started := false, lastRun := 0, frames := 0, entry := 0, trunc := false, ext := false, ended := false, skip := [], ovr := [], missed := List.replicate 12 0, hfStart := false, hfSec := 0, pos := 0 }
  cpe := List.replicate 2 CpeSt.empty
  time := TimeSt.init
  model := ModelSt.init
  opt := OptSt.init
  snet := SnetSt.init
  can := List.replicate 2 CanSt.init
  dio := DioSt.init
  adc := AdcSt.init
  lnch := []
  priv := PrivSt.init
  met := MetSt.init
  metNv := { a := none, b := none, gasp := none, next := 0, tail := none }
  pwr := { pfAt := none, done := false }
  cpeNv := List.replicate 2 { a := none, b := none, next := 0 }
  loop := LoopEng.init
  twin := TwinSt.init
  segs := []
  keys := KeySt.init
  cfg := { init := [], privComp := 0, pair := false, serials := [], cpeRef := [] }
  dev := { faults := [], faultAt := 0, restartNext := false, restart := none, negFrom := 0, admitFrom := 0, recovery := false }
  sent := []
  free := 0
  pending := []

end Sys2Proof.Machine
end

