-- ==== Sys2Proof/Config.lean ====
section
/-! DEFINITION. What an implementation fixes and the spec does not give (factory values), and the FREE VALUES: constants
without a body, so that nothing can be proved of them but what holds for every value. -/

namespace Sys2Proof.Config

/-- The value fixed in the factory, in the firmware image or by fuses of the register at an address (page maps: "Factory",
"Firmware", "Fuses"). -/
opaque factory : Nat → Word

/-- FW_TGT of a doorbell source 0x200 to 0x2FF: the engine to which the firmware directs it (R401), fixed by the firmware
image and given nowhere. -/
opaque fwTarget : Nat → BitVec 4

/-- PG_STAT.STATE of a page at the n-th read that shows it, modulo 5: the spec names the codes 0 to 4 and does not say when a block is
in which. -/
opaque pgState : Nat → Nat → Nat

/-- Whether an event bit of a page is one of the error events that PG_STAT.ERR shows: the spec does not list them. -/
opaque errorEvent : Nat → Nat → Bool

/-- The module's PTP clockIdentity and the offsetScaledLogVariance of its clock, which IEEE 1588 wants and the spec does not give (R107). -/
opaque ptpIdentity : Nat
opaque ptpVariance : Nat

/-- How many ns after its tick a heartbeat leaves port T: R451 bounds it by 2 µs and gives no value. -/
opaque hbEgress : Nat → Nat

/-- The words of the public keys that the factory put into records 0 to 2 of the public key table (R486). -/
opaque pubKey : Nat → Nat → Word

/-- Whether the n-th inexact conversion to an integer register whose rounding the spec does not state goes up. -/
opaque roundUp : Nat → Bool

/-- The servo's correction, in ppt, when KP or KI is not a finite number (R113 gives none). -/
opaque servoNonfinite : Word → Word → Int → Int

/-- The mailbox and the first item that a configuration image gives a part of the controller: the spec says that the image
names them (R150, R344) and its layout (R509) does not show where. -/
opaque mbxRole : Nat → Word → Nat
opaque mbxItem : Nat → Nat → Word → Nat

/-- The address in the exchange area of an item of a mailbox, as HLTH_XBAR_ADDR shows it (R24, R33): the spec gives no layout. -/
opaque mbxAddr : Nat → Nat → Word

/-! The arithmetic of the engines whose number format the spec does not state. A number is an integer that stands for a
value in that unknown format; nothing is known of these operations, so what is proved holds in any arithmetic. -/

opaque numInt : Int → Int
opaque numF32 : Word → Int
opaque numAdd : Int → Int → Int
opaque numSub : Int → Int → Int
opaque numMul : Int → Int → Int
opaque numDiv : Int → Int → Int
opaque numSqrt : Int → Int
opaque numExp : Int → Int
opaque numLog10 : Int → Int
opaque numPow : Int → Int → Int
opaque numLe : Int → Int → Bool
/-- The number as binary32, and as the nearest integer. -/
opaque numToF32 : Int → Word
opaque numToInt : Int → Int

/-- The number at which a rising function takes a value, and the slope of its inverse there. -/
opaque numInvert : (Int → Int) → Int → Int
opaque numInvSlope : (Int → Int) → Int → Int

/-- The solution of a linear system of equations. -/
opaque numSolve : List (List Int) → List Int → List Int

/-- The planned import of a grid point in the n-th publication of setpoints in fallback: the default schedule holds none (R171, R195). -/
opaque fallbackImport : Nat → Word

/-- The density of water (kg/m³) and its specific enthalpy, at a temperature in °C and a pressure in Pa: IAPWS-IF97, which
R333 names and does not restate. -/
opaque waterRho : Int → Int → Int
opaque waterH : Int → Int → Int

/-- The worst case, in ns, that model verification computes from a circuit's sizes (R138 gives no formula): hydraulic solve,
transport step, arrival part. Arguments: which, segments, junctions, other branches or nodes. -/
opaque modelWc : Nat → Nat → Nat → Nat → Nat

/-- The temperature (°C) at which a segment starts when no outlet or return temperature of its circuit has ever been usable, the length in
ms of a circuit's first thermal step, and the SHARE of a node on or downstream of a loop of flow: R147, R144 and R153 state none. -/
opaque segStart : Nat → Int
opaque thmFirst : Nat → Fin 1001
opaque loopShare : Nat → Fin 1001

/-- How many substeps, less one, the prediction of R154 takes in a minute: the rule states what it assumes and no step. -/
opaque predictSub : Nat

/-- The supply temperature (°C) that the prediction of R154 takes for a circuit past the two steps of the plan slice. -/
opaque beyondSlice : Nat → Nat → Int

/-- A binary64 parameter (its 64 bits) as a number, and a number as binary64. -/
opaque numF64 : Nat → Int
opaque numToF64 : Int → Nat

/-- The solver of R184, whose scaling, penalty and start the spec does not give: the n-th iterate of stage 1 or 3 of a solve with its
inputs and fixed commitments; whether a value of it is not finite or the factorisation failed; whether it meets the primal
infeasibility certificate to OPT_TOL; the group kind and asset whose constraints carry the largest residual. Each is a function of
the solve's inputs, so equal inputs give equal plans (R36, R185). -/
opaque optIterate : Machine.SolveIn → Nat → List (Nat × Int) → Nat → List (Nat × Int)
opaque optNumeric : Machine.SolveIn → Nat → List (Nat × Int) → Nat → Bool
opaque optCert : Machine.SolveIn → Nat → List (Nat × Int) → Nat → Bool
opaque optWorst : Machine.SolveIn → Nat → List (Nat × Int) → Nat → Nat × Nat

/-- A solution with which the objective of an iterate is compared: any at all, so what the model says of a published plan holds against
every other solution (R182). -/
opaque optRival : Machine.SolveIn → Nat → List (Nat × Int) → Nat → List (Nat × Int)

/-- The hot-layer fraction at which a solve starts a store whose SOC is not usable while no plan is in force: the default schedule,
which R178 names, holds none. -/
opaque socStart : Nat → Int

/-- Two numbers agree in order to the relative tolerance OPT_TOL (R184 does not say how residuals are scaled). -/
opaque optLe : Word → Int → Int → Bool

/-- The least-squares coefficients of rows of regressors on measured values (R176). -/
opaque numLsq : List (List Int) → List Int → List Int

/-- OPT_CON_N: constraints of a bank with this many variables (R199 gives no formula). -/
opaque optConN : Nat → Nat

/-- The receive error counter after an error-free reception when it stood above 127: 119 and this, up to 127 (ISO 11898-1
leaves the value to the implementation). -/
opaque canRec : Nat → BitVec 3

/-- How many recessive sequences a bus-off port has seen between two ticks: the line decides. -/
opaque boffSeen : Nat → Nat

/-- EXC_CAL of an ADC channel, fixed in the factory (R301). -/
opaque adcExc : Nat → BitVec 12

/-- The temperature in °C at which an RTD of R0 ohms reads R ohms, and the slope dT/dR there: the solution of R305 with the
coefficients of IEC 60751, which R305 names and does not restate. -/
opaque rtdTemp : Nat → Int → Int
opaque rtdSlope : Nat → Int → Int

/-- The reactive energy in W·s of the last n samples of a phase, from the voltages and currents of the last 160 (R322: the voltage
through a 90° all-pass filter whose coefficients the spec does not give). -/
opaque emetReactive : List Int → List Int → Nat → Int

/-- The frequency in Hz by interpolated zero crossings, and the angle in degrees of a voltage behind U1 at a frequency (R325 names
the methods and not the arithmetic). -/
opaque emetFreq : List Int → Int
opaque emetAngle : List Int → List Int → Int → Int

/-- atan2 in degrees, and the greatest integer not above a number. -/
opaque numAtan2 : Int → Int → Int
opaque numFloor : Int → Int

/-- The material of the key in a slot with a GEN and a KCV: secret. -/
opaque keyMaterial : Nat → Word → Word → List Byte

/-- The key that NIST SP 800-108 in counter mode with HMAC-SHA-256 derives from a key, a label and a context, and byte i of a key under AES key
wrap (RFC 3394): functions of secret keys (R238, R215). -/
opaque kdf : List Byte → List Byte → List Byte → List Byte
opaque aesWrap : List Byte → List Byte → Nat → Byte

/-- KCV and GEN of the n-th key that the key store derives by itself (R487, R496, R498): the KCV is a value of a secret key, and no
rule gives GEN. -/
opaque derivedKcv : Nat → Word
opaque derivedGen : Nat → Word

/-- The cached keys below a slot, in CHILD_N at the n-th read (R506): the spec does not say when the cache holds a key. -/
opaque cachedKeys : Nat → Nat → Nat

/-- Which of the LEDs that flash are lit at a tick (R538 gives the rate, not the phase), and those for which R538 names no state. -/
opaque ledLit : Nat → Nat

/-- The payload of the NaN of an invalid operation, and the result of minimum and maximum where an operand is a NaN: IEEE 754 leaves them
open. Arguments: whether the greater is asked for, and the operands. -/
opaque nanPayload32 : BitVec 22
opaque nanPayload64 : BitVec 51
opaque nanMinMax : Bool → BitVec 64 → BitVec 64 → BitVec 64

/-- Block code (R374, R375), whose numbers the spec does not give: the operation of a class and an OP; whether a relative offset counts from
the instruction's own word (0) or from the next (1); the stack bytes of one call of a block; a shift by the operand's width or more;
and a conversion of a NaN to an integer. -/
opaque cpeOp : Nat → Nat → Option Machine.CpeOp
opaque cpeFrom : Fin 2
opaque cpeFrame : Nat → Nat
opaque cpeShift : Machine.IntFn → Nat → Nat → Nat → BitVec 64
opaque cpeNanInt : Machine.NumTy → BitVec 64

/-- The outputs of PRIV_STATUS for a channel, and of STN_STATE for a station, that does not exist (R385): code, input, output. -/
opaque blkOpen : Nat → Nat → Nat → Nat

/-- How many instruction words an engine executes in a number of ns; the bytes that images of so many input and output bindings take in the
partition (R393); and the worst case in ns of the migration of so many kept variables, INIT variables and bytes (R393, R395). -/
opaque cpeWords : Nat → Nat
opaque cpeImages : Nat → Nat → Nat
opaque migrateWc : Nat → Nat → Nat → Nat

end Sys2Proof.Config
end

