-- ==== Sys2Proof/Machine/PageMap.lean ====
section
/-! DEFINITION. The page map: every register of every page (R43, R44, R53 and the page maps of the chapters), with its
access type (R47), its reset value and the range of its writable fields (R545). Rows are base offset, stride, count,
low bit, width, access, reset value, range. Bits that no row covers are reserved (R46). -/

namespace Sys2Proof.Machine

/-- The access types of R47; `roActs` is an RO register whose read acts (R48). -/
inductive Acc where
  | ro | roActs | rw | rws | w1c | w1s | wo
deriving DecidableEq, Repr

/-- The range of a writable field (R545): any value; `lo` to `hi`; 0 or `lo` to `hi`; signed in `n` bits from −`lo` to
`hi`; the window length of R322 (10 to 1,000, dividing 1,000). -/
inductive Rng where
  | any
  | bt (lo hi : Nat)
  | zor (lo hi : Nat)
  | sbt (n lo hi : Nat)
  | wfr
deriving DecidableEq, Repr

/-- A reset value: a number the page map gives, or a value fixed in the factory, in the firmware or by fuses. -/
inductive Rst where
  | val (n : Nat)
  | factory
deriving DecidableEq, Repr

/-- One field of a page map: `count` registers from `off` in steps of `stride`, bits `lo` to `lo + wid − 1`. -/
structure FieldRow where
  off : Nat
  stride : Nat
  count : Nat
  lo : Nat
  wid : Nat
  acc : Acc
  rst : Rst
  rng : Rng
deriving DecidableEq, Repr

/-- A value satisfies a range (R545). -/
def Rng.ok (r : Rng) (v : Nat) : Bool :=
  match r with
  | .any => true
  | .bt lo hi => decide (lo ≤ v ∧ v ≤ hi)
  | .zor lo hi => decide (v = 0 ∨ (lo ≤ v ∧ v ≤ hi))
  | .sbt n lo hi => decide (-(lo : Int) ≤ signed n v ∧ signed n v ≤ (hi : Int))
  | .wfr => decide (10 ≤ v ∧ v ≤ 1000 ∧ 1000 % v = 0)

/-- The row covers the register at offset `o` of its page. -/
def FieldRow.covers (r : FieldRow) (o : Nat) : Bool :=
  decide (r.off ≤ o ∧ (o - r.off) % r.stride = 0 ∧ (o - r.off) / r.stride < r.count)

/-- What the page table of R44 and a chapter's page map say of a page: its type code, PG_CAP's tables, page events,
soft reset, shadow and register count. -/
structure PageInfo where
  page : Nat
  type : Nat
  nTbl : Nat
  nEvt : Nat
  srst : Bool
  shadow : Bool
  nReg : Nat
deriving DecidableEq, Repr

/-- The pages of R44, with PG_CAP as each page map gives it. -/
def pageInfos : List PageInfo := [
  ⟨0x00, 0x01, 1, 5, false, false, 48⟩,  -- DEV
  ⟨0x01, 0x02, 1, 4, true, false, 40⟩,  -- CFG
  ⟨0x02, 0x03, 0, 5, true, false, 40⟩,  -- PWR
  ⟨0x03, 0x04, 0, 3, false, false, 36⟩,  -- CLK
  ⟨0x04, 0x05, 0, 7, false, true, 72⟩,  -- TIME
  ⟨0x05, 0x06, 0, 3, true, true, 272⟩,  -- LNCH
  ⟨0x06, 0x07, 19, 7, false, false, 64⟩,  -- SEQ
  ⟨0x07, 0x08, 1, 2, false, false, 96⟩,  -- ICU
  ⟨0x08, 0x09, 3, 3, true, false, 80⟩,  -- EVR
  ⟨0x09, 0x0A, 3, 6, false, false, 64⟩,  -- KEY
  ⟨0x0A, 0x0B, 1, 2, false, false, 32⟩,  -- TAMP
  ⟨0x0B, 0x0C, 4, 6, true, true, 96⟩,  -- HOST
  ⟨0x0C, 0x0D, 1, 10, false, false, 80⟩,  -- TWIN
  ⟨0x10, 0x10, 0, 4, true, false, 64⟩,  -- SNA
  ⟨0x11, 0x10, 0, 4, true, false, 64⟩,  -- SNB
  ⟨0x12, 0x11, 4, 8, true, true, 96⟩,  -- SNET
  ⟨0x14, 0x12, 3, 11, true, true, 120⟩,  -- CANC
  ⟨0x15, 0x12, 3, 11, true, true, 120⟩,  -- CAND
  ⟨0x18, 0x13, 2, 4, true, true, 100⟩,  -- ADC
  ⟨0x19, 0x14, 1, 3, true, true, 100⟩,  -- MOD
  ⟨0x1A, 0x15, 4, 4, false, false, 176⟩,  -- EMET
  ⟨0x1B, 0x16, 4, 2, false, false, 208⟩,  -- HMET
  ⟨0x1C, 0x17, 1, 2, true, false, 96⟩,  -- DIO
  ⟨0x1D, 0x18, 1, 2, true, false, 48⟩,  -- AOUT
  ⟨0x20, 0x19, 3, 5, true, false, 64⟩,  -- LOOP
  ⟨0x21, 0x1A, 6, 9, true, false, 64⟩,  -- CPE0
  ⟨0x22, 0x1A, 6, 9, true, false, 64⟩,  -- CPE1
  ⟨0x24, 0x1B, 13, 9, true, false, 96⟩,  -- MODEL
  ⟨0x25, 0x1C, 16, 11, true, false, 96⟩,  -- OPT
  ⟨0x26, 0x1D, 2, 7, false, true, 144⟩,  -- PRIV
  ⟨0x30, 0x1E, 0, 7, false, false, 64⟩  -- HLTH
]

/-- The words of the common page header (R53), except PG_ID and PG_CAP, whose values are each page's own. -/
def rowsHeader : List FieldRow := [
  ⟨0x000, 4, 1, 0, 32, .ro, .val 0, .any⟩,  -- PG_ID
  ⟨0x004, 4, 1, 0, 32, .ro, .val 0, .any⟩,  -- PG_CAP
  ⟨0x008, 4, 1, 2, 1, .rw, .val 0, .any⟩,  -- PG_CTRL.FREEZE
  ⟨0x008, 4, 1, 1, 1, .w1s, .val 0, .any⟩,  -- PG_CTRL.SRST
  ⟨0x008, 4, 1, 0, 1, .rw, .val 0, .any⟩,  -- PG_CTRL.EN
  ⟨0x00C, 4, 1, 16, 16, .ro, .val 0, .any⟩,  -- PG_STAT.ERR_CODE
  ⟨0x00C, 4, 1, 0, 10, .ro, .val 0, .any⟩,  -- PG_STAT.LOCKED to STATE
  ⟨0x010, 4, 1, 0, 32, .ro, .val 0, .any⟩,  -- PG_EVT_PEND
  ⟨0x014, 4, 1, 0, 32, .w1s, .val 0, .any⟩,  -- PG_EVT_SET
  ⟨0x018, 4, 1, 0, 32, .w1c, .val 0, .any⟩,  -- PG_EVT_CLR
  ⟨0x01C, 4, 1, 0, 32, .ro, .val 0xFFFFFFFF, .any⟩,  -- PG_EVT_MASK
  ⟨0x020, 4, 1, 0, 32, .w1s, .val 0, .any⟩,  -- PG_MASK_SET
  ⟨0x024, 4, 1, 0, 32, .w1c, .val 0, .any⟩,  -- PG_MASK_CLR
  ⟨0x028, 4, 1, 31, 1, .w1c, .val 0, .any⟩,  -- PG_EVT_CNT.OVF
  ⟨0x028, 4, 1, 0, 16, .ro, .val 0, .any⟩,  -- PG_EVT_CNT.CNT
  ⟨0x02C, 4, 1, 16, 10, .rw, .val 0, .bt 0 999⟩,  -- PG_COMMIT.AT_FRAME
  ⟨0x02C, 4, 1, 15, 1, .rw, .val 0, .any⟩,  -- PG_COMMIT.AT_EN
  ⟨0x02C, 4, 1, 1, 1, .w1s, .val 0, .any⟩,  -- PG_COMMIT.DISCARD
  ⟨0x02C, 4, 1, 0, 1, .w1s, .val 0, .any⟩,  -- PG_COMMIT.COMMIT
  ⟨0x030, 4, 1, 8, 4, .ro, .val 0xF, .any⟩,  -- PG_LOCK.OWNER
  ⟨0x030, 4, 1, 0, 1, .rw, .val 0, .any⟩  -- PG_LOCK.LOCK
]

/-- Block registers of page 0x00 (DEV), from its page map. -/
def rowsDEV : List FieldRow := [
  ⟨0x040, 4, 1, 16, 16, .ro, .val 0x2048, .any⟩,  -- DEV_ID
  ⟨0x040, 4, 1, 8, 8, .ro, .factory, .any⟩,  -- DEV_ID
  ⟨0x040, 4, 1, 0, 4, .ro, .factory, .any⟩,  -- DEV_ID
  ⟨0x044, 4, 1, 0, 32, .ro, .factory, .any⟩,  -- DEV_SERIAL_LO
  ⟨0x048, 4, 1, 0, 32, .ro, .factory, .any⟩,  -- DEV_SERIAL_HI
  ⟨0x04C, 4, 1, 0, 32, .ro, .factory, .any⟩,  -- DEV_FW_VER
  ⟨0x050, 4, 1, 4, 1, .ro, .val 0, .any⟩,  -- DEV_FW_STAT
  ⟨0x050, 4, 1, 3, 1, .ro, .val 0, .any⟩,  -- DEV_FW_STAT
  ⟨0x050, 4, 1, 2, 1, .ro, .val 0, .any⟩,  -- DEV_FW_STAT
  ⟨0x050, 4, 1, 1, 1, .ro, .val 0, .any⟩,  -- DEV_FW_STAT
  ⟨0x050, 4, 1, 0, 1, .ro, .val 0, .any⟩,  -- DEV_FW_STAT
  ⟨0x054, 4, 1, 28, 4, .ro, .val 0, .any⟩,  -- DEV_STAT
  ⟨0x054, 4, 1, 24, 4, .ro, .val 0, .any⟩,  -- DEV_STAT
  ⟨0x054, 4, 1, 12, 4, .ro, .val 0, .any⟩,  -- DEV_STAT
  ⟨0x054, 4, 1, 11, 1, .ro, .val 0, .any⟩,  -- DEV_STAT
  ⟨0x054, 4, 1, 10, 1, .ro, .val 0, .any⟩,  -- DEV_STAT
  ⟨0x054, 4, 1, 9, 1, .ro, .val 0, .any⟩,  -- DEV_STAT
  ⟨0x054, 4, 1, 8, 1, .ro, .val 0, .any⟩,  -- DEV_STAT
  ⟨0x058, 4, 1, 2, 1, .wo, .val 0, .any⟩,  -- DEV_CMD
  ⟨0x058, 4, 1, 1, 1, .wo, .val 0, .any⟩,  -- DEV_CMD
  ⟨0x058, 4, 1, 0, 1, .wo, .val 0, .any⟩,  -- DEV_CMD
  ⟨0x05C, 4, 1, 8, 4, .ro, .val 0, .any⟩,  -- DEV_FAULT
  ⟨0x05C, 4, 1, 0, 8, .ro, .val 0, .any⟩,  -- DEV_FAULT
  ⟨0x060, 4, 1, 0, 3, .ro, .val 0, .any⟩,  -- DEV_BOOT_CAUSE
  ⟨0x064, 4, 1, 0, 32, .ro, .val 0, .any⟩,  -- DEV_BOOT_CNT
  ⟨0x06C, 4, 11, 0, 16, .ro, .val 0xFFFF, .any⟩,  -- DEV_STEP_MS_k
  ⟨0x098, 4, 1, 0, 16, .rw, .val 0x1E, .any⟩,  -- DEV_FAULT_CFG
  ⟨0x09C, 4, 1, 0, 32, .ro, .val 0, .any⟩,  -- DEV_FAULT_CNT
  ⟨0x0A0, 4, 1, 0, 1, .ro, .val 0, .any⟩,  -- DEV_CNT_OVF
  ⟨0x0A4, 4, 1, 0, 1, .w1c, .val 0, .any⟩,  -- DEV_CNT_CLR
  ⟨0x0A8, 4, 1, 0, 12, .ro, .val 0, .any⟩  -- DEV_LED
]

/-- Block registers of page 0x01 (CFG), from its page map. -/
def rowsCFG : List FieldRow := [
  ⟨0x040, 4, 1, 4, 1, .wo, .val 0, .any⟩,  -- CFG_CMD
  ⟨0x040, 4, 1, 3, 1, .wo, .val 0, .any⟩,  -- CFG_CMD
  ⟨0x040, 4, 1, 2, 1, .wo, .val 0, .any⟩,  -- CFG_CMD
  ⟨0x040, 4, 1, 1, 1, .wo, .val 0, .any⟩,  -- CFG_CMD
  ⟨0x040, 4, 1, 0, 1, .wo, .val 0, .any⟩,  -- CFG_CMD
  ⟨0x044, 4, 1, 6, 1, .ro, .val 0, .any⟩,  -- CFG_STAT
  ⟨0x044, 4, 1, 5, 1, .ro, .val 0, .any⟩,  -- CFG_STAT
  ⟨0x044, 4, 1, 4, 1, .ro, .val 0, .any⟩,  -- CFG_STAT
  ⟨0x044, 4, 1, 3, 1, .ro, .val 0, .any⟩,  -- CFG_STAT
  ⟨0x044, 4, 1, 2, 1, .ro, .val 0, .any⟩,  -- CFG_STAT
  ⟨0x044, 4, 1, 1, 1, .ro, .val 0, .any⟩,  -- CFG_STAT
  ⟨0x044, 4, 1, 0, 1, .ro, .val 0, .any⟩,  -- CFG_STAT
  ⟨0x048, 4, 1, 28, 4, .ro, .val 0, .any⟩,  -- CFG_VFY_ERR
  ⟨0x048, 4, 1, 27, 1, .ro, .val 0, .any⟩,  -- CFG_VFY_ERR
  ⟨0x048, 4, 1, 0, 24, .ro, .val 0, .any⟩,  -- CFG_VFY_ERR
  ⟨0x04C, 4, 1, 24, 8, .ro, .val 0, .any⟩,  -- CFG_VFY_SUB
  ⟨0x04C, 4, 1, 20, 4, .ro, .val 0, .any⟩,  -- CFG_VFY_SUB
  ⟨0x04C, 4, 1, 16, 4, .ro, .val 0, .any⟩,  -- CFG_VFY_SUB
  ⟨0x050, 4, 1, 0, 24, .ro, .val 0, .any⟩,  -- CFG_VFY_REC
  ⟨0x054, 4, 1, 0, 32, .ro, .val 0, .any⟩,  -- CFG_ACT_ID
  ⟨0x058, 4, 1, 0, 32, .ro, .val 0, .any⟩,  -- CFG_ACT_VER
  ⟨0x05C, 4, 1, 0, 32, .ro, .val 0, .any⟩,  -- CFG_ACT_CHECK
  ⟨0x060, 4, 1, 0, 32, .ro, .val 0, .any⟩,  -- CFG_INACT_ID
  ⟨0x064, 4, 1, 0, 32, .ro, .val 0, .any⟩,  -- CFG_INACT_VER
  ⟨0x068, 4, 1, 0, 32, .ro, .val 0, .any⟩,  -- CFG_INACT_CHECK
  ⟨0x06C, 4, 1, 4, 4, .ro, .val 0xF, .any⟩,  -- CFG_BOOT_RES
  ⟨0x06C, 4, 1, 0, 4, .ro, .val 0xF, .any⟩,  -- CFG_BOOT_RES
  ⟨0x070, 4, 1, 24, 8, .rw, .val 0x14, .bt 5 255⟩,  -- CFG_START
  ⟨0x070, 4, 1, 16, 8, .rw, .val 0x5F, .bt 0 100⟩,  -- CFG_START
  ⟨0x070, 4, 1, 0, 16, .rw, .val 0xFA0, .bt 0 60000⟩  -- CFG_START
]

/-- Block registers of page 0x02 (PWR), from its page map. -/
def rowsPWR : List FieldRow := [
  ⟨0x040, 4, 1, 4, 1, .ro, .val 0, .any⟩,  -- PWR_STAT
  ⟨0x040, 4, 1, 3, 1, .ro, .val 0, .any⟩,  -- PWR_STAT
  ⟨0x040, 4, 1, 2, 1, .ro, .val 0, .any⟩,  -- PWR_STAT
  ⟨0x040, 4, 1, 1, 1, .ro, .val 0, .any⟩,  -- PWR_STAT
  ⟨0x040, 4, 1, 0, 1, .ro, .val 0, .any⟩,  -- PWR_STAT
  ⟨0x044, 4, 1, 0, 32, .ro, .val 0, .any⟩,  -- PWR_VIN
  ⟨0x048, 4, 1, 0, 32, .ro, .val 0, .any⟩,  -- PWR_VIN_MIN
  ⟨0x04C, 4, 1, 0, 32, .ro, .val 0, .any⟩,  -- PWR_VIN_MIN_MAX
  ⟨0x050, 4, 1, 0, 32, .ro, .val 0, .any⟩,  -- PWR_BALLAST
  ⟨0x054, 4, 1, 0, 32, .ro, .val 0, .any⟩,  -- PWR_POWER
  ⟨0x058, 4, 1, 0, 16, .rw, .val 0x2328, .bt 8000 60000⟩,  -- PWR_WARN_CFG
  ⟨0x05C, 4, 1, 0, 32, .ro, .val 0, .any⟩,  -- PWR_PF_CNT
  ⟨0x060, 4, 1, 0, 32, .ro, .val 0, .any⟩,  -- PWR_RESTORED_CNT
  ⟨0x064, 4, 1, 0, 32, .ro, .val 0, .any⟩,  -- PWR_OV_CNT
  ⟨0x068, 4, 1, 0, 3, .ro, .val 0, .any⟩,  -- PWR_CNT_OVF
  ⟨0x06C, 4, 1, 0, 4, .w1c, .val 0, .any⟩,  -- PWR_CNT_CLR
  ⟨0x070, 4, 1, 0, 32, .ro, .val 0, .any⟩,  -- PWR_LAST_PF_SEC
  ⟨0x074, 4, 1, 16, 16, .ro, .val 0, .any⟩,  -- PWR_LAST_SEQ
  ⟨0x074, 4, 1, 0, 16, .ro, .val 0, .any⟩  -- PWR_LAST_SEQ
]

/-- Block registers of page 0x03 (CLK), from its page map. -/
def rowsCLK : List FieldRow := [
  ⟨0x040, 4, 1, 0, 12, .ro, .val 0, .any⟩,  -- CLK_LOCK
  ⟨0x044, 4, 1, 0, 12, .ro, .val 0, .any⟩,  -- CLK_LOST_SEEN
  ⟨0x048, 4, 1, 0, 12, .w1c, .val 0, .any⟩,  -- CLK_LOST_CLR
  ⟨0x04C, 4, 1, 0, 32, .ro, .val 0, .any⟩,  -- CLK_TCXO_TEMP
  ⟨0x050, 4, 1, 0, 32, .ro, .val 0, .any⟩,  -- CLK_TCXO_TRIM
  ⟨0x054, 4, 12, 0, 32, .ro, .val 0, .any⟩,  -- CLK_LOSS_CNT_d
  ⟨0x084, 4, 1, 0, 12, .ro, .val 0, .any⟩,  -- CLK_CNT_OVF
  ⟨0x088, 4, 1, 0, 12, .w1c, .val 0, .any⟩  -- CLK_CNT_CLR
]

/-- Block registers of page 0x04 (TIME), from its page map. -/
def rowsTIME_0 : List FieldRow := [
  ⟨0x040, 4, 1, 2, 1, .rw, .val 0, .any⟩,  -- TIME_CTRL.PPS_OUT_EN
  ⟨0x040, 4, 1, 1, 1, .rw, .val 1, .any⟩,  -- TIME_CTRL.INIT_SET_EN
  ⟨0x040, 4, 1, 0, 1, .rw, .val 1, .any⟩,  -- TIME_CTRL.SERVO_EN
  ⟨0x044, 4, 1, 2, 1, .wo, .val 0, .any⟩,  -- TIME_CMD.CLR_CNT
  ⟨0x044, 4, 1, 1, 1, .wo, .val 0, .any⟩,  -- TIME_CMD.RELEARN
  ⟨0x044, 4, 1, 0, 1, .wo, .val 0, .any⟩,  -- TIME_CMD.STEP_ACCEPT
  ⟨0x048, 4, 1, 12, 1, .ro, .val 0, .any⟩,  -- TIME_STAT.SLEW_LIM
  ⟨0x048, 4, 1, 11, 1, .ro, .val 0, .any⟩,  -- TIME_STAT.STEP_PEND
  ⟨0x048, 4, 1, 10, 1, .ro, .val 0, .any⟩,  -- TIME_STAT.LEARNED
  ⟨0x048, 4, 1, 9, 1, .ro, .val 0, .any⟩,  -- TIME_STAT.EVER_SYNC
  ⟨0x048, 4, 1, 8, 1, .ro, .val 0, .any⟩,  -- TIME_STAT.JUMP_REFUSED
  ⟨0x048, 4, 1, 4, 3, .ro, .val 0, .any⟩,  -- TIME_STAT.SRC
  ⟨0x048, 4, 1, 0, 3, .ro, .val 0, .any⟩,  -- TIME_STAT.QUALITY
  ⟨0x04C, 4, 1, 8, 4, .rws, .val 3, .bt 0 3⟩,  -- TIME_SRC_RANK.RANK2
  ⟨0x04C, 4, 1, 4, 4, .rws, .val 2, .bt 0 3⟩,  -- TIME_SRC_RANK.RANK1
  ⟨0x04C, 4, 1, 0, 4, .rws, .val 1, .bt 0 3⟩,  -- TIME_SRC_RANK.RANK0
  ⟨0x050, 4, 1, 0, 32, .rw, .val 0x186A0, .bt 1000 999999999⟩,  -- TIME_JUMP_LIM
  ⟨0x054, 4, 1, 16, 16, .rw, .val 0x10, .bt 1 1024⟩,  -- TIME_LOCK
  ⟨0x054, 4, 1, 0, 16, .rw, .val 0x3E8, .any⟩,  -- TIME_LOCK
  ⟨0x058, 4, 1, 0, 32, .rw, .val 0x3F333333, .any⟩,  -- TIME_SERVO_KP
  ⟨0x05C, 4, 1, 0, 32, .rw, .val 0x3E99999A, .any⟩,  -- TIME_SERVO_KI
  ⟨0x060, 4, 1, 0, 32, .ro, .val 0, .any⟩,  -- TIME_OFS
  ⟨0x064, 4, 1, 0, 32, .ro, .val 0, .any⟩,  -- TIME_FREQ
  ⟨0x068, 4, 1, 0, 32, .ro, .val 0, .any⟩,  -- TIME_HOLD_FREQ
  ⟨0x06C, 4, 1, 16, 16, .ro, .val 0, .any⟩,  -- TIME_LEARN
  ⟨0x06C, 4, 1, 0, 16, .ro, .val 0, .any⟩,  -- TIME_LEARN
  ⟨0x070, 4, 1, 0, 32, .ro, .val 0xFFFFFFFF, .any⟩,  -- TIME_ERR_EST
  ⟨0x074, 4, 1, 0, 32, .ro, .val 0, .any⟩,  -- TIME_FRM_SEC_LO
  ⟨0x078, 4, 1, 0, 16, .ro, .val 0, .any⟩,  -- TIME_FRM_SEC_HI
  ⟨0x07C, 4, 1, 0, 30, .ro, .val 0, .any⟩,  -- TIME_FRM_NS
  ⟨0x080, 4, 1, 0, 32, .ro, .val 0, .any⟩,  -- TIME_STEP_SEC
  ⟨0x084, 4, 1, 0, 32, .ro, .val 0, .any⟩,  -- TIME_STEP_NS
  ⟨0x088, 4, 1, 0, 32, .ro, .val 0, .any⟩,  -- TIME_STEP_FNO
  ⟨0x08C, 4, 1, 17, 2, .rw, .val 0, .any⟩,  -- TIME_UTC
  ⟨0x08C, 4, 1, 16, 1, .rw, .val 0, .any⟩,  -- TIME_UTC
  ⟨0x08C, 4, 1, 0, 16, .rw, .val 0x25, .any⟩,  -- TIME_UTC
  ⟨0x090, 4, 1, 16, 16, .rw, .val 0x2710, .bt 1 50000⟩,  -- TIME_PPS_CFG
  ⟨0x090, 4, 1, 0, 16, .rw, .val 0, .any⟩,  -- TIME_PPS_CFG
  ⟨0x094, 4, 1, 24, 8, .rw, .val 0x80, .any⟩,  -- TIME_PTP_AB_CFG
  ⟨0x094, 4, 1, 16, 8, .rw, .val 0x80, .any⟩  -- TIME_PTP_AB_CFG
]
def rowsTIME_1 : List FieldRow := [
  ⟨0x094, 4, 1, 8, 7, .rw, .val 0, .any⟩,  -- TIME_PTP_AB_CFG
  ⟨0x094, 4, 1, 0, 2, .rw, .val 1, .any⟩,  -- TIME_PTP_AB_CFG
  ⟨0x098, 4, 1, 24, 8, .rw, .val 3, .bt 2 10⟩,  -- TIME_PTP_AB_INT
  ⟨0x098, 4, 1, 16, 8, .rw, .val 0, .sbt 8 4 4⟩,  -- TIME_PTP_AB_INT
  ⟨0x098, 4, 1, 8, 8, .rw, .val 0, .any⟩,  -- TIME_PTP_AB_INT
  ⟨0x098, 4, 1, 0, 8, .rw, .val 0, .any⟩,  -- TIME_PTP_AB_INT
  ⟨0x09C, 4, 1, 24, 8, .rw, .val 0x80, .any⟩,  -- TIME_PTP_H_CFG
  ⟨0x09C, 4, 1, 16, 8, .rw, .val 0x80, .any⟩,  -- TIME_PTP_H_CFG
  ⟨0x09C, 4, 1, 8, 7, .rw, .val 0, .any⟩,  -- TIME_PTP_H_CFG
  ⟨0x09C, 4, 1, 0, 2, .rw, .val 0, .any⟩,  -- TIME_PTP_H_CFG
  ⟨0x0A0, 4, 1, 24, 8, .rw, .val 3, .bt 2 10⟩,  -- TIME_PTP_H_INT
  ⟨0x0A0, 4, 1, 16, 8, .rw, .val 0, .sbt 8 4 4⟩,  -- TIME_PTP_H_INT
  ⟨0x0A0, 4, 1, 8, 8, .rw, .val 0, .any⟩,  -- TIME_PTP_H_INT
  ⟨0x0A0, 4, 1, 0, 8, .rw, .val 0, .any⟩,  -- TIME_PTP_H_INT
  ⟨0x0A4, 4, 1, 24, 8, .ro, .val 0, .any⟩,  -- TIME_PTP_AB_STAT
  ⟨0x0A4, 4, 1, 8, 1, .ro, .val 0, .any⟩,  -- TIME_PTP_AB_STAT
  ⟨0x0A4, 4, 1, 4, 4, .ro, .val 0, .any⟩,  -- TIME_PTP_AB_STAT
  ⟨0x0A4, 4, 1, 0, 4, .ro, .val 0, .any⟩,  -- TIME_PTP_AB_STAT
  ⟨0x0A8, 4, 1, 24, 8, .ro, .val 0, .any⟩,  -- TIME_PTP_H_STAT
  ⟨0x0A8, 4, 1, 8, 1, .ro, .val 0, .any⟩,  -- TIME_PTP_H_STAT
  ⟨0x0A8, 4, 1, 4, 4, .ro, .val 0, .any⟩,  -- TIME_PTP_H_STAT
  ⟨0x0A8, 4, 1, 0, 4, .ro, .val 0, .any⟩,  -- TIME_PTP_H_STAT
  ⟨0x0AC, 4, 1, 0, 32, .ro, .val 0, .any⟩,  -- TIME_GM_ID_LO
  ⟨0x0B0, 4, 1, 0, 32, .ro, .val 0, .any⟩,  -- TIME_GM_ID_HI
  ⟨0x0B4, 4, 1, 24, 8, .rw, .val 0x21, .any⟩,  -- TIME_CLK_QUAL
  ⟨0x0B4, 4, 1, 16, 8, .rw, .val 0xF8, .any⟩,  -- TIME_CLK_QUAL
  ⟨0x0B4, 4, 1, 8, 8, .rw, .val 7, .any⟩,  -- TIME_CLK_QUAL
  ⟨0x0B4, 4, 1, 0, 8, .rw, .val 6, .any⟩,  -- TIME_CLK_QUAL
  ⟨0x0B8, 4, 5, 16, 16, .rw, .val 0, .any⟩,  -- TIME_PORT_LAT_p
  ⟨0x0B8, 4, 5, 0, 16, .rw, .val 0, .any⟩,  -- TIME_PORT_LAT_p
  ⟨0x0CC, 4, 5, 0, 32, .rw, .val 0, .any⟩,  -- TIME_PORT_ASYM_p
  ⟨0x0E0, 4, 5, 0, 32, .ro, .val 0, .any⟩,  -- TIME_PORT_PDELAY_p
  ⟨0x0F4, 4, 1, 0, 32, .ro, .val 0, .any⟩,  -- TIME_JUMP_CNT
  ⟨0x0F8, 4, 1, 0, 32, .ro, .val 0, .any⟩,  -- TIME_STEP_CNT
  ⟨0x0FC, 4, 1, 0, 32, .ro, .val 0, .any⟩,  -- TIME_SRC_CHG_CNT
  ⟨0x100, 4, 1, 0, 32, .ro, .val 0, .any⟩,  -- TIME_LATE_CNT
  ⟨0x104, 4, 1, 0, 32, .ro, .val 0, .any⟩,  -- TIME_MISSED_CNT
  ⟨0x108, 4, 1, 0, 7, .ro, .val 0, .any⟩,  -- TIME_CNT_OVF
  ⟨0x10C, 4, 1, 0, 7, .w1c, .val 0, .any⟩,  -- TIME_CNT_CLR
  ⟨0x110, 4, 1, 0, 32, .ro, .val 0, .any⟩  -- TIME_JUMP_OFS_SEC
]
def rowsTIME_2 : List FieldRow := [
  ⟨0x114, 4, 1, 0, 32, .ro, .val 0, .any⟩  -- TIME_JUMP_OFS_NS
]
/-- Block registers of page 0x04 (TIME), from its page map. -/
def rowsTIME : List FieldRow := rowsTIME_0 ++ rowsTIME_1 ++ rowsTIME_2

/-- Block registers of page 0x05 (LNCH), from its page map. -/
def rowsLNCH : List FieldRow := [
  ⟨0x040, 16, 64, 0, 32, .rws, .val 0, .any⟩,  -- LNCH_SEC_n.SEC
  ⟨0x044, 16, 64, 0, 30, .rws, .val 0, .bt 0 999999999⟩,  -- LNCH_NS_n.NS
  ⟨0x048, 16, 64, 22, 10, .rws, .val 0, .bt 0 1000⟩,  -- LNCH_ACT_n.GRACE_MS
  ⟨0x048, 16, 64, 16, 4, .rws, .val 0, .any⟩,  -- LNCH_ACT_n.ACTION
  ⟨0x048, 16, 64, 8, 8, .rws, .val 0, .any⟩,  -- LNCH_ACT_n.TARGET
  ⟨0x04C, 16, 64, 31, 1, .w1s, .val 0, .any⟩,  -- LNCH_STAT_n.ARM
  ⟨0x04C, 16, 64, 30, 1, .w1s, .val 0, .any⟩,  -- LNCH_STAT_n.DISARM
  ⟨0x04C, 16, 64, 27, 1, .ro, .val 0, .any⟩,  -- LNCH_STAT_n.PRIV
  ⟨0x04C, 16, 64, 26, 1, .ro, .val 0, .any⟩,  -- LNCH_STAT_n.REARMED
  ⟨0x04C, 16, 64, 25, 1, .ro, .val 0, .any⟩,  -- LNCH_STAT_n.MISSED
  ⟨0x04C, 16, 64, 24, 1, .ro, .val 0, .any⟩,  -- LNCH_STAT_n.LATE
  ⟨0x04C, 16, 64, 23, 1, .ro, .val 0, .any⟩,  -- LNCH_STAT_n.FIRED
  ⟨0x04C, 16, 64, 22, 1, .ro, .val 0, .any⟩,  -- LNCH_STAT_n.ARMED
  ⟨0x04C, 16, 64, 0, 20, .ro, .val 0, .any⟩  -- LNCH_STAT_n.LATE_US
]

/-- Block registers of page 0x06 (SEQ), from its page map. -/
def rowsSEQ_0 : List FieldRow := [
  ⟨0x040, 4, 1, 2, 1, .wo, .val 0, .any⟩,  -- SEQ_CMD.CANCEL
  ⟨0x040, 4, 1, 1, 1, .wo, .val 0, .any⟩,  -- SEQ_CMD.SWITCH
  ⟨0x040, 4, 1, 0, 1, .wo, .val 0, .any⟩,  -- SEQ_CMD.VERIFY
  ⟨0x044, 4, 1, 4, 1, .ro, .val 0, .any⟩,  -- SEQ_STAT.VFY_FAILED
  ⟨0x044, 4, 1, 3, 1, .ro, .val 0, .any⟩,  -- SEQ_STAT.SWITCH_PEND
  ⟨0x044, 4, 1, 2, 1, .ro, .val 0, .any⟩,  -- SEQ_STAT.VFY_BUSY
  ⟨0x044, 4, 1, 1, 1, .ro, .val 0, .any⟩,  -- SEQ_STAT.VERIFIED
  ⟨0x044, 4, 1, 0, 1, .ro, .val 0, .any⟩,  -- SEQ_STAT.ACT_BANK
  ⟨0x048, 4, 1, 17, 1, .ro, .val 0, .any⟩,  -- SEQ_FRAME.HF_EXT
  ⟨0x048, 4, 1, 16, 1, .ro, .val 0, .any⟩,  -- SEQ_FRAME.HF_TRUNC
  ⟨0x048, 4, 1, 12, 3, .ro, .val 0, .any⟩,  -- SEQ_FRAME.TABLE
  ⟨0x048, 4, 1, 10, 1, .ro, .val 0, .any⟩,  -- SEQ_FRAME.EXT
  ⟨0x048, 4, 1, 0, 10, .ro, .val 0, .any⟩,  -- SEQ_FRAME.FRAME
  ⟨0x04C, 4, 1, 0, 32, .ro, .val 0, .any⟩,  -- SEQ_FRAME_NO.FRAME_NO
  ⟨0x050, 4, 1, 20, 10, .ro, .val 0, .any⟩,  -- SEQ_HF_LAST.ENTRY
  ⟨0x050, 4, 1, 17, 1, .ro, .val 0, .any⟩,  -- SEQ_HF_LAST.EXT
  ⟨0x050, 4, 1, 16, 1, .ro, .val 0, .any⟩,  -- SEQ_HF_LAST.TRUNC
  ⟨0x050, 4, 1, 0, 11, .ro, .val 0, .any⟩,  -- SEQ_HF_LAST.FRAMES
  ⟨0x054, 4, 1, 28, 4, .ro, .val 0, .any⟩,  -- SEQ_VFY_ERR.CODE
  ⟨0x054, 4, 1, 24, 3, .ro, .val 0, .any⟩,  -- SEQ_VFY_ERR.TABLE
  ⟨0x054, 4, 1, 12, 12, .ro, .val 0, .any⟩,  -- SEQ_VFY_ERR.ENTRY
  ⟨0x054, 4, 1, 0, 8, .ro, .val 0, .any⟩,  -- SEQ_VFY_ERR.RES
  ⟨0x058, 4, 1, 0, 32, .ro, .val 0, .any⟩,  -- SEQ_VFY_SUM.SUM_NS
  ⟨0x05C, 4, 1, 12, 12, .ro, .val 0, .any⟩,  -- SEQ_OVR_LAST.ENTRY
  ⟨0x05C, 4, 1, 8, 3, .ro, .val 0, .any⟩,  -- SEQ_OVR_LAST.TABLE
  ⟨0x05C, 4, 1, 0, 8, .ro, .val 0, .any⟩,  -- SEQ_OVR_LAST.RES
  ⟨0x060, 4, 1, 0, 32, .ro, .val 0, .any⟩,  -- SEQ_OVR_FNO.FNO
  ⟨0x064, 4, 1, 13, 1, .ro, .val 0, .any⟩,  -- SEQ_OVR_OVF.EXTC
  ⟨0x064, 4, 1, 12, 1, .ro, .val 0, .any⟩,  -- SEQ_OVR_OVF.TRUNC
  ⟨0x064, 4, 1, 0, 12, .ro, .val 0, .any⟩,  -- SEQ_OVR_OVF.OVR_n
  ⟨0x068, 4, 1, 13, 1, .w1c, .val 0, .any⟩,  -- SEQ_OVR_CLR.EXTC
  ⟨0x068, 4, 1, 12, 1, .w1c, .val 0, .any⟩,  -- SEQ_OVR_CLR.TRUNC
  ⟨0x068, 4, 1, 0, 12, .w1c, .val 0, .any⟩,  -- SEQ_OVR_CLR.OVR_n
  ⟨0x06C, 4, 1, 0, 32, .ro, .val 0, .any⟩,  -- SEQ_HF_TRUNC_CNT
  ⟨0x070, 4, 1, 0, 32, .ro, .val 0, .any⟩,  -- SEQ_HF_EXT_CNT
  ⟨0x074, 4, 1, 0, 32, .ro, .val 0, .any⟩,  -- SEQ_EXT_FRAMES
  ⟨0x078, 4, 1, 0, 32, .ro, .val 0, .any⟩,  -- SEQ_LOAD_MAX
  ⟨0x07C, 4, 1, 8, 3, .ro, .val 0, .any⟩,  -- SEQ_LOAD_WHERE
  ⟨0x07C, 4, 1, 0, 8, .ro, .val 0, .any⟩,  -- SEQ_LOAD_WHERE
  ⟨0x080, 4, 12, 0, 32, .ro, .val 0, .any⟩  -- SEQ_OVR_CNT_n.CNT
]
def rowsSEQ_1 : List FieldRow := [
  ⟨0x0B0, 4, 8, 16, 7, .ro, .val 0, .any⟩,  -- SEQ_SMAP_CFG_m.K
  ⟨0x0B0, 4, 8, 0, 10, .ro, .val 0, .any⟩,  -- SEQ_SMAP_CFG_m.L
  ⟨0x0D0, 4, 8, 16, 16, .ro, .val 0, .any⟩,  -- SEQ_TBL_INFO_t.MAX_END_US
  ⟨0x0D0, 4, 8, 0, 13, .ro, .val 0, .any⟩  -- SEQ_TBL_INFO_t.N_ENTRIES
]
/-- Block registers of page 0x06 (SEQ), from its page map. -/
def rowsSEQ : List FieldRow := rowsSEQ_0 ++ rowsSEQ_1

/-- Block registers of page 0x07 (ICU), from its page map. -/
def rowsICU : List FieldRow := [
  ⟨0x040, 4, 1, 0, 1, .rw, .val 0, .any⟩,  -- ICU_CTRL
  ⟨0x044, 4, 1, 0, 10, .wo, .val 0, .any⟩,  -- ICU_DOORBELL
  ⟨0x048, 4, 6, 0, 10, .wo, .val 0, .any⟩,  -- ICU_EN_SET, ICU_EN_CLR, ICU_MASK_SET, ICU_MASK_CLR, ICU_PEND_SET, ICU_PEND_CLR
  ⟨0x060, 4, 1, 0, 13, .ro, .val 0, .any⟩,  -- ICU_STAT
  ⟨0x064, 4, 1, 0, 11, .ro, .val 0, .any⟩,  -- ICU_PEND_N
  ⟨0x068, 4, 1, 0, 32, .ro, .val 0, .any⟩,  -- ICU_BAD_DB
  ⟨0x06C, 4, 1, 0, 32, .ro, .val 0, .any⟩,  -- ICU_STACK_FAULT_CNT
  ⟨0x070, 4, 1, 0, 32, .ro, .val 0, .any⟩,  -- ICU_SPUR_CNT
  ⟨0x074, 4, 1, 0, 2, .ro, .val 0, .any⟩,  -- ICU_CNT_OVF
  ⟨0x078, 4, 1, 0, 2, .w1c, .val 0, .any⟩,  -- ICU_CNT_CLR
  ⟨0x080, 16, 13, 24, 8, .roActs, .val 0, .any⟩,  -- ICU_CLAIM_t
  ⟨0x080, 16, 13, 23, 1, .roActs, .val 0, .any⟩,  -- ICU_CLAIM_t
  ⟨0x080, 16, 13, 16, 4, .roActs, .val 0, .any⟩,  -- ICU_CLAIM_t
  ⟨0x080, 16, 13, 0, 10, .roActs, .val 0, .any⟩,  -- ICU_CLAIM_t
  ⟨0x084, 16, 13, 0, 10, .wo, .val 0, .any⟩,  -- ICU_EOI_t
  ⟨0x088, 16, 13, 0, 32, .wo, .val 0, .any⟩,  -- ICU_STACK_RESET_t
  ⟨0x08C, 16, 13, 31, 1, .ro, .val 0, .any⟩,  -- ICU_TGT_STAT_t
  ⟨0x08C, 16, 13, 30, 1, .ro, .val 0, .any⟩,  -- ICU_TGT_STAT_t
  ⟨0x08C, 16, 13, 25, 5, .ro, .val 0, .any⟩,  -- ICU_TGT_STAT_t
  ⟨0x08C, 16, 13, 16, 4, .ro, .val 0, .any⟩,  -- ICU_TGT_STAT_t
  ⟨0x08C, 16, 13, 0, 10, .ro, .val 0, .any⟩  -- ICU_TGT_STAT_t
]

/-- Block registers of page 0x08 (EVR), from its page map. -/
def rowsEVR : List FieldRow := [
  ⟨0x040, 4, 1, 0, 1, .rw, .val 0, .any⟩,  -- EVR_CTRL
  ⟨0x044, 4, 1, 3, 1, .wo, .val 0, .any⟩,  -- EVR_CMD
  ⟨0x044, 4, 1, 2, 1, .wo, .val 0, .any⟩,  -- EVR_CMD
  ⟨0x044, 4, 1, 1, 1, .wo, .val 0, .any⟩,  -- EVR_CMD
  ⟨0x044, 4, 1, 0, 1, .wo, .val 0, .any⟩,  -- EVR_CMD
  ⟨0x048, 4, 1, 2, 1, .ro, .val 0, .any⟩,  -- EVR_STAT
  ⟨0x048, 4, 1, 1, 1, .ro, .val 0, .any⟩,  -- EVR_STAT
  ⟨0x048, 4, 1, 0, 1, .ro, .val 0, .any⟩,  -- EVR_STAT
  ⟨0x04C, 4, 1, 0, 17, .ro, .val 0, .any⟩,  -- EVR_NEXT
  ⟨0x050, 4, 1, 0, 12, .rw, .val 0x12C, .bt 0 3600⟩,  -- EVR_FRZ_CFG
  ⟨0x054, 4, 1, 0, 32, .ro, .val 0, .any⟩,  -- EVR_FRZ_SEC
  ⟨0x058, 4, 1, 24, 8, .rw, .val 8, .any⟩,  -- EVR_DEF_BUCKET
  ⟨0x058, 4, 1, 0, 16, .rw, .val 0x64, .any⟩,  -- EVR_DEF_BUCKET
  ⟨0x05C, 4, 1, 24, 8, .ro, .val 8, .any⟩,  -- EVR_DEF_STAT
  ⟨0x05C, 4, 1, 0, 16, .ro, .val 0, .any⟩,  -- EVR_DEF_STAT
  ⟨0x060, 4, 1, 0, 32, .ro, .val 0, .any⟩,  -- EVR_FULL_CNT
  ⟨0x064, 4, 1, 0, 32, .ro, .val 0, .any⟩,  -- EVR_FRZ_CNT
  ⟨0x068, 4, 1, 0, 32, .ro, .val 0, .any⟩,  -- EVR_INTAKE_LOST
  ⟨0x06C, 4, 1, 0, 32, .ro, .val 0, .any⟩,  -- EVR_SUPP_TOT
  ⟨0x070, 4, 1, 0, 32, .ro, .val 0, .any⟩,  -- EVR_SUMMARY_CNT
  ⟨0x074, 4, 1, 0, 4, .ro, .val 0, .any⟩,  -- EVR_CNT_OVF
  ⟨0x078, 4, 1, 0, 4, .w1c, .val 0, .any⟩,  -- EVR_CNT_CLR
  ⟨0x07C, 4, 1, 16, 10, .ro, .val 0, .any⟩,  -- EVR_INTAKE
  ⟨0x07C, 4, 1, 0, 10, .ro, .val 0, .any⟩,  -- EVR_INTAKE
  ⟨0x080, 4, 1, 0, 11, .ro, .val 0, .any⟩  -- EVR_CODES_N
]

/-- Block registers of page 0x09 (KEY), from its page map. -/
def rowsKEY : List FieldRow := [
  ⟨0x040, 4, 1, 0, 1, .rw, .val 0, .any⟩,  -- KEY_CTRL
  ⟨0x044, 4, 1, 5, 1, .wo, .val 0, .any⟩,  -- KEY_CMD
  ⟨0x044, 4, 1, 4, 1, .wo, .val 0, .any⟩,  -- KEY_CMD
  ⟨0x044, 4, 1, 3, 1, .wo, .val 0, .any⟩,  -- KEY_CMD
  ⟨0x044, 4, 1, 2, 1, .wo, .val 0, .any⟩,  -- KEY_CMD
  ⟨0x044, 4, 1, 1, 1, .wo, .val 0, .any⟩,  -- KEY_CMD
  ⟨0x044, 4, 1, 0, 1, .wo, .val 0, .any⟩,  -- KEY_CMD
  ⟨0x048, 4, 1, 16, 10, .rw, .val 0, .bt 0 999⟩,  -- KEY_CMD_ARG
  ⟨0x048, 4, 1, 15, 1, .rw, .val 0, .any⟩,  -- KEY_CMD_ARG
  ⟨0x048, 4, 1, 0, 7, .rw, .val 0, .any⟩,  -- KEY_CMD_ARG
  ⟨0x04C, 4, 1, 31, 1, .ro, .val 0, .any⟩,  -- KEY_STAT
  ⟨0x04C, 4, 1, 30, 1, .ro, .val 0, .any⟩,  -- KEY_STAT
  ⟨0x04C, 4, 1, 29, 1, .ro, .val 0, .any⟩,  -- KEY_STAT
  ⟨0x04C, 4, 1, 20, 4, .ro, .val 0, .any⟩,  -- KEY_STAT
  ⟨0x04C, 4, 1, 16, 4, .ro, .val 0, .any⟩,  -- KEY_STAT
  ⟨0x04C, 4, 1, 0, 7, .ro, .val 0, .any⟩,  -- KEY_STAT
  ⟨0x050, 4, 1, 16, 10, .ro, .val 0, .any⟩,  -- KEY_PEND
  ⟨0x050, 4, 1, 15, 1, .ro, .val 0, .any⟩,  -- KEY_PEND
  ⟨0x050, 4, 1, 0, 7, .ro, .val 0, .any⟩,  -- KEY_PEND
  ⟨0x054, 4, 1, 24, 8, .ro, .val 0, .any⟩,  -- KEY_N
  ⟨0x054, 4, 1, 16, 8, .ro, .val 0, .any⟩,  -- KEY_N
  ⟨0x054, 4, 1, 8, 8, .ro, .val 0, .any⟩,  -- KEY_N
  ⟨0x054, 4, 1, 0, 8, .ro, .val 0, .any⟩,  -- KEY_N
  ⟨0x058, 4, 1, 0, 32, .ro, .val 0, .any⟩,  -- KEY_OP_CNT
  ⟨0x05C, 4, 1, 0, 32, .ro, .val 0, .any⟩,  -- KEY_FAIL_CNT
  ⟨0x060, 4, 1, 0, 32, .ro, .val 0, .any⟩,  -- KEY_REVOKE_CNT
  ⟨0x064, 4, 1, 0, 2, .ro, .val 0, .any⟩,  -- KEY_CNT_OVF
  ⟨0x068, 4, 1, 0, 2, .w1c, .val 0, .any⟩,  -- KEY_CNT_CLR
  ⟨0x06C, 4, 1, 0, 32, .ro, .factory, .any⟩,  -- KEY_SERIAL_LO
  ⟨0x070, 4, 1, 0, 32, .ro, .factory, .any⟩,  -- KEY_SERIAL_HI
  ⟨0x080, 4, 4, 0, 32, .ro, .val 0, .any⟩,  -- KEY_ACTIVE_k
  ⟨0x090, 4, 4, 0, 32, .ro, .val 0, .any⟩  -- KEY_REV_k
]

/-- Block registers of page 0x0A (TAMP), from its page map. -/
def rowsTAMP : List FieldRow := [
  ⟨0x040, 4, 1, 31, 1, .ro, .val 0, .any⟩,  -- TAMP_STAT
  ⟨0x040, 4, 1, 9, 1, .ro, .val 0, .any⟩,  -- TAMP_STAT
  ⟨0x040, 4, 1, 8, 1, .ro, .val 0, .any⟩,  -- TAMP_STAT
  ⟨0x040, 4, 1, 0, 5, .ro, .val 0, .any⟩,  -- TAMP_STAT
  ⟨0x044, 4, 1, 0, 5, .ro, .val 0, .any⟩,  -- TAMP_SEEN
  ⟨0x048, 4, 1, 16, 6, .ro, .factory, .any⟩,  -- TAMP_FUSES
  ⟨0x048, 4, 1, 0, 6, .ro, .factory, .any⟩,  -- TAMP_FUSES
  ⟨0x04C, 4, 1, 0, 4, .ro, .val 0, .any⟩,  -- TAMP_LOG_NEXT
  ⟨0x050, 4, 1, 0, 32, .ro, .val 0, .any⟩,  -- TAMP_AON_SEC
  ⟨0x054, 4, 1, 16, 16, .ro, .val 0, .any⟩,  -- TAMP_AON_SUB
  ⟨0x054, 4, 1, 0, 15, .ro, .val 0, .any⟩,  -- TAMP_AON_SUB
  ⟨0x058, 4, 1, 0, 32, .ro, .val 0, .any⟩,  -- TAMP_CNT
  ⟨0x05C, 4, 1, 0, 32, .ro, .val 0, .any⟩,  -- TAMP_XTAL_CNT
  ⟨0x060, 4, 1, 0, 2, .ro, .val 0, .any⟩,  -- TAMP_CNT_OVF
  ⟨0x064, 4, 1, 1, 1, .w1c, .val 0, .any⟩  -- TAMP_CNT_CLR
]

/-- Block registers of page 0x0B (HOST), from its page map. -/
def rowsHOST_0 : List FieldRow := [
  ⟨0x040, 4, 1, 3, 1, .rw, .val 1, .any⟩,  -- HOST_CTRL
  ⟨0x040, 4, 1, 2, 1, .rws, .val 0, .any⟩,  -- HOST_CTRL
  ⟨0x040, 4, 1, 1, 1, .rw, .val 1, .any⟩,  -- HOST_CTRL
  ⟨0x040, 4, 1, 0, 1, .rw, .val 1, .any⟩,  -- HOST_CTRL
  ⟨0x044, 4, 1, 0, 1, .wo, .val 0, .any⟩,  -- HOST_CMD
  ⟨0x048, 4, 1, 0, 3, .rw, .val 0, .any⟩,  -- HOST_CMD_ARG
  ⟨0x04C, 4, 1, 16, 16, .ro, .val 0, .any⟩,  -- HOST_STAT
  ⟨0x04C, 4, 1, 15, 1, .ro, .val 0, .any⟩,  -- HOST_STAT
  ⟨0x04C, 4, 1, 12, 3, .ro, .val 0, .any⟩,  -- HOST_STAT
  ⟨0x04C, 4, 1, 8, 4, .ro, .val 0xF, .any⟩,  -- HOST_STAT
  ⟨0x04C, 4, 1, 0, 8, .ro, .val 0, .any⟩,  -- HOST_STAT
  ⟨0x050, 4, 1, 0, 16, .rws, .val 0x1D5B, .any⟩,  -- HOST_PORT
  ⟨0x054, 4, 1, 16, 16, .rw, .val 0x258, .bt 0 3600⟩,  -- HOST_LEASE_CFG
  ⟨0x054, 4, 1, 0, 16, .rw, .val 0x1E, .bt 5 3600⟩,  -- HOST_LEASE_CFG
  ⟨0x058, 4, 1, 0, 16, .rw, .val 0xA, .bt 1 3600⟩,  -- HOST_WOL_CFG
  ⟨0x05C, 4, 1, 0, 32, .ro, .factory, .any⟩,  -- HOST_MAC1_LO
  ⟨0x060, 4, 1, 0, 16, .ro, .factory, .any⟩,  -- HOST_MAC1_HI
  ⟨0x064, 4, 1, 0, 32, .ro, .factory, .any⟩,  -- HOST_MAC2_LO
  ⟨0x068, 4, 1, 0, 16, .ro, .factory, .any⟩,  -- HOST_MAC2_HI
  ⟨0x06C, 4, 4, 0, 32, .rws, .val 0, .any⟩,  -- HOST_IP_OWN_0_i
  ⟨0x07C, 4, 4, 0, 32, .rws, .val 0, .any⟩,  -- HOST_IP_SVC_0_i
  ⟨0x08C, 4, 4, 0, 32, .rws, .val 0, .any⟩,  -- HOST_GW_0_i
  ⟨0x09C, 52, 2, 8, 1, .rws, .val 0, .any⟩,  -- HOST_NET_p
  ⟨0x09C, 52, 2, 0, 8, .rws, .val 0x18, .any⟩,  -- HOST_NET_p
  ⟨0x0A0, 4, 4, 0, 32, .rws, .val 0, .any⟩,  -- HOST_IP_OWN_1_i
  ⟨0x0B0, 4, 4, 0, 32, .rws, .val 0, .any⟩,  -- HOST_IP_SVC_1_i
  ⟨0x0C0, 4, 4, 0, 32, .rws, .val 0, .any⟩,  -- HOST_GW_1_i
  ⟨0x0D4, 4, 8, 28, 4, .ro, .val 0, .any⟩,  -- HOST_SESS_s
  ⟨0x0D4, 4, 8, 24, 4, .ro, .val 0, .any⟩,  -- HOST_SESS_s
  ⟨0x0D4, 4, 8, 23, 1, .ro, .val 0, .any⟩,  -- HOST_SESS_s
  ⟨0x0D4, 4, 8, 22, 1, .ro, .val 0, .any⟩,  -- HOST_SESS_s
  ⟨0x0D4, 4, 8, 21, 1, .ro, .val 0, .any⟩,  -- HOST_SESS_s
  ⟨0x0D4, 4, 8, 20, 1, .ro, .val 0, .any⟩,  -- HOST_SESS_s
  ⟨0x0D4, 4, 8, 16, 3, .ro, .val 0, .any⟩,  -- HOST_SESS_s
  ⟨0x0D4, 4, 8, 8, 7, .ro, .val 0, .any⟩,  -- HOST_SESS_s
  ⟨0x0D4, 4, 8, 0, 7, .ro, .val 0, .any⟩,  -- HOST_SESS_s
  ⟨0x0F4, 4, 1, 0, 32, .ro, .val 0, .any⟩,  -- HOST_RX_OK
  ⟨0x0F8, 4, 1, 0, 32, .ro, .val 0, .any⟩,  -- HOST_AUTH_FAIL
  ⟨0x0FC, 4, 1, 0, 32, .ro, .val 0, .any⟩,  -- HOST_REPLAY
  ⟨0x100, 4, 1, 0, 32, .ro, .val 0, .any⟩  -- HOST_BAD
]
def rowsHOST_1 : List FieldRow := [
  ⟨0x104, 4, 1, 0, 32, .ro, .val 0, .any⟩,  -- HOST_OPEN_CNT
  ⟨0x108, 4, 1, 0, 32, .ro, .val 0, .any⟩,  -- HOST_OWNER_CHG_CNT
  ⟨0x10C, 4, 1, 0, 32, .ro, .val 0, .any⟩,  -- HOST_LAPSE_CNT
  ⟨0x110, 4, 1, 0, 32, .ro, .val 0, .any⟩,  -- HOST_PREEMPT_CNT
  ⟨0x114, 4, 1, 0, 32, .ro, .val 0, .any⟩,  -- HOST_CQ_DISC
  ⟨0x118, 4, 1, 0, 32, .ro, .val 0, .any⟩,  -- HOST_NOTIFY_CNT
  ⟨0x11C, 4, 1, 0, 32, .ro, .val 0, .any⟩,  -- HOST_WOL_CNT
  ⟨0x120, 4, 1, 0, 7, .ro, .val 0, .any⟩,  -- HOST_CNT_OVF
  ⟨0x124, 4, 1, 0, 7, .w1c, .val 0, .any⟩  -- HOST_CNT_CLR
]
/-- Block registers of page 0x0B (HOST), from its page map. -/
def rowsHOST : List FieldRow := rowsHOST_0 ++ rowsHOST_1

/-- Block registers of page 0x0C (TWIN), from its page map. -/
def rowsTWIN_0 : List FieldRow := [
  ⟨0x040, 4, 1, 24, 8, .rw, .val 0x32, .bt 10 90⟩,  -- TWIN_CFG
  ⟨0x040, 4, 1, 16, 8, .rw, .val 0xA, .bt 1 255⟩,  -- TWIN_CFG
  ⟨0x040, 4, 1, 1, 1, .rw, .val 0, .any⟩,  -- TWIN_CFG
  ⟨0x040, 4, 1, 0, 1, .rw, .val 1, .any⟩,  -- TWIN_CFG
  ⟨0x044, 4, 1, 2, 1, .wo, .val 0, .any⟩,  -- TWIN_CMD
  ⟨0x044, 4, 1, 1, 1, .wo, .val 0, .any⟩,  -- TWIN_CMD
  ⟨0x044, 4, 1, 0, 1, .wo, .val 0, .any⟩,  -- TWIN_CMD
  ⟨0x048, 4, 1, 28, 4, .ro, .val 0, .any⟩,  -- TWIN_STAT
  ⟨0x048, 4, 1, 24, 4, .ro, .val 0, .any⟩,  -- TWIN_STAT
  ⟨0x048, 4, 1, 23, 1, .ro, .val 0, .any⟩,  -- TWIN_STAT
  ⟨0x048, 4, 1, 22, 1, .ro, .val 0, .any⟩,  -- TWIN_STAT
  ⟨0x048, 4, 1, 21, 1, .ro, .val 0, .any⟩,  -- TWIN_STAT
  ⟨0x048, 4, 1, 20, 1, .ro, .val 0, .any⟩,  -- TWIN_STAT
  ⟨0x048, 4, 1, 19, 1, .ro, .val 0, .any⟩,  -- TWIN_STAT
  ⟨0x048, 4, 1, 18, 1, .ro, .val 0, .any⟩,  -- TWIN_STAT
  ⟨0x048, 4, 1, 17, 1, .ro, .val 0, .any⟩,  -- TWIN_STAT
  ⟨0x048, 4, 1, 16, 1, .ro, .val 0, .any⟩,  -- TWIN_STAT
  ⟨0x048, 4, 1, 15, 1, .ro, .val 0, .any⟩,  -- TWIN_STAT
  ⟨0x048, 4, 1, 14, 1, .ro, .val 0, .any⟩,  -- TWIN_STAT
  ⟨0x048, 4, 1, 13, 1, .ro, .val 0, .any⟩,  -- TWIN_STAT
  ⟨0x048, 4, 1, 0, 8, .ro, .val 0, .any⟩,  -- TWIN_STAT
  ⟨0x04C, 4, 1, 0, 32, .ro, .val 0, .any⟩,  -- TWIN_EPOCH
  ⟨0x050, 4, 1, 0, 32, .ro, .val 0xFFFFFFFF, .any⟩,  -- TWIN_LAG
  ⟨0x054, 4, 1, 0, 32, .ro, .val 0, .any⟩,  -- TWIN_EXEC_FNO
  ⟨0x058, 4, 1, 0, 32, .ro, .val 0, .any⟩,  -- TWIN_P_HEALTH
  ⟨0x05C, 4, 1, 0, 32, .ro, .val 0, .any⟩,  -- TWIN_P_SERIAL_LO
  ⟨0x060, 4, 1, 0, 32, .ro, .val 0, .any⟩,  -- TWIN_P_SERIAL_HI
  ⟨0x064, 4, 1, 0, 32, .ro, .val 0, .any⟩,  -- TWIN_COPY_F
  ⟨0x068, 4, 1, 16, 16, .rw, .val 0x78, .bt 10 3600⟩,  -- TWIN_COPY_CFG
  ⟨0x06C, 4, 1, 0, 32, .ro, .val 0, .any⟩,  -- TWIN_REC_MAX
  ⟨0x070, 4, 1, 0, 32, .ro, .val 0, .any⟩,  -- TWIN_TAKEOVER_FNO
  ⟨0x074, 4, 1, 0, 32, .ro, .val 0, .any⟩,  -- TWIN_TAKEOVER_SEC
  ⟨0x078, 4, 1, 0, 32, .ro, .val 0, .any⟩,  -- TWIN_DIGEST_LO
  ⟨0x07C, 4, 1, 0, 32, .ro, .val 0, .any⟩,  -- TWIN_DIGEST_HI
  ⟨0x080, 4, 1, 0, 32, .ro, .val 0, .any⟩,  -- TWIN_TAKEOVER_CNT
  ⟨0x084, 4, 1, 0, 32, .ro, .val 0, .any⟩,  -- TWIN_HB_MISS_LINK
  ⟨0x088, 4, 1, 0, 32, .ro, .val 0, .any⟩,  -- TWIN_HB_MISS_TETHER
  ⟨0x08C, 4, 1, 0, 32, .ro, .val 0, .any⟩,  -- TWIN_DIVERGE_CNT
  ⟨0x090, 4, 1, 0, 32, .ro, .val 0, .any⟩,  -- TWIN_REC_LOST_CNT
  ⟨0x094, 4, 1, 0, 32, .ro, .val 0, .any⟩  -- TWIN_ISOLATED_CNT
]
def rowsTWIN_1 : List FieldRow := [
  ⟨0x098, 4, 1, 0, 32, .ro, .val 0, .any⟩,  -- TWIN_JOIN_FAIL_CNT
  ⟨0x09C, 4, 1, 0, 32, .ro, .val 0, .any⟩,  -- TWIN_SPLIT_CNT
  ⟨0x0A0, 4, 1, 0, 32, .ro, .val 0, .any⟩,  -- TWIN_JOIN_CNT
  ⟨0x0A4, 4, 1, 0, 8, .ro, .val 0, .any⟩,  -- TWIN_CNT_OVF
  ⟨0x0A8, 4, 1, 0, 8, .w1c, .val 0, .any⟩,  -- TWIN_CNT_CLR
  ⟨0x0AC, 4, 1, 0, 32, .ro, .val 0, .any⟩,  -- TWIN_PAIR_MAC_LO
  ⟨0x0B0, 4, 1, 0, 16, .ro, .val 0, .any⟩,  -- TWIN_PAIR_MAC_HI
  ⟨0x0B4, 4, 1, 0, 4, .ro, .val 0, .any⟩,  -- TWIN_JOIN_ERR
  ⟨0x0B8, 4, 1, 0, 7, .ro, .val 0, .any⟩  -- TWIN_KEY_SLOT
]
/-- Block registers of page 0x0C (TWIN), from its page map. -/
def rowsTWIN : List FieldRow := rowsTWIN_0 ++ rowsTWIN_1

/-- Block registers of page 0x10 (SNA), from its page map. -/
def rowsSNA : List FieldRow := [
  ⟨0x040, 4, 1, 2, 1, .rw, .val 0, .any⟩,  -- SNx_CTRL
  ⟨0x040, 4, 1, 1, 1, .rw, .val 1, .any⟩,  -- SNx_CTRL
  ⟨0x040, 4, 1, 0, 1, .rw, .val 0, .any⟩,  -- SNx_CTRL
  ⟨0x044, 4, 1, 4, 1, .ro, .val 0, .any⟩,  -- SNx_STAT
  ⟨0x044, 4, 1, 3, 1, .ro, .val 0, .any⟩,  -- SNx_STAT
  ⟨0x044, 4, 1, 2, 1, .ro, .val 0, .any⟩,  -- SNx_STAT
  ⟨0x044, 4, 1, 1, 1, .ro, .val 0, .any⟩,  -- SNx_STAT
  ⟨0x044, 4, 1, 0, 1, .ro, .val 0, .any⟩,  -- SNx_STAT
  ⟨0x048, 4, 1, 0, 24, .ro, .val 0, .any⟩,  -- SNx_SFP_ID
  ⟨0x04C, 4, 1, 16, 16, .ro, .val 0, .any⟩,  -- SNx_SFP_MON
  ⟨0x04C, 4, 1, 0, 16, .ro, .val 0, .any⟩,  -- SNx_SFP_MON
  ⟨0x050, 4, 1, 16, 16, .ro, .val 0, .any⟩,  -- SNx_SFP_POWER
  ⟨0x050, 4, 1, 0, 16, .ro, .val 0, .any⟩,  -- SNx_SFP_POWER
  ⟨0x054, 4, 1, 0, 32, .ro, .val 0, .any⟩,  -- SNx_LINK_DOWN_CNT
  ⟨0x058, 4, 1, 0, 32, .ro, .val 0, .any⟩,  -- SNx_RX_FRAMES
  ⟨0x05C, 4, 1, 0, 32, .ro, .val 0, .any⟩,  -- SNx_TX_FRAMES
  ⟨0x060, 4, 1, 0, 32, .ro, .val 0, .any⟩,  -- SNx_RX_CRC_ERR
  ⟨0x064, 4, 1, 0, 32, .ro, .val 0, .any⟩,  -- SNx_RX_DROP
  ⟨0x068, 4, 1, 0, 32, .ro, .val 0, .any⟩,  -- SNx_PRP_WRONG_LAN
  ⟨0x06C, 4, 1, 0, 32, .ro, .val 0, .any⟩,  -- SNx_PRP_UNIQUE
  ⟨0x070, 4, 1, 0, 32, .ro, .val 0, .any⟩,  -- SNx_GSP_FIRST
  ⟨0x074, 4, 1, 0, 5, .ro, .val 0, .any⟩,  -- SNx_CNT_OVF
  ⟨0x078, 4, 1, 0, 5, .w1c, .val 0, .any⟩  -- SNx_CNT_CLR
]

/-- Block registers of page 0x12 (SNET), from its page map. -/
def rowsSNET_0 : List FieldRow := [
  ⟨0x040, 4, 1, 4, 1, .rw, .val 0, .any⟩,  -- SNET_CTRL
  ⟨0x040, 4, 1, 3, 1, .rw, .val 0, .any⟩,  -- SNET_CTRL
  ⟨0x040, 4, 1, 2, 1, .rw, .val 0, .any⟩,  -- SNET_CTRL
  ⟨0x040, 4, 1, 1, 1, .rw, .val 0, .any⟩,  -- SNET_CTRL
  ⟨0x040, 4, 1, 0, 1, .rw, .val 0, .any⟩,  -- SNET_CTRL
  ⟨0x044, 4, 1, 3, 1, .wo, .val 0, .any⟩,  -- SNET_CMD
  ⟨0x044, 4, 1, 2, 1, .wo, .val 0, .any⟩,  -- SNET_CMD
  ⟨0x044, 4, 1, 1, 1, .wo, .val 0, .any⟩,  -- SNET_CMD
  ⟨0x044, 4, 1, 0, 1, .wo, .val 0, .any⟩,  -- SNET_CMD
  ⟨0x048, 4, 1, 16, 8, .rw, .val 0, .any⟩,  -- SNET_CMD_ARG
  ⟨0x048, 4, 1, 0, 11, .rw, .val 0, .any⟩,  -- SNET_CMD_ARG
  ⟨0x04C, 4, 1, 1, 1, .ro, .val 0, .any⟩,  -- SNET_STAT
  ⟨0x04C, 4, 1, 0, 1, .ro, .val 0, .any⟩,  -- SNET_STAT
  ⟨0x050, 4, 1, 0, 16, .rws, .val 0x1D5A, .any⟩,  -- SNET_PORT
  ⟨0x054, 4, 1, 16, 6, .rws, .val 0x2E, .any⟩,  -- SNET_VLAN
  ⟨0x054, 4, 1, 13, 3, .rws, .val 5, .any⟩,  -- SNET_VLAN
  ⟨0x054, 4, 1, 0, 12, .rws, .val 0, .any⟩,  -- SNET_VLAN
  ⟨0x058, 4, 4, 0, 32, .rws, .val 0, .any⟩,  -- SNET_IP_0 to SNET_IP_3
  ⟨0x068, 4, 1, 0, 8, .rws, .val 0x18, .any⟩,  -- SNET_PREFIX
  ⟨0x06C, 4, 1, 0, 32, .ro, .factory, .any⟩,  -- SNET_MAC_LO
  ⟨0x070, 4, 1, 0, 16, .ro, .factory, .any⟩,  -- SNET_MAC_HI
  ⟨0x074, 4, 1, 0, 32, .ro, .val 0, .any⟩,  -- SNET_EPOCH
  ⟨0x078, 4, 1, 24, 4, .rw, .val 4, .bt 1 8⟩,  -- SNET_CYC_CFG
  ⟨0x078, 4, 1, 16, 4, .rw, .val 8, .bt 1 8⟩,  -- SNET_CYC_CFG
  ⟨0x078, 4, 1, 0, 16, .rw, .val 0x7D0, .bt 500 50000⟩,  -- SNET_CYC_CFG
  ⟨0x07C, 4, 1, 0, 32, .rw, .val 0x3E8, .bt 0 60000⟩,  -- SNET_LATE_GRACE
  ⟨0x080, 4, 1, 0, 32, .rw, .val 0x7D0, .bt 100 100000⟩,  -- SNET_LAT_BUDGET
  ⟨0x084, 4, 1, 0, 32, .ro, .val 0, .any⟩,  -- SNET_LAT_OBS
  ⟨0x088, 4, 1, 0, 16, .rw, .val 0xA, .bt 2 3600⟩,  -- SNET_REKEY_CFG
  ⟨0x08C, 4, 1, 8, 7, .ro, .val 0, .any⟩,  -- SNET_KEY_CFG
  ⟨0x08C, 4, 1, 0, 7, .ro, .val 0, .any⟩,  -- SNET_KEY_CFG
  ⟨0x090, 4, 1, 24, 8, .ro, .val 0, .any⟩,  -- SNET_REKEY_STAT
  ⟨0x090, 4, 1, 16, 7, .ro, .val 0, .any⟩,  -- SNET_REKEY_STAT
  ⟨0x090, 4, 1, 0, 12, .ro, .val 0, .any⟩,  -- SNET_REKEY_STAT
  ⟨0x094, 4, 1, 0, 32, .ro, .val 0, .any⟩,  -- SNET_REKEY_AT_SEC
  ⟨0x098, 4, 1, 0, 32, .ro, .val 0, .any⟩,  -- SNET_REKEY_AT_NS
  ⟨0x09C, 4, 1, 16, 15, .ro, .val 0, .any⟩,  -- SNET_Q_USE
  ⟨0x09C, 4, 1, 0, 15, .ro, .val 0, .any⟩,  -- SNET_Q_USE
  ⟨0x0A0, 4, 1, 16, 12, .ro, .val 0, .any⟩,  -- SNET_N_ADM
  ⟨0x0A0, 4, 1, 0, 12, .ro, .val 0, .any⟩  -- SNET_N_ADM
]
def rowsSNET_1 : List FieldRow := [
  ⟨0x0A4, 4, 1, 16, 12, .ro, .val 0, .any⟩,  -- SNET_N_SIL
  ⟨0x0A4, 4, 1, 0, 12, .ro, .val 0, .any⟩,  -- SNET_N_SIL
  ⟨0x0A8, 4, 1, 16, 12, .ro, .val 0, .any⟩,  -- SNET_N_INIT
  ⟨0x0A8, 4, 1, 0, 12, .ro, .val 0, .any⟩,  -- SNET_N_INIT
  ⟨0x0AC, 4, 1, 0, 32, .ro, .val 0, .any⟩,  -- SNET_RX_OK
  ⟨0x0B0, 4, 1, 0, 32, .ro, .val 0, .any⟩,  -- SNET_RX_AUTH_FAIL
  ⟨0x0B4, 4, 1, 0, 32, .ro, .val 0, .any⟩,  -- SNET_RX_REPLAY
  ⟨0x0B8, 4, 1, 0, 32, .ro, .val 0, .any⟩,  -- SNET_RX_BAD
  ⟨0x0BC, 4, 1, 0, 32, .ro, .val 0, .any⟩,  -- SNET_RX_UNKNOWN
  ⟨0x0C0, 4, 1, 0, 32, .ro, .val 0, .any⟩,  -- SNET_RX_LATE
  ⟨0x0C4, 4, 1, 0, 32, .ro, .val 0, .any⟩,  -- SNET_RX_EXCESS
  ⟨0x0C8, 4, 1, 0, 32, .ro, .val 0, .any⟩,  -- SNET_MISS_CNT
  ⟨0x0CC, 4, 1, 0, 32, .ro, .val 0, .any⟩,  -- SNET_TX_CMD
  ⟨0x0D0, 4, 1, 0, 32, .ro, .val 0, .any⟩,  -- SNET_RETX
  ⟨0x0D4, 4, 1, 0, 32, .ro, .val 0, .any⟩,  -- SNET_CMD_LATE
  ⟨0x0D8, 4, 1, 0, 32, .ro, .val 0, .any⟩,  -- SNET_CMD_MISSED
  ⟨0x0DC, 4, 1, 0, 32, .ro, .val 0, .any⟩,  -- SNET_Q_FULL_CNT
  ⟨0x0E0, 4, 1, 0, 32, .ro, .val 0, .any⟩,  -- SNET_METER_BACK
  ⟨0x0E4, 4, 1, 0, 32, .ro, .val 0, .any⟩,  -- SNET_EPOCH_BACK
  ⟨0x0E8, 4, 1, 0, 32, .ro, .val 0, .any⟩,  -- SNET_LAT_EXCEED
  ⟨0x0EC, 4, 1, 0, 32, .ro, .val 0, .any⟩,  -- SNET_LOST_CNT
  ⟨0x0F0, 4, 1, 0, 32, .ro, .val 0, .any⟩,  -- SNET_DUP_DISC
  ⟨0x0F4, 4, 1, 0, 14, .ro, .val 0, .any⟩,  -- SNET_CNT_OVF
  ⟨0x0F8, 4, 1, 0, 14, .w1c, .val 0, .any⟩,  -- SNET_CNT_CLR
  ⟨0x0FC, 4, 1, 31, 1, .ro, .val 0, .any⟩,  -- SNET_STAT_X
  ⟨0x0FC, 4, 1, 30, 1, .w1c, .val 0, .any⟩,  -- SNET_STAT_X
  ⟨0x100, 4, 8, 0, 32, .ro, .val 0, .any⟩,  -- SNET_GRP_DEF_k
  ⟨0x120, 4, 8, 0, 32, .ro, .val 0, .any⟩,  -- SNET_GRP_OLD_k
  ⟨0x140, 4, 8, 0, 32, .ro, .val 0, .any⟩  -- SNET_GRP_REV_k
]
/-- Block registers of page 0x12 (SNET), from its page map. -/
def rowsSNET : List FieldRow := rowsSNET_0 ++ rowsSNET_1

/-- Block registers of page 0x14 (CANC), from its page map. -/
def rowsCANC_0 : List FieldRow := [
  ⟨0x040, 4, 1, 8, 4, .rw, .val 2, .bt 1 10⟩,  -- CANx_CTRL.WAKE_FILT
  ⟨0x040, 4, 1, 7, 1, .rws, .val 1, .any⟩,  -- CANx_CTRL.PEX_EN
  ⟨0x040, 4, 1, 6, 1, .rws, .val 1, .any⟩,  -- CANx_CTRL.FD_EN
  ⟨0x040, 4, 1, 5, 1, .rws, .val 0, .any⟩,  -- CANx_CTRL.REF_FMT
  ⟨0x040, 4, 1, 4, 1, .rw, .val 1, .any⟩,  -- CANx_CTRL.REF_EN
  ⟨0x040, 4, 1, 3, 1, .rws, .val 0, .any⟩,  -- CANx_CTRL.TRIPLE
  ⟨0x040, 4, 1, 2, 1, .rw, .val 0, .any⟩,  -- CANx_CTRL.LOOPBACK
  ⟨0x040, 4, 1, 1, 1, .rw, .val 0, .any⟩,  -- CANx_CTRL.TEST
  ⟨0x040, 4, 1, 0, 1, .rw, .val 0, .any⟩,  -- CANx_CTRL.EN
  ⟨0x044, 4, 1, 2, 1, .wo, .val 0, .any⟩,  -- CANx_CMD.STN_RESET
  ⟨0x044, 4, 1, 1, 1, .wo, .val 0, .any⟩,  -- CANx_CMD.WAKE
  ⟨0x044, 4, 1, 0, 1, .wo, .val 0, .any⟩,  -- CANx_CMD.SLEEP
  ⟨0x048, 4, 1, 0, 5, .rw, .val 0, .any⟩,  -- CANx_CMD_ARG.STATION
  ⟨0x04C, 4, 1, 11, 1, .ro, .val 0, .any⟩,  -- CANx_STAT.TDC_SAT
  ⟨0x04C, 4, 1, 10, 1, .ro, .val 0, .any⟩,  -- CANx_STAT.PRIV_PEND
  ⟨0x04C, 4, 1, 9, 1, .ro, .val 0, .any⟩,  -- CANx_STAT.WAKE_FRAME
  ⟨0x04C, 4, 1, 8, 1, .ro, .val 0, .any⟩,  -- CANx_STAT.TRIPLE_IGNORED
  ⟨0x04C, 4, 1, 7, 1, .ro, .val 0, .any⟩,  -- CANx_STAT.EWARN
  ⟨0x04C, 4, 1, 5, 2, .ro, .val 0, .any⟩,  -- CANx_STAT.CONF
  ⟨0x04C, 4, 1, 0, 3, .ro, .val 0, .any⟩,  -- CANx_STAT.MODE
  ⟨0x050, 4, 1, 25, 7, .rws, .val 0x1F, .any⟩,  -- CANx_NBT
  ⟨0x050, 4, 1, 16, 9, .rws, .val 0, .any⟩,  -- CANx_NBT
  ⟨0x050, 4, 1, 8, 8, .rws, .val 0x7E, .any⟩,  -- CANx_NBT
  ⟨0x050, 4, 1, 0, 7, .rws, .val 0x1F, .any⟩,  -- CANx_NBT
  ⟨0x054, 4, 1, 24, 5, .rws, .val 0, .any⟩,  -- CANx_DBT
  ⟨0x054, 4, 1, 16, 5, .rws, .val 0x1C, .any⟩,  -- CANx_DBT
  ⟨0x054, 4, 1, 8, 4, .rws, .val 9, .any⟩,  -- CANx_DBT
  ⟨0x054, 4, 1, 0, 4, .rws, .val 9, .any⟩,  -- CANx_DBT
  ⟨0x058, 4, 1, 31, 1, .rws, .val 1, .any⟩,  -- CANx_TDC
  ⟨0x058, 4, 1, 16, 7, .rws, .val 0, .any⟩,  -- CANx_TDC
  ⟨0x058, 4, 1, 0, 7, .rws, .val 0x1E, .any⟩,  -- CANx_TDC
  ⟨0x05C, 4, 1, 0, 7, .ro, .val 0, .any⟩,  -- CANx_TDC_MEAS
  ⟨0x060, 4, 1, 16, 9, .ro, .val 0, .any⟩,  -- CANx_ERR
  ⟨0x060, 4, 1, 0, 8, .ro, .val 0, .any⟩,  -- CANx_ERR
  ⟨0x064, 4, 1, 29, 3, .ro, .val 0, .any⟩,  -- CANx_LEC
  ⟨0x064, 4, 1, 0, 29, .ro, .val 0, .any⟩,  -- CANx_LEC
  ⟨0x068, 4, 1, 0, 8, .ro, .val 0, .any⟩,  -- CANx_BOFF_RCV
  ⟨0x06C, 4, 1, 31, 1, .rws, .val 0, .any⟩,  -- CANx_REF_ID
  ⟨0x06C, 4, 1, 0, 29, .rws, .val 1, .any⟩,  -- CANx_REF_ID
  ⟨0x070, 4, 1, 0, 32, .ro, .val 0, .any⟩  -- CANx_REF_CNT
]
def rowsCANC_1 : List FieldRow := [
  ⟨0x074, 4, 1, 0, 32, .ro, .val 0xFFFFFFFF, .any⟩,  -- CANx_REF_DLY
  ⟨0x078, 4, 1, 31, 1, .rw, .val 0, .any⟩,  -- CANx_WAKE_ID
  ⟨0x078, 4, 1, 0, 29, .rw, .val 0, .any⟩,  -- CANx_WAKE_ID
  ⟨0x07C, 4, 1, 0, 29, .rw, .val 0x1FFFFFFF, .any⟩,  -- CANx_WAKE_MASK
  ⟨0x080, 4, 1, 0, 32, .rw, .val 0, .any⟩,  -- CANx_WAKE_DATA
  ⟨0x084, 4, 1, 0, 32, .rw, .val 0, .any⟩,  -- CANx_WAKE_DMASK
  ⟨0x088, 4, 1, 31, 1, .ro, .val 0, .any⟩,  -- CANx_CLASH
  ⟨0x088, 4, 1, 30, 1, .ro, .val 0, .any⟩,  -- CANx_CLASH
  ⟨0x088, 4, 1, 29, 1, .ro, .val 0, .any⟩,  -- CANx_CLASH
  ⟨0x088, 4, 1, 0, 29, .ro, .val 0, .any⟩,  -- CANx_CLASH
  ⟨0x090, 4, 1, 0, 32, .ro, .val 0, .any⟩,  -- CANx_TX_OK
  ⟨0x094, 4, 1, 0, 32, .ro, .val 0, .any⟩,  -- CANx_RX_OK
  ⟨0x098, 4, 1, 0, 32, .ro, .val 0, .any⟩,  -- CANx_RX_UNMATCHED
  ⟨0x09C, 4, 1, 0, 32, .ro, .val 0, .any⟩,  -- CANx_RX_REMOTE
  ⟨0x0A0, 4, 5, 0, 32, .ro, .val 0, .any⟩,  -- CANx_STUFF_ERR, _FORM_ERR, _ACK_ERR, _BIT_ERR, _CRC_ERR
  ⟨0x0B4, 4, 1, 0, 32, .ro, .val 0, .any⟩,  -- CANx_BOFF_CNT
  ⟨0x0B8, 4, 1, 0, 32, .ro, .val 0, .any⟩,  -- CANx_PASSIVE_CNT
  ⟨0x0BC, 4, 1, 0, 32, .ro, .val 0, .any⟩,  -- CANx_CLASH_CNT
  ⟨0x0C0, 4, 1, 0, 32, .ro, .val 0, .any⟩,  -- CANx_SUSPECT_CNT
  ⟨0x0C4, 4, 1, 0, 32, .ro, .val 0, .any⟩,  -- CANx_PRIV_MOVED
  ⟨0x0C8, 4, 1, 0, 32, .ro, .val 0, .any⟩,  -- CANx_TX_REFRESH
  ⟨0x0CC, 4, 1, 0, 32, .ro, .val 0, .any⟩,  -- CANx_PEX_CNT
  ⟨0x0D0, 4, 1, 0, 32, .ro, .val 0, .any⟩,  -- CANx_DROP_CNT
  ⟨0x0D4, 4, 1, 0, 32, .ro, .val 0, .any⟩,  -- CANx_LEN_MISMATCH
  ⟨0x0D8, 4, 1, 0, 32, .ro, .val 0, .any⟩,  -- CANx_REF_LOST
  ⟨0x0DC, 4, 1, 0, 16, .ro, .val 0, .any⟩,  -- CANx_CNT_OVF
  ⟨0x0E0, 4, 1, 0, 16, .w1c, .val 0, .any⟩,  -- CANx_CNT_CLR
  ⟨0x0E4, 4, 1, 0, 32, .ro, .val 0, .any⟩,  -- CANx_STN_DEF
  ⟨0x0E8, 4, 1, 0, 32, .ro, .val 0, .any⟩,  -- CANx_STN_RUN
  ⟨0x0EC, 4, 1, 0, 32, .ro, .val 0, .any⟩,  -- CANx_STN_DROP
  ⟨0x0F0, 4, 1, 0, 12, .ro, .val 0, .any⟩,  -- CANx_IMG_MBX
  ⟨0x0F4, 4, 1, 0, 32, .ro, .val 0, .any⟩,  -- CANx_OBJ_PEND_LO
  ⟨0x0F8, 4, 1, 0, 32, .ro, .val 0, .any⟩,  -- CANx_OBJ_PEND_HI
  ⟨0x0FC, 4, 1, 0, 32, .ro, .val 0, .any⟩,  -- CANx_OBJ_STOP_LO
  ⟨0x100, 4, 1, 0, 32, .ro, .val 0, .any⟩  -- CANx_OBJ_STOP_HI
]
/-- Block registers of page 0x14 (CANC), from its page map. -/
def rowsCANC : List FieldRow := rowsCANC_0 ++ rowsCANC_1

/-- Block registers of page 0x18 (ADC), from its page map. -/
def rowsADC : List FieldRow := [
  ⟨0x040, 4, 1, 0, 1, .rw, .val 0, .any⟩,  -- ADC_CTRL
  ⟨0x044, 4, 1, 4, 4, .ro, .val 0, .any⟩,  -- ADC_STAT
  ⟨0x044, 4, 1, 0, 1, .ro, .val 0, .any⟩,  -- ADC_STAT
  ⟨0x048, 4, 4, 0, 3, .rw, .val 0, .any⟩,  -- ADC_CHSEL_n
  ⟨0x058, 4, 4, 0, 17, .rw, .val 0, .zor 200 100000⟩,  -- ADC_TMR_k
  ⟨0x068, 4, 8, 31, 1, .rw, .val 0, .any⟩,  -- ADC_TRG_k
  ⟨0x068, 4, 8, 4, 16, .rw, .val 0, .any⟩,  -- ADC_TRG_k
  ⟨0x068, 4, 8, 0, 4, .rw, .val 0, .any⟩,  -- ADC_TRG_k
  ⟨0x088, 4, 4, 0, 32, .ro, .val 0, .any⟩,  -- ADC_TRIG_LOST_n
  ⟨0x098, 4, 4, 0, 32, .ro, .val 0, .any⟩,  -- ADC_CONV_CNT_n
  ⟨0x0A8, 4, 1, 0, 4, .ro, .val 0, .any⟩,  -- ADC_CNT_OVF
  ⟨0x0AC, 4, 1, 0, 4, .w1c, .val 0, .any⟩,  -- ADC_CNT_CLR
  ⟨0x0B0, 4, 1, 0, 32, .ro, .val 0, .any⟩,  -- ADC_OVR
  ⟨0x0B4, 4, 1, 0, 32, .w1c, .val 0, .any⟩,  -- ADC_OVR_CLR
  ⟨0x0B8, 4, 1, 0, 12, .ro, .val 0, .any⟩  -- ADC_IMG_MBX
]

/-- Block registers of page 0x19 (MOD), from its page map. -/
def rowsMOD : List FieldRow := [
  ⟨0x040, 4, 1, 1, 4, .rw, .val 0, .any⟩,  -- MOD_CTRL
  ⟨0x040, 4, 1, 0, 1, .rw, .val 0, .any⟩,  -- MOD_CTRL
  ⟨0x044, 4, 1, 28, 1, .ro, .val 0, .any⟩,  -- MOD_STAT
  ⟨0x044, 4, 1, 0, 28, .ro, .val 0, .any⟩,  -- MOD_STAT
  ⟨0x048, 4, 1, 0, 28, .ro, .val 0, .any⟩,  -- MOD_FAULT
  ⟨0x04C, 4, 1, 0, 28, .w1c, .val 0, .any⟩,  -- MOD_FAULT_CLR
  ⟨0x050, 4, 1, 0, 28, .ro, .val 0, .any⟩,  -- MOD_CLIP
  ⟨0x054, 4, 1, 0, 28, .w1c, .val 0, .any⟩,  -- MOD_CLIP_CLR
  ⟨0x058, 4, 1, 0, 32, .ro, .val 0, .any⟩,  -- MOD_FAULT_CNT
  ⟨0x05C, 4, 1, 0, 32, .ro, .val 0, .any⟩,  -- MOD_CLIP_CNT
  ⟨0x060, 4, 1, 0, 2, .ro, .val 0, .any⟩,  -- MOD_CNT_OVF
  ⟨0x064, 4, 1, 0, 2, .w1c, .val 0, .any⟩,  -- MOD_CNT_CLR
  ⟨0x068, 4, 1, 0, 32, .ro, .val 0x64B0B, .any⟩,  -- MOD_GRP_DLY
  ⟨0x070, 4, 28, 0, 24, .ro, .val 0, .any⟩  -- MOD_PEAK_m
]

/-- Block registers of page 0x1A (EMET), from its page map. -/
def rowsEMET : List FieldRow := [
  ⟨0x040, 4, 1, 0, 4, .rw, .val 0, .any⟩,  -- EMET_CTRL
  ⟨0x044, 4, 1, 16, 10, .rw, .val 0xC8, .wfr⟩,  -- EMET_CFG
  ⟨0x044, 4, 1, 0, 6, .rw, .val 0xF, .any⟩,  -- EMET_CFG
  ⟨0x048, 4, 1, 0, 1, .wo, .val 0, .any⟩,  -- EMET_CMD
  ⟨0x04C, 4, 1, 14, 1, .ro, .val 0, .any⟩,  -- EMET_STAT
  ⟨0x04C, 4, 1, 13, 1, .ro, .val 0, .any⟩,  -- EMET_STAT
  ⟨0x04C, 4, 1, 12, 1, .ro, .val 0, .any⟩,  -- EMET_STAT
  ⟨0x04C, 4, 1, 8, 4, .ro, .val 0, .any⟩,  -- EMET_STAT
  ⟨0x04C, 4, 1, 4, 4, .ro, .val 0, .any⟩,  -- EMET_STAT
  ⟨0x04C, 4, 1, 0, 4, .ro, .val 0, .any⟩,  -- EMET_STAT
  ⟨0x050, 4, 1, 0, 32, .ro, .val 0, .any⟩,  -- EMET_SAVE_SEQ
  ⟨0x054, 4, 1, 30, 2, .ro, .val 0, .any⟩,  -- EMET_RESTORE
  ⟨0x058, 4, 1, 0, 12, .ro, .val 0, .any⟩,  -- EMET_MBX
  ⟨0x05C, 4, 1, 0, 32, .ro, .val 0, .any⟩,  -- EMET_INT_SEC
  ⟨0x060, 32, 4, 0, 32, .rw, .val 0x43660000, .any⟩,  -- EMET_UNOM_p
  ⟨0x064, 32, 4, 0, 32, .rw, .val 0x42C80000, .any⟩,  -- EMET_INOM_p
  ⟨0x068, 32, 4, 16, 16, .rw, .val 5, .any⟩,  -- EMET_NCFG_p
  ⟨0x068, 32, 4, 0, 16, .rw, .val 0x64, .any⟩,  -- EMET_NCFG_p
  ⟨0x06C, 32, 4, 0, 32, .ro, .val 0, .any⟩,  -- EMET_FREQ_p
  ⟨0x070, 32, 4, 0, 32, .ro, .val 0, .any⟩,  -- EMET_PTOT_p
  ⟨0x074, 32, 4, 0, 32, .ro, .val 0, .any⟩,  -- EMET_QTOT_p
  ⟨0x078, 32, 4, 0, 32, .ro, .val 0, .any⟩,  -- EMET_GAP_FR_p
  ⟨0x0E0, 4, 1, 0, 32, .ro, .val 0, .any⟩,  -- EMET_SEQ_CNT
  ⟨0x0E4, 4, 1, 0, 32, .ro, .val 0, .any⟩,  -- EMET_NLOST_CNT
  ⟨0x0E8, 4, 1, 0, 32, .ro, .val 0, .any⟩,  -- EMET_SAVE_FAIL_CNT
  ⟨0x0EC, 4, 1, 0, 7, .ro, .val 0, .any⟩,  -- EMET_CNT_OVF
  ⟨0x0F0, 4, 1, 0, 7, .w1c, .val 0, .any⟩  -- EMET_CNT_CLR
]

/-- Block registers of page 0x1B (HMET), from its page map. -/
def rowsHMET : List FieldRow := [
  ⟨0x040, 4, 1, 0, 16, .rw, .val 0, .any⟩,  -- HMET_CTRL
  ⟨0x044, 4, 1, 0, 6, .rw, .val 0xF, .any⟩,  -- HMET_CFG
  ⟨0x048, 4, 1, 16, 16, .ro, .val 0, .any⟩,  -- HMET_STAT
  ⟨0x048, 4, 1, 0, 16, .ro, .val 0, .any⟩,  -- HMET_STAT
  ⟨0x04C, 4, 1, 0, 32, .ro, .val 0, .any⟩,  -- HMET_INT_SEC
  ⟨0x050, 4, 1, 0, 12, .ro, .val 0, .any⟩,  -- HMET_MBX
  ⟨0x054, 4, 16, 0, 32, .ro, .val 0, .any⟩,  -- HMET_PWR_t
  ⟨0x094, 4, 16, 0, 32, .ro, .val 0, .any⟩,  -- HMET_FLOW_t
  ⟨0x0D4, 4, 1, 0, 32, .ro, .val 0, .any⟩,  -- HMET_FAULT_CNT
  ⟨0x0D8, 4, 1, 0, 1, .ro, .val 0, .any⟩,  -- HMET_CNT_OVF
  ⟨0x0DC, 4, 1, 0, 1, .w1c, .val 0, .any⟩  -- HMET_CNT_CLR
]

/-- Block registers of page 0x1C (DIO), from its page map. -/
def rowsDIO : List FieldRow := [
  ⟨0x040, 4, 1, 1, 1, .rw, .val 0, .any⟩,  -- DIO_CTRL
  ⟨0x040, 4, 1, 0, 1, .rw, .val 0, .any⟩,  -- DIO_CTRL
  ⟨0x044, 4, 1, 16, 8, .ro, .val 0, .any⟩,  -- DIO_DI_STATE
  ⟨0x044, 4, 1, 0, 16, .ro, .val 0, .any⟩,  -- DIO_DI_STATE
  ⟨0x048, 4, 1, 0, 32, .rw, .val 0x55555555, .any⟩,  -- DIO_DI_FILT
  ⟨0x04C, 4, 1, 0, 32, .rw, .val 0, .any⟩,  -- DIO_DI_EDGE
  ⟨0x050, 4, 1, 24, 4, .ro, .val 0, .any⟩,  -- DIO_DO_STATE
  ⟨0x050, 4, 1, 16, 8, .ro, .val 0, .any⟩,  -- DIO_DO_STATE
  ⟨0x050, 4, 1, 8, 8, .ro, .val 0, .any⟩,  -- DIO_DO_STATE
  ⟨0x050, 4, 1, 0, 8, .ro, .val 0, .any⟩,  -- DIO_DO_STATE
  ⟨0x054, 4, 1, 0, 8, .w1s, .val 0, .any⟩,  -- DIO_DO_SET
  ⟨0x058, 4, 1, 0, 8, .w1c, .val 0, .any⟩,  -- DIO_DO_CLR
  ⟨0x05C, 4, 1, 8, 16, .rw, .val 0, .any⟩,  -- DIO_DO_CFG
  ⟨0x05C, 4, 1, 0, 8, .rw, .val 0, .any⟩,  -- DIO_DO_CFG
  ⟨0x060, 4, 1, 0, 4, .rw, .val 0, .any⟩,  -- DIO_TRIP_CTRL
  ⟨0x064, 4, 1, 0, 8, .w1c, .val 0, .any⟩,  -- DIO_OC_CLR
  ⟨0x068, 4, 16, 0, 32, .ro, .val 0, .any⟩,  -- DIO_PCNT_i
  ⟨0x0A8, 4, 1, 0, 32, .ro, .val 0, .any⟩,  -- DIO_OC_CNT
  ⟨0x0AC, 4, 1, 0, 32, .ro, .val 0, .any⟩,  -- DIO_RB_CNT
  ⟨0x0B0, 4, 1, 0, 2, .ro, .val 0, .any⟩,  -- DIO_CNT_OVF
  ⟨0x0B4, 4, 1, 0, 2, .w1c, .val 0, .any⟩,  -- DIO_CNT_CLR
  ⟨0x0B8, 4, 1, 0, 12, .ro, .val 0, .any⟩  -- DIO_IMG_MBX
]

/-- Block registers of page 0x1D (AOUT), from its page map. -/
def rowsAOUT : List FieldRow := [
  ⟨0x040, 4, 1, 4, 4, .rw, .val 0, .any⟩,  -- AOUT_CTRL
  ⟨0x040, 4, 1, 0, 4, .rw, .val 0, .any⟩,  -- AOUT_CTRL
  ⟨0x044, 4, 1, 31, 1, .ro, .val 0, .any⟩,  -- AOUT_STAT
  ⟨0x044, 4, 1, 20, 4, .ro, .val 0, .any⟩,  -- AOUT_STAT
  ⟨0x044, 4, 1, 16, 4, .ro, .val 0, .any⟩,  -- AOUT_STAT
  ⟨0x044, 4, 1, 12, 4, .ro, .val 0, .any⟩,  -- AOUT_STAT
  ⟨0x044, 4, 1, 8, 4, .ro, .val 0, .any⟩,  -- AOUT_STAT
  ⟨0x044, 4, 1, 4, 4, .ro, .val 0, .any⟩,  -- AOUT_STAT
  ⟨0x044, 4, 1, 0, 4, .ro, .val 0, .any⟩,  -- AOUT_STAT
  ⟨0x048, 4, 4, 30, 2, .rw, .val 0, .any⟩,  -- AOUT_CFG_a
  ⟨0x048, 4, 4, 29, 1, .rw, .val 0, .any⟩,  -- AOUT_CFG_a
  ⟨0x048, 4, 4, 28, 1, .rw, .val 0, .any⟩,  -- AOUT_CFG_a
  ⟨0x048, 4, 4, 0, 15, .rw, .val 0, .bt 0 24000⟩,  -- AOUT_CFG_a
  ⟨0x058, 4, 4, 0, 15, .rw, .val 0, .bt 0 24000⟩,  -- AOUT_PEND_a
  ⟨0x068, 4, 4, 16, 16, .ro, .val 0, .any⟩,  -- AOUT_OUT_a
  ⟨0x068, 4, 4, 0, 15, .ro, .val 0, .any⟩,  -- AOUT_OUT_a
  ⟨0x078, 4, 4, 30, 2, .rw, .val 0, .any⟩,  -- PWM_CFG_k
  ⟨0x078, 4, 4, 29, 1, .rw, .val 0, .any⟩,  -- PWM_CFG_k
  ⟨0x078, 4, 4, 28, 1, .rw, .val 0, .any⟩,  -- PWM_CFG_k
  ⟨0x078, 4, 4, 0, 14, .rw, .val 0, .bt 0 10000⟩,  -- PWM_CFG_k
  ⟨0x088, 4, 4, 0, 27, .rw, .val 0x186A0, .bt 1000 100000000⟩,  -- PWM_PER_k
  ⟨0x098, 4, 4, 16, 14, .rw, .val 0, .any⟩,  -- PWM_DUTY_k
  ⟨0x098, 4, 4, 0, 14, .rw, .val 0, .any⟩,  -- PWM_DUTY_k
  ⟨0x0A8, 4, 4, 0, 14, .ro, .val 0, .any⟩,  -- PWM_ACT_k
  ⟨0x0B8, 4, 1, 0, 32, .ro, .val 0, .any⟩,  -- AOUT_OPEN_CNT
  ⟨0x0BC, 4, 1, 0, 1, .w1c, .val 0, .any⟩  -- AOUT_CNT_CLR
]

/-- Block registers of page 0x20 (LOOP), from its page map. -/
def rowsLOOP : List FieldRow := [
  ⟨0x040, 4, 1, 0, 1, .rw, .val 0, .any⟩,  -- LOOP_CTRL
  ⟨0x044, 4, 1, 2, 1, .wo, .val 0, .any⟩,  -- LOOP_CMD
  ⟨0x044, 4, 1, 1, 1, .wo, .val 0, .any⟩,  -- LOOP_CMD
  ⟨0x044, 4, 1, 0, 1, .wo, .val 0, .any⟩,  -- LOOP_CMD
  ⟨0x048, 4, 1, 0, 8, .rw, .val 0, .any⟩,  -- LOOP_CMD_ARG
  ⟨0x04C, 4, 1, 8, 1, .ro, .val 0, .any⟩,  -- LOOP_STAT
  ⟨0x04C, 4, 1, 0, 8, .ro, .val 0, .any⟩,  -- LOOP_STAT
  ⟨0x050, 4, 1, 0, 32, .rw, .val 0x40A00000, .any⟩,  -- LOOP_TUNE_AMP
  ⟨0x054, 4, 1, 0, 32, .rw, .val 0, .any⟩,  -- LOOP_TUNE_HYS
  ⟨0x058, 4, 1, 16, 16, .rw, .val 0x708, .bt 10 65535⟩,  -- LOOP_TUNE_CFG
  ⟨0x058, 4, 1, 4, 4, .rw, .val 4, .bt 2 10⟩,  -- LOOP_TUNE_CFG
  ⟨0x058, 4, 1, 0, 4, .rw, .val 0, .bt 0 1⟩,  -- LOOP_TUNE_CFG
  ⟨0x05C, 4, 1, 0, 32, .rw, .val 0x7F7FFFFF, .any⟩,  -- LOOP_TUNE_PVLIM
  ⟨0x060, 4, 1, 16, 9, .ro, .val 0, .any⟩,  -- LOOP_N
  ⟨0x060, 4, 1, 0, 9, .ro, .val 0, .any⟩,  -- LOOP_N
  ⟨0x064, 4, 1, 0, 32, .ro, .val 0, .any⟩,  -- LOOP_PV_BAD_CNT
  ⟨0x068, 4, 1, 0, 32, .ro, .val 0, .any⟩,  -- LOOP_NONFINITE_CNT
  ⟨0x06C, 4, 1, 0, 32, .ro, .val 0, .any⟩,  -- LOOP_TUNE_CNT
  ⟨0x070, 4, 1, 0, 2, .ro, .val 0, .any⟩,  -- LOOP_CNT_OVF
  ⟨0x074, 4, 1, 0, 2, .w1c, .val 0, .any⟩,  -- LOOP_CNT_CLR
  ⟨0x078, 4, 1, 0, 12, .ro, .val 0, .any⟩,  -- LOOP_MBX
  ⟨0x080, 4, 8, 0, 32, .w1s, .val 0, .any⟩,  -- LOOP_HOLD_SET_k
  ⟨0x0A0, 4, 8, 0, 32, .w1c, .val 0, .any⟩,  -- LOOP_HOLD_CLR_k
  ⟨0x0C0, 4, 8, 0, 32, .ro, .val 0, .any⟩,  -- LOOP_BAD_k
  ⟨0x0E0, 4, 8, 0, 32, .ro, .val 0, .any⟩  -- LOOP_SAT_k
]

/-- Block registers of page 0x21 (CPE0), from its page map. -/
def rowsCPE0_0 : List FieldRow := [
  ⟨0x040, 4, 1, 1, 1, .rw, .val 1, .any⟩,  -- CPEx_CTRL
  ⟨0x040, 4, 1, 0, 1, .rw, .val 1, .any⟩,  -- CPEx_CTRL
  ⟨0x044, 4, 1, 3, 1, .wo, .val 0, .any⟩,  -- CPEx_CMD
  ⟨0x044, 4, 1, 2, 1, .wo, .val 0, .any⟩,  -- CPEx_CMD
  ⟨0x044, 4, 1, 1, 1, .wo, .val 0, .any⟩,  -- CPEx_CMD
  ⟨0x044, 4, 1, 0, 1, .wo, .val 0, .any⟩,  -- CPEx_CMD
  ⟨0x048, 4, 1, 16, 10, .rw, .val 0, .bt 0 999⟩,  -- CPEx_CMD_ARG
  ⟨0x048, 4, 1, 15, 1, .rw, .val 0, .any⟩,  -- CPEx_CMD_ARG
  ⟨0x04C, 4, 1, 16, 9, .ro, .val 0, .any⟩,  -- CPEx_STAT
  ⟨0x04C, 4, 1, 6, 1, .ro, .val 0, .any⟩,  -- CPEx_STAT
  ⟨0x04C, 4, 1, 5, 1, .ro, .val 0, .any⟩,  -- CPEx_STAT
  ⟨0x04C, 4, 1, 4, 1, .ro, .val 0, .any⟩,  -- CPEx_STAT
  ⟨0x04C, 4, 1, 3, 1, .ro, .val 0, .any⟩,  -- CPEx_STAT
  ⟨0x04C, 4, 1, 2, 1, .ro, .val 0, .any⟩,  -- CPEx_STAT
  ⟨0x04C, 4, 1, 1, 1, .ro, .val 0, .any⟩,  -- CPEx_STAT
  ⟨0x04C, 4, 1, 0, 1, .ro, .val 0, .any⟩,  -- CPEx_STAT
  ⟨0x050, 4, 1, 28, 4, .ro, .val 0, .any⟩,  -- CPEx_VFY_ERR
  ⟨0x050, 4, 1, 24, 4, .ro, .val 0, .any⟩,  -- CPEx_VFY_ERR
  ⟨0x050, 4, 1, 0, 24, .ro, .val 0, .any⟩,  -- CPEx_VFY_ERR
  ⟨0x054, 4, 1, 0, 32, .ro, .val 0, .any⟩,  -- CPEx_IMG_ID
  ⟨0x058, 4, 1, 0, 32, .ro, .val 0, .any⟩,  -- CPEx_IMG_VER
  ⟨0x05C, 4, 1, 0, 32, .ro, .val 0, .any⟩,  -- CPEx_INACT_ID
  ⟨0x060, 4, 1, 0, 32, .ro, .val 0, .any⟩,  -- CPEx_INACT_VER
  ⟨0x064, 4, 1, 0, 32, .ro, .val 0, .any⟩,  -- CPEx_MIGRATE_WC
  ⟨0x068, 4, 1, 16, 16, .ro, .val 0, .any⟩,  -- CPEx_MIG_STAT
  ⟨0x068, 4, 1, 0, 16, .ro, .val 0, .any⟩,  -- CPEx_MIG_STAT
  ⟨0x06C, 4, 1, 0, 32, .ro, .val 0, .any⟩,  -- CPEx_SWITCH_FNO
  ⟨0x070, 4, 1, 16, 12, .ro, .val 0, .any⟩,  -- CPEx_MBX
  ⟨0x070, 4, 1, 0, 12, .ro, .val 0, .any⟩,  -- CPEx_MBX
  ⟨0x074, 4, 1, 24, 8, .ro, .val 0, .any⟩,  -- CPEx_ERR_LAST
  ⟨0x074, 4, 1, 16, 8, .ro, .val 0, .any⟩,  -- CPEx_ERR_LAST
  ⟨0x074, 4, 1, 0, 16, .ro, .val 0, .any⟩,  -- CPEx_ERR_LAST
  ⟨0x078, 4, 1, 0, 32, .ro, .val 0, .any⟩,  -- CPEx_ERR_CNT
  ⟨0x07C, 4, 1, 0, 32, .ro, .val 0, .any⟩,  -- CPEx_ERRQ_LOST
  ⟨0x080, 4, 1, 0, 32, .ro, .val 0, .any⟩,  -- CPEx_RTF_CNT
  ⟨0x084, 4, 1, 0, 32, .ro, .val 0, .any⟩,  -- CPEx_ORPH_CNT
  ⟨0x088, 4, 1, 0, 32, .ro, .val 0, .any⟩,  -- CPEx_SWITCH_CNT
  ⟨0x08C, 4, 1, 0, 32, .ro, .val 0, .any⟩,  -- CPEx_RETAIN_SEQ
  ⟨0x090, 4, 1, 0, 4, .ro, .val 0, .any⟩,  -- CPEx_CNT_OVF
  ⟨0x094, 4, 1, 0, 4, .w1c, .val 0, .any⟩  -- CPEx_CNT_CLR
]
def rowsCPE0_1 : List FieldRow := [
  ⟨0x098, 4, 1, 8, 8, .ro, .val 0, .any⟩,  -- CPEx_TASK_DEF
  ⟨0x098, 4, 1, 0, 5, .ro, .val 0, .any⟩,  -- CPEx_TASK_DEF
  ⟨0x09C, 8, 5, 0, 32, .ro, .val 0, .any⟩,  -- CPEx_TASK_RUN_k
  ⟨0x0A0, 8, 5, 16, 16, .ro, .val 0, .any⟩,  -- CPEx_TASK_TIME_k
  ⟨0x0A0, 8, 5, 0, 16, .ro, .val 0, .any⟩  -- CPEx_TASK_TIME_k
]
/-- Block registers of page 0x21 (CPE0), from its page map. -/
def rowsCPE0 : List FieldRow := rowsCPE0_0 ++ rowsCPE0_1

/-- Block registers of page 0x24 (MODEL), from its page map. -/
def rowsMODEL_0 : List FieldRow := [
  ⟨0x040, 4, 1, 4, 1, .rw, .val 0, .any⟩,  -- MODEL_CTRL.SUBST_EN
  ⟨0x040, 4, 1, 3, 1, .rw, .val 0, .any⟩,  -- MODEL_CTRL.ADAPT_EN
  ⟨0x040, 4, 1, 2, 1, .rw, .val 0, .any⟩,  -- MODEL_CTRL.ARR_EN
  ⟨0x040, 4, 1, 1, 1, .rw, .val 0, .any⟩,  -- MODEL_CTRL.THM_EN
  ⟨0x040, 4, 1, 0, 1, .rw, .val 0, .any⟩,  -- MODEL_CTRL.HYD_EN
  ⟨0x044, 4, 1, 4, 1, .wo, .val 0, .any⟩,  -- MODEL_CMD.PARCEL_RESET
  ⟨0x044, 4, 1, 3, 1, .wo, .val 0, .any⟩,  -- MODEL_CMD.ADAPT_RESET
  ⟨0x044, 4, 1, 2, 1, .wo, .val 0, .any⟩,  -- MODEL_CMD.CANCEL
  ⟨0x044, 4, 1, 1, 1, .wo, .val 0, .any⟩,  -- MODEL_CMD.SWITCH
  ⟨0x044, 4, 1, 0, 1, .wo, .val 0, .any⟩,  -- MODEL_CMD.VERIFY
  ⟨0x048, 4, 1, 16, 4, .ro, .val 0, .any⟩,  -- MODEL_STAT.LEAK
  ⟨0x048, 4, 1, 12, 4, .ro, .val 0, .any⟩,  -- MODEL_STAT.NOCONV
  ⟨0x048, 4, 1, 8, 4, .ro, .val 0, .any⟩,  -- MODEL_STAT.DEF
  ⟨0x048, 4, 1, 4, 1, .ro, .val 0, .any⟩,  -- MODEL_STAT.VFY_FAILED
  ⟨0x048, 4, 1, 3, 1, .ro, .val 0, .any⟩,  -- MODEL_STAT.SWITCH_PEND
  ⟨0x048, 4, 1, 2, 1, .ro, .val 0, .any⟩,  -- MODEL_STAT.VFY_BUSY
  ⟨0x048, 4, 1, 1, 1, .ro, .val 0, .any⟩,  -- MODEL_STAT.VERIFIED
  ⟨0x048, 4, 1, 0, 1, .ro, .val 0, .any⟩,  -- MODEL_STAT.ACT_BANK
  ⟨0x04C, 4, 1, 28, 4, .ro, .val 0, .any⟩,  -- MODEL_VFY_ERR
  ⟨0x04C, 4, 1, 24, 4, .ro, .val 0, .any⟩,  -- MODEL_VFY_ERR
  ⟨0x04C, 4, 1, 0, 24, .ro, .val 0, .any⟩,  -- MODEL_VFY_ERR
  ⟨0x050, 4, 1, 0, 19, .ro, .val 0, .any⟩,  -- MODEL_PARCEL_USE
  ⟨0x054, 4, 1, 0, 19, .ro, .val 0, .any⟩,  -- MODEL_PARCEL_HWM
  ⟨0x058, 4, 1, 0, 32, .ro, .val 0, .any⟩,  -- MODEL_PARCEL_FORCED
  ⟨0x05C, 4, 1, 0, 16, .rw, .val 0x14, .any⟩,  -- MODEL_MERGE_TOL
  ⟨0x060, 4, 1, 16, 16, .ro, .val 0xFFFF, .any⟩,  -- MODEL_ARR_STAT
  ⟨0x060, 4, 1, 0, 16, .ro, .val 0, .any⟩,  -- MODEL_ARR_STAT
  ⟨0x064, 4, 1, 20, 12, .rw, .val 0x7D0, .any⟩,  -- MODEL_ADAPT_CFG
  ⟨0x064, 4, 1, 8, 12, .rw, .val 0x1F4, .any⟩,  -- MODEL_ADAPT_CFG
  ⟨0x064, 4, 1, 0, 8, .rw, .val 0x32, .any⟩,  -- MODEL_ADAPT_CFG
  ⟨0x068, 4, 1, 0, 32, .ro, .val 0, .any⟩,  -- MODEL_ADAPT_LAST
  ⟨0x06C, 4, 1, 0, 3, .ro, .val 0, .any⟩,  -- MODEL_WIN_STAT
  ⟨0x070, 4, 1, 0, 5, .ro, .val 0, .any⟩,  -- MODEL_CNT_OVF
  ⟨0x074, 4, 1, 0, 5, .w1c, .val 0, .any⟩,  -- MODEL_CNT_CLR
  ⟨0x078, 4, 1, 16, 16, .ro, .val 0, .any⟩,  -- MODEL_NODE_N
  ⟨0x078, 4, 1, 0, 16, .ro, .val 0, .any⟩,  -- MODEL_NODE_N
  ⟨0x080, 4, 8, 16, 16, .ro, .val 0, .any⟩,  -- MODEL_ARR_BUD_k
  ⟨0x080, 4, 8, 0, 16, .ro, .val 0, .any⟩,  -- MODEL_ARR_BUD_k
  ⟨0x0A0, 56, 4, 7, 1, .ro, .val 0, .any⟩,  -- MODEL_C_STAT_c
  ⟨0x0A0, 56, 4, 6, 1, .ro, .val 0, .any⟩  -- MODEL_C_STAT_c
]
def rowsMODEL_1 : List FieldRow := [
  ⟨0x0A0, 56, 4, 5, 1, .ro, .val 0, .any⟩,  -- MODEL_C_STAT_c
  ⟨0x0A0, 56, 4, 0, 4, .ro, .val 0, .any⟩,  -- MODEL_C_STAT_c
  ⟨0x0A4, 56, 4, 0, 32, .ro, .val 0, .any⟩,  -- MODEL_C_HYD_BUD_c
  ⟨0x0A8, 56, 4, 0, 32, .ro, .val 0, .any⟩,  -- MODEL_C_HYD_WC_c
  ⟨0x0AC, 56, 4, 0, 32, .ro, .val 0, .any⟩,  -- MODEL_C_THM_BUD_c
  ⟨0x0B0, 56, 4, 0, 32, .ro, .val 0, .any⟩,  -- MODEL_C_THM_WC_c
  ⟨0x0B4, 56, 4, 16, 16, .rw, .val 0x14, .bt 1 65535⟩,  -- MODEL_C_TOL_c
  ⟨0x0B4, 56, 4, 0, 16, .rw, .val 0x14, .any⟩,  -- MODEL_C_TOL_c
  ⟨0x0B8, 56, 4, 0, 32, .ro, .val 0, .any⟩,  -- MODEL_C_CRIT_DP_c
  ⟨0x0BC, 56, 4, 16, 8, .ro, .val 6, .any⟩,  -- MODEL_C_CRIT_NODE_c
  ⟨0x0BC, 56, 4, 0, 11, .ro, .val 0, .any⟩,  -- MODEL_C_CRIT_NODE_c
  ⟨0x0C0, 56, 4, 0, 32, .ro, .val 0, .any⟩,  -- MODEL_C_LEAK_RES_c
  ⟨0x0C4, 56, 4, 16, 16, .rw, .val 0x258, .any⟩,  -- MODEL_C_LEAK_CFG_c
  ⟨0x0C4, 56, 4, 0, 16, .rw, .val 0x1F4, .any⟩,  -- MODEL_C_LEAK_CFG_c
  ⟨0x0C8, 56, 4, 0, 32, .ro, .val 0, .any⟩,  -- MODEL_C_NOCONV_CNT_c
  ⟨0x0CC, 56, 4, 0, 32, .ro, .val 0, .any⟩,  -- MODEL_C_SOLVE_CNT_c
  ⟨0x0D0, 56, 4, 0, 32, .ro, .val 0, .any⟩,  -- MODEL_C_MAXRES_c
  ⟨0x0D4, 56, 4, 0, 32, .ro, .val 0, .any⟩  -- MODEL_C_LOSS_c
]
/-- Block registers of page 0x24 (MODEL), from its page map. -/
def rowsMODEL : List FieldRow := rowsMODEL_0 ++ rowsMODEL_1

/-- Block registers of page 0x25 (OPT), from its page map. -/
def rowsOPT_0 : List FieldRow := [
  ⟨0x040, 4, 1, 2, 1, .rw, .val 0, .any⟩,  -- OPT_CTRL.FIT_EN
  ⟨0x040, 4, 1, 1, 1, .rw, .val 0, .any⟩,  -- OPT_CTRL.PUB_EN
  ⟨0x040, 4, 1, 0, 1, .rw, .val 0, .any⟩,  -- OPT_CTRL.SOLVE_EN
  ⟨0x044, 4, 1, 3, 1, .wo, .val 0, .any⟩,  -- OPT_CMD.FALLBACK
  ⟨0x044, 4, 1, 2, 1, .wo, .val 0, .any⟩,  -- OPT_CMD.CANCEL
  ⟨0x044, 4, 1, 1, 1, .wo, .val 0, .any⟩,  -- OPT_CMD.SWITCH
  ⟨0x044, 4, 1, 0, 1, .wo, .val 0, .any⟩,  -- OPT_CMD.VERIFY
  ⟨0x048, 4, 1, 16, 3, .ro, .val 0, .any⟩,  -- OPT_STAT.STAGE
  ⟨0x048, 4, 1, 9, 1, .ro, .val 1, .any⟩,  -- OPT_STAT.FALLBACK
  ⟨0x048, 4, 1, 8, 1, .ro, .val 0, .any⟩,  -- OPT_STAT.PLAN
  ⟨0x048, 4, 1, 4, 1, .ro, .val 0, .any⟩,  -- OPT_STAT.VFY_FAILED
  ⟨0x048, 4, 1, 3, 1, .ro, .val 0, .any⟩,  -- OPT_STAT.SWITCH_PEND
  ⟨0x048, 4, 1, 2, 1, .ro, .val 0, .any⟩,  -- OPT_STAT.VFY_BUSY
  ⟨0x048, 4, 1, 1, 1, .ro, .val 0, .any⟩,  -- OPT_STAT.VERIFIED
  ⟨0x048, 4, 1, 0, 1, .ro, .val 0, .any⟩,  -- OPT_STAT.ACT_BANK
  ⟨0x04C, 4, 1, 24, 8, .ro, .val 0, .any⟩,  -- OPT_LAST.CODE
  ⟨0x04C, 4, 1, 20, 4, .ro, .val 0, .any⟩,  -- OPT_LAST.GROUP
  ⟨0x04C, 4, 1, 16, 4, .ro, .val 0, .any⟩,  -- OPT_LAST.STAGE
  ⟨0x04C, 4, 1, 0, 16, .ro, .val 0, .any⟩,  -- OPT_LAST.INDEX
  ⟨0x050, 4, 1, 16, 16, .rw, .val 0x3C, .bt 30 900⟩,  -- OPT_CFG
  ⟨0x050, 4, 1, 0, 16, .rw, .val 0, .any⟩,  -- OPT_CFG
  ⟨0x054, 4, 1, 0, 32, .rw, .val 0x1C20, .bt 900 172800⟩,  -- OPT_FALLBACK_AGE
  ⟨0x058, 4, 1, 16, 16, .rw, .val 0xFA0, .bt 100 65535⟩,  -- OPT_ADMM
  ⟨0x058, 4, 1, 0, 16, .rw, .val 0x1F4, .bt 1 999⟩,  -- OPT_ADMM
  ⟨0x05C, 4, 1, 0, 32, .rw, .val 0x38D1B717, .any⟩,  -- OPT_TOL
  ⟨0x060, 4, 1, 0, 32, .rw, .val 0, .any⟩,  -- OPT_LOCAL_OFS
  ⟨0x064, 4, 1, 0, 21, .rw, .val 0x88000, .any⟩,  -- OPT_DAYTYPE_DEF
  ⟨0x068, 4, 1, 16, 16, .rw, .val 0xC8, .any⟩,  -- OPT_PUB_CFG
  ⟨0x068, 4, 1, 0, 8, .rw, .val 0x40, .bt 1 255⟩,  -- OPT_PUB_CFG
  ⟨0x06C, 4, 1, 0, 32, .rw, .val 0, .any⟩,  -- OPT_PUMP_W
  ⟨0x070, 4, 1, 0, 32, .ro, .val 0, .any⟩,  -- OPT_PLAN_ID
  ⟨0x074, 4, 1, 0, 32, .ro, .val 0, .any⟩,  -- OPT_PLAN_T0
  ⟨0x078, 4, 1, 0, 32, .ro, .val 0, .any⟩,  -- OPT_PLAN_START
  ⟨0x07C, 4, 1, 0, 32, .ro, .val 0, .any⟩,  -- OPT_PLAN_PUB_SEC
  ⟨0x080, 4, 1, 0, 32, .ro, .val 0, .any⟩,  -- OPT_PLAN_PUB_NS
  ⟨0x084, 4, 1, 0, 32, .ro, .val 0xFFFFFFFF, .any⟩,  -- OPT_PLAN_AGE
  ⟨0x088, 4, 1, 0, 8, .ro, .val 0, .any⟩,  -- OPT_PLAN_SHIFT
  ⟨0x08C, 4, 1, 0, 32, .ro, .val 0, .any⟩,  -- OPT_OBJ_LO
  ⟨0x090, 4, 1, 0, 32, .ro, .val 0, .any⟩,  -- OPT_OBJ_HI
  ⟨0x094, 4, 1, 0, 32, .ro, .val 0, .any⟩  -- OPT_T_SOLVE
]
def rowsOPT_1 : List FieldRow := [
  ⟨0x098, 4, 1, 16, 16, .ro, .val 0, .any⟩,  -- OPT_IT
  ⟨0x098, 4, 1, 0, 16, .ro, .val 0, .any⟩,  -- OPT_IT
  ⟨0x09C, 4, 1, 0, 32, .ro, .val 0, .any⟩,  -- OPT_VAR_N
  ⟨0x0A0, 4, 1, 0, 32, .ro, .val 0, .any⟩,  -- OPT_CON_N
  ⟨0x0A4, 4, 1, 28, 4, .ro, .val 0, .any⟩,  -- OPT_VFY_ERR
  ⟨0x0A4, 4, 1, 24, 4, .ro, .val 0, .any⟩,  -- OPT_VFY_ERR
  ⟨0x0A4, 4, 1, 0, 24, .ro, .val 0, .any⟩,  -- OPT_VFY_ERR
  ⟨0x0A8, 4, 1, 0, 32, .ro, .val 0, .any⟩,  -- OPT_SER_SHORT_LO
  ⟨0x0AC, 4, 1, 0, 32, .ro, .val 0, .any⟩,  -- OPT_SER_SHORT_HI
  ⟨0x0B0, 4, 1, 0, 32, .ro, .val 0, .any⟩,  -- OPT_FIT_LAST
  ⟨0x0B4, 4, 1, 0, 32, .ro, .val 0, .any⟩,  -- OPT_SOLVE_CNT
  ⟨0x0B8, 4, 1, 0, 32, .ro, .val 0, .any⟩,  -- OPT_FAIL_CNT
  ⟨0x0BC, 4, 1, 0, 32, .ro, .val 0, .any⟩,  -- OPT_SKIP_CNT
  ⟨0x0C0, 4, 1, 0, 32, .ro, .val 0, .any⟩,  -- OPT_ABORT_CNT
  ⟨0x0C4, 4, 1, 0, 32, .ro, .val 0, .any⟩,  -- OPT_FALLBACK_CNT
  ⟨0x0C8, 4, 1, 0, 32, .ro, .val 0, .any⟩,  -- OPT_ECC_CORR
  ⟨0x0CC, 4, 1, 0, 32, .ro, .val 0, .any⟩,  -- OPT_ECC_UNCORR
  ⟨0x0D0, 4, 1, 0, 32, .ro, .val 0, .any⟩,  -- OPT_PUB_CMD_CNT
  ⟨0x0D4, 4, 1, 0, 32, .ro, .val 0, .any⟩,  -- OPT_PUB_WAIT_CNT
  ⟨0x0D8, 4, 1, 0, 7, .ro, .val 0, .any⟩,  -- OPT_CNT_OVF
  ⟨0x0DC, 4, 1, 0, 7, .w1c, .val 0, .any⟩,  -- OPT_CNT_CLR
  ⟨0x0E0, 4, 4, 0, 32, .rw, .val 0x384, .any⟩,  -- OPT_C_DEF_DELAY_c
  ⟨0x0F0, 4, 4, 0, 32, .ro, .val 0, .any⟩,  -- OPT_C_TSUP_c
  ⟨0x100, 4, 8, 0, 32, .ro, .val 0, .any⟩  -- OPT_G_IMP_g
]
/-- Block registers of page 0x25 (OPT), from its page map. -/
def rowsOPT : List FieldRow := rowsOPT_0 ++ rowsOPT_1

/-- Block registers of page 0x26 (PRIV), from its page map. -/
def rowsPRIV_0 : List FieldRow := [
  ⟨0x040, 4, 1, 1, 1, .rw, .val 0, .any⟩,  -- PRIV_CTRL
  ⟨0x040, 4, 1, 0, 1, .rw, .val 0, .any⟩,  -- PRIV_CTRL
  ⟨0x044, 4, 1, 2, 1, .wo, .val 0, .any⟩,  -- PRIV_CMD
  ⟨0x044, 4, 1, 1, 1, .wo, .val 0, .any⟩,  -- PRIV_CMD
  ⟨0x044, 4, 1, 0, 1, .wo, .val 0, .any⟩,  -- PRIV_CMD
  ⟨0x048, 4, 1, 0, 5, .rw, .val 0, .any⟩,  -- PRIV_CMD_ARG
  ⟨0x04C, 4, 1, 16, 8, .ro, .val 0, .any⟩,  -- PRIV_STAT
  ⟨0x04C, 4, 1, 4, 4, .ro, .val 0, .any⟩,  -- PRIV_STAT
  ⟨0x04C, 4, 1, 0, 1, .ro, .val 0, .any⟩,  -- PRIV_STAT
  ⟨0x050, 4, 1, 0, 32, .ro, .val 0, .any⟩,  -- PRIV_ARMED
  ⟨0x054, 4, 1, 0, 32, .ro, .val 0, .any⟩,  -- PRIV_TRIPPED
  ⟨0x058, 4, 1, 0, 32, .ro, .val 0, .any⟩,  -- PRIV_PATH_OK
  ⟨0x05C, 4, 1, 16, 16, .rw, .val 0x1388, .bt 200 65535⟩,  -- PRIV_CAN_LAT
  ⟨0x05C, 4, 1, 0, 16, .rw, .val 0x1388, .bt 200 65535⟩,  -- PRIV_CAN_LAT
  ⟨0x060, 4, 1, 0, 32, .rw, .val 0x1388, .bt 500 1000000⟩,  -- PRIV_GSP_RETX
  ⟨0x064, 4, 1, 12, 4, .ro, .val 0, .any⟩,  -- PRIV_BREACH_INFO
  ⟨0x064, 4, 1, 8, 2, .ro, .val 0, .any⟩,  -- PRIV_BREACH_INFO
  ⟨0x064, 4, 1, 0, 5, .ro, .val 0, .any⟩,  -- PRIV_BREACH_INFO
  ⟨0x068, 4, 1, 12, 2, .ro, .val 0, .any⟩,  -- PRIV_LAST_REFUSE
  ⟨0x068, 4, 1, 8, 4, .ro, .val 0, .any⟩,  -- PRIV_LAST_REFUSE
  ⟨0x068, 4, 1, 0, 5, .ro, .val 0, .any⟩,  -- PRIV_LAST_REFUSE
  ⟨0x06C, 4, 1, 0, 32, .ro, .val 0, .any⟩,  -- PRIV_ACCEPT_CNT
  ⟨0x070, 4, 1, 0, 32, .ro, .val 0, .any⟩,  -- PRIV_REFUSE_CNT
  ⟨0x074, 4, 1, 0, 32, .ro, .val 0, .any⟩,  -- PRIV_DELIV_CNT
  ⟨0x078, 4, 1, 0, 32, .ro, .val 0, .any⟩,  -- PRIV_UNDELIV_CNT
  ⟨0x07C, 4, 1, 0, 32, .ro, .val 0, .any⟩,  -- PRIV_TRIP_CNT
  ⟨0x080, 4, 1, 0, 32, .ro, .val 0, .any⟩,  -- PRIV_RETX_CNT
  ⟨0x084, 4, 1, 0, 32, .ro, .val 0, .any⟩,  -- PRIV_LATOVER_CNT
  ⟨0x088, 4, 1, 0, 32, .ro, .val 0, .any⟩,  -- PRIV_STEP_HIT_CNT
  ⟨0x08C, 4, 1, 0, 6, .ro, .val 0, .any⟩,  -- PRIV_CNT_OVF
  ⟨0x090, 4, 1, 0, 6, .w1c, .val 0, .any⟩,  -- PRIV_CNT_CLR
  ⟨0x094, 4, 4, 0, 1, .rw, .val 0, .any⟩,  -- PRIV_TRIP_CFG_t
  ⟨0x0C0, 4, 15, 0, 32, .rw, .val 0, .any⟩,  -- PRIV_REQ_0_w
  ⟨0x0FC, 64, 2, 0, 32, .ro, .val 0, .any⟩,  -- PRIV_REQ_p_15
  ⟨0x100, 4, 15, 0, 32, .rw, .val 0, .any⟩,  -- PRIV_REQ_1_w
  ⟨0x140, 4, 32, 28, 4, .ro, .val 0, .any⟩,  -- PRIV_CH_STAT_ch
  ⟨0x140, 4, 32, 20, 4, .ro, .val 0, .any⟩,  -- PRIV_CH_STAT_ch
  ⟨0x140, 4, 32, 16, 4, .ro, .val 0, .any⟩,  -- PRIV_CH_STAT_ch
  ⟨0x140, 4, 32, 2, 1, .ro, .val 0, .any⟩,  -- PRIV_CH_STAT_ch
  ⟨0x140, 4, 32, 1, 1, .ro, .val 0, .any⟩  -- PRIV_CH_STAT_ch
]
def rowsPRIV_1 : List FieldRow := [
  ⟨0x140, 4, 32, 0, 1, .ro, .val 0, .any⟩,  -- PRIV_CH_STAT_ch
  ⟨0x1C0, 4, 32, 0, 32, .ro, .val 0, .any⟩  -- PRIV_CH_REQSEQ_ch
]
/-- Block registers of page 0x26 (PRIV), from its page map. -/
def rowsPRIV : List FieldRow := rowsPRIV_0 ++ rowsPRIV_1

/-- Block registers of page 0x30 (HLTH), from its page map. -/
def rowsHLTH : List FieldRow := [
  ⟨0x040, 4, 1, 0, 1, .wo, .val 0, .any⟩,  -- HLTH_CMD
  ⟨0x044, 4, 1, 28, 4, .ro, .val 0, .any⟩,  -- HLTH_STAT
  ⟨0x044, 4, 1, 8, 1, .ro, .val 0, .any⟩,  -- HLTH_STAT
  ⟨0x044, 4, 1, 4, 4, .ro, .val 0, .any⟩,  -- HLTH_STAT
  ⟨0x044, 4, 1, 0, 4, .ro, .val 0, .any⟩,  -- HLTH_STAT
  ⟨0x048, 4, 1, 0, 32, .ro, .val 0, .any⟩,  -- HLTH_WORD
  ⟨0x04C, 4, 1, 0, 32, .ro, .val 0, .any⟩,  -- HLTH_XBAR_ADDR
  ⟨0x050, 4, 1, 0, 32, .ro, .val 0, .any⟩,  -- HLTH_XBAR_CNT
  ⟨0x054, 4, 1, 0, 32, .ro, .val 0, .any⟩,  -- HLTH_XCH_NOSWAP
  ⟨0x058, 4, 1, 0, 12, .ro, .val 0, .any⟩,  -- HLTH_XCH_LAST
  ⟨0x05C, 4, 1, 0, 32, .ro, .val 0, .any⟩,  -- HLTH_SCRUB_CORR
  ⟨0x060, 4, 1, 0, 32, .ro, .val 0, .any⟩,  -- HLTH_SCRUB_UNCORR
  ⟨0x064, 4, 1, 0, 32, .ro, .val 0, .any⟩,  -- HLTH_SCRUB_PASS
  ⟨0x068, 4, 1, 0, 32, .ro, .val 0, .any⟩,  -- HLTH_MRAM_SCRUB
  ⟨0x06C, 4, 1, 0, 32, .ro, .val 0, .any⟩,  -- HLTH_RB_FAIL
  ⟨0x070, 4, 1, 0, 32, .ro, .val 0, .any⟩,  -- HLTH_LOOP_FAIL
  ⟨0x074, 4, 1, 0, 32, .ro, .val 0, .any⟩,  -- HLTH_PLAUS_FAIL
  ⟨0x078, 4, 1, 0, 8, .ro, .val 0, .any⟩,  -- HLTH_PLAUS_LAST
  ⟨0x07C, 4, 1, 0, 7, .ro, .val 0, .any⟩,  -- HLTH_CNT_OVF
  ⟨0x080, 4, 1, 0, 7, .w1c, .val 0, .any⟩,  -- HLTH_CNT_CLR
  ⟨0x084, 4, 1, 0, 32, .ro, .val 0, .any⟩,  -- HLTH_TEMP
  ⟨0x088, 4, 1, 0, 16, .rw, .val 0x64, .any⟩,  -- HLTH_PLAUS_CFG
  ⟨0x08C, 4, 1, 0, 32, .rw, .val 0, .any⟩,  -- HLTH_PLAUS_ADC
  ⟨0x090, 4, 1, 0, 24, .rw, .val 0, .any⟩  -- HLTH_PLAUS_DI
]
/-- The block registers of a page (R44: pages with one type code hold identical blocks). -/
def pageRows (p : Nat) : List FieldRow :=
  if p = 0x00 then rowsDEV
  else if p = 0x01 then rowsCFG
  else if p = 0x02 then rowsPWR
  else if p = 0x03 then rowsCLK
  else if p = 0x04 then rowsTIME
  else if p = 0x05 then rowsLNCH
  else if p = 0x06 then rowsSEQ
  else if p = 0x07 then rowsICU
  else if p = 0x08 then rowsEVR
  else if p = 0x09 then rowsKEY
  else if p = 0x0A then rowsTAMP
  else if p = 0x0B then rowsHOST
  else if p = 0x0C then rowsTWIN
  else if p = 0x10 then rowsSNA
  else if p = 0x11 then rowsSNA
  else if p = 0x12 then rowsSNET
  else if p = 0x14 then rowsCANC
  else if p = 0x15 then rowsCANC
  else if p = 0x18 then rowsADC
  else if p = 0x19 then rowsMOD
  else if p = 0x1A then rowsEMET
  else if p = 0x1B then rowsHMET
  else if p = 0x1C then rowsDIO
  else if p = 0x1D then rowsAOUT
  else if p = 0x20 then rowsLOOP
  else if p = 0x21 then rowsCPE0
  else if p = 0x22 then rowsCPE0
  else if p = 0x24 then rowsMODEL
  else if p = 0x25 then rowsOPT
  else if p = 0x26 then rowsPRIV
  else if p = 0x30 then rowsHLTH
  else []

/-- What R44 says of page `p`. -/
def pageInfo (p : Nat) : Option PageInfo := pageInfos.find? (fun i => i.page == p)

/-- The byte address of a register: page base plus offset (R43). -/
def addrOf (page off : Nat) : Nat := page * 4096 + off

/-- The page and the offset of an address (R43). -/
def pageOf (a : Nat) : Nat := a / 4096
def offOf (a : Nat) : Nat := a % 4096

/-- The fields of the register at address `a`, header and block registers alike. -/
def fieldsAt (a : Nat) : List FieldRow :=
  if offOf a < 0x40 then rowsHeader.filter (fun r => r.covers (offOf a))
  else (pageRows (pageOf a)).filter (fun r => r.covers (offOf a))

/-- A register at `a` exists: listed page, within its register count, word aligned (R45). -/
def addrOk (a : Nat) : Bool :=
  match pageInfo (pageOf a) with
  | none => false
  | some i => decide (a % 4 = 0 ∧ offOf a < 4 * i.nReg)

/-- PG_ID: page number, type code, revision 1.0 (R53). -/
def pgId (i : PageInfo) : Nat := i.page * 2 ^ 24 + i.type * 2 ^ 16 + 0x0100

/-- PG_CAP (R53). -/
def pgCap (i : PageInfo) : Nat :=
  i.nTbl * 2 ^ 24 + i.nEvt * 2 ^ 18 + b2n i.srst * 2 ^ 17 + b2n i.shadow * 2 ^ 16 + i.nReg

/-- The reset value of one field of the register at address `a`, in its place in the word. -/
def fieldReset (a : Nat) (r : FieldRow) : Nat :=
  (match r.rst with
   | .val n => n % 2 ^ r.wid
   | .factory => wbits (Config.factory a) r.lo r.wid) * 2 ^ r.lo

/-- The reset value of the register at address `a` (R53 and the page maps); 0 where no register is. -/
def regReset (a : Nat) : Word :=
  match pageInfo (pageOf a) with
  | none => 0
  | some i =>
    if offOf a = 0 then BitVec.ofNat 32 (pgId i)
    else if offOf a = 4 then BitVec.ofNat 32 (pgCap i)
    else BitVec.ofNat 32 (((fieldsAt a).map (fieldReset a)).foldl (· + ·) 0)

end Sys2Proof.Machine
end

