-- ==== Sys2Proof/Machine/Counters.lean ====
section
/-! DEFINITION. The counters of the page maps with their kinds (R60, R61): W wraps, S stays at its maximum and sets its
OVF flag, E stays at its maximum and raises CNT_MAX once. Each names its register field, its flag and its clear bit. -/

namespace Sys2Proof.Machine

/-- A register field: address, low bit, width. -/
structure Fld where
  addr : Nat
  lo : Nat
  w : Nat
deriving DecidableEq, Repr

/-- The kinds of R60. Kind E is the SUPP count of the recorder alone, which is held in its own table. -/
inductive CKind where
  | W | S
deriving DecidableEq, Repr

/-- A counter: its field, kind, OVF flag (address, bit) and clear bit (address, bit); address 0 where there is none. -/
structure Ctr where
  f : Fld
  kind : CKind
  ovf : Nat × Nat
  clr : Nat × Nat
deriving DecidableEq, Repr

def Ctr.TIME_JUMP : Ctr := ⟨⟨0x040F4, 0, 32⟩, .S, (0x04108, 0), (0x0410C, 0)⟩
def Ctr.TIME_STEP : Ctr := ⟨⟨0x040F8, 0, 32⟩, .S, (0x04108, 1), (0x0410C, 1)⟩
def Ctr.TIME_SRC_CHG : Ctr := ⟨⟨0x040FC, 0, 32⟩, .S, (0x04108, 2), (0x0410C, 2)⟩
def Ctr.TIME_LATE : Ctr := ⟨⟨0x04100, 0, 32⟩, .S, (0x04108, 3), (0x0410C, 3)⟩
def Ctr.TIME_MISSED : Ctr := ⟨⟨0x04104, 0, 32⟩, .S, (0x04108, 4), (0x0410C, 4)⟩
def Ctr.TIME_HOLD_MIN : Ctr := ⟨⟨0x0406C, 16, 16⟩, .S, (0x04108, 5), (0x0410C, 5)⟩
def Ctr.TIME_LEARN_MIN : Ctr := ⟨⟨0x0406C, 0, 16⟩, .S, (0x04108, 6), (0x0410C, 6)⟩
def Ctr.SEQ_OVR (n : Nat) : Ctr := ⟨⟨0x06080 + 0x4 * n, 0, 32⟩, .S, (0x06064, n), (0x06068, n)⟩
def Ctr.SEQ_HF_TRUNC : Ctr := ⟨⟨0x0606C, 0, 32⟩, .S, (0x06064, 12), (0x06068, 12)⟩
def Ctr.SEQ_HF_EXT : Ctr := ⟨⟨0x06070, 0, 32⟩, .S, (0x06064, 13), (0x06068, 13)⟩
def Ctr.SEQ_FRAME_NO : Ctr := ⟨⟨0x0604C, 0, 32⟩, .W, (0, 0), (0, 0)⟩
def Ctr.SEQ_EXT_FRAMES : Ctr := ⟨⟨0x06074, 0, 32⟩, .W, (0, 0), (0, 0)⟩
def Ctr.ICU_BAD_DB : Ctr := ⟨⟨0x07068, 0, 32⟩, .S, (0x07074, 0), (0x07078, 0)⟩
def Ctr.ICU_STACK_FAULT : Ctr := ⟨⟨0x0706C, 0, 32⟩, .S, (0x07074, 1), (0x07078, 1)⟩
def Ctr.ICU_SPUR : Ctr := ⟨⟨0x07070, 0, 32⟩, .W, (0, 0), (0, 0)⟩
def Ctr.EVR_FULL : Ctr := ⟨⟨0x08060, 0, 32⟩, .S, (0x08074, 0), (0x08078, 0)⟩
def Ctr.EVR_FRZ : Ctr := ⟨⟨0x08064, 0, 32⟩, .S, (0x08074, 1), (0x08078, 1)⟩
def Ctr.EVR_INTAKE_LOST : Ctr := ⟨⟨0x08068, 0, 32⟩, .S, (0x08074, 2), (0x08078, 2)⟩
def Ctr.EVR_SUPP_TOT : Ctr := ⟨⟨0x0806C, 0, 32⟩, .S, (0x08074, 3), (0x08078, 3)⟩
def Ctr.EVR_SUMMARY : Ctr := ⟨⟨0x08070, 0, 32⟩, .W, (0, 0), (0, 0)⟩
def Ctr.KEY_FAIL : Ctr := ⟨⟨0x0905C, 0, 32⟩, .S, (0x09064, 0), (0x09068, 0)⟩
def Ctr.KEY_REVOKE : Ctr := ⟨⟨0x09060, 0, 32⟩, .S, (0x09064, 1), (0x09068, 1)⟩
def Ctr.KEY_OP : Ctr := ⟨⟨0x09058, 0, 32⟩, .W, (0, 0), (0, 0)⟩
def Ctr.TAMP : Ctr := ⟨⟨0x0A058, 0, 32⟩, .S, (0x0A060, 0), (0, 0)⟩
def Ctr.TAMP_XTAL : Ctr := ⟨⟨0x0A05C, 0, 32⟩, .S, (0x0A060, 1), (0x0A064, 1)⟩
def Ctr.HOST_AUTH_FAIL : Ctr := ⟨⟨0x0B0F8, 0, 32⟩, .S, (0x0B120, 0), (0x0B124, 0)⟩
def Ctr.HOST_REPLAY : Ctr := ⟨⟨0x0B0FC, 0, 32⟩, .S, (0x0B120, 1), (0x0B124, 1)⟩
def Ctr.HOST_BAD : Ctr := ⟨⟨0x0B100, 0, 32⟩, .S, (0x0B120, 2), (0x0B124, 2)⟩
def Ctr.HOST_LAPSE : Ctr := ⟨⟨0x0B10C, 0, 32⟩, .S, (0x0B120, 3), (0x0B124, 3)⟩
def Ctr.HOST_PREEMPT : Ctr := ⟨⟨0x0B110, 0, 32⟩, .S, (0x0B120, 4), (0x0B124, 4)⟩
def Ctr.HOST_CQ_DISC : Ctr := ⟨⟨0x0B114, 0, 32⟩, .S, (0x0B120, 5), (0x0B124, 5)⟩
def Ctr.HOST_WOL : Ctr := ⟨⟨0x0B11C, 0, 32⟩, .S, (0x0B120, 6), (0x0B124, 6)⟩
def Ctr.HOST_RX_OK : Ctr := ⟨⟨0x0B0F4, 0, 32⟩, .W, (0, 0), (0, 0)⟩
def Ctr.HOST_OPEN : Ctr := ⟨⟨0x0B104, 0, 32⟩, .W, (0, 0), (0, 0)⟩
def Ctr.HOST_OWNER_CHG : Ctr := ⟨⟨0x0B108, 0, 32⟩, .W, (0, 0), (0, 0)⟩
def Ctr.HOST_NOTIFY : Ctr := ⟨⟨0x0B118, 0, 32⟩, .W, (0, 0), (0, 0)⟩
def Ctr.TWIN_TAKEOVER : Ctr := ⟨⟨0x0C080, 0, 32⟩, .S, (0x0C0A4, 0), (0x0C0A8, 0)⟩
def Ctr.TWIN_HB_MISS_LINK : Ctr := ⟨⟨0x0C084, 0, 32⟩, .S, (0x0C0A4, 1), (0x0C0A8, 1)⟩
def Ctr.TWIN_HB_MISS_TETHER : Ctr := ⟨⟨0x0C088, 0, 32⟩, .S, (0x0C0A4, 2), (0x0C0A8, 2)⟩
def Ctr.TWIN_DIVERGE : Ctr := ⟨⟨0x0C08C, 0, 32⟩, .S, (0x0C0A4, 3), (0x0C0A8, 3)⟩
def Ctr.TWIN_REC_LOST : Ctr := ⟨⟨0x0C090, 0, 32⟩, .S, (0x0C0A4, 4), (0x0C0A8, 4)⟩
def Ctr.TWIN_ISOLATED : Ctr := ⟨⟨0x0C094, 0, 32⟩, .S, (0x0C0A4, 5), (0x0C0A8, 5)⟩
def Ctr.TWIN_JOIN_FAIL : Ctr := ⟨⟨0x0C098, 0, 32⟩, .S, (0x0C0A4, 6), (0x0C0A8, 6)⟩
def Ctr.TWIN_SPLIT : Ctr := ⟨⟨0x0C09C, 0, 32⟩, .S, (0x0C0A4, 7), (0x0C0A8, 7)⟩
def Ctr.TWIN_JOIN : Ctr := ⟨⟨0x0C0A0, 0, 32⟩, .W, (0, 0), (0, 0)⟩
def Ctr.SNA_LINK_DOWN : Ctr := ⟨⟨0x10054, 0, 32⟩, .S, (0x10074, 0), (0x10078, 0)⟩
def Ctr.SNA_RX_CRC_ERR : Ctr := ⟨⟨0x10060, 0, 32⟩, .S, (0x10074, 1), (0x10078, 1)⟩
def Ctr.SNA_RX_DROP : Ctr := ⟨⟨0x10064, 0, 32⟩, .S, (0x10074, 2), (0x10078, 2)⟩
def Ctr.SNA_PRP_WRONG_LAN : Ctr := ⟨⟨0x10068, 0, 32⟩, .S, (0x10074, 3), (0x10078, 3)⟩
def Ctr.SNA_RX_FRAMES : Ctr := ⟨⟨0x10058, 0, 32⟩, .W, (0, 0), (0, 0)⟩
def Ctr.SNA_TX_FRAMES : Ctr := ⟨⟨0x1005C, 0, 32⟩, .W, (0, 0), (0, 0)⟩
def Ctr.SNA_PRP_UNIQUE : Ctr := ⟨⟨0x1006C, 0, 32⟩, .W, (0, 0), (0, 0)⟩
def Ctr.SNA_GSP_FIRST : Ctr := ⟨⟨0x10070, 0, 32⟩, .W, (0, 0), (0, 0)⟩
def Ctr.SNB_LINK_DOWN : Ctr := ⟨⟨0x11054, 0, 32⟩, .S, (0x11074, 0), (0x11078, 0)⟩
def Ctr.SNB_RX_CRC_ERR : Ctr := ⟨⟨0x11060, 0, 32⟩, .S, (0x11074, 1), (0x11078, 1)⟩
def Ctr.SNB_RX_DROP : Ctr := ⟨⟨0x11064, 0, 32⟩, .S, (0x11074, 2), (0x11078, 2)⟩
def Ctr.SNB_PRP_WRONG_LAN : Ctr := ⟨⟨0x11068, 0, 32⟩, .S, (0x11074, 3), (0x11078, 3)⟩
def Ctr.SNB_RX_FRAMES : Ctr := ⟨⟨0x11058, 0, 32⟩, .W, (0, 0), (0, 0)⟩
def Ctr.SNB_TX_FRAMES : Ctr := ⟨⟨0x1105C, 0, 32⟩, .W, (0, 0), (0, 0)⟩
def Ctr.SNB_PRP_UNIQUE : Ctr := ⟨⟨0x1106C, 0, 32⟩, .W, (0, 0), (0, 0)⟩
def Ctr.SNB_GSP_FIRST : Ctr := ⟨⟨0x11070, 0, 32⟩, .W, (0, 0), (0, 0)⟩
def Ctr.SNET_RX_AUTH_FAIL : Ctr := ⟨⟨0x120B0, 0, 32⟩, .S, (0x120F4, 0), (0x120F8, 0)⟩
def Ctr.SNET_RX_REPLAY : Ctr := ⟨⟨0x120B4, 0, 32⟩, .S, (0x120F4, 1), (0x120F8, 1)⟩
def Ctr.SNET_RX_BAD : Ctr := ⟨⟨0x120B8, 0, 32⟩, .S, (0x120F4, 2), (0x120F8, 2)⟩
def Ctr.SNET_RX_UNKNOWN : Ctr := ⟨⟨0x120BC, 0, 32⟩, .S, (0x120F4, 3), (0x120F8, 3)⟩
def Ctr.SNET_RX_LATE : Ctr := ⟨⟨0x120C0, 0, 32⟩, .S, (0x120F4, 4), (0x120F8, 4)⟩
def Ctr.SNET_RX_EXCESS : Ctr := ⟨⟨0x120C4, 0, 32⟩, .S, (0x120F4, 5), (0x120F8, 5)⟩
def Ctr.SNET_MISS : Ctr := ⟨⟨0x120C8, 0, 32⟩, .S, (0x120F4, 6), (0x120F8, 6)⟩
def Ctr.SNET_RETX : Ctr := ⟨⟨0x120D0, 0, 32⟩, .S, (0x120F4, 7), (0x120F8, 7)⟩
def Ctr.SNET_CMD_LATE : Ctr := ⟨⟨0x120D4, 0, 32⟩, .S, (0x120F4, 8), (0x120F8, 8)⟩
def Ctr.SNET_CMD_MISSED : Ctr := ⟨⟨0x120D8, 0, 32⟩, .S, (0x120F4, 9), (0x120F8, 9)⟩
def Ctr.SNET_Q_FULL : Ctr := ⟨⟨0x120DC, 0, 32⟩, .S, (0x120F4, 10), (0x120F8, 10)⟩
def Ctr.SNET_METER_BACK : Ctr := ⟨⟨0x120E0, 0, 32⟩, .S, (0x120F4, 11), (0x120F8, 11)⟩
def Ctr.SNET_EPOCH_BACK : Ctr := ⟨⟨0x120E4, 0, 32⟩, .S, (0x120F4, 12), (0x120F8, 12)⟩
def Ctr.SNET_LAT_EXCEED : Ctr := ⟨⟨0x120E8, 0, 32⟩, .S, (0x120F4, 13), (0x120F8, 13)⟩
def Ctr.SNET_LOST : Ctr := ⟨⟨0x120EC, 0, 32⟩, .S, (0x120FC, 31), (0x120FC, 30)⟩
def Ctr.SNET_RX_OK : Ctr := ⟨⟨0x120AC, 0, 32⟩, .W, (0, 0), (0, 0)⟩
def Ctr.SNET_TX_CMD : Ctr := ⟨⟨0x120CC, 0, 32⟩, .W, (0, 0), (0, 0)⟩
def Ctr.SNET_DUP_DISC : Ctr := ⟨⟨0x120F0, 0, 32⟩, .W, (0, 0), (0, 0)⟩
def Ctr.CANC_RX_REMOTE : Ctr := ⟨⟨0x1409C, 0, 32⟩, .S, (0x140DC, 0), (0x140E0, 0)⟩
def Ctr.CANC_STUFF_ERR : Ctr := ⟨⟨0x140A0, 0, 32⟩, .S, (0x140DC, 1), (0x140E0, 1)⟩
def Ctr.CANC_FORM_ERR : Ctr := ⟨⟨0x140A4, 0, 32⟩, .S, (0x140DC, 2), (0x140E0, 2)⟩
def Ctr.CANC_ACK_ERR : Ctr := ⟨⟨0x140A8, 0, 32⟩, .S, (0x140DC, 3), (0x140E0, 3)⟩
def Ctr.CANC_BIT_ERR : Ctr := ⟨⟨0x140AC, 0, 32⟩, .S, (0x140DC, 4), (0x140E0, 4)⟩
def Ctr.CANC_CRC_ERR : Ctr := ⟨⟨0x140B0, 0, 32⟩, .S, (0x140DC, 5), (0x140E0, 5)⟩
def Ctr.CANC_BOFF : Ctr := ⟨⟨0x140B4, 0, 32⟩, .S, (0x140DC, 6), (0x140E0, 6)⟩
def Ctr.CANC_PASSIVE : Ctr := ⟨⟨0x140B8, 0, 32⟩, .S, (0x140DC, 7), (0x140E0, 7)⟩
def Ctr.CANC_CLASH : Ctr := ⟨⟨0x140BC, 0, 32⟩, .S, (0x140DC, 8), (0x140E0, 8)⟩
def Ctr.CANC_SUSPECT : Ctr := ⟨⟨0x140C0, 0, 32⟩, .S, (0x140DC, 9), (0x140E0, 9)⟩
def Ctr.CANC_PRIV_MOVED : Ctr := ⟨⟨0x140C4, 0, 32⟩, .S, (0x140DC, 10), (0x140E0, 10)⟩
def Ctr.CANC_TX_REFRESH : Ctr := ⟨⟨0x140C8, 0, 32⟩, .S, (0x140DC, 11), (0x140E0, 11)⟩
def Ctr.CANC_PEX : Ctr := ⟨⟨0x140CC, 0, 32⟩, .S, (0x140DC, 12), (0x140E0, 12)⟩
def Ctr.CANC_DROP : Ctr := ⟨⟨0x140D0, 0, 32⟩, .S, (0x140DC, 13), (0x140E0, 13)⟩
def Ctr.CANC_LEN_MISMATCH : Ctr := ⟨⟨0x140D4, 0, 32⟩, .S, (0x140DC, 14), (0x140E0, 14)⟩
def Ctr.CANC_REF_LOST : Ctr := ⟨⟨0x140D8, 0, 32⟩, .S, (0x140DC, 15), (0x140E0, 15)⟩
def Ctr.CANC_REF : Ctr := ⟨⟨0x14070, 0, 32⟩, .W, (0, 0), (0, 0)⟩
def Ctr.CANC_TX_OK : Ctr := ⟨⟨0x14090, 0, 32⟩, .W, (0, 0), (0, 0)⟩
def Ctr.CANC_RX_OK : Ctr := ⟨⟨0x14094, 0, 32⟩, .W, (0, 0), (0, 0)⟩
def Ctr.CANC_RX_UNMATCHED : Ctr := ⟨⟨0x14098, 0, 32⟩, .W, (0, 0), (0, 0)⟩
def Ctr.CAND_RX_REMOTE : Ctr := ⟨⟨0x1509C, 0, 32⟩, .S, (0x150DC, 0), (0x150E0, 0)⟩
def Ctr.CAND_STUFF_ERR : Ctr := ⟨⟨0x150A0, 0, 32⟩, .S, (0x150DC, 1), (0x150E0, 1)⟩
def Ctr.CAND_FORM_ERR : Ctr := ⟨⟨0x150A4, 0, 32⟩, .S, (0x150DC, 2), (0x150E0, 2)⟩
def Ctr.CAND_ACK_ERR : Ctr := ⟨⟨0x150A8, 0, 32⟩, .S, (0x150DC, 3), (0x150E0, 3)⟩
def Ctr.CAND_BIT_ERR : Ctr := ⟨⟨0x150AC, 0, 32⟩, .S, (0x150DC, 4), (0x150E0, 4)⟩
def Ctr.CAND_CRC_ERR : Ctr := ⟨⟨0x150B0, 0, 32⟩, .S, (0x150DC, 5), (0x150E0, 5)⟩
def Ctr.CAND_BOFF : Ctr := ⟨⟨0x150B4, 0, 32⟩, .S, (0x150DC, 6), (0x150E0, 6)⟩
def Ctr.CAND_PASSIVE : Ctr := ⟨⟨0x150B8, 0, 32⟩, .S, (0x150DC, 7), (0x150E0, 7)⟩
def Ctr.CAND_CLASH : Ctr := ⟨⟨0x150BC, 0, 32⟩, .S, (0x150DC, 8), (0x150E0, 8)⟩
def Ctr.CAND_SUSPECT : Ctr := ⟨⟨0x150C0, 0, 32⟩, .S, (0x150DC, 9), (0x150E0, 9)⟩
def Ctr.CAND_PRIV_MOVED : Ctr := ⟨⟨0x150C4, 0, 32⟩, .S, (0x150DC, 10), (0x150E0, 10)⟩
def Ctr.CAND_TX_REFRESH : Ctr := ⟨⟨0x150C8, 0, 32⟩, .S, (0x150DC, 11), (0x150E0, 11)⟩
def Ctr.CAND_PEX : Ctr := ⟨⟨0x150CC, 0, 32⟩, .S, (0x150DC, 12), (0x150E0, 12)⟩
def Ctr.CAND_DROP : Ctr := ⟨⟨0x150D0, 0, 32⟩, .S, (0x150DC, 13), (0x150E0, 13)⟩
def Ctr.CAND_LEN_MISMATCH : Ctr := ⟨⟨0x150D4, 0, 32⟩, .S, (0x150DC, 14), (0x150E0, 14)⟩
def Ctr.CAND_REF_LOST : Ctr := ⟨⟨0x150D8, 0, 32⟩, .S, (0x150DC, 15), (0x150E0, 15)⟩
def Ctr.CAND_REF : Ctr := ⟨⟨0x15070, 0, 32⟩, .W, (0, 0), (0, 0)⟩
def Ctr.CAND_TX_OK : Ctr := ⟨⟨0x15090, 0, 32⟩, .W, (0, 0), (0, 0)⟩
def Ctr.CAND_RX_OK : Ctr := ⟨⟨0x15094, 0, 32⟩, .W, (0, 0), (0, 0)⟩
def Ctr.CAND_RX_UNMATCHED : Ctr := ⟨⟨0x15098, 0, 32⟩, .W, (0, 0), (0, 0)⟩
def Ctr.ADC_TRIG_LOST (n : Nat) : Ctr := ⟨⟨0x18088 + 0x4 * n, 0, 32⟩, .S, (0x180A8, n), (0x180AC, n)⟩
def Ctr.ADC_CONV (n : Nat) : Ctr := ⟨⟨0x18098 + 0x4 * n, 0, 32⟩, .W, (0, 0), (0, 0)⟩
def Ctr.MOD_FAULT : Ctr := ⟨⟨0x19058, 0, 32⟩, .S, (0x19060, 0), (0x19064, 0)⟩
def Ctr.MOD_CLIP : Ctr := ⟨⟨0x1905C, 0, 32⟩, .S, (0x19060, 1), (0x19064, 1)⟩
def Ctr.EMET_GAP_FR (n : Nat) : Ctr := ⟨⟨0x1A078 + 0x20 * n, 0, 32⟩, .S, (0x1A0EC, n), (0x1A0F0, n)⟩
def Ctr.EMET_SEQ : Ctr := ⟨⟨0x1A0E0, 0, 32⟩, .S, (0x1A0EC, 4), (0x1A0F0, 4)⟩
def Ctr.EMET_NLOST : Ctr := ⟨⟨0x1A0E4, 0, 32⟩, .S, (0x1A0EC, 5), (0x1A0F0, 5)⟩
def Ctr.EMET_SAVE_FAIL : Ctr := ⟨⟨0x1A0E8, 0, 32⟩, .S, (0x1A0EC, 6), (0x1A0F0, 6)⟩
def Ctr.EMET_SAVE_SEQ : Ctr := ⟨⟨0x1A050, 0, 32⟩, .W, (0, 0), (0, 0)⟩
def Ctr.HMET_FAULT : Ctr := ⟨⟨0x1B0D4, 0, 32⟩, .S, (0x1B0D8, 0), (0x1B0DC, 0)⟩
def Ctr.DIO_OC : Ctr := ⟨⟨0x1C0A8, 0, 32⟩, .S, (0x1C0B0, 0), (0x1C0B4, 0)⟩
def Ctr.DIO_RB : Ctr := ⟨⟨0x1C0AC, 0, 32⟩, .S, (0x1C0B0, 1), (0x1C0B4, 1)⟩
def Ctr.DIO_PCNT (n : Nat) : Ctr := ⟨⟨0x1C068 + 0x4 * n, 0, 32⟩, .W, (0, 0), (0, 0)⟩
def Ctr.AOUT_OPEN : Ctr := ⟨⟨0x1D0B8, 0, 32⟩, .S, (0x1D044, 31), (0x1D0BC, 0)⟩
def Ctr.LOOP_PV_BAD : Ctr := ⟨⟨0x20064, 0, 32⟩, .S, (0x20070, 0), (0x20074, 0)⟩
def Ctr.LOOP_NONFINITE : Ctr := ⟨⟨0x20068, 0, 32⟩, .S, (0x20070, 1), (0x20074, 1)⟩
def Ctr.LOOP_TUNE : Ctr := ⟨⟨0x2006C, 0, 32⟩, .W, (0, 0), (0, 0)⟩
def Ctr.CPE0_ERR : Ctr := ⟨⟨0x21078, 0, 32⟩, .S, (0x21090, 0), (0x21094, 0)⟩
def Ctr.CPE0_ERRQ_LOST : Ctr := ⟨⟨0x2107C, 0, 32⟩, .S, (0x21090, 1), (0x21094, 1)⟩
def Ctr.CPE0_RTF : Ctr := ⟨⟨0x21080, 0, 32⟩, .S, (0x21090, 2), (0x21094, 2)⟩
def Ctr.CPE0_ORPH : Ctr := ⟨⟨0x21084, 0, 32⟩, .S, (0x21090, 3), (0x21094, 3)⟩
def Ctr.CPE0_SWITCH : Ctr := ⟨⟨0x21088, 0, 32⟩, .W, (0, 0), (0, 0)⟩
def Ctr.CPE0_RETAIN_SEQ : Ctr := ⟨⟨0x2108C, 0, 32⟩, .W, (0, 0), (0, 0)⟩
def Ctr.CPE0_TASK_RUN (n : Nat) : Ctr := ⟨⟨0x2109C + 0x8 * n, 0, 32⟩, .W, (0, 0), (0, 0)⟩
def Ctr.CPE1_ERR : Ctr := ⟨⟨0x22078, 0, 32⟩, .S, (0x22090, 0), (0x22094, 0)⟩
def Ctr.CPE1_ERRQ_LOST : Ctr := ⟨⟨0x2207C, 0, 32⟩, .S, (0x22090, 1), (0x22094, 1)⟩
def Ctr.CPE1_RTF : Ctr := ⟨⟨0x22080, 0, 32⟩, .S, (0x22090, 2), (0x22094, 2)⟩
def Ctr.CPE1_ORPH : Ctr := ⟨⟨0x22084, 0, 32⟩, .S, (0x22090, 3), (0x22094, 3)⟩
def Ctr.CPE1_SWITCH : Ctr := ⟨⟨0x22088, 0, 32⟩, .W, (0, 0), (0, 0)⟩
def Ctr.CPE1_RETAIN_SEQ : Ctr := ⟨⟨0x2208C, 0, 32⟩, .W, (0, 0), (0, 0)⟩
def Ctr.CPE1_TASK_RUN (n : Nat) : Ctr := ⟨⟨0x2209C + 0x8 * n, 0, 32⟩, .W, (0, 0), (0, 0)⟩
def Ctr.MODEL_C_NOCONV (n : Nat) : Ctr := ⟨⟨0x240C8 + 0x38 * n, 0, 32⟩, .S, (0x24070, n), (0x24074, n)⟩
def Ctr.MODEL_PARCEL_FORCED : Ctr := ⟨⟨0x24058, 0, 32⟩, .S, (0x24070, 4), (0x24074, 4)⟩
def Ctr.MODEL_C_SOLVE (n : Nat) : Ctr := ⟨⟨0x240CC + 0x38 * n, 0, 32⟩, .W, (0, 0), (0, 0)⟩
def Ctr.OPT_FAIL : Ctr := ⟨⟨0x250B8, 0, 32⟩, .S, (0x250D8, 0), (0x250DC, 0)⟩
def Ctr.OPT_SKIP : Ctr := ⟨⟨0x250BC, 0, 32⟩, .S, (0x250D8, 1), (0x250DC, 1)⟩
def Ctr.OPT_ABORT : Ctr := ⟨⟨0x250C0, 0, 32⟩, .S, (0x250D8, 2), (0x250DC, 2)⟩
def Ctr.OPT_FALLBACK : Ctr := ⟨⟨0x250C4, 0, 32⟩, .S, (0x250D8, 3), (0x250DC, 3)⟩
def Ctr.OPT_ECC_CORR : Ctr := ⟨⟨0x250C8, 0, 32⟩, .S, (0x250D8, 4), (0x250DC, 4)⟩
def Ctr.OPT_ECC_UNCORR : Ctr := ⟨⟨0x250CC, 0, 32⟩, .S, (0x250D8, 5), (0x250DC, 5)⟩
def Ctr.OPT_PUB_WAIT : Ctr := ⟨⟨0x250D4, 0, 32⟩, .S, (0x250D8, 6), (0x250DC, 6)⟩
def Ctr.OPT_PLAN_ID : Ctr := ⟨⟨0x25070, 0, 32⟩, .W, (0, 0), (0, 0)⟩
def Ctr.OPT_SOLVE : Ctr := ⟨⟨0x250B4, 0, 32⟩, .W, (0, 0), (0, 0)⟩
def Ctr.OPT_PUB_CMD : Ctr := ⟨⟨0x250D0, 0, 32⟩, .W, (0, 0), (0, 0)⟩
def Ctr.PRIV_REFUSE : Ctr := ⟨⟨0x26070, 0, 32⟩, .S, (0x2608C, 0), (0x26090, 0)⟩
def Ctr.PRIV_UNDELIV : Ctr := ⟨⟨0x26078, 0, 32⟩, .S, (0x2608C, 1), (0x26090, 1)⟩
def Ctr.PRIV_TRIP : Ctr := ⟨⟨0x2607C, 0, 32⟩, .S, (0x2608C, 2), (0x26090, 2)⟩
def Ctr.PRIV_RETX : Ctr := ⟨⟨0x26080, 0, 32⟩, .S, (0x2608C, 3), (0x26090, 3)⟩
def Ctr.PRIV_LATOVER : Ctr := ⟨⟨0x26084, 0, 32⟩, .S, (0x2608C, 4), (0x26090, 4)⟩
def Ctr.PRIV_STEP_HIT : Ctr := ⟨⟨0x26088, 0, 32⟩, .S, (0x2608C, 5), (0x26090, 5)⟩
def Ctr.PRIV_ACCEPT : Ctr := ⟨⟨0x2606C, 0, 32⟩, .W, (0, 0), (0, 0)⟩
def Ctr.PRIV_DELIV : Ctr := ⟨⟨0x26074, 0, 32⟩, .W, (0, 0), (0, 0)⟩
def Ctr.HLTH_XBAR : Ctr := ⟨⟨0x30050, 0, 32⟩, .S, (0x3007C, 0), (0x30080, 0)⟩
def Ctr.HLTH_XCH_NOSWAP : Ctr := ⟨⟨0x30054, 0, 32⟩, .S, (0x3007C, 1), (0x30080, 1)⟩
def Ctr.HLTH_SCRUB_CORR : Ctr := ⟨⟨0x3005C, 0, 32⟩, .S, (0x3007C, 2), (0x30080, 2)⟩
def Ctr.HLTH_SCRUB_UNCORR : Ctr := ⟨⟨0x30060, 0, 32⟩, .S, (0x3007C, 3), (0x30080, 3)⟩
def Ctr.HLTH_RB_FAIL : Ctr := ⟨⟨0x3006C, 0, 32⟩, .S, (0x3007C, 4), (0x30080, 4)⟩
def Ctr.HLTH_LOOP_FAIL : Ctr := ⟨⟨0x30070, 0, 32⟩, .S, (0x3007C, 5), (0x30080, 5)⟩
def Ctr.HLTH_PLAUS_FAIL : Ctr := ⟨⟨0x30074, 0, 32⟩, .S, (0x3007C, 6), (0x30080, 6)⟩
def Ctr.HLTH_SCRUB_PASS : Ctr := ⟨⟨0x30064, 0, 32⟩, .W, (0, 0), (0, 0)⟩
def Ctr.DEV_FAULT : Ctr := ⟨⟨0x0009C, 0, 32⟩, .S, (0x000A0, 0), (0x000A4, 0)⟩
def Ctr.DEV_BOOT : Ctr := ⟨⟨0x00064, 0, 32⟩, .W, (0, 0), (0, 0)⟩
def Ctr.PWR_PF : Ctr := ⟨⟨0x0205C, 0, 32⟩, .S, (0x02068, 0), (0x0206C, 0)⟩
def Ctr.PWR_RESTORED : Ctr := ⟨⟨0x02060, 0, 32⟩, .S, (0x02068, 1), (0x0206C, 1)⟩
def Ctr.PWR_OV : Ctr := ⟨⟨0x02064, 0, 32⟩, .S, (0x02068, 2), (0x0206C, 2)⟩
def Ctr.CLK_LOSS (n : Nat) : Ctr := ⟨⟨0x03054 + 0x4 * n, 0, 32⟩, .S, (0x03084, n), (0x03088, n)⟩

/-- The counters of the page maps, part 0. -/
def allCtrs_0 : List Ctr := [
  .TIME_JUMP, .TIME_STEP, .TIME_SRC_CHG, .TIME_LATE, .TIME_MISSED, .TIME_HOLD_MIN, .TIME_LEARN_MIN, .SEQ_OVR 1, .SEQ_OVR 6, .SEQ_OVR 7, .SEQ_OVR 8, .SEQ_OVR 9, .SEQ_OVR 10, .SEQ_OVR 11, .SEQ_HF_TRUNC, .SEQ_HF_EXT, .SEQ_FRAME_NO, .SEQ_EXT_FRAMES, .ICU_BAD_DB, .ICU_STACK_FAULT, .ICU_SPUR, .EVR_FULL, .EVR_FRZ, .EVR_INTAKE_LOST, .EVR_SUPP_TOT, .EVR_SUMMARY, .KEY_FAIL, .KEY_REVOKE, .KEY_OP, .TAMP
]

/-- The counters of the page maps, part 1. -/
def allCtrs_1 : List Ctr := [
  .TAMP_XTAL, .HOST_AUTH_FAIL, .HOST_REPLAY, .HOST_BAD, .HOST_LAPSE, .HOST_PREEMPT, .HOST_CQ_DISC, .HOST_WOL, .HOST_RX_OK, .HOST_OPEN, .HOST_OWNER_CHG, .HOST_NOTIFY, .TWIN_TAKEOVER, .TWIN_HB_MISS_LINK, .TWIN_HB_MISS_TETHER, .TWIN_DIVERGE, .TWIN_REC_LOST, .TWIN_ISOLATED, .TWIN_JOIN_FAIL, .TWIN_SPLIT, .TWIN_JOIN, .SNA_LINK_DOWN, .SNA_RX_CRC_ERR, .SNA_RX_DROP, .SNA_PRP_WRONG_LAN, .SNA_RX_FRAMES, .SNA_TX_FRAMES, .SNA_PRP_UNIQUE, .SNA_GSP_FIRST, .SNB_LINK_DOWN
]

/-- The counters of the page maps, part 2. -/
def allCtrs_2 : List Ctr := [
  .SNB_RX_CRC_ERR, .SNB_RX_DROP, .SNB_PRP_WRONG_LAN, .SNB_RX_FRAMES, .SNB_TX_FRAMES, .SNB_PRP_UNIQUE, .SNB_GSP_FIRST, .SNET_RX_AUTH_FAIL, .SNET_RX_REPLAY, .SNET_RX_BAD, .SNET_RX_UNKNOWN, .SNET_RX_LATE, .SNET_RX_EXCESS, .SNET_MISS, .SNET_RETX, .SNET_CMD_LATE, .SNET_CMD_MISSED, .SNET_Q_FULL, .SNET_METER_BACK, .SNET_EPOCH_BACK, .SNET_LAT_EXCEED, .SNET_LOST, .SNET_RX_OK, .SNET_TX_CMD, .SNET_DUP_DISC, .CANC_RX_REMOTE, .CANC_STUFF_ERR, .CANC_FORM_ERR, .CANC_ACK_ERR, .CANC_BIT_ERR
]

/-- The counters of the page maps, part 3. -/
def allCtrs_3 : List Ctr := [
  .CANC_CRC_ERR, .CANC_BOFF, .CANC_PASSIVE, .CANC_CLASH, .CANC_SUSPECT, .CANC_PRIV_MOVED, .CANC_TX_REFRESH, .CANC_PEX, .CANC_DROP, .CANC_LEN_MISMATCH, .CANC_REF_LOST, .CANC_REF, .CANC_TX_OK, .CANC_RX_OK, .CANC_RX_UNMATCHED, .CAND_RX_REMOTE, .CAND_STUFF_ERR, .CAND_FORM_ERR, .CAND_ACK_ERR, .CAND_BIT_ERR, .CAND_CRC_ERR, .CAND_BOFF, .CAND_PASSIVE, .CAND_CLASH, .CAND_SUSPECT, .CAND_PRIV_MOVED, .CAND_TX_REFRESH, .CAND_PEX, .CAND_DROP, .CAND_LEN_MISMATCH
]

/-- The counters of the page maps, part 4. -/
def allCtrs_4 : List Ctr := [
  .CAND_REF_LOST, .CAND_REF, .CAND_TX_OK, .CAND_RX_OK, .CAND_RX_UNMATCHED, .ADC_TRIG_LOST 0, .ADC_TRIG_LOST 1, .ADC_TRIG_LOST 2, .ADC_TRIG_LOST 3, .ADC_CONV 0, .ADC_CONV 1, .ADC_CONV 2, .ADC_CONV 3, .MOD_FAULT, .MOD_CLIP, .EMET_GAP_FR 0, .EMET_GAP_FR 1, .EMET_GAP_FR 2, .EMET_GAP_FR 3, .EMET_SEQ, .EMET_NLOST, .EMET_SAVE_FAIL, .EMET_SAVE_SEQ, .HMET_FAULT, .DIO_OC, .DIO_RB, .DIO_PCNT 0, .DIO_PCNT 1, .DIO_PCNT 2, .DIO_PCNT 3
]

/-- The counters of the page maps, part 5. -/
def allCtrs_5 : List Ctr := [
  .DIO_PCNT 4, .DIO_PCNT 5, .DIO_PCNT 6, .DIO_PCNT 7, .DIO_PCNT 8, .DIO_PCNT 9, .DIO_PCNT 10, .DIO_PCNT 11, .DIO_PCNT 12, .DIO_PCNT 13, .DIO_PCNT 14, .DIO_PCNT 15, .AOUT_OPEN, .LOOP_PV_BAD, .LOOP_NONFINITE, .LOOP_TUNE, .CPE0_ERR, .CPE0_ERRQ_LOST, .CPE0_RTF, .CPE0_ORPH, .CPE0_SWITCH, .CPE0_RETAIN_SEQ, .CPE0_TASK_RUN 0, .CPE0_TASK_RUN 1, .CPE0_TASK_RUN 2, .CPE0_TASK_RUN 3, .CPE0_TASK_RUN 4, .CPE1_ERR, .CPE1_ERRQ_LOST, .CPE1_RTF
]

/-- The counters of the page maps, part 6. -/
def allCtrs_6 : List Ctr := [
  .CPE1_ORPH, .CPE1_SWITCH, .CPE1_RETAIN_SEQ, .CPE1_TASK_RUN 0, .CPE1_TASK_RUN 1, .CPE1_TASK_RUN 2, .CPE1_TASK_RUN 3, .CPE1_TASK_RUN 4, .MODEL_C_NOCONV 0, .MODEL_C_NOCONV 1, .MODEL_C_NOCONV 2, .MODEL_C_NOCONV 3, .MODEL_PARCEL_FORCED, .MODEL_C_SOLVE 0, .MODEL_C_SOLVE 1, .MODEL_C_SOLVE 2, .MODEL_C_SOLVE 3, .OPT_FAIL, .OPT_SKIP, .OPT_ABORT, .OPT_FALLBACK, .OPT_ECC_CORR, .OPT_ECC_UNCORR, .OPT_PUB_WAIT, .OPT_PLAN_ID, .OPT_SOLVE, .OPT_PUB_CMD, .PRIV_REFUSE, .PRIV_UNDELIV, .PRIV_TRIP
]

/-- The counters of the page maps, part 7. -/
def allCtrs_7 : List Ctr := [
  .PRIV_RETX, .PRIV_LATOVER, .PRIV_STEP_HIT, .PRIV_ACCEPT, .PRIV_DELIV, .HLTH_XBAR, .HLTH_XCH_NOSWAP, .HLTH_SCRUB_CORR, .HLTH_SCRUB_UNCORR, .HLTH_RB_FAIL, .HLTH_LOOP_FAIL, .HLTH_PLAUS_FAIL, .HLTH_SCRUB_PASS, .DEV_FAULT, .DEV_BOOT, .PWR_PF, .PWR_RESTORED, .PWR_OV, .CLK_LOSS 0, .CLK_LOSS 1, .CLK_LOSS 2, .CLK_LOSS 3, .CLK_LOSS 4, .CLK_LOSS 5, .CLK_LOSS 6, .CLK_LOSS 7, .CLK_LOSS 8, .CLK_LOSS 9, .CLK_LOSS 10, .CLK_LOSS 11
]

/-- Every counter of a page map. -/
def allCtrs : List Ctr := allCtrs_0 ++ allCtrs_1 ++ allCtrs_2 ++ allCtrs_3 ++ allCtrs_4 ++ allCtrs_5 ++ allCtrs_6 ++ allCtrs_7

/-- The counters whose registers lie on page `p`. -/
def ctrsOf (p : Nat) : List Ctr := allCtrs.filter (fun c => pageOf c.f.addr == p)

end Sys2Proof.Machine
end

