-- ==== Sys2Proof/Machine/TableMap.lean ====
section
/-! DEFINITION. The tables reached through table windows (R65 to R68): identifiers, capacities, record sizes, banking,
and for every writable field its place, access type and range. Rows of a layout are first word, last word, low bit, width,
access, range; bits that no row covers are reserved or read-only. -/

namespace Sys2Proof.Machine

/-- A writable field of a table record, present in words `w0` to `w1`. -/
structure TField where
  w0 : Nat
  w1 : Nat
  lo : Nat
  wid : Nat
  acc : Acc
  rng : Rng
deriving DecidableEq, Repr

/-- A table (R65, R68): ID, record size in words, capacity in records (of one bank copy where banked), banked (R67),
where its DEFINED field stands (word, bit), whether an engine serves it by its own transfers (R62), and the writable
fields. -/
structure TableInfo where
  tid : Nat
  words : Nat
  cap : Nat
  banked : Bool
  defined : Option (Nat × Nat)
  byXfer : Bool
  fields : List TField
deriving DecidableEq, Repr

/-- The key of a table word in the sparse map of table words: table ID, record index (bit 23 selects the copy of a banked
table), word. -/
def tkey (tid idx w : Nat) : Nat := tid * 2 ^ 32 + idx * 2 ^ 8 + w

/-- The table, record and word of a key. -/
def tkeyTid (k : Nat) : Nat := k / 2 ^ 32
def tkeyIdx (k : Nat) : Nat := k / 2 ^ 8 % 2 ^ 24
def tkeyWord (k : Nat) : Nat := k % 2 ^ 8

/-- Word 0 of a key slot as delivered: slots 0 to 2 hold the device identity, transport and firmware verification keys
of the factory, slot 5 the commissioning credential (R485, R515), all ACTIVE and without a parent; the others are EMPTY. -/
def slotReset (i : Nat) : Nat :=
  if i < 3 then 3 * 2 ^ 29 + (i + 1) * 2 ^ 23 + 0x7F * 2 ^ 16
  else if i = 5 then 3 * 2 ^ 29 + 8 * 2 ^ 23 + 0x7F * 2 ^ 16
  else 0x7F * 2 ^ 16

/-- The status bytes of results that nothing has published hold quality INIT: the substation image (R222, R223), the model's
segments, junctions, nodes and arrivals (R148, R155) and the plan (R187). -/
def initStatus (tid w : Nat) : Word :=
  if tid = 0x1201 ∧ (w = 1 ∨ w = 2 ∨ w = 23) then 0x06060606
  else if (tid = 0x2409 ∧ w = 3) ∨ ((tid = 0x240C ∨ tid = 0x250D) ∧ w = 0) then 0x06000000
  else if (tid = 0x240A ∧ w = 2) ∨ (tid = 0x240B ∧ w = 6) then 6
  else 0

/-- What a table word reads as before anything has written it: the source table of the ICU resets MASK to 1, TARGET to 15
and FW_TGT to 15, or to the engine the firmware fixes for a doorbell source (R401); the key slots and the public keys hold
what the factory put there (R485, R486); the ADC channels hold EXC_CAL (R301); results that nothing has published carry quality INIT; every other table is cleared (R510). -/
def tblReset (k : Nat) : Word :=
  if tkeyTid k = 0x0700 ∧ tkeyWord k = 0 then
    BitVec.ofNat 32 (0x40F00000 +
      (if 0x200 ≤ tkeyIdx k ∧ tkeyIdx k < 0x300 then (Config.fwTarget (tkeyIdx k)).toNat else 15) * 2 ^ 16)
  else if tkeyTid k = 0x0900 ∧ tkeyWord k = 0 then BitVec.ofNat 32 (slotReset (tkeyIdx k))
  else if tkeyTid k = 0x0902 ∧ tkeyIdx k < 3 then
    if tkeyWord k = 0 then BitVec.ofNat 32 (2 ^ 31 + tkeyIdx k + 1) else Config.pubKey (tkeyIdx k) (tkeyWord k)
  else if tkeyTid k = 0x1800 ∧ tkeyWord k = 3 then BitVec.ofNat 32 ((Config.adcExc (tkeyIdx k)).toNat * 2 ^ 20)
  else initStatus (tkeyTid k) (tkeyWord k)

/-- Every bit of a range of words, with one access type. -/
def tAll (w0 w1 : Nat) (acc : Acc) : List TField := [⟨w0, w1, 0, 32, acc, .any⟩]

end Sys2Proof.Machine
end

