-- ==== Sys2Proof/Machine/Ops.lean ====
section
/-! DEFINITION. The named operations over the state: register words and fields, table records, counters (R60), the
interrupt controller's signals and presentations (R399, R402), events (R57) and their offer to the recorder (R409), and
mailboxes (R29 to R33, R544). -/

namespace Sys2Proof.Machine

/-- What a meaning answers. -/
abbrev Out := Host.Outcome State Fault Refusal

/-! ## Registers and fields -/

/-- The register word at address `a`. -/
def State.rd (s : State) (a : Nat) : Word := smGet regReset s.regs a

/-- `s` with the register word at address `a` replaced. -/
def State.wr (s : State) (a : Nat) (v : Word) : State := { s with regs := smSet regReset s.regs a v }

/-- The value of a register field. -/
def State.fld (s : State) (f : Fld) : Nat := wbits (s.rd f.addr) f.lo f.w

/-- `s` with a register field replaced. -/
def State.setF (s : State) (f : Fld) (v : Nat) : State := s.wr f.addr (wput (s.rd f.addr) f.lo f.w v)

/-- A one-bit field as a truth value. -/
def State.bit (s : State) (f : Fld) : Bool := s.fld f != 0

/-- `s` with a one-bit field set or cleared. -/
def State.setB (s : State) (f : Fld) (b : Bool) : State := s.setF f (b2n b)

/-- A field of an instance `k` pages after the one named (pages with one type code hold identical blocks, R44). -/
def Fld.shift (f : Fld) (k : Nat) : Fld := { f with addr := f.addr + 0x1000 * k }

/-- The same for a counter. -/
def Ctr.shift (c : Ctr) (k : Nat) : Ctr :=
  { c with f := c.f.shift k, ovf := (c.ovf.1 + 0x1000 * k, c.ovf.2), clr := (c.clr.1 + 0x1000 * k, c.clr.2) }

/-- The field one bit wide at `bit` of the register at `a`. -/
def bitAt (a bit : Nat) : Fld := ⟨a, bit, 1⟩

/-- A whole register as a field. -/
def wordAt (a : Nat) : Fld := ⟨a, 0, 32⟩

/-! ## Tables -/

/-- A word of a table record. -/
def State.trd (s : State) (tid idx w : Nat) : Word := smGet tblReset s.tbl (tkey tid idx w)

/-- `s` with a word of a table record replaced. -/
def State.twr (s : State) (tid idx w : Nat) (v : Word) : State :=
  { s with tbl := smSet tblReset s.tbl (tkey tid idx w) v }

/-- Bits of a word of a table record. -/
def State.tfld (s : State) (tid idx w lo n : Nat) : Nat := wbits (s.trd tid idx w) lo n

/-- `s` with bits of a word of a table record replaced. -/
def State.tset (s : State) (tid idx w lo n v : Nat) : State := s.twr tid idx w (wput (s.trd tid idx w) lo n v)

/-- The words of a record. -/
def State.trec (s : State) (tid idx n : Nat) : List Word := (List.range n).map (fun w => s.trd tid idx w)

/-- `s` with the words of a record replaced from word `w` on. -/
def State.trecSet (s : State) (tid idx w : Nat) : List Word → State
  | [] => s
  | v :: vs => (s.twr tid idx w v).trecSet tid idx (w + 1) vs

/-- `s` with every word of table `tid` whose record index satisfies `p` cleared to its reset value. -/
def State.tclear (s : State) (tid : Nat) (p : Nat → Bool) : State :=
  { s with tbl := smFilter s.tbl (fun k => !(tkeyTid k == tid && p (tkeyIdx k))) }

/-- The record index of the inactive copy of a banked table: bit 23 (R86). -/
def inact (idx : Nat) : Nat := 2 ^ 23 + idx

/-- The key of the same word in the other copy of its banked table. -/
def otherCopy (k : Nat) : Nat :=
  tkey (tkeyTid k) (if tkeyIdx k < 2 ^ 23 then tkeyIdx k + 2 ^ 23 else tkeyIdx k - 2 ^ 23) (tkeyWord k)

/-- The copies of the banked tables that `p` names exchange roles (R93). -/
def State.bankSwap (s : State) (p : Nat → Bool) : State :=
  let swapped := (s.tbl.filter (fun e => p (tkeyTid e.1))).map (fun e => (otherCopy e.1, e.2))
  { s with tbl := smOver tblReset (smFilter s.tbl (fun k => !p (tkeyTid k))) swapped }

/-- Starts a word map over: what `p` keeps of the record words of a table range. -/
def State.tkeep (s : State) (p : Nat → Bool) : State := { s with tbl := smFilter s.tbl p }

/-! ## Counters (R60) -/

/-- The maximum of a counter. -/
def Ctr.maxV (c : Ctr) : Nat := 2 ^ c.f.w - 1

/-- Adds `n` to a counter: W wraps, S stays at its maximum and sets its OVF flag. -/
def State.bumpN (s : State) (c : Ctr) (n : Nat) : State :=
  match c.kind with
  | .W => s.setF c.f ((s.fld c.f + n) % 2 ^ c.f.w)
  | .S =>
    if c.maxV ≤ s.fld c.f + n then (s.setF c.f c.maxV).setF (bitAt c.ovf.1 c.ovf.2) 1
    else s.setF c.f (s.fld c.f + n)

/-- Counts one. -/
def State.bump (s : State) (c : Ctr) : State := s.bumpN c 1

/-- Clears a counter and its flag. -/
def State.clearCtr (s : State) (c : Ctr) : State :=
  match c.kind with
  | .W => s
  | .S => (s.setF c.f 0).setF (bitAt c.ovf.1 c.ovf.2) 0

/-! ## The interrupt controller -/

/-- ENABLE, MASK, PENDING, CLAIMED, PRIO, TARGET, FW_TGT, OVF and COUNT of a source (R401). -/
def State.srcFld (s : State) (src lo n : Nat) : Nat := s.tfld 0x0700 src 0 lo n
def State.srcSet (s : State) (src lo n v : Nat) : State := s.tset 0x0700 src 0 lo n v

/-- The numbers that R398 and R64 reserve: 0x001 to 0x0FF without a named source, 0x131 to 0x1FF, and page summaries of
pages that do not exist. -/
def srcReserved (n : Nat) : Bool :=
  if n = 0 then true
  else if n < 0x100 then
    !(decide (n ≤ 4) || decide (8 ≤ n ∧ n < 0x20) || decide (0x40 ≤ n ∧ n < 0xA0))
  else if n < 0x200 then (pageInfo (n - 0x100)).isNone
  else decide (0x400 ≤ n)

/-- The sources with an entry in the source table that differs from its reset value: no other can be enabled. -/
def State.listedSrcs (s : State) : List Nat :=
  (s.tbl.filter (fun e => tkeyTid e.1 == 0x0700)).map (fun e => tkeyIdx e.1)

/-- Target `t`'s stack is frozen (R404): bit `t` of ICU_STAT. -/
def State.stackFrozen (s : State) (t : Nat) : Bool := s.bit (bitAt 0x7060 t)

/-- The PRIO at the top of a target's stack, plus one; 0 for an empty stack. -/
def State.topPrio1 (s : State) (t : Nat) : Nat :=
  match (s.icu.stack.getD t []) with
  | [] => 0
  | src :: _ => s.srcFld src 24 4 + 1

/-- R402: a source is eligible for target `t`. -/
def State.eligible (s : State) (t src : Nat) : Bool :=
  s.srcFld src 31 1 == 1 && s.srcFld src 30 1 == 0 && s.srcFld src 29 1 == 1 && s.srcFld src 20 4 == t
    && decide (s.topPrio1 t ≤ s.srcFld src 24 4) && !s.stackFrozen t

/-- The eligible source of highest PRIO, the lowest number on a tie (R402); 0 for none. -/
def State.bestSrc (s : State) (t : Nat) : Nat :=
  s.listedSrcs.foldl (fun b src =>
    if s.eligible t src && (b == 0 || decide (s.srcFld b 24 4 < s.srcFld src 24 4)) then src else b) 0

/-- The source presented to `t` after re-evaluation: a new presentation replaces the old one only when its PRIO is
higher (R402); nothing is presented with ICU_CTRL.EN at 0 (R399). -/
def State.presentNext (s : State) (t : Nat) : Nat :=
  let b := s.bestSrc t
  let p := s.icu.pres.getD t 0
  if !s.bit (bitAt 0x7040 0) then 0
  else if p != 0 && s.eligible t p && decide (s.srcFld b 24 4 ≤ s.srcFld p 24 4) then p
  else b

/-- Adds a notification item to a session that is open or dormant (R434, R443). -/
def Sess.addItem (x : Sess) (it : NItem) (us : Nat) : Sess :=
  if x.st = 2 ∨ x.st = 3 then
    { x with items := x.items ++ [it], oldestAt := if x.items.isEmpty then us else x.oldestAt }
  else x

/-- Microseconds since power-up at the last tick, as frames count them. -/
def State.tickUs (s : State) : Nat := s.fld (wordAt 0x604C) * 1000

/-- Adds an item to session `i`. -/
def State.addItem (s : State) (i : Nat) (it : NItem) : State :=
  { s with host := { s.host with sess := modAt s.host.sess i (fun x => x.addItem it s.tickUs) } }

/-- The status registers of a target: FAULT, PRES, DEPTH, PRIO and source at the top (R407). -/
def State.icuTgtStat (s : State) (t : Nat) : State :=
  let st := s.icu.stack.getD t []
  let top := st.headD 0
  s.wr (0x708C + 16 * t) (BitVec.ofNat 32
    (b2n (s.stackFrozen t) * 2 ^ 31 + b2n (s.icu.pres.getD t 0 != 0) * 2 ^ 30 + st.length * 2 ^ 25
      + (if st.isEmpty then 0 else s.srcFld top 24 4) * 2 ^ 16 + top))

/-- Re-evaluates the presentation to one target (R402). A new presentation to HOST is a notification item of the owner
(R434). -/
def State.icuEvalT (s : State) (t : Nat) : State :=
  let n := s.presentNext t
  let old := s.icu.pres.getD t 0
  let s1 := { s with icu := { s.icu with pres := setAt s.icu.pres t n } }
  let s2 := match s.host.owner with
    | some o => if t = 12 ∧ n ≠ 0 ∧ n ≠ old then s1.addItem o (.source n) else s1
    | none => s1
  s2.icuTgtStat t

/-- ICU_PEND_N: the sources pending. -/
def State.icuPendN (s : State) : State :=
  s.setF ⟨0x7064, 0, 11⟩ ((s.listedSrcs.filter (fun x => s.srcFld x 29 1 == 1)).length)

/-- Re-evaluates every target: "it re-evaluates at every change of a source or a stack" (R402). -/
def State.icuEval (s : State) : State :=
  ((List.range 13).foldl (fun a t => a.icuEvalT t) s).icuPendN

/-- A signal of a source (R399): ignored while ENABLE is 0; otherwise PENDING is set and the count goes up to 255, where
OVF is set. -/
def State.signal (s : State) (src : Nat) : State :=
  if s.srcFld src 31 1 = 0 then s
  else
    let s1 := s.srcSet src 29 1 1
    let n := s1.srcFld src 0 8 + 1
    let s2 := if 255 ≤ n then (s1.srcSet src 0 8 255).srcSet src 15 1 1 else s1.srcSet src 0 8 n
    s2.icuEval

/-! ## Time and frame of the moment -/

/-- The module's own clock at its last tick (TIME78): seconds and nanoseconds; its own frame count and frame. -/
def State.ownSec (s : State) : Nat := s.fld (wordAt 0x4074) + s.fld ⟨0x4078, 0, 16⟩ * 2 ^ 32
def State.ownNs (s : State) : Nat := s.fld ⟨0x407C, 0, 30⟩
def State.ownFno (s : State) : Nat := s.fld (wordAt 0x604C)

/-- The record that a standby module executes in this frame (R459). -/
def State.recRun (s : State) : Option RecHdr := if s.fld ⟨0x0054, 28, 4⟩ = 3 then s.twin.run else none

/-- TIME78 of the current tick, as the engines take it: from the record a standby module executes, else from the clock. -/
def State.nowSec (s : State) : Nat := match s.recRun with
  | some r => r.sec
  | none => s.ownSec
def State.nowNs (s : State) : Nat := match s.recRun with
  | some r => r.ns
  | none => s.ownNs

/-- FRAME_NO, the frames run since power-up, likewise. -/
def State.fno (s : State) : Nat := match s.recRun with
  | some r => r.fno
  | none => s.ownFno

/-- SEQ_FRAME.FRAME and SEQ_FRAME.EXT, likewise. -/
def State.frame (s : State) : Nat := match s.recRun with
  | some r => r.frame
  | none => s.fld ⟨0x6048, 0, 10⟩
def State.inExt (s : State) : Bool := match s.recRun with
  | some r => r.ext
  | none => s.bit (bitAt 0x6048 10)

/-- Frames since frame number `f` of the module's own count. -/
def State.ownSince (s : State) (f : Nat) : Nat := (s.ownFno + 2 ^ 32 - f % 2 ^ 32) % 2 ^ 32

/-- Frames since frame number `f`, FRAME_NO being of kind W (R61). -/
def State.since (s : State) (f : Nat) : Nat := (s.fno + 2 ^ 32 - f % 2 ^ 32) % 2 ^ 32

/-! ## Events (R57) -/

/-- Remembers an event raised (R58). -/
def State.noteEv (s : State) (p b : Nat) (was : Bool) : State :=
  { s with icu := { s.icu with fresh := (p, b, was) :: s.icu.fresh } }

/-- The tick to come begins with a command that precedes its FRAME_TICK: the events noted from here on are that tick's (R58). -/
def State.tickEarly (s : State) : State :=
  if s.icu.early then s else { s with icu := { s.icu with fresh := [], early := true } }

/-- FRAME_TICK begins: unless a command of the same tick came first, the list of its events begins anew. -/
def State.tickNotes (s : State) : State :=
  { s with icu := { s.icu with fresh := if s.icu.early then s.icu.fresh else [], early := false } }

/-- Raises bit `b` of page `p` without offering it to the recorder: PENDING bit, PG_EVT_CNT, the page summary source for
an unmasked bit that was not pending, and a notification item for every session whose PAGE_MASK has the page. -/
def State.raiseNoRec (s : State) (p b : Nat) : State :=
  let base := addrOf p 0
  let was := s.bit (bitAt (base + 0x10) b)
  let s1 := (s.setF (bitAt (base + 0x10) b) 1).noteEv p b was
  let s2 := s1.bumpN ⟨⟨base + 0x28, 0, 16⟩, .S, (base + 0x28, 31), (0, 0)⟩ 1
  let s3 := { s2 with host := { s2.host with sess := s2.host.sess.map (fun x =>
      if x.pageMask / 2 ^ p % 2 = 1 then x.addItem (.event (p * 256 + b)) s2.tickUs else x) } }
  if !was && !s.bit (bitAt (base + 0x1C) b) then s3.signal (0x100 + p) else s3

/-! ## The event recorder's admission (R409 to R411) -/

/-- The index of the defined code record of a code (R416). -/
def State.evrRec (s : State) (code : Nat) : Option Nat :=
  (((s.tbl.filter (fun e => tkeyTid e.1 == 0x0801 && tkeyWord e.1 == 0)).filter
    (fun e => wbits e.2 31 1 == 1 && wbits e.2 0 16 == code)).map (fun e => tkeyIdx e.1)).head?

/-- The bucket of a code: the index of its code record, or 1024 for the default bucket, whose status words this model
keeps in the status table's row after the last. -/
def bucketKey (r : Option Nat) : Nat := r.getD 1024

/-- BURST and PERIOD of a bucket (R410, R416, R418). -/
def State.evrBurst (s : State) (k : Nat) : Nat := if k = 1024 then s.fld ⟨0x8058, 24, 8⟩ else s.tfld 0x0801 k 1 24 8
def State.evrPeriod (s : State) (k : Nat) : Nat := if k = 1024 then s.fld ⟨0x8058, 0, 16⟩ else s.tfld 0x0801 k 1 0 16

/-- Tokens of a bucket. -/
def State.evrTokens (s : State) (k : Nat) : Nat := if k = 1024 then s.fld ⟨0x805C, 24, 8⟩ else s.tfld 0x0802 k 0 24 8
def State.evrSetTokens (s : State) (k n : Nat) : State :=
  if k = 1024 then s.setF ⟨0x805C, 24, 8⟩ n else s.tset 0x0802 k 0 24 8 n

/-- SUPP of a bucket. -/
def State.evrSupp (s : State) (k : Nat) : Nat := if k = 1024 then s.fld ⟨0x805C, 0, 16⟩ else s.tfld 0x0802 k 1 16 16
def State.evrSetSupp (s : State) (k n : Nat) : State :=
  if k = 1024 then s.setF ⟨0x805C, 0, 16⟩ n else s.tset 0x0802 k 1 16 16 n

/-- The frame from which a bucket's refill counts. -/
def State.evrGain (s : State) (k : Nat) : Nat := (s.evr.gains.lookup k).getD 0
def State.evrSetGain (s : State) (k f : Nat) : State :=
  { s with evr := { s.evr with gains := (k, f) :: s.evr.gains.filter (fun e => e.1 != k) } }

/-- Records already promised to queued events: two where a summary precedes the event (R409, R411). -/
def State.evrQueued (s : State) : Nat :=
  s.evr.intake.foldl (fun n e => n + (if e.summary.isSome then 2 else 1)) 0

/-- Suppresses an event (R411): SUPP (kind E), EVR_SUPP_TOT, LAST_SUPP, and FIRST_SUPP for the first of a run. -/
def State.evrSuppress (s : State) (k sec ns : Nat) : State :=
  let old := s.evrSupp k
  let s1 := if old = s.tfld 0x0802 k 1 0 16 then
      (s.twr 0x0802 k 4 (lo32 sec)).twr 0x0802 k 5 (lo32 ns) else s
  let s2 := (s1.twr 0x0802 k 6 (lo32 sec)).twr 0x0802 k 7 (lo32 ns)
  let s3 := s2.bump .EVR_SUPP_TOT
  if old < 65535 then
    let s4 := s3.evrSetSupp k (old + 1)
    if old + 1 = 65535 then s4.raiseNoRec 8 31 else s4
  else s3

/-- The words 4 to 9 of the summary due before an event of bucket `k` (R411, R412). After a soft reset SUPP is 0 and SUPP_AT_LAST
stays (R415): N is the difference modulo 2^32 then (DEDUCED: the formula of R411 in its 32-bit field; log entry 142). -/
def State.evrSummary (s : State) (k : Nat) : List Word :=
  [BitVec.ofNat 32 (s.evrSupp k) - BitVec.ofNat 32 (s.tfld 0x0802 k 1 0 16), BitVec.ofNat 32 (b2n (s.evrSupp k == 65535)),
   s.trd 0x0802 k 4, s.trd 0x0802 k 5, s.trd 0x0802 k 6, s.trd 0x0802 k 7]

/-- Takes a token (R409 step 7): a bucket that first falls below BURST starts its refill count (R410). -/
def State.evrTake (s : State) (k : Nat) : State :=
  if s.evrPeriod k = 0 then s
  else
    let t := s.evrTokens k
    let s1 := if t = s.evrBurst k then s.evrSetGain k s.fno else s
    s1.evrSetTokens k (t - 1)

/-- An event is offered to the recorder (R409): the first step whose condition holds decides. -/
def State.offer (s : State) (code kind : Nat) : State :=
  let r := s.evrRec code
  let k := bucketKey r
  let due := s.evrSupp k != s.tfld 0x0802 k 1 0 16
  if !s.bit (bitAt 0x8040 0) then s
  else if r.isSome && s.tfld 0x0801 k 0 30 1 == 0 then s
  else if s.bit (bitAt 0x8048 0) then s.bump .EVR_FRZ
  else if 512 ≤ s.evr.intake.length then
    let s1 := s.bump .EVR_INTAKE_LOST
    if s1.evr.lostRun then s1
    else { s1 with evr := { s1.evr with lostRun := true } }.raiseNoRec 8 2
  else if s.evrPeriod k != 0 && s.evrTokens k == 0 then s.evrSuppress k s.nowSec s.nowNs
  else if s.bit (bitAt 0x8048 1) || decide (98304 - s.fld ⟨0x804C, 0, 17⟩ - s.evrQueued < (if due then 2 else 1)) then
    let s1 := s.bump .EVR_FULL
    if s1.bit (bitAt 0x8048 1) then s1 else (s1.setF (bitAt 0x8048 1) 1).raiseNoRec 8 0
  else
    let s1 := s.evrTake k
    let e : Intake :=
      { sec := s.nowSec, ns := s.nowNs, code := code, kind := kind, frame := s.frame, ext := s.inExt,
        tq := s.fld ⟨0x4048, 0, 3⟩ % 4, codeRec := r, snap := none,
        summary := if due then some (s.evrSummary k) else none }
    let s2 := { s1 with evr := { s1.evr with intake := s1.evr.intake ++ [e], lostRun := false } }
    let n := s2.evr.intake.length
    let s3 := (s2.setF ⟨0x807C, 0, 10⟩ n).setF (bitAt 0x8048 2) (b2n (n == 512))
    let s4 := if s3.fld ⟨0x807C, 16, 10⟩ < n then s3.setF ⟨0x807C, 16, 10⟩ n else s3
    if due then s4.tset 0x0802 k 1 0 16 (s4.evrSupp k) else s4

/-- Raises event `b` of page `p` (R57): as above, and offered to the recorder under its event code, except the events of
the EVR page itself (R408). -/
def State.raiseEv (s : State) (p b : Nat) : State :=
  let s1 := s.raiseNoRec p b
  if p = 8 then s1 else s1.offer (p * 256 + b) 0

/-! ## Mailboxes (R28 to R33, R544) -/

/-- The mailbox of a number. -/
def State.mbxOf (s : State) (n : Nat) : Option Mbx := s.mbx.find? (fun m => m.num == n)

/-- `s` with the mailbox of a number changed. -/
def State.mbxMod (s : State) (n : Nat) (f : Mbx → Mbx) : State :=
  { s with mbx := s.mbx.map (fun m => if m.num = n then f m else m) }

/-- An item never written: 0 with quality INIT (R11, 6 INIT). -/
def Item.init : Item := ⟨0, 6⟩

/-- The item a reader sees: the front buffer's, with quality STALE in place of GOOD, ESTIM or SUBST while the mailbox is
STALE (R30). -/
def State.mbxItem (s : State) (n i : Nat) : Item :=
  match s.mbxOf n with
  | none => Item.init
  | some m =>
    let it := m.front.getD i Item.init
    if m.stale then { it with st := staleSt it.st } else it

/-- The writer writes item `i` of the back buffer (R29). An item that it holds it writes again in every later publication until it has
another value; one that it does not hold keeps in the other buffer what it held two frames earlier. -/
def Mbx.put (m : Mbx) (i : Nat) (it : Item) (hold : Bool) : Mbx :=
  let others := m.img.filter (fun e => e.1 != i)
  { m with back := setAt m.back i it, img := if hold then (i, it) :: others else others }

/-- The same, where a write after the close belongs to the next publication (R259, R302). -/
def Mbx.putNext (m : Mbx) (i : Nat) (it : Item) (hold : Bool) : Mbx :=
  if m.closed then { m with late := m.late ++ [(i, it, hold)] } else m.put i it hold

/-- The writer writes item `i` and holds it. -/
def State.mbxPut (s : State) (n i : Nat) (it : Item) : State := s.mbxMod n (fun m => m.put i it true)

/-- The writer writes consecutive items from `i` and holds them. -/
def State.mbxPuts (s : State) (n i : Nat) : List Item → State
  | [] => s
  | it :: its => (s.mbxPut n i it).mbxPuts n (i + 1) its

/-- The same for the next publication where the mailbox is closed. -/
def State.mbxPutsNext (s : State) (n i : Nat) : List Item → State
  | [] => s
  | it :: its => (s.mbxMod n (fun m => m.putNext i it true)).mbxPutsNext n (i + 1) its

/-- The mailbox exists and another engine than `eng` is its writer (R33). -/
def State.mbxForeign (s : State) (n eng : Nat) : Bool := ((s.mbxOf n).map (fun m => m.writer != eng)).getD false

/-- An access that the crossbar or the MRAM controller refused (R20, R24, R33): recorded with the engine and the address. -/
def State.xbarViol (s : State) (eng : Nat) (addr : Word) : State :=
  (((s.setF ⟨0x30044, 0, 4⟩ eng).wr 0x3004C addr).bump .HLTH_XBAR).raiseEv 0x30 0

/-! ## Module state -/

/-- MSTATE (R451): 0 BOOT, 1 DEFAULTED, 2 TAMPERED, 3 STANDBY, 4 ACTIVE, 5 PARKED, 6 FAULT. -/
def State.mstate (s : State) : Nat := s.fld ⟨0x0054, 28, 4⟩

/-- STEP of the start-up sequence (R524). -/
def State.bootStep (s : State) : Nat := s.fld ⟨0x0054, 24, 4⟩

/-- Enters a module state: DEV_STAT, TWIN_STAT and HLTH_STAT show it and STATE_CHG is raised when it changes (R524). -/
def State.setMstate (s : State) (m : Nat) : State :=
  if s.mstate = m then s
  else (((s.setF ⟨0x0054, 28, 4⟩ m).setF ⟨0xC048, 28, 4⟩ m).setF ⟨0x30044, 28, 4⟩ m).raiseEv 0 0

/-- Puts a message on the list of what leaves the block. -/
def State.emit (s : State) (m : OutMsg) : State := { s with sent := s.sent ++ [m] }

/-- TIME_PORT_LAT's ingress and egress, TIME_PORT_ASYM and TIME_PORT_PDELAY of a port (R109). -/
def State.latIn (s : State) (p : Nat) : Int := s.fld ⟨0x40B8 + 4 * p, 0, 16⟩
def State.latOut (s : State) (p : Nat) : Int := s.fld ⟨0x40B8 + 4 * p, 16, 16⟩
def State.portAsym (s : State) (p : Nat) : Int := sint (s.rd (0x40CC + 4 * p))

/-! ## Lines of ports A (0), B (1), H1 (2), H2 (3) and T (4) (R245) -/

/-- The line of a port is up now. -/
def State.lineUp (s : State) (p : Nat) : Bool := s.snet.lines.getD p false

/-- A port may transmit: on ports A and B SFP_TX_DIS does not disable it, and the module is ACTIVE or in BOOT: they send nothing in
DEFAULTED, TAMPERED, STANDBY, PARKED or FAULT (R449, R504, R515, R520). In TAMPERED ports H1 and H2 answer only ARP, neighbour discovery
and ICMP echo (R504). -/
def State.txOn (s : State) (p : Nat) : Bool :=
  if p < 2 then !s.bit (bitAt (0x10040 + 0x1000 * p) 2) && (s.mstate == 4 || s.mstate == 0) else s.mstate != 2

/-- A frame received, and one sent, on port A or B. -/
def State.rxFrame (s : State) (p : Nat) : State := if p < 2 then s.bump (Ctr.SNA_RX_FRAMES.shift p) else s
def State.txFrame (s : State) (p : Nat) : State := if p < 2 then s.bump (Ctr.SNA_TX_FRAMES.shift p) else s

/-- The sequence number of the next redundancy control trailer counts on (PRESUMED, IEC 62439-3: 16 bits, one for each frame that the node
sends, the same on both LANs; log 138). -/
def State.prpStep (s : State) : State := { s with snet := { s.snet with prpSeq := (s.snet.prpSeq + 1) % 65536 } }

/-- Sends a frame on a port; on ports A and B it carries a redundancy control trailer (R200). -/
def State.prpNext (s : State) (port : Nat) (m : Option Nat → OutMsg) : State :=
  if port < 2 then (s.emit (m (some s.snet.prpSeq))).prpStep else s.emit (m none)

/-- The number of a further frame of ports A and B that stands in no message of its own: a Follow_Up, a Pdelay_Req. -/
def State.prpSkip (s : State) (port : Nat) : State := if port < 2 then s.prpStep else s

/-- Takes the next free value's number. -/
def State.useFree (s : State) : State := { s with free := s.free + 1 }

end Sys2Proof.Machine
end

