-- ==== Sys2Proof/Machine/CpeImage.lean ====
section
/-! DEFINITION. Program images and instance data of the control program engines as bytes (R370 to R373, R377, R378): the
container of the program bank, the variable directory, and the variables of the instance data table. -/

namespace Sys2Proof.Machine

/-- A CPE. -/
def State.cpeP (s : State) (p : Nat) : CpeSt := s.cpe.getD p CpeSt.empty
def State.cpeMod (s : State) (p : Nat) (f : CpeSt → CpeSt) : State := { s with cpe := modAt s.cpe p f }

/-- A field of a CPE's page, and a counter of it. -/
def pfld (p off lo w : Nat) : Fld := ⟨0x21000 + 0x1000 * p + off, lo, w⟩
def cpePage (p : Nat) : Nat := 0x21 + p
def State.cpeBump (s : State) (p : Nat) (c : Ctr) : State := s.bump (c.shift p)

/-- Table `k` of CPE `p` (R397). -/
def pt (p k : Nat) : Nat := 0x2100 + 0x100 * p + k

/-- A byte of the image in copy `c` (0 active, 1 inactive) of a program bank. -/
def State.imgByte (s : State) (p c off : Nat) : Nat :=
  s.tfld (pt p 0) (c * 2 ^ 23 + off / 1024) (off / 4 % 256) (8 * (off % 4)) 8

/-- `n` bytes of an image, little-endian. -/
def State.imgLe (s : State) (p c off n : Nat) : Nat :=
  (List.range n).foldl (fun v i => v + s.imgByte p c (off + i) * 256 ^ i) 0

/-- CRC-32C of bytes (R372): the reflected polynomial 0x82F63B78, all ones at the start and the end. -/
def crc32c (bs : List Nat) : Nat :=
  let bit := fun c : Nat => if c % 2 = 1 then (c / 2) ^^^ 0x82F63B78 else c / 2
  let byte := fun c b : Nat => (List.range 8).foldl (fun x _ => bit x) (c ^^^ b)
  bs.foldl byte 0xFFFFFFFF ^^^ 0xFFFFFFFF

/-- Header fields (R372). -/
def State.imgId (s : State) (p c : Nat) : Nat := s.imgLe p c 8 4
def State.imgVer (s : State) (p c : Nat) : Nat := s.imgLe p c 12 4
def State.imgLen (s : State) (p c : Nat) : Nat := s.imgLe p c 16 4
def State.imgSects (s : State) (p c : Nat) : Nat := s.imgLe p c 20 2
def State.imgInst (s : State) (p c : Nat) : Nat := s.imgLe p c 24 4
def State.imgRetain (s : State) (p c : Nat) : Nat := s.imgLe p c 28 4
def State.imgVars (s : State) (p c : Nat) : Nat := s.imgLe p c 32 4
def State.imgNInst (s : State) (p c : Nat) : Nat := s.imgLe p c 36 4

/-- The section table: TYPE, OFFSET, LENGTH of each entry. -/
def State.sectList (s : State) (p c : Nat) : List (Nat × Nat × Nat) :=
  (List.range (min 16 (s.imgSects p c))).map (fun i =>
    (s.imgLe p c (64 + 16 * i) 2, s.imgLe p c (68 + 16 * i) 4, s.imgLe p c (72 + 16 * i) 4))

/-- Offset and length of a section; both 0 where there is none. -/
def State.sect (s : State) (p c typ : Nat) : Nat × Nat :=
  (((s.sectList p c).find? (fun e => e.1 == typ)).map (·.2)).getD (0, 0)

/-- The offsets of the entries of `n` bytes in a section. -/
def State.sectOffs (s : State) (p c typ n : Nat) : List Nat :=
  let e := s.sect p c typ
  (List.range (e.2 / n)).map (fun i => e.1 + n * i)

/-- A task entry: task, STACK in KiB, BUDGET_NS. -/
def State.imgTasks (s : State) (p c : Nat) : List (Nat × Nat × Nat) :=
  (s.sectOffs p c 1 16).map (fun o => (s.imgByte p c o, s.imgLe p c (o + 2) 2, s.imgLe p c (o + 8) 4))

/-- A record of the variable directory (R378). -/
structure VarRec where
  id : Nat
  inst : Nat
  typ : Nat
  off : Nat
  retain : Bool
  force : Bool
  task : Nat
  size : Nat
deriving DecidableEq, Repr

/-- The variable directory of an image. -/
def State.varList (s : State) (p c : Nat) : List VarRec :=
  (s.sectOffs p c 5 16).map (fun o =>
    let w2 := s.imgLe p c (o + 8) 4
    let w3 := s.imgLe p c (o + 12) 4
    { id := s.imgLe p c o 4, inst := s.imgLe p c (o + 4) 4, typ := w2 / 2 ^ 24, off := w2 % 2 ^ 21,
      retain := w3 / 2 ^ 28 % 2 == 1, force := w3 / 2 ^ 27 % 2 == 1, task := w3 / 2 ^ 20 % 16, size := w3 % 2 ^ 20 })

/-- A variable of an image. -/
def State.varOf (s : State) (p c id : Nat) : Option VarRec := (s.varList p c).find? (fun v => v.id == id)

/-- The INPUTS, OUTPUTS, EVENTS and INST entries of an image (R373). -/
def State.imgInputs (s : State) (p c : Nat) : List (Nat × Nat × Nat) :=
  (s.sectOffs p c 6 12).map (fun o => (s.imgLe p c o 4, s.imgLe p c (o + 4) 4, s.imgByte p c (o + 8)))
def State.imgOutputs (s : State) (p c : Nat) : List (Nat × Nat) :=
  (s.sectOffs p c 7 8).map (fun o => (s.imgLe p c o 4, s.imgLe p c (o + 4) 4))
def State.imgEvents (s : State) (p c : Nat) : List (Nat × Nat × Nat) :=
  (s.sectOffs p c 8 8).map (fun o => (s.imgByte p c o, s.imgByte p c (o + 1), s.imgLe p c (o + 4) 4))
def State.imgInsts (s : State) (p c : Nat) : List (Nat × Nat × Nat × Nat) :=
  (s.sectOffs p c 4 16).map (fun o => (s.imgLe p c o 4, s.imgLe p c (o + 4) 4, s.imgLe p c (o + 8) 4, s.imgLe p c (o + 12) 4))

/-- Word `w` of record `i` of the variable directory table, which mirrors the active image. -/
def State.varDirWord (s : State) (p i w : Nat) : Word :=
  let e := s.sect p 0 5
  if i < e.2 / 16 then BitVec.ofNat 32 (s.imgLe p 0 (e.1 + 16 * i + 4 * w) 4) else 0

/-! ## Instance data -/

/-- A byte of instance data. -/
def State.instByte (s : State) (p off : Nat) : Nat := s.tfld (pt p 1) (off / 1024) (off / 4 % 256) (8 * (off % 4)) 8

/-- `s` with a byte of instance data replaced. -/
def State.instPut (s : State) (p off v : Nat) : State := s.tset (pt p 1) (off / 1024) (off / 4 % 256) (8 * (off % 4)) 8 (v % 256)

/-- `n` bytes of instance data, and `s` with bytes replaced from `off` on. -/
def State.instBytes (s : State) (p off n : Nat) : List Nat := (List.range n).map (fun i => s.instByte p (off + i))
def State.instPuts (s : State) (p off : Nat) (bs : List Nat) : State :=
  bs.zipIdx.foldl (fun a e => a.instPut p (off + e.2) e.1) s

/-- Bytes as a number, least significant first, and a number as `n` such bytes. -/
def leNat (l : List Nat) : Nat := l.zipIdx.foldl (fun v e => v + e.1 * 256 ^ e.2) 0
def leBytes (n v : Nat) : List Nat := (List.range n).map (fun i => v / 256 ^ i % 256)

/-- The bytes of a scalar type (R377); 0 for types that are not scalar. -/
def typSize (t : Nat) : Nat :=
  ([0, 1, 1, 2, 4, 8, 1, 2, 4, 8, 4, 8, 1, 2, 4, 8, 8, 8, 8, 8] : List Nat).getD t 0

/-- The type is a two's complement integer. -/
def typSigned (t : Nat) : Bool := decide (2 ≤ t ∧ t ≤ 5) || t == 0x10

/-- The type carries a status byte: QREAL, QDINT. -/
def typQ (t : Nat) : Bool := t == 0x12 || t == 0x13

/-- An item as the bytes of a variable: a Q type takes value and status byte, BOOL whether it is not zero, another type the low
bytes, sign-extended for a signed one. -/
def itemBytes (typ size : Nat) (it : Item) : List Nat :=
  if typQ typ then leBytes 4 it.w.toNat ++ [it.st % 64, 0, 0, 0]
  else if typ = 1 then [b2n (it.w != 0)]
  else if typSigned typ then leBytes size (BitVec.ofInt 64 (sint it.w)).toNat
  else leBytes size it.w.toNat

/-- The bytes of a variable as an item: the low four bytes, extended by its type; a Q type's own status byte. -/
def bytesItem (typ : Nat) (bs : List Nat) : Item :=
  let n := leNat (bs.take 4)
  let w := if typSigned typ then ofInt (signed (8 * min 4 bs.length) n) else BitVec.ofNat 32 n
  ⟨w, if typQ typ then bs.getD 4 0 % 64 else GOOD⟩

/-! ## The error queue (R383, R384) -/

/-- Words of the error ring. -/
def State.errFld (s : State) (p i lo n : Nat) : Nat := s.tfld (pt p 4) i 0 lo n
def State.errUnserved (s : State) (p i : Nat) : Bool := s.errFld p i 31 1 == 1 && s.errFld p i 30 1 == 0

/-- The unserved records, oldest first. -/
def State.errQueue (s : State) (p : Nat) : List Nat :=
  ((List.range 64).map (fun i => ((s.cpeP p).errNext + i) % 64)).filter (s.errUnserved p)

/-- Queues an error record; a second one of causes 2 to 4 for a task waits for none, and a full ring refuses it. -/
def State.errQ (s : State) (p cause arg sub : Nat) : State :=
  let q := s.errQueue p
  let dup := decide (2 ≤ cause ∧ cause ≤ 4) && q.any (fun i =>
    decide (2 ≤ s.errFld p i 16 8 ∧ s.errFld p i 16 8 ≤ 4) && s.errFld p i 0 16 == arg)
  if dup then s
  else if 64 ≤ q.length then
    let s1 := s.cpeBump p .CPE0_ERRQ_LOST
    if (s.cpeP p).errFull then s1 else (s1.cpeMod p (fun c => { c with errFull := true })).raiseEv (cpePage p) 5
  else
    let i := (s.cpeP p).errNext
    let s1 := s.trecSet (pt p 4) i 0 [BitVec.ofNat 32 (2 ^ 31 + cause * 2 ^ 16 + arg), BitVec.ofNat 32 sub, BitVec.ofNat 32 s.fno,
      BitVec.ofNat 32 ((i + 1) % 64)]
    let s2 := s1.cpeMod p (fun c => { c with errNext := (i + 1) % 64, errFull := false })
    ((s2.wr (pfld p 0x74 0 32).addr (BitVec.ofNat 32 (cause * 2 ^ 24 + sub * 2 ^ 16 + arg))).cpeBump p .CPE0_ERR).raiseEv
      (cpePage p) 4

/-! ## Forces (R390, R391) -/

/-- The records in force: VAR_ID, TYPE, INST_ID, and the bytes of VALUE. -/
def State.forces (s : State) (p : Nat) : List (Nat × Nat × Nat × List Nat) :=
  ((List.range 256).filter (fun i => s.tfld (pt p 2) i 0 31 1 == 1)).map (fun i =>
    ((s.trd (pt p 2) i 1).toNat, s.tfld (pt p 2) i 0 0 8, (s.trd (pt p 2) i 2).toNat,
     leBytes 4 (s.trd (pt p 2) i 3).toNat ++ leBytes 4 (s.trd (pt p 2) i 4).toNat))

/-- A force names a forceable variable of copy `c` with its type. -/
def State.forceFits (s : State) (p c id typ inst : Nat) : Bool :=
  match s.varOf p c id with
  | none => false
  | some v => v.force && v.typ == typ && v.inst == inst

/-- A force record as written may stand (R390). -/
def State.forceOk (s : State) (tid : Nat) (ws : List Word) : Bool :=
  let w := fun i => ws.getD i 0
  !wbit (w 0) 31 || s.forceFits (if tid = 0x2202 then 1 else 0) 0 (w 1).toNat (wbits (w 0) 0 8) (w 2).toNat

end Sys2Proof.Machine
end

