-- ==== Sys2Proof/Machine/OpTable.lean ====
section
/-! DEFINITION. The opcode table of the frame sequencer (R78, R80): which opcode goes with which UNIT, and the worst-case
durations that verification charges (R88). -/

namespace Sys2Proof.Machine

/-- A frame table entry (R76). -/
structure Entry where
  offset : Nat
  op : Nat
  unit : Nat
  arg : Nat
deriving DecidableEq, Repr

/-- The entry that two table words hold (R76). -/
def entryOf (w0 w1 : Word) : Entry :=
  ⟨wbits w1 12 20, wbits w1 4 8, wbits w1 0 4 * 16 + wbits w0 28 4, wbits w0 0 28⟩

/-- The units of R78. -/
def unitOk (u : Nat) : Bool := [0x00, 0x01, 0x06, 0x07, 0x08, 0x09, 0x0A, 0x0B, 0x10, 0x11, 0x12, 0x13, 0x14, 0x20, 0x40].contains u

/-- The units that are engines. -/
def unitEngine (u : Nat) : Bool := [0x00, 0x01, 0x06, 0x07, 0x08, 0x09, 0x0A, 0x0B].contains u

/-- The opcodes of R80. -/
def opDefined (op : Nat) : Bool :=
  [0x00, 0x01, 0x02, 0x03, 0x04, 0x10, 0x11, 0x12, 0x18, 0x19, 0x20, 0x28, 0x30, 0x31, 0x32, 0x40, 0x41, 0x48, 0x49, 0x50].contains op

/-- The combinations of opcode and UNIT that R80 lists. -/
def opUnit (op u : Nat) : Bool :=
  if op = 0x00 then unitOk u
  else if op = 0x01 then u == 0x00
  else if op = 0x02 then unitEngine u
  else if op = 0x03 then u == 0x0B
  else if op = 0x04 then u == 0x40
  else if op = 0x10 then decide (0x10 ≤ u ∧ u ≤ 0x13)
  else if op = 0x11 then u == 0x14
  else if op = 0x12 then u == 0x20
  else if op = 0x18 ∨ op = 0x19 then u == 0x07
  else if op = 0x20 then u == 0x06
  else if op = 0x28 then u == 0x08 || u == 0x09
  else if op = 0x30 ∨ op = 0x31 ∨ op = 0x32 then u == 0x01
  else if op = 0x40 ∨ op = 0x41 ∨ op = 0x48 ∨ op = 0x49 ∨ op = 0x50 then u == 0x0A
  else false

/-- The ops that accept IDX = 1, and the place of their index field: low bit, width (R80). -/
def opIndex (op : Nat) : Option (Nat × Nat) :=
  if op = 0x04 then some (0, 6)
  else if op = 0x10 then some (0, 3)
  else if op = 0x18 then some (0, 2)
  else if op = 0x19 then some (0, 4)
  else if op = 0x40 ∨ op = 0x41 then some (0, 11)
  else if op = 0x49 then some (1, 6)
  else none

/-- Crossbar slots of an engine (R25). -/
def engineSlots (u : Nat) : Nat := if u = 0x01 then 8 else if u = 0x0A then 6 else if u = 0x08 ∨ u = 0x09 then 3 else 2

/-- The per-transfer time of PUBLISH with COPY, ⌈80 / S⌉ ns (R80). -/
def xferNs (u : Nat) : Nat := (80 + engineSlots u - 1) / engineSlots u

/-- VAR, BASE_NS and PER_NS of the op durations table (R88); a duration from the image or from the MODEL page shows 0. -/
def opDuration (op u : Nat) : Nat × Nat × Nat :=
  if op = 0x02 then (5, 100, xferNs u)
  else if op = 0x03 then (0, 3000, 0)
  else if op = 0x04 then (0, 50, 0)
  else if op = 0x10 then (0, 25, 0)
  else if op = 0x11 then (2, 2000, 10)
  else if op = 0x12 then (0, 200, 0)
  else if op = 0x18 then (0, 12000, 0)
  else if op = 0x19 then (0, 6000, 0)
  else if op = 0x20 then (1, 1000, 900)
  else if op = 0x28 then (3, 0, 0)
  else if op = 0x30 ∨ op = 0x31 ∨ op = 0x32 then (4, 0, 0)
  else if op = 0x40 then (0, 6000, 0)
  else if op = 0x41 then (0, 8000, 0)
  else if op = 0x48 ∨ op = 0x49 then (0, 1500, 0)
  else if op = 0x50 then (0, 45000, 0)
  else (0, 0, 0)

/-- Word `w` of record OP × 256 + UNIT of the op durations table (R88). -/
def durWord (idx w : Nat) : Word :=
  if opUnit (idx / 256) (idx % 256) then
    let d := opDuration (idx / 256) (idx % 256)
    if w = 0 then BitVec.ofNat 32 (2 ^ 31 + d.1 * 2 ^ 28 + d.2.1) else BitVec.ofNat 32 d.2.2
  else 0

end Sys2Proof.Machine
end

