-- ==== Sys2Proof/Machine/Tables.lean ====
section
/-! DEFINITION. The tables the controller implements (R65 to R68 and the chapters' table layouts). -/

namespace Sys2Proof.Machine

/-- The tables, part 0, in ascending ID. -/
def tables_0 : List TableInfo := [
  -- table directory
  ⟨0x0000, 4, 256, false, none, false,
    []⟩,
  -- configuration banks
  ⟨0x0100, 256, 8192, true, none, false,
    [⟨0, 255, 0, 32, .rw, .any⟩]⟩,
  -- frame table 0
  ⟨0x0600, 2, 4096, true, none, false,
    [⟨0, 1, 0, 32, .rw, .any⟩]⟩,
  -- frame table 1
  ⟨0x0601, 2, 4096, true, none, false,
    [⟨0, 1, 0, 32, .rw, .any⟩]⟩,
  -- frame table 2
  ⟨0x0602, 2, 4096, true, none, false,
    [⟨0, 1, 0, 32, .rw, .any⟩]⟩,
  -- frame table 3
  ⟨0x0603, 2, 4096, true, none, false,
    [⟨0, 1, 0, 32, .rw, .any⟩]⟩,
  -- frame table 4
  ⟨0x0604, 2, 4096, true, none, false,
    [⟨0, 1, 0, 32, .rw, .any⟩]⟩,
  -- frame table 5
  ⟨0x0605, 2, 4096, true, none, false,
    [⟨0, 1, 0, 32, .rw, .any⟩]⟩,
  -- frame table 6
  ⟨0x0606, 2, 4096, true, none, false,
    [⟨0, 1, 0, 32, .rw, .any⟩]⟩,
  -- frame table 7
  ⟨0x0607, 2, 4096, true, none, false,
    [⟨0, 1, 0, 32, .rw, .any⟩]⟩,
  -- frame plan
  ⟨0x0608, 1, 1001, true, none, false,
    [⟨0, 0, 0, 3, .rw, .any⟩]⟩,
  -- slot map 0
  ⟨0x0609, 1, 4096, true, none, false,
    [⟨0, 0, 0, 16, .rw, .any⟩]⟩
]

/-- The tables, part 1, in ascending ID. -/
def tables_1 : List TableInfo := [
  -- slot map 1
  ⟨0x060A, 1, 4096, true, none, false,
    [⟨0, 0, 0, 16, .rw, .any⟩]⟩,
  -- slot map 2
  ⟨0x060B, 1, 4096, true, none, false,
    [⟨0, 0, 0, 16, .rw, .any⟩]⟩,
  -- slot map 3
  ⟨0x060C, 1, 4096, true, none, false,
    [⟨0, 0, 0, 16, .rw, .any⟩]⟩,
  -- slot map 4
  ⟨0x060D, 1, 4096, true, none, false,
    [⟨0, 0, 0, 16, .rw, .any⟩]⟩,
  -- slot map 5
  ⟨0x060E, 1, 4096, true, none, false,
    [⟨0, 0, 0, 16, .rw, .any⟩]⟩,
  -- slot map 6
  ⟨0x060F, 1, 4096, true, none, false,
    [⟨0, 0, 0, 16, .rw, .any⟩]⟩,
  -- slot map 7
  ⟨0x0610, 1, 4096, true, none, false,
    [⟨0, 0, 0, 16, .rw, .any⟩]⟩,
  -- slot map headers
  ⟨0x0611, 1, 8, true, none, false,
    [⟨0, 0, 16, 7, .rw, .bt 1 64⟩, ⟨0, 0, 0, 10, .rw, .any⟩]⟩,
  -- op durations
  ⟨0x0612, 2, 65536, false, none, false,
    []⟩,
  -- source table
  ⟨0x0700, 1, 1024, false, none, false,
    [⟨0, 0, 24, 4, .rw, .any⟩, ⟨0, 0, 20, 4, .rw, .any⟩]⟩,
  -- recorder records
  ⟨0x0800, 20, 98304, false, none, false,
    []⟩,
  -- event codes
  ⟨0x0801, 20, 1024, false, some (0, 31), false,
    [⟨0, 0, 31, 1, .rw, .any⟩, ⟨0, 0, 30, 1, .rw, .any⟩, ⟨0, 0, 16, 5, .rw, .bt 0 16⟩, ⟨0, 0, 0, 16, .rw, .any⟩, ⟨1, 1, 24, 8, .rw, .any⟩, ⟨1, 1, 0, 16, .rw, .any⟩, ⟨2, 17, 0, 24, .rw, .any⟩]⟩
]

/-- The tables, part 2, in ascending ID. -/
def tables_2 : List TableInfo := [
  -- code status
  ⟨0x0802, 8, 1024, false, none, false,
    []⟩,
  -- key slots
  ⟨0x0900, 8, 128, false, none, false,
    []⟩,
  -- import buffer
  ⟨0x0901, 72, 1, false, none, false,
    [⟨0, 71, 0, 32, .rw, .any⟩]⟩,
  -- public keys
  ⟨0x0902, 64, 4, false, none, false,
    []⟩,
  -- tamper log
  ⟨0x0A00, 4, 16, false, none, false,
    []⟩,
  -- credentials
  ⟨0x0B00, 4, 16, false, some (0, 31), false,
    [⟨0, 0, 31, 1, .rw, .any⟩, ⟨0, 0, 30, 1, .rw, .any⟩, ⟨0, 0, 29, 1, .rw, .any⟩, ⟨0, 0, 24, 3, .rw, .any⟩, ⟨0, 0, 16, 7, .rw, .any⟩, ⟨1, 1, 0, 32, .rw, .any⟩]⟩,
  -- sessions
  ⟨0x0B01, 8, 8, false, none, false,
    []⟩,
  -- completion queues
  ⟨0x0B02, 4, 512, false, none, false,
    []⟩,
  -- event severities
  ⟨0x0B03, 1, 2048, false, none, false,
    [⟨0, 0, 0, 3, .rw, .any⟩]⟩,
  -- copy segments
  ⟨0x0C00, 4, 10, false, none, false,
    []⟩,
  -- node configuration
  ⟨0x1200, 8, 2048, false, some (0, 31), false,
    [⟨0, 0, 31, 1, .rw, .any⟩, ⟨0, 0, 30, 1, .rw, .any⟩, ⟨0, 0, 27, 3, .rw, .bt 0 5⟩, ⟨0, 0, 16, 8, .rw, .any⟩, ⟨0, 0, 0, 16, .rw, .any⟩, ⟨1, 6, 0, 32, .rw, .any⟩]⟩,
  -- substation image
  ⟨0x1201, 24, 2048, false, none, false,
    []⟩
]

/-- The tables, part 3, in ascending ID. -/
def tables_3 : List TableInfo := [
  -- network launch queue
  ⟨0x1202, 8, 16384, false, none, false,
    []⟩,
  -- node counters
  ⟨0x1203, 5, 2048, false, none, false,
    []⟩,
  -- message objects, bus C
  ⟨0x1400, 8, 64, false, some (0, 31), false,
    [⟨0, 0, 31, 1, .rw, .any⟩, ⟨0, 0, 30, 1, .rw, .any⟩, ⟨0, 0, 29, 1, .rw, .any⟩, ⟨0, 0, 28, 1, .rw, .any⟩, ⟨0, 0, 27, 1, .rw, .any⟩, ⟨0, 0, 22, 2, .rw, .bt 0 2⟩, ⟨0, 0, 16, 4, .rw, .any⟩, ⟨1, 1, 0, 29, .rw, .any⟩, ⟨2, 2, 31, 1, .rw, .any⟩, ⟨2, 2, 0, 29, .rw, .any⟩, ⟨3, 3, 20, 12, .rw, .any⟩, ⟨3, 3, 0, 16, .rw, .any⟩]⟩,
  -- stations, bus C
  ⟨0x1401, 4, 32, false, some (0, 31), false,
    [⟨0, 0, 31, 1, .rw, .any⟩, ⟨0, 0, 30, 1, .rw, .any⟩, ⟨0, 0, 24, 6, .rw, .any⟩, ⟨0, 0, 18, 6, .rw, .any⟩, ⟨0, 0, 17, 1, .rw, .any⟩, ⟨0, 0, 12, 4, .rw, .bt 0 12⟩, ⟨0, 0, 8, 4, .rw, .bt 0 12⟩, ⟨0, 0, 0, 8, .rw, .bt 1 255⟩, ⟨1, 1, 0, 20, .rw, .any⟩]⟩,
  -- output points, bus C
  ⟨0x1402, 1, 384, false, none, false,
    [⟨0, 0, 0, 32, .rw, .any⟩]⟩,
  -- message objects, bus D
  ⟨0x1500, 8, 64, false, some (0, 31), false,
    [⟨0, 0, 31, 1, .rw, .any⟩, ⟨0, 0, 30, 1, .rw, .any⟩, ⟨0, 0, 29, 1, .rw, .any⟩, ⟨0, 0, 28, 1, .rw, .any⟩, ⟨0, 0, 27, 1, .rw, .any⟩, ⟨0, 0, 22, 2, .rw, .bt 0 2⟩, ⟨0, 0, 16, 4, .rw, .any⟩, ⟨1, 1, 0, 29, .rw, .any⟩, ⟨2, 2, 31, 1, .rw, .any⟩, ⟨2, 2, 0, 29, .rw, .any⟩, ⟨3, 3, 20, 12, .rw, .any⟩, ⟨3, 3, 0, 16, .rw, .any⟩]⟩,
  -- stations, bus D
  ⟨0x1501, 4, 32, false, some (0, 31), false,
    [⟨0, 0, 31, 1, .rw, .any⟩, ⟨0, 0, 30, 1, .rw, .any⟩, ⟨0, 0, 24, 6, .rw, .any⟩, ⟨0, 0, 18, 6, .rw, .any⟩, ⟨0, 0, 17, 1, .rw, .any⟩, ⟨0, 0, 12, 4, .rw, .bt 0 12⟩, ⟨0, 0, 8, 4, .rw, .bt 0 12⟩, ⟨0, 0, 0, 8, .rw, .bt 1 255⟩, ⟨1, 1, 0, 20, .rw, .any⟩]⟩,
  -- output points, bus D
  ⟨0x1502, 1, 384, false, none, false,
    [⟨0, 0, 0, 32, .rw, .any⟩]⟩,
  -- ADC channels
  ⟨0x1800, 4, 32, false, some (0, 31), false,
    [⟨0, 0, 31, 1, .rws, .any⟩, ⟨0, 0, 29, 2, .rws, .bt 0 2⟩, ⟨0, 0, 27, 2, .rws, .bt 0 2⟩, ⟨0, 0, 26, 1, .rws, .any⟩, ⟨0, 0, 16, 10, .rws, .bt 1 1000⟩, ⟨1, 1, 0, 32, .rws, .any⟩, ⟨2, 2, 0, 32, .rws, .any⟩, ⟨3, 3, 0, 20, .rws, .any⟩]⟩,
  -- ADC window results
  ⟨0x1801, 8, 32, false, none, false,
    []⟩,
  -- calibration
  ⟨0x1900, 4, 28, false, none, false,
    [⟨0, 0, 0, 32, .rws, .any⟩, ⟨1, 1, 0, 24, .rws, .any⟩, ⟨2, 2, 0, 32, .rws, .any⟩, ⟨3, 3, 31, 1, .rws, .any⟩]⟩,
  -- energy registers
  ⟨0x1A00, 16, 16, false, none, false,
    []⟩
]

/-- The tables, part 4, in ascending ID. -/
def tables_4 : List TableInfo := [
  -- window results
  ⟨0x1A01, 32, 4, false, none, false,
    []⟩,
  -- electrical intervals
  ⟨0x1A02, 16, 384, false, none, false,
    []⟩,
  -- tail
  ⟨0x1A03, 4, 4, false, none, false,
    []⟩,
  -- thermal points
  ⟨0x1B00, 16, 16, false, some (0, 31), false,
    [⟨0, 0, 31, 1, .rw, .any⟩, ⟨0, 0, 29, 2, .rw, .bt 0 2⟩, ⟨0, 0, 28, 1, .rw, .any⟩, ⟨0, 0, 27, 1, .rw, .any⟩, ⟨0, 0, 16, 4, .rw, .any⟩, ⟨0, 0, 8, 5, .rw, .any⟩, ⟨1, 8, 0, 32, .rw, .any⟩]⟩,
  -- heat registers
  ⟨0x1B01, 16, 16, false, none, false,
    []⟩,
  -- thermal intervals
  ⟨0x1B02, 16, 1536, false, none, false,
    []⟩,
  -- tariffs
  ⟨0x1B03, 4, 16, false, none, false,
    []⟩,
  -- output sources, digital
  ⟨0x1C00, 1, 8, false, none, false,
    [⟨0, 0, 0, 32, .rw, .any⟩]⟩,
  -- output sources, analogue
  ⟨0x1D00, 1, 8, false, none, false,
    [⟨0, 0, 0, 32, .rw, .any⟩]⟩,
  -- loops
  ⟨0x2000, 20, 256, false, some (0, 31), false,
    [⟨0, 0, 31, 1, .rw, .any⟩, ⟨0, 0, 29, 2, .rw, .bt 0 2⟩, ⟨0, 0, 28, 1, .rw, .any⟩, ⟨0, 0, 27, 1, .rw, .any⟩, ⟨0, 0, 26, 1, .rw, .any⟩, ⟨0, 0, 25, 1, .rw, .any⟩, ⟨0, 0, 24, 1, .rw, .any⟩, ⟨0, 0, 23, 1, .rw, .any⟩, ⟨0, 0, 10, 10, .rw, .bt 1 1000⟩, ⟨0, 0, 0, 10, .rw, .any⟩, ⟨1, 13, 0, 32, .rw, .any⟩]⟩,
  -- groups
  ⟨0x2001, 5, 32, false, some (0, 31), false,
    [⟨0, 0, 31, 1, .rw, .any⟩, ⟨0, 0, 0, 3, .rw, .any⟩, ⟨1, 2, 0, 32, .rw, .any⟩]⟩,
  -- proposals
  ⟨0x2002, 8, 256, false, none, false,
    []⟩
]

/-- The tables, part 5, in ascending ID. -/
def tables_5 : List TableInfo := [
  -- program bank, CPE0
  ⟨0x2100, 256, 4096, true, none, false,
    [⟨0, 255, 0, 32, .rw, .any⟩]⟩,
  -- instance data
  ⟨0x2101, 256, 2048, false, none, true,
    []⟩,
  -- forces
  ⟨0x2102, 6, 256, false, none, false,
    [⟨0, 0, 31, 1, .rw, .any⟩, ⟨0, 0, 0, 8, .rw, .any⟩, ⟨1, 4, 0, 32, .rw, .any⟩]⟩,
  -- variable directory
  ⟨0x2103, 4, 65536, false, none, false,
    []⟩,
  -- error queue
  ⟨0x2104, 4, 64, false, none, false,
    []⟩,
  -- substitutes
  ⟨0x2105, 2, 768, false, none, false,
    [⟨0, 0, 30, 2, .rw, .bt 0 2⟩, ⟨1, 1, 0, 32, .rw, .any⟩]⟩,
  -- program bank, CPE1
  ⟨0x2200, 256, 4096, true, none, false,
    [⟨0, 255, 0, 32, .rw, .any⟩]⟩,
  -- instance data
  ⟨0x2201, 256, 2048, false, none, true,
    []⟩,
  -- forces
  ⟨0x2202, 6, 256, false, none, false,
    [⟨0, 0, 31, 1, .rw, .any⟩, ⟨0, 0, 0, 8, .rw, .any⟩, ⟨1, 4, 0, 32, .rw, .any⟩]⟩,
  -- variable directory
  ⟨0x2203, 4, 65536, false, none, false,
    []⟩,
  -- error queue
  ⟨0x2204, 4, 64, false, none, false,
    []⟩,
  -- substitutes
  ⟨0x2205, 2, 768, false, none, false,
    [⟨0, 0, 30, 2, .rw, .bt 0 2⟩, ⟨1, 1, 0, 32, .rw, .any⟩]⟩
]

/-- The tables, part 6, in ascending ID. -/
def tables_6 : List TableInfo := [
  -- circuits
  ⟨0x2400, 8, 4, true, some (0, 31), true,
    [⟨0, 0, 31, 1, .rw, .any⟩, ⟨0, 0, 30, 1, .rw, .any⟩, ⟨0, 0, 13, 6, .rw, .any⟩, ⟨0, 0, 0, 13, .rw, .any⟩, ⟨1, 5, 0, 32, .rw, .any⟩, ⟨7, 7, 0, 32, .rw, .any⟩]⟩,
  -- segments
  ⟨0x2401, 8, 8192, true, some (0, 31), true,
    [⟨0, 0, 31, 1, .rw, .any⟩, ⟨0, 0, 30, 1, .rw, .any⟩, ⟨0, 0, 28, 2, .rw, .any⟩, ⟨0, 0, 13, 13, .rw, .any⟩, ⟨0, 0, 0, 13, .rw, .any⟩, ⟨1, 1, 4, 4, .rw, .any⟩, ⟨1, 1, 0, 4, .rw, .any⟩, ⟨2, 3, 0, 32, .rw, .bt 1 0x7F800000⟩, ⟨4, 6, 0, 32, .rw, .any⟩, ⟨7, 7, 16, 12, .rw, .bt 1 4095⟩, ⟨7, 7, 0, 12, .rw, .bt 1 4095⟩]⟩,
  -- junctions
  ⟨0x2402, 4, 8192, true, some (0, 31), true,
    [⟨0, 0, 31, 1, .rw, .any⟩, ⟨0, 0, 30, 1, .rw, .any⟩, ⟨0, 0, 28, 2, .rw, .any⟩, ⟨1, 2, 0, 32, .rw, .any⟩]⟩,
  -- pump stations
  ⟨0x2403, 8, 32, true, some (0, 31), true,
    [⟨0, 0, 31, 1, .rw, .any⟩, ⟨0, 0, 30, 1, .rw, .any⟩, ⟨0, 0, 28, 2, .rw, .any⟩, ⟨0, 0, 13, 13, .rw, .any⟩, ⟨0, 0, 0, 13, .rw, .any⟩, ⟨1, 5, 0, 32, .rw, .any⟩]⟩,
  -- source attachments
  ⟨0x2404, 6, 64, true, some (0, 31), true,
    [⟨0, 0, 31, 1, .rw, .any⟩, ⟨0, 0, 30, 1, .rw, .any⟩, ⟨0, 0, 28, 2, .rw, .any⟩, ⟨0, 0, 13, 13, .rw, .any⟩, ⟨0, 0, 0, 13, .rw, .any⟩, ⟨1, 4, 0, 32, .rw, .any⟩, ⟨5, 5, 31, 1, .rw, .any⟩]⟩,
  -- store attachments
  ⟨0x2405, 4, 16, true, some (0, 31), true,
    [⟨0, 0, 31, 1, .rw, .any⟩, ⟨0, 0, 28, 2, .rw, .any⟩, ⟨0, 0, 13, 13, .rw, .any⟩, ⟨0, 0, 0, 13, .rw, .any⟩, ⟨1, 3, 0, 32, .rw, .any⟩]⟩,
  -- substation attachments
  ⟨0x2406, 8, 2048, true, some (0, 31), true,
    [⟨0, 0, 31, 1, .rw, .any⟩, ⟨0, 0, 30, 1, .rw, .any⟩, ⟨0, 0, 28, 2, .rw, .any⟩, ⟨0, 0, 13, 13, .rw, .any⟩, ⟨0, 0, 0, 13, .rw, .any⟩, ⟨1, 1, 28, 4, .rw, .any⟩, ⟨2, 2, 0, 32, .rw, .any⟩, ⟨3, 3, 0, 32, .rw, .bt 1 0x7F800000⟩, ⟨4, 4, 30, 2, .rw, .bt 0 1⟩, ⟨5, 6, 0, 32, .rw, .any⟩]⟩,
  -- monitored sets
  ⟨0x2407, 32, 4, true, none, true,
    [⟨0, 31, 0, 32, .rw, .any⟩]⟩,
  -- ground zones
  ⟨0x2408, 4, 16, true, none, true,
    [⟨0, 2, 0, 32, .rw, .any⟩]⟩,
  -- segment results
  ⟨0x2409, 4, 8192, false, none, true,
    []⟩,
  -- junction results
  ⟨0x240A, 3, 8192, false, none, true,
    []⟩,
  -- node results
  ⟨0x240B, 8, 2048, false, none, true,
    []⟩
]

/-- The tables, part 7, in ascending ID. -/
def tables_7 : List TableInfo := [
  -- arrival table
  ⟨0x240C, 34, 2048, false, none, true,
    []⟩,
  -- circuit limits
  ⟨0x2500, 12, 4, true, some (0, 31), false,
    [⟨0, 0, 31, 1, .rw, .any⟩, ⟨0, 0, 30, 1, .rw, .any⟩, ⟨2, 11, 0, 32, .rw, .any⟩]⟩,
  -- sources
  ⟨0x2501, 40, 64, true, some (0, 31), false,
    [⟨0, 0, 31, 1, .rw, .any⟩, ⟨0, 0, 28, 3, .rw, .bt 0 5⟩, ⟨0, 0, 26, 2, .rw, .any⟩, ⟨0, 0, 25, 1, .rw, .any⟩, ⟨0, 0, 24, 1, .rw, .any⟩, ⟨0, 0, 22, 2, .rw, .any⟩, ⟨0, 0, 19, 3, .rw, .any⟩, ⟨0, 0, 13, 6, .rw, .any⟩, ⟨1, 37, 0, 32, .rw, .any⟩]⟩,
  -- stores
  ⟨0x2502, 16, 16, true, some (0, 31), false,
    [⟨0, 0, 31, 1, .rw, .any⟩, ⟨0, 0, 28, 2, .rw, .any⟩, ⟨1, 15, 0, 32, .rw, .any⟩]⟩,
  -- pump stations
  ⟨0x2503, 8, 32, true, some (0, 31), false,
    [⟨0, 0, 31, 1, .rw, .any⟩, ⟨0, 0, 28, 2, .rw, .any⟩, ⟨0, 0, 19, 3, .rw, .any⟩, ⟨1, 7, 0, 32, .rw, .any⟩]⟩,
  -- demand classes
  ⟨0x2504, 16, 256, true, some (0, 31), false,
    [⟨0, 0, 31, 1, .rw, .any⟩, ⟨0, 0, 30, 1, .rw, .any⟩, ⟨0, 0, 28, 2, .rw, .any⟩, ⟨0, 0, 22, 6, .rw, .any⟩, ⟨0, 0, 16, 6, .rw, .any⟩, ⟨0, 0, 10, 6, .rw, .any⟩, ⟨1, 1, 0, 8, .rw, .bt 7 56⟩, ⟨2, 15, 0, 32, .rw, .any⟩]⟩,
  -- node classes
  ⟨0x2505, 1, 2048, true, none, false,
    [⟨0, 0, 31, 1, .rw, .any⟩, ⟨0, 0, 0, 8, .rw, .any⟩]⟩,
  -- grid points
  ⟨0x2506, 8, 8, true, some (0, 31), false,
    [⟨0, 0, 31, 1, .rw, .any⟩, ⟨0, 0, 24, 6, .rw, .any⟩, ⟨0, 0, 18, 6, .rw, .any⟩, ⟨0, 0, 12, 6, .rw, .any⟩, ⟨0, 0, 6, 6, .rw, .any⟩, ⟨2, 5, 0, 32, .rw, .any⟩]⟩,
  -- lighting zones
  ⟨0x2507, 8, 256, true, some (0, 31), false,
    [⟨0, 0, 31, 1, .rw, .any⟩, ⟨0, 0, 28, 3, .rw, .any⟩, ⟨0, 0, 16, 11, .rw, .any⟩, ⟨0, 0, 0, 11, .rw, .any⟩, ⟨1, 7, 0, 32, .rw, .any⟩]⟩,
  -- lighting recipes
  ⟨0x2508, 64, 256, true, some (0, 31), false,
    [⟨0, 0, 31, 1, .rw, .any⟩, ⟨0, 0, 8, 5, .rw, .bt 0 23⟩, ⟨0, 0, 0, 5, .rw, .bt 1 24⟩, ⟨1, 8, 0, 32, .rw, .any⟩, ⟨16, 16, 0, 30, .rw, .any⟩, ⟨17, 17, 0, 30, .rw, .any⟩, ⟨18, 18, 0, 30, .rw, .any⟩, ⟨19, 19, 0, 30, .rw, .any⟩, ⟨20, 20, 0, 30, .rw, .any⟩, ⟨21, 21, 0, 30, .rw, .any⟩, ⟨22, 22, 0, 30, .rw, .any⟩, ⟨23, 23, 0, 30, .rw, .any⟩, ⟨24, 24, 0, 30, .rw, .any⟩, ⟨25, 25, 0, 30, .rw, .any⟩, ⟨26, 26, 0, 30, .rw, .any⟩, ⟨27, 27, 0, 30, .rw, .any⟩, ⟨28, 28, 0, 30, .rw, .any⟩, ⟨29, 29, 0, 30, .rw, .any⟩, ⟨30, 30, 0, 30, .rw, .any⟩, ⟨31, 31, 0, 30, .rw, .any⟩, ⟨32, 32, 0, 30, .rw, .any⟩, ⟨33, 33, 0, 30, .rw, .any⟩, ⟨34, 34, 0, 30, .rw, .any⟩, ⟨35, 35, 0, 30, .rw, .any⟩, ⟨36, 36, 0, 30, .rw, .any⟩, ⟨37, 37, 0, 30, .rw, .any⟩, ⟨38, 38, 0, 30, .rw, .any⟩, ⟨39, 39, 0, 30, .rw, .any⟩, ⟨40, 40, 0, 30, .rw, .any⟩, ⟨41, 41, 0, 30, .rw, .any⟩, ⟨42, 42, 0, 30, .rw, .any⟩, ⟨43, 43, 0, 30, .rw, .any⟩, ⟨44, 44, 0, 30, .rw, .any⟩, ⟨45, 45, 0, 30, .rw, .any⟩, ⟨46, 46, 0, 30, .rw, .any⟩, ⟨47, 47, 0, 30, .rw, .any⟩, ⟨48, 48, 0, 30, .rw, .any⟩, ⟨49, 49, 0, 30, .rw, .any⟩, ⟨50, 50, 0, 30, .rw, .any⟩, ⟨51, 51, 0, 30, .rw, .any⟩, ⟨52, 52, 0, 30, .rw, .any⟩, ⟨53, 53, 0, 30, .rw, .any⟩, ⟨54, 54, 0, 30, .rw, .any⟩, ⟨55, 55, 0, 30, .rw, .any⟩, ⟨56, 56, 0, 30, .rw, .any⟩, ⟨57, 57, 0, 30, .rw, .any⟩, ⟨58, 58, 0, 30, .rw, .any⟩, ⟨59, 59, 0, 30, .rw, .any⟩, ⟨60, 60, 0, 30, .rw, .any⟩, ⟨61, 61, 0, 30, .rw, .any⟩, ⟨62, 62, 0, 30, .rw, .any⟩, ⟨63, 63, 0, 30, .rw, .any⟩]⟩,
  -- default schedule
  ⟨0x2509, 128, 96, true, none, false,
    [⟨0, 115, 0, 32, .rw, .any⟩]⟩,
  -- day-type profiles
  ⟨0x250A, 48, 2048, true, none, false,
    [⟨0, 47, 0, 32, .rw, .any⟩]⟩
]

/-- The tables, part 8, in ascending ID. -/
def tables_8 : List TableInfo := [
  -- series
  ⟨0x250B, 196, 64, false, some (0, 31), false,
    [⟨0, 0, 31, 1, .rw, .any⟩, ⟨0, 0, 24, 7, .rw, .bt 0 6⟩, ⟨1, 1, 0, 32, .rw, .any⟩, ⟨2, 2, 0, 32, .rw, .bt 1 192⟩, ⟨4, 195, 0, 32, .rw, .any⟩]⟩,
  -- day calendar
  ⟨0x250C, 2, 64, false, some (1, 31), false,
    [⟨0, 0, 0, 32, .rw, .any⟩, ⟨1, 1, 31, 1, .rw, .any⟩, ⟨1, 1, 0, 3, .rw, .any⟩]⟩,
  -- plan
  ⟨0x250D, 196, 3328, false, none, false,
    []⟩,
  -- plan summary
  ⟨0x250E, 16, 1, false, none, false,
    []⟩,
  -- forecast fit
  ⟨0x250F, 10, 256, false, none, false,
    []⟩,
  -- channel descriptors
  ⟨0x2600, 8, 32, false, some (0, 31), false,
    [⟨0, 0, 31, 1, .rws, .any⟩, ⟨0, 0, 29, 2, .rws, .any⟩, ⟨0, 0, 28, 1, .rws, .any⟩, ⟨0, 0, 27, 1, .rws, .any⟩, ⟨0, 0, 26, 1, .rws, .any⟩, ⟨0, 0, 22, 4, .rws, .any⟩, ⟨0, 0, 19, 3, .rws, .any⟩, ⟨1, 1, 0, 32, .rws, .any⟩, ⟨2, 2, 13, 19, .rws, .any⟩, ⟨2, 2, 0, 11, .rws, .any⟩, ⟨3, 3, 0, 16, .rws, .any⟩, ⟨4, 4, 0, 32, .rws, .any⟩, ⟨5, 5, 0, 32, .rws, .any⟩, ⟨6, 6, 0, 10, .rws, .bt 0 1000⟩]⟩,
  -- request log
  ⟨0x2601, 8, 256, false, none, false,
    []⟩
]

/-- The tables the controller implements, in ascending ID (R68). -/
def tables : List TableInfo := tables_0 ++ tables_1 ++ tables_2 ++ tables_3 ++ tables_4 ++ tables_5 ++ tables_6 ++ tables_7 ++ tables_8

/-- The table of an ID. The substitute table is one table under two IDs (R388). -/
def tableInfo (tid : Nat) : Option TableInfo := tables.find? (fun t => t.tid == tid)

/-- The page that owns a table (R65). -/
def tablePage (tid : Nat) : Nat := tid / 256

/-- The ID under which a table's records are held: 0x2205 addresses the table 0x2105. -/
def tableHome (tid : Nat) : Nat := if tid = 0x2205 then 0x2105 else tid

/-- The record index lies in the table: below its capacity, bit 23 aside in a banked table (R66, R86). -/
def TableInfo.idxOk (t : TableInfo) (idx : Nat) : Bool :=
  if t.banked then decide (idx < 2 ^ 24 ∧ idx % 2 ^ 23 < t.cap) else decide (idx < t.cap)

/-- The table has a field of an access type (R68). -/
def TableInfo.has (t : TableInfo) (a : Acc) : Bool := t.fields.any (fun f => f.acc == a)

/-- The table has a writable field (R66). -/
def TableInfo.writable (t : TableInfo) : Bool := !t.fields.isEmpty

/-- The writable fields of word `w`. -/
def TableInfo.fieldsOf (t : TableInfo) (w : Nat) : List TField :=
  t.fields.filter (fun f => decide (f.w0 ≤ w ∧ w ≤ f.w1))

/-- A word given to a record satisfies the ranges of its fields (R545). -/
def TableInfo.wordOk (t : TableInfo) (w : Nat) (v : Word) : Bool :=
  (t.fieldsOf w).all (fun f => f.rng.ok (wbits v f.lo f.wid))

/-- The words given to a record satisfy the ranges of their fields. -/
def TableInfo.wordsOk (t : TableInfo) : Nat → List Word → Bool
  | _, [] => true
  | w, v :: vs => t.wordOk w v && t.wordsOk (w + 1) vs

/-- `old` with the fields of word `w` taken from `v` (reserved bits read 0 and ignore writes, R46). -/
def TableInfo.merge (t : TableInfo) (w : Nat) (old v : Word) : Word :=
  (t.fieldsOf w).foldl (fun acc f => wput acc f.lo f.wid (wbits v f.lo f.wid)) old

/-- The same for the fields whose read shows a write not yet applied: RW and RWI, not RWS (R47). -/
def TableInfo.mergeRw (t : TableInfo) (w : Nat) (old v : Word) : Word :=
  ((t.fieldsOf w).filter (fun f => f.acc != .rws)).foldl (fun acc f => wput acc f.lo f.wid (wbits v f.lo f.wid)) old

end Sys2Proof.Machine
end

