-- ==== Sys2Proof/Machine/HostOps.lean ====
section
/-! DEFINITION. What every host operation shares: the checks of a received datagram (R423), request identities and
responses (R427), completions (R431), session closing (R426), what a read returns (R47, R54, R62), and the checks made on
receipt of a write (R45, R48, R49, R545). -/

namespace Sys2Proof.Machine

/-! ## Sessions -/

/-- A session of the host block. -/
def State.sess (s : State) (i : Nat) : Sess := s.host.sess.getD i Sess.free

/-- `s` with a session changed. -/
def State.sessMod (s : State) (i : Nat) (f : Sess → Sess) : State :=
  { s with host := { s.host with sess := modAt s.host.sess i f } }

/-- `s` with the host block changed. -/
def State.hostMod (s : State) (f : HostSt → HostSt) : State := { s with host := f s.host }

/-- The session is the owner, for what it sends now: no session is the owner once the owner's session has closed (R441). -/
def State.isOwner (s : State) (i : Nat) : Bool := s.host.owner == some i && !s.host.closing

/-- The port of a session is enabled: HOST_CTRL.EN_H1, EN_H2. -/
def State.portOn (s : State) (p : Nat) : Bool := s.bit (bitAt 0xB040 p)

/-- The service address of a host port is in use: HOST_NET_p.SVC_EN in a pair (R420, R448). -/
def State.svcOn (s : State) (p : Nat) : Bool := s.cfg.pair && s.bit (bitAt (0xB09C + 0x34 * p) 8)

/-- A datagram to an own address, or to a service address in use, is the module's (R420), and its port's line is up (R23). The active
module answers on service addresses; a standby one has their datagrams from the input record (R446); in any other state they are
nobody's here. -/
def State.addressed (s : State) (p : Nat) (svc : Bool) : Bool :=
  if svc then s.svcOn p && (s.fld ⟨0x0054, 28, 4⟩ == 3 || s.fld ⟨0x0054, 28, 4⟩ == 4 && s.lineUp (2 + p)) else s.lineUp (2 + p)

/-- What leaves of a message to a host: only the active module sends on service addresses (R446). -/
def State.says (s : State) (svc : Bool) (m : OutMsg) : List OutMsg :=
  if svc && s.cfg.pair && s.fld ⟨0x0054, 28, 4⟩ != 4 then [] else [m]
def State.say (s : State) (svc : Bool) (m : OutMsg) : State := { s with sent := s.sent ++ s.says svc m }

/-- Outstanding commands of a session (R430). -/
def State.outstanding (s : State) (i : Nat) : Nat :=
  (s.host.cmds.filter (fun c => c.ses == i && c.gen == (s.sess i).gen)).length

/-- HOST_SESS_s and HOST_STAT from the sessions and the owner (R448). -/
def State.sessWord (s : State) (i : Nat) : Nat :=
  let x := s.sess i
  if x.st = 0 then 0
  else
    x.st * 2 ^ 28 + x.cred * 2 ^ 24 + x.port * 2 ^ 23 + b2n x.svc * 2 ^ 22
      + s.tfld 0x0B00 x.cred 0 29 1 * 2 ^ 21 + s.tfld 0x0B00 x.cred 0 30 1 * 2 ^ 20 + x.prio * 2 ^ 16
      + x.cq.length * 2 ^ 8 + s.outstanding i

/-- The lease in ms that remains to the owner (R439); a dormant owner's runs to DORM_MAX (R443). -/
def State.leaseLeft (s : State) : Nat :=
  match s.host.owner with
  | none => 0
  | some o =>
    if (s.sess o).st = 3 then s.fld ⟨0xB054, 16, 16⟩ * 1000 - s.since (s.sess o).since
    else 2000 - s.since s.host.leaseAt

/-- The status registers of the HOST page change only at ticks (R448). -/
def State.hostRegs (s : State) : State :=
  let s1 := (List.range 8).foldl (fun a i => a.wr (0xB0D4 + 4 * i) (BitVec.ofNat 32 (a.sessWord i))) s
  let openN := (List.range 8).foldl (fun n i => n + (if (s.sess i).st = 2 ∨ (s.sess i).st = 3 then 2 ^ i else 0)) 0
  s1.wr 0xB04C (BitVec.ofNat 32 (min s.leaseLeft 65535 * 2 ^ 16
    + (match s.host.owner with
       | none => 0xF00
       | some o => b2n ((s.sess o).st == 3) * 2 ^ 15 + s.host.prio * 2 ^ 12 + o * 2 ^ 8) + openN))

/-- Counts an authentication failure and raises AUTH_FAIL at most once per hyperframe (R423). -/
def State.authFail (s : State) : State :=
  let s1 := s.bump .HOST_AUTH_FAIL
  if s1.host.authRaised then s1 else (s1.hostMod (fun h => { h with authRaised := true })).raiseEv 0x0B 5

/-- The replay window of R422: a SEQ above the highest accepted (`top` is one more than it, 0 for none), or within the 64
below it and not seen. -/
def replayOk (top : Nat) (seen : List Nat) (seq : Nat) : Bool :=
  decide (top ≤ seq) || (decide (top ≤ seq + 65) && !seen.contains seq)

/-- The window after accepting `seq`. -/
def replayTop (top seq : Nat) : Nat := max top (seq + 1)
def replaySeen (top : Nat) (seen : List Nat) (seq : Nat) : List Nat :=
  (seq :: seen).filter (fun x => decide (replayTop top seq ≤ x + 65))

/-- R423 for a REQUEST to an address of the module's, in order; a datagram that passes is counted, keeps its session from idling, and opens a session
that was opening (R425). The truth value says whether it passed. -/
def State.recvKwp (s : State) (k : Kwp) : State × Bool :=
  let x := s.sess k.ses
  if !s.addressed k.port k.svc then (s, false)
  else if !k.fmtOk || !s.portOn k.port then (s.bump .HOST_BAD, false)
  else if x.st = 0 || x.port != k.port || x.svc != k.svc || decide (8 ≤ k.ses) then (s.authFail, false)
  else if !k.tagOk then (s.authFail, false)
  else if !replayOk x.rxTop x.rxSeen k.seq then (s.bump .HOST_REPLAY, false)
  else
    let s1 := (s.bump .HOST_RX_OK).sessMod k.ses (fun x =>
      { x with rxTop := replayTop x.rxTop k.seq, rxSeen := replaySeen x.rxTop x.rxSeen k.seq, lastRx := s.fno,
               st := if x.st = 1 then 2 else x.st })
    if x.st = 1 then ((s1.bump .HOST_OPEN).raiseEv 0x0B 3, true) else (s1, true)

/-! ## Responses (R427) -/

/-- Sends a response of session `i` and keeps it among the last 32. -/
def State.respond (s : State) (i reqId op : Nat) (st : Status) (data : List Word) : State :=
  let r : Resp := ⟨reqId, op, st, data⟩
  let x := s.sess i
  (s.sessMod i (fun x => { x with cache := (r :: x.cache).take 32, inflight := x.inflight.filter (· != reqId),
                                  txSeq := x.txSeq + 1 })).say x.svc (.resp i x.txSeq r)

/-- Sends a response of session `i` that is not kept (R427). -/
def State.respondOnly (s : State) (i : Nat) (r : Resp) : State :=
  let x := s.sess i
  (s.sessMod i (fun x => { x with txSeq := x.txSeq + 1 })).say x.svc (.resp i x.txSeq r)

/-- The same for a request that waited: nothing is sent when its session has closed meanwhile (R426). -/
def State.respondTo (s : State) (q : HReq) (op : Nat) (st : Status) (data : List Word) : State :=
  if (s.sess q.ses).st != 0 && (s.sess q.ses).gen == q.gen then s.respond q.ses q.reqId op st data else s

/-- Executes a request once (R427): one of the last 32 responses is repeated; a duplicate of a request in execution is
discarded; a ninth request is answered BUSY and not kept. -/
def State.request (s : State) (k : Kwp) (op : Nat) (f : State → State) : State :=
  match s.recvKwp k with
  | (s1, false) => s1
  | (s1, true) =>
    let x := s1.sess k.ses
    match x.cache.find? (fun r => r.reqId == k.reqId) with
    | some r => s1.respondOnly k.ses r
    | none =>
      if x.inflight.contains k.reqId then s1
      else if 8 ≤ x.inflight.length then s1.respondOnly k.ses ⟨k.reqId, op, .busy, []⟩
      else f s1

/-- Holds a request until its tick. -/
def State.hold (s : State) (k : Kwp) (op : HOp) : State :=
  let s1 := s.sessMod k.ses (fun x => { x with inflight := x.inflight ++ [k.reqId] })
  s1.hostMod (fun h => { h with queue := h.queue ++ [⟨k.ses, (s.sess k.ses).gen, k.reqId, op⟩] })

/-- Holds an ownership request until its tick. -/
def State.holdOwn (s : State) (k : Kwp) (op : HOp) : State :=
  let s1 := s.sessMod k.ses (fun x => { x with inflight := x.inflight ++ [k.reqId] })
  s1.hostMod (fun h => { h with ownQ := h.ownQ ++ [⟨k.ses, (s.sess k.ses).gen, k.reqId, op⟩] })

/-! ## Completions (R431) -/

/-- Completes an accepted command: its record joins the completion queue of its session and is a notification item; a
completion of a session that has closed is discarded and counted (R426). -/
def State.complete (s : State) (c : HCmd) (st : Status) (result : Word) : State :=
  let s1 := s.hostMod (fun h => { h with cmds := h.cmds.filter (fun d => !(d.ses == c.ses && d.gen == c.gen && d.tag == c.tag)) })
  let x := s1.sess c.ses
  if x.st != 0 && x.gen == c.gen then
    let rec4 : List Word := [BitVec.ofNat 32 c.tag, BitVec.ofNat 32 (c.code * 2 ^ 16 + st.code * 2 ^ 8), result,
      BitVec.ofNat 32 s.fno]
    (s1.sessMod c.ses (fun x => { x with cq := x.cq ++ [rec4] })).addItem c.ses .completion
  else s1.bump .HOST_CQ_DISC

/-! ## Closing a session (R426) -/

/-- Closes session `i`: its number is free at once, its completions are gone, SESS_CLOSED is raised, and ownership it held
ends at the closing tick (R441). A session still opening is freed without an event (R425). -/
def State.closeSess (s : State) (i : Nat) : State :=
  let x := s.sess i
  if x.st = 0 then s
  else
    let s1 := s.sessMod i (fun _ => { Sess.free with gen := x.gen })
    let s2 := if s.host.owner = some i then s1.hostMod (fun h => { h with closing := true }) else s1
    if x.st = 1 then s2 else s2.raiseEv 0x0B 4

/-! ## What a read returns -/

/-- The page is frozen: PG_STAT.FROZEN (R54). -/
def State.frozen (s : State) (p : Nat) : Bool := s.bit (bitAt (addrOf p 0x0C) 8)

/-- The copy that readers see of page `p` is held: it has been frozen since an earlier tick (R54). -/
def State.held (s : State) (p : Nat) : Bool :=
  s.frozen p && !((s.frzFrom.lookup p) == some s.fno)

/-- At a tick readers are shown the block registers as they stand, of every page that is not held (R54, R62). -/
def State.shown (s : State) : State :=
  let kept := smFilter s.vis (fun a => s.held (pageOf a))
  let fresh := s.regs.filter (fun e => !s.held (pageOf e.1) && decide (0x40 ≤ offOf e.1))
  { s with vis := smOver regReset kept fresh }

/-- What a step at the instant of a tick has changed is shown with that tick. -/
def State.andShown (s r : State) : State := if r.regs = s.regs then r else r.shown

/-- The register word at `a` with the writes not yet applied (R47). -/
def State.rdAhead (s : State) (a : Nat) : Word :=
  s.host.queue.foldl (fun v q =>
    match q.op with
    | .regs _ ws => ws.foldl (fun v e => if e.1 = a then e.2 else v) v
    | _ => v) (s.rd a)

/-- A soft reset of page `p` is written and not yet done (PG_CTRL.SRST reads 1 until done). -/
def State.srstPend (s : State) (p : Nat) : Bool :=
  s.host.queue.any (fun q =>
    match q.op with
    | .regs _ ws => ws.any (fun e => e.1 == addrOf p 8 && wbit e.2 1)
    | _ => false)

/-- One field of a read. -/
def State.readField (s : State) (a : Nat) (r : FieldRow) : Nat :=
  let w := match r.acc with
    | .ro => if offOf a < 0x40 then s.rd a else smGet regReset s.vis a
    | .rw => s.rdAhead a
    | .rws => s.rd a
    | .w1c | .w1s => s.rd a
    | .wo | .roActs => 0
  wbits w r.lo r.wid * 2 ^ r.lo

/-- HOLD of loop `j`: the copy in word 0 of the loop record (R362). -/
def State.loopHold (s : State) (j : Nat) : Nat := s.tfld 0x2000 j 0 22 1

/-- The HOLD mask of loops 32k to 32k + 31, which LOOP_HOLD_SET_k and LOOP_HOLD_CLR_k read (R367). -/
def State.holdMask (s : State) (k : Nat) : Nat :=
  (List.range 32).foldl (fun n j => n + s.loopHold (32 * k + j) * 2 ^ j) 0

/-- The block of page `p` is executing a command (PG_STAT.BUSY, R53): a verification, a key command, a join, a rekey, an auto-tune or a
solve runs. -/
def State.pgBusy (s : State) (p : Nat) : Bool :=
  if p = 0x01 then s.bit (bitAt 0x1044 3)
  else if p = 0x06 then s.bit (bitAt 0x6044 2)
  else if p = 0x09 then s.bit (bitAt 0x904C 30)
  else if p = 0x0C then s.twin.joining
  else if p = 0x12 then !s.snet.rekeys.isEmpty
  else if p = 0x20 then s.bit (bitAt 0x2004C 8)
  else if p = 0x21 ∨ p = 0x22 then s.bit (bitAt (addrOf p 0x4C) 2)
  else if p = 0x24 then s.bit (bitAt 0x24048 2)
  else if p = 0x25 then s.bit (bitAt 0x25048 2) || s.opt.run.isSome
  else false

/-- PG_STAT bits 5..0 of page `p` (R53): ERR with an error event pending, BUSY, and STATE, which is 0 until start-up has applied the image's
values (R516, step 6). -/
def State.pgLow (s : State) (p : Nat) : Nat :=
  let ev := s.rd (addrOf p 0x10)
  b2n ((List.range 32).any (fun b => wbit ev b && Config.errorEvent p b)) * 32 + b2n (s.pgBusy p) * 16
    + (if s.bootStep < 7 then 0 else Config.pgState p s.free % 5)

/-- What a READ of the register at `a` returns (R47, R53, R54): PG_STAT shows the lock, PG_COMMIT.COMMIT reads as
COMMIT_PEND, PG_CTRL.SRST reads 1 until done, DIO_DO_SET and DIO_DO_CLR read CMD, the HOLD registers read the mask. -/
def State.readWord (s : State) (a : Nat) : Word :=
  let p := pageOf a
  let base := BitVec.ofNat 32 (((fieldsAt a).map (s.readField a)).foldl (· + ·) 0)
  if offOf a = 0x0C then
    wput (wput base 9 1 (wbits (s.rd (addrOf p 0x30)) 0 1)) 0 6 (s.pgLow p)
  else if offOf a = 0x08 then wput base 1 1 (b2n (s.srstPend p))
  else if offOf a = 0x2C then wput base 0 1 (s.fld (bitAt (addrOf p 0x0C) 7))
  else if a = 0x1C054 ∨ a = 0x1C058 then BitVec.ofNat 32 (s.fld ⟨0x1C050, 0, 8⟩)
  else if 0x20080 ≤ a ∧ a < 0x200C0 then BitVec.ofNat 32 (s.holdMask ((a - 0x20080) / 4 % 8))
  else base

/-- The register's read acts (R48). -/
def readActs (a : Nat) : Bool := (fieldsAt a).any (fun r => r.acc == .roActs)

/-- IN_USE of a table (R68): records whose DEFINED is 1, of the active copy of a banked table; the capacity for a table
without the field. -/
def State.inUse (s : State) (t : TableInfo) : Nat :=
  if t.tid = 0 then tables.length
  else if t.tid = 0x2103 then (s.varList 0 0).length
  else if t.tid = 0x2203 then (s.varList 1 0).length
  else
    match t.defined with
    | none => t.cap
    | some (w, b) =>
      (s.tbl.filter (fun e => tkeyTid e.1 == t.tid && tkeyWord e.1 == w && wbit e.2 b
        && decide (tkeyIdx e.1 < 2 ^ 23))).length

/-- Word `w` of record `i` of the table directory (R68). -/
def State.dirWord (s : State) (i w : Nat) : Word :=
  match tables[i]? with
  | none => 0
  | some t =>
    if w = 0 then BitVec.ofNat 32 (t.tid * 2 ^ 16 + t.words)
    else if w = 1 then BitVec.ofNat 32 t.cap
    else if w = 2 then BitVec.ofNat 32 (s.inUse t)
    else BitVec.ofNat 32 (b2n t.banked * 8 + b2n (t.tid == 0x2000) * 4 + b2n (t.has .rws) * 2 + b2n t.writable)

/-- Word `w` of record `i` of the session table (R448). -/
def State.sessTblWord (s : State) (i w : Nat) : Word :=
  let x := s.sess i
  if w = 0 then s.rd (0xB0D4 + 4 * i)
  else if x.st = 0 then 0
  else if w = 1 then BitVec.ofNat 32 (min x.wakeSev 15 * 2 ^ 16 + x.modCnt)
  else if w = 2 then BitVec.ofNat 32 x.modDly
  else if w = 3 then lo32 x.pageMask
  else if w = 4 then hi32 x.pageMask
  else if w = 5 then BitVec.ofNat 32 x.nseq
  else if w = 6 then x.hostId
  else BitVec.ofNat 32 x.lastRx

/-- The slot's key is of kind 9 and stands below slot `x` (R485: a chain is at most 4 deep). -/
def State.keyBelow (s : State) (x : Nat) : Nat → Nat → Bool
  | 0, _ => false
  | n + 1, i =>
    s.tfld 0x0900 i 0 23 4 == 9 && (s.tfld 0x0900 i 0 16 7 == x || s.keyBelow x n (s.tfld 0x0900 i 0 16 7))

/-- CHILD_N of a slot (R506): the kind 9 slots below it, and the cached keys. -/
def State.childN (s : State) (x : Nat) : Nat :=
  ((List.range 128).filter (fun i => s.keyBelow x 4 i)).length + Config.cachedKeys x s.free

/-- Word `w` of record `idx` as one request not yet applied leaves it: its RW and RWI fields (R47). A loop record's words before `split`
have been applied. -/
def HReq.ahead (t : TableInfo) (idx w : Nat) (v : Word) (q : HReq) : Word :=
  match q.op with
  | .table d i ws split =>
    if d = t.tid ∧ i = idx ∧ w < ws.length ∧ (d = 0x2000 → split ≤ w) then t.mergeRw w v (ws.getD w 0) else v
  | _ => v

/-- The requests that hold record words not yet applied, oldest first: those that an engine's transfer has brought, those that wait for it,
those that wait for their tick (R47, R140). -/
def State.recordQ (s : State) : List HReq :=
  let made := fun (q : HReq) => match q.op with
    | .table d _ _ split => split == 1 && d != 0x2000
    | _ => false
  s.host.queue.filter made ++ s.host.xferQ ++ s.host.queue.filter (fun q => !made q)

/-- What a TABLE_READ returns for word `w` of record `idx`: the directory, the op durations, the sessions, the completion queues and the
recorder's records at or beyond EVR_NEXT and the variable directories have rules of their own (R68, R88, R448, R431, R409,
R378). -/
def State.tableWord (s : State) (tid idx w : Nat) : Word :=
  if tid = 0 then s.dirWord idx w
  else if tid = 0x0612 then durWord idx w
  else if tid = 0x0B01 then s.sessTblWord idx w
  else if tid = 0x0B02 then (((s.sess (idx / 64)).cq.getD (idx % 64) []).getD w 0)
  else if tid = 0x2103 then s.varDirWord 0 idx w
  else if tid = 0x2203 then s.varDirWord 1 idx w
  else if tid = 0x0900 ∧ w = 7 then BitVec.ofNat 32 (s.childN idx % 2 ^ 16)
  else if tid = 0x0800 ∧ s.fld ⟨0x804C, 0, 17⟩ ≤ idx then 0
  else
    let v := s.trd (tableHome tid) idx w
    match tableInfo tid with
    | none => v
    | some t => s.recordQ.foldl (HReq.ahead t idx w) v

/-- The words of `cnt` records from `idx`. -/
def State.tableWords (s : State) (t : TableInfo) (idx cnt : Nat) : List Word :=
  (List.range cnt).flatMap (fun i => (List.range t.words).map (fun w => s.tableWord t.tid (idx + i) w))

/-! ## Checks made on receipt -/

/-- The registers whose word holds commands: a write of more than one bit completes with REFUSED, as their maps and rules
state (R92, R137, R172, R246, R277, R295, R367, R377, R414, R482, R506, R512, R524). -/
def oneBitRegs : List Nat :=
  [0x0058, 0x1040, 0x6040, 0x8044, 0x9044, 0xC044, 0x12044, 0x14044, 0x15044, 0x20044, 0x21044, 0x22044, 0x24044, 0x25044,
   0x26044]

/-- The command bits that a written word sets, of the WO fields at `a`. -/
def cmdBits (a : Nat) (v : Word) : Nat :=
  ((fieldsAt a).map (fun r => if r.acc = .wo then wbits v r.lo r.wid else 0)).foldl (fun n x => n + b2n (x != 0)) 0

/-- The ranges of the writable fields at `a` (R545). -/
def rangeOk (a : Nat) (v : Word) : Bool :=
  (fieldsAt a).all (fun r =>
    match r.acc with
    | .rw | .rws => r.rng.ok (wbits v r.lo r.wid)
    | _ => true)

/-- Every pair of bits of `v` from `lo` up, `n` pairs, is other than 3: SAFE codes (R309, R311, R312). -/
def pairsNot3 (v : Word) (lo n : Nat) : Bool := (List.range n).all (fun i => wbits v (lo + 2 * i) 2 != 3)

/-- ACTION and TARGET of a launch comparator (R121): solid-state outputs 0 to 7, analogue and PWM outputs 0 to 3. -/
def launchOk (act tgt : Nat) : Bool :=
  if act = 1 ∨ act = 2 then decide (tgt < 8) else if act = 3 ∨ act = 4 then decide (tgt < 4) else decide (act = 0 ∨ act = 5)

/-- Ranges that tie fields together or that a rule states beside the map: OPT_CFG.PHASE below PERIOD, MODEL_ADAPT_CFG LO
from 1 to HI, MODEL_C tolerances and leak time, EVR_DEF_BUCKET BURST 0 with a PERIOD, TIME_SRC_RANK's distinct codes, the message intervals of R107, launch actions, INT_MIN, the ICU's source numbers, the safe-state codes,
PWM duties (R312), CANx_REF_ID (R258), a hysteresis of 0 or more, OPT_LOCAL_OFS (R163). -/
def rangeOk2 (a : Nat) (v : Word) : Bool :=
  if a = 0x25050 then decide (wbits v 0 16 < wbits v 16 16)
  else if a = 0x24064 then decide (1 ≤ wbits v 8 12 ∧ wbits v 8 12 ≤ wbits v 20 12)
  else if 0x240A0 ≤ a ∧ a < 0x24180 ∧ (a - 0x240A0) % 0x38 = 0x14 then decide (1 ≤ wbits v 0 16)
  else if 0x240A0 ≤ a ∧ a < 0x24180 ∧ (a - 0x240A0) % 0x38 = 0x24 then decide (1 ≤ wbits v 16 16)
  else if a = 0x8058 then decide (1 ≤ wbits v 24 8)
  else if a = 0x404C then
    let r := [wbits v 0 4, wbits v 4 4, wbits v 8 4].filter (fun c => c != 0)
    decide (r.Nodup)
  else if a = 0x4098 ∨ a = 0x40A0 then (Rng.sbt 8 4 4).ok (wbits v 0 8) && (Rng.sbt 8 4 4).ok (wbits v 8 8)
  else if 0x5040 ≤ a ∧ a < 0x5440 ∧ a % 16 = 8 then launchOk (wbits v 16 4) (wbits v 8 8)
  else if 0x7044 ≤ a ∧ a ≤ 0x705C then
    decide (wbits v 0 10 = 0) ||
      (if a = 0x7044 then decide (0x300 ≤ wbits v 0 10) else !srcReserved (wbits v 0 10))
  else if a = 0x1A044 ∨ a = 0x1B044 then [1, 2, 3, 4, 5, 6, 10, 12, 15, 20, 30, 60].contains (wbits v 0 6)
  else if a = 0x1C05C then pairsNot3 v 8 8
  else if 0x1D048 ≤ a ∧ a < 0x1D058 then decide (wbits v 30 2 ≠ 3)
  else if 0x1D078 ≤ a ∧ a < 0x1D088 then decide (wbits v 30 2 ≠ 3)
  else if 0x1D098 ≤ a ∧ a < 0x1D0A8 then decide (wbits v 0 14 ≤ 10000 ∧ wbits v 16 14 ≤ 10000)
  else if a = 0x1406C ∨ a = 0x1506C then
    wbit v 31 || (decide (wbits v 0 29 ≠ 0) && !decide (0x40 ≤ wbits v 0 29 ∧ wbits v 0 29 ≤ 0x5F))
  else if a = 0x20054 then decide (wbits v 0 31 = 0) || decide (wbits v 0 32 ≤ 0x7F800000)
  else if a = 0x25060 then decide (-50400 ≤ sint v ∧ sint v ≤ 50400 ∧ sint v % 900 = 0)
  else true

/-- The status that the written value alone decides, at receipt (R545, R546): BAD_ADDR first, then RANGE, then REFUSED. -/
def valueStatus (a : Nat) (v : Word) : Status :=
  if !addrOk a then .badAddr
  else if !rangeOk a v || !rangeOk2 a v then .range
  else if oneBitRegs.contains a && decide (1 < cmdBits a v) then .refused
  else .ok

/-- The first of the statuses in the order of R49. -/
def worst (l : List Status) : Status :=
  ([Status.authFail, .denied, .badAddr, .badTable, .range, .refused, .busy].find? (fun x => l.contains x)).getD .ok

end Sys2Proof.Machine
end

