-- ==== Sys2Proof/Machine/Banks.lean ====
section
/-! DEFINITION. What the banked pages share: verification, switch, cancel and withdrawal as R92 to R94 state them for the
sequence bank and R137, R172, R393 and R512 take over, and table operations that an engine serves by its own transfers
(R140, R378). -/

namespace Sys2Proof.Machine

/-- The places of a banked page: its page, its STAT register (ACT_BANK 0, VERIFIED 1, VFY_BUSY 2, SWITCH_PEND 3, VFY_FAILED
4), its VFY_ERR register with CODE in 31..28, the events VFY_DONE, VFY_FAIL, SWITCH_DONE, SWITCH_ABANDONED, and the code
of CHANGED. -/
structure BankPg where
  page : Nat
  stat : Nat
  err : Nat
  evDone : Nat
  evFail : Nat
  evSwitch : Nat
  evAbandon : Nat
  changed : Nat
deriving DecidableEq, Repr

def BankPg.act (b : BankPg) : Fld := bitAt b.stat 0
def BankPg.ver (b : BankPg) : Fld := bitAt b.stat 1
def BankPg.busy (b : BankPg) : Fld := bitAt b.stat 2
def BankPg.pend (b : BankPg) : Fld := bitAt b.stat 3
def BankPg.failed (b : BankPg) : Fld := bitAt b.stat 4

/-- VERIFIED is cleared: a pending switch is withdrawn (R94). -/
def State.bankUnverify (s : State) (b : BankPg) : State :=
  let s1 := s.setB b.ver false
  if s.bit b.pend then (s1.setB b.pend false).raiseEv b.page b.evAbandon else s1

/-- VERIFY (R92): BUSY while one runs, REFUSED while a switch is pending. -/
def State.bankVerify (s : State) (b : BankPg) : State × Status :=
  if s.bit b.busy then (s, .busy)
  else if s.bit b.pend then (s, .refused)
  else ((s.setB b.ver false).setB b.busy true, .ok)

/-- A verification fails with an error word. -/
def State.bankFail (s : State) (b : BankPg) (w : Word) : State :=
  (((s.wr b.err w).setB b.busy false).setB b.failed true).raiseEv b.page b.evFail

/-- A verification succeeds. -/
def State.bankPass (s : State) (b : BankPg) : State :=
  ((((s.wr b.err 0).setB b.busy false).setB b.failed false).setB b.ver true).raiseEv b.page b.evDone

/-- SWITCH (R92): REFUSED unless VERIFIED. -/
def State.bankSwitch (s : State) (b : BankPg) : State × Status :=
  if s.bit b.ver then (s.setB b.pend true, .ok) else (s, .refused)

/-- CANCEL (R92). -/
def State.bankCancel (s : State) (b : BankPg) : State := s.setB b.pend false

/-- A write to the inactive bank took effect (R92). -/
def State.bankWritten (s : State) (b : BankPg) : State :=
  let s1 := s.bankUnverify b
  if s1.bit b.busy then s1.bankFail b (BitVec.ofNat 32 (b.changed * 2 ^ 28)) else s1

/-- The banks exchange roles: the copies of the tables `p` names, ACT_BANK, and VERIFIED of the bank left (R93). -/
def State.bankExchange (s : State) (b : BankPg) (p : Nat → Bool) : State :=
  (((s.bankSwap p).setF b.act (1 - s.fld b.act)).setB b.pend false).setB b.ver true

/-- A soft reset of the page withdraws a pending switch and clears VERIFIED (R137). -/
def State.bankSoftReset (s : State) (b : BankPg) : State := s.bankUnverify b

/-- The records of a table, in copy `c`, whose word 0 has bit 31 (DEFINED) set. -/
def State.defined (s : State) (tid c : Nat) : List Nat :=
  (s.tbl.filter (fun e => tkeyTid e.1 == tid && tkeyWord e.1 == 0 && wbit e.2 31 && tkeyIdx e.1 / 2 ^ 23 == c)).map
    (fun e => tkeyIdx e.1 % 2 ^ 23)

/-- Stores the words of a written record: the writable fields of each word (R46, R66). -/
def State.writeRecord (s : State) (t : TableInfo) (idx : Nat) (ws : List Word) : State :=
  (List.range ws.length).foldl (fun a w =>
    a.twr (tableHome t.tid) idx w (t.merge w (a.trd (tableHome t.tid) idx w) (ws.getD w 0))) s

/-! ## Operations that engine transfers serve (R140, R378) -/

/-- The words a table operation moves. -/
def HOp.words : HOp → Nat
  | .table _ _ ws _ => ws.length
  | .tread tid cnt _ => cnt * ((tableInfo tid).map (·.words)).getD 0
  | _ => 0

/-- The page whose engine serves an operation. -/
def HOp.xferPage : HOp → Nat
  | .table tid _ _ _ => tablePage tid
  | .tread tid _ _ => tablePage tid
  | _ => 0

/-- The operations of a page that one engine op completes: whole operations in order, up to `n` words. -/
def xferTake : Nat → List HReq → List HReq
  | _, [] => []
  | n, q :: l => if q.op.words ≤ n then q :: xferTake (n - q.op.words) l else []

/-- Serves the page's waiting table operations, up to `n` words: a read completes; a record written has been brought to the engine, and
takes effect, and completes, at the next tick (R47, R140). -/
def State.serveXfer (s : State) (page n : Nat) : State :=
  let mine := xferTake n (s.host.xferQ.filter (fun q => q.op.xferPage == page))
  mine.foldl (fun a q =>
    let a1 := a.hostMod (fun h => { h with xferQ := h.xferQ.erase q })
    match q.op with
    | .tread tid cnt idx =>
      match tableInfo tid with
      | some t => a1.respondTo q 5 .ok (a1.tableWords t idx cnt)
      | none => a1
    | .table tid idx ws _ => a1.hostMod (fun h => { h with queue := h.queue ++ [{ q with op := .table tid idx ws 1 }] })
    | _ => a1) s

end Sys2Proof.Machine
end

