-- ==== Sys2Proof/Machine/F32.lean ====
section
/-! DEFINITION. binary32 of IEEE 754 with round to nearest even, which R350 names for the loop engine and R373 for control
programs: decoding, packing, and the four operations, comparisons and conversions. -/

namespace Sys2Proof.Machine

/-- A decoded binary32: the finite value ± m × 2^e, an infinity, or a NaN. -/
inductive FVal where
  | fin (neg : Bool) (m : Nat) (e : Int)
  | inf (neg : Bool)
  | nan
deriving DecidableEq, Repr

/-- Decodes a word. -/
def f32Dec (w : Word) : FVal :=
  let ex := wbits w 23 8
  let fr := wbits w 0 23
  if ex = 255 then (if fr = 0 then .inf (wbit w 31) else .nan)
  else if ex = 0 then .fin (wbit w 31) fr (-149)
  else .fin (wbit w 31) (2 ^ 23 + fr) ((ex : Int) - 150)

/-- The NaN of an invalid operation: quiet, of a payload that IEEE 754 leaves open. -/
def f32NaN : Word := 0x7FC00000#32 ||| Config.nanPayload32.setWidth 32

/-- An infinity and a zero of a sign. -/
def f32Inf (neg : Bool) : Word := BitVec.ofNat 32 (b2n neg * 2 ^ 31 + 0x7F800000)
def f32Zero (neg : Bool) : Word := BitVec.ofNat 32 (b2n neg * 2 ^ 31)

/-- Rounds ± m × 2^e to binary32, to nearest with ties to even. -/
def f32Pack (neg : Bool) (m : Nat) (e : Int) : Word :=
  if m = 0 then f32Zero neg
  else
    let sh : Int := max ((Nat.log2 m : Int) - 23) (-149 - e)
    let q : Nat :=
      if sh ≤ 0 then m * 2 ^ (-sh).toNat
      else
        let d := 2 ^ sh.toNat
        let q0 := m / d
        let r := m % d
        if d < 2 * r ∨ (d = 2 * r ∧ q0 % 2 = 1) then q0 + 1 else q0
    let ex : Int := e + sh
    let q1 := if q = 2 ^ 24 then 2 ^ 23 else q
    let e1 := if q = 2 ^ 24 then ex + 1 else ex
    if q1 < 2 ^ 23 then BitVec.ofNat 32 (b2n neg * 2 ^ 31 + q1)
    else if 255 ≤ e1 + 150 then f32Inf neg
    else BitVec.ofNat 32 (b2n neg * 2 ^ 31 + (e1 + 150).toNat * 2 ^ 23 + (q1 - 2 ^ 23))

/-- A signed mantissa at an exponent. -/
def sMant (neg : Bool) (m : Nat) : Int := if neg then -(m : Int) else (m : Int)

/-- Rounds an exact x × 2^e; an exact zero takes the sign given. -/
def f32PackI (x : Int) (e : Int) (zneg : Bool) : Word :=
  if x = 0 then f32Zero zneg else f32Pack (decide (x < 0)) x.natAbs e

/-- Addition. -/
def f32Add (a b : Word) : Word :=
  match f32Dec a, f32Dec b with
  | .nan, _ => f32NaN
  | _, .nan => f32NaN
  | .inf x, .inf y => if x = y then f32Inf x else f32NaN
  | .inf x, _ => f32Inf x
  | _, .inf y => f32Inf y
  | .fin n1 m1 e1, .fin n2 m2 e2 =>
    let e := min e1 e2
    f32PackI (sMant n1 m1 * 2 ^ (e1 - e).toNat + sMant n2 m2 * 2 ^ (e2 - e).toNat) e (n1 && n2)

/-- Negation: the sign bit. -/
def f32Neg (a : Word) : Word := a ^^^ 0x80000000#32

/-- The absolute value. -/
def f32Abs (a : Word) : Word := a &&& 0x7FFFFFFF#32

/-- Subtraction. -/
def f32Sub (a b : Word) : Word := f32Add a (f32Neg b)

/-- Multiplication. -/
def f32Mul (a b : Word) : Word :=
  match f32Dec a, f32Dec b with
  | .nan, _ => f32NaN
  | _, .nan => f32NaN
  | .inf x, .inf y => f32Inf (x != y)
  | .inf x, .fin y m _ => if m = 0 then f32NaN else f32Inf (x != y)
  | .fin x m _, .inf y => if m = 0 then f32NaN else f32Inf (x != y)
  | .fin n1 m1 e1, .fin n2 m2 e2 => f32Pack (n1 != n2) (m1 * m2) (e1 + e2)

/-- Division: the quotient carries 60 further bits and a sticky bit, so that it rounds as the exact one. -/
def f32Div (a b : Word) : Word :=
  match f32Dec a, f32Dec b with
  | .nan, _ => f32NaN
  | _, .nan => f32NaN
  | .inf _, .inf _ => f32NaN
  | .inf x, .fin y _ _ => f32Inf (x != y)
  | .fin x _ _, .inf y => f32Zero (x != y)
  | .fin n1 m1 e1, .fin n2 m2 e2 =>
    if m2 = 0 then (if m1 = 0 then f32NaN else f32Inf (n1 != n2))
    else
      let n := m1 * 2 ^ 60
      f32Pack (n1 != n2) (2 * (n / m2) + (if n % m2 = 0 then 0 else 1)) (e1 - e2 - 61)

/-- The square root, correctly rounded: the root of the mantissa carries further bits and a sticky bit. -/
def f32Sqrt (a : Word) : Word :=
  match f32Dec a with
  | .nan => f32NaN
  | .inf neg => if neg then f32NaN else f32Inf false
  | .fin neg m e =>
    if m = 0 then a
    else if neg then f32NaN
    else
      let odd : Nat := (Int.emod e 2).toNat
      let n := m * 2 ^ (odd + 60)
      let r := Nat.sqrt n
      f32Pack false (2 * r + (if r * r = n then 0 else 1)) ((e - odd) / 2 - 31)

/-- The word is finite. -/
def f32Finite (a : Word) : Bool := wbits a 23 8 != 255

/-- a < b, false when either is a NaN. -/
def f32Lt (a b : Word) : Bool :=
  match f32Dec a, f32Dec b with
  | .nan, _ => false
  | _, .nan => false
  | .inf x, .inf y => x && !y
  | .inf x, _ => x
  | _, .inf y => !y
  | .fin n1 m1 e1, .fin n2 m2 e2 =>
    let e := min e1 e2
    decide (sMant n1 m1 * 2 ^ (e1 - e).toNat < sMant n2 m2 * 2 ^ (e2 - e).toNat)

/-- a ≤ b, false when either is a NaN. -/
def f32Le (a b : Word) : Bool := f32Lt a b || (f32Dec a != .nan && f32Dec b != .nan && !f32Lt b a)

/-- The greater and the lesser of two numbers. -/
def f32Max (a b : Word) : Word := if f32Lt a b then b else a
def f32Min (a b : Word) : Word := if f32Lt b a then b else a

/-- An integer as binary32. -/
def f32OfInt (x : Int) : Word := f32PackI x 0 false

/-- num / den as binary32. -/
def f32OfRat (num : Int) (den : Nat) : Word := f32Div (f32OfInt num) (f32OfInt den)

/-- The exact value of a finite number as x × 2^e. -/
def f32Exact (a : Word) : Option (Int × Int) :=
  match f32Dec a with
  | .fin n m e => some (sMant n m, e)
  | _ => none

/-- The integer at or below a finite number, and whether it is equal to it. -/
def f32Floor (a : Word) : Option (Int × Bool) :=
  match f32Exact a with
  | none => none
  | some (m, e) =>
    if 0 ≤ e then some (m * 2 ^ e.toNat, true)
    else some (Int.fdiv m (2 ^ (-e).toNat), decide (Int.fmod m (2 ^ (-e).toNat) = 0))

/-- A finite number rounded to the nearest integer, ties to even. -/
def f32Round (a : Word) : Option Int :=
  match f32Exact a with
  | none => none
  | some (m, e) =>
    if 0 ≤ e then some (m * 2 ^ e.toNat)
    else
      let d : Int := 2 ^ (-e).toNat
      let q := Int.fdiv m d
      let r := Int.fmod m d
      some (if d < 2 * r ∨ (d = 2 * r ∧ q % 2 = 1) then q + 1 else q)

end Sys2Proof.Machine
end

