-- ==== Sys2Proof/Machine/Num.lean ====
section
/-! DEFINITION. Numbers of the engines whose arithmetic the spec leaves open (the network model, the optimiser, metering
formulas): sums, products and comparisons over the free operations of Config. -/

namespace Sys2Proof.Machine

open Sys2Proof

/-- A number in an engine's own format. -/
abbrev Num := Int

abbrev nadd : Num → Num → Num := Config.numAdd
abbrev nsub : Num → Num → Num := Config.numSub
abbrev nmul : Num → Num → Num := Config.numMul
abbrev ndiv : Num → Num → Num := Config.numDiv
abbrev nint : Int → Num := Config.numInt
abbrev nf32 : Word → Num := Config.numF32
abbrev nle : Num → Num → Bool := Config.numLe

/-- 0 and 1. -/
def n0 : Num := nint 0
def n1 : Num := nint 1

/-- A decimal or other fraction p / q. -/
def nrat (p : Int) (q : Nat) : Num := ndiv (nint p) (nint q)

/-- Strict comparison, maximum, minimum, clamp, magnitude, negation. -/
def nlt (a b : Num) : Bool := !nle b a
def nmax (a b : Num) : Num := if nle a b then b else a
def nmin (a b : Num) : Num := if nle a b then a else b
def nclamp (lo hi x : Num) : Num := nmax lo (nmin hi x)
def nneg (a : Num) : Num := nsub n0 a
def nabs (a : Num) : Num := if nle n0 a then a else nneg a

/-- Sums and the largest magnitude. -/
def nsum (l : List Num) : Num := l.foldl nadd n0
def nmaxAbs (l : List Num) : Num := l.foldl (fun m x => nmax m (nabs x)) n0

/-- A number kept under a key. -/
abbrev NumMap := List (Nat × Num)

def nmGet (m : NumMap) (k : Nat) (d : Num) : Num := (m.lookup k).getD d
def nmPut (m : NumMap) (k : Nat) (v : Num) : NumMap := (k, v) :: m.filter (fun e => e.1 != k)

end Sys2Proof.Machine
end

