-- ==== Sys2Proof/Machine/Operands.lean ====
section
/-! DEFINITION. How inputs are named and converted: value references (R128, R544) and the integer formats of R10 in the
arithmetic of an engine. -/

namespace Sys2Proof.Machine

/-- The item a value reference names: mailbox in bits 31..20, item in bits 19..0; 0xFFFFFFFF names none, and so does an
item at or beyond the mailbox's size (R128). -/
def State.vref (s : State) (w : Word) : Option Item :=
  if w = 0xFFFFFFFF#32 then none
  else
    match s.mbxOf (wbits w 20 12) with
    | none => none
    | some m => if wbits w 0 20 < m.words then some (s.mbxItem m.num (wbits w 0 20)) else none

/-- The item, where it is usable (R129). -/
def State.vrefUsable (s : State) (w : Word) : Option Word :=
  match s.vref w with
  | some it => if usableSt it.st then some it.w else none
  | none => none

/-- The mailbox that the running configuration image gives a part, which the image layout of R509 does not show: 0 model
values, 1 node estimates, 2 arrival delays (R150), 3 substation image (R222), 4 dispatch setpoints, 5 plan slice (R37),
6 link status (R386). -/
def State.roleMbx (s : State) (r : Nat) : Nat := Config.mbxRole r (s.rd 0x1054)

/-- The first item of the k-th element of a part's mailbox. -/
def State.roleItem (s : State) (r k : Nat) : Nat := Config.mbxItem r k (s.rd 0x1054)

/-- Reads item `i` of the k-th element of a part's mailbox. -/
def State.roleGet (s : State) (r k i : Nat) : Item := s.mbxItem (s.roleMbx r) (s.roleItem r k + i)

/-! ## Launch times (LT64) -/

/-- How far the launch time `sec`, `ns` lies after the instant `off` ns into the frame: the low 32 bits of seconds compared by
signed difference. -/
def State.ltAhead (s : State) (sec ns off : Nat) : Int :=
  signed 32 ((sec + 2 ^ 32 - s.nowSec % 2 ^ 32) % 2 ^ 32) * 1000000000 + ns - s.nowNs - off

/-- The instant `off` ns into the frame as LT64. -/
def State.instant (s : State) (off : Nat) : Nat × Nat :=
  ((s.nowSec + (s.nowNs + off) / 1000000000) % 2 ^ 32, (s.nowNs + off) % 1000000000)

/-- A launch time `d` ns after another. -/
def ltAdd (t : Nat × Nat) (d : Nat) : Nat × Nat :=
  ((t.1 + (t.2 + d) / 1000000000) % 2 ^ 32, (t.2 + d) % 1000000000)

/-- `b` minus `a`, in ns. -/
def ltDiff (a b : Nat × Nat) : Int :=
  signed 32 ((b.1 + 2 ^ 32 - a.1 % 2 ^ 32) % 2 ^ 32) * 1000000000 + b.2 - a.2

/-! ## Bytes -/

/-- Bytes as a number, most significant first. -/
def be (l : List Byte) : Nat := l.foldl (fun n b => n * 256 + b.toNat) 0

/-- A number as `n` bytes, most significant first. -/
def beBytes : Nat → Nat → List Byte
  | 0, _ => []
  | n + 1, v => BitVec.ofNat 8 (v / 256 ^ n) :: beBytes n v

/-- The bytes `i` to `i + n − 1` of a value as a number, most significant first. -/
def beAt (l : List Byte) (i n : Nat) : Nat := be ((l.drop i).take n)

/-- The same, as a word; a field of fewer than four bytes is sign-extended where `sg`. -/
def beWord (l : List Byte) (i n : Nat) (sg : Bool) : Word :=
  if sg then ofInt (signed (8 * n) (beAt l i n)) else BitVec.ofNat 32 (beAt l i n)

/-! ## Keys -/

/-- The STATE of a key slot (R489): 0 EMPTY, 1 STAGED, 2 VERIFIED, 3 ACTIVE, 4 REVOKED, 5 REVOKED_BY_PARENT. -/
def State.slotState (s : State) (i : Nat) : Nat := s.tfld 0x0900 i 0 29 3

/-- The slot's secret key can be used: it is ACTIVE, and the key store has not been zeroised (R489, R502, R504). -/
def State.keyUsable (s : State) (i : Nat) : Bool := s.slotState i == 3 && !s.bit (bitAt 0x904C 31)

/-- Slot 3, the image verification key, is ACTIVE: a public key, which a zeroised store still uses (R485, R504). -/
def State.keySlot3 (s : State) : Bool := s.slotState 3 == 3

/-- A verification uses the key that was ACTIVE when it started (R500): whether there was one, for the configuration image (0) and the program
images of CPE0 (1) and CPE1 (2). -/
def State.keyTaken (s : State) (n : Nat) : State :=
  let others := s.keys.imgKey.filter (· != n)
  { s with keys := { s.keys with imgKey := if s.keySlot3 then n :: others else others } }
def State.keyAt (s : State) (n : Nat) : Bool := s.keys.imgKey.contains n

/-! ## The part of the module -/

/-- The module leads its pair, or runs alone: ACTIVE, TAMPERED, or in start-up (R451, R504, R516). -/
def State.leads (s : State) : Bool := s.mstate == 4 || s.mstate == 2 || s.mstate == 0

/-- GSP is open (R516 step 10): the module is ACTIVE, or in start-up from step 10, or executes the active module's records as
standby (R459). -/
def State.gspOpen (s : State) : Bool :=
  s.mstate == 4 || s.mstate == 3 || (s.mstate == 0 && decide (10 ≤ s.bootStep))

/-- What the module sends leaves it: a standby module builds its messages and sends nothing (R202, R449). -/
def State.sends (s : State) : Bool := s.mstate != 3

end Sys2Proof.Machine
end

