-- ==== Sys2Proof/Machine/Dio.lean ====
section
/-! DEFINITION. Digital inputs, solid-state, analogue and PWM outputs, trip output pairs and the reflex channels that hold
them (R290, R307 to R314), and the entry into FAULT (R522). -/

namespace Sys2Proof.Machine

/-- `s` with the digital inputs and outputs changed. -/
def State.dioMod (s : State) (f : DioSt → DioSt) : State := { s with dio := f s.dio }

/-- The instant `off` ns into the frame in ns of elapsed frames. -/
def State.elapsed (s : State) (off : Nat) : Nat := s.fno * 1000000 + off

/-! ## Privileged channel descriptors (R280) -/

/-- Bits of a channel's descriptor in force. -/
def State.chFld (s : State) (ch w lo n : Nat) : Nat := s.tfld 0x2600 ch w lo n
def State.chDef (s : State) (ch : Nat) : Bool := s.chFld ch 0 31 1 == 1
def State.chClass (s : State) (ch : Nat) : Nat := s.chFld ch 0 29 2

/-- An output is the TARGET of a defined class 1 channel (R309). -/
def State.doOwned (s : State) (o : Nat) : Bool :=
  (List.range 32).any (fun ch => s.chDef ch && s.chClass ch == 1 && decide (s.chFld ch 2 16 2 < 2) && s.chFld ch 2 13 3 == o)

/-! ## What outputs do in each module state (R309, R310, R314) -/

/-- The module state drives solid-state, analogue and PWM outputs. -/
def State.driven (s : State) : Bool := s.mstate == 4 || s.mstate == 2

/-- CMD, OC and SRC of a solid-state output. -/
def doCmd (o : Nat) : Fld := bitAt 0x1C050 o
def doOc (o : Nat) : Fld := bitAt 0x1C050 (16 + o)
def doSrc (o : Nat) : Fld := bitAt 0x1C05C o

/-- The state that output `o` is meant to have (R309). -/
def State.doOn (s : State) (o : Nat) : Bool :=
  if s.pwr.done then false
  else if s.mstate = 6 then
    let safe := s.fld ⟨0x1C05C, 8 + 2 * o, 2⟩
    s.bit (bitAt 0x1C040 1) && (if safe = 1 then true else if safe = 2 then s.dio.hold / 2 ^ o % 2 == 1 else false)
  else s.driven && s.bit (doCmd o) && s.bit (bitAt 0x1C040 1) && !s.bit (doOc o)

/-- Trip pair `t` is held by a reflex channel or a TRIP launch (R290). -/
def State.tripHeld (s : State) (t : Nat) : Bool := s.dio.trips.any (fun e => e.2 / 2 ^ t % 2 == 1)

/-- Trip pair `t` is energised (R310, R314, R292); in DEFAULTED FAULT_HOLD is 0 (R515). -/
def State.tripOn (s : State) (t : Nat) : Bool :=
  let m := s.mstate
  let ok := s.bit (bitAt 0x1C060 t) && !s.tripHeld t
  if s.pwr.done then false
  else if m = 4 ∨ m = 2 ∨ m = 3 then ok
  else if m = 1 ∨ (m = 0 ∧ s.bootStep < 7) then false
  else ok && s.bit (bitAt (0x26094 + 4 * t) 0)

/-- The mask of the outputs `f` names among `n`. -/
def maskOf (n : Nat) (f : Nat → Bool) : Nat := (List.range n).foldl (fun v i => v + b2n (f i) * 2 ^ i) 0

/-- Enables of the analogue and PWM outputs; SAFE of each. -/
def aoutEn (a : Nat) : Fld := bitAt 0x1D040 a
def pwmEn (k : Nat) : Fld := bitAt 0x1D040 (4 + k)
def aoutCfg (a lo w : Nat) : Fld := ⟨0x1D048 + 4 * a, lo, w⟩
def pwmCfg (k lo w : Nat) : Fld := ⟨0x1D078 + 4 * k, lo, w⟩

/-- An analogue or PWM output with this SAFE code drives its line; none does while loads are shed (R532). -/
def State.lineDriven (s : State) (en : Fld) (safe : Nat) : Bool :=
  s.bit en && !s.bit (bitAt 0x2040 2) && (if s.mstate = 6 then safe == 1 || (safe == 2 && s.dio.wasDriven) else s.driven)

/-- The passive bits of AOUT_STAT. -/
def State.aoutStat (s : State) : State :=
  (s.setF ⟨0x1D044, 12, 4⟩ (maskOf 4 (fun a => !s.lineDriven (aoutEn a) (s.fld (aoutCfg a 30 2))))).setF ⟨0x1D044, 20, 4⟩
    (maskOf 4 (fun k => !s.lineDriven (pwmEn k) (s.fld (pwmCfg k 30 2))))

/-- A new period of PWM output `k` begins. -/
def State.pwmStart (s : State) (k per at_ : Nat) : State :=
  s.dioMod (fun d => { d with pwm := setAt d.pwm k (per, at_) })

/-- The outputs take their SAFE action (R314): FIXED takes the safe current, and the safe duty at the pending period. -/
def State.outputsSafe (s : State) : State :=
  let s1 := [0, 1, 2, 3].foldl (fun a i =>
    if a.fld (aoutCfg i 30 2) = 1 then a.setF ⟨0x1D068 + 4 * i, 0, 15⟩ (a.fld (aoutCfg i 0 15)) else a) s
  let s2 := [0, 1, 2, 3].foldl (fun a k =>
    if a.fld (pwmCfg k 30 2) = 1 then
      (a.setF ⟨0x1D0A8 + 4 * k, 0, 14⟩ (a.fld ⟨0x1D098 + 4 * k, 16, 14⟩)).pwmStart k (a.fld ⟨0x1D088 + 4 * k, 0, 27⟩) (a.elapsed 0)
    else a) s1
  s2.aoutStat

/-- The module enters FAULT with a cause and an engine (R522, R524); its outputs take their SAFE action (R314). A module already
in FAULT stays as it is. -/
def State.enterFault (s : State) (cause eng : Nat) : State :=
  if s.mstate = 6 then s
  else
    let s1 := (s.setF ⟨0x005C, 0, 8⟩ cause).setF ⟨0x005C, 8, 4⟩ eng
    let s2 := s1.bump .DEV_FAULT
    let s3 := { s2 with dev := { s2.dev with faults := s2.fno :: s2.dev.faults, faultAt := s2.fno } }
    let s4 := s3.dioMod (fun d => { d with hold := maskOf 8 s.doOn, wasDriven := s.driven })
    (s4.setMstate 6).outputsSafe

/-- A refused access of Skovkan firmware puts the module into FAULT (R24). -/
def State.fwViol (s : State) (eng : Nat) (addr : Word) : State := (s.xbarViol eng addr).enterFault 2 eng

/-! ## What the engines' firmware writes into mailboxes (R29, R33) -/

/-- An engine's firmware writes items of a mailbox; one whose writer is another engine refuses them (R33). -/
def State.fwPuts (s : State) (eng n i : Nat) (its : List Item) : State :=
  if s.mbxForeign n eng then s.fwViol eng (Config.mbxAddr n i) else s.mbxPuts n i its

/-- The same, where a write after the close belongs to the next publication (R259, R302). -/
def State.fwPutsNext (s : State) (eng n i : Nat) (its : List Item) : State :=
  if s.mbxForeign n eng then s.fwViol eng (Config.mbxAddr n i) else s.mbxPutsNext n i its

/-- The engine that writes a part's mailbox: E1 for 0, 1 and 2, E10 for 3, 4 and 6. -/
def roleEng (r : Nat) : Nat := if r < 3 then 1 else 10

/-- Writes items of the k-th element of a part's mailbox. -/
def State.rolePuts (s : State) (r k : Nat) (its : List Item) : State := s.fwPuts (roleEng r) (s.roleMbx r) (s.roleItem r k) its

/-- The module goes to another state in which its outputs follow that state. -/
def State.goto (s : State) (m : Nat) : State := (s.setMstate m).aoutStat

/-! ## Reflex channels (R290) -/

/-- ARMED and TRIPPED of a channel. -/
def privArmed (ch : Nat) : Fld := bitAt 0x26050 ch
def privTripped (ch : Nat) : Fld := bitAt 0x26054 ch

/-- Privileged work is enabled: PRIV_CTRL.EN, and the module not in FAULT (R19). -/
def State.privOn (s : State) : Bool := s.bit (bitAt 0x26040 0) && s.mstate != 6

/-- A channel holds trip pairs: its latch is set, the pairs de-energise. -/
def State.tripLatch (s : State) (ch mask : Nat) : State :=
  (s.setB (privTripped ch) true).dioMod (fun d => { d with trips := (ch, mask) :: d.trips.filter (fun e => e.1 != ch) })

/-- TRIPPED (R290): an armed reflex channel is triggered. A latched one stays as it is. -/
def State.reflexTrip (s : State) (ch : Nat) : State :=
  if s.bit (privTripped ch) then s
  else ((s.tripLatch ch (s.chFld ch 3 0 4)).bump .PRIV_TRIP).raiseEv 0x26 1

/-- The armed reflex channels with a source of this kind. -/
def State.armedOn (s : State) (p : Nat → Bool) : List Nat :=
  if !s.privOn then []
  else (List.range 32).filter (fun ch => s.bit (privArmed ch) && s.chDef ch && s.chClass ch == 0 && p ch)

/-- Level of fast input `i`. -/
def State.fastLvl (s : State) (i : Nat) : Bool := s.dio.fast / 2 ^ i % 2 == 1

/-- The fast input of a channel stands at the level that its EDGE makes active; of an either-edge channel at a level other than
the one at its arming. -/
def State.reflexActive (s : State) (ch : Nat) : Bool :=
  if s.chFld ch 2 30 2 = 0 then
    let l := s.fastLvl (s.chFld ch 2 25 3)
    let e := s.chFld ch 2 28 2
    if e = 0 then l else if e = 1 then !l else ((s.dio.armLvl.lookup ch).getD l) != l
  else ((s.dio.adcRun.lookup ch).getD 0) != 0

/-- PRIV_CMD.ARM: refused for a channel not of class 0, or whose input is already active. -/
def privArmCmd (s : State) : State × Status :=
  let ch := s.fld ⟨0x26048, 0, 5⟩
  let fast := s.chFld ch 2 30 2 == 0
  let either := decide (2 ≤ s.chFld ch 2 28 2)
  if !s.chDef ch || s.chClass ch != 0 || (fast && !either && s.reflexActive ch) then (s, .refused)
  else
    ((s.setB (privArmed ch) true).dioMod (fun d =>
      { d with armLvl := (ch, s.fastLvl (s.chFld ch 2 25 3)) :: d.armLvl.filter (fun e => e.1 != ch),
               adcRun := d.adcRun.filter (fun e => e.1 != ch) }), .ok)
def execPrivArm (s : State) : Out := .next (privArmCmd s).1

/-- PRIV_CMD.DISARM: the latch stays. -/
def privDisarmCmd (s : State) : State := s.setB (privArmed (s.fld ⟨0x26048, 0, 5⟩)) false
def execPrivDisarm (s : State) : Out := .next (privDisarmCmd s)

/-- PRIV_CMD.RESET_TRIP: refused while the channel's input is active; a class 1 channel has none. -/
def resetTripCmd (s : State) : State × Status :=
  let ch := s.fld ⟨0x26048, 0, 5⟩
  if s.chDef ch && s.chClass ch == 0 && s.reflexActive ch then (s, .refused)
  else ((s.setB (privTripped ch) false).dioMod (fun d => { d with trips := d.trips.filter (fun e => e.1 != ch) }), .ok)
def execResetTrip (s : State) : Out := .next (resetTripCmd s).1

/-! ## Inputs (R307, R308) -/

/-- A bit of a mask of levels. -/
def putBit (m i : Nat) (v : Bool) : Nat := m - m / 2 ^ i % 2 * 2 ^ i + b2n v * 2 ^ i

/-- DI_EDGE (R307): a filtered edge; while EN is 1 an edge that DIO_DI_EDGE names advances the pulse counter and signals DI_i. -/
def execDiEdge (i : Nat) (rising : Bool) (s : State) : Out :=
  .next <|
    if 16 ≤ i then s
    else
      let s1 := s.dioMod (fun d => { d with di := putBit d.di i rising })
      let e := s1.fld ⟨0x1C04C, 2 * i, 2⟩
      if s1.bit (bitAt 0x1C040 0) && (e == 2 || e == (if rising then 0 else 1)) then
        (s1.bump (.DIO_PCNT i)).signal (0x010 + i)
      else s1

/-- FAST_INPUT_EDGE (R308, R398, R290): an edge that passes the filter signals PRIV_IN_i and triggers the channels armed on it. -/
def execFastInputEdge (i : Nat) (rising : Bool) (s : State) : Out :=
  .next <|
    if 8 ≤ i then s
    else
      let s1 := (s.dioMod (fun d => { d with fast := putBit d.fast i rising })).signal (0x008 + i)
      (s1.armedOn (fun ch => s1.chFld ch 2 30 2 == 0 && s1.chFld ch 2 25 3 == i
        && (let e := s1.chFld ch 2 28 2
            if e = 0 then rising else if e = 1 then !rising else true))).foldl (fun a ch => a.reflexTrip ch) s1

/-! ## Solid-state outputs (R309) -/

/-- The CMD bits that host writes may change: SRC 0 and no class 1 channel. -/
def State.doHost (s : State) (o : Nat) : Bool := !s.bit (doSrc o) && !s.doOwned o

/-- DIO_DO_SET and DIO_DO_CLR. -/
def dioDoWrite (on : Bool) (v : Word) (s : State) : State :=
  ((List.range 8).filter (fun o => wbit v o && s.doHost o)).foldl (fun a o => a.setB (doCmd o) on) s
def execDioDoSet (v : Word) (s : State) : Out := .next (dioDoWrite true v s)
def execDioDoClr (v : Word) (s : State) : Out := .next (dioDoWrite false v s)

/-- DIO_OC_CLR. -/
def dioOcClr (v : Word) (s : State) : State :=
  ((List.range 8).filter (fun o => wbit v o)).foldl (fun a o => a.setB (doOc o) false) s
def execDioOcClr (v : Word) (s : State) : Out := .next (dioOcClr v s)

/-- OVERCURRENT (R309): only an output that is on. -/
def execOvercurrent (o : Nat) (s : State) : Out :=
  .next (if decide (o < 8) && s.doOn o then ((s.setB (doOc o) true).bump .DIO_OC).raiseEv 0x1C 0 else s)

/-- READBACK (R309): a read-back has differed for more than 1 ms. -/
def execReadback (o : Nat) (s : State) : Out :=
  .next (if o < 8 then (s.bump .DIO_RB).raiseEv 0x1C 1 else s)

/-- SRC 1 outputs take their items at the tick; an unusable item leaves the output unchanged. -/
def State.doItems (s : State) : State :=
  (List.range 8).foldl (fun a o =>
    if a.bit (doSrc o) && !a.doOwned o then
      match a.vrefUsable (a.trd 0x1C00 o 0) with
      | some w => a.setB (doCmd o) (w != 0)
      | none => a
    else a) s

/-- Launch actions DO_ON and DO_OFF (R121). -/
def State.doLaunch (s : State) (o : Nat) (on : Bool) : State := s.setB (doCmd o) on

/-- The read-backs of DIO_DO_STATE, and TRIP_ACT of PRIV_STAT. -/
def State.doReadback (s : State) : State :=
  let x := fun (v d n : Nat) => (v ^^^ d) % 2 ^ n
  let s1 := s.setF ⟨0x1C050, 8, 8⟩ (x (maskOf 8 s.doOn) s.dio.rbDiff 8)
  let s2 := s1.setF ⟨0x1C050, 24, 4⟩ (x (maskOf 4 s.tripOn) (s.dio.rbDiff / 256) 4)
  s2.setF ⟨0x2604C, 4, 4⟩ (maskOf 4 (fun t => !s.tripOn t))

/-- The soft reset of the DIO page beside R55 (R316). -/
def State.dioSoftReset (s : State) : State :=
  let s1 := (List.range 8).foldl (fun a o => if s.doHost o then a.setB (doCmd o) false else a) s
  (dioOcClr 0xFF s1).doItems

/-! ## Analogue and PWM outputs (R311, R312) -/

/-- `mul × w + add` of a binary32 value, held at `lo` to `hi`; an inexact value goes up or down as the spec leaves it. None for
NaN. The truth value says whether it was clamped. -/
def scaleF32 (w : Word) (mul add lo hi : Int) (up : Bool) : Option (Int × Bool) :=
  match f32Dec w with
  | .nan => none
  | _ =>
    match f32Exact w with
    | none => some (if wbit w 31 then lo else hi, true)
    | some (m, e) =>
      let num := mul * m * 2 ^ e.toNat
      let den : Int := 2 ^ (-e).toNat
      let x := add * den + num
      if x < lo * den then some (lo, true)
      else if hi * den < x then some (hi, true)
      else some (Int.fdiv x den + (if Int.fmod x den = 0 ∨ !up then 0 else 1), false)

/-- A value from the output's item: none when the item is not usable or holds NaN. -/
def State.outItem (s : State) (r : Nat) (mul add lo hi : Int) : Option (Int × Bool) :=
  match s.vrefUsable (s.trd 0x1D00 r 0) with
  | none => none
  | some w => scaleF32 w mul add lo hi (Config.roundUp s.free)

/-- The pending value of analogue output `a` applies. -/
def State.aoutApply (s : State) (a : Nat) : State := s.setF ⟨0x1D068 + 4 * a, 0, 15⟩ (s.fld ⟨0x1D058 + 4 * a, 0, 15⟩)

/-- The pending values of PWM output `k` apply at an instant: a new period begins. -/
def State.pwmApply (s : State) (k off : Nat) : State :=
  (s.setF ⟨0x1D0A8 + 4 * k, 0, 14⟩ (s.fld ⟨0x1D098 + 4 * k, 0, 14⟩)).pwmStart k (s.fld ⟨0x1D088 + 4 * k, 0, 27⟩) (s.elapsed off)

/-- An analogue output at the tick. -/
def State.aoutTick (s : State) (a : Nat) : State :=
  let bad := bitAt 0x1D044 (8 + a)
  let cl := bitAt 0x1D044 (4 + a)
  let s1 :=
    if s.bit (aoutCfg a 29 1) then
      let s0 := s.useFree
      match s.outItem a 160 4000 0 24000 with
      | none => s0.setB bad true
      | some (v, c) =>
        let b := (((s0.setF ⟨0x1D058 + 4 * a, 0, 15⟩ v.toNat).setB bad false).setB cl c)
        if c && !s.bit cl then b.raiseEv 0x1D 1 else b
    else (s.setB bad false).setB cl false
  if s1.bit (aoutCfg a 28 1) || s1.mstate == 6 then s1 else s1.aoutApply a

/-- A PWM output at the tick: its values apply where they differ from those in force. -/
def State.pwmTick (s : State) (k : Nat) : State :=
  let bad := bitAt 0x1D044 (16 + k)
  let s1 :=
    if s.bit (pwmCfg k 29 1) then
      let s0 := s.useFree
      match s.outItem (4 + k) 100 0 0 10000 with
      | none => s0.setB bad true
      | some (v, _) => (s0.setF ⟨0x1D098 + 4 * k, 0, 14⟩ v.toNat).setB bad false
    else s.setB bad false
  let same := s1.fld ⟨0x1D0A8 + 4 * k, 0, 14⟩ == s1.fld ⟨0x1D098 + 4 * k, 0, 14⟩
    && (s1.dio.pwm.getD k (0, 0)).1 == s1.fld ⟨0x1D088 + 4 * k, 0, 27⟩
  if s1.bit (pwmCfg k 28 1) || s1.mstate == 6 || same then s1 else s1.pwmApply k 0

/-- OPEN (R311): the loop current has been below 90 % of the applied value for 10 ms. -/
def execOpenLoop (a : Nat) (s : State) : Out :=
  .next (if decide (a < 4) && s.lineDriven (aoutEn a) (s.fld (aoutCfg a 30 2)) then
      ((s.setB (bitAt 0x1D044 a) true).bump .AOUT_OPEN).raiseEv 0x1D 0
    else s)

/-- OPEN_CLEARED (R311). -/
def execOpenCleared (a : Nat) (s : State) : Out := .next (if a < 4 then s.setB (bitAt 0x1D044 a) false else s)

/-- Every local input and output at a tick (R307, R309, R311, R312): items are read from the front buffers of the tick. -/
def State.dioTick (s : State) (aoutUa : List Nat) (rbDiff : Nat) : State :=
  let en := s.bit (bitAt 0x1C040 0)
  let s1 := s.setF ⟨0x1C044, 16, 8⟩ s.dio.fast
  let s2 := if en then s1.setF ⟨0x1C044, 0, 16⟩ s1.dio.di else s1
  let s3 := (s2.doItems).dioMod (fun d => { d with rbDiff := rbDiff })
  let s4 := [0, 1, 2, 3].foldl (fun a i => (a.aoutTick i).pwmTick i) s3
  let s5 := [0, 1, 2, 3].foldl (fun a i => a.setF ⟨0x1D068 + 4 * i, 16, 16⟩ (aoutUa.getD i 0)) s4
  let s6 := s5.doReadback.aoutStat
  let q := if en then GOOD else INITQ
  s6.fwPuts 7 (s6.fld ⟨0x1C0B8, 0, 12⟩) 0 (((s6.rd 0x1C044) :: ((List.range 16).map (fun i => s6.rd (0x1C068 + 4 * i))
    ++ [BitVec.ofNat 32 (s6.fld ⟨0x1C050, 8, 8⟩)])).map (fun w => (⟨w, q⟩ : Item)))

end Sys2Proof.Machine
end

