-- ==== Sys2Proof/Machine/Seq.lean ====
section
/-! DEFINITION. The frame sequencer: entries, indexed arguments, the verification of a sequence bank and its switch
(R76 to R98), the mailbox close (R29) and engine losses (R41). -/

namespace Sys2Proof.Machine

/-! ## Entries and indexed arguments -/

/-- `s` with the sequencer changed. -/
def State.seqMod (s : State) (f : SeqSt → SeqSt) : State := { s with seq := f s.seq }

/-- The record index of copy `c` (0 active, 1 inactive) of a banked table (R86). -/
def copyIdx (c idx : Nat) : Nat := c * 2 ^ 23 + idx

/-- The entry at a record of a frame table of copy `c`. -/
def State.entryAt (s : State) (c t i : Nat) : Entry :=
  entryOf (s.trd (0x0600 + t) (copyIdx c i) 0) (s.trd (0x0600 + t) (copyIdx c i) 1)

/-- L and K of a slot map (R82, R87). -/
def State.smapL (s : State) (c m : Nat) : Nat := s.tfld 0x0611 (copyIdx c m) 0 0 10
def State.smapK (s : State) (c m : Nat) : Nat := s.tfld 0x0611 (copyIdx c m) 0 16 7

/-- The slot value at a position of a slot map. -/
def State.slotVal (s : State) (c m i : Nat) : Nat := s.tfld (0x0609 + m) (copyIdx c i) 0 0 16

/-- The number an entry's index field selects: the field itself, or the slot value of the running frame where the argument
is indexed (R83); none for an empty slot (R84). -/
def State.entryIdx (s : State) (arg lo w : Nat) : Option Nat :=
  if arg / 2 ^ 27 % 2 = 1 then
    let m := arg / 2 ^ 24 % 8
    let v := s.slotVal 0 m ((s.frame % s.smapL 0 m) * s.smapK 0 m + arg / 2 ^ 16 % 256)
    if v = 0xFFFF then none else some v
  else some (arg / 2 ^ lo % 2 ^ w)

/-- An engine acknowledged an entry: its run of missed acknowledgements ends (R41). -/
def State.ackBy (s : State) (unit : Nat) : State := s.seqMod (fun q => { q with missed := setAt q.missed unit 0 })

/-- Loads are shed, or the power-fail sequence has ended and everything is off (R532). -/
def State.shed (s : State) : Bool := s.bit (bitAt 0x2040 2)

/-- A standby module without a record to execute runs no entry (R459, R461). -/
def State.waits (s : State) : Bool := s.mstate == 3 && s.twin.run.isNone

/-- The frame table that runs (R72, R74, R85): the one that the plan names for the frame, or for extension frames; on a standby module for
the frame of its record (R459). -/
def State.runTable (s : State) : Nat := s.tfld 0x0608 (if s.inExt then 1000 else s.frame) 0 0 3

/-- The entry that the sequencer issues next (R72, R77): the next record of the table that runs; none before the first frame, after the
table's END or its last record, or while a standby module waits for a record. -/
def State.nextEntry (s : State) : Option Entry :=
  if s.seq.started && !s.seq.ended && !s.waits && decide (s.seq.pos < 4096) then some (s.entryAt 0 s.runTable s.seq.pos) else none

/-- The entry that is issued next has this opcode and UNIT, and satisfies `p`. -/
def State.issues (s : State) (op unit : Nat) (p : Entry → Bool) : Bool :=
  match s.nextEntry with
  | none => false
  | some e => e.op == op && e.unit == unit && p e

/-- The instant at which an entry is begun agrees with its OFFSET (R77, R97): a fixed-function unit acts within 4 ns of it; an engine
begins within 100 ns, or within 100 ns after the stop acknowledgement of an entry before it that overran, at most 1 µs later. -/
def Entry.begunAt (ns : Nat) (e : Entry) : Bool :=
  if unitEngine e.unit then decide (e.offset ≤ ns ∧ ns ≤ e.offset + 1100) else decide (e.offset ≤ ns + 4 ∧ ns ≤ e.offset + 4)

/-- The sequencer goes on to the next record. -/
def State.passEntry (s : State) : State := s.seqMod (fun q => { q with pos := q.pos + 1 })

/-- The OFFSET of the entry issued last. -/
def State.issueNs (s : State) : Nat := (s.entryAt 0 s.runTable (s.seq.pos - 1)).offset

/-- The unit does not run: E1, E6, E8, E9, E10 and E11 while loads are shed, every unit once E7 has stopped (R532), or while a
standby module waits for a record. -/
def State.unitOff (s : State) (unit : Nat) : Bool :=
  s.waits || s.pwr.done || (s.shed && [0x01, 0x06, 0x08, 0x09, 0x0A, 0x0B].contains unit)

/-- An entry issued to a unit (R15, R72, R77): it runs only where the running table holds it next; an entry of a unit that is off acts as
an empty one (R532); otherwise `f`, acknowledged. -/
def State.entry (s : State) (op unit : Nat) (p : Entry → Bool) (f : State → State) : State :=
  if !s.issues op unit p then s
  else if s.unitOff unit then s.passEntry.ackBy unit
  else f (s.passEntry.ackBy unit)

/-- The argument of the entry is `arg`. -/
def Entry.has (arg : Nat) (e : Entry) : Bool := e.arg == arg

/-- NOP (R80): no effect, acknowledged. -/
def execNop (unit : Nat) (s : State) : Out := .next (s.entry 0x00 unit (fun _ => true) (fun s => s))

/-- END (R77): the table ends for the frame. -/
def execEndEntry (s : State) : Out :=
  .next (s.entry 0x01 0x00 (fun _ => true) (fun s => s.seqMod (fun q => { q with ended := true })))

/-- What the writer holds, written over the back buffer. -/
def Mbx.written (m : Mbx) : List Item := m.img.foldl (fun l e => setAt l e.1 e.2) m.back

/-- A close of mailbox `n` (R29): it swaps at the next tick. With `copy` the front buffer is first copied into the back. -/
def State.closeMbx (s : State) (n : Nat) (copy : Bool) : State :=
  s.mbxMod n (fun m => { m with back := if copy then m.front else m.written, closed := true })

/-- The mailbox's writer is a CPE in its switch frame, whose PUBLISH entries act with COPY = 1 (R394). -/
def State.switchFrame (s : State) (w : Nat) : Bool :=
  (w == 8 || w == 9) && (s.cpe.getD (w - 8) CpeSt.empty).switchFno == some s.fno

/-- PUBLISH (R29, R80): closes the mailbox, unless an overrun earlier in the frame on the same resource makes the sequencer
skip it (R96). A mailbox's resource is its writer engine (R78, R81). -/
def publish (mb : Nat) (copy : Bool) (s : State) : State :=
  match s.mbxOf mb with
  | none => s
  | some m =>
    let p : Entry → Bool := fun e => e.arg % 2 ^ 12 == mb && (e.arg / 2 ^ 12 % 2 == 1) == copy
    if s.seq.skip.contains m.writer then (if s.issues 0x02 m.writer p then s.passEntry else s)
    else s.entry 0x02 m.writer p (fun s => s.closeMbx mb (copy || s.switchFrame m.writer))

def execPublish (mb : Nat) (copy : Bool) (s : State) : Out := .next (publish mb copy s)

/-- SNAP (R80, R412): an event-recorder record of kind 2 under the entry's event code. -/
def execSnap (code : Nat) (s : State) : Out :=
  .next (s.entry 0x03 0x0B (fun e => e.arg % 2 ^ 16 == code) (fun s => s.offer code 2))

/-! ## Verification of a bank (R89, R90) -/

/-- A failure of a verification: code, table or slot map, entry or record, resource, sum. -/
structure VfyErr where
  code : Nat
  table : Nat
  entry : Nat
  res : Nat
  sum : Nat
deriving DecidableEq, Repr

/-- BUDGET_NS of a task of a CPE's image; for task 4 the error task's and every event task's together (R379). -/
def taskBudget (tasks : List (Nat × Nat)) (k : Nat) : Option Nat :=
  if k = 4 then
    match tasks.filter (fun e => decide (4 ≤ e.1)) with
    | [] => none
    | l => some ((l.map (·.2)).foldl (· + ·) 0)
  else if k < 4 then tasks.lookup k else none

/-- The tasks of both CPEs' active images. -/
def State.activeTasks (s : State) : List (List (Nat × Nat)) := s.cpe.map (·.tasks)

/-- MODEL's budgets (R138), in ns: of a circuit's hydraulic solve and transport step, and of an arrival part. -/
def State.hydBud (s : State) (c : Nat) : Nat := (s.rd (0x240A0 + 0x38 * c + 0x04)).toNat
def State.thmBud (s : State) (c : Nat) : Nat := (s.rd (0x240A0 + 0x38 * c + 0x0C)).toNat
def State.arrBud (s : State) (p : Nat) : Nat := s.fld ⟨0x24080 + 4 * (p / 2), 16 * (p % 2), 16⟩ * 1000

/-- A circuit is defined in the active model bank (R131). -/
def State.circuitOn (s : State) (c : Nat) : Bool := s.tfld 0x2400 c 0 31 1 == 1

/-- The size of a mailbox in words. -/
def State.mbxWords (s : State) (n : Nat) : Nat := ((s.mbxOf n).map (·.words)).getD 0

/-- The worst case of an entry (R80, R88). -/
def State.opCost (s : State) (tasks : List (List (Nat × Nat))) (e : Entry) : Nat :=
  let d := opDuration e.op e.unit
  if e.op = 0x02 then
    d.2.1 + (if e.arg / 2 ^ 12 % 2 = 1 then (4 * s.mbxWords (e.arg % 2 ^ 12) + 15) / 16 * d.2.2 else 0)
  else if e.op = 0x11 then d.2.1 + e.arg / 16 % 2 ^ 16 * d.2.2
  else if e.op = 0x20 then d.2.1 + (e.arg / 2 ^ 8 % 2 ^ 8 + 1) * d.2.2
  else if e.op = 0x28 then (taskBudget (tasks.getD (e.unit - 8) []) (e.arg % 8)).getD 0
  else if e.op = 0x30 then s.hydBud (e.arg % 4)
  else if e.op = 0x31 then s.thmBud (e.arg % 4)
  else if e.op = 0x32 then s.arrBud (e.arg % 16)
  else d.2.1

/-- The resources an entry occupies (R78). -/
def entryRes (e : Entry) : List Nat :=
  if e.unit = 0x14 then ((List.range 4).filter (fun i => e.arg / 2 ^ i % 2 == 1)).map (fun i => 0x10 + i)
  else if e.unit = 0x00 then [] else [e.unit]

/-- The comparator is assigned to a privileged channel: PRIV of LNCH_STAT_n (R124). -/
def State.privComp (s : State) (n : Nat) : Bool := s.cfg.privComp / 2 ^ n % 2 == 1

/-- Loop `l` is covered by a LOOP_GROUP argument: count − 1 in bits 15..8, first loop in bits 7..0, wrapping from 255 to 0 (R80). -/
def loopCovered (arg l : Nat) : Bool := decide ((l + 256 - arg % 256) % 256 ≤ arg / 256 % 256)

/-- The members of a group record (R368). -/
def State.groupMembers (s : State) (g : Nat) : List Nat :=
  (List.range (s.tfld 0x2001 g 0 0 3 + 1)).map (fun i => s.tfld 0x2001 g (1 + i / 4) (8 * (i % 4)) 8)

/-- The defined groups of loops. -/
def State.loopGroups (s : State) : List Nat := (List.range 32).filter (fun g => s.tfld 0x2001 g 0 31 1 == 1)

/-- A LOOP_GROUP entry covers all of a group's members or none (R359). -/
def groupWhole (arg : Nat) (ms : List Nat) : Bool := ms.all (loopCovered arg) || ms.all (fun l => !loopCovered arg l)

/-- The argument of an entry that is not indexed is allowed (R81, R98, R124). -/
def State.argOk (s : State) (tasks : List (List (Nat × Nat))) (e : Entry) : Bool :=
  if e.op = 0x02 then
    match s.mbxOf (e.arg % 2 ^ 12) with
    | none => false
    | some m => m.writer == e.unit
  else if e.op = 0x04 then !s.privComp (e.arg % 64)
  else if e.op = 0x28 then (taskBudget (tasks.getD (e.unit - 8) []) (e.arg % 8)).isSome
  else if e.op = 0x30 ∨ e.op = 0x31 then s.circuitOn (e.arg % 4)
  else if e.op = 0x32 then s.arrBud (e.arg % 16) != 0
  else if e.op = 0x20 then s.loopGroups.all (fun g => groupWhole e.arg (s.groupMembers g))
  else true

/-- The values an indexed entry can draw from its map (R84). -/
def State.drawn (s : State) (c m base : Nat) : List Nat :=
  (List.range (s.smapL c m)).map (fun f => s.slotVal c m (f * s.smapK c m + base))

/-- R84 for an indexed argument: a used map, BASE below K, every value drawn in the range of the index field, and no
privileged comparator. -/
def State.idxArgOk (s : State) (c : Nat) (e : Entry) (w : Nat) : Bool :=
  let m := e.arg / 2 ^ 24 % 8
  let b := e.arg / 2 ^ 16 % 256
  s.smapL c m != 0 && decide (b < s.smapK c m)
    && (s.drawn c m b).all (fun v => v == 0xFFFF || (decide (v < 2 ^ w) && (e.op != 0x04 || !s.privComp v)))

/-- The failure code of an entry by itself (rule 1 of R89); 0 for none. The order of the codes within one entry is this
model's. -/
def State.entryCode (s : State) (tasks : List (List (Nat × Nat))) (c : Nat) (isExt : Bool) (prev : Option Nat) (e : Entry) :
    Nat :=
  if !opDefined e.op then 1
  else if !unitOk e.unit then 2
  else if !opUnit e.op e.unit then 1
  else if (match prev with
    | none => false
    | some p => decide (e.op ≠ 0x01 ∧ e.offset < p + 10)) then 4
  else if e.arg / 2 ^ 27 = 1 then
    match opIndex e.op with
    | none => 7
    | some (_, w) => if isExt then 8 else if s.idxArgOk c e w then 0 else 7
  else if s.argOk tasks e then 0 else 3

/-- What verification remembers of each resource: UNIT, end of its last entry, sum of its worst cases. -/
abbrev ResUse := List (Nat × Nat × Nat)

/-- The use of a resource. -/
def ResUse.at (u : ResUse) (r : Nat) : Nat × Nat := (u.lookup r).getD (0, 0)
def ResUse.put (u : ResUse) (r endNs sum : Nat) : ResUse := (r, endNs, sum) :: u.filter (fun e => e.1 != r)

/-- Rules 2 and 3 of R89 for one entry on its resources: the first that fails, or the use after it. -/
def chargeRes (t i off cost : Nat) : List Nat → ResUse → VfyErr ⊕ ResUse
  | [], u => .inr u
  | r :: rs, u =>
    let p := u.at r
    if off < p.1 then .inl ⟨5, t, i, r, 0⟩
    else if 980000 < off + cost then .inl ⟨6, t, i, r, off + cost⟩
    else if 980000 < p.2 + cost then .inl ⟨6, t, i, r, p.2 + cost⟩
    else chargeRes t i off cost rs (u.put r (off + cost) (p.2 + cost))

/-- Verifies the entries of a frame table from record `i` on, for at most `n` records. -/
def State.vfyFrom (s : State) (tasks : List (List (Nat × Nat))) (c t : Nat) (isExt : Bool) :
    Nat → Nat → Option Nat → ResUse → VfyErr ⊕ ResUse
  | 0, _, _, u => .inr u
  | n + 1, i, prev, u =>
    let e := s.entryAt c t i
    let code := s.entryCode tasks c isExt prev e
    if code ≠ 0 then .inl ⟨code, t, i, e.unit, 0⟩
    else if e.op = 0x01 then .inr u
    else
      match chargeRes t i e.offset (s.opCost tasks e) (entryRes e) u with
      | .inl x => .inl x
      | .inr u' => s.vfyFrom tasks c t isExt n (i + 1) (some e.offset) u'

/-- The frame tables that the plan of copy `c` names (R85, R89), with whether each is the extension table. -/
def State.planTables (s : State) (c : Nat) : List (Nat × Bool) :=
  let names := (List.range 1000).map (fun f => s.tfld 0x0608 (copyIdx c f) 0 0 3)
  let x := s.tfld 0x0608 (copyIdx c 1000) 0 0 3
  ((List.range 8).filter (fun t => names.contains t || x == t)).map (fun t => (t, x == t))

/-- A slot map header is valid (R82). -/
def State.smapOk (s : State) (c m : Nat) : Bool :=
  let l := s.smapL c m
  let k := s.smapK c m
  l == 0 || (1000 % l == 0 && decide (1 ≤ k ∧ k ≤ 64 ∧ l * k ≤ 4096))

/-- The TWIN_REC entries of a frame table before its END, of at most `n` records from `i` (R458). -/
def State.twinRecs (s : State) (c t : Nat) : Nat → Nat → Nat
  | 0, _ => 0
  | n + 1, i =>
    let e := s.entryAt c t i
    if e.op = 0x01 then 0 else b2n (e.op == 0x50) + s.twinRecs c t n (i + 1)

/-- The first failure of copy `c` of the sequence bank, with the CPEs' tasks given (R89 to R91). Slot map headers are
checked before the tables, tables in ascending order; in a pair a table without exactly one TWIN_REC fails with code 3
(R458). -/
def State.seqVerify (s : State) (tasks : List (List (Nat × Nat))) (c : Nat) : Option VfyErr :=
  match (List.range 8).find? (fun m => !s.smapOk c m) with
  | some m => some ⟨9, m, m, 0, 0⟩
  | none =>
    (s.planTables c).findSome? (fun p =>
      match s.vfyFrom tasks c p.1 p.2 4096 0 none [] with
      | .inl x => some x
      | .inr _ => if s.cfg.pair && s.twinRecs c p.1 4096 0 != 1 then some ⟨3, p.1, 0, 0x0A, 0⟩ else none)

/-! ## Load registers -/

/-- The use of resources of a frame table of the active bank, whatever its rules. -/
def State.loadFrom (s : State) (t : Nat) : Nat → Nat → ResUse → ResUse × Nat
  | 0, i, u => (u, i)
  | n + 1, i, u =>
    let e := s.entryAt 0 t i
    if e.op = 0x01 then (u, i + 1)
    else
      let cost := s.opCost s.activeTasks e
      s.loadFrom t n (i + 1) ((entryRes e).foldl (fun u r => u.put r (e.offset + cost) ((u.at r).2 + cost)) u)

/-- SEQ_TBL_INFO_t, SEQ_SMAP_CFG_m, SEQ_LOAD_MAX and SEQ_LOAD_WHERE of the active bank (R99). The sums are those of the tables that the
plan names: a table that it does not name is never run and never charged (R89). -/
def State.seqInfo (s : State) : State :=
  let named := s.planTables 0
  let s1 := (List.range 8).foldl (fun a m =>
    a.wr (0x60B0 + 4 * m) (BitVec.ofNat 32 (s.smapK 0 m * 2 ^ 16 + s.smapL 0 m))) s
  let s2 := (List.range 8).foldl (fun a t =>
    let r := s.loadFrom t 4096 0 []
    let last := r.1.foldl (fun n e => max n e.2.1) 0
    a.wr (0x60D0 + 4 * t) (BitVec.ofNat 32 ((last + 999) / 1000 * 2 ^ 16 + r.2))) s1
  let best := named.foldl (fun (b : Nat × Nat × Nat) p =>
    ((s.loadFrom p.1 4096 0 []).1.foldl (fun b e => if b.1 < e.2.2 then (e.2.2, p.1, e.1) else b) b)) (0, 0, 0)
  (s2.wr 0x6078 (BitVec.ofNat 32 best.1)).wr 0x607C (BitVec.ofNat 32 (best.2.1 * 2 ^ 8 + best.2.2))

/-! ## Commands (R92 to R94) -/

/-- Fields of SEQ_STAT. -/
def seqVerified : Fld := bitAt 0x6044 1
def seqVfyBusy : Fld := bitAt 0x6044 2
def seqSwitchPend : Fld := bitAt 0x6044 3
def seqVfyFailed : Fld := bitAt 0x6044 4

/-- Withdraws a pending switch because VERIFIED is cleared (R94). -/
def State.seqUnverify (s : State) : State :=
  let s1 := s.setB seqVerified false
  if s.bit seqSwitchPend then (s1.setB seqSwitchPend false).raiseEv 6 4 else s1

/-- Ends a verification with a failure (R90). -/
def State.seqVfyFail (s : State) (e : VfyErr) : State :=
  let s1 := s.wr 0x6054 (BitVec.ofNat 32 (e.code * 2 ^ 28 + e.table * 2 ^ 24 + e.entry * 2 ^ 12 + e.res))
  (((s1.wr 0x6058 (BitVec.ofNat 32 e.sum)).setB seqVfyBusy false).setB seqVfyFailed true).raiseEv 6 2

/-- SEQ_CMD.VERIFY (R92): BUSY while a verification runs, REFUSED while a switch is pending. -/
def seqVerifyCmd (s : State) : State × Status :=
  if s.bit seqVfyBusy then (s, .busy)
  else if s.bit seqSwitchPend then (s, .refused)
  else ((s.setB seqVerified false).setB seqVfyBusy true, .ok)

def execSeqVerify (s : State) : Out := .next (seqVerifyCmd s).1

/-- SEQ_VERIFY_END (R90): the running verification ends with its verdict on the inactive bank. -/
def execSeqVerifyEnd (s : State) : Out :=
  .next <|
    if !s.bit seqVfyBusy then s
    else
      match s.seqVerify s.activeTasks 1 with
      | some e => s.seqVfyFail e
      | none =>
        (((((s.wr 0x6054 0).wr 0x6058 0).setB seqVfyBusy false).setB seqVfyFailed false).setB seqVerified true).raiseEv 6 1

/-- SEQ_CMD.SWITCH (R92). -/
def seqSwitchCmd (s : State) : State × Status :=
  if s.bit seqVerified then (s.setB seqSwitchPend true, .ok) else (s, .refused)

def execSeqSwitch (s : State) : Out := .next (seqSwitchCmd s).1

/-- SEQ_CMD.CANCEL (R92): clears SWITCH_PEND. -/
def seqCancelCmd (s : State) : State := s.setB seqSwitchPend false

def execSeqCancel (s : State) : Out := .next (seqCancelCmd s)

/-- A TABLE_WRITE to the inactive bank took effect (R92): VERIFIED clears, and a running verification ends with code 10. -/
def State.seqWritten (s : State) : State :=
  let s1 := s.seqUnverify
  if s1.bit seqVfyBusy then s1.seqVfyFail ⟨10, 0, 0, 0, 0⟩ else s1

/-- The tables of a sequence bank (R86). -/
def seqTable (tid : Nat) : Bool := decide (0x0600 ≤ tid ∧ tid ≤ 0x0611)

/-- SEQ_BANK_SWITCH (R93): at a tick that starts a hyperframe, and not in an extension frame (R74), a pending switch
exchanges the banks; the bank left has VERIFIED at 1. -/
def State.seqBankSwitch (s : State) : State :=
    if s.bit seqSwitchPend && s.seq.hfStart && !s.inExt then
      let s1 := s.bankSwap seqTable
      let s2 := ((s1.setF (bitAt 0x6044 0) (1 - s1.fld (bitAt 0x6044 0))).setB seqSwitchPend false).setB seqVerified true
      let s3 := s2.setF ⟨0x6048, 12, 3⟩ (s2.tfld 0x0608 s2.frame 0 0 3)
      (s3.seqInfo).raiseEv 6 3
    else s

/-! ## Losses (R41) -/

/-- ENGINE_LOST (R41): three consecutive entries without acknowledgement raise ENGINE_LOST with the engine number, and the
module enters FAULT. -/
def State.engineLost (s : State) (e : Nat) : Bool := decide (3 ≤ s.seq.missed.getD e 0)

end Sys2Proof.Machine
end

