-- ==== Sys2Proof/Machine/Adc.lean ====
section
/-! DEFINITION. The analogue inputs: triggers, conversions, windows and their results (R296 to R306). -/

namespace Sys2Proof.Machine

/-- `s` with the ADC subsystem changed. -/
def State.adcMod (s : State) (f : AdcSt → AdcSt) : State := { s with adc := f s.adc }

/-- ADC_STAT: CLK_LOST and the BUSY bits. -/
def adcLost : Fld := bitAt 0x18044 0
def adcBusy (n : Nat) : Fld := bitAt 0x18044 (4 + n)

/-- The first edge of the 40 MHz ADC clock at or after an instant (R296): every frame tick is an edge. -/
def adcEdge (ns : Nat) : Nat := (ns + 24) / 25 * 25

/-- The triggers in the order of their sample instants. -/
def insTrg (e : AdcTrg) : List AdcTrg → List AdcTrg
  | [] => [e]
  | x :: l => if e.at_ < x.at_ then e :: x :: l else x :: insTrg e l

def sortTrg (l : List AdcTrg) : List AdcTrg := l.foldl (fun a e => insTrg e a) []

/-- A trigger is discarded at these converters (R299). -/
def State.trigLost (s : State) (cs : List Nat) : State :=
  if cs.isEmpty then s else (cs.foldl (fun a n => a.bump (.ADC_TRIG_LOST n)) s).raiseEv 0x18 0

/-- A trigger reaches its sample instant: a conversion of the selected input starts; one on the same clock edge starts it once; one
that falls into a running conversion is discarded (R297 to R299). -/
def State.adcSample (s : State) (e : AdcTrg) : State :=
  let start : State := (s.adcMod (fun a => { a with conv := setAt a.conv e.conv (some (8 * e.conv + a.sel.getD e.conv 0, e.at_)) })).setB
    (adcBusy e.conv) true
  match s.adc.conv.getD e.conv none with
  | none => start
  | some (_, t) => if t = e.at_ then s else if e.at_ < t + 2000 then s.trigLost [e.conv] else start

/-- The sample instants up to and including `t` pass. -/
def State.adcAdvance (s : State) (t : Nat) : State :=
  let due := sortTrg (s.adc.sched.filter (fun e => decide (e.at_ ≤ t)))
  let s1 := s.adcMod (fun a => { a with sched := a.sched.filter (fun e => decide (t < e.at_)) })
  due.foldl (fun a e => a.adcSample e) s1

/-- A trigger of a source at an instant, with a delay in 10 ns steps, to the converters of a mask. A timer's or a PWM output's
trigger that arrives while its source's delay runs is discarded (R299). With ADC_CTRL.EN at 0 nothing is triggered. -/
def State.adcTrigger (s : State) (src mask dly t : Nat) : State :=
  if !s.bit (bitAt 0x18040 0) then s
  else
    let s1 := s.adcAdvance (t - 1)
    let cs := (List.range 4).filter (fun n => mask / 2 ^ n % 2 == 1)
    if decide (src < 8) && s1.adc.sched.any (fun e => e.src == src && decide (t < e.dlyEnd)) then
      s1.trigLost cs
    else
      let d := t + 10 * dly
      s1.adcMod (fun a => { a with sched := a.sched ++ cs.map (fun n => ⟨adcEdge d, n, src, d⟩) })

/-- ADC_SEL (R297): the input of the converter's conversions from the entry's issue instant on. -/
def execAdcSel (conv arg ns : Nat) (s : State) : Out :=
  .next (s.entry 0x10 (0x10 + conv) (fun e => e.has arg && e.begunAt ns) (fun s =>
    match s.entryIdx arg 0 3 with
    | none => s
    | some c => (s.adcAdvance (s.elapsed ns - 1)).adcMod (fun a => { a with sel := setAt a.sel conv c })))

/-- ADC_CHSEL_n at its tick. -/
def State.adcChsel (s : State) (n c : Nat) : State := s.adcMod (fun a => { a with sel := setAt a.sel n c })

/-- The selections of ADC_CHSEL_n as the registers hold them, after a soft reset or a start-up. -/
def State.adcSels (s : State) : State :=
  s.adcMod (fun a => { a with sel := (List.range 4).map (fun n => s.fld ⟨0x18048 + 4 * n, 0, 3⟩) })

/-- ADC_TRIG (R298). -/
def execAdcTrig (arg ns : Nat) (s : State) : Out :=
  .next (s.entry 0x11 0x14 (fun e => e.has arg && e.begunAt ns) (fun s => s.adcTrigger 8 (arg % 16) (arg / 16 % 65536) (s.elapsed ns)))

/-- ADC_TRG_k reaches the converters. -/
def State.adcTrg (s : State) (k ns : Nat) : State :=
  let a := 0x18068 + 4 * k
  if s.bit (bitAt a 31) then s.adcTrigger k (s.fld ⟨a, 0, 4⟩) (s.fld ⟨a, 4, 16⟩) (s.elapsed ns) else s

/-- ADC_TIMER_TRIGGER (R298): timer `k` fires at the tick and every PERIOD after it within the frame. -/
def execAdcTimerTrigger (k ns : Nat) (s : State) : Out :=
  let p := 10 * s.fld ⟨0x18058 + 4 * k, 0, 17⟩
  .next (if k < 4 ∧ p ≠ 0 ∧ ns % p = 0 ∧ ns < 1000000 then s.adcTrg k ns else s)

/-- PWM_COMPARE_TRIGGER (R298, R312): at CMP / 10,000 of the running period, rounded down to 10 ns. -/
def execPwmCompareTrigger (k ns : Nat) (s : State) : Out :=
  let p := s.dio.pwm.getD k (0, 0)
  let c := 10 * (s.fld ⟨0x1D078 + 4 * k, 0, 14⟩ * p.1 / 10000)
  let t := s.elapsed ns
  .next (if k < 4 ∧ p.1 ≠ 0 ∧ s.bit (pwmEn k) = true ∧ p.2 + c ≤ t ∧ (t - p.2 - c) % (10 * p.1) = 0 then s.adcTrg (4 + k) ns
    else s)

/-! ## Conversions (R300, R304) -/

/-- The window of a channel. -/
def State.adcWin (s : State) (ch : Nat) : AdcWin := (s.adc.win.lookup ch).getD AdcWin.init

def State.adcSetWin (s : State) (ch : Nat) (w : AdcWin) : State :=
  s.adcMod (fun a => { a with win := (ch, w) :: a.win.filter (fun e => e.1 != ch) })

/-- The least and greatest sums of 48 bits. -/
def sumMax : Int := 2 ^ 47 - 1
def sumMin : Int := -(2 ^ 47)

/-- A conversion in its window: a SETTLE conversion is excluded and counted; a clamped one is counted. A window in which the
clock was lost counts no more (R306). -/
def AdcWin.add (w : AdcWin) (code : Int) (beyond settle : Bool) : AdcWin :=
  let w1 := if beyond then { w with nOvr := w.nOvr + 1 } else w
  if w.lost then w1
  else if settle then { w1 with nSettle := w1.nSettle + 1 }
  else
    { w1 with
      s := clampI sumMin sumMax (w1.s + code), n := w1.n + 1, q := w1.q + (code * code).toNat, mn := min w1.mn code,
      mx := max w1.mx code, nClamp := w1.nClamp + b2n beyond }

/-- A reflex channel armed on an ADC limit sees a conversion (R290): it trips after N_CONV + 1 consecutive codes beyond LIMIT. -/
def State.reflexConv (s : State) (conv inp : Nat) (code : Int) : State :=
  (s.armedOn (fun ch => s.chFld ch 2 30 2 != 0 && s.chFld ch 2 23 2 == conv && s.chFld ch 2 20 3 == inp)).foldl (fun a ch =>
    let lim := signed 16 (a.chFld ch 3 0 16)
    let beyond := if a.chFld ch 2 30 2 = 1 then decide (lim < code) else decide (code < lim)
    let n := if beyond then (a.dio.adcRun.lookup ch).getD 0 + 1 else 0
    let a1 := a.dioMod (fun d => { d with adcRun := (ch, n) :: d.adcRun.filter (fun e => e.1 != ch) })
    if a.chFld ch 2 18 2 + 1 ≤ n then a1.reflexTrip ch else a1) s

/-! ## Windows and results (R302, R303, R305) -/

/-- SCALE, OFFSET, KIND, EXC_CAL and ITEM of a record. -/
def recKind (r : List Word) : Nat := wbits (r.getD 0 0) 29 2

/-- R of an RTD at a code, in ohms (R305). -/
def rtdOhm (r : List Word) (code : Num) : Num :=
  ndiv (nmul code (nrat 7629 100000000)) (nmul (nrat 1 1000) (nadd n1 (nrat (signed 12 (wbits (r.getD 3 0) 20 12)) 1000000)))

/-- R0 of KIND 1 and 2. -/
def rtdR0 (r : List Word) : Nat := if recKind r = 1 then 500 else 1000

/-- A code, or a mean of codes, in the channel's unit. -/
def adcUnit (r : List Word) (code : Num) : Num :=
  if recKind r = 0 then nadd (nf32 (r.getD 2 0)) (nmul (nf32 (r.getD 1 0)) code)
  else Config.rtdTemp (rtdR0 r) (rtdOhm r code)

/-- STD in the channel's unit. -/
def adcStd (r : List Word) (w : AdcWin) : Num :=
  let n := nint w.n
  let m := ndiv (nint w.s) n
  let sd := Config.numSqrt (nmax n0 (nsub (ndiv (nint w.q) n) (nmul m m)))
  if recKind r = 0 then nmul (nabs (nf32 (r.getD 1 0))) sd
  else nmul (Config.rtdSlope (rtdR0 r) (rtdOhm r m)) (rtdOhm r sd)

/-- The result of a closed window: its record in the window result table and its three items; with no counted conversion the
previous values are held. -/
def State.adcResult (s : State) (ch : Nat) (c : AdcClose) : State :=
  let w := c.win
  let r := c.record
  let some_ := decide (0 < w.n)
  let m := adcUnit r (ndiv (nint w.s) (nint w.n))
  let sumOvf := w.s == sumMax || w.s == sumMin
  let rtd := recKind r != 0 && (decide (0 < w.nOvr) || (some_ && (nlt m (nint (-50)) || nlt (nint 200) m)))
  let q :=
    if w.lost || sumOvf || rtd || (some_ && w.nClamp == w.n) then BAD
    else if !some_ then STALEQ else if 0 < w.nOvr then ESTIM else GOOD
  let st := q + b2n c.late * stLATE + b2n (decide (0 < w.nOvr)) * stOVR + b2n (decide (0 < w.nSettle)) * stSETTLE
  let flags := b2n (decide (0 < w.nOvr)) + 2 * b2n (decide (0 < w.nSettle)) + 4 * b2n w.short + 8 * b2n c.late + 16 * b2n sumOvf
    + 32 * b2n rtd
  let hold := fun (i : Nat) (v : Word) => if some_ then v else s.trd 0x1801 ch i
  let s1 := s.trecSet 0x1801 ch 0
    [BitVec.ofNat 32 (st * 2 ^ 24 + flags * 2 ^ 16), hold 1 (Config.numToF32 m),
     hold 2 (BitVec.ofNat 32 ((w.mx % 65536).toNat * 65536 + (w.mn % 65536).toNat)), BitVec.ofNat 32 w.n,
     BitVec.ofNat 32 (min w.nOvr 65535 * 65536 + min w.nSettle 65535), hold 5 (Config.numToF32 (adcStd r w)),
     BitVec.ofNat 32 c.sec, BitVec.ofNat 32 c.ns]
  let mb := s.fld ⟨0x180B8, 0, 12⟩
  let it := wbits (r.getD 3 0) 0 20
  let held := fun (i : Nat) => (((s.mbxOf mb).bind (fun m => m.img.lookup (it + i))).getD Item.init).w
  let v := fun (i : Nat) (x : Num) => (⟨if some_ then Config.numToF32 x else held i, st⟩ : Item)
  let s2 := s1.fwPutsNext 7 mb it [v 0 m, v 1 (adcUnit r (nint w.mn)), v 2 (adcUnit r (nint w.mx))]
  if rtd then s2.raiseEv 0x18 2 else s2

/-- The running conversion of the channel's converter was sampled in the window that closes and has not ended. -/
def State.adcOpenConv (s : State) (ch t : Nat) : Bool :=
  match s.adc.conv.getD (ch / 8) none with
  | none => false
  | some (c, t0) => c == ch && decide (t0 < t) && decide (t < t0 + 2000)

/-- A channel's window closes at the tick and a new one opens (R302). -/
def State.adcClose (s : State) (ch : Nat) (late short : Bool) : State :=
  let w := s.adcWin ch
  let t := s.elapsed 0
  let c : AdcClose :=
    { win := { w with short := w.short || short }, late := late, at_ := t, sec := s.nowSec % 2 ^ 32, ns := s.nowNs,
      record := s.trec 0x1800 ch 4 }
  let s1 := s.adcSetWin ch { AdcWin.init with start := t, lost := s.bit adcLost }
  if s.adcOpenConv ch t then s1.adcMod (fun a => { a with closing := (ch, c) :: a.closing.filter (fun e => e.1 != ch) })
  else s1.adcResult ch c

/-- The defined channels. -/
def State.adcChans (s : State) : List Nat := (List.range 32).filter (fun ch => s.tfld 0x1800 ch 0 31 1 == 1)

/-- A frame whose number WIN_FR divides lies among the skipped ones, `(first, count)`. -/
def skipsWin (w : Nat) (skips : List (Nat × Nat)) : Bool :=
  skips.any (fun e => decide (e.1 ≤ (e.1 + e.2 - 1) / w * w ∧ 0 < e.2))

/-- The windows at a tick (R302): those of the frame, and those whose closing frame was skipped, with LATE. -/
def State.adcTick (s : State) (skips : List (Nat × Nat)) : State :=
  let s1 := s.adcAdvance (s.elapsed 0 - 1)
  s1.adcChans.foldl (fun a ch =>
    let w := a.tfld 0x1800 ch 0 16 10
    let late := w != 0 && skipsWin w skips
    if w != 0 && (late || (!a.inExt && a.frame % w == 0)) then a.adcClose ch late false else a) s1

/-- A commit changes records of these channels (R302): their windows close with SHORT; a window that opened at this very tick has
nothing to close. -/
def State.adcShort (s : State) (chs : List Nat) : State :=
  (chs.filter (fun ch => s.tfld 0x1800 ch 0 31 1 == 1 && (s.adcWin ch).start != s.elapsed 0)).foldl
    (fun a ch => a.adcClose ch false true) s

/-- ADC_CONVERSION_END (R296, R300, R304): the conversion that was sampled 2,000 ns before ends with its ideal code. -/
def execAdcConversionEnd (conv : Nat) (code : Int) (ns : Nat) (s : State) : Out :=
  let t := s.elapsed ns
  let s0 := s.adcAdvance (t - 1)
  .next <|
    match s0.adc.conv.getD conv none with
    | none => s0
    | some (ch, t0) =>
      if t0 + 2000 ≠ t then s0
      else
        let c := clampI (-32768) 32767 code
        let dfn := s0.tfld 0x1800 ch 0 31 1 == 1
        let beyond := dfn && c != code
        let left := s0.adc.settle.getD conv 0
        let s1 := ((s0.adcMod (fun a =>
          { a with conv := setAt a.conv conv none, settle := setAt a.settle conv (if beyond then 2 else left - 1) })).setB
            (adcBusy conv) false).bump (.ADC_CONV conv)
        let s2 := s1.reflexConv conv (ch % 8) c
        if !dfn then s2
        else
          let old := match s2.adc.closing.lookup ch with
            | some cl => if t0 < cl.at_ then some cl else none
            | none => none
          let s3 := if beyond then s2.setB (bitAt 0x180B0 ch) true else s2
          match old with
          | some cl =>
            let s4 := if beyond && cl.win.nOvr == 0 then s3.raiseEv 0x18 1 else s3
            (s4.adcMod (fun a => { a with closing := a.closing.filter (fun e => e.1 != ch) })).adcResult ch
              { cl with win := cl.win.add c beyond (0 < left) }
          | none =>
            let w := s3.adcWin ch
            if t0 < w.start then s3
            else
              let s4 := if beyond && w.nOvr == 0 then s3.raiseEv 0x18 1 else s3
              s4.adcSetWin ch (w.add c beyond (0 < left))

/-! ## Clock loss and soft reset (R306) -/

/-- ADC clock lock is lost: the open windows close BAD. -/
def State.adcClkLost (s : State) : State :=
  let s1 := (s.setB adcLost true).raiseEv 0x18 3
  s1.adcChans.foldl (fun a ch => a.adcSetWin ch { a.adcWin ch with lost := true }) s1

/-- Lock returns; windows restart at their next close. -/
def State.adcClkBack (s : State) : State := s.setB adcLost false

/-- A soft reset of the ADC page beside R55: open windows are discarded, running delays dropped. -/
def State.adcSoftReset (s : State) : State :=
  let s1 := (s.adcSels).adcMod (fun a => { a with sched := [], closing := [] })
  s1.adcChans.foldl (fun a ch =>
    a.adcSetWin ch { AdcWin.init with start := a.elapsed 0, short := true, lost := (a.adcWin ch).lost }) s1

end Sys2Proof.Machine
end

