-- ==== Sys2Proof/Machine/Loop.lean ====
section
/-! DEFINITION. The loop engine (R348 to R369): execution of loops, HOLD, low-select groups, relay tests, and the checks of
loop and group records. Arithmetic is binary32, sums and products from left to right. -/

namespace Sys2Proof.Machine

/-! ## Loops -/

/-- `s` with the loop engine changed. -/
def State.loopMod (s : State) (f : LoopEng → LoopEng) : State := { s with loop := f s.loop }

/-- What the engine keeps of a loop. -/
def State.loopSt (s : State) (l : Nat) : LoopSt := (s.loop.loops.lookup l).getD LoopSt.init

/-- `s` with what it keeps of a loop changed. -/
def State.loopPut (s : State) (l : Nat) (f : LoopSt → LoopSt) : State :=
  s.loopMod (fun q => { q with loops := (l, f (s.loopSt l)) :: q.loops.filter (fun e => e.1 != l) })

/-- Words and bits of a loop's record (R360). -/
def State.lw (s : State) (l w : Nat) : Word := s.trd 0x2000 l w
def State.lb (s : State) (l w lo n : Nat) : Nat := s.tfld 0x2000 l w lo n
def State.lwSet (s : State) (l w : Nat) (v : Word) : State := s.twr 0x2000 l w v
def State.lbSet (s : State) (l w lo n v : Nat) : State := s.tset 0x2000 l w lo n v

def State.loopDef (s : State) (l : Nat) : Bool := s.lb l 0 31 1 == 1
def State.loopMode (s : State) (l : Nat) : Nat := s.lb l 0 29 2
def State.loopDiv (s : State) (l : Nat) : Nat := s.lb l 0 10 10
def State.loopPhase (s : State) (l : Nat) : Nat := s.lb l 0 0 10

/-- The group of a loop. -/
def State.loopGroup (s : State) (l : Nat) : Option Nat := s.loopGroups.find? (fun g => (s.groupMembers g).contains l)

/-- GROUP of every defined loop's record follows the group table. -/
def State.loopGroupFields (s : State) : State :=
  (s.defined 0x2000 0).foldl (fun a l => a.lbSet l 18 0 8 ((s.loopGroup l).getD 0xFF)) s

/-- Flags of word 18 by bit. -/
def flPvBad : Nat := 23
def flSpBad : Nat := 22
def flSatHi : Nat := 21
def flSatLo : Nat := 20
def flLoser : Nat := 19
def flNonfinite : Nat := 18
def flTuning : Nat := 17
def State.lflag (s : State) (l b : Nat) : Bool := s.lb l 18 b 1 == 1
def State.lflagSet (s : State) (l b : Nat) (v : Bool) : State := s.lbSet l 18 b 1 (b2n v)

/-- The loop output mailbox. -/
def State.loopMbx (s : State) : Nat := s.fld ⟨0x20078, 0, 12⟩

/-- clamp of R350: min(max(v, lo), hi). -/
def f32Clamp (v lo hi : Word) : Word := f32Min (f32Max v lo) hi

/-- The loop publishes `u` with a quality (R356). -/
def State.loopOut (s : State) (l : Nat) (u : Word) (q : Nat) : State :=
  ((s.lwSet l 14 u).lbSet l 18 24 8 q).fwPuts 6 s.loopMbx l [⟨u, q⟩]

/-- A referenced item as binary32: as it is, or a signed integer times PV_SCALE (R353); with its quality. -/
def State.loopItem (s : State) (ref : Word) (isInt : Bool) (scale : Word) : Option (Word × Nat) :=
  match s.vref ref with
  | none => none
  | some it =>
    if usableSt it.st then some (if isInt then f32Mul (f32OfInt (sint it.w)) scale else it.w, qual it.st) else none

/-- PV, where it is usable. -/
def State.loopPv (s : State) (l : Nat) : Option (Word × Nat) := s.loopItem (s.lw l 1) (s.lb l 0 26 1 == 1) (s.lw l 4)

/-- SP, the local one or the remote one or the last usable one, and whether the remote one is not usable (R353, R354). -/
def State.loopSp (s : State) (l : Nat) : Option Word × Bool :=
  if s.lb l 0 24 1 = 1 then
    match s.loopItem (s.lw l 2) (s.lb l 0 25 1 == 1) (s.lw l 4) with
    | some x => (some x.1, false)
    | none => ((s.loopSt l).sp, true)
  else (some (s.lw l 3), false)

/-- σ times a value. -/
def State.sigma (s : State) (l : Nat) (v : Word) : Word := if s.lb l 0 28 1 = 1 then f32Neg v else v

/-- The derivative input. -/
def State.loopX (s : State) (l : Nat) (pv sp : Word) : Word :=
  if s.lb l 0 27 1 = 1 then s.sigma l (f32Sub sp pv) else f32Neg (s.sigma l pv)

/-- Ts in ms (R349). -/
def State.loopTs (s : State) (l : Nat) : Nat :=
  match (s.loopSt l).last with
  | some f => if (s.loopSt l).first then s.loopDiv l else min (s.since f) (10 * s.loopDiv l)
  | none => s.loopDiv l

/-- The loop was executed: FRAME_NO and RUN_CNT. -/
def State.loopRan (s : State) (l : Nat) : State :=
  (s.loopPut l (fun x => { x with last := some s.fno })).lwSet l 19 (s.lw l 19 + 1)

/-- The results of R350: the values kept, the output, whether the sum lies above OUT_HI or below OUT_LO, and whether every
intermediate value is finite. -/
structure PidRes where
  x : Word
  d : Word
  i : Word
  u : Word
  hi : Bool
  lo : Bool
  ok : Bool
deriving DecidableEq, Repr

/-- R350 and R351 for one execution in AUTO. In place of the integration, a first execution sets I := MAN_OUT − P and D := 0, and a
return to AUTO sets I := u_last − P − D; `tms` is Ts in ms. -/
def State.loopPid (s : State) (l tms : Nat) (pv sp : Word) : PidRes :=
  let k := s.loopSt l
  let e0 := s.sigma l (f32Sub sp pv)
  let e := if f32Le (f32Abs e0) (s.lw l 13) then 0 else e0
  let p := f32Mul (s.lw l 5) e
  let x := s.loopX l pv sp
  let ts := f32OfRat tms 1000
  let tf := s.lw l 8
  let dx := f32Mul (s.lw l 7) (f32Sub x (if k.first then x else k.xPrev))
  let num := if tf = 0 then dx else f32Add (f32Mul tf k.d) dx
  let den := f32Add tf ts
  let d := if k.first then 0 else f32Div num den
  let inc := f32Mul (f32Mul (s.lw l 6) e) ts
  let i0 := if k.first then f32Sub (s.lw l 11) p
    else if k.ret then f32Sub (f32Sub (s.lw l 14) p) d
    else f32Add (s.lw l 15) inc
  let lo := f32Sub (f32Sub (s.lw l 9) p) d
  let hi := f32Sub (f32Sub (s.lw l 10) p) d
  let i := f32Clamp i0 lo hi
  let raw := f32Add (f32Add p i0) d
  let sum := f32Add (f32Add p i) d
  let u := f32Clamp sum (s.lw l 9) (s.lw l 10)
  { x := x, d := d, i := i, u := u, hi := u == s.lw l 10 && f32Lt (s.lw l 10) raw, lo := u == s.lw l 9 && f32Lt raw (s.lw l 9),
    ok := [e0, p, x, dx, num, den, d, inc, i0, lo, hi, i, raw, sum, u].all f32Finite }

/-- The quality of a loop's output in AUTO or under test (R356). -/
def loopQual (pvq : Nat) (spBad : Bool) : Nat :=
  if pvq = STALEQ then STALEQ else if pvq = ESTIM ∨ pvq = SUBST ∨ spBad then ESTIM else GOOD

/-- Records PV_LAST and SP_USED. -/
def State.loopSeen (s : State) (l : Nat) (pv sp : Word) : State := (s.lwSet l 16 pv).lwSet l 17 sp

/-! ## Relay tests (R363 to R366) -/

/-- TUNE_BUSY and the loop under test. -/
def tuneBusy : Fld := bitAt 0x2004C 8

/-- The loop publishes BIAS and returns to the mode it had under R351. -/
def State.tuneLeave (s : State) (t : TuneSt) : State :=
  let s1 := (s.loopMod (fun q => { q with tune := none })).setB tuneBusy false
  let s2 := (s1.lflagSet t.loop flTuning false).loopPut t.loop (fun x => { x with ret := true, first := false })
  s2.loopOut t.loop t.bias (s.lb t.loop 18 24 8)

/-- Aborts the running test with a reason (R365). -/
def State.tuneAbort (s : State) (reason : Nat) : State :=
  match s.loop.tune with
  | none => s
  | some t => (((s.tuneLeave t).tset 0x2002 t.loop 0 28 4 3).tset 0x2002 t.loop 0 24 4 reason).raiseEv 0x20 1

/-- π as binary32. -/
def f32Pi : Word := 0x40490FDB#32

/-- The mean of binary32 values. -/
def f32Mean (l : List Word) : Word := f32Div (l.foldl f32Add 0) (f32OfInt l.length)

/-- Completes a test with its measured cycles: reason 6 or 8, or the results of R364. -/
def State.tuneDone (s : State) (t : TuneSt) (cyc : List (Nat × Word)) : State :=
  let secs := cyc.map (fun c => f32OfRat c.1 1000)
  let pu := f32Mean secs
  let a := f32Mean (cyc.map (·.2))
  let hys := s.rd 0x20054
  let far := secs.any (fun x => f32Lt (f32Mul (f32OfRat 1 5) pu) (f32Abs (f32Sub x pu)))
  if far then s.tuneAbort 6
  else if f32Le a hys then s.tuneAbort 8
  else
    let den := f32Mul f32Pi (f32Sqrt (f32Sub (f32Mul a a) (f32Mul hys hys)))
    let ku := f32Div (f32Mul (f32OfInt 4) (s.rd 0x20050)) den
    let c := fun (n : Int) (q : Nat) => f32OfRat n q
    let pid := s.fld ⟨0x20058, 0, 4⟩ == 1
    let kp := f32Mul (if pid then c 6 10 else c 45 100) ku
    let ki := f32Div (f32Mul (if pid then c 12 10 else c 54 100) ku) pu
    let kd := if pid then f32Mul (f32Mul (c 75 1000) ku) pu else 0
    let tf := if pid then f32Div kd (f32Mul (f32OfInt 10) kp) else 0
    let s1 := (s.tuneLeave t).trecSet 0x2002 t.loop 0
      [BitVec.ofNat 32 (2 * 2 ^ 28 + cyc.length), ku, pu, kp, ki, kd, tf, BitVec.ofNat 32 s.nowSec]
    (s1.bump .LOOP_TUNE).raiseEv 0x20 0

/-- One execution of the loop under test, with PV usable (R364). -/
def State.tuneRun (s : State) (t : TuneSt) (pv sp : Word) (pvq : Nat) (spBad : Bool) : State :=
  let l := t.loop
  if f32Lt (s.rd 0x2005C) (f32Abs (f32Sub pv t.sp0)) then s.tuneAbort 3
  else
    let e := s.sigma l (f32Sub sp pv)
    let hys := s.rd 0x20054
    let was := t.high
    let now := match was with
      | none => f32Lt 0 e
      | some h => if f32Lt e (f32Neg hys) then false else if f32Lt hys e then true else h
    let rise := was == some false && now
    let lo := f32Min t.lo pv
    let hi := f32Max t.hi pv
    let cyc := match t.up with
      | some f => if rise then t.cycles ++ [(s.since f, f32Div (f32Sub hi lo) (f32OfInt 2))] else t.cycles
      | none => t.cycles
    let t1 : TuneSt := { t with
      high := some now, up := if rise then some s.fno else t.up, lo := if rise then pv else lo,
      hi := if rise then pv else hi, cycles := cyc }
    if s.fld ⟨0x20058, 4, 4⟩ < cyc.length then s.tuneDone t (cyc.drop 1)
    else
      let u := if now then f32Add t.bias (s.rd 0x20050) else f32Sub t.bias (s.rd 0x20050)
      (s.loopMod (fun q => { q with tune := some t1 })).loopOut l u (loopQual pvq spBad)

/-! ## Execution (R348 to R356) -/

/-- PV_BAD of a loop in AUTO (R354): PV_LOST and the counter once per episode. A loop in HOLD is in AUTO still. -/
def State.loopBad (s : State) (l : Nat) (bad : Bool) : State :=
  let s1 := s.lflagSet l flPvBad bad
  if bad && !s.lflag l flPvBad then (s1.bump .LOOP_PV_BAD).raiseEv 0x20 2 else s1

/-- The execution of a loop that is defined, not OFF and due. A remote SP that is usable is kept as the last usable one, and SP_BAD
follows it, in every mode. An execution with no usable PV leaves the next one the first where it would have been (R351, DEDUCED:
the first execution of R351 is the first that computes R350 or publishes MAN_OUT). SAT compares the sum with I before its clamp
(DEDUCED: the clamped sum lies beyond no limit). A non-finite execution leaves SAT and LOSER as they were, one without PV clears
them (DESIGN CHOICE, log entry 141). -/
def State.loopExec (s0 : State) (l : Nat) : State :=
  let pv := s0.loopPv l
  let sp := s0.loopSp l
  let s := s0.loopRan l
  let hold := s.lb l 0 22 1 == 1
  let mode := s.loopMode l
  let x := (fun v w => s.loopX l v w)
  let track := fun (a : State) => match pv, sp.1 with
    | some v, some w => (a.loopSeen l v.1 w).loopPut l (fun k => { k with xPrev := if f32Finite (x v.1 w) then x v.1 w else k.xPrev })
    | _, _ => a
  let clr := fun (a : State) => ((a.lflagSet l flSatHi false).lflagSet l flSatLo false).lflagSet l flLoser false
  let bad := !(pv.isSome && sp.1.isSome)
  let s := (s.lflagSet l flSpBad sp.2).loopPut l (fun k => { k with sp := if sp.2 then k.sp else sp.1 })
  if (match s.loop.tune with
    | some t => t.loop == l
    | none => false) then
    match s.loop.tune, pv, sp.1 with
    | some t, some v, some w => (track s).tuneRun t v.1 w v.2 sp.2
    | _, _, _ => s.tuneAbort 4
  else if hold then
    ((track (s.loopBad l (mode == 2 && bad))).loopPut l (fun k => { k with ret := true })).loopOut l (s.lw l 14) (s.lb l 18 24 8)
  else if mode = 1 then
    let k := s.loopSt l
    let s1 := if k.wasAuto && !k.manWr then s.lwSet l 11 (s.lw l 14) else s
    let s2 := (clr ((track s1).lflagSet l flPvBad false)).loopPut l (fun k => { k with wasAuto := false, ret := true, first := false })
    (s2.lflagSet l flNonfinite false).loopOut l (f32Clamp (s1.lw l 11) (s.lw l 9) (s.lw l 10)) GOOD
  else
    let s1 := (s.loopPut l (fun k => { k with wasAuto := true, manWr := false })).loopBad l bad
    match pv, sp.1 with
    | some v, some w =>
      let r := s1.loopPid l (s0.loopTs l) v.1 w
      let s2 := s1.loopSeen l v.1 w
      if r.ok then
        let s3 := (((((clr s2).lwSet l 15 r.i).lflagSet l flSatHi r.hi).lflagSet l flSatLo r.lo).lflagSet l flNonfinite false).loopPut l
          (fun k => { k with xPrev := r.x, d := r.d, first := false, ret := false })
        s3.loopOut l r.u (loopQual v.2 sp.2)
      else
        let s3 := (s2.lflagSet l flNonfinite true).loopPut l (fun k => { k with ret := true })
        let s4 := if s.lflag l flNonfinite then s3 else (s3.bump .LOOP_NONFINITE).raiseEv 0x20 3
        s4.loopOut l (s.lw l 14) STALEQ
    | _, _ =>
      let s3 := (clr s1).loopPut l (fun k => { k with ret := true })
      if s.lb l 0 23 1 = 1 then s3.loopOut l (f32Clamp (s.lw l 12) (s.lw l 9) (s.lw l 10)) SUBST
      else s3.loopOut l (s.lw l 14) STALEQ

/-- A covered loop (R348): an undefined loop reads INIT, and so does an OFF loop in its frame, whose flags, other than TUNING,
are cleared (DESIGN CHOICE, log entry 141: the episodes of R354 and R355 are those of a loop in AUTO). The truth value says
whether it was due. -/
def State.loopRun (s : State) (l : Nat) : State × Bool :=
  if !s.loopDef l then (s.fwPuts 6 s.loopMbx l [⟨0, INITQ⟩], false)
  else if s.loopDiv l == 0 || s.frame % s.loopDiv l != s.loopPhase l || (s.loopSt l).last == some s.fno then (s, false)
  else if s.loopMode l = 0 then ((s.lbSet l 18 18 6 0).loopOut l 0 INITQ, true)
  else (s.loopExec l, true)

/-! ## Low-select groups (R357, R358) -/

/-- A candidate: not OFF, and in MAN or with a usable PV. -/
def State.loopCand (s : State) (l : Nat) : Bool :=
  s.loopDef l && s.loopMode l != 0 && (s.loopMode l == 1 || (s.loopPv l).isSome && (s.loopSp l).1.isSome)

/-- The winner of a group: position, loop. -/
def State.groupWinner (s : State) (ms : List Nat) : Option (Nat × Nat) :=
  ms.zipIdx.foldl (fun (b : Option (Nat × Nat)) e =>
    if s.loopCand e.1 then
      match b with
      | none => some (e.2, e.1)
      | some w => if f32Lt (s.lw e.1 14) (s.lw w.2 14) then some (e.2, e.1) else b
    else b) none

/-- The low-select of a group. -/
def State.groupSelect (s : State) (g : Nat) : State :=
  let ms := s.groupMembers g
  match s.groupWinner ms with
  | none => s.fwPuts 6 s.loopMbx (256 + g) [⟨s.trd 0x2001 g 4, STALEQ⟩]
  | some (pos, w) =>
    let u := s.lw w 14
    let s1 := (s.twr 0x2001 g 4 u).fwPuts 6 s.loopMbx (256 + g) [⟨u, s.lb w 18 24 8⟩]
    let changed := match s.loop.won.lookup g with
      | some o => o != w
      | none => false
    let s2 := if changed then (s1.tset 0x2001 g 3 16 16 ((s1.tfld 0x2001 g 3 16 16 + 1) % 2 ^ 16)).raiseEv 0x20 4 else s1
    let s3 := ((s2.tset 0x2001 g 3 8 3 pos).tset 0x2001 g 3 0 8 w).loopMod (fun q =>
      { q with won := (g, w) :: q.won.filter (fun e => e.1 != g) })
    (ms.filter (fun l => l != w && s.loopCand l && s.loopMode l == 2 && s.lb l 0 22 1 == 0)).foldl (fun a l =>
      (a.lwSet l 15 u).lflagSet l flLoser true) s3

/-- The first `n` loops of a LOOP_GROUP entry, in order, wrapping from 255 to 0 (R348), and those that ran. -/
def State.loopsRun (s : State) (arg n : Nat) : State × List Nat :=
  (List.range n).foldl (fun (a : State × List Nat) i =>
    let l := (arg + i) % 256
    let x := a.1.loopRun l
    (x.1, if x.2 then l :: a.2 else a.2)) (s, [])

/-- LOOP_GROUP (R348, R357): the covered loops in order, then the groups whose members all ran. -/
def loopGroup (arg : Nat) (s : State) : State :=
  s.entry 0x20 0x06 (·.has arg) (fun s =>
    if !s.bit (bitAt 0x20040 0) then s
    else
      let r := s.loopsRun arg (arg / 256 % 256 + 1)
      (r.1.loopGroups.filter (fun g => (r.1.groupMembers g).all r.2.contains)).foldl (fun a g => a.groupSelect g) r.1)

def execLoopGroup (arg : Nat) (s : State) : Out := .next (loopGroup arg s)

/-! ## Commands (R363, R365, R366) -/

/-- LOOP_CMD.TUNE. -/
def tuneCmd (s : State) : State × Status :=
  let l := s.fld ⟨0x20048, 0, 8⟩
  let u := s.lw l 14
  let amp := s.rd 0x20050
  let hiU := f32Add u amp
  let loU := f32Sub u amp
  let inside := f32Le (s.lw l 9) loU && f32Le hiU (s.lw l 10) && f32Le (s.lw l 9) hiU && f32Le loU (s.lw l 10)
  if s.loop.tune.isSome then (s, .busy)
  else if !s.bit (bitAt 0x20040 0) || !s.loopDef l || s.loopMode l == 0 || (s.loopGroup l).isSome || s.lb l 0 22 1 == 1 then
    (s, .refused)
  else
    match s.loopPv l, (s.loopSp l).1 with
    | some v, some sp =>
      if !inside then (s, .refused)
      else
        let t : TuneSt := { loop := l, bias := u, sp0 := sp, at_ := s.fno, high := none, up := none, lo := v.1, hi := v.1, cycles := [] }
        let s1 := (s.loopMod (fun q => { q with tune := some t })).lflagSet l flTuning true
        let s2 := (s1.tset 0x2002 l 0 28 4 1).tset 0x2002 l 0 24 4 0
        (s2.setF ⟨0x2004C, 0, 9⟩ (256 + l), .ok)
    | _, _ => (s, .refused)

def execTune (s : State) : Out := .next (tuneCmd s).1

/-- TUNE_TIMEOUT (R365): TMO seconds after its start a test aborts. -/
def execTuneTimeout (s : State) : Out :=
  .next <|
    match s.loop.tune with
    | none => s
    | some t => if s.fld ⟨0x20058, 16, 16⟩ * 1000 ≤ s.since t.at_ then s.tuneAbort 2 else s

/-- LOOP_CMD.TUNE_ABORT. -/
def tuneAbortCmd (s : State) : State := s.tuneAbort 1
def execTuneAbort (s : State) : Out := .next (tuneAbortCmd s)

/-- LOOP_CMD.APPLY_PROP: REFUSED unless the proposal of the loop is done. -/
def applyPropCmd (s : State) : State × Status :=
  let l := s.fld ⟨0x20048, 0, 8⟩
  if s.tfld 0x2002 l 0 28 4 = 2 then
    ((s.trecSet 0x2000 l 5 [s.trd 0x2002 l 3, s.trd 0x2002 l 4, s.trd 0x2002 l 5, s.trd 0x2002 l 6]).loopPut l
      (fun k => { k with ret := true }), .ok)
  else (s, .refused)

def execApplyProp (s : State) : Out := .next (applyPropCmd s).1

/-! ## HOLD (R362) -/

/-- The loops that a mask of register `k` names. -/
def maskLoops (k : Nat) (v : Word) : List Nat := ((List.range 32).filter (fun j => wbit v j)).map (fun j => 32 * k + j)

/-- A write of LOOP_HOLD_SET_k; HOLD on the loop under test aborts the test with reason 5. -/
def loopHoldSet (k : Nat) (v : Word) (s : State) : State :=
  (maskLoops (k % 8) v).foldl (fun a l =>
    let b := match a.loop.tune with
      | some t => if t.loop = l then a.tuneAbort 5 else a
      | none => a
    b.lbSet l 0 22 1 1) s

/-- A write of LOOP_HOLD_CLR_k. -/
def loopHoldClr (k : Nat) (v : Word) (s : State) : State :=
  (maskLoops (k % 8) v).foldl (fun a l =>
    (if a.lb l 0 22 1 = 1 then a.loopPut l (fun x => { x with ret := true }) else a).lbSet l 0 22 1 0) s

def execLoopHoldSet (k : Nat) (v : Word) (s : State) : Out := .next (loopHoldSet k v s)
def execLoopHoldClr (k : Nat) (v : Word) (s : State) : Out := .next (loopHoldClr k v s)

/-! ## Records (R359, R360, R368) -/

/-- A loop record as written leaves its group whole (R359): a member stays defined and keeps DIV and PHASE. -/
def State.loopRecOk (s : State) (l : Nat) (ws : List Word) : Bool :=
  let w0 := ws.getD 0 0
  !(s.loopGroup l).isSome || (wbit w0 31 && wbits w0 10 10 == s.loopDiv l && wbits w0 0 10 == s.loopPhase l)

/-- One word of a loop record takes effect (R361, R365): a write of word 0 aborts the loop's test; DEFINED from 0 to 1 and MODE
from OFF make the next execution the first. -/
def State.loopWordWrite (s : State) (l w : Nat) (v : Word) : State :=
  if w = 0 then
    let s1 := match s.loop.tune with
      | some t => if t.loop = l then s.tuneAbort 5 else s
      | none => s
    let fresh := (!s.loopDef l && wbit v 31) || (s.loopMode l == 0 && wbits v 29 2 != 0)
    let s2 := s1.lwSet l 0 (wput (wput v 22 1 (s.lb l 0 22 1)) 20 2 0)
    let s3 := if fresh then s2.loopPut l (fun k => { k with first := true, d := 0, wasAuto := false }) else s2
    s3.lbSet l 18 0 8 ((s3.loopGroup l).getD 0xFF)
  else if w = 11 then (s.lwSet l 11 v).loopPut l (fun k => { k with manWr := true })
  else s.lwSet l w v

/-- A group record as written may stand (R359): the frame tables asked are all eight of the active bank, each up to its END. -/
def State.groupRecOk (s : State) (g : Nat) (ws : List Word) : Bool :=
  if !wbit (ws.getD 0 0) 31 then true
  else
    let ms := (List.range (wbits (ws.getD 0 0) 0 3 + 1)).map (fun i => wbits (ws.getD (1 + i / 4) 0) (8 * (i % 4)) 8)
    let l0 := ms.headD 0
    let split := (List.range 8).any (fun t =>
      (((List.range 4096).map (s.entryAt 0 t)).takeWhile (fun e => e.op != 0x01)).any (fun e => e.op == 0x20 && !groupWhole e.arg ms))
    decide (1 ≤ wbits (ws.getD 0 0) 0 3) && decide ms.Nodup
      && ms.all (fun l => s.loopDef l && s.loopDiv l == s.loopDiv l0 && s.loopPhase l == s.loopPhase l0
          && ((s.loopGroup l).isNone || s.loopGroup l == some g))
      && !split

/-- A group record takes effect. -/
def State.groupWrite (s : State) (g : Nat) (ws : List Word) : State :=
  let s1 := s.trecSet 0x2001 g 0 [ws.getD 0 0 &&& 0x80000007#32, ws.getD 1 0, ws.getD 2 0]
  (s1.loopMod (fun q => { q with won := q.won.filter (fun e => e.1 != g) })).loopGroupFields

/-! ## The tick and the soft reset -/

/-- LOOP_N and the masks LOOP_BAD_k and LOOP_SAT_k. -/
def State.loopTick (s : State) : State :=
  let ls := s.defined 0x2000 0
  let s1 := s.wr 0x20060 (BitVec.ofNat 32 ((ls.filter (fun l => s.loopMode l == 2)).length * 2 ^ 16 + ls.length))
  (List.range 8).foldl (fun a k =>
    let m := fun (f : Nat → Bool) => BitVec.ofNat 32 (((ls.filter (fun l => l / 32 == k && f l)).map (fun l => 2 ^ (l % 32))).foldl (· + ·) 0)
    (a.wr (0x200C0 + 4 * k) (m (fun l => s.lflag l flPvBad))).wr (0x200E0 + 4 * k)
      (m (fun l => s.lflag l flSatHi || s.lflag l flSatLo))) s1

/-- The soft reset of the LOOP page beside R55 (R369). -/
def loopSoftReset (s : State) : State :=
  let s1 := s.tuneAbort 7
  let s2 := ((List.range 256).filter (fun l => s1.lb l 0 22 1 == 1)).foldl (fun a l => a.lbSet l 0 22 1 0) s1
  s2.loopMod (fun q => { q with loops := q.loops.map (fun e => (e.1, { e.2 with first := true, d := 0 })) })

end Sys2Proof.Machine
end

