-- ==== Sys2Proof/Machine/Can.lean ====
section
/-! DEFINITION. The plant buses: modes of a port (R248, R249), message objects (R257 to R260), the reference message (R261),
sleep and wake (R264, R265), error confinement and bus-off (R266 to R268), privileged messages on a port (R269), identifier
clashes (R271, R272), and the I/O-station profile (R273 to R276). Port 0 is C, port 1 is D. -/

namespace Sys2Proof.Machine

/-- A port, and `s` with it changed. -/
def State.canP (s : State) (p : Nat) : CanSt := s.can.getD p CanSt.init
def State.canMod (s : State) (p : Nat) (f : CanSt → CanSt) : State := { s with can := modAt s.can p f }

/-- A field of the CANC page on port `p`'s page, a table of port C on port `p`. -/
def cfld (p off lo w : Nat) : Fld := ⟨0x14000 + 0x1000 * p + off, lo, w⟩
def ctab (p t : Nat) : Nat := 0x1400 + 0x100 * p + t
def canPage (p : Nat) : Nat := 0x14 + p

/-- Counts one in a counter of port `p`. -/
def State.canBump (s : State) (p : Nat) (c : Ctr) : State := s.bump (c.shift p)

/-! ## Modes (R248) -/

/-- CONF: 0 error-active, 1 error-passive, 2 bus-off. -/
def canConf (p : Nat) : Fld := cfld p 0x4C 5 2
def State.busOff (s : State) (p : Nat) : Bool := s.fld (canConf p) == 2

/-- The mode that R248 gives a port from the module's state: 0 off, 2 normal, 3 restricted, 4 monitoring. -/
def State.canRole (s : State) (p : Nat) : Nat :=
  let m := s.mstate
  if !s.bit (cfld p 0x40 0 1) then 0
  else if m = 5 ∨ m = 6 ∨ (m = 0 ∧ s.bootStep < 8 ∧ !s.dev.recovery) then 0
  else if m = 0 ∨ m = 1 then 3
  else if m = 3 then 4
  else if s.bit (cfld p 0x40 1 1) then 3
  else 2

/-- MODE of CANx_STAT: off, integrating, normal, restricted, monitoring, sleep, bus-off. A port without its clock stands as at
bus-off (R23); it is off while loads are shed (R532). -/
def State.canMode (s : State) (p : Nat) : Nat :=
  let r := s.canRole p
  if r = 0 || s.bit (bitAt 0x2040 2) then 0
  else if (s.canP p).sleep then 5
  else if s.busOff p || !s.bit (bitAt 0x3040 (7 + p)) then 6
  else if (s.canP p).integ then 1
  else r

/-- The port is in normal operation, and may send. -/
def State.canSends (s : State) (p : Nat) : Bool := s.canMode p == 2

/-- The port is in internal loopback: TEST and LOOPBACK (R247, R248). -/
def State.canLoop (s : State) (p : Nat) : Bool := s.canMode p == 3 && s.bit (cfld p 0x40 1 1) && s.bit (cfld p 0x40 2 1)

/-- The mode that applies to a frame whose start of frame was at `sof`: the frame that was on the bus when the port ceased to act may still
end (R254, R264); and a standby module takes its frames from the record, whatever its own port does (R249). -/
def State.canModeAt (s : State) (p : Nat) (sof : Nat × Nat) : Nat :=
  if s.mstate = 3 ∧ s.canRole p = 4 then 4
  else
    match (s.canP p).tail with
    | some t => if 0 < ltDiff sof t then s.canRole p else s.canMode p
    | none => s.canMode p

/-- The port receives a frame: in normal, restricted and monitoring mode; in internal loopback it hears itself alone. -/
def State.canHears (s : State) (p : Nat) (sof : Nat × Nat) : Bool := [2, 3, 4].contains (s.canModeAt p sof) && !s.canLoop p

/-- The frame that was on the bus has ended. -/
def State.tailEnd (s : State) (p : Nat) : State := s.canMod p (fun c => { c with tail := none })

/-- The port ceases to act at the tick; the frame then on the bus may end. -/
def State.tailFrom (s : State) (p : Nat) : State :=
  s.canMod p (fun c => { c with tail := if [2, 3, 4].contains (s.canMode p) then some (s.instant 0) else c.tail })

/-! ## Message objects (R257 to R260) -/

/-- Fields of a message object's record. -/
def State.objFld (s : State) (p o w lo n : Nat) : Nat := s.tfld (ctab p 0) o w lo n
def State.objDef (s : State) (p o : Nat) : Bool := s.objFld p o 0 31 1 == 1
def State.objTx (s : State) (p o : Nat) : Bool := s.objFld p o 0 30 1 == 1

/-- The bytes that a DLC stands for (R247). -/
def dlcLen (fdf : Bool) (dlc : Nat) : Nat :=
  if dlc ≤ 8 then dlc else if !fdf then 8 else ([12, 16, 20, 24, 32, 48, 64]).getD (dlc - 9) 64
def State.objLen (s : State) (p o : Nat) : Nat := dlcLen (s.objFld p o 0 28 1 == 1) (s.objFld p o 0 16 4)

/-- Base identifiers reserved on a port (R258): 0x000, CANx_REF_ID and 0x040 to 0x05F. -/
def State.canReserved (s : State) (p : Nat) (ide : Bool) (id : Nat) : Bool :=
  (!ide && (id == 0 || decide (0x40 ≤ id ∧ id < 0x60)))
    || (ide == s.bit (cfld p 0x6C 31 1) && id == s.fld (cfld p 0x6C 0 29))

/-- Byte `b` of the front buffer of a mailbox; bytes lie in their word from the least significant up. -/
def State.mbxByte (s : State) (m b : Nat) : Byte := BitVec.ofNat 8 (wbits (s.mbxItem m (b / 4)).w (8 * (b % 4)) 8)

/-- Bytes from byte `b` of a buffer as items: each word written carries GOOD (R544), and keeps the bytes that are not written. -/
def byteItems (buf : List Item) (b : Nat) (d : List Byte) : List Item :=
  (List.range ((d.length + 3) / 4)).map (fun k =>
    ⟨(List.range (min 4 (d.length - 4 * k))).foldl (fun w j => wput w (8 * j) 8 (d.getD (4 * k + j) 0).toNat)
      (buf.getD (b / 4 + k) Item.init).w, GOOD⟩)

/-- Writes items that the writer does not hold, for the next publication where the mailbox is closed (R29, R259). -/
def State.mbxPutRaw (s : State) (n i : Nat) : List Item → State
  | [] => s
  | it :: its => (s.mbxMod n (fun m => m.putNext i it false)).mbxPutRaw n (i + 1) its

/-- The data of a raw object go byte for byte into its mailbox from byte `b` on, a multiple of 4 (R258, R259): into the back buffer, or
after the close into the buffer that becomes the back buffer at the tick. Words of it that no frame writes keep what they held two
frames earlier (R29). -/
def State.mbxPutBytes (s : State) (n b : Nat) (d : List Byte) : State :=
  match s.mbxOf n with
  | none => s
  | some m =>
    if m.writer = 10 then s.mbxPutRaw n (b / 4) (byteItems (if m.closed then m.front else m.back) b d)
    else s.fwViol 10 (Config.mbxAddr n (b / 4))

/-! ## Stations (R273 to R276, R388) -/

/-- Fields of a station's record. -/
def State.stnFld (s : State) (p t w lo n : Nat) : Nat := s.tfld (ctab p 1) t w lo n
def State.stnState (s : State) (p t : Nat) : Nat := s.stnFld p t 2 29 3
def State.stnDef (s : State) (p t : Nat) : Bool := s.stnFld p t 0 31 1 == 1

/-- What the link engine keeps of a station. -/
def State.stn (s : State) (p t : Nat) : StnSt := ((s.canP p).stn.lookup t).getD StnSt.init
def State.stnMod (s : State) (p t : Nat) (f : StnSt → StnSt) : State :=
  s.canMod p (fun c => { c with stn := (t, f (s.stn p t)) :: c.stn.filter (fun e => e.1 != t) })

/-- The image mailbox of a port. -/
def State.canImg (s : State) (p : Nat) : Nat := s.fld (cfld p 0xF0 0 12)

/-- The substitute of a point while its station is DROPPED or RETURNING (R388). -/
def State.substItem (s : State) (p t i : Nat) : Item :=
  let r := p * 384 + t * 12 + i
  let held := ((s.stn p t).lastGood.lookup i).getD 0
  let mode := s.tfld 0x2105 r 0 30 2
  if mode = 1 then ⟨s.trd 0x2105 r 1, SUBST⟩
  else if mode = 2 then ⟨(s.vrefUsable (s.trd 0x2105 r 1)).getD held, SUBST⟩
  else ⟨held, SUBST⟩

/-- What point `i` of a station publishes in its state (R274). -/
def State.pointItem (s : State) (p t i : Nat) : Item :=
  let it := (s.stn p t).pts.getD i Item.init
  let st := s.stnState p t
  if st = 0 then { it with st := INITQ }
  else if st = 1 then it
  else if st = 2 then
    let was := (s.stn p t).pub.getD i Item.init
    { was with st := withQual was.st STALEQ }
  else s.substItem p t i

/-- Publishes the items of a station into the port's image mailbox (R274, R275), and notes values published GOOD. -/
def State.stnPublish (s : State) (p t : Nat) : State :=
  let st := s.stnState p t
  let d := s.stn p t
  let q := if st = 0 then INITQ else if st = 1 then GOOD else if st = 2 then STALEQ else BAD
  let n := s.stnFld p t 0 12 4
  let its := (List.range n).map (fun i => s.pointItem p t i)
  let s1 := s.fwPutsNext 10 (s.canImg p) (s.stnFld p t 1 0 20)
    (⟨BitVec.ofNat 32 (d.err * 2 ^ 16 + d.rstate * 2 ^ 8 + st), q⟩ :: its)
  s1.stnMod p t (fun d =>
    { d with pub := if st = 1 then its else d.pub, lastGood := (List.range n).foldl (fun l i =>
        let it := its.getD i Item.init
        if qual it.st = GOOD then (i, it.w) :: l.filter (fun e => e.1 != i) else l) d.lastGood })

/-- Sets STATE of a station. -/
def State.stnSet (s : State) (p t st : Nat) : State := s.tset (ctab p 1) t 2 29 3 st

/-- A station returns to INIT (R273, R274, R277). -/
def State.stnInit (s : State) (p t : Nat) : State :=
  let s1 := ((s.stnSet p t 0).tset (ctab p 1) t 2 16 8 0).tset (ctab p 1) t 2 8 8 0
  (s1.stnMod p t (fun d => { d with good := false, ended := false })).stnPublish p t

/-- The evaluation of a station on the cycle just ended (R274); a cycle that overlaps a switch-over gap is not counted as missed
(R467). The entry into DROPPED from MISSING is the step STN_DROP. -/
def State.stnEval (s : State) (p t : Nat) : State :=
  let st := s.stnState p t
  let good := (s.stn p t).ended
  if (s.canP p).gapEnded && !good then s.stnPublish p t
  else
  let miss := if good then 0 else min 255 (s.stnFld p t 2 16 8 + 1)
  let run := if good then min 255 (s.stnFld p t 2 8 8 + 1) else 0
  let s1 := (s.tset (ctab p 1) t 2 16 8 miss).tset (ctab p 1) t 2 8 8 run
  let s2 :=
    if good then
      if st = 0 then (if 2 ≤ run then s1.stnSet p t 1 else s1)
      else if st = 2 then s1.stnSet p t 1
      else if st = 3 then s1.stnSet p t 4
      else if st = 4 then (if 2 ≤ run then (s1.stnSet p t 1).raiseEv (canPage p) 6 else s1)
      else s1
    else if st = 1 then s1.stnSet p t 2
    else if st = 4 then s1.stnSet p t 3
    else s1
  s2.stnPublish p t

/-- A basic cycle ends at the tick and the next begins (R274). -/
def State.canCycle (s : State) (p : Nat) : State :=
  s.canMod p (fun c => { c with gap := false, gapEnded := c.gap,
                                stn := c.stn.map (fun e => (e.1, { e.2 with ended := e.2.good, good := false })) })

/-- The defined stations of a port. -/
def State.stations (s : State) (p : Nat) : List Nat := (List.range 32).filter (fun t => s.stnDef p t)

/-- A station enters DROPPED from MISSING (R274): STN_DROP, CANx_DROP_CNT and DROPS; the truth value says whether it did. -/
def State.stnDrop (s : State) (p t : Nat) : State × Bool :=
  if s.stnDef p t && s.stnState p t == 2 && decide (s.stnFld p t 0 0 8 ≤ s.stnFld p t 2 16 8) then
    let s1 := ((s.stnSet p t 3).raiseEv (canPage p) 5).canBump p .CANC_DROP
    let n := s1.stnFld p t 3 0 16 + 1
    let s2 := if 65535 ≤ n then (s1.tset (ctab p 1) t 3 0 16 65535).tset (ctab p 1) t 3 31 1 1 else s1.tset (ctab p 1) t 3 0 16 n
    (s2.stnPublish p t, true)
  else (s, false)

/-- CANx_CMD.STN_RESET (R274): INIT, and DROPS cleared. -/
def stnResetCmd (p : Nat) (s : State) : State :=
  let t := s.fld (cfld p 0x48 0 5)
  (s.stnInit p t).twr (ctab p 1) t 3 0
def execStnReset (p : Nat) (s : State) : Out := .next (stnResetCmd p s)

/-- The output message of a station (R276), built from the front buffers; its CNT advances. -/
def State.outMsg (s : State) (p t : Nat) : List Byte × State :=
  let n := s.stnFld p t 0 8 4
  let refs := (List.range n).map (fun i => s.vref (s.trd (ctab p 2) (t * 12 + i) 0))
  let safe := refs.any (fun r => match r with
    | none => true
    | some it => !usableSt it.st)
  let cnt := ((s.stn p t).outCnt + 1) % 256
  let pts := refs.flatMap (fun r =>
    let it := r.getD Item.init
    beBytes 1 it.st ++ beBytes 4 it.w.toNat)
  (beBytes 1 (b2n safe) ++ beBytes 1 cnt ++ beBytes 1 (s.stnFld p t 0 17 1) ++ [0] ++ pts,
   s.stnMod p t (fun d => { d with outCnt := cnt }))

/-- The station that an object serves as output, or as input. -/
def State.stnOfOut (s : State) (p o : Nat) : Option Nat :=
  (s.stations p).find? (fun t => s.stnFld p t 0 30 1 == 1 && s.stnFld p t 0 18 6 == o)
def State.stnOfIn (s : State) (p o : Nat) : Option Nat := (s.stations p).find? (fun t => s.stnFld p t 0 24 6 == o)

/-! ## CAN_TX (R260, R249, R268) -/

/-- Pads data with 0x00 to a length. -/
def padTo (n : Nat) (l : List Byte) : List Byte := l ++ List.replicate (n - l.length) 0

/-- CAN_TX: captures an object's data and leaves the object pending; in bus monitoring nothing pends (R250).
The digest of the frame covers the captured frame (R460). -/
def State.canTx (s : State) (p o : Nat) : State :=
  if !s.objDef p o || !s.objTx p o || s.objFld p o 7 30 1 == 1 then s
  else
    let len := s.objLen p o
    let r : List Byte × State :=
      if s.objFld p o 0 22 2 = 0 then
        ((List.range len).map (fun i => s.mbxByte (s.objFld p o 3 20 12) (s.objFld p o 3 0 16 + i)), s)
      else match s.stnOfOut p o with
        | some t =>
          let m := s.outMsg p t
          (padTo len m.1, m.2)
        | none => (List.replicate len 0, s)
    let s1 : State := { r.2 with twin := { r.2.twin with cans := r.2.twin.cans ++ [(p, s.objFld p o 1 0 29, r.1)] } }
    if s1.canRole p = 4 then s1
    else
      let s2 := if s1.objFld p o 7 29 1 = 1 then s1.canBump p .CANC_TX_REFRESH else s1
      let since := ((s2.canP p).pend.lookup o).map (·.2)
      (s2.tset (ctab p 0) o 7 29 1 1).canMod p (fun c =>
        { c with pend := (o, r.1, since.getD (s2.instant s2.issueNs)) :: c.pend.filter (fun e => e.1 != o) })

/-- CAN_TX (R260): bits 6..1 the object, bit 0 the port. -/
def execCanTx (arg : Nat) (s : State) : Out :=
  .next (s.entry 0x49 0x0A (·.has arg) (fun s =>
    match s.entryIdx arg 1 6 with
    | none => s
    | some o => s.canTx (arg % 2) o))

/-- Withdraws the pending transmission of an object. -/
def State.canWithdraw (s : State) (p o : Nat) : State :=
  (s.tset (ctab p 0) o 7 29 1 0).canMod p (fun c => { c with pend := c.pend.filter (fun e => e.1 != o) })

/-! ## CAN_REF (R261) -/

/-- The reference message of the basic cycle that starts at the tick. -/
def State.refBytes (s : State) (p : Nat) : List Byte :=
  let c := s.canP p
  let dly := c.refDly.getD (2 ^ 32 - 1)
  let flags := s.fld ⟨0x4048, 0, 3⟩ % 4 + b2n (s.seq.trunc || s.seq.ext) * 4 + b2n c.first * 8
  let b := beBytes 4 (s.nowSec % 2 ^ 32) ++ beBytes 4 s.nowNs ++ beBytes 4 dly ++ beBytes 1 (s.frame / 10) ++ beBytes 1 flags
    ++ [0, 0]
  if s.bit (cfld p 0x40 5 1) then b.take 8 else b

/-- The reference of an earlier cycle that has not gone out is withdrawn and counted (R261). -/
def State.canRefLost (s : State) (p : Nat) : State :=
  if (s.canP p).ref.isSome then
    ((s.canBump p .CANC_REF_LOST).wr (cfld p 0x74 0 32).addr 0xFFFFFFFF).canMod p (fun c => { c with ref := none, refDly := none })
  else s

/-- Queues the reference of the cycle. -/
def State.canQueueRef (s : State) (p : Nat) : State :=
  let m := s.refBytes p
  s.canMod p (fun c => { c with ref := some (m, (s.nowSec % 2 ^ 32, s.nowNs), s.instant s.issueNs) })

/-- CAN_REF (R261, R264, R274): a reference that has not gone out is lost; with REF_EN in normal operation the next is queued; then the
stations are evaluated, but not while the port sleeps. -/
def State.canRef (s : State) (p : Nat) : State :=
  let s0 := s.canRefLost p
  let s1 := if s0.bit (cfld p 0x40 4 1) && s0.canRole p == 2 && !(s0.canP p).sleep then s0.canQueueRef p else s0
  if (s1.canP p).sleep then s1 else (s1.stations p).foldl (fun a t => a.stnEval p t) s1

def execCanRef (arg : Nat) (s : State) : Out := .next (s.entry 0x48 0x0A (·.has arg) (fun s => s.canRef (arg % 2)))

/-! ## Receiving (R247, R253, R258, R259, R263) -/

/-- Records an identifier in CANx_CLASH: VALID, SUSPECT, REF or FOREIGN. -/
def State.canClash (s : State) (p : Nat) (suspect ref : Bool) (id : Nat) : State :=
  s.wr (cfld p 0x88 0 32).addr (BitVec.ofNat 32 (2 ^ 31 + b2n suspect * 2 ^ 30 + b2n ref * 2 ^ 29 + id % 2 ^ 29))

/-- EWARN and the return to error-active once both counters are below 128 (R266). -/
def State.canConfine (s : State) (p : Nat) : State :=
  let t := s.fld (cfld p 0x60 16 9)
  let r := s.fld (cfld p 0x60 0 8)
  let s1 := s.setB (cfld p 0x4C 7 1) (decide (96 ≤ t ∨ 96 ≤ r))
  if s1.fld (canConf p) = 1 ∧ t < 128 ∧ r < 128 then s1.setF (canConf p) 0 else s1

/-- An error-free reception lowers the receive error counter, but not in restricted operation (R249, R266); `m`, the mode of the port. -/
def State.canRxOk (s : State) (p m : Nat) : State :=
  let s1 := s.canBump p .CANC_RX_OK
  if m ≠ 2 then s1
  else
    let r := s1.fld (cfld p 0x60 0 8)
    if r = 0 then s1
    else if r ≤ 127 then (s1.setF (cfld p 0x60 0 8) (r - 1)).canConfine p
    else ((s1.setF (cfld p 0x60 0 8) (119 + (Config.canRec s1.free).toNat)).useFree).canConfine p

/-- The object that receives a frame (R259). -/
def State.canMatch (s : State) (p : Nat) (f : CanFrame) : Option Nat :=
  (List.range 64).find? (fun o =>
    s.objDef p o && !s.objTx p o && (s.objFld p o 0 28 1 == b2n f.fdf)
      && (s.objFld p o 2 31 1 == 1 || s.objFld p o 0 29 1 == b2n f.ide)
      && ((BitVec.ofNat 32 f.id ^^^ BitVec.ofNat 32 (s.objFld p o 1 0 29)) &&& BitVec.ofNat 32 (s.objFld p o 2 0 29)) == 0)

/-- Decodes a station's input message (R275) and publishes it where its state says so. -/
def State.stnInput (s : State) (p t : Nat) (d : List Byte) : State :=
  let st := beAt d 0 1
  let cnt := beAt d 1 1
  let n := s.stnFld p t 0 12 4
  let good := (st = 1 ∨ st = 2) ∧ cnt ≠ s.stnFld p t 2 0 8
  let s1 := (s.tset (ctab p 1) t 2 0 8 cnt).stnMod p t (fun x =>
    { x with good := x.good || decide good, rstate := st, err := beAt d 2 2,
             pts := (List.range n).map (fun i => ⟨beWord d (5 + 5 * i) 4 true, beAt d (4 + 5 * i) 1 % 64⟩) })
  s1.stnPublish p t

/-- A frame that a receive object accepts. -/
def State.canAccept (s : State) (p o : Nat) (f : CanFrame) : State :=
  let s1 := ((s.twr (ctab p 0) o 4 (s.trd (ctab p 0) o 4 + 1)).twr (ctab p 0) o 5 (BitVec.ofNat 32 f.sofSec)).twr (ctab p 0) o 6
    (BitVec.ofNat 32 f.sofNs)
  if s1.objFld p o 0 22 2 = 0 then s1.mbxPutBytes (s1.objFld p o 3 20 12) (s1.objFld p o 3 0 16) f.data
  else match s1.stnOfIn p o with
    | none => s1
    | some t => s1.stnInput p t f.data

/-- Error counters of a port after an error (R266; the increments are those of ISO 11898-1, PRESUMED): `tx`, `rx` are added, held at the
width of CANx_ERR. -/
def State.canErrAdd (s : State) (p tx rx : Nat) : State :=
  ((s.setF (cfld p 0x60 16 9) (min 511 (s.fld (cfld p 0x60 16 9) + tx))).setF (cfld p 0x60 0 8)
    (min 255 (s.fld (cfld p 0x60 0 8) + rx))).canConfine p

/-- An FD frame on a port without FD_EN (R247, R253): a protocol exception, after which the port waits for 11 recessive bits, or a form
error. -/
def State.canNoFd (s : State) (p m id : Nat) : State :=
  if s.bit (cfld p 0x40 7 1) then (s.canBump p .CANC_PEX).canMod p (fun c => { c with integ := c.integ || m != 4 || s.mstate != 3 })
  else
    let s1 := (s.canBump p .CANC_FORM_ERR).wr (cfld p 0x64 0 32).addr (BitVec.ofNat 32 (2 * 2 ^ 29 + id % 2 ^ 29))
    if m = 2 then s1.canErrAdd p 0 1 else s1

/-- The part of a reception that every frame without error shares: an FD frame on a port without FD_EN, remote frames, foreign
references; `m`, the mode of the port, `k` what follows for a data frame that reaches the receive side. -/
def State.canTake (s : State) (f : CanFrame) (m : Nat) (k : State → State) : State :=
  let p := f.port
  if f.fdf && !s.bit (cfld p 0x40 6 1) then s.canNoFd p m f.id
  else
    let s1 := (s.canRxOk p m).canMod p (fun c => { c with suspect := c.suspect.filter (fun e => e.1 != f.id) })
    if f.remote then s1.canBump p .CANC_RX_REMOTE
    else if !(f.ide) && f.id == 0 || (f.ide == s1.bit (cfld p 0x6C 31 1) && f.id == s1.fld (cfld p 0x6C 0 29)) then
      if m = 4 then s1 else (s1.canClash p false true f.id).raiseEv (canPage p) 9
    else k s1

/-- A frame received from the bus. -/
def State.canRx (s : State) (f : CanFrame) (k : State → State) : State :=
  let p := f.port
  let sof := (f.sofSec, f.sofNs)
  if decide (2 ≤ p) || !s.canHears p sof then s
  else ((s.canTake f (s.canModeAt p sof) k)).tailEnd p

/-- What a data frame does at the receive side (R259). -/
def State.canObjRx (s : State) (f : CanFrame) : State :=
  let p := f.port
  if s.canReserved p f.ide f.id then s
  else
    match s.canMatch p f with
    | none => s.canBump p .CANC_RX_UNMATCHED
    | some o => if f.data.length = s.objLen p o then s.canAccept p o f else s.canBump p .CANC_LEN_MISMATCH

/-- CAN_FRAME_RX (R259). -/
def execCanFrameRx (f : CanFrame) (s : State) : Out := .next (s.canRx f (fun s => s.canObjRx f))

/-! ## Privileged messages on a port (R269) -/

/-- PATHS of a channel names the port, and the port could take a message. -/
def State.privTakes (s : State) (p ch : Nat) : Bool := s.tfld 0x2600 ch 0 (24 + p) 1 == 1 && s.canSends p

/-- The pending privileged messages of a port move to the other port where it can take them. -/
def State.privMove (s : State) (p : Nat) : State :=
  let q := 1 - p
  let go := (s.canP p).priv.filter (fun m => s.privTakes q m.ch)
  let s1 := (s.canMod p (fun c => { c with priv := c.priv.filter (fun m => !s.privTakes q m.ch), privRun := 0 })).canMod q
    (fun c => { c with priv := c.priv ++ go })
  go.foldl (fun a _ => (a.canBump p .CANC_PRIV_MOVED).raiseEv (canPage p) 10) s1

/-! ## Sending (R260, R261, R266) -/

/-- The place of a frame in arbitration, lowest first: the base identifier, a base frame before an extended one, the extension (R260). -/
def arbKey (ide : Bool) (id : Nat) : Nat := if ide then id / 2 ^ 18 * 2 ^ 20 + 2 ^ 19 + id % 2 ^ 18 else id * 2 ^ 20

/-- An instant in ns of elapsed frames, as LT64. -/
def State.ltOf (s : State) (t : Nat) : Nat × Nat :=
  let d : Int := (s.nowSec : Int) * 1000000000 + s.nowNs + t - s.fno * 1000000
  ((Int.fdiv d 1000000000 % 2 ^ 32).toNat, (Int.fmod d 1000000000).toNat)

/-- What waits on a port and may be sent, as item, place in arbitration and the instant since which it waits: objects, 64 the reference, 65 a
privileged message; no FD frame with FD_EN 0 (R253). -/
def State.canWaiting (s : State) (p : Nat) : List (Nat × Nat × Nat × Nat) :=
  let c := s.canP p
  let fdOk := fun (fd : Bool) => !fd || s.bit (cfld p 0x40 6 1)
  (match c.priv with
   | m :: _ => if fdOk true then [(65, 0, s.ltOf m.at_)] else []
   | [] => [])
  ++ (match c.ref with
   | some r => if fdOk (!s.bit (cfld p 0x40 5 1)) then [(64, arbKey (s.bit (cfld p 0x6C 31 1)) (s.fld (cfld p 0x6C 0 29)), r.2.2)] else []
   | none => [])
  ++ (c.pend.filter (fun e => fdOk (s.objFld p e.1 0 28 1 == 1))).map (fun e =>
    (e.1, arbKey (s.objFld p e.1 0 29 1 == 1) (s.objFld p e.1 1 0 29), e.2.2))

/-- Whether `x` goes out before `y` when both wait: the lower identifier; of one identifier the privileged message, the reference, then the
lower object (R260). -/
def sendsFirst (x y : Nat × Nat × Nat × Nat) : Bool :=
  let rank := fun (i : Nat) => if 64 ≤ i then 65 - i else i + 2
  decide (x.2.1 < y.2.1) || (x.2.1 == y.2.1 && decide (rank x.1 ≤ rank y.1))

/-- The item may have been sent with its start of frame at `sof`: it waits, and nothing that waited then goes before it. -/
def State.canNext (s : State) (p item : Nat) (sof : Nat × Nat) : Bool :=
  let l := s.canWaiting p
  match l.find? (fun x => x.1 == item) with
  | none => false
  | some x => l.all (fun y => sendsFirst x y || !decide (0 < ltDiff y.2.2 sof))

/-- The port sends the frame whose start of frame was at `sof`: normal operation, or internal loopback, where it hears itself. -/
def State.canSendsAt (s : State) (p : Nat) (sof : Nat × Nat) : Bool := s.canModeAt p sof == 2 || s.canLoop p

/-- A frame has been sent: the transmit error counter falls, and it is counted. In internal loopback nothing reaches the bus: the port
receives the frame itself, and its error counters stay (R247, R249). -/
def State.canOut (s : State) (p item : Nat) (ide fdf brs : Bool) (id : Nat) (d : List Byte) (sof : Nat × Nat) : State :=
  let s1 := (s.canBump p .CANC_TX_OK).tailEnd p
  if s1.canLoop p then
    let f : CanFrame := { port := p, ide := ide, fdf := fdf, brs := brs, esi := false, remote := false, id := id, data := d,
                          sofSec := sof.1, sofNs := sof.2 }
    (s1.canRxOk p 3).canObjRx f
  else
    let e := s1.fld (canConf p) == 1
    (((s1.setF (cfld p 0x60 16 9) (s1.fld (cfld p 0x60 16 9) - 1)).canConfine p)).emit (.can p item ide fdf brs (fdf && e) id d)

/-- The transmitter delay measured in a frame with BRS (R255): the first edge at or after TDCF CAN clock periods is the measured delay, which
CANx_TDC_MEAS shows, held at its width; the secondary sample point lies TDCO later, held at 127 with TDC_SAT. -/
def State.canTdc (s : State) (p : Nat) (edges : List Nat) : State :=
  match edges.find? (fun e => decide (s.fld (cfld p 0x58 16 7) ≤ e)) with
  | none => s
  | some d => (s.setF (cfld p 0x5C 0 7) (min 127 d)).setB (cfld p 0x4C 11 1) (decide (127 < d + s.fld (cfld p 0x58 0 7)))

/-- CAN_FRAME_TX_DONE: a pending frame has been sent: object 0 to 63, 64 the reference, 65 the oldest privileged message, whose
latency is judged (R283); `edges`, the edges seen while the transmitter delay was measured, in CAN clock periods. A frame that another waiting
frame would have beaten in arbitration cannot have been sent (R260). -/
def State.canSent (s : State) (p item : Nat) (sof : Nat × Nat) (edges : List Nat) (ns : Nat) : State :=
  let c := s.canP p
  if decide (2 ≤ p) || !s.canSendsAt p sof || !s.canNext p item sof then s
  else if item = 65 then
    match c.priv with
    | [] => s
    | m :: rest =>
      let slow := decide (1000 * s.fld ⟨0x2605C, 16 * p, 16⟩ < s.fno * 1000000 + ns - m.at_)
      (s.canMod p (fun c => { c with priv := rest, privRun := 0, latBad := slow })).canOut p 65 false true false 0 m.data sof
  else if item = 64 then
    match c.ref with
    | none => s
    | some (b, start, _) =>
      let d := ltDiff start sof
      let s1 := (s.canMod p (fun c => { c with ref := none, refDly := some d.toNat, refRun := 0, first := false })).wr
        (cfld p 0x74 0 32).addr (ofInt d)
      (s1.canBump p .CANC_REF).canOut p 64 (s1.bit (cfld p 0x6C 31 1)) (!s1.bit (cfld p 0x40 5 1)) false (s1.fld (cfld p 0x6C 0 29)) b sof
  else
    match c.pend.lookup item with
    | none => s
    | some (d, _) =>
      let s1 := s.canWithdraw p item
      let s2 := (((s1.twr (ctab p 0) item 4 (s1.trd (ctab p 0) item 4 + 1)).twr (ctab p 0) item 5 (BitVec.ofNat 32 sof.1)).twr
        (ctab p 0) item 6 (BitVec.ofNat 32 sof.2)).tset (ctab p 0) item 7 0 2 0
      let fd := s2.objFld p item 0 28 1 == 1
      let brs := fd && s2.objFld p item 0 27 1 == 1
      let s3 := if brs && s2.bit (cfld p 0x58 31 1) then s2.canTdc p edges else s2
      s3.canOut p item (s3.objFld p item 0 29 1 == 1) fd brs (s3.objFld p item 1 0 29) d sof

def execCanFrameTxDone (p item sofSec sofNs : Nat) (edges : List Nat) (ns : Nat) (s : State) : Out :=
  .next (s.canSent p item (sofSec, sofNs) edges ns)

/-! ## Errors (R266, R267, R271, R272) -/

/-- The counter of an error's kind. -/
def errCtr (k : Nat) : Ctr :=
  if k = 1 then .CANC_STUFF_ERR else if k = 2 then .CANC_FORM_ERR else if k = 3 then .CANC_ACK_ERR
  else if k = 6 then .CANC_CRC_ERR else .CANC_BIT_ERR

/-- What an error adds to the counters (R266): of a transmitter 8, but nothing for an acknowledge error in error-passive without dominant
bits in its flag, or for a stuff error during arbitration; of a receiver 1; and 8 for each further run of dominant bits. PRESUMED: the rules of
ISO 11898-1, which R266 names. -/
def State.canErrStep (s : State) (e : CanErr) : State :=
  if e.own.isSome then
    let free := (e.kind == 3 && s.fld (canConf e.port) == 1 && e.dom == 0) || (e.kind == 1 && e.id == 0 && !e.inData)
    s.canErrAdd e.port ((if free then 0 else 8) + 8 * e.dom) 0
  else s.canErrAdd e.port 0 (1 + 8 * e.dom)

/-- CAN_ERROR (R249, R266, R271, R272): counts the error, advances the error counters except in restricted operation, and
advances ERR_RUN of the port's own frame, or the run of a received identifier, for an error in a data field. -/
def State.canError (s : State) (e : CanErr) : State :=
  let p := e.port
  if decide (2 ≤ p) || !s.canHears p (s.instant 0) || e.kind == 0 || decide (6 < e.kind) then s
  else
    let s1 := (s.canBump p (errCtr e.kind)).wr (cfld p 0x64 0 32).addr (BitVec.ofNat 32 (e.kind * 2 ^ 29 + e.id % 2 ^ 29))
    let s2 := if s1.canMode p = 2 then s1.canErrStep e else s1
    if !e.inData then s2
    else
      match e.own with
      | some o =>
        if o = 64 then s2.canMod p (fun c => { c with refRun := min 3 (c.refRun + 1) })
        else if o = 65 then s2.canMod p (fun c => { c with privRun := min 3 (c.privRun + 1) })
        else s2.tset (ctab p 0) o 7 0 2 (min 3 (s2.objFld p o 7 0 2 + 1))
      | none =>
        s2.canMod p (fun c =>
          let r := (c.suspect.lookup e.id).getD (0, false)
          { c with suspect := (e.id, r.1 + 1, r.2) :: c.suspect.filter (fun x => x.1 != e.id) })

def execCanError (e : CanErr) (s : State) : Out := .next (s.canError e)

/-- ERR_PASSIVE (R266): either counter has reached 128. -/
def execErrPassive (p : Nat) (s : State) : Out :=
  .next <|
    if decide (p < 2) && s.fld (canConf p) == 0 && (decide (128 ≤ s.fld (cfld p 0x60 16 9)) || decide (128 ≤ s.fld (cfld p 0x60 0 8)))
    then ((s.setF (canConf p) 1).canBump p .CANC_PASSIVE).raiseEv (canPage p) 2
    else s

/-- The count towards recovery starts at 0 (R254, R267). -/
def State.boffZero (s : State) (p : Nat) : State :=
  (s.canMod p (fun c => { c with boff := 0, boffAt := s.ownFno })).setF (cfld p 0x68 0 8) 0

/-- CAN clock periods in a nominal bit (R251). -/
def State.bitClocks (s : State) (p : Nat) : Nat :=
  (s.fld (cfld p 0x50 16 9) + 1) * (1 + (s.fld (cfld p 0x50 8 8) + 1) + (s.fld (cfld p 0x50 0 7) + 1))

/-- A port stops as at bus-off (R23, R267): pending objects stay pending, privileged messages move (R269). -/
def State.canBusOff (s : State) (p : Nat) : State :=
  let s1 := (((s.setF (canConf p) 2).canBump p .CANC_BOFF).boffZero p)
  (s1.raiseEv (canPage p) 0).privMove p

/-- BUS_OFF (R267): the transmit error counter exceeds 255. -/
def execBusOff (p : Nat) (s : State) : Out :=
  .next (if decide (p < 2) && !s.busOff p && decide (255 < s.fld (cfld p 0x60 16 9)) then s.canBusOff p else s)

/-- BOFF_RECOVERED (R267): after 128 occurrences of 11 recessive bits, which take at least 1,408 nominal bit times; in frames, since the tick
before the count began. -/
def execBoffRecovered (p : Nat) (s : State) : Out :=
  .next <|
    if decide (p < 2) && s.busOff p && decide (1408 * s.bitClocks p * 25 ≤ (s.ownSince (s.canP p).boffAt + 1) * 2000000) then
      ((((s.setF (canConf p) 0).wr (cfld p 0x60 0 32).addr 0).boffZero p).canConfine p).raiseEv (canPage p) 1
    else s

/-- ID_CLASH (R271): three consecutive data-field errors stop an object, withdraw the cycle's reference, or move a privileged
message. -/
def execIdClash (p item : Nat) (s : State) : Out :=
  .next <|
    if 2 ≤ p then s
    else if item = 64 then
      if (s.canP p).refRun < 3 then s
      else
        let s1 := s.canMod p (fun c => { c with ref := none, refRun := 0, refDly := none })
        ((s1.canBump p .CANC_CLASH).canClash p false true (s1.fld (cfld p 0x6C 0 29))).raiseEv (canPage p) 3
    else if item = 65 then
      if (s.canP p).privRun < 3 then s
      else (((s.canBump p .CANC_CLASH).canClash p false false 0).raiseEv (canPage p) 3).privMove p
    else if s.objFld p item 7 0 2 < 3 ∨ s.objFld p item 7 30 1 = 1 then s
    else
      let s1 := (s.canWithdraw p item).tset (ctab p 0) item 7 30 2 3
      ((s1.canBump p .CANC_CLASH).canClash p false false (s1.objFld p item 1 0 29)).raiseEv (canPage p) 3

/-- ID_CLASH_SUSPECT (R272): once for each run. -/
def execIdClashSuspect (p id : Nat) (s : State) : Out :=
  .next <|
    match (s.canP p).suspect.lookup id with
    | none => s
    | some (n, told) =>
      if decide (2 ≤ p) || told || decide (n < 3) then s
      else
        let s1 := s.canMod p (fun c => { c with suspect := (id, n, true) :: c.suspect.filter (fun x => x.1 != id) })
        ((s1.canBump p .CANC_SUSPECT).canClash p true false id).raiseEv (canPage p) 4

/-! ## Sleep and wake (R264, R265), integration (R254) -/

/-- CANx_CMD.SLEEP: the frame on the bus may end; no effect on a port already asleep. -/
def sleepCmd (p : Nat) (s : State) : State :=
  if (s.canP p).sleep then s else ((s.tailFrom p).canMod p (fun c => { c with sleep := true })).privMove p
def execSleep (p : Nat) (s : State) : Out := .next (sleepCmd p s)

/-- The port wakes and integrates; its next reference is that of the next CAN_REF. -/
def State.canWake (s : State) (p : Nat) : State :=
  if (s.canP p).sleep then
    ((s.canRefLost p).canMod p (fun c => { c with sleep := false, integ := true, tail := none })).raiseEv (canPage p) 7
  else s

/-- CANx_CMD.WAKE. -/
def wakeCmd (p : Nat) (s : State) : State := s.canWake p
def execWake (p : Nat) (s : State) : Out := .next (wakeCmd p s)

/-- The frame matches the wake registers. -/
def State.wakeFrame (s : State) (p : Nat) (f : CanFrame) : Bool :=
  let dm := s.rd (cfld p 0x84 0 32).addr
  let need := if wbits dm 0 8 ≠ 0 then 4 else if wbits dm 8 8 ≠ 0 then 3 else if wbits dm 16 8 ≠ 0 then 2
    else if wbits dm 24 8 ≠ 0 then 1 else 0
  (f.ide == s.bit (cfld p 0x78 31 1))
    && ((BitVec.ofNat 32 f.id ^^^ BitVec.ofNat 32 (s.fld (cfld p 0x78 0 29))) &&& BitVec.ofNat 32 (s.fld (cfld p 0x7C 0 29))) == 0
    && decide (need ≤ f.data.length)
    && ((BitVec.ofNat 32 (be (padTo 4 (f.data.take 4))) ^^^ s.rd (cfld p 0x80 0 32).addr) &&& dm) == 0

/-- BUS_WAKE (R265): in normal service a dominant level longer than WAKE_FILT; in start-up, test and recovery the wake frame. -/
def execBusWake (p domNs : Nat) (f : Option CanFrame) (s : State) : Out :=
  .next <|
    if decide (2 ≤ p) || s.canRole p == 0 then s
    else if s.canRole p = 3 then
      match f with
      | none => s
      | some f => if s.wakeFrame p f then s.canWake p else s
    else if s.fld (cfld p 0x40 8 4) * 500 < domNs then s.canWake p else s

/-- CAN_INTEGRATED (R254, R265): 11 recessive bits seen, the port enters its mode. -/
def execCanIntegrated (p : Nat) (s : State) : Out :=
  .next (if s.canMode p = 1 then s.canMod p (fun c => { c with integ := false, tail := none }) else s)

/-! ## Bit timing and records: what a commit or a table write must meet (R252, R253, R257, R258, R273) -/

/-- R252 on the words of CANx_NBT, CANx_DBT and CANx_TDC. -/
def canTimingOk (nbt dbt tdc : Word) (fd : Bool) : Bool :=
  let sjw := wbits nbt 25 7 + 1
  let t1 := wbits nbt 8 8 + 1
  let t2 := wbits nbt 0 7 + 1
  let n := (wbits nbt 16 9 + 1) * (1 + t1 + t2)
  let d1 := wbits dbt 16 5 + 1
  let d2 := wbits dbt 8 4 + 1
  let dj := wbits dbt 0 4 + 1
  let m := (wbits dbt 24 5 + 1) * (1 + d1 + d2)
  decide (2 ≤ t1) && decide (80 ≤ n ∧ n ≤ 640) && decide (sjw ≤ t1 ∧ sjw ≤ t2)
    && (!fd || (decide (m ≤ n ∧ 16 ≤ m) && decide (dj ≤ d1 ∧ dj ≤ d2) && (decide (80 ≤ m) || wbit tdc 31)))

/-- R253: FD_EN may become 0 with this CANx_CTRL. -/
def State.canFdOffOk (s : State) (p : Nat) (ctrl : Word) : Bool :=
  wbit ctrl 5
    && (List.range 64).all (fun o => !(s.objDef p o && s.objFld p o 0 28 1 == 1))
    && (List.range 32).all (fun ch => !(s.tfld 0x2600 ch 0 31 1 == 1 && s.tfld 0x2600 ch 0 (24 + p) 1 == 1))

/-- The ERR_CODE of a commit of the page that would leave these words; 0 where it may apply (R252, R253). -/
def State.canCommitErr (s : State) (p : Nat) (ctrl nbt dbt tdc : Word) : Nat :=
  if !canTimingOk nbt dbt tdc (wbit ctrl 6) then 1
  else if !wbit ctrl 6 && !s.canFdOffOk p ctrl then 2
  else 0

/-- Timing has changed at a tick (R254): the frame in progress may end, then the port integrates; a bus-off port restarts its recovery
count. -/
def State.canRetimed (s : State) (p : Nat) : State :=
  let s1 := (s.tailFrom p).canMod p (fun c => { c with integ := true })
  if s1.busOff p then s1.boffZero p else s1

/-- A message object record may be written (R253, R257, R258). -/
def State.canObjOk (s : State) (p : Nat) (ws : List Word) : Bool :=
  let w0 := ws.getD 0 0
  let w1 := ws.getD 1 0
  let mb := wbits (ws.getD 3 0) 20 12
  (!wbit w0 28 || s.bit (cfld p 0x40 6 1))
    && !(wbit w0 30 && s.canReserved p (wbit w0 29) (wbits w1 0 29))
    && (!(wbit w0 31 && wbits w0 22 2 == 0) ||
        (match s.mbxOf mb with
         | none => false
         | some m => if wbit w0 30 then m.readers / 2 ^ 10 % 2 == 1 else m.writer == 10))

/-- A message object record has been written: its pending transmission is withdrawn, CLASH, STOPPED and ERR_RUN clear. -/
def State.canObjWritten (s : State) (p o : Nat) : State :=
  ((s.canWithdraw p o).tset (ctab p 0) o 7 30 2 0).tset (ctab p 0) o 7 0 2 0

/-- A station record may be written (R273). -/
def State.canStnOk (s : State) (p t : Nat) (ws : List Word) : Bool :=
  let w := ws.getD 0 0
  let i := wbits w 24 6
  let o := wbits w 18 6
  let fits := fun (x pts prof : Nat) (tx : Bool) =>
    s.objDef p x && s.objTx p x == tx && s.objFld p x 0 22 2 == prof && s.objFld p x 0 28 1 == 1
      && decide (4 + 5 * pts ≤ s.objLen p x)
  let others := (s.stations p).filter (fun u => u != t)
  let used := others.flatMap (fun u => s.stnFld p u 0 24 6 :: (if s.stnFld p u 0 30 1 = 1 then [s.stnFld p u 0 18 6] else []))
  !wbit w 31 || (fits i (wbits w 12 4) 1 false && !used.contains i
    && (!wbit w 30 || (fits o (wbits w 8 4) 2 true && !used.contains o)))

/-! ## Soft reset and ticks (R277) -/

/-- The soft reset of the page beside R55. -/
def State.canSoftReset (s : State) (p : Nat) : State :=
  let s1 := (s.canP p).pend.foldl (fun a e => a.tset (ctab p 0) e.1 7 29 1 0) s
  let s2 := s1.canMod p (fun c => { c with integ := true, sleep := false, tail := none, pend := [], ref := none })
  let s3 := (((s2.wr (cfld p 0x60 0 32).addr 0).setF (canConf p) 0).boffZero p).canConfine p
  ((s3.stations p).foldl (fun a t => a.stnInit p t) s3).privMove p

/-- CANx_BOFF_RCV at a tick (R267): how many more recessive sequences a bus-off port has seen since the last tick is free, below 128 in
all. -/
def State.boffShow (s : State) (p : Nat) : State :=
  let c := s.canP p
  if s.busOff p && decide (0 < s.ownSince c.boffAt) then
    let n := c.boff + Config.boffSeen s.free % (128 - c.boff)
    ((s.canMod p (fun c => { c with boff := n })).setF (cfld p 0x68 0 8) n).useFree
  else s

/-- CANx_STAT and the summaries of a port, at a tick. -/
def State.canTick (s : State) (p : Nat) : State :=
  let n := s.bitClocks p
  let wf := (s.canP p).sleep && s.canRole p == 3
  let mask := fun (l : List Nat) (f : Nat → Bool) => BitVec.ofNat 32 (l.foldl (fun v i => v + b2n (f i) * 2 ^ (i % 32)) 0)
  let s1 := ((((s.setF (cfld p 0x4C 0 3) (s.canMode p)).setB (cfld p 0x4C 8 1) (s.bit (cfld p 0x40 3 1) && decide (n < 640))).setB
    (cfld p 0x4C 9 1) wf).setB (cfld p 0x4C 10 1) (!(s.canP p).priv.isEmpty))
  let lo := List.range 32
  let hi := lo.map (· + 32)
  let a := fun (o : Nat) => (cfld p o 0 32).addr
  ((((((s1.wr (a 0xE4) (mask lo (s.stnDef p))).wr (a 0xE8) (mask lo (fun t => s.stnDef p t && s.stnState p t == 1))).wr (a 0xEC)
    (mask lo (fun t => s.stnDef p t && decide (3 ≤ s.stnState p t)))).wr (a 0xF4) (mask lo (fun o => s.objFld p o 7 29 1 == 1))).wr
    (a 0xF8) (mask hi (fun o => s.objFld p o 7 29 1 == 1))).wr (a 0xFC) (mask lo (fun o => s.objFld p o 7 30 1 == 1))).wr (a 0x100)
    (mask hi (fun o => s.objFld p o 7 30 1 == 1))

end Sys2Proof.Machine
end

