-- ==== Sys2Proof/Machine/CpeBlocks.lean ====
section
/-! DEFINITION. The library blocks of the control programs (R382, R385): where their variables lie in an instance, and what the standard
and quality blocks compute from their inputs. -/

namespace Sys2Proof.Machine

/-! ## The layout of an instance (R378, R385) -/

/-- The variables of a library block in the order of R385, inputs and then outputs, as (bytes of an element, elements); none for a code that
is no library block. -/
def blkVars : Nat → Option (List (Nat × Nat))
  | 0x01 | 0x02 | 0x03 => some [(1, 1), (8, 1), (1, 1), (8, 1)]
  | 0x04 | 0x05 => some [(1, 1), (1, 1)]
  | 0x06 | 0x07 => some [(1, 1), (1, 1), (2, 1), (1, 1), (2, 1)]
  | 0x08 => some [(1, 1), (1, 1), (1, 1), (1, 1), (2, 1), (1, 1), (1, 1), (2, 1)]
  | 0x09 | 0x0A => some [(1, 1), (1, 1), (1, 1)]
  | 0x20 => some [(8, 1), (4, 1), (1, 1), (1, 1)]
  | 0x21 => some [(4, 1), (1, 1), (8, 1)]
  | 0x22 => some [(8, 1), (8, 1), (8, 1)]
  | 0x30 => some [(8, 1), (4, 1), (1, 1)]
  | 0x31 | 0x32 => some [(8, 1), (8, 1), (8, 1)]
  | 0x40 => some [(1, 1), (2, 1), (1, 1), (4, 4), (1, 1), (8, 1), (1, 1), (1, 1), (1, 1)]
  | 0x48 => some [(1, 1), (1, 1), (1, 1), (8, 1), (1, 1), (1, 1), (1, 8), (4, 8), (1, 1), (1, 1), (1, 1), (4, 1)]
  | 0x49 => some [(1, 1), (1, 1), (1, 1), (1, 1)]
  | 0x50 => some [(1, 1), (1, 1), (1, 1), (2, 1), (4, 1)]
  | 0x51 => some [(1, 1), (1, 1), (1, 1), (2, 1)]
  | _ => none

/-- The offset of each variable from its instance's start: they follow the 16-byte header at their natural alignment (R378), each aligned
to the bytes of its element. The end comes last. -/
def blkOffsFrom (off : Nat) : List (Nat × Nat) → List (Nat × Nat)
  | [] => [(off, 0)]
  | v :: l =>
    let o := (off + v.1 - 1) / v.1 * v.1
    (o, v.1) :: blkOffsFrom (o + v.1 * v.2) l
def blkOffs (code : Nat) : List (Nat × Nat) := blkOffsFrom 16 ((blkVars code).getD [])

/-- The bytes of an instance of a library block, its header included. -/
def blkSize (code : Nat) : Nat := ((blkOffs code).getLast?.getD (16, 0)).1

/-- ET of a timer. -/
def etOff : Nat := ((blkOffs 0x01).getD 3 (0, 0)).1

/-! ## Timers, edges, counters and latches -/

/-- What a block has computed: its outputs in order, whether its timer runs, and its memory M. -/
structure BlkOut where
  outs : List Nat
  run : Bool
  m : Nat
deriving DecidableEq, Repr

/-- The time of a TIME value, and a TIME value. -/
def timeOf (v : Nat) : Int := signed 64 (v % 2 ^ 64)
def timeTo (t : Int) : Nat := (BitVec.ofInt 64 t).toNat

/-- ET after `el` ns more, no more than PT. -/
def etStep (et pt : Int) (el : Nat) : Int := min (et + el) (max pt 0)

/-- TON, TOF and TP (R382, R385): `run` and `m` (the previous IN) as the instance holds them, ET of its last execution, `el` the time since.
A timer that starts in this execution has ET 0. -/
def timerBlk (code : Nat) (inp : Bool) (pt et : Int) (el : Nat) (run : Bool) (m : Nat) : BlkOut :=
  let was := m % 2 == 1
  let e := if run then etStep et pt el else et
  if code = 0x01 then
    let e1 := if !inp then 0 else if run then e else 0
    ⟨[b2n (inp && decide (pt ≤ e1)), timeTo e1], inp, b2n inp⟩
  else if code = 0x02 then
    let starts := was && !inp
    let e1 := if inp || starts then 0 else e
    let on := !inp && (starts || run) && decide (e1 < pt)
    ⟨[b2n (inp || on), timeTo e1], on, b2n inp⟩
  else
    let starts := inp && !was && !run
    let e1 := if starts then 0 else e
    let on := (starts || run) && decide (e1 < pt)
    ⟨[b2n on, timeTo (if !on && !inp then 0 else e1)], on, b2n inp⟩

/-- R_TRIG and F_TRIG: a new instance takes the current CLK, so that no edge is seen (R395). -/
def edgeBlk (code : Nat) (clk : Bool) (m : Option Nat) : BlkOut :=
  let was := match m with
    | none => clk
    | some v => v % 2 == 1
  ⟨[b2n (if code = 0x04 then clk && !was else !clk && was)], false, b2n clk⟩

/-- CTU, CTD and CTUD with the inputs in order; M holds the count inputs of the last execution. -/
def counterBlk (code : Nat) (i : List Nat) (cv : Int) (m : Nat) : BlkOut :=
  let on := fun k => i.getD k 0 % 2 == 1
  let up := fun v : Int => if v < 32767 then v + 1 else v
  let down := fun v : Int => if -32768 < v then v - 1 else v
  let w := fun v : Int => (BitVec.ofInt 16 v).toNat
  let rose := fun k => on k && m / 2 ^ k % 2 == 0
  if code = 0x06 then
    let pv := signed 16 (i.getD 2 0)
    let c := if on 1 then 0 else if rose 0 then up cv else cv
    ⟨[b2n (decide (pv ≤ c)), w c], false, b2n (on 0)⟩
  else if code = 0x07 then
    let pv := signed 16 (i.getD 2 0)
    let c := if on 1 then pv else if rose 0 then down cv else cv
    ⟨[b2n (decide (c ≤ 0)), w c], false, b2n (on 0)⟩
  else
    let pv := signed 16 (i.getD 4 0)
    let c := if on 2 then 0 else if on 3 then pv
      else if rose 0 && rose 1 then cv else if rose 0 then up cv else if rose 1 then down cv else cv
    ⟨[b2n (decide (pv ≤ c)), b2n (decide (c ≤ 0)), w c], false, b2n (on 0) + 2 * b2n (on 1)⟩

/-- SR and RS with inputs set and reset and the previous output. -/
def latchBlk (code : Nat) (set_ reset_ q : Bool) : BlkOut :=
  ⟨[b2n (if code = 0x09 then set_ || (!reset_ && q) else !reset_ && (set_ || q))], false, 0⟩

/-! ## Quality blocks -/

/-- The status byte of a QREAL, and a QREAL. -/
def qSt (v : Nat) : Nat := v / 2 ^ 32 % 64
def qMake (val st : Nat) : Nat := val % 2 ^ 32 + st * 2 ^ 32

/-- The order of Q_BEST: GOOD, FORCED, ESTIM, SUBST, STALE, then unusable. -/
def qRank (v : Nat) : Nat :=
  if !usableSt (qSt v) then 5
  else ([0, 2, 3, 4, 1] : List Nat).getD (qual (qSt v)) 5

/-- Q_SPLIT, Q_MAKE and Q_BEST. -/
def qualBlk (code : Nat) (i : List Nat) : BlkOut :=
  let a := i.getD 0 0
  let b := i.getD 1 0
  if code = 0x20 then ⟨[a % 2 ^ 32, qual (qSt a), b2n (usableSt (qSt a))], false, 0⟩
  else if code = 0x21 then ⟨[qMake a (if 5 < b then BAD else b)], false, 0⟩
  else ⟨[if qRank b < qRank a then b else a], false, 0⟩

/-! ## LT64 (R103) -/

/-- A variable of type LT64 as a launch time and back: seconds word, then nanoseconds word. -/
def ltOf (v : Nat) : Nat × Nat := (v % 2 ^ 32, v / 2 ^ 32 % 2 ^ 32)
def ltTo (t : Nat × Nat) : Nat := t.1 + t.2 * 2 ^ 32

/-- LT_ADD and LT_DIFF. -/
def ltSum (t : Nat × Nat) (d : Int) : Nat × Nat :=
  let n : Int := (t.2 : Int) + d
  ((((t.1 : Int) + Int.fdiv n 1000000000) % 2 ^ 32).toNat, (Int.fmod n 1000000000).toNat)
def ltBlk (code : Nat) (a b : Nat) : BlkOut :=
  ⟨[if code = 0x31 then ltTo (ltSum (ltOf a) (timeOf b)) else timeTo (ltDiff (ltOf b) (ltOf a))], false, 0⟩

/-- The blocks that compute from their own variables alone: `i`, their inputs; `o`, their outputs as they stand; the state that the engine
keeps of the instance, none for a new one; and `el`, the ns since its previous execution. -/
def pureBlk (code : Nat) (i o : List Nat) (b : Option BlkSt) (el : Nat) : BlkOut :=
  let m := (b.map (·.m)).getD 0
  let run := (b.map (·.run)).getD false
  let on := fun k => i.getD k 0 % 2 == 1
  if code ≤ 0x03 then timerBlk code (on 0) (timeOf (i.getD 1 0)) (timeOf (o.getD 1 0)) el run m
  else if code ≤ 0x05 then edgeBlk code (on 0) (b.map (·.m))
  else if code ≤ 0x08 then counterBlk code i (signed 16 (o.getD (if code = 0x08 then 2 else 1) 0)) m
  else if code ≤ 0x0A then latchBlk code (on 0) (on 1) (o.getD 0 0 % 2 == 1)
  else if code ≤ 0x22 then qualBlk code i
  else ltBlk code (i.getD 0 0) (i.getD 1 0)

/-- How many of a block's variables are inputs. -/
def blkIns : Nat → Nat
  | 0x01 | 0x02 | 0x03 => 2
  | 0x04 | 0x05 => 1
  | 0x06 | 0x07 => 3
  | 0x08 => 5
  | 0x09 | 0x0A => 2
  | 0x20 => 1
  | 0x21 | 0x22 => 2
  | 0x31 | 0x32 => 2
  | 0x40 => 6
  | 0x48 => 8
  | 0x49 => 1
  | 0x51 => 2
  | _ => 0

end Sys2Proof.Machine
end

