-- ==== Sys2Proof/Machine/F64.lean ====
section
/-! DEFINITION. binary64 of IEEE 754 with round to nearest even (R375): decoding, packing, and the operations of class F64 of block code,
computed exactly on decoded values and rounded once. -/

namespace Sys2Proof.Machine

/-- Decodes 64 bits. -/
def f64Dec (w : Nat) : FVal :=
  let neg := w / 2 ^ 63 % 2 == 1
  let ex : Nat := w / 2 ^ 52 % 2 ^ 11
  let fr : Nat := w % 2 ^ 52
  if ex = 2047 then (if fr = 0 then .inf neg else .nan)
  else if ex = 0 then .fin neg fr (-1074)
  else .fin neg (2 ^ 52 + fr) ((ex : Int) - 1075)

/-- Rounds ± m × 2^e to binary64, to nearest with ties to even. -/
def f64Pack (neg : Bool) (m : Nat) (e : Int) : Nat :=
  let sg := b2n neg * 2 ^ 63
  if m = 0 then sg
  else
    let sh : Int := max ((Nat.log2 m : Int) - 52) (-1074 - e)
    let q : Nat :=
      if sh ≤ 0 then m * 2 ^ (-sh).toNat
      else
        let d := 2 ^ sh.toNat
        let q0 := m / d
        let r := m % d
        if d < 2 * r ∨ (d = 2 * r ∧ q0 % 2 = 1) then q0 + 1 else q0
    let ex : Int := e + sh
    let q1 := if q = 2 ^ 53 then 2 ^ 52 else q
    let e1 := if q = 2 ^ 53 then ex + 1 else ex
    if q1 < 2 ^ 52 then sg + q1
    else if 2047 ≤ e1 + 1075 then sg + 2047 * 2 ^ 52
    else sg + (e1 + 1075).toNat * 2 ^ 52 + (q1 - 2 ^ 52)

/-- A decoded value as binary64 and as binary32; a NaN is a quiet one of an open payload. -/
def FVal.to64 : FVal → Nat
  | .fin neg m e => f64Pack neg m e
  | .inf neg => b2n neg * 2 ^ 63 + 2047 * 2 ^ 52
  | .nan => 0x7FF8000000000000 + Config.nanPayload64.toNat
def FVal.to32 : FVal → Word
  | .fin neg m e => f32Pack neg m e
  | .inf neg => f32Inf neg
  | .nan => f32NaN

/-- An exact x × 2^e; an exact zero takes the sign given. -/
def FVal.ofExact (x : Int) (e : Int) (zneg : Bool) : FVal :=
  if x = 0 then .fin zneg 0 0 else .fin (decide (x < 0)) x.natAbs e

/-- The sum, exact. -/
def FVal.add : FVal → FVal → FVal
  | .nan, _ => .nan
  | _, .nan => .nan
  | .inf x, .inf y => if x = y then .inf x else .nan
  | .inf x, _ => .inf x
  | _, .inf y => .inf y
  | .fin n1 m1 e1, .fin n2 m2 e2 =>
    let e := min e1 e2
    .ofExact (sMant n1 m1 * 2 ^ (e1 - e).toNat + sMant n2 m2 * 2 ^ (e2 - e).toNat) e (n1 && n2)

/-- The other sign, and the magnitude. -/
def FVal.neg : FVal → FVal
  | .nan => .nan
  | .inf x => .inf (!x)
  | .fin n m e => .fin (!n) m e
def FVal.abs : FVal → FVal
  | .nan => .nan
  | .inf _ => .inf false
  | .fin _ m e => .fin false m e

/-- The product, exact. -/
def FVal.mul : FVal → FVal → FVal
  | .nan, _ => .nan
  | _, .nan => .nan
  | .inf x, .inf y => .inf (x != y)
  | .inf x, .fin y m _ => if m = 0 then .nan else .inf (x != y)
  | .fin x m _, .inf y => if m = 0 then .nan else .inf (x != y)
  | .fin n1 m1 e1, .fin n2 m2 e2 => .fin (n1 != n2) (m1 * m2) (e1 + e2)

/-- The quotient with 120 further bits and a sticky bit, so that it rounds as the exact one. -/
def FVal.div : FVal → FVal → FVal
  | .nan, _ => .nan
  | _, .nan => .nan
  | .inf _, .inf _ => .nan
  | .inf x, .fin y _ _ => .inf (x != y)
  | .fin x _ _, .inf y => .fin (x != y) 0 0
  | .fin n1 m1 e1, .fin n2 m2 e2 =>
    if m2 = 0 then (if m1 = 0 then .nan else .inf (n1 != n2))
    else
      let n := m1 * 2 ^ 120
      .fin (n1 != n2) (2 * (n / m2) + (if n % m2 = 0 then 0 else 1)) (e1 - e2 - 121)

/-- The square root with further bits and a sticky bit. -/
def FVal.sqrt : FVal → FVal
  | .nan => .nan
  | .inf neg => if neg then .nan else .inf false
  | .fin neg m e =>
    if m = 0 then .fin neg 0 0
    else if neg then .nan
    else
      let odd : Nat := (Int.emod e 2).toNat
      let n := m * 2 ^ (odd + 120)
      let r := Nat.sqrt n
      .fin false (2 * r + (if r * r = n then 0 else 1)) ((e - odd) / 2 - 61)

/-- a < b; false when either is a NaN. -/
def FVal.lt : FVal → FVal → Bool
  | .nan, _ => false
  | _, .nan => false
  | .inf x, .inf y => x && !y
  | .inf x, _ => x
  | _, .inf y => !y
  | .fin n1 m1 e1, .fin n2 m2 e2 =>
    let e := min e1 e2
    decide (sMant n1 m1 * 2 ^ (e1 - e).toNat < sMant n2 m2 * 2 ^ (e2 - e).toNat)

/-- a = b; false when either is a NaN, and true of the two zeros. -/
def FVal.eq (a b : FVal) : Bool := a != .nan && b != .nan && !a.lt b && !b.lt a

/-- A finite value rounded to the nearest integer, ties to even. -/
def roundEven (m : Int) (e : Int) : Int :=
  if 0 ≤ e then m * 2 ^ e.toNat
  else
    let d : Int := 2 ^ (-e).toNat
    let q := Int.fdiv m d
    let r := Int.fmod m d
    if d < 2 * r ∨ (d = 2 * r ∧ q % 2 = 1) then q + 1 else q

end Sys2Proof.Machine
end

