-- ==== Sys2Proof/Machine/Records.lean ====
section
/-! DEFINITION. The rules that tie the fields of one table record together and that the written record alone decides (R545): they are
checked on receipt. Rules that depend on the state are checked at the tick (R546). -/

namespace Sys2Proof.Machine

/-- A thermal point's record (R331): its pulse input exists, or is none. -/
def hmetRecordOk (ws : List Word) : Bool :=
  let di := wbits (ws.getD 0 0) 8 5
  decide (di < 16) || di == 31

/-- A calibration record (R321). -/
def modRecordOk (ws : List Word) : Bool :=
  let d := sint (ws.getD 2 0)
  f32Lt 0 (ws.getD 0 0) && decide (-50000 ≤ d) && decide (d ≤ 50000)

/-- An ADC channel's record (R301): EXC with the KINDs that need it, RANGE 1 with them, WIN_FR dividing 1,000. -/
def adcRecordOk (ws : List Word) : Bool :=
  let f := fun (lo n : Nat) => wbits (ws.getD 0 0) lo n
  (if f 29 2 = 0 then f 26 1 == 0 else f 26 1 == 1 && f 27 2 == 1)
    && decide (1000 % f 16 10 = 0)

/-- A message object's record (R257, R258): FDF with BRS and with codes above 8, IDE with identifiers above 0x7FF, a raw object's
OFFSET, and the reserved identifiers that no transmit object may name. -/
def canRecordOk (ws : List Word) : Bool :=
  let w0 := ws.getD 0 0
  let id := wbits (ws.getD 1 0) 0 29
  (wbits w0 16 4 ≤ 8 || wbit w0 28) && (!wbit w0 27 || wbit w0 28) && (id ≤ 0x7FF || wbit w0 29)
    && (!(wbit w0 31 && wbits w0 22 2 == 0) || decide (wbits (ws.getD 3 0) 0 16 % 4 = 0))
    && !(wbit w0 30 && !wbit w0 29 && (id == 0 || decide (0x40 ≤ id ∧ id < 0x60)))

/-- A channel descriptor (R280), but for the comparators, stations and ports it names. -/
def privDescOk (ws : List Word) : Bool :=
  let w := fun (i lo n : Nat) => wbits (ws.getD i 0) lo n
  let cls := w 0 29 2
  let paths := w 0 22 4
  if cls = 0 then
    w 0 26 3 == 0 && paths == 0 && w 1 0 32 == 0 && decide (w 2 30 2 ≤ 2) && (w 2 30 2 != 0 || decide (w 2 28 2 ≤ 2))
  else if cls = 1 then
    paths == 0 && w 1 0 32 == 0 && decide (w 2 16 2 ≤ 2) && (w 2 16 2 != 2 || decide (w 2 13 3 ≤ 3))
  else
    decide (2000 ≤ w 1 0 32 ∧ w 1 0 32 ≤ 60000000)
      && (if cls = 2 then paths / 4 == 0 else paths % 4 == 0 && decide (w 2 0 11 < 32))

/-- A loop record (R360, R348), but for its group: DIV divides 1,000, PHASE lies below it, every binary32 word is finite, and KP, KI,
KD, TF and DEADBAND are not negative. -/
def loopRecordOk (ws : List Word) : Bool :=
  let w := fun i => ws.getD i 0
  let div := wbits (w 0) 10 10
  let ph := wbits (w 0) 0 10
  (decide (1 ≤ div) && decide (1000 % div = 0) && decide (ph < div))
    && [3, 4, 5, 6, 7, 8, 9, 10, 11, 12, 13].all (fun i => f32Finite (w i))
    && [5, 6, 7, 8, 13].all (fun i => f32Le 0 (w i))

/-- A substation attachment (R136): RANGEAB above 1 with CHAR 1. -/
def attachRecordOk (ws : List Word) : Bool :=
  wbits (ws.getD 4 0) 30 2 != 1 || f32Lt 0x3F800000 (ws.getD 5 0)

/-- The optimiser's pump station (R168): ETA, a binary64, lies from 0 to 1. -/
def pumpRecordOk (ws : List Word) : Bool :=
  let v := (ws.getD 6 0).toNat + (ws.getD 7 0).toNat * 2 ^ 32
  decide (v ≤ 0x3FF0000000000000) || v == 0x8000000000000000

/-- The rule of a record of table `tid` that its words decide. -/
def recordRuleOk (tid : Nat) (ws : List Word) : Bool :=
  if tid = 0x1800 then adcRecordOk ws
  else if tid = 0x1900 then modRecordOk ws
  else if tid = 0x1B00 then hmetRecordOk ws
  else if tid = 0x1400 ∨ tid = 0x1500 then canRecordOk ws
  else if tid = 0x2000 then loopRecordOk ws
  else if tid = 0x2406 then attachRecordOk ws
  else if tid = 0x2503 then pumpRecordOk ws
  else if tid = 0x2600 then privDescOk ws
  else true

end Sys2Proof.Machine
end

