-- ==== Sys2Proof/Machine/Host.lean ====
section
/-! DEFINITION. Host ports, sessions and ownership: the commands of the Kyoward window protocol and the events of
sessions (R420 to R448). -/

namespace Sys2Proof.Machine

/-! ## Keys a session rests on -/

/-- The key slot's current key is in use: ACTIVE (R489). -/
def State.keyActive (s : State) (slot : Nat) : Bool := s.keyUsable slot

/-- A credential is defined and its key slot is ACTIVE (R424). -/
def State.credOk (s : State) (c : Nat) : Bool :=
  decide (c < 16) && s.tfld 0x0B00 c 0 31 1 == 1 && s.keyActive (s.tfld 0x0B00 c 0 16 7)

/-! ## Opening (R425) -/

/-- The sessions that an address serves (R420): all eight on a single module's own addresses; in a pair 0 to 5 the
service addresses, 6 and 7 the own addresses. -/
def State.sesRange (s : State) (svc : Bool) : List Nat :=
  if s.cfg.pair then (if svc then [0, 1, 2, 3, 4, 5] else [6, 7]) else [0, 1, 2, 3, 4, 5, 6, 7]

/-- The lowest free session number of the address's range. -/
def State.freeSess (s : State) (svc : Bool) : Option Nat := (s.sesRange svc).find? (fun i => (s.sess i).st == 0)

/-- The last 16 nonces accepted for a credential. -/
def State.noncesOf (s : State) (c : Nat) : List Nat := (s.host.nonces.filter (fun e => e.1 == c)).map (·.2)

/-- Remembers a nonce of a credential, the newest first, at most 16 of them. -/
def State.addNonce (s : State) (c n : Nat) : State :=
  let mine := (c, n) :: ((s.host.nonces.filter (fun e => e.1 == c)).take 15)
  s.hostMod (fun h => { h with nonces := mine ++ h.nonces.filter (fun e => e.1 != c) })

/-- ADDR_KIND of OPEN_ACK: 0 single module, 1 service address, 2 own address of a pair. -/
def State.addrKind (s : State) (svc : Bool) : Nat := if s.cfg.pair then (if svc then 1 else 2) else 0

/-- Opens session `i` (it is then opening) and sends OPEN_ACK with SEQ 0. -/
def State.openSess (s : State) (o : KwpOpen) (i : Nat) : State :=
  let g := s.host.opens + 1
  let s1 := s.hostMod (fun h => { h with opens := g })
  let s2 := s1.sessMod i (fun _ =>
    { Sess.free with st := 1, gen := g, cred := o.cred, port := o.port, svc := o.svc, since := s.fno, lastRx := s.fno,
                     txSeq := 1, hostId := s.trd 0x0B00 o.cred 1 })
  s2.say o.svc (.openAck .ok i o.hNonce o.dNonce (s.addrKind o.svc))

/-- KWP_OPEN: R423 for an OPEN, the nonce list, and the answer of R425. An OPEN whose nonce is known has passed R423 and counts as
accepted (DEDUCED: R448 counts the datagrams accepted). -/
def execKwpOpen (o : KwpOpen) (s : State) : Out :=
  .next <|
    if !s.addressed o.port o.svc then s
    else if !o.fmtOk || !s.portOn o.port then s.bump .HOST_BAD
    else if !o.tagOk || !s.credOk o.cred then s.authFail
    else if (s.noncesOf o.cred).contains o.hNonce then s.bump .HOST_RX_OK
    else
      let s1 := (s.bump .HOST_RX_OK).addNonce o.cred o.hNonce
      if !s.bit (bitAt 0xB040 3) then s1.say o.svc (.openAck .refused 0xFF o.hNonce o.dNonce (s.addrKind o.svc))
      else
        match s1.freeSess o.svc with
        | none => s1.say o.svc (.openAck .busy 0xFF o.hNonce o.dNonce (s.addrKind o.svc))
        | some i => s1.openSess o i

/-- SESSION_OPENING_TIMEOUT (R425): a session still opening 2,000 ms after the OPEN_ACK is freed without an event. -/
def execSessionOpeningTimeout (i : Nat) (s : State) : Out :=
  .next (if (s.sess i).st = 1 ∧ 2000 ≤ s.since (s.sess i).since then s.closeSess i else s)

/-- SESSION_IDLE_TIMEOUT (R426): SESS_IDLE seconds without an accepted datagram close an open session. -/
def execSessionIdleTimeout (i : Nat) (s : State) : Out :=
  .next (if (s.sess i).st = 2 ∧ s.fld ⟨0xB054, 0, 16⟩ * 1000 ≤ s.since (s.sess i).lastRx then s.closeSess i else s)

/-- DORMANCY_TIMEOUT (R443): a dormant session closes DORM_MAX seconds after DORMANT. -/
def execDormancyTimeout (i : Nat) (s : State) : Out :=
  .next (if (s.sess i).st = 3 ∧ s.fld ⟨0xB054, 16, 16⟩ * 1000 ≤ s.since (s.sess i).since then s.closeSess i else s)

/-- KICK (R426): closes the session in HOST_CMD_ARG; REFUSED, with no effect, for the writer's own session. -/
def kick (writer : Nat) (s : State) : State × Status :=
  let i := s.fld ⟨0xB048, 0, 3⟩
  if i = writer then (s, .refused) else (s.closeSess i, .ok)

def execKick (writer : Nat) (s : State) : Out := .next (kick writer s).1

/-! ## Reads -/

/-- The value a claim of target `t` returns and the state after it (R403): the source presented with its count, OVF and
PRIO; PENDING cleared, CLAIMED set, the source pushed, COUNT and OVF cleared; 0 and ICU_SPUR_CNT with nothing presented. -/
def claim (t : Nat) (s : State) : State × Word :=
  let src := s.icu.pres.getD t 0
  if src = 0 then (s.bump .ICU_SPUR, 0)
  else
    let v := BitVec.ofNat 32 (s.srcFld src 0 8 * 2 ^ 24 + s.srcFld src 15 1 * 2 ^ 23 + s.srcFld src 24 4 * 2 ^ 16 + src)
    let s1 := (((s.srcSet src 29 1 0).srcSet src 28 1 1).srcSet src 0 8 0).srcSet src 15 1 0
    let s2 := { s1 with icu := { s1.icu with
      stack := modAt s1.icu.stack t (fun st => src :: st), pres := setAt s1.icu.pres t 0 } }
    (s2.icuEval, v)

/-- The target whose claim register is at `a`. -/
def claimTarget (a : Nat) : Nat := (a - 0x7080) / 16

/-- READ (R428, R45, R48): one register word; a claim register's read acts for the owner alone. -/
def execRead (k : Kwp) (addr : Nat) (s : State) : Out :=
  .next <| s.request k 1 (fun s =>
    let a := addr % 2 ^ 24
    if !addrOk a then s.respond k.ses k.reqId 1 .badAddr []
    else if 2 ^ 24 ≤ addr then s.respond k.ses k.reqId 1 .range []
    else if readActs a then
      if s.isOwner k.ses then
        let r := claim (claimTarget a) s
        r.1.respond k.ses k.reqId 1 .ok [r.2]
      else s.respond k.ses k.reqId 1 .denied [0]
    else (s.useFree).respond k.ses k.reqId 1 .ok [s.readWord a])

/-- Reads consecutive words in address order; claim registers act for the owner and read 0 for others. -/
def readWords (own : Bool) : Nat → Nat → State → State × List Word
  | 0, _, s => (s, [])
  | n + 1, a, s =>
    if readActs a then
      if own then
        let r := claim (claimTarget a) s
        let q := readWords own n (a + 4) r.1
        (q.1, r.2 :: q.2)
      else
        let q := readWords own n (a + 4) s
        (q.1, 0 :: q.2)
    else
      let q := readWords own n (a + 4) s.useFree
      (q.1, s.readWord a :: q.2)

/-- Every word of a block of `n` words from `a` exists and lies in one page (R45). -/
def blockOk (a n : Nat) : Bool :=
  addrOk a && addrOk (a + 4 * (n - 1)) && pageOf a == pageOf (a + 4 * (n - 1))

/-- READ_BLOCK (R62, R45, R48). -/
def execReadBlock (k : Kwp) (addr cnt : Nat) (s : State) : Out :=
  .next <| s.request k 3 (fun s =>
    let a := addr % 2 ^ 24
    if !blockOk a cnt then s.respond k.ses k.reqId 3 .badAddr []
    else if cnt = 0 ∨ 256 < cnt ∨ 2 ^ 24 ≤ addr then s.respond k.ses k.reqId 3 .range []
    else
      let acts := (List.range cnt).any (fun i => readActs (a + 4 * i))
      let own := s.isOwner k.ses
      let r := readWords own cnt a s
      r.1.respond k.ses k.reqId 3 (if acts && !own then .denied else .ok) r.2)

/-- A table that an engine serves by its own transfers can be reached: the active frame tables hold a model op for the model's
tables (R140), a CPE_TASK entry of the CPE for its instance data (R378). -/
def State.xferOpen (s : State) (tid : Nat) : Bool :=
  let has := fun (p : Entry → Bool) => ((List.range 1001).map (fun f => s.tfld 0x0608 f 0 0 3)).eraseDups.any (fun t =>
    (((List.range 4096).map (fun i => entryOf (s.trd (0x0600 + t) i 0) (s.trd (0x0600 + t) i 1))).takeWhile (fun e => e.op != 1)).any p)
  match tableInfo tid with
  | none => true
  | some t =>
    if !t.byXfer then true
    else if tid = 0x2101 then has (fun e => e.op == 0x28 && e.unit == 8)
    else if tid = 0x2201 then has (fun e => e.op == 0x28 && e.unit == 9)
    else has (fun e => e.op == 0x30 || e.op == 0x31 || e.op == 0x32)

/-- Four operations on the page's transfer tables are outstanding (R140, R378). -/
def State.xferFull (s : State) (tid : Nat) : Bool :=
  decide (4 ≤ (s.host.xferQ.filter (fun q => q.op.xferPage == tablePage tid)).length)

/-- TABLE_READ (R66, R428): BAD_TABLE for a table that is not implemented; RANGE beyond the capacity, outside 1 to 64
records or above 320 words. A table that an engine serves by its own transfers is read when the engine makes them
(R62, R140): at most four such operations wait, and a further one completes with BUSY. -/
def execTableRead (k : Kwp) (tid cnt idx : Nat) (s : State) : Out :=
  .next <| s.request k 5 (fun s =>
    match tableInfo tid with
    | none => s.respond k.ses k.reqId 5 .badTable []
    | some t =>
      if cnt = 0 ∨ 64 < cnt ∨ 320 < cnt * t.words ∨ 2 ^ 24 ≤ idx then s.respond k.ses k.reqId 5 .range []
      else if !t.idxOk idx || !t.idxOk (idx + cnt - 1) then s.respond k.ses k.reqId 5 .range []
      else if !s.xferOpen tid || (t.byXfer && s.xferFull tid) then s.respond k.ses k.reqId 5 .busy []
      else if t.byXfer then
          let s1 := s.sessMod k.ses (fun x => { x with inflight := x.inflight ++ [k.reqId] })
          s1.hostMod (fun h => { h with xferQ := h.xferQ ++ [⟨k.ses, (s.sess k.ses).gen, k.reqId, .tread tid cnt idx⟩] })
      else s.respond k.ses k.reqId 5 .ok (s.tableWords t idx cnt))

/-! ## Writes -/

/-- The status of a host write on receipt, in the order of R49. -/
def State.writeStatus (s : State) (k : Kwp) (ws : List (Nat × Word)) (addr : Nat) : Status :=
  if !s.isOwner k.ses then .denied
  else if ws.any (fun e => !addrOk e.1) then .badAddr
  else if 2 ^ 24 ≤ addr then .range
  else worst (ws.map (fun e => valueStatus e.1 e.2))

/-- WRITE (R47 to R49, R545): checked on receipt, and held for the tick at which it takes effect. -/
def execWrite (k : Kwp) (addr : Nat) (v : Word) (s : State) : Out :=
  .next <| s.request k 2 (fun s =>
    let ws := [(addr % 2 ^ 24, v)]
    match s.writeStatus k ws addr with
    | .ok => s.hold k (.regs 2 ws)
    | st => s.respond k.ses k.reqId 2 st [])

/-- The addresses of a block of words. -/
def blockWords (a : Nat) (ws : List Word) : List (Nat × Word) := ws.mapIdx (fun i w => (a + 4 * i, w))

/-- WRITE_BLOCK (R45, R47, R545): all words or none. -/
def execWriteBlock (k : Kwp) (addr : Nat) (ws : List Word) (s : State) : Out :=
  .next <| s.request k 4 (fun s =>
    let a := addr % 2 ^ 24
    let l := blockWords a ws
    if !s.isOwner k.ses then s.respond k.ses k.reqId 4 .denied []
    else if !blockOk a ws.length then s.respond k.ses k.reqId 4 .badAddr []
    else if ws.isEmpty || decide (256 < ws.length) then s.respond k.ses k.reqId 4 .range []
    else match s.writeStatus k l addr with
      | .ok => s.hold k (.regs 4 l)
      | st => s.respond k.ses k.reqId 4 st [])

/-- The checks of a TABLE_WRITE that the written record alone decides (R66, R545, R401, R416). -/
def tableStatus (t : TableInfo) (idx : Nat) (ws : List Word) : Status :=
  if 2 ^ 24 ≤ idx ∨ !t.idxOk idx then .range
  else if ws.length ≠ t.words then .range
  else if !t.wordsOk 0 ws || !recordRuleOk t.tid ws then .range
  else if t.tid = 0x0700 ∧ srcReserved idx then .range
  else if t.tid = 0x0801 ∧
      (wbits (ws.getD 1 0) 24 8 = 0 ∧ 0 < wbits (ws.getD 1 0) 0 16
        ∨ ((List.range (wbits (ws.getD 0 0) 16 5)).any (fun i =>
            !addrOk (wbits (ws.getD (2 + i) 0) 0 24) || readActs (wbits (ws.getD (2 + i) 0) 0 24)))) then .range
  else if !t.writable then .refused
  else if t.tid = 0x0700 ∧ 0x200 ≤ idx ∧ idx < 0x300 then .refused
  else .ok

/-- TABLE_WRITE (R66, R67, R545): checked on receipt and held for its tick. -/
def execTableWrite (k : Kwp) (tid idx : Nat) (ws : List Word) (s : State) : Out :=
  .next <| s.request k 6 (fun s =>
    if !s.isOwner k.ses then s.respond k.ses k.reqId 6 .denied []
    else
      match tableInfo tid with
      | none => s.respond k.ses k.reqId 6 .badTable []
      | some t =>
        match (if (tid = 0x2102 ∨ tid = 0x2202) ∧ tableStatus t idx ws = .ok ∧ !s.forceOk tid ws then .range
               else tableStatus t idx ws) with
        | .ok => s.hold k (.table tid idx ws 0)
        | st => s.respond k.ses k.reqId 6 st [])

/-! ## Commands (R430 to R433) -/

/-- ARG_N fits a code (R432). -/
def argsFit (code n : Nat) : Bool :=
  if code = 0x2500 then n == 0
  else if code = 0x0B00 ∨ code = 0x2501 then n == 1
  else decide (14 ≤ n ∧ n ≤ 18)

/-- On the standby module sessions 6 and 7 may send commands, which complete REFUSED at the next tick (R447). -/
def State.standbyOwnSes (s : State) (i : Nat) : Bool := s.cfg.pair && s.mstate == 3 && (i == 6 || i == 7)

/-- Acceptance of a CMD (R430). -/
def command (k : Kwp) (code tag : Nat) (args : List Word) (s : State) : State :=
  s.request k 7 (fun s =>
    let x := s.sess k.ses
    if !s.isOwner k.ses && !s.standbyOwnSes k.ses then s.respond k.ses k.reqId 7 .denied []
    else if !argsFit code args.length
        || s.host.cmds.any (fun c => c.ses == k.ses && c.gen == x.gen && c.tag == tag) then
      s.respond k.ses k.reqId 7 .range []
    else if 64 ≤ s.outstanding k.ses + x.cq.length then s.respond k.ses k.reqId 7 .busy []
    else (s.hostMod (fun h => { h with cmds := h.cmds ++ [⟨k.ses, x.gen, tag, code, args, false⟩] })).respond
      k.ses k.reqId 7 .ok [])

/-- CMD CANCEL (R432, R433): accepted under R430, it acts at the next tick. -/
def execCancel (k : Kwp) (tag : Nat) (args : List Word) (s : State) : Out := .next (command k 0x0B00 tag args s)

/-- CMD SOLVE (R193). -/
def execSolve (k : Kwp) (tag : Nat) (args : List Word) (s : State) : Out := .next (command k 0x2500 tag args s)

/-- CMD ABORT (R194). -/
def execAbort (k : Kwp) (tag : Nat) (args : List Word) (s : State) : Out := .next (command k 0x2501 tag args s)

/-- CMD PRIV_REQ (R281). -/
def execPrivReq (k : Kwp) (tag : Nat) (args : List Word) (s : State) : Out := .next (command k 0x2600 tag args s)

/-- CQ_READ (R431): the oldest records, up to MAX, are returned and removed. -/
def execCqRead (k : Kwp) (maxN : Nat) (s : State) : Out :=
  .next <| s.request k 8 (fun s =>
    if maxN = 0 ∨ 16 < maxN then s.respond k.ses k.reqId 8 .range []
    else
      let l := (s.sess k.ses).cq.take maxN
      (s.sessMod k.ses (fun x => { x with cq := x.cq.drop maxN })).respond k.ses k.reqId 8 .ok
        (BitVec.ofNat 32 l.length :: l.flatten))

/-- The microseconds of an instant `us` after the last tick. -/
def State.usAt (s : State) (us : Nat) : Nat := s.tickUs + us

/-- NOTIFY_CFG (R434): takes effect at once and restarts the moderation timer. -/
def execNotifyCfg (k : Kwp) (cnt dly mask us : Nat) (s : State) : Out :=
  .next <| s.request k 9 (fun s =>
    if cnt = 0 ∨ 64 < cnt ∨ 1000000 < dly then s.respond k.ses k.reqId 9 .range []
    else (s.sessMod k.ses (fun x =>
      { x with modCnt := cnt, modDly := dly, pageMask := mask, oldestAt := s.usAt us })).respond k.ses k.reqId 9 .ok [])

/-! ## Notifications (R434 to R436, R445) -/

/-- Sends a NOTIFY of session `i` with the codes pending, the earliest 32 of them, and clears the items (R435). -/
def sendNotify (i : Nat) (aggregate : Bool) (s : State) : State :=
  let x := s.sess i
  let codes := x.items.filterMap (fun it => match it with | .event c => some c | _ => none)
  let s1 := s.sessMod i (fun x => { x with nseq := (x.nseq + 1) % 2 ^ 32, txSeq := x.txSeq + 1, items := [], woke := 0 })
  (s1.bump .HOST_NOTIFY).say x.svc (.notify i x.txSeq ((x.nseq + 1) % 2 ^ 32) aggregate (decide (32 < codes.length)) x.cq.length
    (if s.host.owner = some i then s.icu.pres.getD 12 0 else 0) s.fno (codes.take 32))

/-- NOTIFY_SEND (R434): when the pending items number MOD_CNT or the oldest has waited MOD_DLY. -/
def execNotifySend (i us : Nat) (s : State) : Out :=
  let x := s.sess i
  .next (if x.st = 2 ∧ x.items ≠ [] ∧ (x.modCnt ≤ x.items.length ∨ x.modDly ≤ s.usAt us - x.oldestAt)
    then sendNotify i false s else s)

/-- SEV of an event code in the severity table (R445): index page × 32 + bit. -/
def State.severity (s : State) (code : Nat) : Nat := s.tfld 0x0B03 (code / 256 * 32 + code % 256) 0 0 3

/-- WAKE_ON_LAN (R445): a held event item of sufficient severity wakes the host of a dormant session, at most once in
WOL_HOLDOFF seconds; an item for which no packet could leave causes none later. -/
def execWakeOnLan (i : Nat) (s : State) : Out :=
  let x := s.sess i
  let hit := (x.items.drop x.woke).any (fun it => match it with | .event c => decide (x.wakeSev ≤ s.severity c) | _ => false)
  let freeAgain : Bool := match x.wolLast with
    | none => true
    | some f => decide (s.fld ⟨0xB058, 0, 16⟩ * 1000 ≤ s.since f)
  let s1 := s.sessMod i (fun x => { x with woke := x.items.length })
  .next (if x.st = 3 then
    (if x.wakeSev ≤ 7 ∧ hit = true ∧ freeAgain = true then
      ((s1.sessMod i (fun x => { x with wolLast := some s.fno })).bump .HOST_WOL).say x.svc (.wol i x.hostMac)
    else s1) else s)

/-- DORMANT (R443): takes effect on receipt; with DORM_MAX 0, one from the owner ends ownership at the next tick. -/
def execDormant (k : Kwp) (sev mac : Nat) (s : State) : Out :=
  .next <| s.request k 14 (fun s =>
    let s1 := s.sessMod k.ses (fun x => { x with st := 3, since := s.fno, wakeSev := sev, hostMac := mac })
    let s2 := if s.isOwner k.ses && s.fld ⟨0xB054, 16, 16⟩ == 0 then s1.hostMod (fun h => { h with endNext := true }) else s1
    s2.respond k.ses k.reqId 14 .ok [])

/-- RESUME (R444): ends dormancy; one aggregate NOTIFY leaves before the response; for the owner it renews the lease. -/
def execResume (k : Kwp) (us : Nat) (s : State) : Out :=
  .next <| s.request k 15 (fun s =>
    let s1 := s.sessMod k.ses (fun x => { x with st := 2 })
    let s2 := (sendNotify k.ses true s1).sessMod k.ses (fun x => { x with oldestAt := s.usAt us })
    let s3 := if s.isOwner k.ses then s2.hostMod (fun h => { h with leaseAt := s.fno }) else s2
    s3.respond k.ses k.reqId 15 .ok [])

/-- CLOSE (R426): the session ends after its response. -/
def execCloseReq (k : Kwp) (s : State) : Out :=
  .next <| s.request k 16 (fun s => (s.respond k.ses k.reqId 16 .ok []).closeSess k.ses)

/-! ## Ownership (R437 to R442) -/

/-- The owner as a response word: the session number, or 0xFF for none. -/
def State.ownerWord (s : State) : Word := BitVec.ofNat 32 (s.host.owner.getD 0xFF)

/-- MAX_PRIO and MAY_OWN of a session's credential. -/
def State.maxPrio (s : State) (i : Nat) : Nat := s.tfld 0x0B00 (s.sess i).cred 0 24 3
def State.mayOwn (s : State) (i : Nat) : Bool := s.tfld 0x0B00 (s.sess i).cred 0 30 1 == 1
def State.mayOverride (s : State) (i : Nat) : Bool := s.tfld 0x0B00 (s.sess i).cred 0 29 1 == 1

/-- OWN_REQ (R437): the credential's limits, which a PRIO above 7 always exceeds, before RANGE for an OVERRIDE other than 0 or 1 (R49);
REFUSED on sessions 6 and 7 of a pair, the only ones that a standby module's own addresses serve: a request on a service session
reaches a standby module in the input record and is judged as the active module judges it (R446). From the owner it is a renewal and
completes at once; otherwise it waits for its tick (R438). HOST_SESS shows the last PRIO's three bits. -/
def execOwnReq (k : Kwp) (prio ovr : Nat) (s : State) : Out :=
  .next <| s.request k 10 (fun s =>
    let s := s.sessMod k.ses (fun x => { x with prio := prio % 8 })
    if !s.mayOwn k.ses || decide (s.maxPrio k.ses < prio) || (ovr == 1 && !s.mayOverride k.ses) then
      s.respond k.ses k.reqId 10 .authFail [s.ownerWord]
    else if 1 < ovr then s.respond k.ses k.reqId 10 .range [s.ownerWord]
    else if s.cfg.pair && (k.ses == 6 || k.ses == 7) then
        s.respond k.ses k.reqId 10 .refused [s.ownerWord]
      else if s.isOwner k.ses then
        (s.hostMod (fun h => { h with leaseAt := s.fno })).respond k.ses k.reqId 10 .ok [s.ownerWord]
      else s.holdOwn k (.ownReq prio (ovr == 1)))

/-- OWN_RENEW (R439): the owner's, held for its tick. -/
def execOwnRenew (k : Kwp) (s : State) : Out :=
  .next <| s.request k 11 (fun s =>
    if s.isOwner k.ses then s.holdOwn k .renew else s.respond k.ses k.reqId 11 .denied [])

/-- OWN_HANDOVER (R440): to a number that is no session's it completes with REFUSED at its tick, as to one that is not open. -/
def execOwnHandover (k : Kwp) (dst : Nat) (s : State) : Out :=
  .next <| s.request k 12 (fun s =>
    if !s.isOwner k.ses then s.respond k.ses k.reqId 12 .denied []
    else s.holdOwn k (.handover dst))

/-- OWN_RELEASE (R440). -/
def execOwnRelease (k : Kwp) (s : State) : Out :=
  .next <| s.request k 13 (fun s =>
    if s.isOwner k.ses then s.holdOwn k .release else s.respond k.ses k.reqId 13 .denied [])

/-- Empties a target's stack (R405): every source on it loses CLAIMED, FAULT clears, and the ICU re-evaluates. -/
def stackReset (t : Nat) (s : State) : State :=
  let s1 := (s.icu.stack.getD t []).foldl (fun a src => a.srcSet src 28 1 0) s
  let s2 := { s1 with icu := { s1.icu with stack := setAt s1.icu.stack t [] } }
  (s2.setF (bitAt 0x7060 t) 0).icuEval

/-- What the tick shows when the owner changed or ownership ended (R441): PG_LOCK.OWNER of every page and HOST_STAT, the
HOST stack reset, OWNER_CHG and HOST_OWNER_CHG_CNT. -/
def ownerShown (s : State) : State :=
  let n := s.host.owner.getD 0xF
  let s1 := pageInfos.foldl (fun a i => a.setF ⟨addrOf i.page 0x30, 8, 4⟩ n) s
  ((stackReset 12 s1).bump .HOST_OWNER_CHG).raiseEv 0x0B 0

/-- The best of the requests (R438): the highest PRIO, and the lowest session number on a tie. -/
def bestReq (l : List (HReq × Nat)) : Option (HReq × Nat) :=
  l.foldl (fun b q =>
    match b with
    | none => some q
    | some c => if c.2 < q.2 ∨ (c.2 = q.2 ∧ q.1.ses < c.1.ses) then some q else some c) none

/-- The requests of the queue whose session is still the one that sent them. -/
def State.ownReqs (s : State) : List (HReq × Nat × Bool) :=
  s.host.ownQ.filterMap (fun q =>
    match q.op with
    | .ownReq p o => if (s.sess q.ses).gen == q.gen && (s.sess q.ses).st != 0 then some (q, p, o) else none
    | _ => none)

/-- A queued request of a kind from the owner. -/
def State.ownQOf (s : State) (f : HOp → Bool) : Option HReq :=
  match s.host.owner with
  | none => none
  | some o => s.host.ownQ.find? (fun q => q.ses == o && q.gen == (s.sess o).gen && f q.op)

/-- DORM_MAX seconds of dormancy have passed in session `i` (R443). -/
def State.dormOver (s : State) (i : Nat) : Bool :=
  (s.sess i).st == 3 && decide (s.fld ⟨0xB054, 16, 16⟩ * 1000 ≤ s.since (s.sess i).since)

/-- The owner's lease lapses at this tick (R439). That of a dormant owner runs to the tick at which its session closes (R443), and the
closing comes first (R442). -/
def State.lapses (s : State) : Bool :=
  match s.host.owner with
  | none => false
  | some o =>
    (s.sess o).st != 3 && decide (2000 ≤ s.since s.host.leaseAt) && (s.ownQOf (fun op => op == .renew)).isNone

/-- A dormant owner's session closes at the tick at which DORM_MAX falls (R443). -/
def State.dormClose (s : State) : State :=
  match s.host.owner with
  | some o => if s.dormOver o then s.closeSess o else s
  | none => s

/-- Removes the owner. -/
def State.noOwner (s : State) : State := s.hostMod (fun h => { h with owner := none, closing := false, endNext := false, prio := 0 })

/-- Makes session `i` the owner at PRIO `p`; its lease starts at the tick. -/
def State.newOwner (s : State) (i p : Nat) : State :=
  s.hostMod (fun h => { h with owner := some i, prio := p, leaseAt := s.fno, closing := false, endNext := false })

/-- Step 1 of R442: closing of the owner's session, then OWN_RELEASE, then lapse. -/
def resolveEnd (s : State) : State :=
  if s.host.closing ∨ s.host.endNext then s.noOwner
  else
    match s.ownQOf (fun op => op == .release) with
    | some q => (s.respondTo q 13 .ok []).noOwner
    | none =>
      if s.lapses then ((s.noOwner).bump .HOST_LAPSE).raiseEv 0x0B 1 else s

/-- Renewals that act at the tick (R439). -/
def resolveRenew (s : State) : State :=
  s.host.ownQ.foldl (fun a q =>
    if q.op = .renew then
      if a.host.owner = some q.ses ∧ (a.sess q.ses).gen = q.gen then
        (a.hostMod (fun h => { h with leaseAt := a.fno })).respondTo q 11 .ok [2000]
      else a.respondTo q 11 .denied []
    else a) s

/-- Step 2 of R442: a pre-empting OWN_REQ. -/
def resolvePreempt (s : State) : State :=
  match s.host.owner with
  | none => s
  | some _ =>
    match bestReq ((s.ownReqs.filter (fun e => e.2.2 && decide (s.host.prio < e.2.1))).map (fun e => (e.1, e.2.1))) with
    | none => s
    | some (q, p) =>
      ((((s.newOwner q.ses p).bump .HOST_PREEMPT).raiseEv 0x0B 2).respondTo q 10 .ok [BitVec.ofNat 32 q.ses])

/-- Step 3 of R442: OWN_HANDOVER, to a session open, not dormant, of a MAY_OWN credential, and not the owner's own. -/
def resolveHandover (was : Option Nat) (s : State) : State :=
  s.host.ownQ.foldl (fun a q =>
    match q.op with
    | .handover dst =>
      if was = some q.ses ∧ a.host.owner = some q.ses ∧ (a.sess q.ses).gen = q.gen ∧ dst ≠ q.ses ∧ (a.sess dst).st = 2
          ∧ a.mayOwn dst then
        (a.newOwner dst (min a.host.prio (a.maxPrio dst))).respondTo q 12 .ok []
      else a.respondTo q 12 .refused []
    | _ => a) s

/-- Step 4 of R442: election, only when steps 1 to 3 leave no owner. -/
def resolveElect (s : State) : State :=
  match s.host.owner with
  | some _ => s
  | none =>
    match bestReq (s.ownReqs.map (fun e => (e.1, e.2.1))) with
    | none => s
    | some (q, p) => (s.newOwner q.ses p).respondTo q 10 .ok [BitVec.ofNat 32 q.ses]

/-- Requests that did not win complete with REFUSED and the owner after the tick; releases that found nothing to release
complete DENIED_NOT_OWNER. The queue is empty afterwards. -/
def resolveRest (s : State) : State :=
  let s1 := s.host.ownQ.foldl (fun a q =>
    if (a.sess q.ses).inflight.contains q.reqId then
      match q.op with
      | .ownReq _ _ => a.respondTo q 10 .refused [a.ownerWord]
      | .release => a.respondTo q 13 .denied []
      | _ => a
    else a) s
  s1.hostMod (fun h => { h with ownQ := [] })

/-- OWNERSHIP_RESOLVE (R438, R442): the steps in their order at one tick, and what the tick shows of a change (R441). -/
def ownershipResolve (s : State) : State :=
  let was := s.host.owner
  let s1 := resolveEnd s.dormClose
  let s2 := resolveRenew s1
  let s3 := resolvePreempt s2
  let s4 := resolveHandover was s3
  let s5 := resolveElect s4
  let s6 := resolveRest s5
  let s7 := if s6.host.owner ≠ was ∨ (was ≠ none ∧ s1.host.owner = none) then ownerShown s6 else s6
  s7.hostRegs

def execOwnershipResolve (s : State) : Out := .next (s.andShown (ownershipResolve s))

/-- LEASE_LAPSED (R439): the lapse by itself. -/
def execLeaseLapsed (s : State) : Out :=
  .next <| s.andShown <|
    if s.host.closing || s.host.endNext || !s.lapses || (s.ownQOf (fun op => op == .release)).isSome then s
    else (ownerShown (((s.noOwner).bump .HOST_LAPSE).raiseEv 0x0B 1)).hostRegs

end Sys2Proof.Machine
end

