-- ==== Sys2Proof/Machine/Time.lean ====
section
/-! DEFINITION. The timebase: sources and their selection (R104, R105), PTP and 1PPS (R107 to R111), the servo (R113),
refusals and steps (R115 to R117), quality and holdover (R114, R118, R119). -/

namespace Sys2Proof.Machine

/-- `s` with the timebase changed. -/
def State.timeMod (s : State) (f : TimeSt → TimeSt) : State := { s with time := f s.time }

/-! ## Fields -/

/-- TIME_STAT. -/
def timeQuality : Fld := ⟨0x4048, 0, 3⟩
def timeSrc : Fld := ⟨0x4048, 4, 3⟩
def timeRefused : Fld := bitAt 0x4048 8
def timeEver : Fld := bitAt 0x4048 9
def timeLearned : Fld := bitAt 0x4048 10
def timeStepPend : Fld := bitAt 0x4048 11
def timeSlew : Fld := bitAt 0x4048 12

/-- The clock in ns since the PTP epoch, at the last tick (R100). -/
def State.clockNs (s : State) : Int := (s.ownSec : Int) * 1000000000 + s.ownNs

/-- Sets TIME_FRM from a clock value in ns, modulo 2^48 s. -/
def State.setClock (s : State) (t : Int) : State :=
  let sec := (Int.fdiv t 1000000000) % 2 ^ 48
  ((s.wr 0x4074 (ofInt sec)).wr 0x4078 (ofInt (sec / 2 ^ 32))).wr 0x407C (ofInt (Int.fmod t 1000000000))

/-! ## Quality and the error bound (R118, R119) -/

/-- TIME_ERR_EST (R119). -/
def State.errEst (s : State) : State :=
  let q := s.fld timeQuality
  let v := if q = 0 then 2 ^ 32 - 1
    else if q = 2 then
      match s.time.holdBase with
      | none => 2 ^ 32 - 1
      | some b => b + s.fld Ctr.TIME_HOLD_MIN.f * (if s.bit timeLearned then 1667 else 30000)
    else s.time.lastAcc.getD (2 ^ 32 - 1)
  s.wr 0x4070 (BitVec.ofNat 32 (min v (2 ^ 32 - 1)))

/-- Sets QUALITY; each change raises QUAL_CHG, and holdover counts its minutes from its entry. DESIGN CHOICE: outside a holdover HOLD_MIN keeps
the minutes of the last one, which R125 ("minutes in the current holdover") does not state. -/
def State.setQuality (s : State) (q : Nat) : State :=
  if s.fld timeQuality = q then s.errEst
  else
    let s1 := s.setF timeQuality q
    let s2 := s1.timeMod (fun t => { t with holdStart := s.ownFno, minStart := s.ownFno, minSum := 0, lockN := if q = 1 then t.lockN else 0,
                                            holdBase := if q = 2 then t.lastAcc else t.holdBase })
    let s3 := if q = 2 then s2.setF Ctr.TIME_HOLD_MIN.f 0 else s2
    (s3.errEst).raiseEv 4 3

/-- The same for the module's own servo: a standby module reports what the active one sends instead (R118). -/
def State.ownQuality (s : State) (q : Nat) : State := if s.mstate = 3 then s.errEst else s.setQuality q

/-- Leaves LOCKED or STEPPED for HOLDOVER. -/
def State.toHoldover (s : State) : State :=
  if s.fld timeQuality = 1 ∨ s.fld timeQuality = 3 then s.ownQuality 2 else s

/-! ## Sources (R104, R105) -/

/-- ROLE of the pair of a PTP port, its DOMAIN, and its intervals as powers of two of a second. -/
def ptpPair (p : Nat) : Nat := p / 2
def State.ptpRole (s : State) (p : Nat) : Nat := s.fld ⟨0x4094 + 8 * ptpPair p, 0, 2⟩
def State.ptpDomain (s : State) (p : Nat) : Nat := s.fld ⟨0x4094 + 8 * ptpPair p, 8, 7⟩
def State.ptpLog (s : State) (p lo : Nat) : Int := signed 8 (s.fld ⟨0x4098 + 8 * ptpPair p, lo, 8⟩)

/-- `n` intervals of 2^log s, in sixteenths of a millisecond. -/
def intervals16 (n : Nat) (log : Int) : Nat := n * 1000 * 2 ^ (log + 4).toNat

/-- A PTP port of the timebase. -/
def State.ptp (s : State) (p : Nat) : PtpPort := s.time.ports.getD p ⟨0, none, none, none⟩

/-- A PTP port meets the validity rule of R104. -/
def State.ptpValid (s : State) (p : Nat) : Bool :=
  s.ptpRole p != 0 && (s.ptp p).st == 9 &&
    match (s.ptp p).lastSync with
    | none => false
    | some f => decide (s.ownSince f * 16 ≤ intervals16 3 (s.ptpLog p 0))

/-- SEL of a pair: the port in use (R108). -/
def ptpSel (pair : Nat) : Fld := bitAt (0x40A4 + 4 * pair) 8

/-- SEL (R108): of the pair's ports in SLAVE, in the order in which they reached it, the first that meets the validity rule; the first of
them where none does; unchanged with none in SLAVE. -/
def State.ptpSelect (s : State) (pair : Nat) : State :=
  let l := s.time.slaves.filter (fun p => ptpPair p == pair)
  match (match l.find? s.ptpValid with
    | some p => some p
    | none => l.head?) with
  | some p => s.setF (ptpSel pair) (p % 2)
  | none => s

/-- A source's condition of R104 holds. -/
def State.srcOk (s : State) (c : Nat) : Bool :=
  if c = 1 then s.ptpValid 0 || s.ptpValid 1
  else if c = 2 then s.ptpValid 2 || s.ptpValid 3
  else if c = 3 then decide (3 ≤ s.time.ppsGood) && decide (s.ownSince s.time.ppsFno ≤ 1001)
  else if c = 4 then s.mstate == 3 &&
    (match s.time.twinFno with
     | none => false
     | some f => decide (s.ownSince f ≤ 1))
  else false

/-- A source is in a period of continuous validity. -/
def State.srcSince (s : State) (c : Nat) : Option Nat := s.time.since.getD (c - 1) none

/-- Notes the beginning and the end of a source's periods of validity; its latest offset belongs to one period (R117). -/
def State.srcNote (s : State) (c : Nat) : State :=
  match s.srcOk c, s.srcSince c with
  | true, none => s.timeMod (fun t => { t with since := setAt t.since (c - 1) (some s.ownFno), offs := setAt t.offs (c - 1) none })
  | false, some _ => s.timeMod (fun t => { t with since := setAt t.since (c - 1) none, offs := setAt t.offs (c - 1) none })
  | _, _ => s

/-- The sources among which R105 selects, in order of rank: TWIN alone on a standby module while it is valid. -/
def State.ranked (s : State) : List Nat :=
  if s.mstate = 3 ∧ s.srcOk 4 then [4]
  else ([s.fld ⟨0x404C, 0, 4⟩, s.fld ⟨0x404C, 4, 4⟩, s.fld ⟨0x404C, 8, 4⟩].filter (fun c => c != 0 && decide (c ≤ 3)))

/-- Selects a source (R105): SRC_CHG and its counter; the run of offsets for lock starts again; with none selected, LOCKED
and STEPPED end (R118). -/
def State.selectSrc (s : State) (c : Nat) : State :=
  if s.fld timeSrc = c then s
  else
    let s1 := (((s.setF timeSrc c).timeMod (fun t => { t with lockN := 0 })).bump .TIME_SRC_CHG).raiseEv 4 4
    if c = 0 then s1.toHoldover else s1

/-- Judges every source and, where none is selected or the selected one may no longer be, selects the highest-ranked valid
one (R105). PPS_LOST is raised when PPS_TOD stops being valid while selected. -/
def State.timeEval (s : State) : State :=
  let s0 := (s.ptpSelect 0).ptpSelect 1
  let s1 := [1, 2, 3, 4].foldl (fun a c => a.srcNote c) s0
  let cur := s1.fld timeSrc
  let best := ((s1.ranked.find? (fun c => s1.srcOk c))).getD 0
  if cur = 0 then s1.selectSrc best
  else if s1.srcOk cur && s1.ranked.contains cur then s1
  else
    let s2 := if cur = 3 && !s1.srcOk 3 then s1.raiseEv 4 6 else s1
    s2.selectSrc best

/-- SOURCE_INVALID (R105): the selected source has stopped being valid. -/
def execSourceInvalid (s : State) : Out := .next s.timeEval

/-- A higher-ranked source valid for 10 s continuously replaces the selected one (R105). -/
def State.timeUpgrade (s : State) : State :=
  let s1 := s.timeEval
  let cur := s1.fld timeSrc
  let higher := s1.ranked.takeWhile (fun c => c != cur)
  if cur = 0 then s1
  else
    match higher.find? (fun c =>
        match s1.srcSince c with
        | none => false
        | some f => decide (10000 ≤ s1.ownSince f)) with
    | some c => s1.selectSrc c
    | none => s1

/-- SOURCE_UPGRADE (R105). -/
def execSourceUpgrade (s : State) : Out := .next s.timeUpgrade

/-- A standby module reports HOLDOVER whenever TWIN is not valid (R118). -/
def State.standbyHold (s : State) : State := if s.mstate = 3 ∧ s.srcOk 4 = false then s.timeEval.setQuality 2 else s

/-! ## The servo (R113) and refusals (R115) -/

/-- KP × a + KI × b in ppt, rounded to an integer: exact where it is one; otherwise up or down as the spec leaves it. -/
def servoPpt (kp ki : Word) (a b : Int) (up : Bool) : Int :=
  match f32Exact kp, f32Exact ki with
  | some (m1, e1), some (m2, e2) =>
    let e := min 0 (min e1 e2)
    let n := 1000 * (m1 * a * 2 ^ (e1 - e).toNat + m2 * b * 2 ^ (e2 - e).toNat)
    let d : Int := 2 ^ (-e).toNat
    if Int.fmod n d = 0 ∨ !up then Int.fdiv n d else Int.fdiv n d + 1
  | _, _ => Config.servoNonfinite kp ki a

/-- ±200,000 ppb in ppt. -/
def slewLim : Int := 200000000

/-- The frequency held while offsets are refused: TIME_HOLD_FREQ if LEARNED, otherwise the last y (R115). -/
def State.yHold (s : State) : Word := if s.bit timeLearned then s.rd 0x4068 else s.rd 0x4064

/-- Holds y_hold. -/
def State.servoHold (s : State) : State := (s.wr 0x4064 s.yHold).setB timeSlew false

/-- One step of the PI controller on an accepted offset. -/
def State.servo (s : State) (th : Int) : State :=
  let kp := s.rd 0x4058
  let ki := s.rd 0x405C
  let up := Config.roundUp s.free
  let tried := servoPpt kp ki th (s.time.acc + th) up
  let acc := if -slewLim ≤ tried ∧ tried ≤ slewLim then s.time.acc + th else s.time.acc
  let y := servoPpt kp ki th acc up
  let clamped := decide (y < -slewLim) || decide (slewLim < y)
  let s1 := (((s.useFree).timeMod (fun t => { t with acc := acc })).wr 0x4064 (ofInt (clampI (-slewLim) slewLim y)))
  let was := s.bit timeSlew
  let s2 := s1.setB timeSlew clamped
  if clamped && !was then s2.raiseEv 4 5 else s2

/-- An offset is refused (R115). -/
def State.offRefused (s : State) (th : Int) : Bool :=
  if s.bit timeEver then decide ((s.rd 0x4050).toNat < th.natAbs) else !s.bit (bitAt 0x4040 1)

/-- What a refused offset does. -/
def State.refuseOff (s : State) (th : Int) : State :=
  let was := s.bit timeRefused
  let s1 := ((s.servoHold).setB timeRefused true).bump .TIME_JUMP
  let s2 := (s1.wr 0x4110 (ofInt (Int.tdiv th 1000000000))).wr 0x4114 (ofInt (Int.tmod th 1000000000))
  let s3 := s2.timeMod (fun t => { t with lockN := 0 })
  let s4 := if s.bit timeEver then s3.toHoldover else s3
  if was then s4 else s4.raiseEv 4 0

/-- What an accepted offset does: the refusal ends, the servo acts unless SERVO_EN is 0, and the lock condition is judged
(R113, R115, R118, R119). -/
def State.acceptOff (s : State) (th : Int) : State :=
  let s1 := s.setB timeRefused false
  let s2 := if s.bit (bitAt 0x4040 0) then s1.servo th else s1.servoHold
  let n := if th.natAbs ≤ s.fld ⟨0x4054, 0, 16⟩ then s.time.lockN + 1 else 0
  let s3 := s2.timeMod (fun t => { t with lastAcc := some th.natAbs, lockN := n })
  if s.fld ⟨0x4054, 16, 16⟩ ≤ n ∧ s.fld timeQuality ≠ 0 then s3.ownQuality 1 else s3.errEst

/-- A measured offset of a source (R113, R106, R117). Only the selected source's offsets reach the servo; with EVER_SYNC 0
and INIT_SET_EN 1 the first one waits for the next tick as the initial set. -/
def State.timeOffset (s : State) (src : Nat) (th : Int) : State :=
  let s1 := s.timeMod (fun t => { t with offs := setAt t.offs (src - 1) (some th) })
  if s.fld timeSrc ≠ src then s1
  else
    let s2 := s1.wr 0x4060 (ofInt (clampI (-(2 ^ 31 - 1)) (2 ^ 31 - 1) th))
    if !s.bit timeEver && s.bit (bitAt 0x4040 1) then
      s2.timeMod (fun t => { t with initPend := some (t.initPend.getD th) })
    else if s.offRefused th then s2.refuseOff th
    else s2.acceptOff th

/-! ## PTP (R107 to R110) -/

/-- TIME_PTP_AB_STAT or TIME_PTP_H_STAT (R125): the states of the pair's ports and the clockClass of the grandmaster of the port in use; and
TIME_GM_ID, its identity. DESIGN CHOICE: with ports of both pairs in SLAVE, TIME_GM_ID shows the grandmaster of the pair whose port acted last;
R125 does not say which. -/
def State.ptpShow (s : State) (pair : Nat) : State :=
  let p := s.ptp (2 * pair + s.fld (ptpSel pair))
  let a := 0x40A4 + 4 * pair
  let s1 := (s.setF ⟨a, 0, 4⟩ (s.ptp (2 * pair)).st).setF ⟨a, 4, 4⟩ (s.ptp (2 * pair + 1)).st
  match p.st, p.ann with
  | 9, some g => ((s1.setF ⟨a, 24, 8⟩ g.cls).wr 0x40AC g.gmLo).wr 0x40B0 g.gmHi
  | _, _ => s1

/-- `s` with a PTP port changed. -/
def State.ptpMod (s : State) (p : Nat) (f : PtpPort → PtpPort) : State :=
  s.timeMod (fun t => { t with ports := modAt t.ports p f })

/-- A port takes a state; the order in which ports reached SLAVE follows (R108). -/
def State.ptpState (s : State) (p st : Nat) : State :=
  (s.ptpMod p (fun x => { x with st := st })).timeMod (fun t => { t with slaves :=
    if st = 9 then (if t.slaves.contains p then t.slaves else t.slaves ++ [p]) else t.slaves.filter (· != p) })

/-- The ports of a pair start in the state that ROLE gives (IEEE 1588): DISABLED when off; otherwise LISTENING, with the announce receipt
timeout running. -/
def State.ptpStart (s : State) (pair : Nat) : State :=
  let off := s.ptpRole (2 * pair) == 0
  let s1 := [2 * pair, 2 * pair + 1].foldl (fun a p =>
    (a.ptpState p (if off then 3 else 4)).ptpMod p (fun x => { x with
      lastSync := none, ann := none, lastAnn := if off then none else some a.ownFno })) s
  (s1.timeEval).ptpShow pair

/-- The mean link delay of a port (R109). -/
def State.portPdelay (s : State) (p : Nat) : Int := (s.rd (0x40E0 + 4 * p)).toNat

/-- PTP frames received on a port whose line is up count on the pages of ports A and B (R245): a Sync and a peer delay response come with their
Follow_Up. -/
def State.ptpFrames (s : State) (port n : Nat) : State :=
  if s.lineUp port then (List.range n).foldl (fun a _ => a.rxFrame port) s else s

/-- A PTP message is of a port that takes part, in its domain, and its line is up (R107). -/
def State.ptpHears (s : State) (port domain : Nat) : Bool :=
  s.ptpRole port != 0 && domain == s.ptpDomain port && decide (port < 4) && s.lineUp port

/-- PTP_SYNC_RX (R104, R109, R113): a Sync with its Follow_Up on a port, its origin time with the corrections it carries and
the timestamp of its reception, in ns. The offset of the port in use is measured for its source. A lapse of the sources before it is judged
first. -/
def execPtpSyncRx (port domain : Nat) (master rx : Int) (s : State) : Out :=
  .next <|
    let s0 := s.ptpFrames port 2
    if !s.ptpHears port domain then s0
    else
      let s1 := ((s0.timeEval.ptpMod port (fun p => { p with lastSync := some s.ownFno })).timeEval)
      let th := master + s.portPdelay port + s.portAsym port - (rx - s.latIn port)
      let src := ptpPair port + 1
      if s1.ptpValid port && s1.fld (ptpSel (ptpPair port)) == port % 2 then
        (s1.timeOffset src th).ptpShow (ptpPair port)
      else s1

/-! The best master clock algorithm (R107: IEEE 1588-2019's default; its data set comparison and state decision are PRESUMED from that
standard, which the rule names and does not restate). -/

/-- The module's own data set: PRIORITY1, PRIORITY2, the clockClass and clockAccuracy it announces, its variance and identity. -/
def State.ptpOwn (s : State) (pair : Nat) (cls : Nat) : PtpAnn :=
  let id := Config.ptpIdentity % 2 ^ 64
  { p1 := s.fld ⟨0x4094 + 8 * pair, 16, 8⟩, cls := cls, acc := s.fld ⟨0x40B4, 24, 8⟩, var := Config.ptpVariance % 2 ^ 16,
    p2 := s.fld ⟨0x4094 + 8 * pair, 24, 8⟩, gmLo := BitVec.ofNat 32 id, gmHi := BitVec.ofNat 32 (id / 2 ^ 32), steps := 0, src := id,
    qual := true, cal := true }

/-- Two data sets name one grandmaster. -/
def PtpAnn.sameGm (a b : PtpAnn) : Bool := a.gmLo == b.gmLo && a.gmHi == b.gmHi

/-- What the comparison of different grandmasters orders by. -/
def PtpAnn.key (a : PtpAnn) : List Nat := [a.p1, a.cls, a.acc, a.var, a.p2, a.gmHi.toNat, a.gmLo.toNat]

/-- `a` is better than `b`: the better grandmaster; of one grandmaster, the fewer steps, then the lower sender. -/
def PtpAnn.better (a b : PtpAnn) : Bool :=
  if a.sameGm b then decide (a.steps < b.steps) || (a.steps == b.steps && decide (a.src < b.src)) else decide (a.key < b.key)

/-- `a` is better than `b` by topology only: one grandmaster, at most one step apart. -/
def PtpAnn.byTopology (a b : PtpAnn) : Bool := a.sameGm b && a.better b && decide (b.steps ≤ a.steps + 1)

/-- The state that the algorithm gives port `p`: of master-only and slave-only ports the states that their ROLE lets them take. -/
def State.bmca (s : State) (p cls : Nat) : Nat :=
  let role := s.ptpRole p
  let own := s.ptpOwn (ptpPair p) cls
  let mine := (s.ptp p).ann
  let other := (s.ptp (2 * ptpPair p + (1 - p % 2))).ann
  match mine with
  | none => if role = 1 then 4 else if cls < 128 ∨ other.isNone = true then 6 else
      (match other with
       | some b => if own.better b then 6 else (s.ptp p).st
       | none => 6)
  | some e =>
    let st :=
      if role = 1 then (match other with
        | some b => if b.byTopology e then 7 else 9
        | none => 9)
      else if role = 3 then (if own.better e then 6 else 7)
      else if cls < 128 then (if own.better e then 6 else 7)
      else
        let best := match other with
          | some b => if b.better e then b else e
          | none => e
        if own.better best then 6 else if best = e then 9 else if best.byTopology e then 7 else 6
    if st = 9 ∧ e.cal = false then 8 else st

/-- clockClass by quality (R110). -/
def State.clockClass (s : State) : Nat :=
  let q := s.fld timeQuality
  if q = 1 then s.fld ⟨0x40B4, 0, 8⟩ else if q = 2 then s.fld ⟨0x40B4, 8, 8⟩ else s.fld ⟨0x40B4, 16, 8⟩

/-- The ports of a pair take the states that the algorithm gives them. -/
def State.ptpDecide (s : State) (pair : Nat) : State :=
  let s1 := [2 * pair, 2 * pair + 1].foldl (fun a p => a.ptpState p (if (s.ptp p).ann.isNone then (s.ptp p).st else s.bmca p s.clockClass)) s
  (s1.timeEval).ptpShow pair

/-- The Announce that the operands of PTP_ANNOUNCE_RX give. -/
def annOf (cls : Nat) (gmLo gmHi : Word) (b : PtpData) : PtpAnn :=
  { p1 := b.p1, cls := cls, acc := b.acc, var := b.var, p2 := b.p2, gmLo := gmLo, gmHi := gmHi, steps := b.steps, src := b.src,
    qual := b.qual, cal := b.cal }

/-- PTP_ANNOUNCE_RX (R107): the Announce of a qualified master is used by the best master clock algorithm of its port pair, and restarts the
announce receipt timeout; one that has gone through 255 clocks or more is not used. -/
def execPtpAnnounceRx (port domain cls : Nat) (gmLo gmHi : Word) (bmca : PtpData) (s : State) : Out :=
  .next <|
    let s0 := s.ptpFrames port 1
    if !s.ptpHears port domain || !bmca.qual || decide (255 ≤ bmca.steps) then s0
    else (s0.timeEval.ptpMod port (fun p => { p with
      lastAnn := some s.ownFno, ann := some (annOf cls gmLo gmHi bmca) })).ptpDecide (ptpPair port)

/-- ANNOUNCE_RECEIPT_TIMEOUT (R107): no Announce within the announce receipt timeout, from the last one or from the port's start; a slave-only
port listens, any other becomes master. -/
def execAnnounceReceiptTimeout (port : Nat) (s : State) : Out :=
  .next <|
    match (s.ptp port).lastAnn with
    | none => s
    | some f =>
      if intervals16 (s.fld ⟨0x4098 + 8 * ptpPair port, 24, 8⟩) (s.ptpLog port 8) ≤ s.ownSince f * 16 ∧ s.ptpRole port ≠ 0 then
        (((s.timeEval.ptpMod port (fun p => { p with lastAnn := none, ann := none })).ptpState port
          (if s.ptpRole port = 1 then 4 else 6)).ptpDecide (ptpPair port))
      else s

/-- PTP_PDELAY_EXCHANGE (R108, R109): the mean link delay from the four timestamps, corrected by the port's latencies: t1 and
t4 the port's own, t2 and t3 the peer's. A negative mean reads 0. DESIGN CHOICE: a mean with half a nanosecond is rounded down; R109 states no
rounding. -/
def execPtpPdelayExchange (port domain : Nat) (t1 t2 t3 t4 : Int) (s : State) : Out :=
  .next <|
    let s0 := s.ptpFrames port 2
    if !s.ptpHears port domain || !s.txOn port then s0
    else
      let d := ((t4 - s.latIn port) - (t1 + s.latOut port)) - (t3 - t2)
      ((s0.txFrame port).prpSkip port).wr (0x40E0 + 4 * port) (ofInt (max 0 (Int.fdiv d 2)))

/-- A port acts as master, and not for the source that the servo follows (R110). -/
def State.ptpMaster (s : State) (port : Nat) : Bool :=
  (s.ptp port).st == 6 && s.ptpRole port != 0 && s.fld timeSrc != ptpPair port + 1 && s.lineUp port && s.txOn port

/-- PTP_SYNC_TX (R107). -/
def execPtpSyncTx (port : Nat) (s : State) : Out :=
  .next (if s.ptpMaster port then ((((s.txFrame port).txFrame port).prpNext port (fun p => .ptpSync port p)).prpSkip port) else s)

/-- timeSource by the selected source (R110). -/
def timeSourceCode (src : Nat) : Nat := if src = 1 ∨ src = 2 then 0x40 else if src = 3 then 0x20 else 0xA0

/-- PTP_ANNOUNCE_TX (R110). -/
def execPtpAnnounceTx (port : Nat) (s : State) : Out :=
  .next (if s.ptpMaster port then
    (s.txFrame port).prpNext port (fun p =>
      .ptpAnnounce port s.clockClass (s.fld ⟨0x40B4, 24, 8⟩) (s.fld ⟨0x408C, 0, 16⟩) (timeSourceCode (s.fld timeSrc)) p)
  else s)

/-! ## 1PPS and time of day (R104, R111) -/

/-- TOD_SENTENCE_RX (R111): a ZDA sentence with its UTC second; a sentence 1 s later than the previous one keeps the run of
valid seconds. A sentence with a wrong checksum counts for nothing. -/
def execTodSentenceRx (utc : Nat) (crcOk : Bool) (s : State) : Out :=
  .next <|
    if crcOk then
      s.timeMod (fun t => { t with tod := some utc, todFresh := decide (t.tod = some (utc - 1) ∧ 0 < utc) })
    else s

/-- The TAI second that the sentences give a 1PPS edge (R111): UTC_OFS is added, and a sentence names the edge after it with
ZDA_NEXT at 1, the edge before it with 0. -/
def State.edgeSec (s : State) : Option Int :=
  s.time.tod.map (fun u => (u : Int) + s.fld ⟨0x408C, 0, 16⟩ + (if s.bit (bitAt 0x408C 16) then 0 else 1))

/-- PPS_EDGE (R104, R111): a rising edge at a clock value in ns. IN_DELAY is added to the edge time. -/
def execPpsEdge (edge : Int) (s : State) : Out :=
  .next <|
    let good := match s.time.ppsAt with
      | none => false
      | some p => decide ((edge - p - 1000000000).natAbs ≤ 10000) && s.time.todFresh
    let s1 := (s.timeEval.timeMod (fun t => { t with
      ppsAt := some edge, ppsFno := s.ownFno, todFresh := false, ppsGood := if good then t.ppsGood + 1 else 0 })).timeEval
    match s1.edgeSec with
    | none => s1
    | some sec =>
      if s1.srcOk 3 then
        s1.timeOffset 3 (sec * 1000000000 - (edge + signed 16 (s.fld ⟨0x4090, 0, 16⟩)))
      else s1

/-! ## Commands -/

/-- TIME_CMD.STEP_ACCEPT at its tick (R116, R117): no effect while JUMP_REFUSED is 0; otherwise the latest offset of the
selected source is the step, and without one the step is withdrawn. A second acceptance is absorbed. -/
def stepAccept (s : State) : State :=
  if !s.bit timeRefused || s.bit timeStepPend then s
  else
    let src := s.fld timeSrc
    match (if src = 0 then none else s.time.offs.getD (src - 1) none) with
    | none => s
    | some d => (s.setB timeStepPend true).timeMod (fun t => { t with stepPend := some d })

def execStepAccept (s : State) : Out := .next (stepAccept s)

/-- TIME_CMD.RELEARN (R114): the learning is cleared, the minutes' counter and its flag with it. -/
def relearn (s : State) : State :=
  ((((s.clearCtr .TIME_LEARN_MIN).setB timeLearned false).wr 0x4068 0).timeMod (fun t =>
    { t with learn := [], minStart := s.ownFno, minSum := 0 })).errEst

def execRelearn (s : State) : Out := .next (relearn s)

/-- TIME_CMD.CLR_CNT (R125): every TIME counter of kind S and its flag. -/
def timeClrCnt (s : State) : State :=
  ([Ctr.TIME_JUMP, .TIME_STEP, .TIME_SRC_CHG, .TIME_LATE, .TIME_MISSED, .TIME_HOLD_MIN, .TIME_LEARN_MIN].foldl
    (fun a c => a.clearCtr c) s).errEst

def execClrCnt (s : State) : Out := .next (timeClrCnt s)

/-- TIME_HOLD_FREQ: the mean of y over the minutes learned (R114). -/
def State.holdFreq (s : State) : State :=
  let n : Int := 60000 * s.time.learn.length
  let sum := s.time.learn.foldl (· + ·) 0
  let up := Config.roundUp s.free
  if n = 0 then s
  else (s.useFree).wr 0x4068 (ofInt (if Int.fmod sum n = 0 ∨ !up then Int.fdiv sum n else Int.fdiv sum n + 1))

/-- LEARN_MINUTE (R114, R119): 60,000 frames after the quality last changed or the last minute ended, a minute of holdover is
counted, or a minute of LOCKED whose TCXO temperature stayed within ±2 K of its 1 h mean is learned. DESIGN CHOICE: LEARNED is judged by the
counter LEARN_MIN, so that a clear of the counter makes the 1,440 minutes count anew, while TIME_HOLD_FREQ keeps the minutes learned before it;
R114 speaks of RELEARN only. -/
def execLearnMinute (tempOk : Bool) (s : State) : Out :=
  .next <|
    if s.fld timeQuality = 2 then
      if s.ownSince s.time.holdStart < 60000 then s
      else ((s.timeMod (fun t => { t with holdStart := s.ownFno })).bump .TIME_HOLD_MIN).errEst
    else if s.ownSince s.time.minStart < 60000 then s
    else
      let s1 := s.timeMod (fun t => { t with minStart := s.ownFno, minSum := 0 })
      if s.fld timeQuality = 1 && tempOk then
        let s2 := (s1.timeMod (fun t => { t with learn := (s.time.minSum :: t.learn).take 1440 })).bump .TIME_LEARN_MIN
        let s3 := s2.holdFreq
        if 1440 ≤ s3.fld Ctr.TIME_LEARN_MIN.f then s3.setB timeLearned true else s3
      else s1

end Sys2Proof.Machine
end

