-- ==== Sys2Proof/Machine/Launch.lean ====
section
/-! DEFINITION. Launch comparators (R103, R120 to R124), the end of privileged requests (R286), and accepted steps and initial
sets (R106, R116). -/

namespace Sys2Proof.Machine

/-! ## Requests: log, outcomes and ends (R286, R295) -/

/-- `s` with the privileged channels changed. -/
def State.privMod (s : State) (f : PrivSt → PrivSt) : State := { s with priv := f s.priv }

/-- Outcome codes of R286. -/
def oDELIVERED : Nat := 1
def oSENT : Nat := 2
def oUNDELIVERED : Nat := 3
def oREFUSED : Nat := 4
def oLATE : Nat := 5
def oMISSED : Nat := 6
def oBREACH : Nat := 7
def oNAK : Nat := 8

/-- PRIV_CH_STAT_ch: fields. -/
def chStat (ch lo w : Nat) : Fld := ⟨0x26140 + 4 * ch, lo, w⟩

/-- The channel's outstanding requests, shown and counted. -/
def State.chOut (s : State) (ch : Nat) : Nat := (s.priv.reqs.filter (fun r => r.ch == ch)).length
def State.chShow (s : State) (ch : Nat) : State := s.setF (chStat ch 20 4) (s.chOut ch)

/-- Words 6 and 7 of the request's log record, while the ring still holds it: the release or the firing. -/
def State.logReleased (s : State) (r : PrivReq) (t : Nat × Nat) : State :=
  if s.tfld 0x2601 r.log 0 0 5 = r.ch ∧ s.trd 0x2601 r.log 1 = BitVec.ofNat 32 r.seq then
    (s.twr 0x2601 r.log 6 (BitVec.ofNat 32 t.1)).twr 0x2601 r.log 7 (BitVec.ofNat 32 t.2)
  else s

/-- A request ends with an outcome: it is outstanding no more; log record, channel status and counters show it. -/
def State.privEnd (s : State) (r : PrivReq) (o : Nat) : State :=
  let s1 := s.privMod (fun q => { q with reqs := q.reqs.filter (fun x => !(x.ch == r.ch && x.seq == r.seq)) })
  let s2 := if s1.tfld 0x2601 r.log 0 0 5 = r.ch ∧ s1.trd 0x2601 r.log 1 = BitVec.ofNat 32 r.seq then
      s1.tset 0x2601 r.log 0 28 4 o
    else s1
  let s3 := (s2.setF (chStat r.ch 28 4) o).chShow r.ch
  if o = oDELIVERED then s3.bump .PRIV_DELIV
  else if o = oUNDELIVERED then (s3.bump .PRIV_UNDELIV).raiseEv 0x26 3
  else s3

/-- The request whose comparator is `n`. -/
def State.compReq (s : State) (n : Nat) : Option PrivReq := s.priv.reqs.find? (fun r => r.cls == 1 && r.comp == n)

/-! ## Comparators -/

/-- LNCH_SEC_n, LNCH_NS_n, LNCH_ACT_n and LNCH_STAT_n. -/
def lnchReg (n off : Nat) : Nat := 0x5040 + 16 * n + off
def lnchStat (n b : Nat) : Fld := bitAt (lnchReg n 12) b

/-- What comparator `n` has latched. -/
def State.lnchOf (s : State) (n : Nat) : Option LnchArm := s.lnch.find? (fun a => a.n == n)

/-- The arming of comparator `n` ends. -/
def State.lnchEnd (s : State) (n : Nat) : State :=
  { s with lnch := s.lnch.filter (fun a => a.n != n) }.setB (lnchStat n 22) false

/-- Why a launch is late: its arming came late, a step passed over it, or a takeover (R122, R291, R293). -/
inductive LateBy where
  | arming | step | takeover
deriving DecidableEq, Repr

/-- The outcome of a privileged launch that fired or missed: a late firing is LATE; a step that passed over it is a STEP_HIT. -/
def State.privFired (s : State) (n : Nat) (late missed : Bool) (by_ : LateBy) (t : Nat × Nat) : State :=
  match s.compReq n with
  | none => s
  | some r =>
    let s1 := if by_ = .step ∧ (late ∨ missed) then (s.bump .PRIV_STEP_HIT).raiseEv 0x26 6 else s
    let s2 := if missed then s1 else s1.logReleased r t
    s2.privEnd r (if missed then oMISSED else if late then oLATE else oDELIVERED)

/-- The ACTION of a launch at the instant `off` ns into the frame (R121). A privileged launch does what its channel states
(R280): an output on or off, or a trip pair held. An output of a class 1 channel follows no other launch (R309). In FAULT the analogue and PWM outputs keep their SAFE action (R314). -/
def State.lnchAct (s : State) (a : LnchArm) (off : Nat) : State :=
  match a.act with
  | 1 => if s.doOwned a.tgt then s else s.doLaunch a.tgt true
  | 2 => if s.doOwned a.tgt then s else s.doLaunch a.tgt false
  | 3 => if s.mstate = 6 then s else s.aoutApply a.tgt
  | 4 => if s.mstate = 6 then s else s.pwmApply a.tgt off
  | 5 =>
    match s.compReq a.n with
    | none => s
    | some r =>
      let act := s.chFld r.ch 2 16 2
      let tgt := s.chFld r.ch 2 13 3
      if act = 2 then s.tripLatch r.ch (2 ^ tgt) else s.doLaunch tgt (act == 0)
  | _ => s

/-- A comparator fires: its action, FIRED, ARMED cleared, and its interrupt source (R121). -/
def State.lnchFire (s : State) (a : LnchArm) (late : Bool) (by_ : LateBy) (off : Nat) (t : Nat × Nat) : State :=
  let s1 := ((s.lnchEnd a.n).setB (lnchStat a.n 23) true).lnchAct a off
  let s2 := if late then (((s1.setB (lnchStat a.n 24) true).bump .TIME_LATE).raiseEv 5 0) else s1
  (s2.privFired a.n late false by_ t).signal (0x040 + a.n)

/-- An armed comparator whose launch time is due with a lateness in ns (R122). -/
def State.lnchLate (s : State) (a : LnchArm) (late : Nat) (by_ : LateBy) (off : Nat) (t : Nat × Nat) : State :=
  let s1 := s.setF ⟨lnchReg a.n 12, 0, 20⟩ (min (late / 1000) 1048575)
  let grace := if by_ = .takeover ∧ a.act = 5 then max 4 a.grace else a.grace
  if late = 0 then s1.lnchFire a false by_ off t
  else if late ≤ grace * 1000000 then s1.lnchFire a true by_ off t
  else
    let s2 := (((s1.lnchEnd a.n).setB (lnchStat a.n 25) true).bump .TIME_MISSED).raiseEv 5 1
    s2.privFired a.n false true by_ t

/-- Comparator `n` is armed at an instant of the frame (R120, R122, R123): the active values are latched, the flags cleared; an
arming still open ends with REARMED; a launch time already due is judged at once. -/
def State.lnchArm (s : State) (n off : Nat) : State :=
  let was := s.bit (lnchStat n 22)
  let act := s.rd (lnchReg n 8)
  let a : LnchArm :=
    { n := n, sec := (s.rd (lnchReg n 0)).toNat, ns := s.fld ⟨lnchReg n 4, 0, 30⟩, grace := wbits act 22 10,
      act := wbits act 16 4, tgt := wbits act 8 8 }
  let st := s.rd (lnchReg n 12)
  let s1 := s.wr (lnchReg n 12) (st &&& 0x08000000#32 ||| 0x00400000#32)
  let s2 := { s1 with lnch := a :: s1.lnch.filter (fun x => x.n != n) }
  let s3 := if was then (s2.setB (lnchStat n 26) true).raiseEv 5 2 else s2
  let d := s3.ltAhead a.sec a.ns off
  if 0 < d then s3 else s3.lnchLate a (-d).toNat .arming off (s3.instant off)

/-- LAUNCH_ARM (R120): at the entry's issue instant; no entry can name a privileged comparator (R124). -/
def execLaunchArm (arg ns : Nat) (s : State) : Out :=
  .next (s.entry 0x04 0x40 (fun e => e.has arg && e.begunAt ns) (fun s =>
    match s.entryIdx arg 0 6 with
    | none => s
    | some n => if n < 64 ∧ s.privComp n = false then s.lnchArm n ns else s))

/-- The owner's ARM and DISARM at their tick (R120, R123); a write to a privileged comparator completes with REFUSED (R124). -/
def armCmd (n : Nat) (s : State) : State × Status :=
  if decide (64 ≤ n) || s.privComp n then (s, .refused) else (s.lnchArm n 0, .ok)
def disarmCmd (n : Nat) (s : State) : State × Status :=
  if decide (64 ≤ n) || s.privComp n then (s, .refused) else (s.lnchEnd n, .ok)

def execArm (n : Nat) (s : State) : Out := .next (armCmd n s).1
def execDisarm (n : Nat) (s : State) : Out := .next (disarmCmd n s).1

/-- A clock value in ns rounded up to a whole millisecond, as frames begin (R69, R73). -/
def ceilMs (t : Int) : Int := -(Int.fdiv (-t) 1000000) * 1000000

/-- The clock at which the coming frame tick falls: the first whole millisecond at least 1 ms after the last tick (R73). -/
def State.nextTick (s : State) : Int := ceilMs (if s.seq.started then s.clockNs + 1000000 else s.clockNs)

/-- LAUNCH_FIRE (R121): the launch time of an armed comparator falls into the running frame, and it fires there on time. -/
def execLaunchFire (n : Nat) (s : State) : Out :=
  .next <|
    match s.lnchOf n with
    | none => s
    | some a =>
      let d := s.ltAhead a.sec a.ns 0
      if d < s.nextTick - s.clockNs then
        let off := (max d 0).toNat
        (s.setF ⟨lnchReg n 12, 0, 20⟩ 0).lnchFire a false .arming off (s.instant off)
      else s

/-- A soft reset of the LNCH page beside R55 (R123): every comparator that is not privileged is disarmed, with the reset values. -/
def State.lnchSoftReset (s : State) : State :=
  (List.range 64).foldl (fun a n => if a.privComp n then a else (a.lnchEnd n).wr (lnchReg n 12) 0) s

/-! ## Steps (R106, R116, R122) -/

/-- The words that wait for the coming tick hold a DISARM of comparator `n`, or a soft reset of the LNCH page, that will act (R123). -/
def State.disarmDue (s : State) (n : Nat) : Bool :=
  !s.bit (bitAt 0x5030 0) && !s.privComp n && s.host.queue.any (fun q =>
    match q.op with
    | .regs _ ws => ws.any (fun e => (e.1 == lnchReg n 12 && wbit e.2 30) || (e.1 == 0x5008 && wbit e.2 1))
    | _ => false)

/-- The clock of the coming tick moves by `d` ns before everything else at that tick. Launches that the new clock finds due are judged, but
those whose DISARM acts at that tick: the DISARM wins (R123). -/
def State.stepClock (s : State) (d : Int) (ev : Nat) : State :=
  let t := s.nextTick
  let s1 := (s.tickEarly.setClock (t + d)).timeMod (fun q =>
    { q with stepAt := some t, ppsAt := q.ppsAt.map (· + d), acc := 0, initPend := none, stepPend := none, lockN := 0, lastAcc := none })
  let s2 := ((s1.wr 0x4080 (ofInt (Int.tdiv d 1000000000))).wr 0x4084 (ofInt (Int.tmod d 1000000000))).wr 0x4088
    (BitVec.ofNat 32 (if s.seq.started then s.fno + 1 else s.fno))
  let s3 := (((s2.bump .TIME_STEP).setB timeStepPend false).setB timeRefused false).setB timeEver true
  let s4 := (s3.ownQuality 3).raiseEv 4 ev
  s4.lnch.foldl (fun a c =>
    let late := -(a.ltAhead c.sec c.ns 0)
    if late < 0 ∨ a.disarmDue c.n = true then a
    else a.lnchLate c late.toNat .step (if s.seq.started then 1000000 else 0) (a.instant 0)) s4

/-- STEP_APPLIED (R116, R117): an accepted step at the coming tick. -/
def execStepApplied (s : State) : Out :=
  .next <|
    match s.time.stepPend, s.time.stepAt with
    | some d, none => if s.bit timeStepPend then s.stepClock d 1 else s
    | _, _ => s

/-- INIT_SET (R106): the first measured offset sets the clock at the coming tick. -/
def execInitSet (s : State) : Out :=
  .next <|
    match s.time.initPend, s.time.stepAt with
    | some d, none => if s.bit timeEver || !s.bit (bitAt 0x4040 1) then s else s.stepClock d 2
    | _, _ => s

end Sys2Proof.Machine
end

