-- ==== Sys2Proof/Machine/Snet.lean ====
section
/-! DEFINITION. The substation network: lines and ports A and B (R200, R245), the GSP receive checks (R208 to R211), the
image (R222 to R224), the network launch queue (R226 to R231), admission (R232 to R237) and group keys (R238 to R242). -/

namespace Sys2Proof.Machine

/-- `s` with the substation network changed. -/
def State.snetMod (s : State) (f : SnetSt → SnetSt) : State := { s with snet := f s.snet }

/-- What the link engine keeps of a node. -/
def State.node (s : State) (n : Nat) : NodeSt := (s.snet.nodes.lookup n).getD NodeSt.init

/-- `s` with a node's entry changed. -/
def State.nodeMod (s : State) (n : Nat) (f : NodeSt → NodeSt) : State :=
  s.snetMod (fun q => { q with nodes := (n, f (s.node n)) :: q.nodes.filter (fun e => e.1 != n) })

/-! ## Lines (R200, R245) -/

/-- The ports A and B on which a frame leaves, and their frame counters. -/
def State.sendPorts (s : State) : List Nat := [0, 1].filter (fun p => s.lineUp p && s.txOn p)
def State.countTx (s : State) : State := s.sendPorts.foldl (fun a p => a.txFrame p) s

/-- LINK_DOWN (R245): reception and transmission stop at once; SNx_STAT, the counter and the event follow at the next tick.
Ports 0 A, 1 B, 2 H1, 3 H2, 4 T. -/
def lineDown (p : Nat) (s : State) : State :=
  if s.lineUp p then
    s.snetMod (fun q => { q with lines := setAt q.lines p false, line := if p < 2 then q.line ++ [(p, 0)] else q.line })
  else s

def execLinkDown (p : Nat) (s : State) : Out := .next (lineDown p s)

/-- The transmit clock of a port is locked (R23): CLK_LOCK of PA, PB, HST or TWN. -/
def State.portClk (s : State) (p : Nat) : Bool := s.bit (bitAt 0x3040 ([3, 4, 5, 5, 6].getD p 31))

/-- LINK_UP (R245); ports A and B need LINK_EN. A port whose transmit lock is lost stays down (R23), and so does every port while the loads
are shed (R532). -/
def execLinkUp (p : Nat) (s : State) : Out :=
  .next <|
    if !s.lineUp p && s.portClk p && !s.shed && (decide (2 ≤ p) || s.bit (bitAt (0x10040 + 0x1000 * p) 0)) then
      s.snetMod (fun q => { q with lines := setAt q.lines p true, line := if p < 2 then q.line ++ [(p, 1)] else q.line })
    else s

/-- SFP_FAULT (R245): TX fault, loss of signal, or removal. Event entries 2, 3, 4 and 5 of the line list: TX fault, loss of
signal, removal, and the event itself. -/
def execSfpFault (p : Nat) (txf los removed : Bool) (s : State) : Out :=
  .next <|
    if decide (2 ≤ p) || !(txf || los || removed) then s
    else s.snetMod (fun q => { q with line := q.line ++ (if txf then [(p, 2)] else []) ++ (if los then [(p, 3)] else [])
      ++ (if removed then [(p, 4)] else []) ++ [(p, 5)] })

/-- What a tick shows of one line event. A link that comes up shows a module present and without faults. -/
def State.lineEvent (s : State) (e : Nat × Nat) : State :=
  let st := fun (b : Nat) => (bitAt 0x10044 b).shift e.1
  let pg := 0x10 + e.1
  if e.2 = 0 then (((s.setB (st 0) false).bump (Ctr.SNA_LINK_DOWN.shift e.1))).raiseEv pg 0
  else if e.2 = 1 then (((((s.setB (st 0) true).setB (st 1) true).setB (st 2) false).setB (st 3) false)).raiseEv pg 1
  else if e.2 = 2 then s.setB (st 3) true
  else if e.2 = 3 then s.setB (st 2) true
  else if e.2 = 4 then s.setB (st 1) false
  else s.raiseEv pg 2

/-- What a tick shows of port `p` beside its line events. -/
def State.portShow (s : State) (p : Nat) (o : PortObs) : State :=
  let s1 := (s.bumpN (Ctr.SNA_RX_CRC_ERR.shift p) o.crc).bumpN (Ctr.SNA_RX_DROP.shift p) o.drop
  (((s1.setB ((bitAt 0x10044 4).shift p) o.remote).setF (Fld.shift ⟨0x10048, 0, 24⟩ p) o.sfpId).wr (0x1004C + 0x1000 * p) o.sfpMon).wr
    (0x10050 + 0x1000 * p) o.sfpPower

/-- What ports A and B have seen since the last tick. -/
def State.portsTick (s : State) (l : List PortObs) : State := (l.take 2).zipIdx.foldl (fun a e => a.portShow e.2 e.1) s

/-- The line events of the last frame. -/
def State.lineTick (s : State) : State :=
  (s.snet.line.foldl (fun a e => a.lineEvent e) s).snetMod (fun q => { q with line := [] })

/-- Ports A and B send frames of the pair's address: not in DEFAULTED, TAMPERED, STANDBY, PARKED or FAULT (R449, R504, R515,
R520). -/
def State.portsSend (s : State) : Bool := s.mstate == 4 || s.mstate == 0

/-- Sends one PRP supervision frame on each port whose line is up. -/
def State.prpSupervise (s : State) : State :=
  ((s.sendPorts.foldl (fun a p => a.emit (.prpSup p s.snet.prpSeq)) s.countTx).prpStep).snetMod (fun q => { q with supAt := some s.fno })

/-- PRP_SUPERVISION_FRAME (R200): every 2,000 ms. -/
def execPrpSupervisionFrame (s : State) : Out :=
  .next <|
    let due := match s.snet.supAt with
      | none => true
      | some f => decide (2000 ≤ s.since f)
    if due && s.portsSend then s.prpSupervise else s

/-! ## Node records -/

/-- DEFINED, TYPE, GROUP and SERIAL of a node's configuration record (R232). -/
def State.nodeDef (s : State) (n : Nat) : Bool := decide (n < 2048) && s.tfld 0x1200 n 0 31 1 == 1
def State.nodeType (s : State) (n : Nat) : Nat := s.tfld 0x1200 n 0 27 3
def State.nodeGroup (s : State) (n : Nat) : Nat := s.tfld 0x1200 n 0 16 8
def State.nodeSerial (s : State) (n : Nat) : Nat := (s.trd 0x1200 n 5).toNat + (s.trd 0x1200 n 6).toNat * 2 ^ 32

/-- STATE and MISS of a node's image (R222): 0 INIT, 1 QUARANTINE, 2 ADMITTED, 3 SILENT, 4 LOST. -/
def State.nodeState (s : State) (n : Nat) : Nat := s.tfld 0x1201 n 0 0 3
def State.setNodeState (s : State) (n st : Nat) : State := s.tset 0x1201 n 0 0 3 st
def State.nodeMiss (s : State) (n : Nat) : Nat := s.tfld 0x1201 n 0 8 8

/-- The defined nodes. -/
def State.nodes (s : State) : List Nat :=
  (s.tbl.filter (fun e => tkeyTid e.1 == 0x1200 && tkeyWord e.1 == 0 && wbit e.2 31)).map (fun e => tkeyIdx e.1)

/-- A flag bit of word 0 of a node's image. -/
def State.imgFlag (s : State) (n b : Nat) (v : Bool) : State := s.tset 0x1201 n 0 b 1 (b2n v)

/-- Counts one in word `w` (0 W; 1 to 3 S) of a node's counters (R244). -/
def State.nodeCount (s : State) (n w : Nat) : State :=
  let v := (s.trd 0x1203 n w).toNat + 1
  if w = 0 then s.twr 0x1203 n w (BitVec.ofNat 32 v)
  else if 2 ^ 32 - 1 ≤ v then (s.twr 0x1203 n w 0xFFFFFFFF).tset 0x1203 n 4 (w - 1) 1 1
  else s.twr 0x1203 n w (BitVec.ofNat 32 v)

/-- SNET_N_ADM, SNET_N_SIL, SNET_N_INIT (R246). -/
def State.nodeCounts (s : State) : State :=
  let ns := s.nodes
  let c := fun (st : Nat) => (ns.filter (fun n => s.nodeState n == st)).length
  ((s.wr 0x120A0 (BitVec.ofNat 32 (c 1 * 2 ^ 16 + c 2))).wr 0x120A4 (BitVec.ofNat 32 (c 4 * 2 ^ 16 + c 3))).wr 0x120A8
    (BitVec.ofNat 32 (ns.length * 2 ^ 16 + c 0))

/-- Bits of a register bank of 256 groups. -/
def grpBit (base g : Nat) : Fld := bitAt (base + 4 * (g / 32)) (g % 32)
def grpOld (g : Nat) : Fld := grpBit 0x12120 g
def grpRev (g : Nat) : Fld := grpBit 0x12140 g

/-- SNET_GRP_DEF_k: the groups to which defined nodes belong. -/
def State.groupDefs (s : State) : State :=
  let gs := s.nodes.map (fun n => s.nodeGroup n)
  (List.range 8).foldl (fun a k => a.wr (0x12100 + 4 * k)
    (BitVec.ofNat 32 ((List.range 32).foldl (fun v j => v + b2n (gs.contains (32 * k + j)) * 2 ^ j) 0))) s

/-! ## Slots (R217, R218) -/

/-- The entries of opcode `op` of a frame table of the active bank up to its END, with their offsets. -/
def State.slotEntries (s : State) (op t : Nat) : Nat → Nat → List Entry
  | 0, _ => []
  | n + 1, i =>
    let e := s.entryAt 0 t i
    if e.op = 0x01 then []
    else if e.op = op then e :: s.slotEntries op t n (i + 1)
    else s.slotEntries op t n (i + 1)

/-- The value that an indexed entry draws in frame `f`, or the node an entry names. -/
def State.drawAt (s : State) (f : Nat) (e : Entry) : Nat :=
  if e.arg / 2 ^ 27 % 2 = 1 then
    let m := e.arg / 2 ^ 24 % 8
    s.slotVal 0 m ((f % s.smapL 0 m) * s.smapK 0 m + e.arg / 2 ^ 16 % 256)
  else e.arg % 2 ^ 11

/-- Frame and offset of the first entry of opcode `op` of the hyperframe that yields node `n`. -/
def State.slotOf (s : State) (op n : Nat) : Option (Nat × Nat) :=
  let tabs := (List.range 8).map (fun t => s.slotEntries op t 4096 0)
  if tabs.all (fun l => l.isEmpty) then none
  else
    (List.range 1000).findSome? (fun f =>
      ((tabs.getD (s.tfld 0x0608 f 0 0 3) []).find? (fun e => s.drawAt f e == n)).map (fun e => (f, e.offset)))

/-- REPORT_AT and CMD_AT (R218). -/
def State.reportAt (s : State) (n : Nat) : Option Nat :=
  (s.slotOf 0x41 n).map (fun p =>
    let t : Int := (p.1 % 100 * 1000000 + p.2 : Int) - s.fld ⟨0x12078, 0, 16⟩ * 1000
    (if t < 0 then t + 100000000 else t).toNat)
def State.commandAt (s : State) (n : Nat) : Option Nat :=
  (s.slotOf 0x40 n).map (fun p => p.1 % 100 * 1000000 + p.2)

/-- REPORT_AT of every node with the RX_LEAD that now stands (R218). -/
def State.leadChanged (s : State) : State := s.nodes.foldl (fun a n => a.nodeMod n (fun d => { d with repAt := s.reportAt n })) s

/-- Takes the slots of a node from the active bank: NO_SLOT (R217), and after a switch that changes the REPORT_AT of an
admitted node a SLOT record, and the cycle that begins with the switch's tick without a counted miss (R221). -/
def State.nodeSlots (s : State) (n : Nat) : State :=
  let r := s.reportAt n
  let c := s.commandAt n
  let moved := s.nodeState n == 2 && r.isSome && (s.node n).repAt != r
  let s1 := s.nodeMod n (fun d =>
    { d with repAt := r, cmdAt := c, slotDue := d.slotDue || moved, graceCyc := if moved then some s.snet.cyc else d.graceCyc })
  s1.imgFlag n 17 (r.isNone || c.isNone)

/-- The same for every defined node. -/
def State.allSlots (s : State) : State := s.nodes.foldl (fun a n => a.nodeSlots n) s

/-! ## Keys and groups (R206, R238 to R242) -/

/-- A slot of the key store is ACTIVE (R489). -/
def State.slotActive (s : State) (i : Nat) : Bool := s.keyUsable i
def State.masterSlot (s : State) : Nat := s.fld ⟨0x1208C, 0, 7⟩
def State.wrapSlot (s : State) : Nat := s.fld ⟨0x1208C, 8, 7⟩

/-- GEN of a group's current key. -/
def State.groupGen (s : State) (g : Nat) : Nat := (s.snet.gens.lookup g).getD 0

/-- A group's keys may be used: its master key is ACTIVE and its keys are not revoked (R241). -/
def State.groupOk (s : State) (g : Nat) : Bool := s.slotActive s.masterSlot && !s.bit (grpRev g)

/-- ASCII bytes of a label. -/
def ascii (l : String) : List Byte := l.toList.map (fun c => BitVec.ofNat 8 c.toNat)

/-- The material of the key in a slot: a secret value, fixed by the slot's GEN and KCV. -/
def State.slotKey (s : State) (i : Nat) : List Byte := Config.keyMaterial i (s.trd 0x0900 i 1) (s.trd 0x0900 i 2)

/-- The key of a group and generation, and the node wrap key of a node (R238): derived with their labels and contexts. -/
def State.groupKey (s : State) (g gen : Nat) : List Byte :=
  Config.kdf (s.slotKey s.masterSlot) (ascii "GSP-GRP") (beBytes 1 g ++ beBytes 1 gen)
def State.nodeWrapKey (s : State) (n : Nat) : List Byte := Config.kdf (s.slotKey s.wrapSlot) (ascii "GSP-NODE") (beBytes 2 n)

/-- A group key under the node's wrap key, AES key wrap: 40 bytes (R215). -/
def State.wrappedKey (s : State) (n g gen : Nat) : List Byte :=
  (List.range 40).map (fun i => Config.aesWrap (s.nodeWrapKey n) (s.groupKey g gen) i)

/-- The GEN of a key names the current generation, or the previous one within the overlap of R240. -/
def State.genOk (s : State) (g gen : Nat) : Bool :=
  gen == s.groupGen g || (s.bit (grpOld g) && gen == (s.groupGen g + 127) % 128)

/-- KEY of a received message (R206, R210 step 2). -/
def State.keyOk (s : State) (g : Gsp) : Bool :=
  if g.nk then g.typ == 4 && s.slotActive s.wrapSlot else s.groupOk g.group && s.genOk g.group g.gen

/-- The rekey in progress of a group. -/
def State.rekeyOf (s : State) (g : Nat) : Option Rekey := s.snet.rekeys.find? (fun r => r.group == g)

/-- The rekey registers show the first rekey in progress (R246). -/
def State.rekeyRegs (s : State) : State :=
  match s.snet.rekeys with
  | [] => (s.setB (bitAt 0x1204C 0) false).wr 0x12090 0
  | r :: _ =>
    (((s.setB (bitAt 0x1204C 0) true).wr 0x12090 (BitVec.ofNat 32 (r.group * 2 ^ 24 + r.gen * 2 ^ 16 + r.left.length))).wr
      0x12094 (BitVec.ofNat 32 r.sec)).wr 0x12098 (BitVec.ofNat 32 r.ns)

/-- Raises REKEY_DONE for rekeys whose nodes have all acknowledged, and ends those that have also switched (R239). -/
def State.rekeyDone (s : State) : State :=
  let fin := s.snet.rekeys.filter (fun r => r.left.isEmpty && !r.done && (r.switched || !(s.nodes.filter (fun n => s.nodeGroup n == r.group)).isEmpty))
  let s1 := fin.foldl (fun a _ => a.raiseEv 0x12 1) s
  let mark := fun (r : Rekey) => if fin.any (fun f => f.group == r.group) then { r with done := true } else r
  let s2 := s1.snetMod (fun q => { q with rekeys := (q.rekeys.map mark).filter (fun r => !(r.done && r.switched)) })
  s2.rekeyRegs

/-- A node that has joined a group during its rekey has not acknowledged the key (R239). -/
def State.rekeyJoin (s : State) (n : Nat) : State :=
  s.snetMod (fun q => { q with rekeys := q.rekeys.map (fun r =>
    if r.group = s.nodeGroup n ∧ !r.left.contains n then { r with left := r.left ++ [n], done := false } else r) })

/-- Starts a rekey of a group with switch instant S (R239). -/
def State.rekeyStart (s : State) (g : Nat) (at_ : Nat × Nat) : State :=
  let r : Rekey := { group := g, gen := (s.groupGen g + 1) % 128, sec := at_.1, ns := at_.2, switched := false,
                     left := s.nodes.filter (fun n => s.nodeGroup n == g), done := false }
  (s.snetMod (fun q => { q with rekeys := q.rekeys.filter (fun x => x.group != g) ++ [r] })).rekeyRegs

/-- The slot, AT_EN and AT_FRAME of the pending promotion. -/
def State.pendSlot (s : State) : Nat := s.fld ⟨0x9050, 0, 7⟩

/-- The promotion is due at this tick (R490, R50, R51). -/
def State.promNow (s : State) : Bool :=
  !s.bit (bitAt 0x9050 15) || (!s.inExt && s.frame == s.fld ⟨0x9050, 16, 10⟩) || (s.keys.promDue && s.seq.hfStart)

/-- A promotion of the network master key, or of a key above it, acts at this tick: it rekeys every group (R496). -/
def State.masterPromotes (s : State) : Bool :=
  s.bit (bitAt 0x904C 29) && s.promNow && (s.pendSlot == s.masterSlot || s.keyBelow s.pendSlot 4 s.masterSlot)

/-- SNET_CMD.REKEY (R239): REFUSED while REKEY_PEND is 1, and at the tick at which a promotion of the network master key acts (R497);
otherwise S is the current time plus LEAD. -/
def rekeyCmd (s : State) : State × Status :=
  if s.bit (bitAt 0x1204C 0) || s.masterPromotes then (s, .refused)
  else (s.rekeyStart (s.fld ⟨0x12048, 16, 8⟩) (ltAdd (s.instant 0) (s.fld ⟨0x12088, 0, 16⟩ * 1000000000)), .ok)

def execRekey (s : State) : Out := .next (rekeyCmd s).1

/-- REKEY_SWITCH (R239): at the tick at S the group's new generation is in use; the old one is accepted for 2 substation
cycles (R240), unless it was revoked; nodes that have not acknowledged show REKEY_PEND; a revocation flag of the group clears where the master
key is ACTIVE, which after a revocation only a new one is (R241). -/
def execRekeySwitch (g : Nat) (s : State) : Out :=
  .next <|
    match s.rekeyOf g with
    | none => s
    | some r =>
      if r.switched || decide (0 < s.ltAhead r.sec r.ns 0) then s
      else
        let s1 := s.snetMod (fun q =>
          { q with gens := (g, r.gen) :: q.gens.filter (fun e => e.1 != g),
                   old := (g, s.fno) :: q.old.filter (fun e => e.1 != g),
                   rekeys := q.rekeys.map (fun x => if x.group = g then { x with switched := true } else x) })
        let s2 := if !s.bit (grpRev g) then s1.setB (grpOld g) true
          else s1.setB (grpRev g) (!s.slotActive s.masterSlot)
        let s3 := r.left.foldl (fun a n => a.imgFlag n 19 true) s2
        (s3.raiseEv 0x12 2).rekeyDone

/-- REKEY_OVERLAP_END (R240): 2 substation cycles after S. -/
def execRekeyOverlapEnd (g : Nat) (s : State) : Out :=
  .next <|
    match s.snet.old.lookup g with
    | none => s
    | some f =>
      if s.since f < 200 then s
      else (s.snetMod (fun q => { q with old := q.old.filter (fun e => e.1 != g) })).setB (grpOld g) false

/-- The keys derived from the network master key become REVOKED_BY_PARENT (R241): every defined group's bit is set, and GROUP_REVOKED is
raised where there is one. Rekeys of them never switch; one that has switched at this tick already did not (R242). -/
def State.groupsRevoked (s : State) : State :=
  let gs := (s.nodes.map (fun n => s.nodeGroup n)).eraseDups
  let now := (s.snet.old.filter (fun e => e.2 == s.fno)).map (·.1)
  let s1 := (gs ++ s.snet.old.map (·.1)).foldl (fun a g => a.setB (grpOld g) false) s
  let s2 := gs.foldl (fun a g => a.setB (grpRev g) true) s1
  let s3 := (s2.snetMod (fun q => { q with
    gens := q.gens.map (fun e => if now.contains e.1 then (e.1, (e.2 + 127) % 128) else e), rekeys := [], old := [] })).rekeyRegs
  if gs.isEmpty then s3 else s3.raiseEv 0x12 5

/-! ## Network launch queue (R226 to R231, R244) -/

/-- Fields of a queue record. -/
structure QEntry where
  idx : Nat
  sent : Bool
  acked : Bool
  immed : Bool
  src : Nat
  kind : Nat
  node : Nat
  sec : Nat
  ns : Nat
  vals : List Word
deriving DecidableEq, Repr

/-- The entry stored at record `i`. -/
def State.qAt (s : State) (i : Nat) : QEntry :=
  let w := s.trd 0x1202 i 0
  { idx := i, sent := wbit w 30, acked := wbit w 29, immed := wbit w 27, src := wbits w 24 3, kind := wbits w 16 8,
    node := wbits w 0 11, sec := (s.trd 0x1202 i 1).toNat, ns := (s.trd 0x1202 i 2).toNat,
    vals := (List.range 4).map (fun k => s.trd 0x1202 i (4 + k)) }

/-- The records in use, by rising index. -/
def State.qUsed (s : State) : List Nat :=
  (s.tbl.filter (fun e => tkeyTid e.1 == 0x1202 && tkeyWord e.1 == 0 && wbit e.2 31)).map (fun e => tkeyIdx e.1)

/-- The entries of a node. -/
def State.qOfNode (s : State) (n : Nat) : List QEntry :=
  (s.qUsed.map (fun i => s.qAt i)).filter (fun e => e.node == n)

/-- SNET_Q_USE and Q_FULL. -/
def State.qUse (s : State) : State :=
  let n := s.qUsed.length
  let hw := max n (s.fld ⟨0x1209C, 16, 15⟩)
  ((s.setF ⟨0x1209C, 0, 15⟩ n).setF ⟨0x1209C, 16, 15⟩ hw).setB (bitAt 0x1204C 1) (decide (16384 ≤ n))

/-- A value stands as the node's steady setpoint of its kind from its launch time on; a later one stays (R231). -/
def State.steadySet (s : State) (n : Nat) (v : Steady) : State :=
  s.nodeMod n (fun d =>
    match d.steady.find? (fun x => x.kind == v.kind) with
    | none => { d with steady := d.steady ++ [v] }
    | some o =>
      if 0 ≤ ltDiff (o.sec, o.ns) (v.sec, v.ns) then
        { d with steady := d.steady.map (fun x => if x.kind = v.kind then v else x) }
      else d)

/-- The launch time of an entry has passed at the instant `off` ns into the frame. -/
def State.qPassed (s : State) (e : QEntry) (off : Nat) : Bool := e.immed || decide (s.ltAhead e.sec e.ns off ≤ 0)

/-- Removes a queue record; the value of an entry whose launch time has passed stands as steady setpoint. -/
def State.qFree (s : State) (e : QEntry) (off : Nat) : State :=
  let s1 := if !e.immed && s.qPassed e off then s.steadySet e.node ⟨e.kind, e.sec, e.ns, e.vals⟩ else s
  let s2 := s1.tclear 0x1202 (· == e.idx)
  (s2.nodeMod e.node (fun d => { d with cmdIdx := d.cmdIdx.filter (· != e.idx) })).qUse

/-- The steady setpoints with the queued entries whose launch time has passed, transmitted or not (R231). -/
def State.steadyNow (s : State) (n off : Nat) : State :=
  ((s.qOfNode n).filter (fun e => !e.immed && s.qPassed e off)).foldl (fun a e => a.steadySet n ⟨e.kind, e.sec, e.ns, e.vals⟩) s

/-- Removes every entry of a node. -/
def State.qDiscard (s : State) (n : Nat) : State :=
  ((s.qOfNode n).foldl (fun a e => a.tclear 0x1202 (· == e.idx)) (s.steadyNow n 0)).nodeMod n (fun d => { d with cmdIdx := [], cmdSeq := none })
  |>.qUse

/-- The lowest position not in the rising list `l`, from `i` on. -/
def firstFree : List Nat → Nat → Nat
  | [], i => i
  | x :: l, i => if x = i then firstFree l (i + 1) else i

/-- Writes an entry at record `i`. -/
def State.qWrite (s : State) (i : Nat) (e : QEntry) : State :=
  s.trecSet 0x1202 i 0 ([BitVec.ofNat 32 (2 ^ 31 + b2n e.immed * 2 ^ 27 + e.src * 2 ^ 24 + e.kind * 2 ^ 16 + e.node),
    BitVec.ofNat 32 e.sec, BitVec.ofNat 32 e.ns, 0] ++ (e.vals ++ [0, 0, 0, 0]).take 4)

/-- Enqueues a command record for a node (R226, R231); `launch` none for an immediate entry. The truth value says whether the
queue took it. -/
def State.enqueue (s : State) (src n kind : Nat) (launch : Option (Nat × Nat)) (vals : List Word) (off : Nat) :
    State × Bool :=
  let t := launch.getD (0, 0)
  let e : QEntry := { idx := 0, sent := false, acked := false, immed := launch.isNone, src := src, kind := kind, node := n,
                      sec := t.1, ns := t.2, vals := vals }
  let s1 := if s.nodeState n = 4 then
      ((s.qOfNode n).filter (fun x => x.kind == kind)).foldl (fun a x => a.qFree x off) s
    else s
  let took := fun (a : State) =>
    if launch.isNone then
      let now := s.instant off
      a.steadySet n ⟨kind, now.1, now.2, (vals ++ [0, 0, 0, 0]).take 4⟩
    else a
  match (s1.qOfNode n).find? (fun x => x.kind == kind && !x.sent && x.immed == e.immed && x.sec == e.sec && x.ns == e.ns) with
  | some x => ((took (s1.qWrite x.idx e)).qUse, true)
  | none =>
    let i := firstFree s1.qUsed 0
    if i < 16384 then ((took (s1.qWrite i e)).qUse, true)
    else if s1.snet.fullAt = some s1.fno then (s1, false)
    else
      let s2 := s1.bump .SNET_Q_FULL
      let run := match s1.snet.fullAt with
        | none => false
        | some f => s1.since f == 1
      let s3 := if run then s2 else s2.raiseEv 0x12 0
      (s3.snetMod (fun q => { q with fullAt := some s.fno }), false)

/-- LAUNCH_QUEUE_EXPIRE (R228): an ACKED timed entry whose launch time has passed leaves the queue. -/
def execLaunchQueueExpire (i ns : Nat) (s : State) : Out :=
  let e := s.qAt i
  .next (if s.qUsed.contains i && e.acked && !e.immed && s.qPassed e ns then s.qFree e ns else s)

/-! ## State changes of nodes (R232 to R237) -/

/-- A node returns to INIT: its queue entries are discarded (R232, R237). -/
def State.nodeInit (s : State) (n : Nat) : State :=
  let s1 := ((s.setNodeState n 0).imgFlag n 18 false).qDiscard n
  s1.nodeMod n (fun d => { d with hello := none, helloWin := false, reps := [], needState := false, stateOk := false,
                                  pend := none, run := 0, lastRegs := [], slotDue := false })

/-- A node enters QUARANTINE (R234). -/
def State.nodeQuarantine (s : State) (n : Nat) : State :=
  (s.setNodeState n 1).nodeMod n (fun d => { d with needState := true, stateOk := false, run := 0, lastRegs := [] })

/-- The state of a node is accepted (R236): its steady setpoints are enqueued as immediate entries, and the timed entries
still in the future become unacknowledged. -/
def State.stateAccept (s : State) (n off : Nat) : State :=
  let s0 := s.steadyNow n off
  let d := s0.node n
  let s1 := s0.nodeMod n (fun d => { d with needState := false, stateOk := true, run := 0, lastRegs := [], pend := none })
  let s2 := (s1.qOfNode n).foldl (fun a e =>
    if !e.immed && !s1.qPassed e off then a.tset 0x1202 e.idx 0 29 1 0 else a) s1
  d.steady.foldl (fun a v => (a.enqueue 3 n v.kind none v.vals off).1) s2

/-- NODE_ACCEPT (R235): REFUSED for a node without METER_BACK; the registers reported become the baseline. -/
def nodeAcceptCmd (s : State) : State × Status :=
  let n := s.fld ⟨0x12048, 0, 11⟩
  if s.tfld 0x1201 n 0 18 1 = 0 then (s, .refused)
  else
    let s1 := (s.nodeMod n (fun d => { d with base := d.pend.getD d.base })).imgFlag n 18 false
    (s1.stateAccept n 0, .ok)

def execNodeAccept (s : State) : Out := .next (nodeAcceptCmd s).1

/-- NODE_RESET (R237). -/
def nodeResetCmd (s : State) : State := s.nodeInit (s.fld ⟨0x12048, 0, 11⟩)
def execNodeReset (s : State) : Out := .next (nodeResetCmd s)

/-- NODE_CLR (R244): the counters of the node and their flags. -/
def nodeClrCmd (s : State) : State := s.tclear 0x1203 (· == s.fld ⟨0x12048, 0, 11⟩)
def execNodeClr (s : State) : Out := .next (nodeClrCmd s)

/-- NODE_BASELINE_SAVE (R235): the last accepted registers of every node go to MRAM. -/
def execNodeBaselineSave (s : State) : Out :=
  .next (s.snetMod (fun q => { q with nodes := q.nodes.map (fun e => (e.1, { e.2 with saved := e.2.base })) }))

/-- The fields that a node's type reports. -/
def typeFields (t : Nat) : List Nat :=
  if t ≤ 1 then [0, 1, 2, 3, 4, 5, 6, 7] else if t = 2 then [0, 1, 2, 3, 4, 5, 6, 7, 8, 9] else if t = 3 then [4, 8, 9, 10, 11]
  else if t = 4 then [8, 9, 10, 11] else [2, 3, 8, 9]

/-- The words of a field of the image, and its status byte's word and low bit. -/
def fieldWords (i : Nat) : List Nat :=
  ([[3], [4], [5], [6], [7, 8], [9, 10], [11], [12, 13], [19], [20], [21], [22]]).getD i []
def statPlace (i : Nat) : Nat × Nat := ((if i < 4 then 1 else if i < 8 then 2 else 23), 24 - 8 * (i % 4))

/-- Status byte of a field, read and written. -/
def State.imgStat (s : State) (n i : Nat) : Nat := s.tfld 0x1201 n (statPlace i).1 (statPlace i).2 8
def State.imgSetStat (s : State) (n i st : Nat) : State := s.tset 0x1201 n (statPlace i).1 (statPlace i).2 8 st

/-- Writes the words of a field. -/
def State.imgWords (s : State) (n : Nat) (ps : List (Nat × Word)) : State := ps.foldl (fun a p => a.twr 0x1201 n p.1 p.2) s

/-- The image follows the node's configuration: TYPE (R222); fields that its type does not report, or all fields of an undefined
node, read 0 with quality INIT. -/
def State.imgType (s : State) (n : Nat) : State :=
  let fs := if s.nodeDef n then typeFields (s.nodeType n) else []
  let s1 := s.tset 0x1201 n 0 4 3 (if s.nodeDef n then s.nodeType n else 0)
  let s2 := ((List.range 12).filter (fun i => !fs.contains i)).foldl (fun a i =>
    (a.imgWords n ((fieldWords i).map (fun w => (w, 0)))).imgSetStat n i INITQ) s1
  s2.nodeMod n (fun d => { d with have_ := d.have_.filter (fun i => fs.contains i) })

/-- A TABLE_WRITE of a node configuration record took effect (R232): a change of a defined record puts the node into INIT. -/
def State.nodeTableWrite (s : State) (n : Nat) (old : List Word) : State :=
  let was := wbit (old.getD 0 0) 31
  let s1 := if was && s.trec 0x1200 n 8 != old then s.nodeInit n else s
  let s2 := s1.snetMod (fun q => { q with rekeys := q.rekeys.map (fun r =>
    { r with left := r.left.filter (fun m => s1.nodeDef m && s1.nodeGroup m == r.group) }) })
  let joined := s2.nodeDef n && !(was && wbits (old.getD 0 0) 16 8 == s2.nodeGroup n)
  let s3 := if s2.nodeDef n then ((if joined then s2.rekeyJoin n else s2).imgType n).nodeSlots n else s2.imgType n
  s3.groupDefs.rekeyDone

/-- The soft reset of the SNET page beside R55 (R246). -/
def State.snetSoftReset (s : State) : State :=
  let s1 := s.nodes.foldl (fun a n => a.nodeInit n) s
  let s2 := (s1.tclear 0x1202 (fun _ => true)).setF ⟨0x1209C, 16, 15⟩ 0
  s2.qUse

/-! ## TLV records (R211 to R215) -/

/-- The records of a payload; none where one runs past its end. `n` bounds the records. -/
def tlvs : Nat → List Byte → Option (List (Nat × List Byte))
  | _, [] => some []
  | 0, _ => none
  | _, [_] => none
  | n + 1, t :: l :: rest =>
    if rest.length < l.toNat then none
    else (tlvs n (rest.drop l.toNat)).map (fun rs => (t.toNat, rest.take l.toNat) :: rs)

/-- LEN of a known TYPE; 0 where it may vary. -/
def tlvLen (t : Nat) : Option Nat :=
  [(0x10, 9), (0x11, 5), (0x12, 10), (0x13, 9), (0x14, 3), (0x15, 9), (0x16, 5), (0x17, 4), (0x20, 17), (0x30, 15), (0x38, 9),
   (0x40, 3), (0x41, 5), (0x80, 4), (0x81, 4), (0x82, 16), (0x83, 4), (0x84, 4), (0x85, 1), (0x86, 4), (0xC0, 14), (0xC1, 9),
   (0xC4, 4), (0xD0, 50), (0xE0, 0), (0xE1, 6)].lookup t

/-- A record of a known TYPE with the wrong LEN (R211). -/
def tlvBad (r : Nat × List Byte) : Bool :=
  match tlvLen r.1 with
  | none => false
  | some 0 => decide (r.2.length < 5)
  | some n => r.2.length != n

/-- The records used: of a known TYPE and the right LEN. -/
def tlvUsed (rs : List (Nat × List Byte)) : List (Nat × List Byte) := rs.filter (fun r => (tlvLen r.1).isSome && !tlvBad r)

/-- The value of the last record of a TYPE. -/
def tlvGet (rs : List (Nat × List Byte)) (t : Nat) : Option (List Byte) :=
  ((rs.filter (fun r => r.1 == t)).getLast?).map (·.2)

/-! ## Receiving (R208 to R210, R216) -/

/-- The extended sequence nearest `x` with the 16-bit SEQ of a message (R208). -/
def extendSeq (x seq : Nat) : Int :=
  let b : Int := (x / 65536 : Nat) * 65536 + seq
  if b - x > 32767 then b - 65536 else if (x : Int) - b > 32768 then b + 65536 else b

/-- What the checks of R209 and R208 make of a message's EPOCH and SEQ. -/
inductive EpochRes where
  | back
  | replay
  | ok (x : Nat) (fresh : Bool)
deriving DecidableEq, Repr

/-- R209 and the replay check of R208. -/
def epochCheck (d : NodeSt) (epoch seq : Nat) : EpochRes :=
  match d.epoch with
  | none => .ok seq true
  | some e =>
    if epoch < e then .back
    else if e < epoch then .ok seq true
    else
      let v := extendSeq d.x seq
      if (d.x : Int) < v then .ok v.toNat false
      else if 0 ≤ v ∧ (d.x : Int) - 63 ≤ v ∧ !d.seen.contains v.toNat then .ok v.toNat false
      else .replay

/-- Tracking after a message is accepted (R208). -/
def NodeSt.track (d : NodeSt) (epoch x : Nat) (fresh : Bool) : NodeSt :=
  if fresh then { d with epoch := some epoch, x := x, seen := [x] }
  else { d with x := max d.x x, seen := (x :: d.seen).filter (fun y => decide (max d.x x ≤ y + 63)) }

/-- Counts a received datagram on the SNA and SNB pages (R201, R245): the copy that arrives first, and the second. A standby module takes the
messages of the record, which its own ports count when they receive them themselves (R202, log 139). -/
def State.countRx (s : State) (g : Gsp) : State :=
  if s.mstate = 3 then s else
  let s1 := s.bump (Ctr.SNA_RX_FRAMES.shift g.port)
  let s2 := if g.wrongLan then (s1.bump (Ctr.SNA_PRP_WRONG_LAN.shift g.port)).raiseEv (0x10 + g.port) 3 else s1
  if g.second && s2.lineUp (1 - g.port) then (s2.bump (Ctr.SNA_RX_FRAMES.shift (1 - g.port))).bump .SNET_DUP_DISC
  else s2.bump (Ctr.SNA_PRP_UNIQUE.shift g.port)

/-- The outcome of R210: refused, a SUB_HELLO of a lower epoch, or accepted with its extended sequence and its records. -/
inductive GspRes where
  | refused (s : State)
  | back (s : State) (recs : List (Nat × List Byte))
  | ok (s : State) (x : Nat) (recs : List (Nat × List Byte))

/-- Records well formed under R211 (step 6), the ones of the wrong LEN counted; then the tracking of R208. -/
def State.gspRecords (s : State) (g : Gsp) (k : State → List (Nat × List Byte) → GspRes) : GspRes :=
  match tlvs g.payload.length g.payload with
  | none => .refused (s.bump .SNET_RX_BAD)
  | some rs => k (s.bumpN .SNET_RX_BAD (rs.filter tlvBad).length) (tlvUsed rs)

/-- The 24 header bytes of a message, which GCM authenticates (R204, R207). -/
def gspHeader (version typ flags node seq epoch length key sec ns : Nat) : List Byte :=
  beBytes 1 version ++ beBytes 1 typ ++ beBytes 2 flags ++ beBytes 2 node ++ beBytes 2 seq ++ beBytes 4 epoch ++ beBytes 2 length
    ++ beBytes 2 key ++ beBytes 4 sec ++ beBytes 4 ns

/-- The nonce of a message (R207): ERA, SEQ, EPOCH, NODE, DIR and a zero byte. -/
def gspNonce (era seq epoch node dir : Nat) : List Byte :=
  beBytes 2 era ++ beBytes 2 seq ++ beBytes 4 epoch ++ beBytes 2 node ++ beBytes 1 dir ++ beBytes 1 0

/-- The ERA at which the controller takes a node's message: that of its extended sequence in the tracked epoch, 0 in another (R208). -/
def NodeSt.eraOf (d : NodeSt) (epoch seq : Nat) : Nat :=
  if d.epoch = some epoch then ((extendSeq d.x seq + 2 ^ 32) / 65536 % 65536).toNat else 0

/-- The tag of a message verifies (R210 step 3): under the key that KEY names, and with the nonce that the receiver forms. -/
def State.tagOf (s : State) (g : Gsp) : Bool :=
  g.tagOk && g.nonce == gspNonce ((s.node g.node).eraOf g.epoch g.seq) g.seq g.epoch g.node 1

/-- R210: the checks of a received message in order. While EN is 0, or before GSP opens (R516), only the frame and PRP
counters count it. -/
def State.gspCheck (s0 : State) (g : Gsp) : GspRes :=
  if (!s0.lineUp g.port && s0.mstate != 3) || decide (2 ≤ g.port) then .refused s0
  else
    let s1 := s0.countRx g
    if !s1.bit (bitAt 0x12040 0) || !s1.gspOpen then .refused s1
    else
      let s := if s1.mstate = 3 then s1 else s1.bump (Ctr.SNA_GSP_FIRST.shift g.port)
      if g.dport != s.fld ⟨0x12050, 0, 16⟩ || g.version != 1 || g.flags / 2 ^ 15 % 2 != 1 || g.flags / 2 ^ 3 % 2 ^ 12 != 0 || decide (1400 < g.length)
          || g.length != g.payload.length then .refused (s.bump .SNET_RX_BAD)
      else if !s.keyOk g || !s.tagOf g then .refused (s.bump .SNET_RX_AUTH_FAIL)
      else if !s.nodeDef g.node || s.nodeGroup g.node != g.group || !([1, 2, 4, 6, 9].contains g.typ) then
        .refused (s.bump .SNET_RX_UNKNOWN)
      else
        match epochCheck (s.node g.node) g.epoch g.seq with
        | .back =>
          if g.typ = 1 then s.gspRecords g (fun a rs => .back (a.bump .SNET_RX_OK) rs)
          else .refused (s.bump .SNET_EPOCH_BACK)
        | .replay => .refused (s.bump .SNET_RX_REPLAY)
        | .ok x fresh =>
          s.gspRecords g (fun a rs =>
            .ok (((a.bump .SNET_RX_OK).nodeMod g.node (fun d => d.track g.epoch x fresh)).twr 0x1201 g.node 16
              (BitVec.ofNat 32 g.epoch)) x rs)

/-- A message other than a report within MAX_MSG of the substation cycle (R216). -/
def State.msgAllowed (s : State) (n : Nat) : State × Bool :=
  let d := s.node n
  let used := if d.msgCyc = s.snet.cyc then d.msgs else 0
  if used < s.fld ⟨0x12078, 24, 4⟩ then
    (s.nodeMod n (fun d => { d with msgCyc := s.snet.cyc, msgs := used + 1 }), true)
  else (s.bump .SNET_RX_EXCESS, false)

/-- Type code and serial number of an IDENT record. -/
def identOf (rs : List (Nat × List Byte)) : Option (Nat × Nat) :=
  (tlvGet rs 0xC0).map (fun v => (beAt v 0 1, beAt v 6 8))

/-- SUB_HELLO_RX (R233, R234, R237): the answer is due in the node's next command slot. A lower epoch is answered with RESULT
3; an ADMITTED node enters QUARANTINE; a node without a command slot is not answered. -/
def execSubHelloRx (g : Gsp) (s : State) : Out :=
  .next <|
    match s.gspCheck g with
    | .refused s1 => s1
    | .back s1 rs =>
      match s1.msgAllowed g.node with
      | (s2, false) => s2
      | (s2, true) =>
        let s3 := (s2.bump .SNET_EPOCH_BACK).raiseEv 0x12 4
        if ((s3.node g.node).cmdAt).isNone then s3
        else s3.nodeMod g.node (fun d => { d with hello := some ⟨true, identOf rs⟩ })
    | .ok s1 _ rs =>
      if g.typ ≠ 1 then s1
      else
        match s1.msgAllowed g.node with
        | (s2, false) => s2
        | (s2, true) =>
          if ((s2.node g.node).cmdAt).isNone then s2
          else
            let s3 := s2.nodeMod g.node (fun d => { d with hello := some ⟨false, identOf rs⟩, helloWin := true })
            if s3.nodeState g.node = 2 then s3.nodeQuarantine g.node else s3

/-- The instant of a port's receive timestamp, corrected by the port's latency (R109). -/
def State.rxInstant (s : State) (port sec ns : Nat) : Nat × Nat :=
  let t : Int := (sec : Int) * 1000000000 + ns - s.latIn port
  ((t / 1000000000).toNat % 2 ^ 32, (t % 1000000000).toNat)

/-- SUB_REPORT_RX (R219, R234): held for the node's report slot whose window the receive timestamp falls into. -/
def execSubReportRx (g : Gsp) (s : State) : Out :=
  .next <|
    match s.gspCheck g with
    | .refused s1 => s1
    | .back s1 _ => s1
    | .ok s1 x rs =>
      let d0 := s.node g.node
      if g.typ ≠ 2 then s1
      else
        let late := match d0.prevSlot with
          | none => false
          | some p => decide (ltDiff p (g.launchSec, g.launchNs) < 0)
        let s2 := if late then s1.bump .SNET_RX_LATE else s1
        let rx := s.rxInstant g.port g.rxSec g.rxNs
        s2.nodeMod g.node (fun d => { d with reps := d.reps ++
          [⟨x, g.launchSec, g.launchNs, rx.1, rx.2, d0.epoch == some g.epoch, rs⟩] })

/-- The energy registers that records report, by KIND. -/
def energyRegs (rs : List (Nat × List Byte)) : List (Nat × Nat) :=
  (rs.filter (fun r => r.1 == 0x12)).map (fun r => (beAt r.2 1 1, beAt r.2 2 8))

/-- The energy registers of a node's type (R213), as KIND codes. -/
def typeKinds (t : Nat) : List Nat := if t = 0 then [0] else if t = 1 then [1] else if t = 2 then [0, 1] else if t = 3 then [2] else []

/-- Some register of `new` of the kinds `ks` is below the one of `old`. -/
def regsBack (ks : List Nat) (old new : List (Nat × Nat)) : Bool :=
  ks.any (fun k =>
    match old.lookup k, new.lookup k with
    | some a, some b => decide (b < a)
    | _, _ => false)

/-- Registers after taking those reported. -/
def regsTake (old new : List (Nat × Nat)) : List (Nat × Nat) := new ++ old.filter (fun e => (new.lookup e.1).isNone)

/-- SUB_STATE_RX (R234 to R236): answers the SUB_STATE_REQ of a node in QUARANTINE. -/
def execSubStateRx (g : Gsp) (s : State) : Out :=
  .next <|
    match s.gspCheck g with
    | .refused s1 => s1
    | .back s1 _ => s1
    | .ok s1 _ rs =>
      if g.typ ≠ 6 then s1
      else
        match s1.msgAllowed g.node with
        | (s2, false) => s2
        | (s2, true) =>
          let d := s2.node g.node
          if s2.nodeState g.node ≠ 1 ∨ !d.needState then s2
          else
            let regs := energyRegs rs
            if regsBack (typeKinds (s2.nodeType g.node)) d.base regs then
              ((((s2.nodeMod g.node (fun d => { d with needState := false, pend := some (regsTake d.base regs) })).imgFlag
                g.node 18 true).bump .SNET_METER_BACK)).raiseEv 0x12 3
            else
              ((s2.nodeMod g.node (fun d => { d with base := regsTake d.base regs })).imgFlag g.node 18 false).stateAccept
                g.node 0

/-- SUB_ACK_RX (R239): the node has installed the group key that the SUB_ACK names. -/
def execSubAckRx (g : Gsp) (s : State) : Out :=
  .next <|
    match s.gspCheck g with
    | .refused s1 => s1
    | .back s1 _ => s1
    | .ok s1 _ rs =>
      if g.typ ≠ 4 then s1
      else
        match s1.msgAllowed g.node with
        | (s2, false) => s2
        | (s2, true) =>
          match tlvGet rs 0xC4, s2.rekeyOf g.group with
          | some v, some r =>
            if beAt v 0 1 = 7 ∧ beAt v 3 1 = 0 ∧ g.nk ∧ g.gen = r.gen ∧ r.left.contains g.node then
              ((s2.snetMod (fun q => { q with rekeys := q.rekeys.map (fun x =>
                if x.group = g.group then { x with left := x.left.filter (· != g.node) } else x) })).imgFlag g.node 19
                  false).rekeyDone
            else s2
          | _, _ => s2

/-! ## The image (R222, R223) -/

/-- The values that a record gives: field (status byte 0 to 11 of STAT_A, STAT_B, STAT_C), its words, its status byte. -/
def recFields (typ : Nat) (r : Nat × List Byte) : List (Nat × List Word × Nat) :=
  let v := r.2
  let st := beAt v 0 1
  let w4 := fun (i : Nat) => beWord v i 4 true
  let heatLike := decide (typ ≤ 2)
  if r.1 = 0x10 ∧ heatLike then [(0, [w4 1], st), (1, [w4 5], st)]
  else if r.1 = 0x11 ∧ (heatLike ∨ typ = 5) then [(2, [w4 1], st)]
  else if r.1 = 0x16 ∧ (heatLike ∨ typ = 5) then [(3, [w4 1], st)]
  else if r.1 = 0x12 then
    let k := beAt v 1 1
    let ws := [beWord v 6 4 false, beWord v 2 4 false]
    if k = 1 ∧ typ = 2 then [(8, [beWord v 6 4 false], st), (9, [beWord v 2 4 false], st)]
    else if (typeKinds typ).head? = some k then [(4, ws, st)] else []
  else if r.1 = 0x13 ∧ heatLike then [(5, [beWord v 5 4 false, beWord v 1 4 false], st)]
  else if r.1 = 0x14 ∧ heatLike then [(6, [beWord v 1 2 false], st)]
  else if r.1 = 0x15 ∧ heatLike then [(7, [w4 1, w4 5], st)]
  else if r.1 = 0x20 ∧ typ = 3 then [(8, [w4 1], st), (9, [w4 5], st), (10, [w4 9], st), (11, [w4 13], st)]
  else if r.1 = 0x30 ∧ typ = 4 then [(8, [beWord v 1 2 false], st), (9, [w4 3], st), (10, [w4 7], st), (11, [w4 11], st)]
  else if r.1 = 0x38 ∧ typ = 5 then [(8, [w4 1], st), (9, [w4 5], st)]
  else []

/-- A reported value; bits 7 and 6 of its status byte read 0 (R11). -/
def State.imgReport (s : State) (n : Nat) (f : Nat × List Word × Nat) : State :=
  ((s.imgWords n ((fieldWords f.1).zip f.2.1)).imgSetStat n f.1 (f.2.2 % 64)).nodeMod n (fun d =>
    { d with have_ := if d.have_.contains f.1 then d.have_ else f.1 :: d.have_ })

/-- The previous value held with quality `q`; a field that has never held a reported value reads 0 with quality INIT. -/
def State.imgHold (s : State) (n q i : Nat) : State :=
  if (s.node n).have_.contains i then s.imgSetStat n i (withQual (s.imgStat n i) q)
  else (s.imgWords n ((fieldWords i).map (fun w => (w, 0)))).imgSetStat n i INITQ

/-- The image mailbox takes the items of the record (R222): every word with the status byte of its field; words without one
carry GOOD. -/
def State.imgPublish (s : State) (n : Nat) : State :=
  let st := fun (w : Nat) => ((List.range 12).find? (fun i => (fieldWords i).contains w)).elim GOOD (fun i => s.imgStat n i)
  s.rolePuts 3 n ((List.range 24).map (fun w => (⟨s.trd 0x1201 n w, st w⟩ : Item)))

/-- Holds all values of a node STALE (R223, rows 2). -/
def State.imgStale (s : State) (n : Nat) : State := (typeFields (s.nodeType n)).foldl (fun a i => a.imgHold n STALEQ i) s

/-- The substitutes of R223: the model's estimates of T_SUP, FLOW and DP where EST_ALLOW, EST_EN and SUBST_EN are 1 and the
estimate has quality ESTIM; otherwise the previous value. -/
def State.imgSubst (s : State) (n : Nat) : State :=
  let on := s.tfld 0x1200 n 0 30 1 == 1 && s.tfld 0x2406 n 0 30 1 == 1 && s.bit (bitAt 0x24040 4)
  (typeFields (s.nodeType n)).foldl (fun a i =>
    let k := if i = 0 then some 0 else if i = 3 then some 1 else if i = 2 then some 2 else none
    match k with
    | some k =>
      let it := a.roleGet 1 n k
      if on && qual it.st == ESTIM then (a.imgWords n ((fieldWords i).map (fun w => (w, it.w)))).imgSetStat n i (withQual it.st SUBST)
      else a.imgHold n SUBST i
    | none => a.imgHold n SUBST i) s

/-- The values of a used report: TQ, STATUS, the reported fields; required ones that are missing are held STALE. -/
def State.imgTake (s : State) (n : Nat) (rs : List (Nat × List Byte)) : State :=
  let t := s.nodeType n
  let fs := rs.flatMap (fun r => recFields t r)
  let s1 := fs.foldl (fun a f => a.imgReport n f) s
  let s2 := ((typeFields t).filter (fun i => !fs.any (fun f => f.1 == i))).foldl (fun a i => a.imgHold n STALEQ i) s1
  match tlvGet rs 0x17 with
  | none => s2
  | some v => s2.twr 0x1201 n 14 (beWord v 0 4 false)

/-- The latency of a used report (R243). -/
def State.latency (s : State) (r : Report) : State :=
  let d := ltDiff (r.sec, r.ns) (r.rxSec, r.rxNs)
  let us := (d / 1000 + (if d % 1000 = 0 ∨ !Config.roundUp s.free then 0 else 1)).toNat
  let s1 := s.useFree
  let s2 := if (s1.rd 0x12084).toNat < us then s1.wr 0x12084 (BitVec.ofNat 32 us) else s1
  if (s2.rd 0x12080).toNat * 1000 < d then
    let s3 := s2.bump .SNET_LAT_EXCEED
    if s3.snet.latHf then s3 else (s3.snetMod (fun q => { q with latHf := true })).raiseEv 0x12 6
  else s2

/-- What every used report gives: sequence, LAUNCH, time quality and latency, the counter (R222, R243, R244). -/
def State.reportUsed (s : State) (n : Nat) (r : Report) : State :=
  let s1 := ((s.twr 0x1201 n 15 (BitVec.ofNat 32 r.x)).twr 0x1201 n 17 (BitVec.ofNat 32 r.sec)).twr 0x1201 n 18
    (BitVec.ofNat 32 r.ns)
  let s2 := s1.nodeCount n 0
  let s3 := match tlvGet r.recs 0x41 with
    | none => s2
    | some v => s2.tset 0x1201 n 0 20 2 (beAt v 0 1 % 4)
  if s3.tfld 0x1201 n 0 20 2 = 1 then
    (s3.latency r).nodeMod n (fun d =>
      { d with latBad := decide (((s3.rd 0x12080).toNat * 1000 : Int) < ltDiff (r.sec, r.ns) (r.rxSec, r.rxNs)) })
  else s3

/-- CMD_ACK (R228): RESULT 0 or 1 makes the entries of the SUB_CMD it names ACKED; 2 or 3 drops them. -/
def State.cmdAck (s : State) (n off : Nat) (v : List Byte) : State :=
  let d := s.node n
  let res := beAt v 2 1
  if d.cmdSeq = some (beAt v 0 2) then
    let es := d.cmdIdx.map (fun i => s.qAt i)
    let s1 := es.foldl (fun a e =>
      if res ≤ 1 then (if e.immed then a.qFree e off else a.tset 0x1202 e.idx 0 29 1 1)
      else
        let b := (a.qFree e off).bump .SNET_CMD_MISSED
        if e.immed then b else b.raiseEv 0x12 7) s
    s1.nodeMod n (fun d => { d with cmdSeq := none, cmdIdx := [] })
  else s

/-- A missed report is counted (R223, R224). -/
def State.countMiss (s : State) (n : Nat) : State :=
  ((s.tset 0x1201 n 0 8 8 (min 255 (s.nodeMiss n + 1))).bump .SNET_MISS).nodeCount n 1

/-- The report with the highest extended sequence (R219). -/
def bestReport (l : List Report) : Option Report :=
  l.foldl (fun (b : Option Report) r => match b with
    | none => some r
    | some x => if x.x < r.x then some r else b) none

/-- A report used at its slot by node `n` in state `st`, QUARANTINE or ADMITTED (R223, R234, R236). -/
def State.slotReport (s : State) (n off st : Nat) (r : Report) : State :=
  let d := s.node n
  let a := s.reportUsed n r
  let b := match tlvGet r.recs 0x40 with
    | none => a
    | some v => a.cmdAck n off v
  let regs := energyRegs r.recs
  let take := fun (c : State) => (c.imgTake n r.recs).nodeMod n (fun d => { d with base := regsTake d.base regs })
  if st = 2 then take b
  else if st = 1 ∧ d.stateOk then
    let back := regsBack (typeKinds (s.nodeType n)) d.lastRegs regs
    let run := if d.run = 0 ∨ back then 1 else d.run + 1
    let c := b.nodeMod n (fun d => { d with run := run, lastRegs := regs })
    if 2 ≤ run then take (c.setNodeState n 2) else c.imgSubst n
  else b.imgSubst n

/-- A slot of node `n` in state `st` without a report (R221, R223, R236). -/
def State.slotMissed (s : State) (n st : Nat) : State :=
  let grace := (s.node n).graceCyc == some s.snet.cyc
  let a := if grace then s else s.countMiss n
  if st = 1 then (a.nodeMod n (fun d => { d with run := 0, lastRegs := [] })).imgSubst n
  else if st = 2 then (if !grace && decide (a.nodeMiss n ≤ 2) then a.imgStale n else a)
  else a.imgSubst n

/-- The report slot of node `n` (R218, R219, R222, R223, R228, R234, R236). Its window takes the reports received after the previous slot's
instant and up to this one's; later ones wait for the next. A SILENT or LOST node that has reported with its known epoch enters QUARANTINE
and the report is not used. MISS counts consecutive missed reports in every state, and a report clears it (R222; log 63). A third miss in
a row is the step NODE_SILENT, a fiftieth NODE_LOST. -/
def State.reportSlot (s : State) (n off : Nat) : State :=
  let d := s.node n
  let st := s.nodeState n
  let now := s.instant off
  let after := fun (r : Report) => decide (0 < ltDiff now (r.rxSec, r.rxNs))
  let win := d.reps.filter (fun r => !after r && (d.prevSlot.map (fun p => decide (0 < ltDiff p (r.rxSec, r.rxNs)))).getD true)
  let got := bestReport (if st = 3 ∨ st = 4 then win.filter (·.known) else win)
  let s0 := (s.bumpN .SNET_RX_EXCESS (win.length - 1)).nodeMod n (fun d =>
    { d with reps := d.reps.filter after, helloWin := false, prevSlot := some now })
  let s1 :=
    if st = 0 then s0
    else
      match (if d.helloWin then none else got) with
      | none => s0.slotMissed n st
      | some r =>
        let s1 := s0.tset 0x1201 n 0 8 8 0
        if st = 3 ∨ st = 4 then (s1.nodeQuarantine n).imgSubst n else s1.slotReport n off st r
  s1.imgPublish n

/-- GSP_RXCLOSE (R217, R222): the node's report slot, the first draw of the substation cycle. -/
def execGspRxclose (arg ns : Nat) (s : State) : Out :=
  .next (s.entry 0x41 0x0A (fun e => e.has arg && e.begunAt ns) (fun s =>
    match s.entryIdx arg 0 11 with
    | none => s
    | some n =>
      if !s.nodeDef n || (s.node n).rxCyc == some s.snet.cyc then s
      else (s.nodeMod n (fun d => { d with rxCyc := some s.snet.cyc })).reportSlot n ns))

/-- NODE_SILENT (R223): an ADMITTED node whose MISS has reached 3 becomes SILENT and its values are substituted; so does a node in QUARANTINE
whose group's keys are revoked (R241). -/
def execNodeSilent (n : Nat) (s : State) : Out :=
  .next <|
    let st := s.nodeState n
    if s.nodeDef n && (st == 2 || (st == 1 && s.bit (grpRev (s.nodeGroup n)))) && decide (3 ≤ s.nodeMiss n) then
      ((((s.setNodeState n 3).nodeCount n 3).imgSubst n).imgPublish n)
    else s

/-- A LOST node keeps one queued entry of each kind, the one that launches last (R231). -/
def State.lostPrune (s : State) (n : Nat) : State :=
  let es := s.qOfNode n
  let beaten := fun (e : QEntry) => es.any (fun x => x.kind == e.kind && x.idx != e.idx
    && ((e.immed && !x.immed) || (e.immed == x.immed && (decide (0 < ltDiff (e.sec, e.ns) (x.sec, x.ns))
      || ((e.sec, e.ns) == (x.sec, x.ns) && decide (e.idx < x.idx))))))
  (es.filter beaten).foldl (fun a e => a.qFree e 0) s

/-- NODE_LOST (R224, R231): a SILENT node whose MISS has reached 50. -/
def execNodeLost (n : Nat) (s : State) : Out :=
  .next <|
    if s.nodeDef n && s.nodeState n == 3 && decide (50 ≤ s.nodeMiss n) then
      (((s.setNodeState n 4).bump .SNET_LOST).lostPrune n).imgPublish n
    else s

/-! ## Sending (R220, R227, R229) -/

/-- What carries the next message to a node (R203): from SNET_PORT to the node's address and UDP port. -/
def State.netHdr (s : State) (n : Nat) : NetHdr :=
  let port := s.tfld 0x1200 n 0 0 16
  { prp := s.snet.prpSeq,
    vlan := if s.bit (bitAt 0x12040 4) then some (s.fld ⟨0x12054, 0, 12⟩, s.fld ⟨0x12054, 13, 3⟩) else none,
    ip6 := s.bit (bitAt 0x12040 3), dscp := s.fld ⟨0x12054, 16, 6⟩,
    src := [0x12058, 0x1205C, 0x12060, 0x12064].map s.rd, sport := s.fld ⟨0x12050, 0, 16⟩,
    dst := [1, 2, 3, 4].map (s.trd 0x1200 n), dport := if port = 0 then s.fld ⟨0x12050, 0, 16⟩ else port }

/-- Sends a message to a node under the next sequence number: under the group's current generation, or the node wrap key. -/
def State.gspSend (s : State) (n typ flags : Nat) (key : Option (Nat × Nat)) (launch : Nat × Nat) (recs : List (Nat × List Byte)) :
    State :=
  let d := s.node n
  let group := s.nodeGroup n
  let gen := (key.map (·.2)).getD (s.groupGen group)
  let epoch := (s.rd 0x12074).toNat
  let len := (recs.map (fun r => 2 + r.2.length)).foldl (· + ·) 0
  let m : GspTx := { ports := s.sendPorts, typ := typ, flags := flags, node := n, seq := d.txX % 65536, group := group,
                     gen := gen, nk := key.isSome, sec := launch.1, ns := launch.2, recs := recs,
                     hdr := gspHeader 1 typ flags n (d.txX % 65536) epoch len (group * 256 + gen * 2 + b2n key.isSome) launch.1 launch.2,
                     nonce := gspNonce (d.txX / 65536 % 65536) (d.txX % 65536) epoch n 0, net := s.netHdr n }
  let s0 := { s with twin := { s.twin with msgs := s.twin.msgs ++ [m] } }
  let s1 := s0.nodeMod n (fun d => { d with txX := d.txX + 1 })
  if s.portsSend then ((s1.countTx).emit (.gsp m)).prpStep else s1

/-- RESULT of the ADMIT that answers a SUB_HELLO (R233): decided at the command slot, but for 3. -/
def State.admitResult (s : State) (n : Nat) (h : Hello) : Nat :=
  let mismatch := match h.ident with
    | none => true
    | some (t, ser) => t != s.nodeType n || (s.nodeSerial n != 0 && ser != s.nodeSerial n)
  if h.back then 3
  else if !s.bit (bitAt 0x12040 2) then 4
  else if mismatch then 1
  else if ((s.node n).repAt).isNone then 2
  else 0

/-- The control message of a command slot (R220): the answer to a SUB_HELLO, then SUB_STATE_REQ, then SUB_REKEY. -/
def State.ctrlMsg (s : State) (n off : Nat) : State :=
  let d := s.node n
  let now := s.instant off
  let st := s.nodeState n
  let ok := s.groupOk (s.nodeGroup n)
  match d.hello with
  | some h =>
    if !ok then s
    else
      let r := s.admitResult n h
      let a := s.gspSend n 4 0 none now
        [(0xC1, beBytes 1 r ++ beBytes 4 (d.repAt.getD 0) ++ beBytes 4 (d.cmdAt.getD 0))]
      let b := a.nodeMod n (fun d => { d with hello := none })
      if r = 0 then b.nodeQuarantine n else b
  | none =>
    if st = 0 then s
    else if st = 1 ∧ d.needState ∧ ok then s.gspSend n 5 0 none now []
    else
      match s.rekeyOf (s.nodeGroup n) with
      | some r =>
        if r.left.contains n && s.slotActive s.wrapSlot then
          s.gspSend n 7 0 (some (r.group, r.gen)) now
            [(0xD0, beBytes 1 r.group ++ beBytes 1 r.gen ++ beBytes 4 r.sec ++ beBytes 4 r.ns ++ s.wrappedKey n r.group r.gen)]
        else s
      | none => s

/-- Drops the timed entries whose lateness would exceed the grace (R229): each value stands as steady setpoint and is sent as
an immediate entry unless a later entry of its kind is queued. -/
def State.dropLate (s : State) (n off : Nat) : State :=
  let grace : Int := (s.rd 0x1207C).toNat * 1000000
  let late := (s.qOfNode n).filter (fun e => !e.immed && !e.acked && decide (grace < -(s.ltAhead e.sec e.ns off)))
  late.foldl (fun a e =>
    let b := ((a.qFree e off).bump .SNET_CMD_MISSED).raiseEv 0x12 7
    let later := (b.qOfNode n).any (fun x => x.kind == e.kind && (x.immed || decide (0 < ltDiff (e.sec, e.ns) (x.sec, x.ns))))
    if later then b else (b.enqueue e.src n e.kind none e.vals off).1) s

/-- One entry per kind: entries already sent before others. -/
def onePerKind (es : List QEntry) : List QEntry :=
  (es.filter (·.sent) ++ es.filter (fun e => !e.sent)).foldl (fun l e => if l.any (fun x => x.kind == e.kind) then l else l ++ [e]) []

/-- The entry with the earliest launch time. -/
def earliest (es : List QEntry) : Option QEntry :=
  es.foldl (fun (b : Option QEntry) e => match b with
    | none => some e
    | some x => if ltDiff (x.sec, x.ns) (e.sec, e.ns) < 0 then some e else b) none

/-- The entries of the node's next SUB_CMD (R227). -/
def State.cmdEntries (s : State) (n off : Nat) : List QEntry :=
  let all := s.qOfNode n
  let open_ := all.filter (fun e => !e.acked)
  let imm := open_.filter (·.immed)
  if s.nodeState n = 4 then []
  else if !imm.isEmpty then onePerKind imm
  else
    let held := ((all.filter (fun e => e.acked && !e.immed && !s.qPassed e off)).map (fun e => (e.sec, e.ns))).eraseDups
    let groupOf := fun (e : QEntry) => onePerKind (open_.filter (fun x => x.sec == e.sec && x.ns == e.ns))
    match earliest open_ with
    | none => []
    | some e =>
      let g := groupOf e
      if g.any (·.sent) || held.contains (e.sec, e.ns) || decide (held.length < s.fld ⟨0x12078, 16, 4⟩) then g
      else
        match earliest (open_.filter (·.sent)) with
        | none => []
        | some x => (groupOf x).filter (·.sent)

/-- The TLV record of a queued entry: SET_CHAN carries four values, SET_MODE one byte. -/
def cmdRec (kind : Nat) (vals : List Word) : Nat × List Byte :=
  let v := fun (i : Nat) => (vals.getD i 0).toNat
  (kind, if kind = 0x82 then beBytes 4 (v 0) ++ beBytes 4 (v 1) ++ beBytes 4 (v 2) ++ beBytes 4 (v 3)
    else if kind = 0x85 then beBytes 1 (v 0) else beBytes 4 (v 0))

/-- The SUB_CMD of a command slot (R220, R227 to R229, R221). -/
def State.subCmd (s0 : State) (n off : Nat) : State :=
  let s := s0.dropLate n off
  let es := s.cmdEntries n off
  let d := s.node n
  let timed := es.any (fun e => !e.immed)
  let l := match es.head? with
    | some e => if e.immed then (0, 0) else (e.sec, e.ns)
    | none => (0, 0)
  let late := timed && decide (s.ltAhead l.1 l.2 off < 0)
  let retx := es.any (·.sent)
  let flags := b2n timed + b2n late * 2 + b2n retx * 4
  let slot := match d.slotDue, d.repAt with
    | true, some r => [(0x86, beBytes 4 r)]
    | _, _ => []
  let s1 := s.gspSend n 3 flags none l (es.map (fun e => cmdRec e.kind e.vals) ++ slot)
  let s2 := es.foldl (fun a e =>
    let w := (a.tset 0x1202 e.idx 0 30 1 1).tset 0x1202 e.idx 3 0 8 (min 255 (a.tfld 0x1202 e.idx 3 0 8 + 1))
    if late then (w.tset 0x1202 e.idx 0 28 1 1).bump .SNET_CMD_LATE else w) s1
  let s3 := (if retx then (s2.bump .SNET_RETX).nodeCount n 2 else s2).bump .SNET_TX_CMD
  s3.nodeMod n (fun x => { x with cmdSeq := some (d.txX % 65536), cmdIdx := es.map (·.idx), slotDue := false })

/-- The command slot of node `n` (R220): a node in INIT is sent only the SUB_ACK; no message under a revoked group key. -/
def State.commandSlot (s : State) (n off : Nat) : State :=
  let wasInit := s.nodeState n == 0
  let s1 := s.ctrlMsg n off
  if wasInit || !s1.groupOk (s1.nodeGroup n) then s1 else s1.subCmd n off

/-- GSP_TX (R217, R220): the node's command slot, the first draw of the substation cycle; nothing is sent while TX_EN is 0 or
before GSP opens. -/
def execGspTx (arg ns : Nat) (s : State) : Out :=
  .next (s.entry 0x40 0x0A (fun e => e.has arg && e.begunAt ns) (fun s =>
    match s.entryIdx arg 0 11 with
    | none => s
    | some n =>
      if !s.nodeDef n || (s.node n).txCyc == some s.snet.cyc then s
      else
        let s1 := s.nodeMod n (fun d => { d with txCyc := some s.snet.cyc })
        if s1.bit (bitAt 0x12040 1) && s1.gspOpen then s1.commandSlot n ns else s1))

/-! ## At each tick -/

/-- A new substation cycle begins with each hundredth frame of a hyperframe (R217). -/
def State.snetTick (s : State) (newCycle newHf : Bool) : State :=
  let s1 := s.snetMod (fun q => { q with cyc := if newCycle then q.cyc + 1 else q.cyc, latHf := if newHf then false else q.latHf })
  s1.lineTick

end Sys2Proof.Machine
end

