-- ==== Sys2Proof/Machine/Priv.lean ====
section
/-! DEFINITION. Privileged channels: paths and their health (R283), admission (R282, R284), delivery (R285 to R289), what a
takeover releases (R291), and breaches (R294). Reflex channels stand with the outputs they hold. -/

namespace Sys2Proof.Machine

/-! ## Channel descriptors -/

/-- PATHS of a channel names a path: 0 A, 1 B, 2 C, 3 D. -/
def State.chPath (s : State) (ch p : Nat) : Bool := s.chFld ch 0 (22 + p) 1 == 1
def State.chDest (s : State) (ch : Nat) : Nat := s.chFld ch 2 0 11
def State.chPromise (s : State) (ch : Nat) : Nat := (s.trd 0x2600 ch 1).toNat

/-- A word of a channel's descriptor as it will stand after the PRIV page's commit: the shadow's, where the shadow differs. -/
def State.descNext (s : State) (ch w : Nat) : Word :=
  match smFind s.tshadow (tkey 0x2600 ch w) with
  | some v => v
  | none => s.trd 0x2600 ch w

/-- The rules of the descriptor table that depend on other records and pages (R280, R269, R124): a comparator of one channel only,
the other channels taken as the shadow holds them; stations and FD_EN of the ports. -/
def State.privRecordOk (s : State) (ch : Nat) (ws : List Word) : Bool :=
  let w := fun (i lo n : Nat) => wbits (ws.getD i 0) lo n
  let cls := w 0 29 2
  let port := fun (p : Nat) => w 0 (24 + p) 1 == 0 || (s.bit (cfld p 0x40 6 1) && s.stnDef p (w 2 0 11))
  let comp := w 4 0 32 + w 5 0 32 * 2 ^ 32
  let used := (List.range 32).any (fun c => c != ch && wbit (s.descNext c 0) 31 && wbits (s.descNext c 0) 29 2 == 1 &&
    decide (((s.descNext c 4).toNat + (s.descNext c 5).toNat * 2 ^ 32) &&& comp ≠ 0))
  if w 0 31 1 = 0 then true
  else if cls = 1 then decide (comp &&& s.cfg.privComp = comp) && !used
  else if cls = 3 then port 0 && port 1
  else true

/-- A commit that would change these channels' descriptors applies nothing while one of them is armed or has requests outstanding (R280), or
where a descriptor would name a port that has FD_EN at 0 (R253, R269). -/
def State.privCommitBlocked (s : State) (chs : List Nat) : Bool :=
  chs.any (fun ch => s.bit (privArmed ch) || s.priv.reqs.any (fun r => r.ch == ch)
    || (let w := (smFind s.tshadow (tkey 0x2600 ch 0)).getD (s.trd 0x2600 ch 0)
        wbit w 31 && [0, 1].any (fun p => wbit w (24 + p) && !s.bit (cfld p 0x40 6 1))))

/-! ## Paths (R283) -/

/-- The conditions of a path of channel `ch`, but for its latency. -/
def State.pathCond (s : State) (ch p : Nat) (timed : Bool) : Bool :=
  let d := s.chDest ch
  if p < 2 then
    s.chClass ch == 2 && s.chPath ch p && s.lineUp p && s.bit (bitAt 0x12040 1) && s.nodeDef d && s.nodeState d == 2
      && s.groupOk (s.nodeGroup d) && (!timed || s.tfld 0x1201 d 0 20 2 == 1)
  else
    s.chClass ch == 3 && s.chPath ch p && s.canSends (p - 2) && s.bit (cfld (p - 2) 0x40 6 1) && s.stnDef (p - 2) d
      && s.stnState (p - 2) d == 1

/-- A path fails its declared latency: the node's last report took longer than the budget, or a privileged frame of the port took,
or has waited, longer than PRIV_CAN_LAT. -/
def State.pathSlow (s : State) (ch p : Nat) : Bool :=
  if p < 2 then (s.node (s.chDest ch)).latBad
  else
    let c := s.canP (p - 2)
    c.latBad || (match c.priv with
      | [] => false
      | m :: _ => decide (1000 * s.fld ⟨0x2605C, 16 * (p - 2), 16⟩ < s.elapsed 0 - m.at_))

/-- A path is healthy. -/
def State.pathOk (s : State) (ch p : Nat) (timed : Bool) : Bool := s.pathCond ch p timed && !s.pathSlow ch p

/-- The healthy paths of a channel. -/
def State.pathsOk (s : State) (ch : Nat) (timed : Bool) : List Nat := [0, 1, 2, 3].filter (fun p => s.pathOk ch p timed)

/-- The channel registers at a tick: health, PATH_LOST, and the latencies that began to fail (R283, R295). -/
def State.privTick (s : State) : State :=
  (List.range 32).foldl (fun a ch =>
    let d := a.chDef ch
    let c := a.chClass ch
    let net := d && decide (2 ≤ c)
    let slow := if net then [0, 1, 2, 3].filter (fun p => a.pathCond ch p false && a.pathSlow ch p) else []
    let new := slow.filter (fun p => !a.priv.latBad.contains (ch, p))
    let a1 := new.foldl (fun x _ => (x.bump .PRIV_LATOVER).raiseEv 0x26 5) a
    let a2 := a1.privMod (fun q =>
      { q with latBad := slow.map (fun p => (ch, p)) ++ q.latBad.filter (fun e => e.1 != ch) })
    let ok := if net then a2.pathsOk ch false else []
    let one := if net then !ok.isEmpty else d && c == 1 && a2.bit (bitAt 0x0054 11) && a2.mstate != 5 && a2.mstate != 6
    let was := a2.bit (bitAt 0x26058 ch)
    let a3 := (a2.setB (bitAt 0x26058 ch) one).setF (chStat ch 16 4) (maskOf 4 (fun p => ok.contains p))
    let a4 := ((a3.setB (chStat ch 0 1) d).setB (chStat ch 1 1) (a3.bit (privArmed ch))).setB (chStat ch 2 1) (a3.bit (privTripped ch))
    if net && was && !one then a4.raiseEv 0x26 4 else a4) s

/-! ## Admission (R281, R282, R284) -/

/-- The kinds that a node of a type accepts (R214). -/
def kindOk (typ kind : Nat) : Bool :=
  if kind = 0x80 then decide (typ ≤ 2)
  else if kind = 0x81 then decide (typ ≤ 2) || typ == 5
  else if kind = 0x82 then typ == 3
  else if kind = 0x83 then typ == 4
  else if kind = 0x84 then typ == 5
  else kind == 0x85 || kind == 0x86

/-- Class 3: the point writes of a request as (index, value): indices in words 4, 5 and 14, values in words 6 to 13 and 15 to 17
of the argument. None where the argument does not carry one (R432). -/
def pointWrites (w : List Word) (n : Nat) : Option (List (Nat × Word)) :=
  (List.range n).mapM (fun i =>
    if i < 8 then some (wbits (w.getD (4 + i / 4) 0) (8 * (i % 4)) 8, w.getD (6 + i) 0)
    else if 15 + (i - 8) < w.length then some (wbits (w.getD 14 0) (8 * (i - 8)) 8, w.getD (7 + i) 0)
    else none)

/-- LAT of a class in ns: SNET_LAT_BUDGET, or PRIV_CAN_LAT of the port; A in ns. -/
def State.privLat (s : State) (cls port : Nat) : Nat :=
  if cls = 2 then (s.rd 0x12080).toNat * 1000 else s.fld ⟨0x2605C, 16 * port, 16⟩ * 1000
def State.privA (s : State) : Nat := if s.cfg.pair then 4000000 else 0

/-- The next release slot at or after `t`: at most 16 releases in any 1 ms (R279). -/
def State.privSlot (s : State) (t : Nat) : Nat :=
  let l := s.priv.slots
  if l.length < 16 then max t (l.headD 0) else max (max t (l.headD 0)) (l.getD 15 0 + 1000000)

/-- The assigned comparators of a class 1 channel that are free. -/
def State.freeComp (s : State) (ch : Nat) : Option Nat :=
  (List.range 64).find? (fun n => s.chFld ch (4 + n / 32) (n % 32) 1 == 1 && !s.bit (lnchStat n 22))

/-- When a port's privileged buffer frees: every request queued before on that port has ended by then (R284). -/
def State.canFrees (s : State) (port t : Nat) : Nat :=
  (s.priv.reqs.filter (fun r => r.cls == 3 && r.port == port)).foldl (fun m r => max m (r.ta + s.chPromise r.ch * 1000)) t

/-- The verdict of the checks of R282 in order, 0 for accepted, at the instant `off` ns into the frame; `kwp`: made by the owner
through KWP, which allows 11 points. -/
def State.privVerdict (s : State) (src : Nat) (w : List Word) (off : Nat) : Nat :=
  let ch := wbits (w.getD 0 0) 0 5
  let cls := s.chClass ch
  let timed := wbit (w.getD 0 0) 8
  let sec := (w.getD 1 0).toNat
  let ns := (w.getD 2 0).toNat
  let n := wbits (w.getD 3 0) 24 4
  let kind := wbits (w.getD 3 0) 0 8
  let d := s.chDest ch
  let ahead := s.ltAhead sec ns off
  let argBad :=
    (timed && decide (1000000000 ≤ ns)) || (cls == 1 && !timed) || (cls == 3 && timed)
      || (cls == 2 && (decide (kind < 0x80) || decide (0x88 ≤ kind) || s.chFld ch 3 (kind - 0x80) 1 != 1 || !kindOk (s.nodeType d) kind))
      || (cls == 3 && (decide ((if src = 0 then 11 else 8) < n) ||
            (match pointWrites w n with
             | none => true
             | some ps => ps.any (fun p => decide (11 < p.1)))))
  let paths := s.pathsOk ch timed
  let t := s.elapsed off
  let port := paths.headD 2 - 2
  let b : Int := t + s.chPromise ch * 1000 - s.privA - s.privLat cls port
  if s.mstate ≠ 4 then 7
  else if !s.bit (bitAt 0x26040 1) || !s.chDef ch || cls == 0 || s.chFld ch 0 (28 - src) 1 != 1 then 1
  else if argBad then 2
  else if timed && (s.fld timeQuality == 0 || s.bit timeStepPend) then 6
  else if (cls == 1 && decide (ahead < 10000)) || (cls == 2 && timed && decide (ahead < s.chPromise ch * 1000))
      || (timed && decide (86400000000000 < ahead)) then 3
  else if decide (2 ≤ cls) && paths.isEmpty then 4
  else if decide (s.chFld ch 0 19 3 + 1 ≤ s.chOut ch) || (cls == 1 && (s.freeComp ch).isNone)
      || (cls == 2 && decide (b < s.privSlot t)) || (cls == 3 && decide (b < s.canFrees port t)) then 5
  else 0

/-- Writes a record of the request log ring and advances LOG_NEXT. -/
def State.privLog (s : State) (ws : List Word) : State :=
  let i := s.fld ⟨0x2604C, 16, 8⟩
  (s.trecSet 0x2601 i 0 ws).setF ⟨0x2604C, 16, 8⟩ ((i + 1) % 256)

/-- A refusal (R282). -/
def State.privRefuse (s : State) (src ch code off : Nat) : State :=
  let t := s.instant off
  let s1 := s.privLog [BitVec.ofNat 32 (oREFUSED * 2 ^ 28 + code * 2 ^ 24 + src * 2 ^ 16 + s.chClass ch * 2 ^ 8 + ch), 0,
    BitVec.ofNat 32 t.1, BitVec.ofNat 32 t.2, 0, 0, 0, 0]
  let s2 := ((s1.wr 0x26068 (BitVec.ofNat 32 (src * 2 ^ 12 + code * 2 ^ 8 + ch))).setF (chStat ch 28 4) oREFUSED)
  (s2.bump .PRIV_REFUSE).raiseEv 0x26 2

/-- REQ_SEQ of the next acceptance of a channel (R289). -/
def State.nextReqSeq (s : State) (ch : Nat) : Nat :=
  s.fld ⟨0x12074, 0, 16⟩ * 65536 + (s.priv.counts.lookup ch).getD 0 % 65536

/-- A class 1 request arms its comparator: launch time, the channel's GRACE_MS, ACTION 5 and TARGET go into the active and the
shadow registers (R124, R285). -/
def State.privArmComp (s : State) (r : PrivReq) (off : Nat) : State :=
  let put := fun (a : State) (reg : Nat) (v : Word) => { a.wr reg v with shadow := smErase a.shadow reg }
  let s1 := put s (lnchReg r.comp 0) (BitVec.ofNat 32 r.sec)
  let s2 := put s1 (lnchReg r.comp 4) (BitVec.ofNat 32 r.ns)
  let s3 := put s2 (lnchReg r.comp 8)
    (BitVec.ofNat 32 (s.chFld r.ch 6 0 10 * 2 ^ 22 + 5 * 2 ^ 16 + s.chFld r.ch 2 13 3 * 2 ^ 8))
  s3.lnchArm r.comp off

/-- An acceptance (R282, R284, R285, R289): the request is committed at once. -/
def State.privAccept (s : State) (src seq : Nat) (w : List Word) (off : Nat) : State × Nat :=
  let ch := wbits (w.getD 0 0) 0 5
  let cls := s.chClass ch
  let timed := wbit (w.getD 0 0) 8
  let paths := s.pathsOk ch timed
  let port := if cls = 3 then paths.headD 2 - 2 else 0
  let t := s.elapsed off
  let b : Int := t + s.chPromise ch * 1000 - s.privA - s.privLat cls port
  let lt := s.instant off
  let sec := (w.getD 1 0).toNat
  let ns := (w.getD 2 0).toNat
  let bl := if cls = 1 then (sec, ns) else ltAdd lt (b - t).toNat
  let slot := if cls = 2 then s.privSlot t else t
  let r : PrivReq :=
    { ch := ch, cls := cls, src := src, seq := seq, ta := t, bound := b, timed := timed, sec := sec, ns := ns, args := w,
      comp := (s.freeComp ch).getD 0, slot := slot, port := port, released := none, taken := false,
      log := s.fld ⟨0x2604C, 16, 8⟩ }
  let s1 := s.privLog [BitVec.ofNat 32 (src * 2 ^ 16 + cls * 2 ^ 8 + ch), BitVec.ofNat 32 seq, BitVec.ofNat 32 lt.1,
    BitVec.ofNat 32 lt.2, BitVec.ofNat 32 bl.1, BitVec.ofNat 32 bl.2, 0, 0]
  let s2 := s1.privMod (fun q =>
    { q with reqs := q.reqs ++ [r],
             counts := (ch, seq % 65536 + 1) :: q.counts.filter (fun e => e.1 != ch),
             slots := if cls = 2 then (slot :: q.slots).take 16 else q.slots })
  let s3 := ((s2.bump .PRIV_ACCEPT).wr (0x261C0 + 4 * ch) (BitVec.ofNat 32 seq)).setF (chStat ch 28 4) 0
  let s4 := s3.chShow ch
  (if cls = 1 then s4.privArmComp r off else s4, seq)

/-- The verdict of a request and its REQ_SEQ: a standby module admits none and takes what the active module recorded, in order, for the
channel and the requester (R291), unless the request comes through a session of its own (R447: `own`). -/
def State.verdictOf (s : State) (own : Bool) (src : Nat) (w : List Word) (off : Nat) : PrivVerdict :=
  let ch := wbits (w.getD 0 0) 0 5
  match (if s.mstate = 3 ∧ own = false then s.priv.due.find? (fun v => v.ch == ch && v.src == src) else none) with
  | some v => v
  | none =>
    let v := s.privVerdict src w off
    { ch := ch, src := src, seq := if v = 0 then s.nextReqSeq ch else 0, code := v }

/-- A request (R281): its verdict, and REQ_SEQ when accepted. The verdict goes into the frame's input record (R455, R456). -/
def State.privRequest (s : State) (own : Bool) (src : Nat) (w : List Word) (off : Nat) : State × Nat × Nat :=
  let v := s.verdictOf own src w off
  let s1 := s.privMod (fun q => { q with given := q.given ++ [v], due := q.due.erase v })
  if v.code = 0 then
    let r := s1.privAccept src v.seq w off
    (r.1, 0, r.2)
  else (s1.privRefuse src v.ch v.code off, v.code, 0)

/-- A request by a CPE through its port (R281, R295): words 0 to 13, then GO; the verdict stands in words 14 and 15. -/
def State.cpeRequest (s : State) (p : Nat) (w : List Word) (off : Nat) : State :=
  let base := 0x260C0 + 64 * p
  let s1 := (List.range 14).foldl (fun a i => a.wr (base + 4 * i) (if i = 0 then w.getD 0 0 &&& 0x7FFFFFFF#32 else w.getD i 0)) s
  let r := s1.privRequest false (1 + p) w off
  ((if r.2.1 = 0 then r.1.wr (base + 56) (BitVec.ofNat 32 r.2.2) else r.1)).wr (base + 60)
    (BitVec.ofNat 32 (2 ^ 31 + b2n (r.2.1 == 0) * 2 ^ 30 + r.2.1 * 2 ^ 24))

/-- CMD PRIV_REQ at its tick (R281): exactly one completion. -/
def State.actPrivReq (s : State) (c : HCmd) : State :=
  let r := s.privRequest (decide (6 ≤ c.ses)) 0 c.args 0
  if r.2.1 = 0 then r.1.complete c .ok (BitVec.ofNat 32 r.2.2) else r.1.complete c .refused (BitVec.ofNat 32 r.2.1)

/-! ## Delivery (R285) -/

/-- The outstanding request of a channel with a REQ_SEQ. -/
def State.privReqOf (s : State) (ch seq : Nat) : Option PrivReq := s.priv.reqs.find? (fun r => r.ch == ch && r.seq == seq)

/-- A request is changed. -/
def State.privSet (s : State) (r : PrivReq) : State :=
  s.privMod (fun q => { q with reqs := q.reqs.map (fun x => if x.ch = r.ch ∧ x.seq = r.seq then r else x) })

/-- A request ends; a frame of it that still waits in a port's buffer is withdrawn. -/
def State.privDone (s : State) (r : PrivReq) (o : Nat) : State :=
  let drop := fun (c : CanSt) => { c with priv := c.priv.filter (fun m => !(m.ch == r.ch && m.seq == r.seq)) }
  ((s.canMod 0 drop).canMod 1 drop).privEnd r o

/-- The release bound, A later after a takeover (R291, R294). -/
def State.privBound (s : State) (r : PrivReq) : Int := r.bound + (if r.taken then s.privA else 0)

/-- The command record of a class 2 request (R215): the value's bytes, big-endian from word 6. -/
def privRecord (r : PrivReq) : Nat × List Byte :=
  let kind := wbits (r.args.getD 3 0) 0 8
  let bytes := ((List.range 4).flatMap (fun i => beBytes 4 (r.args.getD (6 + i) 0).toNat)).take ((tlvLen kind).getD 0)
  (0xE0, beBytes 1 r.ch ++ beBytes 4 r.seq ++ beBytes 1 kind ++ beBytes 1 bytes.length ++ bytes)

/-- The data bytes of a privileged CAN frame (R270). -/
def privFrame (r : PrivReq) (stn : Nat) : List Byte :=
  let n := wbits (r.args.getD 3 0) 24 4
  let ps := (pointWrites r.args n).getD []
  let raw := beBytes 1 r.ch ++ beBytes 4 r.seq ++ beBytes 1 stn ++ beBytes 1 ps.length
    ++ ps.flatMap (fun p => beBytes 1 p.1 ++ beBytes 4 p.2.toNat)
  padTo (([8, 12, 16, 20, 24, 32, 48, 64].find? (fun l => decide (raw.length ≤ l))).getD 64) raw

/-- A SUB_PRIV leaves (R285). -/
def State.subPriv (s : State) (r : PrivReq) (retx : Bool) : State :=
  s.gspSend (s.chDest r.ch) 8 (b2n r.timed + b2n retx * 4) none (if r.timed then (r.sec, r.ns) else (0, 0)) [privRecord r]

/-- A class 3 frame is placed in the primary port's buffer, and moves at once where that port cannot take it (R269). -/
def State.placePriv (s : State) (r : PrivReq) (t : Nat) : State :=
  if !s.sends then s
  else
    let d := s.chDest r.ch
    let m : PrivMsg := { ch := r.ch, seq := r.seq, stn := d, data := privFrame r d, at_ := t }
    let s1 := s.canMod r.port (fun c => { c with priv := c.priv ++ [m] })
    if s1.canSends r.port then s1 else s1.privMove r.port

/-- The privileged transmit path of ports A and B can release at `t`: at most 16 releases in any 1 ms (R279). -/
def State.privRoom (s : State) (t : Nat) : Bool :=
  match s.priv.outs[15]? with
  | none => true
  | some u => decide (u + 1000000 ≤ t)

/-- Notes a release of that path. -/
def State.privOut (s : State) (t : Nat) : State := s.privMod (fun q => { q with outs := (t :: q.outs).take 16 })

/-- PRIV_RELEASE (R285, R291): on a healthy path, no earlier than its slot and no later than its bound; on a port requests are
sent in order of acceptance. -/
def execPrivRelease (ch seq ns : Nat) (s : State) : Out :=
  let t := s.elapsed ns
  .next <|
    match s.privReqOf ch seq with
    | none => s
    | some r =>
      let first := (s.priv.reqs.find? (fun x => x.cls == 3 && x.port == r.port)) == some r
      if r.cls < 2 ∨ r.released.isSome ∨ t < r.slot ∨ s.privBound r < t ∨ (s.pathsOk ch r.timed).isEmpty
          ∨ (r.cls = 3 ∧ first = false) ∨ (r.cls = 2 ∧ s.privRoom t = false) then s
      else
        let s1 := (s.privSet { r with released := some t }).logReleased r (s.instant ns)
        if r.cls = 2 then (s1.privOut t).subPriv r false else s1.placePriv r t

/-- PRIV_RETX (R285): a class 2 request without acknowledgement PRIV_GSP_RETX after its last sending, in a free release slot that
lies no later than B; with TX_EN at 0, or under a revoked group key (R241), nothing is sent. -/
def execPrivRetx (ch seq ns : Nat) (s : State) : Out :=
  let t := s.elapsed ns
  .next <|
    match s.privReqOf ch seq with
    | none => s
    | some r =>
      match r.released with
      | none => s
      | some t0 =>
        if r.cls ≠ 2 ∨ t < t0 + (s.rd 0x26060).toNat * 1000 ∨ s.privSlot t ≠ t ∨ s.privBound r < t ∨ s.privRoom t = false
            ∨ s.bit (bitAt 0x12040 1) = false ∨ s.groupOk (s.nodeGroup (s.chDest ch)) = false then s
        else
          let s1 := (s.privSet { r with released := some t }).privMod (fun q => { q with slots := (t :: q.slots).take 16 })
          (((s1.privOut t).subPriv r true).bump .PRIV_RETX)

/-- The outcome of an acknowledgement's RESULT (R286, R287). -/
def ackOutcome (res : Nat) : Option Nat :=
  if res = 3 then some oNAK else if res ≤ 4 then some oDELIVERED else none

/-- An acknowledgement of a request of a class to a destination, released by this module or by the one it took over from. -/
def State.privAck (s : State) (cls dest ch seq res : Nat) : State :=
  match s.privReqOf ch seq, ackOutcome res with
  | some r, some o => if r.cls = cls ∧ s.chDest ch = dest ∧ (r.released.isSome ∨ r.taken = true) then s.privDone r o else s
  | _, _ => s

/-- SUB_PRIV_ACK_RX (R215, R285). -/
def execSubPrivAckRx (g : Gsp) (s : State) : Out :=
  .next <|
    match s.gspCheck g with
    | .refused s1 => s1
    | .back s1 _ => s1
    | .ok s1 _ rs =>
      if g.typ ≠ 9 then s1
      else
        match s1.msgAllowed g.node with
        | (s2, false) => s2
        | (s2, true) =>
          match tlvGet rs 0xE1 with
          | none => s2
          | some v => s2.privAck 2 g.node (beAt v 0 1) (beAt v 1 4) (beAt v 5 1)

/-- CAN_PRIV_ACK_RX (R270, R285): on identifier 0x040 + STATION of a port in the channel's PATHS. -/
def execCanPrivAckRx (f : CanFrame) (s : State) : Out :=
  .next (s.canRx f (fun s =>
    let ch := beAt f.data 0 1
    if !f.ide && f.fdf && decide (0x040 ≤ f.id) && decide (f.id ≤ 0x05F) && decide (6 ≤ f.data.length) && decide (ch < 32)
        && s.chPath ch (2 + f.port) then
      s.privAck 3 (f.id - 0x040) ch (beAt f.data 1 4) (beAt f.data 5 1)
    else s))

/-- PRIV_REQUEST_END (R285, R286): a network request still outstanding at t_a + PROMISE_US. -/
def execPrivRequestEnd (ch seq ns : Nat) (s : State) : Out :=
  .next <|
    match s.privReqOf ch seq with
    | none => s
    | some r =>
      if r.cls < 2 ∨ s.elapsed ns < r.ta + s.chPromise ch * 1000 then s
      else s.privDone r (if r.released.isSome then oSENT else oUNDELIVERED)

/-! ## Takeover and breach (R291, R294) -/

/-- The outstanding network requests of a module that takes over are to be released again with the same REQ_SEQ. -/
def State.privTakeover (s : State) : State :=
  s.privMod (fun q => { q with reqs := q.reqs.map (fun r => if r.cls < 2 then r else { r with released := none, taken := true }) })

/-- PRIV_BREACH (R294): 1 a request not released by its bound while a declared path is healthy; 2 an armed comparator that has
neither fired nor missed; 3 a trip pair of the channel reads back energised. -/
def State.breached (s : State) (kind ch seq ns : Nat) : Bool :=
  if kind = 3 then decide (ch < 32) && s.dio.trips.any (fun e => e.1 == ch)
  else
    match s.privReqOf ch seq with
    | none => false
    | some r =>
      if kind = 1 then
        decide (2 ≤ r.cls) && r.released.isNone && decide (s.privBound r < s.elapsed ns) && !(s.pathsOk ch r.timed).isEmpty
      else kind == 2 && r.cls == 1 && decide (s.ltAhead r.sec r.ns ns < 0)

def execPrivBreach (kind ch seq ns : Nat) (s : State) : Out :=
  .next <|
    if s.breached kind ch seq ns then
      let s1 := match s.privReqOf ch seq with
        | none => s
        | some r => s.privDone r oBREACH
      let s2 := (s1.setB (bitAt 0x2604C 0) true).wr 0x26064 (BitVec.ofNat 32 (kind * 2 ^ 12 + s.chClass ch * 2 ^ 8 + ch))
      (s2.raiseEv 0x26 0).enterFault 4 0
    else s

end Sys2Proof.Machine
end

