-- ==== Sys2Proof/Machine/CpeCode.lean ====
section
/-! DEFINITION. Block code (R374 to R376, R380, R385 to R387): the fields of an instruction word, the operations of the opcode classes on the
working registers and on journalled instance data, and the device's library blocks. -/

namespace Sys2Proof.Machine

/-! ## Instruction words (R374) -/

/-- The fields of an instruction word. -/
def insCls (w : Nat) : Nat := w / 2 ^ 28 % 16
def insOp (w : Nat) : Nat := w / 2 ^ 24 % 16
def insD (w : Nat) : Nat := w / 2 ^ 18 % 64
def insA (w : Nat) : Nat := w / 2 ^ 12 % 64
def insImm (w : Nat) : Bool := w / 2 ^ 11 % 2 == 1
def insB (w : Nat) : Nat := w % 2 ^ 11

/-- What a word does; none for a refused class, an undefined OP or non-zero reserved bits (R375). -/
def insDecode (w : Nat) : Option CpeOp :=
  if 0xB < insCls w ∨ (insImm w = false ∧ insB w / 64 ≠ 0) then none
  else (Config.cpeOp (insCls w) (insOp w)).filter (fun o => o.cls == insCls w)

/-- The second source: working register B, or the signed immediate. -/
def insSrc (regs : List (BitVec 64)) (w : Nat) : BitVec 64 :=
  if insImm w then BitVec.ofInt 64 (signed 11 (insB w))
  else if insB w % 64 = 0 then 0#64 else regs.getD (insB w % 64) 0#64

/-! ## Arithmetic (R375) -/

/-- `n` bits as a register value, extended with their sign where `sg`. -/
def regOf (n : Nat) (sg : Bool) (v : Nat) : BitVec 64 :=
  if sg then BitVec.ofInt 64 (signed n (v % 2 ^ n)) else BitVec.ofNat 64 (v % 2 ^ n)

/-- The bits of a width of 2^k bytes, and a register's low `n` bits as an integer. -/
def kBits (k : Fin 4) : Nat := 8 * 2 ^ k.val
def intOf (n : Nat) (sg : Bool) (v : BitVec 64) : Int := if sg then signed n (v.toNat % 2 ^ n) else ((v.toNat % 2 ^ n : Nat) : Int)

/-- An integer operation; overflow wraps. None where it divides by zero. -/
def intOp (f : IntFn) (k : Fin 4) (sg : Bool) (a b : BitVec 64) : Option (BitVec 64) :=
  let n := kBits k
  let x := intOf n sg a
  let y := intOf n sg b
  let ua := a.toNat % 2 ^ n
  let ub := b.toNat % 2 ^ n
  let wrap := fun v : Int => some (regOf n sg (BitVec.ofInt n v).toNat)
  let shift := fun v : Int => if n ≤ ub then some (regOf n sg (Config.cpeShift f n ua ub).toNat) else wrap v
  match f with
  | .add => wrap (x + y)
  | .sub => wrap (x - y)
  | .mul => wrap (x * y)
  | .div => if y = 0 then none else wrap (Int.tdiv x y)
  | .mod => if y = 0 then none else wrap (Int.tmod x y)
  | .shl => shift (x * 2 ^ ub)
  | .shr => shift (Int.fdiv x (2 ^ ub))
  | .and => some (regOf n sg (a &&& b).toNat)
  | .or => some (regOf n sg (a ||| b).toNat)
  | .xor => some (regOf n sg (a ^^^ b).toNat)
  | .not => some (regOf n sg (~~~ a).toNat)

/-- A floating-point format: its bits, decoding and packing. -/
def fltBits (wide : Bool) : Nat := if wide then 64 else 32
def fltDec (wide : Bool) (v : BitVec 64) : FVal := if wide then f64Dec v.toNat else f32Dec (v.setWidth 32)
def fltPack (wide : Bool) (v : FVal) : BitVec 64 := if wide then BitVec.ofNat 64 v.to64 else (v.to32).setWidth 64

/-- Minimum and maximum; what IEEE 754 leaves open (a NaN, the two zeros) is free. -/
def fltPick (wide big : Bool) (a b : BitVec 64) : BitVec 64 :=
  let x := fltDec wide a
  let y := fltDec wide b
  if x = .nan ∨ y = .nan ∨ x.eq y = true then (if a = b then a else regOf (fltBits wide) false (Config.nanMinMax big a b).toNat)
  else if x.lt y = big then b else a

/-- A floating-point operation, rounded to nearest even. -/
def fltOp (f : FltFn) (wide : Bool) (a b : BitVec 64) : BitVec 64 :=
  let x := fltDec wide a
  let y := fltDec wide b
  match f with
  | .add => fltPack wide (x.add y)
  | .sub => fltPack wide (x.add y.neg)
  | .mul => fltPack wide (x.mul y)
  | .div => fltPack wide (x.div y)
  | .sqrt => fltPack wide x.sqrt
  | .min => fltPick wide false a b
  | .max => fltPick wide true a b
  | .abs => BitVec.ofNat 64 (a.toNat % 2 ^ (fltBits wide - 1))

/-- A comparison by a strict order and an equality. -/
def relOf (r : CmpRel) (lt gt eq : Bool) : Bool :=
  match r with
  | .eq => eq
  | .ne => !eq
  | .lt => lt
  | .le => lt || eq
  | .gt => gt
  | .ge => gt || eq

/-- A comparison of numbers of a type; no order holds of a NaN. -/
def cmpOp (r : CmpRel) (t : NumTy) (a b : BitVec 64) : BitVec 64 :=
  let flt := fun wide =>
    let x := fltDec wide a
    let y := fltDec wide b
    relOf r (x.lt y) (y.lt x) (x.eq y)
  let v := match t with
    | .int k sg =>
      let x := intOf (kBits k) sg a
      let y := intOf (kBits k) sg b
      relOf r (decide (x < y)) (decide (y < x)) (x == y)
    | .f32 => flt false
    | .f64 => flt true
  if v then 1#64 else 0#64

/-- A conversion: integer results saturate, and a floating-point value rounds to nearest even. -/
def cvtOp (src dst : NumTy) (a : BitVec 64) : BitVec 64 :=
  let clamp := fun (k : Fin 4) (sg : Bool) (v : Int) =>
    let n := kBits k
    let lo : Int := if sg then -(2 ^ (n - 1) : Int) else 0
    let hi : Int := if sg then 2 ^ (n - 1) - 1 else 2 ^ n - 1
    regOf n sg (BitVec.ofInt n (max lo (min hi v))).toNat
  let big : Int := 2 ^ 64
  let fromFlt := fun (x : FVal) =>
    match dst with
    | .int k sg =>
      (match x with
       | .nan => regOf (kBits k) sg (Config.cpeNanInt dst).toNat
       | .inf neg => clamp k sg (if neg then -big else big)
       | .fin neg m e => clamp k sg (roundEven (sMant neg m) e))
    | .f32 => fltPack false x
    | .f64 => fltPack true x
  match src with
  | .int k sg =>
    let v := intOf (kBits k) sg a
    (match dst with
     | .int k2 sg2 => clamp k2 sg2 v
     | .f32 => fltPack false (.ofExact v 0 false)
     | .f64 => fltPack true (.ofExact v 0 false))
  | .f32 => fromFlt (fltDec false a)
  | .f64 => fromFlt (fltDec true a)

/-! ## An execution -/

/-- What is fixed for one execution: the CPE, the task and its stack bytes, CODE as offset and bytes in the image, the bytes of instance data,
the input image (its slots as they stand after the input copy), the variables of the output image, the byte ranges of forced variables,
whether the elapsed time is 0 (R371), the error record being served, and the instant of a GO write that the command does not name. -/
structure CpeCtx where
  p : Nat
  task : Nat
  stack : Nat
  code : Nat × Nat
  size : Nat
  ins : List (BitVec 64)
  outs : List VarRec
  forced : List (Nat × Nat)
  cold : Bool
  serving : Option Nat
  goAt : Nat
deriving DecidableEq, Repr

/-- The engine in an execution: the machine, the journal of instance data (newest first), the library blocks, the working registers, the
instruction pointer in words of CODE, the instance base, the calls as (return, base, stack bytes), and the instants of the coming GO writes. -/
structure CpeVm where
  s : State
  mem : List (Nat × Nat)
  blks : List BlkSt
  regs : List (BitVec 64)
  pc : Nat
  base : Nat
  calls : List (Nat × Nat × Nat)
  gos : List Nat

/-- How an execution stops: a fault of R376, the end of the task, or no further effect (R380: it does not reach its end). -/
inductive CpeStop where
  | fault (code : Nat)
  | ended
  | stuck
deriving DecidableEq, Repr

/-- Working registers; w0 reads 0. -/
def CpeVm.reg (v : CpeVm) (r : Nat) : BitVec 64 := if r = 0 then 0#64 else v.regs.getD r 0#64
def CpeVm.setReg (v : CpeVm) (r : Nat) (x : BitVec 64) : CpeVm := if r = 0 then v else { v with regs := setAt v.regs r x }

/-- Instance data as the execution sees it: the journal over what is committed. -/
def CpeVm.byte (c : CpeCtx) (v : CpeVm) (off : Nat) : Nat := (v.mem.lookup off).getD (v.s.instByte c.p off)
def CpeVm.get (c : CpeCtx) (v : CpeVm) (off n : Nat) : Nat := leNat ((List.range n).map (fun i => v.byte c (off + i)))

/-- A journalled write; it has no effect on a forced variable (R391). -/
def CpeVm.put (c : CpeCtx) (v : CpeVm) (off n x : Nat) : CpeVm :=
  let bs := ((leBytes n x).zipIdx.map (fun e => (off + e.2, e.1))).filter (fun e =>
    !c.forced.any (fun f => decide (f.1 ≤ e.1 ∧ e.1 < f.1 + f.2)))
  { v with mem := bs ++ v.mem }

/-- Journalled writes one after another, each an offset, a size and a value. -/
def CpeVm.puts (c : CpeCtx) (v : CpeVm) (l : List (Nat × Nat × Nat)) : CpeVm := l.foldl (fun a e => a.put c e.1 e.2.1 e.2.2) v

/-- The bytes lie in instance data. -/
def CpeCtx.holds (c : CpeCtx) (off n : Nat) : Bool := decide (off + n ≤ c.size)

/-- A word of CODE. -/
def CpeVm.word (c : CpeCtx) (v : CpeVm) (i : Nat) : Option Nat :=
  if 4 * i + 4 ≤ c.code.2 then some (v.s.imgLe c.p 0 (c.code.1 + 4 * i) 4) else none

/-- A branch by a relative offset in words; outside CODE there is no instruction. -/
def CpeVm.branch (c : CpeCtx) (v : CpeVm) (off : BitVec 64) : CpeVm × Option CpeStop :=
  let t : Int := (v.pc : Int) + Config.cpeFrom.val + off.toInt
  if 0 ≤ t ∧ 4 * t + 4 ≤ c.code.2 then ({ v with pc := t.toNat }, none) else (v, some .stuck)

def CpeVm.next (v : CpeVm) : CpeVm := { v with pc := v.pc + 1 }

/-- The instance has executed: FIRST of its header (R378). -/
def CpeVm.executed (c : CpeCtx) (v : CpeVm) (base : Nat) : CpeVm :=
  let f := v.get c (base + 12) 4
  v.put c (base + 12) 4 (f - f % 2)

/-! ## Device blocks (R385 to R387) -/

/-- The requests of a CPE's command mailbox in this frame (R386). -/
def State.tcmdCount (s : State) (p : Nat) : Nat := ((s.cpeP p).tcmdBack.filter (fun e => e.1 == s.fno)).length

/-- A request is written, with a tag; a command mailbox of another writer refuses it (R33, R383). -/
def State.tcmdAsk (s : State) (p task : Nat) (r : TcmdReq) : State :=
  let n := s.fld (pfld p 0x70 16 12)
  if s.mbxForeign n (8 + p) then (s.xbarViol (8 + p) (Config.mbxAddr n 0)).errQ p 4 task 0
  else s.cpeMod p (fun c => { c with
    tcmdBack := c.tcmdBack ++ [(s.fno, { r with tag := c.tcmdTag })], tcmdTag := (c.tcmdTag + 1) % 2 ^ 16,
    tcmdWait := c.tcmdWait ++ [{ inst := r.inst, tag := c.tcmdTag, fno := s.fno, res := none }] })

/-- The first result that stands for an instance: 2 frames after its request at the earliest, and once E10's mailbox has published it. -/
def State.tcmdResult (s : State) (p inst : Nat) : Option TcmdWait :=
  (s.cpeP p).tcmdWait.find? (fun w => w.inst == inst && decide (2 ≤ (s.fno + 2 ^ 32 - w.fno) % 2 ^ 32) &&
    (match w.res with
     | some r => r.2 != s.fno
     | none => false))

/-- TCMD_SEND: `i` reads input `k`, element `j`. Its outputs are BUSY, DONE and REFUSED. -/
def tcmdBlk (p task inst : Nat) (i : Nat → Nat → Nat) (o : List Nat) (rise : Bool) (s : State) : State × List Nat :=
  if rise then
    if 16 ≤ s.tcmdCount p then (s, [0, 0, 1])
    else
      let l := ltOf (i 5 0)
      let r : TcmdReq := { inst := inst, tag := 0, node := i 1 0, kind := i 2 0, vals := (List.range 4).map (fun j => BitVec.ofNat 32 (i 3 j)),
                           timed := i 4 0 % 2 == 1, sec := l.1, ns := l.2 }
      (s.tcmdAsk p task r, [1, 0, 0])
  else
    match s.tcmdResult p inst with
    | none => (s, o)
    | some w =>
      let ok := (w.res.map (·.1)).getD false
      (s.cpeMod p (fun c => { c with tcmdWait := c.tcmdWait.erase w }),
       [b2n ((s.cpeP p).tcmdWait.any (fun x => x.inst == inst && x != w)), b2n ok, b2n (!ok)])

/-- PRIV_REQ: words 0 to 13 of the request port, GO, and the verdict in the same execution. -/
def privBlk (p : Nat) (i : Nat → Nat → Nat) (o : List Nat) (rise : Bool) (at_ : Nat) (s : State) : State × List Nat :=
  if rise then
    let l := ltOf (i 3 0)
    let idx := fun a => (List.range 4).foldl (fun v j => v + i 6 (a + j) * 256 ^ j) 0
    let w := [i 1 0 % 32 + (i 2 0 % 2) * 2 ^ 8, l.1, l.2, (i 5 0 % 16) * 2 ^ 24 + i 4 0, idx 0, idx 4] ++ (List.range 8).map (i 7)
    let s1 := s.cpeRequest p (w.map (BitVec.ofNat 32)) at_
    let v := s1.rd (0x260C0 + 64 * p + 60)
    (s1, [wbits v 31 1, wbits v 30 1, wbits v 24 4, (s1.rd (0x260C0 + 64 * p + 56)).toNat])
  else (s, o)

/-- NOW, PRIV_STATUS, ERR_INFO and STN_STATE. A channel or a station that does not exist has open outputs. -/
def infoBlk (p code : Nat) (i : Nat → Nat → Nat) (serving : Option Nat) (s : State) : List Nat :=
  if code = 0x30 then [ltTo (s.nowSec % 2 ^ 32, s.nowNs), s.fno, s.fld timeQuality]
  else if code = 0x49 then
    let ch := i 0 0
    if ch < 32 then [s.fld (chStat ch 28 4), s.fld (chStat ch 20 4), b2n (s.fld (chStat ch 16 4) != 0)]
    else (List.range 3).map (Config.blkOpen code ch)
  else if code = 0x50 then
    match serving with
    | none => [0, 0, 0, 0, 0]
    | some e => [1, s.tfld (pt p 4) e 0 16 8, s.tfld (pt p 4) e 1 0 8, s.tfld (pt p 4) e 0 0 16, (s.trd (pt p 4) e 2).toNat]
  else if i 0 0 < 2 ∧ i 1 0 < 32 then [s.stnState (i 0 0) (i 1 0), s.stnFld (i 0 0) (i 1 0) 3 0 16]
  else (List.range 2).map (Config.blkOpen code (i 0 0 * 256 + i 1 0))

/-- What the library block `code` of the instance `inst` does and answers: `i` reads its inputs, `o` are its outputs, `old` its state before,
`el` the time since its previous execution, `rise` whether its EXEC or GO input rises. -/
def CpeVm.blkRun (c : CpeCtx) (v : CpeVm) (code inst : Nat) (i : Nat → Nat → Nat) (o : List Nat) (old : Option BlkSt) (el : Nat)
    (rise : Bool) : State × BlkOut :=
  if code = 0x40 then
    ((tcmdBlk c.p c.task inst i o rise v.s).1, ⟨(tcmdBlk c.p c.task inst i o rise v.s).2, false, i 0 0 % 2⟩)
  else if code = 0x48 then
    ((privBlk c.p i o rise (v.gos.headD c.goAt) v.s).1, ⟨(privBlk c.p i o rise (v.gos.headD c.goAt) v.s).2, false, i 0 0 % 2⟩)
  else if code = 0x30 ∨ 0x49 ≤ code then (v.s, ⟨infoBlk c.p code i c.serving v.s, false, 0⟩)
  else (v.s, pureBlk code ((List.range (blkIns code)).map (fun k => i k 0)) o old el)

/-- One execution of the library block `code` on the instance at `base`. -/
def CpeVm.block (c : CpeCtx) (v : CpeVm) (code base : Nat) : CpeVm :=
  let offs := blkOffs code
  let vars := (blkVars code).getD []
  let n := blkIns code
  let i := fun k j => v.get c (base + (offs.getD k (0, 0)).1 + j * (offs.getD k (0, 0)).2) (offs.getD k (0, 0)).2
  let o := (List.range (vars.length - n)).map (fun k => i (n + k) 0)
  let inst := v.get c base 4
  let old := v.blks.find? (fun b => b.inst == inst && b.typ == code)
  let el := match old with
    | none => 0
    | some b => if c.cold then 0 else (v.s.fno + 2 ^ 32 - b.fno) % 2 ^ 32 * 1000000
  let rise := i 0 0 % 2 == 1 && (old.map (·.m)).getD 0 % 2 == 0
  let r := v.blkRun c code inst i o old el rise
  let b : BlkSt := { inst := inst, typ := code, fno := v.s.fno, run := r.2.run, m := r.2.m }
  let v1 : CpeVm := { v with s := r.1, blks := b :: v.blks.filter (fun x => !(x.inst == inst && x.typ == code)),
                             gos := if code = 0x48 && rise then v.gos.drop 1 else v.gos }
  (v1.puts c (r.2.outs.zipIdx.map (fun e => (base + (offs.getD (n + e.2) (0, 0)).1, (offs.getD (n + e.2) (0, 0)).2, e.1)))).executed c base

/-! ## Instructions -/

/-- One operation. -/
def CpeVm.does (c : CpeCtx) (v : CpeVm) (w : Nat) : CpeOp → CpeVm × Option CpeStop := fun o =>
  let a := v.reg (insA w)
  let b := insSrc v.regs w
  let d := insD w
  let res := fun x => ((v.setReg d x).next, (none : Option CpeStop))
  let addr := fun n : Nat => (BitVec.ofNat 64 v.base + a + b * BitVec.ofNat 64 n).toNat
  match o with
  | .jump => v.branch c b
  | .branchZero => if a = 0 then v.branch c b else (v.next, none)
  | .branchNonzero => if a ≠ 0 then v.branch c b else (v.next, none)
  | .endTask => (v, some .ended)
  | .load k sg =>
    let n := 2 ^ k.val
    if c.holds (addr n) n then res (regOf (kBits k) sg (v.get c (addr n) n)) else (v, some (.fault 2))
  | .store k =>
    let n := 2 ^ k.val
    if c.holds (addr n) n then ((v.put c (addr n) n (v.reg d).toNat).next, none) else (v, some (.fault 2))
  | .readSlot =>
    match c.ins[(a + b).toNat]? with
    | some x => res x
    | none => (v, some (.fault 2))
  | .writeSlot =>
    match c.outs[(a + b).toNat]? with
    | some x => ((v.put c x.off (min x.size 8) (v.reg d).toNat).next, none)
    | none => (v, some (.fault 2))
  | .int f k sg =>
    match intOp f k sg a b with
    | some x => res x
    | none => (v, some (.fault 1))
  | .f32 f => res (fltOp f false a b)
  | .f64 f => res (fltOp f true a b)
  | .cmp r t => res (cmpOp r t a b)
  | .cvt s t => res (cvtOp s t a)
  | .const high =>
    match v.word c (v.pc + 1) with
    | none => (v, some .stuck)
    | some x =>
      let old := (v.reg d).toNat
      let y := if high then old % 2 ^ 32 + x * 2 ^ 32 else old / 2 ^ 32 * 2 ^ 32 + x
      (((v.setReg d (BitVec.ofNat 64 y)).next).next, none)
  | .svc =>
    let code := b.toNat
    if code < 0x30 ∨ blkVars code = none then (v, some .stuck)
    else if c.holds a.toNat (blkSize code) then ((v.block c code a.toNat).next, none)
    else (v, some (.fault 2))
  | .call =>
    let base := a.toNat
    if !c.holds base 16 then (v, some (.fault 2))
    else
      let typ := v.get c (base + 4) 4
      if (blkVars typ).isSome then
        (if c.holds base (blkSize typ) then ((v.block c typ base).next, none) else (v, some (.fault 2)))
      else if 16 ≤ v.calls.length then (v, some (.fault 3))
      else
        let fr := Config.cpeFrame typ
        if c.stack < (v.calls.map (·.2.2)).foldl (· + ·) fr then (v, some (.fault 4))
        else
          let r := v.branch c b
          if r.2.isSome then r else ({ r.1 with base := base, calls := (v.pc + 1, v.base, fr) :: v.calls }, none)
  | .ret =>
    match v.calls with
    | [] => (v, some .stuck)
    | e :: l => ({ v.executed c v.base with pc := e.1, base := e.2.1, calls := l }, none)

/-- One instruction word. -/
def CpeVm.instr (c : CpeCtx) (v : CpeVm) : CpeVm × Option CpeStop :=
  match v.word c v.pc with
  | none => (v, some .stuck)
  | some w =>
    match insDecode w with
    | none => (v, some .stuck)
    | some o => v.does c w o

/-- Up to `n` instruction words: how the execution stops, and how many words are left. -/
def CpeVm.go (c : CpeCtx) : Nat → CpeVm → CpeVm × CpeStop × Nat
  | 0, v => (v, .stuck, 0)
  | n + 1, v =>
    match v.instr c with
    | (v1, none) => CpeVm.go c n v1
    | (v1, some e) => (v1, e, n)

end Sys2Proof.Machine
end

