-- ==== Sys2Proof/Machine/Cpe.lean ====
section
/-! DEFINITION. The control program engines (R370 to R397): task executions, event triggers, the error queue, forces, retained
variables, and the program banks with their migration. -/

namespace Sys2Proof.Machine

/-- The program bank of a CPE as a banked page. -/
def cpeBank (p : Nat) : BankPg := ⟨0x21 + p, 0x2104C + 0x1000 * p, 0x21050 + 0x1000 * p, 0, 1, 2, 3, 9⟩

/-- The program runs: PG_CTRL.EN of its page (R371). -/
def State.cpeEn (s : State) (p : Nat) : Bool := s.bit (pfld p 8 0 1)

/-! ## Variables, inputs and outputs (R377, R380, R391) -/

/-- The variables in force as they lie in instance data, with VALUE (R391): offset and bytes. -/
def State.forceBytes (s : State) (p : Nat) : List (Nat × List Nat) :=
  (s.forces p).filterMap (fun f =>
    match s.varOf p 0 f.1 with
    | some v => if s.forceFits p 0 f.1 f.2.1 f.2.2.1 then some (v.off, f.2.2.2.take v.size) else none
    | none => none)

/-- The VAR_IDs in force. -/
def State.forcedVars (s : State) (p : Nat) : List Nat :=
  ((s.forces p).filter (fun f => s.forceFits p 0 f.1 f.2.1 f.2.2.1)).map (·.1)

/-- The INPUTS bindings of a task with their variables. -/
def State.taskInputs (s : State) (p k : Nat) : List (Nat × VarRec) :=
  ((s.imgInputs p 0).filter (fun e => e.2.2 == k)).filterMap (fun e => (s.varOf p 0 e.2.1).map (fun v => (e.1, v)))

/-- Bytes from an offset on, as entries of a journal. -/
def journal (off : Nat) (bs : List Nat) : List (Nat × Nat) := bs.zipIdx.map (fun e => (off + e.2, e.1))

/-- The journal at the start of an execution (R380 step 1, R391): every force holds its VALUE, and every other input of the task is copied
from the front buffers, the last binding of a variable last. -/
def State.cpeInputs (s : State) (p k : Nat) : List (Nat × Nat) :=
  (s.forceBytes p).flatMap (fun f => journal f.1 f.2)
    ++ ((s.taskInputs p k).reverse).flatMap (fun e =>
      journal e.2.off (itemBytes e.2.typ e.2.size ((s.vref (BitVec.ofNat 32 e.1)).getD Item.init)))

/-- The output mailbox. -/
def State.cpeMbx (s : State) (p : Nat) : Nat := s.fld (pfld p 0x70 0 12)

/-- A CPE writes an output item (R29, R380 step 3): it writes at the end of an execution and holds nothing for later publications. A mailbox
of another writer refuses the write, and the task's error record is queued (R24, R33). -/
def State.cpePut (s : State) (p i : Nat) (it : Item) (task : Nat) : State :=
  let n := s.cpeMbx p
  if s.mbxForeign n (8 + p) then (s.xbarViol (8 + p) (Config.mbxAddr n i)).errQ p 4 task 0
  else s.mbxMod n (fun m => m.put i it false)

/-- Every output binding of the image goes to the output mailbox (R380 step 3): FORCED for a forced variable, STALE where the
writing task has not completed since a fault (R383). -/
def State.cpeOutputs (s : State) (p : Nat) : State :=
  let forced := s.forcedVars p
  (s.imgOutputs p 0).foldl (fun a e =>
    match s.varOf p 0 e.1 with
    | some v =>
      let it := bytesItem v.typ (s.instBytes p v.off v.size)
      let st := if forced.contains v.id then FORCED
        else if (s.cpeP p).stale.contains v.task then STALEQ else it.st
      a.cpePut p e.2 { it with st := st } v.task
    | none => a) s

/-- With EN at 0 every output item keeps its value with quality INIT (R371): a held item of each publication, until the CPE writes it
again. -/
def State.cpeStopped (s : State) (p : Nat) : State :=
  if s.mbxForeign (s.cpeMbx p) (8 + p) then s
  else (s.imgOutputs p 0).foldl (fun a e =>
    match s.varOf p 0 e.1 with
    | some v => a.mbxPut (s.cpeMbx p) e.2 { bytesItem v.typ (s.instBytes p v.off v.size) with st := INITQ }
    | none => a) s

/-! ## Event triggers (R381) -/

/-- The level of a variable trigger. -/
def State.trigVar (s : State) (p id : Nat) : Bool :=
  match s.varOf p 0 id with
  | some v => s.instByte p v.off % 2 == 1
  | none => false

/-- The levels of the triggers of a kind now. -/
def State.trigLevels (s : State) (p kind : Nat) : List (Nat × Bool) :=
  ((s.imgEvents p 0).filter (fun e => e.2.1 == kind)).map (fun e =>
    (e.1, if kind = 0 then s.trigVar p e.2.2
          else match s.vref (BitVec.ofNat 32 e.2.2) with
            | some it => it.w != 0
            | none => false))

/-- The triggers that rose between two lists of levels. -/
def risen (old new_ : List (Nat × Bool)) : List Nat :=
  (new_.filter (fun e => e.2 && !((old.lookup e.1).getD false))).map (·.1)

/-- Notes the variable triggers at the end of an execution. -/
def State.trigEnd (s : State) (p : Nat) : State :=
  let now := s.trigLevels p 0
  s.cpeMod p (fun c => { c with evtVal := now, evtPend := (c.evtPend ++ risen c.evtVal now).eraseDups })

/-- Notes the item triggers at a task-4 entry. -/
def State.trigItems (s : State) (p : Nat) : State :=
  let now := s.trigLevels p 1
  s.cpeMod p (fun c => { c with evtItem := now, evtPend := (c.evtPend ++ risen c.evtItem now).eraseDups })

/-! ## Executions (R376, R380, R383) -/

/-- MAX_US of task `k`. -/
def State.cpeTime (s : State) (p k ns : Nat) : State :=
  let f := pfld p (0xA0 + 8 * k) 16 16
  s.setF f (max (s.fld f) (min 65535 ((ns + 999) / 1000)))

/-- The TASKS entry of a task: STACK in bytes and ENTRY in words of CODE. -/
def State.taskEntry (s : State) (p k : Nat) : Nat × Nat :=
  (((s.sectOffs p 0 1 16).find? (fun o => s.imgByte p 0 o == k)).map (fun o => (1024 * s.imgLe p 0 (o + 2) 2, s.imgLe p 0 (o + 4) 4 / 4))).getD
    (0, 0)

/-- The engine at the start of an execution of task `k` (R380), for the error record `serving`, with what the command observes of it: the
instants of the GO writes. The working registers are as the last execution left them; the instance base is 0. -/
def State.cpeBegin (s : State) (p k : Nat) (serving : Option Nat) (r : CpeRun) : CpeCtx × CpeVm :=
  let e := s.taskEntry p k
  let v : CpeVm := { s := s, mem := s.cpeInputs p k, blks := (s.cpeP p).blks, regs := (s.cpeP p).wreg, pc := e.2, base := 0, calls := [],
                     gos := r.gos }
  let c : CpeCtx := { p := p, task := k, stack := e.1, code := s.sect p 0 2, size := s.imgInst p 0, ins := [],
                      outs := (s.imgOutputs p 0).filterMap (fun o => s.varOf p 0 o.1),
                      forced := (s.forceBytes p).map (fun f => (f.1, f.2.length)), cold := !(s.cpeP p).warm.contains k, serving := serving,
                      goAt := r.goAt }
  ({ c with ins := (s.taskInputs p k).map (fun i => BitVec.ofNat 64 (v.get c i.2.off (min i.2.size 8))) }, v)

/-- The journal of an execution is committed, with the library blocks' state (R380 step 3). -/
def CpeVm.commit (c : CpeCtx) (v : CpeVm) : State :=
  (v.mem.reverse.foldl (fun a e => a.instPut c.p e.1 e.2) v.s).cpeMod c.p (fun x => { x with blks := v.blks })

/-- A task did not complete: its outputs are STALE until it next does (R383). -/
def State.cpeStale (s : State) (p k : Nat) : State :=
  ((s.cpeMod p (fun c => { c with stale := k :: c.stale.filter (· != k) })).cpeOutputs p).trigEnd p

/-- One execution of a task, of up to `n` instruction words (R380, R383), and how many of them are left; none where it did not come to an end:
an execution that is stopped, or that ends in a fault, leaves instance data as it was, and a fault of the error task queues no record. -/
def State.cpeRun (s : State) (p k : Nat) (serving : Option Nat) (r : CpeRun) (n : Nat) : State × Option Nat :=
  let b := s.cpeBegin p k serving r
  let x := CpeVm.go b.1 n b.2
  let regs := x.1.regs
  let keep := fun a : State => a.cpeMod p (fun c => { c with wreg := regs })
  match x.2.1 with
  | .ended =>
    let s1 := (keep (x.1.commit b.1)).cpeMod p (fun c => { c with stale := c.stale.filter (· != k), warm := (k :: c.warm).eraseDups })
    ((s1.cpeOutputs p).trigEnd p, some x.2.2)
  | .fault f =>
    let s1 := ((keep x.1.s).cpeBump p .CPE0_RTF).raiseEv (cpePage p) 7
    ((if k = 4 then s1 else s1.errQ p 3 k f).cpeStale p k, some x.2.2)
  | .stuck => (((keep x.1.s).errQ p 2 k 0).cpeStale p k, none)

/-- What the command observes of a task's execution. -/
def runOf (runs : List CpeRun) (k : Nat) : CpeRun :=
  (runs.find? (fun r => r.task == k)).getD { task := k, ns := 0, gos := [], goAt := 0 }

/-- Executions one after another, each a task with the error record it serves: the tasks that have run, and the words left. -/
def cpeMany (p : Nat) (runs : List CpeRun) : List (Nat × Option Nat) → Nat → State → State × List Nat × Option Nat
  | [], n, s => (s, [], some n)
  | e :: l, n, s =>
    match s.cpeRun p e.1 e.2 (runOf runs e.1) n with
    | (s1, none) => (s1, [e.1], none)
    | (s1, some m) =>
      let r := cpeMany p runs l m s1
      (r.1, e.1 :: r.2.1, r.2.2)

/-- A task is defined in the active image. -/
def State.taskDef (s : State) (p k : Nat) : Bool := (s.cpeP p).tasks.any (fun e => e.1 == k)

/-- The error record that an entry of task 4 serves, and the event tasks that it runs (R381). -/
def State.errServed (s : State) (p : Nat) : Option Nat :=
  if s.bit (pfld p 0x40 1 1) && s.taskDef p 4 then (s.errQueue p).head? else none
def State.evtRun (s : State) (p : Nat) : List Nat :=
  if s.bit (pfld p 0x40 0 1) then (List.range 8).filter (fun e => (s.cpeP p).evtPend.contains e && s.taskDef p (8 + e)) else []

/-- CPE_TASK with task 4 (R381), of up to `n` instruction words. -/
def State.cpeTask4 (s0 : State) (p : Nat) (runs : List CpeRun) (n : Nat) : State × Bool :=
  let s := s0.trigItems p
  let err := (s.errServed p).toList
  let a := cpeMany p runs (err.map (fun i => (4, some i))) n s
  let s1 := err.foldl (fun t i => t.tset (pt p 4) i 0 30 1 1) a.1
  match a.2.2 with
  | none => (s1, false)
  | some m =>
    let evts := s1.evtRun p
    let b := cpeMany p runs (evts.map (fun e => (8 + e, none))) m s1
    let s2 := b.1.cpeMod p (fun c => { c with evtPend := c.evtPend.filter (fun e => !b.2.1.contains (8 + e)) })
    let ran := a.2.1 ++ b.2.1
    if b.2.2.isNone then (s2, false)
    else if ran.isEmpty then (s2, true)
    else ((s2.cpeBump p (.CPE0_TASK_RUN 4)).cpeTime p 4 ((ran.map (fun k => (runOf runs k).ns)).foldl (· + ·) 0), true)

/-- A CPE_TASK entry with task `k`, of up to `n` instruction words: what has happened, and whether its executions came to their ends. -/
def State.cpeEntry (s : State) (p k : Nat) (runs : List CpeRun) (n : Nat) : State × Bool :=
  if k = 4 then s.cpeTask4 p runs n
  else if !s.taskDef p k || decide (4 < k) then (s, true)
  else
    let a := cpeMany p runs [(k, none)] n s
    if a.2.2.isNone then (a.1, false)
    else
      let s1 := a.1.cpeTime p k (runOf runs k).ns
      (if (a.1.cpeP p).stale.contains k then s1 else s1.cpeBump p (.CPE0_TASK_RUN k), true)

/-- The instruction words that the engine executes in the charged worst case of a task (R379). -/
def State.cpeFuel (s : State) (p k : Nat) : Nat := Config.cpeWords ((taskBudget (s.cpeP p).tasks k).getD 0)

/-- An entry of a stopped CPE, or in the switch frame, acts as an empty one (R371, R394). -/
def State.cpeEmpty (s : State) (p : Nat) : Bool := !s.cpeEn p || s.switchFrame (8 + p)

/-- CPE_TASK (R371, R379, R380, R394): the entry has come to its end within its charged worst case. One that has not is stopped at its
deadline, by ENTRY_DEADLINE. -/
def cpeTask (unit arg : Nat) (runs : List CpeRun) (s : State) : State :=
  let p := unit - 8
  let k := arg % 8
  let run := fun t : State => t.cpeEntry p k runs (s.cpeFuel p k)
  if unit ≠ 8 ∧ unit ≠ 9 then s
  else if s.issues 0x28 unit (·.has arg) && !s.unitOff unit && !s.cpeEmpty p && !(run (s.passEntry.ackBy unit)).2 then s
  else s.entry 0x28 unit (·.has arg) (fun t => if t.cpeEmpty p then t else ((run t).1).serveXfer (cpePage p) 512)

def execCpeTask (unit arg : Nat) (runs : List CpeRun) (s : State) : Out := .next (cpeTask unit arg runs s)

/-- A CPE_TASK entry stopped at its deadline after `n` instruction words (R95, R383): the execution that runs has no effect on instance data,
an OVERRUN record is queued, and its outputs are STALE. -/
def State.cpeOverrun (s : State) (p k n : Nat) : State := if s.cpeEmpty p then s else (s.cpeEntry p k [] n).1

/-! ## Remote I/O dropout (R389) -/

/-- The items of a station: its status and points in the image mailbox of its port. -/
def State.stnItem (s : State) (port stn : Nat) (ref : Nat) : Bool :=
  let first := s.stnFld port stn 1 0 20
  ref / 2 ^ 20 == s.canImg port && decide (first ≤ ref % 2 ^ 20 ∧ ref % 2 ^ 20 ≤ first + s.stnFld port stn 0 12 4)

/-- STN_DROP (R274, R389): each CPE whose active image binds an item of the station queues one record. -/
def execStnDrop (port stn : Nat) (s : State) : Out :=
  .next <|
    if 2 ≤ port then s
    else
      match s.stnDrop port stn with
      | (s1, false) => s1
      | (s1, true) =>
        [0, 1].foldl (fun a p =>
          if (s1.imgInputs p 0).any (fun e => s1.stnItem port stn e.1) then a.errQ p 1 (port * 256 + stn) 0 else a) s1

/-! ## Forces (R390, R391) -/

/-- CLR_FORCES: ENABLE of every record. -/
def clrForces (p : Nat) (s : State) : State := (List.range 256).foldl (fun a i => a.tset (pt p 2) i 0 31 1 0) s
def execClrForces (p : Nat) (s : State) : Out := .next (if p < 2 then clrForces p s else s)

/-- A force record takes effect. -/
def forceWrite (p i : Nat) (ws : List Word) (s : State) : State :=
  s.trecSet (pt p 2) i 0 ((ws.getD 0 0 &&& 0x800000FF#32) :: (List.range 4).map (fun j => ws.getD (j + 1) 0))

/-! ## Retained variables (R392) -/

/-- The RETAIN variables of the active image with their bytes. -/
def State.retained (s : State) (p : Nat) : List (Nat × List Nat) :=
  ((s.varList p 0).filter (·.retain)).map (fun v => (v.id, s.instBytes p v.off v.size))

def State.cpeNvMod (s : State) (p : Nat) (f : RetNv → RetNv) : State := { s with cpeNv := modAt s.cpeNv p f }

/-- The save of one CPE to the slot whose turn it is. -/
def State.retSave (s : State) (p : Nat) : State :=
  let n := (s.fld (wordAt (pfld p 0x8C 0 32).addr) + 1) % 2 ^ 32
  let v : RetSave := { seq := n, image := s.imgId p 0, size := s.imgRetain p 0, vars := s.retained p }
  let s1 := s.cpeNvMod p (fun m => if m.next = 0 then { m with a := some v, next := 1 } else { m with b := some v, next := 0 })
  (s1.wr (pfld p 0x8C 0 32).addr (BitVec.ofNat 32 n)).cpeMod p (fun c => { c with retAt := some s.fno })

/-- RETAIN_SAVE (R392): at the tick of frame 500, once. -/
def execRetainSave (s : State) : Out :=
  .next <| s.andShown <|
    if s.frame != 500 || s.inExt then s
    else [0, 1].foldl (fun a p => if (a.cpeP p).retAt = some a.fno ∨ a.imgLen p 0 = 0 then a else a.retSave p) s

/-! ## Starting an image -/

/-- The bytes of the INIT section. -/
def State.initData (s : State) (p c : Nat) : List Nat :=
  let e := s.sect p c 9
  (List.range e.2).map (fun i => s.imgByte p c (e.1 + i))

/-- TASK_DEF, the task times and the identity of the active image. -/
def State.cpeImageRegs (s : State) (p : Nat) : State :=
  let ts := (s.imgTasks p 0).map (fun e => (e.1, e.2.2))
  let def_ := (ts.map (fun e => if e.1 < 5 then 2 ^ e.1 else if 8 ≤ e.1 ∧ e.1 < 16 then 2 ^ e.1 else 0)).eraseDups.foldl (· + ·) 0
  let s1 := s.cpeMod p (fun c => { c with tasks := ts })
  let s2 := ((s1.wr (pfld p 0x54 0 32).addr (BitVec.ofNat 32 (s.imgId p 0))).wr (pfld p 0x58 0 32).addr
    (BitVec.ofNat 32 (s.imgVer p 0))).wr (pfld p 0x98 0 32).addr (BitVec.ofNat 32 def_)
  (List.range 5).foldl (fun a k =>
    a.wr (pfld p (0xA0 + 8 * k) 0 32).addr (BitVec.ofNat 32 (min 65535 (((taskBudget ts k).getD 0 + 999) / 1000)))) s2

/-- Writes the instance data of a started image: no instance has executed (FIRST), and every timer is idle with ET 0 (R378, R395). -/
def State.instStart (s : State) (p : Nat) (data : List Nat) : State :=
  (s.imgInsts p 0).foldl (fun a n =>
    let b := a.instPut p (n.2.2.1 + 12) (a.instByte p (n.2.2.1 + 12) / 2 * 2 + 1)
    if 1 ≤ n.2.1 ∧ n.2.1 ≤ 3 then b.instPuts p (n.2.2.1 + etOff) (List.replicate 8 0) else b)
    ((s.tclear (pt p 1) (fun _ => true)).instPuts p 0 data)

/-- Starts an image, with its triggers at their levels and no library block executed. -/
def State.cpeLoad (s : State) (p : Nat) (data : List Nat) : State :=
  let s1 := s.instStart p data
  s1.cpeMod p (fun c => { c with evtVal := s1.trigLevels p 0, evtItem := s1.trigLevels p 1, evtPend := [], stale := [], blks := [] })

/-- The soft reset of a CPE page beside R55 (R396): the image restarts from INIT, keeping RETAIN variables; forces and errors are
cleared, and a pending switch is withdrawn. -/
def cpeSoftReset (p : Nat) (s : State) : State :=
  let keep := s.retained p
  let s1 := ((s.cpeLoad p (s.initData p 0)).tclear (pt p 2) (fun _ => true)).tclear (pt p 4) (fun _ => true)
  let s2 := keep.foldl (fun a e =>
    match s.varOf p 0 e.1 with
    | some v => a.instPuts p v.off e.2
    | none => a) s1
  let s3 := (s2.cpeImageRegs p).cpeMod p (fun c => { c with errNext := 0, errFull := false, switchAt := none, switchDue := false, tcmdWait := [] })
  s3.bankSoftReset (cpeBank p)

/-- Restoring at start-up (R392): the valid save of the highest sequence number, if it fits the active image. -/
def State.retRestore (s : State) (p : Nat) : State :=
  let m := s.cpeNv.getD p { a := none, b := none, next := 0 }
  let best := match m.a, m.b with
    | some a, some b => if a.seq < b.seq then some (b, 0) else some (a, 1)
    | some a, none => some (a, 1)
    | none, some b => some (b, 0)
    | none, none => none
  match best with
  | some (v, nxt) =>
    let s0 := (s.wr (pfld p 0x8C 0 32).addr (BitVec.ofNat 32 v.seq)).cpeNvMod p (fun m => { m with next := nxt })
    if v.image = s.imgId p 0 ∧ v.size = s.imgRetain p 0 then
      v.vars.foldl (fun a e =>
        match s.varOf p 0 e.1 with
        | some x => a.instPuts p x.off e.2
        | none => a) s0
    else (s0.raiseEv (cpePage p) 8).errQ p 5 0 0
  | none => (s.raiseEv (cpePage p) 8).errQ p 5 0 0

/-- The active image starts at start-up. -/
def State.cpeStart (s : State) (p : Nat) : State :=
  if s.imgLen p 0 = 0 then s.cpeMod p (fun c => { c with tasks := [] })
  else (((s.cpeLoad p (s.initData p 0)).cpeImageRegs p).retRestore p).cpeMod p (fun c => c)

/-! ## Verification (R393) -/

/-- Code 1: where the header, the section table or a length departs from R372 and R373: section TYPE and offset. -/
def State.imgFormat (s : State) (p c : Nat) : Option (Nat × Nat) :=
  let l := s.sectList p c
  let bad := fun (b : Bool) (t o : Nat) => if b then some (t, o) else none
  let mult := fun (t n : Nat) => bad ((s.sect p c t).2 % n != 0) t 0
  let ends := s.imgLen p c - 100
  let taskNo := fun (k : Nat) => decide (k ≤ 4) || decide (8 ≤ k ∧ k ≤ 15)
  [bad (s.imgLe p c 0 4 != 0x43424E44) 0 0, bad (s.imgLe p c 4 2 != 1) 0 4,
   bad (s.imgByte p c 6 != 0 && s.imgByte p c 6 != p + 1) 0 6, bad (s.imgByte p c 7 != 0) 0 7,
   bad (decide (s.imgSects p c = 0 ∨ 16 < s.imgSects p c)) 0 20, bad (s.imgLe p c 22 2 != 0) 0 22,
   bad (s.imgLe p c 40 24 != 0) 0 40,
   bad (l.any (fun e => e.1 == 0 || decide (9 < e.1))) 0 64, bad (decide (¬ (l.map (·.1)).Nodup)) 0 64,
   bad ((List.range l.length).any (fun i => s.imgLe p c (66 + 16 * i) 2 != 0)) 0 66,
   bad (l.any (fun e => decide (e.2.1 < 64 + 16 * l.length ∨ ends < e.2.1 + e.2.2))) 0 68,
   bad ([1, 2, 4, 5, 9].any (fun t => !l.any (fun e => e.1 == t))) 0 64,
   mult 1 16, mult 2 4, mult 4 16, mult 5 16, mult 6 12, mult 7 8, mult 8 8,
   bad ((s.sect p c 9).2 != s.imgInst p c) 9 0, bad ((s.sect p c 5).2 != 16 * s.imgVars p c) 5 0,
   bad ((s.sect p c 4).2 != 16 * s.imgNInst p c) 4 0,
   bad ((s.imgTasks p c).any (fun e => !taskNo e.1)) 1 0].findSome? id

/-- Code 5: a limit of R372 exceeded. -/
def State.imgTooBig (s : State) (p c : Nat) : Bool :=
  decide (4194304 < s.imgLen p c ∨ 2097152 < s.imgInst p c ∨ 65536 < s.imgRetain p c ∨ 65536 < s.imgVars p c)

/-- Code 6: section TYPE and offset of the first cross reference that does not hold. -/
def State.imgXref (s : State) (p c : Nat) : Option (Nat × Nat) :=
  let inBad := (s.imgInputs p c).zipIdx.find? (fun e =>
    match s.mbxOf (e.1.1 / 2 ^ 20) with
    | some m => m.readers / 2 ^ (8 + p) % 2 == 0 || decide (m.words ≤ e.1.1 % 2 ^ 20)
    | none => true)
  let outBad := (s.imgOutputs p c).zipIdx.find? (fun e => decide (s.mbxWords (s.cpeMbx p) ≤ e.1.2))
  let evBad := (s.imgEvents p c).zipIdx.find? (fun e => e.1.2.1 == 0 &&
    (match s.varOf p c e.1.2.2 with
     | some v => v.typ != 1
     | none => true))
  let dupI := decide (¬ ((s.imgInsts p c).map (·.1)).Nodup)
  let dupV := decide (¬ ((s.varList p c).map (·.id)).Nodup)
  match inBad, outBad, evBad with
  | some e, _, _ => some (6, 12 * e.2)
  | none, some e, _ => some (7, 8 * e.2)
  | none, none, some e => some (8, 8 * e.2)
  | none, none, none => if dupI then some (4, 0) else if dupV then some (5, 0) else none

/-- Code 2: the section whose CRC-32C is wrong, or the check word, at its offset in the image; offsets hold 24 bits. -/
def State.imgCrc (s : State) (p c : Nat) : Option (Nat × Nat) :=
  let n := s.imgLen p c - 100
  match (s.sectList p c).zipIdx.find? (fun e =>
      crc32c ((List.range e.1.2.2).map (fun i => s.imgByte p c (e.1.2.1 + i))) != s.imgLe p c (76 + 16 * e.2) 4) with
  | some e => some (e.1.1, 0)
  | none => if crc32c ((List.range n).map (s.imgByte p c)) != s.imgLe p c n 4 then some (0, n) else none

/-- Code 4: the byte offset in CODE, from word `i` on, of the first refused word: a refused class, OP or reserved bit, or a branch or call
outside CODE. The word after a constant's is its value. -/
def State.codeFrom (s : State) (p c : Nat) (e : Nat × Nat) : Nat → Nat → Option Nat
  | 0, _ => none
  | n + 1, i =>
    if e.2 < 4 * i + 4 then none
    else
      let w := s.imgLe p c (e.1 + 4 * i) 4
      let off := signed 11 (insB w)
      let t : Int := (i : Int) + Config.cpeFrom.val + off
      match insDecode w with
      | none => some (4 * i)
      | some (.const _) => if e.2 < 4 * i + 8 then some (4 * i) else s.codeFrom p c e n (i + 2)
      | some o =>
        if (o.cls == 0 && o != .endTask || o == .call) && insImm w && !decide (0 ≤ t ∧ 4 * t + 4 ≤ e.2) then some (4 * i)
        else s.codeFrom p c e n (i + 1)
def State.imgCode (s : State) (p c : Nat) : Option Nat :=
  let e := s.sect p c 2
  s.codeFrom p c e (e.2 / 4) 0

/-- The bytes that the input and output images of a program take: none where nothing is bound (DEDUCED). -/
def State.imgImages (s : State) (p c : Nat) : Nat :=
  if (s.imgInputs p c).isEmpty ∧ (s.imgOutputs p c).isEmpty then 0 else Config.cpeImages (s.imgInputs p c).length (s.imgOutputs p c).length

/-- Code 5: instance data, stacks, images and the force table fit the 3 MiB partition. -/
def State.imgFits (s : State) (p c : Nat) : Bool :=
  decide (s.imgInst p c + ((s.imgTasks p c).map (fun e => 1024 * e.2.1)).foldl (· + ·) 0 + s.imgImages p c + 256 * 24 ≤ 3 * 2 ^ 20)

/-- The variables that a migration from copy `c0` to copy `c1` keeps, as (new record, old record): the same INST_ID, VAR_ID and type. -/
def State.keptVars (s : State) (p c0 c1 : Nat) : List (VarRec × VarRec) :=
  (s.varList p c1).filterMap (fun v =>
    ((s.varList p c0).find? (fun w => w.id == v.id && w.inst == v.inst && w.typ == v.typ && w.size == v.size)).map (fun w => (v, w)))

/-- The worst case of the migration to the inactive bank (R393, R395): of no variable and no instance data it takes no time (DEDUCED). -/
def State.migrateWc (s : State) (p : Nat) : Nat :=
  let k := (s.keptVars p 0 1).length
  if (s.varList p 1).isEmpty ∧ s.imgInst p 1 = 0 then 0 else Config.migrateWc k ((s.varList p 1).length - k) (s.imgInst p 1)

/-- The first failure of a program bank: code, section TYPE, byte offset. `sigOk` says whether the signature verifies under the
image verification key that was ACTIVE at the start; with none no signature verifies (R495, R500). -/
def State.cpeVerify (s : State) (p : Nat) (sigOk : Bool) : Option (Nat × Nat × Nat) :=
  let tasks := modAt s.activeTasks p (fun _ => (s.imgTasks p 1).map (fun e => (e.1, e.2.2)))
  match s.imgFormat p 1 with
  | some e => some (1, e)
  | none =>
  match s.imgCrc p 1 with
  | some e => some (2, e)
  | none =>
  if !sigOk || !s.keyAt (1 + p) then some (3, 0, 0)
  else
  match s.imgCode p 1 with
  | some off => some (4, 2, off)
  | none =>
  if s.imgTooBig p 1 || !s.imgFits p 1 then some (5, 0, 0)
  else
  match s.imgXref p 1 with
  | some e => some (6, e)
  | none =>
  if (s.seqVerify tasks 0).isSome then some (7, 1, 0)
  else if 900000 < s.migrateWc p then some (8, 0, 0)
  else none

/-- CPEx_CMD.VERIFY, SWITCH and CANCEL (R393, R394, R396). SWITCH takes AT_EN and AT_FRAME as they stand. A VERIFY while a switch is
pending clears VERIFIED and withdraws the switch. -/
def cpeVerifyCmd (p : Nat) (s : State) : State × Status :=
  let b := cpeBank p
  if s.bit b.busy then (s, .busy) else (((s.bankUnverify b).setB b.busy true).keyTaken (1 + p), .ok)

def cpeSwitchCmd (p : Nat) (s : State) : State × Status :=
  let r := s.bankSwitch (cpeBank p)
  if r.2 = .ok then
    (r.1.cpeMod p (fun c => { c with
      switchAt := if s.bit (pfld p 0x48 15 1) then some (s.fld (pfld p 0x48 16 10)) else none, switchDue := false }), .ok)
  else r

def cpeCancelCmd (p : Nat) (s : State) : State := s.bankCancel (cpeBank p)

def execCpeVerify (p : Nat) (s : State) : Out := .next (if p < 2 then (cpeVerifyCmd p s).1 else s)
def execCpeSwitch (p : Nat) (s : State) : Out := .next (if p < 2 then (cpeSwitchCmd p s).1 else s)
def execCpeCancel (p : Nat) (s : State) : Out := .next (if p < 2 then cpeCancelCmd p s else s)

/-- CPE_VERIFY_END (R393): the verdict on the inactive bank. -/
def execCpeVerifyEnd (p : Nat) (sigOk : Bool) (s : State) : Out :=
  .next <|
    if decide (2 ≤ p) || !s.bit (cpeBank p).busy then s
    else
      match s.cpeVerify p sigOk with
      | some (c, t, off) => s.bankFail (cpeBank p) (BitVec.ofNat 32 (c * 2 ^ 28 + t * 2 ^ 24 + off % 2 ^ 24))
      | none =>
        let s1 := ((s.wr (pfld p 0x5C 0 32).addr (BitVec.ofNat 32 (s.imgId p 1))).wr (pfld p 0x60 0 32).addr
          (BitVec.ofNat 32 (s.imgVer p 1))).wr (pfld p 0x64 0 32).addr (BitVec.ofNat 32 (s.migrateWc p))
        s1.bankPass (cpeBank p)

/-! ## The switch (R394, R395) -/

/-- The instances of the image left (copy 1, after the exchange) that the new image has with the same INST_ID and BLOCK_TYPE, as
(INST_ID, BLOCK_TYPE, new offset, old offset). -/
def State.keptInsts (s : State) (p : Nat) : List (Nat × Nat × Nat × Nat) :=
  (s.imgInsts p 0).filterMap (fun n =>
    ((s.imgInsts p 1).find? (fun o => o.1 == n.1 && o.2.1 == n.2.1)).map (fun o => (n.1, n.2.1, n.2.2.1, o.2.2.1)))

/-- Instance data of the new image after migration (R395): INIT values; variables with the same INST_ID, VAR_ID and type keep theirs. An
instance with the same INST_ID and BLOCK_TYPE keeps FIRST, what the engine holds of a library block (running state, M, FRAME_NO of the
previous execution) and, for a timer, ET. A result that TCMD_SEND waits for stays with such an instance. Called after the exchange: copy 1
is the image left. -/
def State.migrate (s : State) (p : Nat) : State :=
  let kept := s.keptVars p 1 0
  let insts := s.keptInsts p
  let blks := (s.cpeP p).blks.filter (fun b => insts.any (fun e => e.1 == b.inst && e.2.1 == b.typ))
  let data := (insts.flatMap (fun e =>
      (e.2.2.1 + 12, s.instBytes p (e.2.2.2 + 12) 4)
        :: (if 1 ≤ e.2.1 ∧ e.2.1 ≤ 3 then [(e.2.2.1 + etOff, s.instBytes p (e.2.2.2 + etOff) 8)] else [])))
    ++ kept.map (fun e => (e.1.off, s.instBytes p e.2.off e.2.size))
  let n := (s.varList p 0).length
  let s1 := s.cpeLoad p (s.initData p 0)
  let s2 := data.foldl (fun a e => a.instPuts p e.1 e.2) s1
  let s3 := s2.wr (pfld p 0x68 0 32).addr (BitVec.ofNat 32 (min 65535 kept.length * 2 ^ 16 + min 65535 (n - kept.length)))
  s3.cpeMod p (fun c => { c with evtVal := s3.trigLevels p 0, blks := blks,
                                 tcmdWait := c.tcmdWait.filter (fun w => insts.any (fun e => e.1 == w.inst && e.2.1 == 0x40)) })

/-- The forces of the image left: a force whose variable the new image does not have with its type is removed. -/
def State.migrateForces (s : State) (p : Nat) : State :=
  ((List.range 256).filter (fun i => s.tfld (pt p 2) i 0 31 1 == 1)).foldl (fun a i =>
    let fits := match s.varOf p 0 (s.trd (pt p 2) i 1).toNat with
      | some v => v.typ == s.tfld (pt p 2) i 0 0 8
      | none => false
    if fits then a
    else (((a.tset (pt p 2) i 0 31 1 0).tset (pt p 2) i 5 31 1 1).cpeBump p .CPE0_ORPH).raiseEv (cpePage p) 6) s

/-- A pending switch is due at this tick (R394, R50, R51): at once without AT_EN; at the frame AT_FRAME; at a hyperframe's start
when it fell into frames that were skipped. Never in an extension frame. -/
def State.cpeSwitchNow (s : State) (p : Nat) : Bool :=
  !s.inExt && (match (s.cpeP p).switchAt with
    | none => true
    | some f => s.frame == f || ((s.cpeP p).switchDue && s.seq.hfStart))

/-- CPE_BANK_SWITCH (R394). -/
def execCpeBankSwitch (p : Nat) (s : State) : Out :=
  .next <| s.andShown <|
    if decide (2 ≤ p) || !s.bit (cpeBank p).pend || !s.cpeSwitchNow p then s
    else
      let s1 := s.bankExchange (cpeBank p) (fun t => t == pt p 0)
      let s2 := ((s1.migrate p).migrateForces p).cpeImageRegs p
      let s3 := s2.cpeMod p (fun c => { c with switchAt := none, switchDue := false, switchFno := some s.fno })
      let s4 := ((s3.wr (pfld p 0x6C 0 32).addr (BitVec.ofNat 32 s.fno)).wr (pfld p 0x5C 0 32).addr
        (BitVec.ofNat 32 (s.imgId p 0))).wr (pfld p 0x60 0 32).addr (BitVec.ofNat 32 (s.imgVer p 0))
      (((s4.cpeBump p .CPE0_SWITCH).raiseEv (cpePage p) 2).seqUnverify).seqInfo

/-- SEQ_BANK_SWITCH (R93); the nodes take their slots from the new active bank (R217, R221). A CPE bank switch that takes effect at the same
tick wins: the switch is withdrawn (R94). -/
def execSeqBankSwitch (s : State) : Out :=
  .next <| s.andShown <|
    if [0, 1].any (fun p => s.bit (cpeBank p).pend && s.cpeSwitchNow p) then s.seqUnverify
    else
      let s1 := s.seqBankSwitch
      if s.bit seqSwitchPend && !s1.bit seqSwitchPend then s1.allSlots else s1

/-- A TABLE_WRITE of the program bank at its tick. -/
def cpeBankWrite (p idx : Nat) (ws : List Word) (s : State) : State × Status :=
  match tableInfo (pt p 0) with
  | none => (s, .badTable)
  | some t => if idx < 2 ^ 23 then (s, .refused) else ((s.writeRecord t idx ws).bankWritten (cpeBank p), .ok)

/-! ## The tick -/

/-- N_FORCE, ERRQ_PEND and RUNNING of a CPE; its command mailbox. `skips`: the frames that did not run, as (first, count). -/
def State.cpeTick (s : State) (skips : List (Nat × Nat)) (p : Nat) : State :=
  let s1 := s.setF (pfld p 0x4C 16 9) (s.forces p).length
  let s2 := s1.setF (pfld p 0x4C 6 1) (b2n (!(s.errQueue p).isEmpty))
  let s3 := s2.setF (pfld p 0x4C 5 1) (b2n (s.cpeEn p && s.imgLen p 0 != 0))
  let due := match (s.cpeP p).switchAt with
    | some f => s.bit (cpeBank p).pend && skips.any (fun e => decide (e.1 ≤ f ∧ f < e.1 + e.2))
    | none => false
  let swapped := ((s.mbxOf (s.fld (pfld p 0x70 16 12))).map (·.swapped)).getD false
  s3.cpeMod p (fun c => { c with
    switchDue := c.switchDue || due,
    warm := if s.cpeEn p then c.warm else [],
    tcmdFront := if swapped then c.tcmdBack.map (·.2) else c.tcmdFront,
    tcmdBack := if swapped then [] else c.tcmdBack })

/-- Both CPEs at a tick, and DEV_STAT.FORCE_ACTIVE (R391). -/
def State.cpesTick (s : State) (skips : List (Nat × Nat)) : State :=
  let s1 := (s.cpeTick skips 0).cpeTick skips 1
  s1.setF ⟨0x0054, 8, 1⟩ (b2n (s1.fld (pfld 0 0x4C 16 9) + s1.fld (pfld 1 0x4C 16 9) != 0))

end Sys2Proof.Machine
end

