-- ==== Sys2Proof/Machine/Keys.lean ====
section
/-! DEFINITION. The key store and the tamper monitor (R483 to R507). -/

namespace Sys2Proof.Machine

/-- `s` with the key store changed. -/
def State.keysMod (s : State) (f : KeySt → KeySt) : State := { s with keys := f s.keys }

/-! ## Slots (R485, R489, R506) -/

/-- Fields of a slot record. -/
def State.slotNext (s : State) (i : Nat) : Nat := s.tfld 0x0900 i 0 27 2
def State.slotKind (s : State) (i : Nat) : Nat := s.tfld 0x0900 i 0 23 4
def State.slotParent (s : State) (i : Nat) : Nat := s.tfld 0x0900 i 0 16 7
def State.slotGen (s : State) (i : Nat) : Nat := (s.trd 0x0900 i 1).toNat
def State.setSlotState (s : State) (i st : Nat) : State := s.tset 0x0900 i 0 29 3 st
def State.setSlotNext (s : State) (i n : Nat) : State := s.tset 0x0900 i 0 27 2 n

/-- The staged key of a slot. -/
def State.stagedKey (s : State) (i : Nat) : Option KeyNew := s.keys.staged.lookup i

/-- `s` without, or with another, staged key of a slot. -/
def State.unstage (s : State) (i : Nat) : State :=
  s.keysMod (fun k => { k with staged := k.staged.filter (fun e => e.1 != i) })
def State.stage (s : State) (i : Nat) (n : KeyNew) : State :=
  s.keysMod (fun k => { k with staged := (i, n) :: k.staged.filter (fun e => e.1 != i) })

/-- The metadata of a slot's current key. -/
def State.slotPut (s : State) (i st : Nat) (n : KeyNew) : State :=
  let s1 := s.twr 0x0900 i 0 (BitVec.ofNat 32 (st * 2 ^ 29 + n.kind * 2 ^ 23 + n.parent * 2 ^ 16))
  ((s1.twr 0x0900 i 1 (BitVec.ofNat 32 n.gen)).twr 0x0900 i 2 (if n.kind < 6 then 0 else n.kcv)).trecSet 0x0900 i 4 n.label

/-- A slot becomes EMPTY: no key, no successor; T_ACT stays. -/
def State.slotEmpty (s : State) (i : Nat) : State :=
  (((s.unstage i).slotPut i 0 ⟨0, 0x7F, 0, [0, 0], 0, 0, []⟩)).twr 0x0900 i 3 0

/-- KEY_N, KEY_ACTIVE_k and KEY_REV_k (R506). -/
def State.keyRegs (s : State) : State :=
  let count := fun (p : Nat → Bool) => ((List.range 128).filter p).length
  let revd := fun i => s.slotState i == 4 || s.slotState i == 5
  let s1 := s.wr 0x9054 (BitVec.ofNat 32 (count (fun i => s.slotState i == 3) * 2 ^ 24
    + count (fun i => s.slotNext i != 0) * 2 ^ 16 + count revd * 2 ^ 8 + count (fun i => s.slotState i == 0)))
  (List.range 4).foldl (fun a k =>
    (a.wr (0x9080 + 4 * k) (BitVec.ofNat 32 (maskOf 32 (fun j => s.slotState (32 * k + j) == 3)))).wr (0x9090 + 4 * k)
      (BitVec.ofNat 32 (maskOf 32 (fun j => revd (32 * k + j))))) s1

/-! ## Outcomes (R491) -/

/-- Fields of KEY_STAT. -/
def keyZeroised : Fld := bitAt 0x904C 31
def keyBusy : Fld := bitAt 0x904C 30
def keyPend : Fld := bitAt 0x904C 29

/-- A command ends with a code: KEY_STAT, the counters, OP_DONE or OP_FAIL. `op`: 1 STAGE, 2 VERIFY, 3 PROMOTE, 4 CANCEL, 5 REVOKE,
6 ERASE. -/
def State.keyEnd (s : State) (op slot code : Nat) : State :=
  let s1 := ((s.setF ⟨0x904C, 20, 4⟩ code).setF ⟨0x904C, 16, 4⟩ op).setF ⟨0x904C, 0, 7⟩ slot
  let s2 := (s1.keyRegs).bump .KEY_OP
  if code = 0 then s2.raiseEv 9 0 else (s2.bump .KEY_FAIL).raiseEv 9 1

/-- The slot a command names. -/
def State.keyArg (s : State) : Nat := s.fld ⟨0x9048, 0, 7⟩

/-- A KEY_CMD cannot act: BUSY while STAGE or VERIFY runs, REFUSED once the key store is zeroised (R490, R504). -/
def State.keyStop (s : State) : Option Status :=
  if s.bit keyZeroised then some .refused else if s.bit keyBusy then some .busy else none

/-- A command of KEY_CMD: `ok`, when it is allowed; `f`, its effect. -/
def State.keyCmd (s : State) (ok : Bool) (f : State → State) : State × Status :=
  match s.keyStop with
  | some st => (s, st)
  | none => if ok then (f s, .ok) else (s, .refused)

/-! ## Import (R492 to R494) -/

/-- The words of the import buffer. -/
def State.importBuf (s : State) : List Word := s.trec 0x0901 0 72

/-- The import buffer is zeroed. -/
def State.zeroBuf (s : State) : State := s.tclear 0x0901 (fun _ => true)

/-- Byte `b` of a buffer, and `n` bytes from `b`, little-endian. -/
def bufByte (ws : List Word) (b : Nat) : Nat := wbits (ws.getD (b / 4) 0) (8 * (b % 4)) 8
def bufNat (ws : List Word) (b : Nat) : Nat → Nat
  | 0 => 0
  | n + 1 => bufByte ws b + 256 * bufNat ws (b + 1) n

/-- The key that a buffer describes; `kcv`, its own check value. -/
def keyOf (ws : List Word) (kcv : Word) : KeyNew :=
  let kind := bufByte ws 1
  { kind := kind, parent := if kind = 9 then bufByte ws 3 % 128 else 0x7F, gen := bufNat ws 4 4,
    label := [ws.getD 2 0, ws.getD 3 0], want := ws.getD 4 0, kcv := kcv,
    point := (List.range 24).map (fun j => BitVec.ofNat 32 (bufNat ws (25 + 4 * j) 4)) }

/-- A kind is allowed in a slot (R485, of the kinds that are imported). -/
def kindAllowed (kind slot : Nat) : Bool :=
  (kind == 3 && slot == 2) || (kind == 4 && slot == 3) || (decide (6 ≤ kind ∧ kind ≤ 9) && decide (5 ≤ slot))

/-- The layout rules of R492. -/
def bufOk (ws : List Word) (slot : Nat) : Bool :=
  let kind := bufByte ws 1
  bufByte ws 0 == 1 && bufByte ws 2 == slot && bufNat ws 20 4 == 0 && bufNat ws 121 3 == 0 && bufNat ws 280 8 == 0
    && (if kind = 9 then decide (bufByte ws 3 < 128) else bufByte ws 3 == 0xFF && bufNat ws 8 8 == 0)
    && (kind == 9 || bufByte ws 24 == 4)

/-- Kind 9 slots on the way up from slot `i`, itself included, were slot `x` of kind 9 with parent `p`; 5 when deeper than 4. -/
def State.keyDepth (s : State) (x p : Nat) : Nat → Nat → Nat
  | 0, _ => 5
  | n + 1, i =>
    if i = x then 1 + s.keyDepth x p n p
    else if s.slotKind i = 9 then 1 + s.keyDepth x p n (s.slotParent i)
    else 0

/-- A parent is ACTIVE and of kind 6 to 9, and no chain through the slot is deeper than 4 (R485, R491). -/
def State.parentOk (s : State) (slot p : Nat) : Bool :=
  s.slotState p == 3 && decide (6 ≤ s.slotKind p) && decide (s.keyDepth slot p 6 slot ≤ 4)
    && ((List.range 128).filter (fun i => s.keyBelow slot 4 i)).all (fun i => decide (s.keyDepth slot p 6 i ≤ 4))

/-- KEY_CMD.STAGE (R490). -/
def keyStageCmd (s : State) : State × Status :=
  let i := s.keyArg
  s.keyCmd (s.bit (bitAt 0x9040 0) && (s.slotState i == 0 || (s.slotState i == 3 && s.slotNext i == 0))) (fun s =>
    (s.keysMod (fun k => { k with run := some ⟨false, i, s.importBuf⟩ })).setB keyBusy true)

def execKeyStage (s : State) : Out := .next (keyStageCmd s).1

/-- The code with which a STAGE ends (R491); codes are checked in ascending order. -/
def State.stageCode (s : State) (r : KeyRun) (tagOk pointOk : Bool) : Nat :=
  let kind := bufByte r.buf 1
  let secret := decide (6 ≤ kind ∧ kind ≤ 8)
  if !kindAllowed kind r.slot then 1
  else if !bufOk r.buf r.slot then 2
  else if secret && !tagOk then 3
  else if bufNat r.buf 4 4 ≤ s.slotGen r.slot then 4
  else if secret && !pointOk then 6
  else if kind == 9 && !s.parentOk r.slot (bufByte r.buf 3) then 7
  else 0

/-- The running operation is over. -/
def State.keyRunEnd (s : State) : State := (s.keysMod (fun k => { k with run := none })).setB keyBusy false

/-- KEY_STAGE_END (R490, R493): `tagOk`, the GCM tag verifies; `pointOk`, EPH_PUB lies on the curve; `kcv`, the check value of the key
unwrapped or derived. -/
def execKeyStageEnd (tagOk pointOk : Bool) (kcv : Word) (s : State) : Out :=
  .next <|
    match s.keys.run with
    | none => s
    | some r =>
      if r.verify then s
      else
        let code := s.stageCode r tagOk pointOk
        let s1 := (s.keyRunEnd).zeroBuf
        let n := keyOf r.buf kcv
        let s2 :=
          if code ≠ 0 then s1
          else if s1.slotState r.slot = 0 then (s1.stage r.slot n).slotPut r.slot 1 n
          else ((s1.stage r.slot n).setSlotNext r.slot 1).twr 0x0900 r.slot 3 (BitVec.ofNat 32 n.gen)
        s2.keyEnd 1 r.slot code

/-- KEY_CMD.VERIFY (R490). -/
def keyVerifyCmd (s : State) : State × Status :=
  let i := s.keyArg
  s.keyCmd (s.slotState i == 1 || s.slotNext i == 1) (fun s =>
    (s.keysMod (fun k => { k with run := some ⟨true, i, []⟩ })).setB keyBusy true)

def execKeyVerify (s : State) : Out := .next (keyVerifyCmd s).1

/-- The first image verification key: no key of slot 3 has been ACTIVE since it was EMPTY (R494). -/
def State.firstKey (s : State) (slot : Nat) : Bool := slot == 3 && s.slotState 3 != 3

/-- KEY_VERIFY_END (R493, R494): `pointOk`, the point lies on the curve; `sigOk`, SIG verifies under the slot's ACTIVE key. -/
def execKeyVerifyEnd (pointOk sigOk : Bool) (s : State) : Out :=
  .next <|
    match s.keys.run with
    | none => s
    | some r =>
      if !r.verify then s
      else
        match s.stagedKey r.slot with
        | none => s.keyRunEnd
        | some n =>
          let first := n.kind < 6 && s.firstKey r.slot
          let code :=
            if 6 ≤ n.kind then (if n.kcv = n.want then 0 else 5)
            else if !pointOk then 6
            else if first || sigOk then 0 else 6
          let s1 := s.keyRunEnd
          let s2 :=
            if code ≠ 0 then s1
            else if s1.slotState r.slot = 1 then s1.setSlotState r.slot 2
            else s1.setSlotNext r.slot 2
          let s3 := if code = 0 && first then s2.raiseEv 9 4 else s2
          s3.keyEnd 2 r.slot code

/-! ## Promotion (R490, R496) -/

/-- KEY_CMD.PROMOTE: a second one replaces the first. -/
def keyPromoteCmd (s : State) : State × Status :=
  let i := s.keyArg
  s.keyCmd (s.slotState i == 2 || s.slotNext i == 2) (fun s =>
    let s1 := (s.keysMod (fun k => { k with promDue := false })).setB keyPend true
    s1.wr 0x9050 (BitVec.ofNat 32 (s.fld ⟨0x9048, 16, 10⟩ * 2 ^ 16 + s.fld ⟨0x9048, 15, 1⟩ * 2 ^ 15 + i)))

def execPromote (s : State) : Out := .next (keyPromoteCmd s).1

/-- No promotion is pending. -/
def State.pendClear (s : State) : State :=
  ((s.setB keyPend false).wr 0x9050 0).keysMod (fun k => { k with promDue := false })

/-- The pending promotion is withdrawn with a code. -/
def State.pendFail (s : State) (code : Nat) : State := (s.pendClear).keyEnd 3 s.pendSlot code

/-- The groups of the defined nodes. -/
def State.groups (s : State) : List Nat := (s.nodes.map (fun n => s.nodeGroup n)).eraseDups

/-- What follows from the replacement of the key in slot `i` (R496): the ACTIVE kind 9 slots below it hold new keys; a network master
key declares a rekey of every defined group. -/
def State.keyReplaced (s : State) (i : Nat) : State :=
  let below := (List.range 128).filter (fun d => s.keyBelow i 4 d && s.slotState d == 3)
  let s1 := below.foldl (fun a d =>
    ((a.twr 0x0900 d 1 (Config.derivedGen a.free)).twr 0x0900 d 2 (Config.derivedKcv a.free)).useFree) s
  if s.masterSlot = i ∨ below.contains s.masterSlot then
    let at_ := ltAdd (s1.instant 0) (s1.fld ⟨0x12088, 0, 16⟩ * 1000000000)
    s1.groups.foldl (fun a g => a.rekeyStart g at_) s1
  else s1

/-- The staged key of slot `i` becomes its ACTIVE key. -/
def State.promoteKey (s : State) (i : Nat) (n : KeyNew) : State :=
  let replaces := s.slotState i == 3
  let s1 := (((s.unstage i).slotPut i 3 n).twr 0x0900 i 3 0).twr 0x0900 i 6 (lo32 s.nowSec)
  let s2 := if n.kind < 6 then
      (s1.twr 0x0902 i 0 (BitVec.ofNat 32 (2 ^ 31 + n.kind))).trecSet 0x0902 i 1 n.point else s1
  if replaces || i == s.masterSlot then s2.keyReplaced i else s2

/-- PROMOTED (R490, R496): at its tick the verified key becomes ACTIVE; a kind 9 key whose parent is no longer ACTIVE does not. -/
def execPromoted (s : State) : Out :=
  .next <| s.andShown <|
    if !s.bit keyPend || !s.promNow then s
    else
      let i := s.pendSlot
      match s.stagedKey i with
      | none => s.pendClear
      | some n =>
        if n.kind == 9 && !s.parentOk i n.parent then s.pendFail 7
        else (((s.pendClear).promoteKey i n).raiseEv 9 2).keyEnd 3 i 0

/-! ## CANCEL, REVOKE, ERASE (R490, R495) -/

/-- KEY_CMD.CANCEL: the staged key is discarded, its promotion withdrawn. -/
def keyCancelCmd (s : State) : State × Status :=
  let i := s.keyArg
  s.keyCmd (s.slotState i == 1 || s.slotState i == 2 || s.slotNext i != 0) (fun s =>
    let s1 := if s.bit keyPend && s.pendSlot == i then s.pendClear else s
    let s2 := if s1.slotState i = 3 then ((s1.unstage i).setSlotNext i 0).twr 0x0900 i 3 0 else s1.slotEmpty i
    s2.keyEnd 4 i 0)

def execKeyCancel (s : State) : Out := .next (keyCancelCmd s).1

/-- A staged key rests on one of these slots: it is of kind 9 with such a parent. -/
def State.restsOn (s : State) (xs : List Nat) (i : Nat) : Bool :=
  xs.contains i || (match s.stagedKey i with
    | some n => n.kind == 9 && xs.contains n.parent
    | none => false)

/-- What a running operation rests on. -/
def State.runRests (s : State) (xs : List Nat) (r : KeyRun) : Bool :=
  s.restsOn xs r.slot || (!r.verify && bufByte r.buf 1 == 9 && xs.contains (bufByte r.buf 3))

/-- The running operation ends with a code, and nothing is stored. -/
def State.runFail (s : State) (code : Nat) : State :=
  match s.keys.run with
  | none => s
  | some r => ((if r.verify then s.keyRunEnd else (s.keyRunEnd).zeroBuf)).keyEnd (if r.verify then 2 else 1) r.slot code

/-- Sessions whose credential key stands in one of these slots close (R424). -/
def State.closeUnder (s : State) (xs : List Nat) : State :=
  (List.range 8).foldl (fun a j =>
    if (a.sess j).st != 0 && xs.contains (a.tfld 0x0B00 (a.sess j).cred 0 16 7) then a.closeSess j else a) s

/-- The slots that a revocation of `i` makes unusable: itself, and the kind 9 slots below it. -/
def State.revoked (s : State) (i : Nat) : List Nat :=
  i :: (List.range 128).filter (fun d => d != i && s.keyBelow i 4 d && decide (1 ≤ s.slotState d ∧ s.slotState d ≤ 3))

/-- The revocation of a slot (R495, R497). -/
def State.revokeSlot (s : State) (i : Nat) : State :=
  let xs := s.revoked i
  let s1 := if s.bit keyPend && s.restsOn xs s.pendSlot then s.pendFail 8 else s
  let s2 := match s1.keys.run with
    | some r => if s1.runRests xs r then s1.runFail 8 else s1
    | none => s1
  let s3 := xs.foldl (fun a d =>
    ((((a.unstage d).setSlotNext d 0).twr 0x0900 d 3 0).setSlotState d (if d = i then 4 else 5))) s2
  let s4 := (s3.bumpN .KEY_REVOKE xs.length).raiseEv 9 3
  let s5 := if xs.contains s.masterSlot then s4.groupsRevoked else s4
  (s5.closeUnder xs).keyEnd 5 i 0

/-- KEY_CMD.REVOKE: slots 0, 1, 2 and 4 refuse it with code SLOT. -/
def keyRevokeCmd (s : State) : State × Status :=
  let i := s.keyArg
  match s.keyStop with
  | some st => (s, st)
  | none =>
    if i = 0 ∨ i = 1 ∨ i = 2 ∨ i = 4 then (s.keyEnd 5 i 1, .refused)
    else if 1 ≤ s.slotState i ∧ s.slotState i ≤ 3 then (s.revokeSlot i, .ok)
    else (s, .refused)

def execKeyRevoke (s : State) : Out := .next (keyRevokeCmd s).1

/-- KEY_CMD.ERASE: the slot is EMPTY, and its material destroyed. -/
def keyEraseCmd (s : State) : State × Status :=
  let i := s.keyArg
  s.keyCmd (s.slotState i == 1 || s.slotState i == 2 || s.slotState i == 4 || s.slotState i == 5) (fun s =>
    let s1 := if s.bit keyPend && s.pendSlot == i then s.pendFail 8 else s
    let s2 := if i = 3 then s1.tclear 0x0902 (· == 3) else s1
    (s2.slotEmpty i).keyEnd 6 i 0)

def execKeyErase (s : State) : Out := .next (keyEraseCmd s).1

/-- FRAME_HI counts the wraps of FRAME_NO since the twin link key was last derived (R456). -/
def State.frameHiClear (s : State) : State := { s with twin := { s.twin with fhi := 0 } }

/-- The twin link key is derived into slot 4 (R498). -/
def State.twinKey (s : State) : State :=
  ((s.slotPut 4 3 ⟨5, 0x7F, (Config.derivedGen s.free).toNat, [0, 0], 0, Config.derivedKcv s.free, []⟩).twr 0x0900 4 6
    (lo32 s.nowSec)).useFree.keyRegs.frameHiClear

/-! ## Tamper (R501 to R505) -/

/-- COUNT and PROV_COUNT of TAMP_FUSES. -/
def State.fuseCount (s : State) : Nat := s.fld ⟨0xA048, 0, 6⟩
def State.tampered (s : State) : Bool := decide (s.fld ⟨0xA048, 16, 6⟩ < s.fuseCount)

/-- 1/32,768 s of ns. -/
def aonSub (ns : Nat) : Nat := ns * 32768 / 1000000000

/-- The record that a detection writes to the tamper log (R507): `ns` after the last tick. -/
def State.tampLog (s : State) (sensors ns : Nat) : State :=
  let i := s.fld ⟨0xA04C, 0, 4⟩
  let t := s.keys.aonNs + ns
  let sec := s.keys.aonSec + t / 1000000000
  let ok := s.bit (bitAt 0xA040 9) && s.fld ⟨0x4048, 0, 3⟩ != 0
  (s.trecSet 0x0A00 i 0 [BitVec.ofNat 32 (2 ^ 31 + b2n ok * 2 ^ 30 + s.mstate * 2 ^ 24 + sensors), lo32 sec,
    BitVec.ofNat 32 (sec / 2 ^ 32 % 2 ^ 16 * 2 ^ 16 + aonSub (t % 1000000000)), BitVec.ofNat 32 s.fuseCount]).setF ⟨0xA04C, 0, 4⟩
    ((i + 1) % 16)

/-- Key material is zeroised (R502): the import buffer is cleared; a running operation and a pending promotion end with TAMPER. -/
def State.zeroise (s : State) : State :=
  let s1 := (s.runFail 9).zeroBuf
  let s2 := if s1.bit keyPend then s1.pendFail 9 else s1
  if s2.bit keyZeroised then s2 else (s2.setB keyZeroised true).raiseEv 9 5

/-- The response to a triggered sensor (R502), and to a count of fuses found above PROV_COUNT, which blows none: `fuse`. -/
def State.tamperResponse (s : State) (sensors ns : Nat) (fuse : Bool) : State :=
  let n := if fuse then min 32 (s.fuseCount + 1) else s.fuseCount
  let s1 := (s.zeroise).setF ⟨0xA048, 0, 6⟩ n
  let s2 := ((s1.setF ⟨0xA040, 0, 5⟩ sensors).setF ⟨0xA044, 0, 5⟩ (s1.fld ⟨0xA044, 0, 5⟩ ||| sensors)).setB (bitAt 0xA040 31) s1.tampered
  (((s2.tampLog sensors ns).bump .TAMP).raiseEv 0x0A 0).signal 4

/-- TAMPER (R502): sensors of R501, `ns` after the tick; the module's state changes at the next tick (R504). -/
def execTamper (sensors ns : Nat) (s : State) : Out :=
  .next <|
    if sensors % 32 = 0 then s
    else (s.tamperResponse (sensors % 32) ns true).keysMod (fun k => { k with tampDue := true })

/-- TAMP_STAT shows the sensors of R501 that are triggered at a tick (R507). -/
def State.tampShow (s : State) (sensors : Nat) : State := s.setF ⟨0xA040, 0, 5⟩ (sensors % 32)

/-- The AON clock at a tick (R503): 1 ms on, aligned to TIME78 at frame 0 while the time is not UNSYNC. -/
def State.aonTick (s : State) : State :=
  let t := s.keys.aonNs + 1000000
  let s1 := if s.fld ⟨0x4048, 0, 3⟩ != 0 && s.frame == 0 && !s.inExt then
      (s.keysMod (fun k => { k with aonSec := s.ownSec, aonNs := s.ownNs })).setB (bitAt 0xA040 9) true
    else s.keysMod (fun k => { k with aonSec := k.aonSec + t / 1000000000, aonNs := t % 1000000000 })
  (s1.wr 0xA050 (lo32 s1.keys.aonSec)).wr 0xA054
    (BitVec.ofNat 32 (s1.keys.aonSec / 2 ^ 32 % 2 ^ 16 * 2 ^ 16 + aonSub s1.keys.aonNs))

/-- A pending promotion at a tick: `skips`, the frames that did not run, as (first, count). -/
def State.promTick (s : State) (skips : List (Nat × Nat)) : State :=
  let f := s.fld ⟨0x9050, 16, 10⟩
  if s.bit keyPend && s.bit (bitAt 0x9050 15) && skips.any (fun e => decide (e.1 ≤ f ∧ f < e.1 + e.2)) then
    s.keysMod (fun k => { k with promDue := true })
  else s

end Sys2Proof.Machine
end

