-- ==== Sys2Proof/Machine/Meter.lean ====
section
/-! DEFINITION. Electrical and thermal metering: the modulator front-end (R318 to R321), electrical points (R322 to R330), thermal
points (R331 to R336), intervals (R337, R338), saves and restore (R339, R340). -/

namespace Sys2Proof.Machine

/-- `s` with the metering engine changed. -/
def State.metMod (s : State) (f : MetSt → MetSt) : State := { s with met := f s.met }
def State.metNvMod (s : State) (f : MetNv → MetNv) : State := { s with metNv := f s.metNv }

/-- An electrical point. -/
def State.metPt (s : State) (p : Nat) : MetPt := s.met.pts.getD p MetPt.init
def State.metPtMod (s : State) (p : Nat) (f : MetPt → MetPt) : State := s.metMod (fun q => { q with pts := modAt q.pts p f })

/-! ## Register words, shown at the next tick (R330, R336) -/

/-- A register word as the engine holds it. -/
def State.metRd (s : State) (tid idx w : Nat) : Word := (smFind s.met.pend (tkey tid idx w)).getD (s.trd tid idx w)

/-- The engine changes a register word. -/
def State.metWr (s : State) (tid idx w : Nat) (v : Word) : State :=
  s.metMod (fun q => { q with pend := smInsert q.pend (tkey tid idx w) v })

/-- Consecutive words from word `w`. -/
def State.metWrs (s : State) (tid idx w : Nat) : List Word → State
  | [] => s
  | v :: vs => (s.metWr tid idx w v).metWrs tid idx (w + 1) vs

/-- A 64-bit register, low word first. -/
def State.metReg (s : State) (tid idx w : Nat) : Nat := (s.metRd tid idx w).toNat + (s.metRd tid idx (w + 1)).toNat * 2 ^ 32

/-- Adds an amount to a 64-bit register of kind W; the part below one unit stays in its residue (R323). -/
def State.metAdd (s : State) (tid idx w : Nat) (x : Num) : State :=
  let k := tkey tid idx w
  let t := nadd ((s.met.res.lookup k).getD n0) x
  let n := (Config.numFloor t).toNat
  let v := s.metReg tid idx w + n
  ((s.metWr tid idx w (lo32 v)).metWr tid idx (w + 1) (hi32 v)).metMod (fun q =>
    { q with res := (k, nsub t (nint n)) :: q.res.filter (fun e => e.1 != k) })

/-- The tick shows the words formed since the last one. -/
def State.metShow (s : State) : State :=
  (s.met.pend.foldl (fun a e => { a with tbl := smSet tblReset a.tbl e.1 e.2 }) s).metMod (fun q => { q with pend := [] })

/-! ## The front-end (R318 to R321) -/

/-- The MOD domain is locked: MOD_STAT.CLK_LOST is 0. -/
def modLost : Fld := bitAt 0x19044 28

/-- The clock of a point runs: MOD_CTRL.EN and PT_EN. -/
def State.modOn (s : State) (p : Nat) : Bool := s.bit (bitAt 0x19040 0) && s.bit (bitAt 0x19040 (1 + p))

/-- The inputs of a point that are invalid in this frame (R320); `stuck`: inputs whose stream held one level for 64 clocks. -/
def State.modBad (s : State) (p stuck : Nat) : Nat :=
  if s.modOn p && !s.bit modLost && !s.met.lost then stuck / 2 ^ (7 * p) % 128 else 127

/-- Judges an input in a frame: DATA_OK, MOD_FAULT, and DATA_FAULT at the first invalid frame of a run. -/
def State.modInput (s : State) (m : Nat) (bad : Bool) : State :=
  let was := s.met.badRun / 2 ^ m % 2 == 1
  let s1 := (s.setB (bitAt 0x19044 m) (!bad)).metMod (fun q => { q with badRun := putBit q.badRun m bad })
  if bad then
    let s2 := s1.setB (bitAt 0x19048 m) true
    let s3 := if s2.met.faulted then s2 else (s2.bump .MOD_FAULT).metMod (fun q => { q with faulted := true })
    if was then s3 else s3.raiseEv 0x19 0
  else s1

/-- A sample's code: clipping (R320). -/
def clipCode : Nat := 0x7F0000
def State.modClip (s : State) (m : Nat) (c : Int) : State :=
  if clipCode ≤ c.natAbs then ((s.setB (bitAt 0x19050 m) true).bump .MOD_CLIP).raiseEv 0x19 1 else s

/-- The samples of one point are latched: they replace a set that is still there. In a frame whose tick has dropped the sets none is latched
(R345). -/
def State.modLatchPt (s : State) (p : Nat) (smp : List (List Int)) (stuck : Nat) : State :=
  let bad := s.modBad p stuck
  let s1 := (List.range 7).foldl (fun a k => a.modInput (7 * p + k) (bad / 2 ^ k % 2 == 1)) s
  let valid := (List.range 7).filter (fun k => bad / 2 ^ k % 2 == 0)
  let s2 := smp.foldl (fun a x => valid.foldl (fun b k => b.modClip (7 * p + k) (x.getD k 0)) a) s1
  if s2.met.dropped then s2
  else
    (s2.metPtMod p (fun d => { d with latch := some (smp.take 16, bad) })).metMod (fun q =>
      { q with good := if bad % 64 = 0 then p :: q.good else q.good })

/-- MOD_LATCH (R319, R320): the decimated samples of the points in the mask, one list of samples for each point in the order of the
mask, a sample holding the point's seven codes. -/
def execModLatch (arg : Nat) (samples : List (List (List Int))) (stuck : Nat) (s : State) : Out :=
  .next (s.entry 0x12 0x20 (·.has arg) (fun s =>
    (((List.range 4).filter (fun p => arg / 2 ^ p % 2 == 1)).zip samples).foldl (fun a e => a.modLatchPt e.1 e.2 stuck) s))

/-- A soft reset of the MOD page beside R55 (R345): the latched sets are dropped, and that frame is unmeasured. -/
def State.modSoftReset (s : State) : State :=
  ([0, 1, 2, 3].foldl (fun a p => a.metPtMod p (fun d => { d with latch := none })) s).metMod (fun q => { q with dropped := true })

/-! ## Electrical points (R322 to R329) -/

/-- A calibrated sample of an input (R321). -/
def State.calib (s : State) (m : Nat) (code : Int) : Num :=
  let x := code - signed 24 (s.tfld 0x1900 m 1 0 24)
  nmul (nf32 (s.trd 0x1900 m 0)) (nint (if s.tfld 0x1900 m 3 31 1 = 1 then -x else x))

/-- RMS of a list. -/
def nrms (l : List Num) : Num := Config.numSqrt (ndiv (nsum (l.map (fun x => nmul x x))) (nint l.length))

/-- Input `k` of samples of seven. -/
def col (l : List (List Int)) (k : Nat) : List Num := l.map (fun x => x.getD k 0)

def State.unom (s : State) (p : Nat) : Num := nf32 (s.rd (0x1A060 + 0x20 * p))
def State.inom (s : State) (p : Nat) : Num := nf32 (s.rd (0x1A064 + 0x20 * p))

/-- W·s to mWh. -/
def toMwh (e : Num) : Num := ndiv e (nrat 36 10)

/-- Classifies a frame's energies into the registers of a record (R323). -/
def State.metClassify (s : State) (idx : Nat) (p q : Num) : State :=
  let pos := nle n0 p
  let qpos := nle n0 q
  let s1 := s.metAdd 0x1A00 idx (if pos then 0 else 2) (toMwh (nabs p))
  s1.metAdd 0x1A00 idx (if pos then (if qpos then 4 else 10) else (if qpos then 6 else 8)) (toMwh (nabs q))

/-- Sets the runs of a judgement: the first counts windows that meet it, the second those that do not. -/
def runNext (r : Nat × Nat) (yes no : Bool) : Nat × Nat :=
  if yes then (r.1 + 1, 0) else if no then (0, r.2 + 1) else r

/-- An angle lies within 30° of `c`. -/
def near30 (x : Num) (c : Int) : Bool := nle (nabs (nsub x (nint c))) (nint 30)

/-- Phase sequence and lost neutral at a window (R327, R328). -/
def State.metJudge (s : State) (p : Nat) (vrms : List Num) (a2 a3 u0 irms : Num) (nBad : Bool) : State :=
  let d := s.metPt p
  let u := s.unom p
  let all := vrms.all (fun v => nle (nmul (nrat 1 2) u) v)
  let ok := all && near30 a2 120 && near30 a3 240
  let rev := all && near30 a2 240 && near30 a3 120
  let sr := runNext d.seqRun rev ok
  let disp := nle (nmul (nrat (s.fld ⟨0x1A068 + 0x20 * p, 0, 16⟩) 1000) u) u0
  let cur := nBad || nlt irms (nmul (nrat (s.fld ⟨0x1A068 + 0x20 * p, 16, 16⟩) 1000) (s.inom p))
  let lost := disp && cur
  let nr := runNext d.nlRun lost (!lost)
  let s1 := s.metPtMod p (fun d => { d with seqRun := sr, nlRun := nr })
  let fs := bitAt 0x1A04C (4 + p)
  let fn := bitAt 0x1A04C (8 + p)
  let s2 := if 5 ≤ sr.1 ∧ s1.bit fs = false then ((s1.setB fs true).raiseEv 0x1A 0).bump .EMET_SEQ
    else if 5 ≤ sr.2 then s1.setB fs false else s1
  if 5 ≤ nr.1 ∧ s2.bit fn = false then ((s2.setB fn true).raiseEv 0x1A 1).bump .EMET_NLOST
  else if 5 ≤ nr.2 then s2.setB fn false else s2

/-- The results of a point's window (R325, R326), with apparent energy (R323, R324): of the phases at or above the start current, which the
total sums. -/
def State.metResults (s : State) (p : Nat) (c : MetDue) : State :=
  let d := s.metPt p
  let l := d.win
  let n := l.length
  let dt := nmul (nint n) (nrat 125 1000000)
  let v := [0, 1, 2].map (fun k => nrms (col l k))
  let i := [3, 4, 5, 6].map (fun k => nrms (col l k))
  let P := d.eP.map (fun e => ndiv e dt)
  let Q := d.eQ.map (fun e => ndiv e dt)
  let pT := P.getD 3 0
  let qT := Q.getD 3 0
  let S := [0, 1, 2].map (fun k => nmul (v.getD k 0) (i.getD k 0))
  let low := fun (k : Nat) => nlt (v.getD k 0) (nmul (nrat 1 5) (s.unom p))
  let f := Config.emetFreq (col l (if low 0 then (if low 1 then 2 else 1) else 0))
  let a2 := Config.emetAngle (col l 1) (col l 0) f
  let a3 := Config.emetAngle (col l 2) (col l 0) f
  let phi := [0, 1, 2].map (fun k => Config.numAtan2 (Q.getD k 0) (P.getD k 0))
  let u0 := nrms (l.map (fun x => ndiv (nsum (x.take 3)) (nint 3)))
  let ires := nrms (l.map (fun x => nsum ((x.drop 3).take 3)))
  let has := decide (0 < n)
  let q :=
    if !has then STALEQ
    else if decide (c.frames ≤ c.gaps) || nlt f (nint 45) || nlt (nint 65) f || (low 0 && low 1 && low 2) then BAD
    else if 0 < c.gaps ∨ d.clip then ESTIM else GOOD
  let st := q + b2n d.clip * stOVR + b2n c.late * stLATE
  let w0 := BitVec.ofNat 32 (st * 2 ^ 24 + b2n (decide (0 < c.gaps)) * 2 ^ 16 + b2n c.short * 2 ^ 17 + b2n c.late * 2 ^ 18 + b2n d.clip * 2 ^ 19)
  let vals := v ++ i ++ P ++ Q ++ (S ++ [nsum S]) ++ [f, a2, a3] ++ phi ++ [u0, ires]
  let s1 := s.metWr 0x1A01 p 0 w0
  let s2 := if has then s1.metWrs 0x1A01 p 1 (vals.map Config.numToF32) else s1
  let s3 := s2.metWrs 0x1A01 p 28 [BitVec.ofNat 32 c.sec, BitVec.ofNat 32 c.ns]
  let s4 := if has then
      ((s3.wr (0x1A06C + 0x20 * p) (ofInt (Config.numToInt (nmul f (nint 1000))))).wr (0x1A070 + 0x20 * p) (ofInt (Config.numToInt pT))).wr
        (0x1A074 + 0x20 * p) (ofInt (Config.numToInt qT))
    else s3
  let sw := if nle n0 pT then 12 else 14
  let started := [0, 1, 2].filter (fun k => nle (nmul (nrat 1 1000) (s.inom p)) (i.getD k 0))
  let s5 := if !has then s4 else
      (started.foldl (fun a k =>
        a.metAdd 0x1A00 (4 * p + k) (if nle n0 (P.getD k 0) then 12 else 14) (toMwh (nmul (S.getD k 0) dt))) s4).metAdd
          0x1A00 (4 * p + 3) sw (toMwh (nmul (nsum (started.map (fun k => S.getD k 0))) dt))
  let s6 := if has then s5.metJudge p v a2 a3 u0 (i.getD 3 0) d.nBad else s5
  let s7 := (List.range 7).foldl (fun a k => a.wr (0x19070 + 4 * (7 * p + k)) (BitVec.ofNat 32 (min (d.peaks.getD k 0) (2 ^ 24 - 1)))) s6
  s7.metPtMod p (fun d =>
    { d with win := [], eP := [0, 0, 0, 0], eQ := [0, 0, 0, 0], clip := false, nBad := false, peaks := [0, 0, 0, 0, 0, 0, 0], due := none,
             hadData := has })

/-- The samples of a frame (R322 to R324, R329). -/
def State.metSamples (s : State) (p : Nat) (smp : List (List Int)) (bad : Nat) : State :=
  let d := s.metPt p
  let cal := smp.map (fun x => (List.range 7).map (fun k => s.calib (7 * p + k) (x.getD k 0)))
  let hist := (d.hist ++ cal).drop (d.hist.length + cal.length - 160)
  let okPh := fun (k : Nat) => bad / 2 ^ k % 2 == 0 && bad / 2 ^ (3 + k) % 2 == 0
  let ph := [0, 1, 2].map (fun k =>
    if okPh k then
      (nmul (nsum (cal.map (fun x => nmul (x.getD k 0) (x.getD (3 + k) 0)))) (nrat 125 1000000),
       Config.emetReactive (col hist k) (col hist (3 + k)) cal.length)
    else (n0, n0))
  let pass := [0, 1, 2].filter (fun k => okPh k && nle (nmul (nrat 1 1000) (s.inom p)) (nrms (col hist (3 + k))))
  let s1 := pass.foldl (fun a k => a.metClassify (4 * p + k) (ph.getD k (0, 0)).1 (ph.getD k (0, 0)).2) s
  let all := [0, 1, 2].all okPh
  let s2 := if all && !pass.isEmpty then
      s1.metClassify (4 * p + 3) (nsum (pass.map (fun k => (ph.getD k (0, 0)).1))) (nsum (pass.map (fun k => (ph.getD k (0, 0)).2)))
    else s1
  let sum3 := fun l : List Num => l ++ [if all then nsum l else n0]
  let eP := sum3 (ph.map (·.1))
  let eQ := sum3 (ph.map (·.2))
  let dt := nmul (nint cal.length) (nrat 125 1000000)
  let ok := fun k : Nat => bad / 2 ^ k % 2 == 0
  let s3 := s2.metPtMod p (fun d =>
    { d with hist := hist, win := d.win ++ cal, latch := none, lastP := ndiv (eP.getD 3 0) dt, lastQ := ndiv (eQ.getD 3 0) dt,
             eP := (List.range 4).map (fun k => nadd (d.eP.getD k 0) (eP.getD k 0)),
             eQ := (List.range 4).map (fun k => nadd (d.eQ.getD k 0) (eQ.getD k 0)),
             clip := d.clip || smp.any (fun x => (List.range 7).any (fun k => ok k && decide (clipCode ≤ (x.getD k 0).natAbs))),
             nBad := d.nBad || !ok 6,
             peaks := (List.range 7).map (fun k => smp.foldl (fun m x => max m (x.getD k 0).natAbs) (d.peaks.getD k 0)) })
  s3.setB (bitAt 0x1A04C p) (!pass.isEmpty)

/-! ## Intervals (R337, R338) -/

/-- TAI seconds of the frame's tick. -/
def State.tai (s : State) : Int := s.nowSec

/-- The start of the interval that holds an instant, for intervals of `m` minutes. -/
def State.intStart (s : State) (m : Nat) (t : Int) : Int :=
  let u : Int := s.fld ⟨0x408C, 0, 16⟩
  let len : Int := 60 * m
  Int.fdiv (t - u) len * len + u

/-- The registers whose increments an interval records: six, from the point's total record or the thermal record. -/
def State.intRegs (s : State) (k : Nat) : List Nat :=
  [0, 1, 2, 3, 4, 5].map (fun i => if k < 16 then s.metReg 0x1A00 (4 * k + 3) (2 * i) else s.metReg 0x1B01 (k - 16) (2 * i))

/-- INT_MIN of a page. -/
def State.intMin (s : State) (k : Nat) : Nat := if k < 16 then s.fld ⟨0x1A044, 0, 6⟩ else s.fld ⟨0x1B044, 0, 6⟩

/-- Opens the interval of key `k` (points 0 to 3, thermal points from 16) that holds the tick. -/
def State.intOpen (s : State) (k no : Nat) : State :=
  let m := s.intMin k
  let st := s.intStart m s.tai
  let crossed := match s.met.stepFrom with
    | none => false
    | some (a, b) => (decide (a < st) && decide (st ≤ b)) || (decide (b < st) && decide (st ≤ a))
  let i : MetInt :=
    { start := st, stop := st + 60 * m, base := s.intRegs k, gap := 0, reversals := 0, stepped := crossed, pf := s.met.pfNext.contains k, no := no }
  (s.metMod (fun q =>
    { q with ints := (k, i) :: q.ints.filter (fun e => e.1 != k), pfNext := q.pfNext.filter (· != k) })).wr (if k < 16 then 0x1A05C else 0x1B04C) (ofInt st)

/-- FAULT_MS of a thermal point. -/
def State.hmetPt (s : State) (t : Nat) : HmetPt := (s.met.hpts.lookup t).getD HmetPt.init
def State.hmetMod (s : State) (t : Nat) (f : HmetPt → HmetPt) : State :=
  s.metMod (fun q => { q with hpts := (t, f (s.hmetPt t)) :: q.hpts.filter (fun e => e.1 != t) })

/-- Writes the record of a closed interval to the ring of its point. -/
def State.intRecord (s : State) (k : Nat) (i : MetInt) : State :=
  let now := s.intRegs k
  let deltas := (List.range 6).flatMap (fun j =>
    let d := (now.getD j 0 + 2 ^ 64 - i.base.getD j 0) % 2 ^ 64
    [lo32 d, hi32 d])
  let flt := if k < 16 then i.gap else (s.metRd 0x1B01 (k - 16) 13).toNat
  let tid := if k < 16 then 0x1A02 else 0x1B02
  let pt := if k < 16 then k else k - 16
  let s1 := s.metWrs tid (pt * 96 + i.no % 96) 0
    ([BitVec.ofNat 32 (2 ^ 31 + b2n i.stepped * 2 ^ 30 + b2n i.pf * 2 ^ 29 + b2n (decide (0 < flt)) * 2 ^ 28
        + (if k < 16 then 0 else min i.reversals 65535)), ofInt i.start, BitVec.ofNat 32 flt] ++ deltas ++ [BitVec.ofNat 32 i.no])
  if k < 16 then s1
  else (s1.metWr 0x1B01 pt 13 0).hmetMod pt (fun d => { d with faultT := 0, revRaised := false })

def State.intMod (s : State) (k : Nat) (f : MetInt → MetInt) : State :=
  s.metMod (fun q => { q with ints := q.ints.map (fun e => if e.1 = k then (k, f e.2) else e) })

/-- An interval closes at the first close whose frame tick lies at or after its end (R337). -/
def State.intClose (s : State) (k : Nat) : State :=
  match s.met.ints.lookup k with
  | none => (s.intOpen k 0)
  | some i =>
    if i.stop ≤ s.tai then ((s.intRecord k i).intOpen k ((i.no + 1) % 2 ^ 32))
    else if s.met.pfNext.contains k then
      (s.intMod k (fun i => { i with pf := true })).metMod (fun q => { q with pfNext := q.pfNext.filter (· != k) })
    else s

/-- A step moves the clock from one value to another: the open intervals whose end or start it crosses carry STEPPED (R337). -/
def State.metStep (s : State) (a b : Int) : State :=
  let x := Int.fdiv a 1000000000
  let y := Int.fdiv b 1000000000
  s.metMod (fun q => { q with
    stepFrom := some (x, y),
    ints := q.ints.map (fun e => if (x < e.2.stop ∧ e.2.stop ≤ y) ∨ y < e.2.start then (e.1, { e.2 with stepped := true }) else e) })

/-! ## Closes and publication (R322, R344) -/

/-- The items of a point go into the metering mailbox. -/
def State.emetPublish (s : State) (p : Nat) : State :=
  let st := wbits (s.metRd 0x1A01 p 0) 24 8
  let e := if s.met.unrestored then BAD else if (s.metPt p).hadData then GOOD else STALEQ
  s.fwPuts 7 (s.fld ⟨0x1A058, 0, 12⟩) (s.roleItem 7 p)
    ((List.range 29).map (fun i => (⟨s.metRd 0x1A01 p (1 + i), st⟩ : Item)) ++
     (List.range 16).map (fun i => (⟨s.metRd 0x1A00 (4 * p + 3) i, e⟩ : Item)))

/-- EMET_CLOSE (R322, R325, R337): a closed window's results, the end of an interval, then the samples of the frame. -/
def State.emetClose (s : State) (p : Nat) : State :=
  if !s.bit (bitAt 0x1A040 p) then s
  else
    let d := s.metPt p
    let s1 := match d.due with
      | none => s
      | some c => s.metResults p c
    let s2 := s1.intClose p
    let s3 := match d.latch with
      | none => s2.setB (bitAt 0x1A04C p) false
      | some (smp, bad) => s2.metSamples p smp bad
    s3.emetPublish p

def execEmetClose (arg : Nat) (s : State) : Out :=
  .next (s.entry 0x18 0x07 (·.has arg) (fun s =>
    match s.entryIdx arg 0 2 with
    | none => s
    | some p => s.emetClose p))

/-! ## Thermal points (R331 to R336) -/

/-- Fields of a thermal point's record. -/
def State.hFld (s : State) (t w lo n : Nat) : Nat := s.tfld 0x1B00 t w lo n

/-- A GOOD item as a number, by its word. -/
def State.goodItem (s : State) (w : Word) : Option Word :=
  match s.vref w with
  | some it => if qual it.st = GOOD then some it.w else none
  | none => none

/-- A temperature in °C. -/
def State.hTemp (s : State) (t w : Nat) : Option Num :=
  (s.goodItem (s.trd 0x1B00 t w)).map (fun v => if s.hFld t 0 27 1 = 1 then nf32 v else nrat (sint v) 1000)

/-- The pressure, absolute, in Pa: P_FIX where none is named; none where the named item is not usable. -/
def State.hPress (s : State) (t : Nat) : Option Num :=
  if s.trd 0x1B00 t 4 = 0xFFFFFFFF#32 then some (nf32 (s.trd 0x1B00 t 8))
  else (s.vrefUsable (s.trd 0x1B00 t 4)).map (fun w => nadd (nint (sint w)) (nint 101325))

/-- The volume increment in mL, before the cut, and its flow in mL/s; none where the flow is not GOOD. -/
def State.hVolume (s : State) (t cnt dt8 : Nat) : Option (Num × Num) :=
  let src := s.hFld t 0 29 2
  let dt := nrat dt8 8000
  if src = 0 then
    if s.bit (bitAt 0x1C040 0) then
      let prev := ((s.hmetPt t).count).getD cnt
      let d : Int := ((cnt + 2 ^ 32 - prev) % 2 ^ 32 : Nat)
      let di := s.hFld t 0 8 5
      let rev := decide (di < 16) && s.bit (bitAt 0x1C044 di)
      let v := nmul (nint (if rev then -d else d)) (nf32 (s.trd 0x1B00 t 5))
      some (v, if dt8 = 0 then n0 else ndiv v dt)
    else none
  else
    (s.goodItem (s.trd 0x1B00 t 1)).map (fun w =>
      let q := if src = 1 then nint (sint w) else nmul (nf32 w) (nf32 (s.trd 0x1B00 t 5))
      (nmul q dt, q))

/-- The items of a thermal point go into the metering mailbox. -/
def State.hmetPublish (s : State) (t : Nat) : State :=
  let st := wbits (s.metRd 0x1B01 t 14) 24 8
  s.fwPuts 7 (s.fld ⟨0x1B050, 0, 12⟩) (s.roleItem 8 t) ((List.range 16).map (fun i => (⟨s.metRd 0x1B01 t i, st⟩ : Item)))

/-- STATUS and POWER of a thermal record, and the page's registers. -/
def State.hmetStatus (s : State) (t : Nat) (fault : Bool) (power flow : Num) : State :=
  let q := if s.met.unrestored then BAD else if fault then STALEQ else GOOD
  let rev := (s.hmetPt t).rev
  let pw := ofInt (Config.numToInt power)
  let s1 := (s.metWr 0x1B01 t 14 (BitVec.ofNat 32 (q * 2 ^ 24 + b2n rev * 2 ^ 16 + b2n fault * 2 ^ 17))).metWr 0x1B01 t 15 pw
  (((s1.wr (0x1B054 + 4 * t) pw).wr (0x1B094 + 4 * t) (ofInt (Config.numToInt flow))).setB (bitAt 0x1B048 (16 + t)) fault).setB
    (bitAt 0x1B048 t) rev

/-- A close whose conditions hold (R332 to R335). -/
def State.hmetAccumulate (s : State) (t dt8 : Nat) (v q tf tr p : Num) : State :=
  let small := decide (dt8 ≠ 0) && nlt (nabs q) (nf32 (s.trd 0x1B00 t 6))
  let dv := if small then n0 else v
  let zero := nle dv n0 && nle n0 dv
  let neg := nlt dv n0
  let tv := if s.hFld t 0 28 1 = 0 then tf else tr
  let dth := nsub tf tr
  let dE := nmul (nmul (nmul (nabs dv) (nrat 1 1000000)) (Config.waterRho tv p))
    (nabs (nsub (Config.waterH tf p) (Config.waterH tr p)))
  let cold := nlt dth n0
  let reg := !zero && nle (nf32 (s.trd 0x1B00 t 7)) (nabs dth)
  let s1 := if zero then s else s.metAdd 0x1B01 t (if neg then 10 else 8) (nabs dv)
  let s2 := if reg then s1.metAdd 0x1B01 t (if cold then (if neg then 6 else 4) else (if neg then 2 else 0)) (toMwh dE) else s1
  let turn := !zero && (s.hmetPt t).flowed && neg != (s.hmetPt t).rev
  let s3 := if turn then
      let a := ((s2.metWr 0x1B01 t 12 (s2.metRd 0x1B01 t 12 + 1)).intMod (16 + t) (fun i => { i with reversals := i.reversals + 1 }))
      let b := a.hmetMod t (fun d => { d with revRaised := true })
      if (s2.hmetPt t).revRaised then b else b.raiseEv 0x1B 1
    else s2
  let pw := if dt8 = 0 ∨ reg = false then n0 else ndiv dE (nrat dt8 8000)
  (s3.hmetMod t (fun d => { d with fault := false, rev := if zero then d.rev else neg, flowed := d.flowed || !zero })).hmetStatus t false (if cold then nneg pw else pw) (if small then n0 else q)

/-- A close whose conditions fail: the registers hold, FAULT_MS grows. -/
def State.hmetFault (s : State) (t dt8 : Nat) : State :=
  let d := s.hmetPt t
  let n := d.faultT + dt8
  let s1 := (s.hmetMod t (fun d => { d with fault := true, faultT := n })).metWr 0x1B01 t 13 (BitVec.ofNat 32 (min (n / 8) (2 ^ 32 - 1)))
  let s2 := if d.fault then s1 else (s1.bump .HMET_FAULT).raiseEv 0x1B 0
  s2.hmetStatus t true n0 n0

/-- HMET_CLOSE (R332, R337): dt by the 8 kHz sample clock, capped at 1,000 ms. -/
def State.hmetClose (s : State) (t ns : Nat) : State :=
  if !s.bit (bitAt 0x1B040 t) || s.hFld t 0 31 1 == 0 then s
  else
    let now := (s.elapsed ns + s.met.longNs) / 125000
    let dt8 := match (s.hmetPt t).at_ with
      | none => 0
      | some a => min 8000 (now - a)
    let cnt := (s.rd (0x1C068 + 4 * s.hFld t 0 16 4)).toNat
    let s1 := s.intClose (16 + t)
    let inRange := fun (x : Num) => nle n0 x && nle x (nint 180)
    let s2 := match s1.hVolume t cnt dt8, s1.hTemp t 2, s1.hTemp t 3, s1.hPress t with
      | some (v, q), some tf, some tr, some p =>
        if inRange tf && inRange tr then s1.hmetAccumulate t dt8 v q tf tr p else s1.hmetFault t dt8
      | _, _, _, _ => s1.hmetFault t dt8
    (s2.hmetMod t (fun d => { d with at_ := some now, count := some cnt })).hmetPublish t

def execHmetClose (arg ns : Nat) (s : State) : Out :=
  .next (s.entry 0x19 0x07 (fun e => e.has arg && e.begunAt ns) (fun s =>
    match s.entryIdx arg 0 4 with
    | none => s
    | some t => s.hmetClose t ns))

/-! ## The tick -/

/-- A window of a point closes: its frames are those counted so far, with those of a close that still waits. -/
def MetPt.closeWin (d : MetPt) (late short : Bool) (sec ns : Nat) : MetPt :=
  let c := d.due.getD ⟨false, false, 0, 0, 0, 0⟩
  { d with due := some ⟨late || c.late, short || c.short, d.frames + c.frames, d.gaps + c.gaps, sec, ns⟩, frames := 0, gaps := 0 }

def State.metCloseWins (s : State) (late short : Bool) : State :=
  [0, 1, 2, 3].foldl (fun a p => a.metPtMod p (fun d => d.closeWin late short (a.nowSec % 2 ^ 32) a.nowNs)) s

/-- The windows of the electrical points close at the tick as ADC windows do (R325). -/
def State.metWindows (s : State) (skips : List (Nat × Nat)) : State :=
  let w := s.fld ⟨0x1A044, 16, 10⟩
  let late := w != 0 && skipsWin w skips
  if w != 0 && (late || (!s.inExt && s.frame % w == 0)) then s.metCloseWins late false else s

/-- A write of EMET_CFG.WIN_FR closes the open windows with SHORT. -/
def State.metShort (s : State) : State := s.metCloseWins false true

/-- The frame that ends at the tick: the inputs of a point whose clock did not run, or without the MOD domain, were invalid in it (R320); points
without a full latch count it as unmeasured (R329). -/
def State.metFrameEnd (s : State) : State :=
  let s0 := ([0, 1, 2, 3].filter (fun p => s.modBad p 0 != 0)).foldl (fun a p =>
    (List.range 7).foldl (fun b k => b.modInput (7 * p + k) true) a) s
  let s1 := ([0, 1, 2, 3].filter (fun p => s.bit (bitAt 0x1A040 p))).foldl (fun a p =>
    let gap := !s.met.good.contains p
    let b := a.metPtMod p (fun d => { d with frames := d.frames + 1, gaps := d.gaps + b2n gap })
    if gap then (b.bump (.EMET_GAP_FR p)).intMod p (fun i => { i with gap := i.gap + 1 }) else b) s0
  s1.metMod (fun q => { q with good := [], faulted := false, lost := s1.bit modLost, dropped := false })

/-- The metering engine at a tick. -/
def State.metTick (s : State) (skips : List (Nat × Nat)) : State :=
  let s2 := (s.metShow).metWindows skips
  let due := (!s2.inExt && s2.frame == 500) || skips.any (fun e => decide (e.1 ≤ 500 ∧ 500 < e.1 + e.2))
  if due then s2.metMod (fun q => { q with saveDue := true }) else s2

/-! ## Saves (R339, R340) -/

/-- The registers and residues as they stand. -/
def State.metSnap (s : State) (seq : Nat) : MetSave :=
  { seq := seq,
    words := s.tbl.filter (fun e => tkeyTid e.1 == 0x1A00 || tkeyTid e.1 == 0x1B01),
    res := s.met.res }

/-- METER_SAVE (R339): at the tick of frame 500, or the next, the slot whose turn it is is written. -/
def execMeterSave (s : State) : Out :=
  .next <| s.andShown <|
    if !s.met.saveDue then s
    else
      let snap := s.metSnap ((s.fld (wordAt 0x1A050) + 1) % 2 ^ 32)
      let s1 := s.metMod (fun q => { q with saveDue := false, saving := some snap })
      (s1.metNvMod (fun n => if n.next = 0 then { n with a := none } else { n with b := none })).setB (bitAt 0x1A04C 12) true

/-- METER_SAVE_VERIFY (R339): a verified save is committed; after a failed one the next goes to the same slot. -/
def execMeterSaveVerify (ok : Bool) (s : State) : Out :=
  .next <|
    match s.met.saving with
    | none => s
    | some m =>
      let s1 := (s.metMod (fun q => { q with saving := none })).setB (bitAt 0x1A04C 12) false
      if ok then
        (s1.wr 0x1A050 (BitVec.ofNat 32 m.seq)).metNvMod (fun n =>
          if n.next = 0 then { n with a := some m, next := 1 } else { n with b := some m, next := 0 })
      else (s1.bump .EMET_SAVE_FAIL).raiseEv 0x1A 2

/-- EMET_CMD.RESTORE_ACK (R340): ends the BAD quality of registers that were not restored. -/
def restoreAck (s : State) : State := (s.metMod (fun q => { q with unrestored := false })).setB (bitAt 0x1A04C 13) false
def execRestoreAck (s : State) : Out := .next (restoreAck s)

/-- One save is newer than another: its sequence number is higher. -/
def newerSave (l : List (Nat × Option MetSave)) : Option (Nat × MetSave) :=
  l.foldl (fun b e => match b, e.2 with
    | none, some m => some (e.1, m)
    | some (i, x), some m => if x.seq < m.seq then some (e.1, m) else some (i, x)
    | b, none => b) none

/-- Restoring at start-up (R340): slot A, slot B or the last gasp, whichever is newest; the next save goes to the older of A and
B; with none valid the registers start at 0 with quality BAD. The tail record is shown (R342). -/
def State.metRestore (s : State) : State :=
  let n := s.metNv
  let older := match n.a, n.b with
    | some a, some b => if a.seq < b.seq then 0 else 1
    | some _, none => 1
    | _, _ => 0
  let s0 := (s.metMod (fun _ => { MetSt.init with ints := s.met.ints, pfNext := s.met.pfNext })).metNvMod (fun n => { n with next := older })
  let s1 := s0.tkeep (fun k => !(tkeyTid k == 0x1A00 || tkeyTid k == 0x1B01 || tkeyTid k == 0x1A03 || tkeyTid k == 0x1B03))
  let put := fun (a : State) (m : SMap) => m.foldl (fun x e => { x with tbl := smSet tblReset x.tbl e.1 e.2 }) a
  let s2 := match n.tail with
    | some t => (put s1 t).setB (bitAt 0x1A04C 14) true
    | none => s1
  match newerSave [(1, n.a), (2, n.b), (3, n.gasp)] with
  | some (src, m) =>
    (((put s2 m.words).metMod (fun q => { q with res := m.res })).wr 0x1A050 (BitVec.ofNat 32 m.seq)).setF ⟨0x1A054, 30, 2⟩ src
  | none =>
    let s3 := (List.range 16).foldl (fun a t => a.tset 0x1B01 t 14 24 8 BAD) s2
    ((s3.metMod (fun q => { q with unrestored := true })).setB (bitAt 0x1A04C 13) true).raiseEv 0x1A 3

/-- MOD lock is lost or returns (R23, R345). -/
def State.modClkLost (s : State) : State := ((s.setB modLost true).metMod (fun q => { q with lost := true })).raiseEv 0x19 2
def State.modClkBack (s : State) : State := s.setB modLost false

end Sys2Proof.Machine
end

