-- ==== Sys2Proof/Machine/Model.lean ====
section
/-! DEFINITION. The network model engine (R127 to R161): inputs, the hydraulic solve, thermal transport, the arrival table,
mass balance, estimates, adaptation, and its bank. Its arithmetic is the free one of Num. -/

namespace Sys2Proof.Machine

/-- `s` with the network model changed. -/
def State.modelMod (s : State) (f : ModelSt → ModelSt) : State := { s with model := f s.model }

/-- The places of MODEL's bank (R137). -/
def modelBank : BankPg := ⟨0x24, 0x24048, 0x2404C, 3, 4, 5, 6, 7⟩

/-- The tables of a model bank (R130). -/
def modelTable (tid : Nat) : Bool := decide (0x2400 ≤ tid ∧ tid ≤ 0x2408)

/-! ## Records -/

/-- A register of circuit `c`, at its relative offset. -/
def mreg (c off : Nat) : Nat := 0x240A0 + 0x38 * c + off

/-- The defined records of a table of circuit `c` (bits 29..28 of word 0). -/
def State.ofCircuit (s : State) (tid c : Nat) : List Nat := (s.defined tid 0).filter (fun i => s.tfld tid i 0 28 2 == c)

/-- From and To junctions of a record (bits 25..13 and 12..0). -/
def State.recFrom (s : State) (tid i : Nat) : Nat := s.tfld tid i 0 13 13
def State.recTo (s : State) (tid i : Nat) : Nat := s.tfld tid i 0 0 13

/-- A binary32 parameter. -/
def State.par (s : State) (tid i w : Nat) : Num := nf32 (s.trd tid i w)

/-- A branch of a circuit (R127): kind 0 segment, 1 substation, 2 source, 3 store, 4 pump station. -/
structure Branch where
  kind : Nat
  idx : Nat
  frm : Nat
  dst : Nat
  imposed : Bool
deriving DecidableEq, Repr

/-- The key of a branch's flow. -/
def Branch.key (b : Branch) : Nat := b.kind * 2 ^ 16 + b.idx

/-- The table of a kind of branch. -/
def branchTable (k : Nat) : Nat :=
  if k = 0 then 0x2401 else if k = 1 then 0x2406 else if k = 2 then 0x2404 else if k = 3 then 0x2405 else 0x2403

/-- The branches of circuit `c`: segments, substations, sources, stores, pump stations. A source with MODE 1 and a store
impose their flow. -/
def State.branches (s : State) (c : Nat) : List Branch :=
  [0, 1, 2, 3, 4].flatMap (fun k =>
    (s.ofCircuit (branchTable k) c).map (fun i =>
      ⟨k, i, s.recFrom (branchTable k) i, s.recTo (branchTable k) i,
       k == 3 || (k == 2 && s.tfld 0x2404 i 0 30 1 == 1)⟩))

/-- The junctions of circuit `c`. -/
def State.junctions (s : State) (c : Nat) : List Nat := s.ofCircuit 0x2402 c

/-- A junction or segment lies in the return graph. -/
def State.isReturn (s : State) (tid i : Nat) : Bool := s.tfld tid i 0 30 1 == 1

/-! ## Measured inputs (R128, R129) -/

/-- The key under which an input's last usable value is kept: kind, record, field. -/
def inKey (kind idx fld : Nat) : Nat := kind * 2 ^ 20 + idx * 8 + fld

/-- Keeps an input's value where it is usable. -/
def State.keepIn (s : State) (key : Nat) (v : Option Word) : State :=
  match v with
  | none => s
  | some w => s.modelMod (fun m => { m with last := (key, w) :: m.last.filter (fun e => e.1 != key) })

/-- The item of a node's image: word `w` of R222. -/
def State.nodeItem (s : State) (n w : Nat) : Item := s.roleGet 3 n w

/-- A node's image value where usable. -/
def State.nodeUsable (s : State) (n w : Nat) : Option Word :=
  let it := s.nodeItem n w
  if usableSt it.st then some it.w else none

/-- Reads every input of circuit `c` from the front buffers (R128). -/
def State.readInputs (s : State) (c : Nat) : State :=
  let s1 := s.keepIn (inKey 0 c 0) (s.vrefUsable (s.trd 0x2400 c 1))
  let s2 := (List.range 16).foldl (fun a z => a.keepIn (inKey 1 z 0) (s.vrefUsable (s.trd 0x2408 z 0))) s1
  let s3 := (s.ofCircuit 0x2403 c).foldl (fun a i => a.keepIn (inKey 2 i 0) (s.vrefUsable (s.trd 0x2403 i 1))) s2
  let s4 := (s.ofCircuit 0x2404 c).foldl (fun a i =>
    (a.keepIn (inKey 3 i 1) (s.vrefUsable (s.trd 0x2404 i 1))).keepIn (inKey 3 i 2) (s.vrefUsable (s.trd 0x2404 i 2))) s3
  let s5 := (s.ofCircuit 0x2405 c).foldl (fun a i =>
    ((a.keepIn (inKey 4 i 1) (s.vrefUsable (s.trd 0x2405 i 1))).keepIn (inKey 4 i 2)
      (s.vrefUsable (s.trd 0x2405 i 2))).keepIn (inKey 4 i 3) (s.vrefUsable (s.trd 0x2405 i 3))) s4
  (s.ofCircuit 0x2406 c).foldl (fun a n =>
    (a.keepIn (inKey 6 n 0) (s.nodeUsable n 11)).keepIn (inKey 6 n 1) (s.nodeUsable n 4)) s5

/-- The value in use of an input, in units of 1 / `den`, or its fallback (R129). -/
def State.inVal (s : State) (key : Nat) (den : Nat) (fallback : Num) : Num :=
  match s.model.last.lookup key with
  | none => fallback
  | some w => nrat (sint w) den

/-- The temperature of junction `j` (°C) after the last step. -/
def State.jTemp (s : State) (j : Nat) : Num := nmGet s.model.jtemp j n0

/-- Ground temperature at a segment (R134). -/
def State.groundT (s : State) (i : Nat) : Num :=
  let z := s.tfld 0x2401 i 1 0 4
  let surf := s.inVal (inKey 1 z 0) 1000 (s.par 0x2408 z 1)
  let deep := s.par 0x2408 z 2
  nadd deep (nmul (nsub surf deep) (Config.numExp (nneg (ndiv (s.par 0x2401 i 5) (nint 2)))))

/-! ## Flow relations (R133, R136, R141) -/

/-- g = 9.806 65 m/s². -/
def gravity : Num := nrat 980665 100000

/-- π / 4, by the engine's own arithmetic: the area of a circle over its squared diameter. -/
def circleArea (d : Num) : Num := ndiv (nmul (nmul (nrat 314159265358979 100000000000000) d) d) (nint 4)

/-- Cross-section A of a segment (R132). -/
def State.segArea (s : State) (i : Nat) : Num := circleArea (s.par 0x2401 i 3)

/-- Volume of a segment. -/
def State.segVol (s : State) (i : Nat) : Num := nmul (s.par 0x2401 i 2) (s.segArea i)

/-- Absolute roughness of a class, in m (R133). -/
def roughness (k : Nat) : Num := nrat (([1, 5, 10, 20, 50, 100] : List Nat).getD k 0) 100000

/-- A segment's current heat-loss and roughness factors, 0.1 % (R151). -/
def State.uFac (s : State) (i : Nat) : Nat := s.tfld 0x2409 i 3 12 12
def State.rFac (s : State) (i : Nat) : Nat := s.tfld 0x2409 i 3 0 12

/-- The friction factor of a segment at a Reynolds number (R141). -/
def State.friction (s : State) (i : Nat) (re : Num) : Num :=
  let eps := nmul (roughness (s.tfld 0x2401 i 1 4 4)) (nrat (s.rFac i) 1000)
  let turb := fun r : Num =>
    let l := Config.numLog10 (nadd (ndiv eps (nmul (nrat 37 10) (s.par 0x2401 i 3)))
      (ndiv (nrat 574 100) (Config.numPow r (nrat 9 10))))
    ndiv (nrat 1 4) (nmul l l)
  if nle re (nint 2000) then ndiv (nint 64) re
  else if nle (nint 4000) re then turb re
  else
    let a := nrat 64 2000
    nadd a (nmul (nsub (turb (nint 4000)) a) (ndiv (nsub re (nint 2000)) (nint 2000)))

/-- kv of a substation valve at its opening (R136). -/
def State.kv (s : State) (n : Nat) : Num :=
  let h := s.inVal (inKey 6 n 0) 10000 n0
  let kvs := s.par 0x2406 n 2
  let lo := s.par 0x2406 n 3
  if s.tfld 0x2406 n 4 30 2 = 0 then nadd lo (nmul (nsub kvs lo) h)
  else nmax (nmul kvs (Config.numPow (s.par 0x2406 n 5) (nsub h n1))) lo

/-- ΔP of a branch at flow q (R141), for the kinds that do not impose their flow. -/
def State.branchDp (s : State) (c : Nat) (b : Branch) (q : Num) : Num :=
  let rho := s.par 0x2400 c 3
  let qq := nmul q (nabs q)
  if b.kind = 0 then
    let a := s.segArea b.idx
    let d := s.par 0x2401 b.idx 3
    let re := ndiv (nmul (nmul rho (nabs q)) d) (nmul (s.par 0x2400 c 4) a)
    let k := nadd (ndiv (nmul (s.friction b.idx re) (s.par 0x2401 b.idx 2)) d) (s.par 0x2401 b.idx 6)
    ndiv (nmul (nmul k rho) qq) (nmul (nint 2) (nmul a a))
  else if b.kind = 1 then
    let kv := s.kv b.idx
    nmul (nadd (ndiv (nint 1296000000000) (nmul kv kv)) (s.par 0x2406 b.idx 6)) qq
  else if b.kind = 2 then nmul (s.par 0x2404 b.idx 3) qq
  else
    let sp := s.inVal (inKey 2 b.idx 0) 10000 n0
    let head := nadd (nadd (nmul (s.par 0x2403 b.idx 2) (nmul sp sp)) (nmul (nmul (s.par 0x2403 b.idx 3) sp) q))
      (nmul (s.par 0x2403 b.idx 4) (nmul q q))
    nneg (nmul (nmul rho gravity) head)

/-- The imposed flow of a source with MODE 1 or of a store, m³/s; 0 before its FLOW has been usable. -/
def State.imposedQ (s : State) (b : Branch) : Num :=
  if b.kind = 2 then s.inVal (inKey 3 b.idx 2) 1000000 n0 else s.inVal (inKey 4 b.idx 1) 1000000 n0

/-- G_MIN (R142). -/
def gMin : Num := nrat 1 10000000000

/-- A pump station with a check valve. -/
def State.hasCheck (s : State) (b : Branch) : Bool := b.kind == 4 && s.tfld 0x2403 b.idx 0 30 1 == 1

/-- The flow of a branch at ΔP, and its conductance there (R142). -/
def State.branchQG (s : State) (c : Nat) (b : Branch) (dp : Num) : Num × Num :=
  let q := Config.numInvert (s.branchDp c b) dp
  if s.hasCheck b && nlt q n0 then (nmul gMin dp, gMin)
  else (q, nmax (Config.numInvSlope (s.branchDp c b) q) gMin)

/-! ## The hydraulic solve (R141, R142) -/

/-- Piezometric pressure minus gauge pressure at a junction. -/
def State.headOf (s : State) (c j : Nat) : Num := nmul (nmul (s.par 0x2400 c 3) gravity) (s.par 0x2402 j 1)

/-- P at REF_JUNC. -/
def State.pRef (s : State) (c : Nat) : Num :=
  nadd (s.inVal (inKey 0 c 0) 1 (s.par 0x2400 c 2)) (s.headOf c (s.tfld 0x2400 c 0 0 13))

/-- ΔP of a branch in a set of pressures. -/
def dpOf (p : NumMap) (b : Branch) : Num := nsub (nmGet p b.frm n0) (nmGet p b.dst n0)

/-- The flows and conductances at a set of pressures, by branch. -/
def State.flowsAt (s : State) (c : Nat) (bs : List Branch) (p : NumMap) : List (Branch × Num × Num) :=
  bs.map (fun b => if b.imposed then (b, s.imposedQ b, n0) else (b, s.branchQG c b (dpOf p b)))

/-- F_j: flows into a junction less flows out of it. -/
def imbalance (fs : List (Branch × Num × Num)) (j : Nat) : Num :=
  nsub (nsum ((fs.filter (fun f => f.1.dst == j)).map (·.2.1))) (nsum ((fs.filter (fun f => f.1.frm == j)).map (·.2.1)))

/-- The entry of the conductance matrix for two junctions. -/
def conductance (fs : List (Branch × Num × Num)) (i j : Nat) : Num :=
  if i = j then nsum ((fs.filter (fun f => f.1.frm == i || f.1.dst == i)).map (·.2.2))
  else nneg (nsum ((fs.filter (fun f => (f.1.frm == i && f.1.dst == j) || (f.1.frm == j && f.1.dst == i))).map (·.2.2)))

/-- What a solve ends with. -/
structure HydRes where
  conv : Bool
  iter : Nat
  press : NumMap
  flows : List (Branch × Num × Num)
  maxF : Num

/-- The iterations of R142 from iteration `k` on, at most `n` of them. -/
def State.hydIter (s : State) (c : Nat) (bs : List Branch) (js : List Nat) : Nat → Nat → NumMap → HydRes
  | 0, k, p =>
    let fs := s.flowsAt c bs p
    ⟨false, k - 1, p, fs, nmaxAbs (js.map (imbalance fs))⟩
  | n + 1, k, p =>
    let fs := s.flowsAt c bs p
    let d := Config.numSolve (js.map (fun i => js.map (fun j => conductance fs i j))) (js.map (imbalance fs))
    let p1 := (js.zip d).foldl (fun p e => nmPut p e.1 (nadd (nmGet p e.1 n0) e.2)) p
    let fs1 := s.flowsAt c bs p1
    let mf := nmaxAbs (js.map (imbalance fs1))
    if nle (nmaxAbs d) (nint (s.fld ⟨mreg c 0x14, 16, 16⟩)) && nle mf (nrat (s.fld ⟨mreg c 0x14, 0, 16⟩) 1000000)
    then ⟨true, k, p1, fs1, mf⟩
    else s.hydIter c bs js n (k + 1) p1

/-- The solve of circuit `c` with the inputs read (R142). -/
def State.hydSolve (s : State) (c : Nat) : HydRes :=
  let ref := s.tfld 0x2400 c 0 0 13
  let js := (s.junctions c).filter (fun j => j != ref)
  let p0 : NumMap := (s.junctions c).map (fun j => (j, nmGet s.model.press j (s.pRef c)))
  s.hydIter c (s.branches c) js 8 1 (nmPut p0 ref (s.pRef c))

/-! ## Quality and results (R148, R151) -/

/-- Bits of MODEL_CTRL: HYD_EN, THM_EN, ARR_EN, ADAPT_EN, SUBST_EN. -/
def State.modelEn (s : State) (b : Nat) : Bool := s.bit (bitAt 0x24040 b)

/-- The circuit has converged at least once. -/
def State.everConv (s : State) (c : Nat) : Bool := s.bit (bitAt (mreg c 0) 5)

/-- The quality of hydraulic results of circuit `c`. -/
def State.hydQ (s : State) (c : Nat) : Nat :=
  if !s.everConv c || s.model.initQ.getD c false then INITQ
  else if s.bit (bitAt (mreg c 0) 6) || !s.modelEn 0 then STALEQ else ESTIM

/-- The quality of a temperature of circuit `c` at a junction. -/
def State.thmQ (s : State) (c j : Nat) : Nat :=
  if !s.everConv c || s.model.initQ.getD c false || s.model.jinit.contains j then INITQ
  else if !s.modelEn 1 then STALEQ else ESTIM

/-- The flow of a branch after the last converged solve. -/
def State.qOf (s : State) (kind i : Nat) : Num := nmGet s.model.flow (kind * 2 ^ 16 + i) n0

/-- A segment is unflushed (R147): it waits for the step that starts it, or a volume equal to its own has not entered it yet. -/
def State.unflushed (s : State) (i : Nat) : Bool := (s.model.parcels.lookup i).isNone || s.model.entered.any (fun e => e.1 == i)

/-- Numbers in the integer formats of R10: mL/s, m°C, Pa. -/
def mlS (q : Num) : Word := ofInt (Config.numToInt (nmul q (nint 1000000)))
def mC (t : Num) : Word := ofInt (Config.numToInt (nmul t (nint 1000)))
def paI (p : Num) : Word := ofInt (Config.numToInt p)

/-- Gauge pressure at a junction (R143). -/
def State.gauge (s : State) (c j : Nat) : Num := nsub (nmGet s.model.press j n0) (s.headOf c j)

/-- The temperature at the ends of a segment: its first and its last parcel. -/
def State.segEndT (s : State) (i : Nat) (atTo : Bool) : Num :=
  let l := (s.model.parcels.lookup i).getD []
  (((if atTo then l.getLast? else l.head?)).map (·.temp)).getD n0

/-- Writes the result records of circuit `c` (R151). DESIGN CHOICE, safe: one STATUS byte covers hydraulic and thermal words, and it
carries the higher of their two quality codes, so a word is never shown better than it is (log 131). -/
def State.putResults (s : State) (c : Nat) : State :=
  let s1 := (s.ofCircuit 0x2401 c).foldl (fun a i =>
    let q := max (s.hydQ c) (if s.unflushed i then INITQ else if !s.modelEn 1 then STALEQ else ESTIM)
    (((a.twr 0x2409 i 0 (mlS (s.qOf 0 i))).twr 0x2409 i 1 (mC (s.segEndT i false))).twr 0x2409 i 2
      (mC (s.segEndT i true))).tset 0x2409 i 3 24 8 q) s
  let s2 := (s.junctions c).foldl (fun a j =>
    ((a.twr 0x240A j 0 (paI (s.gauge c j))).twr 0x240A j 1 (mC (s.jTemp j))).twr 0x240A j 2
      (BitVec.ofNat 32 (max (s.hydQ c) (s.thmQ c j)))) s1
  (s.ofCircuit 0x2406 c).foldl (fun a n =>
    let sup := s.recFrom 0x2406 n
    let dp := nsub (s.gauge c sup) (s.gauge c (s.recTo 0x2406 n))
    (((a.twr 0x240B n 0 (paI dp)).twr 0x240B n 1 (mlS (s.qOf 1 n))).twr 0x240B n 2 (mC (s.jTemp sup))).tset 0x240B n 6 0 8
      (max (s.hydQ c) (s.thmQ c sup))) s2

/-! ## Critical differential pressure (R149) -/

/-- The nodes of a circuit's monitored set, in its order. -/
def State.monSet (s : State) (c : Nat) : List Nat :=
  ((List.range 64).map (fun k => s.tfld 0x2407 c (k / 2) (16 * (k % 2)) 16)).filter (fun n => n != 0xFFFF)

/-- A node's differential pressure for R149: value in Pa, status. -/
def State.monDp (s : State) (c n : Nat) : Int × Nat :=
  let it := s.nodeItem n 6
  if s.tfld 0x2400 c 0 30 1 = 0 ∧ qual it.st = GOOD then (sint it.w, it.st)
  else (sint (s.trd 0x240B n 0), s.tfld 0x240B n 6 0 8)

/-- The smallest, the earliest position winning a tie. -/
def minDp : List (Nat × Int × Nat) → Option (Nat × Int × Nat)
  | [] => none
  | x :: l =>
    match minDp l with
    | none => some x
    | some y => if y.2.1 < x.2.1 then some y else some x

/-- Determines and publishes the critical value: registers, and items 0 and 1 of the circuit in the model values mailbox. -/
def State.critDp (s : State) (c : Nat) : State :=
  match minDp ((s.monSet c).map (fun n => (n, s.monDp c n))) with
  | none =>
    ((s.setF ⟨mreg c 0x1C, 16, 8⟩ INITQ).rolePuts 0 c [⟨s.rd (mreg c 0x18), INITQ⟩, ⟨0, INITQ⟩])
  | some (n, v, st) =>
    (((s.wr (mreg c 0x18) (ofInt v)).setF ⟨mreg c 0x1C, 16, 8⟩ st).setF ⟨mreg c 0x1C, 0, 11⟩ n).rolePuts 0 c
      [⟨Config.numToF32 (nint v), st⟩, ⟨BitVec.ofNat 32 n, st⟩]

/-! ## Estimates (R159) -/

/-- One bias of a node: `b + (measured − model − b) × Δt / 600 s`. -/
def biasStep (b measured model : Num) (dtMs : Nat) : Num :=
  nadd b (nmul (nsub (nsub measured model) b) (nrat dtMs 600000))

/-- The bias word and the image word of the three tracked values: DP, flow, supply temperature. -/
def biasWords : List (Nat × Nat × Nat) := [(0, 3, 6), (1, 4, 5), (2, 5, 3)]

/-- The three estimates of a node with EST_EN, while SUBST_EN publishes them: supply temperature, differential pressure, flow. -/
def State.nodeEst (s : State) (n : Nat) : State :=
  if s.tfld 0x2406 n 0 30 1 = 1 ∧ s.modelEn 4 then
    let st := s.tfld 0x240B n 6 0 8
    let est := fun (w : Nat × Nat × Nat) => (⟨ofInt (sint (s.trd 0x240B n w.1) + sint (s.trd 0x240B n w.2.1)), st⟩ : Item)
    s.rolePuts 1 n [est (2, 5, 3), est (0, 3, 6), est (1, 4, 5)]
  else s

/-- Updates the biases of one node and publishes its estimates. DESIGN CHOICE, safe: where the node's three values differ in quality,
BIAS_STATE shows the last of them, the supply temperature's, and it stays none for a node never tracked; unsafe: the first update of a
bias, which has no update before it, takes Δt as 0 and leaves the bias at 0 (log 132). -/
def State.nodeBias (s : State) (n : Nat) : State :=
  let s1 := biasWords.foldl (fun a w =>
    let it := s.nodeItem n w.2.2
    if qual it.st = GOOD then
      let key := n * 4 + w.1
      let dt := match a.model.biasAt.lookup key with
        | none => 0
        | some f => s.since f
      let b := biasStep (nmGet a.model.bias key n0) (nint (sint it.w)) (nint (sint (a.trd 0x240B n w.1))) dt
      (((a.modelMod (fun m => { m with bias := nmPut m.bias key b,
                                       biasAt := (key, s.fno) :: m.biasAt.filter (fun e => e.1 != key) })).twr 0x240B n w.2.1
        (ofInt (Config.numToInt b))).tset 0x240B n 6 8 2 1)
    else if a.tfld 0x240B n 6 8 2 = 1 then a.tset 0x240B n 6 8 2 2 else a) s
  s1.nodeEst n

/-- All nodes of circuit `c`, and MODEL_NODE_N. -/
def State.estimates (s : State) (c : Nat) : State :=
  let s1 := (s.ofCircuit 0x2406 c).foldl (fun a n => a.nodeBias n) s
  let all := s1.defined 0x2406 0
  let est := all.filter (fun n => s1.tfld 0x2406 n 0 30 1 == 1 && s1.tfld 0x240B n 6 0 8 == ESTIM)
  s1.wr 0x24078 (BitVec.ofNat 32 (est.length * 2 ^ 16 + all.length))

/-! ## Adaptation (R160) -/

/-- The segments on the path of the water that reaches a junction: back along the inflow segments and pump stations of a graph's
branches `bs`, at most `n` branches. -/
def State.pathBack (s : State) (bs : List Branch) : Nat → Nat → List Nat
  | 0, _ => []
  | n + 1, j =>
    match bs.find? (fun b =>
        let q := s.qOf b.kind b.idx
        (nlt n0 q && b.dst == j) || (nlt q n0 && b.frm == j)) with
    | none => []
    | some b =>
      let rest := s.pathBack bs n (if nlt n0 (s.qOf b.kind b.idx) then b.frm else b.dst)
      if b.kind = 0 then b.idx :: rest else rest

/-- An adaptation sum that has nothing. -/
def AdaptSum.zero : AdaptSum := ⟨0, 0, 0, 0, 0, 0, 0, 0⟩

/-- Adds a residual to the segments of a path, weighted by each segment's share of the modelled drop; `thermal` chooses the
temperature sums, otherwise the pressure sums. -/
def State.addResidual (s : State) (path : List Nat) (drop : Nat → Num) (r : Num) (thermal : Bool) : State :=
  let total := nsum (path.map drop)
  path.foldl (fun a i =>
    let x := (a.model.adapt.lookup i).getD .zero
    let w := ndiv (drop i) total
    let y := if thermal then
        { x with n := x.n + 1, w := nadd x.w w, wr := nadd x.wr (nmul w r), drop := nadd x.drop (drop i) }
      else { x with n2 := x.n2 + 1, w2 := nadd x.w2 w, wr2 := nadd x.wr2 (nmul w r), drop2 := nadd x.drop2 (drop i) }
    a.modelMod (fun m => { m with adapt := (i, y) :: m.adapt.filter (fun e => e.1 != i) })) s

/-- The key under which the sequence number of a node's last sampled report is kept. -/
def sampleKey (n : Nat) : Nat := inKey 7 n 0

/-- A node's report has not been sampled yet. -/
def State.newReport (s : State) (n : Nat) : Bool := s.model.last.lookup (sampleKey n) != some (s.nodeItem n 15).w

/-- Modelled temperature and pressure drops over a segment. -/
def State.segDrop (s : State) (i : Nat) : Num := nabs (nsub (s.segEndT i false) (s.segEndT i true))
def State.segDp (s : State) (c i : Nat) : Num := nabs (s.branchDp c ⟨0, i, 0, 0, false⟩ (s.qOf 0 i))

/-- The segments and pump stations of circuit `c`, by which water moves within a graph. -/
def State.pipes (s : State) (c : Nat) : List Branch := (s.branches c).filter (fun b => b.kind == 0 || b.kind == 4)

/-- Collects the residuals of one report of a node with a usable path: GOOD supply temperatures and GOOD differential pressures. -/
def State.collectNode (s : State) (c n : Nat) : State :=
  if s.tfld 0x240C n 0 15 1 = 1 || !usableSt (s.tfld 0x240C n 0 24 8) || !s.newReport n then s
  else
    let bs := s.pipes c
    let path := s.pathBack bs bs.length (s.recFrom 0x2406 n)
    let t := s.nodeItem n 3
    let p := s.nodeItem n 6
    let s1 := if qual t.st = GOOD then
        s.addResidual path s.segDrop (nrat (sint t.w - sint (s.trd 0x240B n 2)) 1000) true
      else s
    let s2 := if qual p.st = GOOD then s1.addResidual path (s.segDp c) (nint (sint p.w - sint (s.trd 0x240B n 0))) false else s1
    s2.keepIn (sampleKey n) (some (s.nodeItem n 15).w)

/-- Collects the residual of a usable P_MEAS of a junction. -/
def State.collectJunction (s : State) (c j : Nat) : State :=
  match s.vrefUsable (s.trd 0x2402 j 2) with
  | none => s
  | some w =>
    let bs := s.pipes c
    s.addResidual (s.pathBack bs bs.length j) (s.segDp c) (nint (sint w - sint (s.trd 0x240A j 0))) false

/-- Collects the residuals of circuit `c` while ADAPT_EN is 1 (R160). -/
def State.collect (s : State) (c : Nat) : State :=
  if !s.modelEn 3 then s
  else
    let s1 := (s.ofCircuit 0x2406 c).foldl (fun a n => a.collectNode c n) s
    (s.junctions c).foldl (fun a j => a.collectJunction c j) s1

/-- A factor after an update with mean error `e` and mean drop `d`; a positive error lowers it. -/
def State.factorNext (s : State) (old : Nat) (e d : Num) : Nat :=
  let lim := nrat (s.fld ⟨0x24064, 0, 8⟩) 1000
  let stp := nclamp (nneg lim) lim (ndiv (nmul (nrat (-1) 2) e) d)
  let v := Config.numToInt (nmul (nint old) (nadd n1 stp))
  (clampI (s.fld ⟨0x24064, 8, 12⟩) (s.fld ⟨0x24064, 20, 12⟩) v).toNat

/-- The factor reached a bound of MODEL_ADAPT_CFG. -/
def State.atBound (s : State) (v : Nat) : Bool := v == s.fld ⟨0x24064, 8, 12⟩ || v == s.fld ⟨0x24064, 20, 12⟩

/-- The hourly update of one segment. -/
def State.adaptSeg (s : State) (i : Nat) : State :=
  let x := (s.model.adapt.lookup i).getD .zero
  let u := if 600 ≤ x.n then s.factorNext (s.uFac i) (ndiv x.wr x.w) (ndiv x.drop (nint x.n)) else s.uFac i
  let r := if 600 ≤ x.n2 then s.factorNext (s.rFac i) (ndiv x.wr2 x.w2) (ndiv x.drop2 (nint x.n2)) else s.rFac i
  let s1 := (s.tset 0x2409 i 3 12 12 u).tset 0x2409 i 3 0 12 r
  let s2 := s1.modelMod (fun m => { m with adapt := m.adapt.filter (fun e => e.1 != i) })
  if (600 ≤ x.n && s.atBound u) || (600 ≤ x.n2 && s.atBound r) then s2.raiseEv 0x24 8 else s2

/-- The hour's sums of a circuit are over. -/
def State.dropSums (s : State) (c : Nat) : State :=
  let segs := s.ofCircuit 0x2401 c
  s.modelMod (fun m => { m with adapt := m.adapt.filter (fun e => !segs.contains e.1) })

/-- The first MODEL_HYD of the circuit after a TAI hour boundary updates its factors while ADAPT_EN is 1; the hour's sums end with it. -/
def State.hourly (s : State) (c : Nat) : State :=
  let h := s.nowSec / 3600 + 1
  if s.model.hour.getD c 0 = h then s
  else
    let s1 := s.modelMod (fun m => { m with hour := setAt m.hour c h })
    if s.modelEn 3 && s.model.hour.getD c 0 != 0 then
      (((s.ofCircuit 0x2401 c).foldl (fun a i => a.adaptSeg i) s1).wr 0x24068 (lo32 s.nowSec)).dropSums c
    else s1.dropSums c

/-! ## Table operations at the end of a model op (R140) -/

/-- MODEL_WIN_STAT: the table operations outstanding (R161). -/
def State.modelWin (s : State) : State :=
  s.setF ⟨0x2406C, 0, 3⟩ (s.host.xferQ.filter (fun q => q.op.xferPage == 0x24)).length

/-- A TABLE_WRITE of the MODEL page (R86, R92): the active copy refuses it; the inactive copy loses VERIFIED. -/
def modelTableWrite (tid idx : Nat) (ws : List Word) (s : State) : State × Status :=
  match tableInfo tid with
  | none => (s, .badTable)
  | some t => if idx < 2 ^ 23 then (s, .refused) else ((s.writeRecord t idx ws).bankWritten modelBank, .ok)

/-- The transfers of one model op: up to 1,024 words. -/
def State.modelXfer (s : State) : State := s.serveXfer 0x24 1024

/-- A model op of circuit `c`: `f` when its function and the circuit are enabled, then the transfers. -/
def State.modelOp (s : State) (op arg : Nat) (on : Bool) (f : State → State) : State :=
  s.entry op 0x01 (·.has arg) (fun s => (if on then f s else s).modelXfer)

/-! ## MODEL_HYD (R142, R143) -/

/-- A converged solve replaces the circuit's pressures and flows; a failed one leaves them, STALE. -/
def State.hydEnd (s : State) (c : Nat) (r : HydRes) : State :=
  let maxF := Config.numToInt (nmul r.maxF (nint 1000000))
  let s1 := (s.setF ⟨mreg c 0, 0, 4⟩ r.iter).wr (mreg c 0x30) (ofInt (clampI 0 (2 ^ 32 - 1) maxF))
  if r.conv then
    let s2 := s1.modelMod (fun m => { m with
      press := r.press ++ m.press.filter (fun e => !(r.press.any (fun x => x.1 == e.1))),
      flow := r.flows.map (fun f => (f.1.key, f.2.1)) ++ m.flow.filter (fun e => !(r.flows.any (fun x => x.1.key == e.1))),
      initQ := setAt m.initQ c false })
    (((s2.setF (bitAt (mreg c 0) 5) 1).setF (bitAt (mreg c 0) 6) 0).setF (bitAt 0x24048 (12 + c)) 0).bump (.MODEL_C_SOLVE c)
  else
    let was := s.bit (bitAt (mreg c 0) 6)
    let s2 := ((s1.setF (bitAt (mreg c 0) 6) 1).setF (bitAt 0x24048 (12 + c)) 1).bump (.MODEL_C_NOCONV c)
    if was then s2 else s2.raiseEv 0x24 0

/-- The work of MODEL_HYD. -/
def modelHydRun (c : Nat) (s : State) : State :=
  let s1 := (s.readInputs c).hourly c
  let s2 := s1.hydEnd c (s1.hydSolve c)
  let s3 := (s2.putResults c).critDp c
  (s3.collect c).estimates c

/-- MODEL_HYD (R142): bits 1..0 name the circuit. -/
def execModelHyd (arg : Nat) (s : State) : Out :=
  .next (s.modelOp 0x30 arg (s.modelEn 0 && s.circuitOn (arg % 4)) (modelHydRun (arg % 4)))

/-! ## Thermal transport (R144 to R147) -/

/-- The volume of a list of parcels. -/
def parcelVol (l : List Parcel) : Num := nsum (l.map (·.vol))

/-- The mean temperature of volumes of water, or `d` for none. -/
def mixT (l : List Parcel) (d : Num) : Num :=
  if l.isEmpty then d else ndiv (nsum (l.map (fun p => nmul p.vol p.temp))) (parcelVol l)

/-- Takes volume `v` from the head of a list of parcels: what came out, and what stays. -/
def takeVol : List Parcel → Num → List Parcel × List Parcel
  | [], _ => ([], [])
  | p :: l, v =>
    if nle v n0 then ([], p :: l)
    else if nle p.vol v then
      let r := takeVol l (nsub v p.vol)
      (p :: r.1, r.2)
    else ([⟨v, p.temp⟩], ⟨nsub p.vol v, p.temp⟩ :: l)

/-- The parcels of a segment from its downstream end. -/
def State.downFirst (s : State) (i : Nat) : List Parcel :=
  let l := (s.model.parcels.lookup i).getD []
  if nlt n0 (s.qOf 0 i) then l.reverse else l

/-- Stores a segment's parcels given from the downstream end. -/
def State.putParcels (s : State) (i : Nat) (l : List Parcel) : State :=
  let l' := if nlt n0 (s.qOf 0 i) then l.reverse else l
  s.modelMod (fun m => { m with parcels := (i, l') :: m.parcels.filter (fun e => e.1 != i) })

/-- The start of R147: one parcel at the mean usable source outlet temperature on the supply graph, at the mean usable return
temperature of the attached nodes on the return graph, a free value where none has ever been usable (log 133); unflushed. -/
def State.restartSeg (s : State) (c i : Nat) : State :=
  let l := if s.isReturn 0x2401 i then
      (s.ofCircuit 0x2406 c).filterMap (fun n => s.model.last.lookup (inKey 6 n 1))
    else (s.ofCircuit 0x2404 c).filterMap (fun k => s.model.last.lookup (inKey 3 k 1))
  let t := if l.isEmpty then Config.segStart i else ndiv (nsum (l.map (fun w => nrat (sint w) 1000))) (nint l.length)
  (s.putParcels i [⟨s.segVol i, t⟩]).modelMod (fun m => { m with
    entered := (i, n0) :: m.entered.filter (fun e => e.1 != i) })

/-- Segments of the circuit that hold no parcel yet start under R147. -/
def State.startSegs (s : State) (c : Nat) : State :=
  (s.ofCircuit 0x2401 c).foldl (fun a i => if (a.model.parcels.lookup i).isNone then a.restartSeg c i else a) s

/-- The flow of a branch in its own direction: upstream and downstream junction, and its magnitude. -/
def State.upDown (s : State) (b : Branch) : Nat × Nat × Num :=
  let q := nmGet s.model.flow b.key n0
  if nle n0 q then (b.frm, b.dst, q) else (b.dst, b.frm, nabs q)

/-- Segments whose flow transports heat: |q| at least Q_STAG (R131). -/
def State.carries (s : State) (c : Nat) (b : Branch) : Bool := nle (s.par 0x2400 c 7) (nabs (nmGet s.model.flow b.key n0))

/-- Junctions in the order of flow: those all of whose inflow comes from junctions already placed, round by round; the
junctions of a loop of flow keep their order of number at the end. -/
def flowOrder (edges : List (Nat × Nat)) : Nat → List Nat → List Nat → List Nat
  | 0, done, rest => done ++ rest
  | n + 1, done, rest =>
    let ready := rest.filter (fun j => edges.all (fun e => e.2 != j || done.contains e.1 || e.1 == j))
    if ready.isEmpty then done ++ rest
    else flowOrder edges n (done ++ ready) (rest.filter (fun j => !ready.contains j))

/-- Water that enters junction `j` by a branch in a step of `dt` seconds (R145); `outs` gives outlet temperatures of sources that a
prediction moves. -/
def State.enters (s : State) (c : Nat) (dt : Num) (outs : NumMap) (j : Nat) (b : Branch) : List Parcel :=
  let ud := s.upDown b
  if ud.2.1 ≠ j then []
  else if b.kind = 0 then
    if s.carries c b then
      let v := nmul ud.2.2 dt
      let got := takeVol (s.downFirst b.idx) v
      let short := nsub v (parcelVol got.1)
      if nlt n0 short && got.2.isEmpty then got.1 ++ [⟨short, s.jTemp ud.1⟩] else got.1
    else []
  else if b.kind = 1 then [⟨nmul ud.2.2 dt, s.inVal (inKey 6 b.idx 1) 1000 (s.jTemp j)⟩]
  else if b.kind = 2 then [⟨nmul ud.2.2 dt, nmGet outs b.idx (s.inVal (inKey 3 b.idx 1) 1000 (s.jTemp j))⟩]
  else if b.kind = 3 then
    [⟨nmul ud.2.2 dt, s.inVal (inKey 4 b.idx (if j = b.frm then 2 else 3)) 1000 (s.jTemp j)⟩]
  else [⟨nmul ud.2.2 dt, s.jTemp ud.1⟩]

/-- Advances one junction: its temperature is the mean of all water that enters; unchanged if none enters. -/
def State.thmJunction (s : State) (c : Nat) (dt : Num) (outs : NumMap) (bs : List Branch) (j : Nat) : State :=
  let l := (bs.flatMap (s.enters c dt outs j)).filter (fun p => nlt n0 p.vol)
  let fromInit := bs.any (fun b => b.kind == 0 && (s.upDown b).2.1 == j && s.carries c b && s.unflushed b.idx)
    || bs.any (fun b => b.kind == 4 && (s.upDown b).2.1 == j && s.model.jinit.contains (s.upDown b).1)
  if l.isEmpty then s
  else s.modelMod (fun m => { m with
    jtemp := nmPut m.jtemp j (mixT l (s.jTemp j)),
    jinit := if fromInit then j :: m.jinit.filter (· != j) else m.jinit.filter (· != j) })

/-- The parcels in use over all segments: every defined segment holds at least one (R146), which a segment that waits for its start will
have. -/
def State.parcelUse (s : State) : Nat :=
  s.model.parcels.foldl (fun n e => n + max 1 e.2.length) 0
    + ((s.defined 0x2401 0).filter (fun i => (s.model.parcels.lookup i).isNone)).length

/-- The first pair of neighbours with the smallest temperature difference: its position and that difference. -/
def closestPair : List Parcel → Nat → Option (Nat × Num)
  | p :: q :: l, i =>
    let d := nabs (nsub p.temp q.temp)
    match closestPair (q :: l) (i + 1) with
    | none => some (i, d)
    | some r => if nlt r.2 d then some r else some (i, d)
  | _, _ => none

/-- Merges the parcels at positions `i` and `i + 1`. -/
def mergeAt : List Parcel → Nat → List Parcel
  | p :: q :: l, 0 => ⟨nadd p.vol q.vol, mixT [p, q] p.temp⟩ :: l
  | p :: l, i + 1 => p :: mergeAt l i
  | l, _ => l

/-- A forced merge is counted, and PARCEL_FULL raised once in a hyperframe (R146). -/
def State.forcedMerge (s : State) : State :=
  let s1 := s.bump .MODEL_PARCEL_FORCED
  if s1.model.fullHf then s1 else (s1.modelMod (fun m => { m with fullHf := true })).raiseEv 0x24 2

/-- Pushes a parcel at the upstream end of segment `i`, its parcels given from the downstream end (R146). DESIGN CHOICE, unsafe: the
positions of R146, of which the lowest wins a tie, count from the upstream end (log 134). -/
def State.pushParcel (s : State) (i : Nat) (l : List Parcel) (p : Parcel) : State :=
  match l.getLast? with
  | some u =>
    if nle (nabs (nsub p.temp u.temp)) (nrat (s.fld ⟨0x2405C, 0, 16⟩) 1000) then
      s.putParcels i (l.dropLast ++ [⟨nadd u.vol p.vol, mixT [u, p] u.temp⟩])
    else if 262144 ≤ s.parcelUse then
      match closestPair l.reverse 0 with
      | some (k, _) => (s.putParcels i ((mergeAt l.reverse k).reverse ++ [p])).forcedMerge
      | none => (s.putParcels i (l.dropLast ++ [⟨nadd u.vol p.vol, mixT [u, p] u.temp⟩])).forcedMerge
    else s.putParcels i (l ++ [p])
  | none => s.putParcels i [⟨s.segVol i, p.temp⟩]

/-- Takes a step's outflow out of a segment at its downstream end (R144). -/
def State.drainSegment (s : State) (c : Nat) (dt : Num) (b : Branch) : State :=
  if s.carries c b then s.putParcels b.idx (takeVol (s.downFirst b.idx) (nmul (s.upDown b).2.2 dt)).2 else s

/-- Pushes a step's inflow into a segment at the temperature of its upstream junction; one that the step emptied takes it whole (R144,
R145). -/
def State.fillSegment (s : State) (c : Nat) (dt : Num) (b : Branch) : State :=
  let ud := s.upDown b
  let i := b.idx
  let v := nmul ud.2.2 dt
  if s.carries c b then
    let a := s.pushParcel i (s.downFirst i) ⟨v, s.jTemp ud.1⟩
    match a.model.entered.lookup i with
    | none => a
    | some e =>
      let e1 := nadd e v
      a.modelMod (fun m => { m with
        entered := if nle (s.segVol i) e1 then m.entered.filter (fun x => x.1 != i) else nmPut m.entered i e1 })
  else s

/-- Every parcel of a segment loses heat to the ground (R144). -/
def State.coolSegment (s : State) (c : Nat) (dt : Num) (i : Nat) : State :=
  let tg := s.groundT i
  let f := Config.numExp (nneg (ndiv (nmul (nmul (s.par 0x2401 i 4) (nrat (s.uFac i) 1000)) dt)
    (nmul (s.par 0x2400 c 5) (s.segArea i))))
  s.modelMod (fun m => { m with parcels := m.parcels.map (fun e =>
    if e.1 = i then (i, e.2.map (fun p => { p with temp := nadd tg (nmul (nsub p.temp tg) f) })) else e) })

/-- The segments of circuit `c`, as branches. -/
def State.segsOf (s : State) (c : Nat) : List Branch := (s.branches c).filter (fun b => b.kind == 0)

/-- Moves the water of circuit `c` by `dt` seconds (R144): the outflow of every segment, the junctions in the order of flow, then the
inflow of every segment. -/
def State.thmMove (s : State) (c : Nat) (dt : Num) (outs : NumMap) : State :=
  let bs := s.branches c
  let edges := (s.pipes c).map (fun b => ((s.upDown b).1, (s.upDown b).2.1))
  let order := flowOrder edges (s.junctions c).length [] (s.junctions c)
  let s1 := order.foldl (fun a j => a.thmJunction c dt outs bs j) s
  (s.segsOf c).foldl (fun a b => a.fillSegment c dt b) ((s.segsOf c).foldl (fun a b => a.drainSegment c dt b) s1)

/-- Cools every segment of circuit `c` over `dt` seconds. -/
def State.thmCool (s : State) (c : Nat) (dt : Num) : State := (s.segsOf c).foldl (fun a b => a.coolSegment c dt b.idx) s

/-- The heat of a circuit's parcels above 0 °C. -/
def State.heatOf (s : State) (c : Nat) (segs : List Nat) : Num :=
  nmul (s.par 0x2400 c 5) (nsum (segs.flatMap (fun i =>
    ((s.model.parcels.lookup i).getD []).map (fun p => nmul p.vol p.temp))))

/-! ## Mass balance (R157, R158) -/

/-- A GOOD measured flow in m³/s, or the model's. -/
def goodFlow (it : Option Item) (model : Num) : Num :=
  match it with
  | some i => if qual i.st = GOOD then nrat (sint i.w) 1000000 else model
  | none => model

/-- Density of water at a temperature, at the 1.6 MPa of R333. -/
def rhoAt (t : Num) : Num := Config.waterRho t (nint 1600000)

/-- B of R157, in kg/s. -/
def State.balance (s : State) (c : Nat) : Num :=
  let src := (s.ofCircuit 0x2404 c).map (fun i =>
    let q := goodFlow (s.vref (s.trd 0x2404 i 2)) (s.qOf 2 i)
    nmul q (rhoAt (s.inVal (inKey 3 i 1) 1000 (s.jTemp (s.recTo 0x2404 i)))))
  let sto := (s.ofCircuit 0x2405 c).map (fun i =>
    let q := goodFlow (s.vref (s.trd 0x2405 i 1)) (s.qOf 3 i)
    let t := if nle n0 q then s.jTemp (s.recFrom 0x2405 i)
      else s.inVal (inKey 4 i 2) 1000 (s.jTemp (s.recFrom 0x2405 i))
    nneg (nmul q (rhoAt t)))
  let sub := (s.ofCircuit 0x2406 c).map (fun n =>
    let it := s.nodeItem n 5
    let q := goodFlow (if s.tfld 0x1201 n 0 0 3 = 4 then none else some it) (s.qOf 1 n)
    nneg (nmul q (rhoAt (s.jTemp (s.recFrom 0x2406 n)))))
  nadd (nsum src) (nadd (nsum sto) (nsum sub))

/-- Adds B to the 60 s of circuit `c`: MODEL_C_LEAK_RES_c in g/s, item 2 of the model values in kg/s, and the frames since
which the mean has been above LEAK_THR, or not above it. -/
def State.addBalance (s : State) (c : Nat) : State :=
  let l := ((s.fno, s.balance c) :: (s.model.bal.getD c [])).filter (fun e => decide (s.since e.1 ≤ 60000))
  let mean := ndiv (nsum (l.map (·.2))) (nint l.length)
  let g := Config.numToInt (nmul mean (nint 1000))
  let leaks := decide ((s.fld ⟨mreg c 0x24, 0, 16⟩ : Int) < g)
  let mark := fun (on : Bool) (o : Option Nat) => if on then some (o.getD s.fno) else none
  let s1 := s.modelMod (fun m => { m with
    bal := setAt m.bal c l, above := setAt m.above c (mark leaks (m.above.getD c none)),
    below := setAt m.below c (mark (!leaks) (m.below.getD c none)) })
  (s1.wr (mreg c 0x20) (ofInt g)).fwPuts 1 (s.roleMbx 0) (s.roleItem 0 c + 2) [⟨Config.numToF32 mean, s.hydQ c⟩]

/-- LEAK_DETECT (R158): the mean has stayed above LEAK_THR, or not above it, for LEAK_TIME. -/
def execLeakDetect (c : Nat) (s : State) : Out :=
  let held := fun (o : Option Nat) => match o with
    | none => false
    | some f => decide (s.fld ⟨mreg c 0x24, 16, 16⟩ * 1000 ≤ s.since f)
  let was := s.bit (bitAt (mreg c 0) 7)
  .next <|
    if 4 ≤ c then s
    else if held (s.model.above.getD c none) && !was then
      ((s.setF (bitAt (mreg c 0) 7) 1).setF (bitAt 0x24048 (16 + c)) 1).raiseEv 0x24 1
    else if held (s.model.below.getD c none) && was then (s.setF (bitAt (mreg c 0) 7) 0).setF (bitAt 0x24048 (16 + c)) 0
    else s

/-- MODEL_PARCEL_USE and MODEL_PARCEL_HWM. -/
def State.parcelRegs (s : State) : State :=
  let n := s.parcelUse
  let s1 := s.setF ⟨0x24050, 0, 19⟩ n
  if s.fld ⟨0x24054, 0, 19⟩ < n then s1.setF ⟨0x24054, 0, 19⟩ n else s1

/-- The work of MODEL_THM: nothing before the circuit's first converged solve. The first step, which has none before it, takes a free
number of ms up to 1,000 (log 135). -/
def modelThmRun (c : Nat) (s : State) : State :=
  if !s.everConv c then s
  else
    let dtMs := match s.model.thmAt.getD c none with
      | none => (Config.thmFirst c).val
      | some f => min (s.since f) 1000
    let dt := nrat dtMs 1000
    let moved := ((s.readInputs c).startSegs c).thmMove c dt []
    let s3 := moved.thmCool c dt
    let segs := (s.segsOf c).map (·.idx)
    let loss := nsub (moved.heatOf c segs) (s3.heatOf c segs)
    let s4 := s3.modelMod (fun m => { m with thmAt := setAt m.thmAt c (some s.fno) })
    let s5 := if dtMs = 0 then s4 else s4.wr (mreg c 0x34) (ofInt (Config.numToInt (ndiv loss dt)))
    (((s5.parcelRegs).putResults c).addBalance c).estimates c

/-- MODEL_THM (R144). -/
def execModelThm (arg : Nat) (s : State) : Out :=
  .next (s.modelOp 0x31 arg (s.modelEn 1 && s.circuitOn (arg % 4)) (modelThmRun (arg % 4)))

/-! ## The arrival table (R152 to R156) -/

/-- Share and age at the supply-graph junctions, in the order of flow from the origin. -/
def State.shareAge (s : State) (c origin : Nat) : NumMap × NumMap :=
  let bs := (s.branches c).filter (fun b => (b.kind == 0 && !s.isReturn 0x2401 b.idx && s.carries c b) || b.kind == 4)
  let js := (s.junctions c).filter (fun j => !s.isReturn 0x2402 j)
  let other := (s.branches c).filter (fun b => b.kind == 1 || b.kind == 2 || b.kind == 3)
  let order := flowOrder (bs.map (fun b => ((s.upDown b).1, (s.upDown b).2.1))) js.length [] js
  order.foldl (fun (m : NumMap × NumMap) j =>
    if j = origin then (nmPut m.1 j n1, nmPut m.2 j n0)
    else
      let inb := bs.filter (fun b => (s.upDown b).2.1 == j)
      let extra := nsum ((other.filter (fun b => (s.upDown b).2.1 == j)).map (fun b => (s.upDown b).2.2))
      let q := nadd (nsum (inb.map (fun b => (s.upDown b).2.2))) extra
      let w := nsum (inb.map (fun b => nmul (s.upDown b).2.2 (nmGet m.1 (s.upDown b).1 n0)))
      let aged := nsum (inb.map (fun b =>
        let u := s.upDown b
        let res := if b.kind = 4 then n0 else ndiv (s.segVol b.idx) u.2.2
        nmul (nmul u.2.2 (nmGet m.1 u.1 n0)) (nadd (nmGet m.2 u.1 n0) res)))
      if nle q n0 then m
      else (nmPut m.1 j (ndiv w q), if nlt n0 w then nmPut m.2 j (ndiv aged w) else m.2)) ([], [])

/-- Junctions that lie on, or downstream of, a closed loop of flow of the supply graph (R153). -/
def State.cyclic (s : State) (c : Nat) : List Nat :=
  let bs := (s.branches c).filter (fun b => (b.kind == 0 && !s.isReturn 0x2401 b.idx && s.carries c b) || b.kind == 4)
  let edges := bs.map (fun b => ((s.upDown b).1, (s.upDown b).2.1))
  let js := (s.junctions c).filter (fun j => !s.isReturn 0x2402 j)
  (List.range js.length).foldl (fun rest _ =>
    rest.filter (fun j => edges.any (fun e => e.2 == j && rest.contains e.1))) js

/-- A part is STALE: not refreshed in the last 1,000 frames, or ARR_EN is 0 (R156). -/
def State.partStale (s : State) (p : Nat) : Bool :=
  !s.modelEn 2 || (match s.model.arrAt.getD p none with
    | none => true
    | some f => decide (1000 < s.since f))

/-! ## The predicted profile (R154) -/

/-- The words of a plan record at the plan's current step and the next: steps 0 and 1 of the plan slice (R37, R188). -/
def State.planStep (s : State) (q a j : Nat) : Word :=
  s.trd 0x250D (q * 256 + a) (4 + min 191 (s.fld ⟨0x25088, 0, 8⟩ + j))

/-- Substeps of a predicted minute: R154 leaves the number open. -/
def predSub : Nat := Config.predictSub + 1

/-- The supply temperature that the plan slice gives circuit `c`, `i` substeps after the refresh frame's tick; past the slice's two
steps R154 gives none. -/
def State.planTsup (s : State) (c i : Nat) : Num :=
  let now := s.nowSec * 1000000000 + s.nowNs
  let after := fun (k : Nat) =>
    decide (((s.rd 0x25074).toNat + 900 * (s.fld ⟨0x25088, 0, 8⟩ + k)) * 1000000000 * predSub ≤ now * predSub + i * 60000000000)
  if after 2 then Config.beyondSlice c s.free
  else nrat (sint (s.planStep 11 c (if after 1 then 1 else 0))) 1000

/-- The outlet of each source with a usable T_OUT after one more substep: towards its target at RAMP. The target is the plan's supply
temperature with PLAN_EN 1 and a plan in force, otherwise the T_OUT of the refresh. -/
def State.outletStep (s : State) (c i : Nat) (outs : NumMap) : NumMap :=
  (s.ofCircuit 0x2404 c).foldl (fun m k =>
    match s.model.last.lookup (inKey 3 k 1) with
    | none => m
    | some w =>
      let cur := nmGet outs k (nrat (sint w) 1000)
      let goal := if s.tfld 0x2404 k 5 31 1 = 1 ∧ s.bit (bitAt 0x25048 8) then s.planTsup c i else nrat (sint w) 1000
      let d := ndiv (nmul (s.par 0x2404 k 4) (nint 60)) (nint predSub)
      nmPut m k (if nle cur goal then nmin goal (nadd cur d) else nmax goal (nsub cur d))) outs

/-- The junction temperatures of circuit `c` after each of the next substeps, with flows and return temperatures held. -/
def State.predict (s : State) (c : Nat) : Nat → Nat → NumMap → List NumMap
  | 0, _, _ => []
  | n + 1, i, outs =>
    let outs1 := s.outletStep c i outs
    let dt := ndiv (nint 60) (nint predSub)
    let s1 := (s.thmMove c dt outs1).thmCool c dt
    s1.model.jtemp :: s1.predict c n (i + 1) outs1

/-- Bin `k` of the profile at a junction: the mean over its minute. -/
def profileBin (pred : List NumMap) (j k : Nat) (now : Num) : Num :=
  ndiv (nsum (((pred.drop (k * predSub)).take predSub).map (fun m => nmGet m j now))) (nint predSub)

/-- The status of a refreshed arrival record. -/
def State.arrStatus (s : State) (n : Nat) : Nat :=
  let c := s.tfld 0x2406 n 0 28 2
  max (s.hydQ c) (s.thmQ c (s.recFrom 0x2406 n))

/-- The items DELAY_S and SHARE of a node's arrival record. -/
def State.arrItems (s : State) (n : Nat) : State :=
  let st := s.tfld 0x240C n 0 24 8
  s.rolePuts 2 n [⟨s.trd 0x240C n 1, st⟩, ⟨BitVec.ofNat 32 (s.tfld 0x240C n 0 0 10), st⟩]

/-- One arrival record and its items. The share of a node on or downstream of a loop, where R152 has no order of flow, is a free value
(log 136). -/
def State.arrRecord (s : State) (n : Nat) (sa : NumMap × NumMap) (cyc : List Nat) (pred : List NumMap) : State :=
  let j := s.recFrom 0x2406 n
  let onCyc := cyc.contains j
  let share := (clampI 0 1000 (Config.numToInt (nmul (nmGet sa.1 j n0) (nint 1000)))).toNat
  let noPath := onCyc || decide (share < 10)
  let st := s.arrStatus n
  let shown := if onCyc then (Config.loopShare (2048 * s.free + n)).val else share
  let delay : Word := if noPath then 0xFFFFFFFF#32 else ofInt (Config.numToInt (nmGet sa.2 j n0))
  let s1 := ((((s.twr 0x240C n 0 (BitVec.ofNat 32
      (st * 2 ^ 24 + b2n noPath * 2 ^ 15 + b2n onCyc * 2 ^ 14 + shown))).twr 0x240C n 1 delay).twr 0x240C n 2
        (lo32 s.nowSec)).twr 0x240C n 3 (lo32 s.nowNs))
  let s2 := (List.range 30).foldl (fun a k => a.twr 0x240C n (4 + k) (mC (profileBin pred j k (s.jTemp j)))) s1
  s2.arrItems n

/-- The attached nodes of part `p`. -/
def State.partNodes (s : State) (p : Nat) : List Nat := (s.defined 0x2406 0).filter (fun n => s.tfld 0x2406 n 1 28 4 == p)

/-- The work of MODEL_ARR for part `p`, with the inputs as the front buffers hold them: ARR_CYCLE once if a loop is found. The part is
refreshed unless every circuit of its nodes still waits for its first converged solve. -/
def modelArrRun (p : Nat) (s : State) : State :=
  let nodes := s.partNodes p
  let r := [0, 1, 2, 3].foldl (fun (a : State × Bool × Bool) c =>
    let mine := nodes.filter (fun n => s.tfld 0x2406 n 0 28 2 == c)
    if mine.isEmpty || !s.everConv c then a
    else
      let b := a.1.readInputs c
      let sa := b.shareAge c (b.recTo 0x2404 (b.tfld 0x2400 c 0 13 6))
      let cyc := b.cyclic c
      let pred := b.predict c (30 * predSub) 0 []
      (mine.foldl (fun x n => x.arrRecord n sa cyc pred) b, a.2.1 || !cyc.isEmpty, true)) (s, false, nodes.isEmpty)
  let s1 := r.1.useFree
  let s2 := if r.2.2 then
      (s1.modelMod (fun m => { m with arrAt := setAt m.arrAt p (some s.fno) })).setF (bitAt 0x24060 (16 + p)) 0
    else s1
  if r.2.1 then s2.raiseEv 0x24 7 else s2

/-- MODEL_ARR (R152): bits 3..0 name the part. -/
def execModelArr (arg : Nat) (s : State) : Out :=
  .next (s.modelOp 0x32 arg (s.modelEn 2 && s.arrBud (arg % 16) != 0) (modelArrRun (arg % 16)))

/-- The quality of an arrival record whose part is stale: INIT until its circuit has results (R148), STALE from then on (R156). -/
def State.arrStaleQ (s : State) (n st : Nat) : Nat :=
  withQual st (if s.hydQ (s.tfld 0x2406 n 0 28 2) = INITQ then INITQ else STALEQ)

/-- A part whose refresh has lapsed, or has come to count again: its bit of MODEL_ARR_STAT, its records and their items (R156). -/
def State.arrQual (s : State) (p : Nat) : State :=
  let stale := s.partStale p
  (s.partNodes p).foldl (fun a n =>
    let st := if stale then a.arrStaleQ n (a.tfld 0x240C n 0 24 8) else a.arrStatus n
    (a.tset 0x240C n 0 24 8 st).arrItems n) (s.setF (bitAt 0x24060 (16 + p)) (b2n stale))

/-- ARR_PART_STALE (R156): the part's bit, and quality STALE on its records and items. -/
def execArrPartStale (part : Nat) (s : State) : Out :=
  .next (if 16 ≤ part || !s.partStale part then s else s.arrQual part)

/-! ## Quality apart from the model ops (R139, R148, R156, R161) -/

/-- The status of the critical value of circuit `c` as HYD_EN and INIT leave it, in its register and its items. -/
def State.critQual (s : State) (c : Nat) : State :=
  let st := s.fld ⟨mreg c 0x1C, 16, 8⟩
  let q := if s.hydQ c = INITQ then withQual st INITQ else if !s.modelEn 0 then staleSt st else st
  (s.setF ⟨mreg c 0x1C, 16, 8⟩ q).rolePuts 0 c
    [⟨Config.numToF32 (nint (sint (s.rd (mreg c 0x18)))), q⟩, ⟨BitVec.ofNat 32 (s.fld ⟨mreg c 0x1C, 0, 11⟩), q⟩]

/-- The results of circuit `c`, its critical value and its estimates take the quality that they now have. -/
def State.modelQual (s : State) (c : Nat) : State :=
  let s1 := (s.putResults c).critQual c
  (s1.ofCircuit 0x2406 c).foldl (fun a n => a.nodeEst n) s1

/-- HYD_EN or THM_EN has changed: the results of every circuit that is defined show it (R148). -/
def State.modelEnChanged (s : State) : State := ((List.range 4).filter s.circuitOn).foldl (fun a c => a.modelQual c) s

/-- ARR_EN has changed: every part's refresh counts again, or none does (R156). -/
def State.arrEnChanged (s : State) : State := (List.range 16).foldl (fun a p => a.arrQual p) s

/-! ## Commands and the bank (R137 to R139, R147, R160) -/

/-- Every segment starts again at its next step (R147). -/
def parcelReset (s : State) : State := (s.modelMod (fun m => { m with parcels := [], entered := [] })).parcelRegs

/-- MODEL_CMD.PARCEL_RESET. -/
def execParcelReset (s : State) : Out := .next (parcelReset s)

/-- The factors of a segment return to U_FAC0 and R_FAC0. -/
def State.facReset (s : State) (i : Nat) : State :=
  (s.tset 0x2409 i 3 12 12 (s.tfld 0x2401 i 7 16 12)).tset 0x2409 i 3 0 12 (s.tfld 0x2401 i 7 0 12)

/-- MODEL_CMD.ADAPT_RESET (R160). -/
def adaptReset (s : State) : State :=
  (s.defined 0x2401 0).foldl (fun a i => a.facReset i) (s.modelMod (fun m => { m with adapt := [] }))

def execAdaptReset (s : State) : Out := .next (adaptReset s)

/-- MODEL_CMD.VERIFY, SWITCH, CANCEL (R137). -/
def execModelVerify (s : State) : Out := .next (s.bankVerify modelBank).1
def execModelSwitch (s : State) : Out := .next (s.bankSwitch modelBank).1
def execModelCancel (s : State) : Out := .next (s.bankCancel modelBank)

/-- A positive binary32. -/
def f32Pos (w : Word) : Bool := nlt n0 (nf32 w)

/-- Code 1 of R137 for a record of the bank: the ranges of R132, R133 and R136. -/
def State.mRange (s : State) (tid i : Nat) : Bool :=
  if tid = 0x2401 then
    decide (s.tfld tid i 1 4 4 ≤ 5) && f32Pos (s.trd tid i 2) && f32Pos (s.trd tid i 3)
      && s.tfld tid i 7 16 12 != 0 && s.tfld tid i 7 0 12 != 0
  else if tid = 0x2406 then
    f32Pos (s.trd tid i 3) && decide (s.tfld tid i 4 30 2 ≤ 1)
      && (s.tfld tid i 4 30 2 != 1 || nlt n1 (nf32 (s.trd tid i 5)))
  else true

/-- The junction is defined in the inactive bank, in a circuit and a graph. -/
def State.juncIn (s : State) (j c : Nat) (ret : Bool) : Bool :=
  s.tfld 0x2402 (inact j) 0 31 1 == 1 && s.tfld 0x2402 (inact j) 0 28 2 == c && (s.tfld 0x2402 (inact j) 0 30 1 == b2n ret)

/-- Code 2 of R137: the junctions of a record are of its own circuit and of the right graphs, its circuit is defined, and an
attached node's part is defined. -/
def State.mXref (s : State) (tid i : Nat) : Bool :=
  let x := inact i
  let c := s.tfld tid x 0 28 2
  let a := s.tfld tid x 0 13 13
  let b := s.tfld tid x 0 0 13
  let circ := s.tfld 0x2400 (inact c) 0 31 1 == 1
  if tid = 0x2401 then
    let ret := s.tfld tid x 0 30 1 == 1
    circ && s.juncIn a c ret && s.juncIn b c ret
  else if tid = 0x2402 then circ
  else if tid = 0x2404 then circ && s.juncIn a c true && s.juncIn b c false
  else if tid = 0x2405 then circ && s.juncIn a c false && s.juncIn b c true
  else if tid = 0x2406 then circ && s.juncIn a c false && s.juncIn b c true && s.arrBud (s.tfld tid x 1 28 4) != 0
  else if tid = 0x2403 then
    circ && ((s.juncIn a c false && s.juncIn b c false) || (s.juncIn a c true && s.juncIn b c true))
  else true

/-- Code 3: REF_JUNC and REF_SRC of a circuit are defined in it. -/
def State.mRef (s : State) (c : Nat) : Bool :=
  let j := s.tfld 0x2400 (inact c) 0 0 13
  let r := s.tfld 0x2400 (inact c) 0 13 6
  (s.juncIn j c false || s.juncIn j c true) && s.tfld 0x2404 (inact r) 0 31 1 == 1 && s.tfld 0x2404 (inact r) 0 28 2 == c

/-- The pairs of junctions that branches of the inactive bank join, other than imposed flows. -/
def State.mEdges (s : State) (c : Nat) : List (Nat × Nat) :=
  [0x2401, 0x2406, 0x2404, 0x2403].flatMap (fun tid =>
    ((s.defined tid 1).filter (fun i => s.tfld tid (inact i) 0 28 2 == c
      && !(tid == 0x2404 && s.tfld tid (inact i) 0 30 1 == 1))).map (fun i =>
        (s.tfld tid (inact i) 0 13 13, s.tfld tid (inact i) 0 0 13)))

/-- Junctions reached from a set over edges, at most `n` rounds. -/
def reach (edges : List (Nat × Nat)) : Nat → List Nat → List Nat
  | 0, r => r
  | n + 1, r =>
    let more := (edges.filterMap (fun e =>
      if r.contains e.1 && !r.contains e.2 then some e.2 else if r.contains e.2 && !r.contains e.1 then some e.1 else none)).eraseDups
    if more.isEmpty then r else reach edges n (r ++ more)

/-- The defined records of circuit `c` in a bank: 0 the active, 1 the inactive. -/
def State.inCircuit (s : State) (k tid c : Nat) : Nat :=
  ((s.defined tid k).filter (fun i => s.tfld tid (copyIdx k i) 0 28 2 == c)).length

/-- The computed worst cases of a circuit, and of an arrival part, of a bank (R138). -/
def State.wcOf (s : State) (k op c : Nat) : Nat :=
  Config.modelWc op (s.inCircuit k 0x2401 c) (s.inCircuit k 0x2402 c)
    (s.inCircuit k 0x2406 c + s.inCircuit k 0x2404 c + s.inCircuit k 0x2403 c)
def State.wcHyd (s : State) (k c : Nat) : Nat := s.wcOf k 0 c
def State.wcThm (s : State) (k c : Nat) : Nat := s.wcOf k 1 c
def State.wcArr (s : State) (p : Nat) : Nat :=
  Config.modelWc 2 (s.defined 0x2401 1).length (s.defined 0x2402 1).length
    ((s.defined 0x2406 1).filter (fun i => s.tfld 0x2406 (inact i) 1 28 4 == p)).length

/-- The first failure of the inactive model bank, as code, table number and record (R137). DESIGN CHOICE, unsafe: the codes are checked in
their order, each over the tables in theirs and the records in theirs, and an arrival part that exceeds its budget is reported as table
12, the arrival table, with the part as its record (log 137). -/
def State.modelVerify (s : State) : Option (Nat × Nat × Nat) :=
  let tids := [0x2400, 0x2401, 0x2402, 0x2403, 0x2404, 0x2405, 0x2406]
  let firstBad := fun (ok : Nat → Nat → Bool) => tids.findSome? (fun tid =>
    ((s.defined tid 1).find? (fun i => !ok tid i)).map (fun i => (tid - 0x2400, i)))
  let circs := s.defined 0x2400 1
  match firstBad (fun tid i => s.mRange tid (inact i)) with
  | some e => some (1, e.1, e.2)
  | none =>
  match firstBad s.mXref with
  | some e => some (2, e.1, e.2)
  | none =>
  match circs.find? (fun c => !s.mRef c) with
  | some c => some (3, 0, c)
  | none =>
  match circs.findSome? (fun c =>
      let r := reach (s.mEdges c) 8192 [s.tfld 0x2400 (inact c) 0 0 13]
      ((s.defined 0x2402 1).filter (fun j => s.tfld 0x2402 (inact j) 0 28 2 == c)).find? (fun j => !r.contains j)) with
  | some j => some (4, 2, j)
  | none =>
  match circs.find? (fun c => decide (s.hydBud c < s.wcHyd 1 c ∨ s.thmBud c < s.wcThm 1 c)) with
  | some c => some (5, 0, c)
  | none =>
  match (List.range 16).find? (fun p => s.arrBud p != 0 && decide (s.arrBud p < s.wcArr p)) with
  | some p => some (5, 12, p)
  | none =>
    (circs.find? (fun c => ((List.range 64).map (fun k => s.tfld 0x2407 (inact c) (k / 2) (16 * (k % 2)) 16)).any (fun n =>
      n != 0xFFFF && !(decide (n < 2048) && s.tfld 0x2406 (inact n) 0 31 1 == 1 && s.tfld 0x2406 (inact n) 0 28 2 == c)))).map
      (fun c => (6, 7, c))

/-- MODEL_VERIFY_END (R137). -/
def execModelVerifyEnd (s : State) : Out :=
  .next <|
    if !s.bit modelBank.busy then s
    else
      match s.modelVerify with
      | some (c, t, i) => s.bankFail modelBank (BitVec.ofNat 32 (c * 2 ^ 28 + t * 2 ^ 24 + i))
      | none => s.bankPass modelBank

/-- DEF of MODEL_STAT and of MODEL_ARR_STAT, and the worst cases of the bank that is now active. -/
def State.modelDef (s : State) : State :=
  let s1 := [0, 1, 2, 3].foldl (fun a c => a.setF (bitAt 0x24048 (8 + c)) (b2n (s.circuitOn c))) s
  let s2 := (List.range 16).foldl (fun a p => a.setF (bitAt 0x24060 p) (b2n (s.arrBud p != 0))) s1
  let s3 := [0, 1, 2, 3].foldl (fun a c =>
    (a.wr (mreg c 0x08) (BitVec.ofNat 32 (s.wcHyd 0 c))).wr (mreg c 0x10) (BitVec.ofNat 32 (s.wcThm 0 c))) s2
  s3.setF ⟨0x24078, 0, 16⟩ (s.defined 0x2406 0).length

/-- A record of a banked table is the same in both copies. -/
def State.sameRec (s : State) (tid i n : Nat) : Bool := s.trec tid i n == s.trec tid (inact i) n

/-- The table and the word that hold an input's VREF, by the kind and field of its key. -/
def vrefAt (kind fld : Nat) : Option (Nat × Nat) :=
  if kind = 0 then some (0x2400, 1) else if kind = 1 then some (0x2408, 0) else if kind = 2 then some (0x2403, 1)
  else if kind = 3 then some (0x2404, fld) else if kind = 4 then some (0x2405, fld) else none

/-- An input that the switch gave another VREF is a new input, which has never been usable (R129). -/
def State.sameInput (s : State) (key : Nat) : Bool :=
  let i := key % 2 ^ 20 / 8
  match vrefAt (key / 2 ^ 20) (key % 8) with
  | none => true
  | some (tid, w) => s.trd tid i w == s.trd tid (inact i) w

/-- The parts of R139 that follow the exchange: changed or new segments start again with their initial factors, and the
results of a circuit with any changed record take INIT. The copies have already changed places. -/
def State.modelCarry (s : State) : State :=
  let s1 := (s.defined 0x2401 0).foldl (fun a i =>
    if s.sameRec 0x2401 i 8 then a
    else (a.facReset i).modelMod (fun m => { m with
      parcels := m.parcels.filter (fun e => e.1 != i), entered := m.entered.filter (fun e => e.1 != i) })) s
  let gone := fun (tid i : Nat) => s.tfld tid i 0 31 1 == 0
  let s2 := s1.modelMod (fun m => { m with
    last := m.last.filter (fun e => s.sameInput e.1),
    press := m.press.filter (fun e => s.sameRec 0x2402 e.1 4),
    parcels := m.parcels.filter (fun e => !gone 0x2401 e.1) })
  let changed := fun c =>
    !s.sameRec 0x2400 c 8 || !s.sameRec 0x2407 c 32
      || [0x2401, 0x2402, 0x2403, 0x2404, 0x2405, 0x2406].any (fun tid =>
        ((s.defined tid 0) ++ (s.defined tid 1)).any (fun i =>
          (s.tfld tid i 0 28 2 == c || s.tfld tid (inact i) 0 28 2 == c) && !s.sameRec tid i 8))
  s2.modelMod (fun m => { m with initQ := (List.range 4).map (fun c => m.initQ.getD c false || changed c) })

/-- The arrival records of a circuit whose results are INIT (R139, R161). -/
def State.arrInit (s : State) (c : Nat) : State :=
  (s.ofCircuit 0x2406 c).foldl (fun a n => (a.tset 0x240C n 0 24 8 INITQ).arrItems n) s

/-- MODEL_BANK_SWITCH (R139): at a tick that starts a hyperframe. -/
def execModelBankSwitch (s : State) : Out :=
  .next <| s.andShown <|
    if s.bit modelBank.pend && s.seq.hfStart && !s.inExt then
      let s1 := (((s.bankExchange modelBank modelTable).modelCarry).modelDef).seqInfo
      let s2 := ((List.range 4).filter (fun c => s1.model.initQ.getD c false)).foldl (fun a c => (a.modelQual c).arrInit c) s1
      ((s2.setF ⟨0x24054, 0, 19⟩ 0).parcelRegs).raiseEv 0x24 5
    else s

/-- The soft reset of the MODEL page beside R55 (R137, R161): results to INIT, parcels restarted, every part STALE; the adapted
factors stay. -/
def modelSoftReset (s : State) : State :=
  let s1 := (parcelReset s).bankSoftReset modelBank
  let s2 := s1.modelMod (fun m => { m with
    initQ := List.replicate 4 true, arrAt := List.replicate 16 none, above := List.replicate 4 none,
    below := List.replicate 4 none, bal := List.replicate 4 [] })
  let s3 := ((List.range 4).filter s2.circuitOn).foldl (fun a c => (a.modelQual c).arrInit c) s2
  ((s3.setF ⟨0x24060, 16, 16⟩ 0xFFFF).setF ⟨0x24054, 0, 19⟩ 0).parcelRegs

end Sys2Proof.Machine
end

