-- ==== Sys2Proof/Machine/Opt.lean ====
section
/-! DEFINITION. The dispatch optimiser (R34 to R40, R162 to R194, R199): inputs and forecast, the constraints and the
objective that a solution is judged by, solves, publication, fallback, and the asset bank. -/

namespace Sys2Proof.Machine

/-- `s` with the optimiser changed. -/
def State.optMod (s : State) (f : OptSt → OptSt) : State := { s with opt := f s.opt }

/-- The places of the asset bank (R172). -/
def optBank : BankPg := ⟨0x25, 0x25048, 0x250A4, 6, 7, 8, 9, 7⟩

/-- The tables of an asset bank (R164). -/
def optTable (tid : Nat) : Bool := decide (0x2500 ≤ tid ∧ tid ≤ 0x250A)

/-- A binary64 parameter: two words, low word first (R165). -/
def State.par64 (s : State) (tid i w : Nat) : Num :=
  Config.numF64 ((s.trd tid i w).toNat + (s.trd tid i (w + 1)).toNat * 2 ^ 32)

/-! ## Steps and local time (R162, R163) -/

/-- UTC_OFS as it stands. -/
def State.utcOfs (s : State) : Nat := s.fld ⟨0x408C, 0, 16⟩

/-- The step boundary at or before a TAI second. -/
def stepStart (sec utc : Nat) : Nat := sec - (sec - utc) % 900

/-- Local seconds of a TAI second, with the offset that the last solve took, and with the one the default schedule follows. -/
def State.localSec (s : State) (sec : Nat) : Nat := ((sec : Int) - s.utcOfs + s.opt.ofsSolve).toNat
def State.defLocal (s : State) (sec : Nat) : Nat := ((sec : Int) - s.utcOfs + s.opt.ofsDef).toNat
def State.defSlot (s : State) (sec : Nat) : Nat := s.defLocal sec % 86400 / 900

/-- Local slot, hour, day and day of the week (0 Monday; day 0 of the epoch was a Thursday). -/
def State.daySlot (s : State) (sec : Nat) : Nat := s.localSec sec % 86400 / 900
def State.dayOf (s : State) (sec : Nat) : Nat := s.localSec sec / 86400
def weekday (day : Nat) : Nat := (day + 3) % 7

/-! ## Series, day types, forecast (R173 to R176) -/

/-- A word of a series or calendar record of a snapshot of the tables. -/
def serWord (m : SMap) (tid i w : Nat) : Word := smGet (fun _ => 0) m (tkey tid i w)

/-- The index of the value of series `i` for a step that starts at `sec`; none before T_START or without a record. T_START is an LT64
second, so the two are compared by their signed 32-bit difference. -/
def serIdx (m : SMap) (i sec : Nat) : Option Nat :=
  let d := sint (BitVec.ofNat 32 sec - serWord m 0x250B i 1)
  if i = 63 ∨ !wbit (serWord m 0x250B i 0) 31 ∨ d < 0 then none else some (d.toNat / 900)

/-- The value of a series for a step: a step after the last value takes the last. 0 for no series. -/
def serVal (m : SMap) (i sec : Nat) : Num :=
  match serIdx m i sec with
  | none => n0
  | some k => nf32 (serWord m 0x250B i (4 + min k ((serWord m 0x250B i 2).toNat - 1)))

/-- The series holds its last value within the horizon. -/
def serShort (m : SMap) (i t0 : Nat) : Bool :=
  match serIdx m i (t0 + 900 * 191) with
  | none => false
  | some k => decide ((serWord m 0x250B i 2).toNat ≤ k)

/-- The day type of a local day (R174). -/
def State.dayType (s : State) (m : SMap) (day : Nat) : Nat :=
  match (List.range 64).find? (fun i => wbit (serWord m 0x250C i 1) 31 && (serWord m 0x250C i 0).toNat == day) with
  | some i => wbits (serWord m 0x250C i 1) 0 3
  | none => s.fld ⟨0x25064, 3 * weekday day, 3⟩

/-- The profile factor of class `c` at a TAI second, 0.001; a record of zeros is used as 1,000 (R171, R175). -/
def State.profile (s : State) (m : SMap) (c sec : Nat) : Nat :=
  let i := c * 8 + s.dayType m (s.dayOf sec)
  let q := s.daySlot sec
  if (s.trec 0x250A i 48).all (fun w => w == 0) then 1000 else s.tfld 0x250A i (q / 2) (16 * (q % 2)) 16

/-- The regressors x1, SOL and WIND of a class for the step at `sec` (R175). -/
def State.weather (s : State) (m : SMap) (c sec : Nat) : Num × Num × Num :=
  let t := serVal m (s.tfld 0x2504 c 0 22 6) sec
  let base := s.par64 0x2504 c 2
  let x1 := if s.tfld 0x2504 c 0 30 1 = 0 then nmax n0 (nsub base t) else nmax n0 (nsub t base)
  (x1, serVal m (s.tfld 0x2504 c 0 16 6) sec, serVal m (s.tfld 0x2504 c 0 10 6) sec)

/-- Keys of a solve's initial values: a kind, an asset, and a part. -/
def ivKey (kind asset sub : Nat) : Nat := (kind * 4096 + asset) * 16 + sub

/-- An initial value of a solve. -/
def SolveIn.iv (r : SolveIn) (kind asset sub : Nat) : Num := nmGet r.vals (ivKey kind asset sub) n0

/-- A machine that holds a solve's inputs and nothing else: the formulation reads its parameters there, as they stood at the solve's
start (R183). -/
def SolveIn.view (i : SolveIn) : State :=
  { State.reset with regs := i.regs, tbl := i.tbl, opt := { OptSt.init with ofsSolve := i.ofs, zoneHist := i.zones } }

/-- F_c for step `k` (R175). -/
def SolveIn.forecast (r : SolveIn) (c k : Nat) : Num :=
  let sec := r.t0 + 900 * k
  let x := r.view.weather r.tbl c sec
  let lin := nadd (nadd (r.iv 16 c 0) (nmul (r.iv 16 c 1) x.1)) (nadd (nmul (r.iv 16 c 2) x.2.1) (nmul (r.iv 16 c 3) x.2.2))
  nmul (nrat (r.view.profile r.tbl c sec) 1000) (nmax n0 lin)

/-- The registers and tables that a solve takes: OPT_ADMM, OPT_TOL, OPT_LOCAL_OFS, OPT_DAYTYPE_DEF, OPT_PUMP_W and UTC_OFS; the asset,
series and calendar tables with the circuits and attachments of the network model, active copies. -/
def solveReg (a : Nat) : Bool := decide (0x25058 ≤ a ∧ a < 0x25068) || a == 0x2506C || a == 0x408C
def solveTbl (k : Nat) : Bool :=
  decide (tkeyIdx k < 2 ^ 23) && (decide (0x2500 ≤ tkeyTid k ∧ tkeyTid k ≤ 0x250C) || tkeyTid k == 0x2400 || tkeyTid k == 0x2406)

/-- The members of class `c`: MEMBER and CLASS of the node class record, and an attachment in the class's circuit (R169). -/
def State.members (s : State) (c : Nat) : List Nat :=
  (s.defined 0x2505 0).filter (fun n => s.tfld 0x2505 n 0 0 8 == c && s.tfld 0x2406 n 0 31 1 == 1
    && s.tfld 0x2406 n 0 28 2 == s.tfld 0x2504 c 0 28 2)

/-- The coefficients of a class from its history at a local midnight, and whether they are fitted (R176). -/
def State.fitOf (s : State) (c day : Nat) : List Num × Bool :=
  let days := s.tfld 0x2504 c 1 0 8
  let rows := s.opt.hist.filter (fun r => r.cls == c && r.heat.isSome
    && decide (day ≤ s.dayOf r.step + days ∧ s.dayOf r.step < day))
  if rows.length < 672 then ([s.par64 0x2504 c 12, s.par64 0x2504 c 14, n0, n0], false)
  else (Config.numLsq (rows.map (fun r => [n1, r.x1, r.sol, r.wind]))
    (rows.map (fun r => ndiv (r.heat.getD 0) (nrat r.prof 1000))), true)

/-- Stores a class's coefficients in its fit record: STATUS in bits 31..24 of word 0, B0 to B3 as binary64 in words 2 to 9. -/
def State.putFit (s : State) (c : Nat) (b : List Num) (st : Nat) : State :=
  let s1 := s.twr 0x250F c 0 (BitVec.ofNat 32 (st * 2 ^ 24))
  (List.range 4).foldl (fun a i =>
    let v := Config.numToF64 (b.getD i n0)
    (a.twr 0x250F c (2 + 2 * i) (lo32 v)).twr 0x250F c (3 + 2 * i) (hi32 v)) s1

/-- The first solve after each local midnight fits every class while FIT_EN is 1. -/
def State.dailyFit (s : State) : State :=
  let day := s.dayOf s.nowSec
  if !s.bit (bitAt 0x25040 2) || s.opt.fitDay == day then s
  else
    let s1 := (s.defined 0x2504 0).foldl (fun a c =>
      let f := s.fitOf c day
      a.putFit c f.1 (if f.2 then GOOD else ESTIM)) s
    (s1.optMod (fun o => { o with fitDay := day })).wr 0x250B0 (lo32 s.nowSec)

/-- The coefficients in force: the fit record, or the seeds where no fit has been made. -/
def State.coeff (s : State) (c i : Nat) : Num :=
  if s.trd 0x250F c 0 = 0 ∧ (s.trec 0x250F c 10).all (fun w => w == 0) then
    (if i = 0 then s.par64 0x2504 c 12 else if i = 1 then s.par64 0x2504 c 14 else n0)
  else s.par64 0x250F c (2 + 2 * i)

/-! ## Initial state (R178, R179) -/

/-- An item as the snapshots in DRAM hold it (R36). -/
def State.snapItem (s : State) (w : Word) : Option Word :=
  if w = 0xFFFFFFFF#32 then none
  else
    match s.opt.snap.lookup (wbits w 20 12) with
    | none => none
    | some l =>
      match l[wbits w 0 20]? with
      | some it => if usableSt it.st then some it.w else none
      | none => none

/-- The value of step 0 of the plan in force, or `dflt`, the default schedule's, where a measured value is not usable (R178). -/
def State.planOr (s : State) (qty asset : Nat) (dflt : Num) : Num :=
  if s.bit (bitAt 0x25048 8) then nint (sint (s.trd 0x250D (qty * 256 + asset) (4 + s.fld ⟨0x25088, 0, 8⟩))) else dflt

/-- A word of the default schedule for the local slot. -/
def State.dfltNow (s : State) (w : Nat) : Num := nint (sint (s.trd 0x2509 (s.defSlot s.nowSec) w))

/-- λ_c in steps: the mean DELAY_S of the members with a usable arrival record, by 900, halves up; else the default delay. -/
def State.lag (s : State) (c : Nat) : Nat :=
  let ds := ((s.members c).filter (fun n => usableSt (s.tfld 0x240C n 0 24 8) && s.tfld 0x240C n 0 15 1 == 0)).map
    (fun n => (s.trd 0x240C n 1).toNat)
  if ds.isEmpty then ((s.rd (0x250E0 + 4 * s.tfld 0x2504 c 0 28 2)).toNat + 450) / 900
  else (2 * ds.foldl (· + ·) 0 + 900 * ds.length) / (1800 * ds.length)

/-- The initial values of a solve, by kind: 1 source state, 2 output, 3 steps held; 4 store's hot fraction; 5 a circuit's
reference T_OUT, 6 Q0, 7 L0, 8 T_g0, 9 ΔT0, 13 critical pressure; 11 a pump's flow, 12 its pressure; 14 lag; 16 B0 to B3. A source with no
usable state and no plan is on where the default schedule gives it a setpoint other than 0 (R171). DESIGN CHOICE, safe in no claim that
names T_g0: the mean ground temperature of R178 is the unweighted mean over the circuit's segments (log 128). -/
def State.initVals (s : State) : List (Nat × Int) :=
  let src := (s.defined 0x2501 0).flatMap (fun i =>
    let on := match s.snapItem (s.trd 0x2501 i 1) with
      | some w => nint (b2n (w != 0))
      | none => s.planOr 2 i (nint (b2n (s.trd 0x2509 (s.defSlot s.nowSec) i != 0)))
    let h := match s.snapItem (s.trd 0x2501 i 2) with
      | some w => nint (sint w)
      | none => s.planOr 0 i (s.dfltNow i)
    let since := match s.opt.held.lookup i with
      | some e => (s.nowSec - e.2) / 900
      | none => 0
    [(ivKey 1 i 0, on), (ivKey 2 i 0, h), (ivKey 3 i 0, nint since)])
  let sto := (s.defined 0x2502 0).map (fun i =>
    (ivKey 4 i 0, match s.snapItem (s.trd 0x2502 i 1) with
      | some w => nrat (sint w) 10000
      | none => if s.bit (bitAt 0x25048 8) then ndiv (s.planOr 4 i n0) (nint 10000) else Config.socStart i))
  let cir := (s.defined 0x2500 0).flatMap (fun c =>
    let r := s.tfld 0x2400 c 0 13 6
    let tOut := match s.snapItem (s.trd 0x2404 r 1) with
      | some w => nrat (sint w) 1000
      | none => ndiv (s.planOr 11 c (s.dfltNow (64 + c))) (nint 1000)
    let segs := s.ofCircuit 0x2401 c
    let tg := ndiv (nsum (segs.map s.groundT)) (nint segs.length)
    [(ivKey 5 c 0, tOut), (ivKey 6 c 0, s.qOf 2 r), (ivKey 7 c 0, nint (s.rd (mreg c 0x34)).toNat), (ivKey 8 c 0, tg),
     (ivKey 9 c 0, nsub tOut (s.jTemp (s.recFrom 0x2404 r))), (ivKey 13 c 0, nint (sint (s.rd (mreg c 0x18))))])
  let pmp := (s.defined 0x2503 0).flatMap (fun p =>
    let dp := match s.snapItem (s.trd 0x2503 p 1) with
      | some w => nint (sint w)
      | none => s.planOr 5 p (s.dfltNow (68 + p))
    [(ivKey 11 p 0, s.qOf 4 p), (ivKey 12 p 0, dp)])
  let cls := (s.defined 0x2504 0).flatMap (fun c =>
    (ivKey 14 c 0, (s.lag c : Int)) :: (List.range 4).map (fun i => (ivKey 16 c i, s.coeff c i)))
  src ++ sto ++ cir ++ pmp ++ cls

/-- The series that defined assets name: fuel, grid and weather. -/
def State.namedSeries (s : State) : List Nat :=
  (((s.defined 0x2501 0).map (fun i => s.tfld 0x2501 i 0 13 6))
    ++ (s.defined 0x2506 0).flatMap (fun g => [24, 18, 12, 6].map (fun b => s.tfld 0x2506 g 0 b 6))
    ++ (s.defined 0x2504 0).flatMap (fun c => [22, 16, 10].map (fun b => s.tfld 0x2504 c 0 b 6))).filter (· != 63)

/-- A solve that starts at `t0` fails with code INPUT: a named series without a value for step 0, or a dispatched circuit
whose model results are INIT (R173, R178). -/
def State.inputFails (s : State) (m : SMap) (t0 : Nat) : Bool :=
  s.namedSeries.any (fun i => (serIdx m i t0).isNone) || (s.defined 0x2500 0).any (fun c => s.hydQ c == INITQ)

/-! ## The formulation (R177, R180 to R182) -/

/-- Variables of the inactive (1) or the active (0) bank (R177); NSEG holds the segments less one. -/
def State.varCount (s : State) (c : Nat) : Nat :=
  let src := ((s.defined 0x2501 c).map (fun i => 4 + s.tfld 0x2501 (copyIdx c i) 0 22 2)).foldl (· + ·) 0
  let n := fun tid => (s.defined tid c).length
  192 * (src + 3 * n 0x2502 + 2 * n 0x2503 + 2 * n 0x2504 + 2 * n 0x2506 + n 0x2507 + 3 * n 0x2500) + 12 * n 0x2507

/-- The key of a variable of a solution: kind, asset, part, step. Kinds: 1 x_i, 2 charge, 3 discharge, 4 stored energy,
5 pump pressure, 6 pump power, 7 delivered heat, 8 deficit, 9 import, 10 export, 11 intensity, 12 T_sup, 13 flow, 14 loss,
15 shortfall (part = channel, step = photoperiod), 16 on, 17 start, 18 stop. -/
def varKey (kind asset sub k : Nat) : Nat := ((kind * 256 + asset) * 4 + sub) * 256 + k

/-- Values of a solve's variables, with the inputs that its constraints refer to. -/
structure Solution where
  r : SolveIn
  v : List (Nat × Int)

/-- The parameters of the solve. -/
def Solution.s (p : Solution) : State := p.r.view

/-- A variable's value. -/
def Solution.at (p : Solution) (kind asset sub k : Nat) : Num := nmGet p.v (varKey kind asset sub k) n0

/-- An inequality or equation holds to OPT_TOL (R184). -/
def Solution.le (p : Solution) (a b : Num) : Bool := Config.optLe (p.s.rd 0x2505C) a b
def Solution.eq (p : Solution) (a b : Num) : Bool := p.le a b && p.le b a

/-- Δt in hours. -/
def hStep : Num := nrat 1 4

/-- Segments of a source. -/
def Solution.segs (p : Solution) (i : Nat) : List Nat := List.range (p.s.tfld 0x2501 i 0 22 2 + 1)

/-- on(k), before the horizon the measured state. -/
def Solution.on (p : Solution) (i : Nat) (k : Int) : Num := if k < 0 then p.r.iv 1 i 0 else p.at 16 i 0 k.toNat

/-- Output, fuel and electricity of a source (R180). -/
def Solution.heat (p : Solution) (i : Nat) (k : Int) : Num :=
  if k < 0 then p.r.iv 2 i 0
  else nadd (nmul (p.s.par64 0x2501 i 4) (p.on i k)) (nsum ((p.segs i).map (fun j => p.at 1 i j k.toNat)))
def Solution.fuel (p : Solution) (i k : Nat) : Num :=
  nadd (nmul (p.s.par64 0x2501 i 10) (p.on i k)) (nsum ((p.segs i).map (fun j => nmul (p.s.par64 0x2501 i (16 + 6 * j)) (p.at 1 i j k))))
def Solution.elec (p : Solution) (i k : Nat) : Num :=
  nadd (nmul (p.s.par64 0x2501 i 12) (p.on i k)) (nsum ((p.segs i).map (fun j => nmul (p.s.par64 0x2501 i (18 + 6 * j)) (p.at 1 i j k))))

/-- start(k) and stop(k). -/
def Solution.start (p : Solution) (i k : Nat) : Num := p.at 17 i 0 k
def Solution.stop (p : Solution) (i k : Nat) : Num := p.at 18 i 0 k

/-- The sum of `f` over the last `n` steps up to `k`; the start or stop by which the source came into its measured state lies `held` steps
before the horizon, and counts where `mine` says that the sum is its kind's. -/
def overLast (n k held : Nat) (mine : Bool) (f : Nat → Num) : Num :=
  nadd (nint (b2n (mine && decide (k + held < n)))) (nsum ((List.range (min n (k + 1))).map (fun j => f (k - j))))

/-- Source constraints at step `k`: output ranges, commitment, ramp; on, start and stop between 0 and 1. -/
def Solution.srcOk (p : Solution) (i k : Nat) : Bool :=
  let on := p.on i k
  let must := p.s.tfld 0x2501 i 0 24 1 == 1 || p.s.tfld 0x2501 i 0 25 1 == 0
  let was := !nle (p.r.iv 1 i 0) n0
  let held := (p.r.iv 3 i 0).toNat
  let ramp := nadd (p.s.par64 0x2501 i 6) (nmul (p.s.par64 0x2501 i 4) (nadd (p.start i k) (p.stop i k)))
  (p.segs i).all (fun j => p.le n0 (p.at 1 i j k) && p.le (p.at 1 i j k) (nmul (p.s.par64 0x2501 i (14 + 6 * j)) on))
    && [on, p.start i k, p.stop i k].all (fun x => p.le n0 x && p.le x n1)
    && p.eq (nsub on (p.on i ((k : Int) - 1))) (nsub (p.start i k) (p.stop i k))
    && p.le (overLast (p.s.tfld 0x2501 i 3 16 16) k held was (p.start i)) on
    && p.le (overLast (p.s.tfld 0x2501 i 3 0 16) k held (!was) (p.stop i)) (nsub n1 on)
    && (!must || p.eq on n1)
    && p.le (nabs (nsub (p.heat i k) (p.heat i ((k : Int) - 1)))) ramp

/-- Energy of a full store: VOLUME × RHO_CP × (T_HOT − T_COLD), in Wh, and the power of its flow limit. -/
def Solution.stoMax (p : Solution) (i : Nat) : Num :=
  ndiv (nmul (nmul (p.s.par64 0x2502 i 2) (p.s.par 0x2400 (p.s.tfld 0x2502 i 0 28 2) 5))
    (nsub (p.s.par64 0x2502 i 4) (p.s.par64 0x2502 i 6))) (nint 3600)
def Solution.stoPow (p : Solution) (i : Nat) : Num :=
  nmul (nmul (p.s.par64 0x2502 i 8) (p.s.par 0x2400 (p.s.tfld 0x2502 i 0 28 2) 5))
    (nsub (p.s.par64 0x2502 i 4) (p.s.par64 0x2502 i 6))

/-- Stored energy at the start of step `k`; step 192 is the horizon's end. -/
def Solution.stored (p : Solution) (i k : Nat) : Num := if k = 0 then nmul (p.r.iv 4 i 0) (p.stoMax i) else p.at 4 i 0 k

/-- Store constraints at step `k`. -/
def Solution.stoOk (p : Solution) (i k : Nat) : Bool :=
  let e1 := nadd (nmul (p.stored i k) (nsub n1 (nmul (p.s.par64 0x2502 i 10) hStep)))
    (nmul (nsub (p.at 2 i 0 k) (p.at 3 i 0 k)) hStep)
  p.eq (p.stored i (k + 1)) e1 && p.le n0 e1 && p.le e1 (p.stoMax i)
    && p.le n0 (p.at 2 i 0 k) && p.le (p.at 2 i 0 k) (p.stoPow i) && p.le n0 (p.at 3 i 0 k) && p.le (p.at 3 i 0 k) (p.stoPow i)
    && (k != 191 || p.le (nmul (p.s.par64 0x2502 i 14) (p.stoMax i)) (p.stored i 192))

/-- The assets of a circuit. -/
def Solution.ofC (p : Solution) (tid lo c : Nat) : List Nat := (p.s.defined tid 0).filter (fun i => p.s.tfld tid i 0 lo 2 == c)

/-- Heat into circuit `c` in step `k`: sources and stores. -/
def Solution.into (p : Solution) (c k : Nat) : Num :=
  nadd (nsum ((p.ofC 0x2501 26 c).map (fun i => p.heat i k)))
    (nsum ((p.ofC 0x2502 28 c).map (fun i => nsub (p.at 3 i 0 k) (p.at 2 i 0 k))))

/-- H(k) of the circuit flow, the heat of the circuit's sources, and H0, the same at the start. DEDUCED: the initial state of R178 holds
an output of every source and of no store, so both count the sources alone (log 129). -/
def Solution.hSrc (p : Solution) (c : Nat) (k : Int) : Num := nsum ((p.ofC 0x2501 26 c).map (fun i => p.heat i k))

/-- T_sup(k), before the horizon the reference T_OUT. -/
def Solution.tSup (p : Solution) (c : Nat) (k : Int) : Num := if k < 0 then p.r.iv 5 c 0 else p.at 12 c 0 k.toNat

/-- Circuit constraints at step `k`: balance, loss, flow, supply temperature. -/
def Solution.cirOk (p : Solution) (c k : Nat) : Bool :=
  let cls := p.ofC 0x2504 28 c
  let out := nsum ((cls.filter (fun x => decide (k + (p.r.iv 14 x 0).toNat ≤ 191))).map (fun x =>
    p.at 7 x 0 (k + (p.r.iv 14 x 0).toNat)))
  let t := p.tSup c k
  let loss := nmul (p.r.iv 7 c 0) (ndiv (nsub t (p.r.iv 8 c 0)) (nsub (p.r.iv 5 c 0) (p.r.iv 8 c 0)))
  let q := nsub (nadd (p.r.iv 6 c 0) (ndiv (nsub (p.hSrc c k) (p.hSrc c (-1))) (nmul (p.s.par 0x2400 c 5) (p.r.iv 9 c 0))))
    (nmul (p.r.iv 6 c 0) (ndiv (nsub t (p.r.iv 5 c 0)) (p.r.iv 9 c 0)))
  let lo := (cls.map (fun x => p.s.par64 0x2504 x 10)).foldl nmax (p.s.par64 0x2500 c 2)
  p.eq (p.into c k) (nadd (p.at 14 c 0 k) out) && p.eq (p.at 14 c 0 k) loss && p.eq (p.at 13 c 0 k) q
    && p.le (p.at 13 c 0 k) (p.s.par64 0x2500 c 6) && p.le lo t && p.le t (p.s.par64 0x2500 c 4)
    && p.le (nabs (nsub t (p.tSup c ((k : Int) - 1)))) (p.s.par64 0x2500 c 10)

/-- The hour block of a zone at step `k`, and whether it lies in the zone's photoperiod. -/
def Solution.hour (p : Solution) (k : Nat) : Nat := p.s.localSec (p.r.t0 + 900 * k) % 86400 / 3600
def share (s : State) (z h ch : Nat) : Num :=
  nrat (if ch = 3 then s.tfld 0x2508 z (17 + 2 * h) 0 10 else s.tfld 0x2508 z (16 + 2 * h) (10 * ch) 10) 1000
def iLo (s : State) (z h : Nat) : Nat := s.tfld 0x2508 z (17 + 2 * h) 10 10
def iHi (s : State) (z h : Nat) : Nat := s.tfld 0x2508 z (17 + 2 * h) 20 10

/-- Power of a zone, and the heat it credits to the class of its LINK_NODE. -/
def Solution.zPow (p : Solution) (z k : Nat) : Num := nmul (p.at 11 z 0 k) (p.s.par64 0x2507 z 2)
def Solution.credit (p : Solution) (c k : Nat) : Num :=
  nsum (((p.s.defined 0x2507 0).filter (fun z => (p.s.members c).contains (p.s.tfld 0x2507 z 0 0 11))).map (fun z =>
    nmul (p.s.par64 0x2507 z 4) (p.zPow z k)))

/-- Comfort at step `k` (R180): deliveries before the lag equal the forecast (R179). -/
def Solution.clsOk (p : Solution) (c k : Nat) : Bool :=
  let f := p.r.forecast c k
  let d := p.at 7 c 0 k
  let got := nadd d (p.credit c k)
  (decide ((p.r.iv 14 c 0).toNat ≤ k) || p.eq d f) && p.le n0 (p.at 8 c 0 k)
    && p.le (nmul (nsub n1 (p.s.par64 0x2504 c 4)) f) (nadd got (p.at 8 c 0 k))
    && p.le got (nmul (nadd n1 (p.s.par64 0x2504 c 6)) f)

/-- A pump station's share of its circuit's flow at step `k`, as it stood at the start. -/
def Solution.pumpQ (p : Solution) (i k : Nat) : Num :=
  let c := p.s.tfld 0x2503 i 0 28 2
  nmul (p.at 13 c 0 k) (ndiv (p.r.iv 11 i 0) (p.r.iv 6 c 0))

/-- Critical pressure and pumping at step `k`. -/
def Solution.pmpOk (p : Solution) (i k : Nat) : Bool :=
  let c := p.s.tfld 0x2503 i 0 28 2
  let dp := p.at 5 i 0 k
  let q0 := p.r.iv 6 c 0
  let lin := nsub (nmul (nint 2) (ndiv (p.at 13 c 0 k) q0)) n1
  let need := nadd (p.s.par64 0x2500 c 8) (nmul (nsub (p.r.iv 12 i 0) (p.r.iv 13 c 0)) lin)
  let pw := ndiv (nsub (nadd (nmul (p.r.iv 11 i 0) dp) (nmul (p.r.iv 12 i 0) (p.pumpQ i k)))
    (nmul (p.r.iv 11 i 0) (p.r.iv 12 i 0))) (p.s.par64 0x2503 i 6)
  p.le need dp && p.le (p.s.par64 0x2503 i 2) dp && p.le dp (p.s.par64 0x2503 i 4) && p.eq (p.at 6 i 0 k) pw

/-- Grid balance at step `k`. -/
def Solution.grdOk (p : Solution) (g k : Nat) : Bool :=
  let sec := p.r.t0 + 900 * k
  let at' := fun (tid lo : Nat) => (p.s.defined tid 0).filter (fun i => p.s.tfld tid i 0 lo 3 == g)
  let load := nadd (serVal p.r.tbl (p.s.tfld 0x2506 g 0 12 6) sec)
    (nadd (nsum ((at' 0x2501 19).map (fun i => p.elec i k)))
      (nadd (nsum ((at' 0x2503 19).map (fun i => p.at 6 i 0 k))) (nsum ((at' 0x2507 28).map (fun z => p.zPow z k)))))
  let lim := if p.s.tfld 0x2506 g 0 6 6 = 63 then p.s.par64 0x2506 g 2
    else nmin (p.s.par64 0x2506 g 2) (serVal p.r.tbl (p.s.tfld 0x2506 g 0 6 6) sec)
  p.eq (nsub (p.at 9 g 0 k) (p.at 10 g 0 k)) load && p.le n0 (p.at 9 g 0 k) && p.le (p.at 9 g 0 k) lim
    && p.le n0 (p.at 10 g 0 k) && p.le (p.at 10 g 0 k) (p.s.par64 0x2506 g 4)

/-- Intensity band at step `k`. -/
def Solution.zonOk (p : Solution) (z k : Nat) : Bool :=
  let h := p.hour k
  p.le (nrat (iLo p.s z h) 1000) (p.at 11 z 0 k) && p.le (p.at 11 z 0 k) (nrat (iHi p.s z h) 1000)

/-- The photoperiods of a zone that overlap the horizon, as TAI seconds of start and end (R181). -/
def Solution.photo (p : Solution) (z : Nat) : List (Nat × Nat) :=
  let t0 := p.s.localSec p.r.t0
  ([0, 1, 2, 3].map (fun d =>
    let st := (t0 / 86400 + d) * 86400 + p.s.tfld 0x2508 z 0 8 5 * 3600 - 86400
    (st, st + p.s.tfld 0x2508 z 0 0 5 * 3600))).filter (fun e => decide (t0 < e.2 ∧ e.1 < t0 + 172800))

/-- R181 for the j-th photoperiod and a channel. -/
def Solution.photoOk (p : Solution) (z j ch : Nat) (e : Nat × Nat) : Bool :=
  let t0 := p.s.localSec p.r.t0
  let inside := (List.range 192).filter (fun k => decide (e.1 ≤ t0 + 900 * k ∧ t0 + 900 * k < e.2))
  let got := nsum (inside.map (fun k => nmul (nmul (share p.s z (p.hour k) ch) (p.zPow z k)) hStep))
  let before := p.s.opt.zoneHist.filter (fun h => h.1 == z && decide (e.1 ≤ p.s.localSec h.2.1 ∧ p.s.localSec h.2.1 < t0))
  let delivered := nsum (before.map (fun h =>
    nmul (nmul (share p.s z (p.s.localSec h.2.1 % 86400 / 3600) ch) h.2.2) hStep))
  let part := if t0 + 172800 < e.2 then nrat (t0 + 172800 - e.1) (e.2 - e.1) else n1
  let goal := nmul (nsub (p.s.par64 0x2508 z (1 + 2 * ch)) delivered) part
  p.le goal (nadd got (p.at 15 z ch j)) && p.le n0 (p.at 15 z ch j)

/-- Every constraint of R180 and R181 holds to OPT_TOL. -/
def Solution.feasible (p : Solution) : Bool :=
  let ks := List.range 192
  let all := fun (tid : Nat) (f : Nat → Nat → Bool) => (p.s.defined tid 0).all (fun i => ks.all (f i))
  all 0x2501 p.srcOk && all 0x2502 p.stoOk && all 0x2500 p.cirOk && all 0x2504 p.clsOk && all 0x2503 p.pmpOk
    && all 0x2506 p.grdOk && all 0x2507 p.zonOk
    && (p.s.defined 0x2507 0).all (fun z => (p.photo z).zipIdx.all (fun e =>
      [0, 1, 2, 3].all (fun ch => p.photoOk z e.2 ch e.1)))

/-- 1,000,000 W in a MW: energies of the objective are in MWh (R182). -/
def mwh (w : Num) : Num := ndiv w (nint 1000000)

/-- The six terms of the objective (R182). -/
def Solution.terms (p : Solution) : List Num :=
  let ks := List.range 192
  let sum := fun (tid : Nat) (f : Nat → Nat → Num) => nsum ((p.s.defined tid 0).flatMap (fun i => ks.map (f i)))
  let price := fun (g lo k : Nat) => serVal p.r.tbl (p.s.tfld 0x2506 g 0 lo 6) (p.r.t0 + 900 * k)
  [sum 0x2506 (fun g k => nmul (mwh (nsub (nmul (price g 24 k) (p.at 9 g 0 k)) (nmul (price g 18 k) (p.at 10 g 0 k)))) hStep),
   sum 0x2501 (fun i k => nadd (nmul (mwh (nmul (serVal p.r.tbl (p.s.tfld 0x2501 i 0 13 6) (p.r.t0 + 900 * k)) (p.fuel i k)))
     hStep) (nmul (p.s.par64 0x2501 i 8) (p.start i k))),
   sum 0x2504 (fun c k => nmul (mwh (nmul (p.s.par64 0x2504 c 8) (p.at 8 c 0 k))) hStep),
   nsum ((p.s.defined 0x2507 0).flatMap (fun z => (p.photo z).zipIdx.flatMap (fun e =>
     [0, 1, 2, 3].map (fun ch => mwh (nmul (p.s.par64 0x2507 z 6) (p.at 15 z ch e.2)))))),
   nneg (nsum ((p.s.defined 0x2502 0).map (fun i => mwh (nmul (p.s.par64 0x2502 i 12) (p.stored i 192))))),
   nmul (nf32 (p.s.rd 0x2506C)) (sum 0x2503 (fun i k => nmul (mwh (p.at 6 i 0 k)) hStep))]

/-- Their sum. -/
def Solution.cost (p : Solution) : Num := nsum p.terms

/-! ## Stages 1 and 3 (R184, R185) -/

/-- A stage has converged when the primal residuals, which are the constraints', and the dual ones, which are the objective's, are at or
below OPT_TOL: every constraint holds and no other solution of the stage costs less, each to OPT_TOL (R182). DEDUCED: R184 does not say
how a dual residual is formed; an objective that another solution betters is what it measures (log 56). -/
def Solution.converged (p q : Solution) : Bool := p.feasible && (!q.feasible || p.le p.cost q.cost)

/-- A stage from its iterate `n + 1` on, for at most as many iterations as its first argument: the code of R186 that it gives (1 where it
converges), the iterations made, and its values. -/
def SolveIn.iterate (i : SolveIn) (stage : Nat) (fixed : List (Nat × Int)) : Nat → Nat → Nat × Nat × List (Nat × Int)
  | 0, n => (3, n, [])
  | m + 1, n =>
    let v := fixed ++ Config.optIterate i stage fixed (n + 1)
    if Config.optNumeric i stage fixed (n + 1) then (10, n + 1, [])
    else if Solution.converged ⟨i, v⟩ ⟨i, fixed ++ Config.optRival i stage fixed (n + 1)⟩ then (1, n + 1, v)
    else if Config.optCert i stage fixed (n + 1) then (2, n + 1, [])
    else i.iterate stage fixed m (n + 1)

/-- A whole stage: at most MAX_IT iterations. -/
def SolveIn.stage (i : SolveIn) (stage : Nat) (fixed : List (Nat × Int)) : Nat × Nat × List (Nat × Int) :=
  i.iterate stage fixed (i.view.fld ⟨0x25058, 16, 16⟩) 0

/-! ## Rounding (R184) -/

/-- The commitments of one source from step `k` on: state and steps held, the relaxed values, the threshold. -/
def roundSrc (minUp minDown : Nat) (thr : Num) (relaxed : Nat → Num) : Nat → Nat → Bool → Nat → List Bool
  | 0, _, _, _ => []
  | n + 1, k, st, held =>
    let on := if st && decide (held < minUp) then true
      else if !st && decide (held < minDown) then false
      else nle thr (relaxed k)
    on :: (if on = st then roundSrc minUp minDown thr relaxed n (k + 1) st (held + 1)
      else roundSrc minUp minDown thr relaxed n (k + 1) on 1)

/-- The commitment of a source in every step: on throughout with MUST_RUN or without COMMIT. -/
def SolveSt.commitOf (r : SolveSt) (i : Nat) : List Bool :=
  let s := r.inp.view
  if s.tfld 0x2501 i 0 25 1 = 1 ∧ s.tfld 0x2501 i 0 24 1 = 0 then
    let thr := nrat (s.fld ⟨0x25058, 0, 16⟩) (if r.halved then 2000 else 1000)
    roundSrc (s.tfld 0x2501 i 3 16 16) (s.tfld 0x2501 i 3 0 16) thr (fun k => nmGet r.relaxed (varKey 16 i 0 k) n0) 192 0
      (!nle (r.inp.iv 1 i 0) n0) ((r.inp.iv 3 i 0).toNat)
  else List.replicate 192 true

/-- on, start and stop of a source in every step, from its commitments and its state before step 0. -/
def fixedOf (i : Nat) : Nat → Bool → List Bool → List (Nat × Int)
  | _, _, [] => []
  | k, was, on :: l =>
    [(varKey 16 i 0 k, nint (b2n on)), (varKey 17 i 0 k, nint (b2n (on && !was))), (varKey 18 i 0 k, nint (b2n (was && !on)))]
      ++ fixedOf i (k + 1) on l

/-- The commitments that the rounding pass fixes. -/
def SolveSt.rounded (r : SolveSt) : List (Nat × Int) :=
  (r.inp.view.defined 0x2501 0).flatMap (fun i => fixedOf i 0 (!nle (r.inp.iv 1 i 0) n0) (r.commitOf i))

/-! ## Ends of a solve (R186, R189, R193) -/

/-- Remembers a SOLVE command that ended. -/
def State.optEnded (s : State) (c : Option HCmd) : State :=
  match c with
  | none => s
  | some h => s.optMod (fun o => { o with ended := (h.ses, h.gen, h.tag) :: o.ended })

/-- The stage of the running solve, as OPT_STAT shows it. -/
def State.solveStage (s : State) : Nat := s.fld ⟨0x25048, 16, 3⟩

/-- What every end of a solve with a code other than OK shows and counts (R186, R189). -/
def State.noteEnd (s : State) (last : Word) : State :=
  let s1 := (s.wr 0x2504C last).optMod (fun o => { o with sec := { o.sec with last := some last } })
  if wbits last 24 8 = 5 then s1.bump .OPT_ABORT else (s1.bump .OPT_FAIL).raiseEv 0x25 1

/-- Ends the running solve with a code other than OK. -/
def State.endSolve (s : State) (code group stage index : Nat) : State :=
  match s.opt.run with
  | none => s
  | some r =>
    let s1 := (s.wr 0x25094 (BitVec.ofNat 32 (s.since r.fno))).wr 0x25098 (BitVec.ofNat 32 (r.it1 % 2 ^ 16 * 2 ^ 16 + r.it3 % 2 ^ 16))
    let s2 := ((s1.setF ⟨0x25048, 16, 3⟩ 0).optMod (fun o => { o with run := none, done := none })).noteEnd
      (BitVec.ofNat 32 (code * 2 ^ 24 + group % 2 ^ 4 * 2 ^ 20 + stage * 2 ^ 16 + index % 2 ^ 16))
    let s3 := s2.optEnded r.cmd
    match r.cmd with
    | some c => s3.complete c .refused (BitVec.ofNat 32 code)
    | none => s3

/-- Ends the running solve in the stage it is in. -/
def State.haltSolve (s : State) (code : Nat) : State := s.endSolve code 0 s.solveStage 0

/-- The optimiser's cores stop solving (R192, R471): a solve in progress ends as one aborted, a SOLVE that waits is refused. DESIGN
CHOICE, safe: no code of R186 names this end (log 130). -/
def State.dropSolve (s : State) : State :=
  let s1 := s.haltSolve 5
  match s1.opt.startReq with
  | none => s1
  | some c => ((s1.optMod (fun o => { o with startReq := none })).optEnded (some c)).complete c .refused 5

/-- A solve is running: started, not ended, and not waiting for its publication. -/
def State.solving (s : State) : Bool := s.opt.run.isSome

/-- The optimiser's cores run: OPT locked, loads not shed (R23, R532). -/
def State.optClk (s : State) : Bool := s.bit (bitAt 0x3040 1) && !s.bit (bitAt 0x2040 2)

/-- The cores halt: an unfinished solve ends with code CLOCK. -/
def State.optHalt (s : State) : State := if s.opt.done.isNone then s.haltSolve 8 else s

/-- What a solve that starts now takes. -/
def State.solveIn (s : State) : SolveIn :=
  { t0 := stepStart s.nowSec s.utcOfs, ofs := s.opt.ofsSolve, regs := smFilter s.regs solveReg, tbl := smFilter s.tbl solveTbl,
    vals := s.initVals, zones := s.opt.zoneHist }

/-- Starts a solve at the tick (R183, R36); with the cores halted it ends at once with code CLOCK. -/
def State.startSolve (s : State) (cmd : Option HCmd) : State :=
  let s1 := (s.optMod (fun o => { o with ofsSolve := sint (s.rd 0x25060) })).dailyFit
  let i := s1.solveIn
  let r : SolveSt := { fno := s1.fno, clock := s1.clockNs, cmd := cmd, inp := i, relaxed := [], fixed := [], halved := false, it1 := 0, it3 := 0 }
  let short := (List.range 64).filter (fun x => s1.namedSeries.contains x && serShort i.tbl x i.t0)
  let mask := short.foldl (fun n x => n + 2 ^ x) 0
  let s2 := ((s1.wr 0x250A8 (lo32 mask)).wr 0x250AC (hi32 mask)).optMod (fun o =>
    { o with run := some r, done := none, startReq := none, utc := some s1.utcOfs, startAt := some s1.fno })
  let s3 := (s2.setF ⟨0x25048, 16, 3⟩ 1)
  let s4 := if short.isEmpty then s3 else s3.raiseEv 0x25 5
  if !s.optClk then s4.haltSolve 8 else if s1.inputFails i.tbl i.t0 then s4.haltSolve 6 else s4

/-- A start that falls while a solve runs is skipped (R183). -/
def State.skipSolve (s : State) : State := (s.bump .OPT_SKIP).raiseEv 0x25 4

/-- The start of a commanded solve, at the first tick after the command acted. -/
def State.commandedSolve (s : State) : State :=
  match s.opt.startReq with
  | none => s
  | some c =>
    if s.solving then
      (((s.optMod (fun o => { o with startReq := none })).skipSolve).optEnded (some c)).complete c .busy 0
    else s.startSolve (some c)

/-- PERIODIC_SOLVE_START (R183): with SOLVE_EN, at a tick that opens a TAI second matching PERIOD and PHASE. A standby module
does not solve (R192). A SOLVE command that started at the same tick shares the solve. -/
def execPeriodicSolveStart (s : State) : Out :=
  .next <| s.andShown <|
    let per := s.fld ⟨0x25050, 16, 16⟩
    if !s.bit (bitAt 0x25040 0) || s.mstate == 3 || s.nowNs != 0
        || (s.nowSec + per - s.fld ⟨0x25050, 0, 16⟩ % per) % per != 0 then s
    else if s.opt.startAt = some s.fno then s
    else if s.solving then s.skipSolve
    else s.startSolve none

/-! ## SOLVE_END (R184, R186) -/

/-- A value of the solution as an integer word. -/
def wInt (x : Num) : Word := ofInt (Config.numToInt x)

/-- A plan record of R187: its head, and the values of 192 steps. -/
def planRec (q a : Nat) (st : Nat) (id t0 sh : Nat) (vals : List Word) : Nat × List Word :=
  (q * 256 + a, [BitVec.ofNat 32 (st * 2 ^ 24 + q * 2 ^ 8 + a), lo32 id, lo32 t0, lo32 sh] ++ vals)

/-- The plan of a solution (R187); PLAN_ID and SHIFT are set at its publication. -/
def Solution.plan (p : Solution) : List (Nat × List Word) :=
  let ks := List.range 192
  let mk := fun (q tid : Nat) (f : Nat → Nat → Num) =>
    (p.s.defined tid 0).map (fun a => planRec q a GOOD 0 p.r.t0 0 (ks.map (fun k => wInt (f a k))))
  mk 0 0x2501 (fun i k => p.heat i k) ++ mk 1 0x2501 (fun i k => p.elec i k) ++ mk 2 0x2501 (fun i k => p.on i k)
    ++ mk 3 0x2502 (fun i k => nsub (p.at 2 i 0 k) (p.at 3 i 0 k))
    ++ mk 4 0x2502 (fun i k => nmul (ndiv (p.stored i k) (p.stoMax i)) (nint 10000))
    ++ mk 5 0x2503 (fun i k => p.at 5 i 0 k) ++ mk 6 0x2504 (fun c k => p.at 7 c 0 k) ++ mk 7 0x2504 (fun c k => p.at 8 c 0 k)
    ++ mk 8 0x2506 (fun g k => p.at 9 g 0 k) ++ mk 9 0x2506 (fun g k => p.at 10 g 0 k)
    ++ mk 10 0x2507 (fun z k => nmul (p.at 11 z 0 k) (nint 1000)) ++ mk 11 0x2500 (fun c k => nmul (p.at 12 c 0 k) (nint 1000))
    ++ mk 12 0x2504 (fun c k => p.r.forecast c k)

/-- 45 s have passed since the solve's start (R186). -/
def State.solveLate (s : State) (r : SolveSt) : Bool := decide (45000 ≤ s.since r.fno)

/-- Stage `k` of the running solve begins. -/
def State.toStage (s : State) (k : Nat) (r : SolveSt) : State :=
  (s.setF ⟨0x25048, 16, 3⟩ k).optMod (fun o => { o with run := some r })

/-- A stage that has not converged ends the solve: for codes 2 and 3 OPT_LAST names the asset of the largest residual. -/
def State.stageFails (s : State) (r : SolveSt) (code n : Nat) : State :=
  let k := s.solveStage
  let w := Config.optWorst r.inp k r.fixed n
  let s1 := s.optMod (fun o => { o with run := some r })
  if code = 10 then s1.endSolve 10 0 k 0 else s1.endSolve code w.1 k w.2

/-- The running stage ends (R184). Stage 3, infeasible for the first time, is repeated after a second rounding pass with ROUND_THR
halved; a solve whose stage 3 converges waits for its publication. -/
def State.stageEnd (s : State) (r : SolveSt) : State :=
  if s.solveStage = 1 then
    let e := r.inp.stage 1 []
    let r1 := { r with it1 := e.2.1, relaxed := e.2.2 }
    if e.1 = 1 then s.toStage 2 r1 else s.stageFails r1 e.1 e.2.1
  else if s.solveStage = 2 then s.toStage 3 { r with fixed := r.rounded }
  else
    let e := r.inp.stage 3 r.fixed
    let r1 := { r with it3 := r.it3 + e.2.1 }
    if e.1 = 1 then
      let p : Solution := ⟨r.inp, e.2.2⟩
      (s.wr 0x25098 (BitVec.ofNat 32 (r1.it1 % 2 ^ 16 * 2 ^ 16 + r1.it3 % 2 ^ 16))).optMod (fun o =>
        { o with run := some r1, done := some ⟨r1.it1, r1.it3, p.terms, p.plan⟩ })
    else if e.1 = 2 ∧ !r.halved then s.toStage 2 { r1 with halved := true }
    else s.stageFails r1 e.1 e.2.1

/-- SOLVE_END (R184, R186): stage `r`, the running stage of the solve, ends by what the solve's inputs make of it; a solve that is not
finished within 45 s has ended with code DEADLINE. On a standby module it is the end that the record in execution gives, SUB 1 of its PLAN
section (R456), whatever `r`. -/
def execSolveEnd (r : Nat) (s : State) : Out :=
  .next <|
    match s.recRun with
    | some h => (h.plan.last.map s.noteEnd).getD s
    | none =>
      match s.opt.run, s.opt.done with
      | some x, none => if s.solveLate x then s.haltSolve 4 else if r = s.solveStage then s.stageEnd x else s
      | _, _ => s

/-- SOLVE_DEADLINE (R186): 45 s after its start an unfinished solve ends with code DEADLINE. -/
def execSolveDeadline (s : State) : Out :=
  .next <|
    match s.opt.run, s.opt.done with
    | some r, none => if s.solveLate r then s.haltSolve 4 else s
    | _, _ => s

/-- ECC_UNCORR (R39): an uncorrected DRAM error fails the running solve. -/
def execEccUncorr (s : State) : Out := .next (((s.bump .OPT_ECC_UNCORR).raiseEv 0x25 10).haltSolve 7)

/-- DRAM_CORRECTED_ERROR (R39). -/
def execDramCorrectedError (s : State) : Out := .next (s.bump .OPT_ECC_CORR)

/-- BRIDGE_SNAPSHOT_COPY (R34): in the frame after a mailbox that the optimiser's cores read was published, its front buffer
is copied into DRAM, and the state of the sources is followed for R178. -/
def execBridgeSnapshotCopy (mb : Nat) (s : State) : Out :=
  .next <|
    match s.mbxOf mb with
    | none => s
    | some m =>
      if m.swapped && m.readers / 4 % 16 != 0 then
        let s1 := s.optMod (fun o => { o with snap := (mb, m.front) :: o.snap.filter (fun e => e.1 != mb) })
        (s1.defined 0x2501 0).foldl (fun a i =>
          match a.snapItem (a.trd 0x2501 i 1) with
          | none => a
          | some w =>
            match a.opt.held.lookup i with
            | some e => if e.1 = (w != 0) then a else
                a.optMod (fun o => { o with held := (i, w != 0, a.nowSec) :: o.held.filter (fun x => x.1 != i) })
            | none => a.optMod (fun o => { o with held := (i, w != 0, a.nowSec) :: o.held })) s1
      else s

/-! ## The plan in force (R37, R38, R187 to R191) -/

/-- Steps the plan has shifted when it applies at a TAI second: at most 191 (R188, R189). -/
def shiftAt (t0 sec : Nat) : Nat := min 191 ((sec - t0) / 900)

/-- Swaps a mailbox's buffers (R29). -/
def State.swapMbx (s : State) (n : Nat) : State :=
  s.mbxMod n (fun m => { m with front := m.back, back := m.front, closed := false, swapped := true, stale := false })

/-- The bridge writes items of an element of the plan slice mailbox, whose writer is an optimiser core, E2 to E5 (R34, R37); into another's
it writes nothing. -/
def State.slicePuts (s : State) (k : Nat) (its : List Item) : State :=
  let n := s.roleMbx 5
  if ((s.mbxOf n).map (fun m => decide (2 ≤ m.writer ∧ m.writer ≤ 5))).getD false then s.mbxPuts n (s.roleItem 5 k) its
  else s

/-- Writes the plan slice mailbox: PLAN_ID and T0, then steps 0 and 1 of every record; OPT_C_TSUP_c and OPT_G_IMP_g. -/
def State.putSlice (s : State) : State :=
  let it := fun w : Word => (⟨w, GOOD⟩ : Item)
  let s1 := s.slicePuts 0 [it (s.rd 0x25070), it (s.rd 0x25074)]
  let recs := (s.tbl.filter (fun e => tkeyTid e.1 == 0x250D && tkeyWord e.1 == 1)).map (fun e => tkeyIdx e.1)
  let s2 := recs.foldl (fun a i =>
    a.slicePuts (1 + i) [it (s.planStep (i / 256) (i % 256) 0), it (s.planStep (i / 256) (i % 256) 1)]) s1
  let s3 := (List.range 4).foldl (fun a c => a.wr (0x250F0 + 4 * c) (s.planStep 11 c 0)) s2
  let s4 := (List.range 8).foldl (fun a g => a.wr (0x25100 + 4 * g) (s.planStep 8 g 0)) s3
  (s4.swapMbx (s4.roleMbx 5)).optMod (fun o => { o with appliedSec := s.nowSec, appliedNs := s.nowNs })

/-- The head of a plan record: PLAN_ID in word 1, SHIFT in word 3 (R187). -/
def State.planHead (s : State) (id sh : Nat) (i : Nat) : State := (s.twr 0x250D i 1 (lo32 id)).twr 0x250D i 3 (lo32 sh)

/-- The plan in force from this tick: the summary, the plan registers, and the slice. -/
def State.putPlan (s : State) (id t0 : Nat) (clock ofs : Int) (summary : List Word) : State :=
  let sh := shiftAt t0 s.nowSec
  let s1 := (s.tclear 0x250E (fun _ => true)).trecSet 0x250E 0 0 summary
  let regs : List (Nat × Word) := [(0x25070, lo32 id), (0x25074, lo32 t0), (0x25078, lo32 (clock / 1000000000).toNat),
    (0x2507C, lo32 s.nowSec), (0x25080, lo32 s.nowNs), (0x25088, lo32 sh), (0x2508C, summary.getD 2 0), (0x25090, summary.getD 3 0),
    (0x2504C, BitVec.ofNat 32 (1 * 2 ^ 24 + 3 * 2 ^ 16))]
  let s2 := regs.foldl (fun a e => a.wr e.1 e.2) s1
  ((s2.setF (bitAt 0x25048 8) 1).optMod (fun o => { o with planStart := some clock, ofsPlan := ofs })).putSlice

/-- Publishes a plan at the tick. The frame's record takes its PLAN section; the plan table follows in the frames after (R457). -/
def State.publishPlan (s : State) (r : SolveSt) (d : PlanOut) : State :=
  let id := (s.fld Ctr.OPT_PLAN_ID.f + 1) % 2 ^ 32
  let sh := shiftAt r.inp.t0 s.nowSec
  let s1 := d.recs.foldl (fun a e => (a.trecSet 0x250D e.1 0 e.2).planHead id sh e.1) (s.tclear 0x250D (fun _ => true))
  let obj := nsum d.objective
  let summary := [lo32 id, BitVec.ofNat 32 (1 * 2 ^ 24)]
    ++ (obj :: d.objective).flatMap (fun x => [lo32 (Config.numToF64 x), hi32 (Config.numToF64 x)])
  let s2 := (((s1.wr 0x25094 (BitVec.ofNat 32 (s.since r.fno))).setF ⟨0x25048, 16, 3⟩ 0).optMod (fun o =>
    { o with run := none, done := none })).putPlan id r.inp.t0 r.clock r.inp.ofs summary
  let sec : PlanPub := {
    t0 := r.inp.t0, clock := r.clock, ofs := r.inp.ofs, summary := summary,
    fit := (s2.defined 0x2504 0).map (fun c => (c, s2.trec 0x250F c 10)),
    slice := d.recs.map (fun e => (e.1, s2.planStep (e.1 / 256) (e.1 % 256) 0, s2.planStep (e.1 / 256) (e.1 % 256) 1)) }
  s2.optMod (fun o => { o with sec := { o.sec with pub := some sec }, parts := d.recs.map (·.1) })

/-- Publishes the plan of a record's PLAN section on a standby module (R192): of its records the slice's steps stand at once, the others as
the PLAN_PART sections of the frames after bring them. -/
def State.publishRec (s : State) (d : PlanPub) : State :=
  let id := (d.summary.getD 0 0).toNat
  let sh := shiftAt d.t0 s.nowSec
  let s1 := d.slice.foldl (fun a e =>
    let w0 := BitVec.ofNat 32 (GOOD * 2 ^ 24 + e.1 / 256 * 2 ^ 8 + e.1 % 256)
    (((a.trecSet 0x250D e.1 0 [w0, lo32 id, lo32 d.t0, lo32 sh]).twr 0x250D e.1 (4 + min 191 sh) e.2.1).twr 0x250D e.1
      (4 + min 191 (sh + 1)) e.2.2)) (s.tclear 0x250D (fun _ => true))
  (d.fit.foldl (fun a e => a.trecSet 0x250F e.1 0 e.2) s1).putPlan id d.t0 d.clock d.ofs d.summary

/-- OPT_PLAN_AGE in s, and in ns. -/
def State.planAge (s : State) : Option Int := s.opt.planStart.map (fun p => s.clockNs - p)
def State.ageReg (s : State) : State :=
  match s.planAge with
  | none => s
  | some a => s.wr 0x25084 (ofInt (a / 1000000000))

/-- OPT_STAT.FALLBACK. -/
def optFallback : Fld := bitAt 0x25048 9

/-- Enters fallback (R190): each entry raises OPT_FALLBACK and is counted. -/
def State.enterFallback (s : State) : State :=
  if s.bit optFallback then s
  else (((s.setB optFallback true).optMod (fun o => { o with appliedSec := s.nowSec, appliedNs := s.nowNs })).bump
    .OPT_FALLBACK).raiseEv 0x25 2

/-- FALLBACK_END, unless FALLBACK acted at this tick (R190, R191). -/
def State.endFallback (s : State) : State :=
  if s.opt.fbAt = some s.fno ∨ !s.bit optFallback then s else (s.setB optFallback false).raiseEv 0x25 3

/-- What a publication raises and ends (R190, R199). -/
def State.published (s : State) : State := (((s.bump .OPT_SOLVE).raiseEv 0x25 0).endFallback).ageReg

/-- PLAN_PUB (R37, R186): the commit point; the SOLVE command that named the solve completes with PLAN_ID. On a standby module the plan is
that of the record in execution (R192), whose PLAN_PART sections fill the plan table. -/
def planPub (s : State) : State :=
  match s.recRun with
  | some h =>
    let s1 := match h.plan.pub with
      | some d => (s.publishRec d).published
      | none => s
    h.plan.parts.foldl (fun a e => a.trecSet 0x250D e.1 0 e.2) s1
  | none =>
    match s.opt.run, s.opt.done with
    | some r, some d =>
      let s1 := ((s.publishPlan r d).published).optEnded r.cmd
      match r.cmd with
      | some c => s1.complete c .ok (s1.rd 0x25070)
      | none => s1
    | _, _ => s

def execPlanPub (s : State) : Out := .next (s.andShown (planPub s))

/-- Weather and profile factor of every class as they stand for the step that begins (R176). -/
def State.stepWx (s : State) : List FitRow :=
  (s.defined 0x2504 0).map (fun c =>
    let x := s.weather s.tbl c s.nowSec
    ⟨c, s.nowSec, none, x.1, x.2.1, x.2.2, s.profile s.tbl c s.nowSec⟩)

/-- The energy register of every member node in mWh, and whether its reading is GOOD. -/
def State.energyNow (s : State) : List (Nat × Nat × Bool) :=
  (s.defined 0x2505 0).map (fun n =>
    let lo := s.nodeItem n 7
    (n, lo.w.toNat + (s.nodeItem n 8).w.toNat * 2 ^ 32, qual lo.st == GOOD && s.tfld 0x1201 n 0 0 3 != 4))

/-- The heat that a class's members metered in the step that ends, W; none where more than 10 % lacked a GOOD reading at either end. -/
def State.classHeat (s : State) (c : Nat) : Option Num :=
  let ms := s.members c
  let en := s.energyNow
  let good := fun (l : List (Nat × Nat × Bool)) n => ((l.lookup n).map (·.2)).getD false
  let mwhAt := fun (l : List (Nat × Nat × Bool)) n => (((l.lookup n).map (·.1)).getD 0 : Int)
  let bad := ms.filter (fun n => !good en n || !good s.opt.energy n)
  if ms.length < 10 * bad.length then none
  else some (nrat ((ms.map (fun n => mwhAt en n - mwhAt s.opt.energy n)).foldl (· + ·) 0 * 4) 1000)

/-- Measured lighting power and metered class heat of the step that ends (R176, R181), with the weather that stood at its start. -/
def State.stepHistory (s : State) : State :=
  let prev := s.nowSec - 900
  let zones := (s.defined 0x2507 0).filterMap (fun z =>
    (s.vrefUsable (s.trd 0x2507 z 1)).map (fun w => (z, prev, nint (sint w))))
  let rows := (s.opt.wx.filter (fun r => r.step == prev)).map (fun r => { r with heat := s.classHeat r.cls })
  s.optMod (fun o => { o with
    energy := s.energyNow, wx := s.stepWx,
    zoneHist := zones ++ o.zoneHist.filter (fun h => decide (s.nowSec ≤ h.2.1 + 172800)),
    hist := rows ++ o.hist.filter (fun h => decide (s.nowSec ≤ h.step + 57 * 86400)) })

/-- The tick opens a plan step (R162, R188). -/
def State.atStep (s : State) : Bool := s.nowNs == 0 && stepStart s.nowSec (s.opt.utc.getD s.utcOfs) == s.nowSec

/-- At this tick a finished plan is published, or the plan in force shifts: the bridge writes the plan slice, which swaps with the tick (R37,
R38, R188). -/
def State.sliceDue (s : State) : Bool :=
  (s.opt.run.isSome && s.opt.done.isSome) || (s.atStep && s.bit (bitAt 0x25048 8))

/-- PLAN_SHIFT (R188, R189): at a step boundary without publication the plan shifts; step 191 is held. -/
def execPlanShift (s : State) : Out :=
  .next <| s.andShown <|
    if !s.atStep then s
    else
      let s1 := (s.stepHistory).optMod (fun o => { o with ofsDef := sint (s.rd 0x25060) })
      let published := s.rd 0x2507C == lo32 s.nowSec && s.rd 0x25080 == lo32 s.nowNs && s.bit (bitAt 0x25048 8)
      if !s.bit (bitAt 0x25048 8) || published || s.opt.done.isSome then s1
      else (s1.setF ⟨0x25088, 0, 8⟩ (min 191 (s1.fld ⟨0x25088, 0, 8⟩ + 1))).putSlice

/-- FALLBACK_AGE_EXPIRE (R190, R191): the plan's age exceeds OPT_FALLBACK_AGE; a publication due at this tick wins. -/
def execFallbackAgeExpire (s : State) : Out :=
  .next <| s.andShown <|
    match s.planAge with
    | none => s
    | some a => if (s.rd 0x25054).toNat * 1000000000 < a ∧ s.opt.done.isNone then s.enterFallback else s

/-- OPT_CMD.FALLBACK (R190). -/
def optFallbackCmd (s : State) : State :=
  (s.enterFallback).optMod (fun o => { o with fbAt := some s.fno })

def execFallback (s : State) : Out := .next (optFallbackCmd s)

/-! ## CMD SOLVE and ABORT at the tick (R193, R194) -/

/-- SOLVE acts: BUSY while a solve runs or another SOLVE waits; otherwise it starts at the next tick. -/
def State.actSolve (s : State) (c : HCmd) : State :=
  if s.solving || s.opt.startReq.isSome || s.mstate == 3 then (s.optEnded (some c)).complete c .busy 0
  else s.optMod (fun o => { o with startReq := some c })

/-- ABORT acts. -/
def State.actAbort (s : State) (c : HCmd) : State :=
  let tag := (c.args.getD 0 0).toNat
  let named := fun h : HCmd => h.ses == c.ses && h.gen == c.gen && h.tag == tag
  match s.opt.run with
  | some r =>
    let mine := tag == 0 || (match r.cmd with
      | some h => named h
      | none => false)
    if mine then
      if s.opt.done.isSome then s.complete c .tooLate 0
      else (s.haltSolve 5).complete c .ok 0
    else if s.opt.ended.contains (c.ses, c.gen, tag) then s.complete c .tooLate 0
    else s.complete c .range 0
  | none =>
    match s.opt.startReq with
    | some h =>
      if tag == 0 then s.complete c .refused 0
      else if named h then
        ((((s.optMod (fun o => { o with startReq := none })).bump .OPT_ABORT).optEnded (some h)).complete h .refused 5).complete
          c .ok 0
      else if s.opt.ended.contains (c.ses, c.gen, tag) then s.complete c .tooLate 0
      else s.complete c .range 0
    | none =>
      if tag = 0 then s.complete c .refused 0
      else if s.opt.ended.contains (c.ses, c.gen, tag) then s.complete c .tooLate 0
      else s.complete c .range 0

/-! ## The asset bank (R172) -/

def execOptVerify (s : State) : Out := .next (s.bankVerify optBank).1
def execOptSwitch (s : State) : Out := .next (s.bankSwitch optBank).1
def execOptCancel (s : State) : Out := .next (s.bankCancel optBank)

/-- A word of the inactive bank. -/
def State.iw (s : State) (tid i w lo n : Nat) : Nat := s.tfld tid (inact i) w lo n

/-- Code 1: ranges of R167 to R169. -/
def State.oRange (s : State) (tid i : Nat) : Bool :=
  if tid = 0x2501 then decide (s.iw tid i 0 28 3 ≤ 5)
  else if tid = 0x2504 then decide (7 ≤ s.iw tid i 1 0 8 ∧ s.iw tid i 1 0 8 ≤ 56)
  else if tid = 0x2503 then
    let eta := s.par64 tid (inact i) 6
    nle n0 eta && nle eta n1
  else true

/-- A circuit, a grid point or a series named by the inactive bank exists. -/
def State.cirDef (s : State) (c : Nat) : Bool := s.iw 0x2500 c 0 31 1 == 1
def State.grdDef (s : State) (g : Nat) : Bool := s.iw 0x2506 g 0 31 1 == 1
def State.serDef (s : State) (i : Nat) : Bool := i == 63 || s.tfld 0x250B i 0 31 1 == 1

/-- Code 2: circuits, grid points, series, nodes, recipes and classes named. -/
def State.oXref (s : State) (tid i : Nat) : Bool :=
  if tid = 0x2501 then s.cirDef (s.iw tid i 0 26 2) && s.grdDef (s.iw tid i 0 19 3) && s.serDef (s.iw tid i 0 13 6)
  else if tid = 0x2502 then s.cirDef (s.iw tid i 0 28 2)
  else if tid = 0x2503 then s.cirDef (s.iw tid i 0 28 2) && s.grdDef (s.iw tid i 0 19 3)
  else if tid = 0x2504 then
    s.cirDef (s.iw tid i 0 28 2) && s.iw tid i 0 22 6 != 63 && s.serDef (s.iw tid i 0 22 6) && s.serDef (s.iw tid i 0 16 6)
      && s.serDef (s.iw tid i 0 10 6)
  else if tid = 0x2505 then s.iw 0x2504 (s.iw tid i 0 0 8) 0 31 1 == 1
  else if tid = 0x2506 then [24, 18, 12, 6].all (fun b => s.serDef (s.iw tid i 0 b 6))
  else if tid = 0x2507 then
    s.grdDef (s.iw tid i 0 28 3) && s.tfld 0x1200 (s.iw tid i 0 16 11) 0 31 1 == 1
      && s.tfld 0x1200 (s.iw tid i 0 0 11) 0 31 1 == 1 && s.iw 0x2508 i 0 31 1 == 1
  else true

/-- An hour lies in a recipe's photoperiod. -/
def inPhoto (st len h : Nat) : Bool := decide ((h + 24 - st) % 24 < len)

/-- Code 4: R170 for a defined recipe. -/
def State.oRecipe (s : State) (z : Nat) : Bool :=
  let st := s.iw 0x2508 z 0 8 5
  let len := s.iw 0x2508 z 0 0 5
  decide (st ≤ 23 ∧ 1 ≤ len ∧ len ≤ 24) && (List.range 24).all (fun h =>
    let hi := s.iw 0x2508 z (17 + 2 * h) 20 10
    let lo := s.iw 0x2508 z (17 + 2 * h) 10 10
    let sum := s.iw 0x2508 z (16 + 2 * h) 0 10 + s.iw 0x2508 z (16 + 2 * h) 10 10 + s.iw 0x2508 z (16 + 2 * h) 20 10
      + s.iw 0x2508 z (17 + 2 * h) 0 10
    (hi == 0 || sum == 1000) && decide (lo ≤ hi ∧ hi ≤ 1000) && (inPhoto st len h || hi == 0))

/-- Code 5: a class and its circuit, a chiller and a cold circuit. -/
def State.oKind (s : State) (tid i : Nat) : Bool :=
  if tid = 0x2504 then s.iw tid i 0 30 1 == s.iw 0x2500 (s.iw tid i 0 28 2) 0 30 1
  else if tid = 0x2501 then (s.iw tid i 0 28 3 == 3) == (s.iw 0x2500 (s.iw tid i 0 26 2) 0 30 1 == 1)
  else true

/-- The first failure of the inactive asset bank (R172). -/
def State.optVerify (s : State) : Option (Nat × Nat × Nat) :=
  let tids := [0x2500, 0x2501, 0x2502, 0x2503, 0x2504, 0x2505, 0x2506, 0x2507, 0x2508]
  let firstBad := fun (ok : Nat → Nat → Bool) => tids.findSome? (fun tid =>
    ((s.defined tid 1).find? (fun i => !ok tid i)).map (fun i => (tid - 0x2500, i)))
  match firstBad s.oRange with
  | some e => some (1, e.1, e.2)
  | none =>
  match firstBad s.oXref with
  | some e => some (2, e.1, e.2)
  | none =>
  if 262144 < s.varCount 1 then some (3, 0, 0)
  else
    match (s.defined 0x2508 1).find? (fun z => !s.oRecipe z) with
    | some z => some (4, 8, z)
    | none => (firstBad s.oKind).map (fun e => (5, e.1, e.2))

/-- OPT_VERIFY_END (R172). -/
def execOptVerifyEnd (s : State) : Out :=
  .next <|
    if !s.bit optBank.busy then s
    else
      match s.optVerify with
      | some (c, t, i) => s.bankFail optBank (BitVec.ofNat 32 (c * 2 ^ 28 + t * 2 ^ 24 + i))
      | none => s.bankPass optBank

/-- OPT_VAR_N and OPT_CON_N of the active bank. -/
def State.optCounts (s : State) : State :=
  (s.wr 0x2509C (lo32 (s.varCount 0))).wr 0x250A0 (lo32 (Config.optConN (s.varCount 0)))

/-- OPT_BANK_SWITCH (R172): at a hyperframe start; a running solve is abandoned with code BANK. -/
def execOptBankSwitch (s : State) : Out :=
  .next <| s.andShown <|
    if s.bit optBank.pend && s.seq.hfStart && !s.inExt then
      let s1 := (s.bankExchange optBank optTable).haltSolve 11
      (s1.optCounts).raiseEv 0x25 8
    else s

/-- The soft reset of the OPT page beside R55 (R191, R199): a running solve is abandoned with code RESET, a pending switch
withdrawn, and OPT_LAST shows no other solve; the plan, its registers, the fit and the fallback state stay. -/
def optSoftReset (s : State) : State :=
  (if s.opt.run.isSome then s.haltSolve 9 else s.wr 0x2504C 0).bankSoftReset optBank

/-- A TABLE_WRITE of the OPT page at its tick. -/
def optTableWrite (tid idx : Nat) (ws : List Word) (s : State) : State × Status :=
  match tableInfo tid with
  | none => (s, .badTable)
  | some t =>
    if t.banked then
      if idx < 2 ^ 23 then (s, .refused) else ((s.writeRecord t idx ws).bankWritten optBank, .ok)
    else (s.writeRecord t idx ws, .ok)

end Sys2Proof.Machine
end

