-- ==== Sys2Proof/Machine/Power.lean ====
section
/-! DEFINITION. The supply, the hold-up store and the power-fail sequence (R341 to R343, R526 to R534), and the losses of
clocks (R23, R527). -/

namespace Sys2Proof.Machine

/-! ## PWR_STAT (R526) -/

def pwrPf : Fld := bitAt 0x2040 0
def pwrBallast : Fld := bitAt 0x2040 1
def pwrShed : Fld := bitAt 0x2040 2
def pwrUv : Fld := bitAt 0x2040 3
def pwrOv : Fld := bitAt 0x2040 4

/-- `s` with the power-fail sequence changed. -/
def State.pwrMod (s : State) (f : PwrSt → PwrSt) : State := { s with pwr := f s.pwr }

/-- A power fail is in progress. -/
def State.powerFailing (s : State) : Bool := s.pwr.pfAt.isSome

/-- UNDERVOLT (R526): a supply below UV_WARN. -/
def execUndervolt (mv : Nat) (s : State) : Out :=
  .next <|
    if mv < s.fld ⟨0x2058, 0, 16⟩ && !s.bit pwrUv then (s.setB pwrUv true).raiseEv 2 2 else s

/-- OVERVOLT (R529): a supply above 60 V. -/
def execOvervolt (mv : Nat) (s : State) : Out :=
  .next <|
    if 60000 < mv && !s.bit pwrOv then ((s.setB pwrOv true).raiseEv 2 3).bump .PWR_OV else s

/-- BALLAST_LOW (R531): a store below 68 V for 10 ms, outside a power fail. -/
def execBallastLow (mv : Nat) (s : State) : Out :=
  .next <|
    if mv < 68000 && s.bit pwrBallast && !s.powerFailing then (s.setB pwrBallast false).raiseEv 2 4 else s

/-- The supply at a tick (R526): samples, extremes, and the flags that end with the condition. -/
def State.supplyTick (s : State) (vin ballast power : Nat) : State :=
  let s1 := ((s.wr 0x2044 (BitVec.ofNat 32 vin)).wr 0x2050 (BitVec.ofNat 32 ballast)).wr 0x2054 (BitVec.ofNat 32 power)
  let s2 := if s1.rd 0x2048 = 0 ∨ vin < (s1.rd 0x2048).toNat then s1.wr 0x2048 (BitVec.ofNat 32 vin) else s1
  let s3 := if (s2.rd 0x204C).toNat < vin then s2.wr 0x204C (BitVec.ofNat 32 vin) else s2
  let s4 := if s3.fld ⟨0x2058, 0, 16⟩ ≤ vin then s3.setB pwrUv false else s3
  let s5 := if vin ≤ 60000 then s4.setB pwrOv false else s4
  if 68000 ≤ ballast then s5.setB pwrBallast true else s5

/-! ## Shedding (R532) -/

/-- Sheds the loads: the optimiser's cores off, the ports' lines down, analogue and PWM outputs passive; the engines stop. -/
def State.shedLoads (s : State) : State :=
  let s1 := (s.optHalt).setB pwrShed true
  ([0, 1, 2, 3, 4].foldl (fun a p => lineDown p a) s1).aoutStat

/-- POWER_FAIL (R341): `ns` into the frame; shedding is complete `shedUs` after it. The tail of an earlier fail is shown no
longer (R342). -/
def execPowerFail (ns shedUs : Nat) (s : State) : Out :=
  .next <|
    if s.powerFailing then s
    else
      let s1 := (s.pwrMod (fun _ => { pfAt := some (s.elapsed ns), done := false })).setB pwrPf true
      let s2 := ((s1.bump .PWR_PF).raiseEv 2 0).wr 0x2070 (BitVec.ofNat 32 (s.instant ns).1)
      let s3 := (s2.setB (bitAt 0x1A04C 14) false).tkeep (fun k => !(tkeyTid k == 0x1A03 || tkeyTid k == 0x1B03))
      let s4 := (s3.metNvMod (fun n => { n with tail := none })).setF ⟨0x2074, 0, 16⟩ shedUs
      s4.shedLoads

/-! ## The snapshot (R341, R342) -/

/-- A 64-bit register as two words. -/
def words64 (x : Int) : List Word := [ofInt x, ofInt (Int.fdiv x (2 ^ 32))]

/-- A power in W over `us` microseconds, in mWh. -/
def tailMwh (p : Num) (us : Nat) : Int := Config.numToInt (toMwh (nmul p (nrat us 1000000)))

/-- The tail record (R342): the energy of each point in the remaining time, `us` microseconds. -/
def State.tailRecord (s : State) (us : Nat) : SMap :=
  let put := fun (m : SMap) (tid p : Nat) (ws : List Word) =>
    ws.zipIdx.foldl (fun a e => smSet tblReset a (tkey tid p e.2) e.1) m
  let flags := fun (on : Bool) => BitVec.ofNat 32 (2 ^ 31 + b2n on * 2 ^ 30 + us)
  let m1 := [0, 1, 2, 3].foldl (fun m p =>
    let d := s.metPt p
    put m 0x1A03 p ([flags (s.bit (bitAt 0x1A040 p))] ++ words64 (tailMwh d.lastP us)
      ++ [ofInt (tailMwh d.lastQ us)])) []
  (List.range 16).foldl (fun m t =>
    put m 0x1B03 t ([flags (s.bit (bitAt 0x1B040 t))] ++ words64 (tailMwh (nint (sint (s.rd (0x1B054 + 4 * t)))) us))) m1

/-- The open intervals, and the first of each point after the restart, carry PF (R343). -/
def State.metPowerOff (s : State) : State :=
  s.metMod (fun q => { q with ints := q.ints.map (fun e => (e.1, { e.2 with pf := true })),
                              pfNext := [0, 1, 2, 3] ++ (List.range 16).map (· + 16) })

/-- The last-gasp record of the registers as they stand; `ok`: it was committed and verified. -/
def State.lastGasp (s : State) (ok : Bool) : State :=
  let n := (s.fld (wordAt 0x1A050) + 1) % 2 ^ 32
  let s1 := s.metNvMod (fun m => { m with gasp := if ok then some (s.metSnap n) else none })
  if ok then s1.wr 0x1A050 (BitVec.ofNat 32 n) else s1

/-- PF_SNAPSHOT (R341): at the first tick at or after PF + 12 ms. The last-gasp record is committed `commit` ns after the tick;
then the tail record, and E7 stops: what the shed table says from PF + 16 ms holds. -/
def execPfSnapshot (commit : Nat) (ok : Bool) (s : State) : Out :=
  .next <| s.andShown <|
    match s.pwr.pfAt with
    | none => s
    | some pf =>
      if s.pwr.done || decide (s.elapsed 0 < pf + 12000000) then s
      else
        let us := min 2000 ((commit + 1500000) / 1000)
        let s1 := (s.lastGasp ok).metPowerOff
        let s2 := s1.metNvMod (fun n => { n with tail := some (s.tailRecord us) })
        let s3 := s2.setF ⟨0x2074, 16, 16⟩ ((s.elapsed commit - pf) / 10000)
        (s3.pwrMod (fun p => { p with done := true })).aoutStat

/-- POWER_RESTORED (R343, R533): the supply has been back for 10 ms, all of it after the declaration, before the snapshot; the loads return
at the tick. -/
def execPowerRestored (ns : Nat) (s : State) : Out :=
  .next <|
    match s.pwr.pfAt with
    | none => s
    | some pf =>
      if s.pwr.done || decide (s.elapsed ns < pf + 10000000) then s
      else
        let s1 := (s.pwrMod (fun p => { p with pfAt := none })).setB pwrPf false
        ((((s1.setB pwrShed false).aoutStat).bump .PWR_RESTORED).raiseEv 2 1)

/-! ## Clock losses (R23, R527) -/

/-- CLK_LOCK bit of a domain. -/
def clkLock (d : Nat) : Fld := bitAt 0x3040 d

/-- What the loss of a domain's lock does (R23): 0 CORE, 1 OPT, 2 TB, 3 PA, 4 PB, 5 HST, 6 TWN, 7 CANC, 8 CAND, 9 MOD, 10 ADC,
11 AON. -/
def clkConsequence (d : Nat) (s : State) : State :=
  if d = 0 ∨ d = 2 then s.enterFault 3 0
  else if d = 1 then s.optHalt
  else if d = 3 ∨ d = 4 then lineDown (d - 3) s
  else if d = 5 then lineDown 3 (lineDown 2 s)
  else if d = 6 then lineDown 4 s
  else if d = 7 ∨ d = 8 then s.privMove (d - 7)
  else if d = 9 then s.modClkLost
  else if d = 10 then s.adcClkLost
  else if d = 11 then ((s.setB (bitAt 0xA040 8) true).bump .TAMP_XTAL).raiseEv 0x0A 1
  else s

/-- LOCK_LOST (R23): domain `d` loses its lock; 12 stands for the TCXO, whose monitor raises TCXO_FAULT. -/
def execLockLost (d : Nat) (s : State) : Out :=
  .next <|
    if d = 12 then (s.raiseEv 3 2).enterFault 3 0
    else if 12 ≤ d ∨ s.bit (clkLock d) = false then s
    else
      let s1 := ((s.setB (clkLock d) false).setB (bitAt 0x3044 d) true).bump (.CLK_LOSS d)
      clkConsequence d (s1.raiseEv 3 0)

/-- LOCK_REGAINED (R23): the domain's subsystem resumes; a plant bus integrates first, as after bus-off. -/
def execLockRegained (d : Nat) (s : State) : Out :=
  .next <|
    if 12 ≤ d ∨ s.bit (clkLock d) = true then s
    else
      let s1 := (s.setB (clkLock d) true).raiseEv 3 1
      if d = 7 ∨ d = 8 then s1.canMod (d - 7) (fun c => { c with integ := true })
      else if d = 9 then s1.modClkBack
      else if d = 10 then s1.adcClkBack
      else if d = 11 then s1.setB (bitAt 0xA040 8) false
      else s1

end Sys2Proof.Machine
end

