-- ==== Sys2Proof/Machine/Twin.lean ====
section
/-! DEFINITION. Twin operation (R449 to R482), parking (R520, R521) and the self-tests (R471, R542). -/

namespace Sys2Proof.Config

/-- The digest of a frame (R460): the first 8 bytes of a SHA-256 over a serialisation that the spec gives in part. -/
opaque frameDigest : Machine.DigestIn → Nat

end Sys2Proof.Config

namespace Sys2Proof.Machine

/-- `s` with twin operation changed. -/
def State.twinMod (s : State) (f : TwinSt → TwinSt) : State := { s with twin := f s.twin }

/-- TWIN_EPOCH, and the module's serial number. -/
def State.epoch (s : State) : Nat := (s.rd 0xC04C).toNat
def State.serial (s : State) : Nat := (s.rd 0x0044).toNat + (s.rd 0x0048).toNat * 2 ^ 32
def State.partnerSerial (s : State) : Nat := (s.rd 0xC05C).toNat + (s.rd 0xC060).toNat * 2 ^ 32

/-! ## Health (R472, R473) -/

/-- TEST_FAIL of HLTH_STAT. -/
def testFail : Fld := bitAt 0x30044 8

/-- Every clock domain is locked. -/
def State.clkOk (s : State) : Bool := s.fld ⟨0x3040, 0, 12⟩ == 4095

/-- The module is ELIGIBLE (R473). -/
def State.eligible' (s : State) : Bool :=
  s.mstate == 3 && s.twin.instep && s.twin.agreed && (s.lineUp 0 || s.lineUp 1) && s.clkOk && !s.bit testFail

/-- Segments committed in the running or the last join (R481): those that the copy segment table shows committed. -/
def State.segN (s : State) : Nat := ((List.range 10).filter (fun i => s.tfld 0x0C00 i 0 30 2 == 2)).length

/-- The health word (R472). -/
def State.healthWord (s : State) : Word :=
  let b := fun (p : Bool) (i : Nat) => b2n p * 2 ^ i
  BitVec.ofNat 32 (s.mstate * 2 ^ 28 + b s.twin.instep 27 + b s.eligible' 26 + b s.twin.joining 25 + b s.twin.cold 24
    + b (s.lineUp 0) 23 + b (s.lineUp 1) 22 + b (!s.busOff 0) 21 + b (!s.busOff 1) 20 + b (s.lineUp 2) 19 + b (s.lineUp 3) 18
    + b (s.lineUp 4) 17 + b s.twin.tether 16 + b s.twin.scrubOk 15 + b s.twin.rbOk 14 + b s.twin.loopOk 13
    + b s.twin.plausOk 12 + b s.clkOk 11 + (if s.twin.joining then s.segN else 0))

/-! ## Leaving and losing a role -/

/-- Service sessions close (R426: loss of the module's role). -/
def State.closeService (s : State) : State := [0, 1, 2, 3, 4, 5].foldl (fun a i => a.closeSess i) s

/-- The module is in step no longer; it executes no record until a join completes (R461). -/
def State.outOfStep (s : State) : State :=
  s.twinMod (fun t => { t with instep := false, agreed := false, run := none, recs := [], mine := [], theirs := [] })

/-- A join ends without success (R477): JOIN_FAIL with its code; what was received is discarded. -/
def State.joinFail (s : State) (code : Nat) : State :=
  if !s.twin.joining then s
  else
    let s1 := ((s.setF ⟨0xC0B4, 0, 4⟩ code).bump .TWIN_JOIN_FAIL).raiseEv 0x0C 6
    let s2 := { s1 with segs := [] }
    s2.twinMod (fun t => { t with joining := false, joinF := none, replayed := false, recs := [], stored := 0,
                                  leftAt := if s.mstate = 4 then some s.ownFno else none })

/-- A record is lost (R461, R477). -/
def State.recLost (s : State) : State :=
  let s1 := if s.twin.instep then ((s.bump .TWIN_REC_LOST).raiseEv 0x0C 4).outOfStep else s
  s1.joinFail 5

/-- The module parks (R520) with a reason: 1 ORDER, 2 REFUSED, 3 EPOCH_AHEAD, 4 SPLIT, 5 TAMPER, 6 COMMAND, 7 BEACON. -/
def State.park (s : State) (reason : Nat) : State :=
  let s1 := ((s.setF ⟨0x0054, 12, 4⟩ reason).goto 5).raiseEv 0 2
  ((s1.dropSolve.closeService).outOfStep).twinMod (fun t => { t with declared := false, passed := false, isolated := false })

/-- The active module of a pair gives its role up and stands by, out of step (R470). -/
def State.standDown (s : State) : State :=
  let s1 := ((s.goto 3).standbyHold.dropSolve.closeService).outOfStep
  { s1 with lnch := [] }.twinMod (fun t => { t with ticks := 0, good := false, goodPrev := false, exec := none, leftAt := none,
                                                    declared := false, passed := false, handover := true })

/-! ## Time of the standby module (R118, R453) -/

/-- The quality that a standby module reports: the active module's, HOLDOVER while TWIN is not valid. -/
def State.standbyQuality (s : State) (q : Nat) : State :=
  if s.mstate ≠ 3 then s else s.setQuality (if s.srcOk 4 then q else 2)

/-! ## Digests (R460, R461) -/

/-- What the digest of the frame that ends is taken over. -/
def State.digestIn (s : State) : DigestIn :=
  { mbx := (s.mbx.filter (fun m => m.closed)).map (fun m => (m.num, m.back)), gsp := s.twin.msgs.map (fun m => (m.hdr, m.recs)), can := s.twin.cans,
    outs := (s.rd 0x1C050).toNat % 256 :: ([0x1D068, 0x1D06C, 0x1D070, 0x1D074, 0x1D0A8, 0x1D0AC, 0x1D0B0, 0x1D0B4].map
      (fun a => (s.rd a).toNat)) ++ [maskOf 4 s.tripOn] }

/-- Compares the digests of one frame: a difference makes a module in step lose it. -/
def State.digestOne (s : State) (f mine theirs : Nat) : State :=
  let s1 := s.twinMod (fun t => { t with mine := t.mine.filter (fun e => e.1 != f), theirs := t.theirs.filter (fun e => e.1 != f) })
  if mine = theirs then s1.twinMod (fun t => { t with agreed := t.agreed || t.instep || t.replayed })
  else if s1.twin.instep then ((s1.bump .TWIN_DIVERGE).raiseEv 0x0C 3).outOfStep
  else s1

/-- Compares every frame of which both digests are known. -/
def State.digestCheck (s : State) : State :=
  if s.mstate ≠ 3 then s
  else s.twin.mine.foldl (fun a e =>
    match a.twin.theirs.lookup e.1 with
    | some d => a.digestOne e.1 e.2 d
    | none => a) s

/-! ## Heartbeats (R451 to R453, R463) -/

/-- The module holds the record of a frame, or has executed it. -/
def State.holdsRec (s : State) (f : Nat) : Bool :=
  s.twin.recs.any (fun r => r.fno == f) || (s.twin.run.map (·.fno)) == some f
    || (match s.twin.exec with
        | some e => decide (signed 32 ((f + 2 ^ 32 - e % 2 ^ 32) % 2 ^ 32) ≤ 0)
        | none => false)

/-- The declaration of a failure is withdrawn (R469). -/
def State.withdraw (s : State) : State :=
  s.twinMod (fun t => { t with declared := false, passed := false, isoRaised := false, isolated := false })

/-- The copy segment table of a join starts anew with F (R481). -/
def State.segTable (s : State) (f : Nat) : State :=
  (List.range 10).foldl (fun a i => a.trecSet 0x0C00 i 0 [0, 0, 0, BitVec.ofNat 32 f])
    ({ s.wr 0xC064 (BitVec.ofNat 32 f) with segs := [] })

/-- A join begins at this module with F. -/
def State.joinBegin (s : State) (f : Nat) : State :=
  (s.segTable f).twinMod (fun t => { t with joining := true, joinF := some f, joinAt := some s.ownFno, replayed := false, agreed := false,
                                            stored := 0, recs := [], mine := [], theirs := [] })

/-- What a heartbeat says of time on a standby module (R453): its own timestamps of port T are corrected by the port's latencies, and the offset
by its asymmetry (R109). -/
def State.hbTime (s : State) (h : Heartbeat) : State :=
  if s.mstate = 3 ∧ h.mstate = 4 ∧ h.path = 0 ∧ h.timed then
    let t1 := h.t1 + s.latOut 4
    let t4 := h.t4 - s.latIn 4
    let d := Int.fdiv ((t4 - t1) - (h.t3 - h.t2)) 2
    let s1 := (s.timeEval.wr 0x40F0 (ofInt d)).timeMod (fun t => { t with twinFno := some s.ownFno })
    (s1.timeEval).timeOffset 4 (h.t3 + d + s.portAsym 4 - t4)
  else s

/-- What a heartbeat says of joins: a standby module joins while the active one says so; the active module notes when its
partner left step (R474). -/
def State.hbJoin (s : State) (h : Heartbeat) : State :=
  if s.mstate = 3 then
    if h.mstate = 4 && h.joining && !s.twin.joining && !s.twin.instep then s.joinBegin h.fno
    else if h.mstate = 4 && !h.joining && s.twin.joining && !s.twin.instep && (s.twin.joinF != some h.fno) then
      { s with segs := [] }.twinMod (fun t => { t with joining := false, joinF := none, replayed := false, recs := [], stored := 0 })
    else s
  else if s.mstate = 4 then
    s.twinMod (fun t => { t with leftAt :=
      if h.mstate = 3 && !h.instep then (match t.leftAt with | some f => some f | none => some s.ownFno) else none })
  else s

/-- HEARTBEAT_RX (R452): a heartbeat counts when it arrives within 100 µs with a correct CRC, unless the paths are off (R532); on port T, whose line is up (R23), its
ingress is RX_NS of this module's next one (R451). -/
def execHeartbeatRx (h : Heartbeat) (s : State) : Out :=
  .next <|
    if !h.crcOk || decide (100000 < h.ns) || !s.twin.on || s.shed || (h.path == 0 && !s.lineUp 4) then s
    else
      let p : PartnerHb := { mstate := h.mstate, recOk := h.recOk, instep := h.instep, eligible := h.eligible, joining := h.joining,
                             fno := h.fno, epoch := h.epoch, health := h.health }
      let good := h.mstate == 4 && h.recOk
      let s1 := s.twinMod (fun t => { t with
        hb := some p, link := t.link || h.path == 0, tether := t.tether || h.path == 1, any := true, good := t.good || good,
        same := h.same, rxNs := if h.path = 0 then (s.ownNs + h.ns) % 1000000000 else t.rxNs, lost := t.lost && (h.mstate == 5 || h.mstate == 6),
        theirs := if (t.theirs.lookup h.execFno).isSome then t.theirs else ((h.execFno, h.digest) :: t.theirs).take 8 })
      let s2 := if good && s1.twin.declared then s1.withdraw else s1
      let s3 := (s2.hbTime h).hbJoin h
      let missing := s3.mstate == 3 && good && (s3.twin.instep || (s3.twin.joining && s3.twin.joinF != some h.fno))
        && !s3.holdsRec ((h.fno + 2 ^ 32 - 1) % 2 ^ 32)
      (if missing then s3.recLost else s3).digestCheck

/-- HEARTBEAT_MISS (R452): no heartbeat has come on a path (0 port T, 1 tether) within 100 µs of the tick. -/
def execHeartbeatMiss (path : Nat) (s : State) : Out :=
  .next <|
    if !s.twin.on || (if path = 0 then s.twin.link else s.twin.tether) then s
    else
      let s1 := s.bump (if path = 0 then .TWIN_HB_MISS_LINK else .TWIN_HB_MISS_TETHER)
      if s1.mstate = 3 then (s1.timeEval).standbyHold else s1

/-- PARTNER_LOST (R463): two consecutive partner heartbeats missed on both paths, or a partner in FAULT or PARKED. -/
def execPartnerLost (s : State) : Out :=
  .next <|
    let gone := decide (2 ≤ s.twin.ticks) && !s.twin.any && !s.twin.anyPrev
    let out := match s.twin.hb with
      | some p => (p.mstate == 5 || p.mstate == 6) && (s.twin.any || s.twin.anyPrev)
      | none => false
    if s.mstate = 4 && s.cfg.pair && s.twin.on && !s.twin.lost && (gone || out) then
      ((s.twinMod (fun t => { t with lost := true, leftAt := none })).raiseEv 0x0C 0).joinFail 6
    else s

/-! ## Failure of the active module (R463 to R469) -/

/-- A running join of a standby module fails with code 6 where no heartbeat of any kind has come at two consecutive ticks (R477). -/
def State.joinStopped (s : State) : State := if s.twin.any || s.twin.anyPrev then s else s.joinFail 6

/-- FAILURE_DECLARE (R463): 100 µs after the second of two consecutive ticks whose heartbeats are missed. A running join fails then where
COLD_TAKEOVER is 0; with COLD_TAKEOVER at 1 its committed segments wait for the isolation check, since a cold takeover uses them (R480).
DEDUCED: R477 names no instant for code 6, and R480 needs the segments of the current join. -/
def execFailureDeclare (s : State) : Out :=
  .next <|
    if s.mstate = 3 && s.cfg.pair && s.twin.on && !s.twin.declared && decide (2 ≤ s.twin.ticks) && !s.twin.good && !s.twin.goodPrev then
      let s1 := s.twinMod (fun t => { t with declared := true, passed := false, isoRaised := false })
      if s1.bit (bitAt 0xC040 1) then s1 else s1.joinStopped
    else s

/-- ISOLATION_CHECK (R464): by ISO_WIN after a tick of a declaration. -/
def execIsolationCheck (s : State) : Out :=
  .next <|
    if s.mstate ≠ 3 || !s.twin.declared then s
    else if !s.lineUp 0 && !s.lineUp 1 then s.twinMod (fun t => { t with passed := false })
    else if s.twin.beacon || s.twin.beaconPrev then
      let s1 := (s.joinStopped).twinMod (fun t => { t with passed := false, isolated := true, isoRaised := true })
      if s.twin.isoRaised then s1 else (s1.bump .TWIN_ISOLATED).raiseEv 0x0C 2
    else s.twinMod (fun t => { t with passed := true, isolated := false })

/-- The whole frames of the gap before the takeover tick (R467). -/
def State.gapFrames (s : State) : Nat :=
  match s.twin.exec with
  | some e => min 4 ((s.ownFno + 2 ^ 32 - e % 2 ^ 32) % 2 ^ 32)
  | none => 4

/-- Report slots that overlap the gap are not counted as missed; neither are the plant buses' running cycles (R467). -/
def State.gapGrace (s : State) : State :=
  let pos := ((s.fld ⟨0x6048, 0, 10⟩ + 1) % 100) * 1000000
  let s1 := s.nodes.foldl (fun a n =>
    match a.reportAt n with
    | none => a
    | some r =>
      if (pos + 100000000 - r) % 100000000 ≤ a.gapFrames * 1000000 then
        a.nodeMod n (fun d => { d with graceCyc := some (a.snet.cyc + (if pos = 0 then 1 else 0)) })
      else a) s
  (s1.canMod 0 (fun c => { c with gap := true })).canMod 1 (fun c => { c with gap := true })

/-- Comparators whose launch time fell into the gap fire at the takeover tick (R291, R122). -/
def State.gapLaunches (s : State) : State :=
  s.lnch.foldl (fun a c =>
    let late := -(a.ltAhead c.sec c.ns 1000000)
    if late < 0 then a else a.lnchLate c late.toNat .takeover 1000000 (a.instant 1000000)) s

/-- The new active module's transmit SEQ of each service session goes up by 2^32, and each open one is sent a NOTIFY (R446). -/
def State.takeSessions (s : State) : State :=
  [0, 1, 2, 3, 4, 5].foldl (fun a i =>
    let b := a.sessMod i (fun x => { x with txSeq := x.txSeq + 2 ^ 32 })
    if (b.sess i).st = 2 then sendNotify i true b else b) s

/-- A gratuitous ARP or neighbour advertisement for the service address of H1 (0) or H2 (1), where the port is enabled (R420). -/
def State.arpSend (s : State) (p : Nat) : State :=
  if s.portOn p && s.svcOn p then s.emit (.arp (2 + p) (s.bit (bitAt 0xB040 2))) else s

/-- What a takeover does at its tick, before that tick itself (R465). -/
def State.takeOver (s : State) : State :=
  let s0 := s.gapGrace
  let s1 := s0.twinMod (fun t => { t with
    run := none, recs := [], declared := false, passed := false, isolated := false, instep := false, agreed := false, joining := false,
    joinF := none, replayed := false, exec := none, closed := true, notClosed := 0, leftAt := none, lost := false, handover := false })
  let s2 := (s1.wr 0xC04C (BitVec.ofNat 32 (s1.epoch + 1))).goto 4
  let s3 := ((s2.bump .TWIN_TAKEOVER).wr 0xC070 (BitVec.ofNat 32 (s2.ownFno + 1))).wr 0xC074
    (lo32 (Int.fdiv s2.nextTick 1000000000).toNat)
  let s4 := [0, 1].foldl (fun a p => ((a.canP p).pend.foldl (fun b e => b.canWithdraw p e.1) a).canMod p (fun c =>
    { c with integ := true, first := true, tail := none, ref := none, refDly := none, priv := [] })) s3
  let s5 := (((s4.prpSupervise).arpSend 0).arpSend 1).privTakeover
  let s6 := ((s5.gapLaunches).takeSessions).timeMod (fun t => { t with twinFno := none })
  ((s6.timeEval).servoHold).raiseEv 0x0C 1

/-- The standby module has executed the record that hands the role over (R470). -/
def State.handed (s : State) : Bool := match s.twin.run with
  | some r => r.handover
  | none => false

/-- TAKEOVER (R465, R470): at the coming tick, by an ELIGIBLE standby module that passed the check, or after a planned switch. -/
def execTakeover (s : State) : Out :=
  .next <|
    if s.mstate = 3 && s.cfg.pair && (s.handed || (s.twin.declared && s.twin.passed && s.eligible')) then s.tickEarly.takeOver else s

/-! ## Records (R455 to R462) -/

/-- INPUT_RECORD_RX (R456, R459): a record that verifies is held until it is executed, or stored for a replay; one with OVERFLOW makes
the module lose step. After a declaration records are discarded. -/
def execInputRecordRx (r : InRec) (s : State) : Out :=
  .next <|
    if s.mstate ≠ 3 || s.twin.declared || !r.ok || !s.lineUp 4 || r.hdr.epoch != (s.twin.hb.map (·.epoch)).getD s.epoch then s
    else
      let s0 := if (s.rd 0xC06C).toNat < r.len then s.wr 0xC06C (BitVec.ofNat 32 r.len) else s
      let s1 := s0.standbyQuality (wbits r.timeStat 0 3)
      if !s1.twin.instep && !s1.twin.joining then s1
      else if r.hdr.overflow then s1.recLost
      else if s1.holdsRec r.hdr.fno then s1
      else
        let s2 := s1.twinMod (fun t => { t with recs := t.recs ++ [r.hdr],
                                                 stored := if t.joining && !t.replayed then t.stored + r.len else t.stored })
        if 2 ^ 32 < s2.twin.stored then s2.joinFail 3 else s2

/-- REC_LOST (R461): the next record is incomplete 2 frames after its due tick. -/
def execRecLost (s : State) : Out :=
  .next <|
    match s.twin.exec with
    | none => s
    | some e =>
      if s.mstate = 3 && (s.twin.instep || (s.twin.joining && s.twin.replayed)) && s.twin.run.isNone && decide (4 ≤ s.ownSince e) then
        s.recLost
      else s

/-- RECORD_NOT_CLOSED (R462): no record closed at 2 consecutive ticks. -/
def execRecordNotClosed (s : State) : Out :=
  .next (if s.mstate = 4 && s.cfg.pair && decide (2 ≤ s.twin.notClosed) then s.enterFault 6 0x0A else s)

/-- BEACON_RX (R454, R468): a beacon of another module within ISO_WIN of the tick is seen; an active module that sees a higher
epoch parks at the next tick. -/
def execBeaconRx (b : Beacon) (s : State) : Out :=
  .next <|
    if !b.crcOk || b.serial = s.serial || !s.lineUp b.port then s
    else
      let inTime := decide (b.ns ≤ s.fld ⟨0xC040, 24, 8⟩ * 10000)
      let s1 := (s.rxFrame b.port).twinMod (fun t => { t with beacon := t.beacon || inTime, seen := t.seen || inTime })
      if s1.mstate = 4 && decide (s1.epoch < b.epoch) && !s1.twin.split then
        ((s1.twinMod (fun t => { t with split := true })).bump .TWIN_SPLIT).raiseEv 0x0C 8
      else s1

/-! ## Commands (R470, R474, R477, R521) -/

/-- The partner's state as its last heartbeat gave it. -/
def State.pState (s : State) : Option Nat := s.twin.hb.map (·.mstate)

/-- The active module of a pair has an ELIGIBLE partner: by its last heartbeat, while PARTNER_LOST does not stand (DEDUCED: a partner that is
lost is not known to be ELIGIBLE). -/
def State.canSwitch (s : State) : Bool := s.mstate == 4 && s.cfg.pair && (s.twin.hb.map (·.eligible)).getD false && !s.twin.lost

/-- TWIN_CMD.SWITCH (R470): REFUSED unless the partner is ELIGIBLE. -/
def twinSwitchCmd (s : State) : State × Status :=
  if s.canSwitch then ((s.emit (.handover ((s.ownFno + 2 ^ 32 - 1) % 2 ^ 32))).standDown, .ok) else (s, .refused)

def execTwinSwitch (s : State) : Out := .next (twinSwitchCmd s).1

/-- A join starts at the active module; with other images it fails at once (R474). F is the next tick's frame. -/
def State.joinStart (s : State) : State :=
  let s1 := s.joinBegin ((s.ownFno + 1) % 2 ^ 32)
  if s.twin.same then s1 else s1.joinFail 1

/-- The partner stands by out of step and does not join. -/
def State.partnerOut (s : State) : Bool := match s.twin.hb with
  | some p => p.mstate == 3 && !p.instep && !p.joining
  | none => false

/-- TWIN_CMD.JOIN (R474): REFUSED while a join runs or while the partner is not STANDBY. -/
def twinJoinCmd (s : State) : State × Status :=
  if s.mstate ≠ 4 || !s.cfg.pair || s.twin.joining || s.pState != some 3 then (s, .refused)
  else if s.partnerOut then (s.joinStart, .ok)
  else (s, .ok)

def execTwinJoin (s : State) : Out := .next (twinJoinCmd s).1

/-- JOIN_START (R474): with AUTO_JOIN, JOIN_HOLD seconds after the partner left step or a join failed. -/
def execJoinStart (s : State) : Out :=
  .next <|
    match s.twin.leftAt with
    | none => s
    | some f =>
      if s.mstate = 4 && s.cfg.pair && s.bit (bitAt 0xC040 0) && !s.twin.joining && s.partnerOut
          && decide (s.fld ⟨0xC040, 16, 8⟩ * 1000 ≤ s.ownSince f) then s.joinStart
      else s

/-- TWIN_CMD.ABANDON (R477). -/
def twinAbandonCmd (s : State) : State := s.joinFail 7
def execAbandon (s : State) : Out := .next (twinAbandonCmd s)

/-- JOIN_TIMEOUT (R477): COPY_MAX seconds after F. -/
def execJoinTimeout (s : State) : Out :=
  .next <|
    match s.twin.joinAt with
    | none => s
    | some f => if s.twin.joining && decide (s.fld ⟨0xC068, 16, 16⟩ * 1000 ≤ s.ownSince f) then s.joinFail 4 else s

/-! ## The copy (R475 to R477) -/

/-- SEGMENT_COMMIT (R475): a segment that has come over port T verifies and is committed, or is sent again, up to 3 times. -/
def execSegmentCommit (seg : Nat) (ok : Bool) (size : Nat) (crc : Word) (d : SegData) (s : State) : Out :=
  .next <|
    if !s.twin.joining || decide (10 ≤ seg) || !s.lineUp 4 || s.tfld 0x0C00 seg 0 30 2 == 2 then s
    else
      let tries := s.tfld 0x0C00 seg 0 0 3 + 1
      let s1 := ((s.tset 0x0C00 seg 0 0 3 tries).twr 0x0C00 seg 1 (BitVec.ofNat 32 size)).twr 0x0C00 seg 2 crc
      if ok then
        let s2 : State := { s1.tset 0x0C00 seg 0 30 2 2 with segs := s1.segs ++ [(seg, d)] }
        if seg = 0 ∧ s2.mstate = 3 then
          s2.metNvMod (fun n => match d.metSave with
            | none => n
            | some m => if n.next = 0 then { n with a := some m, next := 1 } else { n with b := some m, next := 0 })
        else s2
      else if 4 ≤ tries then (s1.tset 0x0C00 seg 0 30 2 3).joinFail 2
      else s1.tset 0x0C00 seg 0 30 2 1

/-- Pages whose registers and tables are each module's own: DEV, PWR, CLK, EVR, TAMP, TWIN, HLTH. -/
def ownPage (p : Nat) : Bool := [0x00, 0x02, 0x03, 0x08, 0x0A, 0x0C, 0x30].contains p

/-- Table words that a copy does not replace: those of own pages, and slots 0, 1, 2 and 4 of the key store (R499). -/
def ownWord (k : Nat) : Bool :=
  ownPage (tablePage (tkeyTid k)) || ((tkeyTid k == 0x0900 || tkeyTid k == 0x0902) && [0, 1, 2, 4].contains (tkeyIdx k))

/-- The part of a copy that lies over what the module holds: sessions 6 and 7 stay its own (R475). -/
def HostSt.copy (own : HostSt) (d : HostSt) : HostSt := { d with sess := d.sess.take 6 ++ own.sess.drop 6 }

/-- Lays a copy over the state. -/
def State.overlay (s : State) (d : SegData) : State :=
  { s with
    regs := smOver regReset s.regs (d.regs.filter (fun e => !ownPage (pageOf e.1)))
    tbl := smOver tblReset s.tbl (d.tbl.filter (fun e => !ownWord e.1))
    mbx := d.mbx.getD s.mbx
    met := d.met.getD s.met
    lnch := d.lnch.getD s.lnch
    snet := match d.snet with
      | some x => { x with lines := s.snet.lines }
      | none => s.snet
    can := d.can.getD s.can
    priv := d.priv.getD s.priv
    model := d.model.getD s.model
    loop := d.loop.getD s.loop
    cpe := d.cpe.getD s.cpe
    cpeNv := d.cpeNv.getD s.cpeNv
    host := match d.host with
      | some x => s.host.copy x
      | none => s.host
    icu := d.icu.getD s.icu
    opt := { d.opt.getD s.opt with run := none, done := none, startReq := none, sec := PlanSec.none_, parts := [] }
    keys := { s.keys with staged := match d.keys with
      | some x => x.filter (fun e => !([0, 1, 2, 4].contains e.1)) ++ s.keys.staged.filter (fun e => [0, 1, 2, 4].contains e.1)
      | none => s.keys.staged }
    twin := { s.twin with fhi := d.fhi.getD s.twin.fhi } }

/-- REPLAY_END (R476): with all segments committed the snapshot is loaded and the stored records are replayed; `d` is the state
that the replay ends in, laid over the snapshot. -/
def execReplayEnd (d : SegData) (s : State) : Out :=
  .next <|
    if s.mstate ≠ 3 || !s.twin.joining || s.twin.replayed || s.segs.length ≠ 10 then s
    else
      let s1 := (s.segs.foldl (fun a e => a.overlay e.2) s).overlay d
      let last := s.twin.recs.getLast?
      s1.twinMod (fun t => { t with replayed := true, exec := (last.map (·.fno)).orElse (fun _ => t.joinF), recs := [], run := none,
                                    execSec := (last.map RecHdr.sec).getD 0,
                                    execLast := (last.map RecHdr.frame).getD 0, stored := 0 })

/-- JOIN_DONE (R477, R459): the first digest agrees after the replay; the standby module is in step, its frame count and its epoch are the
active module's. The active module sees it in the partner's heartbeat. -/
def execJoinDone (s : State) : Out :=
  .next <|
    if !s.twin.joining then s
    else if s.mstate = 3 && s.twin.replayed && s.twin.agreed then
      let s1 := s.twinMod (fun t => { t with joining := false, instep := true, replayed := false, joinF := none })
      let s2 := match s1.twin.run, s1.twin.hb with
        | some r, _ => s1.wr 0x604C (BitVec.ofNat 32 (r.fno + 1))
        | none, some p => s1.wr 0x604C (BitVec.ofNat 32 (p.fno + b2n (!(s1.twin.link || s1.twin.tether))))
        | none, none => s1
      let s3 := match s2.twin.hb with
        | some p => s2.wr 0xC04C (BitVec.ofNat 32 p.epoch)
        | none => s2
      (s3.bump .TWIN_JOIN).raiseEv 0x0C 5
    else if s.mstate = 4 && (s.twin.hb.map (·.instep)).getD false then
      ((s.twinMod (fun t => { t with joining := false, joinF := none, leftAt := none })).bump .TWIN_JOIN).raiseEv 0x0C 5
    else s

/-- The module discards its state (R478): the engines' partitions are cleared, and its meter and RETAIN saves are superseded. -/
def State.discardState (s : State) : State :=
  { s with
    met := MetSt.init, metNv := { s.metNv with a := none, b := none, gasp := none }, cpeNv := s.cpeNv.map (fun n => { n with a := none, b := none }),
    cpe := s.cpe.map (fun c => { CpeSt.empty with tasks := c.tasks }), model := ModelSt.init, opt := OptSt.init, snet := { SnetSt.init with lines := s.snet.lines }, lnch := [], loop := LoopEng.init,
    priv := PrivSt.init }

/-! ## Parking (R521) -/

/-- DEV_CMD on the active module: REFUSED unless the partner is in the state named; the command goes out on port T. -/
def devCmd (cmd want : Nat) (s : State) : State × Status :=
  if s.mstate = 4 && s.cfg.pair && s.pState == some want then (s.emit (.parkControl cmd s.partnerSerial), .ok) else (s, .refused)

def parkCmd (s : State) : State × Status := devCmd 1 3 s
def unparkCmd (s : State) : State × Status := devCmd 2 5 s
def unparkDiscardCmd (s : State) : State × Status := devCmd 3 5 s

def execPark (s : State) : Out := .next (parkCmd s).1
def execUnpark (s : State) : Out := .next (unparkCmd s).1
def execUnparkDiscard (s : State) : Out := .next (unparkDiscardCmd s).1

/-- PARK_CONTROL_RX: a park control frame for this module acts at its next tick. -/
def execParkControlRx (cmd serial : Nat) (crcOk : Bool) (s : State) : Out :=
  .next (if crcOk && s.lineUp 4 && s.cfg.pair && serial == s.serial && decide (1 ≤ cmd ∧ cmd ≤ 3) then
    s.twinMod (fun t => { t with control := some cmd }) else s)

/-- The module leaves PARKED (R521): it resumes start-up at step 8, under recovery. -/
def State.leavePark (s : State) (discard : Bool) : State :=
  let s1 := if discard then s.discardState else s
  let s2 := (((s1.setF ⟨0x0054, 12, 4⟩ 0).setF ⟨0x0054, 24, 4⟩ 8).setF ⟨0x0060, 0, 3⟩ 4).goto 0
  let s3 := [0, 1].foldl (fun a p => a.canMod p (fun c => { c with integ := true })) s2
  ({ s3 with dev := { s3.dev with recovery := true, negFrom := s3.ownFno } }.raiseEv 0 3)

/-- A park control at its tick. -/
def State.controlAct (s : State) : State :=
  match s.twin.control with
  | none => s
  | some c =>
    let s1 := s.twinMod (fun t => { t with control := none })
    if c = 1 then (if s1.mstate = 3 then s1.park 6 else s1)
    else if s1.mstate = 5 && !s1.tampered then s1.leavePark (c == 3 || s1.fld ⟨0x0054, 12, 4⟩ == 3)
    else s1

/-- The state that follows a tamper, at the next tick (R504, R505, R518): FAULT and PARKED stay, start-up goes on, and a module whose
partner is ACTIVE or STANDBY parks; a module parked for a tamper is TAMPERED once those heartbeats cease. -/
def State.tamperAct (s : State) : State :=
  let partner := s.cfg.pair && (s.twin.any || s.twin.anyPrev) && (s.pState == some 4 || s.pState == some 3)
  if s.keys.tampDue then
    let s1 := s.keysMod (fun k => { k with tampDue := false })
    if s1.mstate = 6 ∨ s1.mstate = 5 ∨ s1.mstate = 0 ∨ s1.mstate = 2 then s1
    else if partner then s1.park 5
    else ((List.range 8).foldl (fun a i => a.closeSess i) ((s1.goto 2).dropSolve.outOfStep))
  else if s.mstate = 5 && s.fld ⟨0x0054, 12, 4⟩ == 5 && !partner then s.goto 2
  else s

/-- A split at its tick (R468). -/
def State.splitAct (s : State) : State :=
  if s.twin.split then
    let s1 := s.twinMod (fun t => { t with split := false })
    if s1.mstate = 4 then s1.park 4 else s1
  else s

/-! ## Self-tests (R471, R542) -/

/-- A self-test has failed: SELFTEST_FAIL, and TEST_FAIL latches. Tests: 0 SRAM, 1 DRAM, 2 read-back, 3 loopback. -/
def State.testFailed (s : State) (t : Nat) : State :=
  (((s.twinMod (fun q => { q with failed := if q.failed.contains t then q.failed else t :: q.failed })).setB testFail true)).raiseEv 0x30 5

/-- A self-test has passed: after TEST_CLR, TEST_FAIL clears once every failed test has passed. -/
def State.testPassed (s : State) (t : Nat) : State :=
  if s.twin.clr && s.twin.failed.contains t then
    let s1 := s.twinMod (fun q => { q with failed := q.failed.filter (· != t) })
    if s1.twin.failed.isEmpty then (s1.twinMod (fun q => { q with clr := false })).setB testFail false else s1
  else s

/-- HLTH_CMD.TEST_CLR. -/
def testClrCmd (s : State) : State := if s.bit testFail then s.twinMod (fun q => { q with clr := true }) else s
def execTestClr (s : State) : Out := .next (testClrCmd s)

/-- Counts of a memory test, its events and its outcome. -/
def State.scrubDone (s : State) (t corr uncorr : Nat) : State :=
  let s1 := (s.bumpN .HLTH_SCRUB_CORR corr).bumpN .HLTH_SCRUB_UNCORR uncorr
  let s2 := if 0 < corr then s1.raiseEv 0x30 3 else s1
  let s3 := s2.twinMod (fun q => { q with scrubOk := uncorr == 0 })
  if 0 < uncorr then (s3.raiseEv 0x30 4).testFailed t else s3.testPassed t

/-- SRAM_SCRUB_PASS: an uncorrected error puts the active module into FAULT. -/
def execSramScrubPass (corr uncorr : Nat) (s : State) : Out :=
  .next <|
    let s1 := (s.scrubDone 0 corr uncorr).bump .HLTH_SCRUB_PASS
    if 0 < uncorr && s1.mstate == 4 then s1.enterFault 5 0 else s1

/-- DRAM_SCRUB_PASS, on the standby module. -/
def execDramScrubPass (uncorr : Nat) (s : State) : Out := .next (if s.mstate = 3 then s.scrubDone 1 0 uncorr else s)

/-- PORT_LOOPBACK_TEST, on the standby module: `fail`, a mask of the ports A, B, H1 and H2 whose test frame did not return intact. -/
def execPortLoopbackTest (fail : Nat) (s : State) : Out :=
  .next <|
    if s.mstate ≠ 3 then s
    else
      let n := ((List.range 4).filter (fun i => fail / 2 ^ i % 2 == 1)).length
      let s1 := (s.bumpN .HLTH_LOOP_FAIL n).twinMod (fun q => { q with loopOk := n == 0 })
      if 0 < n then s1.testFailed 3 else s1.testPassed 3

/-- The read-back of a standby module at a tick: a driver that is not passive, or a line that has differed for 10 frames. -/
def State.readbackTest (s : State) (drivers lineDiff : Nat) : State :=
  if s.mstate ≠ 3 then s
  else
    let run := (List.range 16).map (fun o =>
      (o, if lineDiff / 2 ^ o % 2 = 1 then (s.twin.rbRun.lookup o).getD 0 + 1 else 0))
    let ok := drivers == 0 && run.all (fun e => decide (e.2 < 10))
    let s1 := s.twinMod (fun q => { q with rbRun := run.filter (fun e => e.2 != 0), rbOk := ok })
    if ok then s1.testPassed 2
    else if s.twin.rbOk then (s1.bump .HLTH_RB_FAIL).testFailed 2 else s1

/-- A compared input is masked as wired to both modules. -/
def State.plausOn (s : State) (i : Nat) : Bool := if i < 32 then s.bit (bitAt 0x3008C i) else s.bit (bitAt 0x30090 (i - 32))

/-- A check finds a difference. -/
def State.plausDiffers (s : State) (e : Nat × Nat) : Bool := if e.1 < 32 then decide (s.fld ⟨0x30088, 0, 16⟩ < e.2) else e.2 != 0

/-- The plausibility checks of a tick (R471): runs of differences; PLAUS_OK returns when every input that failed has agreed at 10
consecutive checks (DEDUCED: the agreements are those of the input that failed). -/
def State.plausTick (s : State) (checks : List (Nat × Nat)) : State :=
  if s.mstate ≠ 3 then s
  else
    (checks.filter (fun e => decide (e.1 < 56) && s.plausOn e.1)).foldl (fun a e =>
      let d := a.plausDiffers e
      let r := if d then (a.twin.plausRun.lookup e.1).getD 0 + 1 else 0
      let waits := a.twin.plausAgree.filterMap (fun x =>
        if x.1 = e.1 then (if d then some (x.1, 0) else if 9 ≤ x.2 then none else some (x.1, x.2 + 1)) else some x)
      a.twinMod (fun q => { q with plausRun := (e.1, r) :: q.plausRun.filter (fun x => x.1 != e.1), plausAgree := waits,
                                   plausOk := q.plausOk || waits.isEmpty })) s

/-- PLAUS_FAIL (R471): an input has differed for 10 consecutive checks. -/
def execPlausFail (inp : Nat) (s : State) : Out :=
  .next <|
    if s.mstate = 3 && (s.twin.plausRun.lookup inp).getD 0 == 10 && s.plausOn inp then
      let s1 := s.twinMod (fun q => { q with plausOk := false, plausAgree := (inp, 0) :: q.plausAgree.filter (fun x => x.1 != inp),
                                             plausRun := (inp, 11) :: q.plausRun.filter (fun x => x.1 != inp) })
      ((s1.bump .HLTH_PLAUS_FAIL).setF ⟨0x30078, 0, 8⟩ inp).raiseEv 0x30 6
    else s

/-- RUN: start-up is over and the module works (R516). -/
def State.inRun (s : State) : Bool := s.bit (bitAt 0x0054 11)

/-- MRAM_SCRUB_START (R542): at a tick in RUN, a year after HLTH_MRAM_SCRUB, or when that is 0. -/
def execMramScrubStart (s : State) : Out :=
  .next <|
    let last := (s.rd 0x30068).toNat
    if s.inRun && !s.twin.scrub && (last == 0 || decide (31536000 ≤ (s.ownSec + 2 ^ 32 - last) % 2 ^ 32)) then
      s.twinMod (fun q => { q with scrub := true })
    else s

/-- MRAM_SCRUB_END (R542): blocks corrected, and blocks that could not be. -/
def execMramScrubEnd (corr uncorr : Nat) (s : State) : Out :=
  .next <|
    if !s.twin.scrub then s
    else
      let s1 := (s.twinMod (fun q => { q with scrub := false })).wr 0x30068 (lo32 s.ownSec)
      let s2 := if 0 < corr then s1.raiseEv 0x30 3 else s1
      if 0 < uncorr then s2.raiseEv 0x30 4 else s2

/-! ## The tick -/

/-- TWIN_STAT, TWIN_LAG, HLTH_WORD and the partner's health at a tick (R481). -/
def State.twinRegs (s : State) : State :=
  let t := s.twin
  let b := fun (p : Bool) (i : Nat) => b2n p * 2 ^ i
  let stat := s.mstate * 2 ^ 28 + (s.pState.getD 0) * 2 ^ 24 + b s.cfg.pair 23 + b t.link 22 + b t.tether 21 + b t.beacon 20
    + b t.instep 19 + b s.eligible' 18 + b ((t.hb.map (·.eligible)).getD false) 17 + b t.joining 16 + b t.isolated 15 + b t.cold 14
    + b t.lost 13 + s.segN
  let s1 := (s.wr 0xC048 (BitVec.ofNat 32 stat)).wr 0x30048 s.healthWord
  let s2 := s1.wr 0xC058 ((t.hb.map (·.health)).getD 0)
  let lag := if s.mstate = 4 then 0
    else match t.run, t.exec with
      | some r, _ => (s.ownFno + 2 ^ 32 - r.fno % 2 ^ 32) % 2 ^ 32
      | none, some e => (s.ownFno + 2 ^ 32 - e % 2 ^ 32) % 2 ^ 32
      | none, none => 2 ^ 32 - 1
  s2.wr 0xC050 (BitVec.ofNat 32 lag)

/-- The digest of the frame that ends, for the module that ran it (R460); the standby's last executed record. -/
def State.digestTick (s : State) : State :=
  let ran := if s.mstate = 4 then some s.ownFno else if s.mstate = 3 then s.twin.run.map (·.fno) else none
  let s1 := match ran with
    | none => s
    | some f =>
      if !s.cfg.pair then s
      else
        let d := Config.frameDigest s.digestIn
        let a := (s.wr 0xC078 (lo32 d)).wr 0xC07C (hi32 d)
        let b := if s.mstate = 3 then a.wr 0xC054 (BitVec.ofNat 32 f) else a
        b.twinMod (fun t => { t with mine := ((f, d) :: t.mine).take 4, exec := some f })
  (s1.twinMod (fun t => { t with msgs := [], cans := [] })).digestCheck

/-- The record that a standby module executes in the frame that begins: the next one, once it is complete; none in a power fail (R534). -/
def State.recNext (s : State) : State :=
  if s.mstate ≠ 3 || s.shed then s.twinMod (fun t => { t with run := none })
  else
    let t := s.twin
    let r := if t.instep || (t.joining && t.replayed) then
        match t.exec with
        | some e => t.recs.find? (fun r => r.fno == (e + 1) % 2 ^ 32)
        | none => t.recs.head?
      else none
    match r with
    | none => s.twinMod (fun t => { t with run := none })
    | some h => s.twinMod (fun t => { t with run := some h, recs := t.recs.filter (fun x => x.fno != h.fno) })

/-- The active module's records at a tick (R462): whether the frame that ends closed its own. -/
def State.recTick (s : State) : State :=
  s.twinMod (fun t => { t with closedPrev := t.closed, closed := false,
                               notClosed := if s.mstate = 4 && s.cfg.pair then (if t.closed then 0 else t.notClosed + 1) else 0 })

/-- What the heartbeats of the tick before leave. -/
def State.hbTick (s : State) : State :=
  s.twinMod (fun t => { t with goodPrev := t.good, good := false, anyPrev := t.any, any := false, beaconPrev := t.beacon,
                               beacon := false, link := false, tether := false, ticks := if t.on then min 2 (t.ticks + 1) else 0 })

/-- FRAME_HI counts the wraps of FRAME_NO (R456), at the tick at which it comes to 0 again. -/
def State.frameHi (s : State) (first : Bool) : State :=
  if s.ownFno = 0 && !first then s.twinMod (fun t => { t with fhi := (t.fhi + 1) % 2 ^ 32 }) else s

/-- The heartbeat and the beacon of a tick (R451, R454): one on the tether, one on port T while its line is up (R23). -/
def State.hbSend (s : State) : State :=
  if !s.twin.on || !s.cfg.pair then s
  else
    let t := s.twin
    let flags := b2n t.closedPrev + 2 * b2n t.instep + 4 * b2n s.eligible' + 8 * b2n t.joining
    let last := t.mine.head?
    let m := fun p tx rx => OutMsg.heartbeat p s.mstate flags s.ownFno s.epoch s.healthWord ((last.map (·.2)).getD 0)
      ((last.map (·.1)).getD 0) tx rx (s.ownSec % 2 ^ 32)
    let s0 := if s.lineUp 4 then
        ((s.emit (m 0 t.txNs t.rxNs)).useFree).twinMod (fun t => { t with
          txNs := (s.ownNs + Config.hbEgress s.free % 2001) % 1000000000 })
      else s
    let s1 := s0.emit (m 1 0 0)
    if s1.mstate = 4 then (s1.sendPorts.foldl (fun a p =>
      (a.txFrame p).emit (.beacon p s.ownFno s.epoch s.serial s.snet.prpSeq)) s1).prpStep else s1

end Sys2Proof.Machine
end

