-- ==== Sys2Proof/Machine/Publish.lean ====
section
/-! DEFINITION. What E10 does in a TWIN_REC entry (R455): the setpoint publisher (R195 to R198), the timed-command requests of the
control programs (R386), and the close of the frame's input record. -/

namespace Sys2Proof.Machine

/-- `s` with what the publisher keeps changed. -/
def State.pubMod (s : State) (f : PubSt → PubSt) : State := s.optMod (fun o => { o with pub := f o.pub })

/-- PUB_EN. -/
def State.pubEn (s : State) : Bool := s.bit (bitAt 0x25040 1)

/-- Where dispatch comes from: 0 neither, 1 a plan, 2 the default schedule (R190, R195). -/
def State.pubFrom (s : State) : Nat := if s.bit optFallback then 2 else if s.bit (bitAt 0x25048 8) then 1 else 0

/-- The quality of the dispatch setpoints: GOOD from a plan, SUBST in fallback, INIT before either; STALE without PUB_EN. -/
def State.pubQ (s : State) : Nat :=
  if !s.pubEn then STALEQ else if s.pubFrom = 1 then GOOD else if s.pubFrom = 2 then SUBST else INITQ

/-! ## Values of step 0 and step 1 (R195, R196) -/

/-- The start of the slice's step 0 in TAI seconds; step 1 starts 900 s later. -/
def State.sliceStart (s : State) : Nat := stepStart s.nowSec (s.opt.utc.getD s.utcOfs)

/-- A word of the default schedule for step `j` (R171, R190). -/
def State.defWord (s : State) (j w : Nat) : Word := s.trd 0x2509 (s.defSlot (s.sliceStart + 900 * j)) w

/-- A value of step `j`: of the plan's quantity `q` of asset `a`, or word `w` of the default schedule. -/
def State.pubVal (s : State) (j q a w : Nat) : Word :=
  if s.pubFrom = 1 then s.planStep q a j else if s.pubFrom = 2 then s.defWord j w else 0

/-- Supply temperature of a circuit in step `j`, m°C. -/
def State.pubTsup (s : State) (j c : Nat) : Word := s.pubVal j 11 c (64 + c)

/-- On command of a source: the plan's, or in fallback a heat setpoint other than 0 (R171). -/
def State.pubOn (s : State) (i : Nat) : Word :=
  if s.pubFrom = 1 then s.planStep 2 i 0 else BitVec.ofNat 32 (b2n (s.pubVal 0 0 i i != 0))

/-- Planned import of a grid point; in fallback no rule gives one. -/
def State.pubImport (s : State) (g : Nat) : Word :=
  if s.pubFrom = 1 then s.planStep 8 g 0
  else if s.pubFrom = 2 then Config.fallbackImport (8 * s.free + g) else 0

/-- The items of the dispatch setpoints mailbox by element: sources 0 to 63, stores from 64, pump stations from 80, circuits from
112, grid points from 116. -/
def State.pubItems (s : State) : List (Nat × List Word) :=
  ((s.defined 0x2501 0).map (fun i => (i, [s.pubVal 0 0 i i, s.pubOn i, s.pubTsup 0 (s.tfld 0x2501 i 0 26 2)])))
  ++ ((s.defined 0x2502 0).map (fun i => (64 + i, [s.pubVal 0 3 i (100 + i)])))
  ++ ((s.defined 0x2503 0).map (fun i => (80 + i, [s.pubVal 0 5 i (68 + i)])))
  ++ ((s.defined 0x2500 0).map (fun c => (112 + c, [s.pubTsup 0 c])))
  ++ ((s.defined 0x2506 0).map (fun g => (116 + g, [s.pubImport g])))

/-- What the writer holds at an item. -/
def State.roleBack (s : State) (r k i : Nat) : Item :=
  match s.mbxOf (s.roleMbx r) with
  | none => Item.init
  | some m => (m.img.lookup (s.roleItem r k + i)).getD Item.init

/-- Writes the mailbox's items: with PUB_EN at 0 they keep their values with quality STALE. -/
def State.pubPut (s : State) : State :=
  let q := s.pubQ
  (s.pubItems.foldl (fun a e =>
    if s.pubEn then a.rolePuts 4 e.1 (e.2.map (fun w => ⟨w, q⟩))
    else a.rolePuts 4 e.1 ((List.range e.2.length).map (fun k => ⟨(s.roleBack 4 e.1 k).w, q⟩))) s).useFree

/-! ## Commands (R196, R197) -/

/-- The change times T_0 and T_1 as LT64. -/
def State.pubTimes (s : State) : List (Nat × (Nat × Nat)) :=
  let st := s.sliceStart
  let late := decide (st < s.opt.appliedSec) || (st == s.opt.appliedSec && s.opt.appliedNs != 0)
  [(0, if late then (s.opt.appliedSec % 2 ^ 32, s.opt.appliedNs) else (st % 2 ^ 32, 0)), (1, ((st + 900) % 2 ^ 32, 0))]

/-- The value last commanded for a change time, or else the one in force then; none where none has been commanded. -/
def PubSt.lastSup (p : PubSt) (c : Nat) (t : Nat × Nat) : Option Int :=
  (p.sup.filter (fun e => e.1 == c && decide (0 ≤ ltDiff e.2.1 t))).foldl
    (fun (b : Option ((Nat × Nat) × Int)) e => match b with
      | none => some e.2
      | some x => if 0 ≤ ltDiff x.1 e.2.1 then some e.2 else some x) none |>.map (·.2)

/-- DELAY_S of a node: its arrival record's, or its circuit's default delay. -/
def State.pubDelay (s : State) (c n : Nat) : Nat :=
  let q := s.tfld 0x240C n 0 24 3
  if s.tfld 0x240C n 0 15 1 = 1 ∨ q = STALEQ ∨ q = INITQ then (s.rd (0x250E0 + 4 * c)).toNat
  else (s.trd 0x240C n 1).toNat

/-- T_OUT of the reference source minus T_SUP_MOD of the node, 0 if either is not usable. -/
def State.pubOffset (s : State) (c n : Nat) : Int :=
  match s.vrefUsable (s.trd 0x2404 (s.tfld 0x2400 c 0 13 6) 1) with
  | none => 0
  | some w =>
    let d := s.tfld 0x240B n 6 0 8
    if usableSt d && s.tfld 0x2406 n 0 31 1 == 1 then sint w - sint (s.trd 0x240B n 2) else 0

/-- The member nodes of a circuit's classes. -/
def State.pubNodes (s : State) (c : Nat) : List Nat :=
  (((s.defined 0x2504 0).filter (fun k => s.tfld 0x2504 k 0 28 2 == c)).flatMap (fun k => s.members k)).filter
    (fun n => s.tfld 0x1200 n 0 31 1 == 1)

/-- Puts a command among those that wait: it replaces one of the same node, kind and change time that has not been transmitted,
whether it still waits or stands in the launch queue. -/
def State.pubAdd (s : State) (p : PubCmd) : State :=
  let same := fun x : PubCmd => x.node == p.node && x.kind == p.kind && x.at_ == p.at_
  let old := s.opt.pub.sent.filter same
  let s1 := ((s.qOfNode p.node).filter (fun e => !e.sent && e.src == 0 && e.kind == p.kind
      && old.any (fun x => x.launch == (e.sec, e.ns)))).foldl (fun a e => a.tclear 0x1202 (· == e.idx)) s
  (s1.pubMod (fun q => { q with wait := q.wait.filter (fun x => !same x) ++ [p], sent := q.sent.filter (fun x => !same x) })).qUse

/-- Supply targets of a circuit for a change time (R196). -/
def State.pubCircuit (s : State) (c : Nat) (t : Nat × (Nat × Nat)) : State :=
  let v := sint (s.pubTsup t.1 c)
  let go := match s.opt.pub.lastSup c t.2 with
    | none => true
    | some o => decide (s.fld ⟨0x25068, 16, 16⟩ ≤ (v - o).natAbs)
  if !go then s
  else
    let s1 := s.pubMod (fun p => { p with sup := (c, t.2, v) :: p.sup.filter (fun e => !(e.1 == c && e.2.1 == t.2)) })
    (s.pubNodes c).foldl (fun a n =>
      a.pubAdd { node := n, kind := 0x80, at_ := t.2, launch := ltAdd t.2 (s.pubDelay c n * 1000000000),
                 vals := [ofInt (v - s.pubOffset c n)] }) s1

/-- The local slot of step `j`: by the offset with which the plan in force was solved, or in fallback the default schedule's (R163). -/
def State.pubSlot (s : State) (j : Nat) : Nat :=
  let sec := s.sliceStart + 900 * j
  if s.pubFrom = 1 then ((sec : Int) - s.utcOfs + s.opt.ofsPlan).toNat % 86400 / 900 else s.defSlot sec

/-- Intensity of a zone in step `j`, 0.1 %: the plan's, or the midpoint of the recipe's band rounded down (R190). -/
def State.pubIntensity (s : State) (j z : Nat) : Int :=
  let h := s.defSlot (s.sliceStart + 900 * j) / 4
  if s.pubFrom = 1 then sint (s.planStep 10 z j)
  else ((s.tfld 0x2508 z (17 + 2 * h) 20 10 + s.tfld 0x2508 z (17 + 2 * h) 10 10) / 2 : Nat)

/-- The four channel budgets I × SH_ch × P_TOT of a zone in step `j`, W (R197). -/
def State.pubBudgets (s : State) (j z : Nat) : List Word :=
  let h := s.pubSlot j / 4
  let sh := [s.tfld 0x2508 z (16 + 2 * h) 0 10, s.tfld 0x2508 z (16 + 2 * h) 10 10, s.tfld 0x2508 z (16 + 2 * h) 20 10,
             s.tfld 0x2508 z (17 + 2 * h) 0 10]
  sh.map (fun (x : Nat) => ofInt (Config.numToInt (nmul (nrat (s.pubIntensity j z * x) 1000000) (s.par64 0x2507 z 2))))

/-- The command of a zone for a change time (R197): one for each change time and each value of its budgets. -/
def State.pubZone (s : State) (z : Nat) (t : Nat × (Nat × Nat)) : State :=
  let v := s.pubBudgets t.1 z
  if s.opt.pub.zone.contains (z, t.2, v) then s
  else
    let n := s.tfld 0x2507 z 0 16 11
    let s1 := s.pubMod (fun p => { p with zone := (z, t.2, v) :: p.zone.filter (fun e => !(e.1 == z && e.2.1 == t.2)) })
    if s.tfld 0x1200 n 0 31 1 = 1 then s1.pubAdd { node := n, kind := 0x82, at_ := t.2, launch := t.2, vals := v } else s1

/-- What has been commanded for change times that are over is forgotten, but for the value in force at T_0. -/
def PubSt.prune (p : PubSt) (t0 : Nat × Nat) : PubSt :=
  { p with
    sup := p.sup.filter (fun e => decide (0 ≤ ltDiff t0 e.2.1) || !(p.sup.any (fun f =>
      f.1 == e.1 && decide (0 < ltDiff e.2.1 f.2.1) && decide (0 ≤ ltDiff f.2.1 t0))))
    zone := p.zone.filter (fun e => decide (0 ≤ ltDiff t0 e.2.1))
    sent := p.sent.filter (fun x => decide (0 ≤ ltDiff t0 x.at_)) }

/-! ## Enqueueing (R198) -/

/-- Launch time and then node number. -/
def PubCmd.before (a b : PubCmd) : Bool := decide (0 < ltDiff a.launch b.launch) || (a.launch == b.launch && decide (a.node ≤ b.node))

/-- Insertion in that order. -/
def pubInsert (x : PubCmd) : List PubCmd → List PubCmd
  | [] => [x]
  | y :: l => if x.before y then x :: y :: l else y :: pubInsert x l

/-- Enqueues a waiting command; one that a full queue refuses waits on. -/
def State.pubOne (s : State) (p : PubCmd) : State :=
  let r := s.enqueue 0 p.node p.kind (some p.launch) p.vals 0
  if r.2 then
    (r.1.bump .OPT_PUB_CMD).pubMod (fun q => { q with wait := q.wait.filter (fun x => x != p), sent := p :: q.sent })
  else r.1

/-- The commands of a frame: at most MAX_PER_FRAME, in order; a full queue counts the frame once. -/
def State.pubQueue (s : State) : State :=
  let todo := (s.opt.pub.wait.foldl (fun l x => pubInsert x l) []).take (s.fld ⟨0x25068, 0, 8⟩)
  let s1 := todo.foldl (fun a p => a.pubOne p) s
  if todo.any (fun p => s1.opt.pub.wait.contains p) then s1.bump .OPT_PUB_WAIT else s1

/-- SETPOINT_PUBLISH (R195 to R198). -/
def State.setpoints (s : State) : State :=
  let s1 := s.pubPut
  if !s.pubEn || s.pubFrom == 0 then s1
  else
    let ts := s1.pubTimes
    let s2 := ts.foldl (fun a t => (s.defined 0x2500 0).foldl (fun a c => a.pubCircuit c t) a) s1
    let s3 := ts.foldl (fun a t => (s.defined 0x2507 0).foldl (fun a z => a.pubZone z t) a) s2
    let t0 := (ts.map (·.2)).headD (0, 0)
    (s3.pubMod (fun p => p.prune t0)).pubQueue

/-! ## Requests of the control programs (R386) -/

/-- A request names a defined node and a kind that a node of its type takes (R214). -/
def State.tcmdOk (s : State) (r : TcmdReq) : Bool :=
  decide (r.node < 2048) && s.tfld 0x1200 r.node 0 31 1 == 1 && decide (0x80 ≤ r.kind ∧ r.kind ≤ 0x85)
    && kindOk (s.nodeType r.node) r.kind

/-- The `k`-th request of CPE `p`: enqueued with SRC 1 or 2; the result (1 done, 2 refused) goes into the link status mailbox. -/
def State.tcmdOne (s : State) (p k : Nat) (r : TcmdReq) : State :=
  let q := if s.tcmdOk r then s.enqueue (1 + p) r.node r.kind (if r.timed then some (r.sec, r.ns) else none) r.vals 0 else (s, false)
  let q1 := q.1.cpeMod p (fun c => { c with tcmdWait := c.tcmdWait.map (fun w =>
    if w.inst = r.inst ∧ w.tag = r.tag then { w with res := some (q.2, s.fno) } else w) })
  q1.rolePuts 6 (16 * p + k) [⟨BitVec.ofNat 32 r.inst, GOOD⟩, ⟨BitVec.ofNat 32 r.tag, GOOD⟩, ⟨BitVec.ofNat 32 (if q.2 then 1 else 2), GOOD⟩]

/-- The published requests of CPE `p`. -/
def State.tcmds (s : State) (p : Nat) : State :=
  let rs := (s.cpeP p).tcmdFront
  ((List.range rs.length).zip rs).foldl (fun a e => a.tcmdOne p e.1 e.2) (s.cpeMod p (fun c => { c with tcmdFront := [] }))

/-! ## The record (R455 to R458) -/

/-- The PLAN sections of the frame's record (R456, R457): what was published or ended in the frame, and, in the frames after a publication,
334 records of the plan table, which 262,144 bytes hold. -/
def State.planSections (s : State) : PlanSec :=
  if s.opt.sec.pub.isSome then s.opt.sec
  else { s.opt.sec with parts := (s.opt.parts.take 334).map (fun i => (i, s.trec 0x250D i 196)) }

/-- What the record has taken is sent: its plan sections, and the frame's verdicts. -/
def State.planSent (s : State) : State :=
  (s.optMod (fun o => { o with sec := PlanSec.none_, parts := if o.sec.pub.isSome then o.parts else o.parts.drop 334 })).privMod
    (fun q => { q with given := [] })

/-- Closes the frame's record: on the active module of a pair it is sent, with OVERFLOW where it would exceed 786,432 bytes. -/
def State.closeRecord (s : State) (len : Nat) : State :=
  let s1 := s.twinMod (fun t => { t with closed := true })
  if s.mstate = 4 && s.cfg.pair then
    let n := min len 786432
    let h : RecHdr := { fno := s.fno, frame := s.frame, ext := s.inExt, sec := s.nowSec, ns := s.nowNs, epoch := s.epoch,
                        overflow := decide (786432 < len), handover := false, plan := s.planSections,
                        priv := s.priv.given }
    ((if (s1.rd 0xC06C).toNat < n then s1.wr 0xC06C (BitVec.ofNat 32 n) else s1).emit (.record_ h n s.twin.fhi)).planSent
  else s1.planSent

/-- TWIN_REC (R455): `len`, the bytes that the frame's record holds. -/
def execTwinRec (len : Nat) (s : State) : Out :=
  .next (s.entry 0x50 0x0A (fun _ => true) (fun s => (((s.setpoints).tcmds 0).tcmds 1).closeRecord len))

end Sys2Proof.Machine
end

