-- ==== Sys2Proof/Machine/Boot.lean ====
section
/-! DEFINITION. The configuration image and its banks (R508 to R515), the start-up sequence (R516 to R518), role negotiation (R519), BOOT_DONE,
the restarts (R522, R523), and the cold takeover (R480), which starts from the image. -/

namespace Sys2Proof.Machine

/-! ## The image (R508, R509) -/

/-- A byte of the image in copy `c` of the bank table: 0 the running bank, 1 the other (R511). -/
def State.cfgByte (s : State) (c off : Nat) : Nat :=
  s.tfld 0x0100 (c * 2 ^ 23 + off / 1024) (off / 4 % 256) (8 * (off % 4)) 8

/-- `n` bytes, little-endian. -/
def State.cfgLe (s : State) (c off n : Nat) : Nat :=
  ((List.range n).map (fun i => s.cfgByte c (off + i) * 256 ^ i)).foldl (· + ·) 0

def State.cfgWord (s : State) (c off : Nat) : Word := BitVec.ofNat 32 (s.cfgLe c off 4)

/-- TOTAL_LEN, and the section table as (TYPE, OFFSET, LENGTH). -/
def State.cfgLen (s : State) (c : Nat) : Nat := s.cfgLe c 16 4
def State.cfgSects (s : State) (c : Nat) : List (Nat × Nat × Nat) :=
  (List.range (s.cfgLe c 20 2 % 65)).map (fun i =>
    (s.cfgLe c (64 + 16 * i) 2, s.cfgLe c (68 + 16 * i) 4 % 2 ^ 23, s.cfgLe c (72 + 16 * i) 4 % 2 ^ 24))

/-- The sections of a type, as (OFFSET, LENGTH). -/
def State.cfgSect (s : State) (c typ : Nat) : List (Nat × Nat) := ((s.cfgSects c).filter (fun e => e.1 == typ)).map (·.2)

/-- PAGE_INIT: addresses and values. -/
def State.cfgInit (s : State) (c : Nat) : List (Nat × Word) :=
  (s.cfgSect c 1).flatMap (fun e => (List.range (e.2 / 8)).map (fun i =>
    (s.cfgLe c (e.1 + 8 * i) 4, s.cfgWord c (e.1 + 8 * i + 4))))

/-- The TABLE sections: the table, its first record, and the records. -/
def State.cfgTables (s : State) (c : Nat) : List (TableInfo × Nat × List (List Word)) :=
  (s.cfgSect c 2).filterMap (fun e =>
    match tableInfo (s.cfgLe c e.1 2) with
    | none => none
    | some t => some (t, s.cfgLe c (e.1 + 4) 4, (List.range (min (s.cfgLe c (e.1 + 8) 4) (e.2 / (4 * t.words)))).map (fun i =>
        (List.range t.words).map (fun w => s.cfgWord c (e.1 + 12 + 4 * (i * t.words + w))))))

/-- The mailboxes, empty (R28). Verification refuses one of more than 2^17 words before it is loaded. -/
def State.cfgMbx (s : State) (c : Nat) : List Mbx :=
  (s.cfgSect c 3).flatMap (fun e => (List.range (e.2 / 12)).map (fun i =>
    let o := e.1 + 12 * i
    let words := s.cfgLe c (o + 8) 4
    let n := words % 2 ^ 18
    { num := s.cfgLe c o 2, writer := s.cfgByte c (o + 2), readers := s.cfgLe c (o + 4) 2, words := words,
      front := List.replicate n Item.init, back := List.replicate n Item.init, img := [], late := [], closed := false, swapped := false,
      stale := false }))

/-- The PAIR section: serial numbers with fingerprints, and TWIN_KEY_SLOT. A serial number is read as DEV_SERIAL holds it. -/
def State.cfgPair (s : State) (c : Nat) : List (Nat × Nat) :=
  (s.cfgSect c 4).flatMap (fun e => [0, 16].map (fun o => (s.cfgLe c (e.1 + o) 8, s.cfgLe c (e.1 + o + 8) 8)))
/-- The pair MAC, byte 0 the most significant. -/
def State.cfgMac (s : State) (c : Nat) : Nat :=
  ((s.cfgSect c 4).map (fun e => (List.range 6).foldl (fun n i => n * 256 + s.cfgByte c (e.1 + 32 + i)) 0)).headD 0
def State.cfgKeySlot (s : State) (c : Nat) : Nat := ((s.cfgSect c 4).map (fun e => s.cfgByte c (e.1 + 40))).headD 0

/-- PRIV_COMP and CPE_REF. -/
def State.cfgPriv (s : State) (c : Nat) : Nat := ((s.cfgSect c 5).map (fun e => s.cfgLe c e.1 8)).headD 0
def State.cfgRef (s : State) (c : Nat) : List (Nat × Nat × Nat) :=
  (s.cfgSect c 6).flatMap (fun e => [0, 12].map (fun o => (s.cfgLe c (e.1 + o) 4, s.cfgLe c (e.1 + o + 4) 4, s.cfgLe c (e.1 + o + 8) 4)))

/-! ## Loading (R510) -/

/-- The registers that are RO and whose values the image fixes: the mailboxes that they name (R259, R301, R307, R344, R356, R380, R386), and the model
engine's budgets (R138). -/
def imageReg (a : Nat) : Bool :=
  [0x1208C, 0x140F0, 0x150F0, 0x180B8, 0x1A058, 0x1B050, 0x1C0B8, 0x20078, 0x21070, 0x22070].contains a
    || decide (0x24080 ≤ a ∧ a < 0x240A0)
    || (decide (0x240A0 ≤ a ∧ a < 0x24180) && ((a - 0x240A0) % 0x38 == 0x04 || (a - 0x240A0) % 0x38 == 0x0C))

/-- The fields of the register at `a` that PAGE_INIT sets, taken from `v`: the writable ones, and those of the registers above. -/
def regMerge (a : Nat) (old v : Word) : Word :=
  (fieldsAt a).foldl (fun w r =>
    match r.acc with
    | .rw | .rws => wput w r.lo r.wid (wbits v r.lo r.wid)
    | .ro => if imageReg a then wput w r.lo r.wid (wbits v r.lo r.wid) else w
    | _ => w) old

/-- Tables that no image loads: the bank table itself, the CPE program stores, the key store, the tamper log, the recorder's records, the
interval tables (R510, R517). -/
def keptTable (tid : Nat) : Bool :=
  [0x0100, 0x2100, 0x2200, 0x0900, 0x0901, 0x0902, 0x0A00, 0x0800, 0x1A02, 0x1B02].contains tid

/-- The registers that a start-up leaves as they are: those restored under R517, the AON domain's, and the identity of the banks. -/
def keptReg (a : Nat) : Bool :=
  [0x0064, 0x009C, 0x00A0, 0x2070, 0x2074, 0x804C, 0xC04C, 0x12074, 0x30068].contains a
    || decide (0xA040 ≤ a ∧ a < 0xA064) || a == 0x0050 || a == 0x1044

/-- A record that an image loads: into the active copy, and the inactive copy alike. -/
def State.cfgPut (s : State) (t : TableInfo) (idx : Nat) (ws : List Word) : State :=
  if keptTable t.tid || !(t.idxOk idx) || decide (t.banked ∧ 2 ^ 23 ≤ idx) then s
  else if t.banked then (s.writeRecord t idx ws).writeRecord t (inact idx) ws
  else s.writeRecord t idx ws

/-- TWIN_PAIR_MAC and TWIN_KEY_SLOT of the image in copy `c`: 0 where it defines no pair. -/
def State.cfgPairRegs (a s : State) (c : Nat) : State :=
  if s.cfgByte c 7 = 1 then
    ((a.wr 0xC0AC (BitVec.ofNat 32 (s.cfgMac c))).setF ⟨0xC0B0, 0, 16⟩ (s.cfgMac c / 2 ^ 32)).setF ⟨0xC0B8, 0, 7⟩ 4
  else a

/-- The image in copy `c` loaded over reset values: registers, tables, mailboxes, and what R509 gives beside them. -/
def State.cfgLoad (s : State) (c : Nat) : State :=
  let ini := s.cfgInit c
  let s1 := ini.foldl (fun a e => if addrOk e.1 && !decide (offOf e.1 < 8) then a.wr e.1 (regMerge e.1 (a.rd e.1) e.2) else a) s
  let s2 := (s.cfgTables c).foldl (fun a t => t.2.2.zipIdx.foldl (fun b e => b.cfgPut t.1 (t.2.1 + e.2) e.1) a) s1
  { (s2.cfgPairRegs s c) with
    mbx := s.cfgMbx c
    cfg := { init := ini.foldl (fun m e => smSet regReset m e.1 (regMerge e.1 (smGet regReset m e.1) e.2)) [],
             privComp := s.cfgPriv c, pair := s.cfgByte c 7 == 1, serials := s.cfgPair c, cpeRef := s.cfgRef c } }

/-- What follows from a loaded configuration: PRIV of the comparators, the buckets of the recorder, bank data, the running programs, the
nodes and stations in INIT, and what the registers say of it all. -/
def State.cfgDerive (s : State) : State :=
  let s1 := (List.range 64).foldl (fun a n => a.setB (bitAt (0x504C + 16 * n) 27) (s.cfg.privComp / 2 ^ n % 2 == 1)) s
  let codes := (s1.tbl.filter (fun e => tkeyTid e.1 == 0x0801 && tkeyWord e.1 == 0 && wbit e.2 31)).map (fun e => tkeyIdx e.1)
  let s2 := (codes.foldl (fun a k => a.evrSetTokens k (a.evrBurst k)) s1).evrSetTokens 1024 (s1.evrBurst 1024)
  let s3 := (s2.setF ⟨0x8080, 0, 11⟩ codes.length).optMod (fun o =>
    { o with ofsSolve := sint (s2.rd 0x25060), ofsDef := sint (s2.rd 0x25060) })
  let s4 := adaptReset ((s3.cpeStart 0).cpeStart 1)
  let s5 := modelSoftReset (((s4.modelDef).seqInfo).optCounts)
  let s6 := s5.nodes.foldl (fun a n => (a.nodeInit n).imgType n) s5
  let s7 := ((s6.groupDefs).allSlots).loopGroupFields
  let s8 := [0, 1].foldl (fun a p => ((a.stations p).foldl (fun b t => b.stnInit p t) a).canTick p) s7
  (((((s8.ptpStart 0).ptpStart 1).keyRegs).hostRegs).adcSels).aoutStat

/-! ## Verification (R512, R513) -/

/-- CFG_STAT's fields, and the copies' banks: the running bank stands in copy 0. -/
def cfgRunning : Fld := bitAt 0x1044 0
def cfgBoot : Fld := bitAt 0x1044 1
def cfgFallback : Fld := bitAt 0x1044 6

/-- The banked page: its STAT has VERIFIED at 2, VFY_BUSY 3, VFY_FAILED 4, SWITCH_PEND 5. -/
def cfgVer : Fld := bitAt 0x1044 2
def cfgBusy : Fld := bitAt 0x1044 3
def cfgFailed : Fld := bitAt 0x1044 4
def cfgPend : Fld := bitAt 0x1044 5

/-- Code 1: the header and the section table follow R508 and R509. -/
def State.cfgFormat (s : State) (c : Nat) : Bool :=
  let n := s.cfgLe c 20 2
  let l := s.cfgLen c
  let sects := s.cfgSects c
  let raw := List.range (min n 64)
  let one := fun (t : Nat) => decide ((s.cfgSect c t).length ≤ 1)
  s.cfgLe c 0 4 == 0x46434E44 && s.cfgLe c 4 2 == 1 && decide (s.cfgByte c 6 ≤ 2) && decide (s.cfgByte c 7 ≤ 1)
    && decide (1 ≤ n ∧ n ≤ 64) && s.cfgLe c 22 2 == 0 && s.cfgLe c 32 32 == 0
    && decide (64 + 16 * n + 100 ≤ l ∧ l ≤ 8388608)
    && raw.all (fun i =>
      let o := s.cfgLe c (68 + 16 * i) 4
      s.cfgLe c (66 + 16 * i) 2 == 0 && decide (64 + 16 * n ≤ o ∧ o + s.cfgLe c (72 + 16 * i) 4 + 100 ≤ l))
    && sects.all (fun e =>
      if e.1 = 1 then e.2.2 % 8 == 0
      else if e.1 = 2 then
        match tableInfo (s.cfgLe c e.2.1 2) with
        | none => s.cfgLe c (e.2.1 + 2) 2 == 0
        | some t => s.cfgLe c (e.2.1 + 2) 2 == 0 && e.2.2 == 12 + 4 * t.words * s.cfgLe c (e.2.1 + 8) 4
      else if e.1 = 3 then e.2.2 % 12 == 0
      else if e.1 = 4 then e.2.2 == 41 && s.cfgLe c (e.2.1 + 38) 2 == 0
      else if e.1 = 5 then e.2.2 == 8
      else if e.1 = 6 then e.2.2 == 24
      else false)
    && one 1 && one 3 && one 4 && one 5 && one 6
    && (s.cfgSect c 1).length == 1 && (s.cfgSect c 2).length != 0 && (s.cfgSect c 3).length == 1
    && (s.cfgByte c 7 == 0 || (s.cfgSect c 4).length == 1)

/-- Code 5: the firmware is new enough and the order code fits. -/
def State.cfgFits (s : State) (c : Nat) : Bool :=
  let o := s.fld ⟨0x0040, 0, 4⟩
  decide (s.cfgLe c 24 4 ≤ (s.rd 0x004C).toNat)
    && (s.cfgByte c 6 == 0 || (s.cfgByte c 6 == 1 && o % 2 == 0) || (s.cfgByte c 6 == 2 && o % 2 == 1))

/-- The module's state as copy `c` alone would load it. -/
def State.cfgTrial (s : State) (c : Nat) : State :=
  { State.reset with tbl := smFilter s.tbl (fun k => keptTable (tkeyTid k)), cpe := s.cpe }.cfgLoad c

/-- The first value or record that its page's own rules refuse, as CFG_VFY_SUB and CFG_VFY_REC (R513 code 6): registers, then records, then
the sequence, model and asset banks. -/
def State.cfgContent (s : State) (c : Nat) : Option (Word × Word) :=
  let sub := fun (p code t i : Nat) => (BitVec.ofNat 32 (p * 2 ^ 24 + code * 2 ^ 20 + t * 2 ^ 16), BitVec.ofNat 32 i)
  let reg := (s.cfgInit c).find? (fun e => valueStatus e.1 e.2 != .ok)
  let tab := (s.cfgTables c).findSome? (fun t =>
    (t.2.2.zipIdx.find? (fun e => tableStatus t.1 (t.2.1 + e.2) e.1 != .ok)).map (fun e => (t.1.tid, t.2.1 + e.2)))
  match reg, tab with
  | some e, _ => some (sub (pageOf e.1 % 256) 0 0 0)
  | none, some (tid, i) => some (sub (tablePage tid) 0 (tid % 16) i)
  | none, none =>
    let x := s.cfgTrial c
    match x.seqVerify s.activeTasks 1, x.modelVerify, x.optVerify with
    | some e, _, _ => some (sub 0x06 e.code e.table e.entry)
    | none, some (k, t, i), _ => some (sub 0x24 k t i)
    | none, none, some (k, t, i) => some (sub 0x25 k t i)
    | none, none, none => none

/-- Words of the snapshot mailboxes that frame table `t` publishes (R35): at most `n` entries from `i`. -/
def State.snapWords320 (s : State) (t : Nat) : Nat → Nat → Nat
  | 0, _ => 0
  | n + 1, i =>
    let e := s.entryAt 0 t i
    if e.op = 0x01 then 0
    else (if e.op = 0x02 then
        match s.mbxOf (e.arg % 4096) with
        | some m => if m.readers / 4 % 16 != 0 then m.words else 0
        | none => 0
      else 0) + s.snapWords320 t n (i + 1)

/-- Code 7: the mailboxes exceed 1 MiB, or one names two writers (R28); the snapshot mailboxes of a frame exceed 320 KiB (R35); in a pair a
table that the plan names does not hold exactly one TWIN_REC (R458). -/
def State.cfgLimit (s : State) (c : Nat) : Bool :=
  let x := s.cfgTrial c
  let m := x.mbx
  decide (1048576 < m.foldl (fun n b => n + 8 * b.words) 0) || !decide ((m.map (·.num)).Nodup)
    || (x.planTables 0).any (fun p => decide (327680 < 4 * x.snapWords320 p.1 4096 0)
        || (x.cfg.pair && x.twinRecs 0 p.1 4096 0 != 1))

/-- Code 8: the PAIR section of an image that defines a pair. -/
def State.cfgPairOk (s : State) (c : Nat) : Bool :=
  s.cfgByte c 7 == 0 || (s.cfgKeySlot c == 4 && (s.cfgPair c).any (fun e => e.1 == (s.rd 0x0044).toNat + (s.rd 0x0048).toNat * 2 ^ 32))

/-- Code 9: each CPE's active program is the one that CPE_REF names. -/
def State.cfgRefOk (s : State) (c : Nat) : Bool :=
  ((s.cfgRef c).zipIdx).all (fun e =>
    e.1.1 == s.imgId e.2 0 && e.1.2.1 == s.imgVer e.2 0 && e.1.2.2 == s.imgLe e.2 0 (s.imgLen e.2 0 - 100) 4)

/-- The verdict on copy `c`: the code of R513, 0 for none, with CFG_VFY_SUB and CFG_VFY_REC; `key`, slot 3 was ACTIVE when the verification
started (R500). -/
def State.cfgVerdict (s : State) (c : Nat) (key : Bool) (o : CfgObs) : Nat × Word × Word :=
  if !s.cfgFormat c then (1, 0, 0)
  else if !o.crc then (2, 0, 0)
  else if key && !o.sig then (3, 0, 0)
  else if !key then (4, 0, 0)
  else if !s.cfgFits c then (5, 0, 0)
  else
    match (s.cfgContent c).orElse (fun _ => o.content) with
    | some e => (6, e.1, e.2)
    | none =>
      if s.cfgLimit c then (7, 0, 0)
      else if !s.cfgPairOk c then (8, 0, 0)
      else if !s.cfgRefOk c then (9, 0, 0)
      else (0, 0, 0)

/-- VERIFIED is cleared; a pending switch is withdrawn with its event, and the boot bank restored (R94, R512). -/
def State.cfgUnpend (s : State) : State :=
  (s.setB cfgPend false).setF cfgBoot (if s.bit cfgFallback then 1 - s.fld cfgRunning else s.fld cfgRunning)
def State.cfgUnverify (s : State) : State :=
  let s1 := s.setB cfgVer false
  if s.bit cfgPend then (s1.cfgUnpend).raiseEv 1 3 else s1

/-- CFG_CMD.VERIFY (R512, R92). -/
def cfgVerifyCmd (s : State) : State × Status :=
  if s.bit cfgBusy then (s, .busy)
  else if s.bit cfgPend then (s, .refused)
  else (((s.setB cfgVer false).setB cfgBusy true).keyTaken 0, .ok)
def execCfgVerify (s : State) : Out := .next (cfgVerifyCmd s).1

/-- A verification ends with a failure. -/
def State.cfgFail (s : State) (code off : Nat) (sub rec_ : Word) : State :=
  let s1 := (s.wr 0x1048 (BitVec.ofNat 32 (code * 2 ^ 28 + (1 - s.fld cfgRunning) * 2 ^ 27 + off % 2 ^ 24))).wr 0x104C sub
  (((s1.wr 0x1050 rec_).setB cfgBusy false).setB cfgFailed true).raiseEv 1 1

/-- CFG_VERIFY_END (R513): the running verification of the inactive bank ends with its verdict. -/
def execCfgVerifyEnd (o : CfgObs) (s : State) : Out :=
  .next <|
    if !s.bit cfgBusy then s
    else
      let v := s.cfgVerdict 1 (s.keyAt 0) o
      if v.1 = 0 then
        let s1 := ((s.wr 0x1048 0).wr 0x104C 0).wr 0x1050 0
        let s2 := ((s1.wr 0x1060 (s.cfgWord 1 8)).wr 0x1064 (s.cfgWord 1 12)).wr 0x1068 (s.cfgWord 1 (s.cfgLen 1 - 100))
        (((s2.setB cfgBusy false).setB cfgFailed false).setB cfgVer true).raiseEv 1 0
      else s.cfgFail v.1 o.off v.2.1 v.2.2

/-- A write to the inactive bank took effect: VERIFIED clears, and a running verification ends with CHANGED (R92, R513). -/
def State.cfgWritten (s : State) : State :=
  let s1 := s.cfgUnverify
  if s1.bit cfgBusy then s1.cfgFail 10 0 0 0 else s1

/-- CFG_CMD.SWITCH: the inactive bank is the boot bank. CANCEL restores the boot bank (R512). -/
def cfgSwitchCmd (s : State) : State × Status :=
  if s.bit cfgVer then ((s.setB cfgPend true).setF cfgBoot (1 - s.fld cfgRunning), .ok) else (s, .refused)
def execCfgSwitch (s : State) : Out := .next (cfgSwitchCmd s).1
def cfgCancelCmd (s : State) : State := if s.bit cfgPend then s.cfgUnpend else s
def execCfgCancel (s : State) : Out := .next (cfgCancelCmd s)

/-- The soft reset of the CFG page beside R55 (R525). -/
def cfgSoftReset (s : State) : State := s.cfgUnverify

/-! ## Restarts (R522, R523) -/

/-- The module stops for a restart: it is in BOOT with passive outputs until its start-up runs. -/
def State.restartNow (s : State) (cause : Nat) : State :=
  let s1 := ((s.setF ⟨0x0054, 28, 4⟩ 0).setF ⟨0x0054, 24, 4⟩ 1).setB (bitAt 0x0054 11) false
  ({ s1 with dev := { s1.dev with restart := some cause, restartNext := false }, lnch := [] }).aoutStat

/-- The restart of R523 without a switch: metering commits the last-gasp record, with no tail record. -/
def State.restartMet (s : State) : State := ((s.lastGasp true).metPowerOff).restartNow 1

/-- CFG_CMD.RESTART: with an ELIGIBLE partner a planned switch at once and the restart at the next tick. -/
def restartCmd (s : State) : State :=
  if s.canSwitch then
    let s1 := (twinSwitchCmd s).1
    { s1 with dev := { s1.dev with restartNext := true } }
  else s.restartMet
def execRestart (s : State) : Out := .next (restartCmd s)

/-- CFG_CMD.RESTART_PAIR: REFUSED on a single module. -/
def restartPairCmd (s : State) : State × Status := if s.cfg.pair then (s.restartMet, .ok) else (s, .refused)
def execRestartPair (s : State) : Out := .next (restartPairCmd s).1

/-- FAULT_RESTART (R522): FAULT_RESTART seconds after the entry into FAULT, unless the module has entered FAULT 3 times within 3,600 s.
Before step 7 no frame has counted the wait. -/
def execFaultRestart (s : State) : Out :=
  let tmo := s.fld ⟨0x0098, 0, 16⟩
  .next <|
    if s.mstate = 6 ∧ tmo ≠ 0 ∧ (s.dev.faults.filter (fun f => decide (s.ownSince f ≤ 3600000))).length < 3
        ∧ (s.bootStep < 7 ∨ tmo * 1000 ≤ s.ownSince s.dev.faultAt) then s.restartNow 3
    else s

/-! ## The start-up sequence (R516 to R518) -/

/-- What a start-up keeps of the module: the persistent partitions, the AON domain, the banks, and the model's own fields. `ms`: the
time of the start-up before frames run, from which the entries into FAULT of the last hour are dated. -/
def State.powerBase (s : State) (cause ms : Nat) : State :=
  let at_ := fun (f : Nat) => (2 ^ 33 - (s.ownSince f + ms) % 2 ^ 32) % 2 ^ 32
  let act := fun (a : State) (f : Fld) => a.setF f (s.fld f)
  let b : State := { State.reset with
    regs := s.regs.filter (fun e => keptReg e.1)
    tbl := smFilter s.tbl (fun k => keptTable (tkeyTid k) && !(tkeyTid k == 0x0901))
    snet := { SnetSt.init with nodes := s.snet.nodes.map (fun e => (e.1, { NodeSt.init with base := e.2.saved, saved := e.2.saved })) }
    met := { MetSt.init with ints := s.met.ints, pfNext := s.met.pfNext }
    metNv := s.metNv
    cpeNv := s.cpeNv
    cpe := s.cpe.map (fun c => { CpeSt.empty with tasks := c.tasks })
    keys := { KeySt.init with staged := s.keys.staged, aonSec := s.keys.aonSec, aonNs := s.keys.aonNs }
    dev := { State.reset.dev with faults := if cause = 3 then s.dev.faults.map at_ else [] }
    free := s.free
    sent := s.sent
    pending := s.pending }
  act (act b (bitAt 0x2104C 0)) (bitAt 0x2204C 0)

/-- DEV_STEP_MS_k: the end of step `k`. -/
def State.stepEnd (s : State) (k ms : Nat) : State :=
  s.wr (0x0068 + 4 * k) (BitVec.ofNat 32 (min ms 65534))

/-- STEP of DEV_STAT. -/
def State.inStep (s : State) (k : Nat) : State := s.setF ⟨0x0054, 24, 4⟩ k

/-- The ends of steps `k` to `n` from an observation. -/
def State.stepEnds (s : State) (o : BootObs) (k n : Nat) : State :=
  (List.range (n + 1 - k)).foldl (fun a i => a.stepEnd (k + i) (o.ms.getD (k + i - 2) 0)) s

/-- Firmware (R516 step 4): the boot bank runs, or else the other; DEV_FW_STAT shows it. None: the module enters FAULT. -/
def State.bootFirmware (s : State) (o : BootObs) : State × Bool :=
  let boot := s.fld (bitAt 0x0050 1)
  let ok := fun (b : Nat) => if b = 0 then o.fwA else o.fwB
  let run := if ok boot then boot else 1 - boot
  let s1 := ((s.setB (bitAt 0x0050 4) o.fwB).setB (bitAt 0x0050 3) o.fwA).setB (bitAt 0x0050 2) (!ok boot && ok (1 - boot))
  if ok boot || ok (1 - boot) then (s1.setF (bitAt 0x0050 0) run, true) else (s1, false)

/-- The factory default configuration (R515): the pages that run, port H1 with its address, and credential 0 on slot 5. -/
def State.factoryLoad (s : State) : State :=
  let s1 := [0x00, 0x01, 0x02, 0x03, 0x04, 0x08, 0x09, 0x0A, 0x0B].foldl (fun a p => a.setB (bitAt (addrOf p 8) 0) true) s
  let s2 := (((s1.setB (bitAt 0x8040 0) true).setB (bitAt 0xB040 0) true).setB (bitAt 0xB040 1) false).setB (bitAt 0xB040 3) true
  let s3 := ((s2.wr 0xB06C 0xC0A8140A).setF ⟨0xB09C, 0, 8⟩ 24).wr 0xB08C 0
  let s4 := s3.twr 0x0B00 0 0 (BitVec.ofNat 32 (2 ^ 31 + 2 ^ 30 + 7 * 2 ^ 24 + 5 * 2 ^ 16))
  { s4 with cfg := { init := s4.regs, privComp := 0, pair := false, serials := [], cpeRef := [] } }

/-- Configuration (R514): the boot bank, or else the other. CFG_BOOT_RES shows the code of each bank tried; the bank that runs stands in
copy 0. The truth value says whether one does. -/
def State.bootBank (s : State) (o : BootObs) : State × Bool :=
  let boot := s.fld cfgBoot
  let code := fun (b : Nat) => (s.cfgVerdict (if b = s.fld cfgRunning then 0 else 1) s.keySlot3 (if b = 0 then o.a else o.b)).1
  let c1 := code boot
  let s1 := ((s.setB cfgPend false).setB cfgBusy false).setF ⟨0x106C, 4 * boot, 4⟩ c1
  let s2 := if c1 = 0 then s1 else s1.setF ⟨0x106C, 4 * (1 - boot), 4⟩ (code (1 - boot))
  let run := if c1 = 0 then boot else 1 - boot
  if c1 ≠ 0 ∧ code (1 - boot) ≠ 0 then (s2, false)
  else
    let s3 := if run = s.fld cfgRunning then s2 else s2.bankSwap (fun t => t == 0x0100)
    let s4 := (((s3.setF cfgRunning run).setB cfgFallback (c1 != 0)).setB cfgVer false).setB cfgFailed false
    (s4, true)

/-- CFG_ACT_ID, _VER and _CHECK. -/
def State.cfgActive (s : State) : State :=
  ((s.wr 0x1054 (s.cfgWord 0 8)).wr 0x1058 (s.cfgWord 0 12)).wr 0x105C (s.cfgWord 0 (s.cfgLen 0 - 100))

/-- SNET_EPOCH goes up at every start-up (R209). -/
def State.epochUp (s : State) : State := s.wr 0x12074 (s.rd 0x12074 + 1)

/-- Steps 6 and 7 with a bank that verifies: restore (R517), load (R510). -/
def State.bootLoad (s : State) : State :=
  let s1 := ((s.cfgLoad 0).cfgActive).epochUp
  let s2 := (s1.metRestore).cfgDerive
  if s1.bit cfgFallback then s2.raiseEv 1 2 else s2

/-- The module enters RUN's wait: step 10 begins. -/
def State.step10 (s : State) : State :=
  let s1 := (s.wr (0x0068 + 4 * 9) (BitVec.ofNat 32 (min (s.fld ⟨0x0084, 0, 16⟩ + s.ownFno) 65534))).inStep 10
  { s1 with dev := { s1.dev with admitFrom := s1.ownFno } }

/-- Why the start-up runs: the cause of a restart that has begun, a power-fail sequence that ended, or power-up (DEV_BOOT_CAUSE). -/
def State.bootCause (s : State) : Nat :=
  match s.dev.restart with
  | some c => c
  | none => if s.pwr.done then 2 else 0

/-- Steps 1 to 3 (R516): what a start-up keeps, the tamper trace, and the key store. -/
def State.bootSecure (s : State) (o : BootObs) : State :=
  let s0 := s.powerBase s.bootCause (o.ms.getD 5 0)
  let s1 := (((s0.stepEnd 1 0).setF ⟨0x0060, 0, 3⟩ s.bootCause).bump .DEV_BOOT).stepEnd 2 (o.ms.getD 0 0)
  let s2 := if o.trace then s1.tamperResponse 2 0 true else s1
  if s2.tampered then (s2.zeroise).setB (bitAt 0xA040 31) true else s2.stepEnd 3 (o.ms.getD 1 0)

/-- Step 9 begins: a module of a pair goes on hearing its partner, a single module passes to step 10 at once (R516). -/
def State.bootRole (s : State) : State :=
  if s.cfg.pair then (s.setB (bitAt 0x0054 10) true).twinMod (fun t => { t with on := true })
  else (s.setB (bitAt 0x0054 10) false).step10

/-- What follows step 6 with the outcome of the banks (R516): step 7 begins when BALLAST_OK is 1 (R531); steps 7 and 8 and the beginning of step 9, or DEFAULTED with the factory
configuration. -/
def bootWith (o : BootObs) : State × Bool → State
  | (b, true) => ((((b.bootLoad).setB pwrBallast true).stepEnds o 6 8).inStep 9).bootRole
  | (b, false) =>
    ((((((((b.factoryLoad).setB pwrBallast true).cfgDerive).stepEnds o 6 7).inStep 7).setB (bitAt 0x0054 9) true).raiseEv 0 1).goto 1)

/-- Steps 6 to 8 and the beginning of step 9 (R516). -/
def State.bootConfig (s : State) (o : BootObs) : State := bootWith o ((s.inStep 6).bootBank o)

/-- Step 5 (R516): the self-test, and on. -/
def State.bootTest (s : State) (o : BootObs) : State :=
  let s4 := (s.stepEnd 4 (o.ms.getD 2 0)).inStep 5
  if !o.selfTest then s4.enterFault 8 0
  else ((s4.setF ⟨0x3040, 0, 12⟩ 4095).stepEnd 5 (o.ms.getD 3 0)).bootConfig o

/-- POWER_GOOD (R516): steps 1 to 8 and the beginning of step 9, which a single module passes at once. -/
def execPowerGood (o : BootObs) (s : State) : Out :=
  let fw := ((s.bootSecure o).inStep 4).bootFirmware o
  .next (if !fw.2 then fw.1.enterFault 7 0 else fw.1.bootTest o)

/-! ## Role negotiation (R519) -/

/-- A heartbeat of the partner has come in the last two ticks. -/
def State.hears (s : State) : Bool := s.twin.any || s.twin.anyPrev

/-- The module leads: it goes on with step 10 as the only active module, its epoch one above `e`. -/
def State.leadFrom (s : State) (e : Nat) : State := (s.wr 0xC04C (BitVec.ofNat 32 (e + 1))).step10

/-- The module stands by: the join replaces step 10. -/
def State.standBy (s : State) : State := (s.step10).goto 3

/-- This module would lead a pair formed with the partner: the higher saved epoch, the lower serial number on a tie. -/
def State.wouldLead (s : State) (p : PartnerHb) : Bool :=
  decide (p.epoch < s.epoch) || (s.epoch == p.epoch && decide (s.serial < s.partnerSerial))

/-- The partner's identity is not the one that the image holds for its serial number, or a signature does not verify (R498). -/
def State.negRefuses (s : State) (o : NegObs) : Bool := !o.sigs || s.cfg.serials.lookup o.serial != some o.finger

/-- The cases of R519 for a module that hears its partner. -/
def State.negotiate (s : State) (o : NegObs) (p : PartnerHb) : State :=
  if s.negRefuses o then s.park 2
  else if o.order ≠ s.fld ⟨0x0040, 0, 4⟩ then (if s.wouldLead p then s.leadFrom s.epoch else s.park 1)
  else if p.mstate = 4 then
    if s.epoch < p.epoch then ((s.twinKey).discardState).standBy
    else if p.epoch < s.epoch then (s.park 3).raiseEv 0x0C 9
    else (s.twinKey).standBy
  else if p.mstate = 0 ∨ p.mstate = 3 then
    let e := max s.epoch p.epoch
    let s1 := s.twinKey
    if s.wouldLead p then s1.leadFrom e else (s1.wr 0xC04C (BitVec.ofNat 32 (e + 1))).standBy
  else s.leadFrom s.epoch

/-- The module is in step 9, or comes to it again from PARKED. -/
def State.inStep9 (s : State) : Bool := s.mstate == 0 && s.cfg.pair && (s.bootStep == 8 || s.bootStep == 9)

/-- ROLE_NEGOTIATION (R519, R505): a tick of step 9. A tampered module parks beside an ACTIVE or STANDBY partner, and else goes on to
TAMPERED. -/
def execRoleNegotiation (o : NegObs) (s : State) : Out :=
  .next <|
    if !s.inStep9 then s
    else
      let s1 := (s.inStep 9).twinMod (fun t => { t with on := true })
      match (if s.hears then s.twin.hb else none) with
      | some p =>
        let s2 := (s1.wr 0xC05C (lo32 o.serial)).wr 0xC060 (hi32 o.serial)
        if s2.tampered then
          (if p.mstate = 4 ∨ p.mstate = 3 then s2.park 5 else if p.mstate = 0 then s2 else s2.step10)
        else s2.negotiate o p
      | none => if s1.twin.seen then s1.park 7 else s1

/-- NEG_WAIT_EXPIRE (R519 case 6): no partner heartbeat and no beacon by the end of NEG_WAIT, with port A or B linked. -/
def execNegWaitExpire (s : State) : Out :=
  .next <|
    if s.inStep9 && !s.hears && !s.twin.seen && (s.lineUp 0 || s.lineUp 1)
        && decide (s.fld ⟨0x1070, 24, 8⟩ * 100 ≤ s.ownSince s.dev.negFrom) then
      if s.tampered then s.step10 else s.leadFrom s.epoch
    else s

/-- Step 10 has ended: ADMIT_FRAC of the defined nodes are ADMITTED, or ADMIT_WAIT has passed, or the module is tampered and skips it; on a
standby module the join has completed (R516, R518). -/
def State.admitted (s : State) : Bool :=
  let n := s.nodes.length
  let m := (s.nodes.filter (fun i => s.nodeState i == 2)).length
  if s.mstate = 3 then s.twin.instep
  else s.tampered || decide (s.fld ⟨0x1070, 16, 8⟩ * n ≤ 100 * m) || decide (s.fld ⟨0x1070, 0, 16⟩ ≤ s.ownSince s.dev.admitFrom)

/-- BOOT_DONE (R516 step 11): the module is ACTIVE, STANDBY or TAMPERED, in RUN; a tampered one has skipped step 10 (R518). -/
def execBootDone (s : State) : Out :=
  .next <|
    if (s.mstate = 0 ∨ s.mstate = 3) ∧ s.bootStep = 10 ∧ s.inRun = false ∧ s.admitted = true then
      let ms := BitVec.ofNat 32 (min (s.fld ⟨0x0084, 0, 16⟩ + s.ownFno) 65534)
      let s1 := ((if s.tampered then s else s.wr 0x0090 ms).wr 0x0094 ms).inStep 11
      let s2 := { s1 with dev := { s1.dev with recovery := false } }.setB (bitAt 0x0054 11) true
      (if s.mstate = 3 then s2 else s2.goto (if s.tampered then 2 else 4)).raiseEv 0 4
    else s

/-! ## The cold takeover (R480) -/

/-- The configuration image loaded anew beside what a module has of its own: its own pages, sessions 6 and 7, its clock and frame count, its
keys and its saves. -/
def State.coldLoad (s : State) : State :=
  let mine := fun (a : Nat) => ownPage (pageOf a) || [0x01, 0x04, 0x06, 0x09].contains (pageOf a) || keptReg a
  let b : State := { s with
    regs := s.regs.filter (fun e => mine e.1)
    tbl := smFilter s.tbl (fun k => keptTable (tkeyTid k) || ownPage (tablePage (tkeyTid k)))
    shadow := [], tshadow := [], commitDue := []
    lnch := [], model := ModelSt.init, opt := OptSt.init, loop := LoopEng.init, dio := { DioSt.init with di := s.dio.di, fast := s.dio.fast }
    adc := AdcSt.init, can := List.replicate 2 CanSt.init, priv := PrivSt.init
    snet := { SnetSt.init with nodes := s.snet.nodes.map (fun e => (e.1, { NodeSt.init with base := e.2.saved, saved := e.2.saved })),
                               lines := s.snet.lines }
    met := { MetSt.init with ints := s.met.ints } }
  ((b.cfgLoad 0).metRestore).cfgDerive

/-- TWIN_COLD (R479, R480): a standby that is not ELIGIBLE takes over cold, from the image and the segments committed in its join. -/
def execTwinCold (s : State) : Out :=
  .next <|
    if s.mstate = 3 && s.cfg.pair && s.twin.declared && s.twin.passed && !s.eligible' && s.bit (bitAt 0xC040 1) then
      let segs := (List.range 10).filterMap (fun i => s.segs.lookup i)
      let s1 := ((segs.foldl (fun a d => a.overlay d) s.coldLoad).epochUp).metPowerOff
      let s2 := s1.nodes.foldl (fun a n => a.nodeInit n) s1
      let s3 := { s2 with segs := [] }.tickEarly.takeOver
      (s3.twinMod (fun t => { t with cold := true })).raiseEv 0x0C 7
    else s

end Sys2Proof.Machine
end

