-- ==== Sys2Proof/Machine/Overrun.lean ====
section
/-! DEFINITION. What the sequencer does when an engine does not complete an entry in time (R95 to R97), and when it does not answer at all
(R41). -/

namespace Sys2Proof.Machine

/-- Record `i` of the running table is still the running entry of its resource: it is the one issued next, or it has been issued and no later
entry of the same UNIT has, so that its deadline, the OFFSET of the next entry on the resource or the frame's end, has just come (R95). -/
def State.atDeadline (s : State) (unit i : Nat) : Bool :=
  (decide (i ≤ s.seq.pos)
    && (List.range s.seq.pos).all (fun j => decide (j ≤ i) || (s.entryAt 0 s.runTable j).unit != unit)
    && !s.seq.ovr.contains (unit, i))

/-- What an overrun activity has done by its deadline where its own row was not sent: of a LOOP_GROUP its first `done` loops; of a CPE task
nothing (R383); of any other entry nothing. -/
def State.overrunWork (s : State) (e : Entry) (done : Nat) : State :=
  if e.op = 0x28 then s.cpeOverrun (e.unit - 8) (e.arg % 8) done
  else if e.op = 0x20 ∧ s.bit (bitAt 0x20040 0) = true then (s.loopsRun e.arg (min done (e.arg / 256 % 256))).1
  else s

/-- ENTRY_DEADLINE (R95, R96): the activity of an entry of the running table on an engine has not been completed at its deadline. The engine
stops and keeps the work of before the deadline; `acked.acked` says whether it acknowledged the stop within 1 µs. The row comes after the entry's own
row where the entry's work was done and not acknowledged, and otherwise in its place, with how many of its parts were complete. -/
def execEntryDeadline (unit entry : Nat) (acked : Stopped) (s : State) : Out :=
  .next <|
    let e := s.entryAt 0 s.runTable entry
    let here := decide (entry = s.seq.pos)
    if s.nextEntry.isNone && here || !unitEngine unit || unit == 0x00 || e.unit != unit || s.unitOff unit || !s.atDeadline unit entry
      || (e.op == 0x28 && !here) then s
    else
      let s1 := if here then (s.passEntry).overrunWork e acked.done else s
      s1.seqMod (fun q => { q with
        skip := unit :: q.skip.filter (· != unit), ovr := q.ovr ++ [(unit, entry)],
        missed := if acked.acked then setAt q.missed unit 0 else modAt q.missed unit (· + 1) })

/-- ENGINE_LOST (R41): three consecutive entries without acknowledgement raise ENGINE_LOST with the engine's number, and the module
enters FAULT. -/
def execEngineLost (e : Nat) (s : State) : Out :=
  .next <|
    if s.engineLost e then
      (((s.setF ⟨0x30044, 4, 4⟩ e).seqMod (fun q => { q with missed := setAt q.missed e 0 })).raiseEv 0x30 1).enterFault 1 e
    else s

end Sys2Proof.Machine
end

