-- ==== Sys2Proof/Machine/Icu.lean ====
section
/-! DEFINITION. The interrupt controller's commands (R399 to R406). -/

namespace Sys2Proof.Machine

/-- What a write of a source number to one of the seven registers of R400 does once its number is allowed. -/
inductive IcuOp where
  | doorbell | enSet | enClr | maskSet | maskClr | pendSet | pendClr
deriving DecidableEq, Repr

/-- The effect on the source. ICU_PEND_SET counts as a signal under R399; ICU_EN_CLR clears PENDING as well. -/
def icuApply (op : IcuOp) (src : Nat) (s : State) : State :=
  match op with
  | .doorbell => s.signal src
  | .pendSet => s.signal src
  | .enSet => (s.srcSet src 31 1 1).icuEval
  | .enClr => ((s.srcSet src 31 1 0).srcSet src 29 1 0).icuEval
  | .maskSet => (s.srcSet src 30 1 1).icuEval
  | .maskClr => (s.srcSet src 30 1 0).icuEval
  | .pendClr => (s.srcSet src 29 1 0).icuEval

/-- A write of R400 by an engine (`some e`) or by the owner (`none`): 0x000 has no effect; an owner's write of a reserved
source, or an owner's doorbell outside 0x300 to 0x3FF, completes with RANGE; an engine's write of a reserved source is
discarded, ICU_BAD_DB increments and DOORBELL_REFUSED is raised. -/
def icuWrite (op : IcuOp) (eng : Option Nat) (src : Nat) (s : State) : State × Status :=
  if src = 0 then (s, .ok)
  else
    match eng with
    | none =>
      if srcReserved src || (op == .doorbell && decide (src < 0x300)) then (s, .range) else (icuApply op src s, .ok)
    | some _ =>
      if srcReserved src then ((s.bump .ICU_BAD_DB).raiseEv 7 1, .ok) else (icuApply op src s, .ok)

def execIcuDoorbell (eng : Option Nat) (src : Nat) (s : State) : Out := .next (icuWrite .doorbell eng src s).1
def execIcuEnSet (eng : Option Nat) (src : Nat) (s : State) : Out := .next (icuWrite .enSet eng src s).1
def execIcuEnClr (eng : Option Nat) (src : Nat) (s : State) : Out := .next (icuWrite .enClr eng src s).1
def execIcuMaskSet (eng : Option Nat) (src : Nat) (s : State) : Out := .next (icuWrite .maskSet eng src s).1
def execIcuMaskClr (eng : Option Nat) (src : Nat) (s : State) : Out := .next (icuWrite .maskClr eng src s).1
def execIcuPendSet (eng : Option Nat) (src : Nat) (s : State) : Out := .next (icuWrite .pendSet eng src s).1
def execIcuPendClr (eng : Option Nat) (src : Nat) (s : State) : Out := .next (icuWrite .pendClr eng src s).1

/-- ICU_CLAIM (R403): the claim of target `t` returns its word. -/
def execIcuClaim (t : Nat) (s : State) : Out :=
  let r := claim t s
  .next (r.1.emit (.claimed t r.2))

/-- ICU_EOI (R404): the top source is completed; any other non-zero value freezes the stack. -/
def icuEoi (t src : Nat) (s : State) : State :=
  if s.stackFrozen t || src == 0 then s
  else
    let st := s.icu.stack.getD t []
    if st.head? = some src then
      let s1 := s.srcSet src 28 1 0
      ({ s1 with icu := { s1.icu with stack := setAt s1.icu.stack t st.tail } }).icuEval
    else (((s.setF (bitAt 0x7060 t) 1).icuEval).bump .ICU_STACK_FAULT).raiseEv 7 0

def execIcuEoi (t src : Nat) (s : State) : Out := .next (icuEoi t src s)

/-- ICU_STACK_RESET (R405). -/
def execIcuStackReset (t : Nat) (s : State) : Out := .next (stackReset t s)

/-- A TABLE_WRITE of a source record at its tick (R401): TARGET must be 12, 15 or FW_TGT, and a source whose CLAIMED is 1
keeps PRIO and TARGET; a presentation of the source not yet claimed is withdrawn. -/
def icuTableWrite (src : Nat) (v : Word) (s : State) : State × Status :=
  let prio := wbits v 24 4
  let tgt := wbits v 20 4
  let changes := prio != s.srcFld src 24 4 || tgt != s.srcFld src 20 4
  if tgt != 12 && tgt != 15 && tgt != s.srcFld src 16 4 then (s, .range)
  else if changes && s.srcFld src 28 1 == 1 then (s, .range)
  else
    let s1 := (s.srcSet src 24 4 prio).srcSet src 20 4 tgt
    let s2 := if changes then
        { s1 with icu := { s1.icu with pres := s1.icu.pres.map (fun p => if p = src then 0 else p) } } else s1
    (s2.icuEval, .ok)

end Sys2Proof.Machine
end

