-- ==== Sys2Proof/Machine/Recorder.lean ====
section
/-! DEFINITION. The event recorder's commands (R408 to R417). Its admission is in Ops. -/

namespace Sys2Proof.Machine

/-- EVR_NEXT: the records stored. -/
def State.evrNext (s : State) : Nat := s.fld ⟨0x804C, 0, 17⟩

/-- The snapshot words of R413: what the registers named in the code's record read as now. -/
def State.snapWords (s : State) (r : Option Nat) : List Word :=
  match r with
  | none => []
  | some k => (List.range (min 16 (s.tfld 0x0801 k 0 16 5))).map (fun i => s.readWord (s.tfld 0x0801 k (2 + i) 0 24))

/-- Earlier raising time first, the lower event code first on equal times (R409). -/
def intakeBefore (a b : Intake) : Bool :=
  decide (a.sec < b.sec) || (a.sec == b.sec && (decide (a.ns < b.ns) || (a.ns == b.ns && decide (a.code ≤ b.code))))

/-- Inserts an event in the order of commitment. -/
def intakeInsert (e : Intake) : List Intake → List Intake
  | [] => [e]
  | x :: l => if intakeBefore e x then e :: x :: l else x :: intakeInsert e l

/-- The intake queue in the order of commitment. -/
def intakeSort : List Intake → List Intake
  | [] => []
  | e :: l => intakeInsert e (intakeSort l)

/-- The four words that begin a record (R412). -/
def recHead (e : Intake) (kind nSnap : Nat) : List Word :=
  [lo32 e.sec, BitVec.ofNat 32 (e.sec / 2 ^ 32 % 2 ^ 16 * 2 ^ 16 + e.code), BitVec.ofNat 32 (kind * 2 ^ 30 + e.ns),
   BitVec.ofNat 32 (e.frame * 2 ^ 22 + b2n e.ext * 2 ^ 21 + nSnap * 2 ^ 16 + e.tq * 2 ^ 14)]

/-- Stores one record at EVR_NEXT. -/
def recStore (ws : List Word) (s : State) : State :=
  (s.trecSet 0x0800 s.evrNext 0 (ws ++ List.replicate (20 - ws.length) 0)).setF ⟨0x804C, 0, 17⟩ (s.evrNext + 1)

/-- Commits one event: its summary first where one is due, then its own record; RECORDED and LAST_IDX of its code
(R411, R412, R417). -/
def recCommit (e : Intake) (s : State) : State :=
  let s1 := match e.summary with
    | none => s
    | some ws => (recStore (recHead e 1 0 ++ ws) s).bump .EVR_SUMMARY
  let snap := e.snap.getD []
  let idx := s1.evrNext
  let s2 := recStore (recHead e e.kind snap.length ++ snap) s1
  match e.codeRec with
  | none => s2
  | some k => (s2.twr 0x0802 k 2 (s2.trd 0x0802 k 2 + 1)).tset 0x0802 k 3 0 17 idx

/-- Commits events in order while the frame's `n` records last. An event whose snapshot is not yet taken waits. -/
def commitAll : Nat → List Intake → State → State × List Intake
  | _, [], s => (s, [])
  | n, e :: l, s =>
    let need := if e.summary.isSome then 2 else 1
    if e.snap.isNone || decide (n < need) then (s, e :: l)
    else commitAll (n - need) l (recCommit e s)

/-- EVR_RECORD_COMMIT (R409): up to 64 records of the frame. -/
def execEvrRecordCommit (s : State) : Out :=
  let r := commitAll 64 (intakeSort s.evr.intake) s
  let s1 := { r.1 with evr := { r.1.evr with intake := r.2 } }
  .next ((s1.setF ⟨0x807C, 0, 10⟩ r.2.length).setF (bitAt 0x8048 2) (b2n (r.2.length == 512)))

/-- EVR_TOKEN_REFILL (R410): a bucket below BURST gains a token when PERIOD frames have passed since its last gain or
since it first fell below. Index 1024 is the default bucket. -/
def execEvrTokenRefill (k : Nat) (s : State) : Out :=
  .next <|
    if (k < 1024 ∧ s.tfld 0x0801 k 0 31 1 = 1 ∨ k = 1024) ∧ s.evrPeriod k ≠ 0 ∧ s.evrTokens k < s.evrBurst k
        ∧ s.evrPeriod k ≤ s.since (s.evrGain k) then
      (s.evrSetTokens k (s.evrTokens k + 1)).evrSetGain k s.fno
    else s

/-- EVR_CMD.FREEZE (R414). -/
def evrFreeze (s : State) : State :=
  if s.bit (bitAt 0x8048 0) then s
  else
    let s1 := (s.setF (bitAt 0x8048 0) 1).wr 0x8054 (lo32 s.nowSec)
    { s1 with evr := { s1.evr with frzAt := s1.fno } }

def execEvrFreeze (s : State) : Out := .next (evrFreeze s)

/-- EVR_CMD.UNFREEZE (R414). -/
def evrUnfreeze (s : State) : State := s.setF (bitAt 0x8048 0) 0

def execUnfreeze (s : State) : Out := .next (evrUnfreeze s)

/-- EVR_CMD.CLEAR (R414): REFUSED unless FROZEN; EVR_NEXT to 0, the intake queue emptied, REC_FULL cleared. -/
def evrClear (s : State) : State × Status :=
  if s.bit (bitAt 0x8048 0) then
    let s1 := { s with evr := { s.evr with intake := [] } }
    (((((s1.setF ⟨0x804C, 0, 17⟩ 0).setF (bitAt 0x8048 1) 0).setF ⟨0x807C, 0, 10⟩ 0).setF (bitAt 0x8048 2) 0), .ok)
  else (s, .refused)

def execEvrClear (s : State) : Out := .next (evrClear s).1

/-- EVR_CMD.CLR_SUPP (R411): SUPP and SUPP_AT_LAST of every code and of the default bucket. -/
def evrClrSupp (s : State) : State :=
  let s1 := { s with tbl := smFilter s.tbl (fun k => !(tkeyTid k == 0x0802 && tkeyWord k == 1)) }
  s1.setF ⟨0x805C, 0, 16⟩ 0

def execClrSupp (s : State) : Out := .next (evrClrSupp s)

/-- FRZ_EXPIRED (R415): a freeze that has lasted FRZ_TMO seconds ends and raises FRZ_EXPIRED; 0 means no limit. -/
def execFrzExpired (s : State) : Out :=
  let tmo := s.fld ⟨0x8050, 0, 12⟩
  .next (if s.bit (bitAt 0x8048 0) ∧ tmo ≠ 0 ∧ tmo * 1000 ≤ s.since s.evr.frzAt then (evrUnfreeze s).raiseEv 8 1 else s)

/-- The soft reset of the EVR page beside R55 (R415): the freeze ends without the event, every bucket refills, the intake
queue empties, SUPP clears; records, EVR_NEXT and SUPP_AT_LAST stay. -/
def evrSoftReset (s : State) : State :=
  let keys := (s.tbl.filter (fun e => tkeyTid e.1 == 0x0801 && tkeyWord e.1 == 0 && wbit e.2 31)).map (fun e => tkeyIdx e.1)
  let held := (s.tbl.filter (fun e => tkeyTid e.1 == 0x0802 && tkeyWord e.1 == 1)).map (fun e => tkeyIdx e.1)
  let s0 := held.foldl (fun a k => a.evrSetSupp k 0) s
  let s1 := keys.foldl (fun a k => a.evrSetTokens k (a.evrBurst k)) s0
  let s2 := (s1.evrSetTokens 1024 (s1.evrBurst 1024)).evrSetSupp 1024 0
  let s3 := (((s2.setF (bitAt 0x8048 0) 0).setF ⟨0x807C, 0, 10⟩ 0).setF ⟨0x807C, 16, 10⟩ 0).setF (bitAt 0x8048 2) 0
  { s3 with evr := { s3.evr with intake := [], lostRun := false } }

/-- A TABLE_WRITE of a code record at its tick (R416): RANGE when another defined record holds the code; the applied
record refills the code's bucket; EVR_CODES_N follows. -/
def evrTableWrite (idx : Nat) (ws : List Word) (s : State) : State × Status :=
  let code := wbits (ws.getD 0 0) 0 16
  let dup := match s.evrRec code with
    | some k => k != idx
    | none => false
  if wbit (ws.getD 0 0) 31 && dup then (s, .range)
  else
    let s1 := s.trecSet 0x0801 idx 0 ws
    let s2 := s1.evrSetTokens idx (s1.evrBurst idx)
    let n := (s2.tbl.filter (fun e => tkeyTid e.1 == 0x0801 && tkeyWord e.1 == 0 && wbit e.2 31)).length
    (s2.setF ⟨0x8080, 0, 11⟩ n, .ok)

end Sys2Proof.Machine
end

