-- ==== Sys2Proof/Machine/Writes.lean ====
section
/-! DEFINITION. Writes at a tick (R43 to R68): the access types, shadow and commit, the page header, soft reset, counters, the command
registers of every page, and the table windows. -/

namespace Sys2Proof.Machine

/-! ## Words by access type (R47) -/

/-- The fields of one access type at `a`, taken from `v`. -/
def accMerge (acc : Acc) (a : Nat) (old v : Word) : Word :=
  (fieldsAt a).foldl (fun w r => if r.acc = acc then wput w r.lo r.wid (wbits v r.lo r.wid) else w) old

/-- What the shadow of the register at `a` holds: its RWS fields, 0 elsewhere. -/
def rwsPart (a : Nat) (v : Word) : Word := accMerge .rws a 0 v

/-- The register has a field of an access type. -/
def hasAcc (acc : Acc) (a : Nat) : Bool := (fieldsAt a).any (fun r => r.acc == acc)

/-- COMMIT_PEND, SHADOW_DIRTY and ERR_CODE of a page. -/
def pgPend (p : Nat) : Fld := bitAt (addrOf p 0x0C) 7
def pgDirty (p : Nat) : Fld := bitAt (addrOf p 0x0C) 6
def pgErr (p : Nat) : Fld := ⟨addrOf p 0x0C, 16, 16⟩

/-- A word for the shadow (R50): held only where it differs from the active value; SHADOW_DIRTY is set. -/
def State.shadowPut (s : State) (a : Nat) (v : Word) : State :=
  let x := rwsPart a v
  let s1 : State := { s with shadow := if x = rwsPart a (s.rd a) then smErase s.shadow a else smInsert s.shadow a x }
  s1.setB (pgDirty (pageOf a)) true

/-- The RW and RWS fields of a written word: RW takes effect, RWS goes to the shadow. -/
def State.plainWrite (s : State) (a : Nat) (v : Word) : State :=
  let s1 := if hasAcc .rw a then s.wr a (accMerge .rw a (s.rd a) v) else s
  if hasAcc .rws a then s1.shadowPut a v else s1

/-! ## Commit (R50 to R52) -/

/-- The channels or records of a table whose shadow holds a change. -/
def State.shadowRecs (s : State) (tid : Nat) : List Nat :=
  ((s.tshadow.filter (fun e => tkeyTid e.1 == tid)).map (fun e => tkeyIdx e.1)).eraseDups

/-- Copies the shadow of page `p` to the active registers and records. -/
def State.shadowApply (s : State) (p : Nat) : State :=
  let s1 := (s.shadow.filter (fun e => pageOf e.1 == p)).foldl (fun a e => a.wr e.1 (accMerge .rws e.1 (a.rd e.1) e.2)) s
  let s2 : State := { s1 with tbl := smOver tblReset s1.tbl (s.tshadow.filter (fun e => tablePage (tkeyTid e.1) == p)) }
  { s2 with shadow := s2.shadow.filter (fun e => pageOf e.1 != p),
            tshadow := s2.tshadow.filter (fun e => tablePage (tkeyTid e.1) != p) }

/-- The shadow of page `p` is discarded and a pending commit cancelled (R51). -/
def State.shadowDrop (s : State) (p : Nat) : State :=
  let s1 : State := { s with shadow := s.shadow.filter (fun e => pageOf e.1 != p),
                             tshadow := s.tshadow.filter (fun e => tablePage (tkeyTid e.1) != p),
                             commitDue := s.commitDue.filter (· != p) }
  (s1.setB (pgPend p) false).setB (pgDirty p) false

/-- The word that the register at `a` would hold after the commit. -/
def State.proposed (s : State) (a : Nat) : Word :=
  match smFind s.shadow a with
  | some v => accMerge .rws a (s.rd a) v
  | none => s.rd a

/-- Why a commit of page `p` applies nothing: its ERR_CODE, 0 where it applies (R252, R253, R280). -/
def State.commitErr (s : State) (p : Nat) : Nat :=
  if p = 0x26 then (if s.privCommitBlocked (s.shadowRecs 0x2600) then 1 else 0)
  else if p = 0x14 ∨ p = 0x15 then
    let w := fun o => s.proposed (addrOf p o)
    let e := s.canCommitErr (p - 0x14) (w 0x40) (w 0x50) (w 0x54) (w 0x58)
    let changed := [0x40, 0x50, 0x54, 0x58].any (fun o => (smFind s.shadow (addrOf p o)).isSome)
    if changed then e else 0
  else 0

/-- The sessions of port `q` on its own or service address close where a commit changes that address (R448). -/
def State.hostRebind (s : State) : State :=
  let hit := fun (a : Nat) => (smFind s.shadow a).isSome
  (List.range 8).foldl (fun a i =>
    let x := s.sess i
    let base := 0xB06C + 0x34 * x.port + (if x.svc then 0x10 else 0)
    let svcOff := x.svc && hit (0xB09C + 0x34 * x.port) && !wbit (s.proposed (0xB09C + 0x34 * x.port)) 8
    if x.st != 0 && ([0, 4, 8, 12].any (fun o => hit (base + o)) || hit 0xB040 || svcOff) then a.closeSess i else a) s

/-- What a page does beside the copy when its commit applies. -/
def State.commitSide (s : State) (p : Nat) : State :=
  if p = 0x18 then s.adcShort (s.shadowRecs 0x1800)
  else if p = 0x0B then s.hostRebind
  else s

/-- A commit of page `p` takes effect, or is rejected as its page states (R52). -/
def State.commitPage (s : State) (p : Nat) : State :=
  let s0 := { s with commitDue := s.commitDue.filter (· != p) }.setB (pgPend p) false
  let e := s.commitErr p
  if e ≠ 0 then
    let s1 := s0.setF (pgErr p) e
    if p = 0x26 then s1 else s1.raiseEv p 8
  else
    let timing := (p == 0x14 || p == 0x15) && [0x50, 0x54, 0x58].any (fun o => (smFind s.shadow (addrOf p o)).isSome)
    let s1 := ((s0.commitSide p).shadowApply p).setB (pgDirty p) false
    let s2 := if timing then s1.canRetimed (p - 0x14) else s1
    let s3 := if p = 0x04 then s2.timeUpgrade else s2
    s3.raiseEv p 29

/-- A timed commit of page `p` is due at this tick (R50, R51, R74): never in an extension frame; at its frame, or at the entry of the
hyperframe that follows skipped frames. -/
def State.commitIsDue (s : State) (p : Nat) : Bool :=
  s.bit (pgPend p) && s.bit (bitAt (addrOf p 0x2C) 15) && !s.inExt
    && (s.frame == s.fld ⟨addrOf p 0x2C, 16, 10⟩ || (s.commitDue.contains p && s.seq.hfStart))

/-- TIMED_COMMIT (R50, R51). -/
def execTimedCommit (page : Nat) (s : State) : Out := .next (s.andShown (if s.commitIsDue page then s.commitPage page else s))

/-! ## Soft reset (R55) -/

/-- The registers of page `p` that hold something, or that the image sets. -/
def State.pageAddrs (s : State) (p : Nat) : List Nat :=
  (((s.regs.filter (fun e => pageOf e.1 == p)).map (·.1)) ++ ((s.cfg.init.filter (fun e => pageOf e.1 == p)).map (·.1))).filter
    (fun a => decide (0x40 ≤ offOf a))

/-- The settings of page `p` return to the image's values: its RW and RWS fields. What a privileged comparator holds stays (R124). -/
def State.imageBack (s : State) (p : Nat) : State :=
  (s.pageAddrs p).foldl (fun a x =>
    if p = 0x05 ∧ s.privComp ((x - 0x5040) / 16) = true then a
    else a.wr x (regMerge x (a.rd x) (smGet regReset s.cfg.init x))) s

/-- What a soft reset does beside R55, page by page; `writer`, the session that wrote it. -/
def State.srstSide (s : State) (p : Nat) (writer : Option Nat) : State :=
  if p = 0x01 then cfgSoftReset s
  else if p = 0x05 then s.lnchSoftReset
  else if p = 0x08 then evrSoftReset s
  else if p = 0x0B then (List.range 8).foldl (fun a i => if writer = some i then a else a.closeSess i) s
  else if p = 0x12 then s.snetSoftReset
  else if p = 0x14 ∨ p = 0x15 then s.canSoftReset (p - 0x14)
  else if p = 0x18 then s.adcSoftReset
  else if p = 0x19 then s.modSoftReset
  else if p = 0x1C then s.dioSoftReset
  else if p = 0x20 then loopSoftReset s
  else if p = 0x21 ∨ p = 0x22 then cpeSoftReset (p - 0x21) s
  else if p = 0x24 then modelSoftReset s
  else if p = 0x25 then optSoftReset s
  else s

/-- The words of table records that are counters of kind S: of nodes (R244) and stations (R277), by page, as table, word and the bits that
are not the counter. -/
def recCtrs (p : Nat) : List (Nat × Nat × Word) :=
  if p = 0x12 then [(0x1203, 1, 0), (0x1203, 2, 0), (0x1203, 3, 0)]
  else if p = 0x14 ∨ p = 0x15 then [(0x1401 + 0x100 * (p - 0x14), 3, 0xFFFF0000)]
  else []

/-- Clears the counters of kind S that stand in the table records of page `p` (R55). -/
def State.recCtrClear (s : State) (p : Nat) : State :=
  (recCtrs p).foldl (fun a c =>
    (a.tbl.filter (fun e => tkeyTid e.1 == c.1 && tkeyWord e.1 == c.2.1)).foldl (fun x e =>
      x.twr c.1 (tkeyIdx e.1) c.2.1 (e.2 &&& c.2.2)) a) s

/-- The soft reset of page `p` (R55): settings, shadow and pending commit, events and their count, counters of kind S and E, those in the
page's table records too, then the page's own. The mask and counters of kind W stay. -/
def State.softReset (s : State) (p : Nat) (writer : Option Nat) : State :=
  let s1 := (s.imageBack p).shadowDrop p
  let s2 := (s1.wr (addrOf p 0x10) 0).wr (addrOf p 0x28) 0
  let s3 := ((ctrsOf p).foldl (fun a c => a.clearCtr c) s2).recCtrClear p
  s3.srstSide p writer

/-! ## The page header (R53 to R59) -/

/-- The event bits of a page that exist: its own, and bits 31 to 29. -/
def evtBits (p : Nat) (v : Word) : List Nat :=
  let n := ((pageInfo p).map (·.nEvt)).getD 0
  (List.range 32).filter (fun b => wbit v b && (decide (b < n) || decide (29 ≤ b)))

/-- PG_CTRL.FREEZE (R54): FROZEN and the tick from which it is held. -/
def State.freeze (s : State) (p : Nat) (on : Bool) : State :=
  let was := s.bit (bitAt (addrOf p 0x0C) 8)
  if on = was then s
  else
    let s1 : State := { s with frzFrom := if on then (p, s.fno) :: s.frzFrom.filter (fun e => e.1 != p)
                               else s.frzFrom.filter (fun e => e.1 != p) }
    s1.setB (bitAt (addrOf p 0x0C) 8) on

/-- PG_EVT_SET, PG_EVT_CLR, PG_MASK_SET and PG_MASK_CLR (R57). -/
def State.evtSet (s : State) (p : Nat) (v : Word) : State := (evtBits p v).foldl (fun a b => a.raiseEv p b) s
def State.evtClr (s : State) (p : Nat) (v : Word) : State := s.wr (addrOf p 0x10) (s.rd (addrOf p 0x10) &&& ~~~ v)
def State.maskSet (s : State) (p : Nat) (v : Word) : State := s.wr (addrOf p 0x1C) (s.rd (addrOf p 0x1C) ||| v)
def State.maskClr (s : State) (p : Nat) (v : Word) : State :=
  let fresh := s.rd (addrOf p 0x10) &&& s.rd (addrOf p 0x1C) &&& v
  ((List.range 32).filter (fun b => wbit fresh b)).foldl (fun a _ => a.signal (0x100 + p))
    (s.wr (addrOf p 0x1C) (s.rd (addrOf p 0x1C) &&& ~~~ v))

/-- PG_COMMIT (R50, R51): DISCARD wins over COMMIT; a commit is pending, at AT_FRAME or, with AT_EN 0, at this very tick, where
`commitNow` finds it. -/
def State.commitWrite (s : State) (p : Nat) (v : Word) : State :=
  let s1 := s.wr (addrOf p 0x2C) (accMerge .rw (addrOf p 0x2C) (s.rd (addrOf p 0x2C)) v)
  if wbit v 1 then s1.shadowDrop p
  else if wbit v 0 then { s1 with commitDue := s1.commitDue.filter (· != p) }.setB (pgPend p) true
  else s1

/-- A written word of a page header. -/
def State.headerWrite (s : State) (p off : Nat) (v : Word) (writer : Option Nat) : State × Status :=
  if off = 0x08 then
    if wbit v 1 && !((pageInfo p).map (·.srst)).getD false then (s, .refused)
    else
      let s1 := (s.plainWrite (addrOf p 8) v).freeze p (wbit v 2)
      (if wbit v 1 then s1.softReset p writer else s1, .ok)
  else if off = 0x14 then (s.evtSet p v, .ok)
  else if off = 0x18 then (s.evtClr p v, .ok)
  else if off = 0x20 then (s.maskSet p v, .ok)
  else if off = 0x24 then (s.maskClr p v, .ok)
  else if off = 0x28 then (if wbit v 31 then s.wr (addrOf p 0x28) 0 else s, .ok)
  else if off = 0x2C then (s.commitWrite p v, .ok)
  else if off = 0x30 then (s.plainWrite (addrOf p 0x30) v, .ok)
  else (s, .ok)

/-! ## Command registers -/

/-- Commands of a word in bit order, each judged and acting at the tick (R546); the first status that is not OK is the write's. -/
def State.cmds (s : State) (v : Word) (l : List (State → State × Status)) : State × Status :=
  (l.zipIdx.filter (fun e => wbit v e.2)).foldl (fun (a : State × Status) e =>
    let r := e.1 a.1
    (r.1, if a.2 = .ok then r.2 else a.2)) (s, .ok)

/-- A command without a condition. -/
def always (f : State → State) : State → State × Status := fun s => (f s, .ok)

/-- The command register at `a`, if one stands there: its commands from bit 0 up. -/
def cmdsAt (a : Nat) (writer : Option Nat) : Option (List (State → State × Status)) :=
  if a = 0x0058 then some [parkCmd, unparkCmd, unparkDiscardCmd]
  else if a = 0x1040 then some [cfgVerifyCmd, cfgSwitchCmd, always cfgCancelCmd, always restartCmd, restartPairCmd]
  else if a = 0x4044 then some [always stepAccept, always relearn, always timeClrCnt]
  else if a = 0x6040 then some [seqVerifyCmd, seqSwitchCmd, always seqCancelCmd]
  else if a = 0x8044 then some [always evrFreeze, always evrUnfreeze, evrClear, always evrClrSupp]
  else if a = 0x9044 then some [keyStageCmd, keyVerifyCmd, keyPromoteCmd, keyCancelCmd, keyRevokeCmd, keyEraseCmd]
  else if a = 0xB044 then some [fun s => kick (writer.getD 8) s]
  else if a = 0xC044 then some [twinJoinCmd, twinSwitchCmd, always twinAbandonCmd]
  else if a = 0x12044 then some [rekeyCmd, nodeAcceptCmd, always nodeResetCmd, always nodeClrCmd]
  else if a = 0x14044 then some [always (sleepCmd 0), always (wakeCmd 0), always (stnResetCmd 0)]
  else if a = 0x15044 then some [always (sleepCmd 1), always (wakeCmd 1), always (stnResetCmd 1)]
  else if a = 0x1A048 then some [always restoreAck]
  else if a = 0x20044 then some [tuneCmd, always tuneAbortCmd, applyPropCmd]
  else if a = 0x21044 then some [cpeVerifyCmd 0, cpeSwitchCmd 0, always (cpeCancelCmd 0), always (clrForces 0)]
  else if a = 0x22044 then some [cpeVerifyCmd 1, cpeSwitchCmd 1, always (cpeCancelCmd 1), always (clrForces 1)]
  else if a = 0x24044 then some [fun s => s.bankVerify modelBank, fun s => s.bankSwitch modelBank, fun s => (s.bankCancel modelBank, .ok),
    always adaptReset, always parcelReset]
  else if a = 0x25044 then some [fun s => s.bankVerify optBank, fun s => s.bankSwitch optBank, fun s => (s.bankCancel optBank, .ok),
    always optFallbackCmd]
  else if a = 0x26044 then some [privArmCmd, always privDisarmCmd, resetTripCmd]
  else if a = 0x30040 then some [always testClrCmd]
  else none

/-- A clear field of a page's counters (R60): each 1 bit clears its counter and flag. -/
def State.ctrClear (s : State) (a : Nat) (v : Word) : State :=
  (ctrsOf (pageOf a)).foldl (fun x c => if c.clr.1 = a && a != 0 && wbit v c.clr.2 then x.clearCtr c else x) s

/-- The bits of `v` clear in the sticky register at `a`. -/
def State.sticky (s : State) (a : Nat) (v : Word) : State := s.wr a (s.rd a &&& ~~~ v)

/-- Clear registers beside the counters: CLK_LOST_SEEN, ADC_OVR, MOD_FAULT, MOD_CLIP, SNET_LAT_OBS, the supply's extremes. -/
def State.clearSide (s : State) (a : Nat) (v : Word) : State :=
  if a = 0x3048 then s.sticky 0x3044 v
  else if a = 0x410C then s.errEst
  else if a = 0x180B4 then s.sticky 0x180B0 v
  else if a = 0x1904C then s.sticky 0x19048 v
  else if a = 0x19054 then s.sticky 0x19050 v
  else if a = 0x120F8 ∧ wbit v 13 = true then s.wr 0x12084 0
  else if a = 0x206C ∧ wbit v 3 = true then (s.wr 0x2048 0).wr 0x204C 0
  else s

/-- Writes of the interrupt controller (R400, R404, R405). -/
def State.icuPage (s : State) (a : Nat) (v : Word) : State × Status :=
  let n := wbits v 0 10
  if a = 0x7044 then icuWrite .doorbell none n s
  else if a = 0x7048 then icuWrite .enSet none n s
  else if a = 0x704C then icuWrite .enClr none n s
  else if a = 0x7050 then icuWrite .maskSet none n s
  else if a = 0x7054 then icuWrite .maskClr none n s
  else if a = 0x7058 then icuWrite .pendSet none n s
  else if a = 0x705C then icuWrite .pendClr none n s
  else if 0x7080 ≤ a ∧ a < 0x7150 ∧ a % 16 = 4 then (icuEoi ((a - 0x7080) / 16) n s, .ok)
  else if 0x7080 ≤ a ∧ a < 0x7150 ∧ a % 16 = 8 then (stackReset ((a - 0x7080) / 16) s, .ok)
  else ((s.plainWrite a v).ctrClear a v |>.icuEval, .ok)

/-- A setting has changed: what its page does at once. -/
def State.wrote (s : State) (a : Nat) (old v : Word) : State :=
  if a = 0x4040 ∧ wbit v 0 = false then s.servoHold
  else if (a = 0x4094 ∨ a = 0x409C) ∧ wbits old 0 2 ≠ wbits v 0 2 then s.ptpStart ((a - 0x4094) / 8)
  else if a = 0x4094 ∨ a = 0x409C then s.ptpDecide ((a - 0x4094) / 8)
  else if a = 0x10040 ∨ a = 0x11040 then (if wbit old 0 && !wbit v 0 then lineDown ((a - 0x10040) / 0x1000) s else s)
  else if a = 0x12078 then (if wbits old 0 16 = wbits v 0 16 then s else s.leadChanged)
  else if a = 0x14040 ∨ a = 0x15040 then
    (let p := (a - 0x14040) / 0x1000
     if wbit v 0 && !wbit old 0 then s.canMod p (fun c => { c with integ := true })
     else if wbits old 0 2 = 1 ∧ wbits v 0 2 ≠ 1 then s.privMove p
     else s)
  else if 0x18048 ≤ a ∧ a < 0x18058 then s.adcChsel ((a - 0x18048) / 4) (wbits v 0 3)
  else if a = 0x1A044 then s.metShort
  else if a = 0x20040 ∧ wbit old 0 = true ∧ wbit v 0 = false then s.tuneAbort 7
  else if a = 0x24040 then
    (let s1 := if wbits old 0 2 ≠ wbits v 0 2 then s.modelEnChanged else s
     if wbit old 2 = wbit v 2 then s1 else s1.arrEnChanged)
  else s

/-- A written word of a block register at its tick; ARM and DISARM of launch comparators act after the commits (R120). -/
def State.blockWrite (s : State) (a : Nat) (v : Word) (writer : Option Nat) : State × Status :=
  match cmdsAt a writer with
  | some l => s.cmds v l
  | none =>
    if pageOf a = 0x07 then s.icuPage a v
    else if 0x5040 ≤ a ∧ a < 0x5440 then
      (if s.privComp ((a - 0x5040) / 16) then (s, .refused)
       else if a % 16 = 8 ∧ wbits v 16 4 = 5 then (s, .range)
       else (s.plainWrite a v, .ok))
    else if (a = 0xB09C ∨ a = 0xB0D0) ∧ wbit v 8 = true ∧ s.cfg.pair = false then (s, .refused)
    else if a = 0x1C054 then (dioDoWrite true v s, .ok)
    else if a = 0x1C058 then (dioDoWrite false v s, .ok)
    else if a = 0x1C064 then (dioOcClr v s, .ok)
    else if 0x20080 ≤ a ∧ a < 0x200A0 then (loopHoldSet ((a - 0x20080) / 4) v s, .ok)
    else if 0x200A0 ≤ a ∧ a < 0x200C0 then (loopHoldClr ((a - 0x200A0) / 4) v s, .ok)
    else if 0x20050 ≤ a ∧ a < 0x20060 ∧ s.bit (bitAt 0x2004C 8) = true then (s, .busy)
    else if 0x26094 ≤ a ∧ a < 0x260A4 ∧ wbit v 0 = true ∧ s.cfg.pair = false then (s, .range)
    else if 0x260C0 ≤ a ∧ a < 0x26140 ∧ hasAcc .rw a = true then (s, .refused)
    else ((((s.plainWrite a v).ctrClear a v).clearSide a v).wrote a (s.rd a) v, .ok)

/-! ## Register operations at a tick -/

/-- The registers that LOCK leaves writable: PG_LOCK, PG_EVT_CLR and the ICU's completion registers (R59). -/
def lockFree (a : Nat) : Bool :=
  offOf a == 0x30 || offOf a == 0x18 || (decide (0x7080 ≤ a ∧ a < 0x7150) && (a % 16 == 4 || a % 16 == 0))

/-- LOCK of a page. -/
def State.locked (s : State) (p : Nat) : Bool := s.bit (bitAt (addrOf p 0x30) 0)

/-- One written word at its tick. -/
def State.wordWrite (s : State) (writer : Option Nat) (a : Nat) (v : Word) : State × Status :=
  if s.locked (pageOf a) && !lockFree a then (s, .refused)
  else if offOf a < 0x40 then s.headerWrite (pageOf a) (offOf a) v writer
  else s.blockWrite a v writer

/-- The words of one operation, in address order; an operation of which one word fails has no effect, and takes the first status in the
order of R49. -/
def State.regsWrite (s : State) (writer : Option Nat) (ws : List (Nat × Word)) : State × Status :=
  let r := ws.foldl (fun (a : State × List Status) e =>
    let q := a.1.wordWrite writer e.1 e.2
    (q.1, q.2 :: a.2)) (s, [])
  match worst r.2 with
  | .ok => (r.1, .ok)
  | st => (s, st)

/-- Commits with AT_EN 0, and timed ones that are due: after every write of the tick (R50), none of a page whose soft reset took effect at
the tick (R51). -/
def State.commitNow (s : State) (resets : List Nat) : State :=
  (pageInfos.map (·.page)).foldl (fun a p =>
    if resets.contains p then a.setB (pgPend p) false
    else if a.bit (pgPend p) && !a.bit (bitAt (addrOf p 0x2C) 15) then a.commitPage p
    else if a.commitIsDue p then a.commitPage p
    else a) s

/-- ARM and DISARM of the words that took effect at the tick: after the commits (R120), DISARM winning in one word, none after a soft reset
of the page (R123). -/
def State.armWords (s : State) (resets : List Nat) (ws : List (Nat × Word)) : State :=
  if resets.contains 0x05 then s
  else ws.foldl (fun a e =>
    if 0x5040 ≤ e.1 ∧ e.1 < 0x5440 ∧ e.1 % 16 = 12 then
      let n := (e.1 - 0x5040) / 16
      if wbit e.2 30 then (disarmCmd n a).1 else if wbit e.2 31 then (armCmd n a).1 else a
    else a) s

/-- The pages whose soft reset is among the words. -/
def resetPages (ws : List (Nat × Word)) : List Nat :=
  (ws.filter (fun e => offOf e.1 == 8 && wbit e.2 1)).map (fun e => pageOf e.1)

/-- The session that writes: the owner. -/
def State.writer (s : State) : Option Nat := s.host.owner

/-- An event raised at the tick at which a PG_EVT_CLR of its bit takes effect wins (R58): its bit is set, and the page signals as for a
bit that was not pending. -/
def State.evtWin (s : State) (p b : Nat) : State :=
  match (s.icu.fresh.filter (fun e => e.1 == p && e.2.1 == b)).getLast? with
  | none => s
  | some e =>
    let s1 := s.setF (bitAt (addrOf p 0x10) b) 1
    let s2 : State := { s1 with icu := { s1.icu with fresh := s1.icu.fresh.map (fun x =>
      if x.1 = p ∧ x.2.1 = b then (p, b, false) else x) } }
    if e.2.2 && !s2.bit (bitAt (addrOf p 0x1C) b) then s2.signal (0x100 + p) else s2

/-- The events that win over the PG_EVT_CLR words among `ws`. -/
def State.evtWins (s : State) (ws : List (Nat × Word)) : State :=
  (ws.filter (fun e => offOf e.1 == 0x18)).foldl (fun a e =>
    ((List.range 32).filter (fun b => wbit e.2 b)).foldl (fun x b => x.evtWin (pageOf e.1) b) a) s

/-- Words that take effect at a tick of their own: checked as on receipt, written, committed, armed. Timed commits of other pages wait for
their ticks. -/
def State.writeNow (s : State) (ws : List (Nat × Word)) : State :=
  if worst (ws.map (fun e => valueStatus e.1 e.2)) != .ok then s
  else
    let r := s.regsWrite s.writer ws
    if r.2 != .ok then s
    else
      let pages := ((ws.filter (fun e => offOf e.1 == 0x2C)).map (fun e => pageOf e.1)).eraseDups
      let s1 := pages.foldl (fun a p =>
        if a.bit (pgPend p) && !a.bit (bitAt (addrOf p 0x2C) 15) then a.commitPage p else a) (r.1.evtWins ws)
      s1.armWords [] ws

/-- REGISTER_WRITE (R47, R48): a written word takes effect by its access type. -/
def execRegisterWrite (addr : Nat) (v : Word) (s : State) : Out := .next (s.writeNow [(addr, v)])

/-- A page that R44 lists. -/
def pageOk (p : Nat) : Bool := (pageInfo p).isSome

/-- SRST (R55): REFUSED on a page without soft reset. -/
def execSrst (page : Nat) (s : State) : Out :=
  .next (s.writeNow [(addrOf page 0x08, wput (s.rd (addrOf page 0x08)) 1 1 1)])

/-- FREEZE (R54). -/
def execFreeze (page : Nat) (on : Bool) (s : State) : Out :=
  .next (s.writeNow [(addrOf page 0x08, wput (wput (s.rd (addrOf page 0x08)) 2 1 (b2n on)) 1 1 0)])

/-- FRZ_TMO (R54): a FREEZE held for 1,000 frames is cleared. -/
def execFrzTmo (page : Nat) (s : State) : Out :=
  .next <|
    match s.frzFrom.lookup page with
    | some f =>
      if 1000 ≤ s.since f ∧ pageOk page = true then
        ((s.setB (bitAt (addrOf page 0x08) 2) false).freeze page false).raiseEv page 30
      else s
    | none => s

/-- COMMIT (R50): the written word with COMMIT set. DISCARD (R51). -/
def execCommit (page : Nat) (v : Word) (s : State) : Out := .next (s.writeNow [(addrOf page 0x2C, wput (wput v 0 1 1) 1 1 0)])
def execDiscard (page : Nat) (s : State) : Out :=
  .next (s.writeNow [(addrOf page 0x2C, wput (s.rd (addrOf page 0x2C)) 0 2 2)])

/-- PG_EVT_SET, PG_EVT_CLR, PG_MASK_SET and PG_MASK_CLR (R57, R58). -/
def execPgEvtSet (page : Nat) (v : Word) (s : State) : Out := .next (s.writeNow [(addrOf page 0x14, v)])
def execPgEvtClr (page : Nat) (v : Word) (s : State) : Out := .next (s.writeNow [(addrOf page 0x18, v)])
def execPgMaskSet (page : Nat) (v : Word) (s : State) : Out := .next (s.writeNow [(addrOf page 0x20, v)])
def execPgMaskClr (page : Nat) (v : Word) (s : State) : Out := .next (s.writeNow [(addrOf page 0x24, v)])

/-- The address is a clear field of a counter, or PG_EVT_CNT. -/
def clearReg (a : Nat) : Bool := offOf a == 0x28 || (ctrsOf (pageOf a)).any (fun c => c.clr.1 == a && a != 0)

/-- COUNTER_CLEAR (R60). -/
def execCounterClear (addr : Nat) (v : Word) (s : State) : Out := .next (if clearReg addr then s.writeNow [(addr, v)] else s)

/-! ## Table writes at a tick (R65 to R67) -/

/-- The words of a channel descriptor without the bits of word 3 that its class does not use, which are reserved (R46, R280): LIMIT of an ADC
reflex channel, TRIP of a reflex channel, KINDS of class 2. -/
def privWords (ws : List Word) : List Word :=
  let cls := wbits (ws.getD 0 0) 29 2
  let m : Word := if cls = 0 then (if wbits (ws.getD 2 0) 30 2 = 0 then 0xF else 0xFFFF) else if cls = 2 then 0xFF else 0
  setAt ws 3 (ws.getD 3 0 &&& m)

/-- A record of RWS fields goes to the shadow of its page. -/
def State.recordShadow (s : State) (t : TableInfo) (idx : Nat) (ws : List Word) : State :=
  let s1 := (List.range ws.length).foldl (fun a w =>
    let act := a.trd t.tid idx w
    let x := t.merge w act (ws.getD w 0)
    let k := tkey t.tid idx w
    { a with tshadow := if x = act then smErase a.tshadow k else smInsert a.tshadow k x }) s
  s1.setB (pgDirty (tablePage t.tid)) true

/-- A record that changes a defined credential closes the sessions opened with it (R424). -/
def State.credWrite (s : State) (t : TableInfo) (idx : Nat) (ws : List Word) : State :=
  let s1 := s.writeRecord t idx ws
  if s.tfld 0x0B00 idx 0 31 1 = 1 ∧ s1.trec 0x0B00 idx 4 ≠ s.trec 0x0B00 idx 4 then
    (List.range 8).foldl (fun a i => if (s.sess i).st != 0 && (s.sess i).cred == idx then a.closeSess i else a) s1
  else s1

/-- A TABLE_WRITE takes effect, by its table. -/
def State.tableWrite (s : State) (t : TableInfo) (idx : Nat) (ws : List Word) : State × Status :=
  let tid := t.tid
  if s.locked (tablePage tid) then (s, .refused)
  else if tid = 0x0100 then (if idx < 2 ^ 23 then (s, .refused) else ((s.writeRecord t idx ws).cfgWritten, .ok))
  else if tablePage tid = 0x06 then (if idx < 2 ^ 23 then (s, .refused) else ((s.writeRecord t idx ws).seqWritten, .ok))
  else if tid = 0x0700 then icuTableWrite idx (ws.getD 0 0) s
  else if tid = 0x0801 then evrTableWrite idx ws s
  else if tid = 0x0B00 then (s.credWrite t idx ws, .ok)
  else if tid = 0x1200 then
    let old := s.trec 0x1200 idx 8
    ((s.writeRecord t idx ws).nodeTableWrite idx old, .ok)
  else if tid = 0x1400 ∨ tid = 0x1500 then
    let p := (tid - 0x1400) / 0x100
    if s.canObjOk p ws then ((s.writeRecord t idx ws).canObjWritten p idx, .ok) else (s, .range)
  else if tid = 0x1401 ∨ tid = 0x1501 then
    let p := (tid - 0x1400) / 0x100
    if s.canStnOk p idx ws then ((s.writeRecord t idx ws).stnInit p idx, .ok) else (s, .range)
  else if tid = 0x1800 ∨ tid = 0x1900 then (s.recordShadow t idx ws, .ok)
  else if tid = 0x2600 then (if s.privRecordOk idx ws then (s.recordShadow t idx (privWords ws), .ok) else (s, .range))
  else if tid = 0x2001 then (if s.groupRecOk idx ws then (s.groupWrite idx ws, .ok) else (s, .range))
  else if tid = 0x2100 then cpeBankWrite 0 idx ws s
  else if tid = 0x2200 then cpeBankWrite 1 idx ws s
  else if tid = 0x2102 then (forceWrite 0 idx ws s, .ok)
  else if tid = 0x2202 then (forceWrite 1 idx ws s, .ok)
  else if tablePage tid = 0x24 then modelTableWrite tid idx ws s
  else if tablePage tid = 0x25 then optTableWrite tid idx ws s
  else (s.writeRecord t idx ws, .ok)

/-! ## The queue of a tick (R47) -/

/-- What the queue of writes leaves: the state, the register words that took effect, and the loop records of which words are still to come
(R360). -/
abbrev QueueOut := State × List (Nat × Word) × List HReq

/-- One request of the queue at its tick. A loop record is checked whole, and one of its words takes effect at each tick. A record of a
table that an engine serves by its transfers is judged and waits for the transfer; it takes effect at the tick after that (R47, R140). -/
def queueOne (acc : QueueOut) (q : HReq) : QueueOut :=
  let s := acc.1
  match q.op with
  | .regs op ws =>
    let r := s.regsWrite (some q.ses) ws
    ((if r.2 = .ok then r.1.evtWins ws else r.1).respondTo q op r.2 [], if r.2 = .ok then acc.2.1 ++ ws else acc.2.1, acc.2.2)
  | .table tid idx ws split =>
    match tableInfo tid with
    | none => acc
    | some t =>
      if tid = 0x2000 then
        if split = 0 && s.locked 0x20 then (s.respondTo q 6 .refused [], acc.2)
        else if split = 0 && !s.loopRecOk idx ws then (s.respondTo q 6 .range [], acc.2)
        else
          let s1 := s.loopWordWrite idx split (ws.getD split 0)
          if split = 13 then (s1.respondTo q 6 .ok [], acc.2)
          else (s1, acc.2.1, acc.2.2 ++ [{ q with op := .table tid idx ws (split + 1) }])
      else if t.byXfer && split == 0 then
        if s.locked (tablePage tid) || decide (idx < 2 ^ 23) then (s.respondTo q 6 .refused [], acc.2)
        else if !s.xferOpen tid || s.xferFull tid then (s.respondTo q 6 .busy [], acc.2)
        else (s.hostMod (fun h => { h with xferQ := h.xferQ ++ [q] }), acc.2)
      else
        let r := s.tableWrite t idx ws
        (r.1.respondTo q 6 r.2 [], acc.2)
  | _ => acc

/-- The writes that take effect at a tick, in the order of receipt; then the commits, then ARM and DISARM. -/
def State.queueTick (s : State) : State :=
  let q := s.host.queue
  let r := q.foldl queueOne (s.hostMod (fun h => { h with queue := [] }), [], [])
  let s1 := r.1.hostMod (fun h => { h with queue := r.2.2 ++ h.queue })
  let resets := resetPages r.2.1
  (s1.commitNow resets).armWords resets r.2.1

end Sys2Proof.Machine
end

