-- ==== Sys2Proof/Machine/Frame.lean ====
section
/-! DEFINITION. The frame tick (R69): where it falls (R73 to R75), the writes and commands that act at it (R47, R430), the swap of the
mailboxes (R29, R30), and what each block does and shows at a tick. -/

namespace Sys2Proof.Machine

/-! ## Where a tick falls (R69, R73, R74) -/

/-- The frame that a tick starts: its second and number, whether it is an extension frame, whether it enters a hyperframe, and the
frames that are skipped before it, as (first, count). -/
structure TickAt where
  sec : Nat
  frame : Nat
  ext : Bool
  newHf : Bool
  skips : List (Nat × Nat)
deriving DecidableEq, Repr

/-- Second and frame number of a clock value in ns. -/
def clockSec (c : Int) : Nat := (Int.fdiv c 1000000000 % 2 ^ 48).toNat
def clockFrame (c : Int) : Nat := (Int.fmod c 1000000000 / 1000000).toNat

/-- R73: the tick at clock `c`, when `last` is the highest frame that hyperframe `hf` has run. -/
def tickAt (hf last : Nat) (c : Int) : TickAt :=
  let s := clockSec c
  let m := clockFrame c
  if s = hf then
    if last < m then { sec := s, frame := m, ext := false, newHf := false, skips := [(last + 1, m - (last + 1))] }
    else { sec := s, frame := m, ext := true, newHf := false, skips := [] }
  else { sec := s, frame := m, ext := false, newHf := true, skips := [(last + 1, 999 - last), (0, m)] }

/-- What the tick to come does to the running hyperframe: truncates it, extends it (R73). -/
def adjusts (hf last : Nat) (c : Int) : Bool × Bool :=
  let t := tickAt hf last c
  (if t.newHf then decide (last < 999) else decide (!t.ext && last + 1 < t.frame), t.ext)

/-- The coming tick of the module's own sequencer. A step that is applied at the tick has set the clock already; the frame is the one of
the old clock. -/
def State.comingTick (s : State) : TickAt :=
  let c := s.time.stepAt.getD s.nextTick
  if s.seq.started then tickAt s.seq.hfSec s.seq.lastRun c
  else { sec := clockSec c, frame := clockFrame c, ext := false, newHf := true, skips := [] }

/-! ## The sequencer at the tick -/

/-- HYPERFRAME_END (R75). -/
def State.hfEnd (s : State) (q : SeqSt) : State :=
  let s1 := s.wr 0x6050 (BitVec.ofNat 32 (q.entry * 2 ^ 20 + b2n q.ext * 2 ^ 17 + b2n q.trunc * 2 ^ 16 + q.frames % 2 ^ 11))
  let s2 := if q.trunc then (s1.bump .SEQ_HF_TRUNC).raiseEv 6 5 else s1
  if q.ext then (s2.bump .SEQ_HF_EXT).raiseEv 6 6 else s2

/-- The overruns of the frame that ends (R96): `t`, its frame table, and `f`, its FRAME_NO. -/
def State.overruns (s : State) (l : List (Nat × Nat)) (t f : Nat) : State :=
  l.foldl (fun a e =>
    ((((a.bump (.SEQ_OVR e.1)).wr 0x605C (BitVec.ofNat 32 (e.2 * 2 ^ 12 + t * 2 ^ 8 + e.1))).wr 0x6060 (BitVec.ofNat 32 f)).raiseEv
      6 0)) s

/-- The frame that ends has been longer than 1 ms where a step fell on its tick (R73). -/
def State.longFrame (s : State) : State :=
  if s.seq.started then { s with met := { s.met with longNs := s.met.longNs + (s.nextTick - s.clockNs - 1000000).toNat } } else s

/-- The clock takes the value of the tick; where a step has set it already, metering learns of it (R337). -/
def State.tickClock (s : State) : State :=
  match s.time.stepAt with
  | some t => (s.timeMod (fun q => { q with stepAt := none })).metStep t s.clockNs
  | none => s.longFrame.setClock s.nextTick

/-- SEQ_FRAME (R99). -/
def State.seqFrame (s : State) (p : TickAt) : State :=
  let t := s.tfld 0x0608 (if p.ext then 1000 else p.frame) 0 0 3
  s.wr 0x6048 (BitVec.ofNat 32 (b2n s.seq.ext * 2 ^ 17 + b2n s.seq.trunc * 2 ^ 16 + t * 2 ^ 12 + b2n p.ext * 2 ^ 10 + p.frame))

/-- The sequencer starts the frame of a tick (R69 to R75, R96). -/
def State.frameBegin (s : State) (p : TickAt) : State :=
  let q := s.seq
  let first := !q.started
  let table := s.fld ⟨0x6048, 12, 3⟩
  let fno := s.fno
  let s1 := (if first then s else s.bump .SEQ_FRAME_NO).tickClock
  let last := if p.ext then q.lastRun else p.frame
  let s2 := s1.seqMod (fun q => { q with
    started := true, lastRun := last, hfStart := p.newHf, hfSec := if p.newHf then p.sec else q.hfSec,
    frames := if p.newHf then 1 else q.frames + 1, entry := if p.newHf then p.frame else q.entry, ended := false, skip := [], ovr := [], pos := 0 })
  let a := adjusts s2.seq.hfSec last s2.nextTick
  let s3 := s2.seqMod (fun x => { x with
    trunc := a.1 || (if p.newHf then !first && decide (0 < p.frame) else q.trunc), ext := a.2 || (!p.newHf && q.ext) })
  let s4 := s3.seqFrame p
  let s5 := if p.ext then s4.bump .SEQ_EXT_FRAMES else s4
  let s6 := if p.newHf && !first then s5.hfEnd q else s5
  s6.overruns q.ovr table fno

/-! ## Time at the tick -/

/-- The timebase at a tick: y of the minute that runs (R114), the trim (R527), the 1PPS output (R112), and a standby module's quality without
TWIN (R118). -/
def State.timeTick (s : State) : State :=
  let y := s.rd 0x4064
  let up := s.bit (bitAt 0x4040 2) && s.fld timeQuality != 0
    && decide (s.ownNs < s.fld ⟨0x4090, 16, 16⟩ * 10000)
  ((s.timeMod (fun t => { t with minSum := t.minSum + sint y, ppsOut := up })).wr 0x3050 y).standbyHold

/-! ## Commands at the tick (R430 to R433) -/

/-- A CANCEL. -/
def HCmd.cancels (c : HCmd) : Bool := c.code == 0x0B00

/-- The two are commands of one session opening. -/
def HCmd.sameSes (c d : HCmd) : Bool := c.ses == d.ses && c.gen == d.gen

/-- TAG in the argument of a command. -/
def HCmd.tagArg (c : HCmd) : Nat := (c.args.getD 0 0).toNat

/-- The commands that CANCELs of this tick stop before they act: the later command wins (R433). -/
def stopped (l : List HCmd) : List HCmd :=
  l.reverse.foldl (fun acc c =>
    if c.cancels && !c.acted && !acc.contains c then
      match l.find? (fun d => c.sameSes d && d.tag == c.tagArg && d.tag != c.tag && !d.acted) with
      | some d => if acc.contains d then acc else d :: acc
      | none => acc
    else acc) []

/-- A tag that the session has used and that is still known: a command outstanding, a completion record not yet read, or a SOLVE that has
ended. -/
def State.tagKnown (s : State) (c : HCmd) (tag : Nat) : Bool :=
  s.host.cmds.any (fun d => c.sameSes d && d.tag == tag)
    || (s.sess c.ses).cq.any (fun r => r.getD 0 0 == BitVec.ofNat 32 tag)
    || s.opt.ended.contains (c.ses, c.gen, tag)

/-- One command acts (R432, R433); on a standby module one of sessions 6 and 7 completes REFUSED (R447). -/
def State.actCmd (s : State) (dead : List HCmd) (c : HCmd) : State :=
  let s1 := s.hostMod (fun h => { h with cmds := h.cmds.map (fun d =>
    if d.ses = c.ses ∧ d.gen = c.gen ∧ d.tag = c.tag then { d with acted := true } else d) })
  if s1.mstate = 3 ∧ 6 ≤ c.ses then (if c.code = 0x2600 then s1.actPrivReq c else s1.complete c .refused 0)
  else if dead.contains c then s1.complete c .refused 0xFFFFFFFF
  else if c.cancels then
    if dead.any (fun d => c.sameSes d && d.tag == c.tagArg) then s1.complete c .ok 0
    else if s1.tagKnown c c.tagArg then s1.complete c .tooLate 0
    else s1.complete c .range 0
  else if c.code = 0x2500 then s1.actSolve c
  else if c.code = 0x2501 then s1.actAbort c
  else s1.actPrivReq c

/-- The commands accepted since the last tick act, in the order accepted (R430). -/
def State.hostCmds (s : State) : State :=
  let new := s.host.cmds.filter (fun c => !c.acted)
  new.foldl (fun a c => a.actCmd (stopped s.host.cmds) c) s

/-! ## The exchange area at the tick (R29, R30) -/

/-- A mailbox at a tick: closed, it swaps, and what was written after the close goes into the new back buffer; not closed, it keeps its
front buffer and is STALE. -/
def Mbx.tick (m : Mbx) : Mbx :=
  if m.closed then
    m.late.foldl (fun x e => x.put e.1 e.2.1 e.2.2)
      { m with front := m.back, back := m.front, closed := false, swapped := true, stale := false, late := [] }
  else { m with swapped := false, stale := true }

/-- MAILBOX_SWAP and XCH_NOSWAP. The plan slice mailbox, where a plan is published or shifts at this tick, swaps with it (R37, R188) and is
not counted. -/
def State.swapAll (s : State) : State :=
  let late := s.mbx.filter (fun m => !m.closed && !(s.sliceDue && m.num == s.roleMbx 5))
  let s1 : State := { s with mbx := s.mbx.map Mbx.tick }
  match late.getLast? with
  | none => s1
  | some m => ((s1.bumpN .HLTH_XCH_NOSWAP late.length).setF ⟨0x30058, 0, 12⟩ m.num).raiseEv 0x30 2

/-! ## The engines at the tick -/

/-- Pages whose pending timed commit names a frame that was skipped (R51). -/
def State.commitSkips (s : State) (skips : List (Nat × Nat)) : State :=
  let due := (List.range 64).filter (fun p =>
    let f := s.fld ⟨addrOf p 0x2C, 16, 10⟩
    s.bit (pgPend p) && s.bit (bitAt (addrOf p 0x2C) 15) && skips.any (fun e => decide (e.1 ≤ f ∧ f < e.1 + e.2)))
  { s with commitDue := s.commitDue ++ due.filter (fun p => !s.commitDue.contains p) }

/-- What lasts for one hyperframe begins anew. -/
def State.hfNew (s : State) : State :=
  (s.hostMod (fun h => { h with authRaised := false })).modelMod (fun m => { m with fullHf := false })

/-- The host's writes and commands, which E11 applies (R47, R430): not while its clock is stopped (R532). -/
def State.hostTick (s : State) : State := if s.shed then s else ((s.queueTick).commandedSolve).hostCmds

/-- Every engine at the tick that starts frame `p`; `first`, no frame has run before it. -/
def State.engineTick (s : State) (p : TickAt) (first : Bool) (m : Meas) : State :=
  let s0 := s.seqMod (fun q => { q with hfStart := p.newHf })
  let s1 := (if p.newHf then s0.hfNew else s0).commitSkips p.skips
  let s2 := if first then s1.hostTick else (s1.metFrameEnd).hostTick.swapAll
  let s3 := ((s2.adcTick p.skips).metTick p.skips).dioTick m.aoutUa m.rbDiff
  let s4 := (s3.snetTick (!p.ext && (p.frame % 100 == 0 || skipsWin 100 p.skips)) p.newHf).nodeCounts
  let cyc := !p.ext && (p.frame % 10 == 0 || skipsWin 10 p.skips)
  let c4 := if cyc then (s4.canCycle 0).canCycle 1 else s4
  let s5 := ((((c4.boffShow 0).canTick 0).boffShow 1).canTick 1).loopTick
  (((s5.cpesTick p.skips).privTick).ageReg).promTick p.skips

/-- The frame that a standby module executes in the frame that begins, after the one with the record `prev` (R459). Its hyperframes are
those of the records. -/
def State.recTickAt (s : State) (prev : Option RecHdr) (r : RecHdr) : TickAt :=
  match prev with
  | some x =>
    let t := tickAt s.twin.execSec s.twin.execLast (ceilMs ((x.sec : Int) * 1000000000 + x.ns + 1000000))
    { t with frame := r.frame, ext := r.ext, newHf := t.newHf && !r.ext }
  | none =>
    { sec := r.sec, frame := r.frame, ext := r.ext, newHf := !r.ext && (r.frame == 0 || decide (r.frame ≤ s.twin.execLast)), skips := [] }

/-- The engines of a standby module run on its record, and wait without one (R459, R461); others run on the tick itself. -/
def State.enginesAt (s : State) (prev : Option RecHdr) (p : TickAt) (first : Bool) (m : Meas) : State :=
  if s.mstate = 3 then
    match s.twin.run with
    | none => s.seqMod (fun q => { q with hfStart := false })
    | some r =>
      let t := s.recTickAt prev r
      let s1 := (s.privMod (fun q => { q with due := r.priv })).twinMod (fun x => { x with
        execSec := if t.newHf ∨ prev = none then t.sec else x.execSec, execLast := if t.ext then x.execLast else t.frame })
      s1.engineTick t false m
  else s.engineTick p first m

/-! ## What the module shows at a tick -/

/-- The LED of a port of the network: lit with the link up or an SFP fault; ports 0 A, 1 B, 2 H1, 3 H2. -/
def State.ledNet (s : State) (p : Nat) : Bool :=
  s.lineUp p || (decide (p < 2) && (s.bit ((bitAt 0x10044 2).shift p) || s.bit ((bitAt 0x10044 3).shift p)))

/-- The LED of a plant bus: dark with the port off or asleep. -/
def State.ledBus (s : State) (p : Nat) : Bool := s.canMode p != 0 && s.canMode p != 5

/-- DEV_LED (R538). What flashes is lit or not as its phase has it. -/
def State.led (s : State) : State :=
  let m := s.mstate
  let free := Config.ledLit s.free
  let role := if !s.cfg.pair || m == 0 then false
    else if m == 4 || m == 3 then true
    else free / 2 % 2 == 1
  let l : List Bool := [s.inRun || free % 2 == 1, role, s.bit (bitAt 0x0054 8), s.fld timeQuality != 0, m == 2 || s.tampered,
    m == 1 || m == 6, s.ledNet 0, s.ledNet 1, s.ledBus 0, s.ledBus 1, s.ledNet 2, s.ledNet 3]
  (s.useFree).setF ⟨0x00A8, 0, 12⟩ (maskOf 12 (fun i => l.getD i false))

/-- Temperatures, the supply, what ports A and B have seen, the tamper monitor's clock and the key store's summaries. -/
def State.moduleTick (s : State) (m : Meas) : State :=
  let s1 := ((s.wr 0x304C m.tcxoTemp).wr 0x30084 m.boardTemp).supplyTick m.vin m.ballast m.power
  (((((s1.portsTick m.ports).tampShow m.tamper).aonTick).keyRegs.hostRegs).modelWin).led

/-- The snapshots of the events raised before this tick (R413), read after the tick's registers are shown. -/
def State.snapsOf (s : State) (old : List Intake) : State :=
  { s with evr := { s.evr with intake := s.evr.intake.map (fun e =>
      if e.snap.isNone && old.contains e then { e with snap := some (s.snapWords e.codeRec) } else e) } }

/-! ## FRAME_TICK -/

/-- The module ticks: its timebase has run since step 7 of its start-up (R516), and its power-fail sequence has not ended. -/
def State.ticks (s : State) : Bool := decide (7 ≤ s.bootStep) && !s.pwr.done

/-- The tick of a module that does not restart at it. -/
def State.tick (s : State) (m : Meas) : State :=
  let p := s.comingTick
  let first := !s.seq.started
  let old := s.evr.intake.filter (fun e => e.snap.isNone)
  let prev := s.twin.run
  let s0 := m.viol.foldl (fun a e => if e.1 < 12 then a.fwViol e.1 e.2 else a) ({ s with sent := [] }.tickNotes)
  let s1 := ((s0.digestTick).recTick).tamperAct
  let s2 := (((s1.controlAct).splitAct).frameBegin p).frameHi first
  let s3 := ((s2.timeTick).recNext).enginesAt prev p first m
  let s4 := ((s3.readbackTest m.drivers m.lineDiff).plausTick m.plaus).moduleTick m
  let s5 := s4.twinRegs
  let s6 := (if s5.shed then s5 else s5.hbSend).hbTick
  let s7 := (s6.shown).snapsOf old
  let s8 := s7.signal 0x001
  if s8.seq.hfStart then s8.signal 0x002 else s8

/-- FRAME_TICK (R69): the tick that starts a frame, with what is measured at it. A restart due at this tick comes in its place (R523). -/
def execFrameTick (m : Meas) (s : State) : Out :=
  .next <|
    if !s.ticks then s
    else if s.dev.restartNext then s.restartNow 1
    else s.tick m

end Sys2Proof.Machine
end

