-- ==== Sys2Proof/Machine/Dispatch.lean ====
section
/-! DEFINITION. One arm per command of the table: the meaning it has. -/

namespace Sys2Proof.Machine

/-- The effect of a command on everything but the queue. -/
def exec (i : Instr) (s : State) : Host.Outcome State Fault Refusal :=
  match i with
  | .frameTick m => Sys2Proof.Machine.execFrameTick m s
  | .nop unit => Sys2Proof.Machine.execNop unit s
  | .endEntry => Sys2Proof.Machine.execEndEntry s
  | .publish mb copy => Sys2Proof.Machine.execPublish mb copy s
  | .snap code => Sys2Proof.Machine.execSnap code s
  | .launchArm arg ns => Sys2Proof.Machine.execLaunchArm arg ns s
  | .adcSel conv arg ns => Sys2Proof.Machine.execAdcSel conv arg ns s
  | .adcTrig arg ns => Sys2Proof.Machine.execAdcTrig arg ns s
  | .modLatch arg samples invalid => Sys2Proof.Machine.execModLatch arg samples invalid s
  | .emetClose arg => Sys2Proof.Machine.execEmetClose arg s
  | .hmetClose arg ns => Sys2Proof.Machine.execHmetClose arg ns s
  | .loopGroup arg => Sys2Proof.Machine.execLoopGroup arg s
  | .cpeTask unit arg runs => Sys2Proof.Machine.execCpeTask unit arg runs s
  | .modelHyd arg => Sys2Proof.Machine.execModelHyd arg s
  | .modelThm arg => Sys2Proof.Machine.execModelThm arg s
  | .modelArr arg => Sys2Proof.Machine.execModelArr arg s
  | .arrPartStale part => Sys2Proof.Machine.execArrPartStale part s
  | .leakDetect c => Sys2Proof.Machine.execLeakDetect c s
  | .gspTx arg ns => Sys2Proof.Machine.execGspTx arg ns s
  | .gspRxclose arg ns => Sys2Proof.Machine.execGspRxclose arg ns s
  | .nodeSilent n => Sys2Proof.Machine.execNodeSilent n s
  | .nodeLost n => Sys2Proof.Machine.execNodeLost n s
  | .canRef arg => Sys2Proof.Machine.execCanRef arg s
  | .stnDrop port stn => Sys2Proof.Machine.execStnDrop port stn s
  | .canTx arg => Sys2Proof.Machine.execCanTx arg s
  | .twinRec len => Sys2Proof.Machine.execTwinRec len s
  | .entryDeadline unit entry acked => Sys2Proof.Machine.execEntryDeadline unit entry acked s
  | .engineLost e => Sys2Proof.Machine.execEngineLost e s
  | .timedCommit page => Sys2Proof.Machine.execTimedCommit page s
  | .seqBankSwitch => Sys2Proof.Machine.execSeqBankSwitch s
  | .modelBankSwitch => Sys2Proof.Machine.execModelBankSwitch s
  | .optBankSwitch => Sys2Proof.Machine.execOptBankSwitch s
  | .cpeBankSwitch p => Sys2Proof.Machine.execCpeBankSwitch p s
  | .kwpOpen o => Sys2Proof.Machine.execKwpOpen o s
  | .sessionOpeningTimeout ses => Sys2Proof.Machine.execSessionOpeningTimeout ses s
  | .sessionIdleTimeout ses => Sys2Proof.Machine.execSessionIdleTimeout ses s
  | .dormancyTimeout ses => Sys2Proof.Machine.execDormancyTimeout ses s
  | .read k addr => Sys2Proof.Machine.execRead k addr s
  | .write k addr v => Sys2Proof.Machine.execWrite k addr v s
  | .readBlock k addr cnt => Sys2Proof.Machine.execReadBlock k addr cnt s
  | .writeBlock k addr ws => Sys2Proof.Machine.execWriteBlock k addr ws s
  | .tableRead k tid cnt idx => Sys2Proof.Machine.execTableRead k tid cnt idx s
  | .tableWrite k tid idx ws => Sys2Proof.Machine.execTableWrite k tid idx ws s
  | .cancel k tag args => Sys2Proof.Machine.execCancel k tag args s
  | .solve k tag args => Sys2Proof.Machine.execSolve k tag args s
  | .abort k tag args => Sys2Proof.Machine.execAbort k tag args s
  | .privReq k tag args => Sys2Proof.Machine.execPrivReq k tag args s
  | .cqRead k maxN => Sys2Proof.Machine.execCqRead k maxN s
  | .notifyCfg k cnt dly mask us => Sys2Proof.Machine.execNotifyCfg k cnt dly mask us s
  | .ownReq k prio ovr => Sys2Proof.Machine.execOwnReq k prio ovr s
  | .ownershipResolve => Sys2Proof.Machine.execOwnershipResolve s
  | .ownRenew k => Sys2Proof.Machine.execOwnRenew k s
  | .ownHandover k dst => Sys2Proof.Machine.execOwnHandover k dst s
  | .ownRelease k => Sys2Proof.Machine.execOwnRelease k s
  | .leaseLapsed => Sys2Proof.Machine.execLeaseLapsed s
  | .dormant k sev mac => Sys2Proof.Machine.execDormant k sev mac s
  | .resume k us => Sys2Proof.Machine.execResume k us s
  | .closeReq k => Sys2Proof.Machine.execCloseReq k s
  | .notifySend ses us => Sys2Proof.Machine.execNotifySend ses us s
  | .wakeOnLan ses => Sys2Proof.Machine.execWakeOnLan ses s
  | .kick writer => Sys2Proof.Machine.execKick writer s
  | .registerWrite addr v => Sys2Proof.Machine.execRegisterWrite addr v s
  | .srst page => Sys2Proof.Machine.execSrst page s
  | .freeze page on => Sys2Proof.Machine.execFreeze page on s
  | .frzTmo page => Sys2Proof.Machine.execFrzTmo page s
  | .commit page v => Sys2Proof.Machine.execCommit page v s
  | .discard page => Sys2Proof.Machine.execDiscard page s
  | .pgEvtSet page v => Sys2Proof.Machine.execPgEvtSet page v s
  | .pgEvtClr page v => Sys2Proof.Machine.execPgEvtClr page v s
  | .pgMaskSet page v => Sys2Proof.Machine.execPgMaskSet page v s
  | .pgMaskClr page v => Sys2Proof.Machine.execPgMaskClr page v s
  | .counterClear addr v => Sys2Proof.Machine.execCounterClear addr v s
  | .seqVerify => Sys2Proof.Machine.execSeqVerify s
  | .seqVerifyEnd => Sys2Proof.Machine.execSeqVerifyEnd s
  | .seqSwitch => Sys2Proof.Machine.execSeqSwitch s
  | .seqCancel => Sys2Proof.Machine.execSeqCancel s
  | .ptpSyncRx port domain master rx => Sys2Proof.Machine.execPtpSyncRx port domain master rx s
  | .ptpAnnounceRx port domain cls gmLo gmHi bmca => Sys2Proof.Machine.execPtpAnnounceRx port domain cls gmLo gmHi bmca s
  | .ptpPdelayExchange port domain t1 t2 t3 t4 => Sys2Proof.Machine.execPtpPdelayExchange port domain t1 t2 t3 t4 s
  | .ppsEdge edge => Sys2Proof.Machine.execPpsEdge edge s
  | .todSentenceRx utc crcOk => Sys2Proof.Machine.execTodSentenceRx utc crcOk s
  | .sourceInvalid => Sys2Proof.Machine.execSourceInvalid s
  | .sourceUpgrade => Sys2Proof.Machine.execSourceUpgrade s
  | .initSet => Sys2Proof.Machine.execInitSet s
  | .stepAccept => Sys2Proof.Machine.execStepAccept s
  | .stepApplied => Sys2Proof.Machine.execStepApplied s
  | .relearn => Sys2Proof.Machine.execRelearn s
  | .clrCnt => Sys2Proof.Machine.execClrCnt s
  | .learnMinute tempOk => Sys2Proof.Machine.execLearnMinute tempOk s
  | .arm n => Sys2Proof.Machine.execArm n s
  | .disarm n => Sys2Proof.Machine.execDisarm n s
  | .launchFire n => Sys2Proof.Machine.execLaunchFire n s
  | .parcelReset => Sys2Proof.Machine.execParcelReset s
  | .adaptReset => Sys2Proof.Machine.execAdaptReset s
  | .modelVerify => Sys2Proof.Machine.execModelVerify s
  | .modelVerifyEnd => Sys2Proof.Machine.execModelVerifyEnd s
  | .modelSwitch => Sys2Proof.Machine.execModelSwitch s
  | .modelCancel => Sys2Proof.Machine.execModelCancel s
  | .periodicSolveStart => Sys2Proof.Machine.execPeriodicSolveStart s
  | .solveEnd r => Sys2Proof.Machine.execSolveEnd r s
  | .solveDeadline => Sys2Proof.Machine.execSolveDeadline s
  | .planPub => Sys2Proof.Machine.execPlanPub s
  | .bridgeSnapshotCopy mb => Sys2Proof.Machine.execBridgeSnapshotCopy mb s
  | .planShift => Sys2Proof.Machine.execPlanShift s
  | .fallbackAgeExpire => Sys2Proof.Machine.execFallbackAgeExpire s
  | .fallback => Sys2Proof.Machine.execFallback s
  | .optVerify => Sys2Proof.Machine.execOptVerify s
  | .optVerifyEnd => Sys2Proof.Machine.execOptVerifyEnd s
  | .optSwitch => Sys2Proof.Machine.execOptSwitch s
  | .optCancel => Sys2Proof.Machine.execOptCancel s
  | .eccUncorr => Sys2Proof.Machine.execEccUncorr s
  | .subHelloRx g => Sys2Proof.Machine.execSubHelloRx g s
  | .subReportRx g => Sys2Proof.Machine.execSubReportRx g s
  | .subStateRx g => Sys2Proof.Machine.execSubStateRx g s
  | .subAckRx g => Sys2Proof.Machine.execSubAckRx g s
  | .subPrivAckRx g => Sys2Proof.Machine.execSubPrivAckRx g s
  | .launchQueueExpire e ns => Sys2Proof.Machine.execLaunchQueueExpire e ns s
  | .nodeAccept => Sys2Proof.Machine.execNodeAccept s
  | .nodeReset => Sys2Proof.Machine.execNodeReset s
  | .nodeClr => Sys2Proof.Machine.execNodeClr s
  | .rekey => Sys2Proof.Machine.execRekey s
  | .rekeySwitch g => Sys2Proof.Machine.execRekeySwitch g s
  | .rekeyOverlapEnd g => Sys2Proof.Machine.execRekeyOverlapEnd g s
  | .linkDown port => Sys2Proof.Machine.execLinkDown port s
  | .linkUp port => Sys2Proof.Machine.execLinkUp port s
  | .sfpFault port txFault los removed => Sys2Proof.Machine.execSfpFault port txFault los removed s
  | .canFrameRx f => Sys2Proof.Machine.execCanFrameRx f s
  | .canPrivAckRx f => Sys2Proof.Machine.execCanPrivAckRx f s
  | .canFrameTxDone port item sofSec sofNs edges ns => Sys2Proof.Machine.execCanFrameTxDone port item sofSec sofNs edges ns s
  | .canError e => Sys2Proof.Machine.execCanError e s
  | .errPassive port => Sys2Proof.Machine.execErrPassive port s
  | .busOff port => Sys2Proof.Machine.execBusOff port s
  | .boffRecovered port => Sys2Proof.Machine.execBoffRecovered port s
  | .idClash port item => Sys2Proof.Machine.execIdClash port item s
  | .idClashSuspect port id => Sys2Proof.Machine.execIdClashSuspect port id s
  | .sleep port => Sys2Proof.Machine.execSleep port s
  | .wake port => Sys2Proof.Machine.execWake port s
  | .busWake port domNs f => Sys2Proof.Machine.execBusWake port domNs f s
  | .stnReset port => Sys2Proof.Machine.execStnReset port s
  | .fastInputEdge inp rising => Sys2Proof.Machine.execFastInputEdge inp rising s
  | .privArm => Sys2Proof.Machine.execPrivArm s
  | .privDisarm => Sys2Proof.Machine.execPrivDisarm s
  | .resetTrip => Sys2Proof.Machine.execResetTrip s
  | .privRelease ch seq ns => Sys2Proof.Machine.execPrivRelease ch seq ns s
  | .privRetx ch seq ns => Sys2Proof.Machine.execPrivRetx ch seq ns s
  | .privRequestEnd ch seq ns => Sys2Proof.Machine.execPrivRequestEnd ch seq ns s
  | .privBreach kind ch seq ns => Sys2Proof.Machine.execPrivBreach kind ch seq ns s
  | .adcTimerTrigger k ns => Sys2Proof.Machine.execAdcTimerTrigger k ns s
  | .pwmCompareTrigger k ns => Sys2Proof.Machine.execPwmCompareTrigger k ns s
  | .adcConversionEnd conv code ns => Sys2Proof.Machine.execAdcConversionEnd conv code ns s
  | .diEdge inp rising => Sys2Proof.Machine.execDiEdge inp rising s
  | .overcurrent o => Sys2Proof.Machine.execOvercurrent o s
  | .readback o => Sys2Proof.Machine.execReadback o s
  | .openLoop a => Sys2Proof.Machine.execOpenLoop a s
  | .dioDoSet v => Sys2Proof.Machine.execDioDoSet v s
  | .dioDoClr v => Sys2Proof.Machine.execDioDoClr v s
  | .dioOcClr v => Sys2Proof.Machine.execDioOcClr v s
  | .meterSave => Sys2Proof.Machine.execMeterSave s
  | .retainSave => Sys2Proof.Machine.execRetainSave s
  | .restoreAck => Sys2Proof.Machine.execRestoreAck s
  | .powerFail ns shedUs => Sys2Proof.Machine.execPowerFail ns shedUs s
  | .pfSnapshot commit ok => Sys2Proof.Machine.execPfSnapshot commit ok s
  | .powerRestored ns => Sys2Proof.Machine.execPowerRestored ns s
  | .overvolt mv => Sys2Proof.Machine.execOvervolt mv s
  | .ballastLow mv => Sys2Proof.Machine.execBallastLow mv s
  | .lockLost d => Sys2Proof.Machine.execLockLost d s
  | .lockRegained d => Sys2Proof.Machine.execLockRegained d s
  | .tune => Sys2Proof.Machine.execTune s
  | .tuneTimeout => Sys2Proof.Machine.execTuneTimeout s
  | .tuneAbort => Sys2Proof.Machine.execTuneAbort s
  | .applyProp => Sys2Proof.Machine.execApplyProp s
  | .loopHoldSet k v => Sys2Proof.Machine.execLoopHoldSet k v s
  | .loopHoldClr k v => Sys2Proof.Machine.execLoopHoldClr k v s
  | .cpeVerify p => Sys2Proof.Machine.execCpeVerify p s
  | .cpeVerifyEnd p o => Sys2Proof.Machine.execCpeVerifyEnd p o s
  | .cpeSwitch p => Sys2Proof.Machine.execCpeSwitch p s
  | .cpeCancel p => Sys2Proof.Machine.execCpeCancel p s
  | .clrForces p => Sys2Proof.Machine.execClrForces p s
  | .icuDoorbell eng src => Sys2Proof.Machine.execIcuDoorbell eng src s
  | .icuEnSet eng src => Sys2Proof.Machine.execIcuEnSet eng src s
  | .icuEnClr eng src => Sys2Proof.Machine.execIcuEnClr eng src s
  | .icuMaskSet eng src => Sys2Proof.Machine.execIcuMaskSet eng src s
  | .icuMaskClr eng src => Sys2Proof.Machine.execIcuMaskClr eng src s
  | .icuPendSet eng src => Sys2Proof.Machine.execIcuPendSet eng src s
  | .icuPendClr eng src => Sys2Proof.Machine.execIcuPendClr eng src s
  | .icuClaim t => Sys2Proof.Machine.execIcuClaim t s
  | .icuEoi t src => Sys2Proof.Machine.execIcuEoi t src s
  | .icuStackReset t => Sys2Proof.Machine.execIcuStackReset t s
  | .evrRecordCommit => Sys2Proof.Machine.execEvrRecordCommit s
  | .evrTokenRefill idx => Sys2Proof.Machine.execEvrTokenRefill idx s
  | .evrFreeze => Sys2Proof.Machine.execEvrFreeze s
  | .unfreeze => Sys2Proof.Machine.execUnfreeze s
  | .evrClear => Sys2Proof.Machine.execEvrClear s
  | .clrSupp => Sys2Proof.Machine.execClrSupp s
  | .frzExpired => Sys2Proof.Machine.execFrzExpired s
  | .heartbeatRx h => Sys2Proof.Machine.execHeartbeatRx h s
  | .heartbeatMiss path => Sys2Proof.Machine.execHeartbeatMiss path s
  | .partnerLost => Sys2Proof.Machine.execPartnerLost s
  | .failureDeclare => Sys2Proof.Machine.execFailureDeclare s
  | .isolationCheck => Sys2Proof.Machine.execIsolationCheck s
  | .takeover => Sys2Proof.Machine.execTakeover s
  | .twinCold => Sys2Proof.Machine.execTwinCold s
  | .inputRecordRx r => Sys2Proof.Machine.execInputRecordRx r s
  | .recLost => Sys2Proof.Machine.execRecLost s
  | .recordNotClosed => Sys2Proof.Machine.execRecordNotClosed s
  | .beaconRx b => Sys2Proof.Machine.execBeaconRx b s
  | .twinSwitch => Sys2Proof.Machine.execTwinSwitch s
  | .twinJoin => Sys2Proof.Machine.execTwinJoin s
  | .joinStart => Sys2Proof.Machine.execJoinStart s
  | .segmentCommit seg ok size crc d => Sys2Proof.Machine.execSegmentCommit seg ok size crc d s
  | .replayEnd d => Sys2Proof.Machine.execReplayEnd d s
  | .joinDone => Sys2Proof.Machine.execJoinDone s
  | .joinTimeout => Sys2Proof.Machine.execJoinTimeout s
  | .abandon => Sys2Proof.Machine.execAbandon s
  | .parkControlRx cmd serial crcOk => Sys2Proof.Machine.execParkControlRx cmd serial crcOk s
  | .park => Sys2Proof.Machine.execPark s
  | .unpark => Sys2Proof.Machine.execUnpark s
  | .unparkDiscard => Sys2Proof.Machine.execUnparkDiscard s
  | .testClr => Sys2Proof.Machine.execTestClr s
  | .sramScrubPass corr uncorr => Sys2Proof.Machine.execSramScrubPass corr uncorr s
  | .dramScrubPass uncorr => Sys2Proof.Machine.execDramScrubPass uncorr s
  | .portLoopbackTest fail => Sys2Proof.Machine.execPortLoopbackTest fail s
  | .plausFail inp => Sys2Proof.Machine.execPlausFail inp s
  | .mramScrubStart => Sys2Proof.Machine.execMramScrubStart s
  | .mramScrubEnd corr uncorr => Sys2Proof.Machine.execMramScrubEnd corr uncorr s
  | .keyStage => Sys2Proof.Machine.execKeyStage s
  | .keyStageEnd tagOk pointOk kcv => Sys2Proof.Machine.execKeyStageEnd tagOk pointOk kcv s
  | .keyVerify => Sys2Proof.Machine.execKeyVerify s
  | .keyVerifyEnd pointOk sigOk => Sys2Proof.Machine.execKeyVerifyEnd pointOk sigOk s
  | .promote => Sys2Proof.Machine.execPromote s
  | .promoted => Sys2Proof.Machine.execPromoted s
  | .keyCancel => Sys2Proof.Machine.execKeyCancel s
  | .keyRevoke => Sys2Proof.Machine.execKeyRevoke s
  | .keyErase => Sys2Proof.Machine.execKeyErase s
  | .tamper sensors ns => Sys2Proof.Machine.execTamper sensors ns s
  | .powerGood o => Sys2Proof.Machine.execPowerGood o s
  | .roleNegotiation o => Sys2Proof.Machine.execRoleNegotiation o s
  | .negWaitExpire => Sys2Proof.Machine.execNegWaitExpire s
  | .bootDone => Sys2Proof.Machine.execBootDone s
  | .faultRestart => Sys2Proof.Machine.execFaultRestart s
  | .cfgVerify => Sys2Proof.Machine.execCfgVerify s
  | .cfgVerifyEnd o => Sys2Proof.Machine.execCfgVerifyEnd o s
  | .cfgSwitch => Sys2Proof.Machine.execCfgSwitch s
  | .cfgCancel => Sys2Proof.Machine.execCfgCancel s
  | .restart => Sys2Proof.Machine.execRestart s
  | .restartPair => Sys2Proof.Machine.execRestartPair s
  | .announceReceiptTimeout port => Sys2Proof.Machine.execAnnounceReceiptTimeout port s
  | .ptpSyncTx port => Sys2Proof.Machine.execPtpSyncTx port s
  | .ptpAnnounceTx port => Sys2Proof.Machine.execPtpAnnounceTx port s
  | .prpSupervisionFrame => Sys2Proof.Machine.execPrpSupervisionFrame s
  | .canIntegrated port => Sys2Proof.Machine.execCanIntegrated port s
  | .openCleared a => Sys2Proof.Machine.execOpenCleared a s
  | .meterSaveVerify ok => Sys2Proof.Machine.execMeterSaveVerify ok s
  | .dramCorrectedError => Sys2Proof.Machine.execDramCorrectedError s
  | .nodeBaselineSave => Sys2Proof.Machine.execNodeBaselineSave s
  | .undervolt mv => Sys2Proof.Machine.execUndervolt mv s

end Sys2Proof.Machine
end

