-- ==== Sys2Proof/WellFormed.lean ====
section
/-! DEFINITION. Well-formed commands: every operand lies in the range that its field or its kind has. The checks that a command meets on
receipt and turns down with a status (R45, R49, R545) are the machine's, and stand with its meaning. -/

namespace Sys2Proof

/-- UNIT of an entry is eight bits (R76). -/
def unitWf (u : Nat) : Bool := decide (u < 256)
/-- A mailbox number is twelve bits (R80, R128). -/
def mailboxWf (n : Nat) : Bool := decide (n < 4096)
/-- An event code is sixteen bits (R63). -/
def eventWf (n : Nat) : Bool := decide (n < 2 ^ 16)
/-- ARG of an entry is 28 bits (R76). -/
def argWf (a : Nat) : Bool := decide (a < 2 ^ 28)
/-- An instant lies in its frame, which lasts less than 2 ms (R73). -/
def nsWf (n : Nat) : Bool := decide (n < 2000000)
/-- The ADC has four converters (R296). -/
def converterWf (n : Nat) : Bool := decide (n < 4)
/-- Seven inputs of four metering points (R319). -/
def invalidWf (n : Nat) : Bool := decide (n < 2 ^ 28)
/-- The arrival table has up to 16 parts (R80). -/
def partWf (n : Nat) : Bool := decide (n < 16)
/-- The model has four circuits (R80). -/
def circuitWf (n : Nat) : Bool := decide (n < 4)
/-- A node number is eleven bits (R80). -/
def nodeWf (n : Nat) : Bool := decide (n < 2048)
/-- A plant bus has 32 stations (R273). -/
def stationWf (n : Nat) : Bool := decide (n < 32)
/-- LENGTH of an input record is 32 bits (R456). -/
def recordLenWf (n : Nat) : Bool := decide (n < 2 ^ 32)
/-- A frame table has 4,096 entries (R76). -/
def entryWf (n : Nat) : Bool := decide (n < 4096)
/-- Engines are numbered E0 to E11 (R41). -/
def engineWf (n : Nat) : Bool := decide (n < 12)
/-- The register space has 64 pages (R43). -/
def pageWf (p : Nat) : Bool := decide (p < 64)
/-- There are two CPEs. -/
def cpeWf (p : Nat) : Bool := decide (p < 2)
/-- Sessions are numbered 0 to 7 (R426). -/
def sessionWf (n : Nat) : Bool := decide (n < 8)
/-- A field of 32 bits. -/
def addrWf (n : Nat) : Bool := decide (n < 2 ^ 32)
/-- A field of 16 bits. -/
def countWf (n : Nat) : Bool := decide (n < 2 ^ 16)
/-- A table ID is 16 bits (R65). -/
def tableWf (n : Nat) : Bool := decide (n < 2 ^ 16)
/-- TAG of a command is 32 bits (R430). -/
def tagWf (n : Nat) : Bool := decide (n < 2 ^ 32)
/-- A field of eight bits. -/
def byteWf (n : Nat) : Bool := decide (n < 256)
/-- The writer of a register is a session, or none. -/
def writerWf (n : Nat) : Bool := decide (n < 16)
/-- Ports A, B, H1 and H2 speak PTP (R107). -/
def ptpPortWf (n : Nat) : Bool := decide (n < 4)
/-- A portState is four bits (R107). -/
def ptpDataWf (a : PtpData) : Bool :=
  decide (a.p1 < 256 ∧ a.acc < 256 ∧ a.var < 2 ^ 16 ∧ a.p2 < 256 ∧ a.steps < 2 ^ 16 ∧ a.src < 2 ^ 64)
/-- There are 64 launch comparators (R120). -/
def comparatorWf (n : Nat) : Bool := decide (n < 64)
/-- The launch queue has 16,384 positions (R226). -/
def queueWf (n : Nat) : Bool := decide (n < 16384)
/-- A group number is eight bits (R238). -/
def groupWf (n : Nat) : Bool := decide (n < 256)
/-- Ports A, B, H1, H2 and T (R245). -/
def netPortWf (n : Nat) : Bool := decide (n < 5)
/-- One of two ports. -/
def pairWf (n : Nat) : Bool := decide (n < 2)
/-- A message object, the reference or the privileged message of a port (R260). -/
def canItemWf (n : Nat) : Bool := decide (n < 66)
/-- A CAN identifier is at most 29 bits (R247). -/
def canIdWf (n : Nat) : Bool := decide (n < 2 ^ 29)
/-- There are eight privileged fast inputs (R308). -/
def fastInputWf (n : Nat) : Bool := decide (n < 8)
/-- There are 16 digital inputs (R307). -/
def digitalInputWf (n : Nat) : Bool := decide (n < 16)
/-- An input that the plausibility checks compare (R471). -/
def comparedWf (n : Nat) : Bool := decide (n < 56)
/-- There are 32 privileged channels (R280). -/
def channelWf (n : Nat) : Bool := decide (n < 32)
/-- A breach is numbered in four bits (R294). -/
def breachWf (n : Nat) : Bool := decide (n < 16)
/-- There are four timers, PWM outputs and analogue outputs. -/
def fourWf (n : Nat) : Bool := decide (n < 4)
/-- There are eight solid-state outputs (R309). -/
def outputWf (n : Nat) : Bool := decide (n < 8)
/-- Eight solid-state outputs and four trip pairs (R309, R310). -/
def lineWf (n : Nat) : Bool := decide (n < 12)
/-- Twelve clock domains, and the TCXO (R23). -/
def domainWf (n : Nat) : Bool := decide (n < 13)
/-- 256 loops stand in eight words (R362). -/
def maskWf (n : Nat) : Bool := decide (n < 8)
/-- The interrupt controller has 1,024 sources (R398). -/
def sourceWf (n : Nat) : Bool := decide (n < 1024)
/-- The interrupt controller has 13 targets (R401). -/
def targetWf (n : Nat) : Bool := decide (n < 13)
/-- A bucket of a code record, or the default one (R410). -/
def bucketWf (n : Nat) : Bool := decide (n ≤ 1024)
/-- Port T or the tether (R451). -/
def pathWf (n : Nat) : Bool := decide (n < 2)
/-- A copy has ten segments (R475). -/
def segmentWf (n : Nat) : Bool := decide (n < 10)
/-- There are five tamper sensors (R501). -/
def sensorsWf (n : Nat) : Bool := decide (n < 32)
/-- Four ports are looped (R471). -/
def loopbackWf (n : Nat) : Bool := decide (n < 16)

/-- A sender of a doorbell: the owner, or one of the twelve engines (R400). -/
def senderWf (e : Option Nat) : Bool :=
  match e with
  | none => true
  | some n => engineWf n

/-- The widths of a KWP header (R421) and REQ_ID (R427). -/
def Kwp.wf (k : Kwp) : Bool := pairWf k.port && byteWf k.ses && decide (k.seq < 2 ^ 64) && decide (k.reqId < 2 ^ 32)
def KwpOpen.wf (o : KwpOpen) : Bool := pairWf o.port && byteWf o.cred && decide (o.seq < 2 ^ 64)

/-- A GSP datagram comes by port A or B, from a node number of 16 bits (R204). -/
def Gsp.wf (g : Gsp) : Bool := pairWf g.port && decide (g.node < 2 ^ 16) && decide (g.seq < 2 ^ 16) && decide (g.launchNs < 2 ^ 32)

/-- A CAN frame has at most 64 data bytes, 8 in the classical format (R247). -/
def CanFrame.wf (f : CanFrame) : Bool :=
  pairWf f.port && canIdWf f.id && decide (f.data.length ≤ (if f.fdf then 64 else 8))
def CanFrame.optWf (f : Option CanFrame) : Bool :=
  match f with
  | none => true
  | some x => x.wf

/-- An error of CANx_LEC (R266). -/
def CanErr.wf (e : CanErr) : Bool := pairWf e.port && decide (1 ≤ e.kind ∧ e.kind ≤ 6) && canIdWf e.id

/-- What a segment of a copy holds has the shape of a module's own state (R475): eight sessions, thirteen targets, two plant buses and two
CPEs, four metering points, four circuits and sixteen parts of the arrival table. -/
def SegData.wf (d : Machine.SegData) : Bool :=
  d.host.all (fun x => x.sess.length == 8) && d.icu.all (fun x => x.stack.length == 13 && x.pres.length == 13)
    && d.can.all (fun x => x.length == 2) && d.cpe.all (fun x => x.length == 2) && d.cpeNv.all (fun x => x.length == 2)
    && d.met.all (fun x => x.pts.length == 4) && d.model.all (fun x => x.thmAt.length == 4 && x.arrAt.length == 16)

/-- The operands of a command lie in their ranges. -/
def Instr.wf (i : Instr) : Bool :=
  match i with
  | .frameTick _ => true
  | .nop unit => unitWf unit
  | .endEntry => true
  | .publish mb _ => mailboxWf mb
  | .snap code => eventWf code
  | .launchArm arg ns => argWf arg && nsWf ns
  | .adcSel conv arg ns => converterWf conv && argWf arg && nsWf ns
  | .adcTrig arg ns => argWf arg && nsWf ns
  | .modLatch arg _ invalid => argWf arg && invalidWf invalid
  | .emetClose arg => argWf arg
  | .hmetClose arg ns => argWf arg && nsWf ns
  | .loopGroup arg => argWf arg
  | .cpeTask unit arg _ => unitWf unit && argWf arg
  | .modelHyd arg => argWf arg
  | .modelThm arg => argWf arg
  | .modelArr arg => argWf arg
  | .arrPartStale part => partWf part
  | .leakDetect c => circuitWf c
  | .gspTx arg ns => argWf arg && nsWf ns
  | .gspRxclose arg ns => argWf arg && nsWf ns
  | .nodeSilent n => nodeWf n
  | .nodeLost n => nodeWf n
  | .canRef arg => argWf arg
  | .stnDrop port stn => pairWf port && stationWf stn
  | .canTx arg => argWf arg
  | .twinRec len => recordLenWf len
  | .entryDeadline unit entry _ => unitWf unit && entryWf entry
  | .engineLost e => engineWf e
  | .timedCommit page => pageWf page
  | .seqBankSwitch => true
  | .modelBankSwitch => true
  | .optBankSwitch => true
  | .cpeBankSwitch p => cpeWf p
  | .kwpOpen o => KwpOpen.wf o
  | .sessionOpeningTimeout ses => sessionWf ses
  | .sessionIdleTimeout ses => sessionWf ses
  | .dormancyTimeout ses => sessionWf ses
  | .read k addr => Kwp.wf k && addrWf addr
  | .write k addr _ => Kwp.wf k && addrWf addr
  | .readBlock k addr cnt => Kwp.wf k && addrWf addr && countWf cnt
  | .writeBlock k addr _ => Kwp.wf k && addrWf addr
  | .tableRead k tid cnt idx => Kwp.wf k && tableWf tid && countWf cnt && addrWf idx
  | .tableWrite k tid idx _ => Kwp.wf k && tableWf tid && addrWf idx
  | .cancel k tag _ => Kwp.wf k && tagWf tag
  | .solve k tag _ => Kwp.wf k && tagWf tag
  | .abort k tag _ => Kwp.wf k && tagWf tag
  | .privReq k tag _ => Kwp.wf k && tagWf tag
  | .cqRead k maxN => Kwp.wf k && byteWf maxN
  | .notifyCfg k _ _ _ _ => Kwp.wf k
  | .ownReq k _ _ => Kwp.wf k
  | .ownershipResolve => true
  | .ownRenew k => Kwp.wf k
  | .ownHandover k _ => Kwp.wf k
  | .ownRelease k => Kwp.wf k
  | .leaseLapsed => true
  | .dormant k _ _ => Kwp.wf k
  | .resume k _ => Kwp.wf k
  | .closeReq k => Kwp.wf k
  | .notifySend ses _ => sessionWf ses
  | .wakeOnLan ses => sessionWf ses
  | .kick writer => writerWf writer
  | .registerWrite addr _ => addrWf addr
  | .srst page => pageWf page
  | .freeze page _ => pageWf page
  | .frzTmo page => pageWf page
  | .commit page _ => pageWf page
  | .discard page => pageWf page
  | .pgEvtSet page _ => pageWf page
  | .pgEvtClr page _ => pageWf page
  | .pgMaskSet page _ => pageWf page
  | .pgMaskClr page _ => pageWf page
  | .counterClear addr _ => addrWf addr
  | .seqVerify => true
  | .seqVerifyEnd => true
  | .seqSwitch => true
  | .seqCancel => true
  | .ptpSyncRx port domain _ _ => ptpPortWf port && byteWf domain
  | .ptpAnnounceRx port domain cls _ _ bmca => ptpPortWf port && byteWf domain && byteWf cls && ptpDataWf bmca
  | .ptpPdelayExchange port domain _ _ _ _ => ptpPortWf port && byteWf domain
  | .ppsEdge _ => true
  | .todSentenceRx _ _ => true
  | .sourceInvalid => true
  | .sourceUpgrade => true
  | .initSet => true
  | .stepAccept => true
  | .stepApplied => true
  | .relearn => true
  | .clrCnt => true
  | .learnMinute _ => true
  | .arm n => comparatorWf n
  | .disarm n => comparatorWf n
  | .launchFire n => comparatorWf n
  | .parcelReset => true
  | .adaptReset => true
  | .modelVerify => true
  | .modelVerifyEnd => true
  | .modelSwitch => true
  | .modelCancel => true
  | .periodicSolveStart => true
  | .solveEnd r => decide (r < 8)
  | .solveDeadline => true
  | .planPub => true
  | .bridgeSnapshotCopy mb => mailboxWf mb
  | .planShift => true
  | .fallbackAgeExpire => true
  | .fallback => true
  | .optVerify => true
  | .optVerifyEnd => true
  | .optSwitch => true
  | .optCancel => true
  | .eccUncorr => true
  | .subHelloRx g => Gsp.wf g
  | .subReportRx g => Gsp.wf g
  | .subStateRx g => Gsp.wf g
  | .subAckRx g => Gsp.wf g
  | .subPrivAckRx g => Gsp.wf g
  | .launchQueueExpire e ns => queueWf e && nsWf ns
  | .nodeAccept => true
  | .nodeReset => true
  | .nodeClr => true
  | .rekey => true
  | .rekeySwitch g => groupWf g
  | .rekeyOverlapEnd g => groupWf g
  | .linkDown port => netPortWf port
  | .linkUp port => netPortWf port
  | .sfpFault port _ _ _ => pairWf port
  | .canFrameRx f => CanFrame.wf f
  | .canPrivAckRx f => CanFrame.wf f
  | .canFrameTxDone port item _ _ _ ns => pairWf port && canItemWf item && nsWf ns
  | .canError e => CanErr.wf e
  | .errPassive port => pairWf port
  | .busOff port => pairWf port
  | .boffRecovered port => pairWf port
  | .idClash port item => pairWf port && canItemWf item
  | .idClashSuspect port id => pairWf port && canIdWf id
  | .sleep port => pairWf port
  | .wake port => pairWf port
  | .busWake port _ f => pairWf port && CanFrame.optWf f
  | .stnReset port => pairWf port
  | .fastInputEdge inp _ => fastInputWf inp
  | .privArm => true
  | .privDisarm => true
  | .resetTrip => true
  | .privRelease ch seq ns => channelWf ch && addrWf seq && nsWf ns
  | .privRetx ch seq ns => channelWf ch && addrWf seq && nsWf ns
  | .privRequestEnd ch seq ns => channelWf ch && addrWf seq && nsWf ns
  | .privBreach kind ch seq ns => breachWf kind && channelWf ch && addrWf seq && nsWf ns
  | .adcTimerTrigger k ns => fourWf k && nsWf ns
  | .pwmCompareTrigger k ns => fourWf k && nsWf ns
  | .adcConversionEnd conv _ ns => converterWf conv && nsWf ns
  | .diEdge inp _ => digitalInputWf inp
  | .overcurrent o => outputWf o
  | .readback o => lineWf o
  | .openLoop a => fourWf a
  | .dioDoSet _ => true
  | .dioDoClr _ => true
  | .dioOcClr _ => true
  | .meterSave => true
  | .retainSave => true
  | .restoreAck => true
  | .powerFail ns _ => nsWf ns
  | .pfSnapshot _ _ => true
  | .powerRestored ns => nsWf ns
  | .overvolt _ => true
  | .ballastLow _ => true
  | .lockLost d => domainWf d
  | .lockRegained d => domainWf d
  | .tune => true
  | .tuneTimeout => true
  | .tuneAbort => true
  | .applyProp => true
  | .loopHoldSet k _ => maskWf k
  | .loopHoldClr k _ => maskWf k
  | .cpeVerify p => cpeWf p
  | .cpeVerifyEnd p _ => cpeWf p
  | .cpeSwitch p => cpeWf p
  | .cpeCancel p => cpeWf p
  | .clrForces p => cpeWf p
  | .icuDoorbell eng src => senderWf eng && sourceWf src
  | .icuEnSet eng src => senderWf eng && sourceWf src
  | .icuEnClr eng src => senderWf eng && sourceWf src
  | .icuMaskSet eng src => senderWf eng && sourceWf src
  | .icuMaskClr eng src => senderWf eng && sourceWf src
  | .icuPendSet eng src => senderWf eng && sourceWf src
  | .icuPendClr eng src => senderWf eng && sourceWf src
  | .icuClaim t => targetWf t
  | .icuEoi t src => targetWf t && sourceWf src
  | .icuStackReset t => targetWf t
  | .evrRecordCommit => true
  | .evrTokenRefill idx => bucketWf idx
  | .evrFreeze => true
  | .unfreeze => true
  | .evrClear => true
  | .clrSupp => true
  | .frzExpired => true
  | .heartbeatRx _ => true
  | .heartbeatMiss path => pathWf path
  | .partnerLost => true
  | .failureDeclare => true
  | .isolationCheck => true
  | .takeover => true
  | .twinCold => true
  | .inputRecordRx _ => true
  | .recLost => true
  | .recordNotClosed => true
  | .beaconRx _ => true
  | .twinSwitch => true
  | .twinJoin => true
  | .joinStart => true
  | .segmentCommit seg _ _ _ d => segmentWf seg && SegData.wf d
  | .replayEnd d => SegData.wf d
  | .joinDone => true
  | .joinTimeout => true
  | .abandon => true
  | .parkControlRx _ _ _ => true
  | .park => true
  | .unpark => true
  | .unparkDiscard => true
  | .testClr => true
  | .sramScrubPass _ _ => true
  | .dramScrubPass _ => true
  | .portLoopbackTest fail => loopbackWf fail
  | .plausFail inp => comparedWf inp
  | .mramScrubStart => true
  | .mramScrubEnd _ _ => true
  | .keyStage => true
  | .keyStageEnd _ _ _ => true
  | .keyVerify => true
  | .keyVerifyEnd _ _ => true
  | .promote => true
  | .promoted => true
  | .keyCancel => true
  | .keyRevoke => true
  | .keyErase => true
  | .tamper sensors ns => sensorsWf sensors && nsWf ns
  | .powerGood _ => true
  | .roleNegotiation _ => true
  | .negWaitExpire => true
  | .bootDone => true
  | .faultRestart => true
  | .cfgVerify => true
  | .cfgVerifyEnd _ => true
  | .cfgSwitch => true
  | .cfgCancel => true
  | .restart => true
  | .restartPair => true
  | .announceReceiptTimeout port => ptpPortWf port
  | .ptpSyncTx port => ptpPortWf port
  | .ptpAnnounceTx port => ptpPortWf port
  | .prpSupervisionFrame => true
  | .canIntegrated port => pairWf port
  | .openCleared a => fourWf a
  | .meterSaveVerify _ => true
  | .dramCorrectedError => true
  | .nodeBaselineSave => true
  | .undervolt _ => true

end Sys2Proof
end

