-- ==== Sys2Proof/Safety.lean ====
section
/-! DEFINITION. What the statements are said in: the canonical form of the state's maps, the parts of the state, and what it means that
a command leaves a part as it was. -/

namespace Sys2Proof.Machine

/-! ## The canonical form -/

/-- The sparse maps of the state are in canonical form: keys rise strictly, and the registers, what readers are shown of them and the
table records list no word equal to its reset value. So two states that hold the same words are the same data. -/
structure State.Canon (s : State) : Prop where
  regs : smWf regReset s.regs = true
  vis : smWf regReset s.vis = true
  tbl : smWf tblReset s.tbl = true
  shadow : smSorted s.shadow = true
  tshadow : smSorted s.tshadow = true

/-! ## Parts of the state -/

/-- The parts of the state. `host` is everything of the host block but the notification items of its sessions and the instants at
which they began to wait; `items` is those too. -/
inductive Part where
  | regs | vis | shadow | tbl | tshadow | frzFrom | commitDue | mbx | host
  | items | icu | evr | seq | cpe | time | model | opt | snet
  | can | dio | adc | lnch | priv | met | metNv | pwr | cpeNv
  | loop | twin | segs | keys | cfg | dev | sent | free
deriving DecidableEq, Repr

/-- The host block without the notification items of its sessions. -/
def HostSt.still (h : HostSt) : HostSt := { h with sess := h.sess.map (fun x => { x with items := [], oldestAt := 0 }) }

/-- Two states hold the same in a part. -/
def Part.agree (p : Part) (s t : State) : Prop :=
  match p with
  | .regs => t.regs = s.regs
  | .vis => t.vis = s.vis
  | .shadow => t.shadow = s.shadow
  | .tbl => t.tbl = s.tbl
  | .tshadow => t.tshadow = s.tshadow
  | .frzFrom => t.frzFrom = s.frzFrom
  | .commitDue => t.commitDue = s.commitDue
  | .mbx => t.mbx = s.mbx
  | .host => t.host.still = s.host.still
  | .items => t.host = s.host
  | .icu => t.icu = s.icu
  | .evr => t.evr = s.evr
  | .seq => t.seq = s.seq
  | .cpe => t.cpe = s.cpe
  | .time => t.time = s.time
  | .model => t.model = s.model
  | .opt => t.opt = s.opt
  | .snet => t.snet = s.snet
  | .can => t.can = s.can
  | .dio => t.dio = s.dio
  | .adc => t.adc = s.adc
  | .lnch => t.lnch = s.lnch
  | .priv => t.priv = s.priv
  | .met => t.met = s.met
  | .metNv => t.metNv = s.metNv
  | .pwr => t.pwr = s.pwr
  | .cpeNv => t.cpeNv = s.cpeNv
  | .loop => t.loop = s.loop
  | .twin => t.twin = s.twin
  | .segs => t.segs = s.segs
  | .keys => t.keys = s.keys
  | .cfg => t.cfg = s.cfg
  | .dev => t.dev = s.dev
  | .sent => t.sent = s.sent
  | .free => t.free = s.free

/-- `t` differs from `s` at most in the parts listed. -/
def State.onlyIn (s t : State) (ps : List Part) : Prop := ∀ p : Part, p ∉ ps → p.agree s t

/-- The parts that raising an event may change: PENDING bits and counters, the source table and the recorder's status table, the
controller's stacks, the recorder's intake queue, and the sessions' notification items (R57, R399, R409, R434). -/
def evParts : List Part := [.regs, .tbl, .icu, .evr, .items]

/-- Every register word outside `p` reads in `t` as it did in `s`. -/
def State.regsBut (s t : State) (p : Nat → Prop) : Prop := ∀ a, ¬ p a → t.rd a = s.rd a

/-- Every table word whose table, record and word are outside `p` reads in `t` as it did in `s`. -/
def State.tblBut (s t : State) (p : Nat → Nat → Nat → Prop) : Prop :=
  ∀ k, ¬ p (tkeyTid k) (tkeyIdx k) (tkeyWord k) → smGet tblReset t.tbl k = smGet tblReset s.tbl k

/-- The register words that raising events of page `p` may change: PG_EVT_PEND and PG_EVT_CNT of the page, the interrupt controller's
ICU_PEND_N and target status, and the recorder's page. -/
def evReg (p a : Nat) : Prop :=
  a = addrOf p 0x10 ∨ a = addrOf p 0x28 ∨ a = 0x7064 ∨ (0x708C ≤ a ∧ a ≤ 0x714C ∧ a % 16 = 12) ∨ pageOf a = 8

/-- The tables whose words raising events may change: the source table and the recorder's status table. -/
def evTbl (tid : Nat) : Prop := tid = 0x0700 ∨ tid = 0x0802

/-- The command answers a next state, of which `post` holds. -/
def runs (c : Instr) (s : State) (post : State → Prop) : Prop := ∃ t, exec c s = .next t ∧ post t

/-- The words of ICU_PEND_N and of the target status registers. -/
def icuReg (a : Nat) : Prop := a = 0x7064 ∨ (0x708C ≤ a ∧ a ≤ 0x714C ∧ a % 16 = 12)

/-! ## Host requests -/

/-- The REQUEST reaches an address that the module answers on (R420) and passes the checks of R423: header and port, a session opening,
open or dormant on this port and kind of address, the tag, and the replay window. -/
def State.passes (s : State) (k : Kwp) : Prop :=
  s.addressed k.port k.svc = true ∧ k.fmtOk = true ∧ s.portOn k.port = true ∧ k.ses < 8 ∧ (s.sess k.ses).st ≠ 0 ∧ (s.sess k.ses).port = k.port
    ∧ (s.sess k.ses).svc = k.svc ∧ k.tagOk = true ∧ replayOk (s.sess k.ses).rxTop (s.sess k.ses).rxSeen k.seq = true

/-- The request is a new one and has room (R427): none of the last 32 responses has its REQ_ID, it is not being executed, and fewer than
8 requests wait. -/
def State.newReq (s : State) (k : Kwp) : Prop :=
  (∀ r ∈ (s.sess k.ses).cache, r.reqId ≠ k.reqId) ∧ k.reqId ∉ (s.sess k.ses).inflight ∧ (s.sess k.ses).inflight.length < 8

/-- The request is executed. -/
def State.admits (s : State) (k : Kwp) : Prop := s.passes k ∧ s.newReq k

/-- The state once the request has passed R423: HOST_RX_OK counted, the replay window moved on, a session that was opening open. -/
def State.taken (s : State) (k : Kwp) : State := (s.recvKwp k).1

/-- From `s` to `t` the response to the request leaves under the next SEQ of its session (R421, R427); of a pair's modules only the active
one sends from a service address (R420). -/
def State.replied (s t : State) (k : Kwp) (op : Nat) (st : Status) (data : List Word) : Prop :=
  t.sent = s.sent ++ s.says k.svc (.resp k.ses (s.sess k.ses).txSeq ⟨k.reqId, op, st, data⟩)

/-- The request of a KWP row and its OP. -/
def reqOf : Instr → Option (Kwp × Nat)
  | .read k _ => some (k, 1)
  | .write k _ _ => some (k, 2)
  | .readBlock k _ _ => some (k, 3)
  | .writeBlock k _ _ => some (k, 4)
  | .tableRead k _ _ _ => some (k, 5)
  | .tableWrite k _ _ _ => some (k, 6)
  | .cancel k _ _ => some (k, 7)
  | .solve k _ _ => some (k, 7)
  | .abort k _ _ => some (k, 7)
  | .privReq k _ _ => some (k, 7)
  | .cqRead k _ => some (k, 8)
  | .notifyCfg k _ _ _ _ => some (k, 9)
  | .ownReq k _ _ => some (k, 10)
  | .ownRenew k => some (k, 11)
  | .ownHandover k _ => some (k, 12)
  | .ownRelease k => some (k, 13)
  | .dormant k _ _ => some (k, 14)
  | .resume k _ => some (k, 15)
  | .closeReq k => some (k, 16)
  | _ => none

/-- The parts that receiving a request and answering it may change. -/
def reqParts : List Part := [.regs, .tbl, .host, .items, .icu, .evr, .sent]

/-- The words beside those of events that receiving a request may change: the counters of the HOST page and their flags, and what
events of the HOST page touch. -/
def hostReg (a : Nat) : Prop := evReg 0x0B a ∨ (0xB0F4 ≤ a ∧ a ≤ 0xB120)

/-! ## Pages -/

/-- A register of a block whose write does nothing beside its words: no command register, none of the launch, interrupt controller and loop
HOLD registers, no clear register and no setting whose change acts at once. -/
def plainReg (a : Nat) : Bool :=
  addrOk a && decide (0x40 ≤ offOf a) && (cmdsAt a none).isNone && pageOf a != 0x07 && pageOf a != 0x05 && !clearReg a
    && !([0x3048, 0x180B4, 0x1904C, 0x19054, 0x120F8, 0x206C, 0x4040, 0x4094, 0x409C, 0x10040, 0x11040, 0x12078, 0x14040, 0x15040, 0x1A044,
          0x20040, 0x24040, 0xB09C, 0xB0D0, 0x1C054, 0x1C058, 0x1C064].contains a)
    && !(decide (0x18048 ≤ a ∧ a < 0x18058) || decide (0x20050 ≤ a ∧ a < 0x20060) || decide (0x20080 ≤ a ∧ a < 0x200C0)
          || decide (0x26094 ≤ a ∧ a < 0x260A4) || decide (0x260C0 ≤ a ∧ a < 0x26140))

/-! ## The frame sequencer -/

/-- The unit takes the entry: the running table holds it as the next record (R15, R72, R77), and the unit runs: no record is waited for, the
power-fail sequence has not ended, and the unit's loads are not shed (R459, R532). -/
def State.takes (s : State) (op unit : Nat) (p : Entry → Bool) : Prop := s.issues op unit p = true ∧ s.unitOff unit = false

/-- The state in which a unit begins the entry issued to it: the sequencer has gone on to the next record, and the unit has acknowledged. -/
def State.begun (s : State) (unit : Nat) : State := s.passEntry.ackBy unit

/-- An event offered under a code enters the intake queue (R409): the recorder is on and not frozen, the code's record enables it, a token and room
are left. -/
def State.recordable (s : State) (code : Nat) : Prop :=
  s.bit (bitAt 0x8040 0) = true ∧ s.bit (bitAt 0x8048 0) = false ∧ s.bit (bitAt 0x8048 1) = false ∧ s.evr.intake.length < 512
    ∧ (∀ k, s.evrRec code = some k → s.tfld 0x0801 k 0 30 1 = 1)
    ∧ (s.evrPeriod (bucketKey (s.evrRec code)) = 0 ∨ s.evrTokens (bucketKey (s.evrRec code)) ≠ 0)
    ∧ s.fld ⟨0x804C, 0, 17⟩ + s.evrQueued + 2 ≤ 98304

/-! ## Networks and buses -/

/-- The lists of fixed length have it: sessions, nonces, the controller's targets, units of the sequencer, lines, plant buses,
converters and the rest; and what a running copy holds has the same shape (R475). -/
structure State.Sized (s : State) : Prop where
  sess : s.host.sess.length = 8
  stack : s.icu.stack.length = 13
  pres : s.icu.pres.length = 13
  ports : s.time.ports.length = 4
  lines : s.snet.lines.length = 5
  can : s.can.length = 2
  settle : s.adc.settle.length = 4
  conv : s.adc.conv.length = 4
  pts : s.met.pts.length = 4
  cpe : s.cpe.length = 2
  cpeNv : s.cpeNv.length = 2
  thmAt : s.model.thmAt.length = 4
  arrAt : s.model.arrAt.length = 16
  segs : ∀ e ∈ s.segs, SegData.wf e.2 = true

/-- The identifier of a frame is the reference's of a port (R261). -/
def State.isRefId (s : State) (f : CanFrame) : Prop :=
  f.ide = s.bit (cfld f.port 0x6C 31 1) ∧ f.id = s.fld (cfld f.port 0x6C 0 29)

/-- A data frame that a port takes up (R247, R253, R263): the port hears, the format is one it uses, and the identifier is neither 0x000
nor the reference's. -/
def State.canTakes (s : State) (f : CanFrame) : Prop :=
  f.port < 2 ∧ s.canHears f.port (f.sofSec, f.sofNs) = true ∧ (f.fdf = true → s.bit (cfld f.port 0x40 6 1) = true) ∧ f.remote = false
    ∧ (f.ide = false → f.id ≠ 0) ∧ ¬ s.isRefId f

/-- A received message reaches the checks of R210: its line is up, or a standby module takes it from the record, and GSP is enabled and open. -/
def State.gspHears (s : State) (g : Gsp) : Prop :=
  g.port < 2 ∧ (s.lineUp g.port = true ∨ s.mstate = 3) ∧ s.bit (bitAt 0x12040 0) = true ∧ s.gspOpen = true

/-- A received message passes R208 to R211: its records of known TYPE and right LEN are `rs`. -/
def State.gspPasses (s : State) (g : Gsp) (rs : List (Nat × List Byte)) : Prop :=
  s.gspHears g ∧ g.dport = s.fld ⟨0x12050, 0, 16⟩ ∧ g.version = 1
    ∧ g.flags / 2 ^ 15 % 2 = 1 ∧ g.flags / 2 ^ 3 % 2 ^ 12 = 0 ∧ g.length ≤ 1400 ∧ g.length = g.payload.length
    ∧ s.keyOk g = true ∧ s.tagOf g = true ∧ s.nodeDef g.node = true ∧ s.nodeGroup g.node = g.group
    ∧ g.typ ∈ [1, 2, 4, 6, 9] ∧ (∃ x fresh, epochCheck (s.node g.node) g.epoch g.seq = .ok x fresh)
    ∧ ∃ all, tlvs g.payload.length g.payload = some all ∧ rs = tlvUsed all

/-- A message beside reports is within MAX_MSG of its substation cycle (R216). -/
def State.gspBudget (s : State) (n : Nat) : Prop :=
  (if (s.node n).msgCyc = s.snet.cyc then (s.node n).msgs else 0) < s.fld ⟨0x12078, 24, 4⟩

/-! ## Frames -/

/-- The parts of the state that a command may change: it leaves every other part as it was. -/
def cmdParts : Instr → List Part
  | .frameTick .. =>
      [.regs, .vis, .shadow, .tbl, .tshadow, .frzFrom, .commitDue, .mbx, .host, .items, .icu, .evr, .seq, .cpe, .time, .model,
       .opt, .snet, .can, .dio, .adc, .lnch, .priv, .met, .metNv, .cpeNv, .loop, .twin, .segs, .keys, .dev, .sent, .free]
  | .nop .. | .endEntry =>
      [.seq]
  | .publish .. =>
      [.mbx, .seq]
  | .snap .. =>
      [.regs, .tbl, .items, .icu, .evr, .seq]
  | .launchArm .. =>
      [.regs, .tbl, .items, .icu, .evr, .seq, .dio, .lnch, .priv]
  | .adcSel .. | .adcTrig .. =>
      [.regs, .tbl, .items, .icu, .evr, .seq, .adc]
  | .modLatch .. =>
      [.regs, .tbl, .items, .icu, .evr, .seq, .met]
  | .emetClose .. | .hmetClose .. =>
      [.regs, .tbl, .mbx, .items, .icu, .evr, .seq, .dio, .met, .dev]
  | .loopGroup .. =>
      [.regs, .tbl, .mbx, .items, .icu, .evr, .seq, .dio, .loop, .dev]
  | .cpeTask .. =>
      [.regs, .shadow, .tbl, .mbx, .host, .items, .icu, .evr, .seq, .cpe, .dio, .lnch, .priv, .sent]
  | .modelHyd .. | .modelThm .. =>
      [.regs, .tbl, .mbx, .host, .items, .icu, .evr, .seq, .model, .dio, .dev, .sent]
  | .modelArr .. =>
      [.regs, .tbl, .mbx, .host, .items, .icu, .evr, .seq, .model, .dio, .dev, .sent, .free]
  | .arrPartStale .. | .nodeSilent .. =>
      [.regs, .tbl, .mbx, .items, .icu, .evr, .dio, .dev]
  | .leakDetect .. | .seqVerifyEnd | .modelVerifyEnd | .optVerifyEnd | .errPassive .. | .overcurrent .. | .readback .. | .openLoop ..
    | .overvolt .. | .ballastLow .. | .cpeVerifyEnd .. | .icuDoorbell .. | .icuEnSet .. | .icuEnClr .. | .icuMaskSet .. | .icuMaskClr ..
    | .icuPendSet .. | .icuPendClr .. | .icuEoi .. | .frzExpired | .cfgVerifyEnd .. | .undervolt .. =>
      [.regs, .tbl, .items, .icu, .evr]
  | .gspTx .. =>
      [.regs, .tbl, .items, .icu, .evr, .seq, .snet, .twin, .sent]
  | .gspRxclose .. =>
      [.regs, .tbl, .mbx, .items, .icu, .evr, .seq, .snet, .dio, .dev, .free]
  | .nodeLost .. =>
      [.regs, .tbl, .mbx, .items, .icu, .evr, .snet, .dio, .dev]
  | .canRef .. =>
      [.regs, .tbl, .mbx, .items, .icu, .evr, .seq, .can, .dio, .dev]
  | .stnDrop .. =>
      [.regs, .tbl, .mbx, .items, .icu, .evr, .cpe, .can, .dio, .dev]
  | .canTx .. =>
      [.regs, .tbl, .seq, .can, .twin]
  | .twinRec .. =>
      [.regs, .tbl, .mbx, .items, .icu, .evr, .seq, .cpe, .opt, .snet, .dio, .priv, .twin, .dev, .sent, .free]
  | .entryDeadline .. =>
      [.regs, .shadow, .tbl, .mbx, .items, .icu, .evr, .seq, .cpe, .dio, .lnch, .priv, .loop, .dev]
  | .engineLost .. =>
      [.regs, .tbl, .items, .icu, .evr, .seq, .dio, .dev]
  | .timedCommit .. =>
      [.regs, .vis, .shadow, .tbl, .tshadow, .commitDue, .mbx, .host, .items, .icu, .evr, .time, .can, .dio, .adc, .dev]
  | .seqBankSwitch =>
      [.regs, .vis, .tbl, .items, .icu, .evr, .snet]
  | .modelBankSwitch =>
      [.regs, .vis, .tbl, .mbx, .items, .icu, .evr, .model, .dio, .dev]
  | .optBankSwitch | .periodicSolveStart =>
      [.regs, .vis, .tbl, .host, .items, .icu, .evr, .opt]
  | .cpeBankSwitch .. =>
      [.regs, .vis, .tbl, .items, .icu, .evr, .cpe]
  | .kwpOpen .. | .write .. | .writeBlock .. | .tableRead .. | .tableWrite .. | .cancel .. | .solve .. | .abort .. | .privReq .. | .cqRead ..
    | .notifyCfg .. | .ownReq .. | .ownRenew .. | .ownHandover .. | .ownRelease .. | .dormant .. | .resume .. | .closeReq .. =>
      [.regs, .tbl, .host, .items, .icu, .evr, .sent]
  | .sessionOpeningTimeout .. | .sessionIdleTimeout .. | .dormancyTimeout .. | .kick .. =>
      [.regs, .tbl, .host, .items, .icu, .evr]
  | .read .. | .readBlock .. =>
      [.regs, .tbl, .host, .items, .icu, .evr, .sent, .free]
  | .ownershipResolve =>
      [.regs, .vis, .tbl, .host, .items, .icu, .evr, .sent]
  | .leaseLapsed =>
      [.regs, .vis, .tbl, .host, .items, .icu, .evr]
  | .notifySend .. | .wakeOnLan .. =>
      [.regs, .host, .items, .sent]
  | .registerWrite .. | .srst .. | .freeze .. | .commit .. | .discard .. | .pgEvtSet .. | .pgEvtClr .. | .pgMaskSet .. | .pgMaskClr ..
    | .counterClear .. =>
      [.regs, .shadow, .tbl, .tshadow, .frzFrom, .commitDue, .mbx, .host, .items, .icu, .evr, .cpe, .time, .model, .opt,
       .snet, .can, .dio, .adc, .lnch, .priv, .met, .metNv, .loop, .twin, .segs, .keys, .dev, .sent]
  | .frzTmo .. =>
      [.regs, .tbl, .frzFrom, .items, .icu, .evr]
  | .seqVerify | .seqSwitch | .seqCancel | .clrCnt | .modelVerify | .modelSwitch | .modelCancel | .optVerify | .optSwitch
    | .optCancel | .privDisarm | .dioDoSet .. | .dioDoClr .. | .dioOcClr .. | .cpeCancel .. | .unfreeze | .cfgSwitch | .cfgCancel
    | .openCleared .. | .dramCorrectedError =>
      [.regs]
  | .ptpSyncRx .. | .ppsEdge .. =>
      [.regs, .tbl, .items, .icu, .evr, .time, .free]
  | .ptpAnnounceRx .. | .sourceInvalid | .sourceUpgrade | .heartbeatMiss .. | .announceReceiptTimeout .. =>
      [.regs, .tbl, .items, .icu, .evr, .time]
  | .ptpPdelayExchange .. | .rekey | .rekeyOverlapEnd .. =>
      [.regs, .snet]
  | .todSentenceRx .. =>
      [.time]
  | .initSet | .stepApplied =>
      [.regs, .tbl, .items, .icu, .evr, .time, .dio, .lnch, .priv]
  | .stepAccept | .relearn =>
      [.regs, .time]
  | .learnMinute .. =>
      [.regs, .time, .free]
  | .arm .. | .launchFire .. =>
      [.regs, .tbl, .items, .icu, .evr, .dio, .lnch, .priv]
  | .disarm .. =>
      [.regs, .lnch]
  | .parcelReset =>
      [.regs, .model]
  | .adaptReset =>
      [.tbl, .model]
  | .solveEnd .. | .solveDeadline | .eccUncorr =>
      [.regs, .tbl, .host, .items, .icu, .evr, .opt]
  | .planPub =>
      [.regs, .vis, .tbl, .mbx, .host, .items, .icu, .evr, .opt]
  | .bridgeSnapshotCopy .. =>
      [.opt]
  | .planShift =>
      [.regs, .vis, .mbx, .opt]
  | .fallbackAgeExpire =>
      [.regs, .vis, .tbl, .items, .icu, .evr, .opt]
  | .fallback =>
      [.regs, .tbl, .items, .icu, .evr, .opt]
  | .subHelloRx .. | .subReportRx .. | .subStateRx .. | .subAckRx .. | .nodeAccept | .rekeySwitch .. =>
      [.regs, .tbl, .items, .icu, .evr, .snet]
  | .subPrivAckRx .. =>
      [.regs, .tbl, .items, .icu, .evr, .snet, .can, .priv]
  | .launchQueueExpire .. | .nodeReset =>
      [.regs, .tbl, .snet]
  | .nodeClr | .clrForces .. =>
      [.tbl]
  | .linkDown .. | .linkUp .. | .sfpFault .. | .nodeBaselineSave =>
      [.snet]
  | .canFrameRx .. =>
      [.regs, .tbl, .mbx, .items, .icu, .evr, .can, .dio, .dev, .free]
  | .canPrivAckRx .. =>
      [.regs, .tbl, .items, .icu, .evr, .can, .priv, .free]
  | .canFrameTxDone .. =>
      [.regs, .tbl, .mbx, .items, .icu, .evr, .can, .dio, .dev, .sent, .free]
  | .canError .. =>
      [.regs, .tbl, .can]
  | .busOff .. | .boffRecovered .. | .idClash .. | .idClashSuspect .. | .sleep .. | .wake .. | .busWake .. | .lockRegained .. =>
      [.regs, .tbl, .items, .icu, .evr, .can]
  | .stnReset .. =>
      [.regs, .tbl, .mbx, .items, .icu, .evr, .can, .dio, .dev]
  | .fastInputEdge .. =>
      [.regs, .tbl, .items, .icu, .evr, .dio]
  | .privArm | .resetTrip =>
      [.regs, .dio]
  | .privRelease .. =>
      [.regs, .tbl, .items, .icu, .evr, .snet, .can, .priv, .twin, .sent]
  | .privRetx .. =>
      [.regs, .snet, .priv, .twin, .sent]
  | .privRequestEnd .. =>
      [.regs, .tbl, .items, .icu, .evr, .can, .priv]
  | .privBreach .. =>
      [.regs, .tbl, .items, .icu, .evr, .can, .dio, .priv, .dev]
  | .adcTimerTrigger .. | .pwmCompareTrigger .. =>
      [.regs, .tbl, .items, .icu, .evr, .adc]
  | .adcConversionEnd .. =>
      [.regs, .tbl, .mbx, .items, .icu, .evr, .dio, .adc, .dev]
  | .diEdge .. =>
      [.regs, .tbl, .items, .icu, .dio]
  | .meterSave =>
      [.regs, .vis, .met, .metNv]
  | .retainSave =>
      [.regs, .vis, .cpe, .cpeNv]
  | .restoreAck =>
      [.regs, .met]
  | .powerFail .. =>
      [.regs, .tbl, .host, .items, .icu, .evr, .opt, .snet, .metNv, .pwr]
  | .pfSnapshot .. =>
      [.regs, .vis, .met, .metNv, .pwr]
  | .powerRestored .. =>
      [.regs, .tbl, .items, .icu, .evr, .pwr]
  | .lockLost .. =>
      [.regs, .tbl, .host, .items, .icu, .evr, .opt, .snet, .can, .dio, .adc, .met, .dev]
  | .tune =>
      [.regs, .tbl, .loop]
  | .tuneTimeout | .tuneAbort | .loopHoldSet .. =>
      [.regs, .tbl, .mbx, .items, .icu, .evr, .dio, .loop, .dev]
  | .applyProp | .loopHoldClr .. =>
      [.tbl, .loop]
  | .cpeVerify .. | .keyStageEnd .. | .keyVerifyEnd .. | .keyCancel | .keyErase | .tamper .. =>
      [.regs, .tbl, .items, .icu, .evr, .keys]
  | .cpeSwitch .. =>
      [.regs, .cpe]
  | .icuClaim .. =>
      [.regs, .tbl, .items, .icu, .sent]
  | .icuStackReset .. =>
      [.regs, .tbl, .items, .icu]
  | .evrRecordCommit | .evrTokenRefill .. =>
      [.regs, .tbl, .evr]
  | .evrFreeze | .evrClear =>
      [.regs, .evr]
  | .clrSupp =>
      [.regs, .tbl]
  | .heartbeatRx .. =>
      [.regs, .tbl, .items, .icu, .evr, .time, .twin, .segs, .free]
  | .partnerLost | .failureDeclare | .isolationCheck | .recLost | .twinJoin | .joinStart | .joinTimeout | .abandon =>
      [.regs, .tbl, .items, .icu, .evr, .twin, .segs]
  | .takeover =>
      [.regs, .tbl, .host, .items, .icu, .evr, .time, .snet, .can, .dio, .lnch, .priv, .twin, .sent]
  | .twinCold =>
      [.regs, .shadow, .tbl, .tshadow, .commitDue, .mbx, .host, .items, .icu, .evr, .cpe, .time, .model, .opt, .snet, .can,
       .dio, .adc, .lnch, .priv, .met, .metNv, .cpeNv, .loop, .twin, .segs, .keys, .cfg, .dev, .sent]
  | .inputRecordRx .. =>
      [.regs, .tbl, .items, .icu, .evr, .time, .twin, .segs]
  | .recordNotClosed =>
      [.regs, .tbl, .items, .icu, .evr, .dio, .dev]
  | .beaconRx .. | .joinDone | .dramScrubPass .. | .portLoopbackTest .. | .plausFail .. | .mramScrubEnd .. =>
      [.regs, .tbl, .items, .icu, .evr, .twin]
  | .twinSwitch =>
      [.regs, .tbl, .host, .items, .icu, .evr, .time, .opt, .lnch, .twin, .sent]
  | .segmentCommit .. =>
      [.regs, .tbl, .items, .icu, .evr, .metNv, .twin, .segs]
  | .replayEnd .. =>
      [.regs, .tbl, .mbx, .host, .items, .icu, .cpe, .model, .opt, .snet, .can, .lnch, .priv, .met, .cpeNv, .loop, .twin,
       .keys]
  | .parkControlRx .. | .testClr | .mramScrubStart =>
      [.twin]
  | .park | .unpark | .unparkDiscard =>
      [.sent]
  | .sramScrubPass .. =>
      [.regs, .tbl, .items, .icu, .evr, .dio, .twin, .dev]
  | .keyStage | .keyVerify | .promote | .cfgVerify =>
      [.regs, .keys]
  | .promoted =>
      [.regs, .vis, .tbl, .items, .icu, .evr, .snet, .keys, .free]
  | .keyRevoke =>
      [.regs, .tbl, .host, .items, .icu, .evr, .snet, .keys]
  | .powerGood .. =>
      [.regs, .vis, .shadow, .tbl, .tshadow, .frzFrom, .commitDue, .mbx, .host, .items, .icu, .evr, .seq, .cpe, .time, .model,
       .opt, .snet, .can, .dio, .adc, .lnch, .priv, .met, .metNv, .pwr, .cpeNv, .loop, .twin, .segs, .keys, .cfg, .dev, .sent,
       .free]
  | .roleNegotiation .. =>
      [.regs, .tbl, .host, .items, .icu, .evr, .cpe, .model, .opt, .snet, .lnch, .priv, .met, .metNv, .cpeNv, .loop, .twin,
       .dev, .free]
  | .negWaitExpire =>
      [.regs, .dev]
  | .bootDone =>
      [.regs, .tbl, .items, .icu, .evr, .dev]
  | .faultRestart =>
      [.regs, .lnch, .dev]
  | .restart =>
      [.regs, .tbl, .host, .items, .icu, .evr, .time, .opt, .lnch, .met, .metNv, .twin, .dev, .sent]
  | .restartPair =>
      [.regs, .lnch, .met, .metNv, .dev]
  | .ptpSyncTx .. | .ptpAnnounceTx .. | .prpSupervisionFrame =>
      [.regs, .snet, .sent]
  | .canIntegrated .. =>
      [.can]
  | .meterSaveVerify .. =>
      [.regs, .tbl, .items, .icu, .evr, .met, .metNv]

/-- The page of a command all of whose effects lie in its own page's registers and tables, beside events. -/
def onePage : Instr → Option Nat
  | .keyStage | .keyVerify | .promote | .keyCancel | .keyErase => some 0x09
  | .cfgVerify | .cfgVerifyEnd .. | .cfgSwitch | .cfgCancel => some 0x01
  | .seqVerify | .seqVerifyEnd | .seqSwitch | .seqCancel => some 0x06
  | .modelVerify | .modelVerifyEnd | .modelSwitch | .modelCancel => some 0x24
  | .optVerify | .optVerifyEnd | .optSwitch | .optCancel => some 0x25
  | .twinJoin | .joinStart | .segmentCommit .. | .joinTimeout | .abandon => some 0x0C
  | .testClr | .dramScrubPass .. | .portLoopbackTest .. | .plausFail .. | .mramScrubStart | .mramScrubEnd .. => some 0x30
  | .icuDoorbell .. | .icuEnSet .. | .icuEnClr .. | .icuMaskSet .. | .icuMaskClr .. | .icuPendSet .. | .icuPendClr .. => some 0x07
  | .evrFreeze | .unfreeze | .evrClear | .clrSupp | .frzExpired => some 0x08
  | .kick .. | .sessionOpeningTimeout .. | .sessionIdleTimeout .. | .dormancyTimeout .. => some 0x0B
  | .restoreAck => some 0x1A
  | .privArm | .privDisarm | .resetTrip => some 0x26
  | _ => none

end Sys2Proof.Machine
end

