-- ==== Sys2Proof/Certificates/Slice0/Obligations.lean ====
section
/-! DEFINITION. The statements for the provers: what the commands of each family do, what they leave as it was, and what every step keeps. -/

open Sys2Proof Sys2Proof.Machine

/-! ## The whole block -/

/-- A command at the front of the queue is the one that a step runs, on the state with the queue's rest; on an empty queue the block idles.
Where the spec leaves a choice or a reading, it is the model's (assumption 1). -/
def Obligations.AStepRunsTheFrontCommand : Prop :=
  (∀ (c : Instr) (rest : List Instr) (s : State), s.pending = c :: rest → step s = exec c { s with pending := rest })
    ∧ ∀ s : State, s.pending = [] → step s = .next s

/-- Every command answers a next state, and none touches the queue of the commands that wait. Where the spec leaves a choice or a reading, it is
the model's (assumption 3). -/
def Obligations.EveryCommandAnswers : Prop :=
  ∀ (c : Instr) (s : State), runs c s (fun t => t.pending = s.pending)

/-- Right after reset the block is in BOOT with nothing waiting, its maps are canonical and its lists have their lengths; the clock stands at 0
with quality UNSYNC (R101), no session is open and none is the owner, no interrupt source is enabled, pending or claimed, nothing is
presented, no comparator is armed and no request of a privileged channel is outstanding. Where the spec leaves a choice or a reading, it is
the model's (assumptions 6, 7). -/
def Obligations.ResetLeavesAnIdleBlock : Prop :=
  State.reset.Canon ∧ State.reset.Sized ∧ State.reset.pending = [] ∧ State.reset.sent = [] ∧ State.reset.mstate = 0
    ∧ State.reset.ownSec = 0 ∧ State.reset.ownNs = 0 ∧ State.reset.fld ⟨0x4048, 0, 3⟩ = 0
    ∧ (∀ i, (State.reset.sess i).st = 0) ∧ State.reset.host.owner = none
    ∧ (∀ src, src < 2 ^ 24 → State.reset.srcFld src 31 1 = 0 ∧ State.reset.srcFld src 28 2 = 0)
    ∧ (∀ t, State.reset.icu.pres.getD t 0 = 0) ∧ State.reset.lnch = [] ∧ State.reset.priv.reqs = []

/-- Every step keeps the sparse maps in canonical form: keys rise strictly, and the registers, what readers are shown of them, and the tables
list no word equal to its reset value. -/
def Obligations.EveryStepKeepsTheCanonicalForm : Prop :=
  ∀ s t : State, s.Canon → step s = .next t → t.Canon

/-- Every step of a well-formed command keeps the lengths of the lists that have one. Where the spec leaves a choice or a reading, it is the
model's (assumption 108). -/
def Obligations.EveryStepKeepsTheLengths : Prop :=
  ∀ s t : State, s.Sized → (∀ c rest, s.pending = c :: rest → c.wf = true) → step s = .next t → t.Sized

/-- A command changes no part of the state beside its own parts: the frame of all 256 rows. -/
def Obligations.ACommandKeepsToItsParts : Prop :=
  ∀ (c : Instr) (s t : State), exec c s = .next t → s.onlyIn t (cmdParts c)

/-- A command of one page changes no register of another page but those of the interrupt controller and the recorder that its events touch, and
no word of a table of another page but the source table and the recorder's status table. -/
def Obligations.ACommandOfOnePageKeepsToIt : Prop :=
  ∀ (c : Instr) (p : Nat) (s t : State), onePage c = some p → exec c s = .next t →
    s.regsBut t (fun a => pageOf a = p ∨ pageOf a = 0x07 ∨ pageOf a = 0x08)
      ∧ s.tblBut t (fun tid _ _ => tablePage tid = p ∨ evTbl tid)

/-! ## Host ports, sessions and ownership -/

/-- R423: a REQUEST is checked in the order of the table, the first failure is counted and none of the failures is answered; for all nineteen
KWP requests and for OPEN. A datagram to an address that the module does not answer on does nothing (R420). Where the spec leaves a choice or a
reading, it is the model's (assumption 23). -/
def Obligations.RequestChecksInOrder : Prop :=
  (∀ (c : Instr) (k : Kwp) (op : Nat) (s : State), reqOf c = some (k, op) → s.addressed k.port k.svc = false → exec c s = .next s)
  ∧ (∀ (c : Instr) (k : Kwp) (op : Nat) (s : State), reqOf c = some (k, op) → s.addressed k.port k.svc = true →
    (k.fmtOk = false ∨ s.portOn k.port = false → exec c s = .next (s.bump .HOST_BAD))
    ∧ (k.fmtOk = true → s.portOn k.port = true →
        ((s.sess k.ses).st = 0 ∨ 8 ≤ k.ses ∨ (s.sess k.ses).port ≠ k.port ∨ (s.sess k.ses).svc ≠ k.svc ∨ k.tagOk = false) →
        exec c s = .next s.authFail)
    ∧ (k.fmtOk = true → s.portOn k.port = true → (s.sess k.ses).st ≠ 0 → k.ses < 8 → (s.sess k.ses).port = k.port →
        (s.sess k.ses).svc = k.svc → k.tagOk = true → replayOk (s.sess k.ses).rxTop (s.sess k.ses).rxSeen k.seq = false →
        exec c s = .next (s.bump .HOST_REPLAY)))
  ∧ (∀ (o : KwpOpen) (s : State), (s.addressed o.port o.svc = false → exec (.kwpOpen o) s = .next s)
    ∧ (s.addressed o.port o.svc = true → o.fmtOk = false ∨ s.portOn o.port = false → exec (.kwpOpen o) s = .next (s.bump .HOST_BAD))
    ∧ (s.addressed o.port o.svc = true → o.fmtOk = true → s.portOn o.port = true → o.tagOk = false ∨ s.credOk o.cred = false →
        exec (.kwpOpen o) s = .next s.authFail))
  ∧ ∀ s : State, s.authFail.sent = s.sent ∧ (s.host.authRaised = true → s.authFail = s.bump .HOST_AUTH_FAIL)
    ∧ (s.host.authRaised = false → s.authFail.host.authRaised = true ∧ s.authFail.bit (bitAt 0xB010 5) = true)

/-- R427: a request that passes R423 and whose REQ_ID is among the last 32 responses receives that response again and changes nothing but the
session; a duplicate of one being executed is discarded; a ninth is answered BUSY, which is not kept. -/
def Obligations.RequestActsOnce : Prop :=
  ∀ (c : Instr) (k : Kwp) (op : Nat) (s : State), reqOf c = some (k, op) → s.passes k →
    (∀ r, (s.sess k.ses).cache.find? (fun r => r.reqId == k.reqId) = some r →
      runs c s (fun t => t.sent = s.sent ++ s.says k.svc (.resp k.ses (s.sess k.ses).txSeq r) ∧ (s.taken k).onlyIn t [.host, .items, .sent]
        ∧ (t.sess k.ses).cache = (s.sess k.ses).cache ∧ t.host.queue = s.host.queue ∧ t.host.cmds = s.host.cmds))
    ∧ ((∀ r ∈ (s.sess k.ses).cache, r.reqId ≠ k.reqId) → k.reqId ∈ (s.sess k.ses).inflight → exec c s = .next (s.taken k))
    ∧ ((∀ r ∈ (s.sess k.ses).cache, r.reqId ≠ k.reqId) → k.reqId ∉ (s.sess k.ses).inflight → 8 ≤ (s.sess k.ses).inflight.length →
      runs c s (fun t => s.replied t k op .busy [] ∧ (s.taken k).onlyIn t [.host, .items, .sent]
        ∧ (t.sess k.ses).cache = (s.sess k.ses).cache ∧ t.host.queue = s.host.queue ∧ t.host.cmds = s.host.cmds))

/-- READ, READ_BLOCK and TABLE_READ answer what the words read as (R45, R47, R48, R66): an address of no register BAD_ADDR; a register whose
read acts answers the owner with its claim and any other session with 0 and DENIED, changing nothing; every other register or table record
answers OK with its words, and registers, tables and the interrupt controller are as they were. A block that is not in one page or names no
register is refused whole. Completion of READ, READ_BLOCK, TABLE_READ. Where the spec leaves a choice or a reading, it is the model's
(assumptions 9, 11, 12, 15). -/
def Obligations.ReadsAnswerTheWords : Prop :=
  ∀ (k : Kwp) (s : State), s.admits k →
    (∀ addr, addrOk (addr % 2 ^ 24) = false →
      runs (.read k addr) s (fun t => s.replied t k 1 .badAddr [] ∧ (s.taken k).onlyIn t [.host, .items, .sent]))
    ∧ (∀ addr, 2 ^ 24 ≤ addr → addrOk (addr % 2 ^ 24) = true →
      runs (.read k addr) s (fun t => s.replied t k 1 .range [] ∧ (s.taken k).onlyIn t [.host, .items, .sent]))
    ∧ (∀ addr, addr < 2 ^ 24 → addrOk addr = true → readActs addr = false →
      runs (.read k addr) s (fun t => s.replied t k 1 .ok [(s.taken k).readWord addr]
        ∧ (s.taken k).onlyIn t [.host, .items, .sent, .free]))
    ∧ (∀ addr, addr < 2 ^ 24 → addrOk addr = true → readActs addr = true → s.isOwner k.ses = false →
      runs (.read k addr) s (fun t => s.replied t k 1 .denied [0] ∧ (s.taken k).onlyIn t [.host, .items, .sent]))
    ∧ (∀ addr, addr < 2 ^ 24 → addrOk addr = true → readActs addr = true → s.isOwner k.ses = true →
      runs (.read k addr) s (fun t => s.replied t k 1 .ok [(claim (claimTarget addr) (s.taken k)).2]
        ∧ t.icu = (claim (claimTarget addr) (s.taken k)).1.icu))
    ∧ (∀ addr cnt, addr < 2 ^ 24 → 1 ≤ cnt → cnt ≤ 256 → blockOk addr cnt = false →
      runs (.readBlock k addr cnt) s (fun t => s.replied t k 3 .badAddr [] ∧ (s.taken k).onlyIn t [.host, .items, .sent]))
    ∧ (∀ addr cnt, addr < 2 ^ 24 → 1 ≤ cnt → cnt ≤ 256 → blockOk addr cnt = true →
        (∀ i < cnt, readActs (addr + 4 * i) = false) →
      runs (.readBlock k addr cnt) s (fun t => (s.taken k).onlyIn t [.host, .items, .sent, .free]
        ∧ ∃ ws, s.replied t k 3 .ok ws ∧ ws.length = cnt
          ∧ ∀ i < cnt, offOf (addr + 4 * i) ≠ 0x0C → ws[i]? = some ((s.taken k).readWord (addr + 4 * i))))
    ∧ (∀ addr cnt, addr < 2 ^ 24 → 1 ≤ cnt → cnt ≤ 256 → blockOk addr cnt = true →
        (∃ i < cnt, readActs (addr + 4 * i) = true) → s.isOwner k.ses = false →
      runs (.readBlock k addr cnt) s (fun t => (s.taken k).onlyIn t [.host, .items, .sent, .free]
        ∧ ∃ ws, s.replied t k 3 .denied ws ∧ ws.length = cnt
          ∧ ∀ i < cnt, (readActs (addr + 4 * i) = true → ws[i]? = some 0)
            ∧ (readActs (addr + 4 * i) = false → offOf (addr + 4 * i) ≠ 0x0C → ws[i]? = some ((s.taken k).readWord (addr + 4 * i)))))
    ∧ (∀ addr cnt, addr < 2 ^ 24 → 1 ≤ cnt → cnt ≤ 256 → blockOk addr cnt = true →
        (∃ i < cnt, readActs (addr + 4 * i) = true) → s.isOwner k.ses = true →
      runs (.readBlock k addr cnt) s (fun t => ∃ ws, s.replied t k 3 .ok ws ∧ ws.length = cnt))
    ∧ (∀ tid cnt idx, tableInfo tid = none →
      runs (.tableRead k tid cnt idx) s (fun t => s.replied t k 5 .badTable [] ∧ (s.taken k).onlyIn t [.host, .items, .sent]))
    ∧ (∀ tid ti cnt idx, tableInfo tid = some ti → 1 ≤ cnt → cnt ≤ 64 → cnt * ti.words ≤ 320 → idx < 2 ^ 24 →
        ti.idxOk idx = true → ti.idxOk (idx + cnt - 1) = true → ti.byXfer = false →
      runs (.tableRead k tid cnt idx) s (fun t => s.replied t k 5 .ok ((s.taken k).tableWords ti idx cnt)
        ∧ (s.taken k).onlyIn t [.host, .items, .sent]))

/-- WRITE, WRITE_BLOCK and TABLE_WRITE change no register on receipt (R47 to R49): one that a rule refuses is answered with the first status of
R49 and held nowhere; any other joins the writes waiting for the tick, in the order received, and is not answered yet. Completion of WRITE,
WRITE_BLOCK, TABLE_WRITE. Where the spec leaves a choice or a reading, it is the model's (assumptions 13, 14). -/
def Obligations.WritesWaitForTheTick : Prop :=
  ∀ (k : Kwp) (s : State), s.admits k →
    let waits := fun (c : Instr) (op : HOp) => runs c s (fun t =>
      t.host.queue = s.host.queue ++ [⟨k.ses, (s.sess k.ses).gen, k.reqId, op⟩] ∧ t.sent = s.sent
        ∧ k.reqId ∈ (t.sess k.ses).inflight ∧ (s.taken k).onlyIn t [.host, .items])
    let refuses := fun (c : Instr) (op : Nat) (st : Status) => runs c s (fun t =>
      s.replied t k op st [] ∧ t.host.queue = s.host.queue ∧ (s.taken k).onlyIn t [.host, .items, .sent])
    (∀ addr v, s.isOwner k.ses = true → addr < 2 ^ 24 → valueStatus addr v = .ok →
      waits (.write k addr v) (.regs 2 [(addr, v)]))
    ∧ (∀ addr v, s.isOwner k.ses = false → refuses (.write k addr v) 2 .denied)
    ∧ (∀ addr v, s.isOwner k.ses = true → addrOk (addr % 2 ^ 24) = false → refuses (.write k addr v) 2 .badAddr)
    ∧ (∀ addr v, s.isOwner k.ses = true → addr < 2 ^ 24 → addrOk addr = true → valueStatus addr v ≠ .ok →
      refuses (.write k addr v) 2 (valueStatus addr v))
    ∧ (∀ addr ws, s.isOwner k.ses = true → addr < 2 ^ 24 → ws ≠ [] → ws.length ≤ 256 → blockOk addr ws.length = true →
        (∀ e ∈ blockWords addr ws, addrOk e.1 = true ∧ valueStatus e.1 e.2 = .ok) →
      waits (.writeBlock k addr ws) (.regs 4 (blockWords addr ws)))
    ∧ (∀ addr ws, s.isOwner k.ses = false → refuses (.writeBlock k addr ws) 4 .denied)
    ∧ (∀ addr ws, s.isOwner k.ses = true → ws ≠ [] → ws.length ≤ 256 → blockOk (addr % 2 ^ 24) ws.length = false →
      refuses (.writeBlock k addr ws) 4 .badAddr)
    ∧ (∀ tid ti idx ws, s.isOwner k.ses = true → tableInfo tid = some ti → tableStatus ti idx ws = .ok →
        ((tid = 0x2102 ∨ tid = 0x2202) → s.forceOk tid ws = true) →
      waits (.tableWrite k tid idx ws) (.table tid idx ws 0))
    ∧ (∀ tid ti idx ws, s.isOwner k.ses = true → tableInfo tid = some ti → tableStatus ti idx ws ≠ .ok →
      refuses (.tableWrite k tid idx ws) 6 (tableStatus ti idx ws))
    ∧ (∀ tid idx ws, s.isOwner k.ses = false → refuses (.tableWrite k tid idx ws) 6 .denied)
    ∧ (∀ tid idx ws, s.isOwner k.ses = true → tableInfo tid = none → refuses (.tableWrite k tid idx ws) 6 .badTable)

/-- R430: a CMD of CANCEL, SOLVE, ABORT or PRIV_REQ from the owner, with as many arguments as its code takes, a TAG no outstanding command of
the session has, and fewer than 64 commands and records in hand, is accepted, answered OK, and joins the commands in their order; nothing
else happens until its tick. Otherwise DENIED, RANGE or BUSY is answered and no command is kept. Completion of CANCEL, SOLVE, ABORT,
PRIV_REQ. Where the spec leaves a choice or a reading, it is the model's (assumption 28). -/
def Obligations.CommandsAreAcceptedInOrder : Prop :=
  ∀ (k : Kwp) (tag : Nat) (args : List Word) (s : State), s.admits k → s.standbyOwnSes k.ses = false →
    ∀ e ∈ [(Instr.cancel k tag args, 0x0B00), (.solve k tag args, 0x2500), (.abort k tag args, 0x2501), (.privReq k tag args, 0x2600)],
      let bad := argsFit e.2 args.length = false
        ∨ ∃ c ∈ s.host.cmds, c.ses = k.ses ∧ c.gen = (s.sess k.ses).gen ∧ c.tag = tag
      let refuses := fun (st : Status) => runs e.1 s (fun t =>
        s.replied t k 7 st [] ∧ t.host.cmds = s.host.cmds ∧ (s.taken k).onlyIn t [.host, .items, .sent])
      (s.isOwner k.ses = true → ¬ bad → s.outstanding k.ses + (s.sess k.ses).cq.length < 64 →
        runs e.1 s (fun t => s.replied t k 7 .ok []
          ∧ t.host.cmds = s.host.cmds ++ [⟨k.ses, (s.sess k.ses).gen, tag, e.2, args, false⟩]
          ∧ (s.taken k).onlyIn t [.host, .items, .sent]))
      ∧ (s.isOwner k.ses = false → refuses .denied)
      ∧ (s.isOwner k.ses = true → bad → refuses .range)
      ∧ (s.isOwner k.ses = true → ¬ bad → 64 ≤ s.outstanding k.ses + (s.sess k.ses).cq.length → refuses .busy)

/-- CQ_READ returns and removes the oldest records, up to MAX (R431); NOTIFY_CFG acts at once (R434); DORMANT makes the session dormant, and
from the owner with DORM_MAX 0 it ends ownership at the next tick (R443); RESUME ends dormancy, sends one aggregate NOTIFY before its
response, empties the items and renews the owner's lease (R444); CLOSE answers, frees the session and, where it was the owner's, leaves no
session the owner (R426, R441). KICK closes the session named in HOST_CMD_ARG, and has no effect on the writer's own session (R426).
NOTIFY_SEND sends one NOTIFY with the session's next NSEQ, empties its items and counts HOST_NOTIFY_CNT once the items number MOD_CNT or the
oldest has waited MOD_DLY (R434, R435); WAKE_ON_LAN sends one magic packet for a dormant session that holds an event item of its WAKE_SEV or
above and has not been considered, at most once in WOL_HOLDOFF seconds (R445); otherwise the two send nothing. Of a pair's modules only the
active one sends from a service address (R446). Completion of CQ_READ, NOTIFY_CFG, DORMANT, RESUME,
CLOSE, KICK, NOTIFY_SEND, WAKE_ON_LAN. Where the spec leaves a choice or a reading, it is the model's (assumptions 23, 28). -/
def Obligations.SessionRequestsAct : Prop :=
  (
    ∀ (k : Kwp) (s : State), s.admits k →
      (∀ n, 1 ≤ n → n ≤ 16 → runs (.cqRead k n) s (fun t =>
        s.replied t k 8 .ok (BitVec.ofNat 32 ((s.sess k.ses).cq.take n).length :: ((s.sess k.ses).cq.take n).flatten)
          ∧ (t.sess k.ses).cq = (s.sess k.ses).cq.drop n ∧ (s.taken k).onlyIn t [.host, .items, .sent]))
      ∧ (∀ n, n = 0 ∨ 16 < n → runs (.cqRead k n) s (fun t =>
        s.replied t k 8 .range [] ∧ (t.sess k.ses).cq = (s.sess k.ses).cq ∧ (s.taken k).onlyIn t [.host, .items, .sent]))
      ∧ (∀ cnt dly mask us, 1 ≤ cnt → cnt ≤ 64 → dly ≤ 1000000 → runs (.notifyCfg k cnt dly mask us) s (fun t =>
        s.replied t k 9 .ok [] ∧ (t.sess k.ses).modCnt = cnt ∧ (t.sess k.ses).modDly = dly ∧ (t.sess k.ses).pageMask = mask
          ∧ (s.taken k).onlyIn t [.host, .items, .sent]))
      ∧ (∀ cnt dly mask us, cnt = 0 ∨ 64 < cnt ∨ 1000000 < dly → runs (.notifyCfg k cnt dly mask us) s (fun t =>
        s.replied t k 9 .range [] ∧ (t.sess k.ses).modCnt = (s.sess k.ses).modCnt ∧ (t.sess k.ses).pageMask = (s.sess k.ses).pageMask
          ∧ (s.taken k).onlyIn t [.host, .items, .sent]))
      ∧ (∀ sev mac, runs (.dormant k sev mac) s (fun t =>
        s.replied t k 14 .ok [] ∧ (t.sess k.ses).st = 3 ∧ (t.sess k.ses).wakeSev = sev ∧ (t.sess k.ses).hostMac = mac
          ∧ t.host.owner = s.host.owner
          ∧ (s.isOwner k.ses = true → s.fld ⟨0xB054, 16, 16⟩ = 0 → t.host.endNext = true)
          ∧ (s.isOwner k.ses = false → t.host.endNext = s.host.endNext)
          ∧ (s.taken k).onlyIn t [.host, .items, .sent]))
      ∧ (∀ us, runs (.resume k us) s (fun t =>
        (∃ n, t.sent = s.sent ++ s.says k.svc n ++ s.says k.svc (.resp k.ses ((s.sess k.ses).txSeq + 1) ⟨k.reqId, 15, .ok, []⟩)
          ∧ ∃ nseq lost cq src fno codes, n = .notify k.ses (s.sess k.ses).txSeq nseq true lost cq src fno codes
            ∧ nseq = ((s.sess k.ses).nseq + 1) % 2 ^ 32 ∧ cq = (s.sess k.ses).cq.length)
          ∧ (t.sess k.ses).st = 2 ∧ (t.sess k.ses).items = []
          ∧ (s.isOwner k.ses = true → t.host.leaseAt = s.fno) ∧ (s.isOwner k.ses = false → t.host.leaseAt = s.host.leaseAt)))
      ∧ runs (.closeReq k) s (fun t =>
        s.replied t k 16 .ok [] ∧ (t.sess k.ses).st = 0 ∧ t.bit (bitAt 0xB010 4) = true
          ∧ (s.host.owner = some k.ses → t.host.closing = true) ∧ (s.host.owner ≠ some k.ses → t.host.closing = s.host.closing)))
  ∧ (
    ∀ (s : State),
      (∀ w, s.fld ⟨0xB048, 0, 3⟩ = w → exec (.kick w) s = .next s)
      ∧ (∀ w, s.fld ⟨0xB048, 0, 3⟩ ≠ w → runs (.kick w) s (fun t => (t.sess (s.fld ⟨0xB048, 0, 3⟩)).st = 0
          ∧ ∀ j, j ≠ s.fld ⟨0xB048, 0, 3⟩ → (t.sess j).st = (s.sess j).st))
      ∧ (∀ i us, (s.sess i).st = 2 → (s.sess i).items ≠ [] →
          (s.sess i).modCnt ≤ (s.sess i).items.length ∨ (s.sess i).modDly ≤ s.usAt us - (s.sess i).oldestAt →
          runs (.notifySend i us) s (fun t => (t.sess i).items = [] ∧ (t.sess i).nseq = ((s.sess i).nseq + 1) % 2 ^ 32
            ∧ (∃ lost src codes, t.sent = s.sent ++ s.says (s.sess i).svc
                (.notify i (s.sess i).txSeq (((s.sess i).nseq + 1) % 2 ^ 32) false lost (s.sess i).cq.length src s.fno codes))
            ∧ t.fld ⟨0xB118, 0, 32⟩ = (s.fld ⟨0xB118, 0, 32⟩ + 1) % 2 ^ 32 ∧ s.onlyIn t [.regs, .host, .items, .sent]))
      ∧ (∀ i us, (s.sess i).st ≠ 2 ∨ (s.sess i).items = [] → exec (.notifySend i us) s = .next s)
      ∧ (∀ i, (s.sess i).st = 3 → (s.sess i).wakeSev ≤ 7 →
          (∃ c, .event c ∈ (s.sess i).items.drop (s.sess i).woke ∧ (s.sess i).wakeSev ≤ s.severity c) →
          (∀ f, (s.sess i).wolLast = some f → s.fld ⟨0xB058, 0, 16⟩ * 1000 ≤ s.since f) →
          runs (.wakeOnLan i) s (fun t => t.sent = s.sent ++ s.says (s.sess i).svc (.wol i (s.sess i).hostMac) ∧ (t.sess i).wolLast = some s.fno
            ∧ s.onlyIn t [.regs, .host, .items, .sent]))
      ∧ (∀ i, (s.sess i).st ≠ 3 → exec (.wakeOnLan i) s = .next s)
      ∧ (∀ i, (s.sess i).st = 3 → 8 ≤ (s.sess i).wakeSev →
          runs (.wakeOnLan i) s (fun t => t.sent = s.sent ∧ s.onlyIn t [.host, .items])))

/-- R437: an OWN_REQ completes with AUTH_FAIL if the credential lacks MAY_OWN, if PRIO exceeds MAX_PRIO, or if OVERRIDE is 1 and the credential
lacks OVERRIDE; in a pair with REFUSED on sessions 6 and 7; from the current owner it completes OK at once and renews the lease. Any other OWN_REQ, and OWN_RENEW, OWN_HANDOVER and OWN_RELEASE from the owner, wait for their tick in the
order received and change no ownership on receipt; the last three are DENIED to a session that is not the owner. Completion of OWN_REQ,
OWN_RENEW, OWN_HANDOVER, OWN_RELEASE. -/
def Obligations.OwnershipRequestsWait : Prop :=
  ∀ (k : Kwp) (s : State), s.admits k →
    let waits := fun (c : Instr) (op : HOp) => runs c s (fun t =>
      t.host.ownQ = s.host.ownQ ++ [⟨k.ses, (s.sess k.ses).gen, k.reqId, op⟩] ∧ t.sent = s.sent ∧ t.host.owner = s.host.owner
        ∧ k.reqId ∈ (t.sess k.ses).inflight ∧ (s.taken k).onlyIn t [.host, .items])
    let answers := fun (c : Instr) (op : Nat) (st : Status) (data : List Word) => runs c s (fun t =>
      s.replied t k op st data ∧ t.host.ownQ = s.host.ownQ ∧ t.host.owner = s.host.owner ∧ (s.taken k).onlyIn t [.host, .items, .sent])
    (∀ prio ovr, ovr ≤ 1 → s.mayOwn k.ses = true → prio ≤ s.maxPrio k.ses → (ovr = 1 → s.mayOverride k.ses = true) →
        s.cfg.pair = false ∨ k.ses < 6 →
      (s.isOwner k.ses = false → waits (.ownReq k prio ovr) (.ownReq prio (ovr == 1)))
      ∧ (s.isOwner k.ses = true → answers (.ownReq k prio ovr) 10 .ok [s.ownerWord]
          ∧ runs (.ownReq k prio ovr) s (fun t => t.host.leaseAt = s.fno)))
    ∧ (∀ prio ovr, (s.mayOwn k.ses = false ∨ s.maxPrio k.ses < prio ∨ (ovr = 1 ∧ s.mayOverride k.ses = false)) →
      answers (.ownReq k prio ovr) 10 .authFail [s.ownerWord])
    ∧ (∀ prio ovr, 1 < ovr → s.mayOwn k.ses = true → prio ≤ s.maxPrio k.ses → answers (.ownReq k prio ovr) 10 .range [s.ownerWord])
    ∧ (∀ prio ovr, ovr ≤ 1 → s.mayOwn k.ses = true → prio ≤ s.maxPrio k.ses → (ovr = 1 → s.mayOverride k.ses = true) →
        s.cfg.pair = true → (k.ses = 6 ∨ k.ses = 7) →
      answers (.ownReq k prio ovr) 10 .refused [s.ownerWord])
    ∧ (s.isOwner k.ses = true → waits (.ownRenew k) .renew ∧ waits (.ownRelease k) .release
        ∧ ∀ dst, waits (.ownHandover k dst) (.handover dst))
    ∧ (s.isOwner k.ses = false → answers (.ownRenew k) 11 .denied [] ∧ answers (.ownRelease k) 13 .denied []
        ∧ ∀ dst, answers (.ownHandover k dst) 12 .denied [])

/-- R438: among the requests that take part the highest PRIO wins, and the lowest session number wins a tie. R438 to R442: at a tick without an
owner the best request wins; an owner is replaced only by an OVERRIDE request of a PRIO above its own, which raises PREEMPTED, by the
handover to an open session whose credential may own, or after its release, its lapse or the closing of its session; with nothing waiting it
stays; a dormant owner's session closes first at the tick at which DORM_MAX falls (R443). No ownership request waits afterwards. LEASE_LAPSED at a tick at which the lease lapses, with no release waiting, ends ownership and
raises LEASE_LAPSED. Completion of OWNERSHIP_RESOLVE, LEASE_LAPSED. Where the spec leaves a choice or a reading, it is the model's
(assumptions 4, 25). -/
def Obligations.OwnershipResolvesAtTheTick : Prop :=
  (
    ∀ l : List (HReq × Nat), (l ≠ [] → ∃ q p, bestReq l = some (q, p))
      ∧ ∀ q p, bestReq l = some (q, p) → (q, p) ∈ l ∧ ∀ e ∈ l, e.2 < p ∨ (e.2 = p ∧ q.ses ≤ e.1.ses))
  ∧ (
    (∀ s : State, runs .ownershipResolve s (fun t => t.host.ownQ = [] ∧ t.pending = s.pending))
    ∧ (∀ (s : State) (q : HReq) (p : Nat), s.host.owner = none → s.host.closing = false → s.host.endNext = false →
        bestReq (s.ownReqs.map (fun e => (e.1, e.2.1))) = some (q, p) →
      runs .ownershipResolve s (fun t => t.host.owner = some q.ses ∧ t.host.prio = p ∧ t.host.leaseAt = s.fno
        ∧ t.bit (bitAt 0xB010 0) = true))
    ∧ (∀ s : State, s.host.owner = none → s.host.closing = false → s.host.endNext = false → s.ownReqs = [] →
      runs .ownershipResolve s (fun t => t.host.owner = none))
    ∧ (∀ (s : State) (o : Nat), s.host.owner = some o → s.host.closing = false → s.host.endNext = false → s.host.ownQ = [] →
        (s.dormOver o = true → runs .ownershipResolve s (fun t => t.host.owner = none ∧ (t.sess o).st = 0 ∧ t.bit (bitAt 0xB010 4) = true))
        ∧ (s.dormOver o = false → s.lapses = false →
          runs .ownershipResolve s (fun t => t.host.owner = some o ∧ t.host.prio = s.host.prio))
        ∧ (s.lapses = true → runs .ownershipResolve s (fun t => t.host.owner = none ∧ t.bit (bitAt 0xB010 1) = true)))
    ∧ (∀ (s : State) (o : Nat) (q : HReq) (p : Nat), s.host.owner = some o → s.host.closing = false → s.host.endNext = false →
        s.ownQOf (fun op => op == .release) = none → s.lapses = false → s.dormOver o = false → q.ses ≠ o →
        bestReq ((s.ownReqs.filter (fun e => e.2.2 && decide (s.host.prio < e.2.1))).map (fun e => (e.1, e.2.1))) = some (q, p) →
      runs .ownershipResolve s (fun t => t.host.owner = some q.ses ∧ t.host.prio = p ∧ t.bit (bitAt 0xB010 2) = true))
    ∧ (∀ (s : State) (o : Nat), s.host.owner = some o → s.host.closing = false → s.host.endNext = false →
        (∃ q, s.host.ownQ = [q] ∧ q.ses = o ∧ q.gen = (s.sess o).gen ∧ q.op = .release) →
      runs .ownershipResolve s (fun t => t.host.owner = none))
    ∧ (∀ (s : State) (o dst : Nat), s.host.owner = some o → s.host.closing = false → s.host.endNext = false → s.lapses = false →
        s.dormOver o = false → (∃ q, s.host.ownQ = [q] ∧ q.ses = o ∧ q.gen = (s.sess o).gen ∧ q.op = .handover dst) →
        ((dst ≠ o → (s.sess dst).st = 2 → s.mayOwn dst = true →
          runs .ownershipResolve s (fun t => t.host.owner = some dst ∧ t.host.prio = min s.host.prio (s.maxPrio dst) ∧ t.host.leaseAt = s.fno))
        ∧ (dst = o ∨ (s.sess dst).st ≠ 2 ∨ s.mayOwn dst = false →
          runs .ownershipResolve s (fun t => t.host.owner = some o ∧ t.host.leaseAt = s.host.leaseAt))))
    ∧ (∀ s : State, s.host.closing = false → s.host.endNext = false → s.lapses = true →
        s.ownQOf (fun op => op == .release) = none →
      runs .leaseLapsed s (fun t => t.host.owner = none ∧ t.bit (bitAt 0xB010 1) = true ∧ t.bit (bitAt 0xB010 0) = true))
    ∧ (∀ s : State, s.host.closing = false → s.host.endNext = false → s.lapses = false → exec .leaseLapsed s = .next s))

/-- R425, R426, R443: an OPEN of a defined credential with a new nonce opens the lowest free session of the address's range and answers
OPEN_ACK; with no free session BUSY, with OPEN_EN 0 REFUSED, and with a nonce seen before nothing but the count. A session still opening
2,000 ms after its OPEN_ACK is freed without an event; an open session that has been idle for SESS_IDLE seconds and a dormant one after
DORM_MAX seconds close with SESS_CLOSED; before that the three timeouts change nothing. Completion of OPEN, SESSION_OPENING_TIMEOUT,
SESSION_IDLE_TIMEOUT, DORMANCY_TIMEOUT. Where the spec leaves a choice or a reading, it is the model's (assumptions 3, 23, 28). -/
def Obligations.SessionsOpenAndTimeOut : Prop :=
  (∀ (o : KwpOpen) (s : State), s.addressed o.port o.svc = true → o.fmtOk = true → s.portOn o.port = true → o.tagOk = true → s.credOk o.cred = true →
    (o.hNonce ∈ s.noncesOf o.cred → exec (.kwpOpen o) s = .next (s.bump .HOST_RX_OK))
    ∧ (o.hNonce ∉ s.noncesOf o.cred → s.bit (bitAt 0xB040 3) = false → runs (.kwpOpen o) s (fun t =>
        t.sent = s.sent ++ s.says o.svc (.openAck .refused 0xFF o.hNonce o.dNonce (s.addrKind o.svc)) ∧ s.onlyIn t [.regs, .host, .items, .sent]
          ∧ t.host.sess = s.host.sess))
    ∧ (o.hNonce ∉ s.noncesOf o.cred → s.bit (bitAt 0xB040 3) = true → s.freeSess o.svc = none → runs (.kwpOpen o) s (fun t =>
        t.sent = s.sent ++ s.says o.svc (.openAck .busy 0xFF o.hNonce o.dNonce (s.addrKind o.svc)) ∧ s.onlyIn t [.regs, .host, .items, .sent]
          ∧ t.host.sess = s.host.sess))
    ∧ (∀ i, o.hNonce ∉ s.noncesOf o.cred → s.bit (bitAt 0xB040 3) = true → s.freeSess o.svc = some i → s.host.sess.length = 8 →
        runs (.kwpOpen o) s (fun t =>
          t.sent = s.sent ++ s.says o.svc (.openAck .ok i o.hNonce o.dNonce (s.addrKind o.svc)) ∧ (t.sess i).st = 1 ∧ (t.sess i).cred = o.cred
            ∧ (t.sess i).port = o.port ∧ (t.sess i).svc = o.svc ∧ (t.sess i).since = s.fno ∧ o.hNonce ∈ t.noncesOf o.cred
            ∧ (∀ j, j ≠ i → t.sess j = s.sess j) ∧ s.onlyIn t [.regs, .host, .items, .sent])))
  ∧ ∀ (i : Nat) (s : State),
    ((s.sess i).st = 1 → 2000 ≤ s.since (s.sess i).since → runs (.sessionOpeningTimeout i) s (fun t =>
      (t.sess i).st = 0 ∧ t.regs = s.regs ∧ t.sent = s.sent))
    ∧ ((s.sess i).st ≠ 1 ∨ s.since (s.sess i).since < 2000 → exec (.sessionOpeningTimeout i) s = .next s)
    ∧ ((s.sess i).st = 2 → s.fld ⟨0xB054, 0, 16⟩ * 1000 ≤ s.since (s.sess i).lastRx → runs (.sessionIdleTimeout i) s (fun t =>
      (t.sess i).st = 0 ∧ t.bit (bitAt 0xB010 4) = true ∧ t.sent = s.sent
        ∧ (s.host.owner = some i → t.host.closing = true)))
    ∧ ((s.sess i).st ≠ 2 ∨ s.since (s.sess i).lastRx < s.fld ⟨0xB054, 0, 16⟩ * 1000 → exec (.sessionIdleTimeout i) s = .next s)
    ∧ ((s.sess i).st = 3 → s.fld ⟨0xB054, 16, 16⟩ * 1000 ≤ s.since (s.sess i).since → runs (.dormancyTimeout i) s (fun t =>
      (t.sess i).st = 0 ∧ t.bit (bitAt 0xB010 4) = true ∧ t.sent = s.sent
        ∧ (s.host.owner = some i → t.host.closing = true)))
    ∧ ((s.sess i).st ≠ 3 ∨ s.since (s.sess i).since < s.fld ⟨0xB054, 16, 16⟩ * 1000 → exec (.dormancyTimeout i) s = .next s)

/-! ## Interrupts and the event recorder -/

/-- R400: each of the seven writes changes the one source it names, by an engine's or the owner's hand; source 0x000 has no effect, a reserved
source (and an owner's doorbell outside 0x300 to 0x3FF) has none either, and an engine's is counted in ICU_BAD_DB and raises
DOORBELL_REFUSED. A signal of a disabled source is ignored (R399); of an enabled one it sets PENDING and counts up to 255, where OVF is set.
R403 to R405: a claim returns the source presented with its count, OVF and PRIO, clears PENDING, COUNT and OVF, sets CLAIMED and pushes the
source; with nothing presented it returns 0 and counts ICU_SPUR_CNT. A completion of the top source pops it and clears CLAIMED; one of 0x000
or on a frozen stack has no effect; any other freezes the stack and raises STACK_FAULT. A reset empties the stack, clears FAULT and CLAIMED
of every source on it. R402: after a re-evaluation with ICU_CTRL.EN set, the source presented to a target is eligible and no eligible source
has a higher PRIO; nothing is presented only when none is eligible. With EN clear nothing is presented (R399). Completion of ICU_DOORBELL,
ICU_EN_SET, ICU_EN_CLR, ICU_MASK_SET, ICU_MASK_CLR, ICU_PEND_SET, ICU_PEND_CLR, ICU_CLAIM, ICU_EOI, ICU_STACK_RESET. Where the spec leaves a
choice or a reading, it is the model's (assumption 27). -/
def Obligations.InterruptSourcesAndClaims : Prop :=
  (
    ∀ (eng : Option Nat) (src : Nat) (s : State),
      let all := [Instr.icuDoorbell eng src, .icuEnSet eng src, .icuEnClr eng src, .icuMaskSet eng src, .icuMaskClr eng src,
        .icuPendSet eng src, .icuPendClr eng src]
      let frame := fun (t : State) => s.tblBut t (fun tid i _ => tid = 0x0700 ∧ i = src) ∧ s.regsBut t icuReg
        ∧ s.onlyIn t [.regs, .tbl, .icu, .items] ∧ t.icu.stack = s.icu.stack
      (src = 0 → ∀ c ∈ all, exec c s = .next s)
      ∧ (src ≠ 0 → srcReserved src = true → eng = none → ∀ c ∈ all, exec c s = .next s)
      ∧ (src ≠ 0 → srcReserved src = true → eng ≠ none → ∀ c ∈ all, exec c s = .next ((s.bump .ICU_BAD_DB).raiseEv 7 1))
      ∧ (src ≠ 0 → src < 0x300 → eng = none → exec (.icuDoorbell eng src) s = .next s)
      ∧ (srcReserved src = false →
        runs (.icuEnSet eng src) s (fun t => t.trd 0x0700 src 0 = wput (s.trd 0x0700 src 0) 31 1 1 ∧ frame t)
        ∧ runs (.icuEnClr eng src) s (fun t => t.srcFld src 31 1 = 0 ∧ t.srcFld src 29 1 = 0 ∧ t.srcFld src 28 1 = s.srcFld src 28 1
            ∧ t.srcFld src 30 1 = s.srcFld src 30 1 ∧ t.srcFld src 0 28 = s.srcFld src 0 28 ∧ frame t)
        ∧ runs (.icuMaskSet eng src) s (fun t => t.trd 0x0700 src 0 = wput (s.trd 0x0700 src 0) 30 1 1 ∧ frame t)
        ∧ runs (.icuMaskClr eng src) s (fun t => t.trd 0x0700 src 0 = wput (s.trd 0x0700 src 0) 30 1 0 ∧ frame t)
        ∧ runs (.icuPendClr eng src) s (fun t => t.trd 0x0700 src 0 = wput (s.trd 0x0700 src 0) 29 1 0 ∧ frame t)
        ∧ ∀ c ∈ [Instr.icuPendSet eng src] ++ (if eng ≠ none ∨ 0x300 ≤ src then [.icuDoorbell eng src] else []),
            (s.srcFld src 31 1 = 0 → exec c s = .next s)
            ∧ (s.srcFld src 31 1 = 1 → runs c s (fun t => t.srcFld src 29 1 = 1
                ∧ t.srcFld src 0 8 = min 255 (s.srcFld src 0 8 + 1)
                ∧ (254 ≤ s.srcFld src 0 8 → t.srcFld src 15 1 = 1) ∧ (s.srcFld src 0 8 < 254 → t.srcFld src 15 1 = s.srcFld src 15 1)
                ∧ t.srcFld src 16 12 = s.srcFld src 16 12 ∧ t.srcFld src 30 2 = s.srcFld src 30 2 ∧ frame t))))
  ∧ (
    ∀ (t : Nat) (s : State), t < 13 → s.icu.stack.length = 13 → s.icu.pres.length = 13 →
      (∀ src, s.icu.pres.getD t 0 = src → src ≠ 0 → src < 0x400 → runs (.icuClaim t) s (fun u =>
        (∃ v : Word, u.sent = s.sent ++ [.claimed t v] ∧ wbits v 0 10 = src ∧ wbits v 16 4 = s.srcFld src 24 4
          ∧ wbits v 23 1 = s.srcFld src 15 1 ∧ wbits v 24 8 = s.srcFld src 0 8)
        ∧ u.srcFld src 29 1 = 0 ∧ u.srcFld src 28 1 = 1 ∧ u.srcFld src 0 8 = 0 ∧ u.srcFld src 15 1 = 0
        ∧ u.srcFld src 16 12 = s.srcFld src 16 12 ∧ u.icu.stack.getD t [] = src :: s.icu.stack.getD t []
        ∧ s.tblBut u (fun tid i _ => tid = 0x0700 ∧ i = src) ∧ s.regsBut u icuReg ∧ s.onlyIn u [.regs, .tbl, .icu, .items, .sent]))
      ∧ (s.icu.pres.getD t 0 = 0 → runs (.icuClaim t) s (fun u => u = (s.bump .ICU_SPUR).emit (.claimed t 0)))
      ∧ (∀ src, src = 0 ∨ s.stackFrozen t = true → exec (.icuEoi t src) s = .next s)
      ∧ (∀ src, src ≠ 0 → src < 0x400 → s.stackFrozen t = false → (s.icu.stack.getD t []).head? = some src → runs (.icuEoi t src) s (fun u =>
        u.icu.stack.getD t [] = (s.icu.stack.getD t []).tail ∧ u.srcFld src 28 1 = 0 ∧ u.srcFld src 0 28 = s.srcFld src 0 28
        ∧ s.tblBut u (fun tid i _ => tid = 0x0700 ∧ i = src) ∧ s.regsBut u icuReg ∧ s.onlyIn u [.regs, .tbl, .icu, .items]))
      ∧ (∀ src, src ≠ 0 → s.stackFrozen t = false → (s.icu.stack.getD t []).head? ≠ some src → runs (.icuEoi t src) s (fun u =>
        u.stackFrozen t = true ∧ u.icu.stack = s.icu.stack ∧ u.bit (bitAt 0x7010 0) = true
        ∧ s.onlyIn u [.regs, .tbl, .items, .icu, .evr]))
      ∧ ((∀ src ∈ s.icu.stack.getD t [], src < 0x400) → runs (.icuStackReset t) s (fun u =>
        u.icu.stack.getD t [] = [] ∧ u.stackFrozen t = false ∧ (∀ src ∈ s.icu.stack.getD t [], u.srcFld src 28 1 = 0)
        ∧ (∀ src, src < 0x400 → u.srcFld src 0 28 = s.srcFld src 0 28)
        ∧ (∀ t', t' ≠ t → u.icu.stack.getD t' [] = s.icu.stack.getD t' [])
        ∧ s.regsBut u (fun a => icuReg a ∨ a = 0x7060) ∧ s.onlyIn u [.regs, .tbl, .icu, .items])))
  ∧ (
    ∀ (s : State) (t : Nat), t < 13 → s.icu.pres.length = 13 →
      (s.bit (bitAt 0x7040 0) = false → s.icuEval.icu.pres.getD t 0 = 0)
      ∧ (s.bit (bitAt 0x7040 0) = true → s.icuEval.icu.pres.getD t 0 = 0 →
          ∀ src, src ≠ 0 → src < 0x400 → s.icuEval.eligible t src = false)
      ∧ (∀ p, s.bit (bitAt 0x7040 0) = true → s.icuEval.icu.pres.getD t 0 = p → p ≠ 0 →
          s.icuEval.eligible t p = true
          ∧ ∀ src, src ≠ 0 → src < 0x400 → s.icuEval.eligible t src = true → s.icuEval.srcFld src 24 4 ≤ s.icuEval.srcFld p 24 4))

/-- R57: an event sets its PENDING bit, masked or not, and counts in PG_EVT_CNT, kind S; it signals the page summary source exactly when the bit
was not pending and is not masked; nothing else of the page's registers is touched. R409, R412, R417: E11 commits the events of the intake
queue whose snapshots are taken, at most 64 records in a frame; an event without a due summary takes one record at EVR_NEXT, which holds its
time, code, kind and frame and its snapshot words, and EVR_NEXT goes up by one. R410: a bucket below BURST gains one token when PERIOD
frames have passed since its last gain, and not before. R414, R415, R411: FREEZE sets FROZEN and records the tick's TAI seconds, and has no
effect while frozen; UNFREEZE ends the freeze; CLEAR has effect only while frozen, and then empties the recorder; CLR_SUPP clears SUPP and
SUPP_AT_LAST of every code and of the default bucket; a freeze that has lasted FRZ_TMO seconds ends and raises FRZ_EXPIRED. Completion of
EVR_RECORD_COMMIT, EVR_TOKEN_REFILL, EVR_FREEZE, UNFREEZE, CLEAR, CLR_SUPP, FRZ_EXPIRED. Where the spec leaves a choice or a reading, it is
the model's (assumptions 29, 30). -/
def Obligations.EventsAndTheRecorder : Prop :=
  (
    ∀ (s : State) (p b : Nat), p < 256 → p ≠ 8 → b < 32 →
      (s.raiseEv p b).bit (bitAt (addrOf p 0x10) b) = true
      ∧ (∀ i, i < 32 → i ≠ b → (s.raiseEv p b).bit (bitAt (addrOf p 0x10) i) = s.bit (bitAt (addrOf p 0x10) i))
      ∧ (s.raiseEv p b).fld ⟨addrOf p 0x28, 0, 16⟩ = min 65535 (s.fld ⟨addrOf p 0x28, 0, 16⟩ + 1)
      ∧ (65534 ≤ s.fld ⟨addrOf p 0x28, 0, 16⟩ → (s.raiseEv p b).bit (bitAt (addrOf p 0x28) 31) = true)
      ∧ (s.bit (bitAt (addrOf p 0x10) b) = true ∨ s.bit (bitAt (addrOf p 0x1C) b) = true →
          (s.raiseEv p b).trd 0x0700 (0x100 + p) 0 = s.trd 0x0700 (0x100 + p) 0)
      ∧ (s.bit (bitAt (addrOf p 0x10) b) = false → s.bit (bitAt (addrOf p 0x1C) b) = false → s.srcFld (0x100 + p) 31 1 = 1 →
          (s.raiseEv p b).srcFld (0x100 + p) 29 1 = 1 ∧ (s.raiseEv p b).srcFld (0x100 + p) 0 8 = min 255 (s.srcFld (0x100 + p) 0 8 + 1))
      ∧ s.regsBut (s.raiseEv p b) (evReg p) ∧ s.onlyIn (s.raiseEv p b) evParts)
  ∧ (
    (∀ s : State, s.evr.intake = [] → runs .evrRecordCommit s (fun t => t.tbl = s.tbl ∧ t.evrNext = s.evrNext ∧ t.evr = s.evr))
    ∧ (∀ s : State, s.evrNext ≤ 98304 → runs .evrRecordCommit s (fun t => s.evrNext ≤ t.evrNext ∧ t.evrNext ≤ s.evrNext + 64
        ∧ s.onlyIn t [.regs, .tbl, .evr]))
    ∧ (∀ (s : State) (e : Intake) (ws : List Word), s.evr.intake = [e] → e.summary = none → e.snap = some ws → ws.length ≤ 16 →
        e.codeRec = none → s.evrNext < 98304 →
        runs .evrRecordCommit s (fun t => t.evr.intake = [] ∧ t.evrNext = s.evrNext + 1
          ∧ (∀ w, w < 4 → t.trd 0x0800 s.evrNext w = (recHead e e.kind ws.length).getD w 0)
          ∧ (∀ w, w < 16 → t.trd 0x0800 s.evrNext (4 + w) = ws.getD w 0)
          ∧ s.tblBut t (fun tid i _ => tid = 0x0800 ∧ i = s.evrNext)))
    ∧ (∀ (s : State) (e : Intake), s.evr.intake = [e] → e.snap = none →
        runs .evrRecordCommit s (fun t => t.evr.intake = [e] ∧ t.evrNext = s.evrNext ∧ t.tbl = s.tbl))
    ∧ ∀ (s : State) (k : Nat), (k < 1024 ∧ s.tfld 0x0801 k 0 31 1 = 1) ∨ k = 1024 →
        (s.evrPeriod k ≠ 0 → s.evrTokens k < s.evrBurst k → s.evrPeriod k ≤ s.since (s.evrGain k) →
          runs (.evrTokenRefill k) s (fun t => t.evrTokens k = s.evrTokens k + 1 ∧ t.evrGain k = s.fno
            ∧ (∀ j, j < 1024 → j ≠ k → t.evrTokens j = s.evrTokens j) ∧ s.onlyIn t [.regs, .tbl, .evr]))
        ∧ (s.evrPeriod k = 0 ∨ s.evrBurst k ≤ s.evrTokens k ∨ s.since (s.evrGain k) < s.evrPeriod k →
          exec (.evrTokenRefill k) s = .next s))
  ∧ (
    ∀ s : State,
      (s.bit (bitAt 0x8048 0) = true → exec .evrFreeze s = .next s)
      ∧ (s.bit (bitAt 0x8048 0) = false → runs .evrFreeze s (fun t => t.bit (bitAt 0x8048 0) = true ∧ t.rd 0x8054 = lo32 s.nowSec
          ∧ s.regsBut t (fun a => a = 0x8048 ∨ a = 0x8054) ∧ s.onlyIn t [.regs, .evr] ∧ t.evr.intake = s.evr.intake))
      ∧ runs .unfreeze s (fun t => t.bit (bitAt 0x8048 0) = false ∧ s.regsBut t (fun a => a = 0x8048) ∧ s.onlyIn t [.regs])
      ∧ (s.bit (bitAt 0x8048 0) = false → exec .evrClear s = .next s)
      ∧ (s.bit (bitAt 0x8048 0) = true → runs .evrClear s (fun t => t.evrNext = 0 ∧ t.evr.intake = [] ∧ t.bit (bitAt 0x8048 1) = false
          ∧ t.bit (bitAt 0x8048 0) = true ∧ s.regsBut t (fun a => a = 0x804C ∨ a = 0x8048 ∨ a = 0x807C) ∧ s.onlyIn t [.regs, .evr]))
      ∧ runs .clrSupp s (fun t => (∀ k, k ≤ 1024 → t.trd 0x0802 k 1 = 0) ∧ t.fld ⟨0x805C, 0, 16⟩ = 0
          ∧ s.tblBut t (fun tid _ w => tid = 0x0802 ∧ w = 1) ∧ s.regsBut t (fun a => a = 0x805C) ∧ s.onlyIn t [.regs, .tbl])
      ∧ (s.bit (bitAt 0x8048 0) = true → s.fld ⟨0x8050, 0, 12⟩ ≠ 0 → s.fld ⟨0x8050, 0, 12⟩ * 1000 ≤ s.since s.evr.frzAt →
          runs .frzExpired s (fun t => t.bit (bitAt 0x8048 0) = false ∧ t.bit (bitAt 0x8010 1) = true))
      ∧ (s.bit (bitAt 0x8048 0) = false ∨ s.fld ⟨0x8050, 0, 12⟩ = 0 ∨ s.since s.evr.frzAt < s.fld ⟨0x8050, 0, 12⟩ * 1000 →
          exec .frzExpired s = .next s))

/-! ## Registers and banks -/

/-- R47, R50, R59: a write of a plain register of a page that is not locked sets its RW fields, puts its RWS fields into the page's shadow and
sets SHADOW_DIRTY, and changes nothing of its RO fields or of any other register; with a value that is refused, or on a locked page and of a
register that LOCK does not leave writable, a write of any register changes nothing. A write of SEQ_CMD is the command whose bit it sets.
Completion of REGISTER_WRITE. Where the spec leaves a choice or a reading, it is the model's (assumptions 16, 21). -/
def Obligations.RegisterWriteByAccessType : Prop :=
  (∀ (a : Nat) (v : Word) (s : State), plainReg a = true →
    (valueStatus a v = .ok → s.locked (pageOf a) = false → hasAcc .rws a = false →
      runs (.registerWrite a v) s (fun t => t.rd a = accMerge .rw a (s.rd a) v ∧ s.regsBut t (fun x => x = a) ∧ s.onlyIn t [.regs]))
    ∧ (valueStatus a v = .ok → s.locked (pageOf a) = false → hasAcc .rws a = true → smSorted s.shadow = true →
      runs (.registerWrite a v) s (fun t => t.rd a = accMerge .rw a (s.rd a) v
        ∧ smFind t.shadow a = (if rwsPart a v = rwsPart a (t.rd a) then none else some (rwsPart a v))
        ∧ (∀ b, b ≠ a → smFind t.shadow b = smFind s.shadow b)
        ∧ t.bit (pgDirty (pageOf a)) = true
        ∧ s.regsBut t (fun x => x = a ∨ x = addrOf (pageOf a) 0x0C) ∧ s.onlyIn t [.regs, .shadow])))
  ∧ (∀ (a : Nat) (v : Word) (s : State), valueStatus a v ≠ .ok ∨ (s.locked (pageOf a) = true ∧ lockFree a = false) →
      exec (.registerWrite a v) s = .next s)
  ∧ ∀ s : State, s.locked 6 = false → exec (.registerWrite 0x6040 1) s = exec .seqVerify s
      ∧ exec (.registerWrite 0x6040 2) s = exec .seqSwitch s ∧ exec (.registerWrite 0x6040 4) s = exec .seqCancel s

/-- R57, R58, R60: PG_EVT_CLR clears the PENDING bits written as 1, whether or not the page is locked, but for an event raised at the same
tick, which wins; PG_MASK_SET and PG_MASK_CLR set and clear
mask bits; PG_EVT_SET raises each bit of the page written as 1; a clear field returns its counter and its flag to 0. Completion of
PG_EVT_SET, PG_EVT_CLR, PG_MASK_SET, PG_MASK_CLR, COUNTER_CLEAR. Where the spec leaves a choice or a reading, it is the model's (assumptions
20, 21). -/
def Obligations.EventMaskAndCounterWrites : Prop :=
  (∀ (p : Nat) (v : Word) (s : State), pageOk p = true →
    ((∀ e ∈ s.icu.fresh, e.1 = p → wbit v e.2.1 = false) →
      runs (.pgEvtClr p v) s (fun t => t.rd (addrOf p 0x10) = s.rd (addrOf p 0x10) &&& ~~~ v
        ∧ s.regsBut t (fun a => a = addrOf p 0x10) ∧ s.onlyIn t [.regs]))
    ∧ (∀ b, b < 32 → (∃ was, (p, b, was) ∈ s.icu.fresh) → wbit v b = true →
      runs (.pgEvtClr p v) s (fun t => t.bit (bitAt (addrOf p 0x10) b) = true))
    ∧ (s.locked p = false →
      runs (.pgMaskSet p v) s (fun t => t.rd (addrOf p 0x1C) = s.rd (addrOf p 0x1C) ||| v
        ∧ s.regsBut t (fun a => a = addrOf p 0x1C) ∧ s.onlyIn t [.regs])
      ∧ runs (.pgMaskClr p v) s (fun t => t.rd (addrOf p 0x1C) = s.rd (addrOf p 0x1C) &&& ~~~ v
        ∧ s.regsBut t (fun a => a = addrOf p 0x1C ∨ icuReg a)
        ∧ (s.rd (addrOf p 0x10) &&& s.rd (addrOf p 0x1C) &&& v = 0 → s.onlyIn t [.regs]))
      ∧ runs (.pgEvtSet p v) s (fun t => (∀ b, b < 32 → (b ∈ evtBits p v → t.bit (bitAt (addrOf p 0x10) b) = true)
          ∧ (b ∉ evtBits p v → p ≠ 8 → t.bit (bitAt (addrOf p 0x10) b) = s.bit (bitAt (addrOf p 0x10) b)))
        ∧ s.regsBut t (evReg p) ∧ s.onlyIn t evParts)
      ∧ (wbit v 31 = true → runs (.counterClear (addrOf p 0x28) v) s (fun t => t.rd (addrOf p 0x28) = 0
        ∧ s.regsBut t (fun a => a = addrOf p 0x28) ∧ s.onlyIn t [.regs])))
    ∧ (s.locked p = true → exec (.pgMaskSet p v) s = .next s ∧ exec (.pgMaskClr p v) s = .next s ∧ exec (.pgEvtSet p v) s = .next s))
  ∧ ∀ (c : Ctr) (v : Word) (s : State), c ∈ ctrsOf (pageOf c.clr.1) → c.kind = .S → c.clr.1 ≠ 0 → wbit v c.clr.2 = true →
      valueStatus c.clr.1 v = .ok → s.locked (pageOf c.clr.1) = false →
      runs (.counterClear c.clr.1 v) s (fun t => t.fld c.f = 0 ∧ t.bit (bitAt c.ovf.1 c.ovf.2) = false)

/-- R50, R51: COMMIT with AT_EN 0 copies the page's shadow at its tick, clears SHADOW_DIRTY and COMMIT_PEND and raises COMMITTED; with AT_EN 1
it is pending; a timed commit acts the same at its frame, and not before; DISCARD empties the page's shadow and cancels a pending commit.
Stated for a commit that no rule of its page rejects. R54, R55: FREEZE sets and clears FROZEN and the frame it counts from; after 1,000
frames FRZ_TMO ends it and raises its event; SRST on a page that has it discards the shadow and a pending commit, and clears the page's
events and their count before what the page's own chapter adds; a page without soft reset refuses it. Completion of COMMIT, TIMED_COMMIT,
DISCARD, FREEZE, FRZ_TMO, SRST. Where the spec leaves a choice or a reading, it is the model's (assumptions 11, 17, 18, 19). -/
def Obligations.BanksFreezeAndReset : Prop :=
  (
    ∀ (p : Nat) (s : State), pageOk p = true → ((pageInfo p).map (·.shadow)) = some true →
      (∀ v, s.locked p = false → wbit v 15 = false → valueStatus (addrOf p 0x2C) (wput (wput v 0 1 1) 1 1 0) = .ok →
          s.commitErr p = 0 →
        runs (.commit p v) s (fun t => (∀ e ∈ t.shadow, pageOf e.1 ≠ p) ∧ t.bit (pgPend p) = false ∧ t.bit (pgDirty p) = false
          ∧ t.bit (bitAt (addrOf p 0x10) 29) = true))
      ∧ (∀ v, s.locked p = false → wbit v 15 = true → valueStatus (addrOf p 0x2C) (wput (wput v 0 1 1) 1 1 0) = .ok →
        runs (.commit p v) s (fun t => t.shadow = s.shadow ∧ t.tshadow = s.tshadow ∧ t.bit (pgPend p) = true
          ∧ s.regsBut t (fun a => a = addrOf p 0x2C ∨ a = addrOf p 0x0C)))
      ∧ (s.commitIsDue p = true → s.commitErr p = 0 →
        runs (.timedCommit p) s (fun t => (∀ e ∈ t.shadow, pageOf e.1 ≠ p) ∧ t.bit (pgPend p) = false ∧ t.bit (pgDirty p) = false
          ∧ t.bit (bitAt (addrOf p 0x10) 29) = true))
      ∧ (s.commitIsDue p = false → exec (.timedCommit p) s = .next s)
      ∧ (s.locked p = false → valueStatus (addrOf p 0x2C) (wput (s.rd (addrOf p 0x2C)) 0 2 2) = .ok →
        runs (.discard p) s (fun t => t.shadow = s.shadow.filter (fun e => pageOf e.1 != p) ∧ t.bit (pgPend p) = false
          ∧ t.bit (pgDirty p) = false ∧ p ∉ t.commitDue ∧ s.regsBut t (fun a => a = addrOf p 0x2C ∨ a = addrOf p 0x0C)
          ∧ s.onlyIn t [.regs, .shadow, .tshadow, .commitDue])))
  ∧ (
    ∀ (p : Nat) (s : State), pageOk p = true →
      (∀ on, s.locked p = false → valueStatus (addrOf p 8) (wput (wput (s.rd (addrOf p 8)) 2 1 (b2n on)) 1 1 0) = .ok →
        runs (.freeze p on) s (fun t => t.frozen p = on ∧ (on = true → s.frozen p = false → t.frzFrom.lookup p = some t.fno)
          ∧ s.regsBut t (fun a => a = addrOf p 8 ∨ a = addrOf p 0x0C)))
      ∧ (∀ f, s.frzFrom.lookup p = some f → 1000 ≤ s.since f → runs (.frzTmo p) s (fun t => t.frozen p = false
          ∧ t.bit (bitAt (addrOf p 0x10) 30) = true))
      ∧ (∀ f, s.frzFrom.lookup p = some f → s.since f < 1000 → exec (.frzTmo p) s = .next s)
      ∧ (s.frzFrom.lookup p = none → exec (.frzTmo p) s = .next s)
      ∧ (((pageInfo p).map (·.srst)) = some false → exec (.srst p) s = .next s)
      ∧ (((pageInfo p).map (·.srst)) = some true → s.locked p = false →
          valueStatus (addrOf p 8) (wput (s.rd (addrOf p 8)) 1 1 1) = .ok →
        runs (.srst p) s (fun t => ∃ u : State, t = u.srstSide p s.host.owner ∧ (∀ e ∈ u.shadow, pageOf e.1 ≠ p) ∧ u.bit (pgPend p) = false
          ∧ u.bit (pgDirty p) = false ∧ u.rd (addrOf p 0x10) = 0 ∧ u.rd (addrOf p 0x28) = 0
          ∧ s.onlyIn u [.regs, .shadow, .tbl, .tshadow, .commitDue, .frzFrom])))

/-! ## Frames and the sequencer -/

/-- R73: after the frame `last` of hyperframe `hf` the tick at the clock's next millisecond starts frame `last + 1` of it; the tick at a whole
second starts frame 0 of the next; a clock that has stepped forward within the second skips the frames between; one that has stepped back
within it runs an extension frame of the same hyperframe; one that has entered another second starts the frame it stands at. R69, R77, R96:
the tick of a module that runs starts the sequencer's frame: the frame it starts is the last one run (an extension frame is not), the count
of the hyperframe's frames goes on or begins anew, its table is issued from record 0, and nothing of the frame before holds a skip, an overrun
or an END; what it starts is shown in SEQ_FRAME, counts in SEQ_FRAME_NO, and has the clock at the tick's value. A module whose
timebase does not run takes no tick. A restart that is due comes in the tick's place: the module is in BOOT (R523). R29, R30: at a tick a closed mailbox swaps and is not
STALE; one not closed keeps its front buffer and is STALE, and such mailboxes are counted and raise XCH_NOSWAP, but for the plan slice at the
tick of its publication or shift. Completion of FRAME_TICK.
Where the spec leaves a choice or a reading, it is the model's (assumptions 32, 33, 35, 36, 42). -/
def Obligations.FramesAndMailboxes : Prop :=
  (
    ∀ (hf last m : Nat), hf < 2 ^ 48 → m < 1000 →
      (m = last + 1 → tickAt hf last ((hf : Int) * 1000000000 + m * 1000000)
          = { sec := hf, frame := m, ext := false, newHf := false, skips := [(last + 1, 0)] })
      ∧ (last + 1 < m → tickAt hf last ((hf : Int) * 1000000000 + m * 1000000)
          = { sec := hf, frame := m, ext := false, newHf := false, skips := [(last + 1, m - (last + 1))] })
      ∧ (m ≤ last → (tickAt hf last ((hf : Int) * 1000000000 + m * 1000000)).ext = true
          ∧ (tickAt hf last ((hf : Int) * 1000000000 + m * 1000000)).newHf = false)
      ∧ (∀ sec, sec < 2 ^ 48 → sec ≠ hf → (tickAt hf last ((sec : Int) * 1000000000 + m * 1000000)).frame = m
          ∧ (tickAt hf last ((sec : Int) * 1000000000 + m * 1000000)).sec = sec
          ∧ (tickAt hf last ((sec : Int) * 1000000000 + m * 1000000)).ext = false
          ∧ (tickAt hf last ((sec : Int) * 1000000000 + m * 1000000)).newHf = true))
  ∧ (
    ∀ (m : Meas) (s : State),
      (s.ticks = true → s.dev.restartNext = false → runs (.frameTick m) s (fun t =>
        t.seq.started = true ∧ t.seq.ended = false ∧ t.seq.skip = [] ∧ t.seq.ovr = [] ∧ t.seq.pos = 0
          ∧ (s.comingTick.ext = false → t.seq.lastRun = s.comingTick.frame) ∧ (s.comingTick.ext = true → t.seq.lastRun = s.seq.lastRun)
          ∧ (s.comingTick.newHf = true → t.seq.frames = 1 ∧ t.seq.entry = s.comingTick.frame ∧ t.seq.hfSec = s.comingTick.sec)
          ∧ (s.comingTick.newHf = false → t.seq.frames = s.seq.frames + 1 ∧ t.seq.entry = s.seq.entry ∧ t.seq.hfSec = s.seq.hfSec)
          ∧ t.pending = s.pending))
      ∧ (s.ticks = true → s.dev.restartNext = true → runs (.frameTick m) s (fun t => t.mstate = 0 ∧ t.bootStep = 1 ∧ t.dev.restart = some 1
          ∧ t.dev.restartNext = false ∧ t.lnch = [] ∧ t.seq = s.seq ∧ s.onlyIn t [.regs, .dev, .lnch]))
      ∧ (s.ticks = false → exec (.frameTick m) s = .next s))
  ∧ (
    ∀ (p : TickAt) (s : State), p.frame < 1000 → (s.frameBegin p).fld ⟨0x6048, 0, 10⟩ = p.frame
      ∧ (s.frameBegin p).bit (bitAt 0x6048 10) = p.ext
      ∧ (s.frameBegin p).fld ⟨0x6048, 12, 3⟩ = s.tfld 0x0608 (if p.ext then 1000 else p.frame) 0 0 3
      ∧ (s.seq.started = true → (s.frameBegin p).ownFno = (s.ownFno + 1) % 2 ^ 32) ∧ (s.seq.started = false → (s.frameBegin p).ownFno = s.ownFno)
      ∧ (s.time.stepAt = none → (s.frameBegin p).ownNs = (Int.fmod s.nextTick 1000000000).toNat))
  ∧ (
    (∀ (s : State), s.swapAll.mbx.length = s.mbx.length)
    ∧ (∀ (s : State) (i : Nat) (m : Mbx), s.mbx[i]? = some m →
        (m.closed = true → ∃ m', s.swapAll.mbx[i]? = some m' ∧ m'.num = m.num ∧ m'.front = m.back ∧ (m.late = [] → m'.back = m.front)
          ∧ m'.stale = false ∧ m'.closed = false)
        ∧ (m.closed = false → ∃ m', s.swapAll.mbx[i]? = some m' ∧ m'.num = m.num ∧ m'.front = m.front ∧ m'.back = m.back
          ∧ m'.stale = true ∧ m'.closed = false
          ∧ ((s.sliceDue && m.num == s.roleMbx 5) = false → s.swapAll.bit (bitAt 0x30010 2) = true
              ∧ s.fld Ctr.HLTH_XCH_NOSWAP.f ≤ s.swapAll.fld Ctr.HLTH_XCH_NOSWAP.f)))
    ∧ ∀ (s : State), (∀ m ∈ s.mbx, m.closed = true) → s.swapAll.regs = s.regs)

/-- R15, R72, R77, R80, R29, R412: an entry that the running table holds next is issued, and no other acts: the sequencer goes on to the next
record. NOP changes nothing beside that but its unit's run of missed acknowledgements; END ends the table for the frame, after which no entry
acts; PUBLISH closes the mailbox, which with COPY first takes the front buffer into the back one; SNAP offers a record of kind 2 under the
entry's code. An entry of a unit that is off acts as an empty one. R41, R95, R96: an entry of an engine that has not ended by its deadline is
recorded as an overrun of its unit, the unit's later PUBLISH entries of the frame are skipped, and without acknowledgement its run of missed
ones goes on; three in a row raise ENGINE_LOST with the engine's number and
take the module to FAULT. R90, R92 to R94: VERIFY starts a verification unless one runs (BUSY) or a switch is pending (REFUSED); its end
sets VERIFIED and raises VFY_DONE, or records the first failure and raises VFY_FAIL; SWITCH needs VERIFIED; CANCEL clears SWITCH_PEND; at a
tick that starts a hyperframe a pending switch exchanges the banks, but where a program bank switches at the same tick, which withdraws it
(R94). Completion of NOP, END, PUBLISH, SNAP, ENTRY_DEADLINE, ENGINE_LOST,
SEQ_VERIFY, SEQ_VERIFY_END, SEQ_SWITCH, SEQ_CANCEL, SEQ_BANK_SWITCH. Where the spec leaves a choice or a reading, it is the model's
(assumptions 5, 39, 41). -/
def Obligations.TheSequencer : Prop :=
  (
    ∀ s : State,
      let pub := fun (n : Nat) (copy : Bool) (e : Entry) => e.arg % 2 ^ 12 == n && (e.arg / 2 ^ 12 % 2 == 1) == copy
      (∀ u, s.issues 0x00 u (fun _ => true) = true → runs (.nop u) s (fun t =>
        t.seq = { s.seq with pos := s.seq.pos + 1, missed := setAt s.seq.missed u 0 } ∧ s.onlyIn t [.seq]))
      ∧ (∀ u, s.issues 0x00 u (fun _ => true) = false → exec (.nop u) s = .next s)
      ∧ (s.takes 0x01 0x00 (fun _ => true) → runs .endEntry s (fun t => t.seq.ended = true ∧ t.nextEntry = none ∧ s.onlyIn t [.seq]))
      ∧ (s.issues 0x01 0x00 (fun _ => true) = false → exec .endEntry s = .next s)
      ∧ (∀ n m copy, s.mbxOf n = some m → s.takes 0x02 m.writer (pub n copy) → m.writer ∉ s.seq.skip →
          runs (.publish n copy) s (fun t => (∃ m', t.mbxOf n = some m' ∧ m'.closed = true ∧ m'.front = m.front
              ∧ (copy = true ∨ s.switchFrame m.writer = true → m'.back = m.front)
              ∧ (copy = false → s.switchFrame m.writer = false → m'.back = m.written))
            ∧ (∀ k, k ≠ n → t.mbxOf k = s.mbxOf k) ∧ t.seq = (s.begun m.writer).seq ∧ s.onlyIn t [.seq, .mbx]))
      ∧ (∀ n m copy, s.mbxOf n = some m → s.issues 0x02 m.writer (pub n copy) = true → m.writer ∈ s.seq.skip →
          runs (.publish n copy) s (fun t => t.seq = { s.seq with pos := s.seq.pos + 1 } ∧ s.onlyIn t [.seq]))
      ∧ (∀ n m copy, s.mbxOf n = some m → s.issues 0x02 m.writer (pub n copy) = false → exec (.publish n copy) s = .next s)
      ∧ (∀ code, s.takes 0x03 0x0B (fun e => e.arg % 2 ^ 16 == code) → s.recordable code → runs (.snap code) s (fun t =>
          (∃ e, t.evr.intake = s.evr.intake ++ [e] ∧ e.code = code ∧ e.kind = 2 ∧ e.sec = s.nowSec ∧ e.ns = s.nowNs ∧ e.frame = s.frame)
            ∧ t.seq = (s.begun 0x0B).seq ∧ s.onlyIn t [.regs, .tbl, .seq, .evr]))
      ∧ (∀ code, s.issues 0x03 0x0B (fun e => e.arg % 2 ^ 16 == code) = false → exec (.snap code) s = .next s)
      ∧ (s.seq.ended = true ∨ s.waits = true → ∀ op u p, s.issues op u p = false)
      ∧ (∀ op u p f, s.issues op u p = true → s.unitOff u = true → s.entry op u p f = s.begun u))
  ∧ (
    (∀ (u i done : Nat) (acked : Bool) (s : State), unitEngine u = true → u ≠ 0 → (s.entryAt 0 s.runTable i).unit = u →
        s.unitOff u = false → s.atDeadline u i = true → (i = s.seq.pos → s.nextEntry ≠ none) →
        ((s.entryAt 0 s.runTable i).op = 0x28 → i = s.seq.pos) →
        runs (.entryDeadline u i ⟨acked, done⟩) s (fun t => u ∈ t.seq.skip ∧ t.seq.ovr = s.seq.ovr ++ [(u, i)]
          ∧ t.seq.pos = (if i = s.seq.pos then s.seq.pos + 1 else s.seq.pos)
          ∧ (acked = true → t.seq.missed = setAt s.seq.missed u 0)
          ∧ (acked = false → t.seq.missed = modAt s.seq.missed u (· + 1))))
    ∧ (∀ (u i done : Nat) (acked : Bool) (s : State), unitEngine u = false ∨ (s.entryAt 0 s.runTable i).unit ≠ u ∨ s.atDeadline u i = false →
        exec (.entryDeadline u i ⟨acked, done⟩) s = .next s)
    ∧ ∀ (e : Nat) (s : State),
        (3 ≤ s.seq.missed.getD e 0 → s.mstate ≠ 6 → runs (.engineLost e) s (fun t => t.mstate = 6 ∧ t.bit (bitAt 0x30010 1) = true
          ∧ t.fld ⟨0x30044, 4, 4⟩ = e % 16 ∧ t.fld ⟨0x005C, 0, 8⟩ = 1))
        ∧ (s.seq.missed.getD e 0 < 3 → exec (.engineLost e) s = .next s))
  ∧ (
    ∀ s : State,
      (s.bit seqVfyBusy = true ∨ s.bit seqSwitchPend = true → exec .seqVerify s = .next s)
      ∧ (s.bit seqVfyBusy = false → s.bit seqSwitchPend = false → runs .seqVerify s (fun t => t.bit seqVfyBusy = true
          ∧ t.bit seqVerified = false ∧ s.regsBut t (fun a => a = 0x6044) ∧ s.onlyIn t [.regs]))
      ∧ (s.bit seqVfyBusy = false → exec .seqVerifyEnd s = .next s)
      ∧ (s.bit seqVfyBusy = true → s.seqVerify s.activeTasks 1 = none → runs .seqVerifyEnd s (fun t => t.bit seqVerified = true
          ∧ t.bit seqVfyBusy = false ∧ t.bit seqVfyFailed = false ∧ t.rd 0x6054 = 0 ∧ t.bit (bitAt 0x6010 1) = true
          ∧ s.regsBut t (fun a => a = 0x6044 ∨ a = 0x6054 ∨ a = 0x6058 ∨ evReg 6 a)))
      ∧ (∀ e, s.bit seqVfyBusy = true → s.seqVerify s.activeTasks 1 = some e → runs .seqVerifyEnd s (fun t => t.bit seqVerified = s.bit seqVerified
          ∧ t.bit seqVfyBusy = false ∧ t.bit seqVfyFailed = true ∧ t.fld ⟨0x6054, 28, 4⟩ = e.code % 16 ∧ t.bit (bitAt 0x6010 2) = true
          ∧ s.regsBut t (fun a => a = 0x6044 ∨ a = 0x6054 ∨ a = 0x6058 ∨ evReg 6 a)))
      ∧ (s.bit seqVerified = false → exec .seqSwitch s = .next s)
      ∧ (s.bit seqVerified = true → runs .seqSwitch s (fun t => t.bit seqSwitchPend = true ∧ t.bit seqVerified = true
          ∧ s.regsBut t (fun a => a = 0x6044) ∧ s.onlyIn t [.regs]))
      ∧ runs .seqCancel s (fun t => t.bit seqSwitchPend = false ∧ t.bit seqVerified = s.bit seqVerified
          ∧ s.regsBut t (fun a => a = 0x6044) ∧ s.onlyIn t [.regs])
      ∧ (s.bit seqSwitchPend = false ∨ s.seq.hfStart = false ∨ s.inExt = true →
          (∀ p, p < 2 → (s.bit (cpeBank p).pend && s.cpeSwitchNow p) = false) → exec .seqBankSwitch s = .next s)
      ∧ (∀ p, p < 2 → s.bit (cpeBank p).pend = true → s.cpeSwitchNow p = true → runs .seqBankSwitch s (fun t =>
          t.bit seqSwitchPend = false ∧ t.bit seqVerified = false ∧ s.tblBut t (fun tid _ _ => evTbl tid)
            ∧ (s.bit seqSwitchPend = true → t.bit (bitAt 0x6010 4) = true)))
      ∧ (s.Canon → s.bit seqSwitchPend = true → s.seq.hfStart = true → s.inExt = false →
          (∀ p, p < 2 → (s.bit (cpeBank p).pend && s.cpeSwitchNow p) = false) → runs .seqBankSwitch s (fun t =>
          t.bit seqSwitchPend = false ∧ t.bit seqVerified = true ∧ t.fld (bitAt 0x6044 0) = 1 - s.fld (bitAt 0x6044 0)
            ∧ t.bit (bitAt 0x6010 3) = true
            ∧ ∀ tid i w, 0x0600 ≤ tid → tid ≤ 0x0611 → i < 2 ^ 23 → w < 2 ^ 8 → t.trd tid i w = s.trd tid (2 ^ 23 + i) w
                ∧ t.trd tid (2 ^ 23 + i) w = s.trd tid i w)))

/-! ## Local inputs and outputs -/

/-- R307, R308, R290: an edge of a filtered digital input sets its level, and while EN is 1 and the input counts that edge, its pulse counter
advances and DI_i is signalled; an edge of a fast input sets its level and signals PRIV_IN_i. R309: DIO_DO_SET and DIO_DO_CLR set and clear
CMD of the outputs written as 1 whose SRC is 0 and that no class 1 channel has, and of no other; DIO_OC_CLR clears OC; an overcurrent of an
output that is on sets OC, counts and raises its event, and a read-back that differs counts and raises; R311: an open loop sets OPEN of an
output that drives its line, and its end clears it. Completion of DI_EDGE, FAST_INPUT_EDGE, DIO_DO_SET, DIO_DO_CLR, DIO_OC_CLR, OVERCURRENT,
READBACK, OPEN_LOOP, OPEN_CLEARED. Where the spec leaves a choice or a reading, it is the model's (assumptions 85, 86). -/
def Obligations.InputsAndOutputs : Prop :=
  (
    ∀ (i : Nat) (rising : Bool) (s : State),
      (i < 16 → runs (.diEdge i rising) s (fun t => t.dio = { s.dio with di := putBit s.dio.di i rising }
        ∧ (s.bit (bitAt 0x1C040 0) = true → (s.fld ⟨0x1C04C, 2 * i, 2⟩ = 2 ∨ s.fld ⟨0x1C04C, 2 * i, 2⟩ = if rising then 0 else 1) →
            t.fld (Ctr.DIO_PCNT i).f = (s.fld (Ctr.DIO_PCNT i).f + 1) % 2 ^ 32
            ∧ (s.srcFld (0x010 + i) 31 1 = 1 → t.srcFld (0x010 + i) 29 1 = 1))
        ∧ ((s.bit (bitAt 0x1C040 0) = false ∨ (s.fld ⟨0x1C04C, 2 * i, 2⟩ ≠ 2 ∧ s.fld ⟨0x1C04C, 2 * i, 2⟩ ≠ if rising then 0 else 1)) →
            s.onlyIn t [.dio])))
      ∧ (16 ≤ i → exec (.diEdge i rising) s = .next s)
      ∧ (i < 8 → runs (.fastInputEdge i rising) s (fun t => t.dio.fast = putBit s.dio.fast i rising
        ∧ t.dio.di = s.dio.di ∧ (s.srcFld (0x008 + i) 31 1 = 1 → t.srcFld (0x008 + i) 29 1 = 1)
        ∧ (s.privOn = false → t.dio.trips = s.dio.trips)))
      ∧ (8 ≤ i → exec (.fastInputEdge i rising) s = .next s))
  ∧ (
    (∀ (v : Word) (s : State),
      runs (.dioDoSet v) s (fun t => (∀ o, o < 8 → t.bit (doCmd o) = (s.bit (doCmd o) || (wbit v o && s.doHost o)))
        ∧ t.fld ⟨0x1C050, 8, 24⟩ = s.fld ⟨0x1C050, 8, 24⟩ ∧ s.regsBut t (fun a => a = 0x1C050) ∧ s.onlyIn t [.regs])
      ∧ runs (.dioDoClr v) s (fun t => (∀ o, o < 8 → t.bit (doCmd o) = (s.bit (doCmd o) && !(wbit v o && s.doHost o)))
        ∧ t.fld ⟨0x1C050, 8, 24⟩ = s.fld ⟨0x1C050, 8, 24⟩ ∧ s.regsBut t (fun a => a = 0x1C050) ∧ s.onlyIn t [.regs])
      ∧ runs (.dioOcClr v) s (fun t => (∀ o, o < 8 → t.bit (doOc o) = (s.bit (doOc o) && !wbit v o))
        ∧ t.fld ⟨0x1C050, 0, 16⟩ = s.fld ⟨0x1C050, 0, 16⟩ ∧ s.regsBut t (fun a => a = 0x1C050) ∧ s.onlyIn t [.regs]))
    ∧ ∀ (o : Nat) (s : State),
      (o < 8 → s.doOn o = true → runs (.overcurrent o) s (fun t => t.bit (doOc o) = true ∧ t.doOn o = (s.mstate == 6 && s.doOn o)
        ∧ t.bit (bitAt 0x1C010 0) = true))
      ∧ (s.doOn o = false ∨ 8 ≤ o → exec (.overcurrent o) s = .next s)
      ∧ (o < 8 → runs (.readback o) s (fun t => t.bit (bitAt 0x1C010 1) = true ∧ s.onlyIn t evParts))
      ∧ (8 ≤ o → exec (.readback o) s = .next s)
      ∧ (o < 4 → s.lineDriven (aoutEn o) (s.fld (aoutCfg o 30 2)) = true → runs (.openLoop o) s (fun t =>
          t.bit (bitAt 0x1D044 o) = true ∧ t.bit (bitAt 0x1D010 0) = true))
      ∧ (4 ≤ o ∨ s.lineDriven (aoutEn o) (s.fld (aoutCfg o 30 2)) = false → exec (.openLoop o) s = .next s)
      ∧ (o < 4 → runs (.openCleared o) s (fun t => t.bit (bitAt 0x1D044 o) = false ∧ s.regsBut t (fun a => a = 0x1D044) ∧ s.onlyIn t [.regs]))
      ∧ (4 ≤ o → exec (.openCleared o) s = .next s))

/-- R290: ARM arms a defined channel of class 0 whose input is not active, and refuses any other; DISARM clears ARMED and leaves the latch;
RESET_TRIP releases the latch and the channel's hold of its trip pairs, unless the channel's input is active. While a channel holds a trip
pair the pair is de-energised. R294: a breach sets BREACH, records its kind, class and channel, raises BREACH, ends the request with outcome
BREACH, and the module enters FAULT; where none of the three holds, PRIV_BREACH has no effect. R281, R282: a request that the first failing
check turns away is recorded with that check's code, counted in PRIV_REFUSE_CNT and raises REFUSED, and leaves every outstanding request as
it was; an accepted one is outstanding from then on under its REQ_SEQ, counted in PRIV_ACCEPT_CNT, with its bound PROMISE_US less what the
path may take after its acceptance; each verdict is noted for the input record. The module refuses every request with code 7 unless it is
ACTIVE, but that a standby module takes the verdict that the active one recorded (R291). Completion of PRIV_ARM, PRIV_DISARM,
RESET_TRIP, PRIV_BREACH. Where the spec leaves a choice or a reading, it is the model's (assumptions 31, 81, 84). -/
def Obligations.ReflexAndPrivileged : Prop :=
  (
    ∀ (s : State) (ch : Nat), s.fld ⟨0x26048, 0, 5⟩ = ch →
      (s.chDef ch = true → s.chClass ch = 0 → s.chFld ch 2 30 2 ≠ 0 ∨ 2 ≤ s.chFld ch 2 28 2 ∨ s.reflexActive ch = false →
        runs .privArm s (fun t => t.bit (privArmed ch) = true ∧ t.dio.trips = s.dio.trips ∧ s.regsBut t (fun a => a = 0x26050)
          ∧ s.onlyIn t [.regs, .dio]))
      ∧ (s.chDef ch = false ∨ s.chClass ch ≠ 0 ∨ (s.chFld ch 2 30 2 = 0 ∧ s.chFld ch 2 28 2 < 2 ∧ s.reflexActive ch = true) →
        exec .privArm s = .next s)
      ∧ runs .privDisarm s (fun t => t.bit (privArmed ch) = false ∧ s.regsBut t (fun a => a = 0x26050) ∧ s.onlyIn t [.regs])
      ∧ (s.chDef ch = false ∨ s.chClass ch ≠ 0 ∨ s.reflexActive ch = false →
        runs .resetTrip s (fun t => t.bit (privTripped ch) = false ∧ (∀ e ∈ t.dio.trips, e ∈ s.dio.trips ∧ e.1 ≠ ch)
          ∧ s.regsBut t (fun a => a = 0x26054) ∧ s.onlyIn t [.regs, .dio]))
      ∧ (s.chDef ch = true → s.chClass ch = 0 → s.reflexActive ch = true → exec .resetTrip s = .next s)
      ∧ (∀ tp, tp < 4 → (∃ e ∈ s.dio.trips, e.2 / 2 ^ tp % 2 = 1) → s.tripOn tp = false))
  ∧ (
    ∀ (kind ch seq ns : Nat) (s : State),
      (s.breached kind ch seq ns = true → s.mstate ≠ 6 → runs (.privBreach kind ch seq ns) s (fun t =>
        t.mstate = 6 ∧ t.bit (bitAt 0x2604C 0) = true ∧ t.rd 0x26064 = BitVec.ofNat 32 (kind * 2 ^ 12 + s.chClass ch * 2 ^ 8 + ch)
          ∧ t.bit (bitAt 0x26010 0) = true ∧ t.fld ⟨0x005C, 0, 8⟩ = 4 ∧ t.privReqOf ch seq = none))
      ∧ (s.breached kind ch seq ns = false → exec (.privBreach kind ch seq ns) s = .next s)
      ∧ (∀ r, s.privReqOf ch seq = some r → 2 ≤ r.cls → r.released = none → s.privBound r < s.elapsed ns → s.pathsOk ch r.timed ≠ [] →
          s.breached 1 ch seq ns = true)
      ∧ (s.privReqOf ch seq = none → s.breached 1 ch seq ns = false ∧ s.breached 2 ch seq ns = false))
  ∧ (
    ∀ (own : Bool) (src off : Nat) (w : List Word) (s : State),
      let ch := wbits (w.getD 0 0) 0 5
      let v := s.verdictOf own src w off
      let t := (s.privRequest own src w off).1
      (s.mstate ≠ 4 → s.privVerdict src w off = 7)
      ∧ (s.mstate = 4 → s.bit (bitAt 0x26040 1) = false → s.privVerdict src w off = 1)
      ∧ (s.mstate ≠ 3 ∨ own = true → v.code = s.privVerdict src w off ∧ v.ch = ch ∧ (v.code = 0 → v.seq = s.nextReqSeq ch))
      ∧ (∀ x ∈ s.priv.due, s.mstate = 3 → own = false → x.ch = ch → x.src = src → v ∈ s.priv.due ∧ v.ch = ch ∧ v.src = src)
      ∧ t.priv.given = s.priv.given ++ [v]
      ∧ (v.code ≠ 0 → (s.privRequest own src w off).2.1 = v.code ∧ t.priv.reqs = s.priv.reqs ∧ t.bit (bitAt 0x26010 2) = true
          ∧ t.fld Ctr.PRIV_REFUSE.f = min (2 ^ 32 - 1) (s.fld Ctr.PRIV_REFUSE.f + 1) ∧ t.fld (chStat v.ch 28 4) = 4)
      ∧ (v.code = 0 → s.chClass ch ≠ 1 → (s.privRequest own src w off).2 = (0, v.seq)
          ∧ (∃ r, t.priv.reqs = s.priv.reqs ++ [r] ∧ r.ch = ch ∧ r.seq = v.seq ∧ r.ta = s.elapsed off ∧ r.released = none
              ∧ r.bound = (s.elapsed off : Int) + s.chPromise ch * 1000 - s.privA - s.privLat (s.chClass ch) r.port)
          ∧ t.fld Ctr.PRIV_ACCEPT.f = (s.fld Ctr.PRIV_ACCEPT.f + 1) % 2 ^ 32))

/-! ## Time -/

/-- R115 to R117, R125: STEP_ACCEPT while an offset is refused makes the selected source's latest offset the step to come, and has no effect
otherwise; RELEARN clears what was learned; CLR_CNT clears every counter of the page of kind S and its flag. R105, R114, R119: where the
selected source is no longer valid the highest-ranked valid one is selected at once, or none; a source ranked higher that has been valid for
10 s replaces the selected one; where the selected source stays valid and no higher one has been, the selection stays. A minute counts only
after 60,000 frames, in HOLDOVER in HOLD_MIN from its entry, and in LOCKED with the temperature steady in LEARN_MIN. Completion of STEP_ACCEPT, RELEARN,
CLR_CNT, SOURCE_INVALID, SOURCE_UPGRADE, LEARN_MINUTE. Where the spec leaves a choice or a reading, it is the model's (assumptions 43, 44,
48). -/
def Obligations.TimebaseAndSources : Prop :=
  (
    ∀ s : State,
      (s.bit timeRefused = false ∨ s.bit timeStepPend = true → exec .stepAccept s = .next s)
      ∧ (∀ d, s.bit timeRefused = true → s.bit timeStepPend = false → s.fld timeSrc ≠ 0 → s.time.offs.getD (s.fld timeSrc - 1) none = some d →
        runs .stepAccept s (fun t => t.bit timeStepPend = true ∧ t.time = { s.time with stepPend := some d }
          ∧ s.regsBut t (fun a => a = 0x4048) ∧ s.onlyIn t [.regs, .time]))
      ∧ runs .relearn s (fun t => t.fld Ctr.TIME_LEARN_MIN.f = 0 ∧ t.bit timeLearned = false ∧ t.rd 0x4068 = 0 ∧ t.time.learn = []
          ∧ t.fld timeQuality = s.fld timeQuality ∧ s.onlyIn t [.regs, .time])
      ∧ runs .clrCnt s (fun t => (∀ c ∈ [Ctr.TIME_JUMP, .TIME_STEP, .TIME_SRC_CHG, .TIME_LATE, .TIME_MISSED, .TIME_HOLD_MIN, .TIME_LEARN_MIN],
          t.fld c.f = 0 ∧ t.bit (bitAt c.ovf.1 c.ovf.2) = false) ∧ s.onlyIn t [.regs]))
  ∧ (
    ∀ s : State,
      let u := [1, 2, 3, 4].foldl (fun a c => a.srcNote c) ((s.ptpSelect 0).ptpSelect 1)
      ((u.fld timeSrc = 0 ∨ u.srcOk (u.fld timeSrc) = false ∨ u.fld timeSrc ∉ u.ranked) → runs .sourceInvalid s (fun t =>
          t.fld timeSrc = ((u.ranked.find? (fun c => u.srcOk c)).getD 0) % 8))
      ∧ (u.fld timeSrc ≠ 0 → u.srcOk (u.fld timeSrc) = true → u.fld timeSrc ∈ u.ranked → exec .sourceInvalid s = .next u)
      ∧ (∀ c, u.fld timeSrc ≠ 0 → u.srcOk (u.fld timeSrc) = true → u.fld timeSrc ∈ u.ranked →
          (u.ranked.takeWhile (fun x => x != u.fld timeSrc)).find? (fun x => match u.srcSince x with
            | none => false
            | some f => decide (10000 ≤ u.ownSince f)) = some c →
          runs .sourceUpgrade s (fun t => t.fld timeSrc = c % 8 ∧ t.time.lockN = 0))
      ∧ (u.fld timeSrc ≠ 0 → u.srcOk (u.fld timeSrc) = true → u.fld timeSrc ∈ u.ranked →
          (∀ c ∈ u.ranked.takeWhile (fun x => x != u.fld timeSrc), ∀ f, u.srcSince c = some f → u.ownSince f < 10000) →
          exec .sourceUpgrade s = .next u)
      ∧ (∀ ok, s.fld timeQuality = 2 → s.ownSince s.time.holdStart < 60000 → exec (.learnMinute ok) s = .next s)
      ∧ (∀ ok, s.fld timeQuality ≠ 2 → s.ownSince s.time.minStart < 60000 → exec (.learnMinute ok) s = .next s)
      ∧ (∀ ok, 60000 ≤ s.ownSince s.time.holdStart → s.fld timeQuality = 2 → runs (.learnMinute ok) s (fun t =>
          t.time = { s.time with holdStart := s.ownFno }
            ∧ t.fld Ctr.TIME_HOLD_MIN.f = min 65535 (s.fld Ctr.TIME_HOLD_MIN.f + 1) ∧ s.onlyIn t [.regs, .time]))
      ∧ (60000 ≤ s.ownSince s.time.minStart → s.fld timeQuality = 1 → runs (.learnMinute true) s (fun t =>
          t.time.minStart = s.ownFno ∧ t.time.learn = (s.time.minSum :: s.time.learn).take 1440
            ∧ t.fld Ctr.TIME_LEARN_MIN.f = min 65535 (s.fld Ctr.TIME_LEARN_MIN.f + 1)
            ∧ (1439 ≤ s.fld Ctr.TIME_LEARN_MIN.f → t.bit timeLearned = true) ∧ s.onlyIn t [.regs, .time, .free]))
      ∧ (∀ ok, 60000 ≤ s.ownSince s.time.minStart → s.fld timeQuality ≠ 2 → ok = false ∨ s.fld timeQuality ≠ 1 →
          runs (.learnMinute ok) s (fun t =>
            t.time = { s.time with minStart := s.ownFno, minSum := 0 } ∧ s.onlyIn t [.time])))

/-- R107 to R111: what reaches a PTP port whose ROLE is 0, whose line is down, or in another domain, has no effect but that a line that is up
counts its frames. A Sync on a port notes the frame, and on the valid port in use the offset of its source; a link delay exchange sets
TIME_PORT_PDELAY to the mean of the two ways, corrected by the port's latencies; an Announce of a qualified master is kept for the port, whose
state is then what the best master clock algorithm gives it, a slave-only port's SLAVE once calibrated; without one for the announce receipt
timeout a slave-only port listens and another becomes master; a master port sends Sync and Announce, each frame counted, with the number of
its redundancy trailer on ports A and B, and any other none; a sentence with a good checksum names its second; a 1PPS edge 1 s after the last
with a fresh sentence goes on with the run of good seconds. R113, R115: with the servo on, an offset of the selected source within JUMP_MAX
is accepted: JUMP_REFUSED ends and the clock's rate is what the controller gives, within ±200,000 ppb; one beyond it is refused, counted in
TIME_JUMP_CNT with its value shown, and the rate holds. Completion of PTP_SYNC_RX, PTP_PDELAY_EXCHANGE, PTP_ANNOUNCE_RX,
ANNOUNCE_RECEIPT_TIMEOUT, PTP_SYNC_TX, PTP_ANNOUNCE_TX, TOD_SENTENCE_RX, PPS_EDGE. Where the spec leaves a choice or a reading, it is the
model's (assumptions 45, 46, 47, 49, 50, 138). -/
def Obligations.TimeInputsAct : Prop :=
  (
    ∀ s : State,
      (∀ p d m rx t1 t2 t3 t4 c lo hi b, s.ptpHears p d = false → exec (.ptpSyncRx p d m rx) s = .next (s.ptpFrames p 2)
        ∧ exec (.ptpPdelayExchange p d t1 t2 t3 t4) s = .next (s.ptpFrames p 2)
        ∧ exec (.ptpAnnounceRx p d c lo hi b) s = .next (s.ptpFrames p 1))
      ∧ (∀ p n, 2 ≤ p ∨ s.lineUp p = false → s.ptpFrames p n = s)
      ∧ (∀ p d m rx, s.ptpHears p d = true → s.time.ports.length = 4 → s.time.offs.length = 4 → runs (.ptpSyncRx p d m rx) s (fun t =>
          let u := ((s.ptpFrames p 2).timeEval.ptpMod p (fun x => { x with lastSync := some s.ownFno })).timeEval
          (t.ptp p).lastSync = some s.ownFno ∧ (t.ptp p).st = (s.ptp p).st
            ∧ (u.ptpValid p = true → u.fld (ptpSel (ptpPair p)) = p % 2 →
                t.time.offs.getD (ptpPair p) none = some (m + s.portPdelay p + s.portAsym p - (rx - s.latIn p)))
            ∧ s.onlyIn t [.regs, .tbl, .items, .icu, .evr, .time, .free]))
      ∧ (∀ p d t1 t2 t3 t4, s.ptpHears p d = true → s.txOn p = true → runs (.ptpPdelayExchange p d t1 t2 t3 t4) s (fun t =>
          t.rd (0x40E0 + 4 * p) = ofInt (max 0 (Int.fdiv (((t4 - s.latIn p) - (t1 + s.latOut p)) - (t3 - t2)) 2))
            ∧ s.regsBut t (fun a => a = 0x40E0 + 4 * p ∨ (p < 2 ∧ pageOf a = 0x10 + p)) ∧ s.onlyIn t [.regs, .snet]))
      ∧ (∀ p d c lo hi b, s.ptpHears p d = true → b.qual = true → b.steps < 255 → s.time.ports.length = 4 →
        runs (.ptpAnnounceRx p d c lo hi b) s (fun t =>
          let a := annOf c lo hi b
          let u := (s.ptpFrames p 1).timeEval.ptpMod p (fun x => { x with lastAnn := some s.ownFno, ann := some a })
          (t.ptp p).ann = some a ∧ (t.ptp p).lastAnn = some s.ownFno ∧ (t.ptp p).st = u.bmca p u.clockClass
            ∧ (s.ptpRole p = 1 → (s.ptp (2 * ptpPair p + (1 - p % 2))).ann = none → (t.ptp p).st = if a.cal then 9 else 8)
            ∧ (s.ptpRole p = 3 → (t.ptp p).st = if (u.ptpOwn (ptpPair p) u.clockClass).better a then 6 else 7)))
      ∧ (∀ p d c lo hi b, b.qual = false ∨ 255 ≤ b.steps → exec (.ptpAnnounceRx p d c lo hi b) s = .next (s.ptpFrames p 1))
      ∧ (∀ p f, p < 4 → (s.ptp p).lastAnn = some f → s.ptpRole p ≠ 0 →
          intervals16 (s.fld ⟨0x4098 + 8 * ptpPair p, 24, 8⟩) (s.ptpLog p 8) ≤ s.ownSince f * 16 →
          runs (.announceReceiptTimeout p) s (fun t => (t.ptp p).st = (if s.ptpRole p = 1 then 4 else 6) ∧ (t.ptp p).lastAnn = none
            ∧ (t.ptp p).ann = none))
      ∧ (∀ p, ((s.ptp p).lastAnn = none ∨ s.ptpRole p = 0 ∨ ∃ f, (s.ptp p).lastAnn = some f
            ∧ s.ownSince f * 16 < intervals16 (s.fld ⟨0x4098 + 8 * ptpPair p, 24, 8⟩) (s.ptpLog p 8)) →
          exec (.announceReceiptTimeout p) s = .next s)
      ∧ (∀ p, s.ptpMaster p = true →
          let prp := if p < 2 then some s.snet.prpSeq else none
          runs (.ptpSyncTx p) s (fun t => t.sent = s.sent ++ [.ptpSync p prp]
            ∧ t.snet = { s.snet with prpSeq := if p < 2 then ((s.snet.prpSeq + 1) % 65536 + 1) % 65536 else s.snet.prpSeq }
            ∧ s.regsBut t (fun a => p < 2 ∧ pageOf a = 0x10 + p) ∧ s.onlyIn t [.regs, .snet, .sent])
          ∧ runs (.ptpAnnounceTx p) s (fun t => t.sent = s.sent ++ [.ptpAnnounce p s.clockClass (s.fld ⟨0x40B4, 24, 8⟩)
              (s.fld ⟨0x408C, 0, 16⟩) (timeSourceCode (s.fld timeSrc)) prp]
            ∧ t.snet = { s.snet with prpSeq := if p < 2 then (s.snet.prpSeq + 1) % 65536 else s.snet.prpSeq }
            ∧ s.regsBut t (fun a => p < 2 ∧ pageOf a = 0x10 + p) ∧ s.onlyIn t [.regs, .snet, .sent]))
      ∧ (∀ p, s.ptpMaster p = false → exec (.ptpSyncTx p) s = .next s ∧ exec (.ptpAnnounceTx p) s = .next s)
      ∧ (∀ utc, runs (.todSentenceRx utc true) s (fun t => t.time.tod = some utc
          ∧ (t.time.todFresh = true ↔ s.time.tod = some (utc - 1) ∧ 0 < utc) ∧ s.onlyIn t [.time]))
      ∧ (∀ utc, exec (.todSentenceRx utc false) s = .next s)
      ∧ (∀ e, runs (.ppsEdge e) s (fun t => t.time.ppsAt = some e ∧ t.time.ppsFno = s.ownFno ∧ t.time.todFresh = false
          ∧ (∀ p, s.time.ppsAt = some p → (e - p - 1000000000).natAbs ≤ 10000 → s.time.todFresh = true → t.time.ppsGood = s.time.ppsGood + 1)
          ∧ (s.time.ppsAt = none ∨ s.time.todFresh = false
              ∨ (∃ p, s.time.ppsAt = some p ∧ 10000 < (e - p - 1000000000).natAbs) → t.time.ppsGood = 0))))
  ∧ (
    ∀ (s : State) (th : Int),
      (s.bit timeEver = true → (s.rd 0x4050).toNat < th.natAbs → s.offRefused th = true)
      ∧ (s.bit timeEver = true → th.natAbs ≤ (s.rd 0x4050).toNat → s.offRefused th = false)
      ∧ ((s.refuseOff th).bit timeRefused = true ∧ (s.refuseOff th).rd 0x4064 = s.yHold
          ∧ (s.refuseOff th).rd 0x4110 = ofInt (Int.tdiv th 1000000000) ∧ (s.refuseOff th).rd 0x4114 = ofInt (Int.tmod th 1000000000))
      ∧ (s.acceptOff th).bit timeRefused = false
      ∧ (s.bit (bitAt 0x4040 0) = true → -slewLim ≤ sint ((s.acceptOff th).rd 0x4064) ∧ sint ((s.acceptOff th).rd 0x4064) ≤ slewLim)
      ∧ (s.bit (bitAt 0x4040 0) = false → (s.acceptOff th).rd 0x4064 = s.yHold))

/-- R106, R116: an accepted step, and the initial set where EVER_SYNC is 0 and INIT_SET_EN is 1, sets the clock of the coming tick:
TIME_STEP_SEC and TIME_STEP_NS record it, EVER_SYNC is 1, STEP_PEND and JUMP_REFUSED clear, the controller starts again, quality is STEPPED
(but on a standby module, which shows the active one's), and STEP_APPLIED or INIT_SET is raised. With no step accepted and no offset waiting
the two have no effect. Completion of STEP_APPLIED, INIT_SET. Where the spec leaves a choice or a reading, it is the model's (assumptions 4,
44). -/
def Obligations.StepsSetTheClock : Prop :=
  ∀ (s : State) (d : Int), s.time.stepAt = none →
    let sets := fun (c : Instr) (ev : Nat) => runs c s (fun t => t.time.stepAt = some s.nextTick ∧ t.time.acc = 0 ∧ t.time.stepPend = none
      ∧ t.time.initPend = none ∧ t.bit timeEver = true ∧ t.bit timeStepPend = false ∧ t.bit timeRefused = false
      ∧ t.rd 0x4080 = ofInt (Int.tdiv d 1000000000) ∧ t.rd 0x4084 = ofInt (Int.tmod d 1000000000)
      ∧ (s.mstate ≠ 3 → t.fld timeQuality = 3) ∧ t.bit (bitAt 0x4010 ev) = true)
    (s.time.stepPend = some d → s.bit timeStepPend = true → sets .stepApplied 1)
    ∧ (s.time.stepPend = none ∨ s.bit timeStepPend = false → exec .stepApplied s = .next s)
    ∧ (s.time.initPend = some d → s.bit timeEver = false → s.bit (bitAt 0x4040 1) = true → sets .initSet 2)
    ∧ (s.time.initPend = none ∨ s.bit timeEver = true ∨ s.bit (bitAt 0x4040 1) = false → exec .initSet s = .next s)

/-- R120 to R124: arming latches the active launch time, action and grace, sets ARMED and clears the flags; a launch time that lies ahead waits;
one reached, or past by no more than its grace, fires at once, LATE where it is past; one past by more is MISSED; DISARM ends an arming. LAUNCH_FIRE, when the time falls into the running frame, performs
the action, which leaves an output of a class 1 channel alone, and in FAULT the analogue and PWM outputs, sets FIRED, clears ARMED and signals the comparator's source. A privileged comparator is refused to entries and to the owner.
Completion of LAUNCH_ARM, ARM, DISARM, LAUNCH_FIRE. Where the spec leaves a choice or a reading, it is the model's (assumption 51). -/
def Obligations.LaunchComparatorsArmAndFire : Prop :=
  ∀ (n : Nat) (s : State),
    let a : LnchArm :=
      { n := n, sec := (s.rd (lnchReg n 0)).toNat, ns := s.fld ⟨lnchReg n 4, 0, 30⟩, grace := s.fld ⟨lnchReg n 8, 22, 10⟩,
        act := s.fld ⟨lnchReg n 8, 16, 4⟩, tgt := s.fld ⟨lnchReg n 8, 8, 8⟩ }
    let arms := fun (c : Instr) (off : Nat) =>
      (0 < s.ltAhead a.sec a.ns off → runs c s (fun t => t.lnchOf n = some a ∧ t.bit (lnchStat n 22) = true ∧ t.bit (lnchStat n 23) = false
          ∧ (∀ k, k ≠ n → t.lnchOf k = s.lnchOf k) ∧ (s.bit (lnchStat n 22) = true → t.bit (lnchStat n 26) = true)))
      ∧ (s.ltAhead a.sec a.ns off < 0 → a.grace * 1000000 < -(s.ltAhead a.sec a.ns off) → runs c s (fun t =>
          t.lnchOf n = none ∧ t.bit (lnchStat n 22) = false ∧ t.bit (lnchStat n 25) = true ∧ t.bit (lnchStat n 23) = false
            ∧ t.bit (bitAt 0x5010 1) = true))
      ∧ (s.ltAhead a.sec a.ns off ≤ 0 → -(s.ltAhead a.sec a.ns off) ≤ a.grace * 1000000 → runs c s (fun t =>
          t.lnchOf n = none ∧ t.bit (lnchStat n 22) = false ∧ t.bit (lnchStat n 23) = true
            ∧ (s.ltAhead a.sec a.ns off < 0 → t.bit (lnchStat n 24) = true ∧ t.bit (bitAt 0x5010 0) = true)))
    (n < 64 → s.privComp n = false →
      arms (.arm n) 0
      ∧ (∀ arg ns, s.takes 0x04 0x40 (fun e => e.has arg && e.begunAt ns) → s.entryIdx arg 0 6 = some n → arms (.launchArm arg ns) ns)
      ∧ runs (.disarm n) s (fun t => t.lnchOf n = none ∧ t.bit (lnchStat n 22) = false ∧ (∀ k, k ≠ n → t.lnchOf k = s.lnchOf k)
          ∧ s.regsBut t (fun x => x = lnchReg n 12) ∧ s.onlyIn t [.regs, .lnch]))
    ∧ (64 ≤ n ∨ s.privComp n = true → exec (.arm n) s = .next s ∧ exec (.disarm n) s = .next s)
    ∧ (s.lnchOf n = none → exec (.launchFire n) s = .next s)
    ∧ (∀ b, n < 64 → s.lnchOf n = some b → s.ltAhead b.sec b.ns 0 < s.nextTick - s.clockNs → b.act < 5 → runs (.launchFire n) s (fun t =>
        t.lnchOf n = none ∧ t.bit (lnchStat n 23) = true ∧ t.bit (lnchStat n 22) = false
          ∧ (b.act = 1 → b.tgt < 8 → s.doOwned b.tgt = false → t.bit (doCmd b.tgt) = true)
          ∧ (b.act = 2 → b.tgt < 8 → s.doOwned b.tgt = false → t.bit (doCmd b.tgt) = false)
          ∧ (b.act = 1 ∨ b.act = 2 → s.doOwned b.tgt = true → t.rd 0x1C050 = s.rd 0x1C050)
          ∧ (b.act = 3 → b.tgt < 4 → s.mstate ≠ 6 → t.fld ⟨0x1D068 + 4 * b.tgt, 0, 15⟩ = s.fld ⟨0x1D058 + 4 * b.tgt, 0, 15⟩)
          ∧ (b.act = 4 → b.tgt < 4 → s.mstate ≠ 6 → t.fld ⟨0x1D0A8 + 4 * b.tgt, 0, 14⟩ = s.fld ⟨0x1D098 + 4 * b.tgt, 0, 14⟩)
          ∧ (s.srcFld (0x040 + n) 31 1 = 1 → t.srcFld (0x040 + n) 29 1 = 1)))
    ∧ (∀ b, s.lnchOf n = some b → s.nextTick - s.clockNs ≤ s.ltAhead b.sec b.ns 0 → exec (.launchFire n) s = .next s)

/-! ## Analogue inputs -/

/-- R297, R298: ADC_SEL selects a converter's input from its instant; ADC_TRIG, a timer at its period and a PWM output at its compare point put
a conversion of every converter of their mask on the ADC clock edge after their delay; with ADC_CTRL.EN 0, at another instant, or with the
trigger register not enabled, nothing is triggered. Completion of ADC_SEL, ADC_TRIG, ADC_TIMER_TRIGGER, PWM_COMPARE_TRIGGER. Where the spec
leaves a choice or a reading, it is the model's (assumptions 88, 90, 120). -/
def Obligations.AdcTriggersScheduleConversions : Prop :=
  ∀ (s : State) (ns : Nat),
    (∀ conv arg c, s.takes 0x10 (0x10 + conv) (fun e => e.has arg && e.begunAt ns) → s.entryIdx arg 0 3 = some c → runs (.adcSel conv arg ns) s (fun t =>
        t.adc.sel = setAt s.adc.sel conv c))
    ∧ (∀ arg, s.takes 0x11 0x14 (fun e => e.has arg && e.begunAt ns) → s.bit (bitAt 0x18040 0) = true → runs (.adcTrig arg ns) s (fun t =>
        ∀ n, n < 4 → arg % 16 / 2 ^ n % 2 = 1 →
          ⟨adcEdge (s.elapsed ns + 10 * (arg / 16 % 65536)), n, 8, s.elapsed ns + 10 * (arg / 16 % 65536)⟩ ∈ t.adc.sched))
    ∧ (∀ arg, s.bit (bitAt 0x18040 0) = false → runs (.adcTrig arg ns) s (fun t => t.adc = s.adc))
    ∧ (∀ k, k < 8 → s.bit (bitAt 0x18040 0) = true → s.bit (bitAt (0x18068 + 4 * k) 31) = true →
        (∀ e ∈ s.adc.sched, e.src ≠ k) →
        let fires := fun (c : Instr) => runs c s (fun t => ∀ n, n < 4 → s.fld ⟨0x18068 + 4 * k, 0, 4⟩ / 2 ^ n % 2 = 1 →
          ⟨adcEdge (s.elapsed ns + 10 * s.fld ⟨0x18068 + 4 * k, 4, 16⟩), n, k, s.elapsed ns + 10 * s.fld ⟨0x18068 + 4 * k, 4, 16⟩⟩
            ∈ t.adc.sched)
        (k < 4 → s.fld ⟨0x18058 + 4 * k, 0, 17⟩ ≠ 0 → ns % (10 * s.fld ⟨0x18058 + 4 * k, 0, 17⟩) = 0 → ns < 1000000 →
          fires (.adcTimerTrigger k ns))
        ∧ (∀ j p, k = 4 + j → s.dio.pwm.getD j (0, 0) = p → p.1 ≠ 0 → s.bit (pwmEn j) = true →
            p.2 + 10 * (s.fld ⟨0x1D078 + 4 * j, 0, 14⟩ * p.1 / 10000) ≤ s.elapsed ns →
            (s.elapsed ns - p.2 - 10 * (s.fld ⟨0x1D078 + 4 * j, 0, 14⟩ * p.1 / 10000)) % (10 * p.1) = 0 →
          fires (.pwmCompareTrigger j ns)))
    ∧ (∀ k, s.bit (bitAt (0x18068 + 4 * k) 31) = false ∨ s.fld ⟨0x18058 + 4 * k, 0, 17⟩ = 0 → exec (.adcTimerTrigger k ns) s = .next s)
    ∧ (∀ j, s.bit (bitAt (0x18068 + 4 * (4 + j)) 31) = false ∨ s.bit (pwmEn j) = false → exec (.pwmCompareTrigger j ns) s = .next s)

/-- R296, R300, R304: a conversion ends 2,000 ns after its sample instant: its converter is no longer BUSY, ADC_CONV_n counts, and the code,
clamped to 16 bits, joins the window of a defined channel that the sample instant fell into, the running one or one that has closed and waited for it; a code beyond the range is counted as
over-range and makes the next two conversions SETTLE. Completion of ADC_CONVERSION_END. Where the spec leaves a choice or a reading, it is
the model's (assumptions 88, 120). -/
def Obligations.ConversionsJoinTheirWindow : Prop :=
  ∀ (conv : Nat) (code : Int) (ns ch t0 : Nat) (s : State), conv < 4 → s.adc.settle.length = 4 →
    s.adc.conv.getD conv none = some (ch, t0) → ch < 32 → t0 + 2000 = s.elapsed ns →
    (∀ e ∈ s.adc.sched, s.elapsed ns ≤ e.at_) →
    runs (.adcConversionEnd conv code ns) s (fun t => t.adc.conv.getD conv none = none ∧ t.bit (adcBusy conv) = false
      ∧ (s.tfld 0x1800 ch 0 31 1 = 1 → (s.adc.closing.lookup ch) = none → (s.adcWin ch).start ≤ t0 →
          t.adcWin ch = (s.adcWin ch).add (clampI (-32768) 32767 code) (decide (clampI (-32768) 32767 code ≠ code))
            (decide (0 < s.adc.settle.getD conv 0)))
      ∧ (s.tfld 0x1800 ch 0 31 1 = 1 → clampI (-32768) 32767 code ≠ code → t.adc.settle.getD conv 0 = 2 ∧ t.bit (bitAt 0x180B0 ch) = true)
      ∧ (∀ cl, s.tfld 0x1800 ch 0 31 1 = 1 → s.adc.closing.lookup ch = some cl → t0 < cl.at_ → t.adc.closing.lookup ch = none
          ∧ t.trd 0x1801 ch 3 = BitVec.ofNat 32 (cl.win.add (clampI (-32768) 32767 code) (decide (clampI (-32768) 32767 code ≠ code))
            (decide (0 < s.adc.settle.getD conv 0))).n)
      ∧ (clampI (-32768) 32767 code = code → t.adc.settle.getD conv 0 = s.adc.settle.getD conv 0 - 1))

/-! ## Privileged channels -/

/-- R285, R286: PRIV_RELEASE on a healthy path, from its slot and no later than its bound, notes the release, and sends a class 2 request as
SUB_PRIV; PRIV_RETX sends one again that has waited PRIV_GSP_RETX, in a free slot within the bound, and counts it. An acknowledgement of a
released request ends it with the outcome of its RESULT, and PRIV_REQUEST_END at the end of its promise ends it SENT or UNDELIVERED.
Completion of PRIV_RELEASE, PRIV_RETX, PRIV_REQUEST_END, SUB_PRIV_ACK_RX, CAN_PRIV_ACK_RX. Where the spec leaves a choice or a reading, it
is the model's (assumptions 3, 81, 82). -/
def Obligations.PrivilegedRequestsAreDeliveredAndEnd : Prop :=
  ∀ (ch seq ns : Nat) (r : PrivReq) (s : State), s.privReqOf ch seq = some r →
    (2 ≤ r.cls → r.released = none → r.slot ≤ s.elapsed ns → (s.elapsed ns : Int) ≤ s.privBound r → s.pathsOk ch r.timed ≠ [] →
      (r.cls = 2 → s.privRoom (s.elapsed ns) = true) → (r.cls = 3 → s.priv.reqs.find? (fun x => x.cls == 3 && x.port == r.port) = some r) →
      runs (.privRelease ch seq ns) s (fun t => t.privReqOf ch seq = some { r with released := some (s.elapsed ns) }
        ∧ (r.cls = 2 → s.portsSend = true → ∃ m, t.sent = s.sent ++ [.gsp m] ∧ m.typ = 8 ∧ m.node = s.chDest ch
            ∧ m.flags = b2n r.timed ∧ m.recs = [privRecord r])
        ∧ (r.cls = 3 → s.Sized → r.port < 2 → s.sends = true → s.canSends r.port = true →
            (t.canP r.port).priv = (s.canP r.port).priv ++ [⟨ch, seq, s.chDest ch, privFrame r (s.chDest ch), s.elapsed ns⟩])))
    ∧ (r.released.isSome = true ∨ (s.elapsed ns) < r.slot ∨ s.privBound r < s.elapsed ns ∨ s.pathsOk ch r.timed = []
        ∨ (r.cls = 2 ∧ s.privRoom (s.elapsed ns) = false) →
      exec (.privRelease ch seq ns) s = .next s)
    ∧ (∀ t0, r.cls = 2 → r.released = some t0 → t0 + (s.rd 0x26060).toNat * 1000 ≤ s.elapsed ns →
        s.privSlot (s.elapsed ns) = s.elapsed ns → s.privRoom (s.elapsed ns) = true → (s.elapsed ns : Int) ≤ s.privBound r → s.bit (bitAt 0x12040 1) = true →
        s.groupOk (s.nodeGroup (s.chDest ch)) = true →
      runs (.privRetx ch seq ns) s (fun t => t.privReqOf ch seq = some { r with released := some (s.elapsed ns) }
        ∧ t.fld Ctr.PRIV_RETX.f = min (2 ^ 32 - 1) (s.fld Ctr.PRIV_RETX.f + 1)
        ∧ (s.portsSend = true → ∃ m, t.sent = s.sent ++ [.gsp m] ∧ m.typ = 8 ∧ m.flags = b2n r.timed + 4)))
    ∧ (r.released = none ∨ r.cls ≠ 2 → exec (.privRetx ch seq ns) s = .next s)
    ∧ (2 ≤ r.cls → r.ta + s.chPromise ch * 1000 ≤ s.elapsed ns → runs (.privRequestEnd ch seq ns) s (fun t =>
        t.privReqOf ch seq = none ∧ t.fld (chStat ch 28 4) = (if r.released.isSome then 2 else 3)
          ∧ (r.released = none → t.bit (bitAt 0x26010 3) = true)))
    ∧ (s.elapsed ns < r.ta + s.chPromise ch * 1000 → exec (.privRequestEnd ch seq ns) s = .next s)
    ∧ (∀ (f : CanFrame) (o : Nat), s.canTakes f → f.ide = false → f.fdf = true → 0x040 ≤ f.id → f.id ≤ 0x05F → 6 ≤ f.data.length →
        ch < 32 → s.chPath ch (2 + f.port) = true → beAt f.data 0 1 = ch → beAt f.data 1 4 = seq → r.cls = 3 →
        s.chDest ch = f.id - 0x040 → r.released.isSome = true → ackOutcome (beAt f.data 5 1) = some o →
      runs (.canPrivAckRx f) s (fun t => t.privReqOf ch seq = none ∧ t.fld (chStat ch 28 4) = o))
    ∧ (∀ (g : Gsp) (rs : List (Nat × List Byte)) (v : List Byte) (o : Nat), s.gspPasses g rs → s.gspBudget g.node → g.typ = 9 →
        tlvGet rs 0xE1 = some v → beAt v 0 1 = ch → beAt v 1 4 = seq → r.cls = 2 → s.chDest ch = g.node → r.released.isSome = true →
        ackOutcome (beAt v 5 1) = some o →
      runs (.subPrivAckRx g) s (fun t => t.privReqOf ch seq = none ∧ t.fld (chStat ch 28 4) = o))

/-! ## Plant buses -/

/-- R260, R261, R249: CAN_TX captures the data of a defined transmit object that is not stopped, or builds the output message of its station,
and leaves it pending since it began to wait; in bus monitoring nothing pends. CAN_REF withdraws and counts a reference that has not gone out;
with REF_EN in normal operation, awake, it queues the reference of the basic cycle, and a sleeping port does no more. CAN_FRAME_TX_DONE of a
port in normal operation sends the waiting frame that goes first and ends its waiting; a frame that does not go first, and a port that does
not send, send nothing; in internal loopback nothing reaches the bus. R259, R263, R253: a data frame goes to the lowest receive object that
matches it: with the length the object states it is accepted, its time and count recorded, a raw object's bytes written to its mailbox, and a
station's object takes its state; with another length it is counted in CANx_LEN_MISMATCH; without a match in CANx_RX_UNMATCHED; a remote
frame is counted and changes no object; an FD frame on a port without FD_EN changes no object; a port that does not hear takes nothing.
Completion of CAN_TX, CAN_REF, CAN_FRAME_TX_DONE, CAN_FRAME_RX. Where the spec leaves a choice or a reading, it is the model's
(assumptions 74, 77, 120). -/
def Obligations.BusFrames : Prop :=
  (
    ∀ (arg : Nat) (s : State), s.Sized →
      let p := arg % 2
      (∀ o, s.takes 0x49 0x0A (·.has arg) → s.entryIdx arg 1 6 = some o → s.objDef p o = true → s.objTx p o = true →
          s.objFld p o 7 30 1 = 0 → s.canRole p ≠ 4 →
          let since := (((s.canP p).pend.lookup o).map (·.2)).getD ((s.begun 0x0A).instant (s.begun 0x0A).issueNs)
          runs (.canTx arg) s (fun t => t.objFld p o 7 29 1 = 1
            ∧ (s.objFld p o 0 22 2 = 0 → (t.canP p).pend.lookup o
                = some ((List.range (s.objLen p o)).map (fun i => s.mbxByte (s.objFld p o 3 20 12) (s.objFld p o 3 0 16 + i)), since))
            ∧ (∀ k, s.objFld p o 0 22 2 ≠ 0 → s.stnOfOut p o = some k → (t.canP p).pend.lookup o
                = some (padTo (s.objLen p o) ((s.begun 0x0A).outMsg p k).1, since))
            ∧ (∀ k, k ≠ o → (t.canP p).pend.lookup k = (s.canP p).pend.lookup k)))
      ∧ (∀ o, s.takes 0x49 0x0A (·.has arg) → s.entryIdx arg 1 6 = some o →
          s.objDef p o = false ∨ s.objTx p o = false ∨ s.objFld p o 7 30 1 = 1 ∨ s.canRole p = 4 →
          runs (.canTx arg) s (fun t => (t.canP p).pend = (s.canP p).pend ∧ t.tbl = s.tbl))
      ∧ (s.takes 0x48 0x0A (·.has arg) → s.bit (cfld p 0x40 4 1) = true → s.canRole p = 2 → (s.canP p).sleep = false →
          runs (.canRef arg) s (fun t =>
            (t.canP p).ref = some (((s.begun 0x0A).canRefLost p).refBytes p, (s.nowSec % 2 ^ 32, s.nowNs),
                (s.begun 0x0A).instant (s.begun 0x0A).issueNs)
              ∧ ((s.canP p).ref ≠ none → t.rd (0x14074 + 0x1000 * p) = 0xFFFFFFFF ∧ (t.canP p).refDly = none)))
      ∧ (s.takes 0x48 0x0A (·.has arg) → s.bit (cfld p 0x40 4 1) = false ∨ s.canRole p ≠ 2 ∨ (s.canP p).sleep = true →
          runs (.canRef arg) s (fun t => (t.canP p).ref = none
            ∧ ((s.canP p).ref ≠ none → t.rd (0x14074 + 0x1000 * p) = 0xFFFFFFFF ∧ (t.canP p).refDly = none
                ∧ t.fld (Ctr.CANC_REF_LOST.shift p).f = min (2 ^ 32 - 1) (s.fld (Ctr.CANC_REF_LOST.shift p).f + 1))
            ∧ ((s.canP p).ref = none → (s.canP p).sleep = true → t.can = s.can ∧ s.onlyIn t [.seq])))
      ∧ ∀ (q item ss sn : Nat) (edges : List Nat) (ns : Nat), q < 2 →
        (s.canSendsAt q (ss, sn) = false ∨ s.canNext q item (ss, sn) = false → exec (.canFrameTxDone q item ss sn edges ns) s = .next s)
        ∧ (s.canSendsAt q (ss, sn) = true → s.canNext q item (ss, sn) = true → s.canLoop q = true →
          runs (.canFrameTxDone q item ss sn edges ns) s (fun t => t.sent = s.sent))
        ∧ (∀ d w, s.canSendsAt q (ss, sn) = true → s.canNext q item (ss, sn) = true → s.canLoop q = false → item < 64 →
          (s.canP q).pend.lookup item = some (d, w) → runs (.canFrameTxDone q item ss sn edges ns) s (fun t =>
            t.sent = s.sent ++ [.can q item (s.objFld q item 0 29 1 == 1) (s.objFld q item 0 28 1 == 1)
                (s.objFld q item 0 28 1 == 1 && s.objFld q item 0 27 1 == 1) (s.objFld q item 0 28 1 == 1 && s.fld (canConf q) == 1)
                (s.objFld q item 1 0 29) d]
              ∧ (t.canP q).pend.lookup item = none ∧ t.objFld q item 7 29 1 = 0
              ∧ t.trd (ctab q 0) item 4 = s.trd (ctab q 0) item 4 + 1 ∧ t.trd (ctab q 0) item 5 = BitVec.ofNat 32 ss
              ∧ t.trd (ctab q 0) item 6 = BitVec.ofNat 32 sn))
        ∧ (∀ b st w, s.canSendsAt q (ss, sn) = true → s.canNext q 64 (ss, sn) = true → s.canLoop q = false →
          (s.canP q).ref = some (b, st, w) → runs (.canFrameTxDone q 64 ss sn edges ns) s (fun t =>
            (t.canP q).ref = none ∧ (t.canP q).refDly = some (ltDiff st (ss, sn)).toNat
              ∧ t.rd (0x14074 + 0x1000 * q) = ofInt (ltDiff st (ss, sn))
              ∧ t.sent = s.sent ++ [.can q 64 (s.bit (cfld q 0x6C 31 1)) (!s.bit (cfld q 0x40 5 1)) false
                  (!s.bit (cfld q 0x40 5 1) && s.fld (canConf q) == 1) (s.fld (cfld q 0x6C 0 29)) b]))
        ∧ (∀ m rest, s.canSendsAt q (ss, sn) = true → s.canNext q 65 (ss, sn) = true → s.canLoop q = false →
          (s.canP q).priv = m :: rest → runs (.canFrameTxDone q 65 ss sn edges ns) s (fun t =>
            (t.canP q).priv = rest ∧ t.sent = s.sent ++ [.can q 65 false true false (s.fld (canConf q) == 1) 0 m.data])))
  ∧ (
    ∀ (f : CanFrame) (s : State), s.Sized →
      let p := f.port
      (∀ o, s.canTakes f → s.canReserved p f.ide f.id = false → s.canMatch p f = some o → f.data.length = s.objLen p o →
        runs (.canFrameRx f) s (fun t => t.trd (ctab p 0) o 4 = s.trd (ctab p 0) o 4 + 1 ∧ t.trd (ctab p 0) o 5 = BitVec.ofNat 32 f.sofSec
          ∧ t.trd (ctab p 0) o 6 = BitVec.ofNat 32 f.sofNs
          ∧ (∀ m, s.objFld p o 0 22 2 = 0 → s.mbxOf (s.objFld p o 3 20 12) = some m → m.writer = 10 →
              t.mbx = (s.mbxPutBytes (s.objFld p o 3 20 12) (s.objFld p o 3 0 16) f.data).mbx)
          ∧ (∀ k, s.objFld p o 0 22 2 ≠ 0 → s.stnOfIn p o = some k → t.stnFld p k 2 0 8 = beAt f.data 1 1
              ∧ (t.stn p k).rstate = beAt f.data 0 1 ∧ (t.stn p k).err = beAt f.data 2 2)))
      ∧ (∀ o, s.canTakes f → s.canReserved p f.ide f.id = false → s.canMatch p f = some o → f.data.length ≠ s.objLen p o →
        runs (.canFrameRx f) s (fun t => t.tbl = s.tbl ∧ t.mbx = s.mbx
          ∧ t.fld (Ctr.CANC_LEN_MISMATCH.shift p).f = min (2 ^ 32 - 1) (s.fld (Ctr.CANC_LEN_MISMATCH.shift p).f + 1)))
      ∧ (s.canTakes f → s.canReserved p f.ide f.id = false → s.canMatch p f = none →
        runs (.canFrameRx f) s (fun t => t.tbl = s.tbl ∧ t.mbx = s.mbx
          ∧ t.fld (Ctr.CANC_RX_UNMATCHED.shift p).f = (s.fld (Ctr.CANC_RX_UNMATCHED.shift p).f + 1) % 2 ^ 32))
      ∧ (p < 2 → s.canHears p (f.sofSec, f.sofNs) = true → f.remote = true → f.fdf = false ∨ s.bit (cfld p 0x40 6 1) = true →
        runs (.canFrameRx f) s (fun t => t.tbl = s.tbl ∧ t.mbx = s.mbx
          ∧ t.fld (Ctr.CANC_RX_REMOTE.shift p).f = min (2 ^ 32 - 1) (s.fld (Ctr.CANC_RX_REMOTE.shift p).f + 1)))
      ∧ (p < 2 → s.canHears p (f.sofSec, f.sofNs) = true → f.fdf = true → s.bit (cfld p 0x40 6 1) = false →
        runs (.canFrameRx f) s (fun t => t.tbl = s.tbl ∧ t.mbx = s.mbx
          ∧ (s.bit (cfld p 0x40 7 1) = true → s.mstate ≠ 3 → (t.canP p).integ = true)
          ∧ (s.bit (cfld p 0x40 7 1) = false → t.rd (0x14064 + 0x1000 * p) = BitVec.ofNat 32 (2 * 2 ^ 29 + f.id % 2 ^ 29))))
      ∧ (2 ≤ p ∨ s.canHears p (f.sofSec, f.sofNs) = false → exec (.canFrameRx f) s = .next s))

/-- R266, R267: a bus error is counted by its kind and shown in CANx_LEC; in normal operation an error of the port's own frame raises the
transmit error counter and one of a received frame the receive error counter, by the model's reading of ISO 11898-1, held at their widths,
and in other modes both stay; at 128 of either the port is error-passive, above 255 transmit errors bus-off with its event; after the time
that 128 times 11 recessive bits take it is error-active again with both counters at 0. R271, R272: an error in a data field lengthens the run
of the object, of the reference or of the received identifier; a run of three stops the object, with CLASH and STOPPED set and its
transmission withdrawn, or withdraws the cycle's reference; three of a received identifier are told once as a suspect. Fewer have no effect.
Completion of CAN_ERROR, ERR_PASSIVE, BUS_OFF, BOFF_RECOVERED, ID_CLASH, ID_CLASH_SUSPECT. Where the spec leaves a choice or a reading, it
is the model's (assumptions 75, 76). -/
def Obligations.BusErrors : Prop :=
  (
    (∀ (e : CanErr) (s : State), s.Sized → e.port < 2 →
      let heard := s.canHears e.port (s.instant 0)
      let tec := cfld e.port 0x60 16 9
      let rec_ := cfld e.port 0x60 0 8
      (heard = true → 1 ≤ e.kind → e.kind ≤ 6 → runs (.canError e) s (fun t =>
        t.rd (0x14064 + 0x1000 * e.port) = BitVec.ofNat 32 (e.kind * 2 ^ 29 + e.id % 2 ^ 29)
          ∧ t.fld ((errCtr e.kind).shift e.port).f = min (2 ^ 32 - 1) (s.fld ((errCtr e.kind).shift e.port).f + 1)
          ∧ (s.canMode e.port = 2 → e.own = none → t.fld tec = s.fld tec ∧ t.fld rec_ = min 255 (s.fld rec_ + 1 + 8 * e.dom))
          ∧ (s.canMode e.port = 2 → e.own ≠ none → t.fld rec_ = s.fld rec_
              ∧ t.fld tec = min 511 (s.fld tec + 8 * e.dom
                  + (if (e.kind = 3 ∧ s.fld (canConf e.port) = 1 ∧ e.dom = 0) ∨ (e.kind = 1 ∧ e.id = 0 ∧ e.inData = false) then 0 else 8)))
          ∧ (s.canMode e.port ≠ 2 → t.rd (0x14060 + 0x1000 * e.port) = s.rd (0x14060 + 0x1000 * e.port))
          ∧ (∀ o, e.own = some o → o < 64 → e.inData = true → t.objFld e.port o 7 0 2 = min 3 (s.objFld e.port o 7 0 2 + 1))
          ∧ (e.own = some 64 → e.inData = true → (t.canP e.port).refRun = min 3 ((s.canP e.port).refRun + 1))
          ∧ (e.own = none → e.inData = true → ∀ r, r = ((s.canP e.port).suspect.lookup e.id).getD (0, false) →
              (t.canP e.port).suspect.lookup e.id = some (r.1 + 1, r.2))))
      ∧ (heard = false ∨ e.kind = 0 ∨ 6 < e.kind → exec (.canError e) s = .next s))
    ∧ ∀ (p : Nat) (s : State), p < 2 →
      let seen := 1408 * s.bitClocks p * 25 ≤ (s.ownSince (s.canP p).boffAt + 1) * 2000000
      (s.fld (canConf p) = 0 → 128 ≤ s.fld (cfld p 0x60 16 9) ∨ 128 ≤ s.fld (cfld p 0x60 0 8) → runs (.errPassive p) s (fun t =>
        t.fld (canConf p) = 1 ∧ t.bit (bitAt (0x14010 + 0x1000 * p) 2) = true))
      ∧ (s.fld (canConf p) ≠ 0 ∨ (s.fld (cfld p 0x60 16 9) < 128 ∧ s.fld (cfld p 0x60 0 8) < 128) → exec (.errPassive p) s = .next s)
      ∧ (s.busOff p = false → 255 < s.fld (cfld p 0x60 16 9) → runs (.busOff p) s (fun t => t.busOff p = true
          ∧ t.bit (bitAt (0x14010 + 0x1000 * p) 0) = true ∧ t.fld (cfld p 0x68 0 8) = 0 ∧ (∀ e ∈ (s.canP p).pend, e ∈ (t.canP p).pend)))
      ∧ (s.busOff p = true ∨ s.fld (cfld p 0x60 16 9) ≤ 255 → exec (.busOff p) s = .next s)
      ∧ (s.busOff p = true → seen → runs (.boffRecovered p) s (fun t => t.fld (canConf p) = 0 ∧ t.rd (0x14060 + 0x1000 * p) = 0
          ∧ t.bit (bitAt (0x14010 + 0x1000 * p) 1) = true))
      ∧ (s.busOff p = false ∨ ¬ seen → exec (.boffRecovered p) s = .next s))
  ∧ (
    ∀ (p : Nat) (s : State), p < 2 → s.Sized →
      (∀ o, o < 64 → s.objFld p o 7 0 2 = 3 → s.objFld p o 7 30 1 = 0 → runs (.idClash p o) s (fun t => t.objFld p o 7 30 2 = 3
          ∧ t.objFld p o 7 29 1 = 0 ∧ (t.canP p).pend.lookup o = none ∧ t.bit (bitAt (0x14010 + 0x1000 * p) 3) = true
          ∧ t.rd (0x14088 + 0x1000 * p) = BitVec.ofNat 32 (2 ^ 31 + s.objFld p o 1 0 29)))
      ∧ (∀ o, o < 64 → s.objFld p o 7 0 2 < 3 ∨ s.objFld p o 7 30 1 = 1 → exec (.idClash p o) s = .next s)
      ∧ (3 ≤ (s.canP p).refRun → runs (.idClash p 64) s (fun t => (t.canP p).ref = none ∧ (t.canP p).refRun = 0
          ∧ t.bit (bitAt (0x14010 + 0x1000 * p) 3) = true ∧ t.bit (bitAt (0x14088 + 0x1000 * p) 29) = true))
      ∧ ((s.canP p).refRun < 3 → exec (.idClash p 64) s = .next s)
      ∧ (3 ≤ (s.canP p).privRun → runs (.idClash p 65) s (fun t => (t.canP p).privRun = 0
          ∧ t.bit (bitAt (0x14010 + 0x1000 * p) 3) = true
          ∧ (∀ m ∈ (s.canP p).priv, m ∈ (t.canP p).priv ∨ m ∈ (t.canP (1 - p)).priv)))
      ∧ ((s.canP p).privRun < 3 → exec (.idClash p 65) s = .next s)
      ∧ (∀ id n, (s.canP p).suspect.lookup id = some (n, false) → 3 ≤ n → runs (.idClashSuspect p id) s (fun t =>
          (t.canP p).suspect.lookup id = some (n, true) ∧ t.bit (bitAt (0x14010 + 0x1000 * p) 4) = true
            ∧ t.rd (0x14088 + 0x1000 * p) = BitVec.ofNat 32 (2 ^ 31 + 2 ^ 30 + id % 2 ^ 29)))
      ∧ (∀ id n told, (s.canP p).suspect.lookup id = some (n, told) → told = true ∨ n < 3 → exec (.idClashSuspect p id) s = .next s))

/-- R254, R264, R265: SLEEP puts a port to sleep and leaves what waits to be sent; WAKE, a dominant level longer than WAKE_FILT, and in
restricted operation the wake frame, wake it to integrate, with its event and without the reference that waited; a port awake is left as it
is; integration ends with CAN_INTEGRATED. R274:
on a good cycle a station in INIT with a second good cycle and one MISSING is OPERATE, one DROPPED RETURNING, one RETURNING with a second
good cycle OPERATE; on a missed one OPERATE goes to MISSING and RETURNING to DROPPED; MISS counts the missed cycles and GOOD_RUN the good
ones; a cycle that overlaps a switch-over gap is not counted as missed (R467). A MISSING station with DROP_CYC cycles missed is DROPPED, with its event and counts; STN_RESET returns one to INIT and clears DROPS.
Completion of SLEEP, WAKE, BUS_WAKE, CAN_INTEGRATED, STN_DROP, STN_RESET. Where the spec leaves a choice or a reading, it is the model's
(assumptions 77, 78, 79, 80). -/
def Obligations.PortsSleepAndStationsCycle : Prop :=
  (
    ∀ (p : Nat) (s : State), p < 2 → s.Sized →
      let woken := fun (t : State) => (t.canP p).sleep = false ∧ (t.canP p).integ = true ∧ (t.canP p).ref = none
        ∧ (t.canP p).pend = (s.canP p).pend ∧ t.bit (bitAt (0x14010 + 0x1000 * p) 7) = true ∧ (∀ q, q ≠ p → t.canP q = s.canP q)
      ((s.canP p).sleep = false → runs (.sleep p) s (fun t => (t.canP p).sleep = true ∧ (t.canP p).ref = (s.canP p).ref
          ∧ (t.canP p).pend = (s.canP p).pend))
      ∧ ((s.canP p).sleep = true → exec (.sleep p) s = .next s ∧ runs (.wake p) s woken)
      ∧ ((s.canP p).sleep = false → exec (.wake p) s = .next s)
      ∧ (∀ d f, (s.canP p).sleep = true → s.canRole p ≠ 0 → s.canRole p ≠ 3 → s.fld (cfld p 0x40 8 4) * 500 < d →
          runs (.busWake p d f) s woken)
      ∧ (∀ d f, (s.canP p).sleep = true → s.canRole p = 3 → s.wakeFrame p f = true → runs (.busWake p d (some f)) s woken)
      ∧ (∀ d f, s.canRole p = 0 ∨ (s.canRole p = 3 ∧ s.wakeFrame p f = false) → exec (.busWake p d (some f)) s = .next s)
      ∧ (∀ d f, s.canRole p ≠ 3 → d ≤ s.fld (cfld p 0x40 8 4) * 500 → exec (.busWake p d f) s = .next s)
      ∧ (s.canMode p = 1 → runs (.canIntegrated p) s (fun t => (t.canP p).integ = false ∧ s.onlyIn t [.can]))
      ∧ (s.canMode p ≠ 1 → exec (.canIntegrated p) s = .next s))
  ∧ (
    ∀ (p k : Nat) (s : State), p < 2 → k < 32 → s.Sized →
      let st := s.stnState p k
      ((s.stn p k).ended = true → (s.stnEval p k).stnFld p k 2 16 8 = 0
          ∧ (s.stnEval p k).stnFld p k 2 8 8 = min 255 (s.stnFld p k 2 8 8 + 1)
          ∧ (s.stnEval p k).stnState p k = (if st = 0 then (if 1 ≤ s.stnFld p k 2 8 8 then 1 else 0) else if st = 2 then 1 else if st = 3 then 4
              else if st = 4 then (if 1 ≤ s.stnFld p k 2 8 8 then 1 else 4) else st))
      ∧ ((s.stn p k).ended = false → (s.canP p).gapEnded = false → (s.stnEval p k).stnFld p k 2 8 8 = 0
          ∧ (s.stnEval p k).stnFld p k 2 16 8 = min 255 (s.stnFld p k 2 16 8 + 1)
          ∧ (s.stnEval p k).stnState p k = (if st = 1 then 2 else if st = 4 then 3 else st))
      ∧ ((s.stn p k).ended = false → (s.canP p).gapEnded = true → (s.stnEval p k).stnFld p k 2 8 8 = s.stnFld p k 2 8 8
          ∧ (s.stnEval p k).stnFld p k 2 16 8 = s.stnFld p k 2 16 8 ∧ (s.stnEval p k).stnState p k = st)
      ∧ (s.stnDef p k = true → st = 2 → s.stnFld p k 0 0 8 ≤ s.stnFld p k 2 16 8 → runs (.stnDrop p k) s (fun t =>
          t.stnState p k = 3 ∧ t.bit (bitAt (0x14010 + 0x1000 * p) 5) = true
            ∧ t.stnFld p k 3 0 16 = min 65535 (s.stnFld p k 3 0 16 + 1)
            ∧ t.fld (Ctr.CANC_DROP.shift p).f = min (2 ^ 32 - 1) (s.fld (Ctr.CANC_DROP.shift p).f + 1)))
      ∧ (s.stnDef p k = false ∨ st ≠ 2 ∨ s.stnFld p k 2 16 8 < s.stnFld p k 0 0 8 → exec (.stnDrop p k) s = .next s)
      ∧ (s.fld (cfld p 0x48 0 5) = k → runs (.stnReset p) s (fun t => t.stnState p k = 0 ∧ t.stnFld p k 2 16 8 = 0
          ∧ t.stnFld p k 2 8 8 = 0 ∧ t.trd (ctab p 1) k 3 = 0)))

/-! ## The substation network -/

/-- R210: a received message that reaches the module is judged in the order of the checks; the first that fails counts it in its own counter and
the message does nothing else; a line that is down receives nothing, but a standby module takes its messages from the record. Where the spec
leaves a choice or a reading, it is the model's (assumptions 65, 66, 67, 107). -/
def Obligations.MessagesAreCheckedInOrder : Prop :=
  ∀ (g : Gsp) (s : State),
    ∀ c ∈ [Instr.subHelloRx g, .subReportRx g, .subStateRx g, .subAckRx g, .subPrivAckRx g],
      let head := g.dport = s.fld ⟨0x12050, 0, 16⟩ ∧ g.version = 1 ∧ g.flags / 2 ^ 15 % 2 = 1 ∧ g.flags / 2 ^ 3 % 2 ^ 12 = 0
        ∧ g.length ≤ 1400 ∧ g.length = g.payload.length
      let known := s.nodeDef g.node = true ∧ s.nodeGroup g.node = g.group ∧ g.typ ∈ [1, 2, 4, 6, 9]
      let on := s.gspHears g
      let judged := epochCheck (s.node g.node) g.epoch g.seq
      let counts := fun (k : Ctr) => runs c s (fun t => t.fld k.f = min (2 ^ 32 - 1) (s.fld k.f + 1) ∧ t.snet = s.snet
        ∧ s.tblBut t (fun tid _ _ => evTbl tid) ∧ t.sent = s.sent)
      (2 ≤ g.port ∨ (s.lineUp g.port = false ∧ s.mstate ≠ 3) → exec c s = .next s)
      ∧ (on → ¬ head → counts .SNET_RX_BAD)
      ∧ (on → head → s.keyOk g = false ∨ s.tagOf g = false → counts .SNET_RX_AUTH_FAIL)
      ∧ (on → head → s.keyOk g = true → s.tagOf g = true → ¬ known → counts .SNET_RX_UNKNOWN)
      ∧ (on → head → s.keyOk g = true → s.tagOf g = true → known → judged = .back → g.typ ≠ 1 → counts .SNET_EPOCH_BACK)
      ∧ (on → head → s.keyOk g = true → s.tagOf g = true → known → judged = .replay → counts .SNET_RX_REPLAY)
      ∧ (∀ x fresh, on → head → s.keyOk g = true → s.tagOf g = true → known → judged = .ok x fresh →
          tlvs g.payload.length g.payload = none → counts .SNET_RX_BAD)

/-- R219, R234 to R237, R239: an accepted SUB_HELLO of a node with a command slot waits for its answer there and puts an ADMITTED node into
QUARANTINE; a SUB_REPORT waits for the node's report slot under its extended sequence with its corrected receive time, one whose LAUNCH lies
before the previous slot counted as late; a SUB_STATE of a node in QUARANTINE that was asked is accepted, or, with a register that has gone
back, sets METER_BACK and raises its event; a SUB_ACK of the key of a rekey takes the node off the rekey's list. Completion of SUB_HELLO_RX,
SUB_REPORT_RX, SUB_STATE_RX, SUB_ACK_RX. Where the spec leaves a choice or a reading, it is the model's (assumptions 63, 64, 71). -/
def Obligations.MessagesActOnTheirNode : Prop :=
  ∀ (g : Gsp) (rs : List (Nat × List Byte)) (s : State), s.gspPasses g rs →
    let n := g.node
    (g.typ = 1 → s.gspBudget n → (s.node n).cmdAt ≠ none → runs (.subHelloRx g) s (fun t =>
        (t.node n).hello = some ⟨false, identOf rs⟩ ∧ t.nodeState n = (if s.nodeState n = 2 then 1 else s.nodeState n)))
    ∧ (g.typ = 1 → s.gspBudget n → (s.node n).cmdAt = none → runs (.subHelloRx g) s (fun t =>
        (t.node n).hello = (s.node n).hello ∧ t.nodeState n = s.nodeState n))
    ∧ (g.typ = 2 → runs (.subReportRx g) s (fun t => t.nodeState n = s.nodeState n
        ∧ (∃ x fresh, epochCheck (s.node n) g.epoch g.seq = .ok x fresh ∧ (t.node n).reps = (s.node n).reps
            ++ [⟨x, g.launchSec, g.launchNs, (s.rxInstant g.port g.rxSec g.rxNs).1, (s.rxInstant g.port g.rxSec g.rxNs).2,
                 (s.node n).epoch == some g.epoch, rs⟩])
        ∧ (∀ p, (s.node n).prevSlot = some p → ltDiff p (g.launchSec, g.launchNs) < 0 →
            t.fld Ctr.SNET_RX_LATE.f = min (2 ^ 32 - 1) (s.fld Ctr.SNET_RX_LATE.f + 1))))
    ∧ (g.typ = 6 → s.gspBudget n → s.nodeState n = 1 → (s.node n).needState = true →
        (regsBack (typeKinds (s.nodeType n)) (s.node n).base (energyRegs rs) = true → runs (.subStateRx g) s (fun t =>
          t.tfld 0x1201 n 0 18 1 = 1 ∧ (t.node n).needState = false ∧ (t.node n).base = (s.node n).base ∧ t.bit (bitAt 0x12010 3) = true))
        ∧ (regsBack (typeKinds (s.nodeType n)) (s.node n).base (energyRegs rs) = false → runs (.subStateRx g) s (fun t =>
          t.tfld 0x1201 n 0 18 1 = 0 ∧ (t.node n).needState = false ∧ (t.node n).stateOk = true
            ∧ (t.node n).base = regsTake (s.node n).base (energyRegs rs))))
    ∧ (g.typ = 6 → s.gspBudget n → s.nodeState n ≠ 1 ∨ (s.node n).needState = false → runs (.subStateRx g) s (fun t =>
        (t.node n).base = (s.node n).base ∧ (t.node n).needState = (s.node n).needState ∧ t.nodeState n = s.nodeState n))
    ∧ (∀ r v, g.typ = 4 → s.gspBudget n → s.rekeyOf g.group = some r → tlvGet rs 0xC4 = some v → beAt v 0 1 = 7 → beAt v 3 1 = 0 →
        g.nk = true → g.gen = r.gen → n ∈ r.left → runs (.subAckRx g) s (fun t =>
          (∀ x ∈ t.snet.rekeys, x.group = g.group → n ∉ x.left) ∧ t.tfld 0x1201 n 0 19 1 = 0))

/-- R217, R220, R222, R227: the first GSP_TX of a substation cycle for a defined node, with no timed entry past its launch time, sends an ADMITTED
node without an answer or a rekey waiting one SUB_CMD with its queue entries and its new slot, and marks the entries SENT; it answers a
SUB_HELLO with the RESULT and the slots; a standby module sends nothing; a further one of the cycle sends nothing. The first GSP_RXCLOSE of
the cycle uses the report with the highest sequence of those received since the previous slot, counts the others, and returns MISS to 0; a
second report in a row of a node in QUARANTINE whose state is accepted admits it; a SILENT or LOST node that has reported under its known
epoch enters QUARANTINE and the report is not used; where no report is used, the miss is counted, but for the cycle of a moved slot. A further
one of the cycle does nothing. Completion of GSP_TX, GSP_RXCLOSE. Where the spec leaves a choice or a reading, it is the model's (assumptions
60, 61, 62, 63, 69, 70, 127). -/
def Obligations.SlotsSendAndCloseReports : Prop :=
  (∀ (arg ns n : Nat) (s : State), s.takes 0x40 0x0A (fun e => e.has arg && e.begunAt ns) → s.entryIdx arg 0 11 = some n →
    s.nodeDef n = true →
    ((s.node n).txCyc ≠ some s.snet.cyc → s.bit (bitAt 0x12040 1) = true → s.gspOpen = true →
        s.groupOk (s.nodeGroup n) = true → s.nodeState n = 2 → (s.node n).hello = none → s.rekeyOf (s.nodeGroup n) = none →
        (∀ e ∈ s.qOfNode n, e.immed = true ∨ e.acked = true ∨ 0 ≤ s.ltAhead e.sec e.ns ns) →
      runs (.gspTx arg ns) s (fun t => (s.portsSend = false → t.sent = s.sent)
        ∧ (s.portsSend = true → ∃ m slot, t.sent = s.sent ++ [.gsp m] ∧ m.typ = 3 ∧ m.node = n ∧ m.seq = (s.node n).txX % 65536
          ∧ m.ports = s.sendPorts ∧ m.gen = s.groupGen (s.nodeGroup n)
          ∧ m.flags = b2n ((s.cmdEntries n ns).any (fun e => !e.immed)) + b2n ((s.cmdEntries n ns).any (·.sent)) * 4
          ∧ m.recs = (s.cmdEntries n ns).map (fun e => cmdRec e.kind e.vals) ++ slot
          ∧ ((s.node n).slotDue = false → slot = [])
          ∧ (∀ r, (s.node n).slotDue = true → (s.node n).repAt = some r → slot = [(0x86, beBytes 4 r)]))
        ∧ (∀ e ∈ s.cmdEntries n ns, t.tfld 0x1202 e.idx 0 30 1 = 1)
        ∧ (t.node n).txCyc = some s.snet.cyc ∧ (t.node n).txX = (s.node n).txX + 1))
    ∧ (∀ h, (s.node n).txCyc ≠ some s.snet.cyc → s.bit (bitAt 0x12040 1) = true → s.gspOpen = true → s.portsSend = true →
        s.groupOk (s.nodeGroup n) = true → (s.node n).hello = some h →
      runs (.gspTx arg ns) s (fun t => (t.node n).hello = none ∧ ∃ m rest, t.sent = s.sent ++ .gsp m :: rest ∧ m.typ = 4 ∧ m.node = n
        ∧ m.recs = [(0xC1, beBytes 1 (s.admitResult n h) ++ beBytes 4 ((s.node n).repAt.getD 0) ++ beBytes 4 ((s.node n).cmdAt.getD 0))]))
    ∧ ((s.node n).txCyc = some s.snet.cyc → runs (.gspTx arg ns) s (fun t => t.snet = s.snet ∧ t.sent = s.sent ∧ t.tbl = s.tbl))
    ∧ ((s.node n).txCyc ≠ some s.snet.cyc → s.bit (bitAt 0x12040 1) = false ∨ s.gspOpen = false →
        runs (.gspTx arg ns) s (fun t => t.sent = s.sent ∧ t.tbl = s.tbl ∧ (t.node n).txCyc = some s.snet.cyc)))
  ∧ ∀ (arg ns n : Nat) (s : State), s.takes 0x41 0x0A (fun e => e.has arg && e.begunAt ns) → s.entryIdx arg 0 11 = some n →
    s.nodeDef n = true →
    let now := s.instant ns
    let later := fun (r : Report) => decide (0 < ltDiff now (r.rxSec, r.rxNs))
    let win := (s.node n).reps.filter (fun r => !later r
      && ((s.node n).prevSlot.map (fun p => decide (0 < ltDiff p (r.rxSec, r.rxNs)))).getD true)
    let got := if (s.node n).helloWin = true then none
      else bestReport (if s.nodeState n = 3 ∨ s.nodeState n = 4 then win.filter (·.known) else win)
    let grace := (s.node n).graceCyc = some s.snet.cyc
    ((s.node n).rxCyc = some s.snet.cyc → runs (.gspRxclose arg ns) s (fun t => t.snet = s.snet ∧ t.tbl = s.tbl ∧ t.mbx = s.mbx))
    ∧ (∀ r, (s.node n).rxCyc ≠ some s.snet.cyc → got = some r → runs (.gspRxclose arg ns) s (fun t =>
          (t.node n).reps = (s.node n).reps.filter later ∧ (t.node n).rxCyc = some s.snet.cyc
          ∧ t.fld Ctr.SNET_RX_EXCESS.f = min (2 ^ 32 - 1) (s.fld Ctr.SNET_RX_EXCESS.f + (win.length - 1))
          ∧ (s.nodeState n = 2 → t.nodeMiss n = 0 ∧ t.nodeState n = 2 ∧ t.trd 0x1201 n 15 = BitVec.ofNat 32 r.x
              ∧ t.trd 0x1201 n 17 = BitVec.ofNat 32 r.sec ∧ t.trd 0x1201 n 18 = BitVec.ofNat 32 r.ns)
          ∧ (s.nodeState n = 1 → t.nodeMiss n = 0)
          ∧ (s.nodeState n = 1 → (s.node n).stateOk = true → 1 ≤ (s.node n).run →
              regsBack (typeKinds (s.nodeType n)) (s.node n).lastRegs (energyRegs r.recs) = false → t.nodeState n = 2)
          ∧ (s.nodeState n = 1 → (s.node n).stateOk = false → t.nodeState n = 1)
          ∧ (s.nodeState n = 3 ∨ s.nodeState n = 4 → t.nodeState n = 1 ∧ (t.node n).needState = true ∧ t.nodeMiss n = 0
              ∧ t.trd 0x1201 n 15 = s.trd 0x1201 n 15)))
    ∧ ((s.node n).rxCyc ≠ some s.snet.cyc → got = none → s.nodeState n ≠ 0 → runs (.gspRxclose arg ns) s (fun t =>
          t.nodeState n = s.nodeState n ∧ (t.node n).reps = (s.node n).reps.filter later
          ∧ (grace → t.nodeMiss n = s.nodeMiss n ∧ t.fld Ctr.SNET_MISS.f = s.fld Ctr.SNET_MISS.f)
          ∧ (¬ grace → t.nodeMiss n = min 255 (s.nodeMiss n + 1)
              ∧ t.fld Ctr.SNET_MISS.f = min (2 ^ 32 - 1) (s.fld Ctr.SNET_MISS.f + 1))))
    ∧ ((s.node n).rxCyc ≠ some s.snet.cyc → s.nodeState n = 0 → runs (.gspRxclose arg ns) s (fun t =>
          t.nodeState n = 0 ∧ t.nodeMiss n = s.nodeMiss n ∧ t.fld Ctr.SNET_MISS.f = s.fld Ctr.SNET_MISS.f
            ∧ (t.node n).reps = (s.node n).reps.filter later))

/-- R223, R224, R228, R235, R237, R241, R244: three misses make an ADMITTED node SILENT, and one in QUARANTINE under revoked group keys, and fifty
a SILENT one LOST, which is counted; an acknowledged timed entry whose launch time has passed leaves the queue and stands as steady setpoint;
NODE_ACCEPT takes the reported registers as the baseline of a node with METER_BACK and is refused to another; NODE_RESET returns the node to
INIT with its queue entries discarded; NODE_CLR clears its counters; the baselines of all nodes go to MRAM with NODE_BASELINE_SAVE. R200,
R245: a line that goes down, or comes up with its clock locked and the loads on, ports A and B only with LINK_EN, sends and receives from
then on accordingly, and SNx_STAT, SNx_LINK_DOWN and the event follow at the next tick, where a module fault shows too; every 2,000 ms one
supervision frame leaves on each of the ports A and B that may send, under one number of the redundancy trailer. Completion of NODE_SILENT,
NODE_LOST, LAUNCH_QUEUE_EXPIRE, NODE_ACCEPT, NODE_RESET, NODE_CLR, NODE_BASELINE_SAVE, LINK_DOWN, LINK_UP, SFP_FAULT, PRP_SUPERVISION_FRAME.
Where the spec leaves a choice or a reading, it is the model's (assumptions 61, 63, 72, 138). -/
def Obligations.NodesAndLines : Prop :=
  (
    ∀ (n : Nat) (s : State), n < 2048 →
      let open_ := s.nodeState n = 2 ∨ (s.nodeState n = 1 ∧ s.bit (grpRev (s.nodeGroup n)) = true)
      (s.nodeDef n = true → open_ → 3 ≤ s.nodeMiss n → runs (.nodeSilent n) s (fun t =>
          t.nodeState n = 3 ∧ t.nodeMiss n = s.nodeMiss n ∧ ∀ k, k < 2048 → k ≠ n → t.nodeState k = s.nodeState k))
      ∧ (s.nodeDef n = false ∨ ¬ open_ ∨ s.nodeMiss n < 3 → exec (.nodeSilent n) s = .next s)
      ∧ (s.nodeDef n = true → s.nodeState n = 3 → 50 ≤ s.nodeMiss n → runs (.nodeLost n) s (fun t =>
          t.nodeState n = 4 ∧ t.fld Ctr.SNET_LOST.f = min (2 ^ 32 - 1) (s.fld Ctr.SNET_LOST.f + 1)))
      ∧ (s.nodeDef n = false ∨ s.nodeState n ≠ 3 ∨ s.nodeMiss n < 50 → exec (.nodeLost n) s = .next s)
      ∧ (∀ i ns, i ∈ s.qUsed → (s.qAt i).acked = true → (s.qAt i).immed = false → s.ltAhead (s.qAt i).sec (s.qAt i).ns ns ≤ 0 →
          runs (.launchQueueExpire i ns) s (fun t => i ∉ t.qUsed ∧ (∀ j, j ≠ i → (j ∈ t.qUsed ↔ j ∈ s.qUsed))
            ∧ ∃ v ∈ (t.node (s.qAt i).node).steady, v.kind = (s.qAt i).kind))
      ∧ (∀ i ns, (s.qAt i).acked = false ∨ 0 < s.ltAhead (s.qAt i).sec (s.qAt i).ns ns ∨ i ∉ s.qUsed ∨ (s.qAt i).immed = true →
          exec (.launchQueueExpire i ns) s = .next s)
      ∧ (s.fld ⟨0x12048, 0, 11⟩ = n →
        (s.tfld 0x1201 n 0 18 1 = 1 → runs .nodeAccept s (fun t => t.tfld 0x1201 n 0 18 1 = 0 ∧ (t.node n).stateOk = true
            ∧ (t.node n).needState = false ∧ (t.node n).base = (s.node n).pend.getD (s.node n).base))
        ∧ (s.tfld 0x1201 n 0 18 1 = 0 → exec .nodeAccept s = .next s)
        ∧ runs .nodeReset s (fun t => t.nodeState n = 0 ∧ t.qOfNode n = [] ∧ (t.node n).hello = none ∧ (t.node n).stateOk = false
            ∧ ∀ k, k < 2048 → k ≠ n → t.nodeState k = s.nodeState k)
        ∧ runs .nodeClr s (fun t => (∀ w, w < 256 → t.trd 0x1203 n w = 0) ∧ s.tblBut t (fun tid i _ => tid = 0x1203 ∧ i = n)
            ∧ s.onlyIn t [.tbl]))
      ∧ runs .nodeBaselineSave s (fun t => (∀ k, (t.node k).saved = (s.node k).base ∧ (t.node k).base = (s.node k).base)
          ∧ s.onlyIn t [.snet]))
  ∧ (
    ∀ (p : Nat) (s : State), p < 5 → s.Sized →
      let may := s.portClk p = true ∧ s.shed = false ∧ (2 ≤ p ∨ s.bit (bitAt (0x10040 + 0x1000 * p) 0) = true)
      (s.lineUp p = true → runs (.linkDown p) s (fun t => t.lineUp p = false ∧ (∀ q, q ≠ p → t.lineUp q = s.lineUp q)
          ∧ t.snet.line = s.snet.line ++ (if p < 2 then [(p, 0)] else []) ∧ s.onlyIn t [.snet]))
      ∧ (s.lineUp p = false → exec (.linkDown p) s = .next s)
      ∧ (s.lineUp p = false → may → runs (.linkUp p) s (fun t => t.lineUp p = true
          ∧ (∀ q, q ≠ p → t.lineUp q = s.lineUp q) ∧ t.snet.line = s.snet.line ++ (if p < 2 then [(p, 1)] else []) ∧ s.onlyIn t [.snet]))
      ∧ (s.lineUp p = true ∨ ¬ may → exec (.linkUp p) s = .next s)
      ∧ (∀ a b c, p < 2 → a = true ∨ b = true ∨ c = true → runs (.sfpFault p a b c) s (fun t => t.snet.lines = s.snet.lines
          ∧ ∃ l, t.snet.line = s.snet.line ++ l ++ [(p, 5)] ∧ (∀ k, (p, k) ∈ l ↔ (k = 2 ∧ a = true) ∨ (k = 3 ∧ b = true) ∨ (k = 4 ∧ c = true))))
      ∧ (p < 2 → ∀ k, s.snet.line = [(p, k)] → s.lineTick.snet.line = []
          ∧ (k = 0 → s.lineTick.bit (bitAt (0x10044 + 0x1000 * p) 0) = false ∧ s.lineTick.bit (bitAt (0x10010 + 0x1000 * p) 0) = true)
          ∧ (k = 1 → s.lineTick.bit (bitAt (0x10044 + 0x1000 * p) 0) = true ∧ s.lineTick.bit (bitAt (0x10010 + 0x1000 * p) 1) = true)
          ∧ (k = 2 → s.lineTick.bit (bitAt (0x10044 + 0x1000 * p) 3) = true)
          ∧ (k = 5 → s.lineTick.bit (bitAt (0x10010 + 0x1000 * p) 2) = true))
      ∧ (s.portsSend = true → (∀ f, s.snet.supAt = some f → 2000 ≤ s.since f) → runs .prpSupervisionFrame s (fun t =>
          t.sent = s.sent ++ s.sendPorts.map (fun q => OutMsg.prpSup q s.snet.prpSeq) ∧ t.snet.supAt = some s.fno
            ∧ t.snet.prpSeq = (s.snet.prpSeq + 1) % 65536))
      ∧ (∀ f, s.portsSend = false ∨ (s.snet.supAt = some f ∧ s.since f < 2000) → exec .prpSupervisionFrame s = .next s))

/-- R239, R240, R242: REKEY starts a rekey of the group in SNET_CMD_ARG to the next generation, with every node of the group to acknowledge it,
and is refused while one is in progress and at the tick at which the network master key is promoted; at the tick at S the group has the new
generation, and the nodes that have not acknowledged show it; the old generation is still accepted, but a revoked one is not, and the
revocation ends where the master key is ACTIVE; 200 frames later the old generation is not accepted any more. Completion of REKEY,
REKEY_SWITCH, REKEY_OVERLAP_END. Where the spec leaves a choice or a reading, it is the model's (assumptions 64, 67). -/
def Obligations.GroupKeysChange : Prop :=
  ∀ (g : Nat) (s : State), g < 256 →
    (s.bit (bitAt 0x1204C 0) = true ∨ s.masterPromotes = true → exec .rekey s = .next s)
    ∧ (s.bit (bitAt 0x1204C 0) = false → s.masterPromotes = false → s.fld ⟨0x12048, 16, 8⟩ = g → runs .rekey s (fun t =>
        t.bit (bitAt 0x1204C 0) = true
        ∧ ∃ r ∈ t.snet.rekeys, r.group = g ∧ r.gen = (s.groupGen g + 1) % 128 ∧ r.switched = false ∧ r.done = false
          ∧ t.rekeyOf g = some r ∧ (r.sec, r.ns) = ltAdd (s.instant 0) (s.fld ⟨0x12088, 0, 16⟩ * 1000000000)
          ∧ ∀ n, n ∈ r.left ↔ n ∈ s.nodes ∧ s.nodeGroup n = g))
    ∧ (∀ r, s.rekeyOf g = some r → r.switched = false → s.ltAhead r.sec r.ns 0 ≤ 0 → runs (.rekeySwitch g) s (fun t =>
        t.groupGen g = r.gen ∧ t.bit (bitAt 0x12010 2) = true
          ∧ (s.bit (grpRev g) = false → t.bit (grpOld g) = true ∧ t.bit (grpRev g) = false)
          ∧ (s.bit (grpRev g) = true → t.bit (grpOld g) = s.bit (grpOld g) ∧ t.bit (grpRev g) = !s.slotActive s.masterSlot)
          ∧ (∀ n ∈ r.left, n < 2048 → t.tfld 0x1201 n 0 19 1 = 1) ∧ t.snet.old.lookup g = some s.fno
          ∧ ∀ k, k ≠ g → t.groupGen k = s.groupGen k))
    ∧ (∀ r, s.rekeyOf g = some r → r.switched = true ∨ 0 < s.ltAhead r.sec r.ns 0 → exec (.rekeySwitch g) s = .next s)
    ∧ (s.rekeyOf g = none → exec (.rekeySwitch g) s = .next s)
    ∧ (∀ f, s.snet.old.lookup g = some f → 200 ≤ s.since f → runs (.rekeyOverlapEnd g) s (fun t => t.bit (grpOld g) = false
        ∧ t.snet.old.lookup g = none ∧ t.groupGen g = s.groupGen g))
    ∧ (∀ f, s.snet.old.lookup g = some f → s.since f < 200 → exec (.rekeyOverlapEnd g) s = .next s)

/-! ## Metering and power -/

/-- R319, R320, R322, R329, R337: MOD_LATCH holds the samples of every point of its mask until the point's close, with the inputs that are invalid
in the frame flagged and latched, and the frame measured where all phases are valid; in a frame whose tick has dropped the sets it holds
none. EMET_CLOSE of an enabled point gives a closed window's results with its time, closes an interval whose end has come, with its record
and the next one opened, and takes the latched samples into its window; without any the point has not started. R332 to R336: HMET_CLOSE of an
enabled, defined thermal point notes the close and the pulse count, shows a fault and holds its registers where an input is not usable, and
otherwise shows its flow, adds the volume moved and the energy to the registers of their direction, and shows no fault. A point that is not
enabled is left as it is. Completion of MOD_LATCH, EMET_CLOSE, HMET_CLOSE. Where the spec leaves a choice or a reading, it is the model's
(assumptions 52, 91, 92). -/
def Obligations.MetersTakeTheirFrames : Prop :=
  (∀ (arg stuck : Nat) (samples : List (List (List Int))) (s : State), s.Sized → s.takes 0x12 0x20 (·.has arg) →
    let pts := ((List.range 4).filter (fun p => arg / 2 ^ p % 2 == 1)).zip samples
    runs (.modLatch arg samples stuck) s (fun t =>
      (∀ p smp, (p, smp) ∈ pts →
        (s.met.dropped = false → (t.metPt p).latch = some (smp.take 16, s.modBad p stuck)
          ∧ (s.modBad p stuck % 64 = 0 → p ∈ t.met.good))
        ∧ (s.met.dropped = true → (t.metPt p).latch = (s.metPt p).latch)
        ∧ (∀ k, k < 7 → (t.bit (bitAt 0x19044 (7 * p + k)) = true ↔ s.modBad p stuck / 2 ^ k % 2 = 0)
          ∧ (s.modBad p stuck / 2 ^ k % 2 = 1 → t.bit (bitAt 0x19048 (7 * p + k)) = true)))
      ∧ (∀ q, q ∉ pts.map (·.1) → (t.metPt q).latch = (s.metPt q).latch)))
  ∧ (∀ (arg p : Nat) (s : State), s.Sized → s.takes 0x18 0x07 (·.has arg) → s.entryIdx arg 0 2 = some p → p < 4 →
    (s.bit (bitAt 0x1A040 p) = false → runs (.emetClose arg) s (fun t => s.onlyIn t [.seq]))
    ∧ (s.bit (bitAt 0x1A040 p) = true → runs (.emetClose arg) s (fun t =>
        (t.metPt p).latch = none ∧ (t.metPt p).due = none
        ∧ (∀ smp bad, (s.metPt p).latch = some (smp, bad) →
            (t.metPt p).win.length = (if (s.metPt p).due = none then (s.metPt p).win.length else 0) + smp.length)
        ∧ ((s.metPt p).latch = none → t.bit (bitAt 0x1A04C p) = false
            ∧ (t.metPt p).win = (if (s.metPt p).due = none then (s.metPt p).win else []))
        ∧ (∀ c, (s.metPt p).due = some c → t.metRd 0x1A01 p 28 = BitVec.ofNat 32 c.sec ∧ t.metRd 0x1A01 p 29 = BitVec.ofNat 32 c.ns
            ∧ (t.metPt p).hadData = decide (0 < (s.metPt p).win.length))
        ∧ (∀ i, s.met.ints.lookup p = some i → i.stop ≤ s.tai →
            t.metRd 0x1A02 (p * 96 + i.no % 96) 1 = ofInt i.start ∧ t.metRd 0x1A02 (p * 96 + i.no % 96) 2 = BitVec.ofNat 32 i.gap
            ∧ ∃ j, t.met.ints.lookup p = some j ∧ j.no = (i.no + 1) % 2 ^ 32 ∧ j.start = s.intStart (s.intMin p) s.tai
              ∧ j.stop = j.start + 60 * s.intMin p)
        ∧ (∀ i, s.met.ints.lookup p = some i → s.tai < i.stop → p ∉ s.met.pfNext → t.met.ints.lookup p = some i)
        ∧ (s.met.ints.lookup p = none → ∃ j, t.met.ints.lookup p = some j ∧ j.no = 0 ∧ j.start = s.intStart (s.intMin p) s.tai))))
  ∧ ∀ (arg ns h : Nat) (s : State), s.takes 0x19 0x07 (fun e => e.has arg && e.begunAt ns) → s.entryIdx arg 0 4 = some h → h < 16 →
    let now := (s.elapsed ns + s.met.longNs) / 125000
    let cnt := (s.rd (0x1C068 + 4 * s.hFld h 0 16 4)).toNat
    let dt8 := ((s.hmetPt h).at_.map (fun a => min 8000 (now - a))).getD 0
    let on := s.bit (bitAt 0x1B040 h) = true ∧ s.hFld h 0 31 1 = 1
    let inRange := fun (x : Sys2Proof.Machine.Num) => nle n0 x = true ∧ nle x (nint 180) = true
    let held := fun (t : State) => (t.hmetPt h).fault = true ∧ t.bit (bitAt 0x1B048 (16 + h)) = true
      ∧ t.metRd 0x1B01 h 15 = ofInt (Config.numToInt n0) ∧ (∀ w, w < 12 → t.metRd 0x1B01 h w = s.metRd 0x1B01 h w)
      ∧ ((s.hmetPt h).fault = false → t.bit (bitAt 0x1B010 0) = true
          ∧ t.fld Ctr.HMET_FAULT.f = min (2 ^ 32 - 1) (s.fld Ctr.HMET_FAULT.f + 1))
    (¬ on → runs (.hmetClose arg ns) s (fun t => s.onlyIn t [.seq]))
    ∧ (on → runs (.hmetClose arg ns) s (fun t => (t.hmetPt h).at_ = some now ∧ (t.hmetPt h).count = some cnt))
    ∧ (on → s.hTemp h 2 = none ∨ s.hTemp h 3 = none ∨ s.hPress h = none ∨ s.hVolume h cnt dt8 = none → runs (.hmetClose arg ns) s held)
    ∧ (∀ v q tf tr p, on → s.hVolume h cnt dt8 = some (v, q) → s.hTemp h 2 = some tf → s.hTemp h 3 = some tr → s.hPress h = some p →
        let small := dt8 ≠ 0 ∧ nlt (nabs q) (nf32 (s.trd 0x1B00 h 6)) = true
        let moved := ¬ small ∧ (nle v n0 && nle n0 v) = false
        let back := nlt v n0 = true
        let cold := nlt (nsub tf tr) n0 = true
        let warm := nle (nf32 (s.trd 0x1B00 h 7)) (nabs (nsub tf tr)) = true
        let dE := nmul (nmul (nmul (nabs v) (nrat 1 1000000)) (Config.waterRho (if s.hFld h 0 28 1 = 0 then tf else tr) p))
          (nabs (nsub (Config.waterH tf p) (Config.waterH tr p)))
        runs (.hmetClose arg ns) s (fun t => (¬ (inRange tf ∧ inRange tr) → held t)
          ∧ (inRange tf ∧ inRange tr → (t.hmetPt h).fault = false ∧ t.bit (bitAt 0x1B048 (16 + h)) = false
            ∧ (small → t.rd (0x1B094 + 4 * h) = ofInt (Config.numToInt n0))
            ∧ (¬ small → t.rd (0x1B094 + 4 * h) = ofInt (Config.numToInt q))
            ∧ (moved → ∀ w, w = (if back then 10 else 8) →
                t.metReg 0x1B01 h w = (s.metAdd 0x1B01 h w (nabs v)).metReg 0x1B01 h w)
            ∧ (moved → warm → ∀ w, w = (if cold then 4 else 0) + (if back then 2 else 0) →
                t.metReg 0x1B01 h w = (s.metAdd 0x1B01 h w (toMwh dE)).metReg 0x1B01 h w)
            ∧ (¬ small → (nle v n0 && nle n0 v) = true → ∀ w, w < 12 → t.metRd 0x1B01 h w = s.metRd 0x1B01 h w))))

/-- R339, R340: at frame 500's tick the registers as they stand begin to be written to the slot whose turn it is, under the next sequence
number; a verified save is committed there, and the next goes to the other slot; after a failed one, counted with its event, the next goes
to the same slot. RESTORE_ACK ends the BAD quality of registers that were not restored. R341 to R343: a power fail sheds the loads:
POWER_FAIL is raised and counted, every line goes down and the tail record of an earlier one is shown no longer; from 12 ms after it the
snapshot at the tick commits the last gasp and the tail record, marks every open interval PF, and ends what runs; a supply that has been back
for 10 ms before then ends the fail and the loads return. Completion of METER_SAVE, METER_SAVE_VERIFY, RESTORE_ACK, POWER_FAIL, PF_SNAPSHOT, POWER_RESTORED. Where
the spec leaves a choice or a reading, it is the model's (assumptions 4, 93, 94). -/
def Obligations.SavesAndPowerFail : Prop :=
  (
    ∀ s : State,
      (s.met.saveDue = true → runs .meterSave s (fun t => t.met.saveDue = false ∧ t.bit (bitAt 0x1A04C 12) = true
          ∧ t.met.saving = some (s.metSnap ((s.fld (wordAt 0x1A050) + 1) % 2 ^ 32)) ∧ t.rd 0x1A050 = s.rd 0x1A050
          ∧ (s.metNv.next = 0 → t.metNv = { s.metNv with a := none }) ∧ (s.metNv.next ≠ 0 → t.metNv = { s.metNv with b := none })))
      ∧ (s.met.saveDue = false → exec .meterSave s = .next s)
      ∧ (∀ m, s.met.saving = some m → runs (.meterSaveVerify true) s (fun t => t.rd 0x1A050 = BitVec.ofNat 32 m.seq ∧ t.met.saving = none
          ∧ t.bit (bitAt 0x1A04C 12) = false
          ∧ (s.metNv.next = 0 → t.metNv = { s.metNv with a := some m, next := 1 })
          ∧ (s.metNv.next ≠ 0 → t.metNv = { s.metNv with b := some m, next := 0 })))
      ∧ (∀ m, s.met.saving = some m → runs (.meterSaveVerify false) s (fun t => t.metNv = s.metNv ∧ t.rd 0x1A050 = s.rd 0x1A050
          ∧ t.met.saving = none ∧ t.bit (bitAt 0x1A010 2) = true
          ∧ t.fld Ctr.EMET_SAVE_FAIL.f = min (2 ^ 32 - 1) (s.fld Ctr.EMET_SAVE_FAIL.f + 1)))
      ∧ (∀ ok, s.met.saving = none → exec (.meterSaveVerify ok) s = .next s)
      ∧ runs .restoreAck s (fun t => t.met.unrestored = false ∧ t.bit (bitAt 0x1A04C 13) = false ∧ s.regsBut t (fun a => a = 0x1A04C)
          ∧ s.onlyIn t [.regs, .met]))
  ∧ (
    ∀ s : State,
      (∀ ns sh, s.powerFailing = false → s.Sized → runs (.powerFail ns sh) s (fun t => t.pwr = { pfAt := some (s.elapsed ns), done := false }
          ∧ t.bit pwrPf = true ∧ t.bit pwrShed = true ∧ t.bit (bitAt 0x2010 0) = true ∧ (∀ p, p < 5 → t.lineUp p = false)
          ∧ t.metNv.tail = none ∧ t.rd 0x2070 = BitVec.ofNat 32 (s.instant ns).1
          ∧ t.fld Ctr.PWR_PF.f = min (2 ^ 32 - 1) (s.fld Ctr.PWR_PF.f + 1)))
      ∧ (∀ ns sh, s.powerFailing = true → exec (.powerFail ns sh) s = .next s)
      ∧ (∀ pf commit ok, s.pwr.pfAt = some pf → s.pwr.done = false → pf + 12000000 ≤ s.elapsed 0 → runs (.pfSnapshot commit ok) s (fun t =>
          t.pwr.done = true ∧ (∃ m, t.metNv.tail = some m) ∧ (∀ e ∈ t.met.ints, e.2.pf = true) ∧ t.met.ints.length = s.met.ints.length
            ∧ (ok = true → t.metNv.gasp = some (s.metSnap ((s.fld (wordAt 0x1A050) + 1) % 2 ^ 32))
                ∧ t.fld (wordAt 0x1A050) = (s.fld (wordAt 0x1A050) + 1) % 2 ^ 32)
            ∧ (ok = false → t.metNv.gasp = none ∧ t.rd 0x1A050 = s.rd 0x1A050)))
      ∧ (∀ pf commit ok, s.pwr.pfAt = some pf → s.pwr.done = true ∨ s.elapsed 0 < pf + 12000000 → exec (.pfSnapshot commit ok) s = .next s)
      ∧ (∀ pf ns, s.pwr.pfAt = some pf → s.pwr.done = false → pf + 10000000 ≤ s.elapsed ns → runs (.powerRestored ns) s (fun t =>
          t.powerFailing = false ∧ t.bit pwrPf = false ∧ t.bit pwrShed = false ∧ t.bit (bitAt 0x2010 1) = true
            ∧ t.fld Ctr.PWR_RESTORED.f = min (2 ^ 32 - 1) (s.fld Ctr.PWR_RESTORED.f + 1)))
      ∧ (∀ pf ns, s.pwr.pfAt = some pf → s.elapsed ns < pf + 10000000 → exec (.powerRestored ns) s = .next s)
      ∧ (∀ ns, s.pwr.pfAt = none ∨ s.pwr.done = true → exec (.powerRestored ns) s = .next s))

/-- R526, R529, R531: a supply below UV_WARN sets UV, one above 60 V sets OV and is counted, and a store below 68 V outside a power fail clears
BALLAST_OK, each raising its event once while the condition lasts. R23: a domain that loses its lock clears its bit of CLK_LOCK, is latched
in CLK_LOST and counted, and raises LOCK_LOST; CORE and TB take the module to FAULT, a network's domain takes its lines down, MOD's ends
valid samples; a domain that regains it sets its bit and raises LOCK_BACK, and a plant bus integrates first. The TCXO's loss takes the
module to FAULT. Completion of UNDERVOLT, OVERVOLT, BALLAST_LOW, LOCK_LOST, LOCK_REGAINED. Where the spec leaves a choice or a reading, it
is the model's (assumptions 79, 93). -/
def Obligations.SupplyAndClocks : Prop :=
  (
    ∀ (mv : Nat) (s : State),
      (mv < s.fld ⟨0x2058, 0, 16⟩ → s.bit pwrUv = false → runs (.undervolt mv) s (fun t => t.bit pwrUv = true
          ∧ t.bit (bitAt 0x2010 2) = true ∧ s.regsBut t (fun a => a = 0x2040 ∨ evReg 2 a) ∧ s.onlyIn t evParts))
      ∧ (s.fld ⟨0x2058, 0, 16⟩ ≤ mv ∨ s.bit pwrUv = true → exec (.undervolt mv) s = .next s)
      ∧ (60000 < mv → s.bit pwrOv = false → runs (.overvolt mv) s (fun t => t.bit pwrOv = true ∧ t.bit (bitAt 0x2010 3) = true
          ∧ t.fld Ctr.PWR_OV.f = min (2 ^ 32 - 1) (s.fld Ctr.PWR_OV.f + 1) ∧ s.onlyIn t evParts))
      ∧ (mv ≤ 60000 ∨ s.bit pwrOv = true → exec (.overvolt mv) s = .next s)
      ∧ (mv < 68000 → s.bit pwrBallast = true → s.powerFailing = false → runs (.ballastLow mv) s (fun t => t.bit pwrBallast = false
          ∧ t.bit (bitAt 0x2010 4) = true ∧ s.regsBut t (fun a => a = 0x2040 ∨ evReg 2 a) ∧ s.onlyIn t evParts))
      ∧ (68000 ≤ mv ∨ s.bit pwrBallast = false ∨ s.powerFailing = true → exec (.ballastLow mv) s = .next s))
  ∧ (
    (∀ (d : Nat) (s : State), d < 12 →
      (s.bit (clkLock d) = true → runs (.lockLost d) s (fun t => t.bit (clkLock d) = false ∧ t.bit (bitAt 0x3044 d) = true
          ∧ t.bit (bitAt 0x3010 0) = true ∧ t.fld (Ctr.CLK_LOSS d).f = min (2 ^ 32 - 1) (s.fld (Ctr.CLK_LOSS d).f + 1)
          ∧ (∀ e, e < 12 → e ≠ d → t.bit (clkLock e) = s.bit (clkLock e))
          ∧ (d = 0 ∨ d = 2 → t.mstate = 6) ∧ (d = 3 ∨ d = 4 → t.lineUp (d - 3) = false) ∧ (d = 5 → t.lineUp 2 = false ∧ t.lineUp 3 = false)
          ∧ (d = 6 → t.lineUp 4 = false) ∧ (d = 9 → t.bit modLost = true) ∧ (d = 11 → t.bit (bitAt 0xA040 8) = true)))
      ∧ (s.bit (clkLock d) = false → exec (.lockLost d) s = .next s)
      ∧ (s.bit (clkLock d) = false → s.Sized → runs (.lockRegained d) s (fun t => t.bit (clkLock d) = true ∧ t.bit (bitAt 0x3010 1) = true
          ∧ (∀ e, e < 12 → e ≠ d → t.bit (clkLock e) = s.bit (clkLock e))
          ∧ (d = 7 ∨ d = 8 → (t.canP (d - 7)).integ = true) ∧ (d = 9 → t.bit modLost = false) ∧ (d = 11 → t.bit (bitAt 0xA040 8) = false)))
      ∧ (s.bit (clkLock d) = true → exec (.lockRegained d) s = .next s))
    ∧ ∀ s : State, runs (.lockLost 12) s (fun t => t.bit (bitAt 0x3010 2) = true ∧ t.mstate = 6))

/-! ## Control loops -/

/-- R348, R350, R352, R354 to R356, R362: with the engine on, LOOP_GROUP executes every covered loop that is defined and due and not under test,
and counts the run: in MAN, out of HOLD, it publishes MAN_OUT clamped to its limits, GOOD; held it publishes its last output again; in AUTO
without a usable PV or SP the last output, STALE, or with SAFE_EN the safe one, SUBST, and PV_BAD; with both, the output of R350, which is
clamped to the limits, or where a value is not finite the last one, STALE, and NONFINITE; an OFF loop 0, INIT. A loop that is not due, or not
defined, keeps what it has, and with the engine off nothing runs. R362, R365: a write of LOOP_HOLD_SET_k holds the loops of its mask, and ends
a test of one of them with reason 5; one of LOOP_HOLD_CLR_k releases them, a held one to return without a step. Other loops keep their HOLD.
Completion of LOOP_GROUP, LOOP_HOLD_SET, LOOP_HOLD_CLR. Where the spec leaves a choice or a reading, it is the model's (assumptions 95, 141). -/
def Obligations.LoopsExecuteAndHold : Prop :=
  (
    ∀ (arg : Nat) (s : State), s.takes 0x20 0x06 (·.has arg) →
      (s.bit (bitAt 0x20040 0) = false → runs (.loopGroup arg) s (fun t => s.onlyIn t [.seq]))
      ∧ ∀ (i l : Nat), s.bit (bitAt 0x20040 0) = true → i ≤ arg / 256 % 256 → l = (arg + i) % 256 →
        (∀ u, s.loop.tune = some u → u.loop ≠ l) →
      let due := s.loopDef l = true ∧ s.loopDiv l ≠ 0 ∧ s.frame % s.loopDiv l = s.loopPhase l ∧ (s.loopSt l).last ≠ some s.fno
      let ran := fun (post : State → Prop) => runs (.loopGroup arg) s (fun t =>
        t.lw l 19 = s.lw l 19 + 1 ∧ (t.loopSt l).last = some s.fno ∧ post t)
      let kept := fun (t : State) => t.lw l 14 = s.lw l 14 ∧ t.lb l 18 24 8 = s.lb l 18 24 8
      (¬ due → runs (.loopGroup arg) s (fun t => (∀ w, t.lw l w = s.lw l w) ∧ t.loopSt l = s.loopSt l))
      ∧ (due → s.loopMode l = 0 → runs (.loopGroup arg) s (fun t => t.lw l 14 = 0 ∧ t.lb l 18 24 8 = 6 ∧ t.lw l 19 = s.lw l 19))
      ∧ (due → s.loopMode l ≠ 0 → s.lb l 0 22 1 = 1 → ran kept)
      ∧ (due → s.loopMode l = 1 → s.lb l 0 22 1 = 0 → ran (fun t => t.lb l 18 24 8 = 0
          ∧ t.lw l 14 = f32Clamp (if (s.loopSt l).wasAuto = true ∧ (s.loopSt l).manWr = false then s.lw l 14 else s.lw l 11) (s.lw l 9) (s.lw l 10)))
      ∧ (due → 2 ≤ s.loopMode l → s.lb l 0 22 1 = 0 → s.loopPv l = none ∨ (s.loopSp l).1 = none → ran (fun t => t.lflag l flPvBad = true
          ∧ (s.lb l 0 23 1 = 0 → t.lw l 14 = s.lw l 14 ∧ t.lb l 18 24 8 = 3)
          ∧ (s.lb l 0 23 1 = 1 → t.lw l 14 = f32Clamp (s.lw l 12) (s.lw l 9) (s.lw l 10) ∧ t.lb l 18 24 8 = 2)))
      ∧ (∀ pv sp, due → 2 ≤ s.loopMode l → s.lb l 0 22 1 = 0 → s.loopPv l = some pv → (s.loopSp l).1 = some sp →
          let r := s.loopPid l (s.loopTs l) pv.1 sp
          ran (fun t => t.lflag l flPvBad = false ∧ t.lw l 16 = pv.1 ∧ t.lw l 17 = sp
            ∧ (r.ok = true → t.lflag l flNonfinite = false ∧ t.lw l 14 = r.u ∧ (∃ v, r.u = f32Clamp v (s.lw l 9) (s.lw l 10))
                ∧ t.lb l 18 24 8 = loopQual pv.2 (s.loopSp l).2)
            ∧ (r.ok = false → t.lflag l flNonfinite = true ∧ t.lw l 14 = s.lw l 14 ∧ t.lb l 18 24 8 = 3))))
  ∧ (
    ∀ (k : Nat) (v : Word) (s : State),
      runs (.loopHoldSet k v) s (fun t => ∀ l, l < 256 →
        (l / 32 = k % 8 → wbit v (l % 32) = true → t.lb l 0 22 1 = 1)
        ∧ (l / 32 ≠ k % 8 ∨ wbit v (l % 32) = false → t.lb l 0 22 1 = s.lb l 0 22 1))
      ∧ runs (.loopHoldClr k v) s (fun t => ∀ l, l < 256 →
        (l / 32 = k % 8 → wbit v (l % 32) = true → t.lb l 0 22 1 = 0 ∧ (s.lb l 0 22 1 = 1 → (t.loopSt l).ret = true))
        ∧ (l / 32 ≠ k % 8 ∨ wbit v (l % 32) = false → t.lb l 0 22 1 = s.lb l 0 22 1 ∧ t.loopSt l = s.loopSt l))
      ∧ (∀ u, s.loop.tune = some u → u.loop < 256 → u.loop / 32 = k % 8 → wbit v (u.loop % 32) = true → runs (.loopHoldSet k v) s (fun t =>
          t.loop.tune = none ∧ t.tfld 0x2002 u.loop 0 24 4 = 5)))

/-- R363, R365, R366: TUNE starts a relay test of a loop that runs in no group, out of HOLD and with a usable PV and SP, about its output with
the relay inside its limits, and is turned away otherwise and while one runs; TMO seconds later, or with TUNE_ABORT, the test ends with its reason, the loop
publishes the output it began with, and TUNE_FAIL is raised; APPLY_PROP takes a finished proposal's gains and is refused without one.
Completion of TUNE, TUNE_TIMEOUT, TUNE_ABORT, APPLY_PROP. Where the spec leaves a choice or a reading, it is the model's (assumption 96). -/
def Obligations.RelayTestsRunAndEnd : Prop :=
  ∀ (l : Nat) (s : State), s.fld ⟨0x20048, 0, 8⟩ = l →
    let hi := f32Add (s.lw l 14) (s.rd 0x20050)
    let lo := f32Sub (s.lw l 14) (s.rd 0x20050)
    let inside := f32Le (s.lw l 9) lo = true ∧ f32Le hi (s.lw l 10) = true ∧ f32Le (s.lw l 9) hi = true ∧ f32Le lo (s.lw l 10) = true
    (∀ t, s.loop.tune = some t → exec .tune s = .next s)
    ∧ (s.loop.tune = none → s.bit (bitAt 0x20040 0) = false ∨ s.loopDef l = false ∨ s.loopMode l = 0 ∨ s.loopGroup l ≠ none
        ∨ s.lb l 0 22 1 = 1 ∨ s.loopPv l = none ∨ (s.loopSp l).1 = none ∨ ¬ inside → exec .tune s = .next s)
    ∧ (∀ pv sp, s.loop.tune = none → s.bit (bitAt 0x20040 0) = true → s.loopDef l = true → s.loopMode l ≠ 0 → s.loopGroup l = none →
        s.lb l 0 22 1 = 0 → s.loopPv l = some pv → (s.loopSp l).1 = some sp → inside →
        runs .tune s (fun t => (∃ u, t.loop.tune = some u ∧ u.loop = l ∧ u.bias = s.lw l 14 ∧ u.sp0 = sp ∧ u.at_ = s.fno ∧ u.cycles = [])
          ∧ t.lflag l flTuning = true ∧ t.bit tuneBusy = true ∧ t.fld ⟨0x2004C, 0, 8⟩ = l ∧ t.tfld 0x2002 l 0 28 4 = 1))
    ∧ (∀ u, s.loop.tune = some u → u.loop < 256 →
        let ended := fun (reason : Nat) (t : State) => t.loop.tune = none ∧ t.bit tuneBusy = false ∧ t.lflag u.loop flTuning = false
          ∧ t.lw u.loop 14 = u.bias ∧ (t.loopSt u.loop).ret = true ∧ t.tfld 0x2002 u.loop 0 28 4 = 3
          ∧ t.tfld 0x2002 u.loop 0 24 4 = reason ∧ t.bit (bitAt 0x20010 1) = true
        runs .tuneAbort s (ended 1)
        ∧ (s.fld ⟨0x20058, 16, 16⟩ * 1000 ≤ s.since u.at_ → runs .tuneTimeout s (ended 2))
        ∧ (s.since u.at_ < s.fld ⟨0x20058, 16, 16⟩ * 1000 → exec .tuneTimeout s = .next s))
    ∧ (s.loop.tune = none → exec .tuneAbort s = .next s ∧ exec .tuneTimeout s = .next s)
    ∧ (s.tfld 0x2002 l 0 28 4 = 2 → runs .applyProp s (fun t => (∀ i, i < 4 → t.lw l (5 + i) = s.trd 0x2002 l (3 + i))
        ∧ (t.loopSt l).ret = true ∧ s.tblBut t (fun tid i w => tid = 0x2000 ∧ i = l ∧ 5 ≤ w ∧ w ≤ 8) ∧ s.onlyIn t [.tbl, .loop]))
    ∧ (s.tfld 0x2002 l 0 28 4 ≠ 2 → exec .applyProp s = .next s)

/-! ## Models, programs and plans -/

/-- R137, R172: the model and the asset bank: VERIFY starts a verification unless one runs or a switch is pending, its end gives the verdict,
SWITCH needs VERIFIED, CANCEL ends a pending switch, and at a tick that starts a hyperframe a pending switch exchanges the banks. R393,
R394: a CPE's program bank: VERIFY starts a verification, and withdraws a pending switch; its end gives the verdict; SWITCH needs VERIFIED
and takes AT_EN and AT_FRAME as they stand; CANCEL ends a pending switch; at its tick the banks exchange and the CPE counts the switch.
Completion of MODEL_VERIFY, MODEL_VERIFY_END, MODEL_SWITCH, MODEL_CANCEL, MODEL_BANK_SWITCH, OPT_VERIFY, OPT_VERIFY_END, OPT_SWITCH,
OPT_CANCEL, OPT_BANK_SWITCH, CPE_VERIFY, CPE_VERIFY_END, CPE_SWITCH, CPE_CANCEL, CPE_BANK_SWITCH. Where the spec leaves a choice or a
reading, it is the model's (assumptions 5, 53, 99). -/
def Obligations.ModelAssetAndProgramBanks : Prop :=
  (
    ∀ (s : State),
      ∀ e ∈ [(modelBank, Instr.modelVerify, Instr.modelSwitch, Instr.modelCancel, Instr.modelVerifyEnd, s.modelVerify, Instr.modelBankSwitch),
             (optBank, .optVerify, .optSwitch, .optCancel, .optVerifyEnd, s.optVerify, .optBankSwitch)],
        let b := e.1
        let only := s.regsBut
        (s.bit b.busy = true ∨ s.bit b.pend = true → exec e.2.1 s = .next s)
        ∧ (s.bit b.busy = false → s.bit b.pend = false → runs e.2.1 s (fun t => t.bit b.busy = true ∧ t.bit b.ver = false
            ∧ only t (fun a => a = b.stat) ∧ s.onlyIn t [.regs]))
        ∧ (s.bit b.ver = false → exec e.2.2.1 s = .next s)
        ∧ (s.bit b.ver = true → runs e.2.2.1 s (fun t => t.bit b.pend = true ∧ t.bit b.ver = true ∧ only t (fun a => a = b.stat)
            ∧ s.onlyIn t [.regs]))
        ∧ runs e.2.2.2.1 s (fun t => t.bit b.pend = false ∧ t.bit b.ver = s.bit b.ver ∧ only t (fun a => a = b.stat) ∧ s.onlyIn t [.regs])
        ∧ (s.bit b.busy = false → exec e.2.2.2.2.1 s = .next s)
        ∧ (s.bit b.busy = true → e.2.2.2.2.2.1 = none → runs e.2.2.2.2.1 s (fun t => t.bit b.busy = false ∧ t.bit b.ver = true
            ∧ t.bit b.failed = false ∧ t.rd b.err = 0 ∧ t.bit (bitAt (addrOf b.page 0x10) b.evDone) = true
            ∧ only t (fun a => a = b.stat ∨ a = b.err ∨ evReg b.page a)))
        ∧ (∀ c i j, s.bit b.busy = true → e.2.2.2.2.2.1 = some (c, i, j) → runs e.2.2.2.2.1 s (fun t => t.bit b.busy = false
            ∧ t.bit b.ver = s.bit b.ver ∧ t.bit b.failed = true ∧ t.rd b.err = BitVec.ofNat 32 (c * 2 ^ 28 + i * 2 ^ 24 + j)
            ∧ t.bit (bitAt (addrOf b.page 0x10) b.evFail) = true ∧ only t (fun a => a = b.stat ∨ a = b.err ∨ evReg b.page a)))
        ∧ (s.bit b.pend = false ∨ s.seq.hfStart = false ∨ s.inExt = true → exec e.2.2.2.2.2.2 s = .next s)
        ∧ (s.bit b.pend = true → s.seq.hfStart = true → s.inExt = false → runs e.2.2.2.2.2.2 s (fun t => t.bit b.pend = false
            ∧ t.bit b.ver = true ∧ t.fld b.act = 1 - s.fld b.act ∧ t.bit (bitAt (addrOf b.page 0x10) b.evSwitch) = true)))
  ∧ (
    ∀ (p : Nat) (s : State), p < 2 → s.Sized →
      let b := cpeBank p
      (s.bit b.busy = true → exec (.cpeVerify p) s = .next s)
      ∧ (s.bit b.busy = false → runs (.cpeVerify p) s (fun t => t.bit b.busy = true ∧ t.bit b.ver = false ∧ t.bit b.pend = false
          ∧ t.keyAt (1 + p) = s.keySlot3
          ∧ (s.bit b.pend = true → t.bit (bitAt (0x21010 + 0x1000 * p) 3) = true)))
      ∧ (∀ o, s.bit b.busy = false → exec (.cpeVerifyEnd p o) s = .next s)
      ∧ (∀ o, s.bit b.busy = true → s.cpeVerify p o = none → runs (.cpeVerifyEnd p o) s (fun t => t.bit b.busy = false ∧ t.bit b.ver = true
          ∧ t.bit b.failed = false ∧ t.rd b.err = 0 ∧ t.rd (0x2105C + 0x1000 * p) = BitVec.ofNat 32 (s.imgId p 1)
          ∧ t.bit (bitAt (0x21010 + 0x1000 * p) 0) = true))
      ∧ (∀ o c ty off, s.bit b.busy = true → s.cpeVerify p o = some (c, ty, off) → runs (.cpeVerifyEnd p o) s (fun t =>
          t.bit b.busy = false ∧ t.bit b.failed = true ∧ t.bit b.ver = s.bit b.ver
            ∧ t.rd b.err = BitVec.ofNat 32 (c * 2 ^ 28 + ty * 2 ^ 24 + off % 2 ^ 24) ∧ t.bit (bitAt (0x21010 + 0x1000 * p) 1) = true))
      ∧ (s.bit b.ver = false → exec (.cpeSwitch p) s = .next s)
      ∧ (s.bit b.ver = true → runs (.cpeSwitch p) s (fun t => t.bit b.pend = true
          ∧ (t.cpeP p).switchAt = (if s.bit (pfld p 0x48 15 1) then some (s.fld (pfld p 0x48 16 10)) else none)
          ∧ s.regsBut t (fun a => a = b.stat) ∧ s.onlyIn t [.regs, .cpe]))
      ∧ runs (.cpeCancel p) s (fun t => t.bit b.pend = false ∧ t.bit b.ver = s.bit b.ver ∧ s.regsBut t (fun a => a = b.stat)
          ∧ s.onlyIn t [.regs])
      ∧ (s.bit b.pend = false ∨ s.cpeSwitchNow p = false → exec (.cpeBankSwitch p) s = .next s)
      ∧ (s.bit b.pend = true → s.cpeSwitchNow p = true → runs (.cpeBankSwitch p) s (fun t => t.bit b.pend = false
          ∧ t.fld b.act = 1 - s.fld b.act ∧ (t.cpeP p).switchFno = some s.fno ∧ (t.cpeP p).switchAt = none
          ∧ t.bit (bitAt (0x21010 + 0x1000 * p) 2) = true
          ∧ t.fld (Ctr.CPE0_SWITCH.shift p).f = (s.fld (Ctr.CPE0_SWITCH.shift p).f + 1) % 2 ^ 32)))

/-- R371, R379, R380, R383, R394: CPE_TASK runs a defined task of a CPE that is on, by its block code: an execution that comes to its end commits
what it has written, is counted, and ends the STALE of its outputs; one that ends in a fault is counted, raises its event, leaves instance
data as it was and makes the outputs STALE; one that does not end within its charged worst case is not this step, but ENTRY_DEADLINE. A
stopped CPE and the switch frame run none, and a task that is not defined executes nothing; nor does task 4 with no error record to serve
and no event pending. CLR_FORCES clears ENABLE of every force. RETAIN_SAVE at frame 500 saves the retained variables of each CPE with an image
to the slot whose turn it is. Completion of CPE_TASK, CLR_FORCES, RETAIN_SAVE. Where the spec leaves a choice or a reading, it is the
model's (assumptions 97, 99). -/
def Obligations.ProgramsRunAndSave : Prop :=
  ∀ (p : Nat) (s : State), p < 2 → s.Sized →
    (∀ arg rs, s.takes 0x28 (8 + p) (·.has arg) → s.cpeEmpty p = false → arg % 8 < 4 → s.taskDef p (arg % 8) = true →
      let k := arg % 8
      let b := (s.begun (8 + p)).cpeBegin p k none (runOf rs k)
      let x := CpeVm.go b.1 (s.cpeFuel p k) b.2
      runs (.cpeTask (8 + p) arg rs) s (fun t =>
        (x.2.1 = .ended → k ∉ (t.cpeP p).stale
          ∧ t.fld ((Ctr.CPE0_TASK_RUN k).shift p).f = (s.fld ((Ctr.CPE0_TASK_RUN k).shift p).f + 1) % 2 ^ 32
          ∧ (∀ off, off < 2 ^ 21 → t.instByte p off = (x.1.commit b.1).instByte p off)
          ∧ (∀ off, off < 2 ^ 21 → (∀ e ∈ x.1.mem, e.1 ≠ off) → t.instByte p off = s.instByte p off))
        ∧ (∀ f, x.2.1 = .fault f → k ∈ (t.cpeP p).stale ∧ t.bit (bitAt (0x21010 + 0x1000 * p) 7) = true
          ∧ t.fld ((Ctr.CPE0_TASK_RUN k).shift p).f = s.fld ((Ctr.CPE0_TASK_RUN k).shift p).f
          ∧ t.fld (Ctr.CPE0_RTF.shift p).f = min (2 ^ 32 - 1) (s.fld (Ctr.CPE0_RTF.shift p).f + 1)
          ∧ ∀ off, off < 2 ^ 21 → t.instByte p off = s.instByte p off)
        ∧ (x.2.1 = .stuck → t = s)))
    ∧ (∀ arg rs, s.takes 0x28 (8 + p) (·.has arg) → s.cpeEmpty p = false →
        (arg % 8 ≠ 4 ∧ (s.taskDef p (arg % 8) = false ∨ 4 < arg % 8))
          ∨ (arg % 8 = 4 ∧ s.errServed p = none ∧ (s.trigItems p).evtRun p = []) →
        runs (.cpeTask (8 + p) arg rs) s (fun t => (t.cpeP p).stale = (s.cpeP p).stale
          ∧ (∀ j, j < 5 → t.fld ((Ctr.CPE0_TASK_RUN j).shift p).f = s.fld ((Ctr.CPE0_TASK_RUN j).shift p).f)
          ∧ ∀ off, off < 2 ^ 21 → t.instByte p off = s.instByte p off))
    ∧ (∀ arg rs, s.takes 0x28 (8 + p) (·.has arg) → s.cpeEmpty p = true → runs (.cpeTask (8 + p) arg rs) s (fun t => s.onlyIn t [.seq]))
    ∧ runs (.clrForces p) s (fun t => (∀ i, i < 256 → t.tfld (pt p 2) i 0 31 1 = 0)
        ∧ s.tblBut t (fun tid i w => tid = pt p 2 ∧ i < 256 ∧ w = 0) ∧ s.onlyIn t [.tbl])
    ∧ (s.frame = 500 → s.inExt = false → s.imgLen p 0 ≠ 0 → (s.cpeP p).retAt ≠ some s.fno → runs .retainSave s (fun t =>
        (t.cpeP p).retAt = some s.fno
          ∧ t.fld (wordAt (0x2108C + 0x1000 * p)) = (s.fld (wordAt (0x2108C + 0x1000 * p)) + 1) % 2 ^ 32
          ∧ ∃ n v, s.cpeNv[p]? = some n ∧ v.seq = (s.fld (wordAt (0x2108C + 0x1000 * p)) + 1) % 2 ^ 32 ∧ v.vars = s.retained p
            ∧ v.image = s.imgId p 0
            ∧ t.cpeNv[p]? = some (if n.next = 0 then { n with a := some v, next := 1 } else { n with b := some v, next := 0 })))
    ∧ (s.frame ≠ 500 ∨ s.inExt = true → exec .retainSave s = .next s)

/-- R131, R142, R143, R144, R147, R151, R152, R156: MODEL_HYD of an enabled circuit solves it with the inputs of its front buffers: a solve that
converges gives the circuit its pressures and flows, is counted and ends its STALE; one that does not keeps them, marks them STALE and is
counted; either way the flows stand in the segments' records. MODEL_THM of a circuit that has converged advances its step to this frame, every
segment of it has started, and the records hold the temperatures of the segments' ends and of the junctions. MODEL_ARR refreshes a part of
which some circuit has converged: the records of those circuits' nodes carry its time and their status, and the part is not STALE; a part that
has not been refreshed in 1,000 frames, or with ARR_EN 0, is marked STALE. A function that is off, or that waits for a first converged solve,
changes nothing of the model. R147, R158, R160: a balance that has stayed above LEAK_THR for LEAK_TIME sets the circuit's LEAK with its event,
and one that has stayed below ends it; PARCEL_RESET makes every segment start again; ADAPT_RESET returns the factors of the defined segments
to those of their records. Completion of MODEL_HYD, MODEL_THM, MODEL_ARR, ARR_PART_STALE, LEAK_DETECT, PARCEL_RESET, ADAPT_RESET. Where the
spec leaves a choice or a reading, it is the model's (assumptions 38, 52, 133, 135). -/
def Obligations.TheModelSolves : Prop :=
  (∀ (arg : Nat) (s : State), s.Sized →
    let c := arg % 4
    let p := arg % 16
    let r := (((s.begun 1).readInputs c).hourly c).hydSolve c
    (s.takes 0x30 0x01 (·.has arg) → s.modelEn 0 = true → s.circuitOn c = true → runs (.modelHyd arg) s (fun t =>
        t.fld ⟨mreg c 0, 0, 4⟩ = r.iter % 16 ∧ (∀ i ∈ s.ofCircuit 0x2401 c, t.trd 0x2409 i 0 = mlS (t.qOf 0 i))
        ∧ (r.conv = true → t.everConv c = true ∧ t.bit (bitAt (mreg c 0) 6) = false
          ∧ (∀ e ∈ r.press, t.model.press.lookup e.1 = r.press.lookup e.1)
          ∧ (∀ f ∈ r.flows, t.model.flow.lookup f.1.key = (r.flows.map (fun f => (f.1.key, f.2.1))).lookup f.1.key)
          ∧ t.fld (Ctr.MODEL_C_SOLVE c).f = (s.fld (Ctr.MODEL_C_SOLVE c).f + 1) % 2 ^ 32)
        ∧ (r.conv = false → t.bit (bitAt (mreg c 0) 6) = true ∧ t.model.press = s.model.press ∧ t.model.flow = s.model.flow
          ∧ t.fld (Ctr.MODEL_C_NOCONV c).f = min (2 ^ 32 - 1) (s.fld (Ctr.MODEL_C_NOCONV c).f + 1)
          ∧ (s.bit (bitAt (mreg c 0) 6) = false → t.bit (bitAt 0x24010 0) = true))))
    ∧ (s.takes 0x30 0x01 (·.has arg) → s.modelEn 0 = false ∨ s.circuitOn c = false → runs (.modelHyd arg) s (fun t =>
        t.model = s.model ∧ t.mbx = s.mbx))
    ∧ (s.takes 0x31 0x01 (·.has arg) → s.modelEn 1 = true → s.circuitOn c = true → s.everConv c = true → runs (.modelThm arg) s (fun t =>
        t.model.thmAt.getD c none = some s.fno ∧ t.model.press = s.model.press ∧ t.model.flow = s.model.flow
          ∧ (∀ i ∈ s.ofCircuit 0x2401 c, t.model.parcels.lookup i ≠ none
              ∧ t.trd 0x2409 i 1 = mC (t.segEndT i false) ∧ t.trd 0x2409 i 2 = mC (t.segEndT i true))
          ∧ (∀ j ∈ s.junctions c, t.trd 0x240A j 1 = mC (t.jTemp j))))
    ∧ (s.takes 0x31 0x01 (·.has arg) → s.modelEn 1 = false ∨ s.circuitOn c = false ∨ s.everConv c = false →
        runs (.modelThm arg) s (fun t => t.model = s.model ∧ t.mbx = s.mbx))
    ∧ (s.takes 0x32 0x01 (·.has arg) → s.modelEn 2 = true → s.arrBud p ≠ 0 → runs (.modelArr arg) s (fun t =>
        (s.partNodes p = [] ∨ (∃ n ∈ s.partNodes p, s.everConv (s.tfld 0x2406 n 0 28 2) = true) →
            t.model.arrAt.getD p none = some s.fno ∧ t.bit (bitAt 0x24060 (16 + p)) = false ∧ t.partStale p = false)
        ∧ (s.partNodes p ≠ [] → (∀ n ∈ s.partNodes p, s.everConv (s.tfld 0x2406 n 0 28 2) = false) →
            t.model.arrAt = s.model.arrAt ∧ t.rd 0x24060 = s.rd 0x24060 ∧ ∀ n w, t.trd 0x240C n w = s.trd 0x240C n w)
        ∧ (∀ n ∈ s.partNodes p, s.everConv (s.tfld 0x2406 n 0 28 2) = true → t.tfld 0x240C n 0 24 8 = s.arrStatus n
            ∧ t.trd 0x240C n 2 = lo32 s.nowSec ∧ t.trd 0x240C n 3 = lo32 s.nowNs)))
    ∧ (s.takes 0x32 0x01 (·.has arg) → s.modelEn 2 = false ∨ s.arrBud p = 0 → runs (.modelArr arg) s (fun t =>
        t.model = s.model ∧ t.mbx = s.mbx)))
  ∧ (∀ (p : Nat) (s : State),
    (p < 16 → s.partStale p = true → runs (.arrPartStale p) s (fun t => t.bit (bitAt 0x24060 (16 + p)) = true
        ∧ ∀ n ∈ s.partNodes p, t.tfld 0x240C n 0 24 8 = s.arrStaleQ n (s.tfld 0x240C n 0 24 8) ∧ t.trd 0x240C n 1 = s.trd 0x240C n 1))
    ∧ (16 ≤ p ∨ s.partStale p = false → exec (.arrPartStale p) s = .next s))
  ∧ (
    (∀ (c : Nat) (s : State), c < 4 →
      let t := s.fld ⟨mreg c 0x24, 16, 16⟩ * 1000
      (∀ f, s.model.above.getD c none = some f → t ≤ s.since f → s.bit (bitAt (mreg c 0) 7) = false → runs (.leakDetect c) s (fun u =>
          u.bit (bitAt (mreg c 0) 7) = true ∧ u.bit (bitAt 0x24048 (16 + c)) = true ∧ u.bit (bitAt 0x24010 1) = true ∧ s.onlyIn u evParts))
      ∧ (∀ f, s.model.below.getD c none = some f → t ≤ s.since f → s.bit (bitAt (mreg c 0) 7) = true → runs (.leakDetect c) s (fun u =>
          u.bit (bitAt (mreg c 0) 7) = false ∧ u.bit (bitAt 0x24048 (16 + c)) = false ∧ s.onlyIn u [.regs]))
      ∧ (s.bit (bitAt (mreg c 0) 7) = false → (∀ f, s.model.above.getD c none = some f → s.since f < t) → exec (.leakDetect c) s = .next s)
      ∧ (s.bit (bitAt (mreg c 0) 7) = true → (∀ f, s.model.below.getD c none = some f → s.since f < t) → exec (.leakDetect c) s = .next s))
    ∧ ∀ s : State,
      runs .parcelReset s (fun t => t.model = { s.model with parcels := [], entered := [] }
          ∧ t.fld ⟨0x24050, 0, 19⟩ = (s.defined 0x2401 0).length % 2 ^ 19 ∧ s.regsBut t (fun a => a = 0x24050 ∨ a = 0x24054)
          ∧ s.onlyIn t [.regs, .model])
      ∧ runs .adaptReset s (fun t => t.model.adapt = [] ∧ (∀ i ∈ s.defined 0x2401 0, t.uFac i = s.tfld 0x2401 i 7 16 12
          ∧ t.rFac i = s.tfld 0x2401 i 7 0 12) ∧ s.tblBut t (fun tid _ w => tid = 0x2409 ∧ w = 3) ∧ s.onlyIn t [.tbl, .model]))

/-- R183 to R186: at its tick a periodic start begins stage 1 with the inputs of that tick, ends the solve at once with code CLOCK or INPUT,
shares the solve that a SOLVE began at the same tick, or is skipped while an earlier one runs. SOLVE_END ends the running stage, whose number it gives: a converged
stage 1 gives the relaxed values and stage 2 begins, the rounding pass fixes every commitment and stage 3 begins, and a converged stage 3
lets the solve wait for its publication; what converges meets every constraint within MAX_IT iterations. Stage 3 infeasible for the first
time repeats stages 2 and 3 with ROUND_THR halved; any other failure ends the solve with its code. On a standby module SOLVE_END shows the
end that the record in execution gives. After 45 s SOLVE_DEADLINE ends a solve; an uncorrected DRAM error is counted and ends it, a
corrected one is counted. Completion of PERIODIC_SOLVE_START, SOLVE_END, SOLVE_DEADLINE, ECC_UNCORR, DRAM_CORRECTED_ERROR. Where the spec
leaves a choice or a reading, it is the model's (assumptions 55, 56, 57). -/
def Obligations.SolvesStartAndEnd : Prop :=
  ∀ (s : State),
    let per := s.fld ⟨0x25050, 16, 16⟩
    let now := s.bit (bitAt 0x25040 0) = true ∧ s.mstate ≠ 3 ∧ s.nowNs = 0 ∧ (s.nowSec + per - s.fld ⟨0x25050, 0, 16⟩ % per) % per = 0
    let one := fun (t : State) (k : Ctr) => t.fld k.f = min (2 ^ 32 - 1) (s.fld k.f + 1)
    let ended := fun (code stage : Nat) (t : State) => t.opt.run = none ∧ t.opt.done = none ∧ t.fld ⟨0x2504C, 24, 4⟩ = code
      ∧ t.fld ⟨0x2504C, 16, 4⟩ = stage ∧ t.solveStage = 0 ∧ one t .OPT_FAIL ∧ t.bit (bitAt 0x25010 1) = true
    let u := (s.optMod (fun o => { o with ofsSolve := sint (s.rd 0x25060) })).dailyFit
    (now → s.opt.startAt ≠ some s.fno → s.opt.run = none →
        (s.optClk = false → runs .periodicSolveStart s (ended 8 1))
        ∧ (s.optClk = true → u.inputFails u.solveIn.tbl u.solveIn.t0 = true → runs .periodicSolveStart s (ended 6 1))
        ∧ (s.optClk = true → u.inputFails u.solveIn.tbl u.solveIn.t0 = false → runs .periodicSolveStart s (fun t =>
            t.opt.run = some ⟨s.fno, s.clockNs, none, u.solveIn, [], [], false, 0, 0⟩ ∧ t.opt.done = none ∧ t.solveStage = 1
              ∧ t.opt.startAt = some s.fno)))
    ∧ (now → s.opt.startAt ≠ some s.fno → s.opt.run ≠ none → runs .periodicSolveStart s (fun t => t.opt = s.opt
        ∧ one t .OPT_SKIP ∧ t.bit (bitAt 0x25010 4) = true))
    ∧ (¬ now ∨ s.opt.startAt = some s.fno → exec .periodicSolveStart s = .next s)
    ∧ (∀ h, s.recRun = some h → (h.plan.last = none → ∀ k, exec (.solveEnd k) s = .next s)
        ∧ ∀ w k, h.plan.last = some w → runs (.solveEnd k) s (fun t => t.rd 0x2504C = w ∧ t.opt.run = s.opt.run ∧ t.opt.done = s.opt.done
            ∧ (wbits w 24 8 = 5 → one t .OPT_ABORT ∧ s.onlyIn t [.regs, .opt])
            ∧ (wbits w 24 8 ≠ 5 → one t .OPT_FAIL ∧ t.bit (bitAt 0x25010 1) = true)))
    ∧ (∀ r, s.recRun = none → s.opt.run = some r → s.opt.done = none → s.since r.fno < 45000 →
        (s.solveStage = 1 → runs (.solveEnd 1) s (fun t =>
          let e := r.inp.stage 1 []
          (e.1 = 1 → t.opt = { s.opt with run := some { r with it1 := e.2.1, relaxed := e.2.2 } } ∧ t.solveStage = 2
              ∧ Solution.feasible ⟨r.inp, e.2.2⟩ = true ∧ e.2.1 ≤ r.inp.view.fld ⟨0x25058, 16, 16⟩
              ∧ s.regsBut t (fun a => a = 0x25048) ∧ s.onlyIn t [.regs, .opt])
          ∧ (e.1 ≠ 1 → ended e.1 1 t ∧ (e.1 = 2 ∨ e.1 = 3 ∨ e.1 = 10))))
        ∧ (∀ k, k ≠ s.solveStage → exec (.solveEnd k) s = .next s)
        ∧ (s.solveStage = 2 → runs (.solveEnd 2) s (fun t => t.opt = { s.opt with run := some { r with fixed := r.rounded } }
            ∧ t.solveStage = 3 ∧ s.regsBut t (fun a => a = 0x25048) ∧ s.onlyIn t [.regs, .opt]))
        ∧ (s.solveStage = 3 → runs (.solveEnd 3) s (fun t =>
          let e := r.inp.stage 3 r.fixed
          let p : Solution := ⟨r.inp, e.2.2⟩
          let r1 := { r with it3 := r.it3 + e.2.1 }
          (e.1 = 1 → t.opt = { s.opt with run := some r1, done := some ⟨r1.it1, r1.it3, p.terms, p.plan⟩ } ∧ p.feasible = true
              ∧ e.2.1 ≤ r.inp.view.fld ⟨0x25058, 16, 16⟩
              ∧ t.rd 0x25098 = BitVec.ofNat 32 (r1.it1 % 2 ^ 16 * 2 ^ 16 + r1.it3 % 2 ^ 16)
              ∧ s.regsBut t (fun a => a = 0x25098) ∧ s.onlyIn t [.regs, .opt])
          ∧ (e.1 = 2 → r.halved = false → t.opt = { s.opt with run := some { r1 with halved := true } } ∧ t.solveStage = 2
              ∧ s.regsBut t (fun a => a = 0x25048) ∧ s.onlyIn t [.regs, .opt])
          ∧ (e.1 ≠ 1 → (e.1 = 2 → r.halved = true) → ended e.1 3 t ∧ (e.1 = 2 ∨ e.1 = 3 ∨ e.1 = 10)))))
    ∧ (∀ r, s.opt.run = some r → s.opt.done = none →
        (45000 ≤ s.since r.fno → runs .solveDeadline s (ended 4 s.solveStage) ∧ (s.recRun = none → ∀ k, runs (.solveEnd k) s (ended 4 s.solveStage)))
        ∧ (s.since r.fno < 45000 → exec .solveDeadline s = .next s))
    ∧ (s.opt.run = none ∨ s.opt.done ≠ none → exec .solveDeadline s = .next s ∧ (s.recRun = none → ∀ k, exec (.solveEnd k) s = .next s))
    ∧ runs .eccUncorr s (fun t => one t .OPT_ECC_UNCORR ∧ t.bit (bitAt 0x25010 10) = true ∧ t.opt.run = none
        ∧ (s.opt.run ≠ none → ended 7 s.solveStage t) ∧ (s.opt.run = none → t.opt = s.opt ∧ t.rd 0x2504C = s.rd 0x2504C))
    ∧ runs .dramCorrectedError s (fun t => one t .OPT_ECC_CORR ∧ s.onlyIn t [.regs])

/-- R34, R37, R186 to R191: PLAN_PUB publishes a finished solve under the next PLAN_ID, with its records, its summary's registers and the plan
slice, counts it and ends fallback; on a standby module it publishes the plan that the record in execution gives. A tick that opens a step
shifts the plan in force by one, to step 191 at most; a mailbox that has swapped and the cores read is copied; a plan past its age, and the
FALLBACK command, enter fallback, which is counted and told once. Completion of PLAN_PUB, BRIDGE_SNAPSHOT_COPY, PLAN_SHIFT,
FALLBACK_AGE_EXPIRE, FALLBACK. Where the spec leaves a choice or a reading, it is the model's (assumptions 4, 58, 59, 107). -/
def Obligations.PlansArePublishedAndAge : Prop :=
  ∀ (s : State),
    let entered := fun (t : State) => t.bit optFallback = true ∧ (s.bit optFallback = true → t.regs = s.regs)
      ∧ (s.bit optFallback = false → t.bit (bitAt 0x25010 2) = true
          ∧ t.fld Ctr.OPT_FALLBACK.f = min (2 ^ 32 - 1) (s.fld Ctr.OPT_FALLBACK.f + 1))
    let sliceRegs := fun (t : State) => (∀ c, c < 4 → t.rd (0x250F0 + 4 * c) = t.planStep 11 c 0)
      ∧ ∀ g, g < 8 → t.rd (0x25100 + 4 * g) = t.planStep 8 g 0
    let inForce := fun (t : State) (id : Word) (t0 : Nat) (clock : Int) => t.rd 0x25070 = id ∧ t.rd 0x25074 = lo32 t0
      ∧ t.rd 0x25078 = lo32 (clock / 1000000000).toNat ∧ t.rd 0x2507C = lo32 s.nowSec ∧ t.rd 0x25080 = lo32 s.nowNs
      ∧ t.rd 0x25088 = lo32 (shiftAt t0 s.nowSec) ∧ t.fld ⟨0x2504C, 24, 4⟩ = 1
      ∧ t.fld Ctr.OPT_SOLVE.f = (s.fld Ctr.OPT_SOLVE.f + 1) % 2 ^ 32 ∧ t.bit (bitAt 0x25010 0) = true
      ∧ t.bit (bitAt 0x25048 8) = true ∧ (s.opt.fbAt ≠ some s.fno → t.bit optFallback = false)
      ∧ t.opt.planStart = some clock
    (∀ r d, s.recRun = none → s.opt.run = some r → s.opt.done = some d → runs .planPub s (fun t =>
        inForce t (lo32 ((s.fld Ctr.OPT_PLAN_ID.f + 1) % 2 ^ 32)) r.inp.t0 r.clock ∧ sliceRegs t ∧ t.opt.run = none ∧ t.opt.done = none ∧ t.solveStage = 0
          ∧ t.opt.parts = d.recs.map (·.1) ∧ t.rd 0x25094 = lo32 (s.since r.fno)
          ∧ ((∀ e ∈ d.recs, e.1 < 2 ^ 16 ∧ e.2.length = 196) → d.recs.Pairwise (fun x y => x.1 ≠ y.1) → ∀ e ∈ d.recs,
              t.trd 0x250D e.1 0 = e.2.getD 0 0 ∧ t.trd 0x250D e.1 1 = t.rd 0x25070 ∧ t.trd 0x250D e.1 3 = t.rd 0x25088
                ∧ ∀ w, 4 ≤ w → w < 196 → t.trd 0x250D e.1 w = e.2.getD w 0)))
    ∧ (∀ h d, s.recRun = some h → h.plan.pub = some d → runs .planPub s (fun t =>
        inForce t (d.summary.getD 0 0) d.t0 d.clock ∧ (h.plan.parts = [] → sliceRegs t) ∧ t.opt.run = s.opt.run ∧ t.opt.done = s.opt.done))
    ∧ (∀ h, s.recRun = some h → h.plan.pub = none → runs .planPub s (fun t => s.onlyIn t [.tbl] ∧ (h.plan.parts = [] → t = s)))
    ∧ (s.recRun = none → s.opt.run = none ∨ s.opt.done = none → exec .planPub s = .next s)
    ∧ (∀ n m, s.mbxOf n = some m → m.swapped = true → m.readers / 4 % 16 ≠ 0 → runs (.bridgeSnapshotCopy n) s (fun t =>
        t.opt.snap.lookup n = some m.front ∧ (∀ k, k ≠ n → t.opt.snap.lookup k = s.opt.snap.lookup k) ∧ s.onlyIn t [.opt]))
    ∧ (∀ n m, s.mbxOf n = some m → m.swapped = false ∨ m.readers / 4 % 16 = 0 → exec (.bridgeSnapshotCopy n) s = .next s)
    ∧ (∀ n, s.mbxOf n = none → exec (.bridgeSnapshotCopy n) s = .next s)
    ∧ (s.atStep = true →
        let due := s.bit (bitAt 0x25048 8) = true ∧ s.opt.done = none ∧ ¬ (s.rd 0x2507C = lo32 s.nowSec ∧ s.rd 0x25080 = lo32 s.nowNs)
        (due → runs .planShift s (fun t => t.fld ⟨0x25088, 0, 8⟩ = min 191 (s.fld ⟨0x25088, 0, 8⟩ + 1) ∧ t.rd 0x25070 = s.rd 0x25070
            ∧ sliceRegs t ∧ t.opt.appliedSec = s.nowSec ∧ t.opt.appliedNs = s.nowNs ∧ t.tbl = s.tbl))
        ∧ (¬ due → runs .planShift s (fun t => s.onlyIn t [.opt] ∧ t.opt.planStart = s.opt.planStart)))
    ∧ (s.atStep = false → exec .planShift s = .next s)
    ∧ (∀ a, s.planAge = some a → (s.rd 0x25054).toNat * 1000000000 < a → s.opt.done = none → runs .fallbackAgeExpire s entered)
    ∧ ((∀ a, s.planAge = some a → a ≤ (s.rd 0x25054).toNat * 1000000000) ∨ s.opt.done ≠ none → exec .fallbackAgeExpire s = .next s)
    ∧ runs .fallback s (fun t => entered t ∧ t.opt.fbAt = some s.fno)

/-- R174: the day type of a local day is the TYPE of a defined day calendar record whose word 0 equals the local day number, of the lowest index
if two name the same day; otherwise the type that OPT_DAYTYPE_DEF gives for the day of the week. -/
def Obligations.TheDayTypeOfALocalDay : Prop :=
  ∀ (s : State) (m : SMap) (day : Nat),
    let names := fun (i : Nat) => i < 64 ∧ wbit (serWord m 0x250C i 1) 31 = true ∧ (serWord m 0x250C i 0).toNat = day
    (∀ i, names i → (∀ j, j < i → ¬ names j) → s.dayType m day = wbits (serWord m 0x250C i 1) 0 3)
      ∧ ((∀ i, ¬ names i) → s.dayType m day = s.fld ⟨0x25064, 3 * weekday day, 3⟩)

/-! ## Twin operation -/

/-- R451 to R462, R468: TWIN_REC closes the frame's record and, on the active module of a pair, sends it, with OVERFLOW past 786,432 bytes. A
heartbeat in time with a correct CRC is the partner's last, and a good one withdraws a declaration; another does nothing. A heartbeat missed
on a path is counted for that path. A verified record of the partner's epoch is held by a standby module in step, or stored by one that
joins; one with OVERFLOW, one that a heartbeat reports and the module does not hold, and one still missing 4 frames after the last executed
make it lose step, with REC_LOST. An active module without a record at 2 consecutive ticks enters FAULT. A beacon of another module in time
is seen, and one of a higher epoch on the active module raises SPLIT. Completion of TWIN_REC, HEARTBEAT_RX, HEARTBEAT_MISS,
INPUT_RECORD_RX, REC_LOST, RECORD_NOT_CLOSED, BEACON_RX. Where the spec leaves a choice or a reading, it is the model's (assumptions 107,
109, 111, 112). -/
def Obligations.RecordsHeartbeatsAndBeacons : Prop :=
  ∀ (s : State),
    let one := fun (t : State) (k : Ctr) => t.fld k.f = min (2 ^ 32 - 1) (s.fld k.f + 1)
    let lost := fun (t : State) => t.twin.instep = false ∧ t.twin.agreed = false ∧ t.twin.run = none ∧ t.twin.recs = []
      ∧ one t .TWIN_REC_LOST ∧ t.bit (bitAt 0xC010 4) = true
    (∀ len, s.takes 0x50 0x0A (fun _ => true) → runs (.twinRec len) s (fun t =>
      let u := ((s.begun 0x0A).setpoints.tcmds 0).tcmds 1
      t.twin = { u.twin with closed := true } ∧ t.mstate = u.mstate ∧ t.opt.sec = PlanSec.none_ ∧ t.priv.given = []
        ∧ (u.mstate = 4 → u.cfg.pair = true → t.sent = u.sent ++ [.record_ ⟨u.fno, u.frame, u.inExt, u.nowSec, u.nowNs, u.epoch,
            decide (786432 < len), false, u.planSections, u.priv.given⟩ (min len 786432) u.twin.fhi]
            ∧ (t.rd 0xC06C).toNat = max (u.rd 0xC06C).toNat (min len 786432) ∧ u.regsBut t (fun a => a = 0xC06C))
        ∧ (u.mstate ≠ 4 ∨ u.cfg.pair = false → t.sent = u.sent ∧ t.regs = u.regs)))
    ∧ (∀ len, s.issues 0x50 0x0A (fun _ => true) = false → exec (.twinRec len) s = .next s)
    ∧ (∀ len, s.issues 0x50 0x0A (fun _ => true) = true → s.unitOff 0x0A = true → exec (.twinRec len) s = .next (s.begun 0x0A))
    ∧ (∀ h : Heartbeat,
        let counts := h.crcOk = true ∧ h.ns ≤ 100000 ∧ s.twin.on = true ∧ s.shed = false ∧ (h.path = 0 → s.lineUp 4 = true)
        let good := h.mstate = 4 ∧ h.recOk = true
        (¬ counts → exec (.heartbeatRx h) s = .next s)
        ∧ (counts → runs (.heartbeatRx h) s (fun t =>
          t.twin.hb = some ⟨h.mstate, h.recOk, h.instep, h.eligible, h.joining, h.fno, h.epoch, h.health⟩ ∧ t.twin.any = true
            ∧ t.twin.link = (s.twin.link || h.path == 0) ∧ t.twin.tether = (s.twin.tether || h.path == 1)
            ∧ t.twin.lost = (s.twin.lost && (h.mstate == 5 || h.mstate == 6)) ∧ t.mstate = s.mstate
            ∧ (good → t.twin.good = true ∧ t.twin.declared = false)
            ∧ (¬ good → t.twin.good = s.twin.good ∧ t.twin.declared = s.twin.declared)
            ∧ (good → s.mstate = 3 → s.twin.instep = true → s.holdsRec ((h.fno + 2 ^ 32 - 1) % 2 ^ 32) = false → lost t))))
    ∧ (∀ p,
        let seen := if p = 0 then s.twin.link else s.twin.tether
        let k := if p = 0 then Ctr.TWIN_HB_MISS_LINK else Ctr.TWIN_HB_MISS_TETHER
        (s.twin.on = true → seen = false → runs (.heartbeatMiss p) s (fun t => one t k ∧ t.twin = s.twin
          ∧ (s.mstate ≠ 3 → s.onlyIn t [.regs])))
        ∧ (s.twin.on = false ∨ seen = true → exec (.heartbeatMiss p) s = .next s))
    ∧ (∀ r : InRec,
        let takes := s.mstate = 3 ∧ s.twin.declared = false ∧ r.ok = true ∧ s.lineUp 4 = true
          ∧ r.hdr.epoch = (s.twin.hb.map (·.epoch)).getD s.epoch
        let stored := if s.twin.joining = true ∧ s.twin.replayed = false then s.twin.stored + r.len else s.twin.stored
        (¬ takes → exec (.inputRecordRx r) s = .next s)
        ∧ (takes → runs (.inputRecordRx r) s (fun t =>
          (r.len < 2 ^ 32 → (t.rd 0xC06C).toNat = max (s.rd 0xC06C).toNat r.len)
          ∧ (s.twin.instep = false → s.twin.joining = false → t.twin = s.twin)
          ∧ (s.twin.instep = true → r.hdr.overflow = true → lost t)
          ∧ (s.twin.instep = true ∨ s.twin.joining = true → r.hdr.overflow = false →
              (s.holdsRec r.hdr.fno = true → t.twin = s.twin)
              ∧ (s.holdsRec r.hdr.fno = false → (stored ≤ 2 ^ 32 ∨ s.twin.joining = false →
                    t.twin = { s.twin with recs := s.twin.recs ++ [r.hdr], stored := stored })
                  ∧ (2 ^ 32 < stored → s.twin.joining = true → t.twin.joining = false ∧ t.fld ⟨0xC0B4, 0, 4⟩ = 3 ∧ t.segs = []))))))
    ∧ (
        let gone := s.mstate = 3 ∧ s.twin.run = none ∧ ∃ e, s.twin.exec = some e ∧ 4 ≤ s.ownSince e
        (gone → s.twin.instep = true → runs .recLost s lost)
        ∧ (gone → s.twin.instep = false → s.twin.joining = true → s.twin.replayed = true → runs .recLost s (fun t =>
            t.twin.joining = false ∧ t.fld ⟨0xC0B4, 0, 4⟩ = 5 ∧ one t .TWIN_JOIN_FAIL))
        ∧ (¬ gone ∨ (s.twin.instep = false ∧ (s.twin.joining = false ∨ s.twin.replayed = false)) → exec .recLost s = .next s))
    ∧ (s.mstate = 4 → s.cfg.pair = true → 2 ≤ s.twin.notClosed → runs .recordNotClosed s (fun t => t.mstate = 6
        ∧ t.fld ⟨0x005C, 0, 8⟩ = 6 ∧ t.fld ⟨0x005C, 8, 4⟩ = 10))
    ∧ (s.mstate ≠ 4 ∨ s.cfg.pair = false ∨ s.twin.notClosed < 2 → exec .recordNotClosed s = .next s)
    ∧ (∀ b : Beacon, b.crcOk = true → b.serial ≠ s.serial → s.lineUp b.port = true → runs (.beaconRx b) s (fun t =>
        let inTime := decide (b.ns ≤ s.fld ⟨0xC040, 24, 8⟩ * 10000)
        t.twin.beacon = (s.twin.beacon || inTime) ∧ t.twin.seen = (s.twin.seen || inTime)
          ∧ (b.port < 2 → let k := Ctr.SNA_RX_FRAMES.shift b.port
              t.fld k.f = (s.fld k.f + 1) % 2 ^ 32)
          ∧ (s.mstate = 4 → s.epoch < b.epoch → s.twin.split = false → t.twin.split = true ∧ one t .TWIN_SPLIT
              ∧ t.bit (bitAt 0xC010 8) = true)
          ∧ (s.mstate ≠ 4 ∨ b.epoch ≤ s.epoch → s.onlyIn t [.regs, .twin] ∧ t.twin.split = s.twin.split)))
    ∧ (∀ b : Beacon, b.crcOk = false ∨ b.serial = s.serial ∨ s.lineUp b.port = false → exec (.beaconRx b) s = .next s)

/-- R463 to R465, R469, R470, R480: PARTNER_LOST is raised on the active module after two ticks without a heartbeat, or with the partner in FAULT
or PARKED, and ends a join with code 6. FAILURE_DECLARE after two ticks without a good heartbeat declares the active module failed;
ISOLATION_CHECK passes only with port A or B linked and no beacon seen, and reports ISOLATED once for each declaration. TAKEOVER of an
ELIGIBLE standby module that passed, or after a planned switch, makes it ACTIVE with the epoch one higher and records the tick; with
COLD_TAKEOVER one that is not ELIGIBLE takes over cold. TWIN_CMD.SWITCH with an ELIGIBLE partner makes the active module STANDBY, out of
step, and is otherwise REFUSED. Completion of PARTNER_LOST, FAILURE_DECLARE, ISOLATION_CHECK, TAKEOVER, TWIN_COLD, TWIN_SWITCH. Where the
spec leaves a choice or a reading, it is the model's (assumptions 3, 4, 109, 111). -/
def Obligations.FailureIsDeclaredCheckedAndTakenOver : Prop :=
  ∀ (s : State),
    let one := fun (t : State) (k : Ctr) => t.fld k.f = min (2 ^ 32 - 1) (s.fld k.f + 1)
    let failed6 := fun (t : State) => t.twin.joining = false ∧ t.fld ⟨0xC0B4, 0, 4⟩ = 6 ∧ t.segs = [] ∧ one t .TWIN_JOIN_FAIL
    (
        let silent := 2 ≤ s.twin.ticks ∧ s.twin.any = false ∧ s.twin.anyPrev = false
        let out := (∃ p, s.twin.hb = some p ∧ (p.mstate = 5 ∨ p.mstate = 6)) ∧ (s.twin.any = true ∨ s.twin.anyPrev = true)
        let due := s.mstate = 4 ∧ s.cfg.pair = true ∧ s.twin.on = true ∧ s.twin.lost = false ∧ (silent ∨ out)
      (due → runs .partnerLost s (fun t => t.twin.lost = true ∧ t.bit (bitAt 0xC010 0) = true ∧ t.mstate = 4
          ∧ (s.twin.joining = true → failed6 t) ∧ (s.twin.joining = false → t.twin = { s.twin with lost := true, leftAt := none })))
      ∧ (¬ due → exec .partnerLost s = .next s))
    ∧ (
        let due := s.mstate = 3 ∧ s.cfg.pair = true ∧ s.twin.on = true ∧ s.twin.declared = false ∧ 2 ≤ s.twin.ticks
          ∧ s.twin.good = false ∧ s.twin.goodPrev = false
        let ends := s.bit (bitAt 0xC040 1) = false ∧ s.twin.any = false ∧ s.twin.anyPrev = false ∧ s.twin.joining = true
        (due → runs .failureDeclare s (fun t => t.twin.declared = true ∧ t.twin.passed = false ∧ t.twin.isoRaised = false
            ∧ (ends → failed6 t) ∧ (¬ ends → s.onlyIn t [.twin] ∧ t.twin.joining = s.twin.joining)))
        ∧ (¬ due → exec .failureDeclare s = .next s))
    ∧ (s.mstate = 3 → s.twin.declared = true →
        (s.lineUp 0 = false → s.lineUp 1 = false → runs .isolationCheck s (fun t => t.twin = { s.twin with passed := false }
            ∧ s.onlyIn t [.twin]))
        ∧ (s.lineUp 0 = true ∨ s.lineUp 1 = true →
          (s.twin.beacon = false → s.twin.beaconPrev = false → runs .isolationCheck s (fun t =>
              t.twin = { s.twin with passed := true, isolated := false } ∧ s.onlyIn t [.twin]))
          ∧ (s.twin.beacon = true ∨ s.twin.beaconPrev = true → runs .isolationCheck s (fun t => t.twin.passed = false
            ∧ t.twin.isolated = true ∧ t.twin.isoRaised = true
            ∧ (s.twin.isoRaised = false → one t .TWIN_ISOLATED ∧ t.bit (bitAt 0xC010 2) = true)
            ∧ (s.twin.joining = true → s.twin.any = false → s.twin.anyPrev = false → failed6 t)
            ∧ (s.twin.isoRaised = true → s.twin.joining = false → s.onlyIn t [.twin])))))
    ∧ (s.mstate ≠ 3 ∨ s.twin.declared = false → exec .isolationCheck s = .next s)
    ∧ (
        let takes := s.mstate = 3 ∧ s.cfg.pair = true ∧ (s.handed = true ∨ (s.twin.declared = true ∧ s.twin.passed = true ∧ s.eligible' = true))
        (takes → runs .takeover s (fun t => t.mstate = 4 ∧ t.bit (bitAt 0xC010 1) = true ∧ t.twin.declared = false ∧ t.twin.recs = []
            ∧ t.twin.run = none ∧ t.twin.instep = false ∧ t.twin.joining = false
            ∧ ((∀ a ∈ s.lnch, a.n < 64) → t.rd 0xC04C = s.rd 0xC04C + 1 ∧ one t .TWIN_TAKEOVER ∧ t.rd 0xC070 = s.rd 0x604C + 1)))
        ∧ (¬ takes → exec .takeover s = .next s))
    ∧ (
        let cold := s.mstate = 3 ∧ s.cfg.pair = true ∧ s.twin.declared = true ∧ s.twin.passed = true ∧ s.eligible' = false
          ∧ s.bit (bitAt 0xC040 1) = true
        (cold → runs .twinCold s (fun t => t.mstate = 4 ∧ t.twin.cold = true ∧ t.bit (bitAt 0xC010 7) = true ∧ t.segs = []
            ∧ t.twin.declared = false ∧ t.twin.joining = false))
        ∧ (¬ cold → exec .twinCold s = .next s))
    ∧ (s.canSwitch = true → (twinSwitchCmd s).2 = .ok ∧ runs .twinSwitch s (fun t => t.mstate = 3
        ∧ t.twin.instep = false ∧ t.twin.handover = true ∧ t.lnch = [] ∧ t.opt.run = none
        ∧ t.sent = s.sent ++ [.handover ((s.ownFno + 2 ^ 32 - 1) % 2 ^ 32)]))
    ∧ (s.canSwitch = false → exec .twinSwitch s = .next s ∧ (twinSwitchCmd s).2 = .refused)
    ∧ (s.canSwitch = true ↔ s.mstate = 4 ∧ s.cfg.pair = true ∧ s.twin.lost = false ∧ ∃ p, s.twin.hb = some p ∧ p.eligible = true)

/-- R474 to R477: TWIN_CMD.JOIN with a partner that stands by out of step, and JOIN_START JOIN_HOLD seconds after it left step under AUTO_JOIN,
begin a join with F the next tick's frame, or with other images fail it with code 1; JOIN is REFUSED while a join runs or while the partner
is not STANDBY. A segment that verifies is committed with its size and check word; one that fails 4 times fails the join with code 2. With
all segments committed the replay ends at the last stored record. At the first digest that agrees after it the standby module is in step,
with the active module's frame count and epoch. COPY_MAX seconds after F and on TWIN_CMD.ABANDON the join fails with code 4 or 7, and what
was received is discarded. Completion of TWIN_JOIN, JOIN_START, SEGMENT_COMMIT, REPLAY_END, JOIN_DONE, JOIN_TIMEOUT, ABANDON. Where the
spec leaves a choice or a reading, it is the model's (assumption 108). -/
def Obligations.JoinsStartCopyAndEnd : Prop :=
  ∀ (s : State),
    let f := (s.ownFno + 1) % 2 ^ 32
    let failed := fun (t : State) (code : Nat) => t.twin.joining = false ∧ t.twin.joinF = none ∧ t.twin.recs = []
      ∧ t.fld ⟨0xC0B4, 0, 4⟩ = code ∧ t.segs = []
      ∧ t.fld Ctr.TWIN_JOIN_FAIL.f = min (2 ^ 32 - 1) (s.fld Ctr.TWIN_JOIN_FAIL.f + 1) ∧ t.bit (bitAt 0xC010 6) = true
    let begun := fun (t : State) =>
      (s.twin.same = true → t.twin.joining = true ∧ t.twin.joinF = some f ∧ t.twin.joinAt = some s.ownFno ∧ t.rd 0xC064 = BitVec.ofNat 32 f
        ∧ t.segs = [] ∧ (∀ i, i < 10 → t.tfld 0x0C00 i 0 30 2 = 0) ∧ s.regsBut t (fun a => a = 0xC064) ∧ s.onlyIn t [.regs, .tbl, .segs, .twin])
      ∧ (s.twin.same = false → failed t 1)
    let refused := s.mstate ≠ 4 ∨ s.cfg.pair = false ∨ s.twin.joining = true ∨ s.pState ≠ some 3
    let due := ∃ g, s.twin.leftAt = some g ∧ s.mstate = 4 ∧ s.cfg.pair = true ∧ s.bit (bitAt 0xC040 0) = true ∧ s.twin.joining = false
      ∧ s.partnerOut = true ∧ s.fld ⟨0xC040, 16, 8⟩ * 1000 ≤ s.ownSince g
    (¬ refused → (twinJoinCmd s).2 = .ok ∧ (s.partnerOut = true → runs .twinJoin s begun)
        ∧ (s.partnerOut = false → exec .twinJoin s = .next s))
    ∧ (refused → exec .twinJoin s = .next s ∧ (twinJoinCmd s).2 = .refused)
    ∧ (due → runs .joinStart s begun) ∧ (¬ due → exec .joinStart s = .next s)
    ∧ (∀ seg ok size crc (d : SegData),
        let comes := s.twin.joining = true ∧ seg < 10 ∧ s.lineUp 4 = true ∧ s.tfld 0x0C00 seg 0 30 2 ≠ 2
        (comes → ok = true → runs (.segmentCommit seg ok size crc d) s (fun t => t.tfld 0x0C00 seg 0 30 2 = 2 ∧ t.segs = s.segs ++ [(seg, d)]
          ∧ t.trd 0x0C00 seg 1 = BitVec.ofNat 32 size ∧ t.trd 0x0C00 seg 2 = crc ∧ t.regs = s.regs ∧ t.twin = s.twin
          ∧ (seg ≠ 0 ∨ s.mstate ≠ 3 ∨ d.metSave = none → t.metNv = s.metNv)
          ∧ (∀ m, seg = 0 → s.mstate = 3 → d.metSave = some m → if s.metNv.next = 0 then t.metNv = { s.metNv with a := some m, next := 1 }
              else t.metNv = { s.metNv with b := some m, next := 0 })))
        ∧ (comes → ok = false → s.tfld 0x0C00 seg 0 0 3 < 3 → runs (.segmentCommit seg ok size crc d) s (fun t => t.tfld 0x0C00 seg 0 30 2 = 1
          ∧ t.tfld 0x0C00 seg 0 0 3 = s.tfld 0x0C00 seg 0 0 3 + 1 ∧ s.onlyIn t [.tbl]))
        ∧ (comes → ok = false → 3 ≤ s.tfld 0x0C00 seg 0 0 3 → runs (.segmentCommit seg ok size crc d) s (fun t =>
          t.tfld 0x0C00 seg 0 30 2 = 3 ∧ failed t 2))
        ∧ (¬ comes → exec (.segmentCommit seg ok size crc d) s = .next s))
    ∧ (∀ d : SegData,
        let ends := s.mstate = 3 ∧ s.twin.joining = true ∧ s.twin.replayed = false ∧ s.segs.length = 10
        (ends → runs (.replayEnd d) s (fun t => t.twin.replayed = true ∧ t.twin.recs = [] ∧ t.twin.joining = true
          ∧ t.twin.instep = s.twin.instep
          ∧ (∀ r, s.twin.recs.getLast? = some r → t.twin.exec = some r.fno) ∧ (s.twin.recs = [] → t.twin.exec = s.twin.joinF)))
        ∧ (¬ ends → exec (.replayEnd d) s = .next s))
    ∧ (
        let done := fun (t : State) => t.twin.joining = false ∧ t.twin.joinF = none ∧ t.bit (bitAt 0xC010 5) = true
          ∧ t.fld Ctr.TWIN_JOIN.f = (s.fld Ctr.TWIN_JOIN.f + 1) % 2 ^ 32
        let here := s.mstate = 3 ∧ s.twin.replayed = true ∧ s.twin.agreed = true
        let there := s.mstate = 4 ∧ ∃ p, s.twin.hb = some p ∧ p.instep = true
        (s.twin.joining = true → here → runs .joinDone s (fun t => done t ∧ t.twin.instep = true
          ∧ (∀ p, s.twin.hb = some p → t.rd 0xC04C = BitVec.ofNat 32 p.epoch)
          ∧ (∀ r, s.twin.run = some r → t.rd 0x604C = BitVec.ofNat 32 (r.fno + 1))
          ∧ (∀ p, s.twin.run = none → s.twin.hb = some p →
              t.rd 0x604C = BitVec.ofNat 32 (if s.twin.link = true ∨ s.twin.tether = true then p.fno else p.fno + 1))))
        ∧ (s.twin.joining = true → there → runs .joinDone s (fun t => done t ∧ t.twin.leftAt = none ∧ t.rd 0x604C = s.rd 0x604C))
        ∧ (s.twin.joining = false ∨ (¬ here ∧ ¬ there) → exec .joinDone s = .next s))
    ∧ (∀ g, s.twin.joining = true → s.twin.joinAt = some g → s.fld ⟨0xC068, 16, 16⟩ * 1000 ≤ s.ownSince g →
        runs .joinTimeout s (fun t => failed t 4))
    ∧ (s.twin.joining = false ∨ (∀ g, s.twin.joinAt = some g → s.ownSince g < s.fld ⟨0xC068, 16, 16⟩ * 1000) →
        exec .joinTimeout s = .next s)
    ∧ (s.twin.joining = true → runs .abandon s (fun t => failed t 7))
    ∧ (s.twin.joining = false → exec .abandon s = .next s)

/-- R521: DEV_CMD on the active module of a pair sends a park control frame when the partner is STANDBY (PARK) or PARKED (UNPARK,
UNPARK_DISCARD), and is otherwise REFUSED; a park control frame for this module with a correct CRC acts at its next tick. R471, R542:
TEST_FAIL latches at a failed self-test and clears once TEST_CLR has acted and the failed test passes; an uncorrected SRAM error puts the
active module into FAULT; a plausibility failure leaves ELIGIBLE as it is; an MRAM scrub starts in RUN, a year after the last, and sets
HLTH_MRAM_SCRUB at its end. Completion of PARK_CONTROL_RX, PARK, UNPARK, UNPARK_DISCARD, TEST_CLR, SRAM_SCRUB_PASS, DRAM_SCRUB_PASS,
PORT_LOOPBACK_TEST, PLAUS_FAIL, MRAM_SCRUB_START, MRAM_SCRUB_END. Where the spec leaves a choice or a reading, it is the model's
(assumptions 94, 110). -/
def Obligations.ParkControlsAndSelfTests : Prop :=
  ∀ (s : State),
    let one := fun (t : State) (k : Ctr) => t.fld k.f = min (2 ^ 32 - 1) (s.fld k.f + 1)
    let plus := fun (t : State) (k : Ctr) (n : Nat) => t.fld k.f = min (2 ^ 32 - 1) (s.fld k.f + n)
    let fails := fun (t : State) (k : Nat) => t.bit testFail = true ∧ t.bit (bitAt 0x30010 5) = true ∧ k ∈ t.twin.failed
    let passes := fun (t : State) (k : Nat) => (s.twin.clr = true → s.twin.failed = [k] → t.bit testFail = false)
      ∧ (s.twin.clr = false → t.bit testFail = s.bit testFail)
    (∀ e ∈ [(Instr.park, parkCmd, 1, 3), (.unpark, unparkCmd, 2, 5), (.unparkDiscard, unparkDiscardCmd, 3, 5)],
      let sends := s.mstate = 4 ∧ s.cfg.pair = true ∧ s.pState = some e.2.2.2
      (sends → runs e.1 s (fun t => t.sent = s.sent ++ [.parkControl e.2.2.1 s.partnerSerial] ∧ s.onlyIn t [.sent]) ∧ (e.2.1 s).2 = .ok)
      ∧ (¬ sends → exec e.1 s = .next s ∧ (e.2.1 s).2 = .refused))
    ∧ (∀ cmd n crc,
        let mine := crc = true ∧ s.lineUp 4 = true ∧ s.cfg.pair = true ∧ n = s.serial ∧ 1 ≤ cmd ∧ cmd ≤ 3
        (mine → runs (.parkControlRx cmd n crc) s (fun t => t.twin = { s.twin with control := some cmd } ∧ s.onlyIn t [.twin]))
        ∧ (¬ mine → exec (.parkControlRx cmd n crc) s = .next s))
    ∧ (s.bit testFail = true → runs .testClr s (fun t => t.twin = { s.twin with clr := true } ∧ s.onlyIn t [.twin]))
    ∧ (s.bit testFail = false → exec .testClr s = .next s)
    ∧ (∀ corr uncorr, runs (.sramScrubPass corr uncorr) s (fun t =>
        plus t .HLTH_SCRUB_CORR corr ∧ plus t .HLTH_SCRUB_UNCORR uncorr
          ∧ t.fld Ctr.HLTH_SCRUB_PASS.f = (s.fld Ctr.HLTH_SCRUB_PASS.f + 1) % 2 ^ 32
          ∧ (0 < corr → t.bit (bitAt 0x30010 3) = true)
          ∧ (uncorr = 0 → t.twin.scrubOk = true ∧ t.mstate = s.mstate ∧ passes t 0)
          ∧ (0 < uncorr → t.twin.scrubOk = false ∧ fails t 0 ∧ t.bit (bitAt 0x30010 4) = true
              ∧ (s.mstate = 4 → t.mstate = 6 ∧ t.fld ⟨0x005C, 0, 8⟩ = 5) ∧ (s.mstate ≠ 4 → t.mstate = s.mstate))))
    ∧ (s.mstate = 3 → (∀ n, runs (.dramScrubPass n) s (fun t => t.twin.scrubOk = (n == 0) ∧ plus t .HLTH_SCRUB_UNCORR n
            ∧ (0 < n → fails t 1 ∧ t.bit (bitAt 0x30010 4) = true) ∧ (n = 0 → passes t 1) ∧ t.mstate = 3))
        ∧ (∀ m, m < 16 → runs (.portLoopbackTest m) s (fun t => t.twin.loopOk = (m == 0)
            ∧ plus t .HLTH_LOOP_FAIL ((List.range 4).filter (fun i => m / 2 ^ i % 2 == 1)).length
            ∧ (0 < m → fails t 3) ∧ (m = 0 → passes t 3) ∧ t.mstate = 3)))
    ∧ (s.mstate ≠ 3 → (∀ n, exec (.dramScrubPass n) s = .next s) ∧ ∀ m, exec (.portLoopbackTest m) s = .next s)
    ∧ (∀ i,
        let due := s.mstate = 3 ∧ s.twin.plausRun.lookup i = some 10 ∧ s.plausOn i = true
        (due → runs (.plausFail i) s (fun t =>
          t.twin.plausOk = false ∧ one t .HLTH_PLAUS_FAIL ∧ t.fld ⟨0x30078, 0, 8⟩ = i % 256 ∧ t.bit (bitAt 0x30010 6) = true
            ∧ t.eligible' = s.eligible'))
        ∧ (¬ due → exec (.plausFail i) s = .next s))
    ∧ (
        let last := (s.rd 0x30068).toNat
        let due := s.inRun = true ∧ s.twin.scrub = false ∧ (last = 0 ∨ 31536000 ≤ (s.ownSec + 2 ^ 32 - last) % 2 ^ 32)
        (due → runs .mramScrubStart s (fun t => t.twin = { s.twin with scrub := true } ∧ s.onlyIn t [.twin]))
        ∧ (¬ due → exec .mramScrubStart s = .next s))
    ∧ (∀ corr uncorr, s.twin.scrub = true → runs (.mramScrubEnd corr uncorr) s (fun t => t.twin = { s.twin with scrub := false }
        ∧ t.rd 0x30068 = lo32 s.ownSec ∧ (0 < corr → t.bit (bitAt 0x30010 3) = true) ∧ (0 < uncorr → t.bit (bitAt 0x30010 4) = true)
        ∧ (corr = 0 → uncorr = 0 → s.regsBut t (fun a => a = 0x30068) ∧ s.onlyIn t [.regs, .twin])))
    ∧ (∀ corr uncorr, s.twin.scrub = false → exec (.mramScrubEnd corr uncorr) s = .next s)

/-- R473: a standby module is ELIGIBLE exactly while it is STANDBY and in step, a digest has agreed since its last join, port A or port B is
linked, CLK_OK is 1 and TEST_FAIL is 0. -/
def Obligations.WhenAStandbyModuleIsEligible : Prop :=
  ∀ s : State, s.eligible' = true ↔ (s.mstate = 3 ∧ s.twin.instep = true ∧ s.twin.agreed = true
    ∧ (s.lineUp 0 = true ∨ s.lineUp 1 = true) ∧ s.fld ⟨0x3040, 0, 12⟩ = 4095 ∧ s.fld ⟨0x30044, 8, 1⟩ = 0)

/-! ## Keys, configuration and start-up -/

/-- R490 to R494: KEY_CMD is REFUSED once the store is zeroised and answers BUSY while STAGE or VERIFY runs. STAGE of an EMPTY slot, or of an
ACTIVE one without a successor, takes the import buffer; at its end the buffer is zero, and the first failing check gives the code and
stores nothing, or the slot is STAGED, beside an ACTIVE key as its successor. VERIFY of a staged key ends with VERIFIED, with code 5 when a
secret's check value differs, and with code 6 when a public key's signature fails, but for the first image verification key, which raises
its event. Completion of KEY_STAGE, KEY_STAGE_END, KEY_VERIFY, KEY_VERIFY_END. Where the spec leaves a choice or a reading, it is the
model's (assumptions 100, 101). -/
def Obligations.KeysAreStagedAndVerified : Prop :=
  ∀ (s : State),
    let ended := fun (t : State) (op slot code : Nat) => t.keys.run = none ∧ t.bit keyBusy = false ∧ t.fld ⟨0x904C, 20, 4⟩ = code
      ∧ t.fld ⟨0x904C, 16, 4⟩ = op ∧ t.fld ⟨0x904C, 0, 7⟩ = slot ∧ t.fld Ctr.KEY_OP.f = (s.fld Ctr.KEY_OP.f + 1) % 2 ^ 32
      ∧ (code = 0 → t.bit (bitAt 0x9010 0) = true)
      ∧ (code ≠ 0 → t.bit (bitAt 0x9010 1) = true ∧ t.fld Ctr.KEY_FAIL.f = min (2 ^ 32 - 1) (s.fld Ctr.KEY_FAIL.f + 1))
    let i := s.keyArg
    let stageOk := s.bit (bitAt 0x9040 0) = true ∧ (s.slotState i = 0 ∨ (s.slotState i = 3 ∧ s.slotNext i = 0))
    let verifyOk := s.slotState i = 1 ∨ s.slotNext i = 1
    (∀ e ∈ [(Instr.keyStage, keyStageCmd), (.keyVerify, keyVerifyCmd), (.promote, keyPromoteCmd), (.keyCancel, keyCancelCmd),
        (.keyRevoke, keyRevokeCmd), (.keyErase, keyEraseCmd)],
      (s.bit keyZeroised = true → exec e.1 s = .next s ∧ (e.2 s).2 = .refused)
      ∧ (s.bit keyZeroised = false → s.bit keyBusy = true → exec e.1 s = .next s ∧ (e.2 s).2 = .busy))
    ∧ (s.bit keyZeroised = false → s.bit keyBusy = false →
        (stageOk → runs .keyStage s (fun t => t.keys = { s.keys with run := some ⟨false, i, s.importBuf⟩ } ∧ t.bit keyBusy = true
            ∧ s.regsBut t (fun a => a = 0x904C) ∧ s.onlyIn t [.regs, .keys]) ∧ (keyStageCmd s).2 = .ok)
        ∧ (¬ stageOk → exec .keyStage s = .next s ∧ (keyStageCmd s).2 = .refused)
        ∧ (verifyOk → runs .keyVerify s (fun t => t.keys = { s.keys with run := some ⟨true, i, []⟩ } ∧ t.bit keyBusy = true
            ∧ s.regsBut t (fun a => a = 0x904C) ∧ s.onlyIn t [.regs, .keys]) ∧ (keyVerifyCmd s).2 = .ok)
        ∧ (¬ verifyOk → exec .keyVerify s = .next s ∧ (keyVerifyCmd s).2 = .refused))
    ∧ (∀ r tagOk pointOk kcv, s.keys.run = some r → r.verify = false → r.slot < 128 →
        let code := s.stageCode r tagOk pointOk
        runs (.keyStageEnd tagOk pointOk kcv) s (fun t => ended t 1 r.slot code ∧ (∀ w, w < 72 → t.trd 0x0901 0 w = 0)
          ∧ (code = 0 → s.slotState r.slot = 0 → t.slotState r.slot = 1 ∧ t.slotKind r.slot = bufByte r.buf 1)
          ∧ (code = 0 → s.slotState r.slot ≠ 0 → t.slotNext r.slot = 1 ∧ t.slotState r.slot = s.slotState r.slot)
          ∧ (code = 0 → t.stagedKey r.slot = some (keyOf r.buf kcv))
          ∧ (code ≠ 0 → t.keys.staged = s.keys.staged ∧ t.slotState r.slot = s.slotState r.slot ∧ t.slotNext r.slot = s.slotNext r.slot)))
    ∧ (∀ r n pointOk sigOk, s.keys.run = some r → r.verify = true → r.slot < 128 → s.stagedKey r.slot = some n →
        let first := n.kind < 6 ∧ r.slot = 3 ∧ s.slotState 3 ≠ 3
        let good := (6 ≤ n.kind ∧ n.kcv = n.want) ∨ (n.kind < 6 ∧ pointOk = true ∧ (first ∨ sigOk = true))
        runs (.keyVerifyEnd pointOk sigOk) s (fun t => t.keys.staged = s.keys.staged
          ∧ (good → ended t 2 r.slot 0 ∧ (s.slotState r.slot = 1 → t.slotState r.slot = 2)
            ∧ (s.slotState r.slot ≠ 1 → t.slotNext r.slot = 2) ∧ (first → t.bit (bitAt 0x9010 4) = true))
          ∧ (¬ good → ended t 2 r.slot (if 6 ≤ n.kind then 5 else 6) ∧ t.slotState r.slot = s.slotState r.slot
            ∧ t.slotNext r.slot = s.slotNext r.slot)))
    ∧ (∀ r pointOk sigOk, s.keys.run = some r → r.verify = true → s.stagedKey r.slot = none →
        runs (.keyVerifyEnd pointOk sigOk) s (fun t => t.keys = { s.keys with run := none } ∧ t.bit keyBusy = false
          ∧ s.onlyIn t [.regs, .keys]))
    ∧ ((∀ r, s.keys.run = some r → r.verify = true) → ∀ a b c, exec (.keyStageEnd a b c) s = .next s)
    ∧ ((∀ r, s.keys.run = some r → r.verify = false) → ∀ a b, exec (.keyVerifyEnd a b) s = .next s)

/-- R490, R495, R496, R502, R504: PROMOTE of a verified key leaves its promotion pending; at its tick, and not before, the key is ACTIVE, but
for a kind 9 key whose parent is no longer, which ends with code 7. CANCEL discards a staged key. REVOKE makes the slot REVOKED and the kind
9 slots below it unusable, and slots 0, 1, 2 and 4 refuse it; ERASE empties a slot that holds no ACTIVE key. A triggered sensor zeroises the
store, ends what runs or is pending, blows a fuse up to 32, counts TAMP_CNT, and leaves the module's state to the next tick. Completion of
PROMOTE, PROMOTED, CANCEL, REVOKE, ERASE, TAMPER. Where the spec leaves a choice or a reading, it is the model's (assumptions 102, 103,
105). -/
def Obligations.KeysArePromotedWithdrawnAndZeroised : Prop :=
  ∀ (s : State),
    let i := s.keyArg
    let j := s.pendSlot
    let free := s.bit keyZeroised = false ∧ s.bit keyBusy = false
    let ended := fun (t : State) (op slot code : Nat) => t.fld ⟨0x904C, 20, 4⟩ = code ∧ t.fld ⟨0x904C, 16, 4⟩ = op ∧ t.fld ⟨0x904C, 0, 7⟩ = slot
      ∧ (code = 0 → t.bit (bitAt 0x9010 0) = true) ∧ (code ≠ 0 → t.bit (bitAt 0x9010 1) = true)
    (free → s.slotState i = 2 ∨ s.slotNext i = 2 → runs .promote s (fun t => t.bit keyPend = true ∧ t.pendSlot = i
      ∧ t.fld ⟨0x9050, 15, 1⟩ = s.fld ⟨0x9048, 15, 1⟩ ∧ t.fld ⟨0x9050, 16, 10⟩ = s.fld ⟨0x9048, 16, 10⟩
      ∧ t.keys = { s.keys with promDue := false } ∧ s.regsBut t (fun a => a = 0x904C ∨ a = 0x9050) ∧ s.onlyIn t [.regs, .keys]))
    ∧ (s.slotState i ≠ 2 → s.slotNext i ≠ 2 → exec .promote s = .next s ∧ (free → (keyPromoteCmd s).2 = .refused))
    ∧ (∀ n, s.bit keyPend = true → s.promNow = true → s.stagedKey j = some n → n.kind < 16 → n.parent < 128 →
        ((n.kind = 9 → s.parentOk j n.parent = true) → runs .promoted s (fun t => t.slotState j = 3 ∧ t.slotKind j = n.kind
          ∧ t.stagedKey j = none ∧ t.bit keyPend = false ∧ ended t 3 j 0 ∧ t.bit (bitAt 0x9010 2) = true
          ∧ t.trd 0x0900 j 6 = lo32 s.nowSec))
        ∧ (n.kind = 9 → s.parentOk j n.parent = false → runs .promoted s (fun t => t.slotState j = s.slotState j
          ∧ t.stagedKey j = some n ∧ t.bit keyPend = false ∧ ended t 3 j 7)))
    ∧ (s.bit keyPend = true → s.promNow = true → s.stagedKey j = none → runs .promoted s (fun t => t.bit keyPend = false ∧ t.rd 0x9050 = 0
        ∧ t.tbl = s.tbl))
    ∧ (s.bit keyPend = false ∨ s.promNow = false → exec .promoted s = .next s)
    ∧ (free → (s.slotState i = 1 ∨ s.slotState i = 2 → runs .keyCancel s (fun t => t.slotState i = 0 ∧ t.stagedKey i = none
            ∧ (j = i → t.bit keyPend = false) ∧ ended t 4 i 0))
        ∧ (s.slotState i = 3 → s.slotNext i ≠ 0 → runs .keyCancel s (fun t => t.slotState i = 3 ∧ t.slotNext i = 0 ∧ t.stagedKey i = none
            ∧ (j = i → t.bit keyPend = false) ∧ ended t 4 i 0))
        ∧ (s.slotState i = 0 ∨ 3 ≤ s.slotState i → s.slotNext i = 0 → exec .keyCancel s = .next s ∧ (keyCancelCmd s).2 = .refused))
    ∧ (free → (i = 0 ∨ i = 1 ∨ i = 2 ∨ i = 4 → runs .keyRevoke s (fun t => t.tfld 0x0900 i 0 29 3 = s.slotState i
            ∧ t.keys = s.keys ∧ ended t 5 i 1) ∧ (keyRevokeCmd s).2 = .refused)
        ∧ (i ∉ [0, 1, 2, 4] → 1 ≤ s.slotState i → s.slotState i ≤ 3 → runs .keyRevoke s (fun t => t.slotState i = 4
            ∧ (∀ d ∈ s.revoked i, (d ≠ i → t.slotState d = 5) ∧ t.slotNext d = 0 ∧ t.stagedKey d = none)
            ∧ t.bit (bitAt 0x9010 3) = true ∧ ended t 5 i 0
            ∧ t.fld Ctr.KEY_REVOKE.f = min (2 ^ 32 - 1) (s.fld Ctr.KEY_REVOKE.f + (s.revoked i).length)))
        ∧ (i ∉ [0, 1, 2, 4] → s.slotState i = 0 ∨ 4 ≤ s.slotState i → exec .keyRevoke s = .next s ∧ (keyRevokeCmd s).2 = .refused))
    ∧ (free → (s.slotState i = 1 ∨ s.slotState i = 2 ∨ s.slotState i = 4 ∨ s.slotState i = 5 →
          runs .keyErase s (fun t => t.slotState i = 0 ∧ t.stagedKey i = none ∧ (j = i → t.bit keyPend = false) ∧ ended t 6 i 0
            ∧ (i = 3 → t.trd 0x0902 3 0 = 0)))
        ∧ (s.slotState i = 0 ∨ s.slotState i = 3 ∨ 6 ≤ s.slotState i → exec .keyErase s = .next s ∧ (keyEraseCmd s).2 = .refused))
    ∧ (∀ sensors ns, sensors % 32 ≠ 0 → runs (.tamper sensors ns) s (fun t => t.bit keyZeroised = true ∧ t.keys.run = none
        ∧ t.bit keyPend = false ∧ (∀ w, w < 72 → t.trd 0x0901 0 w = 0) ∧ t.fuseCount = min 32 (s.fuseCount + 1)
        ∧ t.fld ⟨0xA040, 0, 5⟩ = sensors % 32 ∧ t.fld ⟨0xA044, 0, 5⟩ = (s.fld ⟨0xA044, 0, 5⟩ ||| sensors % 32)
        ∧ t.fld Ctr.TAMP.f = min (2 ^ 32 - 1) (s.fld Ctr.TAMP.f + 1)
        ∧ t.bit (bitAt 0xA010 0) = true ∧ t.keys.tampDue = true ∧ t.mstate = s.mstate))
    ∧ (∀ sensors ns, sensors % 32 = 0 → exec (.tamper sensors ns) s = .next s)

/-- R500, R512, R513, R522, R523: CFG_CMD.VERIFY starts a verification of the other bank, judged by the verification key of that instant, which
ends VERIFIED, with the bank's identity, or VFY_FAILED with the code of the first failing check; SWITCH of a verified bank makes it the boot
bank, and CANCEL restores the boot bank. RESTART beside an ELIGIBLE partner is a planned switch with the restart at the next tick; any
other, and RESTART_PAIR in a pair, stops the module at once, in BOOT. In FAULT the module restarts after FAULT_RESTART seconds, unless it is
0 or the third entry within an hour. Completion of CFG_VERIFY, CFG_VERIFY_END, CFG_SWITCH, CFG_CANCEL, RESTART, RESTART_PAIR,
FAULT_RESTART. Where the spec leaves a choice or a reading, it is the model's (assumptions 113, 114, 116). -/
def Obligations.BanksAreVerifiedAndModulesRestart : Prop :=
  ∀ (s : State),
    let stopped := fun (t : State) (cause : Nat) => t.mstate = 0 ∧ t.bootStep = 1 ∧ t.inRun = false ∧ t.dev.restart = some cause
      ∧ t.lnch = [] ∧ t.sent = s.sent
    let waited := s.bootStep < 7 ∨ s.fld ⟨0x0098, 0, 16⟩ * 1000 ≤ s.ownSince s.dev.faultAt
    let recent := (s.dev.faults.filter (fun f => decide (s.ownSince f ≤ 3600000))).length
    let again := s.mstate = 6 ∧ s.fld ⟨0x0098, 0, 16⟩ ≠ 0 ∧ recent < 3 ∧ waited
    (s.bit cfgBusy = false → s.bit cfgPend = false → (cfgVerifyCmd s).2 = .ok ∧ runs .cfgVerify s (fun t => t.bit cfgBusy = true
      ∧ t.bit cfgVer = false ∧ t.keyAt 0 = s.keySlot3 ∧ (∀ n, n ≠ 0 → t.keyAt n = s.keyAt n) ∧ t.keys.staged = s.keys.staged
      ∧ s.regsBut t (fun a => a = 0x1044) ∧ s.onlyIn t [.regs, .keys]))
    ∧ (s.bit cfgBusy = true → exec .cfgVerify s = .next s ∧ (cfgVerifyCmd s).2 = .busy)
    ∧ (s.bit cfgBusy = false → s.bit cfgPend = true → exec .cfgVerify s = .next s ∧ (cfgVerifyCmd s).2 = .refused)
    ∧ (∀ o : CfgObs, s.bit cfgBusy = true →
        let v := s.cfgVerdict 1 (s.keyAt 0) o
        (v.1 = 0 → runs (.cfgVerifyEnd o) s (fun t => t.bit cfgVer = true ∧ t.bit cfgBusy = false ∧ t.bit cfgFailed = false
          ∧ t.rd 0x1048 = 0 ∧ t.rd 0x104C = 0 ∧ t.rd 0x1050 = 0 ∧ t.rd 0x1060 = s.cfgWord 1 8 ∧ t.rd 0x1064 = s.cfgWord 1 12
          ∧ t.rd 0x1068 = s.cfgWord 1 (s.cfgLen 1 - 100) ∧ t.bit (bitAt 0x1010 0) = true))
        ∧ (v.1 ≠ 0 → runs (.cfgVerifyEnd o) s (fun t => t.bit cfgVer = s.bit cfgVer ∧ t.bit cfgBusy = false ∧ t.bit cfgFailed = true
          ∧ t.rd 0x1048 = BitVec.ofNat 32 (v.1 * 2 ^ 28 + (1 - s.fld cfgRunning) * 2 ^ 27 + o.off % 2 ^ 24)
          ∧ t.rd 0x104C = v.2.1 ∧ t.rd 0x1050 = v.2.2 ∧ t.bit (bitAt 0x1010 1) = true)))
    ∧ (s.bit cfgBusy = false → ∀ o, exec (.cfgVerifyEnd o) s = .next s)
    ∧ (s.bit cfgVer = true → (cfgSwitchCmd s).2 = .ok ∧ runs .cfgSwitch s (fun t => t.bit cfgPend = true
        ∧ t.fld cfgBoot = 1 - s.fld cfgRunning ∧ s.regsBut t (fun a => a = 0x1044) ∧ s.onlyIn t [.regs]))
    ∧ (s.bit cfgVer = false → exec .cfgSwitch s = .next s ∧ (cfgSwitchCmd s).2 = .refused)
    ∧ (s.bit cfgPend = true → runs .cfgCancel s (fun t => t.bit cfgPend = false
        ∧ t.fld cfgBoot = (if s.bit cfgFallback then 1 - s.fld cfgRunning else s.fld cfgRunning)
        ∧ s.regsBut t (fun a => a = 0x1044) ∧ s.onlyIn t [.regs]))
    ∧ (s.bit cfgPend = false → exec .cfgCancel s = .next s)
    ∧ (s.canSwitch = false → runs .restart s (fun t => stopped t 1))
    ∧ (s.canSwitch = true → runs .restart s (fun t =>
        t.mstate = 3 ∧ t.dev.restartNext = true ∧ t.twin.instep = false
          ∧ t.sent = s.sent ++ [.handover ((s.ownFno + 2 ^ 32 - 1) % 2 ^ 32)]))
    ∧ (s.cfg.pair = true → runs .restartPair s (fun t => stopped t 1))
    ∧ (s.cfg.pair = false → exec .restartPair s = .next s ∧ (restartPairCmd s).2 = .refused)
    ∧ (again → runs .faultRestart s (fun t => stopped t 3)) ∧ (¬ again → exec .faultRestart s = .next s)

/-- R516, R514, R505, R518, R519: a start-up without working firmware or with a failed self-test enters FAULT; with no configuration bank that
verifies the module is DEFAULTED on the factory configuration; else it comes to role negotiation, which a single module passes at once. A
module that hears its partner parks (REFUSED, ORDER, EPOCH_AHEAD), stands by, or leads with a higher epoch, and a tampered one parks, waits
or goes on alone; one that hears only a beacon parks, and one that hears nothing for NEG_WAIT leads. BOOT_DONE makes it ACTIVE, STANDBY or
TAMPERED, in RUN. Completion of POWER_GOOD, ROLE_NEGOTIATION, NEG_WAIT_EXPIRE, BOOT_DONE. Where the spec leaves a choice or a reading, it is
the model's (assumptions 113, 115, 116, 117). -/
def Obligations.StartUpEndsInAState : Prop :=
  (∀ (o : BootObs) (s : State),
    let fw := ((s.bootSecure o).inStep 4).bootFirmware o
    let x := (((fw.1.stepEnd 4 (o.ms.getD 2 0)).inStep 5).setF ⟨0x3040, 0, 12⟩ 4095).stepEnd 5 (o.ms.getD 3 0)
    let b := (x.inStep 6).bootBank o
    runs (.powerGood o) s (fun t =>
      (o.fwA = false → o.fwB = false → t.mstate = 6 ∧ t.fld ⟨0x005C, 0, 8⟩ = 7 ∧ t.bootStep = 4)
      ∧ (o.fwA = true ∨ o.fwB = true →
          (o.selfTest = false → t.mstate = 6 ∧ t.fld ⟨0x005C, 0, 8⟩ = 8 ∧ t.bootStep = 5)
          ∧ (o.selfTest = true → b.2 = false → t.mstate = 1 ∧ t.bootStep = 7 ∧ t.bit (bitAt 0x0054 9) = true
              ∧ t.bit (bitAt 0x0010 1) = true)
          ∧ (o.selfTest = true → b.2 = true →
              (t.cfg.pair = true → t.bootStep = 9 ∧ t.twin.on = true) ∧ (t.cfg.pair = false → t.bootStep = 10)))))
  ∧ ∀ (s : State),
    (∀ (o : NegObs) (p : PartnerHb), s.inStep9 = true → s.hears = true → s.twin.hb = some p → runs (.roleNegotiation o) s (fun t =>
      let lead := p.epoch < s.epoch ∨ (s.epoch = p.epoch ∧ s.serial < o.serial % 2 ^ 64)
      let parks := fun (r : Nat) => t.mstate = 5 ∧ t.fld ⟨0x0054, 12, 4⟩ = r ∧ t.bit (bitAt 0x0010 2) = true
        ∧ (r = 3 → t.bit (bitAt 0xC010 9) = true)
      let leads := fun (e : Nat) => t.mstate = 0 ∧ t.bootStep = 10 ∧ t.rd 0xC04C = BitVec.ofNat 32 (e + 1)
      let stands := fun (e : Word) => t.mstate = 3 ∧ t.bootStep = 10 ∧ t.rd 0xC04C = e
      t.twin.on = true ∧ t.rd 0xC05C = lo32 o.serial ∧ t.rd 0xC060 = hi32 o.serial
      ∧ (s.tampered = true → (p.mstate = 3 ∨ p.mstate = 4 → parks 5) ∧ (p.mstate = 0 → t.mstate = 0 ∧ t.bootStep = 9)
          ∧ (p.mstate ≠ 0 → p.mstate ≠ 3 → p.mstate ≠ 4 → t.mstate = 0 ∧ t.bootStep = 10))
      ∧ (s.tampered = false → s.negRefuses o = true → parks 2)
      ∧ (s.tampered = false → s.negRefuses o = false → o.order ≠ s.fld ⟨0x0040, 0, 4⟩ →
          (lead → leads s.epoch) ∧ (¬ lead → parks 1))
      ∧ (s.tampered = false → s.negRefuses o = false → o.order = s.fld ⟨0x0040, 0, 4⟩ →
          (p.mstate = 4 → (p.epoch < s.epoch → parks 3) ∧ (s.epoch ≤ p.epoch → stands (s.rd 0xC04C)))
          ∧ (p.mstate = 0 ∨ p.mstate = 3 → (lead → leads (max s.epoch p.epoch))
            ∧ (¬ lead → stands (BitVec.ofNat 32 (max s.epoch p.epoch + 1))))
          ∧ (p.mstate ≠ 0 → p.mstate ≠ 3 → p.mstate ≠ 4 → leads s.epoch))))
    ∧ (∀ o : NegObs, s.inStep9 = true → s.hears = false ∨ s.twin.hb = none → runs (.roleNegotiation o) s (fun t => t.twin.on = true
        ∧ (s.twin.seen = true → t.mstate = 5 ∧ t.fld ⟨0x0054, 12, 4⟩ = 7)
        ∧ (s.twin.seen = false → t.bootStep = 9 ∧ s.regsBut t (fun a => a = 0x0054) ∧ s.onlyIn t [.regs, .twin])))
    ∧ (∀ o : NegObs, s.inStep9 = false → exec (.roleNegotiation o) s = .next s)
    ∧ (
        let alone := s.inStep9 = true ∧ s.hears = false ∧ s.twin.seen = false ∧ (s.lineUp 0 = true ∨ s.lineUp 1 = true)
          ∧ s.fld ⟨0x1070, 24, 8⟩ * 100 ≤ s.ownSince s.dev.negFrom
        (alone → runs .negWaitExpire s (fun t => t.bootStep = 10 ∧ t.mstate = 0
          ∧ t.rd 0xC04C = (if s.tampered then s.rd 0xC04C else s.rd 0xC04C + 1)))
        ∧ (¬ alone → exec .negWaitExpire s = .next s))
    ∧ (
        let done := (s.mstate = 0 ∨ s.mstate = 3) ∧ s.bootStep = 10 ∧ s.inRun = false ∧ s.admitted = true
        (done → runs .bootDone s (fun t => t.inRun = true ∧ t.bootStep = 11 ∧ t.bit (bitAt 0x0010 4) = true ∧ t.dev.recovery = false
          ∧ t.mstate = (if s.mstate = 3 then 3 else if s.tampered then 2 else 4)))
        ∧ (¬ done → exec .bootDone s = .next s))
end

