-- ==== Sys2Proof/Laws/Maps.lean ====
section
/-! SUPPORT. Bit fields and sparse maps: what a field holds after it has been put, what a map holds after a write, and that every map
operation keeps the canonical form. -/

namespace Sys2Proof.Machine

/-! ## Bit fields -/

/-- A bit of a field that was put: of the value inside the field, of the old word outside. -/
theorem wput_getLsbD (w : Word) (lo n v i : Nat) (hi : i < 32) :
    (wput w lo n v).getLsbD i = if lo ≤ i ∧ i < lo + n then v.testBit (i - lo) else w.getLsbD i := by
  have hm : (wmask lo n).getLsbD i = decide (lo ≤ i ∧ i < lo + n) := by
    simp only [wmask, BitVec.getLsbD_ofNat, hi, decide_true, Bool.true_and]
    rw [Nat.mul_comm, Nat.testBit_two_pow_mul, Nat.testBit_two_pow_sub_one]
    by_cases h1 : lo ≤ i <;> by_cases h2 : i < lo + n <;> simp [h1] <;> omega
  have hv : (BitVec.ofNat 32 (v * 2 ^ lo)).getLsbD i = (decide (lo ≤ i) && v.testBit (i - lo)) := by
    simp only [BitVec.getLsbD_ofNat, hi, decide_true, Bool.true_and]
    rw [Nat.mul_comm, Nat.testBit_two_pow_mul]
  simp only [wput, BitVec.getLsbD_or, BitVec.getLsbD_and, BitVec.getLsbD_not, hm, hv, hi, decide_true, Bool.true_and]
  by_cases h1 : lo ≤ i <;> by_cases h2 : i < lo + n <;> simp [h1, h2]

/-- A bit of a field that is read. -/
theorem wbits_testBit (w : Word) (lo n i : Nat) : (wbits w lo n).testBit i = (decide (i < n) && w.getLsbD (lo + i)) := by
  simp [wbits, Nat.testBit_mod_two_pow, BitVec.getLsbD, Nat.testBit_shiftRight]

theorem wbits_lt (w : Word) (lo n : Nat) : wbits w lo n < 2 ^ n := Nat.mod_lt _ (Nat.two_pow_pos n)

/-- The field that was put reads as the value. -/
theorem wbits_wput (w : Word) (lo n v : Nat) (h : lo + n ≤ 32) : wbits (wput w lo n v) lo n = v % 2 ^ n := by
  apply Nat.eq_of_testBit_eq
  intro i
  rw [wbits_testBit, Nat.testBit_mod_two_pow]
  by_cases hi : i < n
  · rw [wput_getLsbD _ _ _ _ _ (by omega)]
    simp [hi]
  · simp [hi]

/-- A field beside the one that was put stays. -/
theorem wbits_wput_ne (w : Word) (lo n v lo' n' : Nat) (h : lo + n ≤ lo' ∨ lo' + n' ≤ lo) :
    wbits (wput w lo n v) lo' n' = wbits w lo' n' := by
  apply Nat.eq_of_testBit_eq
  intro i
  rw [wbits_testBit, wbits_testBit]
  by_cases hi : i < n'
  · by_cases h32 : lo' + i < 32
    · rw [wput_getLsbD _ _ _ _ _ h32, if_neg (by omega)]
    · rw [BitVec.getLsbD_of_ge _ _ (by omega), BitVec.getLsbD_of_ge _ _ (by omega)]
  · simp [hi]

/-! ## What a map holds -/

@[simp] theorem smFind_nil (k : Nat) : smFind [] k = none := rfl

theorem smFind_insert (m : SMap) (k k' : Nat) (v : Word) :
    smFind (smInsert m k v) k' = if k' = k then some v else smFind m k' := by
  induction m with
  | nil => simp [smInsert, smFind]
  | cons e m ih =>
    obtain ⟨a, w⟩ := e
    simp only [smInsert]
    split
    · simp [smFind]
    · split
      · subst_vars
        simp only [smFind]
        split <;> simp_all
      · simp only [smFind, ih]
        split <;> split <;> simp_all

theorem smFind_filter (m : SMap) (p : Nat → Bool) (k : Nat) :
    smFind (m.filter (fun e => p e.1)) k = if p k then smFind m k else none := by
  induction m with
  | nil => simp [smFind]
  | cons e m ih =>
    obtain ⟨a, w⟩ := e
    by_cases hp : p a = true
    · simp only [List.filter_cons, hp, if_true, smFind, ih]
      split
      · subst_vars; simp [hp]
      · rfl
    · have hf : ((a, w) :: m).filter (fun e => p e.1) = m.filter (fun e => p e.1) := by simp [hp]
      rw [hf, ih]
      simp only [smFind]
      by_cases hk : k = a
      · subst hk; simp [hp]
      · simp [hk]

theorem smFind_erase (m : SMap) (k k' : Nat) : smFind (smErase m k) k' = if k' = k then none else smFind m k' := by
  rw [smErase, smFind_filter m (fun a => a != k)]
  by_cases h : k' = k <;> simp [h]

/-- The word at the key that was written. -/
theorem smGet_set_same (d : Nat → Word) (m : SMap) (k : Nat) (v : Word) : smGet d (smSet d m k v) k = v := by
  unfold smGet smSet
  split <;> simp_all [smFind_erase, smFind_insert]

/-- Every other key keeps its word. -/
theorem smGet_set_ne (d : Nat → Word) (m : SMap) (k k' : Nat) (v : Word) (h : k' ≠ k) :
    smGet d (smSet d m k v) k' = smGet d m k' := by
  unfold smGet smSet
  split <;> simp [smFind_erase, smFind_insert, h]

theorem smGet_filter (d : Nat → Word) (m : SMap) (p : Nat → Bool) (k : Nat) :
    smGet d (smFilter m p) k = if p k then smGet d m k else d k := by
  unfold smGet smFilter
  rw [smFind_filter]
  split <;> simp

/-! ## The canonical form -/

/-- The keys rise strictly, as a proposition. -/
theorem smSorted_iff (m : SMap) : smSorted m = true ↔ m.Pairwise (fun a b => a.1 < b.1) := by
  induction m with
  | nil => simp [smSorted]
  | cons e m ih =>
    cases m with
    | nil => simp [smSorted]
    | cons f m =>
      obtain ⟨a, v⟩ := e
      obtain ⟨b, w⟩ := f
      rw [List.pairwise_cons]
      simp only [smSorted, Bool.and_eq_true, decide_eq_true_eq, ih]
      constructor
      · rintro ⟨h, hp⟩
        refine ⟨?_, hp⟩
        intro x hx
        rcases List.mem_cons.1 hx with rfl | hx
        · exact h
        · exact Nat.lt_trans h ((List.pairwise_cons.1 hp).1 x hx)
      · rintro ⟨h, hp⟩
        exact ⟨h _ (List.mem_cons_self ..), hp⟩

/-- The canonical form, as a proposition. -/
theorem smWf_iff (d : Nat → Word) (m : SMap) :
    smWf d m = true ↔ m.Pairwise (fun a b => a.1 < b.1) ∧ ∀ e ∈ m, e.2 ≠ d e.1 := by
  simp [smWf, smSorted_iff]

@[simp] theorem smWf_nil (d : Nat → Word) : smWf d [] = true := rfl

theorem smWf_filter (d : Nat → Word) (m : SMap) (p : Nat × Word → Bool) (h : smWf d m = true) : smWf d (m.filter p) = true := by
  rw [smWf_iff] at *
  exact ⟨h.1.filter _, fun e he => h.2 e (List.mem_filter.1 he).1⟩

theorem mem_smInsert (m : SMap) (k : Nat) (v : Word) (e : Nat × Word) (h : e ∈ smInsert m k v) : e = (k, v) ∨ e ∈ m := by
  induction m with
  | nil => simpa [smInsert] using h
  | cons f m ih =>
    simp only [smInsert] at h
    split at h
    · simpa using h
    · split at h
      · rcases List.mem_cons.1 h with h | h
        · exact .inl h
        · exact .inr (List.mem_cons_of_mem _ h)
      · rcases List.mem_cons.1 h with h | h
        · exact .inr (h ▸ List.mem_cons_self ..)
        · rcases ih h with h | h
          · exact .inl h
          · exact .inr (List.mem_cons_of_mem _ h)

theorem smInsert_pairwise (m : SMap) (k : Nat) (v : Word) (h : m.Pairwise (fun a b => a.1 < b.1)) :
    (smInsert m k v).Pairwise (fun a b => a.1 < b.1) := by
  induction m with
  | nil => simp [smInsert]
  | cons f m ih =>
    obtain ⟨a, w⟩ := f
    have hm := List.pairwise_cons.1 h
    simp only [smInsert]
    split
    · rename_i hk
      refine List.pairwise_cons.2 ⟨?_, h⟩
      intro x hx
      rcases List.mem_cons.1 hx with rfl | hx
      · exact hk
      · exact Nat.lt_trans hk (hm.1 x hx)
    · split
      · subst_vars
        exact List.pairwise_cons.2 ⟨hm.1, hm.2⟩
      · refine List.pairwise_cons.2 ⟨?_, ih hm.2⟩
        intro x hx
        rcases mem_smInsert m k v x hx with rfl | hx
        · simp only; omega
        · exact hm.1 x hx

theorem smSorted_filter (m : SMap) (p : Nat × Word → Bool) (h : smSorted m = true) : smSorted (m.filter p) = true := by
  rw [smSorted_iff] at *
  exact h.filter _

theorem smSorted_erase (m : SMap) (k : Nat) (h : smSorted m = true) : smSorted (smErase m k) = true := smSorted_filter m _ h

theorem smSorted_insert (m : SMap) (k : Nat) (v : Word) (h : smSorted m = true) : smSorted (smInsert m k v) = true := by
  rw [smSorted_iff] at *
  exact smInsert_pairwise m k v h

/-- A write keeps the canonical form. -/
theorem smWf_set (d : Nat → Word) (m : SMap) (k : Nat) (v : Word) (h : smWf d m = true) : smWf d (smSet d m k v) = true := by
  unfold smSet
  split
  · exact smWf_filter d m _ h
  · rename_i hv
    rw [smWf_iff] at *
    refine ⟨smInsert_pairwise m k v h.1, ?_⟩
    intro e he
    rcases mem_smInsert m k v e he with rfl | he
    · exact hv
    · exact h.2 e he

theorem smWf_smFilter (d : Nat → Word) (m : SMap) (p : Nat → Bool) (h : smWf d m = true) : smWf d (smFilter m p) = true :=
  smWf_filter d m _ h

/-- Writing one map over another keeps the canonical form. -/
theorem smWf_over (d : Nat → Word) (n m : SMap) (h : smWf d m = true) : smWf d (smOver d m n) = true := by
  unfold smOver
  induction n generalizing m with
  | nil => exact h
  | cons e n ih => exact ih _ (smWf_set d m e.1 e.2 h)

end Sys2Proof.Machine
end

