-- ==== Sys2Proof/Laws/Keep.lean ====
section
/-! SUPPORT. What an operation keeps: the canonical form, the queue of commands, and the parts it does not name. -/

namespace Sys2Proof.Machine

/-- From `s` to `t`: the canonical form is kept, the queue of commands is as it was, and only the parts of `T` differ. -/
structure Keeps (T : List Part) (s t : State) : Prop where
  canon : s.Canon → t.Canon
  pending : t.pending = s.pending
  only : s.onlyIn t T

/-- The same of what a command answers. -/
def KeepsO (T : List Part) (s : State) (o : Out) : Prop := ∀ t, o = .next t → Keeps T s t

theorem Part.agree_refl (p : Part) (s : State) : p.agree s s := by cases p <;> rfl

theorem Keeps.refl (T : List Part) (s : State) : Keeps T s s := ⟨id, rfl, fun p _ => p.agree_refl s⟩

theorem Part.agree_trans {p : Part} {s t u : State} (h : p.agree s t) (h' : p.agree t u) : p.agree s u := by
  cases p <;> exact Eq.trans h' h

theorem Keeps.mono {T T' : List Part} {s t : State} (h : Keeps T s t) (hT : T ⊆ T') : Keeps T' s t :=
  ⟨h.canon, h.pending, fun p hp => h.only p (fun hm => hp (hT hm))⟩

theorem Keeps.trans {T : List Part} {s t u : State} (h : Keeps T s t) (h' : Keeps T t u) : Keeps T s u :=
  ⟨fun c => h'.canon (h.canon c), h'.pending.trans h.pending, fun p hp => Part.agree_trans (h.only p hp) (h'.only p hp)⟩

theorem keepsO_next {T : List Part} {s x : State} (h : Keeps T s x) : KeepsO T s (.next x) := by
  intro t ht
  injection ht with ht
  exact ht ▸ h

theorem keeps_ite {T : List Part} {s a b : State} {c : Prop} [Decidable c] (ha : Keeps T s a) (hb : Keeps T s b) :
    Keeps T s (if c then a else b) := by
  split
  · exact ha
  · exact hb

theorem keeps_iteP {α : Type} {T : List Part} {s : State} {a b : State × α} {c : Prop} [Decidable c] (ha : Keeps T s a.1)
    (hb : Keeps T s b.1) : Keeps T s (if c then a else b).1 := by
  split
  · exact ha
  · exact hb

theorem keepsO_ite {T : List Part} {s : State} {a b : Out} {c : Prop} [Decidable c] (ha : KeepsO T s a) (hb : KeepsO T s b) :
    KeepsO T s (if c then a else b) := by
  split
  · exact ha
  · exact hb

theorem keeps_fst {α : Type} {T : List Part} {s a : State} {b : α} (h : Keeps T s a) : Keeps T s (a, b).1 := h

theorem keeps_of_pair {α : Type} {T : List Part} {s a : State} {b : α} {p : State × α} (e : p = (a, b)) (h : Keeps T s p.1) :
    Keeps T s a := by
  rw [e] at h
  exact h

theorem keeps_foldl {α : Type} {T : List Part} {s x : State} {l : List α} {f : State → α → State} (h : Keeps T s x)
    (hf : ∀ a e, Keeps T s a → Keeps T s (f a e)) : Keeps T s (l.foldl f x) := by
  induction l generalizing x with
  | nil => exact h
  | cons e l ih => exact ih (hf x e h)

theorem keeps_foldlP {α β : Type} {T : List Part} {s : State} {x : State × β} {l : List α} {f : State × β → α → State × β}
    (h : Keeps T s x.1) (hf : ∀ a e, Keeps T s a.1 → Keeps T s (f a e).1) : Keeps T s (l.foldl f x).1 := by
  induction l generalizing x with
  | nil => exact h
  | cons e l ih => exact ih (hf x e h)

/-! ## One field replaced -/

theorem keeps_regs {T : List Part} {s x : State} {v : _} (h : Keeps T s x) (hc : smWf regReset x.regs = true → smWf regReset v = true) (hT : [Part.regs] ⊆ T) : Keeps T s { x with regs := v } := by
  refine ⟨fun c => ?_, h.pending, fun p hp => ?_⟩
  · have q := h.canon c
    exact ⟨hc q.regs, q.vis, q.tbl, q.shadow, q.tshadow⟩
  · have q := h.only p hp
    cases p <;> first | exact q | exact absurd (hT (by decide)) hp

theorem keeps_vis {T : List Part} {s x : State} {v : _} (h : Keeps T s x) (hc : smWf regReset x.vis = true → smWf regReset v = true) (hT : [Part.vis] ⊆ T) : Keeps T s { x with vis := v } := by
  refine ⟨fun c => ?_, h.pending, fun p hp => ?_⟩
  · have q := h.canon c
    exact ⟨q.regs, hc q.vis, q.tbl, q.shadow, q.tshadow⟩
  · have q := h.only p hp
    cases p <;> first | exact q | exact absurd (hT (by decide)) hp

theorem keeps_shadow {T : List Part} {s x : State} {v : _} (h : Keeps T s x) (hc : smSorted x.shadow = true → smSorted v = true) (hT : [Part.shadow] ⊆ T) : Keeps T s { x with shadow := v } := by
  refine ⟨fun c => ?_, h.pending, fun p hp => ?_⟩
  · have q := h.canon c
    exact ⟨q.regs, q.vis, q.tbl, hc q.shadow, q.tshadow⟩
  · have q := h.only p hp
    cases p <;> first | exact q | exact absurd (hT (by decide)) hp

theorem keeps_tbl {T : List Part} {s x : State} {v : _} (h : Keeps T s x) (hc : smWf tblReset x.tbl = true → smWf tblReset v = true) (hT : [Part.tbl] ⊆ T) : Keeps T s { x with tbl := v } := by
  refine ⟨fun c => ?_, h.pending, fun p hp => ?_⟩
  · have q := h.canon c
    exact ⟨q.regs, q.vis, hc q.tbl, q.shadow, q.tshadow⟩
  · have q := h.only p hp
    cases p <;> first | exact q | exact absurd (hT (by decide)) hp

theorem keeps_tshadow {T : List Part} {s x : State} {v : _} (h : Keeps T s x) (hc : smSorted x.tshadow = true → smSorted v = true) (hT : [Part.tshadow] ⊆ T) : Keeps T s { x with tshadow := v } := by
  refine ⟨fun c => ?_, h.pending, fun p hp => ?_⟩
  · have q := h.canon c
    exact ⟨q.regs, q.vis, q.tbl, q.shadow, hc q.tshadow⟩
  · have q := h.only p hp
    cases p <;> first | exact q | exact absurd (hT (by decide)) hp

theorem keeps_frzFrom {T : List Part} {s x : State} {v : _} (h : Keeps T s x) (hT : [Part.frzFrom] ⊆ T) : Keeps T s { x with frzFrom := v } := by
  refine ⟨fun c => ?_, h.pending, fun p hp => ?_⟩
  · have q := h.canon c
    exact ⟨q.regs, q.vis, q.tbl, q.shadow, q.tshadow⟩
  · have q := h.only p hp
    cases p <;> first | exact q | exact absurd (hT (by decide)) hp

theorem keeps_commitDue {T : List Part} {s x : State} {v : _} (h : Keeps T s x) (hT : [Part.commitDue] ⊆ T) : Keeps T s { x with commitDue := v } := by
  refine ⟨fun c => ?_, h.pending, fun p hp => ?_⟩
  · have q := h.canon c
    exact ⟨q.regs, q.vis, q.tbl, q.shadow, q.tshadow⟩
  · have q := h.only p hp
    cases p <;> first | exact q | exact absurd (hT (by decide)) hp

theorem keeps_mbx {T : List Part} {s x : State} {v : _} (h : Keeps T s x) (hT : [Part.mbx] ⊆ T) : Keeps T s { x with mbx := v } := by
  refine ⟨fun c => ?_, h.pending, fun p hp => ?_⟩
  · have q := h.canon c
    exact ⟨q.regs, q.vis, q.tbl, q.shadow, q.tshadow⟩
  · have q := h.only p hp
    cases p <;> first | exact q | exact absurd (hT (by decide)) hp

theorem keeps_host {T : List Part} {s x : State} {v : _} (h : Keeps T s x) (hT : [Part.host, Part.items] ⊆ T) : Keeps T s { x with host := v } := by
  refine ⟨fun c => ?_, h.pending, fun p hp => ?_⟩
  · have q := h.canon c
    exact ⟨q.regs, q.vis, q.tbl, q.shadow, q.tshadow⟩
  · have q := h.only p hp
    cases p <;> first | exact q | exact absurd (hT (by decide)) hp

theorem keeps_icu {T : List Part} {s x : State} {v : _} (h : Keeps T s x) (hT : [Part.icu] ⊆ T) : Keeps T s { x with icu := v } := by
  refine ⟨fun c => ?_, h.pending, fun p hp => ?_⟩
  · have q := h.canon c
    exact ⟨q.regs, q.vis, q.tbl, q.shadow, q.tshadow⟩
  · have q := h.only p hp
    cases p <;> first | exact q | exact absurd (hT (by decide)) hp

theorem keeps_evr {T : List Part} {s x : State} {v : _} (h : Keeps T s x) (hT : [Part.evr] ⊆ T) : Keeps T s { x with evr := v } := by
  refine ⟨fun c => ?_, h.pending, fun p hp => ?_⟩
  · have q := h.canon c
    exact ⟨q.regs, q.vis, q.tbl, q.shadow, q.tshadow⟩
  · have q := h.only p hp
    cases p <;> first | exact q | exact absurd (hT (by decide)) hp

theorem keeps_seq {T : List Part} {s x : State} {v : _} (h : Keeps T s x) (hT : [Part.seq] ⊆ T) : Keeps T s { x with seq := v } := by
  refine ⟨fun c => ?_, h.pending, fun p hp => ?_⟩
  · have q := h.canon c
    exact ⟨q.regs, q.vis, q.tbl, q.shadow, q.tshadow⟩
  · have q := h.only p hp
    cases p <;> first | exact q | exact absurd (hT (by decide)) hp

theorem keeps_cpe {T : List Part} {s x : State} {v : _} (h : Keeps T s x) (hT : [Part.cpe] ⊆ T) : Keeps T s { x with cpe := v } := by
  refine ⟨fun c => ?_, h.pending, fun p hp => ?_⟩
  · have q := h.canon c
    exact ⟨q.regs, q.vis, q.tbl, q.shadow, q.tshadow⟩
  · have q := h.only p hp
    cases p <;> first | exact q | exact absurd (hT (by decide)) hp

theorem keeps_time {T : List Part} {s x : State} {v : _} (h : Keeps T s x) (hT : [Part.time] ⊆ T) : Keeps T s { x with time := v } := by
  refine ⟨fun c => ?_, h.pending, fun p hp => ?_⟩
  · have q := h.canon c
    exact ⟨q.regs, q.vis, q.tbl, q.shadow, q.tshadow⟩
  · have q := h.only p hp
    cases p <;> first | exact q | exact absurd (hT (by decide)) hp

theorem keeps_model {T : List Part} {s x : State} {v : _} (h : Keeps T s x) (hT : [Part.model] ⊆ T) : Keeps T s { x with model := v } := by
  refine ⟨fun c => ?_, h.pending, fun p hp => ?_⟩
  · have q := h.canon c
    exact ⟨q.regs, q.vis, q.tbl, q.shadow, q.tshadow⟩
  · have q := h.only p hp
    cases p <;> first | exact q | exact absurd (hT (by decide)) hp

theorem keeps_opt {T : List Part} {s x : State} {v : _} (h : Keeps T s x) (hT : [Part.opt] ⊆ T) : Keeps T s { x with opt := v } := by
  refine ⟨fun c => ?_, h.pending, fun p hp => ?_⟩
  · have q := h.canon c
    exact ⟨q.regs, q.vis, q.tbl, q.shadow, q.tshadow⟩
  · have q := h.only p hp
    cases p <;> first | exact q | exact absurd (hT (by decide)) hp

theorem keeps_snet {T : List Part} {s x : State} {v : _} (h : Keeps T s x) (hT : [Part.snet] ⊆ T) : Keeps T s { x with snet := v } := by
  refine ⟨fun c => ?_, h.pending, fun p hp => ?_⟩
  · have q := h.canon c
    exact ⟨q.regs, q.vis, q.tbl, q.shadow, q.tshadow⟩
  · have q := h.only p hp
    cases p <;> first | exact q | exact absurd (hT (by decide)) hp

theorem keeps_can {T : List Part} {s x : State} {v : _} (h : Keeps T s x) (hT : [Part.can] ⊆ T) : Keeps T s { x with can := v } := by
  refine ⟨fun c => ?_, h.pending, fun p hp => ?_⟩
  · have q := h.canon c
    exact ⟨q.regs, q.vis, q.tbl, q.shadow, q.tshadow⟩
  · have q := h.only p hp
    cases p <;> first | exact q | exact absurd (hT (by decide)) hp

theorem keeps_dio {T : List Part} {s x : State} {v : _} (h : Keeps T s x) (hT : [Part.dio] ⊆ T) : Keeps T s { x with dio := v } := by
  refine ⟨fun c => ?_, h.pending, fun p hp => ?_⟩
  · have q := h.canon c
    exact ⟨q.regs, q.vis, q.tbl, q.shadow, q.tshadow⟩
  · have q := h.only p hp
    cases p <;> first | exact q | exact absurd (hT (by decide)) hp

theorem keeps_adc {T : List Part} {s x : State} {v : _} (h : Keeps T s x) (hT : [Part.adc] ⊆ T) : Keeps T s { x with adc := v } := by
  refine ⟨fun c => ?_, h.pending, fun p hp => ?_⟩
  · have q := h.canon c
    exact ⟨q.regs, q.vis, q.tbl, q.shadow, q.tshadow⟩
  · have q := h.only p hp
    cases p <;> first | exact q | exact absurd (hT (by decide)) hp

theorem keeps_lnch {T : List Part} {s x : State} {v : _} (h : Keeps T s x) (hT : [Part.lnch] ⊆ T) : Keeps T s { x with lnch := v } := by
  refine ⟨fun c => ?_, h.pending, fun p hp => ?_⟩
  · have q := h.canon c
    exact ⟨q.regs, q.vis, q.tbl, q.shadow, q.tshadow⟩
  · have q := h.only p hp
    cases p <;> first | exact q | exact absurd (hT (by decide)) hp

theorem keeps_priv {T : List Part} {s x : State} {v : _} (h : Keeps T s x) (hT : [Part.priv] ⊆ T) : Keeps T s { x with priv := v } := by
  refine ⟨fun c => ?_, h.pending, fun p hp => ?_⟩
  · have q := h.canon c
    exact ⟨q.regs, q.vis, q.tbl, q.shadow, q.tshadow⟩
  · have q := h.only p hp
    cases p <;> first | exact q | exact absurd (hT (by decide)) hp

theorem keeps_met {T : List Part} {s x : State} {v : _} (h : Keeps T s x) (hT : [Part.met] ⊆ T) : Keeps T s { x with met := v } := by
  refine ⟨fun c => ?_, h.pending, fun p hp => ?_⟩
  · have q := h.canon c
    exact ⟨q.regs, q.vis, q.tbl, q.shadow, q.tshadow⟩
  · have q := h.only p hp
    cases p <;> first | exact q | exact absurd (hT (by decide)) hp

theorem keeps_metNv {T : List Part} {s x : State} {v : _} (h : Keeps T s x) (hT : [Part.metNv] ⊆ T) : Keeps T s { x with metNv := v } := by
  refine ⟨fun c => ?_, h.pending, fun p hp => ?_⟩
  · have q := h.canon c
    exact ⟨q.regs, q.vis, q.tbl, q.shadow, q.tshadow⟩
  · have q := h.only p hp
    cases p <;> first | exact q | exact absurd (hT (by decide)) hp

theorem keeps_pwr {T : List Part} {s x : State} {v : _} (h : Keeps T s x) (hT : [Part.pwr] ⊆ T) : Keeps T s { x with pwr := v } := by
  refine ⟨fun c => ?_, h.pending, fun p hp => ?_⟩
  · have q := h.canon c
    exact ⟨q.regs, q.vis, q.tbl, q.shadow, q.tshadow⟩
  · have q := h.only p hp
    cases p <;> first | exact q | exact absurd (hT (by decide)) hp

theorem keeps_cpeNv {T : List Part} {s x : State} {v : _} (h : Keeps T s x) (hT : [Part.cpeNv] ⊆ T) : Keeps T s { x with cpeNv := v } := by
  refine ⟨fun c => ?_, h.pending, fun p hp => ?_⟩
  · have q := h.canon c
    exact ⟨q.regs, q.vis, q.tbl, q.shadow, q.tshadow⟩
  · have q := h.only p hp
    cases p <;> first | exact q | exact absurd (hT (by decide)) hp

theorem keeps_loop {T : List Part} {s x : State} {v : _} (h : Keeps T s x) (hT : [Part.loop] ⊆ T) : Keeps T s { x with loop := v } := by
  refine ⟨fun c => ?_, h.pending, fun p hp => ?_⟩
  · have q := h.canon c
    exact ⟨q.regs, q.vis, q.tbl, q.shadow, q.tshadow⟩
  · have q := h.only p hp
    cases p <;> first | exact q | exact absurd (hT (by decide)) hp

theorem keeps_twin {T : List Part} {s x : State} {v : _} (h : Keeps T s x) (hT : [Part.twin] ⊆ T) : Keeps T s { x with twin := v } := by
  refine ⟨fun c => ?_, h.pending, fun p hp => ?_⟩
  · have q := h.canon c
    exact ⟨q.regs, q.vis, q.tbl, q.shadow, q.tshadow⟩
  · have q := h.only p hp
    cases p <;> first | exact q | exact absurd (hT (by decide)) hp

theorem keeps_segs {T : List Part} {s x : State} {v : _} (h : Keeps T s x) (hT : [Part.segs] ⊆ T) : Keeps T s { x with segs := v } := by
  refine ⟨fun c => ?_, h.pending, fun p hp => ?_⟩
  · have q := h.canon c
    exact ⟨q.regs, q.vis, q.tbl, q.shadow, q.tshadow⟩
  · have q := h.only p hp
    cases p <;> first | exact q | exact absurd (hT (by decide)) hp

theorem keeps_keys {T : List Part} {s x : State} {v : _} (h : Keeps T s x) (hT : [Part.keys] ⊆ T) : Keeps T s { x with keys := v } := by
  refine ⟨fun c => ?_, h.pending, fun p hp => ?_⟩
  · have q := h.canon c
    exact ⟨q.regs, q.vis, q.tbl, q.shadow, q.tshadow⟩
  · have q := h.only p hp
    cases p <;> first | exact q | exact absurd (hT (by decide)) hp

theorem keeps_cfg {T : List Part} {s x : State} {v : _} (h : Keeps T s x) (hT : [Part.cfg] ⊆ T) : Keeps T s { x with cfg := v } := by
  refine ⟨fun c => ?_, h.pending, fun p hp => ?_⟩
  · have q := h.canon c
    exact ⟨q.regs, q.vis, q.tbl, q.shadow, q.tshadow⟩
  · have q := h.only p hp
    cases p <;> first | exact q | exact absurd (hT (by decide)) hp

theorem keeps_dev {T : List Part} {s x : State} {v : _} (h : Keeps T s x) (hT : [Part.dev] ⊆ T) : Keeps T s { x with dev := v } := by
  refine ⟨fun c => ?_, h.pending, fun p hp => ?_⟩
  · have q := h.canon c
    exact ⟨q.regs, q.vis, q.tbl, q.shadow, q.tshadow⟩
  · have q := h.only p hp
    cases p <;> first | exact q | exact absurd (hT (by decide)) hp

theorem keeps_sent {T : List Part} {s x : State} {v : _} (h : Keeps T s x) (hT : [Part.sent] ⊆ T) : Keeps T s { x with sent := v } := by
  refine ⟨fun c => ?_, h.pending, fun p hp => ?_⟩
  · have q := h.canon c
    exact ⟨q.regs, q.vis, q.tbl, q.shadow, q.tshadow⟩
  · have q := h.only p hp
    cases p <;> first | exact q | exact absurd (hT (by decide)) hp

theorem keeps_free {T : List Part} {s x : State} {v : _} (h : Keeps T s x) (hT : [Part.free] ⊆ T) : Keeps T s { x with free := v } := by
  refine ⟨fun c => ?_, h.pending, fun p hp => ?_⟩
  · have q := h.canon c
    exact ⟨q.regs, q.vis, q.tbl, q.shadow, q.tshadow⟩
  · have q := h.only p hp
    cases p <;> first | exact q | exact absurd (hT (by decide)) hp

/-! ## Notification items -/

theorem modAt_map {α β : Type} (g : α → β) (f : α → α) (hf : ∀ x, g (f x) = g x) (l : List α) (i : Nat) :
    (modAt l i f).map g = l.map g := by
  induction l generalizing i with
  | nil => rfl
  | cons x l ih => cases i <;> simp [modAt, hf, ih]

theorem addItem_core (x : Sess) (it : NItem) (us : Nat) :
    ({ x.addItem it us with items := [], oldestAt := 0 } : Sess) = { x with items := [], oldestAt := 0 } := by
  unfold Sess.addItem
  split <;> rfl

/-- An item that a session is given changes nothing else of the host block. -/
theorem addItem_still (s : State) (i : Nat) (it : NItem) : (s.addItem i it).host.still = s.host.still := by
  simp only [State.addItem, HostSt.still]
  rw [modAt_map _ _ (fun x => addItem_core x it _)]

/-- An event's items for the sessions that wait for it change nothing else of the host block. -/
theorem notify_still (s : State) (p : Nat) (it : NItem) :
    ({ s.host with sess := s.host.sess.map (fun x => if x.pageMask / 2 ^ p % 2 = 1 then x.addItem it s.tickUs else x) } : HostSt).still
      = s.host.still := by
  simp only [HostSt.still, List.map_map]
  congr 1
  apply List.map_congr_left
  intro x _
  simp only [Function.comp]
  split
  · exact addItem_core x it _
  · rfl

theorem keeps_tblPut {T : List Part} {s x : State} (m : SMap) (h : Keeps T s x) (hT : [Part.tbl] ⊆ T) :
    Keeps T s (m.foldl (fun a e => { a with tbl := smSet tblReset a.tbl e.1 e.2 }) x) :=
  keeps_foldl h (fun _ _ ha => keeps_tbl ha (smWf_set _ _ _ _) hT)

theorem keeps_same {T : List Part} {s x y : State} (h : Keeps T s x) (hc : x.Canon → y.Canon) (hp : y.pending = x.pending)
    (ho : x.onlyIn y T) : Keeps T s y := h.trans ⟨hc, hp, ho⟩

theorem keeps_snd {α : Type} {T : List Part} {s a : State} {b : α} (h : Keeps T s a) : Keeps T s (b, a).2 := h

theorem keeps_of_pair2 {α : Type} {T : List Part} {s a : State} {b : α} {p : α × State} (e : p = (b, a)) (h : Keeps T s p.2) :
    Keeps T s a := by
  rw [e] at h
  exact h

theorem keeps_notify {T : List Part} {s x : State} {p : Nat} {it : NItem} (h : Keeps T s x) (hT : [Part.items] ⊆ T) :
    Keeps T s { x with host := { x.host with sess := x.host.sess.map (fun y =>
      if y.pageMask / 2 ^ p % 2 = 1 then y.addItem it x.tickUs else y) } } := by
  refine ⟨fun c => ?_, h.pending, fun p hp => ?_⟩
  · have q := h.canon c
    exact ⟨q.regs, q.vis, q.tbl, q.shadow, q.tshadow⟩
  · have q := h.only p hp
    cases p <;> first | exact q | exact absurd (hT (by decide)) hp | exact (notify_still x _ _).trans q

end Sys2Proof.Machine
end

