-- ==== Sys2Proof/Laws/KeepOps.lean ====
section
/-! SUPPORT. What each operation of Machine/Ops.lean keeps: the canonical form, the queue, and the parts it does not name. -/

namespace Sys2Proof.Machine

theorem wr_keeps {T : List Part} {s0 : State} {s : State} {a : Nat} {v : Word} (hs : Keeps T s0 s)
    (hT : [.regs] ⊆ T) :
    Keeps T s0 (State.wr s a v) := by
  delta State.wr
  exact keeps_regs hs (smWf_set _ _ _ _) (List.Subset.trans (by decide) hT)

theorem setF_keeps {T : List Part} {s0 : State} {s : State} {f : Fld} {v : Nat} (hs : Keeps T s0 s)
    (hT : [.regs] ⊆ T) :
    Keeps T s0 (State.setF s f v) := by
  delta State.setF
  refine wr_keeps ?_ (List.Subset.trans (by decide) hT)
  exact hs

theorem setB_keeps {T : List Part} {s0 : State} {s : State} {f : Fld} {b : Bool} (hs : Keeps T s0 s)
    (hT : [.regs] ⊆ T) :
    Keeps T s0 (State.setB s f b) := by
  delta State.setB
  refine setF_keeps ?_ (List.Subset.trans (by decide) hT)
  exact hs

theorem twr_keeps {T : List Part} {s0 : State} {s : State} {tid : Nat} {idx : Nat} {w : Nat} {v : Word} (hs : Keeps T s0 s)
    (hT : [.tbl] ⊆ T) :
    Keeps T s0 (State.twr s tid idx w v) := by
  delta State.twr
  exact keeps_tbl hs (smWf_set _ _ _ _) (List.Subset.trans (by decide) hT)

theorem tset_keeps {T : List Part} {s0 : State} {s : State} {tid : Nat} {idx : Nat} {w : Nat} {lo : Nat} {n : Nat} {v : Nat} (hs : Keeps T s0 s)
    (hT : [.tbl] ⊆ T) :
    Keeps T s0 (State.tset s tid idx w lo n v) := by
  delta State.tset
  refine twr_keeps ?_ (List.Subset.trans (by decide) hT)
  exact hs

theorem trecSet_keeps {T : List Part} {s0 : State} {s : State} {tid : Nat} {idx : Nat} {w : Nat} {a4 : List Word} (hs : Keeps T s0 s)
    (hT : [.tbl] ⊆ T) :
    Keeps T s0 (State.trecSet s tid idx w a4) := by
  induction a4 generalizing s w with
  | nil => exact hs
  | cons v vs ih => exact ih (twr_keeps hs (List.Subset.trans (by decide) hT))

theorem tclear_keeps {T : List Part} {s0 : State} {s : State} {tid : Nat} {p : Nat → Bool} (hs : Keeps T s0 s)
    (hT : [.tbl] ⊆ T) :
    Keeps T s0 (State.tclear s tid p) := by
  delta State.tclear
  exact keeps_tbl hs (smWf_smFilter _ _ _) (List.Subset.trans (by decide) hT)

theorem bankSwap_keeps {T : List Part} {s0 : State} {s : State} {p : Nat → Bool} (hs : Keeps T s0 s)
    (hT : [.tbl] ⊆ T) :
    Keeps T s0 (State.bankSwap s p) := by
  delta State.bankSwap
  exact keeps_tbl hs (fun h => smWf_over _ _ _ (smWf_smFilter _ _ _ h)) (List.Subset.trans (by decide) hT)

theorem tkeep_keeps {T : List Part} {s0 : State} {s : State} {p : Nat → Bool} (hs : Keeps T s0 s)
    (hT : [.tbl] ⊆ T) :
    Keeps T s0 (State.tkeep s p) := by
  delta State.tkeep
  exact keeps_tbl hs (smWf_smFilter _ _ _) (List.Subset.trans (by decide) hT)

theorem bumpN_keeps {T : List Part} {s0 : State} {s : State} {c : Ctr} {n : Nat} (hs : Keeps T s0 s)
    (hT : [.regs] ⊆ T) :
    Keeps T s0 (State.bumpN s c n) := by
  delta State.bumpN
  split
  · refine setF_keeps ?_ (List.Subset.trans (by decide) hT)
    exact hs
  · refine keeps_ite ?_ ?_
    · refine setF_keeps ?_ (List.Subset.trans (by decide) hT)
      refine setF_keeps ?_ (List.Subset.trans (by decide) hT)
      exact hs
    · refine setF_keeps ?_ (List.Subset.trans (by decide) hT)
      exact hs

theorem bump_keeps {T : List Part} {s0 : State} {s : State} {c : Ctr} (hs : Keeps T s0 s)
    (hT : [.regs] ⊆ T) :
    Keeps T s0 (State.bump s c) := by
  delta State.bump
  refine bumpN_keeps ?_ (List.Subset.trans (by decide) hT)
  exact hs

theorem clearCtr_keeps {T : List Part} {s0 : State} {s : State} {c : Ctr} (hs : Keeps T s0 s)
    (hT : [.regs] ⊆ T) :
    Keeps T s0 (State.clearCtr s c) := by
  delta State.clearCtr
  split
  · exact hs
  · refine setF_keeps ?_ (List.Subset.trans (by decide) hT)
    refine setF_keeps ?_ (List.Subset.trans (by decide) hT)
    exact hs

theorem srcSet_keeps {T : List Part} {s0 : State} {s : State} {src : Nat} {lo : Nat} {n : Nat} {v : Nat} (hs : Keeps T s0 s)
    (hT : [.tbl] ⊆ T) :
    Keeps T s0 (State.srcSet s src lo n v) := by
  delta State.srcSet
  refine tset_keeps ?_ (List.Subset.trans (by decide) hT)
  exact hs

theorem addItem_keeps {T : List Part} {s0 : State} {s : State} {i : Nat} {it : NItem} (hs : Keeps T s0 s)
    (hT : [.items] ⊆ T) :
    Keeps T s0 (State.addItem s i it) := by
  refine ⟨fun c => ?_, hs.pending, fun p hp => ?_⟩
  · have q := hs.canon c
    exact ⟨q.regs, q.vis, q.tbl, q.shadow, q.tshadow⟩
  · have q := hs.only p hp
    cases p <;> first | exact q | exact absurd (hT (by decide)) hp | exact (addItem_still s i it).trans q

theorem icuTgtStat_keeps {T : List Part} {s0 : State} {s : State} {t : Nat} (hs : Keeps T s0 s)
    (hT : [.regs] ⊆ T) :
    Keeps T s0 (State.icuTgtStat s t) := by
  delta State.icuTgtStat
  extract_lets +onlyGivenNames y1
  extract_lets +onlyGivenNames y2
  refine wr_keeps ?_ (List.Subset.trans (by decide) hT)
  exact hs

theorem icuEvalT_keeps {T : List Part} {s0 : State} {s : State} {t : Nat} (hs : Keeps T s0 s)
    (hT : [.regs, .items, .icu] ⊆ T) :
    Keeps T s0 (State.icuEvalT s t) := by
  delta State.icuEvalT
  extract_lets +onlyGivenNames y1
  extract_lets +onlyGivenNames y2
  extract_lets +onlyGivenNames y3
  extract_lets +onlyGivenNames y4
  have hy4 : Keeps T s0 y4 := by
    unfold y4
    refine keeps_icu ?_ (List.Subset.trans (by decide) hT)
    exact hs
  extract_lets +onlyGivenNames y5
  have hy5 : Keeps T s0 y5 := by
    unfold y5
    split
    · refine keeps_ite ?_ ?_
      · refine addItem_keeps ?_ (List.Subset.trans (by decide) hT)
        exact hy4
      · exact hy4
    · exact hy4
  refine icuTgtStat_keeps ?_ (List.Subset.trans (by decide) hT)
  exact hy5

theorem icuPendN_keeps {T : List Part} {s0 : State} {s : State} (hs : Keeps T s0 s)
    (hT : [.regs] ⊆ T) :
    Keeps T s0 (State.icuPendN s) := by
  delta State.icuPendN
  refine setF_keeps ?_ (List.Subset.trans (by decide) hT)
  exact hs

theorem icuEval_keeps {T : List Part} {s0 : State} {s : State} (hs : Keeps T s0 s)
    (hT : [.regs, .items, .icu] ⊆ T) :
    Keeps T s0 (State.icuEval s) := by
  delta State.icuEval
  refine icuPendN_keeps ?_ (List.Subset.trans (by decide) hT)
  refine keeps_foldl ?_ (fun a e ha => ?_)
  · exact hs
  · refine icuEvalT_keeps ?_ (List.Subset.trans (by decide) hT)
    exact ha

theorem signal_keeps {T : List Part} {s0 : State} {s : State} {src : Nat} (hs : Keeps T s0 s)
    (hT : [.regs, .tbl, .items, .icu] ⊆ T) :
    Keeps T s0 (State.signal s src) := by
  delta State.signal
  refine keeps_ite ?_ ?_
  · exact hs
  · extract_lets +onlyGivenNames y1
    have hy1 : Keeps T s0 y1 := by
      unfold y1
      refine srcSet_keeps ?_ (List.Subset.trans (by decide) hT)
      exact hs
    extract_lets +onlyGivenNames y2
    extract_lets +onlyGivenNames y3
    have hy3 : Keeps T s0 y3 := by
      unfold y3
      refine keeps_ite ?_ ?_
      · refine srcSet_keeps ?_ (List.Subset.trans (by decide) hT)
        refine srcSet_keeps ?_ (List.Subset.trans (by decide) hT)
        exact hy1
      · refine srcSet_keeps ?_ (List.Subset.trans (by decide) hT)
        exact hy1
    refine icuEval_keeps ?_ (List.Subset.trans (by decide) hT)
    exact hy3

theorem noteEv_keeps {T : List Part} {s0 : State} {s : State} {p : Nat} {b : Nat} {was : Bool} (hs : Keeps T s0 s)
    (hT : [.icu] ⊆ T) :
    Keeps T s0 (State.noteEv s p b was) := by
  delta State.noteEv
  refine keeps_icu ?_ (List.Subset.trans (by decide) hT)
  exact hs

theorem tickEarly_keeps {T : List Part} {s0 : State} {s : State} (hs : Keeps T s0 s)
    (hT : [.icu] ⊆ T) :
    Keeps T s0 (State.tickEarly s) := by
  delta State.tickEarly
  refine keeps_ite ?_ ?_
  · exact hs
  · refine keeps_icu ?_ (List.Subset.trans (by decide) hT)
    exact hs

theorem tickNotes_keeps {T : List Part} {s0 : State} {s : State} (hs : Keeps T s0 s)
    (hT : [.icu] ⊆ T) :
    Keeps T s0 (State.tickNotes s) := by
  delta State.tickNotes
  refine keeps_icu ?_ (List.Subset.trans (by decide) hT)
  exact hs

theorem raiseNoRec_keeps {T : List Part} {s0 : State} {s : State} {p : Nat} {b : Nat} (hs : Keeps T s0 s)
    (hT : [.regs, .tbl, .items, .icu] ⊆ T) :
    Keeps T s0 (State.raiseNoRec s p b) := by
  delta State.raiseNoRec
  extract_lets base was s1 s2 h s3
  have h1 : Keeps T s0 s1 := noteEv_keeps (setF_keeps hs (List.Subset.trans (by decide) hT)) (List.Subset.trans (by decide) hT)
  have h2 : Keeps T s0 s2 := bumpN_keeps h1 (List.Subset.trans (by decide) hT)
  have h3 : Keeps T s0 s3 := keeps_notify h2 (List.Subset.trans (by decide) hT)
  refine keeps_ite ?_ h3
  exact signal_keeps h3 (List.Subset.trans (by decide) hT)

theorem evrSetTokens_keeps {T : List Part} {s0 : State} {s : State} {k : Nat} {n : Nat} (hs : Keeps T s0 s)
    (hT : [.regs, .tbl] ⊆ T) :
    Keeps T s0 (State.evrSetTokens s k n) := by
  delta State.evrSetTokens
  refine keeps_ite ?_ ?_
  · refine setF_keeps ?_ (List.Subset.trans (by decide) hT)
    exact hs
  · refine tset_keeps ?_ (List.Subset.trans (by decide) hT)
    exact hs

theorem evrSetSupp_keeps {T : List Part} {s0 : State} {s : State} {k : Nat} {n : Nat} (hs : Keeps T s0 s)
    (hT : [.regs, .tbl] ⊆ T) :
    Keeps T s0 (State.evrSetSupp s k n) := by
  delta State.evrSetSupp
  refine keeps_ite ?_ ?_
  · refine setF_keeps ?_ (List.Subset.trans (by decide) hT)
    exact hs
  · refine tset_keeps ?_ (List.Subset.trans (by decide) hT)
    exact hs

theorem evrSetGain_keeps {T : List Part} {s0 : State} {s : State} {k : Nat} {f : Nat} (hs : Keeps T s0 s)
    (hT : [.evr] ⊆ T) :
    Keeps T s0 (State.evrSetGain s k f) := by
  delta State.evrSetGain
  refine keeps_evr ?_ (List.Subset.trans (by decide) hT)
  exact hs

theorem evrSuppress_keeps {T : List Part} {s0 : State} {s : State} {k : Nat} {sec : Nat} {ns : Nat} (hs : Keeps T s0 s)
    (hT : [.regs, .tbl, .items, .icu] ⊆ T) :
    Keeps T s0 (State.evrSuppress s k sec ns) := by
  delta State.evrSuppress
  extract_lets +onlyGivenNames y1
  extract_lets +onlyGivenNames y2
  have hy2 : Keeps T s0 y2 := by
    unfold y2
    refine keeps_ite ?_ ?_
    · refine twr_keeps ?_ (List.Subset.trans (by decide) hT)
      refine twr_keeps ?_ (List.Subset.trans (by decide) hT)
      exact hs
    · exact hs
  extract_lets +onlyGivenNames y3
  have hy3 : Keeps T s0 y3 := by
    unfold y3
    refine twr_keeps ?_ (List.Subset.trans (by decide) hT)
    refine twr_keeps ?_ (List.Subset.trans (by decide) hT)
    exact hy2
  extract_lets +onlyGivenNames y4
  have hy4 : Keeps T s0 y4 := by
    unfold y4
    refine bump_keeps ?_ (List.Subset.trans (by decide) hT)
    exact hy3
  refine keeps_ite ?_ ?_
  · extract_lets +onlyGivenNames y5
    have hy5 : Keeps T s0 y5 := by
      unfold y5
      refine evrSetSupp_keeps ?_ (List.Subset.trans (by decide) hT)
      exact hy4
    refine keeps_ite ?_ ?_
    · refine raiseNoRec_keeps ?_ (List.Subset.trans (by decide) hT)
      exact hy5
    · exact hy5
  · exact hy4

theorem evrTake_keeps {T : List Part} {s0 : State} {s : State} {k : Nat} (hs : Keeps T s0 s)
    (hT : [.regs, .tbl, .evr] ⊆ T) :
    Keeps T s0 (State.evrTake s k) := by
  delta State.evrTake
  refine keeps_ite ?_ ?_
  · exact hs
  · extract_lets +onlyGivenNames y1
    extract_lets +onlyGivenNames y2
    have hy2 : Keeps T s0 y2 := by
      unfold y2
      refine keeps_ite ?_ ?_
      · refine evrSetGain_keeps ?_ (List.Subset.trans (by decide) hT)
        exact hs
      · exact hs
    refine evrSetTokens_keeps ?_ (List.Subset.trans (by decide) hT)
    exact hy2

theorem offer_keeps {T : List Part} {s0 : State} {s : State} {code : Nat} {kind : Nat} (hs : Keeps T s0 s)
    (hT : [.regs, .tbl, .items, .icu, .evr] ⊆ T) :
    Keeps T s0 (State.offer s code kind) := by
  delta State.offer
  extract_lets +onlyGivenNames y1
  extract_lets +onlyGivenNames y2
  extract_lets +onlyGivenNames y3
  refine keeps_ite ?_ ?_
  · exact hs
  · refine keeps_ite ?_ ?_
    · exact hs
    · refine keeps_ite ?_ ?_
      · refine bump_keeps ?_ (List.Subset.trans (by decide) hT)
        exact hs
      · refine keeps_ite ?_ ?_
        · extract_lets +onlyGivenNames y4
          have hy4 : Keeps T s0 y4 := by
            unfold y4
            refine bump_keeps ?_ (List.Subset.trans (by decide) hT)
            exact hs
          refine keeps_ite ?_ ?_
          · exact hy4
          · refine raiseNoRec_keeps ?_ (List.Subset.trans (by decide) hT)
            refine keeps_evr ?_ (List.Subset.trans (by decide) hT)
            exact hy4
        · refine keeps_ite ?_ ?_
          · refine evrSuppress_keeps ?_ (List.Subset.trans (by decide) hT)
            exact hs
          · refine keeps_ite ?_ ?_
            · extract_lets +onlyGivenNames y5
              have hy5 : Keeps T s0 y5 := by
                unfold y5
                refine bump_keeps ?_ (List.Subset.trans (by decide) hT)
                exact hs
              refine keeps_ite ?_ ?_
              · exact hy5
              · refine raiseNoRec_keeps ?_ (List.Subset.trans (by decide) hT)
                refine setF_keeps ?_ (List.Subset.trans (by decide) hT)
                exact hy5
            · extract_lets +onlyGivenNames y6
              have hy6 : Keeps T s0 y6 := by
                unfold y6
                refine evrTake_keeps ?_ (List.Subset.trans (by decide) hT)
                exact hs
              extract_lets +onlyGivenNames y7
              extract_lets +onlyGivenNames y8
              extract_lets +onlyGivenNames y9
              have hy9 : Keeps T s0 y9 := by
                unfold y9
                refine keeps_evr ?_ (List.Subset.trans (by decide) hT)
                exact hy6
              extract_lets +onlyGivenNames y10
              extract_lets +onlyGivenNames y11
              have hy11 : Keeps T s0 y11 := by
                unfold y11
                refine setF_keeps ?_ (List.Subset.trans (by decide) hT)
                refine setF_keeps ?_ (List.Subset.trans (by decide) hT)
                exact hy9
              extract_lets +onlyGivenNames y12
              have hy12 : Keeps T s0 y12 := by
                unfold y12
                refine keeps_ite ?_ ?_
                · refine setF_keeps ?_ (List.Subset.trans (by decide) hT)
                  exact hy11
                · exact hy11
              refine keeps_ite ?_ ?_
              · refine tset_keeps ?_ (List.Subset.trans (by decide) hT)
                exact hy12
              · exact hy12

theorem raiseEv_keeps {T : List Part} {s0 : State} {s : State} {p : Nat} {b : Nat} (hs : Keeps T s0 s)
    (hT : [.regs, .tbl, .items, .icu, .evr] ⊆ T) :
    Keeps T s0 (State.raiseEv s p b) := by
  delta State.raiseEv
  extract_lets +onlyGivenNames y1
  have hy1 : Keeps T s0 y1 := by
    unfold y1
    refine raiseNoRec_keeps ?_ (List.Subset.trans (by decide) hT)
    exact hs
  refine keeps_ite ?_ ?_
  · exact hy1
  · refine offer_keeps ?_ (List.Subset.trans (by decide) hT)
    exact hy1

theorem mbxMod_keeps {T : List Part} {s0 : State} {s : State} {n : Nat} {f : Mbx → Mbx} (hs : Keeps T s0 s)
    (hT : [.mbx] ⊆ T) :
    Keeps T s0 (State.mbxMod s n f) := by
  delta State.mbxMod
  refine keeps_mbx ?_ (List.Subset.trans (by decide) hT)
  exact hs

theorem mbxPut_keeps {T : List Part} {s0 : State} {s : State} {n : Nat} {i : Nat} {it : Item} (hs : Keeps T s0 s)
    (hT : [.mbx] ⊆ T) :
    Keeps T s0 (State.mbxPut s n i it) := by
  delta State.mbxPut
  refine mbxMod_keeps ?_ (List.Subset.trans (by decide) hT)
  exact hs

theorem mbxPuts_keeps {T : List Part} {s0 : State} {s : State} {n : Nat} {i : Nat} {a3 : List Item} (hs : Keeps T s0 s)
    (hT : [.mbx] ⊆ T) :
    Keeps T s0 (State.mbxPuts s n i a3) := by
  induction a3 generalizing s i with
  | nil => exact hs
  | cons v vs ih => exact ih (mbxPut_keeps hs (List.Subset.trans (by decide) hT))

theorem mbxPutsNext_keeps {T : List Part} {s0 : State} {s : State} {n : Nat} {i : Nat} {a3 : List Item} (hs : Keeps T s0 s)
    (hT : [.mbx] ⊆ T) :
    Keeps T s0 (State.mbxPutsNext s n i a3) := by
  induction a3 generalizing s i with
  | nil => exact hs
  | cons v vs ih => exact ih (mbxMod_keeps hs (List.Subset.trans (by decide) hT))

theorem xbarViol_keeps {T : List Part} {s0 : State} {s : State} {eng : Nat} {addr : Word} (hs : Keeps T s0 s)
    (hT : [.regs, .tbl, .items, .icu, .evr] ⊆ T) :
    Keeps T s0 (State.xbarViol s eng addr) := by
  delta State.xbarViol
  refine raiseEv_keeps ?_ (List.Subset.trans (by decide) hT)
  refine bump_keeps ?_ (List.Subset.trans (by decide) hT)
  refine wr_keeps ?_ (List.Subset.trans (by decide) hT)
  refine setF_keeps ?_ (List.Subset.trans (by decide) hT)
  exact hs

theorem setMstate_keeps {T : List Part} {s0 : State} {s : State} {m : Nat} (hs : Keeps T s0 s)
    (hT : [.regs, .tbl, .items, .icu, .evr] ⊆ T) :
    Keeps T s0 (State.setMstate s m) := by
  delta State.setMstate
  refine keeps_ite ?_ ?_
  · exact hs
  · refine raiseEv_keeps ?_ (List.Subset.trans (by decide) hT)
    refine setF_keeps ?_ (List.Subset.trans (by decide) hT)
    refine setF_keeps ?_ (List.Subset.trans (by decide) hT)
    refine setF_keeps ?_ (List.Subset.trans (by decide) hT)
    exact hs

theorem emit_keeps {T : List Part} {s0 : State} {s : State} {m : OutMsg} (hs : Keeps T s0 s)
    (hT : [.sent] ⊆ T) :
    Keeps T s0 (State.emit s m) := by
  delta State.emit
  refine keeps_sent ?_ (List.Subset.trans (by decide) hT)
  exact hs

theorem rxFrame_keeps {T : List Part} {s0 : State} {s : State} {p : Nat} (hs : Keeps T s0 s)
    (hT : [.regs] ⊆ T) :
    Keeps T s0 (State.rxFrame s p) := by
  delta State.rxFrame
  refine keeps_ite ?_ ?_
  · refine bump_keeps ?_ (List.Subset.trans (by decide) hT)
    exact hs
  · exact hs

theorem txFrame_keeps {T : List Part} {s0 : State} {s : State} {p : Nat} (hs : Keeps T s0 s)
    (hT : [.regs] ⊆ T) :
    Keeps T s0 (State.txFrame s p) := by
  delta State.txFrame
  refine keeps_ite ?_ ?_
  · refine bump_keeps ?_ (List.Subset.trans (by decide) hT)
    exact hs
  · exact hs

theorem prpStep_keeps {T : List Part} {s0 : State} {s : State} (hs : Keeps T s0 s)
    (hT : [.snet] ⊆ T) :
    Keeps T s0 (State.prpStep s) := by
  delta State.prpStep
  refine keeps_snet ?_ (List.Subset.trans (by decide) hT)
  exact hs

theorem prpNext_keeps {T : List Part} {s0 : State} {s : State} {port : Nat} {m : Option Nat → OutMsg} (hs : Keeps T s0 s)
    (hT : [.snet, .sent] ⊆ T) :
    Keeps T s0 (State.prpNext s port m) := by
  delta State.prpNext
  refine keeps_ite ?_ ?_
  · refine prpStep_keeps ?_ (List.Subset.trans (by decide) hT)
    refine emit_keeps ?_ (List.Subset.trans (by decide) hT)
    exact hs
  · refine emit_keeps ?_ (List.Subset.trans (by decide) hT)
    exact hs

theorem prpSkip_keeps {T : List Part} {s0 : State} {s : State} {port : Nat} (hs : Keeps T s0 s)
    (hT : [.snet] ⊆ T) :
    Keeps T s0 (State.prpSkip s port) := by
  delta State.prpSkip
  refine keeps_ite ?_ ?_
  · refine prpStep_keeps ?_ (List.Subset.trans (by decide) hT)
    exact hs
  · exact hs

theorem useFree_keeps {T : List Part} {s0 : State} {s : State} (hs : Keeps T s0 s)
    (hT : [.free] ⊆ T) :
    Keeps T s0 (State.useFree s) := by
  delta State.useFree
  refine keeps_free ?_ (List.Subset.trans (by decide) hT)
  exact hs

end Sys2Proof.Machine
end

