-- ==== Sys2Proof/Laws/KeepCpeImage.lean ====
section
/-! SUPPORT. What each operation of Machine/CpeImage.lean keeps: the canonical form, the queue, and the parts it does not name. -/

namespace Sys2Proof.Machine

theorem cpeMod_keeps {T : List Part} {s0 : State} {s : State} {p : Nat} {f : CpeSt → CpeSt} (hs : Keeps T s0 s)
    (hT : [.cpe] ⊆ T) :
    Keeps T s0 (State.cpeMod s p f) := by
  delta State.cpeMod
  refine keeps_cpe ?_ (List.Subset.trans (by decide) hT)
  exact hs

theorem cpeBump_keeps {T : List Part} {s0 : State} {s : State} {p : Nat} {c : Ctr} (hs : Keeps T s0 s)
    (hT : [.regs] ⊆ T) :
    Keeps T s0 (State.cpeBump s p c) := by
  delta State.cpeBump
  refine bump_keeps ?_ (List.Subset.trans (by decide) hT)
  exact hs

theorem instPut_keeps {T : List Part} {s0 : State} {s : State} {p : Nat} {off : Nat} {v : Nat} (hs : Keeps T s0 s)
    (hT : [.tbl] ⊆ T) :
    Keeps T s0 (State.instPut s p off v) := by
  delta State.instPut
  refine tset_keeps ?_ (List.Subset.trans (by decide) hT)
  exact hs

theorem instPuts_keeps {T : List Part} {s0 : State} {s : State} {p : Nat} {off : Nat} {bs : List Nat} (hs : Keeps T s0 s)
    (hT : [.tbl] ⊆ T) :
    Keeps T s0 (State.instPuts s p off bs) := by
  delta State.instPuts
  refine keeps_foldl ?_ (fun a e ha => ?_)
  · exact hs
  · refine instPut_keeps ?_ (List.Subset.trans (by decide) hT)
    exact ha

theorem errQ_keeps {T : List Part} {s0 : State} {s : State} {p : Nat} {cause : Nat} {arg : Nat} {sub : Nat} (hs : Keeps T s0 s)
    (hT : [.regs, .tbl, .items, .icu, .evr, .cpe] ⊆ T) :
    Keeps T s0 (State.errQ s p cause arg sub) := by
  delta State.errQ
  extract_lets +onlyGivenNames y1
  extract_lets +onlyGivenNames y2
  refine keeps_ite ?_ ?_
  · exact hs
  · refine keeps_ite ?_ ?_
    · extract_lets +onlyGivenNames y3
      have hy3 : Keeps T s0 y3 := by
        unfold y3
        refine cpeBump_keeps ?_ (List.Subset.trans (by decide) hT)
        exact hs
      refine keeps_ite ?_ ?_
      · exact hy3
      · refine raiseEv_keeps ?_ (List.Subset.trans (by decide) hT)
        refine cpeMod_keeps ?_ (List.Subset.trans (by decide) hT)
        exact hy3
    · extract_lets +onlyGivenNames y4
      extract_lets +onlyGivenNames y5
      have hy5 : Keeps T s0 y5 := by
        unfold y5
        refine trecSet_keeps ?_ (List.Subset.trans (by decide) hT)
        exact hs
      extract_lets +onlyGivenNames y6
      have hy6 : Keeps T s0 y6 := by
        unfold y6
        refine cpeMod_keeps ?_ (List.Subset.trans (by decide) hT)
        exact hy5
      refine raiseEv_keeps ?_ (List.Subset.trans (by decide) hT)
      refine cpeBump_keeps ?_ (List.Subset.trans (by decide) hT)
      refine wr_keeps ?_ (List.Subset.trans (by decide) hT)
      exact hy6

end Sys2Proof.Machine
end

