-- ==== Sys2Proof/Laws/KeepHostOps.lean ====
section
/-! SUPPORT. What each operation of Machine/HostOps.lean keeps: the canonical form, the queue, and the parts it does not name. -/

namespace Sys2Proof.Machine

theorem sessMod_keeps {T : List Part} {s0 : State} {s : State} {i : Nat} {f : Sess → Sess} (hs : Keeps T s0 s)
    (hT : [.host, .items] ⊆ T) :
    Keeps T s0 (State.sessMod s i f) := by
  delta State.sessMod
  refine keeps_host ?_ (List.Subset.trans (by decide) hT)
  exact hs

theorem hostMod_keeps {T : List Part} {s0 : State} {s : State} {f : HostSt → HostSt} (hs : Keeps T s0 s)
    (hT : [.host, .items] ⊆ T) :
    Keeps T s0 (State.hostMod s f) := by
  delta State.hostMod
  refine keeps_host ?_ (List.Subset.trans (by decide) hT)
  exact hs

theorem say_keeps {T : List Part} {s0 : State} {s : State} {svc : Bool} {m : OutMsg} (hs : Keeps T s0 s)
    (hT : [.sent] ⊆ T) :
    Keeps T s0 (State.say s svc m) := by
  delta State.say
  refine keeps_sent ?_ (List.Subset.trans (by decide) hT)
  exact hs

theorem hostRegs_keeps {T : List Part} {s0 : State} {s : State} (hs : Keeps T s0 s)
    (hT : [.regs] ⊆ T) :
    Keeps T s0 (State.hostRegs s) := by
  delta State.hostRegs
  extract_lets +onlyGivenNames y1
  have hy1 : Keeps T s0 y1 := by
    unfold y1
    refine keeps_foldl ?_ (fun a e ha => ?_)
    · exact hs
    · refine wr_keeps ?_ (List.Subset.trans (by decide) hT)
      exact ha
  extract_lets +onlyGivenNames y2
  refine wr_keeps ?_ (List.Subset.trans (by decide) hT)
  exact hy1

theorem authFail_keeps {T : List Part} {s0 : State} {s : State} (hs : Keeps T s0 s)
    (hT : [.regs, .tbl, .host, .items, .icu, .evr] ⊆ T) :
    Keeps T s0 (State.authFail s) := by
  delta State.authFail
  extract_lets +onlyGivenNames y1
  have hy1 : Keeps T s0 y1 := by
    unfold y1
    refine bump_keeps ?_ (List.Subset.trans (by decide) hT)
    exact hs
  refine keeps_ite ?_ ?_
  · exact hy1
  · refine raiseEv_keeps ?_ (List.Subset.trans (by decide) hT)
    refine hostMod_keeps ?_ (List.Subset.trans (by decide) hT)
    exact hy1

theorem recvKwp_keeps {T : List Part} {s0 : State} {s : State} {k : Kwp} (hs : Keeps T s0 s)
    (hT : [.regs, .tbl, .host, .items, .icu, .evr] ⊆ T) :
    Keeps T s0 (State.recvKwp s k).1 := by
  delta State.recvKwp
  extract_lets +onlyGivenNames y1
  refine keeps_iteP ?_ ?_
  · refine keeps_fst ?_
    exact hs
  · refine keeps_iteP ?_ ?_
    · refine keeps_fst ?_
      refine bump_keeps ?_ (List.Subset.trans (by decide) hT)
      exact hs
    · refine keeps_iteP ?_ ?_
      · refine keeps_fst ?_
        refine authFail_keeps ?_ (List.Subset.trans (by decide) hT)
        exact hs
      · refine keeps_iteP ?_ ?_
        · refine keeps_fst ?_
          refine authFail_keeps ?_ (List.Subset.trans (by decide) hT)
          exact hs
        · refine keeps_iteP ?_ ?_
          · refine keeps_fst ?_
            refine bump_keeps ?_ (List.Subset.trans (by decide) hT)
            exact hs
          · extract_lets +onlyGivenNames y2
            have hy2 : Keeps T s0 y2 := by
              unfold y2
              refine sessMod_keeps ?_ (List.Subset.trans (by decide) hT)
              refine bump_keeps ?_ (List.Subset.trans (by decide) hT)
              exact hs
            refine keeps_iteP ?_ ?_
            · refine keeps_fst ?_
              refine raiseEv_keeps ?_ (List.Subset.trans (by decide) hT)
              refine bump_keeps ?_ (List.Subset.trans (by decide) hT)
              exact hy2
            · refine keeps_fst ?_
              exact hy2

theorem respond_keeps {T : List Part} {s0 : State} {s : State} {i : Nat} {reqId : Nat} {op : Nat} {st : Status} {data : List Word} (hs : Keeps T s0 s)
    (hT : [.host, .items, .sent] ⊆ T) :
    Keeps T s0 (State.respond s i reqId op st data) := by
  delta State.respond
  extract_lets +onlyGivenNames y1
  extract_lets +onlyGivenNames y2
  refine say_keeps ?_ (List.Subset.trans (by decide) hT)
  refine sessMod_keeps ?_ (List.Subset.trans (by decide) hT)
  exact hs

theorem respondOnly_keeps {T : List Part} {s0 : State} {s : State} {i : Nat} {r : Resp} (hs : Keeps T s0 s)
    (hT : [.host, .items, .sent] ⊆ T) :
    Keeps T s0 (State.respondOnly s i r) := by
  delta State.respondOnly
  extract_lets +onlyGivenNames y1
  refine say_keeps ?_ (List.Subset.trans (by decide) hT)
  refine sessMod_keeps ?_ (List.Subset.trans (by decide) hT)
  exact hs

theorem respondTo_keeps {T : List Part} {s0 : State} {s : State} {q : HReq} {op : Nat} {st : Status} {data : List Word} (hs : Keeps T s0 s)
    (hT : [.host, .items, .sent] ⊆ T) :
    Keeps T s0 (State.respondTo s q op st data) := by
  delta State.respondTo
  refine keeps_ite ?_ ?_
  · refine respond_keeps ?_ (List.Subset.trans (by decide) hT)
    exact hs
  · exact hs

theorem request_keeps {T : List Part} {s0 : State} {s : State} {k : Kwp} {op : Nat} {f : State → State} (hs : Keeps T s0 s) (hf : ∀ x, Keeps T s0 x → Keeps T s0 (f x))
    (hT : [.regs, .tbl, .host, .items, .icu, .evr, .sent] ⊆ T) :
    Keeps T s0 (State.request s k op f) := by
  delta State.request
  split
  · refine keeps_of_pair (by assumption) ?_
    refine recvKwp_keeps ?_ (List.Subset.trans (by decide) hT)
    exact hs
  · extract_lets +onlyGivenNames y1
    split
    · refine respondOnly_keeps ?_ (List.Subset.trans (by decide) hT)
      refine keeps_of_pair (by assumption) ?_
      refine recvKwp_keeps ?_ (List.Subset.trans (by decide) hT)
      exact hs
    · refine keeps_ite ?_ ?_
      · refine keeps_of_pair (by assumption) ?_
        refine recvKwp_keeps ?_ (List.Subset.trans (by decide) hT)
        exact hs
      · refine keeps_ite ?_ ?_
        · refine respondOnly_keeps ?_ (List.Subset.trans (by decide) hT)
          refine keeps_of_pair (by assumption) ?_
          refine recvKwp_keeps ?_ (List.Subset.trans (by decide) hT)
          exact hs
        · refine hf _ ?_
          refine keeps_of_pair (by assumption) ?_
          refine recvKwp_keeps ?_ (List.Subset.trans (by decide) hT)
          exact hs

theorem hold_keeps {T : List Part} {s0 : State} {s : State} {k : Kwp} {op : HOp} (hs : Keeps T s0 s)
    (hT : [.host, .items] ⊆ T) :
    Keeps T s0 (State.hold s k op) := by
  delta State.hold
  extract_lets +onlyGivenNames y1
  have hy1 : Keeps T s0 y1 := by
    unfold y1
    refine sessMod_keeps ?_ (List.Subset.trans (by decide) hT)
    exact hs
  refine hostMod_keeps ?_ (List.Subset.trans (by decide) hT)
  exact hy1

theorem holdOwn_keeps {T : List Part} {s0 : State} {s : State} {k : Kwp} {op : HOp} (hs : Keeps T s0 s)
    (hT : [.host, .items] ⊆ T) :
    Keeps T s0 (State.holdOwn s k op) := by
  delta State.holdOwn
  extract_lets +onlyGivenNames y1
  have hy1 : Keeps T s0 y1 := by
    unfold y1
    refine sessMod_keeps ?_ (List.Subset.trans (by decide) hT)
    exact hs
  refine hostMod_keeps ?_ (List.Subset.trans (by decide) hT)
  exact hy1

theorem complete_keeps {T : List Part} {s0 : State} {s : State} {c : HCmd} {st : Status} {result : Word} (hs : Keeps T s0 s)
    (hT : [.regs, .host, .items] ⊆ T) :
    Keeps T s0 (State.complete s c st result) := by
  delta State.complete
  extract_lets +onlyGivenNames y1
  have hy1 : Keeps T s0 y1 := by
    unfold y1
    refine hostMod_keeps ?_ (List.Subset.trans (by decide) hT)
    exact hs
  extract_lets +onlyGivenNames y2
  refine keeps_ite ?_ ?_
  · extract_lets +onlyGivenNames y3
    refine addItem_keeps ?_ (List.Subset.trans (by decide) hT)
    refine sessMod_keeps ?_ (List.Subset.trans (by decide) hT)
    exact hy1
  · refine bump_keeps ?_ (List.Subset.trans (by decide) hT)
    exact hy1

theorem closeSess_keeps {T : List Part} {s0 : State} {s : State} {i : Nat} (hs : Keeps T s0 s)
    (hT : [.regs, .tbl, .host, .items, .icu, .evr] ⊆ T) :
    Keeps T s0 (State.closeSess s i) := by
  delta State.closeSess
  extract_lets +onlyGivenNames y1
  refine keeps_ite ?_ ?_
  · exact hs
  · extract_lets +onlyGivenNames y2
    extract_lets +onlyGivenNames y3
    have hy3 : Keeps T s0 y3 := by
      unfold y3
      refine sessMod_keeps ?_ (List.Subset.trans (by decide) hT)
      exact hs
    extract_lets +onlyGivenNames y4
    have hy4 : Keeps T s0 y4 := by
      unfold y4
      refine keeps_ite ?_ ?_
      · refine hostMod_keeps ?_ (List.Subset.trans (by decide) hT)
        exact hy3
      · exact hy3
    refine keeps_ite ?_ ?_
    · exact hy4
    · refine raiseEv_keeps ?_ (List.Subset.trans (by decide) hT)
      exact hy4

theorem shown_keeps {T : List Part} {s0 : State} {s : State} (hs : Keeps T s0 s)
    (hT : [.vis] ⊆ T) :
    Keeps T s0 (State.shown s) := by
  delta State.shown
  exact keeps_vis hs (fun h => smWf_over _ _ _ (smWf_smFilter _ _ _ h)) (List.Subset.trans (by decide) hT)

theorem andShown_keeps {T : List Part} {s0 : State} {s : State} {r : State} (_hs : Keeps T s0 s) (hr : Keeps T s0 r)
    (hT : [.vis] ⊆ T) :
    Keeps T s0 (State.andShown s r) := by
  delta State.andShown
  refine keeps_ite ?_ ?_
  · exact hr
  · refine shown_keeps ?_ (List.Subset.trans (by decide) hT)
    exact hr

end Sys2Proof.Machine
end

