-- ==== Sys2Proof/Laws/KeepBanks.lean ====
section
/-! SUPPORT. What each operation of Machine/Banks.lean keeps: the canonical form, the queue, and the parts it does not name. -/

namespace Sys2Proof.Machine

theorem bankUnverify_keeps {T : List Part} {s0 : State} {s : State} {b : BankPg} (hs : Keeps T s0 s)
    (hT : [.regs, .tbl, .items, .icu, .evr] ⊆ T) :
    Keeps T s0 (State.bankUnverify s b) := by
  delta State.bankUnverify
  extract_lets +onlyGivenNames y1
  have hy1 : Keeps T s0 y1 := by
    unfold y1
    refine setB_keeps ?_ (List.Subset.trans (by decide) hT)
    exact hs
  refine keeps_ite ?_ ?_
  · refine raiseEv_keeps ?_ (List.Subset.trans (by decide) hT)
    refine setB_keeps ?_ (List.Subset.trans (by decide) hT)
    exact hy1
  · exact hy1

theorem bankVerify_keeps {T : List Part} {s0 : State} {s : State} {b : BankPg} (hs : Keeps T s0 s)
    (hT : [.regs] ⊆ T) :
    Keeps T s0 (State.bankVerify s b).1 := by
  delta State.bankVerify
  refine keeps_iteP ?_ ?_
  · refine keeps_fst ?_
    exact hs
  · refine keeps_iteP ?_ ?_
    · refine keeps_fst ?_
      exact hs
    · refine keeps_fst ?_
      refine setB_keeps ?_ (List.Subset.trans (by decide) hT)
      refine setB_keeps ?_ (List.Subset.trans (by decide) hT)
      exact hs

theorem bankFail_keeps {T : List Part} {s0 : State} {s : State} {b : BankPg} {w : Word} (hs : Keeps T s0 s)
    (hT : [.regs, .tbl, .items, .icu, .evr] ⊆ T) :
    Keeps T s0 (State.bankFail s b w) := by
  delta State.bankFail
  refine raiseEv_keeps ?_ (List.Subset.trans (by decide) hT)
  refine setB_keeps ?_ (List.Subset.trans (by decide) hT)
  refine setB_keeps ?_ (List.Subset.trans (by decide) hT)
  refine wr_keeps ?_ (List.Subset.trans (by decide) hT)
  exact hs

theorem bankPass_keeps {T : List Part} {s0 : State} {s : State} {b : BankPg} (hs : Keeps T s0 s)
    (hT : [.regs, .tbl, .items, .icu, .evr] ⊆ T) :
    Keeps T s0 (State.bankPass s b) := by
  delta State.bankPass
  refine raiseEv_keeps ?_ (List.Subset.trans (by decide) hT)
  refine setB_keeps ?_ (List.Subset.trans (by decide) hT)
  refine setB_keeps ?_ (List.Subset.trans (by decide) hT)
  refine setB_keeps ?_ (List.Subset.trans (by decide) hT)
  refine wr_keeps ?_ (List.Subset.trans (by decide) hT)
  exact hs

theorem bankSwitch_keeps {T : List Part} {s0 : State} {s : State} {b : BankPg} (hs : Keeps T s0 s)
    (hT : [.regs] ⊆ T) :
    Keeps T s0 (State.bankSwitch s b).1 := by
  delta State.bankSwitch
  refine keeps_iteP ?_ ?_
  · refine keeps_fst ?_
    refine setB_keeps ?_ (List.Subset.trans (by decide) hT)
    exact hs
  · refine keeps_fst ?_
    exact hs

theorem bankCancel_keeps {T : List Part} {s0 : State} {s : State} {b : BankPg} (hs : Keeps T s0 s)
    (hT : [.regs] ⊆ T) :
    Keeps T s0 (State.bankCancel s b) := by
  delta State.bankCancel
  refine setB_keeps ?_ (List.Subset.trans (by decide) hT)
  exact hs

theorem bankWritten_keeps {T : List Part} {s0 : State} {s : State} {b : BankPg} (hs : Keeps T s0 s)
    (hT : [.regs, .tbl, .items, .icu, .evr] ⊆ T) :
    Keeps T s0 (State.bankWritten s b) := by
  delta State.bankWritten
  extract_lets +onlyGivenNames y1
  have hy1 : Keeps T s0 y1 := by
    unfold y1
    refine bankUnverify_keeps ?_ (List.Subset.trans (by decide) hT)
    exact hs
  refine keeps_ite ?_ ?_
  · refine bankFail_keeps ?_ (List.Subset.trans (by decide) hT)
    exact hy1
  · exact hy1

theorem bankExchange_keeps {T : List Part} {s0 : State} {s : State} {b : BankPg} {p : Nat → Bool} (hs : Keeps T s0 s)
    (hT : [.regs, .tbl] ⊆ T) :
    Keeps T s0 (State.bankExchange s b p) := by
  delta State.bankExchange
  refine setB_keeps ?_ (List.Subset.trans (by decide) hT)
  refine setB_keeps ?_ (List.Subset.trans (by decide) hT)
  refine setF_keeps ?_ (List.Subset.trans (by decide) hT)
  refine bankSwap_keeps ?_ (List.Subset.trans (by decide) hT)
  exact hs

theorem bankSoftReset_keeps {T : List Part} {s0 : State} {s : State} {b : BankPg} (hs : Keeps T s0 s)
    (hT : [.regs, .tbl, .items, .icu, .evr] ⊆ T) :
    Keeps T s0 (State.bankSoftReset s b) := by
  delta State.bankSoftReset
  refine bankUnverify_keeps ?_ (List.Subset.trans (by decide) hT)
  exact hs

theorem writeRecord_keeps {T : List Part} {s0 : State} {s : State} {t : TableInfo} {idx : Nat} {ws : List Word} (hs : Keeps T s0 s)
    (hT : [.tbl] ⊆ T) :
    Keeps T s0 (State.writeRecord s t idx ws) := by
  delta State.writeRecord
  refine keeps_foldl ?_ (fun a e ha => ?_)
  · exact hs
  · refine twr_keeps ?_ (List.Subset.trans (by decide) hT)
    exact ha

theorem serveXfer_keeps {T : List Part} {s0 : State} {s : State} {page : Nat} {n : Nat} (hs : Keeps T s0 s)
    (hT : [.host, .items, .sent] ⊆ T) :
    Keeps T s0 (State.serveXfer s page n) := by
  delta State.serveXfer
  extract_lets +onlyGivenNames y1
  refine keeps_foldl ?_ (fun a e ha => ?_)
  · exact hs
  · extract_lets +onlyGivenNames y2
    have hy2 : Keeps T s0 y2 := by
      unfold y2
      refine hostMod_keeps ?_ (List.Subset.trans (by decide) hT)
      exact ha
    split
    · split
      · refine respondTo_keeps ?_ (List.Subset.trans (by decide) hT)
        exact hy2
      · exact hy2
    · refine hostMod_keeps ?_ (List.Subset.trans (by decide) hT)
      exact hy2
    · exact hy2

end Sys2Proof.Machine
end

