-- ==== Sys2Proof/Laws/KeepOperands.lean ====
section
/-! SUPPORT. What each operation of Machine/Operands.lean keeps: the canonical form, the queue, and the parts it does not name. -/

namespace Sys2Proof.Machine

theorem keyTaken_keeps {T : List Part} {s0 : State} {s : State} {n : Nat} (hs : Keeps T s0 s)
    (hT : [.keys] ⊆ T) :
    Keeps T s0 (State.keyTaken s n) := by
  delta State.keyTaken
  extract_lets +onlyGivenNames y1
  refine keeps_keys ?_ (List.Subset.trans (by decide) hT)
  exact hs

end Sys2Proof.Machine
end

