-- ==== Sys2Proof/Laws/KeepDio.lean ====
section
/-! SUPPORT. What each operation of Machine/Dio.lean keeps: the canonical form, the queue, and the parts it does not name. -/

namespace Sys2Proof.Machine

theorem dioMod_keeps {T : List Part} {s0 : State} {s : State} {f : DioSt → DioSt} (hs : Keeps T s0 s)
    (hT : [.dio] ⊆ T) :
    Keeps T s0 (State.dioMod s f) := by
  delta State.dioMod
  refine keeps_dio ?_ (List.Subset.trans (by decide) hT)
  exact hs

theorem aoutStat_keeps {T : List Part} {s0 : State} {s : State} (hs : Keeps T s0 s)
    (hT : [.regs] ⊆ T) :
    Keeps T s0 (State.aoutStat s) := by
  delta State.aoutStat
  refine setF_keeps ?_ (List.Subset.trans (by decide) hT)
  refine setF_keeps ?_ (List.Subset.trans (by decide) hT)
  exact hs

theorem pwmStart_keeps {T : List Part} {s0 : State} {s : State} {k : Nat} {per : Nat} {at_ : Nat} (hs : Keeps T s0 s)
    (hT : [.dio] ⊆ T) :
    Keeps T s0 (State.pwmStart s k per at_) := by
  delta State.pwmStart
  refine dioMod_keeps ?_ (List.Subset.trans (by decide) hT)
  exact hs

theorem outputsSafe_keeps {T : List Part} {s0 : State} {s : State} (hs : Keeps T s0 s)
    (hT : [.regs, .dio] ⊆ T) :
    Keeps T s0 (State.outputsSafe s) := by
  delta State.outputsSafe
  extract_lets +onlyGivenNames y1
  have hy1 : Keeps T s0 y1 := by
    unfold y1
    refine keeps_foldl ?_ (fun a e ha => ?_)
    · exact hs
    · refine keeps_ite ?_ ?_
      · refine setF_keeps ?_ (List.Subset.trans (by decide) hT)
        exact ha
      · exact ha
  extract_lets +onlyGivenNames y2
  have hy2 : Keeps T s0 y2 := by
    unfold y2
    refine keeps_foldl ?_ (fun a e ha => ?_)
    · exact hy1
    · refine keeps_ite ?_ ?_
      · refine pwmStart_keeps ?_ (List.Subset.trans (by decide) hT)
        refine setF_keeps ?_ (List.Subset.trans (by decide) hT)
        exact ha
      · exact ha
  refine aoutStat_keeps ?_ (List.Subset.trans (by decide) hT)
  exact hy2

theorem enterFault_keeps {T : List Part} {s0 : State} {s : State} {cause : Nat} {eng : Nat} (hs : Keeps T s0 s)
    (hT : [.regs, .tbl, .items, .icu, .evr, .dio, .dev] ⊆ T) :
    Keeps T s0 (State.enterFault s cause eng) := by
  delta State.enterFault
  refine keeps_ite ?_ ?_
  · exact hs
  · extract_lets +onlyGivenNames y1
    have hy1 : Keeps T s0 y1 := by
      unfold y1
      refine setF_keeps ?_ (List.Subset.trans (by decide) hT)
      refine setF_keeps ?_ (List.Subset.trans (by decide) hT)
      exact hs
    extract_lets +onlyGivenNames y2
    have hy2 : Keeps T s0 y2 := by
      unfold y2
      refine bump_keeps ?_ (List.Subset.trans (by decide) hT)
      exact hy1
    extract_lets +onlyGivenNames y3
    extract_lets +onlyGivenNames y4
    have hy4 : Keeps T s0 y4 := by
      unfold y4
      refine keeps_dev ?_ (List.Subset.trans (by decide) hT)
      exact hy2
    extract_lets +onlyGivenNames y5
    have hy5 : Keeps T s0 y5 := by
      unfold y5
      refine dioMod_keeps ?_ (List.Subset.trans (by decide) hT)
      exact hy4
    refine outputsSafe_keeps ?_ (List.Subset.trans (by decide) hT)
    refine setMstate_keeps ?_ (List.Subset.trans (by decide) hT)
    exact hy5

theorem fwViol_keeps {T : List Part} {s0 : State} {s : State} {eng : Nat} {addr : Word} (hs : Keeps T s0 s)
    (hT : [.regs, .tbl, .items, .icu, .evr, .dio, .dev] ⊆ T) :
    Keeps T s0 (State.fwViol s eng addr) := by
  delta State.fwViol
  refine enterFault_keeps ?_ (List.Subset.trans (by decide) hT)
  refine xbarViol_keeps ?_ (List.Subset.trans (by decide) hT)
  exact hs

theorem fwPuts_keeps {T : List Part} {s0 : State} {s : State} {eng : Nat} {n : Nat} {i : Nat} {its : List Item} (hs : Keeps T s0 s)
    (hT : [.regs, .tbl, .mbx, .items, .icu, .evr, .dio, .dev] ⊆ T) :
    Keeps T s0 (State.fwPuts s eng n i its) := by
  delta State.fwPuts
  refine keeps_ite ?_ ?_
  · refine fwViol_keeps ?_ (List.Subset.trans (by decide) hT)
    exact hs
  · refine mbxPuts_keeps ?_ (List.Subset.trans (by decide) hT)
    exact hs

theorem fwPutsNext_keeps {T : List Part} {s0 : State} {s : State} {eng : Nat} {n : Nat} {i : Nat} {its : List Item} (hs : Keeps T s0 s)
    (hT : [.regs, .tbl, .mbx, .items, .icu, .evr, .dio, .dev] ⊆ T) :
    Keeps T s0 (State.fwPutsNext s eng n i its) := by
  delta State.fwPutsNext
  refine keeps_ite ?_ ?_
  · refine fwViol_keeps ?_ (List.Subset.trans (by decide) hT)
    exact hs
  · refine mbxPutsNext_keeps ?_ (List.Subset.trans (by decide) hT)
    exact hs

theorem rolePuts_keeps {T : List Part} {s0 : State} {s : State} {r : Nat} {k : Nat} {its : List Item} (hs : Keeps T s0 s)
    (hT : [.regs, .tbl, .mbx, .items, .icu, .evr, .dio, .dev] ⊆ T) :
    Keeps T s0 (State.rolePuts s r k its) := by
  delta State.rolePuts
  refine fwPuts_keeps ?_ (List.Subset.trans (by decide) hT)
  exact hs

theorem goto_keeps {T : List Part} {s0 : State} {s : State} {m : Nat} (hs : Keeps T s0 s)
    (hT : [.regs, .tbl, .items, .icu, .evr] ⊆ T) :
    Keeps T s0 (State.goto s m) := by
  delta State.goto
  refine aoutStat_keeps ?_ (List.Subset.trans (by decide) hT)
  refine setMstate_keeps ?_ (List.Subset.trans (by decide) hT)
  exact hs

theorem tripLatch_keeps {T : List Part} {s0 : State} {s : State} {ch : Nat} {mask : Nat} (hs : Keeps T s0 s)
    (hT : [.regs, .dio] ⊆ T) :
    Keeps T s0 (State.tripLatch s ch mask) := by
  delta State.tripLatch
  refine dioMod_keeps ?_ (List.Subset.trans (by decide) hT)
  refine setB_keeps ?_ (List.Subset.trans (by decide) hT)
  exact hs

theorem reflexTrip_keeps {T : List Part} {s0 : State} {s : State} {ch : Nat} (hs : Keeps T s0 s)
    (hT : [.regs, .tbl, .items, .icu, .evr, .dio] ⊆ T) :
    Keeps T s0 (State.reflexTrip s ch) := by
  delta State.reflexTrip
  refine keeps_ite ?_ ?_
  · exact hs
  · refine raiseEv_keeps ?_ (List.Subset.trans (by decide) hT)
    refine bump_keeps ?_ (List.Subset.trans (by decide) hT)
    refine tripLatch_keeps ?_ (List.Subset.trans (by decide) hT)
    exact hs

theorem privArmCmd_keeps {T : List Part} {s0 : State} {s : State} (hs : Keeps T s0 s)
    (hT : [.regs, .dio] ⊆ T) :
    Keeps T s0 (privArmCmd s).1 := by
  delta privArmCmd
  extract_lets +onlyGivenNames y1
  extract_lets +onlyGivenNames y2
  extract_lets +onlyGivenNames y3
  refine keeps_iteP ?_ ?_
  · refine keeps_fst ?_
    exact hs
  · refine keeps_fst ?_
    refine dioMod_keeps ?_ (List.Subset.trans (by decide) hT)
    refine setB_keeps ?_ (List.Subset.trans (by decide) hT)
    exact hs

theorem execPrivArm_keeps {T : List Part} {s0 : State} {s : State} (hs : Keeps T s0 s)
    (hT : [.regs, .dio] ⊆ T) :
    KeepsO T s0 (execPrivArm s) := by
  delta execPrivArm
  refine keepsO_next ?_
  refine privArmCmd_keeps ?_ (List.Subset.trans (by decide) hT)
  exact hs

theorem privDisarmCmd_keeps {T : List Part} {s0 : State} {s : State} (hs : Keeps T s0 s)
    (hT : [.regs] ⊆ T) :
    Keeps T s0 (privDisarmCmd s) := by
  delta privDisarmCmd
  refine setB_keeps ?_ (List.Subset.trans (by decide) hT)
  exact hs

theorem execPrivDisarm_keeps {T : List Part} {s0 : State} {s : State} (hs : Keeps T s0 s)
    (hT : [.regs] ⊆ T) :
    KeepsO T s0 (execPrivDisarm s) := by
  delta execPrivDisarm
  refine keepsO_next ?_
  refine privDisarmCmd_keeps ?_ (List.Subset.trans (by decide) hT)
  exact hs

theorem resetTripCmd_keeps {T : List Part} {s0 : State} {s : State} (hs : Keeps T s0 s)
    (hT : [.regs, .dio] ⊆ T) :
    Keeps T s0 (resetTripCmd s).1 := by
  delta resetTripCmd
  extract_lets +onlyGivenNames y1
  refine keeps_iteP ?_ ?_
  · refine keeps_fst ?_
    exact hs
  · refine keeps_fst ?_
    refine dioMod_keeps ?_ (List.Subset.trans (by decide) hT)
    refine setB_keeps ?_ (List.Subset.trans (by decide) hT)
    exact hs

theorem execResetTrip_keeps {T : List Part} {s0 : State} {s : State} (hs : Keeps T s0 s)
    (hT : [.regs, .dio] ⊆ T) :
    KeepsO T s0 (execResetTrip s) := by
  delta execResetTrip
  refine keepsO_next ?_
  refine resetTripCmd_keeps ?_ (List.Subset.trans (by decide) hT)
  exact hs

theorem execDiEdge_keeps {T : List Part} {s0 : State} {i : Nat} {rising : Bool} {s : State} (hs : Keeps T s0 s)
    (hT : [.regs, .tbl, .items, .icu, .dio] ⊆ T) :
    KeepsO T s0 (execDiEdge i rising s) := by
  delta execDiEdge
  refine keepsO_next ?_
  refine keeps_ite ?_ ?_
  · exact hs
  · extract_lets +onlyGivenNames y1
    have hy1 : Keeps T s0 y1 := by
      unfold y1
      refine dioMod_keeps ?_ (List.Subset.trans (by decide) hT)
      exact hs
    extract_lets +onlyGivenNames y2
    refine keeps_ite ?_ ?_
    · refine signal_keeps ?_ (List.Subset.trans (by decide) hT)
      refine bump_keeps ?_ (List.Subset.trans (by decide) hT)
      exact hy1
    · exact hy1

theorem execFastInputEdge_keeps {T : List Part} {s0 : State} {i : Nat} {rising : Bool} {s : State} (hs : Keeps T s0 s)
    (hT : [.regs, .tbl, .items, .icu, .evr, .dio] ⊆ T) :
    KeepsO T s0 (execFastInputEdge i rising s) := by
  delta execFastInputEdge
  refine keepsO_next ?_
  refine keeps_ite ?_ ?_
  · exact hs
  · extract_lets +onlyGivenNames y1
    have hy1 : Keeps T s0 y1 := by
      unfold y1
      refine signal_keeps ?_ (List.Subset.trans (by decide) hT)
      refine dioMod_keeps ?_ (List.Subset.trans (by decide) hT)
      exact hs
    refine keeps_foldl ?_ (fun a e ha => ?_)
    · exact hy1
    · refine reflexTrip_keeps ?_ (List.Subset.trans (by decide) hT)
      exact ha

theorem dioDoWrite_keeps {T : List Part} {s0 : State} {on : Bool} {v : Word} {s : State} (hs : Keeps T s0 s)
    (hT : [.regs] ⊆ T) :
    Keeps T s0 (dioDoWrite on v s) := by
  delta dioDoWrite
  refine keeps_foldl ?_ (fun a e ha => ?_)
  · exact hs
  · refine setB_keeps ?_ (List.Subset.trans (by decide) hT)
    exact ha

theorem execDioDoSet_keeps {T : List Part} {s0 : State} {v : Word} {s : State} (hs : Keeps T s0 s)
    (hT : [.regs] ⊆ T) :
    KeepsO T s0 (execDioDoSet v s) := by
  delta execDioDoSet
  refine keepsO_next ?_
  refine dioDoWrite_keeps ?_ (List.Subset.trans (by decide) hT)
  exact hs

theorem execDioDoClr_keeps {T : List Part} {s0 : State} {v : Word} {s : State} (hs : Keeps T s0 s)
    (hT : [.regs] ⊆ T) :
    KeepsO T s0 (execDioDoClr v s) := by
  delta execDioDoClr
  refine keepsO_next ?_
  refine dioDoWrite_keeps ?_ (List.Subset.trans (by decide) hT)
  exact hs

theorem dioOcClr_keeps {T : List Part} {s0 : State} {v : Word} {s : State} (hs : Keeps T s0 s)
    (hT : [.regs] ⊆ T) :
    Keeps T s0 (dioOcClr v s) := by
  delta dioOcClr
  refine keeps_foldl ?_ (fun a e ha => ?_)
  · exact hs
  · refine setB_keeps ?_ (List.Subset.trans (by decide) hT)
    exact ha

theorem execDioOcClr_keeps {T : List Part} {s0 : State} {v : Word} {s : State} (hs : Keeps T s0 s)
    (hT : [.regs] ⊆ T) :
    KeepsO T s0 (execDioOcClr v s) := by
  delta execDioOcClr
  refine keepsO_next ?_
  refine dioOcClr_keeps ?_ (List.Subset.trans (by decide) hT)
  exact hs

theorem execOvercurrent_keeps {T : List Part} {s0 : State} {o : Nat} {s : State} (hs : Keeps T s0 s)
    (hT : [.regs, .tbl, .items, .icu, .evr] ⊆ T) :
    KeepsO T s0 (execOvercurrent o s) := by
  delta execOvercurrent
  refine keepsO_next ?_
  refine keeps_ite ?_ ?_
  · refine raiseEv_keeps ?_ (List.Subset.trans (by decide) hT)
    refine bump_keeps ?_ (List.Subset.trans (by decide) hT)
    refine setB_keeps ?_ (List.Subset.trans (by decide) hT)
    exact hs
  · exact hs

theorem execReadback_keeps {T : List Part} {s0 : State} {o : Nat} {s : State} (hs : Keeps T s0 s)
    (hT : [.regs, .tbl, .items, .icu, .evr] ⊆ T) :
    KeepsO T s0 (execReadback o s) := by
  delta execReadback
  refine keepsO_next ?_
  refine keeps_ite ?_ ?_
  · refine raiseEv_keeps ?_ (List.Subset.trans (by decide) hT)
    refine bump_keeps ?_ (List.Subset.trans (by decide) hT)
    exact hs
  · exact hs

theorem doItems_keeps {T : List Part} {s0 : State} {s : State} (hs : Keeps T s0 s)
    (hT : [.regs] ⊆ T) :
    Keeps T s0 (State.doItems s) := by
  delta State.doItems
  refine keeps_foldl ?_ (fun a e ha => ?_)
  · exact hs
  · refine keeps_ite ?_ ?_
    · split
      · refine setB_keeps ?_ (List.Subset.trans (by decide) hT)
        exact ha
      · exact ha
    · exact ha

theorem doLaunch_keeps {T : List Part} {s0 : State} {s : State} {o : Nat} {on : Bool} (hs : Keeps T s0 s)
    (hT : [.regs] ⊆ T) :
    Keeps T s0 (State.doLaunch s o on) := by
  delta State.doLaunch
  refine setB_keeps ?_ (List.Subset.trans (by decide) hT)
  exact hs

theorem doReadback_keeps {T : List Part} {s0 : State} {s : State} (hs : Keeps T s0 s)
    (hT : [.regs] ⊆ T) :
    Keeps T s0 (State.doReadback s) := by
  delta State.doReadback
  extract_lets +onlyGivenNames y1
  extract_lets +onlyGivenNames y2
  have hy2 : Keeps T s0 y2 := by
    unfold y2
    refine setF_keeps ?_ (List.Subset.trans (by decide) hT)
    exact hs
  extract_lets +onlyGivenNames y3
  have hy3 : Keeps T s0 y3 := by
    unfold y3
    refine setF_keeps ?_ (List.Subset.trans (by decide) hT)
    exact hy2
  refine setF_keeps ?_ (List.Subset.trans (by decide) hT)
  exact hy3

theorem dioSoftReset_keeps {T : List Part} {s0 : State} {s : State} (hs : Keeps T s0 s)
    (hT : [.regs] ⊆ T) :
    Keeps T s0 (State.dioSoftReset s) := by
  delta State.dioSoftReset
  extract_lets +onlyGivenNames y1
  have hy1 : Keeps T s0 y1 := by
    unfold y1
    refine keeps_foldl ?_ (fun a e ha => ?_)
    · exact hs
    · refine keeps_ite ?_ ?_
      · refine setB_keeps ?_ (List.Subset.trans (by decide) hT)
        exact ha
      · exact ha
  refine doItems_keeps ?_ (List.Subset.trans (by decide) hT)
  refine dioOcClr_keeps ?_ (List.Subset.trans (by decide) hT)
  exact hy1

theorem aoutApply_keeps {T : List Part} {s0 : State} {s : State} {a : Nat} (hs : Keeps T s0 s)
    (hT : [.regs] ⊆ T) :
    Keeps T s0 (State.aoutApply s a) := by
  delta State.aoutApply
  refine setF_keeps ?_ (List.Subset.trans (by decide) hT)
  exact hs

theorem pwmApply_keeps {T : List Part} {s0 : State} {s : State} {k : Nat} {off : Nat} (hs : Keeps T s0 s)
    (hT : [.regs, .dio] ⊆ T) :
    Keeps T s0 (State.pwmApply s k off) := by
  delta State.pwmApply
  refine pwmStart_keeps ?_ (List.Subset.trans (by decide) hT)
  refine setF_keeps ?_ (List.Subset.trans (by decide) hT)
  exact hs

theorem aoutTick_keeps {T : List Part} {s0 : State} {s : State} {a : Nat} (hs : Keeps T s0 s)
    (hT : [.regs, .tbl, .items, .icu, .evr, .free] ⊆ T) :
    Keeps T s0 (State.aoutTick s a) := by
  delta State.aoutTick
  extract_lets +onlyGivenNames y1
  extract_lets +onlyGivenNames y2
  extract_lets +onlyGivenNames y3
  have hy3 : Keeps T s0 y3 := by
    unfold y3
    refine useFree_keeps ?_ (List.Subset.trans (by decide) hT)
    exact hs
  extract_lets +onlyGivenNames y4
  have hy4 : Keeps T s0 y4 := by
    unfold y4
    refine keeps_ite ?_ ?_
    · split
      · refine setB_keeps ?_ (List.Subset.trans (by decide) hT)
        exact hy3
      · extract_lets +onlyGivenNames y5
        have hy5 : Keeps T s0 y5 := by
          unfold y5
          refine setB_keeps ?_ (List.Subset.trans (by decide) hT)
          refine setB_keeps ?_ (List.Subset.trans (by decide) hT)
          refine setF_keeps ?_ (List.Subset.trans (by decide) hT)
          exact hy3
        refine keeps_ite ?_ ?_
        · refine raiseEv_keeps ?_ (List.Subset.trans (by decide) hT)
          exact hy5
        · exact hy5
    · refine setB_keeps ?_ (List.Subset.trans (by decide) hT)
      refine setB_keeps ?_ (List.Subset.trans (by decide) hT)
      exact hs
  refine keeps_ite ?_ ?_
  · exact hy4
  · refine aoutApply_keeps ?_ (List.Subset.trans (by decide) hT)
    exact hy4

theorem pwmTick_keeps {T : List Part} {s0 : State} {s : State} {k : Nat} (hs : Keeps T s0 s)
    (hT : [.regs, .dio, .free] ⊆ T) :
    Keeps T s0 (State.pwmTick s k) := by
  delta State.pwmTick
  extract_lets +onlyGivenNames y1
  extract_lets +onlyGivenNames y2
  have hy2 : Keeps T s0 y2 := by
    unfold y2
    refine useFree_keeps ?_ (List.Subset.trans (by decide) hT)
    exact hs
  extract_lets +onlyGivenNames y3
  have hy3 : Keeps T s0 y3 := by
    unfold y3
    refine keeps_ite ?_ ?_
    · split
      · refine setB_keeps ?_ (List.Subset.trans (by decide) hT)
        exact hy2
      · refine setB_keeps ?_ (List.Subset.trans (by decide) hT)
        refine setF_keeps ?_ (List.Subset.trans (by decide) hT)
        exact hy2
    · refine setB_keeps ?_ (List.Subset.trans (by decide) hT)
      exact hs
  extract_lets +onlyGivenNames y4
  refine keeps_ite ?_ ?_
  · exact hy3
  · refine pwmApply_keeps ?_ (List.Subset.trans (by decide) hT)
    exact hy3

theorem execOpenLoop_keeps {T : List Part} {s0 : State} {a : Nat} {s : State} (hs : Keeps T s0 s)
    (hT : [.regs, .tbl, .items, .icu, .evr] ⊆ T) :
    KeepsO T s0 (execOpenLoop a s) := by
  delta execOpenLoop
  refine keepsO_next ?_
  refine keeps_ite ?_ ?_
  · refine raiseEv_keeps ?_ (List.Subset.trans (by decide) hT)
    refine bump_keeps ?_ (List.Subset.trans (by decide) hT)
    refine setB_keeps ?_ (List.Subset.trans (by decide) hT)
    exact hs
  · exact hs

theorem execOpenCleared_keeps {T : List Part} {s0 : State} {a : Nat} {s : State} (hs : Keeps T s0 s)
    (hT : [.regs] ⊆ T) :
    KeepsO T s0 (execOpenCleared a s) := by
  delta execOpenCleared
  refine keepsO_next ?_
  refine keeps_ite ?_ ?_
  · refine setB_keeps ?_ (List.Subset.trans (by decide) hT)
    exact hs
  · exact hs

theorem dioTick_keeps {T : List Part} {s0 : State} {s : State} {aoutUa : List Nat} {rbDiff : Nat} (hs : Keeps T s0 s)
    (hT : [.regs, .tbl, .mbx, .items, .icu, .evr, .dio, .dev, .free] ⊆ T) :
    Keeps T s0 (State.dioTick s aoutUa rbDiff) := by
  delta State.dioTick
  extract_lets +onlyGivenNames y1
  extract_lets +onlyGivenNames y2
  have hy2 : Keeps T s0 y2 := by
    unfold y2
    refine setF_keeps ?_ (List.Subset.trans (by decide) hT)
    exact hs
  extract_lets +onlyGivenNames y3
  have hy3 : Keeps T s0 y3 := by
    unfold y3
    refine keeps_ite ?_ ?_
    · refine setF_keeps ?_ (List.Subset.trans (by decide) hT)
      exact hy2
    · exact hy2
  extract_lets +onlyGivenNames y4
  have hy4 : Keeps T s0 y4 := by
    unfold y4
    refine dioMod_keeps ?_ (List.Subset.trans (by decide) hT)
    refine doItems_keeps ?_ (List.Subset.trans (by decide) hT)
    exact hy3
  extract_lets +onlyGivenNames y5
  have hy5 : Keeps T s0 y5 := by
    unfold y5
    refine keeps_foldl ?_ (fun a e ha => ?_)
    · exact hy4
    · refine pwmTick_keeps ?_ (List.Subset.trans (by decide) hT)
      refine aoutTick_keeps ?_ (List.Subset.trans (by decide) hT)
      exact ha
  extract_lets +onlyGivenNames y6
  have hy6 : Keeps T s0 y6 := by
    unfold y6
    refine keeps_foldl ?_ (fun a e ha => ?_)
    · exact hy5
    · refine setF_keeps ?_ (List.Subset.trans (by decide) hT)
      exact ha
  extract_lets +onlyGivenNames y7
  have hy7 : Keeps T s0 y7 := by
    unfold y7
    refine aoutStat_keeps ?_ (List.Subset.trans (by decide) hT)
    refine doReadback_keeps ?_ (List.Subset.trans (by decide) hT)
    exact hy6
  extract_lets +onlyGivenNames y8
  refine fwPuts_keeps ?_ (List.Subset.trans (by decide) hT)
  exact hy7

end Sys2Proof.Machine
end

