-- ==== Sys2Proof/Laws/KeepSeq.lean ====
section
/-! SUPPORT. What each operation of Machine/Seq.lean keeps: the canonical form, the queue, and the parts it does not name. -/

namespace Sys2Proof.Machine

theorem seqMod_keeps {T : List Part} {s0 : State} {s : State} {f : SeqSt → SeqSt} (hs : Keeps T s0 s)
    (hT : [.seq] ⊆ T) :
    Keeps T s0 (State.seqMod s f) := by
  delta State.seqMod
  refine keeps_seq ?_ (List.Subset.trans (by decide) hT)
  exact hs

theorem ackBy_keeps {T : List Part} {s0 : State} {s : State} {unit : Nat} (hs : Keeps T s0 s)
    (hT : [.seq] ⊆ T) :
    Keeps T s0 (State.ackBy s unit) := by
  delta State.ackBy
  refine seqMod_keeps ?_ (List.Subset.trans (by decide) hT)
  exact hs

theorem passEntry_keeps {T : List Part} {s0 : State} {s : State} (hs : Keeps T s0 s)
    (hT : [.seq] ⊆ T) :
    Keeps T s0 (State.passEntry s) := by
  delta State.passEntry
  refine seqMod_keeps ?_ (List.Subset.trans (by decide) hT)
  exact hs

theorem entry_keeps {T : List Part} {s0 : State} {s : State} {op : Nat} {unit : Nat} {p : Entry → Bool} {f : State → State} (hs : Keeps T s0 s) (hf : ∀ x, Keeps T s0 x → Keeps T s0 (f x))
    (hT : [.seq] ⊆ T) :
    Keeps T s0 (State.entry s op unit p f) := by
  delta State.entry
  refine keeps_ite ?_ ?_
  · exact hs
  · refine keeps_ite ?_ ?_
    · refine ackBy_keeps ?_ (List.Subset.trans (by decide) hT)
      refine passEntry_keeps ?_ (List.Subset.trans (by decide) hT)
      exact hs
    · refine hf _ ?_
      refine ackBy_keeps ?_ (List.Subset.trans (by decide) hT)
      refine passEntry_keeps ?_ (List.Subset.trans (by decide) hT)
      exact hs

theorem execNop_keeps {T : List Part} {s0 : State} {unit : Nat} {s : State} (hs : Keeps T s0 s)
    (hT : [.seq] ⊆ T) :
    KeepsO T s0 (execNop unit s) := by
  delta execNop
  refine keepsO_next ?_
  refine entry_keeps ?_ (fun x hx => ?_) (List.Subset.trans (by decide) hT)
  · exact hs
  · exact hx

theorem execEndEntry_keeps {T : List Part} {s0 : State} {s : State} (hs : Keeps T s0 s)
    (hT : [.seq] ⊆ T) :
    KeepsO T s0 (execEndEntry s) := by
  delta execEndEntry
  refine keepsO_next ?_
  refine entry_keeps ?_ (fun x hx => ?_) (List.Subset.trans (by decide) hT)
  · exact hs
  · refine seqMod_keeps ?_ (List.Subset.trans (by decide) hT)
    exact hx

theorem closeMbx_keeps {T : List Part} {s0 : State} {s : State} {n : Nat} {copy : Bool} (hs : Keeps T s0 s)
    (hT : [.mbx] ⊆ T) :
    Keeps T s0 (State.closeMbx s n copy) := by
  delta State.closeMbx
  refine mbxMod_keeps ?_ (List.Subset.trans (by decide) hT)
  exact hs

theorem publish_keeps {T : List Part} {s0 : State} {mb : Nat} {copy : Bool} {s : State} (hs : Keeps T s0 s)
    (hT : [.mbx, .seq] ⊆ T) :
    Keeps T s0 (publish mb copy s) := by
  delta publish
  split
  · exact hs
  · extract_lets +onlyGivenNames y1
    refine keeps_ite ?_ ?_
    · refine keeps_ite ?_ ?_
      · refine passEntry_keeps ?_ (List.Subset.trans (by decide) hT)
        exact hs
      · exact hs
    · refine entry_keeps ?_ (fun x hx => ?_) (List.Subset.trans (by decide) hT)
      · exact hs
      · refine closeMbx_keeps ?_ (List.Subset.trans (by decide) hT)
        exact hx

theorem execPublish_keeps {T : List Part} {s0 : State} {mb : Nat} {copy : Bool} {s : State} (hs : Keeps T s0 s)
    (hT : [.mbx, .seq] ⊆ T) :
    KeepsO T s0 (execPublish mb copy s) := by
  delta execPublish
  refine keepsO_next ?_
  refine publish_keeps ?_ (List.Subset.trans (by decide) hT)
  exact hs

theorem execSnap_keeps {T : List Part} {s0 : State} {code : Nat} {s : State} (hs : Keeps T s0 s)
    (hT : [.regs, .tbl, .items, .icu, .evr, .seq] ⊆ T) :
    KeepsO T s0 (execSnap code s) := by
  delta execSnap
  refine keepsO_next ?_
  refine entry_keeps ?_ (fun x hx => ?_) (List.Subset.trans (by decide) hT)
  · exact hs
  · refine offer_keeps ?_ (List.Subset.trans (by decide) hT)
    exact hx

theorem seqInfo_keeps {T : List Part} {s0 : State} {s : State} (hs : Keeps T s0 s)
    (hT : [.regs] ⊆ T) :
    Keeps T s0 (State.seqInfo s) := by
  delta State.seqInfo
  extract_lets +onlyGivenNames y1
  extract_lets +onlyGivenNames y2
  have hy2 : Keeps T s0 y2 := by
    unfold y2
    refine keeps_foldl ?_ (fun a e ha => ?_)
    · exact hs
    · refine wr_keeps ?_ (List.Subset.trans (by decide) hT)
      exact ha
  extract_lets +onlyGivenNames y3
  have hy3 : Keeps T s0 y3 := by
    unfold y3
    refine keeps_foldl ?_ (fun a e ha => ?_)
    · exact hy2
    · extract_lets +onlyGivenNames y4
      extract_lets +onlyGivenNames y5
      refine wr_keeps ?_ (List.Subset.trans (by decide) hT)
      exact ha
  extract_lets +onlyGivenNames y6
  refine wr_keeps ?_ (List.Subset.trans (by decide) hT)
  refine wr_keeps ?_ (List.Subset.trans (by decide) hT)
  exact hy3

theorem seqUnverify_keeps {T : List Part} {s0 : State} {s : State} (hs : Keeps T s0 s)
    (hT : [.regs, .tbl, .items, .icu, .evr] ⊆ T) :
    Keeps T s0 (State.seqUnverify s) := by
  delta State.seqUnverify
  extract_lets +onlyGivenNames y1
  have hy1 : Keeps T s0 y1 := by
    unfold y1
    refine setB_keeps ?_ (List.Subset.trans (by decide) hT)
    exact hs
  refine keeps_ite ?_ ?_
  · refine raiseEv_keeps ?_ (List.Subset.trans (by decide) hT)
    refine setB_keeps ?_ (List.Subset.trans (by decide) hT)
    exact hy1
  · exact hy1

theorem seqVfyFail_keeps {T : List Part} {s0 : State} {s : State} {e : VfyErr} (hs : Keeps T s0 s)
    (hT : [.regs, .tbl, .items, .icu, .evr] ⊆ T) :
    Keeps T s0 (State.seqVfyFail s e) := by
  delta State.seqVfyFail
  extract_lets +onlyGivenNames y1
  have hy1 : Keeps T s0 y1 := by
    unfold y1
    refine wr_keeps ?_ (List.Subset.trans (by decide) hT)
    exact hs
  refine raiseEv_keeps ?_ (List.Subset.trans (by decide) hT)
  refine setB_keeps ?_ (List.Subset.trans (by decide) hT)
  refine setB_keeps ?_ (List.Subset.trans (by decide) hT)
  refine wr_keeps ?_ (List.Subset.trans (by decide) hT)
  exact hy1

theorem seqVerifyCmd_keeps {T : List Part} {s0 : State} {s : State} (hs : Keeps T s0 s)
    (hT : [.regs] ⊆ T) :
    Keeps T s0 (seqVerifyCmd s).1 := by
  delta seqVerifyCmd
  refine keeps_iteP ?_ ?_
  · refine keeps_fst ?_
    exact hs
  · refine keeps_iteP ?_ ?_
    · refine keeps_fst ?_
      exact hs
    · refine keeps_fst ?_
      refine setB_keeps ?_ (List.Subset.trans (by decide) hT)
      refine setB_keeps ?_ (List.Subset.trans (by decide) hT)
      exact hs

theorem execSeqVerify_keeps {T : List Part} {s0 : State} {s : State} (hs : Keeps T s0 s)
    (hT : [.regs] ⊆ T) :
    KeepsO T s0 (execSeqVerify s) := by
  delta execSeqVerify
  refine keepsO_next ?_
  refine seqVerifyCmd_keeps ?_ (List.Subset.trans (by decide) hT)
  exact hs

theorem execSeqVerifyEnd_keeps {T : List Part} {s0 : State} {s : State} (hs : Keeps T s0 s)
    (hT : [.regs, .tbl, .items, .icu, .evr] ⊆ T) :
    KeepsO T s0 (execSeqVerifyEnd s) := by
  delta execSeqVerifyEnd
  refine keepsO_next ?_
  refine keeps_ite ?_ ?_
  · exact hs
  · split
    · refine seqVfyFail_keeps ?_ (List.Subset.trans (by decide) hT)
      exact hs
    · refine raiseEv_keeps ?_ (List.Subset.trans (by decide) hT)
      refine setB_keeps ?_ (List.Subset.trans (by decide) hT)
      refine setB_keeps ?_ (List.Subset.trans (by decide) hT)
      refine setB_keeps ?_ (List.Subset.trans (by decide) hT)
      refine wr_keeps ?_ (List.Subset.trans (by decide) hT)
      refine wr_keeps ?_ (List.Subset.trans (by decide) hT)
      exact hs

theorem seqSwitchCmd_keeps {T : List Part} {s0 : State} {s : State} (hs : Keeps T s0 s)
    (hT : [.regs] ⊆ T) :
    Keeps T s0 (seqSwitchCmd s).1 := by
  delta seqSwitchCmd
  refine keeps_iteP ?_ ?_
  · refine keeps_fst ?_
    refine setB_keeps ?_ (List.Subset.trans (by decide) hT)
    exact hs
  · refine keeps_fst ?_
    exact hs

theorem execSeqSwitch_keeps {T : List Part} {s0 : State} {s : State} (hs : Keeps T s0 s)
    (hT : [.regs] ⊆ T) :
    KeepsO T s0 (execSeqSwitch s) := by
  delta execSeqSwitch
  refine keepsO_next ?_
  refine seqSwitchCmd_keeps ?_ (List.Subset.trans (by decide) hT)
  exact hs

theorem seqCancelCmd_keeps {T : List Part} {s0 : State} {s : State} (hs : Keeps T s0 s)
    (hT : [.regs] ⊆ T) :
    Keeps T s0 (seqCancelCmd s) := by
  delta seqCancelCmd
  refine setB_keeps ?_ (List.Subset.trans (by decide) hT)
  exact hs

theorem execSeqCancel_keeps {T : List Part} {s0 : State} {s : State} (hs : Keeps T s0 s)
    (hT : [.regs] ⊆ T) :
    KeepsO T s0 (execSeqCancel s) := by
  delta execSeqCancel
  refine keepsO_next ?_
  refine seqCancelCmd_keeps ?_ (List.Subset.trans (by decide) hT)
  exact hs

theorem seqWritten_keeps {T : List Part} {s0 : State} {s : State} (hs : Keeps T s0 s)
    (hT : [.regs, .tbl, .items, .icu, .evr] ⊆ T) :
    Keeps T s0 (State.seqWritten s) := by
  delta State.seqWritten
  extract_lets +onlyGivenNames y1
  have hy1 : Keeps T s0 y1 := by
    unfold y1
    refine seqUnverify_keeps ?_ (List.Subset.trans (by decide) hT)
    exact hs
  refine keeps_ite ?_ ?_
  · refine seqVfyFail_keeps ?_ (List.Subset.trans (by decide) hT)
    exact hy1
  · exact hy1

theorem seqBankSwitch_keeps {T : List Part} {s0 : State} {s : State} (hs : Keeps T s0 s)
    (hT : [.regs, .tbl, .items, .icu, .evr] ⊆ T) :
    Keeps T s0 (State.seqBankSwitch s) := by
  delta State.seqBankSwitch
  refine keeps_ite ?_ ?_
  · extract_lets +onlyGivenNames y1
    have hy1 : Keeps T s0 y1 := by
      unfold y1
      refine bankSwap_keeps ?_ (List.Subset.trans (by decide) hT)
      exact hs
    extract_lets +onlyGivenNames y2
    have hy2 : Keeps T s0 y2 := by
      unfold y2
      refine setB_keeps ?_ (List.Subset.trans (by decide) hT)
      refine setB_keeps ?_ (List.Subset.trans (by decide) hT)
      refine setF_keeps ?_ (List.Subset.trans (by decide) hT)
      exact hy1
    extract_lets +onlyGivenNames y3
    have hy3 : Keeps T s0 y3 := by
      unfold y3
      refine setF_keeps ?_ (List.Subset.trans (by decide) hT)
      exact hy2
    refine raiseEv_keeps ?_ (List.Subset.trans (by decide) hT)
    refine seqInfo_keeps ?_ (List.Subset.trans (by decide) hT)
    exact hy3
  · exact hs

end Sys2Proof.Machine
end

