-- ==== Sys2Proof/Laws/KeepAdc.lean ====
section
/-! SUPPORT. What each operation of Machine/Adc.lean keeps: the canonical form, the queue, and the parts it does not name. -/

namespace Sys2Proof.Machine

theorem adcMod_keeps {T : List Part} {s0 : State} {s : State} {f : AdcSt → AdcSt} (hs : Keeps T s0 s)
    (hT : [.adc] ⊆ T) :
    Keeps T s0 (State.adcMod s f) := by
  delta State.adcMod
  refine keeps_adc ?_ (List.Subset.trans (by decide) hT)
  exact hs

theorem trigLost_keeps {T : List Part} {s0 : State} {s : State} {cs : List Nat} (hs : Keeps T s0 s)
    (hT : [.regs, .tbl, .items, .icu, .evr] ⊆ T) :
    Keeps T s0 (State.trigLost s cs) := by
  delta State.trigLost
  refine keeps_ite ?_ ?_
  · exact hs
  · refine raiseEv_keeps ?_ (List.Subset.trans (by decide) hT)
    refine keeps_foldl ?_ (fun a e ha => ?_)
    · exact hs
    · refine bump_keeps ?_ (List.Subset.trans (by decide) hT)
      exact ha

theorem adcSample_keeps {T : List Part} {s0 : State} {s : State} {e : AdcTrg} (hs : Keeps T s0 s)
    (hT : [.regs, .tbl, .items, .icu, .evr, .adc] ⊆ T) :
    Keeps T s0 (State.adcSample s e) := by
  delta State.adcSample
  extract_lets +onlyGivenNames y1
  have hy1 : Keeps T s0 y1 := by
    unfold y1
    refine setB_keeps ?_ (List.Subset.trans (by decide) hT)
    refine adcMod_keeps ?_ (List.Subset.trans (by decide) hT)
    exact hs
  split
  · exact hy1
  · refine keeps_ite ?_ ?_
    · exact hs
    · refine keeps_ite ?_ ?_
      · refine trigLost_keeps ?_ (List.Subset.trans (by decide) hT)
        exact hs
      · exact hy1

theorem adcAdvance_keeps {T : List Part} {s0 : State} {s : State} {t : Nat} (hs : Keeps T s0 s)
    (hT : [.regs, .tbl, .items, .icu, .evr, .adc] ⊆ T) :
    Keeps T s0 (State.adcAdvance s t) := by
  delta State.adcAdvance
  extract_lets +onlyGivenNames y1
  extract_lets +onlyGivenNames y2
  have hy2 : Keeps T s0 y2 := by
    unfold y2
    refine adcMod_keeps ?_ (List.Subset.trans (by decide) hT)
    exact hs
  refine keeps_foldl ?_ (fun a e ha => ?_)
  · exact hy2
  · refine adcSample_keeps ?_ (List.Subset.trans (by decide) hT)
    exact ha

theorem adcTrigger_keeps {T : List Part} {s0 : State} {s : State} {src : Nat} {mask : Nat} {dly : Nat} {t : Nat} (hs : Keeps T s0 s)
    (hT : [.regs, .tbl, .items, .icu, .evr, .adc] ⊆ T) :
    Keeps T s0 (State.adcTrigger s src mask dly t) := by
  delta State.adcTrigger
  refine keeps_ite ?_ ?_
  · exact hs
  · extract_lets +onlyGivenNames y1
    have hy1 : Keeps T s0 y1 := by
      unfold y1
      refine adcAdvance_keeps ?_ (List.Subset.trans (by decide) hT)
      exact hs
    extract_lets +onlyGivenNames y2
    refine keeps_ite ?_ ?_
    · refine trigLost_keeps ?_ (List.Subset.trans (by decide) hT)
      exact hy1
    · extract_lets +onlyGivenNames y3
      refine adcMod_keeps ?_ (List.Subset.trans (by decide) hT)
      exact hy1

theorem execAdcSel_keeps {T : List Part} {s0 : State} {conv : Nat} {arg : Nat} {ns : Nat} {s : State} (hs : Keeps T s0 s)
    (hT : [.regs, .tbl, .items, .icu, .evr, .seq, .adc] ⊆ T) :
    KeepsO T s0 (execAdcSel conv arg ns s) := by
  delta execAdcSel
  refine keepsO_next ?_
  refine entry_keeps ?_ (fun x hx => ?_) (List.Subset.trans (by decide) hT)
  · exact hs
  · split
    · exact hx
    · refine adcMod_keeps ?_ (List.Subset.trans (by decide) hT)
      refine adcAdvance_keeps ?_ (List.Subset.trans (by decide) hT)
      exact hx

theorem adcChsel_keeps {T : List Part} {s0 : State} {s : State} {n : Nat} {c : Nat} (hs : Keeps T s0 s)
    (hT : [.adc] ⊆ T) :
    Keeps T s0 (State.adcChsel s n c) := by
  delta State.adcChsel
  refine adcMod_keeps ?_ (List.Subset.trans (by decide) hT)
  exact hs

theorem adcSels_keeps {T : List Part} {s0 : State} {s : State} (hs : Keeps T s0 s)
    (hT : [.adc] ⊆ T) :
    Keeps T s0 (State.adcSels s) := by
  delta State.adcSels
  refine adcMod_keeps ?_ (List.Subset.trans (by decide) hT)
  exact hs

theorem execAdcTrig_keeps {T : List Part} {s0 : State} {arg : Nat} {ns : Nat} {s : State} (hs : Keeps T s0 s)
    (hT : [.regs, .tbl, .items, .icu, .evr, .seq, .adc] ⊆ T) :
    KeepsO T s0 (execAdcTrig arg ns s) := by
  delta execAdcTrig
  refine keepsO_next ?_
  refine entry_keeps ?_ (fun x hx => ?_) (List.Subset.trans (by decide) hT)
  · exact hs
  · refine adcTrigger_keeps ?_ (List.Subset.trans (by decide) hT)
    exact hx

theorem adcTrg_keeps {T : List Part} {s0 : State} {s : State} {k : Nat} {ns : Nat} (hs : Keeps T s0 s)
    (hT : [.regs, .tbl, .items, .icu, .evr, .adc] ⊆ T) :
    Keeps T s0 (State.adcTrg s k ns) := by
  delta State.adcTrg
  extract_lets +onlyGivenNames y1
  refine keeps_ite ?_ ?_
  · refine adcTrigger_keeps ?_ (List.Subset.trans (by decide) hT)
    exact hs
  · exact hs

theorem execAdcTimerTrigger_keeps {T : List Part} {s0 : State} {k : Nat} {ns : Nat} {s : State} (hs : Keeps T s0 s)
    (hT : [.regs, .tbl, .items, .icu, .evr, .adc] ⊆ T) :
    KeepsO T s0 (execAdcTimerTrigger k ns s) := by
  delta execAdcTimerTrigger
  extract_lets +onlyGivenNames y1
  refine keepsO_next ?_
  refine keeps_ite ?_ ?_
  · refine adcTrg_keeps ?_ (List.Subset.trans (by decide) hT)
    exact hs
  · exact hs

theorem execPwmCompareTrigger_keeps {T : List Part} {s0 : State} {k : Nat} {ns : Nat} {s : State} (hs : Keeps T s0 s)
    (hT : [.regs, .tbl, .items, .icu, .evr, .adc] ⊆ T) :
    KeepsO T s0 (execPwmCompareTrigger k ns s) := by
  delta execPwmCompareTrigger
  extract_lets +onlyGivenNames y1
  extract_lets +onlyGivenNames y2
  extract_lets +onlyGivenNames y3
  refine keepsO_next ?_
  refine keeps_ite ?_ ?_
  · refine adcTrg_keeps ?_ (List.Subset.trans (by decide) hT)
    exact hs
  · exact hs

theorem adcSetWin_keeps {T : List Part} {s0 : State} {s : State} {ch : Nat} {w : AdcWin} (hs : Keeps T s0 s)
    (hT : [.adc] ⊆ T) :
    Keeps T s0 (State.adcSetWin s ch w) := by
  delta State.adcSetWin
  refine adcMod_keeps ?_ (List.Subset.trans (by decide) hT)
  exact hs

theorem reflexConv_keeps {T : List Part} {s0 : State} {s : State} {conv : Nat} {inp : Nat} {code : Int} (hs : Keeps T s0 s)
    (hT : [.regs, .tbl, .items, .icu, .evr, .dio] ⊆ T) :
    Keeps T s0 (State.reflexConv s conv inp code) := by
  delta State.reflexConv
  refine keeps_foldl ?_ (fun a e ha => ?_)
  · exact hs
  · extract_lets +onlyGivenNames y1
    extract_lets +onlyGivenNames y2
    extract_lets +onlyGivenNames y3
    extract_lets +onlyGivenNames y4
    have hy4 : Keeps T s0 y4 := by
      unfold y4
      refine dioMod_keeps ?_ (List.Subset.trans (by decide) hT)
      exact ha
    refine keeps_ite ?_ ?_
    · refine reflexTrip_keeps ?_ (List.Subset.trans (by decide) hT)
      exact hy4
    · exact hy4

theorem adcResult_keeps {T : List Part} {s0 : State} {s : State} {ch : Nat} {c : AdcClose} (hs : Keeps T s0 s)
    (hT : [.regs, .tbl, .mbx, .items, .icu, .evr, .dio, .dev] ⊆ T) :
    Keeps T s0 (State.adcResult s ch c) := by
  delta State.adcResult
  extract_lets +onlyGivenNames y1
  extract_lets +onlyGivenNames y2
  extract_lets +onlyGivenNames y3
  extract_lets +onlyGivenNames y4
  extract_lets +onlyGivenNames y5
  extract_lets +onlyGivenNames y6
  extract_lets +onlyGivenNames y7
  extract_lets +onlyGivenNames y8
  extract_lets +onlyGivenNames y9
  extract_lets +onlyGivenNames y10
  extract_lets +onlyGivenNames y11
  have hy11 : Keeps T s0 y11 := by
    unfold y11
    refine trecSet_keeps ?_ (List.Subset.trans (by decide) hT)
    exact hs
  extract_lets +onlyGivenNames y12
  extract_lets +onlyGivenNames y13
  extract_lets +onlyGivenNames y14
  extract_lets +onlyGivenNames y15
  extract_lets +onlyGivenNames y16
  have hy16 : Keeps T s0 y16 := by
    unfold y16
    refine fwPutsNext_keeps ?_ (List.Subset.trans (by decide) hT)
    exact hy11
  refine keeps_ite ?_ ?_
  · refine raiseEv_keeps ?_ (List.Subset.trans (by decide) hT)
    exact hy16
  · exact hy16

theorem adcClose_keeps {T : List Part} {s0 : State} {s : State} {ch : Nat} {late : Bool} {short : Bool} (hs : Keeps T s0 s)
    (hT : [.regs, .tbl, .mbx, .items, .icu, .evr, .dio, .adc, .dev] ⊆ T) :
    Keeps T s0 (State.adcClose s ch late short) := by
  delta State.adcClose
  extract_lets +onlyGivenNames y1
  extract_lets +onlyGivenNames y2
  extract_lets +onlyGivenNames y3
  extract_lets +onlyGivenNames y4
  extract_lets +onlyGivenNames y5
  have hy5 : Keeps T s0 y5 := by
    unfold y5
    refine adcSetWin_keeps ?_ (List.Subset.trans (by decide) hT)
    exact hs
  refine keeps_ite ?_ ?_
  · refine adcMod_keeps ?_ (List.Subset.trans (by decide) hT)
    exact hy5
  · refine adcResult_keeps ?_ (List.Subset.trans (by decide) hT)
    exact hy5

theorem adcTick_keeps {T : List Part} {s0 : State} {s : State} {skips : List (Nat × Nat)} (hs : Keeps T s0 s)
    (hT : [.regs, .tbl, .mbx, .items, .icu, .evr, .dio, .adc, .dev] ⊆ T) :
    Keeps T s0 (State.adcTick s skips) := by
  delta State.adcTick
  extract_lets +onlyGivenNames y1
  have hy1 : Keeps T s0 y1 := by
    unfold y1
    refine adcAdvance_keeps ?_ (List.Subset.trans (by decide) hT)
    exact hs
  refine keeps_foldl ?_ (fun a e ha => ?_)
  · exact hy1
  · extract_lets +onlyGivenNames y2
    extract_lets +onlyGivenNames y3
    refine keeps_ite ?_ ?_
    · refine adcClose_keeps ?_ (List.Subset.trans (by decide) hT)
      exact ha
    · exact ha

theorem adcShort_keeps {T : List Part} {s0 : State} {s : State} {chs : List Nat} (hs : Keeps T s0 s)
    (hT : [.regs, .tbl, .mbx, .items, .icu, .evr, .dio, .adc, .dev] ⊆ T) :
    Keeps T s0 (State.adcShort s chs) := by
  delta State.adcShort
  refine keeps_foldl ?_ (fun a e ha => ?_)
  · exact hs
  · refine adcClose_keeps ?_ (List.Subset.trans (by decide) hT)
    exact ha

theorem execAdcConversionEnd_keeps {T : List Part} {s0 : State} {conv : Nat} {code : Int} {ns : Nat} {s : State} (hs : Keeps T s0 s)
    (hT : [.regs, .tbl, .mbx, .items, .icu, .evr, .dio, .adc, .dev] ⊆ T) :
    KeepsO T s0 (execAdcConversionEnd conv code ns s) := by
  delta execAdcConversionEnd
  extract_lets +onlyGivenNames y1
  extract_lets +onlyGivenNames y2
  have hy2 : Keeps T s0 y2 := by
    unfold y2
    refine adcAdvance_keeps ?_ (List.Subset.trans (by decide) hT)
    exact hs
  refine keepsO_next ?_
  split
  · exact hy2
  · refine keeps_ite ?_ ?_
    · exact hy2
    · extract_lets +onlyGivenNames y3
      extract_lets +onlyGivenNames y4
      extract_lets +onlyGivenNames y5
      extract_lets +onlyGivenNames y6
      extract_lets +onlyGivenNames y7
      have hy7 : Keeps T s0 y7 := by
        unfold y7
        refine bump_keeps ?_ (List.Subset.trans (by decide) hT)
        refine setB_keeps ?_ (List.Subset.trans (by decide) hT)
        refine adcMod_keeps ?_ (List.Subset.trans (by decide) hT)
        exact hy2
      extract_lets +onlyGivenNames y8
      have hy8 : Keeps T s0 y8 := by
        unfold y8
        refine reflexConv_keeps ?_ (List.Subset.trans (by decide) hT)
        exact hy7
      refine keeps_ite ?_ ?_
      · exact hy8
      · extract_lets +onlyGivenNames y9
        extract_lets +onlyGivenNames y10
        have hy10 : Keeps T s0 y10 := by
          unfold y10
          refine keeps_ite ?_ ?_
          · refine setB_keeps ?_ (List.Subset.trans (by decide) hT)
            exact hy8
          · exact hy8
        clear_value y9
        split
        · extract_lets +onlyGivenNames y11
          have hy11 : Keeps T s0 y11 := by
            unfold y11
            refine keeps_ite ?_ ?_
            · refine raiseEv_keeps ?_ (List.Subset.trans (by decide) hT)
              exact hy10
            · exact hy10
          refine adcResult_keeps ?_ (List.Subset.trans (by decide) hT)
          refine adcMod_keeps ?_ (List.Subset.trans (by decide) hT)
          exact hy11
        · extract_lets +onlyGivenNames y12
          refine keeps_ite ?_ ?_
          · exact hy10
          · extract_lets +onlyGivenNames y13
            have hy13 : Keeps T s0 y13 := by
              unfold y13
              refine keeps_ite ?_ ?_
              · refine raiseEv_keeps ?_ (List.Subset.trans (by decide) hT)
                exact hy10
              · exact hy10
            refine adcSetWin_keeps ?_ (List.Subset.trans (by decide) hT)
            exact hy13

theorem adcClkLost_keeps {T : List Part} {s0 : State} {s : State} (hs : Keeps T s0 s)
    (hT : [.regs, .tbl, .items, .icu, .evr, .adc] ⊆ T) :
    Keeps T s0 (State.adcClkLost s) := by
  delta State.adcClkLost
  extract_lets +onlyGivenNames y1
  have hy1 : Keeps T s0 y1 := by
    unfold y1
    refine raiseEv_keeps ?_ (List.Subset.trans (by decide) hT)
    refine setB_keeps ?_ (List.Subset.trans (by decide) hT)
    exact hs
  refine keeps_foldl ?_ (fun a e ha => ?_)
  · exact hy1
  · refine adcSetWin_keeps ?_ (List.Subset.trans (by decide) hT)
    exact ha

theorem adcClkBack_keeps {T : List Part} {s0 : State} {s : State} (hs : Keeps T s0 s)
    (hT : [.regs] ⊆ T) :
    Keeps T s0 (State.adcClkBack s) := by
  delta State.adcClkBack
  refine setB_keeps ?_ (List.Subset.trans (by decide) hT)
  exact hs

theorem adcSoftReset_keeps {T : List Part} {s0 : State} {s : State} (hs : Keeps T s0 s)
    (hT : [.adc] ⊆ T) :
    Keeps T s0 (State.adcSoftReset s) := by
  delta State.adcSoftReset
  extract_lets +onlyGivenNames y1
  have hy1 : Keeps T s0 y1 := by
    unfold y1
    refine adcMod_keeps ?_ (List.Subset.trans (by decide) hT)
    refine adcSels_keeps ?_ (List.Subset.trans (by decide) hT)
    exact hs
  refine keeps_foldl ?_ (fun a e ha => ?_)
  · exact hy1
  · refine adcSetWin_keeps ?_ (List.Subset.trans (by decide) hT)
    exact ha

end Sys2Proof.Machine
end

