-- ==== Sys2Proof/Laws/KeepCan.lean ====
section
/-! SUPPORT. What each operation of Machine/Can.lean keeps: the canonical form, the queue, and the parts it does not name. -/

namespace Sys2Proof.Machine

theorem canMod_keeps {T : List Part} {s0 : State} {s : State} {p : Nat} {f : CanSt → CanSt} (hs : Keeps T s0 s)
    (hT : [.can] ⊆ T) :
    Keeps T s0 (State.canMod s p f) := by
  delta State.canMod
  refine keeps_can ?_ (List.Subset.trans (by decide) hT)
  exact hs

theorem canBump_keeps {T : List Part} {s0 : State} {s : State} {p : Nat} {c : Ctr} (hs : Keeps T s0 s)
    (hT : [.regs] ⊆ T) :
    Keeps T s0 (State.canBump s p c) := by
  delta State.canBump
  refine bump_keeps ?_ (List.Subset.trans (by decide) hT)
  exact hs

theorem tailEnd_keeps {T : List Part} {s0 : State} {s : State} {p : Nat} (hs : Keeps T s0 s)
    (hT : [.can] ⊆ T) :
    Keeps T s0 (State.tailEnd s p) := by
  delta State.tailEnd
  refine canMod_keeps ?_ (List.Subset.trans (by decide) hT)
  exact hs

theorem tailFrom_keeps {T : List Part} {s0 : State} {s : State} {p : Nat} (hs : Keeps T s0 s)
    (hT : [.can] ⊆ T) :
    Keeps T s0 (State.tailFrom s p) := by
  delta State.tailFrom
  refine canMod_keeps ?_ (List.Subset.trans (by decide) hT)
  exact hs

theorem mbxPutRaw_keeps {T : List Part} {s0 : State} {s : State} {n : Nat} {i : Nat} {a3 : List Item} (hs : Keeps T s0 s)
    (hT : [.mbx] ⊆ T) :
    Keeps T s0 (State.mbxPutRaw s n i a3) := by
  induction a3 generalizing s i with
  | nil => exact hs
  | cons v vs ih => exact ih (mbxMod_keeps hs (List.Subset.trans (by decide) hT))

theorem mbxPutBytes_keeps {T : List Part} {s0 : State} {s : State} {n : Nat} {b : Nat} {d : List Byte} (hs : Keeps T s0 s)
    (hT : [.regs, .tbl, .mbx, .items, .icu, .evr, .dio, .dev] ⊆ T) :
    Keeps T s0 (State.mbxPutBytes s n b d) := by
  delta State.mbxPutBytes
  split
  · exact hs
  · refine keeps_ite ?_ ?_
    · refine mbxPutRaw_keeps ?_ (List.Subset.trans (by decide) hT)
      exact hs
    · refine fwViol_keeps ?_ (List.Subset.trans (by decide) hT)
      exact hs

theorem stnMod_keeps {T : List Part} {s0 : State} {s : State} {p : Nat} {t : Nat} {f : StnSt → StnSt} (hs : Keeps T s0 s)
    (hT : [.can] ⊆ T) :
    Keeps T s0 (State.stnMod s p t f) := by
  delta State.stnMod
  refine canMod_keeps ?_ (List.Subset.trans (by decide) hT)
  exact hs

theorem stnPublish_keeps {T : List Part} {s0 : State} {s : State} {p : Nat} {t : Nat} (hs : Keeps T s0 s)
    (hT : [.regs, .tbl, .mbx, .items, .icu, .evr, .can, .dio, .dev] ⊆ T) :
    Keeps T s0 (State.stnPublish s p t) := by
  delta State.stnPublish
  extract_lets +onlyGivenNames y1
  extract_lets +onlyGivenNames y2
  extract_lets +onlyGivenNames y3
  extract_lets +onlyGivenNames y4
  extract_lets +onlyGivenNames y5
  extract_lets +onlyGivenNames y6
  have hy6 : Keeps T s0 y6 := by
    unfold y6
    refine fwPutsNext_keeps ?_ (List.Subset.trans (by decide) hT)
    exact hs
  refine stnMod_keeps ?_ (List.Subset.trans (by decide) hT)
  exact hy6

theorem stnSet_keeps {T : List Part} {s0 : State} {s : State} {p : Nat} {t : Nat} {st : Nat} (hs : Keeps T s0 s)
    (hT : [.tbl] ⊆ T) :
    Keeps T s0 (State.stnSet s p t st) := by
  delta State.stnSet
  refine tset_keeps ?_ (List.Subset.trans (by decide) hT)
  exact hs

theorem stnInit_keeps {T : List Part} {s0 : State} {s : State} {p : Nat} {t : Nat} (hs : Keeps T s0 s)
    (hT : [.regs, .tbl, .mbx, .items, .icu, .evr, .can, .dio, .dev] ⊆ T) :
    Keeps T s0 (State.stnInit s p t) := by
  delta State.stnInit
  extract_lets +onlyGivenNames y1
  have hy1 : Keeps T s0 y1 := by
    unfold y1
    refine tset_keeps ?_ (List.Subset.trans (by decide) hT)
    refine tset_keeps ?_ (List.Subset.trans (by decide) hT)
    refine stnSet_keeps ?_ (List.Subset.trans (by decide) hT)
    exact hs
  refine stnPublish_keeps ?_ (List.Subset.trans (by decide) hT)
  refine stnMod_keeps ?_ (List.Subset.trans (by decide) hT)
  exact hy1

theorem stnEval_keeps {T : List Part} {s0 : State} {s : State} {p : Nat} {t : Nat} (hs : Keeps T s0 s)
    (hT : [.regs, .tbl, .mbx, .items, .icu, .evr, .can, .dio, .dev] ⊆ T) :
    Keeps T s0 (State.stnEval s p t) := by
  delta State.stnEval
  extract_lets +onlyGivenNames y1
  extract_lets +onlyGivenNames y2
  refine keeps_ite ?_ ?_
  · refine stnPublish_keeps ?_ (List.Subset.trans (by decide) hT)
    exact hs
  · extract_lets +onlyGivenNames y3
    extract_lets +onlyGivenNames y4
    extract_lets +onlyGivenNames y5
    have hy5 : Keeps T s0 y5 := by
      unfold y5
      refine tset_keeps ?_ (List.Subset.trans (by decide) hT)
      refine tset_keeps ?_ (List.Subset.trans (by decide) hT)
      exact hs
    extract_lets +onlyGivenNames y6
    have hy6 : Keeps T s0 y6 := by
      unfold y6
      refine keeps_ite ?_ ?_
      · refine keeps_ite ?_ ?_
        · refine keeps_ite ?_ ?_
          · refine stnSet_keeps ?_ (List.Subset.trans (by decide) hT)
            exact hy5
          · exact hy5
        · refine keeps_ite ?_ ?_
          · refine stnSet_keeps ?_ (List.Subset.trans (by decide) hT)
            exact hy5
          · refine keeps_ite ?_ ?_
            · refine stnSet_keeps ?_ (List.Subset.trans (by decide) hT)
              exact hy5
            · refine keeps_ite ?_ ?_
              · refine keeps_ite ?_ ?_
                · refine raiseEv_keeps ?_ (List.Subset.trans (by decide) hT)
                  refine stnSet_keeps ?_ (List.Subset.trans (by decide) hT)
                  exact hy5
                · exact hy5
              · exact hy5
      · refine keeps_ite ?_ ?_
        · refine stnSet_keeps ?_ (List.Subset.trans (by decide) hT)
          exact hy5
        · refine keeps_ite ?_ ?_
          · refine stnSet_keeps ?_ (List.Subset.trans (by decide) hT)
            exact hy5
          · exact hy5
    refine stnPublish_keeps ?_ (List.Subset.trans (by decide) hT)
    exact hy6

theorem canCycle_keeps {T : List Part} {s0 : State} {s : State} {p : Nat} (hs : Keeps T s0 s)
    (hT : [.can] ⊆ T) :
    Keeps T s0 (State.canCycle s p) := by
  delta State.canCycle
  refine canMod_keeps ?_ (List.Subset.trans (by decide) hT)
  exact hs

theorem stnDrop_keeps {T : List Part} {s0 : State} {s : State} {p : Nat} {t : Nat} (hs : Keeps T s0 s)
    (hT : [.regs, .tbl, .mbx, .items, .icu, .evr, .can, .dio, .dev] ⊆ T) :
    Keeps T s0 (State.stnDrop s p t).1 := by
  delta State.stnDrop
  refine keeps_iteP ?_ ?_
  · extract_lets +onlyGivenNames y1
    have hy1 : Keeps T s0 y1 := by
      unfold y1
      refine canBump_keeps ?_ (List.Subset.trans (by decide) hT)
      refine raiseEv_keeps ?_ (List.Subset.trans (by decide) hT)
      refine stnSet_keeps ?_ (List.Subset.trans (by decide) hT)
      exact hs
    extract_lets +onlyGivenNames y2
    extract_lets +onlyGivenNames y3
    have hy3 : Keeps T s0 y3 := by
      unfold y3
      refine keeps_ite ?_ ?_
      · refine tset_keeps ?_ (List.Subset.trans (by decide) hT)
        refine tset_keeps ?_ (List.Subset.trans (by decide) hT)
        exact hy1
      · refine tset_keeps ?_ (List.Subset.trans (by decide) hT)
        exact hy1
    refine keeps_fst ?_
    refine stnPublish_keeps ?_ (List.Subset.trans (by decide) hT)
    exact hy3
  · refine keeps_fst ?_
    exact hs

theorem stnResetCmd_keeps {T : List Part} {s0 : State} {p : Nat} {s : State} (hs : Keeps T s0 s)
    (hT : [.regs, .tbl, .mbx, .items, .icu, .evr, .can, .dio, .dev] ⊆ T) :
    Keeps T s0 (stnResetCmd p s) := by
  delta stnResetCmd
  extract_lets +onlyGivenNames y1
  refine twr_keeps ?_ (List.Subset.trans (by decide) hT)
  refine stnInit_keeps ?_ (List.Subset.trans (by decide) hT)
  exact hs

theorem execStnReset_keeps {T : List Part} {s0 : State} {p : Nat} {s : State} (hs : Keeps T s0 s)
    (hT : [.regs, .tbl, .mbx, .items, .icu, .evr, .can, .dio, .dev] ⊆ T) :
    KeepsO T s0 (execStnReset p s) := by
  delta execStnReset
  refine keepsO_next ?_
  refine stnResetCmd_keeps ?_ (List.Subset.trans (by decide) hT)
  exact hs

theorem outMsg_keeps {T : List Part} {s0 : State} {s : State} {p : Nat} {t : Nat} (hs : Keeps T s0 s)
    (hT : [.can] ⊆ T) :
    Keeps T s0 (State.outMsg s p t).2 := by
  have h : Keeps T s0 (s.stnMod p t (fun d => { d with outCnt := ((s.stn p t).outCnt + 1) % 256 })) :=
    stnMod_keeps hs (List.Subset.trans (by decide) hT)
  exact h

theorem canTx_keeps {T : List Part} {s0 : State} {s : State} {p : Nat} {o : Nat} (hs : Keeps T s0 s)
    (hT : [.regs, .tbl, .can, .twin] ⊆ T) :
    Keeps T s0 (State.canTx s p o) := by
  delta State.canTx
  refine keeps_ite hs ?_
  extract_lets +onlyGivenNames len
  extract_lets +onlyGivenNames r
  have hr : Keeps T s0 r.2 := by
    unfold r
    split
    · exact hs
    · split
      · exact outMsg_keeps hs (List.Subset.trans (by decide) hT)
      · exact hs
  clear_value r
  obtain ⟨l, x⟩ := r
  extract_lets +onlyGivenNames q1 q2 s1
  have h1 : Keeps T s0 s1 := keeps_twin hr (List.Subset.trans (by decide) hT)
  refine keeps_ite h1 ?_
  extract_lets +onlyGivenNames s2
  have h2 : Keeps T s0 s2 := keeps_ite (canBump_keeps h1 (List.Subset.trans (by decide) hT)) h1
  extract_lets +onlyGivenNames since
  exact canMod_keeps (tset_keeps h2 (List.Subset.trans (by decide) hT)) (List.Subset.trans (by decide) hT)

theorem execCanTx_keeps {T : List Part} {s0 : State} {arg : Nat} {s : State} (hs : Keeps T s0 s)
    (hT : [.regs, .tbl, .seq, .can, .twin] ⊆ T) :
    KeepsO T s0 (execCanTx arg s) := by
  delta execCanTx
  refine keepsO_next ?_
  refine entry_keeps ?_ (fun x hx => ?_) (List.Subset.trans (by decide) hT)
  · exact hs
  · split
    · exact hx
    · refine canTx_keeps ?_ (List.Subset.trans (by decide) hT)
      exact hx

theorem canWithdraw_keeps {T : List Part} {s0 : State} {s : State} {p : Nat} {o : Nat} (hs : Keeps T s0 s)
    (hT : [.tbl, .can] ⊆ T) :
    Keeps T s0 (State.canWithdraw s p o) := by
  delta State.canWithdraw
  refine canMod_keeps ?_ (List.Subset.trans (by decide) hT)
  refine tset_keeps ?_ (List.Subset.trans (by decide) hT)
  exact hs

theorem canRefLost_keeps {T : List Part} {s0 : State} {s : State} {p : Nat} (hs : Keeps T s0 s)
    (hT : [.regs, .can] ⊆ T) :
    Keeps T s0 (State.canRefLost s p) := by
  delta State.canRefLost
  refine keeps_ite ?_ ?_
  · refine canMod_keeps ?_ (List.Subset.trans (by decide) hT)
    refine wr_keeps ?_ (List.Subset.trans (by decide) hT)
    refine canBump_keeps ?_ (List.Subset.trans (by decide) hT)
    exact hs
  · exact hs

theorem canQueueRef_keeps {T : List Part} {s0 : State} {s : State} {p : Nat} (hs : Keeps T s0 s)
    (hT : [.can] ⊆ T) :
    Keeps T s0 (State.canQueueRef s p) := by
  delta State.canQueueRef
  extract_lets +onlyGivenNames y1
  refine canMod_keeps ?_ (List.Subset.trans (by decide) hT)
  exact hs

theorem canRef_keeps {T : List Part} {s0 : State} {s : State} {p : Nat} (hs : Keeps T s0 s)
    (hT : [.regs, .tbl, .mbx, .items, .icu, .evr, .can, .dio, .dev] ⊆ T) :
    Keeps T s0 (State.canRef s p) := by
  delta State.canRef
  extract_lets +onlyGivenNames y1
  have hy1 : Keeps T s0 y1 := by
    unfold y1
    refine canRefLost_keeps ?_ (List.Subset.trans (by decide) hT)
    exact hs
  extract_lets +onlyGivenNames y2
  have hy2 : Keeps T s0 y2 := by
    unfold y2
    refine keeps_ite ?_ ?_
    · refine canQueueRef_keeps ?_ (List.Subset.trans (by decide) hT)
      exact hy1
    · exact hy1
  refine keeps_ite ?_ ?_
  · exact hy2
  · refine keeps_foldl ?_ (fun a e ha => ?_)
    · exact hy2
    · refine stnEval_keeps ?_ (List.Subset.trans (by decide) hT)
      exact ha

theorem execCanRef_keeps {T : List Part} {s0 : State} {arg : Nat} {s : State} (hs : Keeps T s0 s)
    (hT : [.regs, .tbl, .mbx, .items, .icu, .evr, .seq, .can, .dio, .dev] ⊆ T) :
    KeepsO T s0 (execCanRef arg s) := by
  delta execCanRef
  refine keepsO_next ?_
  refine entry_keeps ?_ (fun x hx => ?_) (List.Subset.trans (by decide) hT)
  · exact hs
  · refine canRef_keeps ?_ (List.Subset.trans (by decide) hT)
    exact hx

theorem canClash_keeps {T : List Part} {s0 : State} {s : State} {p : Nat} {suspect : Bool} {ref : Bool} {id : Nat} (hs : Keeps T s0 s)
    (hT : [.regs] ⊆ T) :
    Keeps T s0 (State.canClash s p suspect ref id) := by
  delta State.canClash
  refine wr_keeps ?_ (List.Subset.trans (by decide) hT)
  exact hs

theorem canConfine_keeps {T : List Part} {s0 : State} {s : State} {p : Nat} (hs : Keeps T s0 s)
    (hT : [.regs] ⊆ T) :
    Keeps T s0 (State.canConfine s p) := by
  delta State.canConfine
  extract_lets +onlyGivenNames y1
  extract_lets +onlyGivenNames y2
  extract_lets +onlyGivenNames y3
  have hy3 : Keeps T s0 y3 := by
    unfold y3
    refine setB_keeps ?_ (List.Subset.trans (by decide) hT)
    exact hs
  refine keeps_ite ?_ ?_
  · refine setF_keeps ?_ (List.Subset.trans (by decide) hT)
    exact hy3
  · exact hy3

theorem canRxOk_keeps {T : List Part} {s0 : State} {s : State} {p : Nat} {m : Nat} (hs : Keeps T s0 s)
    (hT : [.regs, .free] ⊆ T) :
    Keeps T s0 (State.canRxOk s p m) := by
  delta State.canRxOk
  extract_lets +onlyGivenNames y1
  have hy1 : Keeps T s0 y1 := by
    unfold y1
    refine canBump_keeps ?_ (List.Subset.trans (by decide) hT)
    exact hs
  refine keeps_ite ?_ ?_
  · exact hy1
  · extract_lets +onlyGivenNames y2
    refine keeps_ite ?_ ?_
    · exact hy1
    · refine keeps_ite ?_ ?_
      · refine canConfine_keeps ?_ (List.Subset.trans (by decide) hT)
        refine setF_keeps ?_ (List.Subset.trans (by decide) hT)
        exact hy1
      · refine canConfine_keeps ?_ (List.Subset.trans (by decide) hT)
        refine useFree_keeps ?_ (List.Subset.trans (by decide) hT)
        refine setF_keeps ?_ (List.Subset.trans (by decide) hT)
        exact hy1

theorem stnInput_keeps {T : List Part} {s0 : State} {s : State} {p : Nat} {t : Nat} {d : List Byte} (hs : Keeps T s0 s)
    (hT : [.regs, .tbl, .mbx, .items, .icu, .evr, .can, .dio, .dev] ⊆ T) :
    Keeps T s0 (State.stnInput s p t d) := by
  delta State.stnInput
  exact stnPublish_keeps (stnMod_keeps (tset_keeps hs (List.Subset.trans (by decide) hT)) (List.Subset.trans (by decide) hT))
    (List.Subset.trans (by decide) hT)

theorem canAccept_keeps {T : List Part} {s0 : State} {s : State} {p : Nat} {o : Nat} {f : CanFrame} (hs : Keeps T s0 s)
    (hT : [.regs, .tbl, .mbx, .items, .icu, .evr, .can, .dio, .dev] ⊆ T) :
    Keeps T s0 (State.canAccept s p o f) := by
  delta State.canAccept
  extract_lets +onlyGivenNames y1
  have hy1 : Keeps T s0 y1 := by
    unfold y1
    refine twr_keeps ?_ (List.Subset.trans (by decide) hT)
    refine twr_keeps ?_ (List.Subset.trans (by decide) hT)
    refine twr_keeps ?_ (List.Subset.trans (by decide) hT)
    exact hs
  refine keeps_ite ?_ ?_
  · refine mbxPutBytes_keeps ?_ (List.Subset.trans (by decide) hT)
    exact hy1
  · split
    · exact hy1
    · refine stnInput_keeps ?_ (List.Subset.trans (by decide) hT)
      exact hy1

theorem canErrAdd_keeps {T : List Part} {s0 : State} {s : State} {p : Nat} {tx : Nat} {rx : Nat} (hs : Keeps T s0 s)
    (hT : [.regs] ⊆ T) :
    Keeps T s0 (State.canErrAdd s p tx rx) := by
  delta State.canErrAdd
  refine canConfine_keeps ?_ (List.Subset.trans (by decide) hT)
  refine setF_keeps ?_ (List.Subset.trans (by decide) hT)
  refine setF_keeps ?_ (List.Subset.trans (by decide) hT)
  exact hs

theorem canNoFd_keeps {T : List Part} {s0 : State} {s : State} {p : Nat} {m : Nat} {id : Nat} (hs : Keeps T s0 s)
    (hT : [.regs, .can] ⊆ T) :
    Keeps T s0 (State.canNoFd s p m id) := by
  delta State.canNoFd
  refine keeps_ite ?_ ?_
  · refine canMod_keeps ?_ (List.Subset.trans (by decide) hT)
    refine canBump_keeps ?_ (List.Subset.trans (by decide) hT)
    exact hs
  · extract_lets +onlyGivenNames y1
    have hy1 : Keeps T s0 y1 := by
      unfold y1
      refine wr_keeps ?_ (List.Subset.trans (by decide) hT)
      refine canBump_keeps ?_ (List.Subset.trans (by decide) hT)
      exact hs
    refine keeps_ite ?_ ?_
    · refine canErrAdd_keeps ?_ (List.Subset.trans (by decide) hT)
      exact hy1
    · exact hy1

theorem canTake_keeps {T : List Part} {s0 : State} {s : State} {f : CanFrame} {m : Nat} {k : State → State} (hs : Keeps T s0 s) (hk : ∀ x, Keeps T s0 x → Keeps T s0 (k x))
    (hT : [.regs, .tbl, .items, .icu, .evr, .can, .free] ⊆ T) :
    Keeps T s0 (State.canTake s f m k) := by
  delta State.canTake
  extract_lets +onlyGivenNames y1
  refine keeps_ite ?_ ?_
  · refine canNoFd_keeps ?_ (List.Subset.trans (by decide) hT)
    exact hs
  · extract_lets +onlyGivenNames y2
    have hy2 : Keeps T s0 y2 := by
      unfold y2
      refine canMod_keeps ?_ (List.Subset.trans (by decide) hT)
      refine canRxOk_keeps ?_ (List.Subset.trans (by decide) hT)
      exact hs
    refine keeps_ite ?_ ?_
    · refine canBump_keeps ?_ (List.Subset.trans (by decide) hT)
      exact hy2
    · refine keeps_ite ?_ ?_
      · refine keeps_ite ?_ ?_
        · exact hy2
        · refine raiseEv_keeps ?_ (List.Subset.trans (by decide) hT)
          refine canClash_keeps ?_ (List.Subset.trans (by decide) hT)
          exact hy2
      · refine hk _ ?_
        exact hy2

theorem canRx_keeps {T : List Part} {s0 : State} {s : State} {f : CanFrame} {k : State → State} (hs : Keeps T s0 s) (hk : ∀ x, Keeps T s0 x → Keeps T s0 (k x))
    (hT : [.regs, .tbl, .items, .icu, .evr, .can, .free] ⊆ T) :
    Keeps T s0 (State.canRx s f k) := by
  delta State.canRx
  extract_lets +onlyGivenNames y1
  extract_lets +onlyGivenNames y2
  refine keeps_ite ?_ ?_
  · exact hs
  · refine tailEnd_keeps ?_ (List.Subset.trans (by decide) hT)
    refine canTake_keeps ?_ (fun x hx => ?_) (List.Subset.trans (by decide) hT)
    · exact hs
    · refine hk _ ?_
      exact hx

theorem canObjRx_keeps {T : List Part} {s0 : State} {s : State} {f : CanFrame} (hs : Keeps T s0 s)
    (hT : [.regs, .tbl, .mbx, .items, .icu, .evr, .can, .dio, .dev] ⊆ T) :
    Keeps T s0 (State.canObjRx s f) := by
  delta State.canObjRx
  extract_lets +onlyGivenNames y1
  refine keeps_ite ?_ ?_
  · exact hs
  · split
    · refine canBump_keeps ?_ (List.Subset.trans (by decide) hT)
      exact hs
    · refine keeps_ite ?_ ?_
      · refine canAccept_keeps ?_ (List.Subset.trans (by decide) hT)
        exact hs
      · refine canBump_keeps ?_ (List.Subset.trans (by decide) hT)
        exact hs

theorem execCanFrameRx_keeps {T : List Part} {s0 : State} {f : CanFrame} {s : State} (hs : Keeps T s0 s)
    (hT : [.regs, .tbl, .mbx, .items, .icu, .evr, .can, .dio, .dev, .free] ⊆ T) :
    KeepsO T s0 (execCanFrameRx f s) := by
  delta execCanFrameRx
  refine keepsO_next ?_
  refine canRx_keeps ?_ (fun x hx => ?_) (List.Subset.trans (by decide) hT)
  · exact hs
  · refine canObjRx_keeps ?_ (List.Subset.trans (by decide) hT)
    exact hx

theorem privMove_keeps {T : List Part} {s0 : State} {s : State} {p : Nat} (hs : Keeps T s0 s)
    (hT : [.regs, .tbl, .items, .icu, .evr, .can] ⊆ T) :
    Keeps T s0 (State.privMove s p) := by
  delta State.privMove
  extract_lets +onlyGivenNames y1
  extract_lets +onlyGivenNames y2
  extract_lets +onlyGivenNames y3
  have hy3 : Keeps T s0 y3 := by
    unfold y3
    refine canMod_keeps ?_ (List.Subset.trans (by decide) hT)
    refine canMod_keeps ?_ (List.Subset.trans (by decide) hT)
    exact hs
  refine keeps_foldl ?_ (fun a e ha => ?_)
  · exact hy3
  · refine raiseEv_keeps ?_ (List.Subset.trans (by decide) hT)
    refine canBump_keeps ?_ (List.Subset.trans (by decide) hT)
    exact ha

theorem canOut_keeps {T : List Part} {s0 : State} {s : State} {p : Nat} {item : Nat} {ide : Bool} {fdf : Bool} {brs : Bool} {id : Nat} {d : List Byte} {sof : Nat × Nat} (hs : Keeps T s0 s)
    (hT : [.regs, .tbl, .mbx, .items, .icu, .evr, .can, .dio, .dev, .sent, .free] ⊆ T) :
    Keeps T s0 (State.canOut s p item ide fdf brs id d sof) := by
  delta State.canOut
  extract_lets +onlyGivenNames y1
  have hy1 : Keeps T s0 y1 := by
    unfold y1
    refine tailEnd_keeps ?_ (List.Subset.trans (by decide) hT)
    refine canBump_keeps ?_ (List.Subset.trans (by decide) hT)
    exact hs
  refine keeps_ite ?_ ?_
  · extract_lets +onlyGivenNames y2
    refine canObjRx_keeps ?_ (List.Subset.trans (by decide) hT)
    refine canRxOk_keeps ?_ (List.Subset.trans (by decide) hT)
    exact hy1
  · extract_lets +onlyGivenNames y3
    refine emit_keeps ?_ (List.Subset.trans (by decide) hT)
    refine canConfine_keeps ?_ (List.Subset.trans (by decide) hT)
    refine setF_keeps ?_ (List.Subset.trans (by decide) hT)
    exact hy1

theorem canTdc_keeps {T : List Part} {s0 : State} {s : State} {p : Nat} {edges : List Nat} (hs : Keeps T s0 s)
    (hT : [.regs] ⊆ T) :
    Keeps T s0 (State.canTdc s p edges) := by
  delta State.canTdc
  split
  · exact hs
  · refine setB_keeps ?_ (List.Subset.trans (by decide) hT)
    refine setF_keeps ?_ (List.Subset.trans (by decide) hT)
    exact hs

theorem canSent_keeps {T : List Part} {s0 : State} {s : State} {p : Nat} {item : Nat} {sof : Nat × Nat} {edges : List Nat} {ns : Nat} (hs : Keeps T s0 s)
    (hT : [.regs, .tbl, .mbx, .items, .icu, .evr, .can, .dio, .dev, .sent, .free] ⊆ T) :
    Keeps T s0 (State.canSent s p item sof edges ns) := by
  delta State.canSent
  extract_lets +onlyGivenNames y1
  refine keeps_ite ?_ ?_
  · exact hs
  · refine keeps_ite ?_ ?_
    · split
      · exact hs
      · extract_lets +onlyGivenNames y2
        refine canOut_keeps ?_ (List.Subset.trans (by decide) hT)
        refine canMod_keeps ?_ (List.Subset.trans (by decide) hT)
        exact hs
    · refine keeps_ite ?_ ?_
      · split
        · exact hs
        · extract_lets +onlyGivenNames y3
          extract_lets +onlyGivenNames y4
          have hy4 : Keeps T s0 y4 := by
            unfold y4
            refine wr_keeps ?_ (List.Subset.trans (by decide) hT)
            refine canMod_keeps ?_ (List.Subset.trans (by decide) hT)
            exact hs
          refine canOut_keeps ?_ (List.Subset.trans (by decide) hT)
          refine canBump_keeps ?_ (List.Subset.trans (by decide) hT)
          exact hy4
      · split
        · exact hs
        · extract_lets +onlyGivenNames y5
          have hy5 : Keeps T s0 y5 := by
            unfold y5
            refine canWithdraw_keeps ?_ (List.Subset.trans (by decide) hT)
            exact hs
          extract_lets +onlyGivenNames y6
          have hy6 : Keeps T s0 y6 := by
            unfold y6
            refine tset_keeps ?_ (List.Subset.trans (by decide) hT)
            refine twr_keeps ?_ (List.Subset.trans (by decide) hT)
            refine twr_keeps ?_ (List.Subset.trans (by decide) hT)
            refine twr_keeps ?_ (List.Subset.trans (by decide) hT)
            exact hy5
          extract_lets +onlyGivenNames y7
          extract_lets +onlyGivenNames y8
          extract_lets +onlyGivenNames y9
          have hy9 : Keeps T s0 y9 := by
            unfold y9
            refine keeps_ite ?_ ?_
            · refine canTdc_keeps ?_ (List.Subset.trans (by decide) hT)
              exact hy6
            · exact hy6
          refine canOut_keeps ?_ (List.Subset.trans (by decide) hT)
          exact hy9

theorem execCanFrameTxDone_keeps {T : List Part} {s0 : State} {p : Nat} {item : Nat} {sofSec : Nat} {sofNs : Nat} {edges : List Nat} {ns : Nat} {s : State} (hs : Keeps T s0 s)
    (hT : [.regs, .tbl, .mbx, .items, .icu, .evr, .can, .dio, .dev, .sent, .free] ⊆ T) :
    KeepsO T s0 (execCanFrameTxDone p item sofSec sofNs edges ns s) := by
  delta execCanFrameTxDone
  refine keepsO_next ?_
  refine canSent_keeps ?_ (List.Subset.trans (by decide) hT)
  exact hs

theorem canErrStep_keeps {T : List Part} {s0 : State} {s : State} {e : CanErr} (hs : Keeps T s0 s)
    (hT : [.regs] ⊆ T) :
    Keeps T s0 (State.canErrStep s e) := by
  delta State.canErrStep
  refine keeps_ite ?_ ?_
  · extract_lets +onlyGivenNames y1
    refine canErrAdd_keeps ?_ (List.Subset.trans (by decide) hT)
    exact hs
  · refine canErrAdd_keeps ?_ (List.Subset.trans (by decide) hT)
    exact hs

theorem canError_keeps {T : List Part} {s0 : State} {s : State} {e : CanErr} (hs : Keeps T s0 s)
    (hT : [.regs, .tbl, .can] ⊆ T) :
    Keeps T s0 (State.canError s e) := by
  delta State.canError
  extract_lets +onlyGivenNames y1
  refine keeps_ite ?_ ?_
  · exact hs
  · extract_lets +onlyGivenNames y2
    have hy2 : Keeps T s0 y2 := by
      unfold y2
      refine wr_keeps ?_ (List.Subset.trans (by decide) hT)
      refine canBump_keeps ?_ (List.Subset.trans (by decide) hT)
      exact hs
    extract_lets +onlyGivenNames y3
    have hy3 : Keeps T s0 y3 := by
      unfold y3
      refine keeps_ite ?_ ?_
      · refine canErrStep_keeps ?_ (List.Subset.trans (by decide) hT)
        exact hy2
      · exact hy2
    refine keeps_ite ?_ ?_
    · exact hy3
    · split
      · refine keeps_ite ?_ ?_
        · refine canMod_keeps ?_ (List.Subset.trans (by decide) hT)
          exact hy3
        · refine keeps_ite ?_ ?_
          · refine canMod_keeps ?_ (List.Subset.trans (by decide) hT)
            exact hy3
          · refine tset_keeps ?_ (List.Subset.trans (by decide) hT)
            exact hy3
      · refine canMod_keeps ?_ (List.Subset.trans (by decide) hT)
        exact hy3

theorem execCanError_keeps {T : List Part} {s0 : State} {e : CanErr} {s : State} (hs : Keeps T s0 s)
    (hT : [.regs, .tbl, .can] ⊆ T) :
    KeepsO T s0 (execCanError e s) := by
  delta execCanError
  refine keepsO_next ?_
  refine canError_keeps ?_ (List.Subset.trans (by decide) hT)
  exact hs

theorem execErrPassive_keeps {T : List Part} {s0 : State} {p : Nat} {s : State} (hs : Keeps T s0 s)
    (hT : [.regs, .tbl, .items, .icu, .evr] ⊆ T) :
    KeepsO T s0 (execErrPassive p s) := by
  delta execErrPassive
  refine keepsO_next ?_
  refine keeps_ite ?_ ?_
  · refine raiseEv_keeps ?_ (List.Subset.trans (by decide) hT)
    refine canBump_keeps ?_ (List.Subset.trans (by decide) hT)
    refine setF_keeps ?_ (List.Subset.trans (by decide) hT)
    exact hs
  · exact hs

theorem boffZero_keeps {T : List Part} {s0 : State} {s : State} {p : Nat} (hs : Keeps T s0 s)
    (hT : [.regs, .can] ⊆ T) :
    Keeps T s0 (State.boffZero s p) := by
  delta State.boffZero
  refine setF_keeps ?_ (List.Subset.trans (by decide) hT)
  refine canMod_keeps ?_ (List.Subset.trans (by decide) hT)
  exact hs

theorem canBusOff_keeps {T : List Part} {s0 : State} {s : State} {p : Nat} (hs : Keeps T s0 s)
    (hT : [.regs, .tbl, .items, .icu, .evr, .can] ⊆ T) :
    Keeps T s0 (State.canBusOff s p) := by
  delta State.canBusOff
  extract_lets +onlyGivenNames y1
  have hy1 : Keeps T s0 y1 := by
    unfold y1
    refine boffZero_keeps ?_ (List.Subset.trans (by decide) hT)
    refine canBump_keeps ?_ (List.Subset.trans (by decide) hT)
    refine setF_keeps ?_ (List.Subset.trans (by decide) hT)
    exact hs
  refine privMove_keeps ?_ (List.Subset.trans (by decide) hT)
  refine raiseEv_keeps ?_ (List.Subset.trans (by decide) hT)
  exact hy1

theorem execBusOff_keeps {T : List Part} {s0 : State} {p : Nat} {s : State} (hs : Keeps T s0 s)
    (hT : [.regs, .tbl, .items, .icu, .evr, .can] ⊆ T) :
    KeepsO T s0 (execBusOff p s) := by
  delta execBusOff
  refine keepsO_next ?_
  refine keeps_ite ?_ ?_
  · refine canBusOff_keeps ?_ (List.Subset.trans (by decide) hT)
    exact hs
  · exact hs

theorem execBoffRecovered_keeps {T : List Part} {s0 : State} {p : Nat} {s : State} (hs : Keeps T s0 s)
    (hT : [.regs, .tbl, .items, .icu, .evr, .can] ⊆ T) :
    KeepsO T s0 (execBoffRecovered p s) := by
  delta execBoffRecovered
  refine keepsO_next ?_
  refine keeps_ite ?_ ?_
  · refine raiseEv_keeps ?_ (List.Subset.trans (by decide) hT)
    refine canConfine_keeps ?_ (List.Subset.trans (by decide) hT)
    refine boffZero_keeps ?_ (List.Subset.trans (by decide) hT)
    refine wr_keeps ?_ (List.Subset.trans (by decide) hT)
    refine setF_keeps ?_ (List.Subset.trans (by decide) hT)
    exact hs
  · exact hs

theorem execIdClash_keeps {T : List Part} {s0 : State} {p : Nat} {item : Nat} {s : State} (hs : Keeps T s0 s)
    (hT : [.regs, .tbl, .items, .icu, .evr, .can] ⊆ T) :
    KeepsO T s0 (execIdClash p item s) := by
  delta execIdClash
  refine keepsO_next ?_
  refine keeps_ite ?_ ?_
  · exact hs
  · refine keeps_ite ?_ ?_
    · refine keeps_ite ?_ ?_
      · exact hs
      · extract_lets +onlyGivenNames y1
        have hy1 : Keeps T s0 y1 := by
          unfold y1
          refine canMod_keeps ?_ (List.Subset.trans (by decide) hT)
          exact hs
        refine raiseEv_keeps ?_ (List.Subset.trans (by decide) hT)
        refine canClash_keeps ?_ (List.Subset.trans (by decide) hT)
        refine canBump_keeps ?_ (List.Subset.trans (by decide) hT)
        exact hy1
    · refine keeps_ite ?_ ?_
      · refine keeps_ite ?_ ?_
        · exact hs
        · refine privMove_keeps ?_ (List.Subset.trans (by decide) hT)
          refine raiseEv_keeps ?_ (List.Subset.trans (by decide) hT)
          refine canClash_keeps ?_ (List.Subset.trans (by decide) hT)
          refine canBump_keeps ?_ (List.Subset.trans (by decide) hT)
          exact hs
      · refine keeps_ite ?_ ?_
        · exact hs
        · extract_lets +onlyGivenNames y2
          have hy2 : Keeps T s0 y2 := by
            unfold y2
            refine tset_keeps ?_ (List.Subset.trans (by decide) hT)
            refine canWithdraw_keeps ?_ (List.Subset.trans (by decide) hT)
            exact hs
          refine raiseEv_keeps ?_ (List.Subset.trans (by decide) hT)
          refine canClash_keeps ?_ (List.Subset.trans (by decide) hT)
          refine canBump_keeps ?_ (List.Subset.trans (by decide) hT)
          exact hy2

theorem execIdClashSuspect_keeps {T : List Part} {s0 : State} {p : Nat} {id : Nat} {s : State} (hs : Keeps T s0 s)
    (hT : [.regs, .tbl, .items, .icu, .evr, .can] ⊆ T) :
    KeepsO T s0 (execIdClashSuspect p id s) := by
  delta execIdClashSuspect
  refine keepsO_next ?_
  split
  · exact hs
  · refine keeps_ite ?_ ?_
    · exact hs
    · extract_lets +onlyGivenNames y1
      have hy1 : Keeps T s0 y1 := by
        unfold y1
        refine canMod_keeps ?_ (List.Subset.trans (by decide) hT)
        exact hs
      refine raiseEv_keeps ?_ (List.Subset.trans (by decide) hT)
      refine canClash_keeps ?_ (List.Subset.trans (by decide) hT)
      refine canBump_keeps ?_ (List.Subset.trans (by decide) hT)
      exact hy1

theorem sleepCmd_keeps {T : List Part} {s0 : State} {p : Nat} {s : State} (hs : Keeps T s0 s)
    (hT : [.regs, .tbl, .items, .icu, .evr, .can] ⊆ T) :
    Keeps T s0 (sleepCmd p s) := by
  delta sleepCmd
  refine keeps_ite ?_ ?_
  · exact hs
  · refine privMove_keeps ?_ (List.Subset.trans (by decide) hT)
    refine canMod_keeps ?_ (List.Subset.trans (by decide) hT)
    refine tailFrom_keeps ?_ (List.Subset.trans (by decide) hT)
    exact hs

theorem execSleep_keeps {T : List Part} {s0 : State} {p : Nat} {s : State} (hs : Keeps T s0 s)
    (hT : [.regs, .tbl, .items, .icu, .evr, .can] ⊆ T) :
    KeepsO T s0 (execSleep p s) := by
  delta execSleep
  refine keepsO_next ?_
  refine sleepCmd_keeps ?_ (List.Subset.trans (by decide) hT)
  exact hs

theorem canWake_keeps {T : List Part} {s0 : State} {s : State} {p : Nat} (hs : Keeps T s0 s)
    (hT : [.regs, .tbl, .items, .icu, .evr, .can] ⊆ T) :
    Keeps T s0 (State.canWake s p) := by
  delta State.canWake
  refine keeps_ite ?_ ?_
  · refine raiseEv_keeps ?_ (List.Subset.trans (by decide) hT)
    refine canMod_keeps ?_ (List.Subset.trans (by decide) hT)
    refine canRefLost_keeps ?_ (List.Subset.trans (by decide) hT)
    exact hs
  · exact hs

theorem wakeCmd_keeps {T : List Part} {s0 : State} {p : Nat} {s : State} (hs : Keeps T s0 s)
    (hT : [.regs, .tbl, .items, .icu, .evr, .can] ⊆ T) :
    Keeps T s0 (wakeCmd p s) := by
  delta wakeCmd
  refine canWake_keeps ?_ (List.Subset.trans (by decide) hT)
  exact hs

theorem execWake_keeps {T : List Part} {s0 : State} {p : Nat} {s : State} (hs : Keeps T s0 s)
    (hT : [.regs, .tbl, .items, .icu, .evr, .can] ⊆ T) :
    KeepsO T s0 (execWake p s) := by
  delta execWake
  refine keepsO_next ?_
  refine wakeCmd_keeps ?_ (List.Subset.trans (by decide) hT)
  exact hs

theorem execBusWake_keeps {T : List Part} {s0 : State} {p : Nat} {domNs : Nat} {f : Option CanFrame} {s : State} (hs : Keeps T s0 s)
    (hT : [.regs, .tbl, .items, .icu, .evr, .can] ⊆ T) :
    KeepsO T s0 (execBusWake p domNs f s) := by
  delta execBusWake
  refine keepsO_next ?_
  refine keeps_ite ?_ ?_
  · exact hs
  · refine keeps_ite ?_ ?_
    · split
      · exact hs
      · refine keeps_ite ?_ ?_
        · refine canWake_keeps ?_ (List.Subset.trans (by decide) hT)
          exact hs
        · exact hs
    · refine keeps_ite ?_ ?_
      · refine canWake_keeps ?_ (List.Subset.trans (by decide) hT)
        exact hs
      · exact hs

theorem execCanIntegrated_keeps {T : List Part} {s0 : State} {p : Nat} {s : State} (hs : Keeps T s0 s)
    (hT : [.can] ⊆ T) :
    KeepsO T s0 (execCanIntegrated p s) := by
  delta execCanIntegrated
  refine keepsO_next ?_
  refine keeps_ite ?_ ?_
  · refine canMod_keeps ?_ (List.Subset.trans (by decide) hT)
    exact hs
  · exact hs

theorem canRetimed_keeps {T : List Part} {s0 : State} {s : State} {p : Nat} (hs : Keeps T s0 s)
    (hT : [.regs, .can] ⊆ T) :
    Keeps T s0 (State.canRetimed s p) := by
  delta State.canRetimed
  extract_lets +onlyGivenNames y1
  have hy1 : Keeps T s0 y1 := by
    unfold y1
    refine canMod_keeps ?_ (List.Subset.trans (by decide) hT)
    refine tailFrom_keeps ?_ (List.Subset.trans (by decide) hT)
    exact hs
  refine keeps_ite ?_ ?_
  · refine boffZero_keeps ?_ (List.Subset.trans (by decide) hT)
    exact hy1
  · exact hy1

theorem canObjWritten_keeps {T : List Part} {s0 : State} {s : State} {p : Nat} {o : Nat} (hs : Keeps T s0 s)
    (hT : [.tbl, .can] ⊆ T) :
    Keeps T s0 (State.canObjWritten s p o) := by
  delta State.canObjWritten
  refine tset_keeps ?_ (List.Subset.trans (by decide) hT)
  refine tset_keeps ?_ (List.Subset.trans (by decide) hT)
  refine canWithdraw_keeps ?_ (List.Subset.trans (by decide) hT)
  exact hs

theorem canSoftReset_keeps {T : List Part} {s0 : State} {s : State} {p : Nat} (hs : Keeps T s0 s)
    (hT : [.regs, .tbl, .mbx, .items, .icu, .evr, .can, .dio, .dev] ⊆ T) :
    Keeps T s0 (State.canSoftReset s p) := by
  delta State.canSoftReset
  extract_lets +onlyGivenNames y1
  have hy1 : Keeps T s0 y1 := by
    unfold y1
    refine keeps_foldl ?_ (fun a e ha => ?_)
    · exact hs
    · refine tset_keeps ?_ (List.Subset.trans (by decide) hT)
      exact ha
  extract_lets +onlyGivenNames y2
  have hy2 : Keeps T s0 y2 := by
    unfold y2
    refine canMod_keeps ?_ (List.Subset.trans (by decide) hT)
    exact hy1
  extract_lets +onlyGivenNames y3
  have hy3 : Keeps T s0 y3 := by
    unfold y3
    refine canConfine_keeps ?_ (List.Subset.trans (by decide) hT)
    refine boffZero_keeps ?_ (List.Subset.trans (by decide) hT)
    refine setF_keeps ?_ (List.Subset.trans (by decide) hT)
    refine wr_keeps ?_ (List.Subset.trans (by decide) hT)
    exact hy2
  refine privMove_keeps ?_ (List.Subset.trans (by decide) hT)
  refine keeps_foldl ?_ (fun a e ha => ?_)
  · exact hy3
  · refine stnInit_keeps ?_ (List.Subset.trans (by decide) hT)
    exact ha

theorem boffShow_keeps {T : List Part} {s0 : State} {s : State} {p : Nat} (hs : Keeps T s0 s)
    (hT : [.regs, .can, .free] ⊆ T) :
    Keeps T s0 (State.boffShow s p) := by
  delta State.boffShow
  extract_lets +onlyGivenNames y1
  refine keeps_ite ?_ ?_
  · extract_lets +onlyGivenNames y2
    refine useFree_keeps ?_ (List.Subset.trans (by decide) hT)
    refine setF_keeps ?_ (List.Subset.trans (by decide) hT)
    refine canMod_keeps ?_ (List.Subset.trans (by decide) hT)
    exact hs
  · exact hs

theorem canTick_keeps {T : List Part} {s0 : State} {s : State} {p : Nat} (hs : Keeps T s0 s)
    (hT : [.regs] ⊆ T) :
    Keeps T s0 (State.canTick s p) := by
  delta State.canTick
  extract_lets +onlyGivenNames y1
  extract_lets +onlyGivenNames y2
  extract_lets +onlyGivenNames y3
  extract_lets +onlyGivenNames y4
  have hy4 : Keeps T s0 y4 := by
    unfold y4
    refine setB_keeps ?_ (List.Subset.trans (by decide) hT)
    refine setB_keeps ?_ (List.Subset.trans (by decide) hT)
    refine setB_keeps ?_ (List.Subset.trans (by decide) hT)
    refine setF_keeps ?_ (List.Subset.trans (by decide) hT)
    exact hs
  extract_lets +onlyGivenNames y5
  extract_lets +onlyGivenNames y6
  extract_lets +onlyGivenNames y7
  refine wr_keeps ?_ (List.Subset.trans (by decide) hT)
  refine wr_keeps ?_ (List.Subset.trans (by decide) hT)
  refine wr_keeps ?_ (List.Subset.trans (by decide) hT)
  refine wr_keeps ?_ (List.Subset.trans (by decide) hT)
  refine wr_keeps ?_ (List.Subset.trans (by decide) hT)
  refine wr_keeps ?_ (List.Subset.trans (by decide) hT)
  refine wr_keeps ?_ (List.Subset.trans (by decide) hT)
  exact hy4

end Sys2Proof.Machine
end

