-- ==== Sys2Proof/Laws/KeepHost.lean ====
section
/-! SUPPORT. What each operation of Machine/Host.lean keeps: the canonical form, the queue, and the parts it does not name. -/

namespace Sys2Proof.Machine

theorem addNonce_keeps {T : List Part} {s0 : State} {s : State} {c : Nat} {n : Nat} (hs : Keeps T s0 s)
    (hT : [.host, .items] ⊆ T) :
    Keeps T s0 (State.addNonce s c n) := by
  delta State.addNonce
  extract_lets +onlyGivenNames y1
  refine hostMod_keeps ?_ (List.Subset.trans (by decide) hT)
  exact hs

theorem openSess_keeps {T : List Part} {s0 : State} {s : State} {o : KwpOpen} {i : Nat} (hs : Keeps T s0 s)
    (hT : [.host, .items, .sent] ⊆ T) :
    Keeps T s0 (State.openSess s o i) := by
  delta State.openSess
  extract_lets +onlyGivenNames y1
  extract_lets +onlyGivenNames y2
  have hy2 : Keeps T s0 y2 := by
    unfold y2
    refine hostMod_keeps ?_ (List.Subset.trans (by decide) hT)
    exact hs
  extract_lets +onlyGivenNames y3
  extract_lets +onlyGivenNames y4
  have hy4 : Keeps T s0 y4 := by
    unfold y4
    refine sessMod_keeps ?_ (List.Subset.trans (by decide) hT)
    exact hy2
  refine say_keeps ?_ (List.Subset.trans (by decide) hT)
  exact hy4

theorem execKwpOpen_keeps {T : List Part} {s0 : State} {o : KwpOpen} {s : State} (hs : Keeps T s0 s)
    (hT : [.regs, .tbl, .host, .items, .icu, .evr, .sent] ⊆ T) :
    KeepsO T s0 (execKwpOpen o s) := by
  delta execKwpOpen
  refine keepsO_next ?_
  refine keeps_ite ?_ ?_
  · exact hs
  · refine keeps_ite ?_ ?_
    · refine bump_keeps ?_ (List.Subset.trans (by decide) hT)
      exact hs
    · refine keeps_ite ?_ ?_
      · refine authFail_keeps ?_ (List.Subset.trans (by decide) hT)
        exact hs
      · refine keeps_ite ?_ ?_
        · refine bump_keeps ?_ (List.Subset.trans (by decide) hT)
          exact hs
        · extract_lets +onlyGivenNames y1
          have hy1 : Keeps T s0 y1 := by
            unfold y1
            refine addNonce_keeps ?_ (List.Subset.trans (by decide) hT)
            refine bump_keeps ?_ (List.Subset.trans (by decide) hT)
            exact hs
          refine keeps_ite ?_ ?_
          · refine say_keeps ?_ (List.Subset.trans (by decide) hT)
            exact hy1
          · split
            · refine say_keeps ?_ (List.Subset.trans (by decide) hT)
              exact hy1
            · refine openSess_keeps ?_ (List.Subset.trans (by decide) hT)
              exact hy1

theorem execSessionOpeningTimeout_keeps {T : List Part} {s0 : State} {i : Nat} {s : State} (hs : Keeps T s0 s)
    (hT : [.regs, .tbl, .host, .items, .icu, .evr] ⊆ T) :
    KeepsO T s0 (execSessionOpeningTimeout i s) := by
  delta execSessionOpeningTimeout
  refine keepsO_next ?_
  refine keeps_ite ?_ ?_
  · refine closeSess_keeps ?_ (List.Subset.trans (by decide) hT)
    exact hs
  · exact hs

theorem execSessionIdleTimeout_keeps {T : List Part} {s0 : State} {i : Nat} {s : State} (hs : Keeps T s0 s)
    (hT : [.regs, .tbl, .host, .items, .icu, .evr] ⊆ T) :
    KeepsO T s0 (execSessionIdleTimeout i s) := by
  delta execSessionIdleTimeout
  refine keepsO_next ?_
  refine keeps_ite ?_ ?_
  · refine closeSess_keeps ?_ (List.Subset.trans (by decide) hT)
    exact hs
  · exact hs

theorem execDormancyTimeout_keeps {T : List Part} {s0 : State} {i : Nat} {s : State} (hs : Keeps T s0 s)
    (hT : [.regs, .tbl, .host, .items, .icu, .evr] ⊆ T) :
    KeepsO T s0 (execDormancyTimeout i s) := by
  delta execDormancyTimeout
  refine keepsO_next ?_
  refine keeps_ite ?_ ?_
  · refine closeSess_keeps ?_ (List.Subset.trans (by decide) hT)
    exact hs
  · exact hs

theorem kick_keeps {T : List Part} {s0 : State} {writer : Nat} {s : State} (hs : Keeps T s0 s)
    (hT : [.regs, .tbl, .host, .items, .icu, .evr] ⊆ T) :
    Keeps T s0 (kick writer s).1 := by
  delta kick
  extract_lets +onlyGivenNames y1
  refine keeps_iteP ?_ ?_
  · refine keeps_fst ?_
    exact hs
  · refine keeps_fst ?_
    refine closeSess_keeps ?_ (List.Subset.trans (by decide) hT)
    exact hs

theorem execKick_keeps {T : List Part} {s0 : State} {writer : Nat} {s : State} (hs : Keeps T s0 s)
    (hT : [.regs, .tbl, .host, .items, .icu, .evr] ⊆ T) :
    KeepsO T s0 (execKick writer s) := by
  delta execKick
  refine keepsO_next ?_
  refine kick_keeps ?_ (List.Subset.trans (by decide) hT)
  exact hs

theorem claim_keeps {T : List Part} {s0 : State} {t : Nat} {s : State} (hs : Keeps T s0 s)
    (hT : [.regs, .tbl, .items, .icu] ⊆ T) :
    Keeps T s0 (claim t s).1 := by
  delta claim
  extract_lets +onlyGivenNames y1
  refine keeps_iteP ?_ ?_
  · refine keeps_fst ?_
    refine bump_keeps ?_ (List.Subset.trans (by decide) hT)
    exact hs
  · extract_lets +onlyGivenNames y2
    extract_lets +onlyGivenNames y3
    have hy3 : Keeps T s0 y3 := by
      unfold y3
      refine srcSet_keeps ?_ (List.Subset.trans (by decide) hT)
      refine srcSet_keeps ?_ (List.Subset.trans (by decide) hT)
      refine srcSet_keeps ?_ (List.Subset.trans (by decide) hT)
      refine srcSet_keeps ?_ (List.Subset.trans (by decide) hT)
      exact hs
    extract_lets +onlyGivenNames y4
    extract_lets +onlyGivenNames y5
    have hy5 : Keeps T s0 y5 := by
      unfold y5
      refine keeps_icu ?_ (List.Subset.trans (by decide) hT)
      exact hy3
    refine keeps_fst ?_
    refine icuEval_keeps ?_ (List.Subset.trans (by decide) hT)
    exact hy5

theorem execRead_keeps {T : List Part} {s0 : State} {k : Kwp} {addr : Nat} {s : State} (hs : Keeps T s0 s)
    (hT : [.regs, .tbl, .host, .items, .icu, .evr, .sent, .free] ⊆ T) :
    KeepsO T s0 (execRead k addr s) := by
  delta execRead
  refine keepsO_next ?_
  refine request_keeps ?_ (fun x hx => ?_) (List.Subset.trans (by decide) hT)
  · exact hs
  · extract_lets +onlyGivenNames y1
    refine keeps_ite ?_ ?_
    · refine respond_keeps ?_ (List.Subset.trans (by decide) hT)
      exact hx
    · refine keeps_ite ?_ ?_
      · refine respond_keeps ?_ (List.Subset.trans (by decide) hT)
        exact hx
      · refine keeps_ite ?_ ?_
        · refine keeps_ite ?_ ?_
          · extract_lets +onlyGivenNames y2
            have hy2 : Keeps T s0 y2.1 := by
              unfold y2
              refine claim_keeps ?_ (List.Subset.trans (by decide) hT)
              exact hx
            refine respond_keeps ?_ (List.Subset.trans (by decide) hT)
            exact hy2
          · refine respond_keeps ?_ (List.Subset.trans (by decide) hT)
            exact hx
        · refine respond_keeps ?_ (List.Subset.trans (by decide) hT)
          refine useFree_keeps ?_ (List.Subset.trans (by decide) hT)
          exact hx

theorem readWords_keeps {T : List Part} {s0 : State} {own : Bool} {a1 : Nat} {a2 : Nat} {a3 : State} (ha3 : Keeps T s0 a3)
    (hT : [.regs, .tbl, .items, .icu, .free] ⊆ T) :
    Keeps T s0 (readWords own a1 a2 a3).1 := by
  induction a1 generalizing a2 a3 with
  | zero => exact ha3
  | succ n ih =>
    simp only [readWords]
    split
    · split
      · exact ih (claim_keeps ha3 (List.Subset.trans (by decide) hT))
      · exact ih ha3
    · exact ih (useFree_keeps ha3 (List.Subset.trans (by decide) hT))

theorem execReadBlock_keeps {T : List Part} {s0 : State} {k : Kwp} {addr : Nat} {cnt : Nat} {s : State} (hs : Keeps T s0 s)
    (hT : [.regs, .tbl, .host, .items, .icu, .evr, .sent, .free] ⊆ T) :
    KeepsO T s0 (execReadBlock k addr cnt s) := by
  delta execReadBlock
  refine keepsO_next ?_
  refine request_keeps ?_ (fun x hx => ?_) (List.Subset.trans (by decide) hT)
  · exact hs
  · extract_lets +onlyGivenNames y1
    refine keeps_ite ?_ ?_
    · refine respond_keeps ?_ (List.Subset.trans (by decide) hT)
      exact hx
    · refine keeps_ite ?_ ?_
      · refine respond_keeps ?_ (List.Subset.trans (by decide) hT)
        exact hx
      · extract_lets +onlyGivenNames y2
        extract_lets +onlyGivenNames y3
        extract_lets +onlyGivenNames y4
        have hy4 : Keeps T s0 y4.1 := by
          unfold y4
          refine readWords_keeps ?_ (List.Subset.trans (by decide) hT)
          exact hx
        refine respond_keeps ?_ (List.Subset.trans (by decide) hT)
        exact hy4

theorem execTableRead_keeps {T : List Part} {s0 : State} {k : Kwp} {tid : Nat} {cnt : Nat} {idx : Nat} {s : State} (hs : Keeps T s0 s)
    (hT : [.regs, .tbl, .host, .items, .icu, .evr, .sent] ⊆ T) :
    KeepsO T s0 (execTableRead k tid cnt idx s) := by
  delta execTableRead
  refine keepsO_next ?_
  refine request_keeps ?_ (fun x hx => ?_) (List.Subset.trans (by decide) hT)
  · exact hs
  · split
    · refine respond_keeps ?_ (List.Subset.trans (by decide) hT)
      exact hx
    · refine keeps_ite ?_ ?_
      · refine respond_keeps ?_ (List.Subset.trans (by decide) hT)
        exact hx
      · refine keeps_ite ?_ ?_
        · refine respond_keeps ?_ (List.Subset.trans (by decide) hT)
          exact hx
        · refine keeps_ite ?_ ?_
          · refine respond_keeps ?_ (List.Subset.trans (by decide) hT)
            exact hx
          · refine keeps_ite ?_ ?_
            · extract_lets +onlyGivenNames y1
              have hy1 : Keeps T s0 y1 := by
                unfold y1
                refine sessMod_keeps ?_ (List.Subset.trans (by decide) hT)
                exact hx
              refine hostMod_keeps ?_ (List.Subset.trans (by decide) hT)
              exact hy1
            · refine respond_keeps ?_ (List.Subset.trans (by decide) hT)
              exact hx

theorem execWrite_keeps {T : List Part} {s0 : State} {k : Kwp} {addr : Nat} {v : Word} {s : State} (hs : Keeps T s0 s)
    (hT : [.regs, .tbl, .host, .items, .icu, .evr, .sent] ⊆ T) :
    KeepsO T s0 (execWrite k addr v s) := by
  delta execWrite
  refine keepsO_next ?_
  refine request_keeps ?_ (fun x hx => ?_) (List.Subset.trans (by decide) hT)
  · exact hs
  · extract_lets +onlyGivenNames y1
    split
    · refine hold_keeps ?_ (List.Subset.trans (by decide) hT)
      exact hx
    · refine respond_keeps ?_ (List.Subset.trans (by decide) hT)
      exact hx

theorem execWriteBlock_keeps {T : List Part} {s0 : State} {k : Kwp} {addr : Nat} {ws : List Word} {s : State} (hs : Keeps T s0 s)
    (hT : [.regs, .tbl, .host, .items, .icu, .evr, .sent] ⊆ T) :
    KeepsO T s0 (execWriteBlock k addr ws s) := by
  delta execWriteBlock
  refine keepsO_next ?_
  refine request_keeps ?_ (fun x hx => ?_) (List.Subset.trans (by decide) hT)
  · exact hs
  · extract_lets +onlyGivenNames y1
    extract_lets +onlyGivenNames y2
    refine keeps_ite ?_ ?_
    · refine respond_keeps ?_ (List.Subset.trans (by decide) hT)
      exact hx
    · refine keeps_ite ?_ ?_
      · refine respond_keeps ?_ (List.Subset.trans (by decide) hT)
        exact hx
      · refine keeps_ite ?_ ?_
        · refine respond_keeps ?_ (List.Subset.trans (by decide) hT)
          exact hx
        · split
          · refine hold_keeps ?_ (List.Subset.trans (by decide) hT)
            exact hx
          · refine respond_keeps ?_ (List.Subset.trans (by decide) hT)
            exact hx

theorem execTableWrite_keeps {T : List Part} {s0 : State} {k : Kwp} {tid : Nat} {idx : Nat} {ws : List Word} {s : State} (hs : Keeps T s0 s)
    (hT : [.regs, .tbl, .host, .items, .icu, .evr, .sent] ⊆ T) :
    KeepsO T s0 (execTableWrite k tid idx ws s) := by
  delta execTableWrite
  refine keepsO_next ?_
  refine request_keeps ?_ (fun x hx => ?_) (List.Subset.trans (by decide) hT)
  · exact hs
  · refine keeps_ite ?_ ?_
    · refine respond_keeps ?_ (List.Subset.trans (by decide) hT)
      exact hx
    · split
      · refine respond_keeps ?_ (List.Subset.trans (by decide) hT)
        exact hx
      · split
        · refine hold_keeps ?_ (List.Subset.trans (by decide) hT)
          exact hx
        · refine respond_keeps ?_ (List.Subset.trans (by decide) hT)
          exact hx

theorem command_keeps {T : List Part} {s0 : State} {k : Kwp} {code : Nat} {tag : Nat} {args : List Word} {s : State} (hs : Keeps T s0 s)
    (hT : [.regs, .tbl, .host, .items, .icu, .evr, .sent] ⊆ T) :
    Keeps T s0 (command k code tag args s) := by
  delta command
  refine request_keeps ?_ (fun x hx => ?_) (List.Subset.trans (by decide) hT)
  · exact hs
  · extract_lets +onlyGivenNames y1
    refine keeps_ite ?_ ?_
    · refine respond_keeps ?_ (List.Subset.trans (by decide) hT)
      exact hx
    · refine keeps_ite ?_ ?_
      · refine respond_keeps ?_ (List.Subset.trans (by decide) hT)
        exact hx
      · refine keeps_ite ?_ ?_
        · refine respond_keeps ?_ (List.Subset.trans (by decide) hT)
          exact hx
        · refine respond_keeps ?_ (List.Subset.trans (by decide) hT)
          refine hostMod_keeps ?_ (List.Subset.trans (by decide) hT)
          exact hx

theorem execCancel_keeps {T : List Part} {s0 : State} {k : Kwp} {tag : Nat} {args : List Word} {s : State} (hs : Keeps T s0 s)
    (hT : [.regs, .tbl, .host, .items, .icu, .evr, .sent] ⊆ T) :
    KeepsO T s0 (execCancel k tag args s) := by
  delta execCancel
  refine keepsO_next ?_
  refine command_keeps ?_ (List.Subset.trans (by decide) hT)
  exact hs

theorem execSolve_keeps {T : List Part} {s0 : State} {k : Kwp} {tag : Nat} {args : List Word} {s : State} (hs : Keeps T s0 s)
    (hT : [.regs, .tbl, .host, .items, .icu, .evr, .sent] ⊆ T) :
    KeepsO T s0 (execSolve k tag args s) := by
  delta execSolve
  refine keepsO_next ?_
  refine command_keeps ?_ (List.Subset.trans (by decide) hT)
  exact hs

theorem execAbort_keeps {T : List Part} {s0 : State} {k : Kwp} {tag : Nat} {args : List Word} {s : State} (hs : Keeps T s0 s)
    (hT : [.regs, .tbl, .host, .items, .icu, .evr, .sent] ⊆ T) :
    KeepsO T s0 (execAbort k tag args s) := by
  delta execAbort
  refine keepsO_next ?_
  refine command_keeps ?_ (List.Subset.trans (by decide) hT)
  exact hs

theorem execPrivReq_keeps {T : List Part} {s0 : State} {k : Kwp} {tag : Nat} {args : List Word} {s : State} (hs : Keeps T s0 s)
    (hT : [.regs, .tbl, .host, .items, .icu, .evr, .sent] ⊆ T) :
    KeepsO T s0 (execPrivReq k tag args s) := by
  delta execPrivReq
  refine keepsO_next ?_
  refine command_keeps ?_ (List.Subset.trans (by decide) hT)
  exact hs

theorem execCqRead_keeps {T : List Part} {s0 : State} {k : Kwp} {maxN : Nat} {s : State} (hs : Keeps T s0 s)
    (hT : [.regs, .tbl, .host, .items, .icu, .evr, .sent] ⊆ T) :
    KeepsO T s0 (execCqRead k maxN s) := by
  delta execCqRead
  refine keepsO_next ?_
  refine request_keeps ?_ (fun x hx => ?_) (List.Subset.trans (by decide) hT)
  · exact hs
  · refine keeps_ite ?_ ?_
    · refine respond_keeps ?_ (List.Subset.trans (by decide) hT)
      exact hx
    · extract_lets +onlyGivenNames y1
      refine respond_keeps ?_ (List.Subset.trans (by decide) hT)
      refine sessMod_keeps ?_ (List.Subset.trans (by decide) hT)
      exact hx

theorem execNotifyCfg_keeps {T : List Part} {s0 : State} {k : Kwp} {cnt : Nat} {dly : Nat} {mask : Nat} {us : Nat} {s : State} (hs : Keeps T s0 s)
    (hT : [.regs, .tbl, .host, .items, .icu, .evr, .sent] ⊆ T) :
    KeepsO T s0 (execNotifyCfg k cnt dly mask us s) := by
  delta execNotifyCfg
  refine keepsO_next ?_
  refine request_keeps ?_ (fun x hx => ?_) (List.Subset.trans (by decide) hT)
  · exact hs
  · refine keeps_ite ?_ ?_
    · refine respond_keeps ?_ (List.Subset.trans (by decide) hT)
      exact hx
    · refine respond_keeps ?_ (List.Subset.trans (by decide) hT)
      refine sessMod_keeps ?_ (List.Subset.trans (by decide) hT)
      exact hx

theorem sendNotify_keeps {T : List Part} {s0 : State} {i : Nat} {aggregate : Bool} {s : State} (hs : Keeps T s0 s)
    (hT : [.regs, .host, .items, .sent] ⊆ T) :
    Keeps T s0 (sendNotify i aggregate s) := by
  delta sendNotify
  extract_lets +onlyGivenNames y1
  extract_lets +onlyGivenNames y2
  extract_lets +onlyGivenNames y3
  have hy3 : Keeps T s0 y3 := by
    unfold y3
    refine sessMod_keeps ?_ (List.Subset.trans (by decide) hT)
    exact hs
  refine say_keeps ?_ (List.Subset.trans (by decide) hT)
  refine bump_keeps ?_ (List.Subset.trans (by decide) hT)
  exact hy3

theorem execNotifySend_keeps {T : List Part} {s0 : State} {i : Nat} {us : Nat} {s : State} (hs : Keeps T s0 s)
    (hT : [.regs, .host, .items, .sent] ⊆ T) :
    KeepsO T s0 (execNotifySend i us s) := by
  delta execNotifySend
  extract_lets +onlyGivenNames y1
  refine keepsO_next ?_
  refine keeps_ite ?_ ?_
  · refine sendNotify_keeps ?_ (List.Subset.trans (by decide) hT)
    exact hs
  · exact hs

theorem execWakeOnLan_keeps {T : List Part} {s0 : State} {i : Nat} {s : State} (hs : Keeps T s0 s)
    (hT : [.regs, .host, .items, .sent] ⊆ T) :
    KeepsO T s0 (execWakeOnLan i s) := by
  delta execWakeOnLan
  extract_lets +onlyGivenNames y1
  extract_lets +onlyGivenNames y2
  extract_lets +onlyGivenNames y3
  extract_lets +onlyGivenNames y4
  have hy4 : Keeps T s0 y4 := by
    unfold y4
    refine sessMod_keeps ?_ (List.Subset.trans (by decide) hT)
    exact hs
  refine keepsO_next ?_
  refine keeps_ite ?_ ?_
  · refine keeps_ite ?_ ?_
    · refine say_keeps ?_ (List.Subset.trans (by decide) hT)
      refine bump_keeps ?_ (List.Subset.trans (by decide) hT)
      refine sessMod_keeps ?_ (List.Subset.trans (by decide) hT)
      exact hy4
    · exact hy4
  · exact hs

theorem execDormant_keeps {T : List Part} {s0 : State} {k : Kwp} {sev : Nat} {mac : Nat} {s : State} (hs : Keeps T s0 s)
    (hT : [.regs, .tbl, .host, .items, .icu, .evr, .sent] ⊆ T) :
    KeepsO T s0 (execDormant k sev mac s) := by
  delta execDormant
  refine keepsO_next ?_
  refine request_keeps ?_ (fun x hx => ?_) (List.Subset.trans (by decide) hT)
  · exact hs
  · extract_lets +onlyGivenNames y1
    have hy1 : Keeps T s0 y1 := by
      unfold y1
      refine sessMod_keeps ?_ (List.Subset.trans (by decide) hT)
      exact hx
    extract_lets +onlyGivenNames y2
    have hy2 : Keeps T s0 y2 := by
      unfold y2
      refine keeps_ite ?_ ?_
      · refine hostMod_keeps ?_ (List.Subset.trans (by decide) hT)
        exact hy1
      · exact hy1
    refine respond_keeps ?_ (List.Subset.trans (by decide) hT)
    exact hy2

theorem execResume_keeps {T : List Part} {s0 : State} {k : Kwp} {us : Nat} {s : State} (hs : Keeps T s0 s)
    (hT : [.regs, .tbl, .host, .items, .icu, .evr, .sent] ⊆ T) :
    KeepsO T s0 (execResume k us s) := by
  delta execResume
  refine keepsO_next ?_
  refine request_keeps ?_ (fun x hx => ?_) (List.Subset.trans (by decide) hT)
  · exact hs
  · extract_lets +onlyGivenNames y1
    have hy1 : Keeps T s0 y1 := by
      unfold y1
      refine sessMod_keeps ?_ (List.Subset.trans (by decide) hT)
      exact hx
    extract_lets +onlyGivenNames y2
    have hy2 : Keeps T s0 y2 := by
      unfold y2
      refine sessMod_keeps ?_ (List.Subset.trans (by decide) hT)
      refine sendNotify_keeps ?_ (List.Subset.trans (by decide) hT)
      exact hy1
    extract_lets +onlyGivenNames y3
    have hy3 : Keeps T s0 y3 := by
      unfold y3
      refine keeps_ite ?_ ?_
      · refine hostMod_keeps ?_ (List.Subset.trans (by decide) hT)
        exact hy2
      · exact hy2
    refine respond_keeps ?_ (List.Subset.trans (by decide) hT)
    exact hy3

theorem execCloseReq_keeps {T : List Part} {s0 : State} {k : Kwp} {s : State} (hs : Keeps T s0 s)
    (hT : [.regs, .tbl, .host, .items, .icu, .evr, .sent] ⊆ T) :
    KeepsO T s0 (execCloseReq k s) := by
  delta execCloseReq
  refine keepsO_next ?_
  refine request_keeps ?_ (fun x hx => ?_) (List.Subset.trans (by decide) hT)
  · exact hs
  · refine closeSess_keeps ?_ (List.Subset.trans (by decide) hT)
    refine respond_keeps ?_ (List.Subset.trans (by decide) hT)
    exact hx

theorem execOwnReq_keeps {T : List Part} {s0 : State} {k : Kwp} {prio : Nat} {ovr : Nat} {s : State} (hs : Keeps T s0 s)
    (hT : [.regs, .tbl, .host, .items, .icu, .evr, .sent] ⊆ T) :
    KeepsO T s0 (execOwnReq k prio ovr s) := by
  delta execOwnReq
  refine keepsO_next ?_
  refine request_keeps ?_ (fun x hx => ?_) (List.Subset.trans (by decide) hT)
  · exact hs
  · extract_lets +onlyGivenNames y1
    have hy1 : Keeps T s0 y1 := by
      unfold y1
      refine sessMod_keeps ?_ (List.Subset.trans (by decide) hT)
      exact hx
    refine keeps_ite ?_ ?_
    · refine respond_keeps ?_ (List.Subset.trans (by decide) hT)
      exact hy1
    · refine keeps_ite ?_ ?_
      · refine respond_keeps ?_ (List.Subset.trans (by decide) hT)
        exact hy1
      · refine keeps_ite ?_ ?_
        · refine respond_keeps ?_ (List.Subset.trans (by decide) hT)
          exact hy1
        · refine keeps_ite ?_ ?_
          · refine respond_keeps ?_ (List.Subset.trans (by decide) hT)
            refine hostMod_keeps ?_ (List.Subset.trans (by decide) hT)
            exact hy1
          · refine holdOwn_keeps ?_ (List.Subset.trans (by decide) hT)
            exact hy1

theorem execOwnRenew_keeps {T : List Part} {s0 : State} {k : Kwp} {s : State} (hs : Keeps T s0 s)
    (hT : [.regs, .tbl, .host, .items, .icu, .evr, .sent] ⊆ T) :
    KeepsO T s0 (execOwnRenew k s) := by
  delta execOwnRenew
  refine keepsO_next ?_
  refine request_keeps ?_ (fun x hx => ?_) (List.Subset.trans (by decide) hT)
  · exact hs
  · refine keeps_ite ?_ ?_
    · refine holdOwn_keeps ?_ (List.Subset.trans (by decide) hT)
      exact hx
    · refine respond_keeps ?_ (List.Subset.trans (by decide) hT)
      exact hx

theorem execOwnHandover_keeps {T : List Part} {s0 : State} {k : Kwp} {dst : Nat} {s : State} (hs : Keeps T s0 s)
    (hT : [.regs, .tbl, .host, .items, .icu, .evr, .sent] ⊆ T) :
    KeepsO T s0 (execOwnHandover k dst s) := by
  delta execOwnHandover
  refine keepsO_next ?_
  refine request_keeps ?_ (fun x hx => ?_) (List.Subset.trans (by decide) hT)
  · exact hs
  · refine keeps_ite ?_ ?_
    · refine respond_keeps ?_ (List.Subset.trans (by decide) hT)
      exact hx
    · refine holdOwn_keeps ?_ (List.Subset.trans (by decide) hT)
      exact hx

theorem execOwnRelease_keeps {T : List Part} {s0 : State} {k : Kwp} {s : State} (hs : Keeps T s0 s)
    (hT : [.regs, .tbl, .host, .items, .icu, .evr, .sent] ⊆ T) :
    KeepsO T s0 (execOwnRelease k s) := by
  delta execOwnRelease
  refine keepsO_next ?_
  refine request_keeps ?_ (fun x hx => ?_) (List.Subset.trans (by decide) hT)
  · exact hs
  · refine keeps_ite ?_ ?_
    · refine holdOwn_keeps ?_ (List.Subset.trans (by decide) hT)
      exact hx
    · refine respond_keeps ?_ (List.Subset.trans (by decide) hT)
      exact hx

theorem stackReset_keeps {T : List Part} {s0 : State} {t : Nat} {s : State} (hs : Keeps T s0 s)
    (hT : [.regs, .tbl, .items, .icu] ⊆ T) :
    Keeps T s0 (stackReset t s) := by
  delta stackReset
  extract_lets +onlyGivenNames y1
  have hy1 : Keeps T s0 y1 := by
    unfold y1
    refine keeps_foldl ?_ (fun a e ha => ?_)
    · exact hs
    · refine srcSet_keeps ?_ (List.Subset.trans (by decide) hT)
      exact ha
  extract_lets +onlyGivenNames y2
  extract_lets +onlyGivenNames y3
  have hy3 : Keeps T s0 y3 := by
    unfold y3
    refine keeps_icu ?_ (List.Subset.trans (by decide) hT)
    exact hy1
  refine icuEval_keeps ?_ (List.Subset.trans (by decide) hT)
  refine setF_keeps ?_ (List.Subset.trans (by decide) hT)
  exact hy3

theorem ownerShown_keeps {T : List Part} {s0 : State} {s : State} (hs : Keeps T s0 s)
    (hT : [.regs, .tbl, .items, .icu, .evr] ⊆ T) :
    Keeps T s0 (ownerShown s) := by
  delta ownerShown
  extract_lets +onlyGivenNames y1
  extract_lets +onlyGivenNames y2
  have hy2 : Keeps T s0 y2 := by
    unfold y2
    refine keeps_foldl ?_ (fun a e ha => ?_)
    · exact hs
    · refine setF_keeps ?_ (List.Subset.trans (by decide) hT)
      exact ha
  refine raiseEv_keeps ?_ (List.Subset.trans (by decide) hT)
  refine bump_keeps ?_ (List.Subset.trans (by decide) hT)
  refine stackReset_keeps ?_ (List.Subset.trans (by decide) hT)
  exact hy2

theorem dormClose_keeps {T : List Part} {s0 : State} {s : State} (hs : Keeps T s0 s)
    (hT : [.regs, .tbl, .host, .items, .icu, .evr] ⊆ T) :
    Keeps T s0 (State.dormClose s) := by
  delta State.dormClose
  split
  · refine keeps_ite ?_ ?_
    · refine closeSess_keeps ?_ (List.Subset.trans (by decide) hT)
      exact hs
    · exact hs
  · exact hs

theorem noOwner_keeps {T : List Part} {s0 : State} {s : State} (hs : Keeps T s0 s)
    (hT : [.host, .items] ⊆ T) :
    Keeps T s0 (State.noOwner s) := by
  delta State.noOwner
  refine hostMod_keeps ?_ (List.Subset.trans (by decide) hT)
  exact hs

theorem newOwner_keeps {T : List Part} {s0 : State} {s : State} {i : Nat} {p : Nat} (hs : Keeps T s0 s)
    (hT : [.host, .items] ⊆ T) :
    Keeps T s0 (State.newOwner s i p) := by
  delta State.newOwner
  refine hostMod_keeps ?_ (List.Subset.trans (by decide) hT)
  exact hs

theorem resolveEnd_keeps {T : List Part} {s0 : State} {s : State} (hs : Keeps T s0 s)
    (hT : [.regs, .tbl, .host, .items, .icu, .evr, .sent] ⊆ T) :
    Keeps T s0 (resolveEnd s) := by
  delta resolveEnd
  refine keeps_ite ?_ ?_
  · refine noOwner_keeps ?_ (List.Subset.trans (by decide) hT)
    exact hs
  · split
    · refine noOwner_keeps ?_ (List.Subset.trans (by decide) hT)
      refine respondTo_keeps ?_ (List.Subset.trans (by decide) hT)
      exact hs
    · refine keeps_ite ?_ ?_
      · refine raiseEv_keeps ?_ (List.Subset.trans (by decide) hT)
        refine bump_keeps ?_ (List.Subset.trans (by decide) hT)
        refine noOwner_keeps ?_ (List.Subset.trans (by decide) hT)
        exact hs
      · exact hs

theorem resolveRenew_keeps {T : List Part} {s0 : State} {s : State} (hs : Keeps T s0 s)
    (hT : [.host, .items, .sent] ⊆ T) :
    Keeps T s0 (resolveRenew s) := by
  delta resolveRenew
  refine keeps_foldl ?_ (fun a e ha => ?_)
  · exact hs
  · refine keeps_ite ?_ ?_
    · refine keeps_ite ?_ ?_
      · refine respondTo_keeps ?_ (List.Subset.trans (by decide) hT)
        refine hostMod_keeps ?_ (List.Subset.trans (by decide) hT)
        exact ha
      · refine respondTo_keeps ?_ (List.Subset.trans (by decide) hT)
        exact ha
    · exact ha

theorem resolvePreempt_keeps {T : List Part} {s0 : State} {s : State} (hs : Keeps T s0 s)
    (hT : [.regs, .tbl, .host, .items, .icu, .evr, .sent] ⊆ T) :
    Keeps T s0 (resolvePreempt s) := by
  delta resolvePreempt
  split
  · exact hs
  · split
    · exact hs
    · refine respondTo_keeps ?_ (List.Subset.trans (by decide) hT)
      refine raiseEv_keeps ?_ (List.Subset.trans (by decide) hT)
      refine bump_keeps ?_ (List.Subset.trans (by decide) hT)
      refine newOwner_keeps ?_ (List.Subset.trans (by decide) hT)
      exact hs

theorem resolveHandover_keeps {T : List Part} {s0 : State} {was : Option Nat} {s : State} (hs : Keeps T s0 s)
    (hT : [.host, .items, .sent] ⊆ T) :
    Keeps T s0 (resolveHandover was s) := by
  delta resolveHandover
  refine keeps_foldl ?_ (fun a e ha => ?_)
  · exact hs
  · split
    · refine keeps_ite ?_ ?_
      · refine respondTo_keeps ?_ (List.Subset.trans (by decide) hT)
        refine newOwner_keeps ?_ (List.Subset.trans (by decide) hT)
        exact ha
      · refine respondTo_keeps ?_ (List.Subset.trans (by decide) hT)
        exact ha
    · exact ha

theorem resolveElect_keeps {T : List Part} {s0 : State} {s : State} (hs : Keeps T s0 s)
    (hT : [.host, .items, .sent] ⊆ T) :
    Keeps T s0 (resolveElect s) := by
  delta resolveElect
  split
  · exact hs
  · split
    · exact hs
    · refine respondTo_keeps ?_ (List.Subset.trans (by decide) hT)
      refine newOwner_keeps ?_ (List.Subset.trans (by decide) hT)
      exact hs

theorem resolveRest_keeps {T : List Part} {s0 : State} {s : State} (hs : Keeps T s0 s)
    (hT : [.host, .items, .sent] ⊆ T) :
    Keeps T s0 (resolveRest s) := by
  delta resolveRest
  extract_lets +onlyGivenNames y1
  have hy1 : Keeps T s0 y1 := by
    unfold y1
    refine keeps_foldl ?_ (fun a e ha => ?_)
    · exact hs
    · refine keeps_ite ?_ ?_
      · split
        · refine respondTo_keeps ?_ (List.Subset.trans (by decide) hT)
          exact ha
        · refine respondTo_keeps ?_ (List.Subset.trans (by decide) hT)
          exact ha
        · exact ha
      · exact ha
  refine hostMod_keeps ?_ (List.Subset.trans (by decide) hT)
  exact hy1

theorem ownershipResolve_keeps {T : List Part} {s0 : State} {s : State} (hs : Keeps T s0 s)
    (hT : [.regs, .tbl, .host, .items, .icu, .evr, .sent] ⊆ T) :
    Keeps T s0 (ownershipResolve s) := by
  delta ownershipResolve
  extract_lets +onlyGivenNames y1
  extract_lets +onlyGivenNames y2
  have hy2 : Keeps T s0 y2 := by
    unfold y2
    refine resolveEnd_keeps ?_ (List.Subset.trans (by decide) hT)
    refine dormClose_keeps ?_ (List.Subset.trans (by decide) hT)
    exact hs
  extract_lets +onlyGivenNames y3
  have hy3 : Keeps T s0 y3 := by
    unfold y3
    refine resolveRenew_keeps ?_ (List.Subset.trans (by decide) hT)
    exact hy2
  extract_lets +onlyGivenNames y4
  have hy4 : Keeps T s0 y4 := by
    unfold y4
    refine resolvePreempt_keeps ?_ (List.Subset.trans (by decide) hT)
    exact hy3
  extract_lets +onlyGivenNames y5
  have hy5 : Keeps T s0 y5 := by
    unfold y5
    refine resolveHandover_keeps ?_ (List.Subset.trans (by decide) hT)
    exact hy4
  extract_lets +onlyGivenNames y6
  have hy6 : Keeps T s0 y6 := by
    unfold y6
    refine resolveElect_keeps ?_ (List.Subset.trans (by decide) hT)
    exact hy5
  extract_lets +onlyGivenNames y7
  have hy7 : Keeps T s0 y7 := by
    unfold y7
    refine resolveRest_keeps ?_ (List.Subset.trans (by decide) hT)
    exact hy6
  extract_lets +onlyGivenNames y8
  have hy8 : Keeps T s0 y8 := by
    unfold y8
    refine keeps_ite ?_ ?_
    · refine ownerShown_keeps ?_ (List.Subset.trans (by decide) hT)
      exact hy7
    · exact hy7
  refine hostRegs_keeps ?_ (List.Subset.trans (by decide) hT)
  exact hy8

theorem execOwnershipResolve_keeps {T : List Part} {s0 : State} {s : State} (hs : Keeps T s0 s)
    (hT : [.regs, .vis, .tbl, .host, .items, .icu, .evr, .sent] ⊆ T) :
    KeepsO T s0 (execOwnershipResolve s) := by
  delta execOwnershipResolve
  refine keepsO_next ?_
  refine andShown_keeps ?_ ?_ (List.Subset.trans (by decide) hT)
  · exact hs
  · refine ownershipResolve_keeps ?_ (List.Subset.trans (by decide) hT)
    exact hs

theorem execLeaseLapsed_keeps {T : List Part} {s0 : State} {s : State} (hs : Keeps T s0 s)
    (hT : [.regs, .vis, .tbl, .host, .items, .icu, .evr] ⊆ T) :
    KeepsO T s0 (execLeaseLapsed s) := by
  delta execLeaseLapsed
  refine keepsO_next ?_
  refine andShown_keeps ?_ ?_ (List.Subset.trans (by decide) hT)
  · exact hs
  · refine keeps_ite ?_ ?_
    · exact hs
    · refine hostRegs_keeps ?_ (List.Subset.trans (by decide) hT)
      refine ownerShown_keeps ?_ (List.Subset.trans (by decide) hT)
      refine raiseEv_keeps ?_ (List.Subset.trans (by decide) hT)
      refine bump_keeps ?_ (List.Subset.trans (by decide) hT)
      refine noOwner_keeps ?_ (List.Subset.trans (by decide) hT)
      exact hs

end Sys2Proof.Machine
end

