-- ==== Sys2Proof/Laws/KeepTime.lean ====
section
/-! SUPPORT. What each operation of Machine/Time.lean keeps: the canonical form, the queue, and the parts it does not name. -/

namespace Sys2Proof.Machine

theorem timeMod_keeps {T : List Part} {s0 : State} {s : State} {f : TimeSt → TimeSt} (hs : Keeps T s0 s)
    (hT : [.time] ⊆ T) :
    Keeps T s0 (State.timeMod s f) := by
  delta State.timeMod
  refine keeps_time ?_ (List.Subset.trans (by decide) hT)
  exact hs

theorem setClock_keeps {T : List Part} {s0 : State} {s : State} {t : Int} (hs : Keeps T s0 s)
    (hT : [.regs] ⊆ T) :
    Keeps T s0 (State.setClock s t) := by
  delta State.setClock
  extract_lets +onlyGivenNames y1
  refine wr_keeps ?_ (List.Subset.trans (by decide) hT)
  refine wr_keeps ?_ (List.Subset.trans (by decide) hT)
  refine wr_keeps ?_ (List.Subset.trans (by decide) hT)
  exact hs

theorem errEst_keeps {T : List Part} {s0 : State} {s : State} (hs : Keeps T s0 s)
    (hT : [.regs] ⊆ T) :
    Keeps T s0 (State.errEst s) := by
  delta State.errEst
  extract_lets +onlyGivenNames y1
  extract_lets +onlyGivenNames y2
  refine wr_keeps ?_ (List.Subset.trans (by decide) hT)
  exact hs

theorem setQuality_keeps {T : List Part} {s0 : State} {s : State} {q : Nat} (hs : Keeps T s0 s)
    (hT : [.regs, .tbl, .items, .icu, .evr, .time] ⊆ T) :
    Keeps T s0 (State.setQuality s q) := by
  delta State.setQuality
  refine keeps_ite ?_ ?_
  · refine errEst_keeps ?_ (List.Subset.trans (by decide) hT)
    exact hs
  · extract_lets +onlyGivenNames y1
    have hy1 : Keeps T s0 y1 := by
      unfold y1
      refine setF_keeps ?_ (List.Subset.trans (by decide) hT)
      exact hs
    extract_lets +onlyGivenNames y2
    have hy2 : Keeps T s0 y2 := by
      unfold y2
      refine timeMod_keeps ?_ (List.Subset.trans (by decide) hT)
      exact hy1
    extract_lets +onlyGivenNames y3
    have hy3 : Keeps T s0 y3 := by
      unfold y3
      refine keeps_ite ?_ ?_
      · refine setF_keeps ?_ (List.Subset.trans (by decide) hT)
        exact hy2
      · exact hy2
    refine raiseEv_keeps ?_ (List.Subset.trans (by decide) hT)
    refine errEst_keeps ?_ (List.Subset.trans (by decide) hT)
    exact hy3

theorem ownQuality_keeps {T : List Part} {s0 : State} {s : State} {q : Nat} (hs : Keeps T s0 s)
    (hT : [.regs, .tbl, .items, .icu, .evr, .time] ⊆ T) :
    Keeps T s0 (State.ownQuality s q) := by
  delta State.ownQuality
  refine keeps_ite ?_ ?_
  · refine errEst_keeps ?_ (List.Subset.trans (by decide) hT)
    exact hs
  · refine setQuality_keeps ?_ (List.Subset.trans (by decide) hT)
    exact hs

theorem toHoldover_keeps {T : List Part} {s0 : State} {s : State} (hs : Keeps T s0 s)
    (hT : [.regs, .tbl, .items, .icu, .evr, .time] ⊆ T) :
    Keeps T s0 (State.toHoldover s) := by
  delta State.toHoldover
  refine keeps_ite ?_ ?_
  · refine ownQuality_keeps ?_ (List.Subset.trans (by decide) hT)
    exact hs
  · exact hs

theorem ptpSelect_keeps {T : List Part} {s0 : State} {s : State} {pair : Nat} (hs : Keeps T s0 s)
    (hT : [.regs] ⊆ T) :
    Keeps T s0 (State.ptpSelect s pair) := by
  delta State.ptpSelect
  extract_lets +onlyGivenNames y1
  split
  · refine setF_keeps ?_ (List.Subset.trans (by decide) hT)
    exact hs
  · exact hs

theorem srcNote_keeps {T : List Part} {s0 : State} {s : State} {c : Nat} (hs : Keeps T s0 s)
    (hT : [.time] ⊆ T) :
    Keeps T s0 (State.srcNote s c) := by
  delta State.srcNote
  split
  · refine timeMod_keeps ?_ (List.Subset.trans (by decide) hT)
    exact hs
  · refine timeMod_keeps ?_ (List.Subset.trans (by decide) hT)
    exact hs
  · exact hs

theorem selectSrc_keeps {T : List Part} {s0 : State} {s : State} {c : Nat} (hs : Keeps T s0 s)
    (hT : [.regs, .tbl, .items, .icu, .evr, .time] ⊆ T) :
    Keeps T s0 (State.selectSrc s c) := by
  delta State.selectSrc
  refine keeps_ite ?_ ?_
  · exact hs
  · extract_lets +onlyGivenNames y1
    have hy1 : Keeps T s0 y1 := by
      unfold y1
      refine raiseEv_keeps ?_ (List.Subset.trans (by decide) hT)
      refine bump_keeps ?_ (List.Subset.trans (by decide) hT)
      refine timeMod_keeps ?_ (List.Subset.trans (by decide) hT)
      refine setF_keeps ?_ (List.Subset.trans (by decide) hT)
      exact hs
    refine keeps_ite ?_ ?_
    · refine toHoldover_keeps ?_ (List.Subset.trans (by decide) hT)
      exact hy1
    · exact hy1

theorem timeEval_keeps {T : List Part} {s0 : State} {s : State} (hs : Keeps T s0 s)
    (hT : [.regs, .tbl, .items, .icu, .evr, .time] ⊆ T) :
    Keeps T s0 (State.timeEval s) := by
  delta State.timeEval
  extract_lets +onlyGivenNames y1
  have hy1 : Keeps T s0 y1 := by
    unfold y1
    refine ptpSelect_keeps ?_ (List.Subset.trans (by decide) hT)
    refine ptpSelect_keeps ?_ (List.Subset.trans (by decide) hT)
    exact hs
  extract_lets +onlyGivenNames y2
  have hy2 : Keeps T s0 y2 := by
    unfold y2
    refine keeps_foldl ?_ (fun a e ha => ?_)
    · exact hy1
    · refine srcNote_keeps ?_ (List.Subset.trans (by decide) hT)
      exact ha
  extract_lets +onlyGivenNames y3
  extract_lets +onlyGivenNames y4
  refine keeps_ite ?_ ?_
  · refine selectSrc_keeps ?_ (List.Subset.trans (by decide) hT)
    exact hy2
  · refine keeps_ite ?_ ?_
    · exact hy2
    · extract_lets +onlyGivenNames y5
      have hy5 : Keeps T s0 y5 := by
        unfold y5
        refine keeps_ite ?_ ?_
        · refine raiseEv_keeps ?_ (List.Subset.trans (by decide) hT)
          exact hy2
        · exact hy2
      refine selectSrc_keeps ?_ (List.Subset.trans (by decide) hT)
      exact hy5

theorem execSourceInvalid_keeps {T : List Part} {s0 : State} {s : State} (hs : Keeps T s0 s)
    (hT : [.regs, .tbl, .items, .icu, .evr, .time] ⊆ T) :
    KeepsO T s0 (execSourceInvalid s) := by
  delta execSourceInvalid
  refine keepsO_next ?_
  refine timeEval_keeps ?_ (List.Subset.trans (by decide) hT)
  exact hs

theorem timeUpgrade_keeps {T : List Part} {s0 : State} {s : State} (hs : Keeps T s0 s)
    (hT : [.regs, .tbl, .items, .icu, .evr, .time] ⊆ T) :
    Keeps T s0 (State.timeUpgrade s) := by
  delta State.timeUpgrade
  extract_lets +onlyGivenNames y1
  have hy1 : Keeps T s0 y1 := by
    unfold y1
    refine timeEval_keeps ?_ (List.Subset.trans (by decide) hT)
    exact hs
  extract_lets +onlyGivenNames y2
  extract_lets +onlyGivenNames y3
  refine keeps_ite ?_ ?_
  · exact hy1
  · split
    · refine selectSrc_keeps ?_ (List.Subset.trans (by decide) hT)
      exact hy1
    · exact hy1

theorem execSourceUpgrade_keeps {T : List Part} {s0 : State} {s : State} (hs : Keeps T s0 s)
    (hT : [.regs, .tbl, .items, .icu, .evr, .time] ⊆ T) :
    KeepsO T s0 (execSourceUpgrade s) := by
  delta execSourceUpgrade
  refine keepsO_next ?_
  refine timeUpgrade_keeps ?_ (List.Subset.trans (by decide) hT)
  exact hs

theorem standbyHold_keeps {T : List Part} {s0 : State} {s : State} (hs : Keeps T s0 s)
    (hT : [.regs, .tbl, .items, .icu, .evr, .time] ⊆ T) :
    Keeps T s0 (State.standbyHold s) := by
  delta State.standbyHold
  refine keeps_ite ?_ ?_
  · refine setQuality_keeps ?_ (List.Subset.trans (by decide) hT)
    refine timeEval_keeps ?_ (List.Subset.trans (by decide) hT)
    exact hs
  · exact hs

theorem servoHold_keeps {T : List Part} {s0 : State} {s : State} (hs : Keeps T s0 s)
    (hT : [.regs] ⊆ T) :
    Keeps T s0 (State.servoHold s) := by
  delta State.servoHold
  refine setB_keeps ?_ (List.Subset.trans (by decide) hT)
  refine wr_keeps ?_ (List.Subset.trans (by decide) hT)
  exact hs

theorem servo_keeps {T : List Part} {s0 : State} {s : State} {th : Int} (hs : Keeps T s0 s)
    (hT : [.regs, .tbl, .items, .icu, .evr, .time, .free] ⊆ T) :
    Keeps T s0 (State.servo s th) := by
  delta State.servo
  extract_lets +onlyGivenNames y1
  extract_lets +onlyGivenNames y2
  extract_lets +onlyGivenNames y3
  extract_lets +onlyGivenNames y4
  extract_lets +onlyGivenNames y5
  extract_lets +onlyGivenNames y6
  extract_lets +onlyGivenNames y7
  extract_lets +onlyGivenNames y8
  have hy8 : Keeps T s0 y8 := by
    unfold y8
    refine wr_keeps ?_ (List.Subset.trans (by decide) hT)
    refine timeMod_keeps ?_ (List.Subset.trans (by decide) hT)
    refine useFree_keeps ?_ (List.Subset.trans (by decide) hT)
    exact hs
  extract_lets +onlyGivenNames y9
  extract_lets +onlyGivenNames y10
  have hy10 : Keeps T s0 y10 := by
    unfold y10
    refine setB_keeps ?_ (List.Subset.trans (by decide) hT)
    exact hy8
  refine keeps_ite ?_ ?_
  · refine raiseEv_keeps ?_ (List.Subset.trans (by decide) hT)
    exact hy10
  · exact hy10

theorem refuseOff_keeps {T : List Part} {s0 : State} {s : State} {th : Int} (hs : Keeps T s0 s)
    (hT : [.regs, .tbl, .items, .icu, .evr, .time] ⊆ T) :
    Keeps T s0 (State.refuseOff s th) := by
  delta State.refuseOff
  extract_lets +onlyGivenNames y1
  extract_lets +onlyGivenNames y2
  have hy2 : Keeps T s0 y2 := by
    unfold y2
    refine bump_keeps ?_ (List.Subset.trans (by decide) hT)
    refine setB_keeps ?_ (List.Subset.trans (by decide) hT)
    refine servoHold_keeps ?_ (List.Subset.trans (by decide) hT)
    exact hs
  extract_lets +onlyGivenNames y3
  have hy3 : Keeps T s0 y3 := by
    unfold y3
    refine wr_keeps ?_ (List.Subset.trans (by decide) hT)
    refine wr_keeps ?_ (List.Subset.trans (by decide) hT)
    exact hy2
  extract_lets +onlyGivenNames y4
  have hy4 : Keeps T s0 y4 := by
    unfold y4
    refine timeMod_keeps ?_ (List.Subset.trans (by decide) hT)
    exact hy3
  extract_lets +onlyGivenNames y5
  have hy5 : Keeps T s0 y5 := by
    unfold y5
    refine keeps_ite ?_ ?_
    · refine toHoldover_keeps ?_ (List.Subset.trans (by decide) hT)
      exact hy4
    · exact hy4
  refine keeps_ite ?_ ?_
  · exact hy5
  · refine raiseEv_keeps ?_ (List.Subset.trans (by decide) hT)
    exact hy5

theorem acceptOff_keeps {T : List Part} {s0 : State} {s : State} {th : Int} (hs : Keeps T s0 s)
    (hT : [.regs, .tbl, .items, .icu, .evr, .time, .free] ⊆ T) :
    Keeps T s0 (State.acceptOff s th) := by
  delta State.acceptOff
  extract_lets +onlyGivenNames y1
  have hy1 : Keeps T s0 y1 := by
    unfold y1
    refine setB_keeps ?_ (List.Subset.trans (by decide) hT)
    exact hs
  extract_lets +onlyGivenNames y2
  have hy2 : Keeps T s0 y2 := by
    unfold y2
    refine keeps_ite ?_ ?_
    · refine servo_keeps ?_ (List.Subset.trans (by decide) hT)
      exact hy1
    · refine servoHold_keeps ?_ (List.Subset.trans (by decide) hT)
      exact hy1
  extract_lets +onlyGivenNames y3
  extract_lets +onlyGivenNames y4
  have hy4 : Keeps T s0 y4 := by
    unfold y4
    refine timeMod_keeps ?_ (List.Subset.trans (by decide) hT)
    exact hy2
  refine keeps_ite ?_ ?_
  · refine ownQuality_keeps ?_ (List.Subset.trans (by decide) hT)
    exact hy4
  · refine errEst_keeps ?_ (List.Subset.trans (by decide) hT)
    exact hy4

theorem timeOffset_keeps {T : List Part} {s0 : State} {s : State} {src : Nat} {th : Int} (hs : Keeps T s0 s)
    (hT : [.regs, .tbl, .items, .icu, .evr, .time, .free] ⊆ T) :
    Keeps T s0 (State.timeOffset s src th) := by
  delta State.timeOffset
  extract_lets +onlyGivenNames y1
  have hy1 : Keeps T s0 y1 := by
    unfold y1
    refine timeMod_keeps ?_ (List.Subset.trans (by decide) hT)
    exact hs
  refine keeps_ite ?_ ?_
  · exact hy1
  · extract_lets +onlyGivenNames y2
    have hy2 : Keeps T s0 y2 := by
      unfold y2
      refine wr_keeps ?_ (List.Subset.trans (by decide) hT)
      exact hy1
    refine keeps_ite ?_ ?_
    · refine timeMod_keeps ?_ (List.Subset.trans (by decide) hT)
      exact hy2
    · refine keeps_ite ?_ ?_
      · refine refuseOff_keeps ?_ (List.Subset.trans (by decide) hT)
        exact hy2
      · refine acceptOff_keeps ?_ (List.Subset.trans (by decide) hT)
        exact hy2

theorem ptpShow_keeps {T : List Part} {s0 : State} {s : State} {pair : Nat} (hs : Keeps T s0 s)
    (hT : [.regs] ⊆ T) :
    Keeps T s0 (State.ptpShow s pair) := by
  delta State.ptpShow
  extract_lets +onlyGivenNames y1
  extract_lets +onlyGivenNames y2
  extract_lets +onlyGivenNames y3
  have hy3 : Keeps T s0 y3 := by
    unfold y3
    refine setF_keeps ?_ (List.Subset.trans (by decide) hT)
    refine setF_keeps ?_ (List.Subset.trans (by decide) hT)
    exact hs
  split
  · refine wr_keeps ?_ (List.Subset.trans (by decide) hT)
    refine wr_keeps ?_ (List.Subset.trans (by decide) hT)
    refine setF_keeps ?_ (List.Subset.trans (by decide) hT)
    exact hy3
  · exact hy3

theorem ptpMod_keeps {T : List Part} {s0 : State} {s : State} {p : Nat} {f : PtpPort → PtpPort} (hs : Keeps T s0 s)
    (hT : [.time] ⊆ T) :
    Keeps T s0 (State.ptpMod s p f) := by
  delta State.ptpMod
  refine timeMod_keeps ?_ (List.Subset.trans (by decide) hT)
  exact hs

theorem ptpState_keeps {T : List Part} {s0 : State} {s : State} {p : Nat} {st : Nat} (hs : Keeps T s0 s)
    (hT : [.time] ⊆ T) :
    Keeps T s0 (State.ptpState s p st) := by
  delta State.ptpState
  refine timeMod_keeps ?_ (List.Subset.trans (by decide) hT)
  refine ptpMod_keeps ?_ (List.Subset.trans (by decide) hT)
  exact hs

theorem ptpStart_keeps {T : List Part} {s0 : State} {s : State} {pair : Nat} (hs : Keeps T s0 s)
    (hT : [.regs, .tbl, .items, .icu, .evr, .time] ⊆ T) :
    Keeps T s0 (State.ptpStart s pair) := by
  delta State.ptpStart
  extract_lets +onlyGivenNames y1
  extract_lets +onlyGivenNames y2
  have hy2 : Keeps T s0 y2 := by
    unfold y2
    refine keeps_foldl ?_ (fun a e ha => ?_)
    · exact hs
    · refine ptpMod_keeps ?_ (List.Subset.trans (by decide) hT)
      refine ptpState_keeps ?_ (List.Subset.trans (by decide) hT)
      exact ha
  refine ptpShow_keeps ?_ (List.Subset.trans (by decide) hT)
  refine timeEval_keeps ?_ (List.Subset.trans (by decide) hT)
  exact hy2

theorem ptpFrames_keeps {T : List Part} {s0 : State} {s : State} {port : Nat} {n : Nat} (hs : Keeps T s0 s)
    (hT : [.regs] ⊆ T) :
    Keeps T s0 (State.ptpFrames s port n) := by
  delta State.ptpFrames
  refine keeps_ite ?_ ?_
  · refine keeps_foldl ?_ (fun a e ha => ?_)
    · exact hs
    · refine rxFrame_keeps ?_ (List.Subset.trans (by decide) hT)
      exact ha
  · exact hs

theorem execPtpSyncRx_keeps {T : List Part} {s0 : State} {port : Nat} {domain : Nat} {master : Int} {rx : Int} {s : State} (hs : Keeps T s0 s)
    (hT : [.regs, .tbl, .items, .icu, .evr, .time, .free] ⊆ T) :
    KeepsO T s0 (execPtpSyncRx port domain master rx s) := by
  delta execPtpSyncRx
  refine keepsO_next ?_
  extract_lets +onlyGivenNames y1
  have hy1 : Keeps T s0 y1 := by
    unfold y1
    refine ptpFrames_keeps ?_ (List.Subset.trans (by decide) hT)
    exact hs
  refine keeps_ite ?_ ?_
  · exact hy1
  · extract_lets +onlyGivenNames y2
    have hy2 : Keeps T s0 y2 := by
      unfold y2
      refine timeEval_keeps ?_ (List.Subset.trans (by decide) hT)
      refine ptpMod_keeps ?_ (List.Subset.trans (by decide) hT)
      refine timeEval_keeps ?_ (List.Subset.trans (by decide) hT)
      exact hy1
    extract_lets +onlyGivenNames y3
    extract_lets +onlyGivenNames y4
    refine keeps_ite ?_ ?_
    · refine ptpShow_keeps ?_ (List.Subset.trans (by decide) hT)
      refine timeOffset_keeps ?_ (List.Subset.trans (by decide) hT)
      exact hy2
    · exact hy2

theorem ptpDecide_keeps {T : List Part} {s0 : State} {s : State} {pair : Nat} (hs : Keeps T s0 s)
    (hT : [.regs, .tbl, .items, .icu, .evr, .time] ⊆ T) :
    Keeps T s0 (State.ptpDecide s pair) := by
  delta State.ptpDecide
  extract_lets +onlyGivenNames y1
  have hy1 : Keeps T s0 y1 := by
    unfold y1
    refine keeps_foldl ?_ (fun a e ha => ?_)
    · exact hs
    · refine ptpState_keeps ?_ (List.Subset.trans (by decide) hT)
      exact ha
  refine ptpShow_keeps ?_ (List.Subset.trans (by decide) hT)
  refine timeEval_keeps ?_ (List.Subset.trans (by decide) hT)
  exact hy1

theorem execPtpAnnounceRx_keeps {T : List Part} {s0 : State} {port : Nat} {domain : Nat} {cls : Nat} {gmLo : Word} {gmHi : Word} {bmca : PtpData} {s : State} (hs : Keeps T s0 s)
    (hT : [.regs, .tbl, .items, .icu, .evr, .time] ⊆ T) :
    KeepsO T s0 (execPtpAnnounceRx port domain cls gmLo gmHi bmca s) := by
  delta execPtpAnnounceRx
  refine keepsO_next ?_
  extract_lets +onlyGivenNames y1
  have hy1 : Keeps T s0 y1 := by
    unfold y1
    refine ptpFrames_keeps ?_ (List.Subset.trans (by decide) hT)
    exact hs
  refine keeps_ite ?_ ?_
  · exact hy1
  · refine ptpDecide_keeps ?_ (List.Subset.trans (by decide) hT)
    refine ptpMod_keeps ?_ (List.Subset.trans (by decide) hT)
    refine timeEval_keeps ?_ (List.Subset.trans (by decide) hT)
    exact hy1

theorem execAnnounceReceiptTimeout_keeps {T : List Part} {s0 : State} {port : Nat} {s : State} (hs : Keeps T s0 s)
    (hT : [.regs, .tbl, .items, .icu, .evr, .time] ⊆ T) :
    KeepsO T s0 (execAnnounceReceiptTimeout port s) := by
  delta execAnnounceReceiptTimeout
  refine keepsO_next ?_
  split
  · exact hs
  · refine keeps_ite ?_ ?_
    · refine ptpDecide_keeps ?_ (List.Subset.trans (by decide) hT)
      refine ptpState_keeps ?_ (List.Subset.trans (by decide) hT)
      refine ptpMod_keeps ?_ (List.Subset.trans (by decide) hT)
      refine timeEval_keeps ?_ (List.Subset.trans (by decide) hT)
      exact hs
    · exact hs

theorem execPtpPdelayExchange_keeps {T : List Part} {s0 : State} {port : Nat} {domain : Nat} {t1 : Int} {t2 : Int} {t3 : Int} {t4 : Int} {s : State} (hs : Keeps T s0 s)
    (hT : [.regs, .snet] ⊆ T) :
    KeepsO T s0 (execPtpPdelayExchange port domain t1 t2 t3 t4 s) := by
  delta execPtpPdelayExchange
  refine keepsO_next ?_
  extract_lets +onlyGivenNames y1
  have hy1 : Keeps T s0 y1 := by
    unfold y1
    refine ptpFrames_keeps ?_ (List.Subset.trans (by decide) hT)
    exact hs
  refine keeps_ite ?_ ?_
  · exact hy1
  · extract_lets +onlyGivenNames y2
    refine wr_keeps ?_ (List.Subset.trans (by decide) hT)
    refine prpSkip_keeps ?_ (List.Subset.trans (by decide) hT)
    refine txFrame_keeps ?_ (List.Subset.trans (by decide) hT)
    exact hy1

theorem execPtpSyncTx_keeps {T : List Part} {s0 : State} {port : Nat} {s : State} (hs : Keeps T s0 s)
    (hT : [.regs, .snet, .sent] ⊆ T) :
    KeepsO T s0 (execPtpSyncTx port s) := by
  delta execPtpSyncTx
  refine keepsO_next ?_
  refine keeps_ite ?_ ?_
  · refine prpSkip_keeps ?_ (List.Subset.trans (by decide) hT)
    refine prpNext_keeps ?_ (List.Subset.trans (by decide) hT)
    refine txFrame_keeps ?_ (List.Subset.trans (by decide) hT)
    refine txFrame_keeps ?_ (List.Subset.trans (by decide) hT)
    exact hs
  · exact hs

theorem execPtpAnnounceTx_keeps {T : List Part} {s0 : State} {port : Nat} {s : State} (hs : Keeps T s0 s)
    (hT : [.regs, .snet, .sent] ⊆ T) :
    KeepsO T s0 (execPtpAnnounceTx port s) := by
  delta execPtpAnnounceTx
  refine keepsO_next ?_
  refine keeps_ite ?_ ?_
  · refine prpNext_keeps ?_ (List.Subset.trans (by decide) hT)
    refine txFrame_keeps ?_ (List.Subset.trans (by decide) hT)
    exact hs
  · exact hs

theorem execTodSentenceRx_keeps {T : List Part} {s0 : State} {utc : Nat} {crcOk : Bool} {s : State} (hs : Keeps T s0 s)
    (hT : [.time] ⊆ T) :
    KeepsO T s0 (execTodSentenceRx utc crcOk s) := by
  delta execTodSentenceRx
  refine keepsO_next ?_
  refine keeps_ite ?_ ?_
  · refine timeMod_keeps ?_ (List.Subset.trans (by decide) hT)
    exact hs
  · exact hs

theorem execPpsEdge_keeps {T : List Part} {s0 : State} {edge : Int} {s : State} (hs : Keeps T s0 s)
    (hT : [.regs, .tbl, .items, .icu, .evr, .time, .free] ⊆ T) :
    KeepsO T s0 (execPpsEdge edge s) := by
  delta execPpsEdge
  refine keepsO_next ?_
  extract_lets +onlyGivenNames y1
  extract_lets +onlyGivenNames y2
  have hy2 : Keeps T s0 y2 := by
    unfold y2
    refine timeEval_keeps ?_ (List.Subset.trans (by decide) hT)
    refine timeMod_keeps ?_ (List.Subset.trans (by decide) hT)
    refine timeEval_keeps ?_ (List.Subset.trans (by decide) hT)
    exact hs
  split
  · exact hy2
  · refine keeps_ite ?_ ?_
    · refine timeOffset_keeps ?_ (List.Subset.trans (by decide) hT)
      exact hy2
    · exact hy2

theorem stepAccept_keeps {T : List Part} {s0 : State} {s : State} (hs : Keeps T s0 s)
    (hT : [.regs, .time] ⊆ T) :
    Keeps T s0 (stepAccept s) := by
  delta stepAccept
  refine keeps_ite ?_ ?_
  · exact hs
  · extract_lets +onlyGivenNames y1
    split
    · exact hs
    · refine timeMod_keeps ?_ (List.Subset.trans (by decide) hT)
      refine setB_keeps ?_ (List.Subset.trans (by decide) hT)
      exact hs

theorem execStepAccept_keeps {T : List Part} {s0 : State} {s : State} (hs : Keeps T s0 s)
    (hT : [.regs, .time] ⊆ T) :
    KeepsO T s0 (execStepAccept s) := by
  delta execStepAccept
  refine keepsO_next ?_
  refine stepAccept_keeps ?_ (List.Subset.trans (by decide) hT)
  exact hs

theorem relearn_keeps {T : List Part} {s0 : State} {s : State} (hs : Keeps T s0 s)
    (hT : [.regs, .time] ⊆ T) :
    Keeps T s0 (relearn s) := by
  delta relearn
  refine errEst_keeps ?_ (List.Subset.trans (by decide) hT)
  refine timeMod_keeps ?_ (List.Subset.trans (by decide) hT)
  refine wr_keeps ?_ (List.Subset.trans (by decide) hT)
  refine setB_keeps ?_ (List.Subset.trans (by decide) hT)
  refine clearCtr_keeps ?_ (List.Subset.trans (by decide) hT)
  exact hs

theorem execRelearn_keeps {T : List Part} {s0 : State} {s : State} (hs : Keeps T s0 s)
    (hT : [.regs, .time] ⊆ T) :
    KeepsO T s0 (execRelearn s) := by
  delta execRelearn
  refine keepsO_next ?_
  refine relearn_keeps ?_ (List.Subset.trans (by decide) hT)
  exact hs

theorem timeClrCnt_keeps {T : List Part} {s0 : State} {s : State} (hs : Keeps T s0 s)
    (hT : [.regs] ⊆ T) :
    Keeps T s0 (timeClrCnt s) := by
  delta timeClrCnt
  refine errEst_keeps ?_ (List.Subset.trans (by decide) hT)
  refine keeps_foldl ?_ (fun a e ha => ?_)
  · exact hs
  · refine clearCtr_keeps ?_ (List.Subset.trans (by decide) hT)
    exact ha

theorem execClrCnt_keeps {T : List Part} {s0 : State} {s : State} (hs : Keeps T s0 s)
    (hT : [.regs] ⊆ T) :
    KeepsO T s0 (execClrCnt s) := by
  delta execClrCnt
  refine keepsO_next ?_
  refine timeClrCnt_keeps ?_ (List.Subset.trans (by decide) hT)
  exact hs

theorem holdFreq_keeps {T : List Part} {s0 : State} {s : State} (hs : Keeps T s0 s)
    (hT : [.regs, .free] ⊆ T) :
    Keeps T s0 (State.holdFreq s) := by
  delta State.holdFreq
  extract_lets +onlyGivenNames y1
  extract_lets +onlyGivenNames y2
  extract_lets +onlyGivenNames y3
  refine keeps_ite ?_ ?_
  · exact hs
  · refine wr_keeps ?_ (List.Subset.trans (by decide) hT)
    refine useFree_keeps ?_ (List.Subset.trans (by decide) hT)
    exact hs

theorem execLearnMinute_keeps {T : List Part} {s0 : State} {tempOk : Bool} {s : State} (hs : Keeps T s0 s)
    (hT : [.regs, .time, .free] ⊆ T) :
    KeepsO T s0 (execLearnMinute tempOk s) := by
  delta execLearnMinute
  refine keepsO_next ?_
  refine keeps_ite ?_ ?_
  · refine keeps_ite ?_ ?_
    · exact hs
    · refine errEst_keeps ?_ (List.Subset.trans (by decide) hT)
      refine bump_keeps ?_ (List.Subset.trans (by decide) hT)
      refine timeMod_keeps ?_ (List.Subset.trans (by decide) hT)
      exact hs
  · refine keeps_ite ?_ ?_
    · exact hs
    · extract_lets +onlyGivenNames y1
      have hy1 : Keeps T s0 y1 := by
        unfold y1
        refine timeMod_keeps ?_ (List.Subset.trans (by decide) hT)
        exact hs
      refine keeps_ite ?_ ?_
      · extract_lets +onlyGivenNames y2
        have hy2 : Keeps T s0 y2 := by
          unfold y2
          refine bump_keeps ?_ (List.Subset.trans (by decide) hT)
          refine timeMod_keeps ?_ (List.Subset.trans (by decide) hT)
          exact hy1
        extract_lets +onlyGivenNames y3
        have hy3 : Keeps T s0 y3 := by
          unfold y3
          refine holdFreq_keeps ?_ (List.Subset.trans (by decide) hT)
          exact hy2
        refine keeps_ite ?_ ?_
        · refine setB_keeps ?_ (List.Subset.trans (by decide) hT)
          exact hy3
        · exact hy3
      · exact hy1

end Sys2Proof.Machine
end

