-- ==== Sys2Proof/Laws/KeepLaunch.lean ====
section
/-! SUPPORT. What each operation of Machine/Launch.lean keeps: the canonical form, the queue, and the parts it does not name. -/

namespace Sys2Proof.Machine

theorem privMod_keeps {T : List Part} {s0 : State} {s : State} {f : PrivSt → PrivSt} (hs : Keeps T s0 s)
    (hT : [.priv] ⊆ T) :
    Keeps T s0 (State.privMod s f) := by
  delta State.privMod
  refine keeps_priv ?_ (List.Subset.trans (by decide) hT)
  exact hs

theorem chShow_keeps {T : List Part} {s0 : State} {s : State} {ch : Nat} (hs : Keeps T s0 s)
    (hT : [.regs] ⊆ T) :
    Keeps T s0 (State.chShow s ch) := by
  delta State.chShow
  refine setF_keeps ?_ (List.Subset.trans (by decide) hT)
  exact hs

theorem logReleased_keeps {T : List Part} {s0 : State} {s : State} {r : PrivReq} {t : Nat × Nat} (hs : Keeps T s0 s)
    (hT : [.tbl] ⊆ T) :
    Keeps T s0 (State.logReleased s r t) := by
  delta State.logReleased
  refine keeps_ite ?_ ?_
  · refine twr_keeps ?_ (List.Subset.trans (by decide) hT)
    refine twr_keeps ?_ (List.Subset.trans (by decide) hT)
    exact hs
  · exact hs

theorem privEnd_keeps {T : List Part} {s0 : State} {s : State} {r : PrivReq} {o : Nat} (hs : Keeps T s0 s)
    (hT : [.regs, .tbl, .items, .icu, .evr, .priv] ⊆ T) :
    Keeps T s0 (State.privEnd s r o) := by
  delta State.privEnd
  extract_lets +onlyGivenNames y1
  have hy1 : Keeps T s0 y1 := by
    unfold y1
    refine privMod_keeps ?_ (List.Subset.trans (by decide) hT)
    exact hs
  extract_lets +onlyGivenNames y2
  have hy2 : Keeps T s0 y2 := by
    unfold y2
    refine keeps_ite ?_ ?_
    · refine tset_keeps ?_ (List.Subset.trans (by decide) hT)
      exact hy1
    · exact hy1
  extract_lets +onlyGivenNames y3
  have hy3 : Keeps T s0 y3 := by
    unfold y3
    refine chShow_keeps ?_ (List.Subset.trans (by decide) hT)
    refine setF_keeps ?_ (List.Subset.trans (by decide) hT)
    exact hy2
  refine keeps_ite ?_ ?_
  · refine bump_keeps ?_ (List.Subset.trans (by decide) hT)
    exact hy3
  · refine keeps_ite ?_ ?_
    · refine raiseEv_keeps ?_ (List.Subset.trans (by decide) hT)
      refine bump_keeps ?_ (List.Subset.trans (by decide) hT)
      exact hy3
    · exact hy3

theorem lnchEnd_keeps {T : List Part} {s0 : State} {s : State} {n : Nat} (hs : Keeps T s0 s)
    (hT : [.regs, .lnch] ⊆ T) :
    Keeps T s0 (State.lnchEnd s n) := by
  delta State.lnchEnd
  refine setB_keeps ?_ (List.Subset.trans (by decide) hT)
  refine keeps_lnch ?_ (List.Subset.trans (by decide) hT)
  exact hs

theorem privFired_keeps {T : List Part} {s0 : State} {s : State} {n : Nat} {late : Bool} {missed : Bool} {by_ : LateBy} {t : Nat × Nat} (hs : Keeps T s0 s)
    (hT : [.regs, .tbl, .items, .icu, .evr, .priv] ⊆ T) :
    Keeps T s0 (State.privFired s n late missed by_ t) := by
  delta State.privFired
  split
  · exact hs
  · extract_lets +onlyGivenNames y1
    have hy1 : Keeps T s0 y1 := by
      unfold y1
      refine keeps_ite ?_ ?_
      · refine raiseEv_keeps ?_ (List.Subset.trans (by decide) hT)
        refine bump_keeps ?_ (List.Subset.trans (by decide) hT)
        exact hs
      · exact hs
    extract_lets +onlyGivenNames y2
    have hy2 : Keeps T s0 y2 := by
      unfold y2
      refine keeps_ite ?_ ?_
      · exact hy1
      · refine logReleased_keeps ?_ (List.Subset.trans (by decide) hT)
        exact hy1
    refine privEnd_keeps ?_ (List.Subset.trans (by decide) hT)
    exact hy2

theorem lnchAct_keeps {T : List Part} {s0 : State} {s : State} {a : LnchArm} {off : Nat} (hs : Keeps T s0 s)
    (hT : [.regs, .dio] ⊆ T) :
    Keeps T s0 (State.lnchAct s a off) := by
  delta State.lnchAct
  split
  · refine keeps_ite ?_ ?_
    · exact hs
    · refine doLaunch_keeps ?_ (List.Subset.trans (by decide) hT)
      exact hs
  · refine keeps_ite ?_ ?_
    · exact hs
    · refine doLaunch_keeps ?_ (List.Subset.trans (by decide) hT)
      exact hs
  · refine keeps_ite ?_ ?_
    · exact hs
    · refine aoutApply_keeps ?_ (List.Subset.trans (by decide) hT)
      exact hs
  · refine keeps_ite ?_ ?_
    · exact hs
    · refine pwmApply_keeps ?_ (List.Subset.trans (by decide) hT)
      exact hs
  · split
    · exact hs
    · extract_lets +onlyGivenNames y1
      extract_lets +onlyGivenNames y2
      refine keeps_ite ?_ ?_
      · refine tripLatch_keeps ?_ (List.Subset.trans (by decide) hT)
        exact hs
      · refine doLaunch_keeps ?_ (List.Subset.trans (by decide) hT)
        exact hs
  · exact hs

theorem lnchFire_keeps {T : List Part} {s0 : State} {s : State} {a : LnchArm} {late : Bool} {by_ : LateBy} {off : Nat} {t : Nat × Nat} (hs : Keeps T s0 s)
    (hT : [.regs, .tbl, .items, .icu, .evr, .dio, .lnch, .priv] ⊆ T) :
    Keeps T s0 (State.lnchFire s a late by_ off t) := by
  delta State.lnchFire
  extract_lets +onlyGivenNames y1
  have hy1 : Keeps T s0 y1 := by
    unfold y1
    refine lnchAct_keeps ?_ (List.Subset.trans (by decide) hT)
    refine setB_keeps ?_ (List.Subset.trans (by decide) hT)
    refine lnchEnd_keeps ?_ (List.Subset.trans (by decide) hT)
    exact hs
  extract_lets +onlyGivenNames y2
  have hy2 : Keeps T s0 y2 := by
    unfold y2
    refine keeps_ite ?_ ?_
    · refine raiseEv_keeps ?_ (List.Subset.trans (by decide) hT)
      refine bump_keeps ?_ (List.Subset.trans (by decide) hT)
      refine setB_keeps ?_ (List.Subset.trans (by decide) hT)
      exact hy1
    · exact hy1
  refine signal_keeps ?_ (List.Subset.trans (by decide) hT)
  refine privFired_keeps ?_ (List.Subset.trans (by decide) hT)
  exact hy2

theorem lnchLate_keeps {T : List Part} {s0 : State} {s : State} {a : LnchArm} {late : Nat} {by_ : LateBy} {off : Nat} {t : Nat × Nat} (hs : Keeps T s0 s)
    (hT : [.regs, .tbl, .items, .icu, .evr, .dio, .lnch, .priv] ⊆ T) :
    Keeps T s0 (State.lnchLate s a late by_ off t) := by
  delta State.lnchLate
  extract_lets +onlyGivenNames y1
  have hy1 : Keeps T s0 y1 := by
    unfold y1
    refine setF_keeps ?_ (List.Subset.trans (by decide) hT)
    exact hs
  extract_lets +onlyGivenNames y2
  refine keeps_ite ?_ ?_
  · refine lnchFire_keeps ?_ (List.Subset.trans (by decide) hT)
    exact hy1
  · refine keeps_ite ?_ ?_
    · refine lnchFire_keeps ?_ (List.Subset.trans (by decide) hT)
      exact hy1
    · extract_lets +onlyGivenNames y3
      have hy3 : Keeps T s0 y3 := by
        unfold y3
        refine raiseEv_keeps ?_ (List.Subset.trans (by decide) hT)
        refine bump_keeps ?_ (List.Subset.trans (by decide) hT)
        refine setB_keeps ?_ (List.Subset.trans (by decide) hT)
        refine lnchEnd_keeps ?_ (List.Subset.trans (by decide) hT)
        exact hy1
      refine privFired_keeps ?_ (List.Subset.trans (by decide) hT)
      exact hy3

theorem lnchArm_keeps {T : List Part} {s0 : State} {s : State} {n : Nat} {off : Nat} (hs : Keeps T s0 s)
    (hT : [.regs, .tbl, .items, .icu, .evr, .dio, .lnch, .priv] ⊆ T) :
    Keeps T s0 (State.lnchArm s n off) := by
  delta State.lnchArm
  extract_lets +onlyGivenNames y1
  extract_lets +onlyGivenNames y2
  extract_lets +onlyGivenNames y3
  extract_lets +onlyGivenNames y4
  extract_lets +onlyGivenNames y5
  have hy5 : Keeps T s0 y5 := by
    unfold y5
    refine wr_keeps ?_ (List.Subset.trans (by decide) hT)
    exact hs
  extract_lets +onlyGivenNames y6
  have hy6 : Keeps T s0 y6 := by
    unfold y6
    refine keeps_lnch ?_ (List.Subset.trans (by decide) hT)
    exact hy5
  extract_lets +onlyGivenNames y7
  have hy7 : Keeps T s0 y7 := by
    unfold y7
    refine keeps_ite ?_ ?_
    · refine raiseEv_keeps ?_ (List.Subset.trans (by decide) hT)
      refine setB_keeps ?_ (List.Subset.trans (by decide) hT)
      exact hy6
    · exact hy6
  extract_lets +onlyGivenNames y8
  refine keeps_ite ?_ ?_
  · exact hy7
  · refine lnchLate_keeps ?_ (List.Subset.trans (by decide) hT)
    exact hy7

theorem execLaunchArm_keeps {T : List Part} {s0 : State} {arg : Nat} {ns : Nat} {s : State} (hs : Keeps T s0 s)
    (hT : [.regs, .tbl, .items, .icu, .evr, .seq, .dio, .lnch, .priv] ⊆ T) :
    KeepsO T s0 (execLaunchArm arg ns s) := by
  delta execLaunchArm
  refine keepsO_next ?_
  refine entry_keeps ?_ (fun x hx => ?_) (List.Subset.trans (by decide) hT)
  · exact hs
  · split
    · exact hx
    · refine keeps_ite ?_ ?_
      · refine lnchArm_keeps ?_ (List.Subset.trans (by decide) hT)
        exact hx
      · exact hx

theorem armCmd_keeps {T : List Part} {s0 : State} {n : Nat} {s : State} (hs : Keeps T s0 s)
    (hT : [.regs, .tbl, .items, .icu, .evr, .dio, .lnch, .priv] ⊆ T) :
    Keeps T s0 (armCmd n s).1 := by
  delta armCmd
  refine keeps_iteP ?_ ?_
  · refine keeps_fst ?_
    exact hs
  · refine keeps_fst ?_
    refine lnchArm_keeps ?_ (List.Subset.trans (by decide) hT)
    exact hs

theorem disarmCmd_keeps {T : List Part} {s0 : State} {n : Nat} {s : State} (hs : Keeps T s0 s)
    (hT : [.regs, .lnch] ⊆ T) :
    Keeps T s0 (disarmCmd n s).1 := by
  delta disarmCmd
  refine keeps_iteP ?_ ?_
  · refine keeps_fst ?_
    exact hs
  · refine keeps_fst ?_
    refine lnchEnd_keeps ?_ (List.Subset.trans (by decide) hT)
    exact hs

theorem execArm_keeps {T : List Part} {s0 : State} {n : Nat} {s : State} (hs : Keeps T s0 s)
    (hT : [.regs, .tbl, .items, .icu, .evr, .dio, .lnch, .priv] ⊆ T) :
    KeepsO T s0 (execArm n s) := by
  delta execArm
  refine keepsO_next ?_
  refine armCmd_keeps ?_ (List.Subset.trans (by decide) hT)
  exact hs

theorem execDisarm_keeps {T : List Part} {s0 : State} {n : Nat} {s : State} (hs : Keeps T s0 s)
    (hT : [.regs, .lnch] ⊆ T) :
    KeepsO T s0 (execDisarm n s) := by
  delta execDisarm
  refine keepsO_next ?_
  refine disarmCmd_keeps ?_ (List.Subset.trans (by decide) hT)
  exact hs

theorem execLaunchFire_keeps {T : List Part} {s0 : State} {n : Nat} {s : State} (hs : Keeps T s0 s)
    (hT : [.regs, .tbl, .items, .icu, .evr, .dio, .lnch, .priv] ⊆ T) :
    KeepsO T s0 (execLaunchFire n s) := by
  delta execLaunchFire
  refine keepsO_next ?_
  split
  · exact hs
  · extract_lets +onlyGivenNames y1
    refine keeps_ite ?_ ?_
    · extract_lets +onlyGivenNames y2
      refine lnchFire_keeps ?_ (List.Subset.trans (by decide) hT)
      refine setF_keeps ?_ (List.Subset.trans (by decide) hT)
      exact hs
    · exact hs

theorem lnchSoftReset_keeps {T : List Part} {s0 : State} {s : State} (hs : Keeps T s0 s)
    (hT : [.regs, .lnch] ⊆ T) :
    Keeps T s0 (State.lnchSoftReset s) := by
  delta State.lnchSoftReset
  refine keeps_foldl ?_ (fun a e ha => ?_)
  · exact hs
  · refine keeps_ite ?_ ?_
    · exact ha
    · refine wr_keeps ?_ (List.Subset.trans (by decide) hT)
      refine lnchEnd_keeps ?_ (List.Subset.trans (by decide) hT)
      exact ha

theorem stepClock_keeps {T : List Part} {s0 : State} {s : State} {d : Int} {ev : Nat} (hs : Keeps T s0 s)
    (hT : [.regs, .tbl, .items, .icu, .evr, .time, .dio, .lnch, .priv] ⊆ T) :
    Keeps T s0 (State.stepClock s d ev) := by
  delta State.stepClock
  extract_lets +onlyGivenNames y1
  extract_lets +onlyGivenNames y2
  have hy2 : Keeps T s0 y2 := by
    unfold y2
    refine timeMod_keeps ?_ (List.Subset.trans (by decide) hT)
    refine setClock_keeps ?_ (List.Subset.trans (by decide) hT)
    refine tickEarly_keeps ?_ (List.Subset.trans (by decide) hT)
    exact hs
  extract_lets +onlyGivenNames y3
  have hy3 : Keeps T s0 y3 := by
    unfold y3
    refine wr_keeps ?_ (List.Subset.trans (by decide) hT)
    refine wr_keeps ?_ (List.Subset.trans (by decide) hT)
    refine wr_keeps ?_ (List.Subset.trans (by decide) hT)
    exact hy2
  extract_lets +onlyGivenNames y4
  have hy4 : Keeps T s0 y4 := by
    unfold y4
    refine setB_keeps ?_ (List.Subset.trans (by decide) hT)
    refine setB_keeps ?_ (List.Subset.trans (by decide) hT)
    refine setB_keeps ?_ (List.Subset.trans (by decide) hT)
    refine bump_keeps ?_ (List.Subset.trans (by decide) hT)
    exact hy3
  extract_lets +onlyGivenNames y5
  have hy5 : Keeps T s0 y5 := by
    unfold y5
    refine raiseEv_keeps ?_ (List.Subset.trans (by decide) hT)
    refine ownQuality_keeps ?_ (List.Subset.trans (by decide) hT)
    exact hy4
  refine keeps_foldl ?_ (fun a e ha => ?_)
  · exact hy5
  · extract_lets +onlyGivenNames y6
    refine keeps_ite ?_ ?_
    · exact ha
    · refine lnchLate_keeps ?_ (List.Subset.trans (by decide) hT)
      exact ha

theorem execStepApplied_keeps {T : List Part} {s0 : State} {s : State} (hs : Keeps T s0 s)
    (hT : [.regs, .tbl, .items, .icu, .evr, .time, .dio, .lnch, .priv] ⊆ T) :
    KeepsO T s0 (execStepApplied s) := by
  delta execStepApplied
  refine keepsO_next ?_
  split
  · refine keeps_ite ?_ ?_
    · refine stepClock_keeps ?_ (List.Subset.trans (by decide) hT)
      exact hs
    · exact hs
  · exact hs

theorem execInitSet_keeps {T : List Part} {s0 : State} {s : State} (hs : Keeps T s0 s)
    (hT : [.regs, .tbl, .items, .icu, .evr, .time, .dio, .lnch, .priv] ⊆ T) :
    KeepsO T s0 (execInitSet s) := by
  delta execInitSet
  refine keepsO_next ?_
  split
  · refine keeps_ite ?_ ?_
    · exact hs
    · refine stepClock_keeps ?_ (List.Subset.trans (by decide) hT)
      exact hs
  · exact hs

end Sys2Proof.Machine
end

