-- ==== Sys2Proof/Laws/KeepSnet.lean ====
section
/-! SUPPORT. What each operation of Machine/Snet.lean keeps: the canonical form, the queue, and the parts it does not name. -/

namespace Sys2Proof.Machine

theorem snetMod_keeps {T : List Part} {s0 : State} {s : State} {f : SnetSt → SnetSt} (hs : Keeps T s0 s)
    (hT : [.snet] ⊆ T) :
    Keeps T s0 (State.snetMod s f) := by
  delta State.snetMod
  refine keeps_snet ?_ (List.Subset.trans (by decide) hT)
  exact hs

theorem nodeMod_keeps {T : List Part} {s0 : State} {s : State} {n : Nat} {f : NodeSt → NodeSt} (hs : Keeps T s0 s)
    (hT : [.snet] ⊆ T) :
    Keeps T s0 (State.nodeMod s n f) := by
  delta State.nodeMod
  refine snetMod_keeps ?_ (List.Subset.trans (by decide) hT)
  exact hs

theorem countTx_keeps {T : List Part} {s0 : State} {s : State} (hs : Keeps T s0 s)
    (hT : [.regs] ⊆ T) :
    Keeps T s0 (State.countTx s) := by
  delta State.countTx
  refine keeps_foldl ?_ (fun a e ha => ?_)
  · exact hs
  · refine txFrame_keeps ?_ (List.Subset.trans (by decide) hT)
    exact ha

theorem lineDown_keeps {T : List Part} {s0 : State} {p : Nat} {s : State} (hs : Keeps T s0 s)
    (hT : [.snet] ⊆ T) :
    Keeps T s0 (lineDown p s) := by
  delta lineDown
  refine keeps_ite ?_ ?_
  · refine snetMod_keeps ?_ (List.Subset.trans (by decide) hT)
    exact hs
  · exact hs

theorem execLinkDown_keeps {T : List Part} {s0 : State} {p : Nat} {s : State} (hs : Keeps T s0 s)
    (hT : [.snet] ⊆ T) :
    KeepsO T s0 (execLinkDown p s) := by
  delta execLinkDown
  refine keepsO_next ?_
  refine lineDown_keeps ?_ (List.Subset.trans (by decide) hT)
  exact hs

theorem execLinkUp_keeps {T : List Part} {s0 : State} {p : Nat} {s : State} (hs : Keeps T s0 s)
    (hT : [.snet] ⊆ T) :
    KeepsO T s0 (execLinkUp p s) := by
  delta execLinkUp
  refine keepsO_next ?_
  refine keeps_ite ?_ ?_
  · refine snetMod_keeps ?_ (List.Subset.trans (by decide) hT)
    exact hs
  · exact hs

theorem execSfpFault_keeps {T : List Part} {s0 : State} {p : Nat} {txf : Bool} {los : Bool} {removed : Bool} {s : State} (hs : Keeps T s0 s)
    (hT : [.snet] ⊆ T) :
    KeepsO T s0 (execSfpFault p txf los removed s) := by
  delta execSfpFault
  refine keepsO_next ?_
  refine keeps_ite ?_ ?_
  · exact hs
  · refine snetMod_keeps ?_ (List.Subset.trans (by decide) hT)
    exact hs

theorem lineEvent_keeps {T : List Part} {s0 : State} {s : State} {e : Nat × Nat} (hs : Keeps T s0 s)
    (hT : [.regs, .tbl, .items, .icu, .evr] ⊆ T) :
    Keeps T s0 (State.lineEvent s e) := by
  delta State.lineEvent
  extract_lets +onlyGivenNames y1
  extract_lets +onlyGivenNames y2
  refine keeps_ite ?_ ?_
  · refine raiseEv_keeps ?_ (List.Subset.trans (by decide) hT)
    refine bump_keeps ?_ (List.Subset.trans (by decide) hT)
    refine setB_keeps ?_ (List.Subset.trans (by decide) hT)
    exact hs
  · refine keeps_ite ?_ ?_
    · refine raiseEv_keeps ?_ (List.Subset.trans (by decide) hT)
      refine setB_keeps ?_ (List.Subset.trans (by decide) hT)
      refine setB_keeps ?_ (List.Subset.trans (by decide) hT)
      refine setB_keeps ?_ (List.Subset.trans (by decide) hT)
      refine setB_keeps ?_ (List.Subset.trans (by decide) hT)
      exact hs
    · refine keeps_ite ?_ ?_
      · refine setB_keeps ?_ (List.Subset.trans (by decide) hT)
        exact hs
      · refine keeps_ite ?_ ?_
        · refine setB_keeps ?_ (List.Subset.trans (by decide) hT)
          exact hs
        · refine keeps_ite ?_ ?_
          · refine setB_keeps ?_ (List.Subset.trans (by decide) hT)
            exact hs
          · refine raiseEv_keeps ?_ (List.Subset.trans (by decide) hT)
            exact hs

theorem portShow_keeps {T : List Part} {s0 : State} {s : State} {p : Nat} {o : PortObs} (hs : Keeps T s0 s)
    (hT : [.regs] ⊆ T) :
    Keeps T s0 (State.portShow s p o) := by
  delta State.portShow
  extract_lets +onlyGivenNames y1
  have hy1 : Keeps T s0 y1 := by
    unfold y1
    refine bumpN_keeps ?_ (List.Subset.trans (by decide) hT)
    refine bumpN_keeps ?_ (List.Subset.trans (by decide) hT)
    exact hs
  refine wr_keeps ?_ (List.Subset.trans (by decide) hT)
  refine wr_keeps ?_ (List.Subset.trans (by decide) hT)
  refine setF_keeps ?_ (List.Subset.trans (by decide) hT)
  refine setB_keeps ?_ (List.Subset.trans (by decide) hT)
  exact hy1

theorem portsTick_keeps {T : List Part} {s0 : State} {s : State} {l : List PortObs} (hs : Keeps T s0 s)
    (hT : [.regs] ⊆ T) :
    Keeps T s0 (State.portsTick s l) := by
  delta State.portsTick
  refine keeps_foldl ?_ (fun a e ha => ?_)
  · exact hs
  · refine portShow_keeps ?_ (List.Subset.trans (by decide) hT)
    exact ha

theorem lineTick_keeps {T : List Part} {s0 : State} {s : State} (hs : Keeps T s0 s)
    (hT : [.regs, .tbl, .items, .icu, .evr, .snet] ⊆ T) :
    Keeps T s0 (State.lineTick s) := by
  delta State.lineTick
  refine snetMod_keeps ?_ (List.Subset.trans (by decide) hT)
  refine keeps_foldl ?_ (fun a e ha => ?_)
  · exact hs
  · refine lineEvent_keeps ?_ (List.Subset.trans (by decide) hT)
    exact ha

theorem prpSupervise_keeps {T : List Part} {s0 : State} {s : State} (hs : Keeps T s0 s)
    (hT : [.regs, .snet, .sent] ⊆ T) :
    Keeps T s0 (State.prpSupervise s) := by
  delta State.prpSupervise
  refine snetMod_keeps ?_ (List.Subset.trans (by decide) hT)
  refine prpStep_keeps ?_ (List.Subset.trans (by decide) hT)
  refine keeps_foldl ?_ (fun a e ha => ?_)
  · refine countTx_keeps ?_ (List.Subset.trans (by decide) hT)
    exact hs
  · refine emit_keeps ?_ (List.Subset.trans (by decide) hT)
    exact ha

theorem execPrpSupervisionFrame_keeps {T : List Part} {s0 : State} {s : State} (hs : Keeps T s0 s)
    (hT : [.regs, .snet, .sent] ⊆ T) :
    KeepsO T s0 (execPrpSupervisionFrame s) := by
  delta execPrpSupervisionFrame
  refine keepsO_next ?_
  extract_lets +onlyGivenNames y1
  refine keeps_ite ?_ ?_
  · refine prpSupervise_keeps ?_ (List.Subset.trans (by decide) hT)
    exact hs
  · exact hs

theorem setNodeState_keeps {T : List Part} {s0 : State} {s : State} {n : Nat} {st : Nat} (hs : Keeps T s0 s)
    (hT : [.tbl] ⊆ T) :
    Keeps T s0 (State.setNodeState s n st) := by
  delta State.setNodeState
  refine tset_keeps ?_ (List.Subset.trans (by decide) hT)
  exact hs

theorem imgFlag_keeps {T : List Part} {s0 : State} {s : State} {n : Nat} {b : Nat} {v : Bool} (hs : Keeps T s0 s)
    (hT : [.tbl] ⊆ T) :
    Keeps T s0 (State.imgFlag s n b v) := by
  delta State.imgFlag
  refine tset_keeps ?_ (List.Subset.trans (by decide) hT)
  exact hs

theorem nodeCount_keeps {T : List Part} {s0 : State} {s : State} {n : Nat} {w : Nat} (hs : Keeps T s0 s)
    (hT : [.tbl] ⊆ T) :
    Keeps T s0 (State.nodeCount s n w) := by
  delta State.nodeCount
  extract_lets +onlyGivenNames y1
  refine keeps_ite ?_ ?_
  · refine twr_keeps ?_ (List.Subset.trans (by decide) hT)
    exact hs
  · refine keeps_ite ?_ ?_
    · refine tset_keeps ?_ (List.Subset.trans (by decide) hT)
      refine twr_keeps ?_ (List.Subset.trans (by decide) hT)
      exact hs
    · refine twr_keeps ?_ (List.Subset.trans (by decide) hT)
      exact hs

theorem nodeCounts_keeps {T : List Part} {s0 : State} {s : State} (hs : Keeps T s0 s)
    (hT : [.regs] ⊆ T) :
    Keeps T s0 (State.nodeCounts s) := by
  delta State.nodeCounts
  extract_lets +onlyGivenNames y1
  extract_lets +onlyGivenNames y2
  refine wr_keeps ?_ (List.Subset.trans (by decide) hT)
  refine wr_keeps ?_ (List.Subset.trans (by decide) hT)
  refine wr_keeps ?_ (List.Subset.trans (by decide) hT)
  exact hs

theorem groupDefs_keeps {T : List Part} {s0 : State} {s : State} (hs : Keeps T s0 s)
    (hT : [.regs] ⊆ T) :
    Keeps T s0 (State.groupDefs s) := by
  delta State.groupDefs
  extract_lets +onlyGivenNames y1
  refine keeps_foldl ?_ (fun a e ha => ?_)
  · exact hs
  · refine wr_keeps ?_ (List.Subset.trans (by decide) hT)
    exact ha

theorem leadChanged_keeps {T : List Part} {s0 : State} {s : State} (hs : Keeps T s0 s)
    (hT : [.snet] ⊆ T) :
    Keeps T s0 (State.leadChanged s) := by
  delta State.leadChanged
  refine keeps_foldl ?_ (fun a e ha => ?_)
  · exact hs
  · refine nodeMod_keeps ?_ (List.Subset.trans (by decide) hT)
    exact ha

theorem nodeSlots_keeps {T : List Part} {s0 : State} {s : State} {n : Nat} (hs : Keeps T s0 s)
    (hT : [.tbl, .snet] ⊆ T) :
    Keeps T s0 (State.nodeSlots s n) := by
  delta State.nodeSlots
  extract_lets +onlyGivenNames y1
  extract_lets +onlyGivenNames y2
  extract_lets +onlyGivenNames y3
  extract_lets +onlyGivenNames y4
  have hy4 : Keeps T s0 y4 := by
    unfold y4
    refine nodeMod_keeps ?_ (List.Subset.trans (by decide) hT)
    exact hs
  refine imgFlag_keeps ?_ (List.Subset.trans (by decide) hT)
  exact hy4

theorem allSlots_keeps {T : List Part} {s0 : State} {s : State} (hs : Keeps T s0 s)
    (hT : [.tbl, .snet] ⊆ T) :
    Keeps T s0 (State.allSlots s) := by
  delta State.allSlots
  refine keeps_foldl ?_ (fun a e ha => ?_)
  · exact hs
  · refine nodeSlots_keeps ?_ (List.Subset.trans (by decide) hT)
    exact ha

theorem rekeyRegs_keeps {T : List Part} {s0 : State} {s : State} (hs : Keeps T s0 s)
    (hT : [.regs] ⊆ T) :
    Keeps T s0 (State.rekeyRegs s) := by
  delta State.rekeyRegs
  split
  · refine wr_keeps ?_ (List.Subset.trans (by decide) hT)
    refine setB_keeps ?_ (List.Subset.trans (by decide) hT)
    exact hs
  · refine wr_keeps ?_ (List.Subset.trans (by decide) hT)
    refine wr_keeps ?_ (List.Subset.trans (by decide) hT)
    refine wr_keeps ?_ (List.Subset.trans (by decide) hT)
    refine setB_keeps ?_ (List.Subset.trans (by decide) hT)
    exact hs

theorem rekeyDone_keeps {T : List Part} {s0 : State} {s : State} (hs : Keeps T s0 s)
    (hT : [.regs, .tbl, .items, .icu, .evr, .snet] ⊆ T) :
    Keeps T s0 (State.rekeyDone s) := by
  delta State.rekeyDone
  extract_lets +onlyGivenNames y1
  extract_lets +onlyGivenNames y2
  have hy2 : Keeps T s0 y2 := by
    unfold y2
    refine keeps_foldl ?_ (fun a e ha => ?_)
    · exact hs
    · refine raiseEv_keeps ?_ (List.Subset.trans (by decide) hT)
      exact ha
  extract_lets +onlyGivenNames y3
  extract_lets +onlyGivenNames y4
  have hy4 : Keeps T s0 y4 := by
    unfold y4
    refine snetMod_keeps ?_ (List.Subset.trans (by decide) hT)
    exact hy2
  refine rekeyRegs_keeps ?_ (List.Subset.trans (by decide) hT)
  exact hy4

theorem rekeyJoin_keeps {T : List Part} {s0 : State} {s : State} {n : Nat} (hs : Keeps T s0 s)
    (hT : [.snet] ⊆ T) :
    Keeps T s0 (State.rekeyJoin s n) := by
  delta State.rekeyJoin
  refine snetMod_keeps ?_ (List.Subset.trans (by decide) hT)
  exact hs

theorem rekeyStart_keeps {T : List Part} {s0 : State} {s : State} {g : Nat} {at_ : Nat × Nat} (hs : Keeps T s0 s)
    (hT : [.regs, .snet] ⊆ T) :
    Keeps T s0 (State.rekeyStart s g at_) := by
  delta State.rekeyStart
  extract_lets +onlyGivenNames y1
  refine rekeyRegs_keeps ?_ (List.Subset.trans (by decide) hT)
  refine snetMod_keeps ?_ (List.Subset.trans (by decide) hT)
  exact hs

theorem rekeyCmd_keeps {T : List Part} {s0 : State} {s : State} (hs : Keeps T s0 s)
    (hT : [.regs, .snet] ⊆ T) :
    Keeps T s0 (rekeyCmd s).1 := by
  delta rekeyCmd
  refine keeps_iteP ?_ ?_
  · refine keeps_fst ?_
    exact hs
  · refine keeps_fst ?_
    refine rekeyStart_keeps ?_ (List.Subset.trans (by decide) hT)
    exact hs

theorem execRekey_keeps {T : List Part} {s0 : State} {s : State} (hs : Keeps T s0 s)
    (hT : [.regs, .snet] ⊆ T) :
    KeepsO T s0 (execRekey s) := by
  delta execRekey
  refine keepsO_next ?_
  refine rekeyCmd_keeps ?_ (List.Subset.trans (by decide) hT)
  exact hs

theorem execRekeySwitch_keeps {T : List Part} {s0 : State} {g : Nat} {s : State} (hs : Keeps T s0 s)
    (hT : [.regs, .tbl, .items, .icu, .evr, .snet] ⊆ T) :
    KeepsO T s0 (execRekeySwitch g s) := by
  delta execRekeySwitch
  refine keepsO_next ?_
  split
  · exact hs
  · refine keeps_ite ?_ ?_
    · exact hs
    · extract_lets +onlyGivenNames y1
      have hy1 : Keeps T s0 y1 := by
        unfold y1
        refine snetMod_keeps ?_ (List.Subset.trans (by decide) hT)
        exact hs
      extract_lets +onlyGivenNames y2
      have hy2 : Keeps T s0 y2 := by
        unfold y2
        refine keeps_ite ?_ ?_
        · refine setB_keeps ?_ (List.Subset.trans (by decide) hT)
          exact hy1
        · refine setB_keeps ?_ (List.Subset.trans (by decide) hT)
          exact hy1
      extract_lets +onlyGivenNames y3
      have hy3 : Keeps T s0 y3 := by
        unfold y3
        refine keeps_foldl ?_ (fun a e ha => ?_)
        · exact hy2
        · refine imgFlag_keeps ?_ (List.Subset.trans (by decide) hT)
          exact ha
      refine rekeyDone_keeps ?_ (List.Subset.trans (by decide) hT)
      refine raiseEv_keeps ?_ (List.Subset.trans (by decide) hT)
      exact hy3

theorem execRekeyOverlapEnd_keeps {T : List Part} {s0 : State} {g : Nat} {s : State} (hs : Keeps T s0 s)
    (hT : [.regs, .snet] ⊆ T) :
    KeepsO T s0 (execRekeyOverlapEnd g s) := by
  delta execRekeyOverlapEnd
  refine keepsO_next ?_
  split
  · exact hs
  · refine keeps_ite ?_ ?_
    · exact hs
    · refine setB_keeps ?_ (List.Subset.trans (by decide) hT)
      refine snetMod_keeps ?_ (List.Subset.trans (by decide) hT)
      exact hs

theorem groupsRevoked_keeps {T : List Part} {s0 : State} {s : State} (hs : Keeps T s0 s)
    (hT : [.regs, .tbl, .items, .icu, .evr, .snet] ⊆ T) :
    Keeps T s0 (State.groupsRevoked s) := by
  delta State.groupsRevoked
  extract_lets +onlyGivenNames y1
  extract_lets +onlyGivenNames y2
  extract_lets +onlyGivenNames y3
  have hy3 : Keeps T s0 y3 := by
    unfold y3
    refine keeps_foldl ?_ (fun a e ha => ?_)
    · exact hs
    · refine setB_keeps ?_ (List.Subset.trans (by decide) hT)
      exact ha
  extract_lets +onlyGivenNames y4
  have hy4 : Keeps T s0 y4 := by
    unfold y4
    refine keeps_foldl ?_ (fun a e ha => ?_)
    · exact hy3
    · refine setB_keeps ?_ (List.Subset.trans (by decide) hT)
      exact ha
  extract_lets +onlyGivenNames y5
  have hy5 : Keeps T s0 y5 := by
    unfold y5
    refine rekeyRegs_keeps ?_ (List.Subset.trans (by decide) hT)
    refine snetMod_keeps ?_ (List.Subset.trans (by decide) hT)
    exact hy4
  refine keeps_ite ?_ ?_
  · exact hy5
  · refine raiseEv_keeps ?_ (List.Subset.trans (by decide) hT)
    exact hy5

theorem qUse_keeps {T : List Part} {s0 : State} {s : State} (hs : Keeps T s0 s)
    (hT : [.regs] ⊆ T) :
    Keeps T s0 (State.qUse s) := by
  delta State.qUse
  extract_lets +onlyGivenNames y1
  extract_lets +onlyGivenNames y2
  refine setB_keeps ?_ (List.Subset.trans (by decide) hT)
  refine setF_keeps ?_ (List.Subset.trans (by decide) hT)
  refine setF_keeps ?_ (List.Subset.trans (by decide) hT)
  exact hs

theorem steadySet_keeps {T : List Part} {s0 : State} {s : State} {n : Nat} {v : Steady} (hs : Keeps T s0 s)
    (hT : [.snet] ⊆ T) :
    Keeps T s0 (State.steadySet s n v) := by
  delta State.steadySet
  refine nodeMod_keeps ?_ (List.Subset.trans (by decide) hT)
  exact hs

theorem qFree_keeps {T : List Part} {s0 : State} {s : State} {e : QEntry} {off : Nat} (hs : Keeps T s0 s)
    (hT : [.regs, .tbl, .snet] ⊆ T) :
    Keeps T s0 (State.qFree s e off) := by
  delta State.qFree
  extract_lets +onlyGivenNames y1
  have hy1 : Keeps T s0 y1 := by
    unfold y1
    refine keeps_ite ?_ ?_
    · refine steadySet_keeps ?_ (List.Subset.trans (by decide) hT)
      exact hs
    · exact hs
  extract_lets +onlyGivenNames y2
  have hy2 : Keeps T s0 y2 := by
    unfold y2
    refine tclear_keeps ?_ (List.Subset.trans (by decide) hT)
    exact hy1
  refine qUse_keeps ?_ (List.Subset.trans (by decide) hT)
  refine nodeMod_keeps ?_ (List.Subset.trans (by decide) hT)
  exact hy2

theorem steadyNow_keeps {T : List Part} {s0 : State} {s : State} {n : Nat} {off : Nat} (hs : Keeps T s0 s)
    (hT : [.snet] ⊆ T) :
    Keeps T s0 (State.steadyNow s n off) := by
  delta State.steadyNow
  refine keeps_foldl ?_ (fun a e ha => ?_)
  · exact hs
  · refine steadySet_keeps ?_ (List.Subset.trans (by decide) hT)
    exact ha

theorem qDiscard_keeps {T : List Part} {s0 : State} {s : State} {n : Nat} (hs : Keeps T s0 s)
    (hT : [.regs, .tbl, .snet] ⊆ T) :
    Keeps T s0 (State.qDiscard s n) := by
  delta State.qDiscard
  refine qUse_keeps ?_ (List.Subset.trans (by decide) hT)
  refine nodeMod_keeps ?_ (List.Subset.trans (by decide) hT)
  refine keeps_foldl ?_ (fun a e ha => ?_)
  · refine steadyNow_keeps ?_ (List.Subset.trans (by decide) hT)
    exact hs
  · refine tclear_keeps ?_ (List.Subset.trans (by decide) hT)
    exact ha

theorem qWrite_keeps {T : List Part} {s0 : State} {s : State} {i : Nat} {e : QEntry} (hs : Keeps T s0 s)
    (hT : [.tbl] ⊆ T) :
    Keeps T s0 (State.qWrite s i e) := by
  delta State.qWrite
  refine trecSet_keeps ?_ (List.Subset.trans (by decide) hT)
  exact hs

theorem enqueue_keeps {T : List Part} {s0 : State} {s : State} {src : Nat} {n : Nat} {kind : Nat} {launch : Option (Nat × Nat)} {vals : List Word} {off : Nat} (hs : Keeps T s0 s)
    (hT : [.regs, .tbl, .items, .icu, .evr, .snet] ⊆ T) :
    Keeps T s0 (State.enqueue s src n kind launch vals off).1 := by
  delta State.enqueue
  extract_lets +onlyGivenNames y1
  extract_lets +onlyGivenNames y2
  extract_lets +onlyGivenNames y3
  have hy3 : Keeps T s0 y3 := by
    unfold y3
    refine keeps_ite ?_ ?_
    · refine keeps_foldl ?_ (fun a e ha => ?_)
      · exact hs
      · refine qFree_keeps ?_ (List.Subset.trans (by decide) hT)
        exact ha
    · exact hs
  extract_lets +onlyGivenNames y4
  extract_lets +onlyGivenNames y5
  split
  · refine keeps_fst ?_
    refine qUse_keeps ?_ (List.Subset.trans (by decide) hT)
    unfold y5
    refine keeps_ite ?_ ?_
    · refine steadySet_keeps ?_ (List.Subset.trans (by decide) hT)
      refine qWrite_keeps ?_ (List.Subset.trans (by decide) hT)
      exact hy3
    · refine qWrite_keeps ?_ (List.Subset.trans (by decide) hT)
      exact hy3
  · extract_lets +onlyGivenNames y6
    refine keeps_iteP ?_ ?_
    · refine keeps_fst ?_
      refine qUse_keeps ?_ (List.Subset.trans (by decide) hT)
      unfold y5
      refine keeps_ite ?_ ?_
      · refine steadySet_keeps ?_ (List.Subset.trans (by decide) hT)
        refine qWrite_keeps ?_ (List.Subset.trans (by decide) hT)
        exact hy3
      · refine qWrite_keeps ?_ (List.Subset.trans (by decide) hT)
        exact hy3
    · refine keeps_iteP ?_ ?_
      · refine keeps_fst ?_
        exact hy3
      · extract_lets +onlyGivenNames y7
        have hy7 : Keeps T s0 y7 := by
          unfold y7
          refine bump_keeps ?_ (List.Subset.trans (by decide) hT)
          exact hy3
        extract_lets +onlyGivenNames y8
        extract_lets +onlyGivenNames y9
        have hy9 : Keeps T s0 y9 := by
          unfold y9
          refine keeps_ite ?_ ?_
          · exact hy7
          · refine raiseEv_keeps ?_ (List.Subset.trans (by decide) hT)
            exact hy7
        refine keeps_fst ?_
        refine snetMod_keeps ?_ (List.Subset.trans (by decide) hT)
        exact hy9

theorem execLaunchQueueExpire_keeps {T : List Part} {s0 : State} {i : Nat} {ns : Nat} {s : State} (hs : Keeps T s0 s)
    (hT : [.regs, .tbl, .snet] ⊆ T) :
    KeepsO T s0 (execLaunchQueueExpire i ns s) := by
  delta execLaunchQueueExpire
  extract_lets +onlyGivenNames y1
  refine keepsO_next ?_
  refine keeps_ite ?_ ?_
  · refine qFree_keeps ?_ (List.Subset.trans (by decide) hT)
    exact hs
  · exact hs

theorem nodeInit_keeps {T : List Part} {s0 : State} {s : State} {n : Nat} (hs : Keeps T s0 s)
    (hT : [.regs, .tbl, .snet] ⊆ T) :
    Keeps T s0 (State.nodeInit s n) := by
  delta State.nodeInit
  extract_lets +onlyGivenNames y1
  have hy1 : Keeps T s0 y1 := by
    unfold y1
    refine qDiscard_keeps ?_ (List.Subset.trans (by decide) hT)
    refine imgFlag_keeps ?_ (List.Subset.trans (by decide) hT)
    refine setNodeState_keeps ?_ (List.Subset.trans (by decide) hT)
    exact hs
  refine nodeMod_keeps ?_ (List.Subset.trans (by decide) hT)
  exact hy1

theorem nodeQuarantine_keeps {T : List Part} {s0 : State} {s : State} {n : Nat} (hs : Keeps T s0 s)
    (hT : [.tbl, .snet] ⊆ T) :
    Keeps T s0 (State.nodeQuarantine s n) := by
  delta State.nodeQuarantine
  refine nodeMod_keeps ?_ (List.Subset.trans (by decide) hT)
  refine setNodeState_keeps ?_ (List.Subset.trans (by decide) hT)
  exact hs

theorem stateAccept_keeps {T : List Part} {s0 : State} {s : State} {n : Nat} {off : Nat} (hs : Keeps T s0 s)
    (hT : [.regs, .tbl, .items, .icu, .evr, .snet] ⊆ T) :
    Keeps T s0 (State.stateAccept s n off) := by
  delta State.stateAccept
  extract_lets +onlyGivenNames y1
  have hy1 : Keeps T s0 y1 := by
    unfold y1
    refine steadyNow_keeps ?_ (List.Subset.trans (by decide) hT)
    exact hs
  extract_lets +onlyGivenNames y2
  extract_lets +onlyGivenNames y3
  have hy3 : Keeps T s0 y3 := by
    unfold y3
    refine nodeMod_keeps ?_ (List.Subset.trans (by decide) hT)
    exact hy1
  extract_lets +onlyGivenNames y4
  have hy4 : Keeps T s0 y4 := by
    unfold y4
    refine keeps_foldl ?_ (fun a e ha => ?_)
    · exact hy3
    · refine keeps_ite ?_ ?_
      · refine tset_keeps ?_ (List.Subset.trans (by decide) hT)
        exact ha
      · exact ha
  refine keeps_foldl ?_ (fun a e ha => ?_)
  · exact hy4
  · refine enqueue_keeps ?_ (List.Subset.trans (by decide) hT)
    exact ha

theorem nodeAcceptCmd_keeps {T : List Part} {s0 : State} {s : State} (hs : Keeps T s0 s)
    (hT : [.regs, .tbl, .items, .icu, .evr, .snet] ⊆ T) :
    Keeps T s0 (nodeAcceptCmd s).1 := by
  delta nodeAcceptCmd
  extract_lets +onlyGivenNames y1
  refine keeps_iteP ?_ ?_
  · refine keeps_fst ?_
    exact hs
  · extract_lets +onlyGivenNames y2
    have hy2 : Keeps T s0 y2 := by
      unfold y2
      refine imgFlag_keeps ?_ (List.Subset.trans (by decide) hT)
      refine nodeMod_keeps ?_ (List.Subset.trans (by decide) hT)
      exact hs
    refine keeps_fst ?_
    refine stateAccept_keeps ?_ (List.Subset.trans (by decide) hT)
    exact hy2

theorem execNodeAccept_keeps {T : List Part} {s0 : State} {s : State} (hs : Keeps T s0 s)
    (hT : [.regs, .tbl, .items, .icu, .evr, .snet] ⊆ T) :
    KeepsO T s0 (execNodeAccept s) := by
  delta execNodeAccept
  refine keepsO_next ?_
  refine nodeAcceptCmd_keeps ?_ (List.Subset.trans (by decide) hT)
  exact hs

theorem nodeResetCmd_keeps {T : List Part} {s0 : State} {s : State} (hs : Keeps T s0 s)
    (hT : [.regs, .tbl, .snet] ⊆ T) :
    Keeps T s0 (nodeResetCmd s) := by
  delta nodeResetCmd
  refine nodeInit_keeps ?_ (List.Subset.trans (by decide) hT)
  exact hs

theorem execNodeReset_keeps {T : List Part} {s0 : State} {s : State} (hs : Keeps T s0 s)
    (hT : [.regs, .tbl, .snet] ⊆ T) :
    KeepsO T s0 (execNodeReset s) := by
  delta execNodeReset
  refine keepsO_next ?_
  refine nodeResetCmd_keeps ?_ (List.Subset.trans (by decide) hT)
  exact hs

theorem nodeClrCmd_keeps {T : List Part} {s0 : State} {s : State} (hs : Keeps T s0 s)
    (hT : [.tbl] ⊆ T) :
    Keeps T s0 (nodeClrCmd s) := by
  delta nodeClrCmd
  refine tclear_keeps ?_ (List.Subset.trans (by decide) hT)
  exact hs

theorem execNodeClr_keeps {T : List Part} {s0 : State} {s : State} (hs : Keeps T s0 s)
    (hT : [.tbl] ⊆ T) :
    KeepsO T s0 (execNodeClr s) := by
  delta execNodeClr
  refine keepsO_next ?_
  refine nodeClrCmd_keeps ?_ (List.Subset.trans (by decide) hT)
  exact hs

theorem execNodeBaselineSave_keeps {T : List Part} {s0 : State} {s : State} (hs : Keeps T s0 s)
    (hT : [.snet] ⊆ T) :
    KeepsO T s0 (execNodeBaselineSave s) := by
  delta execNodeBaselineSave
  refine keepsO_next ?_
  refine snetMod_keeps ?_ (List.Subset.trans (by decide) hT)
  exact hs

theorem imgSetStat_keeps {T : List Part} {s0 : State} {s : State} {n : Nat} {i : Nat} {st : Nat} (hs : Keeps T s0 s)
    (hT : [.tbl] ⊆ T) :
    Keeps T s0 (State.imgSetStat s n i st) := by
  delta State.imgSetStat
  refine tset_keeps ?_ (List.Subset.trans (by decide) hT)
  exact hs

theorem imgWords_keeps {T : List Part} {s0 : State} {s : State} {n : Nat} {ps : List (Nat × Word)} (hs : Keeps T s0 s)
    (hT : [.tbl] ⊆ T) :
    Keeps T s0 (State.imgWords s n ps) := by
  delta State.imgWords
  refine keeps_foldl ?_ (fun a e ha => ?_)
  · exact hs
  · refine twr_keeps ?_ (List.Subset.trans (by decide) hT)
    exact ha

theorem imgType_keeps {T : List Part} {s0 : State} {s : State} {n : Nat} (hs : Keeps T s0 s)
    (hT : [.tbl, .snet] ⊆ T) :
    Keeps T s0 (State.imgType s n) := by
  delta State.imgType
  extract_lets +onlyGivenNames y1
  extract_lets +onlyGivenNames y2
  have hy2 : Keeps T s0 y2 := by
    unfold y2
    refine tset_keeps ?_ (List.Subset.trans (by decide) hT)
    exact hs
  extract_lets +onlyGivenNames y3
  have hy3 : Keeps T s0 y3 := by
    unfold y3
    refine keeps_foldl ?_ (fun a e ha => ?_)
    · exact hy2
    · refine imgSetStat_keeps ?_ (List.Subset.trans (by decide) hT)
      refine imgWords_keeps ?_ (List.Subset.trans (by decide) hT)
      exact ha
  refine nodeMod_keeps ?_ (List.Subset.trans (by decide) hT)
  exact hy3

theorem nodeTableWrite_keeps {T : List Part} {s0 : State} {s : State} {n : Nat} {old : List Word} (hs : Keeps T s0 s)
    (hT : [.regs, .tbl, .items, .icu, .evr, .snet] ⊆ T) :
    Keeps T s0 (State.nodeTableWrite s n old) := by
  delta State.nodeTableWrite
  extract_lets +onlyGivenNames y1
  extract_lets +onlyGivenNames y2
  have hy2 : Keeps T s0 y2 := by
    unfold y2
    refine keeps_ite ?_ ?_
    · refine nodeInit_keeps ?_ (List.Subset.trans (by decide) hT)
      exact hs
    · exact hs
  extract_lets +onlyGivenNames y3
  have hy3 : Keeps T s0 y3 := by
    unfold y3
    refine snetMod_keeps ?_ (List.Subset.trans (by decide) hT)
    exact hy2
  extract_lets +onlyGivenNames y4
  extract_lets +onlyGivenNames y5
  have hy5 : Keeps T s0 y5 := by
    unfold y5
    refine keeps_ite ?_ ?_
    · refine nodeSlots_keeps ?_ (List.Subset.trans (by decide) hT)
      refine imgType_keeps ?_ (List.Subset.trans (by decide) hT)
      refine keeps_ite ?_ ?_
      · refine rekeyJoin_keeps ?_ (List.Subset.trans (by decide) hT)
        exact hy3
      · exact hy3
    · refine imgType_keeps ?_ (List.Subset.trans (by decide) hT)
      exact hy3
  refine rekeyDone_keeps ?_ (List.Subset.trans (by decide) hT)
  refine groupDefs_keeps ?_ (List.Subset.trans (by decide) hT)
  exact hy5

theorem snetSoftReset_keeps {T : List Part} {s0 : State} {s : State} (hs : Keeps T s0 s)
    (hT : [.regs, .tbl, .snet] ⊆ T) :
    Keeps T s0 (State.snetSoftReset s) := by
  delta State.snetSoftReset
  extract_lets +onlyGivenNames y1
  have hy1 : Keeps T s0 y1 := by
    unfold y1
    refine keeps_foldl ?_ (fun a e ha => ?_)
    · exact hs
    · refine nodeInit_keeps ?_ (List.Subset.trans (by decide) hT)
      exact ha
  extract_lets +onlyGivenNames y2
  have hy2 : Keeps T s0 y2 := by
    unfold y2
    refine setF_keeps ?_ (List.Subset.trans (by decide) hT)
    refine tclear_keeps ?_ (List.Subset.trans (by decide) hT)
    exact hy1
  refine qUse_keeps ?_ (List.Subset.trans (by decide) hT)
  exact hy2

theorem countRx_keeps {T : List Part} {s0 : State} {s : State} {g : Gsp} (hs : Keeps T s0 s)
    (hT : [.regs, .tbl, .items, .icu, .evr] ⊆ T) :
    Keeps T s0 (State.countRx s g) := by
  delta State.countRx
  refine keeps_ite ?_ ?_
  · exact hs
  · extract_lets +onlyGivenNames y1
    have hy1 : Keeps T s0 y1 := by
      unfold y1
      refine bump_keeps ?_ (List.Subset.trans (by decide) hT)
      exact hs
    extract_lets +onlyGivenNames y2
    have hy2 : Keeps T s0 y2 := by
      unfold y2
      refine keeps_ite ?_ ?_
      · refine raiseEv_keeps ?_ (List.Subset.trans (by decide) hT)
        refine bump_keeps ?_ (List.Subset.trans (by decide) hT)
        exact hy1
      · exact hy1
    refine keeps_ite ?_ ?_
    · refine bump_keeps ?_ (List.Subset.trans (by decide) hT)
      refine bump_keeps ?_ (List.Subset.trans (by decide) hT)
      exact hy2
    · refine bump_keeps ?_ (List.Subset.trans (by decide) hT)
      exact hy2

/-- The state that the checks of a GSP message leave. -/
def GspRes.state : GspRes → State
  | .refused s => s
  | .back s _ => s
  | .ok s _ _ => s

theorem keeps_refused {T : List Part} {s a : State} {p : GspRes} (e : p = .refused a) (h : Keeps T s p.state) : Keeps T s a := by
  rw [e] at h
  exact h

theorem keeps_back {T : List Part} {s a : State} {p : GspRes} {l : List (Nat × List Byte)} (e : p = .back a l)
    (h : Keeps T s p.state) : Keeps T s a := by
  rw [e] at h
  exact h

theorem keeps_ok {T : List Part} {s a : State} {p : GspRes} {x : Nat} {l : List (Nat × List Byte)} (e : p = .ok a x l)
    (h : Keeps T s p.state) : Keeps T s a := by
  rw [e] at h
  exact h

theorem keepsG_refused {T : List Part} {s a : State} (h : Keeps T s a) : Keeps T s (GspRes.refused a).state := h

theorem keepsG_back {T : List Part} {s a : State} {l : List (Nat × List Byte)} (h : Keeps T s a) :
    Keeps T s (GspRes.back a l).state := h

theorem keepsG_ok {T : List Part} {s a : State} {x : Nat} {l : List (Nat × List Byte)} (h : Keeps T s a) :
    Keeps T s (GspRes.ok a x l).state := h

theorem keepsG_ite {T : List Part} {s : State} {a b : GspRes} {c : Prop} [Decidable c] (ha : Keeps T s a.state)
    (hb : Keeps T s b.state) : Keeps T s (if c then a else b).state := by
  split
  · exact ha
  · exact hb

theorem gspRecords_keeps {T : List Part} {s0 : State} {s : State} {g : Gsp} {k : State → List (Nat × List Byte) → GspRes}
    (hs : Keeps T s0 s) (hk : ∀ x l, Keeps T s0 x → Keeps T s0 (k x l).state) (hT : [.regs] ⊆ T) :
    Keeps T s0 (State.gspRecords s g k).state := by
  delta State.gspRecords
  split
  · exact bump_keeps hs hT
  · rename_i l _
    exact hk _ _ (bumpN_keeps hs hT)

theorem gspCheck_keeps {T : List Part} {s0 : State} {s0a0 : State} {g : Gsp} (hs0a0 : Keeps T s0 s0a0)
    (hT : [.regs, .tbl, .items, .icu, .evr, .snet] ⊆ T) :
    Keeps T s0 (State.gspCheck s0a0 g).state := by
  delta State.gspCheck
  refine keepsG_ite ?_ ?_
  · refine keepsG_refused ?_
    exact hs0a0
  · extract_lets +onlyGivenNames y1
    have hy1 : Keeps T s0 y1 := by
      unfold y1
      refine countRx_keeps ?_ (List.Subset.trans (by decide) hT)
      exact hs0a0
    refine keepsG_ite ?_ ?_
    · refine keepsG_refused ?_
      exact hy1
    · extract_lets +onlyGivenNames y2
      have hy2 : Keeps T s0 y2 := by
        unfold y2
        refine keeps_ite ?_ ?_
        · exact hy1
        · refine bump_keeps ?_ (List.Subset.trans (by decide) hT)
          exact hy1
      refine keepsG_ite ?_ ?_
      · refine keepsG_refused ?_
        refine bump_keeps ?_ (List.Subset.trans (by decide) hT)
        exact hy2
      · refine keepsG_ite ?_ ?_
        · refine keepsG_refused ?_
          refine bump_keeps ?_ (List.Subset.trans (by decide) hT)
          exact hy2
        · refine keepsG_ite ?_ ?_
          · refine keepsG_refused ?_
            refine bump_keeps ?_ (List.Subset.trans (by decide) hT)
            exact hy2
          · split
            · refine keepsG_ite ?_ ?_
              · refine gspRecords_keeps ?_ (fun x l hx => ?_) (List.Subset.trans (by decide) hT)
                · exact hy2
                · refine keepsG_back ?_
                  refine bump_keeps ?_ (List.Subset.trans (by decide) hT)
                  exact hx
              · refine keepsG_refused ?_
                refine bump_keeps ?_ (List.Subset.trans (by decide) hT)
                exact hy2
            · refine keepsG_refused ?_
              refine bump_keeps ?_ (List.Subset.trans (by decide) hT)
              exact hy2
            · refine gspRecords_keeps ?_ (fun x l hx => ?_) (List.Subset.trans (by decide) hT)
              · exact hy2
              · refine keepsG_ok ?_
                refine twr_keeps ?_ (List.Subset.trans (by decide) hT)
                refine nodeMod_keeps ?_ (List.Subset.trans (by decide) hT)
                refine bump_keeps ?_ (List.Subset.trans (by decide) hT)
                exact hx

theorem msgAllowed_keeps {T : List Part} {s0 : State} {s : State} {n : Nat} (hs : Keeps T s0 s)
    (hT : [.regs, .snet] ⊆ T) :
    Keeps T s0 (State.msgAllowed s n).1 := by
  delta State.msgAllowed
  extract_lets +onlyGivenNames y1
  extract_lets +onlyGivenNames y2
  refine keeps_iteP ?_ ?_
  · refine keeps_fst ?_
    refine nodeMod_keeps ?_ (List.Subset.trans (by decide) hT)
    exact hs
  · refine keeps_fst ?_
    refine bump_keeps ?_ (List.Subset.trans (by decide) hT)
    exact hs

theorem execSubHelloRx_keeps {T : List Part} {s0 : State} {g : Gsp} {s : State} (hs : Keeps T s0 s)
    (hT : [.regs, .tbl, .items, .icu, .evr, .snet] ⊆ T) :
    KeepsO T s0 (execSubHelloRx g s) := by
  delta execSubHelloRx
  refine keepsO_next ?_
  split
  · refine keeps_refused (by assumption) ?_
    refine gspCheck_keeps ?_ (List.Subset.trans (by decide) hT)
    exact hs
  · split
    · refine keeps_of_pair (by assumption) ?_
      refine msgAllowed_keeps ?_ (List.Subset.trans (by decide) hT)
      refine keeps_back (by assumption) ?_
      refine gspCheck_keeps ?_ (List.Subset.trans (by decide) hT)
      exact hs
    · extract_lets +onlyGivenNames y1
      have hy1 : Keeps T s0 y1 := by
        unfold y1
        refine raiseEv_keeps ?_ (List.Subset.trans (by decide) hT)
        refine bump_keeps ?_ (List.Subset.trans (by decide) hT)
        refine keeps_of_pair (by assumption) ?_
        refine msgAllowed_keeps ?_ (List.Subset.trans (by decide) hT)
        refine keeps_back (by assumption) ?_
        refine gspCheck_keeps ?_ (List.Subset.trans (by decide) hT)
        exact hs
      refine keeps_ite ?_ ?_
      · exact hy1
      · refine nodeMod_keeps ?_ (List.Subset.trans (by decide) hT)
        exact hy1
  · refine keeps_ite ?_ ?_
    · refine keeps_ok (by assumption) ?_
      refine gspCheck_keeps ?_ (List.Subset.trans (by decide) hT)
      exact hs
    · split
      · refine keeps_of_pair (by assumption) ?_
        refine msgAllowed_keeps ?_ (List.Subset.trans (by decide) hT)
        refine keeps_ok (by assumption) ?_
        refine gspCheck_keeps ?_ (List.Subset.trans (by decide) hT)
        exact hs
      · refine keeps_ite ?_ ?_
        · refine keeps_of_pair (by assumption) ?_
          refine msgAllowed_keeps ?_ (List.Subset.trans (by decide) hT)
          refine keeps_ok (by assumption) ?_
          refine gspCheck_keeps ?_ (List.Subset.trans (by decide) hT)
          exact hs
        · extract_lets +onlyGivenNames y2
          have hy2 : Keeps T s0 y2 := by
            unfold y2
            refine nodeMod_keeps ?_ (List.Subset.trans (by decide) hT)
            refine keeps_of_pair (by assumption) ?_
            refine msgAllowed_keeps ?_ (List.Subset.trans (by decide) hT)
            refine keeps_ok (by assumption) ?_
            refine gspCheck_keeps ?_ (List.Subset.trans (by decide) hT)
            exact hs
          refine keeps_ite ?_ ?_
          · refine nodeQuarantine_keeps ?_ (List.Subset.trans (by decide) hT)
            exact hy2
          · exact hy2

theorem execSubReportRx_keeps {T : List Part} {s0 : State} {g : Gsp} {s : State} (hs : Keeps T s0 s)
    (hT : [.regs, .tbl, .items, .icu, .evr, .snet] ⊆ T) :
    KeepsO T s0 (execSubReportRx g s) := by
  delta execSubReportRx
  refine keepsO_next ?_
  split
  · refine keeps_refused (by assumption) ?_
    refine gspCheck_keeps ?_ (List.Subset.trans (by decide) hT)
    exact hs
  · refine keeps_back (by assumption) ?_
    refine gspCheck_keeps ?_ (List.Subset.trans (by decide) hT)
    exact hs
  · extract_lets +onlyGivenNames y1
    refine keeps_ite ?_ ?_
    · refine keeps_ok (by assumption) ?_
      refine gspCheck_keeps ?_ (List.Subset.trans (by decide) hT)
      exact hs
    · extract_lets +onlyGivenNames y2
      extract_lets +onlyGivenNames y3
      have hy3 : Keeps T s0 y3 := by
        unfold y3
        refine keeps_ite ?_ ?_
        · refine bump_keeps ?_ (List.Subset.trans (by decide) hT)
          refine keeps_ok (by assumption) ?_
          refine gspCheck_keeps ?_ (List.Subset.trans (by decide) hT)
          exact hs
        · refine keeps_ok (by assumption) ?_
          refine gspCheck_keeps ?_ (List.Subset.trans (by decide) hT)
          exact hs
      extract_lets +onlyGivenNames y4
      refine nodeMod_keeps ?_ (List.Subset.trans (by decide) hT)
      exact hy3

theorem execSubStateRx_keeps {T : List Part} {s0 : State} {g : Gsp} {s : State} (hs : Keeps T s0 s)
    (hT : [.regs, .tbl, .items, .icu, .evr, .snet] ⊆ T) :
    KeepsO T s0 (execSubStateRx g s) := by
  delta execSubStateRx
  refine keepsO_next ?_
  split
  · refine keeps_refused (by assumption) ?_
    refine gspCheck_keeps ?_ (List.Subset.trans (by decide) hT)
    exact hs
  · refine keeps_back (by assumption) ?_
    refine gspCheck_keeps ?_ (List.Subset.trans (by decide) hT)
    exact hs
  · refine keeps_ite ?_ ?_
    · refine keeps_ok (by assumption) ?_
      refine gspCheck_keeps ?_ (List.Subset.trans (by decide) hT)
      exact hs
    · split
      · refine keeps_of_pair (by assumption) ?_
        refine msgAllowed_keeps ?_ (List.Subset.trans (by decide) hT)
        refine keeps_ok (by assumption) ?_
        refine gspCheck_keeps ?_ (List.Subset.trans (by decide) hT)
        exact hs
      · extract_lets +onlyGivenNames y1
        refine keeps_ite ?_ ?_
        · refine keeps_of_pair (by assumption) ?_
          refine msgAllowed_keeps ?_ (List.Subset.trans (by decide) hT)
          refine keeps_ok (by assumption) ?_
          refine gspCheck_keeps ?_ (List.Subset.trans (by decide) hT)
          exact hs
        · extract_lets +onlyGivenNames y2
          refine keeps_ite ?_ ?_
          · refine raiseEv_keeps ?_ (List.Subset.trans (by decide) hT)
            refine bump_keeps ?_ (List.Subset.trans (by decide) hT)
            refine imgFlag_keeps ?_ (List.Subset.trans (by decide) hT)
            refine nodeMod_keeps ?_ (List.Subset.trans (by decide) hT)
            refine keeps_of_pair (by assumption) ?_
            refine msgAllowed_keeps ?_ (List.Subset.trans (by decide) hT)
            refine keeps_ok (by assumption) ?_
            refine gspCheck_keeps ?_ (List.Subset.trans (by decide) hT)
            exact hs
          · refine stateAccept_keeps ?_ (List.Subset.trans (by decide) hT)
            refine imgFlag_keeps ?_ (List.Subset.trans (by decide) hT)
            refine nodeMod_keeps ?_ (List.Subset.trans (by decide) hT)
            refine keeps_of_pair (by assumption) ?_
            refine msgAllowed_keeps ?_ (List.Subset.trans (by decide) hT)
            refine keeps_ok (by assumption) ?_
            refine gspCheck_keeps ?_ (List.Subset.trans (by decide) hT)
            exact hs

theorem execSubAckRx_keeps {T : List Part} {s0 : State} {g : Gsp} {s : State} (hs : Keeps T s0 s)
    (hT : [.regs, .tbl, .items, .icu, .evr, .snet] ⊆ T) :
    KeepsO T s0 (execSubAckRx g s) := by
  delta execSubAckRx
  refine keepsO_next ?_
  split
  · refine keeps_refused (by assumption) ?_
    refine gspCheck_keeps ?_ (List.Subset.trans (by decide) hT)
    exact hs
  · refine keeps_back (by assumption) ?_
    refine gspCheck_keeps ?_ (List.Subset.trans (by decide) hT)
    exact hs
  · refine keeps_ite ?_ ?_
    · refine keeps_ok (by assumption) ?_
      refine gspCheck_keeps ?_ (List.Subset.trans (by decide) hT)
      exact hs
    · split
      · refine keeps_of_pair (by assumption) ?_
        refine msgAllowed_keeps ?_ (List.Subset.trans (by decide) hT)
        refine keeps_ok (by assumption) ?_
        refine gspCheck_keeps ?_ (List.Subset.trans (by decide) hT)
        exact hs
      · split
        · refine keeps_ite ?_ ?_
          · refine rekeyDone_keeps ?_ (List.Subset.trans (by decide) hT)
            refine imgFlag_keeps ?_ (List.Subset.trans (by decide) hT)
            refine snetMod_keeps ?_ (List.Subset.trans (by decide) hT)
            refine keeps_of_pair (by assumption) ?_
            refine msgAllowed_keeps ?_ (List.Subset.trans (by decide) hT)
            refine keeps_ok (by assumption) ?_
            refine gspCheck_keeps ?_ (List.Subset.trans (by decide) hT)
            exact hs
          · refine keeps_of_pair (by assumption) ?_
            refine msgAllowed_keeps ?_ (List.Subset.trans (by decide) hT)
            refine keeps_ok (by assumption) ?_
            refine gspCheck_keeps ?_ (List.Subset.trans (by decide) hT)
            exact hs
        · refine keeps_of_pair (by assumption) ?_
          refine msgAllowed_keeps ?_ (List.Subset.trans (by decide) hT)
          refine keeps_ok (by assumption) ?_
          refine gspCheck_keeps ?_ (List.Subset.trans (by decide) hT)
          exact hs

theorem imgReport_keeps {T : List Part} {s0 : State} {s : State} {n : Nat} {f : Nat × List Word × Nat} (hs : Keeps T s0 s)
    (hT : [.tbl, .snet] ⊆ T) :
    Keeps T s0 (State.imgReport s n f) := by
  delta State.imgReport
  refine nodeMod_keeps ?_ (List.Subset.trans (by decide) hT)
  refine imgSetStat_keeps ?_ (List.Subset.trans (by decide) hT)
  refine imgWords_keeps ?_ (List.Subset.trans (by decide) hT)
  exact hs

theorem imgHold_keeps {T : List Part} {s0 : State} {s : State} {n : Nat} {q : Nat} {i : Nat} (hs : Keeps T s0 s)
    (hT : [.tbl] ⊆ T) :
    Keeps T s0 (State.imgHold s n q i) := by
  delta State.imgHold
  refine keeps_ite ?_ ?_
  · refine imgSetStat_keeps ?_ (List.Subset.trans (by decide) hT)
    exact hs
  · refine imgSetStat_keeps ?_ (List.Subset.trans (by decide) hT)
    refine imgWords_keeps ?_ (List.Subset.trans (by decide) hT)
    exact hs

theorem imgPublish_keeps {T : List Part} {s0 : State} {s : State} {n : Nat} (hs : Keeps T s0 s)
    (hT : [.regs, .tbl, .mbx, .items, .icu, .evr, .dio, .dev] ⊆ T) :
    Keeps T s0 (State.imgPublish s n) := by
  delta State.imgPublish
  extract_lets +onlyGivenNames y1
  refine rolePuts_keeps ?_ (List.Subset.trans (by decide) hT)
  exact hs

theorem imgStale_keeps {T : List Part} {s0 : State} {s : State} {n : Nat} (hs : Keeps T s0 s)
    (hT : [.tbl] ⊆ T) :
    Keeps T s0 (State.imgStale s n) := by
  delta State.imgStale
  refine keeps_foldl ?_ (fun a e ha => ?_)
  · exact hs
  · refine imgHold_keeps ?_ (List.Subset.trans (by decide) hT)
    exact ha

theorem imgSubst_keeps {T : List Part} {s0 : State} {s : State} {n : Nat} (hs : Keeps T s0 s)
    (hT : [.tbl] ⊆ T) :
    Keeps T s0 (State.imgSubst s n) := by
  delta State.imgSubst
  extract_lets +onlyGivenNames y1
  refine keeps_foldl ?_ (fun a e ha => ?_)
  · exact hs
  · extract_lets +onlyGivenNames y2
    clear_value y2
    split
    · extract_lets +onlyGivenNames y3
      refine keeps_ite ?_ ?_
      · refine imgSetStat_keeps ?_ (List.Subset.trans (by decide) hT)
        refine imgWords_keeps ?_ (List.Subset.trans (by decide) hT)
        exact ha
      · refine imgHold_keeps ?_ (List.Subset.trans (by decide) hT)
        exact ha
    · refine imgHold_keeps ?_ (List.Subset.trans (by decide) hT)
      exact ha

theorem imgTake_keeps {T : List Part} {s0 : State} {s : State} {n : Nat} {rs : List (Nat × List Byte)} (hs : Keeps T s0 s)
    (hT : [.tbl, .snet] ⊆ T) :
    Keeps T s0 (State.imgTake s n rs) := by
  delta State.imgTake
  extract_lets +onlyGivenNames y1
  extract_lets +onlyGivenNames y2
  extract_lets +onlyGivenNames y3
  have hy3 : Keeps T s0 y3 := by
    unfold y3
    refine keeps_foldl ?_ (fun a e ha => ?_)
    · exact hs
    · refine imgReport_keeps ?_ (List.Subset.trans (by decide) hT)
      exact ha
  extract_lets +onlyGivenNames y4
  have hy4 : Keeps T s0 y4 := by
    unfold y4
    refine keeps_foldl ?_ (fun a e ha => ?_)
    · exact hy3
    · refine imgHold_keeps ?_ (List.Subset.trans (by decide) hT)
      exact ha
  split
  · exact hy4
  · refine twr_keeps ?_ (List.Subset.trans (by decide) hT)
    exact hy4

theorem latency_keeps {T : List Part} {s0 : State} {s : State} {r : Report} (hs : Keeps T s0 s)
    (hT : [.regs, .tbl, .items, .icu, .evr, .snet, .free] ⊆ T) :
    Keeps T s0 (State.latency s r) := by
  delta State.latency
  extract_lets +onlyGivenNames y1
  extract_lets +onlyGivenNames y2
  extract_lets +onlyGivenNames y3
  have hy3 : Keeps T s0 y3 := by
    unfold y3
    refine useFree_keeps ?_ (List.Subset.trans (by decide) hT)
    exact hs
  extract_lets +onlyGivenNames y4
  have hy4 : Keeps T s0 y4 := by
    unfold y4
    refine keeps_ite ?_ ?_
    · refine wr_keeps ?_ (List.Subset.trans (by decide) hT)
      exact hy3
    · exact hy3
  refine keeps_ite ?_ ?_
  · extract_lets +onlyGivenNames y5
    have hy5 : Keeps T s0 y5 := by
      unfold y5
      refine bump_keeps ?_ (List.Subset.trans (by decide) hT)
      exact hy4
    refine keeps_ite ?_ ?_
    · exact hy5
    · refine raiseEv_keeps ?_ (List.Subset.trans (by decide) hT)
      refine snetMod_keeps ?_ (List.Subset.trans (by decide) hT)
      exact hy5
  · exact hy4

theorem reportUsed_keeps {T : List Part} {s0 : State} {s : State} {n : Nat} {r : Report} (hs : Keeps T s0 s)
    (hT : [.regs, .tbl, .items, .icu, .evr, .snet, .free] ⊆ T) :
    Keeps T s0 (State.reportUsed s n r) := by
  delta State.reportUsed
  extract_lets +onlyGivenNames y1
  have hy1 : Keeps T s0 y1 := by
    unfold y1
    refine twr_keeps ?_ (List.Subset.trans (by decide) hT)
    refine twr_keeps ?_ (List.Subset.trans (by decide) hT)
    refine twr_keeps ?_ (List.Subset.trans (by decide) hT)
    exact hs
  extract_lets +onlyGivenNames y2
  have hy2 : Keeps T s0 y2 := by
    unfold y2
    refine nodeCount_keeps ?_ (List.Subset.trans (by decide) hT)
    exact hy1
  extract_lets +onlyGivenNames y3
  have hy3 : Keeps T s0 y3 := by
    unfold y3
    split
    · exact hy2
    · refine tset_keeps ?_ (List.Subset.trans (by decide) hT)
      exact hy2
  refine keeps_ite ?_ ?_
  · refine nodeMod_keeps ?_ (List.Subset.trans (by decide) hT)
    refine latency_keeps ?_ (List.Subset.trans (by decide) hT)
    exact hy3
  · exact hy3

theorem cmdAck_keeps {T : List Part} {s0 : State} {s : State} {n : Nat} {off : Nat} {v : List Byte} (hs : Keeps T s0 s)
    (hT : [.regs, .tbl, .items, .icu, .evr, .snet] ⊆ T) :
    Keeps T s0 (State.cmdAck s n off v) := by
  delta State.cmdAck
  extract_lets +onlyGivenNames y1
  extract_lets +onlyGivenNames y2
  refine keeps_ite ?_ ?_
  · extract_lets +onlyGivenNames y3
    extract_lets +onlyGivenNames y4
    have hy4 : Keeps T s0 y4 := by
      unfold y4
      refine keeps_foldl ?_ (fun a e ha => ?_)
      · exact hs
      · refine keeps_ite ?_ ?_
        · refine keeps_ite ?_ ?_
          · refine qFree_keeps ?_ (List.Subset.trans (by decide) hT)
            exact ha
          · refine tset_keeps ?_ (List.Subset.trans (by decide) hT)
            exact ha
        · extract_lets +onlyGivenNames y5
          have hy5 : Keeps T s0 y5 := by
            unfold y5
            refine bump_keeps ?_ (List.Subset.trans (by decide) hT)
            refine qFree_keeps ?_ (List.Subset.trans (by decide) hT)
            exact ha
          refine keeps_ite ?_ ?_
          · exact hy5
          · refine raiseEv_keeps ?_ (List.Subset.trans (by decide) hT)
            exact hy5
    refine nodeMod_keeps ?_ (List.Subset.trans (by decide) hT)
    exact hy4
  · exact hs

theorem countMiss_keeps {T : List Part} {s0 : State} {s : State} {n : Nat} (hs : Keeps T s0 s)
    (hT : [.regs, .tbl] ⊆ T) :
    Keeps T s0 (State.countMiss s n) := by
  delta State.countMiss
  refine nodeCount_keeps ?_ (List.Subset.trans (by decide) hT)
  refine bump_keeps ?_ (List.Subset.trans (by decide) hT)
  refine tset_keeps ?_ (List.Subset.trans (by decide) hT)
  exact hs

theorem slotReport_keeps {T : List Part} {s0 : State} {s : State} {n : Nat} {off : Nat} {st : Nat} {r : Report} (hs : Keeps T s0 s)
    (hT : [.regs, .tbl, .items, .icu, .evr, .snet, .free] ⊆ T) :
    Keeps T s0 (State.slotReport s n off st r) := by
  delta State.slotReport
  extract_lets +onlyGivenNames y1
  extract_lets +onlyGivenNames y2
  have hy2 : Keeps T s0 y2 := by
    unfold y2
    refine reportUsed_keeps ?_ (List.Subset.trans (by decide) hT)
    exact hs
  extract_lets +onlyGivenNames y3
  have hy3 : Keeps T s0 y3 := by
    unfold y3
    split
    · exact hy2
    · refine cmdAck_keeps ?_ (List.Subset.trans (by decide) hT)
      exact hy2
  extract_lets +onlyGivenNames y4
  extract_lets +onlyGivenNames y5
  refine keeps_ite ?_ ?_
  · unfold y5
    refine nodeMod_keeps ?_ (List.Subset.trans (by decide) hT)
    refine imgTake_keeps ?_ (List.Subset.trans (by decide) hT)
    exact hy3
  · refine keeps_ite ?_ ?_
    · extract_lets +onlyGivenNames y6
      extract_lets +onlyGivenNames y7
      extract_lets +onlyGivenNames y8
      have hy8 : Keeps T s0 y8 := by
        unfold y8
        refine nodeMod_keeps ?_ (List.Subset.trans (by decide) hT)
        exact hy3
      refine keeps_ite ?_ ?_
      · unfold y5
        refine nodeMod_keeps ?_ (List.Subset.trans (by decide) hT)
        refine imgTake_keeps ?_ (List.Subset.trans (by decide) hT)
        refine setNodeState_keeps ?_ (List.Subset.trans (by decide) hT)
        exact hy8
      · refine imgSubst_keeps ?_ (List.Subset.trans (by decide) hT)
        exact hy8
    · refine imgSubst_keeps ?_ (List.Subset.trans (by decide) hT)
      exact hy3

theorem slotMissed_keeps {T : List Part} {s0 : State} {s : State} {n : Nat} {st : Nat} (hs : Keeps T s0 s)
    (hT : [.regs, .tbl, .snet] ⊆ T) :
    Keeps T s0 (State.slotMissed s n st) := by
  delta State.slotMissed
  extract_lets +onlyGivenNames y1
  extract_lets +onlyGivenNames y2
  have hy2 : Keeps T s0 y2 := by
    unfold y2
    refine keeps_ite ?_ ?_
    · exact hs
    · refine countMiss_keeps ?_ (List.Subset.trans (by decide) hT)
      exact hs
  refine keeps_ite ?_ ?_
  · refine imgSubst_keeps ?_ (List.Subset.trans (by decide) hT)
    refine nodeMod_keeps ?_ (List.Subset.trans (by decide) hT)
    exact hy2
  · refine keeps_ite ?_ ?_
    · refine keeps_ite ?_ ?_
      · refine imgStale_keeps ?_ (List.Subset.trans (by decide) hT)
        exact hy2
      · exact hy2
    · refine imgSubst_keeps ?_ (List.Subset.trans (by decide) hT)
      exact hy2

theorem reportSlot_keeps {T : List Part} {s0 : State} {s : State} {n : Nat} {off : Nat} (hs : Keeps T s0 s)
    (hT : [.regs, .tbl, .mbx, .items, .icu, .evr, .snet, .dio, .dev, .free] ⊆ T) :
    Keeps T s0 (State.reportSlot s n off) := by
  delta State.reportSlot
  extract_lets +onlyGivenNames y1
  extract_lets +onlyGivenNames y2
  extract_lets +onlyGivenNames y3
  extract_lets +onlyGivenNames y4
  extract_lets +onlyGivenNames y5
  extract_lets +onlyGivenNames y6
  extract_lets +onlyGivenNames y7
  have hy7 : Keeps T s0 y7 := by
    unfold y7
    refine nodeMod_keeps ?_ (List.Subset.trans (by decide) hT)
    refine bumpN_keeps ?_ (List.Subset.trans (by decide) hT)
    exact hs
  extract_lets +onlyGivenNames y8
  have hy8 : Keeps T s0 y8 := by
    unfold y8
    refine tset_keeps ?_ (List.Subset.trans (by decide) hT)
    exact hy7
  extract_lets +onlyGivenNames y9
  have hy9 : Keeps T s0 y9 := by
    unfold y9
    refine keeps_ite ?_ ?_
    · exact hy7
    · split
      · refine slotMissed_keeps ?_ (List.Subset.trans (by decide) hT)
        exact hy7
      · refine keeps_ite ?_ ?_
        · refine imgSubst_keeps ?_ (List.Subset.trans (by decide) hT)
          refine nodeQuarantine_keeps ?_ (List.Subset.trans (by decide) hT)
          exact hy8
        · refine slotReport_keeps ?_ (List.Subset.trans (by decide) hT)
          exact hy8
  refine imgPublish_keeps ?_ (List.Subset.trans (by decide) hT)
  exact hy9

theorem execGspRxclose_keeps {T : List Part} {s0 : State} {arg : Nat} {ns : Nat} {s : State} (hs : Keeps T s0 s)
    (hT : [.regs, .tbl, .mbx, .items, .icu, .evr, .seq, .snet, .dio, .dev, .free] ⊆ T) :
    KeepsO T s0 (execGspRxclose arg ns s) := by
  delta execGspRxclose
  refine keepsO_next ?_
  refine entry_keeps ?_ (fun x hx => ?_) (List.Subset.trans (by decide) hT)
  · exact hs
  · split
    · exact hx
    · refine keeps_ite ?_ ?_
      · exact hx
      · refine reportSlot_keeps ?_ (List.Subset.trans (by decide) hT)
        refine nodeMod_keeps ?_ (List.Subset.trans (by decide) hT)
        exact hx

theorem execNodeSilent_keeps {T : List Part} {s0 : State} {n : Nat} {s : State} (hs : Keeps T s0 s)
    (hT : [.regs, .tbl, .mbx, .items, .icu, .evr, .dio, .dev] ⊆ T) :
    KeepsO T s0 (execNodeSilent n s) := by
  delta execNodeSilent
  refine keepsO_next ?_
  extract_lets +onlyGivenNames y1
  refine keeps_ite ?_ ?_
  · refine imgPublish_keeps ?_ (List.Subset.trans (by decide) hT)
    refine imgSubst_keeps ?_ (List.Subset.trans (by decide) hT)
    refine nodeCount_keeps ?_ (List.Subset.trans (by decide) hT)
    refine setNodeState_keeps ?_ (List.Subset.trans (by decide) hT)
    exact hs
  · exact hs

theorem lostPrune_keeps {T : List Part} {s0 : State} {s : State} {n : Nat} (hs : Keeps T s0 s)
    (hT : [.regs, .tbl, .snet] ⊆ T) :
    Keeps T s0 (State.lostPrune s n) := by
  delta State.lostPrune
  extract_lets +onlyGivenNames y1
  extract_lets +onlyGivenNames y2
  refine keeps_foldl ?_ (fun a e ha => ?_)
  · exact hs
  · refine qFree_keeps ?_ (List.Subset.trans (by decide) hT)
    exact ha

theorem execNodeLost_keeps {T : List Part} {s0 : State} {n : Nat} {s : State} (hs : Keeps T s0 s)
    (hT : [.regs, .tbl, .mbx, .items, .icu, .evr, .snet, .dio, .dev] ⊆ T) :
    KeepsO T s0 (execNodeLost n s) := by
  delta execNodeLost
  refine keepsO_next ?_
  refine keeps_ite ?_ ?_
  · refine imgPublish_keeps ?_ (List.Subset.trans (by decide) hT)
    refine lostPrune_keeps ?_ (List.Subset.trans (by decide) hT)
    refine bump_keeps ?_ (List.Subset.trans (by decide) hT)
    refine setNodeState_keeps ?_ (List.Subset.trans (by decide) hT)
    exact hs
  · exact hs

theorem gspSend_keeps {T : List Part} {s0 : State} {s : State} {n : Nat} {typ : Nat} {flags : Nat} {key : Option (Nat × Nat)} {launch : Nat × Nat} {recs : List (Nat × List Byte)} (hs : Keeps T s0 s)
    (hT : [.regs, .snet, .twin, .sent] ⊆ T) :
    Keeps T s0 (State.gspSend s n typ flags key launch recs) := by
  delta State.gspSend
  extract_lets +onlyGivenNames y1
  extract_lets +onlyGivenNames y2
  extract_lets +onlyGivenNames y3
  extract_lets +onlyGivenNames y4
  extract_lets +onlyGivenNames y5
  extract_lets +onlyGivenNames y6
  extract_lets +onlyGivenNames y7
  extract_lets +onlyGivenNames y8
  have hy8 : Keeps T s0 y8 := by
    unfold y8
    refine keeps_twin ?_ (List.Subset.trans (by decide) hT)
    exact hs
  extract_lets +onlyGivenNames y9
  have hy9 : Keeps T s0 y9 := by
    unfold y9
    refine nodeMod_keeps ?_ (List.Subset.trans (by decide) hT)
    exact hy8
  refine keeps_ite ?_ ?_
  · refine prpStep_keeps ?_ (List.Subset.trans (by decide) hT)
    refine emit_keeps ?_ (List.Subset.trans (by decide) hT)
    refine countTx_keeps ?_ (List.Subset.trans (by decide) hT)
    exact hy9
  · exact hy9

theorem ctrlMsg_keeps {T : List Part} {s0 : State} {s : State} {n : Nat} {off : Nat} (hs : Keeps T s0 s)
    (hT : [.regs, .tbl, .snet, .twin, .sent] ⊆ T) :
    Keeps T s0 (State.ctrlMsg s n off) := by
  delta State.ctrlMsg
  extract_lets +onlyGivenNames y1
  extract_lets +onlyGivenNames y2
  extract_lets +onlyGivenNames y3
  extract_lets +onlyGivenNames y4
  split
  · refine keeps_ite ?_ ?_
    · exact hs
    · extract_lets +onlyGivenNames y5
      extract_lets +onlyGivenNames y6
      have hy6 : Keeps T s0 y6 := by
        unfold y6
        refine gspSend_keeps ?_ (List.Subset.trans (by decide) hT)
        exact hs
      extract_lets +onlyGivenNames y7
      have hy7 : Keeps T s0 y7 := by
        unfold y7
        refine nodeMod_keeps ?_ (List.Subset.trans (by decide) hT)
        exact hy6
      refine keeps_ite ?_ ?_
      · refine nodeQuarantine_keeps ?_ (List.Subset.trans (by decide) hT)
        exact hy7
      · exact hy7
  · refine keeps_ite ?_ ?_
    · exact hs
    · refine keeps_ite ?_ ?_
      · refine gspSend_keeps ?_ (List.Subset.trans (by decide) hT)
        exact hs
      · split
        · refine keeps_ite ?_ ?_
          · refine gspSend_keeps ?_ (List.Subset.trans (by decide) hT)
            exact hs
          · exact hs
        · exact hs

theorem dropLate_keeps {T : List Part} {s0 : State} {s : State} {n : Nat} {off : Nat} (hs : Keeps T s0 s)
    (hT : [.regs, .tbl, .items, .icu, .evr, .snet] ⊆ T) :
    Keeps T s0 (State.dropLate s n off) := by
  delta State.dropLate
  extract_lets +onlyGivenNames y1
  extract_lets +onlyGivenNames y2
  refine keeps_foldl ?_ (fun a e ha => ?_)
  · exact hs
  · extract_lets +onlyGivenNames y3
    have hy3 : Keeps T s0 y3 := by
      unfold y3
      refine raiseEv_keeps ?_ (List.Subset.trans (by decide) hT)
      refine bump_keeps ?_ (List.Subset.trans (by decide) hT)
      refine qFree_keeps ?_ (List.Subset.trans (by decide) hT)
      exact ha
    extract_lets +onlyGivenNames y4
    refine keeps_ite ?_ ?_
    · exact hy3
    · refine enqueue_keeps ?_ (List.Subset.trans (by decide) hT)
      exact hy3

theorem subCmd_keeps {T : List Part} {s0 : State} {s0a0 : State} {n : Nat} {off : Nat} (hs0a0 : Keeps T s0 s0a0)
    (hT : [.regs, .tbl, .items, .icu, .evr, .snet, .twin, .sent] ⊆ T) :
    Keeps T s0 (State.subCmd s0a0 n off) := by
  delta State.subCmd
  extract_lets +onlyGivenNames y1
  have hy1 : Keeps T s0 y1 := by
    unfold y1
    refine dropLate_keeps ?_ (List.Subset.trans (by decide) hT)
    exact hs0a0
  extract_lets +onlyGivenNames y2
  extract_lets +onlyGivenNames y3
  extract_lets +onlyGivenNames y4
  extract_lets +onlyGivenNames y5
  extract_lets +onlyGivenNames y6
  extract_lets +onlyGivenNames y7
  extract_lets +onlyGivenNames y8
  extract_lets +onlyGivenNames y9
  extract_lets +onlyGivenNames y10
  have hy10 : Keeps T s0 y10 := by
    unfold y10
    refine gspSend_keeps ?_ (List.Subset.trans (by decide) hT)
    exact hy1
  extract_lets +onlyGivenNames y11
  have hy11 : Keeps T s0 y11 := by
    unfold y11
    refine keeps_foldl ?_ (fun a e ha => ?_)
    · exact hy10
    · extract_lets +onlyGivenNames y12
      have hy12 : Keeps T s0 y12 := by
        unfold y12
        refine tset_keeps ?_ (List.Subset.trans (by decide) hT)
        refine tset_keeps ?_ (List.Subset.trans (by decide) hT)
        exact ha
      refine keeps_ite ?_ ?_
      · refine bump_keeps ?_ (List.Subset.trans (by decide) hT)
        refine tset_keeps ?_ (List.Subset.trans (by decide) hT)
        exact hy12
      · exact hy12
  extract_lets +onlyGivenNames y13
  have hy13 : Keeps T s0 y13 := by
    unfold y13
    refine bump_keeps ?_ (List.Subset.trans (by decide) hT)
    refine keeps_ite ?_ ?_
    · refine nodeCount_keeps ?_ (List.Subset.trans (by decide) hT)
      refine bump_keeps ?_ (List.Subset.trans (by decide) hT)
      exact hy11
    · exact hy11
  refine nodeMod_keeps ?_ (List.Subset.trans (by decide) hT)
  exact hy13

theorem commandSlot_keeps {T : List Part} {s0 : State} {s : State} {n : Nat} {off : Nat} (hs : Keeps T s0 s)
    (hT : [.regs, .tbl, .items, .icu, .evr, .snet, .twin, .sent] ⊆ T) :
    Keeps T s0 (State.commandSlot s n off) := by
  delta State.commandSlot
  extract_lets +onlyGivenNames y1
  extract_lets +onlyGivenNames y2
  have hy2 : Keeps T s0 y2 := by
    unfold y2
    refine ctrlMsg_keeps ?_ (List.Subset.trans (by decide) hT)
    exact hs
  refine keeps_ite ?_ ?_
  · exact hy2
  · refine subCmd_keeps ?_ (List.Subset.trans (by decide) hT)
    exact hy2

theorem execGspTx_keeps {T : List Part} {s0 : State} {arg : Nat} {ns : Nat} {s : State} (hs : Keeps T s0 s)
    (hT : [.regs, .tbl, .items, .icu, .evr, .seq, .snet, .twin, .sent] ⊆ T) :
    KeepsO T s0 (execGspTx arg ns s) := by
  delta execGspTx
  refine keepsO_next ?_
  refine entry_keeps ?_ (fun x hx => ?_) (List.Subset.trans (by decide) hT)
  · exact hs
  · split
    · exact hx
    · refine keeps_ite ?_ ?_
      · exact hx
      · extract_lets +onlyGivenNames y1
        have hy1 : Keeps T s0 y1 := by
          unfold y1
          refine nodeMod_keeps ?_ (List.Subset.trans (by decide) hT)
          exact hx
        refine keeps_ite ?_ ?_
        · refine commandSlot_keeps ?_ (List.Subset.trans (by decide) hT)
          exact hy1
        · exact hy1

theorem snetTick_keeps {T : List Part} {s0 : State} {s : State} {newCycle : Bool} {newHf : Bool} (hs : Keeps T s0 s)
    (hT : [.regs, .tbl, .items, .icu, .evr, .snet] ⊆ T) :
    Keeps T s0 (State.snetTick s newCycle newHf) := by
  delta State.snetTick
  extract_lets +onlyGivenNames y1
  have hy1 : Keeps T s0 y1 := by
    unfold y1
    refine snetMod_keeps ?_ (List.Subset.trans (by decide) hT)
    exact hs
  refine lineTick_keeps ?_ (List.Subset.trans (by decide) hT)
  exact hy1

end Sys2Proof.Machine
end

