-- ==== Sys2Proof/Laws/KeepPriv.lean ====
section
/-! SUPPORT. What each operation of Machine/Priv.lean keeps: the canonical form, the queue, and the parts it does not name. -/

namespace Sys2Proof.Machine

theorem privTick_keeps {T : List Part} {s0 : State} {s : State} (hs : Keeps T s0 s)
    (hT : [.regs, .tbl, .items, .icu, .evr, .priv] ⊆ T) :
    Keeps T s0 (State.privTick s) := by
  delta State.privTick
  refine keeps_foldl ?_ (fun a e ha => ?_)
  · exact hs
  · extract_lets +onlyGivenNames y1
    extract_lets +onlyGivenNames y2
    extract_lets +onlyGivenNames y3
    extract_lets +onlyGivenNames y4
    extract_lets +onlyGivenNames y5
    extract_lets +onlyGivenNames y6
    have hy6 : Keeps T s0 y6 := by
      unfold y6
      refine keeps_foldl ?_ (fun a e ha => ?_)
      · exact ha
      · refine raiseEv_keeps ?_ (List.Subset.trans (by decide) hT)
        refine bump_keeps ?_ (List.Subset.trans (by decide) hT)
        exact ha
    extract_lets +onlyGivenNames y7
    have hy7 : Keeps T s0 y7 := by
      unfold y7
      refine privMod_keeps ?_ (List.Subset.trans (by decide) hT)
      exact hy6
    extract_lets +onlyGivenNames y8
    extract_lets +onlyGivenNames y9
    extract_lets +onlyGivenNames y10
    extract_lets +onlyGivenNames y11
    have hy11 : Keeps T s0 y11 := by
      unfold y11
      refine setF_keeps ?_ (List.Subset.trans (by decide) hT)
      refine setB_keeps ?_ (List.Subset.trans (by decide) hT)
      exact hy7
    extract_lets +onlyGivenNames y12
    have hy12 : Keeps T s0 y12 := by
      unfold y12
      refine setB_keeps ?_ (List.Subset.trans (by decide) hT)
      refine setB_keeps ?_ (List.Subset.trans (by decide) hT)
      refine setB_keeps ?_ (List.Subset.trans (by decide) hT)
      exact hy11
    refine keeps_ite ?_ ?_
    · refine raiseEv_keeps ?_ (List.Subset.trans (by decide) hT)
      exact hy12
    · exact hy12

theorem privLog_keeps {T : List Part} {s0 : State} {s : State} {ws : List Word} (hs : Keeps T s0 s)
    (hT : [.regs, .tbl] ⊆ T) :
    Keeps T s0 (State.privLog s ws) := by
  delta State.privLog
  extract_lets +onlyGivenNames y1
  refine setF_keeps ?_ (List.Subset.trans (by decide) hT)
  refine trecSet_keeps ?_ (List.Subset.trans (by decide) hT)
  exact hs

theorem privRefuse_keeps {T : List Part} {s0 : State} {s : State} {src : Nat} {ch : Nat} {code : Nat} {off : Nat} (hs : Keeps T s0 s)
    (hT : [.regs, .tbl, .items, .icu, .evr] ⊆ T) :
    Keeps T s0 (State.privRefuse s src ch code off) := by
  delta State.privRefuse
  extract_lets +onlyGivenNames y1
  extract_lets +onlyGivenNames y2
  have hy2 : Keeps T s0 y2 := by
    unfold y2
    refine privLog_keeps ?_ (List.Subset.trans (by decide) hT)
    exact hs
  extract_lets +onlyGivenNames y3
  have hy3 : Keeps T s0 y3 := by
    unfold y3
    refine setF_keeps ?_ (List.Subset.trans (by decide) hT)
    refine wr_keeps ?_ (List.Subset.trans (by decide) hT)
    exact hy2
  refine raiseEv_keeps ?_ (List.Subset.trans (by decide) hT)
  refine bump_keeps ?_ (List.Subset.trans (by decide) hT)
  exact hy3

theorem privArmComp_keeps {T : List Part} {s0 : State} {s : State} {r : PrivReq} {off : Nat} (hs : Keeps T s0 s)
    (hT : [.regs, .shadow, .tbl, .items, .icu, .evr, .dio, .lnch, .priv] ⊆ T) :
    Keeps T s0 (State.privArmComp s r off) := by
  have hp : ∀ (a : State) (reg : Nat) (v : Word), Keeps T s0 a → Keeps T s0 { a.wr reg v with shadow := smErase a.shadow reg } :=
    fun a reg v h => keeps_shadow (x := a.wr reg v) (wr_keeps h (List.Subset.trans (by decide) hT)) (smSorted_erase _ _)
      (List.Subset.trans (by decide) hT)
  delta State.privArmComp
  exact lnchArm_keeps (hp _ _ _ (hp _ _ _ (hp _ _ _ hs))) (List.Subset.trans (by decide) hT)

theorem privAccept_keeps {T : List Part} {s0 : State} {s : State} {src : Nat} {seq : Nat} {w : List Word} {off : Nat} (hs : Keeps T s0 s)
    (hT : [.regs, .shadow, .tbl, .items, .icu, .evr, .dio, .lnch, .priv] ⊆ T) :
    Keeps T s0 (State.privAccept s src seq w off).1 := by
  delta State.privAccept
  extract_lets +onlyGivenNames y1
  extract_lets +onlyGivenNames y2
  extract_lets +onlyGivenNames y3
  extract_lets +onlyGivenNames y4
  extract_lets +onlyGivenNames y5
  extract_lets +onlyGivenNames y6
  extract_lets +onlyGivenNames y7
  extract_lets +onlyGivenNames y8
  extract_lets +onlyGivenNames y9
  extract_lets +onlyGivenNames y10
  extract_lets +onlyGivenNames y11
  extract_lets +onlyGivenNames y12
  extract_lets +onlyGivenNames y13
  extract_lets +onlyGivenNames y14
  have hy14 : Keeps T s0 y14 := by
    unfold y14
    refine privLog_keeps ?_ (List.Subset.trans (by decide) hT)
    exact hs
  extract_lets +onlyGivenNames y15
  have hy15 : Keeps T s0 y15 := by
    unfold y15
    refine privMod_keeps ?_ (List.Subset.trans (by decide) hT)
    exact hy14
  extract_lets +onlyGivenNames y16
  have hy16 : Keeps T s0 y16 := by
    unfold y16
    refine setF_keeps ?_ (List.Subset.trans (by decide) hT)
    refine wr_keeps ?_ (List.Subset.trans (by decide) hT)
    refine bump_keeps ?_ (List.Subset.trans (by decide) hT)
    exact hy15
  extract_lets +onlyGivenNames y17
  have hy17 : Keeps T s0 y17 := by
    unfold y17
    refine chShow_keeps ?_ (List.Subset.trans (by decide) hT)
    exact hy16
  refine keeps_fst ?_
  refine keeps_ite ?_ ?_
  · refine privArmComp_keeps ?_ (List.Subset.trans (by decide) hT)
    exact hy17
  · exact hy17

theorem privRequest_keeps {T : List Part} {s0 : State} {s : State} {own : Bool} {src : Nat} {w : List Word} {off : Nat} (hs : Keeps T s0 s)
    (hT : [.regs, .shadow, .tbl, .items, .icu, .evr, .dio, .lnch, .priv] ⊆ T) :
    Keeps T s0 (State.privRequest s own src w off).1 := by
  delta State.privRequest
  extract_lets +onlyGivenNames y1
  extract_lets +onlyGivenNames y2
  have hy2 : Keeps T s0 y2 := by
    unfold y2
    refine privMod_keeps ?_ (List.Subset.trans (by decide) hT)
    exact hs
  refine keeps_iteP ?_ ?_
  · extract_lets +onlyGivenNames y3
    have hy3 : Keeps T s0 y3.1 := by
      unfold y3
      refine privAccept_keeps ?_ (List.Subset.trans (by decide) hT)
      exact hy2
    refine keeps_fst ?_
    exact hy3
  · refine keeps_fst ?_
    refine privRefuse_keeps ?_ (List.Subset.trans (by decide) hT)
    exact hy2

theorem cpeRequest_keeps {T : List Part} {s0 : State} {s : State} {p : Nat} {w : List Word} {off : Nat} (hs : Keeps T s0 s)
    (hT : [.regs, .shadow, .tbl, .items, .icu, .evr, .dio, .lnch, .priv] ⊆ T) :
    Keeps T s0 (State.cpeRequest s p w off) := by
  delta State.cpeRequest
  extract_lets +onlyGivenNames y1
  extract_lets +onlyGivenNames y2
  have hy2 : Keeps T s0 y2 := by
    unfold y2
    refine keeps_foldl ?_ (fun a e ha => ?_)
    · exact hs
    · refine wr_keeps ?_ (List.Subset.trans (by decide) hT)
      exact ha
  extract_lets +onlyGivenNames y3
  have hy3 : Keeps T s0 y3.1 := by
    unfold y3
    refine privRequest_keeps ?_ (List.Subset.trans (by decide) hT)
    exact hy2
  refine wr_keeps ?_ (List.Subset.trans (by decide) hT)
  refine keeps_ite ?_ ?_
  · refine wr_keeps ?_ (List.Subset.trans (by decide) hT)
    exact hy3
  · exact hy3

theorem actPrivReq_keeps {T : List Part} {s0 : State} {s : State} {c : HCmd} (hs : Keeps T s0 s)
    (hT : [.regs, .shadow, .tbl, .host, .items, .icu, .evr, .dio, .lnch, .priv] ⊆ T) :
    Keeps T s0 (State.actPrivReq s c) := by
  delta State.actPrivReq
  extract_lets +onlyGivenNames y1
  have hy1 : Keeps T s0 y1.1 := by
    unfold y1
    refine privRequest_keeps ?_ (List.Subset.trans (by decide) hT)
    exact hs
  refine keeps_ite ?_ ?_
  · refine complete_keeps ?_ (List.Subset.trans (by decide) hT)
    exact hy1
  · refine complete_keeps ?_ (List.Subset.trans (by decide) hT)
    exact hy1

theorem privSet_keeps {T : List Part} {s0 : State} {s : State} {r : PrivReq} (hs : Keeps T s0 s)
    (hT : [.priv] ⊆ T) :
    Keeps T s0 (State.privSet s r) := by
  delta State.privSet
  refine privMod_keeps ?_ (List.Subset.trans (by decide) hT)
  exact hs

theorem privDone_keeps {T : List Part} {s0 : State} {s : State} {r : PrivReq} {o : Nat} (hs : Keeps T s0 s)
    (hT : [.regs, .tbl, .items, .icu, .evr, .can, .priv] ⊆ T) :
    Keeps T s0 (State.privDone s r o) := by
  delta State.privDone
  extract_lets +onlyGivenNames y1
  refine privEnd_keeps ?_ (List.Subset.trans (by decide) hT)
  refine canMod_keeps ?_ (List.Subset.trans (by decide) hT)
  refine canMod_keeps ?_ (List.Subset.trans (by decide) hT)
  exact hs

theorem subPriv_keeps {T : List Part} {s0 : State} {s : State} {r : PrivReq} {retx : Bool} (hs : Keeps T s0 s)
    (hT : [.regs, .snet, .twin, .sent] ⊆ T) :
    Keeps T s0 (State.subPriv s r retx) := by
  delta State.subPriv
  refine gspSend_keeps ?_ (List.Subset.trans (by decide) hT)
  exact hs

theorem placePriv_keeps {T : List Part} {s0 : State} {s : State} {r : PrivReq} {t : Nat} (hs : Keeps T s0 s)
    (hT : [.regs, .tbl, .items, .icu, .evr, .can] ⊆ T) :
    Keeps T s0 (State.placePriv s r t) := by
  delta State.placePriv
  refine keeps_ite ?_ ?_
  · exact hs
  · extract_lets +onlyGivenNames y1
    extract_lets +onlyGivenNames y2
    extract_lets +onlyGivenNames y3
    have hy3 : Keeps T s0 y3 := by
      unfold y3
      refine canMod_keeps ?_ (List.Subset.trans (by decide) hT)
      exact hs
    refine keeps_ite ?_ ?_
    · exact hy3
    · refine privMove_keeps ?_ (List.Subset.trans (by decide) hT)
      exact hy3

theorem privOut_keeps {T : List Part} {s0 : State} {s : State} {t : Nat} (hs : Keeps T s0 s)
    (hT : [.priv] ⊆ T) :
    Keeps T s0 (State.privOut s t) := by
  delta State.privOut
  refine privMod_keeps ?_ (List.Subset.trans (by decide) hT)
  exact hs

theorem execPrivRelease_keeps {T : List Part} {s0 : State} {ch : Nat} {seq : Nat} {ns : Nat} {s : State} (hs : Keeps T s0 s)
    (hT : [.regs, .tbl, .items, .icu, .evr, .snet, .can, .priv, .twin, .sent] ⊆ T) :
    KeepsO T s0 (execPrivRelease ch seq ns s) := by
  delta execPrivRelease
  extract_lets +onlyGivenNames y1
  refine keepsO_next ?_
  split
  · exact hs
  · extract_lets +onlyGivenNames y2
    refine keeps_ite ?_ ?_
    · exact hs
    · extract_lets +onlyGivenNames y3
      have hy3 : Keeps T s0 y3 := by
        unfold y3
        refine logReleased_keeps ?_ (List.Subset.trans (by decide) hT)
        refine privSet_keeps ?_ (List.Subset.trans (by decide) hT)
        exact hs
      refine keeps_ite ?_ ?_
      · refine subPriv_keeps ?_ (List.Subset.trans (by decide) hT)
        refine privOut_keeps ?_ (List.Subset.trans (by decide) hT)
        exact hy3
      · refine placePriv_keeps ?_ (List.Subset.trans (by decide) hT)
        exact hy3

theorem execPrivRetx_keeps {T : List Part} {s0 : State} {ch : Nat} {seq : Nat} {ns : Nat} {s : State} (hs : Keeps T s0 s)
    (hT : [.regs, .snet, .priv, .twin, .sent] ⊆ T) :
    KeepsO T s0 (execPrivRetx ch seq ns s) := by
  delta execPrivRetx
  extract_lets +onlyGivenNames y1
  refine keepsO_next ?_
  split
  · exact hs
  · split
    · exact hs
    · refine keeps_ite ?_ ?_
      · exact hs
      · extract_lets +onlyGivenNames y2
        have hy2 : Keeps T s0 y2 := by
          unfold y2
          refine privMod_keeps ?_ (List.Subset.trans (by decide) hT)
          refine privSet_keeps ?_ (List.Subset.trans (by decide) hT)
          exact hs
        refine bump_keeps ?_ (List.Subset.trans (by decide) hT)
        refine subPriv_keeps ?_ (List.Subset.trans (by decide) hT)
        refine privOut_keeps ?_ (List.Subset.trans (by decide) hT)
        exact hy2

theorem privAck_keeps {T : List Part} {s0 : State} {s : State} {cls : Nat} {dest : Nat} {ch : Nat} {seq : Nat} {res : Nat} (hs : Keeps T s0 s)
    (hT : [.regs, .tbl, .items, .icu, .evr, .can, .priv] ⊆ T) :
    Keeps T s0 (State.privAck s cls dest ch seq res) := by
  delta State.privAck
  split
  · refine keeps_ite ?_ ?_
    · refine privDone_keeps ?_ (List.Subset.trans (by decide) hT)
      exact hs
    · exact hs
  · exact hs

theorem execSubPrivAckRx_keeps {T : List Part} {s0 : State} {g : Gsp} {s : State} (hs : Keeps T s0 s)
    (hT : [.regs, .tbl, .items, .icu, .evr, .snet, .can, .priv] ⊆ T) :
    KeepsO T s0 (execSubPrivAckRx g s) := by
  delta execSubPrivAckRx
  refine keepsO_next ?_
  split
  · refine keeps_refused (by assumption) ?_
    refine gspCheck_keeps ?_ (List.Subset.trans (by decide) hT)
    exact hs
  · refine keeps_back (by assumption) ?_
    refine gspCheck_keeps ?_ (List.Subset.trans (by decide) hT)
    exact hs
  · refine keeps_ite ?_ ?_
    · refine keeps_ok (by assumption) ?_
      refine gspCheck_keeps ?_ (List.Subset.trans (by decide) hT)
      exact hs
    · split
      · refine keeps_of_pair (by assumption) ?_
        refine msgAllowed_keeps ?_ (List.Subset.trans (by decide) hT)
        refine keeps_ok (by assumption) ?_
        refine gspCheck_keeps ?_ (List.Subset.trans (by decide) hT)
        exact hs
      · split
        · refine keeps_of_pair (by assumption) ?_
          refine msgAllowed_keeps ?_ (List.Subset.trans (by decide) hT)
          refine keeps_ok (by assumption) ?_
          refine gspCheck_keeps ?_ (List.Subset.trans (by decide) hT)
          exact hs
        · refine privAck_keeps ?_ (List.Subset.trans (by decide) hT)
          refine keeps_of_pair (by assumption) ?_
          refine msgAllowed_keeps ?_ (List.Subset.trans (by decide) hT)
          refine keeps_ok (by assumption) ?_
          refine gspCheck_keeps ?_ (List.Subset.trans (by decide) hT)
          exact hs

theorem execCanPrivAckRx_keeps {T : List Part} {s0 : State} {f : CanFrame} {s : State} (hs : Keeps T s0 s)
    (hT : [.regs, .tbl, .items, .icu, .evr, .can, .priv, .free] ⊆ T) :
    KeepsO T s0 (execCanPrivAckRx f s) := by
  delta execCanPrivAckRx
  refine keepsO_next ?_
  refine canRx_keeps ?_ (fun x hx => ?_) (List.Subset.trans (by decide) hT)
  · exact hs
  · extract_lets +onlyGivenNames y1
    refine keeps_ite ?_ ?_
    · refine privAck_keeps ?_ (List.Subset.trans (by decide) hT)
      exact hx
    · exact hx

theorem execPrivRequestEnd_keeps {T : List Part} {s0 : State} {ch : Nat} {seq : Nat} {ns : Nat} {s : State} (hs : Keeps T s0 s)
    (hT : [.regs, .tbl, .items, .icu, .evr, .can, .priv] ⊆ T) :
    KeepsO T s0 (execPrivRequestEnd ch seq ns s) := by
  delta execPrivRequestEnd
  refine keepsO_next ?_
  split
  · exact hs
  · refine keeps_ite ?_ ?_
    · exact hs
    · refine privDone_keeps ?_ (List.Subset.trans (by decide) hT)
      exact hs

theorem privTakeover_keeps {T : List Part} {s0 : State} {s : State} (hs : Keeps T s0 s)
    (hT : [.priv] ⊆ T) :
    Keeps T s0 (State.privTakeover s) := by
  delta State.privTakeover
  refine privMod_keeps ?_ (List.Subset.trans (by decide) hT)
  exact hs

theorem execPrivBreach_keeps {T : List Part} {s0 : State} {kind : Nat} {ch : Nat} {seq : Nat} {ns : Nat} {s : State} (hs : Keeps T s0 s)
    (hT : [.regs, .tbl, .items, .icu, .evr, .can, .dio, .priv, .dev] ⊆ T) :
    KeepsO T s0 (execPrivBreach kind ch seq ns s) := by
  delta execPrivBreach
  refine keepsO_next ?_
  refine keeps_ite ?_ ?_
  · extract_lets +onlyGivenNames y1
    have hy1 : Keeps T s0 y1 := by
      unfold y1
      split
      · exact hs
      · refine privDone_keeps ?_ (List.Subset.trans (by decide) hT)
        exact hs
    extract_lets +onlyGivenNames y2
    have hy2 : Keeps T s0 y2 := by
      unfold y2
      refine wr_keeps ?_ (List.Subset.trans (by decide) hT)
      refine setB_keeps ?_ (List.Subset.trans (by decide) hT)
      exact hy1
    refine enterFault_keeps ?_ (List.Subset.trans (by decide) hT)
    refine raiseEv_keeps ?_ (List.Subset.trans (by decide) hT)
    exact hy2
  · exact hs

end Sys2Proof.Machine
end

