-- ==== Sys2Proof/Laws/KeepCpeCode.lean ====
section
/-! SUPPORT. What each operation of Machine/CpeCode.lean keeps: the canonical form, the queue, and the parts it does not name. -/

namespace Sys2Proof.Machine

theorem CpeVm.setReg_keeps {T : List Part} {s0 : State} {v : CpeVm} {r : Nat} {x : BitVec 64} (hv : Keeps T s0 v.s)
    (_hT : [] ⊆ T) :
    Keeps T s0 (CpeVm.setReg v r x).s := by
  delta CpeVm.setReg
  split <;> exact hv

theorem CpeVm.put_keeps {T : List Part} {s0 : State} {c : CpeCtx} {v : CpeVm} {off : Nat} {n : Nat} {x : Nat} (hv : Keeps T s0 v.s)
    (_hT : [] ⊆ T) :
    Keeps T s0 (CpeVm.put c v off n x).s := by
  exact hv

theorem CpeVm.puts_keeps {T : List Part} {s0 : State} {c : CpeCtx} {v : CpeVm} {l : List (Nat × Nat × Nat)} (hv : Keeps T s0 v.s)
    (_hT : [] ⊆ T) :
    Keeps T s0 (CpeVm.puts c v l).s := by
  induction l generalizing v with
  | nil => exact hv
  | cons e l ih => exact ih hv

theorem CpeVm.branch_keeps {T : List Part} {s0 : State} {c : CpeCtx} {v : CpeVm} {off : BitVec 64} (hv : Keeps T s0 v.s)
    (_hT : [] ⊆ T) :
    Keeps T s0 (CpeVm.branch c v off).1.s := by
  delta CpeVm.branch
  extract_lets +onlyGivenNames t
  split <;> exact hv

theorem CpeVm.next_keeps {T : List Part} {s0 : State} {v : CpeVm} (hv : Keeps T s0 v.s)
    (_hT : [] ⊆ T) :
    Keeps T s0 (CpeVm.next v).s := by
  exact hv

theorem CpeVm.executed_keeps {T : List Part} {s0 : State} {c : CpeCtx} {v : CpeVm} {base : Nat} (hv : Keeps T s0 v.s)
    (_hT : [] ⊆ T) :
    Keeps T s0 (CpeVm.executed c v base).s := by
  exact hv

theorem tcmdAsk_keeps {T : List Part} {s0 : State} {s : State} {p : Nat} {task : Nat} {r : TcmdReq} (hs : Keeps T s0 s)
    (hT : [.regs, .tbl, .items, .icu, .evr, .cpe] ⊆ T) :
    Keeps T s0 (State.tcmdAsk s p task r) := by
  delta State.tcmdAsk
  extract_lets +onlyGivenNames y1
  refine keeps_ite ?_ ?_
  · refine errQ_keeps ?_ (List.Subset.trans (by decide) hT)
    refine xbarViol_keeps ?_ (List.Subset.trans (by decide) hT)
    exact hs
  · refine cpeMod_keeps ?_ (List.Subset.trans (by decide) hT)
    exact hs

theorem tcmdBlk_keeps {T : List Part} {s0 : State} {p : Nat} {task : Nat} {inst : Nat} {i : Nat → Nat → Nat} {o : List Nat} {rise : Bool} {s : State} (hs : Keeps T s0 s)
    (hT : [.regs, .tbl, .items, .icu, .evr, .cpe] ⊆ T) :
    Keeps T s0 (tcmdBlk p task inst i o rise s).1 := by
  delta tcmdBlk
  refine keeps_iteP ?_ ?_
  · refine keeps_iteP ?_ ?_
    · refine keeps_fst ?_
      exact hs
    · extract_lets +onlyGivenNames y1
      extract_lets +onlyGivenNames y2
      refine keeps_fst ?_
      refine tcmdAsk_keeps ?_ (List.Subset.trans (by decide) hT)
      exact hs
  · split
    · refine keeps_fst ?_
      exact hs
    · extract_lets +onlyGivenNames y3
      refine keeps_fst ?_
      refine cpeMod_keeps ?_ (List.Subset.trans (by decide) hT)
      exact hs

theorem privBlk_keeps {T : List Part} {s0 : State} {p : Nat} {i : Nat → Nat → Nat} {o : List Nat} {rise : Bool} {at_ : Nat} {s : State} (hs : Keeps T s0 s)
    (hT : [.regs, .shadow, .tbl, .items, .icu, .evr, .dio, .lnch, .priv] ⊆ T) :
    Keeps T s0 (privBlk p i o rise at_ s).1 := by
  delta privBlk
  refine keeps_iteP ?_ ?_
  · extract_lets +onlyGivenNames y1
    extract_lets +onlyGivenNames y2
    extract_lets +onlyGivenNames y3
    extract_lets +onlyGivenNames y4
    have hy4 : Keeps T s0 y4 := by
      unfold y4
      refine cpeRequest_keeps ?_ (List.Subset.trans (by decide) hT)
      exact hs
    extract_lets +onlyGivenNames y5
    refine keeps_fst ?_
    exact hy4
  · refine keeps_fst ?_
    exact hs

theorem CpeVm.blkRun_keeps {T : List Part} {s0 : State} {c : CpeCtx} {v : CpeVm} {code : Nat} {inst : Nat} {i : Nat → Nat → Nat} {o : List Nat} {old : Option BlkSt} {el : Nat} {rise : Bool} (hv : Keeps T s0 v.s)
    (hT : [.regs, .shadow, .tbl, .items, .icu, .evr, .cpe, .dio, .lnch, .priv] ⊆ T) :
    Keeps T s0 (CpeVm.blkRun c v code inst i o old el rise).1 := by
  delta CpeVm.blkRun
  refine keeps_iteP (keeps_fst (tcmdBlk_keeps hv (List.Subset.trans (by decide) hT))) ?_
  refine keeps_iteP (keeps_fst (privBlk_keeps hv (List.Subset.trans (by decide) hT))) ?_
  exact keeps_iteP hv hv

theorem CpeVm.block_keeps {T : List Part} {s0 : State} {c : CpeCtx} {v : CpeVm} {code : Nat} {base : Nat} (hv : Keeps T s0 v.s)
    (hT : [.regs, .shadow, .tbl, .items, .icu, .evr, .cpe, .dio, .lnch, .priv] ⊆ T) :
    Keeps T s0 (CpeVm.block c v code base).s := by
  delta CpeVm.block
  extract_lets
  exact CpeVm.executed_keeps (CpeVm.puts_keeps (CpeVm.blkRun_keeps hv (List.Subset.trans (by decide) hT)) (List.Subset.trans (by decide) hT)) (List.Subset.trans (by decide) hT)

theorem CpeVm.does_keeps {T : List Part} {s0 : State} {c : CpeCtx} {v : CpeVm} {w : Nat} {a3 : CpeOp} (hv : Keeps T s0 v.s)
    (hT : [.regs, .shadow, .tbl, .items, .icu, .evr, .cpe, .dio, .lnch, .priv] ⊆ T) :
    Keeps T s0 (CpeVm.does c v w a3).1.s := by
  delta CpeVm.does
  extract_lets +onlyGivenNames y1 y2 y3 y4 y5
  have h4 : ∀ x, Keeps T s0 (y4 x).1.s := fun x => CpeVm.next_keeps (CpeVm.setReg_keeps hv (List.Subset.trans (by decide) hT)) (List.Subset.trans (by decide) hT)
  clear_value y1 y2 y3 y4 y5
  cases a3 <;> dsimp only
  case branchZero => split <;> first | exact CpeVm.branch_keeps hv (List.Subset.trans (by decide) hT) | exact hv
  case branchNonzero => split <;> first | exact CpeVm.branch_keeps hv (List.Subset.trans (by decide) hT) | exact hv
  case jump => exact CpeVm.branch_keeps hv (List.Subset.trans (by decide) hT)
  case svc =>
    split
    · exact hv
    · split
      · exact CpeVm.next_keeps (CpeVm.block_keeps hv (List.Subset.trans (by decide) hT)) (List.Subset.trans (by decide) hT)
      · exact hv
  case call =>
    split
    · exact hv
    · split
      · split
        · exact CpeVm.next_keeps (CpeVm.block_keeps hv (List.Subset.trans (by decide) hT)) (List.Subset.trans (by decide) hT)
        · exact hv
      · split
        · exact hv
        · split
          · exact hv
          · have hr : Keeps T s0 (v.branch c y2).1.s := CpeVm.branch_keeps hv (List.Subset.trans (by decide) hT)
            generalize v.branch c y2 = r at hr ⊢
            split <;> exact hr
  case ret => split <;> exact hv
  case endTask => exact hv
  case const =>
    split
    · exact hv
    · exact CpeVm.next_keeps (CpeVm.next_keeps (CpeVm.setReg_keeps hv (List.Subset.trans (by decide) hT)) (List.Subset.trans (by decide) hT))
        (List.Subset.trans (by decide) hT)
  case store =>
    split
    · exact CpeVm.next_keeps (CpeVm.put_keeps hv (List.Subset.trans (by decide) hT)) (List.Subset.trans (by decide) hT)
    · exact hv
  case writeSlot =>
    split
    · exact CpeVm.next_keeps (CpeVm.put_keeps hv (List.Subset.trans (by decide) hT)) (List.Subset.trans (by decide) hT)
    · exact hv
  all_goals first
    | exact h4 _
    | (split
       · exact h4 _
       · exact hv)

theorem CpeVm.instr_keeps {T : List Part} {s0 : State} {c : CpeCtx} {v : CpeVm} (hv : Keeps T s0 v.s)
    (hT : [.regs, .shadow, .tbl, .items, .icu, .evr, .cpe, .dio, .lnch, .priv] ⊆ T) :
    Keeps T s0 (CpeVm.instr c v).1.s := by
  delta CpeVm.instr
  split
  · exact hv
  · split
    · exact hv
    · exact CpeVm.does_keeps hv (List.Subset.trans (by decide) hT)

theorem CpeVm.go_keeps {T : List Part} {s0 : State} {c : CpeCtx} {a1 : Nat} {a2 : CpeVm} (ha2 : Keeps T s0 a2.s)
    (hT : [.regs, .shadow, .tbl, .items, .icu, .evr, .cpe, .dio, .lnch, .priv] ⊆ T) :
    Keeps T s0 (CpeVm.go c a1 a2).1.s := by
  induction a1 generalizing a2 with
  | zero => exact ha2
  | succ n ih =>
    have h := CpeVm.instr_keeps (c := c) ha2 hT
    simp only [CpeVm.go]
    split
    · rename_i e; rw [e] at h; exact ih h
    · rename_i e; rw [e] at h; exact h

end Sys2Proof.Machine
end

