-- ==== Sys2Proof/Laws/KeepCpe.lean ====
section
/-! SUPPORT. What each operation of Machine/Cpe.lean keeps: the canonical form, the queue, and the parts it does not name. -/

namespace Sys2Proof.Machine

theorem cpePut_keeps {T : List Part} {s0 : State} {s : State} {p : Nat} {i : Nat} {it : Item} {task : Nat} (hs : Keeps T s0 s)
    (hT : [.regs, .tbl, .mbx, .items, .icu, .evr, .cpe] ⊆ T) :
    Keeps T s0 (State.cpePut s p i it task) := by
  delta State.cpePut
  extract_lets +onlyGivenNames y1
  refine keeps_ite ?_ ?_
  · refine errQ_keeps ?_ (List.Subset.trans (by decide) hT)
    refine xbarViol_keeps ?_ (List.Subset.trans (by decide) hT)
    exact hs
  · refine mbxMod_keeps ?_ (List.Subset.trans (by decide) hT)
    exact hs

theorem cpeOutputs_keeps {T : List Part} {s0 : State} {s : State} {p : Nat} (hs : Keeps T s0 s)
    (hT : [.regs, .tbl, .mbx, .items, .icu, .evr, .cpe] ⊆ T) :
    Keeps T s0 (State.cpeOutputs s p) := by
  delta State.cpeOutputs
  extract_lets +onlyGivenNames y1
  refine keeps_foldl ?_ (fun a e ha => ?_)
  · exact hs
  · split
    · extract_lets +onlyGivenNames y2
      extract_lets +onlyGivenNames y3
      refine cpePut_keeps ?_ (List.Subset.trans (by decide) hT)
      exact ha
    · exact ha

theorem cpeStopped_keeps {T : List Part} {s0 : State} {s : State} {p : Nat} (hs : Keeps T s0 s)
    (hT : [.mbx] ⊆ T) :
    Keeps T s0 (State.cpeStopped s p) := by
  delta State.cpeStopped
  refine keeps_ite ?_ ?_
  · exact hs
  · refine keeps_foldl ?_ (fun a e ha => ?_)
    · exact hs
    · split
      · refine mbxPut_keeps ?_ (List.Subset.trans (by decide) hT)
        exact ha
      · exact ha

theorem trigEnd_keeps {T : List Part} {s0 : State} {s : State} {p : Nat} (hs : Keeps T s0 s)
    (hT : [.cpe] ⊆ T) :
    Keeps T s0 (State.trigEnd s p) := by
  delta State.trigEnd
  extract_lets +onlyGivenNames y1
  refine cpeMod_keeps ?_ (List.Subset.trans (by decide) hT)
  exact hs

theorem trigItems_keeps {T : List Part} {s0 : State} {s : State} {p : Nat} (hs : Keeps T s0 s)
    (hT : [.cpe] ⊆ T) :
    Keeps T s0 (State.trigItems s p) := by
  delta State.trigItems
  extract_lets +onlyGivenNames y1
  refine cpeMod_keeps ?_ (List.Subset.trans (by decide) hT)
  exact hs

theorem cpeTime_keeps {T : List Part} {s0 : State} {s : State} {p : Nat} {k : Nat} {ns : Nat} (hs : Keeps T s0 s)
    (hT : [.regs] ⊆ T) :
    Keeps T s0 (State.cpeTime s p k ns) := by
  delta State.cpeTime
  extract_lets +onlyGivenNames y1
  refine setF_keeps ?_ (List.Subset.trans (by decide) hT)
  exact hs

theorem CpeVm.commit_keeps {T : List Part} {s0 : State} {c : CpeCtx} {v : CpeVm} (hv : Keeps T s0 v.s)
    (hT : [.tbl, .cpe] ⊆ T) :
    Keeps T s0 (CpeVm.commit c v) := by
  delta CpeVm.commit
  exact cpeMod_keeps (keeps_foldl hv (fun _ _ ha => instPut_keeps ha (List.Subset.trans (by decide) hT))) (List.Subset.trans (by decide) hT)

theorem cpeStale_keeps {T : List Part} {s0 : State} {s : State} {p : Nat} {k : Nat} (hs : Keeps T s0 s)
    (hT : [.regs, .tbl, .mbx, .items, .icu, .evr, .cpe] ⊆ T) :
    Keeps T s0 (State.cpeStale s p k) := by
  delta State.cpeStale
  refine trigEnd_keeps ?_ (List.Subset.trans (by decide) hT)
  refine cpeOutputs_keeps ?_ (List.Subset.trans (by decide) hT)
  refine cpeMod_keeps ?_ (List.Subset.trans (by decide) hT)
  exact hs

theorem cpeRun_keeps {T : List Part} {s0 : State} {s : State} {p : Nat} {k : Nat} {serving : Option Nat} {r : CpeRun} {n : Nat} (hs : Keeps T s0 s)
    (hT : [.regs, .shadow, .tbl, .mbx, .items, .icu, .evr, .cpe, .dio, .lnch, .priv] ⊆ T) :
    Keeps T s0 (State.cpeRun s p k serving r n).1 := by
  delta State.cpeRun
  extract_lets +onlyGivenNames b
  extract_lets +onlyGivenNames x
  have hx : Keeps T s0 x.1.s := CpeVm.go_keeps (c := b.1) (a1 := n) (a2 := b.2) hs (List.Subset.trans (by decide) hT)
  extract_lets +onlyGivenNames regs
  extract_lets +onlyGivenNames keep
  have hk : ∀ a, Keeps T s0 a → Keeps T s0 (keep a) := fun a h => cpeMod_keeps h (List.Subset.trans (by decide) hT)
  clear_value keep regs x
  split
  · exact trigEnd_keeps (cpeOutputs_keeps (cpeMod_keeps (hk _ (CpeVm.commit_keeps hx (List.Subset.trans (by decide) hT)))
      (List.Subset.trans (by decide) hT)) (List.Subset.trans (by decide) hT)) (List.Subset.trans (by decide) hT)
  · have h1 := raiseEv_keeps (p := cpePage p) (b := 7) (cpeBump_keeps (p := p) (c := .CPE0_RTF) (hk _ hx)
      (List.Subset.trans (by decide) hT)) (List.Subset.trans (by decide) hT)
    exact cpeStale_keeps (keeps_ite h1 (errQ_keeps h1 (List.Subset.trans (by decide) hT))) (List.Subset.trans (by decide) hT)
  · exact cpeStale_keeps (errQ_keeps (hk _ hx) (List.Subset.trans (by decide) hT)) (List.Subset.trans (by decide) hT)

theorem cpeMany_keeps {T : List Part} {s0 : State} {p : Nat} {runs : List CpeRun} {a2 : List (Nat × Option Nat)} {a3 : Nat} {a4 : State} (ha4 : Keeps T s0 a4)
    (hT : [.regs, .shadow, .tbl, .mbx, .items, .icu, .evr, .cpe, .dio, .lnch, .priv] ⊆ T) :
    Keeps T s0 (cpeMany p runs a2 a3 a4).1 := by
  induction a2 generalizing a3 a4 with
  | nil => exact ha4
  | cons e l ih =>
    have h := fun r => cpeRun_keeps (p := p) (k := e.1) (serving := e.2) (r := r) (n := a3) ha4 (List.Subset.trans (by decide) hT)
    simp only [cpeMany]
    split
    · rename_i q; have h1 := h (runOf runs e.1); rw [q] at h1; exact h1
    · rename_i q; have h1 := h (runOf runs e.1); rw [q] at h1; exact ih h1

theorem cpeTask4_keeps {T : List Part} {s0 : State} {s0a0 : State} {p : Nat} {runs : List CpeRun} {n : Nat} (hs0a0 : Keeps T s0 s0a0)
    (hT : [.regs, .shadow, .tbl, .mbx, .items, .icu, .evr, .cpe, .dio, .lnch, .priv] ⊆ T) :
    Keeps T s0 (State.cpeTask4 s0a0 p runs n).1 := by
  delta State.cpeTask4
  extract_lets +onlyGivenNames y1
  have hy1 : Keeps T s0 y1 := by
    unfold y1
    refine trigItems_keeps ?_ (List.Subset.trans (by decide) hT)
    exact hs0a0
  extract_lets +onlyGivenNames y2
  extract_lets +onlyGivenNames y3
  have hy3 : Keeps T s0 y3.1 := by
    unfold y3
    refine cpeMany_keeps ?_ (List.Subset.trans (by decide) hT)
    exact hy1
  extract_lets +onlyGivenNames y4
  have hy4 : Keeps T s0 y4 := by
    unfold y4
    refine keeps_foldl ?_ (fun a e ha => ?_)
    · exact hy3
    · refine tset_keeps ?_ (List.Subset.trans (by decide) hT)
      exact ha
  split
  · refine keeps_fst ?_
    exact hy4
  · extract_lets +onlyGivenNames y5
    extract_lets +onlyGivenNames y6
    have hy6 : Keeps T s0 y6.1 := by
      unfold y6
      refine cpeMany_keeps ?_ (List.Subset.trans (by decide) hT)
      exact hy4
    extract_lets +onlyGivenNames y7
    have hy7 : Keeps T s0 y7 := by
      unfold y7
      refine cpeMod_keeps ?_ (List.Subset.trans (by decide) hT)
      exact hy6
    extract_lets +onlyGivenNames y8
    refine keeps_iteP ?_ ?_
    · refine keeps_fst ?_
      exact hy7
    · refine keeps_iteP ?_ ?_
      · refine keeps_fst ?_
        exact hy7
      · refine keeps_fst ?_
        refine cpeTime_keeps ?_ (List.Subset.trans (by decide) hT)
        refine cpeBump_keeps ?_ (List.Subset.trans (by decide) hT)
        exact hy7

theorem cpeEntry_keeps {T : List Part} {s0 : State} {s : State} {p : Nat} {k : Nat} {runs : List CpeRun} {n : Nat} (hs : Keeps T s0 s)
    (hT : [.regs, .shadow, .tbl, .mbx, .items, .icu, .evr, .cpe, .dio, .lnch, .priv] ⊆ T) :
    Keeps T s0 (State.cpeEntry s p k runs n).1 := by
  delta State.cpeEntry
  refine keeps_iteP ?_ ?_
  · refine cpeTask4_keeps ?_ (List.Subset.trans (by decide) hT)
    exact hs
  · refine keeps_iteP ?_ ?_
    · refine keeps_fst ?_
      exact hs
    · extract_lets +onlyGivenNames y1
      have hy1 : Keeps T s0 y1.1 := by
        unfold y1
        refine cpeMany_keeps ?_ (List.Subset.trans (by decide) hT)
        exact hs
      refine keeps_iteP ?_ ?_
      · refine keeps_fst ?_
        exact hy1
      · extract_lets +onlyGivenNames y2
        have hy2 : Keeps T s0 y2 := by
          unfold y2
          refine cpeTime_keeps ?_ (List.Subset.trans (by decide) hT)
          exact hy1
        refine keeps_fst ?_
        refine keeps_ite ?_ ?_
        · exact hy2
        · refine cpeBump_keeps ?_ (List.Subset.trans (by decide) hT)
          exact hy2

theorem cpeTask_keeps {T : List Part} {s0 : State} {unit : Nat} {arg : Nat} {runs : List CpeRun} {s : State} (hs : Keeps T s0 s)
    (hT : [.regs, .shadow, .tbl, .mbx, .host, .items, .icu, .evr, .seq, .cpe, .dio, .lnch, .priv, .sent] ⊆ T) :
    Keeps T s0 (cpeTask unit arg runs s) := by
  delta cpeTask
  extract_lets +onlyGivenNames y1
  extract_lets +onlyGivenNames y2
  extract_lets +onlyGivenNames y3
  refine keeps_ite ?_ ?_
  · exact hs
  · refine keeps_ite ?_ ?_
    · exact hs
    · refine entry_keeps ?_ (fun x hx => ?_) (List.Subset.trans (by decide) hT)
      · exact hs
      · refine keeps_ite ?_ ?_
        · exact hx
        · refine serveXfer_keeps ?_ (List.Subset.trans (by decide) hT)
          unfold y3
          refine cpeEntry_keeps ?_ (List.Subset.trans (by decide) hT)
          exact hx

theorem execCpeTask_keeps {T : List Part} {s0 : State} {unit : Nat} {arg : Nat} {runs : List CpeRun} {s : State} (hs : Keeps T s0 s)
    (hT : [.regs, .shadow, .tbl, .mbx, .host, .items, .icu, .evr, .seq, .cpe, .dio, .lnch, .priv, .sent] ⊆ T) :
    KeepsO T s0 (execCpeTask unit arg runs s) := by
  delta execCpeTask
  refine keepsO_next ?_
  refine cpeTask_keeps ?_ (List.Subset.trans (by decide) hT)
  exact hs

theorem cpeOverrun_keeps {T : List Part} {s0 : State} {s : State} {p : Nat} {k : Nat} {n : Nat} (hs : Keeps T s0 s)
    (hT : [.regs, .shadow, .tbl, .mbx, .items, .icu, .evr, .cpe, .dio, .lnch, .priv] ⊆ T) :
    Keeps T s0 (State.cpeOverrun s p k n) := by
  delta State.cpeOverrun
  refine keeps_ite ?_ ?_
  · exact hs
  · refine cpeEntry_keeps ?_ (List.Subset.trans (by decide) hT)
    exact hs

theorem execStnDrop_keeps {T : List Part} {s0 : State} {port : Nat} {stn : Nat} {s : State} (hs : Keeps T s0 s)
    (hT : [.regs, .tbl, .mbx, .items, .icu, .evr, .cpe, .can, .dio, .dev] ⊆ T) :
    KeepsO T s0 (execStnDrop port stn s) := by
  delta execStnDrop
  refine keepsO_next ?_
  refine keeps_ite ?_ ?_
  · exact hs
  · split
    · refine keeps_of_pair (by assumption) ?_
      refine stnDrop_keeps ?_ (List.Subset.trans (by decide) hT)
      exact hs
    · refine keeps_foldl ?_ (fun a e ha => ?_)
      · refine keeps_of_pair (by assumption) ?_
        refine stnDrop_keeps ?_ (List.Subset.trans (by decide) hT)
        exact hs
      · refine keeps_ite ?_ ?_
        · refine errQ_keeps ?_ (List.Subset.trans (by decide) hT)
          exact ha
        · exact ha

theorem clrForces_keeps {T : List Part} {s0 : State} {p : Nat} {s : State} (hs : Keeps T s0 s)
    (hT : [.tbl] ⊆ T) :
    Keeps T s0 (clrForces p s) := by
  delta clrForces
  refine keeps_foldl ?_ (fun a e ha => ?_)
  · exact hs
  · refine tset_keeps ?_ (List.Subset.trans (by decide) hT)
    exact ha

theorem execClrForces_keeps {T : List Part} {s0 : State} {p : Nat} {s : State} (hs : Keeps T s0 s)
    (hT : [.tbl] ⊆ T) :
    KeepsO T s0 (execClrForces p s) := by
  delta execClrForces
  refine keepsO_next ?_
  refine keeps_ite ?_ ?_
  · refine clrForces_keeps ?_ (List.Subset.trans (by decide) hT)
    exact hs
  · exact hs

theorem forceWrite_keeps {T : List Part} {s0 : State} {p : Nat} {i : Nat} {ws : List Word} {s : State} (hs : Keeps T s0 s)
    (hT : [.tbl] ⊆ T) :
    Keeps T s0 (forceWrite p i ws s) := by
  delta forceWrite
  refine trecSet_keeps ?_ (List.Subset.trans (by decide) hT)
  exact hs

theorem cpeNvMod_keeps {T : List Part} {s0 : State} {s : State} {p : Nat} {f : RetNv → RetNv} (hs : Keeps T s0 s)
    (hT : [.cpeNv] ⊆ T) :
    Keeps T s0 (State.cpeNvMod s p f) := by
  delta State.cpeNvMod
  refine keeps_cpeNv ?_ (List.Subset.trans (by decide) hT)
  exact hs

theorem retSave_keeps {T : List Part} {s0 : State} {s : State} {p : Nat} (hs : Keeps T s0 s)
    (hT : [.regs, .cpe, .cpeNv] ⊆ T) :
    Keeps T s0 (State.retSave s p) := by
  delta State.retSave
  extract_lets +onlyGivenNames y1
  extract_lets +onlyGivenNames y2
  extract_lets +onlyGivenNames y3
  have hy3 : Keeps T s0 y3 := by
    unfold y3
    refine cpeNvMod_keeps ?_ (List.Subset.trans (by decide) hT)
    exact hs
  refine cpeMod_keeps ?_ (List.Subset.trans (by decide) hT)
  refine wr_keeps ?_ (List.Subset.trans (by decide) hT)
  exact hy3

theorem execRetainSave_keeps {T : List Part} {s0 : State} {s : State} (hs : Keeps T s0 s)
    (hT : [.regs, .vis, .cpe, .cpeNv] ⊆ T) :
    KeepsO T s0 (execRetainSave s) := by
  delta execRetainSave
  refine keepsO_next ?_
  refine andShown_keeps ?_ ?_ (List.Subset.trans (by decide) hT)
  · exact hs
  · refine keeps_ite ?_ ?_
    · exact hs
    · refine keeps_foldl ?_ (fun a e ha => ?_)
      · exact hs
      · refine keeps_ite ?_ ?_
        · exact ha
        · refine retSave_keeps ?_ (List.Subset.trans (by decide) hT)
          exact ha

theorem cpeImageRegs_keeps {T : List Part} {s0 : State} {s : State} {p : Nat} (hs : Keeps T s0 s)
    (hT : [.regs, .cpe] ⊆ T) :
    Keeps T s0 (State.cpeImageRegs s p) := by
  delta State.cpeImageRegs
  extract_lets +onlyGivenNames y1
  extract_lets +onlyGivenNames y2
  extract_lets +onlyGivenNames y3
  have hy3 : Keeps T s0 y3 := by
    unfold y3
    refine cpeMod_keeps ?_ (List.Subset.trans (by decide) hT)
    exact hs
  extract_lets +onlyGivenNames y4
  have hy4 : Keeps T s0 y4 := by
    unfold y4
    refine wr_keeps ?_ (List.Subset.trans (by decide) hT)
    refine wr_keeps ?_ (List.Subset.trans (by decide) hT)
    refine wr_keeps ?_ (List.Subset.trans (by decide) hT)
    exact hy3
  refine keeps_foldl ?_ (fun a e ha => ?_)
  · exact hy4
  · refine wr_keeps ?_ (List.Subset.trans (by decide) hT)
    exact ha

theorem instStart_keeps {T : List Part} {s0 : State} {s : State} {p : Nat} {data : List Nat} (hs : Keeps T s0 s)
    (hT : [.tbl] ⊆ T) :
    Keeps T s0 (State.instStart s p data) := by
  delta State.instStart
  refine keeps_foldl ?_ (fun a e ha => ?_)
  · refine instPuts_keeps ?_ (List.Subset.trans (by decide) hT)
    refine tclear_keeps ?_ (List.Subset.trans (by decide) hT)
    exact hs
  · extract_lets +onlyGivenNames y1
    have hy1 : Keeps T s0 y1 := by
      unfold y1
      refine instPut_keeps ?_ (List.Subset.trans (by decide) hT)
      exact ha
    refine keeps_ite ?_ ?_
    · refine instPuts_keeps ?_ (List.Subset.trans (by decide) hT)
      exact hy1
    · exact hy1

theorem cpeLoad_keeps {T : List Part} {s0 : State} {s : State} {p : Nat} {data : List Nat} (hs : Keeps T s0 s)
    (hT : [.tbl, .cpe] ⊆ T) :
    Keeps T s0 (State.cpeLoad s p data) := by
  delta State.cpeLoad
  extract_lets +onlyGivenNames y1
  have hy1 : Keeps T s0 y1 := by
    unfold y1
    refine instStart_keeps ?_ (List.Subset.trans (by decide) hT)
    exact hs
  refine cpeMod_keeps ?_ (List.Subset.trans (by decide) hT)
  exact hy1

theorem cpeSoftReset_keeps {T : List Part} {s0 : State} {p : Nat} {s : State} (hs : Keeps T s0 s)
    (hT : [.regs, .tbl, .items, .icu, .evr, .cpe] ⊆ T) :
    Keeps T s0 (cpeSoftReset p s) := by
  delta cpeSoftReset
  extract_lets +onlyGivenNames y1
  extract_lets +onlyGivenNames y2
  have hy2 : Keeps T s0 y2 := by
    unfold y2
    refine tclear_keeps ?_ (List.Subset.trans (by decide) hT)
    refine tclear_keeps ?_ (List.Subset.trans (by decide) hT)
    refine cpeLoad_keeps ?_ (List.Subset.trans (by decide) hT)
    exact hs
  extract_lets +onlyGivenNames y3
  have hy3 : Keeps T s0 y3 := by
    unfold y3
    refine keeps_foldl ?_ (fun a e ha => ?_)
    · exact hy2
    · split
      · refine instPuts_keeps ?_ (List.Subset.trans (by decide) hT)
        exact ha
      · exact ha
  extract_lets +onlyGivenNames y4
  have hy4 : Keeps T s0 y4 := by
    unfold y4
    refine cpeMod_keeps ?_ (List.Subset.trans (by decide) hT)
    refine cpeImageRegs_keeps ?_ (List.Subset.trans (by decide) hT)
    exact hy3
  refine bankSoftReset_keeps ?_ (List.Subset.trans (by decide) hT)
  exact hy4

theorem retRestore_keeps {T : List Part} {s0 : State} {s : State} {p : Nat} (hs : Keeps T s0 s)
    (hT : [.regs, .tbl, .items, .icu, .evr, .cpe, .cpeNv] ⊆ T) :
    Keeps T s0 (State.retRestore s p) := by
  delta State.retRestore
  extract_lets +onlyGivenNames y1
  extract_lets +onlyGivenNames y2
  clear_value y2
  split
  · extract_lets +onlyGivenNames y3
    have hy3 : Keeps T s0 y3 := by
      unfold y3
      refine cpeNvMod_keeps ?_ (List.Subset.trans (by decide) hT)
      refine wr_keeps ?_ (List.Subset.trans (by decide) hT)
      exact hs
    refine keeps_ite ?_ ?_
    · refine keeps_foldl ?_ (fun a e ha => ?_)
      · exact hy3
      · split
        · refine instPuts_keeps ?_ (List.Subset.trans (by decide) hT)
          exact ha
        · exact ha
    · refine errQ_keeps ?_ (List.Subset.trans (by decide) hT)
      refine raiseEv_keeps ?_ (List.Subset.trans (by decide) hT)
      exact hy3
  · refine errQ_keeps ?_ (List.Subset.trans (by decide) hT)
    refine raiseEv_keeps ?_ (List.Subset.trans (by decide) hT)
    exact hs

theorem cpeStart_keeps {T : List Part} {s0 : State} {s : State} {p : Nat} (hs : Keeps T s0 s)
    (hT : [.regs, .tbl, .items, .icu, .evr, .cpe, .cpeNv] ⊆ T) :
    Keeps T s0 (State.cpeStart s p) := by
  delta State.cpeStart
  refine keeps_ite ?_ ?_
  · refine cpeMod_keeps ?_ (List.Subset.trans (by decide) hT)
    exact hs
  · refine cpeMod_keeps ?_ (List.Subset.trans (by decide) hT)
    refine retRestore_keeps ?_ (List.Subset.trans (by decide) hT)
    refine cpeImageRegs_keeps ?_ (List.Subset.trans (by decide) hT)
    refine cpeLoad_keeps ?_ (List.Subset.trans (by decide) hT)
    exact hs

theorem cpeVerifyCmd_keeps {T : List Part} {s0 : State} {p : Nat} {s : State} (hs : Keeps T s0 s)
    (hT : [.regs, .tbl, .items, .icu, .evr, .keys] ⊆ T) :
    Keeps T s0 (cpeVerifyCmd p s).1 := by
  delta cpeVerifyCmd
  extract_lets +onlyGivenNames y1
  refine keeps_iteP ?_ ?_
  · refine keeps_fst ?_
    exact hs
  · refine keeps_fst ?_
    refine keyTaken_keeps ?_ (List.Subset.trans (by decide) hT)
    refine setB_keeps ?_ (List.Subset.trans (by decide) hT)
    refine bankUnverify_keeps ?_ (List.Subset.trans (by decide) hT)
    exact hs

theorem cpeSwitchCmd_keeps {T : List Part} {s0 : State} {p : Nat} {s : State} (hs : Keeps T s0 s)
    (hT : [.regs, .cpe] ⊆ T) :
    Keeps T s0 (cpeSwitchCmd p s).1 := by
  delta cpeSwitchCmd
  extract_lets +onlyGivenNames y1
  have hy1 : Keeps T s0 y1.1 := by
    unfold y1
    refine bankSwitch_keeps ?_ (List.Subset.trans (by decide) hT)
    exact hs
  refine keeps_iteP ?_ ?_
  · refine keeps_fst ?_
    refine cpeMod_keeps ?_ (List.Subset.trans (by decide) hT)
    exact hy1
  · exact hy1

theorem cpeCancelCmd_keeps {T : List Part} {s0 : State} {p : Nat} {s : State} (hs : Keeps T s0 s)
    (hT : [.regs] ⊆ T) :
    Keeps T s0 (cpeCancelCmd p s) := by
  delta cpeCancelCmd
  refine bankCancel_keeps ?_ (List.Subset.trans (by decide) hT)
  exact hs

theorem execCpeVerify_keeps {T : List Part} {s0 : State} {p : Nat} {s : State} (hs : Keeps T s0 s)
    (hT : [.regs, .tbl, .items, .icu, .evr, .keys] ⊆ T) :
    KeepsO T s0 (execCpeVerify p s) := by
  delta execCpeVerify
  refine keepsO_next ?_
  refine keeps_ite ?_ ?_
  · refine cpeVerifyCmd_keeps ?_ (List.Subset.trans (by decide) hT)
    exact hs
  · exact hs

theorem execCpeSwitch_keeps {T : List Part} {s0 : State} {p : Nat} {s : State} (hs : Keeps T s0 s)
    (hT : [.regs, .cpe] ⊆ T) :
    KeepsO T s0 (execCpeSwitch p s) := by
  delta execCpeSwitch
  refine keepsO_next ?_
  refine keeps_ite ?_ ?_
  · refine cpeSwitchCmd_keeps ?_ (List.Subset.trans (by decide) hT)
    exact hs
  · exact hs

theorem execCpeCancel_keeps {T : List Part} {s0 : State} {p : Nat} {s : State} (hs : Keeps T s0 s)
    (hT : [.regs] ⊆ T) :
    KeepsO T s0 (execCpeCancel p s) := by
  delta execCpeCancel
  refine keepsO_next ?_
  refine keeps_ite ?_ ?_
  · refine cpeCancelCmd_keeps ?_ (List.Subset.trans (by decide) hT)
    exact hs
  · exact hs

theorem execCpeVerifyEnd_keeps {T : List Part} {s0 : State} {p : Nat} {sigOk : Bool} {s : State} (hs : Keeps T s0 s)
    (hT : [.regs, .tbl, .items, .icu, .evr] ⊆ T) :
    KeepsO T s0 (execCpeVerifyEnd p sigOk s) := by
  delta execCpeVerifyEnd
  refine keepsO_next ?_
  refine keeps_ite ?_ ?_
  · exact hs
  · split
    · refine bankFail_keeps ?_ (List.Subset.trans (by decide) hT)
      exact hs
    · extract_lets +onlyGivenNames y1
      have hy1 : Keeps T s0 y1 := by
        unfold y1
        refine wr_keeps ?_ (List.Subset.trans (by decide) hT)
        refine wr_keeps ?_ (List.Subset.trans (by decide) hT)
        refine wr_keeps ?_ (List.Subset.trans (by decide) hT)
        exact hs
      refine bankPass_keeps ?_ (List.Subset.trans (by decide) hT)
      exact hy1

theorem migrate_keeps {T : List Part} {s0 : State} {s : State} {p : Nat} (hs : Keeps T s0 s)
    (hT : [.regs, .tbl, .cpe] ⊆ T) :
    Keeps T s0 (State.migrate s p) := by
  delta State.migrate
  extract_lets +onlyGivenNames y1
  extract_lets +onlyGivenNames y2
  extract_lets +onlyGivenNames y3
  extract_lets +onlyGivenNames y4
  extract_lets +onlyGivenNames y5
  extract_lets +onlyGivenNames y6
  have hy6 : Keeps T s0 y6 := by
    unfold y6
    refine cpeLoad_keeps ?_ (List.Subset.trans (by decide) hT)
    exact hs
  extract_lets +onlyGivenNames y7
  have hy7 : Keeps T s0 y7 := by
    unfold y7
    refine keeps_foldl ?_ (fun a e ha => ?_)
    · exact hy6
    · refine instPuts_keeps ?_ (List.Subset.trans (by decide) hT)
      exact ha
  extract_lets +onlyGivenNames y8
  have hy8 : Keeps T s0 y8 := by
    unfold y8
    refine wr_keeps ?_ (List.Subset.trans (by decide) hT)
    exact hy7
  refine cpeMod_keeps ?_ (List.Subset.trans (by decide) hT)
  exact hy8

theorem migrateForces_keeps {T : List Part} {s0 : State} {s : State} {p : Nat} (hs : Keeps T s0 s)
    (hT : [.regs, .tbl, .items, .icu, .evr] ⊆ T) :
    Keeps T s0 (State.migrateForces s p) := by
  delta State.migrateForces
  refine keeps_foldl ?_ (fun a e ha => ?_)
  · exact hs
  · extract_lets +onlyGivenNames y1
    refine keeps_ite ?_ ?_
    · exact ha
    · refine raiseEv_keeps ?_ (List.Subset.trans (by decide) hT)
      refine cpeBump_keeps ?_ (List.Subset.trans (by decide) hT)
      refine tset_keeps ?_ (List.Subset.trans (by decide) hT)
      refine tset_keeps ?_ (List.Subset.trans (by decide) hT)
      exact ha

theorem execCpeBankSwitch_keeps {T : List Part} {s0 : State} {p : Nat} {s : State} (hs : Keeps T s0 s)
    (hT : [.regs, .vis, .tbl, .items, .icu, .evr, .cpe] ⊆ T) :
    KeepsO T s0 (execCpeBankSwitch p s) := by
  delta execCpeBankSwitch
  refine keepsO_next ?_
  refine andShown_keeps ?_ ?_ (List.Subset.trans (by decide) hT)
  · exact hs
  · refine keeps_ite ?_ ?_
    · exact hs
    · extract_lets +onlyGivenNames y1
      have hy1 : Keeps T s0 y1 := by
        unfold y1
        refine bankExchange_keeps ?_ (List.Subset.trans (by decide) hT)
        exact hs
      extract_lets +onlyGivenNames y2
      have hy2 : Keeps T s0 y2 := by
        unfold y2
        refine cpeImageRegs_keeps ?_ (List.Subset.trans (by decide) hT)
        refine migrateForces_keeps ?_ (List.Subset.trans (by decide) hT)
        refine migrate_keeps ?_ (List.Subset.trans (by decide) hT)
        exact hy1
      extract_lets +onlyGivenNames y3
      have hy3 : Keeps T s0 y3 := by
        unfold y3
        refine cpeMod_keeps ?_ (List.Subset.trans (by decide) hT)
        exact hy2
      extract_lets +onlyGivenNames y4
      have hy4 : Keeps T s0 y4 := by
        unfold y4
        refine wr_keeps ?_ (List.Subset.trans (by decide) hT)
        refine wr_keeps ?_ (List.Subset.trans (by decide) hT)
        refine wr_keeps ?_ (List.Subset.trans (by decide) hT)
        exact hy3
      refine seqInfo_keeps ?_ (List.Subset.trans (by decide) hT)
      refine seqUnverify_keeps ?_ (List.Subset.trans (by decide) hT)
      refine raiseEv_keeps ?_ (List.Subset.trans (by decide) hT)
      refine cpeBump_keeps ?_ (List.Subset.trans (by decide) hT)
      exact hy4

theorem execSeqBankSwitch_keeps {T : List Part} {s0 : State} {s : State} (hs : Keeps T s0 s)
    (hT : [.regs, .vis, .tbl, .items, .icu, .evr, .snet] ⊆ T) :
    KeepsO T s0 (execSeqBankSwitch s) := by
  delta execSeqBankSwitch
  refine keepsO_next ?_
  refine andShown_keeps ?_ ?_ (List.Subset.trans (by decide) hT)
  · exact hs
  · refine keeps_ite ?_ ?_
    · refine seqUnverify_keeps ?_ (List.Subset.trans (by decide) hT)
      exact hs
    · extract_lets +onlyGivenNames y1
      have hy1 : Keeps T s0 y1 := by
        unfold y1
        refine seqBankSwitch_keeps ?_ (List.Subset.trans (by decide) hT)
        exact hs
      refine keeps_ite ?_ ?_
      · refine allSlots_keeps ?_ (List.Subset.trans (by decide) hT)
        exact hy1
      · exact hy1

theorem cpeBankWrite_keeps {T : List Part} {s0 : State} {p : Nat} {idx : Nat} {ws : List Word} {s : State} (hs : Keeps T s0 s)
    (hT : [.regs, .tbl, .items, .icu, .evr] ⊆ T) :
    Keeps T s0 (cpeBankWrite p idx ws s).1 := by
  delta cpeBankWrite
  split
  · refine keeps_fst ?_
    exact hs
  · refine keeps_iteP ?_ ?_
    · refine keeps_fst ?_
      exact hs
    · refine keeps_fst ?_
      refine bankWritten_keeps ?_ (List.Subset.trans (by decide) hT)
      refine writeRecord_keeps ?_ (List.Subset.trans (by decide) hT)
      exact hs

theorem cpeTick_keeps {T : List Part} {s0 : State} {s : State} {skips : List (Nat × Nat)} {p : Nat} (hs : Keeps T s0 s)
    (hT : [.regs, .cpe] ⊆ T) :
    Keeps T s0 (State.cpeTick s skips p) := by
  delta State.cpeTick
  extract_lets +onlyGivenNames y1
  have hy1 : Keeps T s0 y1 := by
    unfold y1
    refine setF_keeps ?_ (List.Subset.trans (by decide) hT)
    exact hs
  extract_lets +onlyGivenNames y2
  have hy2 : Keeps T s0 y2 := by
    unfold y2
    refine setF_keeps ?_ (List.Subset.trans (by decide) hT)
    exact hy1
  extract_lets +onlyGivenNames y3
  have hy3 : Keeps T s0 y3 := by
    unfold y3
    refine setF_keeps ?_ (List.Subset.trans (by decide) hT)
    exact hy2
  extract_lets +onlyGivenNames y4
  extract_lets +onlyGivenNames y5
  refine cpeMod_keeps ?_ (List.Subset.trans (by decide) hT)
  exact hy3

theorem cpesTick_keeps {T : List Part} {s0 : State} {s : State} {skips : List (Nat × Nat)} (hs : Keeps T s0 s)
    (hT : [.regs, .cpe] ⊆ T) :
    Keeps T s0 (State.cpesTick s skips) := by
  delta State.cpesTick
  extract_lets +onlyGivenNames y1
  have hy1 : Keeps T s0 y1 := by
    unfold y1
    refine cpeTick_keeps ?_ (List.Subset.trans (by decide) hT)
    refine cpeTick_keeps ?_ (List.Subset.trans (by decide) hT)
    exact hs
  refine setF_keeps ?_ (List.Subset.trans (by decide) hT)
  exact hy1

end Sys2Proof.Machine
end

