-- ==== Sys2Proof/Laws/KeepKeys.lean ====
section
/-! SUPPORT. What each operation of Machine/Keys.lean keeps: the canonical form, the queue, and the parts it does not name. -/

namespace Sys2Proof.Machine

theorem keysMod_keeps {T : List Part} {s0 : State} {s : State} {f : KeySt → KeySt} (hs : Keeps T s0 s)
    (hT : [.keys] ⊆ T) :
    Keeps T s0 (State.keysMod s f) := by
  delta State.keysMod
  refine keeps_keys ?_ (List.Subset.trans (by decide) hT)
  exact hs

theorem setSlotState_keeps {T : List Part} {s0 : State} {s : State} {i : Nat} {st : Nat} (hs : Keeps T s0 s)
    (hT : [.tbl] ⊆ T) :
    Keeps T s0 (State.setSlotState s i st) := by
  delta State.setSlotState
  refine tset_keeps ?_ (List.Subset.trans (by decide) hT)
  exact hs

theorem setSlotNext_keeps {T : List Part} {s0 : State} {s : State} {i : Nat} {n : Nat} (hs : Keeps T s0 s)
    (hT : [.tbl] ⊆ T) :
    Keeps T s0 (State.setSlotNext s i n) := by
  delta State.setSlotNext
  refine tset_keeps ?_ (List.Subset.trans (by decide) hT)
  exact hs

theorem unstage_keeps {T : List Part} {s0 : State} {s : State} {i : Nat} (hs : Keeps T s0 s)
    (hT : [.keys] ⊆ T) :
    Keeps T s0 (State.unstage s i) := by
  delta State.unstage
  refine keysMod_keeps ?_ (List.Subset.trans (by decide) hT)
  exact hs

theorem stage_keeps {T : List Part} {s0 : State} {s : State} {i : Nat} {n : KeyNew} (hs : Keeps T s0 s)
    (hT : [.keys] ⊆ T) :
    Keeps T s0 (State.stage s i n) := by
  delta State.stage
  refine keysMod_keeps ?_ (List.Subset.trans (by decide) hT)
  exact hs

theorem slotPut_keeps {T : List Part} {s0 : State} {s : State} {i : Nat} {st : Nat} {n : KeyNew} (hs : Keeps T s0 s)
    (hT : [.tbl] ⊆ T) :
    Keeps T s0 (State.slotPut s i st n) := by
  delta State.slotPut
  extract_lets +onlyGivenNames y1
  have hy1 : Keeps T s0 y1 := by
    unfold y1
    refine twr_keeps ?_ (List.Subset.trans (by decide) hT)
    exact hs
  refine trecSet_keeps ?_ (List.Subset.trans (by decide) hT)
  refine twr_keeps ?_ (List.Subset.trans (by decide) hT)
  refine twr_keeps ?_ (List.Subset.trans (by decide) hT)
  exact hy1

theorem slotEmpty_keeps {T : List Part} {s0 : State} {s : State} {i : Nat} (hs : Keeps T s0 s)
    (hT : [.tbl, .keys] ⊆ T) :
    Keeps T s0 (State.slotEmpty s i) := by
  delta State.slotEmpty
  refine twr_keeps ?_ (List.Subset.trans (by decide) hT)
  refine slotPut_keeps ?_ (List.Subset.trans (by decide) hT)
  refine unstage_keeps ?_ (List.Subset.trans (by decide) hT)
  exact hs

theorem keyRegs_keeps {T : List Part} {s0 : State} {s : State} (hs : Keeps T s0 s)
    (hT : [.regs] ⊆ T) :
    Keeps T s0 (State.keyRegs s) := by
  delta State.keyRegs
  extract_lets +onlyGivenNames y1
  extract_lets +onlyGivenNames y2
  extract_lets +onlyGivenNames y3
  have hy3 : Keeps T s0 y3 := by
    unfold y3
    refine wr_keeps ?_ (List.Subset.trans (by decide) hT)
    exact hs
  refine keeps_foldl ?_ (fun a e ha => ?_)
  · exact hy3
  · refine wr_keeps ?_ (List.Subset.trans (by decide) hT)
    refine wr_keeps ?_ (List.Subset.trans (by decide) hT)
    exact ha

theorem keyEnd_keeps {T : List Part} {s0 : State} {s : State} {op : Nat} {slot : Nat} {code : Nat} (hs : Keeps T s0 s)
    (hT : [.regs, .tbl, .items, .icu, .evr] ⊆ T) :
    Keeps T s0 (State.keyEnd s op slot code) := by
  delta State.keyEnd
  extract_lets +onlyGivenNames y1
  have hy1 : Keeps T s0 y1 := by
    unfold y1
    refine setF_keeps ?_ (List.Subset.trans (by decide) hT)
    refine setF_keeps ?_ (List.Subset.trans (by decide) hT)
    refine setF_keeps ?_ (List.Subset.trans (by decide) hT)
    exact hs
  extract_lets +onlyGivenNames y2
  have hy2 : Keeps T s0 y2 := by
    unfold y2
    refine bump_keeps ?_ (List.Subset.trans (by decide) hT)
    refine keyRegs_keeps ?_ (List.Subset.trans (by decide) hT)
    exact hy1
  refine keeps_ite ?_ ?_
  · refine raiseEv_keeps ?_ (List.Subset.trans (by decide) hT)
    exact hy2
  · refine raiseEv_keeps ?_ (List.Subset.trans (by decide) hT)
    refine bump_keeps ?_ (List.Subset.trans (by decide) hT)
    exact hy2

theorem keyCmd_keeps {T : List Part} {s0 : State} {s : State} {ok : Bool} {f : State → State} (hs : Keeps T s0 s) (hf : ∀ x, Keeps T s0 x → Keeps T s0 (f x))
    (_hT : [] ⊆ T) :
    Keeps T s0 (State.keyCmd s ok f).1 := by
  delta State.keyCmd
  split
  · refine keeps_fst ?_
    exact hs
  · refine keeps_iteP ?_ ?_
    · refine keeps_fst ?_
      refine hf _ ?_
      exact hs
    · refine keeps_fst ?_
      exact hs

theorem zeroBuf_keeps {T : List Part} {s0 : State} {s : State} (hs : Keeps T s0 s)
    (hT : [.tbl] ⊆ T) :
    Keeps T s0 (State.zeroBuf s) := by
  delta State.zeroBuf
  refine tclear_keeps ?_ (List.Subset.trans (by decide) hT)
  exact hs

theorem keyStageCmd_keeps {T : List Part} {s0 : State} {s : State} (hs : Keeps T s0 s)
    (hT : [.regs, .keys] ⊆ T) :
    Keeps T s0 (keyStageCmd s).1 := by
  delta keyStageCmd
  extract_lets +onlyGivenNames y1
  refine keyCmd_keeps ?_ (fun x hx => ?_) (List.Subset.trans (by decide) hT)
  · exact hs
  · refine setB_keeps ?_ (List.Subset.trans (by decide) hT)
    refine keysMod_keeps ?_ (List.Subset.trans (by decide) hT)
    exact hx

theorem execKeyStage_keeps {T : List Part} {s0 : State} {s : State} (hs : Keeps T s0 s)
    (hT : [.regs, .keys] ⊆ T) :
    KeepsO T s0 (execKeyStage s) := by
  delta execKeyStage
  refine keepsO_next ?_
  refine keyStageCmd_keeps ?_ (List.Subset.trans (by decide) hT)
  exact hs

theorem keyRunEnd_keeps {T : List Part} {s0 : State} {s : State} (hs : Keeps T s0 s)
    (hT : [.regs, .keys] ⊆ T) :
    Keeps T s0 (State.keyRunEnd s) := by
  delta State.keyRunEnd
  refine setB_keeps ?_ (List.Subset.trans (by decide) hT)
  refine keysMod_keeps ?_ (List.Subset.trans (by decide) hT)
  exact hs

theorem execKeyStageEnd_keeps {T : List Part} {s0 : State} {tagOk : Bool} {pointOk : Bool} {kcv : Word} {s : State} (hs : Keeps T s0 s)
    (hT : [.regs, .tbl, .items, .icu, .evr, .keys] ⊆ T) :
    KeepsO T s0 (execKeyStageEnd tagOk pointOk kcv s) := by
  delta execKeyStageEnd
  refine keepsO_next ?_
  split
  · exact hs
  · refine keeps_ite ?_ ?_
    · exact hs
    · extract_lets +onlyGivenNames y1
      extract_lets +onlyGivenNames y2
      have hy2 : Keeps T s0 y2 := by
        unfold y2
        refine zeroBuf_keeps ?_ (List.Subset.trans (by decide) hT)
        refine keyRunEnd_keeps ?_ (List.Subset.trans (by decide) hT)
        exact hs
      extract_lets +onlyGivenNames y3
      extract_lets +onlyGivenNames y4
      have hy4 : Keeps T s0 y4 := by
        unfold y4
        refine keeps_ite ?_ ?_
        · exact hy2
        · refine keeps_ite ?_ ?_
          · refine slotPut_keeps ?_ (List.Subset.trans (by decide) hT)
            refine stage_keeps ?_ (List.Subset.trans (by decide) hT)
            exact hy2
          · refine twr_keeps ?_ (List.Subset.trans (by decide) hT)
            refine setSlotNext_keeps ?_ (List.Subset.trans (by decide) hT)
            refine stage_keeps ?_ (List.Subset.trans (by decide) hT)
            exact hy2
      refine keyEnd_keeps ?_ (List.Subset.trans (by decide) hT)
      exact hy4

theorem keyVerifyCmd_keeps {T : List Part} {s0 : State} {s : State} (hs : Keeps T s0 s)
    (hT : [.regs, .keys] ⊆ T) :
    Keeps T s0 (keyVerifyCmd s).1 := by
  delta keyVerifyCmd
  extract_lets +onlyGivenNames y1
  refine keyCmd_keeps ?_ (fun x hx => ?_) (List.Subset.trans (by decide) hT)
  · exact hs
  · refine setB_keeps ?_ (List.Subset.trans (by decide) hT)
    refine keysMod_keeps ?_ (List.Subset.trans (by decide) hT)
    exact hx

theorem execKeyVerify_keeps {T : List Part} {s0 : State} {s : State} (hs : Keeps T s0 s)
    (hT : [.regs, .keys] ⊆ T) :
    KeepsO T s0 (execKeyVerify s) := by
  delta execKeyVerify
  refine keepsO_next ?_
  refine keyVerifyCmd_keeps ?_ (List.Subset.trans (by decide) hT)
  exact hs

theorem execKeyVerifyEnd_keeps {T : List Part} {s0 : State} {pointOk : Bool} {sigOk : Bool} {s : State} (hs : Keeps T s0 s)
    (hT : [.regs, .tbl, .items, .icu, .evr, .keys] ⊆ T) :
    KeepsO T s0 (execKeyVerifyEnd pointOk sigOk s) := by
  delta execKeyVerifyEnd
  refine keepsO_next ?_
  split
  · exact hs
  · refine keeps_ite ?_ ?_
    · exact hs
    · split
      · refine keyRunEnd_keeps ?_ (List.Subset.trans (by decide) hT)
        exact hs
      · extract_lets +onlyGivenNames y1
        extract_lets +onlyGivenNames y2
        extract_lets +onlyGivenNames y3
        have hy3 : Keeps T s0 y3 := by
          unfold y3
          refine keyRunEnd_keeps ?_ (List.Subset.trans (by decide) hT)
          exact hs
        extract_lets +onlyGivenNames y4
        have hy4 : Keeps T s0 y4 := by
          unfold y4
          refine keeps_ite ?_ ?_
          · exact hy3
          · refine keeps_ite ?_ ?_
            · refine setSlotState_keeps ?_ (List.Subset.trans (by decide) hT)
              exact hy3
            · refine setSlotNext_keeps ?_ (List.Subset.trans (by decide) hT)
              exact hy3
        extract_lets +onlyGivenNames y5
        have hy5 : Keeps T s0 y5 := by
          unfold y5
          refine keeps_ite ?_ ?_
          · refine raiseEv_keeps ?_ (List.Subset.trans (by decide) hT)
            exact hy4
          · exact hy4
        refine keyEnd_keeps ?_ (List.Subset.trans (by decide) hT)
        exact hy5

theorem keyPromoteCmd_keeps {T : List Part} {s0 : State} {s : State} (hs : Keeps T s0 s)
    (hT : [.regs, .keys] ⊆ T) :
    Keeps T s0 (keyPromoteCmd s).1 := by
  delta keyPromoteCmd
  extract_lets +onlyGivenNames y1
  refine keyCmd_keeps ?_ (fun x hx => ?_) (List.Subset.trans (by decide) hT)
  · exact hs
  · extract_lets +onlyGivenNames y2
    have hy2 : Keeps T s0 y2 := by
      unfold y2
      refine setB_keeps ?_ (List.Subset.trans (by decide) hT)
      refine keysMod_keeps ?_ (List.Subset.trans (by decide) hT)
      exact hx
    refine wr_keeps ?_ (List.Subset.trans (by decide) hT)
    exact hy2

theorem execPromote_keeps {T : List Part} {s0 : State} {s : State} (hs : Keeps T s0 s)
    (hT : [.regs, .keys] ⊆ T) :
    KeepsO T s0 (execPromote s) := by
  delta execPromote
  refine keepsO_next ?_
  refine keyPromoteCmd_keeps ?_ (List.Subset.trans (by decide) hT)
  exact hs

theorem pendClear_keeps {T : List Part} {s0 : State} {s : State} (hs : Keeps T s0 s)
    (hT : [.regs, .keys] ⊆ T) :
    Keeps T s0 (State.pendClear s) := by
  delta State.pendClear
  refine keysMod_keeps ?_ (List.Subset.trans (by decide) hT)
  refine wr_keeps ?_ (List.Subset.trans (by decide) hT)
  refine setB_keeps ?_ (List.Subset.trans (by decide) hT)
  exact hs

theorem pendFail_keeps {T : List Part} {s0 : State} {s : State} {code : Nat} (hs : Keeps T s0 s)
    (hT : [.regs, .tbl, .items, .icu, .evr, .keys] ⊆ T) :
    Keeps T s0 (State.pendFail s code) := by
  delta State.pendFail
  refine keyEnd_keeps ?_ (List.Subset.trans (by decide) hT)
  refine pendClear_keeps ?_ (List.Subset.trans (by decide) hT)
  exact hs

theorem keyReplaced_keeps {T : List Part} {s0 : State} {s : State} {i : Nat} (hs : Keeps T s0 s)
    (hT : [.regs, .tbl, .snet, .free] ⊆ T) :
    Keeps T s0 (State.keyReplaced s i) := by
  delta State.keyReplaced
  extract_lets +onlyGivenNames y1
  extract_lets +onlyGivenNames y2
  have hy2 : Keeps T s0 y2 := by
    unfold y2
    refine keeps_foldl ?_ (fun a e ha => ?_)
    · exact hs
    · refine useFree_keeps ?_ (List.Subset.trans (by decide) hT)
      refine twr_keeps ?_ (List.Subset.trans (by decide) hT)
      refine twr_keeps ?_ (List.Subset.trans (by decide) hT)
      exact ha
  refine keeps_ite ?_ ?_
  · extract_lets +onlyGivenNames y3
    refine keeps_foldl ?_ (fun a e ha => ?_)
    · exact hy2
    · refine rekeyStart_keeps ?_ (List.Subset.trans (by decide) hT)
      exact ha
  · exact hy2

theorem promoteKey_keeps {T : List Part} {s0 : State} {s : State} {i : Nat} {n : KeyNew} (hs : Keeps T s0 s)
    (hT : [.regs, .tbl, .snet, .keys, .free] ⊆ T) :
    Keeps T s0 (State.promoteKey s i n) := by
  delta State.promoteKey
  extract_lets +onlyGivenNames y1
  extract_lets +onlyGivenNames y2
  have hy2 : Keeps T s0 y2 := by
    unfold y2
    refine twr_keeps ?_ (List.Subset.trans (by decide) hT)
    refine twr_keeps ?_ (List.Subset.trans (by decide) hT)
    refine slotPut_keeps ?_ (List.Subset.trans (by decide) hT)
    refine unstage_keeps ?_ (List.Subset.trans (by decide) hT)
    exact hs
  extract_lets +onlyGivenNames y3
  have hy3 : Keeps T s0 y3 := by
    unfold y3
    refine keeps_ite ?_ ?_
    · refine trecSet_keeps ?_ (List.Subset.trans (by decide) hT)
      refine twr_keeps ?_ (List.Subset.trans (by decide) hT)
      exact hy2
    · exact hy2
  refine keeps_ite ?_ ?_
  · refine keyReplaced_keeps ?_ (List.Subset.trans (by decide) hT)
    exact hy3
  · exact hy3

theorem execPromoted_keeps {T : List Part} {s0 : State} {s : State} (hs : Keeps T s0 s)
    (hT : [.regs, .vis, .tbl, .items, .icu, .evr, .snet, .keys, .free] ⊆ T) :
    KeepsO T s0 (execPromoted s) := by
  delta execPromoted
  refine keepsO_next ?_
  refine andShown_keeps ?_ ?_ (List.Subset.trans (by decide) hT)
  · exact hs
  · refine keeps_ite ?_ ?_
    · exact hs
    · extract_lets +onlyGivenNames y1
      split
      · refine pendClear_keeps ?_ (List.Subset.trans (by decide) hT)
        exact hs
      · refine keeps_ite ?_ ?_
        · refine pendFail_keeps ?_ (List.Subset.trans (by decide) hT)
          exact hs
        · refine keyEnd_keeps ?_ (List.Subset.trans (by decide) hT)
          refine raiseEv_keeps ?_ (List.Subset.trans (by decide) hT)
          refine promoteKey_keeps ?_ (List.Subset.trans (by decide) hT)
          refine pendClear_keeps ?_ (List.Subset.trans (by decide) hT)
          exact hs

theorem keyCancelCmd_keeps {T : List Part} {s0 : State} {s : State} (hs : Keeps T s0 s)
    (hT : [.regs, .tbl, .items, .icu, .evr, .keys] ⊆ T) :
    Keeps T s0 (keyCancelCmd s).1 := by
  delta keyCancelCmd
  extract_lets +onlyGivenNames y1
  refine keyCmd_keeps ?_ (fun x hx => ?_) (List.Subset.trans (by decide) hT)
  · exact hs
  · extract_lets +onlyGivenNames y2
    have hy2 : Keeps T s0 y2 := by
      unfold y2
      refine keeps_ite ?_ ?_
      · refine pendClear_keeps ?_ (List.Subset.trans (by decide) hT)
        exact hx
      · exact hx
    extract_lets +onlyGivenNames y3
    have hy3 : Keeps T s0 y3 := by
      unfold y3
      refine keeps_ite ?_ ?_
      · refine twr_keeps ?_ (List.Subset.trans (by decide) hT)
        refine setSlotNext_keeps ?_ (List.Subset.trans (by decide) hT)
        refine unstage_keeps ?_ (List.Subset.trans (by decide) hT)
        exact hy2
      · refine slotEmpty_keeps ?_ (List.Subset.trans (by decide) hT)
        exact hy2
    refine keyEnd_keeps ?_ (List.Subset.trans (by decide) hT)
    exact hy3

theorem execKeyCancel_keeps {T : List Part} {s0 : State} {s : State} (hs : Keeps T s0 s)
    (hT : [.regs, .tbl, .items, .icu, .evr, .keys] ⊆ T) :
    KeepsO T s0 (execKeyCancel s) := by
  delta execKeyCancel
  refine keepsO_next ?_
  refine keyCancelCmd_keeps ?_ (List.Subset.trans (by decide) hT)
  exact hs

theorem runFail_keeps {T : List Part} {s0 : State} {s : State} {code : Nat} (hs : Keeps T s0 s)
    (hT : [.regs, .tbl, .items, .icu, .evr, .keys] ⊆ T) :
    Keeps T s0 (State.runFail s code) := by
  delta State.runFail
  split
  · exact hs
  · refine keyEnd_keeps ?_ (List.Subset.trans (by decide) hT)
    refine keeps_ite ?_ ?_
    · refine keyRunEnd_keeps ?_ (List.Subset.trans (by decide) hT)
      exact hs
    · refine zeroBuf_keeps ?_ (List.Subset.trans (by decide) hT)
      refine keyRunEnd_keeps ?_ (List.Subset.trans (by decide) hT)
      exact hs

theorem closeUnder_keeps {T : List Part} {s0 : State} {s : State} {xs : List Nat} (hs : Keeps T s0 s)
    (hT : [.regs, .tbl, .host, .items, .icu, .evr] ⊆ T) :
    Keeps T s0 (State.closeUnder s xs) := by
  delta State.closeUnder
  refine keeps_foldl ?_ (fun a e ha => ?_)
  · exact hs
  · refine keeps_ite ?_ ?_
    · refine closeSess_keeps ?_ (List.Subset.trans (by decide) hT)
      exact ha
    · exact ha

theorem revokeSlot_keeps {T : List Part} {s0 : State} {s : State} {i : Nat} (hs : Keeps T s0 s)
    (hT : [.regs, .tbl, .host, .items, .icu, .evr, .snet, .keys] ⊆ T) :
    Keeps T s0 (State.revokeSlot s i) := by
  delta State.revokeSlot
  extract_lets +onlyGivenNames y1
  extract_lets +onlyGivenNames y2
  have hy2 : Keeps T s0 y2 := by
    unfold y2
    refine keeps_ite ?_ ?_
    · refine pendFail_keeps ?_ (List.Subset.trans (by decide) hT)
      exact hs
    · exact hs
  extract_lets +onlyGivenNames y3
  have hy3 : Keeps T s0 y3 := by
    unfold y3
    split
    · refine keeps_ite ?_ ?_
      · refine runFail_keeps ?_ (List.Subset.trans (by decide) hT)
        exact hy2
      · exact hy2
    · exact hy2
  extract_lets +onlyGivenNames y4
  have hy4 : Keeps T s0 y4 := by
    unfold y4
    refine keeps_foldl ?_ (fun a e ha => ?_)
    · exact hy3
    · refine setSlotState_keeps ?_ (List.Subset.trans (by decide) hT)
      refine twr_keeps ?_ (List.Subset.trans (by decide) hT)
      refine setSlotNext_keeps ?_ (List.Subset.trans (by decide) hT)
      refine unstage_keeps ?_ (List.Subset.trans (by decide) hT)
      exact ha
  extract_lets +onlyGivenNames y5
  have hy5 : Keeps T s0 y5 := by
    unfold y5
    refine raiseEv_keeps ?_ (List.Subset.trans (by decide) hT)
    refine bumpN_keeps ?_ (List.Subset.trans (by decide) hT)
    exact hy4
  extract_lets +onlyGivenNames y6
  have hy6 : Keeps T s0 y6 := by
    unfold y6
    refine keeps_ite ?_ ?_
    · refine groupsRevoked_keeps ?_ (List.Subset.trans (by decide) hT)
      exact hy5
    · exact hy5
  refine keyEnd_keeps ?_ (List.Subset.trans (by decide) hT)
  refine closeUnder_keeps ?_ (List.Subset.trans (by decide) hT)
  exact hy6

theorem keyRevokeCmd_keeps {T : List Part} {s0 : State} {s : State} (hs : Keeps T s0 s)
    (hT : [.regs, .tbl, .host, .items, .icu, .evr, .snet, .keys] ⊆ T) :
    Keeps T s0 (keyRevokeCmd s).1 := by
  delta keyRevokeCmd
  extract_lets +onlyGivenNames y1
  split
  · refine keeps_fst ?_
    exact hs
  · refine keeps_iteP ?_ ?_
    · refine keeps_fst ?_
      refine keyEnd_keeps ?_ (List.Subset.trans (by decide) hT)
      exact hs
    · refine keeps_iteP ?_ ?_
      · refine keeps_fst ?_
        refine revokeSlot_keeps ?_ (List.Subset.trans (by decide) hT)
        exact hs
      · refine keeps_fst ?_
        exact hs

theorem execKeyRevoke_keeps {T : List Part} {s0 : State} {s : State} (hs : Keeps T s0 s)
    (hT : [.regs, .tbl, .host, .items, .icu, .evr, .snet, .keys] ⊆ T) :
    KeepsO T s0 (execKeyRevoke s) := by
  delta execKeyRevoke
  refine keepsO_next ?_
  refine keyRevokeCmd_keeps ?_ (List.Subset.trans (by decide) hT)
  exact hs

theorem keyEraseCmd_keeps {T : List Part} {s0 : State} {s : State} (hs : Keeps T s0 s)
    (hT : [.regs, .tbl, .items, .icu, .evr, .keys] ⊆ T) :
    Keeps T s0 (keyEraseCmd s).1 := by
  delta keyEraseCmd
  extract_lets +onlyGivenNames y1
  refine keyCmd_keeps ?_ (fun x hx => ?_) (List.Subset.trans (by decide) hT)
  · exact hs
  · extract_lets +onlyGivenNames y2
    have hy2 : Keeps T s0 y2 := by
      unfold y2
      refine keeps_ite ?_ ?_
      · refine pendFail_keeps ?_ (List.Subset.trans (by decide) hT)
        exact hx
      · exact hx
    extract_lets +onlyGivenNames y3
    have hy3 : Keeps T s0 y3 := by
      unfold y3
      refine keeps_ite ?_ ?_
      · refine tclear_keeps ?_ (List.Subset.trans (by decide) hT)
        exact hy2
      · exact hy2
    refine keyEnd_keeps ?_ (List.Subset.trans (by decide) hT)
    refine slotEmpty_keeps ?_ (List.Subset.trans (by decide) hT)
    exact hy3

theorem execKeyErase_keeps {T : List Part} {s0 : State} {s : State} (hs : Keeps T s0 s)
    (hT : [.regs, .tbl, .items, .icu, .evr, .keys] ⊆ T) :
    KeepsO T s0 (execKeyErase s) := by
  delta execKeyErase
  refine keepsO_next ?_
  refine keyEraseCmd_keeps ?_ (List.Subset.trans (by decide) hT)
  exact hs

theorem frameHiClear_keeps {T : List Part} {s0 : State} {s : State} (hs : Keeps T s0 s)
    (hT : [.twin] ⊆ T) :
    Keeps T s0 (State.frameHiClear s) := by
  delta State.frameHiClear
  refine keeps_twin ?_ (List.Subset.trans (by decide) hT)
  exact hs

theorem twinKey_keeps {T : List Part} {s0 : State} {s : State} (hs : Keeps T s0 s)
    (hT : [.regs, .tbl, .twin, .free] ⊆ T) :
    Keeps T s0 (State.twinKey s) := by
  delta State.twinKey
  refine frameHiClear_keeps ?_ (List.Subset.trans (by decide) hT)
  refine keyRegs_keeps ?_ (List.Subset.trans (by decide) hT)
  refine useFree_keeps ?_ (List.Subset.trans (by decide) hT)
  refine twr_keeps ?_ (List.Subset.trans (by decide) hT)
  refine slotPut_keeps ?_ (List.Subset.trans (by decide) hT)
  exact hs

theorem tampLog_keeps {T : List Part} {s0 : State} {s : State} {sensors : Nat} {ns : Nat} (hs : Keeps T s0 s)
    (hT : [.regs, .tbl] ⊆ T) :
    Keeps T s0 (State.tampLog s sensors ns) := by
  delta State.tampLog
  extract_lets +onlyGivenNames y1
  extract_lets +onlyGivenNames y2
  extract_lets +onlyGivenNames y3
  extract_lets +onlyGivenNames y4
  refine setF_keeps ?_ (List.Subset.trans (by decide) hT)
  refine trecSet_keeps ?_ (List.Subset.trans (by decide) hT)
  exact hs

theorem zeroise_keeps {T : List Part} {s0 : State} {s : State} (hs : Keeps T s0 s)
    (hT : [.regs, .tbl, .items, .icu, .evr, .keys] ⊆ T) :
    Keeps T s0 (State.zeroise s) := by
  delta State.zeroise
  extract_lets +onlyGivenNames y1
  have hy1 : Keeps T s0 y1 := by
    unfold y1
    refine zeroBuf_keeps ?_ (List.Subset.trans (by decide) hT)
    refine runFail_keeps ?_ (List.Subset.trans (by decide) hT)
    exact hs
  extract_lets +onlyGivenNames y2
  have hy2 : Keeps T s0 y2 := by
    unfold y2
    refine keeps_ite ?_ ?_
    · refine pendFail_keeps ?_ (List.Subset.trans (by decide) hT)
      exact hy1
    · exact hy1
  refine keeps_ite ?_ ?_
  · exact hy2
  · refine raiseEv_keeps ?_ (List.Subset.trans (by decide) hT)
    refine setB_keeps ?_ (List.Subset.trans (by decide) hT)
    exact hy2

theorem tamperResponse_keeps {T : List Part} {s0 : State} {s : State} {sensors : Nat} {ns : Nat} {fuse : Bool} (hs : Keeps T s0 s)
    (hT : [.regs, .tbl, .items, .icu, .evr, .keys] ⊆ T) :
    Keeps T s0 (State.tamperResponse s sensors ns fuse) := by
  delta State.tamperResponse
  extract_lets +onlyGivenNames y1
  extract_lets +onlyGivenNames y2
  have hy2 : Keeps T s0 y2 := by
    unfold y2
    refine setF_keeps ?_ (List.Subset.trans (by decide) hT)
    refine zeroise_keeps ?_ (List.Subset.trans (by decide) hT)
    exact hs
  extract_lets +onlyGivenNames y3
  have hy3 : Keeps T s0 y3 := by
    unfold y3
    refine setB_keeps ?_ (List.Subset.trans (by decide) hT)
    refine setF_keeps ?_ (List.Subset.trans (by decide) hT)
    refine setF_keeps ?_ (List.Subset.trans (by decide) hT)
    exact hy2
  refine signal_keeps ?_ (List.Subset.trans (by decide) hT)
  refine raiseEv_keeps ?_ (List.Subset.trans (by decide) hT)
  refine bump_keeps ?_ (List.Subset.trans (by decide) hT)
  refine tampLog_keeps ?_ (List.Subset.trans (by decide) hT)
  exact hy3

theorem execTamper_keeps {T : List Part} {s0 : State} {sensors : Nat} {ns : Nat} {s : State} (hs : Keeps T s0 s)
    (hT : [.regs, .tbl, .items, .icu, .evr, .keys] ⊆ T) :
    KeepsO T s0 (execTamper sensors ns s) := by
  delta execTamper
  refine keepsO_next ?_
  refine keeps_ite ?_ ?_
  · exact hs
  · refine keysMod_keeps ?_ (List.Subset.trans (by decide) hT)
    refine tamperResponse_keeps ?_ (List.Subset.trans (by decide) hT)
    exact hs

theorem tampShow_keeps {T : List Part} {s0 : State} {s : State} {sensors : Nat} (hs : Keeps T s0 s)
    (hT : [.regs] ⊆ T) :
    Keeps T s0 (State.tampShow s sensors) := by
  delta State.tampShow
  refine setF_keeps ?_ (List.Subset.trans (by decide) hT)
  exact hs

theorem aonTick_keeps {T : List Part} {s0 : State} {s : State} (hs : Keeps T s0 s)
    (hT : [.regs, .keys] ⊆ T) :
    Keeps T s0 (State.aonTick s) := by
  delta State.aonTick
  extract_lets +onlyGivenNames y1
  extract_lets +onlyGivenNames y2
  have hy2 : Keeps T s0 y2 := by
    unfold y2
    refine keeps_ite ?_ ?_
    · refine setB_keeps ?_ (List.Subset.trans (by decide) hT)
      refine keysMod_keeps ?_ (List.Subset.trans (by decide) hT)
      exact hs
    · refine keysMod_keeps ?_ (List.Subset.trans (by decide) hT)
      exact hs
  refine wr_keeps ?_ (List.Subset.trans (by decide) hT)
  refine wr_keeps ?_ (List.Subset.trans (by decide) hT)
  exact hy2

theorem promTick_keeps {T : List Part} {s0 : State} {s : State} {skips : List (Nat × Nat)} (hs : Keeps T s0 s)
    (hT : [.keys] ⊆ T) :
    Keeps T s0 (State.promTick s skips) := by
  delta State.promTick
  extract_lets +onlyGivenNames y1
  refine keeps_ite ?_ ?_
  · refine keysMod_keeps ?_ (List.Subset.trans (by decide) hT)
    exact hs
  · exact hs

end Sys2Proof.Machine
end

