-- ==== Sys2Proof/Laws/KeepLoop.lean ====
section
/-! SUPPORT. What each operation of Machine/Loop.lean keeps: the canonical form, the queue, and the parts it does not name. -/

namespace Sys2Proof.Machine

theorem loopMod_keeps {T : List Part} {s0 : State} {s : State} {f : LoopEng → LoopEng} (hs : Keeps T s0 s)
    (hT : [.loop] ⊆ T) :
    Keeps T s0 (State.loopMod s f) := by
  delta State.loopMod
  refine keeps_loop ?_ (List.Subset.trans (by decide) hT)
  exact hs

theorem loopPut_keeps {T : List Part} {s0 : State} {s : State} {l : Nat} {f : LoopSt → LoopSt} (hs : Keeps T s0 s)
    (hT : [.loop] ⊆ T) :
    Keeps T s0 (State.loopPut s l f) := by
  delta State.loopPut
  refine loopMod_keeps ?_ (List.Subset.trans (by decide) hT)
  exact hs

theorem lwSet_keeps {T : List Part} {s0 : State} {s : State} {l : Nat} {w : Nat} {v : Word} (hs : Keeps T s0 s)
    (hT : [.tbl] ⊆ T) :
    Keeps T s0 (State.lwSet s l w v) := by
  delta State.lwSet
  refine twr_keeps ?_ (List.Subset.trans (by decide) hT)
  exact hs

theorem lbSet_keeps {T : List Part} {s0 : State} {s : State} {l : Nat} {w : Nat} {lo : Nat} {n : Nat} {v : Nat} (hs : Keeps T s0 s)
    (hT : [.tbl] ⊆ T) :
    Keeps T s0 (State.lbSet s l w lo n v) := by
  delta State.lbSet
  refine tset_keeps ?_ (List.Subset.trans (by decide) hT)
  exact hs

theorem loopGroupFields_keeps {T : List Part} {s0 : State} {s : State} (hs : Keeps T s0 s)
    (hT : [.tbl] ⊆ T) :
    Keeps T s0 (State.loopGroupFields s) := by
  delta State.loopGroupFields
  refine keeps_foldl ?_ (fun a e ha => ?_)
  · exact hs
  · refine lbSet_keeps ?_ (List.Subset.trans (by decide) hT)
    exact ha

theorem lflagSet_keeps {T : List Part} {s0 : State} {s : State} {l : Nat} {b : Nat} {v : Bool} (hs : Keeps T s0 s)
    (hT : [.tbl] ⊆ T) :
    Keeps T s0 (State.lflagSet s l b v) := by
  delta State.lflagSet
  refine lbSet_keeps ?_ (List.Subset.trans (by decide) hT)
  exact hs

theorem loopOut_keeps {T : List Part} {s0 : State} {s : State} {l : Nat} {u : Word} {q : Nat} (hs : Keeps T s0 s)
    (hT : [.regs, .tbl, .mbx, .items, .icu, .evr, .dio, .dev] ⊆ T) :
    Keeps T s0 (State.loopOut s l u q) := by
  delta State.loopOut
  refine fwPuts_keeps ?_ (List.Subset.trans (by decide) hT)
  refine lbSet_keeps ?_ (List.Subset.trans (by decide) hT)
  refine lwSet_keeps ?_ (List.Subset.trans (by decide) hT)
  exact hs

theorem loopRan_keeps {T : List Part} {s0 : State} {s : State} {l : Nat} (hs : Keeps T s0 s)
    (hT : [.tbl, .loop] ⊆ T) :
    Keeps T s0 (State.loopRan s l) := by
  delta State.loopRan
  refine lwSet_keeps ?_ (List.Subset.trans (by decide) hT)
  refine loopPut_keeps ?_ (List.Subset.trans (by decide) hT)
  exact hs

theorem loopSeen_keeps {T : List Part} {s0 : State} {s : State} {l : Nat} {pv : Word} {sp : Word} (hs : Keeps T s0 s)
    (hT : [.tbl] ⊆ T) :
    Keeps T s0 (State.loopSeen s l pv sp) := by
  delta State.loopSeen
  refine lwSet_keeps ?_ (List.Subset.trans (by decide) hT)
  refine lwSet_keeps ?_ (List.Subset.trans (by decide) hT)
  exact hs

theorem tuneLeave_keeps {T : List Part} {s0 : State} {s : State} {t : TuneSt} (hs : Keeps T s0 s)
    (hT : [.regs, .tbl, .mbx, .items, .icu, .evr, .dio, .loop, .dev] ⊆ T) :
    Keeps T s0 (State.tuneLeave s t) := by
  delta State.tuneLeave
  extract_lets +onlyGivenNames y1
  have hy1 : Keeps T s0 y1 := by
    unfold y1
    refine setB_keeps ?_ (List.Subset.trans (by decide) hT)
    refine loopMod_keeps ?_ (List.Subset.trans (by decide) hT)
    exact hs
  extract_lets +onlyGivenNames y2
  have hy2 : Keeps T s0 y2 := by
    unfold y2
    refine loopPut_keeps ?_ (List.Subset.trans (by decide) hT)
    refine lflagSet_keeps ?_ (List.Subset.trans (by decide) hT)
    exact hy1
  refine loopOut_keeps ?_ (List.Subset.trans (by decide) hT)
  exact hy2

theorem tuneAbort_keeps {T : List Part} {s0 : State} {s : State} {reason : Nat} (hs : Keeps T s0 s)
    (hT : [.regs, .tbl, .mbx, .items, .icu, .evr, .dio, .loop, .dev] ⊆ T) :
    Keeps T s0 (State.tuneAbort s reason) := by
  delta State.tuneAbort
  split
  · exact hs
  · refine raiseEv_keeps ?_ (List.Subset.trans (by decide) hT)
    refine tset_keeps ?_ (List.Subset.trans (by decide) hT)
    refine tset_keeps ?_ (List.Subset.trans (by decide) hT)
    refine tuneLeave_keeps ?_ (List.Subset.trans (by decide) hT)
    exact hs

theorem tuneDone_keeps {T : List Part} {s0 : State} {s : State} {t : TuneSt} {cyc : List (Nat × Word)} (hs : Keeps T s0 s)
    (hT : [.regs, .tbl, .mbx, .items, .icu, .evr, .dio, .loop, .dev] ⊆ T) :
    Keeps T s0 (State.tuneDone s t cyc) := by
  delta State.tuneDone
  extract_lets +onlyGivenNames y1
  extract_lets +onlyGivenNames y2
  extract_lets +onlyGivenNames y3
  extract_lets +onlyGivenNames y4
  extract_lets +onlyGivenNames y5
  refine keeps_ite ?_ ?_
  · refine tuneAbort_keeps ?_ (List.Subset.trans (by decide) hT)
    exact hs
  · refine keeps_ite ?_ ?_
    · refine tuneAbort_keeps ?_ (List.Subset.trans (by decide) hT)
      exact hs
    · extract_lets +onlyGivenNames y6
      extract_lets +onlyGivenNames y7
      extract_lets +onlyGivenNames y8
      extract_lets +onlyGivenNames y9
      extract_lets +onlyGivenNames y10
      extract_lets +onlyGivenNames y11
      extract_lets +onlyGivenNames y12
      extract_lets +onlyGivenNames y13
      extract_lets +onlyGivenNames y14
      have hy14 : Keeps T s0 y14 := by
        unfold y14
        refine trecSet_keeps ?_ (List.Subset.trans (by decide) hT)
        refine tuneLeave_keeps ?_ (List.Subset.trans (by decide) hT)
        exact hs
      refine raiseEv_keeps ?_ (List.Subset.trans (by decide) hT)
      refine bump_keeps ?_ (List.Subset.trans (by decide) hT)
      exact hy14

theorem tuneRun_keeps {T : List Part} {s0 : State} {s : State} {t : TuneSt} {pv : Word} {sp : Word} {pvq : Nat} {spBad : Bool} (hs : Keeps T s0 s)
    (hT : [.regs, .tbl, .mbx, .items, .icu, .evr, .dio, .loop, .dev] ⊆ T) :
    Keeps T s0 (State.tuneRun s t pv sp pvq spBad) := by
  delta State.tuneRun
  extract_lets +onlyGivenNames y1
  refine keeps_ite ?_ ?_
  · refine tuneAbort_keeps ?_ (List.Subset.trans (by decide) hT)
    exact hs
  · extract_lets +onlyGivenNames y2
    extract_lets +onlyGivenNames y3
    extract_lets +onlyGivenNames y4
    extract_lets +onlyGivenNames y5
    extract_lets +onlyGivenNames y6
    extract_lets +onlyGivenNames y7
    extract_lets +onlyGivenNames y8
    extract_lets +onlyGivenNames y9
    extract_lets +onlyGivenNames y10
    refine keeps_ite ?_ ?_
    · refine tuneDone_keeps ?_ (List.Subset.trans (by decide) hT)
      exact hs
    · extract_lets +onlyGivenNames y11
      refine loopOut_keeps ?_ (List.Subset.trans (by decide) hT)
      refine loopMod_keeps ?_ (List.Subset.trans (by decide) hT)
      exact hs

theorem loopBad_keeps {T : List Part} {s0 : State} {s : State} {l : Nat} {bad : Bool} (hs : Keeps T s0 s)
    (hT : [.regs, .tbl, .items, .icu, .evr] ⊆ T) :
    Keeps T s0 (State.loopBad s l bad) := by
  delta State.loopBad
  extract_lets +onlyGivenNames y1
  have hy1 : Keeps T s0 y1 := by
    unfold y1
    refine lflagSet_keeps ?_ (List.Subset.trans (by decide) hT)
    exact hs
  refine keeps_ite ?_ ?_
  · refine raiseEv_keeps ?_ (List.Subset.trans (by decide) hT)
    refine bump_keeps ?_ (List.Subset.trans (by decide) hT)
    exact hy1
  · exact hy1

theorem loopExec_keeps {T : List Part} {s0 : State} {s0a0 : State} {l : Nat} (hs0a0 : Keeps T s0 s0a0)
    (hT : [.regs, .tbl, .mbx, .items, .icu, .evr, .dio, .loop, .dev] ⊆ T) :
    Keeps T s0 (State.loopExec s0a0 l) := by
  delta State.loopExec
  extract_lets +onlyGivenNames y1
  extract_lets +onlyGivenNames y2
  extract_lets +onlyGivenNames y3
  have hy3 : Keeps T s0 y3 := by
    unfold y3
    refine loopRan_keeps ?_ (List.Subset.trans (by decide) hT)
    exact hs0a0
  extract_lets +onlyGivenNames y4
  extract_lets +onlyGivenNames y5
  extract_lets +onlyGivenNames y6
  extract_lets +onlyGivenNames y7
  extract_lets +onlyGivenNames y8
  extract_lets +onlyGivenNames y9
  extract_lets +onlyGivenNames y10
  have hy10 : Keeps T s0 y10 := by
    unfold y10
    refine loopPut_keeps ?_ (List.Subset.trans (by decide) hT)
    refine lflagSet_keeps ?_ (List.Subset.trans (by decide) hT)
    exact hy3
  refine keeps_ite ?_ ?_
  · split
    · refine tuneRun_keeps ?_ (List.Subset.trans (by decide) hT)
      unfold y7
      split
      · refine loopPut_keeps ?_ (List.Subset.trans (by decide) hT)
        refine loopSeen_keeps ?_ (List.Subset.trans (by decide) hT)
        exact hy10
      · exact hy10
    · refine tuneAbort_keeps ?_ (List.Subset.trans (by decide) hT)
      exact hy10
  · refine keeps_ite ?_ ?_
    · refine loopOut_keeps ?_ (List.Subset.trans (by decide) hT)
      refine loopPut_keeps ?_ (List.Subset.trans (by decide) hT)
      unfold y7
      split
      · refine loopPut_keeps ?_ (List.Subset.trans (by decide) hT)
        refine loopSeen_keeps ?_ (List.Subset.trans (by decide) hT)
        refine loopBad_keeps ?_ (List.Subset.trans (by decide) hT)
        exact hy10
      · refine loopBad_keeps ?_ (List.Subset.trans (by decide) hT)
        exact hy10
    · refine keeps_ite ?_ ?_
      · extract_lets +onlyGivenNames y11
        extract_lets +onlyGivenNames y12
        have hy12 : Keeps T s0 y12 := by
          unfold y12
          refine keeps_ite ?_ ?_
          · refine lwSet_keeps ?_ (List.Subset.trans (by decide) hT)
            exact hy10
          · exact hy10
        extract_lets +onlyGivenNames y13
        have hy13 : Keeps T s0 y13 := by
          unfold y13
          refine loopPut_keeps ?_ (List.Subset.trans (by decide) hT)
          unfold y8
          refine lflagSet_keeps ?_ (List.Subset.trans (by decide) hT)
          refine lflagSet_keeps ?_ (List.Subset.trans (by decide) hT)
          refine lflagSet_keeps ?_ (List.Subset.trans (by decide) hT)
          refine lflagSet_keeps ?_ (List.Subset.trans (by decide) hT)
          unfold y7
          split
          · refine loopPut_keeps ?_ (List.Subset.trans (by decide) hT)
            refine loopSeen_keeps ?_ (List.Subset.trans (by decide) hT)
            exact hy12
          · exact hy12
        refine loopOut_keeps ?_ (List.Subset.trans (by decide) hT)
        refine lflagSet_keeps ?_ (List.Subset.trans (by decide) hT)
        exact hy13
      · extract_lets +onlyGivenNames y14
        have hy14 : Keeps T s0 y14 := by
          unfold y14
          refine loopBad_keeps ?_ (List.Subset.trans (by decide) hT)
          refine loopPut_keeps ?_ (List.Subset.trans (by decide) hT)
          exact hy10
        split
        · extract_lets +onlyGivenNames y15
          extract_lets +onlyGivenNames y16
          have hy16 : Keeps T s0 y16 := by
            unfold y16
            refine loopSeen_keeps ?_ (List.Subset.trans (by decide) hT)
            exact hy14
          refine keeps_ite ?_ ?_
          · extract_lets +onlyGivenNames y17
            have hy17 : Keeps T s0 y17 := by
              unfold y17
              refine loopPut_keeps ?_ (List.Subset.trans (by decide) hT)
              refine lflagSet_keeps ?_ (List.Subset.trans (by decide) hT)
              refine lflagSet_keeps ?_ (List.Subset.trans (by decide) hT)
              refine lflagSet_keeps ?_ (List.Subset.trans (by decide) hT)
              refine lwSet_keeps ?_ (List.Subset.trans (by decide) hT)
              unfold y8
              refine lflagSet_keeps ?_ (List.Subset.trans (by decide) hT)
              refine lflagSet_keeps ?_ (List.Subset.trans (by decide) hT)
              refine lflagSet_keeps ?_ (List.Subset.trans (by decide) hT)
              exact hy16
            refine loopOut_keeps ?_ (List.Subset.trans (by decide) hT)
            exact hy17
          · extract_lets +onlyGivenNames y18
            have hy18 : Keeps T s0 y18 := by
              unfold y18
              refine loopPut_keeps ?_ (List.Subset.trans (by decide) hT)
              refine lflagSet_keeps ?_ (List.Subset.trans (by decide) hT)
              exact hy16
            extract_lets +onlyGivenNames y19
            have hy19 : Keeps T s0 y19 := by
              unfold y19
              refine keeps_ite ?_ ?_
              · exact hy18
              · refine raiseEv_keeps ?_ (List.Subset.trans (by decide) hT)
                refine bump_keeps ?_ (List.Subset.trans (by decide) hT)
                exact hy18
            refine loopOut_keeps ?_ (List.Subset.trans (by decide) hT)
            exact hy19
        · extract_lets +onlyGivenNames y20
          have hy20 : Keeps T s0 y20 := by
            unfold y20
            refine loopPut_keeps ?_ (List.Subset.trans (by decide) hT)
            unfold y8
            refine lflagSet_keeps ?_ (List.Subset.trans (by decide) hT)
            refine lflagSet_keeps ?_ (List.Subset.trans (by decide) hT)
            refine lflagSet_keeps ?_ (List.Subset.trans (by decide) hT)
            exact hy14
          refine keeps_ite ?_ ?_
          · refine loopOut_keeps ?_ (List.Subset.trans (by decide) hT)
            exact hy20
          · refine loopOut_keeps ?_ (List.Subset.trans (by decide) hT)
            exact hy20

theorem loopRun_keeps {T : List Part} {s0 : State} {s : State} {l : Nat} (hs : Keeps T s0 s)
    (hT : [.regs, .tbl, .mbx, .items, .icu, .evr, .dio, .loop, .dev] ⊆ T) :
    Keeps T s0 (State.loopRun s l).1 := by
  delta State.loopRun
  refine keeps_iteP ?_ ?_
  · refine keeps_fst ?_
    refine fwPuts_keeps ?_ (List.Subset.trans (by decide) hT)
    exact hs
  · refine keeps_iteP ?_ ?_
    · refine keeps_fst ?_
      exact hs
    · refine keeps_iteP ?_ ?_
      · refine keeps_fst ?_
        refine loopOut_keeps ?_ (List.Subset.trans (by decide) hT)
        refine lbSet_keeps ?_ (List.Subset.trans (by decide) hT)
        exact hs
      · refine keeps_fst ?_
        refine loopExec_keeps ?_ (List.Subset.trans (by decide) hT)
        exact hs

theorem groupSelect_keeps {T : List Part} {s0 : State} {s : State} {g : Nat} (hs : Keeps T s0 s)
    (hT : [.regs, .tbl, .mbx, .items, .icu, .evr, .dio, .loop, .dev] ⊆ T) :
    Keeps T s0 (State.groupSelect s g) := by
  delta State.groupSelect
  extract_lets +onlyGivenNames y1
  split
  · refine fwPuts_keeps ?_ (List.Subset.trans (by decide) hT)
    exact hs
  · extract_lets +onlyGivenNames y2
    extract_lets +onlyGivenNames y3
    have hy3 : Keeps T s0 y3 := by
      unfold y3
      refine fwPuts_keeps ?_ (List.Subset.trans (by decide) hT)
      refine twr_keeps ?_ (List.Subset.trans (by decide) hT)
      exact hs
    extract_lets +onlyGivenNames y4
    extract_lets +onlyGivenNames y5
    have hy5 : Keeps T s0 y5 := by
      unfold y5
      refine keeps_ite ?_ ?_
      · refine raiseEv_keeps ?_ (List.Subset.trans (by decide) hT)
        refine tset_keeps ?_ (List.Subset.trans (by decide) hT)
        exact hy3
      · exact hy3
    extract_lets +onlyGivenNames y6
    have hy6 : Keeps T s0 y6 := by
      unfold y6
      refine loopMod_keeps ?_ (List.Subset.trans (by decide) hT)
      refine tset_keeps ?_ (List.Subset.trans (by decide) hT)
      refine tset_keeps ?_ (List.Subset.trans (by decide) hT)
      exact hy5
    refine keeps_foldl ?_ (fun a e ha => ?_)
    · exact hy6
    · refine lflagSet_keeps ?_ (List.Subset.trans (by decide) hT)
      refine lwSet_keeps ?_ (List.Subset.trans (by decide) hT)
      exact ha

theorem loopsRun_keeps {T : List Part} {s0 : State} {s : State} {arg : Nat} {n : Nat} (hs : Keeps T s0 s)
    (hT : [.regs, .tbl, .mbx, .items, .icu, .evr, .dio, .loop, .dev] ⊆ T) :
    Keeps T s0 (State.loopsRun s arg n).1 := by
  delta State.loopsRun
  refine keeps_foldlP ?_ (fun a e ha => ?_)
  · refine keeps_fst ?_
    exact hs
  · extract_lets +onlyGivenNames y1
    extract_lets +onlyGivenNames y2
    have hy2 : Keeps T s0 y2.1 := by
      unfold y2
      refine loopRun_keeps ?_ (List.Subset.trans (by decide) hT)
      exact ha
    refine keeps_fst ?_
    exact hy2

theorem loopGroup_keeps {T : List Part} {s0 : State} {arg : Nat} {s : State} (hs : Keeps T s0 s)
    (hT : [.regs, .tbl, .mbx, .items, .icu, .evr, .seq, .dio, .loop, .dev] ⊆ T) :
    Keeps T s0 (loopGroup arg s) := by
  delta loopGroup
  refine entry_keeps ?_ (fun x hx => ?_) (List.Subset.trans (by decide) hT)
  · exact hs
  · refine keeps_ite ?_ ?_
    · exact hx
    · extract_lets +onlyGivenNames y1
      have hy1 : Keeps T s0 y1.1 := by
        unfold y1
        refine loopsRun_keeps ?_ (List.Subset.trans (by decide) hT)
        exact hx
      refine keeps_foldl ?_ (fun a e ha => ?_)
      · exact hy1
      · refine groupSelect_keeps ?_ (List.Subset.trans (by decide) hT)
        exact ha

theorem execLoopGroup_keeps {T : List Part} {s0 : State} {arg : Nat} {s : State} (hs : Keeps T s0 s)
    (hT : [.regs, .tbl, .mbx, .items, .icu, .evr, .seq, .dio, .loop, .dev] ⊆ T) :
    KeepsO T s0 (execLoopGroup arg s) := by
  delta execLoopGroup
  refine keepsO_next ?_
  refine loopGroup_keeps ?_ (List.Subset.trans (by decide) hT)
  exact hs

theorem tuneCmd_keeps {T : List Part} {s0 : State} {s : State} (hs : Keeps T s0 s)
    (hT : [.regs, .tbl, .loop] ⊆ T) :
    Keeps T s0 (tuneCmd s).1 := by
  delta tuneCmd
  extract_lets +onlyGivenNames y1
  extract_lets +onlyGivenNames y2
  extract_lets +onlyGivenNames y3
  extract_lets +onlyGivenNames y4
  extract_lets +onlyGivenNames y5
  extract_lets +onlyGivenNames y6
  refine keeps_iteP ?_ ?_
  · refine keeps_fst ?_
    exact hs
  · refine keeps_iteP ?_ ?_
    · refine keeps_fst ?_
      exact hs
    · split
      · refine keeps_iteP ?_ ?_
        · refine keeps_fst ?_
          exact hs
        · extract_lets +onlyGivenNames y7
          extract_lets +onlyGivenNames y8
          have hy8 : Keeps T s0 y8 := by
            unfold y8
            refine lflagSet_keeps ?_ (List.Subset.trans (by decide) hT)
            refine loopMod_keeps ?_ (List.Subset.trans (by decide) hT)
            exact hs
          extract_lets +onlyGivenNames y9
          have hy9 : Keeps T s0 y9 := by
            unfold y9
            refine tset_keeps ?_ (List.Subset.trans (by decide) hT)
            refine tset_keeps ?_ (List.Subset.trans (by decide) hT)
            exact hy8
          refine keeps_fst ?_
          refine setF_keeps ?_ (List.Subset.trans (by decide) hT)
          exact hy9
      · refine keeps_fst ?_
        exact hs

theorem execTune_keeps {T : List Part} {s0 : State} {s : State} (hs : Keeps T s0 s)
    (hT : [.regs, .tbl, .loop] ⊆ T) :
    KeepsO T s0 (execTune s) := by
  delta execTune
  refine keepsO_next ?_
  refine tuneCmd_keeps ?_ (List.Subset.trans (by decide) hT)
  exact hs

theorem execTuneTimeout_keeps {T : List Part} {s0 : State} {s : State} (hs : Keeps T s0 s)
    (hT : [.regs, .tbl, .mbx, .items, .icu, .evr, .dio, .loop, .dev] ⊆ T) :
    KeepsO T s0 (execTuneTimeout s) := by
  delta execTuneTimeout
  refine keepsO_next ?_
  split
  · exact hs
  · refine keeps_ite ?_ ?_
    · refine tuneAbort_keeps ?_ (List.Subset.trans (by decide) hT)
      exact hs
    · exact hs

theorem tuneAbortCmd_keeps {T : List Part} {s0 : State} {s : State} (hs : Keeps T s0 s)
    (hT : [.regs, .tbl, .mbx, .items, .icu, .evr, .dio, .loop, .dev] ⊆ T) :
    Keeps T s0 (tuneAbortCmd s) := by
  delta tuneAbortCmd
  refine tuneAbort_keeps ?_ (List.Subset.trans (by decide) hT)
  exact hs

theorem execTuneAbort_keeps {T : List Part} {s0 : State} {s : State} (hs : Keeps T s0 s)
    (hT : [.regs, .tbl, .mbx, .items, .icu, .evr, .dio, .loop, .dev] ⊆ T) :
    KeepsO T s0 (execTuneAbort s) := by
  delta execTuneAbort
  refine keepsO_next ?_
  refine tuneAbortCmd_keeps ?_ (List.Subset.trans (by decide) hT)
  exact hs

theorem applyPropCmd_keeps {T : List Part} {s0 : State} {s : State} (hs : Keeps T s0 s)
    (hT : [.tbl, .loop] ⊆ T) :
    Keeps T s0 (applyPropCmd s).1 := by
  delta applyPropCmd
  extract_lets +onlyGivenNames y1
  refine keeps_iteP ?_ ?_
  · refine keeps_fst ?_
    refine loopPut_keeps ?_ (List.Subset.trans (by decide) hT)
    refine trecSet_keeps ?_ (List.Subset.trans (by decide) hT)
    exact hs
  · refine keeps_fst ?_
    exact hs

theorem execApplyProp_keeps {T : List Part} {s0 : State} {s : State} (hs : Keeps T s0 s)
    (hT : [.tbl, .loop] ⊆ T) :
    KeepsO T s0 (execApplyProp s) := by
  delta execApplyProp
  refine keepsO_next ?_
  refine applyPropCmd_keeps ?_ (List.Subset.trans (by decide) hT)
  exact hs

theorem loopHoldSet_keeps {T : List Part} {s0 : State} {k : Nat} {v : Word} {s : State} (hs : Keeps T s0 s)
    (hT : [.regs, .tbl, .mbx, .items, .icu, .evr, .dio, .loop, .dev] ⊆ T) :
    Keeps T s0 (loopHoldSet k v s) := by
  delta loopHoldSet
  refine keeps_foldl ?_ (fun a e ha => ?_)
  · exact hs
  · extract_lets +onlyGivenNames y1
    have hy1 : Keeps T s0 y1 := by
      unfold y1
      split
      · refine keeps_ite ?_ ?_
        · refine tuneAbort_keeps ?_ (List.Subset.trans (by decide) hT)
          exact ha
        · exact ha
      · exact ha
    refine lbSet_keeps ?_ (List.Subset.trans (by decide) hT)
    exact hy1

theorem loopHoldClr_keeps {T : List Part} {s0 : State} {k : Nat} {v : Word} {s : State} (hs : Keeps T s0 s)
    (hT : [.tbl, .loop] ⊆ T) :
    Keeps T s0 (loopHoldClr k v s) := by
  delta loopHoldClr
  refine keeps_foldl ?_ (fun a e ha => ?_)
  · exact hs
  · refine lbSet_keeps ?_ (List.Subset.trans (by decide) hT)
    refine keeps_ite ?_ ?_
    · refine loopPut_keeps ?_ (List.Subset.trans (by decide) hT)
      exact ha
    · exact ha

theorem execLoopHoldSet_keeps {T : List Part} {s0 : State} {k : Nat} {v : Word} {s : State} (hs : Keeps T s0 s)
    (hT : [.regs, .tbl, .mbx, .items, .icu, .evr, .dio, .loop, .dev] ⊆ T) :
    KeepsO T s0 (execLoopHoldSet k v s) := by
  delta execLoopHoldSet
  refine keepsO_next ?_
  refine loopHoldSet_keeps ?_ (List.Subset.trans (by decide) hT)
  exact hs

theorem execLoopHoldClr_keeps {T : List Part} {s0 : State} {k : Nat} {v : Word} {s : State} (hs : Keeps T s0 s)
    (hT : [.tbl, .loop] ⊆ T) :
    KeepsO T s0 (execLoopHoldClr k v s) := by
  delta execLoopHoldClr
  refine keepsO_next ?_
  refine loopHoldClr_keeps ?_ (List.Subset.trans (by decide) hT)
  exact hs

theorem loopWordWrite_keeps {T : List Part} {s0 : State} {s : State} {l : Nat} {w : Nat} {v : Word} (hs : Keeps T s0 s)
    (hT : [.regs, .tbl, .mbx, .items, .icu, .evr, .dio, .loop, .dev] ⊆ T) :
    Keeps T s0 (State.loopWordWrite s l w v) := by
  delta State.loopWordWrite
  refine keeps_ite ?_ ?_
  · extract_lets +onlyGivenNames y1
    have hy1 : Keeps T s0 y1 := by
      unfold y1
      split
      · refine keeps_ite ?_ ?_
        · refine tuneAbort_keeps ?_ (List.Subset.trans (by decide) hT)
          exact hs
        · exact hs
      · exact hs
    extract_lets +onlyGivenNames y2
    extract_lets +onlyGivenNames y3
    have hy3 : Keeps T s0 y3 := by
      unfold y3
      refine lwSet_keeps ?_ (List.Subset.trans (by decide) hT)
      exact hy1
    extract_lets +onlyGivenNames y4
    have hy4 : Keeps T s0 y4 := by
      unfold y4
      refine keeps_ite ?_ ?_
      · refine loopPut_keeps ?_ (List.Subset.trans (by decide) hT)
        exact hy3
      · exact hy3
    refine lbSet_keeps ?_ (List.Subset.trans (by decide) hT)
    exact hy4
  · refine keeps_ite ?_ ?_
    · refine loopPut_keeps ?_ (List.Subset.trans (by decide) hT)
      refine lwSet_keeps ?_ (List.Subset.trans (by decide) hT)
      exact hs
    · refine lwSet_keeps ?_ (List.Subset.trans (by decide) hT)
      exact hs

theorem groupWrite_keeps {T : List Part} {s0 : State} {s : State} {g : Nat} {ws : List Word} (hs : Keeps T s0 s)
    (hT : [.tbl, .loop] ⊆ T) :
    Keeps T s0 (State.groupWrite s g ws) := by
  delta State.groupWrite
  extract_lets +onlyGivenNames y1
  have hy1 : Keeps T s0 y1 := by
    unfold y1
    refine trecSet_keeps ?_ (List.Subset.trans (by decide) hT)
    exact hs
  refine loopGroupFields_keeps ?_ (List.Subset.trans (by decide) hT)
  refine loopMod_keeps ?_ (List.Subset.trans (by decide) hT)
  exact hy1

theorem loopTick_keeps {T : List Part} {s0 : State} {s : State} (hs : Keeps T s0 s)
    (hT : [.regs] ⊆ T) :
    Keeps T s0 (State.loopTick s) := by
  delta State.loopTick
  extract_lets +onlyGivenNames y1
  extract_lets +onlyGivenNames y2
  have hy2 : Keeps T s0 y2 := by
    unfold y2
    refine wr_keeps ?_ (List.Subset.trans (by decide) hT)
    exact hs
  refine keeps_foldl ?_ (fun a e ha => ?_)
  · exact hy2
  · extract_lets +onlyGivenNames y3
    refine wr_keeps ?_ (List.Subset.trans (by decide) hT)
    refine wr_keeps ?_ (List.Subset.trans (by decide) hT)
    exact ha

theorem loopSoftReset_keeps {T : List Part} {s0 : State} {s : State} (hs : Keeps T s0 s)
    (hT : [.regs, .tbl, .mbx, .items, .icu, .evr, .dio, .loop, .dev] ⊆ T) :
    Keeps T s0 (loopSoftReset s) := by
  delta loopSoftReset
  extract_lets +onlyGivenNames y1
  have hy1 : Keeps T s0 y1 := by
    unfold y1
    refine tuneAbort_keeps ?_ (List.Subset.trans (by decide) hT)
    exact hs
  extract_lets +onlyGivenNames y2
  have hy2 : Keeps T s0 y2 := by
    unfold y2
    refine keeps_foldl ?_ (fun a e ha => ?_)
    · exact hy1
    · refine lbSet_keeps ?_ (List.Subset.trans (by decide) hT)
      exact ha
  refine loopMod_keeps ?_ (List.Subset.trans (by decide) hT)
  exact hy2

end Sys2Proof.Machine
end

