-- ==== Sys2Proof/Laws/KeepMeter.lean ====
section
/-! SUPPORT. What each operation of Machine/Meter.lean keeps: the canonical form, the queue, and the parts it does not name. -/

namespace Sys2Proof.Machine

theorem metMod_keeps {T : List Part} {s0 : State} {s : State} {f : MetSt → MetSt} (hs : Keeps T s0 s)
    (hT : [.met] ⊆ T) :
    Keeps T s0 (State.metMod s f) := by
  delta State.metMod
  refine keeps_met ?_ (List.Subset.trans (by decide) hT)
  exact hs

theorem metNvMod_keeps {T : List Part} {s0 : State} {s : State} {f : MetNv → MetNv} (hs : Keeps T s0 s)
    (hT : [.metNv] ⊆ T) :
    Keeps T s0 (State.metNvMod s f) := by
  delta State.metNvMod
  refine keeps_metNv ?_ (List.Subset.trans (by decide) hT)
  exact hs

theorem metPtMod_keeps {T : List Part} {s0 : State} {s : State} {p : Nat} {f : MetPt → MetPt} (hs : Keeps T s0 s)
    (hT : [.met] ⊆ T) :
    Keeps T s0 (State.metPtMod s p f) := by
  delta State.metPtMod
  refine metMod_keeps ?_ (List.Subset.trans (by decide) hT)
  exact hs

theorem metWr_keeps {T : List Part} {s0 : State} {s : State} {tid : Nat} {idx : Nat} {w : Nat} {v : Word} (hs : Keeps T s0 s)
    (hT : [.met] ⊆ T) :
    Keeps T s0 (State.metWr s tid idx w v) := by
  delta State.metWr
  refine metMod_keeps ?_ (List.Subset.trans (by decide) hT)
  exact hs

theorem metWrs_keeps {T : List Part} {s0 : State} {s : State} {tid : Nat} {idx : Nat} {w : Nat} {a4 : List Word} (hs : Keeps T s0 s)
    (hT : [.met] ⊆ T) :
    Keeps T s0 (State.metWrs s tid idx w a4) := by
  induction a4 generalizing s w with
  | nil => exact hs
  | cons v vs ih => exact ih (metWr_keeps hs (List.Subset.trans (by decide) hT))

theorem metAdd_keeps {T : List Part} {s0 : State} {s : State} {tid : Nat} {idx : Nat} {w : Nat} {x : Num} (hs : Keeps T s0 s)
    (hT : [.met] ⊆ T) :
    Keeps T s0 (State.metAdd s tid idx w x) := by
  delta State.metAdd
  extract_lets +onlyGivenNames y1
  extract_lets +onlyGivenNames y2
  extract_lets +onlyGivenNames y3
  extract_lets +onlyGivenNames y4
  refine metMod_keeps ?_ (List.Subset.trans (by decide) hT)
  refine metWr_keeps ?_ (List.Subset.trans (by decide) hT)
  refine metWr_keeps ?_ (List.Subset.trans (by decide) hT)
  exact hs

theorem metShow_keeps {T : List Part} {s0 : State} {s : State} (hs : Keeps T s0 s)
    (hT : [.tbl, .met] ⊆ T) :
    Keeps T s0 (State.metShow s) := by
  delta State.metShow
  exact metMod_keeps (keeps_tblPut _ hs (List.Subset.trans (by decide) hT)) (List.Subset.trans (by decide) hT)

theorem modInput_keeps {T : List Part} {s0 : State} {s : State} {m : Nat} {bad : Bool} (hs : Keeps T s0 s)
    (hT : [.regs, .tbl, .items, .icu, .evr, .met] ⊆ T) :
    Keeps T s0 (State.modInput s m bad) := by
  delta State.modInput
  extract_lets +onlyGivenNames y1
  extract_lets +onlyGivenNames y2
  have hy2 : Keeps T s0 y2 := by
    unfold y2
    refine metMod_keeps ?_ (List.Subset.trans (by decide) hT)
    refine setB_keeps ?_ (List.Subset.trans (by decide) hT)
    exact hs
  refine keeps_ite ?_ ?_
  · extract_lets +onlyGivenNames y3
    have hy3 : Keeps T s0 y3 := by
      unfold y3
      refine setB_keeps ?_ (List.Subset.trans (by decide) hT)
      exact hy2
    extract_lets +onlyGivenNames y4
    have hy4 : Keeps T s0 y4 := by
      unfold y4
      refine keeps_ite ?_ ?_
      · exact hy3
      · refine metMod_keeps ?_ (List.Subset.trans (by decide) hT)
        refine bump_keeps ?_ (List.Subset.trans (by decide) hT)
        exact hy3
    refine keeps_ite ?_ ?_
    · exact hy4
    · refine raiseEv_keeps ?_ (List.Subset.trans (by decide) hT)
      exact hy4
  · exact hy2

theorem modClip_keeps {T : List Part} {s0 : State} {s : State} {m : Nat} {c : Int} (hs : Keeps T s0 s)
    (hT : [.regs, .tbl, .items, .icu, .evr] ⊆ T) :
    Keeps T s0 (State.modClip s m c) := by
  delta State.modClip
  refine keeps_ite ?_ ?_
  · refine raiseEv_keeps ?_ (List.Subset.trans (by decide) hT)
    refine bump_keeps ?_ (List.Subset.trans (by decide) hT)
    refine setB_keeps ?_ (List.Subset.trans (by decide) hT)
    exact hs
  · exact hs

theorem modLatchPt_keeps {T : List Part} {s0 : State} {s : State} {p : Nat} {smp : List (List Int)} {stuck : Nat} (hs : Keeps T s0 s)
    (hT : [.regs, .tbl, .items, .icu, .evr, .met] ⊆ T) :
    Keeps T s0 (State.modLatchPt s p smp stuck) := by
  delta State.modLatchPt
  extract_lets +onlyGivenNames y1
  extract_lets +onlyGivenNames y2
  have hy2 : Keeps T s0 y2 := by
    unfold y2
    refine keeps_foldl ?_ (fun a e ha => ?_)
    · exact hs
    · refine modInput_keeps ?_ (List.Subset.trans (by decide) hT)
      exact ha
  extract_lets +onlyGivenNames y3
  extract_lets +onlyGivenNames y4
  have hy4 : Keeps T s0 y4 := by
    unfold y4
    refine keeps_foldl ?_ (fun a e ha => ?_)
    · exact hy2
    · refine keeps_foldl ?_ (fun a e ha => ?_)
      · exact ha
      · refine modClip_keeps ?_ (List.Subset.trans (by decide) hT)
        exact ha
  refine keeps_ite ?_ ?_
  · exact hy4
  · refine metMod_keeps ?_ (List.Subset.trans (by decide) hT)
    refine metPtMod_keeps ?_ (List.Subset.trans (by decide) hT)
    exact hy4

theorem execModLatch_keeps {T : List Part} {s0 : State} {arg : Nat} {samples : List (List (List Int))} {stuck : Nat} {s : State} (hs : Keeps T s0 s)
    (hT : [.regs, .tbl, .items, .icu, .evr, .seq, .met] ⊆ T) :
    KeepsO T s0 (execModLatch arg samples stuck s) := by
  delta execModLatch
  refine keepsO_next ?_
  refine entry_keeps ?_ (fun x hx => ?_) (List.Subset.trans (by decide) hT)
  · exact hs
  · refine keeps_foldl ?_ (fun a e ha => ?_)
    · exact hx
    · refine modLatchPt_keeps ?_ (List.Subset.trans (by decide) hT)
      exact ha

theorem modSoftReset_keeps {T : List Part} {s0 : State} {s : State} (hs : Keeps T s0 s)
    (hT : [.met] ⊆ T) :
    Keeps T s0 (State.modSoftReset s) := by
  delta State.modSoftReset
  refine metMod_keeps ?_ (List.Subset.trans (by decide) hT)
  refine keeps_foldl ?_ (fun a e ha => ?_)
  · exact hs
  · refine metPtMod_keeps ?_ (List.Subset.trans (by decide) hT)
    exact ha

theorem metClassify_keeps {T : List Part} {s0 : State} {s : State} {idx : Nat} {p : Num} {q : Num} (hs : Keeps T s0 s)
    (hT : [.met] ⊆ T) :
    Keeps T s0 (State.metClassify s idx p q) := by
  delta State.metClassify
  extract_lets +onlyGivenNames y1
  extract_lets +onlyGivenNames y2
  extract_lets +onlyGivenNames y3
  have hy3 : Keeps T s0 y3 := by
    unfold y3
    refine metAdd_keeps ?_ (List.Subset.trans (by decide) hT)
    exact hs
  refine metAdd_keeps ?_ (List.Subset.trans (by decide) hT)
  exact hy3

theorem metJudge_keeps {T : List Part} {s0 : State} {s : State} {p : Nat} {vrms : List Num} {a2 : Num} {a3 : Num} {u0 : Num} {irms : Num} {nBad : Bool} (hs : Keeps T s0 s)
    (hT : [.regs, .tbl, .items, .icu, .evr, .met] ⊆ T) :
    Keeps T s0 (State.metJudge s p vrms a2 a3 u0 irms nBad) := by
  delta State.metJudge
  extract_lets +onlyGivenNames y1
  extract_lets +onlyGivenNames y2
  extract_lets +onlyGivenNames y3
  extract_lets +onlyGivenNames y4
  extract_lets +onlyGivenNames y5
  extract_lets +onlyGivenNames y6
  extract_lets +onlyGivenNames y7
  extract_lets +onlyGivenNames y8
  extract_lets +onlyGivenNames y9
  extract_lets +onlyGivenNames y10
  extract_lets +onlyGivenNames y11
  have hy11 : Keeps T s0 y11 := by
    unfold y11
    refine metPtMod_keeps ?_ (List.Subset.trans (by decide) hT)
    exact hs
  extract_lets +onlyGivenNames y12
  extract_lets +onlyGivenNames y13
  extract_lets +onlyGivenNames y14
  have hy14 : Keeps T s0 y14 := by
    unfold y14
    refine keeps_ite ?_ ?_
    · refine bump_keeps ?_ (List.Subset.trans (by decide) hT)
      refine raiseEv_keeps ?_ (List.Subset.trans (by decide) hT)
      refine setB_keeps ?_ (List.Subset.trans (by decide) hT)
      exact hy11
    · refine keeps_ite ?_ ?_
      · refine setB_keeps ?_ (List.Subset.trans (by decide) hT)
        exact hy11
      · exact hy11
  refine keeps_ite ?_ ?_
  · refine bump_keeps ?_ (List.Subset.trans (by decide) hT)
    refine raiseEv_keeps ?_ (List.Subset.trans (by decide) hT)
    refine setB_keeps ?_ (List.Subset.trans (by decide) hT)
    exact hy14
  · refine keeps_ite ?_ ?_
    · refine setB_keeps ?_ (List.Subset.trans (by decide) hT)
      exact hy14
    · exact hy14

theorem metResults_keeps {T : List Part} {s0 : State} {s : State} {p : Nat} {c : MetDue} (hs : Keeps T s0 s)
    (hT : [.regs, .tbl, .items, .icu, .evr, .met] ⊆ T) :
    Keeps T s0 (State.metResults s p c) := by
  delta State.metResults
  extract_lets +onlyGivenNames y1
  extract_lets +onlyGivenNames y2
  extract_lets +onlyGivenNames y3
  extract_lets +onlyGivenNames y4
  extract_lets +onlyGivenNames y5
  extract_lets +onlyGivenNames y6
  extract_lets +onlyGivenNames y7
  extract_lets +onlyGivenNames y8
  extract_lets +onlyGivenNames y9
  extract_lets +onlyGivenNames y10
  extract_lets +onlyGivenNames y11
  extract_lets +onlyGivenNames y12
  extract_lets +onlyGivenNames y13
  extract_lets +onlyGivenNames y14
  extract_lets +onlyGivenNames y15
  extract_lets +onlyGivenNames y16
  extract_lets +onlyGivenNames y17
  extract_lets +onlyGivenNames y18
  extract_lets +onlyGivenNames y19
  extract_lets +onlyGivenNames y20
  extract_lets +onlyGivenNames y21
  extract_lets +onlyGivenNames y22
  extract_lets +onlyGivenNames y23
  extract_lets +onlyGivenNames y24
  have hy24 : Keeps T s0 y24 := by
    unfold y24
    refine metWr_keeps ?_ (List.Subset.trans (by decide) hT)
    exact hs
  extract_lets +onlyGivenNames y25
  have hy25 : Keeps T s0 y25 := by
    unfold y25
    refine keeps_ite ?_ ?_
    · refine metWrs_keeps ?_ (List.Subset.trans (by decide) hT)
      exact hy24
    · exact hy24
  extract_lets +onlyGivenNames y26
  have hy26 : Keeps T s0 y26 := by
    unfold y26
    refine metWrs_keeps ?_ (List.Subset.trans (by decide) hT)
    exact hy25
  extract_lets +onlyGivenNames y27
  have hy27 : Keeps T s0 y27 := by
    unfold y27
    refine keeps_ite ?_ ?_
    · refine wr_keeps ?_ (List.Subset.trans (by decide) hT)
      refine wr_keeps ?_ (List.Subset.trans (by decide) hT)
      refine wr_keeps ?_ (List.Subset.trans (by decide) hT)
      exact hy26
    · exact hy26
  extract_lets +onlyGivenNames y28
  extract_lets +onlyGivenNames y29
  extract_lets +onlyGivenNames y30
  have hy30 : Keeps T s0 y30 := by
    unfold y30
    refine keeps_ite ?_ ?_
    · exact hy27
    · refine metAdd_keeps ?_ (List.Subset.trans (by decide) hT)
      refine keeps_foldl ?_ (fun a e ha => ?_)
      · exact hy27
      · refine metAdd_keeps ?_ (List.Subset.trans (by decide) hT)
        exact ha
  extract_lets +onlyGivenNames y31
  have hy31 : Keeps T s0 y31 := by
    unfold y31
    refine keeps_ite ?_ ?_
    · refine metJudge_keeps ?_ (List.Subset.trans (by decide) hT)
      exact hy30
    · exact hy30
  extract_lets +onlyGivenNames y32
  have hy32 : Keeps T s0 y32 := by
    unfold y32
    refine keeps_foldl ?_ (fun a e ha => ?_)
    · exact hy31
    · refine wr_keeps ?_ (List.Subset.trans (by decide) hT)
      exact ha
  refine metPtMod_keeps ?_ (List.Subset.trans (by decide) hT)
  exact hy32

theorem metSamples_keeps {T : List Part} {s0 : State} {s : State} {p : Nat} {smp : List (List Int)} {bad : Nat} (hs : Keeps T s0 s)
    (hT : [.regs, .met] ⊆ T) :
    Keeps T s0 (State.metSamples s p smp bad) := by
  delta State.metSamples
  extract_lets +onlyGivenNames y1
  extract_lets +onlyGivenNames y2
  extract_lets +onlyGivenNames y3
  extract_lets +onlyGivenNames y4
  extract_lets +onlyGivenNames y5
  extract_lets +onlyGivenNames y6
  extract_lets +onlyGivenNames y7
  have hy7 : Keeps T s0 y7 := by
    unfold y7
    refine keeps_foldl ?_ (fun a e ha => ?_)
    · exact hs
    · refine metClassify_keeps ?_ (List.Subset.trans (by decide) hT)
      exact ha
  extract_lets +onlyGivenNames y8
  extract_lets +onlyGivenNames y9
  have hy9 : Keeps T s0 y9 := by
    unfold y9
    refine keeps_ite ?_ ?_
    · refine metClassify_keeps ?_ (List.Subset.trans (by decide) hT)
      exact hy7
    · exact hy7
  extract_lets +onlyGivenNames y10
  extract_lets +onlyGivenNames y11
  extract_lets +onlyGivenNames y12
  extract_lets +onlyGivenNames y13
  extract_lets +onlyGivenNames y14
  extract_lets +onlyGivenNames y15
  have hy15 : Keeps T s0 y15 := by
    unfold y15
    refine metPtMod_keeps ?_ (List.Subset.trans (by decide) hT)
    exact hy9
  refine setB_keeps ?_ (List.Subset.trans (by decide) hT)
  exact hy15

theorem intOpen_keeps {T : List Part} {s0 : State} {s : State} {k : Nat} {no : Nat} (hs : Keeps T s0 s)
    (hT : [.regs, .met] ⊆ T) :
    Keeps T s0 (State.intOpen s k no) := by
  delta State.intOpen
  extract_lets +onlyGivenNames y1
  extract_lets +onlyGivenNames y2
  extract_lets +onlyGivenNames y3
  extract_lets +onlyGivenNames y4
  refine wr_keeps ?_ (List.Subset.trans (by decide) hT)
  refine metMod_keeps ?_ (List.Subset.trans (by decide) hT)
  exact hs

theorem hmetMod_keeps {T : List Part} {s0 : State} {s : State} {t : Nat} {f : HmetPt → HmetPt} (hs : Keeps T s0 s)
    (hT : [.met] ⊆ T) :
    Keeps T s0 (State.hmetMod s t f) := by
  delta State.hmetMod
  refine metMod_keeps ?_ (List.Subset.trans (by decide) hT)
  exact hs

theorem intRecord_keeps {T : List Part} {s0 : State} {s : State} {k : Nat} {i : MetInt} (hs : Keeps T s0 s)
    (hT : [.met] ⊆ T) :
    Keeps T s0 (State.intRecord s k i) := by
  delta State.intRecord
  extract_lets +onlyGivenNames y1
  extract_lets +onlyGivenNames y2
  extract_lets +onlyGivenNames y3
  extract_lets +onlyGivenNames y4
  extract_lets +onlyGivenNames y5
  extract_lets +onlyGivenNames y6
  have hy6 : Keeps T s0 y6 := by
    unfold y6
    refine metWrs_keeps ?_ (List.Subset.trans (by decide) hT)
    exact hs
  refine keeps_ite ?_ ?_
  · exact hy6
  · refine hmetMod_keeps ?_ (List.Subset.trans (by decide) hT)
    refine metWr_keeps ?_ (List.Subset.trans (by decide) hT)
    exact hy6

theorem intMod_keeps {T : List Part} {s0 : State} {s : State} {k : Nat} {f : MetInt → MetInt} (hs : Keeps T s0 s)
    (hT : [.met] ⊆ T) :
    Keeps T s0 (State.intMod s k f) := by
  delta State.intMod
  refine metMod_keeps ?_ (List.Subset.trans (by decide) hT)
  exact hs

theorem intClose_keeps {T : List Part} {s0 : State} {s : State} {k : Nat} (hs : Keeps T s0 s)
    (hT : [.regs, .met] ⊆ T) :
    Keeps T s0 (State.intClose s k) := by
  delta State.intClose
  split
  · refine intOpen_keeps ?_ (List.Subset.trans (by decide) hT)
    exact hs
  · refine keeps_ite ?_ ?_
    · refine intOpen_keeps ?_ (List.Subset.trans (by decide) hT)
      refine intRecord_keeps ?_ (List.Subset.trans (by decide) hT)
      exact hs
    · refine keeps_ite ?_ ?_
      · refine metMod_keeps ?_ (List.Subset.trans (by decide) hT)
        refine intMod_keeps ?_ (List.Subset.trans (by decide) hT)
        exact hs
      · exact hs

theorem metStep_keeps {T : List Part} {s0 : State} {s : State} {a : Int} {b : Int} (hs : Keeps T s0 s)
    (hT : [.met] ⊆ T) :
    Keeps T s0 (State.metStep s a b) := by
  delta State.metStep
  extract_lets +onlyGivenNames y1
  extract_lets +onlyGivenNames y2
  refine metMod_keeps ?_ (List.Subset.trans (by decide) hT)
  exact hs

theorem emetPublish_keeps {T : List Part} {s0 : State} {s : State} {p : Nat} (hs : Keeps T s0 s)
    (hT : [.regs, .tbl, .mbx, .items, .icu, .evr, .dio, .dev] ⊆ T) :
    Keeps T s0 (State.emetPublish s p) := by
  delta State.emetPublish
  extract_lets +onlyGivenNames y1
  extract_lets +onlyGivenNames y2
  refine fwPuts_keeps ?_ (List.Subset.trans (by decide) hT)
  exact hs

theorem emetClose_keeps {T : List Part} {s0 : State} {s : State} {p : Nat} (hs : Keeps T s0 s)
    (hT : [.regs, .tbl, .mbx, .items, .icu, .evr, .dio, .met, .dev] ⊆ T) :
    Keeps T s0 (State.emetClose s p) := by
  delta State.emetClose
  refine keeps_ite ?_ ?_
  · exact hs
  · extract_lets +onlyGivenNames y1
    extract_lets +onlyGivenNames y2
    have hy2 : Keeps T s0 y2 := by
      unfold y2
      split
      · exact hs
      · refine metResults_keeps ?_ (List.Subset.trans (by decide) hT)
        exact hs
    extract_lets +onlyGivenNames y3
    have hy3 : Keeps T s0 y3 := by
      unfold y3
      refine intClose_keeps ?_ (List.Subset.trans (by decide) hT)
      exact hy2
    extract_lets +onlyGivenNames y4
    have hy4 : Keeps T s0 y4 := by
      unfold y4
      split
      · refine setB_keeps ?_ (List.Subset.trans (by decide) hT)
        exact hy3
      · refine metSamples_keeps ?_ (List.Subset.trans (by decide) hT)
        exact hy3
    refine emetPublish_keeps ?_ (List.Subset.trans (by decide) hT)
    exact hy4

theorem execEmetClose_keeps {T : List Part} {s0 : State} {arg : Nat} {s : State} (hs : Keeps T s0 s)
    (hT : [.regs, .tbl, .mbx, .items, .icu, .evr, .seq, .dio, .met, .dev] ⊆ T) :
    KeepsO T s0 (execEmetClose arg s) := by
  delta execEmetClose
  refine keepsO_next ?_
  refine entry_keeps ?_ (fun x hx => ?_) (List.Subset.trans (by decide) hT)
  · exact hs
  · split
    · exact hx
    · refine emetClose_keeps ?_ (List.Subset.trans (by decide) hT)
      exact hx

theorem hmetPublish_keeps {T : List Part} {s0 : State} {s : State} {t : Nat} (hs : Keeps T s0 s)
    (hT : [.regs, .tbl, .mbx, .items, .icu, .evr, .dio, .dev] ⊆ T) :
    Keeps T s0 (State.hmetPublish s t) := by
  delta State.hmetPublish
  extract_lets +onlyGivenNames y1
  refine fwPuts_keeps ?_ (List.Subset.trans (by decide) hT)
  exact hs

theorem hmetStatus_keeps {T : List Part} {s0 : State} {s : State} {t : Nat} {fault : Bool} {power : Num} {flow : Num} (hs : Keeps T s0 s)
    (hT : [.regs, .met] ⊆ T) :
    Keeps T s0 (State.hmetStatus s t fault power flow) := by
  delta State.hmetStatus
  extract_lets +onlyGivenNames y1
  extract_lets +onlyGivenNames y2
  extract_lets +onlyGivenNames y3
  extract_lets +onlyGivenNames y4
  have hy4 : Keeps T s0 y4 := by
    unfold y4
    refine metWr_keeps ?_ (List.Subset.trans (by decide) hT)
    refine metWr_keeps ?_ (List.Subset.trans (by decide) hT)
    exact hs
  refine setB_keeps ?_ (List.Subset.trans (by decide) hT)
  refine setB_keeps ?_ (List.Subset.trans (by decide) hT)
  refine wr_keeps ?_ (List.Subset.trans (by decide) hT)
  refine wr_keeps ?_ (List.Subset.trans (by decide) hT)
  exact hy4

theorem hmetAccumulate_keeps {T : List Part} {s0 : State} {s : State} {t : Nat} {dt8 : Nat} {v : Num} {q : Num} {tf : Num} {tr : Num} {p : Num} (hs : Keeps T s0 s)
    (hT : [.regs, .tbl, .items, .icu, .evr, .met] ⊆ T) :
    Keeps T s0 (State.hmetAccumulate s t dt8 v q tf tr p) := by
  delta State.hmetAccumulate
  extract_lets +onlyGivenNames y1
  extract_lets +onlyGivenNames y2
  extract_lets +onlyGivenNames y3
  extract_lets +onlyGivenNames y4
  extract_lets +onlyGivenNames y5
  extract_lets +onlyGivenNames y6
  extract_lets +onlyGivenNames y7
  extract_lets +onlyGivenNames y8
  extract_lets +onlyGivenNames y9
  extract_lets +onlyGivenNames y10
  have hy10 : Keeps T s0 y10 := by
    unfold y10
    refine keeps_ite ?_ ?_
    · exact hs
    · refine metAdd_keeps ?_ (List.Subset.trans (by decide) hT)
      exact hs
  extract_lets +onlyGivenNames y11
  have hy11 : Keeps T s0 y11 := by
    unfold y11
    refine keeps_ite ?_ ?_
    · refine metAdd_keeps ?_ (List.Subset.trans (by decide) hT)
      exact hy10
    · exact hy10
  extract_lets +onlyGivenNames y12
  extract_lets +onlyGivenNames y13
  have hy13 : Keeps T s0 y13 := by
    unfold y13
    refine intMod_keeps ?_ (List.Subset.trans (by decide) hT)
    refine metWr_keeps ?_ (List.Subset.trans (by decide) hT)
    exact hy11
  extract_lets +onlyGivenNames y14
  have hy14 : Keeps T s0 y14 := by
    unfold y14
    refine hmetMod_keeps ?_ (List.Subset.trans (by decide) hT)
    exact hy13
  extract_lets +onlyGivenNames y15
  have hy15 : Keeps T s0 y15 := by
    unfold y15
    refine keeps_ite ?_ ?_
    · refine keeps_ite ?_ ?_
      · exact hy14
      · refine raiseEv_keeps ?_ (List.Subset.trans (by decide) hT)
        exact hy14
    · exact hy11
  extract_lets +onlyGivenNames y16
  refine hmetStatus_keeps ?_ (List.Subset.trans (by decide) hT)
  refine hmetMod_keeps ?_ (List.Subset.trans (by decide) hT)
  exact hy15

theorem hmetFault_keeps {T : List Part} {s0 : State} {s : State} {t : Nat} {dt8 : Nat} (hs : Keeps T s0 s)
    (hT : [.regs, .tbl, .items, .icu, .evr, .met] ⊆ T) :
    Keeps T s0 (State.hmetFault s t dt8) := by
  delta State.hmetFault
  extract_lets +onlyGivenNames y1
  extract_lets +onlyGivenNames y2
  extract_lets +onlyGivenNames y3
  have hy3 : Keeps T s0 y3 := by
    unfold y3
    refine metWr_keeps ?_ (List.Subset.trans (by decide) hT)
    refine hmetMod_keeps ?_ (List.Subset.trans (by decide) hT)
    exact hs
  extract_lets +onlyGivenNames y4
  have hy4 : Keeps T s0 y4 := by
    unfold y4
    refine keeps_ite ?_ ?_
    · exact hy3
    · refine raiseEv_keeps ?_ (List.Subset.trans (by decide) hT)
      refine bump_keeps ?_ (List.Subset.trans (by decide) hT)
      exact hy3
  refine hmetStatus_keeps ?_ (List.Subset.trans (by decide) hT)
  exact hy4

theorem hmetClose_keeps {T : List Part} {s0 : State} {s : State} {t : Nat} {ns : Nat} (hs : Keeps T s0 s)
    (hT : [.regs, .tbl, .mbx, .items, .icu, .evr, .dio, .met, .dev] ⊆ T) :
    Keeps T s0 (State.hmetClose s t ns) := by
  delta State.hmetClose
  refine keeps_ite ?_ ?_
  · exact hs
  · extract_lets +onlyGivenNames y1
    extract_lets +onlyGivenNames y2
    extract_lets +onlyGivenNames y3
    extract_lets +onlyGivenNames y4
    have hy4 : Keeps T s0 y4 := by
      unfold y4
      refine intClose_keeps ?_ (List.Subset.trans (by decide) hT)
      exact hs
    extract_lets +onlyGivenNames y5
    extract_lets +onlyGivenNames y6
    have hy6 : Keeps T s0 y6 := by
      unfold y6
      split
      · refine keeps_ite ?_ ?_
        · refine hmetAccumulate_keeps ?_ (List.Subset.trans (by decide) hT)
          exact hy4
        · refine hmetFault_keeps ?_ (List.Subset.trans (by decide) hT)
          exact hy4
      · refine hmetFault_keeps ?_ (List.Subset.trans (by decide) hT)
        exact hy4
    refine hmetPublish_keeps ?_ (List.Subset.trans (by decide) hT)
    refine hmetMod_keeps ?_ (List.Subset.trans (by decide) hT)
    exact hy6

theorem execHmetClose_keeps {T : List Part} {s0 : State} {arg : Nat} {ns : Nat} {s : State} (hs : Keeps T s0 s)
    (hT : [.regs, .tbl, .mbx, .items, .icu, .evr, .seq, .dio, .met, .dev] ⊆ T) :
    KeepsO T s0 (execHmetClose arg ns s) := by
  delta execHmetClose
  refine keepsO_next ?_
  refine entry_keeps ?_ (fun x hx => ?_) (List.Subset.trans (by decide) hT)
  · exact hs
  · split
    · exact hx
    · refine hmetClose_keeps ?_ (List.Subset.trans (by decide) hT)
      exact hx

theorem metCloseWins_keeps {T : List Part} {s0 : State} {s : State} {late : Bool} {short : Bool} (hs : Keeps T s0 s)
    (hT : [.met] ⊆ T) :
    Keeps T s0 (State.metCloseWins s late short) := by
  delta State.metCloseWins
  refine keeps_foldl ?_ (fun a e ha => ?_)
  · exact hs
  · refine metPtMod_keeps ?_ (List.Subset.trans (by decide) hT)
    exact ha

theorem metWindows_keeps {T : List Part} {s0 : State} {s : State} {skips : List (Nat × Nat)} (hs : Keeps T s0 s)
    (hT : [.met] ⊆ T) :
    Keeps T s0 (State.metWindows s skips) := by
  delta State.metWindows
  extract_lets +onlyGivenNames y1
  extract_lets +onlyGivenNames y2
  refine keeps_ite ?_ ?_
  · refine metCloseWins_keeps ?_ (List.Subset.trans (by decide) hT)
    exact hs
  · exact hs

theorem metShort_keeps {T : List Part} {s0 : State} {s : State} (hs : Keeps T s0 s)
    (hT : [.met] ⊆ T) :
    Keeps T s0 (State.metShort s) := by
  delta State.metShort
  refine metCloseWins_keeps ?_ (List.Subset.trans (by decide) hT)
  exact hs

theorem metFrameEnd_keeps {T : List Part} {s0 : State} {s : State} (hs : Keeps T s0 s)
    (hT : [.regs, .tbl, .items, .icu, .evr, .met] ⊆ T) :
    Keeps T s0 (State.metFrameEnd s) := by
  delta State.metFrameEnd
  extract_lets +onlyGivenNames y1
  have hy1 : Keeps T s0 y1 := by
    unfold y1
    refine keeps_foldl ?_ (fun a e ha => ?_)
    · exact hs
    · refine keeps_foldl ?_ (fun a e ha => ?_)
      · exact ha
      · refine modInput_keeps ?_ (List.Subset.trans (by decide) hT)
        exact ha
  extract_lets +onlyGivenNames y2
  have hy2 : Keeps T s0 y2 := by
    unfold y2
    refine keeps_foldl ?_ (fun a e ha => ?_)
    · exact hy1
    · extract_lets +onlyGivenNames y3
      extract_lets +onlyGivenNames y4
      have hy4 : Keeps T s0 y4 := by
        unfold y4
        refine metPtMod_keeps ?_ (List.Subset.trans (by decide) hT)
        exact ha
      refine keeps_ite ?_ ?_
      · refine intMod_keeps ?_ (List.Subset.trans (by decide) hT)
        refine bump_keeps ?_ (List.Subset.trans (by decide) hT)
        exact hy4
      · exact hy4
  refine metMod_keeps ?_ (List.Subset.trans (by decide) hT)
  exact hy2

theorem metTick_keeps {T : List Part} {s0 : State} {s : State} {skips : List (Nat × Nat)} (hs : Keeps T s0 s)
    (hT : [.tbl, .met] ⊆ T) :
    Keeps T s0 (State.metTick s skips) := by
  delta State.metTick
  extract_lets +onlyGivenNames y1
  have hy1 : Keeps T s0 y1 := by
    unfold y1
    refine metWindows_keeps ?_ (List.Subset.trans (by decide) hT)
    refine metShow_keeps ?_ (List.Subset.trans (by decide) hT)
    exact hs
  extract_lets +onlyGivenNames y2
  refine keeps_ite ?_ ?_
  · refine metMod_keeps ?_ (List.Subset.trans (by decide) hT)
    exact hy1
  · exact hy1

theorem execMeterSave_keeps {T : List Part} {s0 : State} {s : State} (hs : Keeps T s0 s)
    (hT : [.regs, .vis, .met, .metNv] ⊆ T) :
    KeepsO T s0 (execMeterSave s) := by
  delta execMeterSave
  refine keepsO_next ?_
  refine andShown_keeps ?_ ?_ (List.Subset.trans (by decide) hT)
  · exact hs
  · refine keeps_ite ?_ ?_
    · exact hs
    · extract_lets +onlyGivenNames y1
      extract_lets +onlyGivenNames y2
      have hy2 : Keeps T s0 y2 := by
        unfold y2
        refine metMod_keeps ?_ (List.Subset.trans (by decide) hT)
        exact hs
      refine setB_keeps ?_ (List.Subset.trans (by decide) hT)
      refine metNvMod_keeps ?_ (List.Subset.trans (by decide) hT)
      exact hy2

theorem execMeterSaveVerify_keeps {T : List Part} {s0 : State} {ok : Bool} {s : State} (hs : Keeps T s0 s)
    (hT : [.regs, .tbl, .items, .icu, .evr, .met, .metNv] ⊆ T) :
    KeepsO T s0 (execMeterSaveVerify ok s) := by
  delta execMeterSaveVerify
  refine keepsO_next ?_
  split
  · exact hs
  · extract_lets +onlyGivenNames y1
    have hy1 : Keeps T s0 y1 := by
      unfold y1
      refine setB_keeps ?_ (List.Subset.trans (by decide) hT)
      refine metMod_keeps ?_ (List.Subset.trans (by decide) hT)
      exact hs
    refine keeps_ite ?_ ?_
    · refine metNvMod_keeps ?_ (List.Subset.trans (by decide) hT)
      refine wr_keeps ?_ (List.Subset.trans (by decide) hT)
      exact hy1
    · refine raiseEv_keeps ?_ (List.Subset.trans (by decide) hT)
      refine bump_keeps ?_ (List.Subset.trans (by decide) hT)
      exact hy1

theorem restoreAck_keeps {T : List Part} {s0 : State} {s : State} (hs : Keeps T s0 s)
    (hT : [.regs, .met] ⊆ T) :
    Keeps T s0 (restoreAck s) := by
  delta restoreAck
  refine setB_keeps ?_ (List.Subset.trans (by decide) hT)
  refine metMod_keeps ?_ (List.Subset.trans (by decide) hT)
  exact hs

theorem execRestoreAck_keeps {T : List Part} {s0 : State} {s : State} (hs : Keeps T s0 s)
    (hT : [.regs, .met] ⊆ T) :
    KeepsO T s0 (execRestoreAck s) := by
  delta execRestoreAck
  refine keepsO_next ?_
  refine restoreAck_keeps ?_ (List.Subset.trans (by decide) hT)
  exact hs

theorem metRestore_keeps {T : List Part} {s0 : State} {s : State} (hs : Keeps T s0 s)
    (hT : [.regs, .tbl, .items, .icu, .evr, .met, .metNv] ⊆ T) :
    Keeps T s0 (State.metRestore s) := by
  delta State.metRestore
  extract_lets +onlyGivenNames n
  extract_lets +onlyGivenNames older
  extract_lets +onlyGivenNames z x0
  have h0 : Keeps T s0 x0 := by
    refine metNvMod_keeps ?_ (List.Subset.trans (by decide) hT)
    exact metMod_keeps hs (List.Subset.trans (by decide) hT)
  extract_lets +onlyGivenNames x1
  have h1 : Keeps T s0 x1 := tkeep_keeps h0 (List.Subset.trans (by decide) hT)
  extract_lets +onlyGivenNames put
  have hput : ∀ a m, Keeps T s0 a → Keeps T s0 (put a m) := fun a m h => keeps_tblPut m h (List.Subset.trans (by decide) hT)
  clear_value put x1 n
  extract_lets +onlyGivenNames x2
  have h2 : Keeps T s0 x2 := by
    unfold x2
    split
    · exact setB_keeps (hput _ _ h1) (List.Subset.trans (by decide) hT)
    · exact h1
  clear_value x2
  split
  · refine setF_keeps ?_ (List.Subset.trans (by decide) hT)
    refine wr_keeps ?_ (List.Subset.trans (by decide) hT)
    refine metMod_keeps ?_ (List.Subset.trans (by decide) hT)
    exact hput _ _ h2
  · refine raiseEv_keeps ?_ (List.Subset.trans (by decide) hT)
    refine setB_keeps ?_ (List.Subset.trans (by decide) hT)
    refine metMod_keeps ?_ (List.Subset.trans (by decide) hT)
    exact keeps_foldl h2 (fun _ _ h => tset_keeps h (List.Subset.trans (by decide) hT))

theorem modClkLost_keeps {T : List Part} {s0 : State} {s : State} (hs : Keeps T s0 s)
    (hT : [.regs, .tbl, .items, .icu, .evr, .met] ⊆ T) :
    Keeps T s0 (State.modClkLost s) := by
  delta State.modClkLost
  refine raiseEv_keeps ?_ (List.Subset.trans (by decide) hT)
  refine metMod_keeps ?_ (List.Subset.trans (by decide) hT)
  refine setB_keeps ?_ (List.Subset.trans (by decide) hT)
  exact hs

theorem modClkBack_keeps {T : List Part} {s0 : State} {s : State} (hs : Keeps T s0 s)
    (hT : [.regs] ⊆ T) :
    Keeps T s0 (State.modClkBack s) := by
  delta State.modClkBack
  refine setB_keeps ?_ (List.Subset.trans (by decide) hT)
  exact hs

end Sys2Proof.Machine
end

