-- ==== Sys2Proof/Laws/KeepModel.lean ====
section
/-! SUPPORT. What each operation of Machine/Model.lean keeps: the canonical form, the queue, and the parts it does not name. -/

namespace Sys2Proof.Machine

theorem modelMod_keeps {T : List Part} {s0 : State} {s : State} {f : ModelSt → ModelSt} (hs : Keeps T s0 s)
    (hT : [.model] ⊆ T) :
    Keeps T s0 (State.modelMod s f) := by
  delta State.modelMod
  refine keeps_model ?_ (List.Subset.trans (by decide) hT)
  exact hs

theorem keepIn_keeps {T : List Part} {s0 : State} {s : State} {key : Nat} {v : Option Word} (hs : Keeps T s0 s)
    (hT : [.model] ⊆ T) :
    Keeps T s0 (State.keepIn s key v) := by
  delta State.keepIn
  split
  · exact hs
  · refine modelMod_keeps ?_ (List.Subset.trans (by decide) hT)
    exact hs

theorem readInputs_keeps {T : List Part} {s0 : State} {s : State} {c : Nat} (hs : Keeps T s0 s)
    (hT : [.model] ⊆ T) :
    Keeps T s0 (State.readInputs s c) := by
  delta State.readInputs
  extract_lets +onlyGivenNames y1
  have hy1 : Keeps T s0 y1 := by
    unfold y1
    refine keepIn_keeps ?_ (List.Subset.trans (by decide) hT)
    exact hs
  extract_lets +onlyGivenNames y2
  have hy2 : Keeps T s0 y2 := by
    unfold y2
    refine keeps_foldl ?_ (fun a e ha => ?_)
    · exact hy1
    · refine keepIn_keeps ?_ (List.Subset.trans (by decide) hT)
      exact ha
  extract_lets +onlyGivenNames y3
  have hy3 : Keeps T s0 y3 := by
    unfold y3
    refine keeps_foldl ?_ (fun a e ha => ?_)
    · exact hy2
    · refine keepIn_keeps ?_ (List.Subset.trans (by decide) hT)
      exact ha
  extract_lets +onlyGivenNames y4
  have hy4 : Keeps T s0 y4 := by
    unfold y4
    refine keeps_foldl ?_ (fun a e ha => ?_)
    · exact hy3
    · refine keepIn_keeps ?_ (List.Subset.trans (by decide) hT)
      refine keepIn_keeps ?_ (List.Subset.trans (by decide) hT)
      exact ha
  extract_lets +onlyGivenNames y5
  have hy5 : Keeps T s0 y5 := by
    unfold y5
    refine keeps_foldl ?_ (fun a e ha => ?_)
    · exact hy4
    · refine keepIn_keeps ?_ (List.Subset.trans (by decide) hT)
      refine keepIn_keeps ?_ (List.Subset.trans (by decide) hT)
      refine keepIn_keeps ?_ (List.Subset.trans (by decide) hT)
      exact ha
  refine keeps_foldl ?_ (fun a e ha => ?_)
  · exact hy5
  · refine keepIn_keeps ?_ (List.Subset.trans (by decide) hT)
    refine keepIn_keeps ?_ (List.Subset.trans (by decide) hT)
    exact ha

theorem putResults_keeps {T : List Part} {s0 : State} {s : State} {c : Nat} (hs : Keeps T s0 s)
    (hT : [.tbl] ⊆ T) :
    Keeps T s0 (State.putResults s c) := by
  delta State.putResults
  extract_lets +onlyGivenNames y1
  have hy1 : Keeps T s0 y1 := by
    unfold y1
    refine keeps_foldl ?_ (fun a e ha => ?_)
    · exact hs
    · extract_lets +onlyGivenNames y2
      refine tset_keeps ?_ (List.Subset.trans (by decide) hT)
      refine twr_keeps ?_ (List.Subset.trans (by decide) hT)
      refine twr_keeps ?_ (List.Subset.trans (by decide) hT)
      refine twr_keeps ?_ (List.Subset.trans (by decide) hT)
      exact ha
  extract_lets +onlyGivenNames y3
  have hy3 : Keeps T s0 y3 := by
    unfold y3
    refine keeps_foldl ?_ (fun a e ha => ?_)
    · exact hy1
    · refine twr_keeps ?_ (List.Subset.trans (by decide) hT)
      refine twr_keeps ?_ (List.Subset.trans (by decide) hT)
      refine twr_keeps ?_ (List.Subset.trans (by decide) hT)
      exact ha
  refine keeps_foldl ?_ (fun a e ha => ?_)
  · exact hy3
  · extract_lets +onlyGivenNames y4
    extract_lets +onlyGivenNames y5
    refine tset_keeps ?_ (List.Subset.trans (by decide) hT)
    refine twr_keeps ?_ (List.Subset.trans (by decide) hT)
    refine twr_keeps ?_ (List.Subset.trans (by decide) hT)
    refine twr_keeps ?_ (List.Subset.trans (by decide) hT)
    exact ha

theorem critDp_keeps {T : List Part} {s0 : State} {s : State} {c : Nat} (hs : Keeps T s0 s)
    (hT : [.regs, .tbl, .mbx, .items, .icu, .evr, .dio, .dev] ⊆ T) :
    Keeps T s0 (State.critDp s c) := by
  delta State.critDp
  split
  · refine rolePuts_keeps ?_ (List.Subset.trans (by decide) hT)
    refine setF_keeps ?_ (List.Subset.trans (by decide) hT)
    exact hs
  · refine rolePuts_keeps ?_ (List.Subset.trans (by decide) hT)
    refine setF_keeps ?_ (List.Subset.trans (by decide) hT)
    refine setF_keeps ?_ (List.Subset.trans (by decide) hT)
    refine wr_keeps ?_ (List.Subset.trans (by decide) hT)
    exact hs

theorem nodeEst_keeps {T : List Part} {s0 : State} {s : State} {n : Nat} (hs : Keeps T s0 s)
    (hT : [.regs, .tbl, .mbx, .items, .icu, .evr, .dio, .dev] ⊆ T) :
    Keeps T s0 (State.nodeEst s n) := by
  delta State.nodeEst
  refine keeps_ite ?_ ?_
  · extract_lets +onlyGivenNames y1
    extract_lets +onlyGivenNames y2
    refine rolePuts_keeps ?_ (List.Subset.trans (by decide) hT)
    exact hs
  · exact hs

theorem nodeBias_keeps {T : List Part} {s0 : State} {s : State} {n : Nat} (hs : Keeps T s0 s)
    (hT : [.regs, .tbl, .mbx, .items, .icu, .evr, .model, .dio, .dev] ⊆ T) :
    Keeps T s0 (State.nodeBias s n) := by
  delta State.nodeBias
  extract_lets +onlyGivenNames y1
  have hy1 : Keeps T s0 y1 := by
    unfold y1
    refine keeps_foldl ?_ (fun a e ha => ?_)
    · exact hs
    · extract_lets +onlyGivenNames y2
      refine keeps_ite ?_ ?_
      · extract_lets +onlyGivenNames y3
        extract_lets +onlyGivenNames y4
        extract_lets +onlyGivenNames y5
        refine tset_keeps ?_ (List.Subset.trans (by decide) hT)
        refine twr_keeps ?_ (List.Subset.trans (by decide) hT)
        refine modelMod_keeps ?_ (List.Subset.trans (by decide) hT)
        exact ha
      · refine keeps_ite ?_ ?_
        · refine tset_keeps ?_ (List.Subset.trans (by decide) hT)
          exact ha
        · exact ha
  refine nodeEst_keeps ?_ (List.Subset.trans (by decide) hT)
  exact hy1

theorem estimates_keeps {T : List Part} {s0 : State} {s : State} {c : Nat} (hs : Keeps T s0 s)
    (hT : [.regs, .tbl, .mbx, .items, .icu, .evr, .model, .dio, .dev] ⊆ T) :
    Keeps T s0 (State.estimates s c) := by
  delta State.estimates
  extract_lets +onlyGivenNames y1
  have hy1 : Keeps T s0 y1 := by
    unfold y1
    refine keeps_foldl ?_ (fun a e ha => ?_)
    · exact hs
    · refine nodeBias_keeps ?_ (List.Subset.trans (by decide) hT)
      exact ha
  extract_lets +onlyGivenNames y2
  extract_lets +onlyGivenNames y3
  refine wr_keeps ?_ (List.Subset.trans (by decide) hT)
  exact hy1

theorem addResidual_keeps {T : List Part} {s0 : State} {s : State} {path : List Nat} {drop : Nat → Num} {r : Num} {thermal : Bool} (hs : Keeps T s0 s)
    (hT : [.model] ⊆ T) :
    Keeps T s0 (State.addResidual s path drop r thermal) := by
  delta State.addResidual
  extract_lets +onlyGivenNames y1
  refine keeps_foldl ?_ (fun a e ha => ?_)
  · exact hs
  · extract_lets +onlyGivenNames y2
    extract_lets +onlyGivenNames y3
    extract_lets +onlyGivenNames y4
    refine modelMod_keeps ?_ (List.Subset.trans (by decide) hT)
    exact ha

theorem collectNode_keeps {T : List Part} {s0 : State} {s : State} {c : Nat} {n : Nat} (hs : Keeps T s0 s)
    (hT : [.model] ⊆ T) :
    Keeps T s0 (State.collectNode s c n) := by
  delta State.collectNode
  refine keeps_ite ?_ ?_
  · exact hs
  · extract_lets +onlyGivenNames y1
    extract_lets +onlyGivenNames y2
    extract_lets +onlyGivenNames y3
    extract_lets +onlyGivenNames y4
    extract_lets +onlyGivenNames y5
    have hy5 : Keeps T s0 y5 := by
      unfold y5
      refine keeps_ite ?_ ?_
      · refine addResidual_keeps ?_ (List.Subset.trans (by decide) hT)
        exact hs
      · exact hs
    extract_lets +onlyGivenNames y6
    have hy6 : Keeps T s0 y6 := by
      unfold y6
      refine keeps_ite ?_ ?_
      · refine addResidual_keeps ?_ (List.Subset.trans (by decide) hT)
        exact hy5
      · exact hy5
    refine keepIn_keeps ?_ (List.Subset.trans (by decide) hT)
    exact hy6

theorem collectJunction_keeps {T : List Part} {s0 : State} {s : State} {c : Nat} {j : Nat} (hs : Keeps T s0 s)
    (hT : [.model] ⊆ T) :
    Keeps T s0 (State.collectJunction s c j) := by
  delta State.collectJunction
  split
  · exact hs
  · extract_lets +onlyGivenNames y1
    refine addResidual_keeps ?_ (List.Subset.trans (by decide) hT)
    exact hs

theorem collect_keeps {T : List Part} {s0 : State} {s : State} {c : Nat} (hs : Keeps T s0 s)
    (hT : [.model] ⊆ T) :
    Keeps T s0 (State.collect s c) := by
  delta State.collect
  refine keeps_ite ?_ ?_
  · exact hs
  · extract_lets +onlyGivenNames y1
    have hy1 : Keeps T s0 y1 := by
      unfold y1
      refine keeps_foldl ?_ (fun a e ha => ?_)
      · exact hs
      · refine collectNode_keeps ?_ (List.Subset.trans (by decide) hT)
        exact ha
    refine keeps_foldl ?_ (fun a e ha => ?_)
    · exact hy1
    · refine collectJunction_keeps ?_ (List.Subset.trans (by decide) hT)
      exact ha

theorem adaptSeg_keeps {T : List Part} {s0 : State} {s : State} {i : Nat} (hs : Keeps T s0 s)
    (hT : [.regs, .tbl, .items, .icu, .evr, .model] ⊆ T) :
    Keeps T s0 (State.adaptSeg s i) := by
  delta State.adaptSeg
  extract_lets +onlyGivenNames y1
  extract_lets +onlyGivenNames y2
  extract_lets +onlyGivenNames y3
  extract_lets +onlyGivenNames y4
  have hy4 : Keeps T s0 y4 := by
    unfold y4
    refine tset_keeps ?_ (List.Subset.trans (by decide) hT)
    refine tset_keeps ?_ (List.Subset.trans (by decide) hT)
    exact hs
  extract_lets +onlyGivenNames y5
  have hy5 : Keeps T s0 y5 := by
    unfold y5
    refine modelMod_keeps ?_ (List.Subset.trans (by decide) hT)
    exact hy4
  refine keeps_ite ?_ ?_
  · refine raiseEv_keeps ?_ (List.Subset.trans (by decide) hT)
    exact hy5
  · exact hy5

theorem dropSums_keeps {T : List Part} {s0 : State} {s : State} {c : Nat} (hs : Keeps T s0 s)
    (hT : [.model] ⊆ T) :
    Keeps T s0 (State.dropSums s c) := by
  delta State.dropSums
  extract_lets +onlyGivenNames y1
  refine modelMod_keeps ?_ (List.Subset.trans (by decide) hT)
  exact hs

theorem hourly_keeps {T : List Part} {s0 : State} {s : State} {c : Nat} (hs : Keeps T s0 s)
    (hT : [.regs, .tbl, .items, .icu, .evr, .model] ⊆ T) :
    Keeps T s0 (State.hourly s c) := by
  delta State.hourly
  extract_lets +onlyGivenNames y1
  refine keeps_ite ?_ ?_
  · exact hs
  · extract_lets +onlyGivenNames y2
    have hy2 : Keeps T s0 y2 := by
      unfold y2
      refine modelMod_keeps ?_ (List.Subset.trans (by decide) hT)
      exact hs
    refine keeps_ite ?_ ?_
    · refine dropSums_keeps ?_ (List.Subset.trans (by decide) hT)
      refine wr_keeps ?_ (List.Subset.trans (by decide) hT)
      refine keeps_foldl ?_ (fun a e ha => ?_)
      · exact hy2
      · refine adaptSeg_keeps ?_ (List.Subset.trans (by decide) hT)
        exact ha
    · refine dropSums_keeps ?_ (List.Subset.trans (by decide) hT)
      exact hy2

theorem modelWin_keeps {T : List Part} {s0 : State} {s : State} (hs : Keeps T s0 s)
    (hT : [.regs] ⊆ T) :
    Keeps T s0 (State.modelWin s) := by
  delta State.modelWin
  refine setF_keeps ?_ (List.Subset.trans (by decide) hT)
  exact hs

theorem modelTableWrite_keeps {T : List Part} {s0 : State} {tid : Nat} {idx : Nat} {ws : List Word} {s : State} (hs : Keeps T s0 s)
    (hT : [.regs, .tbl, .items, .icu, .evr] ⊆ T) :
    Keeps T s0 (modelTableWrite tid idx ws s).1 := by
  delta modelTableWrite
  split
  · refine keeps_fst ?_
    exact hs
  · refine keeps_iteP ?_ ?_
    · refine keeps_fst ?_
      exact hs
    · refine keeps_fst ?_
      refine bankWritten_keeps ?_ (List.Subset.trans (by decide) hT)
      refine writeRecord_keeps ?_ (List.Subset.trans (by decide) hT)
      exact hs

theorem modelXfer_keeps {T : List Part} {s0 : State} {s : State} (hs : Keeps T s0 s)
    (hT : [.host, .items, .sent] ⊆ T) :
    Keeps T s0 (State.modelXfer s) := by
  delta State.modelXfer
  refine serveXfer_keeps ?_ (List.Subset.trans (by decide) hT)
  exact hs

theorem modelOp_keeps {T : List Part} {s0 : State} {s : State} {op : Nat} {arg : Nat} {on : Bool} {f : State → State} (hs : Keeps T s0 s) (hf : ∀ x, Keeps T s0 x → Keeps T s0 (f x))
    (hT : [.host, .items, .seq, .sent] ⊆ T) :
    Keeps T s0 (State.modelOp s op arg on f) := by
  delta State.modelOp
  refine entry_keeps ?_ (fun x hx => ?_) (List.Subset.trans (by decide) hT)
  · exact hs
  · refine modelXfer_keeps ?_ (List.Subset.trans (by decide) hT)
    refine keeps_ite ?_ ?_
    · refine hf _ ?_
      exact hx
    · exact hx

theorem hydEnd_keeps {T : List Part} {s0 : State} {s : State} {c : Nat} {r : HydRes} (hs : Keeps T s0 s)
    (hT : [.regs, .tbl, .items, .icu, .evr, .model] ⊆ T) :
    Keeps T s0 (State.hydEnd s c r) := by
  delta State.hydEnd
  extract_lets +onlyGivenNames y1
  extract_lets +onlyGivenNames y2
  have hy2 : Keeps T s0 y2 := by
    unfold y2
    refine wr_keeps ?_ (List.Subset.trans (by decide) hT)
    refine setF_keeps ?_ (List.Subset.trans (by decide) hT)
    exact hs
  refine keeps_ite ?_ ?_
  · extract_lets +onlyGivenNames y3
    have hy3 : Keeps T s0 y3 := by
      unfold y3
      refine modelMod_keeps ?_ (List.Subset.trans (by decide) hT)
      exact hy2
    refine bump_keeps ?_ (List.Subset.trans (by decide) hT)
    refine setF_keeps ?_ (List.Subset.trans (by decide) hT)
    refine setF_keeps ?_ (List.Subset.trans (by decide) hT)
    refine setF_keeps ?_ (List.Subset.trans (by decide) hT)
    exact hy3
  · extract_lets +onlyGivenNames y4
    extract_lets +onlyGivenNames y5
    have hy5 : Keeps T s0 y5 := by
      unfold y5
      refine bump_keeps ?_ (List.Subset.trans (by decide) hT)
      refine setF_keeps ?_ (List.Subset.trans (by decide) hT)
      refine setF_keeps ?_ (List.Subset.trans (by decide) hT)
      exact hy2
    refine keeps_ite ?_ ?_
    · exact hy5
    · refine raiseEv_keeps ?_ (List.Subset.trans (by decide) hT)
      exact hy5

theorem modelHydRun_keeps {T : List Part} {s0 : State} {c : Nat} {s : State} (hs : Keeps T s0 s)
    (hT : [.regs, .tbl, .mbx, .items, .icu, .evr, .model, .dio, .dev] ⊆ T) :
    Keeps T s0 (modelHydRun c s) := by
  delta modelHydRun
  extract_lets +onlyGivenNames y1
  have hy1 : Keeps T s0 y1 := by
    unfold y1
    refine hourly_keeps ?_ (List.Subset.trans (by decide) hT)
    refine readInputs_keeps ?_ (List.Subset.trans (by decide) hT)
    exact hs
  extract_lets +onlyGivenNames y2
  have hy2 : Keeps T s0 y2 := by
    unfold y2
    refine hydEnd_keeps ?_ (List.Subset.trans (by decide) hT)
    exact hy1
  extract_lets +onlyGivenNames y3
  have hy3 : Keeps T s0 y3 := by
    unfold y3
    refine critDp_keeps ?_ (List.Subset.trans (by decide) hT)
    refine putResults_keeps ?_ (List.Subset.trans (by decide) hT)
    exact hy2
  refine estimates_keeps ?_ (List.Subset.trans (by decide) hT)
  refine collect_keeps ?_ (List.Subset.trans (by decide) hT)
  exact hy3

theorem execModelHyd_keeps {T : List Part} {s0 : State} {arg : Nat} {s : State} (hs : Keeps T s0 s)
    (hT : [.regs, .tbl, .mbx, .host, .items, .icu, .evr, .seq, .model, .dio, .dev, .sent] ⊆ T) :
    KeepsO T s0 (execModelHyd arg s) := by
  delta execModelHyd
  refine keepsO_next ?_
  refine modelOp_keeps ?_ (fun x hx => ?_) (List.Subset.trans (by decide) hT)
  · exact hs
  · refine modelHydRun_keeps ?_ (List.Subset.trans (by decide) hT)
    exact hx

theorem putParcels_keeps {T : List Part} {s0 : State} {s : State} {i : Nat} {l : List Parcel} (hs : Keeps T s0 s)
    (hT : [.model] ⊆ T) :
    Keeps T s0 (State.putParcels s i l) := by
  delta State.putParcels
  extract_lets +onlyGivenNames y1
  refine modelMod_keeps ?_ (List.Subset.trans (by decide) hT)
  exact hs

theorem restartSeg_keeps {T : List Part} {s0 : State} {s : State} {c : Nat} {i : Nat} (hs : Keeps T s0 s)
    (hT : [.model] ⊆ T) :
    Keeps T s0 (State.restartSeg s c i) := by
  delta State.restartSeg
  extract_lets +onlyGivenNames y1
  extract_lets +onlyGivenNames y2
  refine modelMod_keeps ?_ (List.Subset.trans (by decide) hT)
  refine putParcels_keeps ?_ (List.Subset.trans (by decide) hT)
  exact hs

theorem startSegs_keeps {T : List Part} {s0 : State} {s : State} {c : Nat} (hs : Keeps T s0 s)
    (hT : [.model] ⊆ T) :
    Keeps T s0 (State.startSegs s c) := by
  delta State.startSegs
  refine keeps_foldl ?_ (fun a e ha => ?_)
  · exact hs
  · refine keeps_ite ?_ ?_
    · refine restartSeg_keeps ?_ (List.Subset.trans (by decide) hT)
      exact ha
    · exact ha

theorem thmJunction_keeps {T : List Part} {s0 : State} {s : State} {c : Nat} {dt : Num} {outs : NumMap} {bs : List Branch} {j : Nat} (hs : Keeps T s0 s)
    (hT : [.model] ⊆ T) :
    Keeps T s0 (State.thmJunction s c dt outs bs j) := by
  delta State.thmJunction
  extract_lets +onlyGivenNames y1
  extract_lets +onlyGivenNames y2
  refine keeps_ite ?_ ?_
  · exact hs
  · refine modelMod_keeps ?_ (List.Subset.trans (by decide) hT)
    exact hs

theorem forcedMerge_keeps {T : List Part} {s0 : State} {s : State} (hs : Keeps T s0 s)
    (hT : [.regs, .tbl, .items, .icu, .evr, .model] ⊆ T) :
    Keeps T s0 (State.forcedMerge s) := by
  delta State.forcedMerge
  extract_lets +onlyGivenNames y1
  have hy1 : Keeps T s0 y1 := by
    unfold y1
    refine bump_keeps ?_ (List.Subset.trans (by decide) hT)
    exact hs
  refine keeps_ite ?_ ?_
  · exact hy1
  · refine raiseEv_keeps ?_ (List.Subset.trans (by decide) hT)
    refine modelMod_keeps ?_ (List.Subset.trans (by decide) hT)
    exact hy1

theorem pushParcel_keeps {T : List Part} {s0 : State} {s : State} {i : Nat} {l : List Parcel} {p : Parcel} (hs : Keeps T s0 s)
    (hT : [.regs, .tbl, .items, .icu, .evr, .model] ⊆ T) :
    Keeps T s0 (State.pushParcel s i l p) := by
  delta State.pushParcel
  split
  · refine keeps_ite ?_ ?_
    · refine putParcels_keeps ?_ (List.Subset.trans (by decide) hT)
      exact hs
    · refine keeps_ite ?_ ?_
      · split
        · refine forcedMerge_keeps ?_ (List.Subset.trans (by decide) hT)
          refine putParcels_keeps ?_ (List.Subset.trans (by decide) hT)
          exact hs
        · refine forcedMerge_keeps ?_ (List.Subset.trans (by decide) hT)
          refine putParcels_keeps ?_ (List.Subset.trans (by decide) hT)
          exact hs
      · refine putParcels_keeps ?_ (List.Subset.trans (by decide) hT)
        exact hs
  · refine putParcels_keeps ?_ (List.Subset.trans (by decide) hT)
    exact hs

theorem drainSegment_keeps {T : List Part} {s0 : State} {s : State} {c : Nat} {dt : Num} {b : Branch} (hs : Keeps T s0 s)
    (hT : [.model] ⊆ T) :
    Keeps T s0 (State.drainSegment s c dt b) := by
  delta State.drainSegment
  refine keeps_ite ?_ ?_
  · refine putParcels_keeps ?_ (List.Subset.trans (by decide) hT)
    exact hs
  · exact hs

theorem fillSegment_keeps {T : List Part} {s0 : State} {s : State} {c : Nat} {dt : Num} {b : Branch} (hs : Keeps T s0 s)
    (hT : [.regs, .tbl, .items, .icu, .evr, .model] ⊆ T) :
    Keeps T s0 (State.fillSegment s c dt b) := by
  delta State.fillSegment
  extract_lets +onlyGivenNames y1
  extract_lets +onlyGivenNames y2
  extract_lets +onlyGivenNames y3
  refine keeps_ite ?_ ?_
  · extract_lets +onlyGivenNames y4
    have hy4 : Keeps T s0 y4 := by
      unfold y4
      refine pushParcel_keeps ?_ (List.Subset.trans (by decide) hT)
      exact hs
    split
    · exact hy4
    · extract_lets +onlyGivenNames y5
      refine modelMod_keeps ?_ (List.Subset.trans (by decide) hT)
      exact hy4
  · exact hs

theorem coolSegment_keeps {T : List Part} {s0 : State} {s : State} {c : Nat} {dt : Num} {i : Nat} (hs : Keeps T s0 s)
    (hT : [.model] ⊆ T) :
    Keeps T s0 (State.coolSegment s c dt i) := by
  delta State.coolSegment
  extract_lets +onlyGivenNames y1
  extract_lets +onlyGivenNames y2
  refine modelMod_keeps ?_ (List.Subset.trans (by decide) hT)
  exact hs

theorem thmMove_keeps {T : List Part} {s0 : State} {s : State} {c : Nat} {dt : Num} {outs : NumMap} (hs : Keeps T s0 s)
    (hT : [.regs, .tbl, .items, .icu, .evr, .model] ⊆ T) :
    Keeps T s0 (State.thmMove s c dt outs) := by
  delta State.thmMove
  extract_lets +onlyGivenNames y1
  extract_lets +onlyGivenNames y2
  extract_lets +onlyGivenNames y3
  extract_lets +onlyGivenNames y4
  have hy4 : Keeps T s0 y4 := by
    unfold y4
    refine keeps_foldl ?_ (fun a e ha => ?_)
    · exact hs
    · refine thmJunction_keeps ?_ (List.Subset.trans (by decide) hT)
      exact ha
  refine keeps_foldl ?_ (fun a e ha => ?_)
  · refine keeps_foldl ?_ (fun a e ha => ?_)
    · exact hy4
    · refine drainSegment_keeps ?_ (List.Subset.trans (by decide) hT)
      exact ha
  · refine fillSegment_keeps ?_ (List.Subset.trans (by decide) hT)
    exact ha

theorem thmCool_keeps {T : List Part} {s0 : State} {s : State} {c : Nat} {dt : Num} (hs : Keeps T s0 s)
    (hT : [.model] ⊆ T) :
    Keeps T s0 (State.thmCool s c dt) := by
  delta State.thmCool
  refine keeps_foldl ?_ (fun a e ha => ?_)
  · exact hs
  · refine coolSegment_keeps ?_ (List.Subset.trans (by decide) hT)
    exact ha

theorem addBalance_keeps {T : List Part} {s0 : State} {s : State} {c : Nat} (hs : Keeps T s0 s)
    (hT : [.regs, .tbl, .mbx, .items, .icu, .evr, .model, .dio, .dev] ⊆ T) :
    Keeps T s0 (State.addBalance s c) := by
  delta State.addBalance
  extract_lets +onlyGivenNames y1
  extract_lets +onlyGivenNames y2
  extract_lets +onlyGivenNames y3
  extract_lets +onlyGivenNames y4
  extract_lets +onlyGivenNames y5
  extract_lets +onlyGivenNames y6
  have hy6 : Keeps T s0 y6 := by
    unfold y6
    refine modelMod_keeps ?_ (List.Subset.trans (by decide) hT)
    exact hs
  refine fwPuts_keeps ?_ (List.Subset.trans (by decide) hT)
  refine wr_keeps ?_ (List.Subset.trans (by decide) hT)
  exact hy6

theorem execLeakDetect_keeps {T : List Part} {s0 : State} {c : Nat} {s : State} (hs : Keeps T s0 s)
    (hT : [.regs, .tbl, .items, .icu, .evr] ⊆ T) :
    KeepsO T s0 (execLeakDetect c s) := by
  delta execLeakDetect
  extract_lets +onlyGivenNames y1
  extract_lets +onlyGivenNames y2
  refine keepsO_next ?_
  refine keeps_ite ?_ ?_
  · exact hs
  · refine keeps_ite ?_ ?_
    · refine raiseEv_keeps ?_ (List.Subset.trans (by decide) hT)
      refine setF_keeps ?_ (List.Subset.trans (by decide) hT)
      refine setF_keeps ?_ (List.Subset.trans (by decide) hT)
      exact hs
    · refine keeps_ite ?_ ?_
      · refine setF_keeps ?_ (List.Subset.trans (by decide) hT)
        refine setF_keeps ?_ (List.Subset.trans (by decide) hT)
        exact hs
      · exact hs

theorem parcelRegs_keeps {T : List Part} {s0 : State} {s : State} (hs : Keeps T s0 s)
    (hT : [.regs] ⊆ T) :
    Keeps T s0 (State.parcelRegs s) := by
  delta State.parcelRegs
  extract_lets +onlyGivenNames y1
  extract_lets +onlyGivenNames y2
  have hy2 : Keeps T s0 y2 := by
    unfold y2
    refine setF_keeps ?_ (List.Subset.trans (by decide) hT)
    exact hs
  refine keeps_ite ?_ ?_
  · refine setF_keeps ?_ (List.Subset.trans (by decide) hT)
    exact hy2
  · exact hy2

theorem modelThmRun_keeps {T : List Part} {s0 : State} {c : Nat} {s : State} (hs : Keeps T s0 s)
    (hT : [.regs, .tbl, .mbx, .items, .icu, .evr, .model, .dio, .dev] ⊆ T) :
    Keeps T s0 (modelThmRun c s) := by
  delta modelThmRun
  refine keeps_ite ?_ ?_
  · exact hs
  · extract_lets +onlyGivenNames y1
    extract_lets +onlyGivenNames y2
    extract_lets +onlyGivenNames y3
    have hy3 : Keeps T s0 y3 := by
      unfold y3
      refine thmMove_keeps ?_ (List.Subset.trans (by decide) hT)
      refine startSegs_keeps ?_ (List.Subset.trans (by decide) hT)
      refine readInputs_keeps ?_ (List.Subset.trans (by decide) hT)
      exact hs
    extract_lets +onlyGivenNames y4
    have hy4 : Keeps T s0 y4 := by
      unfold y4
      refine thmCool_keeps ?_ (List.Subset.trans (by decide) hT)
      exact hy3
    extract_lets +onlyGivenNames y5
    extract_lets +onlyGivenNames y6
    extract_lets +onlyGivenNames y7
    have hy7 : Keeps T s0 y7 := by
      unfold y7
      refine modelMod_keeps ?_ (List.Subset.trans (by decide) hT)
      exact hy4
    extract_lets +onlyGivenNames y8
    have hy8 : Keeps T s0 y8 := by
      unfold y8
      refine keeps_ite ?_ ?_
      · exact hy7
      · refine wr_keeps ?_ (List.Subset.trans (by decide) hT)
        exact hy7
    refine estimates_keeps ?_ (List.Subset.trans (by decide) hT)
    refine addBalance_keeps ?_ (List.Subset.trans (by decide) hT)
    refine putResults_keeps ?_ (List.Subset.trans (by decide) hT)
    refine parcelRegs_keeps ?_ (List.Subset.trans (by decide) hT)
    exact hy8

theorem execModelThm_keeps {T : List Part} {s0 : State} {arg : Nat} {s : State} (hs : Keeps T s0 s)
    (hT : [.regs, .tbl, .mbx, .host, .items, .icu, .evr, .seq, .model, .dio, .dev, .sent] ⊆ T) :
    KeepsO T s0 (execModelThm arg s) := by
  delta execModelThm
  refine keepsO_next ?_
  refine modelOp_keeps ?_ (fun x hx => ?_) (List.Subset.trans (by decide) hT)
  · exact hs
  · refine modelThmRun_keeps ?_ (List.Subset.trans (by decide) hT)
    exact hx

theorem arrItems_keeps {T : List Part} {s0 : State} {s : State} {n : Nat} (hs : Keeps T s0 s)
    (hT : [.regs, .tbl, .mbx, .items, .icu, .evr, .dio, .dev] ⊆ T) :
    Keeps T s0 (State.arrItems s n) := by
  delta State.arrItems
  extract_lets +onlyGivenNames y1
  refine rolePuts_keeps ?_ (List.Subset.trans (by decide) hT)
  exact hs

theorem arrRecord_keeps {T : List Part} {s0 : State} {s : State} {n : Nat} {sa : NumMap × NumMap} {cyc : List Nat} {pred : List NumMap} (hs : Keeps T s0 s)
    (hT : [.regs, .tbl, .mbx, .items, .icu, .evr, .dio, .dev] ⊆ T) :
    Keeps T s0 (State.arrRecord s n sa cyc pred) := by
  delta State.arrRecord
  extract_lets +onlyGivenNames y1
  extract_lets +onlyGivenNames y2
  extract_lets +onlyGivenNames y3
  extract_lets +onlyGivenNames y4
  extract_lets +onlyGivenNames y5
  extract_lets +onlyGivenNames y6
  extract_lets +onlyGivenNames y7
  extract_lets +onlyGivenNames y8
  have hy8 : Keeps T s0 y8 := by
    unfold y8
    refine twr_keeps ?_ (List.Subset.trans (by decide) hT)
    refine twr_keeps ?_ (List.Subset.trans (by decide) hT)
    refine twr_keeps ?_ (List.Subset.trans (by decide) hT)
    refine twr_keeps ?_ (List.Subset.trans (by decide) hT)
    exact hs
  extract_lets +onlyGivenNames y9
  have hy9 : Keeps T s0 y9 := by
    unfold y9
    refine keeps_foldl ?_ (fun a e ha => ?_)
    · exact hy8
    · refine twr_keeps ?_ (List.Subset.trans (by decide) hT)
      exact ha
  refine arrItems_keeps ?_ (List.Subset.trans (by decide) hT)
  exact hy9

theorem modelArrRun_keeps {T : List Part} {s0 : State} {p : Nat} {s : State} (hs : Keeps T s0 s)
    (hT : [.regs, .tbl, .mbx, .items, .icu, .evr, .model, .dio, .dev, .free] ⊆ T) :
    Keeps T s0 (modelArrRun p s) := by
  delta modelArrRun
  extract_lets +onlyGivenNames y1
  extract_lets +onlyGivenNames y2
  have hy2 : Keeps T s0 y2.1 := by
    unfold y2
    refine keeps_foldlP ?_ (fun a e ha => ?_)
    · refine keeps_fst ?_
      exact hs
    · extract_lets +onlyGivenNames y3
      refine keeps_iteP ?_ ?_
      · exact ha
      · extract_lets +onlyGivenNames y4
        have hy4 : Keeps T s0 y4 := by
          unfold y4
          refine readInputs_keeps ?_ (List.Subset.trans (by decide) hT)
          exact ha
        extract_lets +onlyGivenNames y5
        extract_lets +onlyGivenNames y6
        extract_lets +onlyGivenNames y7
        refine keeps_fst ?_
        refine keeps_foldl ?_ (fun a e ha => ?_)
        · exact hy4
        · refine arrRecord_keeps ?_ (List.Subset.trans (by decide) hT)
          exact ha
  extract_lets +onlyGivenNames y8
  have hy8 : Keeps T s0 y8 := by
    unfold y8
    refine useFree_keeps ?_ (List.Subset.trans (by decide) hT)
    exact hy2
  extract_lets +onlyGivenNames y9
  have hy9 : Keeps T s0 y9 := by
    unfold y9
    refine keeps_ite ?_ ?_
    · refine setF_keeps ?_ (List.Subset.trans (by decide) hT)
      refine modelMod_keeps ?_ (List.Subset.trans (by decide) hT)
      exact hy8
    · exact hy8
  refine keeps_ite ?_ ?_
  · refine raiseEv_keeps ?_ (List.Subset.trans (by decide) hT)
    exact hy9
  · exact hy9

theorem execModelArr_keeps {T : List Part} {s0 : State} {arg : Nat} {s : State} (hs : Keeps T s0 s)
    (hT : [.regs, .tbl, .mbx, .host, .items, .icu, .evr, .seq, .model, .dio, .dev, .sent, .free] ⊆ T) :
    KeepsO T s0 (execModelArr arg s) := by
  delta execModelArr
  refine keepsO_next ?_
  refine modelOp_keeps ?_ (fun x hx => ?_) (List.Subset.trans (by decide) hT)
  · exact hs
  · refine modelArrRun_keeps ?_ (List.Subset.trans (by decide) hT)
    exact hx

theorem arrQual_keeps {T : List Part} {s0 : State} {s : State} {p : Nat} (hs : Keeps T s0 s)
    (hT : [.regs, .tbl, .mbx, .items, .icu, .evr, .dio, .dev] ⊆ T) :
    Keeps T s0 (State.arrQual s p) := by
  delta State.arrQual
  extract_lets +onlyGivenNames y1
  refine keeps_foldl ?_ (fun a e ha => ?_)
  · refine setF_keeps ?_ (List.Subset.trans (by decide) hT)
    exact hs
  · extract_lets +onlyGivenNames y2
    refine arrItems_keeps ?_ (List.Subset.trans (by decide) hT)
    refine tset_keeps ?_ (List.Subset.trans (by decide) hT)
    exact ha

theorem execArrPartStale_keeps {T : List Part} {s0 : State} {part : Nat} {s : State} (hs : Keeps T s0 s)
    (hT : [.regs, .tbl, .mbx, .items, .icu, .evr, .dio, .dev] ⊆ T) :
    KeepsO T s0 (execArrPartStale part s) := by
  delta execArrPartStale
  refine keepsO_next ?_
  refine keeps_ite ?_ ?_
  · exact hs
  · refine arrQual_keeps ?_ (List.Subset.trans (by decide) hT)
    exact hs

theorem critQual_keeps {T : List Part} {s0 : State} {s : State} {c : Nat} (hs : Keeps T s0 s)
    (hT : [.regs, .tbl, .mbx, .items, .icu, .evr, .dio, .dev] ⊆ T) :
    Keeps T s0 (State.critQual s c) := by
  delta State.critQual
  extract_lets +onlyGivenNames y1
  extract_lets +onlyGivenNames y2
  refine rolePuts_keeps ?_ (List.Subset.trans (by decide) hT)
  refine setF_keeps ?_ (List.Subset.trans (by decide) hT)
  exact hs

theorem modelQual_keeps {T : List Part} {s0 : State} {s : State} {c : Nat} (hs : Keeps T s0 s)
    (hT : [.regs, .tbl, .mbx, .items, .icu, .evr, .dio, .dev] ⊆ T) :
    Keeps T s0 (State.modelQual s c) := by
  delta State.modelQual
  extract_lets +onlyGivenNames y1
  have hy1 : Keeps T s0 y1 := by
    unfold y1
    refine critQual_keeps ?_ (List.Subset.trans (by decide) hT)
    refine putResults_keeps ?_ (List.Subset.trans (by decide) hT)
    exact hs
  refine keeps_foldl ?_ (fun a e ha => ?_)
  · exact hy1
  · refine nodeEst_keeps ?_ (List.Subset.trans (by decide) hT)
    exact ha

theorem modelEnChanged_keeps {T : List Part} {s0 : State} {s : State} (hs : Keeps T s0 s)
    (hT : [.regs, .tbl, .mbx, .items, .icu, .evr, .dio, .dev] ⊆ T) :
    Keeps T s0 (State.modelEnChanged s) := by
  delta State.modelEnChanged
  refine keeps_foldl ?_ (fun a e ha => ?_)
  · exact hs
  · refine modelQual_keeps ?_ (List.Subset.trans (by decide) hT)
    exact ha

theorem arrEnChanged_keeps {T : List Part} {s0 : State} {s : State} (hs : Keeps T s0 s)
    (hT : [.regs, .tbl, .mbx, .items, .icu, .evr, .dio, .dev] ⊆ T) :
    Keeps T s0 (State.arrEnChanged s) := by
  delta State.arrEnChanged
  refine keeps_foldl ?_ (fun a e ha => ?_)
  · exact hs
  · refine arrQual_keeps ?_ (List.Subset.trans (by decide) hT)
    exact ha

theorem parcelReset_keeps {T : List Part} {s0 : State} {s : State} (hs : Keeps T s0 s)
    (hT : [.regs, .model] ⊆ T) :
    Keeps T s0 (parcelReset s) := by
  delta parcelReset
  refine parcelRegs_keeps ?_ (List.Subset.trans (by decide) hT)
  refine modelMod_keeps ?_ (List.Subset.trans (by decide) hT)
  exact hs

theorem execParcelReset_keeps {T : List Part} {s0 : State} {s : State} (hs : Keeps T s0 s)
    (hT : [.regs, .model] ⊆ T) :
    KeepsO T s0 (execParcelReset s) := by
  delta execParcelReset
  refine keepsO_next ?_
  refine parcelReset_keeps ?_ (List.Subset.trans (by decide) hT)
  exact hs

theorem facReset_keeps {T : List Part} {s0 : State} {s : State} {i : Nat} (hs : Keeps T s0 s)
    (hT : [.tbl] ⊆ T) :
    Keeps T s0 (State.facReset s i) := by
  delta State.facReset
  refine tset_keeps ?_ (List.Subset.trans (by decide) hT)
  refine tset_keeps ?_ (List.Subset.trans (by decide) hT)
  exact hs

theorem adaptReset_keeps {T : List Part} {s0 : State} {s : State} (hs : Keeps T s0 s)
    (hT : [.tbl, .model] ⊆ T) :
    Keeps T s0 (adaptReset s) := by
  delta adaptReset
  refine keeps_foldl ?_ (fun a e ha => ?_)
  · refine modelMod_keeps ?_ (List.Subset.trans (by decide) hT)
    exact hs
  · refine facReset_keeps ?_ (List.Subset.trans (by decide) hT)
    exact ha

theorem execAdaptReset_keeps {T : List Part} {s0 : State} {s : State} (hs : Keeps T s0 s)
    (hT : [.tbl, .model] ⊆ T) :
    KeepsO T s0 (execAdaptReset s) := by
  delta execAdaptReset
  refine keepsO_next ?_
  refine adaptReset_keeps ?_ (List.Subset.trans (by decide) hT)
  exact hs

theorem execModelVerify_keeps {T : List Part} {s0 : State} {s : State} (hs : Keeps T s0 s)
    (hT : [.regs] ⊆ T) :
    KeepsO T s0 (execModelVerify s) := by
  delta execModelVerify
  refine keepsO_next ?_
  refine bankVerify_keeps ?_ (List.Subset.trans (by decide) hT)
  exact hs

theorem execModelSwitch_keeps {T : List Part} {s0 : State} {s : State} (hs : Keeps T s0 s)
    (hT : [.regs] ⊆ T) :
    KeepsO T s0 (execModelSwitch s) := by
  delta execModelSwitch
  refine keepsO_next ?_
  refine bankSwitch_keeps ?_ (List.Subset.trans (by decide) hT)
  exact hs

theorem execModelCancel_keeps {T : List Part} {s0 : State} {s : State} (hs : Keeps T s0 s)
    (hT : [.regs] ⊆ T) :
    KeepsO T s0 (execModelCancel s) := by
  delta execModelCancel
  refine keepsO_next ?_
  refine bankCancel_keeps ?_ (List.Subset.trans (by decide) hT)
  exact hs

theorem execModelVerifyEnd_keeps {T : List Part} {s0 : State} {s : State} (hs : Keeps T s0 s)
    (hT : [.regs, .tbl, .items, .icu, .evr] ⊆ T) :
    KeepsO T s0 (execModelVerifyEnd s) := by
  delta execModelVerifyEnd
  refine keepsO_next ?_
  refine keeps_ite ?_ ?_
  · exact hs
  · split
    · refine bankFail_keeps ?_ (List.Subset.trans (by decide) hT)
      exact hs
    · refine bankPass_keeps ?_ (List.Subset.trans (by decide) hT)
      exact hs

theorem modelDef_keeps {T : List Part} {s0 : State} {s : State} (hs : Keeps T s0 s)
    (hT : [.regs] ⊆ T) :
    Keeps T s0 (State.modelDef s) := by
  delta State.modelDef
  extract_lets +onlyGivenNames y1
  have hy1 : Keeps T s0 y1 := by
    unfold y1
    refine keeps_foldl ?_ (fun a e ha => ?_)
    · exact hs
    · refine setF_keeps ?_ (List.Subset.trans (by decide) hT)
      exact ha
  extract_lets +onlyGivenNames y2
  have hy2 : Keeps T s0 y2 := by
    unfold y2
    refine keeps_foldl ?_ (fun a e ha => ?_)
    · exact hy1
    · refine setF_keeps ?_ (List.Subset.trans (by decide) hT)
      exact ha
  extract_lets +onlyGivenNames y3
  have hy3 : Keeps T s0 y3 := by
    unfold y3
    refine keeps_foldl ?_ (fun a e ha => ?_)
    · exact hy2
    · refine wr_keeps ?_ (List.Subset.trans (by decide) hT)
      refine wr_keeps ?_ (List.Subset.trans (by decide) hT)
      exact ha
  refine setF_keeps ?_ (List.Subset.trans (by decide) hT)
  exact hy3

theorem modelCarry_keeps {T : List Part} {s0 : State} {s : State} (hs : Keeps T s0 s)
    (hT : [.tbl, .model] ⊆ T) :
    Keeps T s0 (State.modelCarry s) := by
  delta State.modelCarry
  extract_lets +onlyGivenNames y1
  have hy1 : Keeps T s0 y1 := by
    unfold y1
    refine keeps_foldl ?_ (fun a e ha => ?_)
    · exact hs
    · refine keeps_ite ?_ ?_
      · exact ha
      · refine modelMod_keeps ?_ (List.Subset.trans (by decide) hT)
        refine facReset_keeps ?_ (List.Subset.trans (by decide) hT)
        exact ha
  extract_lets +onlyGivenNames y2
  extract_lets +onlyGivenNames y3
  have hy3 : Keeps T s0 y3 := by
    unfold y3
    refine modelMod_keeps ?_ (List.Subset.trans (by decide) hT)
    exact hy1
  extract_lets +onlyGivenNames y4
  refine modelMod_keeps ?_ (List.Subset.trans (by decide) hT)
  exact hy3

theorem arrInit_keeps {T : List Part} {s0 : State} {s : State} {c : Nat} (hs : Keeps T s0 s)
    (hT : [.regs, .tbl, .mbx, .items, .icu, .evr, .dio, .dev] ⊆ T) :
    Keeps T s0 (State.arrInit s c) := by
  delta State.arrInit
  refine keeps_foldl ?_ (fun a e ha => ?_)
  · exact hs
  · refine arrItems_keeps ?_ (List.Subset.trans (by decide) hT)
    refine tset_keeps ?_ (List.Subset.trans (by decide) hT)
    exact ha

theorem execModelBankSwitch_keeps {T : List Part} {s0 : State} {s : State} (hs : Keeps T s0 s)
    (hT : [.regs, .vis, .tbl, .mbx, .items, .icu, .evr, .model, .dio, .dev] ⊆ T) :
    KeepsO T s0 (execModelBankSwitch s) := by
  delta execModelBankSwitch
  refine keepsO_next ?_
  refine andShown_keeps ?_ ?_ (List.Subset.trans (by decide) hT)
  · exact hs
  · refine keeps_ite ?_ ?_
    · extract_lets +onlyGivenNames y1
      have hy1 : Keeps T s0 y1 := by
        unfold y1
        refine seqInfo_keeps ?_ (List.Subset.trans (by decide) hT)
        refine modelDef_keeps ?_ (List.Subset.trans (by decide) hT)
        refine modelCarry_keeps ?_ (List.Subset.trans (by decide) hT)
        refine bankExchange_keeps ?_ (List.Subset.trans (by decide) hT)
        exact hs
      extract_lets +onlyGivenNames y2
      have hy2 : Keeps T s0 y2 := by
        unfold y2
        refine keeps_foldl ?_ (fun a e ha => ?_)
        · exact hy1
        · refine arrInit_keeps ?_ (List.Subset.trans (by decide) hT)
          refine modelQual_keeps ?_ (List.Subset.trans (by decide) hT)
          exact ha
      refine raiseEv_keeps ?_ (List.Subset.trans (by decide) hT)
      refine parcelRegs_keeps ?_ (List.Subset.trans (by decide) hT)
      refine setF_keeps ?_ (List.Subset.trans (by decide) hT)
      exact hy2
    · exact hs

theorem modelSoftReset_keeps {T : List Part} {s0 : State} {s : State} (hs : Keeps T s0 s)
    (hT : [.regs, .tbl, .mbx, .items, .icu, .evr, .model, .dio, .dev] ⊆ T) :
    Keeps T s0 (modelSoftReset s) := by
  delta modelSoftReset
  extract_lets +onlyGivenNames y1
  have hy1 : Keeps T s0 y1 := by
    unfold y1
    refine bankSoftReset_keeps ?_ (List.Subset.trans (by decide) hT)
    refine parcelReset_keeps ?_ (List.Subset.trans (by decide) hT)
    exact hs
  extract_lets +onlyGivenNames y2
  have hy2 : Keeps T s0 y2 := by
    unfold y2
    refine modelMod_keeps ?_ (List.Subset.trans (by decide) hT)
    exact hy1
  extract_lets +onlyGivenNames y3
  have hy3 : Keeps T s0 y3 := by
    unfold y3
    refine keeps_foldl ?_ (fun a e ha => ?_)
    · exact hy2
    · refine arrInit_keeps ?_ (List.Subset.trans (by decide) hT)
      refine modelQual_keeps ?_ (List.Subset.trans (by decide) hT)
      exact ha
  refine parcelRegs_keeps ?_ (List.Subset.trans (by decide) hT)
  refine setF_keeps ?_ (List.Subset.trans (by decide) hT)
  refine setF_keeps ?_ (List.Subset.trans (by decide) hT)
  exact hy3

end Sys2Proof.Machine
end

