-- ==== Sys2Proof/Laws/KeepOpt.lean ====
section
/-! SUPPORT. What each operation of Machine/Opt.lean keeps: the canonical form, the queue, and the parts it does not name. -/

namespace Sys2Proof.Machine

theorem optMod_keeps {T : List Part} {s0 : State} {s : State} {f : OptSt → OptSt} (hs : Keeps T s0 s)
    (hT : [.opt] ⊆ T) :
    Keeps T s0 (State.optMod s f) := by
  delta State.optMod
  refine keeps_opt ?_ (List.Subset.trans (by decide) hT)
  exact hs

theorem putFit_keeps {T : List Part} {s0 : State} {s : State} {c : Nat} {b : List Num} {st : Nat} (hs : Keeps T s0 s)
    (hT : [.tbl] ⊆ T) :
    Keeps T s0 (State.putFit s c b st) := by
  delta State.putFit
  extract_lets +onlyGivenNames y1
  have hy1 : Keeps T s0 y1 := by
    unfold y1
    refine twr_keeps ?_ (List.Subset.trans (by decide) hT)
    exact hs
  refine keeps_foldl ?_ (fun a e ha => ?_)
  · exact hy1
  · extract_lets +onlyGivenNames y2
    refine twr_keeps ?_ (List.Subset.trans (by decide) hT)
    refine twr_keeps ?_ (List.Subset.trans (by decide) hT)
    exact ha

theorem dailyFit_keeps {T : List Part} {s0 : State} {s : State} (hs : Keeps T s0 s)
    (hT : [.regs, .tbl, .opt] ⊆ T) :
    Keeps T s0 (State.dailyFit s) := by
  delta State.dailyFit
  extract_lets +onlyGivenNames y1
  refine keeps_ite ?_ ?_
  · exact hs
  · extract_lets +onlyGivenNames y2
    have hy2 : Keeps T s0 y2 := by
      unfold y2
      refine keeps_foldl ?_ (fun a e ha => ?_)
      · exact hs
      · extract_lets +onlyGivenNames y3
        refine putFit_keeps ?_ (List.Subset.trans (by decide) hT)
        exact ha
    refine wr_keeps ?_ (List.Subset.trans (by decide) hT)
    refine optMod_keeps ?_ (List.Subset.trans (by decide) hT)
    exact hy2

theorem optEnded_keeps {T : List Part} {s0 : State} {s : State} {c : Option HCmd} (hs : Keeps T s0 s)
    (hT : [.opt] ⊆ T) :
    Keeps T s0 (State.optEnded s c) := by
  delta State.optEnded
  split
  · exact hs
  · refine optMod_keeps ?_ (List.Subset.trans (by decide) hT)
    exact hs

theorem noteEnd_keeps {T : List Part} {s0 : State} {s : State} {last : Word} (hs : Keeps T s0 s)
    (hT : [.regs, .tbl, .items, .icu, .evr, .opt] ⊆ T) :
    Keeps T s0 (State.noteEnd s last) := by
  delta State.noteEnd
  extract_lets +onlyGivenNames y1
  have hy1 : Keeps T s0 y1 := by
    unfold y1
    refine optMod_keeps ?_ (List.Subset.trans (by decide) hT)
    refine wr_keeps ?_ (List.Subset.trans (by decide) hT)
    exact hs
  refine keeps_ite ?_ ?_
  · refine bump_keeps ?_ (List.Subset.trans (by decide) hT)
    exact hy1
  · refine raiseEv_keeps ?_ (List.Subset.trans (by decide) hT)
    refine bump_keeps ?_ (List.Subset.trans (by decide) hT)
    exact hy1

theorem endSolve_keeps {T : List Part} {s0 : State} {s : State} {code : Nat} {group : Nat} {stage : Nat} {index : Nat} (hs : Keeps T s0 s)
    (hT : [.regs, .tbl, .host, .items, .icu, .evr, .opt] ⊆ T) :
    Keeps T s0 (State.endSolve s code group stage index) := by
  delta State.endSolve
  split
  · exact hs
  · extract_lets +onlyGivenNames y1
    have hy1 : Keeps T s0 y1 := by
      unfold y1
      refine wr_keeps ?_ (List.Subset.trans (by decide) hT)
      refine wr_keeps ?_ (List.Subset.trans (by decide) hT)
      exact hs
    extract_lets +onlyGivenNames y2
    have hy2 : Keeps T s0 y2 := by
      unfold y2
      refine noteEnd_keeps ?_ (List.Subset.trans (by decide) hT)
      refine optMod_keeps ?_ (List.Subset.trans (by decide) hT)
      refine setF_keeps ?_ (List.Subset.trans (by decide) hT)
      exact hy1
    extract_lets +onlyGivenNames y3
    have hy3 : Keeps T s0 y3 := by
      unfold y3
      refine optEnded_keeps ?_ (List.Subset.trans (by decide) hT)
      exact hy2
    split
    · refine complete_keeps ?_ (List.Subset.trans (by decide) hT)
      exact hy3
    · exact hy3

theorem haltSolve_keeps {T : List Part} {s0 : State} {s : State} {code : Nat} (hs : Keeps T s0 s)
    (hT : [.regs, .tbl, .host, .items, .icu, .evr, .opt] ⊆ T) :
    Keeps T s0 (State.haltSolve s code) := by
  delta State.haltSolve
  refine endSolve_keeps ?_ (List.Subset.trans (by decide) hT)
  exact hs

theorem dropSolve_keeps {T : List Part} {s0 : State} {s : State} (hs : Keeps T s0 s)
    (hT : [.regs, .tbl, .host, .items, .icu, .evr, .opt] ⊆ T) :
    Keeps T s0 (State.dropSolve s) := by
  delta State.dropSolve
  extract_lets +onlyGivenNames y1
  have hy1 : Keeps T s0 y1 := by
    unfold y1
    refine haltSolve_keeps ?_ (List.Subset.trans (by decide) hT)
    exact hs
  split
  · exact hy1
  · refine complete_keeps ?_ (List.Subset.trans (by decide) hT)
    refine optEnded_keeps ?_ (List.Subset.trans (by decide) hT)
    refine optMod_keeps ?_ (List.Subset.trans (by decide) hT)
    exact hy1

theorem optHalt_keeps {T : List Part} {s0 : State} {s : State} (hs : Keeps T s0 s)
    (hT : [.regs, .tbl, .host, .items, .icu, .evr, .opt] ⊆ T) :
    Keeps T s0 (State.optHalt s) := by
  delta State.optHalt
  refine keeps_ite ?_ ?_
  · refine haltSolve_keeps ?_ (List.Subset.trans (by decide) hT)
    exact hs
  · exact hs

theorem startSolve_keeps {T : List Part} {s0 : State} {s : State} {cmd : Option HCmd} (hs : Keeps T s0 s)
    (hT : [.regs, .tbl, .host, .items, .icu, .evr, .opt] ⊆ T) :
    Keeps T s0 (State.startSolve s cmd) := by
  delta State.startSolve
  extract_lets +onlyGivenNames y1
  have hy1 : Keeps T s0 y1 := by
    unfold y1
    refine dailyFit_keeps ?_ (List.Subset.trans (by decide) hT)
    refine optMod_keeps ?_ (List.Subset.trans (by decide) hT)
    exact hs
  extract_lets +onlyGivenNames y2
  extract_lets +onlyGivenNames y3
  extract_lets +onlyGivenNames y4
  extract_lets +onlyGivenNames y5
  extract_lets +onlyGivenNames y6
  have hy6 : Keeps T s0 y6 := by
    unfold y6
    refine optMod_keeps ?_ (List.Subset.trans (by decide) hT)
    refine wr_keeps ?_ (List.Subset.trans (by decide) hT)
    refine wr_keeps ?_ (List.Subset.trans (by decide) hT)
    exact hy1
  extract_lets +onlyGivenNames y7
  have hy7 : Keeps T s0 y7 := by
    unfold y7
    refine setF_keeps ?_ (List.Subset.trans (by decide) hT)
    exact hy6
  extract_lets +onlyGivenNames y8
  have hy8 : Keeps T s0 y8 := by
    unfold y8
    refine keeps_ite ?_ ?_
    · exact hy7
    · refine raiseEv_keeps ?_ (List.Subset.trans (by decide) hT)
      exact hy7
  refine keeps_ite ?_ ?_
  · refine haltSolve_keeps ?_ (List.Subset.trans (by decide) hT)
    exact hy8
  · refine keeps_ite ?_ ?_
    · refine haltSolve_keeps ?_ (List.Subset.trans (by decide) hT)
      exact hy8
    · exact hy8

theorem skipSolve_keeps {T : List Part} {s0 : State} {s : State} (hs : Keeps T s0 s)
    (hT : [.regs, .tbl, .items, .icu, .evr] ⊆ T) :
    Keeps T s0 (State.skipSolve s) := by
  delta State.skipSolve
  refine raiseEv_keeps ?_ (List.Subset.trans (by decide) hT)
  refine bump_keeps ?_ (List.Subset.trans (by decide) hT)
  exact hs

theorem commandedSolve_keeps {T : List Part} {s0 : State} {s : State} (hs : Keeps T s0 s)
    (hT : [.regs, .tbl, .host, .items, .icu, .evr, .opt] ⊆ T) :
    Keeps T s0 (State.commandedSolve s) := by
  delta State.commandedSolve
  split
  · exact hs
  · refine keeps_ite ?_ ?_
    · refine complete_keeps ?_ (List.Subset.trans (by decide) hT)
      refine optEnded_keeps ?_ (List.Subset.trans (by decide) hT)
      refine skipSolve_keeps ?_ (List.Subset.trans (by decide) hT)
      refine optMod_keeps ?_ (List.Subset.trans (by decide) hT)
      exact hs
    · refine startSolve_keeps ?_ (List.Subset.trans (by decide) hT)
      exact hs

theorem execPeriodicSolveStart_keeps {T : List Part} {s0 : State} {s : State} (hs : Keeps T s0 s)
    (hT : [.regs, .vis, .tbl, .host, .items, .icu, .evr, .opt] ⊆ T) :
    KeepsO T s0 (execPeriodicSolveStart s) := by
  delta execPeriodicSolveStart
  refine keepsO_next ?_
  refine andShown_keeps ?_ ?_ (List.Subset.trans (by decide) hT)
  · exact hs
  · extract_lets +onlyGivenNames y1
    refine keeps_ite ?_ ?_
    · exact hs
    · refine keeps_ite ?_ ?_
      · exact hs
      · refine keeps_ite ?_ ?_
        · refine skipSolve_keeps ?_ (List.Subset.trans (by decide) hT)
          exact hs
        · refine startSolve_keeps ?_ (List.Subset.trans (by decide) hT)
          exact hs

theorem toStage_keeps {T : List Part} {s0 : State} {s : State} {k : Nat} {r : SolveSt} (hs : Keeps T s0 s)
    (hT : [.regs, .opt] ⊆ T) :
    Keeps T s0 (State.toStage s k r) := by
  delta State.toStage
  refine optMod_keeps ?_ (List.Subset.trans (by decide) hT)
  refine setF_keeps ?_ (List.Subset.trans (by decide) hT)
  exact hs

theorem stageFails_keeps {T : List Part} {s0 : State} {s : State} {r : SolveSt} {code : Nat} {n : Nat} (hs : Keeps T s0 s)
    (hT : [.regs, .tbl, .host, .items, .icu, .evr, .opt] ⊆ T) :
    Keeps T s0 (State.stageFails s r code n) := by
  delta State.stageFails
  extract_lets +onlyGivenNames y1
  extract_lets +onlyGivenNames y2
  extract_lets +onlyGivenNames y3
  have hy3 : Keeps T s0 y3 := by
    unfold y3
    refine optMod_keeps ?_ (List.Subset.trans (by decide) hT)
    exact hs
  refine keeps_ite ?_ ?_
  · refine endSolve_keeps ?_ (List.Subset.trans (by decide) hT)
    exact hy3
  · refine endSolve_keeps ?_ (List.Subset.trans (by decide) hT)
    exact hy3

theorem stageEnd_keeps {T : List Part} {s0 : State} {s : State} {r : SolveSt} (hs : Keeps T s0 s)
    (hT : [.regs, .tbl, .host, .items, .icu, .evr, .opt] ⊆ T) :
    Keeps T s0 (State.stageEnd s r) := by
  delta State.stageEnd
  refine keeps_ite ?_ ?_
  · extract_lets +onlyGivenNames y1
    extract_lets +onlyGivenNames y2
    refine keeps_ite ?_ ?_
    · refine toStage_keeps ?_ (List.Subset.trans (by decide) hT)
      exact hs
    · refine stageFails_keeps ?_ (List.Subset.trans (by decide) hT)
      exact hs
  · refine keeps_ite ?_ ?_
    · refine toStage_keeps ?_ (List.Subset.trans (by decide) hT)
      exact hs
    · extract_lets +onlyGivenNames y3
      extract_lets +onlyGivenNames y4
      refine keeps_ite ?_ ?_
      · extract_lets +onlyGivenNames y5
        refine optMod_keeps ?_ (List.Subset.trans (by decide) hT)
        refine wr_keeps ?_ (List.Subset.trans (by decide) hT)
        exact hs
      · refine keeps_ite ?_ ?_
        · refine toStage_keeps ?_ (List.Subset.trans (by decide) hT)
          exact hs
        · refine stageFails_keeps ?_ (List.Subset.trans (by decide) hT)
          exact hs

theorem execSolveEnd_keeps {T : List Part} {s0 : State} {r : Nat} {s : State} (hs : Keeps T s0 s)
    (hT : [.regs, .tbl, .host, .items, .icu, .evr, .opt] ⊆ T) :
    KeepsO T s0 (execSolveEnd r s) := by
  delta execSolveEnd
  refine keepsO_next ?_
  split
  · cases ‹RecHdr›.plan.last with
    | none => exact hs
    | some e => exact noteEnd_keeps hs (List.Subset.trans (by decide) hT)
  · split
    · exact keeps_ite (haltSolve_keeps hs (List.Subset.trans (by decide) hT)) (keeps_ite (stageEnd_keeps hs (List.Subset.trans (by decide) hT)) hs)
    · exact hs

theorem execSolveDeadline_keeps {T : List Part} {s0 : State} {s : State} (hs : Keeps T s0 s)
    (hT : [.regs, .tbl, .host, .items, .icu, .evr, .opt] ⊆ T) :
    KeepsO T s0 (execSolveDeadline s) := by
  delta execSolveDeadline
  refine keepsO_next ?_
  split
  · refine keeps_ite ?_ ?_
    · refine haltSolve_keeps ?_ (List.Subset.trans (by decide) hT)
      exact hs
    · exact hs
  · exact hs

theorem execEccUncorr_keeps {T : List Part} {s0 : State} {s : State} (hs : Keeps T s0 s)
    (hT : [.regs, .tbl, .host, .items, .icu, .evr, .opt] ⊆ T) :
    KeepsO T s0 (execEccUncorr s) := by
  delta execEccUncorr
  refine keepsO_next ?_
  refine haltSolve_keeps ?_ (List.Subset.trans (by decide) hT)
  refine raiseEv_keeps ?_ (List.Subset.trans (by decide) hT)
  refine bump_keeps ?_ (List.Subset.trans (by decide) hT)
  exact hs

theorem execDramCorrectedError_keeps {T : List Part} {s0 : State} {s : State} (hs : Keeps T s0 s)
    (hT : [.regs] ⊆ T) :
    KeepsO T s0 (execDramCorrectedError s) := by
  delta execDramCorrectedError
  refine keepsO_next ?_
  refine bump_keeps ?_ (List.Subset.trans (by decide) hT)
  exact hs

theorem execBridgeSnapshotCopy_keeps {T : List Part} {s0 : State} {mb : Nat} {s : State} (hs : Keeps T s0 s)
    (hT : [.opt] ⊆ T) :
    KeepsO T s0 (execBridgeSnapshotCopy mb s) := by
  delta execBridgeSnapshotCopy
  refine keepsO_next ?_
  split
  · exact hs
  · refine keeps_ite ?_ ?_
    · extract_lets +onlyGivenNames y1
      have hy1 : Keeps T s0 y1 := by
        unfold y1
        refine optMod_keeps ?_ (List.Subset.trans (by decide) hT)
        exact hs
      refine keeps_foldl ?_ (fun a e ha => ?_)
      · exact hy1
      · split
        · exact ha
        · split
          · refine keeps_ite ?_ ?_
            · exact ha
            · refine optMod_keeps ?_ (List.Subset.trans (by decide) hT)
              exact ha
          · refine optMod_keeps ?_ (List.Subset.trans (by decide) hT)
            exact ha
    · exact hs

theorem swapMbx_keeps {T : List Part} {s0 : State} {s : State} {n : Nat} (hs : Keeps T s0 s)
    (hT : [.mbx] ⊆ T) :
    Keeps T s0 (State.swapMbx s n) := by
  delta State.swapMbx
  refine mbxMod_keeps ?_ (List.Subset.trans (by decide) hT)
  exact hs

theorem slicePuts_keeps {T : List Part} {s0 : State} {s : State} {k : Nat} {its : List Item} (hs : Keeps T s0 s)
    (hT : [.mbx] ⊆ T) :
    Keeps T s0 (State.slicePuts s k its) := by
  delta State.slicePuts
  extract_lets +onlyGivenNames y1
  refine keeps_ite ?_ ?_
  · refine mbxPuts_keeps ?_ (List.Subset.trans (by decide) hT)
    exact hs
  · exact hs

theorem putSlice_keeps {T : List Part} {s0 : State} {s : State} (hs : Keeps T s0 s)
    (hT : [.regs, .mbx, .opt] ⊆ T) :
    Keeps T s0 (State.putSlice s) := by
  delta State.putSlice
  extract_lets +onlyGivenNames y1
  extract_lets +onlyGivenNames y2
  have hy2 : Keeps T s0 y2 := by
    unfold y2
    refine slicePuts_keeps ?_ (List.Subset.trans (by decide) hT)
    exact hs
  extract_lets +onlyGivenNames y3
  extract_lets +onlyGivenNames y4
  have hy4 : Keeps T s0 y4 := by
    unfold y4
    refine keeps_foldl ?_ (fun a e ha => ?_)
    · exact hy2
    · refine slicePuts_keeps ?_ (List.Subset.trans (by decide) hT)
      exact ha
  extract_lets +onlyGivenNames y5
  have hy5 : Keeps T s0 y5 := by
    unfold y5
    refine keeps_foldl ?_ (fun a e ha => ?_)
    · exact hy4
    · refine wr_keeps ?_ (List.Subset.trans (by decide) hT)
      exact ha
  extract_lets +onlyGivenNames y6
  have hy6 : Keeps T s0 y6 := by
    unfold y6
    refine keeps_foldl ?_ (fun a e ha => ?_)
    · exact hy5
    · refine wr_keeps ?_ (List.Subset.trans (by decide) hT)
      exact ha
  refine optMod_keeps ?_ (List.Subset.trans (by decide) hT)
  refine swapMbx_keeps ?_ (List.Subset.trans (by decide) hT)
  exact hy6

theorem planHead_keeps {T : List Part} {s0 : State} {s : State} {id : Nat} {sh : Nat} {i : Nat} (hs : Keeps T s0 s)
    (hT : [.tbl] ⊆ T) :
    Keeps T s0 (State.planHead s id sh i) := by
  delta State.planHead
  refine twr_keeps ?_ (List.Subset.trans (by decide) hT)
  refine twr_keeps ?_ (List.Subset.trans (by decide) hT)
  exact hs

theorem putPlan_keeps {T : List Part} {s0 : State} {s : State} {id : Nat} {t0 : Nat} {clock : Int} {ofs : Int} {summary : List Word} (hs : Keeps T s0 s)
    (hT : [.regs, .tbl, .mbx, .opt] ⊆ T) :
    Keeps T s0 (State.putPlan s id t0 clock ofs summary) := by
  delta State.putPlan
  extract_lets +onlyGivenNames y1
  extract_lets +onlyGivenNames y2
  have hy2 : Keeps T s0 y2 := by
    unfold y2
    refine trecSet_keeps ?_ (List.Subset.trans (by decide) hT)
    refine tclear_keeps ?_ (List.Subset.trans (by decide) hT)
    exact hs
  extract_lets +onlyGivenNames y3
  extract_lets +onlyGivenNames y4
  have hy4 : Keeps T s0 y4 := by
    unfold y4
    refine keeps_foldl ?_ (fun a e ha => ?_)
    · exact hy2
    · refine wr_keeps ?_ (List.Subset.trans (by decide) hT)
      exact ha
  refine putSlice_keeps ?_ (List.Subset.trans (by decide) hT)
  refine optMod_keeps ?_ (List.Subset.trans (by decide) hT)
  refine setF_keeps ?_ (List.Subset.trans (by decide) hT)
  exact hy4

theorem publishPlan_keeps {T : List Part} {s0 : State} {s : State} {r : SolveSt} {d : PlanOut} (hs : Keeps T s0 s)
    (hT : [.regs, .tbl, .mbx, .opt] ⊆ T) :
    Keeps T s0 (State.publishPlan s r d) := by
  delta State.publishPlan
  extract_lets +onlyGivenNames y1
  extract_lets +onlyGivenNames y2
  extract_lets +onlyGivenNames y3
  have hy3 : Keeps T s0 y3 := by
    unfold y3
    refine keeps_foldl ?_ (fun a e ha => ?_)
    · refine tclear_keeps ?_ (List.Subset.trans (by decide) hT)
      exact hs
    · refine planHead_keeps ?_ (List.Subset.trans (by decide) hT)
      refine trecSet_keeps ?_ (List.Subset.trans (by decide) hT)
      exact ha
  extract_lets +onlyGivenNames y4
  extract_lets +onlyGivenNames y5
  extract_lets +onlyGivenNames y6
  have hy6 : Keeps T s0 y6 := by
    unfold y6
    refine putPlan_keeps ?_ (List.Subset.trans (by decide) hT)
    refine optMod_keeps ?_ (List.Subset.trans (by decide) hT)
    refine setF_keeps ?_ (List.Subset.trans (by decide) hT)
    refine wr_keeps ?_ (List.Subset.trans (by decide) hT)
    exact hy3
  extract_lets +onlyGivenNames y7
  refine optMod_keeps ?_ (List.Subset.trans (by decide) hT)
  exact hy6

theorem publishRec_keeps {T : List Part} {s0 : State} {s : State} {d : PlanPub} (hs : Keeps T s0 s)
    (hT : [.regs, .tbl, .mbx, .opt] ⊆ T) :
    Keeps T s0 (State.publishRec s d) := by
  delta State.publishRec
  extract_lets +onlyGivenNames y1
  extract_lets +onlyGivenNames y2
  extract_lets +onlyGivenNames y3
  have hy3 : Keeps T s0 y3 := by
    unfold y3
    refine keeps_foldl ?_ (fun a e ha => ?_)
    · refine tclear_keeps ?_ (List.Subset.trans (by decide) hT)
      exact hs
    · extract_lets +onlyGivenNames y4
      refine twr_keeps ?_ (List.Subset.trans (by decide) hT)
      refine twr_keeps ?_ (List.Subset.trans (by decide) hT)
      refine trecSet_keeps ?_ (List.Subset.trans (by decide) hT)
      exact ha
  refine putPlan_keeps ?_ (List.Subset.trans (by decide) hT)
  refine keeps_foldl ?_ (fun a e ha => ?_)
  · exact hy3
  · refine trecSet_keeps ?_ (List.Subset.trans (by decide) hT)
    exact ha

theorem ageReg_keeps {T : List Part} {s0 : State} {s : State} (hs : Keeps T s0 s)
    (hT : [.regs] ⊆ T) :
    Keeps T s0 (State.ageReg s) := by
  delta State.ageReg
  split
  · exact hs
  · refine wr_keeps ?_ (List.Subset.trans (by decide) hT)
    exact hs

theorem enterFallback_keeps {T : List Part} {s0 : State} {s : State} (hs : Keeps T s0 s)
    (hT : [.regs, .tbl, .items, .icu, .evr, .opt] ⊆ T) :
    Keeps T s0 (State.enterFallback s) := by
  delta State.enterFallback
  refine keeps_ite ?_ ?_
  · exact hs
  · refine raiseEv_keeps ?_ (List.Subset.trans (by decide) hT)
    refine bump_keeps ?_ (List.Subset.trans (by decide) hT)
    refine optMod_keeps ?_ (List.Subset.trans (by decide) hT)
    refine setB_keeps ?_ (List.Subset.trans (by decide) hT)
    exact hs

theorem endFallback_keeps {T : List Part} {s0 : State} {s : State} (hs : Keeps T s0 s)
    (hT : [.regs, .tbl, .items, .icu, .evr] ⊆ T) :
    Keeps T s0 (State.endFallback s) := by
  delta State.endFallback
  refine keeps_ite ?_ ?_
  · exact hs
  · refine raiseEv_keeps ?_ (List.Subset.trans (by decide) hT)
    refine setB_keeps ?_ (List.Subset.trans (by decide) hT)
    exact hs

theorem published_keeps {T : List Part} {s0 : State} {s : State} (hs : Keeps T s0 s)
    (hT : [.regs, .tbl, .items, .icu, .evr] ⊆ T) :
    Keeps T s0 (State.published s) := by
  delta State.published
  refine ageReg_keeps ?_ (List.Subset.trans (by decide) hT)
  refine endFallback_keeps ?_ (List.Subset.trans (by decide) hT)
  refine raiseEv_keeps ?_ (List.Subset.trans (by decide) hT)
  refine bump_keeps ?_ (List.Subset.trans (by decide) hT)
  exact hs

theorem planPub_keeps {T : List Part} {s0 : State} {s : State} (hs : Keeps T s0 s)
    (hT : [.regs, .tbl, .mbx, .host, .items, .icu, .evr, .opt] ⊆ T) :
    Keeps T s0 (planPub s) := by
  delta planPub
  split
  · extract_lets +onlyGivenNames y1
    have hy1 : Keeps T s0 y1 := by
      unfold y1
      split
      · refine published_keeps ?_ (List.Subset.trans (by decide) hT)
        refine publishRec_keeps ?_ (List.Subset.trans (by decide) hT)
        exact hs
      · exact hs
    refine keeps_foldl ?_ (fun a e ha => ?_)
    · exact hy1
    · refine trecSet_keeps ?_ (List.Subset.trans (by decide) hT)
      exact ha
  · split
    · extract_lets +onlyGivenNames y2
      have hy2 : Keeps T s0 y2 := by
        unfold y2
        refine optEnded_keeps ?_ (List.Subset.trans (by decide) hT)
        refine published_keeps ?_ (List.Subset.trans (by decide) hT)
        refine publishPlan_keeps ?_ (List.Subset.trans (by decide) hT)
        exact hs
      split
      · refine complete_keeps ?_ (List.Subset.trans (by decide) hT)
        exact hy2
      · exact hy2
    · exact hs

theorem execPlanPub_keeps {T : List Part} {s0 : State} {s : State} (hs : Keeps T s0 s)
    (hT : [.regs, .vis, .tbl, .mbx, .host, .items, .icu, .evr, .opt] ⊆ T) :
    KeepsO T s0 (execPlanPub s) := by
  delta execPlanPub
  refine keepsO_next ?_
  refine andShown_keeps ?_ ?_ (List.Subset.trans (by decide) hT)
  · exact hs
  · refine planPub_keeps ?_ (List.Subset.trans (by decide) hT)
    exact hs

theorem stepHistory_keeps {T : List Part} {s0 : State} {s : State} (hs : Keeps T s0 s)
    (hT : [.opt] ⊆ T) :
    Keeps T s0 (State.stepHistory s) := by
  delta State.stepHistory
  extract_lets +onlyGivenNames y1
  extract_lets +onlyGivenNames y2
  extract_lets +onlyGivenNames y3
  refine optMod_keeps ?_ (List.Subset.trans (by decide) hT)
  exact hs

theorem execPlanShift_keeps {T : List Part} {s0 : State} {s : State} (hs : Keeps T s0 s)
    (hT : [.regs, .vis, .mbx, .opt] ⊆ T) :
    KeepsO T s0 (execPlanShift s) := by
  delta execPlanShift
  refine keepsO_next ?_
  refine andShown_keeps ?_ ?_ (List.Subset.trans (by decide) hT)
  · exact hs
  · refine keeps_ite ?_ ?_
    · exact hs
    · extract_lets +onlyGivenNames y1
      have hy1 : Keeps T s0 y1 := by
        unfold y1
        refine optMod_keeps ?_ (List.Subset.trans (by decide) hT)
        refine stepHistory_keeps ?_ (List.Subset.trans (by decide) hT)
        exact hs
      extract_lets +onlyGivenNames y2
      refine keeps_ite ?_ ?_
      · exact hy1
      · refine putSlice_keeps ?_ (List.Subset.trans (by decide) hT)
        refine setF_keeps ?_ (List.Subset.trans (by decide) hT)
        exact hy1

theorem execFallbackAgeExpire_keeps {T : List Part} {s0 : State} {s : State} (hs : Keeps T s0 s)
    (hT : [.regs, .vis, .tbl, .items, .icu, .evr, .opt] ⊆ T) :
    KeepsO T s0 (execFallbackAgeExpire s) := by
  delta execFallbackAgeExpire
  refine keepsO_next ?_
  refine andShown_keeps ?_ ?_ (List.Subset.trans (by decide) hT)
  · exact hs
  · split
    · exact hs
    · refine keeps_ite ?_ ?_
      · refine enterFallback_keeps ?_ (List.Subset.trans (by decide) hT)
        exact hs
      · exact hs

theorem optFallbackCmd_keeps {T : List Part} {s0 : State} {s : State} (hs : Keeps T s0 s)
    (hT : [.regs, .tbl, .items, .icu, .evr, .opt] ⊆ T) :
    Keeps T s0 (optFallbackCmd s) := by
  delta optFallbackCmd
  refine optMod_keeps ?_ (List.Subset.trans (by decide) hT)
  refine enterFallback_keeps ?_ (List.Subset.trans (by decide) hT)
  exact hs

theorem execFallback_keeps {T : List Part} {s0 : State} {s : State} (hs : Keeps T s0 s)
    (hT : [.regs, .tbl, .items, .icu, .evr, .opt] ⊆ T) :
    KeepsO T s0 (execFallback s) := by
  delta execFallback
  refine keepsO_next ?_
  refine optFallbackCmd_keeps ?_ (List.Subset.trans (by decide) hT)
  exact hs

theorem actSolve_keeps {T : List Part} {s0 : State} {s : State} {c : HCmd} (hs : Keeps T s0 s)
    (hT : [.regs, .host, .items, .opt] ⊆ T) :
    Keeps T s0 (State.actSolve s c) := by
  delta State.actSolve
  refine keeps_ite ?_ ?_
  · refine complete_keeps ?_ (List.Subset.trans (by decide) hT)
    refine optEnded_keeps ?_ (List.Subset.trans (by decide) hT)
    exact hs
  · refine optMod_keeps ?_ (List.Subset.trans (by decide) hT)
    exact hs

theorem actAbort_keeps {T : List Part} {s0 : State} {s : State} {c : HCmd} (hs : Keeps T s0 s)
    (hT : [.regs, .tbl, .host, .items, .icu, .evr, .opt] ⊆ T) :
    Keeps T s0 (State.actAbort s c) := by
  delta State.actAbort
  extract_lets +onlyGivenNames y1
  extract_lets +onlyGivenNames y2
  split
  · extract_lets +onlyGivenNames y3
    refine keeps_ite ?_ ?_
    · refine keeps_ite ?_ ?_
      · refine complete_keeps ?_ (List.Subset.trans (by decide) hT)
        exact hs
      · refine complete_keeps ?_ (List.Subset.trans (by decide) hT)
        refine haltSolve_keeps ?_ (List.Subset.trans (by decide) hT)
        exact hs
    · refine keeps_ite ?_ ?_
      · refine complete_keeps ?_ (List.Subset.trans (by decide) hT)
        exact hs
      · refine complete_keeps ?_ (List.Subset.trans (by decide) hT)
        exact hs
  · split
    · refine keeps_ite ?_ ?_
      · refine complete_keeps ?_ (List.Subset.trans (by decide) hT)
        exact hs
      · refine keeps_ite ?_ ?_
        · refine complete_keeps ?_ (List.Subset.trans (by decide) hT)
          refine complete_keeps ?_ (List.Subset.trans (by decide) hT)
          refine optEnded_keeps ?_ (List.Subset.trans (by decide) hT)
          refine bump_keeps ?_ (List.Subset.trans (by decide) hT)
          refine optMod_keeps ?_ (List.Subset.trans (by decide) hT)
          exact hs
        · refine keeps_ite ?_ ?_
          · refine complete_keeps ?_ (List.Subset.trans (by decide) hT)
            exact hs
          · refine complete_keeps ?_ (List.Subset.trans (by decide) hT)
            exact hs
    · refine keeps_ite ?_ ?_
      · refine complete_keeps ?_ (List.Subset.trans (by decide) hT)
        exact hs
      · refine keeps_ite ?_ ?_
        · refine complete_keeps ?_ (List.Subset.trans (by decide) hT)
          exact hs
        · refine complete_keeps ?_ (List.Subset.trans (by decide) hT)
          exact hs

theorem execOptVerify_keeps {T : List Part} {s0 : State} {s : State} (hs : Keeps T s0 s)
    (hT : [.regs] ⊆ T) :
    KeepsO T s0 (execOptVerify s) := by
  delta execOptVerify
  refine keepsO_next ?_
  refine bankVerify_keeps ?_ (List.Subset.trans (by decide) hT)
  exact hs

theorem execOptSwitch_keeps {T : List Part} {s0 : State} {s : State} (hs : Keeps T s0 s)
    (hT : [.regs] ⊆ T) :
    KeepsO T s0 (execOptSwitch s) := by
  delta execOptSwitch
  refine keepsO_next ?_
  refine bankSwitch_keeps ?_ (List.Subset.trans (by decide) hT)
  exact hs

theorem execOptCancel_keeps {T : List Part} {s0 : State} {s : State} (hs : Keeps T s0 s)
    (hT : [.regs] ⊆ T) :
    KeepsO T s0 (execOptCancel s) := by
  delta execOptCancel
  refine keepsO_next ?_
  refine bankCancel_keeps ?_ (List.Subset.trans (by decide) hT)
  exact hs

theorem execOptVerifyEnd_keeps {T : List Part} {s0 : State} {s : State} (hs : Keeps T s0 s)
    (hT : [.regs, .tbl, .items, .icu, .evr] ⊆ T) :
    KeepsO T s0 (execOptVerifyEnd s) := by
  delta execOptVerifyEnd
  refine keepsO_next ?_
  refine keeps_ite ?_ ?_
  · exact hs
  · split
    · refine bankFail_keeps ?_ (List.Subset.trans (by decide) hT)
      exact hs
    · refine bankPass_keeps ?_ (List.Subset.trans (by decide) hT)
      exact hs

theorem optCounts_keeps {T : List Part} {s0 : State} {s : State} (hs : Keeps T s0 s)
    (hT : [.regs] ⊆ T) :
    Keeps T s0 (State.optCounts s) := by
  delta State.optCounts
  refine wr_keeps ?_ (List.Subset.trans (by decide) hT)
  refine wr_keeps ?_ (List.Subset.trans (by decide) hT)
  exact hs

theorem execOptBankSwitch_keeps {T : List Part} {s0 : State} {s : State} (hs : Keeps T s0 s)
    (hT : [.regs, .vis, .tbl, .host, .items, .icu, .evr, .opt] ⊆ T) :
    KeepsO T s0 (execOptBankSwitch s) := by
  delta execOptBankSwitch
  refine keepsO_next ?_
  refine andShown_keeps ?_ ?_ (List.Subset.trans (by decide) hT)
  · exact hs
  · refine keeps_ite ?_ ?_
    · extract_lets +onlyGivenNames y1
      have hy1 : Keeps T s0 y1 := by
        unfold y1
        refine haltSolve_keeps ?_ (List.Subset.trans (by decide) hT)
        refine bankExchange_keeps ?_ (List.Subset.trans (by decide) hT)
        exact hs
      refine raiseEv_keeps ?_ (List.Subset.trans (by decide) hT)
      refine optCounts_keeps ?_ (List.Subset.trans (by decide) hT)
      exact hy1
    · exact hs

theorem optSoftReset_keeps {T : List Part} {s0 : State} {s : State} (hs : Keeps T s0 s)
    (hT : [.regs, .tbl, .host, .items, .icu, .evr, .opt] ⊆ T) :
    Keeps T s0 (optSoftReset s) := by
  delta optSoftReset
  refine bankSoftReset_keeps ?_ (List.Subset.trans (by decide) hT)
  refine keeps_ite ?_ ?_
  · refine haltSolve_keeps ?_ (List.Subset.trans (by decide) hT)
    exact hs
  · refine wr_keeps ?_ (List.Subset.trans (by decide) hT)
    exact hs

theorem optTableWrite_keeps {T : List Part} {s0 : State} {tid : Nat} {idx : Nat} {ws : List Word} {s : State} (hs : Keeps T s0 s)
    (hT : [.regs, .tbl, .items, .icu, .evr] ⊆ T) :
    Keeps T s0 (optTableWrite tid idx ws s).1 := by
  delta optTableWrite
  split
  · refine keeps_fst ?_
    exact hs
  · refine keeps_iteP ?_ ?_
    · refine keeps_iteP ?_ ?_
      · refine keeps_fst ?_
        exact hs
      · refine keeps_fst ?_
        refine bankWritten_keeps ?_ (List.Subset.trans (by decide) hT)
        refine writeRecord_keeps ?_ (List.Subset.trans (by decide) hT)
        exact hs
    · refine keeps_fst ?_
      refine writeRecord_keeps ?_ (List.Subset.trans (by decide) hT)
      exact hs

end Sys2Proof.Machine
end

