-- ==== Sys2Proof/Laws/KeepPower.lean ====
section
/-! SUPPORT. What each operation of Machine/Power.lean keeps: the canonical form, the queue, and the parts it does not name. -/

namespace Sys2Proof.Machine

theorem pwrMod_keeps {T : List Part} {s0 : State} {s : State} {f : PwrSt → PwrSt} (hs : Keeps T s0 s)
    (hT : [.pwr] ⊆ T) :
    Keeps T s0 (State.pwrMod s f) := by
  delta State.pwrMod
  refine keeps_pwr ?_ (List.Subset.trans (by decide) hT)
  exact hs

theorem execUndervolt_keeps {T : List Part} {s0 : State} {mv : Nat} {s : State} (hs : Keeps T s0 s)
    (hT : [.regs, .tbl, .items, .icu, .evr] ⊆ T) :
    KeepsO T s0 (execUndervolt mv s) := by
  delta execUndervolt
  refine keepsO_next ?_
  refine keeps_ite ?_ ?_
  · refine raiseEv_keeps ?_ (List.Subset.trans (by decide) hT)
    refine setB_keeps ?_ (List.Subset.trans (by decide) hT)
    exact hs
  · exact hs

theorem execOvervolt_keeps {T : List Part} {s0 : State} {mv : Nat} {s : State} (hs : Keeps T s0 s)
    (hT : [.regs, .tbl, .items, .icu, .evr] ⊆ T) :
    KeepsO T s0 (execOvervolt mv s) := by
  delta execOvervolt
  refine keepsO_next ?_
  refine keeps_ite ?_ ?_
  · refine bump_keeps ?_ (List.Subset.trans (by decide) hT)
    refine raiseEv_keeps ?_ (List.Subset.trans (by decide) hT)
    refine setB_keeps ?_ (List.Subset.trans (by decide) hT)
    exact hs
  · exact hs

theorem execBallastLow_keeps {T : List Part} {s0 : State} {mv : Nat} {s : State} (hs : Keeps T s0 s)
    (hT : [.regs, .tbl, .items, .icu, .evr] ⊆ T) :
    KeepsO T s0 (execBallastLow mv s) := by
  delta execBallastLow
  refine keepsO_next ?_
  refine keeps_ite ?_ ?_
  · refine raiseEv_keeps ?_ (List.Subset.trans (by decide) hT)
    refine setB_keeps ?_ (List.Subset.trans (by decide) hT)
    exact hs
  · exact hs

theorem supplyTick_keeps {T : List Part} {s0 : State} {s : State} {vin : Nat} {ballast : Nat} {power : Nat} (hs : Keeps T s0 s)
    (hT : [.regs] ⊆ T) :
    Keeps T s0 (State.supplyTick s vin ballast power) := by
  delta State.supplyTick
  extract_lets +onlyGivenNames y1
  have hy1 : Keeps T s0 y1 := by
    unfold y1
    refine wr_keeps ?_ (List.Subset.trans (by decide) hT)
    refine wr_keeps ?_ (List.Subset.trans (by decide) hT)
    refine wr_keeps ?_ (List.Subset.trans (by decide) hT)
    exact hs
  extract_lets +onlyGivenNames y2
  have hy2 : Keeps T s0 y2 := by
    unfold y2
    refine keeps_ite ?_ ?_
    · refine wr_keeps ?_ (List.Subset.trans (by decide) hT)
      exact hy1
    · exact hy1
  extract_lets +onlyGivenNames y3
  have hy3 : Keeps T s0 y3 := by
    unfold y3
    refine keeps_ite ?_ ?_
    · refine wr_keeps ?_ (List.Subset.trans (by decide) hT)
      exact hy2
    · exact hy2
  extract_lets +onlyGivenNames y4
  have hy4 : Keeps T s0 y4 := by
    unfold y4
    refine keeps_ite ?_ ?_
    · refine setB_keeps ?_ (List.Subset.trans (by decide) hT)
      exact hy3
    · exact hy3
  extract_lets +onlyGivenNames y5
  have hy5 : Keeps T s0 y5 := by
    unfold y5
    refine keeps_ite ?_ ?_
    · refine setB_keeps ?_ (List.Subset.trans (by decide) hT)
      exact hy4
    · exact hy4
  refine keeps_ite ?_ ?_
  · refine setB_keeps ?_ (List.Subset.trans (by decide) hT)
    exact hy5
  · exact hy5

theorem shedLoads_keeps {T : List Part} {s0 : State} {s : State} (hs : Keeps T s0 s)
    (hT : [.regs, .tbl, .host, .items, .icu, .evr, .opt, .snet] ⊆ T) :
    Keeps T s0 (State.shedLoads s) := by
  delta State.shedLoads
  extract_lets +onlyGivenNames y1
  have hy1 : Keeps T s0 y1 := by
    unfold y1
    refine setB_keeps ?_ (List.Subset.trans (by decide) hT)
    refine optHalt_keeps ?_ (List.Subset.trans (by decide) hT)
    exact hs
  refine aoutStat_keeps ?_ (List.Subset.trans (by decide) hT)
  refine keeps_foldl ?_ (fun a e ha => ?_)
  · exact hy1
  · refine lineDown_keeps ?_ (List.Subset.trans (by decide) hT)
    exact ha

theorem execPowerFail_keeps {T : List Part} {s0 : State} {ns : Nat} {shedUs : Nat} {s : State} (hs : Keeps T s0 s)
    (hT : [.regs, .tbl, .host, .items, .icu, .evr, .opt, .snet, .metNv, .pwr] ⊆ T) :
    KeepsO T s0 (execPowerFail ns shedUs s) := by
  delta execPowerFail
  refine keepsO_next ?_
  refine keeps_ite ?_ ?_
  · exact hs
  · extract_lets +onlyGivenNames y1
    have hy1 : Keeps T s0 y1 := by
      unfold y1
      refine setB_keeps ?_ (List.Subset.trans (by decide) hT)
      refine pwrMod_keeps ?_ (List.Subset.trans (by decide) hT)
      exact hs
    extract_lets +onlyGivenNames y2
    have hy2 : Keeps T s0 y2 := by
      unfold y2
      refine wr_keeps ?_ (List.Subset.trans (by decide) hT)
      refine raiseEv_keeps ?_ (List.Subset.trans (by decide) hT)
      refine bump_keeps ?_ (List.Subset.trans (by decide) hT)
      exact hy1
    extract_lets +onlyGivenNames y3
    have hy3 : Keeps T s0 y3 := by
      unfold y3
      refine tkeep_keeps ?_ (List.Subset.trans (by decide) hT)
      refine setB_keeps ?_ (List.Subset.trans (by decide) hT)
      exact hy2
    extract_lets +onlyGivenNames y4
    have hy4 : Keeps T s0 y4 := by
      unfold y4
      refine setF_keeps ?_ (List.Subset.trans (by decide) hT)
      refine metNvMod_keeps ?_ (List.Subset.trans (by decide) hT)
      exact hy3
    refine shedLoads_keeps ?_ (List.Subset.trans (by decide) hT)
    exact hy4

theorem metPowerOff_keeps {T : List Part} {s0 : State} {s : State} (hs : Keeps T s0 s)
    (hT : [.met] ⊆ T) :
    Keeps T s0 (State.metPowerOff s) := by
  delta State.metPowerOff
  refine metMod_keeps ?_ (List.Subset.trans (by decide) hT)
  exact hs

theorem lastGasp_keeps {T : List Part} {s0 : State} {s : State} {ok : Bool} (hs : Keeps T s0 s)
    (hT : [.regs, .metNv] ⊆ T) :
    Keeps T s0 (State.lastGasp s ok) := by
  delta State.lastGasp
  extract_lets +onlyGivenNames y1
  extract_lets +onlyGivenNames y2
  have hy2 : Keeps T s0 y2 := by
    unfold y2
    refine metNvMod_keeps ?_ (List.Subset.trans (by decide) hT)
    exact hs
  refine keeps_ite ?_ ?_
  · refine wr_keeps ?_ (List.Subset.trans (by decide) hT)
    exact hy2
  · exact hy2

theorem execPfSnapshot_keeps {T : List Part} {s0 : State} {commit : Nat} {ok : Bool} {s : State} (hs : Keeps T s0 s)
    (hT : [.regs, .vis, .met, .metNv, .pwr] ⊆ T) :
    KeepsO T s0 (execPfSnapshot commit ok s) := by
  delta execPfSnapshot
  refine keepsO_next ?_
  refine andShown_keeps ?_ ?_ (List.Subset.trans (by decide) hT)
  · exact hs
  · split
    · exact hs
    · refine keeps_ite ?_ ?_
      · exact hs
      · extract_lets +onlyGivenNames y1
        extract_lets +onlyGivenNames y2
        have hy2 : Keeps T s0 y2 := by
          unfold y2
          refine metPowerOff_keeps ?_ (List.Subset.trans (by decide) hT)
          refine lastGasp_keeps ?_ (List.Subset.trans (by decide) hT)
          exact hs
        extract_lets +onlyGivenNames y3
        have hy3 : Keeps T s0 y3 := by
          unfold y3
          refine metNvMod_keeps ?_ (List.Subset.trans (by decide) hT)
          exact hy2
        extract_lets +onlyGivenNames y4
        have hy4 : Keeps T s0 y4 := by
          unfold y4
          refine setF_keeps ?_ (List.Subset.trans (by decide) hT)
          exact hy3
        refine aoutStat_keeps ?_ (List.Subset.trans (by decide) hT)
        refine pwrMod_keeps ?_ (List.Subset.trans (by decide) hT)
        exact hy4

theorem execPowerRestored_keeps {T : List Part} {s0 : State} {ns : Nat} {s : State} (hs : Keeps T s0 s)
    (hT : [.regs, .tbl, .items, .icu, .evr, .pwr] ⊆ T) :
    KeepsO T s0 (execPowerRestored ns s) := by
  delta execPowerRestored
  refine keepsO_next ?_
  split
  · exact hs
  · refine keeps_ite ?_ ?_
    · exact hs
    · extract_lets +onlyGivenNames y1
      have hy1 : Keeps T s0 y1 := by
        unfold y1
        refine setB_keeps ?_ (List.Subset.trans (by decide) hT)
        refine pwrMod_keeps ?_ (List.Subset.trans (by decide) hT)
        exact hs
      refine raiseEv_keeps ?_ (List.Subset.trans (by decide) hT)
      refine bump_keeps ?_ (List.Subset.trans (by decide) hT)
      refine aoutStat_keeps ?_ (List.Subset.trans (by decide) hT)
      refine setB_keeps ?_ (List.Subset.trans (by decide) hT)
      exact hy1

theorem clkConsequence_keeps {T : List Part} {s0 : State} {d : Nat} {s : State} (hs : Keeps T s0 s)
    (hT : [.regs, .tbl, .host, .items, .icu, .evr, .opt, .snet, .can, .dio, .adc, .met, .dev] ⊆ T) :
    Keeps T s0 (clkConsequence d s) := by
  delta clkConsequence
  refine keeps_ite ?_ ?_
  · refine enterFault_keeps ?_ (List.Subset.trans (by decide) hT)
    exact hs
  · refine keeps_ite ?_ ?_
    · refine optHalt_keeps ?_ (List.Subset.trans (by decide) hT)
      exact hs
    · refine keeps_ite ?_ ?_
      · refine lineDown_keeps ?_ (List.Subset.trans (by decide) hT)
        exact hs
      · refine keeps_ite ?_ ?_
        · refine lineDown_keeps ?_ (List.Subset.trans (by decide) hT)
          refine lineDown_keeps ?_ (List.Subset.trans (by decide) hT)
          exact hs
        · refine keeps_ite ?_ ?_
          · refine lineDown_keeps ?_ (List.Subset.trans (by decide) hT)
            exact hs
          · refine keeps_ite ?_ ?_
            · refine privMove_keeps ?_ (List.Subset.trans (by decide) hT)
              exact hs
            · refine keeps_ite ?_ ?_
              · refine modClkLost_keeps ?_ (List.Subset.trans (by decide) hT)
                exact hs
              · refine keeps_ite ?_ ?_
                · refine adcClkLost_keeps ?_ (List.Subset.trans (by decide) hT)
                  exact hs
                · refine keeps_ite ?_ ?_
                  · refine raiseEv_keeps ?_ (List.Subset.trans (by decide) hT)
                    refine bump_keeps ?_ (List.Subset.trans (by decide) hT)
                    refine setB_keeps ?_ (List.Subset.trans (by decide) hT)
                    exact hs
                  · exact hs

theorem execLockLost_keeps {T : List Part} {s0 : State} {d : Nat} {s : State} (hs : Keeps T s0 s)
    (hT : [.regs, .tbl, .host, .items, .icu, .evr, .opt, .snet, .can, .dio, .adc, .met, .dev] ⊆ T) :
    KeepsO T s0 (execLockLost d s) := by
  delta execLockLost
  refine keepsO_next ?_
  refine keeps_ite ?_ ?_
  · refine enterFault_keeps ?_ (List.Subset.trans (by decide) hT)
    refine raiseEv_keeps ?_ (List.Subset.trans (by decide) hT)
    exact hs
  · refine keeps_ite ?_ ?_
    · exact hs
    · extract_lets +onlyGivenNames y1
      have hy1 : Keeps T s0 y1 := by
        unfold y1
        refine bump_keeps ?_ (List.Subset.trans (by decide) hT)
        refine setB_keeps ?_ (List.Subset.trans (by decide) hT)
        refine setB_keeps ?_ (List.Subset.trans (by decide) hT)
        exact hs
      refine clkConsequence_keeps ?_ (List.Subset.trans (by decide) hT)
      refine raiseEv_keeps ?_ (List.Subset.trans (by decide) hT)
      exact hy1

theorem execLockRegained_keeps {T : List Part} {s0 : State} {d : Nat} {s : State} (hs : Keeps T s0 s)
    (hT : [.regs, .tbl, .items, .icu, .evr, .can] ⊆ T) :
    KeepsO T s0 (execLockRegained d s) := by
  delta execLockRegained
  refine keepsO_next ?_
  refine keeps_ite ?_ ?_
  · exact hs
  · extract_lets +onlyGivenNames y1
    have hy1 : Keeps T s0 y1 := by
      unfold y1
      refine raiseEv_keeps ?_ (List.Subset.trans (by decide) hT)
      refine setB_keeps ?_ (List.Subset.trans (by decide) hT)
      exact hs
    refine keeps_ite ?_ ?_
    · refine canMod_keeps ?_ (List.Subset.trans (by decide) hT)
      exact hy1
    · refine keeps_ite ?_ ?_
      · refine modClkBack_keeps ?_ (List.Subset.trans (by decide) hT)
        exact hy1
      · refine keeps_ite ?_ ?_
        · refine adcClkBack_keeps ?_ (List.Subset.trans (by decide) hT)
          exact hy1
        · refine keeps_ite ?_ ?_
          · refine setB_keeps ?_ (List.Subset.trans (by decide) hT)
            exact hy1
          · exact hy1

end Sys2Proof.Machine
end

