-- ==== Sys2Proof/Laws/KeepTwin.lean ====
section
/-! SUPPORT. What each operation of Machine/Twin.lean keeps: the canonical form, the queue, and the parts it does not name. -/

namespace Sys2Proof.Machine

theorem twinMod_keeps {T : List Part} {s0 : State} {s : State} {f : TwinSt → TwinSt} (hs : Keeps T s0 s)
    (hT : [.twin] ⊆ T) :
    Keeps T s0 (State.twinMod s f) := by
  delta State.twinMod
  refine keeps_twin ?_ (List.Subset.trans (by decide) hT)
  exact hs

theorem closeService_keeps {T : List Part} {s0 : State} {s : State} (hs : Keeps T s0 s)
    (hT : [.regs, .tbl, .host, .items, .icu, .evr] ⊆ T) :
    Keeps T s0 (State.closeService s) := by
  delta State.closeService
  refine keeps_foldl ?_ (fun a e ha => ?_)
  · exact hs
  · refine closeSess_keeps ?_ (List.Subset.trans (by decide) hT)
    exact ha

theorem outOfStep_keeps {T : List Part} {s0 : State} {s : State} (hs : Keeps T s0 s)
    (hT : [.twin] ⊆ T) :
    Keeps T s0 (State.outOfStep s) := by
  delta State.outOfStep
  refine twinMod_keeps ?_ (List.Subset.trans (by decide) hT)
  exact hs

theorem joinFail_keeps {T : List Part} {s0 : State} {s : State} {code : Nat} (hs : Keeps T s0 s)
    (hT : [.regs, .tbl, .items, .icu, .evr, .twin, .segs] ⊆ T) :
    Keeps T s0 (State.joinFail s code) := by
  delta State.joinFail
  refine keeps_ite ?_ ?_
  · exact hs
  · extract_lets +onlyGivenNames y1
    have hy1 : Keeps T s0 y1 := by
      unfold y1
      refine raiseEv_keeps ?_ (List.Subset.trans (by decide) hT)
      refine bump_keeps ?_ (List.Subset.trans (by decide) hT)
      refine setF_keeps ?_ (List.Subset.trans (by decide) hT)
      exact hs
    extract_lets +onlyGivenNames y2
    have hy2 : Keeps T s0 y2 := by
      unfold y2
      refine keeps_segs ?_ (List.Subset.trans (by decide) hT)
      exact hy1
    refine twinMod_keeps ?_ (List.Subset.trans (by decide) hT)
    exact hy2

theorem recLost_keeps {T : List Part} {s0 : State} {s : State} (hs : Keeps T s0 s)
    (hT : [.regs, .tbl, .items, .icu, .evr, .twin, .segs] ⊆ T) :
    Keeps T s0 (State.recLost s) := by
  delta State.recLost
  extract_lets +onlyGivenNames y1
  have hy1 : Keeps T s0 y1 := by
    unfold y1
    refine keeps_ite ?_ ?_
    · refine outOfStep_keeps ?_ (List.Subset.trans (by decide) hT)
      refine raiseEv_keeps ?_ (List.Subset.trans (by decide) hT)
      refine bump_keeps ?_ (List.Subset.trans (by decide) hT)
      exact hs
    · exact hs
  refine joinFail_keeps ?_ (List.Subset.trans (by decide) hT)
  exact hy1

theorem park_keeps {T : List Part} {s0 : State} {s : State} {reason : Nat} (hs : Keeps T s0 s)
    (hT : [.regs, .tbl, .host, .items, .icu, .evr, .opt, .twin] ⊆ T) :
    Keeps T s0 (State.park s reason) := by
  delta State.park
  extract_lets +onlyGivenNames y1
  have hy1 : Keeps T s0 y1 := by
    unfold y1
    refine raiseEv_keeps ?_ (List.Subset.trans (by decide) hT)
    refine goto_keeps ?_ (List.Subset.trans (by decide) hT)
    refine setF_keeps ?_ (List.Subset.trans (by decide) hT)
    exact hs
  refine twinMod_keeps ?_ (List.Subset.trans (by decide) hT)
  refine outOfStep_keeps ?_ (List.Subset.trans (by decide) hT)
  refine closeService_keeps ?_ (List.Subset.trans (by decide) hT)
  refine dropSolve_keeps ?_ (List.Subset.trans (by decide) hT)
  exact hy1

theorem standDown_keeps {T : List Part} {s0 : State} {s : State} (hs : Keeps T s0 s)
    (hT : [.regs, .tbl, .host, .items, .icu, .evr, .time, .opt, .lnch, .twin] ⊆ T) :
    Keeps T s0 (State.standDown s) := by
  delta State.standDown
  extract_lets +onlyGivenNames y1
  have hy1 : Keeps T s0 y1 := by
    unfold y1
    refine outOfStep_keeps ?_ (List.Subset.trans (by decide) hT)
    refine closeService_keeps ?_ (List.Subset.trans (by decide) hT)
    refine dropSolve_keeps ?_ (List.Subset.trans (by decide) hT)
    refine standbyHold_keeps ?_ (List.Subset.trans (by decide) hT)
    refine goto_keeps ?_ (List.Subset.trans (by decide) hT)
    exact hs
  refine twinMod_keeps ?_ (List.Subset.trans (by decide) hT)
  refine keeps_lnch ?_ (List.Subset.trans (by decide) hT)
  exact hy1

theorem standbyQuality_keeps {T : List Part} {s0 : State} {s : State} {q : Nat} (hs : Keeps T s0 s)
    (hT : [.regs, .tbl, .items, .icu, .evr, .time] ⊆ T) :
    Keeps T s0 (State.standbyQuality s q) := by
  delta State.standbyQuality
  refine keeps_ite ?_ ?_
  · exact hs
  · refine setQuality_keeps ?_ (List.Subset.trans (by decide) hT)
    exact hs

theorem digestOne_keeps {T : List Part} {s0 : State} {s : State} {f : Nat} {mine : Nat} {theirs : Nat} (hs : Keeps T s0 s)
    (hT : [.regs, .tbl, .items, .icu, .evr, .twin] ⊆ T) :
    Keeps T s0 (State.digestOne s f mine theirs) := by
  delta State.digestOne
  extract_lets +onlyGivenNames y1
  have hy1 : Keeps T s0 y1 := by
    unfold y1
    refine twinMod_keeps ?_ (List.Subset.trans (by decide) hT)
    exact hs
  refine keeps_ite ?_ ?_
  · refine twinMod_keeps ?_ (List.Subset.trans (by decide) hT)
    exact hy1
  · refine keeps_ite ?_ ?_
    · refine outOfStep_keeps ?_ (List.Subset.trans (by decide) hT)
      refine raiseEv_keeps ?_ (List.Subset.trans (by decide) hT)
      refine bump_keeps ?_ (List.Subset.trans (by decide) hT)
      exact hy1
    · exact hy1

theorem digestCheck_keeps {T : List Part} {s0 : State} {s : State} (hs : Keeps T s0 s)
    (hT : [.regs, .tbl, .items, .icu, .evr, .twin] ⊆ T) :
    Keeps T s0 (State.digestCheck s) := by
  delta State.digestCheck
  refine keeps_ite ?_ ?_
  · exact hs
  · refine keeps_foldl ?_ (fun a e ha => ?_)
    · exact hs
    · split
      · refine digestOne_keeps ?_ (List.Subset.trans (by decide) hT)
        exact ha
      · exact ha

theorem withdraw_keeps {T : List Part} {s0 : State} {s : State} (hs : Keeps T s0 s)
    (hT : [.twin] ⊆ T) :
    Keeps T s0 (State.withdraw s) := by
  delta State.withdraw
  refine twinMod_keeps ?_ (List.Subset.trans (by decide) hT)
  exact hs

theorem segTable_keeps {T : List Part} {s0 : State} {s : State} {f : Nat} (hs : Keeps T s0 s)
    (hT : [.regs, .tbl, .segs] ⊆ T) :
    Keeps T s0 (State.segTable s f) := by
  delta State.segTable
  refine keeps_foldl ?_ (fun a e ha => ?_)
  · extract_lets +onlyGivenNames y1
    have hy1 : Keeps T s0 y1 := by
      unfold y1
      refine wr_keeps ?_ (List.Subset.trans (by decide) hT)
      exact hs
    refine keeps_segs ?_ (List.Subset.trans (by decide) hT)
    exact hy1
  · refine trecSet_keeps ?_ (List.Subset.trans (by decide) hT)
    exact ha

theorem joinBegin_keeps {T : List Part} {s0 : State} {s : State} {f : Nat} (hs : Keeps T s0 s)
    (hT : [.regs, .tbl, .twin, .segs] ⊆ T) :
    Keeps T s0 (State.joinBegin s f) := by
  delta State.joinBegin
  refine twinMod_keeps ?_ (List.Subset.trans (by decide) hT)
  refine segTable_keeps ?_ (List.Subset.trans (by decide) hT)
  exact hs

theorem hbTime_keeps {T : List Part} {s0 : State} {s : State} {h : Heartbeat} (hs : Keeps T s0 s)
    (hT : [.regs, .tbl, .items, .icu, .evr, .time, .free] ⊆ T) :
    Keeps T s0 (State.hbTime s h) := by
  delta State.hbTime
  refine keeps_ite ?_ ?_
  · extract_lets +onlyGivenNames y1
    extract_lets +onlyGivenNames y2
    extract_lets +onlyGivenNames y3
    extract_lets +onlyGivenNames y4
    have hy4 : Keeps T s0 y4 := by
      unfold y4
      refine timeMod_keeps ?_ (List.Subset.trans (by decide) hT)
      refine wr_keeps ?_ (List.Subset.trans (by decide) hT)
      refine timeEval_keeps ?_ (List.Subset.trans (by decide) hT)
      exact hs
    refine timeOffset_keeps ?_ (List.Subset.trans (by decide) hT)
    refine timeEval_keeps ?_ (List.Subset.trans (by decide) hT)
    exact hy4
  · exact hs

theorem hbJoin_keeps {T : List Part} {s0 : State} {s : State} {h : Heartbeat} (hs : Keeps T s0 s)
    (hT : [.regs, .tbl, .twin, .segs] ⊆ T) :
    Keeps T s0 (State.hbJoin s h) := by
  delta State.hbJoin
  refine keeps_ite ?_ ?_
  · refine keeps_ite ?_ ?_
    · refine joinBegin_keeps ?_ (List.Subset.trans (by decide) hT)
      exact hs
    · refine keeps_ite ?_ ?_
      · refine twinMod_keeps ?_ (List.Subset.trans (by decide) hT)
        refine keeps_segs ?_ (List.Subset.trans (by decide) hT)
        exact hs
      · exact hs
  · refine keeps_ite ?_ ?_
    · refine twinMod_keeps ?_ (List.Subset.trans (by decide) hT)
      exact hs
    · exact hs

theorem execHeartbeatRx_keeps {T : List Part} {s0 : State} {h : Heartbeat} {s : State} (hs : Keeps T s0 s)
    (hT : [.regs, .tbl, .items, .icu, .evr, .time, .twin, .segs, .free] ⊆ T) :
    KeepsO T s0 (execHeartbeatRx h s) := by
  delta execHeartbeatRx
  refine keepsO_next ?_
  refine keeps_ite ?_ ?_
  · exact hs
  · extract_lets +onlyGivenNames y1
    extract_lets +onlyGivenNames y2
    extract_lets +onlyGivenNames y3
    have hy3 : Keeps T s0 y3 := by
      unfold y3
      refine twinMod_keeps ?_ (List.Subset.trans (by decide) hT)
      exact hs
    extract_lets +onlyGivenNames y4
    have hy4 : Keeps T s0 y4 := by
      unfold y4
      refine keeps_ite ?_ ?_
      · refine withdraw_keeps ?_ (List.Subset.trans (by decide) hT)
        exact hy3
      · exact hy3
    extract_lets +onlyGivenNames y5
    have hy5 : Keeps T s0 y5 := by
      unfold y5
      refine hbJoin_keeps ?_ (List.Subset.trans (by decide) hT)
      refine hbTime_keeps ?_ (List.Subset.trans (by decide) hT)
      exact hy4
    extract_lets +onlyGivenNames y6
    refine digestCheck_keeps ?_ (List.Subset.trans (by decide) hT)
    refine keeps_ite ?_ ?_
    · refine recLost_keeps ?_ (List.Subset.trans (by decide) hT)
      exact hy5
    · exact hy5

theorem execHeartbeatMiss_keeps {T : List Part} {s0 : State} {path : Nat} {s : State} (hs : Keeps T s0 s)
    (hT : [.regs, .tbl, .items, .icu, .evr, .time] ⊆ T) :
    KeepsO T s0 (execHeartbeatMiss path s) := by
  delta execHeartbeatMiss
  refine keepsO_next ?_
  refine keeps_ite ?_ ?_
  · exact hs
  · extract_lets +onlyGivenNames y1
    have hy1 : Keeps T s0 y1 := by
      unfold y1
      refine bump_keeps ?_ (List.Subset.trans (by decide) hT)
      exact hs
    refine keeps_ite ?_ ?_
    · refine standbyHold_keeps ?_ (List.Subset.trans (by decide) hT)
      refine timeEval_keeps ?_ (List.Subset.trans (by decide) hT)
      exact hy1
    · exact hy1

theorem execPartnerLost_keeps {T : List Part} {s0 : State} {s : State} (hs : Keeps T s0 s)
    (hT : [.regs, .tbl, .items, .icu, .evr, .twin, .segs] ⊆ T) :
    KeepsO T s0 (execPartnerLost s) := by
  delta execPartnerLost
  refine keepsO_next ?_
  extract_lets +onlyGivenNames y1
  extract_lets +onlyGivenNames y2
  refine keeps_ite ?_ ?_
  · refine joinFail_keeps ?_ (List.Subset.trans (by decide) hT)
    refine raiseEv_keeps ?_ (List.Subset.trans (by decide) hT)
    refine twinMod_keeps ?_ (List.Subset.trans (by decide) hT)
    exact hs
  · exact hs

theorem joinStopped_keeps {T : List Part} {s0 : State} {s : State} (hs : Keeps T s0 s)
    (hT : [.regs, .tbl, .items, .icu, .evr, .twin, .segs] ⊆ T) :
    Keeps T s0 (State.joinStopped s) := by
  delta State.joinStopped
  refine keeps_ite ?_ ?_
  · exact hs
  · refine joinFail_keeps ?_ (List.Subset.trans (by decide) hT)
    exact hs

theorem execFailureDeclare_keeps {T : List Part} {s0 : State} {s : State} (hs : Keeps T s0 s)
    (hT : [.regs, .tbl, .items, .icu, .evr, .twin, .segs] ⊆ T) :
    KeepsO T s0 (execFailureDeclare s) := by
  delta execFailureDeclare
  refine keepsO_next ?_
  refine keeps_ite ?_ ?_
  · extract_lets +onlyGivenNames y1
    have hy1 : Keeps T s0 y1 := by
      unfold y1
      refine twinMod_keeps ?_ (List.Subset.trans (by decide) hT)
      exact hs
    refine keeps_ite ?_ ?_
    · exact hy1
    · refine joinStopped_keeps ?_ (List.Subset.trans (by decide) hT)
      exact hy1
  · exact hs

theorem execIsolationCheck_keeps {T : List Part} {s0 : State} {s : State} (hs : Keeps T s0 s)
    (hT : [.regs, .tbl, .items, .icu, .evr, .twin, .segs] ⊆ T) :
    KeepsO T s0 (execIsolationCheck s) := by
  delta execIsolationCheck
  refine keepsO_next ?_
  refine keeps_ite ?_ ?_
  · exact hs
  · refine keeps_ite ?_ ?_
    · refine twinMod_keeps ?_ (List.Subset.trans (by decide) hT)
      exact hs
    · refine keeps_ite ?_ ?_
      · extract_lets +onlyGivenNames y1
        have hy1 : Keeps T s0 y1 := by
          unfold y1
          refine twinMod_keeps ?_ (List.Subset.trans (by decide) hT)
          refine joinStopped_keeps ?_ (List.Subset.trans (by decide) hT)
          exact hs
        refine keeps_ite ?_ ?_
        · exact hy1
        · refine raiseEv_keeps ?_ (List.Subset.trans (by decide) hT)
          refine bump_keeps ?_ (List.Subset.trans (by decide) hT)
          exact hy1
      · refine twinMod_keeps ?_ (List.Subset.trans (by decide) hT)
        exact hs

theorem gapGrace_keeps {T : List Part} {s0 : State} {s : State} (hs : Keeps T s0 s)
    (hT : [.snet, .can] ⊆ T) :
    Keeps T s0 (State.gapGrace s) := by
  delta State.gapGrace
  extract_lets +onlyGivenNames y1
  extract_lets +onlyGivenNames y2
  have hy2 : Keeps T s0 y2 := by
    unfold y2
    refine keeps_foldl ?_ (fun a e ha => ?_)
    · exact hs
    · split
      · exact ha
      · refine keeps_ite ?_ ?_
        · refine nodeMod_keeps ?_ (List.Subset.trans (by decide) hT)
          exact ha
        · exact ha
  refine canMod_keeps ?_ (List.Subset.trans (by decide) hT)
  refine canMod_keeps ?_ (List.Subset.trans (by decide) hT)
  exact hy2

theorem gapLaunches_keeps {T : List Part} {s0 : State} {s : State} (hs : Keeps T s0 s)
    (hT : [.regs, .tbl, .items, .icu, .evr, .dio, .lnch, .priv] ⊆ T) :
    Keeps T s0 (State.gapLaunches s) := by
  delta State.gapLaunches
  refine keeps_foldl ?_ (fun a e ha => ?_)
  · exact hs
  · extract_lets +onlyGivenNames y1
    refine keeps_ite ?_ ?_
    · exact ha
    · refine lnchLate_keeps ?_ (List.Subset.trans (by decide) hT)
      exact ha

theorem takeSessions_keeps {T : List Part} {s0 : State} {s : State} (hs : Keeps T s0 s)
    (hT : [.regs, .host, .items, .sent] ⊆ T) :
    Keeps T s0 (State.takeSessions s) := by
  delta State.takeSessions
  refine keeps_foldl ?_ (fun a e ha => ?_)
  · exact hs
  · extract_lets +onlyGivenNames y1
    have hy1 : Keeps T s0 y1 := by
      unfold y1
      refine sessMod_keeps ?_ (List.Subset.trans (by decide) hT)
      exact ha
    refine keeps_ite ?_ ?_
    · refine sendNotify_keeps ?_ (List.Subset.trans (by decide) hT)
      exact hy1
    · exact hy1

theorem arpSend_keeps {T : List Part} {s0 : State} {s : State} {p : Nat} (hs : Keeps T s0 s)
    (hT : [.sent] ⊆ T) :
    Keeps T s0 (State.arpSend s p) := by
  delta State.arpSend
  refine keeps_ite ?_ ?_
  · refine emit_keeps ?_ (List.Subset.trans (by decide) hT)
    exact hs
  · exact hs

theorem takeOver_keeps {T : List Part} {s0 : State} {s : State} (hs : Keeps T s0 s)
    (hT : [.regs, .tbl, .host, .items, .icu, .evr, .time, .snet, .can, .dio, .lnch, .priv, .twin, .sent] ⊆ T) :
    Keeps T s0 (State.takeOver s) := by
  delta State.takeOver
  extract_lets +onlyGivenNames y1
  have hy1 : Keeps T s0 y1 := by
    unfold y1
    refine gapGrace_keeps ?_ (List.Subset.trans (by decide) hT)
    exact hs
  extract_lets +onlyGivenNames y2
  have hy2 : Keeps T s0 y2 := by
    unfold y2
    refine twinMod_keeps ?_ (List.Subset.trans (by decide) hT)
    exact hy1
  extract_lets +onlyGivenNames y3
  have hy3 : Keeps T s0 y3 := by
    unfold y3
    refine goto_keeps ?_ (List.Subset.trans (by decide) hT)
    refine wr_keeps ?_ (List.Subset.trans (by decide) hT)
    exact hy2
  extract_lets +onlyGivenNames y4
  have hy4 : Keeps T s0 y4 := by
    unfold y4
    refine wr_keeps ?_ (List.Subset.trans (by decide) hT)
    refine wr_keeps ?_ (List.Subset.trans (by decide) hT)
    refine bump_keeps ?_ (List.Subset.trans (by decide) hT)
    exact hy3
  extract_lets +onlyGivenNames y5
  have hy5 : Keeps T s0 y5 := by
    unfold y5
    refine keeps_foldl ?_ (fun a e ha => ?_)
    · exact hy4
    · refine canMod_keeps ?_ (List.Subset.trans (by decide) hT)
      refine keeps_foldl ?_ (fun a e ha => ?_)
      · exact ha
      · refine canWithdraw_keeps ?_ (List.Subset.trans (by decide) hT)
        exact ha
  extract_lets +onlyGivenNames y6
  have hy6 : Keeps T s0 y6 := by
    unfold y6
    refine privTakeover_keeps ?_ (List.Subset.trans (by decide) hT)
    refine arpSend_keeps ?_ (List.Subset.trans (by decide) hT)
    refine arpSend_keeps ?_ (List.Subset.trans (by decide) hT)
    refine prpSupervise_keeps ?_ (List.Subset.trans (by decide) hT)
    exact hy5
  extract_lets +onlyGivenNames y7
  have hy7 : Keeps T s0 y7 := by
    unfold y7
    refine timeMod_keeps ?_ (List.Subset.trans (by decide) hT)
    refine takeSessions_keeps ?_ (List.Subset.trans (by decide) hT)
    refine gapLaunches_keeps ?_ (List.Subset.trans (by decide) hT)
    exact hy6
  refine raiseEv_keeps ?_ (List.Subset.trans (by decide) hT)
  refine servoHold_keeps ?_ (List.Subset.trans (by decide) hT)
  refine timeEval_keeps ?_ (List.Subset.trans (by decide) hT)
  exact hy7

theorem execTakeover_keeps {T : List Part} {s0 : State} {s : State} (hs : Keeps T s0 s)
    (hT : [.regs, .tbl, .host, .items, .icu, .evr, .time, .snet, .can, .dio, .lnch, .priv, .twin, .sent] ⊆ T) :
    KeepsO T s0 (execTakeover s) := by
  delta execTakeover
  refine keepsO_next ?_
  refine keeps_ite ?_ ?_
  · refine takeOver_keeps ?_ (List.Subset.trans (by decide) hT)
    refine tickEarly_keeps ?_ (List.Subset.trans (by decide) hT)
    exact hs
  · exact hs

theorem execInputRecordRx_keeps {T : List Part} {s0 : State} {r : InRec} {s : State} (hs : Keeps T s0 s)
    (hT : [.regs, .tbl, .items, .icu, .evr, .time, .twin, .segs] ⊆ T) :
    KeepsO T s0 (execInputRecordRx r s) := by
  delta execInputRecordRx
  refine keepsO_next ?_
  refine keeps_ite ?_ ?_
  · exact hs
  · extract_lets +onlyGivenNames y1
    have hy1 : Keeps T s0 y1 := by
      unfold y1
      refine keeps_ite ?_ ?_
      · refine wr_keeps ?_ (List.Subset.trans (by decide) hT)
        exact hs
      · exact hs
    extract_lets +onlyGivenNames y2
    have hy2 : Keeps T s0 y2 := by
      unfold y2
      refine standbyQuality_keeps ?_ (List.Subset.trans (by decide) hT)
      exact hy1
    refine keeps_ite ?_ ?_
    · exact hy2
    · refine keeps_ite ?_ ?_
      · refine recLost_keeps ?_ (List.Subset.trans (by decide) hT)
        exact hy2
      · refine keeps_ite ?_ ?_
        · exact hy2
        · extract_lets +onlyGivenNames y3
          have hy3 : Keeps T s0 y3 := by
            unfold y3
            refine twinMod_keeps ?_ (List.Subset.trans (by decide) hT)
            exact hy2
          refine keeps_ite ?_ ?_
          · refine joinFail_keeps ?_ (List.Subset.trans (by decide) hT)
            exact hy3
          · exact hy3

theorem execRecLost_keeps {T : List Part} {s0 : State} {s : State} (hs : Keeps T s0 s)
    (hT : [.regs, .tbl, .items, .icu, .evr, .twin, .segs] ⊆ T) :
    KeepsO T s0 (execRecLost s) := by
  delta execRecLost
  refine keepsO_next ?_
  split
  · exact hs
  · refine keeps_ite ?_ ?_
    · refine recLost_keeps ?_ (List.Subset.trans (by decide) hT)
      exact hs
    · exact hs

theorem execRecordNotClosed_keeps {T : List Part} {s0 : State} {s : State} (hs : Keeps T s0 s)
    (hT : [.regs, .tbl, .items, .icu, .evr, .dio, .dev] ⊆ T) :
    KeepsO T s0 (execRecordNotClosed s) := by
  delta execRecordNotClosed
  refine keepsO_next ?_
  refine keeps_ite ?_ ?_
  · refine enterFault_keeps ?_ (List.Subset.trans (by decide) hT)
    exact hs
  · exact hs

theorem execBeaconRx_keeps {T : List Part} {s0 : State} {b : Beacon} {s : State} (hs : Keeps T s0 s)
    (hT : [.regs, .tbl, .items, .icu, .evr, .twin] ⊆ T) :
    KeepsO T s0 (execBeaconRx b s) := by
  delta execBeaconRx
  refine keepsO_next ?_
  refine keeps_ite ?_ ?_
  · exact hs
  · extract_lets +onlyGivenNames y1
    extract_lets +onlyGivenNames y2
    have hy2 : Keeps T s0 y2 := by
      unfold y2
      refine twinMod_keeps ?_ (List.Subset.trans (by decide) hT)
      refine rxFrame_keeps ?_ (List.Subset.trans (by decide) hT)
      exact hs
    refine keeps_ite ?_ ?_
    · refine raiseEv_keeps ?_ (List.Subset.trans (by decide) hT)
      refine bump_keeps ?_ (List.Subset.trans (by decide) hT)
      refine twinMod_keeps ?_ (List.Subset.trans (by decide) hT)
      exact hy2
    · exact hy2

theorem twinSwitchCmd_keeps {T : List Part} {s0 : State} {s : State} (hs : Keeps T s0 s)
    (hT : [.regs, .tbl, .host, .items, .icu, .evr, .time, .opt, .lnch, .twin, .sent] ⊆ T) :
    Keeps T s0 (twinSwitchCmd s).1 := by
  delta twinSwitchCmd
  refine keeps_iteP ?_ ?_
  · refine keeps_fst ?_
    refine standDown_keeps ?_ (List.Subset.trans (by decide) hT)
    refine emit_keeps ?_ (List.Subset.trans (by decide) hT)
    exact hs
  · refine keeps_fst ?_
    exact hs

theorem execTwinSwitch_keeps {T : List Part} {s0 : State} {s : State} (hs : Keeps T s0 s)
    (hT : [.regs, .tbl, .host, .items, .icu, .evr, .time, .opt, .lnch, .twin, .sent] ⊆ T) :
    KeepsO T s0 (execTwinSwitch s) := by
  delta execTwinSwitch
  refine keepsO_next ?_
  refine twinSwitchCmd_keeps ?_ (List.Subset.trans (by decide) hT)
  exact hs

theorem joinStart_keeps {T : List Part} {s0 : State} {s : State} (hs : Keeps T s0 s)
    (hT : [.regs, .tbl, .items, .icu, .evr, .twin, .segs] ⊆ T) :
    Keeps T s0 (State.joinStart s) := by
  delta State.joinStart
  extract_lets +onlyGivenNames y1
  have hy1 : Keeps T s0 y1 := by
    unfold y1
    refine joinBegin_keeps ?_ (List.Subset.trans (by decide) hT)
    exact hs
  refine keeps_ite ?_ ?_
  · exact hy1
  · refine joinFail_keeps ?_ (List.Subset.trans (by decide) hT)
    exact hy1

theorem twinJoinCmd_keeps {T : List Part} {s0 : State} {s : State} (hs : Keeps T s0 s)
    (hT : [.regs, .tbl, .items, .icu, .evr, .twin, .segs] ⊆ T) :
    Keeps T s0 (twinJoinCmd s).1 := by
  delta twinJoinCmd
  refine keeps_iteP ?_ ?_
  · refine keeps_fst ?_
    exact hs
  · refine keeps_iteP ?_ ?_
    · refine keeps_fst ?_
      refine joinStart_keeps ?_ (List.Subset.trans (by decide) hT)
      exact hs
    · refine keeps_fst ?_
      exact hs

theorem execTwinJoin_keeps {T : List Part} {s0 : State} {s : State} (hs : Keeps T s0 s)
    (hT : [.regs, .tbl, .items, .icu, .evr, .twin, .segs] ⊆ T) :
    KeepsO T s0 (execTwinJoin s) := by
  delta execTwinJoin
  refine keepsO_next ?_
  refine twinJoinCmd_keeps ?_ (List.Subset.trans (by decide) hT)
  exact hs

theorem execJoinStart_keeps {T : List Part} {s0 : State} {s : State} (hs : Keeps T s0 s)
    (hT : [.regs, .tbl, .items, .icu, .evr, .twin, .segs] ⊆ T) :
    KeepsO T s0 (execJoinStart s) := by
  delta execJoinStart
  refine keepsO_next ?_
  split
  · exact hs
  · refine keeps_ite ?_ ?_
    · refine joinStart_keeps ?_ (List.Subset.trans (by decide) hT)
      exact hs
    · exact hs

theorem twinAbandonCmd_keeps {T : List Part} {s0 : State} {s : State} (hs : Keeps T s0 s)
    (hT : [.regs, .tbl, .items, .icu, .evr, .twin, .segs] ⊆ T) :
    Keeps T s0 (twinAbandonCmd s) := by
  delta twinAbandonCmd
  refine joinFail_keeps ?_ (List.Subset.trans (by decide) hT)
  exact hs

theorem execAbandon_keeps {T : List Part} {s0 : State} {s : State} (hs : Keeps T s0 s)
    (hT : [.regs, .tbl, .items, .icu, .evr, .twin, .segs] ⊆ T) :
    KeepsO T s0 (execAbandon s) := by
  delta execAbandon
  refine keepsO_next ?_
  refine twinAbandonCmd_keeps ?_ (List.Subset.trans (by decide) hT)
  exact hs

theorem execJoinTimeout_keeps {T : List Part} {s0 : State} {s : State} (hs : Keeps T s0 s)
    (hT : [.regs, .tbl, .items, .icu, .evr, .twin, .segs] ⊆ T) :
    KeepsO T s0 (execJoinTimeout s) := by
  delta execJoinTimeout
  refine keepsO_next ?_
  split
  · exact hs
  · refine keeps_ite ?_ ?_
    · refine joinFail_keeps ?_ (List.Subset.trans (by decide) hT)
      exact hs
    · exact hs

theorem execSegmentCommit_keeps {T : List Part} {s0 : State} {seg : Nat} {ok : Bool} {size : Nat} {crc : Word} {d : SegData} {s : State} (hs : Keeps T s0 s)
    (hT : [.regs, .tbl, .items, .icu, .evr, .metNv, .twin, .segs] ⊆ T) :
    KeepsO T s0 (execSegmentCommit seg ok size crc d s) := by
  delta execSegmentCommit
  refine keepsO_next ?_
  refine keeps_ite ?_ ?_
  · exact hs
  · extract_lets +onlyGivenNames y1
    extract_lets +onlyGivenNames y2
    have hy2 : Keeps T s0 y2 := by
      unfold y2
      refine twr_keeps ?_ (List.Subset.trans (by decide) hT)
      refine twr_keeps ?_ (List.Subset.trans (by decide) hT)
      refine tset_keeps ?_ (List.Subset.trans (by decide) hT)
      exact hs
    refine keeps_ite ?_ ?_
    · extract_lets +onlyGivenNames y3
      have hy3 : Keeps T s0 y3 := by
        unfold y3
        refine tset_keeps ?_ (List.Subset.trans (by decide) hT)
        exact hy2
      extract_lets +onlyGivenNames y4
      have hy4 : Keeps T s0 y4 := by
        unfold y4
        refine keeps_segs ?_ (List.Subset.trans (by decide) hT)
        exact hy3
      refine keeps_ite ?_ ?_
      · refine metNvMod_keeps ?_ (List.Subset.trans (by decide) hT)
        exact hy4
      · exact hy4
    · refine keeps_ite ?_ ?_
      · refine joinFail_keeps ?_ (List.Subset.trans (by decide) hT)
        refine tset_keeps ?_ (List.Subset.trans (by decide) hT)
        exact hy2
      · refine tset_keeps ?_ (List.Subset.trans (by decide) hT)
        exact hy2

theorem overlay_keeps {T : List Part} {s0 : State} {s : State} {d : SegData} (hs : Keeps T s0 s)
    (hT : [.regs, .tbl, .mbx, .host, .items, .icu, .cpe, .model, .opt, .snet, .can, .lnch, .priv, .met, .cpeNv, .loop, .twin, .keys] ⊆ T) :
    Keeps T s0 (State.overlay s d) := by
  refine ⟨fun c => ?_, hs.pending, fun p hp => ?_⟩
  · have q := hs.canon c
    exact ⟨smWf_over _ _ _ q.regs, q.vis, smWf_over _ _ _ q.tbl, q.shadow, q.tshadow⟩
  · have q := hs.only p hp
    cases p <;> first | exact q | exact absurd (hT (by decide)) hp

theorem execReplayEnd_keeps {T : List Part} {s0 : State} {d : SegData} {s : State} (hs : Keeps T s0 s)
    (hT : [.regs, .tbl, .mbx, .host, .items, .icu, .cpe, .model, .opt, .snet, .can, .lnch, .priv, .met, .cpeNv, .loop, .twin, .keys] ⊆ T) :
    KeepsO T s0 (execReplayEnd d s) := by
  delta execReplayEnd
  refine keepsO_next ?_
  refine keeps_ite ?_ ?_
  · exact hs
  · extract_lets +onlyGivenNames y1
    have hy1 : Keeps T s0 y1 := by
      unfold y1
      refine overlay_keeps ?_ (List.Subset.trans (by decide) hT)
      refine keeps_foldl ?_ (fun a e ha => ?_)
      · exact hs
      · refine overlay_keeps ?_ (List.Subset.trans (by decide) hT)
        exact ha
    extract_lets +onlyGivenNames y2
    refine twinMod_keeps ?_ (List.Subset.trans (by decide) hT)
    exact hy1

theorem execJoinDone_keeps {T : List Part} {s0 : State} {s : State} (hs : Keeps T s0 s)
    (hT : [.regs, .tbl, .items, .icu, .evr, .twin] ⊆ T) :
    KeepsO T s0 (execJoinDone s) := by
  delta execJoinDone
  refine keepsO_next ?_
  refine keeps_ite ?_ ?_
  · exact hs
  · refine keeps_ite ?_ ?_
    · extract_lets +onlyGivenNames y1
      have hy1 : Keeps T s0 y1 := by
        unfold y1
        refine twinMod_keeps ?_ (List.Subset.trans (by decide) hT)
        exact hs
      extract_lets +onlyGivenNames y2
      have hy2 : Keeps T s0 y2 := by
        unfold y2
        split
        · refine wr_keeps ?_ (List.Subset.trans (by decide) hT)
          exact hy1
        · refine wr_keeps ?_ (List.Subset.trans (by decide) hT)
          exact hy1
        · exact hy1
      extract_lets +onlyGivenNames y3
      have hy3 : Keeps T s0 y3 := by
        unfold y3
        split
        · refine wr_keeps ?_ (List.Subset.trans (by decide) hT)
          exact hy2
        · exact hy2
      refine raiseEv_keeps ?_ (List.Subset.trans (by decide) hT)
      refine bump_keeps ?_ (List.Subset.trans (by decide) hT)
      exact hy3
    · refine keeps_ite ?_ ?_
      · refine raiseEv_keeps ?_ (List.Subset.trans (by decide) hT)
        refine bump_keeps ?_ (List.Subset.trans (by decide) hT)
        refine twinMod_keeps ?_ (List.Subset.trans (by decide) hT)
        exact hs
      · exact hs

theorem discardState_keeps {T : List Part} {s0 : State} {s : State} (hs : Keeps T s0 s)
    (hT : [.cpe, .model, .opt, .snet, .lnch, .priv, .met, .metNv, .cpeNv, .loop] ⊆ T) :
    Keeps T s0 (State.discardState s) := by
  refine ⟨fun c => ?_, hs.pending, fun p hp => ?_⟩
  · have q := hs.canon c
    exact ⟨q.regs, q.vis, q.tbl, q.shadow, q.tshadow⟩
  · have q := hs.only p hp
    cases p <;> first | exact q | exact absurd (hT (by decide)) hp

theorem devCmd_keeps {T : List Part} {s0 : State} {cmd : Nat} {want : Nat} {s : State} (hs : Keeps T s0 s)
    (hT : [.sent] ⊆ T) :
    Keeps T s0 (devCmd cmd want s).1 := by
  delta devCmd
  refine keeps_iteP ?_ ?_
  · refine keeps_fst ?_
    refine emit_keeps ?_ (List.Subset.trans (by decide) hT)
    exact hs
  · refine keeps_fst ?_
    exact hs

theorem parkCmd_keeps {T : List Part} {s0 : State} {s : State} (hs : Keeps T s0 s)
    (hT : [.sent] ⊆ T) :
    Keeps T s0 (parkCmd s).1 := by
  delta parkCmd
  refine devCmd_keeps ?_ (List.Subset.trans (by decide) hT)
  exact hs

theorem unparkCmd_keeps {T : List Part} {s0 : State} {s : State} (hs : Keeps T s0 s)
    (hT : [.sent] ⊆ T) :
    Keeps T s0 (unparkCmd s).1 := by
  delta unparkCmd
  refine devCmd_keeps ?_ (List.Subset.trans (by decide) hT)
  exact hs

theorem unparkDiscardCmd_keeps {T : List Part} {s0 : State} {s : State} (hs : Keeps T s0 s)
    (hT : [.sent] ⊆ T) :
    Keeps T s0 (unparkDiscardCmd s).1 := by
  delta unparkDiscardCmd
  refine devCmd_keeps ?_ (List.Subset.trans (by decide) hT)
  exact hs

theorem execPark_keeps {T : List Part} {s0 : State} {s : State} (hs : Keeps T s0 s)
    (hT : [.sent] ⊆ T) :
    KeepsO T s0 (execPark s) := by
  delta execPark
  refine keepsO_next ?_
  refine parkCmd_keeps ?_ (List.Subset.trans (by decide) hT)
  exact hs

theorem execUnpark_keeps {T : List Part} {s0 : State} {s : State} (hs : Keeps T s0 s)
    (hT : [.sent] ⊆ T) :
    KeepsO T s0 (execUnpark s) := by
  delta execUnpark
  refine keepsO_next ?_
  refine unparkCmd_keeps ?_ (List.Subset.trans (by decide) hT)
  exact hs

theorem execUnparkDiscard_keeps {T : List Part} {s0 : State} {s : State} (hs : Keeps T s0 s)
    (hT : [.sent] ⊆ T) :
    KeepsO T s0 (execUnparkDiscard s) := by
  delta execUnparkDiscard
  refine keepsO_next ?_
  refine unparkDiscardCmd_keeps ?_ (List.Subset.trans (by decide) hT)
  exact hs

theorem execParkControlRx_keeps {T : List Part} {s0 : State} {cmd : Nat} {serial : Nat} {crcOk : Bool} {s : State} (hs : Keeps T s0 s)
    (hT : [.twin] ⊆ T) :
    KeepsO T s0 (execParkControlRx cmd serial crcOk s) := by
  delta execParkControlRx
  refine keepsO_next ?_
  refine keeps_ite ?_ ?_
  · refine twinMod_keeps ?_ (List.Subset.trans (by decide) hT)
    exact hs
  · exact hs

theorem leavePark_keeps {T : List Part} {s0 : State} {s : State} {discard : Bool} (hs : Keeps T s0 s)
    (hT : [.regs, .tbl, .items, .icu, .evr, .cpe, .model, .opt, .snet, .can, .lnch, .priv, .met, .metNv, .cpeNv, .loop, .dev] ⊆ T) :
    Keeps T s0 (State.leavePark s discard) := by
  delta State.leavePark
  extract_lets +onlyGivenNames y1
  have hy1 : Keeps T s0 y1 := by
    unfold y1
    refine keeps_ite ?_ ?_
    · refine discardState_keeps ?_ (List.Subset.trans (by decide) hT)
      exact hs
    · exact hs
  extract_lets +onlyGivenNames y2
  have hy2 : Keeps T s0 y2 := by
    unfold y2
    refine goto_keeps ?_ (List.Subset.trans (by decide) hT)
    refine setF_keeps ?_ (List.Subset.trans (by decide) hT)
    refine setF_keeps ?_ (List.Subset.trans (by decide) hT)
    refine setF_keeps ?_ (List.Subset.trans (by decide) hT)
    exact hy1
  extract_lets +onlyGivenNames y3
  have hy3 : Keeps T s0 y3 := by
    unfold y3
    refine keeps_foldl ?_ (fun a e ha => ?_)
    · exact hy2
    · refine canMod_keeps ?_ (List.Subset.trans (by decide) hT)
      exact ha
  refine raiseEv_keeps ?_ (List.Subset.trans (by decide) hT)
  refine keeps_dev ?_ (List.Subset.trans (by decide) hT)
  exact hy3

theorem controlAct_keeps {T : List Part} {s0 : State} {s : State} (hs : Keeps T s0 s)
    (hT : [.regs, .tbl, .host, .items, .icu, .evr, .cpe, .model, .opt, .snet, .can, .lnch, .priv, .met, .metNv, .cpeNv, .loop, .twin, .dev] ⊆ T) :
    Keeps T s0 (State.controlAct s) := by
  delta State.controlAct
  split
  · exact hs
  · extract_lets +onlyGivenNames y1
    have hy1 : Keeps T s0 y1 := by
      unfold y1
      refine twinMod_keeps ?_ (List.Subset.trans (by decide) hT)
      exact hs
    refine keeps_ite ?_ ?_
    · refine keeps_ite ?_ ?_
      · refine park_keeps ?_ (List.Subset.trans (by decide) hT)
        exact hy1
      · exact hy1
    · refine keeps_ite ?_ ?_
      · refine leavePark_keeps ?_ (List.Subset.trans (by decide) hT)
        exact hy1
      · exact hy1

theorem tamperAct_keeps {T : List Part} {s0 : State} {s : State} (hs : Keeps T s0 s)
    (hT : [.regs, .tbl, .host, .items, .icu, .evr, .opt, .twin, .keys] ⊆ T) :
    Keeps T s0 (State.tamperAct s) := by
  delta State.tamperAct
  extract_lets +onlyGivenNames y1
  refine keeps_ite ?_ ?_
  · extract_lets +onlyGivenNames y2
    have hy2 : Keeps T s0 y2 := by
      unfold y2
      refine keysMod_keeps ?_ (List.Subset.trans (by decide) hT)
      exact hs
    refine keeps_ite ?_ ?_
    · exact hy2
    · refine keeps_ite ?_ ?_
      · refine park_keeps ?_ (List.Subset.trans (by decide) hT)
        exact hy2
      · refine keeps_foldl ?_ (fun a e ha => ?_)
        · refine outOfStep_keeps ?_ (List.Subset.trans (by decide) hT)
          refine dropSolve_keeps ?_ (List.Subset.trans (by decide) hT)
          refine goto_keeps ?_ (List.Subset.trans (by decide) hT)
          exact hy2
        · refine closeSess_keeps ?_ (List.Subset.trans (by decide) hT)
          exact ha
  · refine keeps_ite ?_ ?_
    · refine goto_keeps ?_ (List.Subset.trans (by decide) hT)
      exact hs
    · exact hs

theorem splitAct_keeps {T : List Part} {s0 : State} {s : State} (hs : Keeps T s0 s)
    (hT : [.regs, .tbl, .host, .items, .icu, .evr, .opt, .twin] ⊆ T) :
    Keeps T s0 (State.splitAct s) := by
  delta State.splitAct
  refine keeps_ite ?_ ?_
  · extract_lets +onlyGivenNames y1
    have hy1 : Keeps T s0 y1 := by
      unfold y1
      refine twinMod_keeps ?_ (List.Subset.trans (by decide) hT)
      exact hs
    refine keeps_ite ?_ ?_
    · refine park_keeps ?_ (List.Subset.trans (by decide) hT)
      exact hy1
    · exact hy1
  · exact hs

theorem testFailed_keeps {T : List Part} {s0 : State} {s : State} {t : Nat} (hs : Keeps T s0 s)
    (hT : [.regs, .tbl, .items, .icu, .evr, .twin] ⊆ T) :
    Keeps T s0 (State.testFailed s t) := by
  delta State.testFailed
  refine raiseEv_keeps ?_ (List.Subset.trans (by decide) hT)
  refine setB_keeps ?_ (List.Subset.trans (by decide) hT)
  refine twinMod_keeps ?_ (List.Subset.trans (by decide) hT)
  exact hs

theorem testPassed_keeps {T : List Part} {s0 : State} {s : State} {t : Nat} (hs : Keeps T s0 s)
    (hT : [.regs, .twin] ⊆ T) :
    Keeps T s0 (State.testPassed s t) := by
  delta State.testPassed
  refine keeps_ite ?_ ?_
  · extract_lets +onlyGivenNames y1
    have hy1 : Keeps T s0 y1 := by
      unfold y1
      refine twinMod_keeps ?_ (List.Subset.trans (by decide) hT)
      exact hs
    refine keeps_ite ?_ ?_
    · refine setB_keeps ?_ (List.Subset.trans (by decide) hT)
      refine twinMod_keeps ?_ (List.Subset.trans (by decide) hT)
      exact hy1
    · exact hy1
  · exact hs

theorem testClrCmd_keeps {T : List Part} {s0 : State} {s : State} (hs : Keeps T s0 s)
    (hT : [.twin] ⊆ T) :
    Keeps T s0 (testClrCmd s) := by
  delta testClrCmd
  refine keeps_ite ?_ ?_
  · refine twinMod_keeps ?_ (List.Subset.trans (by decide) hT)
    exact hs
  · exact hs

theorem execTestClr_keeps {T : List Part} {s0 : State} {s : State} (hs : Keeps T s0 s)
    (hT : [.twin] ⊆ T) :
    KeepsO T s0 (execTestClr s) := by
  delta execTestClr
  refine keepsO_next ?_
  refine testClrCmd_keeps ?_ (List.Subset.trans (by decide) hT)
  exact hs

theorem scrubDone_keeps {T : List Part} {s0 : State} {s : State} {t : Nat} {corr : Nat} {uncorr : Nat} (hs : Keeps T s0 s)
    (hT : [.regs, .tbl, .items, .icu, .evr, .twin] ⊆ T) :
    Keeps T s0 (State.scrubDone s t corr uncorr) := by
  delta State.scrubDone
  extract_lets +onlyGivenNames y1
  have hy1 : Keeps T s0 y1 := by
    unfold y1
    refine bumpN_keeps ?_ (List.Subset.trans (by decide) hT)
    refine bumpN_keeps ?_ (List.Subset.trans (by decide) hT)
    exact hs
  extract_lets +onlyGivenNames y2
  have hy2 : Keeps T s0 y2 := by
    unfold y2
    refine keeps_ite ?_ ?_
    · refine raiseEv_keeps ?_ (List.Subset.trans (by decide) hT)
      exact hy1
    · exact hy1
  extract_lets +onlyGivenNames y3
  have hy3 : Keeps T s0 y3 := by
    unfold y3
    refine twinMod_keeps ?_ (List.Subset.trans (by decide) hT)
    exact hy2
  refine keeps_ite ?_ ?_
  · refine testFailed_keeps ?_ (List.Subset.trans (by decide) hT)
    refine raiseEv_keeps ?_ (List.Subset.trans (by decide) hT)
    exact hy3
  · refine testPassed_keeps ?_ (List.Subset.trans (by decide) hT)
    exact hy3

theorem execSramScrubPass_keeps {T : List Part} {s0 : State} {corr : Nat} {uncorr : Nat} {s : State} (hs : Keeps T s0 s)
    (hT : [.regs, .tbl, .items, .icu, .evr, .dio, .twin, .dev] ⊆ T) :
    KeepsO T s0 (execSramScrubPass corr uncorr s) := by
  delta execSramScrubPass
  refine keepsO_next ?_
  extract_lets +onlyGivenNames y1
  have hy1 : Keeps T s0 y1 := by
    unfold y1
    refine bump_keeps ?_ (List.Subset.trans (by decide) hT)
    refine scrubDone_keeps ?_ (List.Subset.trans (by decide) hT)
    exact hs
  refine keeps_ite ?_ ?_
  · refine enterFault_keeps ?_ (List.Subset.trans (by decide) hT)
    exact hy1
  · exact hy1

theorem execDramScrubPass_keeps {T : List Part} {s0 : State} {uncorr : Nat} {s : State} (hs : Keeps T s0 s)
    (hT : [.regs, .tbl, .items, .icu, .evr, .twin] ⊆ T) :
    KeepsO T s0 (execDramScrubPass uncorr s) := by
  delta execDramScrubPass
  refine keepsO_next ?_
  refine keeps_ite ?_ ?_
  · refine scrubDone_keeps ?_ (List.Subset.trans (by decide) hT)
    exact hs
  · exact hs

theorem execPortLoopbackTest_keeps {T : List Part} {s0 : State} {fail : Nat} {s : State} (hs : Keeps T s0 s)
    (hT : [.regs, .tbl, .items, .icu, .evr, .twin] ⊆ T) :
    KeepsO T s0 (execPortLoopbackTest fail s) := by
  delta execPortLoopbackTest
  refine keepsO_next ?_
  refine keeps_ite ?_ ?_
  · exact hs
  · extract_lets +onlyGivenNames y1
    extract_lets +onlyGivenNames y2
    have hy2 : Keeps T s0 y2 := by
      unfold y2
      refine twinMod_keeps ?_ (List.Subset.trans (by decide) hT)
      refine bumpN_keeps ?_ (List.Subset.trans (by decide) hT)
      exact hs
    refine keeps_ite ?_ ?_
    · refine testFailed_keeps ?_ (List.Subset.trans (by decide) hT)
      exact hy2
    · refine testPassed_keeps ?_ (List.Subset.trans (by decide) hT)
      exact hy2

theorem readbackTest_keeps {T : List Part} {s0 : State} {s : State} {drivers : Nat} {lineDiff : Nat} (hs : Keeps T s0 s)
    (hT : [.regs, .tbl, .items, .icu, .evr, .twin] ⊆ T) :
    Keeps T s0 (State.readbackTest s drivers lineDiff) := by
  delta State.readbackTest
  refine keeps_ite ?_ ?_
  · exact hs
  · extract_lets +onlyGivenNames y1
    extract_lets +onlyGivenNames y2
    extract_lets +onlyGivenNames y3
    have hy3 : Keeps T s0 y3 := by
      unfold y3
      refine twinMod_keeps ?_ (List.Subset.trans (by decide) hT)
      exact hs
    refine keeps_ite ?_ ?_
    · refine testPassed_keeps ?_ (List.Subset.trans (by decide) hT)
      exact hy3
    · refine keeps_ite ?_ ?_
      · refine testFailed_keeps ?_ (List.Subset.trans (by decide) hT)
        refine bump_keeps ?_ (List.Subset.trans (by decide) hT)
        exact hy3
      · exact hy3

theorem plausTick_keeps {T : List Part} {s0 : State} {s : State} {checks : List (Nat × Nat)} (hs : Keeps T s0 s)
    (hT : [.twin] ⊆ T) :
    Keeps T s0 (State.plausTick s checks) := by
  delta State.plausTick
  refine keeps_ite ?_ ?_
  · exact hs
  · refine keeps_foldl ?_ (fun a e ha => ?_)
    · exact hs
    · extract_lets +onlyGivenNames y1
      extract_lets +onlyGivenNames y2
      extract_lets +onlyGivenNames y3
      refine twinMod_keeps ?_ (List.Subset.trans (by decide) hT)
      exact ha

theorem execPlausFail_keeps {T : List Part} {s0 : State} {inp : Nat} {s : State} (hs : Keeps T s0 s)
    (hT : [.regs, .tbl, .items, .icu, .evr, .twin] ⊆ T) :
    KeepsO T s0 (execPlausFail inp s) := by
  delta execPlausFail
  refine keepsO_next ?_
  refine keeps_ite ?_ ?_
  · extract_lets +onlyGivenNames y1
    have hy1 : Keeps T s0 y1 := by
      unfold y1
      refine twinMod_keeps ?_ (List.Subset.trans (by decide) hT)
      exact hs
    refine raiseEv_keeps ?_ (List.Subset.trans (by decide) hT)
    refine setF_keeps ?_ (List.Subset.trans (by decide) hT)
    refine bump_keeps ?_ (List.Subset.trans (by decide) hT)
    exact hy1
  · exact hs

theorem execMramScrubStart_keeps {T : List Part} {s0 : State} {s : State} (hs : Keeps T s0 s)
    (hT : [.twin] ⊆ T) :
    KeepsO T s0 (execMramScrubStart s) := by
  delta execMramScrubStart
  refine keepsO_next ?_
  extract_lets +onlyGivenNames y1
  refine keeps_ite ?_ ?_
  · refine twinMod_keeps ?_ (List.Subset.trans (by decide) hT)
    exact hs
  · exact hs

theorem execMramScrubEnd_keeps {T : List Part} {s0 : State} {corr : Nat} {uncorr : Nat} {s : State} (hs : Keeps T s0 s)
    (hT : [.regs, .tbl, .items, .icu, .evr, .twin] ⊆ T) :
    KeepsO T s0 (execMramScrubEnd corr uncorr s) := by
  delta execMramScrubEnd
  refine keepsO_next ?_
  refine keeps_ite ?_ ?_
  · exact hs
  · extract_lets +onlyGivenNames y1
    have hy1 : Keeps T s0 y1 := by
      unfold y1
      refine wr_keeps ?_ (List.Subset.trans (by decide) hT)
      refine twinMod_keeps ?_ (List.Subset.trans (by decide) hT)
      exact hs
    extract_lets +onlyGivenNames y2
    have hy2 : Keeps T s0 y2 := by
      unfold y2
      refine keeps_ite ?_ ?_
      · refine raiseEv_keeps ?_ (List.Subset.trans (by decide) hT)
        exact hy1
      · exact hy1
    refine keeps_ite ?_ ?_
    · refine raiseEv_keeps ?_ (List.Subset.trans (by decide) hT)
      exact hy2
    · exact hy2

theorem twinRegs_keeps {T : List Part} {s0 : State} {s : State} (hs : Keeps T s0 s)
    (hT : [.regs] ⊆ T) :
    Keeps T s0 (State.twinRegs s) := by
  delta State.twinRegs
  extract_lets +onlyGivenNames y1
  extract_lets +onlyGivenNames y2
  extract_lets +onlyGivenNames y3
  extract_lets +onlyGivenNames y4
  have hy4 : Keeps T s0 y4 := by
    unfold y4
    refine wr_keeps ?_ (List.Subset.trans (by decide) hT)
    refine wr_keeps ?_ (List.Subset.trans (by decide) hT)
    exact hs
  extract_lets +onlyGivenNames y5
  have hy5 : Keeps T s0 y5 := by
    unfold y5
    refine wr_keeps ?_ (List.Subset.trans (by decide) hT)
    exact hy4
  extract_lets +onlyGivenNames y6
  refine wr_keeps ?_ (List.Subset.trans (by decide) hT)
  exact hy5

theorem digestTick_keeps {T : List Part} {s0 : State} {s : State} (hs : Keeps T s0 s)
    (hT : [.regs, .tbl, .items, .icu, .evr, .twin] ⊆ T) :
    Keeps T s0 (State.digestTick s) := by
  delta State.digestTick
  extract_lets +onlyGivenNames y1
  extract_lets +onlyGivenNames y2
  extract_lets +onlyGivenNames y3
  have hy3 : Keeps T s0 y3 := by
    unfold y3
    refine wr_keeps ?_ (List.Subset.trans (by decide) hT)
    refine wr_keeps ?_ (List.Subset.trans (by decide) hT)
    exact hs
  extract_lets +onlyGivenNames y4
  have hy4 : Keeps T s0 y4 := by
    unfold y4
    clear_value y1
    split
    · exact hs
    · refine keeps_ite ?_ ?_
      · exact hs
      · extract_lets +onlyGivenNames y5
        have hy5 : Keeps T s0 y5 := by
          unfold y5
          refine keeps_ite ?_ ?_
          · refine wr_keeps ?_ (List.Subset.trans (by decide) hT)
            exact hy3
          · exact hy3
        refine twinMod_keeps ?_ (List.Subset.trans (by decide) hT)
        exact hy5
  refine digestCheck_keeps ?_ (List.Subset.trans (by decide) hT)
  refine twinMod_keeps ?_ (List.Subset.trans (by decide) hT)
  exact hy4

theorem recNext_keeps {T : List Part} {s0 : State} {s : State} (hs : Keeps T s0 s)
    (hT : [.twin] ⊆ T) :
    Keeps T s0 (State.recNext s) := by
  delta State.recNext
  refine keeps_ite ?_ ?_
  · refine twinMod_keeps ?_ (List.Subset.trans (by decide) hT)
    exact hs
  · extract_lets +onlyGivenNames y1
    extract_lets +onlyGivenNames y2
    clear_value y2
    split
    · refine twinMod_keeps ?_ (List.Subset.trans (by decide) hT)
      exact hs
    · refine twinMod_keeps ?_ (List.Subset.trans (by decide) hT)
      exact hs

theorem recTick_keeps {T : List Part} {s0 : State} {s : State} (hs : Keeps T s0 s)
    (hT : [.twin] ⊆ T) :
    Keeps T s0 (State.recTick s) := by
  delta State.recTick
  refine twinMod_keeps ?_ (List.Subset.trans (by decide) hT)
  exact hs

theorem hbTick_keeps {T : List Part} {s0 : State} {s : State} (hs : Keeps T s0 s)
    (hT : [.twin] ⊆ T) :
    Keeps T s0 (State.hbTick s) := by
  delta State.hbTick
  refine twinMod_keeps ?_ (List.Subset.trans (by decide) hT)
  exact hs

theorem frameHi_keeps {T : List Part} {s0 : State} {s : State} {first : Bool} (hs : Keeps T s0 s)
    (hT : [.twin] ⊆ T) :
    Keeps T s0 (State.frameHi s first) := by
  delta State.frameHi
  refine keeps_ite ?_ ?_
  · refine twinMod_keeps ?_ (List.Subset.trans (by decide) hT)
    exact hs
  · exact hs

theorem hbSend_keeps {T : List Part} {s0 : State} {s : State} (hs : Keeps T s0 s)
    (hT : [.regs, .snet, .twin, .sent, .free] ⊆ T) :
    Keeps T s0 (State.hbSend s) := by
  delta State.hbSend
  refine keeps_ite ?_ ?_
  · exact hs
  · extract_lets +onlyGivenNames y1
    extract_lets +onlyGivenNames y2
    extract_lets +onlyGivenNames y3
    extract_lets +onlyGivenNames y4
    extract_lets +onlyGivenNames y5
    have hy5 : Keeps T s0 y5 := by
      unfold y5
      refine keeps_ite ?_ ?_
      · refine twinMod_keeps ?_ (List.Subset.trans (by decide) hT)
        refine useFree_keeps ?_ (List.Subset.trans (by decide) hT)
        refine emit_keeps ?_ (List.Subset.trans (by decide) hT)
        exact hs
      · exact hs
    extract_lets +onlyGivenNames y6
    have hy6 : Keeps T s0 y6 := by
      unfold y6
      refine emit_keeps ?_ (List.Subset.trans (by decide) hT)
      exact hy5
    refine keeps_ite ?_ ?_
    · refine prpStep_keeps ?_ (List.Subset.trans (by decide) hT)
      refine keeps_foldl ?_ (fun a e ha => ?_)
      · exact hy6
      · refine emit_keeps ?_ (List.Subset.trans (by decide) hT)
        refine txFrame_keeps ?_ (List.Subset.trans (by decide) hT)
        exact ha
    · exact hy6

end Sys2Proof.Machine
end

