-- ==== Sys2Proof/Laws/State.lean ====
section
/-! SUPPORT. What registers, fields, table words and parts of the state hold after the named operations. -/

namespace Sys2Proof.Machine

/-! ## Register words and fields -/

@[simp] theorem rd_wr (s : State) (a b : Nat) (v : Word) : (s.wr a v).rd b = if b = a then v else s.rd b := by
  unfold State.rd State.wr
  split
  · subst_vars; exact smGet_set_same ..
  · exact smGet_set_ne _ _ _ _ _ ‹_›

@[simp] theorem rd_setF (s : State) (f : Fld) (v b : Nat) :
    (s.setF f v).rd b = if b = f.addr then wput (s.rd f.addr) f.lo f.w v else s.rd b := rd_wr ..

@[simp] theorem rd_setB (s : State) (f : Fld) (v : Bool) (b : Nat) :
    (s.setB f v).rd b = if b = f.addr then wput (s.rd f.addr) f.lo f.w (b2n v) else s.rd b := rd_wr ..

/-- A field of another register. -/
theorem fld_of_rd {s t : State} {f : Fld} (h : t.rd f.addr = s.rd f.addr) : t.fld f = s.fld f := by
  unfold State.fld
  rw [h]

theorem bit_of_rd {s t : State} {f : Fld} (h : t.rd f.addr = s.rd f.addr) : t.bit f = s.bit f := by
  unfold State.bit
  rw [fld_of_rd h]

/-- The field that was set. -/
theorem fld_setF_same (s : State) (f : Fld) (v : Nat) (h : f.lo + f.w ≤ 32) : (s.setF f v).fld f = v % 2 ^ f.w := by
  unfold State.fld
  rw [rd_setF, if_pos rfl, wbits_wput _ _ _ _ h]

/-- A field of another register, or beside the one that was set. -/
theorem fld_setF_ne (s : State) (f g : Fld) (v : Nat) (h : g.addr ≠ f.addr ∨ f.lo + f.w ≤ g.lo ∨ g.lo + g.w ≤ f.lo) :
    (s.setF f v).fld g = s.fld g := by
  by_cases hg : g.addr = f.addr
  · unfold State.fld
    rw [rd_setF, if_pos hg, wbits_wput_ne _ _ _ _ _ _ (h.resolve_left (fun n => n hg)), hg]
  · exact fld_of_rd (by rw [rd_setF, if_neg hg])

theorem fld_wr_same (s : State) (a lo w : Nat) (v : Word) : (s.wr a v).fld ⟨a, lo, w⟩ = wbits v lo w := by
  unfold State.fld
  rw [rd_wr, if_pos rfl]

theorem fld_wr_ne (s : State) (a : Nat) (g : Fld) (v : Word) (h : g.addr ≠ a) : (s.wr a v).fld g = s.fld g :=
  fld_of_rd (by rw [rd_wr, if_neg h])

theorem b2n_ne (b : Bool) : (b2n b % 2 ^ 1 != 0) = b := by cases b <;> rfl

/-- The bit that was set or cleared. -/
theorem bit_setB_same (s : State) (a i : Nat) (b : Bool) (h : i < 32) : (s.setB (bitAt a i) b).bit (bitAt a i) = b := by
  unfold State.bit State.setB
  rw [fld_setF_same _ _ _ (by simp only [bitAt]; omega)]
  exact b2n_ne b

theorem bit_setB_ne (s : State) (f g : Fld) (b : Bool) (h : g.addr ≠ f.addr ∨ f.lo + f.w ≤ g.lo ∨ g.lo + g.w ≤ f.lo) :
    (s.setB f b).bit g = s.bit g := by
  unfold State.bit State.setB
  rw [fld_setF_ne _ _ _ _ h]

theorem bit_setF_ne (s : State) (f g : Fld) (v : Nat) (h : g.addr ≠ f.addr ∨ f.lo + f.w ≤ g.lo ∨ g.lo + g.w ≤ f.lo) :
    (s.setF f v).bit g = s.bit g := by
  unfold State.bit
  rw [fld_setF_ne _ _ _ _ h]

theorem fld_setB_ne (s : State) (f g : Fld) (b : Bool) (h : g.addr ≠ f.addr ∨ f.lo + f.w ≤ g.lo ∨ g.lo + g.w ≤ f.lo) :
    (s.setB f b).fld g = s.fld g := fld_setF_ne _ _ _ _ h

theorem bit_setF_one (s : State) (a i : Nat) (h : i < 32) : (s.setF (bitAt a i) 1).bit (bitAt a i) = true :=
  bit_setB_same s a i true h

theorem bit_setF_zero (s : State) (a i : Nat) (h : i < 32) : (s.setF (bitAt a i) 0).bit (bitAt a i) = false :=
  bit_setB_same s a i false h

/-! ## Table words and fields -/

theorem tkey_inj (t i w t' i' w' : Nat) (hi : i < 2 ^ 24) (hw : w < 2 ^ 8) (hi' : i' < 2 ^ 24) (hw' : w' < 2 ^ 8) :
    tkey t i w = tkey t' i' w' ↔ t = t' ∧ i = i' ∧ w = w' := by
  unfold tkey
  omega

theorem trd_twr_same (s : State) (t i w : Nat) (v : Word) : (s.twr t i w v).trd t i w = v := smGet_set_same ..

theorem trd_twr_ne (s : State) (t i w t' i' w' : Nat) (v : Word) (h : tkey t' i' w' ≠ tkey t i w) :
    (s.twr t i w v).trd t' i' w' = s.trd t' i' w' := smGet_set_ne _ _ _ _ _ h

theorem tfld_tset_same (s : State) (t i w lo n v : Nat) (h : lo + n ≤ 32) : (s.tset t i w lo n v).tfld t i w lo n = v % 2 ^ n := by
  unfold State.tfld State.tset
  rw [trd_twr_same, wbits_wput _ _ _ _ h]

theorem tfld_tset_ne (s : State) (t i w lo n v t' i' w' lo' n' : Nat)
    (h : tkey t' i' w' ≠ tkey t i w ∨ lo + n ≤ lo' ∨ lo' + n' ≤ lo) :
    (s.tset t i w lo n v).tfld t' i' w' lo' n' = s.tfld t' i' w' lo' n' := by
  unfold State.tfld State.tset
  by_cases hk : tkey t' i' w' = tkey t i w
  · have : (s.twr t i w (wput (s.trd t i w) lo n v)).trd t' i' w' = wput (s.trd t i w) lo n v := by
      unfold State.trd State.twr
      rw [hk]
      exact smGet_set_same ..
    rw [this, wbits_wput_ne _ _ _ _ _ _ (h.resolve_left (fun f => f hk))]
    unfold State.trd
    rw [hk]
  · rw [trd_twr_ne _ _ _ _ _ _ _ _ hk]

/-! ## What an operation leaves, by part -/

theorem wr_only (s : State) (a : Nat) (v : Word) : s.onlyIn (State.wr s a v) [.regs] := (wr_keeps (T := [.regs]) (Keeps.refl _ s) (List.Subset.refl _)).only
@[simp] theorem vis_wr (s : State) (a : Nat) (v : Word) : (State.wr s a v).vis = s.vis := wr_only s a v .vis (by decide)
@[simp] theorem shadow_wr (s : State) (a : Nat) (v : Word) : (State.wr s a v).shadow = s.shadow := wr_only s a v .shadow (by decide)
@[simp] theorem tbl_wr (s : State) (a : Nat) (v : Word) : (State.wr s a v).tbl = s.tbl := wr_only s a v .tbl (by decide)
@[simp] theorem tshadow_wr (s : State) (a : Nat) (v : Word) : (State.wr s a v).tshadow = s.tshadow := wr_only s a v .tshadow (by decide)
@[simp] theorem frzFrom_wr (s : State) (a : Nat) (v : Word) : (State.wr s a v).frzFrom = s.frzFrom := wr_only s a v .frzFrom (by decide)
@[simp] theorem commitDue_wr (s : State) (a : Nat) (v : Word) : (State.wr s a v).commitDue = s.commitDue := wr_only s a v .commitDue (by decide)
@[simp] theorem mbx_wr (s : State) (a : Nat) (v : Word) : (State.wr s a v).mbx = s.mbx := wr_only s a v .mbx (by decide)
@[simp] theorem host_wr (s : State) (a : Nat) (v : Word) : (State.wr s a v).host = s.host := wr_only s a v .items (by decide)
@[simp] theorem icu_wr (s : State) (a : Nat) (v : Word) : (State.wr s a v).icu = s.icu := wr_only s a v .icu (by decide)
@[simp] theorem evr_wr (s : State) (a : Nat) (v : Word) : (State.wr s a v).evr = s.evr := wr_only s a v .evr (by decide)
@[simp] theorem seq_wr (s : State) (a : Nat) (v : Word) : (State.wr s a v).seq = s.seq := wr_only s a v .seq (by decide)
@[simp] theorem cpe_wr (s : State) (a : Nat) (v : Word) : (State.wr s a v).cpe = s.cpe := wr_only s a v .cpe (by decide)
@[simp] theorem time_wr (s : State) (a : Nat) (v : Word) : (State.wr s a v).time = s.time := wr_only s a v .time (by decide)
@[simp] theorem model_wr (s : State) (a : Nat) (v : Word) : (State.wr s a v).model = s.model := wr_only s a v .model (by decide)
@[simp] theorem opt_wr (s : State) (a : Nat) (v : Word) : (State.wr s a v).opt = s.opt := wr_only s a v .opt (by decide)
@[simp] theorem snet_wr (s : State) (a : Nat) (v : Word) : (State.wr s a v).snet = s.snet := wr_only s a v .snet (by decide)
@[simp] theorem can_wr (s : State) (a : Nat) (v : Word) : (State.wr s a v).can = s.can := wr_only s a v .can (by decide)
@[simp] theorem dio_wr (s : State) (a : Nat) (v : Word) : (State.wr s a v).dio = s.dio := wr_only s a v .dio (by decide)
@[simp] theorem adc_wr (s : State) (a : Nat) (v : Word) : (State.wr s a v).adc = s.adc := wr_only s a v .adc (by decide)
@[simp] theorem lnch_wr (s : State) (a : Nat) (v : Word) : (State.wr s a v).lnch = s.lnch := wr_only s a v .lnch (by decide)
@[simp] theorem priv_wr (s : State) (a : Nat) (v : Word) : (State.wr s a v).priv = s.priv := wr_only s a v .priv (by decide)
@[simp] theorem met_wr (s : State) (a : Nat) (v : Word) : (State.wr s a v).met = s.met := wr_only s a v .met (by decide)
@[simp] theorem metNv_wr (s : State) (a : Nat) (v : Word) : (State.wr s a v).metNv = s.metNv := wr_only s a v .metNv (by decide)
@[simp] theorem pwr_wr (s : State) (a : Nat) (v : Word) : (State.wr s a v).pwr = s.pwr := wr_only s a v .pwr (by decide)
@[simp] theorem cpeNv_wr (s : State) (a : Nat) (v : Word) : (State.wr s a v).cpeNv = s.cpeNv := wr_only s a v .cpeNv (by decide)
@[simp] theorem loop_wr (s : State) (a : Nat) (v : Word) : (State.wr s a v).loop = s.loop := wr_only s a v .loop (by decide)
@[simp] theorem twin_wr (s : State) (a : Nat) (v : Word) : (State.wr s a v).twin = s.twin := wr_only s a v .twin (by decide)
@[simp] theorem segs_wr (s : State) (a : Nat) (v : Word) : (State.wr s a v).segs = s.segs := wr_only s a v .segs (by decide)
@[simp] theorem keys_wr (s : State) (a : Nat) (v : Word) : (State.wr s a v).keys = s.keys := wr_only s a v .keys (by decide)
@[simp] theorem cfg_wr (s : State) (a : Nat) (v : Word) : (State.wr s a v).cfg = s.cfg := wr_only s a v .cfg (by decide)
@[simp] theorem dev_wr (s : State) (a : Nat) (v : Word) : (State.wr s a v).dev = s.dev := wr_only s a v .dev (by decide)
@[simp] theorem sent_wr (s : State) (a : Nat) (v : Word) : (State.wr s a v).sent = s.sent := wr_only s a v .sent (by decide)
@[simp] theorem free_wr (s : State) (a : Nat) (v : Word) : (State.wr s a v).free = s.free := wr_only s a v .free (by decide)
@[simp] theorem pending_wr (s : State) (a : Nat) (v : Word) : (State.wr s a v).pending = s.pending := (wr_keeps (T := [.regs]) (Keeps.refl _ s) (List.Subset.refl _)).pending
@[simp] theorem trd_wr (s : State) (a : Nat) (v : Word) (x y z : Nat) : (State.wr s a v).trd x y z = s.trd x y z := by simp [State.trd]
@[simp] theorem tfld_wr (s : State) (a : Nat) (v : Word) (x y z u w_ : Nat) : (State.wr s a v).tfld x y z u w_ = s.tfld x y z u w_ := by simp [State.tfld]

theorem setF_only (s : State) (f : Fld) (v : Nat) : s.onlyIn (State.setF s f v) [.regs] := (setF_keeps (T := [.regs]) (Keeps.refl _ s) (List.Subset.refl _)).only
@[simp] theorem vis_setF (s : State) (f : Fld) (v : Nat) : (State.setF s f v).vis = s.vis := setF_only s f v .vis (by decide)
@[simp] theorem shadow_setF (s : State) (f : Fld) (v : Nat) : (State.setF s f v).shadow = s.shadow := setF_only s f v .shadow (by decide)
@[simp] theorem tbl_setF (s : State) (f : Fld) (v : Nat) : (State.setF s f v).tbl = s.tbl := setF_only s f v .tbl (by decide)
@[simp] theorem tshadow_setF (s : State) (f : Fld) (v : Nat) : (State.setF s f v).tshadow = s.tshadow := setF_only s f v .tshadow (by decide)
@[simp] theorem frzFrom_setF (s : State) (f : Fld) (v : Nat) : (State.setF s f v).frzFrom = s.frzFrom := setF_only s f v .frzFrom (by decide)
@[simp] theorem commitDue_setF (s : State) (f : Fld) (v : Nat) : (State.setF s f v).commitDue = s.commitDue := setF_only s f v .commitDue (by decide)
@[simp] theorem mbx_setF (s : State) (f : Fld) (v : Nat) : (State.setF s f v).mbx = s.mbx := setF_only s f v .mbx (by decide)
@[simp] theorem host_setF (s : State) (f : Fld) (v : Nat) : (State.setF s f v).host = s.host := setF_only s f v .items (by decide)
@[simp] theorem icu_setF (s : State) (f : Fld) (v : Nat) : (State.setF s f v).icu = s.icu := setF_only s f v .icu (by decide)
@[simp] theorem evr_setF (s : State) (f : Fld) (v : Nat) : (State.setF s f v).evr = s.evr := setF_only s f v .evr (by decide)
@[simp] theorem seq_setF (s : State) (f : Fld) (v : Nat) : (State.setF s f v).seq = s.seq := setF_only s f v .seq (by decide)
@[simp] theorem cpe_setF (s : State) (f : Fld) (v : Nat) : (State.setF s f v).cpe = s.cpe := setF_only s f v .cpe (by decide)
@[simp] theorem time_setF (s : State) (f : Fld) (v : Nat) : (State.setF s f v).time = s.time := setF_only s f v .time (by decide)
@[simp] theorem model_setF (s : State) (f : Fld) (v : Nat) : (State.setF s f v).model = s.model := setF_only s f v .model (by decide)
@[simp] theorem opt_setF (s : State) (f : Fld) (v : Nat) : (State.setF s f v).opt = s.opt := setF_only s f v .opt (by decide)
@[simp] theorem snet_setF (s : State) (f : Fld) (v : Nat) : (State.setF s f v).snet = s.snet := setF_only s f v .snet (by decide)
@[simp] theorem can_setF (s : State) (f : Fld) (v : Nat) : (State.setF s f v).can = s.can := setF_only s f v .can (by decide)
@[simp] theorem dio_setF (s : State) (f : Fld) (v : Nat) : (State.setF s f v).dio = s.dio := setF_only s f v .dio (by decide)
@[simp] theorem adc_setF (s : State) (f : Fld) (v : Nat) : (State.setF s f v).adc = s.adc := setF_only s f v .adc (by decide)
@[simp] theorem lnch_setF (s : State) (f : Fld) (v : Nat) : (State.setF s f v).lnch = s.lnch := setF_only s f v .lnch (by decide)
@[simp] theorem priv_setF (s : State) (f : Fld) (v : Nat) : (State.setF s f v).priv = s.priv := setF_only s f v .priv (by decide)
@[simp] theorem met_setF (s : State) (f : Fld) (v : Nat) : (State.setF s f v).met = s.met := setF_only s f v .met (by decide)
@[simp] theorem metNv_setF (s : State) (f : Fld) (v : Nat) : (State.setF s f v).metNv = s.metNv := setF_only s f v .metNv (by decide)
@[simp] theorem pwr_setF (s : State) (f : Fld) (v : Nat) : (State.setF s f v).pwr = s.pwr := setF_only s f v .pwr (by decide)
@[simp] theorem cpeNv_setF (s : State) (f : Fld) (v : Nat) : (State.setF s f v).cpeNv = s.cpeNv := setF_only s f v .cpeNv (by decide)
@[simp] theorem loop_setF (s : State) (f : Fld) (v : Nat) : (State.setF s f v).loop = s.loop := setF_only s f v .loop (by decide)
@[simp] theorem twin_setF (s : State) (f : Fld) (v : Nat) : (State.setF s f v).twin = s.twin := setF_only s f v .twin (by decide)
@[simp] theorem segs_setF (s : State) (f : Fld) (v : Nat) : (State.setF s f v).segs = s.segs := setF_only s f v .segs (by decide)
@[simp] theorem keys_setF (s : State) (f : Fld) (v : Nat) : (State.setF s f v).keys = s.keys := setF_only s f v .keys (by decide)
@[simp] theorem cfg_setF (s : State) (f : Fld) (v : Nat) : (State.setF s f v).cfg = s.cfg := setF_only s f v .cfg (by decide)
@[simp] theorem dev_setF (s : State) (f : Fld) (v : Nat) : (State.setF s f v).dev = s.dev := setF_only s f v .dev (by decide)
@[simp] theorem sent_setF (s : State) (f : Fld) (v : Nat) : (State.setF s f v).sent = s.sent := setF_only s f v .sent (by decide)
@[simp] theorem free_setF (s : State) (f : Fld) (v : Nat) : (State.setF s f v).free = s.free := setF_only s f v .free (by decide)
@[simp] theorem pending_setF (s : State) (f : Fld) (v : Nat) : (State.setF s f v).pending = s.pending := (setF_keeps (T := [.regs]) (Keeps.refl _ s) (List.Subset.refl _)).pending
@[simp] theorem trd_setF (s : State) (f : Fld) (v : Nat) (x y z : Nat) : (State.setF s f v).trd x y z = s.trd x y z := by simp [State.trd]
@[simp] theorem tfld_setF (s : State) (f : Fld) (v : Nat) (x y z u w_ : Nat) : (State.setF s f v).tfld x y z u w_ = s.tfld x y z u w_ := by simp [State.tfld]

theorem setB_only (s : State) (f : Fld) (b : Bool) : s.onlyIn (State.setB s f b) [.regs] := (setB_keeps (T := [.regs]) (Keeps.refl _ s) (List.Subset.refl _)).only
@[simp] theorem vis_setB (s : State) (f : Fld) (b : Bool) : (State.setB s f b).vis = s.vis := setB_only s f b .vis (by decide)
@[simp] theorem shadow_setB (s : State) (f : Fld) (b : Bool) : (State.setB s f b).shadow = s.shadow := setB_only s f b .shadow (by decide)
@[simp] theorem tbl_setB (s : State) (f : Fld) (b : Bool) : (State.setB s f b).tbl = s.tbl := setB_only s f b .tbl (by decide)
@[simp] theorem tshadow_setB (s : State) (f : Fld) (b : Bool) : (State.setB s f b).tshadow = s.tshadow := setB_only s f b .tshadow (by decide)
@[simp] theorem frzFrom_setB (s : State) (f : Fld) (b : Bool) : (State.setB s f b).frzFrom = s.frzFrom := setB_only s f b .frzFrom (by decide)
@[simp] theorem commitDue_setB (s : State) (f : Fld) (b : Bool) : (State.setB s f b).commitDue = s.commitDue := setB_only s f b .commitDue (by decide)
@[simp] theorem mbx_setB (s : State) (f : Fld) (b : Bool) : (State.setB s f b).mbx = s.mbx := setB_only s f b .mbx (by decide)
@[simp] theorem host_setB (s : State) (f : Fld) (b : Bool) : (State.setB s f b).host = s.host := setB_only s f b .items (by decide)
@[simp] theorem icu_setB (s : State) (f : Fld) (b : Bool) : (State.setB s f b).icu = s.icu := setB_only s f b .icu (by decide)
@[simp] theorem evr_setB (s : State) (f : Fld) (b : Bool) : (State.setB s f b).evr = s.evr := setB_only s f b .evr (by decide)
@[simp] theorem seq_setB (s : State) (f : Fld) (b : Bool) : (State.setB s f b).seq = s.seq := setB_only s f b .seq (by decide)
@[simp] theorem cpe_setB (s : State) (f : Fld) (b : Bool) : (State.setB s f b).cpe = s.cpe := setB_only s f b .cpe (by decide)
@[simp] theorem time_setB (s : State) (f : Fld) (b : Bool) : (State.setB s f b).time = s.time := setB_only s f b .time (by decide)
@[simp] theorem model_setB (s : State) (f : Fld) (b : Bool) : (State.setB s f b).model = s.model := setB_only s f b .model (by decide)
@[simp] theorem opt_setB (s : State) (f : Fld) (b : Bool) : (State.setB s f b).opt = s.opt := setB_only s f b .opt (by decide)
@[simp] theorem snet_setB (s : State) (f : Fld) (b : Bool) : (State.setB s f b).snet = s.snet := setB_only s f b .snet (by decide)
@[simp] theorem can_setB (s : State) (f : Fld) (b : Bool) : (State.setB s f b).can = s.can := setB_only s f b .can (by decide)
@[simp] theorem dio_setB (s : State) (f : Fld) (b : Bool) : (State.setB s f b).dio = s.dio := setB_only s f b .dio (by decide)
@[simp] theorem adc_setB (s : State) (f : Fld) (b : Bool) : (State.setB s f b).adc = s.adc := setB_only s f b .adc (by decide)
@[simp] theorem lnch_setB (s : State) (f : Fld) (b : Bool) : (State.setB s f b).lnch = s.lnch := setB_only s f b .lnch (by decide)
@[simp] theorem priv_setB (s : State) (f : Fld) (b : Bool) : (State.setB s f b).priv = s.priv := setB_only s f b .priv (by decide)
@[simp] theorem met_setB (s : State) (f : Fld) (b : Bool) : (State.setB s f b).met = s.met := setB_only s f b .met (by decide)
@[simp] theorem metNv_setB (s : State) (f : Fld) (b : Bool) : (State.setB s f b).metNv = s.metNv := setB_only s f b .metNv (by decide)
@[simp] theorem pwr_setB (s : State) (f : Fld) (b : Bool) : (State.setB s f b).pwr = s.pwr := setB_only s f b .pwr (by decide)
@[simp] theorem cpeNv_setB (s : State) (f : Fld) (b : Bool) : (State.setB s f b).cpeNv = s.cpeNv := setB_only s f b .cpeNv (by decide)
@[simp] theorem loop_setB (s : State) (f : Fld) (b : Bool) : (State.setB s f b).loop = s.loop := setB_only s f b .loop (by decide)
@[simp] theorem twin_setB (s : State) (f : Fld) (b : Bool) : (State.setB s f b).twin = s.twin := setB_only s f b .twin (by decide)
@[simp] theorem segs_setB (s : State) (f : Fld) (b : Bool) : (State.setB s f b).segs = s.segs := setB_only s f b .segs (by decide)
@[simp] theorem keys_setB (s : State) (f : Fld) (b : Bool) : (State.setB s f b).keys = s.keys := setB_only s f b .keys (by decide)
@[simp] theorem cfg_setB (s : State) (f : Fld) (b : Bool) : (State.setB s f b).cfg = s.cfg := setB_only s f b .cfg (by decide)
@[simp] theorem dev_setB (s : State) (f : Fld) (b : Bool) : (State.setB s f b).dev = s.dev := setB_only s f b .dev (by decide)
@[simp] theorem sent_setB (s : State) (f : Fld) (b : Bool) : (State.setB s f b).sent = s.sent := setB_only s f b .sent (by decide)
@[simp] theorem free_setB (s : State) (f : Fld) (b : Bool) : (State.setB s f b).free = s.free := setB_only s f b .free (by decide)
@[simp] theorem pending_setB (s : State) (f : Fld) (b : Bool) : (State.setB s f b).pending = s.pending := (setB_keeps (T := [.regs]) (Keeps.refl _ s) (List.Subset.refl _)).pending
@[simp] theorem trd_setB (s : State) (f : Fld) (b : Bool) (x y z : Nat) : (State.setB s f b).trd x y z = s.trd x y z := by simp [State.trd]
@[simp] theorem tfld_setB (s : State) (f : Fld) (b : Bool) (x y z u w_ : Nat) : (State.setB s f b).tfld x y z u w_ = s.tfld x y z u w_ := by simp [State.tfld]

theorem twr_only (s : State) (tid : Nat) (idx : Nat) (w : Nat) (v : Word) : s.onlyIn (State.twr s tid idx w v) [.tbl] := (twr_keeps (T := [.tbl]) (Keeps.refl _ s) (List.Subset.refl _)).only
@[simp] theorem regs_twr (s : State) (tid : Nat) (idx : Nat) (w : Nat) (v : Word) : (State.twr s tid idx w v).regs = s.regs := twr_only s tid idx w v .regs (by decide)
@[simp] theorem vis_twr (s : State) (tid : Nat) (idx : Nat) (w : Nat) (v : Word) : (State.twr s tid idx w v).vis = s.vis := twr_only s tid idx w v .vis (by decide)
@[simp] theorem shadow_twr (s : State) (tid : Nat) (idx : Nat) (w : Nat) (v : Word) : (State.twr s tid idx w v).shadow = s.shadow := twr_only s tid idx w v .shadow (by decide)
@[simp] theorem tshadow_twr (s : State) (tid : Nat) (idx : Nat) (w : Nat) (v : Word) : (State.twr s tid idx w v).tshadow = s.tshadow := twr_only s tid idx w v .tshadow (by decide)
@[simp] theorem frzFrom_twr (s : State) (tid : Nat) (idx : Nat) (w : Nat) (v : Word) : (State.twr s tid idx w v).frzFrom = s.frzFrom := twr_only s tid idx w v .frzFrom (by decide)
@[simp] theorem commitDue_twr (s : State) (tid : Nat) (idx : Nat) (w : Nat) (v : Word) : (State.twr s tid idx w v).commitDue = s.commitDue := twr_only s tid idx w v .commitDue (by decide)
@[simp] theorem mbx_twr (s : State) (tid : Nat) (idx : Nat) (w : Nat) (v : Word) : (State.twr s tid idx w v).mbx = s.mbx := twr_only s tid idx w v .mbx (by decide)
@[simp] theorem host_twr (s : State) (tid : Nat) (idx : Nat) (w : Nat) (v : Word) : (State.twr s tid idx w v).host = s.host := twr_only s tid idx w v .items (by decide)
@[simp] theorem icu_twr (s : State) (tid : Nat) (idx : Nat) (w : Nat) (v : Word) : (State.twr s tid idx w v).icu = s.icu := twr_only s tid idx w v .icu (by decide)
@[simp] theorem evr_twr (s : State) (tid : Nat) (idx : Nat) (w : Nat) (v : Word) : (State.twr s tid idx w v).evr = s.evr := twr_only s tid idx w v .evr (by decide)
@[simp] theorem seq_twr (s : State) (tid : Nat) (idx : Nat) (w : Nat) (v : Word) : (State.twr s tid idx w v).seq = s.seq := twr_only s tid idx w v .seq (by decide)
@[simp] theorem cpe_twr (s : State) (tid : Nat) (idx : Nat) (w : Nat) (v : Word) : (State.twr s tid idx w v).cpe = s.cpe := twr_only s tid idx w v .cpe (by decide)
@[simp] theorem time_twr (s : State) (tid : Nat) (idx : Nat) (w : Nat) (v : Word) : (State.twr s tid idx w v).time = s.time := twr_only s tid idx w v .time (by decide)
@[simp] theorem model_twr (s : State) (tid : Nat) (idx : Nat) (w : Nat) (v : Word) : (State.twr s tid idx w v).model = s.model := twr_only s tid idx w v .model (by decide)
@[simp] theorem opt_twr (s : State) (tid : Nat) (idx : Nat) (w : Nat) (v : Word) : (State.twr s tid idx w v).opt = s.opt := twr_only s tid idx w v .opt (by decide)
@[simp] theorem snet_twr (s : State) (tid : Nat) (idx : Nat) (w : Nat) (v : Word) : (State.twr s tid idx w v).snet = s.snet := twr_only s tid idx w v .snet (by decide)
@[simp] theorem can_twr (s : State) (tid : Nat) (idx : Nat) (w : Nat) (v : Word) : (State.twr s tid idx w v).can = s.can := twr_only s tid idx w v .can (by decide)
@[simp] theorem dio_twr (s : State) (tid : Nat) (idx : Nat) (w : Nat) (v : Word) : (State.twr s tid idx w v).dio = s.dio := twr_only s tid idx w v .dio (by decide)
@[simp] theorem adc_twr (s : State) (tid : Nat) (idx : Nat) (w : Nat) (v : Word) : (State.twr s tid idx w v).adc = s.adc := twr_only s tid idx w v .adc (by decide)
@[simp] theorem lnch_twr (s : State) (tid : Nat) (idx : Nat) (w : Nat) (v : Word) : (State.twr s tid idx w v).lnch = s.lnch := twr_only s tid idx w v .lnch (by decide)
@[simp] theorem priv_twr (s : State) (tid : Nat) (idx : Nat) (w : Nat) (v : Word) : (State.twr s tid idx w v).priv = s.priv := twr_only s tid idx w v .priv (by decide)
@[simp] theorem met_twr (s : State) (tid : Nat) (idx : Nat) (w : Nat) (v : Word) : (State.twr s tid idx w v).met = s.met := twr_only s tid idx w v .met (by decide)
@[simp] theorem metNv_twr (s : State) (tid : Nat) (idx : Nat) (w : Nat) (v : Word) : (State.twr s tid idx w v).metNv = s.metNv := twr_only s tid idx w v .metNv (by decide)
@[simp] theorem pwr_twr (s : State) (tid : Nat) (idx : Nat) (w : Nat) (v : Word) : (State.twr s tid idx w v).pwr = s.pwr := twr_only s tid idx w v .pwr (by decide)
@[simp] theorem cpeNv_twr (s : State) (tid : Nat) (idx : Nat) (w : Nat) (v : Word) : (State.twr s tid idx w v).cpeNv = s.cpeNv := twr_only s tid idx w v .cpeNv (by decide)
@[simp] theorem loop_twr (s : State) (tid : Nat) (idx : Nat) (w : Nat) (v : Word) : (State.twr s tid idx w v).loop = s.loop := twr_only s tid idx w v .loop (by decide)
@[simp] theorem twin_twr (s : State) (tid : Nat) (idx : Nat) (w : Nat) (v : Word) : (State.twr s tid idx w v).twin = s.twin := twr_only s tid idx w v .twin (by decide)
@[simp] theorem segs_twr (s : State) (tid : Nat) (idx : Nat) (w : Nat) (v : Word) : (State.twr s tid idx w v).segs = s.segs := twr_only s tid idx w v .segs (by decide)
@[simp] theorem keys_twr (s : State) (tid : Nat) (idx : Nat) (w : Nat) (v : Word) : (State.twr s tid idx w v).keys = s.keys := twr_only s tid idx w v .keys (by decide)
@[simp] theorem cfg_twr (s : State) (tid : Nat) (idx : Nat) (w : Nat) (v : Word) : (State.twr s tid idx w v).cfg = s.cfg := twr_only s tid idx w v .cfg (by decide)
@[simp] theorem dev_twr (s : State) (tid : Nat) (idx : Nat) (w : Nat) (v : Word) : (State.twr s tid idx w v).dev = s.dev := twr_only s tid idx w v .dev (by decide)
@[simp] theorem sent_twr (s : State) (tid : Nat) (idx : Nat) (w : Nat) (v : Word) : (State.twr s tid idx w v).sent = s.sent := twr_only s tid idx w v .sent (by decide)
@[simp] theorem free_twr (s : State) (tid : Nat) (idx : Nat) (w : Nat) (v : Word) : (State.twr s tid idx w v).free = s.free := twr_only s tid idx w v .free (by decide)
@[simp] theorem pending_twr (s : State) (tid : Nat) (idx : Nat) (w : Nat) (v : Word) : (State.twr s tid idx w v).pending = s.pending := (twr_keeps (T := [.tbl]) (Keeps.refl _ s) (List.Subset.refl _)).pending
@[simp] theorem rd_twr (s : State) (tid : Nat) (idx : Nat) (w : Nat) (v : Word) (x : Nat) : (State.twr s tid idx w v).rd x = s.rd x := by simp [State.rd]
@[simp] theorem fld_twr (s : State) (tid : Nat) (idx : Nat) (w : Nat) (v : Word) (x : Fld) : (State.twr s tid idx w v).fld x = s.fld x := by simp [State.fld]
@[simp] theorem bit_twr (s : State) (tid : Nat) (idx : Nat) (w : Nat) (v : Word) (x : Fld) : (State.twr s tid idx w v).bit x = s.bit x := by simp [State.bit]

theorem tset_only (s : State) (tid : Nat) (idx : Nat) (w : Nat) (lo : Nat) (n : Nat) (v : Nat) : s.onlyIn (State.tset s tid idx w lo n v) [.tbl] := (tset_keeps (T := [.tbl]) (Keeps.refl _ s) (List.Subset.refl _)).only
@[simp] theorem regs_tset (s : State) (tid : Nat) (idx : Nat) (w : Nat) (lo : Nat) (n : Nat) (v : Nat) : (State.tset s tid idx w lo n v).regs = s.regs := tset_only s tid idx w lo n v .regs (by decide)
@[simp] theorem vis_tset (s : State) (tid : Nat) (idx : Nat) (w : Nat) (lo : Nat) (n : Nat) (v : Nat) : (State.tset s tid idx w lo n v).vis = s.vis := tset_only s tid idx w lo n v .vis (by decide)
@[simp] theorem shadow_tset (s : State) (tid : Nat) (idx : Nat) (w : Nat) (lo : Nat) (n : Nat) (v : Nat) : (State.tset s tid idx w lo n v).shadow = s.shadow := tset_only s tid idx w lo n v .shadow (by decide)
@[simp] theorem tshadow_tset (s : State) (tid : Nat) (idx : Nat) (w : Nat) (lo : Nat) (n : Nat) (v : Nat) : (State.tset s tid idx w lo n v).tshadow = s.tshadow := tset_only s tid idx w lo n v .tshadow (by decide)
@[simp] theorem frzFrom_tset (s : State) (tid : Nat) (idx : Nat) (w : Nat) (lo : Nat) (n : Nat) (v : Nat) : (State.tset s tid idx w lo n v).frzFrom = s.frzFrom := tset_only s tid idx w lo n v .frzFrom (by decide)
@[simp] theorem commitDue_tset (s : State) (tid : Nat) (idx : Nat) (w : Nat) (lo : Nat) (n : Nat) (v : Nat) : (State.tset s tid idx w lo n v).commitDue = s.commitDue := tset_only s tid idx w lo n v .commitDue (by decide)
@[simp] theorem mbx_tset (s : State) (tid : Nat) (idx : Nat) (w : Nat) (lo : Nat) (n : Nat) (v : Nat) : (State.tset s tid idx w lo n v).mbx = s.mbx := tset_only s tid idx w lo n v .mbx (by decide)
@[simp] theorem host_tset (s : State) (tid : Nat) (idx : Nat) (w : Nat) (lo : Nat) (n : Nat) (v : Nat) : (State.tset s tid idx w lo n v).host = s.host := tset_only s tid idx w lo n v .items (by decide)
@[simp] theorem icu_tset (s : State) (tid : Nat) (idx : Nat) (w : Nat) (lo : Nat) (n : Nat) (v : Nat) : (State.tset s tid idx w lo n v).icu = s.icu := tset_only s tid idx w lo n v .icu (by decide)
@[simp] theorem evr_tset (s : State) (tid : Nat) (idx : Nat) (w : Nat) (lo : Nat) (n : Nat) (v : Nat) : (State.tset s tid idx w lo n v).evr = s.evr := tset_only s tid idx w lo n v .evr (by decide)
@[simp] theorem seq_tset (s : State) (tid : Nat) (idx : Nat) (w : Nat) (lo : Nat) (n : Nat) (v : Nat) : (State.tset s tid idx w lo n v).seq = s.seq := tset_only s tid idx w lo n v .seq (by decide)
@[simp] theorem cpe_tset (s : State) (tid : Nat) (idx : Nat) (w : Nat) (lo : Nat) (n : Nat) (v : Nat) : (State.tset s tid idx w lo n v).cpe = s.cpe := tset_only s tid idx w lo n v .cpe (by decide)
@[simp] theorem time_tset (s : State) (tid : Nat) (idx : Nat) (w : Nat) (lo : Nat) (n : Nat) (v : Nat) : (State.tset s tid idx w lo n v).time = s.time := tset_only s tid idx w lo n v .time (by decide)
@[simp] theorem model_tset (s : State) (tid : Nat) (idx : Nat) (w : Nat) (lo : Nat) (n : Nat) (v : Nat) : (State.tset s tid idx w lo n v).model = s.model := tset_only s tid idx w lo n v .model (by decide)
@[simp] theorem opt_tset (s : State) (tid : Nat) (idx : Nat) (w : Nat) (lo : Nat) (n : Nat) (v : Nat) : (State.tset s tid idx w lo n v).opt = s.opt := tset_only s tid idx w lo n v .opt (by decide)
@[simp] theorem snet_tset (s : State) (tid : Nat) (idx : Nat) (w : Nat) (lo : Nat) (n : Nat) (v : Nat) : (State.tset s tid idx w lo n v).snet = s.snet := tset_only s tid idx w lo n v .snet (by decide)
@[simp] theorem can_tset (s : State) (tid : Nat) (idx : Nat) (w : Nat) (lo : Nat) (n : Nat) (v : Nat) : (State.tset s tid idx w lo n v).can = s.can := tset_only s tid idx w lo n v .can (by decide)
@[simp] theorem dio_tset (s : State) (tid : Nat) (idx : Nat) (w : Nat) (lo : Nat) (n : Nat) (v : Nat) : (State.tset s tid idx w lo n v).dio = s.dio := tset_only s tid idx w lo n v .dio (by decide)
@[simp] theorem adc_tset (s : State) (tid : Nat) (idx : Nat) (w : Nat) (lo : Nat) (n : Nat) (v : Nat) : (State.tset s tid idx w lo n v).adc = s.adc := tset_only s tid idx w lo n v .adc (by decide)
@[simp] theorem lnch_tset (s : State) (tid : Nat) (idx : Nat) (w : Nat) (lo : Nat) (n : Nat) (v : Nat) : (State.tset s tid idx w lo n v).lnch = s.lnch := tset_only s tid idx w lo n v .lnch (by decide)
@[simp] theorem priv_tset (s : State) (tid : Nat) (idx : Nat) (w : Nat) (lo : Nat) (n : Nat) (v : Nat) : (State.tset s tid idx w lo n v).priv = s.priv := tset_only s tid idx w lo n v .priv (by decide)
@[simp] theorem met_tset (s : State) (tid : Nat) (idx : Nat) (w : Nat) (lo : Nat) (n : Nat) (v : Nat) : (State.tset s tid idx w lo n v).met = s.met := tset_only s tid idx w lo n v .met (by decide)
@[simp] theorem metNv_tset (s : State) (tid : Nat) (idx : Nat) (w : Nat) (lo : Nat) (n : Nat) (v : Nat) : (State.tset s tid idx w lo n v).metNv = s.metNv := tset_only s tid idx w lo n v .metNv (by decide)
@[simp] theorem pwr_tset (s : State) (tid : Nat) (idx : Nat) (w : Nat) (lo : Nat) (n : Nat) (v : Nat) : (State.tset s tid idx w lo n v).pwr = s.pwr := tset_only s tid idx w lo n v .pwr (by decide)
@[simp] theorem cpeNv_tset (s : State) (tid : Nat) (idx : Nat) (w : Nat) (lo : Nat) (n : Nat) (v : Nat) : (State.tset s tid idx w lo n v).cpeNv = s.cpeNv := tset_only s tid idx w lo n v .cpeNv (by decide)
@[simp] theorem loop_tset (s : State) (tid : Nat) (idx : Nat) (w : Nat) (lo : Nat) (n : Nat) (v : Nat) : (State.tset s tid idx w lo n v).loop = s.loop := tset_only s tid idx w lo n v .loop (by decide)
@[simp] theorem twin_tset (s : State) (tid : Nat) (idx : Nat) (w : Nat) (lo : Nat) (n : Nat) (v : Nat) : (State.tset s tid idx w lo n v).twin = s.twin := tset_only s tid idx w lo n v .twin (by decide)
@[simp] theorem segs_tset (s : State) (tid : Nat) (idx : Nat) (w : Nat) (lo : Nat) (n : Nat) (v : Nat) : (State.tset s tid idx w lo n v).segs = s.segs := tset_only s tid idx w lo n v .segs (by decide)
@[simp] theorem keys_tset (s : State) (tid : Nat) (idx : Nat) (w : Nat) (lo : Nat) (n : Nat) (v : Nat) : (State.tset s tid idx w lo n v).keys = s.keys := tset_only s tid idx w lo n v .keys (by decide)
@[simp] theorem cfg_tset (s : State) (tid : Nat) (idx : Nat) (w : Nat) (lo : Nat) (n : Nat) (v : Nat) : (State.tset s tid idx w lo n v).cfg = s.cfg := tset_only s tid idx w lo n v .cfg (by decide)
@[simp] theorem dev_tset (s : State) (tid : Nat) (idx : Nat) (w : Nat) (lo : Nat) (n : Nat) (v : Nat) : (State.tset s tid idx w lo n v).dev = s.dev := tset_only s tid idx w lo n v .dev (by decide)
@[simp] theorem sent_tset (s : State) (tid : Nat) (idx : Nat) (w : Nat) (lo : Nat) (n : Nat) (v : Nat) : (State.tset s tid idx w lo n v).sent = s.sent := tset_only s tid idx w lo n v .sent (by decide)
@[simp] theorem free_tset (s : State) (tid : Nat) (idx : Nat) (w : Nat) (lo : Nat) (n : Nat) (v : Nat) : (State.tset s tid idx w lo n v).free = s.free := tset_only s tid idx w lo n v .free (by decide)
@[simp] theorem pending_tset (s : State) (tid : Nat) (idx : Nat) (w : Nat) (lo : Nat) (n : Nat) (v : Nat) : (State.tset s tid idx w lo n v).pending = s.pending := (tset_keeps (T := [.tbl]) (Keeps.refl _ s) (List.Subset.refl _)).pending
@[simp] theorem rd_tset (s : State) (tid : Nat) (idx : Nat) (w : Nat) (lo : Nat) (n : Nat) (v : Nat) (x : Nat) : (State.tset s tid idx w lo n v).rd x = s.rd x := by simp [State.rd]
@[simp] theorem fld_tset (s : State) (tid : Nat) (idx : Nat) (w : Nat) (lo : Nat) (n : Nat) (v : Nat) (x : Fld) : (State.tset s tid idx w lo n v).fld x = s.fld x := by simp [State.fld]
@[simp] theorem bit_tset (s : State) (tid : Nat) (idx : Nat) (w : Nat) (lo : Nat) (n : Nat) (v : Nat) (x : Fld) : (State.tset s tid idx w lo n v).bit x = s.bit x := by simp [State.bit]

theorem emit_only (s : State) (m : OutMsg) : s.onlyIn (State.emit s m) [.sent] := (emit_keeps (T := [.sent]) (Keeps.refl _ s) (List.Subset.refl _)).only
@[simp] theorem regs_emit (s : State) (m : OutMsg) : (State.emit s m).regs = s.regs := emit_only s m .regs (by decide)
@[simp] theorem vis_emit (s : State) (m : OutMsg) : (State.emit s m).vis = s.vis := emit_only s m .vis (by decide)
@[simp] theorem shadow_emit (s : State) (m : OutMsg) : (State.emit s m).shadow = s.shadow := emit_only s m .shadow (by decide)
@[simp] theorem tbl_emit (s : State) (m : OutMsg) : (State.emit s m).tbl = s.tbl := emit_only s m .tbl (by decide)
@[simp] theorem tshadow_emit (s : State) (m : OutMsg) : (State.emit s m).tshadow = s.tshadow := emit_only s m .tshadow (by decide)
@[simp] theorem frzFrom_emit (s : State) (m : OutMsg) : (State.emit s m).frzFrom = s.frzFrom := emit_only s m .frzFrom (by decide)
@[simp] theorem commitDue_emit (s : State) (m : OutMsg) : (State.emit s m).commitDue = s.commitDue := emit_only s m .commitDue (by decide)
@[simp] theorem mbx_emit (s : State) (m : OutMsg) : (State.emit s m).mbx = s.mbx := emit_only s m .mbx (by decide)
@[simp] theorem host_emit (s : State) (m : OutMsg) : (State.emit s m).host = s.host := emit_only s m .items (by decide)
@[simp] theorem icu_emit (s : State) (m : OutMsg) : (State.emit s m).icu = s.icu := emit_only s m .icu (by decide)
@[simp] theorem evr_emit (s : State) (m : OutMsg) : (State.emit s m).evr = s.evr := emit_only s m .evr (by decide)
@[simp] theorem seq_emit (s : State) (m : OutMsg) : (State.emit s m).seq = s.seq := emit_only s m .seq (by decide)
@[simp] theorem cpe_emit (s : State) (m : OutMsg) : (State.emit s m).cpe = s.cpe := emit_only s m .cpe (by decide)
@[simp] theorem time_emit (s : State) (m : OutMsg) : (State.emit s m).time = s.time := emit_only s m .time (by decide)
@[simp] theorem model_emit (s : State) (m : OutMsg) : (State.emit s m).model = s.model := emit_only s m .model (by decide)
@[simp] theorem opt_emit (s : State) (m : OutMsg) : (State.emit s m).opt = s.opt := emit_only s m .opt (by decide)
@[simp] theorem snet_emit (s : State) (m : OutMsg) : (State.emit s m).snet = s.snet := emit_only s m .snet (by decide)
@[simp] theorem can_emit (s : State) (m : OutMsg) : (State.emit s m).can = s.can := emit_only s m .can (by decide)
@[simp] theorem dio_emit (s : State) (m : OutMsg) : (State.emit s m).dio = s.dio := emit_only s m .dio (by decide)
@[simp] theorem adc_emit (s : State) (m : OutMsg) : (State.emit s m).adc = s.adc := emit_only s m .adc (by decide)
@[simp] theorem lnch_emit (s : State) (m : OutMsg) : (State.emit s m).lnch = s.lnch := emit_only s m .lnch (by decide)
@[simp] theorem priv_emit (s : State) (m : OutMsg) : (State.emit s m).priv = s.priv := emit_only s m .priv (by decide)
@[simp] theorem met_emit (s : State) (m : OutMsg) : (State.emit s m).met = s.met := emit_only s m .met (by decide)
@[simp] theorem metNv_emit (s : State) (m : OutMsg) : (State.emit s m).metNv = s.metNv := emit_only s m .metNv (by decide)
@[simp] theorem pwr_emit (s : State) (m : OutMsg) : (State.emit s m).pwr = s.pwr := emit_only s m .pwr (by decide)
@[simp] theorem cpeNv_emit (s : State) (m : OutMsg) : (State.emit s m).cpeNv = s.cpeNv := emit_only s m .cpeNv (by decide)
@[simp] theorem loop_emit (s : State) (m : OutMsg) : (State.emit s m).loop = s.loop := emit_only s m .loop (by decide)
@[simp] theorem twin_emit (s : State) (m : OutMsg) : (State.emit s m).twin = s.twin := emit_only s m .twin (by decide)
@[simp] theorem segs_emit (s : State) (m : OutMsg) : (State.emit s m).segs = s.segs := emit_only s m .segs (by decide)
@[simp] theorem keys_emit (s : State) (m : OutMsg) : (State.emit s m).keys = s.keys := emit_only s m .keys (by decide)
@[simp] theorem cfg_emit (s : State) (m : OutMsg) : (State.emit s m).cfg = s.cfg := emit_only s m .cfg (by decide)
@[simp] theorem dev_emit (s : State) (m : OutMsg) : (State.emit s m).dev = s.dev := emit_only s m .dev (by decide)
@[simp] theorem free_emit (s : State) (m : OutMsg) : (State.emit s m).free = s.free := emit_only s m .free (by decide)
@[simp] theorem pending_emit (s : State) (m : OutMsg) : (State.emit s m).pending = s.pending := (emit_keeps (T := [.sent]) (Keeps.refl _ s) (List.Subset.refl _)).pending
@[simp] theorem rd_emit (s : State) (m : OutMsg) (x : Nat) : (State.emit s m).rd x = s.rd x := by simp [State.rd]
@[simp] theorem fld_emit (s : State) (m : OutMsg) (x : Fld) : (State.emit s m).fld x = s.fld x := by simp [State.fld]
@[simp] theorem bit_emit (s : State) (m : OutMsg) (x : Fld) : (State.emit s m).bit x = s.bit x := by simp [State.bit]
@[simp] theorem trd_emit (s : State) (m : OutMsg) (x y z : Nat) : (State.emit s m).trd x y z = s.trd x y z := by simp [State.trd]
@[simp] theorem tfld_emit (s : State) (m : OutMsg) (x y z u w_ : Nat) : (State.emit s m).tfld x y z u w_ = s.tfld x y z u w_ := by simp [State.tfld]

theorem useFree_only (s : State) : s.onlyIn (State.useFree s) [.free] := (useFree_keeps (T := [.free]) (Keeps.refl _ s) (List.Subset.refl _)).only
@[simp] theorem regs_useFree (s : State) : (State.useFree s).regs = s.regs := useFree_only s .regs (by decide)
@[simp] theorem vis_useFree (s : State) : (State.useFree s).vis = s.vis := useFree_only s .vis (by decide)
@[simp] theorem shadow_useFree (s : State) : (State.useFree s).shadow = s.shadow := useFree_only s .shadow (by decide)
@[simp] theorem tbl_useFree (s : State) : (State.useFree s).tbl = s.tbl := useFree_only s .tbl (by decide)
@[simp] theorem tshadow_useFree (s : State) : (State.useFree s).tshadow = s.tshadow := useFree_only s .tshadow (by decide)
@[simp] theorem frzFrom_useFree (s : State) : (State.useFree s).frzFrom = s.frzFrom := useFree_only s .frzFrom (by decide)
@[simp] theorem commitDue_useFree (s : State) : (State.useFree s).commitDue = s.commitDue := useFree_only s .commitDue (by decide)
@[simp] theorem mbx_useFree (s : State) : (State.useFree s).mbx = s.mbx := useFree_only s .mbx (by decide)
@[simp] theorem host_useFree (s : State) : (State.useFree s).host = s.host := useFree_only s .items (by decide)
@[simp] theorem icu_useFree (s : State) : (State.useFree s).icu = s.icu := useFree_only s .icu (by decide)
@[simp] theorem evr_useFree (s : State) : (State.useFree s).evr = s.evr := useFree_only s .evr (by decide)
@[simp] theorem seq_useFree (s : State) : (State.useFree s).seq = s.seq := useFree_only s .seq (by decide)
@[simp] theorem cpe_useFree (s : State) : (State.useFree s).cpe = s.cpe := useFree_only s .cpe (by decide)
@[simp] theorem time_useFree (s : State) : (State.useFree s).time = s.time := useFree_only s .time (by decide)
@[simp] theorem model_useFree (s : State) : (State.useFree s).model = s.model := useFree_only s .model (by decide)
@[simp] theorem opt_useFree (s : State) : (State.useFree s).opt = s.opt := useFree_only s .opt (by decide)
@[simp] theorem snet_useFree (s : State) : (State.useFree s).snet = s.snet := useFree_only s .snet (by decide)
@[simp] theorem can_useFree (s : State) : (State.useFree s).can = s.can := useFree_only s .can (by decide)
@[simp] theorem dio_useFree (s : State) : (State.useFree s).dio = s.dio := useFree_only s .dio (by decide)
@[simp] theorem adc_useFree (s : State) : (State.useFree s).adc = s.adc := useFree_only s .adc (by decide)
@[simp] theorem lnch_useFree (s : State) : (State.useFree s).lnch = s.lnch := useFree_only s .lnch (by decide)
@[simp] theorem priv_useFree (s : State) : (State.useFree s).priv = s.priv := useFree_only s .priv (by decide)
@[simp] theorem met_useFree (s : State) : (State.useFree s).met = s.met := useFree_only s .met (by decide)
@[simp] theorem metNv_useFree (s : State) : (State.useFree s).metNv = s.metNv := useFree_only s .metNv (by decide)
@[simp] theorem pwr_useFree (s : State) : (State.useFree s).pwr = s.pwr := useFree_only s .pwr (by decide)
@[simp] theorem cpeNv_useFree (s : State) : (State.useFree s).cpeNv = s.cpeNv := useFree_only s .cpeNv (by decide)
@[simp] theorem loop_useFree (s : State) : (State.useFree s).loop = s.loop := useFree_only s .loop (by decide)
@[simp] theorem twin_useFree (s : State) : (State.useFree s).twin = s.twin := useFree_only s .twin (by decide)
@[simp] theorem segs_useFree (s : State) : (State.useFree s).segs = s.segs := useFree_only s .segs (by decide)
@[simp] theorem keys_useFree (s : State) : (State.useFree s).keys = s.keys := useFree_only s .keys (by decide)
@[simp] theorem cfg_useFree (s : State) : (State.useFree s).cfg = s.cfg := useFree_only s .cfg (by decide)
@[simp] theorem dev_useFree (s : State) : (State.useFree s).dev = s.dev := useFree_only s .dev (by decide)
@[simp] theorem sent_useFree (s : State) : (State.useFree s).sent = s.sent := useFree_only s .sent (by decide)
@[simp] theorem pending_useFree (s : State) : (State.useFree s).pending = s.pending := (useFree_keeps (T := [.free]) (Keeps.refl _ s) (List.Subset.refl _)).pending
@[simp] theorem rd_useFree (s : State) (x : Nat) : (State.useFree s).rd x = s.rd x := by simp [State.rd]
@[simp] theorem fld_useFree (s : State) (x : Fld) : (State.useFree s).fld x = s.fld x := by simp [State.fld]
@[simp] theorem bit_useFree (s : State) (x : Fld) : (State.useFree s).bit x = s.bit x := by simp [State.bit]
@[simp] theorem trd_useFree (s : State) (x y z : Nat) : (State.useFree s).trd x y z = s.trd x y z := by simp [State.trd]
@[simp] theorem tfld_useFree (s : State) (x y z u w_ : Nat) : (State.useFree s).tfld x y z u w_ = s.tfld x y z u w_ := by simp [State.tfld]

theorem mbxMod_only (s : State) (n : Nat) (f : Mbx → Mbx) : s.onlyIn (State.mbxMod s n f) [.mbx] := (mbxMod_keeps (T := [.mbx]) (Keeps.refl _ s) (List.Subset.refl _)).only
@[simp] theorem regs_mbxMod (s : State) (n : Nat) (f : Mbx → Mbx) : (State.mbxMod s n f).regs = s.regs := mbxMod_only s n f .regs (by decide)
@[simp] theorem vis_mbxMod (s : State) (n : Nat) (f : Mbx → Mbx) : (State.mbxMod s n f).vis = s.vis := mbxMod_only s n f .vis (by decide)
@[simp] theorem shadow_mbxMod (s : State) (n : Nat) (f : Mbx → Mbx) : (State.mbxMod s n f).shadow = s.shadow := mbxMod_only s n f .shadow (by decide)
@[simp] theorem tbl_mbxMod (s : State) (n : Nat) (f : Mbx → Mbx) : (State.mbxMod s n f).tbl = s.tbl := mbxMod_only s n f .tbl (by decide)
@[simp] theorem tshadow_mbxMod (s : State) (n : Nat) (f : Mbx → Mbx) : (State.mbxMod s n f).tshadow = s.tshadow := mbxMod_only s n f .tshadow (by decide)
@[simp] theorem frzFrom_mbxMod (s : State) (n : Nat) (f : Mbx → Mbx) : (State.mbxMod s n f).frzFrom = s.frzFrom := mbxMod_only s n f .frzFrom (by decide)
@[simp] theorem commitDue_mbxMod (s : State) (n : Nat) (f : Mbx → Mbx) : (State.mbxMod s n f).commitDue = s.commitDue := mbxMod_only s n f .commitDue (by decide)
@[simp] theorem host_mbxMod (s : State) (n : Nat) (f : Mbx → Mbx) : (State.mbxMod s n f).host = s.host := mbxMod_only s n f .items (by decide)
@[simp] theorem icu_mbxMod (s : State) (n : Nat) (f : Mbx → Mbx) : (State.mbxMod s n f).icu = s.icu := mbxMod_only s n f .icu (by decide)
@[simp] theorem evr_mbxMod (s : State) (n : Nat) (f : Mbx → Mbx) : (State.mbxMod s n f).evr = s.evr := mbxMod_only s n f .evr (by decide)
@[simp] theorem seq_mbxMod (s : State) (n : Nat) (f : Mbx → Mbx) : (State.mbxMod s n f).seq = s.seq := mbxMod_only s n f .seq (by decide)
@[simp] theorem cpe_mbxMod (s : State) (n : Nat) (f : Mbx → Mbx) : (State.mbxMod s n f).cpe = s.cpe := mbxMod_only s n f .cpe (by decide)
@[simp] theorem time_mbxMod (s : State) (n : Nat) (f : Mbx → Mbx) : (State.mbxMod s n f).time = s.time := mbxMod_only s n f .time (by decide)
@[simp] theorem model_mbxMod (s : State) (n : Nat) (f : Mbx → Mbx) : (State.mbxMod s n f).model = s.model := mbxMod_only s n f .model (by decide)
@[simp] theorem opt_mbxMod (s : State) (n : Nat) (f : Mbx → Mbx) : (State.mbxMod s n f).opt = s.opt := mbxMod_only s n f .opt (by decide)
@[simp] theorem snet_mbxMod (s : State) (n : Nat) (f : Mbx → Mbx) : (State.mbxMod s n f).snet = s.snet := mbxMod_only s n f .snet (by decide)
@[simp] theorem can_mbxMod (s : State) (n : Nat) (f : Mbx → Mbx) : (State.mbxMod s n f).can = s.can := mbxMod_only s n f .can (by decide)
@[simp] theorem dio_mbxMod (s : State) (n : Nat) (f : Mbx → Mbx) : (State.mbxMod s n f).dio = s.dio := mbxMod_only s n f .dio (by decide)
@[simp] theorem adc_mbxMod (s : State) (n : Nat) (f : Mbx → Mbx) : (State.mbxMod s n f).adc = s.adc := mbxMod_only s n f .adc (by decide)
@[simp] theorem lnch_mbxMod (s : State) (n : Nat) (f : Mbx → Mbx) : (State.mbxMod s n f).lnch = s.lnch := mbxMod_only s n f .lnch (by decide)
@[simp] theorem priv_mbxMod (s : State) (n : Nat) (f : Mbx → Mbx) : (State.mbxMod s n f).priv = s.priv := mbxMod_only s n f .priv (by decide)
@[simp] theorem met_mbxMod (s : State) (n : Nat) (f : Mbx → Mbx) : (State.mbxMod s n f).met = s.met := mbxMod_only s n f .met (by decide)
@[simp] theorem metNv_mbxMod (s : State) (n : Nat) (f : Mbx → Mbx) : (State.mbxMod s n f).metNv = s.metNv := mbxMod_only s n f .metNv (by decide)
@[simp] theorem pwr_mbxMod (s : State) (n : Nat) (f : Mbx → Mbx) : (State.mbxMod s n f).pwr = s.pwr := mbxMod_only s n f .pwr (by decide)
@[simp] theorem cpeNv_mbxMod (s : State) (n : Nat) (f : Mbx → Mbx) : (State.mbxMod s n f).cpeNv = s.cpeNv := mbxMod_only s n f .cpeNv (by decide)
@[simp] theorem loop_mbxMod (s : State) (n : Nat) (f : Mbx → Mbx) : (State.mbxMod s n f).loop = s.loop := mbxMod_only s n f .loop (by decide)
@[simp] theorem twin_mbxMod (s : State) (n : Nat) (f : Mbx → Mbx) : (State.mbxMod s n f).twin = s.twin := mbxMod_only s n f .twin (by decide)
@[simp] theorem segs_mbxMod (s : State) (n : Nat) (f : Mbx → Mbx) : (State.mbxMod s n f).segs = s.segs := mbxMod_only s n f .segs (by decide)
@[simp] theorem keys_mbxMod (s : State) (n : Nat) (f : Mbx → Mbx) : (State.mbxMod s n f).keys = s.keys := mbxMod_only s n f .keys (by decide)
@[simp] theorem cfg_mbxMod (s : State) (n : Nat) (f : Mbx → Mbx) : (State.mbxMod s n f).cfg = s.cfg := mbxMod_only s n f .cfg (by decide)
@[simp] theorem dev_mbxMod (s : State) (n : Nat) (f : Mbx → Mbx) : (State.mbxMod s n f).dev = s.dev := mbxMod_only s n f .dev (by decide)
@[simp] theorem sent_mbxMod (s : State) (n : Nat) (f : Mbx → Mbx) : (State.mbxMod s n f).sent = s.sent := mbxMod_only s n f .sent (by decide)
@[simp] theorem free_mbxMod (s : State) (n : Nat) (f : Mbx → Mbx) : (State.mbxMod s n f).free = s.free := mbxMod_only s n f .free (by decide)
@[simp] theorem pending_mbxMod (s : State) (n : Nat) (f : Mbx → Mbx) : (State.mbxMod s n f).pending = s.pending := (mbxMod_keeps (T := [.mbx]) (Keeps.refl _ s) (List.Subset.refl _)).pending
@[simp] theorem rd_mbxMod (s : State) (n : Nat) (f : Mbx → Mbx) (x : Nat) : (State.mbxMod s n f).rd x = s.rd x := by simp [State.rd]
@[simp] theorem fld_mbxMod (s : State) (n : Nat) (f : Mbx → Mbx) (x : Fld) : (State.mbxMod s n f).fld x = s.fld x := by simp [State.fld]
@[simp] theorem bit_mbxMod (s : State) (n : Nat) (f : Mbx → Mbx) (x : Fld) : (State.mbxMod s n f).bit x = s.bit x := by simp [State.bit]
@[simp] theorem trd_mbxMod (s : State) (n : Nat) (f : Mbx → Mbx) (x y z : Nat) : (State.mbxMod s n f).trd x y z = s.trd x y z := by simp [State.trd]
@[simp] theorem tfld_mbxMod (s : State) (n : Nat) (f : Mbx → Mbx) (x y z u w_ : Nat) : (State.mbxMod s n f).tfld x y z u w_ = s.tfld x y z u w_ := by simp [State.tfld]

theorem hostMod_only (s : State) (f : HostSt → HostSt) : s.onlyIn (State.hostMod s f) [.host, .items] := (hostMod_keeps (T := [.host, .items]) (Keeps.refl _ s) (List.Subset.refl _)).only
@[simp] theorem regs_hostMod (s : State) (f : HostSt → HostSt) : (State.hostMod s f).regs = s.regs := hostMod_only s f .regs (by decide)
@[simp] theorem vis_hostMod (s : State) (f : HostSt → HostSt) : (State.hostMod s f).vis = s.vis := hostMod_only s f .vis (by decide)
@[simp] theorem shadow_hostMod (s : State) (f : HostSt → HostSt) : (State.hostMod s f).shadow = s.shadow := hostMod_only s f .shadow (by decide)
@[simp] theorem tbl_hostMod (s : State) (f : HostSt → HostSt) : (State.hostMod s f).tbl = s.tbl := hostMod_only s f .tbl (by decide)
@[simp] theorem tshadow_hostMod (s : State) (f : HostSt → HostSt) : (State.hostMod s f).tshadow = s.tshadow := hostMod_only s f .tshadow (by decide)
@[simp] theorem frzFrom_hostMod (s : State) (f : HostSt → HostSt) : (State.hostMod s f).frzFrom = s.frzFrom := hostMod_only s f .frzFrom (by decide)
@[simp] theorem commitDue_hostMod (s : State) (f : HostSt → HostSt) : (State.hostMod s f).commitDue = s.commitDue := hostMod_only s f .commitDue (by decide)
@[simp] theorem mbx_hostMod (s : State) (f : HostSt → HostSt) : (State.hostMod s f).mbx = s.mbx := hostMod_only s f .mbx (by decide)
@[simp] theorem icu_hostMod (s : State) (f : HostSt → HostSt) : (State.hostMod s f).icu = s.icu := hostMod_only s f .icu (by decide)
@[simp] theorem evr_hostMod (s : State) (f : HostSt → HostSt) : (State.hostMod s f).evr = s.evr := hostMod_only s f .evr (by decide)
@[simp] theorem seq_hostMod (s : State) (f : HostSt → HostSt) : (State.hostMod s f).seq = s.seq := hostMod_only s f .seq (by decide)
@[simp] theorem cpe_hostMod (s : State) (f : HostSt → HostSt) : (State.hostMod s f).cpe = s.cpe := hostMod_only s f .cpe (by decide)
@[simp] theorem time_hostMod (s : State) (f : HostSt → HostSt) : (State.hostMod s f).time = s.time := hostMod_only s f .time (by decide)
@[simp] theorem model_hostMod (s : State) (f : HostSt → HostSt) : (State.hostMod s f).model = s.model := hostMod_only s f .model (by decide)
@[simp] theorem opt_hostMod (s : State) (f : HostSt → HostSt) : (State.hostMod s f).opt = s.opt := hostMod_only s f .opt (by decide)
@[simp] theorem snet_hostMod (s : State) (f : HostSt → HostSt) : (State.hostMod s f).snet = s.snet := hostMod_only s f .snet (by decide)
@[simp] theorem can_hostMod (s : State) (f : HostSt → HostSt) : (State.hostMod s f).can = s.can := hostMod_only s f .can (by decide)
@[simp] theorem dio_hostMod (s : State) (f : HostSt → HostSt) : (State.hostMod s f).dio = s.dio := hostMod_only s f .dio (by decide)
@[simp] theorem adc_hostMod (s : State) (f : HostSt → HostSt) : (State.hostMod s f).adc = s.adc := hostMod_only s f .adc (by decide)
@[simp] theorem lnch_hostMod (s : State) (f : HostSt → HostSt) : (State.hostMod s f).lnch = s.lnch := hostMod_only s f .lnch (by decide)
@[simp] theorem priv_hostMod (s : State) (f : HostSt → HostSt) : (State.hostMod s f).priv = s.priv := hostMod_only s f .priv (by decide)
@[simp] theorem met_hostMod (s : State) (f : HostSt → HostSt) : (State.hostMod s f).met = s.met := hostMod_only s f .met (by decide)
@[simp] theorem metNv_hostMod (s : State) (f : HostSt → HostSt) : (State.hostMod s f).metNv = s.metNv := hostMod_only s f .metNv (by decide)
@[simp] theorem pwr_hostMod (s : State) (f : HostSt → HostSt) : (State.hostMod s f).pwr = s.pwr := hostMod_only s f .pwr (by decide)
@[simp] theorem cpeNv_hostMod (s : State) (f : HostSt → HostSt) : (State.hostMod s f).cpeNv = s.cpeNv := hostMod_only s f .cpeNv (by decide)
@[simp] theorem loop_hostMod (s : State) (f : HostSt → HostSt) : (State.hostMod s f).loop = s.loop := hostMod_only s f .loop (by decide)
@[simp] theorem twin_hostMod (s : State) (f : HostSt → HostSt) : (State.hostMod s f).twin = s.twin := hostMod_only s f .twin (by decide)
@[simp] theorem segs_hostMod (s : State) (f : HostSt → HostSt) : (State.hostMod s f).segs = s.segs := hostMod_only s f .segs (by decide)
@[simp] theorem keys_hostMod (s : State) (f : HostSt → HostSt) : (State.hostMod s f).keys = s.keys := hostMod_only s f .keys (by decide)
@[simp] theorem cfg_hostMod (s : State) (f : HostSt → HostSt) : (State.hostMod s f).cfg = s.cfg := hostMod_only s f .cfg (by decide)
@[simp] theorem dev_hostMod (s : State) (f : HostSt → HostSt) : (State.hostMod s f).dev = s.dev := hostMod_only s f .dev (by decide)
@[simp] theorem sent_hostMod (s : State) (f : HostSt → HostSt) : (State.hostMod s f).sent = s.sent := hostMod_only s f .sent (by decide)
@[simp] theorem free_hostMod (s : State) (f : HostSt → HostSt) : (State.hostMod s f).free = s.free := hostMod_only s f .free (by decide)
@[simp] theorem pending_hostMod (s : State) (f : HostSt → HostSt) : (State.hostMod s f).pending = s.pending := (hostMod_keeps (T := [.host, .items]) (Keeps.refl _ s) (List.Subset.refl _)).pending
@[simp] theorem rd_hostMod (s : State) (f : HostSt → HostSt) (x : Nat) : (State.hostMod s f).rd x = s.rd x := by simp [State.rd]
@[simp] theorem fld_hostMod (s : State) (f : HostSt → HostSt) (x : Fld) : (State.hostMod s f).fld x = s.fld x := by simp [State.fld]
@[simp] theorem bit_hostMod (s : State) (f : HostSt → HostSt) (x : Fld) : (State.hostMod s f).bit x = s.bit x := by simp [State.bit]
@[simp] theorem trd_hostMod (s : State) (f : HostSt → HostSt) (x y z : Nat) : (State.hostMod s f).trd x y z = s.trd x y z := by simp [State.trd]
@[simp] theorem tfld_hostMod (s : State) (f : HostSt → HostSt) (x y z u w_ : Nat) : (State.hostMod s f).tfld x y z u w_ = s.tfld x y z u w_ := by simp [State.tfld]

theorem sessMod_only (s : State) (i : Nat) (f : Sess → Sess) : s.onlyIn (State.sessMod s i f) [.host, .items] := (sessMod_keeps (T := [.host, .items]) (Keeps.refl _ s) (List.Subset.refl _)).only
@[simp] theorem regs_sessMod (s : State) (i : Nat) (f : Sess → Sess) : (State.sessMod s i f).regs = s.regs := sessMod_only s i f .regs (by decide)
@[simp] theorem vis_sessMod (s : State) (i : Nat) (f : Sess → Sess) : (State.sessMod s i f).vis = s.vis := sessMod_only s i f .vis (by decide)
@[simp] theorem shadow_sessMod (s : State) (i : Nat) (f : Sess → Sess) : (State.sessMod s i f).shadow = s.shadow := sessMod_only s i f .shadow (by decide)
@[simp] theorem tbl_sessMod (s : State) (i : Nat) (f : Sess → Sess) : (State.sessMod s i f).tbl = s.tbl := sessMod_only s i f .tbl (by decide)
@[simp] theorem tshadow_sessMod (s : State) (i : Nat) (f : Sess → Sess) : (State.sessMod s i f).tshadow = s.tshadow := sessMod_only s i f .tshadow (by decide)
@[simp] theorem frzFrom_sessMod (s : State) (i : Nat) (f : Sess → Sess) : (State.sessMod s i f).frzFrom = s.frzFrom := sessMod_only s i f .frzFrom (by decide)
@[simp] theorem commitDue_sessMod (s : State) (i : Nat) (f : Sess → Sess) : (State.sessMod s i f).commitDue = s.commitDue := sessMod_only s i f .commitDue (by decide)
@[simp] theorem mbx_sessMod (s : State) (i : Nat) (f : Sess → Sess) : (State.sessMod s i f).mbx = s.mbx := sessMod_only s i f .mbx (by decide)
@[simp] theorem icu_sessMod (s : State) (i : Nat) (f : Sess → Sess) : (State.sessMod s i f).icu = s.icu := sessMod_only s i f .icu (by decide)
@[simp] theorem evr_sessMod (s : State) (i : Nat) (f : Sess → Sess) : (State.sessMod s i f).evr = s.evr := sessMod_only s i f .evr (by decide)
@[simp] theorem seq_sessMod (s : State) (i : Nat) (f : Sess → Sess) : (State.sessMod s i f).seq = s.seq := sessMod_only s i f .seq (by decide)
@[simp] theorem cpe_sessMod (s : State) (i : Nat) (f : Sess → Sess) : (State.sessMod s i f).cpe = s.cpe := sessMod_only s i f .cpe (by decide)
@[simp] theorem time_sessMod (s : State) (i : Nat) (f : Sess → Sess) : (State.sessMod s i f).time = s.time := sessMod_only s i f .time (by decide)
@[simp] theorem model_sessMod (s : State) (i : Nat) (f : Sess → Sess) : (State.sessMod s i f).model = s.model := sessMod_only s i f .model (by decide)
@[simp] theorem opt_sessMod (s : State) (i : Nat) (f : Sess → Sess) : (State.sessMod s i f).opt = s.opt := sessMod_only s i f .opt (by decide)
@[simp] theorem snet_sessMod (s : State) (i : Nat) (f : Sess → Sess) : (State.sessMod s i f).snet = s.snet := sessMod_only s i f .snet (by decide)
@[simp] theorem can_sessMod (s : State) (i : Nat) (f : Sess → Sess) : (State.sessMod s i f).can = s.can := sessMod_only s i f .can (by decide)
@[simp] theorem dio_sessMod (s : State) (i : Nat) (f : Sess → Sess) : (State.sessMod s i f).dio = s.dio := sessMod_only s i f .dio (by decide)
@[simp] theorem adc_sessMod (s : State) (i : Nat) (f : Sess → Sess) : (State.sessMod s i f).adc = s.adc := sessMod_only s i f .adc (by decide)
@[simp] theorem lnch_sessMod (s : State) (i : Nat) (f : Sess → Sess) : (State.sessMod s i f).lnch = s.lnch := sessMod_only s i f .lnch (by decide)
@[simp] theorem priv_sessMod (s : State) (i : Nat) (f : Sess → Sess) : (State.sessMod s i f).priv = s.priv := sessMod_only s i f .priv (by decide)
@[simp] theorem met_sessMod (s : State) (i : Nat) (f : Sess → Sess) : (State.sessMod s i f).met = s.met := sessMod_only s i f .met (by decide)
@[simp] theorem metNv_sessMod (s : State) (i : Nat) (f : Sess → Sess) : (State.sessMod s i f).metNv = s.metNv := sessMod_only s i f .metNv (by decide)
@[simp] theorem pwr_sessMod (s : State) (i : Nat) (f : Sess → Sess) : (State.sessMod s i f).pwr = s.pwr := sessMod_only s i f .pwr (by decide)
@[simp] theorem cpeNv_sessMod (s : State) (i : Nat) (f : Sess → Sess) : (State.sessMod s i f).cpeNv = s.cpeNv := sessMod_only s i f .cpeNv (by decide)
@[simp] theorem loop_sessMod (s : State) (i : Nat) (f : Sess → Sess) : (State.sessMod s i f).loop = s.loop := sessMod_only s i f .loop (by decide)
@[simp] theorem twin_sessMod (s : State) (i : Nat) (f : Sess → Sess) : (State.sessMod s i f).twin = s.twin := sessMod_only s i f .twin (by decide)
@[simp] theorem segs_sessMod (s : State) (i : Nat) (f : Sess → Sess) : (State.sessMod s i f).segs = s.segs := sessMod_only s i f .segs (by decide)
@[simp] theorem keys_sessMod (s : State) (i : Nat) (f : Sess → Sess) : (State.sessMod s i f).keys = s.keys := sessMod_only s i f .keys (by decide)
@[simp] theorem cfg_sessMod (s : State) (i : Nat) (f : Sess → Sess) : (State.sessMod s i f).cfg = s.cfg := sessMod_only s i f .cfg (by decide)
@[simp] theorem dev_sessMod (s : State) (i : Nat) (f : Sess → Sess) : (State.sessMod s i f).dev = s.dev := sessMod_only s i f .dev (by decide)
@[simp] theorem sent_sessMod (s : State) (i : Nat) (f : Sess → Sess) : (State.sessMod s i f).sent = s.sent := sessMod_only s i f .sent (by decide)
@[simp] theorem free_sessMod (s : State) (i : Nat) (f : Sess → Sess) : (State.sessMod s i f).free = s.free := sessMod_only s i f .free (by decide)
@[simp] theorem pending_sessMod (s : State) (i : Nat) (f : Sess → Sess) : (State.sessMod s i f).pending = s.pending := (sessMod_keeps (T := [.host, .items]) (Keeps.refl _ s) (List.Subset.refl _)).pending
@[simp] theorem rd_sessMod (s : State) (i : Nat) (f : Sess → Sess) (x : Nat) : (State.sessMod s i f).rd x = s.rd x := by simp [State.rd]
@[simp] theorem fld_sessMod (s : State) (i : Nat) (f : Sess → Sess) (x : Fld) : (State.sessMod s i f).fld x = s.fld x := by simp [State.fld]
@[simp] theorem bit_sessMod (s : State) (i : Nat) (f : Sess → Sess) (x : Fld) : (State.sessMod s i f).bit x = s.bit x := by simp [State.bit]
@[simp] theorem trd_sessMod (s : State) (i : Nat) (f : Sess → Sess) (x y z : Nat) : (State.sessMod s i f).trd x y z = s.trd x y z := by simp [State.trd]
@[simp] theorem tfld_sessMod (s : State) (i : Nat) (f : Sess → Sess) (x y z u w_ : Nat) : (State.sessMod s i f).tfld x y z u w_ = s.tfld x y z u w_ := by simp [State.tfld]

theorem seqMod_only (s : State) (f : SeqSt → SeqSt) : s.onlyIn (State.seqMod s f) [.seq] := (seqMod_keeps (T := [.seq]) (Keeps.refl _ s) (List.Subset.refl _)).only
@[simp] theorem regs_seqMod (s : State) (f : SeqSt → SeqSt) : (State.seqMod s f).regs = s.regs := seqMod_only s f .regs (by decide)
@[simp] theorem vis_seqMod (s : State) (f : SeqSt → SeqSt) : (State.seqMod s f).vis = s.vis := seqMod_only s f .vis (by decide)
@[simp] theorem shadow_seqMod (s : State) (f : SeqSt → SeqSt) : (State.seqMod s f).shadow = s.shadow := seqMod_only s f .shadow (by decide)
@[simp] theorem tbl_seqMod (s : State) (f : SeqSt → SeqSt) : (State.seqMod s f).tbl = s.tbl := seqMod_only s f .tbl (by decide)
@[simp] theorem tshadow_seqMod (s : State) (f : SeqSt → SeqSt) : (State.seqMod s f).tshadow = s.tshadow := seqMod_only s f .tshadow (by decide)
@[simp] theorem frzFrom_seqMod (s : State) (f : SeqSt → SeqSt) : (State.seqMod s f).frzFrom = s.frzFrom := seqMod_only s f .frzFrom (by decide)
@[simp] theorem commitDue_seqMod (s : State) (f : SeqSt → SeqSt) : (State.seqMod s f).commitDue = s.commitDue := seqMod_only s f .commitDue (by decide)
@[simp] theorem mbx_seqMod (s : State) (f : SeqSt → SeqSt) : (State.seqMod s f).mbx = s.mbx := seqMod_only s f .mbx (by decide)
@[simp] theorem host_seqMod (s : State) (f : SeqSt → SeqSt) : (State.seqMod s f).host = s.host := seqMod_only s f .items (by decide)
@[simp] theorem icu_seqMod (s : State) (f : SeqSt → SeqSt) : (State.seqMod s f).icu = s.icu := seqMod_only s f .icu (by decide)
@[simp] theorem evr_seqMod (s : State) (f : SeqSt → SeqSt) : (State.seqMod s f).evr = s.evr := seqMod_only s f .evr (by decide)
@[simp] theorem cpe_seqMod (s : State) (f : SeqSt → SeqSt) : (State.seqMod s f).cpe = s.cpe := seqMod_only s f .cpe (by decide)
@[simp] theorem time_seqMod (s : State) (f : SeqSt → SeqSt) : (State.seqMod s f).time = s.time := seqMod_only s f .time (by decide)
@[simp] theorem model_seqMod (s : State) (f : SeqSt → SeqSt) : (State.seqMod s f).model = s.model := seqMod_only s f .model (by decide)
@[simp] theorem opt_seqMod (s : State) (f : SeqSt → SeqSt) : (State.seqMod s f).opt = s.opt := seqMod_only s f .opt (by decide)
@[simp] theorem snet_seqMod (s : State) (f : SeqSt → SeqSt) : (State.seqMod s f).snet = s.snet := seqMod_only s f .snet (by decide)
@[simp] theorem can_seqMod (s : State) (f : SeqSt → SeqSt) : (State.seqMod s f).can = s.can := seqMod_only s f .can (by decide)
@[simp] theorem dio_seqMod (s : State) (f : SeqSt → SeqSt) : (State.seqMod s f).dio = s.dio := seqMod_only s f .dio (by decide)
@[simp] theorem adc_seqMod (s : State) (f : SeqSt → SeqSt) : (State.seqMod s f).adc = s.adc := seqMod_only s f .adc (by decide)
@[simp] theorem lnch_seqMod (s : State) (f : SeqSt → SeqSt) : (State.seqMod s f).lnch = s.lnch := seqMod_only s f .lnch (by decide)
@[simp] theorem priv_seqMod (s : State) (f : SeqSt → SeqSt) : (State.seqMod s f).priv = s.priv := seqMod_only s f .priv (by decide)
@[simp] theorem met_seqMod (s : State) (f : SeqSt → SeqSt) : (State.seqMod s f).met = s.met := seqMod_only s f .met (by decide)
@[simp] theorem metNv_seqMod (s : State) (f : SeqSt → SeqSt) : (State.seqMod s f).metNv = s.metNv := seqMod_only s f .metNv (by decide)
@[simp] theorem pwr_seqMod (s : State) (f : SeqSt → SeqSt) : (State.seqMod s f).pwr = s.pwr := seqMod_only s f .pwr (by decide)
@[simp] theorem cpeNv_seqMod (s : State) (f : SeqSt → SeqSt) : (State.seqMod s f).cpeNv = s.cpeNv := seqMod_only s f .cpeNv (by decide)
@[simp] theorem loop_seqMod (s : State) (f : SeqSt → SeqSt) : (State.seqMod s f).loop = s.loop := seqMod_only s f .loop (by decide)
@[simp] theorem twin_seqMod (s : State) (f : SeqSt → SeqSt) : (State.seqMod s f).twin = s.twin := seqMod_only s f .twin (by decide)
@[simp] theorem segs_seqMod (s : State) (f : SeqSt → SeqSt) : (State.seqMod s f).segs = s.segs := seqMod_only s f .segs (by decide)
@[simp] theorem keys_seqMod (s : State) (f : SeqSt → SeqSt) : (State.seqMod s f).keys = s.keys := seqMod_only s f .keys (by decide)
@[simp] theorem cfg_seqMod (s : State) (f : SeqSt → SeqSt) : (State.seqMod s f).cfg = s.cfg := seqMod_only s f .cfg (by decide)
@[simp] theorem dev_seqMod (s : State) (f : SeqSt → SeqSt) : (State.seqMod s f).dev = s.dev := seqMod_only s f .dev (by decide)
@[simp] theorem sent_seqMod (s : State) (f : SeqSt → SeqSt) : (State.seqMod s f).sent = s.sent := seqMod_only s f .sent (by decide)
@[simp] theorem free_seqMod (s : State) (f : SeqSt → SeqSt) : (State.seqMod s f).free = s.free := seqMod_only s f .free (by decide)
@[simp] theorem pending_seqMod (s : State) (f : SeqSt → SeqSt) : (State.seqMod s f).pending = s.pending := (seqMod_keeps (T := [.seq]) (Keeps.refl _ s) (List.Subset.refl _)).pending
@[simp] theorem rd_seqMod (s : State) (f : SeqSt → SeqSt) (x : Nat) : (State.seqMod s f).rd x = s.rd x := by simp [State.rd]
@[simp] theorem fld_seqMod (s : State) (f : SeqSt → SeqSt) (x : Fld) : (State.seqMod s f).fld x = s.fld x := by simp [State.fld]
@[simp] theorem bit_seqMod (s : State) (f : SeqSt → SeqSt) (x : Fld) : (State.seqMod s f).bit x = s.bit x := by simp [State.bit]
@[simp] theorem trd_seqMod (s : State) (f : SeqSt → SeqSt) (x y z : Nat) : (State.seqMod s f).trd x y z = s.trd x y z := by simp [State.trd]
@[simp] theorem tfld_seqMod (s : State) (f : SeqSt → SeqSt) (x y z u w_ : Nat) : (State.seqMod s f).tfld x y z u w_ = s.tfld x y z u w_ := by simp [State.tfld]

theorem timeMod_only (s : State) (f : TimeSt → TimeSt) : s.onlyIn (State.timeMod s f) [.time] := (timeMod_keeps (T := [.time]) (Keeps.refl _ s) (List.Subset.refl _)).only
@[simp] theorem regs_timeMod (s : State) (f : TimeSt → TimeSt) : (State.timeMod s f).regs = s.regs := timeMod_only s f .regs (by decide)
@[simp] theorem vis_timeMod (s : State) (f : TimeSt → TimeSt) : (State.timeMod s f).vis = s.vis := timeMod_only s f .vis (by decide)
@[simp] theorem shadow_timeMod (s : State) (f : TimeSt → TimeSt) : (State.timeMod s f).shadow = s.shadow := timeMod_only s f .shadow (by decide)
@[simp] theorem tbl_timeMod (s : State) (f : TimeSt → TimeSt) : (State.timeMod s f).tbl = s.tbl := timeMod_only s f .tbl (by decide)
@[simp] theorem tshadow_timeMod (s : State) (f : TimeSt → TimeSt) : (State.timeMod s f).tshadow = s.tshadow := timeMod_only s f .tshadow (by decide)
@[simp] theorem frzFrom_timeMod (s : State) (f : TimeSt → TimeSt) : (State.timeMod s f).frzFrom = s.frzFrom := timeMod_only s f .frzFrom (by decide)
@[simp] theorem commitDue_timeMod (s : State) (f : TimeSt → TimeSt) : (State.timeMod s f).commitDue = s.commitDue := timeMod_only s f .commitDue (by decide)
@[simp] theorem mbx_timeMod (s : State) (f : TimeSt → TimeSt) : (State.timeMod s f).mbx = s.mbx := timeMod_only s f .mbx (by decide)
@[simp] theorem host_timeMod (s : State) (f : TimeSt → TimeSt) : (State.timeMod s f).host = s.host := timeMod_only s f .items (by decide)
@[simp] theorem icu_timeMod (s : State) (f : TimeSt → TimeSt) : (State.timeMod s f).icu = s.icu := timeMod_only s f .icu (by decide)
@[simp] theorem evr_timeMod (s : State) (f : TimeSt → TimeSt) : (State.timeMod s f).evr = s.evr := timeMod_only s f .evr (by decide)
@[simp] theorem seq_timeMod (s : State) (f : TimeSt → TimeSt) : (State.timeMod s f).seq = s.seq := timeMod_only s f .seq (by decide)
@[simp] theorem cpe_timeMod (s : State) (f : TimeSt → TimeSt) : (State.timeMod s f).cpe = s.cpe := timeMod_only s f .cpe (by decide)
@[simp] theorem model_timeMod (s : State) (f : TimeSt → TimeSt) : (State.timeMod s f).model = s.model := timeMod_only s f .model (by decide)
@[simp] theorem opt_timeMod (s : State) (f : TimeSt → TimeSt) : (State.timeMod s f).opt = s.opt := timeMod_only s f .opt (by decide)
@[simp] theorem snet_timeMod (s : State) (f : TimeSt → TimeSt) : (State.timeMod s f).snet = s.snet := timeMod_only s f .snet (by decide)
@[simp] theorem can_timeMod (s : State) (f : TimeSt → TimeSt) : (State.timeMod s f).can = s.can := timeMod_only s f .can (by decide)
@[simp] theorem dio_timeMod (s : State) (f : TimeSt → TimeSt) : (State.timeMod s f).dio = s.dio := timeMod_only s f .dio (by decide)
@[simp] theorem adc_timeMod (s : State) (f : TimeSt → TimeSt) : (State.timeMod s f).adc = s.adc := timeMod_only s f .adc (by decide)
@[simp] theorem lnch_timeMod (s : State) (f : TimeSt → TimeSt) : (State.timeMod s f).lnch = s.lnch := timeMod_only s f .lnch (by decide)
@[simp] theorem priv_timeMod (s : State) (f : TimeSt → TimeSt) : (State.timeMod s f).priv = s.priv := timeMod_only s f .priv (by decide)
@[simp] theorem met_timeMod (s : State) (f : TimeSt → TimeSt) : (State.timeMod s f).met = s.met := timeMod_only s f .met (by decide)
@[simp] theorem metNv_timeMod (s : State) (f : TimeSt → TimeSt) : (State.timeMod s f).metNv = s.metNv := timeMod_only s f .metNv (by decide)
@[simp] theorem pwr_timeMod (s : State) (f : TimeSt → TimeSt) : (State.timeMod s f).pwr = s.pwr := timeMod_only s f .pwr (by decide)
@[simp] theorem cpeNv_timeMod (s : State) (f : TimeSt → TimeSt) : (State.timeMod s f).cpeNv = s.cpeNv := timeMod_only s f .cpeNv (by decide)
@[simp] theorem loop_timeMod (s : State) (f : TimeSt → TimeSt) : (State.timeMod s f).loop = s.loop := timeMod_only s f .loop (by decide)
@[simp] theorem twin_timeMod (s : State) (f : TimeSt → TimeSt) : (State.timeMod s f).twin = s.twin := timeMod_only s f .twin (by decide)
@[simp] theorem segs_timeMod (s : State) (f : TimeSt → TimeSt) : (State.timeMod s f).segs = s.segs := timeMod_only s f .segs (by decide)
@[simp] theorem keys_timeMod (s : State) (f : TimeSt → TimeSt) : (State.timeMod s f).keys = s.keys := timeMod_only s f .keys (by decide)
@[simp] theorem cfg_timeMod (s : State) (f : TimeSt → TimeSt) : (State.timeMod s f).cfg = s.cfg := timeMod_only s f .cfg (by decide)
@[simp] theorem dev_timeMod (s : State) (f : TimeSt → TimeSt) : (State.timeMod s f).dev = s.dev := timeMod_only s f .dev (by decide)
@[simp] theorem sent_timeMod (s : State) (f : TimeSt → TimeSt) : (State.timeMod s f).sent = s.sent := timeMod_only s f .sent (by decide)
@[simp] theorem free_timeMod (s : State) (f : TimeSt → TimeSt) : (State.timeMod s f).free = s.free := timeMod_only s f .free (by decide)
@[simp] theorem pending_timeMod (s : State) (f : TimeSt → TimeSt) : (State.timeMod s f).pending = s.pending := (timeMod_keeps (T := [.time]) (Keeps.refl _ s) (List.Subset.refl _)).pending
@[simp] theorem rd_timeMod (s : State) (f : TimeSt → TimeSt) (x : Nat) : (State.timeMod s f).rd x = s.rd x := by simp [State.rd]
@[simp] theorem fld_timeMod (s : State) (f : TimeSt → TimeSt) (x : Fld) : (State.timeMod s f).fld x = s.fld x := by simp [State.fld]
@[simp] theorem bit_timeMod (s : State) (f : TimeSt → TimeSt) (x : Fld) : (State.timeMod s f).bit x = s.bit x := by simp [State.bit]
@[simp] theorem trd_timeMod (s : State) (f : TimeSt → TimeSt) (x y z : Nat) : (State.timeMod s f).trd x y z = s.trd x y z := by simp [State.trd]
@[simp] theorem tfld_timeMod (s : State) (f : TimeSt → TimeSt) (x y z u w_ : Nat) : (State.timeMod s f).tfld x y z u w_ = s.tfld x y z u w_ := by simp [State.tfld]

theorem twinMod_only (s : State) (f : TwinSt → TwinSt) : s.onlyIn (State.twinMod s f) [.twin] := (twinMod_keeps (T := [.twin]) (Keeps.refl _ s) (List.Subset.refl _)).only
@[simp] theorem regs_twinMod (s : State) (f : TwinSt → TwinSt) : (State.twinMod s f).regs = s.regs := twinMod_only s f .regs (by decide)
@[simp] theorem vis_twinMod (s : State) (f : TwinSt → TwinSt) : (State.twinMod s f).vis = s.vis := twinMod_only s f .vis (by decide)
@[simp] theorem shadow_twinMod (s : State) (f : TwinSt → TwinSt) : (State.twinMod s f).shadow = s.shadow := twinMod_only s f .shadow (by decide)
@[simp] theorem tbl_twinMod (s : State) (f : TwinSt → TwinSt) : (State.twinMod s f).tbl = s.tbl := twinMod_only s f .tbl (by decide)
@[simp] theorem tshadow_twinMod (s : State) (f : TwinSt → TwinSt) : (State.twinMod s f).tshadow = s.tshadow := twinMod_only s f .tshadow (by decide)
@[simp] theorem frzFrom_twinMod (s : State) (f : TwinSt → TwinSt) : (State.twinMod s f).frzFrom = s.frzFrom := twinMod_only s f .frzFrom (by decide)
@[simp] theorem commitDue_twinMod (s : State) (f : TwinSt → TwinSt) : (State.twinMod s f).commitDue = s.commitDue := twinMod_only s f .commitDue (by decide)
@[simp] theorem mbx_twinMod (s : State) (f : TwinSt → TwinSt) : (State.twinMod s f).mbx = s.mbx := twinMod_only s f .mbx (by decide)
@[simp] theorem host_twinMod (s : State) (f : TwinSt → TwinSt) : (State.twinMod s f).host = s.host := twinMod_only s f .items (by decide)
@[simp] theorem icu_twinMod (s : State) (f : TwinSt → TwinSt) : (State.twinMod s f).icu = s.icu := twinMod_only s f .icu (by decide)
@[simp] theorem evr_twinMod (s : State) (f : TwinSt → TwinSt) : (State.twinMod s f).evr = s.evr := twinMod_only s f .evr (by decide)
@[simp] theorem seq_twinMod (s : State) (f : TwinSt → TwinSt) : (State.twinMod s f).seq = s.seq := twinMod_only s f .seq (by decide)
@[simp] theorem cpe_twinMod (s : State) (f : TwinSt → TwinSt) : (State.twinMod s f).cpe = s.cpe := twinMod_only s f .cpe (by decide)
@[simp] theorem time_twinMod (s : State) (f : TwinSt → TwinSt) : (State.twinMod s f).time = s.time := twinMod_only s f .time (by decide)
@[simp] theorem model_twinMod (s : State) (f : TwinSt → TwinSt) : (State.twinMod s f).model = s.model := twinMod_only s f .model (by decide)
@[simp] theorem opt_twinMod (s : State) (f : TwinSt → TwinSt) : (State.twinMod s f).opt = s.opt := twinMod_only s f .opt (by decide)
@[simp] theorem snet_twinMod (s : State) (f : TwinSt → TwinSt) : (State.twinMod s f).snet = s.snet := twinMod_only s f .snet (by decide)
@[simp] theorem can_twinMod (s : State) (f : TwinSt → TwinSt) : (State.twinMod s f).can = s.can := twinMod_only s f .can (by decide)
@[simp] theorem dio_twinMod (s : State) (f : TwinSt → TwinSt) : (State.twinMod s f).dio = s.dio := twinMod_only s f .dio (by decide)
@[simp] theorem adc_twinMod (s : State) (f : TwinSt → TwinSt) : (State.twinMod s f).adc = s.adc := twinMod_only s f .adc (by decide)
@[simp] theorem lnch_twinMod (s : State) (f : TwinSt → TwinSt) : (State.twinMod s f).lnch = s.lnch := twinMod_only s f .lnch (by decide)
@[simp] theorem priv_twinMod (s : State) (f : TwinSt → TwinSt) : (State.twinMod s f).priv = s.priv := twinMod_only s f .priv (by decide)
@[simp] theorem met_twinMod (s : State) (f : TwinSt → TwinSt) : (State.twinMod s f).met = s.met := twinMod_only s f .met (by decide)
@[simp] theorem metNv_twinMod (s : State) (f : TwinSt → TwinSt) : (State.twinMod s f).metNv = s.metNv := twinMod_only s f .metNv (by decide)
@[simp] theorem pwr_twinMod (s : State) (f : TwinSt → TwinSt) : (State.twinMod s f).pwr = s.pwr := twinMod_only s f .pwr (by decide)
@[simp] theorem cpeNv_twinMod (s : State) (f : TwinSt → TwinSt) : (State.twinMod s f).cpeNv = s.cpeNv := twinMod_only s f .cpeNv (by decide)
@[simp] theorem loop_twinMod (s : State) (f : TwinSt → TwinSt) : (State.twinMod s f).loop = s.loop := twinMod_only s f .loop (by decide)
@[simp] theorem segs_twinMod (s : State) (f : TwinSt → TwinSt) : (State.twinMod s f).segs = s.segs := twinMod_only s f .segs (by decide)
@[simp] theorem keys_twinMod (s : State) (f : TwinSt → TwinSt) : (State.twinMod s f).keys = s.keys := twinMod_only s f .keys (by decide)
@[simp] theorem cfg_twinMod (s : State) (f : TwinSt → TwinSt) : (State.twinMod s f).cfg = s.cfg := twinMod_only s f .cfg (by decide)
@[simp] theorem dev_twinMod (s : State) (f : TwinSt → TwinSt) : (State.twinMod s f).dev = s.dev := twinMod_only s f .dev (by decide)
@[simp] theorem sent_twinMod (s : State) (f : TwinSt → TwinSt) : (State.twinMod s f).sent = s.sent := twinMod_only s f .sent (by decide)
@[simp] theorem free_twinMod (s : State) (f : TwinSt → TwinSt) : (State.twinMod s f).free = s.free := twinMod_only s f .free (by decide)
@[simp] theorem pending_twinMod (s : State) (f : TwinSt → TwinSt) : (State.twinMod s f).pending = s.pending := (twinMod_keeps (T := [.twin]) (Keeps.refl _ s) (List.Subset.refl _)).pending
@[simp] theorem rd_twinMod (s : State) (f : TwinSt → TwinSt) (x : Nat) : (State.twinMod s f).rd x = s.rd x := by simp [State.rd]
@[simp] theorem fld_twinMod (s : State) (f : TwinSt → TwinSt) (x : Fld) : (State.twinMod s f).fld x = s.fld x := by simp [State.fld]
@[simp] theorem bit_twinMod (s : State) (f : TwinSt → TwinSt) (x : Fld) : (State.twinMod s f).bit x = s.bit x := by simp [State.bit]
@[simp] theorem trd_twinMod (s : State) (f : TwinSt → TwinSt) (x y z : Nat) : (State.twinMod s f).trd x y z = s.trd x y z := by simp [State.trd]
@[simp] theorem tfld_twinMod (s : State) (f : TwinSt → TwinSt) (x y z u w_ : Nat) : (State.twinMod s f).tfld x y z u w_ = s.tfld x y z u w_ := by simp [State.tfld]

theorem snetMod_only (s : State) (f : SnetSt → SnetSt) : s.onlyIn (State.snetMod s f) [.snet] := (snetMod_keeps (T := [.snet]) (Keeps.refl _ s) (List.Subset.refl _)).only
@[simp] theorem regs_snetMod (s : State) (f : SnetSt → SnetSt) : (State.snetMod s f).regs = s.regs := snetMod_only s f .regs (by decide)
@[simp] theorem vis_snetMod (s : State) (f : SnetSt → SnetSt) : (State.snetMod s f).vis = s.vis := snetMod_only s f .vis (by decide)
@[simp] theorem shadow_snetMod (s : State) (f : SnetSt → SnetSt) : (State.snetMod s f).shadow = s.shadow := snetMod_only s f .shadow (by decide)
@[simp] theorem tbl_snetMod (s : State) (f : SnetSt → SnetSt) : (State.snetMod s f).tbl = s.tbl := snetMod_only s f .tbl (by decide)
@[simp] theorem tshadow_snetMod (s : State) (f : SnetSt → SnetSt) : (State.snetMod s f).tshadow = s.tshadow := snetMod_only s f .tshadow (by decide)
@[simp] theorem frzFrom_snetMod (s : State) (f : SnetSt → SnetSt) : (State.snetMod s f).frzFrom = s.frzFrom := snetMod_only s f .frzFrom (by decide)
@[simp] theorem commitDue_snetMod (s : State) (f : SnetSt → SnetSt) : (State.snetMod s f).commitDue = s.commitDue := snetMod_only s f .commitDue (by decide)
@[simp] theorem mbx_snetMod (s : State) (f : SnetSt → SnetSt) : (State.snetMod s f).mbx = s.mbx := snetMod_only s f .mbx (by decide)
@[simp] theorem host_snetMod (s : State) (f : SnetSt → SnetSt) : (State.snetMod s f).host = s.host := snetMod_only s f .items (by decide)
@[simp] theorem icu_snetMod (s : State) (f : SnetSt → SnetSt) : (State.snetMod s f).icu = s.icu := snetMod_only s f .icu (by decide)
@[simp] theorem evr_snetMod (s : State) (f : SnetSt → SnetSt) : (State.snetMod s f).evr = s.evr := snetMod_only s f .evr (by decide)
@[simp] theorem seq_snetMod (s : State) (f : SnetSt → SnetSt) : (State.snetMod s f).seq = s.seq := snetMod_only s f .seq (by decide)
@[simp] theorem cpe_snetMod (s : State) (f : SnetSt → SnetSt) : (State.snetMod s f).cpe = s.cpe := snetMod_only s f .cpe (by decide)
@[simp] theorem time_snetMod (s : State) (f : SnetSt → SnetSt) : (State.snetMod s f).time = s.time := snetMod_only s f .time (by decide)
@[simp] theorem model_snetMod (s : State) (f : SnetSt → SnetSt) : (State.snetMod s f).model = s.model := snetMod_only s f .model (by decide)
@[simp] theorem opt_snetMod (s : State) (f : SnetSt → SnetSt) : (State.snetMod s f).opt = s.opt := snetMod_only s f .opt (by decide)
@[simp] theorem can_snetMod (s : State) (f : SnetSt → SnetSt) : (State.snetMod s f).can = s.can := snetMod_only s f .can (by decide)
@[simp] theorem dio_snetMod (s : State) (f : SnetSt → SnetSt) : (State.snetMod s f).dio = s.dio := snetMod_only s f .dio (by decide)
@[simp] theorem adc_snetMod (s : State) (f : SnetSt → SnetSt) : (State.snetMod s f).adc = s.adc := snetMod_only s f .adc (by decide)
@[simp] theorem lnch_snetMod (s : State) (f : SnetSt → SnetSt) : (State.snetMod s f).lnch = s.lnch := snetMod_only s f .lnch (by decide)
@[simp] theorem priv_snetMod (s : State) (f : SnetSt → SnetSt) : (State.snetMod s f).priv = s.priv := snetMod_only s f .priv (by decide)
@[simp] theorem met_snetMod (s : State) (f : SnetSt → SnetSt) : (State.snetMod s f).met = s.met := snetMod_only s f .met (by decide)
@[simp] theorem metNv_snetMod (s : State) (f : SnetSt → SnetSt) : (State.snetMod s f).metNv = s.metNv := snetMod_only s f .metNv (by decide)
@[simp] theorem pwr_snetMod (s : State) (f : SnetSt → SnetSt) : (State.snetMod s f).pwr = s.pwr := snetMod_only s f .pwr (by decide)
@[simp] theorem cpeNv_snetMod (s : State) (f : SnetSt → SnetSt) : (State.snetMod s f).cpeNv = s.cpeNv := snetMod_only s f .cpeNv (by decide)
@[simp] theorem loop_snetMod (s : State) (f : SnetSt → SnetSt) : (State.snetMod s f).loop = s.loop := snetMod_only s f .loop (by decide)
@[simp] theorem twin_snetMod (s : State) (f : SnetSt → SnetSt) : (State.snetMod s f).twin = s.twin := snetMod_only s f .twin (by decide)
@[simp] theorem segs_snetMod (s : State) (f : SnetSt → SnetSt) : (State.snetMod s f).segs = s.segs := snetMod_only s f .segs (by decide)
@[simp] theorem keys_snetMod (s : State) (f : SnetSt → SnetSt) : (State.snetMod s f).keys = s.keys := snetMod_only s f .keys (by decide)
@[simp] theorem cfg_snetMod (s : State) (f : SnetSt → SnetSt) : (State.snetMod s f).cfg = s.cfg := snetMod_only s f .cfg (by decide)
@[simp] theorem dev_snetMod (s : State) (f : SnetSt → SnetSt) : (State.snetMod s f).dev = s.dev := snetMod_only s f .dev (by decide)
@[simp] theorem sent_snetMod (s : State) (f : SnetSt → SnetSt) : (State.snetMod s f).sent = s.sent := snetMod_only s f .sent (by decide)
@[simp] theorem free_snetMod (s : State) (f : SnetSt → SnetSt) : (State.snetMod s f).free = s.free := snetMod_only s f .free (by decide)
@[simp] theorem pending_snetMod (s : State) (f : SnetSt → SnetSt) : (State.snetMod s f).pending = s.pending := (snetMod_keeps (T := [.snet]) (Keeps.refl _ s) (List.Subset.refl _)).pending
@[simp] theorem rd_snetMod (s : State) (f : SnetSt → SnetSt) (x : Nat) : (State.snetMod s f).rd x = s.rd x := by simp [State.rd]
@[simp] theorem fld_snetMod (s : State) (f : SnetSt → SnetSt) (x : Fld) : (State.snetMod s f).fld x = s.fld x := by simp [State.fld]
@[simp] theorem bit_snetMod (s : State) (f : SnetSt → SnetSt) (x : Fld) : (State.snetMod s f).bit x = s.bit x := by simp [State.bit]
@[simp] theorem trd_snetMod (s : State) (f : SnetSt → SnetSt) (x y z : Nat) : (State.snetMod s f).trd x y z = s.trd x y z := by simp [State.trd]
@[simp] theorem tfld_snetMod (s : State) (f : SnetSt → SnetSt) (x y z u w_ : Nat) : (State.snetMod s f).tfld x y z u w_ = s.tfld x y z u w_ := by simp [State.tfld]

theorem canMod_only (s : State) (p : Nat) (f : CanSt → CanSt) : s.onlyIn (State.canMod s p f) [.can] := (canMod_keeps (T := [.can]) (Keeps.refl _ s) (List.Subset.refl _)).only
@[simp] theorem regs_canMod (s : State) (p : Nat) (f : CanSt → CanSt) : (State.canMod s p f).regs = s.regs := canMod_only s p f .regs (by decide)
@[simp] theorem vis_canMod (s : State) (p : Nat) (f : CanSt → CanSt) : (State.canMod s p f).vis = s.vis := canMod_only s p f .vis (by decide)
@[simp] theorem shadow_canMod (s : State) (p : Nat) (f : CanSt → CanSt) : (State.canMod s p f).shadow = s.shadow := canMod_only s p f .shadow (by decide)
@[simp] theorem tbl_canMod (s : State) (p : Nat) (f : CanSt → CanSt) : (State.canMod s p f).tbl = s.tbl := canMod_only s p f .tbl (by decide)
@[simp] theorem tshadow_canMod (s : State) (p : Nat) (f : CanSt → CanSt) : (State.canMod s p f).tshadow = s.tshadow := canMod_only s p f .tshadow (by decide)
@[simp] theorem frzFrom_canMod (s : State) (p : Nat) (f : CanSt → CanSt) : (State.canMod s p f).frzFrom = s.frzFrom := canMod_only s p f .frzFrom (by decide)
@[simp] theorem commitDue_canMod (s : State) (p : Nat) (f : CanSt → CanSt) : (State.canMod s p f).commitDue = s.commitDue := canMod_only s p f .commitDue (by decide)
@[simp] theorem mbx_canMod (s : State) (p : Nat) (f : CanSt → CanSt) : (State.canMod s p f).mbx = s.mbx := canMod_only s p f .mbx (by decide)
@[simp] theorem host_canMod (s : State) (p : Nat) (f : CanSt → CanSt) : (State.canMod s p f).host = s.host := canMod_only s p f .items (by decide)
@[simp] theorem icu_canMod (s : State) (p : Nat) (f : CanSt → CanSt) : (State.canMod s p f).icu = s.icu := canMod_only s p f .icu (by decide)
@[simp] theorem evr_canMod (s : State) (p : Nat) (f : CanSt → CanSt) : (State.canMod s p f).evr = s.evr := canMod_only s p f .evr (by decide)
@[simp] theorem seq_canMod (s : State) (p : Nat) (f : CanSt → CanSt) : (State.canMod s p f).seq = s.seq := canMod_only s p f .seq (by decide)
@[simp] theorem cpe_canMod (s : State) (p : Nat) (f : CanSt → CanSt) : (State.canMod s p f).cpe = s.cpe := canMod_only s p f .cpe (by decide)
@[simp] theorem time_canMod (s : State) (p : Nat) (f : CanSt → CanSt) : (State.canMod s p f).time = s.time := canMod_only s p f .time (by decide)
@[simp] theorem model_canMod (s : State) (p : Nat) (f : CanSt → CanSt) : (State.canMod s p f).model = s.model := canMod_only s p f .model (by decide)
@[simp] theorem opt_canMod (s : State) (p : Nat) (f : CanSt → CanSt) : (State.canMod s p f).opt = s.opt := canMod_only s p f .opt (by decide)
@[simp] theorem snet_canMod (s : State) (p : Nat) (f : CanSt → CanSt) : (State.canMod s p f).snet = s.snet := canMod_only s p f .snet (by decide)
@[simp] theorem dio_canMod (s : State) (p : Nat) (f : CanSt → CanSt) : (State.canMod s p f).dio = s.dio := canMod_only s p f .dio (by decide)
@[simp] theorem adc_canMod (s : State) (p : Nat) (f : CanSt → CanSt) : (State.canMod s p f).adc = s.adc := canMod_only s p f .adc (by decide)
@[simp] theorem lnch_canMod (s : State) (p : Nat) (f : CanSt → CanSt) : (State.canMod s p f).lnch = s.lnch := canMod_only s p f .lnch (by decide)
@[simp] theorem priv_canMod (s : State) (p : Nat) (f : CanSt → CanSt) : (State.canMod s p f).priv = s.priv := canMod_only s p f .priv (by decide)
@[simp] theorem met_canMod (s : State) (p : Nat) (f : CanSt → CanSt) : (State.canMod s p f).met = s.met := canMod_only s p f .met (by decide)
@[simp] theorem metNv_canMod (s : State) (p : Nat) (f : CanSt → CanSt) : (State.canMod s p f).metNv = s.metNv := canMod_only s p f .metNv (by decide)
@[simp] theorem pwr_canMod (s : State) (p : Nat) (f : CanSt → CanSt) : (State.canMod s p f).pwr = s.pwr := canMod_only s p f .pwr (by decide)
@[simp] theorem cpeNv_canMod (s : State) (p : Nat) (f : CanSt → CanSt) : (State.canMod s p f).cpeNv = s.cpeNv := canMod_only s p f .cpeNv (by decide)
@[simp] theorem loop_canMod (s : State) (p : Nat) (f : CanSt → CanSt) : (State.canMod s p f).loop = s.loop := canMod_only s p f .loop (by decide)
@[simp] theorem twin_canMod (s : State) (p : Nat) (f : CanSt → CanSt) : (State.canMod s p f).twin = s.twin := canMod_only s p f .twin (by decide)
@[simp] theorem segs_canMod (s : State) (p : Nat) (f : CanSt → CanSt) : (State.canMod s p f).segs = s.segs := canMod_only s p f .segs (by decide)
@[simp] theorem keys_canMod (s : State) (p : Nat) (f : CanSt → CanSt) : (State.canMod s p f).keys = s.keys := canMod_only s p f .keys (by decide)
@[simp] theorem cfg_canMod (s : State) (p : Nat) (f : CanSt → CanSt) : (State.canMod s p f).cfg = s.cfg := canMod_only s p f .cfg (by decide)
@[simp] theorem dev_canMod (s : State) (p : Nat) (f : CanSt → CanSt) : (State.canMod s p f).dev = s.dev := canMod_only s p f .dev (by decide)
@[simp] theorem sent_canMod (s : State) (p : Nat) (f : CanSt → CanSt) : (State.canMod s p f).sent = s.sent := canMod_only s p f .sent (by decide)
@[simp] theorem free_canMod (s : State) (p : Nat) (f : CanSt → CanSt) : (State.canMod s p f).free = s.free := canMod_only s p f .free (by decide)
@[simp] theorem pending_canMod (s : State) (p : Nat) (f : CanSt → CanSt) : (State.canMod s p f).pending = s.pending := (canMod_keeps (T := [.can]) (Keeps.refl _ s) (List.Subset.refl _)).pending
@[simp] theorem rd_canMod (s : State) (p : Nat) (f : CanSt → CanSt) (x : Nat) : (State.canMod s p f).rd x = s.rd x := by simp [State.rd]
@[simp] theorem fld_canMod (s : State) (p : Nat) (f : CanSt → CanSt) (x : Fld) : (State.canMod s p f).fld x = s.fld x := by simp [State.fld]
@[simp] theorem bit_canMod (s : State) (p : Nat) (f : CanSt → CanSt) (x : Fld) : (State.canMod s p f).bit x = s.bit x := by simp [State.bit]
@[simp] theorem trd_canMod (s : State) (p : Nat) (f : CanSt → CanSt) (x y z : Nat) : (State.canMod s p f).trd x y z = s.trd x y z := by simp [State.trd]
@[simp] theorem tfld_canMod (s : State) (p : Nat) (f : CanSt → CanSt) (x y z u w_ : Nat) : (State.canMod s p f).tfld x y z u w_ = s.tfld x y z u w_ := by simp [State.tfld]

theorem dioMod_only (s : State) (f : DioSt → DioSt) : s.onlyIn (State.dioMod s f) [.dio] := (dioMod_keeps (T := [.dio]) (Keeps.refl _ s) (List.Subset.refl _)).only
@[simp] theorem regs_dioMod (s : State) (f : DioSt → DioSt) : (State.dioMod s f).regs = s.regs := dioMod_only s f .regs (by decide)
@[simp] theorem vis_dioMod (s : State) (f : DioSt → DioSt) : (State.dioMod s f).vis = s.vis := dioMod_only s f .vis (by decide)
@[simp] theorem shadow_dioMod (s : State) (f : DioSt → DioSt) : (State.dioMod s f).shadow = s.shadow := dioMod_only s f .shadow (by decide)
@[simp] theorem tbl_dioMod (s : State) (f : DioSt → DioSt) : (State.dioMod s f).tbl = s.tbl := dioMod_only s f .tbl (by decide)
@[simp] theorem tshadow_dioMod (s : State) (f : DioSt → DioSt) : (State.dioMod s f).tshadow = s.tshadow := dioMod_only s f .tshadow (by decide)
@[simp] theorem frzFrom_dioMod (s : State) (f : DioSt → DioSt) : (State.dioMod s f).frzFrom = s.frzFrom := dioMod_only s f .frzFrom (by decide)
@[simp] theorem commitDue_dioMod (s : State) (f : DioSt → DioSt) : (State.dioMod s f).commitDue = s.commitDue := dioMod_only s f .commitDue (by decide)
@[simp] theorem mbx_dioMod (s : State) (f : DioSt → DioSt) : (State.dioMod s f).mbx = s.mbx := dioMod_only s f .mbx (by decide)
@[simp] theorem host_dioMod (s : State) (f : DioSt → DioSt) : (State.dioMod s f).host = s.host := dioMod_only s f .items (by decide)
@[simp] theorem icu_dioMod (s : State) (f : DioSt → DioSt) : (State.dioMod s f).icu = s.icu := dioMod_only s f .icu (by decide)
@[simp] theorem evr_dioMod (s : State) (f : DioSt → DioSt) : (State.dioMod s f).evr = s.evr := dioMod_only s f .evr (by decide)
@[simp] theorem seq_dioMod (s : State) (f : DioSt → DioSt) : (State.dioMod s f).seq = s.seq := dioMod_only s f .seq (by decide)
@[simp] theorem cpe_dioMod (s : State) (f : DioSt → DioSt) : (State.dioMod s f).cpe = s.cpe := dioMod_only s f .cpe (by decide)
@[simp] theorem time_dioMod (s : State) (f : DioSt → DioSt) : (State.dioMod s f).time = s.time := dioMod_only s f .time (by decide)
@[simp] theorem model_dioMod (s : State) (f : DioSt → DioSt) : (State.dioMod s f).model = s.model := dioMod_only s f .model (by decide)
@[simp] theorem opt_dioMod (s : State) (f : DioSt → DioSt) : (State.dioMod s f).opt = s.opt := dioMod_only s f .opt (by decide)
@[simp] theorem snet_dioMod (s : State) (f : DioSt → DioSt) : (State.dioMod s f).snet = s.snet := dioMod_only s f .snet (by decide)
@[simp] theorem can_dioMod (s : State) (f : DioSt → DioSt) : (State.dioMod s f).can = s.can := dioMod_only s f .can (by decide)
@[simp] theorem adc_dioMod (s : State) (f : DioSt → DioSt) : (State.dioMod s f).adc = s.adc := dioMod_only s f .adc (by decide)
@[simp] theorem lnch_dioMod (s : State) (f : DioSt → DioSt) : (State.dioMod s f).lnch = s.lnch := dioMod_only s f .lnch (by decide)
@[simp] theorem priv_dioMod (s : State) (f : DioSt → DioSt) : (State.dioMod s f).priv = s.priv := dioMod_only s f .priv (by decide)
@[simp] theorem met_dioMod (s : State) (f : DioSt → DioSt) : (State.dioMod s f).met = s.met := dioMod_only s f .met (by decide)
@[simp] theorem metNv_dioMod (s : State) (f : DioSt → DioSt) : (State.dioMod s f).metNv = s.metNv := dioMod_only s f .metNv (by decide)
@[simp] theorem pwr_dioMod (s : State) (f : DioSt → DioSt) : (State.dioMod s f).pwr = s.pwr := dioMod_only s f .pwr (by decide)
@[simp] theorem cpeNv_dioMod (s : State) (f : DioSt → DioSt) : (State.dioMod s f).cpeNv = s.cpeNv := dioMod_only s f .cpeNv (by decide)
@[simp] theorem loop_dioMod (s : State) (f : DioSt → DioSt) : (State.dioMod s f).loop = s.loop := dioMod_only s f .loop (by decide)
@[simp] theorem twin_dioMod (s : State) (f : DioSt → DioSt) : (State.dioMod s f).twin = s.twin := dioMod_only s f .twin (by decide)
@[simp] theorem segs_dioMod (s : State) (f : DioSt → DioSt) : (State.dioMod s f).segs = s.segs := dioMod_only s f .segs (by decide)
@[simp] theorem keys_dioMod (s : State) (f : DioSt → DioSt) : (State.dioMod s f).keys = s.keys := dioMod_only s f .keys (by decide)
@[simp] theorem cfg_dioMod (s : State) (f : DioSt → DioSt) : (State.dioMod s f).cfg = s.cfg := dioMod_only s f .cfg (by decide)
@[simp] theorem dev_dioMod (s : State) (f : DioSt → DioSt) : (State.dioMod s f).dev = s.dev := dioMod_only s f .dev (by decide)
@[simp] theorem sent_dioMod (s : State) (f : DioSt → DioSt) : (State.dioMod s f).sent = s.sent := dioMod_only s f .sent (by decide)
@[simp] theorem free_dioMod (s : State) (f : DioSt → DioSt) : (State.dioMod s f).free = s.free := dioMod_only s f .free (by decide)
@[simp] theorem pending_dioMod (s : State) (f : DioSt → DioSt) : (State.dioMod s f).pending = s.pending := (dioMod_keeps (T := [.dio]) (Keeps.refl _ s) (List.Subset.refl _)).pending
@[simp] theorem rd_dioMod (s : State) (f : DioSt → DioSt) (x : Nat) : (State.dioMod s f).rd x = s.rd x := by simp [State.rd]
@[simp] theorem fld_dioMod (s : State) (f : DioSt → DioSt) (x : Fld) : (State.dioMod s f).fld x = s.fld x := by simp [State.fld]
@[simp] theorem bit_dioMod (s : State) (f : DioSt → DioSt) (x : Fld) : (State.dioMod s f).bit x = s.bit x := by simp [State.bit]
@[simp] theorem trd_dioMod (s : State) (f : DioSt → DioSt) (x y z : Nat) : (State.dioMod s f).trd x y z = s.trd x y z := by simp [State.trd]
@[simp] theorem tfld_dioMod (s : State) (f : DioSt → DioSt) (x y z u w_ : Nat) : (State.dioMod s f).tfld x y z u w_ = s.tfld x y z u w_ := by simp [State.tfld]

theorem adcMod_only (s : State) (f : AdcSt → AdcSt) : s.onlyIn (State.adcMod s f) [.adc] := (adcMod_keeps (T := [.adc]) (Keeps.refl _ s) (List.Subset.refl _)).only
@[simp] theorem regs_adcMod (s : State) (f : AdcSt → AdcSt) : (State.adcMod s f).regs = s.regs := adcMod_only s f .regs (by decide)
@[simp] theorem vis_adcMod (s : State) (f : AdcSt → AdcSt) : (State.adcMod s f).vis = s.vis := adcMod_only s f .vis (by decide)
@[simp] theorem shadow_adcMod (s : State) (f : AdcSt → AdcSt) : (State.adcMod s f).shadow = s.shadow := adcMod_only s f .shadow (by decide)
@[simp] theorem tbl_adcMod (s : State) (f : AdcSt → AdcSt) : (State.adcMod s f).tbl = s.tbl := adcMod_only s f .tbl (by decide)
@[simp] theorem tshadow_adcMod (s : State) (f : AdcSt → AdcSt) : (State.adcMod s f).tshadow = s.tshadow := adcMod_only s f .tshadow (by decide)
@[simp] theorem frzFrom_adcMod (s : State) (f : AdcSt → AdcSt) : (State.adcMod s f).frzFrom = s.frzFrom := adcMod_only s f .frzFrom (by decide)
@[simp] theorem commitDue_adcMod (s : State) (f : AdcSt → AdcSt) : (State.adcMod s f).commitDue = s.commitDue := adcMod_only s f .commitDue (by decide)
@[simp] theorem mbx_adcMod (s : State) (f : AdcSt → AdcSt) : (State.adcMod s f).mbx = s.mbx := adcMod_only s f .mbx (by decide)
@[simp] theorem host_adcMod (s : State) (f : AdcSt → AdcSt) : (State.adcMod s f).host = s.host := adcMod_only s f .items (by decide)
@[simp] theorem icu_adcMod (s : State) (f : AdcSt → AdcSt) : (State.adcMod s f).icu = s.icu := adcMod_only s f .icu (by decide)
@[simp] theorem evr_adcMod (s : State) (f : AdcSt → AdcSt) : (State.adcMod s f).evr = s.evr := adcMod_only s f .evr (by decide)
@[simp] theorem seq_adcMod (s : State) (f : AdcSt → AdcSt) : (State.adcMod s f).seq = s.seq := adcMod_only s f .seq (by decide)
@[simp] theorem cpe_adcMod (s : State) (f : AdcSt → AdcSt) : (State.adcMod s f).cpe = s.cpe := adcMod_only s f .cpe (by decide)
@[simp] theorem time_adcMod (s : State) (f : AdcSt → AdcSt) : (State.adcMod s f).time = s.time := adcMod_only s f .time (by decide)
@[simp] theorem model_adcMod (s : State) (f : AdcSt → AdcSt) : (State.adcMod s f).model = s.model := adcMod_only s f .model (by decide)
@[simp] theorem opt_adcMod (s : State) (f : AdcSt → AdcSt) : (State.adcMod s f).opt = s.opt := adcMod_only s f .opt (by decide)
@[simp] theorem snet_adcMod (s : State) (f : AdcSt → AdcSt) : (State.adcMod s f).snet = s.snet := adcMod_only s f .snet (by decide)
@[simp] theorem can_adcMod (s : State) (f : AdcSt → AdcSt) : (State.adcMod s f).can = s.can := adcMod_only s f .can (by decide)
@[simp] theorem dio_adcMod (s : State) (f : AdcSt → AdcSt) : (State.adcMod s f).dio = s.dio := adcMod_only s f .dio (by decide)
@[simp] theorem lnch_adcMod (s : State) (f : AdcSt → AdcSt) : (State.adcMod s f).lnch = s.lnch := adcMod_only s f .lnch (by decide)
@[simp] theorem priv_adcMod (s : State) (f : AdcSt → AdcSt) : (State.adcMod s f).priv = s.priv := adcMod_only s f .priv (by decide)
@[simp] theorem met_adcMod (s : State) (f : AdcSt → AdcSt) : (State.adcMod s f).met = s.met := adcMod_only s f .met (by decide)
@[simp] theorem metNv_adcMod (s : State) (f : AdcSt → AdcSt) : (State.adcMod s f).metNv = s.metNv := adcMod_only s f .metNv (by decide)
@[simp] theorem pwr_adcMod (s : State) (f : AdcSt → AdcSt) : (State.adcMod s f).pwr = s.pwr := adcMod_only s f .pwr (by decide)
@[simp] theorem cpeNv_adcMod (s : State) (f : AdcSt → AdcSt) : (State.adcMod s f).cpeNv = s.cpeNv := adcMod_only s f .cpeNv (by decide)
@[simp] theorem loop_adcMod (s : State) (f : AdcSt → AdcSt) : (State.adcMod s f).loop = s.loop := adcMod_only s f .loop (by decide)
@[simp] theorem twin_adcMod (s : State) (f : AdcSt → AdcSt) : (State.adcMod s f).twin = s.twin := adcMod_only s f .twin (by decide)
@[simp] theorem segs_adcMod (s : State) (f : AdcSt → AdcSt) : (State.adcMod s f).segs = s.segs := adcMod_only s f .segs (by decide)
@[simp] theorem keys_adcMod (s : State) (f : AdcSt → AdcSt) : (State.adcMod s f).keys = s.keys := adcMod_only s f .keys (by decide)
@[simp] theorem cfg_adcMod (s : State) (f : AdcSt → AdcSt) : (State.adcMod s f).cfg = s.cfg := adcMod_only s f .cfg (by decide)
@[simp] theorem dev_adcMod (s : State) (f : AdcSt → AdcSt) : (State.adcMod s f).dev = s.dev := adcMod_only s f .dev (by decide)
@[simp] theorem sent_adcMod (s : State) (f : AdcSt → AdcSt) : (State.adcMod s f).sent = s.sent := adcMod_only s f .sent (by decide)
@[simp] theorem free_adcMod (s : State) (f : AdcSt → AdcSt) : (State.adcMod s f).free = s.free := adcMod_only s f .free (by decide)
@[simp] theorem pending_adcMod (s : State) (f : AdcSt → AdcSt) : (State.adcMod s f).pending = s.pending := (adcMod_keeps (T := [.adc]) (Keeps.refl _ s) (List.Subset.refl _)).pending
@[simp] theorem rd_adcMod (s : State) (f : AdcSt → AdcSt) (x : Nat) : (State.adcMod s f).rd x = s.rd x := by simp [State.rd]
@[simp] theorem fld_adcMod (s : State) (f : AdcSt → AdcSt) (x : Fld) : (State.adcMod s f).fld x = s.fld x := by simp [State.fld]
@[simp] theorem bit_adcMod (s : State) (f : AdcSt → AdcSt) (x : Fld) : (State.adcMod s f).bit x = s.bit x := by simp [State.bit]
@[simp] theorem trd_adcMod (s : State) (f : AdcSt → AdcSt) (x y z : Nat) : (State.adcMod s f).trd x y z = s.trd x y z := by simp [State.trd]
@[simp] theorem tfld_adcMod (s : State) (f : AdcSt → AdcSt) (x y z u w_ : Nat) : (State.adcMod s f).tfld x y z u w_ = s.tfld x y z u w_ := by simp [State.tfld]

theorem privMod_only (s : State) (f : PrivSt → PrivSt) : s.onlyIn (State.privMod s f) [.priv] := (privMod_keeps (T := [.priv]) (Keeps.refl _ s) (List.Subset.refl _)).only
@[simp] theorem regs_privMod (s : State) (f : PrivSt → PrivSt) : (State.privMod s f).regs = s.regs := privMod_only s f .regs (by decide)
@[simp] theorem vis_privMod (s : State) (f : PrivSt → PrivSt) : (State.privMod s f).vis = s.vis := privMod_only s f .vis (by decide)
@[simp] theorem shadow_privMod (s : State) (f : PrivSt → PrivSt) : (State.privMod s f).shadow = s.shadow := privMod_only s f .shadow (by decide)
@[simp] theorem tbl_privMod (s : State) (f : PrivSt → PrivSt) : (State.privMod s f).tbl = s.tbl := privMod_only s f .tbl (by decide)
@[simp] theorem tshadow_privMod (s : State) (f : PrivSt → PrivSt) : (State.privMod s f).tshadow = s.tshadow := privMod_only s f .tshadow (by decide)
@[simp] theorem frzFrom_privMod (s : State) (f : PrivSt → PrivSt) : (State.privMod s f).frzFrom = s.frzFrom := privMod_only s f .frzFrom (by decide)
@[simp] theorem commitDue_privMod (s : State) (f : PrivSt → PrivSt) : (State.privMod s f).commitDue = s.commitDue := privMod_only s f .commitDue (by decide)
@[simp] theorem mbx_privMod (s : State) (f : PrivSt → PrivSt) : (State.privMod s f).mbx = s.mbx := privMod_only s f .mbx (by decide)
@[simp] theorem host_privMod (s : State) (f : PrivSt → PrivSt) : (State.privMod s f).host = s.host := privMod_only s f .items (by decide)
@[simp] theorem icu_privMod (s : State) (f : PrivSt → PrivSt) : (State.privMod s f).icu = s.icu := privMod_only s f .icu (by decide)
@[simp] theorem evr_privMod (s : State) (f : PrivSt → PrivSt) : (State.privMod s f).evr = s.evr := privMod_only s f .evr (by decide)
@[simp] theorem seq_privMod (s : State) (f : PrivSt → PrivSt) : (State.privMod s f).seq = s.seq := privMod_only s f .seq (by decide)
@[simp] theorem cpe_privMod (s : State) (f : PrivSt → PrivSt) : (State.privMod s f).cpe = s.cpe := privMod_only s f .cpe (by decide)
@[simp] theorem time_privMod (s : State) (f : PrivSt → PrivSt) : (State.privMod s f).time = s.time := privMod_only s f .time (by decide)
@[simp] theorem model_privMod (s : State) (f : PrivSt → PrivSt) : (State.privMod s f).model = s.model := privMod_only s f .model (by decide)
@[simp] theorem opt_privMod (s : State) (f : PrivSt → PrivSt) : (State.privMod s f).opt = s.opt := privMod_only s f .opt (by decide)
@[simp] theorem snet_privMod (s : State) (f : PrivSt → PrivSt) : (State.privMod s f).snet = s.snet := privMod_only s f .snet (by decide)
@[simp] theorem can_privMod (s : State) (f : PrivSt → PrivSt) : (State.privMod s f).can = s.can := privMod_only s f .can (by decide)
@[simp] theorem dio_privMod (s : State) (f : PrivSt → PrivSt) : (State.privMod s f).dio = s.dio := privMod_only s f .dio (by decide)
@[simp] theorem adc_privMod (s : State) (f : PrivSt → PrivSt) : (State.privMod s f).adc = s.adc := privMod_only s f .adc (by decide)
@[simp] theorem lnch_privMod (s : State) (f : PrivSt → PrivSt) : (State.privMod s f).lnch = s.lnch := privMod_only s f .lnch (by decide)
@[simp] theorem met_privMod (s : State) (f : PrivSt → PrivSt) : (State.privMod s f).met = s.met := privMod_only s f .met (by decide)
@[simp] theorem metNv_privMod (s : State) (f : PrivSt → PrivSt) : (State.privMod s f).metNv = s.metNv := privMod_only s f .metNv (by decide)
@[simp] theorem pwr_privMod (s : State) (f : PrivSt → PrivSt) : (State.privMod s f).pwr = s.pwr := privMod_only s f .pwr (by decide)
@[simp] theorem cpeNv_privMod (s : State) (f : PrivSt → PrivSt) : (State.privMod s f).cpeNv = s.cpeNv := privMod_only s f .cpeNv (by decide)
@[simp] theorem loop_privMod (s : State) (f : PrivSt → PrivSt) : (State.privMod s f).loop = s.loop := privMod_only s f .loop (by decide)
@[simp] theorem twin_privMod (s : State) (f : PrivSt → PrivSt) : (State.privMod s f).twin = s.twin := privMod_only s f .twin (by decide)
@[simp] theorem segs_privMod (s : State) (f : PrivSt → PrivSt) : (State.privMod s f).segs = s.segs := privMod_only s f .segs (by decide)
@[simp] theorem keys_privMod (s : State) (f : PrivSt → PrivSt) : (State.privMod s f).keys = s.keys := privMod_only s f .keys (by decide)
@[simp] theorem cfg_privMod (s : State) (f : PrivSt → PrivSt) : (State.privMod s f).cfg = s.cfg := privMod_only s f .cfg (by decide)
@[simp] theorem dev_privMod (s : State) (f : PrivSt → PrivSt) : (State.privMod s f).dev = s.dev := privMod_only s f .dev (by decide)
@[simp] theorem sent_privMod (s : State) (f : PrivSt → PrivSt) : (State.privMod s f).sent = s.sent := privMod_only s f .sent (by decide)
@[simp] theorem free_privMod (s : State) (f : PrivSt → PrivSt) : (State.privMod s f).free = s.free := privMod_only s f .free (by decide)
@[simp] theorem pending_privMod (s : State) (f : PrivSt → PrivSt) : (State.privMod s f).pending = s.pending := (privMod_keeps (T := [.priv]) (Keeps.refl _ s) (List.Subset.refl _)).pending
@[simp] theorem rd_privMod (s : State) (f : PrivSt → PrivSt) (x : Nat) : (State.privMod s f).rd x = s.rd x := by simp [State.rd]
@[simp] theorem fld_privMod (s : State) (f : PrivSt → PrivSt) (x : Fld) : (State.privMod s f).fld x = s.fld x := by simp [State.fld]
@[simp] theorem bit_privMod (s : State) (f : PrivSt → PrivSt) (x : Fld) : (State.privMod s f).bit x = s.bit x := by simp [State.bit]
@[simp] theorem trd_privMod (s : State) (f : PrivSt → PrivSt) (x y z : Nat) : (State.privMod s f).trd x y z = s.trd x y z := by simp [State.trd]
@[simp] theorem tfld_privMod (s : State) (f : PrivSt → PrivSt) (x y z u w_ : Nat) : (State.privMod s f).tfld x y z u w_ = s.tfld x y z u w_ := by simp [State.tfld]

theorem metMod_only (s : State) (f : MetSt → MetSt) : s.onlyIn (State.metMod s f) [.met] := (metMod_keeps (T := [.met]) (Keeps.refl _ s) (List.Subset.refl _)).only
@[simp] theorem regs_metMod (s : State) (f : MetSt → MetSt) : (State.metMod s f).regs = s.regs := metMod_only s f .regs (by decide)
@[simp] theorem vis_metMod (s : State) (f : MetSt → MetSt) : (State.metMod s f).vis = s.vis := metMod_only s f .vis (by decide)
@[simp] theorem shadow_metMod (s : State) (f : MetSt → MetSt) : (State.metMod s f).shadow = s.shadow := metMod_only s f .shadow (by decide)
@[simp] theorem tbl_metMod (s : State) (f : MetSt → MetSt) : (State.metMod s f).tbl = s.tbl := metMod_only s f .tbl (by decide)
@[simp] theorem tshadow_metMod (s : State) (f : MetSt → MetSt) : (State.metMod s f).tshadow = s.tshadow := metMod_only s f .tshadow (by decide)
@[simp] theorem frzFrom_metMod (s : State) (f : MetSt → MetSt) : (State.metMod s f).frzFrom = s.frzFrom := metMod_only s f .frzFrom (by decide)
@[simp] theorem commitDue_metMod (s : State) (f : MetSt → MetSt) : (State.metMod s f).commitDue = s.commitDue := metMod_only s f .commitDue (by decide)
@[simp] theorem mbx_metMod (s : State) (f : MetSt → MetSt) : (State.metMod s f).mbx = s.mbx := metMod_only s f .mbx (by decide)
@[simp] theorem host_metMod (s : State) (f : MetSt → MetSt) : (State.metMod s f).host = s.host := metMod_only s f .items (by decide)
@[simp] theorem icu_metMod (s : State) (f : MetSt → MetSt) : (State.metMod s f).icu = s.icu := metMod_only s f .icu (by decide)
@[simp] theorem evr_metMod (s : State) (f : MetSt → MetSt) : (State.metMod s f).evr = s.evr := metMod_only s f .evr (by decide)
@[simp] theorem seq_metMod (s : State) (f : MetSt → MetSt) : (State.metMod s f).seq = s.seq := metMod_only s f .seq (by decide)
@[simp] theorem cpe_metMod (s : State) (f : MetSt → MetSt) : (State.metMod s f).cpe = s.cpe := metMod_only s f .cpe (by decide)
@[simp] theorem time_metMod (s : State) (f : MetSt → MetSt) : (State.metMod s f).time = s.time := metMod_only s f .time (by decide)
@[simp] theorem model_metMod (s : State) (f : MetSt → MetSt) : (State.metMod s f).model = s.model := metMod_only s f .model (by decide)
@[simp] theorem opt_metMod (s : State) (f : MetSt → MetSt) : (State.metMod s f).opt = s.opt := metMod_only s f .opt (by decide)
@[simp] theorem snet_metMod (s : State) (f : MetSt → MetSt) : (State.metMod s f).snet = s.snet := metMod_only s f .snet (by decide)
@[simp] theorem can_metMod (s : State) (f : MetSt → MetSt) : (State.metMod s f).can = s.can := metMod_only s f .can (by decide)
@[simp] theorem dio_metMod (s : State) (f : MetSt → MetSt) : (State.metMod s f).dio = s.dio := metMod_only s f .dio (by decide)
@[simp] theorem adc_metMod (s : State) (f : MetSt → MetSt) : (State.metMod s f).adc = s.adc := metMod_only s f .adc (by decide)
@[simp] theorem lnch_metMod (s : State) (f : MetSt → MetSt) : (State.metMod s f).lnch = s.lnch := metMod_only s f .lnch (by decide)
@[simp] theorem priv_metMod (s : State) (f : MetSt → MetSt) : (State.metMod s f).priv = s.priv := metMod_only s f .priv (by decide)
@[simp] theorem metNv_metMod (s : State) (f : MetSt → MetSt) : (State.metMod s f).metNv = s.metNv := metMod_only s f .metNv (by decide)
@[simp] theorem pwr_metMod (s : State) (f : MetSt → MetSt) : (State.metMod s f).pwr = s.pwr := metMod_only s f .pwr (by decide)
@[simp] theorem cpeNv_metMod (s : State) (f : MetSt → MetSt) : (State.metMod s f).cpeNv = s.cpeNv := metMod_only s f .cpeNv (by decide)
@[simp] theorem loop_metMod (s : State) (f : MetSt → MetSt) : (State.metMod s f).loop = s.loop := metMod_only s f .loop (by decide)
@[simp] theorem twin_metMod (s : State) (f : MetSt → MetSt) : (State.metMod s f).twin = s.twin := metMod_only s f .twin (by decide)
@[simp] theorem segs_metMod (s : State) (f : MetSt → MetSt) : (State.metMod s f).segs = s.segs := metMod_only s f .segs (by decide)
@[simp] theorem keys_metMod (s : State) (f : MetSt → MetSt) : (State.metMod s f).keys = s.keys := metMod_only s f .keys (by decide)
@[simp] theorem cfg_metMod (s : State) (f : MetSt → MetSt) : (State.metMod s f).cfg = s.cfg := metMod_only s f .cfg (by decide)
@[simp] theorem dev_metMod (s : State) (f : MetSt → MetSt) : (State.metMod s f).dev = s.dev := metMod_only s f .dev (by decide)
@[simp] theorem sent_metMod (s : State) (f : MetSt → MetSt) : (State.metMod s f).sent = s.sent := metMod_only s f .sent (by decide)
@[simp] theorem free_metMod (s : State) (f : MetSt → MetSt) : (State.metMod s f).free = s.free := metMod_only s f .free (by decide)
@[simp] theorem pending_metMod (s : State) (f : MetSt → MetSt) : (State.metMod s f).pending = s.pending := (metMod_keeps (T := [.met]) (Keeps.refl _ s) (List.Subset.refl _)).pending
@[simp] theorem rd_metMod (s : State) (f : MetSt → MetSt) (x : Nat) : (State.metMod s f).rd x = s.rd x := by simp [State.rd]
@[simp] theorem fld_metMod (s : State) (f : MetSt → MetSt) (x : Fld) : (State.metMod s f).fld x = s.fld x := by simp [State.fld]
@[simp] theorem bit_metMod (s : State) (f : MetSt → MetSt) (x : Fld) : (State.metMod s f).bit x = s.bit x := by simp [State.bit]
@[simp] theorem trd_metMod (s : State) (f : MetSt → MetSt) (x y z : Nat) : (State.metMod s f).trd x y z = s.trd x y z := by simp [State.trd]
@[simp] theorem tfld_metMod (s : State) (f : MetSt → MetSt) (x y z u w_ : Nat) : (State.metMod s f).tfld x y z u w_ = s.tfld x y z u w_ := by simp [State.tfld]

theorem metNvMod_only (s : State) (f : MetNv → MetNv) : s.onlyIn (State.metNvMod s f) [.metNv] := (metNvMod_keeps (T := [.metNv]) (Keeps.refl _ s) (List.Subset.refl _)).only
@[simp] theorem regs_metNvMod (s : State) (f : MetNv → MetNv) : (State.metNvMod s f).regs = s.regs := metNvMod_only s f .regs (by decide)
@[simp] theorem vis_metNvMod (s : State) (f : MetNv → MetNv) : (State.metNvMod s f).vis = s.vis := metNvMod_only s f .vis (by decide)
@[simp] theorem shadow_metNvMod (s : State) (f : MetNv → MetNv) : (State.metNvMod s f).shadow = s.shadow := metNvMod_only s f .shadow (by decide)
@[simp] theorem tbl_metNvMod (s : State) (f : MetNv → MetNv) : (State.metNvMod s f).tbl = s.tbl := metNvMod_only s f .tbl (by decide)
@[simp] theorem tshadow_metNvMod (s : State) (f : MetNv → MetNv) : (State.metNvMod s f).tshadow = s.tshadow := metNvMod_only s f .tshadow (by decide)
@[simp] theorem frzFrom_metNvMod (s : State) (f : MetNv → MetNv) : (State.metNvMod s f).frzFrom = s.frzFrom := metNvMod_only s f .frzFrom (by decide)
@[simp] theorem commitDue_metNvMod (s : State) (f : MetNv → MetNv) : (State.metNvMod s f).commitDue = s.commitDue := metNvMod_only s f .commitDue (by decide)
@[simp] theorem mbx_metNvMod (s : State) (f : MetNv → MetNv) : (State.metNvMod s f).mbx = s.mbx := metNvMod_only s f .mbx (by decide)
@[simp] theorem host_metNvMod (s : State) (f : MetNv → MetNv) : (State.metNvMod s f).host = s.host := metNvMod_only s f .items (by decide)
@[simp] theorem icu_metNvMod (s : State) (f : MetNv → MetNv) : (State.metNvMod s f).icu = s.icu := metNvMod_only s f .icu (by decide)
@[simp] theorem evr_metNvMod (s : State) (f : MetNv → MetNv) : (State.metNvMod s f).evr = s.evr := metNvMod_only s f .evr (by decide)
@[simp] theorem seq_metNvMod (s : State) (f : MetNv → MetNv) : (State.metNvMod s f).seq = s.seq := metNvMod_only s f .seq (by decide)
@[simp] theorem cpe_metNvMod (s : State) (f : MetNv → MetNv) : (State.metNvMod s f).cpe = s.cpe := metNvMod_only s f .cpe (by decide)
@[simp] theorem time_metNvMod (s : State) (f : MetNv → MetNv) : (State.metNvMod s f).time = s.time := metNvMod_only s f .time (by decide)
@[simp] theorem model_metNvMod (s : State) (f : MetNv → MetNv) : (State.metNvMod s f).model = s.model := metNvMod_only s f .model (by decide)
@[simp] theorem opt_metNvMod (s : State) (f : MetNv → MetNv) : (State.metNvMod s f).opt = s.opt := metNvMod_only s f .opt (by decide)
@[simp] theorem snet_metNvMod (s : State) (f : MetNv → MetNv) : (State.metNvMod s f).snet = s.snet := metNvMod_only s f .snet (by decide)
@[simp] theorem can_metNvMod (s : State) (f : MetNv → MetNv) : (State.metNvMod s f).can = s.can := metNvMod_only s f .can (by decide)
@[simp] theorem dio_metNvMod (s : State) (f : MetNv → MetNv) : (State.metNvMod s f).dio = s.dio := metNvMod_only s f .dio (by decide)
@[simp] theorem adc_metNvMod (s : State) (f : MetNv → MetNv) : (State.metNvMod s f).adc = s.adc := metNvMod_only s f .adc (by decide)
@[simp] theorem lnch_metNvMod (s : State) (f : MetNv → MetNv) : (State.metNvMod s f).lnch = s.lnch := metNvMod_only s f .lnch (by decide)
@[simp] theorem priv_metNvMod (s : State) (f : MetNv → MetNv) : (State.metNvMod s f).priv = s.priv := metNvMod_only s f .priv (by decide)
@[simp] theorem met_metNvMod (s : State) (f : MetNv → MetNv) : (State.metNvMod s f).met = s.met := metNvMod_only s f .met (by decide)
@[simp] theorem pwr_metNvMod (s : State) (f : MetNv → MetNv) : (State.metNvMod s f).pwr = s.pwr := metNvMod_only s f .pwr (by decide)
@[simp] theorem cpeNv_metNvMod (s : State) (f : MetNv → MetNv) : (State.metNvMod s f).cpeNv = s.cpeNv := metNvMod_only s f .cpeNv (by decide)
@[simp] theorem loop_metNvMod (s : State) (f : MetNv → MetNv) : (State.metNvMod s f).loop = s.loop := metNvMod_only s f .loop (by decide)
@[simp] theorem twin_metNvMod (s : State) (f : MetNv → MetNv) : (State.metNvMod s f).twin = s.twin := metNvMod_only s f .twin (by decide)
@[simp] theorem segs_metNvMod (s : State) (f : MetNv → MetNv) : (State.metNvMod s f).segs = s.segs := metNvMod_only s f .segs (by decide)
@[simp] theorem keys_metNvMod (s : State) (f : MetNv → MetNv) : (State.metNvMod s f).keys = s.keys := metNvMod_only s f .keys (by decide)
@[simp] theorem cfg_metNvMod (s : State) (f : MetNv → MetNv) : (State.metNvMod s f).cfg = s.cfg := metNvMod_only s f .cfg (by decide)
@[simp] theorem dev_metNvMod (s : State) (f : MetNv → MetNv) : (State.metNvMod s f).dev = s.dev := metNvMod_only s f .dev (by decide)
@[simp] theorem sent_metNvMod (s : State) (f : MetNv → MetNv) : (State.metNvMod s f).sent = s.sent := metNvMod_only s f .sent (by decide)
@[simp] theorem free_metNvMod (s : State) (f : MetNv → MetNv) : (State.metNvMod s f).free = s.free := metNvMod_only s f .free (by decide)
@[simp] theorem pending_metNvMod (s : State) (f : MetNv → MetNv) : (State.metNvMod s f).pending = s.pending := (metNvMod_keeps (T := [.metNv]) (Keeps.refl _ s) (List.Subset.refl _)).pending
@[simp] theorem rd_metNvMod (s : State) (f : MetNv → MetNv) (x : Nat) : (State.metNvMod s f).rd x = s.rd x := by simp [State.rd]
@[simp] theorem fld_metNvMod (s : State) (f : MetNv → MetNv) (x : Fld) : (State.metNvMod s f).fld x = s.fld x := by simp [State.fld]
@[simp] theorem bit_metNvMod (s : State) (f : MetNv → MetNv) (x : Fld) : (State.metNvMod s f).bit x = s.bit x := by simp [State.bit]
@[simp] theorem trd_metNvMod (s : State) (f : MetNv → MetNv) (x y z : Nat) : (State.metNvMod s f).trd x y z = s.trd x y z := by simp [State.trd]
@[simp] theorem tfld_metNvMod (s : State) (f : MetNv → MetNv) (x y z u w_ : Nat) : (State.metNvMod s f).tfld x y z u w_ = s.tfld x y z u w_ := by simp [State.tfld]

theorem pwrMod_only (s : State) (f : PwrSt → PwrSt) : s.onlyIn (State.pwrMod s f) [.pwr] := (pwrMod_keeps (T := [.pwr]) (Keeps.refl _ s) (List.Subset.refl _)).only
@[simp] theorem regs_pwrMod (s : State) (f : PwrSt → PwrSt) : (State.pwrMod s f).regs = s.regs := pwrMod_only s f .regs (by decide)
@[simp] theorem vis_pwrMod (s : State) (f : PwrSt → PwrSt) : (State.pwrMod s f).vis = s.vis := pwrMod_only s f .vis (by decide)
@[simp] theorem shadow_pwrMod (s : State) (f : PwrSt → PwrSt) : (State.pwrMod s f).shadow = s.shadow := pwrMod_only s f .shadow (by decide)
@[simp] theorem tbl_pwrMod (s : State) (f : PwrSt → PwrSt) : (State.pwrMod s f).tbl = s.tbl := pwrMod_only s f .tbl (by decide)
@[simp] theorem tshadow_pwrMod (s : State) (f : PwrSt → PwrSt) : (State.pwrMod s f).tshadow = s.tshadow := pwrMod_only s f .tshadow (by decide)
@[simp] theorem frzFrom_pwrMod (s : State) (f : PwrSt → PwrSt) : (State.pwrMod s f).frzFrom = s.frzFrom := pwrMod_only s f .frzFrom (by decide)
@[simp] theorem commitDue_pwrMod (s : State) (f : PwrSt → PwrSt) : (State.pwrMod s f).commitDue = s.commitDue := pwrMod_only s f .commitDue (by decide)
@[simp] theorem mbx_pwrMod (s : State) (f : PwrSt → PwrSt) : (State.pwrMod s f).mbx = s.mbx := pwrMod_only s f .mbx (by decide)
@[simp] theorem host_pwrMod (s : State) (f : PwrSt → PwrSt) : (State.pwrMod s f).host = s.host := pwrMod_only s f .items (by decide)
@[simp] theorem icu_pwrMod (s : State) (f : PwrSt → PwrSt) : (State.pwrMod s f).icu = s.icu := pwrMod_only s f .icu (by decide)
@[simp] theorem evr_pwrMod (s : State) (f : PwrSt → PwrSt) : (State.pwrMod s f).evr = s.evr := pwrMod_only s f .evr (by decide)
@[simp] theorem seq_pwrMod (s : State) (f : PwrSt → PwrSt) : (State.pwrMod s f).seq = s.seq := pwrMod_only s f .seq (by decide)
@[simp] theorem cpe_pwrMod (s : State) (f : PwrSt → PwrSt) : (State.pwrMod s f).cpe = s.cpe := pwrMod_only s f .cpe (by decide)
@[simp] theorem time_pwrMod (s : State) (f : PwrSt → PwrSt) : (State.pwrMod s f).time = s.time := pwrMod_only s f .time (by decide)
@[simp] theorem model_pwrMod (s : State) (f : PwrSt → PwrSt) : (State.pwrMod s f).model = s.model := pwrMod_only s f .model (by decide)
@[simp] theorem opt_pwrMod (s : State) (f : PwrSt → PwrSt) : (State.pwrMod s f).opt = s.opt := pwrMod_only s f .opt (by decide)
@[simp] theorem snet_pwrMod (s : State) (f : PwrSt → PwrSt) : (State.pwrMod s f).snet = s.snet := pwrMod_only s f .snet (by decide)
@[simp] theorem can_pwrMod (s : State) (f : PwrSt → PwrSt) : (State.pwrMod s f).can = s.can := pwrMod_only s f .can (by decide)
@[simp] theorem dio_pwrMod (s : State) (f : PwrSt → PwrSt) : (State.pwrMod s f).dio = s.dio := pwrMod_only s f .dio (by decide)
@[simp] theorem adc_pwrMod (s : State) (f : PwrSt → PwrSt) : (State.pwrMod s f).adc = s.adc := pwrMod_only s f .adc (by decide)
@[simp] theorem lnch_pwrMod (s : State) (f : PwrSt → PwrSt) : (State.pwrMod s f).lnch = s.lnch := pwrMod_only s f .lnch (by decide)
@[simp] theorem priv_pwrMod (s : State) (f : PwrSt → PwrSt) : (State.pwrMod s f).priv = s.priv := pwrMod_only s f .priv (by decide)
@[simp] theorem met_pwrMod (s : State) (f : PwrSt → PwrSt) : (State.pwrMod s f).met = s.met := pwrMod_only s f .met (by decide)
@[simp] theorem metNv_pwrMod (s : State) (f : PwrSt → PwrSt) : (State.pwrMod s f).metNv = s.metNv := pwrMod_only s f .metNv (by decide)
@[simp] theorem cpeNv_pwrMod (s : State) (f : PwrSt → PwrSt) : (State.pwrMod s f).cpeNv = s.cpeNv := pwrMod_only s f .cpeNv (by decide)
@[simp] theorem loop_pwrMod (s : State) (f : PwrSt → PwrSt) : (State.pwrMod s f).loop = s.loop := pwrMod_only s f .loop (by decide)
@[simp] theorem twin_pwrMod (s : State) (f : PwrSt → PwrSt) : (State.pwrMod s f).twin = s.twin := pwrMod_only s f .twin (by decide)
@[simp] theorem segs_pwrMod (s : State) (f : PwrSt → PwrSt) : (State.pwrMod s f).segs = s.segs := pwrMod_only s f .segs (by decide)
@[simp] theorem keys_pwrMod (s : State) (f : PwrSt → PwrSt) : (State.pwrMod s f).keys = s.keys := pwrMod_only s f .keys (by decide)
@[simp] theorem cfg_pwrMod (s : State) (f : PwrSt → PwrSt) : (State.pwrMod s f).cfg = s.cfg := pwrMod_only s f .cfg (by decide)
@[simp] theorem dev_pwrMod (s : State) (f : PwrSt → PwrSt) : (State.pwrMod s f).dev = s.dev := pwrMod_only s f .dev (by decide)
@[simp] theorem sent_pwrMod (s : State) (f : PwrSt → PwrSt) : (State.pwrMod s f).sent = s.sent := pwrMod_only s f .sent (by decide)
@[simp] theorem free_pwrMod (s : State) (f : PwrSt → PwrSt) : (State.pwrMod s f).free = s.free := pwrMod_only s f .free (by decide)
@[simp] theorem pending_pwrMod (s : State) (f : PwrSt → PwrSt) : (State.pwrMod s f).pending = s.pending := (pwrMod_keeps (T := [.pwr]) (Keeps.refl _ s) (List.Subset.refl _)).pending
@[simp] theorem rd_pwrMod (s : State) (f : PwrSt → PwrSt) (x : Nat) : (State.pwrMod s f).rd x = s.rd x := by simp [State.rd]
@[simp] theorem fld_pwrMod (s : State) (f : PwrSt → PwrSt) (x : Fld) : (State.pwrMod s f).fld x = s.fld x := by simp [State.fld]
@[simp] theorem bit_pwrMod (s : State) (f : PwrSt → PwrSt) (x : Fld) : (State.pwrMod s f).bit x = s.bit x := by simp [State.bit]
@[simp] theorem trd_pwrMod (s : State) (f : PwrSt → PwrSt) (x y z : Nat) : (State.pwrMod s f).trd x y z = s.trd x y z := by simp [State.trd]
@[simp] theorem tfld_pwrMod (s : State) (f : PwrSt → PwrSt) (x y z u w_ : Nat) : (State.pwrMod s f).tfld x y z u w_ = s.tfld x y z u w_ := by simp [State.tfld]

theorem cpeMod_only (s : State) (p : Nat) (f : CpeSt → CpeSt) : s.onlyIn (State.cpeMod s p f) [.cpe] := (cpeMod_keeps (T := [.cpe]) (Keeps.refl _ s) (List.Subset.refl _)).only
@[simp] theorem regs_cpeMod (s : State) (p : Nat) (f : CpeSt → CpeSt) : (State.cpeMod s p f).regs = s.regs := cpeMod_only s p f .regs (by decide)
@[simp] theorem vis_cpeMod (s : State) (p : Nat) (f : CpeSt → CpeSt) : (State.cpeMod s p f).vis = s.vis := cpeMod_only s p f .vis (by decide)
@[simp] theorem shadow_cpeMod (s : State) (p : Nat) (f : CpeSt → CpeSt) : (State.cpeMod s p f).shadow = s.shadow := cpeMod_only s p f .shadow (by decide)
@[simp] theorem tbl_cpeMod (s : State) (p : Nat) (f : CpeSt → CpeSt) : (State.cpeMod s p f).tbl = s.tbl := cpeMod_only s p f .tbl (by decide)
@[simp] theorem tshadow_cpeMod (s : State) (p : Nat) (f : CpeSt → CpeSt) : (State.cpeMod s p f).tshadow = s.tshadow := cpeMod_only s p f .tshadow (by decide)
@[simp] theorem frzFrom_cpeMod (s : State) (p : Nat) (f : CpeSt → CpeSt) : (State.cpeMod s p f).frzFrom = s.frzFrom := cpeMod_only s p f .frzFrom (by decide)
@[simp] theorem commitDue_cpeMod (s : State) (p : Nat) (f : CpeSt → CpeSt) : (State.cpeMod s p f).commitDue = s.commitDue := cpeMod_only s p f .commitDue (by decide)
@[simp] theorem mbx_cpeMod (s : State) (p : Nat) (f : CpeSt → CpeSt) : (State.cpeMod s p f).mbx = s.mbx := cpeMod_only s p f .mbx (by decide)
@[simp] theorem host_cpeMod (s : State) (p : Nat) (f : CpeSt → CpeSt) : (State.cpeMod s p f).host = s.host := cpeMod_only s p f .items (by decide)
@[simp] theorem icu_cpeMod (s : State) (p : Nat) (f : CpeSt → CpeSt) : (State.cpeMod s p f).icu = s.icu := cpeMod_only s p f .icu (by decide)
@[simp] theorem evr_cpeMod (s : State) (p : Nat) (f : CpeSt → CpeSt) : (State.cpeMod s p f).evr = s.evr := cpeMod_only s p f .evr (by decide)
@[simp] theorem seq_cpeMod (s : State) (p : Nat) (f : CpeSt → CpeSt) : (State.cpeMod s p f).seq = s.seq := cpeMod_only s p f .seq (by decide)
@[simp] theorem time_cpeMod (s : State) (p : Nat) (f : CpeSt → CpeSt) : (State.cpeMod s p f).time = s.time := cpeMod_only s p f .time (by decide)
@[simp] theorem model_cpeMod (s : State) (p : Nat) (f : CpeSt → CpeSt) : (State.cpeMod s p f).model = s.model := cpeMod_only s p f .model (by decide)
@[simp] theorem opt_cpeMod (s : State) (p : Nat) (f : CpeSt → CpeSt) : (State.cpeMod s p f).opt = s.opt := cpeMod_only s p f .opt (by decide)
@[simp] theorem snet_cpeMod (s : State) (p : Nat) (f : CpeSt → CpeSt) : (State.cpeMod s p f).snet = s.snet := cpeMod_only s p f .snet (by decide)
@[simp] theorem can_cpeMod (s : State) (p : Nat) (f : CpeSt → CpeSt) : (State.cpeMod s p f).can = s.can := cpeMod_only s p f .can (by decide)
@[simp] theorem dio_cpeMod (s : State) (p : Nat) (f : CpeSt → CpeSt) : (State.cpeMod s p f).dio = s.dio := cpeMod_only s p f .dio (by decide)
@[simp] theorem adc_cpeMod (s : State) (p : Nat) (f : CpeSt → CpeSt) : (State.cpeMod s p f).adc = s.adc := cpeMod_only s p f .adc (by decide)
@[simp] theorem lnch_cpeMod (s : State) (p : Nat) (f : CpeSt → CpeSt) : (State.cpeMod s p f).lnch = s.lnch := cpeMod_only s p f .lnch (by decide)
@[simp] theorem priv_cpeMod (s : State) (p : Nat) (f : CpeSt → CpeSt) : (State.cpeMod s p f).priv = s.priv := cpeMod_only s p f .priv (by decide)
@[simp] theorem met_cpeMod (s : State) (p : Nat) (f : CpeSt → CpeSt) : (State.cpeMod s p f).met = s.met := cpeMod_only s p f .met (by decide)
@[simp] theorem metNv_cpeMod (s : State) (p : Nat) (f : CpeSt → CpeSt) : (State.cpeMod s p f).metNv = s.metNv := cpeMod_only s p f .metNv (by decide)
@[simp] theorem pwr_cpeMod (s : State) (p : Nat) (f : CpeSt → CpeSt) : (State.cpeMod s p f).pwr = s.pwr := cpeMod_only s p f .pwr (by decide)
@[simp] theorem cpeNv_cpeMod (s : State) (p : Nat) (f : CpeSt → CpeSt) : (State.cpeMod s p f).cpeNv = s.cpeNv := cpeMod_only s p f .cpeNv (by decide)
@[simp] theorem loop_cpeMod (s : State) (p : Nat) (f : CpeSt → CpeSt) : (State.cpeMod s p f).loop = s.loop := cpeMod_only s p f .loop (by decide)
@[simp] theorem twin_cpeMod (s : State) (p : Nat) (f : CpeSt → CpeSt) : (State.cpeMod s p f).twin = s.twin := cpeMod_only s p f .twin (by decide)
@[simp] theorem segs_cpeMod (s : State) (p : Nat) (f : CpeSt → CpeSt) : (State.cpeMod s p f).segs = s.segs := cpeMod_only s p f .segs (by decide)
@[simp] theorem keys_cpeMod (s : State) (p : Nat) (f : CpeSt → CpeSt) : (State.cpeMod s p f).keys = s.keys := cpeMod_only s p f .keys (by decide)
@[simp] theorem cfg_cpeMod (s : State) (p : Nat) (f : CpeSt → CpeSt) : (State.cpeMod s p f).cfg = s.cfg := cpeMod_only s p f .cfg (by decide)
@[simp] theorem dev_cpeMod (s : State) (p : Nat) (f : CpeSt → CpeSt) : (State.cpeMod s p f).dev = s.dev := cpeMod_only s p f .dev (by decide)
@[simp] theorem sent_cpeMod (s : State) (p : Nat) (f : CpeSt → CpeSt) : (State.cpeMod s p f).sent = s.sent := cpeMod_only s p f .sent (by decide)
@[simp] theorem free_cpeMod (s : State) (p : Nat) (f : CpeSt → CpeSt) : (State.cpeMod s p f).free = s.free := cpeMod_only s p f .free (by decide)
@[simp] theorem pending_cpeMod (s : State) (p : Nat) (f : CpeSt → CpeSt) : (State.cpeMod s p f).pending = s.pending := (cpeMod_keeps (T := [.cpe]) (Keeps.refl _ s) (List.Subset.refl _)).pending
@[simp] theorem rd_cpeMod (s : State) (p : Nat) (f : CpeSt → CpeSt) (x : Nat) : (State.cpeMod s p f).rd x = s.rd x := by simp [State.rd]
@[simp] theorem fld_cpeMod (s : State) (p : Nat) (f : CpeSt → CpeSt) (x : Fld) : (State.cpeMod s p f).fld x = s.fld x := by simp [State.fld]
@[simp] theorem bit_cpeMod (s : State) (p : Nat) (f : CpeSt → CpeSt) (x : Fld) : (State.cpeMod s p f).bit x = s.bit x := by simp [State.bit]
@[simp] theorem trd_cpeMod (s : State) (p : Nat) (f : CpeSt → CpeSt) (x y z : Nat) : (State.cpeMod s p f).trd x y z = s.trd x y z := by simp [State.trd]
@[simp] theorem tfld_cpeMod (s : State) (p : Nat) (f : CpeSt → CpeSt) (x y z u w_ : Nat) : (State.cpeMod s p f).tfld x y z u w_ = s.tfld x y z u w_ := by simp [State.tfld]

theorem cpeNvMod_only (s : State) (p : Nat) (f : RetNv → RetNv) : s.onlyIn (State.cpeNvMod s p f) [.cpeNv] := (cpeNvMod_keeps (T := [.cpeNv]) (Keeps.refl _ s) (List.Subset.refl _)).only
@[simp] theorem regs_cpeNvMod (s : State) (p : Nat) (f : RetNv → RetNv) : (State.cpeNvMod s p f).regs = s.regs := cpeNvMod_only s p f .regs (by decide)
@[simp] theorem vis_cpeNvMod (s : State) (p : Nat) (f : RetNv → RetNv) : (State.cpeNvMod s p f).vis = s.vis := cpeNvMod_only s p f .vis (by decide)
@[simp] theorem shadow_cpeNvMod (s : State) (p : Nat) (f : RetNv → RetNv) : (State.cpeNvMod s p f).shadow = s.shadow := cpeNvMod_only s p f .shadow (by decide)
@[simp] theorem tbl_cpeNvMod (s : State) (p : Nat) (f : RetNv → RetNv) : (State.cpeNvMod s p f).tbl = s.tbl := cpeNvMod_only s p f .tbl (by decide)
@[simp] theorem tshadow_cpeNvMod (s : State) (p : Nat) (f : RetNv → RetNv) : (State.cpeNvMod s p f).tshadow = s.tshadow := cpeNvMod_only s p f .tshadow (by decide)
@[simp] theorem frzFrom_cpeNvMod (s : State) (p : Nat) (f : RetNv → RetNv) : (State.cpeNvMod s p f).frzFrom = s.frzFrom := cpeNvMod_only s p f .frzFrom (by decide)
@[simp] theorem commitDue_cpeNvMod (s : State) (p : Nat) (f : RetNv → RetNv) : (State.cpeNvMod s p f).commitDue = s.commitDue := cpeNvMod_only s p f .commitDue (by decide)
@[simp] theorem mbx_cpeNvMod (s : State) (p : Nat) (f : RetNv → RetNv) : (State.cpeNvMod s p f).mbx = s.mbx := cpeNvMod_only s p f .mbx (by decide)
@[simp] theorem host_cpeNvMod (s : State) (p : Nat) (f : RetNv → RetNv) : (State.cpeNvMod s p f).host = s.host := cpeNvMod_only s p f .items (by decide)
@[simp] theorem icu_cpeNvMod (s : State) (p : Nat) (f : RetNv → RetNv) : (State.cpeNvMod s p f).icu = s.icu := cpeNvMod_only s p f .icu (by decide)
@[simp] theorem evr_cpeNvMod (s : State) (p : Nat) (f : RetNv → RetNv) : (State.cpeNvMod s p f).evr = s.evr := cpeNvMod_only s p f .evr (by decide)
@[simp] theorem seq_cpeNvMod (s : State) (p : Nat) (f : RetNv → RetNv) : (State.cpeNvMod s p f).seq = s.seq := cpeNvMod_only s p f .seq (by decide)
@[simp] theorem cpe_cpeNvMod (s : State) (p : Nat) (f : RetNv → RetNv) : (State.cpeNvMod s p f).cpe = s.cpe := cpeNvMod_only s p f .cpe (by decide)
@[simp] theorem time_cpeNvMod (s : State) (p : Nat) (f : RetNv → RetNv) : (State.cpeNvMod s p f).time = s.time := cpeNvMod_only s p f .time (by decide)
@[simp] theorem model_cpeNvMod (s : State) (p : Nat) (f : RetNv → RetNv) : (State.cpeNvMod s p f).model = s.model := cpeNvMod_only s p f .model (by decide)
@[simp] theorem opt_cpeNvMod (s : State) (p : Nat) (f : RetNv → RetNv) : (State.cpeNvMod s p f).opt = s.opt := cpeNvMod_only s p f .opt (by decide)
@[simp] theorem snet_cpeNvMod (s : State) (p : Nat) (f : RetNv → RetNv) : (State.cpeNvMod s p f).snet = s.snet := cpeNvMod_only s p f .snet (by decide)
@[simp] theorem can_cpeNvMod (s : State) (p : Nat) (f : RetNv → RetNv) : (State.cpeNvMod s p f).can = s.can := cpeNvMod_only s p f .can (by decide)
@[simp] theorem dio_cpeNvMod (s : State) (p : Nat) (f : RetNv → RetNv) : (State.cpeNvMod s p f).dio = s.dio := cpeNvMod_only s p f .dio (by decide)
@[simp] theorem adc_cpeNvMod (s : State) (p : Nat) (f : RetNv → RetNv) : (State.cpeNvMod s p f).adc = s.adc := cpeNvMod_only s p f .adc (by decide)
@[simp] theorem lnch_cpeNvMod (s : State) (p : Nat) (f : RetNv → RetNv) : (State.cpeNvMod s p f).lnch = s.lnch := cpeNvMod_only s p f .lnch (by decide)
@[simp] theorem priv_cpeNvMod (s : State) (p : Nat) (f : RetNv → RetNv) : (State.cpeNvMod s p f).priv = s.priv := cpeNvMod_only s p f .priv (by decide)
@[simp] theorem met_cpeNvMod (s : State) (p : Nat) (f : RetNv → RetNv) : (State.cpeNvMod s p f).met = s.met := cpeNvMod_only s p f .met (by decide)
@[simp] theorem metNv_cpeNvMod (s : State) (p : Nat) (f : RetNv → RetNv) : (State.cpeNvMod s p f).metNv = s.metNv := cpeNvMod_only s p f .metNv (by decide)
@[simp] theorem pwr_cpeNvMod (s : State) (p : Nat) (f : RetNv → RetNv) : (State.cpeNvMod s p f).pwr = s.pwr := cpeNvMod_only s p f .pwr (by decide)
@[simp] theorem loop_cpeNvMod (s : State) (p : Nat) (f : RetNv → RetNv) : (State.cpeNvMod s p f).loop = s.loop := cpeNvMod_only s p f .loop (by decide)
@[simp] theorem twin_cpeNvMod (s : State) (p : Nat) (f : RetNv → RetNv) : (State.cpeNvMod s p f).twin = s.twin := cpeNvMod_only s p f .twin (by decide)
@[simp] theorem segs_cpeNvMod (s : State) (p : Nat) (f : RetNv → RetNv) : (State.cpeNvMod s p f).segs = s.segs := cpeNvMod_only s p f .segs (by decide)
@[simp] theorem keys_cpeNvMod (s : State) (p : Nat) (f : RetNv → RetNv) : (State.cpeNvMod s p f).keys = s.keys := cpeNvMod_only s p f .keys (by decide)
@[simp] theorem cfg_cpeNvMod (s : State) (p : Nat) (f : RetNv → RetNv) : (State.cpeNvMod s p f).cfg = s.cfg := cpeNvMod_only s p f .cfg (by decide)
@[simp] theorem dev_cpeNvMod (s : State) (p : Nat) (f : RetNv → RetNv) : (State.cpeNvMod s p f).dev = s.dev := cpeNvMod_only s p f .dev (by decide)
@[simp] theorem sent_cpeNvMod (s : State) (p : Nat) (f : RetNv → RetNv) : (State.cpeNvMod s p f).sent = s.sent := cpeNvMod_only s p f .sent (by decide)
@[simp] theorem free_cpeNvMod (s : State) (p : Nat) (f : RetNv → RetNv) : (State.cpeNvMod s p f).free = s.free := cpeNvMod_only s p f .free (by decide)
@[simp] theorem pending_cpeNvMod (s : State) (p : Nat) (f : RetNv → RetNv) : (State.cpeNvMod s p f).pending = s.pending := (cpeNvMod_keeps (T := [.cpeNv]) (Keeps.refl _ s) (List.Subset.refl _)).pending
@[simp] theorem rd_cpeNvMod (s : State) (p : Nat) (f : RetNv → RetNv) (x : Nat) : (State.cpeNvMod s p f).rd x = s.rd x := by simp [State.rd]
@[simp] theorem fld_cpeNvMod (s : State) (p : Nat) (f : RetNv → RetNv) (x : Fld) : (State.cpeNvMod s p f).fld x = s.fld x := by simp [State.fld]
@[simp] theorem bit_cpeNvMod (s : State) (p : Nat) (f : RetNv → RetNv) (x : Fld) : (State.cpeNvMod s p f).bit x = s.bit x := by simp [State.bit]
@[simp] theorem trd_cpeNvMod (s : State) (p : Nat) (f : RetNv → RetNv) (x y z : Nat) : (State.cpeNvMod s p f).trd x y z = s.trd x y z := by simp [State.trd]
@[simp] theorem tfld_cpeNvMod (s : State) (p : Nat) (f : RetNv → RetNv) (x y z u w_ : Nat) : (State.cpeNvMod s p f).tfld x y z u w_ = s.tfld x y z u w_ := by simp [State.tfld]

theorem loopMod_only (s : State) (f : LoopEng → LoopEng) : s.onlyIn (State.loopMod s f) [.loop] := (loopMod_keeps (T := [.loop]) (Keeps.refl _ s) (List.Subset.refl _)).only
@[simp] theorem regs_loopMod (s : State) (f : LoopEng → LoopEng) : (State.loopMod s f).regs = s.regs := loopMod_only s f .regs (by decide)
@[simp] theorem vis_loopMod (s : State) (f : LoopEng → LoopEng) : (State.loopMod s f).vis = s.vis := loopMod_only s f .vis (by decide)
@[simp] theorem shadow_loopMod (s : State) (f : LoopEng → LoopEng) : (State.loopMod s f).shadow = s.shadow := loopMod_only s f .shadow (by decide)
@[simp] theorem tbl_loopMod (s : State) (f : LoopEng → LoopEng) : (State.loopMod s f).tbl = s.tbl := loopMod_only s f .tbl (by decide)
@[simp] theorem tshadow_loopMod (s : State) (f : LoopEng → LoopEng) : (State.loopMod s f).tshadow = s.tshadow := loopMod_only s f .tshadow (by decide)
@[simp] theorem frzFrom_loopMod (s : State) (f : LoopEng → LoopEng) : (State.loopMod s f).frzFrom = s.frzFrom := loopMod_only s f .frzFrom (by decide)
@[simp] theorem commitDue_loopMod (s : State) (f : LoopEng → LoopEng) : (State.loopMod s f).commitDue = s.commitDue := loopMod_only s f .commitDue (by decide)
@[simp] theorem mbx_loopMod (s : State) (f : LoopEng → LoopEng) : (State.loopMod s f).mbx = s.mbx := loopMod_only s f .mbx (by decide)
@[simp] theorem host_loopMod (s : State) (f : LoopEng → LoopEng) : (State.loopMod s f).host = s.host := loopMod_only s f .items (by decide)
@[simp] theorem icu_loopMod (s : State) (f : LoopEng → LoopEng) : (State.loopMod s f).icu = s.icu := loopMod_only s f .icu (by decide)
@[simp] theorem evr_loopMod (s : State) (f : LoopEng → LoopEng) : (State.loopMod s f).evr = s.evr := loopMod_only s f .evr (by decide)
@[simp] theorem seq_loopMod (s : State) (f : LoopEng → LoopEng) : (State.loopMod s f).seq = s.seq := loopMod_only s f .seq (by decide)
@[simp] theorem cpe_loopMod (s : State) (f : LoopEng → LoopEng) : (State.loopMod s f).cpe = s.cpe := loopMod_only s f .cpe (by decide)
@[simp] theorem time_loopMod (s : State) (f : LoopEng → LoopEng) : (State.loopMod s f).time = s.time := loopMod_only s f .time (by decide)
@[simp] theorem model_loopMod (s : State) (f : LoopEng → LoopEng) : (State.loopMod s f).model = s.model := loopMod_only s f .model (by decide)
@[simp] theorem opt_loopMod (s : State) (f : LoopEng → LoopEng) : (State.loopMod s f).opt = s.opt := loopMod_only s f .opt (by decide)
@[simp] theorem snet_loopMod (s : State) (f : LoopEng → LoopEng) : (State.loopMod s f).snet = s.snet := loopMod_only s f .snet (by decide)
@[simp] theorem can_loopMod (s : State) (f : LoopEng → LoopEng) : (State.loopMod s f).can = s.can := loopMod_only s f .can (by decide)
@[simp] theorem dio_loopMod (s : State) (f : LoopEng → LoopEng) : (State.loopMod s f).dio = s.dio := loopMod_only s f .dio (by decide)
@[simp] theorem adc_loopMod (s : State) (f : LoopEng → LoopEng) : (State.loopMod s f).adc = s.adc := loopMod_only s f .adc (by decide)
@[simp] theorem lnch_loopMod (s : State) (f : LoopEng → LoopEng) : (State.loopMod s f).lnch = s.lnch := loopMod_only s f .lnch (by decide)
@[simp] theorem priv_loopMod (s : State) (f : LoopEng → LoopEng) : (State.loopMod s f).priv = s.priv := loopMod_only s f .priv (by decide)
@[simp] theorem met_loopMod (s : State) (f : LoopEng → LoopEng) : (State.loopMod s f).met = s.met := loopMod_only s f .met (by decide)
@[simp] theorem metNv_loopMod (s : State) (f : LoopEng → LoopEng) : (State.loopMod s f).metNv = s.metNv := loopMod_only s f .metNv (by decide)
@[simp] theorem pwr_loopMod (s : State) (f : LoopEng → LoopEng) : (State.loopMod s f).pwr = s.pwr := loopMod_only s f .pwr (by decide)
@[simp] theorem cpeNv_loopMod (s : State) (f : LoopEng → LoopEng) : (State.loopMod s f).cpeNv = s.cpeNv := loopMod_only s f .cpeNv (by decide)
@[simp] theorem twin_loopMod (s : State) (f : LoopEng → LoopEng) : (State.loopMod s f).twin = s.twin := loopMod_only s f .twin (by decide)
@[simp] theorem segs_loopMod (s : State) (f : LoopEng → LoopEng) : (State.loopMod s f).segs = s.segs := loopMod_only s f .segs (by decide)
@[simp] theorem keys_loopMod (s : State) (f : LoopEng → LoopEng) : (State.loopMod s f).keys = s.keys := loopMod_only s f .keys (by decide)
@[simp] theorem cfg_loopMod (s : State) (f : LoopEng → LoopEng) : (State.loopMod s f).cfg = s.cfg := loopMod_only s f .cfg (by decide)
@[simp] theorem dev_loopMod (s : State) (f : LoopEng → LoopEng) : (State.loopMod s f).dev = s.dev := loopMod_only s f .dev (by decide)
@[simp] theorem sent_loopMod (s : State) (f : LoopEng → LoopEng) : (State.loopMod s f).sent = s.sent := loopMod_only s f .sent (by decide)
@[simp] theorem free_loopMod (s : State) (f : LoopEng → LoopEng) : (State.loopMod s f).free = s.free := loopMod_only s f .free (by decide)
@[simp] theorem pending_loopMod (s : State) (f : LoopEng → LoopEng) : (State.loopMod s f).pending = s.pending := (loopMod_keeps (T := [.loop]) (Keeps.refl _ s) (List.Subset.refl _)).pending
@[simp] theorem rd_loopMod (s : State) (f : LoopEng → LoopEng) (x : Nat) : (State.loopMod s f).rd x = s.rd x := by simp [State.rd]
@[simp] theorem fld_loopMod (s : State) (f : LoopEng → LoopEng) (x : Fld) : (State.loopMod s f).fld x = s.fld x := by simp [State.fld]
@[simp] theorem bit_loopMod (s : State) (f : LoopEng → LoopEng) (x : Fld) : (State.loopMod s f).bit x = s.bit x := by simp [State.bit]
@[simp] theorem trd_loopMod (s : State) (f : LoopEng → LoopEng) (x y z : Nat) : (State.loopMod s f).trd x y z = s.trd x y z := by simp [State.trd]
@[simp] theorem tfld_loopMod (s : State) (f : LoopEng → LoopEng) (x y z u w_ : Nat) : (State.loopMod s f).tfld x y z u w_ = s.tfld x y z u w_ := by simp [State.tfld]

theorem keysMod_only (s : State) (f : KeySt → KeySt) : s.onlyIn (State.keysMod s f) [.keys] := (keysMod_keeps (T := [.keys]) (Keeps.refl _ s) (List.Subset.refl _)).only
@[simp] theorem regs_keysMod (s : State) (f : KeySt → KeySt) : (State.keysMod s f).regs = s.regs := keysMod_only s f .regs (by decide)
@[simp] theorem vis_keysMod (s : State) (f : KeySt → KeySt) : (State.keysMod s f).vis = s.vis := keysMod_only s f .vis (by decide)
@[simp] theorem shadow_keysMod (s : State) (f : KeySt → KeySt) : (State.keysMod s f).shadow = s.shadow := keysMod_only s f .shadow (by decide)
@[simp] theorem tbl_keysMod (s : State) (f : KeySt → KeySt) : (State.keysMod s f).tbl = s.tbl := keysMod_only s f .tbl (by decide)
@[simp] theorem tshadow_keysMod (s : State) (f : KeySt → KeySt) : (State.keysMod s f).tshadow = s.tshadow := keysMod_only s f .tshadow (by decide)
@[simp] theorem frzFrom_keysMod (s : State) (f : KeySt → KeySt) : (State.keysMod s f).frzFrom = s.frzFrom := keysMod_only s f .frzFrom (by decide)
@[simp] theorem commitDue_keysMod (s : State) (f : KeySt → KeySt) : (State.keysMod s f).commitDue = s.commitDue := keysMod_only s f .commitDue (by decide)
@[simp] theorem mbx_keysMod (s : State) (f : KeySt → KeySt) : (State.keysMod s f).mbx = s.mbx := keysMod_only s f .mbx (by decide)
@[simp] theorem host_keysMod (s : State) (f : KeySt → KeySt) : (State.keysMod s f).host = s.host := keysMod_only s f .items (by decide)
@[simp] theorem icu_keysMod (s : State) (f : KeySt → KeySt) : (State.keysMod s f).icu = s.icu := keysMod_only s f .icu (by decide)
@[simp] theorem evr_keysMod (s : State) (f : KeySt → KeySt) : (State.keysMod s f).evr = s.evr := keysMod_only s f .evr (by decide)
@[simp] theorem seq_keysMod (s : State) (f : KeySt → KeySt) : (State.keysMod s f).seq = s.seq := keysMod_only s f .seq (by decide)
@[simp] theorem cpe_keysMod (s : State) (f : KeySt → KeySt) : (State.keysMod s f).cpe = s.cpe := keysMod_only s f .cpe (by decide)
@[simp] theorem time_keysMod (s : State) (f : KeySt → KeySt) : (State.keysMod s f).time = s.time := keysMod_only s f .time (by decide)
@[simp] theorem model_keysMod (s : State) (f : KeySt → KeySt) : (State.keysMod s f).model = s.model := keysMod_only s f .model (by decide)
@[simp] theorem opt_keysMod (s : State) (f : KeySt → KeySt) : (State.keysMod s f).opt = s.opt := keysMod_only s f .opt (by decide)
@[simp] theorem snet_keysMod (s : State) (f : KeySt → KeySt) : (State.keysMod s f).snet = s.snet := keysMod_only s f .snet (by decide)
@[simp] theorem can_keysMod (s : State) (f : KeySt → KeySt) : (State.keysMod s f).can = s.can := keysMod_only s f .can (by decide)
@[simp] theorem dio_keysMod (s : State) (f : KeySt → KeySt) : (State.keysMod s f).dio = s.dio := keysMod_only s f .dio (by decide)
@[simp] theorem adc_keysMod (s : State) (f : KeySt → KeySt) : (State.keysMod s f).adc = s.adc := keysMod_only s f .adc (by decide)
@[simp] theorem lnch_keysMod (s : State) (f : KeySt → KeySt) : (State.keysMod s f).lnch = s.lnch := keysMod_only s f .lnch (by decide)
@[simp] theorem priv_keysMod (s : State) (f : KeySt → KeySt) : (State.keysMod s f).priv = s.priv := keysMod_only s f .priv (by decide)
@[simp] theorem met_keysMod (s : State) (f : KeySt → KeySt) : (State.keysMod s f).met = s.met := keysMod_only s f .met (by decide)
@[simp] theorem metNv_keysMod (s : State) (f : KeySt → KeySt) : (State.keysMod s f).metNv = s.metNv := keysMod_only s f .metNv (by decide)
@[simp] theorem pwr_keysMod (s : State) (f : KeySt → KeySt) : (State.keysMod s f).pwr = s.pwr := keysMod_only s f .pwr (by decide)
@[simp] theorem cpeNv_keysMod (s : State) (f : KeySt → KeySt) : (State.keysMod s f).cpeNv = s.cpeNv := keysMod_only s f .cpeNv (by decide)
@[simp] theorem loop_keysMod (s : State) (f : KeySt → KeySt) : (State.keysMod s f).loop = s.loop := keysMod_only s f .loop (by decide)
@[simp] theorem twin_keysMod (s : State) (f : KeySt → KeySt) : (State.keysMod s f).twin = s.twin := keysMod_only s f .twin (by decide)
@[simp] theorem segs_keysMod (s : State) (f : KeySt → KeySt) : (State.keysMod s f).segs = s.segs := keysMod_only s f .segs (by decide)
@[simp] theorem cfg_keysMod (s : State) (f : KeySt → KeySt) : (State.keysMod s f).cfg = s.cfg := keysMod_only s f .cfg (by decide)
@[simp] theorem dev_keysMod (s : State) (f : KeySt → KeySt) : (State.keysMod s f).dev = s.dev := keysMod_only s f .dev (by decide)
@[simp] theorem sent_keysMod (s : State) (f : KeySt → KeySt) : (State.keysMod s f).sent = s.sent := keysMod_only s f .sent (by decide)
@[simp] theorem free_keysMod (s : State) (f : KeySt → KeySt) : (State.keysMod s f).free = s.free := keysMod_only s f .free (by decide)
@[simp] theorem pending_keysMod (s : State) (f : KeySt → KeySt) : (State.keysMod s f).pending = s.pending := (keysMod_keeps (T := [.keys]) (Keeps.refl _ s) (List.Subset.refl _)).pending
@[simp] theorem rd_keysMod (s : State) (f : KeySt → KeySt) (x : Nat) : (State.keysMod s f).rd x = s.rd x := by simp [State.rd]
@[simp] theorem fld_keysMod (s : State) (f : KeySt → KeySt) (x : Fld) : (State.keysMod s f).fld x = s.fld x := by simp [State.fld]
@[simp] theorem bit_keysMod (s : State) (f : KeySt → KeySt) (x : Fld) : (State.keysMod s f).bit x = s.bit x := by simp [State.bit]
@[simp] theorem trd_keysMod (s : State) (f : KeySt → KeySt) (x y z : Nat) : (State.keysMod s f).trd x y z = s.trd x y z := by simp [State.trd]
@[simp] theorem tfld_keysMod (s : State) (f : KeySt → KeySt) (x y z u w_ : Nat) : (State.keysMod s f).tfld x y z u w_ = s.tfld x y z u w_ := by simp [State.tfld]

theorem modelMod_only (s : State) (f : ModelSt → ModelSt) : s.onlyIn (State.modelMod s f) [.model] := (modelMod_keeps (T := [.model]) (Keeps.refl _ s) (List.Subset.refl _)).only
@[simp] theorem regs_modelMod (s : State) (f : ModelSt → ModelSt) : (State.modelMod s f).regs = s.regs := modelMod_only s f .regs (by decide)
@[simp] theorem vis_modelMod (s : State) (f : ModelSt → ModelSt) : (State.modelMod s f).vis = s.vis := modelMod_only s f .vis (by decide)
@[simp] theorem shadow_modelMod (s : State) (f : ModelSt → ModelSt) : (State.modelMod s f).shadow = s.shadow := modelMod_only s f .shadow (by decide)
@[simp] theorem tbl_modelMod (s : State) (f : ModelSt → ModelSt) : (State.modelMod s f).tbl = s.tbl := modelMod_only s f .tbl (by decide)
@[simp] theorem tshadow_modelMod (s : State) (f : ModelSt → ModelSt) : (State.modelMod s f).tshadow = s.tshadow := modelMod_only s f .tshadow (by decide)
@[simp] theorem frzFrom_modelMod (s : State) (f : ModelSt → ModelSt) : (State.modelMod s f).frzFrom = s.frzFrom := modelMod_only s f .frzFrom (by decide)
@[simp] theorem commitDue_modelMod (s : State) (f : ModelSt → ModelSt) : (State.modelMod s f).commitDue = s.commitDue := modelMod_only s f .commitDue (by decide)
@[simp] theorem mbx_modelMod (s : State) (f : ModelSt → ModelSt) : (State.modelMod s f).mbx = s.mbx := modelMod_only s f .mbx (by decide)
@[simp] theorem host_modelMod (s : State) (f : ModelSt → ModelSt) : (State.modelMod s f).host = s.host := modelMod_only s f .items (by decide)
@[simp] theorem icu_modelMod (s : State) (f : ModelSt → ModelSt) : (State.modelMod s f).icu = s.icu := modelMod_only s f .icu (by decide)
@[simp] theorem evr_modelMod (s : State) (f : ModelSt → ModelSt) : (State.modelMod s f).evr = s.evr := modelMod_only s f .evr (by decide)
@[simp] theorem seq_modelMod (s : State) (f : ModelSt → ModelSt) : (State.modelMod s f).seq = s.seq := modelMod_only s f .seq (by decide)
@[simp] theorem cpe_modelMod (s : State) (f : ModelSt → ModelSt) : (State.modelMod s f).cpe = s.cpe := modelMod_only s f .cpe (by decide)
@[simp] theorem time_modelMod (s : State) (f : ModelSt → ModelSt) : (State.modelMod s f).time = s.time := modelMod_only s f .time (by decide)
@[simp] theorem opt_modelMod (s : State) (f : ModelSt → ModelSt) : (State.modelMod s f).opt = s.opt := modelMod_only s f .opt (by decide)
@[simp] theorem snet_modelMod (s : State) (f : ModelSt → ModelSt) : (State.modelMod s f).snet = s.snet := modelMod_only s f .snet (by decide)
@[simp] theorem can_modelMod (s : State) (f : ModelSt → ModelSt) : (State.modelMod s f).can = s.can := modelMod_only s f .can (by decide)
@[simp] theorem dio_modelMod (s : State) (f : ModelSt → ModelSt) : (State.modelMod s f).dio = s.dio := modelMod_only s f .dio (by decide)
@[simp] theorem adc_modelMod (s : State) (f : ModelSt → ModelSt) : (State.modelMod s f).adc = s.adc := modelMod_only s f .adc (by decide)
@[simp] theorem lnch_modelMod (s : State) (f : ModelSt → ModelSt) : (State.modelMod s f).lnch = s.lnch := modelMod_only s f .lnch (by decide)
@[simp] theorem priv_modelMod (s : State) (f : ModelSt → ModelSt) : (State.modelMod s f).priv = s.priv := modelMod_only s f .priv (by decide)
@[simp] theorem met_modelMod (s : State) (f : ModelSt → ModelSt) : (State.modelMod s f).met = s.met := modelMod_only s f .met (by decide)
@[simp] theorem metNv_modelMod (s : State) (f : ModelSt → ModelSt) : (State.modelMod s f).metNv = s.metNv := modelMod_only s f .metNv (by decide)
@[simp] theorem pwr_modelMod (s : State) (f : ModelSt → ModelSt) : (State.modelMod s f).pwr = s.pwr := modelMod_only s f .pwr (by decide)
@[simp] theorem cpeNv_modelMod (s : State) (f : ModelSt → ModelSt) : (State.modelMod s f).cpeNv = s.cpeNv := modelMod_only s f .cpeNv (by decide)
@[simp] theorem loop_modelMod (s : State) (f : ModelSt → ModelSt) : (State.modelMod s f).loop = s.loop := modelMod_only s f .loop (by decide)
@[simp] theorem twin_modelMod (s : State) (f : ModelSt → ModelSt) : (State.modelMod s f).twin = s.twin := modelMod_only s f .twin (by decide)
@[simp] theorem segs_modelMod (s : State) (f : ModelSt → ModelSt) : (State.modelMod s f).segs = s.segs := modelMod_only s f .segs (by decide)
@[simp] theorem keys_modelMod (s : State) (f : ModelSt → ModelSt) : (State.modelMod s f).keys = s.keys := modelMod_only s f .keys (by decide)
@[simp] theorem cfg_modelMod (s : State) (f : ModelSt → ModelSt) : (State.modelMod s f).cfg = s.cfg := modelMod_only s f .cfg (by decide)
@[simp] theorem dev_modelMod (s : State) (f : ModelSt → ModelSt) : (State.modelMod s f).dev = s.dev := modelMod_only s f .dev (by decide)
@[simp] theorem sent_modelMod (s : State) (f : ModelSt → ModelSt) : (State.modelMod s f).sent = s.sent := modelMod_only s f .sent (by decide)
@[simp] theorem free_modelMod (s : State) (f : ModelSt → ModelSt) : (State.modelMod s f).free = s.free := modelMod_only s f .free (by decide)
@[simp] theorem pending_modelMod (s : State) (f : ModelSt → ModelSt) : (State.modelMod s f).pending = s.pending := (modelMod_keeps (T := [.model]) (Keeps.refl _ s) (List.Subset.refl _)).pending
@[simp] theorem rd_modelMod (s : State) (f : ModelSt → ModelSt) (x : Nat) : (State.modelMod s f).rd x = s.rd x := by simp [State.rd]
@[simp] theorem fld_modelMod (s : State) (f : ModelSt → ModelSt) (x : Fld) : (State.modelMod s f).fld x = s.fld x := by simp [State.fld]
@[simp] theorem bit_modelMod (s : State) (f : ModelSt → ModelSt) (x : Fld) : (State.modelMod s f).bit x = s.bit x := by simp [State.bit]
@[simp] theorem trd_modelMod (s : State) (f : ModelSt → ModelSt) (x y z : Nat) : (State.modelMod s f).trd x y z = s.trd x y z := by simp [State.trd]
@[simp] theorem tfld_modelMod (s : State) (f : ModelSt → ModelSt) (x y z u w_ : Nat) : (State.modelMod s f).tfld x y z u w_ = s.tfld x y z u w_ := by simp [State.tfld]

theorem optMod_only (s : State) (f : OptSt → OptSt) : s.onlyIn (State.optMod s f) [.opt] := (optMod_keeps (T := [.opt]) (Keeps.refl _ s) (List.Subset.refl _)).only
@[simp] theorem regs_optMod (s : State) (f : OptSt → OptSt) : (State.optMod s f).regs = s.regs := optMod_only s f .regs (by decide)
@[simp] theorem vis_optMod (s : State) (f : OptSt → OptSt) : (State.optMod s f).vis = s.vis := optMod_only s f .vis (by decide)
@[simp] theorem shadow_optMod (s : State) (f : OptSt → OptSt) : (State.optMod s f).shadow = s.shadow := optMod_only s f .shadow (by decide)
@[simp] theorem tbl_optMod (s : State) (f : OptSt → OptSt) : (State.optMod s f).tbl = s.tbl := optMod_only s f .tbl (by decide)
@[simp] theorem tshadow_optMod (s : State) (f : OptSt → OptSt) : (State.optMod s f).tshadow = s.tshadow := optMod_only s f .tshadow (by decide)
@[simp] theorem frzFrom_optMod (s : State) (f : OptSt → OptSt) : (State.optMod s f).frzFrom = s.frzFrom := optMod_only s f .frzFrom (by decide)
@[simp] theorem commitDue_optMod (s : State) (f : OptSt → OptSt) : (State.optMod s f).commitDue = s.commitDue := optMod_only s f .commitDue (by decide)
@[simp] theorem mbx_optMod (s : State) (f : OptSt → OptSt) : (State.optMod s f).mbx = s.mbx := optMod_only s f .mbx (by decide)
@[simp] theorem host_optMod (s : State) (f : OptSt → OptSt) : (State.optMod s f).host = s.host := optMod_only s f .items (by decide)
@[simp] theorem icu_optMod (s : State) (f : OptSt → OptSt) : (State.optMod s f).icu = s.icu := optMod_only s f .icu (by decide)
@[simp] theorem evr_optMod (s : State) (f : OptSt → OptSt) : (State.optMod s f).evr = s.evr := optMod_only s f .evr (by decide)
@[simp] theorem seq_optMod (s : State) (f : OptSt → OptSt) : (State.optMod s f).seq = s.seq := optMod_only s f .seq (by decide)
@[simp] theorem cpe_optMod (s : State) (f : OptSt → OptSt) : (State.optMod s f).cpe = s.cpe := optMod_only s f .cpe (by decide)
@[simp] theorem time_optMod (s : State) (f : OptSt → OptSt) : (State.optMod s f).time = s.time := optMod_only s f .time (by decide)
@[simp] theorem model_optMod (s : State) (f : OptSt → OptSt) : (State.optMod s f).model = s.model := optMod_only s f .model (by decide)
@[simp] theorem snet_optMod (s : State) (f : OptSt → OptSt) : (State.optMod s f).snet = s.snet := optMod_only s f .snet (by decide)
@[simp] theorem can_optMod (s : State) (f : OptSt → OptSt) : (State.optMod s f).can = s.can := optMod_only s f .can (by decide)
@[simp] theorem dio_optMod (s : State) (f : OptSt → OptSt) : (State.optMod s f).dio = s.dio := optMod_only s f .dio (by decide)
@[simp] theorem adc_optMod (s : State) (f : OptSt → OptSt) : (State.optMod s f).adc = s.adc := optMod_only s f .adc (by decide)
@[simp] theorem lnch_optMod (s : State) (f : OptSt → OptSt) : (State.optMod s f).lnch = s.lnch := optMod_only s f .lnch (by decide)
@[simp] theorem priv_optMod (s : State) (f : OptSt → OptSt) : (State.optMod s f).priv = s.priv := optMod_only s f .priv (by decide)
@[simp] theorem met_optMod (s : State) (f : OptSt → OptSt) : (State.optMod s f).met = s.met := optMod_only s f .met (by decide)
@[simp] theorem metNv_optMod (s : State) (f : OptSt → OptSt) : (State.optMod s f).metNv = s.metNv := optMod_only s f .metNv (by decide)
@[simp] theorem pwr_optMod (s : State) (f : OptSt → OptSt) : (State.optMod s f).pwr = s.pwr := optMod_only s f .pwr (by decide)
@[simp] theorem cpeNv_optMod (s : State) (f : OptSt → OptSt) : (State.optMod s f).cpeNv = s.cpeNv := optMod_only s f .cpeNv (by decide)
@[simp] theorem loop_optMod (s : State) (f : OptSt → OptSt) : (State.optMod s f).loop = s.loop := optMod_only s f .loop (by decide)
@[simp] theorem twin_optMod (s : State) (f : OptSt → OptSt) : (State.optMod s f).twin = s.twin := optMod_only s f .twin (by decide)
@[simp] theorem segs_optMod (s : State) (f : OptSt → OptSt) : (State.optMod s f).segs = s.segs := optMod_only s f .segs (by decide)
@[simp] theorem keys_optMod (s : State) (f : OptSt → OptSt) : (State.optMod s f).keys = s.keys := optMod_only s f .keys (by decide)
@[simp] theorem cfg_optMod (s : State) (f : OptSt → OptSt) : (State.optMod s f).cfg = s.cfg := optMod_only s f .cfg (by decide)
@[simp] theorem dev_optMod (s : State) (f : OptSt → OptSt) : (State.optMod s f).dev = s.dev := optMod_only s f .dev (by decide)
@[simp] theorem sent_optMod (s : State) (f : OptSt → OptSt) : (State.optMod s f).sent = s.sent := optMod_only s f .sent (by decide)
@[simp] theorem free_optMod (s : State) (f : OptSt → OptSt) : (State.optMod s f).free = s.free := optMod_only s f .free (by decide)
@[simp] theorem pending_optMod (s : State) (f : OptSt → OptSt) : (State.optMod s f).pending = s.pending := (optMod_keeps (T := [.opt]) (Keeps.refl _ s) (List.Subset.refl _)).pending
@[simp] theorem rd_optMod (s : State) (f : OptSt → OptSt) (x : Nat) : (State.optMod s f).rd x = s.rd x := by simp [State.rd]
@[simp] theorem fld_optMod (s : State) (f : OptSt → OptSt) (x : Fld) : (State.optMod s f).fld x = s.fld x := by simp [State.fld]
@[simp] theorem bit_optMod (s : State) (f : OptSt → OptSt) (x : Fld) : (State.optMod s f).bit x = s.bit x := by simp [State.bit]
@[simp] theorem trd_optMod (s : State) (f : OptSt → OptSt) (x y z : Nat) : (State.optMod s f).trd x y z = s.trd x y z := by simp [State.trd]
@[simp] theorem tfld_optMod (s : State) (f : OptSt → OptSt) (x y z u w_ : Nat) : (State.optMod s f).tfld x y z u w_ = s.tfld x y z u w_ := by simp [State.tfld]

theorem nodeMod_only (s : State) (n : Nat) (f : NodeSt → NodeSt) : s.onlyIn (State.nodeMod s n f) [.snet] := (nodeMod_keeps (T := [.snet]) (Keeps.refl _ s) (List.Subset.refl _)).only
@[simp] theorem regs_nodeMod (s : State) (n : Nat) (f : NodeSt → NodeSt) : (State.nodeMod s n f).regs = s.regs := nodeMod_only s n f .regs (by decide)
@[simp] theorem vis_nodeMod (s : State) (n : Nat) (f : NodeSt → NodeSt) : (State.nodeMod s n f).vis = s.vis := nodeMod_only s n f .vis (by decide)
@[simp] theorem shadow_nodeMod (s : State) (n : Nat) (f : NodeSt → NodeSt) : (State.nodeMod s n f).shadow = s.shadow := nodeMod_only s n f .shadow (by decide)
@[simp] theorem tbl_nodeMod (s : State) (n : Nat) (f : NodeSt → NodeSt) : (State.nodeMod s n f).tbl = s.tbl := nodeMod_only s n f .tbl (by decide)
@[simp] theorem tshadow_nodeMod (s : State) (n : Nat) (f : NodeSt → NodeSt) : (State.nodeMod s n f).tshadow = s.tshadow := nodeMod_only s n f .tshadow (by decide)
@[simp] theorem frzFrom_nodeMod (s : State) (n : Nat) (f : NodeSt → NodeSt) : (State.nodeMod s n f).frzFrom = s.frzFrom := nodeMod_only s n f .frzFrom (by decide)
@[simp] theorem commitDue_nodeMod (s : State) (n : Nat) (f : NodeSt → NodeSt) : (State.nodeMod s n f).commitDue = s.commitDue := nodeMod_only s n f .commitDue (by decide)
@[simp] theorem mbx_nodeMod (s : State) (n : Nat) (f : NodeSt → NodeSt) : (State.nodeMod s n f).mbx = s.mbx := nodeMod_only s n f .mbx (by decide)
@[simp] theorem host_nodeMod (s : State) (n : Nat) (f : NodeSt → NodeSt) : (State.nodeMod s n f).host = s.host := nodeMod_only s n f .items (by decide)
@[simp] theorem icu_nodeMod (s : State) (n : Nat) (f : NodeSt → NodeSt) : (State.nodeMod s n f).icu = s.icu := nodeMod_only s n f .icu (by decide)
@[simp] theorem evr_nodeMod (s : State) (n : Nat) (f : NodeSt → NodeSt) : (State.nodeMod s n f).evr = s.evr := nodeMod_only s n f .evr (by decide)
@[simp] theorem seq_nodeMod (s : State) (n : Nat) (f : NodeSt → NodeSt) : (State.nodeMod s n f).seq = s.seq := nodeMod_only s n f .seq (by decide)
@[simp] theorem cpe_nodeMod (s : State) (n : Nat) (f : NodeSt → NodeSt) : (State.nodeMod s n f).cpe = s.cpe := nodeMod_only s n f .cpe (by decide)
@[simp] theorem time_nodeMod (s : State) (n : Nat) (f : NodeSt → NodeSt) : (State.nodeMod s n f).time = s.time := nodeMod_only s n f .time (by decide)
@[simp] theorem model_nodeMod (s : State) (n : Nat) (f : NodeSt → NodeSt) : (State.nodeMod s n f).model = s.model := nodeMod_only s n f .model (by decide)
@[simp] theorem opt_nodeMod (s : State) (n : Nat) (f : NodeSt → NodeSt) : (State.nodeMod s n f).opt = s.opt := nodeMod_only s n f .opt (by decide)
@[simp] theorem can_nodeMod (s : State) (n : Nat) (f : NodeSt → NodeSt) : (State.nodeMod s n f).can = s.can := nodeMod_only s n f .can (by decide)
@[simp] theorem dio_nodeMod (s : State) (n : Nat) (f : NodeSt → NodeSt) : (State.nodeMod s n f).dio = s.dio := nodeMod_only s n f .dio (by decide)
@[simp] theorem adc_nodeMod (s : State) (n : Nat) (f : NodeSt → NodeSt) : (State.nodeMod s n f).adc = s.adc := nodeMod_only s n f .adc (by decide)
@[simp] theorem lnch_nodeMod (s : State) (n : Nat) (f : NodeSt → NodeSt) : (State.nodeMod s n f).lnch = s.lnch := nodeMod_only s n f .lnch (by decide)
@[simp] theorem priv_nodeMod (s : State) (n : Nat) (f : NodeSt → NodeSt) : (State.nodeMod s n f).priv = s.priv := nodeMod_only s n f .priv (by decide)
@[simp] theorem met_nodeMod (s : State) (n : Nat) (f : NodeSt → NodeSt) : (State.nodeMod s n f).met = s.met := nodeMod_only s n f .met (by decide)
@[simp] theorem metNv_nodeMod (s : State) (n : Nat) (f : NodeSt → NodeSt) : (State.nodeMod s n f).metNv = s.metNv := nodeMod_only s n f .metNv (by decide)
@[simp] theorem pwr_nodeMod (s : State) (n : Nat) (f : NodeSt → NodeSt) : (State.nodeMod s n f).pwr = s.pwr := nodeMod_only s n f .pwr (by decide)
@[simp] theorem cpeNv_nodeMod (s : State) (n : Nat) (f : NodeSt → NodeSt) : (State.nodeMod s n f).cpeNv = s.cpeNv := nodeMod_only s n f .cpeNv (by decide)
@[simp] theorem loop_nodeMod (s : State) (n : Nat) (f : NodeSt → NodeSt) : (State.nodeMod s n f).loop = s.loop := nodeMod_only s n f .loop (by decide)
@[simp] theorem twin_nodeMod (s : State) (n : Nat) (f : NodeSt → NodeSt) : (State.nodeMod s n f).twin = s.twin := nodeMod_only s n f .twin (by decide)
@[simp] theorem segs_nodeMod (s : State) (n : Nat) (f : NodeSt → NodeSt) : (State.nodeMod s n f).segs = s.segs := nodeMod_only s n f .segs (by decide)
@[simp] theorem keys_nodeMod (s : State) (n : Nat) (f : NodeSt → NodeSt) : (State.nodeMod s n f).keys = s.keys := nodeMod_only s n f .keys (by decide)
@[simp] theorem cfg_nodeMod (s : State) (n : Nat) (f : NodeSt → NodeSt) : (State.nodeMod s n f).cfg = s.cfg := nodeMod_only s n f .cfg (by decide)
@[simp] theorem dev_nodeMod (s : State) (n : Nat) (f : NodeSt → NodeSt) : (State.nodeMod s n f).dev = s.dev := nodeMod_only s n f .dev (by decide)
@[simp] theorem sent_nodeMod (s : State) (n : Nat) (f : NodeSt → NodeSt) : (State.nodeMod s n f).sent = s.sent := nodeMod_only s n f .sent (by decide)
@[simp] theorem free_nodeMod (s : State) (n : Nat) (f : NodeSt → NodeSt) : (State.nodeMod s n f).free = s.free := nodeMod_only s n f .free (by decide)
@[simp] theorem pending_nodeMod (s : State) (n : Nat) (f : NodeSt → NodeSt) : (State.nodeMod s n f).pending = s.pending := (nodeMod_keeps (T := [.snet]) (Keeps.refl _ s) (List.Subset.refl _)).pending
@[simp] theorem rd_nodeMod (s : State) (n : Nat) (f : NodeSt → NodeSt) (x : Nat) : (State.nodeMod s n f).rd x = s.rd x := by simp [State.rd]
@[simp] theorem fld_nodeMod (s : State) (n : Nat) (f : NodeSt → NodeSt) (x : Fld) : (State.nodeMod s n f).fld x = s.fld x := by simp [State.fld]
@[simp] theorem bit_nodeMod (s : State) (n : Nat) (f : NodeSt → NodeSt) (x : Fld) : (State.nodeMod s n f).bit x = s.bit x := by simp [State.bit]
@[simp] theorem trd_nodeMod (s : State) (n : Nat) (f : NodeSt → NodeSt) (x y z : Nat) : (State.nodeMod s n f).trd x y z = s.trd x y z := by simp [State.trd]
@[simp] theorem tfld_nodeMod (s : State) (n : Nat) (f : NodeSt → NodeSt) (x y z u w_ : Nat) : (State.nodeMod s n f).tfld x y z u w_ = s.tfld x y z u w_ := by simp [State.tfld]

theorem bumpN_only (s : State) (c : Ctr) (n : Nat) : s.onlyIn (State.bumpN s c n) [.regs] := (bumpN_keeps (T := [.regs]) (Keeps.refl _ s) (List.Subset.refl _)).only
@[simp] theorem vis_bumpN (s : State) (c : Ctr) (n : Nat) : (State.bumpN s c n).vis = s.vis := bumpN_only s c n .vis (by decide)
@[simp] theorem shadow_bumpN (s : State) (c : Ctr) (n : Nat) : (State.bumpN s c n).shadow = s.shadow := bumpN_only s c n .shadow (by decide)
@[simp] theorem tbl_bumpN (s : State) (c : Ctr) (n : Nat) : (State.bumpN s c n).tbl = s.tbl := bumpN_only s c n .tbl (by decide)
@[simp] theorem tshadow_bumpN (s : State) (c : Ctr) (n : Nat) : (State.bumpN s c n).tshadow = s.tshadow := bumpN_only s c n .tshadow (by decide)
@[simp] theorem frzFrom_bumpN (s : State) (c : Ctr) (n : Nat) : (State.bumpN s c n).frzFrom = s.frzFrom := bumpN_only s c n .frzFrom (by decide)
@[simp] theorem commitDue_bumpN (s : State) (c : Ctr) (n : Nat) : (State.bumpN s c n).commitDue = s.commitDue := bumpN_only s c n .commitDue (by decide)
@[simp] theorem mbx_bumpN (s : State) (c : Ctr) (n : Nat) : (State.bumpN s c n).mbx = s.mbx := bumpN_only s c n .mbx (by decide)
@[simp] theorem host_bumpN (s : State) (c : Ctr) (n : Nat) : (State.bumpN s c n).host = s.host := bumpN_only s c n .items (by decide)
@[simp] theorem icu_bumpN (s : State) (c : Ctr) (n : Nat) : (State.bumpN s c n).icu = s.icu := bumpN_only s c n .icu (by decide)
@[simp] theorem evr_bumpN (s : State) (c : Ctr) (n : Nat) : (State.bumpN s c n).evr = s.evr := bumpN_only s c n .evr (by decide)
@[simp] theorem seq_bumpN (s : State) (c : Ctr) (n : Nat) : (State.bumpN s c n).seq = s.seq := bumpN_only s c n .seq (by decide)
@[simp] theorem cpe_bumpN (s : State) (c : Ctr) (n : Nat) : (State.bumpN s c n).cpe = s.cpe := bumpN_only s c n .cpe (by decide)
@[simp] theorem time_bumpN (s : State) (c : Ctr) (n : Nat) : (State.bumpN s c n).time = s.time := bumpN_only s c n .time (by decide)
@[simp] theorem model_bumpN (s : State) (c : Ctr) (n : Nat) : (State.bumpN s c n).model = s.model := bumpN_only s c n .model (by decide)
@[simp] theorem opt_bumpN (s : State) (c : Ctr) (n : Nat) : (State.bumpN s c n).opt = s.opt := bumpN_only s c n .opt (by decide)
@[simp] theorem snet_bumpN (s : State) (c : Ctr) (n : Nat) : (State.bumpN s c n).snet = s.snet := bumpN_only s c n .snet (by decide)
@[simp] theorem can_bumpN (s : State) (c : Ctr) (n : Nat) : (State.bumpN s c n).can = s.can := bumpN_only s c n .can (by decide)
@[simp] theorem dio_bumpN (s : State) (c : Ctr) (n : Nat) : (State.bumpN s c n).dio = s.dio := bumpN_only s c n .dio (by decide)
@[simp] theorem adc_bumpN (s : State) (c : Ctr) (n : Nat) : (State.bumpN s c n).adc = s.adc := bumpN_only s c n .adc (by decide)
@[simp] theorem lnch_bumpN (s : State) (c : Ctr) (n : Nat) : (State.bumpN s c n).lnch = s.lnch := bumpN_only s c n .lnch (by decide)
@[simp] theorem priv_bumpN (s : State) (c : Ctr) (n : Nat) : (State.bumpN s c n).priv = s.priv := bumpN_only s c n .priv (by decide)
@[simp] theorem met_bumpN (s : State) (c : Ctr) (n : Nat) : (State.bumpN s c n).met = s.met := bumpN_only s c n .met (by decide)
@[simp] theorem metNv_bumpN (s : State) (c : Ctr) (n : Nat) : (State.bumpN s c n).metNv = s.metNv := bumpN_only s c n .metNv (by decide)
@[simp] theorem pwr_bumpN (s : State) (c : Ctr) (n : Nat) : (State.bumpN s c n).pwr = s.pwr := bumpN_only s c n .pwr (by decide)
@[simp] theorem cpeNv_bumpN (s : State) (c : Ctr) (n : Nat) : (State.bumpN s c n).cpeNv = s.cpeNv := bumpN_only s c n .cpeNv (by decide)
@[simp] theorem loop_bumpN (s : State) (c : Ctr) (n : Nat) : (State.bumpN s c n).loop = s.loop := bumpN_only s c n .loop (by decide)
@[simp] theorem twin_bumpN (s : State) (c : Ctr) (n : Nat) : (State.bumpN s c n).twin = s.twin := bumpN_only s c n .twin (by decide)
@[simp] theorem segs_bumpN (s : State) (c : Ctr) (n : Nat) : (State.bumpN s c n).segs = s.segs := bumpN_only s c n .segs (by decide)
@[simp] theorem keys_bumpN (s : State) (c : Ctr) (n : Nat) : (State.bumpN s c n).keys = s.keys := bumpN_only s c n .keys (by decide)
@[simp] theorem cfg_bumpN (s : State) (c : Ctr) (n : Nat) : (State.bumpN s c n).cfg = s.cfg := bumpN_only s c n .cfg (by decide)
@[simp] theorem dev_bumpN (s : State) (c : Ctr) (n : Nat) : (State.bumpN s c n).dev = s.dev := bumpN_only s c n .dev (by decide)
@[simp] theorem sent_bumpN (s : State) (c : Ctr) (n : Nat) : (State.bumpN s c n).sent = s.sent := bumpN_only s c n .sent (by decide)
@[simp] theorem free_bumpN (s : State) (c : Ctr) (n : Nat) : (State.bumpN s c n).free = s.free := bumpN_only s c n .free (by decide)
@[simp] theorem pending_bumpN (s : State) (c : Ctr) (n : Nat) : (State.bumpN s c n).pending = s.pending := (bumpN_keeps (T := [.regs]) (Keeps.refl _ s) (List.Subset.refl _)).pending
@[simp] theorem trd_bumpN (s : State) (c : Ctr) (n : Nat) (x y z : Nat) : (State.bumpN s c n).trd x y z = s.trd x y z := by simp [State.trd]
@[simp] theorem tfld_bumpN (s : State) (c : Ctr) (n : Nat) (x y z u w_ : Nat) : (State.bumpN s c n).tfld x y z u w_ = s.tfld x y z u w_ := by simp [State.tfld]

theorem bump_only (s : State) (c : Ctr) : s.onlyIn (State.bump s c) [.regs] := (bump_keeps (T := [.regs]) (Keeps.refl _ s) (List.Subset.refl _)).only
@[simp] theorem vis_bump (s : State) (c : Ctr) : (State.bump s c).vis = s.vis := bump_only s c .vis (by decide)
@[simp] theorem shadow_bump (s : State) (c : Ctr) : (State.bump s c).shadow = s.shadow := bump_only s c .shadow (by decide)
@[simp] theorem tbl_bump (s : State) (c : Ctr) : (State.bump s c).tbl = s.tbl := bump_only s c .tbl (by decide)
@[simp] theorem tshadow_bump (s : State) (c : Ctr) : (State.bump s c).tshadow = s.tshadow := bump_only s c .tshadow (by decide)
@[simp] theorem frzFrom_bump (s : State) (c : Ctr) : (State.bump s c).frzFrom = s.frzFrom := bump_only s c .frzFrom (by decide)
@[simp] theorem commitDue_bump (s : State) (c : Ctr) : (State.bump s c).commitDue = s.commitDue := bump_only s c .commitDue (by decide)
@[simp] theorem mbx_bump (s : State) (c : Ctr) : (State.bump s c).mbx = s.mbx := bump_only s c .mbx (by decide)
@[simp] theorem host_bump (s : State) (c : Ctr) : (State.bump s c).host = s.host := bump_only s c .items (by decide)
@[simp] theorem icu_bump (s : State) (c : Ctr) : (State.bump s c).icu = s.icu := bump_only s c .icu (by decide)
@[simp] theorem evr_bump (s : State) (c : Ctr) : (State.bump s c).evr = s.evr := bump_only s c .evr (by decide)
@[simp] theorem seq_bump (s : State) (c : Ctr) : (State.bump s c).seq = s.seq := bump_only s c .seq (by decide)
@[simp] theorem cpe_bump (s : State) (c : Ctr) : (State.bump s c).cpe = s.cpe := bump_only s c .cpe (by decide)
@[simp] theorem time_bump (s : State) (c : Ctr) : (State.bump s c).time = s.time := bump_only s c .time (by decide)
@[simp] theorem model_bump (s : State) (c : Ctr) : (State.bump s c).model = s.model := bump_only s c .model (by decide)
@[simp] theorem opt_bump (s : State) (c : Ctr) : (State.bump s c).opt = s.opt := bump_only s c .opt (by decide)
@[simp] theorem snet_bump (s : State) (c : Ctr) : (State.bump s c).snet = s.snet := bump_only s c .snet (by decide)
@[simp] theorem can_bump (s : State) (c : Ctr) : (State.bump s c).can = s.can := bump_only s c .can (by decide)
@[simp] theorem dio_bump (s : State) (c : Ctr) : (State.bump s c).dio = s.dio := bump_only s c .dio (by decide)
@[simp] theorem adc_bump (s : State) (c : Ctr) : (State.bump s c).adc = s.adc := bump_only s c .adc (by decide)
@[simp] theorem lnch_bump (s : State) (c : Ctr) : (State.bump s c).lnch = s.lnch := bump_only s c .lnch (by decide)
@[simp] theorem priv_bump (s : State) (c : Ctr) : (State.bump s c).priv = s.priv := bump_only s c .priv (by decide)
@[simp] theorem met_bump (s : State) (c : Ctr) : (State.bump s c).met = s.met := bump_only s c .met (by decide)
@[simp] theorem metNv_bump (s : State) (c : Ctr) : (State.bump s c).metNv = s.metNv := bump_only s c .metNv (by decide)
@[simp] theorem pwr_bump (s : State) (c : Ctr) : (State.bump s c).pwr = s.pwr := bump_only s c .pwr (by decide)
@[simp] theorem cpeNv_bump (s : State) (c : Ctr) : (State.bump s c).cpeNv = s.cpeNv := bump_only s c .cpeNv (by decide)
@[simp] theorem loop_bump (s : State) (c : Ctr) : (State.bump s c).loop = s.loop := bump_only s c .loop (by decide)
@[simp] theorem twin_bump (s : State) (c : Ctr) : (State.bump s c).twin = s.twin := bump_only s c .twin (by decide)
@[simp] theorem segs_bump (s : State) (c : Ctr) : (State.bump s c).segs = s.segs := bump_only s c .segs (by decide)
@[simp] theorem keys_bump (s : State) (c : Ctr) : (State.bump s c).keys = s.keys := bump_only s c .keys (by decide)
@[simp] theorem cfg_bump (s : State) (c : Ctr) : (State.bump s c).cfg = s.cfg := bump_only s c .cfg (by decide)
@[simp] theorem dev_bump (s : State) (c : Ctr) : (State.bump s c).dev = s.dev := bump_only s c .dev (by decide)
@[simp] theorem sent_bump (s : State) (c : Ctr) : (State.bump s c).sent = s.sent := bump_only s c .sent (by decide)
@[simp] theorem free_bump (s : State) (c : Ctr) : (State.bump s c).free = s.free := bump_only s c .free (by decide)
@[simp] theorem pending_bump (s : State) (c : Ctr) : (State.bump s c).pending = s.pending := (bump_keeps (T := [.regs]) (Keeps.refl _ s) (List.Subset.refl _)).pending
@[simp] theorem trd_bump (s : State) (c : Ctr) (x y z : Nat) : (State.bump s c).trd x y z = s.trd x y z := by simp [State.trd]
@[simp] theorem tfld_bump (s : State) (c : Ctr) (x y z u w_ : Nat) : (State.bump s c).tfld x y z u w_ = s.tfld x y z u w_ := by simp [State.tfld]

theorem clearCtr_only (s : State) (c : Ctr) : s.onlyIn (State.clearCtr s c) [.regs] := (clearCtr_keeps (T := [.regs]) (Keeps.refl _ s) (List.Subset.refl _)).only
@[simp] theorem vis_clearCtr (s : State) (c : Ctr) : (State.clearCtr s c).vis = s.vis := clearCtr_only s c .vis (by decide)
@[simp] theorem shadow_clearCtr (s : State) (c : Ctr) : (State.clearCtr s c).shadow = s.shadow := clearCtr_only s c .shadow (by decide)
@[simp] theorem tbl_clearCtr (s : State) (c : Ctr) : (State.clearCtr s c).tbl = s.tbl := clearCtr_only s c .tbl (by decide)
@[simp] theorem tshadow_clearCtr (s : State) (c : Ctr) : (State.clearCtr s c).tshadow = s.tshadow := clearCtr_only s c .tshadow (by decide)
@[simp] theorem frzFrom_clearCtr (s : State) (c : Ctr) : (State.clearCtr s c).frzFrom = s.frzFrom := clearCtr_only s c .frzFrom (by decide)
@[simp] theorem commitDue_clearCtr (s : State) (c : Ctr) : (State.clearCtr s c).commitDue = s.commitDue := clearCtr_only s c .commitDue (by decide)
@[simp] theorem mbx_clearCtr (s : State) (c : Ctr) : (State.clearCtr s c).mbx = s.mbx := clearCtr_only s c .mbx (by decide)
@[simp] theorem host_clearCtr (s : State) (c : Ctr) : (State.clearCtr s c).host = s.host := clearCtr_only s c .items (by decide)
@[simp] theorem icu_clearCtr (s : State) (c : Ctr) : (State.clearCtr s c).icu = s.icu := clearCtr_only s c .icu (by decide)
@[simp] theorem evr_clearCtr (s : State) (c : Ctr) : (State.clearCtr s c).evr = s.evr := clearCtr_only s c .evr (by decide)
@[simp] theorem seq_clearCtr (s : State) (c : Ctr) : (State.clearCtr s c).seq = s.seq := clearCtr_only s c .seq (by decide)
@[simp] theorem cpe_clearCtr (s : State) (c : Ctr) : (State.clearCtr s c).cpe = s.cpe := clearCtr_only s c .cpe (by decide)
@[simp] theorem time_clearCtr (s : State) (c : Ctr) : (State.clearCtr s c).time = s.time := clearCtr_only s c .time (by decide)
@[simp] theorem model_clearCtr (s : State) (c : Ctr) : (State.clearCtr s c).model = s.model := clearCtr_only s c .model (by decide)
@[simp] theorem opt_clearCtr (s : State) (c : Ctr) : (State.clearCtr s c).opt = s.opt := clearCtr_only s c .opt (by decide)
@[simp] theorem snet_clearCtr (s : State) (c : Ctr) : (State.clearCtr s c).snet = s.snet := clearCtr_only s c .snet (by decide)
@[simp] theorem can_clearCtr (s : State) (c : Ctr) : (State.clearCtr s c).can = s.can := clearCtr_only s c .can (by decide)
@[simp] theorem dio_clearCtr (s : State) (c : Ctr) : (State.clearCtr s c).dio = s.dio := clearCtr_only s c .dio (by decide)
@[simp] theorem adc_clearCtr (s : State) (c : Ctr) : (State.clearCtr s c).adc = s.adc := clearCtr_only s c .adc (by decide)
@[simp] theorem lnch_clearCtr (s : State) (c : Ctr) : (State.clearCtr s c).lnch = s.lnch := clearCtr_only s c .lnch (by decide)
@[simp] theorem priv_clearCtr (s : State) (c : Ctr) : (State.clearCtr s c).priv = s.priv := clearCtr_only s c .priv (by decide)
@[simp] theorem met_clearCtr (s : State) (c : Ctr) : (State.clearCtr s c).met = s.met := clearCtr_only s c .met (by decide)
@[simp] theorem metNv_clearCtr (s : State) (c : Ctr) : (State.clearCtr s c).metNv = s.metNv := clearCtr_only s c .metNv (by decide)
@[simp] theorem pwr_clearCtr (s : State) (c : Ctr) : (State.clearCtr s c).pwr = s.pwr := clearCtr_only s c .pwr (by decide)
@[simp] theorem cpeNv_clearCtr (s : State) (c : Ctr) : (State.clearCtr s c).cpeNv = s.cpeNv := clearCtr_only s c .cpeNv (by decide)
@[simp] theorem loop_clearCtr (s : State) (c : Ctr) : (State.clearCtr s c).loop = s.loop := clearCtr_only s c .loop (by decide)
@[simp] theorem twin_clearCtr (s : State) (c : Ctr) : (State.clearCtr s c).twin = s.twin := clearCtr_only s c .twin (by decide)
@[simp] theorem segs_clearCtr (s : State) (c : Ctr) : (State.clearCtr s c).segs = s.segs := clearCtr_only s c .segs (by decide)
@[simp] theorem keys_clearCtr (s : State) (c : Ctr) : (State.clearCtr s c).keys = s.keys := clearCtr_only s c .keys (by decide)
@[simp] theorem cfg_clearCtr (s : State) (c : Ctr) : (State.clearCtr s c).cfg = s.cfg := clearCtr_only s c .cfg (by decide)
@[simp] theorem dev_clearCtr (s : State) (c : Ctr) : (State.clearCtr s c).dev = s.dev := clearCtr_only s c .dev (by decide)
@[simp] theorem sent_clearCtr (s : State) (c : Ctr) : (State.clearCtr s c).sent = s.sent := clearCtr_only s c .sent (by decide)
@[simp] theorem free_clearCtr (s : State) (c : Ctr) : (State.clearCtr s c).free = s.free := clearCtr_only s c .free (by decide)
@[simp] theorem pending_clearCtr (s : State) (c : Ctr) : (State.clearCtr s c).pending = s.pending := (clearCtr_keeps (T := [.regs]) (Keeps.refl _ s) (List.Subset.refl _)).pending
@[simp] theorem trd_clearCtr (s : State) (c : Ctr) (x y z : Nat) : (State.clearCtr s c).trd x y z = s.trd x y z := by simp [State.trd]
@[simp] theorem tfld_clearCtr (s : State) (c : Ctr) (x y z u w_ : Nat) : (State.clearCtr s c).tfld x y z u w_ = s.tfld x y z u w_ := by simp [State.tfld]

theorem mbxPut_only (s : State) (n : Nat) (i : Nat) (it : Item) : s.onlyIn (State.mbxPut s n i it) [.mbx] := (mbxPut_keeps (T := [.mbx]) (Keeps.refl _ s) (List.Subset.refl _)).only
@[simp] theorem regs_mbxPut (s : State) (n : Nat) (i : Nat) (it : Item) : (State.mbxPut s n i it).regs = s.regs := mbxPut_only s n i it .regs (by decide)
@[simp] theorem vis_mbxPut (s : State) (n : Nat) (i : Nat) (it : Item) : (State.mbxPut s n i it).vis = s.vis := mbxPut_only s n i it .vis (by decide)
@[simp] theorem shadow_mbxPut (s : State) (n : Nat) (i : Nat) (it : Item) : (State.mbxPut s n i it).shadow = s.shadow := mbxPut_only s n i it .shadow (by decide)
@[simp] theorem tbl_mbxPut (s : State) (n : Nat) (i : Nat) (it : Item) : (State.mbxPut s n i it).tbl = s.tbl := mbxPut_only s n i it .tbl (by decide)
@[simp] theorem tshadow_mbxPut (s : State) (n : Nat) (i : Nat) (it : Item) : (State.mbxPut s n i it).tshadow = s.tshadow := mbxPut_only s n i it .tshadow (by decide)
@[simp] theorem frzFrom_mbxPut (s : State) (n : Nat) (i : Nat) (it : Item) : (State.mbxPut s n i it).frzFrom = s.frzFrom := mbxPut_only s n i it .frzFrom (by decide)
@[simp] theorem commitDue_mbxPut (s : State) (n : Nat) (i : Nat) (it : Item) : (State.mbxPut s n i it).commitDue = s.commitDue := mbxPut_only s n i it .commitDue (by decide)
@[simp] theorem host_mbxPut (s : State) (n : Nat) (i : Nat) (it : Item) : (State.mbxPut s n i it).host = s.host := mbxPut_only s n i it .items (by decide)
@[simp] theorem icu_mbxPut (s : State) (n : Nat) (i : Nat) (it : Item) : (State.mbxPut s n i it).icu = s.icu := mbxPut_only s n i it .icu (by decide)
@[simp] theorem evr_mbxPut (s : State) (n : Nat) (i : Nat) (it : Item) : (State.mbxPut s n i it).evr = s.evr := mbxPut_only s n i it .evr (by decide)
@[simp] theorem seq_mbxPut (s : State) (n : Nat) (i : Nat) (it : Item) : (State.mbxPut s n i it).seq = s.seq := mbxPut_only s n i it .seq (by decide)
@[simp] theorem cpe_mbxPut (s : State) (n : Nat) (i : Nat) (it : Item) : (State.mbxPut s n i it).cpe = s.cpe := mbxPut_only s n i it .cpe (by decide)
@[simp] theorem time_mbxPut (s : State) (n : Nat) (i : Nat) (it : Item) : (State.mbxPut s n i it).time = s.time := mbxPut_only s n i it .time (by decide)
@[simp] theorem model_mbxPut (s : State) (n : Nat) (i : Nat) (it : Item) : (State.mbxPut s n i it).model = s.model := mbxPut_only s n i it .model (by decide)
@[simp] theorem opt_mbxPut (s : State) (n : Nat) (i : Nat) (it : Item) : (State.mbxPut s n i it).opt = s.opt := mbxPut_only s n i it .opt (by decide)
@[simp] theorem snet_mbxPut (s : State) (n : Nat) (i : Nat) (it : Item) : (State.mbxPut s n i it).snet = s.snet := mbxPut_only s n i it .snet (by decide)
@[simp] theorem can_mbxPut (s : State) (n : Nat) (i : Nat) (it : Item) : (State.mbxPut s n i it).can = s.can := mbxPut_only s n i it .can (by decide)
@[simp] theorem dio_mbxPut (s : State) (n : Nat) (i : Nat) (it : Item) : (State.mbxPut s n i it).dio = s.dio := mbxPut_only s n i it .dio (by decide)
@[simp] theorem adc_mbxPut (s : State) (n : Nat) (i : Nat) (it : Item) : (State.mbxPut s n i it).adc = s.adc := mbxPut_only s n i it .adc (by decide)
@[simp] theorem lnch_mbxPut (s : State) (n : Nat) (i : Nat) (it : Item) : (State.mbxPut s n i it).lnch = s.lnch := mbxPut_only s n i it .lnch (by decide)
@[simp] theorem priv_mbxPut (s : State) (n : Nat) (i : Nat) (it : Item) : (State.mbxPut s n i it).priv = s.priv := mbxPut_only s n i it .priv (by decide)
@[simp] theorem met_mbxPut (s : State) (n : Nat) (i : Nat) (it : Item) : (State.mbxPut s n i it).met = s.met := mbxPut_only s n i it .met (by decide)
@[simp] theorem metNv_mbxPut (s : State) (n : Nat) (i : Nat) (it : Item) : (State.mbxPut s n i it).metNv = s.metNv := mbxPut_only s n i it .metNv (by decide)
@[simp] theorem pwr_mbxPut (s : State) (n : Nat) (i : Nat) (it : Item) : (State.mbxPut s n i it).pwr = s.pwr := mbxPut_only s n i it .pwr (by decide)
@[simp] theorem cpeNv_mbxPut (s : State) (n : Nat) (i : Nat) (it : Item) : (State.mbxPut s n i it).cpeNv = s.cpeNv := mbxPut_only s n i it .cpeNv (by decide)
@[simp] theorem loop_mbxPut (s : State) (n : Nat) (i : Nat) (it : Item) : (State.mbxPut s n i it).loop = s.loop := mbxPut_only s n i it .loop (by decide)
@[simp] theorem twin_mbxPut (s : State) (n : Nat) (i : Nat) (it : Item) : (State.mbxPut s n i it).twin = s.twin := mbxPut_only s n i it .twin (by decide)
@[simp] theorem segs_mbxPut (s : State) (n : Nat) (i : Nat) (it : Item) : (State.mbxPut s n i it).segs = s.segs := mbxPut_only s n i it .segs (by decide)
@[simp] theorem keys_mbxPut (s : State) (n : Nat) (i : Nat) (it : Item) : (State.mbxPut s n i it).keys = s.keys := mbxPut_only s n i it .keys (by decide)
@[simp] theorem cfg_mbxPut (s : State) (n : Nat) (i : Nat) (it : Item) : (State.mbxPut s n i it).cfg = s.cfg := mbxPut_only s n i it .cfg (by decide)
@[simp] theorem dev_mbxPut (s : State) (n : Nat) (i : Nat) (it : Item) : (State.mbxPut s n i it).dev = s.dev := mbxPut_only s n i it .dev (by decide)
@[simp] theorem sent_mbxPut (s : State) (n : Nat) (i : Nat) (it : Item) : (State.mbxPut s n i it).sent = s.sent := mbxPut_only s n i it .sent (by decide)
@[simp] theorem free_mbxPut (s : State) (n : Nat) (i : Nat) (it : Item) : (State.mbxPut s n i it).free = s.free := mbxPut_only s n i it .free (by decide)
@[simp] theorem pending_mbxPut (s : State) (n : Nat) (i : Nat) (it : Item) : (State.mbxPut s n i it).pending = s.pending := (mbxPut_keeps (T := [.mbx]) (Keeps.refl _ s) (List.Subset.refl _)).pending
@[simp] theorem rd_mbxPut (s : State) (n : Nat) (i : Nat) (it : Item) (x : Nat) : (State.mbxPut s n i it).rd x = s.rd x := by simp [State.rd]
@[simp] theorem fld_mbxPut (s : State) (n : Nat) (i : Nat) (it : Item) (x : Fld) : (State.mbxPut s n i it).fld x = s.fld x := by simp [State.fld]
@[simp] theorem bit_mbxPut (s : State) (n : Nat) (i : Nat) (it : Item) (x : Fld) : (State.mbxPut s n i it).bit x = s.bit x := by simp [State.bit]
@[simp] theorem trd_mbxPut (s : State) (n : Nat) (i : Nat) (it : Item) (x y z : Nat) : (State.mbxPut s n i it).trd x y z = s.trd x y z := by simp [State.trd]
@[simp] theorem tfld_mbxPut (s : State) (n : Nat) (i : Nat) (it : Item) (x y z u w_ : Nat) : (State.mbxPut s n i it).tfld x y z u w_ = s.tfld x y z u w_ := by simp [State.tfld]

theorem mbxPuts_only (s : State) (n : Nat) (i : Nat) (a__internal_hyg0 : List Item) : s.onlyIn (State.mbxPuts s n i a__internal_hyg0) [.mbx] := (mbxPuts_keeps (T := [.mbx]) (Keeps.refl _ s) (List.Subset.refl _)).only
@[simp] theorem regs_mbxPuts (s : State) (n : Nat) (i : Nat) (a__internal_hyg0 : List Item) : (State.mbxPuts s n i a__internal_hyg0).regs = s.regs := mbxPuts_only s n i a__internal_hyg0 .regs (by decide)
@[simp] theorem vis_mbxPuts (s : State) (n : Nat) (i : Nat) (a__internal_hyg0 : List Item) : (State.mbxPuts s n i a__internal_hyg0).vis = s.vis := mbxPuts_only s n i a__internal_hyg0 .vis (by decide)
@[simp] theorem shadow_mbxPuts (s : State) (n : Nat) (i : Nat) (a__internal_hyg0 : List Item) : (State.mbxPuts s n i a__internal_hyg0).shadow = s.shadow := mbxPuts_only s n i a__internal_hyg0 .shadow (by decide)
@[simp] theorem tbl_mbxPuts (s : State) (n : Nat) (i : Nat) (a__internal_hyg0 : List Item) : (State.mbxPuts s n i a__internal_hyg0).tbl = s.tbl := mbxPuts_only s n i a__internal_hyg0 .tbl (by decide)
@[simp] theorem tshadow_mbxPuts (s : State) (n : Nat) (i : Nat) (a__internal_hyg0 : List Item) : (State.mbxPuts s n i a__internal_hyg0).tshadow = s.tshadow := mbxPuts_only s n i a__internal_hyg0 .tshadow (by decide)
@[simp] theorem frzFrom_mbxPuts (s : State) (n : Nat) (i : Nat) (a__internal_hyg0 : List Item) : (State.mbxPuts s n i a__internal_hyg0).frzFrom = s.frzFrom := mbxPuts_only s n i a__internal_hyg0 .frzFrom (by decide)
@[simp] theorem commitDue_mbxPuts (s : State) (n : Nat) (i : Nat) (a__internal_hyg0 : List Item) : (State.mbxPuts s n i a__internal_hyg0).commitDue = s.commitDue := mbxPuts_only s n i a__internal_hyg0 .commitDue (by decide)
@[simp] theorem host_mbxPuts (s : State) (n : Nat) (i : Nat) (a__internal_hyg0 : List Item) : (State.mbxPuts s n i a__internal_hyg0).host = s.host := mbxPuts_only s n i a__internal_hyg0 .items (by decide)
@[simp] theorem icu_mbxPuts (s : State) (n : Nat) (i : Nat) (a__internal_hyg0 : List Item) : (State.mbxPuts s n i a__internal_hyg0).icu = s.icu := mbxPuts_only s n i a__internal_hyg0 .icu (by decide)
@[simp] theorem evr_mbxPuts (s : State) (n : Nat) (i : Nat) (a__internal_hyg0 : List Item) : (State.mbxPuts s n i a__internal_hyg0).evr = s.evr := mbxPuts_only s n i a__internal_hyg0 .evr (by decide)
@[simp] theorem seq_mbxPuts (s : State) (n : Nat) (i : Nat) (a__internal_hyg0 : List Item) : (State.mbxPuts s n i a__internal_hyg0).seq = s.seq := mbxPuts_only s n i a__internal_hyg0 .seq (by decide)
@[simp] theorem cpe_mbxPuts (s : State) (n : Nat) (i : Nat) (a__internal_hyg0 : List Item) : (State.mbxPuts s n i a__internal_hyg0).cpe = s.cpe := mbxPuts_only s n i a__internal_hyg0 .cpe (by decide)
@[simp] theorem time_mbxPuts (s : State) (n : Nat) (i : Nat) (a__internal_hyg0 : List Item) : (State.mbxPuts s n i a__internal_hyg0).time = s.time := mbxPuts_only s n i a__internal_hyg0 .time (by decide)
@[simp] theorem model_mbxPuts (s : State) (n : Nat) (i : Nat) (a__internal_hyg0 : List Item) : (State.mbxPuts s n i a__internal_hyg0).model = s.model := mbxPuts_only s n i a__internal_hyg0 .model (by decide)
@[simp] theorem opt_mbxPuts (s : State) (n : Nat) (i : Nat) (a__internal_hyg0 : List Item) : (State.mbxPuts s n i a__internal_hyg0).opt = s.opt := mbxPuts_only s n i a__internal_hyg0 .opt (by decide)
@[simp] theorem snet_mbxPuts (s : State) (n : Nat) (i : Nat) (a__internal_hyg0 : List Item) : (State.mbxPuts s n i a__internal_hyg0).snet = s.snet := mbxPuts_only s n i a__internal_hyg0 .snet (by decide)
@[simp] theorem can_mbxPuts (s : State) (n : Nat) (i : Nat) (a__internal_hyg0 : List Item) : (State.mbxPuts s n i a__internal_hyg0).can = s.can := mbxPuts_only s n i a__internal_hyg0 .can (by decide)
@[simp] theorem dio_mbxPuts (s : State) (n : Nat) (i : Nat) (a__internal_hyg0 : List Item) : (State.mbxPuts s n i a__internal_hyg0).dio = s.dio := mbxPuts_only s n i a__internal_hyg0 .dio (by decide)
@[simp] theorem adc_mbxPuts (s : State) (n : Nat) (i : Nat) (a__internal_hyg0 : List Item) : (State.mbxPuts s n i a__internal_hyg0).adc = s.adc := mbxPuts_only s n i a__internal_hyg0 .adc (by decide)
@[simp] theorem lnch_mbxPuts (s : State) (n : Nat) (i : Nat) (a__internal_hyg0 : List Item) : (State.mbxPuts s n i a__internal_hyg0).lnch = s.lnch := mbxPuts_only s n i a__internal_hyg0 .lnch (by decide)
@[simp] theorem priv_mbxPuts (s : State) (n : Nat) (i : Nat) (a__internal_hyg0 : List Item) : (State.mbxPuts s n i a__internal_hyg0).priv = s.priv := mbxPuts_only s n i a__internal_hyg0 .priv (by decide)
@[simp] theorem met_mbxPuts (s : State) (n : Nat) (i : Nat) (a__internal_hyg0 : List Item) : (State.mbxPuts s n i a__internal_hyg0).met = s.met := mbxPuts_only s n i a__internal_hyg0 .met (by decide)
@[simp] theorem metNv_mbxPuts (s : State) (n : Nat) (i : Nat) (a__internal_hyg0 : List Item) : (State.mbxPuts s n i a__internal_hyg0).metNv = s.metNv := mbxPuts_only s n i a__internal_hyg0 .metNv (by decide)
@[simp] theorem pwr_mbxPuts (s : State) (n : Nat) (i : Nat) (a__internal_hyg0 : List Item) : (State.mbxPuts s n i a__internal_hyg0).pwr = s.pwr := mbxPuts_only s n i a__internal_hyg0 .pwr (by decide)
@[simp] theorem cpeNv_mbxPuts (s : State) (n : Nat) (i : Nat) (a__internal_hyg0 : List Item) : (State.mbxPuts s n i a__internal_hyg0).cpeNv = s.cpeNv := mbxPuts_only s n i a__internal_hyg0 .cpeNv (by decide)
@[simp] theorem loop_mbxPuts (s : State) (n : Nat) (i : Nat) (a__internal_hyg0 : List Item) : (State.mbxPuts s n i a__internal_hyg0).loop = s.loop := mbxPuts_only s n i a__internal_hyg0 .loop (by decide)
@[simp] theorem twin_mbxPuts (s : State) (n : Nat) (i : Nat) (a__internal_hyg0 : List Item) : (State.mbxPuts s n i a__internal_hyg0).twin = s.twin := mbxPuts_only s n i a__internal_hyg0 .twin (by decide)
@[simp] theorem segs_mbxPuts (s : State) (n : Nat) (i : Nat) (a__internal_hyg0 : List Item) : (State.mbxPuts s n i a__internal_hyg0).segs = s.segs := mbxPuts_only s n i a__internal_hyg0 .segs (by decide)
@[simp] theorem keys_mbxPuts (s : State) (n : Nat) (i : Nat) (a__internal_hyg0 : List Item) : (State.mbxPuts s n i a__internal_hyg0).keys = s.keys := mbxPuts_only s n i a__internal_hyg0 .keys (by decide)
@[simp] theorem cfg_mbxPuts (s : State) (n : Nat) (i : Nat) (a__internal_hyg0 : List Item) : (State.mbxPuts s n i a__internal_hyg0).cfg = s.cfg := mbxPuts_only s n i a__internal_hyg0 .cfg (by decide)
@[simp] theorem dev_mbxPuts (s : State) (n : Nat) (i : Nat) (a__internal_hyg0 : List Item) : (State.mbxPuts s n i a__internal_hyg0).dev = s.dev := mbxPuts_only s n i a__internal_hyg0 .dev (by decide)
@[simp] theorem sent_mbxPuts (s : State) (n : Nat) (i : Nat) (a__internal_hyg0 : List Item) : (State.mbxPuts s n i a__internal_hyg0).sent = s.sent := mbxPuts_only s n i a__internal_hyg0 .sent (by decide)
@[simp] theorem free_mbxPuts (s : State) (n : Nat) (i : Nat) (a__internal_hyg0 : List Item) : (State.mbxPuts s n i a__internal_hyg0).free = s.free := mbxPuts_only s n i a__internal_hyg0 .free (by decide)
@[simp] theorem pending_mbxPuts (s : State) (n : Nat) (i : Nat) (a__internal_hyg0 : List Item) : (State.mbxPuts s n i a__internal_hyg0).pending = s.pending := (mbxPuts_keeps (T := [.mbx]) (Keeps.refl _ s) (List.Subset.refl _)).pending
@[simp] theorem rd_mbxPuts (s : State) (n : Nat) (i : Nat) (a__internal_hyg0 : List Item) (x : Nat) : (State.mbxPuts s n i a__internal_hyg0).rd x = s.rd x := by simp [State.rd]
@[simp] theorem fld_mbxPuts (s : State) (n : Nat) (i : Nat) (a__internal_hyg0 : List Item) (x : Fld) : (State.mbxPuts s n i a__internal_hyg0).fld x = s.fld x := by simp [State.fld]
@[simp] theorem bit_mbxPuts (s : State) (n : Nat) (i : Nat) (a__internal_hyg0 : List Item) (x : Fld) : (State.mbxPuts s n i a__internal_hyg0).bit x = s.bit x := by simp [State.bit]
@[simp] theorem trd_mbxPuts (s : State) (n : Nat) (i : Nat) (a__internal_hyg0 : List Item) (x y z : Nat) : (State.mbxPuts s n i a__internal_hyg0).trd x y z = s.trd x y z := by simp [State.trd]
@[simp] theorem tfld_mbxPuts (s : State) (n : Nat) (i : Nat) (a__internal_hyg0 : List Item) (x y z u w_ : Nat) : (State.mbxPuts s n i a__internal_hyg0).tfld x y z u w_ = s.tfld x y z u w_ := by simp [State.tfld]

theorem rolePuts_only (s : State) (r : Nat) (k : Nat) (its : List Item) : s.onlyIn (State.rolePuts s r k its) [.regs, .tbl, .mbx, .items, .icu, .evr, .dio, .dev] := (rolePuts_keeps (T := [.regs, .tbl, .mbx, .items, .icu, .evr, .dio, .dev]) (Keeps.refl _ s) (by decide)).only
@[simp] theorem vis_rolePuts (s : State) (r : Nat) (k : Nat) (its : List Item) : (State.rolePuts s r k its).vis = s.vis := rolePuts_only s r k its .vis (by decide)
@[simp] theorem shadow_rolePuts (s : State) (r : Nat) (k : Nat) (its : List Item) : (State.rolePuts s r k its).shadow = s.shadow := rolePuts_only s r k its .shadow (by decide)
@[simp] theorem tshadow_rolePuts (s : State) (r : Nat) (k : Nat) (its : List Item) : (State.rolePuts s r k its).tshadow = s.tshadow := rolePuts_only s r k its .tshadow (by decide)
@[simp] theorem frzFrom_rolePuts (s : State) (r : Nat) (k : Nat) (its : List Item) : (State.rolePuts s r k its).frzFrom = s.frzFrom := rolePuts_only s r k its .frzFrom (by decide)
@[simp] theorem commitDue_rolePuts (s : State) (r : Nat) (k : Nat) (its : List Item) : (State.rolePuts s r k its).commitDue = s.commitDue := rolePuts_only s r k its .commitDue (by decide)
@[simp] theorem seq_rolePuts (s : State) (r : Nat) (k : Nat) (its : List Item) : (State.rolePuts s r k its).seq = s.seq := rolePuts_only s r k its .seq (by decide)
@[simp] theorem cpe_rolePuts (s : State) (r : Nat) (k : Nat) (its : List Item) : (State.rolePuts s r k its).cpe = s.cpe := rolePuts_only s r k its .cpe (by decide)
@[simp] theorem time_rolePuts (s : State) (r : Nat) (k : Nat) (its : List Item) : (State.rolePuts s r k its).time = s.time := rolePuts_only s r k its .time (by decide)
@[simp] theorem model_rolePuts (s : State) (r : Nat) (k : Nat) (its : List Item) : (State.rolePuts s r k its).model = s.model := rolePuts_only s r k its .model (by decide)
@[simp] theorem opt_rolePuts (s : State) (r : Nat) (k : Nat) (its : List Item) : (State.rolePuts s r k its).opt = s.opt := rolePuts_only s r k its .opt (by decide)
@[simp] theorem snet_rolePuts (s : State) (r : Nat) (k : Nat) (its : List Item) : (State.rolePuts s r k its).snet = s.snet := rolePuts_only s r k its .snet (by decide)
@[simp] theorem can_rolePuts (s : State) (r : Nat) (k : Nat) (its : List Item) : (State.rolePuts s r k its).can = s.can := rolePuts_only s r k its .can (by decide)
@[simp] theorem adc_rolePuts (s : State) (r : Nat) (k : Nat) (its : List Item) : (State.rolePuts s r k its).adc = s.adc := rolePuts_only s r k its .adc (by decide)
@[simp] theorem lnch_rolePuts (s : State) (r : Nat) (k : Nat) (its : List Item) : (State.rolePuts s r k its).lnch = s.lnch := rolePuts_only s r k its .lnch (by decide)
@[simp] theorem priv_rolePuts (s : State) (r : Nat) (k : Nat) (its : List Item) : (State.rolePuts s r k its).priv = s.priv := rolePuts_only s r k its .priv (by decide)
@[simp] theorem met_rolePuts (s : State) (r : Nat) (k : Nat) (its : List Item) : (State.rolePuts s r k its).met = s.met := rolePuts_only s r k its .met (by decide)
@[simp] theorem metNv_rolePuts (s : State) (r : Nat) (k : Nat) (its : List Item) : (State.rolePuts s r k its).metNv = s.metNv := rolePuts_only s r k its .metNv (by decide)
@[simp] theorem pwr_rolePuts (s : State) (r : Nat) (k : Nat) (its : List Item) : (State.rolePuts s r k its).pwr = s.pwr := rolePuts_only s r k its .pwr (by decide)
@[simp] theorem cpeNv_rolePuts (s : State) (r : Nat) (k : Nat) (its : List Item) : (State.rolePuts s r k its).cpeNv = s.cpeNv := rolePuts_only s r k its .cpeNv (by decide)
@[simp] theorem loop_rolePuts (s : State) (r : Nat) (k : Nat) (its : List Item) : (State.rolePuts s r k its).loop = s.loop := rolePuts_only s r k its .loop (by decide)
@[simp] theorem twin_rolePuts (s : State) (r : Nat) (k : Nat) (its : List Item) : (State.rolePuts s r k its).twin = s.twin := rolePuts_only s r k its .twin (by decide)
@[simp] theorem segs_rolePuts (s : State) (r : Nat) (k : Nat) (its : List Item) : (State.rolePuts s r k its).segs = s.segs := rolePuts_only s r k its .segs (by decide)
@[simp] theorem keys_rolePuts (s : State) (r : Nat) (k : Nat) (its : List Item) : (State.rolePuts s r k its).keys = s.keys := rolePuts_only s r k its .keys (by decide)
@[simp] theorem cfg_rolePuts (s : State) (r : Nat) (k : Nat) (its : List Item) : (State.rolePuts s r k its).cfg = s.cfg := rolePuts_only s r k its .cfg (by decide)
@[simp] theorem sent_rolePuts (s : State) (r : Nat) (k : Nat) (its : List Item) : (State.rolePuts s r k its).sent = s.sent := rolePuts_only s r k its .sent (by decide)
@[simp] theorem free_rolePuts (s : State) (r : Nat) (k : Nat) (its : List Item) : (State.rolePuts s r k its).free = s.free := rolePuts_only s r k its .free (by decide)
@[simp] theorem pending_rolePuts (s : State) (r : Nat) (k : Nat) (its : List Item) : (State.rolePuts s r k its).pending = s.pending := (rolePuts_keeps (T := [.regs, .tbl, .mbx, .items, .icu, .evr, .dio, .dev]) (Keeps.refl _ s) (by decide)).pending
@[simp] theorem still_rolePuts (s : State) (r : Nat) (k : Nat) (its : List Item) : (State.rolePuts s r k its).host.still = s.host.still := rolePuts_only s r k its .host (by decide)

theorem srcSet_only (s : State) (src : Nat) (lo : Nat) (n : Nat) (v : Nat) : s.onlyIn (State.srcSet s src lo n v) [.tbl] := (srcSet_keeps (T := [.tbl]) (Keeps.refl _ s) (List.Subset.refl _)).only
@[simp] theorem regs_srcSet (s : State) (src : Nat) (lo : Nat) (n : Nat) (v : Nat) : (State.srcSet s src lo n v).regs = s.regs := srcSet_only s src lo n v .regs (by decide)
@[simp] theorem vis_srcSet (s : State) (src : Nat) (lo : Nat) (n : Nat) (v : Nat) : (State.srcSet s src lo n v).vis = s.vis := srcSet_only s src lo n v .vis (by decide)
@[simp] theorem shadow_srcSet (s : State) (src : Nat) (lo : Nat) (n : Nat) (v : Nat) : (State.srcSet s src lo n v).shadow = s.shadow := srcSet_only s src lo n v .shadow (by decide)
@[simp] theorem tshadow_srcSet (s : State) (src : Nat) (lo : Nat) (n : Nat) (v : Nat) : (State.srcSet s src lo n v).tshadow = s.tshadow := srcSet_only s src lo n v .tshadow (by decide)
@[simp] theorem frzFrom_srcSet (s : State) (src : Nat) (lo : Nat) (n : Nat) (v : Nat) : (State.srcSet s src lo n v).frzFrom = s.frzFrom := srcSet_only s src lo n v .frzFrom (by decide)
@[simp] theorem commitDue_srcSet (s : State) (src : Nat) (lo : Nat) (n : Nat) (v : Nat) : (State.srcSet s src lo n v).commitDue = s.commitDue := srcSet_only s src lo n v .commitDue (by decide)
@[simp] theorem mbx_srcSet (s : State) (src : Nat) (lo : Nat) (n : Nat) (v : Nat) : (State.srcSet s src lo n v).mbx = s.mbx := srcSet_only s src lo n v .mbx (by decide)
@[simp] theorem host_srcSet (s : State) (src : Nat) (lo : Nat) (n : Nat) (v : Nat) : (State.srcSet s src lo n v).host = s.host := srcSet_only s src lo n v .items (by decide)
@[simp] theorem icu_srcSet (s : State) (src : Nat) (lo : Nat) (n : Nat) (v : Nat) : (State.srcSet s src lo n v).icu = s.icu := srcSet_only s src lo n v .icu (by decide)
@[simp] theorem evr_srcSet (s : State) (src : Nat) (lo : Nat) (n : Nat) (v : Nat) : (State.srcSet s src lo n v).evr = s.evr := srcSet_only s src lo n v .evr (by decide)
@[simp] theorem seq_srcSet (s : State) (src : Nat) (lo : Nat) (n : Nat) (v : Nat) : (State.srcSet s src lo n v).seq = s.seq := srcSet_only s src lo n v .seq (by decide)
@[simp] theorem cpe_srcSet (s : State) (src : Nat) (lo : Nat) (n : Nat) (v : Nat) : (State.srcSet s src lo n v).cpe = s.cpe := srcSet_only s src lo n v .cpe (by decide)
@[simp] theorem time_srcSet (s : State) (src : Nat) (lo : Nat) (n : Nat) (v : Nat) : (State.srcSet s src lo n v).time = s.time := srcSet_only s src lo n v .time (by decide)
@[simp] theorem model_srcSet (s : State) (src : Nat) (lo : Nat) (n : Nat) (v : Nat) : (State.srcSet s src lo n v).model = s.model := srcSet_only s src lo n v .model (by decide)
@[simp] theorem opt_srcSet (s : State) (src : Nat) (lo : Nat) (n : Nat) (v : Nat) : (State.srcSet s src lo n v).opt = s.opt := srcSet_only s src lo n v .opt (by decide)
@[simp] theorem snet_srcSet (s : State) (src : Nat) (lo : Nat) (n : Nat) (v : Nat) : (State.srcSet s src lo n v).snet = s.snet := srcSet_only s src lo n v .snet (by decide)
@[simp] theorem can_srcSet (s : State) (src : Nat) (lo : Nat) (n : Nat) (v : Nat) : (State.srcSet s src lo n v).can = s.can := srcSet_only s src lo n v .can (by decide)
@[simp] theorem dio_srcSet (s : State) (src : Nat) (lo : Nat) (n : Nat) (v : Nat) : (State.srcSet s src lo n v).dio = s.dio := srcSet_only s src lo n v .dio (by decide)
@[simp] theorem adc_srcSet (s : State) (src : Nat) (lo : Nat) (n : Nat) (v : Nat) : (State.srcSet s src lo n v).adc = s.adc := srcSet_only s src lo n v .adc (by decide)
@[simp] theorem lnch_srcSet (s : State) (src : Nat) (lo : Nat) (n : Nat) (v : Nat) : (State.srcSet s src lo n v).lnch = s.lnch := srcSet_only s src lo n v .lnch (by decide)
@[simp] theorem priv_srcSet (s : State) (src : Nat) (lo : Nat) (n : Nat) (v : Nat) : (State.srcSet s src lo n v).priv = s.priv := srcSet_only s src lo n v .priv (by decide)
@[simp] theorem met_srcSet (s : State) (src : Nat) (lo : Nat) (n : Nat) (v : Nat) : (State.srcSet s src lo n v).met = s.met := srcSet_only s src lo n v .met (by decide)
@[simp] theorem metNv_srcSet (s : State) (src : Nat) (lo : Nat) (n : Nat) (v : Nat) : (State.srcSet s src lo n v).metNv = s.metNv := srcSet_only s src lo n v .metNv (by decide)
@[simp] theorem pwr_srcSet (s : State) (src : Nat) (lo : Nat) (n : Nat) (v : Nat) : (State.srcSet s src lo n v).pwr = s.pwr := srcSet_only s src lo n v .pwr (by decide)
@[simp] theorem cpeNv_srcSet (s : State) (src : Nat) (lo : Nat) (n : Nat) (v : Nat) : (State.srcSet s src lo n v).cpeNv = s.cpeNv := srcSet_only s src lo n v .cpeNv (by decide)
@[simp] theorem loop_srcSet (s : State) (src : Nat) (lo : Nat) (n : Nat) (v : Nat) : (State.srcSet s src lo n v).loop = s.loop := srcSet_only s src lo n v .loop (by decide)
@[simp] theorem twin_srcSet (s : State) (src : Nat) (lo : Nat) (n : Nat) (v : Nat) : (State.srcSet s src lo n v).twin = s.twin := srcSet_only s src lo n v .twin (by decide)
@[simp] theorem segs_srcSet (s : State) (src : Nat) (lo : Nat) (n : Nat) (v : Nat) : (State.srcSet s src lo n v).segs = s.segs := srcSet_only s src lo n v .segs (by decide)
@[simp] theorem keys_srcSet (s : State) (src : Nat) (lo : Nat) (n : Nat) (v : Nat) : (State.srcSet s src lo n v).keys = s.keys := srcSet_only s src lo n v .keys (by decide)
@[simp] theorem cfg_srcSet (s : State) (src : Nat) (lo : Nat) (n : Nat) (v : Nat) : (State.srcSet s src lo n v).cfg = s.cfg := srcSet_only s src lo n v .cfg (by decide)
@[simp] theorem dev_srcSet (s : State) (src : Nat) (lo : Nat) (n : Nat) (v : Nat) : (State.srcSet s src lo n v).dev = s.dev := srcSet_only s src lo n v .dev (by decide)
@[simp] theorem sent_srcSet (s : State) (src : Nat) (lo : Nat) (n : Nat) (v : Nat) : (State.srcSet s src lo n v).sent = s.sent := srcSet_only s src lo n v .sent (by decide)
@[simp] theorem free_srcSet (s : State) (src : Nat) (lo : Nat) (n : Nat) (v : Nat) : (State.srcSet s src lo n v).free = s.free := srcSet_only s src lo n v .free (by decide)
@[simp] theorem pending_srcSet (s : State) (src : Nat) (lo : Nat) (n : Nat) (v : Nat) : (State.srcSet s src lo n v).pending = s.pending := (srcSet_keeps (T := [.tbl]) (Keeps.refl _ s) (List.Subset.refl _)).pending
@[simp] theorem rd_srcSet (s : State) (src : Nat) (lo : Nat) (n : Nat) (v : Nat) (x : Nat) : (State.srcSet s src lo n v).rd x = s.rd x := by simp [State.rd]
@[simp] theorem fld_srcSet (s : State) (src : Nat) (lo : Nat) (n : Nat) (v : Nat) (x : Fld) : (State.srcSet s src lo n v).fld x = s.fld x := by simp [State.fld]
@[simp] theorem bit_srcSet (s : State) (src : Nat) (lo : Nat) (n : Nat) (v : Nat) (x : Fld) : (State.srcSet s src lo n v).bit x = s.bit x := by simp [State.bit]

theorem signal_only (s : State) (src : Nat) : s.onlyIn (State.signal s src) [.regs, .tbl, .items, .icu] := (signal_keeps (T := [.regs, .tbl, .items, .icu]) (Keeps.refl _ s) (by decide)).only
@[simp] theorem vis_signal (s : State) (src : Nat) : (State.signal s src).vis = s.vis := signal_only s src .vis (by decide)
@[simp] theorem shadow_signal (s : State) (src : Nat) : (State.signal s src).shadow = s.shadow := signal_only s src .shadow (by decide)
@[simp] theorem tshadow_signal (s : State) (src : Nat) : (State.signal s src).tshadow = s.tshadow := signal_only s src .tshadow (by decide)
@[simp] theorem frzFrom_signal (s : State) (src : Nat) : (State.signal s src).frzFrom = s.frzFrom := signal_only s src .frzFrom (by decide)
@[simp] theorem commitDue_signal (s : State) (src : Nat) : (State.signal s src).commitDue = s.commitDue := signal_only s src .commitDue (by decide)
@[simp] theorem mbx_signal (s : State) (src : Nat) : (State.signal s src).mbx = s.mbx := signal_only s src .mbx (by decide)
@[simp] theorem evr_signal (s : State) (src : Nat) : (State.signal s src).evr = s.evr := signal_only s src .evr (by decide)
@[simp] theorem seq_signal (s : State) (src : Nat) : (State.signal s src).seq = s.seq := signal_only s src .seq (by decide)
@[simp] theorem cpe_signal (s : State) (src : Nat) : (State.signal s src).cpe = s.cpe := signal_only s src .cpe (by decide)
@[simp] theorem time_signal (s : State) (src : Nat) : (State.signal s src).time = s.time := signal_only s src .time (by decide)
@[simp] theorem model_signal (s : State) (src : Nat) : (State.signal s src).model = s.model := signal_only s src .model (by decide)
@[simp] theorem opt_signal (s : State) (src : Nat) : (State.signal s src).opt = s.opt := signal_only s src .opt (by decide)
@[simp] theorem snet_signal (s : State) (src : Nat) : (State.signal s src).snet = s.snet := signal_only s src .snet (by decide)
@[simp] theorem can_signal (s : State) (src : Nat) : (State.signal s src).can = s.can := signal_only s src .can (by decide)
@[simp] theorem dio_signal (s : State) (src : Nat) : (State.signal s src).dio = s.dio := signal_only s src .dio (by decide)
@[simp] theorem adc_signal (s : State) (src : Nat) : (State.signal s src).adc = s.adc := signal_only s src .adc (by decide)
@[simp] theorem lnch_signal (s : State) (src : Nat) : (State.signal s src).lnch = s.lnch := signal_only s src .lnch (by decide)
@[simp] theorem priv_signal (s : State) (src : Nat) : (State.signal s src).priv = s.priv := signal_only s src .priv (by decide)
@[simp] theorem met_signal (s : State) (src : Nat) : (State.signal s src).met = s.met := signal_only s src .met (by decide)
@[simp] theorem metNv_signal (s : State) (src : Nat) : (State.signal s src).metNv = s.metNv := signal_only s src .metNv (by decide)
@[simp] theorem pwr_signal (s : State) (src : Nat) : (State.signal s src).pwr = s.pwr := signal_only s src .pwr (by decide)
@[simp] theorem cpeNv_signal (s : State) (src : Nat) : (State.signal s src).cpeNv = s.cpeNv := signal_only s src .cpeNv (by decide)
@[simp] theorem loop_signal (s : State) (src : Nat) : (State.signal s src).loop = s.loop := signal_only s src .loop (by decide)
@[simp] theorem twin_signal (s : State) (src : Nat) : (State.signal s src).twin = s.twin := signal_only s src .twin (by decide)
@[simp] theorem segs_signal (s : State) (src : Nat) : (State.signal s src).segs = s.segs := signal_only s src .segs (by decide)
@[simp] theorem keys_signal (s : State) (src : Nat) : (State.signal s src).keys = s.keys := signal_only s src .keys (by decide)
@[simp] theorem cfg_signal (s : State) (src : Nat) : (State.signal s src).cfg = s.cfg := signal_only s src .cfg (by decide)
@[simp] theorem dev_signal (s : State) (src : Nat) : (State.signal s src).dev = s.dev := signal_only s src .dev (by decide)
@[simp] theorem sent_signal (s : State) (src : Nat) : (State.signal s src).sent = s.sent := signal_only s src .sent (by decide)
@[simp] theorem free_signal (s : State) (src : Nat) : (State.signal s src).free = s.free := signal_only s src .free (by decide)
@[simp] theorem pending_signal (s : State) (src : Nat) : (State.signal s src).pending = s.pending := (signal_keeps (T := [.regs, .tbl, .items, .icu]) (Keeps.refl _ s) (by decide)).pending
@[simp] theorem still_signal (s : State) (src : Nat) : (State.signal s src).host.still = s.host.still := signal_only s src .host (by decide)

theorem icuEval_only (s : State) : s.onlyIn (State.icuEval s) [.regs, .items, .icu] := (icuEval_keeps (T := [.regs, .items, .icu]) (Keeps.refl _ s) (by decide)).only
@[simp] theorem vis_icuEval (s : State) : (State.icuEval s).vis = s.vis := icuEval_only s .vis (by decide)
@[simp] theorem shadow_icuEval (s : State) : (State.icuEval s).shadow = s.shadow := icuEval_only s .shadow (by decide)
@[simp] theorem tbl_icuEval (s : State) : (State.icuEval s).tbl = s.tbl := icuEval_only s .tbl (by decide)
@[simp] theorem tshadow_icuEval (s : State) : (State.icuEval s).tshadow = s.tshadow := icuEval_only s .tshadow (by decide)
@[simp] theorem frzFrom_icuEval (s : State) : (State.icuEval s).frzFrom = s.frzFrom := icuEval_only s .frzFrom (by decide)
@[simp] theorem commitDue_icuEval (s : State) : (State.icuEval s).commitDue = s.commitDue := icuEval_only s .commitDue (by decide)
@[simp] theorem mbx_icuEval (s : State) : (State.icuEval s).mbx = s.mbx := icuEval_only s .mbx (by decide)
@[simp] theorem evr_icuEval (s : State) : (State.icuEval s).evr = s.evr := icuEval_only s .evr (by decide)
@[simp] theorem seq_icuEval (s : State) : (State.icuEval s).seq = s.seq := icuEval_only s .seq (by decide)
@[simp] theorem cpe_icuEval (s : State) : (State.icuEval s).cpe = s.cpe := icuEval_only s .cpe (by decide)
@[simp] theorem time_icuEval (s : State) : (State.icuEval s).time = s.time := icuEval_only s .time (by decide)
@[simp] theorem model_icuEval (s : State) : (State.icuEval s).model = s.model := icuEval_only s .model (by decide)
@[simp] theorem opt_icuEval (s : State) : (State.icuEval s).opt = s.opt := icuEval_only s .opt (by decide)
@[simp] theorem snet_icuEval (s : State) : (State.icuEval s).snet = s.snet := icuEval_only s .snet (by decide)
@[simp] theorem can_icuEval (s : State) : (State.icuEval s).can = s.can := icuEval_only s .can (by decide)
@[simp] theorem dio_icuEval (s : State) : (State.icuEval s).dio = s.dio := icuEval_only s .dio (by decide)
@[simp] theorem adc_icuEval (s : State) : (State.icuEval s).adc = s.adc := icuEval_only s .adc (by decide)
@[simp] theorem lnch_icuEval (s : State) : (State.icuEval s).lnch = s.lnch := icuEval_only s .lnch (by decide)
@[simp] theorem priv_icuEval (s : State) : (State.icuEval s).priv = s.priv := icuEval_only s .priv (by decide)
@[simp] theorem met_icuEval (s : State) : (State.icuEval s).met = s.met := icuEval_only s .met (by decide)
@[simp] theorem metNv_icuEval (s : State) : (State.icuEval s).metNv = s.metNv := icuEval_only s .metNv (by decide)
@[simp] theorem pwr_icuEval (s : State) : (State.icuEval s).pwr = s.pwr := icuEval_only s .pwr (by decide)
@[simp] theorem cpeNv_icuEval (s : State) : (State.icuEval s).cpeNv = s.cpeNv := icuEval_only s .cpeNv (by decide)
@[simp] theorem loop_icuEval (s : State) : (State.icuEval s).loop = s.loop := icuEval_only s .loop (by decide)
@[simp] theorem twin_icuEval (s : State) : (State.icuEval s).twin = s.twin := icuEval_only s .twin (by decide)
@[simp] theorem segs_icuEval (s : State) : (State.icuEval s).segs = s.segs := icuEval_only s .segs (by decide)
@[simp] theorem keys_icuEval (s : State) : (State.icuEval s).keys = s.keys := icuEval_only s .keys (by decide)
@[simp] theorem cfg_icuEval (s : State) : (State.icuEval s).cfg = s.cfg := icuEval_only s .cfg (by decide)
@[simp] theorem dev_icuEval (s : State) : (State.icuEval s).dev = s.dev := icuEval_only s .dev (by decide)
@[simp] theorem sent_icuEval (s : State) : (State.icuEval s).sent = s.sent := icuEval_only s .sent (by decide)
@[simp] theorem free_icuEval (s : State) : (State.icuEval s).free = s.free := icuEval_only s .free (by decide)
@[simp] theorem pending_icuEval (s : State) : (State.icuEval s).pending = s.pending := (icuEval_keeps (T := [.regs, .items, .icu]) (Keeps.refl _ s) (by decide)).pending
@[simp] theorem still_icuEval (s : State) : (State.icuEval s).host.still = s.host.still := icuEval_only s .host (by decide)
@[simp] theorem trd_icuEval (s : State) (x y z : Nat) : (State.icuEval s).trd x y z = s.trd x y z := by simp [State.trd]
@[simp] theorem tfld_icuEval (s : State) (x y z u w_ : Nat) : (State.icuEval s).tfld x y z u w_ = s.tfld x y z u w_ := by simp [State.tfld]

theorem raiseNoRec_only (s : State) (p : Nat) (b : Nat) : s.onlyIn (State.raiseNoRec s p b) [.regs, .tbl, .items, .icu] := (raiseNoRec_keeps (T := [.regs, .tbl, .items, .icu]) (Keeps.refl _ s) (by decide)).only
@[simp] theorem vis_raiseNoRec (s : State) (p : Nat) (b : Nat) : (State.raiseNoRec s p b).vis = s.vis := raiseNoRec_only s p b .vis (by decide)
@[simp] theorem shadow_raiseNoRec (s : State) (p : Nat) (b : Nat) : (State.raiseNoRec s p b).shadow = s.shadow := raiseNoRec_only s p b .shadow (by decide)
@[simp] theorem tshadow_raiseNoRec (s : State) (p : Nat) (b : Nat) : (State.raiseNoRec s p b).tshadow = s.tshadow := raiseNoRec_only s p b .tshadow (by decide)
@[simp] theorem frzFrom_raiseNoRec (s : State) (p : Nat) (b : Nat) : (State.raiseNoRec s p b).frzFrom = s.frzFrom := raiseNoRec_only s p b .frzFrom (by decide)
@[simp] theorem commitDue_raiseNoRec (s : State) (p : Nat) (b : Nat) : (State.raiseNoRec s p b).commitDue = s.commitDue := raiseNoRec_only s p b .commitDue (by decide)
@[simp] theorem mbx_raiseNoRec (s : State) (p : Nat) (b : Nat) : (State.raiseNoRec s p b).mbx = s.mbx := raiseNoRec_only s p b .mbx (by decide)
@[simp] theorem evr_raiseNoRec (s : State) (p : Nat) (b : Nat) : (State.raiseNoRec s p b).evr = s.evr := raiseNoRec_only s p b .evr (by decide)
@[simp] theorem seq_raiseNoRec (s : State) (p : Nat) (b : Nat) : (State.raiseNoRec s p b).seq = s.seq := raiseNoRec_only s p b .seq (by decide)
@[simp] theorem cpe_raiseNoRec (s : State) (p : Nat) (b : Nat) : (State.raiseNoRec s p b).cpe = s.cpe := raiseNoRec_only s p b .cpe (by decide)
@[simp] theorem time_raiseNoRec (s : State) (p : Nat) (b : Nat) : (State.raiseNoRec s p b).time = s.time := raiseNoRec_only s p b .time (by decide)
@[simp] theorem model_raiseNoRec (s : State) (p : Nat) (b : Nat) : (State.raiseNoRec s p b).model = s.model := raiseNoRec_only s p b .model (by decide)
@[simp] theorem opt_raiseNoRec (s : State) (p : Nat) (b : Nat) : (State.raiseNoRec s p b).opt = s.opt := raiseNoRec_only s p b .opt (by decide)
@[simp] theorem snet_raiseNoRec (s : State) (p : Nat) (b : Nat) : (State.raiseNoRec s p b).snet = s.snet := raiseNoRec_only s p b .snet (by decide)
@[simp] theorem can_raiseNoRec (s : State) (p : Nat) (b : Nat) : (State.raiseNoRec s p b).can = s.can := raiseNoRec_only s p b .can (by decide)
@[simp] theorem dio_raiseNoRec (s : State) (p : Nat) (b : Nat) : (State.raiseNoRec s p b).dio = s.dio := raiseNoRec_only s p b .dio (by decide)
@[simp] theorem adc_raiseNoRec (s : State) (p : Nat) (b : Nat) : (State.raiseNoRec s p b).adc = s.adc := raiseNoRec_only s p b .adc (by decide)
@[simp] theorem lnch_raiseNoRec (s : State) (p : Nat) (b : Nat) : (State.raiseNoRec s p b).lnch = s.lnch := raiseNoRec_only s p b .lnch (by decide)
@[simp] theorem priv_raiseNoRec (s : State) (p : Nat) (b : Nat) : (State.raiseNoRec s p b).priv = s.priv := raiseNoRec_only s p b .priv (by decide)
@[simp] theorem met_raiseNoRec (s : State) (p : Nat) (b : Nat) : (State.raiseNoRec s p b).met = s.met := raiseNoRec_only s p b .met (by decide)
@[simp] theorem metNv_raiseNoRec (s : State) (p : Nat) (b : Nat) : (State.raiseNoRec s p b).metNv = s.metNv := raiseNoRec_only s p b .metNv (by decide)
@[simp] theorem pwr_raiseNoRec (s : State) (p : Nat) (b : Nat) : (State.raiseNoRec s p b).pwr = s.pwr := raiseNoRec_only s p b .pwr (by decide)
@[simp] theorem cpeNv_raiseNoRec (s : State) (p : Nat) (b : Nat) : (State.raiseNoRec s p b).cpeNv = s.cpeNv := raiseNoRec_only s p b .cpeNv (by decide)
@[simp] theorem loop_raiseNoRec (s : State) (p : Nat) (b : Nat) : (State.raiseNoRec s p b).loop = s.loop := raiseNoRec_only s p b .loop (by decide)
@[simp] theorem twin_raiseNoRec (s : State) (p : Nat) (b : Nat) : (State.raiseNoRec s p b).twin = s.twin := raiseNoRec_only s p b .twin (by decide)
@[simp] theorem segs_raiseNoRec (s : State) (p : Nat) (b : Nat) : (State.raiseNoRec s p b).segs = s.segs := raiseNoRec_only s p b .segs (by decide)
@[simp] theorem keys_raiseNoRec (s : State) (p : Nat) (b : Nat) : (State.raiseNoRec s p b).keys = s.keys := raiseNoRec_only s p b .keys (by decide)
@[simp] theorem cfg_raiseNoRec (s : State) (p : Nat) (b : Nat) : (State.raiseNoRec s p b).cfg = s.cfg := raiseNoRec_only s p b .cfg (by decide)
@[simp] theorem dev_raiseNoRec (s : State) (p : Nat) (b : Nat) : (State.raiseNoRec s p b).dev = s.dev := raiseNoRec_only s p b .dev (by decide)
@[simp] theorem sent_raiseNoRec (s : State) (p : Nat) (b : Nat) : (State.raiseNoRec s p b).sent = s.sent := raiseNoRec_only s p b .sent (by decide)
@[simp] theorem free_raiseNoRec (s : State) (p : Nat) (b : Nat) : (State.raiseNoRec s p b).free = s.free := raiseNoRec_only s p b .free (by decide)
@[simp] theorem pending_raiseNoRec (s : State) (p : Nat) (b : Nat) : (State.raiseNoRec s p b).pending = s.pending := (raiseNoRec_keeps (T := [.regs, .tbl, .items, .icu]) (Keeps.refl _ s) (by decide)).pending
@[simp] theorem still_raiseNoRec (s : State) (p : Nat) (b : Nat) : (State.raiseNoRec s p b).host.still = s.host.still := raiseNoRec_only s p b .host (by decide)

theorem offer_only (s : State) (code : Nat) (kind : Nat) : s.onlyIn (State.offer s code kind) [.regs, .tbl, .items, .icu, .evr] := (offer_keeps (T := [.regs, .tbl, .items, .icu, .evr]) (Keeps.refl _ s) (by decide)).only
@[simp] theorem vis_offer (s : State) (code : Nat) (kind : Nat) : (State.offer s code kind).vis = s.vis := offer_only s code kind .vis (by decide)
@[simp] theorem shadow_offer (s : State) (code : Nat) (kind : Nat) : (State.offer s code kind).shadow = s.shadow := offer_only s code kind .shadow (by decide)
@[simp] theorem tshadow_offer (s : State) (code : Nat) (kind : Nat) : (State.offer s code kind).tshadow = s.tshadow := offer_only s code kind .tshadow (by decide)
@[simp] theorem frzFrom_offer (s : State) (code : Nat) (kind : Nat) : (State.offer s code kind).frzFrom = s.frzFrom := offer_only s code kind .frzFrom (by decide)
@[simp] theorem commitDue_offer (s : State) (code : Nat) (kind : Nat) : (State.offer s code kind).commitDue = s.commitDue := offer_only s code kind .commitDue (by decide)
@[simp] theorem mbx_offer (s : State) (code : Nat) (kind : Nat) : (State.offer s code kind).mbx = s.mbx := offer_only s code kind .mbx (by decide)
@[simp] theorem seq_offer (s : State) (code : Nat) (kind : Nat) : (State.offer s code kind).seq = s.seq := offer_only s code kind .seq (by decide)
@[simp] theorem cpe_offer (s : State) (code : Nat) (kind : Nat) : (State.offer s code kind).cpe = s.cpe := offer_only s code kind .cpe (by decide)
@[simp] theorem time_offer (s : State) (code : Nat) (kind : Nat) : (State.offer s code kind).time = s.time := offer_only s code kind .time (by decide)
@[simp] theorem model_offer (s : State) (code : Nat) (kind : Nat) : (State.offer s code kind).model = s.model := offer_only s code kind .model (by decide)
@[simp] theorem opt_offer (s : State) (code : Nat) (kind : Nat) : (State.offer s code kind).opt = s.opt := offer_only s code kind .opt (by decide)
@[simp] theorem snet_offer (s : State) (code : Nat) (kind : Nat) : (State.offer s code kind).snet = s.snet := offer_only s code kind .snet (by decide)
@[simp] theorem can_offer (s : State) (code : Nat) (kind : Nat) : (State.offer s code kind).can = s.can := offer_only s code kind .can (by decide)
@[simp] theorem dio_offer (s : State) (code : Nat) (kind : Nat) : (State.offer s code kind).dio = s.dio := offer_only s code kind .dio (by decide)
@[simp] theorem adc_offer (s : State) (code : Nat) (kind : Nat) : (State.offer s code kind).adc = s.adc := offer_only s code kind .adc (by decide)
@[simp] theorem lnch_offer (s : State) (code : Nat) (kind : Nat) : (State.offer s code kind).lnch = s.lnch := offer_only s code kind .lnch (by decide)
@[simp] theorem priv_offer (s : State) (code : Nat) (kind : Nat) : (State.offer s code kind).priv = s.priv := offer_only s code kind .priv (by decide)
@[simp] theorem met_offer (s : State) (code : Nat) (kind : Nat) : (State.offer s code kind).met = s.met := offer_only s code kind .met (by decide)
@[simp] theorem metNv_offer (s : State) (code : Nat) (kind : Nat) : (State.offer s code kind).metNv = s.metNv := offer_only s code kind .metNv (by decide)
@[simp] theorem pwr_offer (s : State) (code : Nat) (kind : Nat) : (State.offer s code kind).pwr = s.pwr := offer_only s code kind .pwr (by decide)
@[simp] theorem cpeNv_offer (s : State) (code : Nat) (kind : Nat) : (State.offer s code kind).cpeNv = s.cpeNv := offer_only s code kind .cpeNv (by decide)
@[simp] theorem loop_offer (s : State) (code : Nat) (kind : Nat) : (State.offer s code kind).loop = s.loop := offer_only s code kind .loop (by decide)
@[simp] theorem twin_offer (s : State) (code : Nat) (kind : Nat) : (State.offer s code kind).twin = s.twin := offer_only s code kind .twin (by decide)
@[simp] theorem segs_offer (s : State) (code : Nat) (kind : Nat) : (State.offer s code kind).segs = s.segs := offer_only s code kind .segs (by decide)
@[simp] theorem keys_offer (s : State) (code : Nat) (kind : Nat) : (State.offer s code kind).keys = s.keys := offer_only s code kind .keys (by decide)
@[simp] theorem cfg_offer (s : State) (code : Nat) (kind : Nat) : (State.offer s code kind).cfg = s.cfg := offer_only s code kind .cfg (by decide)
@[simp] theorem dev_offer (s : State) (code : Nat) (kind : Nat) : (State.offer s code kind).dev = s.dev := offer_only s code kind .dev (by decide)
@[simp] theorem sent_offer (s : State) (code : Nat) (kind : Nat) : (State.offer s code kind).sent = s.sent := offer_only s code kind .sent (by decide)
@[simp] theorem free_offer (s : State) (code : Nat) (kind : Nat) : (State.offer s code kind).free = s.free := offer_only s code kind .free (by decide)
@[simp] theorem pending_offer (s : State) (code : Nat) (kind : Nat) : (State.offer s code kind).pending = s.pending := (offer_keeps (T := [.regs, .tbl, .items, .icu, .evr]) (Keeps.refl _ s) (by decide)).pending
@[simp] theorem still_offer (s : State) (code : Nat) (kind : Nat) : (State.offer s code kind).host.still = s.host.still := offer_only s code kind .host (by decide)

theorem raiseEv_only (s : State) (p : Nat) (b : Nat) : s.onlyIn (State.raiseEv s p b) [.regs, .tbl, .items, .icu, .evr] := (raiseEv_keeps (T := [.regs, .tbl, .items, .icu, .evr]) (Keeps.refl _ s) (by decide)).only
@[simp] theorem vis_raiseEv (s : State) (p : Nat) (b : Nat) : (State.raiseEv s p b).vis = s.vis := raiseEv_only s p b .vis (by decide)
@[simp] theorem shadow_raiseEv (s : State) (p : Nat) (b : Nat) : (State.raiseEv s p b).shadow = s.shadow := raiseEv_only s p b .shadow (by decide)
@[simp] theorem tshadow_raiseEv (s : State) (p : Nat) (b : Nat) : (State.raiseEv s p b).tshadow = s.tshadow := raiseEv_only s p b .tshadow (by decide)
@[simp] theorem frzFrom_raiseEv (s : State) (p : Nat) (b : Nat) : (State.raiseEv s p b).frzFrom = s.frzFrom := raiseEv_only s p b .frzFrom (by decide)
@[simp] theorem commitDue_raiseEv (s : State) (p : Nat) (b : Nat) : (State.raiseEv s p b).commitDue = s.commitDue := raiseEv_only s p b .commitDue (by decide)
@[simp] theorem mbx_raiseEv (s : State) (p : Nat) (b : Nat) : (State.raiseEv s p b).mbx = s.mbx := raiseEv_only s p b .mbx (by decide)
@[simp] theorem seq_raiseEv (s : State) (p : Nat) (b : Nat) : (State.raiseEv s p b).seq = s.seq := raiseEv_only s p b .seq (by decide)
@[simp] theorem cpe_raiseEv (s : State) (p : Nat) (b : Nat) : (State.raiseEv s p b).cpe = s.cpe := raiseEv_only s p b .cpe (by decide)
@[simp] theorem time_raiseEv (s : State) (p : Nat) (b : Nat) : (State.raiseEv s p b).time = s.time := raiseEv_only s p b .time (by decide)
@[simp] theorem model_raiseEv (s : State) (p : Nat) (b : Nat) : (State.raiseEv s p b).model = s.model := raiseEv_only s p b .model (by decide)
@[simp] theorem opt_raiseEv (s : State) (p : Nat) (b : Nat) : (State.raiseEv s p b).opt = s.opt := raiseEv_only s p b .opt (by decide)
@[simp] theorem snet_raiseEv (s : State) (p : Nat) (b : Nat) : (State.raiseEv s p b).snet = s.snet := raiseEv_only s p b .snet (by decide)
@[simp] theorem can_raiseEv (s : State) (p : Nat) (b : Nat) : (State.raiseEv s p b).can = s.can := raiseEv_only s p b .can (by decide)
@[simp] theorem dio_raiseEv (s : State) (p : Nat) (b : Nat) : (State.raiseEv s p b).dio = s.dio := raiseEv_only s p b .dio (by decide)
@[simp] theorem adc_raiseEv (s : State) (p : Nat) (b : Nat) : (State.raiseEv s p b).adc = s.adc := raiseEv_only s p b .adc (by decide)
@[simp] theorem lnch_raiseEv (s : State) (p : Nat) (b : Nat) : (State.raiseEv s p b).lnch = s.lnch := raiseEv_only s p b .lnch (by decide)
@[simp] theorem priv_raiseEv (s : State) (p : Nat) (b : Nat) : (State.raiseEv s p b).priv = s.priv := raiseEv_only s p b .priv (by decide)
@[simp] theorem met_raiseEv (s : State) (p : Nat) (b : Nat) : (State.raiseEv s p b).met = s.met := raiseEv_only s p b .met (by decide)
@[simp] theorem metNv_raiseEv (s : State) (p : Nat) (b : Nat) : (State.raiseEv s p b).metNv = s.metNv := raiseEv_only s p b .metNv (by decide)
@[simp] theorem pwr_raiseEv (s : State) (p : Nat) (b : Nat) : (State.raiseEv s p b).pwr = s.pwr := raiseEv_only s p b .pwr (by decide)
@[simp] theorem cpeNv_raiseEv (s : State) (p : Nat) (b : Nat) : (State.raiseEv s p b).cpeNv = s.cpeNv := raiseEv_only s p b .cpeNv (by decide)
@[simp] theorem loop_raiseEv (s : State) (p : Nat) (b : Nat) : (State.raiseEv s p b).loop = s.loop := raiseEv_only s p b .loop (by decide)
@[simp] theorem twin_raiseEv (s : State) (p : Nat) (b : Nat) : (State.raiseEv s p b).twin = s.twin := raiseEv_only s p b .twin (by decide)
@[simp] theorem segs_raiseEv (s : State) (p : Nat) (b : Nat) : (State.raiseEv s p b).segs = s.segs := raiseEv_only s p b .segs (by decide)
@[simp] theorem keys_raiseEv (s : State) (p : Nat) (b : Nat) : (State.raiseEv s p b).keys = s.keys := raiseEv_only s p b .keys (by decide)
@[simp] theorem cfg_raiseEv (s : State) (p : Nat) (b : Nat) : (State.raiseEv s p b).cfg = s.cfg := raiseEv_only s p b .cfg (by decide)
@[simp] theorem dev_raiseEv (s : State) (p : Nat) (b : Nat) : (State.raiseEv s p b).dev = s.dev := raiseEv_only s p b .dev (by decide)
@[simp] theorem sent_raiseEv (s : State) (p : Nat) (b : Nat) : (State.raiseEv s p b).sent = s.sent := raiseEv_only s p b .sent (by decide)
@[simp] theorem free_raiseEv (s : State) (p : Nat) (b : Nat) : (State.raiseEv s p b).free = s.free := raiseEv_only s p b .free (by decide)
@[simp] theorem pending_raiseEv (s : State) (p : Nat) (b : Nat) : (State.raiseEv s p b).pending = s.pending := (raiseEv_keeps (T := [.regs, .tbl, .items, .icu, .evr]) (Keeps.refl _ s) (by decide)).pending
@[simp] theorem still_raiseEv (s : State) (p : Nat) (b : Nat) : (State.raiseEv s p b).host.still = s.host.still := raiseEv_only s p b .host (by decide)

theorem setMstate_only (s : State) (m : Nat) : s.onlyIn (State.setMstate s m) [.regs, .tbl, .items, .icu, .evr] := (setMstate_keeps (T := [.regs, .tbl, .items, .icu, .evr]) (Keeps.refl _ s) (by decide)).only
@[simp] theorem vis_setMstate (s : State) (m : Nat) : (State.setMstate s m).vis = s.vis := setMstate_only s m .vis (by decide)
@[simp] theorem shadow_setMstate (s : State) (m : Nat) : (State.setMstate s m).shadow = s.shadow := setMstate_only s m .shadow (by decide)
@[simp] theorem tshadow_setMstate (s : State) (m : Nat) : (State.setMstate s m).tshadow = s.tshadow := setMstate_only s m .tshadow (by decide)
@[simp] theorem frzFrom_setMstate (s : State) (m : Nat) : (State.setMstate s m).frzFrom = s.frzFrom := setMstate_only s m .frzFrom (by decide)
@[simp] theorem commitDue_setMstate (s : State) (m : Nat) : (State.setMstate s m).commitDue = s.commitDue := setMstate_only s m .commitDue (by decide)
@[simp] theorem mbx_setMstate (s : State) (m : Nat) : (State.setMstate s m).mbx = s.mbx := setMstate_only s m .mbx (by decide)
@[simp] theorem seq_setMstate (s : State) (m : Nat) : (State.setMstate s m).seq = s.seq := setMstate_only s m .seq (by decide)
@[simp] theorem cpe_setMstate (s : State) (m : Nat) : (State.setMstate s m).cpe = s.cpe := setMstate_only s m .cpe (by decide)
@[simp] theorem time_setMstate (s : State) (m : Nat) : (State.setMstate s m).time = s.time := setMstate_only s m .time (by decide)
@[simp] theorem model_setMstate (s : State) (m : Nat) : (State.setMstate s m).model = s.model := setMstate_only s m .model (by decide)
@[simp] theorem opt_setMstate (s : State) (m : Nat) : (State.setMstate s m).opt = s.opt := setMstate_only s m .opt (by decide)
@[simp] theorem snet_setMstate (s : State) (m : Nat) : (State.setMstate s m).snet = s.snet := setMstate_only s m .snet (by decide)
@[simp] theorem can_setMstate (s : State) (m : Nat) : (State.setMstate s m).can = s.can := setMstate_only s m .can (by decide)
@[simp] theorem dio_setMstate (s : State) (m : Nat) : (State.setMstate s m).dio = s.dio := setMstate_only s m .dio (by decide)
@[simp] theorem adc_setMstate (s : State) (m : Nat) : (State.setMstate s m).adc = s.adc := setMstate_only s m .adc (by decide)
@[simp] theorem lnch_setMstate (s : State) (m : Nat) : (State.setMstate s m).lnch = s.lnch := setMstate_only s m .lnch (by decide)
@[simp] theorem priv_setMstate (s : State) (m : Nat) : (State.setMstate s m).priv = s.priv := setMstate_only s m .priv (by decide)
@[simp] theorem met_setMstate (s : State) (m : Nat) : (State.setMstate s m).met = s.met := setMstate_only s m .met (by decide)
@[simp] theorem metNv_setMstate (s : State) (m : Nat) : (State.setMstate s m).metNv = s.metNv := setMstate_only s m .metNv (by decide)
@[simp] theorem pwr_setMstate (s : State) (m : Nat) : (State.setMstate s m).pwr = s.pwr := setMstate_only s m .pwr (by decide)
@[simp] theorem cpeNv_setMstate (s : State) (m : Nat) : (State.setMstate s m).cpeNv = s.cpeNv := setMstate_only s m .cpeNv (by decide)
@[simp] theorem loop_setMstate (s : State) (m : Nat) : (State.setMstate s m).loop = s.loop := setMstate_only s m .loop (by decide)
@[simp] theorem twin_setMstate (s : State) (m : Nat) : (State.setMstate s m).twin = s.twin := setMstate_only s m .twin (by decide)
@[simp] theorem segs_setMstate (s : State) (m : Nat) : (State.setMstate s m).segs = s.segs := setMstate_only s m .segs (by decide)
@[simp] theorem keys_setMstate (s : State) (m : Nat) : (State.setMstate s m).keys = s.keys := setMstate_only s m .keys (by decide)
@[simp] theorem cfg_setMstate (s : State) (m : Nat) : (State.setMstate s m).cfg = s.cfg := setMstate_only s m .cfg (by decide)
@[simp] theorem dev_setMstate (s : State) (m : Nat) : (State.setMstate s m).dev = s.dev := setMstate_only s m .dev (by decide)
@[simp] theorem sent_setMstate (s : State) (m : Nat) : (State.setMstate s m).sent = s.sent := setMstate_only s m .sent (by decide)
@[simp] theorem free_setMstate (s : State) (m : Nat) : (State.setMstate s m).free = s.free := setMstate_only s m .free (by decide)
@[simp] theorem pending_setMstate (s : State) (m : Nat) : (State.setMstate s m).pending = s.pending := (setMstate_keeps (T := [.regs, .tbl, .items, .icu, .evr]) (Keeps.refl _ s) (by decide)).pending
@[simp] theorem still_setMstate (s : State) (m : Nat) : (State.setMstate s m).host.still = s.host.still := setMstate_only s m .host (by decide)

theorem addItem_only (s : State) (i : Nat) (it : NItem) : s.onlyIn (State.addItem s i it) [.items] := (addItem_keeps (T := [.items]) (Keeps.refl _ s) (by decide)).only
@[simp] theorem regs_addItem (s : State) (i : Nat) (it : NItem) : (State.addItem s i it).regs = s.regs := addItem_only s i it .regs (by decide)
@[simp] theorem vis_addItem (s : State) (i : Nat) (it : NItem) : (State.addItem s i it).vis = s.vis := addItem_only s i it .vis (by decide)
@[simp] theorem shadow_addItem (s : State) (i : Nat) (it : NItem) : (State.addItem s i it).shadow = s.shadow := addItem_only s i it .shadow (by decide)
@[simp] theorem tbl_addItem (s : State) (i : Nat) (it : NItem) : (State.addItem s i it).tbl = s.tbl := addItem_only s i it .tbl (by decide)
@[simp] theorem tshadow_addItem (s : State) (i : Nat) (it : NItem) : (State.addItem s i it).tshadow = s.tshadow := addItem_only s i it .tshadow (by decide)
@[simp] theorem frzFrom_addItem (s : State) (i : Nat) (it : NItem) : (State.addItem s i it).frzFrom = s.frzFrom := addItem_only s i it .frzFrom (by decide)
@[simp] theorem commitDue_addItem (s : State) (i : Nat) (it : NItem) : (State.addItem s i it).commitDue = s.commitDue := addItem_only s i it .commitDue (by decide)
@[simp] theorem mbx_addItem (s : State) (i : Nat) (it : NItem) : (State.addItem s i it).mbx = s.mbx := addItem_only s i it .mbx (by decide)
@[simp] theorem icu_addItem (s : State) (i : Nat) (it : NItem) : (State.addItem s i it).icu = s.icu := addItem_only s i it .icu (by decide)
@[simp] theorem evr_addItem (s : State) (i : Nat) (it : NItem) : (State.addItem s i it).evr = s.evr := addItem_only s i it .evr (by decide)
@[simp] theorem seq_addItem (s : State) (i : Nat) (it : NItem) : (State.addItem s i it).seq = s.seq := addItem_only s i it .seq (by decide)
@[simp] theorem cpe_addItem (s : State) (i : Nat) (it : NItem) : (State.addItem s i it).cpe = s.cpe := addItem_only s i it .cpe (by decide)
@[simp] theorem time_addItem (s : State) (i : Nat) (it : NItem) : (State.addItem s i it).time = s.time := addItem_only s i it .time (by decide)
@[simp] theorem model_addItem (s : State) (i : Nat) (it : NItem) : (State.addItem s i it).model = s.model := addItem_only s i it .model (by decide)
@[simp] theorem opt_addItem (s : State) (i : Nat) (it : NItem) : (State.addItem s i it).opt = s.opt := addItem_only s i it .opt (by decide)
@[simp] theorem snet_addItem (s : State) (i : Nat) (it : NItem) : (State.addItem s i it).snet = s.snet := addItem_only s i it .snet (by decide)
@[simp] theorem can_addItem (s : State) (i : Nat) (it : NItem) : (State.addItem s i it).can = s.can := addItem_only s i it .can (by decide)
@[simp] theorem dio_addItem (s : State) (i : Nat) (it : NItem) : (State.addItem s i it).dio = s.dio := addItem_only s i it .dio (by decide)
@[simp] theorem adc_addItem (s : State) (i : Nat) (it : NItem) : (State.addItem s i it).adc = s.adc := addItem_only s i it .adc (by decide)
@[simp] theorem lnch_addItem (s : State) (i : Nat) (it : NItem) : (State.addItem s i it).lnch = s.lnch := addItem_only s i it .lnch (by decide)
@[simp] theorem priv_addItem (s : State) (i : Nat) (it : NItem) : (State.addItem s i it).priv = s.priv := addItem_only s i it .priv (by decide)
@[simp] theorem met_addItem (s : State) (i : Nat) (it : NItem) : (State.addItem s i it).met = s.met := addItem_only s i it .met (by decide)
@[simp] theorem metNv_addItem (s : State) (i : Nat) (it : NItem) : (State.addItem s i it).metNv = s.metNv := addItem_only s i it .metNv (by decide)
@[simp] theorem pwr_addItem (s : State) (i : Nat) (it : NItem) : (State.addItem s i it).pwr = s.pwr := addItem_only s i it .pwr (by decide)
@[simp] theorem cpeNv_addItem (s : State) (i : Nat) (it : NItem) : (State.addItem s i it).cpeNv = s.cpeNv := addItem_only s i it .cpeNv (by decide)
@[simp] theorem loop_addItem (s : State) (i : Nat) (it : NItem) : (State.addItem s i it).loop = s.loop := addItem_only s i it .loop (by decide)
@[simp] theorem twin_addItem (s : State) (i : Nat) (it : NItem) : (State.addItem s i it).twin = s.twin := addItem_only s i it .twin (by decide)
@[simp] theorem segs_addItem (s : State) (i : Nat) (it : NItem) : (State.addItem s i it).segs = s.segs := addItem_only s i it .segs (by decide)
@[simp] theorem keys_addItem (s : State) (i : Nat) (it : NItem) : (State.addItem s i it).keys = s.keys := addItem_only s i it .keys (by decide)
@[simp] theorem cfg_addItem (s : State) (i : Nat) (it : NItem) : (State.addItem s i it).cfg = s.cfg := addItem_only s i it .cfg (by decide)
@[simp] theorem dev_addItem (s : State) (i : Nat) (it : NItem) : (State.addItem s i it).dev = s.dev := addItem_only s i it .dev (by decide)
@[simp] theorem sent_addItem (s : State) (i : Nat) (it : NItem) : (State.addItem s i it).sent = s.sent := addItem_only s i it .sent (by decide)
@[simp] theorem free_addItem (s : State) (i : Nat) (it : NItem) : (State.addItem s i it).free = s.free := addItem_only s i it .free (by decide)
@[simp] theorem pending_addItem (s : State) (i : Nat) (it : NItem) : (State.addItem s i it).pending = s.pending := (addItem_keeps (T := [.items]) (Keeps.refl _ s) (by decide)).pending
@[simp] theorem still_addItem (s : State) (i : Nat) (it : NItem) : (State.addItem s i it).host.still = s.host.still := addItem_only s i it .host (by decide)
@[simp] theorem rd_addItem (s : State) (i : Nat) (it : NItem) (x : Nat) : (State.addItem s i it).rd x = s.rd x := by simp [State.rd]
@[simp] theorem fld_addItem (s : State) (i : Nat) (it : NItem) (x : Fld) : (State.addItem s i it).fld x = s.fld x := by simp [State.fld]
@[simp] theorem bit_addItem (s : State) (i : Nat) (it : NItem) (x : Fld) : (State.addItem s i it).bit x = s.bit x := by simp [State.bit]
@[simp] theorem trd_addItem (s : State) (i : Nat) (it : NItem) (x y z : Nat) : (State.addItem s i it).trd x y z = s.trd x y z := by simp [State.trd]
@[simp] theorem tfld_addItem (s : State) (i : Nat) (it : NItem) (x y z u w_ : Nat) : (State.addItem s i it).tfld x y z u w_ = s.tfld x y z u w_ := by simp [State.tfld]

theorem noteEv_only (s : State) (p : Nat) (b : Nat) (was : Bool) : s.onlyIn (State.noteEv s p b was) [.icu] := (noteEv_keeps (T := [.icu]) (Keeps.refl _ s) (List.Subset.refl _)).only
@[simp] theorem regs_noteEv (s : State) (p : Nat) (b : Nat) (was : Bool) : (State.noteEv s p b was).regs = s.regs := noteEv_only s p b was .regs (by decide)
@[simp] theorem vis_noteEv (s : State) (p : Nat) (b : Nat) (was : Bool) : (State.noteEv s p b was).vis = s.vis := noteEv_only s p b was .vis (by decide)
@[simp] theorem shadow_noteEv (s : State) (p : Nat) (b : Nat) (was : Bool) : (State.noteEv s p b was).shadow = s.shadow := noteEv_only s p b was .shadow (by decide)
@[simp] theorem tbl_noteEv (s : State) (p : Nat) (b : Nat) (was : Bool) : (State.noteEv s p b was).tbl = s.tbl := noteEv_only s p b was .tbl (by decide)
@[simp] theorem tshadow_noteEv (s : State) (p : Nat) (b : Nat) (was : Bool) : (State.noteEv s p b was).tshadow = s.tshadow := noteEv_only s p b was .tshadow (by decide)
@[simp] theorem frzFrom_noteEv (s : State) (p : Nat) (b : Nat) (was : Bool) : (State.noteEv s p b was).frzFrom = s.frzFrom := noteEv_only s p b was .frzFrom (by decide)
@[simp] theorem commitDue_noteEv (s : State) (p : Nat) (b : Nat) (was : Bool) : (State.noteEv s p b was).commitDue = s.commitDue := noteEv_only s p b was .commitDue (by decide)
@[simp] theorem mbx_noteEv (s : State) (p : Nat) (b : Nat) (was : Bool) : (State.noteEv s p b was).mbx = s.mbx := noteEv_only s p b was .mbx (by decide)
@[simp] theorem host_noteEv (s : State) (p : Nat) (b : Nat) (was : Bool) : (State.noteEv s p b was).host = s.host := noteEv_only s p b was .items (by decide)
@[simp] theorem evr_noteEv (s : State) (p : Nat) (b : Nat) (was : Bool) : (State.noteEv s p b was).evr = s.evr := noteEv_only s p b was .evr (by decide)
@[simp] theorem seq_noteEv (s : State) (p : Nat) (b : Nat) (was : Bool) : (State.noteEv s p b was).seq = s.seq := noteEv_only s p b was .seq (by decide)
@[simp] theorem cpe_noteEv (s : State) (p : Nat) (b : Nat) (was : Bool) : (State.noteEv s p b was).cpe = s.cpe := noteEv_only s p b was .cpe (by decide)
@[simp] theorem time_noteEv (s : State) (p : Nat) (b : Nat) (was : Bool) : (State.noteEv s p b was).time = s.time := noteEv_only s p b was .time (by decide)
@[simp] theorem model_noteEv (s : State) (p : Nat) (b : Nat) (was : Bool) : (State.noteEv s p b was).model = s.model := noteEv_only s p b was .model (by decide)
@[simp] theorem opt_noteEv (s : State) (p : Nat) (b : Nat) (was : Bool) : (State.noteEv s p b was).opt = s.opt := noteEv_only s p b was .opt (by decide)
@[simp] theorem snet_noteEv (s : State) (p : Nat) (b : Nat) (was : Bool) : (State.noteEv s p b was).snet = s.snet := noteEv_only s p b was .snet (by decide)
@[simp] theorem can_noteEv (s : State) (p : Nat) (b : Nat) (was : Bool) : (State.noteEv s p b was).can = s.can := noteEv_only s p b was .can (by decide)
@[simp] theorem dio_noteEv (s : State) (p : Nat) (b : Nat) (was : Bool) : (State.noteEv s p b was).dio = s.dio := noteEv_only s p b was .dio (by decide)
@[simp] theorem adc_noteEv (s : State) (p : Nat) (b : Nat) (was : Bool) : (State.noteEv s p b was).adc = s.adc := noteEv_only s p b was .adc (by decide)
@[simp] theorem lnch_noteEv (s : State) (p : Nat) (b : Nat) (was : Bool) : (State.noteEv s p b was).lnch = s.lnch := noteEv_only s p b was .lnch (by decide)
@[simp] theorem priv_noteEv (s : State) (p : Nat) (b : Nat) (was : Bool) : (State.noteEv s p b was).priv = s.priv := noteEv_only s p b was .priv (by decide)
@[simp] theorem met_noteEv (s : State) (p : Nat) (b : Nat) (was : Bool) : (State.noteEv s p b was).met = s.met := noteEv_only s p b was .met (by decide)
@[simp] theorem metNv_noteEv (s : State) (p : Nat) (b : Nat) (was : Bool) : (State.noteEv s p b was).metNv = s.metNv := noteEv_only s p b was .metNv (by decide)
@[simp] theorem pwr_noteEv (s : State) (p : Nat) (b : Nat) (was : Bool) : (State.noteEv s p b was).pwr = s.pwr := noteEv_only s p b was .pwr (by decide)
@[simp] theorem cpeNv_noteEv (s : State) (p : Nat) (b : Nat) (was : Bool) : (State.noteEv s p b was).cpeNv = s.cpeNv := noteEv_only s p b was .cpeNv (by decide)
@[simp] theorem loop_noteEv (s : State) (p : Nat) (b : Nat) (was : Bool) : (State.noteEv s p b was).loop = s.loop := noteEv_only s p b was .loop (by decide)
@[simp] theorem twin_noteEv (s : State) (p : Nat) (b : Nat) (was : Bool) : (State.noteEv s p b was).twin = s.twin := noteEv_only s p b was .twin (by decide)
@[simp] theorem segs_noteEv (s : State) (p : Nat) (b : Nat) (was : Bool) : (State.noteEv s p b was).segs = s.segs := noteEv_only s p b was .segs (by decide)
@[simp] theorem keys_noteEv (s : State) (p : Nat) (b : Nat) (was : Bool) : (State.noteEv s p b was).keys = s.keys := noteEv_only s p b was .keys (by decide)
@[simp] theorem cfg_noteEv (s : State) (p : Nat) (b : Nat) (was : Bool) : (State.noteEv s p b was).cfg = s.cfg := noteEv_only s p b was .cfg (by decide)
@[simp] theorem dev_noteEv (s : State) (p : Nat) (b : Nat) (was : Bool) : (State.noteEv s p b was).dev = s.dev := noteEv_only s p b was .dev (by decide)
@[simp] theorem sent_noteEv (s : State) (p : Nat) (b : Nat) (was : Bool) : (State.noteEv s p b was).sent = s.sent := noteEv_only s p b was .sent (by decide)
@[simp] theorem free_noteEv (s : State) (p : Nat) (b : Nat) (was : Bool) : (State.noteEv s p b was).free = s.free := noteEv_only s p b was .free (by decide)
@[simp] theorem pending_noteEv (s : State) (p : Nat) (b : Nat) (was : Bool) : (State.noteEv s p b was).pending = s.pending := (noteEv_keeps (T := [.icu]) (Keeps.refl _ s) (List.Subset.refl _)).pending
@[simp] theorem rd_noteEv (s : State) (p : Nat) (b : Nat) (was : Bool) (x : Nat) : (State.noteEv s p b was).rd x = s.rd x := by simp [State.rd]
@[simp] theorem fld_noteEv (s : State) (p : Nat) (b : Nat) (was : Bool) (x : Fld) : (State.noteEv s p b was).fld x = s.fld x := by simp [State.fld]
@[simp] theorem bit_noteEv (s : State) (p : Nat) (b : Nat) (was : Bool) (x : Fld) : (State.noteEv s p b was).bit x = s.bit x := by simp [State.bit]
@[simp] theorem trd_noteEv (s : State) (p : Nat) (b : Nat) (was : Bool) (x y z : Nat) : (State.noteEv s p b was).trd x y z = s.trd x y z := by simp [State.trd]
@[simp] theorem tfld_noteEv (s : State) (p : Nat) (b : Nat) (was : Bool) (x y z u w_ : Nat) : (State.noteEv s p b was).tfld x y z u w_ = s.tfld x y z u w_ := by simp [State.tfld]

theorem ackBy_only (s : State) (unit : Nat) : s.onlyIn (State.ackBy s unit) [.seq] := (ackBy_keeps (T := [.seq]) (Keeps.refl _ s) (List.Subset.refl _)).only
@[simp] theorem regs_ackBy (s : State) (unit : Nat) : (State.ackBy s unit).regs = s.regs := ackBy_only s unit .regs (by decide)
@[simp] theorem vis_ackBy (s : State) (unit : Nat) : (State.ackBy s unit).vis = s.vis := ackBy_only s unit .vis (by decide)
@[simp] theorem shadow_ackBy (s : State) (unit : Nat) : (State.ackBy s unit).shadow = s.shadow := ackBy_only s unit .shadow (by decide)
@[simp] theorem tbl_ackBy (s : State) (unit : Nat) : (State.ackBy s unit).tbl = s.tbl := ackBy_only s unit .tbl (by decide)
@[simp] theorem tshadow_ackBy (s : State) (unit : Nat) : (State.ackBy s unit).tshadow = s.tshadow := ackBy_only s unit .tshadow (by decide)
@[simp] theorem frzFrom_ackBy (s : State) (unit : Nat) : (State.ackBy s unit).frzFrom = s.frzFrom := ackBy_only s unit .frzFrom (by decide)
@[simp] theorem commitDue_ackBy (s : State) (unit : Nat) : (State.ackBy s unit).commitDue = s.commitDue := ackBy_only s unit .commitDue (by decide)
@[simp] theorem mbx_ackBy (s : State) (unit : Nat) : (State.ackBy s unit).mbx = s.mbx := ackBy_only s unit .mbx (by decide)
@[simp] theorem host_ackBy (s : State) (unit : Nat) : (State.ackBy s unit).host = s.host := ackBy_only s unit .items (by decide)
@[simp] theorem icu_ackBy (s : State) (unit : Nat) : (State.ackBy s unit).icu = s.icu := ackBy_only s unit .icu (by decide)
@[simp] theorem evr_ackBy (s : State) (unit : Nat) : (State.ackBy s unit).evr = s.evr := ackBy_only s unit .evr (by decide)
@[simp] theorem cpe_ackBy (s : State) (unit : Nat) : (State.ackBy s unit).cpe = s.cpe := ackBy_only s unit .cpe (by decide)
@[simp] theorem time_ackBy (s : State) (unit : Nat) : (State.ackBy s unit).time = s.time := ackBy_only s unit .time (by decide)
@[simp] theorem model_ackBy (s : State) (unit : Nat) : (State.ackBy s unit).model = s.model := ackBy_only s unit .model (by decide)
@[simp] theorem opt_ackBy (s : State) (unit : Nat) : (State.ackBy s unit).opt = s.opt := ackBy_only s unit .opt (by decide)
@[simp] theorem snet_ackBy (s : State) (unit : Nat) : (State.ackBy s unit).snet = s.snet := ackBy_only s unit .snet (by decide)
@[simp] theorem can_ackBy (s : State) (unit : Nat) : (State.ackBy s unit).can = s.can := ackBy_only s unit .can (by decide)
@[simp] theorem dio_ackBy (s : State) (unit : Nat) : (State.ackBy s unit).dio = s.dio := ackBy_only s unit .dio (by decide)
@[simp] theorem adc_ackBy (s : State) (unit : Nat) : (State.ackBy s unit).adc = s.adc := ackBy_only s unit .adc (by decide)
@[simp] theorem lnch_ackBy (s : State) (unit : Nat) : (State.ackBy s unit).lnch = s.lnch := ackBy_only s unit .lnch (by decide)
@[simp] theorem priv_ackBy (s : State) (unit : Nat) : (State.ackBy s unit).priv = s.priv := ackBy_only s unit .priv (by decide)
@[simp] theorem met_ackBy (s : State) (unit : Nat) : (State.ackBy s unit).met = s.met := ackBy_only s unit .met (by decide)
@[simp] theorem metNv_ackBy (s : State) (unit : Nat) : (State.ackBy s unit).metNv = s.metNv := ackBy_only s unit .metNv (by decide)
@[simp] theorem pwr_ackBy (s : State) (unit : Nat) : (State.ackBy s unit).pwr = s.pwr := ackBy_only s unit .pwr (by decide)
@[simp] theorem cpeNv_ackBy (s : State) (unit : Nat) : (State.ackBy s unit).cpeNv = s.cpeNv := ackBy_only s unit .cpeNv (by decide)
@[simp] theorem loop_ackBy (s : State) (unit : Nat) : (State.ackBy s unit).loop = s.loop := ackBy_only s unit .loop (by decide)
@[simp] theorem twin_ackBy (s : State) (unit : Nat) : (State.ackBy s unit).twin = s.twin := ackBy_only s unit .twin (by decide)
@[simp] theorem segs_ackBy (s : State) (unit : Nat) : (State.ackBy s unit).segs = s.segs := ackBy_only s unit .segs (by decide)
@[simp] theorem keys_ackBy (s : State) (unit : Nat) : (State.ackBy s unit).keys = s.keys := ackBy_only s unit .keys (by decide)
@[simp] theorem cfg_ackBy (s : State) (unit : Nat) : (State.ackBy s unit).cfg = s.cfg := ackBy_only s unit .cfg (by decide)
@[simp] theorem dev_ackBy (s : State) (unit : Nat) : (State.ackBy s unit).dev = s.dev := ackBy_only s unit .dev (by decide)
@[simp] theorem sent_ackBy (s : State) (unit : Nat) : (State.ackBy s unit).sent = s.sent := ackBy_only s unit .sent (by decide)
@[simp] theorem free_ackBy (s : State) (unit : Nat) : (State.ackBy s unit).free = s.free := ackBy_only s unit .free (by decide)
@[simp] theorem pending_ackBy (s : State) (unit : Nat) : (State.ackBy s unit).pending = s.pending := (ackBy_keeps (T := [.seq]) (Keeps.refl _ s) (List.Subset.refl _)).pending
@[simp] theorem rd_ackBy (s : State) (unit : Nat) (x : Nat) : (State.ackBy s unit).rd x = s.rd x := by simp [State.rd]
@[simp] theorem fld_ackBy (s : State) (unit : Nat) (x : Fld) : (State.ackBy s unit).fld x = s.fld x := by simp [State.fld]
@[simp] theorem bit_ackBy (s : State) (unit : Nat) (x : Fld) : (State.ackBy s unit).bit x = s.bit x := by simp [State.bit]
@[simp] theorem trd_ackBy (s : State) (unit : Nat) (x y z : Nat) : (State.ackBy s unit).trd x y z = s.trd x y z := by simp [State.trd]
@[simp] theorem tfld_ackBy (s : State) (unit : Nat) (x y z u w_ : Nat) : (State.ackBy s unit).tfld x y z u w_ = s.tfld x y z u w_ := by simp [State.tfld]

theorem passEntry_only (s : State) : s.onlyIn (State.passEntry s) [.seq] := (passEntry_keeps (T := [.seq]) (Keeps.refl _ s) (List.Subset.refl _)).only
@[simp] theorem regs_passEntry (s : State) : (State.passEntry s).regs = s.regs := passEntry_only s .regs (by decide)
@[simp] theorem vis_passEntry (s : State) : (State.passEntry s).vis = s.vis := passEntry_only s .vis (by decide)
@[simp] theorem shadow_passEntry (s : State) : (State.passEntry s).shadow = s.shadow := passEntry_only s .shadow (by decide)
@[simp] theorem tbl_passEntry (s : State) : (State.passEntry s).tbl = s.tbl := passEntry_only s .tbl (by decide)
@[simp] theorem tshadow_passEntry (s : State) : (State.passEntry s).tshadow = s.tshadow := passEntry_only s .tshadow (by decide)
@[simp] theorem frzFrom_passEntry (s : State) : (State.passEntry s).frzFrom = s.frzFrom := passEntry_only s .frzFrom (by decide)
@[simp] theorem commitDue_passEntry (s : State) : (State.passEntry s).commitDue = s.commitDue := passEntry_only s .commitDue (by decide)
@[simp] theorem mbx_passEntry (s : State) : (State.passEntry s).mbx = s.mbx := passEntry_only s .mbx (by decide)
@[simp] theorem host_passEntry (s : State) : (State.passEntry s).host = s.host := passEntry_only s .items (by decide)
@[simp] theorem icu_passEntry (s : State) : (State.passEntry s).icu = s.icu := passEntry_only s .icu (by decide)
@[simp] theorem evr_passEntry (s : State) : (State.passEntry s).evr = s.evr := passEntry_only s .evr (by decide)
@[simp] theorem cpe_passEntry (s : State) : (State.passEntry s).cpe = s.cpe := passEntry_only s .cpe (by decide)
@[simp] theorem time_passEntry (s : State) : (State.passEntry s).time = s.time := passEntry_only s .time (by decide)
@[simp] theorem model_passEntry (s : State) : (State.passEntry s).model = s.model := passEntry_only s .model (by decide)
@[simp] theorem opt_passEntry (s : State) : (State.passEntry s).opt = s.opt := passEntry_only s .opt (by decide)
@[simp] theorem snet_passEntry (s : State) : (State.passEntry s).snet = s.snet := passEntry_only s .snet (by decide)
@[simp] theorem can_passEntry (s : State) : (State.passEntry s).can = s.can := passEntry_only s .can (by decide)
@[simp] theorem dio_passEntry (s : State) : (State.passEntry s).dio = s.dio := passEntry_only s .dio (by decide)
@[simp] theorem adc_passEntry (s : State) : (State.passEntry s).adc = s.adc := passEntry_only s .adc (by decide)
@[simp] theorem lnch_passEntry (s : State) : (State.passEntry s).lnch = s.lnch := passEntry_only s .lnch (by decide)
@[simp] theorem priv_passEntry (s : State) : (State.passEntry s).priv = s.priv := passEntry_only s .priv (by decide)
@[simp] theorem met_passEntry (s : State) : (State.passEntry s).met = s.met := passEntry_only s .met (by decide)
@[simp] theorem metNv_passEntry (s : State) : (State.passEntry s).metNv = s.metNv := passEntry_only s .metNv (by decide)
@[simp] theorem pwr_passEntry (s : State) : (State.passEntry s).pwr = s.pwr := passEntry_only s .pwr (by decide)
@[simp] theorem cpeNv_passEntry (s : State) : (State.passEntry s).cpeNv = s.cpeNv := passEntry_only s .cpeNv (by decide)
@[simp] theorem loop_passEntry (s : State) : (State.passEntry s).loop = s.loop := passEntry_only s .loop (by decide)
@[simp] theorem twin_passEntry (s : State) : (State.passEntry s).twin = s.twin := passEntry_only s .twin (by decide)
@[simp] theorem segs_passEntry (s : State) : (State.passEntry s).segs = s.segs := passEntry_only s .segs (by decide)
@[simp] theorem keys_passEntry (s : State) : (State.passEntry s).keys = s.keys := passEntry_only s .keys (by decide)
@[simp] theorem cfg_passEntry (s : State) : (State.passEntry s).cfg = s.cfg := passEntry_only s .cfg (by decide)
@[simp] theorem dev_passEntry (s : State) : (State.passEntry s).dev = s.dev := passEntry_only s .dev (by decide)
@[simp] theorem sent_passEntry (s : State) : (State.passEntry s).sent = s.sent := passEntry_only s .sent (by decide)
@[simp] theorem free_passEntry (s : State) : (State.passEntry s).free = s.free := passEntry_only s .free (by decide)
@[simp] theorem pending_passEntry (s : State) : (State.passEntry s).pending = s.pending := (passEntry_keeps (T := [.seq]) (Keeps.refl _ s) (List.Subset.refl _)).pending
@[simp] theorem rd_passEntry (s : State) (x : Nat) : (State.passEntry s).rd x = s.rd x := by simp [State.rd]
@[simp] theorem fld_passEntry (s : State) (x : Fld) : (State.passEntry s).fld x = s.fld x := by simp [State.fld]
@[simp] theorem bit_passEntry (s : State) (x : Fld) : (State.passEntry s).bit x = s.bit x := by simp [State.bit]
@[simp] theorem trd_passEntry (s : State) (x y z : Nat) : (State.passEntry s).trd x y z = s.trd x y z := by simp [State.trd]
@[simp] theorem tfld_passEntry (s : State) (x y z u w_ : Nat) : (State.passEntry s).tfld x y z u w_ = s.tfld x y z u w_ := by simp [State.tfld]

theorem mbxPutsNext_only (s : State) (n : Nat) (i : Nat) (a__internal_hyg0 : List Item) : s.onlyIn (State.mbxPutsNext s n i a__internal_hyg0) [.mbx] := (mbxPutsNext_keeps (T := [.mbx]) (Keeps.refl _ s) (List.Subset.refl _)).only
@[simp] theorem regs_mbxPutsNext (s : State) (n : Nat) (i : Nat) (a__internal_hyg0 : List Item) : (State.mbxPutsNext s n i a__internal_hyg0).regs = s.regs := mbxPutsNext_only s n i a__internal_hyg0 .regs (by decide)
@[simp] theorem vis_mbxPutsNext (s : State) (n : Nat) (i : Nat) (a__internal_hyg0 : List Item) : (State.mbxPutsNext s n i a__internal_hyg0).vis = s.vis := mbxPutsNext_only s n i a__internal_hyg0 .vis (by decide)
@[simp] theorem shadow_mbxPutsNext (s : State) (n : Nat) (i : Nat) (a__internal_hyg0 : List Item) : (State.mbxPutsNext s n i a__internal_hyg0).shadow = s.shadow := mbxPutsNext_only s n i a__internal_hyg0 .shadow (by decide)
@[simp] theorem tbl_mbxPutsNext (s : State) (n : Nat) (i : Nat) (a__internal_hyg0 : List Item) : (State.mbxPutsNext s n i a__internal_hyg0).tbl = s.tbl := mbxPutsNext_only s n i a__internal_hyg0 .tbl (by decide)
@[simp] theorem tshadow_mbxPutsNext (s : State) (n : Nat) (i : Nat) (a__internal_hyg0 : List Item) : (State.mbxPutsNext s n i a__internal_hyg0).tshadow = s.tshadow := mbxPutsNext_only s n i a__internal_hyg0 .tshadow (by decide)
@[simp] theorem frzFrom_mbxPutsNext (s : State) (n : Nat) (i : Nat) (a__internal_hyg0 : List Item) : (State.mbxPutsNext s n i a__internal_hyg0).frzFrom = s.frzFrom := mbxPutsNext_only s n i a__internal_hyg0 .frzFrom (by decide)
@[simp] theorem commitDue_mbxPutsNext (s : State) (n : Nat) (i : Nat) (a__internal_hyg0 : List Item) : (State.mbxPutsNext s n i a__internal_hyg0).commitDue = s.commitDue := mbxPutsNext_only s n i a__internal_hyg0 .commitDue (by decide)
@[simp] theorem host_mbxPutsNext (s : State) (n : Nat) (i : Nat) (a__internal_hyg0 : List Item) : (State.mbxPutsNext s n i a__internal_hyg0).host = s.host := mbxPutsNext_only s n i a__internal_hyg0 .items (by decide)
@[simp] theorem icu_mbxPutsNext (s : State) (n : Nat) (i : Nat) (a__internal_hyg0 : List Item) : (State.mbxPutsNext s n i a__internal_hyg0).icu = s.icu := mbxPutsNext_only s n i a__internal_hyg0 .icu (by decide)
@[simp] theorem evr_mbxPutsNext (s : State) (n : Nat) (i : Nat) (a__internal_hyg0 : List Item) : (State.mbxPutsNext s n i a__internal_hyg0).evr = s.evr := mbxPutsNext_only s n i a__internal_hyg0 .evr (by decide)
@[simp] theorem seq_mbxPutsNext (s : State) (n : Nat) (i : Nat) (a__internal_hyg0 : List Item) : (State.mbxPutsNext s n i a__internal_hyg0).seq = s.seq := mbxPutsNext_only s n i a__internal_hyg0 .seq (by decide)
@[simp] theorem cpe_mbxPutsNext (s : State) (n : Nat) (i : Nat) (a__internal_hyg0 : List Item) : (State.mbxPutsNext s n i a__internal_hyg0).cpe = s.cpe := mbxPutsNext_only s n i a__internal_hyg0 .cpe (by decide)
@[simp] theorem time_mbxPutsNext (s : State) (n : Nat) (i : Nat) (a__internal_hyg0 : List Item) : (State.mbxPutsNext s n i a__internal_hyg0).time = s.time := mbxPutsNext_only s n i a__internal_hyg0 .time (by decide)
@[simp] theorem model_mbxPutsNext (s : State) (n : Nat) (i : Nat) (a__internal_hyg0 : List Item) : (State.mbxPutsNext s n i a__internal_hyg0).model = s.model := mbxPutsNext_only s n i a__internal_hyg0 .model (by decide)
@[simp] theorem opt_mbxPutsNext (s : State) (n : Nat) (i : Nat) (a__internal_hyg0 : List Item) : (State.mbxPutsNext s n i a__internal_hyg0).opt = s.opt := mbxPutsNext_only s n i a__internal_hyg0 .opt (by decide)
@[simp] theorem snet_mbxPutsNext (s : State) (n : Nat) (i : Nat) (a__internal_hyg0 : List Item) : (State.mbxPutsNext s n i a__internal_hyg0).snet = s.snet := mbxPutsNext_only s n i a__internal_hyg0 .snet (by decide)
@[simp] theorem can_mbxPutsNext (s : State) (n : Nat) (i : Nat) (a__internal_hyg0 : List Item) : (State.mbxPutsNext s n i a__internal_hyg0).can = s.can := mbxPutsNext_only s n i a__internal_hyg0 .can (by decide)
@[simp] theorem dio_mbxPutsNext (s : State) (n : Nat) (i : Nat) (a__internal_hyg0 : List Item) : (State.mbxPutsNext s n i a__internal_hyg0).dio = s.dio := mbxPutsNext_only s n i a__internal_hyg0 .dio (by decide)
@[simp] theorem adc_mbxPutsNext (s : State) (n : Nat) (i : Nat) (a__internal_hyg0 : List Item) : (State.mbxPutsNext s n i a__internal_hyg0).adc = s.adc := mbxPutsNext_only s n i a__internal_hyg0 .adc (by decide)
@[simp] theorem lnch_mbxPutsNext (s : State) (n : Nat) (i : Nat) (a__internal_hyg0 : List Item) : (State.mbxPutsNext s n i a__internal_hyg0).lnch = s.lnch := mbxPutsNext_only s n i a__internal_hyg0 .lnch (by decide)
@[simp] theorem priv_mbxPutsNext (s : State) (n : Nat) (i : Nat) (a__internal_hyg0 : List Item) : (State.mbxPutsNext s n i a__internal_hyg0).priv = s.priv := mbxPutsNext_only s n i a__internal_hyg0 .priv (by decide)
@[simp] theorem met_mbxPutsNext (s : State) (n : Nat) (i : Nat) (a__internal_hyg0 : List Item) : (State.mbxPutsNext s n i a__internal_hyg0).met = s.met := mbxPutsNext_only s n i a__internal_hyg0 .met (by decide)
@[simp] theorem metNv_mbxPutsNext (s : State) (n : Nat) (i : Nat) (a__internal_hyg0 : List Item) : (State.mbxPutsNext s n i a__internal_hyg0).metNv = s.metNv := mbxPutsNext_only s n i a__internal_hyg0 .metNv (by decide)
@[simp] theorem pwr_mbxPutsNext (s : State) (n : Nat) (i : Nat) (a__internal_hyg0 : List Item) : (State.mbxPutsNext s n i a__internal_hyg0).pwr = s.pwr := mbxPutsNext_only s n i a__internal_hyg0 .pwr (by decide)
@[simp] theorem cpeNv_mbxPutsNext (s : State) (n : Nat) (i : Nat) (a__internal_hyg0 : List Item) : (State.mbxPutsNext s n i a__internal_hyg0).cpeNv = s.cpeNv := mbxPutsNext_only s n i a__internal_hyg0 .cpeNv (by decide)
@[simp] theorem loop_mbxPutsNext (s : State) (n : Nat) (i : Nat) (a__internal_hyg0 : List Item) : (State.mbxPutsNext s n i a__internal_hyg0).loop = s.loop := mbxPutsNext_only s n i a__internal_hyg0 .loop (by decide)
@[simp] theorem twin_mbxPutsNext (s : State) (n : Nat) (i : Nat) (a__internal_hyg0 : List Item) : (State.mbxPutsNext s n i a__internal_hyg0).twin = s.twin := mbxPutsNext_only s n i a__internal_hyg0 .twin (by decide)
@[simp] theorem segs_mbxPutsNext (s : State) (n : Nat) (i : Nat) (a__internal_hyg0 : List Item) : (State.mbxPutsNext s n i a__internal_hyg0).segs = s.segs := mbxPutsNext_only s n i a__internal_hyg0 .segs (by decide)
@[simp] theorem keys_mbxPutsNext (s : State) (n : Nat) (i : Nat) (a__internal_hyg0 : List Item) : (State.mbxPutsNext s n i a__internal_hyg0).keys = s.keys := mbxPutsNext_only s n i a__internal_hyg0 .keys (by decide)
@[simp] theorem cfg_mbxPutsNext (s : State) (n : Nat) (i : Nat) (a__internal_hyg0 : List Item) : (State.mbxPutsNext s n i a__internal_hyg0).cfg = s.cfg := mbxPutsNext_only s n i a__internal_hyg0 .cfg (by decide)
@[simp] theorem dev_mbxPutsNext (s : State) (n : Nat) (i : Nat) (a__internal_hyg0 : List Item) : (State.mbxPutsNext s n i a__internal_hyg0).dev = s.dev := mbxPutsNext_only s n i a__internal_hyg0 .dev (by decide)
@[simp] theorem sent_mbxPutsNext (s : State) (n : Nat) (i : Nat) (a__internal_hyg0 : List Item) : (State.mbxPutsNext s n i a__internal_hyg0).sent = s.sent := mbxPutsNext_only s n i a__internal_hyg0 .sent (by decide)
@[simp] theorem free_mbxPutsNext (s : State) (n : Nat) (i : Nat) (a__internal_hyg0 : List Item) : (State.mbxPutsNext s n i a__internal_hyg0).free = s.free := mbxPutsNext_only s n i a__internal_hyg0 .free (by decide)
@[simp] theorem pending_mbxPutsNext (s : State) (n : Nat) (i : Nat) (a__internal_hyg0 : List Item) : (State.mbxPutsNext s n i a__internal_hyg0).pending = s.pending := (mbxPutsNext_keeps (T := [.mbx]) (Keeps.refl _ s) (List.Subset.refl _)).pending
@[simp] theorem rd_mbxPutsNext (s : State) (n : Nat) (i : Nat) (a__internal_hyg0 : List Item) (x : Nat) : (State.mbxPutsNext s n i a__internal_hyg0).rd x = s.rd x := by simp [State.rd]
@[simp] theorem fld_mbxPutsNext (s : State) (n : Nat) (i : Nat) (a__internal_hyg0 : List Item) (x : Fld) : (State.mbxPutsNext s n i a__internal_hyg0).fld x = s.fld x := by simp [State.fld]
@[simp] theorem bit_mbxPutsNext (s : State) (n : Nat) (i : Nat) (a__internal_hyg0 : List Item) (x : Fld) : (State.mbxPutsNext s n i a__internal_hyg0).bit x = s.bit x := by simp [State.bit]
@[simp] theorem trd_mbxPutsNext (s : State) (n : Nat) (i : Nat) (a__internal_hyg0 : List Item) (x y z : Nat) : (State.mbxPutsNext s n i a__internal_hyg0).trd x y z = s.trd x y z := by simp [State.trd]
@[simp] theorem tfld_mbxPutsNext (s : State) (n : Nat) (i : Nat) (a__internal_hyg0 : List Item) (x y z u w_ : Nat) : (State.mbxPutsNext s n i a__internal_hyg0).tfld x y z u w_ = s.tfld x y z u w_ := by simp [State.tfld]

theorem fwPuts_only (s : State) (eng : Nat) (n : Nat) (i : Nat) (its : List Item) : s.onlyIn (State.fwPuts s eng n i its) [.regs, .tbl, .mbx, .items, .icu, .evr, .dio, .dev] := (fwPuts_keeps (T := [.regs, .tbl, .mbx, .items, .icu, .evr, .dio, .dev]) (Keeps.refl _ s) (by decide)).only
@[simp] theorem vis_fwPuts (s : State) (eng : Nat) (n : Nat) (i : Nat) (its : List Item) : (State.fwPuts s eng n i its).vis = s.vis := fwPuts_only s eng n i its .vis (by decide)
@[simp] theorem shadow_fwPuts (s : State) (eng : Nat) (n : Nat) (i : Nat) (its : List Item) : (State.fwPuts s eng n i its).shadow = s.shadow := fwPuts_only s eng n i its .shadow (by decide)
@[simp] theorem tshadow_fwPuts (s : State) (eng : Nat) (n : Nat) (i : Nat) (its : List Item) : (State.fwPuts s eng n i its).tshadow = s.tshadow := fwPuts_only s eng n i its .tshadow (by decide)
@[simp] theorem frzFrom_fwPuts (s : State) (eng : Nat) (n : Nat) (i : Nat) (its : List Item) : (State.fwPuts s eng n i its).frzFrom = s.frzFrom := fwPuts_only s eng n i its .frzFrom (by decide)
@[simp] theorem commitDue_fwPuts (s : State) (eng : Nat) (n : Nat) (i : Nat) (its : List Item) : (State.fwPuts s eng n i its).commitDue = s.commitDue := fwPuts_only s eng n i its .commitDue (by decide)
@[simp] theorem seq_fwPuts (s : State) (eng : Nat) (n : Nat) (i : Nat) (its : List Item) : (State.fwPuts s eng n i its).seq = s.seq := fwPuts_only s eng n i its .seq (by decide)
@[simp] theorem cpe_fwPuts (s : State) (eng : Nat) (n : Nat) (i : Nat) (its : List Item) : (State.fwPuts s eng n i its).cpe = s.cpe := fwPuts_only s eng n i its .cpe (by decide)
@[simp] theorem time_fwPuts (s : State) (eng : Nat) (n : Nat) (i : Nat) (its : List Item) : (State.fwPuts s eng n i its).time = s.time := fwPuts_only s eng n i its .time (by decide)
@[simp] theorem model_fwPuts (s : State) (eng : Nat) (n : Nat) (i : Nat) (its : List Item) : (State.fwPuts s eng n i its).model = s.model := fwPuts_only s eng n i its .model (by decide)
@[simp] theorem opt_fwPuts (s : State) (eng : Nat) (n : Nat) (i : Nat) (its : List Item) : (State.fwPuts s eng n i its).opt = s.opt := fwPuts_only s eng n i its .opt (by decide)
@[simp] theorem snet_fwPuts (s : State) (eng : Nat) (n : Nat) (i : Nat) (its : List Item) : (State.fwPuts s eng n i its).snet = s.snet := fwPuts_only s eng n i its .snet (by decide)
@[simp] theorem can_fwPuts (s : State) (eng : Nat) (n : Nat) (i : Nat) (its : List Item) : (State.fwPuts s eng n i its).can = s.can := fwPuts_only s eng n i its .can (by decide)
@[simp] theorem adc_fwPuts (s : State) (eng : Nat) (n : Nat) (i : Nat) (its : List Item) : (State.fwPuts s eng n i its).adc = s.adc := fwPuts_only s eng n i its .adc (by decide)
@[simp] theorem lnch_fwPuts (s : State) (eng : Nat) (n : Nat) (i : Nat) (its : List Item) : (State.fwPuts s eng n i its).lnch = s.lnch := fwPuts_only s eng n i its .lnch (by decide)
@[simp] theorem priv_fwPuts (s : State) (eng : Nat) (n : Nat) (i : Nat) (its : List Item) : (State.fwPuts s eng n i its).priv = s.priv := fwPuts_only s eng n i its .priv (by decide)
@[simp] theorem met_fwPuts (s : State) (eng : Nat) (n : Nat) (i : Nat) (its : List Item) : (State.fwPuts s eng n i its).met = s.met := fwPuts_only s eng n i its .met (by decide)
@[simp] theorem metNv_fwPuts (s : State) (eng : Nat) (n : Nat) (i : Nat) (its : List Item) : (State.fwPuts s eng n i its).metNv = s.metNv := fwPuts_only s eng n i its .metNv (by decide)
@[simp] theorem pwr_fwPuts (s : State) (eng : Nat) (n : Nat) (i : Nat) (its : List Item) : (State.fwPuts s eng n i its).pwr = s.pwr := fwPuts_only s eng n i its .pwr (by decide)
@[simp] theorem cpeNv_fwPuts (s : State) (eng : Nat) (n : Nat) (i : Nat) (its : List Item) : (State.fwPuts s eng n i its).cpeNv = s.cpeNv := fwPuts_only s eng n i its .cpeNv (by decide)
@[simp] theorem loop_fwPuts (s : State) (eng : Nat) (n : Nat) (i : Nat) (its : List Item) : (State.fwPuts s eng n i its).loop = s.loop := fwPuts_only s eng n i its .loop (by decide)
@[simp] theorem twin_fwPuts (s : State) (eng : Nat) (n : Nat) (i : Nat) (its : List Item) : (State.fwPuts s eng n i its).twin = s.twin := fwPuts_only s eng n i its .twin (by decide)
@[simp] theorem segs_fwPuts (s : State) (eng : Nat) (n : Nat) (i : Nat) (its : List Item) : (State.fwPuts s eng n i its).segs = s.segs := fwPuts_only s eng n i its .segs (by decide)
@[simp] theorem keys_fwPuts (s : State) (eng : Nat) (n : Nat) (i : Nat) (its : List Item) : (State.fwPuts s eng n i its).keys = s.keys := fwPuts_only s eng n i its .keys (by decide)
@[simp] theorem cfg_fwPuts (s : State) (eng : Nat) (n : Nat) (i : Nat) (its : List Item) : (State.fwPuts s eng n i its).cfg = s.cfg := fwPuts_only s eng n i its .cfg (by decide)
@[simp] theorem sent_fwPuts (s : State) (eng : Nat) (n : Nat) (i : Nat) (its : List Item) : (State.fwPuts s eng n i its).sent = s.sent := fwPuts_only s eng n i its .sent (by decide)
@[simp] theorem free_fwPuts (s : State) (eng : Nat) (n : Nat) (i : Nat) (its : List Item) : (State.fwPuts s eng n i its).free = s.free := fwPuts_only s eng n i its .free (by decide)
@[simp] theorem pending_fwPuts (s : State) (eng : Nat) (n : Nat) (i : Nat) (its : List Item) : (State.fwPuts s eng n i its).pending = s.pending := (fwPuts_keeps (T := [.regs, .tbl, .mbx, .items, .icu, .evr, .dio, .dev]) (Keeps.refl _ s) (by decide)).pending
@[simp] theorem still_fwPuts (s : State) (eng : Nat) (n : Nat) (i : Nat) (its : List Item) : (State.fwPuts s eng n i its).host.still = s.host.still := fwPuts_only s eng n i its .host (by decide)

theorem say_only (s : State) (svc : Bool) (m : OutMsg) : s.onlyIn (State.say s svc m) [.sent] := (say_keeps (T := [.sent]) (Keeps.refl _ s) (List.Subset.refl _)).only
@[simp] theorem regs_say (s : State) (svc : Bool) (m : OutMsg) : (State.say s svc m).regs = s.regs := say_only s svc m .regs (by decide)
@[simp] theorem vis_say (s : State) (svc : Bool) (m : OutMsg) : (State.say s svc m).vis = s.vis := say_only s svc m .vis (by decide)
@[simp] theorem shadow_say (s : State) (svc : Bool) (m : OutMsg) : (State.say s svc m).shadow = s.shadow := say_only s svc m .shadow (by decide)
@[simp] theorem tbl_say (s : State) (svc : Bool) (m : OutMsg) : (State.say s svc m).tbl = s.tbl := say_only s svc m .tbl (by decide)
@[simp] theorem tshadow_say (s : State) (svc : Bool) (m : OutMsg) : (State.say s svc m).tshadow = s.tshadow := say_only s svc m .tshadow (by decide)
@[simp] theorem frzFrom_say (s : State) (svc : Bool) (m : OutMsg) : (State.say s svc m).frzFrom = s.frzFrom := say_only s svc m .frzFrom (by decide)
@[simp] theorem commitDue_say (s : State) (svc : Bool) (m : OutMsg) : (State.say s svc m).commitDue = s.commitDue := say_only s svc m .commitDue (by decide)
@[simp] theorem mbx_say (s : State) (svc : Bool) (m : OutMsg) : (State.say s svc m).mbx = s.mbx := say_only s svc m .mbx (by decide)
@[simp] theorem host_say (s : State) (svc : Bool) (m : OutMsg) : (State.say s svc m).host = s.host := say_only s svc m .items (by decide)
@[simp] theorem icu_say (s : State) (svc : Bool) (m : OutMsg) : (State.say s svc m).icu = s.icu := say_only s svc m .icu (by decide)
@[simp] theorem evr_say (s : State) (svc : Bool) (m : OutMsg) : (State.say s svc m).evr = s.evr := say_only s svc m .evr (by decide)
@[simp] theorem seq_say (s : State) (svc : Bool) (m : OutMsg) : (State.say s svc m).seq = s.seq := say_only s svc m .seq (by decide)
@[simp] theorem cpe_say (s : State) (svc : Bool) (m : OutMsg) : (State.say s svc m).cpe = s.cpe := say_only s svc m .cpe (by decide)
@[simp] theorem time_say (s : State) (svc : Bool) (m : OutMsg) : (State.say s svc m).time = s.time := say_only s svc m .time (by decide)
@[simp] theorem model_say (s : State) (svc : Bool) (m : OutMsg) : (State.say s svc m).model = s.model := say_only s svc m .model (by decide)
@[simp] theorem opt_say (s : State) (svc : Bool) (m : OutMsg) : (State.say s svc m).opt = s.opt := say_only s svc m .opt (by decide)
@[simp] theorem snet_say (s : State) (svc : Bool) (m : OutMsg) : (State.say s svc m).snet = s.snet := say_only s svc m .snet (by decide)
@[simp] theorem can_say (s : State) (svc : Bool) (m : OutMsg) : (State.say s svc m).can = s.can := say_only s svc m .can (by decide)
@[simp] theorem dio_say (s : State) (svc : Bool) (m : OutMsg) : (State.say s svc m).dio = s.dio := say_only s svc m .dio (by decide)
@[simp] theorem adc_say (s : State) (svc : Bool) (m : OutMsg) : (State.say s svc m).adc = s.adc := say_only s svc m .adc (by decide)
@[simp] theorem lnch_say (s : State) (svc : Bool) (m : OutMsg) : (State.say s svc m).lnch = s.lnch := say_only s svc m .lnch (by decide)
@[simp] theorem priv_say (s : State) (svc : Bool) (m : OutMsg) : (State.say s svc m).priv = s.priv := say_only s svc m .priv (by decide)
@[simp] theorem met_say (s : State) (svc : Bool) (m : OutMsg) : (State.say s svc m).met = s.met := say_only s svc m .met (by decide)
@[simp] theorem metNv_say (s : State) (svc : Bool) (m : OutMsg) : (State.say s svc m).metNv = s.metNv := say_only s svc m .metNv (by decide)
@[simp] theorem pwr_say (s : State) (svc : Bool) (m : OutMsg) : (State.say s svc m).pwr = s.pwr := say_only s svc m .pwr (by decide)
@[simp] theorem cpeNv_say (s : State) (svc : Bool) (m : OutMsg) : (State.say s svc m).cpeNv = s.cpeNv := say_only s svc m .cpeNv (by decide)
@[simp] theorem loop_say (s : State) (svc : Bool) (m : OutMsg) : (State.say s svc m).loop = s.loop := say_only s svc m .loop (by decide)
@[simp] theorem twin_say (s : State) (svc : Bool) (m : OutMsg) : (State.say s svc m).twin = s.twin := say_only s svc m .twin (by decide)
@[simp] theorem segs_say (s : State) (svc : Bool) (m : OutMsg) : (State.say s svc m).segs = s.segs := say_only s svc m .segs (by decide)
@[simp] theorem keys_say (s : State) (svc : Bool) (m : OutMsg) : (State.say s svc m).keys = s.keys := say_only s svc m .keys (by decide)
@[simp] theorem cfg_say (s : State) (svc : Bool) (m : OutMsg) : (State.say s svc m).cfg = s.cfg := say_only s svc m .cfg (by decide)
@[simp] theorem dev_say (s : State) (svc : Bool) (m : OutMsg) : (State.say s svc m).dev = s.dev := say_only s svc m .dev (by decide)
@[simp] theorem free_say (s : State) (svc : Bool) (m : OutMsg) : (State.say s svc m).free = s.free := say_only s svc m .free (by decide)
@[simp] theorem pending_say (s : State) (svc : Bool) (m : OutMsg) : (State.say s svc m).pending = s.pending := (say_keeps (T := [.sent]) (Keeps.refl _ s) (List.Subset.refl _)).pending
@[simp] theorem rd_say (s : State) (svc : Bool) (m : OutMsg) (x : Nat) : (State.say s svc m).rd x = s.rd x := by simp [State.rd]
@[simp] theorem fld_say (s : State) (svc : Bool) (m : OutMsg) (x : Fld) : (State.say s svc m).fld x = s.fld x := by simp [State.fld]
@[simp] theorem bit_say (s : State) (svc : Bool) (m : OutMsg) (x : Fld) : (State.say s svc m).bit x = s.bit x := by simp [State.bit]
@[simp] theorem trd_say (s : State) (svc : Bool) (m : OutMsg) (x y z : Nat) : (State.say s svc m).trd x y z = s.trd x y z := by simp [State.trd]
@[simp] theorem tfld_say (s : State) (svc : Bool) (m : OutMsg) (x y z u w_ : Nat) : (State.say s svc m).tfld x y z u w_ = s.tfld x y z u w_ := by simp [State.tfld]

theorem intMod_only (s : State) (k : Nat) (f : MetInt → MetInt) : s.onlyIn (State.intMod s k f) [.met] := (intMod_keeps (T := [.met]) (Keeps.refl _ s) (List.Subset.refl _)).only
@[simp] theorem regs_intMod (s : State) (k : Nat) (f : MetInt → MetInt) : (State.intMod s k f).regs = s.regs := intMod_only s k f .regs (by decide)
@[simp] theorem vis_intMod (s : State) (k : Nat) (f : MetInt → MetInt) : (State.intMod s k f).vis = s.vis := intMod_only s k f .vis (by decide)
@[simp] theorem shadow_intMod (s : State) (k : Nat) (f : MetInt → MetInt) : (State.intMod s k f).shadow = s.shadow := intMod_only s k f .shadow (by decide)
@[simp] theorem tbl_intMod (s : State) (k : Nat) (f : MetInt → MetInt) : (State.intMod s k f).tbl = s.tbl := intMod_only s k f .tbl (by decide)
@[simp] theorem tshadow_intMod (s : State) (k : Nat) (f : MetInt → MetInt) : (State.intMod s k f).tshadow = s.tshadow := intMod_only s k f .tshadow (by decide)
@[simp] theorem frzFrom_intMod (s : State) (k : Nat) (f : MetInt → MetInt) : (State.intMod s k f).frzFrom = s.frzFrom := intMod_only s k f .frzFrom (by decide)
@[simp] theorem commitDue_intMod (s : State) (k : Nat) (f : MetInt → MetInt) : (State.intMod s k f).commitDue = s.commitDue := intMod_only s k f .commitDue (by decide)
@[simp] theorem mbx_intMod (s : State) (k : Nat) (f : MetInt → MetInt) : (State.intMod s k f).mbx = s.mbx := intMod_only s k f .mbx (by decide)
@[simp] theorem host_intMod (s : State) (k : Nat) (f : MetInt → MetInt) : (State.intMod s k f).host = s.host := intMod_only s k f .items (by decide)
@[simp] theorem icu_intMod (s : State) (k : Nat) (f : MetInt → MetInt) : (State.intMod s k f).icu = s.icu := intMod_only s k f .icu (by decide)
@[simp] theorem evr_intMod (s : State) (k : Nat) (f : MetInt → MetInt) : (State.intMod s k f).evr = s.evr := intMod_only s k f .evr (by decide)
@[simp] theorem seq_intMod (s : State) (k : Nat) (f : MetInt → MetInt) : (State.intMod s k f).seq = s.seq := intMod_only s k f .seq (by decide)
@[simp] theorem cpe_intMod (s : State) (k : Nat) (f : MetInt → MetInt) : (State.intMod s k f).cpe = s.cpe := intMod_only s k f .cpe (by decide)
@[simp] theorem time_intMod (s : State) (k : Nat) (f : MetInt → MetInt) : (State.intMod s k f).time = s.time := intMod_only s k f .time (by decide)
@[simp] theorem model_intMod (s : State) (k : Nat) (f : MetInt → MetInt) : (State.intMod s k f).model = s.model := intMod_only s k f .model (by decide)
@[simp] theorem opt_intMod (s : State) (k : Nat) (f : MetInt → MetInt) : (State.intMod s k f).opt = s.opt := intMod_only s k f .opt (by decide)
@[simp] theorem snet_intMod (s : State) (k : Nat) (f : MetInt → MetInt) : (State.intMod s k f).snet = s.snet := intMod_only s k f .snet (by decide)
@[simp] theorem can_intMod (s : State) (k : Nat) (f : MetInt → MetInt) : (State.intMod s k f).can = s.can := intMod_only s k f .can (by decide)
@[simp] theorem dio_intMod (s : State) (k : Nat) (f : MetInt → MetInt) : (State.intMod s k f).dio = s.dio := intMod_only s k f .dio (by decide)
@[simp] theorem adc_intMod (s : State) (k : Nat) (f : MetInt → MetInt) : (State.intMod s k f).adc = s.adc := intMod_only s k f .adc (by decide)
@[simp] theorem lnch_intMod (s : State) (k : Nat) (f : MetInt → MetInt) : (State.intMod s k f).lnch = s.lnch := intMod_only s k f .lnch (by decide)
@[simp] theorem priv_intMod (s : State) (k : Nat) (f : MetInt → MetInt) : (State.intMod s k f).priv = s.priv := intMod_only s k f .priv (by decide)
@[simp] theorem metNv_intMod (s : State) (k : Nat) (f : MetInt → MetInt) : (State.intMod s k f).metNv = s.metNv := intMod_only s k f .metNv (by decide)
@[simp] theorem pwr_intMod (s : State) (k : Nat) (f : MetInt → MetInt) : (State.intMod s k f).pwr = s.pwr := intMod_only s k f .pwr (by decide)
@[simp] theorem cpeNv_intMod (s : State) (k : Nat) (f : MetInt → MetInt) : (State.intMod s k f).cpeNv = s.cpeNv := intMod_only s k f .cpeNv (by decide)
@[simp] theorem loop_intMod (s : State) (k : Nat) (f : MetInt → MetInt) : (State.intMod s k f).loop = s.loop := intMod_only s k f .loop (by decide)
@[simp] theorem twin_intMod (s : State) (k : Nat) (f : MetInt → MetInt) : (State.intMod s k f).twin = s.twin := intMod_only s k f .twin (by decide)
@[simp] theorem segs_intMod (s : State) (k : Nat) (f : MetInt → MetInt) : (State.intMod s k f).segs = s.segs := intMod_only s k f .segs (by decide)
@[simp] theorem keys_intMod (s : State) (k : Nat) (f : MetInt → MetInt) : (State.intMod s k f).keys = s.keys := intMod_only s k f .keys (by decide)
@[simp] theorem cfg_intMod (s : State) (k : Nat) (f : MetInt → MetInt) : (State.intMod s k f).cfg = s.cfg := intMod_only s k f .cfg (by decide)
@[simp] theorem dev_intMod (s : State) (k : Nat) (f : MetInt → MetInt) : (State.intMod s k f).dev = s.dev := intMod_only s k f .dev (by decide)
@[simp] theorem sent_intMod (s : State) (k : Nat) (f : MetInt → MetInt) : (State.intMod s k f).sent = s.sent := intMod_only s k f .sent (by decide)
@[simp] theorem free_intMod (s : State) (k : Nat) (f : MetInt → MetInt) : (State.intMod s k f).free = s.free := intMod_only s k f .free (by decide)
@[simp] theorem pending_intMod (s : State) (k : Nat) (f : MetInt → MetInt) : (State.intMod s k f).pending = s.pending := (intMod_keeps (T := [.met]) (Keeps.refl _ s) (List.Subset.refl _)).pending
@[simp] theorem rd_intMod (s : State) (k : Nat) (f : MetInt → MetInt) (x : Nat) : (State.intMod s k f).rd x = s.rd x := by simp [State.rd]
@[simp] theorem fld_intMod (s : State) (k : Nat) (f : MetInt → MetInt) (x : Fld) : (State.intMod s k f).fld x = s.fld x := by simp [State.fld]
@[simp] theorem bit_intMod (s : State) (k : Nat) (f : MetInt → MetInt) (x : Fld) : (State.intMod s k f).bit x = s.bit x := by simp [State.bit]
@[simp] theorem trd_intMod (s : State) (k : Nat) (f : MetInt → MetInt) (x y z : Nat) : (State.intMod s k f).trd x y z = s.trd x y z := by simp [State.trd]
@[simp] theorem tfld_intMod (s : State) (k : Nat) (f : MetInt → MetInt) (x y z u w_ : Nat) : (State.intMod s k f).tfld x y z u w_ = s.tfld x y z u w_ := by simp [State.tfld]

theorem xbarViol_only (s : State) (eng : Nat) (addr : Word) : s.onlyIn (State.xbarViol s eng addr) [.regs, .tbl, .items, .icu, .evr] := (xbarViol_keeps (T := [.regs, .tbl, .items, .icu, .evr]) (Keeps.refl _ s) (by decide)).only
@[simp] theorem vis_xbarViol (s : State) (eng : Nat) (addr : Word) : (State.xbarViol s eng addr).vis = s.vis := xbarViol_only s eng addr .vis (by decide)
@[simp] theorem shadow_xbarViol (s : State) (eng : Nat) (addr : Word) : (State.xbarViol s eng addr).shadow = s.shadow := xbarViol_only s eng addr .shadow (by decide)
@[simp] theorem tshadow_xbarViol (s : State) (eng : Nat) (addr : Word) : (State.xbarViol s eng addr).tshadow = s.tshadow := xbarViol_only s eng addr .tshadow (by decide)
@[simp] theorem frzFrom_xbarViol (s : State) (eng : Nat) (addr : Word) : (State.xbarViol s eng addr).frzFrom = s.frzFrom := xbarViol_only s eng addr .frzFrom (by decide)
@[simp] theorem commitDue_xbarViol (s : State) (eng : Nat) (addr : Word) : (State.xbarViol s eng addr).commitDue = s.commitDue := xbarViol_only s eng addr .commitDue (by decide)
@[simp] theorem mbx_xbarViol (s : State) (eng : Nat) (addr : Word) : (State.xbarViol s eng addr).mbx = s.mbx := xbarViol_only s eng addr .mbx (by decide)
@[simp] theorem seq_xbarViol (s : State) (eng : Nat) (addr : Word) : (State.xbarViol s eng addr).seq = s.seq := xbarViol_only s eng addr .seq (by decide)
@[simp] theorem cpe_xbarViol (s : State) (eng : Nat) (addr : Word) : (State.xbarViol s eng addr).cpe = s.cpe := xbarViol_only s eng addr .cpe (by decide)
@[simp] theorem time_xbarViol (s : State) (eng : Nat) (addr : Word) : (State.xbarViol s eng addr).time = s.time := xbarViol_only s eng addr .time (by decide)
@[simp] theorem model_xbarViol (s : State) (eng : Nat) (addr : Word) : (State.xbarViol s eng addr).model = s.model := xbarViol_only s eng addr .model (by decide)
@[simp] theorem opt_xbarViol (s : State) (eng : Nat) (addr : Word) : (State.xbarViol s eng addr).opt = s.opt := xbarViol_only s eng addr .opt (by decide)
@[simp] theorem snet_xbarViol (s : State) (eng : Nat) (addr : Word) : (State.xbarViol s eng addr).snet = s.snet := xbarViol_only s eng addr .snet (by decide)
@[simp] theorem can_xbarViol (s : State) (eng : Nat) (addr : Word) : (State.xbarViol s eng addr).can = s.can := xbarViol_only s eng addr .can (by decide)
@[simp] theorem dio_xbarViol (s : State) (eng : Nat) (addr : Word) : (State.xbarViol s eng addr).dio = s.dio := xbarViol_only s eng addr .dio (by decide)
@[simp] theorem adc_xbarViol (s : State) (eng : Nat) (addr : Word) : (State.xbarViol s eng addr).adc = s.adc := xbarViol_only s eng addr .adc (by decide)
@[simp] theorem lnch_xbarViol (s : State) (eng : Nat) (addr : Word) : (State.xbarViol s eng addr).lnch = s.lnch := xbarViol_only s eng addr .lnch (by decide)
@[simp] theorem priv_xbarViol (s : State) (eng : Nat) (addr : Word) : (State.xbarViol s eng addr).priv = s.priv := xbarViol_only s eng addr .priv (by decide)
@[simp] theorem met_xbarViol (s : State) (eng : Nat) (addr : Word) : (State.xbarViol s eng addr).met = s.met := xbarViol_only s eng addr .met (by decide)
@[simp] theorem metNv_xbarViol (s : State) (eng : Nat) (addr : Word) : (State.xbarViol s eng addr).metNv = s.metNv := xbarViol_only s eng addr .metNv (by decide)
@[simp] theorem pwr_xbarViol (s : State) (eng : Nat) (addr : Word) : (State.xbarViol s eng addr).pwr = s.pwr := xbarViol_only s eng addr .pwr (by decide)
@[simp] theorem cpeNv_xbarViol (s : State) (eng : Nat) (addr : Word) : (State.xbarViol s eng addr).cpeNv = s.cpeNv := xbarViol_only s eng addr .cpeNv (by decide)
@[simp] theorem loop_xbarViol (s : State) (eng : Nat) (addr : Word) : (State.xbarViol s eng addr).loop = s.loop := xbarViol_only s eng addr .loop (by decide)
@[simp] theorem twin_xbarViol (s : State) (eng : Nat) (addr : Word) : (State.xbarViol s eng addr).twin = s.twin := xbarViol_only s eng addr .twin (by decide)
@[simp] theorem segs_xbarViol (s : State) (eng : Nat) (addr : Word) : (State.xbarViol s eng addr).segs = s.segs := xbarViol_only s eng addr .segs (by decide)
@[simp] theorem keys_xbarViol (s : State) (eng : Nat) (addr : Word) : (State.xbarViol s eng addr).keys = s.keys := xbarViol_only s eng addr .keys (by decide)
@[simp] theorem cfg_xbarViol (s : State) (eng : Nat) (addr : Word) : (State.xbarViol s eng addr).cfg = s.cfg := xbarViol_only s eng addr .cfg (by decide)
@[simp] theorem dev_xbarViol (s : State) (eng : Nat) (addr : Word) : (State.xbarViol s eng addr).dev = s.dev := xbarViol_only s eng addr .dev (by decide)
@[simp] theorem sent_xbarViol (s : State) (eng : Nat) (addr : Word) : (State.xbarViol s eng addr).sent = s.sent := xbarViol_only s eng addr .sent (by decide)
@[simp] theorem free_xbarViol (s : State) (eng : Nat) (addr : Word) : (State.xbarViol s eng addr).free = s.free := xbarViol_only s eng addr .free (by decide)
@[simp] theorem pending_xbarViol (s : State) (eng : Nat) (addr : Word) : (State.xbarViol s eng addr).pending = s.pending := (xbarViol_keeps (T := [.regs, .tbl, .items, .icu, .evr]) (Keeps.refl _ s) (by decide)).pending
@[simp] theorem still_xbarViol (s : State) (eng : Nat) (addr : Word) : (State.xbarViol s eng addr).host.still = s.host.still := xbarViol_only s eng addr .host (by decide)

theorem shown_only (s : State) : s.onlyIn (State.shown s) [.vis] := (shown_keeps (T := [.vis]) (Keeps.refl _ s) (List.Subset.refl _)).only
@[simp] theorem regs_shown (s : State) : (State.shown s).regs = s.regs := shown_only s .regs (by decide)
@[simp] theorem shadow_shown (s : State) : (State.shown s).shadow = s.shadow := shown_only s .shadow (by decide)
@[simp] theorem tbl_shown (s : State) : (State.shown s).tbl = s.tbl := shown_only s .tbl (by decide)
@[simp] theorem tshadow_shown (s : State) : (State.shown s).tshadow = s.tshadow := shown_only s .tshadow (by decide)
@[simp] theorem frzFrom_shown (s : State) : (State.shown s).frzFrom = s.frzFrom := shown_only s .frzFrom (by decide)
@[simp] theorem commitDue_shown (s : State) : (State.shown s).commitDue = s.commitDue := shown_only s .commitDue (by decide)
@[simp] theorem mbx_shown (s : State) : (State.shown s).mbx = s.mbx := shown_only s .mbx (by decide)
@[simp] theorem host_shown (s : State) : (State.shown s).host = s.host := shown_only s .items (by decide)
@[simp] theorem icu_shown (s : State) : (State.shown s).icu = s.icu := shown_only s .icu (by decide)
@[simp] theorem evr_shown (s : State) : (State.shown s).evr = s.evr := shown_only s .evr (by decide)
@[simp] theorem seq_shown (s : State) : (State.shown s).seq = s.seq := shown_only s .seq (by decide)
@[simp] theorem cpe_shown (s : State) : (State.shown s).cpe = s.cpe := shown_only s .cpe (by decide)
@[simp] theorem time_shown (s : State) : (State.shown s).time = s.time := shown_only s .time (by decide)
@[simp] theorem model_shown (s : State) : (State.shown s).model = s.model := shown_only s .model (by decide)
@[simp] theorem opt_shown (s : State) : (State.shown s).opt = s.opt := shown_only s .opt (by decide)
@[simp] theorem snet_shown (s : State) : (State.shown s).snet = s.snet := shown_only s .snet (by decide)
@[simp] theorem can_shown (s : State) : (State.shown s).can = s.can := shown_only s .can (by decide)
@[simp] theorem dio_shown (s : State) : (State.shown s).dio = s.dio := shown_only s .dio (by decide)
@[simp] theorem adc_shown (s : State) : (State.shown s).adc = s.adc := shown_only s .adc (by decide)
@[simp] theorem lnch_shown (s : State) : (State.shown s).lnch = s.lnch := shown_only s .lnch (by decide)
@[simp] theorem priv_shown (s : State) : (State.shown s).priv = s.priv := shown_only s .priv (by decide)
@[simp] theorem met_shown (s : State) : (State.shown s).met = s.met := shown_only s .met (by decide)
@[simp] theorem metNv_shown (s : State) : (State.shown s).metNv = s.metNv := shown_only s .metNv (by decide)
@[simp] theorem pwr_shown (s : State) : (State.shown s).pwr = s.pwr := shown_only s .pwr (by decide)
@[simp] theorem cpeNv_shown (s : State) : (State.shown s).cpeNv = s.cpeNv := shown_only s .cpeNv (by decide)
@[simp] theorem loop_shown (s : State) : (State.shown s).loop = s.loop := shown_only s .loop (by decide)
@[simp] theorem twin_shown (s : State) : (State.shown s).twin = s.twin := shown_only s .twin (by decide)
@[simp] theorem segs_shown (s : State) : (State.shown s).segs = s.segs := shown_only s .segs (by decide)
@[simp] theorem keys_shown (s : State) : (State.shown s).keys = s.keys := shown_only s .keys (by decide)
@[simp] theorem cfg_shown (s : State) : (State.shown s).cfg = s.cfg := shown_only s .cfg (by decide)
@[simp] theorem dev_shown (s : State) : (State.shown s).dev = s.dev := shown_only s .dev (by decide)
@[simp] theorem sent_shown (s : State) : (State.shown s).sent = s.sent := shown_only s .sent (by decide)
@[simp] theorem free_shown (s : State) : (State.shown s).free = s.free := shown_only s .free (by decide)
@[simp] theorem pending_shown (s : State) : (State.shown s).pending = s.pending := (shown_keeps (T := [.vis]) (Keeps.refl _ s) (List.Subset.refl _)).pending
@[simp] theorem rd_shown (s : State) (x : Nat) : (State.shown s).rd x = s.rd x := by simp [State.rd]
@[simp] theorem fld_shown (s : State) (x : Fld) : (State.shown s).fld x = s.fld x := by simp [State.fld]
@[simp] theorem bit_shown (s : State) (x : Fld) : (State.shown s).bit x = s.bit x := by simp [State.bit]
@[simp] theorem trd_shown (s : State) (x y z : Nat) : (State.shown s).trd x y z = s.trd x y z := by simp [State.trd]
@[simp] theorem tfld_shown (s : State) (x y z u w_ : Nat) : (State.shown s).tfld x y z u w_ = s.tfld x y z u w_ := by simp [State.tfld]

end Sys2Proof.Machine
end

