-- ==== Sys2Proof/Laws/Events.lean ====
section
/-! SUPPORT. What raising an event does and leaves: which register words and tables it may touch, and that its PENDING bit is set. -/

namespace Sys2Proof.Machine

/-! ## Registers and tables outside a set -/

theorem regsBut_refl (s : State) (p : Nat → Prop) : s.regsBut s p := fun _ _ => rfl

theorem regsBut_trans {s t u : State} {p : Nat → Prop} (h : s.regsBut t p) (h' : t.regsBut u p) : s.regsBut u p :=
  fun a ha => (h' a ha).trans (h a ha)

theorem regsBut_mono {s t : State} {p q : Nat → Prop} (h : s.regsBut t p) (hq : ∀ a, p a → q a) : s.regsBut t q :=
  fun a ha => h a (fun x => ha (hq a x))

theorem regsBut_of_regs {s t : State} (h : t.regs = s.regs) (p : Nat → Prop) : s.regsBut t p := fun a _ => by simp [State.rd, h]

theorem regsBut_wr {s t : State} {p : Nat → Prop} {a : Nat} {v : Word} (h : s.regsBut t p) (ha : p a) : s.regsBut (t.wr a v) p :=
  fun b hb => by
    have hne : b ≠ a := fun e => hb (e ▸ ha)
    rw [rd_wr, if_neg hne]
    exact h b hb

theorem regsBut_setF {s t : State} {p : Nat → Prop} {f : Fld} {v : Nat} (h : s.regsBut t p) (ha : p f.addr) :
    s.regsBut (t.setF f v) p := regsBut_wr h ha

theorem regsBut_setB {s t : State} {p : Nat → Prop} {f : Fld} {b : Bool} (h : s.regsBut t p) (ha : p f.addr) :
    s.regsBut (t.setB f b) p := regsBut_wr h ha

theorem tblBut_refl (s : State) (p : Nat → Nat → Nat → Prop) : s.tblBut s p := fun _ _ => rfl

theorem tblBut_trans {s t u : State} {p : Nat → Nat → Nat → Prop} (h : s.tblBut t p) (h' : t.tblBut u p) : s.tblBut u p :=
  fun k hk => (h' k hk).trans (h k hk)

theorem tblBut_mono {s t : State} {p q : Nat → Nat → Nat → Prop} (h : s.tblBut t p) (hq : ∀ a b c, p a b c → q a b c) :
    s.tblBut t q := fun k hk => h k (fun x => hk (hq _ _ _ x))

theorem tblBut_of_tbl {s t : State} (h : t.tbl = s.tbl) (p : Nat → Nat → Nat → Prop) : s.tblBut t p := fun k _ => by rw [h]

theorem tblBut_twr {s t : State} {p : Nat → Nat → Nat → Prop} {tid i w : Nat} {v : Word} (h : s.tblBut t p)
    (hp : p (tkeyTid (tkey tid i w)) (tkeyIdx (tkey tid i w)) (tkeyWord (tkey tid i w))) : s.tblBut (t.twr tid i w v) p := by
  intro k hk
  have hne : k ≠ tkey tid i w := fun e => hk (e ▸ hp)
  exact (smGet_set_ne tblReset t.tbl (tkey tid i w) k v hne).trans (h k hk)

theorem tkeyTid_tkey (t i w : Nat) (hi : i < 2 ^ 24) (hw : w < 2 ^ 8) : tkeyTid (tkey t i w) = t := by
  unfold tkeyTid tkey
  omega

/-- A table word of another table. -/
theorem trd_of_tblBut {s t : State} {p : Nat → Nat → Nat → Prop} (h : s.tblBut t p) {tid i w : Nat} (hi : i < 2 ^ 24) (hw : w < 2 ^ 8)
    (hp : ¬ p tid i w) : t.trd tid i w = s.trd tid i w := by
  have e1 := tkeyTid_tkey tid i w hi hw
  have e2 : tkeyIdx (tkey tid i w) = i := by unfold tkeyIdx tkey; omega
  have e3 : tkeyWord (tkey tid i w) = w := by unfold tkeyWord tkey; omega
  exact h (tkey tid i w) (by rw [e1, e2, e3]; exact hp)

/-! ## What the interrupt controller touches -/

/-- From `s` to `t`: register words outside `p`, and table words of tables outside `q`, are as they were. -/
structure Near (p : Nat → Prop) (q : Nat → Prop) (s t : State) : Prop where
  regs : s.regsBut t p
  tbl : s.tblBut t (fun tid _ _ => q tid)

theorem Near.refl (p q : Nat → Prop) (s : State) : Near p q s s := ⟨regsBut_refl s p, tblBut_refl s _⟩

theorem Near.trans {p q : Nat → Prop} {s t u : State} (h : Near p q s t) (h' : Near p q t u) : Near p q s u :=
  ⟨regsBut_trans h.regs h'.regs, tblBut_trans h.tbl h'.tbl⟩

theorem Near.mono {p q p' q' : Nat → Prop} {s t : State} (h : Near p q s t) (hp : ∀ a, p a → p' a) (hq : ∀ a, q a → q' a) :
    Near p' q' s t := ⟨regsBut_mono h.regs hp, tblBut_mono h.tbl (fun _ _ _ => hq _)⟩

theorem near_same {p q : Nat → Prop} {s t u : State} (h : Near p q s t) (hr : u.regs = t.regs) (ht : u.tbl = t.tbl) :
    Near p q s u := h.trans ⟨regsBut_of_regs hr p, tblBut_of_tbl ht _⟩

theorem near_wr {p q : Nat → Prop} {s t : State} {a : Nat} {v : Word} (h : Near p q s t) (ha : p a) : Near p q s (t.wr a v) :=
  ⟨regsBut_wr h.regs ha, tblBut_trans h.tbl (tblBut_of_tbl (tbl_wr t a v) _)⟩

theorem near_setF {p q : Nat → Prop} {s t : State} {f : Fld} {v : Nat} (h : Near p q s t) (ha : p f.addr) :
    Near p q s (t.setF f v) := near_wr h ha

theorem near_setB {p q : Nat → Prop} {s t : State} {f : Fld} {b : Bool} (h : Near p q s t) (ha : p f.addr) :
    Near p q s (t.setB f b) := near_wr h ha

theorem near_twr {p q : Nat → Prop} {s t : State} {tid i w : Nat} {v : Word} (h : Near p q s t)
    (hq : q (tkeyTid (tkey tid i w))) : Near p q s (t.twr tid i w v) :=
  ⟨regsBut_trans h.regs (regsBut_of_regs (regs_twr t tid i w v) _), tblBut_twr h.tbl hq⟩

theorem near_tset {p q : Nat → Prop} {s t : State} {tid i w lo n v : Nat} (h : Near p q s t) (hq : q (tkeyTid (tkey tid i w))) :
    Near p q s (t.tset tid i w lo n v) := near_twr h hq

theorem near_foldl {α : Type} {p q : Nat → Prop} {s t : State} {l : List α} {f : State → α → State} (h : Near p q s t)
    (hf : ∀ a, ∀ e ∈ l, Near p q s a → Near p q s (f a e)) : Near p q s (l.foldl f t) := by
  induction l generalizing t with
  | nil => exact h
  | cons e l ih =>
    exact ih (hf t e (List.mem_cons_self ..) h) (fun a e he => hf a e (List.mem_cons_of_mem _ he))

theorem near_bumpN {p q : Nat → Prop} {s t : State} {c : Ctr} {n : Nat} (h : Near p q s t) (h1 : p c.f.addr) (h2 : p c.ovf.1) :
    Near p q s (t.bumpN c n) := by
  unfold State.bumpN
  split
  · exact near_setF h h1
  · split
    · exact near_setF (near_setF h h1) h2
    · exact near_setF h h1

theorem near_bumpW {p q : Nat → Prop} {s t : State} {c : Ctr} {n : Nat} (h : Near p q s t) (h1 : p c.f.addr) (hc : c.kind = .W) :
    Near p q s (t.bumpN c n) := by
  unfold State.bumpN
  rw [hc]
  exact near_setF h h1

theorem near_icuTgtStat {p q : Nat → Prop} {s u : State} {t : Nat} (h : Near p q s u) (hp : ∀ a, icuReg a → p a) (ht : t < 13) :
    Near p q s (u.icuTgtStat t) := by
  unfold State.icuTgtStat
  exact near_wr h (hp _ (.inr ⟨by omega, by omega, by omega⟩))

theorem near_icuEvalT {p q : Nat → Prop} {s u : State} {t : Nat} (h : Near p q s u) (hp : ∀ a, icuReg a → p a) (ht : t < 13) :
    Near p q s (u.icuEvalT t) := by
  unfold State.icuEvalT
  extract_lets n old ic s1 s2
  have h1 : Near p q s s1 := near_same h rfl rfl
  have h2 : Near p q s s2 := by
    unfold s2
    split
    · split
      · exact near_same h1 rfl rfl
      · exact h1
    · exact h1
  exact near_icuTgtStat h2 hp ht

theorem near_icuEval {p q : Nat → Prop} {s t : State} (h : Near p q s t) (hp : ∀ a, icuReg a → p a) : Near p q s t.icuEval := by
  unfold State.icuEval State.icuPendN
  exact near_setF (near_foldl h (fun a t ht ha => near_icuEvalT ha hp (List.mem_range.1 ht))) (hp _ (.inl rfl))

theorem near_signal {p q : Nat → Prop} {s t : State} {src : Nat} (h : Near p q s t) (hs : src < 2 ^ 24) (hp : ∀ a, icuReg a → p a)
    (hq : q 0x0700) : Near p q s (t.signal src) := by
  have hk : q (tkeyTid (tkey 0x0700 src 0)) := by
    rw [tkeyTid_tkey _ _ _ hs (by decide)]
    exact hq
  unfold State.signal
  split
  · exact h
  · refine near_icuEval ?_ hp
    have h1 : Near p q s (t.srcSet src 29 1 1) := near_tset h hk
    split
    · exact near_tset (near_tset h1 hk) hk
    · exact near_tset h1 hk

theorem near_raiseNoRec {p q : Nat → Prop} {s t : State} {pg b : Nat} (h : Near p q s t) (hpg : pg < 2 ^ 23)
    (h1 : p (addrOf pg 0x10)) (h2 : p (addrOf pg 0x28)) (hp : ∀ a, icuReg a → p a) (hq : q 0x0700) :
    Near p q s (t.raiseNoRec pg b) := by
  unfold State.raiseNoRec
  extract_lets base was s1 s2 x s3
  have hs1 : Near p q s s1 := near_same (near_setF h (by simpa [bitAt, base, addrOf] using h1)) rfl rfl
  have hs2 : Near p q s s2 := near_bumpN hs1 (by simpa [base, addrOf] using h2) (by simpa [base, addrOf] using h2)
  have hs3 : Near p q s s3 := near_same hs2 rfl rfl
  split
  · exact near_signal hs3 (by omega) hp hq
  · exact hs3

/-- What the events of page `p` may touch. -/
def EvNear (p : Nat) (s t : State) : Prop := Near (evReg p) evTbl s t

theorem evReg_of_icu {p a : Nat} (h : icuReg a) : evReg p a := h.elim (fun h => .inr (.inr (.inl h))) (fun h => .inr (.inr (.inr (.inl h))))

theorem evReg_of_page {p a : Nat} (h : pageOf a = 8) : evReg p a := .inr (.inr (.inr (.inr h)))

theorem evNear_raiseNoRec {s t : State} {p pg b : Nat} (h : EvNear p s t) (hpg : pg = p ∨ pg = 8) (hp : p < 2 ^ 23) :
    EvNear p s (t.raiseNoRec pg b) := by
  rcases hpg with rfl | rfl
  · exact near_raiseNoRec h hp (.inl rfl) (.inr (.inl rfl)) (fun a => evReg_of_icu) (.inl rfl)
  · exact near_raiseNoRec h (by decide) (evReg_of_page (by decide)) (evReg_of_page (by decide)) (fun a => evReg_of_icu) (.inl rfl)

theorem evrRec_lt {s : State} {code k : Nat} (h : s.evrRec code = some k) : k < 2 ^ 24 := by
  have h1 := List.mem_of_mem_head? (Option.mem_def.2 h)
  obtain ⟨e, -, rfl⟩ := List.mem_map.1 h1
  exact Nat.mod_lt _ (by decide)

theorem bucketKey_lt (s : State) (code : Nat) : bucketKey (s.evrRec code) < 2 ^ 24 := by
  unfold bucketKey
  cases h : s.evrRec code with
  | none => decide
  | some k => exact evrRec_lt h

theorem evTbl_key {k w : Nat} (hk : k < 2 ^ 24) (hw : w < 2 ^ 8) : evTbl (tkeyTid (tkey 0x0802 k w)) :=
  .inr (tkeyTid_tkey _ _ _ hk hw)

theorem evNear_bump8 {s t : State} {p : Nat} {c : Ctr} (h : EvNear p s t) (h1 : pageOf c.f.addr = 8) (h2 : pageOf c.ovf.1 = 8) :
    EvNear p s (t.bump c) := near_bumpN h (evReg_of_page h1) (evReg_of_page h2)

theorem evNear_evrSetTokens {s t : State} {p k n : Nat} (h : EvNear p s t) (hk : k < 2 ^ 24) : EvNear p s (t.evrSetTokens k n) := by
  unfold State.evrSetTokens
  split
  · exact near_setF h (evReg_of_page (by decide))
  · exact near_tset h (evTbl_key hk (by decide))

theorem evNear_evrSetSupp {s t : State} {p k n : Nat} (h : EvNear p s t) (hk : k < 2 ^ 24) : EvNear p s (t.evrSetSupp k n) := by
  unfold State.evrSetSupp
  split
  · exact near_setF h (evReg_of_page (by decide))
  · exact near_tset h (evTbl_key hk (by decide))

theorem evNear_evrSetGain {s t : State} {p k n : Nat} (h : EvNear p s t) : EvNear p s (t.evrSetGain k n) := near_same h rfl rfl

theorem evNear_evrTake {s t : State} {p k : Nat} (h : EvNear p s t) (hk : k < 2 ^ 24) : EvNear p s (t.evrTake k) := by
  unfold State.evrTake
  split
  · exact h
  · refine evNear_evrSetTokens ?_ hk
    split
    · exact evNear_evrSetGain h
    · exact h

theorem evNear_evrSuppress {s t : State} {p k a b : Nat} (h : EvNear p s t) (hk : k < 2 ^ 24) (hp : p < 2 ^ 23) :
    EvNear p s (t.evrSuppress k a b) := by
  have hw : ∀ {u : State} {w : Nat} {v : Word}, EvNear p s u → w < 2 ^ 8 → EvNear p s (u.twr 0x0802 k w v) :=
    fun hu hw => near_twr hu (evTbl_key hk hw)
  unfold State.evrSuppress
  extract_lets old s1 s2 s3 s4
  have h1 : EvNear p s s1 := by
    unfold s1
    split
    · exact hw (hw h (by decide)) (by decide)
    · exact h
  have h3 : EvNear p s s3 := evNear_bump8 (hw (hw h1 (by decide)) (by decide)) (by decide) (by decide)
  split
  · have h4 : EvNear p s s4 := evNear_evrSetSupp h3 hk
    split
    · exact evNear_raiseNoRec h4 (.inr rfl) hp
    · exact h4
  · exact h3

theorem evNear_ite {s t u : State} {p : Nat} {c : Prop} [Decidable c] (h1 : EvNear p s t) (h2 : EvNear p s u) :
    EvNear p s (if c then t else u) := by
  split
  · exact h1
  · exact h2

theorem evNear_offer {s t : State} {p code kind : Nat} (h : EvNear p s t) (hp : p < 2 ^ 23) : EvNear p s (t.offer code kind) := by
  have hk := bucketKey_lt t code
  unfold State.offer
  extract_lets r k due s1 ev1 s2 a e ev2 s3 n s4 s5
  have h1 : EvNear p s s1 := evNear_bump8 h (by decide) (by decide)
  have h2 : EvNear p s s2 := evNear_bump8 h (by decide) (by decide)
  have h3 : EvNear p s s3 := near_same (evNear_evrTake h hk) rfl rfl
  have h4 : EvNear p s s4 := near_setB (near_setF h3 (evReg_of_page (by decide))) (evReg_of_page (by decide))
  have h5 : EvNear p s s5 := by
    unfold s5
    split
    · exact near_setF h4 (evReg_of_page (by decide))
    · exact h4
  refine evNear_ite h (evNear_ite h (evNear_ite (evNear_bump8 h (by decide) (by decide)) (evNear_ite (evNear_ite h1 ?_)
    (evNear_ite (evNear_evrSuppress h hk hp) (evNear_ite (evNear_ite h2 ?_) (evNear_ite ?_ h5))))))
  · exact evNear_raiseNoRec (near_same h1 rfl rfl) (.inr rfl) hp
  · exact evNear_raiseNoRec (near_setF h2 (evReg_of_page (by decide))) (.inr rfl) hp
  · exact near_tset h5 (evTbl_key hk (by decide))

/-- Raising an event of page `p` touches only the page's PENDING bits and counter, the interrupt controller's and the
recorder's words. -/
theorem evNear_raiseEv {s t : State} {p b : Nat} (h : EvNear p s t) (hp : p < 2 ^ 23) : EvNear p s (t.raiseEv p b) := by
  unfold State.raiseEv
  extract_lets s1
  split
  · exact evNear_raiseNoRec h (.inl rfl) hp
  · exact evNear_offer (evNear_raiseNoRec h (.inl rfl) hp) hp

/-- A register word that raising events of page `p` leaves. -/
theorem rd_raiseEv {p b a : Nat} (s : State) (hp : p < 2 ^ 23) (ha : ¬ evReg p a) : (s.raiseEv p b).rd a = s.rd a :=
  (evNear_raiseEv (Near.refl _ _ s) hp).regs a ha

theorem fld_raiseEv {p b : Nat} (s : State) (f : Fld) (hp : p < 2 ^ 23) (ha : ¬ evReg p f.addr) : (s.raiseEv p b).fld f = s.fld f := by
  unfold State.fld
  rw [rd_raiseEv s hp ha]

theorem bit_raiseEv {p b : Nat} (s : State) (f : Fld) (hp : p < 2 ^ 23) (ha : ¬ evReg p f.addr) : (s.raiseEv p b).bit f = s.bit f := by
  unfold State.bit
  rw [fld_raiseEv s f hp ha]

theorem trd_raiseEv {p b tid i w : Nat} (s : State) (hp : p < 2 ^ 23) (ht : ¬ evTbl tid) (hi : i < 2 ^ 24) (hw : w < 2 ^ 8) :
    (s.raiseEv p b).trd tid i w = s.trd tid i w :=
  trd_of_tblBut (evNear_raiseEv (Near.refl _ _ s) hp).tbl hi hw ht

/-- Raising an event of a page other than the recorder's sets its PENDING bit. -/
theorem bit_raiseEv_pend {p b : Nat} (s : State) (hp : p < 2 ^ 23) (h8 : p ≠ 8) (hb : b < 32) :
    (s.raiseEv p b).bit (bitAt (addrOf p 0x10) b) = true := by
  have hne : ∀ a, a = addrOf p 0x10 → ¬ evReg 8 a ∧ ¬ icuReg a := by
    intro a ha
    subst ha
    simp only [evReg, icuReg, addrOf, pageOf]
    omega
  have h1 : (s.raiseNoRec p b).bit (bitAt (addrOf p 0x10) b) = true := by
    unfold State.raiseNoRec
    extract_lets base was s1 s2 ho s3
    have e1 : s1.bit (bitAt (addrOf p 0x10) b) = true := by
      have hb0 : addrOf p 0x10 = base + 0x10 := by simp only [base, addrOf]
      rw [hb0]
      exact bit_setF_one s _ _ hb
    have n2 : Near (fun a => a = base + 0x28) (fun _ => False) s1 s2 := near_bumpN (Near.refl _ _ s1) rfl rfl
    have n3 : Near (fun a => a = base + 0x28 ∨ icuReg a) evTbl s1 s3 :=
      near_same (n2.mono (fun _ h => .inl h) (fun _ h => h.elim)) rfl rfl
    have n4 : Near (fun a => a = base + 0x28 ∨ icuReg a) evTbl s1
        (if (!was && !s.bit (bitAt (base + 0x1C) b)) = true then s3.signal (0x100 + p) else s3) := by
      split
      · exact near_signal n3 (by omega) (fun _ h => .inr h) (.inl rfl)
      · exact n3
    have n5 := n4.regs (addrOf p 0x10) (fun h => h.elim (fun h => by simp only [base, addrOf] at h; omega) (hne _ rfl).2)
    exact (bit_of_rd n5).trans e1
  unfold State.raiseEv
  rw [if_neg h8]
  have := (evNear_offer (p := 8) (kind := 0) (code := p * 256 + b) (Near.refl _ _ (s.raiseNoRec p b)) (by decide)).regs
    (addrOf p 0x10) (hne _ rfl).1
  exact (bit_of_rd this).trans h1

end Sys2Proof.Machine
end

