-- ==== Sys2Proof/Laws/Host.lean ====
section
/-! SUPPORT. Host requests: what a request that passes the checks leaves of its session, and the parts of the state that a response touches. -/

namespace Sys2Proof.Machine

/-- A session without its notification items. -/
def Sess.still (x : Sess) : Sess := { x with items := [], oldestAt := 0 }

theorem sess_of_still {s t : State} (h : t.host.still = s.host.still) (i : Nat) :
    (t.sess i).still = (s.sess i).still := by
  have h1 : t.host.sess.map Sess.still = s.host.sess.map Sess.still := congrArg HostSt.sess h
  have h2 := congrArg (fun l => l[i]?) h1
  simp only [List.getElem?_map] at h2
  unfold State.sess List.getD
  cases ht : t.host.sess[i]? <;> cases hs : s.host.sess[i]? <;> simp_all

theorem sess_modAt_same (l : List Sess) (i : Nat) (f : Sess → Sess) (h : i < l.length) :
    (modAt l i f).getD i Sess.free = f (l.getD i Sess.free) := by
  induction l generalizing i with
  | nil => exact absurd h (Nat.not_lt_zero _)
  | cons x l ih =>
    cases i with
    | zero => rfl
    | succ i => exact ih i (Nat.lt_of_succ_lt_succ h)

theorem sess_modAt_ne (l : List Sess) (i j : Nat) (f : Sess → Sess) (h : j ≠ i) : (modAt l i f).getD j Sess.free = l.getD j Sess.free := by
  induction l generalizing i j with
  | nil => rfl
  | cons x l ih =>
    cases i <;> cases j
    · exact absurd rfl h
    · rfl
    · rfl
    · exact ih _ _ (fun e => h (congrArg Nat.succ e))

theorem modAt_length {α : Type} (l : List α) (i : Nat) (f : α → α) : (modAt l i f).length = l.length := by
  induction l generalizing i with
  | nil => rfl
  | cons x l ih => cases i <;> simp [modAt, ih]

/-- A session number that is not free stands in the list of sessions. -/
theorem sess_lt {s : State} {i : Nat} (h : (s.sess i).st ≠ 0) : i < s.host.sess.length := by
  by_contra hn
  apply h
  unfold State.sess
  rw [List.getD_eq_getElem?_getD, List.getElem?_eq_none (Nat.le_of_not_lt hn)]
  rfl

theorem sess_sessMod_same (s : State) (i : Nat) (f : Sess → Sess) (h : i < s.host.sess.length) :
    (s.sessMod i f).sess i = f (s.sess i) := sess_modAt_same _ _ _ h

theorem sess_sessMod_ne (s : State) (i j : Nat) (f : Sess → Sess) (h : j ≠ i) : (s.sessMod i f).sess j = s.sess j :=
  sess_modAt_ne _ _ _ _ h

@[simp] theorem sess_emit (s : State) (m : OutMsg) (i : Nat) : (s.emit m).sess i = s.sess i := by simp [State.sess]
@[simp] theorem sess_bump (s : State) (c : Ctr) (i : Nat) : (s.bump c).sess i = s.sess i := by simp [State.sess]
@[simp] theorem sess_useFree (s : State) (i : Nat) : s.useFree.sess i = s.sess i := by simp [State.sess]

theorem queue_of_still {s t : State} (h : t.host.still = s.host.still) : t.host.queue = s.host.queue := by
  have := congrArg HostSt.queue h
  exact this
theorem cmds_of_still {s t : State} (h : t.host.still = s.host.still) : t.host.cmds = s.host.cmds := by
  have := congrArg HostSt.cmds h
  exact this
theorem ownQ_of_still {s t : State} (h : t.host.still = s.host.still) : t.host.ownQ = s.host.ownQ := by
  have := congrArg HostSt.ownQ h
  exact this
theorem owner_of_still {s t : State} (h : t.host.still = s.host.still) : t.host.owner = s.host.owner := by
  have := congrArg HostSt.owner h
  exact this
theorem closing_of_still {s t : State} (h : t.host.still = s.host.still) : t.host.closing = s.host.closing := by
  have := congrArg HostSt.closing h
  exact this
theorem xferQ_of_still {s t : State} (h : t.host.still = s.host.still) : t.host.xferQ = s.host.xferQ := by
  have := congrArg HostSt.xferQ h
  exact this
theorem sessN_of_still {s t : State} (h : t.host.still = s.host.still) : t.host.sess.length = s.host.sess.length := by
  have := congrArg (fun h : HostSt => h.sess.length) h
  simpa [HostSt.still] using this

/-- What a session holds once a request of it has passed R423. -/
def Sess.received (x : Sess) (k : Kwp) (fno : Nat) : Sess :=
  { x with rxTop := replayTop x.rxTop k.seq, rxSeen := replaySeen x.rxTop x.rxSeen k.seq, lastRx := fno, st := if x.st = 1 then 2 else x.st }

theorem recvKwp_passes {s : State} {k : Kwp} (h : s.passes k) :
    s.recvKwp k = (s.taken k, true) ∧ (s.taken k).sent = s.sent ∧ ∃ u : State,
      u = (s.bump .HOST_RX_OK).sessMod k.ses (fun x => x.received k s.fno) ∧ (s.taken k).host.still = u.host.still := by
  obtain ⟨h0, h1, h2, h3, h4, h5, h6, h7, h8⟩ := h
  have e : s.recvKwp k = (if (s.sess k.ses).st = 1 then
      ((((s.bump .HOST_RX_OK).sessMod k.ses (fun x => x.received k s.fno)).bump .HOST_OPEN).raiseEv 0x0B 3, true)
      else ((s.bump .HOST_RX_OK).sessMod k.ses (fun x => x.received k s.fno), true)) := by
    have h3' : ¬ (8 ≤ k.ses) := by omega
    simp only [State.recvKwp, h0, h1, h2, h4, h5, h6, h7, h8, h3', Sess.received, Bool.not_true, Bool.false_eq_true, if_false,
      decide_false, bne_self_eq_false, Bool.or_false]
  unfold State.taken
  rw [e]
  split
  · exact ⟨rfl, by simp, _, rfl, by simp⟩
  · exact ⟨rfl, by simp, _, rfl, rfl⟩

theorem taken_sess {s : State} {k : Kwp} (h : s.passes k) :
    ((s.taken k).sess k.ses).still = ((s.sess k.ses).received k s.fno).still := by
  obtain ⟨-, -, u, rfl, hu⟩ := recvKwp_passes h
  rw [sess_of_still hu, sess_sessMod_same _ _ _ (sess_lt (by simpa using h.2.2.2.2.1))]
  simp [Sess.received]

theorem taken_cache {s : State} {k : Kwp} (h : s.passes k) : ((s.taken k).sess k.ses).cache = (s.sess k.ses).cache := by
  have := congrArg Sess.cache (taken_sess h)
  exact this
theorem taken_inflight {s : State} {k : Kwp} (h : s.passes k) : ((s.taken k).sess k.ses).inflight = (s.sess k.ses).inflight := by
  have := congrArg Sess.inflight (taken_sess h)
  exact this
theorem taken_gen {s : State} {k : Kwp} (h : s.passes k) : ((s.taken k).sess k.ses).gen = (s.sess k.ses).gen := by
  have := congrArg Sess.gen (taken_sess h)
  exact this
theorem taken_cq {s : State} {k : Kwp} (h : s.passes k) : ((s.taken k).sess k.ses).cq = (s.sess k.ses).cq := by
  have := congrArg Sess.cq (taken_sess h)
  exact this
theorem taken_st {s : State} {k : Kwp} (h : s.passes k) : ((s.taken k).sess k.ses).st = if (s.sess k.ses).st = 1 then 2 else (s.sess k.ses).st := by
  have := congrArg Sess.st (taken_sess h)
  exact this
theorem taken_cred {s : State} {k : Kwp} (h : s.passes k) : ((s.taken k).sess k.ses).cred = (s.sess k.ses).cred := by
  have := congrArg Sess.cred (taken_sess h)
  exact this
theorem taken_txSeq {s : State} {k : Kwp} (h : s.passes k) : ((s.taken k).sess k.ses).txSeq = (s.sess k.ses).txSeq := by
  have := congrArg Sess.txSeq (taken_sess h)
  exact this
theorem taken_svc {s : State} {k : Kwp} (h : s.passes k) : ((s.taken k).sess k.ses).svc = k.svc := by
  have := congrArg Sess.svc (taken_sess h)
  exact this.trans h.2.2.2.2.2.2.1
theorem taken_st_ne {s : State} {k : Kwp} (h : s.passes k) : ((s.taken k).sess k.ses).st ≠ 0 := by
  rw [taken_st h]
  have := h.2.2.2.2.1
  split <;> omega

/-- Receiving a request touches no register beside the counters of the HOST page and what its events touch. -/
theorem taken_rd {s : State} {k : Kwp} {a : Nat} (h : s.passes k) (ha : ¬ hostReg a) : (s.taken k).rd a = s.rd a := by
  obtain ⟨h0, h1, h2, h3, h4, h5, h6, h7, h8⟩ := h
  have h3' : ¬ (8 ≤ k.ses) := by omega
  have hb : ∀ (t : State) (c : Ctr), c.kind = .W → 0xB0F4 ≤ c.f.addr ∧ c.f.addr ≤ 0xB120 → (t.bump c).rd a = t.rd a := fun t c hk hc =>
    (near_bumpW (p := fun a => 0xB0F4 ≤ a ∧ a ≤ 0xB120) (q := fun _ => True) (n := 1) (Near.refl _ _ t) hc hk).1 a (fun x => ha (.inr x))
  simp only [State.taken, State.recvKwp, h0, h1, h2, h4, h5, h6, h7, h8, h3', Bool.not_true, Bool.false_eq_true, if_false,
    decide_false, bne_self_eq_false, Bool.or_false]
  split
  · rw [rd_raiseEv _ (by decide) (fun x => ha (.inl x)), hb _ _ rfl (by decide), rd_sessMod, hb _ _ rfl (by decide)]
  · rw [rd_sessMod, hb _ _ rfl (by decide)]

theorem not_hostReg_state : ¬ hostReg 0x0054 := by
  unfold hostReg evReg
  decide

theorem taken_cfg (s : State) (k : Kwp) : (s.taken k).cfg = s.cfg :=
  (recvKwp_keeps (Keeps.refl _ s) (List.Subset.refl _)).only .cfg (by decide)

theorem taken_sent {s : State} {k : Kwp} (h : s.passes k) : (s.taken k).sent = s.sent := (recvKwp_passes h).2.1

theorem taken_queue {s : State} {k : Kwp} (h : s.passes k) : (s.taken k).host.queue = s.host.queue := by
  obtain ⟨-, -, u, rfl, hu⟩ := recvKwp_passes h
  rw [queue_of_still hu]; simp [State.sessMod]
theorem taken_ownQ {s : State} {k : Kwp} (h : s.passes k) : (s.taken k).host.ownQ = s.host.ownQ := by
  obtain ⟨-, -, u, rfl, hu⟩ := recvKwp_passes h
  rw [ownQ_of_still hu]; simp [State.sessMod]
theorem taken_cmds {s : State} {k : Kwp} (h : s.passes k) : (s.taken k).host.cmds = s.host.cmds := by
  obtain ⟨-, -, u, rfl, hu⟩ := recvKwp_passes h
  rw [cmds_of_still hu]; simp [State.sessMod]
theorem taken_xferQ {s : State} {k : Kwp} (h : s.passes k) : (s.taken k).host.xferQ = s.host.xferQ := by
  obtain ⟨-, -, u, rfl, hu⟩ := recvKwp_passes h
  rw [xferQ_of_still hu]; simp [State.sessMod]
theorem taken_owner {s : State} {k : Kwp} (h : s.passes k) : (s.taken k).host.owner = s.host.owner := by
  obtain ⟨-, -, u, rfl, hu⟩ := recvKwp_passes h
  rw [owner_of_still hu]; simp [State.sessMod]
theorem taken_isOwner {s : State} {k : Kwp} (h : s.passes k) (i : Nat) : (s.taken k).isOwner i = s.isOwner i := by
  obtain ⟨-, -, u, rfl, hu⟩ := recvKwp_passes h
  unfold State.isOwner
  rw [owner_of_still hu, closing_of_still hu]; simp [State.sessMod]

/-- A request that is admitted is executed on the state that receiving it leaves. -/
theorem request_admits {s : State} {k : Kwp} (h : s.admits k) (op : Nat) (f : State → State) : s.request k op f = f (s.taken k) := by
  obtain ⟨hp, hc, hi, hl⟩ := h
  have hf : (s.sess k.ses).cache.find? (fun r => r.reqId == k.reqId) = none :=
    List.find?_eq_none.2 (fun r hr e => hc r hr (by simpa using e))
  have hn : (s.sess k.ses).inflight.contains k.reqId = false := by simpa using hi
  unfold State.request
  rw [(recvKwp_passes hp).1]
  simp only [taken_cache hp, taken_inflight hp, hf, hn, Bool.false_eq_true, if_false]
  rw [if_neg (by omega)]

theorem respond_sent (s : State) (i r op : Nat) (st : Status) (d : List Word) :
    (s.respond i r op st d).sent = s.sent ++ s.says (s.sess i).svc (.resp i (s.sess i).txSeq ⟨r, op, st, d⟩) := rfl

theorem says_of_rd {s t : State} (h : t.rd 0x0054 = s.rd 0x0054) (hc : t.cfg = s.cfg) (svc : Bool) (m : OutMsg) : t.says svc m = s.says svc m := by
  unfold State.says
  rw [hc, fld_of_rd (f := ⟨0x0054, 28, 4⟩) h]

theorem respond_only (s : State) (i r op : Nat) (st : Status) (d : List Word) : s.onlyIn (s.respond i r op st d) [.host, .items, .sent] :=
  (respond_keeps (Keeps.refl _ s) (List.Subset.refl _)).only

theorem respond_queue (s : State) (i r op : Nat) (st : Status) (d : List Word) : (s.respond i r op st d).host.queue = s.host.queue := rfl
theorem respond_cmds (s : State) (i r op : Nat) (st : Status) (d : List Word) : (s.respond i r op st d).host.cmds = s.host.cmds := rfl

theorem onlyIn_refl (s : State) (T : List Part) : s.onlyIn s T := (Keeps.refl T s).only

theorem onlyIn_trans {s t u : State} {T : List Part} (h : s.onlyIn t T) (h' : t.onlyIn u T) : s.onlyIn u T :=
  fun p hp => by
    have a := h p hp
    have b := h' p hp
    cases p <;> exact b.trans a

theorem onlyIn_mono {s t : State} {T U : List Part} (h : s.onlyIn t T) (hT : T ⊆ U) : s.onlyIn t U := fun p hp => h p (fun x => hp (hT x))

/-- A request refused on receipt is answered, and nothing else of it is kept. -/
theorem replies {s : State} {k : Kwp} {op : Nat} {st : Status} {d : List Word} (h : s.admits k) :
    s.replied ((s.taken k).respond k.ses k.reqId op st d) k op st d
      ∧ (s.taken k).onlyIn ((s.taken k).respond k.ses k.reqId op st d) [.host, .items, .sent] :=
  ⟨by rw [State.replied, respond_sent, taken_sent h.1, taken_svc h.1, taken_txSeq h.1,
        says_of_rd (taken_rd h.1 not_hostReg_state) (taken_cfg s k)], respond_only _ _ _ _ _ _⟩

end Sys2Proof.Machine
end

