-- ==== Sys2Proof/Laws/KeepPublish.lean ====
section
/-! SUPPORT. What each operation of Machine/Publish.lean keeps: the canonical form, the queue, and the parts it does not name. -/

namespace Sys2Proof.Machine

theorem pubMod_keeps {T : List Part} {s0 : State} {s : State} {f : PubSt → PubSt} (hs : Keeps T s0 s)
    (hT : [.opt] ⊆ T) :
    Keeps T s0 (State.pubMod s f) := by
  delta State.pubMod
  refine optMod_keeps ?_ (List.Subset.trans (by decide) hT)
  exact hs

theorem pubPut_keeps {T : List Part} {s0 : State} {s : State} (hs : Keeps T s0 s)
    (hT : [.regs, .tbl, .mbx, .items, .icu, .evr, .dio, .dev, .free] ⊆ T) :
    Keeps T s0 (State.pubPut s) := by
  delta State.pubPut
  extract_lets +onlyGivenNames y1
  refine useFree_keeps ?_ (List.Subset.trans (by decide) hT)
  refine keeps_foldl ?_ (fun a e ha => ?_)
  · exact hs
  · refine keeps_ite ?_ ?_
    · refine rolePuts_keeps ?_ (List.Subset.trans (by decide) hT)
      exact ha
    · refine rolePuts_keeps ?_ (List.Subset.trans (by decide) hT)
      exact ha

theorem pubAdd_keeps {T : List Part} {s0 : State} {s : State} {p : PubCmd} (hs : Keeps T s0 s)
    (hT : [.regs, .tbl, .opt] ⊆ T) :
    Keeps T s0 (State.pubAdd s p) := by
  delta State.pubAdd
  extract_lets +onlyGivenNames y1
  extract_lets +onlyGivenNames y2
  extract_lets +onlyGivenNames y3
  have hy3 : Keeps T s0 y3 := by
    unfold y3
    refine keeps_foldl ?_ (fun a e ha => ?_)
    · exact hs
    · refine tclear_keeps ?_ (List.Subset.trans (by decide) hT)
      exact ha
  refine qUse_keeps ?_ (List.Subset.trans (by decide) hT)
  refine pubMod_keeps ?_ (List.Subset.trans (by decide) hT)
  exact hy3

theorem pubCircuit_keeps {T : List Part} {s0 : State} {s : State} {c : Nat} {t : Nat × Nat × Nat} (hs : Keeps T s0 s)
    (hT : [.regs, .tbl, .opt] ⊆ T) :
    Keeps T s0 (State.pubCircuit s c t) := by
  delta State.pubCircuit
  extract_lets +onlyGivenNames y1
  extract_lets +onlyGivenNames y2
  refine keeps_ite ?_ ?_
  · exact hs
  · extract_lets +onlyGivenNames y3
    have hy3 : Keeps T s0 y3 := by
      unfold y3
      refine pubMod_keeps ?_ (List.Subset.trans (by decide) hT)
      exact hs
    refine keeps_foldl ?_ (fun a e ha => ?_)
    · exact hy3
    · refine pubAdd_keeps ?_ (List.Subset.trans (by decide) hT)
      exact ha

theorem pubZone_keeps {T : List Part} {s0 : State} {s : State} {z : Nat} {t : Nat × Nat × Nat} (hs : Keeps T s0 s)
    (hT : [.regs, .tbl, .opt] ⊆ T) :
    Keeps T s0 (State.pubZone s z t) := by
  delta State.pubZone
  extract_lets +onlyGivenNames y1
  refine keeps_ite ?_ ?_
  · exact hs
  · extract_lets +onlyGivenNames y2
    extract_lets +onlyGivenNames y3
    have hy3 : Keeps T s0 y3 := by
      unfold y3
      refine pubMod_keeps ?_ (List.Subset.trans (by decide) hT)
      exact hs
    refine keeps_ite ?_ ?_
    · refine pubAdd_keeps ?_ (List.Subset.trans (by decide) hT)
      exact hy3
    · exact hy3

theorem pubOne_keeps {T : List Part} {s0 : State} {s : State} {p : PubCmd} (hs : Keeps T s0 s)
    (hT : [.regs, .tbl, .items, .icu, .evr, .opt, .snet] ⊆ T) :
    Keeps T s0 (State.pubOne s p) := by
  delta State.pubOne
  extract_lets +onlyGivenNames y1
  have hy1 : Keeps T s0 y1.1 := by
    unfold y1
    refine enqueue_keeps ?_ (List.Subset.trans (by decide) hT)
    exact hs
  refine keeps_ite ?_ ?_
  · refine pubMod_keeps ?_ (List.Subset.trans (by decide) hT)
    refine bump_keeps ?_ (List.Subset.trans (by decide) hT)
    exact hy1
  · exact hy1

theorem pubQueue_keeps {T : List Part} {s0 : State} {s : State} (hs : Keeps T s0 s)
    (hT : [.regs, .tbl, .items, .icu, .evr, .opt, .snet] ⊆ T) :
    Keeps T s0 (State.pubQueue s) := by
  delta State.pubQueue
  extract_lets +onlyGivenNames y1
  extract_lets +onlyGivenNames y2
  have hy2 : Keeps T s0 y2 := by
    unfold y2
    refine keeps_foldl ?_ (fun a e ha => ?_)
    · exact hs
    · refine pubOne_keeps ?_ (List.Subset.trans (by decide) hT)
      exact ha
  refine keeps_ite ?_ ?_
  · refine bump_keeps ?_ (List.Subset.trans (by decide) hT)
    exact hy2
  · exact hy2

theorem setpoints_keeps {T : List Part} {s0 : State} {s : State} (hs : Keeps T s0 s)
    (hT : [.regs, .tbl, .mbx, .items, .icu, .evr, .opt, .snet, .dio, .dev, .free] ⊆ T) :
    Keeps T s0 (State.setpoints s) := by
  delta State.setpoints
  extract_lets +onlyGivenNames y1
  have hy1 : Keeps T s0 y1 := by
    unfold y1
    refine pubPut_keeps ?_ (List.Subset.trans (by decide) hT)
    exact hs
  refine keeps_ite ?_ ?_
  · exact hy1
  · extract_lets +onlyGivenNames y2
    extract_lets +onlyGivenNames y3
    have hy3 : Keeps T s0 y3 := by
      unfold y3
      refine keeps_foldl ?_ (fun a e ha => ?_)
      · exact hy1
      · refine keeps_foldl ?_ (fun a e ha => ?_)
        · exact ha
        · refine pubCircuit_keeps ?_ (List.Subset.trans (by decide) hT)
          exact ha
    extract_lets +onlyGivenNames y4
    have hy4 : Keeps T s0 y4 := by
      unfold y4
      refine keeps_foldl ?_ (fun a e ha => ?_)
      · exact hy3
      · refine keeps_foldl ?_ (fun a e ha => ?_)
        · exact ha
        · refine pubZone_keeps ?_ (List.Subset.trans (by decide) hT)
          exact ha
    extract_lets +onlyGivenNames y5
    refine pubQueue_keeps ?_ (List.Subset.trans (by decide) hT)
    refine pubMod_keeps ?_ (List.Subset.trans (by decide) hT)
    exact hy4

theorem tcmdOne_keeps {T : List Part} {s0 : State} {s : State} {p : Nat} {k : Nat} {r : TcmdReq} (hs : Keeps T s0 s)
    (hT : [.regs, .tbl, .mbx, .items, .icu, .evr, .cpe, .snet, .dio, .dev] ⊆ T) :
    Keeps T s0 (State.tcmdOne s p k r) := by
  delta State.tcmdOne
  extract_lets +onlyGivenNames y1
  have hy1 : Keeps T s0 y1.1 := by
    unfold y1
    refine keeps_iteP ?_ ?_
    · refine enqueue_keeps ?_ (List.Subset.trans (by decide) hT)
      exact hs
    · refine keeps_fst ?_
      exact hs
  extract_lets +onlyGivenNames y2
  have hy2 : Keeps T s0 y2 := by
    unfold y2
    refine cpeMod_keeps ?_ (List.Subset.trans (by decide) hT)
    exact hy1
  refine rolePuts_keeps ?_ (List.Subset.trans (by decide) hT)
  exact hy2

theorem tcmds_keeps {T : List Part} {s0 : State} {s : State} {p : Nat} (hs : Keeps T s0 s)
    (hT : [.regs, .tbl, .mbx, .items, .icu, .evr, .cpe, .snet, .dio, .dev] ⊆ T) :
    Keeps T s0 (State.tcmds s p) := by
  delta State.tcmds
  extract_lets +onlyGivenNames y1
  refine keeps_foldl ?_ (fun a e ha => ?_)
  · refine cpeMod_keeps ?_ (List.Subset.trans (by decide) hT)
    exact hs
  · refine tcmdOne_keeps ?_ (List.Subset.trans (by decide) hT)
    exact ha

theorem planSent_keeps {T : List Part} {s0 : State} {s : State} (hs : Keeps T s0 s)
    (hT : [.opt, .priv] ⊆ T) :
    Keeps T s0 (State.planSent s) := by
  delta State.planSent
  refine privMod_keeps ?_ (List.Subset.trans (by decide) hT)
  refine optMod_keeps ?_ (List.Subset.trans (by decide) hT)
  exact hs

theorem closeRecord_keeps {T : List Part} {s0 : State} {s : State} {len : Nat} (hs : Keeps T s0 s)
    (hT : [.regs, .opt, .priv, .twin, .sent] ⊆ T) :
    Keeps T s0 (State.closeRecord s len) := by
  delta State.closeRecord
  extract_lets +onlyGivenNames y1
  have hy1 : Keeps T s0 y1 := by
    unfold y1
    refine twinMod_keeps ?_ (List.Subset.trans (by decide) hT)
    exact hs
  refine keeps_ite ?_ ?_
  · extract_lets +onlyGivenNames y2
    extract_lets +onlyGivenNames y3
    refine planSent_keeps ?_ (List.Subset.trans (by decide) hT)
    refine emit_keeps ?_ (List.Subset.trans (by decide) hT)
    refine keeps_ite ?_ ?_
    · refine wr_keeps ?_ (List.Subset.trans (by decide) hT)
      exact hy1
    · exact hy1
  · refine planSent_keeps ?_ (List.Subset.trans (by decide) hT)
    exact hy1

theorem execTwinRec_keeps {T : List Part} {s0 : State} {len : Nat} {s : State} (hs : Keeps T s0 s)
    (hT : [.regs, .tbl, .mbx, .items, .icu, .evr, .seq, .cpe, .opt, .snet, .dio, .priv, .twin, .dev, .sent, .free] ⊆ T) :
    KeepsO T s0 (execTwinRec len s) := by
  delta execTwinRec
  refine keepsO_next ?_
  refine entry_keeps ?_ (fun x hx => ?_) (List.Subset.trans (by decide) hT)
  · exact hs
  · refine closeRecord_keeps ?_ (List.Subset.trans (by decide) hT)
    refine tcmds_keeps ?_ (List.Subset.trans (by decide) hT)
    refine tcmds_keeps ?_ (List.Subset.trans (by decide) hT)
    refine setpoints_keeps ?_ (List.Subset.trans (by decide) hT)
    exact hx

end Sys2Proof.Machine
end

