-- ==== Sys2Proof/Laws/KeepBoot.lean ====
section
/-! SUPPORT. What each operation of Machine/Boot.lean keeps: the canonical form, the queue, and the parts it does not name. -/

namespace Sys2Proof.Machine

theorem cfgPut_keeps {T : List Part} {s0 : State} {s : State} {t : TableInfo} {idx : Nat} {ws : List Word} (hs : Keeps T s0 s)
    (hT : [.tbl] ⊆ T) :
    Keeps T s0 (State.cfgPut s t idx ws) := by
  delta State.cfgPut
  refine keeps_ite ?_ ?_
  · exact hs
  · refine keeps_ite ?_ ?_
    · refine writeRecord_keeps ?_ (List.Subset.trans (by decide) hT)
      refine writeRecord_keeps ?_ (List.Subset.trans (by decide) hT)
      exact hs
    · refine writeRecord_keeps ?_ (List.Subset.trans (by decide) hT)
      exact hs

theorem cfgPairRegs_keeps {T : List Part} {s0 : State} {a : State} {s : State} {c : Nat} (ha : Keeps T s0 a) (_hs : Keeps T s0 s)
    (hT : [.regs] ⊆ T) :
    Keeps T s0 (State.cfgPairRegs a s c) := by
  delta State.cfgPairRegs
  refine keeps_ite ?_ ?_
  · refine setF_keeps ?_ (List.Subset.trans (by decide) hT)
    refine setF_keeps ?_ (List.Subset.trans (by decide) hT)
    refine wr_keeps ?_ (List.Subset.trans (by decide) hT)
    exact ha
  · exact ha

theorem cfgLoad_keeps {T : List Part} {s0 : State} {s : State} {c : Nat} (hs : Keeps T s0 s)
    (hT : [.regs, .tbl, .mbx, .cfg] ⊆ T) :
    Keeps T s0 (State.cfgLoad s c) := by
  delta State.cfgLoad
  extract_lets +onlyGivenNames ini
  extract_lets +onlyGivenNames x1
  have h1 : Keeps T s0 x1 := by
    refine keeps_foldl hs (fun a e ha => ?_)
    exact keeps_ite (wr_keeps ha (List.Subset.trans (by decide) hT)) ha
  clear_value x1
  extract_lets +onlyGivenNames x2
  have h2 : Keeps T s0 x2 := by
    refine keeps_foldl h1 (fun a e ha => ?_)
    refine keeps_foldl ha (fun b e hb => ?_)
    exact cfgPut_keeps hb (List.Subset.trans (by decide) hT)
  clear_value x2
  exact keeps_same (cfgPairRegs_keeps (c := c) h2 hs (List.Subset.trans (by decide) hT)) (fun q => ⟨q.regs, q.vis, q.tbl, q.shadow, q.tshadow⟩) rfl
    (fun p hp => by cases p <;> first | rfl | exact absurd (hT (by decide)) hp)

theorem cfgDerive_keeps {T : List Part} {s0 : State} {s : State} (hs : Keeps T s0 s)
    (hT : [.regs, .tbl, .mbx, .items, .icu, .evr, .cpe, .time, .model, .opt, .snet, .can, .dio, .adc, .cpeNv, .dev] ⊆ T) :
    Keeps T s0 (State.cfgDerive s) := by
  delta State.cfgDerive
  extract_lets +onlyGivenNames y1
  have hy1 : Keeps T s0 y1 := by
    unfold y1
    refine keeps_foldl ?_ (fun a e ha => ?_)
    · exact hs
    · refine setB_keeps ?_ (List.Subset.trans (by decide) hT)
      exact ha
  extract_lets +onlyGivenNames y2
  extract_lets +onlyGivenNames y3
  have hy3 : Keeps T s0 y3 := by
    unfold y3
    refine evrSetTokens_keeps ?_ (List.Subset.trans (by decide) hT)
    refine keeps_foldl ?_ (fun a e ha => ?_)
    · exact hy1
    · refine evrSetTokens_keeps ?_ (List.Subset.trans (by decide) hT)
      exact ha
  extract_lets +onlyGivenNames y4
  have hy4 : Keeps T s0 y4 := by
    unfold y4
    refine optMod_keeps ?_ (List.Subset.trans (by decide) hT)
    refine setF_keeps ?_ (List.Subset.trans (by decide) hT)
    exact hy3
  extract_lets +onlyGivenNames y5
  have hy5 : Keeps T s0 y5 := by
    unfold y5
    refine adaptReset_keeps ?_ (List.Subset.trans (by decide) hT)
    refine cpeStart_keeps ?_ (List.Subset.trans (by decide) hT)
    refine cpeStart_keeps ?_ (List.Subset.trans (by decide) hT)
    exact hy4
  extract_lets +onlyGivenNames y6
  have hy6 : Keeps T s0 y6 := by
    unfold y6
    refine modelSoftReset_keeps ?_ (List.Subset.trans (by decide) hT)
    refine optCounts_keeps ?_ (List.Subset.trans (by decide) hT)
    refine seqInfo_keeps ?_ (List.Subset.trans (by decide) hT)
    refine modelDef_keeps ?_ (List.Subset.trans (by decide) hT)
    exact hy5
  extract_lets +onlyGivenNames y7
  have hy7 : Keeps T s0 y7 := by
    unfold y7
    refine keeps_foldl ?_ (fun a e ha => ?_)
    · exact hy6
    · refine imgType_keeps ?_ (List.Subset.trans (by decide) hT)
      refine nodeInit_keeps ?_ (List.Subset.trans (by decide) hT)
      exact ha
  extract_lets +onlyGivenNames y8
  have hy8 : Keeps T s0 y8 := by
    unfold y8
    refine loopGroupFields_keeps ?_ (List.Subset.trans (by decide) hT)
    refine allSlots_keeps ?_ (List.Subset.trans (by decide) hT)
    refine groupDefs_keeps ?_ (List.Subset.trans (by decide) hT)
    exact hy7
  extract_lets +onlyGivenNames y9
  have hy9 : Keeps T s0 y9 := by
    unfold y9
    refine keeps_foldl ?_ (fun a e ha => ?_)
    · exact hy8
    · refine canTick_keeps ?_ (List.Subset.trans (by decide) hT)
      refine keeps_foldl ?_ (fun a e ha => ?_)
      · exact ha
      · refine stnInit_keeps ?_ (List.Subset.trans (by decide) hT)
        exact ha
  refine aoutStat_keeps ?_ (List.Subset.trans (by decide) hT)
  refine adcSels_keeps ?_ (List.Subset.trans (by decide) hT)
  refine hostRegs_keeps ?_ (List.Subset.trans (by decide) hT)
  refine keyRegs_keeps ?_ (List.Subset.trans (by decide) hT)
  refine ptpStart_keeps ?_ (List.Subset.trans (by decide) hT)
  refine ptpStart_keeps ?_ (List.Subset.trans (by decide) hT)
  exact hy9

theorem cfgUnpend_keeps {T : List Part} {s0 : State} {s : State} (hs : Keeps T s0 s)
    (hT : [.regs] ⊆ T) :
    Keeps T s0 (State.cfgUnpend s) := by
  delta State.cfgUnpend
  refine setF_keeps ?_ (List.Subset.trans (by decide) hT)
  refine setB_keeps ?_ (List.Subset.trans (by decide) hT)
  exact hs

theorem cfgUnverify_keeps {T : List Part} {s0 : State} {s : State} (hs : Keeps T s0 s)
    (hT : [.regs, .tbl, .items, .icu, .evr] ⊆ T) :
    Keeps T s0 (State.cfgUnverify s) := by
  delta State.cfgUnverify
  extract_lets +onlyGivenNames y1
  have hy1 : Keeps T s0 y1 := by
    unfold y1
    refine setB_keeps ?_ (List.Subset.trans (by decide) hT)
    exact hs
  refine keeps_ite ?_ ?_
  · refine raiseEv_keeps ?_ (List.Subset.trans (by decide) hT)
    refine cfgUnpend_keeps ?_ (List.Subset.trans (by decide) hT)
    exact hy1
  · exact hy1

theorem cfgVerifyCmd_keeps {T : List Part} {s0 : State} {s : State} (hs : Keeps T s0 s)
    (hT : [.regs, .keys] ⊆ T) :
    Keeps T s0 (cfgVerifyCmd s).1 := by
  delta cfgVerifyCmd
  refine keeps_iteP ?_ ?_
  · refine keeps_fst ?_
    exact hs
  · refine keeps_iteP ?_ ?_
    · refine keeps_fst ?_
      exact hs
    · refine keeps_fst ?_
      refine keyTaken_keeps ?_ (List.Subset.trans (by decide) hT)
      refine setB_keeps ?_ (List.Subset.trans (by decide) hT)
      refine setB_keeps ?_ (List.Subset.trans (by decide) hT)
      exact hs

theorem execCfgVerify_keeps {T : List Part} {s0 : State} {s : State} (hs : Keeps T s0 s)
    (hT : [.regs, .keys] ⊆ T) :
    KeepsO T s0 (execCfgVerify s) := by
  delta execCfgVerify
  refine keepsO_next ?_
  refine cfgVerifyCmd_keeps ?_ (List.Subset.trans (by decide) hT)
  exact hs

theorem cfgFail_keeps {T : List Part} {s0 : State} {s : State} {code : Nat} {off : Nat} {sub : Word} {rec_ : Word} (hs : Keeps T s0 s)
    (hT : [.regs, .tbl, .items, .icu, .evr] ⊆ T) :
    Keeps T s0 (State.cfgFail s code off sub rec_) := by
  delta State.cfgFail
  extract_lets +onlyGivenNames y1
  have hy1 : Keeps T s0 y1 := by
    unfold y1
    refine wr_keeps ?_ (List.Subset.trans (by decide) hT)
    refine wr_keeps ?_ (List.Subset.trans (by decide) hT)
    exact hs
  refine raiseEv_keeps ?_ (List.Subset.trans (by decide) hT)
  refine setB_keeps ?_ (List.Subset.trans (by decide) hT)
  refine setB_keeps ?_ (List.Subset.trans (by decide) hT)
  refine wr_keeps ?_ (List.Subset.trans (by decide) hT)
  exact hy1

theorem execCfgVerifyEnd_keeps {T : List Part} {s0 : State} {o : CfgObs} {s : State} (hs : Keeps T s0 s)
    (hT : [.regs, .tbl, .items, .icu, .evr] ⊆ T) :
    KeepsO T s0 (execCfgVerifyEnd o s) := by
  delta execCfgVerifyEnd
  refine keepsO_next ?_
  refine keeps_ite ?_ ?_
  · exact hs
  · extract_lets +onlyGivenNames y1
    refine keeps_ite ?_ ?_
    · extract_lets +onlyGivenNames y2
      have hy2 : Keeps T s0 y2 := by
        unfold y2
        refine wr_keeps ?_ (List.Subset.trans (by decide) hT)
        refine wr_keeps ?_ (List.Subset.trans (by decide) hT)
        refine wr_keeps ?_ (List.Subset.trans (by decide) hT)
        exact hs
      extract_lets +onlyGivenNames y3
      have hy3 : Keeps T s0 y3 := by
        unfold y3
        refine wr_keeps ?_ (List.Subset.trans (by decide) hT)
        refine wr_keeps ?_ (List.Subset.trans (by decide) hT)
        refine wr_keeps ?_ (List.Subset.trans (by decide) hT)
        exact hy2
      refine raiseEv_keeps ?_ (List.Subset.trans (by decide) hT)
      refine setB_keeps ?_ (List.Subset.trans (by decide) hT)
      refine setB_keeps ?_ (List.Subset.trans (by decide) hT)
      refine setB_keeps ?_ (List.Subset.trans (by decide) hT)
      exact hy3
    · refine cfgFail_keeps ?_ (List.Subset.trans (by decide) hT)
      exact hs

theorem cfgWritten_keeps {T : List Part} {s0 : State} {s : State} (hs : Keeps T s0 s)
    (hT : [.regs, .tbl, .items, .icu, .evr] ⊆ T) :
    Keeps T s0 (State.cfgWritten s) := by
  delta State.cfgWritten
  extract_lets +onlyGivenNames y1
  have hy1 : Keeps T s0 y1 := by
    unfold y1
    refine cfgUnverify_keeps ?_ (List.Subset.trans (by decide) hT)
    exact hs
  refine keeps_ite ?_ ?_
  · refine cfgFail_keeps ?_ (List.Subset.trans (by decide) hT)
    exact hy1
  · exact hy1

theorem cfgSwitchCmd_keeps {T : List Part} {s0 : State} {s : State} (hs : Keeps T s0 s)
    (hT : [.regs] ⊆ T) :
    Keeps T s0 (cfgSwitchCmd s).1 := by
  delta cfgSwitchCmd
  refine keeps_iteP ?_ ?_
  · refine keeps_fst ?_
    refine setF_keeps ?_ (List.Subset.trans (by decide) hT)
    refine setB_keeps ?_ (List.Subset.trans (by decide) hT)
    exact hs
  · refine keeps_fst ?_
    exact hs

theorem execCfgSwitch_keeps {T : List Part} {s0 : State} {s : State} (hs : Keeps T s0 s)
    (hT : [.regs] ⊆ T) :
    KeepsO T s0 (execCfgSwitch s) := by
  delta execCfgSwitch
  refine keepsO_next ?_
  refine cfgSwitchCmd_keeps ?_ (List.Subset.trans (by decide) hT)
  exact hs

theorem cfgCancelCmd_keeps {T : List Part} {s0 : State} {s : State} (hs : Keeps T s0 s)
    (hT : [.regs] ⊆ T) :
    Keeps T s0 (cfgCancelCmd s) := by
  delta cfgCancelCmd
  refine keeps_ite ?_ ?_
  · refine cfgUnpend_keeps ?_ (List.Subset.trans (by decide) hT)
    exact hs
  · exact hs

theorem execCfgCancel_keeps {T : List Part} {s0 : State} {s : State} (hs : Keeps T s0 s)
    (hT : [.regs] ⊆ T) :
    KeepsO T s0 (execCfgCancel s) := by
  delta execCfgCancel
  refine keepsO_next ?_
  refine cfgCancelCmd_keeps ?_ (List.Subset.trans (by decide) hT)
  exact hs

theorem cfgSoftReset_keeps {T : List Part} {s0 : State} {s : State} (hs : Keeps T s0 s)
    (hT : [.regs, .tbl, .items, .icu, .evr] ⊆ T) :
    Keeps T s0 (cfgSoftReset s) := by
  delta cfgSoftReset
  refine cfgUnverify_keeps ?_ (List.Subset.trans (by decide) hT)
  exact hs

theorem restartNow_keeps {T : List Part} {s0 : State} {s : State} {cause : Nat} (hs : Keeps T s0 s)
    (hT : [.regs, .lnch, .dev] ⊆ T) :
    Keeps T s0 (State.restartNow s cause) := by
  delta State.restartNow
  extract_lets +onlyGivenNames s1
  have h1 : Keeps T s0 s1 :=
    setB_keeps (setF_keeps (setF_keeps hs (List.Subset.trans (by decide) hT)) (List.Subset.trans (by decide) hT))
      (List.Subset.trans (by decide) hT)
  clear_value s1
  refine aoutStat_keeps ?_ (List.Subset.trans (by decide) hT)
  exact keeps_same h1 (fun q => ⟨q.regs, q.vis, q.tbl, q.shadow, q.tshadow⟩) rfl
    (fun p hp => by cases p <;> first | rfl | exact absurd (hT (by decide)) hp)

theorem restartMet_keeps {T : List Part} {s0 : State} {s : State} (hs : Keeps T s0 s)
    (hT : [.regs, .lnch, .met, .metNv, .dev] ⊆ T) :
    Keeps T s0 (State.restartMet s) := by
  delta State.restartMet
  refine restartNow_keeps ?_ (List.Subset.trans (by decide) hT)
  refine metPowerOff_keeps ?_ (List.Subset.trans (by decide) hT)
  refine lastGasp_keeps ?_ (List.Subset.trans (by decide) hT)
  exact hs

theorem restartCmd_keeps {T : List Part} {s0 : State} {s : State} (hs : Keeps T s0 s)
    (hT : [.regs, .tbl, .host, .items, .icu, .evr, .time, .opt, .lnch, .met, .metNv, .twin, .dev, .sent] ⊆ T) :
    Keeps T s0 (restartCmd s) := by
  delta restartCmd
  refine keeps_ite ?_ ?_
  · extract_lets +onlyGivenNames y1
    have hy1 : Keeps T s0 y1 := by
      unfold y1
      refine twinSwitchCmd_keeps ?_ (List.Subset.trans (by decide) hT)
      exact hs
    refine keeps_dev ?_ (List.Subset.trans (by decide) hT)
    exact hy1
  · refine restartMet_keeps ?_ (List.Subset.trans (by decide) hT)
    exact hs

theorem execRestart_keeps {T : List Part} {s0 : State} {s : State} (hs : Keeps T s0 s)
    (hT : [.regs, .tbl, .host, .items, .icu, .evr, .time, .opt, .lnch, .met, .metNv, .twin, .dev, .sent] ⊆ T) :
    KeepsO T s0 (execRestart s) := by
  delta execRestart
  refine keepsO_next ?_
  refine restartCmd_keeps ?_ (List.Subset.trans (by decide) hT)
  exact hs

theorem restartPairCmd_keeps {T : List Part} {s0 : State} {s : State} (hs : Keeps T s0 s)
    (hT : [.regs, .lnch, .met, .metNv, .dev] ⊆ T) :
    Keeps T s0 (restartPairCmd s).1 := by
  delta restartPairCmd
  refine keeps_iteP ?_ ?_
  · refine keeps_fst ?_
    refine restartMet_keeps ?_ (List.Subset.trans (by decide) hT)
    exact hs
  · refine keeps_fst ?_
    exact hs

theorem execRestartPair_keeps {T : List Part} {s0 : State} {s : State} (hs : Keeps T s0 s)
    (hT : [.regs, .lnch, .met, .metNv, .dev] ⊆ T) :
    KeepsO T s0 (execRestartPair s) := by
  delta execRestartPair
  refine keepsO_next ?_
  refine restartPairCmd_keeps ?_ (List.Subset.trans (by decide) hT)
  exact hs

theorem execFaultRestart_keeps {T : List Part} {s0 : State} {s : State} (hs : Keeps T s0 s)
    (hT : [.regs, .lnch, .dev] ⊆ T) :
    KeepsO T s0 (execFaultRestart s) := by
  delta execFaultRestart
  extract_lets +onlyGivenNames y1
  refine keepsO_next ?_
  refine keeps_ite ?_ ?_
  · refine restartNow_keeps ?_ (List.Subset.trans (by decide) hT)
    exact hs
  · exact hs

theorem powerBase_keeps {T : List Part} {s0 : State} {s : State} {cause : Nat} {ms : Nat} (hs : Keeps T s0 s)
    (hT : [.regs, .vis, .shadow, .tbl, .tshadow, .frzFrom, .commitDue, .mbx, .host, .items, .icu, .evr, .seq, .cpe, .time, .model, .opt, .snet, .can, .dio, .adc, .lnch, .priv, .met, .metNv, .pwr, .cpeNv, .loop, .twin, .segs, .keys, .cfg, .dev, .sent, .free] ⊆ T) :
    Keeps T s0 (State.powerBase s cause ms) := by
  delta State.powerBase
  extract_lets +onlyGivenNames at_
  extract_lets +onlyGivenNames act
  have ha : ∀ a f, Keeps T s0 a → Keeps T s0 (act a f) := fun a f h => setF_keeps h (List.Subset.trans (by decide) hT)
  clear_value act
  refine ha _ _ (ha _ _ (keeps_same hs (fun q => ?_) rfl (fun p hp => ?_)))
  · have h1 : smWf tblReset (smFilter s.tbl (fun k => keptTable (tkeyTid k) && !(tkeyTid k == 0x0901))) = true :=
      smWf_smFilter _ _ _ q.tbl
    exact ⟨smWf_filter _ _ _ q.regs, smWf_nil _, h1, rfl, rfl⟩
  · cases p <;> exact absurd (hT (by decide)) hp

theorem stepEnd_keeps {T : List Part} {s0 : State} {s : State} {k : Nat} {ms : Nat} (hs : Keeps T s0 s)
    (hT : [.regs] ⊆ T) :
    Keeps T s0 (State.stepEnd s k ms) := by
  delta State.stepEnd
  refine wr_keeps ?_ (List.Subset.trans (by decide) hT)
  exact hs

theorem inStep_keeps {T : List Part} {s0 : State} {s : State} {k : Nat} (hs : Keeps T s0 s)
    (hT : [.regs] ⊆ T) :
    Keeps T s0 (State.inStep s k) := by
  delta State.inStep
  refine setF_keeps ?_ (List.Subset.trans (by decide) hT)
  exact hs

theorem stepEnds_keeps {T : List Part} {s0 : State} {s : State} {o : BootObs} {k : Nat} {n : Nat} (hs : Keeps T s0 s)
    (hT : [.regs] ⊆ T) :
    Keeps T s0 (State.stepEnds s o k n) := by
  delta State.stepEnds
  refine keeps_foldl ?_ (fun a e ha => ?_)
  · exact hs
  · refine stepEnd_keeps ?_ (List.Subset.trans (by decide) hT)
    exact ha

theorem bootFirmware_keeps {T : List Part} {s0 : State} {s : State} {o : BootObs} (hs : Keeps T s0 s)
    (hT : [.regs] ⊆ T) :
    Keeps T s0 (State.bootFirmware s o).1 := by
  delta State.bootFirmware
  extract_lets +onlyGivenNames y1
  extract_lets +onlyGivenNames y2
  extract_lets +onlyGivenNames y3
  extract_lets +onlyGivenNames y4
  have hy4 : Keeps T s0 y4 := by
    unfold y4
    refine setB_keeps ?_ (List.Subset.trans (by decide) hT)
    refine setB_keeps ?_ (List.Subset.trans (by decide) hT)
    refine setB_keeps ?_ (List.Subset.trans (by decide) hT)
    exact hs
  refine keeps_iteP ?_ ?_
  · refine keeps_fst ?_
    refine setF_keeps ?_ (List.Subset.trans (by decide) hT)
    exact hy4
  · refine keeps_fst ?_
    exact hy4

theorem factoryLoad_keeps {T : List Part} {s0 : State} {s : State} (hs : Keeps T s0 s)
    (hT : [.regs, .tbl, .cfg] ⊆ T) :
    Keeps T s0 (State.factoryLoad s) := by
  delta State.factoryLoad
  extract_lets +onlyGivenNames y1
  have hy1 : Keeps T s0 y1 := by
    unfold y1
    refine keeps_foldl ?_ (fun a e ha => ?_)
    · exact hs
    · refine setB_keeps ?_ (List.Subset.trans (by decide) hT)
      exact ha
  extract_lets +onlyGivenNames y2
  have hy2 : Keeps T s0 y2 := by
    unfold y2
    refine setB_keeps ?_ (List.Subset.trans (by decide) hT)
    refine setB_keeps ?_ (List.Subset.trans (by decide) hT)
    refine setB_keeps ?_ (List.Subset.trans (by decide) hT)
    refine setB_keeps ?_ (List.Subset.trans (by decide) hT)
    exact hy1
  extract_lets +onlyGivenNames y3
  have hy3 : Keeps T s0 y3 := by
    unfold y3
    refine wr_keeps ?_ (List.Subset.trans (by decide) hT)
    refine setF_keeps ?_ (List.Subset.trans (by decide) hT)
    refine wr_keeps ?_ (List.Subset.trans (by decide) hT)
    exact hy2
  extract_lets +onlyGivenNames y4
  have hy4 : Keeps T s0 y4 := by
    unfold y4
    refine twr_keeps ?_ (List.Subset.trans (by decide) hT)
    exact hy3
  refine keeps_cfg ?_ (List.Subset.trans (by decide) hT)
  exact hy4

theorem bootBank_keeps {T : List Part} {s0 : State} {s : State} {o : BootObs} (hs : Keeps T s0 s)
    (hT : [.regs, .tbl] ⊆ T) :
    Keeps T s0 (State.bootBank s o).1 := by
  delta State.bootBank
  extract_lets +onlyGivenNames y1
  extract_lets +onlyGivenNames y2
  extract_lets +onlyGivenNames y3
  extract_lets +onlyGivenNames y4
  have hy4 : Keeps T s0 y4 := by
    unfold y4
    refine setF_keeps ?_ (List.Subset.trans (by decide) hT)
    refine setB_keeps ?_ (List.Subset.trans (by decide) hT)
    refine setB_keeps ?_ (List.Subset.trans (by decide) hT)
    exact hs
  extract_lets +onlyGivenNames y5
  have hy5 : Keeps T s0 y5 := by
    unfold y5
    refine keeps_ite ?_ ?_
    · exact hy4
    · refine setF_keeps ?_ (List.Subset.trans (by decide) hT)
      exact hy4
  extract_lets +onlyGivenNames y6
  refine keeps_iteP ?_ ?_
  · refine keeps_fst ?_
    exact hy5
  · extract_lets +onlyGivenNames y7
    have hy7 : Keeps T s0 y7 := by
      unfold y7
      refine keeps_ite ?_ ?_
      · exact hy5
      · refine bankSwap_keeps ?_ (List.Subset.trans (by decide) hT)
        exact hy5
    extract_lets +onlyGivenNames y8
    have hy8 : Keeps T s0 y8 := by
      unfold y8
      refine setB_keeps ?_ (List.Subset.trans (by decide) hT)
      refine setB_keeps ?_ (List.Subset.trans (by decide) hT)
      refine setB_keeps ?_ (List.Subset.trans (by decide) hT)
      refine setF_keeps ?_ (List.Subset.trans (by decide) hT)
      exact hy7
    refine keeps_fst ?_
    exact hy8

theorem cfgActive_keeps {T : List Part} {s0 : State} {s : State} (hs : Keeps T s0 s)
    (hT : [.regs] ⊆ T) :
    Keeps T s0 (State.cfgActive s) := by
  delta State.cfgActive
  refine wr_keeps ?_ (List.Subset.trans (by decide) hT)
  refine wr_keeps ?_ (List.Subset.trans (by decide) hT)
  refine wr_keeps ?_ (List.Subset.trans (by decide) hT)
  exact hs

theorem epochUp_keeps {T : List Part} {s0 : State} {s : State} (hs : Keeps T s0 s)
    (hT : [.regs] ⊆ T) :
    Keeps T s0 (State.epochUp s) := by
  delta State.epochUp
  refine wr_keeps ?_ (List.Subset.trans (by decide) hT)
  exact hs

theorem bootLoad_keeps {T : List Part} {s0 : State} {s : State} (hs : Keeps T s0 s)
    (hT : [.regs, .tbl, .mbx, .items, .icu, .evr, .cpe, .time, .model, .opt, .snet, .can, .dio, .adc, .met, .metNv, .cpeNv, .cfg, .dev] ⊆ T) :
    Keeps T s0 (State.bootLoad s) := by
  delta State.bootLoad
  extract_lets +onlyGivenNames y1
  have hy1 : Keeps T s0 y1 := by
    unfold y1
    refine epochUp_keeps ?_ (List.Subset.trans (by decide) hT)
    refine cfgActive_keeps ?_ (List.Subset.trans (by decide) hT)
    refine cfgLoad_keeps ?_ (List.Subset.trans (by decide) hT)
    exact hs
  extract_lets +onlyGivenNames y2
  have hy2 : Keeps T s0 y2 := by
    unfold y2
    refine cfgDerive_keeps ?_ (List.Subset.trans (by decide) hT)
    refine metRestore_keeps ?_ (List.Subset.trans (by decide) hT)
    exact hy1
  refine keeps_ite ?_ ?_
  · refine raiseEv_keeps ?_ (List.Subset.trans (by decide) hT)
    exact hy2
  · exact hy2

theorem step10_keeps {T : List Part} {s0 : State} {s : State} (hs : Keeps T s0 s)
    (hT : [.regs, .dev] ⊆ T) :
    Keeps T s0 (State.step10 s) := by
  delta State.step10
  extract_lets +onlyGivenNames y1
  have hy1 : Keeps T s0 y1 := by
    unfold y1
    refine inStep_keeps ?_ (List.Subset.trans (by decide) hT)
    refine wr_keeps ?_ (List.Subset.trans (by decide) hT)
    exact hs
  refine keeps_dev ?_ (List.Subset.trans (by decide) hT)
  exact hy1

theorem bootSecure_keeps {T : List Part} {s0 : State} {s : State} {o : BootObs} (hs : Keeps T s0 s)
    (hT : [.regs, .vis, .shadow, .tbl, .tshadow, .frzFrom, .commitDue, .mbx, .host, .items, .icu, .evr, .seq, .cpe, .time, .model, .opt, .snet, .can, .dio, .adc, .lnch, .priv, .met, .metNv, .pwr, .cpeNv, .loop, .twin, .segs, .keys, .cfg, .dev, .sent, .free] ⊆ T) :
    Keeps T s0 (State.bootSecure s o) := by
  delta State.bootSecure
  extract_lets +onlyGivenNames y1
  have hy1 : Keeps T s0 y1 := by
    unfold y1
    refine powerBase_keeps ?_ (List.Subset.trans (by decide) hT)
    exact hs
  extract_lets +onlyGivenNames y2
  have hy2 : Keeps T s0 y2 := by
    unfold y2
    refine stepEnd_keeps ?_ (List.Subset.trans (by decide) hT)
    refine bump_keeps ?_ (List.Subset.trans (by decide) hT)
    refine setF_keeps ?_ (List.Subset.trans (by decide) hT)
    refine stepEnd_keeps ?_ (List.Subset.trans (by decide) hT)
    exact hy1
  extract_lets +onlyGivenNames y3
  have hy3 : Keeps T s0 y3 := by
    unfold y3
    refine keeps_ite ?_ ?_
    · refine tamperResponse_keeps ?_ (List.Subset.trans (by decide) hT)
      exact hy2
    · exact hy2
  refine keeps_ite ?_ ?_
  · refine setB_keeps ?_ (List.Subset.trans (by decide) hT)
    refine zeroise_keeps ?_ (List.Subset.trans (by decide) hT)
    exact hy3
  · refine stepEnd_keeps ?_ (List.Subset.trans (by decide) hT)
    exact hy3

theorem bootRole_keeps {T : List Part} {s0 : State} {s : State} (hs : Keeps T s0 s)
    (hT : [.regs, .twin, .dev] ⊆ T) :
    Keeps T s0 (State.bootRole s) := by
  delta State.bootRole
  refine keeps_ite ?_ ?_
  · refine twinMod_keeps ?_ (List.Subset.trans (by decide) hT)
    refine setB_keeps ?_ (List.Subset.trans (by decide) hT)
    exact hs
  · refine step10_keeps ?_ (List.Subset.trans (by decide) hT)
    refine setB_keeps ?_ (List.Subset.trans (by decide) hT)
    exact hs

theorem bootWith_keeps {T : List Part} {s0 : State} {o : BootObs} {r : State × Bool} (hs : Keeps T s0 r.1)
    (hT : [.regs, .tbl, .mbx, .items, .icu, .evr, .cpe, .time, .model, .opt, .snet, .can, .dio, .adc, .met, .metNv, .cpeNv, .twin, .cfg, .dev] ⊆ T) : Keeps T s0 (bootWith o r) := by
  obtain ⟨b, d⟩ := r
  have hb : Keeps T s0 b := hs
  cases d with
  | true =>
    refine bootRole_keeps ?_ (List.Subset.trans (by decide) hT)
    refine inStep_keeps ?_ (List.Subset.trans (by decide) hT)
    refine stepEnds_keeps ?_ (List.Subset.trans (by decide) hT)
    refine setB_keeps ?_ (List.Subset.trans (by decide) hT)
    exact bootLoad_keeps hb (List.Subset.trans (by decide) hT)
  | false =>
    refine goto_keeps ?_ (List.Subset.trans (by decide) hT)
    refine raiseEv_keeps ?_ (List.Subset.trans (by decide) hT)
    refine setB_keeps ?_ (List.Subset.trans (by decide) hT)
    refine inStep_keeps ?_ (List.Subset.trans (by decide) hT)
    refine stepEnds_keeps ?_ (List.Subset.trans (by decide) hT)
    refine cfgDerive_keeps ?_ (List.Subset.trans (by decide) hT)
    refine setB_keeps ?_ (List.Subset.trans (by decide) hT)
    exact factoryLoad_keeps hb (List.Subset.trans (by decide) hT)

theorem bootConfig_keeps {T : List Part} {s0 : State} {s : State} {o : BootObs} (hs : Keeps T s0 s)
    (hT : [.regs, .tbl, .mbx, .items, .icu, .evr, .cpe, .time, .model, .opt, .snet, .can, .dio, .adc, .met, .metNv, .cpeNv, .twin, .cfg, .dev] ⊆ T) :
    Keeps T s0 (State.bootConfig s o) := by
  delta State.bootConfig
  exact bootWith_keeps (bootBank_keeps (inStep_keeps hs (List.Subset.trans (by decide) hT)) (List.Subset.trans (by decide) hT))
    (List.Subset.trans (by decide) hT)

theorem bootTest_keeps {T : List Part} {s0 : State} {s : State} {o : BootObs} (hs : Keeps T s0 s)
    (hT : [.regs, .tbl, .mbx, .items, .icu, .evr, .cpe, .time, .model, .opt, .snet, .can, .dio, .adc, .met, .metNv, .cpeNv, .twin, .cfg, .dev] ⊆ T) :
    Keeps T s0 (State.bootTest s o) := by
  delta State.bootTest
  extract_lets +onlyGivenNames y1
  have hy1 : Keeps T s0 y1 := by
    unfold y1
    refine inStep_keeps ?_ (List.Subset.trans (by decide) hT)
    refine stepEnd_keeps ?_ (List.Subset.trans (by decide) hT)
    exact hs
  refine keeps_ite ?_ ?_
  · refine enterFault_keeps ?_ (List.Subset.trans (by decide) hT)
    exact hy1
  · refine bootConfig_keeps ?_ (List.Subset.trans (by decide) hT)
    refine stepEnd_keeps ?_ (List.Subset.trans (by decide) hT)
    refine setF_keeps ?_ (List.Subset.trans (by decide) hT)
    exact hy1

theorem execPowerGood_keeps {T : List Part} {s0 : State} {o : BootObs} {s : State} (hs : Keeps T s0 s)
    (hT : [.regs, .vis, .shadow, .tbl, .tshadow, .frzFrom, .commitDue, .mbx, .host, .items, .icu, .evr, .seq, .cpe, .time, .model, .opt, .snet, .can, .dio, .adc, .lnch, .priv, .met, .metNv, .pwr, .cpeNv, .loop, .twin, .segs, .keys, .cfg, .dev, .sent, .free] ⊆ T) :
    KeepsO T s0 (execPowerGood o s) := by
  delta execPowerGood
  extract_lets +onlyGivenNames y1
  have hy1 : Keeps T s0 y1.1 := by
    unfold y1
    refine bootFirmware_keeps ?_ (List.Subset.trans (by decide) hT)
    refine inStep_keeps ?_ (List.Subset.trans (by decide) hT)
    refine bootSecure_keeps ?_ (List.Subset.trans (by decide) hT)
    exact hs
  refine keepsO_next ?_
  refine keeps_ite ?_ ?_
  · refine enterFault_keeps ?_ (List.Subset.trans (by decide) hT)
    exact hy1
  · refine bootTest_keeps ?_ (List.Subset.trans (by decide) hT)
    exact hy1

theorem leadFrom_keeps {T : List Part} {s0 : State} {s : State} {e : Nat} (hs : Keeps T s0 s)
    (hT : [.regs, .dev] ⊆ T) :
    Keeps T s0 (State.leadFrom s e) := by
  delta State.leadFrom
  refine step10_keeps ?_ (List.Subset.trans (by decide) hT)
  refine wr_keeps ?_ (List.Subset.trans (by decide) hT)
  exact hs

theorem standBy_keeps {T : List Part} {s0 : State} {s : State} (hs : Keeps T s0 s)
    (hT : [.regs, .tbl, .items, .icu, .evr, .dev] ⊆ T) :
    Keeps T s0 (State.standBy s) := by
  delta State.standBy
  refine goto_keeps ?_ (List.Subset.trans (by decide) hT)
  refine step10_keeps ?_ (List.Subset.trans (by decide) hT)
  exact hs

theorem negotiate_keeps {T : List Part} {s0 : State} {s : State} {o : NegObs} {p : PartnerHb} (hs : Keeps T s0 s)
    (hT : [.regs, .tbl, .host, .items, .icu, .evr, .cpe, .model, .opt, .snet, .lnch, .priv, .met, .metNv, .cpeNv, .loop, .twin, .dev, .free] ⊆ T) :
    Keeps T s0 (State.negotiate s o p) := by
  delta State.negotiate
  refine keeps_ite ?_ ?_
  · refine park_keeps ?_ (List.Subset.trans (by decide) hT)
    exact hs
  · refine keeps_ite ?_ ?_
    · refine keeps_ite ?_ ?_
      · refine leadFrom_keeps ?_ (List.Subset.trans (by decide) hT)
        exact hs
      · refine park_keeps ?_ (List.Subset.trans (by decide) hT)
        exact hs
    · refine keeps_ite ?_ ?_
      · refine keeps_ite ?_ ?_
        · refine standBy_keeps ?_ (List.Subset.trans (by decide) hT)
          refine discardState_keeps ?_ (List.Subset.trans (by decide) hT)
          refine twinKey_keeps ?_ (List.Subset.trans (by decide) hT)
          exact hs
        · refine keeps_ite ?_ ?_
          · refine raiseEv_keeps ?_ (List.Subset.trans (by decide) hT)
            refine park_keeps ?_ (List.Subset.trans (by decide) hT)
            exact hs
          · refine standBy_keeps ?_ (List.Subset.trans (by decide) hT)
            refine twinKey_keeps ?_ (List.Subset.trans (by decide) hT)
            exact hs
      · refine keeps_ite ?_ ?_
        · extract_lets +onlyGivenNames y1
          extract_lets +onlyGivenNames y2
          have hy2 : Keeps T s0 y2 := by
            unfold y2
            refine twinKey_keeps ?_ (List.Subset.trans (by decide) hT)
            exact hs
          refine keeps_ite ?_ ?_
          · refine leadFrom_keeps ?_ (List.Subset.trans (by decide) hT)
            exact hy2
          · refine standBy_keeps ?_ (List.Subset.trans (by decide) hT)
            refine wr_keeps ?_ (List.Subset.trans (by decide) hT)
            exact hy2
        · refine leadFrom_keeps ?_ (List.Subset.trans (by decide) hT)
          exact hs

theorem execRoleNegotiation_keeps {T : List Part} {s0 : State} {o : NegObs} {s : State} (hs : Keeps T s0 s)
    (hT : [.regs, .tbl, .host, .items, .icu, .evr, .cpe, .model, .opt, .snet, .lnch, .priv, .met, .metNv, .cpeNv, .loop, .twin, .dev, .free] ⊆ T) :
    KeepsO T s0 (execRoleNegotiation o s) := by
  delta execRoleNegotiation
  refine keepsO_next ?_
  refine keeps_ite ?_ ?_
  · exact hs
  · extract_lets +onlyGivenNames y1
    have hy1 : Keeps T s0 y1 := by
      unfold y1
      refine twinMod_keeps ?_ (List.Subset.trans (by decide) hT)
      refine inStep_keeps ?_ (List.Subset.trans (by decide) hT)
      exact hs
    split
    · extract_lets +onlyGivenNames y2
      have hy2 : Keeps T s0 y2 := by
        unfold y2
        refine wr_keeps ?_ (List.Subset.trans (by decide) hT)
        refine wr_keeps ?_ (List.Subset.trans (by decide) hT)
        exact hy1
      refine keeps_ite ?_ ?_
      · refine keeps_ite ?_ ?_
        · refine park_keeps ?_ (List.Subset.trans (by decide) hT)
          exact hy2
        · refine keeps_ite ?_ ?_
          · exact hy2
          · refine step10_keeps ?_ (List.Subset.trans (by decide) hT)
            exact hy2
      · refine negotiate_keeps ?_ (List.Subset.trans (by decide) hT)
        exact hy2
    · refine keeps_ite ?_ ?_
      · refine park_keeps ?_ (List.Subset.trans (by decide) hT)
        exact hy1
      · exact hy1

theorem execNegWaitExpire_keeps {T : List Part} {s0 : State} {s : State} (hs : Keeps T s0 s)
    (hT : [.regs, .dev] ⊆ T) :
    KeepsO T s0 (execNegWaitExpire s) := by
  delta execNegWaitExpire
  refine keepsO_next ?_
  refine keeps_ite ?_ ?_
  · refine keeps_ite ?_ ?_
    · refine step10_keeps ?_ (List.Subset.trans (by decide) hT)
      exact hs
    · refine leadFrom_keeps ?_ (List.Subset.trans (by decide) hT)
      exact hs
  · exact hs

theorem execBootDone_keeps {T : List Part} {s0 : State} {s : State} (hs : Keeps T s0 s)
    (hT : [.regs, .tbl, .items, .icu, .evr, .dev] ⊆ T) :
    KeepsO T s0 (execBootDone s) := by
  delta execBootDone
  refine keepsO_next ?_
  refine keeps_ite ?_ ?_
  · extract_lets +onlyGivenNames y1
    extract_lets +onlyGivenNames y2
    have hy2 : Keeps T s0 y2 := by
      unfold y2
      refine inStep_keeps ?_ (List.Subset.trans (by decide) hT)
      refine wr_keeps ?_ (List.Subset.trans (by decide) hT)
      refine keeps_ite ?_ ?_
      · exact hs
      · refine wr_keeps ?_ (List.Subset.trans (by decide) hT)
        exact hs
    extract_lets +onlyGivenNames y3
    extract_lets +onlyGivenNames y4
    have hy4 : Keeps T s0 y4 := by
      unfold y4
      refine setB_keeps ?_ (List.Subset.trans (by decide) hT)
      refine keeps_dev ?_ (List.Subset.trans (by decide) hT)
      exact hy2
    refine raiseEv_keeps ?_ (List.Subset.trans (by decide) hT)
    refine keeps_ite ?_ ?_
    · exact hy4
    · refine goto_keeps ?_ (List.Subset.trans (by decide) hT)
      exact hy4
  · exact hs

theorem coldLoad_keeps {T : List Part} {s0 : State} {s : State} (hs : Keeps T s0 s)
    (hT : [.regs, .shadow, .tbl, .tshadow, .commitDue, .mbx, .items, .icu, .evr, .cpe, .time, .model, .opt, .snet, .can, .dio, .adc, .lnch, .priv, .met, .metNv, .cpeNv, .loop, .cfg, .dev] ⊆ T) :
    Keeps T s0 (State.coldLoad s) := by
  delta State.coldLoad
  extract_lets +onlyGivenNames mine
  extract_lets +onlyGivenNames x1
  extract_lets +onlyGivenNames x2
  extract_lets +onlyGivenNames x3
  extract_lets +onlyGivenNames x4
  extract_lets +onlyGivenNames b
  have hb : Keeps T s0 b := by
    refine keeps_same hs (fun q => ?_) rfl (fun p hp => by cases p <;> first | rfl | exact absurd (hT (by decide)) hp)
    have h1 : smWf tblReset (smFilter s.tbl (fun k => keptTable (tkeyTid k) || ownPage (tablePage (tkeyTid k)))) = true :=
      smWf_smFilter _ _ _ q.tbl
    exact ⟨smWf_filter _ _ _ q.regs, q.vis, h1, rfl, rfl⟩
  clear_value b
  exact cfgDerive_keeps (metRestore_keeps (cfgLoad_keeps hb (List.Subset.trans (by decide) hT)) (List.Subset.trans (by decide) hT))
    (List.Subset.trans (by decide) hT)

theorem execTwinCold_keeps {T : List Part} {s0 : State} {s : State} (hs : Keeps T s0 s)
    (hT : [.regs, .shadow, .tbl, .tshadow, .commitDue, .mbx, .host, .items, .icu, .evr, .cpe, .time, .model, .opt, .snet, .can, .dio, .adc, .lnch, .priv, .met, .metNv, .cpeNv, .loop, .twin, .segs, .keys, .cfg, .dev, .sent] ⊆ T) :
    KeepsO T s0 (execTwinCold s) := by
  delta execTwinCold
  refine keepsO_next ?_
  refine keeps_ite ?_ ?_
  · extract_lets +onlyGivenNames y1
    extract_lets +onlyGivenNames y2
    have hy2 : Keeps T s0 y2 := by
      unfold y2
      refine metPowerOff_keeps ?_ (List.Subset.trans (by decide) hT)
      refine epochUp_keeps ?_ (List.Subset.trans (by decide) hT)
      refine keeps_foldl ?_ (fun a e ha => ?_)
      · refine coldLoad_keeps ?_ (List.Subset.trans (by decide) hT)
        exact hs
      · refine overlay_keeps ?_ (List.Subset.trans (by decide) hT)
        exact ha
    extract_lets +onlyGivenNames y3
    have hy3 : Keeps T s0 y3 := by
      unfold y3
      refine keeps_foldl ?_ (fun a e ha => ?_)
      · exact hy2
      · refine nodeInit_keeps ?_ (List.Subset.trans (by decide) hT)
        exact ha
    extract_lets +onlyGivenNames y4
    have hy4 : Keeps T s0 y4 := by
      unfold y4
      refine takeOver_keeps ?_ (List.Subset.trans (by decide) hT)
      refine tickEarly_keeps ?_ (List.Subset.trans (by decide) hT)
      refine keeps_segs ?_ (List.Subset.trans (by decide) hT)
      exact hy3
    refine raiseEv_keeps ?_ (List.Subset.trans (by decide) hT)
    refine twinMod_keeps ?_ (List.Subset.trans (by decide) hT)
    exact hy4
  · exact hs

end Sys2Proof.Machine
end

