-- ==== Sys2Proof/Laws/KeepOverrun.lean ====
section
/-! SUPPORT. What each operation of Machine/Overrun.lean keeps: the canonical form, the queue, and the parts it does not name. -/

namespace Sys2Proof.Machine

theorem overrunWork_keeps {T : List Part} {s0 : State} {s : State} {e : Entry} {done : Nat} (hs : Keeps T s0 s)
    (hT : [.regs, .shadow, .tbl, .mbx, .items, .icu, .evr, .cpe, .dio, .lnch, .priv, .loop, .dev] ⊆ T) :
    Keeps T s0 (State.overrunWork s e done) := by
  delta State.overrunWork
  refine keeps_ite ?_ ?_
  · refine cpeOverrun_keeps ?_ (List.Subset.trans (by decide) hT)
    exact hs
  · refine keeps_ite ?_ ?_
    · refine loopsRun_keeps ?_ (List.Subset.trans (by decide) hT)
      exact hs
    · exact hs

theorem execEntryDeadline_keeps {T : List Part} {s0 : State} {unit : Nat} {entry : Nat} {acked : Stopped} {s : State} (hs : Keeps T s0 s)
    (hT : [.regs, .shadow, .tbl, .mbx, .items, .icu, .evr, .seq, .cpe, .dio, .lnch, .priv, .loop, .dev] ⊆ T) :
    KeepsO T s0 (execEntryDeadline unit entry acked s) := by
  delta execEntryDeadline
  refine keepsO_next ?_
  extract_lets +onlyGivenNames y1
  extract_lets +onlyGivenNames y2
  refine keeps_ite ?_ ?_
  · exact hs
  · extract_lets +onlyGivenNames y3
    have hy3 : Keeps T s0 y3 := by
      unfold y3
      refine keeps_ite ?_ ?_
      · refine overrunWork_keeps ?_ (List.Subset.trans (by decide) hT)
        refine passEntry_keeps ?_ (List.Subset.trans (by decide) hT)
        exact hs
      · exact hs
    refine seqMod_keeps ?_ (List.Subset.trans (by decide) hT)
    exact hy3

theorem execEngineLost_keeps {T : List Part} {s0 : State} {e : Nat} {s : State} (hs : Keeps T s0 s)
    (hT : [.regs, .tbl, .items, .icu, .evr, .seq, .dio, .dev] ⊆ T) :
    KeepsO T s0 (execEngineLost e s) := by
  delta execEngineLost
  refine keepsO_next ?_
  refine keeps_ite ?_ ?_
  · refine enterFault_keeps ?_ (List.Subset.trans (by decide) hT)
    refine raiseEv_keeps ?_ (List.Subset.trans (by decide) hT)
    refine seqMod_keeps ?_ (List.Subset.trans (by decide) hT)
    refine setF_keeps ?_ (List.Subset.trans (by decide) hT)
    exact hs
  · exact hs

end Sys2Proof.Machine
end

