-- ==== Sys2Proof/Laws/KeepIcu.lean ====
section
/-! SUPPORT. What each operation of Machine/Icu.lean keeps: the canonical form, the queue, and the parts it does not name. -/

namespace Sys2Proof.Machine

theorem icuApply_keeps {T : List Part} {s0 : State} {op : IcuOp} {src : Nat} {s : State} (hs : Keeps T s0 s)
    (hT : [.regs, .tbl, .items, .icu] ⊆ T) :
    Keeps T s0 (icuApply op src s) := by
  delta icuApply
  split
  · refine signal_keeps ?_ (List.Subset.trans (by decide) hT)
    exact hs
  · refine signal_keeps ?_ (List.Subset.trans (by decide) hT)
    exact hs
  · refine icuEval_keeps ?_ (List.Subset.trans (by decide) hT)
    refine srcSet_keeps ?_ (List.Subset.trans (by decide) hT)
    exact hs
  · refine icuEval_keeps ?_ (List.Subset.trans (by decide) hT)
    refine srcSet_keeps ?_ (List.Subset.trans (by decide) hT)
    refine srcSet_keeps ?_ (List.Subset.trans (by decide) hT)
    exact hs
  · refine icuEval_keeps ?_ (List.Subset.trans (by decide) hT)
    refine srcSet_keeps ?_ (List.Subset.trans (by decide) hT)
    exact hs
  · refine icuEval_keeps ?_ (List.Subset.trans (by decide) hT)
    refine srcSet_keeps ?_ (List.Subset.trans (by decide) hT)
    exact hs
  · refine icuEval_keeps ?_ (List.Subset.trans (by decide) hT)
    refine srcSet_keeps ?_ (List.Subset.trans (by decide) hT)
    exact hs

theorem icuWrite_keeps {T : List Part} {s0 : State} {op : IcuOp} {eng : Option Nat} {src : Nat} {s : State} (hs : Keeps T s0 s)
    (hT : [.regs, .tbl, .items, .icu, .evr] ⊆ T) :
    Keeps T s0 (icuWrite op eng src s).1 := by
  delta icuWrite
  refine keeps_iteP ?_ ?_
  · refine keeps_fst ?_
    exact hs
  · split
    · refine keeps_iteP ?_ ?_
      · refine keeps_fst ?_
        exact hs
      · refine keeps_fst ?_
        refine icuApply_keeps ?_ (List.Subset.trans (by decide) hT)
        exact hs
    · refine keeps_iteP ?_ ?_
      · refine keeps_fst ?_
        refine raiseEv_keeps ?_ (List.Subset.trans (by decide) hT)
        refine bump_keeps ?_ (List.Subset.trans (by decide) hT)
        exact hs
      · refine keeps_fst ?_
        refine icuApply_keeps ?_ (List.Subset.trans (by decide) hT)
        exact hs

theorem execIcuDoorbell_keeps {T : List Part} {s0 : State} {eng : Option Nat} {src : Nat} {s : State} (hs : Keeps T s0 s)
    (hT : [.regs, .tbl, .items, .icu, .evr] ⊆ T) :
    KeepsO T s0 (execIcuDoorbell eng src s) := by
  delta execIcuDoorbell
  refine keepsO_next ?_
  refine icuWrite_keeps ?_ (List.Subset.trans (by decide) hT)
  exact hs

theorem execIcuEnSet_keeps {T : List Part} {s0 : State} {eng : Option Nat} {src : Nat} {s : State} (hs : Keeps T s0 s)
    (hT : [.regs, .tbl, .items, .icu, .evr] ⊆ T) :
    KeepsO T s0 (execIcuEnSet eng src s) := by
  delta execIcuEnSet
  refine keepsO_next ?_
  refine icuWrite_keeps ?_ (List.Subset.trans (by decide) hT)
  exact hs

theorem execIcuEnClr_keeps {T : List Part} {s0 : State} {eng : Option Nat} {src : Nat} {s : State} (hs : Keeps T s0 s)
    (hT : [.regs, .tbl, .items, .icu, .evr] ⊆ T) :
    KeepsO T s0 (execIcuEnClr eng src s) := by
  delta execIcuEnClr
  refine keepsO_next ?_
  refine icuWrite_keeps ?_ (List.Subset.trans (by decide) hT)
  exact hs

theorem execIcuMaskSet_keeps {T : List Part} {s0 : State} {eng : Option Nat} {src : Nat} {s : State} (hs : Keeps T s0 s)
    (hT : [.regs, .tbl, .items, .icu, .evr] ⊆ T) :
    KeepsO T s0 (execIcuMaskSet eng src s) := by
  delta execIcuMaskSet
  refine keepsO_next ?_
  refine icuWrite_keeps ?_ (List.Subset.trans (by decide) hT)
  exact hs

theorem execIcuMaskClr_keeps {T : List Part} {s0 : State} {eng : Option Nat} {src : Nat} {s : State} (hs : Keeps T s0 s)
    (hT : [.regs, .tbl, .items, .icu, .evr] ⊆ T) :
    KeepsO T s0 (execIcuMaskClr eng src s) := by
  delta execIcuMaskClr
  refine keepsO_next ?_
  refine icuWrite_keeps ?_ (List.Subset.trans (by decide) hT)
  exact hs

theorem execIcuPendSet_keeps {T : List Part} {s0 : State} {eng : Option Nat} {src : Nat} {s : State} (hs : Keeps T s0 s)
    (hT : [.regs, .tbl, .items, .icu, .evr] ⊆ T) :
    KeepsO T s0 (execIcuPendSet eng src s) := by
  delta execIcuPendSet
  refine keepsO_next ?_
  refine icuWrite_keeps ?_ (List.Subset.trans (by decide) hT)
  exact hs

theorem execIcuPendClr_keeps {T : List Part} {s0 : State} {eng : Option Nat} {src : Nat} {s : State} (hs : Keeps T s0 s)
    (hT : [.regs, .tbl, .items, .icu, .evr] ⊆ T) :
    KeepsO T s0 (execIcuPendClr eng src s) := by
  delta execIcuPendClr
  refine keepsO_next ?_
  refine icuWrite_keeps ?_ (List.Subset.trans (by decide) hT)
  exact hs

theorem execIcuClaim_keeps {T : List Part} {s0 : State} {t : Nat} {s : State} (hs : Keeps T s0 s)
    (hT : [.regs, .tbl, .items, .icu, .sent] ⊆ T) :
    KeepsO T s0 (execIcuClaim t s) := by
  delta execIcuClaim
  extract_lets +onlyGivenNames y1
  have hy1 : Keeps T s0 y1.1 := by
    unfold y1
    refine claim_keeps ?_ (List.Subset.trans (by decide) hT)
    exact hs
  refine keepsO_next ?_
  refine emit_keeps ?_ (List.Subset.trans (by decide) hT)
  exact hy1

theorem icuEoi_keeps {T : List Part} {s0 : State} {t : Nat} {src : Nat} {s : State} (hs : Keeps T s0 s)
    (hT : [.regs, .tbl, .items, .icu, .evr] ⊆ T) :
    Keeps T s0 (icuEoi t src s) := by
  delta icuEoi
  refine keeps_ite ?_ ?_
  · exact hs
  · extract_lets +onlyGivenNames y1
    refine keeps_ite ?_ ?_
    · extract_lets +onlyGivenNames y2
      have hy2 : Keeps T s0 y2 := by
        unfold y2
        refine srcSet_keeps ?_ (List.Subset.trans (by decide) hT)
        exact hs
      refine icuEval_keeps ?_ (List.Subset.trans (by decide) hT)
      refine keeps_icu ?_ (List.Subset.trans (by decide) hT)
      exact hy2
    · refine raiseEv_keeps ?_ (List.Subset.trans (by decide) hT)
      refine bump_keeps ?_ (List.Subset.trans (by decide) hT)
      refine icuEval_keeps ?_ (List.Subset.trans (by decide) hT)
      refine setF_keeps ?_ (List.Subset.trans (by decide) hT)
      exact hs

theorem execIcuEoi_keeps {T : List Part} {s0 : State} {t : Nat} {src : Nat} {s : State} (hs : Keeps T s0 s)
    (hT : [.regs, .tbl, .items, .icu, .evr] ⊆ T) :
    KeepsO T s0 (execIcuEoi t src s) := by
  delta execIcuEoi
  refine keepsO_next ?_
  refine icuEoi_keeps ?_ (List.Subset.trans (by decide) hT)
  exact hs

theorem execIcuStackReset_keeps {T : List Part} {s0 : State} {t : Nat} {s : State} (hs : Keeps T s0 s)
    (hT : [.regs, .tbl, .items, .icu] ⊆ T) :
    KeepsO T s0 (execIcuStackReset t s) := by
  delta execIcuStackReset
  refine keepsO_next ?_
  refine stackReset_keeps ?_ (List.Subset.trans (by decide) hT)
  exact hs

theorem icuTableWrite_keeps {T : List Part} {s0 : State} {src : Nat} {v : Word} {s : State} (hs : Keeps T s0 s)
    (hT : [.regs, .tbl, .items, .icu] ⊆ T) :
    Keeps T s0 (icuTableWrite src v s).1 := by
  delta icuTableWrite
  extract_lets +onlyGivenNames y1
  extract_lets +onlyGivenNames y2
  extract_lets +onlyGivenNames y3
  refine keeps_iteP ?_ ?_
  · refine keeps_fst ?_
    exact hs
  · refine keeps_iteP ?_ ?_
    · refine keeps_fst ?_
      exact hs
    · extract_lets +onlyGivenNames y4
      have hy4 : Keeps T s0 y4 := by
        unfold y4
        refine srcSet_keeps ?_ (List.Subset.trans (by decide) hT)
        refine srcSet_keeps ?_ (List.Subset.trans (by decide) hT)
        exact hs
      extract_lets +onlyGivenNames y5
      extract_lets +onlyGivenNames y6
      have hy6 : Keeps T s0 y6 := by
        unfold y6
        refine keeps_ite ?_ ?_
        · refine keeps_icu ?_ (List.Subset.trans (by decide) hT)
          exact hy4
        · exact hy4
      refine keeps_fst ?_
      refine icuEval_keeps ?_ (List.Subset.trans (by decide) hT)
      exact hy6

end Sys2Proof.Machine
end

