-- ==== Sys2Proof/Laws/KeepRecorder.lean ====
section
/-! SUPPORT. What each operation of Machine/Recorder.lean keeps: the canonical form, the queue, and the parts it does not name. -/

namespace Sys2Proof.Machine

theorem recStore_keeps {T : List Part} {s0 : State} {ws : List Word} {s : State} (hs : Keeps T s0 s)
    (hT : [.regs, .tbl] ⊆ T) :
    Keeps T s0 (recStore ws s) := by
  delta recStore
  refine setF_keeps ?_ (List.Subset.trans (by decide) hT)
  refine trecSet_keeps ?_ (List.Subset.trans (by decide) hT)
  exact hs

theorem recCommit_keeps {T : List Part} {s0 : State} {e : Intake} {s : State} (hs : Keeps T s0 s)
    (hT : [.regs, .tbl] ⊆ T) :
    Keeps T s0 (recCommit e s) := by
  delta recCommit
  extract_lets +onlyGivenNames y1
  have hy1 : Keeps T s0 y1 := by
    unfold y1
    split
    · exact hs
    · refine bump_keeps ?_ (List.Subset.trans (by decide) hT)
      refine recStore_keeps ?_ (List.Subset.trans (by decide) hT)
      exact hs
  extract_lets +onlyGivenNames y2
  extract_lets +onlyGivenNames y3
  extract_lets +onlyGivenNames y4
  have hy4 : Keeps T s0 y4 := by
    unfold y4
    refine recStore_keeps ?_ (List.Subset.trans (by decide) hT)
    exact hy1
  split
  · exact hy4
  · refine tset_keeps ?_ (List.Subset.trans (by decide) hT)
    refine twr_keeps ?_ (List.Subset.trans (by decide) hT)
    exact hy4

theorem commitAll_keeps {T : List Part} {s0 : State} {a0 : Nat} {a1 : List Intake} {a2 : State} (ha2 : Keeps T s0 a2)
    (hT : [.regs, .tbl] ⊆ T) :
    Keeps T s0 (commitAll a0 a1 a2).1 := by
  induction a1 generalizing a0 a2 with
  | nil => simpa only [commitAll] using ha2
  | cons e l ih =>
    exact keeps_iteP ha2 (ih (recCommit_keeps ha2 (List.Subset.trans (by decide) hT)))

theorem execEvrRecordCommit_keeps {T : List Part} {s0 : State} {s : State} (hs : Keeps T s0 s)
    (hT : [.regs, .tbl, .evr] ⊆ T) :
    KeepsO T s0 (execEvrRecordCommit s) := by
  delta execEvrRecordCommit
  extract_lets +onlyGivenNames y1
  have hy1 : Keeps T s0 y1.1 := by
    unfold y1
    refine commitAll_keeps ?_ (List.Subset.trans (by decide) hT)
    exact hs
  extract_lets +onlyGivenNames y2
  have hy2 : Keeps T s0 y2 := by
    unfold y2
    exact hy1
  extract_lets +onlyGivenNames y3
  extract_lets +onlyGivenNames y4
  have hy4 : Keeps T s0 y4 := by
    unfold y4
    refine keeps_evr ?_ (List.Subset.trans (by decide) hT)
    exact hy2
  refine keepsO_next ?_
  refine setF_keeps ?_ (List.Subset.trans (by decide) hT)
  refine setF_keeps ?_ (List.Subset.trans (by decide) hT)
  exact hy4

theorem execEvrTokenRefill_keeps {T : List Part} {s0 : State} {k : Nat} {s : State} (hs : Keeps T s0 s)
    (hT : [.regs, .tbl, .evr] ⊆ T) :
    KeepsO T s0 (execEvrTokenRefill k s) := by
  delta execEvrTokenRefill
  refine keepsO_next ?_
  refine keeps_ite ?_ ?_
  · refine evrSetGain_keeps ?_ (List.Subset.trans (by decide) hT)
    refine evrSetTokens_keeps ?_ (List.Subset.trans (by decide) hT)
    exact hs
  · exact hs

theorem evrFreeze_keeps {T : List Part} {s0 : State} {s : State} (hs : Keeps T s0 s)
    (hT : [.regs, .evr] ⊆ T) :
    Keeps T s0 (evrFreeze s) := by
  delta evrFreeze
  refine keeps_ite ?_ ?_
  · exact hs
  · extract_lets +onlyGivenNames y1
    have hy1 : Keeps T s0 y1 := by
      unfold y1
      refine wr_keeps ?_ (List.Subset.trans (by decide) hT)
      refine setF_keeps ?_ (List.Subset.trans (by decide) hT)
      exact hs
    refine keeps_evr ?_ (List.Subset.trans (by decide) hT)
    exact hy1

theorem execEvrFreeze_keeps {T : List Part} {s0 : State} {s : State} (hs : Keeps T s0 s)
    (hT : [.regs, .evr] ⊆ T) :
    KeepsO T s0 (execEvrFreeze s) := by
  delta execEvrFreeze
  refine keepsO_next ?_
  refine evrFreeze_keeps ?_ (List.Subset.trans (by decide) hT)
  exact hs

theorem evrUnfreeze_keeps {T : List Part} {s0 : State} {s : State} (hs : Keeps T s0 s)
    (hT : [.regs] ⊆ T) :
    Keeps T s0 (evrUnfreeze s) := by
  delta evrUnfreeze
  refine setF_keeps ?_ (List.Subset.trans (by decide) hT)
  exact hs

theorem execUnfreeze_keeps {T : List Part} {s0 : State} {s : State} (hs : Keeps T s0 s)
    (hT : [.regs] ⊆ T) :
    KeepsO T s0 (execUnfreeze s) := by
  delta execUnfreeze
  refine keepsO_next ?_
  refine evrUnfreeze_keeps ?_ (List.Subset.trans (by decide) hT)
  exact hs

theorem evrClear_keeps {T : List Part} {s0 : State} {s : State} (hs : Keeps T s0 s)
    (hT : [.regs, .evr] ⊆ T) :
    Keeps T s0 (evrClear s).1 := by
  delta evrClear
  refine keeps_iteP ?_ ?_
  · extract_lets +onlyGivenNames y1
    extract_lets +onlyGivenNames y2
    have hy2 : Keeps T s0 y2 := by
      unfold y2
      refine keeps_evr ?_ (List.Subset.trans (by decide) hT)
      exact hs
    refine keeps_fst ?_
    refine setF_keeps ?_ (List.Subset.trans (by decide) hT)
    refine setF_keeps ?_ (List.Subset.trans (by decide) hT)
    refine setF_keeps ?_ (List.Subset.trans (by decide) hT)
    refine setF_keeps ?_ (List.Subset.trans (by decide) hT)
    exact hy2
  · refine keeps_fst ?_
    exact hs

theorem execEvrClear_keeps {T : List Part} {s0 : State} {s : State} (hs : Keeps T s0 s)
    (hT : [.regs, .evr] ⊆ T) :
    KeepsO T s0 (execEvrClear s) := by
  delta execEvrClear
  refine keepsO_next ?_
  refine evrClear_keeps ?_ (List.Subset.trans (by decide) hT)
  exact hs

theorem evrClrSupp_keeps {T : List Part} {s0 : State} {s : State} (hs : Keeps T s0 s)
    (hT : [.regs, .tbl] ⊆ T) :
    Keeps T s0 (evrClrSupp s) := by
  delta evrClrSupp
  exact setF_keeps (keeps_tbl (x := s) hs (smWf_smFilter _ _ _) (List.Subset.trans (by decide) hT)) (List.Subset.trans (by decide) hT)

theorem execClrSupp_keeps {T : List Part} {s0 : State} {s : State} (hs : Keeps T s0 s)
    (hT : [.regs, .tbl] ⊆ T) :
    KeepsO T s0 (execClrSupp s) := by
  delta execClrSupp
  refine keepsO_next ?_
  refine evrClrSupp_keeps ?_ (List.Subset.trans (by decide) hT)
  exact hs

theorem execFrzExpired_keeps {T : List Part} {s0 : State} {s : State} (hs : Keeps T s0 s)
    (hT : [.regs, .tbl, .items, .icu, .evr] ⊆ T) :
    KeepsO T s0 (execFrzExpired s) := by
  delta execFrzExpired
  extract_lets +onlyGivenNames y1
  refine keepsO_next ?_
  refine keeps_ite ?_ ?_
  · refine raiseEv_keeps ?_ (List.Subset.trans (by decide) hT)
    refine evrUnfreeze_keeps ?_ (List.Subset.trans (by decide) hT)
    exact hs
  · exact hs

theorem evrSoftReset_keeps {T : List Part} {s0 : State} {s : State} (hs : Keeps T s0 s)
    (hT : [.regs, .tbl, .evr] ⊆ T) :
    Keeps T s0 (evrSoftReset s) := by
  delta evrSoftReset
  extract_lets +onlyGivenNames y1
  extract_lets +onlyGivenNames y2
  extract_lets +onlyGivenNames y3
  have hy3 : Keeps T s0 y3 := by
    unfold y3
    refine keeps_foldl ?_ (fun a e ha => ?_)
    · exact hs
    · refine evrSetSupp_keeps ?_ (List.Subset.trans (by decide) hT)
      exact ha
  extract_lets +onlyGivenNames y4
  have hy4 : Keeps T s0 y4 := by
    unfold y4
    refine keeps_foldl ?_ (fun a e ha => ?_)
    · exact hy3
    · refine evrSetTokens_keeps ?_ (List.Subset.trans (by decide) hT)
      exact ha
  extract_lets +onlyGivenNames y5
  have hy5 : Keeps T s0 y5 := by
    unfold y5
    refine evrSetSupp_keeps ?_ (List.Subset.trans (by decide) hT)
    refine evrSetTokens_keeps ?_ (List.Subset.trans (by decide) hT)
    exact hy4
  extract_lets +onlyGivenNames y6
  have hy6 : Keeps T s0 y6 := by
    unfold y6
    refine setF_keeps ?_ (List.Subset.trans (by decide) hT)
    refine setF_keeps ?_ (List.Subset.trans (by decide) hT)
    refine setF_keeps ?_ (List.Subset.trans (by decide) hT)
    refine setF_keeps ?_ (List.Subset.trans (by decide) hT)
    exact hy5
  refine keeps_evr ?_ (List.Subset.trans (by decide) hT)
  exact hy6

theorem evrTableWrite_keeps {T : List Part} {s0 : State} {idx : Nat} {ws : List Word} {s : State} (hs : Keeps T s0 s)
    (hT : [.regs, .tbl] ⊆ T) :
    Keeps T s0 (evrTableWrite idx ws s).1 := by
  delta evrTableWrite
  extract_lets +onlyGivenNames y1
  extract_lets +onlyGivenNames y2
  refine keeps_iteP ?_ ?_
  · refine keeps_fst ?_
    exact hs
  · extract_lets +onlyGivenNames y3
    have hy3 : Keeps T s0 y3 := by
      unfold y3
      refine trecSet_keeps ?_ (List.Subset.trans (by decide) hT)
      exact hs
    extract_lets +onlyGivenNames y4
    have hy4 : Keeps T s0 y4 := by
      unfold y4
      refine evrSetTokens_keeps ?_ (List.Subset.trans (by decide) hT)
      exact hy3
    extract_lets +onlyGivenNames y5
    refine keeps_fst ?_
    refine setF_keeps ?_ (List.Subset.trans (by decide) hT)
    exact hy4

end Sys2Proof.Machine
end

