-- ==== Sys2Proof/Laws/KeepWrites.lean ====
section
/-! SUPPORT. What each operation of Machine/Writes.lean keeps: the canonical form, the queue, and the parts it does not name. -/

namespace Sys2Proof.Machine

theorem shadowPut_keeps {T : List Part} {s0 : State} {s : State} {a : Nat} {v : Word} (hs : Keeps T s0 s)
    (hT : [.regs, .shadow] ⊆ T) :
    Keeps T s0 (State.shadowPut s a v) := by
  delta State.shadowPut
  extract_lets x s1
  have h1 : Keeps T s0 s1 := by
    refine keeps_shadow hs (fun h => ?_) (List.Subset.trans (by decide) hT)
    split
    · exact smSorted_erase _ _ h
    · exact smSorted_insert _ _ _ h
  exact setB_keeps h1 (List.Subset.trans (by decide) hT)

theorem plainWrite_keeps {T : List Part} {s0 : State} {s : State} {a : Nat} {v : Word} (hs : Keeps T s0 s)
    (hT : [.regs, .shadow] ⊆ T) :
    Keeps T s0 (State.plainWrite s a v) := by
  delta State.plainWrite
  extract_lets +onlyGivenNames y1
  have hy1 : Keeps T s0 y1 := by
    unfold y1
    refine keeps_ite ?_ ?_
    · refine wr_keeps ?_ (List.Subset.trans (by decide) hT)
      exact hs
    · exact hs
  refine keeps_ite ?_ ?_
  · refine shadowPut_keeps ?_ (List.Subset.trans (by decide) hT)
    exact hy1
  · exact hy1

theorem shadowApply_keeps {T : List Part} {s0 : State} {s : State} {p : Nat} (hs : Keeps T s0 s)
    (hT : [.regs, .shadow, .tbl, .tshadow] ⊆ T) :
    Keeps T s0 (State.shadowApply s p) := by
  have h1 : ∀ (l : SMap) (x : State), Keeps T s0 x → Keeps T s0 (l.foldl (fun a e => a.wr e.1 (accMerge .rws e.1 (a.rd e.1) e.2)) x) :=
    fun l x h => keeps_foldl h (fun a e ha => wr_keeps ha (List.Subset.trans (by decide) hT))
  have h2 := fun (l : SMap) (x : State) (h : Keeps T s0 x) =>
    keeps_tbl (v := smOver tblReset x.tbl l) h (smWf_over _ _ _) (List.Subset.trans (by decide) hT)
  delta State.shadowApply
  extract_lets x1 x2
  have hx : Keeps T s0 x2 := h2 _ _ (h1 _ _ hs)
  clear_value x2
  exact keeps_tshadow (keeps_shadow (x := x2) hx (smSorted_filter _ _) (List.Subset.trans (by decide) hT))
    (smSorted_filter _ _) (List.Subset.trans (by decide) hT)

theorem shadowDrop_keeps {T : List Part} {s0 : State} {s : State} {p : Nat} (hs : Keeps T s0 s)
    (hT : [.regs, .shadow, .tshadow, .commitDue] ⊆ T) :
    Keeps T s0 (State.shadowDrop s p) := by
  delta State.shadowDrop
  extract_lets x1
  have hx : Keeps T s0 x1 :=
    keeps_commitDue (keeps_tshadow (keeps_shadow (x := s) hs (smSorted_filter _ _) (List.Subset.trans (by decide) hT))
      (smSorted_filter _ _) (List.Subset.trans (by decide) hT)) (List.Subset.trans (by decide) hT)
  exact setB_keeps (setB_keeps hx (List.Subset.trans (by decide) hT)) (List.Subset.trans (by decide) hT)

theorem hostRebind_keeps {T : List Part} {s0 : State} {s : State} (hs : Keeps T s0 s)
    (hT : [.regs, .tbl, .host, .items, .icu, .evr] ⊆ T) :
    Keeps T s0 (State.hostRebind s) := by
  delta State.hostRebind
  extract_lets +onlyGivenNames y1
  refine keeps_foldl ?_ (fun a e ha => ?_)
  · exact hs
  · extract_lets +onlyGivenNames y2
    extract_lets +onlyGivenNames y3
    extract_lets +onlyGivenNames y4
    refine keeps_ite ?_ ?_
    · refine closeSess_keeps ?_ (List.Subset.trans (by decide) hT)
      exact ha
    · exact ha

theorem commitSide_keeps {T : List Part} {s0 : State} {s : State} {p : Nat} (hs : Keeps T s0 s)
    (hT : [.regs, .tbl, .mbx, .host, .items, .icu, .evr, .dio, .adc, .dev] ⊆ T) :
    Keeps T s0 (State.commitSide s p) := by
  delta State.commitSide
  refine keeps_ite ?_ ?_
  · refine adcShort_keeps ?_ (List.Subset.trans (by decide) hT)
    exact hs
  · refine keeps_ite ?_ ?_
    · refine hostRebind_keeps ?_ (List.Subset.trans (by decide) hT)
      exact hs
    · exact hs

theorem commitPage_keeps {T : List Part} {s0 : State} {s : State} {p : Nat} (hs : Keeps T s0 s)
    (hT : [.regs, .shadow, .tbl, .tshadow, .commitDue, .mbx, .host, .items, .icu, .evr, .time, .can, .dio, .adc, .dev] ⊆ T) :
    Keeps T s0 (State.commitPage s p) := by
  delta State.commitPage
  extract_lets +onlyGivenNames y1
  have hy1 : Keeps T s0 y1 := by
    unfold y1
    refine setB_keeps ?_ (List.Subset.trans (by decide) hT)
    refine keeps_commitDue ?_ (List.Subset.trans (by decide) hT)
    exact hs
  extract_lets +onlyGivenNames y2
  refine keeps_ite ?_ ?_
  · extract_lets +onlyGivenNames y3
    have hy3 : Keeps T s0 y3 := by
      unfold y3
      refine setF_keeps ?_ (List.Subset.trans (by decide) hT)
      exact hy1
    refine keeps_ite ?_ ?_
    · exact hy3
    · refine raiseEv_keeps ?_ (List.Subset.trans (by decide) hT)
      exact hy3
  · extract_lets +onlyGivenNames y4
    extract_lets +onlyGivenNames y5
    have hy5 : Keeps T s0 y5 := by
      unfold y5
      refine setB_keeps ?_ (List.Subset.trans (by decide) hT)
      refine shadowApply_keeps ?_ (List.Subset.trans (by decide) hT)
      refine commitSide_keeps ?_ (List.Subset.trans (by decide) hT)
      exact hy1
    extract_lets +onlyGivenNames y6
    have hy6 : Keeps T s0 y6 := by
      unfold y6
      refine keeps_ite ?_ ?_
      · refine canRetimed_keeps ?_ (List.Subset.trans (by decide) hT)
        exact hy5
      · exact hy5
    extract_lets +onlyGivenNames y7
    have hy7 : Keeps T s0 y7 := by
      unfold y7
      refine keeps_ite ?_ ?_
      · refine timeUpgrade_keeps ?_ (List.Subset.trans (by decide) hT)
        exact hy6
      · exact hy6
    refine raiseEv_keeps ?_ (List.Subset.trans (by decide) hT)
    exact hy7

theorem execTimedCommit_keeps {T : List Part} {s0 : State} {page : Nat} {s : State} (hs : Keeps T s0 s)
    (hT : [.regs, .vis, .shadow, .tbl, .tshadow, .commitDue, .mbx, .host, .items, .icu, .evr, .time, .can, .dio, .adc, .dev] ⊆ T) :
    KeepsO T s0 (execTimedCommit page s) := by
  delta execTimedCommit
  refine keepsO_next ?_
  refine andShown_keeps ?_ ?_ (List.Subset.trans (by decide) hT)
  · exact hs
  · refine keeps_ite ?_ ?_
    · refine commitPage_keeps ?_ (List.Subset.trans (by decide) hT)
      exact hs
    · exact hs

theorem imageBack_keeps {T : List Part} {s0 : State} {s : State} {p : Nat} (hs : Keeps T s0 s)
    (hT : [.regs] ⊆ T) :
    Keeps T s0 (State.imageBack s p) := by
  delta State.imageBack
  refine keeps_foldl ?_ (fun a e ha => ?_)
  · exact hs
  · refine keeps_ite ?_ ?_
    · exact ha
    · refine wr_keeps ?_ (List.Subset.trans (by decide) hT)
      exact ha

theorem srstSide_keeps {T : List Part} {s0 : State} {s : State} {p : Nat} {writer : Option Nat} (hs : Keeps T s0 s)
    (hT : [.regs, .tbl, .mbx, .host, .items, .icu, .evr, .cpe, .model, .opt, .snet, .can, .dio, .adc, .lnch, .met, .loop, .dev] ⊆ T) :
    Keeps T s0 (State.srstSide s p writer) := by
  delta State.srstSide
  refine keeps_ite ?_ ?_
  · refine cfgSoftReset_keeps ?_ (List.Subset.trans (by decide) hT)
    exact hs
  · refine keeps_ite ?_ ?_
    · refine lnchSoftReset_keeps ?_ (List.Subset.trans (by decide) hT)
      exact hs
    · refine keeps_ite ?_ ?_
      · refine evrSoftReset_keeps ?_ (List.Subset.trans (by decide) hT)
        exact hs
      · refine keeps_ite ?_ ?_
        · refine keeps_foldl ?_ (fun a e ha => ?_)
          · exact hs
          · refine keeps_ite ?_ ?_
            · exact ha
            · refine closeSess_keeps ?_ (List.Subset.trans (by decide) hT)
              exact ha
        · refine keeps_ite ?_ ?_
          · refine snetSoftReset_keeps ?_ (List.Subset.trans (by decide) hT)
            exact hs
          · refine keeps_ite ?_ ?_
            · refine canSoftReset_keeps ?_ (List.Subset.trans (by decide) hT)
              exact hs
            · refine keeps_ite ?_ ?_
              · refine adcSoftReset_keeps ?_ (List.Subset.trans (by decide) hT)
                exact hs
              · refine keeps_ite ?_ ?_
                · refine modSoftReset_keeps ?_ (List.Subset.trans (by decide) hT)
                  exact hs
                · refine keeps_ite ?_ ?_
                  · refine dioSoftReset_keeps ?_ (List.Subset.trans (by decide) hT)
                    exact hs
                  · refine keeps_ite ?_ ?_
                    · refine loopSoftReset_keeps ?_ (List.Subset.trans (by decide) hT)
                      exact hs
                    · refine keeps_ite ?_ ?_
                      · refine cpeSoftReset_keeps ?_ (List.Subset.trans (by decide) hT)
                        exact hs
                      · refine keeps_ite ?_ ?_
                        · refine modelSoftReset_keeps ?_ (List.Subset.trans (by decide) hT)
                          exact hs
                        · refine keeps_ite ?_ ?_
                          · refine optSoftReset_keeps ?_ (List.Subset.trans (by decide) hT)
                            exact hs
                          · exact hs

theorem recCtrClear_keeps {T : List Part} {s0 : State} {s : State} {p : Nat} (hs : Keeps T s0 s)
    (hT : [.tbl] ⊆ T) :
    Keeps T s0 (State.recCtrClear s p) := by
  delta State.recCtrClear
  refine keeps_foldl ?_ (fun a e ha => ?_)
  · exact hs
  · refine keeps_foldl ?_ (fun a e ha => ?_)
    · exact ha
    · refine twr_keeps ?_ (List.Subset.trans (by decide) hT)
      exact ha

theorem softReset_keeps {T : List Part} {s0 : State} {s : State} {p : Nat} {writer : Option Nat} (hs : Keeps T s0 s)
    (hT : [.regs, .shadow, .tbl, .tshadow, .commitDue, .mbx, .host, .items, .icu, .evr, .cpe, .model, .opt, .snet, .can, .dio, .adc, .lnch, .met, .loop, .dev] ⊆ T) :
    Keeps T s0 (State.softReset s p writer) := by
  delta State.softReset
  extract_lets +onlyGivenNames y1
  have hy1 : Keeps T s0 y1 := by
    unfold y1
    refine shadowDrop_keeps ?_ (List.Subset.trans (by decide) hT)
    refine imageBack_keeps ?_ (List.Subset.trans (by decide) hT)
    exact hs
  extract_lets +onlyGivenNames y2
  have hy2 : Keeps T s0 y2 := by
    unfold y2
    refine wr_keeps ?_ (List.Subset.trans (by decide) hT)
    refine wr_keeps ?_ (List.Subset.trans (by decide) hT)
    exact hy1
  extract_lets +onlyGivenNames y3
  have hy3 : Keeps T s0 y3 := by
    unfold y3
    refine recCtrClear_keeps ?_ (List.Subset.trans (by decide) hT)
    refine keeps_foldl ?_ (fun a e ha => ?_)
    · exact hy2
    · refine clearCtr_keeps ?_ (List.Subset.trans (by decide) hT)
      exact ha
  refine srstSide_keeps ?_ (List.Subset.trans (by decide) hT)
  exact hy3

theorem freeze_keeps {T : List Part} {s0 : State} {s : State} {p : Nat} {on : Bool} (hs : Keeps T s0 s)
    (hT : [.regs, .frzFrom] ⊆ T) :
    Keeps T s0 (State.freeze s p on) := by
  delta State.freeze
  extract_lets +onlyGivenNames y1
  refine keeps_ite ?_ ?_
  · exact hs
  · extract_lets +onlyGivenNames y2
    have hy2 : Keeps T s0 y2 := by
      unfold y2
      refine keeps_frzFrom ?_ (List.Subset.trans (by decide) hT)
      exact hs
    refine setB_keeps ?_ (List.Subset.trans (by decide) hT)
    exact hy2

theorem evtSet_keeps {T : List Part} {s0 : State} {s : State} {p : Nat} {v : Word} (hs : Keeps T s0 s)
    (hT : [.regs, .tbl, .items, .icu, .evr] ⊆ T) :
    Keeps T s0 (State.evtSet s p v) := by
  delta State.evtSet
  refine keeps_foldl ?_ (fun a e ha => ?_)
  · exact hs
  · refine raiseEv_keeps ?_ (List.Subset.trans (by decide) hT)
    exact ha

theorem evtClr_keeps {T : List Part} {s0 : State} {s : State} {p : Nat} {v : Word} (hs : Keeps T s0 s)
    (hT : [.regs] ⊆ T) :
    Keeps T s0 (State.evtClr s p v) := by
  delta State.evtClr
  refine wr_keeps ?_ (List.Subset.trans (by decide) hT)
  exact hs

theorem maskSet_keeps {T : List Part} {s0 : State} {s : State} {p : Nat} {v : Word} (hs : Keeps T s0 s)
    (hT : [.regs] ⊆ T) :
    Keeps T s0 (State.maskSet s p v) := by
  delta State.maskSet
  refine wr_keeps ?_ (List.Subset.trans (by decide) hT)
  exact hs

theorem maskClr_keeps {T : List Part} {s0 : State} {s : State} {p : Nat} {v : Word} (hs : Keeps T s0 s)
    (hT : [.regs, .tbl, .items, .icu] ⊆ T) :
    Keeps T s0 (State.maskClr s p v) := by
  delta State.maskClr
  extract_lets +onlyGivenNames y1
  refine keeps_foldl ?_ (fun a e ha => ?_)
  · refine wr_keeps ?_ (List.Subset.trans (by decide) hT)
    exact hs
  · refine signal_keeps ?_ (List.Subset.trans (by decide) hT)
    exact ha

theorem commitWrite_keeps {T : List Part} {s0 : State} {s : State} {p : Nat} {v : Word} (hs : Keeps T s0 s)
    (hT : [.regs, .shadow, .tshadow, .commitDue] ⊆ T) :
    Keeps T s0 (State.commitWrite s p v) := by
  delta State.commitWrite
  extract_lets +onlyGivenNames y1
  have hy1 : Keeps T s0 y1 := by
    unfold y1
    refine wr_keeps ?_ (List.Subset.trans (by decide) hT)
    exact hs
  refine keeps_ite ?_ ?_
  · refine shadowDrop_keeps ?_ (List.Subset.trans (by decide) hT)
    exact hy1
  · refine keeps_ite ?_ ?_
    · refine setB_keeps ?_ (List.Subset.trans (by decide) hT)
      refine keeps_commitDue ?_ (List.Subset.trans (by decide) hT)
      exact hy1
    · exact hy1

theorem headerWrite_keeps {T : List Part} {s0 : State} {s : State} {p : Nat} {off : Nat} {v : Word} {writer : Option Nat} (hs : Keeps T s0 s)
    (hT : [.regs, .shadow, .tbl, .tshadow, .frzFrom, .commitDue, .mbx, .host, .items, .icu, .evr, .cpe, .model, .opt, .snet, .can, .dio, .adc, .lnch, .met, .loop, .dev] ⊆ T) :
    Keeps T s0 (State.headerWrite s p off v writer).1 := by
  delta State.headerWrite
  refine keeps_iteP ?_ ?_
  · refine keeps_iteP ?_ ?_
    · refine keeps_fst ?_
      exact hs
    · extract_lets +onlyGivenNames y1
      have hy1 : Keeps T s0 y1 := by
        unfold y1
        refine freeze_keeps ?_ (List.Subset.trans (by decide) hT)
        refine plainWrite_keeps ?_ (List.Subset.trans (by decide) hT)
        exact hs
      refine keeps_fst ?_
      refine keeps_ite ?_ ?_
      · refine softReset_keeps ?_ (List.Subset.trans (by decide) hT)
        exact hy1
      · exact hy1
  · refine keeps_iteP ?_ ?_
    · refine keeps_fst ?_
      refine evtSet_keeps ?_ (List.Subset.trans (by decide) hT)
      exact hs
    · refine keeps_iteP ?_ ?_
      · refine keeps_fst ?_
        refine evtClr_keeps ?_ (List.Subset.trans (by decide) hT)
        exact hs
      · refine keeps_iteP ?_ ?_
        · refine keeps_fst ?_
          refine maskSet_keeps ?_ (List.Subset.trans (by decide) hT)
          exact hs
        · refine keeps_iteP ?_ ?_
          · refine keeps_fst ?_
            refine maskClr_keeps ?_ (List.Subset.trans (by decide) hT)
            exact hs
          · refine keeps_iteP ?_ ?_
            · refine keeps_fst ?_
              refine keeps_ite ?_ ?_
              · refine wr_keeps ?_ (List.Subset.trans (by decide) hT)
                exact hs
              · exact hs
            · refine keeps_iteP ?_ ?_
              · refine keeps_fst ?_
                refine commitWrite_keeps ?_ (List.Subset.trans (by decide) hT)
                exact hs
              · refine keeps_iteP ?_ ?_
                · refine keeps_fst ?_
                  refine plainWrite_keeps ?_ (List.Subset.trans (by decide) hT)
                  exact hs
                · refine keeps_fst ?_
                  exact hs

theorem cmds_keeps {T : List Part} {s0 : State} {s : State} {v : Word} {l : List (State → State × Status)} (hs : Keeps T s0 s)
    (hl : ∀ f ∈ l, ∀ x, Keeps T s0 x → Keeps T s0 (f x).1) : Keeps T s0 (State.cmds s v l).1 := by
  delta State.cmds
  have hm : ∀ e ∈ l.zipIdx.filter (fun e => wbit v e.2), ∀ x, Keeps T s0 x → Keeps T s0 (e.1 x).1 := by
    intro e he
    exact hl _ (List.fst_mem_of_mem_zipIdx (List.mem_filter.1 he).1)
  generalize l.zipIdx.filter (fun e => wbit v e.2) = m at hm
  have hs' : Keeps T s0 (s, Status.ok).1 := hs
  generalize (s, Status.ok) = q at hs'
  induction m generalizing q with
  | nil => exact hs'
  | cons e m ih => exact ih (fun e he => hm e (List.mem_cons_of_mem _ he)) _ (hm e (List.mem_cons_self ..) _ hs')

theorem always_keeps {T : List Part} {s0 : State} {f : State → State} {a1 : State} (hf : ∀ x, Keeps T s0 x → Keeps T s0 (f x)) (ha1 : Keeps T s0 a1)
    (_hT : [] ⊆ T) :
    Keeps T s0 (always f a1).1 := by
  delta always
  refine keeps_fst ?_
  refine hf _ ?_
  exact ha1

/-- Every command of a register, if there is one, keeps what is said. -/
def AllKeep (T : List Part) (s0 : State) (o : Option (List (State → State × Status))) : Prop :=
  ∀ l, o = some l → ∀ f ∈ l, ∀ x, Keeps T s0 x → Keeps T s0 (f x).1

theorem allKeep_ite {T : List Part} {s0 : State} {a b : Option (List (State → State × Status))} {c : Prop} [Decidable c]
    (ha : AllKeep T s0 a) (hb : AllKeep T s0 b) : AllKeep T s0 (if c then a else b) := by
  split
  · exact ha
  · exact hb

theorem allKeep_none {T : List Part} {s0 : State} : AllKeep T s0 none := fun _ h => by cases h

theorem allKeep_nil {T : List Part} {s0 : State} : AllKeep T s0 (some []) := by
  intro l h f hf
  cases h
  exact absurd hf (List.not_mem_nil)

theorem allKeep_cons {T : List Part} {s0 : State} {f : State → State × Status} {l : List (State → State × Status)}
    (hf : ∀ x, Keeps T s0 x → Keeps T s0 (f x).1) (hl : AllKeep T s0 (some l)) : AllKeep T s0 (some (f :: l)) := by
  intro l' h g hg
  cases h
  rcases List.mem_cons.1 hg with h | h
  · exact h ▸ hf
  · exact hl l rfl g h

theorem cmdsAt_keeps {T : List Part} {s0 : State} {a : Nat} {writer : Option Nat} 
    (hT : [.regs, .tbl, .mbx, .host, .items, .icu, .evr, .cpe, .time, .model, .opt, .snet, .can, .dio, .lnch, .met, .metNv, .loop, .twin, .segs, .keys, .dev, .sent] ⊆ T) :
    AllKeep T s0 (cmdsAt a writer) := by
  delta cmdsAt
  refine allKeep_ite ?_ ?_
  · refine allKeep_cons (fun x hx => parkCmd_keeps hx (List.Subset.trans (by decide) hT)) ?_
    refine allKeep_cons (fun x hx => unparkCmd_keeps hx (List.Subset.trans (by decide) hT)) ?_
    refine allKeep_cons (fun x hx => unparkDiscardCmd_keeps hx (List.Subset.trans (by decide) hT)) ?_
    exact allKeep_nil
  refine allKeep_ite ?_ ?_
  · refine allKeep_cons (fun x hx => cfgVerifyCmd_keeps hx (List.Subset.trans (by decide) hT)) ?_
    refine allKeep_cons (fun x hx => cfgSwitchCmd_keeps hx (List.Subset.trans (by decide) hT)) ?_
    refine allKeep_cons (fun x hx => cfgCancelCmd_keeps hx (List.Subset.trans (by decide) hT)) ?_
    refine allKeep_cons (fun x hx => restartCmd_keeps hx (List.Subset.trans (by decide) hT)) ?_
    refine allKeep_cons (fun x hx => restartPairCmd_keeps hx (List.Subset.trans (by decide) hT)) ?_
    exact allKeep_nil
  refine allKeep_ite ?_ ?_
  · refine allKeep_cons (fun x hx => stepAccept_keeps hx (List.Subset.trans (by decide) hT)) ?_
    refine allKeep_cons (fun x hx => relearn_keeps hx (List.Subset.trans (by decide) hT)) ?_
    refine allKeep_cons (fun x hx => timeClrCnt_keeps hx (List.Subset.trans (by decide) hT)) ?_
    exact allKeep_nil
  refine allKeep_ite ?_ ?_
  · refine allKeep_cons (fun x hx => seqVerifyCmd_keeps hx (List.Subset.trans (by decide) hT)) ?_
    refine allKeep_cons (fun x hx => seqSwitchCmd_keeps hx (List.Subset.trans (by decide) hT)) ?_
    refine allKeep_cons (fun x hx => seqCancelCmd_keeps hx (List.Subset.trans (by decide) hT)) ?_
    exact allKeep_nil
  refine allKeep_ite ?_ ?_
  · refine allKeep_cons (fun x hx => evrFreeze_keeps hx (List.Subset.trans (by decide) hT)) ?_
    refine allKeep_cons (fun x hx => evrUnfreeze_keeps hx (List.Subset.trans (by decide) hT)) ?_
    refine allKeep_cons (fun x hx => evrClear_keeps hx (List.Subset.trans (by decide) hT)) ?_
    refine allKeep_cons (fun x hx => evrClrSupp_keeps hx (List.Subset.trans (by decide) hT)) ?_
    exact allKeep_nil
  refine allKeep_ite ?_ ?_
  · refine allKeep_cons (fun x hx => keyStageCmd_keeps hx (List.Subset.trans (by decide) hT)) ?_
    refine allKeep_cons (fun x hx => keyVerifyCmd_keeps hx (List.Subset.trans (by decide) hT)) ?_
    refine allKeep_cons (fun x hx => keyPromoteCmd_keeps hx (List.Subset.trans (by decide) hT)) ?_
    refine allKeep_cons (fun x hx => keyCancelCmd_keeps hx (List.Subset.trans (by decide) hT)) ?_
    refine allKeep_cons (fun x hx => keyRevokeCmd_keeps hx (List.Subset.trans (by decide) hT)) ?_
    refine allKeep_cons (fun x hx => keyEraseCmd_keeps hx (List.Subset.trans (by decide) hT)) ?_
    exact allKeep_nil
  refine allKeep_ite ?_ ?_
  · refine allKeep_cons (fun x hx => kick_keeps hx (List.Subset.trans (by decide) hT)) ?_
    exact allKeep_nil
  refine allKeep_ite ?_ ?_
  · refine allKeep_cons (fun x hx => twinJoinCmd_keeps hx (List.Subset.trans (by decide) hT)) ?_
    refine allKeep_cons (fun x hx => twinSwitchCmd_keeps hx (List.Subset.trans (by decide) hT)) ?_
    refine allKeep_cons (fun x hx => twinAbandonCmd_keeps hx (List.Subset.trans (by decide) hT)) ?_
    exact allKeep_nil
  refine allKeep_ite ?_ ?_
  · refine allKeep_cons (fun x hx => rekeyCmd_keeps hx (List.Subset.trans (by decide) hT)) ?_
    refine allKeep_cons (fun x hx => nodeAcceptCmd_keeps hx (List.Subset.trans (by decide) hT)) ?_
    refine allKeep_cons (fun x hx => nodeResetCmd_keeps hx (List.Subset.trans (by decide) hT)) ?_
    refine allKeep_cons (fun x hx => nodeClrCmd_keeps hx (List.Subset.trans (by decide) hT)) ?_
    exact allKeep_nil
  refine allKeep_ite ?_ ?_
  · refine allKeep_cons (fun x hx => sleepCmd_keeps hx (List.Subset.trans (by decide) hT)) ?_
    refine allKeep_cons (fun x hx => wakeCmd_keeps hx (List.Subset.trans (by decide) hT)) ?_
    refine allKeep_cons (fun x hx => stnResetCmd_keeps hx (List.Subset.trans (by decide) hT)) ?_
    exact allKeep_nil
  refine allKeep_ite ?_ ?_
  · refine allKeep_cons (fun x hx => sleepCmd_keeps hx (List.Subset.trans (by decide) hT)) ?_
    refine allKeep_cons (fun x hx => wakeCmd_keeps hx (List.Subset.trans (by decide) hT)) ?_
    refine allKeep_cons (fun x hx => stnResetCmd_keeps hx (List.Subset.trans (by decide) hT)) ?_
    exact allKeep_nil
  refine allKeep_ite ?_ ?_
  · refine allKeep_cons (fun x hx => restoreAck_keeps hx (List.Subset.trans (by decide) hT)) ?_
    exact allKeep_nil
  refine allKeep_ite ?_ ?_
  · refine allKeep_cons (fun x hx => tuneCmd_keeps hx (List.Subset.trans (by decide) hT)) ?_
    refine allKeep_cons (fun x hx => tuneAbortCmd_keeps hx (List.Subset.trans (by decide) hT)) ?_
    refine allKeep_cons (fun x hx => applyPropCmd_keeps hx (List.Subset.trans (by decide) hT)) ?_
    exact allKeep_nil
  refine allKeep_ite ?_ ?_
  · refine allKeep_cons (fun x hx => cpeVerifyCmd_keeps hx (List.Subset.trans (by decide) hT)) ?_
    refine allKeep_cons (fun x hx => cpeSwitchCmd_keeps hx (List.Subset.trans (by decide) hT)) ?_
    refine allKeep_cons (fun x hx => always_keeps (f := cpeCancelCmd 0) (fun y hy => cpeCancelCmd_keeps hy (List.Subset.trans (by decide) hT)) hx
      (List.Subset.trans (by decide) hT)) ?_
    refine allKeep_cons (fun x hx => always_keeps (f := clrForces 0) (fun y hy => clrForces_keeps hy (List.Subset.trans (by decide) hT)) hx
      (List.Subset.trans (by decide) hT)) ?_
    exact allKeep_nil
  refine allKeep_ite ?_ ?_
  · refine allKeep_cons (fun x hx => cpeVerifyCmd_keeps hx (List.Subset.trans (by decide) hT)) ?_
    refine allKeep_cons (fun x hx => cpeSwitchCmd_keeps hx (List.Subset.trans (by decide) hT)) ?_
    refine allKeep_cons (fun x hx => always_keeps (f := cpeCancelCmd 1) (fun y hy => cpeCancelCmd_keeps hy (List.Subset.trans (by decide) hT)) hx
      (List.Subset.trans (by decide) hT)) ?_
    refine allKeep_cons (fun x hx => always_keeps (f := clrForces 1) (fun y hy => clrForces_keeps hy (List.Subset.trans (by decide) hT)) hx
      (List.Subset.trans (by decide) hT)) ?_
    exact allKeep_nil
  refine allKeep_ite ?_ ?_
  · refine allKeep_cons (fun x hx => bankVerify_keeps hx (List.Subset.trans (by decide) hT)) ?_
    refine allKeep_cons (fun x hx => bankSwitch_keeps hx (List.Subset.trans (by decide) hT)) ?_
    refine allKeep_cons (fun x hx => bankCancel_keeps hx (List.Subset.trans (by decide) hT)) ?_
    refine allKeep_cons (fun x hx => adaptReset_keeps hx (List.Subset.trans (by decide) hT)) ?_
    refine allKeep_cons (fun x hx => parcelReset_keeps hx (List.Subset.trans (by decide) hT)) ?_
    exact allKeep_nil
  refine allKeep_ite ?_ ?_
  · refine allKeep_cons (fun x hx => bankVerify_keeps hx (List.Subset.trans (by decide) hT)) ?_
    refine allKeep_cons (fun x hx => bankSwitch_keeps hx (List.Subset.trans (by decide) hT)) ?_
    refine allKeep_cons (fun x hx => bankCancel_keeps hx (List.Subset.trans (by decide) hT)) ?_
    refine allKeep_cons (fun x hx => optFallbackCmd_keeps hx (List.Subset.trans (by decide) hT)) ?_
    exact allKeep_nil
  refine allKeep_ite ?_ ?_
  · refine allKeep_cons (fun x hx => privArmCmd_keeps hx (List.Subset.trans (by decide) hT)) ?_
    refine allKeep_cons (fun x hx => privDisarmCmd_keeps hx (List.Subset.trans (by decide) hT)) ?_
    refine allKeep_cons (fun x hx => resetTripCmd_keeps hx (List.Subset.trans (by decide) hT)) ?_
    exact allKeep_nil
  refine allKeep_ite ?_ ?_
  · refine allKeep_cons (fun x hx => testClrCmd_keeps hx (List.Subset.trans (by decide) hT)) ?_
    exact allKeep_nil
  exact allKeep_none

theorem ctrClear_keeps {T : List Part} {s0 : State} {s : State} {a : Nat} {v : Word} (hs : Keeps T s0 s)
    (hT : [.regs] ⊆ T) :
    Keeps T s0 (State.ctrClear s a v) := by
  delta State.ctrClear
  refine keeps_foldl ?_ (fun a e ha => ?_)
  · exact hs
  · refine keeps_ite ?_ ?_
    · refine clearCtr_keeps ?_ (List.Subset.trans (by decide) hT)
      exact ha
    · exact ha

theorem sticky_keeps {T : List Part} {s0 : State} {s : State} {a : Nat} {v : Word} (hs : Keeps T s0 s)
    (hT : [.regs] ⊆ T) :
    Keeps T s0 (State.sticky s a v) := by
  delta State.sticky
  refine wr_keeps ?_ (List.Subset.trans (by decide) hT)
  exact hs

theorem clearSide_keeps {T : List Part} {s0 : State} {s : State} {a : Nat} {v : Word} (hs : Keeps T s0 s)
    (hT : [.regs] ⊆ T) :
    Keeps T s0 (State.clearSide s a v) := by
  delta State.clearSide
  refine keeps_ite ?_ ?_
  · refine sticky_keeps ?_ (List.Subset.trans (by decide) hT)
    exact hs
  · refine keeps_ite ?_ ?_
    · refine errEst_keeps ?_ (List.Subset.trans (by decide) hT)
      exact hs
    · refine keeps_ite ?_ ?_
      · refine sticky_keeps ?_ (List.Subset.trans (by decide) hT)
        exact hs
      · refine keeps_ite ?_ ?_
        · refine sticky_keeps ?_ (List.Subset.trans (by decide) hT)
          exact hs
        · refine keeps_ite ?_ ?_
          · refine sticky_keeps ?_ (List.Subset.trans (by decide) hT)
            exact hs
          · refine keeps_ite ?_ ?_
            · refine wr_keeps ?_ (List.Subset.trans (by decide) hT)
              exact hs
            · refine keeps_ite ?_ ?_
              · refine wr_keeps ?_ (List.Subset.trans (by decide) hT)
                refine wr_keeps ?_ (List.Subset.trans (by decide) hT)
                exact hs
              · exact hs

theorem icuPage_keeps {T : List Part} {s0 : State} {s : State} {a : Nat} {v : Word} (hs : Keeps T s0 s)
    (hT : [.regs, .shadow, .tbl, .items, .icu, .evr] ⊆ T) :
    Keeps T s0 (State.icuPage s a v).1 := by
  delta State.icuPage
  extract_lets +onlyGivenNames y1
  refine keeps_iteP ?_ ?_
  · refine icuWrite_keeps ?_ (List.Subset.trans (by decide) hT)
    exact hs
  · refine keeps_iteP ?_ ?_
    · refine icuWrite_keeps ?_ (List.Subset.trans (by decide) hT)
      exact hs
    · refine keeps_iteP ?_ ?_
      · refine icuWrite_keeps ?_ (List.Subset.trans (by decide) hT)
        exact hs
      · refine keeps_iteP ?_ ?_
        · refine icuWrite_keeps ?_ (List.Subset.trans (by decide) hT)
          exact hs
        · refine keeps_iteP ?_ ?_
          · refine icuWrite_keeps ?_ (List.Subset.trans (by decide) hT)
            exact hs
          · refine keeps_iteP ?_ ?_
            · refine icuWrite_keeps ?_ (List.Subset.trans (by decide) hT)
              exact hs
            · refine keeps_iteP ?_ ?_
              · refine icuWrite_keeps ?_ (List.Subset.trans (by decide) hT)
                exact hs
              · refine keeps_iteP ?_ ?_
                · refine keeps_fst ?_
                  refine icuEoi_keeps ?_ (List.Subset.trans (by decide) hT)
                  exact hs
                · refine keeps_iteP ?_ ?_
                  · refine keeps_fst ?_
                    refine stackReset_keeps ?_ (List.Subset.trans (by decide) hT)
                    exact hs
                  · refine keeps_fst ?_
                    refine icuEval_keeps ?_ (List.Subset.trans (by decide) hT)
                    refine ctrClear_keeps ?_ (List.Subset.trans (by decide) hT)
                    refine plainWrite_keeps ?_ (List.Subset.trans (by decide) hT)
                    exact hs

theorem wrote_keeps {T : List Part} {s0 : State} {s : State} {a : Nat} {old : Word} {v : Word} (hs : Keeps T s0 s)
    (hT : [.regs, .tbl, .mbx, .items, .icu, .evr, .time, .snet, .can, .dio, .adc, .met, .loop, .dev] ⊆ T) :
    Keeps T s0 (State.wrote s a old v) := by
  delta State.wrote
  refine keeps_ite ?_ ?_
  · refine servoHold_keeps ?_ (List.Subset.trans (by decide) hT)
    exact hs
  · refine keeps_ite ?_ ?_
    · refine ptpStart_keeps ?_ (List.Subset.trans (by decide) hT)
      exact hs
    · refine keeps_ite ?_ ?_
      · refine ptpDecide_keeps ?_ (List.Subset.trans (by decide) hT)
        exact hs
      · refine keeps_ite ?_ ?_
        · refine keeps_ite ?_ ?_
          · refine lineDown_keeps ?_ (List.Subset.trans (by decide) hT)
            exact hs
          · exact hs
        · refine keeps_ite ?_ ?_
          · refine keeps_ite ?_ ?_
            · exact hs
            · refine leadChanged_keeps ?_ (List.Subset.trans (by decide) hT)
              exact hs
          · refine keeps_ite ?_ ?_
            · extract_lets +onlyGivenNames y1
              refine keeps_ite ?_ ?_
              · refine canMod_keeps ?_ (List.Subset.trans (by decide) hT)
                exact hs
              · refine keeps_ite ?_ ?_
                · refine privMove_keeps ?_ (List.Subset.trans (by decide) hT)
                  exact hs
                · exact hs
            · refine keeps_ite ?_ ?_
              · refine adcChsel_keeps ?_ (List.Subset.trans (by decide) hT)
                exact hs
              · refine keeps_ite ?_ ?_
                · refine metShort_keeps ?_ (List.Subset.trans (by decide) hT)
                  exact hs
                · refine keeps_ite ?_ ?_
                  · refine tuneAbort_keeps ?_ (List.Subset.trans (by decide) hT)
                    exact hs
                  · refine keeps_ite ?_ ?_
                    · extract_lets +onlyGivenNames y2
                      have hy2 : Keeps T s0 y2 := by
                        unfold y2
                        refine keeps_ite ?_ ?_
                        · refine modelEnChanged_keeps ?_ (List.Subset.trans (by decide) hT)
                          exact hs
                        · exact hs
                      refine keeps_ite ?_ ?_
                      · exact hy2
                      · refine arrEnChanged_keeps ?_ (List.Subset.trans (by decide) hT)
                        exact hy2
                    · exact hs

theorem blockWrite_keeps {T : List Part} {s0 : State} {s : State} {a : Nat} {v : Word} {writer : Option Nat} (hs : Keeps T s0 s)
    (hT : [.regs, .shadow, .tbl, .mbx, .host, .items, .icu, .evr, .cpe, .time, .model, .opt, .snet, .can, .dio, .adc, .lnch, .met, .metNv, .loop, .twin, .segs, .keys, .dev, .sent] ⊆ T) :
    Keeps T s0 (State.blockWrite s a v writer).1 := by
  delta State.blockWrite
  split
  · rename_i l e
    exact cmds_keeps hs (cmdsAt_keeps (List.Subset.trans (by decide) hT) l e)
  · refine keeps_iteP (icuPage_keeps hs (List.Subset.trans (by decide) hT)) ?_
    refine keeps_iteP (keeps_iteP hs (keeps_iteP hs (plainWrite_keeps hs (List.Subset.trans (by decide) hT)))) ?_
    refine keeps_iteP hs ?_
    refine keeps_iteP (dioDoWrite_keeps hs (List.Subset.trans (by decide) hT)) ?_
    refine keeps_iteP (dioDoWrite_keeps hs (List.Subset.trans (by decide) hT)) ?_
    refine keeps_iteP (dioOcClr_keeps hs (List.Subset.trans (by decide) hT)) ?_
    refine keeps_iteP (loopHoldSet_keeps hs (List.Subset.trans (by decide) hT)) ?_
    refine keeps_iteP (loopHoldClr_keeps hs (List.Subset.trans (by decide) hT)) ?_
    refine keeps_iteP hs ?_
    refine keeps_iteP hs ?_
    refine keeps_iteP hs ?_
    refine wrote_keeps ?_ (List.Subset.trans (by decide) hT)
    refine clearSide_keeps ?_ (List.Subset.trans (by decide) hT)
    refine ctrClear_keeps ?_ (List.Subset.trans (by decide) hT)
    exact plainWrite_keeps hs (List.Subset.trans (by decide) hT)

theorem wordWrite_keeps {T : List Part} {s0 : State} {s : State} {writer : Option Nat} {a : Nat} {v : Word} (hs : Keeps T s0 s)
    (hT : [.regs, .shadow, .tbl, .tshadow, .frzFrom, .commitDue, .mbx, .host, .items, .icu, .evr, .cpe, .time, .model, .opt, .snet, .can, .dio, .adc, .lnch, .met, .metNv, .loop, .twin, .segs, .keys, .dev, .sent] ⊆ T) :
    Keeps T s0 (State.wordWrite s writer a v).1 := by
  delta State.wordWrite
  refine keeps_iteP ?_ ?_
  · refine keeps_fst ?_
    exact hs
  · refine keeps_iteP ?_ ?_
    · refine headerWrite_keeps ?_ (List.Subset.trans (by decide) hT)
      exact hs
    · refine blockWrite_keeps ?_ (List.Subset.trans (by decide) hT)
      exact hs

theorem regsWrite_keeps {T : List Part} {s0 : State} {s : State} {writer : Option Nat} {ws : List (Nat × Word)} (hs : Keeps T s0 s)
    (hT : [.regs, .shadow, .tbl, .tshadow, .frzFrom, .commitDue, .mbx, .host, .items, .icu, .evr, .cpe, .time, .model, .opt, .snet, .can, .dio, .adc, .lnch, .met, .metNv, .loop, .twin, .segs, .keys, .dev, .sent] ⊆ T) :
    Keeps T s0 (State.regsWrite s writer ws).1 := by
  delta State.regsWrite
  extract_lets +onlyGivenNames y1
  have hy1 : Keeps T s0 y1.1 := by
    unfold y1
    refine keeps_foldlP ?_ (fun a e ha => ?_)
    · refine keeps_fst ?_
      exact hs
    · extract_lets +onlyGivenNames y2
      have hy2 : Keeps T s0 y2.1 := by
        unfold y2
        refine wordWrite_keeps ?_ (List.Subset.trans (by decide) hT)
        exact ha
      refine keeps_fst ?_
      exact hy2
  split
  · refine keeps_fst ?_
    exact hy1
  · refine keeps_fst ?_
    exact hs

theorem commitNow_keeps {T : List Part} {s0 : State} {s : State} {resets : List Nat} (hs : Keeps T s0 s)
    (hT : [.regs, .shadow, .tbl, .tshadow, .commitDue, .mbx, .host, .items, .icu, .evr, .time, .can, .dio, .adc, .dev] ⊆ T) :
    Keeps T s0 (State.commitNow s resets) := by
  delta State.commitNow
  refine keeps_foldl ?_ (fun a e ha => ?_)
  · exact hs
  · refine keeps_ite ?_ ?_
    · refine setB_keeps ?_ (List.Subset.trans (by decide) hT)
      exact ha
    · refine keeps_ite ?_ ?_
      · refine commitPage_keeps ?_ (List.Subset.trans (by decide) hT)
        exact ha
      · refine keeps_ite ?_ ?_
        · refine commitPage_keeps ?_ (List.Subset.trans (by decide) hT)
          exact ha
        · exact ha

theorem armWords_keeps {T : List Part} {s0 : State} {s : State} {resets : List Nat} {ws : List (Nat × Word)} (hs : Keeps T s0 s)
    (hT : [.regs, .tbl, .items, .icu, .evr, .dio, .lnch, .priv] ⊆ T) :
    Keeps T s0 (State.armWords s resets ws) := by
  delta State.armWords
  refine keeps_ite ?_ ?_
  · exact hs
  · refine keeps_foldl ?_ (fun a e ha => ?_)
    · exact hs
    · refine keeps_ite ?_ ?_
      · extract_lets +onlyGivenNames y1
        refine keeps_ite ?_ ?_
        · refine disarmCmd_keeps ?_ (List.Subset.trans (by decide) hT)
          exact ha
        · refine keeps_ite ?_ ?_
          · refine armCmd_keeps ?_ (List.Subset.trans (by decide) hT)
            exact ha
          · exact ha
      · exact ha

theorem evtWin_keeps {T : List Part} {s0 : State} {s : State} {p : Nat} {b : Nat} (hs : Keeps T s0 s)
    (hT : [.regs, .tbl, .items, .icu] ⊆ T) :
    Keeps T s0 (State.evtWin s p b) := by
  delta State.evtWin
  split
  · exact hs
  · extract_lets +onlyGivenNames y1
    have hy1 : Keeps T s0 y1 := by
      unfold y1
      refine setF_keeps ?_ (List.Subset.trans (by decide) hT)
      exact hs
    extract_lets +onlyGivenNames y2
    extract_lets +onlyGivenNames y3
    have hy3 : Keeps T s0 y3 := by
      unfold y3
      refine keeps_icu ?_ (List.Subset.trans (by decide) hT)
      exact hy1
    refine keeps_ite ?_ ?_
    · refine signal_keeps ?_ (List.Subset.trans (by decide) hT)
      exact hy3
    · exact hy3

theorem evtWins_keeps {T : List Part} {s0 : State} {s : State} {ws : List (Nat × Word)} (hs : Keeps T s0 s)
    (hT : [.regs, .tbl, .items, .icu] ⊆ T) :
    Keeps T s0 (State.evtWins s ws) := by
  delta State.evtWins
  refine keeps_foldl ?_ (fun a e ha => ?_)
  · exact hs
  · refine keeps_foldl ?_ (fun a e ha => ?_)
    · exact ha
    · refine evtWin_keeps ?_ (List.Subset.trans (by decide) hT)
      exact ha

theorem writeNow_keeps {T : List Part} {s0 : State} {s : State} {ws : List (Nat × Word)} (hs : Keeps T s0 s)
    (hT : [.regs, .shadow, .tbl, .tshadow, .frzFrom, .commitDue, .mbx, .host, .items, .icu, .evr, .cpe, .time, .model, .opt, .snet, .can, .dio, .adc, .lnch, .priv, .met, .metNv, .loop, .twin, .segs, .keys, .dev, .sent] ⊆ T) :
    Keeps T s0 (State.writeNow s ws) := by
  delta State.writeNow
  refine keeps_ite ?_ ?_
  · exact hs
  · extract_lets +onlyGivenNames y1
    have hy1 : Keeps T s0 y1.1 := by
      unfold y1
      refine regsWrite_keeps ?_ (List.Subset.trans (by decide) hT)
      exact hs
    refine keeps_ite ?_ ?_
    · exact hs
    · extract_lets +onlyGivenNames y2
      extract_lets +onlyGivenNames y3
      have hy3 : Keeps T s0 y3 := by
        unfold y3
        refine keeps_foldl ?_ (fun a e ha => ?_)
        · refine evtWins_keeps ?_ (List.Subset.trans (by decide) hT)
          exact hy1
        · refine keeps_ite ?_ ?_
          · refine commitPage_keeps ?_ (List.Subset.trans (by decide) hT)
            exact ha
          · exact ha
      refine armWords_keeps ?_ (List.Subset.trans (by decide) hT)
      exact hy3

theorem execRegisterWrite_keeps {T : List Part} {s0 : State} {addr : Nat} {v : Word} {s : State} (hs : Keeps T s0 s)
    (hT : [.regs, .shadow, .tbl, .tshadow, .frzFrom, .commitDue, .mbx, .host, .items, .icu, .evr, .cpe, .time, .model, .opt, .snet, .can, .dio, .adc, .lnch, .priv, .met, .metNv, .loop, .twin, .segs, .keys, .dev, .sent] ⊆ T) :
    KeepsO T s0 (execRegisterWrite addr v s) := by
  delta execRegisterWrite
  refine keepsO_next ?_
  refine writeNow_keeps ?_ (List.Subset.trans (by decide) hT)
  exact hs

theorem execSrst_keeps {T : List Part} {s0 : State} {page : Nat} {s : State} (hs : Keeps T s0 s)
    (hT : [.regs, .shadow, .tbl, .tshadow, .frzFrom, .commitDue, .mbx, .host, .items, .icu, .evr, .cpe, .time, .model, .opt, .snet, .can, .dio, .adc, .lnch, .priv, .met, .metNv, .loop, .twin, .segs, .keys, .dev, .sent] ⊆ T) :
    KeepsO T s0 (execSrst page s) := by
  delta execSrst
  refine keepsO_next ?_
  refine writeNow_keeps ?_ (List.Subset.trans (by decide) hT)
  exact hs

theorem execFreeze_keeps {T : List Part} {s0 : State} {page : Nat} {on : Bool} {s : State} (hs : Keeps T s0 s)
    (hT : [.regs, .shadow, .tbl, .tshadow, .frzFrom, .commitDue, .mbx, .host, .items, .icu, .evr, .cpe, .time, .model, .opt, .snet, .can, .dio, .adc, .lnch, .priv, .met, .metNv, .loop, .twin, .segs, .keys, .dev, .sent] ⊆ T) :
    KeepsO T s0 (execFreeze page on s) := by
  delta execFreeze
  refine keepsO_next ?_
  refine writeNow_keeps ?_ (List.Subset.trans (by decide) hT)
  exact hs

theorem execFrzTmo_keeps {T : List Part} {s0 : State} {page : Nat} {s : State} (hs : Keeps T s0 s)
    (hT : [.regs, .tbl, .frzFrom, .items, .icu, .evr] ⊆ T) :
    KeepsO T s0 (execFrzTmo page s) := by
  delta execFrzTmo
  refine keepsO_next ?_
  split
  · refine keeps_ite ?_ ?_
    · refine raiseEv_keeps ?_ (List.Subset.trans (by decide) hT)
      refine freeze_keeps ?_ (List.Subset.trans (by decide) hT)
      refine setB_keeps ?_ (List.Subset.trans (by decide) hT)
      exact hs
    · exact hs
  · exact hs

theorem execCommit_keeps {T : List Part} {s0 : State} {page : Nat} {v : Word} {s : State} (hs : Keeps T s0 s)
    (hT : [.regs, .shadow, .tbl, .tshadow, .frzFrom, .commitDue, .mbx, .host, .items, .icu, .evr, .cpe, .time, .model, .opt, .snet, .can, .dio, .adc, .lnch, .priv, .met, .metNv, .loop, .twin, .segs, .keys, .dev, .sent] ⊆ T) :
    KeepsO T s0 (execCommit page v s) := by
  delta execCommit
  refine keepsO_next ?_
  refine writeNow_keeps ?_ (List.Subset.trans (by decide) hT)
  exact hs

theorem execDiscard_keeps {T : List Part} {s0 : State} {page : Nat} {s : State} (hs : Keeps T s0 s)
    (hT : [.regs, .shadow, .tbl, .tshadow, .frzFrom, .commitDue, .mbx, .host, .items, .icu, .evr, .cpe, .time, .model, .opt, .snet, .can, .dio, .adc, .lnch, .priv, .met, .metNv, .loop, .twin, .segs, .keys, .dev, .sent] ⊆ T) :
    KeepsO T s0 (execDiscard page s) := by
  delta execDiscard
  refine keepsO_next ?_
  refine writeNow_keeps ?_ (List.Subset.trans (by decide) hT)
  exact hs

theorem execPgEvtSet_keeps {T : List Part} {s0 : State} {page : Nat} {v : Word} {s : State} (hs : Keeps T s0 s)
    (hT : [.regs, .shadow, .tbl, .tshadow, .frzFrom, .commitDue, .mbx, .host, .items, .icu, .evr, .cpe, .time, .model, .opt, .snet, .can, .dio, .adc, .lnch, .priv, .met, .metNv, .loop, .twin, .segs, .keys, .dev, .sent] ⊆ T) :
    KeepsO T s0 (execPgEvtSet page v s) := by
  delta execPgEvtSet
  refine keepsO_next ?_
  refine writeNow_keeps ?_ (List.Subset.trans (by decide) hT)
  exact hs

theorem execPgEvtClr_keeps {T : List Part} {s0 : State} {page : Nat} {v : Word} {s : State} (hs : Keeps T s0 s)
    (hT : [.regs, .shadow, .tbl, .tshadow, .frzFrom, .commitDue, .mbx, .host, .items, .icu, .evr, .cpe, .time, .model, .opt, .snet, .can, .dio, .adc, .lnch, .priv, .met, .metNv, .loop, .twin, .segs, .keys, .dev, .sent] ⊆ T) :
    KeepsO T s0 (execPgEvtClr page v s) := by
  delta execPgEvtClr
  refine keepsO_next ?_
  refine writeNow_keeps ?_ (List.Subset.trans (by decide) hT)
  exact hs

theorem execPgMaskSet_keeps {T : List Part} {s0 : State} {page : Nat} {v : Word} {s : State} (hs : Keeps T s0 s)
    (hT : [.regs, .shadow, .tbl, .tshadow, .frzFrom, .commitDue, .mbx, .host, .items, .icu, .evr, .cpe, .time, .model, .opt, .snet, .can, .dio, .adc, .lnch, .priv, .met, .metNv, .loop, .twin, .segs, .keys, .dev, .sent] ⊆ T) :
    KeepsO T s0 (execPgMaskSet page v s) := by
  delta execPgMaskSet
  refine keepsO_next ?_
  refine writeNow_keeps ?_ (List.Subset.trans (by decide) hT)
  exact hs

theorem execPgMaskClr_keeps {T : List Part} {s0 : State} {page : Nat} {v : Word} {s : State} (hs : Keeps T s0 s)
    (hT : [.regs, .shadow, .tbl, .tshadow, .frzFrom, .commitDue, .mbx, .host, .items, .icu, .evr, .cpe, .time, .model, .opt, .snet, .can, .dio, .adc, .lnch, .priv, .met, .metNv, .loop, .twin, .segs, .keys, .dev, .sent] ⊆ T) :
    KeepsO T s0 (execPgMaskClr page v s) := by
  delta execPgMaskClr
  refine keepsO_next ?_
  refine writeNow_keeps ?_ (List.Subset.trans (by decide) hT)
  exact hs

theorem execCounterClear_keeps {T : List Part} {s0 : State} {addr : Nat} {v : Word} {s : State} (hs : Keeps T s0 s)
    (hT : [.regs, .shadow, .tbl, .tshadow, .frzFrom, .commitDue, .mbx, .host, .items, .icu, .evr, .cpe, .time, .model, .opt, .snet, .can, .dio, .adc, .lnch, .priv, .met, .metNv, .loop, .twin, .segs, .keys, .dev, .sent] ⊆ T) :
    KeepsO T s0 (execCounterClear addr v s) := by
  delta execCounterClear
  refine keepsO_next ?_
  refine keeps_ite ?_ ?_
  · refine writeNow_keeps ?_ (List.Subset.trans (by decide) hT)
    exact hs
  · exact hs

theorem recordShadow_keeps {T : List Part} {s0 : State} {s : State} {t : TableInfo} {idx : Nat} {ws : List Word} (hs : Keeps T s0 s)
    (hT : [.regs, .tshadow] ⊆ T) :
    Keeps T s0 (State.recordShadow s t idx ws) := by
  delta State.recordShadow
  extract_lets x1
  have hx : Keeps T s0 x1 := by
    refine keeps_foldl hs (fun a w ha => ?_)
    refine keeps_tshadow ha (fun h => ?_) (List.Subset.trans (by decide) hT)
    split
    · exact smSorted_erase _ _ h
    · exact smSorted_insert _ _ _ h
  exact setB_keeps hx (List.Subset.trans (by decide) hT)

theorem credWrite_keeps {T : List Part} {s0 : State} {s : State} {t : TableInfo} {idx : Nat} {ws : List Word} (hs : Keeps T s0 s)
    (hT : [.regs, .tbl, .host, .items, .icu, .evr] ⊆ T) :
    Keeps T s0 (State.credWrite s t idx ws) := by
  delta State.credWrite
  extract_lets +onlyGivenNames y1
  have hy1 : Keeps T s0 y1 := by
    unfold y1
    refine writeRecord_keeps ?_ (List.Subset.trans (by decide) hT)
    exact hs
  refine keeps_ite ?_ ?_
  · refine keeps_foldl ?_ (fun a e ha => ?_)
    · exact hy1
    · refine keeps_ite ?_ ?_
      · refine closeSess_keeps ?_ (List.Subset.trans (by decide) hT)
        exact ha
      · exact ha
  · exact hy1

theorem tableWrite_keeps {T : List Part} {s0 : State} {s : State} {t : TableInfo} {idx : Nat} {ws : List Word} (hs : Keeps T s0 s)
    (hT : [.regs, .tbl, .tshadow, .mbx, .host, .items, .icu, .evr, .snet, .can, .dio, .loop, .dev] ⊆ T) :
    Keeps T s0 (State.tableWrite s t idx ws).1 := by
  delta State.tableWrite
  extract_lets +onlyGivenNames y1
  refine keeps_iteP ?_ ?_
  · refine keeps_fst ?_
    exact hs
  · refine keeps_iteP ?_ ?_
    · refine keeps_iteP ?_ ?_
      · refine keeps_fst ?_
        exact hs
      · refine keeps_fst ?_
        refine cfgWritten_keeps ?_ (List.Subset.trans (by decide) hT)
        refine writeRecord_keeps ?_ (List.Subset.trans (by decide) hT)
        exact hs
    · refine keeps_iteP ?_ ?_
      · refine keeps_iteP ?_ ?_
        · refine keeps_fst ?_
          exact hs
        · refine keeps_fst ?_
          refine seqWritten_keeps ?_ (List.Subset.trans (by decide) hT)
          refine writeRecord_keeps ?_ (List.Subset.trans (by decide) hT)
          exact hs
      · refine keeps_iteP ?_ ?_
        · refine icuTableWrite_keeps ?_ (List.Subset.trans (by decide) hT)
          exact hs
        · refine keeps_iteP ?_ ?_
          · refine evrTableWrite_keeps ?_ (List.Subset.trans (by decide) hT)
            exact hs
          · refine keeps_iteP ?_ ?_
            · refine keeps_fst ?_
              refine credWrite_keeps ?_ (List.Subset.trans (by decide) hT)
              exact hs
            · refine keeps_iteP ?_ ?_
              · extract_lets +onlyGivenNames y2
                refine keeps_fst ?_
                refine nodeTableWrite_keeps ?_ (List.Subset.trans (by decide) hT)
                refine writeRecord_keeps ?_ (List.Subset.trans (by decide) hT)
                exact hs
              · refine keeps_iteP ?_ ?_
                · extract_lets +onlyGivenNames y3
                  refine keeps_iteP ?_ ?_
                  · refine keeps_fst ?_
                    refine canObjWritten_keeps ?_ (List.Subset.trans (by decide) hT)
                    refine writeRecord_keeps ?_ (List.Subset.trans (by decide) hT)
                    exact hs
                  · refine keeps_fst ?_
                    exact hs
                · refine keeps_iteP ?_ ?_
                  · extract_lets +onlyGivenNames y4
                    refine keeps_iteP ?_ ?_
                    · refine keeps_fst ?_
                      refine stnInit_keeps ?_ (List.Subset.trans (by decide) hT)
                      refine writeRecord_keeps ?_ (List.Subset.trans (by decide) hT)
                      exact hs
                    · refine keeps_fst ?_
                      exact hs
                  · refine keeps_iteP ?_ ?_
                    · refine keeps_fst ?_
                      refine recordShadow_keeps ?_ (List.Subset.trans (by decide) hT)
                      exact hs
                    · refine keeps_iteP ?_ ?_
                      · refine keeps_iteP ?_ ?_
                        · refine keeps_fst ?_
                          refine recordShadow_keeps ?_ (List.Subset.trans (by decide) hT)
                          exact hs
                        · refine keeps_fst ?_
                          exact hs
                      · refine keeps_iteP ?_ ?_
                        · refine keeps_iteP ?_ ?_
                          · refine keeps_fst ?_
                            refine groupWrite_keeps ?_ (List.Subset.trans (by decide) hT)
                            exact hs
                          · refine keeps_fst ?_
                            exact hs
                        · refine keeps_iteP ?_ ?_
                          · refine cpeBankWrite_keeps ?_ (List.Subset.trans (by decide) hT)
                            exact hs
                          · refine keeps_iteP ?_ ?_
                            · refine cpeBankWrite_keeps ?_ (List.Subset.trans (by decide) hT)
                              exact hs
                            · refine keeps_iteP ?_ ?_
                              · refine keeps_fst ?_
                                refine forceWrite_keeps ?_ (List.Subset.trans (by decide) hT)
                                exact hs
                              · refine keeps_iteP ?_ ?_
                                · refine keeps_fst ?_
                                  refine forceWrite_keeps ?_ (List.Subset.trans (by decide) hT)
                                  exact hs
                                · refine keeps_iteP ?_ ?_
                                  · refine modelTableWrite_keeps ?_ (List.Subset.trans (by decide) hT)
                                    exact hs
                                  · refine keeps_iteP ?_ ?_
                                    · refine optTableWrite_keeps ?_ (List.Subset.trans (by decide) hT)
                                      exact hs
                                    · refine keeps_fst ?_
                                      refine writeRecord_keeps ?_ (List.Subset.trans (by decide) hT)
                                      exact hs

theorem queueOne_keeps {T : List Part} {s0 : State} {acc : QueueOut} {q : HReq} (hacc : Keeps T s0 acc.1)
    (hT : [.regs, .shadow, .tbl, .tshadow, .frzFrom, .commitDue, .mbx, .host, .items, .icu, .evr, .cpe, .time, .model, .opt, .snet, .can, .dio, .adc, .lnch, .met, .metNv, .loop, .twin, .segs, .keys, .dev, .sent] ⊆ T) :
    Keeps T s0 (queueOne acc q).1 := by
  delta queueOne
  extract_lets +onlyGivenNames y1
  have hy1 : Keeps T s0 y1 := by
    unfold y1
    exact hacc
  split
  · extract_lets +onlyGivenNames y2
    have hy2 : Keeps T s0 y2.1 := by
      unfold y2
      refine regsWrite_keeps ?_ (List.Subset.trans (by decide) hT)
      exact hy1
    refine keeps_fst ?_
    refine respondTo_keeps ?_ (List.Subset.trans (by decide) hT)
    refine keeps_ite ?_ ?_
    · refine evtWins_keeps ?_ (List.Subset.trans (by decide) hT)
      exact hy2
    · exact hy2
  · split
    · exact hacc
    · refine keeps_iteP ?_ ?_
      · refine keeps_iteP ?_ ?_
        · refine keeps_fst ?_
          refine respondTo_keeps ?_ (List.Subset.trans (by decide) hT)
          exact hy1
        · refine keeps_iteP ?_ ?_
          · refine keeps_fst ?_
            refine respondTo_keeps ?_ (List.Subset.trans (by decide) hT)
            exact hy1
          · extract_lets +onlyGivenNames y3
            have hy3 : Keeps T s0 y3 := by
              unfold y3
              refine loopWordWrite_keeps ?_ (List.Subset.trans (by decide) hT)
              exact hy1
            refine keeps_iteP ?_ ?_
            · refine keeps_fst ?_
              refine respondTo_keeps ?_ (List.Subset.trans (by decide) hT)
              exact hy3
            · refine keeps_fst ?_
              exact hy3
      · refine keeps_iteP ?_ ?_
        · refine keeps_iteP ?_ ?_
          · refine keeps_fst ?_
            refine respondTo_keeps ?_ (List.Subset.trans (by decide) hT)
            exact hy1
          · refine keeps_iteP ?_ ?_
            · refine keeps_fst ?_
              refine respondTo_keeps ?_ (List.Subset.trans (by decide) hT)
              exact hy1
            · refine keeps_fst ?_
              refine hostMod_keeps ?_ (List.Subset.trans (by decide) hT)
              exact hy1
        · extract_lets +onlyGivenNames y4
          have hy4 : Keeps T s0 y4.1 := by
            unfold y4
            refine tableWrite_keeps ?_ (List.Subset.trans (by decide) hT)
            exact hy1
          refine keeps_fst ?_
          refine respondTo_keeps ?_ (List.Subset.trans (by decide) hT)
          exact hy4
  · exact hacc

theorem queueTick_keeps {T : List Part} {s0 : State} {s : State} (hs : Keeps T s0 s)
    (hT : [.regs, .shadow, .tbl, .tshadow, .frzFrom, .commitDue, .mbx, .host, .items, .icu, .evr, .cpe, .time, .model, .opt, .snet, .can, .dio, .adc, .lnch, .priv, .met, .metNv, .loop, .twin, .segs, .keys, .dev, .sent] ⊆ T) :
    Keeps T s0 (State.queueTick s) := by
  delta State.queueTick
  extract_lets +onlyGivenNames q
  extract_lets +onlyGivenNames r
  have hr : Keeps T s0 r.1 := by
    refine keeps_foldlP (x := (s.hostMod _, [], [])) ?_ (fun a e ha => queueOne_keeps ha (List.Subset.trans (by decide) hT))
    refine keeps_fst ?_
    exact hostMod_keeps hs (List.Subset.trans (by decide) hT)
  clear_value r
  refine armWords_keeps ?_ (List.Subset.trans (by decide) hT)
  refine commitNow_keeps ?_ (List.Subset.trans (by decide) hT)
  exact hostMod_keeps hr (List.Subset.trans (by decide) hT)

end Sys2Proof.Machine
end

