-- ==== Sys2Proof/Laws/KeepFrame.lean ====
section
/-! SUPPORT. What each operation of Machine/Frame.lean keeps: the canonical form, the queue, and the parts it does not name. -/

namespace Sys2Proof.Machine

theorem hfEnd_keeps {T : List Part} {s0 : State} {s : State} {q : SeqSt} (hs : Keeps T s0 s)
    (hT : [.regs, .tbl, .items, .icu, .evr] ⊆ T) :
    Keeps T s0 (State.hfEnd s q) := by
  delta State.hfEnd
  extract_lets +onlyGivenNames y1
  have hy1 : Keeps T s0 y1 := by
    unfold y1
    refine wr_keeps ?_ (List.Subset.trans (by decide) hT)
    exact hs
  extract_lets +onlyGivenNames y2
  have hy2 : Keeps T s0 y2 := by
    unfold y2
    refine keeps_ite ?_ ?_
    · refine raiseEv_keeps ?_ (List.Subset.trans (by decide) hT)
      refine bump_keeps ?_ (List.Subset.trans (by decide) hT)
      exact hy1
    · exact hy1
  refine keeps_ite ?_ ?_
  · refine raiseEv_keeps ?_ (List.Subset.trans (by decide) hT)
    refine bump_keeps ?_ (List.Subset.trans (by decide) hT)
    exact hy2
  · exact hy2

theorem overruns_keeps {T : List Part} {s0 : State} {s : State} {l : List (Nat × Nat)} {t : Nat} {f : Nat} (hs : Keeps T s0 s)
    (hT : [.regs, .tbl, .items, .icu, .evr] ⊆ T) :
    Keeps T s0 (State.overruns s l t f) := by
  delta State.overruns
  refine keeps_foldl ?_ (fun a e ha => ?_)
  · exact hs
  · refine raiseEv_keeps ?_ (List.Subset.trans (by decide) hT)
    refine wr_keeps ?_ (List.Subset.trans (by decide) hT)
    refine wr_keeps ?_ (List.Subset.trans (by decide) hT)
    refine bump_keeps ?_ (List.Subset.trans (by decide) hT)
    exact ha

theorem longFrame_keeps {T : List Part} {s0 : State} {s : State} (hs : Keeps T s0 s)
    (hT : [.met] ⊆ T) :
    Keeps T s0 (State.longFrame s) := by
  delta State.longFrame
  refine keeps_ite ?_ ?_
  · refine keeps_met ?_ (List.Subset.trans (by decide) hT)
    exact hs
  · exact hs

theorem tickClock_keeps {T : List Part} {s0 : State} {s : State} (hs : Keeps T s0 s)
    (hT : [.regs, .time, .met] ⊆ T) :
    Keeps T s0 (State.tickClock s) := by
  delta State.tickClock
  split
  · refine metStep_keeps ?_ (List.Subset.trans (by decide) hT)
    refine timeMod_keeps ?_ (List.Subset.trans (by decide) hT)
    exact hs
  · refine setClock_keeps ?_ (List.Subset.trans (by decide) hT)
    refine longFrame_keeps ?_ (List.Subset.trans (by decide) hT)
    exact hs

theorem seqFrame_keeps {T : List Part} {s0 : State} {s : State} {p : TickAt} (hs : Keeps T s0 s)
    (hT : [.regs] ⊆ T) :
    Keeps T s0 (State.seqFrame s p) := by
  delta State.seqFrame
  extract_lets +onlyGivenNames y1
  refine wr_keeps ?_ (List.Subset.trans (by decide) hT)
  exact hs

theorem frameBegin_keeps {T : List Part} {s0 : State} {s : State} {p : TickAt} (hs : Keeps T s0 s)
    (hT : [.regs, .tbl, .items, .icu, .evr, .seq, .time, .met] ⊆ T) :
    Keeps T s0 (State.frameBegin s p) := by
  delta State.frameBegin
  extract_lets +onlyGivenNames y1
  extract_lets +onlyGivenNames y2
  extract_lets +onlyGivenNames y3
  extract_lets +onlyGivenNames y4
  extract_lets +onlyGivenNames y5
  have hy5 : Keeps T s0 y5 := by
    unfold y5
    refine tickClock_keeps ?_ (List.Subset.trans (by decide) hT)
    refine keeps_ite ?_ ?_
    · exact hs
    · refine bump_keeps ?_ (List.Subset.trans (by decide) hT)
      exact hs
  extract_lets +onlyGivenNames y6
  extract_lets +onlyGivenNames y7
  have hy7 : Keeps T s0 y7 := by
    unfold y7
    refine seqMod_keeps ?_ (List.Subset.trans (by decide) hT)
    exact hy5
  extract_lets +onlyGivenNames y8
  extract_lets +onlyGivenNames y9
  have hy9 : Keeps T s0 y9 := by
    unfold y9
    refine seqMod_keeps ?_ (List.Subset.trans (by decide) hT)
    exact hy7
  extract_lets +onlyGivenNames y10
  have hy10 : Keeps T s0 y10 := by
    unfold y10
    refine seqFrame_keeps ?_ (List.Subset.trans (by decide) hT)
    exact hy9
  extract_lets +onlyGivenNames y11
  have hy11 : Keeps T s0 y11 := by
    unfold y11
    refine keeps_ite ?_ ?_
    · refine bump_keeps ?_ (List.Subset.trans (by decide) hT)
      exact hy10
    · exact hy10
  extract_lets +onlyGivenNames y12
  have hy12 : Keeps T s0 y12 := by
    unfold y12
    refine keeps_ite ?_ ?_
    · refine hfEnd_keeps ?_ (List.Subset.trans (by decide) hT)
      exact hy11
    · exact hy11
  refine overruns_keeps ?_ (List.Subset.trans (by decide) hT)
  exact hy12

theorem timeTick_keeps {T : List Part} {s0 : State} {s : State} (hs : Keeps T s0 s)
    (hT : [.regs, .tbl, .items, .icu, .evr, .time] ⊆ T) :
    Keeps T s0 (State.timeTick s) := by
  delta State.timeTick
  extract_lets +onlyGivenNames y1
  extract_lets +onlyGivenNames y2
  refine standbyHold_keeps ?_ (List.Subset.trans (by decide) hT)
  refine wr_keeps ?_ (List.Subset.trans (by decide) hT)
  refine timeMod_keeps ?_ (List.Subset.trans (by decide) hT)
  exact hs

theorem actCmd_keeps {T : List Part} {s0 : State} {s : State} {dead : List HCmd} {c : HCmd} (hs : Keeps T s0 s)
    (hT : [.regs, .shadow, .tbl, .host, .items, .icu, .evr, .opt, .dio, .lnch, .priv] ⊆ T) :
    Keeps T s0 (State.actCmd s dead c) := by
  delta State.actCmd
  extract_lets +onlyGivenNames y1
  have hy1 : Keeps T s0 y1 := by
    unfold y1
    refine hostMod_keeps ?_ (List.Subset.trans (by decide) hT)
    exact hs
  refine keeps_ite ?_ ?_
  · refine keeps_ite ?_ ?_
    · refine actPrivReq_keeps ?_ (List.Subset.trans (by decide) hT)
      exact hy1
    · refine complete_keeps ?_ (List.Subset.trans (by decide) hT)
      exact hy1
  · refine keeps_ite ?_ ?_
    · refine complete_keeps ?_ (List.Subset.trans (by decide) hT)
      exact hy1
    · refine keeps_ite ?_ ?_
      · refine keeps_ite ?_ ?_
        · refine complete_keeps ?_ (List.Subset.trans (by decide) hT)
          exact hy1
        · refine keeps_ite ?_ ?_
          · refine complete_keeps ?_ (List.Subset.trans (by decide) hT)
            exact hy1
          · refine complete_keeps ?_ (List.Subset.trans (by decide) hT)
            exact hy1
      · refine keeps_ite ?_ ?_
        · refine actSolve_keeps ?_ (List.Subset.trans (by decide) hT)
          exact hy1
        · refine keeps_ite ?_ ?_
          · refine actAbort_keeps ?_ (List.Subset.trans (by decide) hT)
            exact hy1
          · refine actPrivReq_keeps ?_ (List.Subset.trans (by decide) hT)
            exact hy1

theorem hostCmds_keeps {T : List Part} {s0 : State} {s : State} (hs : Keeps T s0 s)
    (hT : [.regs, .shadow, .tbl, .host, .items, .icu, .evr, .opt, .dio, .lnch, .priv] ⊆ T) :
    Keeps T s0 (State.hostCmds s) := by
  delta State.hostCmds
  extract_lets +onlyGivenNames y1
  refine keeps_foldl ?_ (fun a e ha => ?_)
  · exact hs
  · refine actCmd_keeps ?_ (List.Subset.trans (by decide) hT)
    exact ha

theorem swapAll_keeps {T : List Part} {s0 : State} {s : State} (hs : Keeps T s0 s)
    (hT : [.regs, .tbl, .mbx, .items, .icu, .evr] ⊆ T) :
    Keeps T s0 (State.swapAll s) := by
  delta State.swapAll
  extract_lets +onlyGivenNames y1
  extract_lets +onlyGivenNames y2
  have hy2 : Keeps T s0 y2 := by
    unfold y2
    refine keeps_mbx ?_ (List.Subset.trans (by decide) hT)
    exact hs
  split
  · exact hy2
  · refine raiseEv_keeps ?_ (List.Subset.trans (by decide) hT)
    refine setF_keeps ?_ (List.Subset.trans (by decide) hT)
    refine bumpN_keeps ?_ (List.Subset.trans (by decide) hT)
    exact hy2

theorem commitSkips_keeps {T : List Part} {s0 : State} {s : State} {skips : List (Nat × Nat)} (hs : Keeps T s0 s)
    (hT : [.commitDue] ⊆ T) :
    Keeps T s0 (State.commitSkips s skips) := by
  delta State.commitSkips
  extract_lets +onlyGivenNames y1
  refine keeps_commitDue ?_ (List.Subset.trans (by decide) hT)
  exact hs

theorem hfNew_keeps {T : List Part} {s0 : State} {s : State} (hs : Keeps T s0 s)
    (hT : [.host, .items, .model] ⊆ T) :
    Keeps T s0 (State.hfNew s) := by
  delta State.hfNew
  refine modelMod_keeps ?_ (List.Subset.trans (by decide) hT)
  refine hostMod_keeps ?_ (List.Subset.trans (by decide) hT)
  exact hs

theorem hostTick_keeps {T : List Part} {s0 : State} {s : State} (hs : Keeps T s0 s)
    (hT : [.regs, .shadow, .tbl, .tshadow, .frzFrom, .commitDue, .mbx, .host, .items, .icu, .evr, .cpe, .time, .model, .opt, .snet, .can, .dio, .adc, .lnch, .priv, .met, .metNv, .loop, .twin, .segs, .keys, .dev, .sent] ⊆ T) :
    Keeps T s0 (State.hostTick s) := by
  delta State.hostTick
  refine keeps_ite ?_ ?_
  · exact hs
  · refine hostCmds_keeps ?_ (List.Subset.trans (by decide) hT)
    refine commandedSolve_keeps ?_ (List.Subset.trans (by decide) hT)
    refine queueTick_keeps ?_ (List.Subset.trans (by decide) hT)
    exact hs

theorem engineTick_keeps {T : List Part} {s0 : State} {s : State} {p : TickAt} {first : Bool} {m : Meas} (hs : Keeps T s0 s)
    (hT : [.regs, .shadow, .tbl, .tshadow, .frzFrom, .commitDue, .mbx, .host, .items, .icu, .evr, .seq, .cpe, .time, .model, .opt, .snet, .can, .dio, .adc, .lnch, .priv, .met, .metNv, .loop, .twin, .segs, .keys, .dev, .sent, .free] ⊆ T) :
    Keeps T s0 (State.engineTick s p first m) := by
  delta State.engineTick
  extract_lets +onlyGivenNames y1
  have hy1 : Keeps T s0 y1 := by
    unfold y1
    refine seqMod_keeps ?_ (List.Subset.trans (by decide) hT)
    exact hs
  extract_lets +onlyGivenNames y2
  have hy2 : Keeps T s0 y2 := by
    unfold y2
    refine commitSkips_keeps ?_ (List.Subset.trans (by decide) hT)
    refine keeps_ite ?_ ?_
    · refine hfNew_keeps ?_ (List.Subset.trans (by decide) hT)
      exact hy1
    · exact hy1
  extract_lets +onlyGivenNames y3
  have hy3 : Keeps T s0 y3 := by
    unfold y3
    refine keeps_ite ?_ ?_
    · refine hostTick_keeps ?_ (List.Subset.trans (by decide) hT)
      exact hy2
    · refine swapAll_keeps ?_ (List.Subset.trans (by decide) hT)
      refine hostTick_keeps ?_ (List.Subset.trans (by decide) hT)
      refine metFrameEnd_keeps ?_ (List.Subset.trans (by decide) hT)
      exact hy2
  extract_lets +onlyGivenNames y4
  have hy4 : Keeps T s0 y4 := by
    unfold y4
    refine dioTick_keeps ?_ (List.Subset.trans (by decide) hT)
    refine metTick_keeps ?_ (List.Subset.trans (by decide) hT)
    refine adcTick_keeps ?_ (List.Subset.trans (by decide) hT)
    exact hy3
  extract_lets +onlyGivenNames y5
  have hy5 : Keeps T s0 y5 := by
    unfold y5
    refine nodeCounts_keeps ?_ (List.Subset.trans (by decide) hT)
    refine snetTick_keeps ?_ (List.Subset.trans (by decide) hT)
    exact hy4
  extract_lets +onlyGivenNames y6
  extract_lets +onlyGivenNames y7
  have hy7 : Keeps T s0 y7 := by
    unfold y7
    refine keeps_ite ?_ ?_
    · refine canCycle_keeps ?_ (List.Subset.trans (by decide) hT)
      refine canCycle_keeps ?_ (List.Subset.trans (by decide) hT)
      exact hy5
    · exact hy5
  extract_lets +onlyGivenNames y8
  have hy8 : Keeps T s0 y8 := by
    unfold y8
    refine loopTick_keeps ?_ (List.Subset.trans (by decide) hT)
    refine canTick_keeps ?_ (List.Subset.trans (by decide) hT)
    refine boffShow_keeps ?_ (List.Subset.trans (by decide) hT)
    refine canTick_keeps ?_ (List.Subset.trans (by decide) hT)
    refine boffShow_keeps ?_ (List.Subset.trans (by decide) hT)
    exact hy7
  refine promTick_keeps ?_ (List.Subset.trans (by decide) hT)
  refine ageReg_keeps ?_ (List.Subset.trans (by decide) hT)
  refine privTick_keeps ?_ (List.Subset.trans (by decide) hT)
  refine cpesTick_keeps ?_ (List.Subset.trans (by decide) hT)
  exact hy8

theorem enginesAt_keeps {T : List Part} {s0 : State} {s : State} {prev : Option RecHdr} {p : TickAt} {first : Bool} {m : Meas} (hs : Keeps T s0 s)
    (hT : [.regs, .shadow, .tbl, .tshadow, .frzFrom, .commitDue, .mbx, .host, .items, .icu, .evr, .seq, .cpe, .time, .model, .opt, .snet, .can, .dio, .adc, .lnch, .priv, .met, .metNv, .loop, .twin, .segs, .keys, .dev, .sent, .free] ⊆ T) :
    Keeps T s0 (State.enginesAt s prev p first m) := by
  delta State.enginesAt
  refine keeps_ite ?_ ?_
  · split
    · refine seqMod_keeps ?_ (List.Subset.trans (by decide) hT)
      exact hs
    · extract_lets +onlyGivenNames y1
      extract_lets +onlyGivenNames y2
      have hy2 : Keeps T s0 y2 := by
        unfold y2
        refine twinMod_keeps ?_ (List.Subset.trans (by decide) hT)
        refine privMod_keeps ?_ (List.Subset.trans (by decide) hT)
        exact hs
      refine engineTick_keeps ?_ (List.Subset.trans (by decide) hT)
      exact hy2
  · refine engineTick_keeps ?_ (List.Subset.trans (by decide) hT)
    exact hs

theorem led_keeps {T : List Part} {s0 : State} {s : State} (hs : Keeps T s0 s)
    (hT : [.regs, .free] ⊆ T) :
    Keeps T s0 (State.led s) := by
  delta State.led
  extract_lets +onlyGivenNames y1
  extract_lets +onlyGivenNames y2
  extract_lets +onlyGivenNames y3
  extract_lets +onlyGivenNames y4
  refine setF_keeps ?_ (List.Subset.trans (by decide) hT)
  refine useFree_keeps ?_ (List.Subset.trans (by decide) hT)
  exact hs

theorem moduleTick_keeps {T : List Part} {s0 : State} {s : State} {m : Meas} (hs : Keeps T s0 s)
    (hT : [.regs, .keys, .free] ⊆ T) :
    Keeps T s0 (State.moduleTick s m) := by
  delta State.moduleTick
  extract_lets +onlyGivenNames y1
  have hy1 : Keeps T s0 y1 := by
    unfold y1
    refine supplyTick_keeps ?_ (List.Subset.trans (by decide) hT)
    refine wr_keeps ?_ (List.Subset.trans (by decide) hT)
    refine wr_keeps ?_ (List.Subset.trans (by decide) hT)
    exact hs
  refine led_keeps ?_ (List.Subset.trans (by decide) hT)
  refine modelWin_keeps ?_ (List.Subset.trans (by decide) hT)
  refine hostRegs_keeps ?_ (List.Subset.trans (by decide) hT)
  refine keyRegs_keeps ?_ (List.Subset.trans (by decide) hT)
  refine aonTick_keeps ?_ (List.Subset.trans (by decide) hT)
  refine tampShow_keeps ?_ (List.Subset.trans (by decide) hT)
  refine portsTick_keeps ?_ (List.Subset.trans (by decide) hT)
  exact hy1

theorem snapsOf_keeps {T : List Part} {s0 : State} {s : State} {old : List Intake} (hs : Keeps T s0 s)
    (hT : [.evr] ⊆ T) :
    Keeps T s0 (State.snapsOf s old) := by
  delta State.snapsOf
  refine keeps_evr ?_ (List.Subset.trans (by decide) hT)
  exact hs

theorem tick_keeps {T : List Part} {s0 : State} {s : State} {m : Meas} (hs : Keeps T s0 s)
    (hT : [.regs, .vis, .shadow, .tbl, .tshadow, .frzFrom, .commitDue, .mbx, .host, .items, .icu, .evr, .seq, .cpe, .time, .model, .opt, .snet, .can, .dio, .adc, .lnch, .priv, .met, .metNv, .cpeNv, .loop, .twin, .segs, .keys, .dev, .sent, .free] ⊆ T) :
    Keeps T s0 (State.tick s m) := by
  delta State.tick
  extract_lets +onlyGivenNames y1
  extract_lets +onlyGivenNames y2
  extract_lets +onlyGivenNames y3
  extract_lets +onlyGivenNames y4
  extract_lets +onlyGivenNames y5
  have hy5 : Keeps T s0 y5 := by
    unfold y5
    refine keeps_foldl ?_ (fun a e ha => ?_)
    · refine tickNotes_keeps ?_ (List.Subset.trans (by decide) hT)
      refine keeps_sent ?_ (List.Subset.trans (by decide) hT)
      exact hs
    · refine keeps_ite ?_ ?_
      · refine fwViol_keeps ?_ (List.Subset.trans (by decide) hT)
        exact ha
      · exact ha
  extract_lets +onlyGivenNames y6
  have hy6 : Keeps T s0 y6 := by
    unfold y6
    refine tamperAct_keeps ?_ (List.Subset.trans (by decide) hT)
    refine recTick_keeps ?_ (List.Subset.trans (by decide) hT)
    refine digestTick_keeps ?_ (List.Subset.trans (by decide) hT)
    exact hy5
  extract_lets +onlyGivenNames y7
  have hy7 : Keeps T s0 y7 := by
    unfold y7
    refine frameHi_keeps ?_ (List.Subset.trans (by decide) hT)
    refine frameBegin_keeps ?_ (List.Subset.trans (by decide) hT)
    refine splitAct_keeps ?_ (List.Subset.trans (by decide) hT)
    refine controlAct_keeps ?_ (List.Subset.trans (by decide) hT)
    exact hy6
  extract_lets +onlyGivenNames y8
  have hy8 : Keeps T s0 y8 := by
    unfold y8
    refine enginesAt_keeps ?_ (List.Subset.trans (by decide) hT)
    refine recNext_keeps ?_ (List.Subset.trans (by decide) hT)
    refine timeTick_keeps ?_ (List.Subset.trans (by decide) hT)
    exact hy7
  extract_lets +onlyGivenNames y9
  have hy9 : Keeps T s0 y9 := by
    unfold y9
    refine moduleTick_keeps ?_ (List.Subset.trans (by decide) hT)
    refine plausTick_keeps ?_ (List.Subset.trans (by decide) hT)
    refine readbackTest_keeps ?_ (List.Subset.trans (by decide) hT)
    exact hy8
  extract_lets +onlyGivenNames y10
  have hy10 : Keeps T s0 y10 := by
    unfold y10
    refine twinRegs_keeps ?_ (List.Subset.trans (by decide) hT)
    exact hy9
  extract_lets +onlyGivenNames y11
  have hy11 : Keeps T s0 y11 := by
    unfold y11
    refine hbTick_keeps ?_ (List.Subset.trans (by decide) hT)
    refine keeps_ite ?_ ?_
    · exact hy10
    · refine hbSend_keeps ?_ (List.Subset.trans (by decide) hT)
      exact hy10
  extract_lets +onlyGivenNames y12
  have hy12 : Keeps T s0 y12 := by
    unfold y12
    refine snapsOf_keeps ?_ (List.Subset.trans (by decide) hT)
    refine shown_keeps ?_ (List.Subset.trans (by decide) hT)
    exact hy11
  extract_lets +onlyGivenNames y13
  have hy13 : Keeps T s0 y13 := by
    unfold y13
    refine signal_keeps ?_ (List.Subset.trans (by decide) hT)
    exact hy12
  refine keeps_ite ?_ ?_
  · refine signal_keeps ?_ (List.Subset.trans (by decide) hT)
    exact hy13
  · exact hy13

theorem execFrameTick_keeps {T : List Part} {s0 : State} {m : Meas} {s : State} (hs : Keeps T s0 s)
    (hT : [.regs, .vis, .shadow, .tbl, .tshadow, .frzFrom, .commitDue, .mbx, .host, .items, .icu, .evr, .seq, .cpe, .time, .model, .opt, .snet, .can, .dio, .adc, .lnch, .priv, .met, .metNv, .cpeNv, .loop, .twin, .segs, .keys, .dev, .sent, .free] ⊆ T) :
    KeepsO T s0 (execFrameTick m s) := by
  delta execFrameTick
  refine keepsO_next ?_
  refine keeps_ite ?_ ?_
  · exact hs
  · refine keeps_ite ?_ ?_
    · refine restartNow_keeps ?_ (List.Subset.trans (by decide) hT)
      exact hs
    · refine tick_keeps ?_ (List.Subset.trans (by decide) hT)
      exact hs

end Sys2Proof.Machine
end

