-- ==== Sys2Proof/Tests/Slice0.lean ====
section
/-! SUPPORT. Witnesses: for every statement with hypotheses, small states and operands that meet them, each clause at a boundary of
its range; one ill-formed command for each check of WellFormed, which the check refuses; and small checks of single steps. -/

section Witnesses

set_option Elab.async false

open Sys2Proof Sys2Proof.Machine

/-! ## States for the witnesses -/

/-- A request on port H1, session 0, SEQ 1, REQ_ID 5, that fails no check. -/
def tk : Kwp := { port := 0, svc := false, ses := 0, seq := 1, reqId := 5, fmtOk := true, tagOk := true }

/-- Session 0 open on port H1. -/
def tSess : Sess := { Sess.free with st := 2, gen := 1, cred := 0 }

/-- The reset state with every line up. -/
def tUp : State := { State.reset with snet := { State.reset.snet with lines := [true, true, true, true, true] } }

/-- That state with session 0 replaced. -/
def tS (x : Sess) : State := { tUp with host := { tUp.host with sess := x :: List.replicate 7 Sess.free } }

/-- Session 0 is open and the owner. -/
def tOwn : State := { tS tSess with host := { (tS tSess).host with owner := some 0 } }

/-- The sizes of a state whose fixed parts have their lengths. -/
theorem test_sized (s : State) (h1 : s.host.sess.length = 8) (h2 : s.icu = State.reset.icu) (h3 : s.time.ports.length = 4)
    (h4 : s.snet.lines.length = 5) (h5 : s.can.length = 2) (h6 : s.adc = State.reset.adc) (h7 : s.met.pts.length = 4) (h8 : s.cpe.length = 2)
    (h9 : s.cpeNv.length = 2) (h10 : s.model.thmAt.length = 4 ∧ s.model.arrAt.length = 16) (h11 : s.segs = []) : s.Sized := by
  refine ⟨h1, ?_, ?_, h3, h4, h5, ?_, ?_, h7, h8, h9, h10.1, h10.2, ?_⟩
  · rw [h2]; decide
  · rw [h2]; decide
  · rw [h6]; decide
  · rw [h6]; decide
  · rw [h11]; exact fun e h => nomatch h

/-! ## Host ports, sessions and ownership -/

theorem test_passes : (tS tSess).passes tk := by unfold State.passes; decide

theorem test_admits : (tS tSess).admits tk := ⟨test_passes, by unfold State.newReq; decide⟩

theorem test_admits_owner : tOwn.admits tk := by unfold State.admits State.passes State.newReq; decide

theorem test_inputs_RequestChecksInOrder :
    reqOf (.read tk 0) = some (tk, 1) ∧ reqOf (.closeReq tk) = some (tk, 16) ∧ State.reset.portOn 9 = false
      ∧ State.reset.addressed tk.port tk.svc = false ∧ (tS tSess).addressed tk.port tk.svc = true ∧ tUp.addressed tk.port true = false
      ∧ tk.fmtOk = true ∧ tk.tagOk = true ∧ State.reset.portOn tk.port = true ∧ (State.reset.sess tk.ses).st = 0
      ∧ ((tS tSess).sess tk.ses).st ≠ 0 ∧ tk.ses < 8 ∧ ((tS tSess).sess tk.ses).port = tk.port ∧ ((tS tSess).sess tk.ses).svc = tk.svc
      ∧ replayOk ((tS { tSess with rxTop := 67 }).sess tk.ses).rxTop ((tS { tSess with rxTop := 67 }).sess tk.ses).rxSeen tk.seq = false
      ∧ State.reset.host.authRaised = false ∧ (State.reset.hostMod (fun h => { h with authRaised := true })).host.authRaised = true := by
  decide

theorem test_inputs_RequestActsOnce :
    reqOf (.cqRead tk 1) = some (tk, 8)
      ∧ (∃ s : State, s.passes tk ∧ (s.sess tk.ses).cache.find? (fun r => r.reqId == tk.reqId) = some ⟨5, 1, .ok, [7]⟩)
      ∧ (∃ s : State, s.passes tk ∧ (∀ r ∈ (s.sess tk.ses).cache, r.reqId ≠ tk.reqId) ∧ tk.reqId ∈ (s.sess tk.ses).inflight)
      ∧ ∃ s : State, s.passes tk ∧ (∀ r ∈ (s.sess tk.ses).cache, r.reqId ≠ tk.reqId) ∧ tk.reqId ∉ (s.sess tk.ses).inflight
          ∧ 8 ≤ (s.sess tk.ses).inflight.length := by
  refine ⟨rfl, ⟨tS { tSess with cache := [⟨5, 1, .ok, [7]⟩] }, ?_⟩, ⟨tS { tSess with inflight := [5] }, ?_⟩,
    ⟨tS { tSess with inflight := [10, 11, 12, 13, 14, 15, 16, 17] }, ?_⟩⟩ <;> unfold State.passes <;> decide

theorem test_inputs_ReadsAnswerTheWords :
    (tS tSess).admits tk ∧ tOwn.admits tk ∧ addrOk (0x6200 % 2 ^ 24) = false ∧ 2 ^ 24 ≤ 0x1000054 ∧ addrOk (0x1000054 % 2 ^ 24) = true
      ∧ addrOk 0x54 = true ∧ readActs 0x54 = false ∧ addrOk 0x7080 = true ∧ readActs 0x7080 = true
      ∧ (tS tSess).isOwner tk.ses = false ∧ tOwn.isOwner tk.ses = true
      ∧ blockOk 0xFFC 2 = false ∧ blockOk 0x0 5 = true ∧ (∀ i < 5, readActs (0x0 + 4 * i) = false)
      ∧ blockOk 0x7080 1 = true ∧ (∃ i < 1, readActs (0x7080 + 4 * i) = true)
      ∧ tableInfo 0x0001 = none ∧ (∃ ti, tableInfo 0x0B00 = some ti ∧ 15 * ti.words ≤ 320 ∧ ti.idxOk 1 = true
        ∧ ti.idxOk (1 + 15 - 1) = true ∧ ti.byXfer = false) := by
  refine ⟨test_admits, test_admits_owner, ?_⟩
  decide

theorem test_inputs_WritesWaitForTheTick :
    tOwn.admits tk ∧ (tS tSess).admits tk ∧ tOwn.isOwner tk.ses = true ∧ (tS tSess).isOwner tk.ses = false
      ∧ valueStatus 0xB04C 0 = .ok ∧ addrOk (0x6200 % 2 ^ 24) = false ∧ addrOk 0x4090 = true
      ∧ blockOk 0xB04C 2 = true := by
  refine ⟨test_admits_owner, test_admits, ?_⟩
  decide

/-- An OPEN on port H1 under credential 0. -/
def tOpen : KwpOpen := { port := 0, svc := false, seq := 0, fmtOk := true, tagOk := true, cred := 0, hNonce := 9, dNonce := 4 }

/-- Credential 0 is defined, names slot 5, may own with PRIO up to 5, and may not override. -/
def tCred (s : State) : State := s.twr 0x0B00 0 0 0xC5050000

/-- Session 6 of a standby module of a pair is open, and the owner. -/
theorem test_standby_own_session :
    ({ tS tSess with host := { (tS tSess).host with sess := List.replicate 6 Sess.free ++ [tSess, Sess.free], owner := some 6 } } : State).standbyOwnSes 6 = false := by
  decide

theorem test_inputs_CommandsAreAcceptedInOrder :
    tOwn.admits tk ∧ (tS tSess).admits tk ∧ tOwn.standbyOwnSes tk.ses = false ∧ tOwn.isOwner tk.ses = true
      ∧ (tS tSess).isOwner tk.ses = false ∧ argsFit 0x0B00 1 = true ∧ argsFit 0x2500 0 = true ∧ argsFit 0x2600 18 = true
      ∧ argsFit 0x2600 19 = false ∧ tOwn.host.cmds = [] ∧ tOwn.outstanding tk.ses + (tOwn.sess tk.ses).cq.length < 64
      ∧ 64 ≤ (tS { tSess with cq := List.replicate 64 [] }).outstanding tk.ses
          + ((tS { tSess with cq := List.replicate 64 [] }).sess tk.ses).cq.length := by
  refine ⟨test_admits_owner, test_admits, ?_⟩
  decide

theorem test_inputs_SessionRequestsAct :
    (tOwn.admits tk ∧ (tS tSess).admits tk ∧ tOwn.isOwner tk.ses = true ∧ (tS tSess).isOwner tk.ses = false
      ∧ tOwn.fld ⟨0xB054, 16, 16⟩ = 600 ∧ (tOwn.wr 0xB054 0).fld ⟨0xB054, 16, 16⟩ = 0 ∧ tOwn.host.owner = some tk.ses
      ∧ (tS tSess).host.owner ≠ some tk.ses)
    ∧ State.reset.fld ⟨0xB048, 0, 3⟩ = 0
    ∧ ((tS { tSess with items := [.completion] }).sess 0).st = 2 ∧ ((tS { tSess with items := [.completion] }).sess 0).items ≠ []
    ∧ ((tS { tSess with items := [.completion] }).sess 0).modCnt ≤ ((tS { tSess with items := [.completion] }).sess 0).items.length
    ∧ ((tS { tSess with st := 3, items := [.event 1], wakeSev := 0 }).sess 0).wakeSev ≤ 7
    ∧ (.event 1 : NItem) ∈ ((tS { tSess with st := 3, items := [.event 1], wakeSev := 0 }).sess 0).items
    ∧ 0 ≤ (tS { tSess with st := 3, items := [.event 1], wakeSev := 0 }).severity 1
    ∧ ((tS { tSess with st := 3, items := [.event 1], wakeSev := 0 }).sess 0).woke = 0 ∧ 8 ≤ ((tS { tSess with st := 3, wakeSev := 8 }).sess 0).wakeSev
    ∧ ((tS { tSess with st := 3, items := [.event 1], wakeSev := 0 }).sess 0).wolLast = none
    ∧ ((tS tSess).sess 0).wolLast = none ∧ ((tS tSess).sess 1).st ≠ 3 := by
  refine ⟨⟨test_admits_owner, test_admits, ?_⟩, ?_⟩ <;> decide

theorem test_inputs_OwnershipRequestsWait :
    (tCred (tS tSess)).admits tk ∧ (tCred tOwn).admits tk ∧ (tCred (tS tSess)).mayOwn tk.ses = true ∧ 5 ≤ (tCred (tS tSess)).maxPrio tk.ses
      ∧ (tCred (tS tSess)).maxPrio tk.ses < 6 ∧ (tCred (tS tSess)).mayOverride tk.ses = false ∧ (tCred (tS tSess)).cfg.pair = false
      ∧ (tS tSess).mayOwn tk.ses = false ∧ (tCred tOwn).isOwner tk.ses = true ∧ (tCred (tS tSess)).isOwner tk.ses = false
      ∧ (∃ s : State, s.admits tk ∧ s.mayOwn tk.ses = true ∧ s.maxPrio tk.ses = 5 ∧ s.cfg.pair = true ∧ s.mstate = 3) := by
  refine ⟨?_, ?_, ?_, ?_, ?_, ?_, ?_, ?_, ?_, ?_, ⟨{ (tCred (tS tSess)).setF ⟨0x54, 28, 4⟩ 3 with cfg := { State.reset.cfg with pair := true } }, ?_⟩⟩
    <;> (try unfold State.admits State.passes State.newReq) <;> decide

theorem test_inputs_SessionsOpenAndTimeOut :
    ((tCred tUp).addressed tOpen.port tOpen.svc = true ∧ tOpen.fmtOk = true ∧ (tCred tUp).portOn tOpen.port = true ∧ tOpen.tagOk = true ∧ (tCred tUp).credOk tOpen.cred = true
      ∧ tOpen.hNonce ∉ (tCred tUp).noncesOf tOpen.cred ∧ (tCred tUp).bit (bitAt 0xB040 3) = true
      ∧ (tCred tUp).freeSess tOpen.svc = some 0 ∧ (tCred tUp).host.sess.length = 8
      ∧ tOpen.hNonce ∈ ((tCred tUp).hostMod (fun h => { h with nonces := [(0, 9)] })).noncesOf tOpen.cred
      ∧ ((tCred tUp).wr 0xB040 3).bit (bitAt 0xB040 3) = false ∧ ((tCred tUp).wr 0xB040 3).portOn 0 = true
      ∧ ((tCred tUp).hostMod (fun h => { h with sess := List.replicate 8 tSess })).freeSess tOpen.svc = none)
    ∧ ((tS { tSess with st := 1 }).wr 0x604C 2000).since 0 = 2000 ∧ ((tS { tSess with st := 1 }).sess 0).st = 1
    ∧ ((tS { tSess with st := 1 }).wr 0x604C 1999).since 0 < 2000
    ∧ (∃ s : State, (s.sess 0).st = 2 ∧ s.fld ⟨0xB054, 0, 16⟩ * 1000 ≤ s.since (s.sess 0).lastRx)
    ∧ (∃ s : State, (s.sess 0).st = 3 ∧ s.fld ⟨0xB054, 16, 16⟩ * 1000 ≤ s.since (s.sess 0).since)
    ∧ (∃ s : State, s.since (s.sess 0).since < s.fld ⟨0xB054, 16, 16⟩ * 1000) := by
  refine ⟨by decide, by decide, by decide, by decide, ⟨(tS tSess).wr 0xB054 0, by decide⟩, ⟨(tS { tSess with st := 3 }).wr 0xB054 0, by decide⟩,
    ⟨tS tSess, by decide⟩⟩

theorem test_inputs_OwnershipResolvesAtTheTick :
    let q : HReq := ⟨0, 1, 5, .ownReq 5 true⟩
    let s0 := (tS tSess).hostMod (fun h => { h with ownQ := [q] })
    let o1 (ops : List HReq) := { tOwn with host := { tOwn.host with sess := [tSess, { tSess with st := 2 }] ++ List.replicate 6 Sess.free, ownQ := ops } }
    let o2 := (o1 [⟨1, 1, 5, .ownReq 5 true⟩])
    (s0.host.owner = none ∧ s0.host.closing = false ∧ s0.host.endNext = false ∧ bestReq (s0.ownReqs.map (fun e => (e.1, e.2.1))) = some (q, 5))
    ∧ (tS tSess).ownReqs = [] ∧ tOwn.host.owner = some 0 ∧ tOwn.host.ownQ = [] ∧ tOwn.lapses = false ∧ (tOwn.wr 0x604C 2000).lapses = true
    ∧ (tOwn.wr 0x604C 1999).lapses = false
    ∧ bestReq ((o2.ownReqs.filter (fun e => e.2.2 && decide (o2.host.prio < e.2.1))).map (fun e => (e.1, e.2.1)))
        = some (⟨1, 1, 5, .ownReq 5 true⟩, 5)
    ∧ o2.ownQOf (fun op => op == .release) = none ∧ o2.lapses = false
    ∧ (o1 [⟨0, 1, 5, .release⟩]).host.ownQ = [⟨0, 1, 5, .release⟩] ∧ ((o1 []).sess 0).gen = 1
    ∧ (o1 [⟨0, 1, 5, .handover 1⟩]).lapses = false ∧ ((o1 []).sess 1).st = 2 ∧ (tCred (o1 [])).mayOwn 1 = true ∧ (o1 []).mayOwn 1 = false
    ∧ ((o1 []).wr 0x604C 2000).ownQOf (fun op => op == .release) = none
    ∧ (tS { tSess with st := 3 }).dormOver 0 = false ∧ ((tS { tSess with st := 3 }).wr 0xB054 0).dormOver 0 = true ∧ o2.dormOver 0 = false := by
  decide

/-! ## Interrupt controller and recorder -/

/-- Source 0x310 enabled, unmasked, of PRIO 2, and pending for HOST. -/
def tSrc : State := (State.reset.twr 0x0700 0x310 0 0xA2C00001).wr 0x7040 1

theorem test_inputs_InterruptSourcesAndClaims :
    (srcReserved 0x3FF = false ∧ srcReserved 0x310 = false ∧ (∃ src, src ≠ 0 ∧ srcReserved src = true) ∧ (some 1 : Option Nat) ≠ none
      ∧ tSrc.srcFld 0x310 31 1 = 1 ∧ State.reset.srcFld 0x310 31 1 = 0
      ∧ (State.reset.twr 0x0700 0x310 0 0x800000FE).srcFld 0x310 0 8 = 254 ∧ tSrc.srcFld 0x310 0 8 < 254)
    ∧ (State.reset.icu.stack.length = 13 ∧ State.reset.icu.pres.length = 13 ∧ tSrc.icuEval.icu.pres.getD 12 0 = 0x310
      ∧ State.reset.icu.pres.getD 12 0 = 0 ∧ State.reset.stackFrozen 12 = false ∧ (State.reset.wr 0x7060 0x1000).stackFrozen 12 = true
      ∧ (∃ s : State, (s.icu.stack.getD 12 []).head? = some 0x310 ∧ s.icu.stack.length = 13 ∧ s.icu.pres.length = 13
        ∧ s.stackFrozen 12 = false ∧ ∀ src ∈ s.icu.stack.getD 12 [], src < 0x400))
    ∧ State.reset.bit (bitAt 0x7040 0) = false ∧ tSrc.bit (bitAt 0x7040 0) = true ∧ tSrc.icuEval.icu.pres.getD 11 0 = 0 := by
  refine ⟨⟨by decide, by decide, ⟨0x3F, by decide⟩, by decide, by decide, by decide, by decide, by decide⟩,
    ⟨by decide, by decide, by decide +kernel, by decide, by decide, by decide,
      ⟨{ State.reset with icu := { State.reset.icu with stack := List.replicate 12 [] ++ [[0x310]] } }, by decide⟩⟩, by decide, by decide,
    by decide +kernel⟩

theorem test_inputs_EventsAndTheRecorder :
    (0x0B < 256 ∧ 31 < 32 ∧ (State.reset.wr (addrOf 0x0B 0x28) 65534).fld ⟨addrOf 0x0B 0x28, 0, 16⟩ = 65534
      ∧ (State.reset.wr (addrOf 0x0B 0x10) 1).bit (bitAt (addrOf 0x0B 0x10) 0) = true ∧ State.reset.bit (bitAt (addrOf 0x0B 0x10) 0) = false
      ∧ (State.reset.wr (addrOf 0x0B 0x1C) 0).bit (bitAt (addrOf 0x0B 0x1C) 0) = false
      ∧ (State.reset.twr 0x0700 0x10B 0 0x80000000).srcFld 0x10B 31 1 = 1)
    ∧ (State.reset.evr.intake = [] ∧ State.reset.evrNext ≤ 98304 ∧ (State.reset.wr 0x804C 98303).evrNext = 98303
      ∧ (∃ e : Intake, e.summary = none ∧ e.snap = some (List.replicate 16 0) ∧ e.codeRec = none)
      ∧ (State.reset.twr 0x0801 1023 0 0x80000000).tfld 0x0801 1023 0 31 1 = 1
      ∧ (State.reset.wr 0x8058 0x05000003).evrPeriod 1024 = 3 ∧ (State.reset.wr 0x8058 0x05000003).evrBurst 1024 = 5
      ∧ ((State.reset.wr 0x8058 0x05000003).wr 0x805C 0x04000000).evrTokens 1024 = 4 ∧ (State.reset.wr 0x604C 3).since (State.reset.evrGain 1024) = 3
      ∧ (State.reset.wr 0x8058 0x05000000).evrPeriod 1024 = 0)
    ∧ State.reset.bit (bitAt 0x8048 0) = false ∧ (State.reset.wr 0x8048 1).bit (bitAt 0x8048 0) = true
    ∧ (State.reset.wr 0x8050 2).fld ⟨0x8050, 0, 12⟩ = 2 ∧ (State.reset.wr 0x604C 2000).since 0 = 2000 := by
  refine ⟨by decide, ⟨by decide, by decide, by decide, ⟨⟨0, 0, 1, 0, 0, false, 0, none, some (List.replicate 16 0), none⟩, by decide⟩, by decide,
    by decide, by decide, by decide, by decide, by decide⟩, by decide, by decide, by decide, by decide⟩

/-! ## Register pages -/

/-- Page 4 with a shadow word, SHADOW_DIRTY and COMMIT_PEND set. -/
def tShadow : State := (({ State.reset with shadow := [(0x404C, 5)] }).setB (pgDirty 4) true).setB (pgPend 4) true

theorem test_inputs_RegisterWriteByAccessType :
    plainReg 0x4050 = true ∧ valueStatus 0x4050 1000000 = .ok ∧ State.reset.locked (pageOf 0x4050) = false ∧ hasAcc .rws 0x404C = true
      ∧ plainReg 0x404C = true ∧ valueStatus 0x404C 0x321 = .ok ∧ valueStatus 0x404C 0x11 ≠ .ok ∧ State.reset.shadow = []
      ∧ hasAcc .rws 0xB040 = true ∧ (∃ a, plainReg a = true ∧ hasAcc .rws a = false ∧ valueStatus a 0 = .ok)
      ∧ (State.reset.setF ⟨0x4030, 0, 1⟩ 1).locked 4 = true := by
  refine ⟨by decide, by decide, by decide, by decide, by decide, by decide, by decide, by decide, by decide, ⟨0xB048, by decide⟩, by decide⟩

theorem test_inputs_EventMaskAndCounterWrites :
    (pageOk 48 = true ∧ State.reset.locked 48 = false ∧ (∃ s : State, s.locked 48 = true) ∧ wbit (0x80000000 : Word) 31 = true)
      ∧ ∃ (c : Ctr) (v : Word), c ∈ ctrsOf (pageOf c.clr.1) ∧ c.kind = .S ∧ c.clr.1 ≠ 0 ∧ wbit v c.clr.2 = true
        ∧ valueStatus c.clr.1 v = .ok ∧ State.reset.locked (pageOf c.clr.1) = false :=
  ⟨⟨by decide, by decide, ⟨State.reset.setF ⟨addrOf 48 0x30, 0, 1⟩ 1, by decide⟩, by decide⟩, .HOST_BAD, (BitVec.ofNat 32 (2 ^ Ctr.HOST_BAD.clr.2)), by decide⟩

theorem test_inputs_BanksFreezeAndReset :
    (pageOk 4 = true ∧ ((pageInfo 4).map (·.shadow)) = some true ∧ tShadow.locked 4 = false ∧ tShadow.commitErr 4 = 0
      ∧ valueStatus (addrOf 4 0x2C) (wput (wput 0 0 1 1) 1 1 0) = .ok ∧ valueStatus (addrOf 4 0x2C) (wput (wput 0x83E78000 0 1 1) 1 1 0) = .ok
      ∧ wbit (0x83E78000 : Word) 15 = true ∧ (tShadow.setB (bitAt 0x402C 15) true).commitIsDue 4 = true
      ∧ (tShadow.setB (bitAt 0x402C 15) true).commitErr 4 = 0 ∧ State.reset.commitIsDue 4 = false
      ∧ valueStatus (addrOf 4 0x2C) (wput (tShadow.rd (addrOf 4 0x2C)) 0 2 2) = .ok)
    ∧ State.reset.locked 4 = false ∧ valueStatus (addrOf 4 8) (wput (wput (State.reset.rd (addrOf 4 8)) 2 1 1) 1 1 0) = .ok
    ∧ State.reset.frozen 4 = false ∧ ({ State.reset with frzFrom := [(4, 0)] } : State).frzFrom.lookup 4 = some 0
    ∧ (State.reset.wr 0x604C 1000).since 0 = 1000 ∧ (State.reset.wr 0x604C 999).since 0 = 999 ∧ State.reset.frzFrom.lookup 4 = none
    ∧ ((pageInfo 0).map (·.srst)) = some false ∧ ((pageInfo 8).map (·.srst)) = some true
    ∧ valueStatus (addrOf 8 8) (wput (State.reset.rd (addrOf 8 8)) 1 1 1) = .ok ∧ State.reset.locked 8 = false := by
  decide

/-! ## Frames and the sequencer -/

/-- A mailbox of engine 9, number 3, closed or not. -/
def tMbx (c : Bool) : Mbx :=
  { num := 3, writer := 9, readers := 0, words := 1, front := [Item.init], back := [⟨7, 1⟩], img := [], late := [], closed := c, swapped := false,
    stale := false }

/-- `s` in a frame whose table holds next, as its first record, the entry of these fields. -/
def tEnt (op unit arg off : Nat) (s : State) : State :=
  ((s.twr 0x0600 0 0 (BitVec.ofNat 32 (arg + unit % 16 * 2 ^ 28))).twr 0x0600 0 1
    (BitVec.ofNat 32 (unit / 16 + op * 2 ^ 4 + off * 2 ^ 12))).seqMod (fun q => { q with started := true, pos := 0 })

/-- Start-up has reached step 7: the module takes ticks. -/
def tRun : State := State.reset.setF ⟨0x54, 24, 4⟩ 7

theorem test_inputs_FramesAndMailboxes :
    ((2 ^ 48 - 1 : Nat) < 2 ^ 48 ∧ (999 : Nat) < 1000 ∧ (999 : Nat) = 998 + 1 ∧ (0 + 1 : Nat) < 999 ∧ (0 : Nat) ≤ 0 ∧ (0 : Nat) ≠ 2 ^ 48 - 1)
    ∧ (tRun.ticks = true ∧ tRun.dev.restartNext = false ∧ State.reset.ticks = false ∧ tRun.comingTick.newHf = true
      ∧ tRun.comingTick.ext = false ∧ (tRun.seqMod (fun q => { q with started := true })).comingTick.newHf = false
      ∧ (tRun.seqMod (fun q => { q with started := true, lastRun := 5 })).comingTick.ext = true)
    ∧ ({ State.reset with mbx := [tMbx true] } : State).mbx[0]? = some (tMbx true) ∧ (tMbx true).closed = true
    ∧ ({ State.reset with mbx := [tMbx false] } : State).mbx[0]? = some (tMbx false) ∧ (tMbx false).closed = false
    ∧ (∀ m ∈ ({ State.reset with mbx := [tMbx true] } : State).mbx, m.closed = true) := by decide

/-- An entry's argument names mailbox `n`, with COPY or not. -/
def tEnds (n : Nat) (copy : Bool) (e : Entry) : Bool := e.arg % 2 ^ 12 == n && (e.arg / 2 ^ 12 % 2 == 1) == copy

/-- A mailbox that waits for its close, in a frame whose table closes it next. -/
def tPub (copy : Nat) (s : State) : State := tEnt 0x02 9 (3 + copy * 2 ^ 12) 0 { s with mbx := [tMbx false] }

theorem test_inputs_TheSequencer :
    ((tEnt 0x00 0x40 0 0 State.reset).issues 0x00 0x40 (fun _ => true) = true ∧ State.reset.issues 0x00 0x40 (fun _ => true) = false
      ∧ (tEnt 0x01 0x00 0 0 State.reset).takes 0x01 0x00 (fun _ => true) ∧ State.reset.issues 0x01 0x00 (fun _ => true) = false
      ∧ (tPub 0 State.reset).mbxOf 3 = some (tMbx false) ∧ (tPub 0 State.reset).takes 0x02 (tMbx false).writer (tEnds 3 false)
      ∧ (tPub 1 State.reset).takes 0x02 (tMbx false).writer (tEnds 3 true) ∧ (tMbx false).writer ∉ State.reset.seq.skip
      ∧ State.reset.switchFrame 9 = false
      ∧ (tPub 0 (State.reset.seqMod (fun q => { q with skip := [9] }))).issues 0x02 (tMbx false).writer (tEnds 3 false) = true
      ∧ (tPub 0 State.reset).issues 0x02 (tMbx false).writer (tEnds 3 true) = false
      ∧ (tEnt 0x03 0x0B 0x700 0 (State.reset.wr 0x8040 1)).takes 0x03 0x0B (fun e => e.arg % 2 ^ 16 == 0x700)
      ∧ (tEnt 0x03 0x0B 0x700 0 (State.reset.wr 0x8040 1)).issues 0x03 0x0B (fun e => e.arg % 2 ^ 16 == 0x701) = false
      ∧ (State.reset.seqMod (fun q => { q with ended := true })).seq.ended = true
      ∧ (tEnt 0x00 0x0B 0 0 { State.reset with pwr := { State.reset.pwr with done := true } }).unitOff 0x0B = true)
    ∧ (tEnt 0x03 0x0B 0x700 0 (State.reset.wr 0x8040 1)).recordable 0x700
    ∧ (unitEngine 0x0B = true ∧ ((tEnt 0x03 0x0B 0 0 State.reset).entryAt 0 (tEnt 0x03 0x0B 0 0 State.reset).runTable 0).unit = 0x0B
      ∧ (tEnt 0x03 0x0B 0 0 State.reset).unitOff 0x0B = false ∧ (tEnt 0x03 0x0B 0 0 State.reset).atDeadline 0x0B 0 = true
      ∧ (tEnt 0x03 0x0B 0 0 State.reset).nextEntry ≠ none ∧ (tEnt 0x28 0x08 0 0 State.reset).atDeadline 0x08 0 = true
      ∧ State.reset.atDeadline 0x0B 1 = false ∧ unitEngine 0x40 = false ∧ (State.reset.entryAt 0 State.reset.runTable 0).unit ≠ 0x0B
      ∧ (State.reset.seqMod (fun q => { q with missed := List.replicate 12 3 })).seq.missed.getD 11 0 = 3 ∧ State.reset.mstate ≠ 6
      ∧ (State.reset.seqMod (fun q => { q with missed := List.replicate 12 2 })).seq.missed.getD 11 0 < 3)
    ∧ State.reset.bit seqVfyBusy = false ∧ State.reset.bit seqSwitchPend = false ∧ (State.reset.setB seqVfyBusy true).bit seqVfyBusy = true
    ∧ (∃ e, State.reset.seqVerify State.reset.activeTasks 1 = some e)
    ∧ (∃ s : State, s.seqVerify s.activeTasks 1 = none)
    ∧ (State.reset.setB seqVerified true).bit seqVerified = true ∧ State.reset.bit seqVerified = false
    ∧ (State.reset.setB seqSwitchPend true).bit seqSwitchPend = true ∧ (State.reset.seqMod (fun q => { q with hfStart := true })).seq.hfStart = true
    ∧ State.reset.seq.hfStart = false ∧ (∀ p, p < 2 → (State.reset.bit (cpeBank p).pend && State.reset.cpeSwitchNow p) = false)
    ∧ (∃ s : State, s.bit (cpeBank 1).pend = true ∧ s.cpeSwitchNow 1 = true ∧ s.bit seqSwitchPend = true)
    ∧ State.reset.inExt = false ∧ (State.reset.setB seqSwitchPend true).Canon := by
  refine ⟨?_, ?_, ?_, by decide, by decide, by decide, ?_, ⟨State.reset.twr 0x0600 (2 ^ 23) 1 0x10, by decide +kernel⟩, by decide, by decide,
    by decide, by decide, by decide, ?_, ⟨(State.reset.setB (cpeBank 1).pend true).setB seqSwitchPend true, by decide +kernel⟩, by decide, ?_⟩
  · unfold State.takes
    decide +kernel
  · unfold State.recordable
    refine ⟨by decide +kernel, by decide +kernel, by decide +kernel, by decide, ?_, by decide +kernel, by decide +kernel⟩
    rw [show (tEnt 0x03 0x0B 0x700 0 (State.reset.wr 0x8040 1)).evrRec 0x700 = none by decide +kernel]
    exact fun k hk => nomatch hk
  · decide +kernel
  · rw [← Option.isSome_iff_exists]
    decide +kernel
  · intro p hp
    have : p = 0 ∨ p = 1 := by omega
    rcases this with rfl | rfl <;> decide +kernel
  · refine ⟨?_, ?_, ?_, ?_, ?_⟩ <;> decide +kernel

/-! ## Local inputs and outputs -/

/-- ACTIVE, outputs enabled, every solid-state output commanded on, every analogue output enabled. -/
def tOut : State := (((State.reset.setF ⟨0x54, 28, 4⟩ 2).wr 0x1C040 2).wr 0x1C050 0xFF).wr 0x1D040 0xF

/-- Channel 0 of class 0, and the trip pairs that it and channel 1 hold. -/
def tChan : State := { State.reset.twr 0x2600 0 0 0x80000000 with dio := { State.reset.dio with trips := [(0, 15), (1, 8)] } }

theorem test_inputs_InputsAndOutputs :
    (15 < 16 ∧ (State.reset.wr 0x1C040 1).bit (bitAt 0x1C040 0) = true ∧ State.reset.fld ⟨0x1C04C, 2 * 15, 2⟩ = 0
      ∧ ((State.reset.wr 0x1C04C 0x80000000).fld ⟨0x1C04C, 2 * 15, 2⟩ = 2)
      ∧ (State.reset.twr 0x0700 0x1F 0 0x80000000).srcFld (0x010 + 15) 31 1 = 1 ∧ (State.reset.wr 0x1C040 0).bit (bitAt 0x1C040 0) = false
      ∧ (State.reset.twr 0x0700 0x0F 0 0x80000000).srcFld (0x008 + 7) 31 1 = 1 ∧ (State.reset.wr 0x26040 0).privOn = false)
    ∧ tOut.doOn 7 = true ∧ State.reset.doOn 7 = false ∧ tOut.lineDriven (aoutEn 3) (tOut.fld (aoutCfg 3 30 2)) = true
    ∧ State.reset.lineDriven (aoutEn 3) (State.reset.fld (aoutCfg 3 30 2)) = false := by decide

theorem test_inputs_ReflexAndPrivileged :
    (tChan.fld ⟨0x26048, 0, 5⟩ = 0 ∧ tChan.chDef 0 = true ∧ tChan.chClass 0 = 0 ∧ tChan.reflexActive 0 = false ∧ State.reset.chDef 31 = false
      ∧ (State.reset.wr 0x26048 31).fld ⟨0x26048, 0, 5⟩ = 31 ∧ tChan.chFld 0 2 30 2 = 0 ∧ tChan.chFld 0 2 28 2 < 2
      ∧ (∃ s : State, s.chDef 0 = true ∧ s.chClass 0 = 0 ∧ s.reflexActive 0 = true ∧ s.fld ⟨0x26048, 0, 5⟩ = 0)
      ∧ (∃ e ∈ tChan.dio.trips, e.2 / 2 ^ 3 % 2 = 1)) := by
  refine ⟨by decide, by decide, by decide, by decide, by decide, by decide, by decide, by decide,
    ⟨{ tChan with dio := { State.reset.dio with fast := 1 } }, by decide⟩, by decide⟩

/-! ## Time -/

/-- An Announce of a qualified master, 254 steps from its grandmaster. -/
def tData : PtpData := { p1 := 100, acc := 0x21, var := 0x4E5D, p2 := 100, steps := 254, src := 3, qual := true, cal := true }
def tAnn : PtpAnn := annOf 6 1 2 tData

/-- PTP port 0 in domain 0 of ROLE 1, with an Announce noted. -/
def tPtp : State := (tUp.wr 0x4094 1).timeMod (fun t => { t with ports := ⟨6, none, some 0, some tAnn⟩ :: List.replicate 3 ⟨0, none, none, none⟩ })

/-- Source 3, the 1PPS input, is valid, ranked first and selected; 12,000 frames have passed. -/
def tPps : State := (((State.reset.wr 0x404C 3).setF timeSrc 3).wr 0x604C 12000).timeMod (fun t => { t with ppsGood := 3, ppsFno := 12000 })

/-- Comparator 63 with what ARM latches of the reset state but a launch time. -/
def tArm (sec : Nat) (act : Nat) : LnchArm := { n := 63, sec := sec, ns := 0, grace := 0, act := act, tgt := 3 }

/-- Comparator 63 armed. -/
def tArmed (sec act : Nat) : State := ({ State.reset with lnch := [tArm sec act] }.setB (lnchStat 63 22) true).seqMod (fun q => { q with started := true })

theorem test_inputs_TimebaseAndSources :
    (State.reset.bit timeRefused = false ∧ (State.reset.setB timeRefused true).bit timeRefused = true ∧ State.reset.bit timeStepPend = false
      ∧ (State.reset.setF timeSrc 3).fld timeSrc ≠ 0
      ∧ ((State.reset.setF timeSrc 3).timeMod (fun t => { t with offs := [none, none, some 5, none] })).time.offs.getD (3 - 1) none = some 5
      ∧ (State.reset.setB timeStepPend true).bit timeStepPend = true)
    ∧ (let u (s : State) := [1, 2, 3, 4].foldl (fun a c => a.srcNote c) ((s.ptpSelect 0).ptpSelect 1)
      (u State.reset).fld timeSrc = 0 ∧ (u tPps).fld timeSrc ≠ 0 ∧ (u tPps).srcOk ((u tPps).fld timeSrc) = true
        ∧ (u tPps).fld timeSrc ∈ (u tPps).ranked
        ∧ (∀ c ∈ (u tPps).ranked.takeWhile (fun x => x != (u tPps).fld timeSrc), ∀ f, (u tPps).srcSince c = some f → (u tPps).ownSince f < 10000))
    ∧ State.reset.ownSince State.reset.time.minStart < 60000 ∧ 60000 ≤ (State.reset.wr 0x604C 60000).ownSince 0
    ∧ (State.reset.setF timeQuality 2).fld timeQuality = 2 ∧ (State.reset.setF timeQuality 1).fld timeQuality = 1
    ∧ State.reset.fld timeQuality ≠ 2 := by
  refine ⟨by decide, ?_, by decide, by decide, by decide, by decide, by decide⟩
  refine ⟨by decide, by decide, by decide, by decide, ?_⟩
  rw [show (([1, 2, 3, 4].foldl (fun a c => a.srcNote c) ((tPps.ptpSelect 0).ptpSelect 1)).ranked.takeWhile
    (fun x => x != ([1, 2, 3, 4].foldl (fun a c => a.srcNote c) ((tPps.ptpSelect 0).ptpSelect 1)).fld timeSrc)) = [] by decide]
  exact fun c h => nomatch h

/-- A source ranked above the selected one has been valid for 12,000 frames. -/
theorem test_inputs_SourceUpgrade :
    let s := (((State.reset.wr 0x404C 0x13).wr 0x4094 1).setF timeSrc 1).wr 0x604C 12000
    let s := s.timeMod (fun t => { t with ppsGood := 3, ppsFno := 12000, since := [none, none, some 0, none] })
    let s := s.timeMod (fun t => { t with ports := ⟨9, some 12000, some 12000, none⟩ :: List.replicate 3 ⟨0, none, none, none⟩ })
    let u := [1, 2, 3, 4].foldl (fun a c => a.srcNote c) ((s.ptpSelect 0).ptpSelect 1)
    u.fld timeSrc = 1 ∧ u.srcOk (u.fld timeSrc) = true ∧ u.fld timeSrc ∈ u.ranked
      ∧ (u.ranked.takeWhile (fun x => x != u.fld timeSrc)).find? (fun x => match u.srcSince x with
          | none => false
          | some f => decide (10000 ≤ u.ownSince f)) = some 3 := by decide

theorem test_inputs_TimeInputsAct :
    (tPtp.ptpHears 0 0 = true ∧ tPtp.ptpHears 0 1 = false ∧ State.reset.lineUp 1 = false ∧ State.reset.ptpRole 3 = 0 ∧ tPtp.time.ports.length = 4
      ∧ tPtp.time.offs.length = 4 ∧ tPtp.txOn 0 = true ∧ tData.qual = true ∧ tData.steps < 255 ∧ (tPtp.ptp (2 * ptpPair 0 + (1 - 0 % 2))).ann = none
      ∧ ((tUp.wr 0x4094 3).ptpHears 1 0 = true ∧ (tUp.wr 0x4094 3).ptpRole 1 = 3)
      ∧ (∃ t : State, let u := ((t.ptpFrames 0 2).timeEval.ptpMod 0 (fun x => { x with lastSync := some t.ownFno })).timeEval
        t.ptpHears 0 0 = true ∧ u.ptpValid 0 = true ∧ u.fld (ptpSel (ptpPair 0)) = 0 % 2)
      ∧ (tPtp.ptp 0).lastAnn = some 0 ∧ tPtp.ptpRole 0 = 1
      ∧ (∃ s : State, s.ptpRole 0 ≠ 0 ∧ (s.ptp 0).lastAnn = some 0
        ∧ intervals16 (s.fld ⟨0x4098 + 8 * ptpPair 0, 24, 8⟩) (s.ptpLog 0 8) ≤ s.ownSince 0 * 16)
      ∧ (State.reset.ptp 0).lastAnn = none ∧ tPtp.ptpMaster 0 = true ∧ State.reset.ptpMaster 3 = false
      ∧ (State.reset.timeMod (fun t => { t with ppsAt := some 0, todFresh := true })).time.ppsAt = some 0
      ∧ ((1000010000 : Int) - 0 - 1000000000).natAbs ≤ 10000 ∧ State.reset.time.ppsAt = none)
    ∧ (State.reset.setB timeEver true).bit timeEver = true ∧ ((State.reset.setB timeEver true).wr 0x4050 7).rd 0x4050 = 7
    ∧ State.reset.bit (bitAt 0x4040 0) = true ∧ (State.reset.wr 0x4040 0).bit (bitAt 0x4040 0) = false := by
  refine ⟨⟨by decide, by decide, by decide, by decide, by decide, by decide, by decide, by decide, by decide, by decide, by decide,
    ⟨tPtp.timeMod (fun t => { t with ports := ⟨9, some 0, some 0, some tAnn⟩ :: List.replicate 3 ⟨0, none, none, none⟩, slaves := [0] }),
      by decide +kernel⟩,
    by decide, by decide, ⟨tPtp.wr 0x604C 100000, by decide⟩, by decide, by decide, by decide, by decide, by decide, by decide⟩, by decide, by decide,
    by decide, by decide⟩

theorem test_inputs_StepsSetTheClock :
    let s := State.reset.timeMod (fun t => { t with stepPend := some 1500000000, initPend := some (-1500000000) })
    s.time.stepAt = none ∧ s.time.stepPend = some 1500000000 ∧ (s.setB timeStepPend true).bit timeStepPend = true
      ∧ s.bit timeStepPend = false ∧ s.time.initPend = some (-1500000000) ∧ s.bit timeEver = false ∧ s.bit (bitAt 0x4040 1) = true
      ∧ (s.setB timeEver true).bit timeEver = true ∧ State.reset.time.stepPend = none ∧ State.reset.mstate ≠ 3 := by decide

theorem test_inputs_LaunchComparatorsArmAndFire :
    (tEnt 0x04 0x40 63 999996 State.reset).takes 0x04 0x40 (fun e => e.has 63 && e.begunAt 1000000)
      ∧ 63 < 64 ∧ State.reset.privComp 63 = false ∧ (∃ s : State, s.privComp 63 = true) ∧ 0 < (State.reset.wr (lnchReg 63 0) 1).ltAhead 1 0 0
      ∧ State.reset.entryIdx 63 0 6 = some 63 ∧ ((State.reset.wr 0x4074 5).ltAhead 0 0 0 < 0)
      ∧ 0 * 1000000 < -((State.reset.wr 0x4074 5).ltAhead 0 0 0) ∧ State.reset.lnchOf 63 = none
      ∧ (tArmed 0 1).lnchOf 63 = some (tArm 0 1) ∧ (tArmed 0 1).ltAhead 0 0 0 < (tArmed 0 1).nextTick - (tArmed 0 1).clockNs
      ∧ (tArm 0 4).act < 5 ∧ (tArm 0 1).tgt < 4 ∧ (tArmed 0 1).srcFld (0x040 + 63) 31 1 = 0
      ∧ (tArmed 1 1).lnchOf 63 = some (tArm 1 1) ∧ (tArmed 1 1).nextTick - (tArmed 1 1).clockNs ≤ (tArmed 1 1).ltAhead 1 0 0 := by
  refine ⟨by unfold State.takes; decide +kernel, by decide, by decide, ⟨{ State.reset with cfg := { State.reset.cfg with privComp := 2 ^ 63 } }, by decide⟩,
    by decide, by decide, by decide, by decide, by decide, by decide, by decide, by decide, by decide, by decide,
    by decide, by decide⟩

/-! ## Analogue inputs -/

/-- The ADC subsystem is enabled, the trigger registers too, for all four converters, timer 0 runs at 10 µs, and PWM output 3 runs. -/
def tAdc : State :=
  ((((State.reset.wr 0x18040 1).wr 0x18068 0x8000000F).wr 0x18058 1).wr 0x18084 0x8000000F).wr 0x1D040 0x80 |>.dioMod
    (fun d => { d with pwm := [(0, 0), (0, 0), (0, 0), (1000, 0)] })

/-- A conversion of channel 31 runs on converter 3, and its window is open. -/
def tConv : State :=
  { State.reset.twr 0x1800 31 0 0x80000000 with adc := { State.reset.adc with conv := [none, none, none, some (31, 0)] } }

theorem test_inputs_AdcTriggersScheduleConversions :
    (tEnt 0x10 0x13 7 0 State.reset).takes 0x10 (0x10 + 3) (fun e => e.has 7 && e.begunAt 0)
      ∧ (tEnt 0x11 0x14 15 0 (State.reset.wr 0x18040 1)).takes 0x11 0x14 (fun e => e.has 15 && e.begunAt 4)
      ∧ (tEnt 0x11 0x14 15 0 (State.reset.wr 0x18040 1)).bit (bitAt 0x18040 0) = true ∧ State.reset.entryIdx 7 0 3 = some 7 ∧ tAdc.bit (bitAt 0x18040 0) = true
      ∧ (15 : Nat) % 16 / 2 ^ 3 % 2 = 1 ∧ State.reset.bit (bitAt 0x18040 0) = false ∧ tAdc.bit (bitAt (0x18068 + 4 * 7) 31) = true
      ∧ (∀ e ∈ tAdc.adc.sched, e.src ≠ 7) ∧ tAdc.fld ⟨0x18068 + 4 * 7, 0, 4⟩ / 2 ^ 3 % 2 = 1 ∧ tAdc.fld ⟨0x18058 + 4 * 0, 0, 17⟩ ≠ 0
      ∧ 999990 % (10 * tAdc.fld ⟨0x18058 + 4 * 0, 0, 17⟩) = 0 ∧ 999990 < 1000000 ∧ tAdc.dio.pwm.getD 3 (0, 0) = (1000, 0)
      ∧ tAdc.bit (pwmEn 3) = true
      ∧ 0 + 10 * (tAdc.fld ⟨0x1D078 + 4 * 3, 0, 14⟩ * 1000 / 10000) ≤ tAdc.elapsed 10000
      ∧ (tAdc.elapsed 10000 - 0 - 10 * (tAdc.fld ⟨0x1D078 + 4 * 3, 0, 14⟩ * 1000 / 10000)) % (10 * 1000) = 0
      ∧ State.reset.bit (bitAt (0x18068 + 4 * 7) 31) = false ∧ State.reset.fld ⟨0x18058 + 4 * 0, 0, 17⟩ = 0
      ∧ State.reset.bit (pwmEn 3) = false :=
  ⟨by unfold State.takes; decide, by unfold State.takes; decide +kernel, by decide +kernel⟩

theorem test_inputs_ConversionsJoinTheirWindow :
    3 < 4 ∧ tConv.adc.settle.length = 4 ∧ tConv.adc.conv.getD 3 none = some (31, 0) ∧ 31 < 32 ∧ 0 + 2000 = tConv.elapsed 2000
      ∧ (∀ e ∈ tConv.adc.sched, tConv.elapsed 2000 ≤ e.at_) ∧ tConv.tfld 0x1800 31 0 31 1 = 1 ∧ tConv.adc.closing.lookup 31 = none
      ∧ (tConv.adcWin 31).start ≤ 0 ∧ clampI (-32768) 32767 32768 ≠ 32768 ∧ clampI (-32768) 32767 32767 = 32767 := by decide

/-! ## Privileged channels and plant buses -/

/-- An ACTIVE module: clocks good, ports C and D on in FD operation and integrated, ports A and B linked, channel 0 of class `c` on all its
paths to destination 1 with a promise of 50 ms, station 1 of both buses in OPERATE, node 1 admitted. -/
def tAct (c : Nat) : State :=
  let s := { State.reset with can := List.replicate 2 { CanSt.init with integ := false } }
  let s := { s with snet := { s.snet with lines := [true, true, true, true, true] } }
  let s := (((s.setF ⟨0x54, 28, 4⟩ 4).setF ⟨0x54, 24, 4⟩ 12).wr 0x3040 4095).wr 0x12040 3
  let s := ((s.setF (cfld 0 0x40 0 1) 1).setF (cfld 1 0x40 0 1) 1).setF (cfld 0 0x40 6 1) 1 |>.setF (cfld 1 0x40 6 1) 1
  let s := ((s.twr 0x2600 0 0 (BitVec.ofNat 32 (2 ^ 31 + c * 2 ^ 29 + 0x1FC00000))).twr 0x2600 0 1 50000).twr 0x2600 0 2 1
  let s := ((s.twr 0x1401 1 0 0x80000000).twr 0x1401 1 2 0x20000000).twr 0x1501 1 0 0x80000000 |>.twr 0x1501 1 2 0x20000000
  ((((s.twr 0x1200 1 0 0x80000000).tset 0x1201 1 0 0 3 2).tset 0x1201 1 0 20 2 1).wr 0x1208C 5).wr 0x26040 3

/-- A request of channel 0, of class `c`, not released. -/
def tReq (c : Nat) (rel : Option Nat) : PrivReq :=
  { ch := 0, cls := c, src := 0, seq := 7, ta := 0, bound := 46000000, timed := false, sec := 0, ns := 0, args := [0, 0, 0, 0x80], comp := 0,
    slot := 0, port := 0, released := rel, taken := false, log := 0 }

/-- The request is outstanding. -/
def tPriv (c : Nat) (rel : Option Nat) : State := { tAct c with priv := { State.reset.priv with reqs := [tReq c rel] } }

/-- A CAN frame on port C with identifier `id`. -/
def tFrame (id : Nat) (data : List Byte) : CanFrame := { port := 0, ide := false, fdf := true, brs := true, esi := false, remote := false, id := id, data := data, sofSec := 0, sofNs := 0 }

/-- A message of node 1 on port A that passes R208 to R211, of type `typ`. -/
def tGsp (typ : Nat) (payload : List Byte) : Gsp :=
  { port := 0, second := false, wrongLan := false, dport := 7514, version := 1, typ := typ, flags := 0x8000, node := 1, seq := 5, epoch := 1,
    length := payload.length, group := 0, gen := 0, nk := false, launchSec := 0, launchNs := 0, tagOk := true, nonce := gspNonce 0 5 1 1 1, rxSec := 0, rxNs := 0,
    payload := payload }

/-- An acknowledgement of the request. -/
def tAck : List Byte := [0xE1, 6, 0, 0, 0, 0, 7, 0]

theorem test_gsp_passes (typ : Nat) (h : typ ∈ [1, 2, 4, 6, 9]) (c : Nat) (hc : c = 2 ∨ c = 3) :
    (tAct c).gspPasses (tGsp typ tAck) [(0xE1, [0, 0, 0, 0, 7, 0])] := by
  unfold State.gspPasses State.gspHears
  simp only [List.mem_cons, List.not_mem_nil, or_false] at h
  rcases h with rfl | rfl | rfl | rfl | rfl <;> rcases hc with rfl | rfl <;> exact ⟨by decide, by decide, by decide, by decide, by decide,
    by decide, by decide, by decide, by decide, by decide, by decide, by decide, ⟨5, true, by decide⟩, ⟨_, rfl, by decide⟩⟩

theorem test_can_takes (id : Nat) (data : List Byte) (h1 : id ≠ 0) (h2 : ¬ (tAct 3).isRefId (tFrame id data)) :
    (tAct 3).canTakes (tFrame id data) :=
  ⟨by show 0 < 2; decide, by show (tAct 3).canHears 0 (0, 0) = true; decide +kernel, fun _ => by show (tAct 3).bit (cfld 0 0x40 6 1) = true; decide +kernel, rfl,
    fun _ => h1, h2⟩

theorem test_inputs_PrivilegedRequestsAreDeliveredAndEnd :
    ((tPriv 2 none).privReqOf 0 7 = some (tReq 2 none) ∧ (tPriv 3 none).privReqOf 0 7 = some (tReq 3 none)
      ∧ (tPriv 2 (some 0)).privReqOf 0 7 = some (tReq 2 (some 0)) ∧ (tPriv 3 (some 0)).privReqOf 0 7 = some (tReq 3 (some 0)))
    ∧ (2 ≤ (tReq 2 none).cls ∧ (tReq 2 none).slot ≤ (tPriv 2 none).elapsed 0
      ∧ ((tPriv 2 none).elapsed 46000000 : Int) ≤ (tPriv 2 none).privBound (tReq 2 none) ∧ (tPriv 2 none).pathsOk 0 false ≠ []
      ∧ (tPriv 2 none).portsSend = true ∧ (tPriv 3 none).pathsOk 0 false ≠ []
      ∧ (tPriv 3 none).priv.reqs.find? (fun x => x.cls == 3 && x.port == (tReq 3 none).port) = some (tReq 3 none)
      ∧ (tReq 3 none).port < 2 ∧ (tPriv 3 none).sends = true ∧ (tPriv 3 none).canSends 0 = true)
    ∧ (0 + (((tPriv 2 (some 0)).wr 0x26060 46000).rd 0x26060).toNat * 1000 ≤ ((tPriv 2 (some 0)).wr 0x26060 46000).elapsed 46000000
      ∧ ((tPriv 2 (some 0)).wr 0x26060 46000).privSlot 46000000 = 46000000)
    ∧ ((tReq 2 none).ta + ((tPriv 2 none).wr 0x604C 50).chPromise 0 * 1000 ≤ ((tPriv 2 none).wr 0x604C 50).elapsed 0
      ∧ ((tPriv 2 none).wr 0x604C 49).elapsed 999999 < (tReq 2 none).ta + ((tPriv 2 none).wr 0x604C 49).chPromise 0 * 1000)
    ∧ (0x040 ≤ 0x41 ∧ 0x41 ≤ 0x05F ∧ (tPriv 3 (some 0)).chPath 0 (2 + 0) = true ∧ beAt [0, 0, 0, 0, 7, 4] 0 1 = 0 ∧ beAt [0, 0, 0, 0, 7, 4] 1 4 = 7
      ∧ (tPriv 3 (some 0)).chDest 0 = 0x41 - 0x040 ∧ (tReq 3 (some 0)).released.isSome = true ∧ (∃ o, ackOutcome (beAt [0, 0, 0, 0, 7, 4] 5 1) = some o)
      ∧ (∃ o, ackOutcome 3 = some o) ∧ tlvGet [(0xE1, [0, 0, 0, 0, 7, 0])] 0xE1 = some [0, 0, 0, 0, 7, 0] ∧ (tAct 2).gspBudget 1) := by
  refine ⟨by decide, ?_, by decide, by decide, by decide, by decide, by decide, by decide, by decide, by decide, by decide,
    ⟨oDELIVERED, by decide⟩, ⟨oNAK, by decide⟩, by decide, by unfold State.gspBudget; decide⟩
  refine ⟨by decide, by decide, by decide, by decide +kernel, by decide, by decide +kernel, by decide, by decide, by decide, by decide +kernel⟩

theorem test_inputs_ABreachAndRequests :
    (((tPriv 3 none).wr 0x604C 47).breached 1 0 7 0 = true ∧ (tPriv 3 none).mstate ≠ 6 ∧ (tPriv 3 none).breached 1 0 7 0 = false
      ∧ ((tPriv 3 none).wr 0x604C 46).privReqOf 0 7 = some (tReq 3 none) ∧ ((tPriv 3 none).privBound (tReq 3 none) < ((tPriv 3 none).wr 0x604C 46).elapsed 1)
      ∧ State.reset.privReqOf 0 7 = none)
    ∧ State.reset.mstate ≠ 4 ∧ (tAct 3).mstate = 4 ∧ ((tAct 3).wr 0x26040 1).bit (bitAt 0x26040 1) = false
    ∧ (tAct 3).privVerdict 0 [0, 0, 0, 0xB000000, 0, 0, 0, 0] 0 ≠ 0 ∧ (tAct 3).privVerdict 0 [0, 0, 0, 0x1000000, 0, 0, 0, 0] 0 = 0
    ∧ (tAct 3).chClass 0 ≠ 1 := by
  refine ⟨⟨by decide +kernel, by decide, by decide +kernel, by decide, by decide, by decide⟩, by decide, by decide, by decide, by decide +kernel,
    by decide +kernel, by decide⟩

/-- Port C of an ACTIVE module with object `o` as table words 0 and 7 say, and what the port holds besides. -/
def tObj (o : Nat) (w0 w7 : Word) (f : CanSt → CanSt) : State := (((tAct 3).twr 0x1400 o 0 w0).twr 0x1400 o 7 w7).canMod 0 f

theorem test_obj_sized (o : Nat) (w0 w7 : Word) (f : CanSt → CanSt) : (tObj o w0 w7 f).Sized := by
  refine test_sized _ ?_ ?_ ?_ ?_ ?_ ?_ ?_ ?_ ?_ ?_ ?_ <;> first | rfl | exact ⟨rfl, rfl⟩

/-- A CAN_TX entry of object 63 of port C, or with `idx` the position that slot map 0 names, is next. -/
def tCanTx (arg : Nat) (s : State) : State := tEnt 0x49 0x0A arg 0 s

/-- Port C has object 63 pending since second 0. -/
def tPend : State := tObj 63 0xC0080000 0 (fun c => { c with pend := [(63, [1], 0, 0)] })

theorem test_inputs_BusFrames :
    ((tCanTx 126 (tObj 63 0xC0080000 0 id)).takes 0x49 0x0A (·.has 126) ∧ (tObj 63 0xC0080000 0 id).entryIdx 126 1 6 = some 63 ∧ (126 : Nat) % 2 = 0
      ∧ (tObj 63 0xC0080000 0 id).objDef 0 63 = true ∧ (tObj 63 0xC0080000 0 id).objTx 0 63 = true
      ∧ (tObj 63 0xC0080000 0 id).objFld 0 63 7 30 1 = 0 ∧ (tObj 63 0xC0080000 0 id).canRole 0 ≠ 4 ∧ (tObj 63 0xC0080000 0 id).objFld 0 63 0 22 2 = 0
      ∧ (tObj 63 0xC0080000 0x40000000 id).objFld 0 63 7 30 1 = 1 ∧ (tObj 63 0 0 id).objDef 0 63 = false)
    ∧ ((tEnt 0x48 0x0A 0 0 (tAct 3)).takes 0x48 0x0A (·.has 0) ∧ ((tAct 3).setF (cfld 0 0x40 4 1) 1).bit (cfld 0 0x40 4 1) = true
      ∧ ((tAct 3).setF (cfld 0 0x40 4 1) 0).bit (cfld 0 0x40 4 1) = false ∧ (tAct 3).canRole 0 = 2 ∧ ((tAct 3).canP 0).sleep = false
      ∧ ((tObj 0 0 0 (fun c => { c with sleep := true })).canP 0).sleep = true
      ∧ ((tObj 0 0 0 (fun c => { c with ref := some ([], (0, 0), 0, 0) })).canP 0).ref ≠ none ∧ ((tAct 3).canP 0).ref = none)
    ∧ (State.reset.canSendsAt 0 (0, 0) = false ∧ tPend.canNext 0 64 (0, 0) = false ∧ tPend.canSendsAt 0 (0, 0) = true ∧ tPend.canNext 0 63 (0, 0) = true
      ∧ tPend.canLoop 0 = false ∧ (tPend.canP 0).pend.lookup 63 = some ([1], 0, 0) ∧ (∃ s : State, s.canLoop 0 = true ∧ s.canNext 0 63 (0, 0) = true)
      ∧ (let s := tObj 0 0 0 (fun c => { c with ref := some ([], (0, 0), 0, 0) })
        (s.canP 0).ref = some ([], (0, 0), 0, 0) ∧ s.canSendsAt 0 (0, 0) = true ∧ s.canNext 0 64 (0, 0) = true ∧ s.canLoop 0 = false)
      ∧ (let s := tObj 0 0 0 (fun c => { c with priv := [⟨0, 7, 1, [0], 0⟩] })
        (s.canP 0).priv = [⟨0, 7, 1, [0], 0⟩] ∧ s.canSendsAt 0 (0, 0) = true ∧ s.canNext 0 65 (0, 0) = true ∧ s.canLoop 0 = false))
    ∧ ((tObj 63 0x90080000 0 id).canTakes (tFrame 0x123 [0, 0, 0, 0, 0, 0, 0, 0]) ∧ (tAct 3).canTakes (tFrame 0x123 []))
    ∧ ((tObj 63 0x90080000 0 id).canReserved 0 false 0x123 = false
      ∧ (tObj 63 0x90080000 0 id).canMatch 0 (tFrame 0x123 [0, 0, 0, 0, 0, 0, 0, 0]) = some 63 ∧ (tObj 63 0x90080000 0 id).objLen 0 63 = 8
      ∧ (tAct 3).canMatch 0 (tFrame 0x123 []) = none ∧ (tAct 3).canHears 0 (0, 0) = true ∧ State.reset.canHears 0 (0, 0) = false
      ∧ (tAct 3).bit (cfld 0 0x40 6 1) = true ∧ ((tAct 3).setF (cfld 0 0x40 6 1) 0).bit (cfld 0 0x40 6 1) = false
      ∧ (let s := (tObj 63 0x90480000 0 id).twr 0x1401 31 0 0xBF000000
        s.objFld 0 63 0 22 2 ≠ 0 ∧ s.stnOfIn 0 63 = some 31)) := by
  refine ⟨⟨?_, by decide +kernel⟩, ⟨?_, by decide +kernel⟩, ⟨by decide +kernel, by decide +kernel, by decide +kernel, by decide +kernel, by decide +kernel,
    by decide +kernel, ⟨((tPend.setF (cfld 0 0x40 1 1) 1).setF (cfld 0 0x40 2 1) 1), by decide +kernel⟩, by decide +kernel, by decide +kernel⟩, ⟨?_, ?_⟩,
    by decide +kernel⟩
  · unfold State.takes
    decide +kernel
  · unfold State.takes
    decide +kernel
  · exact ⟨by decide, by decide +kernel, fun _ => by decide +kernel, rfl, fun _ => by decide, by unfold State.isRefId; decide +kernel⟩
  · exact ⟨by decide, by decide +kernel, fun _ => by decide +kernel, rfl, fun _ => by decide, by unfold State.isRefId; decide +kernel⟩

/-- An error on port C in the data of a frame of its own, and one in a frame of another node's. -/
def tErr : CanErr := { port := 0, kind := 6, own := some 63, inData := true, id := 0x123, dom := 0 }
def tErrRx : CanErr := { port := 0, kind := 1, own := none, inData := true, id := 0x123, dom := 2 }

theorem test_inputs_BusErrors :
    ((tObj 63 0xC0080000 0 id).Sized ∧ tErr.port < 2 ∧ (tObj 63 0xC0080000 0 id).canHears tErr.port ((tObj 63 0xC0080000 0 id).instant 0) = true
      ∧ 1 ≤ tErr.kind ∧ tErr.kind ≤ 6 ∧ (tObj 63 0xC0080000 0 id).canMode tErr.port = 2 ∧ tErrRx.own = none ∧ tErr.own ≠ none ∧ tErr.inData = true
      ∧ State.reset.canHears tErr.port (State.reset.instant 0) = false ∧ (∃ s : State, s.canHears 0 (s.instant 0) = true ∧ s.canMode 0 ≠ 2))
    ∧ (State.reset.fld (canConf 1) = 0 ∧ 128 ≤ (State.reset.setF (cfld 1 0x60 16 9) 128).fld (cfld 1 0x60 16 9)
      ∧ (State.reset.setF (cfld 1 0x60 0 8) 128).fld (cfld 1 0x60 0 8) = 128 ∧ (State.reset.setF (canConf 1) 1).fld (canConf 1) ≠ 0
      ∧ State.reset.busOff 1 = false ∧ 255 < (State.reset.setF (cfld 1 0x60 16 9) 256).fld (cfld 1 0x60 16 9)
      ∧ (State.reset.setF (canConf 1) 2).busOff 1 = true ∧ State.reset.fld (cfld 1 0x60 16 9) ≤ 255
      ∧ (let s := (State.reset.setF (canConf 1) 2).wr 0x604C 1000
        s.busOff 1 = true ∧ 1408 * s.bitClocks 1 * 25 ≤ (s.ownSince (s.canP 1).boffAt + 1) * 2000000)
      ∧ ¬ 1408 * State.reset.bitClocks 1 * 25 ≤ (State.reset.ownSince (State.reset.canP 1).boffAt + 1) * 2000000)
    ∧ ((tObj 63 0xC0080000 3 id).objFld 0 63 7 0 2 = 3 ∧ (tObj 63 0xC0080000 3 id).objFld 0 63 7 30 1 = 0
      ∧ (tObj 63 0xC0080000 2 id).objFld 0 63 7 0 2 < 3
      ∧ 3 ≤ ((tObj 0 0 0 (fun c => { c with refRun := 3 })).canP 0).refRun ∧ ((tObj 0 0 0 id).canP 0).refRun < 3 ∧ ((tObj 0 0 0 id).canP 0).privRun < 3
      ∧ 3 ≤ ((tObj 0 0 0 (fun c => { c with privRun := 3 })).canP 0).privRun
      ∧ ((tObj 0 0 0 (fun c => { c with suspect := [(5, 3, false)] })).canP 0).suspect.lookup 5 = some (3, false)
      ∧ ((tObj 0 0 0 (fun c => { c with suspect := [(5, 3, true)] })).canP 0).suspect.lookup 5 = some (3, true)) := by
  refine ⟨⟨test_obj_sized _ _ _ _, by decide, by decide +kernel, by decide, by decide, by decide +kernel, by decide, by decide, by decide, by decide +kernel,
    ⟨(tAct 3).setF ⟨0x54, 28, 4⟩ 3, by decide +kernel⟩⟩, by decide +kernel, by decide +kernel⟩

theorem test_inputs_PortsSleepAndStationsCycle :
    ((tObj 0 0 0 (fun c => { c with sleep := true })).Sized ∧ ((tObj 0 0 0 (fun c => { c with sleep := true })).canP 0).sleep = true
      ∧ ((tAct 3).canP 0).sleep = false ∧ (tAct 3).canRole 0 ≠ 0 ∧ (tAct 3).canRole 0 ≠ 3 ∧ (tAct 3).fld (cfld 0 0x40 8 4) * 500 < 7501
      ∧ (∃ (s : State), s.canRole 0 = 3 ∧ s.wakeFrame 0 (tFrame 0 []) = true ∧ (s.canP 0).sleep = true) ∧ State.reset.canRole 0 = 0
      ∧ (∃ (s : State) (f : CanFrame), s.canRole 0 = 3 ∧ s.wakeFrame 0 f = false)
      ∧ (∃ s : State, s.canMode 0 = 1) ∧ (tAct 3).canMode 0 ≠ 1)
    ∧ (let st (k : Word) := (tAct 3).twr 0x1401 31 2 k
      ((st 0x20000000).canMod 0 (fun c => { c with stn := [(31, { StnSt.init with good := true })] })).stn 0 31 = { StnSt.init with good := true }
        ∧ ((tAct 3).stn 0 31).good = false ∧ ((tAct 3).canP 0).gap = false
        ∧ (let s := (st 0x40050000).twr 0x1401 31 0 0x80000005
          s.stnDef 0 31 = true ∧ s.stnState 0 31 = 2 ∧ s.stnFld 0 31 0 0 8 ≤ s.stnFld 0 31 2 16 8)
        ∧ ((st 0x40040000).twr 0x1401 31 0 0x80000005).stnFld 0 31 2 16 8 < ((st 0x40040000).twr 0x1401 31 0 0x80000005).stnFld 0 31 0 0 8
        ∧ (State.reset.wr 0x14048 31).fld (cfld 0 0x48 0 5) = 31) := by
  refine ⟨⟨test_obj_sized _ _ _ _, by decide +kernel, by decide +kernel, by decide +kernel, by decide +kernel, by decide +kernel,
    ⟨(tObj 0 0 0 (fun c => { c with sleep := true })).setF (cfld 0 0x40 1 1) 1, by decide +kernel⟩, by decide +kernel,
    ⟨(tAct 3).setF (cfld 0 0x40 1 1) 1, { tFrame 0 [] with ide := true }, by decide +kernel⟩,
    ⟨tObj 0 0 0 (fun c => { c with integ := true }), by decide +kernel⟩, by decide +kernel⟩, by decide +kernel⟩

/-! ## Substation network -/

/-- Node 1 of an ACTIVE module in state `st`, with MISS `miss`, and what the controller keeps of it. -/
def tNode (st miss : Nat) (f : NodeSt → NodeSt) : State :=
  (((tAct 2).tset 0x1201 1 0 0 3 st).tset 0x1201 1 0 8 8 miss).nodeMod 1 f

/-- A timed queue entry of node 1 at record 16383, acknowledged or not, of launch time `sec`. -/
def tQueue (acked : Bool) (sec : Word) : State :=
  ((tAct 2).twr 0x1202 16383 0 (if acked then 0xA0800001 else 0x80800001)).twr 0x1202 16383 1 sec

/-- A rekey of group 255 to generation 1, switched or not. -/
def tRekey (sw : Bool) : State :=
  (tAct 2).snetMod (fun q => { q with rekeys := [{ group := 0, gen := 1, sec := 0, ns := 0, switched := sw, left := [1], done := false }], old := [(0, 0)] })

theorem test_inputs_MessagesAreCheckedInOrder :
    State.reset.lineUp 0 = false ∧ (2 : Nat) ≤ 2 ∧ (tGsp 2 tAck).port < 2 ∧ (tAct 2).lineUp 0 = true ∧ (tAct 2).bit (bitAt 0x12040 0) = true
      ∧ (tAct 2).gspOpen = true ∧ ¬ ({ tGsp 2 tAck with length := 9 }.length = tAck.length)
      ∧ (tGsp 2 tAck).dport = (tAct 2).fld ⟨0x12050, 0, 16⟩ ∧ (tGsp 2 tAck).version = 1
      ∧ (tGsp 2 tAck).flags / 2 ^ 15 % 2 = 1 ∧ (tGsp 2 tAck).flags / 2 ^ 3 % 2 ^ 12 = 0 ∧ (tGsp 2 tAck).length ≤ 1400
      ∧ (tGsp 2 tAck).length = (tGsp 2 tAck).payload.length
      ∧ ((tAct 2).wr 0x1208C 6).keyOk (tGsp 2 tAck) = false ∧ (tAct 2).keyOk (tGsp 2 tAck) = true ∧ (tAct 2).tagOf (tGsp 2 tAck) = true
      ∧ (tAct 2).tagOf { tGsp 2 tAck with nonce := gspNonce 1 5 1 1 1 } = false
      ∧ (tAct 2).nodeDef 2047 = false ∧ (tAct 2).nodeDef 1 = true ∧ (tAct 2).nodeGroup 1 = 0
      ∧ epochCheck ((tNode 2 0 (fun d => { d with epoch := some 1, x := 5, seen := [5] })).node 1) 1 5 = .replay := by
  decide +kernel

theorem test_inputs_MessagesActOnTheirNode :
    (∀ typ ∈ [1, 2, 4, 6, 9], (tAct 2).gspPasses (tGsp typ tAck) [(0xE1, [0, 0, 0, 0, 7, 0])]) ∧ (tAct 2).gspBudget 1
      ∧ ((tNode 2 0 (fun d => { d with cmdAt := some 5 })).node 1).cmdAt ≠ none ∧ ((tNode 2 0 id).node 1).cmdAt = none
      ∧ ((tNode 2 0 id).node 1).helloWin = false ∧ (tNode 3 0 id).nodeState 1 = 3 ∧ (tNode 4 0 id).nodeState 1 = 4
      ∧ ((tNode 3 0 (fun d => { d with epoch := some 1 })).node 1).epoch = some 1 ∧ ((tNode 3 0 id).node 1).epoch ≠ some 1 ∧ (tNode 1 0 id).nodeState 1 = 1 ∧ (tNode 2 0 id).nodeState 1 = 2
      ∧ (tNode 0 0 id).nodeState 1 = 0 ∧ ((tNode 1 0 (fun d => { d with needState := true })).node 1).needState = true
      ∧ regsBack (typeKinds ((tNode 1 0 id).nodeType 1)) [(0, 7)] [(0, 6)] = true ∧ regsBack (typeKinds ((tNode 1 0 id).nodeType 1)) [(0, 7)] [(0, 7)] = false
      ∧ (tRekey false).rekeyOf 0 = some { group := 0, gen := 1, sec := 0, ns := 0, switched := false, left := [1], done := false }
      ∧ tlvGet [(0xC4, [7, 0, 1, 0])] 0xC4 = some [7, 0, 1, 0] ∧ beAt [7, 0, 1, 0] 0 1 = 7 ∧ beAt [7, 0, 1, 0] 3 1 = 0
      ∧ ({ tGsp 4 tAck with nk := true }.nk = true) := by
  refine ⟨fun typ h => test_gsp_passes typ h 2 (.inl rfl), by unfold State.gspBudget; decide +kernel, ?_⟩
  decide +kernel

/-- The next entry is a GSP_TX, or a GSP_RXCLOSE, of node 1 at 4 µs. -/
def tTx (s : State) : State := tEnt 0x40 0x0A 1 4000 s
def tRx (s : State) : State := tEnt 0x41 0x0A 1 4000 s

/-- A report of sequence 5, received at `ns` of second 0. -/
def tRep (ns : Nat) : Report := ⟨5, 0, 0, 0, ns, true, []⟩

theorem test_inputs_SlotsSendAndCloseReports :
    ((tTx (tNode 2 0 id)).takes 0x40 0x0A (fun e => e.has 1 && e.begunAt 5100) ∧ (tRx (tNode 2 0 id)).takes 0x41 0x0A (fun e => e.has 1 && e.begunAt 4000))
    ∧ (tNode 2 0 id).entryIdx 1 0 11 = some 1 ∧ (tNode 2 0 id).nodeDef 1 = true
      ∧ (((tNode 2 0 id).node 1).txCyc ≠ some (tNode 2 0 id).snet.cyc ∧ (tNode 2 0 id).bit (bitAt 0x12040 1) = true ∧ (tNode 2 0 id).gspOpen = true
        ∧ (tNode 2 0 id).portsSend = true ∧ (tNode 2 0 id).groupOk ((tNode 2 0 id).nodeGroup 1) = true ∧ (tNode 2 0 id).nodeState 1 = 2
        ∧ ((tNode 2 0 id).node 1).hello = none ∧ (tNode 2 0 id).rekeyOf ((tNode 2 0 id).nodeGroup 1) = none
        ∧ (∀ e ∈ (tNode 2 0 id).qOfNode 1, e.immed = true ∨ e.acked = true ∨ 0 ≤ (tNode 2 0 id).ltAhead e.sec e.ns 5100)
        ∧ ((tNode 2 0 id).node 1).slotDue = false)
      ∧ ((tNode 2 0 (fun d => { d with slotDue := true, repAt := some 7, hello := some ⟨false, none⟩ })).node 1).slotDue = true
      ∧ ((tNode 2 0 (fun d => { d with slotDue := true, repAt := some 7, hello := some ⟨false, none⟩ })).node 1).repAt = some 7
      ∧ ((tNode 2 0 (fun d => { d with slotDue := true, repAt := some 7, hello := some ⟨false, none⟩ })).node 1).hello = some ⟨false, none⟩
      ∧ ((tNode 2 0 (fun d => { d with txCyc := some 0 })).node 1).txCyc = some (tNode 2 0 id).snet.cyc
      ∧ ((tNode 2 0 id).wr 0x12040 1).bit (bitAt 0x12040 1) = false ∧ ((tNode 2 0 (fun d => { d with rxCyc := some 0 })).node 1).rxCyc = some (tNode 2 0 id).snet.cyc
      ∧ ((tNode 2 0 id).node 1).rxCyc ≠ some (tNode 2 0 id).snet.cyc ∧ ((tNode 2 0 id).node 1).helloWin = false
      ∧ (let s := tNode 3 0 (fun d => { d with reps := [tRep 4000, tRep 4001] })
        ((s.node 1).reps.filter (fun r => !decide (0 < ltDiff (s.instant 4000) (r.rxSec, r.rxNs)) && true)) = [tRep 4000]
          ∧ bestReport ([tRep 4000].filter (·.known)) = some (tRep 4000) ∧ s.nodeState 1 = 3)
      ∧ ((tNode 1 0 (fun d => { d with stateOk := true, run := 1 })).node 1).stateOk = true ∧ 1 ≤ ((tNode 1 0 (fun d => { d with stateOk := true, run := 1 })).node 1).run
      ∧ regsBack (typeKinds ((tNode 1 0 id).nodeType 1)) ((tNode 1 0 id).node 1).lastRegs (energyRegs []) = false
      ∧ ((tNode 1 0 id).node 1).stateOk = false ∧ ((tNode 2 0 id).node 1).graceCyc ≠ some (tNode 2 0 id).snet.cyc ∧ (tNode 0 0 id).nodeState 1 = 0
      ∧ ((tNode 2 0 (fun d => { d with graceCyc := some 0 })).node 1).graceCyc = some (tNode 2 0 id).snet.cyc := by
  refine ⟨⟨by unfold State.takes; decide +kernel, by unfold State.takes; decide +kernel⟩, by decide +kernel, by decide +kernel, by decide +kernel, ?_⟩
  decide +kernel

theorem test_inputs_NodesAndLines :
    ((tNode 2 3 id).nodeDef 1 = true ∧ (tNode 2 3 id).nodeDef 2047 = false ∧ (tNode 2 3 id).nodeState 1 = 2
      ∧ ((tNode 1 3 id).setB (grpRev 0) true).nodeState 1 = 1 ∧ ((tNode 1 3 id).setB (grpRev 0) true).bit (grpRev ((tNode 1 3 id).nodeGroup 1)) = true
      ∧ (tNode 0 3 id).nodeState 1 = 0 ∧ 3 ≤ (tNode 2 3 id).nodeMiss 1 ∧ (tNode 2 2 id).nodeMiss 1 < 3
      ∧ (tNode 3 50 id).nodeState 1 = 3 ∧ 50 ≤ (tNode 3 50 id).nodeMiss 1 ∧ (tNode 3 49 id).nodeMiss 1 < 50
      ∧ 16383 ∈ (tQueue true 0).qUsed ∧ ((tQueue true 0).qAt 16383).acked = true ∧ ((tQueue true 0).qAt 16383).immed = false
      ∧ (tQueue true 0).ltAhead ((tQueue true 0).qAt 16383).sec ((tQueue true 0).qAt 16383).ns 0 ≤ 0
      ∧ 0 < (tQueue true 1).ltAhead ((tQueue true 1).qAt 16383).sec ((tQueue true 1).qAt 16383).ns 0 ∧ ((tQueue false 0).qAt 16383).acked = false
      ∧ 0 ∉ (tQueue true 0).qUsed ∧ ((tAct 2).wr 0x12048 1).fld ⟨0x12048, 0, 11⟩ = 1 ∧ ((tAct 2).tset 0x1201 1 0 18 1 1).tfld 0x1201 1 0 18 1 = 1
      ∧ (tAct 2).tfld 0x1201 1 0 18 1 = 0)
    ∧ ((tAct 2).Sized ∧ (tAct 2).lineUp 4 = true ∧ State.reset.lineUp 4 = false ∧ (State.reset.wr 0x11040 1).bit (bitAt (0x10040 + 0x1000 * 1) 0) = true
      ∧ (tAct 2).portClk 4 = true ∧ (tAct 2).shed = false ∧ State.reset.portClk 4 = false
      ∧ ((tAct 2).snetMod (fun q => { q with line := [(1, 5)] })).snet.line = [(1, 5)] ∧ (tAct 2).portsSend = true ∧ (tAct 2).snet.supAt = none
      ∧ ((tAct 2).snetMod (fun q => { q with supAt := some 0 })).snet.supAt = some 0 ∧ 2000 ≤ ((tAct 2).wr 0x604C 2000).since 0
      ∧ ((tAct 2).wr 0x604C 1999).since 0 < 2000) := by
  refine ⟨by decide +kernel, ?_, by decide +kernel⟩
  refine test_sized _ ?_ ?_ ?_ ?_ ?_ ?_ ?_ ?_ ?_ ?_ ?_ <;> first | rfl | exact ⟨rfl, rfl⟩

theorem test_inputs_GroupKeysChange :
    255 < 256 ∧ (tAct 2).masterPromotes = false ∧ ((tRekey false).setB (grpRev 0) true).bit (grpRev 0) = true ∧ (tRekey false).bit (grpRev 0) = false
      ∧ (∃ s : State, s.masterPromotes = true) ∧ ((tAct 2).wr 0x1204C 1).bit (bitAt 0x1204C 0) = true ∧ (tAct 2).bit (bitAt 0x1204C 0) = false
      ∧ ((tAct 2).wr 0x12048 0xFF0000).fld ⟨0x12048, 16, 8⟩ = 255
      ∧ (tRekey false).rekeyOf 0 = some { group := 0, gen := 1, sec := 0, ns := 0, switched := false, left := [1], done := false }
      ∧ (tRekey false).ltAhead 0 0 0 ≤ 0 ∧ ((tRekey true).rekeyOf 0).map (·.switched) = some true ∧ (tRekey false).rekeyOf 255 = none
      ∧ (tRekey true).snet.old.lookup 0 = some 0 ∧ 200 ≤ ((tRekey true).wr 0x604C 200).since 0 ∧ ((tRekey true).wr 0x604C 199).since 0 < 200 := by
  refine ⟨by decide, by decide +kernel, by decide +kernel, by decide +kernel, ⟨State.reset.wr 0x904C 0x20000000, by decide +kernel⟩, ?_⟩
  decide +kernel

/-! ## Metering, supply, clocks and loops -/

/-- Points 0 to 3 enabled; point 0 with samples of its inputs latched or not, and the close `due` of a window that waits. -/
def tMet (latch : Bool) (due : Option MetDue) : State :=
  (State.reset.wr 0x1A040 15).metPtMod 0 (fun m => { m with latch := if latch then some ([[0, 0, 0, 0, 0, 0, 0]], 0) else none, due := due })

/-- Point 0 with an open interval that ends at the instant now. -/
def tInt : State :=
  (tMet false none).metMod (fun q => { q with
    ints := [(0, { start := -60, stop := (tMet false none).tai, base := [0, 0, 0, 0, 0, 0], gap := 0, reversals := 0, stepped := false, pf := false, no := 95 })] })

/-- Thermal point 15 enabled and defined. -/
def tHmet : State := (State.reset.wr 0x1B040 0x8000).twr 0x1B00 15 0 0x80000000

/-- A save of the meter registers. -/
def tSave : MetSave := { seq := 1, words := [], res := [] }

/-- Thermal point 15 with usable temperatures, a fixed pressure and its pulse input on. -/
def tHeat : State :=
  let s := { tHmet with mbx := [{ tMbx false with front := [⟨0x41200000, 0⟩] }] }
  (((s.wr 0x1C040 1).twr 0x1B00 15 2 0x00300000).twr 0x1B00 15 3 0x00300000).twr 0x1B00 15 4 0xFFFFFFFF

theorem test_inputs_MetersTakeTheirFrames :
    (State.reset.Sized ∧ (tMet false none).Sized)
      ∧ ((tEnt 0x12 0x20 15 0 State.reset).takes 0x12 0x20 (·.has 15) ∧ (tEnt 0x18 0x07 3 0 (tMet false none)).takes 0x18 0x07 (·.has 3)
        ∧ (tEnt 0x19 0x07 15 500 tHmet).takes 0x19 0x07 (fun e => e.has 15 && e.begunAt 1600))
      ∧ ((3, ([[0, 0, 0, 0, 0, 0, 0]] : List (List Int))) ∈ ((List.range 4).filter (fun p => 8 / 2 ^ p % 2 == 1)).zip [[[0, 0, 0, 0, 0, 0, 0]]]
        ∧ State.reset.modBad 0 0 = 127 ∧ ((State.reset.wr 0x19040 31).wr 0x19044 0).modBad 0 1 = 1 ∧ ((State.reset.wr 0x19040 31).wr 0x19044 0).modBad 0 64 % 64 = 0
        ∧ State.reset.met.dropped = false)
      ∧ (tMet false none).entryIdx 3 0 2 = some 3
      ∧ State.reset.bit (bitAt 0x1A040 0) = false ∧ (tMet false none).bit (bitAt 0x1A040 3) = true
      ∧ ((tMet true none).metPt 0).latch = some ([[0, 0, 0, 0, 0, 0, 0]], 0)
      ∧ ((tMet true (some ⟨true, false, 64, 5, 6, 7⟩)).metPt 0).due = some ⟨true, false, 64, 5, 6, 7⟩ ∧ ((tMet false none).metPt 0).latch = none
      ∧ (∃ i, tInt.met.ints.lookup 0 = some i ∧ i.stop ≤ tInt.tai) ∧ (tMet false none).met.ints.lookup 0 = none ∧ 0 ∉ tInt.met.pfNext
      ∧ tHmet.entryIdx 15 0 4 = some 15
      ∧ tHmet.bit (bitAt 0x1B040 14) = false ∧ State.reset.hFld 15 0 31 1 = 0 ∧ tHmet.bit (bitAt 0x1B040 15) = true ∧ tHmet.hFld 15 0 31 1 = 1
      ∧ tHmet.hTemp 15 2 = none ∧ (tHeat.hTemp 15 2).isSome = true ∧ (tHeat.hTemp 15 3).isSome = true ∧ (tHeat.hPress 15).isSome = true
      ∧ (tHeat.hVolume 15 5 8000).isSome = true := by
  refine ⟨⟨test_sized _ ?_ ?_ ?_ ?_ ?_ ?_ ?_ ?_ ?_ ?_ ?_, test_sized _ ?_ ?_ ?_ ?_ ?_ ?_ ?_ ?_ ?_ ?_ ?_⟩, ⟨by unfold State.takes; decide +kernel, by unfold State.takes; decide +kernel,
    by unfold State.takes; decide +kernel⟩, by decide +kernel, by decide, by decide, by decide, by decide, by decide, by decide, ⟨_, rfl, by decide⟩, by decide, by decide,
    by decide, by decide, by decide, by decide, by decide, by decide, by rfl, by rfl, by rfl, by rfl⟩
  all_goals first | rfl | exact ⟨rfl, rfl⟩

theorem test_inputs_SavesAndPowerFail :
    ((State.reset.metMod (fun q => { q with saveDue := true })).met.saveDue = true ∧ State.reset.met.saveDue = false ∧ State.reset.metNv.next = 0
      ∧ (State.reset.metNvMod (fun q => { q with next := 1 })).metNv.next ≠ 0
      ∧ (State.reset.metMod (fun q => { q with saving := some tSave })).met.saving = some tSave ∧ State.reset.met.saving = none)
    ∧ State.reset.powerFailing = false ∧ (State.reset.pwrMod (fun p => { p with pfAt := some 0 })).powerFailing = true
      ∧ (State.reset.pwrMod (fun p => { p with pfAt := some 0 })).pwr.done = false
      ∧ 0 + 12000000 ≤ ((State.reset.wr 0x604C 12).pwrMod (fun p => { p with pfAt := some 0 })).elapsed 0
      ∧ (State.reset.pwrMod (fun p => { p with pfAt := some 0 })).elapsed 0 < 0 + 12000000
      ∧ (State.reset.pwrMod (fun _ => { pfAt := some 0, done := true })).pwr.done = true
      ∧ 0 + 10000000 ≤ ((State.reset.wr 0x604C 10).pwrMod (fun p => { p with pfAt := some 0 })).elapsed 0
      ∧ ((State.reset.wr 0x604C 9).pwrMod (fun p => { p with pfAt := some 0 })).elapsed 999999 < 0 + 10000000 ∧ State.reset.pwr.pfAt = none := by decide

theorem test_inputs_SupplyAndClocks :
    (17999 < (State.reset.wr 0x2058 18000).fld ⟨0x2058, 0, 16⟩ ∧ (State.reset.wr 0x2058 18000).fld ⟨0x2058, 0, 16⟩ ≤ 18000
      ∧ (State.reset.bit pwrUv = false ∧ State.reset.bit pwrOv = false ∧ 60000 < 60001 ∧ 67999 < 68000 ∧ (State.reset.setB pwrBallast true).bit pwrBallast = true
        ∧ (State.reset.setB pwrBallast true).powerFailing = false ∧ (State.reset.setB pwrBallast false).bit pwrBallast = false
        ∧ (State.reset.setB pwrUv true).bit pwrUv = true ∧ (State.reset.setB pwrOv true).bit pwrOv = true))
    ∧ (∀ d, d < 12 → (State.reset.wr 0x3040 4095).bit (clkLock d) = true ∧ (State.reset.wr 0x3040 0).bit (clkLock d) = false)
    ∧ (State.reset.wr 0x3040 0).Sized := by
  refine ⟨by decide, by decide, test_sized _ ?_ ?_ ?_ ?_ ?_ ?_ ?_ ?_ ?_ ?_ ?_⟩
  all_goals first | rfl | exact ⟨rfl, rfl⟩

/-- The loop engine on, loop 255 with word 0 `w0` above its DIV of 1, and item 0 of mailbox 3 as its PV, of status `st`. -/
def tLoop (w0 : Word) (st : Nat) : State :=
  let s := { State.reset with mbx := [{ tMbx false with front := [⟨0x41200000, st⟩] }] }
  (((s.wr 0x20040 1).wr 0x20048 255).twr 0x2000 255 0 (w0 ||| 0x80000400)).twr 0x2000 255 1 0x00300000

/-- A relay test of loop 255. -/
def tTune : TuneSt := { loop := 255, bias := 0, sp0 := 0, at_ := 0, high := none, up := none, lo := 0, hi := 0, cycles := [] }

theorem test_inputs_LoopsExecuteAndHold :
    (tEnt 0x20 0x06 255 0 (tLoop 0 0)).takes 0x20 0x06 (·.has 255) ∧ ((tLoop 0 0).bit (bitAt 0x20040 0) = true ∧ (tLoop 0 0).loopDef 255 = true
      ∧ (tLoop 0 0).loop.tune = none ∧ 0 ≤ 255 / 256 % 256 ∧ 255 = (255 + 0) % 256 ∧ State.reset.bit (bitAt 0x20040 0) = false)
      ∧ ((tLoop 0 0).loopDiv 255 ≠ 0 ∧ (tLoop 0 0).frame % (tLoop 0 0).loopDiv 255 = (tLoop 0 0).loopPhase 255 ∧ ((tLoop 0 0).loopSt 255).last ≠ some (tLoop 0 0).fno)
      ∧ ((tLoop 1 0).frame % (tLoop 1 0).loopDiv 255 ≠ (tLoop 1 0).loopPhase 255)
      ∧ ((tLoop 0 0).loopMode 255 = 0 ∧ (tLoop 0x20000000 0).loopMode 255 = 1 ∧ (tLoop 0x40000000 0).loopMode 255 = 2 ∧ (tLoop 0x60000000 0).loopMode 255 = 3)
      ∧ ((tLoop 0x40400000 0).lb 255 0 22 1 = 1 ∧ (tLoop 0x40000000 0).lb 255 0 22 1 = 0 ∧ (tLoop 0x40800000 0).lb 255 0 23 1 = 1)
      ∧ ((tLoop 0x40000000 5).loopPv 255 = none ∧ (tLoop 0x40000000 4).loopPv 255 = some (0x41200000, 4) ∧ (tLoop 0x40000000 0).lb 255 0 23 1 = 0
        ∧ ((tLoop 0x40000000 0).loopSp 255).1 = some 0)
      ∧ (255 / 32 = 7 % 8 ∧ wbit 0x80000000 (255 % 32) = true ∧ 0 / 32 ≠ 7 % 8 ∧ wbit 0x80000000 (224 % 32) = false)
      ∧ (((tLoop 0x40000000 0).loopMod (fun q => { q with tune := some tTune })).loop.tune = some tTune ∧ tTune.loop / 32 = 7 % 8
        ∧ wbit 0x80000000 (tTune.loop % 32) = true) := by
  refine ⟨by unfold State.takes; decide +kernel, ?_⟩
  decide +kernel

/-- Loop 255 of `tLoop` with limits of -10 and 10, and AMP 1. -/
def tRelay : State := (((tLoop 0x40000000 0).twr 0x2000 255 9 0xC1200000).twr 0x2000 255 10 0x41200000).wr 0x20050 0x3F800000

theorem test_inputs_RelayTestsRunAndEnd :
    (tRelay.fld ⟨0x20048, 0, 8⟩ = 255 ∧ tRelay.loop.tune = none ∧ tRelay.bit (bitAt 0x20040 0) = true ∧ tRelay.loopDef 255 = true ∧ tRelay.loopMode 255 ≠ 0
      ∧ tRelay.loopGroup 255 = none ∧ tRelay.lb 255 0 22 1 = 0 ∧ tRelay.loopPv 255 = some (0x41200000, 0) ∧ (tRelay.loopSp 255).1 = some 0
      ∧ f32Le (tRelay.lw 255 9) (f32Sub (tRelay.lw 255 14) (tRelay.rd 0x20050)) = true ∧ f32Le (f32Add (tRelay.lw 255 14) (tRelay.rd 0x20050)) (tRelay.lw 255 10) = true
      ∧ f32Le (tRelay.lw 255 9) (f32Add (tRelay.lw 255 14) (tRelay.rd 0x20050)) = true ∧ f32Le (f32Sub (tRelay.lw 255 14) (tRelay.rd 0x20050)) (tRelay.lw 255 10) = true)
    ∧ (State.reset.bit (bitAt 0x20040 0) = false ∧ (tRelay.loopMod (fun q => { q with tune := some tTune })).loop.tune = some tTune ∧ tTune.loop < 256)
    ∧ ((tRelay.wr 0x20058 0x00010000).fld ⟨0x20058, 16, 16⟩ * 1000 ≤ ((tRelay.wr 0x20058 0x00010000).wr 0x604C 1000).since tTune.at_
      ∧ ((tRelay.wr 0x20058 0x00010000).wr 0x604C 999).since tTune.at_ < (tRelay.wr 0x20058 0x00010000).fld ⟨0x20058, 16, 16⟩ * 1000)
    ∧ (tRelay.tset 0x2002 255 0 28 4 2).tfld 0x2002 255 0 28 4 = 2 ∧ tRelay.tfld 0x2002 255 0 28 4 ≠ 2 := by decide +kernel

/-! ## Programs, the network model and the optimiser -/

/-- The smallest program image that R393 passes, in copy `c` of CPE1's bank: five empty sections. -/
def tImg (c : Nat) (s : State) : State :=
  [(0, 0x43424E44), (1, 1), (2, 7), (4, 244), (5, 5), (16, 1), (17, 144), (20, 2), (21, 144), (24, 4), (25, 144), (28, 5), (29, 144), (32, 9), (33, 144), (36, 0x2249BDEE)].foldl
    (fun a e => a.twr (pt 1 0) (c * 2 ^ 23) e.1 (BitVec.ofNat 32 e.2)) s

/-- CPE1 on, an image verification key ACTIVE when its verification began, with task 3 and its image, and a frame table of the active bank that ends at once. -/
def tCpe : State :=
  ((tImg 0 (tImg 1 ((State.reset.twr 0x0600 0 1 0x10).wr 0x6048 500))).setB (pfld 1 8 0 1) true).cpeMod 1 (fun c => { c with tasks := [(3, 1000)] }) |>.keysMod (fun k => { k with imgKey := [2] })

theorem test_inputs_ModelAssetAndProgramBanks :
    ((State.reset.bit modelBank.busy = false ∧ State.reset.bit modelBank.pend = false ∧ (State.reset.setB modelBank.busy true).bit modelBank.busy = true
      ∧ State.reset.bit modelBank.ver = false ∧ (State.reset.setB modelBank.ver true).bit modelBank.ver = true ∧ (State.reset.setB modelBank.pend true).bit modelBank.pend = true)
    ∧ (State.reset.bit optBank.busy = false ∧ State.reset.bit optBank.pend = false ∧ (State.reset.setB optBank.busy true).bit optBank.busy = true
      ∧ State.reset.bit optBank.ver = false ∧ (State.reset.setB optBank.ver true).bit optBank.ver = true ∧ (State.reset.setB optBank.pend true).bit optBank.pend = true)
    ∧ (State.reset.seq.hfStart = false ∧ (State.reset.seqMod (fun q => { q with hfStart := true })).seq.hfStart = true ∧ State.reset.inExt = false)
    ∧ (State.reset.modelVerify = none ∧ State.reset.optVerify = none ∧ (State.reset.twr 0x2405 (inact 0) 0 0x80000000).modelVerify = some (2, 5, 0)
      ∧ (State.reset.twr 0x2501 (inact 0) 0 0x80000000).optVerify = some (2, 1, 0)))
    ∧ (1 < 2 ∧ (State.reset.bit (cpeBank 1).busy = false ∧ (State.reset.setB (cpeBank 1).busy true).bit (cpeBank 1).busy = true
      ∧ (State.reset.setB (cpeBank 1).pend true).bit (cpeBank 1).pend = true ∧ State.reset.bit (cpeBank 1).ver = false
      ∧ (State.reset.setB (cpeBank 1).ver true).bit (cpeBank 1).ver = true ∧ State.reset.bit (cpeBank 1).pend = false
      ∧ (State.reset.setB (pfld 1 0x48 15 1) true).bit (pfld 1 0x48 15 1) = true ∧ State.reset.cpeSwitchNow 1 = true
      ∧ (State.reset.cpeMod 1 (fun c => { c with switchAt := some 5 })).cpeSwitchNow 1 = false)
    ∧ tCpe.cpeVerify 1 false = some (3, 0, 0) ∧ tCpe.cpeVerify 1 true = none ∧ tCpe.Sized) := by
  refine ⟨by decide +kernel, by decide, by decide, by decide +kernel, by decide +kernel, test_sized _ ?_ ?_ ?_ ?_ ?_ ?_ ?_ ?_ ?_ ?_ ?_⟩
  all_goals first | rfl | exact ⟨rfl, rfl⟩

theorem test_inputs_ProgramsRunAndSave :
    (tCpe.Sized ∧ (tEnt 0x28 9 3 0 tCpe).takes 0x28 (8 + 1) (·.has 3) ∧ (tEnt 0x28 9 3 0 tCpe).cpeEmpty 1 = false ∧ 3 % 8 < 4 ∧ (tEnt 0x28 9 3 0 tCpe).taskDef 1 3 = true)
    ∧ (tCpe.taskDef 1 2 = false ∧ tCpe.errServed 1 = none ∧ (tCpe.trigItems 1).evtRun 1 = [])
    ∧ (State.reset.cpeEmpty 1 = true ∧ (tEnt 0x28 9 3 0 State.reset).takes 0x28 (8 + 1) (·.has 3))
    ∧ (tCpe.frame = 500 ∧ tCpe.inExt = false ∧ tCpe.imgLen 1 0 ≠ 0 ∧ (tCpe.cpeP 1).retAt ≠ some tCpe.fno ∧ State.reset.frame ≠ 500) := by
  refine ⟨⟨test_sized _ ?_ ?_ ?_ ?_ ?_ ?_ ?_ ?_ ?_ ?_ ?_, ?_, by decide +kernel, by decide, by decide +kernel⟩, by decide +kernel, ⟨by decide +kernel, ?_⟩, by decide +kernel⟩
  all_goals first | rfl | exact ⟨rfl, rfl⟩

/-- The model engine on with circuit 3 and part 15, converged or not. -/
def tModel (conv : Bool) : State :=
  (((State.reset.wr 0x24040 7).twr 0x2400 3 0 0x80000000).wr 0x2409C 0xFFFF0000).setB (bitAt (mreg 3 0) 5) conv

theorem test_inputs_TheModelSolves :
    (State.reset.Sized ∧ ((tEnt 0x30 0x01 3 0 (tModel true)).takes 0x30 0x01 (·.has 3) ∧ (tEnt 0x31 0x01 3 0 (tModel true)).takes 0x31 0x01 (·.has 3)
        ∧ (tEnt 0x32 0x01 15 0 (tModel true)).takes 0x32 0x01 (·.has 15))
      ∧ (tModel true).modelEn 0 = true ∧ (tModel true).modelEn 1 = true ∧ (tModel true).modelEn 2 = true
      ∧ (tModel true).circuitOn 3 = true ∧ (tModel true).everConv 3 = true ∧ (tModel false).everConv 3 = false ∧ State.reset.modelEn 0 = false
      ∧ State.reset.circuitOn 3 = false)
    ∧ ((tModel true).arrBud 15 ≠ 0 ∧ (tModel true).partNodes 15 = [] ∧ State.reset.arrBud 15 = 0 ∧ State.reset.partStale 15 = true
      ∧ (let s := (((tModel false).twr 0x2406 5 0 0xB0000000).twr 0x2406 5 1 0xF0000000)
        5 ∈ s.partNodes 15 ∧ ∀ n ∈ s.partNodes 15, s.everConv (s.tfld 0x2406 n 0 28 2) = false)
      ∧ (let s := (((tModel true).twr 0x2406 5 0 0xB0000000).twr 0x2406 5 1 0xF0000000)
        5 ∈ s.partNodes 15 ∧ s.everConv (s.tfld 0x2406 5 0 28 2) = true)
      ∧ ((tModel true).modelMod (fun m => { m with arrAt := setAt m.arrAt 15 (some 0) })).partStale 15 = false)
    ∧ (State.reset.modelMod (fun m => { m with above := setAt m.above 3 (some 0) })).model.above.getD 3 none = some 0
      ∧ ((State.reset.wr (mreg 3 0x24) 0x00010000).wr 0x604C 1000).fld ⟨mreg 3 0x24, 16, 16⟩ * 1000 ≤ ((State.reset.wr (mreg 3 0x24) 0x00010000).wr 0x604C 1000).since 0
      ∧ State.reset.bit (bitAt (mreg 3 0) 7) = false ∧ (State.reset.setB (bitAt (mreg 3 0) 7) true).bit (bitAt (mreg 3 0) 7) = true
      ∧ (State.reset.modelMod (fun m => { m with below := setAt m.below 3 (some 0) })).model.below.getD 3 none = some 0
      ∧ State.reset.model.above.getD 3 none = none := by
  refine ⟨⟨?_, ⟨by unfold State.takes; decide +kernel, by unfold State.takes; decide +kernel, by unfold State.takes; decide +kernel⟩, by decide⟩, by decide +kernel,
    by decide⟩
  refine test_sized _ ?_ ?_ ?_ ?_ ?_ ?_ ?_ ?_ ?_ ?_ ?_ <;> first | rfl | exact ⟨rfl, rfl⟩

/-- A solve begun at frame `f`, waiting for its publication or not, on a module whose periodic solves are on with a period of 900 s. -/
def tSolve (f : Nat) (done : Bool) : State :=
  (((State.reset.wr 0x25040 1).wr 0x25050 0x03840000).wr 0x2507C 5).optMod (fun o => { o with
    run := some { fno := f, clock := 0, cmd := none, inp := State.reset.solveIn, relaxed := [], fixed := [], halved := false, it1 := 0, it3 := 0 }
    done := if done then some { it1 := 0, it3 := 0, objective := [], recs := [(65535, List.replicate 196 7)] } else none })

/-- What the active module's record says of its plans: one published, or a solve that ended with code 5. -/
def tPlan (pub : Bool) : PlanSec :=
  if pub then { pub := some { t0 := 0, clock := 0, ofs := 0, summary := [9], fit := [], slice := [] }, last := none, parts := [] }
  else { pub := none, last := some 0x05000000, parts := [] }

/-- A standby module that executes a record with that plan section. -/
def tStandbyPlan (pub : Bool) : State :=
  { State.reset.setF ⟨0x54, 28, 4⟩ 3 with twin := { State.reset.twin with
      run := some { fno := 7, frame := 7, ext := false, sec := 0, ns := 7000000, epoch := 0, overflow := false, handover := false, plan := tPlan pub, priv := [] } } }

theorem test_inputs_SolvesStartAndEnd :
    (
      let s := tSolve 5 false
      s.bit (bitAt 0x25040 0) = true ∧ s.mstate ≠ 3 ∧ s.nowNs = 0 ∧ s.fld ⟨0x25050, 16, 16⟩ = 900
      ∧ (s.nowSec + 900 - s.fld ⟨0x25050, 0, 16⟩ % 900) % 900 = 0 ∧ s.opt.startAt ≠ some s.fno ∧ State.reset.opt.run = none
      ∧ State.reset.bit (bitAt 0x25040 0) = false ∧ State.reset.optClk = false)
    ∧ (
      let s := State.reset.wr 0x3040 4095
      let u := (s.optMod (fun o => { o with ofsSolve := sint (s.rd 0x25060) })).dailyFit
      s.optClk = true ∧ u.inputFails u.solveIn.tbl u.solveIn.t0 = false
        ∧ (s.twr 0x2500 3 0 0x80000000).inputFails u.solveIn.tbl u.solveIn.t0 = true)
    ∧ ((tStandbyPlan false).recRun.map (fun h => h.plan.last) = some (some 0x05000000) ∧ (tStandbyPlan true).recRun.map (fun h => h.plan.last) = some none)
    ∧ ((tSolve 5 false).opt.run.map (·.fno) = some 5 ∧ (tSolve 5 false).recRun = none ∧ (tSolve 5 false).opt.done = none
      ∧ (tSolve 5 true).opt.done ≠ none ∧ ∀ k, k < 4 → ((tSolve 5 false).setF ⟨0x25048, 16, 3⟩ k).solveStage = k)
    ∧ (45000 ≤ ((tSolve 0 false).wr 0x604C 45000).since 0 ∧ ((tSolve 0 false).wr 0x604C 44999).since 0 < 45000) := by
  refine ⟨by decide, by decide +kernel, by decide, by decide, by decide⟩

theorem test_inputs_PlansArePublishedAndAge :
    ((tSolve 0 true).recRun = none ∧ (tSolve 0 true).opt.run.isSome = true ∧ (tSolve 0 true).opt.done.isSome = true ∧ (tSolve 0 false).opt.done = none
      ∧ (∀ d, (tSolve 0 true).opt.done = some d → (∀ e ∈ d.recs, e.1 < 2 ^ 16 ∧ e.2.length = 196) ∧ d.recs.Pairwise (fun x y => x.1 ≠ y.1)))
    ∧ ((tStandbyPlan true).recRun.map (fun h => h.plan.pub.isSome) = some true ∧ (tStandbyPlan false).recRun.map (fun h => h.plan.pub) = some none
      ∧ (tPlan true).parts = [])
    ∧ ({ State.reset with mbx := [{ tMbx false with readers := 4, swapped := true }] } : State).mbxOf 3 = some { tMbx false with readers := 4, swapped := true }
    ∧ ((4 : Nat) / 4 % 16 ≠ 0 ∧ (tMbx false).swapped = false)
    ∧ ((tSolve 0 false).atStep = true ∧ ((tSolve 0 false).setB (bitAt 0x25048 8) true).bit (bitAt 0x25048 8) = true
      ∧ ¬ ((tSolve 0 false).rd 0x2507C = lo32 (tSolve 0 false).nowSec ∧ (tSolve 0 false).rd 0x25080 = lo32 (tSolve 0 false).nowNs)
      ∧ (State.reset.wr 0x407C 7).atStep = false)
    ∧ (((State.reset.optMod (fun o => { o with planStart := some (State.reset.clockNs - 1) })).planAge = some 1)
      ∧ ((State.reset.wr 0x25054 0).rd 0x25054).toNat * 1000000000 < 1 ∧ (1 : Nat) ≤ ((State.reset.wr 0x25054 1).rd 0x25054).toNat * 1000000000) := by
  refine ⟨⟨by decide, by decide, by decide, by decide, ?_⟩, by decide, by decide +kernel, by decide, by decide +kernel, by decide +kernel⟩
  intro d hd
  obtain rfl : _ = d := Option.some.inj hd
  decide +kernel

/-! ## Twin operation -/

/-- A module of a pair in state `m`, with what twin operation keeps of it. -/
def tTwin (m : Nat) (f : TwinSt → TwinSt) : State :=
  { tUp.setF ⟨0x54, 28, 4⟩ m with cfg := { State.reset.cfg with pair := true }, twin := f State.reset.twin }

/-- The partner in state `m`, as its last heartbeat told. -/
def tPartner (m : Nat) (eligible instep : Bool) : PartnerHb :=
  { mstate := m, recOk := true, instep := instep, eligible := eligible, joining := false, fno := 9, epoch := 0, health := 0 }

/-- A heartbeat of an active partner on path `p`, `ns` from the tick. -/
def tBeat (p ns : Nat) (crcOk : Bool) : Heartbeat :=
  { path := p, ns := ns, crcOk := crcOk, mstate := 4, recOk := true, instep := false, eligible := false, joining := false, fno := 10, epoch := 0,
    health := 0, digest := 0, execFno := 0, timed := false, t1 := 0, t2 := 0, t3 := 0, t4 := 0, same := true }

/-- The header of frame 7's record, with OVERFLOW or HANDOVER. -/
def tHdr (ovf hand : Bool) : RecHdr := { fno := 7, frame := 7, ext := false, sec := 0, ns := 7000000, epoch := 0, overflow := ovf, handover := hand, plan := PlanSec.none_, priv := [] }

/-- That record as it is received. -/
def tRec (ovf ok : Bool) : InRec := { hdr := tHdr ovf false, len := 64, timeStat := 0, ok := ok }

theorem test_inputs_RecordsHeartbeatsAndBeacons :
    ((tEnt 0x50 0x0A 0 0 (tTwin 4 id)).takes 0x50 0x0A (fun _ => true) ∧ State.reset.issues 0x50 0x0A (fun _ => true) = false
      ∧ (let s := tEnt 0x50 0x0A 0 0 { State.reset with pwr := { State.reset.pwr with done := true } }
        s.issues 0x50 0x0A (fun _ => true) = true ∧ s.unitOff 0x0A = true))
    ∧ ((tBeat 0 0 false).crcOk = false ∧ 100000 < (tBeat 0 100001 true).ns ∧ State.reset.twin.on = false ∧ (tTwin 3 id).shed = false
      ∧ (tTwin 3 id).lineUp 4 = true ∧ (tBeat 1 100000 true).crcOk = true
      ∧ (tBeat 1 100000 true).ns ≤ 100000 ∧ (tTwin 3 (fun q => { q with on := true, instep := true })).twin.on = true
      ∧ (tBeat 1 100000 true).mstate = 4 ∧ (tBeat 1 100000 true).recOk = true ∧ (tTwin 3 (fun q => { q with on := true, instep := true })).mstate = 3
      ∧ (tTwin 3 (fun q => { q with on := true, instep := true })).twin.instep = true
      ∧ (tTwin 3 (fun q => { q with on := true, instep := true })).holdsRec ((10 + 2 ^ 32 - 1) % 2 ^ 32) = false)
    ∧ ((tTwin 4 (fun q => { q with on := true })).twin.link = false ∧ (tTwin 4 (fun q => { q with on := true })).twin.tether = false)
    ∧ ((tTwin 4 id).mstate ≠ 3 ∧ (tTwin 3 (fun q => { q with declared := true })).twin.declared = true ∧ (tRec false false).ok = false
      ∧ (tTwin 3 id).twin.declared = false ∧ (tRec true true).ok = true ∧ (tRec true true).hdr.epoch = ((tTwin 3 id).twin.hb.map (·.epoch)).getD (tTwin 3 id).epoch
      ∧ (tRec true true).hdr.overflow = true ∧ (tRec false true).hdr.overflow = false ∧ (tTwin 3 id).holdsRec (tRec false true).hdr.fno = false
      ∧ (tTwin 3 id).twin.joining = false)
    ∧ ((tTwin 3 (fun q => { q with instep := true, exec := some (2 ^ 32 - 4) })).twin.exec = some (2 ^ 32 - 4)
      ∧ 4 ≤ (tTwin 3 (fun q => { q with instep := true, exec := some (2 ^ 32 - 4) })).ownSince (2 ^ 32 - 4) ∧ (tTwin 3 id).twin.run = none
      ∧ (tTwin 3 id).twin.exec = none ∧ (tTwin 3 (fun q => { q with run := some (tHdr false false) })).twin.run ≠ none)
    ∧ (2 ≤ (tTwin 4 (fun q => { q with notClosed := 2 })).twin.notClosed ∧ (tTwin 4 (fun q => { q with notClosed := 1 })).twin.notClosed < 2)
    ∧ (∀ s : State, s.serial + 1 ≠ s.serial) ∧ (tTwin 4 id).lineUp 0 = true ∧ (tTwin 4 id).epoch < 1 ∧ (tTwin 4 id).twin.split = false ∧ 200000 ≤ ((tTwin 4 id).setF ⟨0xC040, 24, 8⟩ 20).fld ⟨0xC040, 24, 8⟩ * 10000 := by
  unfold State.takes
  exact ⟨by decide +kernel, by decide +kernel, by decide +kernel, by decide +kernel, by decide +kernel, by decide +kernel,
    fun _ => Nat.succ_ne_self _, by decide +kernel⟩

/-- A standby module in step and ELIGIBLE, with port A linked. -/
def tElig (f : TwinSt → TwinSt) : State :=
  let s := tTwin 3 (fun q => f { q with instep := true, agreed := true, on := true })
  { s.wr 0x3040 4095 with snet := { s.snet with lines := [true, false, false, false, false] } }

theorem test_inputs_FailureIsDeclaredCheckedAndTakenOver :
    ((tTwin 4 (fun q => { q with on := true, ticks := 2 })).twin.lost = false ∧ (tTwin 4 (fun q => { q with on := true, ticks := 2 })).twin.any = false
      ∧ (tTwin 4 (fun q => { q with on := true, ticks := 2 })).twin.anyPrev = false ∧ (tTwin 4 (fun q => { q with on := true, ticks := 2 })).twin.ticks = 2
      ∧ (tTwin 4 (fun q => { q with lost := true })).twin.lost = true)
    ∧ ((tElig (fun q => { q with ticks := 2 })).mstate = 3 ∧ (tElig (fun q => { q with ticks := 2 })).cfg.pair = true
      ∧ (tElig (fun q => { q with ticks := 2 })).twin.declared = false ∧ (tElig (fun q => { q with ticks := 2 })).twin.good = false
      ∧ (tElig (fun q => { q with ticks := 2 })).twin.goodPrev = false ∧ (tElig (fun q => { q with good := true })).twin.good = true)
    ∧ ((tElig (fun q => { q with declared := true })).twin.declared = true ∧ (tElig id).lineUp 0 = true 
      ∧ (let s := { tTwin 3 id with snet := State.reset.snet }
        s.lineUp 0 = false ∧ s.lineUp 1 = false) ∧ (tElig id).twin.beacon = false ∧ (tElig id).twin.beaconPrev = false ∧ (tElig (fun q => { q with beacon := true })).twin.beacon = true
      ∧ (tElig (fun q => { q with isoRaised := true })).twin.isoRaised = true ∧ (tElig id).twin.isoRaised = false)
    ∧ ((tElig (fun q => { q with declared := true, passed := true })).eligible' = true ∧ (tElig id).handed = false
      ∧ (tElig (fun q => { q with run := some (tHdr false true) })).handed = true ∧ (tTwin 3 id).eligible' = false
      ∧ ((tTwin 3 id).setB (bitAt 0xC040 1) true).bit (bitAt 0xC040 1) = true ∧ State.reset.bit (bitAt 0xC040 1) = false)
    ∧ ((tTwin 4 (fun q => { q with hb := some (tPartner 3 true true), any := true })).twin.hb = some (tPartner 3 true true)
      ∧ (tPartner 3 true true).eligible = true ∧ (tTwin 4 (fun q => { q with hb := some (tPartner 3 true true), any := true })).twin.any = true
      ∧ (tPartner 3 false true).eligible = false ∧ (tTwin 4 (fun q => { q with hb := some (tPartner 3 true true) })).canSwitch = true
      ∧ State.reset.canSwitch = false) := by decide +kernel

/-- A join that this module, in state `m`, takes part in, with the ten segments committed or none. -/
def tJoin (m : Nat) (full : Bool) (f : TwinSt → TwinSt) : State :=
  { tTwin m (fun q => f { q with joining := true, joinAt := some 0 }) with segs := if full then List.replicate 10 (0, SegData.empty) else [] }

theorem test_inputs_JoinsStartCopyAndEnd :
    ((tTwin 4 (fun q => { q with hb := some (tPartner 3 false false) })).partnerOut = true ∧ (tTwin 4 id).twin.joining = false ∧ (tTwin 4 id).twin.same = true
      ∧ (tTwin 4 (fun q => { q with same := false })).twin.same = false ∧ (tTwin 4 id).pState ≠ some 3 ∧ (tTwin 4 id).twin.leftAt = none)
    ∧ (((tTwin 4 (fun q => { q with leftAt := some 0 })).wr 0xC040 0x00010001).bit (bitAt 0xC040 0) = true
      ∧ (((tTwin 4 (fun q => { q with leftAt := some 0 })).wr 0xC040 0x00010001).wr 0x604C 1000).fld ⟨0xC040, 16, 8⟩ * 1000
          ≤ (((tTwin 4 (fun q => { q with leftAt := some 0 })).wr 0xC040 0x00010001).wr 0x604C 1000).ownSince 0)
    ∧ ((tJoin 3 false id).twin.joining = true ∧ (tJoin 3 false id).tfld 0x0C00 9 0 30 2 ≠ 2 ∧ (tJoin 3 false id).tfld 0x0C00 9 0 0 3 < 3
      ∧ 3 ≤ ((tJoin 3 false id).tset 0x0C00 9 0 0 3 3).tfld 0x0C00 9 0 0 3)
    ∧ ((tJoin 3 true id).mstate = 3 ∧ (tJoin 3 true id).twin.replayed = false ∧ (tJoin 3 true id).segs.length = 10 ∧ (tJoin 3 false id).segs.length ≠ 10
      ∧ (tJoin 3 true (fun q => { q with recs := [tHdr false false] })).twin.recs.getLast? = some (tHdr false false) ∧ (tJoin 3 true id).twin.recs = [])
    ∧ ((tJoin 3 true (fun q => { q with replayed := true, agreed := true })).twin.replayed = true
      ∧ (tJoin 3 true (fun q => { q with replayed := true, agreed := true })).twin.agreed = true
      ∧ (tJoin 3 true (fun q => { q with run := some (tHdr false false) })).twin.run = some (tHdr false false))
    ∧ ((tJoin 4 false (fun q => { q with hb := some (tPartner 3 false true) })).twin.hb = some (tPartner 3 false true) ∧ (tPartner 3 false true).instep = true
      ∧ (tJoin 4 false id).mstate = 4 ∧ (tJoin 4 false id).twin.joinAt = some 0)
    ∧ (((tJoin 4 false id).wr 0xC068 0x00010000).wr 0x604C 1000).fld ⟨0xC068, 16, 16⟩ * 1000 ≤ (((tJoin 4 false id).wr 0xC068 0x00010000).wr 0x604C 1000).ownSince 0 := by
  decide +kernel

theorem test_inputs_ParkControlsAndSelfTests :
    ((tTwin 4 (fun q => { q with hb := some (tPartner 3 false false) })).pState = some 3 ∧ (tTwin 4 (fun q => { q with hb := some (tPartner 5 false false) })).pState = some 5
      ∧ (tTwin 4 id).pState ≠ some 5 ∧ State.reset.cfg.pair = false)
    ∧ ((State.reset.setB testFail true).bit testFail = true ∧ State.reset.bit testFail = false ∧ (tTwin 3 (fun q => { q with clr := true, failed := [0] })).twin.failed = [0])
    ∧ ((tTwin 3 (fun q => { q with plausRun := [(63, 10)] })).twin.plausRun.lookup 63 = some 10 ∧ ((tTwin 3 id).wr 0x30090 0x80000000).plausOn 63 = true
      ∧ (tTwin 3 id).twin.plausRun.lookup 63 ≠ some 10)
    ∧ ((State.reset.setB (bitAt 0x54 11) true).inRun = true ∧ State.reset.twin.scrub = false ∧ State.reset.rd 0x30068 = 0 ∧ State.reset.inRun = false
      ∧ (tTwin 4 (fun q => { q with scrub := true })).twin.scrub = true) := by decide +kernel

/-! ## Keys, tamper, configuration and start-up -/

/-- Slot `i` of KEY_CMD's argument in state `st` with its successor in state `nx`. -/
def tSlot (i st nx : Nat) : State := (((State.reset.wr 0x9048 (BitVec.ofNat 32 i)).tset 0x0900 i 0 29 3 st).tset 0x0900 i 0 27 2 nx).wr 0x9040 1

/-- An import buffer of a key of `kind` for slot `slot` with parent 5 and generation 1. -/
def tBuf (kind slot : Nat) : List Word :=
  [BitVec.ofNat 32 (1 + kind * 2 ^ 8 + slot * 2 ^ 16 + (if kind = 9 then 5 else 0) * 2 ^ 24), 1] ++ List.replicate 70 0

/-- A staged key, with the check value that its buffer gave and its own. -/
def tNew (kind : Nat) (kcv : Word) : KeyNew := { kind := kind, parent := 5, gen := 1, label := [0, 0], want := 7, kcv := kcv, point := [] }

/-- `s` while STAGE or VERIFY of slot `i` runs. -/
def tRunning (v : Bool) (i : Nat) (buf : List Word) (n : Option KeyNew) (s : State) : State :=
  (s.setB keyBusy true).keysMod (fun k => { k with run := some ⟨v, i, buf⟩, staged := (n.map (fun x => (i, x))).toList })

theorem test_inputs_KeysAreStagedAndVerified :
    ((State.reset.setB keyZeroised true).bit keyZeroised = true ∧ (State.reset.setB keyBusy true).bit keyBusy = true ∧ (tSlot 127 0 0).bit keyZeroised = false
      ∧ (tSlot 127 0 0).bit keyBusy = false ∧ (tSlot 127 0 0).keyArg = 127 ∧ (tSlot 127 0 0).bit (bitAt 0x9040 0) = true ∧ (tSlot 127 0 0).slotState 127 = 0
      ∧ (tSlot 127 3 0).slotState 127 = 3 ∧ (tSlot 127 3 0).slotNext 127 = 0 ∧ State.reset.bit (bitAt 0x9040 0) = false ∧ (tSlot 127 1 0).slotState 127 = 1
      ∧ (tSlot 127 3 1).slotNext 127 = 1)
    ∧ ((tRunning false 127 (tBuf 9 127) none (tSlot 127 0 0)).keys.run = some ⟨false, 127, tBuf 9 127⟩
      ∧ (tRunning false 127 (tBuf 9 127) none (tSlot 127 0 0)).stageCode ⟨false, 127, tBuf 9 127⟩ true true = 0
      ∧ (tRunning false 127 (tBuf 9 127) none (tSlot 127 3 0)).stageCode ⟨false, 127, tBuf 9 127⟩ true true = 0
      ∧ (tRunning false 127 (tBuf 9 126) none (tSlot 127 3 0)).stageCode ⟨false, 127, tBuf 9 126⟩ true true = 2)
    ∧ ((tRunning true 127 [] (some (tNew 9 7)) (tSlot 127 1 0)).stagedKey 127 = some (tNew 9 7) ∧ (tNew 9 7).kcv = (tNew 9 7).want
      ∧ (tNew 9 8).kcv ≠ (tNew 9 8).want ∧ (tNew 4 0).kind < 6 ∧ (tSlot 3 1 0).slotState 3 ≠ 3 ∧ (tSlot 3 3 1).slotState 3 = 3)
    ∧ State.reset.keys.run = none := by decide +kernel

/-- A promotion of slot 127, with `n` staged in it, pending for this tick. -/
def tProm (n : KeyNew) : State :=
  (((tSlot 127 2 0).setB keyPend true).wr 0x9050 127).keysMod (fun k => { k with staged := [(127, n)] })

theorem test_inputs_KeysArePromotedWithdrawnAndZeroised :
    ((tSlot 127 2 0).slotState 127 = 2 ∧ (tSlot 127 3 2).slotNext 127 = 2 ∧ (tSlot 127 0 0).slotState 127 ≠ 2 ∧ (tSlot 127 0 0).slotNext 127 ≠ 2)
    ∧ ((tProm (tNew 9 7)).bit keyPend = true ∧ (tProm (tNew 9 7)).promNow = true ∧ (tProm (tNew 9 7)).pendSlot = 127
      ∧ (tProm (tNew 9 7)).stagedKey 127 = some (tNew 9 7) ∧ (tNew 9 7).parent < 128 ∧ (tProm (tNew 9 7)).parentOk 127 5 = true
      ∧ (tProm { tNew 9 7 with parent := 127 }).parentOk 127 127 = false ∧ State.reset.bit keyPend = false
      ∧ ((tProm (tNew 9 7)).wr 0x9050 0x0005807F).promNow = false)
    ∧ ((tSlot 127 3 1).slotNext 127 ≠ 0 ∧ 3 ≤ (tSlot 127 5 0).slotState 127 ∧ (tSlot 4 3 0).keyArg = 4 ∧ 127 ∉ [0, 1, 2, 4] ∧ (tSlot 127 4 0).slotState 127 = 4)
    ∧ (31 % 32 ≠ 0 ∧ 32 % 32 = 0) := by decide +kernel

/-- The smallest configuration image that R513 passes, in copy `c`: no PAGE_INIT value, no mailbox, and the END of frame table 0. -/
def tCfg (c : Nat) (s : State) : State :=
  [(0, 0x46434E44), (1, 1), (2, 7), (3, 9), (4, 232), (5, 3), (16, 1), (17, 112), (20, 3), (21, 112), (24, 2), (25, 112), (26, 20), (28, 0x600), (30, 1),
    (32, 0x10)].foldl (fun a e => a.twr 0x0100 (c * 2 ^ 23) e.1 (BitVec.ofNat 32 e.2)) (s.tset 0x0900 3 0 29 3 3)

/-- What a verification of a configuration bank observes. -/
def tObs (ok : Bool) : CfgObs := { crc := ok, sig := ok, content := none, off := 0 }

theorem test_inputs_BanksAreVerifiedAndModulesRestart :
    (State.reset.bit cfgBusy = false ∧ State.reset.bit cfgPend = false ∧ (State.reset.setB cfgBusy true).bit cfgBusy = true
      ∧ (State.reset.setB cfgPend true).bit cfgPend = true ∧ (State.reset.setB cfgVer true).bit cfgVer = true ∧ State.reset.bit cfgVer = false)
    ∧ (((tCfg 1 State.reset).setB cfgBusy true).cfgVerdict 1 true (tObs true)).1 = 0
    ∧ (((tCfg 1 State.reset).setB cfgBusy true).cfgVerdict 1 true (tObs false)).1 ≠ 0 ∧ ((State.reset.keysMod (fun k => { k with imgKey := [0] })).keyAt 0 = true)
    ∧ (State.reset.mstate ≠ 4 ∧ (tTwin 4 (fun q => { q with hb := some (tPartner 3 true true), any := true })).twin.hb = some (tPartner 3 true true)
      ∧ (tTwin 4 id).cfg.pair = true ∧ State.reset.cfg.pair = false)
    ∧ ((tTwin 6 id).mstate = 6 ∧ ((tTwin 6 id).wr 0x98 1).fld ⟨0x98, 0, 16⟩ ≠ 0 ∧ ((tTwin 6 id).dev.faults.filter (fun f => decide ((tTwin 6 id).ownSince f ≤ 3600000))).length < 3
      ∧ (tTwin 6 id).bootStep < 7 ∧ ((tTwin 6 id).wr 0x98 0).fld ⟨0x98, 0, 16⟩ = 0
      ∧ 3 ≤ (([0, 0, 0] : List Nat).filter (fun f => decide ((tTwin 6 id).ownSince f ≤ 3600000))).length) := by decide +kernel

/-- What a start-up observes. -/
def tBoot (fw self cfg : Bool) : BootObs :=
  { trace := false, fwA := fw, fwB := false, selfTest := self, a := tObs cfg, b := tObs false, ms := [] }

/-- `s` with no fuse blown. -/
def tFuse (s : State) : State := { s with regs := smSet (fun _ => 1) s.regs 0xA048 0 }

/-- A module of a pair in step 9 that hears a partner in state `m` of epoch `e`, or does not, its own epoch 1. -/
def tNeg (m e : Nat) (hears : Bool) : State :=
  tFuse (((tTwin 0 (fun q => { q with hb := some { tPartner m false false with epoch := e }, any := hears })).setF ⟨0x54, 24, 4⟩ 9).wr 0xC04C 1)

/-- `s` with an image that names a partner of serial number 5 with fingerprint 6. -/
def tPair (s : State) : State := { s with cfg := { s.cfg with serials := [(5, 6)] } }

theorem test_inputs_StartUpEndsInAState :
    (∀ b : Bool, let o := tBoot true true b
      let x := ((((((tFuse (tCfg 0 State.reset)).bootSecure o).inStep 4).bootFirmware o).1.stepEnd 4 (o.ms.getD 2 0)).inStep 5).setF ⟨0x3040, 0, 12⟩ 4095
      (((x.stepEnd 5 (o.ms.getD 3 0)).inStep 6).bootBank o).2 = b)
    ∧ ((tBoot false true true).fwA = false ∧ (tBoot false true true).fwB = false ∧ (tBoot true false true).selfTest = false)
    ∧ (∀ m ∈ [0, 3, 4], ∀ e ∈ [0, 1, 2], (tNeg m e true).inStep9 = true ∧ (tNeg m e true).hears = true
      ∧ (tNeg m e true).twin.hb = some { tPartner m false false with epoch := e } ∧ (tNeg m e true).tampered = false)
    ∧ (∀ m ∈ [0, 3, 4], ∀ e ∈ [0, 1, 2], (tNeg m e true).epoch = 1)
    ∧ (∀ s : State, s.fld ⟨0x40, 0, 4⟩ + 1 ≠ s.fld ⟨0x40, 0, 4⟩)
    ∧ (∀ m ∈ [0, 3, 4], ∀ e ∈ [0, 1, 2], (tNeg m e true).negRefuses ⟨true, 6, 0, 5⟩ = true ∧ (tPair (tNeg m e true)).negRefuses ⟨true, 6, 0, 5⟩ = false)
    ∧ ((tNeg 0 0 false).inStep9 = true ∧ (tNeg 0 0 false).hears = false ∧ ((tNeg 0 0 false).twinMod (fun q => { q with seen := true })).twin.seen = true
      ∧ State.reset.inStep9 = false ∧ (tNeg 0 0 false).twin.seen = false
      ∧ ({ tNeg 0 0 false with snet := { State.reset.snet with lines := [true, false, false, false, false] } } : State).lineUp 0 = true
      ∧ ((tNeg 0 0 false).setF ⟨0x1070, 24, 8⟩ 0).fld ⟨0x1070, 24, 8⟩ * 100 ≤ ((tNeg 0 0 false).setF ⟨0x1070, 24, 8⟩ 0).ownSince (tNeg 0 0 false).dev.negFrom)
    ∧ ((tFuse (State.reset.setF ⟨0x54, 24, 4⟩ 10)).mstate = 0 ∧ (tFuse (State.reset.setF ⟨0x54, 24, 4⟩ 10)).bootStep = 10 ∧ (tFuse (State.reset.setF ⟨0x54, 24, 4⟩ 10)).inRun = false
      ∧ (tFuse (State.reset.setF ⟨0x54, 24, 4⟩ 10)).admitted = true ∧ State.reset.bootStep ≠ 10) := by
  refine ⟨by decide +kernel, by decide, by decide +kernel, by decide +kernel, fun _ => Nat.succ_ne_self _, by decide +kernel, by decide +kernel, by decide +kernel⟩

/-! ## The whole block -/

/-- Reset with commands waiting. -/
def tWait (cs : List Instr) : State := { State.reset with pending := cs }

theorem test_reset_canon : State.reset.Canon := ⟨rfl, rfl, rfl, rfl, rfl⟩

theorem test_reset_sized : State.reset.Sized := by
  refine test_sized _ ?_ ?_ ?_ ?_ ?_ ?_ ?_ ?_ ?_ ?_ ?_ <;> first | rfl | exact ⟨rfl, rfl⟩

theorem test_inputs_Steps :
    (tWait [.leaseLapsed, .seqVerify]).pending = .leaseLapsed :: [.seqVerify] ∧ State.reset.pending = [] ∧ (Instr.leaseLapsed).wf = true
      ∧ (∃ t, step (tWait [.seqVerify]) = .next t) ∧ (∃ t, exec .seqVerify State.reset = .next t) ∧ onePage .seqVerify = some 6 :=
  ⟨rfl, rfl, rfl, ⟨_, rfl⟩, ⟨_, rfl⟩, rfl⟩

/-- A step of SEQ_VERIFY takes it from the queue, sets VFY_BUSY and leaves the rest waiting. -/
theorem test_step_takes_the_front : ∃ t, step (tWait [.seqVerify, .leaseLapsed]) = .next t ∧ t.pending = [.leaseLapsed] ∧ t.bit seqVfyBusy = true :=
  ⟨_, rfl, rfl, by decide +kernel⟩

/-- The day calendar with day 20000 of TYPE 5 as records 7 and 9. -/
def tCal : SMap := smSet (fun _ => 0) (smSet (fun _ => 0) (smSet (fun _ => 0) (smSet (fun _ => 0) [] (tkey 0x250C 7 0) 20000) (tkey 0x250C 7 1) 0x80000005)
  (tkey 0x250C 9 0) 20000) (tkey 0x250C 9 1) 0x80000006

theorem test_inputs_TheDayTypeOfALocalDay :
    (wbit (serWord tCal 0x250C 7 1) 31 = true ∧ (serWord tCal 0x250C 7 0).toNat = 20000 ∧ ∀ j, j < 7 → wbit (serWord tCal 0x250C j 1) 31 = false)
      ∧ State.reset.dayType tCal 20000 = 5 ∧ ∀ i, i < 64 → wbit (serWord tCal 0x250C i 1) 31 = true → (serWord tCal 0x250C i 0).toNat ≠ 20001 := by decide +kernel

theorem test_inputs_WhenAStandbyModuleIsEligible : (tElig id).eligible' = true ∧ State.reset.eligible' = false := by decide +kernel

/-! ## Words and well-formed commands -/

/-- The table gives the rows no bits: no word spells a command, and the queue stays as it is. -/
theorem test_no_word_spells_a_command (nbits w : Nat) : decodeTableWord nbits w = none ∧ State.reset.withFetchWord nbits w = State.reset := ⟨rfl, rfl⟩

/-- One ill-formed command for each check, and one well-formed at the boundary for some. -/
theorem test_ill_formed_entries :
    (Instr.nop 256).wf = false ∧ (Instr.publish 4096 true).wf = false ∧ (Instr.snap 65536).wf = false ∧ (Instr.launchArm (2 ^ 28) 0).wf = false
      ∧ (Instr.launchArm 0 2000000).wf = false ∧ (Instr.adcSel 4 0 0).wf = false ∧ (Instr.modLatch 0 [] (2 ^ 28)).wf = false
      ∧ (Instr.arrPartStale 16).wf = false ∧ (Instr.leakDetect 4).wf = false ∧ (Instr.nodeSilent 2048).wf = false ∧ (Instr.stnDrop 0 32).wf = false
      ∧ (Instr.twinRec (2 ^ 32)).wf = false ∧ (Instr.entryDeadline 0 4096 ⟨true, 0⟩).wf = false ∧ (Instr.engineLost 12).wf = false
      ∧ (Instr.timedCommit 64).wf = false ∧ (Instr.cpeBankSwitch 2).wf = false ∧ (Instr.nop 255).wf = true ∧ (Instr.publish 4095 true).wf = true := by decide

theorem test_ill_formed_requests :
    (Instr.sessionIdleTimeout 8).wf = false ∧ (Instr.read tk (2 ^ 32)).wf = false ∧ (Instr.readBlock tk 0 65536).wf = false
      ∧ (Instr.tableRead tk 65536 1 0).wf = false ∧ (Instr.cancel tk (2 ^ 32) []).wf = false ∧ (Instr.cqRead tk 256).wf = false ∧ (Instr.kick 16).wf = false
      ∧ (Instr.closeReq { tk with port := 2 }).wf = false ∧ (Instr.closeReq { tk with ses := 256 }).wf = false
      ∧ (Instr.closeReq { tk with seq := 2 ^ 64 }).wf = false ∧ (Instr.closeReq { tk with reqId := 2 ^ 32 }).wf = false ∧ (Instr.closeReq tk).wf = true := by decide

theorem test_ill_formed_events :
    (Instr.ptpSyncTx 4).wf = false ∧ (Instr.ptpAnnounceRx 0 256 6 1 2 tData).wf = false ∧ (Instr.arm 64).wf = false ∧ (Instr.launchQueueExpire 16384 0).wf = false
      ∧ (Instr.rekeySwitch 256).wf = false ∧ (Instr.linkDown 5).wf = false ∧ (Instr.sleep 2).wf = false ∧ (Instr.idClash 0 66).wf = false
      ∧ (Instr.idClashSuspect 0 (2 ^ 29)).wf = false ∧ (Instr.fastInputEdge 8 true).wf = false ∧ (Instr.diEdge 16 true).wf = false
      ∧ (Instr.plausFail 56).wf = false ∧ (Instr.privRelease 32 0 0).wf = false ∧ (Instr.privBreach 16 0 0 0).wf = false ∧ (Instr.openLoop 4).wf = false
      ∧ (Instr.overcurrent 8).wf = false ∧ (Instr.readback 12).wf = false ∧ (Instr.lockLost 13).wf = false ∧ (Instr.loopHoldSet 8 0).wf = false
      ∧ (Instr.icuDoorbell none 1024).wf = false ∧ (Instr.icuDoorbell (some 12) 0).wf = false ∧ (Instr.icuClaim 13).wf = false
      ∧ (Instr.evrTokenRefill 1025).wf = false ∧ (Instr.heartbeatMiss 2).wf = false ∧ (Instr.replayEnd { SegData.empty with can := some [] }).wf = false
      ∧ (Instr.segmentCommit 10 true 0 0 SegData.empty).wf = false ∧ (Instr.tamper 32 0).wf = false ∧ (Instr.portLoopbackTest 16).wf = false
      ∧ (Instr.subAckRx { tGsp 6 tAck with port := 2 }).wf = false ∧ (Instr.canFrameRx (tFrame (2 ^ 29) [])).wf = false
      ∧ (Instr.canFrameRx (tFrame 0 (List.replicate 65 0))).wf = false
      ∧ (Instr.canError { port := 0, kind := 7, own := none, inData := false, id := 0, dom := 0 }).wf = false
      ∧ (Instr.kwpOpen { port := 0, svc := false, seq := 0, fmtOk := true, tagOk := true, cred := 256, hNonce := 0, dNonce := 0 }).wf = false := by decide +kernel

/-! ## Single steps -/

/-- The state that a command answers. -/
def tNext (c : Instr) (s : State) : State :=
  match exec c s with
  | .next t => t
  | _ => s

/-- R23: the loss of CORE takes the module to FAULT; that of OPT does not. -/
theorem test_core_loss_is_a_fault :
    (tNext (.lockLost 0) (State.reset.wr 0x3040 4095)).mstate = 6 ∧ (tNext (.lockLost 1) (State.reset.wr 0x3040 4095)).mstate = 0 := by decide +kernel

/-- R526: a supply below UV_WARN raises UNDERVOLT once while it lasts. -/
theorem test_undervolt_is_raised_once :
    let s := tNext (.undervolt 17999) (State.reset.wr 0x2058 18000)
    s.bit (bitAt 0x2010 2) = true ∧ tNext (.undervolt 17000) s = s := by decide +kernel

/-- R92: a second VERIFY while one runs changes nothing. -/
theorem test_verify_runs_once : tNext .seqVerify (tNext .seqVerify State.reset) = tNext .seqVerify State.reset := by decide +kernel

/-- R362: HOLD_SET with bit 31 of word 7 holds loop 255 and not loop 31. -/
theorem test_hold_set_word_seven :
    (tNext (.loopHoldSet 7 0x80000000) State.reset).lb 255 0 22 1 = 1 ∧ (tNext (.loopHoldSet 7 0x80000000) State.reset).lb 31 0 22 1 = 0 := by decide +kernel

/-- R512: SWITCH of a verified bank while bank A runs makes bank B the boot bank. -/
theorem test_cfg_switch_boots_the_other : (tNext .cfgSwitch (State.reset.setB cfgVer true)).rd 0x1044 = 0x26 := by decide +kernel

end Witnesses
end

section
/-! ## The day type of a local day (R174)

`State.dayType` searches the 64 records of the day calendar from index 0 up. What the search finds is the record that R174 means: with two
records of one day, the lower index; with none, the default of the day of the week. A record is defined when bit 31 of its word 1 is set,
which is the model's reading (assumption 54). -/

namespace Sys2Proof.Machine

/-- Record `i` of the day calendar is defined and names the local day `day`: the test of the search of `State.dayType`. -/
def calNames (m : SMap) (day i : Nat) : Bool :=
  wbit (serWord m 0x250C i 1) 31 && (serWord m 0x250C i 0).toNat == day

theorem calNames_iff {m : SMap} {day i : Nat} :
    calNames m day i = true ↔ wbit (serWord m 0x250C i 1) 31 = true ∧ (serWord m 0x250C i 0).toNat = day := by
  simp only [calNames, Bool.and_eq_true, beq_iff_eq]

/-- The record that the search finds gives its TYPE. -/
theorem dayType_of_find?_eq_some {s : State} {m : SMap} {day i : Nat} (h : (List.range 64).find? (calNames m day) = some i) :
    s.dayType m day = wbits (serWord m 0x250C i 1) 0 3 := by
  unfold calNames at h
  simp only [State.dayType, h]

/-- A search that finds no record gives the type of the day of the week in OPT_DAYTYPE_DEF. -/
theorem dayType_of_find?_eq_none {s : State} {m : SMap} {day : Nat} (h : (List.range 64).find? (calNames m day) = none) :
    s.dayType m day = s.fld ⟨0x25064, 3 * weekday day, 3⟩ := by
  unfold calNames at h
  simp only [State.dayType, h]

/-- The lowest index that names the day decides. -/
theorem dayType_of_lowest {s : State} {m : SMap} {day i : Nat} (hi : i < 64) (hnames : calNames m day i = true)
    (hlow : ∀ j < i, ¬ calNames m day j = true) : s.dayType m day = wbits (serWord m 0x250C i 1) 0 3 := by
  have hfind : (List.range 64).find? (calNames m day) = some i :=
    List.find?_range_eq_some.2 ⟨hnames, List.mem_range.2 hi, fun j hj => by simpa using hlow j hj⟩
  exact dayType_of_find?_eq_some hfind

/-- A day that no record names has the default of its day of the week. -/
theorem dayType_of_unnamed {s : State} {m : SMap} {day : Nat} (hnone : ∀ i < 64, ¬ calNames m day i = true) :
    s.dayType m day = s.fld ⟨0x25064, 3 * weekday day, 3⟩ := by
  have hfind : (List.range 64).find? (calNames m day) = none :=
    List.find?_range_eq_none.2 fun i hi => by simpa using hnone i hi
  exact dayType_of_find?_eq_none hfind

/-- Settles O51: the two outcomes of the search of the day calendar. The indices below the lowest one are in range with it. -/
theorem theDayTypeOfALocalDay : Obligations.TheDayTypeOfALocalDay := by
  intro s m day names
  refine ⟨fun i ⟨hi, hnames⟩ hlow => ?_, fun hnone => ?_⟩
  · exact dayType_of_lowest hi (calNames_iff.2 hnames) fun j hj hj' => hlow j hj ⟨hj.trans hi, calNames_iff.1 hj'⟩
  · exact dayType_of_unnamed fun i hi hi' => hnone i ⟨hi, calNames_iff.1 hi'⟩

end Sys2Proof.Machine
end

section
/-! ## Ownership requests on receipt (R428, R437, R439, R440)

An ownership request that is admitted runs on a state that receiving it leaves, `State.taken`, changed in the host block alone: an OWN_REQ
notes its PRIO in the session first, the owner's own renews the lease. `Receipt` says what all these states have of the state before. From
any of them a response leaves the queue of ownership requests and the owner (`AnswersAtOnce`), and a request that is held only joins the end
of that queue (`WaitsForTick`). -/

namespace Sys2Proof.Machine

/-! ### What receiving a request leaves of the tables and the clock -/

/-- The two outcomes of R423 for a request that passes: its session was opening, or it was not. -/
theorem taken_eq {s : State} {k : Kwp} (h : s.passes k) :
    s.taken k = if (s.sess k.ses).st = 1 then
        (((s.bump .HOST_RX_OK).sessMod k.ses (fun x => x.received k s.fno)).bump .HOST_OPEN).raiseEv 0x0B 3
      else (s.bump .HOST_RX_OK).sessMod k.ses (fun x => x.received k s.fno) := by
  obtain ⟨haddr, hfmt, hport, hses, hst, hsport, hsvc, htag, hreplay⟩ := h
  have hses' : ¬ 8 ≤ k.ses := by omega
  simp only [State.taken, State.recvKwp, haddr, hfmt, hport, hst, hsport, hsvc, htag, hreplay, hses', Bool.not_true, Bool.false_eq_true,
    if_false, decide_false, bne_self_eq_false, Bool.or_false]
  split <;> rfl

/-- Receiving a request touches no table beside those of events. -/
theorem taken_tblBut {s : State} {k : Kwp} (h : s.passes k) : s.tblBut (s.taken k) (fun tid _ _ => evTbl tid) := by
  have hrecv : s.tblBut ((s.bump .HOST_RX_OK).sessMod k.ses (fun x => x.received k s.fno)) (fun tid _ _ => evTbl tid) :=
    tblBut_of_tbl (by simp) _
  rw [taken_eq h]
  split
  · have hopen := tblBut_trans hrecv (tblBut_of_tbl (tbl_bump _ .HOST_OPEN) _)
    exact tblBut_trans hopen (evNear_raiseEv (Near.refl _ _ _) (by decide)).tbl
  · exact hrecv

/-- The credentials are in no table of events, whatever number of a credential a session names. -/
theorem not_evTbl_credential (c : Nat) : ¬ evTbl (tkeyTid (tkey 0x0B00 c 0)) := by
  unfold evTbl tkeyTid tkey
  omega

theorem taken_tfld_credential {s : State} {k : Kwp} (h : s.passes k) (c lo n : Nat) :
    (s.taken k).tfld 0x0B00 c 0 lo n = s.tfld 0x0B00 c 0 lo n :=
  congrArg (wbits · lo n) (taken_tblBut h (tkey 0x0B00 c 0) (not_evTbl_credential c))

theorem not_hostReg_frameNo : ¬ hostReg 0x604C := by
  unfold hostReg evReg
  decide

theorem taken_twin (s : State) (k : Kwp) : (s.taken k).twin = s.twin :=
  (recvKwp_keeps (Keeps.refl _ s) (List.Subset.refl _)).only .twin (by decide)

/-! ### The states a request is answered or held from -/

/-- The PRIO that HOST_SESS shows of the session's last OWN_REQ. -/
def State.prioNoted (s : State) (k : Kwp) (prio : Nat) : State := s.sessMod k.ses (fun x => { x with prio := prio % 8 })

/-- `u` has the receipt of `k` at `s` behind it, and no decision about the request: beside the host block it is as receiving the request
leaves it, ownership and the requests for it are as they were, and the session will answer under its next SEQ. -/
structure Receipt (s : State) (k : Kwp) (u : State) : Prop where
  only : (s.taken k).onlyIn u [.host, .items]
  ownQ : u.host.ownQ = s.host.ownQ
  owner : u.host.owner = s.host.owner
  isOwner : u.isOwner k.ses = s.isOwner k.ses
  listed : k.ses < u.host.sess.length
  svc : (u.sess k.ses).svc = k.svc
  txSeq : (u.sess k.ses).txSeq = (s.sess k.ses).txSeq
  gen : (u.sess k.ses).gen = (s.sess k.ses).gen
  cred : (u.sess k.ses).cred = (s.sess k.ses).cred

theorem receipt_taken {s : State} {k : Kwp} (h : s.passes k) : Receipt s k (s.taken k) where
  only := onlyIn_refl _ _
  ownQ := taken_ownQ h
  owner := taken_owner h
  isOwner := taken_isOwner h k.ses
  listed := sess_lt (taken_st_ne h)
  svc := taken_svc h
  txSeq := taken_txSeq h
  gen := taken_gen h
  cred := taken_cred h

theorem Receipt.prioNoted {s u : State} {k : Kwp} (h : Receipt s k u) (prio : Nat) : Receipt s k (u.prioNoted k prio) := by
  have hsess : (u.prioNoted k prio).sess k.ses = { u.sess k.ses with prio := prio % 8 } := sess_sessMod_same _ _ _ h.listed
  exact {
    only := onlyIn_trans h.only (sessMod_only _ _ _)
    ownQ := h.ownQ
    owner := h.owner
    isOwner := h.isOwner
    listed := h.listed.trans_eq (modAt_length _ _ _).symm
    svc := by rw [hsess]; exact h.svc
    txSeq := by rw [hsess]; exact h.txSeq
    gen := by rw [hsess]; exact h.gen
    cred := by rw [hsess]; exact h.cred }

theorem Receipt.leaseRenewed {s u : State} {k : Kwp} (h : Receipt s k u) (f : Nat) :
    Receipt s k (u.hostMod (fun x => { x with leaseAt := f })) where
  only := onlyIn_trans h.only (hostMod_only _ _)
  ownQ := h.ownQ
  owner := h.owner
  isOwner := h.isOwner
  listed := h.listed
  svc := h.svc
  txSeq := h.txSeq
  gen := h.gen
  cred := h.cred

theorem Receipt.sent {s u : State} {k : Kwp} (h : Receipt s k u) (hp : s.passes k) : u.sent = s.sent := by
  have hsent : u.sent = (s.taken k).sent := h.only .sent (by decide)
  rw [hsent, taken_sent hp]

theorem Receipt.cfg {s u : State} {k : Kwp} (h : Receipt s k u) : u.cfg = s.cfg := by
  have hcfg : u.cfg = (s.taken k).cfg := h.only .cfg (by decide)
  rw [hcfg, taken_cfg]

theorem Receipt.rd {s u : State} {k : Kwp} (h : Receipt s k u) (hp : s.passes k) {a : Nat} (ha : ¬ hostReg a) : u.rd a = s.rd a := by
  have hregs : u.regs = (s.taken k).regs := h.only .regs (by decide)
  have hrd : u.rd a = (s.taken k).rd a := by rw [State.rd, State.rd, hregs]
  exact hrd.trans (taken_rd hp ha)

theorem Receipt.says {s u : State} {k : Kwp} (h : Receipt s k u) (hp : s.passes k) (svc : Bool) (m : OutMsg) :
    u.says svc m = s.says svc m := says_of_rd (h.rd hp not_hostReg_state) h.cfg svc m

theorem Receipt.fno {s u : State} {k : Kwp} (h : Receipt s k u) (hp : s.passes k) : u.fno = s.fno := by
  have hstate := fld_of_rd (f := ⟨0x0054, 28, 4⟩) (h.rd hp not_hostReg_state)
  have hframe := fld_of_rd (f := wordAt 0x604C) (h.rd hp not_hostReg_frameNo)
  have htwin : u.twin = (s.taken k).twin := h.only .twin (by decide)
  unfold State.fno State.recRun State.ownFno
  rw [hstate, hframe, htwin, taken_twin]

/-- The words of the session's credential that MAY_OWN, MAX_PRIO and OVERRIDE stand in read as they did. -/
theorem Receipt.credential {s u : State} {k : Kwp} (h : Receipt s k u) (hp : s.passes k) (lo n : Nat) :
    u.tfld 0x0B00 (u.sess k.ses).cred 0 lo n = s.tfld 0x0B00 (s.sess k.ses).cred 0 lo n := by
  have htbl : u.tbl = (s.taken k).tbl := h.only .tbl (by decide)
  rw [h.cred, ← taken_tfld_credential hp, State.tfld, State.tfld, State.trd, State.trd, htbl]

theorem Receipt.ownerWord {s u : State} {k : Kwp} (h : Receipt s k u) : u.ownerWord = s.ownerWord := by
  rw [State.ownerWord, State.ownerWord, h.owner]

/-! ### The two ways a request goes on -/

/-- The request completes on receipt, and changes neither the owner nor what waits. -/
def AnswersAtOnce (s : State) (k : Kwp) (c : Instr) (op : Nat) (st : Status) (data : List Word) : Prop :=
  runs c s (fun t => s.replied t k op st data ∧ t.host.ownQ = s.host.ownQ ∧ t.host.owner = s.host.owner
    ∧ (s.taken k).onlyIn t [.host, .items, .sent])

/-- The request joins the end of the ownership requests and is not answered yet. -/
def WaitsForTick (s : State) (k : Kwp) (c : Instr) (op : HOp) : Prop :=
  runs c s (fun t => t.host.ownQ = s.host.ownQ ++ [⟨k.ses, (s.sess k.ses).gen, k.reqId, op⟩] ∧ t.sent = s.sent ∧ t.host.owner = s.host.owner
    ∧ k.reqId ∈ (t.sess k.ses).inflight ∧ (s.taken k).onlyIn t [.host, .items])

theorem answersAtOnce_of_respond {s u : State} {k : Kwp} {c : Instr} {op : Nat} {st : Status} {data : List Word} (hp : s.passes k)
    (hu : Receipt s k u) (he : exec c s = .next (u.respond k.ses k.reqId op st data)) : AnswersAtOnce s k c op st data := by
  refine ⟨_, he, ?_, hu.ownQ, hu.owner, ?_⟩
  · rw [State.replied, respond_sent, hu.sent hp, hu.svc, hu.txSeq, hu.says hp]
  · exact onlyIn_trans (onlyIn_mono hu.only (by decide)) (respond_only _ _ _ _ _ _)

theorem waitsForTick_of_holdOwn {s u : State} {k : Kwp} {c : Instr} {op : HOp} (hp : s.passes k) (hu : Receipt s k u)
    (he : exec c s = .next (u.holdOwn k op)) : WaitsForTick s k c op := by
  refine ⟨_, he, ?_, hu.sent hp, hu.owner, ?_, ?_⟩
  · exact congrArg₂ (fun q g => q ++ [⟨k.ses, g, k.reqId, op⟩]) hu.ownQ hu.gen
  · have hsess : (u.holdOwn k op).sess k.ses = { u.sess k.ses with inflight := (u.sess k.ses).inflight ++ [k.reqId] } :=
      sess_sessMod_same _ _ _ hu.listed
    rw [hsess]
    exact List.mem_append_right _ (List.mem_singleton_self _)
  · exact onlyIn_trans hu.only (holdOwn_keeps (Keeps.refl _ u) (List.Subset.refl _)).only

/-! ### The commands -/

/-- The credential of the session forbids the OWN_REQ (R437). -/
def State.ownReqForbidden (s : State) (i prio ovr : Nat) : Bool :=
  !s.mayOwn i || decide (s.maxPrio i < prio) || (ovr == 1 && !s.mayOverride i)

theorem ownReqForbidden_eq_true {s : State} {i prio ovr : Nat} :
    s.ownReqForbidden i prio ovr = true ↔ s.mayOwn i = false ∨ s.maxPrio i < prio ∨ (ovr = 1 ∧ s.mayOverride i = false) := by
  simp [State.ownReqForbidden, or_assoc]

theorem ownReqForbidden_eq_false {s : State} {i prio ovr : Nat} :
    s.ownReqForbidden i prio ovr = false ↔ s.mayOwn i = true ∧ prio ≤ s.maxPrio i ∧ (ovr = 1 → s.mayOverride i = true) := by
  simp [State.ownReqForbidden, and_assoc]

theorem Receipt.ownReqForbidden {s u : State} {k : Kwp} (h : Receipt s k u) (hp : s.passes k) (prio ovr : Nat) :
    u.ownReqForbidden k.ses prio ovr = s.ownReqForbidden k.ses prio ovr := by
  have hmay : u.mayOwn k.ses = s.mayOwn k.ses := congrArg (· == 1) (h.credential hp 30 1)
  have hprio : u.maxPrio k.ses = s.maxPrio k.ses := h.credential hp 24 3
  have hover : u.mayOverride k.ses = s.mayOverride k.ses := congrArg (· == 1) (h.credential hp 29 1)
  rw [State.ownReqForbidden, State.ownReqForbidden, hmay, hprio, hover]

section OwnReq
variable {s : State} {k : Kwp} {prio ovr : Nat}

/-- What an admitted OWN_REQ does, its checks read in the state before it. -/
theorem exec_ownReq (h : s.admits k) (u : State) (hu : u = (s.taken k).prioNoted k prio) :
    exec (.ownReq k prio ovr) s = .next (
      if s.ownReqForbidden k.ses prio ovr then u.respond k.ses k.reqId 10 .authFail [s.ownerWord]
      else if 1 < ovr then u.respond k.ses k.reqId 10 .range [s.ownerWord]
      else if s.cfg.pair && (k.ses == 6 || k.ses == 7) then u.respond k.ses k.reqId 10 .refused [s.ownerWord]
      else if s.isOwner k.ses then (u.hostMod (fun x => { x with leaseAt := s.fno })).respond k.ses k.reqId 10 .ok [s.ownerWord]
      else u.holdOwn k (.ownReq prio (ovr == 1))) := by
  have hr : Receipt s k u := hu ▸ (receipt_taken h.1).prioNoted prio
  rw [← hr.ownReqForbidden h.1, ← hr.ownerWord, ← hr.cfg, ← hr.isOwner, ← hr.fno h.1, hu]
  exact congrArg Host.Outcome.next (request_admits h 10 _)

theorem ownReq_authFail (h : s.admits k) (hforb : s.ownReqForbidden k.ses prio ovr = true) :
    AnswersAtOnce s k (.ownReq k prio ovr) 10 .authFail [s.ownerWord] := by
  refine answersAtOnce_of_respond h.1 ((receipt_taken h.1).prioNoted prio) ?_
  rw [exec_ownReq h _ rfl, if_pos hforb]

theorem ownReq_range (h : s.admits k) (hforb : s.ownReqForbidden k.ses prio ovr = false) (hovr : 1 < ovr) :
    AnswersAtOnce s k (.ownReq k prio ovr) 10 .range [s.ownerWord] := by
  refine answersAtOnce_of_respond h.1 ((receipt_taken h.1).prioNoted prio) ?_
  rw [exec_ownReq h _ rfl, hforb, if_neg Bool.false_ne_true, if_pos hovr]

theorem ownReq_refused (h : s.admits k) (hforb : s.ownReqForbidden k.ses prio ovr = false) (hovr : ovr ≤ 1)
    (hpair : s.cfg.pair = true) (hses : k.ses = 6 ∨ k.ses = 7) :
    AnswersAtOnce s k (.ownReq k prio ovr) 10 .refused [s.ownerWord] := by
  refine answersAtOnce_of_respond h.1 ((receipt_taken h.1).prioNoted prio) ?_
  have hown : (s.cfg.pair && (k.ses == 6 || k.ses == 7)) = true := by simpa [hpair] using hses
  rw [exec_ownReq h _ rfl, hforb, if_neg Bool.false_ne_true, if_neg (by omega), if_pos hown]

/-- An OWN_REQ that no check stops goes on by ownership alone. -/
theorem exec_ownReq_allowed (h : s.admits k) (u : State) (hu : u = (s.taken k).prioNoted k prio)
    (hforb : s.ownReqForbidden k.ses prio ovr = false) (hovr : ovr ≤ 1) (hpair : s.cfg.pair = false ∨ k.ses < 6) :
    exec (.ownReq k prio ovr) s = .next (
      if s.isOwner k.ses then (u.hostMod (fun x => { x with leaseAt := s.fno })).respond k.ses k.reqId 10 .ok [s.ownerWord]
      else u.holdOwn k (.ownReq prio (ovr == 1))) := by
  have hserved : ¬ (s.cfg.pair && (k.ses == 6 || k.ses == 7)) = true := by
    simp only [Bool.and_eq_true, Bool.or_eq_true, beq_iff_eq]
    rintro ⟨hp, hses⟩
    rcases hpair with hs | hs
    · exact Bool.false_ne_true (hs.symm.trans hp)
    · omega
  rw [exec_ownReq h u hu, hforb, if_neg Bool.false_ne_true, if_neg (by omega), if_neg hserved]

theorem ownReq_waits (h : s.admits k) (hforb : s.ownReqForbidden k.ses prio ovr = false) (hovr : ovr ≤ 1)
    (hpair : s.cfg.pair = false ∨ k.ses < 6) (hown : s.isOwner k.ses = false) :
    WaitsForTick s k (.ownReq k prio ovr) (.ownReq prio (ovr == 1)) := by
  refine waitsForTick_of_holdOwn h.1 ((receipt_taken h.1).prioNoted prio) ?_
  rw [exec_ownReq_allowed h _ rfl hforb hovr hpair, hown, if_neg Bool.false_ne_true]

theorem ownReq_renews (h : s.admits k) (hforb : s.ownReqForbidden k.ses prio ovr = false) (hovr : ovr ≤ 1)
    (hpair : s.cfg.pair = false ∨ k.ses < 6) (hown : s.isOwner k.ses = true) :
    AnswersAtOnce s k (.ownReq k prio ovr) 10 .ok [s.ownerWord] ∧ runs (.ownReq k prio ovr) s (fun t => t.host.leaseAt = s.fno) := by
  have he := exec_ownReq_allowed h _ rfl hforb hovr hpair
  rw [if_pos hown] at he
  exact ⟨answersAtOnce_of_respond h.1 (((receipt_taken h.1).prioNoted prio).leaseRenewed s.fno) he, _, he, rfl⟩

end OwnReq

section OwnersRequests
variable {s : State} {k : Kwp}

theorem exec_ownRenew (h : s.admits k) :
    exec (.ownRenew k) s = .next (if s.isOwner k.ses then (s.taken k).holdOwn k .renew
      else (s.taken k).respond k.ses k.reqId 11 .denied []) := by
  rw [← taken_isOwner h.1]
  exact congrArg Host.Outcome.next (request_admits h 11 _)

theorem exec_ownRelease (h : s.admits k) :
    exec (.ownRelease k) s = .next (if s.isOwner k.ses then (s.taken k).holdOwn k .release
      else (s.taken k).respond k.ses k.reqId 13 .denied []) := by
  rw [← taken_isOwner h.1]
  exact congrArg Host.Outcome.next (request_admits h 13 _)

theorem exec_ownHandover (h : s.admits k) (dst : Nat) :
    exec (.ownHandover k dst) s = .next (if !s.isOwner k.ses then (s.taken k).respond k.ses k.reqId 12 .denied []
      else (s.taken k).holdOwn k (.handover dst)) := by
  rw [← taken_isOwner h.1]
  exact congrArg Host.Outcome.next (request_admits h 12 _)

/-- What the owner alone may ask waits when the owner asks it. -/
theorem ownersRequests_wait (h : s.admits k) (hown : s.isOwner k.ses = true) :
    WaitsForTick s k (.ownRenew k) .renew ∧ WaitsForTick s k (.ownRelease k) .release
      ∧ ∀ dst, WaitsForTick s k (.ownHandover k dst) (.handover dst) := by
  refine ⟨waitsForTick_of_holdOwn h.1 (receipt_taken h.1) ?_, waitsForTick_of_holdOwn h.1 (receipt_taken h.1) ?_,
    fun dst => waitsForTick_of_holdOwn h.1 (receipt_taken h.1) ?_⟩
  · rw [exec_ownRenew h, if_pos hown]
  · rw [exec_ownRelease h, if_pos hown]
  · rw [exec_ownHandover h, hown]
    rfl

theorem ownersRequests_denied (h : s.admits k) (hown : s.isOwner k.ses = false) :
    AnswersAtOnce s k (.ownRenew k) 11 .denied [] ∧ AnswersAtOnce s k (.ownRelease k) 13 .denied []
      ∧ ∀ dst, AnswersAtOnce s k (.ownHandover k dst) 12 .denied [] := by
  refine ⟨answersAtOnce_of_respond h.1 (receipt_taken h.1) ?_, answersAtOnce_of_respond h.1 (receipt_taken h.1) ?_,
    fun dst => answersAtOnce_of_respond h.1 (receipt_taken h.1) ?_⟩
  · rw [exec_ownRenew h, hown, if_neg Bool.false_ne_true]
  · rw [exec_ownRelease h, hown, if_neg Bool.false_ne_true]
  · rw [exec_ownHandover h, hown]
    rfl

end OwnersRequests

/-- Settles O14: the clauses are the outcomes of the checks in their order, each from a state that only the receipt of the request has
changed. -/
theorem ownershipRequestsWait : Obligations.OwnershipRequestsWait := by
  intro k s h waits answers
  refine ⟨fun prio ovr hovr hmay hprio hover hpair => ?_, fun prio ovr hforb => ?_, fun prio ovr hovr hmay hprio => ?_,
    fun prio ovr hovr hmay hprio hover hpair hses => ?_, ownersRequests_wait h, ownersRequests_denied h⟩
  · have hforb := ownReqForbidden_eq_false.2 ⟨hmay, hprio, hover⟩
    exact ⟨ownReq_waits h hforb hovr hpair, ownReq_renews h hforb hovr hpair⟩
  · exact ownReq_authFail h (ownReqForbidden_eq_true.2 hforb)
  · exact ownReq_range h (ownReqForbidden_eq_false.2 ⟨hmay, hprio, fun h1 => by omega⟩) hovr
  · exact ownReq_refused h (ownReqForbidden_eq_false.2 ⟨hmay, hprio, hover⟩) hovr hpair hses

end Sys2Proof.Machine
end

section
/-! ## When a standby module is ELIGIBLE (R473)

`State.eligible'` reads CLK_OK from the lock bits of the twelve clock domains and TEST_FAIL as one bit of HLTH_STAT. Each of the two gets
the field value that it stands for; the rest of R473 is the conjunction itself. -/

namespace Sys2Proof.Machine

/-- A field that reads as a clear bit holds 0. -/
theorem bit_eq_false_iff {s : State} {f : Fld} : s.bit f = false ↔ s.fld f = 0 := by
  unfold State.bit
  exact bne_eq_false_iff_eq

/-- CLK_OK is 1 (R472) when all twelve clock domains show their lock. -/
theorem clkOk_iff {s : State} : s.clkOk = true ↔ s.fld ⟨0x3040, 0, 12⟩ = 4095 := by
  unfold State.clkOk
  exact beq_iff_eq

/-- The conditions of R473, each as the model computes it. -/
theorem eligible'_iff {s : State} : s.eligible' = true ↔
    s.mstate = 3 ∧ s.twin.instep = true ∧ s.twin.agreed = true ∧ (s.lineUp 0 = true ∨ s.lineUp 1 = true) ∧ s.clkOk = true
      ∧ s.bit testFail = false := by
  simp only [State.eligible', Bool.and_eq_true, Bool.or_eq_true, Bool.not_eq_true', beq_iff_eq, and_assoc]

/-- Settles O56: CLK_OK and TEST_FAIL are the two field values that the statement names. -/
theorem whenAStandbyModuleIsEligible : Obligations.WhenAStandbyModuleIsEligible := by
  intro s
  rw [eligible'_iff, clkOk_iff, bit_eq_false_iff]
  rfl

end Sys2Proof.Machine
end

section
/-! ## Every command (spec/95)

What `Laws/` says of each meaning, gathered over the rows: a command answers a next state, keeps the canonical form and the queue, and
changes no part of the state beside `cmdParts` of it. -/

namespace Sys2Proof.Machine

/-- A command keeps the canonical form and the queue of commands, and changes no part beside its own. -/
theorem exec_keeps (c : Instr) (s : State) : KeepsO (cmdParts c) s (exec c s) :=
  match c with
  | .frameTick .. => execFrameTick_keeps (Keeps.refl _ s) (of_decide_eq_true rfl)
  | .nop .. => execNop_keeps (Keeps.refl _ s) (of_decide_eq_true rfl)
  | .endEntry => execEndEntry_keeps (Keeps.refl _ s) (of_decide_eq_true rfl)
  | .publish .. => execPublish_keeps (Keeps.refl _ s) (of_decide_eq_true rfl)
  | .snap .. => execSnap_keeps (Keeps.refl _ s) (of_decide_eq_true rfl)
  | .launchArm .. => execLaunchArm_keeps (Keeps.refl _ s) (of_decide_eq_true rfl)
  | .adcSel .. => execAdcSel_keeps (Keeps.refl _ s) (of_decide_eq_true rfl)
  | .adcTrig .. => execAdcTrig_keeps (Keeps.refl _ s) (of_decide_eq_true rfl)
  | .modLatch .. => execModLatch_keeps (Keeps.refl _ s) (of_decide_eq_true rfl)
  | .emetClose .. => execEmetClose_keeps (Keeps.refl _ s) (of_decide_eq_true rfl)
  | .hmetClose .. => execHmetClose_keeps (Keeps.refl _ s) (of_decide_eq_true rfl)
  | .loopGroup .. => execLoopGroup_keeps (Keeps.refl _ s) (of_decide_eq_true rfl)
  | .cpeTask .. => execCpeTask_keeps (Keeps.refl _ s) (of_decide_eq_true rfl)
  | .modelHyd .. => execModelHyd_keeps (Keeps.refl _ s) (of_decide_eq_true rfl)
  | .modelThm .. => execModelThm_keeps (Keeps.refl _ s) (of_decide_eq_true rfl)
  | .modelArr .. => execModelArr_keeps (Keeps.refl _ s) (of_decide_eq_true rfl)
  | .arrPartStale .. => execArrPartStale_keeps (Keeps.refl _ s) (of_decide_eq_true rfl)
  | .leakDetect .. => execLeakDetect_keeps (Keeps.refl _ s) (of_decide_eq_true rfl)
  | .gspTx .. => execGspTx_keeps (Keeps.refl _ s) (of_decide_eq_true rfl)
  | .gspRxclose .. => execGspRxclose_keeps (Keeps.refl _ s) (of_decide_eq_true rfl)
  | .nodeSilent .. => execNodeSilent_keeps (Keeps.refl _ s) (of_decide_eq_true rfl)
  | .nodeLost .. => execNodeLost_keeps (Keeps.refl _ s) (of_decide_eq_true rfl)
  | .canRef .. => execCanRef_keeps (Keeps.refl _ s) (of_decide_eq_true rfl)
  | .stnDrop .. => execStnDrop_keeps (Keeps.refl _ s) (of_decide_eq_true rfl)
  | .canTx .. => execCanTx_keeps (Keeps.refl _ s) (of_decide_eq_true rfl)
  | .twinRec .. => execTwinRec_keeps (Keeps.refl _ s) (of_decide_eq_true rfl)
  | .entryDeadline .. => execEntryDeadline_keeps (Keeps.refl _ s) (of_decide_eq_true rfl)
  | .engineLost .. => execEngineLost_keeps (Keeps.refl _ s) (of_decide_eq_true rfl)
  | .timedCommit .. => execTimedCommit_keeps (Keeps.refl _ s) (of_decide_eq_true rfl)
  | .seqBankSwitch => execSeqBankSwitch_keeps (Keeps.refl _ s) (of_decide_eq_true rfl)
  | .modelBankSwitch => execModelBankSwitch_keeps (Keeps.refl _ s) (of_decide_eq_true rfl)
  | .optBankSwitch => execOptBankSwitch_keeps (Keeps.refl _ s) (of_decide_eq_true rfl)
  | .cpeBankSwitch .. => execCpeBankSwitch_keeps (Keeps.refl _ s) (of_decide_eq_true rfl)
  | .kwpOpen .. => execKwpOpen_keeps (Keeps.refl _ s) (of_decide_eq_true rfl)
  | .sessionOpeningTimeout .. => execSessionOpeningTimeout_keeps (Keeps.refl _ s) (of_decide_eq_true rfl)
  | .sessionIdleTimeout .. => execSessionIdleTimeout_keeps (Keeps.refl _ s) (of_decide_eq_true rfl)
  | .dormancyTimeout .. => execDormancyTimeout_keeps (Keeps.refl _ s) (of_decide_eq_true rfl)
  | .read .. => execRead_keeps (Keeps.refl _ s) (of_decide_eq_true rfl)
  | .write .. => execWrite_keeps (Keeps.refl _ s) (of_decide_eq_true rfl)
  | .readBlock .. => execReadBlock_keeps (Keeps.refl _ s) (of_decide_eq_true rfl)
  | .writeBlock .. => execWriteBlock_keeps (Keeps.refl _ s) (of_decide_eq_true rfl)
  | .tableRead .. => execTableRead_keeps (Keeps.refl _ s) (of_decide_eq_true rfl)
  | .tableWrite .. => execTableWrite_keeps (Keeps.refl _ s) (of_decide_eq_true rfl)
  | .cancel .. => execCancel_keeps (Keeps.refl _ s) (of_decide_eq_true rfl)
  | .solve .. => execSolve_keeps (Keeps.refl _ s) (of_decide_eq_true rfl)
  | .abort .. => execAbort_keeps (Keeps.refl _ s) (of_decide_eq_true rfl)
  | .privReq .. => execPrivReq_keeps (Keeps.refl _ s) (of_decide_eq_true rfl)
  | .cqRead .. => execCqRead_keeps (Keeps.refl _ s) (of_decide_eq_true rfl)
  | .notifyCfg .. => execNotifyCfg_keeps (Keeps.refl _ s) (of_decide_eq_true rfl)
  | .ownReq .. => execOwnReq_keeps (Keeps.refl _ s) (of_decide_eq_true rfl)
  | .ownershipResolve => execOwnershipResolve_keeps (Keeps.refl _ s) (of_decide_eq_true rfl)
  | .ownRenew .. => execOwnRenew_keeps (Keeps.refl _ s) (of_decide_eq_true rfl)
  | .ownHandover .. => execOwnHandover_keeps (Keeps.refl _ s) (of_decide_eq_true rfl)
  | .ownRelease .. => execOwnRelease_keeps (Keeps.refl _ s) (of_decide_eq_true rfl)
  | .leaseLapsed => execLeaseLapsed_keeps (Keeps.refl _ s) (of_decide_eq_true rfl)
  | .dormant .. => execDormant_keeps (Keeps.refl _ s) (of_decide_eq_true rfl)
  | .resume .. => execResume_keeps (Keeps.refl _ s) (of_decide_eq_true rfl)
  | .closeReq .. => execCloseReq_keeps (Keeps.refl _ s) (of_decide_eq_true rfl)
  | .notifySend .. => execNotifySend_keeps (Keeps.refl _ s) (of_decide_eq_true rfl)
  | .wakeOnLan .. => execWakeOnLan_keeps (Keeps.refl _ s) (of_decide_eq_true rfl)
  | .kick .. => execKick_keeps (Keeps.refl _ s) (of_decide_eq_true rfl)
  | .registerWrite .. => execRegisterWrite_keeps (Keeps.refl _ s) (of_decide_eq_true rfl)
  | .srst .. => execSrst_keeps (Keeps.refl _ s) (of_decide_eq_true rfl)
  | .freeze .. => execFreeze_keeps (Keeps.refl _ s) (of_decide_eq_true rfl)
  | .frzTmo .. => execFrzTmo_keeps (Keeps.refl _ s) (of_decide_eq_true rfl)
  | .commit .. => execCommit_keeps (Keeps.refl _ s) (of_decide_eq_true rfl)
  | .discard .. => execDiscard_keeps (Keeps.refl _ s) (of_decide_eq_true rfl)
  | .pgEvtSet .. => execPgEvtSet_keeps (Keeps.refl _ s) (of_decide_eq_true rfl)
  | .pgEvtClr .. => execPgEvtClr_keeps (Keeps.refl _ s) (of_decide_eq_true rfl)
  | .pgMaskSet .. => execPgMaskSet_keeps (Keeps.refl _ s) (of_decide_eq_true rfl)
  | .pgMaskClr .. => execPgMaskClr_keeps (Keeps.refl _ s) (of_decide_eq_true rfl)
  | .counterClear .. => execCounterClear_keeps (Keeps.refl _ s) (of_decide_eq_true rfl)
  | .seqVerify => execSeqVerify_keeps (Keeps.refl _ s) (of_decide_eq_true rfl)
  | .seqVerifyEnd => execSeqVerifyEnd_keeps (Keeps.refl _ s) (of_decide_eq_true rfl)
  | .seqSwitch => execSeqSwitch_keeps (Keeps.refl _ s) (of_decide_eq_true rfl)
  | .seqCancel => execSeqCancel_keeps (Keeps.refl _ s) (of_decide_eq_true rfl)
  | .ptpSyncRx .. => execPtpSyncRx_keeps (Keeps.refl _ s) (of_decide_eq_true rfl)
  | .ptpAnnounceRx .. => execPtpAnnounceRx_keeps (Keeps.refl _ s) (of_decide_eq_true rfl)
  | .ptpPdelayExchange .. => execPtpPdelayExchange_keeps (Keeps.refl _ s) (of_decide_eq_true rfl)
  | .ppsEdge .. => execPpsEdge_keeps (Keeps.refl _ s) (of_decide_eq_true rfl)
  | .todSentenceRx .. => execTodSentenceRx_keeps (Keeps.refl _ s) (of_decide_eq_true rfl)
  | .sourceInvalid => execSourceInvalid_keeps (Keeps.refl _ s) (of_decide_eq_true rfl)
  | .sourceUpgrade => execSourceUpgrade_keeps (Keeps.refl _ s) (of_decide_eq_true rfl)
  | .initSet => execInitSet_keeps (Keeps.refl _ s) (of_decide_eq_true rfl)
  | .stepAccept => execStepAccept_keeps (Keeps.refl _ s) (of_decide_eq_true rfl)
  | .stepApplied => execStepApplied_keeps (Keeps.refl _ s) (of_decide_eq_true rfl)
  | .relearn => execRelearn_keeps (Keeps.refl _ s) (of_decide_eq_true rfl)
  | .clrCnt => execClrCnt_keeps (Keeps.refl _ s) (of_decide_eq_true rfl)
  | .learnMinute .. => execLearnMinute_keeps (Keeps.refl _ s) (of_decide_eq_true rfl)
  | .arm .. => execArm_keeps (Keeps.refl _ s) (of_decide_eq_true rfl)
  | .disarm .. => execDisarm_keeps (Keeps.refl _ s) (of_decide_eq_true rfl)
  | .launchFire .. => execLaunchFire_keeps (Keeps.refl _ s) (of_decide_eq_true rfl)
  | .parcelReset => execParcelReset_keeps (Keeps.refl _ s) (of_decide_eq_true rfl)
  | .adaptReset => execAdaptReset_keeps (Keeps.refl _ s) (of_decide_eq_true rfl)
  | .modelVerify => execModelVerify_keeps (Keeps.refl _ s) (of_decide_eq_true rfl)
  | .modelVerifyEnd => execModelVerifyEnd_keeps (Keeps.refl _ s) (of_decide_eq_true rfl)
  | .modelSwitch => execModelSwitch_keeps (Keeps.refl _ s) (of_decide_eq_true rfl)
  | .modelCancel => execModelCancel_keeps (Keeps.refl _ s) (of_decide_eq_true rfl)
  | .periodicSolveStart => execPeriodicSolveStart_keeps (Keeps.refl _ s) (of_decide_eq_true rfl)
  | .solveEnd .. => execSolveEnd_keeps (Keeps.refl _ s) (of_decide_eq_true rfl)
  | .solveDeadline => execSolveDeadline_keeps (Keeps.refl _ s) (of_decide_eq_true rfl)
  | .planPub => execPlanPub_keeps (Keeps.refl _ s) (of_decide_eq_true rfl)
  | .bridgeSnapshotCopy .. => execBridgeSnapshotCopy_keeps (Keeps.refl _ s) (of_decide_eq_true rfl)
  | .planShift => execPlanShift_keeps (Keeps.refl _ s) (of_decide_eq_true rfl)
  | .fallbackAgeExpire => execFallbackAgeExpire_keeps (Keeps.refl _ s) (of_decide_eq_true rfl)
  | .fallback => execFallback_keeps (Keeps.refl _ s) (of_decide_eq_true rfl)
  | .optVerify => execOptVerify_keeps (Keeps.refl _ s) (of_decide_eq_true rfl)
  | .optVerifyEnd => execOptVerifyEnd_keeps (Keeps.refl _ s) (of_decide_eq_true rfl)
  | .optSwitch => execOptSwitch_keeps (Keeps.refl _ s) (of_decide_eq_true rfl)
  | .optCancel => execOptCancel_keeps (Keeps.refl _ s) (of_decide_eq_true rfl)
  | .eccUncorr => execEccUncorr_keeps (Keeps.refl _ s) (of_decide_eq_true rfl)
  | .subHelloRx .. => execSubHelloRx_keeps (Keeps.refl _ s) (of_decide_eq_true rfl)
  | .subReportRx .. => execSubReportRx_keeps (Keeps.refl _ s) (of_decide_eq_true rfl)
  | .subStateRx .. => execSubStateRx_keeps (Keeps.refl _ s) (of_decide_eq_true rfl)
  | .subAckRx .. => execSubAckRx_keeps (Keeps.refl _ s) (of_decide_eq_true rfl)
  | .subPrivAckRx .. => execSubPrivAckRx_keeps (Keeps.refl _ s) (of_decide_eq_true rfl)
  | .launchQueueExpire .. => execLaunchQueueExpire_keeps (Keeps.refl _ s) (of_decide_eq_true rfl)
  | .nodeAccept => execNodeAccept_keeps (Keeps.refl _ s) (of_decide_eq_true rfl)
  | .nodeReset => execNodeReset_keeps (Keeps.refl _ s) (of_decide_eq_true rfl)
  | .nodeClr => execNodeClr_keeps (Keeps.refl _ s) (of_decide_eq_true rfl)
  | .rekey => execRekey_keeps (Keeps.refl _ s) (of_decide_eq_true rfl)
  | .rekeySwitch .. => execRekeySwitch_keeps (Keeps.refl _ s) (of_decide_eq_true rfl)
  | .rekeyOverlapEnd .. => execRekeyOverlapEnd_keeps (Keeps.refl _ s) (of_decide_eq_true rfl)
  | .linkDown .. => execLinkDown_keeps (Keeps.refl _ s) (of_decide_eq_true rfl)
  | .linkUp .. => execLinkUp_keeps (Keeps.refl _ s) (of_decide_eq_true rfl)
  | .sfpFault .. => execSfpFault_keeps (Keeps.refl _ s) (of_decide_eq_true rfl)
  | .canFrameRx .. => execCanFrameRx_keeps (Keeps.refl _ s) (of_decide_eq_true rfl)
  | .canPrivAckRx .. => execCanPrivAckRx_keeps (Keeps.refl _ s) (of_decide_eq_true rfl)
  | .canFrameTxDone .. => execCanFrameTxDone_keeps (Keeps.refl _ s) (of_decide_eq_true rfl)
  | .canError .. => execCanError_keeps (Keeps.refl _ s) (of_decide_eq_true rfl)
  | .errPassive .. => execErrPassive_keeps (Keeps.refl _ s) (of_decide_eq_true rfl)
  | .busOff .. => execBusOff_keeps (Keeps.refl _ s) (of_decide_eq_true rfl)
  | .boffRecovered .. => execBoffRecovered_keeps (Keeps.refl _ s) (of_decide_eq_true rfl)
  | .idClash .. => execIdClash_keeps (Keeps.refl _ s) (of_decide_eq_true rfl)
  | .idClashSuspect .. => execIdClashSuspect_keeps (Keeps.refl _ s) (of_decide_eq_true rfl)
  | .sleep .. => execSleep_keeps (Keeps.refl _ s) (of_decide_eq_true rfl)
  | .wake .. => execWake_keeps (Keeps.refl _ s) (of_decide_eq_true rfl)
  | .busWake .. => execBusWake_keeps (Keeps.refl _ s) (of_decide_eq_true rfl)
  | .stnReset .. => execStnReset_keeps (Keeps.refl _ s) (of_decide_eq_true rfl)
  | .fastInputEdge .. => execFastInputEdge_keeps (Keeps.refl _ s) (of_decide_eq_true rfl)
  | .privArm => execPrivArm_keeps (Keeps.refl _ s) (of_decide_eq_true rfl)
  | .privDisarm => execPrivDisarm_keeps (Keeps.refl _ s) (of_decide_eq_true rfl)
  | .resetTrip => execResetTrip_keeps (Keeps.refl _ s) (of_decide_eq_true rfl)
  | .privRelease .. => execPrivRelease_keeps (Keeps.refl _ s) (of_decide_eq_true rfl)
  | .privRetx .. => execPrivRetx_keeps (Keeps.refl _ s) (of_decide_eq_true rfl)
  | .privRequestEnd .. => execPrivRequestEnd_keeps (Keeps.refl _ s) (of_decide_eq_true rfl)
  | .privBreach .. => execPrivBreach_keeps (Keeps.refl _ s) (of_decide_eq_true rfl)
  | .adcTimerTrigger .. => execAdcTimerTrigger_keeps (Keeps.refl _ s) (of_decide_eq_true rfl)
  | .pwmCompareTrigger .. => execPwmCompareTrigger_keeps (Keeps.refl _ s) (of_decide_eq_true rfl)
  | .adcConversionEnd .. => execAdcConversionEnd_keeps (Keeps.refl _ s) (of_decide_eq_true rfl)
  | .diEdge .. => execDiEdge_keeps (Keeps.refl _ s) (of_decide_eq_true rfl)
  | .overcurrent .. => execOvercurrent_keeps (Keeps.refl _ s) (of_decide_eq_true rfl)
  | .readback .. => execReadback_keeps (Keeps.refl _ s) (of_decide_eq_true rfl)
  | .openLoop .. => execOpenLoop_keeps (Keeps.refl _ s) (of_decide_eq_true rfl)
  | .dioDoSet .. => execDioDoSet_keeps (Keeps.refl _ s) (of_decide_eq_true rfl)
  | .dioDoClr .. => execDioDoClr_keeps (Keeps.refl _ s) (of_decide_eq_true rfl)
  | .dioOcClr .. => execDioOcClr_keeps (Keeps.refl _ s) (of_decide_eq_true rfl)
  | .meterSave => execMeterSave_keeps (Keeps.refl _ s) (of_decide_eq_true rfl)
  | .retainSave => execRetainSave_keeps (Keeps.refl _ s) (of_decide_eq_true rfl)
  | .restoreAck => execRestoreAck_keeps (Keeps.refl _ s) (of_decide_eq_true rfl)
  | .powerFail .. => execPowerFail_keeps (Keeps.refl _ s) (of_decide_eq_true rfl)
  | .pfSnapshot .. => execPfSnapshot_keeps (Keeps.refl _ s) (of_decide_eq_true rfl)
  | .powerRestored .. => execPowerRestored_keeps (Keeps.refl _ s) (of_decide_eq_true rfl)
  | .overvolt .. => execOvervolt_keeps (Keeps.refl _ s) (of_decide_eq_true rfl)
  | .ballastLow .. => execBallastLow_keeps (Keeps.refl _ s) (of_decide_eq_true rfl)
  | .lockLost .. => execLockLost_keeps (Keeps.refl _ s) (of_decide_eq_true rfl)
  | .lockRegained .. => execLockRegained_keeps (Keeps.refl _ s) (of_decide_eq_true rfl)
  | .tune => execTune_keeps (Keeps.refl _ s) (of_decide_eq_true rfl)
  | .tuneTimeout => execTuneTimeout_keeps (Keeps.refl _ s) (of_decide_eq_true rfl)
  | .tuneAbort => execTuneAbort_keeps (Keeps.refl _ s) (of_decide_eq_true rfl)
  | .applyProp => execApplyProp_keeps (Keeps.refl _ s) (of_decide_eq_true rfl)
  | .loopHoldSet .. => execLoopHoldSet_keeps (Keeps.refl _ s) (of_decide_eq_true rfl)
  | .loopHoldClr .. => execLoopHoldClr_keeps (Keeps.refl _ s) (of_decide_eq_true rfl)
  | .cpeVerify .. => execCpeVerify_keeps (Keeps.refl _ s) (of_decide_eq_true rfl)
  | .cpeVerifyEnd .. => execCpeVerifyEnd_keeps (Keeps.refl _ s) (of_decide_eq_true rfl)
  | .cpeSwitch .. => execCpeSwitch_keeps (Keeps.refl _ s) (of_decide_eq_true rfl)
  | .cpeCancel .. => execCpeCancel_keeps (Keeps.refl _ s) (of_decide_eq_true rfl)
  | .clrForces .. => execClrForces_keeps (Keeps.refl _ s) (of_decide_eq_true rfl)
  | .icuDoorbell .. => execIcuDoorbell_keeps (Keeps.refl _ s) (of_decide_eq_true rfl)
  | .icuEnSet .. => execIcuEnSet_keeps (Keeps.refl _ s) (of_decide_eq_true rfl)
  | .icuEnClr .. => execIcuEnClr_keeps (Keeps.refl _ s) (of_decide_eq_true rfl)
  | .icuMaskSet .. => execIcuMaskSet_keeps (Keeps.refl _ s) (of_decide_eq_true rfl)
  | .icuMaskClr .. => execIcuMaskClr_keeps (Keeps.refl _ s) (of_decide_eq_true rfl)
  | .icuPendSet .. => execIcuPendSet_keeps (Keeps.refl _ s) (of_decide_eq_true rfl)
  | .icuPendClr .. => execIcuPendClr_keeps (Keeps.refl _ s) (of_decide_eq_true rfl)
  | .icuClaim .. => execIcuClaim_keeps (Keeps.refl _ s) (of_decide_eq_true rfl)
  | .icuEoi .. => execIcuEoi_keeps (Keeps.refl _ s) (of_decide_eq_true rfl)
  | .icuStackReset .. => execIcuStackReset_keeps (Keeps.refl _ s) (of_decide_eq_true rfl)
  | .evrRecordCommit => execEvrRecordCommit_keeps (Keeps.refl _ s) (of_decide_eq_true rfl)
  | .evrTokenRefill .. => execEvrTokenRefill_keeps (Keeps.refl _ s) (of_decide_eq_true rfl)
  | .evrFreeze => execEvrFreeze_keeps (Keeps.refl _ s) (of_decide_eq_true rfl)
  | .unfreeze => execUnfreeze_keeps (Keeps.refl _ s) (of_decide_eq_true rfl)
  | .evrClear => execEvrClear_keeps (Keeps.refl _ s) (of_decide_eq_true rfl)
  | .clrSupp => execClrSupp_keeps (Keeps.refl _ s) (of_decide_eq_true rfl)
  | .frzExpired => execFrzExpired_keeps (Keeps.refl _ s) (of_decide_eq_true rfl)
  | .heartbeatRx .. => execHeartbeatRx_keeps (Keeps.refl _ s) (of_decide_eq_true rfl)
  | .heartbeatMiss .. => execHeartbeatMiss_keeps (Keeps.refl _ s) (of_decide_eq_true rfl)
  | .partnerLost => execPartnerLost_keeps (Keeps.refl _ s) (of_decide_eq_true rfl)
  | .failureDeclare => execFailureDeclare_keeps (Keeps.refl _ s) (of_decide_eq_true rfl)
  | .isolationCheck => execIsolationCheck_keeps (Keeps.refl _ s) (of_decide_eq_true rfl)
  | .takeover => execTakeover_keeps (Keeps.refl _ s) (of_decide_eq_true rfl)
  | .twinCold => execTwinCold_keeps (Keeps.refl _ s) (of_decide_eq_true rfl)
  | .inputRecordRx .. => execInputRecordRx_keeps (Keeps.refl _ s) (of_decide_eq_true rfl)
  | .recLost => execRecLost_keeps (Keeps.refl _ s) (of_decide_eq_true rfl)
  | .recordNotClosed => execRecordNotClosed_keeps (Keeps.refl _ s) (of_decide_eq_true rfl)
  | .beaconRx .. => execBeaconRx_keeps (Keeps.refl _ s) (of_decide_eq_true rfl)
  | .twinSwitch => execTwinSwitch_keeps (Keeps.refl _ s) (of_decide_eq_true rfl)
  | .twinJoin => execTwinJoin_keeps (Keeps.refl _ s) (of_decide_eq_true rfl)
  | .joinStart => execJoinStart_keeps (Keeps.refl _ s) (of_decide_eq_true rfl)
  | .segmentCommit .. => execSegmentCommit_keeps (Keeps.refl _ s) (of_decide_eq_true rfl)
  | .replayEnd .. => execReplayEnd_keeps (Keeps.refl _ s) (of_decide_eq_true rfl)
  | .joinDone => execJoinDone_keeps (Keeps.refl _ s) (of_decide_eq_true rfl)
  | .joinTimeout => execJoinTimeout_keeps (Keeps.refl _ s) (of_decide_eq_true rfl)
  | .abandon => execAbandon_keeps (Keeps.refl _ s) (of_decide_eq_true rfl)
  | .parkControlRx .. => execParkControlRx_keeps (Keeps.refl _ s) (of_decide_eq_true rfl)
  | .park => execPark_keeps (Keeps.refl _ s) (of_decide_eq_true rfl)
  | .unpark => execUnpark_keeps (Keeps.refl _ s) (of_decide_eq_true rfl)
  | .unparkDiscard => execUnparkDiscard_keeps (Keeps.refl _ s) (of_decide_eq_true rfl)
  | .testClr => execTestClr_keeps (Keeps.refl _ s) (of_decide_eq_true rfl)
  | .sramScrubPass .. => execSramScrubPass_keeps (Keeps.refl _ s) (of_decide_eq_true rfl)
  | .dramScrubPass .. => execDramScrubPass_keeps (Keeps.refl _ s) (of_decide_eq_true rfl)
  | .portLoopbackTest .. => execPortLoopbackTest_keeps (Keeps.refl _ s) (of_decide_eq_true rfl)
  | .plausFail .. => execPlausFail_keeps (Keeps.refl _ s) (of_decide_eq_true rfl)
  | .mramScrubStart => execMramScrubStart_keeps (Keeps.refl _ s) (of_decide_eq_true rfl)
  | .mramScrubEnd .. => execMramScrubEnd_keeps (Keeps.refl _ s) (of_decide_eq_true rfl)
  | .keyStage => execKeyStage_keeps (Keeps.refl _ s) (of_decide_eq_true rfl)
  | .keyStageEnd .. => execKeyStageEnd_keeps (Keeps.refl _ s) (of_decide_eq_true rfl)
  | .keyVerify => execKeyVerify_keeps (Keeps.refl _ s) (of_decide_eq_true rfl)
  | .keyVerifyEnd .. => execKeyVerifyEnd_keeps (Keeps.refl _ s) (of_decide_eq_true rfl)
  | .promote => execPromote_keeps (Keeps.refl _ s) (of_decide_eq_true rfl)
  | .promoted => execPromoted_keeps (Keeps.refl _ s) (of_decide_eq_true rfl)
  | .keyCancel => execKeyCancel_keeps (Keeps.refl _ s) (of_decide_eq_true rfl)
  | .keyRevoke => execKeyRevoke_keeps (Keeps.refl _ s) (of_decide_eq_true rfl)
  | .keyErase => execKeyErase_keeps (Keeps.refl _ s) (of_decide_eq_true rfl)
  | .tamper .. => execTamper_keeps (Keeps.refl _ s) (of_decide_eq_true rfl)
  | .powerGood .. => execPowerGood_keeps (Keeps.refl _ s) (of_decide_eq_true rfl)
  | .roleNegotiation .. => execRoleNegotiation_keeps (Keeps.refl _ s) (of_decide_eq_true rfl)
  | .negWaitExpire => execNegWaitExpire_keeps (Keeps.refl _ s) (of_decide_eq_true rfl)
  | .bootDone => execBootDone_keeps (Keeps.refl _ s) (of_decide_eq_true rfl)
  | .faultRestart => execFaultRestart_keeps (Keeps.refl _ s) (of_decide_eq_true rfl)
  | .cfgVerify => execCfgVerify_keeps (Keeps.refl _ s) (of_decide_eq_true rfl)
  | .cfgVerifyEnd .. => execCfgVerifyEnd_keeps (Keeps.refl _ s) (of_decide_eq_true rfl)
  | .cfgSwitch => execCfgSwitch_keeps (Keeps.refl _ s) (of_decide_eq_true rfl)
  | .cfgCancel => execCfgCancel_keeps (Keeps.refl _ s) (of_decide_eq_true rfl)
  | .restart => execRestart_keeps (Keeps.refl _ s) (of_decide_eq_true rfl)
  | .restartPair => execRestartPair_keeps (Keeps.refl _ s) (of_decide_eq_true rfl)
  | .announceReceiptTimeout .. => execAnnounceReceiptTimeout_keeps (Keeps.refl _ s) (of_decide_eq_true rfl)
  | .ptpSyncTx .. => execPtpSyncTx_keeps (Keeps.refl _ s) (of_decide_eq_true rfl)
  | .ptpAnnounceTx .. => execPtpAnnounceTx_keeps (Keeps.refl _ s) (of_decide_eq_true rfl)
  | .prpSupervisionFrame => execPrpSupervisionFrame_keeps (Keeps.refl _ s) (of_decide_eq_true rfl)
  | .canIntegrated .. => execCanIntegrated_keeps (Keeps.refl _ s) (of_decide_eq_true rfl)
  | .openCleared .. => execOpenCleared_keeps (Keeps.refl _ s) (of_decide_eq_true rfl)
  | .meterSaveVerify .. => execMeterSaveVerify_keeps (Keeps.refl _ s) (of_decide_eq_true rfl)
  | .dramCorrectedError => execDramCorrectedError_keeps (Keeps.refl _ s) (of_decide_eq_true rfl)
  | .nodeBaselineSave => execNodeBaselineSave_keeps (Keeps.refl _ s) (of_decide_eq_true rfl)
  | .undervolt .. => execUndervolt_keeps (Keeps.refl _ s) (of_decide_eq_true rfl)

/-- No row ends in a fault or a refusal. -/
theorem exec_answers (c : Instr) (s : State) : ∃ t, exec c s = .next t := by
  cases c <;> exact ⟨_, rfl⟩

theorem step_of_pending {c : Instr} {rest : List Instr} {s : State} (h : s.pending = c :: rest) :
    step s = exec c { s with pending := rest } := by
  unfold step
  rw [h]

theorem step_of_idle {s : State} (h : s.pending = []) : step s = .next s := by
  unfold step
  rw [h]

/-- Taking a command from the queue touches no map. -/
theorem State.Canon.dequeued {s : State} (h : s.Canon) (rest : List Instr) : State.Canon { s with pending := rest } :=
  ⟨h.regs, h.vis, h.tbl, h.shadow, h.tshadow⟩

/-- Settles O1. -/
theorem aStepRunsTheFrontCommand : Obligations.AStepRunsTheFrontCommand :=
  ⟨fun _ _ _ h => step_of_pending h, fun _ h => step_of_idle h⟩

/-- Settles O2: the answer exists for each row, and its queue is what `exec_keeps` says. -/
theorem everyCommandAnswers : Obligations.EveryCommandAnswers := by
  intro c s
  obtain ⟨t, ht⟩ := exec_answers c s
  exact ⟨t, ht, (exec_keeps c s t ht).pending⟩

/-- Settles O4: a step idles or runs one command, and no command leaves the canonical form. -/
theorem everyStepKeepsTheCanonicalForm : Obligations.EveryStepKeepsTheCanonicalForm := by
  intro s t hs ht
  cases hp : s.pending with
  | nil =>
    rw [step_of_idle hp] at ht
    injection ht with ht
    exact ht ▸ hs
  | cons c rest =>
    rw [step_of_pending hp] at ht
    exact (exec_keeps c _ t ht).canon (hs.dequeued rest)

/-- Settles O6. -/
theorem aCommandKeepsToItsParts : Obligations.ACommandKeepsToItsParts :=
  fun c s t ht => (exec_keeps c s t ht).only

/-! ### Reset -/

/-- A source reads after reset with ENABLE, PENDING and CLAIMED clear, whatever engine the firmware fixes for it (R401). -/
theorem reset_source {src : Nat} (h : src < 2 ^ 24) : State.reset.srcFld src 31 1 = 0 ∧ State.reset.srcFld src 28 2 = 0 := by
  have hidx : tkeyIdx (tkey 0x0700 src 0) = src := by unfold tkeyIdx tkey; omega
  have hword : tkeyWord (tkey 0x0700 src 0) = 0 := by unfold tkeyWord tkey; omega
  have hw : State.reset.trd 0x0700 src 0 = tblReset (tkey 0x0700 src 0) := rfl
  have hx : ∀ x, x < 16 → wbits (BitVec.ofNat 32 (0x40F00000 + x * 2 ^ 16)) 31 1 = 0
      ∧ wbits (BitVec.ofNat 32 (0x40F00000 + x * 2 ^ 16)) 28 2 = 0 := by decide
  unfold State.srcFld State.tfld
  rw [hw, tblReset, tkeyTid_tkey _ _ _ h (by decide), hidx, hword, if_pos ⟨rfl, rfl⟩]
  split
  · exact hx _ (Config.fwTarget src).isLt
  · exact hx 15 (by decide)

theorem reset_pres (t : Nat) : State.reset.icu.pres.getD t 0 = 0 := by
  simp only [State.reset, List.getD_eq_getElem?_getD, List.getElem?_replicate]
  split <;> rfl

theorem reset_sess_st (i : Nat) : (State.reset.sess i).st = 0 := by
  simp only [State.sess, State.reset, List.getD_eq_getElem?_getD, List.getElem?_replicate]
  split <;> rfl

theorem reset_canon : State.reset.Canon := ⟨rfl, rfl, rfl, rfl, rfl⟩

theorem reset_sized : State.reset.Sized :=
  ⟨rfl, rfl, rfl, rfl, rfl, rfl, rfl, rfl, rfl, rfl, rfl, rfl, rfl, fun _ he => absurd he List.not_mem_nil⟩

/-- Settles O3. -/
theorem resetLeavesAnIdleBlock : Obligations.ResetLeavesAnIdleBlock :=
  ⟨reset_canon, reset_sized, rfl, rfl, by decide +kernel, by decide +kernel, by decide +kernel, by decide +kernel,
    reset_sess_st, rfl, fun _ => reset_source, reset_pres, rfl, rfl⟩

end Sys2Proof.Machine
end

section
/-! ## Reading after an operation

What a field, a table word or a part of the state reads as after the shared operations of `Machine/Ops.lean`: the field that was set, a field
apart from it, a counter, and what raising an event leaves. They are tagged for `simp`, whose side conditions are comparisons of the addresses
of the page map. -/

namespace Sys2Proof.Machine

/-- A command runs to the state that its meaning gives. -/
theorem runs_intro {c : Instr} {s t : State} {post : State → Prop} (h : exec c s = .next t) (hp : post t) : runs c s post := ⟨t, h, hp⟩

theorem next_congr {t u : State} (h : t = u) : (.next t : Out) = .next u := h ▸ rfl

/-- A row that is an operation of a command register: what the operation answers is the row's state and status. -/
theorem exec_of_cmd {c : Instr} {s t : State} {st : Status} {r : State × Status} (hc : exec c s = .next r.1) (hr : r = (t, st)) :
    exec c s = .next t ∧ r.2 = st := by
  subst hr
  exact ⟨hc, rfl⟩

/-! ### Register fields -/

@[simp] theorem bitAt_addr (a i : Nat) : (bitAt a i).addr = a := rfl
@[simp] theorem bitAt_lo (a i : Nat) : (bitAt a i).lo = i := rfl
@[simp] theorem bitAt_w (a i : Nat) : (bitAt a i).w = 1 := rfl
@[simp] theorem wordAt_addr (a : Nat) : (wordAt a).addr = a := rfl
@[simp] theorem wordAt_lo (a : Nat) : (wordAt a).lo = 0 := rfl
@[simp] theorem wordAt_w (a : Nat) : (wordAt a).w = 32 := rfl
@[simp] theorem pageOf_eq (a : Nat) : pageOf a = a / 4096 := rfl
@[simp] theorem addrOf_eq (p o : Nat) : addrOf p o = p * 4096 + o := rfl

theorem rd_wr_self {s : State} {a : Nat} {v : Word} : (s.wr a v).rd a = v := by rw [rd_wr, if_pos rfl]

theorem rd_wr_apart {s : State} {a b : Nat} {v : Word} (h : b ≠ a) : (s.wr a v).rd b = s.rd b := by rw [rd_wr, if_neg h]

theorem rd_setF_apart {s : State} {f : Fld} {v b : Nat} (h : b ≠ f.addr) : (s.setF f v).rd b = s.rd b := by rw [rd_setF, if_neg h]

theorem rd_setB_apart {s : State} {f : Fld} {v : Bool} {b : Nat} (h : b ≠ f.addr) : (s.setB f v).rd b = s.rd b := by
  rw [rd_setB, if_neg h]

@[simp] theorem fld_setF_apart {s : State} {f g : Fld} {v : Nat} (h : g.addr ≠ f.addr ∨ f.lo + f.w ≤ g.lo ∨ g.lo + g.w ≤ f.lo) :
    (s.setF f v).fld g = s.fld g := fld_setF_ne s f g v h

@[simp] theorem bit_setF_apart {s : State} {f g : Fld} {v : Nat} (h : g.addr ≠ f.addr ∨ f.lo + f.w ≤ g.lo ∨ g.lo + g.w ≤ f.lo) :
    (s.setF f v).bit g = s.bit g := bit_setF_ne s f g v h

@[simp] theorem fld_setB_apart {s : State} {f g : Fld} {b : Bool} (h : g.addr ≠ f.addr ∨ f.lo + f.w ≤ g.lo ∨ g.lo + g.w ≤ f.lo) :
    (s.setB f b).fld g = s.fld g := fld_setB_ne s f g b h

@[simp] theorem bit_setB_apart {s : State} {f g : Fld} {b : Bool} (h : g.addr ≠ f.addr ∨ f.lo + f.w ≤ g.lo ∨ g.lo + g.w ≤ f.lo) :
    (s.setB f b).bit g = s.bit g := bit_setB_ne s f g b h

@[simp] theorem fld_wr_apart {s : State} {a : Nat} {g : Fld} {v : Word} (h : g.addr ≠ a) : (s.wr a v).fld g = s.fld g :=
  fld_wr_ne s a g v h

@[simp] theorem bit_wr_apart {s : State} {a : Nat} {g : Fld} {v : Word} (h : g.addr ≠ a) : (s.wr a v).bit g = s.bit g := by
  unfold State.bit
  rw [fld_wr_ne s a g v h]

@[simp] theorem fld_setF_self {s : State} {f : Fld} {v : Nat} (h : f.lo + f.w ≤ 32) : (s.setF f v).fld f = v % 2 ^ f.w :=
  fld_setF_same s f v h

@[simp] theorem bit_setB_self {s : State} {f : Fld} {b : Bool} (h : f.lo < 32) (hw : f.w = 1) : (s.setB f b).bit f = b := by
  obtain ⟨a, lo, w⟩ := f
  subst hw
  exact bit_setB_same s a lo b h

@[simp] theorem bit_setF_one_self {s : State} {f : Fld} (h : f.lo < 32) (hw : f.w = 1) : (s.setF f 1).bit f = true :=
  bit_setB_self (b := true) h hw

@[simp] theorem bit_setF_zero_self {s : State} {f : Fld} (h : f.lo < 32) (hw : f.w = 1) : (s.setF f 0).bit f = false :=
  bit_setB_self (b := false) h hw

theorem fld_lt (s : State) (f : Fld) : s.fld f < 2 ^ f.w := wbits_lt _ _ _

theorem tfld_lt (s : State) (t i w lo n : Nat) : s.tfld t i w lo n < 2 ^ n := wbits_lt _ _ _

/-- A field whose value is put back is the word it stood in. -/
theorem fld_of_regs {s t : State} (h : t.regs = s.regs) (f : Fld) : t.fld f = s.fld f := by
  simp [State.fld, State.rd, h]

theorem bit_of_regs {s t : State} (h : t.regs = s.regs) (f : Fld) : t.bit f = s.bit f := by
  simp [State.bit, State.fld, State.rd, h]

theorem trd_of_tbl {s t : State} (h : t.tbl = s.tbl) (a b c : Nat) : t.trd a b c = s.trd a b c := by
  simp [State.trd, h]

theorem tfld_of_tbl {s t : State} (h : t.tbl = s.tbl) (a b c lo n : Nat) : t.tfld a b c lo n = s.tfld a b c lo n := by
  simp [State.tfld, State.trd, h]

theorem bit_iff_fld {s : State} {f : Fld} (hw : f.w = 1) : s.bit f = true ↔ s.fld f = 1 := by
  have h := fld_lt s f
  rw [hw] at h
  unfold State.bit
  simp only [bne_iff_ne, ne_eq]
  omega

/-! ### Counters (R60) -/

@[simp] theorem rd_bumpN {s : State} {c : Ctr} {n a : Nat} (h1 : a ≠ c.f.addr) (h2 : a ≠ c.ovf.1) : (s.bumpN c n).rd a = s.rd a :=
  (near_bumpN (p := fun x => x = c.f.addr ∨ x = c.ovf.1) (q := fun _ => True) (Near.refl _ _ s) (.inl rfl) (.inr rfl)).regs a
    (fun h => h.elim h1 h2)

@[simp] theorem fld_bumpN_apart {s : State} {c : Ctr} {n : Nat} {g : Fld} (h1 : g.addr ≠ c.f.addr) (h2 : g.addr ≠ c.ovf.1) :
    (s.bumpN c n).fld g = s.fld g := fld_of_rd (rd_bumpN h1 h2)

@[simp] theorem bit_bumpN_apart {s : State} {c : Ctr} {n : Nat} {g : Fld} (h1 : g.addr ≠ c.f.addr) (h2 : g.addr ≠ c.ovf.1) :
    (s.bumpN c n).bit g = s.bit g := bit_of_rd (rd_bumpN h1 h2)

@[simp] theorem rd_bump {s : State} {c : Ctr} {a : Nat} (h1 : a ≠ c.f.addr) (h2 : a ≠ c.ovf.1) : (s.bump c).rd a = s.rd a :=
  rd_bumpN h1 h2

@[simp] theorem fld_bump_apart {s : State} {c : Ctr} {g : Fld} (h1 : g.addr ≠ c.f.addr) (h2 : g.addr ≠ c.ovf.1) :
    (s.bump c).fld g = s.fld g := fld_bumpN_apart h1 h2

@[simp] theorem bit_bump_apart {s : State} {c : Ctr} {g : Fld} (h1 : g.addr ≠ c.f.addr) (h2 : g.addr ≠ c.ovf.1) :
    (s.bump c).bit g = s.bit g := bit_bumpN_apart h1 h2

/-- A counter of kind W wraps. -/
theorem fld_bumpN_wraps {s : State} {c : Ctr} {n : Nat} (hk : c.kind = .W) (h : c.f.lo + c.f.w ≤ 32) :
    (s.bumpN c n).fld c.f = (s.fld c.f + n) % 2 ^ c.f.w := by
  unfold State.bumpN
  rw [hk]
  simp only [fld_setF_same _ _ _ h, Nat.mod_mod]

/-- A counter of kind S stays at its maximum. -/
theorem fld_bumpN_stays {s : State} {c : Ctr} {n : Nat} (hk : c.kind = .S) (h : c.f.lo + c.f.w ≤ 32)
    (ho : c.f.addr ≠ c.ovf.1 ∨ c.ovf.2 + 1 ≤ c.f.lo ∨ c.f.lo + c.f.w ≤ c.ovf.2) :
    (s.bumpN c n).fld c.f = min (2 ^ c.f.w - 1) (s.fld c.f + n) := by
  have hpos := Nat.two_pow_pos c.f.w
  have hmax : c.maxV = 2 ^ c.f.w - 1 := rfl
  unfold State.bumpN
  rw [hk]
  simp only [bitAt]
  split
  · rw [fld_setF_ne _ _ _ _ ho, fld_setF_same _ _ _ h, Nat.mod_eq_of_lt (by omega)]
    omega
  · rw [fld_setF_same _ _ _ h, Nat.mod_eq_of_lt (by omega)]
    omega

theorem fld_bump_wraps {s : State} {c : Ctr} (hk : c.kind = .W) (h : c.f.lo + c.f.w ≤ 32) :
    (s.bump c).fld c.f = (s.fld c.f + 1) % 2 ^ c.f.w := fld_bumpN_wraps hk h

theorem fld_bump_stays {s : State} {c : Ctr} (hk : c.kind = .S) (h : c.f.lo + c.f.w ≤ 32)
    (ho : c.f.addr ≠ c.ovf.1 ∨ c.ovf.2 + 1 ≤ c.f.lo ∨ c.f.lo + c.f.w ≤ c.ovf.2) :
    (s.bump c).fld c.f = min (2 ^ c.f.w - 1) (s.fld c.f + 1) := fld_bumpN_stays hk h ho

/-! ### Table words -/

@[simp] theorem trd_twr_self {s : State} {t i w : Nat} {v : Word} : (s.twr t i w v).trd t i w = v := trd_twr_same s t i w v

@[simp] theorem trd_twr_word {s : State} {t i w w' : Nat} {v : Word} (h : w' ≠ w) : (s.twr t i w v).trd t i w' = s.trd t i w' :=
  trd_twr_ne _ _ _ _ _ _ _ _ (by unfold tkey; omega)

/-- A word of another record of the table. -/
theorem trd_twr_idx {s : State} {t i w i' w' : Nat} {v : Word} (h : i' ≠ i) (hw : w < 2 ^ 8) (hw' : w' < 2 ^ 8) :
    (s.twr t i w v).trd t i' w' = s.trd t i' w' := trd_twr_ne _ _ _ _ _ _ _ _ (by unfold tkey; omega)

/-- A word of another table. -/
theorem trd_twr_tid {s : State} {t i w t' i' w' : Nat} {v : Word} (h : t' ≠ t) (hi : i < 2 ^ 24) (hi' : i' < 2 ^ 24) (hw : w < 2 ^ 8)
    (hw' : w' < 2 ^ 8) : (s.twr t i w v).trd t' i' w' = s.trd t' i' w' :=
  trd_twr_ne _ _ _ _ _ _ _ _ (fun e => h ((tkey_inj _ _ _ _ _ _ hi' hw' hi hw).1 e).1)

@[simp] theorem tfld_twr_self {s : State} {t i w lo n : Nat} {v : Word} : (s.twr t i w v).tfld t i w lo n = wbits v lo n := by
  unfold State.tfld
  rw [trd_twr_self]

@[simp] theorem tfld_twr_word {s : State} {t i w w' lo n : Nat} {v : Word} (h : w' ≠ w) :
    (s.twr t i w v).tfld t i w' lo n = s.tfld t i w' lo n := by
  unfold State.tfld
  rw [trd_twr_word h]

@[simp] theorem tfld_tset_self {s : State} {t i w lo n v : Nat} (h : lo + n ≤ 32) : (s.tset t i w lo n v).tfld t i w lo n = v % 2 ^ n :=
  tfld_tset_same s t i w lo n v h

@[simp] theorem tfld_tset_apart {s : State} {t i w lo n v w' lo' n' : Nat} (h : w' ≠ w ∨ lo + n ≤ lo' ∨ lo' + n' ≤ lo) :
    (s.tset t i w lo n v).tfld t i w' lo' n' = s.tfld t i w' lo' n' :=
  tfld_tset_ne _ _ _ _ _ _ _ _ _ _ _ _ (h.imp_left (fun h => by unfold tkey; omega))

/-! ### Events (R57) -/

/-- Events touch no word of a table beside the source table and the recorder's status table. -/
@[simp] theorem trd_raiseEv_apart {s : State} {p b t i w : Nat} (hp : p < 2 ^ 23) (h7 : t ≠ 0x0700) (h8 : t ≠ 0x0802) (hi : i < 2 ^ 24)
    (hw : w < 2 ^ 8) : (s.raiseEv p b).trd t i w = s.trd t i w := trd_raiseEv s hp (fun h => h.elim h7 h8) hi hw

@[simp] theorem tfld_raiseEv_apart {s : State} {p b t i w lo n : Nat} (hp : p < 2 ^ 23) (h7 : t ≠ 0x0700) (h8 : t ≠ 0x0802)
    (hi : i < 2 ^ 24) (hw : w < 2 ^ 8) : (s.raiseEv p b).tfld t i w lo n = s.tfld t i w lo n := by
  unfold State.tfld
  rw [trd_raiseEv_apart hp h7 h8 hi hw]

/-- A register word of a page that is neither the event's nor those of the interrupt controller and the recorder, or beside the page's two
event words. -/
@[simp] theorem rd_raiseEv_apart {s : State} {p b a : Nat} (hp : p < 2 ^ 23) (h1 : a ≠ addrOf p 0x10) (h2 : a ≠ addrOf p 0x28)
    (h7 : pageOf a ≠ 7) (h8 : pageOf a ≠ 8) : (s.raiseEv p b).rd a = s.rd a := by
  refine rd_raiseEv s hp (fun h => ?_)
  unfold pageOf at h7 h8
  unfold evReg pageOf at h
  omega

@[simp] theorem fld_raiseEv_apart {s : State} {p b : Nat} {f : Fld} (hp : p < 2 ^ 23) (h1 : f.addr ≠ addrOf p 0x10)
    (h2 : f.addr ≠ addrOf p 0x28) (h7 : pageOf f.addr ≠ 7) (h8 : pageOf f.addr ≠ 8) : (s.raiseEv p b).fld f = s.fld f :=
  fld_of_rd (rd_raiseEv_apart hp h1 h2 h7 h8)

@[simp] theorem bit_raiseEv_apart {s : State} {p b : Nat} {f : Fld} (hp : p < 2 ^ 23) (h1 : f.addr ≠ addrOf p 0x10)
    (h2 : f.addr ≠ addrOf p 0x28) (h7 : pageOf f.addr ≠ 7) (h8 : pageOf f.addr ≠ 8) : (s.raiseEv p b).bit f = s.bit f :=
  bit_of_rd (rd_raiseEv_apart hp h1 h2 h7 h8)

/-- An event's PENDING bit is set by raising it. -/
theorem bit_raiseEv_self {s : State} {p b a : Nat} (hp : p < 2 ^ 23) (h8 : p ≠ 8) (hb : b < 32) (ha : a = addrOf p 0x10) :
    (s.raiseEv p b).bit (bitAt a b) = true := ha ▸ bit_raiseEv_pend s hp h8 hb

theorem bit_raiseNoRec_stays {s : State} {p b a c : Nat} (hp : p < 2 ^ 23) (ha : a = addrOf p 0x10)
    (hs : s.bit (bitAt a c) = true) : (s.raiseNoRec p b).bit (bitAt a c) = true := by
  have hset : ((s.setF (bitAt a b) 1).noteEv p b (s.bit (bitAt a b))).bit (bitAt a c) = true := by
    simp only [bit_noteEv]
    by_cases hbc : b = c
    · subst hbc
      unfold State.bit State.fld State.setF
      rw [rd_wr, if_pos rfl]
      simp only [bitAt_addr, bitAt_lo, bitAt_w, bne_iff_ne, ne_eq]
      intro hz
      have h0 := congrArg (Nat.testBit · 0) hz
      by_cases hb : b < 32
      · rw [wbits_wput _ _ _ _ (by omega)] at hz
        exact absurd hz (by decide)
      · have : wbits (s.rd a) b 1 = 0 := by
          unfold wbits
          rw [BitVec.ushiftRight_eq_zero (by omega)]
          rfl
        unfold State.bit State.fld at hs
        simp [this] at hs
    · rw [bit_setF_ne _ _ _ _ (by simp; omega)]
      exact hs
  have hcount : Near (fun x => x = addrOf p 0 + 0x28 ∨ icuReg x) evTbl ((s.setF (bitAt a b) 1).noteEv p b (s.bit (bitAt a b)))
      (s.raiseNoRec p b) := by
    have hbase : a = addrOf p 0 + 0x10 := by simpa only [addrOf] using ha
    subst hbase
    unfold State.raiseNoRec
    extract_lets base was s1 s2 ho s3
    have n2 : Near (fun a => a = base + 0x28) (fun _ => False) s1 s2 := near_bumpN (Near.refl _ _ s1) rfl rfl
    have n3 : Near (fun a => a = base + 0x28 ∨ icuReg a) evTbl s1 s3 :=
      near_same (n2.mono (fun _ h => .inl h) (fun _ h => h.elim)) rfl rfl
    split
    · exact near_signal n3 (by omega) (fun _ h => .inr h) (.inl rfl)
    · exact n3
  refine (bit_of_rd (hcount.regs a fun h => ?_)).trans hset
  subst ha
  simp only [icuReg, addrOf] at h
  omega

/-- A PENDING bit that is set stays set through further events. -/
theorem bit_raiseEv_stays {s : State} {q p b a c : Nat} (hq : q < 2 ^ 23) (hp : p < 2 ^ 23) (h8 : p ≠ 8) (ha : a = addrOf p 0x10)
    (hs : s.bit (bitAt a c) = true) : (s.raiseEv q b).bit (bitAt a c) = true := by
  have hne : ¬ evReg 8 a := by
    subst ha
    simp only [evReg, addrOf, pageOf]
    omega
  by_cases hqp : q = p
  · subst hqp
    unfold State.raiseEv
    rw [if_neg h8]
    exact (bit_of_rd ((evNear_offer (p := 8) (Near.refl _ _ _) (by decide)).regs a hne)).trans (bit_raiseNoRec_stays hp ha hs)
  · refine (bit_of_rd (rd_raiseEv s hq fun h => ?_)).trans hs
    subst ha
    simp only [evReg, addrOf, pageOf, bitAt_addr] at h
    omega

end Sys2Proof.Machine
end

section
/-! ## Keys (R490 to R496, R502)

The words of the KEYS page that the end of a command writes, and what each command does to the slot that it names. -/

namespace Sys2Proof.Machine

/-! ### The end of a command (R491) -/

/-- The register words that KEY_N and the slot masks stand in. -/
def keyMaskReg (a : Nat) : Prop := a = 0x9054 ∨ (0x9080 ≤ a ∧ a < 0x90A0)

/-- The register words that the end of a key command may change. -/
def keyEndReg (a : Nat) : Prop := a = 0x904C ∨ (a = 0x9058 ∨ a = 0x905C ∨ a = 0x9064) ∨ keyMaskReg a ∨ evReg 9 a

theorem near_keyRegs {p q : Nat → Prop} {s t : State} (h : Near p q s t) (hp : ∀ a, keyMaskReg a → p a) : Near p q s t.keyRegs := by
  unfold State.keyRegs
  extract_lets count revd s1
  have h1 : Near p q s s1 := near_wr h (hp _ (.inl rfl))
  refine near_foldl h1 (fun a k hk ha => ?_)
  have := List.mem_range.1 hk
  exact near_wr (near_wr ha (hp _ (.inr (by omega)))) (hp _ (.inr (by omega)))

theorem rd_keyRegs {s : State} {a : Nat} (h : ¬ keyMaskReg a) : s.keyRegs.rd a = s.rd a :=
  (near_keyRegs (q := fun _ => True) (Near.refl _ _ s) (fun _ => id)).regs a h

theorem tbl_keyRegs (s : State) : s.keyRegs.tbl = s.tbl :=
  (keyRegs_keeps (Keeps.refl _ s) (List.Subset.refl _)).only .tbl (by decide)

/-- KEY_STAT and the counters, before the event of the end. -/
def State.keyEndStat (s : State) (op slot code : Nat) : State :=
  (((s.setF ⟨0x904C, 20, 4⟩ code).setF ⟨0x904C, 16, 4⟩ op).setF ⟨0x904C, 0, 7⟩ slot).keyRegs.bump .KEY_OP

theorem keyEnd_ok (s : State) (op slot : Nat) : s.keyEnd op slot 0 = (s.keyEndStat op slot 0).raiseEv 9 0 := by
  unfold State.keyEnd
  exact if_pos rfl

theorem keyEnd_fail {s : State} {op slot code : Nat} (h : code ≠ 0) :
    s.keyEnd op slot code = ((s.keyEndStat op slot code).bump .KEY_FAIL).raiseEv 9 1 := if_neg h

theorem near_keyEndStat {s t : State} {op slot code : Nat} (h : Near keyEndReg evTbl s t) :
    Near keyEndReg evTbl s (t.keyEndStat op slot code) := by
  have hset : ∀ {u : State} {lo w v : Nat}, Near keyEndReg evTbl s u → Near keyEndReg evTbl s (u.setF ⟨0x904C, lo, w⟩ v) :=
    fun hu => near_setF hu (.inl rfl)
  refine near_bumpW (c := .KEY_OP) ?_ (.inr (.inl (by decide))) rfl
  exact near_keyRegs (hset (hset (hset h))) (fun _ ha => .inr (.inr (.inl ha)))

theorem near_keyEnd {s t : State} {op slot code : Nat} (h : Near keyEndReg evTbl s t) : Near keyEndReg evTbl s (t.keyEnd op slot code) := by
  have hev : ∀ {u : State} {b : Nat}, Near keyEndReg evTbl s u → Near keyEndReg evTbl s (u.raiseEv 9 b) := fun hu =>
    hu.trans ((evNear_raiseEv (Near.refl _ _ _) (by decide)).mono (fun _ ha => .inr (.inr (.inr ha))) (fun _ => id))
  by_cases hc : code = 0
  · subst hc
    rw [keyEnd_ok]
    exact hev (near_keyEndStat h)
  · rw [keyEnd_fail hc]
    exact hev (near_bumpN (near_keyEndStat h) (.inr (.inl (by decide))) (.inr (.inl (by decide))))

theorem keys_keyEnd (s : State) (op slot code : Nat) : (s.keyEnd op slot code).keys = s.keys :=
  (keyEnd_keeps (Keeps.refl _ s) (List.Subset.refl _)).only .keys (by decide)

/-- Slots, buffer and public keys stay at the end of a command. -/
theorem tfld_keyEnd {s : State} {op slot code t i w lo n : Nat} (h7 : t ≠ 0x0700) (h8 : t ≠ 0x0802) (hi : i < 2 ^ 24) (hw : w < 2 ^ 8) :
    (s.keyEnd op slot code).tfld t i w lo n = s.tfld t i w lo n := by
  unfold State.tfld
  rw [trd_of_tblBut (near_keyEnd (Near.refl _ _ s)).tbl hi hw (fun h => h.elim h7 h8)]

theorem trd_keyEnd {s : State} {op slot code t i w : Nat} (h7 : t ≠ 0x0700) (h8 : t ≠ 0x0802) (hi : i < 2 ^ 24) (hw : w < 2 ^ 8) :
    (s.keyEnd op slot code).trd t i w = s.trd t i w :=
  trd_of_tblBut (near_keyEnd (Near.refl _ _ s)).tbl hi hw (fun h => h.elim h7 h8)

/-- KEY_STAT is as it was before the event of the end. -/
theorem rd_keyEnd_stat (s : State) (op slot code : Nat) :
    (s.keyEnd op slot code).rd 0x904C
      = (((s.setF ⟨0x904C, 20, 4⟩ code).setF ⟨0x904C, 16, 4⟩ op).setF ⟨0x904C, 0, 7⟩ slot).rd 0x904C := by
  have hstat : (s.keyEndStat op slot code).rd 0x904C
      = (((s.setF ⟨0x904C, 20, 4⟩ code).setF ⟨0x904C, 16, 4⟩ op).setF ⟨0x904C, 0, 7⟩ slot).rd 0x904C := by
    unfold State.keyEndStat
    rw [rd_bump (by decide) (by decide), rd_keyRegs (by unfold keyMaskReg; decide)]
  by_cases hc : code = 0
  · subst hc
    rw [keyEnd_ok, rd_raiseEv_apart (by decide) (by decide) (by decide) (by decide) (by decide), hstat]
  · rw [keyEnd_fail hc, rd_raiseEv_apart (by decide) (by decide) (by decide) (by decide) (by decide),
      rd_bump (by decide) (by decide), hstat]

theorem fld_keyEnd_stat (s : State) (op slot code lo w : Nat) :
    (s.keyEnd op slot code).fld ⟨0x904C, lo, w⟩
      = (((s.setF ⟨0x904C, 20, 4⟩ code).setF ⟨0x904C, 16, 4⟩ op).setF ⟨0x904C, 0, 7⟩ slot).fld ⟨0x904C, lo, w⟩ :=
  fld_of_rd (rd_keyEnd_stat s op slot code)

/-- KEY_STAT names the command, its slot and its code (R491). -/
theorem fld_keyEnd {s : State} {op slot code : Nat} (hop : op < 16) (hslot : slot < 128) (hcode : code < 16) :
    (s.keyEnd op slot code).fld ⟨0x904C, 20, 4⟩ = code ∧ (s.keyEnd op slot code).fld ⟨0x904C, 16, 4⟩ = op
      ∧ (s.keyEnd op slot code).fld ⟨0x904C, 0, 7⟩ = slot := by
  simp only [fld_keyEnd_stat]
  refine ⟨?_, ?_, ?_⟩ <;> simp <;> omega

/-- ZEROISED, BUSY and PEND stay at the end of a command. -/
theorem bit_keyEnd_stat {s : State} {op slot code i : Nat} (hi : 29 ≤ i) : (s.keyEnd op slot code).bit (bitAt 0x904C i) = s.bit (bitAt 0x904C i) := by
  unfold State.bit bitAt
  rw [fld_keyEnd_stat, fld_setF_ne _ _ _ _ (by simp; omega), fld_setF_ne _ _ _ _ (by simp; omega), fld_setF_ne _ _ _ _ (by simp; omega)]

theorem fld_keyEndStat_op {s : State} {op slot code : Nat} : (s.keyEndStat op slot code).fld Ctr.KEY_OP.f = (s.fld Ctr.KEY_OP.f + 1) % 2 ^ 32 := by
  have hregs : ∀ u : State, u.keyRegs.fld Ctr.KEY_OP.f = u.fld Ctr.KEY_OP.f := fun u =>
    fld_of_rd (rd_keyRegs (by unfold keyMaskReg; decide))
  unfold State.keyEndStat
  rw [fld_bump_wraps rfl (by decide), hregs]
  simp [Ctr.KEY_OP]

theorem fld_keyEnd_op (s : State) (op slot code : Nat) : (s.keyEnd op slot code).fld Ctr.KEY_OP.f = (s.fld Ctr.KEY_OP.f + 1) % 2 ^ 32 := by
  by_cases hc : code = 0
  · subst hc
    rw [keyEnd_ok, fld_raiseEv_apart (by decide) (by decide) (by decide) (by decide) (by decide), fld_keyEndStat_op]
  · rw [keyEnd_fail hc, fld_raiseEv_apart (by decide) (by decide) (by decide) (by decide) (by decide),
      fld_bump_apart (by decide) (by decide), fld_keyEndStat_op]

theorem fld_keyEnd_fails {s : State} {op slot code : Nat} (hc : code ≠ 0) :
    (s.keyEnd op slot code).fld Ctr.KEY_FAIL.f = min (2 ^ 32 - 1) (s.fld Ctr.KEY_FAIL.f + 1) := by
  have hregs : ∀ u : State, u.keyRegs.fld Ctr.KEY_FAIL.f = u.fld Ctr.KEY_FAIL.f := fun u =>
    fld_of_rd (rd_keyRegs (by unfold keyMaskReg; decide))
  rw [keyEnd_fail hc, fld_raiseEv_apart (by decide) (by decide) (by decide) (by decide) (by decide), fld_bump_stays rfl (by decide) (by decide)]
  unfold State.keyEndStat
  rw [fld_bump_apart (by decide) (by decide), hregs]
  simp [Ctr.KEY_FAIL]

/-- OP_DONE, or OP_FAIL. -/
theorem bit_keyEnd_done (s : State) (op slot : Nat) : (s.keyEnd op slot 0).bit (bitAt 0x9010 0) = true := by
  rw [keyEnd_ok]
  exact bit_raiseEv_self (by decide) (by decide) (by decide) rfl

theorem bit_keyEnd_failed {s : State} {op slot code : Nat} (hc : code ≠ 0) : (s.keyEnd op slot code).bit (bitAt 0x9010 1) = true := by
  rw [keyEnd_fail hc]
  exact bit_raiseEv_self (by decide) (by decide) (by decide) rfl

/-- A PENDING bit of the page that is set stays set at the end of a command. -/
theorem bit_keyEnd_stays {s : State} {op slot code b : Nat} (h : s.bit (bitAt 0x9010 b) = true) :
    (s.keyEnd op slot code).bit (bitAt 0x9010 b) = true := by
  have hstat : (s.keyEndStat op slot code).bit (bitAt 0x9010 b) = true := by
    refine (bit_of_rd (f := bitAt 0x9010 b) (s := s) ?_).trans h
    unfold State.keyEndStat
    rw [bitAt_addr, rd_bump (by decide) (by decide), rd_keyRegs (by unfold keyMaskReg; decide)]
    simp
  by_cases hc : code = 0
  · subst hc
    rw [keyEnd_ok]
    exact bit_raiseEv_stays (by decide) (p := 9) (by decide) (by decide) rfl hstat
  · rw [keyEnd_fail hc]
    refine bit_raiseEv_stays (by decide) (p := 9) (by decide) (by decide) rfl ?_
    exact (bit_of_rd (f := bitAt 0x9010 b) (rd_bump (by simp [Ctr.KEY_FAIL]) (by simp [Ctr.KEY_FAIL]))).trans hstat

end Sys2Proof.Machine
end

section
/-! ### KEY_CMD (R490) -/

namespace Sys2Proof.Machine

theorem keyCmd_stopped {s : State} {ok : Bool} {f : State → State} {st : Status} (h : s.keyStop = some st) : s.keyCmd ok f = (s, st) := by
  unfold State.keyCmd
  rw [h]

theorem keyCmd_free {s : State} {ok : Bool} {f : State → State} (h : s.keyStop = none) :
    s.keyCmd ok f = if ok then (f s, .ok) else (s, .refused) := by
  unfold State.keyCmd
  rw [h]

theorem keyStop_zeroised {s : State} (h : s.bit keyZeroised = true) : s.keyStop = some .refused := by
  unfold State.keyStop
  rw [if_pos h]

theorem keyStop_busy {s : State} (h : s.bit keyZeroised = false) (hb : s.bit keyBusy = true) : s.keyStop = some .busy := by
  unfold State.keyStop
  rw [if_neg (by simp [h]), if_pos hb]

theorem keyStop_free {s : State} (h : s.bit keyZeroised = false) (hb : s.bit keyBusy = false) : s.keyStop = none := by
  unfold State.keyStop
  rw [if_neg (by simp [h]), if_neg (by simp [hb])]

/-- The six commands of KEY_CMD: their rows and their operations. -/
def keyCommands : List (Instr × (State → State × Status)) :=
  [(.keyStage, keyStageCmd), (.keyVerify, keyVerifyCmd), (.promote, keyPromoteCmd), (.keyCancel, keyCancelCmd), (.keyRevoke, keyRevokeCmd),
    (.keyErase, keyEraseCmd)]

/-- A command that cannot act changes nothing and answers why. -/
theorem keyCommands_stopped {s : State} {st : Status} (h : s.keyStop = some st) :
    ∀ e ∈ keyCommands, exec e.1 s = .next s ∧ (e.2 s).2 = st := by
  have hstage : keyStageCmd s = (s, st) := by unfold keyStageCmd; exact keyCmd_stopped h
  have hverify : keyVerifyCmd s = (s, st) := by unfold keyVerifyCmd; exact keyCmd_stopped h
  have hpromote : keyPromoteCmd s = (s, st) := by unfold keyPromoteCmd; exact keyCmd_stopped h
  have hcancel : keyCancelCmd s = (s, st) := by unfold keyCancelCmd; exact keyCmd_stopped h
  have hrevoke : keyRevokeCmd s = (s, st) := by unfold keyRevokeCmd; rw [h]
  have herase : keyEraseCmd s = (s, st) := by unfold keyEraseCmd; exact keyCmd_stopped h
  simp only [keyCommands, List.forall_mem_cons]
  exact ⟨exec_of_cmd rfl hstage, exec_of_cmd rfl hverify, exec_of_cmd rfl hpromote, exec_of_cmd rfl hcancel, exec_of_cmd rfl hrevoke, exec_of_cmd rfl herase,
    fun _ he => absurd he List.not_mem_nil⟩

theorem keyArg_lt (s : State) : s.keyArg < 128 := fld_lt s ⟨0x9048, 0, 7⟩

/-- A running operation begins: BUSY, with the slot and what the import buffer held. -/
theorem keyRun_begins (s : State) (r : KeyRun) : let t := (s.keysMod (fun k => { k with run := some r })).setB keyBusy true
    t.keys = { s.keys with run := some r } ∧ t.bit keyBusy = true ∧ s.regsBut t (fun a => a = 0x904C) ∧ s.onlyIn t [.regs, .keys] := by
  refine ⟨rfl, bit_setB_self (by decide) rfl, ?_, ?_⟩
  · exact regsBut_setB (t := s.keysMod _) (regsBut_refl s _) rfl
  · exact (setB_keeps (T := [.regs, .keys]) (keeps_keys (Keeps.refl _ s) (by decide)) (by decide)).only

theorem keyStageCmd_free {s : State} (h : s.keyStop = none) :
    keyStageCmd s = if s.bit (bitAt 0x9040 0) = true ∧ (s.slotState s.keyArg = 0 ∨ (s.slotState s.keyArg = 3 ∧ s.slotNext s.keyArg = 0)) then
      ((s.keysMod (fun k => { k with run := some ⟨false, s.keyArg, s.importBuf⟩ })).setB keyBusy true, .ok) else (s, .refused) := by
  unfold keyStageCmd
  simp only [keyCmd_free h, Bool.and_eq_true, Bool.or_eq_true, beq_iff_eq]

theorem keyVerifyCmd_free {s : State} (h : s.keyStop = none) :
    keyVerifyCmd s = if s.slotState s.keyArg = 1 ∨ s.slotNext s.keyArg = 1 then
      ((s.keysMod (fun k => { k with run := some ⟨true, s.keyArg, []⟩ })).setB keyBusy true, .ok) else (s, .refused) := by
  unfold keyVerifyCmd
  simp only [keyCmd_free h, Bool.or_eq_true, beq_iff_eq]

/-! ### Slots -/

/-- A field of a word that is made of a number. -/
theorem wbits_ofNat {x lo n : Nat} (h : lo + n ≤ 32) : wbits (BitVec.ofNat 32 x) lo n = x / 2 ^ lo % 2 ^ n := by
  apply Nat.eq_of_testBit_eq
  intro i
  rw [wbits_testBit, Nat.testBit_mod_two_pow, Nat.testBit_div_two_pow, BitVec.getLsbD_ofNat]
  by_cases hi : i < n
  · have : lo + i < 32 := by omega
    simp [hi, this, Nat.add_comm]
  · simp [hi]

/-- The words that a record is written to are those from `w` on. -/
theorem trd_trecSet_apart {t i : Nat} {vs : List Word} : ∀ {s : State} {w t' i' w' : Nat},
    (∀ k, k < vs.length → tkey t' i' w' ≠ tkey t i (w + k)) → (s.trecSet t i w vs).trd t' i' w' = s.trd t' i' w' := by
  induction vs with
  | nil => exact fun _ => rfl
  | cons v vs ih =>
    intro s w t' i' w' h
    unfold State.trecSet
    have hrest : ∀ k, k < vs.length → tkey t' i' w' ≠ tkey t i (w + 1 + k) := fun k hk => by
      have := h (k + 1) (by simp only [List.length_cons]; omega)
      rwa [Nat.add_right_comm, Nat.add_assoc]
    rw [ih hrest, trd_twr_ne _ _ _ _ _ _ _ _ (by simpa using h 0 (by simp))]

/-- Words before the first one written stay. -/
theorem trd_trecSet_before {s : State} {t i w w' : Nat} {vs : List Word} (h : w' < w) : (s.trecSet t i w vs).trd t i w' = s.trd t i w' :=
  trd_trecSet_apart (fun k _ => by unfold tkey; omega)

/-- Words of a table whose number is another stay, within the range of a record. -/
theorem trd_trecSet_tid {s : State} {t i w t' i' w' : Nat} {vs : List Word} (h : t' ≠ t) (hi : i < 2 ^ 24) (hi' : i' < 2 ^ 24)
    (hw : w + vs.length ≤ 2 ^ 8) (hw' : w' < 2 ^ 8) : (s.trecSet t i w vs).trd t' i' w' = s.trd t' i' w' :=
  trd_trecSet_apart (fun k hk e => h ((tkey_inj _ _ _ _ _ _ hi' hw' hi (by omega)).1 e).1)

/-- Word 0 of a slot whose metadata are put. -/
theorem tfld_slotPut {s : State} {i st lo n : Nat} {k : KeyNew} (h : lo + n ≤ 32) :
    (s.slotPut i st k).tfld 0x0900 i 0 lo n = (st * 2 ^ 29 + k.kind * 2 ^ 23 + k.parent * 2 ^ 16) / 2 ^ lo % 2 ^ n := by
  unfold State.tfld State.slotPut
  rw [trd_trecSet_before (by decide), trd_twr_word (by decide), trd_twr_word (by decide), trd_twr_self, wbits_ofNat h]

/-- Another slot's words, and those of other tables, stay. -/
theorem trd_slotPut_tid {s : State} {i st t' i' w' : Nat} {k : KeyNew} (hl : k.label.length ≤ 2) (ht : t' ≠ 0x0900) (hi : i < 2 ^ 24)
    (hi' : i' < 2 ^ 24) (hw' : w' < 2 ^ 8) : (s.slotPut i st k).trd t' i' w' = s.trd t' i' w' := by
  unfold State.slotPut
  rw [trd_trecSet_tid ht hi hi' (by omega) hw', trd_twr_tid ht hi hi' (by decide) hw', trd_twr_tid ht hi hi' (by decide) hw',
    trd_twr_tid ht hi hi' (by decide) hw']

theorem keys_slotPut (s : State) (i st : Nat) (k : KeyNew) : (s.slotPut i st k).keys = s.keys :=
  (slotPut_keeps (Keeps.refl _ s) (List.Subset.refl _)).only .keys (by decide)

theorem regs_slotPut (s : State) (i st : Nat) (k : KeyNew) : (s.slotPut i st k).regs = s.regs :=
  (slotPut_keeps (Keeps.refl _ s) (List.Subset.refl _)).only .regs (by decide)

theorem stagedKey_stage (s : State) (i : Nat) (n : KeyNew) : (s.stage i n).stagedKey i = some n := by
  simp [State.stagedKey, State.stage, State.keysMod]

theorem stagedKey_unstage (s : State) (i : Nat) : (s.unstage i).stagedKey i = none := by
  simp [State.stagedKey, State.unstage, State.keysMod, List.lookup_eq_none_iff]
  exact fun _ _ _ h e => h e.symm

theorem stagedKey_of_keys {s t : State} (h : t.keys.staged = s.keys.staged) (i : Nat) : t.stagedKey i = s.stagedKey i := by
  unfold State.stagedKey
  rw [h]

end Sys2Proof.Machine
end

section
/-! ### STAGE and VERIFY end (R491 to R494) -/

namespace Sys2Proof.Machine

/-- The import buffer's words have no reset value. -/
theorem tblReset_importBuf : ∀ w, w < 72 → tblReset (tkey 0x0901 0 w) = 0 := by decide

theorem trd_zeroBuf {s : State} {w : Nat} (hw : w < 72) : s.zeroBuf.trd 0x0901 0 w = 0 := by
  unfold State.trd State.zeroBuf State.tclear
  rw [smGet_filter, tkeyTid_tkey _ _ _ (by decide) (by omega)]
  simpa using tblReset_importBuf w hw

/-- Clearing a table leaves the words of another. -/
theorem trd_tclear_tid {s : State} {t t' i w : Nat} {p : Nat → Bool} (h : t' ≠ t) (hi : i < 2 ^ 24) (hw : w < 2 ^ 8) :
    (s.tclear t p).trd t' i w = s.trd t' i w := by
  unfold State.trd State.tclear
  rw [smGet_filter, tkeyTid_tkey _ _ _ hi hw]
  simp [h]

theorem regs_zeroBuf (s : State) : s.zeroBuf.regs = s.regs := rfl

/-- BUSY clear, no operation running, the buffer zero: the state from which STAGE stores or does not. -/
theorem tfld_keyRunEnd_zeroBuf {s : State} {i lo n : Nat} (hi : i < 2 ^ 24) :
    (s.keyRunEnd.zeroBuf).tfld 0x0900 i 0 lo n = s.tfld 0x0900 i 0 lo n := by
  unfold State.tfld State.zeroBuf
  rw [trd_tclear_tid (by decide) hi (by decide)]
  exact congrArg (wbits · lo n) (trd_of_tbl (by simp [State.keyRunEnd, State.keysMod]) _ _ _)

/-- What a key command's end shows, whatever led to it: nothing runs, KEY_STAT, the counters and the event (R491). -/
structure KeyEnded (s t : State) (op slot code : Nat) : Prop where
  run : t.keys.run = none
  idle : t.bit keyBusy = false
  codeShown : t.fld ⟨0x904C, 20, 4⟩ = code
  opShown : t.fld ⟨0x904C, 16, 4⟩ = op
  slotShown : t.fld ⟨0x904C, 0, 7⟩ = slot
  counted : t.fld Ctr.KEY_OP.f = (s.fld Ctr.KEY_OP.f + 1) % 2 ^ 32
  done : code = 0 → t.bit (bitAt 0x9010 0) = true
  failed : code ≠ 0 → t.bit (bitAt 0x9010 1) = true ∧ t.fld Ctr.KEY_FAIL.f = min (2 ^ 32 - 1) (s.fld Ctr.KEY_FAIL.f + 1)

/-- The end of an operation from a state in which it no longer runs and that has the counters of `s`. -/
theorem keyEnded_of_idle {s u : State} {op slot code : Nat} (hrun : u.keys.run = none) (hidle : u.bit keyBusy = false)
    (hop : u.fld Ctr.KEY_OP.f = s.fld Ctr.KEY_OP.f) (hfail : u.fld Ctr.KEY_FAIL.f = s.fld Ctr.KEY_FAIL.f) (ho : op < 16) (hs : slot < 128)
    (hc : code < 16) : KeyEnded s (u.keyEnd op slot code) op slot code := by
  obtain ⟨h1, h2, h3⟩ := fld_keyEnd (s := u) ho hs hc
  exact {
    run := by rw [keys_keyEnd]; exact hrun
    idle := (bit_keyEnd_stat (by decide)).trans hidle
    codeShown := h1
    opShown := h2
    slotShown := h3
    counted := by rw [fld_keyEnd_op, hop]
    done := by rintro rfl; exact bit_keyEnd_done u op slot
    failed := fun h => ⟨bit_keyEnd_failed h, by rw [fld_keyEnd_fails h, hfail]⟩ }

theorem bit_keyRunEnd_busy (s : State) : s.keyRunEnd.bit keyBusy = false := bit_setB_self (by decide) rfl

theorem stageCode_le (s : State) (r : KeyRun) (a b : Bool) : s.stageCode r a b ≤ 7 := by
  unfold State.stageCode
  extract_lets kind secret
  repeat' split
  all_goals omega

/-- A kind that is allowed in a slot fits its field. -/
theorem kindAllowed_lt {kind slot : Nat} (h : kindAllowed kind slot = true) : kind < 16 := by
  simp only [kindAllowed, Bool.or_eq_true, Bool.and_eq_true, beq_iff_eq, decide_eq_true_eq] at h
  omega

theorem stageCode_zero_kind {s : State} {r : KeyRun} {a b : Bool} (h : s.stageCode r a b = 0) : bufByte r.buf 1 < 16 := by
  by_contra hk
  have hna : kindAllowed (bufByte r.buf 1) r.slot = false := by
    cases hc : kindAllowed (bufByte r.buf 1) r.slot
    · rfl
    · exact absurd (kindAllowed_lt hc) hk
  unfold State.stageCode at h
  simp [hna] at h

theorem keyOf_parent_lt (ws : List Word) (kcv : Word) : (keyOf ws kcv).parent < 128 := by
  unfold keyOf
  simp only
  split <;> omega

/-- What STAGE stores (R490): nothing with a code, else the key of the buffer, in an empty slot or beside the ACTIVE key. -/
def State.stageStored (s : State) (r : KeyRun) (code : Nat) (n : KeyNew) : State :=
  if code ≠ 0 then s
  else if s.slotState r.slot = 0 then (s.stage r.slot n).slotPut r.slot 1 n
  else ((s.stage r.slot n).setSlotNext r.slot 1).twr 0x0900 r.slot 3 (BitVec.ofNat 32 n.gen)

theorem exec_keyStageEnd {s : State} {r : KeyRun} (h : s.keys.run = some r) (hv : r.verify = false) (tagOk pointOk : Bool) (kcv : Word) :
    exec (.keyStageEnd tagOk pointOk kcv) s
      = .next (((s.keyRunEnd.zeroBuf).stageStored r (s.stageCode r tagOk pointOk) (keyOf r.buf kcv)).keyEnd 1 r.slot
          (s.stageCode r tagOk pointOk)) := by
  simp only [exec, execKeyStageEnd, h, hv, State.stageStored, Bool.false_eq_true, if_false]

theorem stageStored_keeps {s : State} {r : KeyRun} {code : Nat} {n : KeyNew} : Keeps [.tbl, .keys] s (s.stageStored r code n) := by
  have hstage : Keeps [.tbl, .keys] s (s.stage r.slot n) := keeps_keys (Keeps.refl _ s) (by decide)
  unfold State.stageStored
  refine keeps_ite (Keeps.refl _ s) (keeps_ite (slotPut_keeps hstage (by decide)) (twr_keeps (tset_keeps hstage (by decide)) (by decide)))

theorem regs_stageStored (s : State) (r : KeyRun) (code : Nat) (n : KeyNew) : (s.stageStored r code n).regs = s.regs :=
  stageStored_keeps.only .regs (by decide)

theorem run_stageStored (s : State) (r : KeyRun) (code : Nat) (n : KeyNew) : (s.stageStored r code n).keys.run = s.keys.run := by
  unfold State.stageStored
  split
  · rfl
  · split
    · exact (congrArg KeySt.run (keys_slotPut _ _ _ _)).trans rfl
    · rfl

theorem trd_stageStored_buf {s : State} {r : KeyRun} {code w : Nat} {n : KeyNew} (hr : r.slot < 128) (hl : n.label.length ≤ 2) (hw : w < 72) :
    (s.stageStored r code n).trd 0x0901 0 w = s.trd 0x0901 0 w := by
  have htid : ∀ {u : State} {j : Nat} {v : Word}, j < 2 ^ 8 → (u.twr 0x0900 r.slot j v).trd 0x0901 0 w = u.trd 0x0901 0 w := fun hj =>
    trd_twr_tid (by decide) (by omega) (by decide) hj (by omega)
  unfold State.stageStored
  split
  · rfl
  · split
    · rw [trd_slotPut_tid hl (by decide) (by omega) (by decide) (by omega)]
      rfl
    · rw [htid (by decide), State.setSlotNext, State.tset, htid (by decide)]
      rfl

/-- An empty slot is STAGED with the kind of the buffer. -/
theorem stageStored_empty {s : State} {r : KeyRun} {n : KeyNew} (h : s.slotState r.slot = 0) (hk : n.kind < 16) (hp : n.parent < 128) :
    (s.stageStored r 0 n).slotState r.slot = 1 ∧ (s.stageStored r 0 n).slotKind r.slot = n.kind := by
  unfold State.stageStored
  rw [if_neg (by decide), if_pos h]
  unfold State.slotState State.slotKind
  rw [tfld_slotPut (by decide), tfld_slotPut (by decide)]
  omega

/-- An ACTIVE key keeps its state, and its successor is staged. -/
theorem stageStored_beside {s : State} {r : KeyRun} {n : KeyNew} (h : s.slotState r.slot ≠ 0) :
    (s.stageStored r 0 n).slotNext r.slot = 1 ∧ (s.stageStored r 0 n).slotState r.slot = s.slotState r.slot := by
  unfold State.stageStored
  rw [if_neg (by decide), if_neg h]
  simp [State.slotNext, State.slotState, State.setSlotNext]
  rfl

theorem stagedKey_stageStored {s : State} {r : KeyRun} {n : KeyNew} : (s.stageStored r 0 n).stagedKey r.slot = some n := by
  unfold State.stageStored
  rw [if_neg (by decide)]
  split
  · rw [stagedKey_of_keys (congrArg KeySt.staged (keys_slotPut _ _ _ _)), stagedKey_stage]
  · exact stagedKey_stage s r.slot n

theorem slotState_keyEnd {s : State} {op slot code i : Nat} (hi : i < 128) : (s.keyEnd op slot code).slotState i = s.slotState i :=
  tfld_keyEnd (by decide) (by decide) (by omega) (by decide)

theorem slotNext_keyEnd {s : State} {op slot code i : Nat} (hi : i < 128) : (s.keyEnd op slot code).slotNext i = s.slotNext i :=
  tfld_keyEnd (by decide) (by decide) (by omega) (by decide)

theorem slotKind_keyEnd {s : State} {op slot code i : Nat} (hi : i < 128) : (s.keyEnd op slot code).slotKind i = s.slotKind i :=
  tfld_keyEnd (by decide) (by decide) (by omega) (by decide)

/-- KEY_STAGE_END (R490 to R493). -/
theorem keyStageEnd_ends {s : State} {r : KeyRun} (h : s.keys.run = some r) (hv : r.verify = false) (hr : r.slot < 128) (tagOk pointOk : Bool)
    (kcv : Word) :
    let code := s.stageCode r tagOk pointOk
    runs (.keyStageEnd tagOk pointOk kcv) s (fun t => KeyEnded s t 1 r.slot code ∧ (∀ w, w < 72 → t.trd 0x0901 0 w = 0)
      ∧ (code = 0 → s.slotState r.slot = 0 → t.slotState r.slot = 1 ∧ t.slotKind r.slot = bufByte r.buf 1)
      ∧ (code = 0 → s.slotState r.slot ≠ 0 → t.slotNext r.slot = 1 ∧ t.slotState r.slot = s.slotState r.slot)
      ∧ (code = 0 → t.stagedKey r.slot = some (keyOf r.buf kcv))
      ∧ (code ≠ 0 → t.keys.staged = s.keys.staged ∧ t.slotState r.slot = s.slotState r.slot ∧ t.slotNext r.slot = s.slotNext r.slot)) := by
  intro code
  refine runs_intro (exec_keyStageEnd h hv tagOk pointOk kcv) ?_
  have hcode : s.stageCode r tagOk pointOk = code := rfl
  have hle : code ≤ 7 := stageCode_le s r tagOk pointOk
  have hkind : code = 0 → (keyOf r.buf kcv).kind < 16 := stageCode_zero_kind
  have hfreed : ∀ lo n, (s.keyRunEnd.zeroBuf).tfld 0x0900 r.slot 0 lo n = s.tfld 0x0900 r.slot 0 lo n := fun lo n =>
    tfld_keyRunEnd_zeroBuf (by omega)
  have hstate : (s.keyRunEnd.zeroBuf).slotState r.slot = s.slotState r.slot := hfreed 29 3
  have hnext : (s.keyRunEnd.zeroBuf).slotNext r.slot = s.slotNext r.slot := hfreed 27 2
  rw [hcode, slotState_keyEnd hr, slotNext_keyEnd hr, slotKind_keyEnd hr]
  clear_value code
  refine ⟨?_, fun w hw => ?_, ?_, ?_, ?_, ?_⟩
  · refine keyEnded_of_idle ?_ ?_ ?_ ?_ (by decide) hr (by omega)
    · rw [run_stageStored]; rfl
    · rw [bit_of_regs (regs_stageStored _ _ _ _), bit_of_regs (regs_zeroBuf _)]
      exact bit_keyRunEnd_busy s
    · rw [fld_of_regs (regs_stageStored _ _ _ _), fld_of_regs (regs_zeroBuf _)]
      exact fld_setB_apart (.inl (by decide))
    · rw [fld_of_regs (regs_stageStored _ _ _ _), fld_of_regs (regs_zeroBuf _)]
      exact fld_setB_apart (.inl (by decide))
  · rw [trd_keyEnd (by decide) (by decide) (by decide) (by omega), trd_stageStored_buf hr (by simp [keyOf]) hw]
    exact trd_zeroBuf hw
  · rintro rfl h0
    exact stageStored_empty (hstate.trans h0) (hkind rfl) (keyOf_parent_lt _ _)
  · rintro rfl h0
    rw [← hstate] at h0 ⊢
    exact stageStored_beside h0
  · rintro rfl
    rw [stagedKey_of_keys (congrArg KeySt.staged (keys_keyEnd _ _ _ _))]
    exact stagedKey_stageStored
  · intro h0
    have hnone : (s.keyRunEnd.zeroBuf).stageStored r code (keyOf r.buf kcv) = s.keyRunEnd.zeroBuf := if_pos h0
    rw [keys_keyEnd, hnone, hstate, hnext]
    exact ⟨rfl, rfl, rfl⟩

/-- The code with which a VERIFY ends (R493, R494). -/
def State.verifyCode (s : State) (slot : Nat) (n : KeyNew) (pointOk sigOk : Bool) : Nat :=
  if 6 ≤ n.kind then (if n.kcv = n.want then 0 else 5)
  else if !pointOk then 6
  else if (n.kind < 6 && s.firstKey slot) || sigOk then 0 else 6

/-- What VERIFY shows of a slot whose staged key it has judged. -/
def State.verifyStored (s : State) (slot code : Nat) (first : Bool) : State :=
  let s2 :=
    if code ≠ 0 then s
    else if s.slotState slot = 1 then s.setSlotState slot 2
    else s.setSlotNext slot 2
  if code = 0 && first then s2.raiseEv 9 4 else s2

theorem exec_keyVerifyEnd {s : State} {r : KeyRun} {n : KeyNew} (h : s.keys.run = some r) (hv : r.verify = true)
    (hn : s.stagedKey r.slot = some n) (pointOk sigOk : Bool) :
    exec (.keyVerifyEnd pointOk sigOk) s
      = .next ((s.keyRunEnd.verifyStored r.slot (s.verifyCode r.slot n pointOk sigOk) (n.kind < 6 && s.firstKey r.slot)).keyEnd 2 r.slot
          (s.verifyCode r.slot n pointOk sigOk)) := by
  simp only [exec, execKeyVerifyEnd, h, hv, hn, Bool.not_true, Bool.false_eq_true, if_false]
  rfl

/-- R493 and R494: the staged key verifies. -/
def State.verifies (s : State) (slot : Nat) (n : KeyNew) (pointOk sigOk : Bool) : Prop :=
  (6 ≤ n.kind ∧ n.kcv = n.want) ∨ (n.kind < 6 ∧ pointOk = true ∧ ((n.kind < 6 ∧ slot = 3 ∧ s.slotState 3 ≠ 3) ∨ sigOk = true))

theorem firstKey_iff {s : State} {slot : Nat} : s.firstKey slot = true ↔ slot = 3 ∧ s.slotState 3 ≠ 3 := by
  simp [State.firstKey]

theorem verifyCode_of_verifies {s : State} {slot : Nat} {n : KeyNew} {pointOk sigOk : Bool} (h : s.verifies slot n pointOk sigOk) :
    s.verifyCode slot n pointOk sigOk = 0 := by
  unfold State.verifyCode
  rcases h with ⟨hk, hkcv⟩ | ⟨hk, hpoint, hsig⟩
  · rw [if_pos hk, if_pos hkcv]
  · rw [if_neg (by omega), if_neg (by simp [hpoint]), if_pos]
    simp only [Bool.or_eq_true, Bool.and_eq_true, decide_eq_true_eq, firstKey_iff]
    exact hsig

theorem verifyCode_of_not_verifies {s : State} {slot : Nat} {n : KeyNew} {pointOk sigOk : Bool} (h : ¬ s.verifies slot n pointOk sigOk) :
    s.verifyCode slot n pointOk sigOk = if 6 ≤ n.kind then 5 else 6 := by
  unfold State.verifies at h
  unfold State.verifyCode
  split
  · rename_i hk
    exact if_neg (fun e => h (.inl ⟨hk, e⟩))
  · rename_i hk
    cases pointOk
    · rfl
    · rw [if_neg (by decide), if_neg]
      simp only [Bool.or_eq_true, Bool.and_eq_true, decide_eq_true_eq, firstKey_iff]
      exact fun e => h (.inr ⟨by omega, rfl, e⟩)

theorem verifyStored_keeps {s : State} {slot code : Nat} {first : Bool} :
    Keeps [.regs, .tbl, .items, .icu, .evr] s (s.verifyStored slot code first) := by
  have hput : Keeps [.regs, .tbl, .items, .icu, .evr] s
      (if code ≠ 0 then s else if s.slotState slot = 1 then s.setSlotState slot 2 else s.setSlotNext slot 2) :=
    keeps_ite (Keeps.refl _ s) (keeps_ite (tset_keeps (Keeps.refl _ s) (by decide)) (tset_keeps (Keeps.refl _ s) (by decide)))
  unfold State.verifyStored
  exact keeps_ite (raiseEv_keeps hput (by decide)) hput

theorem keys_verifyStored (s : State) (slot code : Nat) (first : Bool) : (s.verifyStored slot code first).keys = s.keys :=
  verifyStored_keeps.only .keys (by decide)

/-- A register word that events of the KEYS page leave stays when the verdict is stored. -/
theorem rd_verifyStored {s : State} {slot code a : Nat} {first : Bool} (ha : ¬ evReg 9 a) : (s.verifyStored slot code first).rd a = s.rd a := by
  have hput : (if code ≠ 0 then s else if s.slotState slot = 1 then s.setSlotState slot 2 else s.setSlotNext slot 2).rd a = s.rd a := by
    split
    · rfl
    · split <;> exact rd_tset ..
  unfold State.verifyStored
  simp only
  split
  · rw [rd_raiseEv _ (by decide) ha, hput]
  · exact hput

/-- A verdict without a code makes a STAGED slot VERIFIED, and otherwise its successor. -/
theorem verifyStored_good {s : State} {slot : Nat} {first : Bool} (hs : slot < 128) :
    (s.slotState slot = 1 → (s.verifyStored slot 0 first).slotState slot = 2)
      ∧ (s.slotState slot ≠ 1 → (s.verifyStored slot 0 first).slotNext slot = 2) := by
  have hev : ∀ (u : State) (lo n : Nat), (if first = true then u.raiseEv 9 4 else u).tfld 0x0900 slot 0 lo n = u.tfld 0x0900 slot 0 lo n := by
    intro u lo n
    split
    · exact tfld_raiseEv_apart (by decide) (by decide) (by decide) (by omega) (by decide)
    · rfl
  unfold State.verifyStored
  simp only [ne_eq, not_true_eq_false, if_false, decide_true, Bool.true_and]
  constructor
  · intro h1
    rw [if_pos h1]
    exact (hev _ 29 3).trans (tfld_tset_self (by decide))
  · intro h1
    rw [if_neg h1]
    exact (hev _ 27 2).trans (tfld_tset_self (by decide))

theorem verifyStored_bad {s : State} {slot code : Nat} {first : Bool} (h : code ≠ 0) : s.verifyStored slot code first = s := by
  unfold State.verifyStored
  simp [h]

theorem bit_verifyStored_first {s : State} {slot : Nat} : (s.verifyStored slot 0 true).bit (bitAt 0x9010 4) = true := by
  unfold State.verifyStored
  simp only [decide_true, Bool.and_true, if_true]
  exact bit_raiseEv_self (by decide) (by decide) (by decide) rfl

/-- KEY_VERIFY_END (R493, R494). -/
theorem keyVerifyEnd_ends {s : State} {r : KeyRun} {n : KeyNew} (h : s.keys.run = some r) (hv : r.verify = true) (hr : r.slot < 128)
    (hn : s.stagedKey r.slot = some n) (pointOk sigOk : Bool) :
    runs (.keyVerifyEnd pointOk sigOk) s (fun t => t.keys.staged = s.keys.staged
      ∧ (s.verifies r.slot n pointOk sigOk → KeyEnded s t 2 r.slot 0 ∧ (s.slotState r.slot = 1 → t.slotState r.slot = 2)
        ∧ (s.slotState r.slot ≠ 1 → t.slotNext r.slot = 2) ∧ (n.kind < 6 ∧ r.slot = 3 ∧ s.slotState 3 ≠ 3 → t.bit (bitAt 0x9010 4) = true))
      ∧ (¬ s.verifies r.slot n pointOk sigOk → KeyEnded s t 2 r.slot (if 6 ≤ n.kind then 5 else 6)
        ∧ t.slotState r.slot = s.slotState r.slot ∧ t.slotNext r.slot = s.slotNext r.slot)) := by
  refine runs_intro (exec_keyVerifyEnd h hv hn pointOk sigOk) ?_
  have htbl : ∀ i lo w, s.keyRunEnd.tfld 0x0900 i 0 lo w = s.tfld 0x0900 i 0 lo w := fun i lo w =>
    tfld_of_tbl (by simp [State.keyRunEnd, State.keysMod]) _ _ _ _ _
  have hended : ∀ code first, code < 16 →
      KeyEnded s ((s.keyRunEnd.verifyStored r.slot code first).keyEnd 2 r.slot code) 2 r.slot code := by
    intro code first hc
    refine keyEnded_of_idle ?_ ?_ ?_ ?_ (by decide) hr hc
    · rw [keys_verifyStored]; rfl
    · exact (bit_of_rd (rd_verifyStored (by unfold evReg; decide))).trans (bit_keyRunEnd_busy s)
    · exact (fld_of_rd (rd_verifyStored (by unfold evReg; decide))).trans (fld_setB_apart (.inl (by decide)))
    · exact (fld_of_rd (rd_verifyStored (by unfold evReg; decide))).trans (fld_setB_apart (.inl (by decide)))
  refine ⟨by rw [keys_keyEnd, keys_verifyStored]; rfl, fun hgood => ?_, fun hbad => ?_⟩
  · rw [verifyCode_of_verifies hgood, slotState_keyEnd hr, slotNext_keyEnd hr]
    have hstate : s.keyRunEnd.slotState r.slot = s.slotState r.slot := htbl _ _ _
    obtain ⟨h1, h2⟩ := verifyStored_good (s := s.keyRunEnd) (first := n.kind < 6 && s.firstKey r.slot) hr
    rw [hstate] at h1 h2
    refine ⟨hended 0 _ (by decide), h1, h2, fun hf => ?_⟩
    have hfirst : (decide (n.kind < 6) && s.firstKey r.slot) = true := by
      simp only [Bool.and_eq_true, decide_eq_true_eq, firstKey_iff]
      exact hf
    rw [hfirst]
    exact bit_keyEnd_stays bit_verifyStored_first
  · rw [verifyCode_of_not_verifies hbad, slotState_keyEnd hr, slotNext_keyEnd hr]
    have hc : (if 6 ≤ n.kind then 5 else 6) ≠ 0 := by split <;> decide
    refine ⟨hended _ _ (by split <;> decide), ?_, ?_⟩
    · rw [verifyStored_bad hc]; exact htbl _ _ _
    · rw [verifyStored_bad hc]; exact htbl _ _ _

/-- Settles O57: each clause is what the command's operation, or the end of the operation that runs, does by the lemmas above. -/
theorem keysAreStagedAndVerified : Obligations.KeysAreStagedAndVerified := by
  intro s ended i stageOk verifyOk
  have hended : ∀ {t : State} {op slot code : Nat}, KeyEnded s t op slot code → ended t op slot code := fun h =>
    ⟨h.run, h.idle, h.codeShown, h.opShown, h.slotShown, h.counted, h.done, h.failed⟩
  refine ⟨fun e he => ⟨fun hz => keyCommands_stopped (keyStop_zeroised hz) e he, fun hz hb => keyCommands_stopped (keyStop_busy hz hb) e he⟩,
    fun hz hb => ?_, fun r tagOk pointOk kcv h hv hr => ?_, fun r n pointOk sigOk h hv hr hn => ?_, fun r pointOk sigOk h hv hn => ?_,
    fun hrun a b c => ?_, fun hrun a b => ?_⟩
  · have hstage := keyStageCmd_free (keyStop_free hz hb)
    have hverify := keyVerifyCmd_free (keyStop_free hz hb)
    refine ⟨fun hok => ?_, fun hno => ?_, fun hok => ?_, fun hno => ?_⟩
    · obtain ⟨hx, hst⟩ := exec_of_cmd (c := .keyStage) rfl (hstage.trans (if_pos hok))
      exact ⟨runs_intro hx (keyRun_begins s _), hst⟩
    · exact exec_of_cmd rfl (hstage.trans (if_neg hno))
    · obtain ⟨hx, hst⟩ := exec_of_cmd (c := .keyVerify) rfl (hverify.trans (if_pos hok))
      exact ⟨runs_intro hx (keyRun_begins s _), hst⟩
    · exact exec_of_cmd rfl (hverify.trans (if_neg hno))
  · obtain ⟨t, ht, hend, hrest⟩ := keyStageEnd_ends h hv hr tagOk pointOk kcv
    exact ⟨t, ht, hended hend, hrest⟩
  · obtain ⟨t, ht, hst, hgood, hbad⟩ := keyVerifyEnd_ends h hv hr hn pointOk sigOk
    exact ⟨t, ht, hst, fun g => ⟨hended (hgood g).1, (hgood g).2⟩, fun g => ⟨hended (hbad g).1, (hbad g).2⟩⟩
  · have he : exec (.keyVerifyEnd pointOk sigOk) s = .next s.keyRunEnd := by
      simp only [exec, execKeyVerifyEnd, h, hv, hn, Bool.not_true, Bool.false_eq_true, if_false]
    exact runs_intro he ⟨rfl, bit_keyRunEnd_busy s, (keyRunEnd_keeps (Keeps.refl _ s) (List.Subset.refl _)).only⟩
  · cases h : s.keys.run with
    | none => simp only [exec, execKeyStageEnd, h]
    | some r => simp only [exec, execKeyStageEnd, h, hrun r h, if_true]
  · cases h : s.keys.run with
    | none => simp only [exec, execKeyVerifyEnd, h]
    | some r => simp only [exec, execKeyVerifyEnd, h, hrun r h, Bool.not_false, if_true]

end Sys2Proof.Machine
end

section
/-! ### PROMOTE, CANCEL, REVOKE, ERASE and the tamper response (R490, R495, R496, R502) -/

namespace Sys2Proof.Machine

/-! #### What they may touch -/

/-- The register words of the KEYS page that withdrawals and ends of key operations write. -/
def keyReg (a : Nat) : Prop := keyEndReg a ∨ a = 0x9050

/-- The tables that they write: slots, import buffer, public keys, and what events touch. -/
def keyTbl (t : Nat) : Prop := evTbl t ∨ t = 0x0900 ∨ t = 0x0901 ∨ t = 0x0902

/-- From `s` to `t` only words of the key store, and what its events touch, differ. -/
def KeyNear (s t : State) : Prop := Near keyReg keyTbl s t

theorem KeyNear.refl (s : State) : KeyNear s s := Near.refl _ _ s

theorem KeyNear.keyEnd {s t : State} (h : KeyNear s t) (op slot code : Nat) : KeyNear s (t.keyEnd op slot code) :=
  h.trans ((near_keyEnd (Near.refl _ _ t)).mono (fun _ => .inl) (fun _ => .inl))

theorem KeyNear.pendClear {s t : State} (h : KeyNear s t) : KeyNear s t.pendClear := by
  have hset : KeyNear s ((t.setB keyPend false).wr 0x9050 0) := near_wr (near_setB h (.inl (.inl rfl))) (.inr rfl)
  exact near_same hset rfl rfl

theorem KeyNear.pendFail {s t : State} (h : KeyNear s t) (code : Nat) : KeyNear s (t.pendFail code) := h.pendClear.keyEnd _ _ _

theorem KeyNear.keyRunEnd {s t : State} (h : KeyNear s t) : KeyNear s t.keyRunEnd :=
  near_setB (near_same h rfl rfl) (.inl (.inl rfl))

theorem near_tclear {p q : Nat → Prop} {s t : State} {tid : Nat} {f : Nat → Bool} (h : Near p q s t) (hq : q tid) : Near p q s (t.tclear tid f) := by
  refine ⟨h.regs, tblBut_trans h.tbl fun k hk => ?_⟩
  have hne : tkeyTid k ≠ tid := fun e => hk (e ▸ hq)
  unfold State.tclear
  rw [smGet_filter]
  simp [hne]

theorem KeyNear.zeroBuf {s t : State} (h : KeyNear s t) : KeyNear s t.zeroBuf := near_tclear h (.inr (.inr (.inl rfl)))

theorem KeyNear.runFail {s t : State} (h : KeyNear s t) (code : Nat) : KeyNear s (t.runFail code) := by
  unfold State.runFail
  split
  · exact h
  · split
    · exact h.keyRunEnd.keyEnd _ _ _
    · exact h.keyRunEnd.zeroBuf.keyEnd _ _ _

/-! #### PROMOTE -/

theorem keyPromoteCmd_free {s : State} (h : s.keyStop = none) :
    keyPromoteCmd s = if s.slotState s.keyArg = 2 ∨ s.slotNext s.keyArg = 2 then
      (((s.keysMod (fun k => { k with promDue := false })).setB keyPend true).wr 0x9050
        (BitVec.ofNat 32 (s.fld ⟨0x9048, 16, 10⟩ * 2 ^ 16 + s.fld ⟨0x9048, 15, 1⟩ * 2 ^ 15 + s.keyArg)), .ok)
      else (s, .refused) := by
  unfold keyPromoteCmd
  simp only [keyCmd_free h, Bool.or_eq_true, beq_iff_eq]

/-- The promotion waits: PEND, and KEY_PEND names the slot and the frame. -/
theorem keyPromote_waits (s : State) :
    let t := ((s.keysMod (fun k => { k with promDue := false })).setB keyPend true).wr 0x9050
      (BitVec.ofNat 32 (s.fld ⟨0x9048, 16, 10⟩ * 2 ^ 16 + s.fld ⟨0x9048, 15, 1⟩ * 2 ^ 15 + s.keyArg))
    t.bit keyPend = true ∧ t.pendSlot = s.keyArg ∧ t.fld ⟨0x9050, 15, 1⟩ = s.fld ⟨0x9048, 15, 1⟩
      ∧ t.fld ⟨0x9050, 16, 10⟩ = s.fld ⟨0x9048, 16, 10⟩ ∧ t.keys = { s.keys with promDue := false }
      ∧ s.regsBut t (fun a => a = 0x904C ∨ a = 0x9050) ∧ s.onlyIn t [.regs, .keys] := by
  have hfrm : s.fld ⟨0x9048, 16, 10⟩ < 2 ^ 10 := fld_lt s _
  have hwhen : s.fld ⟨0x9048, 15, 1⟩ < 2 ^ 1 := fld_lt s _
  have harg := keyArg_lt s
  refine ⟨?_, ?_, ?_, ?_, rfl, ?_, ?_⟩
  · exact (bit_wr_apart (g := keyPend) (by decide)).trans (bit_setB_self (by decide) rfl)
  · unfold State.pendSlot
    rw [fld_wr_same, wbits_ofNat (by decide)]
    omega
  · rw [fld_wr_same, wbits_ofNat (by decide)]
    omega
  · rw [fld_wr_same, wbits_ofNat (by decide)]
    omega
  · exact regsBut_wr (regsBut_setB (t := s.keysMod _) (regsBut_refl s _) (.inl rfl)) (.inr rfl)
  · exact (wr_keeps (T := [.regs, .keys]) (setB_keeps (keeps_keys (Keeps.refl _ s) (by decide)) (by decide)) (by decide)).only

/-! #### The withdrawal of a promotion -/

theorem bit_pendClear (s : State) : s.pendClear.bit keyPend = false := by
  unfold State.pendClear
  rw [bit_keysMod, bit_wr_apart (by decide), bit_setB_self (by decide) rfl]

theorem staged_pendClear (s : State) : s.pendClear.keys.staged = s.keys.staged := rfl

theorem tbl_pendClear (s : State) : s.pendClear.tbl = s.tbl := by
  simp [State.pendClear, State.keysMod]

theorem bit_pendFail (s : State) (code : Nat) : (s.pendFail code).bit keyPend = false :=
  (bit_keyEnd_stat (by decide)).trans (bit_pendClear s)

theorem staged_pendFail (s : State) (code : Nat) : (s.pendFail code).keys.staged = s.keys.staged :=
  (congrArg KeySt.staged (keys_keyEnd s.pendClear _ _ _)).trans (staged_pendClear s)

theorem tfld_pendFail {s : State} {code i lo n : Nat} (hi : i < 2 ^ 24) : (s.pendFail code).tfld 0x0900 i 0 lo n = s.tfld 0x0900 i 0 lo n :=
  (tfld_keyEnd (by decide) (by decide) hi (by decide)).trans (tfld_of_tbl (tbl_pendClear s) _ _ _ _ _)

theorem trd_pendFail {s : State} {code t i w : Nat} (h7 : t ≠ 0x0700) (h8 : t ≠ 0x0802) (hi : i < 2 ^ 24) (hw : w < 2 ^ 8) :
    (s.pendFail code).trd t i w = s.trd t i w :=
  (trd_keyEnd h7 h8 hi hw).trans (trd_of_tbl (tbl_pendClear s) _ _ _)

/-- What a key command's end shows in KEY_STAT and the page's events (R491). -/
structure KeyShown (t : State) (op slot code : Nat) : Prop where
  codeShown : t.fld ⟨0x904C, 20, 4⟩ = code
  opShown : t.fld ⟨0x904C, 16, 4⟩ = op
  slotShown : t.fld ⟨0x904C, 0, 7⟩ = slot
  done : code = 0 → t.bit (bitAt 0x9010 0) = true
  failed : code ≠ 0 → t.bit (bitAt 0x9010 1) = true

theorem keyShown_keyEnd {s : State} {op slot code : Nat} (ho : op < 16) (hs : slot < 128) (hc : code < 16) :
    KeyShown (s.keyEnd op slot code) op slot code := by
  obtain ⟨h1, h2, h3⟩ := fld_keyEnd (s := s) ho hs hc
  exact ⟨h1, h2, h3, by rintro rfl; exact bit_keyEnd_done s op slot, bit_keyEnd_failed⟩

theorem pendSlot_lt (s : State) : s.pendSlot < 128 := fld_lt s ⟨0x9050, 0, 7⟩

/-! #### What a state shows beside -/

theorem regs_andShown (s r : State) : (s.andShown r).regs = r.regs := by
  unfold State.andShown
  split
  · rfl
  · exact regs_shown r

theorem tbl_andShown (s r : State) : (s.andShown r).tbl = r.tbl := by
  unfold State.andShown
  split
  · rfl
  · exact tbl_shown r

theorem keys_andShown (s r : State) : (s.andShown r).keys = r.keys := by
  unfold State.andShown
  split
  · rfl
  · exact keys_shown r

theorem andShown_self (s : State) : s.andShown s = s := if_pos rfl

end Sys2Proof.Machine
end

section
/-! #### PROMOTED (R490, R496) -/

namespace Sys2Proof.Machine

/-- The clock of a tick is read from the record in execution and the words of DEV_STAT, TIME_SEC and TIME_SEC_HI. -/
theorem nowSec_congr {s t : State} (htwin : t.twin = s.twin) (h1 : t.rd 0x0054 = s.rd 0x0054) (h2 : t.rd 0x4074 = s.rd 0x4074)
    (h3 : t.rd 0x4078 = s.rd 0x4078) : t.nowSec = s.nowSec := by
  unfold State.nowSec State.recRun State.ownSec
  rw [htwin, fld_of_rd (f := ⟨0x0054, 28, 4⟩) h1, fld_of_rd (f := wordAt 0x4074) h2, fld_of_rd (f := ⟨0x4078, 0, 16⟩) h3]

/-- The registers that a change of the key on which keys of other slots rest touches: those of the substation network. -/
def snetReg (a : Nat) : Prop := 0x12000 ≤ a

theorem near_rekeyRegs {p q : Nat → Prop} {s t : State} (h : Near p q s t) (hp : ∀ a, snetReg a → p a) : Near p q s t.rekeyRegs := by
  have hr : ∀ a, 0x12000 ≤ a → p a := hp
  unfold State.rekeyRegs
  split
  · exact near_wr (near_setB h (hr _ (by decide))) (hr _ (by decide))
  · exact near_wr (near_wr (near_wr (near_setB h (hr _ (by decide))) (hr _ (by decide))) (hr _ (by decide))) (hr _ (by decide))

theorem near_rekeyStart {p q : Nat → Prop} {s t : State} {g : Nat} {at_ : Nat × Nat} (h : Near p q s t) (hp : ∀ a, snetReg a → p a) :
    Near p q s (t.rekeyStart g at_) := near_rekeyRegs (near_same h rfl rfl) hp

/-- Replacing a key changes registers of the substation network and words 1 and 2 of slots. -/
theorem keyReplaced_regsBut (s : State) (i : Nat) : s.regsBut (s.keyReplaced i) snetReg := by
  unfold State.keyReplaced
  extract_lets below s1 at_
  have h1 : Near snetReg (fun _ => True) s s1 :=
    near_foldl (Near.refl _ _ s) (fun a d _ ha => near_same (near_twr (near_twr ha trivial) trivial) rfl rfl)
  split
  · exact (near_foldl h1 (fun a g _ ha => near_rekeyStart ha (fun _ => id))).regs
  · exact h1.regs

theorem tbl_rekeyStart (s : State) (g : Nat) (at_ : Nat × Nat) : (s.rekeyStart g at_).tbl = s.tbl :=
  (rekeyStart_keeps (Keeps.refl _ s) (List.Subset.refl _)).only .tbl (by decide)

theorem keyReplaced_trd {s : State} {i d w : Nat} (h1 : w ≠ 1) (h2 : w ≠ 2) (hw : w < 2 ^ 8) :
    (s.keyReplaced i).trd 0x0900 d w = s.trd 0x0900 d w := by
  have hword : ∀ (u : State) (e j : Nat) (v : Word), j < 2 ^ 8 → w ≠ j → (u.twr 0x0900 e j v).trd 0x0900 d w = u.trd 0x0900 d w :=
    fun u e j v hj hne => trd_twr_ne _ _ _ _ _ _ _ _ (by unfold tkey; omega)
  have hbelow : ∀ (l : List Nat) (u : State), (l.foldl (fun a d =>
      ((a.twr 0x0900 d 1 (Config.derivedGen a.free)).twr 0x0900 d 2 (Config.derivedKcv a.free)).useFree) u).trd 0x0900 d w = u.trd 0x0900 d w := by
    intro l
    induction l with
    | nil => exact fun _ => rfl
    | cons e l ih =>
      intro u
      rw [List.foldl_cons, ih, trd_useFree, hword _ _ _ _ (by decide) h2, hword _ _ _ _ (by decide) h1]
  have hrekey : ∀ (l : List Nat) (at_ : Nat × Nat) (u : State), (l.foldl (fun a g => a.rekeyStart g at_) u).trd 0x0900 d w = u.trd 0x0900 d w := by
    intro l at_
    induction l with
    | nil => exact fun _ => rfl
    | cons e l ih =>
      intro u
      rw [List.foldl_cons, ih, trd_of_tbl (tbl_rekeyStart u e at_)]
  unfold State.keyReplaced
  simp only
  split
  · rw [hrekey, hbelow]
  · rw [hbelow]

theorem keys_keyReplaced (s : State) (i : Nat) : (s.keyReplaced i).keys = s.keys :=
  (keyReplaced_keeps (Keeps.refl _ s) (List.Subset.refl _)).only .keys (by decide)

/-- The staged key of slot `i` stands in it as ACTIVE, before what follows from the replacement. -/
def State.promotePut (s : State) (i : Nat) (n : KeyNew) : State :=
  let s1 := (((s.unstage i).slotPut i 3 n).twr 0x0900 i 3 0).twr 0x0900 i 6 (lo32 s.nowSec)
  if n.kind < 6 then (s1.twr 0x0902 i 0 (BitVec.ofNat 32 (2 ^ 31 + n.kind))).trecSet 0x0902 i 1 n.point else s1

theorem promoteKey_eq (s : State) (i : Nat) (n : KeyNew) :
    s.promoteKey i n = if s.slotState i == 3 || i == s.masterSlot then (s.promotePut i n).keyReplaced i else s.promotePut i n := rfl

theorem regs_trecSet (s : State) (t i w : Nat) (vs : List Word) : (s.trecSet t i w vs).regs = s.regs :=
  (trecSet_keeps (T := [.tbl]) (Keeps.refl _ s) (List.Subset.refl _)).only .regs (by decide)

theorem keys_trecSet (s : State) (t i w : Nat) (vs : List Word) : (s.trecSet t i w vs).keys = s.keys :=
  (trecSet_keeps (T := [.tbl]) (Keeps.refl _ s) (List.Subset.refl _)).only .keys (by decide)

theorem regs_promotePut (s : State) (i : Nat) (n : KeyNew) : (s.promotePut i n).regs = s.regs := by
  have h1 : ∀ v, ((((s.unstage i).slotPut i 3 n).twr 0x0900 i 3 0).twr 0x0900 i 6 v).regs = s.regs := fun v => by
    simp [regs_slotPut, State.unstage]
  unfold State.promotePut
  simp only
  split
  · rw [regs_trecSet, regs_twr, h1]
  · exact h1 _

theorem stagedKey_promotePut (s : State) (i : Nat) (n : KeyNew) : (s.promotePut i n).stagedKey i = none := by
  have h1 : ∀ v, ((((s.unstage i).slotPut i 3 n).twr 0x0900 i 3 0).twr 0x0900 i 6 v).keys = (s.unstage i).keys := fun v => by
    simp [keys_slotPut]
  refine (stagedKey_of_keys (s := s.unstage i) ?_ i).trans (stagedKey_unstage s i)
  unfold State.promotePut
  simp only
  split
  · rw [keys_trecSet, keys_twr, h1]
  · rw [h1]

/-- The slot's word 0 and its activation time. -/
theorem trd_promotePut (s : State) (i : Nat) (n : KeyNew) :
    (∀ lo w, lo + w ≤ 32 → (s.promotePut i n).tfld 0x0900 i 0 lo w = (3 * 2 ^ 29 + n.kind * 2 ^ 23 + n.parent * 2 ^ 16) / 2 ^ lo % 2 ^ w)
      ∧ (s.promotePut i n).trd 0x0900 i 6 = lo32 s.nowSec := by
  have hpub : ∀ (u : State) (v : Word) (vs : List Word) (w : Nat), w < 2 ^ 8 →
      ((u.twr 0x0902 i 0 v).trecSet 0x0902 i 1 vs).trd 0x0900 i w = u.trd 0x0900 i w := by
    intro u v vs w hw
    rw [trd_trecSet_apart (fun k _ => by unfold tkey; omega), trd_twr_ne _ _ _ _ _ _ _ _ (by unfold tkey; omega)]
  have hput : ∀ w, w < 2 ^ 8 → (s.promotePut i n).trd 0x0900 i w
      = ((((s.unstage i).slotPut i 3 n).twr 0x0900 i 3 0).twr 0x0900 i 6 (lo32 s.nowSec)).trd 0x0900 i w := by
    intro w hw
    unfold State.promotePut
    simp only
    split
    · exact hpub _ _ _ _ hw
    · rfl
  constructor
  · intro lo w h
    unfold State.tfld
    rw [hput 0 (by decide), trd_twr_word (by decide), trd_twr_word (by decide)]
    exact tfld_slotPut h
  · rw [hput 6 (by decide), trd_twr_self]

/-- The promoted key (R490, R496): the slot is ACTIVE with its kind, nothing is staged, and registers beside the network's are as they were. -/
theorem promoteKey_active {s : State} {i : Nat} {n : KeyNew} (hk : n.kind < 16) (hp : n.parent < 128) :
    (s.promoteKey i n).slotState i = 3 ∧ (s.promoteKey i n).slotKind i = n.kind ∧ (s.promoteKey i n).stagedKey i = none
      ∧ (s.promoteKey i n).trd 0x0900 i 6 = lo32 s.nowSec ∧ s.regsBut (s.promoteKey i n) snetReg := by
  obtain ⟨hfld, hact⟩ := trd_promotePut s i n
  have hstate : (s.promotePut i n).slotState i = 3 := (hfld 29 3 (by decide)).trans (by omega)
  have hkind : (s.promotePut i n).slotKind i = n.kind := (hfld 23 4 (by decide)).trans (by omega)
  have hregs : s.regsBut (s.promotePut i n) snetReg := regsBut_of_regs (regs_promotePut s i n) _
  rw [promoteKey_eq]
  split
  · have hw0 : ∀ lo w, ((s.promotePut i n).keyReplaced i).tfld 0x0900 i 0 lo w = (s.promotePut i n).tfld 0x0900 i 0 lo w := fun lo w =>
      congrArg (wbits · lo w) (keyReplaced_trd (by decide) (by decide) (by decide))
    exact ⟨(hw0 29 3).trans hstate, (hw0 23 4).trans hkind,
      (stagedKey_of_keys (congrArg KeySt.staged (keys_keyReplaced _ _)) i).trans (stagedKey_promotePut s i n),
      (keyReplaced_trd (by decide) (by decide) (by decide)).trans hact, regsBut_trans hregs (keyReplaced_regsBut _ _)⟩
  · exact ⟨hstate, hkind, stagedKey_promotePut s i n, hact, hregs⟩

theorem exec_promoted_none {s : State} (hpend : s.bit keyPend = true) (hnow : s.promNow = true) (hn : s.stagedKey s.pendSlot = none) :
    exec .promoted s = .next (s.andShown s.pendClear) := by
  simp only [exec, execPromoted, hpend, hnow, hn, Bool.not_true, Bool.or_self, Bool.false_eq_true, if_false]

theorem exec_promoted_some {s : State} {n : KeyNew} (hpend : s.bit keyPend = true) (hnow : s.promNow = true)
    (hn : s.stagedKey s.pendSlot = some n) :
    exec .promoted s = .next (s.andShown (if (n.kind == 9 && !s.parentOk s.pendSlot n.parent) = true then s.pendFail 7
      else (((s.pendClear).promoteKey s.pendSlot n).raiseEv 9 2).keyEnd 3 s.pendSlot 0)) := by
  simp only [exec, execPromoted, hpend, hnow, hn, Bool.not_true, Bool.or_self, Bool.false_eq_true, if_false]

theorem exec_promoted_not {s : State} (h : s.bit keyPend = false ∨ s.promNow = false) : exec .promoted s = .next s := by
  have hstop : (!s.bit keyPend || !s.promNow) = true := by
    rcases h with h | h <;> simp [h]
  simp only [exec, execPromoted, hstop, if_true, andShown_self]

/-- PROMOTED of a key that may become ACTIVE. -/
theorem promoted_active {s : State} {n : KeyNew} (hpend : s.bit keyPend = true) (hnow : s.promNow = true)
    (hn : s.stagedKey s.pendSlot = some n) (hk : n.kind < 16) (hp : n.parent < 128)
    (hparent : n.kind = 9 → s.parentOk s.pendSlot n.parent = true) :
    runs .promoted s (fun t => t.slotState s.pendSlot = 3 ∧ t.slotKind s.pendSlot = n.kind ∧ t.stagedKey s.pendSlot = none
      ∧ t.bit keyPend = false ∧ KeyShown t 3 s.pendSlot 0 ∧ t.bit (bitAt 0x9010 2) = true ∧ t.trd 0x0900 s.pendSlot 6 = lo32 s.nowSec) := by
  have hj := pendSlot_lt s
  have hok : (n.kind == 9 && !s.parentOk s.pendSlot n.parent) = false := by
    by_cases h9 : n.kind = 9
    · simp [hparent h9]
    · simp [h9]
  refine runs_intro (exec_promoted_some hpend hnow hn) ?_
  simp only [hok, Bool.false_eq_true, if_false]
  obtain ⟨hstate, hkind, hstaged, hact, hregs⟩ := promoteKey_active (s := s.pendClear) (i := s.pendSlot) hk hp
  have htw : s.pendClear.twin = s.twin := by simp [State.pendClear, State.keysMod]
  have hsec : s.pendClear.nowSec = s.nowSec := by
    refine nowSec_congr htw ?_ ?_ ?_ <;> exact (KeyNear.refl s).pendClear.regs _ (by unfold keyReg keyEndReg keyMaskReg evReg; decide)
  have hev : ∀ w, w < 2 ^ 8 → ((s.pendClear.promoteKey s.pendSlot n).raiseEv 9 2).trd 0x0900 s.pendSlot w
      = (s.pendClear.promoteKey s.pendSlot n).trd 0x0900 s.pendSlot w := fun w hw =>
    trd_raiseEv_apart (by decide) (by decide) (by decide) (by omega) hw
  generalize s.pendClear.promoteKey s.pendSlot n = u at hstate hkind hstaged hact hregs hev ⊢
  generalize hv : (u.raiseEv 9 2).keyEnd 3 s.pendSlot 0 = v
  have hw : ∀ w, w < 2 ^ 8 → (s.andShown v).trd 0x0900 s.pendSlot w = u.trd 0x0900 s.pendSlot w := fun w hw => by
    rw [trd_of_tbl (tbl_andShown s v), ← hv, trd_keyEnd (by decide) (by decide) (by omega) hw, hev w hw]
  have hw0 : ∀ lo w, (s.andShown v).tfld 0x0900 s.pendSlot 0 lo w = u.tfld 0x0900 s.pendSlot 0 lo w := fun lo w =>
    congrArg (wbits · lo w) (hw 0 (by decide))
  have hshown : KeyShown v 3 s.pendSlot 0 := hv ▸ keyShown_keyEnd (by decide) hj (by decide)
  refine ⟨(hw0 29 3).trans hstate, (hw0 23 4).trans hkind, ?_, ?_, ?_, ?_, ?_⟩
  · rw [stagedKey_of_keys (congrArg KeySt.staged (keys_andShown s v)), ← hv, stagedKey_of_keys (congrArg KeySt.staged (keys_keyEnd _ _ _ _)),
      stagedKey_of_keys (congrArg KeySt.staged (keys_raiseEv u 9 2))]
    exact hstaged
  · rw [bit_of_regs (regs_andShown s v), ← hv, keyPend, bit_keyEnd_stat (by decide)]
    rw [bit_raiseEv_apart (by decide) (by decide) (by decide) (by decide) (by decide),
      bit_of_rd (hregs _ (by unfold snetReg; decide))]
    exact bit_pendClear s
  · have hr := regs_andShown s v
    exact ⟨(fld_of_regs hr _).trans hshown.codeShown, (fld_of_regs hr _).trans hshown.opShown, (fld_of_regs hr _).trans hshown.slotShown,
      fun h => (bit_of_regs hr _).trans (hshown.done h), fun h => (bit_of_regs hr _).trans (hshown.failed h)⟩
  · rw [bit_of_regs (regs_andShown s v), ← hv]
    exact bit_keyEnd_stays (bit_raiseEv_self (by decide) (by decide) (by decide) rfl)
  · rw [hw 6 (by decide), hact, hsec]

/-- PROMOTED of a kind 9 key whose parent is no longer ACTIVE. -/
theorem promoted_fails {s : State} {n : KeyNew} (hpend : s.bit keyPend = true) (hnow : s.promNow = true)
    (hn : s.stagedKey s.pendSlot = some n) (h9 : n.kind = 9) (hparent : s.parentOk s.pendSlot n.parent = false) :
    runs .promoted s (fun t => t.slotState s.pendSlot = s.slotState s.pendSlot ∧ t.stagedKey s.pendSlot = some n
      ∧ t.bit keyPend = false ∧ KeyShown t 3 s.pendSlot 7) := by
  have hj := pendSlot_lt s
  refine runs_intro (exec_promoted_some hpend hnow hn) ?_
  simp only [h9, hparent, beq_self_eq_true, Bool.not_false, Bool.and_self, if_true]
  have hr := regs_andShown s (s.pendFail 7)
  have hshown : KeyShown (s.pendFail 7) 3 s.pendSlot 7 := keyShown_keyEnd (by decide) hj (by decide)
  refine ⟨?_, ?_, (bit_of_regs hr _).trans (bit_pendFail s 7), ?_⟩
  · exact (tfld_of_tbl (tbl_andShown s _) _ _ _ _ _).trans (tfld_pendFail (by omega))
  · rw [stagedKey_of_keys (congrArg KeySt.staged (keys_andShown s _)), stagedKey_of_keys (staged_pendFail s 7)]
    exact hn
  · exact ⟨(fld_of_regs hr _).trans hshown.codeShown, (fld_of_regs hr _).trans hshown.opShown, (fld_of_regs hr _).trans hshown.slotShown,
      fun h => (bit_of_regs hr _).trans (hshown.done h), fun h => (bit_of_regs hr _).trans (hshown.failed h)⟩

/-- PROMOTED of a slot with nothing staged. -/
theorem promoted_nothing {s : State} (hpend : s.bit keyPend = true) (hnow : s.promNow = true) (hn : s.stagedKey s.pendSlot = none) :
    runs .promoted s (fun t => t.bit keyPend = false ∧ t.rd 0x9050 = 0 ∧ t.tbl = s.tbl) := by
  refine runs_intro (exec_promoted_none hpend hnow hn) ?_
  have hr := regs_andShown s s.pendClear
  refine ⟨(bit_of_regs hr _).trans (bit_pendClear s), ?_, (tbl_andShown s _).trans (tbl_pendClear s)⟩
  have hzero : s.pendClear.rd 0x9050 = 0 := by simp [State.pendClear]
  unfold State.rd at hzero ⊢
  rw [hr]
  exact hzero

end Sys2Proof.Machine
end

section
/-! #### CANCEL and ERASE (R490) -/

namespace Sys2Proof.Machine

/-- The slot's word 0 is that of no key, and nothing is staged in it. -/
theorem slotEmpty_empty {s : State} {i : Nat} : (s.slotEmpty i).slotState i = 0 ∧ (s.slotEmpty i).stagedKey i = none
    ∧ (s.slotEmpty i).regs = s.regs := by
  refine ⟨?_, ?_, ?_⟩
  · unfold State.slotEmpty State.slotState
    rw [tfld_twr_word (by decide), tfld_slotPut (by decide)]
    rfl
  · unfold State.slotEmpty
    rw [stagedKey_of_keys (congrArg KeySt.staged (by rw [keys_twr, keys_slotPut]))]
    exact stagedKey_unstage s i
  · unfold State.slotEmpty
    rw [regs_twr, regs_slotPut]
    rfl

/-- What CANCEL and ERASE do of a pending promotion of the slot: it is withdrawn, in `u`. -/
theorem withdrawn_not_pending {s u : State} {i : Nat} (hw : u.bit keyPend = false) (hj : s.pendSlot = i) :
    (if (s.bit keyPend && s.pendSlot == i) = true then u else s).bit keyPend = false := by
  by_cases hp : s.bit keyPend = true
  · rw [if_pos (by simp [hp, hj])]
    exact hw
  · rw [if_neg (by simp [hp])]
    simpa using hp

/-- CANCEL's effect on the state (R490). -/
def State.keyCancelled (s : State) (i : Nat) : State :=
  let s1 := if s.bit keyPend && s.pendSlot == i then s.pendClear else s
  (if s1.slotState i = 3 then ((s1.unstage i).setSlotNext i 0).twr 0x0900 i 3 0 else s1.slotEmpty i)

theorem keyCancelCmd_free {s : State} (h : s.keyStop = none) :
    keyCancelCmd s = if s.slotState s.keyArg = 1 ∨ s.slotState s.keyArg = 2 ∨ s.slotNext s.keyArg ≠ 0 then
      ((s.keyCancelled s.keyArg).keyEnd 4 s.keyArg 0, .ok) else (s, .refused) := by
  unfold keyCancelCmd
  simp only [keyCmd_free h, Bool.or_eq_true, beq_iff_eq, bne_iff_ne, or_assoc]
  rfl

/-- Withdrawing the promotion leaves the slots. -/
theorem tfld_cancelPend {s : State} {i k lo n : Nat} :
    (if (s.bit keyPend && s.pendSlot == i) = true then s.pendClear else s).tfld 0x0900 k 0 lo n = s.tfld 0x0900 k 0 lo n := by
  split
  · exact tfld_of_tbl (tbl_pendClear s) _ _ _ _ _
  · rfl

/-- A staged key alone in its slot: the slot is EMPTY. -/
theorem keyCancelled_alone {s : State} {i : Nat} (h : s.slotState i ≠ 3) :
    (s.keyCancelled i).slotState i = 0 ∧ (s.keyCancelled i).stagedKey i = none ∧ (s.pendSlot = i → (s.keyCancelled i).bit keyPend = false) := by
  unfold State.keyCancelled
  extract_lets s1
  have hs1 : s1.slotState i = s.slotState i := tfld_cancelPend
  rw [if_neg (by rw [hs1]; exact h)]
  obtain ⟨h1, h2, h3⟩ := slotEmpty_empty (s := s1) (i := i)
  exact ⟨h1, h2, fun hj => (bit_of_regs h3 _).trans (withdrawn_not_pending (bit_pendClear s) hj)⟩

/-- A successor: the ACTIVE key stays. -/
theorem keyCancelled_beside {s : State} {i : Nat} (h : s.slotState i = 3) :
    (s.keyCancelled i).slotState i = 3 ∧ (s.keyCancelled i).slotNext i = 0 ∧ (s.keyCancelled i).stagedKey i = none
      ∧ (s.pendSlot = i → (s.keyCancelled i).bit keyPend = false) := by
  unfold State.keyCancelled
  extract_lets s1
  have hs1 : s1.slotState i = s.slotState i := tfld_cancelPend
  rw [if_pos (hs1.trans h)]
  refine ⟨?_, ?_, stagedKey_unstage s1 i, fun hj => ?_⟩
  · unfold State.slotState State.setSlotNext
    rw [tfld_twr_word (by decide), tfld_tset_apart (.inr (.inl (by decide)))]
    exact hs1.trans h
  · unfold State.slotNext State.setSlotNext
    rw [tfld_twr_word (by decide), tfld_tset_self (by decide)]
    rfl
  · exact withdrawn_not_pending (bit_pendClear s) hj

/-- The end of a command leaves what it did to the slot. -/
theorem keyEnd_slot {u : State} {op slot code i : Nat} (hi : i < 128) :
    (u.keyEnd op slot code).slotState i = u.slotState i ∧ (u.keyEnd op slot code).slotNext i = u.slotNext i
      ∧ (u.keyEnd op slot code).stagedKey i = u.stagedKey i ∧ (u.keyEnd op slot code).bit keyPend = u.bit keyPend :=
  ⟨slotState_keyEnd hi, slotNext_keyEnd hi, stagedKey_of_keys (congrArg KeySt.staged (keys_keyEnd _ _ _ _)) i, bit_keyEnd_stat (by decide)⟩

/-- ERASE's effect on the state (R490). -/
def State.keyErased (s : State) (i : Nat) : State :=
  let s1 := if s.bit keyPend && s.pendSlot == i then s.pendFail 8 else s
  (if i = 3 then s1.tclear 0x0902 (· == 3) else s1).slotEmpty i

theorem keyEraseCmd_free {s : State} (h : s.keyStop = none) :
    keyEraseCmd s = if s.slotState s.keyArg = 1 ∨ s.slotState s.keyArg = 2 ∨ s.slotState s.keyArg = 4 ∨ s.slotState s.keyArg = 5 then
      ((s.keyErased s.keyArg).keyEnd 6 s.keyArg 0, .ok) else (s, .refused) := by
  unfold keyEraseCmd
  simp only [keyCmd_free h, Bool.or_eq_true, beq_iff_eq, or_assoc]
  rfl

theorem keyErased_empty (s : State) (i : Nat) :
    (s.keyErased i).slotState i = 0 ∧ (s.keyErased i).stagedKey i = none ∧ (s.pendSlot = i → (s.keyErased i).bit keyPend = false) := by
  unfold State.keyErased
  extract_lets s1
  obtain ⟨h1, h2, h3⟩ := slotEmpty_empty (s := if i = 3 then s1.tclear 0x0902 (· == 3) else s1) (i := i)
  refine ⟨h1, h2, fun hj => (bit_of_regs h3 _).trans ?_⟩
  have hs1 : s1.bit keyPend = false := withdrawn_not_pending (bit_pendFail s 8) hj
  split
  · exact hs1
  · exact hs1

/-- The image verification key is destroyed with its slot. -/
theorem keyErased_image {s : State} {i : Nat} (hi : i = 3) : (s.keyErased i).trd 0x0902 3 0 = 0 := by
  subst hi
  unfold State.keyErased State.slotEmpty
  extract_lets s1
  rw [if_pos rfl, trd_twr_tid (by decide) (by decide) (by decide) (by decide) (by decide),
    trd_slotPut_tid (by decide) (by decide) (by decide) (by decide) (by decide)]
  have hcleared : (s1.tclear 0x0902 (· == 3)).trd 0x0902 3 0 = tblReset (tkey 0x0902 3 0) := by
    unfold State.trd State.tclear
    rw [smGet_filter]
    exact if_neg (by decide)
  exact hcleared.trans (by decide +kernel)

/-! #### REVOKE (R495) -/

/-- One slot of a revocation. -/
def State.revokeOne (s : State) (i d : Nat) : State :=
  (((s.unstage d).setSlotNext d 0).twr 0x0900 d 3 0).setSlotState d (if d = i then 4 else 5)

theorem regs_revokeOne (s : State) (i d : Nat) : (s.revokeOne i d).regs = s.regs := by
  simp [State.revokeOne, State.setSlotState, State.setSlotNext, State.unstage]

theorem revokeOne_same (s : State) (i d : Nat) : (s.revokeOne i d).slotState d = (if d = i then 4 else 5)
    ∧ (s.revokeOne i d).slotNext d = 0 ∧ (s.revokeOne i d).stagedKey d = none := by
  refine ⟨?_, ?_, ?_⟩
  · unfold State.revokeOne State.slotState State.setSlotState
    rw [tfld_tset_self (by decide)]
    split <;> rfl
  · unfold State.revokeOne State.slotNext State.setSlotState State.setSlotNext
    rw [tfld_tset_apart (.inr (.inr (by decide))), tfld_twr_word (by decide), tfld_tset_self (by decide)]
    rfl
  · refine (stagedKey_of_keys (s := s.unstage d) ?_ d).trans (stagedKey_unstage s d)
    simp [State.revokeOne, State.setSlotState, State.setSlotNext]

theorem revokeOne_other {s : State} {i d e : Nat} (h : d ≠ e) : (s.revokeOne i e).slotState d = s.slotState d
    ∧ (s.revokeOne i e).slotNext d = s.slotNext d ∧ (s.stagedKey d = none → (s.revokeOne i e).stagedKey d = none) := by
  have hw : ∀ lo n, (s.revokeOne i e).tfld 0x0900 d 0 lo n = s.tfld 0x0900 d 0 lo n := by
    intro lo n
    unfold State.revokeOne State.setSlotState State.setSlotNext State.tset State.tfld
    rw [trd_twr_idx h (by decide) (by decide), trd_twr_idx h (by decide) (by decide), trd_twr_idx h (by decide) (by decide)]
    rfl
  refine ⟨hw 29 3, hw 27 2, fun hn => ?_⟩
  have hkeys : (s.revokeOne i e).keys.staged = s.keys.staged.filter (fun x => x.1 != e) := by
    simp [State.revokeOne, State.setSlotState, State.setSlotNext, State.unstage, State.keysMod]
  unfold State.stagedKey at hn ⊢
  rw [hkeys, List.lookup_eq_none_iff]
  rw [List.lookup_eq_none_iff] at hn
  exact fun p hp => hn p (List.mem_filter.1 hp).1

/-- The slots of a revocation are unusable once all of them have been gone through. -/
theorem revokeAll_unusable (i : Nat) (xs : List Nat) : ∀ s : State,
    (xs.foldl (fun a d => a.revokeOne i d) s).regs = s.regs
      ∧ ∀ d, d ∈ xs ∨ (s.slotState d = (if d = i then 4 else 5) ∧ s.slotNext d = 0 ∧ s.stagedKey d = none) →
        (xs.foldl (fun a d => a.revokeOne i d) s).slotState d = (if d = i then 4 else 5)
          ∧ (xs.foldl (fun a d => a.revokeOne i d) s).slotNext d = 0 ∧ (xs.foldl (fun a d => a.revokeOne i d) s).stagedKey d = none := by
  induction xs with
  | nil => exact fun s => ⟨rfl, fun d hd => hd.resolve_left List.not_mem_nil⟩
  | cons e xs ih =>
    intro s
    obtain ⟨hr, hall⟩ := ih (s.revokeOne i e)
    refine ⟨hr.trans (regs_revokeOne s i e), fun d hd => hall d ?_⟩
    by_cases hde : d = e
    · subst hde
      exact .inr (revokeOne_same s i d)
    · obtain ⟨h1, h2, h3⟩ := revokeOne_other (s := s) (i := i) hde
      rcases hd with hd | ⟨g1, g2, g3⟩
      · exact .inl ((List.mem_cons.1 hd).resolve_left hde)
      · exact .inr ⟨h1.trans g1, h2.trans g2, h3 g3⟩

end Sys2Proof.Machine
end

section
/-! #### REVOKE and what follows from it (R495, R497) -/

namespace Sys2Proof.Machine

/-- What the revocation of group keys and the closing of sessions touch: registers of the network, and what events of the HOST page touch. -/
def revokeReg (a : Nat) : Prop := snetReg a ∨ evReg 0x12 a ∨ evReg 0x0B a

theorem near_raiseEv {p q : Nat → Prop} {s t : State} {pg b : Nat} (h : Near p q s t) (hpg : pg < 2 ^ 23) (hp : ∀ a, evReg pg a → p a)
    (hq : ∀ x, evTbl x → q x) : Near p q s (t.raiseEv pg b) :=
  h.trans ((evNear_raiseEv (Near.refl _ _ t) hpg).mono hp hq)

theorem near_groupsRevoked (s : State) : Near revokeReg evTbl s s.groupsRevoked := by
  have hset : ∀ (base : Nat) (b : Bool), 0x12000 ≤ base → ∀ (l : List Nat) (u : State), Near revokeReg evTbl s u →
      Near revokeReg evTbl s (l.foldl (fun a g => a.setB (grpBit base g) b) u) := fun base b hb l u hu =>
    near_foldl hu (fun a g _ ha => near_setB ha (.inl (by unfold snetReg; simp only [grpBit, bitAt_addr]; omega)))
  unfold State.groupsRevoked
  extract_lets gs now s1 s2 s3
  have h2 : Near revokeReg evTbl s s2 := hset _ _ (by decide) _ _ (hset _ _ (by decide) _ _ (Near.refl _ _ s))
  have h3 : Near revokeReg evTbl s s3 := near_rekeyRegs (near_same h2 rfl rfl) (fun _ => .inl)
  split
  · exact h3
  · exact near_raiseEv h3 (by decide) (fun _ ha => .inr (.inl ha)) (fun _ => id)

theorem near_closeSess {p : Nat → Prop} {q : Nat → Prop} {s t : State} {i : Nat} (h : Near p q s t) (hp : ∀ a, evReg 0x0B a → p a)
    (hq : ∀ x, evTbl x → q x) : Near p q s (t.closeSess i) := by
  unfold State.closeSess
  extract_lets x fresh s1 s2
  have h2 : Near p q s s2 := by
    unfold s2
    split
    · exact near_same h rfl rfl
    · exact near_same h rfl rfl
  split
  · exact h
  · split
    · exact h2
    · exact near_raiseEv h2 (by decide) hp hq

theorem near_closeUnder {s t : State} {xs : List Nat} (h : Near revokeReg evTbl s t) : Near revokeReg evTbl s (t.closeUnder xs) := by
  unfold State.closeUnder
  refine near_foldl h (fun a j _ ha => ?_)
  split
  · exact near_closeSess ha (fun _ hb => .inr (.inr hb)) (fun _ => id)
  · exact ha

/-- The state of a revocation before its sessions close: `u`, all slots gone through. -/
theorem revokeSlot_eq (s : State) (i : Nat) : ∃ s2 : State, KeyNear s s2 ∧
    s.revokeSlot i = ((let s4 := ((((s.revoked i).foldl (fun a d => a.revokeOne i d) s2).bumpN .KEY_REVOKE (s.revoked i).length).raiseEv 9 3)
      (if (s.revoked i).contains s.masterSlot then s4.groupsRevoked else s4).closeUnder (s.revoked i)).keyEnd 5 i 0) := by
  let s1 := if s.bit keyPend && s.restsOn (s.revoked i) s.pendSlot then s.pendFail 8 else s
  let s2 := match s1.keys.run with
    | some r => if s1.runRests (s.revoked i) r then s1.runFail 8 else s1
    | none => s1
  have h1 : KeyNear s s1 := by
    unfold s1
    split
    · exact (KeyNear.refl s).pendFail 8
    · exact KeyNear.refl s
  have h2 : KeyNear s s2 := by
    unfold s2
    split
    · split
      · exact h1.runFail 8
      · exact h1
    · exact h1
  exact ⟨s2, h2, rfl⟩

/-- KEY_CMD.REVOKE of a slot that holds a key. -/
theorem revokeSlot_revokes {s : State} {i : Nat} (hi : i < 128) :
    (s.revokeSlot i).slotState i = 4
      ∧ (∀ d ∈ s.revoked i, (d ≠ i → (s.revokeSlot i).slotState d = 5) ∧ (s.revokeSlot i).slotNext d = 0 ∧ (s.revokeSlot i).stagedKey d = none)
      ∧ (s.revokeSlot i).bit (bitAt 0x9010 3) = true ∧ KeyShown (s.revokeSlot i) 5 i 0
      ∧ (s.revokeSlot i).fld Ctr.KEY_REVOKE.f = min (2 ^ 32 - 1) (s.fld Ctr.KEY_REVOKE.f + (s.revoked i).length) := by
  obtain ⟨s2, h2, he⟩ := revokeSlot_eq s i
  have hmem : ∀ d ∈ s.revoked i, d < 128 := by
    intro d hd
    rcases List.mem_cons.1 hd with rfl | hd
    · exact hi
    · exact List.mem_range.1 (List.mem_filter.1 hd).1
  obtain ⟨hregs3, hall⟩ := revokeAll_unusable i (s.revoked i) s2
  generalize hxs : s.revoked i = xs at he hmem hregs3 hall ⊢
  generalize hs3 : xs.foldl (fun a d => a.revokeOne i d) s2 = s3 at he hregs3 hall
  obtain ⟨s4, h4⟩ : ∃ s4 : State, s4 = (s3.bumpN .KEY_REVOKE xs.length).raiseEv 9 3 := ⟨_, rfl⟩
  obtain ⟨s5, h5⟩ : ∃ s5 : State, s5 = (if xs.contains s.masterSlot then s4.groupsRevoked else s4).closeUnder xs := ⟨_, rfl⟩
  have hs : s.revokeSlot i = s5.keyEnd 5 i 0 := by rw [he, h5, h4]
  have hnear : Near revokeReg evTbl s4 s5 := by
    rw [h5]
    refine near_closeUnder ?_
    split
    · exact near_groupsRevoked s4
    · exact Near.refl _ _ s4
  have hkeys : s5.keys = s3.keys := by
    have hk4 : s4.keys = s3.keys := by rw [h4, keys_raiseEv, keys_bumpN]
    have hk5 : (if xs.contains s.masterSlot then s4.groupsRevoked else s4).keys = s4.keys := by
      split
      · exact (groupsRevoked_keeps (Keeps.refl _ s4) (List.Subset.refl _)).only .keys (by decide)
      · rfl
    rw [h5, (closeUnder_keeps (Keeps.refl _ _) (List.Subset.refl _)).only .keys (by decide), hk5, hk4]
  have hw : ∀ d lo n, d < 128 → s5.tfld 0x0900 d 0 lo n = s3.tfld 0x0900 d 0 lo n := by
    intro d lo n hd
    unfold State.tfld
    rw [trd_of_tblBut hnear.tbl (by omega) (by decide) (by unfold evTbl; decide), h4,
      trd_raiseEv_apart (by decide) (by decide) (by decide) (by omega) (by decide), trd_bumpN]
  have hslot : ∀ d ∈ xs, (s.revokeSlot i).slotState d = (if d = i then 4 else 5) ∧ (s.revokeSlot i).slotNext d = 0
      ∧ (s.revokeSlot i).stagedKey d = none := by
    intro d hd
    obtain ⟨g1, g2, g3⟩ := hall d (.inl hd)
    obtain ⟨e1, e2, e3, -⟩ := keyEnd_slot (u := s5) (op := 5) (slot := i) (code := 0) (hmem d hd)
    rw [hs, e1, e2, e3]
    exact ⟨(hw d 29 3 (hmem d hd)).trans g1, (hw d 27 2 (hmem d hd)).trans g2,
      (stagedKey_of_keys (congrArg KeySt.staged hkeys) d).trans g3⟩
  have hself : i ∈ xs := hxs ▸ List.mem_cons_self ..
  refine ⟨(hslot i hself).1.trans (if_pos rfl), fun d hd => ⟨fun hne => (hslot d hd).1.trans (if_neg hne), (hslot d hd).2⟩, ?_, ?_, ?_⟩
  · rw [hs]
    refine bit_keyEnd_stays ((bit_of_rd (hnear.regs _ (by unfold revokeReg snetReg evReg; decide))).trans ?_)
    rw [h4]
    exact bit_raiseEv_self (by decide) (by decide) (by decide) rfl
  · rw [hs]
    exact keyShown_keyEnd (by decide) hi (by decide)
  · have hs2 : s2.fld Ctr.KEY_REVOKE.f = s.fld Ctr.KEY_REVOKE.f :=
      fld_of_rd (h2.regs _ (by unfold keyReg keyEndReg keyMaskReg evReg; decide))
    rw [hs, fld_of_rd ((near_keyEnd (Near.refl _ _ s5)).regs _ (by unfold keyEndReg keyMaskReg evReg; decide)),
      fld_of_rd (hnear.regs _ (by unfold revokeReg snetReg evReg; decide)), h4,
      fld_raiseEv_apart (by decide) (by decide) (by decide) (by decide) (by decide), fld_bumpN_stays rfl (by decide) (by decide),
      fld_of_regs hregs3, hs2]
    rfl

/-! #### The tamper response (R502, R507) -/

theorem KeyNear.zeroise {s t : State} (h : KeyNear s t) : KeyNear s t.zeroise := by
  unfold State.zeroise
  extract_lets s1 s2
  have h1 : KeyNear s s1 := (h.runFail 9).zeroBuf
  have h2 : KeyNear s s2 := by
    unfold s2
    split
    · exact h1.pendFail 9
    · exact h1
  split
  · exact h2
  · exact near_raiseEv (near_setB h2 (.inl (.inl rfl))) (by decide) (fun _ ha => .inl (.inr (.inr (.inr ha)))) (fun _ => .inl)

theorem run_runFail (s : State) (code : Nat) : (s.runFail code).keys.run = none := by
  unfold State.runFail
  split
  · assumption
  · rw [keys_keyEnd]
    split <;> rfl

/-- Zeroised (R502): no operation runs, no promotion is pending, and the import buffer is zero. -/
theorem zeroise_clears (s : State) : s.zeroise.bit keyZeroised = true ∧ s.zeroise.keys.run = none ∧ s.zeroise.bit keyPend = false
    ∧ ∀ w, w < 72 → s.zeroise.trd 0x0901 0 w = 0 := by
  unfold State.zeroise
  extract_lets s1 s2
  have hrun1 : s1.keys.run = none := run_runFail s 9
  have hbuf1 : ∀ w, w < 72 → s1.trd 0x0901 0 w = 0 := fun w hw => trd_zeroBuf hw
  have h2 : s2.keys.run = none ∧ s2.bit keyPend = false ∧ ∀ w, w < 72 → s2.trd 0x0901 0 w = 0 := by
    unfold s2
    by_cases hp : s1.bit keyPend = true
    · rw [if_pos hp]
      refine ⟨(congrArg KeySt.run (keys_keyEnd s1.pendClear _ _ _)).trans ?_, bit_pendFail s1 9, fun w hw => ?_⟩
      · exact hrun1
      · exact (trd_pendFail (by decide) (by decide) (by decide) (by omega)).trans (hbuf1 w hw)
    · rw [if_neg hp]
      exact ⟨hrun1, by simpa using hp, hbuf1⟩
  obtain ⟨hrun, hpend, hbuf⟩ := h2
  split
  · exact ⟨‹_›, hrun, hpend, hbuf⟩
  · refine ⟨?_, by simpa using hrun, ?_, fun w hw => ?_⟩
    · rw [bit_raiseEv_apart (by decide) (by decide) (by decide) (by decide) (by decide)]
      exact bit_setB_self (by decide) rfl
    · rw [bit_raiseEv_apart (by decide) (by decide) (by decide) (by decide) (by decide), bit_setB_apart (by decide)]
      exact hpend
    · rw [trd_raiseEv_apart (by decide) (by decide) (by decide) (by decide) (by omega), trd_setB]
      exact hbuf w hw

/-- The registers and tables that the log and the signal of a detection touch. -/
def tampReg (a : Nat) : Prop := a = 0xA04C ∨ a = 0xA058 ∨ a = 0xA060 ∨ evReg 0x0A a

def tampTbl (t : Nat) : Prop := evTbl t ∨ 0x0A00 ≤ t

theorem near_trecSet {p q : Nat → Prop} {s : State} {tid i : Nat} {vs : List Word} : ∀ {t : State} {w : Nat}, Near p q s t →
    (∀ j, w ≤ j → j < w + vs.length → q (tkeyTid (tkey tid i j))) → Near p q s (t.trecSet tid i w vs) := by
  induction vs with
  | nil => exact fun h _ => h
  | cons v vs ih =>
    intro t w h hq
    unfold State.trecSet
    exact ih (near_twr h (hq w (Nat.le_refl w) (by simp)))
      (fun j h1 h2 => hq j (by omega) (by simp only [List.length_cons]; omega))

/-- The log record, the count, the event and the signal of a detection. -/
def State.tampNoted (s : State) (sensors ns : Nat) : State := (((s.tampLog sensors ns).bump .TAMP).raiseEv 0x0A 0).signal 4

theorem near_tampNoted (s : State) (sensors ns : Nat) : Near tampReg tampTbl s (s.tampNoted sensors ns) := by
  have hlog : Near tampReg tampTbl s (s.tampLog sensors ns) := by
    unfold State.tampLog
    refine near_setF (near_trecSet (Near.refl _ _ s) (fun j _ hj => .inr ?_)) (.inl rfl)
    have : s.fld ⟨0xA04C, 0, 4⟩ < 2 ^ 4 := fld_lt s _
    simp only [List.length_cons, List.length_nil] at hj
    rw [tkeyTid_tkey _ _ _ (by omega) (by omega)]
  have hcount : Near tampReg tampTbl s ((s.tampLog sensors ns).bump .TAMP) := near_bumpN hlog (.inr (.inl rfl)) (.inr (.inr (.inl rfl)))
  exact near_signal (near_raiseEv hcount (by decide) (fun _ ha => .inr (.inr (.inr ha))) (fun _ => .inl)) (by decide)
    (fun _ ha => .inr (.inr (.inr (evReg_of_icu ha)))) (.inl (.inl rfl))

theorem regs_tampLog_apart {s : State} {sensors ns a : Nat} (h : a ≠ 0xA04C) : (s.tampLog sensors ns).rd a = s.rd a := by
  unfold State.tampLog
  rw [rd_setF, if_neg h]
  unfold State.rd
  rw [regs_trecSet]

/-- A detection is counted and raises DETECTED. -/
theorem tampNoted_counts (s : State) (sensors ns : Nat) :
    (s.tampNoted sensors ns).fld Ctr.TAMP.f = min (2 ^ 32 - 1) (s.fld Ctr.TAMP.f + 1)
      ∧ (s.tampNoted sensors ns).bit (bitAt 0xA010 0) = true := by
  have hsig : ∀ (u : State) (a : Nat), ¬ icuReg a → (u.signal 4).rd a = u.rd a := fun u a ha =>
    (near_signal (p := icuReg) (q := evTbl) (Near.refl _ _ u) (by decide) (fun _ => id) (.inl rfl)).regs a ha
  unfold State.tampNoted
  constructor
  · rw [fld_of_rd (hsig _ _ (by unfold icuReg; decide)), fld_raiseEv_apart (by decide) (by decide) (by decide) (by decide) (by decide),
      fld_bump_stays rfl (by decide) (by decide), fld_of_rd (regs_tampLog_apart (by decide))]
    rfl
  · exact (bit_of_rd (hsig _ _ (by unfold icuReg; decide))).trans (bit_raiseEv_self (by decide) (by decide) (by decide) rfl)

theorem keys_tampNoted (s : State) (sensors ns : Nat) : (s.tampNoted sensors ns).keys = s.keys := by
  unfold State.tampNoted
  rw [keys_signal, keys_raiseEv, keys_bump]
  exact (tampLog_keeps (Keeps.refl _ s) (List.Subset.refl _)).only .keys (by decide)

/-- The state of TAMP_FUSES and TAMP_STAT with the sensors of a detection shown. -/
def State.tampStat (s : State) (sensors n : Nat) : State :=
  let s1 := s.setF ⟨0xA048, 0, 6⟩ n
  ((s1.setF ⟨0xA040, 0, 5⟩ sensors).setF ⟨0xA044, 0, 5⟩ (s1.fld ⟨0xA044, 0, 5⟩ ||| sensors)).setB (bitAt 0xA040 31) s1.tampered

theorem tamperResponse_eq (s : State) (sensors ns : Nat) :
    s.tamperResponse sensors ns true = (s.zeroise.tampStat sensors (min 32 (s.fuseCount + 1))).tampNoted sensors ns := rfl

theorem tampStat_shows {s : State} {sensors n : Nat} (hs : sensors < 32) (hn : n < 64) :
    (s.tampStat sensors n).fuseCount = n ∧ (s.tampStat sensors n).fld ⟨0xA040, 0, 5⟩ = sensors
      ∧ (s.tampStat sensors n).fld ⟨0xA044, 0, 5⟩ = (s.fld ⟨0xA044, 0, 5⟩ ||| sensors) := by
  have hor : (s.fld ⟨0xA044, 0, 5⟩ ||| sensors) < 2 ^ 5 := Nat.or_lt_two_pow (fld_lt s _) hs
  unfold State.tampStat State.fuseCount
  simp only
  refine ⟨?_, ?_, ?_⟩
  · rw [fld_setB_apart (by decide), fld_setF_apart (by decide), fld_setF_apart (by decide), fld_setF_self (by decide)]
    exact Nat.mod_eq_of_lt hn
  · rw [fld_setB_apart (by decide), fld_setF_apart (by decide), fld_setF_self (by decide)]
    exact Nat.mod_eq_of_lt hs
  · rw [fld_setB_apart (by decide), fld_setF_self (by decide), fld_setF_apart (by decide)]
    exact Nat.mod_eq_of_lt hor

theorem rd_tampStat {s : State} {sensors n a : Nat} (h0 : a ≠ 0xA040) (h4 : a ≠ 0xA044) (h8 : a ≠ 0xA048) :
    (s.tampStat sensors n).rd a = s.rd a := by
  simp [State.tampStat, h0, h4, h8]

/-- TAMPER (R502). -/
theorem tamper_responds (s : State) (sensors ns : Nat) (h : sensors % 32 ≠ 0) :
    runs (.tamper sensors ns) s (fun t => t.bit keyZeroised = true ∧ t.keys.run = none
      ∧ t.bit keyPend = false ∧ (∀ w, w < 72 → t.trd 0x0901 0 w = 0) ∧ t.fuseCount = min 32 (s.fuseCount + 1)
      ∧ t.fld ⟨0xA040, 0, 5⟩ = sensors % 32 ∧ t.fld ⟨0xA044, 0, 5⟩ = (s.fld ⟨0xA044, 0, 5⟩ ||| sensors % 32)
      ∧ t.fld Ctr.TAMP.f = min (2 ^ 32 - 1) (s.fld Ctr.TAMP.f + 1)
      ∧ t.bit (bitAt 0xA010 0) = true ∧ t.keys.tampDue = true ∧ t.mstate = s.mstate) := by
  have he : exec (.tamper sensors ns) s
      = .next (((s.zeroise.tampStat (sensors % 32) (min 32 (s.fuseCount + 1))).tampNoted (sensors % 32) ns).keysMod
          (fun k => { k with tampDue := true })) := by
    simp only [exec, execTamper, h, if_false]
    rfl
  refine runs_intro he ?_
  have hzero : KeyNear s s.zeroise := (KeyNear.refl s).zeroise
  obtain ⟨hz, hrun, hpend, hbuf⟩ := zeroise_clears s
  generalize s.zeroise = z at hzero hz hrun hpend hbuf ⊢
  have hfuse : s.fuseCount < 64 := fld_lt s ⟨0xA048, 0, 6⟩
  obtain ⟨hcount, hnow, hever⟩ := tampStat_shows (s := z) (sensors := sensors % 32) (n := min 32 (s.fuseCount + 1)) (by omega) (by omega)
  have hever' : z.fld ⟨0xA044, 0, 5⟩ = s.fld ⟨0xA044, 0, 5⟩ := fld_of_rd (hzero.regs _ (by unfold keyReg keyEndReg keyMaskReg evReg; decide))
  have htamp : z.fld Ctr.TAMP.f = s.fld Ctr.TAMP.f := fld_of_rd (hzero.regs _ (by unfold keyReg keyEndReg keyMaskReg evReg; decide))
  have hst : ∀ a, a ≠ 0xA040 → a ≠ 0xA044 → a ≠ 0xA048 → (z.tampStat (sensors % 32) (min 32 (s.fuseCount + 1))).rd a = z.rd a := fun a =>
    rd_tampStat
  have hsk : (z.tampStat (sensors % 32) (min 32 (s.fuseCount + 1))).keys = z.keys := by simp [State.tampStat]
  have hst' : (z.tampStat (sensors % 32) (min 32 (s.fuseCount + 1))).tbl = z.tbl := by simp [State.tampStat]
  generalize z.tampStat (sensors % 32) (min 32 (s.fuseCount + 1)) = y at hcount hnow hever hst hsk hst' ⊢
  have hnoted := near_tampNoted y (sensors % 32) ns
  obtain ⟨hctr, hev⟩ := tampNoted_counts y (sensors % 32) ns
  have hkeys := keys_tampNoted y (sensors % 32) ns
  generalize y.tampNoted (sensors % 32) ns = x at hnoted hctr hev hkeys ⊢
  have hr : ∀ a, ¬ tampReg a → x.rd a = y.rd a := hnoted.regs
  simp only [bit_keysMod, fld_keysMod, trd_keysMod, State.fuseCount, State.mstate]
  refine ⟨?_, ?_, ?_, ?_, ?_, ?_, ?_, ?_, hev, rfl, ?_⟩
  · rw [bit_of_rd (hr _ (by unfold tampReg evReg; decide)), bit_of_rd (hst _ (by decide) (by decide) (by decide))]
    exact hz
  · exact (congrArg KeySt.run (hkeys.trans hsk)).trans hrun
  · rw [bit_of_rd (hr _ (by unfold tampReg evReg; decide)), bit_of_rd (hst _ (by decide) (by decide) (by decide))]
    exact hpend
  · intro w hw
    rw [trd_of_tblBut hnoted.tbl (by decide) (by omega) (by unfold tampTbl evTbl; decide), trd_of_tbl hst']
    exact hbuf w hw
  · rw [fld_of_rd (hr _ (by unfold tampReg evReg; decide))]
    exact hcount
  · rw [fld_of_rd (hr _ (by unfold tampReg evReg; decide))]
    exact hnow
  · rw [fld_of_rd (hr _ (by unfold tampReg evReg; decide)), hever, hever']
  · rw [hctr, fld_of_rd (hst _ (by decide) (by decide) (by decide)), htamp]
  · rw [fld_of_rd (hr _ (by unfold tampReg evReg; decide)), fld_of_rd (hst _ (by decide) (by decide) (by decide)),
      fld_of_rd (hzero.regs _ (by unfold keyReg keyEndReg keyMaskReg evReg; decide))]

/-! #### The obligation -/

theorem keyRevokeCmd_free {s : State} (h : s.keyStop = none) :
    keyRevokeCmd s = if s.keyArg = 0 ∨ s.keyArg = 1 ∨ s.keyArg = 2 ∨ s.keyArg = 4 then (s.keyEnd 5 s.keyArg 1, .refused)
      else if 1 ≤ s.slotState s.keyArg ∧ s.slotState s.keyArg ≤ 3 then (s.revokeSlot s.keyArg, .ok) else (s, .refused) := by
  unfold keyRevokeCmd
  simp only [h]

/-- Settles O58, from what each operation of the key store does, by the lemmas above. -/
theorem keysArePromotedWithdrawnAndZeroised : Obligations.KeysArePromotedWithdrawnAndZeroised := by
  intro s i j free ended
  have hstop : free → s.keyStop = none := fun h => keyStop_free h.1 h.2
  have hi : i < 128 := keyArg_lt s
  have hended : ∀ {t : State} {op slot code : Nat}, KeyShown t op slot code → ended t op slot code := fun h =>
    ⟨h.codeShown, h.opShown, h.slotShown, h.done, h.failed⟩
  refine ⟨fun hf hv => ?_, fun h1 h2 => ⟨?_, fun hf => ?_⟩, fun n hp hn hs hk hpar => ⟨fun h9 => ?_, fun h9 hno => ?_⟩,
    fun hp hn hs => promoted_nothing hp hn hs, exec_promoted_not, fun hf => ⟨fun hst => ?_, fun hst hnx => ?_, fun hst hnx => ?_⟩,
    fun hf => ⟨fun hslot => ?_, fun hslot h1 h3 => ?_, fun hslot hst => ?_⟩, fun hf => ⟨fun hst => ?_, fun hst => ?_⟩,
    fun sensors ns h => tamper_responds s sensors ns h, fun sensors ns h => ?_⟩
  · obtain ⟨hx, -⟩ := exec_of_cmd (c := .promote) rfl ((keyPromoteCmd_free (hstop hf)).trans (if_pos hv))
    exact runs_intro hx (keyPromote_waits s)
  · cases hk : s.keyStop with
    | none => exact (exec_of_cmd (c := .promote) rfl ((keyPromoteCmd_free hk).trans (if_neg (fun h => h.elim h1 h2)))).1
    | some st => exact (keyCommands_stopped hk (.promote, keyPromoteCmd) (.tail _ (.tail _ (.head _)))).1
  · exact (exec_of_cmd (c := .promote) rfl ((keyPromoteCmd_free (hstop hf)).trans (if_neg (fun h => h.elim h1 h2)))).2
  · obtain ⟨t, ht, g1, g2, g3, g4, g5, g6, g7⟩ := promoted_active hp hn hs hk hpar h9
    exact ⟨t, ht, g1, g2, g3, g4, hended g5, g6, g7⟩
  · obtain ⟨t, ht, g1, g2, g3, g4⟩ := promoted_fails hp hn hs h9 hno
    exact ⟨t, ht, g1, g2, g3, hended g4⟩
  · obtain ⟨hx, -⟩ := exec_of_cmd (c := .keyCancel) rfl ((keyCancelCmd_free (hstop hf)).trans (if_pos (by
      rcases hst with h | h
      · exact .inl h
      · exact .inr (.inl h))))
    obtain ⟨e1, -, e3, e4⟩ := keyEnd_slot (u := s.keyCancelled i) (op := 4) (slot := i) (code := 0) hi
    obtain ⟨c1, c2, c3⟩ := keyCancelled_alone (s := s) (i := i) (by omega)
    exact runs_intro hx ⟨e1.trans c1, e3.trans c2, fun hj => e4.trans (c3 hj), hended (keyShown_keyEnd (by decide) hi (by decide))⟩
  · obtain ⟨hx, -⟩ := exec_of_cmd (c := .keyCancel) rfl ((keyCancelCmd_free (hstop hf)).trans (if_pos (.inr (.inr hnx))))
    obtain ⟨e1, e2, e3, e4⟩ := keyEnd_slot (u := s.keyCancelled i) (op := 4) (slot := i) (code := 0) hi
    obtain ⟨c1, c2, c3, c4⟩ := keyCancelled_beside (s := s) (i := i) hst
    exact runs_intro hx ⟨e1.trans c1, e2.trans c2, e3.trans c3, fun hj => e4.trans (c4 hj),
      hended (keyShown_keyEnd (by decide) hi (by decide))⟩
  · exact exec_of_cmd (c := .keyCancel) rfl ((keyCancelCmd_free (hstop hf)).trans (if_neg (by
      rintro (h | h | h)
      · have h' : s.slotState i = 1 := h
        omega
      · have h' : s.slotState i = 2 := h
        omega
      · exact h hnx)))
  · have hcmd : keyRevokeCmd s = (s.keyEnd 5 i 1, .refused) := (keyRevokeCmd_free (hstop hf)).trans (if_pos hslot)
    obtain ⟨hx, hst⟩ := exec_of_cmd (c := .keyRevoke) rfl hcmd
    exact ⟨runs_intro hx ⟨slotState_keyEnd hi, keys_keyEnd s 5 i 1, hended (keyShown_keyEnd (by decide) hi (by decide))⟩, hst⟩
  · have hslot' : ¬ (i = 0 ∨ i = 1 ∨ i = 2 ∨ i = 4) := by simpa using hslot
    have hcmd : keyRevokeCmd s = (s.revokeSlot i, .ok) := (keyRevokeCmd_free (hstop hf)).trans ((if_neg hslot').trans (if_pos ⟨h1, h3⟩))
    obtain ⟨g1, g2, g3, g4, g5⟩ := revokeSlot_revokes (s := s) hi
    exact runs_intro (exec_of_cmd (c := .keyRevoke) rfl hcmd).1 ⟨g1, g2, g3, hended g4, g5⟩
  · have hslot' : ¬ (i = 0 ∨ i = 1 ∨ i = 2 ∨ i = 4) := by simpa using hslot
    have hcmd : keyRevokeCmd s = (s, .refused) := (keyRevokeCmd_free (hstop hf)).trans ((if_neg hslot').trans (if_neg (by
      rintro ⟨h1, h3⟩
      have h1' : 1 ≤ s.slotState i := h1
      have h3' : s.slotState i ≤ 3 := h3
      omega)))
    exact exec_of_cmd (c := .keyRevoke) rfl hcmd
  · obtain ⟨hx, -⟩ := exec_of_cmd (c := .keyErase) rfl ((keyEraseCmd_free (hstop hf)).trans (if_pos hst))
    obtain ⟨e1, -, e3, e4⟩ := keyEnd_slot (u := s.keyErased i) (op := 6) (slot := i) (code := 0) hi
    obtain ⟨c1, c2, c3⟩ := keyErased_empty s i
    exact runs_intro hx ⟨e1.trans c1, e3.trans c2, fun hj => e4.trans (c3 hj), hended (keyShown_keyEnd (by decide) hi (by decide)),
      fun h3 => (trd_keyEnd (by decide) (by decide) (by decide) (by decide)).trans (keyErased_image h3)⟩
  · exact exec_of_cmd (c := .keyErase) rfl ((keyEraseCmd_free (hstop hf)).trans (if_neg (by
      have : ∀ x, s.slotState i = x → s.slotState s.keyArg = x := fun _ h => h
      rintro (h | h | h | h) <;>
      · have h' : s.slotState i = _ := h
        omega)))
  · simp only [exec, execTamper, h, if_true]

end Sys2Proof.Machine
end

section
/-! #### The pages that an operation keeps to -/

namespace Sys2Proof.Machine

/-- The registers of the pages `P`, and those of the interrupt controller and the recorder, which every event touches. -/
def onReg (P : List Nat) (a : Nat) : Bool := P.contains (pageOf a) || pageOf a == 7 || pageOf a == 8

/-- The tables of the pages `P`, the source table and the recorder's status table. -/
def onTbl (P : List Nat) (tid : Nat) : Bool := P.contains (tablePage tid) || tid == 0x0700 || tid == 0x0802

/-- `t` differs from `s` in registers and table words of the pages `P` only, and in what events touch. -/
@[reducible] def OnPages (P : List Nat) (s t : State) : Prop := Near (fun a => onReg P a = true) (fun tid => onTbl P tid = true) s t

theorem onReg_of_evReg {P : List Nat} {pg a : Nat} (hP : pg ∈ P) (h : evReg pg a) : onReg P a = true := by
  have hpage : ∀ o, o < 4096 → pageOf (addrOf pg o) = pg := fun o ho => by simp only [pageOf_eq, addrOf_eq]; omega
  unfold onReg
  rcases h with rfl | rfl | rfl | ⟨h1, h2, -⟩ | h
  · rw [hpage _ (by decide), List.contains_iff_mem.2 hP]; rfl
  · rw [hpage _ (by decide), List.contains_iff_mem.2 hP]; rfl
  · simp
  · have : pageOf a = 7 := by simp only [pageOf_eq]; omega
    rw [this]; simp
  · rw [h]; simp

theorem onReg_of_range {P : List Nat} {pg a : Nat} (hP : pg ∈ P) (h1 : pg * 4096 ≤ a) (h2 : a < pg * 4096 + 4096) : onReg P a = true := by
  have : pageOf a = pg := by simp only [pageOf_eq]; omega
  unfold onReg
  rw [this, List.contains_iff_mem.2 hP]; rfl

theorem onTbl_of_evTbl {P : List Nat} {tid : Nat} (h : evTbl tid) : onTbl P tid = true := by
  unfold onTbl
  rcases h with rfl | rfl <;> simp

theorem onPages_raiseEv {P : List Nat} {s t : State} {pg b : Nat} (h : OnPages P s t) (hpg : pg < 2 ^ 20) (hP : pg ∈ P) :
    OnPages P s (t.raiseEv pg b) :=
  near_raiseEv h (by omega) (fun _ => onReg_of_evReg hP) (fun _ => onTbl_of_evTbl)

theorem near_ite {p q : Nat → Prop} {s t u : State} {c : Prop} [Decidable c] (h1 : c → Near p q s t) (h2 : ¬ c → Near p q s u) :
    Near p q s (if c then t else u) := by
  split
  · exact h1 ‹_›
  · exact h2 ‹_›

theorem near_bump {p q : Nat → Prop} {s t : State} {c : Ctr} (h : Near p q s t) (h1 : p c.f.addr) (h2 : p c.ovf.1) :
    Near p q s (t.bump c) := near_bumpN h h1 h2

theorem OnPages.trans {P : List Nat} {s t u : State} (h : OnPages P s t) (h' : OnPages P t u) : OnPages P s u := Near.trans h h'

theorem OnPages.mono {P Q : List Nat} {s t : State} (h : OnPages P s t) (hPQ : P ⊆ Q) : OnPages Q s t := by
  have hc : ∀ n, P.contains n = true → Q.contains n = true := fun n hn => by
    rw [List.contains_iff_mem] at hn ⊢
    exact hPQ hn
  refine Near.mono h (fun a ha => ?_) (fun x hx => ?_)
  · unfold onReg at ha ⊢
    simp only [Bool.or_eq_true] at ha ⊢
    exact ha.imp_left (Or.imp_left (hc _))
  · unfold onTbl at hx ⊢
    simp only [Bool.or_eq_true] at hx ⊢
    exact hx.imp_left (Or.imp_left (hc _))

/-! Parts that hold no register and no table. -/

section
variable {p q : Nat → Prop} {s t : State}

theorem near_ite' {u : State} {c : Prop} [Decidable c] (h1 : Near p q s t) (h2 : Near p q s u) :
    Near p q s (if c then t else u) := near_ite (fun _ => h1) (fun _ => h2)

theorem near_optMod {f : OptSt → OptSt} (h : Near p q s t) : Near p q s (t.optMod f) := near_same h rfl rfl
theorem near_twinMod {f : TwinSt → TwinSt} (h : Near p q s t) : Near p q s (t.twinMod f) := near_same h rfl rfl
theorem near_hostMod {f : HostSt → HostSt} (h : Near p q s t) : Near p q s (t.hostMod f) := near_same h rfl rfl
theorem near_timeMod {f : TimeSt → TimeSt} (h : Near p q s t) : Near p q s (t.timeMod f) := near_same h rfl rfl
theorem near_dioMod {f : DioSt → DioSt} (h : Near p q s t) : Near p q s (t.dioMod f) := near_same h rfl rfl
theorem near_sessMod {i : Nat} {f : Sess → Sess} (h : Near p q s t) : Near p q s (t.sessMod i f) := near_same h rfl rfl
theorem near_addItem {i : Nat} {it : NItem} (h : Near p q s t) : Near p q s (t.addItem i it) := near_same h rfl rfl
theorem near_pwmStart {k per at_ : Nat} (h : Near p q s t) : Near p q s (t.pwmStart k per at_) := near_same h rfl rfl
theorem near_emit {m : OutMsg} (h : Near p q s t) : Near p q s (t.emit m) := near_same h rfl rfl

end

/-! Operations of several modules. -/

theorem onPages_setMstate {s t : State} {P : List Nat} (h : OnPages P s t) {m : Nat} (hP : [0x00, 0x0C, 0x30] ⊆ P) :
    OnPages P s (t.setMstate m) := by
  refine h.trans (OnPages.mono ?_ hP)
  unfold State.setMstate
  refine near_ite (fun _ => Near.refl _ _ t) (fun _ => ?_)
  refine onPages_raiseEv (near_setF (near_setF (near_setF (Near.refl _ _ t) ?_) ?_) ?_) ?_ ?_ <;> decide

theorem onPages_aoutStat {s t : State} {P : List Nat} (h : OnPages P s t) (hP : [0x1D] ⊆ P) : OnPages P s t.aoutStat := by
  refine h.trans (OnPages.mono (P := [0x1D]) ?_ hP)
  exact near_setF (near_setF (Near.refl _ _ t) (by decide)) (by decide)

theorem onPages_outputsSafe {s t : State} {P : List Nat} (h : OnPages P s t) (hP : [0x1D] ⊆ P) : OnPages P s t.outputsSafe := by
  have hpg : ∀ base k, base = 0x1D068 ∨ base = 0x1D0A8 → k ∈ [0, 1, 2, 3] → onReg P (base + 4 * k) = true := fun base k hb hk =>
    onReg_of_range (pg := 0x1D) (hP (by decide)) (by omega) (by simp at hk; omega)
  unfold State.outputsSafe
  refine onPages_aoutStat (near_foldl (near_foldl h (fun a i hi ha => ?_)) (fun a k hk ha => ?_)) hP
  · exact near_ite' (near_setF ha (hpg _ _ (.inl rfl) hi)) ha
  · exact near_ite' (near_pwmStart (near_setF ha (hpg _ _ (.inr rfl) hk))) ha

theorem onPages_goto {s t : State} {P : List Nat} (h : OnPages P s t) {m : Nat} (hP : [0x00, 0x0C, 0x30, 0x1D] ⊆ P) :
    OnPages P s (t.goto m) :=
  onPages_aoutStat (onPages_setMstate h (List.Subset.trans (by decide) hP)) (List.Subset.trans (by decide) hP)

theorem onPages_enterFault {s t : State} {P : List Nat} (h : OnPages P s t) {c e : Nat} (hP : [0x00, 0x0C, 0x30, 0x1D] ⊆ P) :
    OnPages P s (t.enterFault c e) := by
  refine h.trans (OnPages.mono (P := [0x00, 0x0C, 0x30, 0x1D]) ?_ hP)
  unfold State.enterFault
  refine near_ite' (Near.refl _ _ t) ?_
  extract_lets s1 s2 d s3 s4
  have h2 : OnPages [0x00, 0x0C, 0x30, 0x1D] t s2 :=
    near_bump (near_setF (near_setF (Near.refl _ _ t) (by decide)) (by decide)) (by decide) (by decide)
  have h3 : OnPages [0x00, 0x0C, 0x30, 0x1D] t s3 := near_same h2 rfl rfl
  exact onPages_outputsSafe (onPages_setMstate (near_dioMod h3) (by decide)) (by decide)

theorem onPages_complete {s t : State} {P : List Nat} (h : OnPages P s t) {c : HCmd} {st : Status} {r : Word} (hP : [0x0B] ⊆ P) :
    OnPages P s (t.complete c st r) := by
  refine h.trans (OnPages.mono (P := [0x0B]) ?_ hP)
  have h1 := fun f => near_hostMod (p := (onReg [0x0B] · = true)) (q := (onTbl [0x0B] · = true)) (f := f) (Near.refl _ _ t)
  unfold State.complete
  exact near_ite' (near_addItem (near_sessMod (h1 _))) (near_bump (h1 _) (by decide) (by decide))

theorem onPages_dropSolve {s t : State} {P : List Nat} (h : OnPages P s t) (hP : [0x0B, 0x25] ⊆ P) : OnPages P s t.dropSolve := by
  refine h.trans (OnPages.mono (P := [0x0B, 0x25]) ?_ hP)
  have hended : ∀ (u : State) c, OnPages [0x0B, 0x25] t u → OnPages [0x0B, 0x25] t (u.optEnded c) := by
    intro u c hu
    unfold State.optEnded
    split
    · exact hu
    · exact near_optMod hu
  have hhalt : OnPages [0x0B, 0x25] t (t.haltSolve 5) := by
    unfold State.haltSolve State.endSolve
    split
    · exact Near.refl _ _ t
    · rename_i r hr
      extract_lets s1 s2 s3
      have h3 : OnPages [0x0B, 0x25] t s3 := by
        refine hended _ _ ?_
        have h1 : OnPages [0x0B, 0x25] t s1 := near_wr (near_wr (Near.refl _ _ t) (by decide)) (by decide)
        have hn : ∀ (u : State) w, OnPages [0x0B, 0x25] t u → OnPages [0x0B, 0x25] t (u.noteEnd w) := fun u w hu => by
          have hu1 := fun f => near_optMod (f := f) (near_wr (a := 0x2504C) (v := w) hu (by decide))
          exact near_ite' (near_bump (hu1 _) (by decide) (by decide))
            (onPages_raiseEv (near_bump (hu1 _) (by decide) (by decide)) (by decide) (by decide))
        exact hn _ _ (near_optMod (near_setF h1 (by decide)))
      split
      · exact onPages_complete h3 (by decide)
      · exact h3
  unfold State.dropSolve
  extract_lets s1
  split
  · exact hhalt
  · exact onPages_complete (hended _ _ (near_optMod hhalt)) (by decide)

theorem onPages_closeSess {s t : State} {P : List Nat} (h : OnPages P s t) {i : Nat} (hP : [0x0B] ⊆ P) : OnPages P s (t.closeSess i) :=
  near_closeSess h (fun _ => onReg_of_evReg (hP (by decide))) (fun _ => onTbl_of_evTbl)

theorem onPages_closeService {s t : State} {P : List Nat} (h : OnPages P s t) (hP : [0x0B] ⊆ P) : OnPages P s t.closeService :=
  near_foldl h (fun _ _ _ ha => onPages_closeSess ha hP)

theorem onPages_outOfStep {s t : State} {P : List Nat} (h : OnPages P s t) : OnPages P s t.outOfStep := near_twinMod h

theorem onPages_park {s t : State} {P : List Nat} (h : OnPages P s t) {r : Nat} (hP : [0x00, 0x0B, 0x0C, 0x1D, 0x25, 0x30] ⊆ P) :
    OnPages P s (t.park r) := by
  refine h.trans (OnPages.mono (P := [0x00, 0x0B, 0x0C, 0x1D, 0x25, 0x30]) ?_ hP)
  unfold State.park
  refine near_twinMod (onPages_outOfStep (onPages_closeService (onPages_dropSolve ?_ (by decide)) (by decide)))
  refine onPages_raiseEv (onPages_goto ?_ (by decide)) (by decide) (by decide)
  exact near_setF (Near.refl _ _ t) (by decide)

end Sys2Proof.Machine
end

section
/-! #### The module's state after an operation (R524) -/

namespace Sys2Proof.Machine

theorem mstate_setMstate {s : State} {m : Nat} (hm : m < 16) : (s.setMstate m).mstate = m := by
  unfold State.setMstate
  split
  · assumption
  · unfold State.mstate
    rw [fld_raiseEv_apart (by decide) (by decide) (by decide) (by decide) (by decide), fld_setF_apart (by decide), fld_setF_apart (by decide),
      fld_setF_self (by decide)]
    exact Nat.mod_eq_of_lt hm

/-- The other fields of DEV_STAT. -/
theorem fld_setMstate_stat {s : State} {m : Nat} {f : Fld} (ha : f.addr = 0x0054) (hl : f.lo + f.w ≤ 28) :
    (s.setMstate m).fld f = s.fld f := by
  unfold State.setMstate
  split
  · rfl
  · rw [fld_raiseEv_apart (by decide) (by rw [ha]; decide) (by rw [ha]; decide) (by rw [ha]; decide) (by rw [ha]; decide),
      fld_setF_apart (.inl (by rw [ha]; decide)), fld_setF_apart (.inl (by rw [ha]; decide)), fld_setF_apart (.inr (.inr (by exact hl)))]

theorem rd_aoutStat {s : State} {a : Nat} (h : a ≠ 0x1D044) : s.aoutStat.rd a = s.rd a :=
  (near_setF (near_setF (Near.refl (· = 0x1D044) (fun _ => False) s) rfl) rfl : Near _ _ s s.aoutStat).regs a h

theorem fld_aoutStat {s : State} {f : Fld} (h : f.addr ≠ 0x1D044) : s.aoutStat.fld f = s.fld f := fld_of_rd (rd_aoutStat h)

theorem bit_aoutStat {s : State} {f : Fld} (h : f.addr ≠ 0x1D044) : s.aoutStat.bit f = s.bit f := bit_of_rd (rd_aoutStat h)

theorem mstate_goto {s : State} {m : Nat} (hm : m < 16) : (s.goto m).mstate = m := by
  unfold State.goto State.mstate
  rw [fld_aoutStat (by decide)]
  exact mstate_setMstate hm

theorem fld_goto_stat {s : State} {m : Nat} {f : Fld} (ha : f.addr = 0x0054) (hl : f.lo + f.w ≤ 28) : (s.goto m).fld f = s.fld f := by
  unfold State.goto
  rw [fld_aoutStat (by rw [ha]; decide), fld_setMstate_stat ha hl]

theorem OnPages.rd {P : List Nat} {s t : State} (h : OnPages P s t) {a : Nat} (ha : onReg P a = false) : t.rd a = s.rd a :=
  h.regs a (by rw [ha]; decide)

theorem OnPages.fld {P : List Nat} {s t : State} (h : OnPages P s t) {f : Fld} (ha : onReg P f.addr = false) : t.fld f = s.fld f :=
  fld_of_rd (h.rd ha)

theorem OnPages.bit {P : List Nat} {s t : State} (h : OnPages P s t) {f : Fld} (ha : onReg P f.addr = false) : t.bit f = s.bit f :=
  bit_of_rd (h.rd ha)

/-- What parking leaves after the event: the service sessions, the optimiser and the twin link touch no register of the module's page. -/
theorem park_tail (s : State) (r : Nat) : OnPages [0x0B, 0x25] (((s.setF ⟨0x0054, 12, 4⟩ r).goto 5).raiseEv 0 2) (s.park r) := by
  unfold State.park
  exact near_twinMod (onPages_outOfStep (onPages_closeService (onPages_dropSolve (Near.refl _ _ _) (by decide)) (by decide)))

theorem park_shows {s : State} {r : Nat} (hr : r < 16) : (s.park r).mstate = 5 ∧ (s.park r).fld ⟨0x0054, 12, 4⟩ = r
    ∧ (s.park r).bit (bitAt 0x0010 2) = true := by
  have hu := park_tail s r
  refine ⟨?_, ?_, ?_⟩
  · unfold State.mstate
    rw [hu.fld (by decide), fld_raiseEv_apart (by decide) (by decide) (by decide) (by decide) (by decide)]
    exact mstate_goto (by decide)
  · rw [hu.fld (by decide), fld_raiseEv_apart (by decide) (by decide) (by decide) (by decide) (by decide), fld_goto_stat rfl (by decide),
      fld_setF_self (by decide)]
    exact Nat.mod_eq_of_lt hr
  · rw [hu.bit (by decide)]
    exact bit_raiseEv_self (by decide) (by decide) (by decide) rfl

theorem rd_park {s : State} {r a : Nat} (ha : onReg [0x00, 0x0B, 0x0C, 0x1D, 0x25, 0x30] a = false) : (s.park r).rd a = s.rd a :=
  (onPages_park (Near.refl _ _ s) (List.Subset.refl _)).rd ha

end Sys2Proof.Machine
end

section
/-! #### The module gives its role up (R470), and the timebase with it (R118) -/

namespace Sys2Proof.Machine

section
variable {s t : State} {P : List Nat}

theorem onPages_errEst (h : OnPages P s t) (hP : 0x04 ∈ P) : OnPages P s t.errEst :=
  near_wr h (onReg_of_range hP (by decide) (by decide))

theorem onPages_setQuality (h : OnPages P s t) {q : Nat} (hP : 0x04 ∈ P) : OnPages P s (t.setQuality q) := by
  have hreg : ∀ a, 0x4000 ≤ a → a < 0x5000 → onReg P a = true := fun a h1 h2 => onReg_of_range hP h1 h2
  have h2 := fun f => near_timeMod (f := f) (near_setF (v := q) (f := timeQuality) h (hreg _ (by decide) (by decide)))
  exact near_ite' (onPages_errEst h hP)
    (onPages_raiseEv (onPages_errEst (near_ite' (near_setF (h2 _) (hreg _ (by decide) (by decide))) (h2 _)) hP) (by decide) hP)

theorem onPages_toHoldover (h : OnPages P s t) (hP : 0x04 ∈ P) : OnPages P s t.toHoldover :=
  near_ite' (near_ite' (onPages_errEst h hP) (onPages_setQuality h hP)) h

theorem onPages_ptpSelect (h : OnPages P s t) {i : Nat} (hi : i < 2) (hP : 0x04 ∈ P) : OnPages P s (t.ptpSelect i) := by
  unfold State.ptpSelect
  extract_lets l
  split
  · exact near_setF h (onReg_of_range hP (by simp only [ptpSel, bitAt_addr]; omega) (by simp only [ptpSel, bitAt_addr]; omega))
  · exact h

theorem onPages_srcNote (h : OnPages P s t) {c : Nat} : OnPages P s (t.srcNote c) := by
  unfold State.srcNote
  split
  · exact near_timeMod h
  · exact near_timeMod h
  · exact h

theorem onPages_selectSrc (h : OnPages P s t) {c : Nat} (hP : 0x04 ∈ P) : OnPages P s (t.selectSrc c) := by
  have hreg : ∀ a, 0x4000 ≤ a → a < 0x5000 → onReg P a = true := fun a h1 h2 => onReg_of_range hP h1 h2
  unfold State.selectSrc
  extract_lets s1
  have h1 : OnPages P s s1 := onPages_raiseEv (near_bump (near_timeMod (near_setF h (hreg _ (by decide) (by decide))))
    (hreg _ (by decide) (by decide)) (hreg _ (by decide) (by decide))) (by decide) hP
  exact near_ite' h (near_ite' (onPages_toHoldover h1 hP) h1)

theorem onPages_timeEval (h : OnPages P s t) (hP : 0x04 ∈ P) : OnPages P s t.timeEval := by
  unfold State.timeEval
  extract_lets s0 s1 cur best s2
  have h1 : OnPages P s s1 :=
    near_foldl (onPages_ptpSelect (onPages_ptpSelect h (by decide) hP) (by decide) hP) (fun _ _ _ ha => onPages_srcNote ha)
  have h2 : OnPages P s s2 := near_ite' (onPages_raiseEv h1 (by decide) hP) h1
  exact near_ite' (onPages_selectSrc h1 hP) (near_ite' h1 (onPages_selectSrc h2 hP))

theorem onPages_standbyHold (h : OnPages P s t) (hP : 0x04 ∈ P) : OnPages P s t.standbyHold :=
  near_ite' (onPages_setQuality (onPages_timeEval h hP) hP) h

end

theorem onPages_leaveService {s t : State} {P : List Nat} (h : OnPages P s t) (hP : [0x0B, 0x25] ⊆ P) :
    OnPages P s (t.dropSolve.closeService.outOfStep) :=
  onPages_outOfStep (onPages_closeService (onPages_dropSolve h hP) (List.Subset.trans (by decide) hP))

theorem near_twinMod_lnch {p q : Nat → Prop} {s t : State} {l : List LnchArm} {f : TwinSt → TwinSt} (h : Near p q s t) :
    Near p q s ({ t with lnch := l }.twinMod f) := near_twinMod (near_same h rfl rfl)

theorem standDown_tail (s : State) : OnPages [0x04, 0x0B, 0x25] (s.goto 3) s.standDown := by
  have h1 : OnPages [0x04, 0x0B, 0x25] (s.goto 3) (s.goto 3).standbyHold := onPages_standbyHold (Near.refl _ _ _) (by decide)
  unfold State.standDown
  exact near_twinMod_lnch (onPages_leaveService h1 (by decide))

theorem mstate_standDown (s : State) : s.standDown.mstate = 3 :=
  ((standDown_tail s).fld (by decide)).trans (mstate_goto (by decide))

theorem instep_standDown (s : State) : s.standDown.twin.instep = false := rfl

theorem sent_standDown (s : State) : s.standDown.sent = s.sent :=
  (standDown_keeps (Keeps.refl _ s) (List.Subset.refl _)).only .sent (by decide)

end Sys2Proof.Machine
end

section
/-! #### The configuration banks and the restarts (R512, R513, R522, R523) -/

namespace Sys2Proof.Machine

theorem onlyIn_exec {c : Instr} {s t : State} {ps : List Part} (h : exec c s = .next t) (hps : cmdParts c ⊆ ps) : s.onlyIn t ps :=
  fun p hp => aCommandKeepsToItsParts c s t h p (fun hm => hp (hps hm))

/-! The verification. -/

theorem cfgVerifyCmd_starts {s : State} (hb : s.bit cfgBusy = false) (hp : s.bit cfgPend = false) :
    cfgVerifyCmd s = (((s.setB cfgVer false).setB cfgBusy true).keyTaken 0, .ok) := by
  unfold cfgVerifyCmd
  rw [if_neg (by rw [hb]; decide), if_neg (Bool.eq_false_iff.1 hp)]

theorem cfgVerifyCmd_busy {s : State} (hb : s.bit cfgBusy = true) : cfgVerifyCmd s = (s, .busy) := by
  unfold cfgVerifyCmd
  rw [if_pos hb]

theorem cfgVerifyCmd_refused {s : State} (hb : s.bit cfgBusy = false) (hp : s.bit cfgPend = true) : cfgVerifyCmd s = (s, .refused) := by
  unfold cfgVerifyCmd
  rw [if_neg (by rw [hb]; decide), if_pos hp]

theorem keyAt_keyTaken_self {s : State} {n : Nat} : (s.keyTaken n).keyAt n = s.keySlot3 := by
  unfold State.keyAt State.keyTaken
  cases s.keySlot3 <;> simp

theorem keyAt_keyTaken_apart {s : State} {n m : Nat} (h : m ≠ n) : (s.keyTaken n).keyAt m = s.keyAt m := by
  unfold State.keyAt State.keyTaken
  cases s.keySlot3 <;> simp [h, List.contains_eq_mem]

theorem cfgVerify_starts {s : State} (hb : s.bit cfgBusy = false) (hp : s.bit cfgPend = false) :
    runs .cfgVerify s (fun t => t.bit cfgBusy = true
      ∧ t.bit cfgVer = false ∧ t.keyAt 0 = s.keySlot3 ∧ (∀ n, n ≠ 0 → t.keyAt n = s.keyAt n) ∧ t.keys.staged = s.keys.staged
      ∧ s.regsBut t (fun a => a = 0x1044) ∧ s.onlyIn t [.regs, .keys]) := by
  obtain ⟨he, -⟩ := exec_of_cmd (c := .cfgVerify) (s := s) rfl (cfgVerifyCmd_starts hb hp)
  have hslot : ((s.setB cfgVer false).setB cfgBusy true).keySlot3 = s.keySlot3 := by
    unfold State.keySlot3 State.slotState
    rw [tfld_of_tbl (s := s) (t := (s.setB cfgVer false).setB cfgBusy true) rfl]
  have hbits : ∀ f : Fld, (((s.setB cfgVer false).setB cfgBusy true).keyTaken 0).bit f = ((s.setB cfgVer false).setB cfgBusy true).bit f :=
    bit_of_regs rfl
  refine runs_intro he ⟨?_, ?_, keyAt_keyTaken_self.trans hslot, fun n hn => keyAt_keyTaken_apart hn, rfl, ?_, onlyIn_exec he (by decide)⟩
  · rw [hbits, bit_setB_self (by decide) rfl]
  · rw [hbits, bit_setB_apart (by decide), bit_setB_self (by decide) rfl]
  · exact (near_same (near_setB (near_setB (Near.refl (· = 0x1044) (fun _ => False) s) rfl) rfl) rfl rfl).regs

theorem cfgVerifyEnd_verifies {o : CfgObs} {s : State} (hb : s.bit cfgBusy = true) (hv : (s.cfgVerdict 1 (s.keyAt 0) o).1 = 0) :
    runs (.cfgVerifyEnd o) s (fun t => t.bit cfgVer = true ∧ t.bit cfgBusy = false ∧ t.bit cfgFailed = false
      ∧ t.rd 0x1048 = 0 ∧ t.rd 0x104C = 0 ∧ t.rd 0x1050 = 0 ∧ t.rd 0x1060 = s.cfgWord 1 8 ∧ t.rd 0x1064 = s.cfgWord 1 12
      ∧ t.rd 0x1068 = s.cfgWord 1 (s.cfgLen 1 - 100) ∧ t.bit (bitAt 0x1010 0) = true) := by
  have he : exec (.cfgVerifyEnd o) s = .next ((((((((((s.wr 0x1048 0).wr 0x104C 0).wr 0x1050 0).wr 0x1060 (s.cfgWord 1 8)).wr 0x1064
      (s.cfgWord 1 12)).wr 0x1068 (s.cfgWord 1 (s.cfgLen 1 - 100))).setB cfgBusy false).setB cfgFailed false).setB cfgVer true).raiseEv 1 0) := by
    show execCfgVerifyEnd o s = _
    unfold execCfgVerifyEnd
    simp only [hb, hv, Bool.not_true, Bool.false_eq_true, if_false, if_true]
  refine runs_intro he ⟨?_, ?_, ?_, ?_, ?_, ?_, ?_, ?_, ?_, bit_raiseEv_self (by decide) (by decide) (by decide) rfl⟩
  all_goals simp (disch := decide) only [bit_raiseEv_apart, bit_setB_apart, bit_setB_self, rd_raiseEv_apart, rd_setB_apart, rd_wr_apart,
    rd_wr_self]

theorem cfgVerifyEnd_fails {o : CfgObs} {s : State} (hb : s.bit cfgBusy = true) (hv : (s.cfgVerdict 1 (s.keyAt 0) o).1 ≠ 0) :
    runs (.cfgVerifyEnd o) s (fun t => t.bit cfgVer = s.bit cfgVer ∧ t.bit cfgBusy = false ∧ t.bit cfgFailed = true
      ∧ t.rd 0x1048 = BitVec.ofNat 32 ((s.cfgVerdict 1 (s.keyAt 0) o).1 * 2 ^ 28 + (1 - s.fld cfgRunning) * 2 ^ 27 + o.off % 2 ^ 24)
      ∧ t.rd 0x104C = (s.cfgVerdict 1 (s.keyAt 0) o).2.1 ∧ t.rd 0x1050 = (s.cfgVerdict 1 (s.keyAt 0) o).2.2
      ∧ t.bit (bitAt 0x1010 1) = true) := by
  generalize hr : s.cfgVerdict 1 (s.keyAt 0) o = v at hv ⊢
  have he : exec (.cfgVerifyEnd o) s = .next (s.cfgFail v.1 o.off v.2.1 v.2.2) := by
    show execCfgVerifyEnd o s = _
    unfold execCfgVerifyEnd
    simp only [hb, hr, hv, Bool.not_true, Bool.false_eq_true, if_false]
  refine runs_intro he ⟨?_, ?_, ?_, ?_, ?_, ?_, bit_raiseEv_self (by decide) (by decide) (by decide) rfl⟩
  all_goals
    unfold State.cfgFail
    simp (disch := decide) only [bit_raiseEv_apart, bit_setB_apart, bit_setB_self, bit_wr_apart, rd_raiseEv_apart, rd_setB_apart,
      rd_wr_apart, rd_wr_self]

theorem cfgVerifyEnd_idles {o : CfgObs} {s : State} (hb : s.bit cfgBusy = false) : exec (.cfgVerifyEnd o) s = .next s := by
  show execCfgVerifyEnd o s = _
  unfold execCfgVerifyEnd
  rw [hb, if_pos (by decide)]

/-! Switch and cancel. -/

theorem cfgSwitchCmd_switches {s : State} (hv : s.bit cfgVer = true) :
    cfgSwitchCmd s = ((s.setB cfgPend true).setF cfgBoot (1 - s.fld cfgRunning), .ok) := if_pos hv

theorem cfgSwitchCmd_refused {s : State} (hv : s.bit cfgVer = false) : cfgSwitchCmd s = (s, .refused) := if_neg (Bool.eq_false_iff.1 hv)

theorem cfgSwitch_switches {s : State} (hv : s.bit cfgVer = true) : runs .cfgSwitch s (fun t => t.bit cfgPend = true
    ∧ t.fld cfgBoot = 1 - s.fld cfgRunning ∧ s.regsBut t (fun a => a = 0x1044) ∧ s.onlyIn t [.regs]) := by
  obtain ⟨he, -⟩ := exec_of_cmd (c := .cfgSwitch) (s := s) rfl (cfgSwitchCmd_switches hv)
  refine runs_intro he ⟨?_, ?_, ?_, onlyIn_exec he (by decide)⟩
  · rw [bit_setF_apart (by decide), bit_setB_self (by decide) rfl]
  · rw [fld_setF_self (by decide)]
    exact Nat.mod_eq_of_lt (Nat.lt_of_le_of_lt (Nat.sub_le _ _) (by decide))
  · exact (near_setF (near_setB (Near.refl (· = 0x1044) (fun _ => False) s) rfl) rfl).regs

theorem cfgCancel_cancels {s : State} (hp : s.bit cfgPend = true) : runs .cfgCancel s (fun t => t.bit cfgPend = false
    ∧ t.fld cfgBoot = (if s.bit cfgFallback then 1 - s.fld cfgRunning else s.fld cfgRunning)
    ∧ s.regsBut t (fun a => a = 0x1044) ∧ s.onlyIn t [.regs]) := by
  have he : exec .cfgCancel s = .next s.cfgUnpend := next_congr (if_pos hp)
  have hlt : (if s.bit cfgFallback then 1 - s.fld cfgRunning else s.fld cfgRunning) < 2 ^ 1 := by
    split
    · exact Nat.lt_of_le_of_lt (Nat.sub_le _ _) (by decide)
    · exact fld_lt s cfgRunning
  refine runs_intro he ⟨?_, ?_, ?_, onlyIn_exec he (by decide)⟩
  · unfold State.cfgUnpend
    rw [bit_setF_apart (by decide), bit_setB_self (by decide) rfl]
  · unfold State.cfgUnpend
    rw [fld_setF_self (by decide)]
    exact Nat.mod_eq_of_lt hlt
  · exact (near_setF (near_setB (Near.refl (· = 0x1044) (fun _ => False) s) rfl) rfl).regs

theorem cfgCancel_idles {s : State} (hp : s.bit cfgPend = false) : exec .cfgCancel s = .next s :=
  next_congr (if_neg (Bool.eq_false_iff.1 hp))

/-! Restarts. -/

/-- The module has stopped for a restart with a cause. -/
def State.stoppedFor (t : State) (cause : Nat) : Prop :=
  t.mstate = 0 ∧ t.bootStep = 1 ∧ t.inRun = false ∧ t.dev.restart = some cause ∧ t.lnch = []

theorem stopped_restartNow (s : State) (cause : Nat) : (s.restartNow cause).stoppedFor cause := by
  unfold State.restartNow State.stoppedFor
  extract_lets s1
  obtain ⟨u, hu⟩ : ∃ u : State, u = { s1 with dev := { s1.dev with restart := some cause, restartNext := false }, lnch := [] } := ⟨_, rfl⟩
  have hr : u.regs = s1.regs := by rw [hu]
  rw [← hu]
  have hf : ∀ f : Fld, f.addr = 0x0054 → u.aoutStat.fld f = s1.fld f := fun f ha =>
    (fld_aoutStat (by rw [ha]; decide)).trans (fld_of_regs hr f)
  refine ⟨?_, ?_, ?_, ?_, ?_⟩
  · rw [State.mstate, hf _ rfl, fld_setB_apart (by decide), fld_setF_apart (by decide), fld_setF_self (by decide)]
    rfl
  · rw [State.bootStep, hf _ rfl, fld_setB_apart (by decide), fld_setF_self (by decide)]
    rfl
  · rw [State.inRun, bit_aoutStat (by decide), bit_of_regs hr, bit_setB_self (by decide) rfl]
  · rw [(aoutStat_keeps (Keeps.refl _ u) (List.Subset.refl _)).only .dev (by decide), hu]
  · rw [(aoutStat_keeps (Keeps.refl _ u) (List.Subset.refl _)).only .lnch (by decide), hu]

theorem sent_restartNow (s : State) (cause : Nat) : (s.restartNow cause).sent = s.sent :=
  (restartNow_keeps (Keeps.refl _ s) (List.Subset.refl _)).only .sent (by decide)

theorem sent_restartMet (s : State) : s.restartMet.sent = s.sent :=
  (restartMet_keeps (Keeps.refl _ s) (List.Subset.refl _)).only .sent (by decide)

/-- The module has stopped as the statement says: nothing has been sent. -/
theorem runs_stopped {c : Instr} {s t : State} {cause : Nat} (he : exec c s = .next t) (ht : t.stoppedFor cause) (hs : t.sent = s.sent) :
    runs c s (fun t => t.mstate = 0 ∧ t.bootStep = 1 ∧ t.inRun = false ∧ t.dev.restart = some cause ∧ t.lnch = [] ∧ t.sent = s.sent) := by
  obtain ⟨h1, h2, h3, h4, h5⟩ := ht
  exact runs_intro he ⟨h1, h2, h3, h4, h5, hs⟩

theorem restart_stops {s : State} (h : s.canSwitch = false) : exec .restart s = .next s.restartMet :=
  next_congr (if_neg (Bool.eq_false_iff.1 h))

theorem restart_switches {s : State} (h : s.canSwitch = true) : runs .restart s (fun t =>
    t.mstate = 3 ∧ t.dev.restartNext = true ∧ t.twin.instep = false
      ∧ t.sent = s.sent ++ [.handover ((s.ownFno + 2 ^ 32 - 1) % 2 ^ 32)]) := by
  obtain ⟨u, hu⟩ : ∃ u : State, u = (s.emit (.handover ((s.ownFno + 2 ^ 32 - 1) % 2 ^ 32))).standDown := ⟨_, rfl⟩
  have hcmd : twinSwitchCmd s = (u, .ok) := hu ▸ if_pos h
  have he : exec .restart s = .next { u with dev := { u.dev with restartNext := true } } := by
    show execRestart s = _
    unfold execRestart restartCmd
    rw [if_pos h, hcmd]
  refine runs_intro he ⟨?_, rfl, ?_, ?_⟩
  · show u.mstate = 3
    rw [hu, mstate_standDown]
  · show u.twin.instep = false
    rw [hu, instep_standDown]
  · show u.sent = _
    rw [hu, sent_standDown]
    rfl

theorem restartPairCmd_pair {s : State} (h : s.cfg.pair = true) : restartPairCmd s = (s.restartMet, .ok) := if_pos h

theorem restartPairCmd_single {s : State} (h : s.cfg.pair = false) : restartPairCmd s = (s, .refused) := if_neg (Bool.eq_false_iff.1 h)

/-- Settles O59: each command of the configuration banks by its cases, and the restarts by the one stop that they share. -/
theorem banksAreVerifiedAndModulesRestart : Obligations.BanksAreVerifiedAndModulesRestart := by
  unfold Obligations.BanksAreVerifiedAndModulesRestart
  intro s stopped waited recent again
  refine ⟨fun hb hp => ⟨congrArg Prod.snd (cfgVerifyCmd_starts hb hp), cfgVerify_starts hb hp⟩,
    fun hb => exec_of_cmd rfl (cfgVerifyCmd_busy hb), fun hb hp => exec_of_cmd rfl (cfgVerifyCmd_refused hb hp),
    fun o hb => ⟨fun hv => cfgVerifyEnd_verifies hb hv, fun hv => cfgVerifyEnd_fails hb hv⟩, fun hb o => cfgVerifyEnd_idles hb,
    fun hv => ⟨congrArg Prod.snd (cfgSwitchCmd_switches hv), cfgSwitch_switches hv⟩, fun hv => exec_of_cmd rfl (cfgSwitchCmd_refused hv),
    cfgCancel_cancels, cfgCancel_idles,
    fun h => runs_stopped (restart_stops h) (stopped_restartNow _ 1) (sent_restartMet s), restart_switches,
    fun h => runs_stopped (exec_of_cmd rfl (restartPairCmd_pair h)).1 (stopped_restartNow _ 1) (sent_restartMet s),
    fun h => exec_of_cmd rfl (restartPairCmd_single h),
    fun h => runs_stopped (next_congr (if_pos h)) (stopped_restartNow _ 3) (sent_restartNow s 3), fun h => next_congr (if_neg h)⟩

end Sys2Proof.Machine
end

section
/-! #### Role negotiation (R519) -/

namespace Sys2Proof.Machine

/-! What the module's changes of state leave: registers of other modules, and the twin link's part. -/

/-- The registers that a change of the module's state writes, with those of its event. -/
def modeReg (a : Nat) : Bool :=
  a == 0x0054 || a == 0xC048 || a == 0x30044 || a == 0x1D044 || a == 0x0010 || a == 0x0028 || pageOf a == 7 || pageOf a == 8

theorem modeReg_of_evReg {a : Nat} (h : evReg 0 a) : modeReg a = true := by
  unfold modeReg
  rcases h with rfl | rfl | rfl | ⟨h1, h2, -⟩ | h
  · rfl
  · rfl
  · rfl
  · have : pageOf a = 7 := by simp only [pageOf_eq]; omega
    rw [this]; simp
  · rw [h]; simp

theorem near_setMstate {p q : Nat → Prop} {s t : State} {m : Nat} (h : Near p q s t) (hp : ∀ a, modeReg a = true → p a)
    (hq : ∀ x, evTbl x → q x) : Near p q s (t.setMstate m) :=
  near_ite' h (near_raiseEv (near_setF (near_setF (near_setF h (hp _ rfl)) (hp _ rfl)) (hp _ rfl)) (by decide)
    (fun _ ha => hp _ (modeReg_of_evReg ha)) hq)

theorem near_goto {p q : Nat → Prop} {s t : State} {m : Nat} (h : Near p q s t) (hp : ∀ a, modeReg a = true → p a)
    (hq : ∀ x, evTbl x → q x) : Near p q s (t.goto m) :=
  near_setF (near_setF (near_setMstate h hp hq) (hp _ rfl)) (hp _ rfl)

theorem rd_goto {s : State} {m a : Nat} (h : modeReg a = false) : (s.goto m).rd a = s.rd a :=
  (near_goto (p := (modeReg · = true)) (q := fun _ => True) (Near.refl _ _ s) (fun _ => id) (fun _ _ => trivial)).regs a (by rw [h]; decide)

theorem twin_goto {s : State} {m : Nat} : (s.goto m).twin = s.twin :=
  (goto_keeps (Keeps.refl _ s) (List.Subset.refl _)).only .twin (by decide)

theorem rd_park_apart {s : State} {r a : Nat} (h : modeReg a = false) (hp : onReg [0x0B, 0x25] a = false) : (s.park r).rd a = s.rd a := by
  rw [(park_tail s r).rd hp, rd_raiseEv _ (by decide) (fun ha => by rw [modeReg_of_evReg ha] at h; cases h), rd_goto h, rd_setF_apart]
  rintro rfl
  cases h

theorem twin_on_park {s : State} {r : Nat} : (s.park r).twin.on = s.twin.on := by
  have hclose : ∀ u : State, u.closeService.twin = u.twin := fun u =>
    (closeService_keeps (Keeps.refl _ u) (List.Subset.refl _)).only .twin (by decide)
  have hdrop : ∀ u : State, u.dropSolve.twin = u.twin := fun u =>
    (dropSolve_keeps (Keeps.refl _ u) (List.Subset.refl _)).only .twin (by decide)
  have hon : ∀ u : State, u.outOfStep.twin.on = u.twin.on := fun _ => rfl
  have hlast : ∀ (u : State) f, (u.twinMod f).twin = f u.twin := fun _ _ => rfl
  unfold State.park
  simp only [hlast, hon, hclose, hdrop, twin_raiseEv, twin_goto, twin_setF]

theorem rd_step10 {s : State} {a : Nat} (h : a ≠ 0x0054) (h' : a ≠ 0x008C) : s.step10.rd a = s.rd a :=
  (rd_setF_apart h).trans (rd_wr_apart h')

theorem mstate_step10 (s : State) : s.step10.mstate = s.mstate := (fld_setF_apart (by decide)).trans (fld_wr_apart (by decide))

theorem bootStep_step10 (s : State) : s.step10.bootStep = 10 := fld_setF_self (s := s.wr _ _) (f := ⟨0x0054, 24, 4⟩) (v := 10) (by decide)

theorem twin_step10 (s : State) : s.step10.twin = s.twin := rfl

theorem mstate_leadFrom (s : State) (e : Nat) : (s.leadFrom e).mstate = s.mstate := (mstate_step10 _).trans (fld_wr_apart (by decide))

theorem epoch_leadFrom (s : State) (e : Nat) : (s.leadFrom e).rd 0xC04C = BitVec.ofNat 32 (e + 1) :=
  (rd_step10 (by decide) (by decide)).trans rd_wr_self

theorem rd_leadFrom {s : State} {e a : Nat} (h : a ≠ 0x0054) (h' : a ≠ 0x008C) (he : a ≠ 0xC04C) : (s.leadFrom e).rd a = s.rd a :=
  (rd_step10 h h').trans (rd_wr_apart he)

theorem standBy_shows (s : State) : s.standBy.mstate = 3 ∧ s.standBy.bootStep = 10 :=
  ⟨mstate_goto (by decide), (fld_goto_stat rfl (by decide)).trans (bootStep_step10 s)⟩

theorem rd_standBy {s : State} {a : Nat} (h : modeReg a = false) (h' : a ≠ 0x008C) : s.standBy.rd a = s.rd a := by
  refine (rd_goto h).trans (rd_step10 ?_ h')
  rintro rfl
  cases h

theorem twin_standBy (s : State) : s.standBy.twin = s.twin := twin_goto.trans (twin_step10 s)

/-! The twin link key and the state that a module discards. -/

/-- Without what the derived key is: a slot is written, the masks follow, and the frame counter's high part clears. -/
theorem twinKey_eq (s : State) : ∃ (k : KeyNew) (w : Word), s.twinKey = (((s.slotPut 4 3 k).twr 0x0900 4 6 w).useFree.keyRegs).frameHiClear :=
  ⟨_, _, rfl⟩

theorem rd_twinKey {s : State} {a : Nat} (h : ¬ keyMaskReg a) : s.twinKey.rd a = s.rd a := by
  have hhi : ∀ u : State, u.frameHiClear.rd a = u.rd a := fun _ => rfl
  have hfree : ∀ u : State, u.useFree.rd a = u.rd a := fun _ => rfl
  obtain ⟨k, w, hk⟩ := twinKey_eq s
  rw [hk, hhi, rd_keyRegs h, hfree, rd_twr]
  unfold State.rd
  rw [regs_slotPut]

theorem on_twinKey (s : State) : s.twinKey.twin.on = s.twin.on := by
  have hhi : ∀ u : State, u.frameHiClear.twin.on = u.twin.on := fun _ => rfl
  have hkey : ∀ u : State, u.keyRegs.twin = u.twin := fun u => (keyRegs_keeps (Keeps.refl _ u) (List.Subset.refl _)).only .twin (by decide)
  have hfree : ∀ u : State, u.useFree.twin = u.twin := fun _ => rfl
  obtain ⟨k, w, hk⟩ := twinKey_eq s
  rw [hk, hhi, hkey, hfree, twin_twr, (slotPut_keeps (Keeps.refl _ s) (List.Subset.refl _)).only .twin (by decide)]

end Sys2Proof.Machine
end

section
namespace Sys2Proof.Machine

/-- What role negotiation has of `s` when it judges its partner: step 9 runs, the partner's serial number is shown. -/
structure Negotiating (s t : State) (o : NegObs) : Prop where
  mstate : t.mstate = 0
  step : t.bootStep = 9
  on : t.twin.on = true
  lo : t.rd 0xC05C = lo32 o.serial
  hi : t.rd 0xC060 = hi32 o.serial
  cfg : t.cfg = s.cfg
  regs : ∀ a, a ≠ 0x0054 → a ≠ 0xC05C → a ≠ 0xC060 → t.rd a = s.rd a

/-- The state in which role negotiation judges its partner. -/
def State.negStart (s : State) (o : NegObs) : State :=
  (((s.inStep 9).twinMod (fun t => { t with on := true })).wr 0xC05C (lo32 o.serial)).wr 0xC060 (hi32 o.serial)

theorem inStep9_iff {s : State} : s.inStep9 = true ↔ s.mstate = 0 ∧ s.cfg.pair = true ∧ (s.bootStep = 8 ∨ s.bootStep = 9) := by
  unfold State.inStep9
  simp [and_assoc]

theorem negotiating_negStart {s : State} {o : NegObs} (h : s.inStep9 = true) : Negotiating s (s.negStart o) o := by
  obtain ⟨hm, -, -⟩ := inStep9_iff.1 h
  have hreg : ∀ f : Fld, f.addr = 0x0054 → (s.negStart o).fld f = (s.inStep 9).fld f := fun f hf =>
    (fld_wr_apart (by rw [hf]; decide)).trans (fld_wr_apart (by rw [hf]; decide))
  refine ⟨?_, ?_, rfl, (rd_wr_apart (by decide)).trans rd_wr_self, rd_wr_self, rfl, fun a h0 h1 h2 => ?_⟩
  · exact (hreg ⟨0x0054, 28, 4⟩ rfl).trans ((fld_setF_apart (by decide)).trans hm)
  · exact (hreg ⟨0x0054, 24, 4⟩ rfl).trans (fld_setF_self (f := ⟨0x0054, 24, 4⟩) (by decide))
  · exact (rd_wr_apart h2).trans ((rd_wr_apart h1).trans (rd_setF_apart h0))

section
variable {s t : State} {o : NegObs} (h : Negotiating s t o)
include h

theorem Negotiating.tampered : t.tampered = s.tampered := by
  unfold State.tampered State.fuseCount
  have hw : ∀ f : Fld, f.addr = 0xA048 → t.fld f = s.fld f := fun f hf =>
    fld_of_rd (h.regs _ (by rw [hf]; decide) (by rw [hf]; decide) (by rw [hf]; decide))
  rw [hw _ rfl, hw _ rfl]

theorem Negotiating.epoch : t.epoch = s.epoch :=
  congrArg BitVec.toNat (h.regs _ (by decide) (by decide) (by decide))

theorem Negotiating.refuses : t.negRefuses o = s.negRefuses o := by
  unfold State.negRefuses
  rw [h.cfg]

theorem Negotiating.order : t.fld ⟨0x0040, 0, 4⟩ = s.fld ⟨0x0040, 0, 4⟩ :=
  fld_of_rd (h.regs _ (by decide) (by decide) (by decide))

theorem Negotiating.wouldLead (p : PartnerHb) :
    t.wouldLead p = true ↔ p.epoch < s.epoch ∨ (s.epoch = p.epoch ∧ s.serial < o.serial % 2 ^ 64) := by
  have hser : t.serial = s.serial := by
    unfold State.serial
    rw [h.regs 0x0044 (by decide) (by decide) (by decide), h.regs 0x0048 (by decide) (by decide) (by decide)]
  have hpart : t.partnerSerial = o.serial % 2 ^ 64 := by
    unfold State.partnerSerial
    rw [h.lo, h.hi]
    simp only [lo32, hi32, BitVec.toNat_ofNat]
    omega
  unfold State.wouldLead
  rw [h.epoch, hser, hpart]
  simp

end

/-- What stays shown of a partner that is heard. -/
structure Heard (t : State) (o : NegObs) : Prop where
  on : t.twin.on = true
  lo : t.rd 0xC05C = lo32 o.serial
  hi : t.rd 0xC060 = hi32 o.serial

theorem Negotiating.heard {s t : State} {o : NegObs} (h : Negotiating s t o) : Heard t o := ⟨h.on, h.lo, h.hi⟩

section
variable {t : State} {o : NegObs} (h : Heard t o)
include h

theorem Heard.park (r : Nat) : Heard (t.park r) o :=
  ⟨twin_on_park.trans h.on, (rd_park_apart rfl rfl).trans h.lo, (rd_park_apart rfl rfl).trans h.hi⟩

theorem Heard.step10 : Heard t.step10 o :=
  ⟨h.on, (rd_step10 (by decide) (by decide)).trans h.lo, (rd_step10 (by decide) (by decide)).trans h.hi⟩

theorem Heard.wrEpoch (v : Word) : Heard (t.wr 0xC04C v) o :=
  ⟨h.on, (rd_wr_apart (by decide)).trans h.lo, (rd_wr_apart (by decide)).trans h.hi⟩

theorem Heard.leadFrom (e : Nat) : Heard (t.leadFrom e) o := (h.wrEpoch _).step10

theorem Heard.standBy : Heard t.standBy o :=
  ⟨(congrArg TwinSt.on (twin_standBy t)).trans h.on, (rd_standBy rfl (by decide)).trans h.lo, (rd_standBy rfl (by decide)).trans h.hi⟩

theorem Heard.twinKey : Heard t.twinKey o :=
  ⟨(on_twinKey t).trans h.on, (rd_twinKey (by unfold keyMaskReg; decide)).trans h.lo, (rd_twinKey (by unfold keyMaskReg; decide)).trans h.hi⟩

theorem Heard.discardState : Heard t.discardState o := ⟨h.on, h.lo, h.hi⟩

theorem Heard.raiseAhead : Heard (t.raiseEv 0x0C 9) o :=
  ⟨(congrArg TwinSt.on (twin_raiseEv ..)).trans h.on, (rd_raiseEv_apart (by decide) (by decide) (by decide) (by decide) (by decide)).trans h.lo,
    (rd_raiseEv_apart (by decide) (by decide) (by decide) (by decide) (by decide)).trans h.hi⟩

end

/-- The module has parked for a reason, and says so; EPOCH_AHEAD raises its own event. -/
def State.parkedFor (t : State) (r : Nat) : Prop :=
  t.mstate = 5 ∧ t.fld ⟨0x0054, 12, 4⟩ = r ∧ t.bit (bitAt 0x0010 2) = true ∧ (r = 3 → t.bit (bitAt 0xC010 9) = true)

/-- The module leads with an epoch, or stands by with the epoch it holds. -/
def State.leadsAt (t : State) (e : Nat) : Prop := t.mstate = 0 ∧ t.bootStep = 10 ∧ t.rd 0xC04C = BitVec.ofNat 32 (e + 1)
def State.standsAt (t : State) (e : Word) : Prop := t.mstate = 3 ∧ t.bootStep = 10 ∧ t.rd 0xC04C = e

theorem parkedFor_park {s : State} {r : Nat} (hr : r < 16) (h3 : r ≠ 3) : (s.park r).parkedFor r := by
  obtain ⟨h1, h2, h4⟩ := park_shows (s := s) hr
  exact ⟨h1, h2, h4, fun h => absurd h h3⟩

theorem parkedFor_ahead (s : State) : ((s.park 3).raiseEv 0x0C 9).parkedFor 3 := by
  obtain ⟨h1, h2, h4⟩ := park_shows (s := s) (r := 3) (by decide)
  refine ⟨(fld_raiseEv_apart (by decide) (by decide) (by decide) (by decide) (by decide)).trans h1,
    (fld_raiseEv_apart (by decide) (by decide) (by decide) (by decide) (by decide)).trans h2,
    (bit_raiseEv_apart (by decide) (by decide) (by decide) (by decide) (by decide)).trans h4,
    fun _ => bit_raiseEv_self (by decide) (by decide) (by decide) rfl⟩

theorem leadsAt_leadFrom {s : State} (hs : s.mstate = 0) (e : Nat) : (s.leadFrom e).leadsAt e :=
  ⟨(mstate_leadFrom s e).trans hs, bootStep_step10 _, epoch_leadFrom s e⟩

theorem standsAt_of_rd {s : State} {e : Word} (he : s.rd 0xC04C = e) : s.standBy.standsAt e :=
  ⟨(standBy_shows s).1, (standBy_shows s).2, (rd_standBy rfl (by decide)).trans he⟩

theorem rd_discardState (s : State) (a : Nat) : s.discardState.rd a = s.rd a := rfl

theorem mstate_twinKey (s : State) : s.twinKey.mstate = s.mstate := fld_of_rd (rd_twinKey (by unfold keyMaskReg; decide))

/-- The cases of R519 for a module that is not tampered and hears its partner. -/
theorem negotiate_cases {s t : State} {o : NegObs} (h : Negotiating s t o) (p : PartnerHb) :
    Heard (t.negotiate o p) o
    ∧ (s.negRefuses o = true → (t.negotiate o p).parkedFor 2)
    ∧ (s.negRefuses o = false → o.order ≠ s.fld ⟨0x0040, 0, 4⟩ →
        (t.wouldLead p = true → (t.negotiate o p).leadsAt s.epoch) ∧ (t.wouldLead p = false → (t.negotiate o p).parkedFor 1))
    ∧ (s.negRefuses o = false → o.order = s.fld ⟨0x0040, 0, 4⟩ →
        (p.mstate = 4 → (p.epoch < s.epoch → (t.negotiate o p).parkedFor 3)
          ∧ (s.epoch ≤ p.epoch → (t.negotiate o p).standsAt (s.rd 0xC04C)))
        ∧ (p.mstate = 0 ∨ p.mstate = 3 → (t.wouldLead p = true → (t.negotiate o p).leadsAt (max s.epoch p.epoch))
          ∧ (t.wouldLead p = false → (t.negotiate o p).standsAt (BitVec.ofNat 32 (max s.epoch p.epoch + 1))))
        ∧ (p.mstate ≠ 0 → p.mstate ≠ 3 → p.mstate ≠ 4 → (t.negotiate o p).leadsAt s.epoch)) := by
  have hkept : t.rd 0xC04C = s.rd 0xC04C := h.regs _ (by decide) (by decide) (by decide)
  have hkey : t.twinKey.rd 0xC04C = s.rd 0xC04C := (rd_twinKey (by unfold keyMaskReg; decide)).trans hkept
  have hlead : ∀ e, (t.leadFrom e).leadsAt e := leadsAt_leadFrom h.mstate
  have hkeyLead : ∀ e, (t.twinKey.leadFrom e).leadsAt e := leadsAt_leadFrom ((mstate_twinKey t).trans h.mstate)
  have hkeyStands : t.twinKey.standBy.standsAt (s.rd 0xC04C) := standsAt_of_rd hkey
  have hdropStands : t.twinKey.discardState.standBy.standsAt (s.rd 0xC04C) := standsAt_of_rd ((rd_discardState _ _).trans hkey)
  have hnextStands : ∀ v, (t.twinKey.wr 0xC04C v).standBy.standsAt v := fun v => standsAt_of_rd rd_wr_self
  unfold State.negotiate
  simp only [h.refuses, h.order, h.epoch]
  by_cases hr : s.negRefuses o = true
  · rw [if_pos hr]
    exact ⟨h.heard.park 2, fun _ => parkedFor_park (by decide) (by decide), fun hn => absurd hr (Bool.eq_false_iff.1 hn),
      fun hn => absurd hr (Bool.eq_false_iff.1 hn)⟩
  rw [if_neg hr]
  by_cases ho : o.order ≠ s.fld ⟨0x0040, 0, 4⟩
  · rw [if_pos ho]
    refine ⟨?_, fun hn => absurd hn hr, fun _ _ => ⟨fun hl => ?_, fun hl => ?_⟩, fun _ he => absurd he ho⟩
    · split
      · exact h.heard.leadFrom _
      · exact h.heard.park _
    · rw [if_pos hl]
      exact hlead _
    · rw [if_neg (Bool.eq_false_iff.1 hl)]
      exact parkedFor_park (by decide) (by decide)
  rw [if_neg ho]
  refine ⟨?_, fun hn => absurd hn hr, fun _ hne => absurd hne ho, fun _ _ => ⟨fun hp => ?_, fun hp => ?_, fun h0 h3 h4 => ?_⟩⟩
  · split
    · split
      · exact h.heard.twinKey.discardState.standBy
      · split
        · exact (h.heard.park 3).raiseAhead
        · exact h.heard.twinKey.standBy
    · split
      · split
        · exact h.heard.twinKey.leadFrom _
        · exact (h.heard.twinKey.wrEpoch _).standBy
      · exact h.heard.leadFrom _
  · rw [if_pos hp]
    refine ⟨fun hlt => ?_, fun hle => ?_⟩
    · rw [if_neg (by omega), if_pos hlt]
      exact parkedFor_ahead t
    · split
      · exact hdropStands
      · rw [if_neg (by omega)]
        exact hkeyStands
  · rw [if_neg (by omega), if_pos hp]
    refine ⟨fun hl => ?_, fun hl => ?_⟩
    · rw [if_pos hl]
      exact hkeyLead _
    · rw [if_neg (Bool.eq_false_iff.1 hl)]
      exact hnextStands _
  · rw [if_neg h4, if_neg (by omega)]
    exact hlead _

end Sys2Proof.Machine
end

section
/-! #### The start-up's steps and its end (R516, R518) -/

namespace Sys2Proof.Machine

/-! ROLE_NEGOTIATION as a tick of step 9. -/

theorem roleNegotiation_heard {s : State} {o : NegObs} {p : PartnerHb} (h9 : s.inStep9 = true) (hh : s.hears = true)
    (hp : s.twin.hb = some p) : exec (.roleNegotiation o) s = .next (if (s.negStart o).tampered then
      (if p.mstate = 4 ∨ p.mstate = 3 then (s.negStart o).park 5 else if p.mstate = 0 then s.negStart o else (s.negStart o).step10)
      else (s.negStart o).negotiate o p) := by
  show execRoleNegotiation o s = _
  unfold execRoleNegotiation
  simp only [h9, hh, hp, Bool.not_true, Bool.false_eq_true, if_false, if_true]
  rfl

theorem roleNegotiation_unheard {s : State} {o : NegObs} (h9 : s.inStep9 = true) (hn : s.hears = false ∨ s.twin.hb = none) :
    exec (.roleNegotiation o) s = .next (if s.twin.seen then ((s.inStep 9).twinMod (fun t => { t with on := true })).park 7
      else (s.inStep 9).twinMod (fun t => { t with on := true })) := by
  have hnone : (if s.hears then s.twin.hb else none) = none := by
    rcases hn with hn | hn
    · rw [hn]; rfl
    · rw [hn]; exact ite_self _
  show execRoleNegotiation o s = _
  unfold execRoleNegotiation
  simp only [h9, hnone, Bool.not_true, Bool.false_eq_true, if_false]
  rfl

theorem roleNegotiation_idles {s : State} {o : NegObs} (h9 : s.inStep9 = false) : exec (.roleNegotiation o) s = .next s := by
  show execRoleNegotiation o s = _
  unfold execRoleNegotiation
  rw [h9, if_pos (by decide)]

/-- What a module does that hears its partner. -/
theorem roleNegotiation_shows {s t : State} {o : NegObs} {p : PartnerHb} (h : Negotiating s t o)
    {u : State} (hu : u = if t.tampered then
      (if p.mstate = 4 ∨ p.mstate = 3 then t.park 5 else if p.mstate = 0 then t else t.step10) else t.negotiate o p) :
    Heard u o
    ∧ (s.tampered = true → (p.mstate = 3 ∨ p.mstate = 4 → u.parkedFor 5) ∧ (p.mstate = 0 → u.mstate = 0 ∧ u.bootStep = 9)
        ∧ (p.mstate ≠ 0 → p.mstate ≠ 3 → p.mstate ≠ 4 → u.mstate = 0 ∧ u.bootStep = 10))
    ∧ (s.tampered = false → u = t.negotiate o p) := by
  rw [h.tampered] at hu
  cases ht : s.tampered with
  | false =>
    rw [if_neg (by rw [ht]; decide)] at hu
    exact ⟨hu ▸ (negotiate_cases h p).1, fun hc => absurd hc (by decide), fun _ => hu⟩
  | true =>
    rw [if_pos ht] at hu
    refine ⟨?_, fun _ => ⟨fun hp => ?_, fun hp => ?_, fun h0 h3 h4 => ?_⟩, fun hc => absurd hc (by decide)⟩
    · rw [hu]
      split
      · exact h.heard.park 5
      · split
        · exact h.heard
        · exact h.heard.step10
    · rw [hu, if_pos hp.symm]
      exact parkedFor_park (by decide) (by decide)
    · rw [hu, if_neg (by omega), if_pos hp]
      exact ⟨h.mstate, h.step⟩
    · rw [hu, if_neg (by omega), if_neg h0]
      exact ⟨(mstate_step10 t).trans h.mstate, bootStep_step10 t⟩

/-! BOOT_DONE. -/

/-- DEV_STAT after the times of step 10 and STEP 11 are set, and the module is in RUN. -/
def State.runEntered (s : State) : State :=
  let ms := BitVec.ofNat 32 (min (s.fld ⟨0x0084, 0, 16⟩ + s.ownFno) 65534)
  let s1 := ((if s.tampered then s else s.wr 0x0090 ms).wr 0x0094 ms).inStep 11
  { s1 with dev := { s1.dev with recovery := false } }.setB (bitAt 0x0054 11) true

theorem runEntered_shows (s : State) : s.runEntered.inRun = true ∧ s.runEntered.bootStep = 11 ∧ s.runEntered.mstate = s.mstate
    ∧ s.runEntered.dev.recovery = false := by
  unfold State.runEntered
  extract_lets ms s1 d
  have h1 : s1.bootStep = 11 ∧ s1.mstate = s.mstate := by
    refine ⟨fld_setF_self (f := ⟨0x0054, 24, 4⟩) (by decide), ?_⟩
    refine (fld_setF_apart (by decide)).trans ((fld_wr_apart (by decide)).trans ?_)
    split
    · rfl
    · exact fld_wr_apart (by decide)
  generalize s1 = u at h1 ⊢
  have hr : ∀ f, ({ u with dev := { u.dev with recovery := false } } : State).fld f = u.fld f := fld_of_regs rfl
  exact ⟨bit_setB_self (by decide) rfl, (fld_setB_apart (by decide)).trans ((hr _).trans h1.1),
    (fld_setB_apart (by decide)).trans ((hr _).trans h1.2), rfl⟩

theorem bootDone_enters {s : State} (h : (s.mstate = 0 ∨ s.mstate = 3) ∧ s.bootStep = 10 ∧ s.inRun = false ∧ s.admitted = true) :
    runs .bootDone s (fun t => t.inRun = true ∧ t.bootStep = 11 ∧ t.bit (bitAt 0x0010 4) = true ∧ t.dev.recovery = false
      ∧ t.mstate = (if s.mstate = 3 then 3 else if s.tampered then 2 else 4)) := by
  obtain ⟨h1, h2, h3, h4⟩ := runEntered_shows s
  obtain ⟨u, hu⟩ : ∃ u : State, u = if s.mstate = 3 then s.runEntered else s.runEntered.goto (if s.tampered then 2 else 4) := ⟨_, rfl⟩
  have he : exec .bootDone s = .next (u.raiseEv 0 4) := hu ▸ next_congr (if_pos h)
  have hstat : ∀ f : Fld, f.addr = 0x0054 → f.lo + f.w ≤ 28 → u.fld f = s.runEntered.fld f := by
    intro f ha hl
    rw [hu]
    split
    · rfl
    · exact fld_goto_stat ha hl
  have hm : u.mstate = if s.mstate = 3 then 3 else if s.tampered then 2 else 4 := by
    rw [hu]
    split
    · exact h3.trans ‹_›
    · exact mstate_goto (by split <;> decide)
  have hdev : u.dev = s.runEntered.dev := by
    rw [hu]
    split
    · rfl
    · exact (goto_keeps (Keeps.refl _ _) (List.Subset.refl _)).only .dev (by decide)
  have hev : ∀ f : Fld, f.addr = 0x0054 → (u.raiseEv 0 4).fld f = u.fld f := fun f hf =>
    fld_raiseEv_apart (by decide) (by rw [hf]; decide) (by rw [hf]; decide) (by rw [hf]; decide) (by rw [hf]; decide)
  refine runs_intro he ⟨?_, ?_, bit_raiseEv_self (by decide) (by decide) (by decide) rfl, ?_, ?_⟩
  · refine (bit_iff_fld rfl).2 ((hev _ rfl).trans ((hstat _ rfl (by decide)).trans ((bit_iff_fld rfl).1 h1)))
  · exact (hev _ rfl).trans ((hstat _ rfl (by decide)).trans h2)
  · rw [dev_raiseEv, hdev, h4]
  · exact (hev _ rfl).trans hm

/-! NEG_WAIT_EXPIRE. -/

theorem negWaitExpire_leads {s : State} (h9 : s.inStep9 = true) (hh : s.hears = false) (hs : s.twin.seen = false)
    (hl : s.lineUp 0 = true ∨ s.lineUp 1 = true) (hw : s.fld ⟨0x1070, 24, 8⟩ * 100 ≤ s.ownSince s.dev.negFrom) :
    runs .negWaitExpire s (fun t => t.bootStep = 10 ∧ t.mstate = 0
      ∧ t.rd 0xC04C = (if s.tampered then s.rd 0xC04C else s.rd 0xC04C + 1)) := by
  obtain ⟨hm, -, -⟩ := inStep9_iff.1 h9
  have hcond : (s.inStep9 && !s.hears && !s.twin.seen && (s.lineUp 0 || s.lineUp 1)
      && decide (s.fld ⟨0x1070, 24, 8⟩ * 100 ≤ s.ownSince s.dev.negFrom)) = true := by
    simp [h9, hh, hs, hl, hw]
  have he : exec .negWaitExpire s = .next (if s.tampered then s.step10 else s.leadFrom s.epoch) := next_congr (if_pos hcond)
  cases ht : s.tampered with
  | true =>
    rw [if_pos ht] at he
    exact runs_intro he ⟨bootStep_step10 s, (mstate_step10 s).trans hm, rd_step10 (by decide) (by decide)⟩
  | false =>
    rw [if_neg (Bool.eq_false_iff.1 ht)] at he
    refine runs_intro he ⟨bootStep_step10 _, (mstate_leadFrom s _).trans hm, (epoch_leadFrom s _).trans ?_⟩
    rw [if_neg (by decide)]
    exact BitVec.eq_of_toNat_eq (by simp [State.epoch])

theorem negWaitExpire_idles {s : State} (h : ¬ (s.inStep9 = true ∧ s.hears = false ∧ s.twin.seen = false
    ∧ (s.lineUp 0 = true ∨ s.lineUp 1 = true) ∧ s.fld ⟨0x1070, 24, 8⟩ * 100 ≤ s.ownSince s.dev.negFrom)) :
    exec .negWaitExpire s = .next s := by
  refine next_congr (if_neg fun hc => h ?_)
  simpa [and_assoc] using hc

end Sys2Proof.Machine
end

section
/-! #### POWER_GOOD (R516) -/

namespace Sys2Proof.Machine

/-- What the steps 1 to 4 leave of DEV_STAT beside STEP: the module is in BOOT. -/
theorem mstate_of_stat {s t : State} (h : t.rd 0x0054 = s.rd 0x0054) : t.mstate = s.mstate := fld_of_rd h

theorem stat_tamperResponse (s : State) (sensors ns : Nat) : (s.tamperResponse sensors ns true).rd 0x0054 = s.rd 0x0054 := by
  rw [tamperResponse_eq, (near_tampNoted _ sensors ns).regs _ (by unfold tampReg evReg; decide),
    rd_tampStat (by decide) (by decide) (by decide)]
  exact (KeyNear.refl s).zeroise.regs _ (by unfold keyReg keyEndReg keyMaskReg evReg; decide)

theorem stat_zeroise (s : State) : s.zeroise.rd 0x0054 = s.rd 0x0054 :=
  (KeyNear.refl s).zeroise.regs _ (by unfold keyReg keyEndReg keyMaskReg evReg; decide)

theorem stat_powerBase (s : State) (cause ms : Nat) : (s.powerBase cause ms).rd 0x0054 = regReset 0x0054 := by
  obtain ⟨b, hb, he⟩ : ∃ b : State, b.regs = s.regs.filter (fun e => keptReg e.1)
      ∧ s.powerBase cause ms = (b.setF (bitAt 0x2104C 0) (s.fld (bitAt 0x2104C 0))).setF (bitAt 0x2204C 0) (s.fld (bitAt 0x2204C 0)) :=
    ⟨_, rfl, rfl⟩
  rw [he, rd_setF_apart (by decide), rd_setF_apart (by decide)]
  unfold State.rd
  rw [hb]
  exact (smGet_filter regReset s.regs keptReg 0x0054).trans (if_neg (by decide))

theorem stat_stepEnd {s : State} {k ms : Nat} : (s.stepEnd k ms).rd 0x0054 = s.rd 0x0054 := rd_wr_apart (by omega)

theorem stat_bootSecure (s : State) (o : BootObs) : (s.bootSecure o).rd 0x0054 = regReset 0x0054 := by
  unfold State.bootSecure
  extract_lets s0 s1 s2
  have h1 : s1.rd 0x0054 = regReset 0x0054 :=
    stat_stepEnd.trans ((rd_bump (by decide) (by decide)).trans ((rd_setF_apart (by decide)).trans (stat_stepEnd.trans (stat_powerBase s _ _))))
  have h2 : s2.rd 0x0054 = regReset 0x0054 := by
    unfold s2
    split
    · exact (stat_tamperResponse s1 2 0).trans h1
    · exact h1
  split
  · exact (rd_setB_apart (by decide)).trans ((stat_zeroise s2).trans h2)
  · exact stat_stepEnd.trans h2

theorem mstate_bootSecure (s : State) (o : BootObs) : (s.bootSecure o).mstate = 0 := by
  unfold State.mstate State.fld
  rw [stat_bootSecure]
  decide +kernel

theorem inStep_shows (s : State) {k : Nat} (hk : k < 16) : (s.inStep k).bootStep = k ∧ (s.inStep k).mstate = s.mstate :=
  ⟨(fld_setF_self (by decide)).trans (Nat.mod_eq_of_lt hk), fld_setF_apart (by decide)⟩

theorem bootFirmware_shows (s : State) (o : BootObs) : (s.bootFirmware o).1.rd 0x0054 = s.rd 0x0054
    ∧ ((s.bootFirmware o).2 = true ↔ o.fwA = true ∨ o.fwB = true) := by
  have hok : ((if s.fld (bitAt 0x0050 1) = 0 then o.fwA else o.fwB) || (if 1 - s.fld (bitAt 0x0050 1) = 0 then o.fwA else o.fwB)) = true
      ↔ o.fwA = true ∨ o.fwB = true := by
    have hlt : s.fld (bitAt 0x0050 1) < 2 ^ 1 := fld_lt s _
    by_cases h0 : s.fld (bitAt 0x0050 1) = 0
    · simp [h0]
    · have h1 : s.fld (bitAt 0x0050 1) = 1 := by omega
      simp [h1, or_comm]
  unfold State.bootFirmware
  extract_lets boot ok run s1
  have h1 : s1.rd 0x0054 = s.rd 0x0054 :=
    (rd_setB_apart (by decide)).trans ((rd_setB_apart (by decide)).trans (rd_setB_apart (by decide)))
  split
  · rename_i h
    exact ⟨(rd_setF_apart (by decide)).trans h1, fun _ => hok.1 h, fun _ => rfl⟩
  · rename_i h
    exact ⟨h1, fun hf => absurd hf Bool.false_ne_true, fun hw => absurd (hok.2 hw) h⟩

/-- A module that was not in FAULT enters it with a cause; STEP stays. -/
theorem enterFault_shows {s : State} {cause : Nat} (hs : s.mstate ≠ 6) (hc : cause < 256) :
    (s.enterFault cause 0).mstate = 6 ∧ (s.enterFault cause 0).fld ⟨0x005C, 0, 8⟩ = cause
      ∧ (s.enterFault cause 0).bootStep = s.bootStep := by
  unfold State.enterFault
  rw [if_neg hs]
  extract_lets s1 s2 d s3 s4
  have hsafe : ∀ {u : State} {f : Fld}, onReg [0x1D] f.addr = false → u.outputsSafe.fld f = u.fld f := fun {u f} hf =>
    (onPages_outputsSafe (Near.refl _ _ u) (List.Subset.refl _)).fld hf
  have hstat : s4.bootStep = s.bootStep := by
    have h2 : s2.bootStep = s.bootStep :=
      (fld_bump_apart (by decide) (by decide)).trans ((fld_setF_apart (by decide)).trans (fld_setF_apart (by decide)))
    exact (fld_of_regs (t := s4) (s := s2) rfl _).trans h2
  have hcause : s4.fld ⟨0x005C, 0, 8⟩ = cause := by
    have h2 : s2.fld ⟨0x005C, 0, 8⟩ = cause :=
      (fld_bump_apart (by decide) (by decide)).trans ((fld_setF_apart (by decide)).trans ((fld_setF_self (by decide)).trans (Nat.mod_eq_of_lt hc)))
    exact (fld_of_regs (t := s4) (s := s2) rfl _).trans h2
  refine ⟨(hsafe (by decide)).trans (mstate_setMstate (by decide)), (hsafe (by decide)).trans (Eq.trans ?_ hcause), ?_⟩
  · exact fld_of_rd ((near_setMstate (p := (modeReg · = true)) (q := fun _ => True) (Near.refl _ _ s4) (fun _ => id) (fun _ _ => trivial)).regs _
      (by decide))
  · exact (hsafe (by decide)).trans ((fld_setMstate_stat rfl (by decide)).trans hstat)

theorem stat_beforeTest (s : State) (ms ms' : Nat) : ((((s.stepEnd 4 ms).inStep 5).setF ⟨0x3040, 0, 12⟩ 4095).stepEnd 5 ms').mstate = s.mstate := by
  refine (fld_wr_apart (by decide)).trans ((fld_setF_apart (by decide)).trans ?_)
  exact (inStep_shows _ (by decide)).2.trans (mstate_of_stat stat_stepEnd)

/-- DEFAULTED: what follows the banks where none verifies. -/
theorem bootWith_defaulted (o : BootObs) {b : State × Bool} (hb : b.2 = false) : (bootWith o b).mstate = 1 ∧ (bootWith o b).bootStep = 7
    ∧ (bootWith o b).bit (bitAt 0x0054 9) = true ∧ (bootWith o b).bit (bitAt 0x0010 1) = true := by
  obtain ⟨b, v⟩ := b
  subst hb
  obtain ⟨u, hu⟩ : ∃ u : State, bootWith o (b, false) = (((u.inStep 7).setB (bitAt 0x0054 9) true).raiseEv 0 1).goto 1 := ⟨_, rfl⟩
  rw [hu]
  have hev : ∀ (x : State) (f : Fld), f.addr = 0x0054 → (x.raiseEv 0 1).fld f = x.fld f := fun x f hf =>
    fld_raiseEv_apart (by decide) (by rw [hf]; decide) (by rw [hf]; decide) (by rw [hf]; decide) (by rw [hf]; decide)
  refine ⟨mstate_goto (by decide), ?_, ?_, ?_⟩
  · exact (fld_goto_stat rfl (by decide)).trans ((hev _ _ rfl).trans ((fld_setB_apart (by decide)).trans (inStep_shows u (by decide)).1))
  · refine (bit_iff_fld rfl).2 ((fld_goto_stat rfl (by decide)).trans ((hev _ _ rfl).trans ?_))
    exact (bit_iff_fld rfl).1 (bit_setB_self (by decide) rfl)
  · have h1 : (((u.inStep 7).setB (bitAt 0x0054 9) true).raiseEv 0 1).bit (bitAt 0x0010 1) = true :=
      bit_raiseEv_self (by decide) (by decide) (by decide) rfl
    generalize ((u.inStep 7).setB (bitAt 0x0054 9) true).raiseEv 0 1 = x at h1 ⊢
    unfold State.goto State.setMstate
    rw [bit_aoutStat (by decide)]
    split
    · exact h1
    · refine bit_raiseEv_stays (p := 0) (by decide) (by decide) (by decide) rfl ?_
      exact (bit_setF_apart (by decide)).trans ((bit_setF_apart (by decide)).trans ((bit_setF_apart (by decide)).trans h1))

/-- With a bank that verifies the module comes to step 9, which a single module passes at once. -/
theorem bootWith_runs (o : BootObs) {b : State × Bool} (hb : b.2 = true) :
    ((bootWith o b).cfg.pair = true → (bootWith o b).bootStep = 9 ∧ (bootWith o b).twin.on = true)
      ∧ ((bootWith o b).cfg.pair = false → (bootWith o b).bootStep = 10) := by
  obtain ⟨b, v⟩ := b
  subst hb
  obtain ⟨u, hu⟩ : ∃ u : State, bootWith o (b, true) = (u.inStep 9).bootRole := ⟨_, rfl⟩
  rw [hu]
  have hcfg : (u.inStep 9).bootRole.cfg = (u.inStep 9).cfg :=
    (bootRole_keeps (Keeps.refl _ _) (List.Subset.refl _)).only .cfg (by decide)
  rw [hcfg]
  unfold State.bootRole
  refine ⟨fun hp => ?_, fun hp => ?_⟩
  · rw [if_pos hp]
    exact ⟨(fld_setB_apart (by decide)).trans (inStep_shows u (by decide)).1, rfl⟩
  · rw [if_neg (Bool.eq_false_iff.1 hp)]
    exact bootStep_step10 _

theorem exec_powerGood (o : BootObs) (s : State) : exec (.powerGood o) s = .next (if !(((s.bootSecure o).inStep 4).bootFirmware o).2 then
    (((s.bootSecure o).inStep 4).bootFirmware o).1.enterFault 7 0 else (((s.bootSecure o).inStep 4).bootFirmware o).1.bootTest o) := rfl

/-- The banks that a passed self-test goes on with. -/
theorem bootTest_passes {s : State} {o : BootObs} (ht : o.selfTest = true) : s.bootTest o = bootWith o
    ((((((s.stepEnd 4 (o.ms.getD 2 0)).inStep 5).setF ⟨0x3040, 0, 12⟩ 4095).stepEnd 5 (o.ms.getD 3 0)).inStep 6).bootBank o) := by
  unfold State.bootTest
  rw [if_neg (by rw [ht]; decide)]
  rfl

/-- A self-test that fails, after step 4. -/
theorem bootTest_fails {s : State} {o : BootObs} (hs : s.mstate = 0) (ht : o.selfTest = false) :
    (s.bootTest o).mstate = 6 ∧ (s.bootTest o).fld ⟨0x005C, 0, 8⟩ = 8 ∧ (s.bootTest o).bootStep = 5 := by
  obtain ⟨g1, g2⟩ := inStep_shows (s.stepEnd 4 (o.ms.getD 2 0)) (k := 5) (by decide)
  have hne : ((s.stepEnd 4 (o.ms.getD 2 0)).inStep 5).mstate ≠ 6 := by
    rw [g2, mstate_of_stat stat_stepEnd, hs]
    decide
  obtain ⟨e1, e2, e3⟩ := enterFault_shows hne (cause := 8) (by decide)
  have hx : s.bootTest o = ((s.stepEnd 4 (o.ms.getD 2 0)).inStep 5).enterFault 8 0 := by
    unfold State.bootTest
    rw [if_pos (by rw [ht]; decide)]
  rw [hx]
  exact ⟨e1, e2, e3.trans g1⟩

/-- The banks that step 6 decides on. -/
def State.banksTried (s : State) (o : BootObs) : State × Bool :=
  ((((((s.stepEnd 4 (o.ms.getD 2 0)).inStep 5).setF ⟨0x3040, 0, 12⟩ 4095).stepEnd 5 (o.ms.getD 3 0)).inStep 6).bootBank o)

theorem powerGood_runs {o : BootObs} {s : State} {fw : State × Bool}
    (he : exec (.powerGood o) s = .next (if !fw.2 then fw.1.enterFault 7 0 else fw.1.bootTest o)) (h : fw.2 = true) :
    exec (.powerGood o) s = .next (fw.1.bootTest o) := he.trans (next_congr (if_neg (by rw [h]; decide)))

theorem powerGood_stops {o : BootObs} {s : State} {fw : State × Bool}
    (he : exec (.powerGood o) s = .next (if !fw.2 then fw.1.enterFault 7 0 else fw.1.bootTest o)) (h : fw.2 = false) :
    exec (.powerGood o) s = .next (fw.1.enterFault 7 0) := he.trans (next_congr (if_pos (by rw [h]; decide)))

/-- The start-up from step 4 on, with the outcome of the firmware. -/
theorem powerGood_after (o : BootObs) (s : State) (fw : State × Bool) (b : State × Bool) (hbank : fw.1.banksTried o = b)
    (he : exec (.powerGood o) s = .next (if !fw.2 then fw.1.enterFault 7 0 else fw.1.bootTest o)) (hm : fw.1.mstate = 0)
    (hstep : fw.1.bootStep = 4) (hok : fw.2 = true ↔ o.fwA = true ∨ o.fwB = true) :
    runs (.powerGood o) s (fun t =>
      (o.fwA = false → o.fwB = false → t.mstate = 6 ∧ t.fld ⟨0x005C, 0, 8⟩ = 7 ∧ t.bootStep = 4)
      ∧ (o.fwA = true ∨ o.fwB = true →
          (o.selfTest = false → t.mstate = 6 ∧ t.fld ⟨0x005C, 0, 8⟩ = 8 ∧ t.bootStep = 5)
          ∧ (o.selfTest = true → b.2 = false → t.mstate = 1 ∧ t.bootStep = 7 ∧ t.bit (bitAt 0x0054 9) = true
              ∧ t.bit (bitAt 0x0010 1) = true)
          ∧ (o.selfTest = true → b.2 = true →
              (t.cfg.pair = true → t.bootStep = 9 ∧ t.twin.on = true) ∧ (t.cfg.pair = false → t.bootStep = 10)))) := by
  have hpass : o.selfTest = true → fw.1.bootTest o = bootWith o b := fun ht => (bootTest_passes ht).trans (congrArg _ hbank)
  by_cases hfw : o.fwA = true ∨ o.fwB = true
  · refine runs_intro (powerGood_runs he (hok.2 hfw)) ⟨fun ha hb => ?_, fun _ => ⟨bootTest_fails hm, fun ht hb => ?_, fun ht hb => ?_⟩⟩
    · rw [ha, hb] at hfw
      exact absurd hfw (by decide)
    · rw [hpass ht]
      exact bootWith_defaulted o hb
    · rw [hpass ht]
      exact bootWith_runs o hb
  · obtain ⟨e1, e2, e3⟩ := enterFault_shows (s := fw.1) (by rw [hm]; decide) (cause := 7) (by decide)
    exact runs_intro (powerGood_stops he (Bool.eq_false_iff.2 fun h => hfw (hok.1 h))) ⟨fun _ _ => ⟨e1, e2, e3.trans hstep⟩, fun h => absurd h hfw⟩

theorem powerGood_ends (o : BootObs) (s : State) (b : State × Bool)
    (hb : (((s.bootSecure o).inStep 4).bootFirmware o).1.banksTried o = b) :
    runs (.powerGood o) s (fun t =>
      (o.fwA = false → o.fwB = false → t.mstate = 6 ∧ t.fld ⟨0x005C, 0, 8⟩ = 7 ∧ t.bootStep = 4)
      ∧ (o.fwA = true ∨ o.fwB = true →
          (o.selfTest = false → t.mstate = 6 ∧ t.fld ⟨0x005C, 0, 8⟩ = 8 ∧ t.bootStep = 5)
          ∧ (o.selfTest = true → b.2 = false → t.mstate = 1 ∧ t.bootStep = 7 ∧ t.bit (bitAt 0x0054 9) = true
              ∧ t.bit (bitAt 0x0010 1) = true)
          ∧ (o.selfTest = true → b.2 = true →
              (t.cfg.pair = true → t.bootStep = 9 ∧ t.twin.on = true) ∧ (t.cfg.pair = false → t.bootStep = 10)))) := by
  obtain ⟨hstat, hok⟩ := bootFirmware_shows ((s.bootSecure o).inStep 4) o
  obtain ⟨h4, h4'⟩ := inStep_shows (s.bootSecure o) (k := 4) (by decide)
  exact powerGood_after o s _ b hb (exec_powerGood o s) ((mstate_of_stat hstat).trans (h4'.trans (mstate_bootSecure s o)))
    ((fld_of_rd hstat).trans h4) hok

/-- Settles O60: the start-up ends by its firmware, its self-test and its banks; negotiation by the partner that it hears. -/
theorem startUpEndsInAState : Obligations.StartUpEndsInAState := by
  unfold Obligations.StartUpEndsInAState
  refine ⟨fun o s => powerGood_ends o s _ rfl, fun s => ⟨fun o p h9 hh hp => ?_, fun o h9 hn => ?_, fun o h9 => roleNegotiation_idles h9,
    ⟨fun ⟨h9, hh, hs, hl, hw⟩ => negWaitExpire_leads h9 hh hs hl hw, negWaitExpire_idles⟩, bootDone_enters, fun h => next_congr (if_neg h)⟩⟩
  · have hneg := negotiating_negStart (o := o) h9
    obtain ⟨u, hu⟩ : ∃ u, u = if (s.negStart o).tampered then
      (if p.mstate = 4 ∨ p.mstate = 3 then (s.negStart o).park 5 else if p.mstate = 0 then s.negStart o else (s.negStart o).step10)
      else (s.negStart o).negotiate o p := ⟨_, rfl⟩
    have he := roleNegotiation_heard (o := o) h9 hh hp
    rw [← hu] at he
    obtain ⟨hheard, htam, hclear⟩ := roleNegotiation_shows hneg hu
    obtain ⟨-, href, hord, hrun⟩ := negotiate_cases hneg p
    have hlead := hneg.wouldLead p
    have hnot : ∀ {b : Bool} {q : Prop}, (b = true ↔ q) → ¬ q → b = false := fun hb hq => Bool.eq_false_iff.2 fun h => hq (hb.1 h)
    refine runs_intro he ⟨hheard.on, hheard.lo, hheard.hi, htam, fun ht hr => ?_, fun ht hr ho => ?_, fun ht hr ho => ?_⟩
    · exact hclear ht ▸ href hr
    · obtain ⟨h1, h2⟩ := hord hr ho
      exact ⟨fun hl => hclear ht ▸ h1 (hlead.2 hl), fun hl => hclear ht ▸ h2 (hnot hlead hl)⟩
    · obtain ⟨h1, h2, h3⟩ := hrun hr ho
      refine ⟨fun hm => ⟨fun hl => ?_, fun hl => ?_⟩, fun hm => ⟨fun hl => ?_, fun hl => ?_⟩, fun g0 g3 g4 => ?_⟩
      · exact hclear ht ▸ (h1 hm).1 hl
      · exact hclear ht ▸ (h1 hm).2 hl
      · exact hclear ht ▸ (h2 hm).1 (hlead.2 hl)
      · exact hclear ht ▸ (h2 hm).2 (hnot hlead hl)
      · exact hclear ht ▸ h3 g0 g3 g4
  · have he := roleNegotiation_unheard (o := o) h9 hn
    refine runs_intro he ⟨?_, fun hs => ?_, fun hs => ?_⟩
    · split
      · exact twin_on_park
      · rfl
    · rw [if_pos hs]
      obtain ⟨h1, h2, -⟩ := park_shows (s := (s.inStep 9).twinMod (fun t => { t with on := true })) (r := 7) (by decide)
      exact ⟨h1, h2⟩
    · rw [if_neg (Bool.eq_false_iff.1 hs)]
      refine ⟨(inStep_shows s (by decide)).1, (near_twinMod (near_setF (Near.refl (· = 0x0054) (fun _ => False) s) rfl)).regs, ?_⟩
      exact (twinMod_keeps (setF_keeps (Keeps.refl [.regs, .twin] s) (by decide)) (by decide)).only

end Sys2Proof.Machine
end

section
/-! ### A command of one page keeps to its page -/

namespace Sys2Proof.Machine

theorem keyReg_page {a : Nat} (h : keyReg a) : evReg 9 a ∨ (0x9000 ≤ a ∧ a < 0xA000) := by
  unfold keyReg keyEndReg keyMaskReg at h
  rcases h with (h | h | h | h) | h
  · exact .inr (by omega)
  · exact .inr (by omega)
  · exact .inr (by omega)
  · exact .inl h
  · exact .inr (by omega)

theorem onPages_of_keyNear {s t : State} (h : KeyNear s t) : OnPages [9] s t := by
  refine Near.mono h (fun a ha => ?_) (fun x hx => ?_)
  · rcases keyReg_page ha with ha | ⟨h1, h2⟩
    · exact onReg_of_evReg (List.mem_singleton_self 9) ha
    · exact onReg_of_range (List.mem_singleton_self 9) h1 h2
  · rcases hx with hx | rfl | rfl | rfl
    · exact onTbl_of_evTbl hx
    · decide
    · decide
    · decide

section
variable {s t : State} {P : List Nat}

theorem onPages_of_cmd {u : State} {st : Status} {r : State × Status} (hr : r = (u, st)) (h : OnPages P s u) : OnPages P s r.1 := by
  rw [hr]
  exact h

/-- A command whose refusals change nothing. -/
theorem near_fst_ite {p q : Nat → Prop} {c : Prop} [Decidable c] {x y : State × Status} (h1 : Near p q s x.1) (h2 : Near p q s y.1) :
    Near p q s (if c then x else y).1 := by
  split
  · exact h1
  · exact h2

theorem near_keysMod {p q : Nat → Prop} {f : KeySt → KeySt} (h : Near p q s t) : Near p q s (t.keysMod f) := near_same h rfl rfl
theorem near_metMod {p q : Nat → Prop} {f : MetSt → MetSt} (h : Near p q s t) : Near p q s (t.metMod f) := near_same h rfl rfl
theorem near_metNvMod {p q : Nat → Prop} {f : MetNv → MetNv} (h : Near p q s t) : Near p q s (t.metNvMod f) := near_same h rfl rfl
theorem near_segs {p q : Nat → Prop} {l : List (Nat × SegData)} (h : Near p q s t) : Near p q s { t with segs := l } := near_same h rfl rfl

/-! #### Keys -/

theorem near_keyCmd {p q : Nat → Prop} {ok : Bool} {f : State → State} (h : Near p q s (f s)) : Near p q s (s.keyCmd ok f).1 := by
  unfold State.keyCmd
  split
  · exact Near.refl _ _ s
  · exact near_fst_ite h (Near.refl _ _ s)

theorem KeyNear.slotEmpty (h : KeyNear s t) {i : Nat} (hi : i < 128) : KeyNear s (t.slotEmpty i) := by
  have hslot : ∀ w, w < 2 ^ 8 → keyTbl (tkeyTid (tkey 0x0900 i w)) := fun w hw => by
    rw [tkeyTid_tkey _ _ _ (by omega) hw]
    exact .inr (.inl rfl)
  unfold State.slotEmpty State.slotPut
  refine near_twr (near_trecSet (near_twr (near_twr (near_twr (near_keysMod h) (hslot _ (by decide))) (hslot _ (by decide))) (hslot _ (by decide)))
    (fun j h1 h2 => hslot _ ?_)) (hslot _ (by decide))
  simp only [List.length_cons, List.length_nil] at h2
  omega

theorem onPages_keyRun (s : State) (r : KeyRun) : OnPages [9] s ((s.keysMod (fun k => { k with run := some r })).setB keyBusy true) :=
  near_setB (near_keysMod (Near.refl _ _ s)) (by decide)

theorem onPages_keyPromoteCmd (s : State) : OnPages [9] s (keyPromoteCmd s).1 :=
  near_keyCmd (near_wr (near_setB (near_keysMod (Near.refl _ _ s)) (by decide)) (by decide))

theorem onPages_keyCancelCmd (s : State) : OnPages [9] s (keyCancelCmd s).1 := by
  refine near_keyCmd (onPages_of_keyNear (KeyNear.keyEnd ?_ _ _ _))
  have hslot : ∀ w, w < 2 ^ 8 → keyTbl (tkeyTid (tkey 0x0900 s.keyArg w)) := fun w hw => by
    have := keyArg_lt s
    rw [tkeyTid_tkey _ _ _ (by omega) hw]
    exact .inr (.inl rfl)
  have h1 : KeyNear s (if s.bit keyPend && s.pendSlot == s.keyArg then s.pendClear else s) := by
    split
    · exact (KeyNear.refl s).pendClear
    · exact KeyNear.refl s
  refine near_ite' (near_twr (near_tset (near_keysMod h1) (hslot 0 (by decide))) (hslot 3 (by decide))) (h1.slotEmpty (keyArg_lt s))

theorem onPages_keyEraseCmd (s : State) : OnPages [9] s (keyEraseCmd s).1 := by
  refine near_keyCmd (onPages_of_keyNear (KeyNear.keyEnd (KeyNear.slotEmpty ?_ (keyArg_lt s)) _ _ _))
  have h1 : KeyNear s (if s.bit keyPend && s.pendSlot == s.keyArg then s.pendFail 8 else s) := by
    split
    · exact (KeyNear.refl s).pendFail 8
    · exact KeyNear.refl s
  exact near_ite' (near_tclear h1 (.inr (.inr (.inr rfl)))) h1

/-! #### The banked pages -/

theorem onPages_cfgUnverified : OnPages [1] s (cfgVerifyCmd s).1 :=
  near_fst_ite (Near.refl _ _ s) (near_fst_ite (Near.refl _ _ s) (near_same (near_setB (near_setB (Near.refl _ _ s) (by decide)) (by decide)) rfl rfl))

theorem onPages_cfgFail (h : OnPages [1] s t) {c o : Nat} {x y : Word} : OnPages [1] s (t.cfgFail c o x y) := by
  unfold State.cfgFail
  exact onPages_raiseEv (near_setB (near_setB (near_wr (near_wr (near_wr h (by decide)) (by decide)) (by decide)) (by decide)) (by decide))
    (by decide) (by decide)

/-- The verification of the inactive image has passed. -/
theorem onPages_cfgPass {a b c : Word} : OnPages [1] s (((((((((( s.wr 0x1048 0).wr 0x104C 0).wr 0x1050 0).wr 0x1060 a).wr 0x1064 b).wr
    0x1068 c).setB cfgBusy false).setB cfgFailed false).setB cfgVer true).raiseEv 1 0) := by
  refine onPages_raiseEv (near_setB (near_setB (near_setB ?_ (by decide)) (by decide)) (by decide)) (by decide) (by decide)
  exact near_wr (near_wr (near_wr (near_wr (near_wr (near_wr (Near.refl _ _ s) (by decide)) (by decide)) (by decide)) (by decide)) (by decide))
    (by decide)

theorem onPages_cfgSwitchCmd : OnPages [1] s (cfgSwitchCmd s).1 :=
  near_fst_ite (near_setF (near_setB (Near.refl _ _ s) (by decide)) (by decide)) (Near.refl _ _ s)

theorem onPages_cfgCancelCmd : OnPages [1] s (cfgCancelCmd s) :=
  near_ite' (near_setF (near_setB (Near.refl _ _ s) (by decide)) (by decide)) (Near.refl _ _ s)

theorem onPages_seqVerifyCmd : OnPages [6] s (seqVerifyCmd s).1 :=
  near_fst_ite (Near.refl _ _ s) (near_fst_ite (Near.refl _ _ s) (near_setB (near_setB (Near.refl _ _ s) (by decide)) (by decide)))

theorem onPages_seqVfyFail {e : VfyErr} : OnPages [6] s (s.seqVfyFail e) := by
  unfold State.seqVfyFail
  exact onPages_raiseEv (near_setB (near_setB (near_wr (near_wr (Near.refl _ _ s) (by decide)) (by decide)) (by decide)) (by decide))
    (by decide) (by decide)

theorem onPages_seqPass : OnPages [6] s ((((((s.wr 0x6054 0).wr 0x6058 0).setB seqVfyBusy false).setB seqVfyFailed false).setB
    seqVerified true).raiseEv 6 1) := by
  refine onPages_raiseEv (near_setB (near_setB (near_setB ?_ (by decide)) (by decide)) (by decide)) (by decide) (by decide)
  exact near_wr (near_wr (Near.refl _ _ s) (by decide)) (by decide)

theorem onPages_seqSwitchCmd : OnPages [6] s (seqSwitchCmd s).1 :=
  near_fst_ite (near_setB (Near.refl _ _ s) (by decide)) (Near.refl _ _ s)

end

/-- The registers of a banked page's verification stand on one page. -/
structure BankPg.On (b : BankPg) (p : Nat) : Prop where
  page : b.page = p
  small : p < 2 ^ 20
  stat : ∀ f ∈ [b.ver, b.busy, b.failed, b.pend], onReg [p] f.addr = true
  err : onReg [p] b.err = true

theorem modelBank_on : modelBank.On 0x24 := ⟨rfl, by decide, by decide, by decide⟩
theorem optBank_on : optBank.On 0x25 := ⟨rfl, by decide, by decide, by decide⟩

section
variable {b : BankPg} {p : Nat} (hb : b.On p) (s : State)
include hb

theorem onPages_bankVerify : OnPages [p] s (s.bankVerify b).1 :=
  near_fst_ite (Near.refl _ _ s) (near_fst_ite (Near.refl _ _ s)
    (near_setB (near_setB (Near.refl _ _ s) (hb.stat _ (by simp))) (hb.stat _ (by simp))))

theorem onPages_bankFail (w : Word) : OnPages [p] s (s.bankFail b w) := by
  have hev := hb.page
  refine onPages_raiseEv (near_setB (near_setB (near_wr (Near.refl _ _ s) hb.err) (hb.stat _ (by simp))) (hb.stat _ (by simp))) ?_ ?_
  · rw [hev]; exact hb.small
  · rw [hev]; exact List.mem_singleton_self p

theorem onPages_bankPass : OnPages [p] s (s.bankPass b) := by
  have hev := hb.page
  refine onPages_raiseEv (near_setB (near_setB (near_setB (near_wr (Near.refl _ _ s) hb.err) (hb.stat _ (by simp))) (hb.stat _ (by simp)))
    (hb.stat _ (by simp))) ?_ ?_
  · rw [hev]; exact hb.small
  · rw [hev]; exact List.mem_singleton_self p

theorem onPages_bankSwitch : OnPages [p] s (s.bankSwitch b).1 :=
  near_fst_ite (near_setB (Near.refl _ _ s) (hb.stat _ (by simp))) (Near.refl _ _ s)

theorem onPages_bankCancel : OnPages [p] s (s.bankCancel b) := near_setB (Near.refl _ _ s) (hb.stat _ (by simp))

end

section
variable {s t : State}

/-! #### Joins -/

theorem onPages_joinFail (h : OnPages [0x0C] s t) {c : Nat} : OnPages [0x0C] s (t.joinFail c) := by
  have h1 : OnPages [0x0C] s (((t.setF ⟨0xC0B4, 0, 4⟩ c).bump .TWIN_JOIN_FAIL).raiseEv 0x0C 6) :=
    onPages_raiseEv (near_bump (near_setF h (by decide)) (by decide) (by decide)) (by decide) (by decide)
  exact near_ite' h (near_twinMod (near_segs h1))

theorem segTbl {i w : Nat} (hi : i < 2 ^ 24) (hw : w < 2 ^ 8) : onTbl [0x0C] (tkeyTid (tkey 0x0C00 i w)) = true := by
  rw [tkeyTid_tkey _ _ _ hi hw]
  decide

theorem onPages_joinStart : OnPages [0x0C] s s.joinStart := by
  have h0 : OnPages [0x0C] s ({ s.wr 0xC064 (BitVec.ofNat 32 ((s.ownFno + 1) % 2 ^ 32)) with segs := [] }) :=
    near_segs (near_wr (Near.refl _ _ s) (by decide))
  have h1 : OnPages [0x0C] s (s.joinBegin ((s.ownFno + 1) % 2 ^ 32)) := by
    refine near_twinMod (near_foldl h0 (fun a i hi ha => near_trecSet ha (fun j h1 h2 => segTbl ?_ ?_)))
    · have := List.mem_range.1 hi
      omega
    · simp only [List.length_cons, List.length_nil] at h2
      omega
  exact near_ite' h1 (onPages_joinFail h1)

theorem onPages_twinJoinCmd : OnPages [0x0C] s (twinJoinCmd s).1 :=
  near_fst_ite (Near.refl _ _ s) (near_fst_ite onPages_joinStart (Near.refl _ _ s))

theorem onPages_execJoinStart : runs .joinStart s (OnPages [0x0C] s) := by
  refine runs_intro rfl ?_
  split
  · exact Near.refl _ _ s
  · exact near_ite' onPages_joinStart (Near.refl _ _ s)

theorem onPages_execJoinTimeout : runs .joinTimeout s (OnPages [0x0C] s) := by
  refine runs_intro rfl ?_
  split
  · exact Near.refl _ _ s
  · exact near_ite' (onPages_joinFail (Near.refl _ _ s)) (Near.refl _ _ s)

theorem onPages_execSegmentCommit {seg size : Nat} {ok : Bool} {crc : Word} {d : SegData} :
    runs (.segmentCommit seg ok size crc d) s (OnPages [0x0C] s) := by
  refine runs_intro rfl ?_
  split
  · exact Near.refl _ _ s
  · rename_i hc
    simp only [Bool.or_eq_true, not_or, decide_eq_true_eq] at hc
    have hseg : seg < 2 ^ 24 := by omega
    have hset : ∀ {u : State} {w lo n v : Nat}, w < 2 ^ 8 → OnPages [0x0C] s u → OnPages [0x0C] s (u.tset 0x0C00 seg w lo n v) :=
      fun hw hu => near_tset hu (segTbl hseg hw)
    extract_lets tries s1 x s2
    have h1 : OnPages [0x0C] s s1 :=
      near_twr (near_twr (hset (by decide) (Near.refl _ _ s)) (segTbl hseg (by decide))) (segTbl hseg (by decide))
    have h2 : OnPages [0x0C] s s2 := near_same (hset (by decide) h1) rfl rfl
    exact near_ite' (near_ite' (near_metNvMod h2) h2) (near_ite' (onPages_joinFail (hset (by decide) h1)) (hset (by decide) h1))

/-! #### Self-tests -/

theorem onPages_testFailed (h : OnPages [0x30] s t) {n : Nat} : OnPages [0x30] s (t.testFailed n) :=
  onPages_raiseEv (near_setB (near_twinMod h) (by decide)) (by decide) (by decide)

theorem onPages_testPassed (h : OnPages [0x30] s t) {n : Nat} : OnPages [0x30] s (t.testPassed n) :=
  near_ite' (near_ite' (near_setB (near_twinMod (near_twinMod h)) (by decide)) (near_twinMod h)) h

theorem onPages_scrubDone (h : OnPages [0x30] s t) {n c u : Nat} : OnPages [0x30] s (t.scrubDone n c u) := by
  have h1 : OnPages [0x30] s ((t.bumpN .HLTH_SCRUB_CORR c).bumpN .HLTH_SCRUB_UNCORR u) :=
    near_bumpN (near_bumpN h (by decide) (by decide)) (by decide) (by decide)
  have h3 := fun f => near_twinMod (f := f) (near_ite' (c := 0 < c) (onPages_raiseEv (pg := 0x30) (b := 3) h1 (by decide) (by decide)) h1)
  unfold State.scrubDone
  exact near_ite' (onPages_testFailed (onPages_raiseEv (h3 _) (by decide) (by decide))) (onPages_testPassed (h3 _))

/-! #### The interrupt controller and the recorder -/

theorem icuReg_on {P : List Nat} {a : Nat} (h : icuReg a) : onReg P a = true := by
  have : pageOf a = 7 := by
    unfold icuReg at h
    simp only [pageOf_eq]
    omega
  unfold onReg
  rw [this]
  simp

theorem srcReserved_lt {n : Nat} (h : srcReserved n = false) : n < 0x400 := by
  unfold srcReserved at h
  split at h
  · exact absurd h (by decide)
  · split at h
    · omega
    · split at h
      · omega
      · simpa using h

theorem onPages_srcSet {P : List Nat} (h : OnPages P s t) {src lo n v : Nat} (hs : src < 2 ^ 24) : OnPages P s (t.srcSet src lo n v) :=
  near_tset h (by rw [tkeyTid_tkey _ _ _ hs (by decide)]; exact onTbl_of_evTbl (.inl rfl))

theorem onPages_icuApply {P : List Nat} {op : IcuOp} {src : Nat} (hs : src < 2 ^ 24) : OnPages P s (icuApply op src s) := by
  have heval : ∀ {u : State}, OnPages P s u → OnPages P s u.icuEval := fun hu => near_icuEval hu (fun _ => icuReg_on)
  have hsig : OnPages P s (s.signal src) := near_signal (Near.refl _ _ s) hs (fun _ => icuReg_on) (onTbl_of_evTbl (.inl rfl))
  have hset : ∀ lo v, OnPages P s (s.srcSet src lo 1 v) := fun _ _ => onPages_srcSet (Near.refl _ _ s) hs
  cases op with
  | doorbell => exact hsig
  | pendSet => exact hsig
  | enSet => exact heval (hset _ _)
  | enClr => exact heval (onPages_srcSet (hset _ _) hs)
  | maskSet => exact heval (hset _ _)
  | maskClr => exact heval (hset _ _)
  | pendClr => exact heval (hset _ _)

theorem onPages_icuWrite {op : IcuOp} {eng : Option Nat} {src : Nat} : OnPages [7] s (icuWrite op eng src s).1 := by
  have happ : srcReserved src = false → OnPages [7] s (icuApply op src s) := fun h =>
    onPages_icuApply (Nat.lt_trans (srcReserved_lt h) (by decide))
  unfold icuWrite
  refine near_fst_ite (Near.refl _ _ s) ?_
  cases eng with
  | none =>
    dsimp only
    split
    · exact Near.refl _ _ s
    · rename_i hc
      exact happ (Bool.eq_false_iff.2 fun h => hc (by rw [h]; rfl))
  | some e =>
    dsimp only
    split
    · exact onPages_raiseEv (P := [7]) (pg := 7) (t := s.bump .ICU_BAD_DB) (near_bump (Near.refl _ _ s) (by decide) (by decide)) (by decide) (by decide)
    · rename_i hc
      exact happ (Bool.eq_false_iff.2 hc)

theorem onPages_evrFreeze : OnPages [8] s (evrFreeze s) :=
  near_ite' (Near.refl _ _ s) (near_same (near_wr (near_setF (Near.refl _ _ s) (by decide)) (by decide)) rfl rfl)

theorem onPages_evrUnfreeze : OnPages [8] s (evrUnfreeze s) := near_setF (Near.refl _ _ s) (by decide)

theorem onPages_evrClear : OnPages [8] s (evrClear s).1 := by
  have h1 : OnPages [8] s { s with evr := { s.evr with intake := [] } } := near_same (Near.refl _ _ s) rfl rfl
  exact near_fst_ite (near_setF (near_setF (near_setF (near_setF h1 (by decide)) (by decide)) (by decide)) (by decide)) (Near.refl _ _ s)

theorem onPages_evrClrSupp : OnPages [8] s (evrClrSupp s) := by
  refine near_setF ⟨regsBut_refl s _, fun k hk => ?_⟩ (by decide)
  refine (smGet_filter tblReset s.tbl (fun k => !(tkeyTid k == 0x0802 && tkeyWord k == 1)) k).trans (if_pos ?_)
  have hne : tkeyTid k ≠ 0x0802 := fun e => hk (by rw [e]; rfl)
  simp [hne]

/-! #### Sessions, meters and channels -/

theorem onPages_kick {writer : Nat} : OnPages [0x0B] s (kick writer s).1 :=
  near_fst_ite (Near.refl _ _ s) (onPages_closeSess (Near.refl _ _ s) (List.Subset.refl _))

theorem onPages_restoreAck : OnPages [0x1A] s (restoreAck s) := near_setB (near_metMod (Near.refl _ _ s)) (by decide)

theorem privReg_on (ch : Nat) : onReg [0x26] (privArmed ch).addr = true ∧ onReg [0x26] (privTripped ch).addr = true :=
  ⟨onReg_of_range (pg := 0x26) (by decide) (by simp [privArmed]) (by simp [privArmed]),
    onReg_of_range (pg := 0x26) (by decide) (by simp [privTripped]) (by simp [privTripped])⟩

theorem onPages_priv {f : Fld} {b : Bool} (h : onReg [0x26] f.addr = true) : OnPages [0x26] s (s.setB f b) :=
  near_setB (Near.refl _ _ s) h

theorem onPages_privArmCmd : OnPages [0x26] s (privArmCmd s).1 :=
  near_fst_ite (Near.refl _ _ s) (near_same (onPages_priv (privReg_on (s.fld ⟨0x26048, 0, 5⟩)).1) rfl rfl)

theorem onPages_privDisarmCmd : OnPages [0x26] s (privDisarmCmd s) :=
  onPages_priv (privReg_on _).1

theorem onPages_resetTripCmd : OnPages [0x26] s (resetTripCmd s).1 :=
  near_fst_ite (Near.refl _ _ s) (near_same (onPages_priv (privReg_on (s.fld ⟨0x26048, 0, 5⟩)).2) rfl rfl)

end

theorem onPages_execCfgVerifyEnd (s : State) (o : CfgObs) : runs (.cfgVerifyEnd o) s (OnPages [1] s) := 
  runs_intro rfl
    (near_ite' (Near.refl _ _ s) (near_ite' onPages_cfgPass (onPages_cfgFail (Near.refl _ _ s))))

theorem onPages_execSeqVerifyEnd (s : State) : runs .seqVerifyEnd s (OnPages [6] s) := by
    refine runs_intro rfl (near_ite' (Near.refl _ _ s) ?_)
    split
    · exact onPages_seqVfyFail
    · exact onPages_seqPass

theorem onPages_execModelVerifyEnd (s : State) : runs .modelVerifyEnd s (OnPages [0x24] s) := by
    refine runs_intro rfl (near_ite' (Near.refl _ _ s) ?_)
    split
    · exact onPages_bankFail modelBank_on s _
    · exact onPages_bankPass modelBank_on s

theorem onPages_execOptVerifyEnd (s : State) : runs .optVerifyEnd s (OnPages [0x25] s) := by
    refine runs_intro rfl (near_ite' (Near.refl _ _ s) ?_)
    split
    · exact onPages_bankFail optBank_on s _
    · exact onPages_bankPass optBank_on s

theorem onPages_execTestClr (s : State) : runs .testClr s (OnPages [0x30] s) := 
  runs_intro rfl (near_ite' (near_twinMod (Near.refl _ _ s)) (Near.refl _ _ s))

theorem onPages_execDramScrubPass (s : State) (n : Nat) : runs (.dramScrubPass n) s (OnPages [0x30] s) := 
  runs_intro rfl (near_ite' (onPages_scrubDone (Near.refl _ _ s)) (Near.refl _ _ s))

theorem onPages_execPortLoopbackTest (s : State) (n : Nat) : runs (.portLoopbackTest n) s (OnPages [0x30] s) := by
    refine runs_intro rfl (near_ite' (Near.refl _ _ s) ?_)
    extract_lets n s1
    have h1 : OnPages [0x30] s s1 := near_twinMod (near_bumpN (Near.refl _ _ s) (by decide) (by decide))
    exact near_ite' (onPages_testFailed h1) (onPages_testPassed h1)

theorem onPages_execPlausFail (s : State) (n : Nat) : runs (.plausFail n) s (OnPages [0x30] s) := 
  runs_intro rfl (near_ite' (onPages_raiseEv (near_setF (near_bump (near_twinMod (Near.refl _ _ s))
    (by decide) (by decide)) (by decide)) (by decide) (by decide)) (Near.refl _ _ s))

theorem onPages_execMramScrubStart (s : State) : runs .mramScrubStart s (OnPages [0x30] s) := 
  runs_intro rfl (near_ite' (near_twinMod (Near.refl _ _ s)) (Near.refl _ _ s))

theorem onPages_execMramScrubEnd (s : State) (n m : Nat) : runs (.mramScrubEnd n m) s (OnPages [0x30] s) := by
    refine runs_intro rfl (near_ite' (Near.refl _ _ s) ?_)
    extract_lets s1 s2
    have h1 : OnPages [0x30] s s1 := near_wr (near_twinMod (Near.refl _ _ s)) (by decide)
    have h2 : OnPages [0x30] s s2 := near_ite' (onPages_raiseEv h1 (by decide) (by decide)) h1
    exact near_ite' (onPages_raiseEv h2 (by decide) (by decide)) h2

theorem onPages_execFrzExpired (s : State) : runs .frzExpired s (OnPages [8] s) := 
  runs_intro rfl (near_ite' (onPages_raiseEv onPages_evrUnfreeze (by decide) (by decide)) (Near.refl _ _ s))

/-- Every command of one page keeps to it. -/
theorem onPages_exec (s : State) {c : Instr} {p : Nat} (hc : onePage c = some p) : runs c s (OnPages [p] s) := by
  cases c
  case keyStage => cases hc; exact runs_intro rfl (near_keyCmd (onPages_keyRun s _))
  case keyVerify => cases hc; exact runs_intro rfl (near_keyCmd (onPages_keyRun s _))
  case promote => cases hc; exact runs_intro rfl (onPages_keyPromoteCmd s)
  case keyCancel => cases hc; exact runs_intro rfl (onPages_keyCancelCmd s)
  case keyErase => cases hc; exact runs_intro rfl (onPages_keyEraseCmd s)
  case cfgVerify => cases hc; exact runs_intro rfl onPages_cfgUnverified
  case cfgVerifyEnd => cases hc; exact onPages_execCfgVerifyEnd s _
  case cfgSwitch => cases hc; exact runs_intro rfl onPages_cfgSwitchCmd
  case cfgCancel => cases hc; exact runs_intro rfl onPages_cfgCancelCmd
  case seqVerify => cases hc; exact runs_intro rfl onPages_seqVerifyCmd
  case seqVerifyEnd => cases hc; exact onPages_execSeqVerifyEnd s
  case seqSwitch => cases hc; exact runs_intro rfl onPages_seqSwitchCmd
  case seqCancel => cases hc; exact runs_intro rfl (near_setB (Near.refl _ _ s) (by decide))
  case modelVerify => cases hc; exact runs_intro rfl (onPages_bankVerify modelBank_on s)
  case modelVerifyEnd => cases hc; exact onPages_execModelVerifyEnd s
  case modelSwitch => cases hc; exact runs_intro rfl (onPages_bankSwitch modelBank_on s)
  case modelCancel => cases hc; exact runs_intro rfl (onPages_bankCancel modelBank_on s)
  case optVerify => cases hc; exact runs_intro rfl (onPages_bankVerify optBank_on s)
  case optVerifyEnd => cases hc; exact onPages_execOptVerifyEnd s
  case optSwitch => cases hc; exact runs_intro rfl (onPages_bankSwitch optBank_on s)
  case optCancel => cases hc; exact runs_intro rfl (onPages_bankCancel optBank_on s)
  case twinJoin => cases hc; exact runs_intro rfl onPages_twinJoinCmd
  case joinStart => cases hc; exact onPages_execJoinStart
  case segmentCommit => cases hc; exact onPages_execSegmentCommit
  case joinTimeout => cases hc; exact onPages_execJoinTimeout
  case abandon => cases hc; exact runs_intro rfl (onPages_joinFail (Near.refl _ _ s))
  case testClr => cases hc; exact onPages_execTestClr s
  case dramScrubPass => cases hc; exact onPages_execDramScrubPass s _
  case portLoopbackTest => cases hc; exact onPages_execPortLoopbackTest s _
  case plausFail => cases hc; exact onPages_execPlausFail s _
  case mramScrubStart => cases hc; exact onPages_execMramScrubStart s
  case mramScrubEnd => cases hc; exact onPages_execMramScrubEnd s _ _
  case icuDoorbell => cases hc; exact runs_intro rfl onPages_icuWrite
  case icuEnSet => cases hc; exact runs_intro rfl onPages_icuWrite
  case icuEnClr => cases hc; exact runs_intro rfl onPages_icuWrite
  case icuMaskSet => cases hc; exact runs_intro rfl onPages_icuWrite
  case icuMaskClr => cases hc; exact runs_intro rfl onPages_icuWrite
  case icuPendSet => cases hc; exact runs_intro rfl onPages_icuWrite
  case icuPendClr => cases hc; exact runs_intro rfl onPages_icuWrite
  case evrFreeze => cases hc; exact runs_intro rfl onPages_evrFreeze
  case unfreeze => cases hc; exact runs_intro rfl onPages_evrUnfreeze
  case evrClear => cases hc; exact runs_intro rfl onPages_evrClear
  case clrSupp => cases hc; exact runs_intro rfl onPages_evrClrSupp
  case frzExpired => cases hc; exact onPages_execFrzExpired s
  case kick => cases hc; exact runs_intro rfl onPages_kick
  case restoreAck => cases hc; exact runs_intro rfl onPages_restoreAck
  case privArm => cases hc; exact runs_intro rfl onPages_privArmCmd
  case privDisarm => cases hc; exact runs_intro rfl onPages_privDisarmCmd
  case resetTrip => cases hc; exact runs_intro rfl onPages_resetTripCmd
  case sessionOpeningTimeout i =>
    cases hc
    exact runs_intro rfl (near_ite' (onPages_closeSess (Near.refl _ _ s) (List.Subset.refl _)) (Near.refl _ _ s))
  case sessionIdleTimeout i =>
    cases hc
    exact runs_intro rfl (near_ite' (onPages_closeSess (Near.refl _ _ s) (List.Subset.refl _)) (Near.refl _ _ s))
  case dormancyTimeout i =>
    cases hc
    exact runs_intro rfl (near_ite' (onPages_closeSess (Near.refl _ _ s) (List.Subset.refl _)) (Near.refl _ _ s))
  all_goals cases hc

/-- Settles O7: every command of one page by the frame of what it does. -/
theorem aCommandOfOnePageKeepsToIt : Obligations.ACommandOfOnePageKeepsToIt := by
  intro c p s t hc ht
  obtain ⟨u, hu, hpage⟩ := onPages_exec s hc
  obtain rfl : u = t := by
    rw [ht] at hu
    injection hu with hu
    exact hu.symm
  refine ⟨regsBut_mono hpage.regs (fun a ha => ?_), tblBut_mono hpage.tbl (fun x _ _ hx => ?_)⟩
  · simpa [onReg, or_assoc] using ha
  · simpa [onTbl, evTbl, or_assoc] using hx

end Sys2Proof.Machine
end

section
/-! ### Requests: the checks of R423, and one execution for each (R427) -/

namespace Sys2Proof.Machine

/-- Every row of a KWP request is its execution behind the one gate of R423 and R427. -/
theorem exec_request {c : Instr} {k : Kwp} {op : Nat} (h : reqOf c = some (k, op)) (s : State) :
    ∃ f : State → State, exec c s = .next (s.request k op f) := by
  cases c
  case read => cases h; exact ⟨_, rfl⟩
  case write => cases h; exact ⟨_, rfl⟩
  case readBlock => cases h; exact ⟨_, rfl⟩
  case writeBlock => cases h; exact ⟨_, rfl⟩
  case tableRead => cases h; exact ⟨_, rfl⟩
  case tableWrite => cases h; exact ⟨_, rfl⟩
  case cancel => cases h; exact ⟨_, rfl⟩
  case solve => cases h; exact ⟨_, rfl⟩
  case abort => cases h; exact ⟨_, rfl⟩
  case privReq => cases h; exact ⟨_, rfl⟩
  case cqRead => cases h; exact ⟨_, rfl⟩
  case notifyCfg => cases h; exact ⟨_, rfl⟩
  case ownReq => cases h; exact ⟨_, rfl⟩
  case ownRenew => cases h; exact ⟨_, rfl⟩
  case ownHandover => cases h; exact ⟨_, rfl⟩
  case ownRelease => cases h; exact ⟨_, rfl⟩
  case dormant => cases h; exact ⟨_, rfl⟩
  case resume => cases h; exact ⟨_, rfl⟩
  case closeReq => cases h; exact ⟨_, rfl⟩
  all_goals cases h

/-! #### The checks of R423 -/

section
variable {s : State} {k : Kwp}

theorem request_of_stopped {t : State} (h : s.recvKwp k = (t, false)) (op : Nat) (f : State → State) : s.request k op f = t := by
  unfold State.request
  rw [h]

theorem recvKwp_unaddressed (h : s.addressed k.port k.svc = false) : s.recvKwp k = (s, false) := by
  simp [State.recvKwp, h]

theorem recvKwp_bad (ha : s.addressed k.port k.svc = true) (h : k.fmtOk = false ∨ s.portOn k.port = false) :
    s.recvKwp k = (s.bump .HOST_BAD, false) := by
  rcases h with h | h <;> simp [State.recvKwp, ha, h]

theorem recvKwp_authFail (ha : s.addressed k.port k.svc = true) (hf : k.fmtOk = true) (hp : s.portOn k.port = true)
    (h : (s.sess k.ses).st = 0 ∨ 8 ≤ k.ses ∨ (s.sess k.ses).port ≠ k.port ∨ (s.sess k.ses).svc ≠ k.svc ∨ k.tagOk = false) :
    s.recvKwp k = (s.authFail, false) := by
  unfold State.recvKwp
  simp only [ha, hf, hp, Bool.not_true, Bool.false_eq_true, if_false, Bool.or_self]
  by_cases hses : ((s.sess k.ses).st = 0 || (s.sess k.ses).port != k.port || (s.sess k.ses).svc != k.svc || decide (8 ≤ k.ses)) = true
  · rw [if_pos hses]
  · rw [if_neg hses, if_pos]
    simp only [Bool.or_eq_true, decide_eq_true_eq, bne_iff_ne, not_or] at hses
    obtain ⟨⟨⟨h1, h2⟩, h3⟩, h4⟩ := hses
    have htag : k.tagOk = false := by tauto
    rw [htag]; rfl

theorem recvKwp_replay (ha : s.addressed k.port k.svc = true) (hf : k.fmtOk = true) (hp : s.portOn k.port = true)
    (hst : (s.sess k.ses).st ≠ 0) (hs : k.ses < 8) (hport : (s.sess k.ses).port = k.port) (hsvc : (s.sess k.ses).svc = k.svc)
    (ht : k.tagOk = true) (hr : replayOk (s.sess k.ses).rxTop (s.sess k.ses).rxSeen k.seq = false) :
    s.recvKwp k = (s.bump .HOST_REPLAY, false) := by
  have hs' : ¬ 8 ≤ k.ses := by omega
  simp [State.recvKwp, ha, hf, hp, hst, hs', hport, hsvc, ht, hr]

theorem execRequest_of_stopped {c : Instr} {op : Nat} {t : State} (hc : reqOf c = some (k, op)) (h : s.recvKwp k = (t, false)) :
    exec c s = .next t := by
  obtain ⟨f, hf⟩ := exec_request hc s
  rw [hf, request_of_stopped h]

end

theorem kwpOpen_unaddressed {s : State} {o : KwpOpen} (h : s.addressed o.port o.svc = false) : exec (.kwpOpen o) s = .next s :=
  next_congr (if_pos (by rw [h]; rfl))

theorem kwpOpen_bad {s : State} {o : KwpOpen} (ha : s.addressed o.port o.svc = true) (h : o.fmtOk = false ∨ s.portOn o.port = false) :
    exec (.kwpOpen o) s = .next (s.bump .HOST_BAD) := by
  refine next_congr ((if_neg (by rw [ha]; decide)).trans (if_pos ?_))
  simpa using h

theorem kwpOpen_authFail {s : State} {o : KwpOpen} (ha : s.addressed o.port o.svc = true) (hf : o.fmtOk = true) (hp : s.portOn o.port = true)
    (h : o.tagOk = false ∨ s.credOk o.cred = false) : exec (.kwpOpen o) s = .next s.authFail := by
  refine next_congr ((if_neg (by rw [ha]; decide)).trans ((if_neg (by rw [hf, hp]; decide)).trans (if_pos ?_)))
  simpa using h

theorem sent_authFail (s : State) : s.authFail.sent = s.sent :=
  (authFail_keeps (Keeps.refl _ s) (List.Subset.refl _)).only .sent (by decide)

theorem authFail_again {s : State} (h : s.host.authRaised = true) : s.authFail = s.bump .HOST_AUTH_FAIL := by
  refine if_pos ?_
  rw [host_bump]
  exact h

theorem authFail_first {s : State} (h : s.host.authRaised = false) :
    s.authFail.host.authRaised = true ∧ s.authFail.bit (bitAt 0xB010 5) = true := by
  have he : s.authFail = ((s.bump .HOST_AUTH_FAIL).hostMod (fun h => { h with authRaised := true })).raiseEv 0x0B 5 := by
    refine if_neg ?_
    rw [host_bump, h]
    decide
  rw [he]
  refine ⟨?_, bit_raiseEv_self (by decide) (by decide) (by decide) rfl⟩
  have hs : ∀ u : State, (u.raiseEv 0x0B 5).host.authRaised = u.host.authRaised := fun u => by
    have hstill : (u.raiseEv 0x0B 5).host.still = u.host.still := (raiseEv_keeps (Keeps.refl _ u) (List.Subset.refl _)).only .host (by decide)
    have hraised := congrArg HostSt.authRaised hstill
    exact hraised
  rw [hs]
  rfl

/-- Settles O8: the rows share one gate, whose checks are stated in their order; OPEN has its own. -/
theorem requestChecksInOrder : Obligations.RequestChecksInOrder := by
  refine ⟨fun c k op s hc ha => execRequest_of_stopped hc (recvKwp_unaddressed ha), fun c k op s hc ha =>
    ⟨fun h => execRequest_of_stopped hc (recvKwp_bad ha h), fun hf hp h => execRequest_of_stopped hc (recvKwp_authFail ha hf hp h),
      fun hf hp h1 h2 h3 h4 h5 h6 => execRequest_of_stopped hc (recvKwp_replay ha hf hp h1 h2 h3 h4 h5 h6)⟩, fun o s =>
    ⟨kwpOpen_unaddressed, kwpOpen_bad, fun ha hf hp => kwpOpen_authFail ha hf hp⟩, fun s =>
    ⟨sent_authFail s, authFail_again, authFail_first⟩⟩

/-! #### One execution for each request -/

section
variable {s : State} {k : Kwp} {op : Nat} {f : State → State}

theorem request_repeats (hp : s.passes k) {r : Resp} (h : (s.sess k.ses).cache.find? (fun r => r.reqId == k.reqId) = some r) :
    s.request k op f = (s.taken k).respondOnly k.ses r := by
  unfold State.request
  rw [(recvKwp_passes hp).1]
  simp only [taken_cache hp, h]

theorem find_none_of_cache (h : ∀ r ∈ (s.sess k.ses).cache, r.reqId ≠ k.reqId) :
    (s.sess k.ses).cache.find? (fun r => r.reqId == k.reqId) = none :=
  List.find?_eq_none.2 (fun r hr e => h r hr (by simpa using e))

theorem request_discards (hp : s.passes k) (hc : ∀ r ∈ (s.sess k.ses).cache, r.reqId ≠ k.reqId) (hi : k.reqId ∈ (s.sess k.ses).inflight) :
    s.request k op f = s.taken k := by
  unfold State.request
  rw [(recvKwp_passes hp).1]
  simp only [taken_cache hp, taken_inflight hp, find_none_of_cache hc]
  rw [if_pos (List.contains_iff_mem.2 hi)]

theorem request_ninth (hp : s.passes k) (hc : ∀ r ∈ (s.sess k.ses).cache, r.reqId ≠ k.reqId) (hi : k.reqId ∉ (s.sess k.ses).inflight)
    (hn : 8 ≤ (s.sess k.ses).inflight.length) : s.request k op f = (s.taken k).respondOnly k.ses ⟨k.reqId, op, .busy, []⟩ := by
  unfold State.request
  rw [(recvKwp_passes hp).1]
  simp only [taken_cache hp, taken_inflight hp, find_none_of_cache hc]
  rw [if_neg (fun h => hi (List.contains_iff_mem.1 h)), if_pos hn]

/-- A response that is sent and not kept. -/
theorem respondOnly_shows (hp : s.passes k) (r : Resp) :
    ((s.taken k).respondOnly k.ses r).sent = s.sent ++ s.says k.svc (.resp k.ses (s.sess k.ses).txSeq r)
      ∧ (s.taken k).onlyIn ((s.taken k).respondOnly k.ses r) [.host, .items, .sent]
      ∧ (((s.taken k).respondOnly k.ses r).sess k.ses).cache = (s.sess k.ses).cache
      ∧ ((s.taken k).respondOnly k.ses r).host.queue = s.host.queue ∧ ((s.taken k).respondOnly k.ses r).host.cmds = s.host.cmds := by
  have hsent : ((s.taken k).respondOnly k.ses r).sent = (s.taken k).sent ++ (s.taken k).says ((s.taken k).sess k.ses).svc
      (.resp k.ses ((s.taken k).sess k.ses).txSeq r) := rfl
  refine ⟨?_, (respondOnly_keeps (Keeps.refl _ _) (List.Subset.refl _)).only, ?_, ?_, ?_⟩
  · rw [hsent, taken_sent hp, taken_svc hp, taken_txSeq hp, says_of_rd (taken_rd hp not_hostReg_state) (taken_cfg s k)]
  · have hsess : ((s.taken k).respondOnly k.ses r).sess k.ses
        = { (s.taken k).sess k.ses with txSeq := ((s.taken k).sess k.ses).txSeq + 1 } :=
      sess_sessMod_same _ _ _ (sess_lt (taken_st_ne hp))
    rw [hsess]
    exact taken_cache hp
  · exact taken_queue hp
  · exact taken_cmds hp

end

/-- Settles O9: the three outcomes of R427 before a request is executed. -/
theorem requestActsOnce : Obligations.RequestActsOnce := by
  intro c k op s hc hp
  obtain ⟨f, he⟩ := exec_request hc s
  refine ⟨fun r hr => ?_, fun hn hi => he.trans (next_congr (request_discards hp hn hi)), fun hn hi h8 => ?_⟩
  · exact runs_intro (he.trans (next_congr (request_repeats hp hr))) (respondOnly_shows hp r)
  · exact runs_intro (he.trans (next_congr (request_ninth hp hn hi h8))) (respondOnly_shows hp _)

end Sys2Proof.Machine
end

section
/-! ### READ, READ_BLOCK and TABLE_READ (R45, R47, R48, R66) -/

namespace Sys2Proof.Machine

/-- What a request has changed on its way to its response, so that the response is what it would have been at once: nothing that the
response is made of. -/
structure Unanswered (s u : State) : Prop where
  sent : u.sent = s.sent
  cfg : u.cfg = s.cfg
  host : u.host.still = s.host.still
  stat : u.rd 0x0054 = s.rd 0x0054

theorem Unanswered.refl (s : State) : Unanswered s s := ⟨rfl, rfl, rfl, rfl⟩

theorem Unanswered.trans {s t u : State} (h : Unanswered s t) (h' : Unanswered t u) : Unanswered s u :=
  ⟨h'.sent.trans h.sent, h'.cfg.trans h.cfg, h'.host.trans h.host, h'.stat.trans h.stat⟩

theorem unanswered_free (s : State) (n : Nat) : Unanswered s { s with free := n } := ⟨rfl, rfl, rfl, rfl⟩

/-- The response of an admitted request. -/
theorem replied_of_unanswered {s u : State} {k : Kwp} (h : s.passes k) (hu : Unanswered (s.taken k) u) (op : Nat) (st : Status) (d : List Word) :
    s.replied (u.respond k.ses k.reqId op st d) k op st d := by
  have hsess := sess_of_still hu.host k.ses
  have hsvc : (u.sess k.ses).svc = ((s.taken k).sess k.ses).svc := by
    have hs := congrArg Sess.svc hsess
    exact hs
  have htx : (u.sess k.ses).txSeq = ((s.taken k).sess k.ses).txSeq := by
    have hs := congrArg Sess.txSeq hsess
    exact hs
  rw [State.replied, respond_sent, hu.sent, hsvc, htx, taken_sent h, taken_svc h, taken_txSeq h,
    says_of_rd (hu.stat.trans (taken_rd h not_hostReg_state)) (hu.cfg.trans (taken_cfg s k))]

/-! Claims. -/

theorem unanswered_claim (t : Nat) (s : State) : Unanswered s (claim t s).1 := by
  have hk := claim_keeps (T := [.regs, .tbl, .items, .icu]) (t := t) (Keeps.refl _ s) (List.Subset.refl _)
  refine ⟨hk.only .sent (by decide), hk.only .cfg (by decide), hk.only .host (by decide), ?_⟩
  have hn : Near (fun a => onReg [7] a = true) (fun _ => True) s (claim t s).1 := by
    unfold claim
    extract_lets src v s1 x s2
    split
    · exact near_bumpW (c := .ICU_SPUR) (n := 1) (p := fun a => onReg [7] a = true) (Near.refl _ _ s) (by decide) rfl
    · have h1 : Near (fun a => onReg [7] a = true) (fun _ => True) s s1 :=
        near_tset (near_tset (near_tset (near_tset (Near.refl _ _ s) trivial) trivial) trivial) trivial
      exact near_icuEval (near_same h1 rfl rfl) (fun _ => icuReg_on)
  exact hn.regs _ (by decide)

/-! Reads that do not act. -/

/-- What a register reads as does not depend on the answers still to be given, but for PG_STAT. -/
theorem readWord_free {s : State} {n a : Nat} (h : offOf a ≠ 0x0C) : ({ s with free := n } : State).readWord a = s.readWord a := by
  unfold State.readWord
  simp only [h, if_false]
  rfl

theorem readWords_idle {own : Bool} : ∀ (n : Nat) (a : Nat) (s : State), (own = true → ∀ i < n, readActs (a + 4 * i) = false) →
    (∃ m, (readWords own n a s).1 = { s with free := m }) ∧ (readWords own n a s).2.length = n
      ∧ ∀ i < n, (readActs (a + 4 * i) = true → (readWords own n a s).2[i]? = some 0)
        ∧ (readActs (a + 4 * i) = false → offOf (a + 4 * i) ≠ 0x0C → (readWords own n a s).2[i]? = some (s.readWord (a + 4 * i)))
  | 0, _, s, _ => ⟨⟨s.free, rfl⟩, rfl, fun i hi => absurd hi (Nat.not_lt_zero i)⟩
  | n + 1, a, s, h => by
    have hnext : own = true → ∀ i < n, readActs (a + 4 + 4 * i) = false := fun ho i hi => by
      rw [show a + 4 + 4 * i = a + 4 * (i + 1) by omega]
      exact h ho (i + 1) (by omega)
    have hstep : ∀ i, a + 4 * (i + 1) = a + 4 + 4 * i := fun i => by omega
    by_cases ha : readActs a = true
    · have hown : own = false := by
        cases own with
        | false => rfl
        | true => exact absurd (h rfl 0 (Nat.succ_pos n)) (by rw [Nat.mul_zero, Nat.add_zero, ha]; decide)
      have he : readWords own (n + 1) a s = ((readWords own n (a + 4) s).1, 0 :: (readWords own n (a + 4) s).2) := by
        simp only [readWords, ha, hown, if_true, Bool.false_eq_true, if_false]
      obtain ⟨hm, hl, hw⟩ := readWords_idle n (a + 4) s hnext
      rw [he]
      refine ⟨hm, congrArg (· + 1) hl, fun i hi => ?_⟩
      cases i with
      | zero => exact ⟨fun _ => rfl, fun hn => absurd hn (by rw [Nat.mul_zero, Nat.add_zero, ha]; decide)⟩
      | succ i =>
        rw [hstep]
        exact hw i (by omega)
    · have he : readWords own (n + 1) a s = ((readWords own n (a + 4) s.useFree).1, s.readWord a :: (readWords own n (a + 4) s.useFree).2) := by
        simp only [readWords, ha, Bool.false_eq_true, if_false]
      obtain ⟨⟨m, hm⟩, hl, hw⟩ := readWords_idle n (a + 4) s.useFree hnext
      rw [he]
      refine ⟨⟨m, hm⟩, congrArg (· + 1) hl, fun i hi => ?_⟩
      cases i with
      | zero => exact ⟨fun hy => absurd hy ha, fun _ _ => rfl⟩
      | succ i =>
        rw [hstep]
        obtain ⟨h0, h1⟩ := hw i (by omega)
        exact ⟨h0, fun hn ho => (h1 hn ho).trans (congrArg some (readWord_free ho))⟩

theorem readWords_acting {own : Bool} : ∀ (n : Nat) (a : Nat) (s : State),
    Unanswered s (readWords own n a s).1 ∧ (readWords own n a s).2.length = n
  | 0, _, s => ⟨Unanswered.refl s, rfl⟩
  | n + 1, a, s => by
    have hrest := fun u => readWords_acting (own := own) n (a + 4) u
    by_cases ha : readActs a = true
    · cases own with
      | true =>
        have he : readWords true (n + 1) a s = ((readWords true n (a + 4) (claim (claimTarget a) s).1).1,
            (claim (claimTarget a) s).2 :: (readWords true n (a + 4) (claim (claimTarget a) s).1).2) := by
          simp only [readWords, ha, if_true]
        rw [he]
        exact ⟨(unanswered_claim _ s).trans (hrest _).1, congrArg (· + 1) (hrest _).2⟩
      | false =>
        have he : readWords false (n + 1) a s = ((readWords false n (a + 4) s).1, 0 :: (readWords false n (a + 4) s).2) := by
          simp only [readWords, ha, if_true, Bool.false_eq_true, if_false]
        rw [he]
        exact ⟨(hrest _).1, congrArg (· + 1) (hrest _).2⟩
    · have he : readWords own (n + 1) a s = ((readWords own n (a + 4) s.useFree).1, s.readWord a :: (readWords own n (a + 4) s.useFree).2) := by
        simp only [readWords, ha, Bool.false_eq_true, if_false]
      rw [he]
      exact ⟨(unanswered_free s _).trans (hrest _).1, congrArg (· + 1) (hrest _).2⟩

/-! The requests. -/

section
variable {s : State} {k : Kwp} (h : s.admits k)
include h

/-- A request that is answered on receipt, having changed nothing before. -/
theorem runs_replies {c : Instr} {op : Nat} {st : Status} {d : List Word}
    (he : exec c s = .next ((s.taken k).respond k.ses k.reqId op st d)) :
    runs c s (fun t => s.replied t k op st d ∧ (s.taken k).onlyIn t [.host, .items, .sent]) := runs_intro he (replies h)

theorem exec_read (addr : Nat) : exec (.read k addr) s = .next (
    if !addrOk (addr % 2 ^ 24) then (s.taken k).respond k.ses k.reqId 1 .badAddr []
    else if 2 ^ 24 ≤ addr then (s.taken k).respond k.ses k.reqId 1 .range []
    else if readActs (addr % 2 ^ 24) then
      if s.isOwner k.ses then (claim (claimTarget (addr % 2 ^ 24)) (s.taken k)).1.respond k.ses k.reqId 1 .ok
        [(claim (claimTarget (addr % 2 ^ 24)) (s.taken k)).2]
      else (s.taken k).respond k.ses k.reqId 1 .denied [0]
    else ((s.taken k).useFree).respond k.ses k.reqId 1 .ok [(s.taken k).readWord (addr % 2 ^ 24)]) := by
  rw [← taken_isOwner h.1]
  exact next_congr (request_admits h 1 _)

theorem read_badAddr {addr : Nat} (ha : addrOk (addr % 2 ^ 24) = false) :
    runs (.read k addr) s (fun t => s.replied t k 1 .badAddr [] ∧ (s.taken k).onlyIn t [.host, .items, .sent]) := by
  refine runs_replies h ((exec_read h addr).trans (next_congr (if_pos ?_)))
  rw [ha]; rfl

theorem read_range {addr : Nat} (hr : 2 ^ 24 ≤ addr) (ha : addrOk (addr % 2 ^ 24) = true) :
    runs (.read k addr) s (fun t => s.replied t k 1 .range [] ∧ (s.taken k).onlyIn t [.host, .items, .sent]) := by
  refine runs_replies h ((exec_read h addr).trans (next_congr ?_))
  rw [ha, if_neg (by decide), if_pos hr]

theorem read_word {addr : Nat} (hr : addr < 2 ^ 24) (ha : addrOk addr = true) (hn : readActs addr = false) :
    runs (.read k addr) s (fun t => s.replied t k 1 .ok [(s.taken k).readWord addr]
      ∧ (s.taken k).onlyIn t [.host, .items, .sent, .free]) := by
  have he := exec_read h addr
  rw [Nat.mod_eq_of_lt hr, ha, if_neg (by decide), if_neg (by omega), hn, if_neg (by decide)] at he
  refine runs_intro he ⟨replied_of_unanswered h.1 (unanswered_free _ _) _ _ _, ?_⟩
  exact (respond_keeps (useFree_keeps (Keeps.refl _ (s.taken k)) (by decide)) (by decide)).only

theorem read_denied {addr : Nat} (hr : addr < 2 ^ 24) (ha : addrOk addr = true) (hy : readActs addr = true) (ho : s.isOwner k.ses = false) :
    runs (.read k addr) s (fun t => s.replied t k 1 .denied [0] ∧ (s.taken k).onlyIn t [.host, .items, .sent]) := by
  refine runs_replies h ((exec_read h addr).trans (next_congr ?_))
  rw [Nat.mod_eq_of_lt hr, ha, if_neg (by decide), if_neg (by omega), if_pos hy, ho, if_neg (by decide)]

theorem read_claims {addr : Nat} (hr : addr < 2 ^ 24) (ha : addrOk addr = true) (hy : readActs addr = true) (ho : s.isOwner k.ses = true) :
    runs (.read k addr) s (fun t => s.replied t k 1 .ok [(claim (claimTarget addr) (s.taken k)).2]
      ∧ t.icu = (claim (claimTarget addr) (s.taken k)).1.icu) := by
  have he := exec_read h addr
  rw [Nat.mod_eq_of_lt hr, ha, if_neg (by decide), if_neg (by omega), if_pos hy, if_pos ho] at he
  refine runs_intro he ⟨replied_of_unanswered h.1 (unanswered_claim _ _) _ _ _, ?_⟩
  exact respond_only _ _ _ _ _ _ .icu (by decide)

theorem exec_readBlock (addr cnt : Nat) : exec (.readBlock k addr cnt) s = .next (
    if !blockOk (addr % 2 ^ 24) cnt then (s.taken k).respond k.ses k.reqId 3 .badAddr []
    else if cnt = 0 ∨ 256 < cnt ∨ 2 ^ 24 ≤ addr then (s.taken k).respond k.ses k.reqId 3 .range []
    else (readWords (s.isOwner k.ses) cnt (addr % 2 ^ 24) (s.taken k)).1.respond k.ses k.reqId 3
      (if (List.range cnt).any (fun i => readActs (addr % 2 ^ 24 + 4 * i)) && !s.isOwner k.ses then .denied else .ok)
      (readWords (s.isOwner k.ses) cnt (addr % 2 ^ 24) (s.taken k)).2) := by
  rw [← taken_isOwner h.1]
  exact next_congr (request_admits h 3 _)

theorem readBlock_badAddr {addr cnt : Nat} (hr : addr < 2 ^ 24) (hb : blockOk addr cnt = false) :
    runs (.readBlock k addr cnt) s (fun t => s.replied t k 3 .badAddr [] ∧ (s.taken k).onlyIn t [.host, .items, .sent]) := by
  refine runs_replies h ((exec_readBlock h addr cnt).trans (next_congr (if_pos ?_)))
  rw [Nat.mod_eq_of_lt hr, hb]; rfl

/-- A block that is read. -/
theorem exec_readBlock_reads {addr cnt : Nat} (hr : addr < 2 ^ 24) (h1 : 1 ≤ cnt) (h256 : cnt ≤ 256) (hb : blockOk addr cnt = true) :
    exec (.readBlock k addr cnt) s = .next ((readWords (s.isOwner k.ses) cnt addr (s.taken k)).1.respond k.ses k.reqId 3
      (if (List.range cnt).any (fun i => readActs (addr + 4 * i)) && !s.isOwner k.ses then .denied else .ok)
      (readWords (s.isOwner k.ses) cnt addr (s.taken k)).2) := by
  have he := exec_readBlock h addr cnt
  rwa [Nat.mod_eq_of_lt hr, hb, if_neg (by decide), if_neg (by omega)] at he

theorem readBlock_onlyFree {own : Bool} {cnt addr : Nat} {st : Status} {d : List Word}
    (hm : ∃ m, (readWords own cnt addr (s.taken k)).1 = { s.taken k with free := m }) :
    (s.taken k).onlyIn ((readWords own cnt addr (s.taken k)).1.respond k.ses k.reqId 3 st d) [.host, .items, .sent, .free]
      ∧ s.replied ((readWords own cnt addr (s.taken k)).1.respond k.ses k.reqId 3 st d) k 3 st d := by
  obtain ⟨m, hm⟩ := hm
  rw [hm]
  refine ⟨onlyIn_trans (t := { s.taken k with free := m }) ?_ (onlyIn_mono (respond_only _ _ _ _ _ _) (by decide)),
    replied_of_unanswered h.1 (unanswered_free _ m) _ _ _⟩
  exact fun p hp => by
    cases p with
    | free => exact absurd (by decide) hp
    | _ => rfl

theorem readBlock_words {addr cnt : Nat} (hr : addr < 2 ^ 24) (h1 : 1 ≤ cnt) (h256 : cnt ≤ 256) (hb : blockOk addr cnt = true)
    (hn : ∀ i < cnt, readActs (addr + 4 * i) = false) :
    runs (.readBlock k addr cnt) s (fun t => (s.taken k).onlyIn t [.host, .items, .sent, .free]
      ∧ ∃ ws, s.replied t k 3 .ok ws ∧ ws.length = cnt
        ∧ ∀ i < cnt, offOf (addr + 4 * i) ≠ 0x0C → ws[i]? = some ((s.taken k).readWord (addr + 4 * i))) := by
  have hany : (List.range cnt).any (fun i => readActs (addr + 4 * i)) = false := by
    simpa using hn
  have he := exec_readBlock_reads h hr h1 h256 hb
  rw [hany, Bool.false_and, if_neg (by decide)] at he
  obtain ⟨hm, hl, hw⟩ := readWords_idle (own := s.isOwner k.ses) cnt addr (s.taken k) (fun _ => hn)
  obtain ⟨hon, hrep⟩ := readBlock_onlyFree h hm (st := .ok) (d := (readWords (s.isOwner k.ses) cnt addr (s.taken k)).2)
  exact runs_intro he ⟨hon, _, hrep, hl, fun i hi => (hw i hi).2 (hn i hi)⟩

theorem readBlock_denied {addr cnt : Nat} (hr : addr < 2 ^ 24) (h1 : 1 ≤ cnt) (h256 : cnt ≤ 256) (hb : blockOk addr cnt = true)
    (hy : ∃ i < cnt, readActs (addr + 4 * i) = true) (ho : s.isOwner k.ses = false) :
    runs (.readBlock k addr cnt) s (fun t => (s.taken k).onlyIn t [.host, .items, .sent, .free]
      ∧ ∃ ws, s.replied t k 3 .denied ws ∧ ws.length = cnt
        ∧ ∀ i < cnt, (readActs (addr + 4 * i) = true → ws[i]? = some 0)
          ∧ (readActs (addr + 4 * i) = false → offOf (addr + 4 * i) ≠ 0x0C → ws[i]? = some ((s.taken k).readWord (addr + 4 * i)))) := by
  have hany : (List.range cnt).any (fun i => readActs (addr + 4 * i)) = true := by
    simpa using hy
  have he := exec_readBlock_reads h hr h1 h256 hb
  rw [hany, ho, if_pos (by decide)] at he
  obtain ⟨hm, hl, hw⟩ := readWords_idle (own := false) cnt addr (s.taken k) (fun hc => absurd hc (by decide))
  obtain ⟨hon, hrep⟩ := readBlock_onlyFree h hm (st := .denied) (d := (readWords false cnt addr (s.taken k)).2)
  exact runs_intro he ⟨hon, _, hrep, hl, hw⟩

theorem readBlock_claims {addr cnt : Nat} (hr : addr < 2 ^ 24) (h1 : 1 ≤ cnt) (h256 : cnt ≤ 256) (hb : blockOk addr cnt = true)
    (ho : s.isOwner k.ses = true) :
    runs (.readBlock k addr cnt) s (fun t => ∃ ws, s.replied t k 3 .ok ws ∧ ws.length = cnt) := by
  have he := exec_readBlock_reads h hr h1 h256 hb
  rw [ho, Bool.not_true, Bool.and_false, if_neg (by decide)] at he
  obtain ⟨hu, hl⟩ := readWords_acting (own := true) cnt addr (s.taken k)
  exact runs_intro he ⟨_, replied_of_unanswered h.1 hu _ _ _, hl⟩

theorem tableRead_badTable {tid cnt idx : Nat} (ht : tableInfo tid = none) :
    runs (.tableRead k tid cnt idx) s (fun t => s.replied t k 5 .badTable [] ∧ (s.taken k).onlyIn t [.host, .items, .sent]) := by
  refine runs_replies h ((next_congr (request_admits h 5 _)).trans ?_)
  simp only [ht]

theorem tableRead_words {tid cnt idx : Nat} {ti : TableInfo} (ht : tableInfo tid = some ti) (h1 : 1 ≤ cnt) (h64 : cnt ≤ 64)
    (h320 : cnt * ti.words ≤ 320) (hi : idx < 2 ^ 24) (hok : ti.idxOk idx = true) (hend : ti.idxOk (idx + cnt - 1) = true)
    (hx : ti.byXfer = false) :
    runs (.tableRead k tid cnt idx) s (fun t => s.replied t k 5 .ok ((s.taken k).tableWords ti idx cnt)
      ∧ (s.taken k).onlyIn t [.host, .items, .sent]) := by
  have hopen : (s.taken k).xferOpen tid = true := by
    unfold State.xferOpen
    simp only [ht, hx, Bool.not_false, if_true]
  refine runs_replies h ((next_congr (request_admits h 5 _)).trans ?_)
  have hrange : ¬ (cnt = 0 ∨ 64 < cnt ∨ 320 < cnt * ti.words ∨ 2 ^ 24 ≤ idx) := by omega
  simp only [ht, hrange, hok, hend, hopen, hx, Bool.not_true, Bool.or_self, Bool.false_and, Bool.false_eq_true, if_false]

end

/-- Settles O10: each read by the case of its address, its reader and its owner. -/
theorem readsAnswerTheWords : Obligations.ReadsAnswerTheWords := fun _ _ h =>
  ⟨fun _ ha => read_badAddr h ha, fun _ hr ha => read_range h hr ha, fun _ hr ha hn => read_word h hr ha hn,
    fun _ hr ha hy ho => read_denied h hr ha hy ho, fun _ hr ha hy ho => read_claims h hr ha hy ho,
    fun _ _ hr _ _ hb => readBlock_badAddr h hr hb, fun _ _ hr h1 h256 hb hn => readBlock_words h hr h1 h256 hb hn,
    fun _ _ hr h1 h256 hb hy ho => readBlock_denied h hr h1 h256 hb hy ho,
    fun _ _ hr h1 h256 hb _ ho => readBlock_claims h hr h1 h256 hb ho, fun _ _ _ ht => tableRead_badTable h ht,
    fun _ _ _ _ ht h1 h64 h320 hi hok hend hx => tableRead_words h ht h1 h64 h320 hi hok hend hx⟩

end Sys2Proof.Machine
end

section
/-! ### WRITE, WRITE_BLOCK, TABLE_WRITE and CMD on receipt (R47 to R49, R430) -/

namespace Sys2Proof.Machine

/-! The program images are in no table of events. -/

section
variable {s t : State} (h : s.tblBut t (fun tid _ _ => evTbl tid))
include h

theorem imgByte_of_tblBut (p c off : Nat) : t.imgByte p c off = s.imgByte p c off := by
  refine congrArg (wbits · _ _) (h _ ?_)
  unfold evTbl tkeyTid tkey pt
  omega

theorem imgLe_of_tblBut (p c off n : Nat) : t.imgLe p c off n = s.imgLe p c off n := by
  unfold State.imgLe
  simp only [imgByte_of_tblBut h]

theorem varOf_of_tblBut (p c id : Nat) : t.varOf p c id = s.varOf p c id := by
  have hlist : t.varList p c = s.varList p c := by
    unfold State.varList State.sectOffs State.sect State.sectList State.imgSects
    simp only [imgLe_of_tblBut h]
  unfold State.varOf
  rw [hlist]

theorem forceOk_of_tblBut (tid : Nat) (ws : List Word) : t.forceOk tid ws = s.forceOk tid ws := by
  unfold State.forceOk State.forceFits
  simp only [varOf_of_tblBut h]

end

/-! The status of a write (R49). -/

theorem worst_value (a : Nat) (v : Word) : worst [valueStatus a v] = valueStatus a v := by
  unfold valueStatus
  split
  · rfl
  · split
    · rfl
    · split
      · rfl
      · rfl

theorem worst_ok {l : List Status} (h : ∀ x ∈ l, x = .ok) : worst l = .ok := by
  unfold worst
  rw [List.find?_eq_none.2 fun x hx => ?_]
  · rfl
  · intro hc
    have hok := h x (List.contains_iff_mem.1 hc)
    subst hok
    simp at hx

section
variable {s : State} {k : Kwp}

theorem writeStatus_denied (h : s.isOwner k.ses = false) (ws : List (Nat × Word)) (addr : Nat) : s.writeStatus k ws addr = .denied :=
  if_pos (by rw [h]; rfl)

theorem writeStatus_badAddr (h : s.isOwner k.ses = true) {a : Nat} {v : Word} {addr : Nat} (ha : addrOk a = false) :
    s.writeStatus k [(a, v)] addr = .badAddr :=
  (if_neg (by rw [h]; decide)).trans (if_pos (by simp [ha]))

theorem writeStatus_value (h : s.isOwner k.ses = true) {ws : List (Nat × Word)} {addr : Nat} (hr : addr < 2 ^ 24)
    (ha : ∀ e ∈ ws, addrOk e.1 = true) : s.writeStatus k ws addr = worst (ws.map (fun e => valueStatus e.1 e.2)) := by
  unfold State.writeStatus
  rw [if_neg (by rw [h]; decide), if_neg (by simpa using ha), if_neg (by omega)]

theorem addrOk_of_value {a : Nat} {v : Word} (h : valueStatus a v = .ok) : addrOk a = true := by
  unfold valueStatus at h
  split at h
  · cases h
  · rename_i hc
    simpa using hc

/-- What is not refused waits. -/
theorem match_ok {α : Type} {st : Status} {x : α} {f : Status → α} : st = .ok → (match st with | .ok => x | st => f st) = x := by
  rintro rfl
  rfl

theorem match_refused {α : Type} {st : Status} {x : α} {f : Status → α} : st ≠ .ok → (match st with | .ok => x | st => f st) = f st := by
  intro h
  split
  · exact absurd rfl h
  · rfl

end

/-! The two ways a write goes on. -/

section
variable {s : State} {k : Kwp} (h : s.admits k) {c : Instr}
include h

theorem waits_of_hold {op : HOp} (he : exec c s = .next ((s.taken k).hold k op)) : runs c s (fun t =>
    t.host.queue = s.host.queue ++ [⟨k.ses, (s.sess k.ses).gen, k.reqId, op⟩] ∧ t.sent = s.sent
      ∧ k.reqId ∈ (t.sess k.ses).inflight ∧ (s.taken k).onlyIn t [.host, .items]) := by
  refine runs_intro he ⟨?_, taken_sent h.1, ?_, (hold_keeps (Keeps.refl _ _) (List.Subset.refl _)).only⟩
  · exact congrArg₂ (fun q g => q ++ [⟨k.ses, g, k.reqId, op⟩]) (taken_queue h.1) (taken_gen h.1)
  · have hsess : ((s.taken k).hold k op).sess k.ses
        = { (s.taken k).sess k.ses with inflight := ((s.taken k).sess k.ses).inflight ++ [k.reqId] } :=
      sess_sessMod_same _ _ _ (sess_lt (taken_st_ne h.1))
    rw [hsess]
    exact List.mem_append_right _ (List.mem_singleton_self _)

theorem refuses_of_respond {op : Nat} {st : Status} (he : exec c s = .next ((s.taken k).respond k.ses k.reqId op st [])) : runs c s (fun t =>
    s.replied t k op st [] ∧ t.host.queue = s.host.queue ∧ (s.taken k).onlyIn t [.host, .items, .sent]) := by
  obtain ⟨h1, h2⟩ := replies (op := op) (st := st) (d := []) h
  exact runs_intro he ⟨h1, (respond_queue _ _ _ _ _ _).trans (taken_queue h.1), h2⟩

/-! The rows. -/

theorem exec_write (addr : Nat) (v : Word) : exec (.write k addr v) s = .next (
    match (s.taken k).writeStatus k [(addr % 2 ^ 24, v)] addr with
    | .ok => (s.taken k).hold k (.regs 2 [(addr % 2 ^ 24, v)])
    | st => (s.taken k).respond k.ses k.reqId 2 st []) := next_congr (request_admits h 2 _)

theorem write_waits {addr : Nat} {v : Word} (ho : s.isOwner k.ses = true) (hr : addr < 2 ^ 24) (hv : valueStatus addr v = .ok) :
    exec (.write k addr v) s = .next ((s.taken k).hold k (.regs 2 [(addr, v)])) := by
  have he := exec_write h addr v
  rw [Nat.mod_eq_of_lt hr] at he
  refine he.trans (next_congr (match_ok ?_))
  rw [writeStatus_value ((taken_isOwner h.1 _).trans ho) hr (fun e he => by rw [List.mem_singleton.1 he]; exact addrOk_of_value hv)]
  exact (worst_value _ _).trans hv

theorem write_refused {addr : Nat} {v : Word} {st : Status} (hs : (s.taken k).writeStatus k [(addr % 2 ^ 24, v)] addr = st) (hst : st ≠ .ok) :
    exec (.write k addr v) s = .next ((s.taken k).respond k.ses k.reqId 2 st []) := by
  have he := exec_write h addr v
  rw [hs] at he
  exact he.trans (next_congr (match_refused hst))

theorem exec_writeBlock (addr : Nat) (ws : List Word) : exec (.writeBlock k addr ws) s = .next (
    if !s.isOwner k.ses then (s.taken k).respond k.ses k.reqId 4 .denied []
    else if !blockOk (addr % 2 ^ 24) ws.length then (s.taken k).respond k.ses k.reqId 4 .badAddr []
    else if ws.isEmpty || decide (256 < ws.length) then (s.taken k).respond k.ses k.reqId 4 .range []
    else match (s.taken k).writeStatus k (blockWords (addr % 2 ^ 24) ws) addr with
      | .ok => (s.taken k).hold k (.regs 4 (blockWords (addr % 2 ^ 24) ws))
      | st => (s.taken k).respond k.ses k.reqId 4 st []) := by
  rw [← taken_isOwner h.1]
  exact next_congr (request_admits h 4 _)

theorem writeBlock_waits {addr : Nat} {ws : List Word} (ho : s.isOwner k.ses = true) (hr : addr < 2 ^ 24) (hne : ws ≠ []) (h256 : ws.length ≤ 256)
    (hb : blockOk addr ws.length = true) (hv : ∀ e ∈ blockWords addr ws, addrOk e.1 = true ∧ valueStatus e.1 e.2 = .ok) :
    exec (.writeBlock k addr ws) s = .next ((s.taken k).hold k (.regs 4 (blockWords addr ws))) := by
  have he := exec_writeBlock h addr ws
  have hempty : (ws.isEmpty || decide (256 < ws.length)) = false := by
    simp only [Bool.or_eq_false_iff, List.isEmpty_eq_false_iff, decide_eq_false_iff_not]
    exact ⟨hne, by omega⟩
  rw [Nat.mod_eq_of_lt hr, ho, if_neg (by decide), hb, if_neg (by decide), hempty, if_neg (by decide)] at he
  refine he.trans (next_congr (match_ok ?_))
  rw [writeStatus_value ((taken_isOwner h.1 _).trans ho) hr (fun e he => (hv e he).1)]
  refine worst_ok fun x hx => ?_
  obtain ⟨e, he, rfl⟩ := List.mem_map.1 hx
  exact (hv e he).2

theorem exec_tableWrite (tid idx : Nat) (ws : List Word) : exec (.tableWrite k tid idx ws) s = .next (
    if !s.isOwner k.ses then (s.taken k).respond k.ses k.reqId 6 .denied []
    else match tableInfo tid with
      | none => (s.taken k).respond k.ses k.reqId 6 .badTable []
      | some t =>
        match (if (tid = 0x2102 ∨ tid = 0x2202) ∧ tableStatus t idx ws = .ok ∧ !s.forceOk tid ws then .range
               else tableStatus t idx ws) with
        | .ok => (s.taken k).hold k (.table tid idx ws 0)
        | st => (s.taken k).respond k.ses k.reqId 6 st []) := by
  rw [← taken_isOwner h.1, ← forceOk_of_tblBut (taken_tblBut h.1)]
  exact next_congr (request_admits h 6 _)

theorem tableWrite_waits {tid idx : Nat} {ws : List Word} {ti : TableInfo} (ho : s.isOwner k.ses = true) (ht : tableInfo tid = some ti)
    (hs : tableStatus ti idx ws = .ok) (hf : (tid = 0x2102 ∨ tid = 0x2202) → s.forceOk tid ws = true) :
    exec (.tableWrite k tid idx ws) s = .next ((s.taken k).hold k (.table tid idx ws 0)) := by
  refine (exec_tableWrite h tid idx ws).trans (next_congr ?_)
  simp only [ho, ht, Bool.not_true, Bool.false_eq_true, if_false]
  refine match_ok ?_
  rw [if_neg]
  · exact hs
  · rintro ⟨h1, -, h3⟩
    rw [hf h1] at h3
    exact absurd h3 (by decide)

theorem tableWrite_refused {tid idx : Nat} {ws : List Word} {ti : TableInfo} (ho : s.isOwner k.ses = true) (ht : tableInfo tid = some ti)
    (hs : tableStatus ti idx ws ≠ .ok) :
    exec (.tableWrite k tid idx ws) s = .next ((s.taken k).respond k.ses k.reqId 6 (tableStatus ti idx ws) []) := by
  refine (exec_tableWrite h tid idx ws).trans (next_congr ?_)
  simp only [ho, ht, hs, false_and, and_false, Bool.not_true, Bool.false_eq_true, if_false]

end

/-- Settles O11: what each check of R49 answers, and what none refuses waits. -/
theorem writesWaitForTheTick : Obligations.WritesWaitForTheTick := by
  intro k s h waits refuses
  have hown : ∀ {b : Bool}, s.isOwner k.ses = b → (s.taken k).isOwner k.ses = b := fun ho => (taken_isOwner h.1 _).trans ho
  refine ⟨fun addr v ho hr hv => waits_of_hold h (write_waits h ho hr hv), fun addr v ho => ?_, fun addr v ho ha => ?_,
    fun addr v ho hr ha hv => ?_, fun addr ws ho hr hne h256 hb hv => waits_of_hold h (writeBlock_waits h ho hr hne h256 hb hv),
    fun addr ws ho => ?_, fun addr ws ho hne h256 hb => ?_,
    fun tid ti idx ws ho ht hs hf => waits_of_hold h (tableWrite_waits h ho ht hs hf),
    fun tid ti idx ws ho ht hs => refuses_of_respond h (tableWrite_refused h ho ht hs), fun tid idx ws ho => ?_, fun tid idx ws ho ht => ?_⟩
  · exact refuses_of_respond h (write_refused h (writeStatus_denied (hown ho) _ _) (by decide))
  · exact refuses_of_respond h (write_refused h (writeStatus_badAddr (hown ho) ha) (by decide))
  · refine refuses_of_respond h (write_refused h ?_ hv)
    rw [Nat.mod_eq_of_lt hr, writeStatus_value (hown ho) hr (fun e he => by rw [List.mem_singleton.1 he]; exact ha)]
    exact worst_value _ _
  · refine refuses_of_respond h ((exec_writeBlock h addr ws).trans (next_congr (if_pos ?_)))
    rw [ho]; rfl
  · refine refuses_of_respond h ((exec_writeBlock h addr ws).trans (next_congr ((if_neg ?_).trans (if_pos ?_))))
    · rw [ho]; decide
    · rw [hb]; rfl
  · refine refuses_of_respond h ((exec_tableWrite h tid idx ws).trans (next_congr (if_pos ?_)))
    rw [ho]; rfl
  · refine refuses_of_respond h ((exec_tableWrite h tid idx ws).trans (next_congr ?_))
    simp only [ho, ht, Bool.not_true, Bool.false_eq_true, if_false]

/-! #### CMD (R430) -/

section
variable {s : State} {k : Kwp}

theorem taken_outstanding (h : s.passes k) (i : Nat) (hi : i = k.ses) : (s.taken k).outstanding i = s.outstanding i := by
  subst hi
  unfold State.outstanding
  rw [taken_cmds h, taken_gen h]

theorem taken_standbyOwnSes (h : s.passes k) : (s.taken k).standbyOwnSes k.ses = s.standbyOwnSes k.ses := by
  unfold State.standbyOwnSes State.mstate
  rw [taken_cfg, fld_of_rd (f := ⟨0x0054, 28, 4⟩) (taken_rd h not_hostReg_state)]

/-- The TAG is one of an outstanding command of the session. -/
def State.tagTaken (s : State) (k : Kwp) (tag : Nat) : Bool :=
  s.host.cmds.any (fun c => c.ses == k.ses && c.gen == (s.sess k.ses).gen && c.tag == tag)

theorem tagTaken_iff {tag : Nat} : s.tagTaken k tag = true ↔ ∃ c ∈ s.host.cmds, c.ses = k.ses ∧ c.gen = (s.sess k.ses).gen ∧ c.tag = tag := by
  unfold State.tagTaken
  simp [and_assoc]

/-- What an admitted CMD does, its checks read in the state before it. -/
theorem command_eq (h : s.admits k) (code tag : Nat) (args : List Word) (hsb : s.standbyOwnSes k.ses = false) :
    command k code tag args s =
      if s.isOwner k.ses = false then (s.taken k).respond k.ses k.reqId 7 .denied []
      else if argsFit code args.length = false ∨ s.tagTaken k tag = true then (s.taken k).respond k.ses k.reqId 7 .range []
      else if 64 ≤ s.outstanding k.ses + (s.sess k.ses).cq.length then (s.taken k).respond k.ses k.reqId 7 .busy []
      else ((s.taken k).hostMod (fun h => { h with cmds := h.cmds ++ [⟨k.ses, (s.sess k.ses).gen, tag, code, args, false⟩] })).respond
        k.ses k.reqId 7 .ok [] := by
  unfold command State.tagTaken
  rw [request_admits h 7]
  simp only [taken_isOwner h.1, taken_standbyOwnSes h.1, hsb, taken_outstanding h.1 _ rfl, taken_cmds h.1, taken_gen h.1, taken_cq h.1,
    Bool.not_false, Bool.and_true, Bool.not_eq_true', Bool.or_eq_true]

/-- A command that is accepted is answered at once and joins the others. -/
theorem command_accepted (h : s.admits k) (x : HCmd) :
    let t := ((s.taken k).hostMod (fun h => { h with cmds := h.cmds ++ [x] })).respond k.ses k.reqId 7 .ok []
    s.replied t k 7 .ok [] ∧ t.host.cmds = s.host.cmds ++ [x] ∧ (s.taken k).onlyIn t [.host, .items, .sent] := by
  refine ⟨?_, congrArg (· ++ [x]) (taken_cmds h.1), ?_⟩
  · exact (replies h).1
  · exact onlyIn_trans (onlyIn_mono (hostMod_only _ _) (by decide)) (respond_only _ _ _ _ _ _)

theorem command_refuses (h : s.admits k) (st : Status) :
    let t := (s.taken k).respond k.ses k.reqId 7 st []
    s.replied t k 7 st [] ∧ t.host.cmds = s.host.cmds ∧ (s.taken k).onlyIn t [.host, .items, .sent] :=
  ⟨(replies h).1, (respond_cmds _ _ _ _ _ _).trans (taken_cmds h.1), (replies h).2⟩

end

/-- Settles O12: the four codes share one acceptance, whose checks are taken in their order. -/
theorem commandsAreAcceptedInOrder : Obligations.CommandsAreAcceptedInOrder := by
  intro k tag args s h hsb e he bad refuses
  have hcmd : exec e.1 s = .next (command k e.2 tag args s) := by
    simp only [List.mem_cons, List.not_mem_nil, or_false] at he
    rcases he with rfl | rfl | rfl | rfl <;> rfl
  have hbad : bad ↔ argsFit e.2 args.length = false ∨ s.tagTaken k tag = true := or_congr Iff.rfl tagTaken_iff.symm
  rw [command_eq h e.2 tag args hsb] at hcmd
  refine ⟨fun ho hb hn => ?_, fun ho => ?_, fun ho hb => ?_, fun ho hb hn => ?_⟩
  · rw [if_neg (by rw [ho]; decide), if_neg (fun hc => hb (hbad.2 hc)), if_neg (by omega)] at hcmd
    exact runs_intro hcmd (command_accepted h _)
  · rw [if_pos ho] at hcmd
    exact runs_intro hcmd (command_refuses h .denied)
  · rw [if_neg (by rw [ho]; decide), if_pos (hbad.1 hb)] at hcmd
    exact runs_intro hcmd (command_refuses h .range)
  · rw [if_neg (by rw [ho]; decide), if_neg (fun hc => hb (hbad.2 hc)), if_pos hn] at hcmd
    exact runs_intro hcmd (command_refuses h .busy)

end Sys2Proof.Machine
end

section
/-! ### The session requests and events (R426, R431, R434, R435, R443 to R445) -/

namespace Sys2Proof.Machine

section
variable {s : State} {k : Kwp} (h : s.passes k)
include h

theorem taken_endNext : (s.taken k).host.endNext = s.host.endNext := by
  obtain ⟨-, -, u, rfl, hu⟩ := recvKwp_passes h
  have hend := congrArg HostSt.endNext hu
  exact hend.trans (by simp [State.sessMod, HostSt.still])

theorem taken_leaseAt : (s.taken k).host.leaseAt = s.host.leaseAt := by
  obtain ⟨-, -, u, rfl, hu⟩ := recvKwp_passes h
  have hend := congrArg HostSt.leaseAt hu
  exact hend.trans (by simp [State.sessMod, HostSt.still])

theorem taken_closing : (s.taken k).host.closing = s.host.closing := by
  obtain ⟨-, -, u, rfl, hu⟩ := recvKwp_passes h
  rw [closing_of_still hu]; simp [State.sessMod]

theorem taken_modCnt : ((s.taken k).sess k.ses).modCnt = (s.sess k.ses).modCnt := by
  have hs := congrArg Sess.modCnt (taken_sess h)
  exact hs

theorem taken_pageMask : ((s.taken k).sess k.ses).pageMask = (s.sess k.ses).pageMask := by
  have hs := congrArg Sess.pageMask (taken_sess h)
  exact hs

theorem taken_nseq : ((s.taken k).sess k.ses).nseq = (s.sess k.ses).nseq := by
  have hs := congrArg Sess.nseq (taken_sess h)
  exact hs

theorem taken_says (svc : Bool) (m : OutMsg) : (s.taken k).says svc m = s.says svc m :=
  says_of_rd (taken_rd h not_hostReg_state) (taken_cfg s k) svc m

theorem taken_listed : k.ses < (s.taken k).host.sess.length := sess_lt (taken_st_ne h)

theorem taken_fno : (s.taken k).fno = s.fno := (receipt_taken h).fno h

end

/-- A session with its response kept. -/
def Sess.answered (x : Sess) (r : Resp) : Sess :=
  { x with cache := (r :: x.cache).take 32, inflight := x.inflight.filter (· != r.reqId), txSeq := x.txSeq + 1 }

/-- The session after its response. -/
theorem sess_respond {s : State} {i r op : Nat} {st : Status} {d : List Word} (h : i < s.host.sess.length) :
    (s.respond i r op st d).sess i = (s.sess i).answered ⟨r, op, st, d⟩ := sess_sessMod_same _ _ _ h

/-- A request that changes its own session and is answered. -/
theorem replied_sessMod {s : State} {k : Kwp} (h : s.passes k) {f : Sess → Sess}
    (hf : (f ((s.taken k).sess k.ses)).svc = ((s.taken k).sess k.ses).svc ∧ (f ((s.taken k).sess k.ses)).txSeq = ((s.taken k).sess k.ses).txSeq)
    (op : Nat) (st : Status) (d : List Word) : s.replied (((s.taken k).sessMod k.ses f).respond k.ses k.reqId op st d) k op st d := by
  have hsays : ∀ b m, ((s.taken k).sessMod k.ses f).says b m = (s.taken k).says b m := fun _ _ => rfl
  have hsent : ((s.taken k).sessMod k.ses f).sent = (s.taken k).sent := rfl
  rw [State.replied, respond_sent, sess_sessMod_same _ _ _ (taken_listed h), hf.1, hf.2, taken_svc h, taken_txSeq h, hsays, taken_says h, hsent,
    taken_sent h]

section
variable {s : State} {k : Kwp} (h : s.admits k)
include h

theorem listed_sessMod (f : Sess → Sess) : k.ses < ((s.taken k).sessMod k.ses f).host.sess.length :=
  (taken_listed h.1).trans_eq (modAt_length _ _ _).symm

theorem sess_changed {f : Sess → Sess} {op : Nat} {st : Status} {d : List Word} :
    (((s.taken k).sessMod k.ses f).respond k.ses k.reqId op st d).sess k.ses
      = (f ((s.taken k).sess k.ses)).answered ⟨k.reqId, op, st, d⟩ := by
  rw [sess_respond (listed_sessMod h f), sess_sessMod_same _ _ _ (taken_listed h.1)]

omit h in
theorem onlyIn_changed {f : Sess → Sess} {op : Nat} {st : Status} {d : List Word} :
    (s.taken k).onlyIn (((s.taken k).sessMod k.ses f).respond k.ses k.reqId op st d) [.host, .items, .sent] :=
  onlyIn_trans (onlyIn_mono (sessMod_only _ _ _) (by decide)) (respond_only _ _ _ _ _ _)

theorem cqRead_reads {n : Nat} (h1 : 1 ≤ n) (h16 : n ≤ 16) : runs (.cqRead k n) s (fun t =>
    s.replied t k 8 .ok (BitVec.ofNat 32 ((s.sess k.ses).cq.take n).length :: ((s.sess k.ses).cq.take n).flatten)
      ∧ (t.sess k.ses).cq = (s.sess k.ses).cq.drop n ∧ (s.taken k).onlyIn t [.host, .items, .sent]) := by
  have he : exec (.cqRead k n) s = .next (((s.taken k).sessMod k.ses (fun x => { x with cq := x.cq.drop n })).respond k.ses k.reqId 8 .ok
      (BitVec.ofNat 32 ((s.sess k.ses).cq.take n).length :: ((s.sess k.ses).cq.take n).flatten)) := by
    rw [← taken_cq h.1]
    exact (next_congr (request_admits h 8 _)).trans (next_congr (if_neg (by omega)))
  refine runs_intro he ⟨replied_sessMod h.1 ⟨rfl, rfl⟩ _ _ _, ?_, onlyIn_changed⟩
  rw [sess_changed h]
  exact congrArg (List.drop n) (taken_cq h.1)

theorem cqRead_range {n : Nat} (hn : n = 0 ∨ 16 < n) : runs (.cqRead k n) s (fun t =>
    s.replied t k 8 .range [] ∧ (t.sess k.ses).cq = (s.sess k.ses).cq ∧ (s.taken k).onlyIn t [.host, .items, .sent]) := by
  refine runs_intro ((next_congr (request_admits h 8 _)).trans (next_congr (if_pos hn))) ⟨(replies h).1, ?_, (replies h).2⟩
  rw [sess_respond (taken_listed h.1)]
  exact taken_cq h.1

theorem notifyCfg_acts {cnt dly mask us : Nat} (h1 : 1 ≤ cnt) (h64 : cnt ≤ 64) (hd : dly ≤ 1000000) :
    runs (.notifyCfg k cnt dly mask us) s (fun t =>
      s.replied t k 9 .ok [] ∧ (t.sess k.ses).modCnt = cnt ∧ (t.sess k.ses).modDly = dly ∧ (t.sess k.ses).pageMask = mask
        ∧ (s.taken k).onlyIn t [.host, .items, .sent]) := by
  refine runs_intro ((next_congr (request_admits h 9 _)).trans (next_congr (if_neg (by omega))))
    ⟨replied_sessMod h.1 ⟨rfl, rfl⟩ _ _ _, ?_, ?_, ?_, onlyIn_changed⟩
  · rw [sess_changed h]
    rfl
  · rw [sess_changed h]
    rfl
  · rw [sess_changed h]
    rfl

theorem notifyCfg_range {cnt dly mask us : Nat} (hn : cnt = 0 ∨ 64 < cnt ∨ 1000000 < dly) :
    runs (.notifyCfg k cnt dly mask us) s (fun t =>
      s.replied t k 9 .range [] ∧ (t.sess k.ses).modCnt = (s.sess k.ses).modCnt ∧ (t.sess k.ses).pageMask = (s.sess k.ses).pageMask
        ∧ (s.taken k).onlyIn t [.host, .items, .sent]) := by
  refine runs_intro ((next_congr (request_admits h 9 _)).trans (next_congr (if_pos hn))) ⟨(replies h).1, ?_, ?_, (replies h).2⟩
  · rw [sess_respond (taken_listed h.1)]
    exact taken_modCnt h.1
  · rw [sess_respond (taken_listed h.1)]
    exact taken_pageMask h.1

end

/-! DORMANT, RESUME and CLOSE. -/

/-- What a change of the host block beside its sessions leaves of a response. -/
theorem respond_hostMod (u : State) (f : HostSt → HostSt) (hf : ∀ x, (f x).sess = x.sess) (i r op : Nat) (st : Status) (d : List Word) :
    ((u.hostMod f).respond i r op st d).sent = (u.respond i r op st d).sent
      ∧ ∀ j, ((u.hostMod f).respond i r op st d).sess j = (u.respond i r op st d).sess j := by
  have hs : ∀ j, (u.hostMod f).sess j = u.sess j := fun j => congrArg (·.getD j Sess.free) (hf u.host)
  refine ⟨?_, fun j => ?_⟩
  · rw [respond_sent, respond_sent, hs]
    rfl
  · exact congrArg (fun l => (modAt l i _).getD j Sess.free) (hf u.host)

section
variable {s : State} {k : Kwp} (h : s.admits k)
include h

/-- The session is dormant. -/
theorem dormant_sleeps (sev mac : Nat) : runs (.dormant k sev mac) s (fun t =>
    s.replied t k 14 .ok [] ∧ (t.sess k.ses).st = 3 ∧ (t.sess k.ses).wakeSev = sev ∧ (t.sess k.ses).hostMac = mac
      ∧ t.host.owner = s.host.owner
      ∧ (s.isOwner k.ses = true → s.fld ⟨0xB054, 16, 16⟩ = 0 → t.host.endNext = true)
      ∧ (s.isOwner k.ses = false → t.host.endNext = s.host.endNext)
      ∧ (s.taken k).onlyIn t [.host, .items, .sent]) := by
  let f : Sess → Sess := fun x => { x with st := 3, since := (s.taken k).fno, wakeSev := sev, hostMac := mac }
  have hdorm : (s.taken k).fld ⟨0xB054, 16, 16⟩ = s.fld ⟨0xB054, 16, 16⟩ :=
    fld_of_rd (taken_rd h.1 (by unfold hostReg evReg; decide))
  have he : exec (.dormant k sev mac) s = .next ((if s.isOwner k.ses && s.fld ⟨0xB054, 16, 16⟩ == 0 then
      ((s.taken k).sessMod k.ses f).hostMod (fun h => { h with endNext := true }) else (s.taken k).sessMod k.ses f).respond
        k.ses k.reqId 14 .ok []) := by
    rw [← hdorm, ← taken_isOwner h.1]
    exact next_congr (request_admits h 14 _)
  have hrep := replied_sessMod h.1 (f := f) ⟨rfl, rfl⟩ 14 .ok []
  have hsess := sess_changed h (f := f) (op := 14) (st := .ok) (d := [])
  have honly := onlyIn_changed (s := s) (k := k) (f := f) (op := 14) (st := .ok) (d := [])
  by_cases hend : (s.isOwner k.ses && s.fld ⟨0xB054, 16, 16⟩ == 0) = true
  · rw [if_pos hend] at he
    obtain ⟨hs1, hs2⟩ := respond_hostMod ((s.taken k).sessMod k.ses f) (fun h => { h with endNext := true }) (fun _ => rfl) k.ses k.reqId 14 .ok []
    refine runs_intro he ⟨?_, ?_, ?_, ?_, taken_owner h.1, fun _ _ => rfl, fun ho => ?_, ?_⟩
    · rw [State.replied, hs1]
      exact hrep
    · rw [hs2, hsess]
      rfl
    · rw [hs2, hsess]
      rfl
    · rw [hs2, hsess]
      rfl
    · rw [ho] at hend
      exact absurd hend (by simp)
    · exact onlyIn_trans (onlyIn_mono (sessMod_only _ _ _) (by decide))
        (onlyIn_trans (onlyIn_mono (hostMod_only _ _) (by decide)) (respond_only _ _ _ _ _ _))
  · rw [if_neg hend] at he
    refine runs_intro he ⟨hrep, ?_, ?_, ?_, taken_owner h.1, fun ho h0 => ?_, fun _ => taken_endNext h.1, honly⟩
    · rw [hsess]
      rfl
    · rw [hsess]
      rfl
    · rw [hsess]
      rfl
    · exact absurd (by simp [ho, h0]) hend

end

/-- What leaves of a NOTIFY, and the session after it. -/
theorem sendNotify_sends (s : State) (i : Nat) (agg : Bool) (hi : i < s.host.sess.length) :
    (∃ lost src codes, (sendNotify i agg s).sent = s.sent ++ s.says (s.sess i).svc
        (.notify i (s.sess i).txSeq (((s.sess i).nseq + 1) % 2 ^ 32) agg lost (s.sess i).cq.length src s.fno codes))
      ∧ (sendNotify i agg s).sess i = { s.sess i with nseq := ((s.sess i).nseq + 1) % 2 ^ 32, txSeq := (s.sess i).txSeq + 1, items := [], woke := 0 }
      ∧ (sendNotify i agg s).host.sess.length = s.host.sess.length ∧ (sendNotify i agg s).host.leaseAt = s.host.leaseAt
      ∧ (∀ b m, (sendNotify i agg s).says b m = s.says b m) := by
  let f : Sess → Sess := fun x => { x with nseq := (x.nseq + 1) % 2 ^ 32, txSeq := x.txSeq + 1, items := [], woke := 0 }
  have hsays : ∀ b m, ((s.sessMod i f).bump .HOST_NOTIFY).says b m = s.says b m := fun b m =>
    says_of_rd (s := s) (t := (s.sessMod i f).bump .HOST_NOTIFY) ((rd_bump (c := .HOST_NOTIFY) (by decide) (by decide)).trans (rd_sessMod ..)) (by simp) b m
  have hsent : ((s.sessMod i f).bump .HOST_NOTIFY).sent = s.sent := by simp
  have hhost : ((s.sessMod i f).bump .HOST_NOTIFY).host = (s.sessMod i f).host := host_bump ..
  refine ⟨⟨_, _, _, congrArg₂ (· ++ ·) hsent (hsays _ _)⟩, ?_, ?_, ?_, hsays⟩
  · exact (congrArg (fun x : HostSt => x.sess.getD i Sess.free) hhost).trans (sess_sessMod_same _ _ _ hi)
  · exact (congrArg (fun x : HostSt => x.sess.length) hhost).trans (modAt_length _ _ _)
  · have hl := congrArg HostSt.leaseAt hhost
    exact hl

theorem resume_wakes {s : State} {k : Kwp} (h : s.admits k) (us : Nat) : runs (.resume k us) s (fun t =>
    (∃ n, t.sent = s.sent ++ s.says k.svc n ++ s.says k.svc (.resp k.ses ((s.sess k.ses).txSeq + 1) ⟨k.reqId, 15, .ok, []⟩)
      ∧ ∃ nseq lost cq src fno codes, n = .notify k.ses (s.sess k.ses).txSeq nseq true lost cq src fno codes
        ∧ nseq = ((s.sess k.ses).nseq + 1) % 2 ^ 32 ∧ cq = (s.sess k.ses).cq.length)
      ∧ (t.sess k.ses).st = 2 ∧ (t.sess k.ses).items = []
      ∧ (s.isOwner k.ses = true → t.host.leaseAt = s.fno) ∧ (s.isOwner k.ses = false → t.host.leaseAt = s.host.leaseAt)) := by
  let u := (s.taken k).sessMod k.ses (fun x => { x with st := 2 })
  let g : Sess → Sess := fun x => { x with oldestAt := (s.taken k).usAt us }
  have hu : u.sess k.ses = { (s.taken k).sess k.ses with st := 2 } := sess_sessMod_same _ _ _ (taken_listed h.1)
  have hsvc : (u.sess k.ses).svc = k.svc := by rw [hu]; exact taken_svc h.1
  have htx : (u.sess k.ses).txSeq = (s.sess k.ses).txSeq := by rw [hu]; exact taken_txSeq h.1
  have hseq : (u.sess k.ses).nseq = (s.sess k.ses).nseq := by rw [hu]; exact taken_nseq h.1
  have hcq : (u.sess k.ses).cq = (s.sess k.ses).cq := by rw [hu]; exact taken_cq h.1
  have husays : ∀ b m, u.says b m = s.says b m := taken_says h.1
  have husent : u.sent = s.sent := taken_sent h.1
  obtain ⟨⟨lost, src, codes, hn⟩, hs, hlen, hlease, hsays⟩ := sendNotify_sends u k.ses true (listed_sessMod h _)
  rw [hsvc, htx, hseq, hcq, husays, husent] at hn
  have hl : k.ses < (sendNotify k.ses true u).host.sess.length := hlen ▸ listed_sessMod h _
  obtain ⟨v, hv⟩ : ∃ v, v = (sendNotify k.ses true u).sessMod k.ses g := ⟨_, rfl⟩
  have hvs : v.sess k.ses = g ((sendNotify k.ses true u).sess k.ses) := hv ▸ sess_sessMod_same _ _ _ hl
  have hvl : k.ses < v.host.sess.length := by
    rw [hv]
    exact hl.trans_eq (modAt_length _ _ _).symm
  have hvsays : ∀ b m, v.says b m = s.says b m := fun b m => by
    rw [hv]
    exact (hsays b m).trans (husays b m)
  have hvsent : v.sent = (sendNotify k.ses true u).sent := by rw [hv]; rfl
  have hvlease : v.host.leaseAt = s.host.leaseAt := by
    rw [hv]
    exact hlease.trans (taken_leaseAt h.1)
  have he : exec (.resume k us) s = .next ((if s.isOwner k.ses then v.hostMod (fun x => { x with leaseAt := s.fno }) else v).respond
      k.ses k.reqId 15 .ok []) := by
    rw [← taken_isOwner h.1, ← taken_fno h.1, hv]
    exact next_congr (request_admits h 15 _)
  have hresp : (v.respond k.ses k.reqId 15 .ok []).sent = s.sent ++ s.says k.svc (.notify k.ses (s.sess k.ses).txSeq
      (((s.sess k.ses).nseq + 1) % 2 ^ 32) true lost (s.sess k.ses).cq.length src u.fno codes)
      ++ s.says k.svc (.resp k.ses ((s.sess k.ses).txSeq + 1) ⟨k.reqId, 15, .ok, []⟩) := by
    rw [respond_sent, hvsent, hn, hvsays, hvs, hs]
    show _ ++ s.says (u.sess k.ses).svc (.resp k.ses ((u.sess k.ses).txSeq + 1) _) = _
    rw [hsvc, htx]
  have hsess : ((v.respond k.ses k.reqId 15 .ok []).sess k.ses).st = 2 ∧ ((v.respond k.ses k.reqId 15 .ok []).sess k.ses).items = [] := by
    rw [sess_respond hvl, hvs, hs, hu]
    exact ⟨rfl, rfl⟩
  cases ho : s.isOwner k.ses with
  | true =>
    rw [if_pos ho] at he
    obtain ⟨hr1, hr2⟩ := respond_hostMod v (fun x => { x with leaseAt := s.fno }) (fun _ => rfl) k.ses k.reqId 15 .ok []
    refine runs_intro he ⟨⟨_, hr1.trans hresp, _, _, _, _, _, _, rfl, rfl, rfl⟩, ?_, ?_, fun _ => rfl, fun hc => absurd hc (by decide)⟩
    · rw [hr2]
      exact hsess.1
    · rw [hr2]
      exact hsess.2
  | false =>
    rw [if_neg (Bool.eq_false_iff.1 ho)] at he
    exact runs_intro he ⟨⟨_, hresp, _, _, _, _, _, _, rfl, rfl, rfl⟩, hsess.1, hsess.2, fun hc => absurd hc (by decide), fun _ => hvlease⟩

/-! What closing a session does. -/

theorem sess_st_of_still {s t : State} (h : t.host.still = s.host.still) (i : Nat) : (t.sess i).st = (s.sess i).st := by
  have hs := congrArg Sess.st (sess_of_still h i)
  exact hs

/-- What a session's end leaves: its number is free, and where it was the owner's no session is the owner. -/
theorem closeSess_closes (s : State) (i : Nat) :
    ((s.closeSess i).sess i).st = 0 ∧ (∀ j, j ≠ i → ((s.closeSess i).sess j).st = (s.sess j).st)
      ∧ ((s.sess i).st ≠ 0 → s.host.owner = some i → (s.closeSess i).host.closing = true)
      ∧ (s.host.owner ≠ some i → (s.closeSess i).host.closing = s.host.closing)
      ∧ ((s.sess i).st ≠ 0 → (s.sess i).st ≠ 1 → (s.closeSess i).bit (bitAt 0xB010 4) = true) := by
  unfold State.closeSess
  extract_lets x f s1 s2
  by_cases h0 : x.st = 0
  · rw [if_pos h0]
    exact ⟨h0, fun _ _ => rfl, fun hn => absurd h0 hn, fun _ => rfl, fun hn => absurd h0 hn⟩
  rw [if_neg h0]
  have h1 : s1.sess i = { Sess.free with gen := x.gen } := sess_sessMod_same s i (fun _ => { Sess.free with gen := x.gen }) (sess_lt h0)
  have h1' : ∀ j, j ≠ i → s1.sess j = s.sess j := fun j hj => sess_sessMod_ne _ _ _ _ hj
  have h2 : ∀ j, s2.sess j = s1.sess j := fun j => by
    unfold s2
    split
    · rfl
    · rfl
  have hc1 : s.host.owner = some i → s2.host.closing = true := fun ho => by
    unfold s2
    rw [if_pos ho]
    rfl
  have hc2 : s.host.owner ≠ some i → s2.host.closing = s.host.closing := fun ho => by
    unfold s2
    rw [if_neg ho]
    rfl
  have hstill : ∀ u : State, (if x.st = 1 then u else u.raiseEv 0x0B 4).host.still = u.host.still := fun u => by
    split
    · rfl
    · exact still_raiseEv u _ _
  refine ⟨?_, fun j hj => ?_, fun _ ho => ?_, fun ho => ?_, fun _ hn => ?_⟩
  · rw [sess_st_of_still (hstill s2), h2, h1]
    rfl
  · rw [sess_st_of_still (hstill s2), h2, h1' j hj]
  · rw [closing_of_still (hstill s2)]
    exact hc1 ho
  · rw [closing_of_still (hstill s2)]
    exact hc2 ho
  · rw [if_neg hn]
    exact bit_raiseEv_self (by decide) (by decide) (by decide) rfl

theorem closeReq_closes {s : State} {k : Kwp} (h : s.admits k) : runs (.closeReq k) s (fun t =>
    s.replied t k 16 .ok [] ∧ (t.sess k.ses).st = 0 ∧ t.bit (bitAt 0xB010 4) = true
      ∧ (s.host.owner = some k.ses → t.host.closing = true) ∧ (s.host.owner ≠ some k.ses → t.host.closing = s.host.closing)) := by
  obtain ⟨u, hu⟩ : ∃ u, u = (s.taken k).respond k.ses k.reqId 16 .ok [] := ⟨_, rfl⟩
  have he : exec (.closeReq k) s = .next (u.closeSess k.ses) := hu ▸ next_congr (request_admits h 16 _)
  have hst : (u.sess k.ses).st = if (s.sess k.ses).st = 1 then 2 else (s.sess k.ses).st := by
    rw [hu, sess_respond (taken_listed h.1)]
    exact taken_st h.1
  have hne := h.1.2.2.2.2.1
  have h0 : (u.sess k.ses).st ≠ 0 := by
    rw [hst]
    split <;> omega
  have h1 : (u.sess k.ses).st ≠ 1 := by
    rw [hst]
    split <;> omega
  have ho : u.host.owner = s.host.owner := by
    rw [hu]
    exact taken_owner h.1
  have hcl : u.host.closing = s.host.closing := by
    rw [hu]
    exact taken_closing h.1
  have hsent : (u.closeSess k.ses).sent = u.sent := (closeSess_keeps (Keeps.refl _ u) (List.Subset.refl _)).only .sent (by decide)
  obtain ⟨c1, -, c3, c4, c5⟩ := closeSess_closes u k.ses
  refine runs_intro he ⟨?_, c1, c5 h0 h1, fun hw => c3 h0 (ho.trans hw), fun hw => (c4 (fun hc => hw (ho.symm.trans hc))).trans hcl⟩
  rw [State.replied, hsent, hu]
  exact (replies h).1

/-! The session events. -/

theorem kick_own {s : State} {w : Nat} (h : s.fld ⟨0xB048, 0, 3⟩ = w) : exec (.kick w) s = .next s :=
  next_congr (congrArg Prod.fst (if_pos h : kick w s = (s, .refused)))

theorem kick_closes {s : State} {w : Nat} (h : s.fld ⟨0xB048, 0, 3⟩ ≠ w) : runs (.kick w) s (fun t =>
    (t.sess (s.fld ⟨0xB048, 0, 3⟩)).st = 0 ∧ ∀ j, j ≠ s.fld ⟨0xB048, 0, 3⟩ → (t.sess j).st = (s.sess j).st) := by
  obtain ⟨c1, c2, -⟩ := closeSess_closes s (s.fld ⟨0xB048, 0, 3⟩)
  exact runs_intro (next_congr (congrArg Prod.fst (if_neg h : kick w s = (s.closeSess (s.fld ⟨0xB048, 0, 3⟩), .ok)))) ⟨c1, c2⟩

theorem notifySend_sends {s : State} {i us : Nat} (hst : (s.sess i).st = 2) (hit : (s.sess i).items ≠ [])
    (hdue : (s.sess i).modCnt ≤ (s.sess i).items.length ∨ (s.sess i).modDly ≤ s.usAt us - (s.sess i).oldestAt) :
    runs (.notifySend i us) s (fun t => (t.sess i).items = [] ∧ (t.sess i).nseq = ((s.sess i).nseq + 1) % 2 ^ 32
      ∧ (∃ lost src codes, t.sent = s.sent ++ s.says (s.sess i).svc
          (.notify i (s.sess i).txSeq (((s.sess i).nseq + 1) % 2 ^ 32) false lost (s.sess i).cq.length src s.fno codes))
      ∧ t.fld ⟨0xB118, 0, 32⟩ = (s.fld ⟨0xB118, 0, 32⟩ + 1) % 2 ^ 32 ∧ s.onlyIn t [.regs, .host, .items, .sent]) := by
  have he : exec (.notifySend i us) s = .next (sendNotify i false s) := next_congr (if_pos ⟨hst, hit, hdue⟩)
  obtain ⟨hsent, hs, -⟩ := sendNotify_sends s i false (sess_lt (by rw [hst]; decide))
  refine runs_intro he ⟨by rw [hs], by rw [hs], hsent, ?_, onlyIn_exec he (List.Subset.refl _)⟩
  exact (fld_bump_wraps (c := .HOST_NOTIFY) rfl (by decide)).trans (by rw [fld_sessMod]; rfl)

theorem notifySend_idles {s : State} {i us : Nat} (h : (s.sess i).st ≠ 2 ∨ (s.sess i).items = []) : exec (.notifySend i us) s = .next s :=
  next_congr (if_neg fun ⟨h1, h2, _⟩ => h.elim (fun hn => hn h1) h2)

section
variable {s : State} {i : Nat}

/-- The items of a dormant session that its host has not been woken for. -/
def State.woken (s : State) (i : Nat) : State := s.sessMod i (fun x => { x with woke := x.items.length })

theorem wakeOnLan_wakes (hst : (s.sess i).st = 3) (hsev : (s.sess i).wakeSev ≤ 7)
    (hhit : ∃ c, .event c ∈ (s.sess i).items.drop (s.sess i).woke ∧ (s.sess i).wakeSev ≤ s.severity c)
    (hfree : ∀ f, (s.sess i).wolLast = some f → s.fld ⟨0xB058, 0, 16⟩ * 1000 ≤ s.since f) :
    runs (.wakeOnLan i) s (fun t => t.sent = s.sent ++ s.says (s.sess i).svc (.wol i (s.sess i).hostMac) ∧ (t.sess i).wolLast = some s.fno
      ∧ s.onlyIn t [.regs, .host, .items, .sent]) := by
  have hlist := sess_lt (s := s) (i := i) (by rw [hst]; decide)
  have hw : (s.woken i).fno = s.fno := rfl
  have hhit' : ((s.sess i).items.drop (s.sess i).woke).any (fun it => match it with
      | .event c => decide ((s.sess i).wakeSev ≤ s.severity c) | _ => false) = true := by
    obtain ⟨c, hc, hcs⟩ := hhit
    exact List.any_eq_true.2 ⟨_, hc, by simpa using hcs⟩
  have hfree' : (match (s.sess i).wolLast with
      | none => true
      | some f => decide (s.fld ⟨0xB058, 0, 16⟩ * 1000 ≤ s.since f)) = true := by
    split
    · rfl
    · rename_i f hf
      simpa using hfree f hf
  obtain ⟨u, hu⟩ : ∃ u, u = ((s.woken i).sessMod i (fun x => { x with wolLast := some s.fno })).bump .HOST_WOL := ⟨_, rfl⟩
  have he : exec (.wakeOnLan i) s = .next (u.say (s.sess i).svc (.wol i (s.sess i).hostMac)) := by
    rw [hu]
    exact next_congr ((if_pos hst).trans (if_pos (And.intro hsev (And.intro hhit' hfree'))))
  have husays : ∀ b m, u.says b m = s.says b m := fun b m => by
    rw [hu]
    exact says_of_rd ((rd_bump (c := .HOST_WOL) (by decide) (by decide)).trans rfl) (by simp [State.woken]) b m
  have husent : u.sent = s.sent := by rw [hu]; simp [State.woken]
  refine runs_intro he ⟨congrArg₂ (· ++ ·) husent (husays _ _), ?_, onlyIn_exec he (List.Subset.refl _)⟩
  show (u.sess i).wolLast = _
  rw [hu, sess_bump, sess_sessMod_same _ _ _ (hlist.trans_eq (modAt_length _ _ _).symm)]

theorem wakeOnLan_idles (hst : (s.sess i).st ≠ 3) : exec (.wakeOnLan i) s = .next s := next_congr (if_neg hst)

theorem wakeOnLan_silent (hst : (s.sess i).st = 3) (hsev : 8 ≤ (s.sess i).wakeSev) :
    runs (.wakeOnLan i) s (fun t => t.sent = s.sent ∧ s.onlyIn t [.host, .items]) := by
  have he : exec (.wakeOnLan i) s = .next (s.woken i) := next_congr ((if_pos hst).trans (if_neg fun ⟨hc, _⟩ => absurd hc (by omega)))
  exact runs_intro he ⟨rfl, sessMod_only _ _ _⟩

end

/-- Settles O13: the session requests on the state that their receipt leaves, and the session events. -/
theorem sessionRequestsAct : Obligations.SessionRequestsAct :=
  ⟨fun _ _ h => ⟨fun _ h1 h16 => cqRead_reads h h1 h16, fun _ hn => cqRead_range h hn, fun _ _ _ _ h1 h64 hd => notifyCfg_acts h h1 h64 hd,
      fun _ _ _ _ hn => notifyCfg_range h hn, dormant_sleeps h, resume_wakes h, closeReq_closes h⟩,
    fun _ => ⟨fun _ => kick_own, fun _ => kick_closes, fun _ _ => notifySend_sends, fun _ _ => notifySend_idles, fun _ => wakeOnLan_wakes,
      fun _ => wakeOnLan_idles, fun _ => wakeOnLan_silent⟩⟩

end Sys2Proof.Machine
end

section
/-! ### Sessions open and time out (R425, R426, R443) -/

namespace Sys2Proof.Machine

section
variable {s : State} {o : KwpOpen}

/-- The state on which an OPEN is answered: it is counted and its nonce remembered. -/
def State.noted (s : State) (o : KwpOpen) : State := (s.bump .HOST_RX_OK).addNonce o.cred o.hNonce

theorem sess_noted (s : State) (o : KwpOpen) : (s.noted o).host.sess = s.host.sess := by
  have h := congrArg HostSt.sess (host_bump s .HOST_RX_OK)
  exact h

theorem says_noted (s : State) (o : KwpOpen) (svc : Bool) (m : OutMsg) : (s.noted o).says svc m = s.says svc m :=
  says_of_rd (s := s) (t := s.noted o) (rd_bump (c := .HOST_RX_OK) (by decide) (by decide)) (cfg_bump ..) svc m

theorem sent_noted (s : State) (o : KwpOpen) : (s.noted o).sent = s.sent := sent_bump ..

theorem addrKind_noted (s : State) (o : KwpOpen) (svc : Bool) : (s.noted o).addrKind svc = s.addrKind svc := by
  unfold State.addrKind State.noted State.addNonce
  simp

theorem freeSess_noted (s : State) (o : KwpOpen) (svc : Bool) : (s.noted o).freeSess svc = s.freeSess svc := by
  have hsess : ∀ i, (s.noted o).sess i = s.sess i := fun i => congrArg (·.getD i Sess.free) (sess_noted s o)
  have hcfg : (s.noted o).cfg = s.cfg := cfg_bump ..
  unfold State.freeSess State.sesRange
  simp only [hsess, hcfg]

theorem fno_noted (s : State) (o : KwpOpen) : (s.noted o).fno = s.fno := by
  have hst : (s.noted o).fld ⟨0x0054, 28, 4⟩ = s.fld ⟨0x0054, 28, 4⟩ := fld_bump_apart (by decide) (by decide)
  have hown : (s.noted o).fld (wordAt 0x604C) = s.fld (wordAt 0x604C) := fld_bump_apart (by decide) (by decide)
  have htwin : (s.noted o).twin = s.twin := twin_bump ..
  unfold State.fno State.ownFno State.recRun
  rw [hst, hown, htwin]

theorem noted_only (s : State) (o : KwpOpen) : s.onlyIn (s.noted o) [.regs, .host, .items, .sent] :=
  (addNonce_keeps (bump_keeps (Keeps.refl _ s) (by decide)) (by decide)).only

theorem noted_nonce (s : State) (o : KwpOpen) : o.hNonce ∈ (s.noted o).noncesOf o.cred := by
  refine List.mem_map.2 ⟨(o.cred, o.hNonce), List.mem_filter.2 ⟨?_, beq_self_eq_true _⟩, rfl⟩
  exact List.mem_append_left _ (List.mem_cons_self ..)

/-- An OPEN that is answered and opens nothing. -/
theorem kwpOpen_answered {st : Status}
    (he : exec (.kwpOpen o) s = .next ((s.noted o).say o.svc (.openAck st 0xFF o.hNonce o.dNonce (s.addrKind o.svc)))) :
    runs (.kwpOpen o) s (fun t => t.sent = s.sent ++ s.says o.svc (.openAck st 0xFF o.hNonce o.dNonce (s.addrKind o.svc))
      ∧ s.onlyIn t [.regs, .host, .items, .sent] ∧ t.host.sess = s.host.sess) :=
  runs_intro he ⟨congrArg₂ (· ++ ·) (sent_noted s o) (says_noted s o _ _),
    onlyIn_trans (noted_only s o) (onlyIn_mono (say_only _ _ _) (by decide)), sess_noted s o⟩

variable (ha : s.addressed o.port o.svc = true) (hf : o.fmtOk = true) (hp : s.portOn o.port = true) (ht : o.tagOk = true)
  (hc : s.credOk o.cred = true)
include ha hf hp ht hc

/-- What an OPEN that has passed R423 does. -/
theorem kwpOpen_passes : ∃ t, exec (.kwpOpen o) s = .next t ∧ t = (if (s.noncesOf o.cred).contains o.hNonce then s.bump .HOST_RX_OK
    else if !s.bit (bitAt 0xB040 3) then (s.noted o).say o.svc (.openAck .refused 0xFF o.hNonce o.dNonce (s.addrKind o.svc))
    else match s.freeSess o.svc with
      | none => (s.noted o).say o.svc (.openAck .busy 0xFF o.hNonce o.dNonce (s.addrKind o.svc))
      | some i => (s.noted o).openSess o i) := by
  refine ⟨_, rfl, ?_⟩
  rw [← freeSess_noted s o]
  refine ((if_neg (by rw [ha]; decide)).trans ((if_neg (by rw [hf, hp]; decide)).trans ((if_neg (by rw [ht, hc]; decide)).trans ?_)))
  rfl

theorem kwpOpen_known (hn : o.hNonce ∈ s.noncesOf o.cred) : exec (.kwpOpen o) s = .next (s.bump .HOST_RX_OK) := by
  obtain ⟨t, he, hte⟩ := kwpOpen_passes ha hf hp ht hc
  exact he.trans (next_congr (hte.trans (if_pos (List.contains_iff_mem.2 hn))))

theorem kwpOpen_refused (hn : o.hNonce ∉ s.noncesOf o.cred) (h3 : s.bit (bitAt 0xB040 3) = false) :
    exec (.kwpOpen o) s = .next ((s.noted o).say o.svc (.openAck .refused 0xFF o.hNonce o.dNonce (s.addrKind o.svc))) := by
  obtain ⟨t, he, hte⟩ := kwpOpen_passes ha hf hp ht hc
  refine he.trans (next_congr (hte.trans ((if_neg fun h => hn (List.contains_iff_mem.1 h)).trans (if_pos ?_))))
  rw [h3]; rfl

theorem kwpOpen_served (hn : o.hNonce ∉ s.noncesOf o.cred) (h3 : s.bit (bitAt 0xB040 3) = true) (r : Option Nat) : s.freeSess o.svc = r →
    exec (.kwpOpen o) s = .next (match r with
      | none => (s.noted o).say o.svc (.openAck .busy 0xFF o.hNonce o.dNonce (s.addrKind o.svc))
      | some i => (s.noted o).openSess o i) := by
  obtain ⟨t, he, hte⟩ := kwpOpen_passes ha hf hp ht hc
  rintro rfl
  rw [h3] at hte
  exact he.trans (next_congr (hte.trans (if_neg fun h => hn (List.contains_iff_mem.1 h))))

end

theorem freeSess_lt {s : State} {svc : Bool} {i : Nat} (h : s.freeSess svc = some i) : i < 8 := by
  have hmem : i ∈ s.sesRange svc := List.mem_of_find?_eq_some h
  unfold State.sesRange at hmem
  split at hmem
  · split at hmem <;> (simp only [List.mem_cons, List.not_mem_nil, or_false] at hmem; omega)
  · simp only [List.mem_cons, List.not_mem_nil, or_false] at hmem
    omega

/-- What a session looks like that an OPEN has opened. -/
theorem openSess_opens (u : State) (o : KwpOpen) {i : Nat} (hi : i < u.host.sess.length) :
    (u.openSess o i).sent = u.sent ++ u.says o.svc (.openAck .ok i o.hNonce o.dNonce (u.addrKind o.svc)) ∧ ((u.openSess o i).sess i).st = 1
      ∧ ((u.openSess o i).sess i).cred = o.cred ∧ ((u.openSess o i).sess i).port = o.port ∧ ((u.openSess o i).sess i).svc = o.svc
      ∧ ((u.openSess o i).sess i).since = u.fno ∧ (u.openSess o i).host.nonces = u.host.nonces
      ∧ ∀ j, j ≠ i → (u.openSess o i).sess j = u.sess j := by
  have hs : (u.openSess o i).sess i = { Sess.free with st := 1, gen := u.host.opens + 1, cred := o.cred, port := o.port, svc := o.svc, since := u.fno, lastRx := u.fno, txSeq := 1, hostId := u.trd 0x0B00 o.cred 1 } :=
    sess_sessMod_same (u.hostMod (fun h => { h with opens := u.host.opens + 1 })) i (fun _ => { Sess.free with st := 1, gen := u.host.opens + 1, cred := o.cred, port := o.port, svc := o.svc, since := u.fno, lastRx := u.fno, txSeq := 1, hostId := u.trd 0x0B00 o.cred 1 }) hi
  refine ⟨rfl, ?_, ?_, ?_, ?_, ?_, rfl, fun j hj => sess_sessMod_ne (u.hostMod (fun h => { h with opens := u.host.opens + 1 })) _ _ _ hj⟩
  all_goals rw [hs]

/-! The timeouts. -/

theorem closeSess_sent (s : State) (i : Nat) : (s.closeSess i).sent = s.sent :=
  (closeSess_keeps (Keeps.refl _ s) (List.Subset.refl _)).only .sent (by decide)

/-- A session that has not been opened ends without an event. -/
theorem closeSess_opening {s : State} {i : Nat} (h : (s.sess i).st = 1) : (s.closeSess i).regs = s.regs := by
  unfold State.closeSess
  extract_lets x f s1 s2
  rw [if_neg (by rw [h]; decide), if_pos h]
  unfold s2
  split <;> rfl

theorem closeSess_timedOut {s : State} {i : Nat} (h : 2 ≤ (s.sess i).st) : ((s.closeSess i).sess i).st = 0
    ∧ (s.closeSess i).bit (bitAt 0xB010 4) = true ∧ (s.closeSess i).sent = s.sent
    ∧ (s.host.owner = some i → (s.closeSess i).host.closing = true) := by
  obtain ⟨h0, -, hown, -, hev⟩ := closeSess_closes s i
  exact ⟨h0, hev (by omega) (by omega), closeSess_sent s i, hown (by omega)⟩

theorem not_and_of_lt {p : Prop} {a b : Nat} (h : ¬ p ∨ b < a) : ¬ (p ∧ a ≤ b) := fun ⟨h1, h2⟩ => h.elim (fun hn => hn h1) (by omega)

/-- Settles O16: the answers to an OPEN that has passed R423, and the three timeouts. -/
theorem sessionsOpenAndTimeOut : Obligations.SessionsOpenAndTimeOut := by
  refine ⟨fun o s ha hf hp ht hc => ⟨kwpOpen_known ha hf hp ht hc, fun hn h3 => kwpOpen_answered (kwpOpen_refused ha hf hp ht hc hn h3),
    fun hn h3 hfree => kwpOpen_answered (kwpOpen_served ha hf hp ht hc hn h3 _ hfree), fun i hn h3 hfree hlen => ?_⟩,
    fun i s => ⟨fun h1 h2 => ?_, fun h => ?_, fun h1 h2 => ?_, fun h => ?_, fun h1 h2 => ?_, fun h => ?_⟩⟩
  · have he : exec (.kwpOpen o) s = .next ((s.noted o).openSess o i) := kwpOpen_served ha hf hp ht hc hn h3 _ hfree
    have hi : i < (s.noted o).host.sess.length := by
      rw [sess_noted, hlen]
      exact freeSess_lt hfree
    obtain ⟨hsent, h1, h2, h4, h5, h6, hnonce, hj⟩ := openSess_opens (s.noted o) o hi
    rw [sent_noted, says_noted, addrKind_noted] at hsent
    refine runs_intro he ⟨hsent, h1, h2, h4, h5, h6.trans (fno_noted s o), ?_, fun j hne => (hj j hne).trans (congrArg (·.getD j Sess.free) (sess_noted s o)),
      onlyIn_trans (noted_only s o) (openSess_keeps (Keeps.refl _ _) (by decide)).only⟩
    unfold State.noncesOf
    rw [hnonce]
    exact noted_nonce s o
  · exact runs_intro (next_congr (if_pos ⟨h1, h2⟩)) ⟨(closeSess_closes s i).1, closeSess_opening h1, closeSess_sent s i⟩
  · exact next_congr (if_neg (not_and_of_lt h))
  · exact runs_intro (next_congr (if_pos ⟨h1, h2⟩)) (closeSess_timedOut (by omega))
  · exact next_congr (if_neg (not_and_of_lt h))
  · exact runs_intro (next_congr (if_pos ⟨h1, h2⟩)) (closeSess_timedOut (by omega))
  · exact next_congr (if_neg (not_and_of_lt h))

end Sys2Proof.Machine
end

section
/-! ### Ownership at the tick (R438 to R443) -/

namespace Sys2Proof.Machine

/-! The best request. -/

/-- `c` goes before `e`: a higher PRIO, or the same PRIO and no higher session number. -/
def beats (c e : HReq × Nat) : Prop := e.2 < c.2 ∨ (e.2 = c.2 ∧ c.1.ses ≤ e.1.ses)

theorem beats_refl (c : HReq × Nat) : beats c c := .inr ⟨rfl, le_refl _⟩

theorem beats_trans {a b c : HReq × Nat} (h : beats a b) (h' : beats b c) : beats a c := by
  unfold beats at *
  omega

/-- The better of two requests, the earlier on a full tie. -/
def better (b : Option (HReq × Nat)) (q : HReq × Nat) : Option (HReq × Nat) :=
  match b with
  | none => some q
  | some c => if c.2 < q.2 ∨ (c.2 = q.2 ∧ q.1.ses < c.1.ses) then some q else some c

theorem better_some (c q : HReq × Nat) : ∃ r, better (some c) q = some r ∧ (r = c ∨ r = q) ∧ beats r c ∧ beats r q := by
  by_cases h : c.2 < q.2 ∨ (c.2 = q.2 ∧ q.1.ses < c.1.ses)
  · exact ⟨q, if_pos h, .inr rfl, by unfold beats; omega, beats_refl q⟩
  · exact ⟨c, if_neg h, .inl rfl, beats_refl c, by unfold beats; omega⟩

theorem foldl_better (l : List (HReq × Nat)) (c : HReq × Nat) :
    ∃ r, l.foldl better (some c) = some r ∧ r ∈ c :: l ∧ ∀ e ∈ c :: l, beats r e := by
  induction l generalizing c with
  | nil => exact ⟨c, rfl, List.mem_cons_self .., fun e he => by rw [List.mem_singleton.1 he]; exact beats_refl c⟩
  | cons q l ih =>
    obtain ⟨d, hd, hmem, hdc, hdq⟩ := better_some c q
    obtain ⟨r, hr, hrm, hall⟩ := ih d
    refine ⟨r, ?_, ?_, fun e he => ?_⟩
    · rw [List.foldl_cons, hd]
      exact hr
    · rcases List.mem_cons.1 hrm with rfl | hl
      · rcases hmem with rfl | rfl <;> simp
      · exact List.mem_cons_of_mem _ (List.mem_cons_of_mem _ hl)
    · have hrd := hall d (List.mem_cons_self ..)
      rcases List.mem_cons.1 he with rfl | he
      · exact beats_trans hrd hdc
      · rcases List.mem_cons.1 he with rfl | he
        · exact beats_trans hrd hdq
        · exact hall e (List.mem_cons_of_mem _ he)

theorem bestReq_eq (l : List (HReq × Nat)) : bestReq l = l.foldl better none := rfl

theorem bestReq_cons (c : HReq × Nat) (l : List (HReq × Nat)) :
    ∃ r, bestReq (c :: l) = some r ∧ r ∈ c :: l ∧ ∀ e ∈ c :: l, beats r e := foldl_better l c

/-! What a response to a request that waited leaves of ownership. -/

/-- From `s` to `t`: what the ownership steps read, but for the lease. -/
structure Answered (s t : State) : Prop where
  regs : t.regs = s.regs
  tbl : t.tbl = s.tbl
  twin : t.twin = s.twin
  ownQ : t.host.ownQ = s.host.ownQ
  owner : t.host.owner = s.host.owner
  prio : t.host.prio = s.host.prio
  ses : ∀ i, (t.sess i).st = (s.sess i).st ∧ (t.sess i).gen = (s.sess i).gen ∧ (t.sess i).cred = (s.sess i).cred

theorem Answered.refl (s : State) : Answered s s := ⟨rfl, rfl, rfl, rfl, rfl, rfl, fun _ => ⟨rfl, rfl, rfl⟩⟩

theorem Answered.trans {s t u : State} (h : Answered s t) (h' : Answered t u) : Answered s u :=
  ⟨h'.regs.trans h.regs, h'.tbl.trans h.tbl, h'.twin.trans h.twin, h'.ownQ.trans h.ownQ, h'.owner.trans h.owner, h'.prio.trans h.prio, fun i =>
    ⟨(h'.ses i).1.trans (h.ses i).1, (h'.ses i).2.1.trans (h.ses i).2.1, (h'.ses i).2.2.trans (h.ses i).2.2⟩⟩

theorem Answered.foldl {α : Type} {f : State → α → State} (s : State) (l : List α) (h : ∀ a, ∀ e ∈ l, Answered s a → Answered a (f a e)) :
    Answered s (l.foldl f s) := by
  have hgen : ∀ a, Answered s a → Answered s (l.foldl f a) := by
    induction l with
    | nil => exact fun _ ha => ha
    | cons e l ih =>
      exact fun a ha => ih (fun b x hx => h b x (List.mem_cons_of_mem _ hx)) _ (ha.trans (h a e (List.mem_cons_self ..) ha))
  exact hgen s (Answered.refl s)

theorem Answered.fno {s t : State} (h : Answered s t) : t.fno = s.fno := by
  unfold State.fno State.ownFno State.recRun
  rw [fld_of_regs h.regs, fld_of_regs h.regs, h.twin]

theorem ownReqs_congr {s t : State} (hq : t.host.ownQ = s.host.ownQ)
    (hs : ∀ i, (t.sess i).st = (s.sess i).st ∧ (t.sess i).gen = (s.sess i).gen ∧ (t.sess i).cred = (s.sess i).cred) : t.ownReqs = s.ownReqs := by
  unfold State.ownReqs
  rw [hq]
  refine congrArg (fun f => List.filterMap f s.host.ownQ) (funext fun q => ?_)
  rw [(hs q.ses).1, (hs q.ses).2.1]

theorem Answered.ownReqs {s t : State} (h : Answered s t) : t.ownReqs = s.ownReqs := ownReqs_congr h.ownQ h.ses

/-- A response changes of its session neither its state, its opening nor its credential. -/
theorem answered_respond (s : State) (i r op : Nat) (st : Status) (d : List Word) : Answered s (s.respond i r op st d) := by
  refine ⟨rfl, rfl, rfl, rfl, rfl, rfl, fun j => ?_⟩
  by_cases hj : j = i
  · subst hj
    by_cases hl : j < s.host.sess.length
    · rw [sess_respond hl]
      exact ⟨rfl, rfl, rfl⟩
    · have hout : ∀ l : List Sess, l.length ≤ j → l.getD j Sess.free = Sess.free := fun l h => List.getD_eq_default _ _ h
      have h1 : (s.respond j r op st d).sess j = s.sess j := by
        refine (hout _ ?_).trans (hout _ (by omega)).symm
        exact (modAt_length s.host.sess j _).le.trans (by omega)
      rw [h1]
      exact ⟨rfl, rfl, rfl⟩
  · have h1 : (s.respond i r op st d).sess j = s.sess j := sess_sessMod_ne s _ _ _ hj
    rw [h1]
    exact ⟨rfl, rfl, rfl⟩

theorem answered_respondTo (s : State) (q : HReq) (op : Nat) (st : Status) (d : List Word) : Answered s (s.respondTo q op st d) := by
  unfold State.respondTo
  split
  · exact answered_respond ..
  · exact Answered.refl s

theorem leaseAt_respondTo (s : State) (q : HReq) (op : Nat) (st : Status) (d : List Word) : (s.respondTo q op st d).host.leaseAt = s.host.leaseAt := by
  unfold State.respondTo
  split <;> rfl

/-! The steps of R442 where they change no owner. -/

theorem answered_renew (s : State) : Answered s (resolveRenew s) := by
  unfold resolveRenew
  refine Answered.foldl s _ fun a q _ _ => ?_
  by_cases h1 : q.op = .renew
  · rw [if_pos h1]
    by_cases h2 : a.host.owner = some q.ses ∧ (a.sess q.ses).gen = q.gen
    · rw [if_pos h2]
      have h0 : Answered a (a.hostMod (fun h => { h with leaseAt := a.fno })) := ⟨rfl, rfl, rfl, rfl, rfl, rfl, fun _ => ⟨rfl, rfl, rfl⟩⟩
      exact h0.trans (answered_respondTo ..)
    · rw [if_neg h2]
      exact answered_respondTo ..
  · rw [if_neg h1]
    exact Answered.refl a

/-- A handover is carried out only where the owner that sent it is the owner still. -/
theorem answered_handover {s : State} {was : Option Nat} (h : was = none ∨ s.host.owner ≠ was) : Answered s (resolveHandover was s) := by
  unfold resolveHandover
  refine Answered.foldl s _ fun a q _ ha => ?_
  cases q.op with
  | handover dst =>
    refine iteInduction (motive := fun u => Answered a u) (fun hc => ?_) (fun _ => answered_respondTo ..)
    obtain ⟨hw, ho, -⟩ := hc
    rcases h with h | h
    · exact absurd (h.symm.trans hw) (by simp)
    · exact absurd (ha.owner.symm.trans (ho.trans hw.symm)) h
  | _ => exact Answered.refl a

/-- The step of R442 that answers the rest, before the queue is emptied. -/
theorem answered_rest (s : State) : ∃ u, Answered s u ∧ u.host.leaseAt = s.host.leaseAt ∧ resolveRest s = u.hostMod (fun h => { h with ownQ := [] }) := by
  refine ⟨_, Answered.foldl s _ fun a q _ _ => ?_, ?_, rfl⟩
  · split
    · cases q.op with
      | ownReq p o => exact answered_respondTo ..
      | release => exact answered_respondTo ..
      | _ => exact Answered.refl a
    · exact Answered.refl a
  · induction s.host.ownQ using List.reverseRecOn with
    | nil => rfl
    | append_singleton l q ih =>
      rw [List.foldl_append, List.foldl_cons, List.foldl_nil]
      split
      · cases q.op with
        | ownReq p o => exact (leaseAt_respondTo ..).trans ih
        | release => exact (leaseAt_respondTo ..).trans ih
        | _ => exact ih
      · exact ih

/-! What the tick shows. -/

/-- PENDING bits of the HOST page, and what the tick's display leaves of them. -/
theorem near_ownerPages {p q : Nat → Prop} {s t : State} {n : Nat} (h : Near p q s t) (hp : ∀ i ∈ pageInfos, p (addrOf i.page 0x30)) :
    Near p q s (pageInfos.foldl (fun a i => a.setF ⟨addrOf i.page 0x30, 8, 4⟩ n) t) :=
  near_foldl h fun _ e he ha => near_setF ha (hp e he)

theorem near_stackReset {p q : Nat → Prop} {s t : State} {n : Nat} (h : Near p q s t) (hp : ∀ a, icuReg a → p a) (h60 : p 0x7060) (hq : ∀ n, q n) :
    Near p q s (stackReset n t) := by
  unfold stackReset
  refine near_icuEval (near_setF ?_ h60) hp
  refine near_same (near_foldl h fun _ e _ ha => near_tset ha (hq _)) rfl rfl

theorem rd_ownerPages (s : State) (n : Nat) :
    (stackReset 12 (pageInfos.foldl (fun a i => a.setF ⟨addrOf i.page 0x30, 8, 4⟩ n) s)).rd 0xB010 = s.rd 0xB010 := by
  have hn : Near (· ≠ 0xB010) (fun _ => True) s (stackReset 12 (pageInfos.foldl (fun a i => a.setF ⟨addrOf i.page 0x30, 8, 4⟩ n) s)) :=
    near_stackReset (near_ownerPages (Near.refl _ _ s) (by decide)) (fun a ha => by unfold icuReg at ha; omega) (by decide) (fun _ => trivial)
  exact hn.regs 0xB010 (by simp)

theorem ownerShown_shows (s : State) : (ownerShown s).bit (bitAt 0xB010 0) = true
    ∧ (∀ b, s.bit (bitAt 0xB010 b) = true → (ownerShown s).bit (bitAt 0xB010 b) = true) ∧ (ownerShown s).host.still = s.host.still := by
  refine ⟨bit_raiseEv_self (by decide) (by decide) (by decide) rfl, fun b hb => ?_,
    (ownerShown_keeps (Keeps.refl _ s) (List.Subset.refl _)).only .host (by decide)⟩
  refine bit_raiseEv_stays (p := 0x0B) (by decide) (by decide) (by decide) rfl ?_
  refine (bit_of_rd (f := bitAt 0xB010 b) ?_).trans hb
  exact (rd_bump (c := .HOST_OWNER_CHG) (a := 0xB010) (by decide) (by decide)).trans (rd_ownerPages s _)

theorem hostRegs_shows (s : State) : (∀ b, s.hostRegs.bit (bitAt 0xB010 b) = s.bit (bitAt 0xB010 b)) ∧ s.hostRegs.host.still = s.host.still := by
  refine ⟨fun b => bit_of_rd ?_, (hostRegs_keeps (Keeps.refl _ s) (List.Subset.refl _)).only .host (by decide)⟩
  have hn : Near (· ≠ 0xB010) (fun _ => True) s s.hostRegs :=
    near_wr (near_foldl (Near.refl _ _ s) fun _ e _ ha => near_wr ha (by omega)) (by decide)
  exact hn.regs 0xB010 (by simp)

/-! The whole of the tick. -/

theorem host_andShown (s r : State) : (s.andShown r).host = r.host := by
  unfold State.andShown
  split
  · rfl
  · exact host_shown r


/-- The state after step 1 of R442. -/
def State.ended (s : State) : State := resolveEnd s.dormClose

/-- The state after step 4 of R442. -/
def State.resolved (s : State) : State := resolveElect (resolveHandover s.host.owner (resolvePreempt (resolveRenew s.ended)))

theorem host_of_still {s t : State} (h : t.host.still = s.host.still) :
    t.host.owner = s.host.owner ∧ t.host.prio = s.host.prio ∧ t.host.leaseAt = s.host.leaseAt ∧ t.host.ownQ = s.host.ownQ
      ∧ ∀ i, (t.sess i).st = (s.sess i).st := by
  have h1 := congrArg HostSt.prio h
  have h2 := congrArg HostSt.leaseAt h
  have h3 := congrArg HostSt.ownQ h
  exact ⟨owner_of_still h, h1, h2, h3, sess_st_of_still h⟩

theorem resolve_shows (s : State) : runs .ownershipResolve s (fun t =>
    (t.host.ownQ = [] ∧ t.pending = s.pending) ∧ t.host.owner = s.resolved.host.owner ∧ t.host.prio = s.resolved.host.prio
      ∧ t.host.leaseAt = s.resolved.host.leaseAt ∧ (∀ i, (t.sess i).st = (s.resolved.sess i).st)
      ∧ (∀ b, s.resolved.bit (bitAt 0xB010 b) = true → t.bit (bitAt 0xB010 b) = true)
      ∧ (s.resolved.host.owner ≠ s.host.owner ∨ s.host.owner ≠ none ∧ s.ended.host.owner = none → t.bit (bitAt 0xB010 0) = true)) := by
  obtain ⟨u, hu, hlease, hrest⟩ := answered_rest s.resolved
  obtain ⟨v, hv⟩ : ∃ v, v = resolveRest s.resolved := ⟨_, rfl⟩
  obtain ⟨w, hw⟩ : ∃ w, w = if v.host.owner ≠ s.host.owner ∨ (s.host.owner ≠ none ∧ s.ended.host.owner = none) then ownerShown v else v := ⟨_, rfl⟩
  have he : exec .ownershipResolve s = .next (s.andShown w.hostRegs) := by
    rw [hw, hv]
    rfl
  have hpend : (s.andShown w.hostRegs).pending = s.pending := (exec_keeps _ _ _ he).pending
  have hv1 : v.host.ownQ = [] ∧ v.host.owner = s.resolved.host.owner ∧ v.host.prio = s.resolved.host.prio
      ∧ v.host.leaseAt = s.resolved.host.leaseAt ∧ (∀ i, (v.sess i).st = (s.resolved.sess i).st) ∧ v.regs = s.resolved.regs := by
    rw [hv, hrest]
    exact ⟨rfl, hu.owner, hu.prio, hlease, fun i => (hu.ses i).1, hu.regs⟩
  obtain ⟨hq, ho, hp, hl, hs, hr⟩ := hv1
  have hws : w.host.still = v.host.still ∧ (∀ b, v.bit (bitAt 0xB010 b) = true → w.bit (bitAt 0xB010 b) = true)
      ∧ (v.host.owner ≠ s.host.owner ∨ s.host.owner ≠ none ∧ s.ended.host.owner = none → w.bit (bitAt 0xB010 0) = true) := by
    rw [hw]
    obtain ⟨h0, hb, hst⟩ := ownerShown_shows v
    split
    · exact ⟨hst, hb, fun _ => h0⟩
    · rename_i hn
      exact ⟨rfl, fun _ h => h, fun h => absurd h hn⟩
  obtain ⟨hwst, hwb, hw0⟩ := hws
  obtain ⟨hgb, hgst⟩ := hostRegs_shows w
  have hhost : (s.andShown w.hostRegs).host.still = v.host.still := (congrArg HostSt.still (host_andShown ..)).trans (hgst.trans hwst)
  obtain ⟨k1, k2, k3, k4, k5⟩ := host_of_still hhost
  have hbit : ∀ b, (s.andShown w.hostRegs).bit (bitAt 0xB010 b) = w.bit (bitAt 0xB010 b) := fun b =>
    (bit_of_regs (regs_andShown ..) _).trans (hgb b)
  refine runs_intro he ⟨⟨k4.trans hq, hpend⟩, k1.trans ho, k2.trans hp, k3.trans hl, fun i => (k5 i).trans (hs i), fun b hb => ?_, fun h => ?_⟩
  · rw [hbit]
    exact hwb b ((bit_of_regs hr _).trans hb)
  · rw [hbit]
    exact hw0 (ho.symm ▸ h)

end Sys2Proof.Machine
end

section
/-! ### What the tick does with the owner, case by case (R438 to R442) -/

namespace Sys2Proof.Machine

section
variable {s : State}

/-! Step 1: what ends ownership. -/

theorem dormClose_stays (h : ∀ o, s.host.owner = some o → s.dormOver o = false) : s.dormClose = s := by
  unfold State.dormClose
  split
  · rename_i o ho
    rw [h o ho]
    exact if_neg (by decide)
  · rfl

theorem ended_stays (hd : s.dormClose = s) (hc : s.host.closing = false) (hn : s.host.endNext = false)
    (hr : s.ownQOf (fun op => op == .release) = none) (hl : s.lapses = false) : s.ended = s := by
  unfold State.ended resolveEnd
  rw [hd, hc, hn, hr, hl]
  rfl

theorem ownQOf_of_queue {f : HOp → Bool} (h : s.host.ownQ = []) : s.ownQOf f = none := by
  unfold State.ownQOf
  rw [h]
  split <;> rfl

theorem ownQOf_of_owner {f : HOp → Bool} (h : s.host.owner = none) : s.ownQOf f = none := by
  unfold State.ownQOf
  rw [h]

theorem lapses_of_owner (h : s.host.owner = none) : s.lapses = false := by
  unfold State.lapses
  rw [h]

theorem ownReqs_of_queue (h : s.host.ownQ = []) : s.ownReqs = [] := by
  unfold State.ownReqs
  rw [h]
  rfl

/-- A queue that holds no request for ownership. -/
theorem ownReqs_of_other {q : HReq} (h : s.host.ownQ = [q]) (hq : ∀ p o, q.op ≠ .ownReq p o) : s.ownReqs = [] := by
  unfold State.ownReqs
  rw [h]
  cases hop : q.op with
  | ownReq p o => exact absurd hop (hq p o)
  | _ => simp [hop]

theorem renew_nothing (h : ∀ q ∈ s.host.ownQ, q.op ≠ .renew) : resolveRenew s = s := by
  unfold resolveRenew
  generalize s.host.ownQ = l at h
  induction l with
  | nil => rfl
  | cons q l ih =>
    rw [List.foldl_cons, if_neg (h q (List.mem_cons_self ..))]
    exact ih fun r hr => h r (List.mem_cons_of_mem _ hr)

/-! Steps 2 and 4. -/

theorem preempt_nothing (h : s.host.owner = none ∨ s.ownReqs = []) : resolvePreempt s = s := by
  unfold resolvePreempt
  split
  · rfl
  · rename_i hs
    rcases h with h | h
    · exact absurd (h.symm.trans hs) (by simp)
    · rw [h]
      rfl

theorem preempt_wins {o : Nat} {q : HReq} {p : Nat} (ho : s.host.owner = some o)
    (h : bestReq ((s.ownReqs.filter (fun e => e.2.2 && decide (s.host.prio < e.2.1))).map (fun e => (e.1, e.2.1))) = some (q, p)) :
    resolvePreempt s = (((s.newOwner q.ses p).bump .HOST_PREEMPT).raiseEv 0x0B 2).respondTo q 10 .ok [BitVec.ofNat 32 q.ses] := by
  unfold resolvePreempt
  rw [ho]
  simp only [h]

theorem elect_keeps {o : Nat} (h : s.host.owner = some o) : resolveElect s = s := by
  unfold resolveElect
  rw [h]

theorem elect_nothing (h : s.ownReqs = []) : resolveElect s = s := by
  unfold resolveElect
  rw [h]
  split <;> rfl

theorem elect_wins {q : HReq} {p : Nat} (ho : s.host.owner = none) (h : bestReq (s.ownReqs.map (fun e => (e.1, e.2.1))) = some (q, p)) :
    resolveElect s = (s.newOwner q.ses p).respondTo q 10 .ok [BitVec.ofNat 32 q.ses] := by
  unfold resolveElect
  rw [ho]
  simp only [h]

/-- The state in force where the step at the end has left no owner and nobody asks for ownership. -/
theorem resolved_without (ho : s.ended.host.owner = none) (hr : s.ended.ownReqs = []) (h : s.host.owner = none ∨ s.ended.host.owner ≠ s.host.owner) :
    Answered s.ended s.resolved := by
  have h1 := answered_renew s.ended
  have ho1 : (resolveRenew s.ended).host.owner = none := h1.owner.trans ho
  have h2 : resolvePreempt (resolveRenew s.ended) = resolveRenew s.ended := preempt_nothing (.inl ho1)
  have h3 : Answered (resolveRenew s.ended) (resolveHandover s.host.owner (resolveRenew s.ended)) :=
    answered_handover (h.imp_right fun hn he => hn (h1.owner.symm.trans he))
  have h4 : resolveElect (resolveHandover s.host.owner (resolveRenew s.ended)) = resolveHandover s.host.owner (resolveRenew s.ended) :=
    elect_nothing (h3.ownReqs.trans (h1.ownReqs.trans hr))
  unfold State.resolved
  rw [h2, h4]
  exact h1.trans h3

/-! The cases of the tick. -/

theorem resolve_elects {q : HReq} {p : Nat} (ho : s.host.owner = none) (hc : s.host.closing = false) (hn : s.host.endNext = false)
    (hb : bestReq (s.ownReqs.map (fun e => (e.1, e.2.1))) = some (q, p)) :
    runs .ownershipResolve s (fun t => t.host.owner = some q.ses ∧ t.host.prio = p ∧ t.host.leaseAt = s.fno ∧ t.bit (bitAt 0xB010 0) = true) := by
  have he : s.ended = s := ended_stays (dormClose_stays fun o h => absurd (ho.symm.trans h) (by simp)) hc hn (ownQOf_of_owner ho) (lapses_of_owner ho)
  have h1 := answered_renew s
  have h2 : resolvePreempt (resolveRenew s) = resolveRenew s := preempt_nothing (.inl (h1.owner.trans ho))
  have h3 : Answered s (resolveHandover s.host.owner (resolveRenew s)) := h1.trans (answered_handover (.inl ho))
  have h4 := elect_wins (q := q) (p := p) (h3.owner.trans ho) (by rw [h3.ownReqs]; exact hb)
  have hres : s.resolved = resolveElect (resolveHandover s.host.owner (resolveRenew s)) := by
    unfold State.resolved
    rw [he, h2]
  have hans := answered_respondTo ((resolveHandover s.host.owner (resolveRenew s)).newOwner q.ses p) q 10 .ok [BitVec.ofNat 32 q.ses]
  have hlease := leaseAt_respondTo ((resolveHandover s.host.owner (resolveRenew s)).newOwner q.ses p) q 10 .ok [BitVec.ofNat 32 q.ses]
  rw [← h4, ← hres] at hans hlease
  obtain ⟨t, ht, -, k1, k2, k3, -, -, k6⟩ := resolve_shows s
  have hown : s.resolved.host.owner = some q.ses := hans.owner
  exact runs_intro ht ⟨k1.trans hown, k2.trans hans.prio, k3.trans (hlease.trans h3.fno), k6 (.inl (by rw [hown, ho]; simp))⟩

theorem resolve_idles (ho : s.host.owner = none) (hc : s.host.closing = false) (hn : s.host.endNext = false) (hr : s.ownReqs = []) :
    runs .ownershipResolve s (fun t => t.host.owner = none) := by
  have he : s.ended = s := ended_stays (dormClose_stays fun o h => absurd (ho.symm.trans h) (by simp)) hc hn (ownQOf_of_owner ho) (lapses_of_owner ho)
  have hans : Answered s.ended s.resolved := resolved_without (he.symm ▸ ho) (he.symm ▸ hr) (.inl ho)
  obtain ⟨t, ht, -, k1, -⟩ := resolve_shows s
  exact runs_intro ht (k1.trans (hans.owner.trans (he.symm ▸ ho)))

/-- Ownership ends at the first step, and nobody asks for it. -/
theorem resolve_ends (hwas : s.host.owner ≠ none) (ho : s.ended.host.owner = none) (hr : s.ended.ownReqs = []) :
    runs .ownershipResolve s (fun t => t.host.owner = none ∧ (∀ i, (t.sess i).st = (s.ended.sess i).st)
      ∧ ∀ b, s.ended.bit (bitAt 0xB010 b) = true → t.bit (bitAt 0xB010 b) = true) := by
  have hans : Answered s.ended s.resolved := resolved_without ho hr (.inr fun h => hwas (h.symm.trans ho))
  obtain ⟨t, ht, -, k1, -, -, k4, k5, -⟩ := resolve_shows s
  exact runs_intro ht ⟨k1.trans (hans.owner.trans ho), fun i => (k4 i).trans (hans.ses i).1, fun b hb =>
    k5 b ((bit_of_regs hans.regs _).trans hb)⟩

end

/-- Closing a session leaves the owner and the queue. -/
theorem closeSess_queue (s : State) (i : Nat) : (s.closeSess i).host.ownQ = s.host.ownQ ∧ (s.closeSess i).host.owner = s.host.owner
    ∧ ((s.closeSess i).sess i).gen = (s.sess i).gen := by
  have hev : ∀ (u : State) (n : Nat), (if n = 1 then u else u.raiseEv 0x0B 4).host.still = u.host.still := fun u n => by
    split
    · rfl
    · exact still_raiseEv u _ _
  unfold State.closeSess
  extract_lets x f s1 s2
  by_cases h0 : x.st = 0
  · rw [if_pos h0]
    exact ⟨rfl, rfl, rfl⟩
  rw [if_neg h0]
  have h1 : s1.sess i = { Sess.free with gen := x.gen } := sess_sessMod_same s i (fun _ => { Sess.free with gen := x.gen }) (sess_lt h0)
  have h2 : s2.host.ownQ = s.host.ownQ ∧ s2.host.owner = s.host.owner ∧ (s2.sess i).gen = (s1.sess i).gen := by
    unfold s2
    split <;> exact ⟨rfl, rfl, rfl⟩
  obtain ⟨k1, -, -, k2, -⟩ := host_of_still (hev s2 x.st)
  have k3 := congrArg Sess.gen (sess_of_still (hev s2 x.st) i)
  exact ⟨k2.trans h2.1, k1.trans h2.2.1, k3.trans (h2.2.2.trans (by rw [h1]))⟩

section
variable {s : State} {o : Nat} (ho : s.host.owner = some o)
include ho

/-- A dormant owner's session closes first (R443). -/
theorem ended_dormant (hd : s.dormOver o = true) : s.ended = (s.closeSess o).noOwner := by
  have hst : (s.sess o).st = 3 := by
    unfold State.dormOver at hd
    exact beq_iff_eq.1 (Bool.and_eq_true_iff.1 hd).1
  have hclose : s.dormClose = s.closeSess o := by
    unfold State.dormClose
    rw [ho]
    exact if_pos hd
  unfold State.ended resolveEnd
  rw [hclose]
  exact if_pos (.inl ((closeSess_closes s o).2.2.1 (by omega) ho))

theorem resolve_dormant (hq : s.ended.ownReqs = []) (hd : s.dormOver o = true) :
    runs .ownershipResolve s (fun t => t.host.owner = none ∧ (t.sess o).st = 0 ∧ t.bit (bitAt 0xB010 4) = true) := by
  have hst : (s.sess o).st = 3 := by
    unfold State.dormOver at hd
    exact beq_iff_eq.1 (Bool.and_eq_true_iff.1 hd).1
  have he := ended_dormant ho hd
  obtain ⟨c1, -, -, -, c5⟩ := closeSess_closes s o
  obtain ⟨t, ht, k1, k2, k3⟩ := resolve_ends (s := s) (by rw [ho]; simp) (by rw [he]; rfl) hq
  refine runs_intro ht ⟨k1, (k2 o).trans ?_, k3 4 ?_⟩
  · rw [he]
    exact c1
  · rw [he]
    exact c5 (by omega) (by omega)

theorem dormClose_awake (hd : s.dormOver o = false) : s.dormClose = s :=
  dormClose_stays fun p hp => by
    rw [ho] at hp
    cases hp
    exact hd

variable (hc : s.host.closing = false) (hn : s.host.endNext = false)
include hc hn

theorem resolve_keeps (hq : s.host.ownQ = []) (hd : s.dormOver o = false) (hl : s.lapses = false) :
    runs .ownershipResolve s (fun t => t.host.owner = some o ∧ t.host.prio = s.host.prio) := by
  have he : s.ended = s := ended_stays (dormClose_awake ho hd) hc hn (ownQOf_of_queue hq) hl
  have h1 : resolveRenew s = s := renew_nothing (by rw [hq]; simp)
  have h2 : resolvePreempt s = s := preempt_nothing (.inr (ownReqs_of_queue hq))
  have h3 : resolveHandover s.host.owner s = s := by
    unfold resolveHandover
    rw [hq]
    rfl
  have hres : s.resolved = s := by
    unfold State.resolved
    rw [he, h1, h2, h3, elect_keeps ho]
  obtain ⟨t, ht, -, k1, k2, -⟩ := resolve_shows s
  rw [hres] at k1 k2
  exact runs_intro ht ⟨k1.trans ho, k2⟩

omit hc hn in
theorem dormOver_of_lapses (hl : s.lapses = true) : s.dormOver o = false := by
  unfold State.lapses at hl
  rw [ho] at hl
  simp only [Bool.and_eq_true, bne_iff_ne] at hl
  unfold State.dormOver
  rw [beq_false_of_ne hl.1.1]
  rfl

theorem ended_lapsed (hl : s.lapses = true) (hr : s.ownQOf (fun op => op == .release) = none) :
    s.ended = (s.noOwner.bump .HOST_LAPSE).raiseEv 0x0B 1 := by
  unfold State.ended resolveEnd
  rw [dormClose_awake ho (dormOver_of_lapses ho hl), hc, hn, hr, hl]
  rfl

theorem resolve_lapses (hq : s.host.ownQ = []) (hl : s.lapses = true) :
    runs .ownershipResolve s (fun t => t.host.owner = none ∧ t.bit (bitAt 0xB010 1) = true) := by
  have he := ended_lapsed ho hc hn hl (ownQOf_of_queue hq)
  obtain ⟨u, hu⟩ : ∃ u, u = s.noOwner.bump .HOST_LAPSE := ⟨_, rfl⟩
  rw [← hu] at he
  have huh : u.host = s.noOwner.host := hu ▸ host_bump ..
  obtain ⟨k1, -, -, k4, -⟩ := host_of_still (still_raiseEv u 0x0B 1)
  have hown : s.ended.host.owner = none := by rw [he, k1, huh]; rfl
  have hque : s.ended.host.ownQ = [] := by rw [he, k4, huh]; exact hq
  obtain ⟨t, ht, m1, -, m3⟩ := resolve_ends (s := s) (by rw [ho]; simp) hown (ownReqs_of_queue hque)
  refine runs_intro ht ⟨m1, m3 1 ?_⟩
  rw [he]
  exact bit_raiseEv_self (by decide) (by decide) (by decide) rfl

theorem resolve_preempts {q : HReq} {p : Nat} (hr : s.ownQOf (fun op => op == .release) = none) (hl : s.lapses = false)
    (hd : s.dormOver o = false) (hne : q.ses ≠ o)
    (hb : bestReq ((s.ownReqs.filter (fun e => e.2.2 && decide (s.host.prio < e.2.1))).map (fun e => (e.1, e.2.1))) = some (q, p)) :
    runs .ownershipResolve s (fun t => t.host.owner = some q.ses ∧ t.host.prio = p ∧ t.bit (bitAt 0xB010 2) = true) := by
  have he : s.ended = s := ended_stays (dormClose_awake ho hd) hc hn hr hl
  have h1 := answered_renew s
  have h2 := preempt_wins (s := resolveRenew s) (q := q) (p := p) (h1.owner.trans ho) (by rw [h1.ownReqs, h1.prio]; exact hb)
  obtain ⟨u, hu⟩ : ∃ u, u = ((resolveRenew s).newOwner q.ses p).bump .HOST_PREEMPT := ⟨_, rfl⟩
  rw [← hu] at h2
  have huh : u.host = ((resolveRenew s).newOwner q.ses p).host := hu ▸ host_bump ..
  obtain ⟨k1, k2, -⟩ := host_of_still (still_raiseEv u 0x0B 2)
  have hv := answered_respondTo (u.raiseEv 0x0B 2) q 10 .ok [BitVec.ofNat 32 q.ses]
  rw [← h2] at hv
  have hown : (resolvePreempt (resolveRenew s)).host.owner = some q.ses := hv.owner.trans (k1.trans (by rw [huh]; rfl))
  have hprio : (resolvePreempt (resolveRenew s)).host.prio = p := hv.prio.trans (k2.trans (by rw [huh]; rfl))
  have hbit : (resolvePreempt (resolveRenew s)).bit (bitAt 0xB010 2) = true :=
    (bit_of_regs hv.regs _).trans (bit_raiseEv_self (by decide) (by decide) (by decide) rfl)
  have h3 : Answered (resolvePreempt (resolveRenew s)) (resolveHandover s.host.owner (resolvePreempt (resolveRenew s))) :=
    answered_handover (.inr (by rw [hown, ho]; simpa using hne))
  have hres : s.resolved = resolveHandover s.host.owner (resolvePreempt (resolveRenew s)) := by
    unfold State.resolved
    rw [he]
    exact elect_keeps (h3.owner.trans hown)
  rw [← hres] at h3
  obtain ⟨t, ht, -, m1, m2, -, -, m5, -⟩ := resolve_shows s
  exact runs_intro ht ⟨m1.trans (h3.owner.trans hown), m2.trans (h3.prio.trans hprio), m5 2 ((bit_of_regs h3.regs _).trans hbit)⟩

theorem resolve_releases {q : HReq} (hq : s.host.ownQ = [q]) (hs : q.ses = o) (hg : q.gen = (s.sess o).gen) (hop : q.op = .release) :
    runs .ownershipResolve s (fun t => t.host.owner = none) := by
  have hkey : s.ended.host.owner = none ∧ s.ended.host.ownQ = [q] := by
    cases hd : s.dormOver o with
    | true =>
      rw [ended_dormant ho hd]
      exact ⟨rfl, (closeSess_queue s o).1.trans hq⟩
    | false =>
      have hf : s.ownQOf (fun op => op == .release) = some q := by
        unfold State.ownQOf
        rw [ho, hq]
        simp [hs, hg, hop]
      have he : s.ended = (s.respondTo q 13 .ok []).noOwner := by
        unfold State.ended resolveEnd
        rw [dormClose_awake ho hd, hc, hn, hf]
        rfl
      rw [he]
      exact ⟨rfl, (answered_respondTo s q 13 .ok []).ownQ.trans hq⟩
  obtain ⟨t, ht, m1, -⟩ := resolve_ends (s := s) (by rw [ho]; simp) hkey.1 (ownReqs_of_other hkey.2 fun p o' => by rw [hop]; simp)
  exact runs_intro ht m1

/-- The tick of a queue that holds one handover of the owner. -/
theorem resolved_handover {q : HReq} {dst : Nat} (hl : s.lapses = false) (hd : s.dormOver o = false) (hq : s.host.ownQ = [q]) (hs : q.ses = o)
    (hg : q.gen = (s.sess o).gen) (hop : q.op = .handover dst) :
    s.resolved = if dst ≠ o ∧ (s.sess dst).st = 2 ∧ s.mayOwn dst = true then
      (s.newOwner dst (min s.host.prio (s.maxPrio dst))).respondTo q 12 .ok [] else s.respondTo q 12 .refused [] := by
  have hr : s.ownQOf (fun op => op == .release) = none := by
    unfold State.ownQOf
    rw [ho, hq]
    simp [hop]
  have he : s.ended = s := ended_stays (dormClose_awake ho hd) hc hn hr hl
  have h1 : resolveRenew s = s := renew_nothing (by rw [hq]; simp [hop])
  have h2 : resolvePreempt s = s := preempt_nothing (.inr (ownReqs_of_other hq fun p o' => by rw [hop]; simp))
  have h3 : resolveHandover s.host.owner s = if dst ≠ o ∧ (s.sess dst).st = 2 ∧ s.mayOwn dst = true then
      (s.newOwner dst (min s.host.prio (s.maxPrio dst))).respondTo q 12 .ok [] else s.respondTo q 12 .refused [] := by
    unfold resolveHandover
    rw [hq, List.foldl_cons, List.foldl_nil]
    simp only [hop, ho, hs, hg, true_and]
  unfold State.resolved
  rw [he, h1, h2, h3]
  refine elect_keeps (o := if dst ≠ o ∧ (s.sess dst).st = 2 ∧ s.mayOwn dst = true then dst else o) ?_
  split
  · exact (answered_respondTo ..).owner
  · exact (answered_respondTo ..).owner.trans ho

theorem resolve_hands {q : HReq} {dst : Nat} (hl : s.lapses = false) (hd : s.dormOver o = false) (hq : s.host.ownQ = [q]) (hs : q.ses = o)
    (hg : q.gen = (s.sess o).gen) (hop : q.op = .handover dst) :
    (dst ≠ o → (s.sess dst).st = 2 → s.mayOwn dst = true →
      runs .ownershipResolve s (fun t => t.host.owner = some dst ∧ t.host.prio = min s.host.prio (s.maxPrio dst) ∧ t.host.leaseAt = s.fno))
    ∧ (dst = o ∨ (s.sess dst).st ≠ 2 ∨ s.mayOwn dst = false →
      runs .ownershipResolve s (fun t => t.host.owner = some o ∧ t.host.leaseAt = s.host.leaseAt)) := by
  have hres := resolved_handover ho hc hn hl hd hq hs hg hop
  obtain ⟨t, ht, -, m1, m2, m3, -⟩ := resolve_shows s
  refine ⟨fun h1 h2 h3 => ?_, fun h => ?_⟩
  · rw [if_pos ⟨h1, h2, h3⟩] at hres
    rw [hres] at m1 m2 m3
    have ha := answered_respondTo (s.newOwner dst (min s.host.prio (s.maxPrio dst))) q 12 .ok []
    exact runs_intro ht ⟨m1.trans ha.owner, m2.trans ha.prio, m3.trans (leaseAt_respondTo ..)⟩
  · rw [if_neg (fun ⟨h1, h2, h3⟩ => by simp_all)] at hres
    rw [hres] at m1 m3
    exact runs_intro ht ⟨m1.trans ((answered_respondTo ..).owner.trans ho), m3.trans (leaseAt_respondTo ..)⟩

end

/-! The lapse by itself. -/

section
variable {s : State} (hc : s.host.closing = false) (hn : s.host.endNext = false)
include hc hn

theorem leaseLapsed_ends (hl : s.lapses = true) (hr : s.ownQOf (fun op => op == .release) = none) :
    runs .leaseLapsed s (fun t => t.host.owner = none ∧ t.bit (bitAt 0xB010 1) = true ∧ t.bit (bitAt 0xB010 0) = true) := by
  obtain ⟨u, hu⟩ : ∃ u, u = s.noOwner.bump .HOST_LAPSE := ⟨_, rfl⟩
  have he : exec .leaseLapsed s = .next (s.andShown (ownerShown (u.raiseEv 0x0B 1)).hostRegs) := by
    rw [hu]
    exact next_congr (congrArg s.andShown (if_neg (by rw [hc, hn, hl, hr]; decide)))
  obtain ⟨h0, hb, hst⟩ := ownerShown_shows (u.raiseEv 0x0B 1)
  obtain ⟨gb, gst⟩ := hostRegs_shows (ownerShown (u.raiseEv 0x0B 1))
  have hhost := (congrArg HostSt.still (host_andShown s _)).trans (gst.trans (hst.trans (still_raiseEv u 0x0B 1)))
  have huh : u.host = s.noOwner.host := hu ▸ host_bump ..
  have hbit := fun b => (bit_of_regs (regs_andShown s (ownerShown (u.raiseEv 0x0B 1)).hostRegs) (bitAt 0xB010 b)).trans (gb b)
  refine runs_intro he ⟨(owner_of_still hhost).trans (by rw [huh]; rfl), (hbit 1).trans (hb 1 ?_), (hbit 0).trans h0⟩
  exact bit_raiseEv_self (by decide) (by decide) (by decide) rfl

omit hc hn in
theorem leaseLapsed_idles (hl : s.lapses = false) : exec .leaseLapsed s = .next s :=
  next_congr ((congrArg s.andShown (if_pos (by simp [hl]))).trans (andShown_self s))

end

/-- Settles O15: the best request by its fold; the tick's four steps, case by case; the lapse by itself. -/
theorem ownershipResolvesAtTheTick : Obligations.OwnershipResolvesAtTheTick := by
  refine ⟨fun l => ⟨fun hl => ?_, fun q p hb => ?_⟩, fun s => ?_, fun _ _ _ ho hc hn hb => resolve_elects ho hc hn hb,
    fun _ ho hc hn hr => resolve_idles ho hc hn hr, fun s o ho hc hn hq => ⟨fun hd => ?_, resolve_keeps ho hc hn hq, resolve_lapses ho hc hn hq⟩,
    fun _ _ _ _ ho hc hn hr hl hd hne hb => resolve_preempts ho hc hn hr hl hd hne hb, fun s o ho hc hn ⟨q, hq, hs, hg, hop⟩ =>
    resolve_releases ho hc hn hq hs hg hop, fun s o dst ho hc hn hl hd ⟨q, hq, hs, hg, hop⟩ => resolve_hands ho hc hn hl hd hq hs hg hop,
    fun s hc hn hl hr => leaseLapsed_ends hc hn hl hr, fun s _ _ hl => leaseLapsed_idles hl⟩
  · obtain ⟨c, l, rfl⟩ := List.exists_cons_of_ne_nil hl
    obtain ⟨r, hr, -⟩ := bestReq_cons c l
    exact ⟨r.1, r.2, hr⟩
  · cases l with
    | nil => exact absurd hb (by simp [bestReq])
    | cons c l =>
      obtain ⟨r, hr, hmem, hall⟩ := bestReq_cons c l
      have heq : (q, p) = r := Option.some.inj (hb.symm.trans hr)
      exact ⟨heq ▸ hmem, fun e he => by
        have hbeat := hall e he
        rw [← heq] at hbeat
        exact hbeat⟩
  · obtain ⟨t, ht, h, -⟩ := resolve_shows s
    exact runs_intro ht h
  · refine resolve_dormant ho (ownReqs_of_queue ?_) hd
    rw [ended_dormant ho hd]
    exact (closeSess_queue s o).1.trans hq

end Sys2Proof.Machine
end

section
/-! ### The presentation of the interrupt controller where the source table is not in key order (R402)

The source presented is looked for along the listed records, where 0 stands for "none yet": a record of source 0x000 that comes after an
eligible source of lower PRIO takes its place and is then itself overridden by nothing. In a canonical table source 0x000 comes first, but the
statement speaks of every state. -/

namespace Sys2Proof.Machine

/-- Source 5, pending and unmasked at PRIO 2 for the host, is listed before an eligible record of source 0x000 at PRIO 7; the controller is on. -/
def shadowedSource : State :=
  { State.reset with tbl := [(tkey 0x0700 5 0, 0xA2C00000), (tkey 0x0700 0 0, 0xA7C00000)] }.wr 0x7040 1

theorem shadowedSource_on : shadowedSource.icu.pres.length = 13 ∧ shadowedSource.bit (bitAt 0x7040 0) = true := by decide

theorem shadowedSource_presents : shadowedSource.icuEval.icu.pres.getD 12 0 = 0 ∧ shadowedSource.icuEval.eligible 12 5 = true := by
  decide +kernel

/-- Refutes O17: on `shadowedSource`, whose table is not in key order, a re-evaluation presents nothing to the host while source 5 is eligible. -/
theorem not_interruptSourcesAndClaims : ¬ Obligations.InterruptSourcesAndClaims := by
  unfold Obligations.InterruptSourcesAndClaims
  intro h
  obtain ⟨hlen, hon⟩ := shadowedSource_on
  obtain ⟨hnone, hel⟩ := shadowedSource_presents
  obtain ⟨-, hidle, -⟩ := h.2.2 shadowedSource 12 (by decide) hlen
  exact absurd (hidle hon hnone 5 (by decide) (by decide)) (by rw [hel]; decide)

end Sys2Proof.Machine
end

section
/-! ### What raising an event shows (R57) -/

namespace Sys2Proof.Machine

/-- The S counter that stands at its maximum has its flag set. -/
theorem bit_bumpN_ovf {s : State} {c : Ctr} {n : Nat} (hk : c.kind = .S) (h : c.maxV ≤ s.fld c.f + n) (ho : c.ovf.2 < 32) :
    (s.bumpN c n).bit (bitAt c.ovf.1 c.ovf.2) = true := by
  unfold State.bumpN
  rw [hk]
  dsimp only
  rw [if_pos h]
  exact bit_setF_one _ _ _ ho

/-- The event counter of a page (R57). -/
def evtCtr (p : Nat) : Ctr := ⟨⟨addrOf p 0x28, 0, 16⟩, .S, (addrOf p 0x28, 31), (0, 0)⟩

/-- The state once the PENDING bit and the count are in, before the page summary source is signalled. -/
def State.posted (s : State) (p b : Nat) : State :=
  let s2 := ((s.setF (bitAt (addrOf p 0x10) b) 1).noteEv p b (s.bit (bitAt (addrOf p 0x10) b))).bumpN (evtCtr p) 1
  { s2 with host := { s2.host with sess := s2.host.sess.map (fun x =>
      if x.pageMask / 2 ^ p % 2 = 1 then x.addItem (.event (p * 256 + b)) s2.tickUs else x) } }

theorem raiseNoRec_eq (s : State) (p b : Nat) : s.raiseNoRec p b =
    if !s.bit (bitAt (addrOf p 0x10) b) && !s.bit (bitAt (addrOf p 0x1C) b) then (s.posted p b).signal (0x100 + p) else s.posted p b := by
  have hbase : ∀ o, addrOf p 0 + o = addrOf p o := fun o => by simp only [addrOf, Nat.add_zero]
  unfold State.raiseNoRec State.posted evtCtr
  simp only [hbase]

section
variable {s : State} {p b : Nat}

theorem tbl_posted : (s.posted p b).tbl = s.tbl := tbl_bumpN ..

theorem regs_posted : (s.posted p b).regs = ((s.setF (bitAt (addrOf p 0x10) b) 1).bumpN (evtCtr p) 1).regs := by
  have hn : ∀ (u : State) (l : Bool), ((u.noteEv p b l).bumpN (evtCtr p) 1).regs = (u.bumpN (evtCtr p) 1).regs := fun u l => by
    have hf : (u.noteEv p b l).fld (evtCtr p).f = u.fld (evtCtr p).f := rfl
    unfold State.bumpN
    rw [hf]
    show State.regs (if _ then _ else _) = State.regs (if _ then _ else _)
    split <;> rfl
  exact hn _ _

theorem bit_posted_self (hb : b < 32) : (s.posted p b).bit (bitAt (addrOf p 0x10) b) = true := by
  rw [bit_of_regs regs_posted, bit_bumpN_apart (by simp [evtCtr]) (by simp [evtCtr])]
  exact bit_setF_one s _ _ hb

theorem bit_posted_apart {i : Nat} (hi : i ≠ b) : (s.posted p b).bit (bitAt (addrOf p 0x10) i) = s.bit (bitAt (addrOf p 0x10) i) := by
  rw [bit_of_regs regs_posted, bit_bumpN_apart (by simp [evtCtr]) (by simp [evtCtr])]
  exact bit_setF_apart (.inr (by simp only [bitAt_lo, bitAt_w]; omega))

theorem fld_posted_count : (s.posted p b).fld ⟨addrOf p 0x28, 0, 16⟩ = min 65535 (s.fld ⟨addrOf p 0x28, 0, 16⟩ + 1) := by
  have h : (s.setF (bitAt (addrOf p 0x10) b) 1).fld (evtCtr p).f = s.fld (evtCtr p).f := fld_setF_apart (.inl (by simp [evtCtr]))
  rw [fld_of_regs regs_posted]
  refine (fld_bumpN_stays (c := evtCtr p) rfl (by simp [evtCtr]) (.inr (.inr (by simp [evtCtr])))).trans ?_
  rw [h]
  rfl

theorem bit_posted_ovf (hc : 65534 ≤ s.fld ⟨addrOf p 0x28, 0, 16⟩) : (s.posted p b).bit (bitAt (addrOf p 0x28) 31) = true := by
  have h : (s.setF (bitAt (addrOf p 0x10) b) 1).fld (evtCtr p).f = s.fld (evtCtr p).f := fld_setF_apart (.inl (by simp [evtCtr]))
  rw [bit_of_regs regs_posted]
  refine bit_bumpN_ovf (c := evtCtr p) rfl ?_ (by simp [evtCtr])
  rw [h]
  have hmax : (evtCtr p).maxV = 65535 := rfl
  have hc' : 65534 ≤ s.fld (evtCtr p).f := hc
  omega

/-! A signal. -/

theorem trd_srcSet_apart {j src lo n v : Nat} (h : j ≠ src) : (s.srcSet src lo n v).trd 0x0700 j 0 = s.trd 0x0700 j 0 :=
  trd_twr_idx h (by decide) (by decide)

theorem trd_signal_apart {j src : Nat} (h : j ≠ src) : (s.signal src).trd 0x0700 j 0 = s.trd 0x0700 j 0 := by
  unfold State.signal
  extract_lets s1 n s2
  split
  · rfl
  · rw [trd_icuEval]
    unfold s2
    split
    · rw [trd_srcSet_apart h, trd_srcSet_apart h, trd_srcSet_apart h]
    · rw [trd_srcSet_apart h, trd_srcSet_apart h]

theorem srcFld_srcSet_self {src lo n v : Nat} (h : lo + n ≤ 32) : (s.srcSet src lo n v).srcFld src lo n = v % 2 ^ n := tfld_tset_same _ _ _ _ _ _ _ h

theorem srcFld_srcSet_apart {src lo n v lo' n' : Nat} (h : lo + n ≤ lo' ∨ lo' + n' ≤ lo) :
    (s.srcSet src lo n v).srcFld src lo' n' = s.srcFld src lo' n' := tfld_tset_apart (.inr h)

/-- A signal of an enabled source sets PENDING and counts up to 255. -/
theorem signal_shows {src : Nat} (h : s.srcFld src 31 1 = 1) :
    (s.signal src).srcFld src 29 1 = 1 ∧ (s.signal src).srcFld src 0 8 = min 255 (s.srcFld src 0 8 + 1) := by
  have hlt : s.srcFld src 0 8 < 2 ^ 8 := tfld_lt ..
  have hn : (s.srcSet src 29 1 1).srcFld src 0 8 = s.srcFld src 0 8 := srcFld_srcSet_apart (by decide)
  have he : ∀ (u : State) (lo n : Nat), u.icuEval.srcFld src lo n = u.srcFld src lo n := fun u lo n => tfld_icuEval ..
  unfold State.signal
  extract_lets s1 n s2
  rw [if_neg (by rw [h]; decide), he, he]
  have hn' : n = s.srcFld src 0 8 + 1 := by
    unfold n s1
    rw [hn]
  unfold s2
  split
  · refine ⟨?_, ?_⟩
    · rw [srcFld_srcSet_apart (by decide), srcFld_srcSet_apart (by decide)]
      exact srcFld_srcSet_self (by decide)
    · rw [srcFld_srcSet_apart (by decide), srcFld_srcSet_self (by decide)]
      omega
  · refine ⟨?_, ?_⟩
    · rw [srcFld_srcSet_apart (by decide)]
      exact srcFld_srcSet_self (by decide)
    · rw [srcFld_srcSet_self (by decide)]
      omega

end

/-! The offer to the recorder touches the summary source of the recorder's page only. -/

theorem trd_raiseNoRec_apart {s : State} {p b j : Nat} (h : j ≠ 0x100 + p) : (s.raiseNoRec p b).trd 0x0700 j 0 = s.trd 0x0700 j 0 := by
  rw [raiseNoRec_eq]
  split
  · rw [trd_signal_apart h, trd_of_tbl tbl_posted]
  · rw [trd_of_tbl tbl_posted]

/-- The source's word is as it was. -/
def SrcSame (j : Nat) (s t : State) : Prop := t.trd 0x0700 j 0 = s.trd 0x0700 j 0

section
variable {s t : State} {j : Nat}

theorem srcSame_tbl {u : State} (h : SrcSame j s t) (hu : u.tbl = t.tbl) : SrcSame j s u := (trd_of_tbl hu _ _ _).trans h

theorem srcSame_twr {k w : Nat} {v : Word} (h : SrcSame j s t) (hk : k < 2 ^ 24) (hw : w < 2 ^ 8) (hj : j < 2 ^ 24) : SrcSame j s (t.twr 0x0802 k w v) :=
  (trd_twr_tid (by decide) hk hj hw (by decide)).trans h

theorem srcSame_tset {k w lo n v : Nat} (h : SrcSame j s t) (hk : k < 2 ^ 24) (hw : w < 2 ^ 8) (hj : j < 2 ^ 24) : SrcSame j s (t.tset 0x0802 k w lo n v) :=
  srcSame_twr h hk hw hj

theorem srcSame_raiseNoRec {b : Nat} (h : SrcSame j s t) (h8 : j ≠ 0x108) : SrcSame j s (t.raiseNoRec 8 b) := (trd_raiseNoRec_apart h8).trans h

theorem srcSame_ite {c : Prop} [Decidable c] {u : State} (h1 : SrcSame j s t) (h2 : SrcSame j s u) : SrcSame j s (if c then t else u) := by
  split
  · exact h1
  · exact h2

theorem srcSame_bump {c : Ctr} (h : SrcSame j s t) : SrcSame j s (t.bump c) := srcSame_tbl h (tbl_bump ..)

theorem srcSame_evrSetTokens {k n : Nat} (h : SrcSame j s t) (hk : k < 2 ^ 24) (hj : j < 2 ^ 24) : SrcSame j s (t.evrSetTokens k n) :=
  srcSame_ite (srcSame_tbl h rfl) (srcSame_tset h hk (by decide) hj)

theorem srcSame_evrSetSupp {k n : Nat} (h : SrcSame j s t) (hk : k < 2 ^ 24) (hj : j < 2 ^ 24) : SrcSame j s (t.evrSetSupp k n) :=
  srcSame_ite (srcSame_tbl h rfl) (srcSame_tset h hk (by decide) hj)

theorem srcSame_evrTake {k : Nat} (h : SrcSame j s t) (hk : k < 2 ^ 24) (hj : j < 2 ^ 24) : SrcSame j s (t.evrTake k) := by
  unfold State.evrTake
  exact srcSame_ite h (srcSame_evrSetTokens (srcSame_ite (srcSame_tbl h rfl) h) hk hj)

theorem srcSame_evrSuppress {k a b : Nat} (h : SrcSame j s t) (hk : k < 2 ^ 24) (hj : j < 2 ^ 24) (h8 : j ≠ 0x108) : SrcSame j s (t.evrSuppress k a b) := by
  have hw : ∀ {u : State} {w : Nat} {v : Word}, SrcSame j s u → w < 2 ^ 8 → SrcSame j s (u.twr 0x0802 k w v) := fun hu hw => srcSame_twr hu hk hw hj
  unfold State.evrSuppress
  extract_lets old s1 s2 s3 s4
  have h1 : SrcSame j s s1 := srcSame_ite (hw (hw h (by decide)) (by decide)) h
  have h3 : SrcSame j s s3 := srcSame_bump (hw (hw h1 (by decide)) (by decide))
  have h4 : SrcSame j s s4 := srcSame_evrSetSupp h3 hk hj
  exact srcSame_ite (srcSame_ite (srcSame_raiseNoRec h4 h8) h4) h3

theorem srcSame_offer {code kind : Nat} (h : SrcSame j s t) (hj : j < 2 ^ 24) (h8 : j ≠ 0x108) : SrcSame j s (t.offer code kind) := by
  have hk := bucketKey_lt t code
  unfold State.offer
  extract_lets r k due s1 ev1 s2 a e ev2 s3 n s4 s5
  have h1 : SrcSame j s s1 := srcSame_bump h
  have h2 : SrcSame j s s2 := srcSame_bump h
  have h3 : SrcSame j s s3 := srcSame_tbl (srcSame_evrTake h hk hj) rfl
  have h4 : SrcSame j s s4 := srcSame_tbl h3 rfl
  have h5 : SrcSame j s s5 := srcSame_ite (srcSame_tbl h4 rfl) h4
  refine srcSame_ite h (srcSame_ite h (srcSame_ite (srcSame_bump h) (srcSame_ite (srcSame_ite h1 ?_)
    (srcSame_ite (srcSame_evrSuppress h hk hj h8) (srcSame_ite (srcSame_ite h2 ?_) (srcSame_ite ?_ h5))))))
  · exact srcSame_raiseNoRec (srcSame_tbl h1 rfl) h8
  · exact srcSame_raiseNoRec (srcSame_tbl h2 rfl) h8
  · exact srcSame_tset h5 hk (by decide) hj

end

section
variable {s : State} {p b : Nat} (hp : p < 256) (h8 : p ≠ 8)
include hp h8

/-- What an event leaves of the two event words of its page is what stood when it was posted. -/
theorem rd_raiseEv_posted {a : Nat} (ha : a = addrOf p 0x10 ∨ a = addrOf p 0x28) : (s.raiseEv p b).rd a = (s.posted p b).rd a := by
  have hne : ¬ evReg 8 a ∧ ¬ icuReg a := by
    simp only [evReg, icuReg, pageOf, addrOf] at ha ⊢
    omega
  have hsig : (s.raiseNoRec p b).rd a = (s.posted p b).rd a := by
    rw [raiseNoRec_eq]
    split
    · exact (near_signal (p := icuReg) (q := evTbl) (Near.refl _ _ (s.posted p b)) (by omega) (fun _ h => h) (.inl rfl)).regs a hne.2
    · rfl
  have hoff := (evNear_offer (p := 8) (kind := 0) (code := p * 256 + b) (Near.refl _ _ (s.raiseNoRec p b)) (by decide)).regs a hne.1
  unfold State.raiseEv
  rw [if_neg h8]
  exact hoff.trans hsig

theorem trd_raiseEv_source : (s.raiseEv p b).trd 0x0700 (0x100 + p) 0 = (s.raiseNoRec p b).trd 0x0700 (0x100 + p) 0 := by
  unfold State.raiseEv
  rw [if_neg h8]
  exact srcSame_offer (j := 0x100 + p) (s := s.raiseNoRec p b) rfl (by omega) (by omega)

theorem raiseEv_shows (hb : b < 32) : (s.raiseEv p b).bit (bitAt (addrOf p 0x10) b) = true
    ∧ (∀ i, i < 32 → i ≠ b → (s.raiseEv p b).bit (bitAt (addrOf p 0x10) i) = s.bit (bitAt (addrOf p 0x10) i))
    ∧ (s.raiseEv p b).fld ⟨addrOf p 0x28, 0, 16⟩ = min 65535 (s.fld ⟨addrOf p 0x28, 0, 16⟩ + 1)
    ∧ (65534 ≤ s.fld ⟨addrOf p 0x28, 0, 16⟩ → (s.raiseEv p b).bit (bitAt (addrOf p 0x28) 31) = true) := by
  have h10 := rd_raiseEv_posted (s := s) (b := b) hp h8 (.inl rfl)
  have h28 := rd_raiseEv_posted (s := s) (b := b) hp h8 (.inr rfl)
  refine ⟨(bit_of_rd (f := bitAt (addrOf p 0x10) b) h10).trans (bit_posted_self hb), fun i _ hi => ?_, ?_, fun hc => ?_⟩
  · exact (bit_of_rd (f := bitAt (addrOf p 0x10) i) h10).trans (bit_posted_apart hi)
  · exact (fld_of_rd (f := ⟨addrOf p 0x28, 0, 16⟩) h28).trans fld_posted_count
  · exact (bit_of_rd (f := bitAt (addrOf p 0x28) 31) h28).trans (bit_posted_ovf hc)

/-- The page summary source is left where the bit was pending or is masked. -/
theorem raiseEv_silent (h : s.bit (bitAt (addrOf p 0x10) b) = true ∨ s.bit (bitAt (addrOf p 0x1C) b) = true) :
    (s.raiseEv p b).trd 0x0700 (0x100 + p) 0 = s.trd 0x0700 (0x100 + p) 0 := by
  rw [trd_raiseEv_source hp h8, raiseNoRec_eq, if_neg (by rcases h with h | h <;> rw [h] <;> simp), trd_of_tbl tbl_posted]

/-- The page summary source is signalled where the bit was not pending and is not masked. -/
theorem raiseEv_signals (h1 : s.bit (bitAt (addrOf p 0x10) b) = false) (h2 : s.bit (bitAt (addrOf p 0x1C) b) = false)
    (he : s.srcFld (0x100 + p) 31 1 = 1) :
    (s.raiseEv p b).srcFld (0x100 + p) 29 1 = 1 ∧ (s.raiseEv p b).srcFld (0x100 + p) 0 8 = min 255 (s.srcFld (0x100 + p) 0 8 + 1) := by
  have hposted : ∀ lo n, (s.posted p b).srcFld (0x100 + p) lo n = s.srcFld (0x100 + p) lo n := fun lo n => tfld_of_tbl tbl_posted ..
  have hsrc : ∀ lo n, (s.raiseEv p b).srcFld (0x100 + p) lo n = ((s.posted p b).signal (0x100 + p)).srcFld (0x100 + p) lo n := fun lo n => by
    have htrd := trd_raiseEv_source (s := s) (b := b) hp h8
    rw [raiseNoRec_eq, if_pos (by rw [h1, h2]; decide)] at htrd
    exact congrArg (wbits · lo n) htrd
  obtain ⟨g1, g2⟩ := signal_shows (s := s.posted p b) (src := 0x100 + p) ((hposted _ _).trans he)
  rw [hposted] at g2
  exact ⟨(hsrc _ _).trans g1, (hsrc _ _).trans g2⟩

end

end Sys2Proof.Machine
end

section
/-! ### The recorder's commands (R409 to R417) -/

namespace Sys2Proof.Machine

/-! A record. -/

/-- The words that a record is written with. -/
theorem trd_trecSet_at {t i : Nat} {vs : List Word} : ∀ {s : State} {w k : Nat}, k < vs.length → (s.trecSet t i w vs).trd t i (w + k) = vs.getD k 0 := by
  induction vs with
  | nil => intro s w k hk; exact absurd hk (by simp)
  | cons v vs ih =>
    intro s w k hk
    unfold State.trecSet
    cases k with
    | zero =>
      rw [Nat.add_zero, trd_trecSet_before (w := w + 1) (by omega)]
      exact trd_twr_self
    | succ k =>
      have hk' : k < vs.length := by simpa using hk
      rw [show w + (k + 1) = w + 1 + k by omega, ih hk']
      rfl

theorem tblBut_trecSet {s : State} {p : Nat → Nat → Nat → Prop} {tid i : Nat} {vs : List Word} : ∀ {w : Nat} {t : State}, s.tblBut t p →
    (∀ k, k < vs.length → p (tkeyTid (tkey tid i (w + k))) (tkeyIdx (tkey tid i (w + k))) (tkeyWord (tkey tid i (w + k)))) →
    s.tblBut (t.trecSet tid i w vs) p := by
  induction vs with
  | nil => exact fun h _ => h
  | cons v vs ih =>
    intro w t h hp
    unfold State.trecSet
    refine ih (tblBut_twr h (hp 0 (by simp))) fun k hk => ?_
    rw [show w + 1 + k = w + (k + 1) by omega]
    exact hp (k + 1) (by simpa using hk)

section
variable {s : State}

theorem evrNext_lt (s : State) : s.evrNext < 2 ^ 17 := fld_lt ..

theorem evrNext_recStore (ws : List Word) (h : s.evrNext + 1 < 2 ^ 17) : (recStore ws s).evrNext = s.evrNext + 1 := by
  unfold recStore
  refine (fld_setF_self (by decide)).trans ?_
  exact Nat.mod_eq_of_lt h

theorem evrNext_recCommit (e : Intake) (h : s.evrNext + 2 < 2 ^ 17) :
    (recCommit e s).evrNext = s.evrNext + (if e.summary.isSome then 2 else 1) := by
  have hbump : ∀ u : State, (u.bump .EVR_SUMMARY).evrNext = u.evrNext := fun u => fld_bump_apart (by decide) (by decide)
  have hend : ∀ (u : State) (k n : Nat), ((u.twr 0x0802 k 2 (u.trd 0x0802 k 2 + 1)).tset 0x0802 k 3 0 17 n).evrNext = u.evrNext := fun _ _ _ => rfl
  unfold recCommit
  extract_lets s1 snap n s2
  have h1 : s1.evrNext + 1 = s.evrNext + (if e.summary.isSome then 2 else 1) := by
    unfold s1
    cases e.summary with
    | none => rfl
    | some ws =>
      show ((recStore _ s).bump .EVR_SUMMARY).evrNext + 1 = s.evrNext + 2
      rw [hbump, evrNext_recStore _ (by omega)]
  have h2 : s2.evrNext = s.evrNext + (if e.summary.isSome then 2 else 1) := by
    have hlt : s1.evrNext + 1 < 2 ^ 17 := by
      rw [h1]
      split <;> omega
    exact (evrNext_recStore _ hlt).trans h1
  cases e.codeRec with
  | none => exact h2
  | some k => exact (hend ..).trans h2

/-- The records that one frame commits. -/
theorem evrNext_commitAll {l : List Intake} : ∀ {n : Nat} {s : State}, n ≤ 64 → s.evrNext ≤ 98304 + (64 - n) →
    s.evrNext ≤ (commitAll n l s).1.evrNext ∧ (commitAll n l s).1.evrNext ≤ s.evrNext + n := by
  induction l with
  | nil =>
    intro n s _ _
    cases n <;> exact ⟨le_refl _, Nat.le_add_right _ _⟩
  | cons e l ih =>
    intro n s hn hs
    have hneed : commitAll n (e :: l) s = if e.snap.isNone || decide (n < if e.summary.isSome then 2 else 1) then (s, e :: l)
        else commitAll (n - if e.summary.isSome then 2 else 1) l (recCommit e s) := by cases n <;> rfl
    rw [hneed]
    have hle : (if e.summary.isSome then 2 else 1) ≤ 2 ∧ 1 ≤ (if e.summary.isSome then 2 else 1) := by split <;> decide
    by_cases hc : (e.snap.isNone || decide (n < if e.summary.isSome then 2 else 1)) = true
    · rw [if_pos hc]
      exact ⟨le_refl _, Nat.le_add_right _ _⟩
    · rw [if_neg hc]
      simp only [Bool.or_eq_true, decide_eq_true_eq, not_or, not_lt] at hc
      have hnext := evrNext_recCommit e (s := s) (by omega)
      obtain ⟨h1, h2⟩ := ih (n := n - if e.summary.isSome then 2 else 1) (s := recCommit e s) (by omega) (by omega)
      omega

end

/-! EVR_RECORD_COMMIT. -/

/-- The state once the records are stored and the rest of the queue waits on. -/
def State.committed (r : State × List Intake) : State :=
  (({ r.1 with evr := { r.1.evr with intake := r.2 } }.setF ⟨0x807C, 0, 10⟩ r.2.length).setF (bitAt 0x8048 2) (b2n (r.2.length == 512)))

theorem exec_recordCommit (s : State) : exec .evrRecordCommit s = .next (State.committed (commitAll 64 (intakeSort s.evr.intake) s)) := rfl

theorem committed_shows (r : State × List Intake) : (State.committed r).tbl = r.1.tbl ∧ (State.committed r).evrNext = r.1.evrNext
    ∧ (State.committed r).evr = { r.1.evr with intake := r.2 } :=
  ⟨rfl, (fld_setF_apart (by decide)).trans (fld_setF_apart (by decide)), rfl⟩

section
variable {s : State}

theorem recordCommit_nothing (h : s.evr.intake = []) : runs .evrRecordCommit s (fun t => t.tbl = s.tbl ∧ t.evrNext = s.evrNext ∧ t.evr = s.evr) := by
  have hr : commitAll 64 (intakeSort s.evr.intake) s = (s, []) := by
    rw [h]
    rfl
  obtain ⟨h1, h2, h3⟩ := committed_shows (commitAll 64 (intakeSort s.evr.intake) s)
  rw [hr] at h1 h2 h3
  refine runs_intro (exec_recordCommit s) ?_
  rw [hr]
  exact ⟨h1, h2, h3.trans (by rw [← h])⟩

theorem recordCommit_bounds (h : s.evrNext ≤ 98304) :
    runs .evrRecordCommit s (fun t => s.evrNext ≤ t.evrNext ∧ t.evrNext ≤ s.evrNext + 64 ∧ s.onlyIn t [.regs, .tbl, .evr]) := by
  obtain ⟨-, h2, -⟩ := committed_shows (commitAll 64 (intakeSort s.evr.intake) s)
  obtain ⟨k1, k2⟩ := evrNext_commitAll (n := 64) (l := intakeSort s.evr.intake) (le_refl _) (by omega : s.evrNext ≤ 98304 + (64 - 64))
  exact runs_intro (exec_recordCommit s) ⟨h2 ▸ k1, h2 ▸ k2, onlyIn_exec (exec_recordCommit s) (List.Subset.refl _)⟩

theorem recordCommit_waits {e : Intake} (h : s.evr.intake = [e]) (hs : e.snap = none) :
    runs .evrRecordCommit s (fun t => t.evr.intake = [e] ∧ t.evrNext = s.evrNext ∧ t.tbl = s.tbl) := by
  have hr : commitAll 64 (intakeSort s.evr.intake) s = (s, [e]) := by
    rw [h]
    exact if_pos (by rw [hs]; rfl)
  obtain ⟨h1, h2, h3⟩ := committed_shows (commitAll 64 (intakeSort s.evr.intake) s)
  rw [hr] at h1 h2 h3
  refine runs_intro (exec_recordCommit s) ?_
  rw [hr]
  exact ⟨congrArg EvrSt.intake h3, h2, h1⟩

/-- One event without a summary and without a code record. -/
theorem recordCommit_stores {e : Intake} {ws : List Word} (h : s.evr.intake = [e]) (hsum : e.summary = none) (hs : e.snap = some ws)
    (hl : ws.length ≤ 16) (hc : e.codeRec = none) (hn : s.evrNext < 98304) :
    runs .evrRecordCommit s (fun t => t.evr.intake = [] ∧ t.evrNext = s.evrNext + 1
      ∧ (∀ w, w < 4 → t.trd 0x0800 s.evrNext w = (recHead e e.kind ws.length).getD w 0)
      ∧ (∀ w, w < 16 → t.trd 0x0800 s.evrNext (4 + w) = ws.getD w 0)
      ∧ s.tblBut t (fun tid i _ => tid = 0x0800 ∧ i = s.evrNext)) := by
  obtain ⟨rec, hrec⟩ : ∃ rec, rec = recHead e e.kind ws.length ++ ws := ⟨_, rfl⟩
  have hhead : (recHead e e.kind ws.length).length = 4 := rfl
  have hlen : (rec ++ List.replicate (20 - rec.length) 0).length = 20 := by
    rw [hrec, List.length_append, List.length_replicate, List.length_append, hhead]
    omega
  have hr : commitAll 64 (intakeSort s.evr.intake) s = (recStore rec s, []) := by
    have hcommit : recCommit e s = recStore rec s := by
      unfold recCommit
      rw [hsum, hs, hc, hrec]
      rfl
    rw [h]
    refine (if_neg (by simp [hs, hsum])).trans ?_
    rw [hcommit]
    cases e.summary <;> rfl
  obtain ⟨h1, h2, h3⟩ := committed_shows (commitAll 64 (intakeSort s.evr.intake) s)
  rw [hr] at h1 h2 h3
  have hword : ∀ w, w < 20 → (State.committed (recStore rec s, [])).trd 0x0800 s.evrNext w = (rec ++ List.replicate (20 - rec.length) 0).getD w 0 :=
    fun w hw => by
      have hat := trd_trecSet_at (s := s) (t := 0x0800) (i := s.evrNext) (w := 0) (k := w) (vs := rec ++ List.replicate (20 - rec.length) 0) (by omega)
      rw [Nat.zero_add] at hat
      exact (trd_of_tbl h1 ..).trans hat
  refine runs_intro (exec_recordCommit s) ?_
  rw [hr]
  refine ⟨congrArg EvrSt.intake h3, h2.trans (evrNext_recStore rec (by omega)), fun w hw => ?_, fun w hw => ?_, ?_⟩
  · rw [hword w (by omega), hrec]
    simp [List.getD_eq_getElem?_getD, List.getElem?_append, hhead, hw]
  · rw [hword (4 + w) (by omega), hrec]
    by_cases hw' : w < ws.length
    · simp [List.getD_eq_getElem?_getD, List.getElem?_append, hhead, hw']
    · simp [List.getD_eq_getElem?_getD, List.getElem?_append, hhead, hw', List.getElem?_replicate]
      split <;> rfl
  · refine tblBut_trans (tblBut_trecSet (tid := 0x0800) (i := s.evrNext) (w := 0) (vs := rec ++ List.replicate (20 - rec.length) 0)
      (tblBut_refl s _) fun k hk => ?_) (tblBut_of_tbl (s := s.trecSet 0x0800 s.evrNext 0 (rec ++ List.replicate (20 - rec.length) 0)) h1 _)
    have hlt := evrNext_lt s
    simp only [tkeyTid, tkeyIdx, tkey]
    omega

/-! EVR_TOKEN_REFILL. -/

theorem evrTokens_setTokens {k n : Nat} (hn : n < 256) : (s.evrSetTokens k n).evrTokens k = n := by
  unfold State.evrSetTokens State.evrTokens
  split
  · rw [fld_setF_self (by decide)]
    exact Nat.mod_eq_of_lt hn
  · rw [tfld_tset_self (by decide)]
    exact Nat.mod_eq_of_lt hn

theorem evrTokens_setTokens_apart {j k n : Nat} (hj : j < 1024) (hk : j ≠ k) : (s.evrSetTokens k n).evrTokens j = s.evrTokens j := by
  unfold State.evrSetTokens State.evrTokens
  have hj' : j ≠ 1024 := by omega
  rw [if_neg hj', if_neg hj']
  split
  · rfl
  · exact congrArg (wbits · 24 8) (trd_twr_idx hk (by decide) (by decide))

theorem evrBurst_lt (k : Nat) : s.evrBurst k < 256 := by
  unfold State.evrBurst
  split
  · exact fld_lt ..
  · exact tfld_lt ..

theorem tokenRefill_gains {k : Nat} (hk : (k < 1024 ∧ s.tfld 0x0801 k 0 31 1 = 1) ∨ k = 1024) (hp : s.evrPeriod k ≠ 0)
    (hb : s.evrTokens k < s.evrBurst k) (hg : s.evrPeriod k ≤ s.since (s.evrGain k)) :
    runs (.evrTokenRefill k) s (fun t => t.evrTokens k = s.evrTokens k + 1 ∧ t.evrGain k = s.fno
      ∧ (∀ j, j < 1024 → j ≠ k → t.evrTokens j = s.evrTokens j) ∧ s.onlyIn t [.regs, .tbl, .evr]) := by
  have hlt := evrBurst_lt (s := s) k
  have he : exec (.evrTokenRefill k) s = .next ((s.evrSetTokens k (s.evrTokens k + 1)).evrSetGain k s.fno) :=
    next_congr (if_pos ⟨hk, hp, hb, hg⟩)
  refine runs_intro he ⟨evrTokens_setTokens (s := s) (k := k) (by omega), ?_, fun j hj hjk => evrTokens_setTokens_apart (s := s) hj hjk,
    onlyIn_exec he (List.Subset.refl _)⟩
  unfold State.evrGain State.evrSetGain
  simp

theorem tokenRefill_idles {k : Nat} (h : s.evrPeriod k = 0 ∨ s.evrBurst k ≤ s.evrTokens k ∨ s.since (s.evrGain k) < s.evrPeriod k) :
    exec (.evrTokenRefill k) s = .next s := next_congr (if_neg fun ⟨_, h1, h2, h3⟩ => by omega)

/-! Freezing and clearing. -/

theorem freeze_again (h : s.bit (bitAt 0x8048 0) = true) : exec .evrFreeze s = .next s := next_congr (if_pos h)

theorem freeze_starts (h : s.bit (bitAt 0x8048 0) = false) : runs .evrFreeze s (fun t => t.bit (bitAt 0x8048 0) = true ∧ t.rd 0x8054 = lo32 s.nowSec
    ∧ s.regsBut t (fun a => a = 0x8048 ∨ a = 0x8054) ∧ s.onlyIn t [.regs, .evr] ∧ t.evr.intake = s.evr.intake) := by
  obtain ⟨u, hu⟩ : ∃ u, u = (s.setF (bitAt 0x8048 0) 1).wr 0x8054 (lo32 s.nowSec) := ⟨_, rfl⟩
  have he : exec .evrFreeze s = .next { u with evr := { u.evr with frzAt := u.fno } } := by
    rw [hu]
    exact next_congr (if_neg (Bool.eq_false_iff.1 h))
  have hbit : u.bit (bitAt 0x8048 0) = true := by
    rw [hu, bit_wr_apart (by decide)]
    exact bit_setF_one_self (by decide) rfl
  have hrd : u.rd 0x8054 = lo32 s.nowSec := by rw [hu, rd_wr_self]
  have hbut : s.regsBut u (fun a => a = 0x8048 ∨ a = 0x8054) := hu ▸ regsBut_wr (regsBut_setF (regsBut_refl s _) (.inl rfl)) (.inr rfl)
  have hint : u.evr.intake = s.evr.intake := by rw [hu]; rfl
  exact runs_intro he ⟨hbit, hrd, hbut, onlyIn_exec he (List.Subset.refl _), hint⟩

theorem unfreeze_ends : runs .unfreeze s (fun t => t.bit (bitAt 0x8048 0) = false ∧ s.regsBut t (fun a => a = 0x8048) ∧ s.onlyIn t [.regs]) :=
  runs_intro rfl ⟨bit_setF_zero_self (by decide) rfl, regsBut_setF (regsBut_refl s _) rfl, setF_only _ _ _⟩

theorem clear_refused (h : s.bit (bitAt 0x8048 0) = false) : exec .evrClear s = .next s :=
  next_congr (congrArg Prod.fst (if_neg (Bool.eq_false_iff.1 h) : evrClear s = (s, .refused)))

/-- The recorder emptied. -/
def State.emptied (s : State) : State :=
  (((({ s with evr := { s.evr with intake := [] } }.setF ⟨0x804C, 0, 17⟩ 0).setF (bitAt 0x8048 1) 0).setF ⟨0x807C, 0, 10⟩ 0).setF (bitAt 0x8048 2) 0)

theorem clear_empties (h : s.bit (bitAt 0x8048 0) = true) : runs .evrClear s (fun t => t.evrNext = 0 ∧ t.evr.intake = []
    ∧ t.bit (bitAt 0x8048 1) = false ∧ t.bit (bitAt 0x8048 0) = true ∧ s.regsBut t (fun a => a = 0x804C ∨ a = 0x8048 ∨ a = 0x807C)
    ∧ s.onlyIn t [.regs, .evr]) := by
  have he : exec .evrClear s = .next s.emptied := next_congr (congrArg Prod.fst (if_pos h : evrClear s = (s.emptied, .ok)))
  refine runs_intro he ⟨?_, rfl, ?_, ?_, ?_, onlyIn_exec he (List.Subset.refl _)⟩
  · unfold State.evrNext State.emptied
    rw [fld_setF_apart (by decide), fld_setF_apart (by decide), fld_setF_apart (by decide), fld_setF_self (by decide)]
    rfl
  · unfold State.emptied
    rw [bit_setF_apart (by decide), bit_setF_apart (by decide)]
    exact bit_setF_zero_self (by decide) rfl
  · unfold State.emptied
    rw [bit_setF_apart (by decide), bit_setF_apart (by decide), bit_setF_apart (by decide), bit_setF_apart (by decide)]
    exact h
  · unfold State.emptied
    exact regsBut_setF (regsBut_setF (regsBut_setF (regsBut_setF (regsBut_of_regs rfl _) (.inl rfl)) (.inr (.inl rfl))) (.inr (.inr rfl)))
      (.inr (.inl rfl))

/-- The table without the words that match. -/
theorem smGet_smFilter (d : Nat → Word) (m : SMap) (p : Nat → Bool) (k : Nat) : smGet d (smFilter m p) k = if p k then smGet d m k else d k := by
  unfold smGet smFilter
  rw [smFind_filter]
  split <;> rfl

theorem clrSupp_clears : runs .clrSupp s (fun t => (∀ k, k ≤ 1024 → t.trd 0x0802 k 1 = 0) ∧ t.fld ⟨0x805C, 0, 16⟩ = 0
    ∧ s.tblBut t (fun tid _ w => tid = 0x0802 ∧ w = 1) ∧ s.regsBut t (fun a => a = 0x805C) ∧ s.onlyIn t [.regs, .tbl]) := by
  have he : exec .clrSupp s = .next ({ s with tbl := smFilter s.tbl (fun k => !(tkeyTid k == 0x0802 && tkeyWord k == 1)) }.setF ⟨0x805C, 0, 16⟩ 0) := rfl
  refine runs_intro he ⟨fun k hk => ?_, ?_, fun k hk => ?_, regsBut_setF (regsBut_of_regs rfl _) rfl, onlyIn_exec he (List.Subset.refl _)⟩
  · have h1 : tkeyTid (tkey 0x0802 k 1) = 0x0802 ∧ tkeyWord (tkey 0x0802 k 1) = 1 := by unfold tkeyTid tkeyWord tkey; omega
    refine (smGet_smFilter tblReset s.tbl (fun k => !(tkeyTid k == 0x0802 && tkeyWord k == 1)) (tkey 0x0802 k 1)).trans ?_
    rw [h1.1, h1.2]
    unfold tblReset initStatus
    rw [h1.1, h1.2]
    rfl
  · rw [fld_setF_self (by decide)]
    rfl
  · refine (smGet_smFilter tblReset s.tbl (fun k => !(tkeyTid k == 0x0802 && tkeyWord k == 1)) k).trans (if_pos ?_)
    simp only [Bool.not_eq_true', Bool.and_eq_false_iff, beq_eq_false_iff_ne]
    exact not_and_or.1 hk

theorem frzExpired_ends (h0 : s.bit (bitAt 0x8048 0) = true) (h1 : s.fld ⟨0x8050, 0, 12⟩ ≠ 0) (h2 : s.fld ⟨0x8050, 0, 12⟩ * 1000 ≤ s.since s.evr.frzAt) :
    runs .frzExpired s (fun t => t.bit (bitAt 0x8048 0) = false ∧ t.bit (bitAt 0x8010 1) = true) := by
  have he : exec .frzExpired s = .next ((evrUnfreeze s).raiseNoRec 8 1) := next_congr (if_pos ⟨h0, h1, h2⟩)
  have hsig : ∀ a, ¬ icuReg a → ((evrUnfreeze s).raiseNoRec 8 1).rd a = ((evrUnfreeze s).posted 8 1).rd a := fun a ha => by
    rw [raiseNoRec_eq]
    split
    · exact (near_signal (p := icuReg) (q := evTbl) (Near.refl _ _ _) (by decide) (fun _ h => h) (.inl rfl)).regs a ha
    · rfl
  refine runs_intro he ⟨?_, ?_⟩
  · refine (bit_of_rd (f := bitAt 0x8048 0) (hsig 0x8048 (by unfold icuReg; decide))).trans ?_
    rw [bit_of_regs regs_posted, bit_bumpN_apart (by decide) (by decide), bit_setF_apart (by decide)]
    exact bit_setF_zero_self (by decide) rfl
  · exact (bit_of_rd (f := bitAt 0x8010 1) (hsig 0x8010 (by unfold icuReg; decide))).trans (bit_posted_self (p := 8) (by decide))

theorem frzExpired_idles (h : s.bit (bitAt 0x8048 0) = false ∨ s.fld ⟨0x8050, 0, 12⟩ = 0 ∨ s.since s.evr.frzAt < s.fld ⟨0x8050, 0, 12⟩ * 1000) :
    exec .frzExpired s = .next s := by
  refine next_congr (if_neg fun ⟨h0, h1, h2⟩ => ?_)
  rcases h with h | h | h
  · exact absurd h0 (by rw [h]; decide)
  · exact h1 h
  · omega

end

/-- Settles O18: the event by its posting, its signal and its offer; the recorder's commands one by one. -/
theorem eventsAndTheRecorder : Obligations.EventsAndTheRecorder := by
  refine ⟨fun s p b hp h8 hb => ?_, ⟨fun _ => recordCommit_nothing, fun _ => recordCommit_bounds, fun s e ws h hsum hs hl hc hn =>
    recordCommit_stores h hsum hs hl hc hn, fun _ _ => recordCommit_waits, fun _ _ hk => ⟨tokenRefill_gains hk, tokenRefill_idles⟩⟩,
    fun _ => ⟨freeze_again, freeze_starts, unfreeze_ends, clear_refused, clear_empties, clrSupp_clears, frzExpired_ends, frzExpired_idles⟩⟩
  obtain ⟨h1, h2, h3, h4⟩ := raiseEv_shows (s := s) hp h8 hb
  exact ⟨h1, h2, h3, h4, raiseEv_silent hp h8, raiseEv_signals hp h8, (evNear_raiseEv (Near.refl _ _ s) (by omega)).regs, onlyIn_mono (raiseEv_only s p b) (by decide)⟩

end Sys2Proof.Machine
end

section
/-! ### A word that is written at its tick (R47 to R50, R59) -/

namespace Sys2Proof.Machine

section
variable {s : State} {a : Nat} {v : Word}

/-- What follows a word at its tick: events that win, a commit without AT_EN, an arming. -/
def State.settled (t : State) (a : Nat) (v : Word) : State :=
  ((((([(a, v)].filter (fun e => offOf e.1 == 0x2C)).map (fun e => pageOf e.1)).eraseDups).foldl (fun u p =>
    if u.bit (pgPend p) && !u.bit (bitAt (addrOf p 0x2C) 15) then u.commitPage p else u) (t.evtWins [(a, v)]))).armWords [] [(a, v)]

theorem writeNow_settles {t : State} (hv : valueStatus a v = .ok) (hw : s.wordWrite s.writer a v = (t, .ok)) :
    s.writeNow [(a, v)] = t.settled a v := by
  have hr : s.regsWrite s.writer [(a, v)] = (t, .ok) := by
    unfold State.regsWrite
    simp only [List.foldl_cons, List.foldl_nil, hw]
    rfl
  have hval : worst ([(a, v)].map (fun e => valueStatus e.1 e.2)) = .ok := (worst_value a v).trans hv
  unfold State.writeNow
  rw [hval, hr]
  rfl

theorem writeNow_bad (hv : valueStatus a v ≠ .ok) : s.writeNow [(a, v)] = s := by
  unfold State.writeNow
  have hval : worst ([(a, v)].map (fun e => valueStatus e.1 e.2)) = valueStatus a v := worst_value a v
  rw [hval]
  exact if_pos (bne_iff_ne.2 hv)

theorem writeNow_stopped {t : State} {st : Status} (hw : s.wordWrite s.writer a v = (t, st)) (hst : worst [st] = st) (hne : st ≠ .ok) :
    s.writeNow [(a, v)] = s := by
  have hr : s.regsWrite s.writer [(a, v)] = (s, st) := by
    unfold State.regsWrite
    simp only [List.foldl_cons, List.foldl_nil, hw, hst]
  unfold State.writeNow
  rw [hr]
  split
  · rfl
  · exact if_pos (bne_iff_ne.2 hne)

theorem settled_plain {t : State} (h1 : offOf a ≠ 0x2C) (h2 : offOf a ≠ 0x18) (h3 : ¬ (0x5040 ≤ a ∧ a < 0x5440 ∧ a % 16 = 12)) : t.settled a v = t := by
  have e1 : [(a, v)].filter (fun e => offOf e.1 == 0x2C) = [] := List.filter_eq_nil_iff.2 fun e he => by
    rw [List.mem_singleton.1 he]
    simpa using h1
  have e2 : [(a, v)].filter (fun e => offOf e.1 == 0x18) = [] := List.filter_eq_nil_iff.2 fun e he => by
    rw [List.mem_singleton.1 he]
    simpa using h2
  unfold State.settled State.evtWins State.armWords
  rw [e1, e2]
  exact if_neg h3

/-- A word of a locked page is refused unless LOCK leaves the register writable. -/
theorem writeNow_locked (hl : s.locked (pageOf a) = true) (hf : lockFree a = false) : s.writeNow [(a, v)] = s := by
  refine writeNow_stopped (t := s) (st := .refused) (if_pos ?_) rfl (by decide)
  rw [hl, hf]
  rfl

theorem wordWrite_block (hl : s.locked (pageOf a) = false) (h40 : 0x40 ≤ offOf a) (w : Option Nat) : s.wordWrite w a v = s.blockWrite a v w := by
  refine (if_neg ?_).trans (if_neg (by omega))
  rw [hl]
  simp

theorem wordWrite_header (h : s.locked (pageOf a) = false ∨ lockFree a = true) (h40 : offOf a < 0x40) (w : Option Nat) :
    s.wordWrite w a v = s.headerWrite (pageOf a) (offOf a) v w := by
  refine (if_neg ?_).trans (if_pos h40)
  rcases h with h | h <;> rw [h] <;> simp

/-! A plain register. -/

/-- Which registers are command registers does not depend on who writes. -/
theorem cmdsAt_none {w : Option Nat} (h : (cmdsAt a none).isNone = true) : cmdsAt a w = none := by
  have hne : a ≠ 0xB044 := fun he => by
    rw [he] at h
    exact absurd h (by decide)
  have hw : cmdsAt a w = cmdsAt a none := by
    unfold cmdsAt
    simp only [if_neg hne]
  exact hw.trans (Option.isNone_iff_eq_none.1 h)

/-- No counter is cleared at a register that is no clear register. -/
theorem ctrClear_none (h : clearReg a = false) : s.ctrClear a v = s := by
  have hno : ∀ c ∈ ctrsOf (pageOf a), ¬ ((c.clr.1 = a && a != 0 && wbit v c.clr.2) = true) := fun c hc hp => by
    unfold clearReg at h
    simp only [Bool.or_eq_false_iff, List.any_eq_false] at h
    simp only [Bool.and_eq_true, decide_eq_true_eq] at hp
    exact h.2 c hc (by simp [hp.1.1, hp.1.2])
  unfold State.ctrClear
  generalize ctrsOf (pageOf a) = l at hno
  induction l with
  | nil => rfl
  | cons c l ih =>
    rw [List.foldl_cons, if_neg (hno c (List.mem_cons_self ..))]
    exact ih fun d hd => hno d (List.mem_cons_of_mem _ hd)

theorem clearReg_errEst : clearReg 0x410C = true := by decide

/-- A register whose written word is its fields, a clear field or a setting: none of the registers that `blockWrite` treats apart. -/
def wordReg (a : Nat) : Bool :=
  (cmdsAt a none).isNone && pageOf a != 0x07 && !decide (0x5040 ≤ a ∧ a < 0x5440) && !([0xB09C, 0xB0D0, 0x1C054, 0x1C058, 0x1C064].contains a)
    && !(decide (0x20050 ≤ a ∧ a < 0x20060) || decide (0x20080 ≤ a ∧ a < 0x200C0) || decide (0x26094 ≤ a ∧ a < 0x260A4)
          || decide (0x260C0 ≤ a ∧ a < 0x26140))

theorem blockWrite_word (h : wordReg a = true) (w : Option Nat) :
    s.blockWrite a v w = ((((s.plainWrite a v).ctrClear a v).clearSide a v).wrote a (s.rd a) v, .ok) := by
  unfold wordReg at h
  simp only [Bool.and_eq_true, Bool.not_eq_true', Bool.or_eq_false_iff, decide_eq_false_iff_not, bne_iff_ne, List.contains_eq_mem, List.mem_cons,
    List.not_mem_nil, or_false, not_or] at h
  obtain ⟨⟨⟨⟨hcmd, h7⟩, h5⟩, n1, n2, n3, n4, n5⟩, ⟨⟨r2, r3⟩, r4⟩, r5⟩ := h
  have h20080 : ¬ (0x20080 ≤ a ∧ a < 0x200A0) := fun hp => r3 (by omega)
  have h200A0 : ¬ (0x200A0 ≤ a ∧ a < 0x200C0) := fun hp => r3 (by omega)
  have h20050 : ∀ p : Prop, ¬ (0x20050 ≤ a ∧ a < 0x20060 ∧ p) := fun p hp => r2 ⟨hp.1, hp.2.1⟩
  have h26094 : ∀ p : Prop, ¬ (0x26094 ≤ a ∧ a < 0x260A4 ∧ p) := fun p hp => r4 ⟨hp.1, hp.2.1⟩
  have h260C0 : ∀ p : Prop, ¬ (0x260C0 ≤ a ∧ a < 0x26140 ∧ p) := fun p hp => r5 ⟨hp.1, hp.2.1⟩
  unfold State.blockWrite
  rw [cmdsAt_none hcmd]
  simp only [h7, h5, n1, n2, n3, n4, n5, h20080, h200A0, h20050, h26094, h260C0, false_and, or_self, if_false]

/-- A register whose setting does nothing at once. -/
def quietReg (a : Nat) : Bool :=
  !([0x4040, 0x4094, 0x409C, 0x10040, 0x11040, 0x12078, 0x14040, 0x15040, 0x1A044, 0x20040, 0x24040].contains a)
    && !decide (0x18048 ≤ a ∧ a < 0x18058)

theorem wrote_quiet {t : State} {o : Word} (h : quietReg a = true) : t.wrote a o v = t := by
  unfold quietReg at h
  simp only [Bool.and_eq_true, Bool.not_eq_true', decide_eq_false_iff_not, List.contains_eq_mem, List.mem_cons, List.not_mem_nil, or_false,
    not_or] at h
  obtain ⟨⟨n1, n2, n3, n4, n5, n6, n7, n8, n9, n10, n11⟩, r1⟩ := h
  simp only [State.wrote, n1, n2, n3, n4, n5, n6, n7, n8, n9, n10, n11, r1, false_and, or_self, if_false]

/-- The write of a plain register is its fields' write. -/
theorem blockWrite_plain (h : plainReg a = true) (w : Option Nat) : s.blockWrite a v w = (s.plainWrite a v, .ok) := by
  unfold plainReg at h
  simp only [Bool.and_eq_true, Bool.not_eq_true', Bool.or_eq_false_iff, decide_eq_false_iff_not, bne_iff_ne, List.contains_eq_mem, List.mem_cons,
    List.not_mem_nil, or_false, not_or, decide_eq_true_eq] at h
  obtain ⟨⟨⟨⟨⟨⟨⟨-, -⟩, hcmd⟩, h7⟩, h5⟩, hclr⟩, hlist⟩, ⟨⟨⟨r1, r2⟩, r3⟩, r4⟩, r5⟩ := h
  obtain ⟨n1, n2, n3, n4, n5, n6, n7, n8, n9, n10, n11, n12, n13, n14, n15, n16, n17, n18, n19, n20, n21, n22⟩ := hlist
  have herr : a ≠ 0x410C := fun he => by
    rw [he, clearReg_errEst] at hclr
    exact absurd hclr (by decide)
  have hpage5 : ¬ (0x5040 ≤ a ∧ a < 0x5440) := fun hp => h5 (by unfold pageOf; omega)
  have hword : wordReg a = true := by
    simp [-pageOf_eq, wordReg, hcmd, h7, hpage5, n18, n19, n20, n21, n22, r2, r3, r4, r5]
  have hquiet : quietReg a = true := by
    simp [quietReg, n7, n8, n9, n10, n11, n12, n13, n14, n15, n16, n17, r1]
  have hside : ∀ t : State, t.clearSide a v = t := fun t => by
    simp only [State.clearSide, n1, n2, n3, n4, n5, n6, herr, false_and, if_false]
  rw [blockWrite_word hword, ctrClear_none hclr, hside, wrote_quiet hquiet]

theorem exec_plain (h : plainReg a = true) (hv : valueStatus a v = .ok) (hl : s.locked (pageOf a) = false) :
    exec (.registerWrite a v) s = .next (s.plainWrite a v) := by
  have hb := blockWrite_plain (s := s) (v := v) h s.writer
  unfold plainReg at h
  simp only [Bool.and_eq_true, decide_eq_true_eq, bne_iff_ne] at h
  obtain ⟨⟨⟨⟨⟨⟨⟨-, h40⟩, -⟩, -⟩, h5⟩, -⟩, -⟩, -⟩ := h
  refine next_congr ((writeNow_settles hv ((wordWrite_block hl h40 _).trans hb)).trans (settled_plain (by omega) (by omega) fun hp => h5 ?_))
  unfold pageOf
  omega

/-- The fields of an access type that a register does not have change nothing. -/
theorem accMerge_none {acc : Acc} {old : Word} (h : hasAcc acc a = false) : accMerge acc a old v = old := by
  unfold hasAcc at h
  unfold accMerge
  generalize fieldsAt a = l at h
  induction l with
  | nil => rfl
  | cons r l ih =>
    simp only [List.any_cons, Bool.or_eq_false_iff, beq_eq_false_iff_ne] at h
    rw [List.foldl_cons, if_neg h.1]
    exact ih h.2

/-- The RW fields of a plain write. -/
def State.rwWrite (s : State) (a : Nat) (v : Word) : State := if hasAcc .rw a then s.wr a (accMerge .rw a (s.rd a) v) else s

theorem rwWrite_shows : (s.rwWrite a v).rd a = accMerge .rw a (s.rd a) v ∧ s.regsBut (s.rwWrite a v) (fun x => x = a)
    ∧ s.onlyIn (s.rwWrite a v) [.regs] ∧ (s.rwWrite a v).shadow = s.shadow := by
  unfold State.rwWrite
  split
  · exact ⟨rd_wr_self, regsBut_wr (regsBut_refl s _) rfl, wr_only _ _ _, rfl⟩
  · rename_i hn
    exact ⟨(accMerge_none (Bool.eq_false_iff.2 hn)).symm, regsBut_refl s _, onlyIn_refl s _, rfl⟩

theorem plainWrite_rw (hr : hasAcc .rws a = false) : s.plainWrite a v = s.rwWrite a v := if_neg (by rw [hr]; decide)

theorem plainWrite_rws (hr : hasAcc .rws a = true) : s.plainWrite a v = (s.rwWrite a v).shadowPut a v := if_pos hr

/-- A word put into the shadow. -/
theorem shadowPut_shows (h40 : 0x40 ≤ offOf a) : (s.shadowPut a v).rd a = s.rd a
    ∧ smFind (s.shadowPut a v).shadow a = (if rwsPart a v = rwsPart a (s.rd a) then none else some (rwsPart a v))
    ∧ (∀ b, b ≠ a → smFind (s.shadowPut a v).shadow b = smFind s.shadow b)
    ∧ (s.shadowPut a v).bit (pgDirty (pageOf a)) = true ∧ s.regsBut (s.shadowPut a v) (fun x => x = addrOf (pageOf a) 0x0C)
    ∧ s.onlyIn (s.shadowPut a v) [.regs, .shadow] := by
  have hne : a ≠ addrOf (pageOf a) 0x0C := fun he => by
    unfold offOf at h40
    simp only [addrOf, pageOf] at he
    omega
  have hsh : (s.shadowPut a v).shadow = if rwsPart a v = rwsPart a (s.rd a) then smErase s.shadow a else smInsert s.shadow a (rwsPart a v) := rfl
  refine ⟨?_, ?_, fun b hb => ?_, bit_setB_self (by simp [pgDirty]) rfl, regsBut_setB (regsBut_of_regs rfl _) rfl,
    (shadowPut_keeps (Keeps.refl _ s) (List.Subset.refl _)).only⟩
  · exact rd_setB_apart (s := { s with shadow := _ }) hne
  · rw [hsh]
    split
    · rw [smFind_erase, if_pos rfl]
    · rw [smFind_insert, if_pos rfl]
  · rw [hsh]
    split
    · rw [smFind_erase, if_neg hb]
    · rw [smFind_insert, if_neg hb]

/-! SEQ_CMD. -/

theorem seqCmd_words : valueStatus 0x6040 1 = .ok ∧ valueStatus 0x6040 2 = .ok ∧ valueStatus 0x6040 4 = .ok := by decide

theorem seqCmd_acts {r : State × Status} (hl : s.locked 6 = false) (hv : valueStatus 0x6040 v = .ok)
    (hc : s.cmds v [seqVerifyCmd, seqSwitchCmd, always seqCancelCmd] = r) (hr : r.2 = .ok ∨ (r.1 = s ∧ worst [r.2] = r.2 ∧ r.2 ≠ .ok)) :
    exec (.registerWrite 0x6040 v) s = .next r.1 := by
  have hw : s.wordWrite s.writer 0x6040 v = (r.1, r.2) := (wordWrite_block (a := 0x6040) hl (by decide) s.writer).trans hc
  rcases hr with hr | ⟨h1, h2, h3⟩
  · rw [hr] at hw
    exact next_congr ((writeNow_settles hv hw).trans (settled_plain (by decide) (by decide) (by decide)))
  · exact next_congr ((writeNow_stopped hw h2 h3).trans h1.symm)

end

/-- Settles O19: the write of one word, by its access type, its refusals and the commands of SEQ_CMD. -/
theorem registerWriteByAccessType : Obligations.RegisterWriteByAccessType := by
  refine ⟨fun a v s hp => ⟨fun hv hl hr => ?_, fun hv hl hr _ => ?_⟩, fun a v s h => ?_, fun s hl => ?_⟩
  · obtain ⟨h1, h2, h3, -⟩ := rwWrite_shows (s := s) (a := a) (v := v)
    exact runs_intro ((exec_plain hp hv hl).trans (next_congr (plainWrite_rw hr))) ⟨h1, h2, h3⟩
  · obtain ⟨h1, h2, h3, h4⟩ := rwWrite_shows (s := s) (a := a) (v := v)
    have h40 : 0x40 ≤ offOf a := by
      unfold plainReg at hp
      simp only [Bool.and_eq_true, decide_eq_true_eq] at hp
      exact hp.1.1.1.1.1.1.2
    obtain ⟨k1, k2, k3, k4, k5, k6⟩ := shadowPut_shows (s := s.rwWrite a v) (v := v) h40
    refine runs_intro ((exec_plain hp hv hl).trans (next_congr (plainWrite_rws hr))) ⟨k1.trans h1, k1.symm ▸ k2, fun b hb => (k3 b hb).trans (by rw [h4]),
      k4, ?_, ?_⟩
    · exact regsBut_trans (regsBut_mono h2 fun _ hx => .inl hx) (regsBut_mono k5 fun _ hx => .inr hx)
    · exact onlyIn_trans (onlyIn_mono h3 (by decide)) k6
  · rcases h with h | ⟨h1, h2⟩
    · exact next_congr (writeNow_bad h)
    · exact next_congr (writeNow_locked h1 h2)
  · obtain ⟨v1, v2, v3⟩ := seqCmd_words
    refine ⟨seqCmd_acts (r := seqVerifyCmd s) hl v1 rfl ?_, seqCmd_acts (r := seqSwitchCmd s) hl v2 rfl ?_, seqCmd_acts (r := (seqCancelCmd s, .ok)) hl v3 rfl (.inl rfl)⟩
    · unfold seqVerifyCmd
      split
      · exact .inr ⟨rfl, rfl, Status.noConfusion⟩
      · split
        · exact .inr ⟨rfl, rfl, Status.noConfusion⟩
        · exact .inl rfl
    · unfold seqSwitchCmd
      split
      · exact .inl rfl
      · exact .inr ⟨rfl, rfl, Status.noConfusion⟩

end Sys2Proof.Machine
end

section
/-! ### Event, mask and counter-clear registers (R57, R58, R60) -/

namespace Sys2Proof.Machine

/-! The header's registers. -/

section
variable {s : State} {p o : Nat} {v : Word}

theorem pageOf_header (h : o < 0x1000) : pageOf (addrOf p o) = p := by
  simp only [pageOf, addrOf]
  omega

theorem offOf_header (h : o < 0x1000) : offOf (addrOf p o) = o := by
  simp only [offOf, addrOf]
  omega

theorem pageOk_lt (h : pageOk p = true) : p < 256 := by
  unfold pageOk pageInfo at h
  obtain ⟨i, hi⟩ := Option.isSome_iff_exists.1 h
  have hmem := List.mem_of_find?_eq_some hi
  have hp : i.page = p := by simpa using List.find?_some hi
  have hall : ∀ i ∈ pageInfos, i.page < 256 := by decide
  exact hp ▸ hall i hmem

/-- The ranges beside the map are of block registers. -/
theorem rangeOk2_header {a : Nat} (h : offOf a < 0x40) : rangeOk2 a v = true := by
  have hne : ∀ n, 0x40 ≤ n % 4096 → a ≠ n := fun n hn he => by
    unfold offOf at h
    omega
  unfold offOf at h
  unfold rangeOk2
  rw [if_neg (hne 0x25050 (by decide)), if_neg (hne 0x24064 (by decide)), if_neg (by omega : ¬ (0x240A0 ≤ a ∧ a < 0x24180 ∧ _)),
    if_neg (by omega : ¬ (0x240A0 ≤ a ∧ a < 0x24180 ∧ _)), if_neg (hne 0x8058 (by decide)), if_neg (hne 0x404C (by decide)),
    if_neg (not_or.2 ⟨hne 0x4098 (by decide), hne 0x40A0 (by decide)⟩), if_neg (by omega : ¬ (0x5040 ≤ a ∧ a < 0x5440 ∧ _)),
    if_neg (by omega : ¬ (0x7044 ≤ a ∧ a ≤ 0x705C)), if_neg (not_or.2 ⟨hne 0x1A044 (by decide), hne 0x1B044 (by decide)⟩),
    if_neg (hne 0x1C05C (by decide)), if_neg (by omega : ¬ (0x1D048 ≤ a ∧ a < 0x1D058)), if_neg (by omega : ¬ (0x1D078 ≤ a ∧ a < 0x1D088)),
    if_neg (by omega : ¬ (0x1D098 ≤ a ∧ a < 0x1D0A8)), if_neg (not_or.2 ⟨hne 0x1406C (by decide), hne 0x1506C (by decide)⟩),
    if_neg (hne 0x20054 (by decide)), if_neg (hne 0x25060 (by decide))]

/-- The header's writable registers that hold neither RW nor RWS fields. -/
def eventReg (o : Nat) : Bool := [0x14, 0x18, 0x20, 0x24, 0x28].contains o

theorem eventReg_cases (h : eventReg o = true) : o = 0x14 ∨ o = 0x18 ∨ o = 0x20 ∨ o = 0x24 ∨ o = 0x28 := by
  simpa [eventReg] using h

theorem valueStatus_event (hp : pageOk p = true) (ho : eventReg o = true) : valueStatus (addrOf p o) v = .ok := by
  have ho' := eventReg_cases ho
  have haddr : addrOk (addrOf p o) = true := by
    unfold addrOk
    rw [pageOf_header (by omega)]
    unfold pageOk at hp
    obtain ⟨i, hi⟩ := Option.isSome_iff_exists.1 hp
    rw [hi]
    have hall : ∀ i ∈ pageInfos, 0x30 ≤ 4 * i.nReg := by decide
    have hn := hall i (List.mem_of_find?_eq_some hi)
    have hof : offOf (addrOf p o) = o := offOf_header (by omega)
    have h4 : addrOf p o % 4 = 0 := by simp only [addrOf]; omega
    exact decide_eq_true ⟨h4, by omega⟩
  have hrange : rangeOk (addrOf p o) v = true := by
    have hfields : fieldsAt (addrOf p o) = rowsHeader.filter (fun r => r.covers o) := by
      unfold fieldsAt
      rw [offOf_header (by omega)]
      exact if_pos (by omega)
    have hacc : ∀ o', eventReg o' = true → (rowsHeader.filter (fun r => r.covers o')).all (fun r => r.acc != .rw && r.acc != .rws) = true := fun o' h' => by
      rcases eventReg_cases h' with rfl | rfl | rfl | rfl | rfl <;> decide
    unfold rangeOk
    rw [hfields, List.all_eq_true]
    intro r hr
    have hr' := List.all_eq_true.1 (hacc o ho) r hr
    split
    · rename_i he
      rw [he] at hr'
      exact absurd hr' (by decide)
    · rename_i he
      rw [he] at hr'
      exact absurd hr' (by decide)
    · rfl
  have hrange2 : rangeOk2 (addrOf p o) v = true := rangeOk2_header (by rw [offOf_header (by omega)]; omega)
  have hone : oneBitRegs.contains (addrOf p o) = false := by
    have hall : ∀ a ∈ oneBitRegs, 0x40 ≤ a % 4096 := by decide
    rw [List.contains_eq_mem, decide_eq_false_iff_not]
    intro hm
    have h40 := hall _ hm
    simp only [addrOf] at h40
    omega
  unfold valueStatus
  rw [haddr, hrange, hrange2, hone]
  rfl

/-- A word of an event register at its tick, where it is neither refused by LOCK nor an event clear. -/
theorem writeNow_event {t : State} (hp : pageOk p = true) (ho : eventReg o = true) (hl : s.locked p = false ∨ o = 0x18)
    (hw : s.headerWrite p o v s.writer = (t, .ok)) : s.writeNow [(addrOf p o, v)] = t.settled (addrOf p o) v := by
  have ho' := eventReg_cases ho
  have hpg : pageOf (addrOf p o) = p := pageOf_header (by omega)
  have hof : offOf (addrOf p o) = o := offOf_header (by omega)
  refine writeNow_settles (valueStatus_event hp ho) ((wordWrite_header ?_ (by omega) _).trans ?_)
  · refine hl.imp (fun h => by rw [hpg]; exact h) (fun h => ?_)
    unfold lockFree
    rw [hof, h]
    rfl
  · rw [hpg, hof]
    exact hw

theorem settled_event {t : State} (ho : eventReg o = true) (h18 : o ≠ 0x18) : t.settled (addrOf p o) v = t := by
  have ho' := eventReg_cases ho
  have hof : offOf (addrOf p o) = o := offOf_header (by omega)
  exact settled_plain (by omega) (by omega) (by simp only [addrOf]; omega)

/-- An event clear: the events raised at the same tick win. -/
theorem settled_clear {t : State} : t.settled (addrOf p 0x18) v = ((List.range 32).filter (fun b => wbit v b)).foldl (fun x b => x.evtWin p b) t := by
  have hof : offOf (addrOf p 0x18) = 0x18 := offOf_header (by decide)
  have hpg : pageOf (addrOf p 0x18) = p := pageOf_header (by decide)
  have hno : ¬ (0x5040 ≤ addrOf p 0x18 ∧ addrOf p 0x18 < 0x5440 ∧ addrOf p 0x18 % 16 = 12) := by simp only [addrOf]; omega
  unfold State.settled State.evtWins State.armWords
  simp only [List.filter_cons, List.filter_nil, hof, beq_self_eq_true, if_true, List.foldl_cons, List.foldl_nil, hpg, hno, if_false]
  rfl

theorem locked_event (ho : eventReg o = true) (h18 : o ≠ 0x18) (hl : s.locked p = true) : s.writeNow [(addrOf p o, v)] = s := by
  have ho' := eventReg_cases ho
  have hof : offOf (addrOf p o) = o := offOf_header (by omega)
  refine writeNow_locked (by rw [pageOf_header (by omega)]; exact hl) ?_
  unfold lockFree
  rw [hof]
  have hno : ¬ (0x7080 ≤ addrOf p o ∧ addrOf p o < 0x7150) := by simp only [addrOf]; omega
  rw [decide_eq_false hno]
  simp only [Bool.false_and, Bool.or_false, Bool.or_eq_false_iff, beq_eq_false_iff_ne]
  omega

/-! PG_EVT_CLR. -/

theorem evtWin_none {t : State} {b : Nat} (h : ∀ e ∈ t.icu.fresh, ¬ (e.1 = p ∧ e.2.1 = b)) : t.evtWin p b = t := by
  have hf : t.icu.fresh.filter (fun e => e.1 == p && e.2.1 == b) = [] := List.filter_eq_nil_iff.2 fun e he => by simpa using h e he
  unfold State.evtWin
  rw [hf]
  rfl

/-- The state once a winning event's bit is set again. -/
def State.bitWon (t : State) (p b : Nat) : State :=
  let s1 := t.setF (bitAt (addrOf p 0x10) b) 1
  { s1 with icu := { s1.icu with fresh := s1.icu.fresh.map (fun x => if x.1 = p ∧ x.2.1 = b then (p, b, false) else x) } }

theorem evtWin_cases (t : State) (p b : Nat) : t.evtWin p b = t ∨ t.evtWin p b = t.bitWon p b ∨ t.evtWin p b = (t.bitWon p b).signal (0x100 + p) := by
  unfold State.evtWin
  cases (t.icu.fresh.filter (fun e => e.1 == p && e.2.1 == b)).getLast? with
  | none => exact .inl rfl
  | some e =>
    dsimp only
    split
    · exact .inr (.inr rfl)
    · exact .inr (.inl rfl)

theorem evtWin_wins {t : State} {b : Nat} (h : ∃ was, (p, b, was) ∈ t.icu.fresh) : t.evtWin p b = t.bitWon p b ∨ t.evtWin p b = (t.bitWon p b).signal (0x100 + p) := by
  obtain ⟨was, hw⟩ := h
  have hmem : (p, b, was) ∈ t.icu.fresh.filter (fun e => e.1 == p && e.2.1 == b) := List.mem_filter.2 ⟨hw, by simp⟩
  unfold State.evtWin
  cases hl : (t.icu.fresh.filter (fun e => e.1 == p && e.2.1 == b)).getLast? with
  | none => exact absurd (List.getLast?_eq_none_iff.1 hl ▸ hmem) (by simp)
  | some e =>
    dsimp only
    split
    · exact .inr rfl
    · exact .inl rfl

/-- A signal leaves the PENDING bits of every page. -/
theorem bit_signal_pend {t : State} {src c : Nat} (hs : src < 2 ^ 24) : (t.signal src).bit (bitAt (addrOf p 0x10) c) = t.bit (bitAt (addrOf p 0x10) c) := by
  refine bit_of_rd (f := bitAt (addrOf p 0x10) c)
    ((near_signal (p := icuReg) (q := fun _ => True) (Near.refl _ _ t) hs (fun _ h => h) trivial).regs (addrOf p 0x10) ?_)
  simp only [icuReg, addrOf]
  omega

/-- A PENDING bit that is set stays set while other bits are set. -/
theorem bit_setF_one_stays {t : State} {a b c : Nat} (h : t.bit (bitAt a c) = true) : (t.setF (bitAt a b) 1).bit (bitAt a c) = true := by
  by_cases hbc : b = c
  · subst hbc
    by_cases hb : b < 32
    · exact bit_setF_one_self hb rfl
    · have h0 : wbits (t.rd a) b 1 = 0 := by
        unfold wbits
        rw [BitVec.ushiftRight_eq_zero (by omega)]
        rfl
      unfold State.bit State.fld at h
      simp [h0] at h
  · rw [bit_setF_apart (by simp only [bitAt_lo, bitAt_w]; omega)]
    exact h

theorem evtWin_stays {t : State} {b c : Nat} (hp : p < 256) (h : t.bit (bitAt (addrOf p 0x10) c) = true) :
    (t.evtWin p b).bit (bitAt (addrOf p 0x10) c) = true := by
  have hwon : (t.bitWon p b).bit (bitAt (addrOf p 0x10) c) = true := bit_setF_one_stays h
  rcases evtWin_cases t p b with he | he | he
  · rw [he]; exact h
  · rw [he]; exact hwon
  · rw [he, bit_signal_pend (by omega)]; exact hwon

theorem evtWin_sets {t : State} {b : Nat} (hp : p < 256) (hb : b < 32) (h : ∃ was, (p, b, was) ∈ t.icu.fresh) :
    (t.evtWin p b).bit (bitAt (addrOf p 0x10) b) = true := by
  have hwon : (t.bitWon p b).bit (bitAt (addrOf p 0x10) b) = true := bit_setF_one_self (s := t) hb rfl
  rcases evtWin_wins h with he | he
  · rw [he]; exact hwon
  · rw [he, bit_signal_pend (by omega)]; exact hwon

theorem fresh_icuEvalT (t : State) (n : Nat) : (t.icuEvalT n).icu.fresh = t.icu.fresh := by
  unfold State.icuEvalT
  extract_lets n old ic s1 s2
  have h2 : s2.icu.fresh = t.icu.fresh := by
    unfold s2
    split
    · split <;> rfl
    · rfl
  unfold State.icuTgtStat
  exact (congrArg IcuSt.fresh (icu_wr ..)).trans h2

theorem fresh_icuEval (t : State) : t.icuEval.icu.fresh = t.icu.fresh := by
  have hfold : ∀ (l : List Nat) (u : State), (l.foldl (fun a n => a.icuEvalT n) u).icu.fresh = u.icu.fresh := fun l => by
    induction l with
    | nil => exact fun _ => rfl
    | cons x l ih => exact fun u => (ih _).trans (fresh_icuEvalT u x)
  unfold State.icuEval State.icuPendN
  exact (congrArg IcuSt.fresh (icu_setF ..)).trans (hfold _ t)

theorem fresh_signal (t : State) (src : Nat) : (t.signal src).icu.fresh = t.icu.fresh := by
  unfold State.signal
  extract_lets s1 n s2
  split
  · rfl
  · rw [fresh_icuEval]
    unfold s2
    split <;> rfl

/-- A fresh event stays listed. -/
theorem evtWin_fresh {t : State} {b c : Nat} (h : ∃ was, (p, c, was) ∈ t.icu.fresh) : ∃ was, (p, c, was) ∈ (t.evtWin p b).icu.fresh := by
  have hwon : ∃ was, (p, c, was) ∈ (t.bitWon p b).icu.fresh := by
    obtain ⟨was, hw⟩ := h
    by_cases hc : c = b
    · exact ⟨false, List.mem_map.2 ⟨_, hw, by rw [hc]; simp⟩⟩
    · exact ⟨was, List.mem_map.2 ⟨_, hw, if_neg fun hx => hc hx.2⟩⟩
  rcases evtWin_cases t p b with he | he | he
  · rw [he]; exact h
  · rw [he]; exact hwon
  · rw [he, fresh_signal]; exact hwon

theorem evtWins_stays {l : List Nat} : ∀ {t : State} {c : Nat}, p < 256 → t.bit (bitAt (addrOf p 0x10) c) = true →
    (l.foldl (fun x b => x.evtWin p b) t).bit (bitAt (addrOf p 0x10) c) = true := by
  induction l with
  | nil => exact fun _ h => h
  | cons x l ih => exact fun hp h => ih hp (evtWin_stays hp h)

theorem evtWins_sets {l : List Nat} {b : Nat} (hp : p < 256) (hb : b < 32) : ∀ {t : State}, b ∈ l → (∃ was, (p, b, was) ∈ t.icu.fresh) →
    (l.foldl (fun x b => x.evtWin p b) t).bit (bitAt (addrOf p 0x10) b) = true := by
  induction l with
  | nil => exact fun h _ => absurd h (by simp)
  | cons x l ih =>
    intro t h hf
    rw [List.foldl_cons]
    rcases List.mem_cons.1 h with h | h
    · exact evtWins_stays hp (h ▸ evtWin_sets hp hb hf)
    · exact ih h (evtWin_fresh hf)

theorem evtWins_none {l : List Nat} {t : State} (h : ∀ b ∈ l, ∀ e ∈ t.icu.fresh, ¬ (e.1 = p ∧ e.2.1 = b)) : l.foldl (fun x b => x.evtWin p b) t = t := by
  induction l with
  | nil => rfl
  | cons x l ih =>
    rw [List.foldl_cons, evtWin_none (h x (List.mem_cons_self ..))]
    exact ih fun b hb => h b (List.mem_cons_of_mem _ hb)

variable (hp : pageOk p = true)
include hp

theorem exec_evtClr : exec (.pgEvtClr p v) s = .next (((List.range 32).filter (fun b => wbit v b)).foldl (fun x b => x.evtWin p b) (s.evtClr p v)) :=
  have hw : s.headerWrite p 0x18 v s.writer = (s.evtClr p v, .ok) := rfl
  next_congr ((writeNow_event (o := 0x18) hp (by decide) (.inr rfl) hw).trans settled_clear)

theorem evtClr_clears (hf : ∀ e ∈ s.icu.fresh, e.1 = p → wbit v e.2.1 = false) : runs (.pgEvtClr p v) s (fun t =>
    t.rd (addrOf p 0x10) = s.rd (addrOf p 0x10) &&& ~~~ v ∧ s.regsBut t (fun a => a = addrOf p 0x10) ∧ s.onlyIn t [.regs]) := by
  refine runs_intro ((exec_evtClr hp).trans (next_congr (evtWins_none fun b hb e he hx => ?_)))
    ⟨rd_wr_self, regsBut_wr (regsBut_refl s _) rfl, wr_only _ _ _⟩
  have hv := hf e he hx.1
  rw [hx.2, (List.mem_filter.1 hb).2] at hv
  exact absurd hv (by decide)

theorem evtClr_loses {b : Nat} (hb : b < 32) (hf : ∃ was, (p, b, was) ∈ s.icu.fresh) (hv : wbit v b = true) :
    runs (.pgEvtClr p v) s (fun t => t.bit (bitAt (addrOf p 0x10) b) = true) :=
  runs_intro (exec_evtClr hp) (evtWins_sets (pageOk_lt hp) hb (List.mem_filter.2 ⟨List.mem_range.2 hb, hv⟩) hf)

/-! The mask and the event set. -/

section
variable (hl : s.locked p = false)
include hl

theorem maskSet_sets : runs (.pgMaskSet p v) s (fun t => t.rd (addrOf p 0x1C) = s.rd (addrOf p 0x1C) ||| v
    ∧ s.regsBut t (fun a => a = addrOf p 0x1C) ∧ s.onlyIn t [.regs]) :=
  runs_intro (next_congr ((writeNow_event hp (by decide) (.inl hl) rfl).trans (settled_event (by decide) (by decide))))
    ⟨rd_wr_self, regsBut_wr (regsBut_refl s _) rfl, wr_only _ _ _⟩

theorem maskClr_clears : runs (.pgMaskClr p v) s (fun t => t.rd (addrOf p 0x1C) = s.rd (addrOf p 0x1C) &&& ~~~ v
    ∧ s.regsBut t (fun a => a = addrOf p 0x1C ∨ icuReg a)
    ∧ (s.rd (addrOf p 0x10) &&& s.rd (addrOf p 0x1C) &&& v = 0 → s.onlyIn t [.regs])) := by
  have he : exec (.pgMaskClr p v) s = .next (s.maskClr p v) :=
    next_congr ((writeNow_event hp (by decide) (.inl hl) rfl).trans (settled_event (by decide) (by decide)))
  have hsig : Near icuReg (fun _ => True) (s.wr (addrOf p 0x1C) (s.rd (addrOf p 0x1C) &&& ~~~ v)) (s.maskClr p v) :=
    near_foldl (Near.refl _ _ _) fun _ _ _ ha => near_signal ha (by have := pageOk_lt hp; omega) (fun _ h => h) trivial
  have hne : ¬ icuReg (addrOf p 0x1C) := by
    simp only [icuReg, addrOf]
    omega
  refine runs_intro he ⟨(hsig.regs _ hne).trans rd_wr_self, ?_, fun h0 => ?_⟩
  · exact regsBut_trans (regsBut_wr (regsBut_refl s _) (.inl rfl)) (regsBut_mono hsig.regs fun _ h => .inr h)
  · have hnil : (List.range 32).filter (fun b => wbit (s.rd (addrOf p 0x10) &&& s.rd (addrOf p 0x1C) &&& v) b) = [] :=
      List.filter_eq_nil_iff.2 fun b _ => by
        rw [h0]
        simp [wbit]
    have hwr : s.maskClr p v = s.wr (addrOf p 0x1C) (s.rd (addrOf p 0x1C) &&& ~~~ v) := by
      unfold State.maskClr
      dsimp only
      rw [hnil]
      rfl
    rw [hwr]
    exact wr_only _ _ _

theorem evtCnt_clears (h31 : wbit v 31 = true) : runs (.counterClear (addrOf p 0x28) v) s (fun t => t.rd (addrOf p 0x28) = 0
    ∧ s.regsBut t (fun a => a = addrOf p 0x28) ∧ s.onlyIn t [.regs]) := by
  have hclr : clearReg (addrOf p 0x28) = true := by
    unfold clearReg
    rw [offOf_header (by decide)]
    rfl
  have hw : s.headerWrite p 0x28 v s.writer = (s.wr (addrOf p 0x28) 0, .ok) := congrArg (·, Status.ok) (if_pos h31)
  refine runs_intro (next_congr ((if_pos hclr).trans ((writeNow_event hp (by decide) (.inl hl) hw).trans (settled_event (by decide) (by decide)))))
    ⟨rd_wr_self, regsBut_wr (regsBut_refl s _) rfl, wr_only _ _ _⟩

end

/-- An event's bit is set by raising it, on the recorder's page too. -/
theorem raiseEv_pend {b : Nat} (hb : b < 32) : (s.raiseEv p b).bit (bitAt (addrOf p 0x10) b) = true := by
  have hlt := pageOk_lt hp
  by_cases h8 : p = 8
  · subst h8
    show (s.raiseNoRec 8 b).bit _ = true
    rw [raiseNoRec_eq]
    split
    · rw [bit_signal_pend (by decide)]
      exact bit_posted_self hb
    · exact bit_posted_self hb
  · exact (raiseEv_shows hlt h8 hb).1

theorem raiseEv_stays {b c : Nat} (h : s.bit (bitAt (addrOf p 0x10) c) = true) : (s.raiseEv p b).bit (bitAt (addrOf p 0x10) c) = true := by
  have hlt := pageOk_lt hp
  by_cases h8 : p = 8
  · subst h8
    exact bit_raiseNoRec_stays (by decide) rfl h
  · exact bit_raiseEv_stays (by omega) (by omega) h8 rfl h

omit hp in
theorem evtBits_lt {b : Nat} (h : b ∈ evtBits p v) : b < 32 := by
  unfold evtBits at h
  exact List.mem_range.1 (List.mem_filter.1 h).1

theorem evtSet_sets (hl : s.locked p = false) : runs (.pgEvtSet p v) s (fun t => (∀ b, b < 32 → (b ∈ evtBits p v → t.bit (bitAt (addrOf p 0x10) b) = true)
    ∧ (b ∉ evtBits p v → p ≠ 8 → t.bit (bitAt (addrOf p 0x10) b) = s.bit (bitAt (addrOf p 0x10) b)))
    ∧ s.regsBut t (evReg p) ∧ s.onlyIn t evParts) := by
  have hlt := pageOk_lt hp
  have he : exec (.pgEvtSet p v) s = .next (s.evtSet p v) :=
    next_congr ((writeNow_event hp (by decide) (.inl hl) rfl).trans (settled_event (by decide) (by decide)))
  have hstays : ∀ (l : List Nat) (t : State) (c : Nat), t.bit (bitAt (addrOf p 0x10) c) = true →
      (l.foldl (fun a b => a.raiseEv p b) t).bit (bitAt (addrOf p 0x10) c) = true := fun l => by
    induction l with
    | nil => exact fun _ _ h => h
    | cons x l ih => exact fun t c h => ih _ c (raiseEv_stays hp h)
  have hsets : ∀ (l : List Nat) (t : State) (c : Nat), c < 32 → c ∈ l → (l.foldl (fun a b => a.raiseEv p b) t).bit (bitAt (addrOf p 0x10) c) = true := fun l => by
    induction l with
    | nil => exact fun _ _ _ h => absurd h (by simp)
    | cons x l ih =>
      intro t c hc h
      rcases List.mem_cons.1 h with rfl | h
      · exact hstays l _ _ (raiseEv_pend hp hc)
      · exact ih _ c hc h
  have hapart : p ≠ 8 → ∀ (l : List Nat) (t : State) (c : Nat), c < 32 → c ∉ l → (∀ b ∈ l, b < 32) →
      (l.foldl (fun a b => a.raiseEv p b) t).bit (bitAt (addrOf p 0x10) c) = t.bit (bitAt (addrOf p 0x10) c) := fun h8 l => by
    induction l with
    | nil => exact fun _ _ _ _ _ => rfl
    | cons x l ih =>
      intro t c hc h hall
      rw [List.mem_cons, not_or] at h
      exact (ih _ c hc h.2 fun b hb => hall b (List.mem_cons_of_mem _ hb)).trans
        ((raiseEv_shows hlt h8 (hall x (List.mem_cons_self ..))).2.1 c hc h.1)
  refine runs_intro he ⟨fun b hb => ⟨hsets _ s b hb, fun hn h8 => hapart h8 _ s b hb hn fun _ => evtBits_lt⟩, ?_, ?_⟩
  · exact (near_foldl (Near.refl (evReg p) evTbl s) fun _ _ _ ha => evNear_raiseEv ha (by omega)).regs
  · have hfold : ∀ (l : List Nat) (t : State), s.onlyIn t evParts → s.onlyIn (l.foldl (fun a b => a.raiseEv p b) t) evParts := fun l => by
      induction l with
      | nil => exact fun _ h => h
      | cons x l ih => exact fun t h => ih _ (onlyIn_trans h (onlyIn_mono (raiseEv_only t p x) (by decide)))
    exact hfold _ s (onlyIn_refl s _)

end

end Sys2Proof.Machine
end

section
/-! ### The clear fields of the counters (R60) -/

namespace Sys2Proof.Machine

/-- From `s` to `t` register bits have only been cleared. -/
def Cleared (s t : State) : Prop := ∀ a i, (t.rd a).getLsbD i = true → (s.rd a).getLsbD i = true

section
variable {s t u : State}

theorem Cleared.refl (s : State) : Cleared s s := fun _ _ h => h

theorem Cleared.trans (h : Cleared s t) (h' : Cleared t u) : Cleared s u := fun a i hi => h a i (h' a i hi)

/-- A field at 0 stays at 0. -/
theorem Cleared.fld (h : Cleared s t) {f : Fld} (h0 : s.fld f = 0) : t.fld f = 0 := by
  refine Nat.eq_of_testBit_eq fun i => ?_
  have hi : (s.fld f).testBit i = false := by rw [h0, Nat.zero_testBit]
  unfold State.fld at hi ⊢
  rw [wbits_testBit] at hi ⊢
  rw [Nat.zero_testBit, Bool.and_eq_false_iff] at *
  rcases hi with hi | hi
  · exact .inl hi
  · exact .inr (Bool.eq_false_iff.2 fun hc => by rw [h _ _ hc] at hi; exact absurd hi (by decide))

theorem cleared_wr {a : Nat} {v : Word} (h : ∀ i, v.getLsbD i = true → (s.rd a).getLsbD i = true) : Cleared s (s.wr a v) := by
  intro b i hi
  rw [rd_wr] at hi
  split at hi
  · rename_i hb
    exact hb ▸ h i hi
  · exact hi

theorem cleared_setF (s : State) (f : Fld) : Cleared s (s.setF f 0) := by
  refine cleared_wr fun i hi => ?_
  have hlt : i < 32 := BitVec.lt_of_getLsbD hi
  rw [wput_getLsbD _ _ _ _ _ hlt] at hi
  split at hi
  · rw [Nat.zero_testBit] at hi
    exact absurd hi (by decide)
  · exact hi

theorem cleared_mask (s : State) (a : Nat) (m : Word) : Cleared s (s.wr a (s.rd a &&& m)) :=
  cleared_wr fun _ hi => (Bool.and_eq_true_iff.1 ((BitVec.getLsbD_and ..).symm.trans hi)).1

theorem cleared_zero (s : State) (a : Nat) : Cleared s (s.wr a 0) := cleared_wr fun _ hi => absurd hi (by simp)

theorem cleared_clearCtr (s : State) (c : Ctr) : Cleared s (s.clearCtr c) := by
  unfold State.clearCtr
  split
  · exact Cleared.refl s
  · exact (cleared_setF _ _).trans (cleared_setF _ _)

theorem cleared_foldl {α : Type} {f : State → α → State} (hf : ∀ a e, Cleared a (f a e)) (l : List α) (s : State) : Cleared s (l.foldl f s) := by
  induction l generalizing s with
  | nil => exact Cleared.refl s
  | cons e l ih => exact (hf s e).trans (ih _)

/-- The clear registers beside the counters clear bits, but that of the time page also shows the error estimate. -/
theorem clearSide_cleared {a : Nat} {v : Word} : Cleared s (s.clearSide a v) ∨ s.clearSide a v = s.errEst := by
  unfold State.clearSide State.sticky
  split_ifs
  · exact .inl (cleared_mask _ _ _)
  · exact .inr rfl
  · exact .inl (cleared_mask _ _ _)
  · exact .inl (cleared_mask _ _ _)
  · exact .inl (cleared_mask _ _ _)
  · exact .inl (cleared_zero _ _)
  · exact .inl ((cleared_zero _ _).trans (cleared_zero _ _))
  · exact .inl (Cleared.refl s)

end

/-- Counters and their flags that stand at 0 stay there when nothing but the error estimate is written. -/
theorem clearSide_keeps_zero {s : State} {a : Nat} {v : Word} {f : Fld} (hf : f.addr ≠ 0x4070) (h : s.fld f = 0) : (s.clearSide a v).fld f = 0 := by
  rcases clearSide_cleared (s := s) (a := a) (v := v) with hc | he
  · exact hc.fld h
  · rw [he]
    exact (fld_wr_apart hf).trans h

/-- What is needed of a counter of kind S with a clear field: its clear register is an ordinary block register or one of the interrupt
controller's that is no command, and its own word is none that is written on the way. -/
def clearable (c : Ctr) : Bool :=
  decide (0x40 ≤ offOf c.clr.1) && decide (c.f.lo + c.f.w ≤ 32) && decide (c.ovf.2 < 32) && c.f.addr != 0x4070 && c.ovf.1 != 0x4070
    && !(decide (0x5040 ≤ c.clr.1 ∧ c.clr.1 < 0x5440))
    && (if pageOf c.clr.1 = 0x07 then (cmdsAt c.clr.1 none).isNone && !decide (0x7044 ≤ c.clr.1 ∧ c.clr.1 ≤ 0x705C) && !decide (0x7080 ≤ c.clr.1 ∧ c.clr.1 < 0x7150)
          && !([c.f.addr, c.ovf.1].any (fun a => a == 0x7064 || (decide (0x708C ≤ a ∧ a ≤ 0x714C) && a % 16 == 12)))
        else wordReg c.clr.1 && quietReg c.clr.1)

theorem ctrs_clearable : allCtrs.all (fun c => c.kind != .S || c.clr.1 == 0 || clearable c) = true := by decide +kernel

section
variable {s : State} {c : Ctr} {v : Word}

/-- A counter of the page whose clear bit is written stands at 0, its flag too. -/
theorem ctrClear_clears (hm : c ∈ ctrsOf (pageOf c.clr.1)) (hk : c.kind = .S) (h0 : c.clr.1 ≠ 0) (hv : wbit v c.clr.2 = true)
    (hw : c.f.lo + c.f.w ≤ 32) (ho : c.ovf.2 < 32) :
    (s.ctrClear c.clr.1 v).fld c.f = 0 ∧ (s.ctrClear c.clr.1 v).fld (bitAt c.ovf.1 c.ovf.2) = 0 := by
  obtain ⟨l1, l2, hl⟩ := List.append_of_mem hm
  have hrest : ∀ (l : List Ctr) (t : State), Cleared t (l.foldl (fun x d => if d.clr.1 = c.clr.1 && c.clr.1 != 0 && wbit v d.clr.2 then x.clearCtr d else x) t) :=
    fun l t => cleared_foldl (fun a d => by
      split
      · exact cleared_clearCtr a d
      · exact Cleared.refl a) l t
  have hself : ∀ t : State, (t.clearCtr c).fld c.f = 0 ∧ (t.clearCtr c).fld (bitAt c.ovf.1 c.ovf.2) = 0 := fun t => by
    unfold State.clearCtr
    rw [hk]
    have hz : ∀ (u : State) (g : Fld), g.lo + g.w ≤ 32 → (u.setF g 0).fld g = 0 := fun u g hg => (fld_setF_self hg).trans (Nat.zero_mod _)
    exact ⟨(cleared_setF _ _).fld (hz _ _ hw), hz _ _ (by simp only [bitAt_lo, bitAt_w]; omega)⟩
  unfold State.ctrClear
  rw [hl, List.foldl_append, List.foldl_cons, if_pos (by simp [h0, hv])]
  exact ⟨(hrest l2 _).fld (hself _).1, (hrest l2 _).fld (hself _).2⟩

theorem counterClear_clears (hm : c ∈ ctrsOf (pageOf c.clr.1)) (hk : c.kind = .S) (h0 : c.clr.1 ≠ 0) (hv : wbit v c.clr.2 = true)
    (hval : valueStatus c.clr.1 v = .ok) (hl : s.locked (pageOf c.clr.1) = false) :
    runs (.counterClear c.clr.1 v) s (fun t => t.fld c.f = 0 ∧ t.bit (bitAt c.ovf.1 c.ovf.2) = false) := by
  have hall := List.all_eq_true.1 ctrs_clearable c (List.mem_of_mem_filter hm)
  rw [hk] at hall
  simp only [bne_self_eq_false, Bool.false_or, Bool.or_eq_true, beq_iff_eq, h0, false_or] at hall
  unfold clearable at hall
  simp only [Bool.and_eq_true, decide_eq_true_eq, Bool.not_eq_true', decide_eq_false_iff_not, bne_iff_ne] at hall
  obtain ⟨⟨⟨⟨⟨⟨h40, hw⟩, ho⟩, hf⟩, hof⟩, h5⟩, hreg⟩ := hall
  have hclr : clearReg c.clr.1 = true := by
    unfold clearReg
    rw [Bool.or_eq_true]
    exact .inr (List.any_eq_true.2 ⟨c, hm, by simp [h0]⟩)
  obtain ⟨z1, z2⟩ := ctrClear_clears (s := s.plainWrite c.clr.1 v) hm hk h0 hv hw ho
  have hrun : ∀ t, s.blockWrite c.clr.1 v s.writer = (t, .ok) → exec (.counterClear c.clr.1 v) s = .next t := fun t ht =>
    next_congr ((if_pos hclr).trans ((writeNow_settles hval ((wordWrite_block hl h40 _).trans ht)).trans
      (settled_plain (by omega) (by omega) fun h => h5 ⟨h.1, h.2.1⟩)))
  by_cases h7 : pageOf c.clr.1 = 0x07
  · rw [if_pos h7] at hreg
    simp only [Bool.and_eq_true, Bool.not_eq_true', decide_eq_false_iff_not, List.any_cons, List.any_nil, Bool.or_false, Bool.or_eq_false_iff,
      beq_eq_false_iff_ne, Bool.and_eq_false_iff] at hreg
    obtain ⟨⟨⟨hcmd, hno1⟩, hno2⟩, ⟨n1, n2⟩, n3, n4⟩ := hreg
    have hicu : s.blockWrite c.clr.1 v s.writer = (((s.plainWrite c.clr.1 v).ctrClear c.clr.1 v).icuEval, .ok) := by
      unfold State.blockWrite
      rw [cmdsAt_none hcmd]
      dsimp only
      rw [if_pos h7]
      unfold State.icuPage
      rw [if_neg (by omega), if_neg (by omega), if_neg (by omega), if_neg (by omega), if_neg (by omega), if_neg (by omega), if_neg (by omega),
        if_neg (fun h => by omega), if_neg (fun h => by omega)]
    have hkeep : ∀ a, ¬ icuReg a → (((s.plainWrite c.clr.1 v).ctrClear c.clr.1 v).icuEval).rd a = ((s.plainWrite c.clr.1 v).ctrClear c.clr.1 v).rd a :=
      (near_icuEval (p := icuReg) (q := fun _ => True) (Near.refl _ _ _) fun _ h => h).regs
    have e1 := fld_of_rd (f := c.f) (hkeep _ (by unfold icuReg; omega))
    have e2 := fld_of_rd (f := bitAt c.ovf.1 c.ovf.2) (hkeep c.ovf.1 (by unfold icuReg; omega))
    refine runs_intro (hrun _ hicu) ⟨e1.trans z1, ?_⟩
    unfold State.bit
    rw [e2, z2]
    rfl
  · rw [if_neg h7] at hreg
    obtain ⟨hword, hquiet⟩ := Bool.and_eq_true_iff.1 hreg
    have hblk := blockWrite_word (s := s) (v := v) hword s.writer
    rw [wrote_quiet hquiet] at hblk
    refine runs_intro (hrun _ hblk) ⟨clearSide_keeps_zero hf z1, ?_⟩
    unfold State.bit
    rw [clearSide_keeps_zero (f := bitAt c.ovf.1 c.ovf.2) hof z2]
    rfl

end

/-- Settles O20: the header's event and mask registers, and the clear fields of the page maps' counters. -/
theorem eventMaskAndCounterWrites : Obligations.EventMaskAndCounterWrites := by
  refine ⟨fun p v s hp => ⟨evtClr_clears hp, fun _ hb hf hv => evtClr_loses hp hb hf hv, fun hl =>
    ⟨maskSet_sets hp hl, maskClr_clears hp hl, evtSet_sets hp hl, evtCnt_clears hp hl⟩, fun hl => ⟨?_, ?_, ?_⟩⟩,
    fun _ _ _ hm hk h0 hv hval hl => counterClear_clears hm hk h0 hv hval hl⟩
  · exact next_congr (locked_event (o := 0x20) (by decide) (by decide) hl)
  · exact next_congr (locked_event (o := 0x24) (by decide) (by decide) hl)
  · exact next_congr (locked_event (o := 0x14) (by decide) (by decide) hl)

end Sys2Proof.Machine
end

section
/-! ### The frame sequencer: entries, overruns and lost engines -/

namespace Sys2Proof.Machine

/-! #### Entering FAULT (R522) -/

/-- The registers that entering FAULT writes, with those of its event. -/
def faultReg (a : Nat) : Bool := modeReg a || a == 0x005C || a == 0x009C || a == 0x00A0 || pageOf a == 0x1D

theorem faultReg_of_modeReg {a : Nat} (h : modeReg a = true) : faultReg a = true := by simp [faultReg, h]

theorem near_outputsSafe {p q : Nat → Prop} {s t : State} (h : Near p q s t) (hp : ∀ a, pageOf a = 0x1D → p a) : Near p q s t.outputsSafe := by
  have hword : ∀ base k, base = 0x1D068 ∨ base = 0x1D0A8 → k ∈ [0, 1, 2, 3] → p (base + 4 * k) := fun base k hb hk => hp _ (by
    simp only [List.mem_cons, List.not_mem_nil, or_false] at hk
    simp only [pageOf_eq]
    omega)
  unfold State.outputsSafe State.aoutStat
  refine near_setF (near_setF (near_foldl (near_foldl h fun a i hi ha => ?_) fun a k hk ha => ?_) (hp _ rfl)) (hp _ rfl)
  · exact near_ite' (near_setF ha (hword _ _ (.inl rfl) hi)) ha
  · exact near_ite' (near_pwmStart (near_setF ha (hword _ _ (.inr rfl) hk))) ha

theorem near_enterFault {p q : Nat → Prop} {s t : State} {c e : Nat} (h : Near p q s t) (hp : ∀ a, faultReg a = true → p a)
    (hq : ∀ x, evTbl x → q x) : Near p q s (t.enterFault c e) := by
  unfold State.enterFault
  refine near_ite' h ?_
  extract_lets s1 s2 d s3 s4
  have h2 : Near p q s s2 := near_bump (near_setF (near_setF h (hp _ rfl)) (hp _ rfl)) (hp _ rfl) (hp _ rfl)
  have h3 : Near p q s s3 := near_same h2 rfl rfl
  exact near_outputsSafe (near_setMstate (near_dioMod h3) (fun a ha => hp a (faultReg_of_modeReg ha)) hq)
    (fun a ha => hp a (by unfold faultReg; rw [ha]; simp))

theorem rd_enterFault {s : State} {c e a : Nat} (h : faultReg a = false) : (s.enterFault c e).rd a = s.rd a :=
  (near_enterFault (p := (faultReg · = true)) (q := fun _ => True) (Near.refl _ _ s) (fun _ => id) (fun _ _ => trivial)).regs a
    (by rw [h]; decide)

theorem fld_outputsSafe {s : State} {f : Fld} (h : pageOf f.addr ≠ 0x1D) : s.outputsSafe.fld f = s.fld f :=
  fld_of_rd ((near_outputsSafe (p := (pageOf · = 0x1D)) (q := fun _ => True) (Near.refl _ _ s) (fun _ => id)).regs _ h)

/-- The fields of the health word beside the module's state. -/
theorem fld_enterFault_health {s : State} {c e : Nat} {f : Fld} (ha : f.addr = 0x30044) (hl : f.lo + f.w ≤ 28) :
    (s.enterFault c e).fld f = s.fld f := by
  unfold State.enterFault
  split
  · rfl
  extract_lets s1 s2 d s3 s4
  have h2 : s2.fld f = s.fld f := (fld_bump_apart (by rw [ha]; decide) (by rw [ha]; decide)).trans
    ((fld_setF_apart (.inl (by rw [ha]; decide))).trans (fld_setF_apart (.inl (by rw [ha]; decide))))
  have hmode : (s4.setMstate 6).fld f = s4.fld f := by
    unfold State.setMstate
    split
    · rfl
    · exact (fld_raiseEv_apart (by decide) (by rw [ha]; decide) (by rw [ha]; decide) (by rw [ha]; decide) (by rw [ha]; decide)).trans
        ((fld_setF_apart (.inr (.inr hl))).trans ((fld_setF_apart (.inl (by rw [ha]; decide))).trans
          (fld_setF_apart (.inl (by rw [ha]; decide)))))
  have h4 : s4.fld f = s2.fld f := fld_of_regs rfl f
  exact (fld_outputsSafe (by rw [ha]; decide)).trans (hmode.trans (h4.trans h2))

/-- A module that was not in FAULT enters it with a cause. -/
theorem enterFault_enters {s : State} {c e : Nat} (hs : s.mstate ≠ 6) (hc : c < 256) :
    (s.enterFault c e).mstate = 6 ∧ (s.enterFault c e).fld ⟨0x005C, 0, 8⟩ = c := by
  unfold State.enterFault
  rw [if_neg hs]
  extract_lets s1 s2 d s3 s4
  have h2 : s2.fld ⟨0x005C, 0, 8⟩ = c :=
    (fld_bump_apart (by decide) (by decide)).trans ((fld_setF_apart (by decide)).trans ((fld_setF_self (by decide)).trans (Nat.mod_eq_of_lt hc)))
  have h4 : s4.fld ⟨0x005C, 0, 8⟩ = s2.fld ⟨0x005C, 0, 8⟩ := fld_of_regs rfl _
  refine ⟨(fld_outputsSafe (by decide)).trans (mstate_setMstate (by decide)), (fld_outputsSafe (by decide)).trans (Eq.trans ?_ (h4.trans h2))⟩
  exact fld_of_rd ((near_setMstate (p := (modeReg · = true)) (q := fun _ => True) (Near.refl _ _ s4) (fun _ => id) (fun _ _ => trivial)).regs _
    (by decide))

/-! #### Entries (R15, R72, R77, R80) -/

section
variable {s : State} {op u : Nat} {p : Entry → Bool} {f : State → State}

theorem entry_waiting (h : s.issues op u p = false) : s.entry op u p f = s := by
  unfold State.entry
  rw [h]
  rfl

theorem entry_off (h : s.issues op u p = true) (hoff : s.unitOff u = true) : s.entry op u p f = s.begun u := by
  unfold State.entry State.begun
  rw [h, hoff]
  rfl

theorem entry_takes (h : s.takes op u p) : s.entry op u p f = f (s.begun u) := by
  unfold State.entry State.begun
  rw [h.1, h.2]
  rfl

theorem nextEntry_of_ended (h : s.seq.ended = true) : s.nextEntry = none := by
  unfold State.nextEntry
  rw [h]
  simp

theorem nextEntry_of_waits (h : s.waits = true) : s.nextEntry = none := by
  unfold State.nextEntry
  rw [h]
  simp

theorem issues_of_none (h : s.nextEntry = none) : s.issues op u p = false := by
  unfold State.issues
  rw [h]

end

theorem nop_passes {s : State} {u : Nat} (h : s.issues 0x00 u (fun _ => true) = true) : s.entry 0x00 u (fun _ => true) (fun x => x) = s.begun u := by
  cases hoff : s.unitOff u
  · exact entry_takes ⟨h, hoff⟩
  · exact entry_off h hoff

/-! #### PUBLISH (R29, R96) -/

theorem mbxOf_mbxMod {s : State} {n k : Nat} {f : Mbx → Mbx} (hf : ∀ m, (f m).num = m.num) :
    (s.mbxMod n f).mbxOf k = if k = n then (s.mbxOf k).map f else s.mbxOf k := by
  have hcond : ∀ m : Mbx, ((if m.num = n then f m else m).num == k) = (m.num == k) := fun m => by
    split
    · rw [hf]
    · rfl
  simp only [State.mbxOf, State.mbxMod, List.find?_map, Function.comp_def, hcond]
  cases h : s.mbx.find? (fun m => m.num == k) with
  | none => split <;> rfl
  | some m =>
    have hnum : m.num = k := beq_iff_eq.1 (List.find?_some (p := fun m : Mbx => m.num == k) h)
    subst hnum
    exact apply_ite some _ _ _

/-- PUBLISH's predicate on the entry's ARG. -/
theorem publish_cases {s : State} {n : Nat} {copy : Bool} {m : Mbx} (hm : s.mbxOf n = some m) :
    publish n copy s = if s.seq.skip.contains m.writer then
        (if s.issues 0x02 m.writer (fun e => e.arg % 2 ^ 12 == n && (e.arg / 2 ^ 12 % 2 == 1) == copy) then s.passEntry else s)
      else s.entry 0x02 m.writer (fun e => e.arg % 2 ^ 12 == n && (e.arg / 2 ^ 12 % 2 == 1) == copy)
        (fun x => x.closeMbx n (copy || x.switchFrame m.writer)) := by
  unfold publish
  rw [hm]

theorem closeMbx_closes {s : State} {n : Nat} {m : Mbx} (hm : s.mbxOf n = some m) (copy : Bool) (k : Bool) :
    (∃ m', (s.closeMbx n (copy || k)).mbxOf n = some m' ∧ m'.closed = true ∧ m'.front = m.front
      ∧ (copy = true ∨ k = true → m'.back = m.front) ∧ (copy = false → k = false → m'.back = m.written))
    ∧ ∀ j, j ≠ n → (s.closeMbx n (copy || k)).mbxOf j = s.mbxOf j := by
  have hmod := fun j => mbxOf_mbxMod (s := s) (n := n) (k := j)
    (f := fun m => { m with back := if copy || k then m.front else m.written, closed := true }) (fun _ => rfl)
  refine ⟨⟨_, (hmod n).trans ((if_pos rfl).trans (congrArg _ hm)), rfl, rfl, fun h => ?_, fun h1 h2 => ?_⟩, fun j hj => (hmod j).trans (if_neg hj)⟩
  · exact if_pos (by rcases h with h | h <;> simp [h])
  · exact if_neg (by simp [h1, h2])

/-! #### SNAP (R412): an event's record enters the intake queue -/

theorem evrTake_intake (s : State) (k : Nat) : (s.evrTake k).evr.intake = s.evr.intake := by
  have hset : ∀ (u : State) n, (u.evrSetTokens k n).evr.intake = u.evr.intake := fun u n => by
    unfold State.evrSetTokens
    split <;> rfl
  unfold State.evrTake
  extract_lets t s1
  split
  · rfl
  · refine (hset s1 _).trans ?_
    unfold s1
    split <;> rfl

theorem offer_records {s : State} {code kind : Nat} (h : s.recordable code) :
    ∃ e, (s.offer code kind).evr.intake = s.evr.intake ++ [e] ∧ e.code = code ∧ e.kind = kind ∧ e.sec = s.nowSec ∧ e.ns = s.nowNs
      ∧ e.frame = s.frame ∧ (s.offer code kind).host = s.host ∧ (s.offer code kind).icu = s.icu := by
  have htake : ∀ k, (s.evrTake k).host = s.host ∧ (s.evrTake k).icu = s.icu := fun k =>
    have hk := (evrTake_keeps (k := k) (Keeps.refl _ s) (List.Subset.refl _)).only
    ⟨hk .items (by decide), hk .icu (by decide)⟩
  obtain ⟨hon, hfrz, hfull, hlen, hrec, htok, hroom⟩ := h
  unfold State.offer
  extract_lets r k due s1 ev1 s2 s3 e ev2 s4 n s6 s7
  have hr : (r.isSome && s.tfld 0x0801 k 0 30 1 == 0) = false := by
    cases hc : s.evrRec code with
    | none => simp [r, hc]
    | some i => simp [r, k, hc, bucketKey, hrec i hc]
  have htok' : (s.evrPeriod k != 0 && s.evrTokens k == 0) = false := by
    rcases htok with h0 | h0
    · simp [k, r, h0]
    · simp [k, r, h0]
  have hspace : ¬ (s.bit (bitAt 0x8048 1) || decide (98304 - s.fld ⟨0x804C, 0, 17⟩ - s.evrQueued < (if due then 2 else 1))) = true := by
    rw [hfull, Bool.false_or, decide_eq_true_eq]
    split <;> omega
  rw [if_neg (by rw [hon]; decide), if_neg (by rw [hr]; decide), if_neg (by rw [hfrz]; decide), if_neg (by omega),
    if_neg (by rw [htok']; decide), if_neg hspace]
  have h7 : s7.evr.intake = s.evr.intake ++ [e] := by
    have h6 : s6.evr.intake = s.evr.intake ++ [e] := congrArg (· ++ [e]) (evrTake_intake s k)
    unfold s7
    split
    · exact h6
    · exact h6
  have h7' : s7.host = s.host ∧ s7.icu = s.icu := by
    unfold s7
    split
    · exact htake k
    · exact htake k
  split
  · exact ⟨e, h7, rfl, rfl, rfl, rfl, rfl, h7'⟩
  · exact ⟨e, h7, rfl, rfl, rfl, rfl, rfl, h7'⟩

/-! #### The entries of the running table -/

theorem sequencer_entries (s : State) :
    let pub := fun (n : Nat) (copy : Bool) (e : Entry) => e.arg % 2 ^ 12 == n && (e.arg / 2 ^ 12 % 2 == 1) == copy
    (∀ u, s.issues 0x00 u (fun _ => true) = true → runs (.nop u) s (fun t =>
      t.seq = { s.seq with pos := s.seq.pos + 1, missed := setAt s.seq.missed u 0 } ∧ s.onlyIn t [.seq]))
    ∧ (∀ u, s.issues 0x00 u (fun _ => true) = false → exec (.nop u) s = .next s)
    ∧ (s.takes 0x01 0x00 (fun _ => true) → runs .endEntry s (fun t => t.seq.ended = true ∧ t.nextEntry = none ∧ s.onlyIn t [.seq]))
    ∧ (s.issues 0x01 0x00 (fun _ => true) = false → exec .endEntry s = .next s)
    ∧ (∀ n m copy, s.mbxOf n = some m → s.takes 0x02 m.writer (pub n copy) → m.writer ∉ s.seq.skip →
        runs (.publish n copy) s (fun t => (∃ m', t.mbxOf n = some m' ∧ m'.closed = true ∧ m'.front = m.front
            ∧ (copy = true ∨ s.switchFrame m.writer = true → m'.back = m.front)
            ∧ (copy = false → s.switchFrame m.writer = false → m'.back = m.written))
          ∧ (∀ k, k ≠ n → t.mbxOf k = s.mbxOf k) ∧ t.seq = (s.begun m.writer).seq ∧ s.onlyIn t [.seq, .mbx]))
    ∧ (∀ n m copy, s.mbxOf n = some m → s.issues 0x02 m.writer (pub n copy) = true → m.writer ∈ s.seq.skip →
        runs (.publish n copy) s (fun t => t.seq = { s.seq with pos := s.seq.pos + 1 } ∧ s.onlyIn t [.seq]))
    ∧ (∀ n m copy, s.mbxOf n = some m → s.issues 0x02 m.writer (pub n copy) = false → exec (.publish n copy) s = .next s)
    ∧ (∀ code, s.takes 0x03 0x0B (fun e => e.arg % 2 ^ 16 == code) → s.recordable code → runs (.snap code) s (fun t =>
        (∃ e, t.evr.intake = s.evr.intake ++ [e] ∧ e.code = code ∧ e.kind = 2 ∧ e.sec = s.nowSec ∧ e.ns = s.nowNs ∧ e.frame = s.frame)
          ∧ t.seq = (s.begun 0x0B).seq ∧ s.onlyIn t [.regs, .tbl, .seq, .evr]))
    ∧ (∀ code, s.issues 0x03 0x0B (fun e => e.arg % 2 ^ 16 == code) = false → exec (.snap code) s = .next s)
    ∧ (s.seq.ended = true ∨ s.waits = true → ∀ op u p, s.issues op u p = false)
    ∧ (∀ op u p f, s.issues op u p = true → s.unitOff u = true → s.entry op u p f = s.begun u) := by
  intro pub
  refine ⟨fun u h => ?_, fun u h => next_congr (entry_waiting h), fun h => ?_, fun h => next_congr (entry_waiting h), fun n m copy hm h hskip => ?_,
    fun n m copy hm h hskip => ?_, fun n m copy hm h => ?_, fun code h hrec => ?_, fun code h => next_congr (entry_waiting h),
    fun h op u p => issues_of_none (h.elim nextEntry_of_ended nextEntry_of_waits), fun op u p f h hoff => entry_off h hoff⟩
  · have he : exec (.nop u) s = .next (s.begun u) := next_congr (nop_passes h)
    exact runs_intro he ⟨rfl, onlyIn_exec he (List.Subset.refl _)⟩
  · have he : exec .endEntry s = .next ((s.begun 0).seqMod (fun q => { q with ended := true })) := next_congr (entry_takes h)
    exact runs_intro he ⟨rfl, nextEntry_of_ended rfl, onlyIn_exec he (List.Subset.refl _)⟩
  · have hno : ¬ (s.seq.skip.contains m.writer = true) := fun hc => hskip (List.contains_iff_mem.1 hc)
    have he : exec (.publish n copy) s = .next ((s.begun m.writer).closeMbx n (copy || s.switchFrame m.writer)) :=
      next_congr ((publish_cases hm).trans ((if_neg hno).trans (entry_takes h)))
    obtain ⟨hclosed, hother⟩ := closeMbx_closes (s := s.begun m.writer) (n := n) (m := m) hm copy (s.switchFrame m.writer)
    exact runs_intro he ⟨hclosed, hother, rfl, onlyIn_exec he (List.Perm.swap _ _ _).subset⟩
  · have he : exec (.publish n copy) s = .next s.passEntry :=
      next_congr ((publish_cases hm).trans ((if_pos (List.contains_iff_mem.2 hskip)).trans (if_pos h)))
    have hkeep : Keeps [.seq] s s.passEntry := passEntry_keeps (Keeps.refl _ s) (List.Subset.refl _)
    exact runs_intro he ⟨rfl, hkeep.only⟩
  · refine next_congr ((publish_cases hm).trans ?_)
    split
    · exact if_neg (by rw [h]; decide)
    · exact entry_waiting h
  · have he : exec (.snap code) s = .next ((s.begun 0x0B).offer code 2) := next_congr (entry_takes h)
    have hrec' : (s.begun 0x0B).recordable code := hrec
    obtain ⟨e, hin, hcode, hkind, hsec, hns, hfrm, hhost, hicu⟩ := offer_records (kind := 2) hrec'
    have hoffer := (offer_keeps (code := code) (kind := 2) (Keeps.refl _ (s.begun 0x0B)) (List.Subset.refl _)).only
    refine runs_intro he ⟨⟨e, hin, hcode, hkind, hsec, hns, hfrm⟩, hoffer .seq (by decide), fun p hp => ?_⟩
    by_cases hi : p = .items ∨ p = .icu
    · rcases hi with rfl | rfl
      · exact hhost
      · exact hicu
    · exact onlyIn_exec he (List.Subset.refl _) p (fun hm => by
        simp only [cmdParts, List.mem_cons, List.not_mem_nil, or_false] at hm hp
        grind)

/-! #### Deadlines and lost engines (R41, R95, R96) -/

theorem entryDeadline_overruns {u i done : Nat} {acked : Bool} {s : State} (hu : unitEngine u = true) (hu0 : u ≠ 0)
    (he : (s.entryAt 0 s.runTable i).unit = u) (hoff : s.unitOff u = false) (hd : s.atDeadline u i = true)
    (hn : i = s.seq.pos → s.nextEntry ≠ none) (hop : (s.entryAt 0 s.runTable i).op = 0x28 → i = s.seq.pos) :
    runs (.entryDeadline u i ⟨acked, done⟩) s (fun t => u ∈ t.seq.skip ∧ t.seq.ovr = s.seq.ovr ++ [(u, i)]
      ∧ t.seq.pos = (if i = s.seq.pos then s.seq.pos + 1 else s.seq.pos)
      ∧ (acked = true → t.seq.missed = setAt s.seq.missed u 0)
      ∧ (acked = false → t.seq.missed = modAt s.seq.missed u (· + 1))) := by
  have hwork : ∀ x : State, (x.overrunWork (s.entryAt 0 s.runTable i) done).seq = x.seq := fun x =>
    (overrunWork_keeps (Keeps.refl _ x) (List.Subset.refl _)).only .seq (by decide)
  have hn' : (s.nextEntry.isNone && decide (i = s.seq.pos)) = false := by
    by_cases h : i = s.seq.pos
    · rw [Option.isNone_eq_false_iff.2 (Option.isSome_iff_ne_none.2 (hn h))]
      rfl
    · simp [h]
  have hop' : ((s.entryAt 0 s.runTable i).op == 0x28 && !decide (i = s.seq.pos)) = false := by
    by_cases h : (s.entryAt 0 s.runTable i).op = 0x28
    · simp [hop h]
    · simp [h]
  refine runs_intro (next_congr (if_neg ?_)) ?_
  · rw [hn', hu, he, hoff, hd, hop']
    simp [hu0]
  · have hmiss : ∀ q : SeqSt, q.missed = s.seq.missed →
        (acked = true → (if acked then setAt q.missed u 0 else modAt q.missed u (· + 1)) = setAt s.seq.missed u 0)
        ∧ (acked = false → (if acked then setAt q.missed u 0 else modAt q.missed u (· + 1)) = modAt s.seq.missed u (· + 1)) := fun q hq => by
      rw [hq]
      exact ⟨fun h => if_pos h, fun h => if_neg (by rw [h]; decide)⟩
    by_cases h : i = s.seq.pos
    · have hseq := (congrArg State.seq (if_pos (by exact decide_eq_true h) :
        (if decide (i = s.seq.pos) = true then s.passEntry.overrunWork (s.entryAt 0 s.runTable i) done else s) = _)).trans (hwork s.passEntry)
      have hovr := (congrArg SeqSt.ovr hseq).trans (rfl : s.passEntry.seq.ovr = s.seq.ovr)
      have hm := (congrArg SeqSt.missed hseq).trans (rfl : s.passEntry.seq.missed = s.seq.missed)
      refine ⟨List.mem_cons_self, congrArg (· ++ [(u, i)]) hovr, ?_, hmiss _ hm⟩
      exact (congrArg SeqSt.pos hseq).trans (if_pos h).symm
    · have hseq := congrArg State.seq (if_neg (by rw [decide_eq_false h]; decide) :
        (if decide (i = s.seq.pos) = true then s.passEntry.overrunWork (s.entryAt 0 s.runTable i) done else s) = _)
      refine ⟨List.mem_cons_self, congrArg (· ++ [(u, i)]) (congrArg SeqSt.ovr hseq), ?_, hmiss _ (congrArg SeqSt.missed hseq)⟩
      exact (congrArg SeqSt.pos hseq).trans (if_neg h).symm

theorem entryDeadline_idles {u i done : Nat} {acked : Bool} {s : State}
    (h : unitEngine u = false ∨ (s.entryAt 0 s.runTable i).unit ≠ u ∨ s.atDeadline u i = false) :
    exec (.entryDeadline u i ⟨acked, done⟩) s = .next s := by
  refine next_congr (if_pos ?_)
  rcases h with h | h | h
  · simp [h]
  · simp [h]
  · simp [h]

theorem engineLost_faults {e : Nat} {s : State} (h : 3 ≤ s.seq.missed.getD e 0) (hm : s.mstate ≠ 6) :
    runs (.engineLost e) s (fun t => t.mstate = 6 ∧ t.bit (bitAt 0x30010 1) = true ∧ t.fld ⟨0x30044, 4, 4⟩ = e % 16
      ∧ t.fld ⟨0x005C, 0, 8⟩ = 1) := by
  obtain ⟨u, hu⟩ : ∃ u, u = (s.setF ⟨0x30044, 4, 4⟩ e).seqMod (fun q => { q with missed := setAt q.missed e 0 }) := ⟨_, rfl⟩
  have hum : u.mstate = s.mstate := by
    rw [hu]
    exact (fld_of_regs (t := State.seqMod _ _) rfl _).trans (fld_setF_apart (by decide))
  have hue : u.fld ⟨0x30044, 4, 4⟩ = e % 16 := by
    rw [hu]
    exact (fld_of_regs (t := State.seqMod _ _) rfl _).trans (fld_setF_self (by decide))
  have he : exec (.engineLost e) s = .next ((u.raiseEv 0x30 1).enterFault 1 e) := by
    rw [hu]
    exact next_congr (if_pos (decide_eq_true h))
  have hum' : (u.raiseEv 0x30 1).mstate ≠ 6 := by
    rw [show (u.raiseEv 0x30 1).mstate = u.mstate from fld_raiseEv_apart (by decide) (by decide) (by decide) (by decide) (by decide), hum]
    exact hm
  obtain ⟨h6, hc⟩ := enterFault_enters (c := 1) (e := e) hum' (by decide)
  refine runs_intro he ⟨h6, ?_, ?_, hc⟩
  · exact (bit_of_rd (rd_enterFault (by decide))).trans (bit_raiseEv_self (by decide) (by decide) (by decide) rfl)
  · exact (fld_enterFault_health rfl (by decide)).trans
      ((fld_raiseEv_apart (by decide) (by decide) (by decide) (by decide) (by decide)).trans hue)

end Sys2Proof.Machine
end

section
/-! ### The sequence bank: verification and switch -/

namespace Sys2Proof.Machine

/-! #### The exchange of the copies of banked tables (R93) -/

theorem smFind_none {m : SMap} {k : Nat} (h : k ∉ m.map Prod.fst) : smFind m k = none := by
  induction m with
  | nil => rfl
  | cons e m ih =>
    rw [List.map_cons, List.mem_cons, not_or] at h
    exact (if_neg h.1).trans (ih h.2)

/-- What a map reads as with the entries of another, of distinct keys, written over it. -/
theorem smGet_over (d : Nat → Word) (m n : SMap) (hn : (n.map Prod.fst).Nodup) (k : Nat) :
    smGet d (smOver d m n) k = (smFind n k).getD (smGet d m k) := by
  induction n generalizing m with
  | nil => rfl
  | cons e n ih =>
    obtain ⟨a, w⟩ := e
    rw [List.map_cons, List.nodup_cons] at hn
    refine (ih (smSet d m a w) hn.2).trans ?_
    by_cases hk : k = a
    · subst hk
      rw [smFind_none hn.1]
      exact (smGet_set_same d m k w).trans (congrArg (Option.getD · _) (if_pos rfl : smFind ((k, w) :: n) k = some w)).symm
    · rw [smGet_set_ne d m a k w hk]
      exact (congrArg (Option.getD · _) (if_neg hk : smFind ((a, w) :: n) k = smFind n k)).symm

/-- The words found under renamed keys. -/
theorem smFind_rename {m : SMap} {g : Nat → Nat} (hg : ∀ a b, g a = g b → a = b) (k : Nat) :
    smFind (m.map (fun e => (g e.1, e.2))) (g k) = smFind m k := by
  induction m with
  | nil => rfl
  | cons e m ih =>
    by_cases hk : k = e.1
    · exact (if_pos (congrArg g hk)).trans (if_pos hk).symm
    · exact (if_neg (fun h => hk (hg _ _ h))).trans (ih.trans (if_neg hk).symm)

theorem tkey_parts (k : Nat) : tkey (tkeyTid k) (tkeyIdx k) (tkeyWord k) = k := by
  unfold tkey tkeyTid tkeyIdx tkeyWord
  omega

theorem tkeyIdx_tkey {t i w : Nat} (hi : i < 2 ^ 24) (hw : w < 2 ^ 8) : tkeyIdx (tkey t i w) = i := by
  unfold tkeyIdx tkey
  omega

theorem tkeyWord_tkey {t i w : Nat} (hw : w < 2 ^ 8) : tkeyWord (tkey t i w) = w := by
  unfold tkeyWord tkey
  omega

theorem tkeyIdx_lt (k : Nat) : tkeyIdx k < 2 ^ 24 := Nat.mod_lt _ (by decide)

theorem tkeyWord_lt (k : Nat) : tkeyWord k < 2 ^ 8 := Nat.mod_lt _ (by decide)

/-- The record of the same number in the other copy. -/
def otherIdx (i : Nat) : Nat := if i < 2 ^ 23 then i + 2 ^ 23 else i - 2 ^ 23

theorem otherIdx_lt {i : Nat} (h : i < 2 ^ 24) : otherIdx i < 2 ^ 24 := by
  unfold otherIdx
  split <;> omega

theorem otherIdx_otherIdx {i : Nat} (h : i < 2 ^ 24) : otherIdx (otherIdx i) = i := by
  unfold otherIdx
  split <;> split <;> omega

theorem otherCopy_tkey {t i w : Nat} (hi : i < 2 ^ 24) (hw : w < 2 ^ 8) : otherCopy (tkey t i w) = tkey t (otherIdx i) w := by
  unfold otherCopy
  rw [tkeyTid_tkey t i w hi hw, tkeyIdx_tkey hi hw, tkeyWord_tkey hw]
  rfl

theorem otherCopy_otherCopy (k : Nat) : otherCopy (otherCopy k) = k := by
  have hi := tkeyIdx_lt k
  have hw := tkeyWord_lt k
  have h1 : otherCopy k = tkey (tkeyTid k) (otherIdx (tkeyIdx k)) (tkeyWord k) := rfl
  rw [h1, otherCopy_tkey (otherIdx_lt hi) hw, otherIdx_otherIdx hi, tkey_parts]

theorem otherCopy_inj (a b : Nat) (h : otherCopy a = otherCopy b) : a = b := by
  rw [← otherCopy_otherCopy a, h, otherCopy_otherCopy]

theorem tkeyTid_otherCopy (k : Nat) : tkeyTid (otherCopy k) = tkeyTid k :=
  tkeyTid_tkey _ _ _ (otherIdx_lt (tkeyIdx_lt k)) (tkeyWord_lt k)

theorem nodup_of_sorted {m : SMap} (h : smSorted m = true) : (m.map Prod.fst).Nodup :=
  ((smSorted_iff m).1 h).map _ (fun _ _ => Nat.ne_of_lt)

/-- After the exchange of the tables that `p` names, a word reads as that of the other copy did, where both reset to the same word. -/
theorem trd_bankSwap {s : State} {p : Nat → Bool} (hs : s.Canon) {k : Nat} (hp : p (tkeyTid k) = true)
    (hr : tblReset (otherCopy k) = tblReset k) : smGet tblReset (s.bankSwap p).tbl k = smGet tblReset s.tbl (otherCopy k) := by
  obtain ⟨n, hn⟩ : ∃ n : SMap, n = (s.tbl.filter (fun e => p (tkeyTid e.1))).map (fun e => (otherCopy e.1, e.2)) := ⟨_, rfl⟩
  have hsort : smSorted s.tbl = true := (Bool.and_eq_true_iff.1 hs.tbl).1
  have hnd : (n.map Prod.fst).Nodup := by
    rw [hn, List.map_map]
    have h1 : ((s.tbl.filter (fun e => p (tkeyTid e.1))).map Prod.fst).Nodup := nodup_of_sorted (smSorted_filter _ _ hsort)
    have h2 := h1.map otherCopy_inj
    rw [List.map_map] at h2
    exact h2
  have hfind : smFind n k = smFind s.tbl (otherCopy k) := by
    have h1 := smFind_rename (m := s.tbl.filter (fun e => p (tkeyTid e.1))) otherCopy_inj (otherCopy k)
    rw [otherCopy_otherCopy, ← hn] at h1
    exact h1.trans ((smFind_filter s.tbl (fun a => p (tkeyTid a)) (otherCopy k)).trans (if_pos (by rw [tkeyTid_otherCopy]; exact hp)))
  have hover : smGet tblReset (s.bankSwap p).tbl k = (smFind n k).getD (smGet tblReset (smFilter s.tbl (fun k => !p (tkeyTid k))) k) := by
    rw [← smGet_over _ _ _ hnd, hn]
    rfl
  rw [hover, hfind, smGet_filter, if_neg (by rw [hp]; decide), ← hr]
  rfl

theorem tblReset_seqTable {k : Nat} (h : seqTable (tkeyTid k) = true) : tblReset k = 0 := by
  have h : 0x0600 ≤ tkeyTid k ∧ tkeyTid k ≤ 0x0611 := of_decide_eq_true h
  unfold tblReset initStatus
  repeat rw [if_neg (by omega)]

/-- The exchange of a sequence bank's tables. -/
theorem trd_bankSwap_seq {s : State} (hs : s.Canon) {tid i w : Nat} (h1 : 0x0600 ≤ tid) (h2 : tid ≤ 0x0611) (hi : i < 2 ^ 24) (hw : w < 2 ^ 8) :
    (s.bankSwap seqTable).trd tid i w = s.trd tid (otherIdx i) w := by
  have hp : seqTable (tkeyTid (tkey tid i w)) = true := by
    rw [tkeyTid_tkey tid i w hi hw]
    exact decide_eq_true ⟨h1, h2⟩
  have hr : tblReset (otherCopy (tkey tid i w)) = tblReset (tkey tid i w) := by
    rw [tblReset_seqTable hp, tblReset_seqTable (by rw [tkeyTid_otherCopy]; exact hp)]
  have h := trd_bankSwap hs hp hr
  rw [otherCopy_tkey hi hw] at h
  exact h

/-! #### The verification (R90) -/

/-- Where an error of a verification lies. -/
def VfyErr.placed (e : VfyErr) : Prop := e.table < 16 ∧ e.entry < 4096 ∧ e.res < 4096

theorem chargeRes_placed {t i off cost : Nat} {rs : List Nat} {u : ResUse} {e : VfyErr} (ht : t < 16) (hi : i < 4096) (hr : ∀ r ∈ rs, r < 4096)
    (h : chargeRes t i off cost rs u = .inl e) : e.placed := by
  induction rs generalizing u with
  | nil => exact absurd h (fun h => nomatch h)
  | cons r rs ih =>
    have hr0 := hr r List.mem_cons_self
    unfold chargeRes at h
    extract_lets p at h
    split at h
    · cases h
      exact ⟨ht, hi, hr0⟩
    split at h
    · cases h
      exact ⟨ht, hi, hr0⟩
    split at h
    · cases h
      exact ⟨ht, hi, hr0⟩
    · exact ih (fun x hx => hr x (List.mem_cons_of_mem _ hx)) h

theorem entryAt_unit_lt (s : State) (c t i : Nat) : (s.entryAt c t i).unit < 256 := by
  have h1 := wbits_lt (s.trd (0x0600 + t) (copyIdx c i) 1) 0 4
  have h2 := wbits_lt (s.trd (0x0600 + t) (copyIdx c i) 0) 28 4
  unfold State.entryAt entryOf
  dsimp only
  omega

theorem entryRes_lt {e : Entry} (h : e.unit < 256) : ∀ r ∈ entryRes e, r < 4096 := by
  intro r hr
  unfold entryRes at hr
  split at hr
  · obtain ⟨i, hi, rfl⟩ := List.mem_map.1 hr
    have := List.mem_range.1 (List.mem_filter.1 hi).1
    omega
  split at hr
  · exact absurd hr List.not_mem_nil
  · rw [List.mem_singleton.1 hr]
    omega

theorem vfyFrom_placed {s : State} {tasks : List (List (Nat × Nat))} {c t : Nat} {x : Bool} {n i : Nat} {prev : Option Nat} {u : ResUse}
    {e : VfyErr} (ht : t < 16) (hi : i + n ≤ 4096) (h : s.vfyFrom tasks c t x n i prev u = .inl e) : e.placed := by
  induction n generalizing i prev u with
  | zero => exact absurd h (fun h => nomatch h)
  | succ n ih =>
    have hu := entryAt_unit_lt s c t i
    unfold State.vfyFrom at h
    extract_lets d code at h
    split at h
    · cases h
      exact ⟨ht, (by omega : i < 4096), (by omega : (s.entryAt c t i).unit < 4096)⟩
    split at h
    · exact absurd h (fun h => nomatch h)
    split at h
    · rename_i y hy
      cases h
      exact chargeRes_placed ht (by omega) (entryRes_lt hu) hy
    · exact ih (by omega) h

theorem seqVerify_placed {s : State} {tasks : List (List (Nat × Nat))} {c : Nat} {e : VfyErr} (h : s.seqVerify tasks c = some e) : e.placed := by
  unfold State.seqVerify at h
  split at h
  · rename_i m hm
    cases h
    have := List.mem_range.1 (List.mem_of_find?_eq_some hm)
    exact ⟨(by omega : m < 16), (by omega : m < 4096), (by decide : 0 < 4096)⟩
  · obtain ⟨⟨t, x⟩, ht, he⟩ := List.exists_of_findSome?_eq_some h
    have ht8 : t < 16 := by
      obtain ⟨t', ht', heq⟩ := List.mem_map.1 ht
      have := List.mem_range.1 (List.mem_filter.1 ht').1
      cases heq
      omega
    split at he
    · rename_i y hy
      cases he
      exact vfyFrom_placed ht8 (by decide) hy
    · split at he
      · cases he
        exact ⟨ht8, (by decide : 0 < 4096), (by decide : 0x0A < 4096)⟩
      · exact absurd he (fun h => nomatch h)

/-- The registers of the sequence bank's verification. -/
theorem seqReg_near {s t : State} (h : Near (fun a => a = 0x6044 ∨ a = 0x6054 ∨ a = 0x6058) (fun _ => False) s t) (b : Nat) :
    s.regsBut (t.raiseEv 6 b) (fun a => a = 0x6044 ∨ a = 0x6054 ∨ a = 0x6058 ∨ evReg 6 a) :=
  (near_raiseEv (p := fun a => a = 0x6044 ∨ a = 0x6054 ∨ a = 0x6058 ∨ evReg 6 a) (q := evTbl)
    (h.mono (fun _ h => h.imp_right (Or.imp_right .inl)) (fun _ h => h.elim)) (by decide) (fun _ h => .inr (.inr (.inr h))) (fun _ h => h)).regs

theorem seqVerifyEnd_passes {s : State} (hb : s.bit seqVfyBusy = true) (hv : s.seqVerify s.activeTasks 1 = none) :
    runs .seqVerifyEnd s (fun t => t.bit seqVerified = true ∧ t.bit seqVfyBusy = false ∧ t.bit seqVfyFailed = false ∧ t.rd 0x6054 = 0
      ∧ t.bit (bitAt 0x6010 1) = true ∧ s.regsBut t (fun a => a = 0x6044 ∨ a = 0x6054 ∨ a = 0x6058 ∨ evReg 6 a)) := by
  have he : exec .seqVerifyEnd s = .next ((((((s.wr 0x6054 0).wr 0x6058 0).setB seqVfyBusy false).setB seqVfyFailed false).setB
      seqVerified true).raiseEv 6 1) := by
    refine next_congr ((if_neg (by rw [hb]; decide)).trans ?_)
    rw [hv]
  refine runs_intro he ⟨?_, ?_, ?_, ?_, bit_raiseEv_self (by decide) (by decide) (by decide) rfl, seqReg_near ?_ 1⟩
  · simp (disch := decide) only [seqVerified, bit_raiseEv_apart, bit_setB_self]
  · simp (disch := decide) only [seqVerified, seqVfyBusy, seqVfyFailed, bit_raiseEv_apart, bit_setB_self, bit_setB_apart]
  · simp (disch := decide) only [seqVerified, seqVfyFailed, bit_raiseEv_apart, bit_setB_self, bit_setB_apart]
  · simp (disch := decide) only [seqVerified, seqVfyBusy, seqVfyFailed, rd_raiseEv_apart, rd_setB_apart, rd_wr_apart, rd_wr_self]
  · exact near_setB (near_setB (near_setB (near_wr (near_wr (Near.refl _ _ s) (by decide)) (by decide)) (by decide)) (by decide)) (by decide)

theorem seqVerifyEnd_fails {s : State} {e : VfyErr} (hb : s.bit seqVfyBusy = true) (hv : s.seqVerify s.activeTasks 1 = some e) :
    runs .seqVerifyEnd s (fun t => t.bit seqVerified = s.bit seqVerified ∧ t.bit seqVfyBusy = false ∧ t.bit seqVfyFailed = true
      ∧ t.fld ⟨0x6054, 28, 4⟩ = e.code % 16 ∧ t.bit (bitAt 0x6010 2) = true
      ∧ s.regsBut t (fun a => a = 0x6044 ∨ a = 0x6054 ∨ a = 0x6058 ∨ evReg 6 a)) := by
  obtain ⟨ht, hi, hr⟩ := seqVerify_placed hv
  have he : exec .seqVerifyEnd s = .next (s.seqVfyFail e) := by
    refine next_congr ((if_neg (by rw [hb]; decide)).trans ?_)
    rw [hv]
  refine runs_intro he ?_
  unfold State.seqVfyFail
  extract_lets s1
  refine ⟨?_, ?_, ?_, ?_, bit_raiseEv_self (by decide) (by decide) (by decide) rfl, seqReg_near ?_ 2⟩
  · simp (disch := decide) only [s1, seqVerified, seqVfyBusy, seqVfyFailed, bit_raiseEv_apart, bit_setB_apart, bit_wr_apart]
  · simp (disch := decide) only [seqVfyBusy, seqVfyFailed, bit_raiseEv_apart, bit_setB_self, bit_setB_apart]
  · simp (disch := decide) only [seqVfyBusy, seqVfyFailed, bit_raiseEv_apart, bit_setB_self]
  · simp (disch := decide) only [seqVfyBusy, seqVfyFailed, fld_raiseEv_apart, fld_setB_apart, fld_wr_apart]
    unfold State.fld
    rw [rd_wr_self, wbits_ofNat (by decide)]
    dsimp only
    omega
  · exact near_setB (near_setB (near_wr (near_wr (Near.refl _ _ s) (by decide)) (by decide)) (by decide)) (by decide)

/-! #### The switch (R93, R94) -/

theorem seqUnverify_withdraws (s : State) : s.seqUnverify.bit seqSwitchPend = false ∧ s.seqUnverify.bit seqVerified = false
    ∧ s.tblBut s.seqUnverify (fun tid _ _ => evTbl tid) ∧ (s.bit seqSwitchPend = true → s.seqUnverify.bit (bitAt 0x6010 4) = true) := by
  have hnear : Near (fun _ => True) evTbl s s.seqUnverify :=
    near_ite' (near_raiseEv (near_setB (near_setB (Near.refl _ _ s) trivial) trivial) (by decide) (fun _ _ => trivial) (fun _ h => h))
      (near_setB (Near.refl _ _ s) trivial)
  refine ⟨?_, ?_, hnear.tbl, fun h => ?_⟩
  · unfold State.seqUnverify
    split
    · simp (disch := decide) only [seqSwitchPend, bit_raiseEv_apart, bit_setB_self]
    · exact (bit_setB_apart (by decide)).trans (Bool.eq_false_iff.2 ‹_›)
  · unfold State.seqUnverify
    split
    · simp (disch := decide) only [seqSwitchPend, seqVerified, bit_raiseEv_apart, bit_setB_self, bit_setB_apart]
    · exact bit_setB_self (by decide) rfl
  · unfold State.seqUnverify
    rw [if_pos h]
    exact bit_raiseEv_self (by decide) (by decide) (by decide) rfl

/-- What SEQ_TBL_INFO and the load registers take. -/
theorem near_seqInfo {p q : Nat → Prop} {s t : State} (h : Near p q s t) (hp : ∀ a, 0x6078 ≤ a → a < 0x60F0 → p a) : Near p q s t.seqInfo := by
  unfold State.seqInfo
  extract_lets named s1 s2 best
  have h1 : Near p q s s1 := near_foldl h fun a m hm ha => near_wr ha (by
    have := List.mem_range.1 hm
    exact hp _ (by omega) (by omega))
  have h2 : Near p q s s2 := near_foldl h1 fun a m hm ha => near_wr ha (by
    have := List.mem_range.1 hm
    exact hp _ (by omega) (by omega))
  exact near_wr (near_wr h2 (hp _ (by decide) (by decide))) (hp _ (by decide) (by decide))

/-- Taking the slots of the new bank changes the image's words of the nodes. -/
theorem near_allSlots {p q : Nat → Prop} {s t : State} (h : Near p q s t) (hq : q 0x1201) : Near p q s t.allSlots := by
  unfold State.allSlots
  refine near_foldl h fun a n hn ha => ?_
  obtain ⟨e, -, rfl⟩ := List.mem_map.1 hn
  unfold State.nodeSlots
  extract_lets r c moved s1
  have h1 : Near p q s s1 := near_same ha rfl rfl
  exact near_tset h1 (by rw [tkeyTid_tkey _ _ _ (tkeyIdx_lt _) (by decide)]; exact hq)

/-- A switch that takes effect exchanges the banks. -/
theorem seqBankSwitch_exchanges {s : State} (hs : s.Canon) (hp : s.bit seqSwitchPend = true) (hf : s.seq.hfStart = true) (hx : s.inExt = false) :
    s.seqBankSwitch.bit seqSwitchPend = false ∧ s.seqBankSwitch.bit seqVerified = true
      ∧ s.seqBankSwitch.fld (bitAt 0x6044 0) = 1 - s.fld (bitAt 0x6044 0) ∧ s.seqBankSwitch.bit (bitAt 0x6010 3) = true
      ∧ ∀ tid i w, 0x0600 ≤ tid → tid ≤ 0x0611 → i < 2 ^ 24 → w < 2 ^ 8 → s.seqBankSwitch.trd tid i w = s.trd tid (otherIdx i) w := by
  unfold State.seqBankSwitch
  rw [if_pos (by rw [hp, hf, hx]; rfl)]
  extract_lets s1 s2 s3
  have hfld : s1.fld (bitAt 0x6044 0) = s.fld (bitAt 0x6044 0) := fld_of_regs rfl _
  have hlt : s1.fld (bitAt 0x6044 0) < 2 := fld_lt s1 _
  have hinfo : Near (fun a => 0x6078 ≤ a ∧ a < 0x60F0) (fun _ => False) s3 s3.seqInfo := near_seqInfo (Near.refl _ _ s3) fun _ h h' => ⟨h, h'⟩
  have hrd : (s3.seqInfo.raiseEv 6 3).rd 0x6044 = s2.rd 0x6044 :=
    (rd_raiseEv_apart (by decide) (by decide) (by decide) (by decide) (by decide)).trans
      ((hinfo.regs _ (by decide)).trans (rd_setF_apart (by decide)))
  refine ⟨(bit_of_rd hrd).trans ?_, (bit_of_rd hrd).trans (bit_setB_self (by decide) rfl), (fld_of_rd hrd).trans ?_,
    bit_raiseEv_self (by decide) (by decide) (by decide) rfl, fun tid i w h1 h2 hi hw => ?_⟩
  · exact (bit_setB_apart (by decide)).trans (bit_setB_self (by decide) rfl)
  · refine (fld_setB_apart (by decide)).trans ((fld_setB_apart (by decide)).trans ((fld_setF_self (by decide)).trans ?_))
    rw [hfld] at hlt ⊢
    exact Nat.mod_eq_of_lt (by simp only [bitAt_w]; omega)
  · have h3 : s3.seqInfo.trd tid i w = s3.trd tid i w := trd_of_tblBut hinfo.tbl hi hw id
    exact (trd_raiseEv_apart (by decide) (by omega) (by omega) hi hw).trans (h3.trans (trd_bankSwap_seq hs h1 h2 hi hw))

theorem seqBankSwitch_waits {s : State} (h : s.bit seqSwitchPend = false ∨ s.seq.hfStart = false ∨ s.inExt = true) : s.seqBankSwitch = s := by
  refine if_neg ?_
  rcases h with h | h | h
  · simp [h]
  · simp [h]
  · simp [h]

/-- No program bank switches at this tick (R94). -/
theorem cpeSwitch_none {s : State} : [0, 1].any (fun p => s.bit (cpeBank p).pend && s.cpeSwitchNow p) = true
    ↔ ∃ p, p < 2 ∧ (s.bit (cpeBank p).pend && s.cpeSwitchNow p) = true := by
  rw [List.any_eq_true]
  exact ⟨fun ⟨p, hp, h⟩ => ⟨p, by simp at hp; omega, h⟩, fun ⟨p, hp, h⟩ => ⟨p, by simp; omega, h⟩⟩

theorem execSeqBankSwitch_eq {s : State} (h : ∀ p, p < 2 → (s.bit (cpeBank p).pend && s.cpeSwitchNow p) = false) :
    exec .seqBankSwitch s = .next (s.andShown
      (if s.bit seqSwitchPend && !s.seqBankSwitch.bit seqSwitchPend then s.seqBankSwitch.allSlots else s.seqBankSwitch)) :=
  next_congr (congrArg s.andShown (if_neg (fun hc => by
    obtain ⟨p, hp, hx⟩ := cpeSwitch_none.1 hc
    rw [h p hp] at hx
    exact absurd hx (by decide))))

theorem seqBank_switches (s : State) :
    (s.bit seqSwitchPend = false ∨ s.seq.hfStart = false ∨ s.inExt = true →
      (∀ p, p < 2 → (s.bit (cpeBank p).pend && s.cpeSwitchNow p) = false) → exec .seqBankSwitch s = .next s)
    ∧ (∀ p, p < 2 → s.bit (cpeBank p).pend = true → s.cpeSwitchNow p = true → runs .seqBankSwitch s (fun t =>
      t.bit seqSwitchPend = false ∧ t.bit seqVerified = false ∧ s.tblBut t (fun tid _ _ => evTbl tid)
        ∧ (s.bit seqSwitchPend = true → t.bit (bitAt 0x6010 4) = true)))
    ∧ (s.Canon → s.bit seqSwitchPend = true → s.seq.hfStart = true → s.inExt = false →
      (∀ p, p < 2 → (s.bit (cpeBank p).pend && s.cpeSwitchNow p) = false) → runs .seqBankSwitch s (fun t =>
      t.bit seqSwitchPend = false ∧ t.bit seqVerified = true ∧ t.fld (bitAt 0x6044 0) = 1 - s.fld (bitAt 0x6044 0)
        ∧ t.bit (bitAt 0x6010 3) = true
        ∧ ∀ tid i w, 0x0600 ≤ tid → tid ≤ 0x0611 → i < 2 ^ 23 → w < 2 ^ 8 → t.trd tid i w = s.trd tid (2 ^ 23 + i) w
            ∧ t.trd tid (2 ^ 23 + i) w = s.trd tid i w)) := by
  refine ⟨fun h hc => ?_, fun p hp h1 h2 => ?_, fun hs hp hf hx hc => ?_⟩
  · refine (execSeqBankSwitch_eq hc).trans (next_congr ((congrArg s.andShown ?_).trans (andShown_self s)))
    rw [seqBankSwitch_waits h]
    exact if_neg (by cases s.bit seqSwitchPend <;> decide)
  · have he : exec .seqBankSwitch s = .next (s.andShown s.seqUnverify) :=
      next_congr (congrArg s.andShown (if_pos (cpeSwitch_none.2 ⟨p, hp, by rw [h1, h2]; rfl⟩)))
    obtain ⟨h1, h2, h3, h4⟩ := seqUnverify_withdraws s
    have hr : (s.andShown s.seqUnverify).regs = s.seqUnverify.regs := regs_andShown _ _
    refine runs_intro he ⟨(bit_of_regs hr _).trans h1, (bit_of_regs hr _).trans h2, fun k hk => ?_, fun h => (bit_of_regs hr _).trans (h4 h)⟩
    rw [tbl_andShown]
    exact h3 k hk
  · obtain ⟨h1, h2, h3, h4, h5⟩ := seqBankSwitch_exchanges hs hp hf hx
    obtain ⟨u, hu⟩ : ∃ u, u = s.seqBankSwitch := ⟨_, rfl⟩
    have he := execSeqBankSwitch_eq hc
    rw [← hu] at h1 h2 h3 h4 h5 he
    rw [if_pos (by rw [hp, h1]; rfl)] at he
    have hslot : Near (fun _ => False) (· = 0x1201) u u.allSlots := near_allSlots (Near.refl _ _ u) rfl
    have hrd : ∀ a, (s.andShown u.allSlots).rd a = u.rd a := fun a => by
      unfold State.rd
      rw [regs_andShown]
      exact hslot.regs a id
    have htrd : ∀ tid i w, tid ≤ 0x0611 → i < 2 ^ 24 → w < 2 ^ 8 → (s.andShown u.allSlots).trd tid i w = u.trd tid i w :=
      fun tid i w ht hi hw => (trd_of_tbl (tbl_andShown _ _) _ _ _).trans (trd_of_tblBut hslot.tbl hi hw (by omega))
    refine runs_intro he ⟨(bit_of_rd (hrd _)).trans h1, (bit_of_rd (hrd _)).trans h2, (fld_of_rd (hrd _)).trans h3,
      (bit_of_rd (hrd _)).trans h4, fun tid i w ha hb hi hw => ⟨?_, ?_⟩⟩
    · refine (htrd tid i w hb (by omega) hw).trans ((h5 tid i w ha hb (by omega) hw).trans ?_)
      rw [show otherIdx i = 2 ^ 23 + i by unfold otherIdx; rw [if_pos hi]; omega]
    · refine (htrd tid (2 ^ 23 + i) w hb (by omega) hw).trans ((h5 tid (2 ^ 23 + i) w ha hb (by omega) hw).trans ?_)
      rw [show otherIdx (2 ^ 23 + i) = i by unfold otherIdx; rw [if_neg (by omega)]; omega]

/-! #### The commands of SEQ_CMD (R92) -/

theorem seqCommands_act (s : State) :
    (s.bit seqVfyBusy = true ∨ s.bit seqSwitchPend = true → exec .seqVerify s = .next s)
    ∧ (s.bit seqVfyBusy = false → s.bit seqSwitchPend = false → runs .seqVerify s (fun t => t.bit seqVfyBusy = true
        ∧ t.bit seqVerified = false ∧ s.regsBut t (fun a => a = 0x6044) ∧ s.onlyIn t [.regs]))
    ∧ (s.bit seqVerified = false → exec .seqSwitch s = .next s)
    ∧ (s.bit seqVerified = true → runs .seqSwitch s (fun t => t.bit seqSwitchPend = true ∧ t.bit seqVerified = true
        ∧ s.regsBut t (fun a => a = 0x6044) ∧ s.onlyIn t [.regs]))
    ∧ runs .seqCancel s (fun t => t.bit seqSwitchPend = false ∧ t.bit seqVerified = s.bit seqVerified
        ∧ s.regsBut t (fun a => a = 0x6044) ∧ s.onlyIn t [.regs]) := by
  refine ⟨fun h => next_congr ?_, fun h1 h2 => ?_, fun h => ?_, fun h => ?_, ?_⟩
  · unfold seqVerifyCmd
    split
    · rfl
    · rw [if_pos (h.resolve_left ‹_›)]
  · have he : exec .seqVerify s = .next ((s.setB seqVerified false).setB seqVfyBusy true) := by
      refine next_congr ?_
      unfold seqVerifyCmd
      rw [if_neg (by rw [h1]; decide), if_neg (by rw [h2]; decide)]
    have hn : Near (· = 0x6044) (fun _ => False) s ((s.setB seqVerified false).setB seqVfyBusy true) := near_setB (near_setB (Near.refl _ _ s) rfl) rfl
    exact runs_intro he ⟨bit_setB_self (by decide) rfl, (bit_setB_apart (by decide)).trans (bit_setB_self (by decide) rfl), hn.regs,
      onlyIn_exec he (List.Subset.refl _)⟩
  · refine next_congr ?_
    unfold seqSwitchCmd
    rw [if_neg (by rw [h]; decide)]
  · have he : exec .seqSwitch s = .next (s.setB seqSwitchPend true) := by
      refine next_congr ?_
      unfold seqSwitchCmd
      rw [if_pos h]
    have hn : Near (· = 0x6044) (fun _ => False) s (s.setB seqSwitchPend true) := near_setB (Near.refl _ _ s) rfl
    exact runs_intro he ⟨bit_setB_self (by decide) rfl, (bit_setB_apart (by decide)).trans h, hn.regs, onlyIn_exec he (List.Subset.refl _)⟩
  · have he : exec .seqCancel s = .next (s.setB seqSwitchPend false) := rfl
    have hn : Near (· = 0x6044) (fun _ => False) s (s.setB seqSwitchPend false) := near_setB (Near.refl _ _ s) rfl
    exact runs_intro he ⟨bit_setB_self (by decide) rfl, bit_setB_apart (by decide), hn.regs, onlyIn_exec he (List.Subset.refl _)⟩

/-- Settles O23: entries by the entry that the running table holds next, overruns and lost engines, and the verification and the switch of the
sequence bank. -/
theorem theSequencer : Obligations.TheSequencer := by
  unfold Obligations.TheSequencer
  refine ⟨sequencer_entries, ⟨fun u i done acked s h1 h2 h3 h4 h5 h6 h7 => entryDeadline_overruns h1 h2 h3 h4 h5 h6 h7,
    fun u i done acked s h => entryDeadline_idles h, fun e s => ⟨engineLost_faults, fun h => next_congr (if_neg ?_)⟩⟩, fun s => ?_⟩
  · unfold State.engineLost
    rw [decide_eq_true_eq]
    omega
  · obtain ⟨hv1, hv2, hs1, hs2, hc⟩ := seqCommands_act s
    obtain ⟨hb1, hb2, hb3⟩ := seqBank_switches s
    exact ⟨hv1, hv2, fun h => next_congr (if_pos (by rw [h]; rfl)), seqVerifyEnd_passes, fun e => seqVerifyEnd_fails, hs1, hs2, hc, hb1, hb2, hb3⟩

end Sys2Proof.Machine
end

section
/-! ### Local inputs and outputs -/

namespace Sys2Proof.Machine

/-! #### Rules of the shared operations that these need -/

/-- A field beside a counter's own and its OVF flag, where the flag's word may hold it. -/
theorem fld_bumpN_beside {s : State} {c : Ctr} {n : Nat} {g : Fld} (h1 : g.addr ≠ c.f.addr ∨ c.f.lo + c.f.w ≤ g.lo ∨ g.lo + g.w ≤ c.f.lo)
    (h2 : g.addr ≠ c.ovf.1 ∨ c.ovf.2 + 1 ≤ g.lo ∨ g.lo + g.w ≤ c.ovf.2) : (s.bumpN c n).fld g = s.fld g := by
  unfold State.bumpN
  split
  · exact fld_setF_apart h1
  · split
    · exact (fld_setF_apart h2).trans (fld_setF_apart h1)
    · exact fld_setF_apart h1

theorem bit_bump_beside {s : State} {c : Ctr} {g : Fld} (h1 : g.addr ≠ c.f.addr ∨ c.f.lo + c.f.w ≤ g.lo ∨ g.lo + g.w ≤ c.f.lo)
    (h2 : g.addr ≠ c.ovf.1 ∨ c.ovf.2 + 1 ≤ g.lo ∨ g.lo + g.w ≤ c.ovf.2) : (s.bump c).bit g = s.bit g := by
  unfold State.bit
  rw [show (s.bump c).fld g = s.fld g from fld_bumpN_beside h1 h2]

theorem srcSame_raiseEv {s t : State} {j p b : Nat} (h : SrcSame j s t) (hj : j < 2 ^ 24) (h8 : j ≠ 0x108) (hp : j ≠ 0x100 + p) :
    SrcSame j s (t.raiseEv p b) := by
  have h1 : SrcSame j s (t.raiseNoRec p b) := (trd_raiseNoRec_apart hp).trans h
  unfold State.raiseEv
  exact srcSame_ite h1 (srcSame_offer h1 hj h8)

theorem srcFld_of_same {s t : State} {j lo n : Nat} (h : SrcSame j s t) : t.srcFld j lo n = s.srcFld j lo n :=
  congrArg (wbits · lo n) h

/-- Bits of one word set one after another. -/
theorem bit_foldl_setB {s : State} {a lo i : Nat} {v : Bool} {l : List Nat} (hi : lo + i < 32) :
    (l.foldl (fun u o => u.setB (bitAt a (lo + o)) v) s).bit (bitAt a (lo + i)) = if i ∈ l then v else s.bit (bitAt a (lo + i)) := by
  induction l generalizing s with
  | nil => exact (if_neg List.not_mem_nil).symm
  | cons o l ih =>
    rw [List.foldl_cons, ih]
    by_cases hl : i ∈ l
    · rw [if_pos hl, if_pos (List.mem_cons_of_mem _ hl)]
    · rw [if_neg hl]
      by_cases ho : i = o
      · subst ho
        rw [if_pos List.mem_cons_self]
        exact bit_setB_self hi rfl
      · rw [if_neg (by simp [hl, ho])]
        exact bit_setB_apart (by simp only [bitAt_lo, bitAt_w]; omega)

theorem fld_foldl_setB {s : State} {a lo : Nat} {v : Bool} {l : List Nat} {f : Fld}
    (h : ∀ o ∈ l, lo + o + 1 ≤ f.lo ∨ f.lo + f.w ≤ lo + o) : (l.foldl (fun u o => u.setB (bitAt a (lo + o)) v) s).fld f = s.fld f := by
  induction l generalizing s with
  | nil => rfl
  | cons o l ih =>
    exact (ih fun x hx => h x (List.mem_cons_of_mem _ hx)).trans (fld_setB_apart (.inr (h o List.mem_cons_self)))

theorem near_foldl_setB {s : State} {a lo : Nat} {v : Bool} {l : List Nat} :
    Near (· = a) (fun _ => False) s (l.foldl (fun u o => u.setB (bitAt a (lo + o)) v) s) :=
  near_foldl (Near.refl _ _ s) fun _ _ _ hu => near_setB hu rfl

/-! #### Inputs (R307, R308, R290) -/

theorem mem_outputs {v : Word} {p : Nat → Bool} {o : Nat} (ho : o < 8) :
    o ∈ (List.range 8).filter (fun o => wbit v o && p o) ↔ (wbit v o && p o) = true := by
  rw [List.mem_filter, List.mem_range]
  exact and_iff_right ho

theorem diEdge_counts {i : Nat} {rising : Bool} {s : State} (hi : i < 16) :
    runs (.diEdge i rising) s (fun t => t.dio = { s.dio with di := putBit s.dio.di i rising }
      ∧ (s.bit (bitAt 0x1C040 0) = true → (s.fld ⟨0x1C04C, 2 * i, 2⟩ = 2 ∨ s.fld ⟨0x1C04C, 2 * i, 2⟩ = if rising then 0 else 1) →
          t.fld (Ctr.DIO_PCNT i).f = (s.fld (Ctr.DIO_PCNT i).f + 1) % 2 ^ 32
          ∧ (s.srcFld (0x010 + i) 31 1 = 1 → t.srcFld (0x010 + i) 29 1 = 1))
      ∧ ((s.bit (bitAt 0x1C040 0) = false ∨ (s.fld ⟨0x1C04C, 2 * i, 2⟩ ≠ 2 ∧ s.fld ⟨0x1C04C, 2 * i, 2⟩ ≠ if rising then 0 else 1)) →
          s.onlyIn t [.dio])) := by
  obtain ⟨u, hu⟩ : ∃ u, u = s.dioMod (fun d => { d with di := putBit d.di i rising }) := ⟨_, rfl⟩
  have he : exec (.diEdge i rising) s = .next (if s.bit (bitAt 0x1C040 0)
      && (s.fld ⟨0x1C04C, 2 * i, 2⟩ == 2 || s.fld ⟨0x1C04C, 2 * i, 2⟩ == (if rising then 0 else 1)) then (u.bump (.DIO_PCNT i)).signal (0x010 + i) else u) := by
    rw [hu]
    exact next_congr (if_neg (by omega))
  have hdio : u.dio = { s.dio with di := putBit s.dio.di i rising } := by rw [hu]; rfl
  have hkeep : s.onlyIn u [.dio] := by
    rw [hu]
    exact (keeps_dio (Keeps.refl _ s) (List.Subset.refl _)).only
  by_cases hc : (s.bit (bitAt 0x1C040 0)
      && (s.fld ⟨0x1C04C, 2 * i, 2⟩ == 2 || s.fld ⟨0x1C04C, 2 * i, 2⟩ == (if rising then 0 else 1))) = true
  · have hsig : ((u.bump (.DIO_PCNT i)).signal (0x010 + i)).dio = u.dio :=
      (signal_keeps (bump_keeps (Keeps.refl [.regs, .tbl, .items, .icu] u) (by decide)) (List.Subset.refl _)).only .dio (by decide)
    have hcnt : ((u.bump (.DIO_PCNT i)).signal (0x010 + i)).fld (Ctr.DIO_PCNT i).f = (u.fld (Ctr.DIO_PCNT i).f + 1) % 2 ^ 32 := by
      refine (fld_of_rd ((near_signal (p := icuReg) (q := evTbl) (Near.refl _ _ _) (by omega) (fun _ h => h) (.inl rfl)).regs _ ?_)).trans
        (fld_bump_wraps rfl (by simp [Ctr.DIO_PCNT]))
      simp only [icuReg, Ctr.DIO_PCNT]
      omega
    refine runs_intro (he.trans (next_congr (if_pos hc))) ⟨hsig.trans hdio, fun _ _ => ⟨hcnt.trans ?_, fun h => (signal_shows ?_).1⟩, fun h => ?_⟩
    · rw [fld_of_regs (s := s) (t := u) (by rw [hu]; rfl)]
    · refine Eq.trans ?_ h
      exact tfld_of_tbl ((tbl_bump u _).trans (by rw [hu]; rfl)) ..
    · simp only [Bool.and_eq_true, Bool.or_eq_true, beq_iff_eq] at hc
      rcases h with h | h
      · rw [hc.1] at h
        cases h
      · exact (hc.2.elim h.1 h.2).elim
  · refine runs_intro (he.trans (next_congr (if_neg hc))) ⟨hdio, fun h1 h2 => (hc ?_).elim, fun _ => hkeep⟩
    simp only [Bool.and_eq_true, Bool.or_eq_true, beq_iff_eq]
    exact ⟨h1, h2⟩

/-- Tripping a channel on a fast input leaves the levels and the other sources. -/
theorem reflexTrip_levels (s : State) (ch : Nat) {j : Nat} (hj : j < 2 ^ 24) (h8 : j ≠ 0x108) (h26 : j ≠ 0x126) :
    (s.reflexTrip ch).dio.fast = s.dio.fast ∧ (s.reflexTrip ch).dio.di = s.dio.di ∧ SrcSame j s (s.reflexTrip ch) := by
  unfold State.reflexTrip
  split
  · exact ⟨rfl, rfl, rfl⟩
  · have hdio : ∀ u : State, (u.raiseEv 0x26 1).dio = u.dio := fun u => raiseEv_only u 0x26 1 .dio (by decide)
    have hb : ∀ u : State, (u.bump .PRIV_TRIP).dio = u.dio := fun u => (bump_keeps (Keeps.refl [.regs] u) (List.Subset.refl _)).only .dio (by decide)
    have hd := (hdio _).trans (hb (s.tripLatch ch (s.chFld ch 3 0 4)))
    have hlatch : (s.tripLatch ch (s.chFld ch 3 0 4)).dio.fast = s.dio.fast ∧ (s.tripLatch ch (s.chFld ch 3 0 4)).dio.di = s.dio.di := ⟨rfl, rfl⟩
    exact ⟨(congrArg DioSt.fast hd).trans hlatch.1, (congrArg DioSt.di hd).trans hlatch.2,
      srcSame_raiseEv (srcSame_bump (srcSame_tbl rfl rfl)) hj h8 h26⟩

theorem fastInputEdge_signals {i : Nat} {rising : Bool} {s : State} (hi : i < 8) :
    runs (.fastInputEdge i rising) s (fun t => t.dio.fast = putBit s.dio.fast i rising
      ∧ t.dio.di = s.dio.di ∧ (s.srcFld (0x008 + i) 31 1 = 1 → t.srcFld (0x008 + i) 29 1 = 1)
      ∧ (s.privOn = false → t.dio.trips = s.dio.trips)) := by
  obtain ⟨u, hu⟩ : ∃ u, u = s.dioMod (fun d => { d with fast := putBit d.fast i rising }) := ⟨_, rfl⟩
  obtain ⟨q, hq⟩ : ∃ q : Nat → Bool, exec (.fastInputEdge i rising) s =
      .next (((u.signal (0x008 + i)).armedOn q).foldl (fun a ch => a.reflexTrip ch) (u.signal (0x008 + i))) := by
    rw [hu]
    exact ⟨_, next_congr (if_neg (by omega))⟩
  have hsig : (u.signal (0x008 + i)).dio = u.dio := (signal_keeps (Keeps.refl [.regs, .tbl, .items, .icu] u) (List.Subset.refl _)).only .dio (by decide)
  have hfold : ∀ (l : List Nat) (x : State), (l.foldl (fun a ch => a.reflexTrip ch) x).dio.fast = x.dio.fast
      ∧ (l.foldl (fun a ch => a.reflexTrip ch) x).dio.di = x.dio.di ∧ SrcSame (0x008 + i) x (l.foldl (fun a ch => a.reflexTrip ch) x) := by
    intro l
    induction l with
    | nil => exact fun x => ⟨rfl, rfl, rfl⟩
    | cons ch l ih =>
      intro x
      obtain ⟨h1, h2, h3⟩ := reflexTrip_levels x ch (j := 0x008 + i) (by omega) (by omega) (by omega)
      obtain ⟨g1, g2, g3⟩ := ih (x.reflexTrip ch)
      exact ⟨g1.trans h1, g2.trans h2, Eq.trans g3 h3⟩
  obtain ⟨h1, h2, h3⟩ := hfold ((u.signal (0x008 + i)).armedOn q) (u.signal (0x008 + i))
  refine runs_intro hq ⟨h1.trans ((congrArg DioSt.fast hsig).trans (by rw [hu]; rfl)), h2.trans ((congrArg DioSt.di hsig).trans (by rw [hu]; rfl)),
    fun h => (srcFld_of_same h3).trans (signal_shows ?_).1, fun hoff => ?_⟩
  · refine Eq.trans ?_ h
    exact tfld_of_tbl (by rw [hu]; rfl) ..
  · have hpriv : (u.signal (0x008 + i)).privOn = false := by
      have hn := (near_signal (p := icuReg) (q := evTbl) (src := 0x008 + i) (Near.refl _ _ u) (by omega) (fun _ h => h) (.inl rfl)).regs
      have h1 : (u.signal (0x008 + i)).rd 0x26040 = s.rd 0x26040 := (hn _ (by unfold icuReg; decide)).trans (by rw [hu]; rfl)
      have h2 : (u.signal (0x008 + i)).rd 0x0054 = s.rd 0x0054 := (hn _ (by unfold icuReg; decide)).trans (by rw [hu]; rfl)
      refine Eq.trans ?_ hoff
      unfold State.privOn
      rw [bit_of_rd (f := bitAt 0x26040 0) h1, show (u.signal (0x008 + i)).mstate = s.mstate from fld_of_rd h2]
    have hnone : (u.signal (0x008 + i)).armedOn q = [] := if_pos (by rw [hpriv]; rfl)
    rw [hnone]
    exact (congrArg DioSt.trips hsig).trans (by rw [hu]; rfl)

/-! #### Outputs (R309, R311) -/

theorem dioDoWrite_bits (on : Bool) (v : Word) (s : State) :
    (∀ o, o < 8 → (dioDoWrite on v s).bit (doCmd o) = if (wbit v o && s.doHost o) = true then on else s.bit (doCmd o))
      ∧ (dioDoWrite on v s).fld ⟨0x1C050, 8, 24⟩ = s.fld ⟨0x1C050, 8, 24⟩ ∧ s.regsBut (dioDoWrite on v s) (fun a => a = 0x1C050) := by
  have hcmd : doCmd = fun o => bitAt 0x1C050 (0 + o) := funext fun o => by rw [Nat.zero_add]; rfl
  unfold dioDoWrite
  rw [hcmd]
  refine ⟨fun o ho => ?_, fld_foldl_setB fun o ho => .inl ?_, (near_foldl_setB).regs⟩
  · rw [bit_foldl_setB (by omega)]
    simp only [mem_outputs ho]
  · have := List.mem_range.1 (List.mem_filter.1 ho).1
    dsimp only
    omega

theorem outputs_follow (v : Word) (s : State) :
    runs (.dioDoSet v) s (fun t => (∀ o, o < 8 → t.bit (doCmd o) = (s.bit (doCmd o) || (wbit v o && s.doHost o)))
      ∧ t.fld ⟨0x1C050, 8, 24⟩ = s.fld ⟨0x1C050, 8, 24⟩ ∧ s.regsBut t (fun a => a = 0x1C050) ∧ s.onlyIn t [.regs])
    ∧ runs (.dioDoClr v) s (fun t => (∀ o, o < 8 → t.bit (doCmd o) = (s.bit (doCmd o) && !(wbit v o && s.doHost o)))
      ∧ t.fld ⟨0x1C050, 8, 24⟩ = s.fld ⟨0x1C050, 8, 24⟩ ∧ s.regsBut t (fun a => a = 0x1C050) ∧ s.onlyIn t [.regs])
    ∧ runs (.dioOcClr v) s (fun t => (∀ o, o < 8 → t.bit (doOc o) = (s.bit (doOc o) && !wbit v o))
      ∧ t.fld ⟨0x1C050, 0, 16⟩ = s.fld ⟨0x1C050, 0, 16⟩ ∧ s.regsBut t (fun a => a = 0x1C050) ∧ s.onlyIn t [.regs]) := by
  obtain ⟨h1, h2, h3⟩ := dioDoWrite_bits true v s
  obtain ⟨g1, g2, g3⟩ := dioDoWrite_bits false v s
  have e1 : exec (.dioDoSet v) s = .next (dioDoWrite true v s) := rfl
  have e2 : exec (.dioDoClr v) s = .next (dioDoWrite false v s) := rfl
  have e3 : exec (.dioOcClr v) s = .next (dioOcClr v s) := rfl
  refine ⟨runs_intro e1 ⟨fun o ho => (h1 o ho).trans ?_, h2, h3, onlyIn_exec e1 (List.Subset.refl _)⟩,
    runs_intro e2 ⟨fun o ho => (g1 o ho).trans ?_, g2, g3, onlyIn_exec e2 (List.Subset.refl _)⟩,
    runs_intro e3 ⟨fun o ho => ?_, fld_foldl_setB fun o ho => .inr ?_, (near_foldl_setB).regs, onlyIn_exec e3 (List.Subset.refl _)⟩⟩
  · cases wbit v o && s.doHost o <;> simp
  · cases wbit v o && s.doHost o <;> simp
  · refine (bit_foldl_setB (by omega)).trans ?_
    simp only [List.mem_filter, List.mem_range, ho, true_and]
    cases wbit v o <;> simp [doOc]
  · dsimp only
    omega

theorem overcurrent_latches {o : Nat} {s : State} (ho : o < 8) (hon : s.doOn o = true) :
    runs (.overcurrent o) s (fun t => t.bit (doOc o) = true ∧ t.doOn o = (s.mstate == 6 && s.doOn o) ∧ t.bit (bitAt 0x1C010 0) = true) := by
  have he : exec (.overcurrent o) s = .next (((s.setB (doOc o) true).bump .DIO_OC).raiseEv 0x1C 0) :=
    next_congr (if_pos (by rw [decide_eq_true ho, hon]; rfl))
  obtain ⟨t, ht⟩ : ∃ t, t = ((s.setB (doOc o) true).bump .DIO_OC).raiseEv 0x1C 0 := ⟨_, rfl⟩
  rw [← ht] at he
  have hrd : ∀ a, pageOf a ≠ 7 → pageOf a ≠ 8 → a ≠ 0x1C010 → a ≠ 0x1C028 → a ≠ 0x1C0A8 → a ≠ 0x1C0B0 →
      t.rd a = (s.setB (doOc o) true).rd a := fun a h7 h8 h1 h2 h3 h4 => by
    rw [ht]
    exact (rd_raiseEv_apart (by decide) h1 h2 h7 h8).trans (rd_bump h3 h4)
  have hrd' : ∀ a, pageOf a ≠ 7 → pageOf a ≠ 8 → a ≠ 0x1C010 → a ≠ 0x1C028 → a ≠ 0x1C0A8 → a ≠ 0x1C0B0 → a ≠ 0x1C050 → t.rd a = s.rd a :=
    fun a h7 h8 h1 h2 h3 h4 h5 => (hrd a h7 h8 h1 h2 h3 h4).trans (rd_setB_apart h5)
  have hoc : t.bit (doOc o) = true := (bit_of_rd (f := doOc o) (hrd 0x1C050 (by decide) (by decide) (by decide) (by decide) (by decide) (by decide))).trans
    (bit_setB_self (by simp only [doOc, bitAt_lo]; omega) rfl)
  refine runs_intro he ⟨hoc, ?_, by rw [ht]; exact bit_raiseEv_self (by decide) (by decide) (by decide) rfl⟩
  have hm : t.mstate = s.mstate := fld_of_rd (hrd' _ (by decide) (by decide) (by decide) (by decide) (by decide) (by decide) (by decide))
  have hon1 : t.bit (bitAt 0x1C040 1) = s.bit (bitAt 0x1C040 1) :=
    bit_of_rd (hrd' _ (by decide) (by decide) (by decide) (by decide) (by decide) (by decide) (by decide))
  have hsafe : t.fld ⟨0x1C05C, 8 + 2 * o, 2⟩ = s.fld ⟨0x1C05C, 8 + 2 * o, 2⟩ :=
    fld_of_rd (f := ⟨0x1C05C, 8 + 2 * o, 2⟩) (hrd' 0x1C05C (by decide) (by decide) (by decide) (by decide) (by decide) (by decide) (by decide))
  have honly := onlyIn_exec he (List.Subset.refl _)
  have hpwr : t.pwr = s.pwr := honly .pwr (by simp [cmdParts])
  have hdio : t.dio = s.dio := honly .dio (by simp [cmdParts])
  unfold State.doOn
  rw [hpwr, hm, hdio, hon1, hsafe, hoc]
  by_cases h6 : s.mstate = 6
  · simp [h6]
  · simp [h6]

theorem openLoop_shows {o : Nat} {s : State} (ho : o < 4) (hd : s.lineDriven (aoutEn o) (s.fld (aoutCfg o 30 2)) = true) :
    runs (.openLoop o) s (fun t => t.bit (bitAt 0x1D044 o) = true ∧ t.bit (bitAt 0x1D010 0) = true) := by
  have he : exec (.openLoop o) s = .next (((s.setB (bitAt 0x1D044 o) true).bump .AOUT_OPEN).raiseEv 0x1D 0) :=
    next_congr (if_pos (by rw [decide_eq_true ho, hd]; rfl))
  refine runs_intro he ⟨?_, bit_raiseEv_self (by decide) (by decide) (by decide) rfl⟩
  refine (bit_raiseEv_apart (by decide) (by simp) (by simp) (by simp) (by simp)).trans ((bit_bump_beside (.inl (by simp [Ctr.AOUT_OPEN])) (.inr (.inr ?_))).trans
    (bit_setB_self (by simp only [bitAt_lo]; omega) rfl))
  simp only [bitAt_lo, bitAt_w, Ctr.AOUT_OPEN]
  omega

/-- Settles O24: inputs by their edge, outputs by the bits written, and the faults of outputs by the output concerned. -/
theorem inputsAndOutputs : Obligations.InputsAndOutputs := by
  unfold Obligations.InputsAndOutputs
  refine ⟨fun i rising s => ⟨diEdge_counts, fun h => next_congr (if_pos h), fastInputEdge_signals, fun h => next_congr (if_pos h)⟩,
    outputs_follow, fun o s => ⟨overcurrent_latches, fun h => next_congr (if_neg ?_), fun ho => ?_, fun h => next_congr (if_neg (by omega)),
      openLoop_shows, fun h => next_congr (if_neg ?_), fun ho => ?_, fun h => next_congr (if_neg (by omega))⟩⟩
  · rcases h with h | h
    · simp [h]
    · simp [Nat.not_lt.2 h]
  · have he : exec (.readback o) s = .next ((s.bump .DIO_RB).raiseEv 0x1C 1) := next_congr (if_pos ho)
    exact runs_intro he ⟨bit_raiseEv_self (by decide) (by decide) (by decide) rfl, onlyIn_exec he (show [.regs, .tbl, .items, .icu, .evr] ⊆ evParts by decide)⟩
  · rcases h with h | h
    · simp [Nat.not_lt.2 h]
    · simp [h]
  · have he : exec (.openCleared o) s = .next (s.setB (bitAt 0x1D044 o) false) := next_congr (if_pos ho)
    have hn : Near (· = 0x1D044) (fun _ => False) s (s.setB (bitAt 0x1D044 o) false) := near_setB (Near.refl _ _ s) rfl
    exact runs_intro he ⟨bit_setB_self (by simp only [bitAt_lo]; omega) rfl, hn.regs, onlyIn_exec he (List.Subset.refl _)⟩

end Sys2Proof.Machine
end

section
/-! ### Reflex channels, the breach of privileged state, and requests -/

namespace Sys2Proof.Machine

/-! #### Commands of the reflex channels (R290) -/

theorem privArm_arms {s : State} {ch : Nat} (hch : s.fld ⟨0x26048, 0, 5⟩ = ch) (hd : s.chDef ch = true) (hc : s.chClass ch = 0)
    (h : s.chFld ch 2 30 2 ≠ 0 ∨ 2 ≤ s.chFld ch 2 28 2 ∨ s.reflexActive ch = false) :
    runs .privArm s (fun t => t.bit (privArmed ch) = true ∧ t.dio.trips = s.dio.trips ∧ s.regsBut t (fun a => a = 0x26050)
      ∧ s.onlyIn t [.regs, .dio]) := by
  subst hch
  have hlt : s.fld ⟨0x26048, 0, 5⟩ < 2 ^ 5 := fld_lt s _
  have hcond : ((s.chFld (s.fld ⟨0x26048, 0, 5⟩) 2 30 2 == 0) && !decide (2 ≤ s.chFld (s.fld ⟨0x26048, 0, 5⟩) 2 28 2)
      && s.reflexActive (s.fld ⟨0x26048, 0, 5⟩)) = false := by
    rcases h with h | h | h
    · simp [h]
    · simp [h]
    · simp [h]
  have he : exec .privArm s = .next ((s.setB (privArmed (s.fld ⟨0x26048, 0, 5⟩)) true).dioMod (fun d =>
      { d with armLvl := (s.fld ⟨0x26048, 0, 5⟩, s.fastLvl (s.chFld (s.fld ⟨0x26048, 0, 5⟩) 2 25 3))
                 :: d.armLvl.filter (fun e => e.1 != s.fld ⟨0x26048, 0, 5⟩),
               adcRun := d.adcRun.filter (fun e => e.1 != s.fld ⟨0x26048, 0, 5⟩) })) :=
    next_congr (congrArg Prod.fst (if_neg (by rw [hd, hc, hcond]; decide)))
  have hn : Near (· = 0x26050) (fun _ => False) s (s.setB (privArmed (s.fld ⟨0x26048, 0, 5⟩)) true) := near_setB (Near.refl _ _ s) rfl
  refine runs_intro he ⟨?_, rfl, hn.regs, onlyIn_exec he (List.Subset.refl _)⟩
  exact (bit_of_regs (t := State.dioMod _ _) rfl _).trans (bit_setB_self (by simp only [privArmed, bitAt_lo]; omega) rfl)

theorem privArm_refuses {s : State} {ch : Nat} (hch : s.fld ⟨0x26048, 0, 5⟩ = ch)
    (h : s.chDef ch = false ∨ s.chClass ch ≠ 0 ∨ (s.chFld ch 2 30 2 = 0 ∧ s.chFld ch 2 28 2 < 2 ∧ s.reflexActive ch = true)) :
    exec .privArm s = .next s := by
  subst hch
  refine next_congr (congrArg Prod.fst (if_pos ?_))
  rcases h with h | h | ⟨h1, h2, h3⟩
  · simp [h]
  · simp [h]
  · simp [h1, h2, h3]

theorem privDisarm_clears {s : State} {ch : Nat} (hch : s.fld ⟨0x26048, 0, 5⟩ = ch) :
    runs .privDisarm s (fun t => t.bit (privArmed ch) = false ∧ s.regsBut t (fun a => a = 0x26050) ∧ s.onlyIn t [.regs]) := by
  subst hch
  have hlt : s.fld ⟨0x26048, 0, 5⟩ < 2 ^ 5 := fld_lt s _
  have he : exec .privDisarm s = .next (s.setB (privArmed (s.fld ⟨0x26048, 0, 5⟩)) false) := rfl
  have hn : Near (· = 0x26050) (fun _ => False) s (s.setB (privArmed (s.fld ⟨0x26048, 0, 5⟩)) false) := near_setB (Near.refl _ _ s) rfl
  exact runs_intro he ⟨bit_setB_self (by simp only [privArmed, bitAt_lo]; omega) rfl, hn.regs, onlyIn_exec he (List.Subset.refl _)⟩

theorem resetTrip_releases {s : State} {ch : Nat} (hch : s.fld ⟨0x26048, 0, 5⟩ = ch)
    (h : s.chDef ch = false ∨ s.chClass ch ≠ 0 ∨ s.reflexActive ch = false) :
    runs .resetTrip s (fun t => t.bit (privTripped ch) = false ∧ (∀ e ∈ t.dio.trips, e ∈ s.dio.trips ∧ e.1 ≠ ch)
      ∧ s.regsBut t (fun a => a = 0x26054) ∧ s.onlyIn t [.regs, .dio]) := by
  subst hch
  have hlt : s.fld ⟨0x26048, 0, 5⟩ < 2 ^ 5 := fld_lt s _
  have he : exec .resetTrip s = .next ((s.setB (privTripped (s.fld ⟨0x26048, 0, 5⟩)) false).dioMod
      (fun d => { d with trips := d.trips.filter (fun e => e.1 != s.fld ⟨0x26048, 0, 5⟩) })) := by
    refine next_congr (congrArg Prod.fst (if_neg ?_))
    rcases h with h | h | h
    · simp [h]
    · simp [h]
    · simp [h]
  have hn : Near (· = 0x26054) (fun _ => False) s (s.setB (privTripped (s.fld ⟨0x26048, 0, 5⟩)) false) := near_setB (Near.refl _ _ s) rfl
  refine runs_intro he ⟨?_, fun e hm => ?_, hn.regs, onlyIn_exec he (List.Subset.refl _)⟩
  · exact (bit_of_regs (t := State.dioMod _ _) rfl _).trans (bit_setB_self (by simp only [privTripped, bitAt_lo]; omega) rfl)
  · obtain ⟨h1, h2⟩ := List.mem_filter.1 hm
    exact ⟨h1, by simpa using h2⟩

theorem resetTrip_refuses {s : State} {ch : Nat} (hch : s.fld ⟨0x26048, 0, 5⟩ = ch) (hd : s.chDef ch = true) (hc : s.chClass ch = 0)
    (ha : s.reflexActive ch = true) : exec .resetTrip s = .next s := by
  subst hch
  refine next_congr (congrArg Prod.fst (if_pos ?_))
  simp [hd, hc, ha]

theorem tripOn_held {s : State} {tp : Nat} (h : ∃ e ∈ s.dio.trips, e.2 / 2 ^ tp % 2 = 1) : s.tripOn tp = false := by
  have hheld : s.tripHeld tp = true := List.any_eq_true.2 (h.imp fun _ h => ⟨h.1, by simpa using h.2⟩)
  unfold State.tripOn
  simp [hheld]

/-! #### The breach (R294) -/

/-- A request that ends with the outcome BREACH is outstanding no more; beside its channel's status no register changes. -/
theorem privDone_breach (s : State) {r : PrivReq} {ch seq : Nat} (hr : s.privReqOf ch seq = some r) :
    Near (fun a => 0x26140 ≤ a) (fun _ => True) s (s.privDone r oBREACH) ∧ (s.privDone r oBREACH).privReqOf ch seq = none := by
  have hmatch : (r.ch == ch && r.seq == seq) = true :=
    List.find?_some (p := fun r : PrivReq => r.ch == ch && r.seq == seq) hr
  have hcs : r.ch = ch ∧ r.seq = seq := by simpa using hmatch
  unfold State.privDone State.privEnd
  extract_lets drop s1 s2 s3
  rw [if_neg (by decide), if_neg (by decide)]
  have h1 : Near (fun a => 0x26140 ≤ a) (fun _ => True) s s1 := near_same (Near.refl _ _ s) rfl rfl
  have h2 : Near (fun a => 0x26140 ≤ a) (fun _ => True) s s2 := near_ite' (near_tset h1 trivial) h1
  have hst : ∀ lo w, 0x26140 ≤ (chStat r.ch lo w).addr := fun _ _ => Nat.le_add_right _ _
  refine ⟨near_setF (near_setF h2 (hst _ _)) (hst _ _), ?_⟩
  have hp : s3.priv = s1.priv := by
    simp only [s3, s2, State.chShow, priv_setF]
    split
    · exact priv_tset ..
    · rfl
  unfold State.privReqOf
  rw [hp]
  refine List.find?_eq_none.2 fun x hx => ?_
  have := (List.mem_filter.1 hx).2
  rw [hcs.1, hcs.2] at this
  rw [Bool.not_eq_true']  at this
  simp [this]

theorem privBreach_faults {kind ch seq ns : Nat} {s : State} (h : s.breached kind ch seq ns = true) (hm : s.mstate ≠ 6) :
    runs (.privBreach kind ch seq ns) s (fun t =>
      t.mstate = 6 ∧ t.bit (bitAt 0x2604C 0) = true ∧ t.rd 0x26064 = BitVec.ofNat 32 (kind * 2 ^ 12 + s.chClass ch * 2 ^ 8 + ch)
        ∧ t.bit (bitAt 0x26010 0) = true ∧ t.fld ⟨0x005C, 0, 8⟩ = 4 ∧ t.privReqOf ch seq = none) := by
  obtain ⟨u, hn, hnone, hu⟩ : ∃ u, Near (fun a => 0x26140 ≤ a) (fun _ => True) s u ∧ u.privReqOf ch seq = none
      ∧ exec (.privBreach kind ch seq ns) s = .next ((((u.setB (bitAt 0x2604C 0) true).wr 0x26064
          (BitVec.ofNat 32 (kind * 2 ^ 12 + s.chClass ch * 2 ^ 8 + ch))).raiseEv 0x26 0).enterFault 4 0) := by
    cases hr : s.privReqOf ch seq with
    | none => exact ⟨s, Near.refl _ _ s, hr, next_congr ((if_pos h).trans (by rw [hr]))⟩
    | some r => exact ⟨s.privDone r oBREACH, (privDone_breach s hr).1, (privDone_breach s hr).2, next_congr ((if_pos h).trans (by rw [hr]))⟩
  obtain ⟨v, hv⟩ : ∃ v, v = (u.setB (bitAt 0x2604C 0) true).wr 0x26064 (BitVec.ofNat 32 (kind * 2 ^ 12 + s.chClass ch * 2 ^ 8 + ch)) := ⟨_, rfl⟩
  rw [← hv] at hu
  have hmv : (v.raiseEv 0x26 0).mstate ≠ 6 := by
    rw [show (v.raiseEv 0x26 0).mstate = v.mstate from fld_raiseEv_apart (by decide) (by decide) (by decide) (by decide) (by decide), hv,
      show (State.wr _ _ _).mstate = u.mstate from (fld_wr_apart (by decide)).trans (fld_setB_apart (by decide)),
      show u.mstate = s.mstate from fld_of_rd (hn.regs _ (by decide))]
    exact hm
  obtain ⟨h6, hc⟩ := enterFault_enters (c := 4) (e := 0) hmv (by decide)
  refine runs_intro hu ⟨h6, ?_, ?_, ?_, hc, ?_⟩
  · refine (bit_of_rd (rd_enterFault (by decide))).trans ((bit_raiseEv_apart (by decide) (by decide) (by decide) (by decide) (by decide)).trans ?_)
    rw [hv]
    exact (bit_wr_apart (by decide)).trans (bit_setB_self (by decide) rfl)
  · refine (rd_enterFault (by decide)).trans ((rd_raiseEv_apart (by decide) (by decide) (by decide) (by decide) (by decide)).trans ?_)
    rw [hv]
    exact rd_wr_self
  · exact (bit_of_rd (rd_enterFault (by decide))).trans (bit_raiseEv_self (by decide) (by decide) (by decide) rfl)
  · have hp : ((v.raiseEv 0x26 0).enterFault 4 0).priv = u.priv := by
      have h1 : ∀ x : State, (x.enterFault 4 0).priv = x.priv := fun x =>
        (enterFault_keeps (Keeps.refl _ x) (List.Subset.refl _)).only .priv (by decide)
      rw [h1, priv_raiseEv, hv, priv_wr, priv_setB]
    unfold State.privReqOf
    rw [hp]
    exact hnone

theorem breached_late {ch seq ns : Nat} {s : State} {r : PrivReq} (hr : s.privReqOf ch seq = some r) (hc : 2 ≤ r.cls) (hrel : r.released = none)
    (hb : s.privBound r < s.elapsed ns) (hp : s.pathsOk ch r.timed ≠ []) : s.breached 1 ch seq ns = true := by
  unfold State.breached
  rw [if_neg (by decide), hr]
  simp [hc, hrel, hb, hp]

/-! #### Requests (R281, R282) -/

/-- The verdicts noted for the input record. -/
def State.givenOf (s : State) : List PrivVerdict := s.priv.given

theorem givenOf_privEnd (s : State) (r : PrivReq) (o : Nat) : (s.privEnd r o).givenOf = s.givenOf := by
  unfold State.givenOf State.privEnd State.chShow
  extract_lets s1 s2 s3
  have h3 : s3.priv.given = s.priv.given := by
    simp only [s3, s2, priv_setF]
    split
    · rw [priv_tset]; rfl
    · rfl
  split
  · rw [priv_bump]
    exact h3
  split
  · rw [priv_raiseEv, priv_bump]
    exact h3
  · exact h3

theorem givenOf_lnchArm (s : State) (n off : Nat) : (s.lnchArm n off).givenOf = s.givenOf := by
  have hfired : ∀ (u : State) n l m b t, (u.privFired n l m b t).givenOf = u.givenOf := fun u n l m b t => by
    unfold State.privFired
    split
    · rfl
    · extract_lets s1 s2
      have h1 : s1.givenOf = u.givenOf := by
        unfold s1 State.givenOf
        split
        · rw [priv_raiseEv, priv_bump]
        · rfl
      have h2 : s2.givenOf = u.givenOf := by
        unfold s2
        split
        · exact h1
        · exact (congrArg PrivSt.given ((logReleased_keeps (Keeps.refl _ s1) (List.Subset.refl _)).only .priv (by decide))).trans h1
      exact (givenOf_privEnd ..).trans h2
  have hend : ∀ (u : State) n, (u.lnchEnd n).priv = u.priv := fun u n => priv_setB ..
  have hfire : ∀ (u : State) a l b off t, (u.lnchFire a l b off t).givenOf = u.givenOf := fun u a l b off t => by
    unfold State.lnchFire
    extract_lets s1 s2
    have h1 : s1.priv = u.priv := ((lnchAct_keeps (Keeps.refl _ _) (List.Subset.refl _)).only .priv (by decide)).trans ((priv_setB ..).trans (hend ..))
    have h2 : s2.priv = u.priv := by
      unfold s2
      split
      · rw [priv_raiseEv, priv_bump, priv_setB]
        exact h1
      · exact h1
    exact (congrArg PrivSt.given (priv_signal ..)).trans ((hfired ..).trans (congrArg PrivSt.given h2))
  have hlate : ∀ (u : State) a l b off t, (u.lnchLate a l b off t).givenOf = u.givenOf := fun u a l b off t => by
    unfold State.lnchLate
    extract_lets s1 grace s2
    have h1 : s1.givenOf = u.givenOf := congrArg PrivSt.given (priv_setF ..)
    have h2 : s2.givenOf = u.givenOf := by
      unfold s2 State.givenOf
      rw [priv_raiseEv, priv_bump, priv_setB, hend]
      exact h1
    split
    · exact (hfire ..).trans h1
    split
    · exact (hfire ..).trans h1
    · exact (hfired ..).trans h2
  unfold State.lnchArm
  extract_lets was act a st s1 s2 s3 d
  have h3 : s3.givenOf = s.givenOf := by
    unfold s3 State.givenOf
    split
    · rw [priv_raiseEv, priv_setB]
      rfl
    · rfl
  split
  · exact h3
  · exact (hlate ..).trans h3

theorem givenOf_privArmComp (s : State) (r : PrivReq) (off : Nat) : (s.privArmComp r off).givenOf = s.givenOf := by
  have hput : ∀ (a : State) (reg : Nat) (v : Word), State.givenOf { a.wr reg v with shadow := smErase a.shadow reg } = a.givenOf :=
    fun a reg v => congrArg PrivSt.given (priv_wr a reg v)
  unfold State.privArmComp
  extract_lets put s1 s2 s3
  exact (givenOf_lnchArm ..).trans ((hput s2 _ _).trans ((hput s1 _ _).trans (hput s _ _)))

theorem privLog_priv (s : State) (ws : List Word) : (s.privLog ws).priv = s.priv :=
  (privLog_keeps (Keeps.refl _ s) (List.Subset.refl _)).only .priv (by decide)

/-- The log's ring moves LOG_NEXT on, and no other register. -/
theorem near_privLog (s : State) (ws : List Word) : Near (· = 0x2604C) (fun _ => True) s (s.privLog ws) := by
  have hrec : ∀ (l : List Word) (u : State) (i w : Nat), Near (· = 0x2604C) (fun _ => True) s u → Near (· = 0x2604C) (fun _ => True) s (u.trecSet 0x2601 i w l) := by
    intro l
    induction l with
    | nil => exact fun u i w h => h
    | cons v l ih => exact fun u i w h => ih _ i (w + 1) (near_twr h trivial)
  unfold State.privLog
  exact near_setF (hrec ws s _ 0 (Near.refl _ _ s)) rfl

section
variable (s : State) (own : Bool) (src off : Nat) (w : List Word)

theorem privVerdict_inactive (h : s.mstate ≠ 4) : s.privVerdict src w off = 7 := if_pos h

theorem privVerdict_closed (hm : s.mstate = 4) (h : s.bit (bitAt 0x26040 1) = false) : s.privVerdict src w off = 1 :=
  (if_neg (fun hn => hn hm)).trans (if_pos (by rw [h]; rfl))

theorem verdictOf_own (h : s.mstate ≠ 3 ∨ own = true) : s.verdictOf own src w off
    = { ch := wbits (w.getD 0 0) 0 5, src := src, seq := if s.privVerdict src w off = 0 then s.nextReqSeq (wbits (w.getD 0 0) 0 5) else 0,
        code := s.privVerdict src w off } := by
  have hc : ¬ (s.mstate = 3 ∧ own = false) := by
    rintro ⟨h1, h2⟩
    rcases h with h | h
    · exact h h1
    · rw [h2] at h
      exact absurd h (by decide)
  unfold State.verdictOf
  extract_lets ch
  rw [if_neg hc]

/-- A standby module takes a verdict that the active module recorded for the channel and the requester (R291). -/
theorem verdictOf_recorded (hm : s.mstate = 3) (ho : own = false) {x : PrivVerdict} (hx : x ∈ s.priv.due)
    (hc : x.ch = wbits (w.getD 0 0) 0 5) (hs : x.src = src) : s.verdictOf own src w off ∈ s.priv.due
      ∧ (s.verdictOf own src w off).ch = wbits (w.getD 0 0) 0 5 ∧ (s.verdictOf own src w off).src = src := by
  unfold State.verdictOf
  extract_lets ch
  rw [if_pos ⟨hm, ho⟩]
  cases hf : s.priv.due.find? (fun v => v.ch == ch && v.src == src) with
  | none => exact absurd (List.find?_eq_none.1 hf x hx) (by simp [ch, hc, hs])
  | some v =>
    have hp : (v.ch == ch && v.src == src) = true := List.find?_some (p := fun v : PrivVerdict => v.ch == ch && v.src == src) hf
    have hp' : v.ch = ch ∧ v.src = src := by simpa using hp
    exact ⟨List.mem_of_find?_eq_some hf, hp'.1, hp'.2⟩

theorem verdictOf_ch_lt : (s.verdictOf own src w off).ch < 32 := by
  have hlt : wbits (w.getD 0 0) 0 5 < 2 ^ 5 := wbits_lt _ _ _
  by_cases h : s.mstate = 3 ∧ own = false
  · unfold State.verdictOf
    extract_lets ch
    rw [if_pos h]
    cases hf : s.priv.due.find? (fun v => v.ch == ch && v.src == src) with
    | none => exact hlt
    | some v =>
      have hp : (v.ch == ch && v.src == src) = true := List.find?_some (p := fun v : PrivVerdict => v.ch == ch && v.src == src) hf
      have hp' : v.ch = ch ∧ v.src = src := by simpa using hp
      exact (hp'.1 ▸ hlt : v.ch < 2 ^ 5)
  · rw [verdictOf_own s own src off w (by cases own <;> simp_all)]
    exact hlt

/-- The state with the verdict noted. -/
def State.noteVerdict (s : State) (v : PrivVerdict) : State := s.privMod (fun q => { q with given := q.given ++ [v], due := q.due.erase v })

theorem privRequest_refused {v : PrivVerdict} (hv : v = s.verdictOf own src w off) (h : v.code ≠ 0) :
    s.privRequest own src w off = ((s.noteVerdict v).privRefuse src v.ch v.code off, v.code, 0) := by
  subst hv
  exact if_neg h

theorem privRequest_accepted {v : PrivVerdict} (hv : v = s.verdictOf own src w off) (h : v.code = 0) :
    s.privRequest own src w off = (((s.noteVerdict v).privAccept src v.seq w off).1, 0, ((s.noteVerdict v).privAccept src v.seq w off).2) := by
  subst hv
  exact if_pos h

theorem privRefuse_priv (ch code : Nat) : (s.privRefuse src ch code off).priv = s.priv :=
  (privRefuse_keeps (Keeps.refl _ s) (List.Subset.refl _)).only .priv (by decide)

theorem privRefuse_shows {ch code : Nat} (hch : ch < 32) : (s.privRefuse src ch code off).bit (bitAt 0x26010 2) = true
    ∧ (s.privRefuse src ch code off).fld Ctr.PRIV_REFUSE.f = min (2 ^ 32 - 1) (s.fld Ctr.PRIV_REFUSE.f + 1)
    ∧ (s.privRefuse src ch code off).fld (chStat ch 28 4) = 4 := by
  unfold State.privRefuse
  extract_lets t s1 s2
  have hlog : Near (· = 0x2604C) (fun _ => True) s s1 := near_privLog s _
  have h2 : s2.fld Ctr.PRIV_REFUSE.f = s.fld Ctr.PRIV_REFUSE.f :=
    (fld_setF_apart (.inl (by simp only [chStat, Ctr.PRIV_REFUSE]; omega))).trans ((fld_wr_apart (by decide)).trans (fld_of_rd (hlog.regs _ (by decide))))
  refine ⟨bit_raiseEv_self (by decide) (by decide) (by decide) rfl, ?_, ?_⟩
  · exact (fld_raiseEv_apart (by decide) (by decide) (by decide) (by decide) (by decide)).trans
      ((fld_bump_stays rfl (by decide) (by decide)).trans (by rw [h2]; rfl))
  · refine (fld_raiseEv_apart (by decide) ?_ ?_ ?_ ?_).trans ((fld_bump_apart ?_ ?_).trans (fld_setF_self (f := chStat ch 28 4) (by simp [chStat])))
    all_goals
      simp only [chStat, addrOf_eq, pageOf_eq, Ctr.PRIV_REFUSE]
      omega

/-- A request of a channel is outstanding: its record in the log, the privileged part changed, its counter and its channel's words. -/
def State.takenOn (s : State) (ws : List Word) (f : PrivSt → PrivSt) (ch seq : Nat) : State :=
  ((((((s.privLog ws).privMod f).bump .PRIV_ACCEPT).wr (0x261C0 + 4 * ch) (BitVec.ofNat 32 seq)).setF (chStat ch 28 4) 0).chShow ch)

theorem privAccept_cases (seq : Nat) : ∃ (ws : List Word) (f : PrivSt → PrivSt) (r : PrivReq),
    s.privAccept src seq w off = (if s.chClass (wbits (w.getD 0 0) 0 5) = 1 then
        (s.takenOn ws f (wbits (w.getD 0 0) 0 5) seq).privArmComp r off else s.takenOn ws f (wbits (w.getD 0 0) 0 5) seq, seq)
      ∧ (∀ q, (f q).reqs = q.reqs ++ [r] ∧ (f q).given = q.given) ∧ r.ch = wbits (w.getD 0 0) 0 5 ∧ r.seq = seq ∧ r.ta = s.elapsed off
      ∧ r.released = none
      ∧ r.bound = (s.elapsed off : Int) + s.chPromise (wbits (w.getD 0 0) 0 5) * 1000 - s.privA
          - s.privLat (s.chClass (wbits (w.getD 0 0) 0 5)) r.port := by
  unfold State.privAccept
  extract_lets ch cls timed paths port t b lt sec ns bl slot r s1 s2 s3 s4
  exact ⟨_, _, r, rfl, fun q => ⟨rfl, rfl⟩, rfl, rfl, rfl, rfl, rfl⟩

theorem takenOn_priv (ws : List Word) (f : PrivSt → PrivSt) (ch seq : Nat) : (s.takenOn ws f ch seq).priv = f s.priv := by
  have h : ((s.privLog ws).privMod f).priv = f (s.privLog ws).priv := rfl
  unfold State.takenOn State.chShow
  rw [priv_setF, priv_setF, priv_wr, priv_bump, h, privLog_priv]

theorem takenOn_count (ws : List Word) (f : PrivSt → PrivSt) {ch : Nat} (seq : Nat) (hch : ch < 32) :
    (s.takenOn ws f ch seq).fld Ctr.PRIV_ACCEPT.f = (s.fld Ctr.PRIV_ACCEPT.f + 1) % 2 ^ 32 := by
  have h2 : ((s.privLog ws).privMod f).fld Ctr.PRIV_ACCEPT.f = s.fld Ctr.PRIV_ACCEPT.f :=
    (fld_of_regs (regs_privMod ..) _).trans (fld_of_rd ((near_privLog s ws).regs _ (by decide)))
  have hst : ∀ lo n, Ctr.PRIV_ACCEPT.f.addr ≠ (chStat ch lo n).addr := fun lo n => by
    simp only [chStat, Ctr.PRIV_ACCEPT]
    omega
  have hseq : Ctr.PRIV_ACCEPT.f.addr ≠ 0x261C0 + 4 * ch := by
    simp only [Ctr.PRIV_ACCEPT]
    omega
  exact (fld_setF_apart (.inl (hst _ _))).trans ((fld_setF_apart (.inl (hst _ _))).trans ((fld_wr_apart hseq).trans
    ((fld_bump_wraps rfl (by decide)).trans (by rw [h2]; rfl))))

theorem privAccept_given (seq : Nat) : (s.privAccept src seq w off).1.givenOf = s.givenOf := by
  obtain ⟨ws, f, r, he, hf, -⟩ := privAccept_cases s src off w seq
  have h : (s.takenOn ws f (wbits (w.getD 0 0) 0 5) seq).givenOf = s.givenOf := by
    unfold State.givenOf
    rw [takenOn_priv]
    exact (hf _).2
  have hx := congrArg Prod.fst he
  dsimp only at hx
  rw [hx]
  split
  · exact (givenOf_privArmComp ..).trans h
  · exact h

/-- An accepted request that arms no comparator is outstanding with its bound. -/
theorem privAccept_shows {seq : Nat} (hc : s.chClass (wbits (w.getD 0 0) 0 5) ≠ 1) :
    (s.privAccept src seq w off).2 = seq
    ∧ (∃ r, (s.privAccept src seq w off).1.priv.reqs = s.priv.reqs ++ [r] ∧ r.ch = wbits (w.getD 0 0) 0 5 ∧ r.seq = seq ∧ r.ta = s.elapsed off
        ∧ r.released = none
        ∧ r.bound = (s.elapsed off : Int) + s.chPromise (wbits (w.getD 0 0) 0 5) * 1000 - s.privA
            - s.privLat (s.chClass (wbits (w.getD 0 0) 0 5)) r.port)
    ∧ (s.privAccept src seq w off).1.fld Ctr.PRIV_ACCEPT.f = (s.fld Ctr.PRIV_ACCEPT.f + 1) % 2 ^ 32 := by
  obtain ⟨ws, f, r, he, hf, hr⟩ := privAccept_cases s src off w seq
  rw [if_neg hc] at he
  rw [he]
  refine ⟨rfl, ⟨r, ?_, hr⟩, takenOn_count s ws f seq (wbits_lt _ _ _)⟩
  rw [takenOn_priv]
  exact (hf _).1

end

theorem requests_judged (own : Bool) (src off : Nat) (w : List Word) (s : State) :
    let ch := wbits (w.getD 0 0) 0 5
    let v := s.verdictOf own src w off
    let t := (s.privRequest own src w off).1
    (s.mstate ≠ 4 → s.privVerdict src w off = 7)
    ∧ (s.mstate = 4 → s.bit (bitAt 0x26040 1) = false → s.privVerdict src w off = 1)
    ∧ (s.mstate ≠ 3 ∨ own = true → v.code = s.privVerdict src w off ∧ v.ch = ch ∧ (v.code = 0 → v.seq = s.nextReqSeq ch))
    ∧ (∀ x ∈ s.priv.due, s.mstate = 3 → own = false → x.ch = ch → x.src = src → v ∈ s.priv.due ∧ v.ch = ch ∧ v.src = src)
    ∧ t.priv.given = s.priv.given ++ [v]
    ∧ (v.code ≠ 0 → (s.privRequest own src w off).2.1 = v.code ∧ t.priv.reqs = s.priv.reqs ∧ t.bit (bitAt 0x26010 2) = true
        ∧ t.fld Ctr.PRIV_REFUSE.f = min (2 ^ 32 - 1) (s.fld Ctr.PRIV_REFUSE.f + 1) ∧ t.fld (chStat v.ch 28 4) = 4)
    ∧ (v.code = 0 → s.chClass ch ≠ 1 → (s.privRequest own src w off).2 = (0, v.seq)
        ∧ (∃ r, t.priv.reqs = s.priv.reqs ++ [r] ∧ r.ch = ch ∧ r.seq = v.seq ∧ r.ta = s.elapsed off ∧ r.released = none
            ∧ r.bound = (s.elapsed off : Int) + s.chPromise ch * 1000 - s.privA - s.privLat (s.chClass ch) r.port)
        ∧ t.fld Ctr.PRIV_ACCEPT.f = (s.fld Ctr.PRIV_ACCEPT.f + 1) % 2 ^ 32) := by
  intro ch v t
  have hv : v = s.verdictOf own src w off := rfl
  refine ⟨privVerdict_inactive s src off w, privVerdict_closed s src off w, fun h => ?_, fun x hx hm ho hc hs => verdictOf_recorded s own src off w hm ho hx hc hs,
    ?_, fun h => ?_, fun h hc => ?_⟩
  · rw [hv, verdictOf_own s own src off w h]
    exact ⟨rfl, rfl, fun h => if_pos h⟩
  · by_cases h : v.code = 0
    · unfold t
      rw [privRequest_accepted s own src off w hv h]
      exact (privAccept_given (s.noteVerdict v) src off w v.seq :)
    · unfold t
      rw [privRequest_refused s own src off w hv h]
      exact congrArg PrivSt.given (privRefuse_priv ..)
  · unfold t
    rw [privRequest_refused s own src off w hv h]
    obtain ⟨h1, h2, h3⟩ := privRefuse_shows (s.noteVerdict v) src off (code := v.code) (verdictOf_ch_lt s own src off w)
    have hreqs : ((s.noteVerdict v).privRefuse src v.ch v.code off).priv.reqs = s.priv.reqs := by
      rw [privRefuse_priv]
      rfl
    exact ⟨rfl, hreqs, h1, h2.trans (by rw [fld_of_regs (s := s) (t := s.noteVerdict v) rfl]), h3⟩
  · unfold t
    rw [privRequest_accepted s own src off w hv h]
    obtain ⟨h1, h2, h3⟩ := privAccept_shows (s.noteVerdict v) src off w (seq := v.seq) hc
    exact ⟨congrArg (0, ·) h1, h2, h3.trans (by rw [fld_of_regs (s := s) (t := s.noteVerdict v) rfl])⟩

/-- Settles O25: the reflex commands by their channel, the breach by its three kinds, and requests by their verdict. -/
theorem reflexAndPrivileged : Obligations.ReflexAndPrivileged := by
  unfold Obligations.ReflexAndPrivileged
  refine ⟨fun s ch hch => ⟨privArm_arms hch, privArm_refuses hch, privDisarm_clears hch, resetTrip_releases hch, resetTrip_refuses hch,
    fun tp _ => tripOn_held⟩, fun kind ch seq ns s => ⟨privBreach_faults, fun h => next_congr (if_neg (by rw [h]; decide)), fun r => breached_late,
      fun h => ⟨?_, ?_⟩⟩, requests_judged⟩
  · unfold State.breached
    rw [if_neg (by decide), h]
  · unfold State.breached
    rw [if_neg (by decide), h]

end Sys2Proof.Machine
end

section
/-! ### The timebase: commands, sources and minutes -/

namespace Sys2Proof.Machine

/-! #### What the shared operations leave of TIME_STAT -/

theorem rd_errEst {s : State} {a : Nat} (h : a ≠ 0x4070) : s.errEst.rd a = s.rd a := rd_wr_apart h

theorem time_errEst (s : State) : s.errEst.time = s.time := rfl

theorem fld_errEst {s : State} {f : Fld} (h : f.addr ≠ 0x4070) : s.errEst.fld f = s.fld f := fld_of_rd (rd_errEst h)

theorem bit_errEst {s : State} {f : Fld} (h : f.addr ≠ 0x4070) : s.errEst.bit f = s.bit f := bit_of_rd (rd_errEst h)

/-- The other fields of TIME_STAT under a change of quality. -/
theorem fld_setQuality {s : State} {q : Nat} {f : Fld} (ha : f.addr = 0x4048) (hl : 3 ≤ f.lo) : (s.setQuality q).fld f = s.fld f := by
  unfold State.setQuality
  split
  · exact fld_errEst (by rw [ha]; decide)
  · extract_lets s1 s2 s3
    have h1 : s1.fld f = s.fld f := fld_setF_apart (.inr (.inl hl))
    have h3 : s3.fld f = s1.fld f := by
      unfold s3
      split
      · exact fld_setF_apart (.inl (by rw [ha]; decide))
      · rfl
    exact (fld_raiseEv_apart (by decide) (by rw [ha]; decide) (by rw [ha]; decide) (by rw [ha]; decide) (by rw [ha]; decide)).trans
      ((fld_errEst (by rw [ha]; decide)).trans (h3.trans h1))

theorem fld_toHoldover {s : State} {f : Fld} (ha : f.addr = 0x4048) (hl : 3 ≤ f.lo) : s.toHoldover.fld f = s.fld f := by
  unfold State.toHoldover State.ownQuality
  split
  · split
    · exact fld_errEst (by rw [ha]; decide)
    · exact fld_setQuality ha hl
  · rfl

/-- Entering HOLDOVER ends the run of offsets for lock where it had not ended. -/
theorem lockN_toHoldover {s : State} (h : s.time.lockN = 0) : s.toHoldover.time.lockN = 0 := by
  unfold State.toHoldover State.ownQuality State.setQuality
  split
  · split
    · exact h
    split
    · exact h
    · extract_lets s1 s2 s3
      rw [time_raiseEv, time_errEst]
      unfold s3
      split
      · rw [time_setF]
        rfl
      · rfl
  · exact h

/-- What selecting a source shows (R105). -/
theorem selectSrc_shows (s : State) (c : Nat) : (s.selectSrc c).fld timeSrc = c % 8 ∧ (s.fld timeSrc ≠ c → (s.selectSrc c).time.lockN = 0) := by
  have hlt : s.fld timeSrc < 2 ^ 3 := fld_lt s _
  unfold State.selectSrc
  split
  · rename_i h
    exact ⟨by omega, fun hn => absurd h hn⟩
  · extract_lets s1
    have h1 : s1.fld timeSrc = c % 8 := by
      refine (fld_raiseEv_apart (by decide) (by decide) (by decide) (by decide) (by decide)).trans ((fld_bump_apart (by decide) (by decide)).trans ?_)
      exact (fld_of_regs (t := State.timeMod _ _) rfl _).trans (fld_setF_self (by decide))
    have h2 : s1.time.lockN = 0 := by
      unfold s1
      rw [time_raiseEv, time_bump]
      rfl
    split
    · exact ⟨(fld_toHoldover rfl (by decide)).trans h1, fun _ => lockN_toHoldover h2⟩
    · exact ⟨h1, fun _ => h2⟩

/-! #### Commands (R114, R116, R125) -/

theorem stepAccept_accepts {s : State} {d : Int} (hr : s.bit timeRefused = true) (hp : s.bit timeStepPend = false) (hsrc : s.fld timeSrc ≠ 0)
    (ho : s.time.offs.getD (s.fld timeSrc - 1) none = some d) :
    runs .stepAccept s (fun t => t.bit timeStepPend = true ∧ t.time = { s.time with stepPend := some d }
      ∧ s.regsBut t (fun a => a = 0x4048) ∧ s.onlyIn t [.regs, .time]) := by
  have he : exec .stepAccept s = .next ((s.setB timeStepPend true).timeMod (fun t => { t with stepPend := some d })) := by
    refine next_congr ?_
    unfold stepAccept
    extract_lets src
    rw [if_neg (by rw [hr, hp]; decide), if_neg hsrc, ho]
  have hn : Near (· = 0x4048) (fun _ => False) s (s.setB timeStepPend true) := near_setB (Near.refl _ _ s) rfl
  exact runs_intro he ⟨(bit_of_regs (t := State.timeMod _ _) rfl _).trans (bit_setB_self (by decide) rfl), rfl, hn.regs,
    onlyIn_exec he (List.Subset.refl _)⟩

theorem clearCtr_clears {s : State} {c : Ctr} (hk : c.kind = .S) (hf : c.f.lo + c.f.w ≤ 32) (ho : c.ovf.2 < 32) (h : c.f.addr ≠ c.ovf.1) :
    (s.clearCtr c).fld c.f = 0 ∧ (s.clearCtr c).bit (bitAt c.ovf.1 c.ovf.2) = false := by
  unfold State.clearCtr
  rw [hk]
  exact ⟨(fld_setF_apart (.inl h)).trans ((fld_setF_self hf).trans (Nat.zero_mod _)), bit_setF_zero_self ho rfl⟩

theorem relearn_clears (s : State) : runs .relearn s (fun t => t.fld Ctr.TIME_LEARN_MIN.f = 0 ∧ t.bit timeLearned = false ∧ t.rd 0x4068 = 0
    ∧ t.time.learn = [] ∧ t.fld timeQuality = s.fld timeQuality ∧ s.onlyIn t [.regs, .time]) := by
  have he : exec .relearn s = .next (relearn s) := rfl
  obtain ⟨u, hu⟩ : ∃ u, u = s.clearCtr .TIME_LEARN_MIN := ⟨_, rfl⟩
  have h0 : u.fld Ctr.TIME_LEARN_MIN.f = 0 := by
    rw [hu]
    exact (clearCtr_clears rfl (by decide) (by decide) (by decide)).1
  have hq : u.fld timeQuality = s.fld timeQuality := by
    rw [hu]
    exact (fld_setF_apart (by decide)).trans (fld_setF_apart (by decide))
  have hx : relearn s = (((u.setB timeLearned false).wr 0x4068 0).timeMod (fun t => { t with learn := [], minStart := s.ownFno, minSum := 0 })).errEst := by
    rw [hu]
    rfl
  have hmod : ∀ (x : State) g f, (x.timeMod g).fld f = x.fld f := fun x g f => fld_of_regs rfl f
  refine runs_intro he ⟨?_, ?_, ?_, by rw [hx]; rfl, ?_, onlyIn_exec he (List.Subset.refl _)⟩
  · rw [hx, fld_errEst (by decide), hmod, fld_wr_apart (by decide), fld_setB_apart (by decide)]
    exact h0
  · rw [hx, bit_errEst (by decide), bit_of_regs (t := State.timeMod _ _) (s := (u.setB timeLearned false).wr 0x4068 0) rfl, bit_wr_apart (by decide)]
    exact bit_setB_self (by decide) rfl
  · rw [hx, rd_errEst (by decide)]
    exact rd_wr_self (s := u.setB timeLearned false) (a := 0x4068) (v := 0)
  · rw [hx, fld_errEst (by decide), hmod, fld_wr_apart (by decide), fld_setB_apart (by decide)]
    exact hq

/-- The counters of the TIME page that CLR_CNT clears. -/
def timeCounters : List Ctr := [.TIME_JUMP, .TIME_STEP, .TIME_SRC_CHG, .TIME_LATE, .TIME_MISSED, .TIME_HOLD_MIN, .TIME_LEARN_MIN]

/-- Clearing further counters leaves a cleared one cleared. -/
theorem foldl_clearCtr_stays {l : List Ctr} {s : State} {c : Ctr} (h : s.fld c.f = 0 ∧ s.bit (bitAt c.ovf.1 c.ovf.2) = false) :
    (l.foldl (fun a c => a.clearCtr c) s).fld c.f = 0 ∧ (l.foldl (fun a c => a.clearCtr c) s).bit (bitAt c.ovf.1 c.ovf.2) = false := by
  have hc : Cleared s (l.foldl (fun a c => a.clearCtr c) s) := cleared_foldl (fun a c => cleared_clearCtr a c) l s
  refine ⟨hc.fld h.1, ?_⟩
  have h0 : s.fld (bitAt c.ovf.1 c.ovf.2) = 0 := by simpa [State.bit] using h.2
  unfold State.bit
  rw [hc.fld h0]
  rfl

theorem foldl_clearCtr_clears {l : List Ctr} (hl : ∀ c ∈ l, c.kind = .S ∧ c.f.lo + c.f.w ≤ 32 ∧ c.ovf.2 < 32 ∧ c.f.addr ≠ c.ovf.1) {s : State} {c : Ctr}
    (h : c ∈ l) : (l.foldl (fun a c => a.clearCtr c) s).fld c.f = 0 ∧ (l.foldl (fun a c => a.clearCtr c) s).bit (bitAt c.ovf.1 c.ovf.2) = false := by
  induction l generalizing s with
  | nil => exact absurd h List.not_mem_nil
  | cons x l ih =>
    rcases List.mem_cons.1 h with rfl | h
    · obtain ⟨h1, h2, h3, h4⟩ := hl c List.mem_cons_self
      have hcl := clearCtr_clears (s := s) h1 h2 h3 h4
      rw [List.foldl_cons]
      exact foldl_clearCtr_stays hcl
    · exact ih (fun c hc => hl c (List.mem_cons_of_mem _ hc)) h

theorem clrCnt_clears (s : State) : runs .clrCnt s (fun t => (∀ c ∈ timeCounters, t.fld c.f = 0 ∧ t.bit (bitAt c.ovf.1 c.ovf.2) = false)
    ∧ s.onlyIn t [.regs]) := by
  have he : exec .clrCnt s = .next ((timeCounters.foldl (fun a c => a.clearCtr c) s).errEst) := rfl
  have hshape : ∀ c ∈ timeCounters, c.kind = .S ∧ c.f.lo + c.f.w ≤ 32 ∧ c.ovf.2 < 32 ∧ c.f.addr ≠ c.ovf.1 := by decide
  have haddr : ∀ c ∈ timeCounters, c.f.addr ≠ 0x4070 ∧ c.ovf.1 ≠ 0x4070 := by decide
  refine runs_intro he ⟨fun c hc => ?_, onlyIn_exec he (List.Subset.refl _)⟩
  obtain ⟨h1, h2⟩ := foldl_clearCtr_clears hshape (s := s) hc
  exact ⟨(fld_errEst (haddr c hc).1).trans h1, (bit_errEst (haddr c hc).2).trans h2⟩

/-! #### Sources (R105) -/

/-- The state in which every source has been judged. -/
def State.judged (s : State) : State := [1, 2, 3, 4].foldl (fun a c => a.srcNote c) ((s.ptpSelect 0).ptpSelect 1)

theorem timeEval_stays {s : State} (h0 : s.judged.fld timeSrc ≠ 0) (hok : s.judged.srcOk (s.judged.fld timeSrc) = true)
    (hr : s.judged.fld timeSrc ∈ s.judged.ranked) : s.timeEval = s.judged :=
  (if_neg h0).trans (if_pos (by
    rw [Bool.and_eq_true]
    exact ⟨hok, List.contains_iff_mem.2 hr⟩))

theorem timeEval_selects {s : State} (h : s.judged.fld timeSrc = 0 ∨ s.judged.srcOk (s.judged.fld timeSrc) = false
    ∨ s.judged.fld timeSrc ∉ s.judged.ranked) :
    s.timeEval.fld timeSrc = ((s.judged.ranked.find? (fun c => s.judged.srcOk c)).getD 0) % 8 := by
  by_cases h0 : s.judged.fld timeSrc = 0
  · have he : s.timeEval = s.judged.selectSrc ((s.judged.ranked.find? (fun c => s.judged.srcOk c)).getD 0) := if_pos h0
    rw [he]
    exact (selectSrc_shows _ _).1
  · have hno : ¬ (s.judged.srcOk (s.judged.fld timeSrc) && s.judged.ranked.contains (s.judged.fld timeSrc)) = true := by
      rw [Bool.and_eq_true, List.contains_iff_mem]
      rintro ⟨h1, h2⟩
      rcases h with h | h | h
      · exact h0 h
      · rw [h] at h1
        exact absurd h1 (by decide)
      · exact h h2
    have he : s.timeEval = (if s.judged.fld timeSrc = 3 && !s.judged.srcOk 3 then s.judged.raiseEv 4 6 else s.judged).selectSrc
        ((s.judged.ranked.find? (fun c => s.judged.srcOk c)).getD 0) := (if_neg h0).trans (if_neg hno)
    rw [he]
    exact (selectSrc_shows _ _).1

theorem upgrade_selects {s : State} {c : Nat} (h0 : s.judged.fld timeSrc ≠ 0) (hok : s.judged.srcOk (s.judged.fld timeSrc) = true)
    (hr : s.judged.fld timeSrc ∈ s.judged.ranked)
    (hf : (s.judged.ranked.takeWhile (fun x => x != s.judged.fld timeSrc)).find? (fun x => match s.judged.srcSince x with
      | none => false
      | some f => decide (10000 ≤ s.judged.ownSince f)) = some c) :
    runs .sourceUpgrade s (fun t => t.fld timeSrc = c % 8 ∧ t.time.lockN = 0) := by
  have hne : s.judged.fld timeSrc ≠ c := by
    have := List.mem_takeWhile_imp (List.mem_of_find?_eq_some hf)
    simp only [bne_iff_ne, ne_eq] at this
    exact fun h => this h.symm
  have he : exec .sourceUpgrade s = .next (s.judged.selectSrc c) := by
    refine next_congr ?_
    unfold State.timeUpgrade
    extract_lets s1 cur higher
    have h1 : s1 = s.judged := timeEval_stays h0 hok hr
    have hc : ¬ cur = 0 := by
      unfold cur
      rw [h1]
      exact h0
    rw [if_neg hc]
    split
    · rename_i c' heq
      unfold higher cur at heq
      rw [h1] at heq ⊢
      rw [Option.some.inj (heq.symm.trans hf)]
    · rename_i heq
      unfold higher cur at heq
      rw [h1] at heq
      exact absurd (heq.symm.trans hf) (fun h => nomatch h)
  obtain ⟨h1, h2⟩ := selectSrc_shows s.judged c
  exact runs_intro he ⟨h1, h2 hne⟩

theorem upgrade_none {s : State} (h0 : s.judged.fld timeSrc ≠ 0) (hok : s.judged.srcOk (s.judged.fld timeSrc) = true)
    (hr : s.judged.fld timeSrc ∈ s.judged.ranked)
    (hn : ∀ c ∈ s.judged.ranked.takeWhile (fun x => x != s.judged.fld timeSrc), ∀ f, s.judged.srcSince c = some f → s.judged.ownSince f < 10000) :
    exec .sourceUpgrade s = .next s.judged := by
  refine next_congr ?_
  unfold State.timeUpgrade
  extract_lets s1 cur higher
  have h1 : s1 = s.judged := timeEval_stays h0 hok hr
  have hc : ¬ cur = 0 := by
    unfold cur
    rw [h1]
    exact h0
  rw [if_neg hc]
  split
  · rename_i c heq
    have hc' := List.find?_some heq
    have hm := List.mem_of_find?_eq_some heq
    unfold higher cur at hm
    rw [h1] at hm hc'
    split at hc'
    · exact absurd hc' Bool.false_ne_true
    · rename_i f hf
      exact absurd (of_decide_eq_true hc') (Nat.not_le.2 (hn c hm f hf))
  · exact h1

/-! #### Minutes (R114, R119) -/

theorem learnMinute_holds {ok : Bool} {s : State} (hh : 60000 ≤ s.ownSince s.time.holdStart) (hq : s.fld timeQuality = 2) :
    runs (.learnMinute ok) s (fun t => t.time = { s.time with holdStart := s.ownFno }
      ∧ t.fld Ctr.TIME_HOLD_MIN.f = min 65535 (s.fld Ctr.TIME_HOLD_MIN.f + 1) ∧ s.onlyIn t [.regs, .time]) := by
  obtain ⟨u, hu⟩ : ∃ u, u = s.timeMod (fun t => { t with holdStart := s.ownFno }) := ⟨_, rfl⟩
  have he : exec (.learnMinute ok) s = .next (u.bump .TIME_HOLD_MIN).errEst := by
    rw [hu]
    exact next_congr ((if_pos hq).trans (if_neg (by omega)))
  have hk : Keeps [.regs, .time] s (u.bump .TIME_HOLD_MIN).errEst := by
    rw [hu]
    exact errEst_keeps (bump_keeps (timeMod_keeps (Keeps.refl _ s) (by decide)) (by decide)) (by decide)
  refine runs_intro he ⟨?_, ?_, hk.only⟩
  · rw [time_errEst, time_bump, hu]
    rfl
  · rw [fld_errEst (by decide), fld_bump_stays rfl (by decide) (by decide), hu, fld_of_regs (t := State.timeMod _ _) rfl]
    rfl

theorem rd_holdFreq {s : State} {a : Nat} (h : a ≠ 0x4068) : s.holdFreq.rd a = s.rd a := by
  unfold State.holdFreq
  extract_lets n sum up
  split
  · rfl
  · exact rd_wr_apart h

theorem time_holdFreq (s : State) : s.holdFreq.time = s.time := by
  unfold State.holdFreq
  extract_lets n sum up
  split <;> rfl

theorem learnMinute_learns {s : State} (hm : 60000 ≤ s.ownSince s.time.minStart) (hq : s.fld timeQuality = 1) :
    runs (.learnMinute true) s (fun t => t.time.minStart = s.ownFno ∧ t.time.learn = (s.time.minSum :: s.time.learn).take 1440
      ∧ t.fld Ctr.TIME_LEARN_MIN.f = min 65535 (s.fld Ctr.TIME_LEARN_MIN.f + 1)
      ∧ (1439 ≤ s.fld Ctr.TIME_LEARN_MIN.f → t.bit timeLearned = true) ∧ s.onlyIn t [.regs, .time, .free]) := by
  obtain ⟨u, hu⟩ : ∃ u, u = (s.timeMod (fun t => { t with minStart := s.ownFno, minSum := 0 })).timeMod
      (fun t => { t with learn := (s.time.minSum :: t.learn).take 1440 }) := ⟨_, rfl⟩
  obtain ⟨x, hx⟩ : ∃ x, x = (u.bump .TIME_LEARN_MIN).holdFreq := ⟨_, rfl⟩
  have he : exec (.learnMinute true) s = .next (if 1440 ≤ x.fld Ctr.TIME_LEARN_MIN.f then x.setB timeLearned true else x) := by
    rw [hx, hu]
    exact next_congr ((if_neg (by rw [hq]; decide)).trans ((if_neg (by omega)).trans (if_pos (by rw [hq]; decide))))
  have hu0 : u.fld Ctr.TIME_LEARN_MIN.f = s.fld Ctr.TIME_LEARN_MIN.f := fld_of_regs (by rw [hu]; rfl) _
  have hcnt : x.fld Ctr.TIME_LEARN_MIN.f = min 65535 (s.fld Ctr.TIME_LEARN_MIN.f + 1) := by
    rw [hx, fld_of_rd (s := u.bump .TIME_LEARN_MIN) (t := State.holdFreq _) (rd_holdFreq (by decide)), fld_bump_stays rfl (by decide) (by decide), hu0]
    rfl
  have htime : x.time = u.time := by rw [hx, time_holdFreq, time_bump]
  have hstart : u.time.minStart = s.ownFno ∧ u.time.learn = (s.time.minSum :: s.time.learn).take 1440 := by
    rw [hu]
    exact ⟨rfl, rfl⟩
  refine runs_intro he ⟨?_, ?_, ?_, fun h => ?_, onlyIn_mono (onlyIn_exec he (List.Subset.refl _)) (List.Subset.refl _)⟩
  · split
    · rw [time_setB, htime]
      exact hstart.1
    · rw [htime]
      exact hstart.1
  · split
    · rw [time_setB, htime]
      exact hstart.2
    · rw [htime]
      exact hstart.2
  · split
    · exact (fld_setB_apart (by decide)).trans hcnt
    · exact hcnt
  · rw [if_pos (by rw [hcnt]; omega)]
    exact bit_setB_self (by decide) rfl

theorem learnMinute_restarts {ok : Bool} {s : State} (hm : 60000 ≤ s.ownSince s.time.minStart) (hq : s.fld timeQuality ≠ 2)
    (h : ok = false ∨ s.fld timeQuality ≠ 1) : runs (.learnMinute ok) s (fun t =>
      t.time = { s.time with minStart := s.ownFno, minSum := 0 } ∧ s.onlyIn t [.time]) := by
  have hno : ¬ ((decide (s.fld timeQuality = 1)) && ok) = true := by
    rcases h with h | h
    · simp [h]
    · simp [h]
  have he : exec (.learnMinute ok) s = .next (s.timeMod (fun t => { t with minStart := s.ownFno, minSum := 0 })) :=
    next_congr ((if_neg hq).trans ((if_neg (by omega)).trans (if_neg hno)))
  have hk : Keeps [.time] s (s.timeMod (fun t => { t with minStart := s.ownFno, minSum := 0 })) := timeMod_keeps (Keeps.refl _ s) (List.Subset.refl _)
  exact runs_intro he ⟨rfl, hk.only⟩

/-- Settles O26: the commands of the timebase, the selection of its source, and its minutes. -/
theorem timebaseAndSources : Obligations.TimebaseAndSources := by
  unfold Obligations.TimebaseAndSources
  refine ⟨fun s => ⟨fun h => next_congr (if_pos ?_), fun d => stepAccept_accepts, relearn_clears s, clrCnt_clears s⟩,
    fun s => ⟨fun h => runs_intro rfl (timeEval_selects h), fun h0 hok hr => next_congr (timeEval_stays h0 hok hr),
      fun c h0 hok hr hf => upgrade_selects h0 hok hr hf, fun h0 hok hr hn => upgrade_none h0 hok hr hn,
      fun ok hq h => next_congr ((if_pos hq).trans (if_pos h)), fun ok hq h => next_congr ((if_neg hq).trans (if_pos h)),
      fun ok => learnMinute_holds, learnMinute_learns, fun ok => learnMinute_restarts⟩⟩
  rcases h with h | h
  · simp [h]
  · simp [h]

end Sys2Proof.Machine
end

section
/-! ### PTP, 1PPS and time of day -/

namespace Sys2Proof.Machine

/-! #### What judging the sources leaves of the timebase -/

/-- The timebase without the sources' periods and offsets, and without what the servo and the quality keep. -/
def TimeSt.inputs (t : TimeSt) : TimeSt :=
  { t with acc := 0, since := [], offs := [], lockN := 0, lastAcc := none, holdBase := none, holdStart := 0, minStart := 0, minSum := 0,
           initPend := none }

/-- The two states hold the same inputs of the timebase. -/
def InputsSame (s t : State) : Prop := t.time.inputs = s.time.inputs

/-- The same, and the same offsets. -/
def OffsSame (s t : State) : Prop := InputsSame s t ∧ t.time.offs = s.time.offs

section
variable {s t : State}

theorem OffsSame.refl (s : State) : OffsSame s s := ⟨rfl, rfl⟩

theorem offsSame_time {u : State} (h : OffsSame s t) (hu : u.time = t.time) : OffsSame s u := by
  unfold OffsSame InputsSame
  rw [hu]
  exact h

theorem offsSame_ite {u : State} {c : Prop} [Decidable c] (h1 : OffsSame s t) (h2 : OffsSame s u) : OffsSame s (if c then t else u) := by
  split
  · exact h1
  · exact h2

theorem offsSame_timeMod {f : TimeSt → TimeSt} (h : OffsSame s t) (hf : (f t.time).inputs = t.time.inputs) (ho : (f t.time).offs = t.time.offs) :
    OffsSame s (t.timeMod f) := ⟨hf.trans h.1, ho.trans h.2⟩

theorem offsSame_setQuality {q : Nat} (h : OffsSame s t) : OffsSame s (t.setQuality q) := by
  unfold State.setQuality
  extract_lets s1 s2 s3
  have h1 : OffsSame s s1 := offsSame_time h (time_setF ..)
  have h2 : OffsSame s s2 := offsSame_timeMod h1 rfl rfl
  have h3 : OffsSame s s3 := offsSame_ite (offsSame_time h2 (time_setF ..)) h2
  exact offsSame_ite (offsSame_time h rfl) (offsSame_time h3 ((time_raiseEv ..).trans (time_errEst _)))

theorem offsSame_ownQuality {q : Nat} (h : OffsSame s t) : OffsSame s (t.ownQuality q) :=
  offsSame_ite (offsSame_time h rfl) (offsSame_setQuality h)

theorem offsSame_toHoldover (h : OffsSame s t) : OffsSame s t.toHoldover := offsSame_ite (offsSame_ownQuality h) h

theorem offsSame_selectSrc {c : Nat} (h : OffsSame s t) : OffsSame s (t.selectSrc c) := by
  unfold State.selectSrc
  extract_lets s1
  have h0 : OffsSame s ((t.setF timeSrc c).timeMod (fun x => { x with lockN := 0 })) := offsSame_timeMod (offsSame_time h (time_setF ..)) rfl rfl
  have h1 : OffsSame s s1 := offsSame_time h0 ((time_raiseEv ..).trans (time_bump ..))
  exact offsSame_ite h (offsSame_ite (offsSame_toHoldover h1) h1)

end

/-- Judging a source keeps the inputs and the number of sources. -/
theorem srcNote_same (s : State) (c : Nat) : InputsSame s (s.srcNote c) ∧ (s.srcNote c).time.offs.length = s.time.offs.length := by
  unfold State.srcNote
  split
  · exact ⟨rfl, List.length_set⟩
  · exact ⟨rfl, List.length_set⟩
  · exact ⟨rfl, rfl⟩

theorem time_ptpSelect (s : State) (pair : Nat) : (s.ptpSelect pair).time = s.time := by
  unfold State.ptpSelect
  extract_lets l
  split
  · exact time_setF ..
  · rfl

theorem judged_same (s : State) : InputsSame s s.judged ∧ s.judged.time.offs.length = s.time.offs.length := by
  have hfold : ∀ (l : List Nat) (u : State), InputsSame u (l.foldl (fun a c => a.srcNote c) u)
      ∧ (l.foldl (fun a c => a.srcNote c) u).time.offs.length = u.time.offs.length := by
    intro l
    induction l with
    | nil => exact fun u => ⟨rfl, rfl⟩
    | cons c l ih =>
      intro u
      obtain ⟨h1, h2⟩ := srcNote_same u c
      obtain ⟨g1, g2⟩ := ih (u.srcNote c)
      exact ⟨Eq.trans g1 h1, g2.trans h2⟩
  have h0 : ((s.ptpSelect 0).ptpSelect 1).time = s.time := (time_ptpSelect _ 1).trans (time_ptpSelect s 0)
  obtain ⟨g1, g2⟩ := hfold [1, 2, 3, 4] ((s.ptpSelect 0).ptpSelect 1)
  exact ⟨Eq.trans g1 (congrArg TimeSt.inputs h0), g2.trans (congrArg (fun t : TimeSt => t.offs.length) h0)⟩

theorem timeEval_same (s : State) : InputsSame s s.timeEval ∧ s.timeEval.time.offs.length = s.time.offs.length := by
  obtain ⟨h1, h2⟩ := judged_same s
  have ho : OffsSame s.judged s.timeEval := by
    have hr := OffsSame.refl s.judged
    exact offsSame_ite (offsSame_selectSrc hr) (offsSame_ite hr (offsSame_selectSrc (offsSame_ite (offsSame_time hr (time_raiseEv ..)) hr)))
  exact ⟨Eq.trans ho.1 h1, (congrArg List.length ho.2).trans h2⟩

theorem ports_of_inputs {s t : State} (h : InputsSame s t) : t.time.ports = s.time.ports := by
  have h' := congrArg TimeSt.ports (show t.time.inputs = s.time.inputs from h)
  exact h'

theorem ports_timeEval (s : State) : s.timeEval.time.ports = s.time.ports := ports_of_inputs (timeEval_same s).1

/-! #### A measured offset -/

theorem offsSame_servo {s t : State} {th : Int} (h : OffsSame s t) : OffsSame s (t.servo th) := by
  unfold State.servo
  extract_lets kp ki up tried acc y clamped s1 was s2
  have h0 : OffsSame s (t.useFree.timeMod (fun x => { x with acc := acc })) := offsSame_timeMod (t := t.useFree) (offsSame_time h (time_useFree ..)) rfl rfl
  have h1 : OffsSame s s1 := offsSame_time h0 (time_wr ..)
  have h2 : OffsSame s s2 := offsSame_time h1 (time_setB ..)
  exact offsSame_ite (offsSame_time h2 (time_raiseEv ..)) h2

theorem time_servoHold (s : State) : s.servoHold.time = s.time := (time_setB ..).trans (time_wr ..)

theorem offsSame_refuseOff {s t : State} {th : Int} (h : OffsSame s t) : OffsSame s (t.refuseOff th) := by
  unfold State.refuseOff
  extract_lets was s1 s2 s3 s4
  have h1 : OffsSame s s1 := offsSame_time h ((time_bump ..).trans ((time_setB ..).trans (time_servoHold t)))
  have h2 : OffsSame s s2 := offsSame_time h1 ((time_wr ..).trans (time_wr ..))
  have h3 : OffsSame s s3 := offsSame_timeMod h2 rfl rfl
  have h4 : OffsSame s s4 := offsSame_ite (offsSame_toHoldover h3) h3
  exact offsSame_ite h4 (offsSame_time h4 (time_raiseEv ..))

theorem offsSame_acceptOff {s t : State} {th : Int} (h : OffsSame s t) : OffsSame s (t.acceptOff th) := by
  unfold State.acceptOff
  extract_lets s1 s2 n s3
  have h1 : OffsSame s s1 := offsSame_time h (time_setB ..)
  have h2 : OffsSame s s2 := offsSame_ite (offsSame_servo h1) (offsSame_time h1 (time_servoHold s1))
  have h3 : OffsSame s s3 := offsSame_timeMod h2 rfl rfl
  exact offsSame_ite (offsSame_ownQuality h3) (offsSame_time h3 rfl)

/-- The source's latest offset is the one measured. -/
theorem timeOffset_notes (s : State) (src : Nat) (th : Int) :
    InputsSame s (s.timeOffset src th) ∧ (s.timeOffset src th).time.offs = setAt s.time.offs (src - 1) (some th) := by
  unfold State.timeOffset
  extract_lets s1 s2
  have h2 : OffsSame s1 s2 := offsSame_time (OffsSame.refl s1) (time_wr ..)
  have h : OffsSame s1 (if s.fld timeSrc ≠ src then s1 else if !s.bit timeEver && s.bit (bitAt 0x4040 1) then
      s2.timeMod (fun t => { t with initPend := some (t.initPend.getD th) })
      else if s.offRefused th then s2.refuseOff th else s2.acceptOff th) :=
    offsSame_ite (OffsSame.refl s1) (offsSame_ite (offsSame_timeMod h2 rfl rfl) (offsSame_ite (offsSame_refuseOff h2) (offsSame_acceptOff h2)))
  exact ⟨h.1.trans rfl, h.2⟩

theorem time_ptpShow (s : State) (pair : Nat) : (s.ptpShow pair).time = s.time := (ptpShow_keeps (Keeps.refl _ s) (List.Subset.refl _)).only .time (by decide)

/-! #### Frames of a port -/

/-- The registers of the page of port A or B. -/
def portReg (p a : Nat) : Prop := p < 2 ∧ pageOf a = 0x10 + p

theorem near_rxFrame {q r : Nat → Prop} {s t : State} {p : Nat} (h : Near q r s t) (hq : ∀ a, portReg p a → q a) : Near q r s (t.rxFrame p) := by
  unfold State.rxFrame
  split
  · rename_i hp
    refine near_bumpW h (hq _ ⟨hp, ?_⟩) rfl
    simp only [pageOf_eq, Ctr.shift, Fld.shift, Ctr.SNA_RX_FRAMES]
    omega
  · exact h

theorem near_txFrame {q r : Nat → Prop} {s t : State} {p : Nat} (h : Near q r s t) (hq : ∀ a, portReg p a → q a) : Near q r s (t.txFrame p) := by
  unfold State.txFrame
  split
  · rename_i hp
    refine near_bumpW h (hq _ ⟨hp, ?_⟩) rfl
    simp only [pageOf_eq, Ctr.shift, Fld.shift, Ctr.SNA_TX_FRAMES]
    omega
  · exact h

theorem near_ptpFrames {q r : Nat → Prop} {s : State} {p n : Nat} (hq : ∀ a, portReg p a → q a) : Near q r s (s.ptpFrames p n) :=
  near_ite' (near_foldl (Near.refl _ _ s) fun _ _ _ ha => near_rxFrame ha hq) (Near.refl _ _ s)

theorem ptpFrames_still {s : State} {p n : Nat} (h : 2 ≤ p ∨ s.lineUp p = false) : s.ptpFrames p n = s := by
  unfold State.ptpFrames
  rcases h with h | h
  · have hrx : ∀ u : State, u.rxFrame p = u := fun u => if_neg (by omega)
    have hfold : ∀ (l : List Nat) (u : State), l.foldl (fun a _ => a.rxFrame p) u = u := by
      intro l
      induction l with
      | nil => exact fun _ => rfl
      | cons x l ih => exact fun u => (ih (u.rxFrame p)).trans (hrx u)
    rw [hfold]
    exact ite_self _
  · exact if_neg (by rw [h]; decide)

theorem time_ptpFrames (s : State) (p n : Nat) : (s.ptpFrames p n).time = s.time :=
  (ptpFrames_keeps (T := [.regs]) (Keeps.refl _ s) (List.Subset.refl _)).only .time (by decide)

/-- The registers that judging the sources may write. -/
def timeReg (a : Nat) : Bool :=
  a == 0x40A4 || a == 0x40A8 || a == 0x4048 || a == 0x4070 || a == 0x406C || a == 0x40FC || a == 0x4108 || a == 0x4010 || a == 0x4028
    || pageOf a == 7 || pageOf a == 8

theorem timeReg_of_evReg {a : Nat} (h : evReg 4 a) : timeReg a = true := by
  unfold timeReg
  rcases h with rfl | rfl | rfl | ⟨h1, h2, -⟩ | h
  · rfl
  · rfl
  · rfl
  · have : pageOf a = 7 := by simp only [pageOf_eq]; omega
    rw [this]; simp
  · rw [h]; simp

section
variable {p q : Nat → Prop} {s t : State} (hp : ∀ a, timeReg a = true → p a) (hq : ∀ x, evTbl x → q x)
include hp

theorem near_errEst (h : Near p q s t) : Near p q s t.errEst := near_wr h (hp _ rfl)

include hq

theorem near_timeEv {b : Nat} (h : Near p q s t) : Near p q s (t.raiseEv 4 b) :=
  near_raiseEv h (by decide) (fun _ ha => hp _ (timeReg_of_evReg ha)) hq

theorem near_toHoldover (h : Near p q s t) : Near p q s t.toHoldover := by
  have hset : ∀ k, Near p q s (t.setQuality k) := fun k => by
    unfold State.setQuality
    extract_lets s1 s2 s3
    have h2 : Near p q s s2 := near_timeMod (near_setF h (hp _ rfl))
    have h3 : Near p q s s3 := near_ite' (near_setF h2 (hp _ rfl)) h2
    exact near_ite' (near_errEst hp h) (near_timeEv hp hq (near_errEst hp h3))
  exact near_ite' (near_ite' (near_errEst hp h) (hset 2)) h

theorem near_selectSrc {c : Nat} (h : Near p q s t) : Near p q s (t.selectSrc c) := by
  unfold State.selectSrc
  extract_lets s1
  have h1 : Near p q s s1 := near_timeEv hp hq (near_bump (near_timeMod (near_setF h (hp _ rfl))) (hp _ rfl) (hp _ rfl))
  exact near_ite' h (near_ite' (near_toHoldover hp hq h1) h1)

theorem near_timeEval (h : Near p q s t) : Near p q s t.timeEval := by
  have hsel : ∀ (u : State) pair, pair < 2 → Near p q s u → Near p q s (u.ptpSelect pair) := fun u pair hlt hu => by
    unfold State.ptpSelect
    extract_lets l
    split
    · refine near_setF hu (hp _ ?_)
      rcases (by omega : pair = 0 ∨ pair = 1) with rfl | rfl <;> rfl
    · exact hu
  have hnote : ∀ (u : State) c, Near p q s u → Near p q s (u.srcNote c) := fun u c hu => by
    unfold State.srcNote
    split
    · exact near_timeMod hu
    · exact near_timeMod hu
    · exact hu
  have hj : Near p q s t.judged := near_foldl (hsel _ 1 (by decide) (hsel _ 0 (by decide) h)) fun u c _ hu => hnote u c hu
  exact near_ite' (near_selectSrc hp hq hj) (near_ite' hj (near_selectSrc hp hq (near_ite' (near_timeEv hp hq hj) hj)))

end

/-- Neither the frames of a port nor the judging of the sources changes the settings of the PTP ports. -/
theorem rd_heard {s : State} {p n a : Nat} (ha : timeReg a = false) (hp : pageOf a < 0x10) : (s.ptpFrames p n).timeEval.rd a = s.rd a := by
  have h := near_timeEval (p := fun a => timeReg a = true ∨ portReg p a) (q := fun _ => True) (fun _ h => .inl h) (fun _ _ => trivial)
    (near_ptpFrames (s := s) (n := n) fun _ h => .inr h)
  refine h.regs a (not_or.2 ⟨by rw [ha]; decide, fun hc => ?_⟩)
  have := hc.2
  omega

end Sys2Proof.Machine
end

section
/-! ### PTP, 1PPS and time of day: the inputs -/

namespace Sys2Proof.Machine

/-! #### The ports (R107) -/

theorem modAt_getD {α : Type} (l : List α) (i j : Nat) (f : α → α) (d : α) :
    (modAt l i f).getD j d = if j = i ∧ i < l.length then f (l.getD i d) else l.getD j d := by
  induction l generalizing i j with
  | nil => simp [modAt]
  | cons x l ih =>
    cases i with
    | zero => cases j <;> simp [modAt]
    | succ i => cases j with
      | zero => simp [modAt]
      | succ j => simp only [modAt, List.getD_cons_succ, ih, Nat.add_right_cancel_iff, List.length_cons, Nat.add_lt_add_iff_right]

theorem ptp_of_ports {s t : State} (h : t.time.ports = s.time.ports) (p : Nat) : t.ptp p = s.ptp p := by
  unfold State.ptp
  rw [h]

theorem ptp_ptpMod_same {s : State} {p : Nat} {f : PtpPort → PtpPort} (h : p < s.time.ports.length) : (s.ptpMod p f).ptp p = f (s.ptp p) :=
  (modAt_getD ..).trans (if_pos ⟨rfl, h⟩)

theorem ptp_ptpMod_ne {s : State} {p q : Nat} {f : PtpPort → PtpPort} (h : q ≠ p) : (s.ptpMod p f).ptp q = s.ptp q :=
  (modAt_getD ..).trans (if_neg fun hc => h hc.1)

theorem ptp_ptpState_same {s : State} {p st : Nat} (h : p < s.time.ports.length) : (s.ptpState p st).ptp p = { s.ptp p with st := st } :=
  ptp_ptpMod_same (s := s) (f := fun x => { x with st := st }) h

theorem ptp_ptpState_ne {s : State} {p q st : Nat} (h : q ≠ p) : (s.ptpState p st).ptp q = s.ptp q := ptp_ptpMod_ne (s := s) h

theorem ports_length_ptpState (s : State) (p st : Nat) : (s.ptpState p st).time.ports.length = s.time.ports.length := modAt_length ..

theorem ports_length_ptpMod (s : State) (p : Nat) (f : PtpPort → PtpPort) : (s.ptpMod p f).time.ports.length = s.time.ports.length := modAt_length ..

/-- The state that deciding gives a port of the pair. -/
theorem ptp_ptpDecide {s : State} {p : Nat} (h : p < s.time.ports.length) : (s.ptpDecide (ptpPair p)).ptp p
    = { s.ptp p with st := if (s.ptp p).ann.isNone then (s.ptp p).st else s.bmca p s.clockClass } := by
  have hp : p = 2 * ptpPair p ∨ p = 2 * ptpPair p + 1 := by
    unfold ptpPair
    omega
  obtain ⟨g, hg⟩ : ∃ g : Nat → Nat, g = fun p => if (s.ptp p).ann.isNone then (s.ptp p).st else s.bmca p s.clockClass := ⟨_, rfl⟩
  have hu : s.ptpDecide (ptpPair p) = (((s.ptpState (2 * ptpPair p) (g (2 * ptpPair p))).ptpState (2 * ptpPair p + 1)
      (g (2 * ptpPair p + 1))).timeEval).ptpShow (ptpPair p) := by
    rw [hg]
    rfl
  rw [hu, ptp_of_ports ((congrArg TimeSt.ports (time_ptpShow _ _)).trans (ports_timeEval _)),
    show (if (s.ptp p).ann.isNone then (s.ptp p).st else s.bmca p s.clockClass) = g p by rw [hg]]
  rcases hp with hp | hp
  · rw [ptp_ptpState_ne (by omega), ← hp, ptp_ptpState_same h]
  · rw [← hp, ptp_ptpState_same ((ports_length_ptpState ..).symm ▸ h), ptp_ptpState_ne (by omega)]

theorem ptpHears_lt {s : State} {p d : Nat} (h : s.ptpHears p d = true) : p < 4 := by
  unfold State.ptpHears at h
  simp only [Bool.and_eq_true, decide_eq_true_eq] at h
  exact h.1.2

/-! #### Received messages -/

theorem ptp_deaf {s : State} {p d : Nat} (m rx t1 t2 t3 t4 : Int) (c : Nat) (lo hi : Word) (b : PtpData) (h : s.ptpHears p d = false) :
    exec (.ptpSyncRx p d m rx) s = .next (s.ptpFrames p 2) ∧ exec (.ptpPdelayExchange p d t1 t2 t3 t4) s = .next (s.ptpFrames p 2)
      ∧ exec (.ptpAnnounceRx p d c lo hi b) s = .next (s.ptpFrames p 1) :=
  ⟨next_congr (if_pos (by rw [h]; rfl)), next_congr (if_pos (by rw [h]; rfl)), next_congr (if_pos (by rw [h]; rfl))⟩

theorem ptpSync_notes {s : State} {p d : Nat} {m rx : Int} (h : s.ptpHears p d = true) (h4 : s.time.ports.length = 4) (ho : s.time.offs.length = 4) :
    runs (.ptpSyncRx p d m rx) s (fun t =>
      let u := ((s.ptpFrames p 2).timeEval.ptpMod p (fun x => { x with lastSync := some s.ownFno })).timeEval
      (t.ptp p).lastSync = some s.ownFno ∧ (t.ptp p).st = (s.ptp p).st
        ∧ (u.ptpValid p = true → u.fld (ptpSel (ptpPair p)) = p % 2 →
            t.time.offs.getD (ptpPair p) none = some (m + s.portPdelay p + s.portAsym p - (rx - s.latIn p)))
        ∧ s.onlyIn t [.regs, .tbl, .items, .icu, .evr, .time, .free]) := by
  have hp := ptpHears_lt h
  obtain ⟨v, hv⟩ : ∃ v, v = (s.ptpFrames p 2).timeEval := ⟨_, rfl⟩
  obtain ⟨u, hu⟩ : ∃ u, u = (v.ptpMod p (fun x => { x with lastSync := some s.ownFno })).timeEval := ⟨_, rfl⟩
  obtain ⟨hv1, hv2⟩ := timeEval_same (s.ptpFrames p 2)
  rw [← hv] at hv1 hv2
  rw [time_ptpFrames] at hv2
  have hvp : v.time.ports = s.time.ports := (ports_of_inputs hv1).trans (congrArg TimeSt.ports (time_ptpFrames s p 2))
  have hup : u.ptp p = { s.ptp p with lastSync := some s.ownFno } := by
    rw [hu, ptp_of_ports (ports_timeEval _), ptp_ptpMod_same (by rw [hvp, h4]; exact hp), ptp_of_ports hvp]
  have hul : u.time.offs.length = 4 := by
    rw [hu, (timeEval_same _).2]
    exact (show (v.ptpMod p _).time.offs.length = v.time.offs.length from rfl).trans (hv2.trans ho)
  have he : exec (.ptpSyncRx p d m rx) s = .next (if u.ptpValid p && u.fld (ptpSel (ptpPair p)) == p % 2 then
      (u.timeOffset (ptpPair p + 1) (m + s.portPdelay p + s.portAsym p - (rx - s.latIn p))).ptpShow (ptpPair p) else u) := by
    rw [hu, hv]
    exact next_congr (if_neg (by rw [h]; decide))
  have hoff := timeOffset_notes u (ptpPair p + 1) (m + s.portPdelay p + s.portAsym p - (rx - s.latIn p))
  refine runs_intro he ?_
  intro u'
  have hu' : u' = u := by rw [hu, hv]
  have hports : (if u.ptpValid p && u.fld (ptpSel (ptpPair p)) == p % 2 then
      (u.timeOffset (ptpPair p + 1) (m + s.portPdelay p + s.portAsym p - (rx - s.latIn p))).ptpShow (ptpPair p) else u).ptp p = u.ptp p := by
    split
    · exact ptp_of_ports ((congrArg TimeSt.ports (time_ptpShow _ _)).trans (ports_of_inputs hoff.1)) p
    · rfl
  refine ⟨?_, ?_, fun h1 h2 => ?_, onlyIn_exec he (List.Subset.refl _)⟩
  · rw [hports, hup]
  · rw [hports, hup]
  · rw [hu'] at h1 h2
    rw [if_pos (by rw [h1, h2]; simp), time_ptpShow, hoff.2]
    unfold setAt
    have hpair : ptpPair p < u.time.offs.length := by
      rw [hul]
      unfold ptpPair
      omega
    simp [hpair]

theorem ptpPdelay_shows {s : State} {p d : Nat} {t1 t2 t3 t4 : Int} (h : s.ptpHears p d = true) (htx : s.txOn p = true) :
    runs (.ptpPdelayExchange p d t1 t2 t3 t4) s (fun t =>
      t.rd (0x40E0 + 4 * p) = ofInt (max 0 (Int.fdiv (((t4 - s.latIn p) - (t1 + s.latOut p)) - (t3 - t2)) 2))
        ∧ s.regsBut t (fun a => a = 0x40E0 + 4 * p ∨ (p < 2 ∧ pageOf a = 0x10 + p)) ∧ s.onlyIn t [.regs, .snet]) := by
  obtain ⟨w, hw⟩ : ∃ w, w = ofInt (max 0 (Int.fdiv (((t4 - s.latIn p) - (t1 + s.latOut p)) - (t3 - t2)) 2)) := ⟨_, rfl⟩
  have he : exec (.ptpPdelayExchange p d t1 t2 t3 t4) s = .next ((((s.ptpFrames p 2).txFrame p).prpSkip p).wr (0x40E0 + 4 * p) w) := by
    rw [hw]
    exact next_congr (if_neg (by rw [h, htx]; decide))
  rw [← hw]
  have hn : Near (fun a => a = 0x40E0 + 4 * p ∨ portReg p a) (fun _ => False) s (((s.ptpFrames p 2).txFrame p).prpSkip p) := by
    have h1 := near_txFrame (p := p) (near_ptpFrames (s := s) (p := p) (n := 2) (q := fun a => a = 0x40E0 + 4 * p ∨ portReg p a) (r := fun _ => False)
      fun _ h => .inr h) (fun _ h => .inr h)
    unfold State.prpSkip State.prpStep
    exact near_ite' (near_same h1 rfl rfl) h1
  exact runs_intro he ⟨rd_wr_self, (near_wr hn (.inl rfl)).regs, onlyIn_exec he (List.Subset.refl _)⟩

theorem ptpAnnounce_unused {s : State} {p d c : Nat} {lo hi : Word} {b : PtpData} (h : b.qual = false ∨ 255 ≤ b.steps) :
    exec (.ptpAnnounceRx p d c lo hi b) s = .next (s.ptpFrames p 1) := by
  refine next_congr (if_pos ?_)
  rcases h with h | h
  · simp [h]
  · simp [h]

theorem bmca_slaveOnly {u : State} {p cls : Nat} {a : PtpAnn} (hr : u.ptpRole p = 1) (ha : (u.ptp p).ann = some a)
    (ho : (u.ptp (2 * ptpPair p + (1 - p % 2))).ann = none) : u.bmca p cls = if a.cal then 9 else 8 := by
  unfold State.bmca
  extract_lets role own mine other
  have hm : mine = some a := ha
  have ho' : other = none := ho
  have hrole : role = 1 := hr
  rw [hm, ho', hrole]
  cases hc : a.cal <;> simp [hc]

theorem bmca_masterOnly {u : State} {p cls : Nat} {a : PtpAnn} (hr : u.ptpRole p = 3) (ha : (u.ptp p).ann = some a) :
    u.bmca p cls = if (u.ptpOwn (ptpPair p) cls).better a then 6 else 7 := by
  unfold State.bmca
  extract_lets role own mine other
  have hm : mine = some a := ha
  have hrole : role = 3 := hr
  rw [hm, hrole]
  cases hb : own.better a <;> simp [own] at hb ⊢ <;> simp [hb]

theorem ptpAnnounce_decides {s : State} {p d c : Nat} {lo hi : Word} {b : PtpData} (h : s.ptpHears p d = true) (hq : b.qual = true)
    (hs : b.steps < 255) (h4 : s.time.ports.length = 4) :
    runs (.ptpAnnounceRx p d c lo hi b) s (fun t =>
      let a := annOf c lo hi b
      let u := (s.ptpFrames p 1).timeEval.ptpMod p (fun x => { x with lastAnn := some s.ownFno, ann := some a })
      (t.ptp p).ann = some a ∧ (t.ptp p).lastAnn = some s.ownFno ∧ (t.ptp p).st = u.bmca p u.clockClass
        ∧ (s.ptpRole p = 1 → (s.ptp (2 * ptpPair p + (1 - p % 2))).ann = none → (t.ptp p).st = if a.cal then 9 else 8)
        ∧ (s.ptpRole p = 3 → (t.ptp p).st = if (u.ptpOwn (ptpPair p) u.clockClass).better a then 6 else 7)) := by
  have hp := ptpHears_lt h
  obtain ⟨v, hv⟩ : ∃ v, v = (s.ptpFrames p 1).timeEval := ⟨_, rfl⟩
  have hvp : v.time.ports = s.time.ports := by
    rw [hv, ports_timeEval]
    exact congrArg TimeSt.ports (time_ptpFrames s p 1)
  have hrole : v.ptpRole p = s.ptpRole p := by
    rw [hv]
    refine fld_of_rd (f := ⟨0x4094 + 8 * ptpPair p, 0, 2⟩) (rd_heard ?_ ?_)
    · rcases (by unfold ptpPair; omega : ptpPair p = 0 ∨ ptpPair p = 1) with h | h <;> rw [h] <;> rfl
    · unfold ptpPair
      simp only [pageOf_eq]
      omega
  obtain ⟨a, ha⟩ : ∃ a, a = annOf c lo hi b := ⟨_, rfl⟩
  obtain ⟨u, hu⟩ : ∃ u, u = v.ptpMod p (fun x => { x with lastAnn := some s.ownFno, ann := some a }) := ⟨_, rfl⟩
  have he : exec (.ptpAnnounceRx p d c lo hi b) s = .next (u.ptpDecide (ptpPair p)) := by
    rw [hu, hv, ha]
    exact next_congr (if_neg (by rw [h, hq]; simp; omega))
  have hlen : p < v.time.ports.length := by rw [hvp, h4]; exact hp
  have hup : u.ptp p = { v.ptp p with lastAnn := some s.ownFno, ann := some a } := by rw [hu]; exact ptp_ptpMod_same hlen
  have hul : p < u.time.ports.length := by rw [hu, ports_length_ptpMod]; exact hlen
  have hann : (u.ptp p).ann = some a := by rw [hup]
  have hdec : (u.ptpDecide (ptpPair p)).ptp p = { u.ptp p with st := u.bmca p u.clockClass } :=
    (ptp_ptpDecide hul).trans (by rw [if_neg (by rw [hann]; exact Bool.false_ne_true)])
  have hur : u.ptpRole p = s.ptpRole p := by
    rw [← hrole, hu]
    rfl
  refine runs_intro he ?_
  intro a' u'
  have ha' : a' = a := ha.symm
  have hu' : u' = u := by rw [hu, hv, ha]
  rw [ha', hu']
  refine ⟨?_, ?_, ?_, fun hr ho => ?_, fun hr => ?_⟩
  · rw [hdec]
    exact hann
  · rw [hdec, hup]
  · rw [hdec]
  · rw [hdec]
    refine bmca_slaveOnly (hur.trans hr) hann ?_
    rw [hu, ptp_ptpMod_ne (by unfold ptpPair; omega), ptp_of_ports hvp]
    exact ho
  · rw [hdec]
    exact bmca_masterOnly (hur.trans hr) hann

/-! #### The announce receipt timeout (R107) -/

theorem announceTimeout_falls {s : State} {p f : Nat} (hf : (s.ptp p).lastAnn = some f) (hr : s.ptpRole p ≠ 0)
    (hi : intervals16 (s.fld ⟨0x4098 + 8 * ptpPair p, 24, 8⟩) (s.ptpLog p 8) ≤ s.ownSince f * 16) :
    runs (.announceReceiptTimeout p) s (fun t => (t.ptp p).st = (if s.ptpRole p = 1 then 4 else 6) ∧ (t.ptp p).lastAnn = none
      ∧ (t.ptp p).ann = none) := by
  have hlen : p < s.time.ports.length := by
    by_contra hc
    unfold State.ptp at hf
    rw [List.getD_eq_default _ _ (Nat.not_lt.1 hc)] at hf
    exact absurd hf (fun h => nomatch h)
  obtain ⟨v, hv⟩ : ∃ v, v = s.timeEval.ptpMod p (fun x => { x with lastAnn := none, ann := none }) := ⟨_, rfl⟩
  obtain ⟨u, hu⟩ : ∃ u, u = v.ptpState p (if s.ptpRole p = 1 then 4 else 6) := ⟨_, rfl⟩
  have he : exec (.announceReceiptTimeout p) s = .next (u.ptpDecide (ptpPair p)) := by
    rw [hu, hv]
    refine next_congr ?_
    rw [hf]
    exact if_pos ⟨hi, hr⟩
  have hlen' : p < s.timeEval.time.ports.length := by rw [ports_timeEval]; exact hlen
  have hvp : v.ptp p = { s.timeEval.ptp p with lastAnn := none, ann := none } := by rw [hv]; exact ptp_ptpMod_same hlen'
  have hvl : p < v.time.ports.length := by rw [hv, ports_length_ptpMod]; exact hlen'
  have hup : u.ptp p = { v.ptp p with st := if s.ptpRole p = 1 then 4 else 6 } := by rw [hu]; exact ptp_ptpState_same hvl
  have hul : p < u.time.ports.length := by rw [hu, ports_length_ptpState]; exact hvl
  have hann : (u.ptp p).ann = none := by rw [hup, hvp]
  have hdec : (u.ptpDecide (ptpPair p)).ptp p = { u.ptp p with st := (u.ptp p).st } :=
    (ptp_ptpDecide hul).trans (by rw [if_pos (by rw [hann]; rfl)])
  refine runs_intro he ⟨?_, ?_, ?_⟩
  · rw [hdec, hup]
  · rw [hdec, hup, hvp]
  · rw [hdec]
    exact hann

theorem announceTimeout_none {s : State} {p : Nat} (h : (s.ptp p).lastAnn = none ∨ s.ptpRole p = 0 ∨ ∃ f, (s.ptp p).lastAnn = some f
      ∧ s.ownSince f * 16 < intervals16 (s.fld ⟨0x4098 + 8 * ptpPair p, 24, 8⟩) (s.ptpLog p 8)) :
    exec (.announceReceiptTimeout p) s = .next s := by
  refine next_congr ?_
  cases hf : (s.ptp p).lastAnn with
  | none => rfl
  | some f =>
    refine if_neg fun hc => ?_
    rcases h with h | h | ⟨f', h1, h2⟩
    · rw [hf] at h
      exact absurd h (fun h => nomatch h)
    · exact hc.2 h
    · rw [hf] at h1
      cases h1
      omega

/-! #### What a master port sends (R107, R110) -/

/-- The sequence number of the redundancy trailer that a frame of a port carries, and the one that comes next. -/
def State.prpOf (s : State) (p : Nat) : Option Nat := if p < 2 then some s.snet.prpSeq else none

theorem near_prpNext {q r : Nat → Prop} {s t : State} {p : Nat} {m : Option Nat → OutMsg} (h : Near q r s t) : Near q r s (t.prpNext p m) :=
  near_ite' (near_same h rfl rfl) (near_same h rfl rfl)

theorem sent_txFrame (s : State) (p : Nat) : (s.txFrame p).sent = s.sent ∧ (s.txFrame p).snet = s.snet := by
  unfold State.txFrame
  split
  · exact ⟨sent_bump .., snet_bump ..⟩
  · exact ⟨rfl, rfl⟩

theorem prpNext_sends (s : State) (p : Nat) (m : Option Nat → OutMsg) : (s.prpNext p m).sent = s.sent ++ [m (s.prpOf p)]
    ∧ (s.prpNext p m).snet = { s.snet with prpSeq := if p < 2 then (s.snet.prpSeq + 1) % 65536 else s.snet.prpSeq } := by
  unfold State.prpNext State.prpOf
  by_cases hp : p < 2
  · simp only [if_pos hp]
    exact ⟨rfl, rfl⟩
  · simp only [if_neg hp]
    exact ⟨rfl, rfl⟩

theorem ptpSyncTx_sends {s : State} {p : Nat} (h : s.ptpMaster p = true) :
    runs (.ptpSyncTx p) s (fun t => t.sent = s.sent ++ [.ptpSync p (s.prpOf p)]
      ∧ t.snet = { s.snet with prpSeq := if p < 2 then ((s.snet.prpSeq + 1) % 65536 + 1) % 65536 else s.snet.prpSeq }
      ∧ s.regsBut t (fun a => p < 2 ∧ pageOf a = 0x10 + p) ∧ s.onlyIn t [.regs, .snet, .sent]) := by
  obtain ⟨u, hu⟩ : ∃ u, u = (s.txFrame p).txFrame p := ⟨_, rfl⟩
  have he : exec (.ptpSyncTx p) s = .next ((u.prpNext p (fun p' => .ptpSync p p')).prpSkip p) := by
    rw [hu]
    exact next_congr (if_pos h)
  have hus : u.sent = s.sent ∧ u.snet = s.snet := by
    rw [hu]
    exact ⟨(sent_txFrame _ p).1.trans (sent_txFrame s p).1, (sent_txFrame _ p).2.trans (sent_txFrame s p).2⟩
  have hun : Near (portReg p) (fun _ => False) s u := by
    rw [hu]
    exact near_txFrame (near_txFrame (Near.refl _ _ s) fun _ h => h) fun _ h => h
  obtain ⟨h1, h2⟩ := prpNext_sends u p (fun p' => .ptpSync p p')
  have hprp : u.prpOf p = s.prpOf p := by
    unfold State.prpOf
    rw [hus.2]
  rw [hus.1, hprp] at h1
  rw [hus.2] at h2
  refine runs_intro he ⟨?_, ?_, ?_, onlyIn_exec he (List.Subset.refl _)⟩
  · unfold State.prpSkip State.prpStep
    split
    · exact h1
    · exact h1
  · unfold State.prpSkip State.prpStep
    by_cases hp : p < 2
    · rw [if_pos hp, if_pos hp]
      dsimp only
      rw [h2, if_pos hp]
    · rw [if_neg hp, if_neg hp, h2, if_neg hp]
  · have hn := near_prpNext (m := fun p' => .ptpSync p p') (p := p) hun
    unfold State.prpSkip State.prpStep
    have hend : Near (portReg p) (fun _ => False) s (if p < 2 then
        { u.prpNext p (fun p' => .ptpSync p p') with snet := { (u.prpNext p (fun p' => .ptpSync p p')).snet with
          prpSeq := ((u.prpNext p (fun p' => .ptpSync p p')).snet.prpSeq + 1) % 65536 } } else u.prpNext p (fun p' => .ptpSync p p')) :=
      near_ite' (near_same hn rfl rfl) hn
    exact hend.regs

theorem ptpAnnounceTx_sends {s : State} {p : Nat} (h : s.ptpMaster p = true) :
    runs (.ptpAnnounceTx p) s (fun t => t.sent = s.sent ++ [.ptpAnnounce p s.clockClass (s.fld ⟨0x40B4, 24, 8⟩)
        (s.fld ⟨0x408C, 0, 16⟩) (timeSourceCode (s.fld timeSrc)) (s.prpOf p)]
      ∧ t.snet = { s.snet with prpSeq := if p < 2 then (s.snet.prpSeq + 1) % 65536 else s.snet.prpSeq }
      ∧ s.regsBut t (fun a => p < 2 ∧ pageOf a = 0x10 + p) ∧ s.onlyIn t [.regs, .snet, .sent]) := by
  obtain ⟨m, hm⟩ : ∃ m : Option Nat → OutMsg, m = fun x => .ptpAnnounce p s.clockClass (s.fld ⟨0x40B4, 24, 8⟩)
      (s.fld ⟨0x408C, 0, 16⟩) (timeSourceCode (s.fld timeSrc)) x := ⟨_, rfl⟩
  have he : exec (.ptpAnnounceTx p) s = .next ((s.txFrame p).prpNext p m) := by
    rw [hm]
    exact next_congr (if_pos h)
  obtain ⟨h1, h2⟩ := prpNext_sends (s.txFrame p) p m
  have hprp : (s.txFrame p).prpOf p = s.prpOf p := by
    unfold State.prpOf
    rw [(sent_txFrame s p).2]
  rw [(sent_txFrame s p).1, hprp, hm] at h1
  rw [(sent_txFrame s p).2] at h2
  have hn : Near (portReg p) (fun _ => False) s ((s.txFrame p).prpNext p m) := near_prpNext (near_txFrame (Near.refl _ _ s) fun _ h => h)
  rw [hm] at he h2 hn
  exact runs_intro he ⟨h1, h2, hn.regs, onlyIn_exec he (List.Subset.refl _)⟩

/-! #### 1PPS and time of day (R104, R111) -/

theorem ppsEdge_counts (s : State) (e : Int) : runs (.ppsEdge e) s (fun t => t.time.ppsAt = some e ∧ t.time.ppsFno = s.ownFno ∧ t.time.todFresh = false
    ∧ (∀ p, s.time.ppsAt = some p → (e - p - 1000000000).natAbs ≤ 10000 → s.time.todFresh = true → t.time.ppsGood = s.time.ppsGood + 1)
    ∧ (s.time.ppsAt = none ∨ s.time.todFresh = false
        ∨ (∃ p, s.time.ppsAt = some p ∧ 10000 < (e - p - 1000000000).natAbs) → t.time.ppsGood = 0)) := by
  obtain ⟨good, hgood⟩ : ∃ good, good = (match s.time.ppsAt with
      | none => false
      | some p => decide ((e - p - 1000000000).natAbs ≤ 10000) && s.time.todFresh) := ⟨_, rfl⟩
  obtain ⟨w, hw⟩ : ∃ w, w = s.timeEval.timeMod (fun t => { t with
      ppsAt := some e, ppsFno := s.ownFno, todFresh := false, ppsGood := if good then t.ppsGood + 1 else 0 }) := ⟨_, rfl⟩
  obtain ⟨t, ht, hsame⟩ : ∃ t, exec (.ppsEdge e) s = .next t ∧ InputsSame w t := by
    have h1 : InputsSame w w.timeEval := (timeEval_same w).1
    have he : exec (.ppsEdge e) s = .next (match w.timeEval.edgeSec with
        | none => w.timeEval
        | some sec => if w.timeEval.srcOk 3 then
            w.timeEval.timeOffset 3 (sec * 1000000000 - (e + signed 16 (s.fld ⟨0x4090, 0, 16⟩))) else w.timeEval) := by
      rw [hw, hgood]
      rfl
    refine ⟨_, he, ?_⟩
    split
    · exact h1
    · split
      · exact Eq.trans (timeOffset_notes ..).1 h1
      · exact h1
  have hpps : t.time.inputs = w.time.inputs := hsame
  have hprev : s.timeEval.time.ppsGood = s.time.ppsGood := by
    have h := congrArg TimeSt.ppsGood (show s.timeEval.time.inputs = s.time.inputs from (timeEval_same s).1)
    exact h
  have hcount : t.time.ppsGood = if good then s.time.ppsGood + 1 else 0 := by
    have h := congrArg TimeSt.ppsGood hpps
    rw [← hprev]
    exact h.trans (by rw [hw]; rfl)
  refine runs_intro ht ⟨?_, ?_, ?_, fun p hp hn hf => ?_, fun h => ?_⟩
  · exact (congrArg TimeSt.ppsAt hpps).trans (by rw [hw]; rfl)
  · exact (congrArg TimeSt.ppsFno hpps).trans (by rw [hw]; rfl)
  · exact (congrArg TimeSt.todFresh hpps).trans (by rw [hw]; rfl)
  · rw [hcount, hgood, hp, hf]
    simp [hn]
  · rw [hcount, hgood]
    rcases h with h | h | ⟨p, hp, hlt⟩
    · rw [h]
      rfl
    · rw [h]
      cases s.time.ppsAt <;> simp
    · rw [hp]
      simp [Nat.not_le.2 hlt]

/-! #### Accepted and refused offsets (R113, R115) -/

theorem offRefused_far {s : State} {th : Int} (he : s.bit timeEver = true) (h : (s.rd 0x4050).toNat < th.natAbs) : s.offRefused th = true := by
  unfold State.offRefused
  rw [if_pos he]
  exact decide_eq_true h

theorem offRefused_near {s : State} {th : Int} (he : s.bit timeEver = true) (h : th.natAbs ≤ (s.rd 0x4050).toNat) : s.offRefused th = false := by
  unfold State.offRefused
  rw [if_pos he]
  exact decide_eq_false (by omega)

/-- A word of the TIME page apart from those that a change of quality writes. -/
theorem rd_toHoldover {s : State} {a : Nat} (h : timeReg a = false) : s.toHoldover.rd a = s.rd a :=
  (near_toHoldover (p := (timeReg · = true)) (q := fun _ => True) (fun _ h => h) (fun _ _ => trivial) (Near.refl _ _ s)).regs a (by rw [h]; decide)

theorem refuseOff_shows (s : State) (th : Int) : (s.refuseOff th).bit timeRefused = true ∧ (s.refuseOff th).rd 0x4064 = s.yHold
    ∧ (s.refuseOff th).rd 0x4110 = ofInt (Int.tdiv th 1000000000) ∧ (s.refuseOff th).rd 0x4114 = ofInt (Int.tmod th 1000000000) := by
  unfold State.refuseOff
  extract_lets was s1 s2 s3 s4
  have h1 : s1.bit timeRefused = true ∧ s1.rd 0x4064 = s.yHold := by
    refine ⟨(bit_bump_apart (by decide) (by decide)).trans (bit_setB_self (by decide) rfl), ?_⟩
    exact (rd_bump (by decide) (by decide)).trans ((rd_setB_apart (by decide)).trans ((rd_setB_apart (by decide)).trans rd_wr_self))
  have h2 : s2.bit timeRefused = true ∧ s2.rd 0x4064 = s.yHold ∧ s2.rd 0x4110 = ofInt (Int.tdiv th 1000000000)
      ∧ s2.rd 0x4114 = ofInt (Int.tmod th 1000000000) :=
    ⟨(bit_wr_apart (by decide)).trans ((bit_wr_apart (by decide)).trans h1.1), (rd_wr_apart (by decide)).trans ((rd_wr_apart (by decide)).trans h1.2),
      (rd_wr_apart (by decide)).trans rd_wr_self, rd_wr_self⟩
  have h4 : s4.bit timeRefused = s2.bit timeRefused ∧ ∀ a, timeReg a = false → s4.rd a = s2.rd a := by
    unfold s4
    split
    · refine ⟨?_, fun a ha => (rd_toHoldover ha).trans rfl⟩
      unfold State.bit
      rw [fld_toHoldover rfl (by decide)]
      rfl
    · exact ⟨rfl, fun _ _ => rfl⟩
  obtain ⟨g1, g2, g3, g4⟩ := h2
  have hend : (if was then s4 else s4.raiseEv 4 0).bit timeRefused = s4.bit timeRefused
      ∧ ∀ a, timeReg a = false → (if was then s4 else s4.raiseEv 4 0).rd a = s4.rd a := by
    split
    · exact ⟨rfl, fun _ _ => rfl⟩
    · exact ⟨bit_raiseEv_apart (by decide) (by decide) (by decide) (by decide) (by decide),
        fun a ha => rd_raiseEv _ (by decide) fun hc => by rw [timeReg_of_evReg hc] at ha; cases ha⟩
  exact ⟨hend.1.trans (h4.1.trans g1), (hend.2 _ (by decide)).trans ((h4.2 _ (by decide)).trans g2),
    (hend.2 _ (by decide)).trans ((h4.2 _ (by decide)).trans g3), (hend.2 _ (by decide)).trans ((h4.2 _ (by decide)).trans g4)⟩

theorem yHold_accept (s : State) : (s.setB timeRefused false).yHold = s.yHold := by
  unfold State.yHold
  rw [bit_setB_apart (by decide), rd_setB_apart (by decide), rd_setB_apart (by decide)]

/-- How an accepted offset ends: the quality is judged. -/
theorem acceptOff_ends (s : State) (th : Int) : ∃ u, (u = (s.setB timeRefused false).servo th ∧ s.bit (bitAt 0x4040 0) = true
      ∨ u = (s.setB timeRefused false).servoHold ∧ s.bit (bitAt 0x4040 0) = false)
    ∧ (s.acceptOff th).fld timeRefused = u.fld timeRefused ∧ (s.acceptOff th).rd 0x4064 = u.rd 0x4064 := by
  unfold State.acceptOff
  extract_lets s1 s2 n s3
  refine ⟨s2, ?_, ?_, ?_⟩
  · unfold s2
    cases h : s.bit (bitAt 0x4040 0)
    · exact .inr ⟨if_neg (by decide), rfl⟩
    · exact .inl ⟨if_pos rfl, rfl⟩
  · have hq : s3.fld timeRefused = s2.fld timeRefused := fld_of_regs rfl _
    split
    · unfold State.ownQuality
      split
      · exact (fld_errEst (by decide)).trans hq
      · exact (fld_setQuality rfl (by decide)).trans hq
    · exact (fld_errEst (by decide)).trans hq
  · have hq : s3.rd 0x4064 = s2.rd 0x4064 := rfl
    split
    · unfold State.ownQuality
      split
      · exact (rd_errEst (by decide)).trans hq
      · unfold State.setQuality
        extract_lets q1 q2 q3
        split
        · exact (rd_errEst (by decide)).trans hq
        · have h3 : q3.rd 0x4064 = s2.rd 0x4064 := by
            unfold q3
            split
            · exact (rd_setF_apart (by decide)).trans (rd_setF_apart (by decide))
            · exact rd_setF_apart (by decide)
          exact (rd_raiseEv_apart (by decide) (by decide) (by decide) (by decide) (by decide)).trans ((rd_errEst (by decide)).trans h3)
    · exact (rd_errEst (by decide)).trans hq

theorem servo_limits (s : State) (th : Int) : (s.servo th).fld timeRefused = s.fld timeRefused
    ∧ ∃ y, (s.servo th).rd 0x4064 = ofInt (clampI (-slewLim) slewLim y) := by
  unfold State.servo
  extract_lets kp ki up tried acc y clamped s1 was s2
  have h1 : s1.rd 0x4064 = ofInt (clampI (-slewLim) slewLim y) := rd_wr_self
  have h1' : s1.fld timeRefused = s.fld timeRefused := (fld_wr_apart (by decide)).trans rfl
  have h2 : s2.rd 0x4064 = s1.rd 0x4064 := rd_setB_apart (by decide)
  have h2' : s2.fld timeRefused = s1.fld timeRefused := fld_setB_apart (by decide)
  split
  · exact ⟨(fld_raiseEv_apart (by decide) (by decide) (by decide) (by decide) (by decide)).trans (h2'.trans h1'), y,
      (rd_raiseEv_apart (by decide) (by decide) (by decide) (by decide) (by decide)).trans (h2.trans h1)⟩
  · exact ⟨h2'.trans h1', y, h2.trans h1⟩

theorem sint_ofInt_clamp (y : Int) : -slewLim ≤ sint (ofInt (clampI (-slewLim) slewLim y)) ∧ sint (ofInt (clampI (-slewLim) slewLim y)) ≤ slewLim := by
  have hb : -slewLim ≤ clampI (-slewLim) slewLim y ∧ clampI (-slewLim) slewLim y ≤ slewLim := by
    unfold clampI slewLim
    omega
  obtain ⟨x, hx⟩ : ∃ x, x = clampI (-slewLim) slewLim y := ⟨_, rfl⟩
  rw [← hx] at hb ⊢
  have hs : sint (ofInt x) = x := by
    unfold sint ofInt
    unfold slewLim at hb
    rw [BitVec.toInt_ofInt]
    exact Int.bmod_eq_of_le (by omega) (by omega)
  rw [hs]
  exact hb

theorem offsets_judged (s : State) (th : Int) :
    (s.bit timeEver = true → (s.rd 0x4050).toNat < th.natAbs → s.offRefused th = true)
    ∧ (s.bit timeEver = true → th.natAbs ≤ (s.rd 0x4050).toNat → s.offRefused th = false)
    ∧ ((s.refuseOff th).bit timeRefused = true ∧ (s.refuseOff th).rd 0x4064 = s.yHold
        ∧ (s.refuseOff th).rd 0x4110 = ofInt (Int.tdiv th 1000000000) ∧ (s.refuseOff th).rd 0x4114 = ofInt (Int.tmod th 1000000000))
    ∧ (s.acceptOff th).bit timeRefused = false
    ∧ (s.bit (bitAt 0x4040 0) = true → -slewLim ≤ sint ((s.acceptOff th).rd 0x4064) ∧ sint ((s.acceptOff th).rd 0x4064) ≤ slewLim)
    ∧ (s.bit (bitAt 0x4040 0) = false → (s.acceptOff th).rd 0x4064 = s.yHold) := by
  obtain ⟨u, hu, hr, hy⟩ := acceptOff_ends s th
  have hclear : (s.setB timeRefused false).fld timeRefused = 0 := (fld_setF_self (s := s) (f := timeRefused) (v := 0) (by decide)).trans (Nat.zero_mod _)
  have hhold : (s.setB timeRefused false).servoHold.fld timeRefused = (s.setB timeRefused false).fld timeRefused :=
    (fld_setB_apart (by decide)).trans (fld_wr_apart (by decide))
  refine ⟨offRefused_far, offRefused_near, refuseOff_shows s th, ?_, fun hon => ?_, fun hoff => ?_⟩
  · have h0 : (s.acceptOff th).fld timeRefused = 0 := by
      rw [hr]
      rcases hu with ⟨rfl, -⟩ | ⟨rfl, -⟩
      · exact (servo_limits _ th).1.trans hclear
      · exact hhold.trans hclear
    unfold State.bit
    rw [h0]
    rfl
  · rw [hy]
    rcases hu with ⟨rfl, -⟩ | ⟨-, h⟩
    · obtain ⟨y, hy⟩ := (servo_limits (s.setB timeRefused false) th).2
      rw [hy]
      exact sint_ofInt_clamp y
    · rw [hon] at h
      cases h
  · rw [hy]
    rcases hu with ⟨-, h⟩ | ⟨rfl, -⟩
    · rw [hoff] at h
      cases h
    · exact ((rd_setB_apart (by decide)).trans rd_wr_self).trans (yHold_accept s)

/-- Settles O27: what a port of the timebase takes and sends, the edges and sentences, and the offsets. -/
theorem timeInputsAct : Obligations.TimeInputsAct := by
  unfold Obligations.TimeInputsAct
  refine ⟨fun s => ⟨fun p d m rx t1 t2 t3 t4 c lo hi b => ptp_deaf m rx t1 t2 t3 t4 c lo hi b, fun p n => ptpFrames_still, fun p d m rx => ptpSync_notes,
    fun p d t1 t2 t3 t4 => ptpPdelay_shows, fun p d c lo hi b => ptpAnnounce_decides, fun p d c lo hi b => ptpAnnounce_unused,
    fun p f _ => announceTimeout_falls, fun p => announceTimeout_none, fun p h => ⟨ptpSyncTx_sends h, ptpAnnounceTx_sends h⟩,
    fun p h => ⟨next_congr (if_neg (by rw [h]; decide)), next_congr (if_neg (by rw [h]; decide))⟩, fun utc => ?_, fun utc => rfl, ppsEdge_counts s⟩,
    offsets_judged⟩
  have he : exec (.todSentenceRx utc true) s = .next (s.timeMod (fun t =>
      { t with tod := some utc, todFresh := decide (t.tod = some (utc - 1) ∧ 0 < utc) })) := rfl
  exact runs_intro he ⟨rfl, decide_eq_true_iff, onlyIn_exec he (List.Subset.refl _)⟩

end Sys2Proof.Machine
end

section
/-! ### Launch comparators -/

namespace Sys2Proof.Machine

/-! #### What a launch's action and its outcome leave -/

/-- The registers of the outputs, of the privileged channels, and those of the interrupt controller and the recorder. -/
def hiReg (a : Nat) : Prop := 0x1C000 ≤ a ∨ pageOf a = 7 ∨ pageOf a = 8

/-- The same without the outputs. -/
def farReg (a : Nat) : Prop := 0x26000 ≤ a ∨ pageOf a = 7 ∨ pageOf a = 8

theorem hiReg_of_farReg {a : Nat} (h : farReg a) : hiReg a := h.imp_left (by omega)

theorem farReg_of_evReg {a : Nat} (h : evReg 0x26 a) : farReg a := by
  unfold evReg at h
  unfold farReg
  simp only [addrOf_eq, pageOf_eq] at h ⊢
  omega

theorem farReg_of_icuReg {a : Nat} (h : icuReg a) : farReg a := by
  unfold icuReg at h
  unfold farReg
  simp only [pageOf_eq]
  omega

/-- The request log lies in a table above the source table. -/
theorem srcSame_log {s t : State} {j i w : Nat} {v : Word} (h : SrcSame j s t) (hj : j < 2 ^ 24) : SrcSame j s (t.twr 0x2601 i w v) :=
  (trd_twr_ne _ _ _ _ _ _ _ _ (by unfold tkey; omega)).trans h

theorem near_privFired (s : State) (n : Nat) (late missed : Bool) (b : LateBy) (t : Nat × Nat) :
    Near farReg (fun _ => True) s (s.privFired n late missed b t) := by
  have hend : ∀ {u : State} (r : PrivReq) (o : Nat), Near farReg (fun _ => True) s u → Near farReg (fun _ => True) s (u.privEnd r o) := fun {u} r o hu => by
    unfold State.privEnd State.chShow
    extract_lets s1 s2 s3
    have hst : ∀ lo w, farReg (chStat r.ch lo w).addr := fun lo w => .inl (by simp only [chStat]; omega)
    have h1 : Near farReg (fun _ => True) s s1 := near_same hu rfl rfl
    have h3 : Near farReg (fun _ => True) s s3 := near_setF (near_setF (near_ite' (near_tset h1 trivial) h1) (hst _ _)) (hst _ _)
    refine near_ite' (near_bumpW h3 (.inl (by decide)) rfl) (near_ite' (near_raiseEv (near_bump h3 (.inl (by decide)) (.inl (by decide))) (by decide)
      (fun _ => farReg_of_evReg) fun _ _ => trivial) h3)
  unfold State.privFired
  split
  · exact Near.refl _ _ s
  · extract_lets s1 s2
    have h0 := Near.refl farReg (fun _ => True) s
    have h1 : Near farReg (fun _ => True) s s1 := near_ite' (near_raiseEv (near_bump h0 (.inl (by decide)) (.inl (by decide))) (by decide)
      (fun _ => farReg_of_evReg) fun _ _ => trivial) h0
    have h2 : Near farReg (fun _ => True) s s2 := by
      refine near_ite' h1 ?_
      unfold State.logReleased
      exact near_ite' (near_twr (near_twr h1 trivial) trivial) h1
    exact hend _ _ h2

theorem srcSame_privFired {s : State} {j : Nat} (hj : j < 2 ^ 24) (h8 : j ≠ 0x108) (h26 : j ≠ 0x126) (n : Nat) (late missed : Bool) (b : LateBy)
    (t : Nat × Nat) : SrcSame j s (s.privFired n late missed b t) := by
  have hend : ∀ {u : State} (r : PrivReq) (o : Nat), SrcSame j s u → SrcSame j s (u.privEnd r o) := fun {u} r o hu => by
    unfold State.privEnd State.chShow
    extract_lets s1 s2 s3
    have h1 : SrcSame j s s1 := srcSame_tbl hu rfl
    have h3 : SrcSame j s s3 := srcSame_tbl (t := s2) (srcSame_ite (srcSame_log h1 hj) h1) ((tbl_setF ..).trans (tbl_setF ..))
    exact srcSame_ite (srcSame_bump h3) (srcSame_ite (srcSame_raiseEv (srcSame_bump h3) hj h8 h26) h3)
  unfold State.privFired
  split
  · exact rfl
  · extract_lets s1 s2
    have h0 : SrcSame j s s := rfl
    have h1 : SrcSame j s s1 := srcSame_ite (srcSame_raiseEv (srcSame_bump h0) hj h8 h26) h0
    have h2 : SrcSame j s s2 := by
      refine srcSame_ite h1 ?_
      unfold State.logReleased
      exact srcSame_ite (srcSame_log (srcSame_log h1 hj) hj) h1
    exact hend _ _ h2

theorem near_lnchAct (s : State) (a : LnchArm) (off : Nat) : Near hiReg (fun _ => False) s (s.lnchAct a off) := by
  have h0 := Near.refl hiReg (fun _ => False) s
  have hdo : ∀ o on, Near hiReg (fun _ => False) s (s.doLaunch o on) := fun o on => near_setB h0 (.inl (by simp [doCmd]))
  unfold State.lnchAct
  split
  · exact near_ite' h0 (hdo _ _)
  · exact near_ite' h0 (hdo _ _)
  · exact near_ite' h0 (near_setF h0 (.inl (by dsimp only; omega)))
  · exact near_ite' h0 (near_pwmStart (near_setF h0 (.inl (by dsimp only; omega))))
  · split
    · exact h0
    · extract_lets act tgt
      exact near_ite' (near_dioMod (near_setB h0 (.inl (by simp [privTripped])))) (hdo _ _)
  · exact h0

theorem tbl_lnchAct (s : State) (a : LnchArm) (off : Nat) : (s.lnchAct a off).tbl = s.tbl :=
  (lnchAct_keeps (Keeps.refl _ s) (List.Subset.refl _)).only .tbl (by decide)

theorem lnch_lnchAct (s : State) (a : LnchArm) (off : Nat) : (s.lnchAct a off).lnch = s.lnch :=
  (lnchAct_keeps (Keeps.refl _ s) (List.Subset.refl _)).only .lnch (by decide)

theorem lnch_privFired (s : State) (n : Nat) (late missed : Bool) (b : LateBy) (t : Nat × Nat) : (s.privFired n late missed b t).lnch = s.lnch :=
  (privFired_keeps (Keeps.refl _ s) (List.Subset.refl _)).only .lnch (by decide)

/-! #### The end of an arming -/

theorem lnchOf_of_lnch {s t : State} (h : t.lnch = s.lnch) (n : Nat) : t.lnchOf n = s.lnchOf n := by
  unfold State.lnchOf
  rw [h]

theorem lnch_lnchEnd (s : State) (n : Nat) : (s.lnchEnd n).lnch = s.lnch.filter (fun a => a.n != n) := lnch_setB ..

theorem lnchOf_filter_same (l : List LnchArm) (n : Nat) : (l.filter (fun a => a.n != n)).find? (fun a => a.n == n) = none := by
  refine List.find?_eq_none.2 fun a ha => ?_
  have := (List.mem_filter.1 ha).2
  simpa using this

theorem lnchOf_filter_ne (l : List LnchArm) {n k : Nat} (h : k ≠ n) :
    (l.filter (fun a => a.n != n)).find? (fun a => a.n == k) = l.find? (fun a => a.n == k) := by
  rw [List.find?_filter]
  refine congrArg (List.find? · l) (funext fun a => ?_)
  by_cases ha : a.n = k
  · simp [ha, h]
  · simp [ha]

theorem lnchEnd_ends (s : State) (n : Nat) : (s.lnchEnd n).lnchOf n = none ∧ (s.lnchEnd n).bit (lnchStat n 22) = false
    ∧ (∀ k, k ≠ n → (s.lnchEnd n).lnchOf k = s.lnchOf k) ∧ Near (· = lnchReg n 12) (fun _ => False) s (s.lnchEnd n) := by
  refine ⟨?_, bit_setB_self (show 22 < 32 by decide) rfl, fun k hk => ?_, near_setB (near_same (Near.refl _ _ s) rfl rfl) rfl⟩
  · unfold State.lnchOf
    rw [lnch_lnchEnd]
    exact lnchOf_filter_same ..
  · unfold State.lnchOf
    rw [lnch_lnchEnd]
    exact lnchOf_filter_ne _ hk

/-! #### Firing and missing (R121, R122) -/

theorem low_lnchReg {n : Nat} (hn : n < 64) : ¬ hiReg (lnchReg n 12) ∧ lnchReg n 12 ≠ 0x5010 ∧ lnchReg n 12 ≠ 0x5028 ∧ pageOf (lnchReg n 12) = 5 := by
  unfold hiReg lnchReg
  simp only [pageOf_eq]
  omega

theorem bit_raise5 {s : State} {n k b : Nat} (hn : n < 64) : (s.raiseEv 5 b).bit (lnchStat n k) = s.bit (lnchStat n k) := by
  obtain ⟨-, h1, h2, h3⟩ := low_lnchReg hn
  exact bit_raiseEv_apart (by decide) h1 h2 (by rw [show (lnchStat n k).addr = lnchReg n 12 from rfl, h3]; decide)
    (by rw [show (lnchStat n k).addr = lnchReg n 12 from rfl, h3]; decide)

theorem bit_late {s : State} {n k : Nat} {c : Ctr} (h1 : pageOf c.f.addr = 4) (h2 : pageOf c.ovf.1 = 4) (hn : n < 64) :
    (s.bump c).bit (lnchStat n k) = s.bit (lnchStat n k) := by
  have hp := (low_lnchReg hn).2.2.2
  exact bit_bump_apart (fun h => by rw [show (lnchStat n k).addr = lnchReg n 12 from rfl] at h; rw [← h, hp] at h1; exact absurd h1 (by decide))
    (fun h => by rw [show (lnchStat n k).addr = lnchReg n 12 from rfl] at h; rw [← h, hp] at h2; exact absurd h2 (by decide))

theorem bit_stat_apart {s : State} {n i k : Nat} {v : Bool} (h : i ≠ k) : (s.setB (lnchStat n i) v).bit (lnchStat n k) = s.bit (lnchStat n k) :=
  bit_setB_apart (by simp only [lnchStat, bitAt_lo, bitAt_w]; omega)

/-- The state after the action and before the outcome. -/
def State.fired (s : State) (a : LnchArm) (off : Nat) : State := ((s.lnchEnd a.n).setB (lnchStat a.n 23) true).lnchAct a off

section
variable {s : State} {a : LnchArm} {late : Bool} {b : LateBy} {off : Nat} {t : Nat × Nat}

/-- The state after LATE is noted. -/
theorem lnchFire_eq : ∃ u, s.lnchFire a late b off t = (u.privFired a.n late false b t).signal (0x040 + a.n)
    ∧ u = if late then (((s.fired a off).setB (lnchStat a.n 24) true).bump .TIME_LATE).raiseEv 5 0 else s.fired a off := ⟨_, rfl, rfl⟩

variable (hn : a.n < 64)
include hn

/-- The registers that the outcome and the source's signal leave. -/
theorem near_outcome (u : State) : Near farReg (fun _ => True) u ((u.privFired a.n late false b t).signal (0x040 + a.n)) :=
  near_signal (near_privFired u a.n late false b t) (by omega) (fun _ => farReg_of_icuReg) trivial

/-- A register beside those of the comparator, its event, the privileged channels and the controller reads as the action left it. -/
theorem rd_lnchFire {x : Nat} (hx : ¬ farReg x) (h4 : pageOf x ≠ 4) (h5 : pageOf x ≠ 5) : (s.lnchFire a late b off t).rd x = (s.fired a off).rd x := by
  obtain ⟨u, he, hu⟩ := lnchFire_eq (s := s) (late := late) (b := b) (off := off) (t := t)
  have hf : ¬ (pageOf x = 7 ∨ pageOf x = 8) := fun h => hx (.inr h)
  rw [not_or] at hf
  have hne : ∀ {y : Nat}, pageOf y = 4 ∨ pageOf y = 5 → x ≠ y := fun {y} hy h => by
    subst h
    exact hy.elim h4 h5
  rw [he, (near_outcome hn u).regs x hx, hu]
  split
  · exact (rd_raiseEv_apart (by decide) (hne (.inr (by decide))) (hne (.inr (by decide))) hf.1 hf.2).trans
      ((rd_bump (hne (.inl (by decide))) (hne (.inl (by decide)))).trans (rd_setB_apart (hne (.inr (low_lnchReg hn).2.2.2))))
  · rfl

theorem bit_fired {k : Nat} : (s.fired a off).bit (lnchStat a.n k) = ((s.lnchEnd a.n).setB (lnchStat a.n 23) true).bit (lnchStat a.n k) :=
  bit_of_rd (f := lnchStat a.n k) ((near_lnchAct _ a off).regs _ (low_lnchReg hn).1)

/-- What a comparator that has fired shows. -/
theorem lnchFire_shows : (s.lnchFire a late b off t).lnchOf a.n = none ∧ (s.lnchFire a late b off t).bit (lnchStat a.n 22) = false
    ∧ (s.lnchFire a late b off t).bit (lnchStat a.n 23) = true
    ∧ (late = true → (s.lnchFire a late b off t).bit (lnchStat a.n 24) = true ∧ (s.lnchFire a late b off t).bit (bitAt 0x5010 0) = true)
    ∧ (s.srcFld (0x040 + a.n) 31 1 = 1 → (s.lnchFire a late b off t).srcFld (0x040 + a.n) 29 1 = 1) := by
  obtain ⟨u, he, hu⟩ := lnchFire_eq (s := s) (late := late) (b := b) (off := off) (t := t)
  have hout := near_outcome (late := late) (b := b) (t := t) hn u
  have hbit : ∀ k, (s.lnchFire a late b off t).bit (lnchStat a.n k) = u.bit (lnchStat a.n k) := fun k => by
    rw [he]
    exact bit_of_rd (f := lnchStat a.n k) (hout.regs _ (fun h => (low_lnchReg hn).1 (hiReg_of_farReg h)))
  obtain ⟨h1, h2, -, -⟩ := lnchEnd_ends s a.n
  have hf22 : (s.fired a off).bit (lnchStat a.n 22) = false := (bit_fired hn).trans ((bit_stat_apart (by decide)).trans h2)
  have hf23 : (s.fired a off).bit (lnchStat a.n 23) = true := (bit_fired hn).trans (bit_setB_self (show 23 < 32 by decide) rfl)
  have hul : u.lnch = s.lnch.filter (fun x => x.n != a.n) := by
    have hfl : (s.fired a off).lnch = s.lnch.filter (fun x => x.n != a.n) := (lnch_lnchAct ..).trans ((lnch_setB ..).trans (lnch_lnchEnd ..))
    rw [hu]
    split
    · rw [lnch_raiseEv, lnch_bump, lnch_setB]
      exact hfl
    · exact hfl
  refine ⟨?_, (hbit 22).trans ?_, (hbit 23).trans ?_, fun hl => ⟨(hbit 24).trans ?_, ?_⟩, fun hen => ?_⟩
  · rw [he, lnchOf_of_lnch ((lnch_signal ..).trans (lnch_privFired ..))]
    unfold State.lnchOf
    rw [hul]
    exact lnchOf_filter_same ..
  · rw [hu]
    split
    · rw [bit_raise5 hn, bit_late (by decide) (by decide) hn, bit_stat_apart (by decide)]
      exact hf22
    · exact hf22
  · rw [hu]
    split
    · rw [bit_raise5 hn, bit_late (by decide) (by decide) hn, bit_stat_apart (by decide)]
      exact hf23
    · exact hf23
  · rw [hu, if_pos hl, bit_raise5 hn, bit_late (by decide) (by decide) hn]
    exact bit_setB_self (show 24 < 32 by decide) rfl
  · rw [he]
    refine (bit_of_rd (f := bitAt 0x5010 0) (hout.regs 0x5010 (by unfold farReg; decide))).trans ?_
    rw [hu, if_pos hl]
    exact bit_raiseEv_self (by decide) (by decide) (by decide) rfl
  · rw [he]
    refine (signal_shows ((srcFld_of_same (srcSame_privFired (s := u) (j := 0x040 + a.n) (by omega) (by omega) (by omega) ..)).trans (Eq.trans ?_ hen))).1
    have hft : SrcSame (0x040 + a.n) s (s.fired a off) := srcSame_tbl (t := s) rfl ((tbl_lnchAct ..).trans ((tbl_setB ..).trans (tbl_setB ..)))
    have hut : SrcSame (0x040 + a.n) s u := by
      rw [hu]
      exact srcSame_ite (srcSame_raiseEv (srcSame_bump (srcSame_tbl hft (tbl_setB ..))) (by omega) (by omega) (by omega)) hft
    exact srcFld_of_same hut

end

/-- What a comparator that has missed its time shows. -/
theorem lnchLate_misses {s : State} {a : LnchArm} {late off : Nat} {t : Nat × Nat} (ha : a.n < 64) (h0 : late ≠ 0) (h : a.grace * 1000000 < late) :
    (s.lnchLate a late .arming off t).lnchOf a.n = none ∧ (s.lnchLate a late .arming off t).bit (lnchStat a.n 22) = false
      ∧ (s.lnchLate a late .arming off t).bit (lnchStat a.n 25) = true
      ∧ (s.lnchLate a late .arming off t).bit (lnchStat a.n 23) = s.bit (lnchStat a.n 23)
      ∧ (s.lnchLate a late .arming off t).bit (bitAt 0x5010 1) = true := by
  obtain ⟨s1, hs1⟩ : ∃ s1, s1 = s.setF ⟨lnchReg a.n 12, 0, 20⟩ (min (late / 1000) 1048575) := ⟨_, rfl⟩
  obtain ⟨s2, hs2⟩ : ∃ s2, s2 = (((s1.lnchEnd a.n).setB (lnchStat a.n 25) true).bump .TIME_MISSED).raiseEv 5 1 := ⟨_, rfl⟩
  have he : s.lnchLate a late .arming off t = s2.privFired a.n false true .arming t := by
    rw [hs2, hs1]
    unfold State.lnchLate
    extract_lets u1 grace u2
    have hg : grace = a.grace := if_neg (fun hc => nomatch hc.1)
    rw [if_neg h0, if_neg (by rw [hg]; omega)]
  have hout := near_privFired s2 a.n false true .arming t
  have hbit : ∀ k, (s.lnchLate a late .arming off t).bit (lnchStat a.n k) = s2.bit (lnchStat a.n k) := fun k => by
    rw [he]
    exact bit_of_rd (f := lnchStat a.n k) (hout.regs _ (fun h => (low_lnchReg ha).1 (hiReg_of_farReg h)))
  have hb2 : ∀ k, k ≠ 25 → s2.bit (lnchStat a.n k) = (s1.lnchEnd a.n).bit (lnchStat a.n k) := fun k hk => by
    rw [hs2, bit_raise5 ha, bit_late (by decide) (by decide) ha]
    exact bit_stat_apart (fun h => hk h.symm)
  obtain ⟨h1, h2, -, -⟩ := lnchEnd_ends s1 a.n
  refine ⟨?_, (hbit 22).trans ((hb2 22 (by decide)).trans h2), (hbit 25).trans ?_, (hbit 23).trans ((hb2 23 (by decide)).trans ?_), ?_⟩
  · rw [he, lnchOf_of_lnch (lnch_privFired ..), hs2, lnchOf_of_lnch ((lnch_raiseEv ..).trans ((lnch_bump ..).trans (lnch_setB ..)))]
    exact h1
  · rw [hs2, bit_raise5 ha, bit_late (by decide) (by decide) ha]
    exact bit_setB_self (show 25 < 32 by decide) rfl
  · refine (bit_setB_apart (s := { s1 with lnch := s1.lnch.filter (fun x => x.n != a.n) }) (f := lnchStat a.n 22) (g := lnchStat a.n 23)
      (by simp only [lnchStat, bitAt_lo, bitAt_w]; omega)).trans ?_
    rw [hs1]
    refine (bit_of_regs (s := s.setF ⟨lnchReg a.n 12, 0, 20⟩ (min (late / 1000) 1048575)) rfl _).trans ?_
    exact bit_setF_apart (by simp only [lnchStat, bitAt_lo, bitAt_w]; omega)
  · rw [he]
    refine (bit_of_rd (f := bitAt 0x5010 1) (hout.regs 0x5010 (by unfold farReg; decide))).trans ?_
    rw [hs2]
    exact bit_raiseEv_self (by decide) (by decide) (by decide) rfl

/-- A launch within its grace fires, late where its time has passed. -/
theorem lnchLate_fires {s : State} {a : LnchArm} {late off : Nat} {t : Nat × Nat} (h : late ≤ a.grace * 1000000) :
    s.lnchLate a late .arming off t = (s.setF ⟨lnchReg a.n 12, 0, 20⟩ (min (late / 1000) 1048575)).lnchFire a (late != 0) .arming off t := by
  unfold State.lnchLate
  extract_lets s1 grace s2
  have hg : grace = a.grace := if_neg (fun hc => nomatch hc.1)
  by_cases h0 : late = 0
  · rw [if_pos h0, show (late != 0) = false by simp [h0]]
  · rw [if_neg h0, if_pos (by rw [hg]; exact h), show (late != 0) = true by simp [h0]]

/-! #### Arming (R120, R122) -/

/-- What comparator `n` latches when it is armed. -/
def State.latched (s : State) (n : Nat) : LnchArm :=
  { n := n, sec := (s.rd (lnchReg n 0)).toNat, ns := s.fld ⟨lnchReg n 4, 0, 30⟩, grace := s.fld ⟨lnchReg n 8, 22, 10⟩,
    act := s.fld ⟨lnchReg n 8, 16, 4⟩, tgt := s.fld ⟨lnchReg n 8, 8, 8⟩ }

/-- The state in which the comparator is armed, before its time is judged. -/
def State.armed (s : State) (n : Nat) : State :=
  if s.bit (lnchStat n 22) then
    (({ s.wr (lnchReg n 12) (s.rd (lnchReg n 12) &&& 0x08000000#32 ||| 0x00400000#32) with
        lnch := s.latched n :: s.lnch.filter (fun x => x.n != n) } : State).setB (lnchStat n 26) true).raiseEv 5 2
  else { s.wr (lnchReg n 12) (s.rd (lnchReg n 12) &&& 0x08000000#32 ||| 0x00400000#32) with
    lnch := s.latched n :: s.lnch.filter (fun x => x.n != n) }

theorem lnchArm_eq (s : State) (n off : Nat) : s.lnchArm n off =
    if 0 < (s.armed n).ltAhead (s.latched n).sec (s.latched n).ns off then s.armed n
    else (s.armed n).lnchLate (s.latched n) (-(s.armed n).ltAhead (s.latched n).sec (s.latched n).ns off).toNat .arming off ((s.armed n).instant off) := rfl

theorem wbits_bit (w : Word) (k : Nat) : wbits w k 1 = (w.getLsbD k).toNat := by
  refine Nat.eq_of_testBit_eq fun i => ?_
  rw [wbits_testBit]
  cases i with
  | zero => cases w.getLsbD k <;> simp
  | succ i => cases w.getLsbD k <;> simp [Nat.testBit_succ]

theorem armed_shows (s : State) {n : Nat} (hn : n < 64) : (s.armed n).lnchOf n = some (s.latched n) ∧ (s.armed n).bit (lnchStat n 22) = true
    ∧ (s.armed n).bit (lnchStat n 23) = false ∧ (∀ k, k ≠ n → (s.armed n).lnchOf k = s.lnchOf k)
    ∧ (s.bit (lnchStat n 22) = true → (s.armed n).bit (lnchStat n 26) = true) := by
  obtain ⟨w, hw⟩ : ∃ w, w = s.rd (lnchReg n 12) &&& 0x08000000#32 ||| 0x00400000#32 := ⟨_, rfl⟩
  have hw22 : wbits w 22 1 = 1 := by
    rw [hw, wbits_bit]
    simp
  have hw23 : wbits w 23 1 = 0 := by
    rw [hw, wbits_bit]
    simp
  obtain ⟨u, hu⟩ : ∃ u : State, u = { s.wr (lnchReg n 12) w with lnch := s.latched n :: s.lnch.filter (fun x => x.n != n) } := ⟨_, rfl⟩
  have hx : s.armed n = if s.bit (lnchStat n 22) then (u.setB (lnchStat n 26) true).raiseEv 5 2 else u := by
    rw [hu, hw]
    rfl
  have hlnch : (s.armed n).lnch = s.latched n :: s.lnch.filter (fun x => x.n != n) := by
    rw [hx]
    split
    · rw [lnch_raiseEv, lnch_setB, hu]
    · rw [hu]
  have hubit : ∀ k, u.bit (lnchStat n k) = (wbits w k 1 != 0) := fun k => by
    rw [hu]
    refine (bit_of_regs (s := s.wr (lnchReg n 12) w) rfl _).trans ?_
    unfold State.bit State.fld
    rw [show (lnchStat n k).addr = lnchReg n 12 from rfl, rd_wr_self]
    rfl
  have hbit : ∀ k, k ≠ 26 → (s.armed n).bit (lnchStat n k) = (wbits w k 1 != 0) := fun k hk => by
    rw [hx, ← hubit]
    split
    · rw [bit_raise5 hn, bit_stat_apart (fun h => hk h.symm)]
    · rfl
  refine ⟨?_, (hbit 22 (by decide)).trans (by rw [hw22]; rfl), (hbit 23 (by decide)).trans (by rw [hw23]; rfl), fun k hk => ?_, fun h => ?_⟩
  · unfold State.lnchOf
    rw [hlnch]
    exact List.find?_cons_of_pos (by simp [State.latched])
  · unfold State.lnchOf
    rw [hlnch, List.find?_cons_of_neg (by simpa [State.latched] using fun h => hk h.symm)]
    exact lnchOf_filter_ne _ hk
  · rw [hx, if_pos h, bit_raise5 hn]
    exact bit_setB_self (show 26 < 32 by decide) rfl

theorem ltAhead_congr {s t : State} {sec ns off : Nat} (hr : ∀ a, pageOf a = 4 ∨ a = 0x0054 → t.rd a = s.rd a) (ht : t.twin = s.twin) :
    t.ltAhead sec ns off = s.ltAhead sec ns off := by
  have hrun : t.recRun = s.recRun := by
    unfold State.recRun
    rw [fld_of_rd (f := ⟨0x0054, 28, 4⟩) (hr 0x0054 (.inr rfl)), ht]
  have hsec : t.nowSec = s.nowSec := by
    unfold State.nowSec State.ownSec
    rw [hrun, fld_of_rd (f := wordAt 0x4074) (hr 0x4074 (.inl rfl)), fld_of_rd (f := ⟨0x4078, 0, 16⟩) (hr 0x4078 (.inl rfl))]
  have hns : t.nowNs = s.nowNs := by
    unfold State.nowNs State.ownNs
    rw [hrun, fld_of_rd (f := ⟨0x407C, 0, 30⟩) (hr 0x407C (.inl rfl))]
  unfold State.ltAhead
  rw [hsec, hns]

theorem ltAhead_armed (s : State) {n sec ns off : Nat} (hn : n < 64) : (s.armed n).ltAhead sec ns off = s.ltAhead sec ns off := by
  have hp := (low_lnchReg hn).2.2.2
  have hne : ∀ a, pageOf a = 4 ∨ a = 0x0054 → a ≠ lnchReg n 12 := fun a ha h => by
    rw [← h] at hp
    rcases ha with ha | rfl
    · rw [ha] at hp
      exact absurd hp (by decide)
    · exact absurd hp (by decide)
  refine ltAhead_congr (fun a ha => ?_) ?_
  · unfold State.armed
    split
    · refine (rd_raiseEv _ (by decide) ?_).trans ((rd_setB_apart (hne a ha)).trans
        (rd_wr_apart (s := s) (v := s.rd (lnchReg n 12) &&& 0x08000000#32 ||| 0x00400000#32) (hne a ha)))
      unfold evReg
      simp only [addrOf_eq, pageOf_eq] at ha ⊢
      omega
    · exact rd_wr_apart (s := s) (hne a ha)
  · unfold State.armed
    split
    · exact (twin_raiseEv ..).trans ((twin_setB ..).trans rfl)
    · rfl

/-- Arming a comparator: its launch time lies ahead, has been missed, or is due. -/
theorem arm_judged {c : Instr} {s x : State} {n off : Nat} (hn : n < 64) (hc : exec c s = .next (x.lnchArm n off)) (hx : x.regs = s.regs)
    (hl : x.lnch = s.lnch) (ht : x.twin = s.twin) :
    let a := s.latched n
    (0 < s.ltAhead a.sec a.ns off → runs c s (fun t => t.lnchOf n = some a ∧ t.bit (lnchStat n 22) = true ∧ t.bit (lnchStat n 23) = false
        ∧ (∀ k, k ≠ n → t.lnchOf k = s.lnchOf k) ∧ (s.bit (lnchStat n 22) = true → t.bit (lnchStat n 26) = true)))
    ∧ (s.ltAhead a.sec a.ns off < 0 → a.grace * 1000000 < -(s.ltAhead a.sec a.ns off) → runs c s (fun t =>
        t.lnchOf n = none ∧ t.bit (lnchStat n 22) = false ∧ t.bit (lnchStat n 25) = true ∧ t.bit (lnchStat n 23) = false
          ∧ t.bit (bitAt 0x5010 1) = true))
    ∧ (s.ltAhead a.sec a.ns off ≤ 0 → -(s.ltAhead a.sec a.ns off) ≤ a.grace * 1000000 → runs c s (fun t =>
        t.lnchOf n = none ∧ t.bit (lnchStat n 22) = false ∧ t.bit (lnchStat n 23) = true
          ∧ (s.ltAhead a.sec a.ns off < 0 → t.bit (lnchStat n 24) = true ∧ t.bit (bitAt 0x5010 0) = true))) := by
  intro a
  have hrd : ∀ y, x.rd y = s.rd y := fun y => by unfold State.rd; rw [hx]
  have ha : x.latched n = a := by
    unfold a State.latched
    rw [hrd, fld_of_regs hx, fld_of_regs hx, fld_of_regs hx, fld_of_regs hx]
  have hd : (x.armed n).ltAhead a.sec a.ns off = s.ltAhead a.sec a.ns off := (ltAhead_armed x hn).trans (ltAhead_congr (fun y _ => hrd y) ht)
  rw [lnchArm_eq, ha, hd] at hc
  obtain ⟨h1, h2, h3, h4, h5⟩ := armed_shows x hn
  have han : a.n = n := rfl
  refine ⟨fun h => ?_, fun h hg => ?_, fun h hg => ?_⟩
  · rw [if_pos h] at hc
    refine runs_intro hc ⟨h1.trans (congrArg some ha), h2, h3, fun k hk => (h4 k hk).trans (lnchOf_of_lnch hl k), fun hb => h5 ?_⟩
    rw [bit_of_regs hx]
    exact hb
  · rw [if_neg (by omega)] at hc
    obtain ⟨g1, g2, g3, g4, g5⟩ := lnchLate_misses (s := x.armed n) (a := a) (off := off) (t := (x.armed n).instant off)
      (late := (-s.ltAhead a.sec a.ns off).toNat) (by rw [han]; exact hn) (by omega) (by omega)
    exact runs_intro hc ⟨g1, g2, g3, g4.trans h3, g5⟩
  · rw [if_neg (by omega), lnchLate_fires (by omega)] at hc
    obtain ⟨g1, g2, g3, g4, -⟩ := lnchFire_shows (s := (x.armed n).setF ⟨lnchReg a.n 12, 0, 20⟩ (min ((-s.ltAhead a.sec a.ns off).toNat / 1000) 1048575)) (a := a)
      (late := (-s.ltAhead a.sec a.ns off).toNat != 0) (b := .arming) (off := off) (t := (x.armed n).instant off) (by rw [han]; exact hn)
    exact runs_intro hc ⟨g1, g2, g3, fun hlt => g4 (by rw [bne_iff_ne]; omega)⟩

/-! #### LAUNCH_FIRE (R121) -/

/-- The outputs of an action that follows no privileged channel. -/
theorem fired_outputs (s : State) (a : LnchArm) (off : Nat) (hn : a.n < 64) :
    (a.act = 1 → a.tgt < 8 → s.doOwned a.tgt = false → (s.fired a off).bit (doCmd a.tgt) = true)
    ∧ (a.act = 2 → a.tgt < 8 → s.doOwned a.tgt = false → (s.fired a off).bit (doCmd a.tgt) = false)
    ∧ (a.act = 1 ∨ a.act = 2 → s.doOwned a.tgt = true → (s.fired a off).rd 0x1C050 = s.rd 0x1C050)
    ∧ (a.act = 3 → a.tgt < 4 → s.mstate ≠ 6 → (s.fired a off).fld ⟨0x1D068 + 4 * a.tgt, 0, 15⟩ = s.fld ⟨0x1D058 + 4 * a.tgt, 0, 15⟩)
    ∧ (a.act = 4 → a.tgt < 4 → s.mstate ≠ 6 → (s.fired a off).fld ⟨0x1D0A8 + 4 * a.tgt, 0, 14⟩ = s.fld ⟨0x1D098 + 4 * a.tgt, 0, 14⟩) := by
  obtain ⟨u, hu⟩ : ∃ u, u = (s.lnchEnd a.n).setB (lnchStat a.n 23) true := ⟨_, rfl⟩
  have hf : s.fired a off = u.lnchAct a off := by rw [hu]; rfl
  have hnear : Near (· = lnchReg a.n 12) (fun _ => False) s u := by
    rw [hu]
    exact near_setB (lnchEnd_ends s a.n).2.2.2 rfl
  have hrd : ∀ y, pageOf y ≠ 5 → u.rd y = s.rd y := fun y hy => hnear.regs y (fun h => hy (by rw [h]; exact (low_lnchReg hn).2.2.2))
  have htbl : u.tbl = s.tbl := by
    rw [hu]
    exact (tbl_setB ..).trans (tbl_setB ..)
  have hown : ∀ o, u.doOwned o = s.doOwned o := fun o => by
    unfold State.doOwned State.chDef State.chClass State.chFld State.tfld State.trd
    rw [htbl]
  have hm : u.mstate = s.mstate := fld_of_rd (f := ⟨0x0054, 28, 4⟩) (hrd 0x0054 (by decide))
  rw [hf]
  unfold State.lnchAct State.doLaunch State.aoutApply State.pwmApply
  refine ⟨fun h ht ho => ?_, fun h ht ho => ?_, fun h ho => ?_, fun h ht hne => ?_, fun h ht hne => ?_⟩
  · simp only [h, hown, ho]
    exact bit_setB_self (by simp only [doCmd, bitAt_lo]; omega) rfl
  · simp only [h, hown, ho]
    exact bit_setB_self (by simp only [doCmd, bitAt_lo]; omega) rfl
  · rcases h with h | h
    · simp only [h, hown, ho, if_true]
      exact hrd _ (by decide)
    · simp only [h, hown, ho, if_true]
      exact hrd _ (by decide)
  · simp only [h, hm, if_neg hne]
    refine (fld_setF_self (by dsimp only; decide)).trans ?_
    rw [fld_of_rd (s := s) (t := u) (f := ⟨0x1D058 + 4 * a.tgt, 0, 15⟩) (hrd _ (by simp only [pageOf_eq]; omega))]
    exact Nat.mod_eq_of_lt (fld_lt s _)
  · simp only [h, hm, if_neg hne]
    refine (fld_of_regs (t := State.pwmStart _ _ _ _) (s := u.setF ⟨0x1D0A8 + 4 * a.tgt, 0, 14⟩ (u.fld ⟨0x1D098 + 4 * a.tgt, 0, 14⟩)) rfl _).trans ?_
    refine (fld_setF_self (by dsimp only; decide)).trans ?_
    rw [fld_of_rd (s := s) (t := u) (f := ⟨0x1D098 + 4 * a.tgt, 0, 14⟩) (hrd _ (by simp only [pageOf_eq]; omega))]
    exact Nat.mod_eq_of_lt (fld_lt s _)

theorem launchFire_fires {s : State} {n : Nat} {b : LnchArm} (hn : n < 64) (hb : s.lnchOf n = some b)
    (hd : s.ltAhead b.sec b.ns 0 < s.nextTick - s.clockNs) : runs (.launchFire n) s (fun t =>
      t.lnchOf n = none ∧ t.bit (lnchStat n 23) = true ∧ t.bit (lnchStat n 22) = false
        ∧ (b.act = 1 → b.tgt < 8 → s.doOwned b.tgt = false → t.bit (doCmd b.tgt) = true)
        ∧ (b.act = 2 → b.tgt < 8 → s.doOwned b.tgt = false → t.bit (doCmd b.tgt) = false)
        ∧ (b.act = 1 ∨ b.act = 2 → s.doOwned b.tgt = true → t.rd 0x1C050 = s.rd 0x1C050)
        ∧ (b.act = 3 → b.tgt < 4 → s.mstate ≠ 6 → t.fld ⟨0x1D068 + 4 * b.tgt, 0, 15⟩ = s.fld ⟨0x1D058 + 4 * b.tgt, 0, 15⟩)
        ∧ (b.act = 4 → b.tgt < 4 → s.mstate ≠ 6 → t.fld ⟨0x1D0A8 + 4 * b.tgt, 0, 14⟩ = s.fld ⟨0x1D098 + 4 * b.tgt, 0, 14⟩)
        ∧ (s.srcFld (0x040 + n) 31 1 = 1 → t.srcFld (0x040 + n) 29 1 = 1)) := by
  have hbn : b.n = n := by
    have := List.find?_some (p := fun a : LnchArm => a.n == n) hb
    simpa using this
  subst hbn
  obtain ⟨off, hoff⟩ : ∃ off, off = (max (s.ltAhead b.sec b.ns 0) 0).toNat := ⟨_, rfl⟩
  obtain ⟨u, hu⟩ : ∃ u, u = s.setF ⟨lnchReg b.n 12, 0, 20⟩ 0 := ⟨_, rfl⟩
  have he : exec (.launchFire b.n) s = .next (u.lnchFire b false .arming off (s.instant off)) := by
    rw [hu, hoff]
    refine next_congr ?_
    rw [hb]
    exact if_pos hd
  have hp5 := (low_lnchReg hn).2.2.2
  have hur : ∀ y, pageOf y ≠ 5 → u.rd y = s.rd y := fun y hy => by
    rw [hu]
    exact rd_setF_apart (fun h => hy (by rw [h]; exact hp5))
  have hut : u.tbl = s.tbl := by
    rw [hu]
    exact tbl_setF ..
  have hown : u.doOwned b.tgt = s.doOwned b.tgt := by
    unfold State.doOwned State.chDef State.chClass State.chFld State.tfld State.trd
    rw [hut]
  have hum : u.mstate = s.mstate := fld_of_rd (f := ⟨0x0054, 28, 4⟩) (hur 0x0054 (by decide))
  obtain ⟨g1, g2, g3, -, g5⟩ := lnchFire_shows (s := u) (a := b) (late := false) (b := .arming) (off := off) (t := s.instant off) hn
  obtain ⟨f1, f2, f3, f4, f5⟩ := fired_outputs u b off hn
  rw [hown] at f1 f2 f3
  rw [hum] at f4 f5
  have hrd : ∀ y, pageOf y = 0x1C ∨ pageOf y = 0x1D → (u.lnchFire b false .arming off (s.instant off)).rd y = (u.fired b off).rd y := fun y hy =>
    rd_lnchFire hn (by unfold farReg; simp only [pageOf_eq] at hy ⊢; omega) (by omega) (by omega)
  refine runs_intro he ⟨g1, g3, g2, fun h ht ho => ?_, fun h ht ho => ?_, fun h ho => ?_, fun h ht hm => ?_, fun h ht hm => ?_, fun h => g5 ?_⟩
  · exact (bit_of_rd (f := doCmd b.tgt) (hrd 0x1C050 (.inl rfl))).trans (f1 h ht ho)
  · exact (bit_of_rd (f := doCmd b.tgt) (hrd 0x1C050 (.inl rfl))).trans (f2 h ht ho)
  · exact (hrd 0x1C050 (.inl rfl)).trans ((f3 h ho).trans (hur _ (by decide)))
  · refine (fld_of_rd (f := ⟨0x1D068 + 4 * b.tgt, 0, 15⟩) (hrd _ (.inr (by simp only [pageOf_eq]; omega)))).trans ((f4 h ht hm).trans ?_)
    exact fld_of_rd (hur _ (by simp only [pageOf_eq]; omega))
  · refine (fld_of_rd (f := ⟨0x1D0A8 + 4 * b.tgt, 0, 14⟩) (hrd _ (.inr (by simp only [pageOf_eq]; omega)))).trans ((f5 h ht hm).trans ?_)
    exact fld_of_rd (hur _ (by simp only [pageOf_eq]; omega))
  · exact (tfld_of_tbl hut ..).trans h

/-- Settles O29: a comparator waits, misses or fires by its launch time, and its launch acts by its ACTION. -/
theorem launchComparatorsArmAndFire : Obligations.LaunchComparatorsArmAndFire := by
  unfold Obligations.LaunchComparatorsArmAndFire
  intro n s a arms
  refine ⟨fun hn hp => ⟨arm_judged hn (x := s) (next_congr ?_) rfl rfl rfl, fun arg ns ht hi => arm_judged hn (x := s.begun 0x40) (next_congr ?_) rfl rfl rfl, ?_⟩,
    fun h => ⟨next_congr (congrArg Prod.fst (if_pos ?_)), next_congr (congrArg Prod.fst (if_pos ?_))⟩, fun h => next_congr (by rw [h]),
    fun b hn hb hd _ => launchFire_fires hn hb hd, fun b hb hd => next_congr ?_⟩
  · exact congrArg Prod.fst (if_neg (by rw [decide_eq_false (by omega), hp]; decide))
  · refine (entry_takes ht).trans ?_
    have hi' : (s.begun 0x40).entryIdx arg 0 6 = some n := hi
    rw [hi']
    exact if_pos ⟨hn, hp⟩
  · have he : exec (.disarm n) s = .next (s.lnchEnd n) :=
      next_congr (congrArg Prod.fst (if_neg (by rw [decide_eq_false (by omega), hp]; decide)))
    obtain ⟨h1, h2, h3, h4⟩ := lnchEnd_ends s n
    exact runs_intro he ⟨h1, h2, h3, h4.regs, onlyIn_exec he (List.Subset.refl _)⟩
  · rcases h with h | h
    · simp [h]
    · simp [h]
  · rcases h with h | h
    · simp [h]
    · simp [h]
  · rw [hb]
    exact if_neg (by omega)

end Sys2Proof.Machine
end

section
/-! ### Analogue inputs -/

namespace Sys2Proof.Machine

/-! #### Triggers (R297, R298) -/

/-- Bringing the sample instants up to an instant only removes triggers and leaves the selections. -/
theorem adcSample_keeps_plan (s : State) (e : AdcTrg) :
    (s.adcSample e).adc.sel = s.adc.sel ∧ (s.adcSample e).adc.sched = s.adc.sched := by
  have hlost : (s.trigLost [e.conv]).adc = s.adc := (trigLost_keeps (Keeps.refl _ s) (List.Subset.refl _)).only .adc (by decide)
  unfold State.adcSample
  split
  · exact ⟨rfl, rfl⟩
  · split
    · exact ⟨rfl, rfl⟩
    · split
      · exact ⟨congrArg _ hlost, congrArg _ hlost⟩
      · exact ⟨rfl, rfl⟩

theorem adcAdvance_keeps_plan (s : State) (t : Nat) :
    (s.adcAdvance t).adc.sel = s.adc.sel ∧ (s.adcAdvance t).adc.sched = s.adc.sched.filter (fun e => decide (t < e.at_)) := by
  have hfold : ∀ (l : List AdcTrg) (u : State),
      (l.foldl (fun a e => a.adcSample e) u).adc.sel = u.adc.sel ∧ (l.foldl (fun a e => a.adcSample e) u).adc.sched = u.adc.sched := fun l => by
    induction l with
    | nil => exact fun _ => ⟨rfl, rfl⟩
    | cons e l ih => exact fun u => ⟨(ih _).1.trans (adcSample_keeps_plan u e).1, (ih _).2.trans (adcSample_keeps_plan u e).2⟩
  exact hfold _ _

theorem adcTrigger_off {s : State} (h : s.bit (bitAt 0x18040 0) = false) (src mask dly t : Nat) : s.adcTrigger src mask dly t = s := by
  unfold State.adcTrigger
  rw [h]
  rfl

/-- With the converters on and no earlier trigger of the source waiting, every converter of the mask gets a conversion. -/
theorem adcTrigger_schedules {s : State} {src mask dly t n : Nat} (hen : s.bit (bitAt 0x18040 0) = true)
    (hfree : src < 8 → ∀ e ∈ s.adc.sched, e.src ≠ src) (hn : n < 4) (hm : mask / 2 ^ n % 2 = 1) :
    ⟨adcEdge (t + 10 * dly), n, src, t + 10 * dly⟩ ∈ (s.adcTrigger src mask dly t).adc.sched := by
  obtain ⟨-, hsched⟩ := adcAdvance_keeps_plan s (t - 1)
  have hnone : (decide (src < 8) && (s.adcAdvance (t - 1)).adc.sched.any (fun e => e.src == src && decide (t < e.dlyEnd))) = false := by
    rw [hsched]
    by_cases h8 : src < 8
    · rw [Bool.and_eq_false_iff]
      refine .inr (List.any_eq_false.2 fun e he => ?_)
      simp [hfree h8 e (List.mem_of_mem_filter he)]
    · simp [h8]
  unfold State.adcTrigger
  simp only [hen, hnone, Bool.not_true, Bool.false_eq_true, if_false]
  refine List.mem_append_right _ (List.mem_map.2 ⟨n, List.mem_filter.2 ⟨List.mem_range.2 hn, ?_⟩, rfl⟩)
  simp [hm]

/-- ADC_TRG_k with EN set triggers the converters of its mask. -/
theorem adcTrg_schedules {s : State} {k ns n : Nat} (hen : s.bit (bitAt 0x18040 0) = true) (hk : s.bit (bitAt (0x18068 + 4 * k) 31) = true)
    (hfree : ∀ e ∈ s.adc.sched, e.src ≠ k) (hn : n < 4) (hm : s.fld ⟨0x18068 + 4 * k, 0, 4⟩ / 2 ^ n % 2 = 1) :
    ⟨adcEdge (s.elapsed ns + 10 * s.fld ⟨0x18068 + 4 * k, 4, 16⟩), n, k, s.elapsed ns + 10 * s.fld ⟨0x18068 + 4 * k, 4, 16⟩⟩
      ∈ (s.adcTrg k ns).adc.sched := by
  unfold State.adcTrg
  simp only [hk, if_true]
  exact adcTrigger_schedules hen (fun _ => hfree) hn hm

theorem adcTrg_off {s : State} {k : Nat} (hk : s.bit (bitAt (0x18068 + 4 * k) 31) = false) (ns : Nat) : s.adcTrg k ns = s := by
  unfold State.adcTrg
  simp only [hk, Bool.false_eq_true, if_false]

/-- Settles O30: a trigger removes no waiting conversion but those whose instant has passed, and adds its own at the end of the list. -/
theorem adcTriggersScheduleConversions : Obligations.AdcTriggersScheduleConversions := by
  unfold Obligations.AdcTriggersScheduleConversions
  intro s ns
  refine ⟨fun conv arg c ht hc => ?_, fun arg ht hen => ?_, fun arg hen => ?_, fun k hk hen hon hfree => ?_, fun k hoff => ?_, fun j hoff => ?_⟩
  · refine runs_intro (next_congr (entry_takes ht)) ?_
    have hc' : (s.begun (0x10 + conv)).entryIdx arg 0 3 = some c := hc
    simp only [hc']
    exact congrArg (fun l => setAt l conv c) (adcAdvance_keeps_plan _ _).1
  · refine runs_intro (next_congr (entry_takes ht)) fun n hn hm => ?_
    exact adcTrigger_schedules (s := s.begun 0x14) (t := s.elapsed ns) hen (fun h => absurd h (by decide)) hn hm
  · have hend : ∀ u : State, u.bit (bitAt 0x18040 0) = false → u.adcTrigger 8 (arg % 16) (arg / 16 % 65536) (u.elapsed ns) = u := fun u hu =>
      adcTrigger_off hu _ _ _ _
    refine runs_intro (t := s.entry 0x11 0x14 (fun e => e.has arg && e.begunAt ns)
      (fun s => s.adcTrigger 8 (arg % 16) (arg / 16 % 65536) (s.elapsed ns))) rfl ?_
    unfold State.entry
    split
    · rfl
    · split
      · rfl
      · exact (congrArg State.adc (hend (s.passEntry.ackBy 0x14) hen) :)
  · intro fires
    refine ⟨fun h4 hper hat hns => ?_, fun j p hj hp hper hpwm hpast hat => ?_⟩
    · refine runs_intro (next_congr (if_pos ⟨h4, by omega, hat, hns⟩)) fun n hn hm => ?_
      exact adcTrg_schedules hen hon hfree hn hm
    · subst hj hp
      refine runs_intro (next_congr (if_pos ⟨by omega, hper, hpwm, hpast, hat⟩)) fun n hn hm => ?_
      exact adcTrg_schedules hen hon hfree hn hm
  · refine next_congr (ite_eq_right_iff.2 fun h => ?_)
    obtain ⟨-, hper, -, -⟩ := h
    exact adcTrg_off (hoff.resolve_right fun h0 => hper (by rw [h0])) ns
  · refine next_congr (ite_eq_right_iff.2 fun h => ?_)
    obtain ⟨-, -, hpwm, -, -⟩ := h
    exact adcTrg_off (hoff.resolve_right fun h0 => by rw [h0] at hpwm; cases hpwm) ns

end Sys2Proof.Machine
end

section
/-! ### Conversions -/

namespace Sys2Proof.Machine

/-! #### The end of a conversion (R296, R300, R304) -/

/-- Not the words of the converters' BUSY bits and of the over-range flags. -/
abbrev offAdc (a : Nat) : Prop := a ≠ 0x18044 ∧ a ≠ 0x180B0

theorem offAdc_of_evReg {p a : Nat} (_hp : p = 0x18 ∨ p = 0x26 ∨ p = 0x30) (h : evReg p a) : offAdc a := by
  unfold evReg at h
  simp only [addrOf_eq, pageOf_eq] at h
  omega

theorem offAdc_of_faultReg {a : Nat} (h : faultReg a = true) : offAdc a := by
  refine ⟨fun ha => ?_, fun ha => ?_⟩ <;> · subst ha; revert h; decide

theorem near_reflexConv (s : State) (conv inp : Nat) (code : Int) : Near offAdc (fun _ => True) s (s.reflexConv conv inp code) := by
  have htrip : ∀ (u : State) (ch : Nat), Near offAdc (fun _ => True) s u → Near offAdc (fun _ => True) s (u.reflexTrip ch) := fun u ch hu => by
    unfold State.reflexTrip State.tripLatch
    refine near_ite' hu ?_
    refine near_raiseEv (near_bump (near_same (near_setB hu ?_) rfl rfl) (by decide) (by decide)) (by decide)
      (fun _ => offAdc_of_evReg (.inr (.inl rfl))) fun _ _ => trivial
    simp only [privTripped, bitAt]
    omega
  unfold State.reflexConv
  refine near_foldl (Near.refl _ _ s) fun u ch _ hu => ?_
  extract_lets lim beyond n a1
  exact near_ite' (htrip _ _ (near_same hu rfl rfl)) (near_same hu rfl rfl)

theorem near_fwPutsNext {q : Nat → Prop} (hq : ∀ x, evTbl x → q x) {s t : State} (h : Near offAdc q s t) (eng n i : Nat) (its : List Item) :
    Near offAdc q s (t.fwPutsNext eng n i its) := by
  unfold State.fwPutsNext State.fwViol State.xbarViol
  refine near_ite' (near_enterFault ?_ (fun _ => offAdc_of_faultReg) hq) (near_same h (regs_mbxPutsNext ..) (tbl_mbxPutsNext ..))
  exact near_raiseEv (near_bump (near_wr (near_setF h (by decide)) (by decide)) (by decide) (by decide)) (by decide)
    (fun _ => offAdc_of_evReg (.inr (.inr rfl))) hq

/-- The result of a closed window stands in its record, and no flag of the converters changes. -/
theorem adcResult_shows (s : State) {ch : Nat} (hch : ch < 32) (c : AdcClose) :
    Near offAdc (fun _ => True) s (s.adcResult ch c) ∧ (s.adcResult ch c).adc = s.adc
      ∧ (s.adcResult ch c).trd 0x1801 ch 3 = BitVec.ofNat 32 c.win.n := by
  refine ⟨?_, (adcResult_keeps (Keeps.refl _ s) (List.Subset.refl _)).only .adc (by decide), ?_⟩
  · unfold State.adcResult
    extract_lets w r some_ m sumOvf rtd q st flags hold s1 mb it held v s2
    have h1 : Near offAdc (fun _ => True) s s1 := near_trecSet (Near.refl _ _ s) fun _ _ _ => trivial
    have h2 : Near offAdc (fun _ => True) s s2 := near_fwPutsNext (fun _ _ => trivial) h1 ..
    exact near_ite' (near_raiseEv h2 (by decide) (fun _ => offAdc_of_evReg (.inl rfl)) fun _ _ => trivial) h2
  · unfold State.adcResult
    extract_lets w r some_ m sumOvf rtd q st flags hold s1 mb it held v s2
    have h1 : s1.trd 0x1801 ch 3 = BitVec.ofNat 32 c.win.n := trd_trecSet_at (w := 0) (k := 3) (show 3 < 8 by decide)
    have h2 : Near offAdc evTbl s1 s2 := near_fwPutsNext (fun _ h => h) (Near.refl _ _ s1) ..
    have h3 : Near (fun _ => True) evTbl s1 (if rtd then s2.raiseEv 0x18 2 else s2) :=
      near_ite' (near_raiseEv (h2.mono (fun _ _ => trivial) fun _ h => h) (by decide) (fun _ _ => trivial) fun _ h => h)
        (h2.mono (fun _ _ => trivial) fun _ h => h)
    exact (trd_of_tblBut h3.tbl (by omega) (by decide) (by unfold evTbl; decide)).trans h1

/-- What a conversion that was sampled at `t0` does to the channel's windows: it joins the closed one that waited for it, or the running one. -/
def State.convJoins (s : State) (ch t0 : Nat) (c : Int) (beyond settle : Bool) : State :=
  match (match s.adc.closing.lookup ch with
    | some cl => if t0 < cl.at_ then some cl else none
    | none => none) with
  | some cl => ((if beyond && cl.win.nOvr == 0 then s.raiseEv 0x18 1 else s).adcMod
      (fun a => { a with closing := a.closing.filter (fun e => e.1 != ch) })).adcResult ch { cl with win := cl.win.add c beyond settle }
  | none =>
    if t0 < (s.adcWin ch).start then s
    else (if beyond && (s.adcWin ch).nOvr == 0 then s.raiseEv 0x18 1 else s).adcSetWin ch ((s.adcWin ch).add c beyond settle)

/-- The converter is free again, the conversion is counted, and the reflex channels have seen its code. -/
def State.convTaken (s : State) (conv inp left : Nat) (c : Int) : State :=
  (((s.adcMod (fun a => { a with conv := setAt a.conv conv none, settle := setAt a.settle conv left })).setB (adcBusy conv) false).bump
    (.ADC_CONV conv)).reflexConv conv inp c

theorem getD_setAt_default {α : Type} (l : List α) (i : Nat) (d : α) : (setAt l i d).getD i d = d := by
  unfold setAt
  rw [List.getD_eq_getElem?_getD, List.getElem?_set]
  split
  · split <;> rfl
  · next h => exact absurd rfl h

theorem lookup_filter_ne {α : Type} (l : List (Nat × α)) (k : Nat) : (l.filter (fun e => e.1 != k)).lookup k = none := by
  rw [List.lookup_eq_none_iff]
  intro e he
  have hne := (List.mem_filter.1 he).2
  exact bne_iff_ne.2 (Ne.symm (bne_iff_ne.1 hne))

theorem raisedOr_shows (s : State) (b : Bool) :
    Near offAdc (fun _ => True) s (if b then s.raiseEv 0x18 1 else s) ∧ (if b then s.raiseEv 0x18 1 else s).adc = s.adc := by
  have h0 := Near.refl offAdc (fun _ => True) s
  split
  · exact ⟨near_raiseEv h0 (by decide) (fun _ => offAdc_of_evReg (.inl rfl)) fun _ _ => trivial, raiseEv_only s 0x18 1 .adc (by decide)⟩
  · exact ⟨h0, rfl⟩

/-- Joining a window leaves the converters and the flags as they are, and adds the code to the window that it belongs to. -/
theorem convJoins_shows (s : State) {ch t0 : Nat} (hch : ch < 32) {c : Int} {beyond settle : Bool} :
    Near offAdc (fun _ => True) s (s.convJoins ch t0 c beyond settle)
    ∧ (s.convJoins ch t0 c beyond settle).adc.conv = s.adc.conv ∧ (s.convJoins ch t0 c beyond settle).adc.settle = s.adc.settle
    ∧ (s.adc.closing.lookup ch = none → (s.adcWin ch).start ≤ t0 →
        (s.convJoins ch t0 c beyond settle).adcWin ch = (s.adcWin ch).add c beyond settle)
    ∧ (∀ cl, s.adc.closing.lookup ch = some cl → t0 < cl.at_ → (s.convJoins ch t0 c beyond settle).adc.closing.lookup ch = none
        ∧ (s.convJoins ch t0 c beyond settle).trd 0x1801 ch 3 = BitVec.ofNat 32 (cl.win.add c beyond settle).n) := by
  unfold State.convJoins
  split
  · next cl hcl =>
    obtain ⟨x, hx⟩ : ∃ x, x = if beyond && cl.win.nOvr == 0 then s.raiseEv 0x18 1 else s := ⟨_, rfl⟩
    obtain ⟨hnear, hadc⟩ : Near offAdc (fun _ => True) s x ∧ x.adc = s.adc := hx ▸ raisedOr_shows s _
    rw [← hx]
    obtain ⟨hnear', hadc', hn⟩ := adcResult_shows (x.adcMod (fun a => { a with closing := a.closing.filter (fun e => e.1 != ch) })) hch
      { cl with win := cl.win.add c beyond settle }
    have hfind : s.adc.closing.lookup ch = some cl := by
      split at hcl
      · next d hd =>
        split at hcl
        · exact hd.trans hcl
        · cases hcl
      · cases hcl
    refine ⟨Near.trans (t := x.adcMod _) (near_same hnear rfl rfl) hnear', ?_, ?_, fun h => ?_, fun d hd _ => ⟨?_, ?_⟩⟩
    · exact (congrArg AdcSt.conv hadc').trans (congrArg AdcSt.conv hadc :)
    · exact (congrArg AdcSt.settle hadc').trans (congrArg AdcSt.settle hadc :)
    · cases h.symm.trans hfind
    · exact (congrArg (fun a => a.closing.lookup ch) hadc').trans (lookup_filter_ne _ _)
    · cases hd.symm.trans hfind
      exact hn
  · next hcl =>
    have hlate : ∀ cl, s.adc.closing.lookup ch = some cl → ¬ t0 < cl.at_ := fun cl h ht => by
      simp [h, ht] at hcl
    obtain ⟨x, hx⟩ : ∃ x, x = if beyond && (s.adcWin ch).nOvr == 0 then s.raiseEv 0x18 1 else s := ⟨_, rfl⟩
    obtain ⟨hnear, hadc⟩ : Near offAdc (fun _ => True) s x ∧ x.adc = s.adc := hx ▸ raisedOr_shows s _
    rw [← hx]
    split
    · next hstart => exact ⟨Near.refl _ _ s, rfl, rfl, fun _ h => absurd hstart (by omega), fun cl h ht => absurd ht (hlate cl h)⟩
    · refine ⟨near_same hnear rfl rfl, (congrArg AdcSt.conv hadc :), (congrArg AdcSt.settle hadc :), fun _ _ => ?_, fun cl h ht => absurd ht (hlate cl h)⟩
      simp [State.adcWin, State.adcSetWin, State.adcMod]

theorem convTaken_shows (s : State) {conv : Nat} (hconv : conv < 4) (inp left : Nat) (c : Int) :
    (s.convTaken conv inp left c).adc = { s.adc with conv := setAt s.adc.conv conv none, settle := setAt s.adc.settle conv left }
    ∧ (s.convTaken conv inp left c).bit (adcBusy conv) = false := by
  obtain ⟨x, hx⟩ : ∃ x, x = s.adcMod (fun a => { a with conv := setAt a.conv conv none, settle := setAt a.settle conv left }) := ⟨_, rfl⟩
  have htaken : s.convTaken conv inp left c = ((x.setB (adcBusy conv) false).bump (.ADC_CONV conv)).reflexConv conv inp c := hx ▸ rfl
  have hbump : ((x.setB (adcBusy conv) false).bump (.ADC_CONV conv)).adc = (x.setB (adcBusy conv) false).adc :=
    (bump_keeps (Keeps.refl [.regs] _) (List.Subset.refl _)).only .adc (by decide)
  rw [htaken]
  constructor
  · rw [(reflexConv_keeps (Keeps.refl _ _) (List.Subset.refl _)).only .adc (by decide), hbump, hx]
    rfl
  · have hnear : Near offAdc (fun _ => True) (x.setB (adcBusy conv) false)
        (((x.setB (adcBusy conv) false).bump (.ADC_CONV conv)).reflexConv conv inp c) :=
      (near_bump (Near.refl _ _ _) (by simp only [Ctr.ADC_CONV, offAdc]; omega) (show offAdc 0 by decide)).trans (near_reflexConv _ _ _ _)
    have hrd := hnear.regs (adcBusy conv).addr (fun h => h.1 rfl)
    exact (bit_of_rd hrd).trans (bit_setB_self (show 4 + conv < 32 by omega) rfl)

theorem conversionEnd_joins {conv ns ch t0 : Nat} {code : Int} {s : State} (hc : s.adc.conv.getD conv none = some (ch, t0))
    (ht : t0 + 2000 = s.elapsed ns) (hsched : ∀ e ∈ s.adc.sched, s.elapsed ns ≤ e.at_) {c : Int} (hcl : c = clampI (-32768) 32767 code)
    {beyond : Bool} (hb : beyond = (s.tfld 0x1800 ch 0 31 1 == 1 && c != code)) {x : State}
    (hx : x = s.convTaken conv (ch % 8) (if beyond then 2 else s.adc.settle.getD conv 0 - 1) c) :
    exec (.adcConversionEnd conv code ns) s = .next (if !(s.tfld 0x1800 ch 0 31 1 == 1) then x
      else (if beyond then x.setB (bitAt 0x180B0 ch) true else x).convJoins ch t0 c beyond (0 < s.adc.settle.getD conv 0)) := by
  have hnone : s.adc.sched.filter (fun e => decide (e.at_ ≤ s.elapsed ns - 1)) = [] := List.filter_eq_nil_iff.2 fun e he hle => by
    have h1 := hsched e he
    have h2 := of_decide_eq_true hle
    omega
  have hall : s.adc.sched.filter (fun e => decide (s.elapsed ns - 1 < e.at_)) = s.adc.sched := List.filter_eq_self.2 fun e he => by
    have h1 := hsched e he
    exact decide_eq_true (by omega)
  have hadv : s.adcAdvance (s.elapsed ns - 1) = s := by
    unfold State.adcAdvance
    simp only [hnone, State.adcMod, hall]
    rfl
  have hkeep : (if beyond then x.setB (bitAt 0x180B0 ch) true else x).adc = x.adc := by
    split <;> rfl
  unfold State.convTaken at hx
  refine next_congr ?_
  simp only [hadv, hc, ht, ← hcl, ← hb, ← hx]
  refine (if_neg (fun h => h rfl)).trans ?_
  unfold State.convJoins
  rw [hkeep] <;> rfl

/-- Settles O31: what the end of a conversion leaves, case by case of its channel's windows. -/
theorem conversionsJoinTheirWindow : Obligations.ConversionsJoinTheirWindow := by
  unfold Obligations.ConversionsJoinTheirWindow
  intro conv code ns ch t0 s hconv hlen hc hch ht hsched
  obtain ⟨c, hcl⟩ : ∃ c, c = clampI (-32768) 32767 code := ⟨_, rfl⟩
  obtain ⟨beyond, hb⟩ : ∃ beyond, beyond = (s.tfld 0x1800 ch 0 31 1 == 1 && c != code) := ⟨_, rfl⟩
  obtain ⟨x, hx⟩ : ∃ x, x = s.convTaken conv (ch % 8) (if beyond then 2 else s.adc.settle.getD conv 0 - 1) c := ⟨_, rfl⟩
  obtain ⟨y, hy⟩ : ∃ y, y = if beyond then x.setB (bitAt 0x180B0 ch) true else x := ⟨_, rfl⟩
  obtain ⟨z, hz⟩ : ∃ z, z = if !(s.tfld 0x1800 ch 0 31 1 == 1) then x else y.convJoins ch t0 c beyond (0 < s.adc.settle.getD conv 0) := ⟨_, rfl⟩
  have he : exec (.adcConversionEnd conv code ns) s = .next z := by
    rw [hz, hy]
    exact conversionEnd_joins hc ht hsched hcl hb hx
  rw [← hcl]
  obtain ⟨hadc, hfree⟩ : _ ∧ x.bit (adcBusy conv) = false := hx ▸ convTaken_shows s hconv _ _ _
  have hyadc : y.adc = x.adc := by
    rw [hy]
    split <;> rfl
  have hyfree : y.bit (adcBusy conv) = false := by
    rw [hy]
    split
    · exact (bit_setB_apart (.inl (show (0x18044 : Nat) ≠ 0x180B0 by decide))).trans hfree
    · exact hfree
  obtain ⟨hnear, hkconv, hksettle, hrun, hclosed⟩ := convJoins_shows y hch (t0 := t0) (c := c) (beyond := beyond)
    (settle := decide (0 < s.adc.settle.getD conv 0))
  have hzconv : z.adc.conv = setAt s.adc.conv conv none ∧ z.adc.settle = setAt s.adc.settle conv (if beyond then 2 else s.adc.settle.getD conv 0 - 1)
      ∧ z.bit (adcBusy conv) = false := by
    rw [hz]
    split
    · exact ⟨congrArg AdcSt.conv hadc, congrArg AdcSt.settle hadc, hfree⟩
    · rw [hkconv, hksettle, hyadc, hadc]
      exact ⟨rfl, rfl, (bit_of_rd (hnear.regs _ (fun h => h.1 rfl))).trans hyfree⟩
  obtain ⟨hzc, hzs, hzb⟩ := hzconv
  have hsettle : z.adc.settle.getD conv 0 = if beyond then 2 else s.adc.settle.getD conv 0 - 1 := by
    rw [hzs]
    simp [setAt, hlen, hconv]
  have hdef : s.tfld 0x1800 ch 0 31 1 = 1 → z = y.convJoins ch t0 c beyond (0 < s.adc.settle.getD conv 0) ∧ beyond = decide (c ≠ code) := fun h => by
    rw [hz, hb, h]
    simp [bne, decide_not, beq_eq_decide]
  have hyclosing : y.adc.closing = s.adc.closing := (congrArg AdcSt.closing (hyadc.trans hadc) :)
  have hywin : y.adcWin ch = s.adcWin ch := (congrArg (fun a : AdcSt => (a.win.lookup ch).getD AdcWin.init) (hyadc.trans hadc) :)
  refine runs_intro he ⟨?_, hzb, fun hd hnone hstart => ?_, fun hd hne => ⟨?_, ?_⟩, fun cl hd hlook hat => ?_, fun heq => ?_⟩
  · rw [hzc]
    exact getD_setAt_default _ _ _
  · obtain ⟨hzd, hbd⟩ := hdef hd
    rw [hzd, ← hbd, ← hywin]
    exact hrun (by rw [hyclosing]; exact hnone) (by rw [hywin]; exact hstart)
  · rw [hsettle, (hdef hd).2, if_pos (decide_eq_true hne)]
  · obtain ⟨hzd, hbd⟩ := hdef hd
    have hy' : y = x.setB (bitAt 0x180B0 ch) true := by rw [hy, hbd, if_pos (decide_eq_true hne)]
    rw [hzd]
    refine (bit_of_rd (hnear.regs _ (fun h => h.2 rfl))).trans ?_
    rw [hy']
    exact bit_setB_self hch rfl
  · obtain ⟨hzd, hbd⟩ := hdef hd
    rw [hzd, ← hbd]
    exact hclosed cl (by rw [hyclosing]; exact hlook) hat
  · rw [hsettle, hb, heq]
    simp

end Sys2Proof.Machine
end

section
/-! ### Plant buses: what the operations on a port read and leave -/

namespace Sys2Proof.Machine

/-! #### The clock as the engines take it -/

/-- The running frame's clock reads alike in two states: the module's state, the clock and the frame word, and the record in execution. -/
structure SameClock (s t : State) : Prop where
  rd : ∀ a, a = 0x0054 ∨ pageOf a = 4 ∨ a = 0x6048 → t.rd a = s.rd a
  run : t.twin.run = s.twin.run

theorem SameClock.of_regs {s t : State} (h : t.regs = s.regs) (ht : t.twin.run = s.twin.run) : SameClock s t :=
  ⟨fun a _ => by unfold State.rd; rw [h], ht⟩

theorem SameClock.of_near {p q : Nat → Prop} {s t : State} (h : Near p q s t) (hp : ∀ a, a = 0x0054 ∨ pageOf a = 4 ∨ a = 0x6048 → ¬ p a)
    (ht : t.twin.run = s.twin.run) : SameClock s t := ⟨fun a ha => h.regs a (hp a ha), ht⟩

theorem SameClock.recRun {s t : State} (h : SameClock s t) : t.recRun = s.recRun := by
  unfold State.recRun
  rw [fld_of_rd (f := ⟨0x0054, 28, 4⟩) (h.rd 0x0054 (.inl rfl)), h.run]

theorem SameClock.nowSec {s t : State} (h : SameClock s t) : t.nowSec = s.nowSec := by
  unfold State.nowSec State.ownSec
  rw [h.recRun, fld_of_rd (f := wordAt 0x4074) (h.rd 0x4074 (.inr (.inl rfl))), fld_of_rd (f := ⟨0x4078, 0, 16⟩) (h.rd 0x4078 (.inr (.inl rfl)))]

theorem SameClock.nowNs {s t : State} (h : SameClock s t) : t.nowNs = s.nowNs := by
  unfold State.nowNs State.ownNs
  rw [h.recRun, fld_of_rd (f := ⟨0x407C, 0, 30⟩) (h.rd 0x407C (.inr (.inl rfl)))]

theorem SameClock.instant {s t : State} (h : SameClock s t) (off : Nat) : t.instant off = s.instant off := by
  unfold State.instant
  rw [h.nowSec, h.nowNs]

theorem SameClock.issueNs {s t : State} (h : SameClock s t) (hq : t.seq = s.seq) (ht : t.tbl = s.tbl) : t.issueNs = s.issueNs := by
  have htrd : ∀ tid i w, t.trd tid i w = s.trd tid i w := fun tid i w => trd_of_tbl ht tid i w
  have htfld : ∀ tid i w lo n, t.tfld tid i w lo n = s.tfld tid i w lo n := fun tid i w lo n => tfld_of_tbl ht tid i w lo n
  have hext : t.inExt = s.inExt := by
    unfold State.inExt
    rw [h.recRun, bit_of_rd (f := bitAt 0x6048 10) (h.rd 0x6048 (.inr (.inr rfl)))]
  have hframe : t.frame = s.frame := by
    unfold State.frame
    rw [h.recRun, fld_of_rd (f := ⟨0x6048, 0, 10⟩) (h.rd 0x6048 (.inr (.inr rfl)))]
  have hrun : t.runTable = s.runTable := by
    unfold State.runTable
    rw [hext, hframe, htfld]
  unfold State.issueNs State.entryAt
  rw [hrun, htrd, htrd, hq]

/-! #### A port -/

theorem canP_canMod_self {s : State} {p : Nat} (h : p < s.can.length) (f : CanSt → CanSt) : (s.canMod p f).canP p = f (s.canP p) := by
  unfold State.canP State.canMod
  rw [modAt_getD, if_pos ⟨rfl, h⟩]

theorem canP_canMod_ne (s : State) {p q : Nat} (h : q ≠ p) (f : CanSt → CanSt) : (s.canMod p f).canP q = s.canP q := by
  unfold State.canP State.canMod
  rw [modAt_getD, if_neg (fun e => h e.1)]

theorem canP_of_can {s t : State} (h : t.can = s.can) (p : Nat) : t.canP p = s.canP p := by
  unfold State.canP
  rw [h]

theorem can_length_canMod (s : State) (p : Nat) (f : CanSt → CanSt) : (s.canMod p f).can.length = s.can.length := modAt_length ..

/-- What of a port survives a change of it that keeps `g`. -/
theorem canP_canMod_keeps {α : Type} {s : State} {p : Nat} {f : CanSt → CanSt} (g : CanSt → α) (hf : ∀ c, g (f c) = g c) (q : Nat) :
    g ((s.canMod p f).canP q) = g (s.canP q) := by
  unfold State.canP State.canMod
  rw [modAt_getD]
  split
  · next h => rw [hf, h.1]
  · rfl

theorem cfld_addr (p off lo w : Nat) : (cfld p off lo w).addr = 0x14000 + 0x1000 * p + off := rfl

theorem canRole_of {p : Nat} {s t : State} (h : t.rd 0x0054 = s.rd 0x0054) (h0 : t.rd (0x14000 + 0x1000 * p + 0x40) = s.rd (0x14000 + 0x1000 * p + 0x40))
    (hd : t.dev.recovery = s.dev.recovery) : t.canRole p = s.canRole p := by
  have hm : t.mstate = s.mstate := fld_of_rd (f := ⟨0x0054, 28, 4⟩) h
  have hb : t.bootStep = s.bootStep := fld_of_rd (f := ⟨0x0054, 24, 4⟩) h
  have hc : ∀ lo, t.bit (cfld p 0x40 lo 1) = s.bit (cfld p 0x40 lo 1) := fun lo => bit_of_rd h0
  unfold State.canRole
  rw [hm, hb, hd, hc, hc]

/-- What decides on the mode of a port. -/
structure SameMode (p : Nat) (s t : State) : Prop where
  rd : ∀ a, a = 0x0054 ∨ a = 0x2040 ∨ a = 0x3040 ∨ a = 0x14000 + 0x1000 * p + 0x40 → t.rd a = s.rd a
  conf : t.fld (canConf p) = s.fld (canConf p)
  dev : t.dev.recovery = s.dev.recovery
  sleep : (t.canP p).sleep = (s.canP p).sleep
  integ : (t.canP p).integ = (s.canP p).integ

theorem SameMode.mstate {p : Nat} {s t : State} (h : SameMode p s t) : t.mstate = s.mstate :=
  fld_of_rd (f := ⟨0x0054, 28, 4⟩) (h.rd 0x0054 (.inl rfl))

theorem SameMode.role {p : Nat} {s t : State} (h : SameMode p s t) : t.canRole p = s.canRole p :=
  canRole_of (h.rd 0x0054 (.inl rfl)) (h.rd _ (.inr (.inr (.inr rfl)))) h.dev

theorem SameMode.mode {p : Nat} {s t : State} (h : SameMode p s t) : t.canMode p = s.canMode p := by
  have hoff : t.busOff p = s.busOff p := by
    unfold State.busOff
    rw [h.conf]
  unfold State.canMode
  rw [h.role, h.sleep, h.integ, hoff, bit_of_rd (f := bitAt 0x2040 2) (h.rd 0x2040 (.inr (.inl rfl))),
    bit_of_rd (f := bitAt 0x3040 (7 + p)) (h.rd 0x3040 (.inr (.inr (.inl rfl))))]

theorem SameMode.loop {p : Nat} {s t : State} (h : SameMode p s t) : t.canLoop p = s.canLoop p := by
  have h0 : ∀ lo, t.bit (cfld p 0x40 lo 1) = s.bit (cfld p 0x40 lo 1) := fun lo => bit_of_rd (h.rd _ (.inr (.inr (.inr rfl))))
  unfold State.canLoop
  rw [h.mode, h0, h0]

/-- The words that steer a port and the words of its reference and its last error: no event, counter or fault changes them. -/
def canKept (a : Nat) : Prop :=
  a = 0x0054 ∨ a = 0x2040 ∨ a = 0x3040 ∨ a = 0x6048 ∨ pageOf a = 4
    ∨ ∃ p < 2, ∃ k, (k = 0x40 ∨ k = 0x50 ∨ k = 0x58 ∨ k = 0x64 ∨ k = 0x6C ∨ k = 0x74 ∨ k = 0xF0) ∧ a = 0x14000 + 0x1000 * p + k

theorem not_canKept {p k : Nat} (hp : p < 2) (hk : k < 0x1000)
    (h : k ≠ 0x40 ∧ k ≠ 0x50 ∧ k ≠ 0x58 ∧ k ≠ 0x64 ∧ k ≠ 0x6C ∧ k ≠ 0x74 ∧ k ≠ 0xF0) : ¬ canKept (0x14000 + 0x1000 * p + k) := by
  unfold canKept
  simp only [pageOf_eq]
  rintro (h0 | h0 | h0 | h0 | h0 | ⟨q, hq, j, hj, h0⟩)
  all_goals omega

theorem not_canKept_of_evReg {pg a : Nat} (hpg : pg = 0x30 ∨ pg = 0x14 ∨ pg = 0x15) (h : evReg pg a) : ¬ canKept a := by
  unfold evReg at h
  unfold canKept
  simp only [addrOf_eq, pageOf_eq] at h ⊢
  rintro (h0 | h0 | h0 | h0 | h0 | ⟨q, hq, j, hj, h0⟩)
  all_goals omega

/-- A counter of a port changes its own word and its page's overflow word. -/
theorem near_canBump {P Q : Nat → Prop} {s t : State} {p k j : Nat} {c : Ctr} (h : Near P Q s t) (ek : c.f.addr = 0x14000 + k)
    (ej : c.ovf.1 = 0x14000 + j) (h1 : P (0x14000 + 0x1000 * p + k)) (h2 : P (0x14000 + 0x1000 * p + j)) : Near P Q s (t.canBump p c) := by
  refine near_bump (c := c.shift p) h ?_ ?_
  · rw [show (c.shift p).f.addr = c.f.addr + 0x1000 * p from rfl, ek, Nat.add_right_comm]
    exact h1
  · rw [show (c.shift p).ovf.1 = c.ovf.1 + 0x1000 * p from rfl, ej, Nat.add_right_comm]
    exact h2

/-- One that wraps changes its own word only. -/
theorem near_canBumpW {P Q : Nat → Prop} {s t : State} {p k : Nat} {c : Ctr} (h : Near P Q s t) (ek : c.f.addr = 0x14000 + k) (hw : c.kind = .W)
    (h1 : P (0x14000 + 0x1000 * p + k)) : Near P Q s (t.canBump p c) := by
  refine near_bumpW (c := c.shift p) h ?_ hw
  rw [show (c.shift p).f.addr = c.f.addr + 0x1000 * p from rfl, ek, Nat.add_right_comm]
  exact h1

/-- CAN_TX: the frame's bytes, and the state with a station's count advanced. -/
def State.captured (s : State) (p o : Nat) : List Byte × State :=
  if s.objFld p o 0 22 2 = 0 then
    ((List.range (s.objLen p o)).map (fun i => s.mbxByte (s.objFld p o 3 20 12) (s.objFld p o 3 0 16 + i)), s)
  else match s.stnOfOut p o with
    | some t => (padTo (s.objLen p o) (s.outMsg p t).1, (s.outMsg p t).2)
    | none => (List.replicate (s.objLen p o) 0, s)

theorem pend_stnMod (s : State) (p k : Nat) (f : StnSt → StnSt) (q : Nat) : ((s.stnMod p k f).canP q).pend = (s.canP q).pend :=
  canP_canMod_keeps (f := fun c => { c with stn := (k, f (s.stn p k)) :: c.stn.filter (fun e => e.1 != k) }) (fun c => c.pend) (fun _ => rfl) q

theorem outMsg_counts (s : State) (p k : Nat) :
    (s.outMsg p k).2 = s.stnMod p k (fun d => { d with outCnt := ((s.stn p k).outCnt + 1) % 256 }) := rfl

theorem captured_leaves (s : State) (p o : Nat) :
    s.onlyIn (s.captured p o).2 [.can] ∧ ∀ q, ((s.captured p o).2.canP q).pend = (s.canP q).pend := by
  have hmsg : ∀ k, s.onlyIn (s.outMsg p k).2 [.can] ∧ ∀ q, ((s.outMsg p k).2.canP q).pend = (s.canP q).pend := fun k =>
    ⟨(outMsg_keeps (Keeps.refl _ s) (List.Subset.refl _)).only, fun q => by
      rw [outMsg_counts]
      exact pend_stnMod ..⟩
  unfold State.captured
  split
  · exact ⟨onlyIn_refl _ _, fun _ => rfl⟩
  · split
    · exact hmsg _
    · exact ⟨onlyIn_refl _ _, fun _ => rfl⟩

/-- The state in which the captured frame stands in the digest of the frame (R460). -/
def State.digested (s : State) (p o : Nat) : State :=
  { (s.captured p o).2 with
    twin := { (s.captured p o).2.twin with cans := (s.captured p o).2.twin.cans ++ [(p, s.objFld p o 1 0 29, (s.captured p o).1)] } }

/-- The same with the refresh of a waiting frame counted. -/
def State.refreshed (s : State) (p o : Nat) : State := if s.objFld p o 7 29 1 = 1 then s.canBump p .CANC_TX_REFRESH else s

theorem canTx_eq (s : State) (p o : Nat) :
    s.canTx p o = if !s.objDef p o || !s.objTx p o || s.objFld p o 7 30 1 == 1 then s
      else if (s.digested p o).canRole p = 4 then s.digested p o
      else (((s.digested p o).refreshed p o).tset (ctab p 0) o 7 29 1 1).canMod p (fun c =>
        { c with pend := (o, (s.captured p o).1, ((((s.digested p o).refreshed p o).canP p).pend.lookup o).map (·.2) |>.getD
          (((s.digested p o).refreshed p o).instant ((s.digested p o).refreshed p o).issueNs)) :: c.pend.filter (fun e => e.1 != o) }) := rfl

theorem digested_leaves (s : State) (p o : Nat) :
    (s.digested p o).regs = s.regs ∧ (s.digested p o).tbl = s.tbl ∧ (s.digested p o).seq = s.seq ∧ (s.digested p o).dev = s.dev
      ∧ (s.digested p o).twin.run = s.twin.run ∧ (s.digested p o).can.length = s.can.length
      ∧ ∀ q, ((s.digested p o).canP q).pend = (s.canP q).pend := by
  obtain ⟨hc, hp⟩ := captured_leaves s p o
  have hlen : (s.captured p o).2.can.length = s.can.length := by
    unfold State.captured
    split
    · rfl
    · split
      · exact can_length_canMod ..
      · rfl
  exact ⟨hc .regs (by decide), hc .tbl (by decide), hc .seq (by decide), hc .dev (by decide),
    (congrArg TwinSt.run (hc .twin (by decide)) :), hlen, hp⟩

theorem canRole_digested (s : State) (p o : Nat) : (s.digested p o).canRole p = s.canRole p := by
  obtain ⟨hregs, -, -, hdev, -, -⟩ := digested_leaves s p o
  unfold State.canRole State.mstate State.bootStep
  rw [bit_of_regs hregs, fld_of_regs hregs, fld_of_regs hregs, hdev, bit_of_regs hregs]

theorem refreshed_leaves (s : State) {p : Nat} (hp : p < 2) (o : Nat) :
    s.onlyIn (s.refreshed p o) [.regs] ∧ Near (fun a => ¬ canKept a) (fun _ => False) s (s.refreshed p o) := by
  unfold State.refreshed
  split
  · refine ⟨(canBump_keeps (Keeps.refl _ s) (List.Subset.refl _)).only, near_canBump (Near.refl _ _ s) (k := 0xC8) (j := 0xDC) rfl rfl ?_ ?_⟩
    · exact not_canKept hp (by decide) (by decide)
    · exact not_canKept hp (by decide) (by decide)
  · exact ⟨onlyIn_refl _ _, Near.refl _ _ s⟩

/-- CAN_TX of an object that is no defined transmit object, is stopped, or on a port in bus monitoring leaves nothing waiting. -/
theorem canTx_idles {s : State} {p o : Nat} (h : s.objDef p o = false ∨ s.objTx p o = false ∨ s.objFld p o 7 30 1 = 1 ∨ s.canRole p = 4) :
    (∀ q, ((s.canTx p o).canP q).pend = (s.canP q).pend) ∧ (s.canTx p o).tbl = s.tbl := by
  obtain ⟨-, htbl, -, -, -, -, hpend⟩ := digested_leaves s p o
  rw [canTx_eq, canRole_digested]
  split
  · exact ⟨fun _ => rfl, rfl⟩
  · next hc =>
    simp only [Bool.or_eq_true, Bool.not_eq_true', beq_iff_eq, not_or, Bool.not_eq_false] at hc
    obtain ⟨⟨hd, ht⟩, hs⟩ := hc
    have hrole : s.canRole p = 4 := by
      rcases h with h | h | h | h
      · rw [hd] at h; cases h
      · rw [ht] at h; cases h
      · exact absurd h hs
      · exact h
    rw [if_pos hrole]
    exact ⟨hpend, htbl⟩

/-- CAN_TX leaves the object pending with its data, since the instant it began to wait. -/
theorem canTx_pends {s : State} {p o : Nat} (hlen : p < s.can.length) (hp : p < 2) (hdef : s.objDef p o = true) (htx : s.objTx p o = true)
    (hstop : s.objFld p o 7 30 1 = 0) (hrole : s.canRole p ≠ 4) :
    (s.canTx p o).objFld p o 7 29 1 = 1
    ∧ ((s.canTx p o).canP p).pend = (o, (s.captured p o).1, (((s.canP p).pend.lookup o).map (·.2)).getD (s.instant s.issueNs))
        :: (s.canP p).pend.filter (fun e => e.1 != o) := by
  obtain ⟨hregs, htbl, hseq, -, hrun, hlen', hpend⟩ := digested_leaves s p o
  obtain ⟨x, hx⟩ : ∃ x, x = (s.digested p o).refreshed p o := ⟨_, rfl⟩
  rw [canTx_eq, canRole_digested, if_neg (by simp [hdef, htx, hstop]), if_neg hrole, ← hx]
  obtain ⟨hx1, hx2⟩ : (s.digested p o).onlyIn x [.regs] ∧ _ := hx ▸ refreshed_leaves _ hp o
  have hcan : x.can = (s.digested p o).can := hx1 .can (by decide)
  have hclock : SameClock s x :=
    ⟨fun a ha => (hx2.regs a (not_not_intro (by
      unfold canKept
      rcases ha with rfl | h | rfl
      · exact .inl rfl
      · exact .inr (.inr (.inr (.inr (.inl h))))
      · exact .inr (.inr (.inr (.inl rfl)))))).trans (by unfold State.rd; rw [hregs]), (congrArg TwinSt.run (hx1 .twin (by decide))).trans hrun⟩
  obtain ⟨y, hy⟩ : ∃ y, y = x.tset (ctab p 0) o 7 29 1 1 := ⟨_, rfl⟩
  have hbit : y.tfld (ctab p 0) o 7 29 1 = 1 := hy ▸ tfld_tset_self (by decide)
  have hycan : y.can = (s.digested p o).can := by rw [hy, can_tset, hcan]
  have hsince : (((x.canP p).pend.lookup o).map (·.2)).getD (x.instant x.issueNs) = (((s.canP p).pend.lookup o).map (·.2)).getD (s.instant s.issueNs) := by
    rw [canP_of_can hcan, hpend, hclock.instant, hclock.issueNs ((hx1 .seq (by decide)).trans hseq) ((hx1 .tbl (by decide)).trans htbl)]
  rw [← hy, hsince]
  refine ⟨hbit, ?_⟩
  rw [canP_canMod_self (by rw [hycan, hlen']; exact hlen), canP_of_can hycan]
  exact congrArg (fun l : List (Nat × List Byte × Nat × Nat) => _ :: l.filter (fun e => e.1 != o)) (hpend p)

end Sys2Proof.Machine
end

section
/-! ### Plant buses: the reference of a cycle -/

namespace Sys2Proof.Machine

/-! #### Stations leave the rest of their port -/

/-- The words of a plant bus's page beyond its event registers. -/
def portWord (a : Nat) : Prop := 0x14000 ≤ a ∧ a < 0x16000 ∧ 0x30 ≤ a % 0x1000

theorem not_portWord_of_evReg {pg a : Nat} (_hpg : pg = 0x30 ∨ pg = 0x14 ∨ pg = 0x15) (h : evReg pg a) : ¬ portWord a := by
  unfold evReg at h
  unfold portWord
  simp only [addrOf_eq, pageOf_eq] at h
  omega

theorem not_portWord_of_faultReg {a : Nat} (h : faultReg a = true) : ¬ portWord a := by
  unfold portWord
  simp only [faultReg, modeReg, Bool.or_eq_true, beq_iff_eq, pageOf_eq] at h
  omega

/-- What the work on stations leaves: the rest of each port, the module's other parts, and the words of the buses' pages. -/
structure BesideStations (q : Nat → Prop) (s t : State) : Prop where
  near : Near (fun a => ¬ portWord a) q s t
  base : ∀ {α : Type} (g : CanSt → α), (∀ c l, g { c with stn := l } = g c) → ∀ p, g (t.canP p) = g (s.canP p)
  length : t.can.length = s.can.length

theorem BesideStations.refl (q : Nat → Prop) (s : State) : BesideStations q s s := ⟨Near.refl _ _ s, fun _ _ _ => rfl, rfl⟩

theorem BesideStations.trans {q : Nat → Prop} {s t u : State} (h : BesideStations q s t) (h' : BesideStations q t u) : BesideStations q s u :=
  ⟨h.near.trans h'.near, fun g hg p => (h'.base g hg p).trans (h.base g hg p), h'.length.trans h.length⟩

theorem BesideStations.of_can {q : Nat → Prop} {s t : State} (h : Near (fun a => ¬ portWord a) q s t) (hc : t.can = s.can) : BesideStations q s t :=
  ⟨h, fun g _ p => congrArg g (canP_of_can hc p), congrArg List.length hc⟩

variable {q : Nat → Prop}

theorem near_fwPutsNext' {p : Nat → Prop} (hev : ∀ a, evReg 0x30 a → p a) (hf : ∀ a, faultReg a = true → p a)
    (hx : p 0x30044 ∧ p 0x3004C ∧ p Ctr.HLTH_XBAR.f.addr ∧ p Ctr.HLTH_XBAR.ovf.1) (hq : ∀ x, evTbl x → q x) (s : State) (eng n i : Nat)
    (its : List Item) : Near p q s (s.fwPutsNext eng n i its) := by
  obtain ⟨h1, h2, h3, h4⟩ := hx
  unfold State.fwPutsNext State.fwViol State.xbarViol
  exact near_ite' (near_enterFault (near_raiseEv (near_bump (near_wr (near_setF (Near.refl _ _ s) h1) h2) h3 h4) (by decide) hev hq) hf hq)
    (near_same (Near.refl _ _ s) (regs_mbxPutsNext ..) (tbl_mbxPutsNext ..))

theorem beside_stnMod (s : State) (p k : Nat) (f : StnSt → StnSt) : BesideStations q s (s.stnMod p k f) := by
  unfold State.stnMod
  exact ⟨near_same (Near.refl _ _ s) (regs_canMod ..) (tbl_canMod ..), fun g hg r => canP_canMod_keeps g (fun c => hg c _) r, can_length_canMod ..⟩

theorem beside_fwPutsNext (hq : ∀ x, evTbl x → q x) (s : State) (n i : Nat) (its : List Item) : BesideStations q s (s.fwPutsNext 10 n i its) :=
  .of_can (near_fwPutsNext' (fun _ => not_portWord_of_evReg (.inl rfl)) (fun _ => not_portWord_of_faultReg) (by unfold portWord; decide) hq ..)
    ((fwPutsNext_keeps (Keeps.refl _ s) (List.Subset.refl _)).only .can (by decide))

theorem beside_stnPublish (hq : ∀ x, evTbl x → q x) (s : State) (p k : Nat) : BesideStations q s (s.stnPublish p k) := by
  unfold State.stnPublish
  extract_lets st d v n its s1
  exact (beside_fwPutsNext hq ..).trans (beside_stnMod s1 ..)

theorem beside_tset {s : State} {tid i w lo n v : Nat} (h : q (tkeyTid (tkey tid i w))) : BesideStations q s (s.tset tid i w lo n v) :=
  .of_can (near_tset (Near.refl _ _ s) h) (can_tset ..)

theorem beside_raiseEv (hq : ∀ x, evTbl x → q x) (s : State) {p : Nat} (hp : p < 2) (b : Nat) : BesideStations q s (s.raiseEv (canPage p) b) :=
  .of_can (near_raiseEv (Near.refl _ _ s) (by unfold canPage; omega) (fun _ => not_portWord_of_evReg (by unfold canPage; omega)) hq)
    (raiseEv_only s _ b .can (by decide))

/-- The evaluation of a station on a cycle leaves the rest of its port. -/
theorem beside_stnEval (hq : ∀ x, q x) (s : State) {p : Nat} (hp : p < 2) (k : Nat) : BesideStations q s (s.stnEval p k) := by
  have hset : ∀ (u : State) (v : Nat), BesideStations q u (u.stnSet p k v) := fun u v => beside_tset (hq _)
  unfold State.stnEval
  extract_lets st good miss run s1 s2
  split
  · exact beside_stnPublish (fun x _ => hq x) s p k
  · have h1 : BesideStations q s s1 := (beside_tset (hq _)).trans (beside_tset (hq _))
    have h2 : BesideStations q s1 s2 := by
      unfold s2
      split
      · split
        · split
          · exact hset _ _
          · exact .refl _ _
        · split
          · exact hset _ _
          · split
            · exact hset _ _
            · split
              · split
                · exact (hset _ _).trans (beside_raiseEv (fun x _ => hq x) _ hp 6)
                · exact .refl _ _
              · exact .refl _ _
      · split
        · exact hset _ _
        · split
          · exact hset _ _
          · exact .refl _ _
    exact (h1.trans h2).trans (beside_stnPublish (fun x _ => hq x) s2 p k)

theorem beside_foldl {α : Type} {f : State → α → State} (hf : ∀ u e, BesideStations q u (f u e)) (l : List α) (s : State) :
    BesideStations q s (l.foldl f s) := by
  induction l generalizing s with
  | nil => exact .refl _ _
  | cons e l ih => exact (hf s e).trans (ih _)

/-! #### CAN_REF (R261) -/

theorem canRefLost_shows {s : State} {p : Nat} (hlen : p < s.can.length) (hp : p < 2) :
    ((s.canRefLost p).canP p).ref = none
    ∧ ((s.canP p).ref = none → s.canRefLost p = s)
    ∧ ((s.canP p).ref ≠ none → (s.canRefLost p).rd (0x14074 + 0x1000 * p) = 0xFFFFFFFF ∧ ((s.canRefLost p).canP p).refDly = none
        ∧ (s.canRefLost p).fld (Ctr.CANC_REF_LOST.shift p).f = min (2 ^ 32 - 1) (s.fld (Ctr.CANC_REF_LOST.shift p).f + 1))
    ∧ (∀ a, a < 0x14000 ∨ a = 0x14000 + 0x1000 * p + 0x40 → (s.canRefLost p).rd a = s.rd a)
    ∧ ((s.canRefLost p).canP p).sleep = (s.canP p).sleep ∧ (s.canRefLost p).can.length = s.can.length
    ∧ s.onlyIn (s.canRefLost p) [.regs, .can] := by
  have honly : s.onlyIn (s.canRefLost p) [.regs, .can] := (canRefLost_keeps (Keeps.refl _ s) (List.Subset.refl _)).only
  by_cases hr : (s.canP p).ref = none
  · have hs : s.canRefLost p = s := if_neg (by simp [hr])
    rw [hs]
    exact ⟨hr, fun _ => rfl, fun h => absurd hr h, fun _ _ => rfl, rfl, rfl, onlyIn_refl _ _⟩
  · obtain ⟨x, hx⟩ : ∃ x, x = (s.canBump p .CANC_REF_LOST).wr (cfld p 0x74 0 32).addr 0xFFFFFFFF := ⟨_, rfl⟩
    have hs : s.canRefLost p = x.canMod p (fun c => { c with ref := none, refDly := none }) := by
      rw [hx]
      exact if_pos (Option.isSome_iff_ne_none.2 hr)
    have hxcan : x.can = s.can := by rw [hx, can_wr]; exact (canBump_keeps (Keeps.refl [.regs] s) (List.Subset.refl _)).only .can (by decide)
    have hlen' : p < x.can.length := by rw [hxcan]; exact hlen
    rw [hs] at honly ⊢
    refine ⟨by rw [canP_canMod_self hlen'], fun h => absurd h hr, fun _ => ⟨?_, by rw [canP_canMod_self hlen'], ?_⟩, fun a ha => ?_, ?_, ?_, honly⟩
    · rw [rd_canMod, hx, show 0x14074 + 0x1000 * p = (cfld p 0x74 0 32).addr by simp only [cfld]; omega]
      exact rd_wr_self
    · rw [fld_canMod, hx]
      refine (fld_wr_apart ?_).trans (fld_bump_stays rfl (show 0 + 32 ≤ 32 by decide) (.inl ?_))
      · show 0x140D8 + 0x1000 * p ≠ 0x14000 + 0x1000 * p + 0x74
        omega
      · show 0x140D8 + 0x1000 * p ≠ 0x140DC + 0x1000 * p
        omega
    · rw [rd_canMod, hx]
      have hn : Near (fun b => b = 0x14000 + 0x1000 * p + 0xD8 ∨ b = 0x14000 + 0x1000 * p + 0xDC) (fun _ => False) s (s.canBump p .CANC_REF_LOST) :=
        near_canBump (Near.refl _ _ s) rfl rfl (.inl rfl) (.inr rfl)
      refine (rd_wr_apart (by simp only [cfld]; omega)).trans (hn.regs a ?_)
      omega
    · rw [canP_canMod_self hlen', canP_of_can hxcan]
    · rw [can_length_canMod, hxcan]

/-- CAN_REF: a reference that has not gone out is lost, the next one waits where the port queues it, and the stations leave both. -/
theorem canRef_shows {s : State} {p : Nat} (hlen : p < s.can.length) (hp : p < 2) :
    (((s.canRef p).canP p).ref = if s.bit (cfld p 0x40 4 1) && s.canRole p == 2 && !(s.canP p).sleep then
        some ((s.canRefLost p).refBytes p, (s.nowSec % 2 ^ 32, s.nowNs), s.instant s.issueNs) else none)
    ∧ ((s.canP p).ref ≠ none → (s.canRef p).rd (0x14074 + 0x1000 * p) = 0xFFFFFFFF ∧ ((s.canRef p).canP p).refDly = none
        ∧ (s.canRef p).fld (Ctr.CANC_REF_LOST.shift p).f = min (2 ^ 32 - 1) (s.fld (Ctr.CANC_REF_LOST.shift p).f + 1))
    ∧ ((s.canP p).ref = none → (s.canP p).sleep = true → s.canRef p = s) := by
  obtain ⟨hnone, hsame, hlost, hrd, hsleep, hlen', honly⟩ := canRefLost_shows hlen hp
  obtain ⟨u, hu⟩ : ∃ u, u = s.canRefLost p := ⟨_, rfl⟩
  rw [← hu] at hnone hsame hlost hrd hsleep hlen' honly ⊢
  have htwin : u.twin = s.twin := honly .twin (by decide)
  have hclock : SameClock s u := ⟨fun a ha => hrd a (.inl (by
    rcases ha with rfl | h | rfl
    · decide
    · rw [pageOf_eq] at h
      omega
    · decide)), congrArg TwinSt.run htwin⟩
  have hcond : (u.bit (cfld p 0x40 4 1) && u.canRole p == 2 && !(u.canP p).sleep) = (s.bit (cfld p 0x40 4 1) && s.canRole p == 2 && !(s.canP p).sleep) := by
    have h40 := hrd _ (.inr rfl)
    rw [bit_of_rd (f := cfld p 0x40 4 1) h40, hsleep,
      canRole_of (hrd 0x0054 (.inl (by decide))) h40 (congrArg DevSt.recovery (honly .dev (by decide)) :)]
  obtain ⟨v, hv⟩ : ∃ v, v = if u.bit (cfld p 0x40 4 1) && u.canRole p == 2 && !(u.canP p).sleep then u.canQueueRef p else u := ⟨_, rfl⟩
  have he : s.canRef p = if (v.canP p).sleep then v else (v.stations p).foldl (fun a t => a.stnEval p t) v := by
    rw [hv, hu]
    rfl
  have hbeside : BesideStations (fun _ => True) v (s.canRef p) := by
    rw [he]
    split
    · exact .refl _ _
    · exact beside_foldl (fun w k => beside_stnEval (fun _ => trivial) w hp k) _ _
  have hq : ∀ {α : Type} (g : CanSt → α), (∀ c r, g { c with ref := r } = g c) → g (v.canP p) = g (u.canP p) := fun g hg => by
    rw [hv]
    split
    · exact canP_canMod_keeps g (fun c => hg c _) p
    · rfl
  have hvregs : v.regs = u.regs := by
    rw [hv]
    split <;> rfl
  have hpw : ∀ k, 0x30 ≤ k → k < 0x1000 → (s.canRef p).rd (0x14000 + 0x1000 * p + k) = u.rd (0x14000 + 0x1000 * p + k) := fun k h1 h2 =>
    (hbeside.near.regs _ (by unfold portWord; omega)).trans (by unfold State.rd; rw [hvregs])
  refine ⟨?_, fun hne => ?_, fun h0 hs => ?_⟩
  · rw [hbeside.base CanSt.ref (fun _ _ => rfl) p, hv, hcond]
    split
    · rw [← hclock.nowSec, ← hclock.nowNs, ← hclock.issueNs (honly .seq (by decide)) (honly .tbl (by decide)), ← hclock.instant]
      exact congrArg CanSt.ref (canP_canMod_self (by rw [hlen']; exact hlen) _)
    · exact hnone
  · obtain ⟨h1, h2, h3⟩ := hlost hne
    refine ⟨?_, ?_, ?_⟩
    · rw [← h1, show 0x14074 + 0x1000 * p = 0x14000 + 0x1000 * p + 0x74 by omega]
      exact hpw 0x74 (by decide) (by decide)
    · rw [hbeside.base CanSt.refDly (fun _ _ => rfl) p, hq CanSt.refDly (fun _ _ => rfl), h2]
    · rw [← h3]
      refine fld_of_rd ?_
      rw [show (Ctr.CANC_REF_LOST.shift p).f.addr = 0x14000 + 0x1000 * p + 0xD8 by show 0x140D8 + 0x1000 * p = _; omega]
      exact hpw 0xD8 (by decide) (by decide)
  · have hus : u = s := hsame h0
    have hvs : v = s := by
      rw [hv, hcond, hs, hus]
      simp
    rw [he, hvs, if_pos hs]

end Sys2Proof.Machine
end

section
/-! ### Plant buses: sending -/

namespace Sys2Proof.Machine

/-- The words of a port that its sending changes. -/
def outReg (p a : Nat) : Prop :=
  a = 0x14000 + 0x1000 * p + 0x90 ∨ a = 0x14000 + 0x1000 * p + 0x60 ∨ a = 0x14000 + 0x1000 * p + 0x4C

theorem near_canConfine {P Q : Nat → Prop} {s t : State} {p : Nat} (h : Near P Q s t) (hp : P (0x14000 + 0x1000 * p + 0x4C)) :
    Near P Q s (t.canConfine p) := by
  unfold State.canConfine
  extract_lets a b s1
  exact near_ite' (near_setF (near_setB h hp) hp) (near_setB h hp)

/-- The mode of a port is what it was after words and parts of it that do not decide on it have changed. -/
theorem SameMode.of_near {P Q : Nat → Prop} {p : Nat} {s t : State} (h : Near P Q s t)
    (hp : ∀ a, a = 0x0054 ∨ a = 0x2040 ∨ a = 0x3040 ∨ a = 0x14000 + 0x1000 * p + 0x40 → ¬ P a) (hconf : t.fld (canConf p) = s.fld (canConf p))
    (hdev : t.dev.recovery = s.dev.recovery) (hsleep : (t.canP p).sleep = (s.canP p).sleep) (hinteg : (t.canP p).integ = (s.canP p).integ) :
    SameMode p s t := ⟨fun a ha => h.regs a (hp a ha), hconf, hdev, hsleep, hinteg⟩

theorem SameMode.trans {p : Nat} {s t u : State} (h : SameMode p s t) (h' : SameMode p t u) : SameMode p s u :=
  ⟨fun a ha => (h'.rd a ha).trans (h.rd a ha), h'.conf.trans h.conf, h'.dev.trans h.dev, h'.sleep.trans h.sleep, h'.integ.trans h.integ⟩

theorem sameMode_canMod (s : State) (p : Nat) {f : CanSt → CanSt} (h1 : ∀ c, (f c).sleep = c.sleep) (h2 : ∀ c, (f c).integ = c.integ) :
    SameMode p s (s.canMod p f) :=
  ⟨fun _ _ => rd_canMod .., fld_canMod .., congrArg DevSt.recovery (dev_canMod ..), canP_canMod_keeps CanSt.sleep h1 p, canP_canMod_keeps CanSt.integ h2 p⟩

theorem sameMode_canBumpW (s : State) {p k : Nat} (hp : p < 2) {c : Ctr} (ek : c.f.addr = 0x14000 + k) (hw : c.kind = .W) (h1 : k ≠ 0x40)
    (h2 : k ≠ 0x4C) (hk : k < 0x1000) : SameMode p s (s.canBump p c) := by
  have hn : Near (fun a => a = 0x14000 + 0x1000 * p + k) (fun _ => False) s (s.canBump p c) := near_canBumpW (Near.refl _ _ s) ek hw rfl
  have ho := (canBump_keeps (c := c) (p := p) (Keeps.refl [.regs] s) (List.Subset.refl _)).only
  exact .of_near hn (by omega) (fld_of_rd (hn.regs _ (by rw [canConf, cfld_addr]; omega))) (congrArg DevSt.recovery (ho .dev (by decide)))
    (congrArg CanSt.sleep (canP_of_can (ho .can (by decide)) p)) (congrArg CanSt.integ (canP_of_can (ho .can (by decide)) p))

/-- What leaves a port: outside internal loopback the frame reaches the bus; in loopback nothing does. -/
theorem canOut_shows {s : State} {p : Nat} (hp : p < 2) (item : Nat) (ide fdf brs : Bool) (id : Nat) (d : List Byte) (sof : Nat × Nat) :
    (s.canLoop p = true → (s.canOut p item ide fdf brs id d sof).sent = s.sent)
    ∧ (s.canLoop p = false →
        (s.canOut p item ide fdf brs id d sof).sent = s.sent ++ [.can p item ide fdf brs (fdf && s.fld (canConf p) == 1) id d]
        ∧ Near (outReg p) (fun _ => False) s (s.canOut p item ide fdf brs id d sof)
        ∧ ∀ {α : Type} (g : CanSt → α), (∀ c, g { c with tail := none } = g c) → ∀ q, g ((s.canOut p item ide fdf brs id d sof).canP q) = g (s.canP q)) := by
  obtain ⟨u, hu⟩ : ∃ u, u = s.canBump p .CANC_TX_OK := ⟨_, rfl⟩
  obtain ⟨v, hv⟩ : ∃ v, v = u.tailEnd p := ⟨_, rfl⟩
  have hum : SameMode p s u := hu ▸ sameMode_canBumpW s hp (c := .CANC_TX_OK) (k := 0x90) rfl rfl (by decide) (by decide) (by decide)
  have hvm : SameMode p s v := hum.trans (hv ▸ sameMode_canMod u p (fun _ => rfl) (fun _ => rfl))
  have hun : Near (outReg p) (fun _ => False) s u := hu ▸ near_canBumpW (Near.refl _ _ s) (k := 0x90) rfl rfl (.inl rfl)
  have huo : s.onlyIn u [.regs] := hu ▸ (canBump_keeps (Keeps.refl [.regs] s) (List.Subset.refl _)).only
  have hsent : v.sent = s.sent := by
    rw [hv]
    exact (sent_canMod ..).trans (huo .sent (by decide))
  have he : s.canOut p item ide fdf brs id d sof = if v.canLoop p then
      (v.canRxOk p 3).canObjRx { port := p, ide := ide, fdf := fdf, brs := brs, esi := false, remote := false, id := id, data := d,
                                 sofSec := sof.1, sofNs := sof.2 }
      else ((v.setF (cfld p 0x60 16 9) (v.fld (cfld p 0x60 16 9) - 1)).canConfine p).emit (.can p item ide fdf brs (fdf && v.fld (canConf p) == 1) id d) := by
    rw [hv, hu]
    rfl
  rw [he, hvm.loop]
  constructor
  · intro hl
    rw [if_pos hl]
    exact ((canObjRx_keeps (Keeps.refl _ _) (List.Subset.refl _)).only .sent (by decide)).trans
      (((canRxOk_keeps (Keeps.refl _ _) (List.Subset.refl _)).only .sent (by decide)).trans hsent)
  · intro hl
    rw [if_neg (by rw [hl]; decide)]
    obtain ⟨w, hw⟩ : ∃ w, w = (v.setF (cfld p 0x60 16 9) (v.fld (cfld p 0x60 16 9) - 1)).canConfine p := ⟨_, rfl⟩
    rw [← hw, hvm.conf]
    have hwo : v.onlyIn w [.regs] := by
      rw [hw]
      exact (canConfine_keeps (setF_keeps (Keeps.refl _ v) (List.Subset.refl _)) (List.Subset.refl _)).only
    have hwn : Near (outReg p) (fun _ => False) s w := by
      rw [hw]
      refine near_canConfine (near_setF (near_same hun ?_ ?_) (.inr (.inl rfl))) (.inr (.inr rfl))
      · rw [hv]
        exact regs_canMod ..
      · rw [hv]
        exact tbl_canMod ..
    refine ⟨congrArg (· ++ _) ((hwo .sent (by decide)).trans hsent), near_same hwn rfl rfl, fun g hg q => ?_⟩
    rw [show (w.emit _).canP q = w.canP q from rfl, canP_of_can (hwo .can (by decide)), hv]
    exact (canP_canMod_keeps g hg q).trans (congrArg g (canP_of_can (huo .can (by decide)) q))

/-- The port with its privileged message taken. -/
def State.privTaken (s : State) (p : Nat) (rest : List PrivMsg) (slow : Bool) : State :=
  s.canMod p (fun c => { c with priv := rest, privRun := 0, latBad := slow })

/-- The port with its reference taken, `d` after the start of its cycle. -/
def State.refTaken (s : State) (p : Nat) (d : Int) : State :=
  ((s.canMod p (fun c => { c with ref := none, refDly := some d.toNat, refRun := 0, first := false })).wr (cfld p 0x74 0 32).addr (ofInt d)).canBump p
    .CANC_REF

/-- The record of an object that has been sent. -/
def State.objNoted (s : State) (p o : Nat) (sof : Nat × Nat) : State :=
  ((((s.canWithdraw p o).twr (ctab p 0) o 4 ((s.canWithdraw p o).trd (ctab p 0) o 4 + 1)).twr (ctab p 0) o 5 (BitVec.ofNat 32 sof.1)).twr
    (ctab p 0) o 6 (BitVec.ofNat 32 sof.2)).tset (ctab p 0) o 7 0 2 0

/-- The same with the transmitter delay measured where the frame switches its bit rate. -/
def State.objTaken (s : State) (p o : Nat) (sof : Nat × Nat) (edges : List Nat) : State :=
  if (s.objNoted p o sof).objFld p o 0 28 1 == 1 && (s.objNoted p o sof).objFld p o 0 27 1 == 1 && (s.objNoted p o sof).bit (cfld p 0x58 31 1) then
    (s.objNoted p o sof).canTdc p edges
  else s.objNoted p o sof

section
variable {s : State} {p : Nat} {sof : Nat × Nat} {edges : List Nat} {ns : Nat}

theorem canSent_idles {item : Nat} (h : s.canSendsAt p sof = false ∨ s.canNext p item sof = false) : s.canSent p item sof edges ns = s := by
  unfold State.canSent
  exact if_pos (by rcases h with h | h <;> simp [h])

theorem canSent_priv (hp : p < 2) (h1 : s.canSendsAt p sof = true) (h2 : s.canNext p 65 sof = true) {m : PrivMsg} {rest : List PrivMsg}
    (hm : (s.canP p).priv = m :: rest) : ∃ slow, s.canSent p 65 sof edges ns = (s.privTaken p rest slow).canOut p 65 false true false 0 m.data sof := by
  refine ⟨decide (1000 * s.fld ⟨0x2605C, 16 * p, 16⟩ < s.fno * 1000000 + ns - m.at_), ?_⟩
  unfold State.canSent
  simp only [show decide (2 ≤ p) = false from decide_eq_false (by omega), h1, h2, hm, Bool.not_true, Bool.or_false, Bool.false_eq_true, if_false, if_true]
  rfl

theorem canSent_ref (hp : p < 2) (h1 : s.canSendsAt p sof = true) (h2 : s.canNext p 64 sof = true) {b : List Byte} {start : Nat × Nat} {w : Nat × Nat}
    (hr : (s.canP p).ref = some (b, start, w)) : s.canSent p 64 sof edges ns =
      (s.refTaken p (ltDiff start sof)).canOut p 64 (s.bit (cfld p 0x6C 31 1)) (!s.bit (cfld p 0x40 5 1)) false (s.fld (cfld p 0x6C 0 29)) b sof := by
  obtain ⟨u, hu⟩ : ∃ u, u = s.canMod p (fun c => { c with ref := none, refDly := some (ltDiff start sof).toNat, refRun := 0, first := false }) := ⟨_, rfl⟩
  have hbit : ∀ off lo, off ≠ 0x74 → (u.wr (cfld p 0x74 0 32).addr (ofInt (ltDiff start sof))).bit (cfld p off lo 1) = s.bit (cfld p off lo 1) :=
    fun off lo h => by
      rw [bit_wr_apart (by simp only [cfld]; omega), hu]
      exact bit_canMod ..
  have hfld : (u.wr (cfld p 0x74 0 32).addr (ofInt (ltDiff start sof))).fld (cfld p 0x6C 0 29) = s.fld (cfld p 0x6C 0 29) := by
    rw [fld_wr_apart (by simp only [cfld]; omega), hu]
    exact fld_canMod ..
  unfold State.canSent State.refTaken
  simp only [show decide (2 ≤ p) = false from decide_eq_false (by omega), h1, h2, hr, Bool.not_true, Bool.or_false, Bool.false_eq_true, if_false, if_true,
    if_neg (show (64 : Nat) ≠ 65 by decide), ← hu, hbit 0x6C 31 (by decide), hbit 0x40 5 (by decide), hfld]

theorem canSent_obj (hp : p < 2) (h1 : s.canSendsAt p sof = true) {item : Nat} (h2 : s.canNext p item sof = true) (hi : item ≠ 64 ∧ item ≠ 65)
    {d : List Byte} {w : Nat × Nat} (hl : (s.canP p).pend.lookup item = some (d, w)) : s.canSent p item sof edges ns =
      (s.objTaken p item sof edges).canOut p item ((s.objTaken p item sof edges).objFld p item 0 29 1 == 1)
        ((s.objNoted p item sof).objFld p item 0 28 1 == 1) ((s.objNoted p item sof).objFld p item 0 28 1 == 1 && (s.objNoted p item sof).objFld p item 0 27 1 == 1)
        ((s.objTaken p item sof edges).objFld p item 1 0 29) d sof := by
  unfold State.canSent
  simp only [show decide (2 ≤ p) = false from decide_eq_false (by omega), h1, h2, hl, Bool.not_true, Bool.or_false, Bool.false_eq_true, if_false, if_neg hi.1,
    if_neg hi.2]
  rfl

/-! What the preparation of a frame leaves. -/

theorem sameMode_privTaken (s : State) (p : Nat) (rest : List PrivMsg) (slow : Bool) : SameMode p s (s.privTaken p rest slow) :=
  sameMode_canMod s p (fun _ => rfl) (fun _ => rfl)

theorem refTaken_shows (hp : p < 2) (d : Int) :
    SameMode p s (s.refTaken p d) ∧ (s.refTaken p d).sent = s.sent ∧ (s.refTaken p d).rd (0x14000 + 0x1000 * p + 0x74) = ofInt d
      ∧ (p < s.can.length → ((s.refTaken p d).canP p).ref = none ∧ ((s.refTaken p d).canP p).refDly = some d.toNat) := by
  obtain ⟨u, hu⟩ : ∃ u, u = s.canMod p (fun c => { c with ref := none, refDly := some d.toNat, refRun := 0, first := false }) := ⟨_, rfl⟩
  obtain ⟨v, hv⟩ : ∃ v, v = u.wr (cfld p 0x74 0 32).addr (ofInt d) := ⟨_, rfl⟩
  have he : s.refTaken p d = v.canBump p .CANC_REF := by
    rw [hv, hu]
    rfl
  have huv : SameMode p u v := by
    have hn : Near (fun a => a = 0x14000 + 0x1000 * p + 0x74) (fun _ => False) u v := hv ▸ near_wr (Near.refl _ _ u) rfl
    refine .of_near hn (fun a ha => by omega) (fld_of_rd (hn.regs _ (by rw [canConf, cfld_addr]; omega))) ?_ ?_ ?_ <;> rw [hv] <;> rfl
  have hvo : v.onlyIn (v.canBump p .CANC_REF) [.regs] := (canBump_keeps (Keeps.refl [.regs] v) (List.Subset.refl _)).only
  have hcan : (s.refTaken p d).can = u.can := by
    rw [he, hvo .can (by decide), hv, can_wr]
  rw [he] at hcan ⊢
  refine ⟨((hu ▸ sameMode_canMod s p (fun _ => rfl) (fun _ => rfl) : SameMode p s u).trans huv).trans
    (sameMode_canBumpW v hp (c := .CANC_REF) (k := 0x70) rfl rfl (by decide) (by decide) (by decide)), ?_, ?_, fun hlen => ?_⟩
  · rw [hvo .sent (by decide), hv, hu, sent_wr, sent_canMod]
  · have hn : Near (fun a => a = 0x14000 + 0x1000 * p + 0x70) (fun _ => False) v (v.canBump p .CANC_REF) :=
      near_canBumpW (Near.refl _ _ v) rfl rfl rfl
    rw [hn.regs _ (by omega), hv]
    exact rd_wr_self
  · rw [canP_of_can hcan, hu, canP_canMod_self hlen]
    exact ⟨rfl, rfl⟩

theorem objNoted_table (s : State) (p o : Nat) (sof : Nat × Nat) :
    (s.objNoted p o sof).trd (ctab p 0) o 4 = s.trd (ctab p 0) o 4 + 1 ∧ (s.objNoted p o sof).trd (ctab p 0) o 5 = BitVec.ofNat 32 sof.1
      ∧ (s.objNoted p o sof).trd (ctab p 0) o 6 = BitVec.ofNat 32 sof.2 ∧ (s.objNoted p o sof).objFld p o 7 29 1 = 0
      ∧ ∀ w lo n, w < 4 → (s.objNoted p o sof).objFld p o w lo n = s.objFld p o w lo n := by
  obtain ⟨u, hu⟩ : ∃ u, u = s.canWithdraw p o := ⟨_, rfl⟩
  have h4 : ∀ w, w ≠ 7 → u.trd (ctab p 0) o w = s.trd (ctab p 0) o w := fun w hw => by
    rw [hu]
    unfold State.canWithdraw State.tset
    exact (trd_canMod ..).trans (trd_twr_word hw)
  have h7 : u.tfld (ctab p 0) o 7 29 1 = 0 := by
    rw [hu]
    unfold State.canWithdraw
    exact (tfld_canMod ..).trans (tfld_tset_self (by decide))
  have he : s.objNoted p o sof = (((u.twr (ctab p 0) o 4 (u.trd (ctab p 0) o 4 + 1)).twr (ctab p 0) o 5 (BitVec.ofNat 32 sof.1)).twr
      (ctab p 0) o 6 (BitVec.ofNat 32 sof.2)).tset (ctab p 0) o 7 0 2 0 := by
    rw [hu]
    rfl
  rw [he]
  unfold State.objFld
  refine ⟨?_, ?_, ?_, ?_, fun w lo n hw => ?_⟩
  · unfold State.tset
    simp (disch := decide) only [trd_twr_word, trd_twr_self, h4]
  · unfold State.tset
    simp (disch := decide) only [trd_twr_word, trd_twr_self]
  · unfold State.tset
    simp (disch := decide) only [trd_twr_word, trd_twr_self]
  · rw [tfld_tset_apart (by decide), tfld_twr_word (by decide), tfld_twr_word (by decide), tfld_twr_word (by decide), h7]
  · rw [tfld_tset_apart (.inl (by omega)), tfld_twr_word (by omega), tfld_twr_word (by omega), tfld_twr_word (by omega)]
    unfold State.tfld
    rw [h4 w (by omega)]

theorem objNoted_leaves (s : State) (p o : Nat) (sof : Nat × Nat) :
    s.onlyIn (s.objNoted p o sof) [.tbl, .can] ∧ (s.objNoted p o sof).can = (s.canMod p (fun c => { c with pend := c.pend.filter (fun e => e.1 != o) })).can := by
  unfold State.objNoted
  refine ⟨(tset_keeps (twr_keeps (twr_keeps (twr_keeps (canWithdraw_keeps (Keeps.refl _ s) (List.Subset.refl _)) (by decide)) (by decide)) (by decide))
    (by decide)).only, ?_⟩
  rw [can_tset, can_twr, can_twr, can_twr]
  unfold State.canWithdraw State.canMod
  rw [can_tset]

theorem objTaken_shows (s : State) {p : Nat} (o : Nat) (sof : Nat × Nat) (edges : List Nat) :
    SameMode p s (s.objTaken p o sof edges) ∧ (s.objTaken p o sof edges).sent = s.sent
      ∧ (s.objTaken p o sof edges).tbl = (s.objNoted p o sof).tbl
      ∧ (s.objTaken p o sof edges).can = (s.canMod p (fun c => { c with pend := c.pend.filter (fun e => e.1 != o) })).can := by
  obtain ⟨honly, hcan⟩ := objNoted_leaves s p o sof
  obtain ⟨u, hu⟩ : ∃ u, u = s.objNoted p o sof := ⟨_, rfl⟩
  rw [← hu] at honly hcan
  have hum : SameMode p s u := by
    have hr : u.regs = s.regs := honly .regs (by decide)
    have hk : ∀ {α : Type} (g : CanSt → α), (∀ c l, g { c with pend := l } = g c) → g (u.canP p) = g (s.canP p) := fun g hg => by
      rw [canP_of_can hcan]
      exact canP_canMod_keeps g (fun c => hg c _) p
    exact ⟨fun a _ => by unfold State.rd; rw [hr], fld_of_regs hr _, (congrArg DevSt.recovery (honly .dev (by decide)) :), hk CanSt.sleep fun _ _ => rfl,
      hk CanSt.integ fun _ _ => rfl⟩
  have htdc : SameMode p u (u.canTdc p edges) ∧ u.onlyIn (u.canTdc p edges) [.regs] := by
    have ho : u.onlyIn (u.canTdc p edges) [.regs] := (canTdc_keeps (Keeps.refl _ u) (List.Subset.refl _)).only
    refine ⟨⟨fun a ha => ?_, ?_, congrArg DevSt.recovery (ho .dev (by decide)), congrArg CanSt.sleep (canP_of_can (ho .can (by decide)) p),
      congrArg CanSt.integ (canP_of_can (ho .can (by decide)) p)⟩, ho⟩
    · unfold State.canTdc
      split
      · rfl
      · exact (rd_setB_apart (by rw [cfld_addr]; omega)).trans (rd_setF_apart (by rw [cfld_addr]; omega))
    · unfold State.canTdc
      split
      · rfl
      · exact (fld_setB_apart (.inr (.inr (show 5 + 2 ≤ 11 by decide)))).trans (fld_setF_apart (.inl (by rw [canConf, cfld_addr, cfld_addr]; omega)))
  unfold State.objTaken
  rw [← hu]
  split
  · obtain ⟨hm, ho⟩ := htdc
    exact ⟨hum.trans hm, (ho .sent (by decide)).trans (honly .sent (by decide)), ho .tbl (by decide), (ho .can (by decide)).trans hcan⟩
  · exact ⟨hum, honly .sent (by decide), rfl, hcan⟩

end

end Sys2Proof.Machine
end

section
/-! ### Plant buses: receiving -/

namespace Sys2Proof.Machine

/-- The words of a port that a reception without error changes. -/
def rxReg (p a : Nat) : Prop :=
  a = 0x14000 + 0x1000 * p + 0x94 ∨ a = 0x14000 + 0x1000 * p + 0x60 ∨ a = 0x14000 + 0x1000 * p + 0x4C

theorem near_canRxOk (s : State) (p m : Nat) : Near (rxReg p) (fun _ => False) s (s.canRxOk p m) := by
  unfold State.canRxOk
  extract_lets s1 r
  have h1 : Near (rxReg p) (fun _ => False) s s1 := near_canBumpW (Near.refl _ _ s) (k := 0x94) rfl rfl (.inl rfl)
  have h60 : ∀ v, Near (rxReg p) (fun _ => False) s (s1.setF (cfld p 0x60 0 8) v) := fun v => near_setF h1 (.inr (.inl rfl))
  have hfree : ∀ u : State, Near (rxReg p) (fun _ => False) s u → Near (rxReg p) (fun _ => False) s u.useFree := fun u h =>
    near_same h (regs_useFree u) (tbl_useFree u)
  split
  · exact h1
  · split
    · exact h1
    · split
      · exact near_canConfine (h60 _) (.inr (.inr rfl))
      · exact near_canConfine (hfree _ (h60 _)) (.inr (.inr rfl))

/-- The port has counted a frame without error. -/
def State.received (s : State) (f : CanFrame) : State :=
  (s.canRxOk f.port (s.canModeAt f.port (f.sofSec, f.sofNs))).canMod f.port (fun c => { c with suspect := c.suspect.filter (fun e => e.1 != f.id) })

section
variable {s : State} {f : CanFrame}

theorem received_leaves (s : State) (f : CanFrame) :
    s.onlyIn (s.received f) [.regs, .free, .can] ∧ Near (rxReg f.port) (fun _ => False) s (s.received f)
      ∧ (∀ {α : Type} (g : CanSt → α), (∀ c l, g { c with suspect := l } = g c) → ∀ q, g ((s.received f).canP q) = g (s.canP q))
      ∧ (s.received f).can.length = s.can.length := by
  have ho : s.onlyIn (s.canRxOk f.port (s.canModeAt f.port (f.sofSec, f.sofNs))) [.regs, .free] :=
    (canRxOk_keeps (Keeps.refl _ s) (List.Subset.refl _)).only
  refine ⟨(canMod_keeps (canRxOk_keeps (Keeps.refl _ s) (by decide)) (by decide)).only, near_same (near_canRxOk ..) (regs_canMod ..) (tbl_canMod ..),
    fun g hg q => ?_, ?_⟩
  · rw [← canP_of_can (ho .can (by decide))]
    exact canP_canMod_keeps g (fun c => hg c _) q
  · exact (can_length_canMod ..).trans (congrArg List.length (ho .can (by decide)))

theorem rd_received {k : Nat} (hk : k ≠ 0x94 ∧ k ≠ 0x60 ∧ k ≠ 0x4C) :
    (s.received f).rd (0x14000 + 0x1000 * f.port + k) = s.rd (0x14000 + 0x1000 * f.port + k) :=
  (received_leaves s f).2.1.regs _ (by unfold rxReg; omega)

theorem canRx_deaf {k : State → State} (h : 2 ≤ f.port ∨ s.canHears f.port (f.sofSec, f.sofNs) = false) : s.canRx f k = s := by
  refine if_pos ?_
  rcases h with h | h
  · simp [h]
  · simp [h]

theorem canRx_heard {k : State → State} (hp : f.port < 2) (h : s.canHears f.port (f.sofSec, f.sofNs) = true) :
    s.canRx f k = (s.canTake f (s.canModeAt f.port (f.sofSec, f.sofNs)) k).tailEnd f.port := by
  refine if_neg ?_
  simp [h, show ¬ 2 ≤ f.port by omega]

theorem canTake_noFd {k : State → State} {m : Nat} (h1 : f.fdf = true) (h2 : s.bit (cfld f.port 0x40 6 1) = false) :
    s.canTake f m k = s.canNoFd f.port m f.id := if_pos (by simp [h1, h2])

theorem canTake_remote {k : State → State} (h1 : f.fdf = false ∨ s.bit (cfld f.port 0x40 6 1) = true) (hr : f.remote = true) :
    s.canTake f (s.canModeAt f.port (f.sofSec, f.sofNs)) k = (s.received f).canBump f.port .CANC_RX_REMOTE := by
  refine (if_neg ?_).trans (if_pos hr)
  rcases h1 with h | h <;> simp [h]

/-- What follows a data frame that the port takes up acts on the state that has counted it. -/
theorem canTake_takes {k : State → State} (h : s.canTakes f) : s.canTake f (s.canModeAt f.port (f.sofSec, f.sofNs)) k = k (s.received f) := by
  obtain ⟨-, -, hfd, hrem, hid, href⟩ := h
  refine (if_neg ?_).trans ((if_neg (by rw [hrem]; decide)).trans (if_neg ?_))
  · by_cases hf : f.fdf = true
    · simp [hfd hf]
    · simp [hf]
  · have h1 : (s.received f).bit (cfld f.port 0x6C 31 1) = s.bit (cfld f.port 0x6C 31 1) := bit_of_rd (rd_received (by decide))
    have h2 : (s.received f).fld (cfld f.port 0x6C 0 29) = s.fld (cfld f.port 0x6C 0 29) := fld_of_rd (rd_received (by decide))
    have hne : ¬ (f.ide = s.bit (cfld f.port 0x6C 31 1) ∧ f.id = s.fld (cfld f.port 0x6C 0 29)) := href
    show ¬ ((!f.ide && f.id == 0 || (f.ide == (s.received f).bit (cfld f.port 0x6C 31 1) && f.id == (s.received f).fld (cfld f.port 0x6C 0 29))) = true)
    rw [h1, h2]
    simp only [Bool.or_eq_true, Bool.and_eq_true, Bool.not_eq_true', beq_iff_eq]
    rintro (⟨ha, hb⟩ | hc)
    · exact hid ha hb
    · exact hne hc

theorem canRx_takes {k : State → State} (h : s.canTakes f) : s.canRx f k = (k (s.received f)).tailEnd f.port := by
  have h' := h
  obtain ⟨hp, hears, -, -, -, -⟩ := h
  rw [canRx_heard hp hears, canTake_takes h']

/-! #### The object that a frame reaches (R259) -/

theorem canMatch_of_tbl {t : State} (h : t.tbl = s.tbl) (p : Nat) (f : CanFrame) : t.canMatch p f = s.canMatch p f := by
  unfold State.canMatch State.objDef State.objTx State.objFld
  simp only [tfld_of_tbl h]

theorem canReserved_received (s : State) (f : CanFrame) : (s.received f).canReserved f.port f.ide f.id = s.canReserved f.port f.ide f.id := by
  unfold State.canReserved
  rw [bit_of_rd (f := cfld f.port 0x6C 31 1) (rd_received (by decide)), fld_of_rd (f := cfld f.port 0x6C 0 29) (rd_received (by decide))]

theorem canObjRx_unmatched (hr : s.canReserved f.port f.ide f.id = false) (hm : s.canMatch f.port f = none) :
    (s.received f).canObjRx f = (s.received f).canBump f.port .CANC_RX_UNMATCHED := by
  have htbl : (s.received f).tbl = s.tbl := (received_leaves s f).1 .tbl (by decide)
  unfold State.canObjRx
  simp only [canReserved_received, hr, canMatch_of_tbl htbl, hm, Bool.false_eq_true, if_false]

theorem canObjRx_matched (hr : s.canReserved f.port f.ide f.id = false) {o : Nat} (hm : s.canMatch f.port f = some o) :
    (s.received f).canObjRx f =
      if f.data.length = s.objLen f.port o then (s.received f).canAccept f.port o f else (s.received f).canBump f.port .CANC_LEN_MISMATCH := by
  have htbl : (s.received f).tbl = s.tbl := (received_leaves s f).1 .tbl (by decide)
  have hlen : (s.received f).objLen f.port o = s.objLen f.port o := by
    unfold State.objLen State.objFld
    simp only [tfld_of_tbl htbl]
  unfold State.canObjRx
  simp only [canReserved_received, hr, canMatch_of_tbl htbl, hm, hlen, Bool.false_eq_true, if_false]

theorem canMatch_lt {p o : Nat} (h : s.canMatch p f = some o) : o < 64 := List.mem_range.1 (List.mem_of_find?_eq_some h)

end

end Sys2Proof.Machine
end

section
/-! ### Plant buses: what an accepted frame changes -/

namespace Sys2Proof.Machine

variable {q : Nat → Prop}

theorem beAt_one_lt (d : List Byte) (i : Nat) : beAt d i 1 < 2 ^ 8 := by
  unfold beAt be
  cases d.drop i with
  | nil => decide
  | cons b l =>
    simp only [List.take_succ_cons, List.take_zero, List.foldl_cons, List.foldl_nil]
    have := b.isLt
    omega

/-! #### Mailbox bytes -/

theorem mbxPutRaw_of_mbx {s t : State} (h : t.mbx = s.mbx) (n i : Nat) (its : List Item) : (t.mbxPutRaw n i its).mbx = (s.mbxPutRaw n i its).mbx := by
  induction its generalizing s t i with
  | nil => exact h
  | cons it its ih =>
    exact ih (s := s.mbxMod n _) (t := t.mbxMod n _) (by
      unfold State.mbxMod
      rw [h]) _

theorem mbxPutBytes_of_mbx {s t : State} (h : t.mbx = s.mbx) {n : Nat} {m : Mbx} (hm : s.mbxOf n = some m) (hw : m.writer = 10) (b : Nat)
    (d : List Byte) : (t.mbxPutBytes n b d).mbx = (s.mbxPutBytes n b d).mbx := by
  have hm' : t.mbxOf n = some m := by
    unfold State.mbxOf at hm ⊢
    rw [h]
    exact hm
  unfold State.mbxPutBytes
  simp only [hm, hm', hw, if_true]
  exact mbxPutRaw_of_mbx h _ _ _

theorem beside_fwViol (hq : ∀ x, evTbl x → q x) (s : State) (a : Word) : BesideStations q s (s.fwViol 10 a) := by
  refine .of_can ?_ ((fwViol_keeps (Keeps.refl _ s) (List.Subset.refl _)).only .can (by decide))
  unfold State.fwViol State.xbarViol
  exact near_enterFault (near_raiseEv (near_bump (near_wr (near_setF (Near.refl _ _ s) (by unfold portWord; decide)) (by unfold portWord; decide))
    (by unfold portWord; decide) (by unfold portWord; decide)) (by decide) (fun _ => not_portWord_of_evReg (.inl rfl)) hq)
    (fun _ => not_portWord_of_faultReg) hq

theorem beside_mbxPutBytes (hq : ∀ x, evTbl x → q x) (s : State) (n b : Nat) (d : List Byte) : BesideStations q s (s.mbxPutBytes n b d) := by
  unfold State.mbxPutBytes
  split
  · exact .refl _ _
  · split
    · have ho : ∀ its, s.onlyIn (s.mbxPutRaw n (b / 4) its) [.mbx] := fun its => (mbxPutRaw_keeps (Keeps.refl _ s) (List.Subset.refl _)).only
      exact .of_can (near_same (Near.refl _ _ s) (ho _ .regs (by decide)) (ho _ .tbl (by decide))) (ho _ .can (by decide))
    · exact beside_fwViol hq s _

/-! #### A station's input message (R275) -/

theorem stn_of_can {s t : State} (h : t.can = s.can) (p k : Nat) : t.stn p k = s.stn p k := by
  unfold State.stn
  rw [canP_of_can h]

theorem stn_stnMod {s : State} {p : Nat} (h : p < s.can.length) (k : Nat) (f : StnSt → StnSt) : (s.stnMod p k f).stn p k = f (s.stn p k) := by
  unfold State.stn State.stnMod
  rw [canP_canMod_self h]
  simp only [List.lookup_cons_self, Option.getD_some]
  rfl

theorem stn_stnPublish {s : State} {p : Nat} (h : p < s.can.length) (k : Nat) {α : Type} (g : StnSt → α)
    (hg : ∀ d a b, g { d with pub := a, lastGood := b } = g d) : g ((s.stnPublish p k).stn p k) = g (s.stn p k) := by
  unfold State.stnPublish
  extract_lets st d v n its s1
  have hcan : s1.can = s.can := (fwPutsNext_keeps (Keeps.refl _ s) (List.Subset.refl _)).only .can (by decide)
  rw [stn_stnMod (by rw [hcan]; exact h), hg, stn_of_can hcan]

theorem stnInput_shows (hq : ∀ x, evTbl x → q x) {s : State} {p k : Nat} (hp : p < 2) (hk : k < 32) (h : p < s.can.length) (d : List Byte)
    (ht : q (ctab p 1)) :
    BesideStations q s (s.stnInput p k d) ∧ (s.stnInput p k d).stnFld p k 2 0 8 = beAt d 1 1
      ∧ ((s.stnInput p k d).stn p k).rstate = beAt d 0 1 ∧ ((s.stnInput p k d).stn p k).err = beAt d 2 2 := by
  unfold State.stnInput
  extract_lets st cnt n good s1
  have hkey : tkeyTid (tkey (ctab p 1) k 2) = ctab p 1 := tkeyTid_tkey _ _ _ (by omega) (by decide)
  have hlen : p < (s.tset (ctab p 1) k 2 0 8 cnt).can.length := by
    rw [can_tset]
    exact h
  have h1 : BesideStations q s s1 := (beside_tset (by rw [hkey]; exact ht)).trans (beside_stnMod ..)
  have hlen1 : p < s1.can.length := by
    rw [h1.length]
    exact h
  have hfld : s1.tfld (ctab p 1) k 2 0 8 = cnt := by
    refine (tfld_canMod ..).trans ((tfld_tset_self (by decide)).trans (Nat.mod_eq_of_lt (beAt_one_lt _ _)))
  have hst : (s1.stn p k).rstate = st ∧ (s1.stn p k).err = beAt d 2 2 := by
    unfold s1
    rw [stn_stnMod hlen]
    exact ⟨rfl, rfl⟩
  have hpub : Near (fun a => ¬ portWord a) evTbl s1 (s1.stnPublish p k) := (beside_stnPublish (fun _ h => h) s1 p k).near
  refine ⟨h1.trans (beside_stnPublish hq s1 p k), ?_, ?_, ?_⟩
  · refine Eq.trans ?_ hfld
    unfold State.stnFld State.tfld
    rw [trd_of_tblBut hpub.tbl (by omega) (by decide) (by unfold evTbl ctab; omega)]
  · rw [stn_stnPublish hlen1 k StnSt.rstate fun _ _ _ => rfl, hst.1]
  · rw [stn_stnPublish hlen1 k StnSt.err fun _ _ _ => rfl, hst.2]

end Sys2Proof.Machine
end

section
/-! ### Plant buses: frames -/

namespace Sys2Proof.Machine

/-- The receive object with the frame noted in its record. -/
def State.accepted (s : State) (p o : Nat) (f : CanFrame) : State :=
  ((s.twr (ctab p 0) o 4 (s.trd (ctab p 0) o 4 + 1)).twr (ctab p 0) o 5 (BitVec.ofNat 32 f.sofSec)).twr (ctab p 0) o 6 (BitVec.ofNat 32 f.sofNs)

section
variable {s : State} {p o : Nat} {f : CanFrame}

theorem accepted_table (s : State) (p o : Nat) (f : CanFrame) :
    (s.accepted p o f).trd (ctab p 0) o 4 = s.trd (ctab p 0) o 4 + 1 ∧ (s.accepted p o f).trd (ctab p 0) o 5 = BitVec.ofNat 32 f.sofSec
      ∧ (s.accepted p o f).trd (ctab p 0) o 6 = BitVec.ofNat 32 f.sofNs
      ∧ (∀ w lo n, w < 4 → (s.accepted p o f).objFld p o w lo n = s.objFld p o w lo n) := by
  unfold State.accepted
  refine ⟨?_, ?_, ?_, fun w lo n hw => ?_⟩
  · simp (disch := decide) only [trd_twr_word, trd_twr_self]
  · simp (disch := decide) only [trd_twr_word, trd_twr_self]
  · simp (disch := decide) only [trd_twr_self]
  · unfold State.objFld
    rw [tfld_twr_word (by omega), tfld_twr_word (by omega), tfld_twr_word (by omega)]

theorem stnFld_accepted (ho : o < 64) (k w lo n : Nat) : (s.accepted p o f).stnFld p k w lo n = s.stnFld p k w lo n := by
  have hne : ∀ v, v < 256 → tkey (ctab p 1) k w ≠ tkey (ctab p 0) o v := fun v hv => by
    unfold tkey ctab
    omega
  unfold State.stnFld State.tfld State.accepted
  rw [trd_twr_ne _ _ _ _ _ _ _ _ (hne 6 (by decide)), trd_twr_ne _ _ _ _ _ _ _ _ (hne 5 (by decide)), trd_twr_ne _ _ _ _ _ _ _ _ (hne 4 (by decide))]

theorem stnOfIn_accepted (ho : o < 64) : (s.accepted p o f).stnOfIn p o = s.stnOfIn p o := by
  unfold State.stnOfIn State.stations State.stnDef
  simp only [stnFld_accepted ho]

theorem stnOfIn_of_tbl {t : State} (h : t.tbl = s.tbl) (p o : Nat) : t.stnOfIn p o = s.stnOfIn p o := by
  unfold State.stnOfIn State.stations State.stnDef State.stnFld
  simp only [tfld_of_tbl h]

theorem stnOfIn_lt {k : Nat} (h : s.stnOfIn p o = some k) : k < 32 :=
  List.mem_range.1 (List.mem_of_mem_filter (List.mem_of_find?_eq_some h))

theorem canAccept_shows (hp : p < 2) (ho : o < 64) (hlen : p < s.can.length) :
    (s.canAccept p o f).trd (ctab p 0) o 4 = s.trd (ctab p 0) o 4 + 1 ∧ (s.canAccept p o f).trd (ctab p 0) o 5 = BitVec.ofNat 32 f.sofSec
      ∧ (s.canAccept p o f).trd (ctab p 0) o 6 = BitVec.ofNat 32 f.sofNs
      ∧ (∀ m, s.objFld p o 0 22 2 = 0 → s.mbxOf (s.objFld p o 3 20 12) = some m → m.writer = 10 →
          (s.canAccept p o f).mbx = (s.mbxPutBytes (s.objFld p o 3 20 12) (s.objFld p o 3 0 16) f.data).mbx)
      ∧ (∀ k, s.objFld p o 0 22 2 ≠ 0 → s.stnOfIn p o = some k → (s.canAccept p o f).stnFld p k 2 0 8 = beAt f.data 1 1
          ∧ ((s.canAccept p o f).stn p k).rstate = beAt f.data 0 1 ∧ ((s.canAccept p o f).stn p k).err = beAt f.data 2 2) := by
  obtain ⟨x, hx⟩ : ∃ x, x = s.accepted p o f := ⟨_, rfl⟩
  obtain ⟨h4, h5, h6, hobj⟩ : x.trd (ctab p 0) o 4 = s.trd (ctab p 0) o 4 + 1 ∧ x.trd (ctab p 0) o 5 = BitVec.ofNat 32 f.sofSec
    ∧ x.trd (ctab p 0) o 6 = BitVec.ofNat 32 f.sofNs ∧ (∀ w lo n, w < 4 → x.objFld p o w lo n = s.objFld p o w lo n) := hx ▸ accepted_table s p o f
  have hin : x.stnOfIn p o = s.stnOfIn p o := hx ▸ stnOfIn_accepted ho
  have honly : s.onlyIn x [.tbl] := hx ▸
    (twr_keeps (twr_keeps (twr_keeps (Keeps.refl _ s) (List.Subset.refl _)) (List.Subset.refl _)) (List.Subset.refl _)).only
  have he : s.canAccept p o f = if x.objFld p o 0 22 2 = 0 then x.mbxPutBytes (x.objFld p o 3 20 12) (x.objFld p o 3 0 16) f.data
      else match x.stnOfIn p o with
        | none => x
        | some t => x.stnInput p t f.data := by
    rw [hx]
    rfl
  have hcan : x.can = s.can := honly .can (by decide)
  rw [hobj _ _ _ (by decide), hobj _ _ _ (by decide), hobj _ _ _ (by decide), hin] at he
  have hlater : ∀ t, Near (fun a => ¬ portWord a) (fun tid => evTbl tid ∨ tid = ctab p 1) x t → ∀ w, w < 2 ^ 8 →
      t.trd (ctab p 0) o w = x.trd (ctab p 0) o w := fun t ht w hw =>
    trd_of_tblBut ht.tbl (by omega) hw (by unfold evTbl ctab; omega)
  by_cases hraw : s.objFld p o 0 22 2 = 0
  · rw [if_pos hraw] at he
    rw [he]
    have hl := hlater _ (beside_mbxPutBytes (fun _ h => .inl h) x (s.objFld p o 3 20 12) (s.objFld p o 3 0 16) f.data).near
    exact ⟨(hl 4 (by decide)).trans h4, (hl 5 (by decide)).trans h5, (hl 6 (by decide)).trans h6,
      fun m _ hm hw => mbxPutBytes_of_mbx (honly .mbx (by decide)) hm hw _ _, fun _ h => absurd hraw h⟩
  · rw [if_neg hraw] at he
    cases hk : s.stnOfIn p o with
    | none =>
      rw [hk] at he
      rw [he]
      exact ⟨h4, h5, h6, fun _ h => absurd h hraw, fun _ _ h => by cases h⟩
    | some k =>
      rw [hk] at he
      rw [he]
      obtain ⟨hb, hcnt, hst, herr⟩ := stnInput_shows (q := fun tid => evTbl tid ∨ tid = ctab p 1) (fun _ h => .inl h) hp (stnOfIn_lt hk)
        (by rw [hcan]; exact hlen) f.data (s := x) (.inr rfl)
      have hl := hlater _ hb.near
      refine ⟨(hl 4 (by decide)).trans h4, (hl 5 (by decide)).trans h5, (hl 6 (by decide)).trans h6, fun _ h => absurd h hraw, fun j _ hj => ?_⟩
      cases hj
      exact ⟨hcnt, hst, herr⟩

end

/-- A port without FD_EN that hears an FD frame. -/
theorem canNoFd_shows {s : State} {p m : Nat} (hlen : p < s.can.length) (id : Nat) :
    (s.canNoFd p m id).tbl = s.tbl ∧ (s.canNoFd p m id).mbx = s.mbx
      ∧ (s.bit (cfld p 0x40 7 1) = true → s.mstate ≠ 3 → ((s.canNoFd p m id).canP p).integ = true)
      ∧ (s.bit (cfld p 0x40 7 1) = false → (s.canNoFd p m id).rd (0x14000 + 0x1000 * p + 0x64) = BitVec.ofNat 32 (2 * 2 ^ 29 + id % 2 ^ 29)) := by
  have ho : s.onlyIn (s.canNoFd p m id) [.regs, .can] := (canNoFd_keeps (Keeps.refl _ s) (List.Subset.refl _)).only
  refine ⟨ho .tbl (by decide), ho .mbx (by decide), fun hb hm => ?_, fun hb => ?_⟩
  · have hcan : (s.canBump p .CANC_PEX).can = s.can := (canBump_keeps (Keeps.refl [.regs] s) (List.Subset.refl _)).only .can (by decide)
    unfold State.canNoFd
    rw [if_pos hb, canP_canMod_self (by rw [hcan]; exact hlen)]
    simp [hm]
  · unfold State.canNoFd
    rw [if_neg (by rw [hb]; decide)]
    extract_lets s1
    have h1 : s1.rd (0x14000 + 0x1000 * p + 0x64) = BitVec.ofNat 32 (2 * 2 ^ 29 + id % 2 ^ 29) := rd_wr_self
    split
    · refine Eq.trans ?_ h1
      unfold State.canErrAdd
      have hn : Near (fun a => a = 0x14000 + 0x1000 * p + 0x60 ∨ a = 0x14000 + 0x1000 * p + 0x4C) (fun _ => False) s1
          (((s1.setF (cfld p 0x60 16 9) (min 511 (s1.fld (cfld p 0x60 16 9) + 0))).setF (cfld p 0x60 0 8)
            (min 255 (s1.fld (cfld p 0x60 0 8) + 1))).canConfine p) :=
        near_canConfine (near_setF (near_setF (Near.refl _ _ s1) (.inl rfl)) (.inl rfl)) (.inr rfl)
      exact hn.regs _ (by omega)
    · exact h1

theorem tailEnd_keeps_rest (s : State) (p : Nat) : s.onlyIn (s.tailEnd p) [.can] ∧ ∀ {α : Type} (g : CanSt → α), (∀ c, g { c with tail := none } = g c) →
    ∀ q, g ((s.tailEnd p).canP q) = g (s.canP q) :=
  ⟨(tailEnd_keeps (Keeps.refl _ s) (List.Subset.refl _)).only, fun g hg q => canP_canMod_keeps g hg q⟩

/-- A counter of a port that counts up to its end. -/
theorem canBump_stays (s : State) (p : Nat) {c : Ctr} {k j : Nat} (hk : c.f = ⟨0x14000 + k, 0, 32⟩) (hj : c.ovf.1 = 0x14000 + j) (hs : c.kind = .S) (hne : k ≠ j) :
    (s.canBump p c).fld (c.shift p).f = min (2 ^ 32 - 1) (s.fld (c.shift p).f + 1) := by
  have hf : (c.shift p).f = ⟨0x14000 + k + 0x1000 * p, 0, 32⟩ := by
    unfold Ctr.shift
    rw [hk]
    rfl
  have hov : (c.shift p).ovf.1 = 0x14000 + j + 0x1000 * p := by
    unfold Ctr.shift
    rw [hj]
  have h := fld_bump_stays (s := s) (c := c.shift p) hs (by rw [hf]; exact Nat.le_refl 32) (.inl (by rw [hf, hov]; exact fun e => hne (by dsimp only at e; omega)))
  rw [hf] at h ⊢
  exact h

section
variable {s : State} {f : CanFrame}

theorem canFrameRx_accepts (hlen : s.can.length = 2) {o : Nat} (h : s.canTakes f) (hr : s.canReserved f.port f.ide f.id = false)
    (hm : s.canMatch f.port f = some o) (hl : f.data.length = s.objLen f.port o) :
    runs (.canFrameRx f) s (fun t => t.trd (ctab f.port 0) o 4 = s.trd (ctab f.port 0) o 4 + 1 ∧ t.trd (ctab f.port 0) o 5 = BitVec.ofNat 32 f.sofSec
      ∧ t.trd (ctab f.port 0) o 6 = BitVec.ofNat 32 f.sofNs
      ∧ (∀ m, s.objFld f.port o 0 22 2 = 0 → s.mbxOf (s.objFld f.port o 3 20 12) = some m → m.writer = 10 →
          t.mbx = (s.mbxPutBytes (s.objFld f.port o 3 20 12) (s.objFld f.port o 3 0 16) f.data).mbx)
      ∧ (∀ k, s.objFld f.port o 0 22 2 ≠ 0 → s.stnOfIn f.port o = some k → t.stnFld f.port k 2 0 8 = beAt f.data 1 1
          ∧ (t.stn f.port k).rstate = beAt f.data 0 1 ∧ (t.stn f.port k).err = beAt f.data 2 2)) := by
  obtain ⟨hp, -⟩ := id h
  obtain ⟨honly, -, -, hlen'⟩ := received_leaves s f
  obtain ⟨x, hx⟩ : ∃ x, x = s.received f := ⟨_, rfl⟩
  have he : exec (.canFrameRx f) s = .next ((x.canAccept f.port o f).tailEnd f.port) := by
    refine next_congr ((canRx_takes h).trans ?_)
    rw [canObjRx_matched hr hm, if_pos hl, hx]
  rw [← hx] at honly hlen'
  have htbl : x.tbl = s.tbl := honly .tbl (by decide)
  have hobj : ∀ w lo n, x.objFld f.port o w lo n = s.objFld f.port o w lo n := fun w lo n => tfld_of_tbl htbl ..
  have hmbx : x.mbx = s.mbx := honly .mbx (by decide)
  obtain ⟨h4, h5, h6, hbytes, hstn⟩ := canAccept_shows (s := x) (f := f) hp (canMatch_lt hm) (by rw [hlen', hlen]; exact hp)
  obtain ⟨hend, hrest⟩ := tailEnd_keeps_rest (x.canAccept f.port o f) f.port
  have htrd : ∀ a i w, ((x.canAccept f.port o f).tailEnd f.port).trd a i w = (x.canAccept f.port o f).trd a i w := fun a i w => trd_canMod ..
  refine runs_intro he ⟨?_, ?_, ?_, fun m h0 hb hw => ?_, fun k h0 hk => ?_⟩
  · rw [htrd, h4, trd_of_tbl htbl]
  · rw [htrd, h5]
  · rw [htrd, h6]
  · rw [hend .mbx (by decide)]
    rw [hobj, hobj, hobj] at hbytes
    rw [hbytes m h0 (by unfold State.mbxOf at hb ⊢; rw [hmbx]; exact hb) hw]
    exact mbxPutBytes_of_mbx hmbx hb hw _ _
  · rw [hobj, stnOfIn_of_tbl htbl] at hstn
    obtain ⟨g1, g2, g3⟩ := hstn k h0 hk
    have hstn' : ((x.canAccept f.port o f).tailEnd f.port).stn f.port k = (x.canAccept f.port o f).stn f.port k :=
      hrest (fun c => (c.stn.lookup k).getD StnSt.init) (fun _ => rfl) f.port
    rw [hstn']
    exact ⟨(tfld_canMod ..).trans g1, g2, g3⟩

/-- What the state with a counter of the port raised shows of a frame that reached no object. -/
theorem counted_shows (x : State) (p : Nat) (c : Ctr) :
    ((x.canBump p c).tailEnd p).tbl = x.tbl ∧ ((x.canBump p c).tailEnd p).mbx = x.mbx ∧ ∀ g, ((x.canBump p c).tailEnd p).fld g = (x.canBump p c).fld g := by
  have ho : x.onlyIn (x.canBump p c) [.regs] := (canBump_keeps (Keeps.refl _ x) (List.Subset.refl _)).only
  exact ⟨(tbl_canMod ..).trans (ho .tbl (by decide)), (mbx_canMod ..).trans (ho .mbx (by decide)), fun g => fld_canMod ..⟩

theorem fld_received {p k : Nat} (hp : p = f.port) (hk : k ≠ 0x94 ∧ k ≠ 0x60 ∧ k ≠ 0x4C) {c : Ctr} (hc : c.f = ⟨0x14000 + k, 0, 32⟩) :
    (s.received f).fld (c.shift p).f = s.fld (c.shift p).f := by
  subst hp
  refine fld_of_rd ?_
  rw [show (c.shift f.port).f.addr = 0x14000 + 0x1000 * f.port + k by unfold Ctr.shift Fld.shift; rw [hc]; dsimp only; omega]
  exact rd_received hk

end

end Sys2Proof.Machine
end

section
/-! ### Plant buses: frames that wait, go out and arrive -/

namespace Sys2Proof.Machine

theorem canP_begun (s : State) (u p : Nat) : (s.begun u).canP p = s.canP p := rfl

theorem lookup_filter_other {α : Type} {l : List (Nat × α)} {k j : Nat} (h : k ≠ j) : (l.filter (fun e => e.1 != j)).lookup k = l.lookup k := by
  induction l with
  | nil => rfl
  | cons e l ih =>
    obtain ⟨i, v⟩ := e
    by_cases hi : i = j
    · have hki : (k == i) = false := beq_eq_false_iff_ne.2 (fun e => h (e.trans hi))
      rw [List.filter_cons_of_neg (by simp [hi]), ih, List.lookup_cons, hki]
    · rw [List.filter_cons_of_pos (by simp [hi]), List.lookup_cons, List.lookup_cons, ih]

theorem captured_raw {s : State} {p o : Nat} (h : s.objFld p o 0 22 2 = 0) :
    (s.captured p o).1 = (List.range (s.objLen p o)).map (fun i => s.mbxByte (s.objFld p o 3 20 12) (s.objFld p o 3 0 16 + i)) := by
  unfold State.captured
  rw [if_pos h]

theorem captured_station {s : State} {p o k : Nat} (h : s.objFld p o 0 22 2 ≠ 0) (hk : s.stnOfOut p o = some k) :
    (s.captured p o).1 = padTo (s.objLen p o) (s.outMsg p k).1 := by
  unfold State.captured
  rw [if_neg h, hk]

/-- In internal loopback a frame that has been sent reaches no bus. -/
theorem canSent_loop {s : State} {p item : Nat} {sof : Nat × Nat} {edges : List Nat} {ns : Nat} (hp : p < 2) (h1 : s.canSendsAt p sof = true)
    (h2 : s.canNext p item sof = true) (hl : s.canLoop p = true) : (s.canSent p item sof edges ns).sent = s.sent := by
  have hnone : ∀ t : State, t = s → t.sent = s.sent := fun t h => congrArg State.sent h
  by_cases h65 : item = 65
  · subst h65
    cases hm : (s.canP p).priv with
    | nil => exact hnone _ (by unfold State.canSent; simp [hm])
    | cons m rest =>
      obtain ⟨slow, he⟩ := canSent_priv (edges := edges) (ns := ns) hp h1 h2 hm
      rw [he]
      exact ((canOut_shows hp ..).1 ((sameMode_privTaken s p rest slow).loop.trans hl)).trans (sent_canMod ..)
  · by_cases h64 : item = 64
    · subst h64
      cases hr : (s.canP p).ref with
      | none => exact hnone _ (by unfold State.canSent; simp [hr])
      | some r =>
        obtain ⟨b, st, w⟩ := r
        obtain ⟨hmode, hsent, -⟩ := refTaken_shows (s := s) hp (ltDiff st sof)
        rw [canSent_ref hp h1 h2 hr]
        exact ((canOut_shows hp ..).1 (hmode.loop.trans hl)).trans hsent
    · cases hd : (s.canP p).pend.lookup item with
      | none => exact hnone _ (by unfold State.canSent; simp [hd, h64, h65])
      | some d =>
        obtain ⟨d, w⟩ := d
        obtain ⟨hmode, hsent, -⟩ := objTaken_shows s (p := p) item sof edges
        rw [canSent_obj hp h1 h2 ⟨h64, h65⟩ hd]
        exact ((canOut_shows hp ..).1 (hmode.loop.trans hl)).trans hsent

/-- Settles O33: a frame that waits, one that goes out, and one that arrives, each by the lemma of its operation. -/
theorem busFrames : Obligations.BusFrames := by
  unfold Obligations.BusFrames
  refine ⟨?_, ?_⟩
  · intro arg s hs p
    have hcan : s.can.length = 2 := hs.can
    have hp : p < 2 := Nat.mod_lt _ (by decide)
    have hlen : p < s.can.length := by rw [hcan]; exact hp
    refine ⟨fun o ht hi hd htx hst hrole => ?_, fun o ht hi hidle => ?_, fun ht hen hrole hsl => ?_, fun ht hno => ?_, ?_⟩
    · intro since
      have hi' : (s.begun 0x0A).entryIdx arg 1 6 = some o := hi
      have he : exec (.canTx arg) s = .next ((s.begun 0x0A).canTx p o) := by
        refine next_congr ((entry_takes ht).trans ?_)
        simp only [hi']
        rfl
      obtain ⟨hbit, hpend⟩ := canTx_pends (s := s.begun 0x0A) hlen hp hd htx hst hrole
      have hlook : ((((s.begun 0x0A).canTx p o).canP p).pend.lookup o) = some (((s.begun 0x0A).captured p o).1, since) := by
        rw [hpend, List.lookup_cons_self]
        rfl
      refine runs_intro he ⟨hbit, fun h0 => ?_, fun k h0 hk => ?_, fun k hk => ?_⟩
      · rw [hlook, captured_raw (s := s.begun 0x0A) h0]
        rfl
      · rw [hlook, captured_station (s := s.begun 0x0A) h0 hk]
        rfl
      · rw [hpend, List.lookup_cons, beq_eq_false_iff_ne.2 hk]
        exact lookup_filter_other hk
    · have hi' : (s.begun 0x0A).entryIdx arg 1 6 = some o := hi
      have he : exec (.canTx arg) s = .next ((s.begun 0x0A).canTx p o) := by
        refine next_congr ((entry_takes ht).trans ?_)
        simp only [hi']
        rfl
      obtain ⟨h1, h2⟩ := canTx_idles (s := s.begun 0x0A) (p := p) (o := o) hidle
      exact runs_intro he ⟨h1 p, h2⟩
    · obtain ⟨href, hlost, -⟩ := canRef_shows (s := s.begun 0x0A) hlen hp
      have hcond : ((s.begun 0x0A).bit (cfld p 0x40 4 1) && (s.begun 0x0A).canRole p == 2 && !((s.begun 0x0A).canP p).sleep) = true := by
        rw [show (s.begun 0x0A).bit (cfld p 0x40 4 1) = true from hen, show (s.begun 0x0A).canRole p = 2 from hrole,
          show ((s.begun 0x0A).canP p).sleep = false from hsl]
        rfl
      rw [if_pos hcond] at href
      exact runs_intro (next_congr (entry_takes ht)) ⟨href, fun hr => ⟨(hlost hr).1, (hlost hr).2.1⟩⟩
    · obtain ⟨href, hlost, hidle⟩ := canRef_shows (s := s.begun 0x0A) hlen hp
      have hcond : ¬ ((s.begun 0x0A).bit (cfld p 0x40 4 1) && (s.begun 0x0A).canRole p == 2 && !((s.begun 0x0A).canP p).sleep) = true := by
        simp only [Bool.and_eq_true, beq_iff_eq, Bool.not_eq_true', not_and, Bool.not_eq_false]
        rintro ⟨h1, h2⟩
        rcases hno with h | h | h
        · exact absurd (h.symm.trans h1) (by decide)
        · exact absurd h2 h
        · exact h
      rw [if_neg hcond] at href
      refine runs_intro (next_congr (entry_takes ht)) ⟨href, hlost, fun h0 hs => ?_⟩
      have hsame := hidle h0 hs
      show ((s.begun 0x0A).canRef p).can = s.can ∧ s.onlyIn ((s.begun 0x0A).canRef p) [.seq]
      rw [hsame]
      exact ⟨rfl, (seqMod_keeps (seqMod_keeps (Keeps.refl _ s) (List.Subset.refl _)) (List.Subset.refl _)).only⟩
    · intro q item ss sn edges ns hq
      have hlen' : q < s.can.length := by rw [hcan]; exact hq
      refine ⟨fun h => next_congr (canSent_idles h), fun h1 h2 hl => ?_, fun d w h1 h2 hl hi hd => ?_, fun b st w h1 h2 hl hr => ?_,
        fun m rest h1 h2 hl hm => ?_⟩
      · exact runs_intro rfl (canSent_loop hq h1 h2 hl)
      · obtain ⟨hmode, hsent, htbl, hcan'⟩ := objTaken_shows s (p := q) item (ss, sn) edges
        obtain ⟨h4, h5, h6, h7, hobj⟩ := objNoted_table s q item (ss, sn)
        have hfld : ∀ w lo n, (s.objTaken q item (ss, sn) edges).objFld q item w lo n = (s.objNoted q item (ss, sn)).objFld q item w lo n :=
          fun w lo n => tfld_of_tbl htbl ..
        obtain ⟨x, hx⟩ : ∃ x, x = s.objTaken q item (ss, sn) edges := ⟨_, rfl⟩
        have he := canSent_obj (edges := edges) (ns := ns) hq h1 h2 ⟨by omega, by omega⟩ hd
        rw [hfld, hfld, hobj _ _ _ (by decide), hobj _ _ _ (by decide), hobj _ _ _ (by decide), hobj _ _ _ (by decide)] at he
        rw [← hx] at hmode hsent htbl hcan' he
        obtain ⟨hout, hnear, hrest⟩ := (canOut_shows (s := x) hq item (s.objFld q item 0 29 1 == 1) (s.objFld q item 0 28 1 == 1)
          (s.objFld q item 0 28 1 == 1 && s.objFld q item 0 27 1 == 1) (s.objFld q item 1 0 29) d (ss, sn)).2 (hmode.loop.trans hl)
        have hpend : (x.canP q).pend = (s.canP q).pend.filter (fun e => e.1 != item) := by
          rw [canP_of_can hcan', canP_canMod_self hlen']
        obtain ⟨y, hy⟩ : ∃ y, y = x.canOut q item (s.objFld q item 0 29 1 == 1) (s.objFld q item 0 28 1 == 1)
            (s.objFld q item 0 28 1 == 1 && s.objFld q item 0 27 1 == 1) (s.objFld q item 1 0 29) d (ss, sn) := ⟨_, rfl⟩
        rw [← hy] at he hout hnear hrest
        have htrd : ∀ w, w < 2 ^ 8 → y.trd (ctab q 0) item w = (s.objNoted q item (ss, sn)).trd (ctab q 0) item w := fun w hw =>
          (trd_of_tblBut hnear.tbl (by omega) hw id).trans (trd_of_tbl htbl ..)
        refine runs_intro (next_congr he) ⟨?_, ?_, ?_, ?_, ?_, ?_⟩
        · rw [hout, hsent, hmode.conf]
        · rw [hrest (fun c => c.pend.lookup item) (fun _ => rfl) q, hpend]
          exact lookup_filter_ne _ _
        · exact (congrArg (wbits · 29 1) (htrd 7 (by decide))).trans h7
        · rw [htrd 4 (by decide), h4]
        · rw [htrd 5 (by decide), h5]
        · rw [htrd 6 (by decide), h6]
      · obtain ⟨hmode, hsent, hrd, hrefs⟩ := refTaken_shows (s := s) hq (ltDiff st (ss, sn))
        obtain ⟨hnone, hdly⟩ := hrefs hlen'
        obtain ⟨hout, hnear, hrest⟩ := (canOut_shows (s := s.refTaken q (ltDiff st (ss, sn))) hq 64 (s.bit (cfld q 0x6C 31 1)) (!s.bit (cfld q 0x40 5 1))
          false (s.fld (cfld q 0x6C 0 29)) b (ss, sn)).2 (hmode.loop.trans hl)
        refine runs_intro (next_congr (canSent_ref (edges := edges) (ns := ns) hq h1 h2 hr)) ⟨?_, ?_, ?_, ?_⟩
        · rw [hrest CanSt.ref (fun _ => rfl) q, hnone]
        · rw [hrest CanSt.refDly (fun _ => rfl) q, hdly]
        · rw [show 0x14074 + 0x1000 * q = 0x14000 + 0x1000 * q + 0x74 by omega, hnear.regs _ (by unfold outReg; omega), hrd]
        · rw [hout, hsent, hmode.conf]
      · obtain ⟨slow, he⟩ := canSent_priv (edges := edges) (ns := ns) hq h1 h2 hm
        have hmode := sameMode_privTaken s q rest slow
        obtain ⟨hout, -, hrest⟩ := (canOut_shows (s := s.privTaken q rest slow) hq 65 false true false 0 m.data (ss, sn)).2 (hmode.loop.trans hl)
        refine runs_intro (next_congr he) ⟨?_, ?_⟩
        · rw [hrest CanSt.priv (fun _ => rfl) q]
          exact congrArg CanSt.priv (canP_canMod_self hlen' _)
        · rw [hout, hmode.conf, show (s.privTaken q rest slow).sent = s.sent from sent_canMod .., Bool.true_and]
  · intro f s hs p
    have hcan : s.can.length = 2 := hs.can
    have hleaves : (s.received f).tbl = s.tbl ∧ (s.received f).mbx = s.mbx :=
      ⟨(received_leaves s f).1 .tbl (by decide), (received_leaves s f).1 .mbx (by decide)⟩
    have hctr : ∀ c, (((s.received f).canBump p c).tailEnd p).tbl = s.tbl ∧ (((s.received f).canBump p c).tailEnd p).mbx = s.mbx := fun c =>
      ⟨(counted_shows (s.received f) p c).1.trans hleaves.1, (counted_shows (s.received f) p c).2.1.trans hleaves.2⟩
    refine ⟨fun o h hr hm hl => canFrameRx_accepts hcan h hr hm hl, fun o h hr hm hl => ?_, fun h hr hm => ?_, fun hp hh hrem hfd => ?_,
      fun hp hh h1 h2 => ?_, fun h => next_congr (canRx_deaf h)⟩
    · have he : exec (.canFrameRx f) s = .next (((s.received f).canBump p .CANC_LEN_MISMATCH).tailEnd p) := by
        refine next_congr ((canRx_takes h).trans ?_)
        rw [canObjRx_matched hr hm, if_neg hl]
      refine runs_intro he ⟨(hctr _).1, (hctr _).2, ?_⟩
      rw [(counted_shows _ _ _).2.2, canBump_stays _ p (k := 0xD4) (j := 0xDC) rfl rfl rfl (by decide), fld_received (k := 0xD4) rfl (by decide) rfl]
    · have he : exec (.canFrameRx f) s = .next (((s.received f).canBump p .CANC_RX_UNMATCHED).tailEnd p) := by
        refine next_congr ((canRx_takes h).trans ?_)
        rw [canObjRx_unmatched hr hm]
      refine runs_intro he ⟨(hctr _).1, (hctr _).2, ?_⟩
      rw [(counted_shows _ _ _).2.2]
      refine (fld_bump_wraps (c := Ctr.CANC_RX_UNMATCHED.shift p) rfl (Nat.le_refl 32)).trans ?_
      rw [fld_received (k := 0x98) rfl (by decide) rfl]
      rfl
    · have he : exec (.canFrameRx f) s = .next (((s.received f).canBump p .CANC_RX_REMOTE).tailEnd p) :=
        next_congr ((canRx_heard hp hh).trans (by rw [canTake_remote hfd hrem]))
      refine runs_intro he ⟨(hctr _).1, (hctr _).2, ?_⟩
      rw [(counted_shows _ _ _).2.2, canBump_stays _ p (k := 0x9C) (j := 0xDC) rfl rfl rfl (by decide), fld_received (k := 0x9C) rfl (by decide) rfl]
    · obtain ⟨x, hx⟩ : ∃ x, x = s.canNoFd p (s.canModeAt p (f.sofSec, f.sofNs)) f.id := ⟨_, rfl⟩
      have he : exec (.canFrameRx f) s = .next (x.tailEnd p) :=
        next_congr ((canRx_heard hp hh).trans (by rw [canTake_noFd h1 h2, hx]))
      obtain ⟨htbl, hmbx, hinteg, hlec⟩ : x.tbl = s.tbl ∧ x.mbx = s.mbx ∧ _ ∧ _ := hx ▸ canNoFd_shows (by rw [hcan]; exact hp) f.id
      obtain ⟨-, hrest⟩ := tailEnd_keeps_rest x p
      refine runs_intro he ⟨(tbl_canMod ..).trans htbl, (mbx_canMod ..).trans hmbx, fun hb hm => ?_, fun hb => ?_⟩
      · rw [hrest CanSt.integ (fun _ => rfl) p]
        exact hinteg hb hm
      · rw [show 0x14064 + 0x1000 * p = 0x14000 + 0x1000 * p + 0x64 by omega]
        exact (rd_canMod ..).trans (hlec hb)

end Sys2Proof.Machine
end

section
/-! ### Plant buses: errors and clashes -/

namespace Sys2Proof.Machine

/-! #### Events of a port -/

theorem addrOf_canPage (p : Nat) : 0x14010 + 0x1000 * p = addrOf (canPage p) 0x10 := by
  simp only [addrOf_eq, canPage]
  omega

section
variable {s : State} {p b : Nat}

theorem bit_portEvent (hp : p < 2) (hb : b < 32) : (s.raiseEv (canPage p) b).bit (bitAt (0x14010 + 0x1000 * p) b) = true :=
  bit_raiseEv_self (by unfold canPage; omega) (by unfold canPage; omega) hb (addrOf_canPage p)

theorem bit_portEvent_stays (hp : p < 2) {q c : Nat} (hq : q < 2 ^ 23) (h : s.bit (bitAt (0x14010 + 0x1000 * p) c) = true) :
    (s.raiseEv q b).bit (bitAt (0x14010 + 0x1000 * p) c) = true :=
  bit_raiseEv_stays hq (by unfold canPage; omega) (by unfold canPage; omega) (addrOf_canPage p) h

theorem rd_portEvent (hp : p < 2) {r : Nat} (hr : r < 2) {k : Nat} (h1 : 0x30 ≤ k) (h2 : k < 0x1000) :
    (s.raiseEv (canPage p) b).rd (0x14000 + 0x1000 * r + k) = s.rd (0x14000 + 0x1000 * r + k) := by
  refine rd_raiseEv s (by unfold canPage; omega) fun h => ?_
  unfold evReg at h
  simp only [addrOf_eq, pageOf_eq, canPage] at h
  omega

theorem can_portEvent : (s.raiseEv (canPage p) b).can = s.can := raiseEv_only s _ b .can (by decide)

theorem trd_portEvent (hp : p < 2) {tid i w : Nat} (hi : i < 2 ^ 24) (hw : w < 2 ^ 8) (ht : ¬ evTbl tid) :
    (s.raiseEv (canPage p) b).trd tid i w = s.trd tid i w := by
  have h : Near (evReg (canPage p)) evTbl s (s.raiseEv (canPage p) b) :=
    near_raiseEv (Near.refl _ _ s) (by unfold canPage; omega) (fun _ h => h) fun _ h => h
  exact trd_of_tblBut h.tbl hi hw ht

end

/-! #### Counting (R266) -/

/-- A counter of a port leaves every other word but its page's overflow word. -/
theorem rd_canBump {s : State} {p k j : Nat} {c : Ctr} (ek : c.f.addr = 0x14000 + k) (ej : c.ovf.1 = 0x14000 + j) {a : Nat}
    (h1 : a ≠ 0x14000 + 0x1000 * p + k) (h2 : a ≠ 0x14000 + 0x1000 * p + j) : (s.canBump p c).rd a = s.rd a := by
  have hn : Near (fun a => a = 0x14000 + 0x1000 * p + k ∨ a = 0x14000 + 0x1000 * p + j) (fun _ => False) s (s.canBump p c) :=
    near_canBump (Near.refl _ _ s) ek ej (.inl rfl) (.inr rfl)
  exact hn.regs a (by omega)

theorem canBump_beside (s : State) (p : Nat) (c : Ctr) : s.onlyIn (s.canBump p c) [.regs] := (canBump_keeps (Keeps.refl _ s) (List.Subset.refl _)).only

/-- The error counters after an error. -/
theorem canErrAdd_shows (s : State) (p tx rx : Nat) :
    (s.canErrAdd p tx rx).fld (cfld p 0x60 16 9) = min 511 (s.fld (cfld p 0x60 16 9) + tx)
    ∧ (s.canErrAdd p tx rx).fld (cfld p 0x60 0 8) = min 255 (s.fld (cfld p 0x60 0 8) + rx)
    ∧ Near (fun a => a = 0x14000 + 0x1000 * p + 0x60 ∨ a = 0x14000 + 0x1000 * p + 0x4C) (fun _ => False) s (s.canErrAdd p tx rx) := by
  obtain ⟨u, hu⟩ : ∃ u, u = s.setF (cfld p 0x60 16 9) (min 511 (s.fld (cfld p 0x60 16 9) + tx)) := ⟨_, rfl⟩
  obtain ⟨v, hv⟩ : ∃ v, v = u.setF (cfld p 0x60 0 8) (min 255 (s.fld (cfld p 0x60 0 8) + rx)) := ⟨_, rfl⟩
  have he : s.canErrAdd p tx rx = v.canConfine p := by
    rw [hv, hu]
    rfl
  have hc : Near (fun a => a = 0x14000 + 0x1000 * p + 0x4C) (fun _ => False) v (v.canConfine p) := near_canConfine (Near.refl _ _ v) rfl
  have h60 : ∀ lo w, (v.canConfine p).fld (cfld p 0x60 lo w) = v.fld (cfld p 0x60 lo w) := fun lo w =>
    fld_of_rd (hc.regs _ (by rw [cfld_addr]; omega))
  rw [he]
  refine ⟨?_, ?_, ?_⟩
  · rw [h60, hv, fld_setF_apart (.inr (.inl (show 0 + 8 ≤ 16 by decide))), hu, fld_setF_self (show 16 + 9 ≤ 32 by decide)]
    exact Nat.mod_eq_of_lt (Nat.lt_of_le_of_lt (Nat.min_le_left ..) (show 511 < 2 ^ 9 by decide))
  · rw [h60, hv, fld_setF_self (show 0 + 8 ≤ 32 by decide)]
    exact Nat.mod_eq_of_lt (Nat.lt_of_le_of_lt (Nat.min_le_left ..) (show 255 < 2 ^ 8 by decide))
  · refine near_canConfine ?_ (.inr rfl)
    rw [hv, hu]
    exact near_setF (near_setF (Near.refl _ _ s) (.inl rfl)) (.inl rfl)

theorem errCtr_at (k : Nat) : ∃ off, (errCtr k).f = ⟨0x14000 + off, 0, 32⟩ ∧ (errCtr k).ovf.1 = 0x14000 + 0xDC ∧ (errCtr k).kind = .S ∧ 0xA0 ≤ off ∧ off ≤ 0xB0 := by
  unfold errCtr
  split
  · exact ⟨0xA0, rfl, rfl, rfl, by decide⟩
  · split
    · exact ⟨0xA4, rfl, rfl, rfl, by decide⟩
    · split
      · exact ⟨0xA8, rfl, rfl, rfl, by decide⟩
      · split
        · exact ⟨0xB0, rfl, rfl, rfl, by decide⟩
        · exact ⟨0xAC, rfl, rfl, rfl, by decide⟩

/-- The state with the error counted by its kind and shown. -/
def State.errNoted (s : State) (e : CanErr) : State :=
  (s.canBump e.port (errCtr e.kind)).wr (cfld e.port 0x64 0 32).addr (BitVec.ofNat 32 (e.kind * 2 ^ 29 + e.id % 2 ^ 29))

theorem errNoted_shows (s : State) {e : CanErr} :
    (s.errNoted e).rd (0x14000 + 0x1000 * e.port + 0x64) = BitVec.ofNat 32 (e.kind * 2 ^ 29 + e.id % 2 ^ 29)
    ∧ (s.errNoted e).fld ((errCtr e.kind).shift e.port).f = min (2 ^ 32 - 1) (s.fld ((errCtr e.kind).shift e.port).f + 1)
    ∧ (∀ k, k < 0x64 → (s.errNoted e).rd (0x14000 + 0x1000 * e.port + k) = s.rd (0x14000 + 0x1000 * e.port + k))
    ∧ (∀ a, a < 0x14000 → (s.errNoted e).rd a = s.rd a) ∧ s.onlyIn (s.errNoted e) [.regs] := by
  obtain ⟨off, hf, hov, hk, h1, h2⟩ := errCtr_at e.kind
  have hf' : (errCtr e.kind).f.addr = 0x14000 + off := by rw [hf]
  refine ⟨rd_wr_self, ?_, fun k hk => ?_, fun a ha => ?_, ?_⟩
  · refine (fld_wr_apart ?_).trans (canBump_stays s e.port hf hov hk (by omega))
    unfold Ctr.shift Fld.shift
    rw [hf, cfld_addr]
    dsimp only
    omega
  · exact (rd_wr_apart (by rw [cfld_addr]; omega)).trans (rd_canBump hf' hov (by omega) (by omega))
  · exact (rd_wr_apart (by rw [cfld_addr]; omega)).trans (rd_canBump hf' hov (by omega) (by omega))
  · exact (wr_keeps (canBump_keeps (Keeps.refl _ s) (List.Subset.refl _)) (List.Subset.refl _)).only

theorem sameMode_errNoted (s : State) {e : CanErr} : SameMode e.port s (s.errNoted e) := by
  obtain ⟨-, -, hk, hlow, ho⟩ := errNoted_shows s (e := e)
  refine ⟨fun a ha => ?_, fld_of_rd (hk 0x4C (by decide)), (congrArg DevSt.recovery (ho .dev (by decide)) :),
    (congrArg CanSt.sleep (canP_of_can (ho .can (by decide)) _) :), (congrArg CanSt.integ (canP_of_can (ho .can (by decide)) _) :)⟩
  rcases ha with rfl | rfl | rfl | rfl
  · exact hlow _ (by decide)
  · exact hlow _ (by decide)
  · exact hlow _ (by decide)
  · exact hk 0x40 (by decide)

/-- The same with the error counters advanced in normal operation. -/
def State.errJudged (s : State) (e : CanErr) : State :=
  if (s.errNoted e).canMode e.port = 2 then (s.errNoted e).canErrStep e else s.errNoted e

/-- What a transmitter's error adds to its counter. -/
def State.txAdds (s : State) (e : CanErr) : Nat :=
  (if (e.kind = 3 ∧ s.fld (canConf e.port) = 1 ∧ e.dom = 0) ∨ (e.kind = 1 ∧ e.id = 0 ∧ e.inData = false) then 0 else 8) + 8 * e.dom

theorem canErrStep_own {s : State} {e : CanErr} (h : e.own ≠ none) : s.canErrStep e = s.canErrAdd e.port (s.txAdds e) 0 := by
  have h1 : e.own.isSome = true := Option.isSome_iff_ne_none.2 h
  have hfree : ((e.kind == 3 && s.fld (canConf e.port) == 1 && e.dom == 0) || (e.kind == 1 && e.id == 0 && !e.inData)) =
      decide ((e.kind = 3 ∧ s.fld (canConf e.port) = 1 ∧ e.dom = 0) ∨ (e.kind = 1 ∧ e.id = 0 ∧ e.inData = false)) := by
    rw [Bool.eq_iff_iff]
    simp [and_assoc]
  unfold State.canErrStep State.txAdds
  rw [if_pos h1]
  simp only [hfree, decide_eq_true_eq]

theorem canErrStep_other {s : State} {e : CanErr} (h : e.own = none) : s.canErrStep e = s.canErrAdd e.port 0 (1 + 8 * e.dom) := by
  unfold State.canErrStep
  rw [if_neg (by rw [h]; decide)]

theorem errJudged_shows (s : State) {e : CanErr} :
    (s.errJudged e).rd (0x14000 + 0x1000 * e.port + 0x64) = BitVec.ofNat 32 (e.kind * 2 ^ 29 + e.id % 2 ^ 29)
    ∧ (s.errJudged e).fld ((errCtr e.kind).shift e.port).f = min (2 ^ 32 - 1) (s.fld ((errCtr e.kind).shift e.port).f + 1)
    ∧ (s.canMode e.port = 2 → e.own = none → (s.errJudged e).fld (cfld e.port 0x60 16 9) = s.fld (cfld e.port 0x60 16 9)
        ∧ (s.errJudged e).fld (cfld e.port 0x60 0 8) = min 255 (s.fld (cfld e.port 0x60 0 8) + 1 + 8 * e.dom))
    ∧ (s.canMode e.port = 2 → e.own ≠ none → (s.errJudged e).fld (cfld e.port 0x60 0 8) = s.fld (cfld e.port 0x60 0 8)
        ∧ (s.errJudged e).fld (cfld e.port 0x60 16 9) = min 511 (s.fld (cfld e.port 0x60 16 9) + s.txAdds e))
    ∧ (s.canMode e.port ≠ 2 → (s.errJudged e).rd (0x14000 + 0x1000 * e.port + 0x60) = s.rd (0x14000 + 0x1000 * e.port + 0x60))
    ∧ s.onlyIn (s.errJudged e) [.regs] := by
  obtain ⟨hlec, hctr, hk, -, ho⟩ := errNoted_shows s (e := e)
  have hmode := sameMode_errNoted s (e := e)
  have h60 : ∀ lo w, (s.errNoted e).fld (cfld e.port 0x60 lo w) = s.fld (cfld e.port 0x60 lo w) := fun lo w => fld_of_rd (hk 0x60 (by decide))
  obtain ⟨u, hu⟩ : ∃ u, u = s.errNoted e := ⟨_, rfl⟩
  have he : s.errJudged e = if s.canMode e.port = 2 then u.canErrStep e else u := by
    unfold State.errJudged
    rw [hmode.mode, ← hu]
  have htx : u.txAdds e = s.txAdds e := by
    unfold State.txAdds
    rw [hu, hmode.conf]
  rw [← hu] at hlec hctr hk ho h60
  rw [he]
  by_cases hm : s.canMode e.port = 2
  · rw [if_pos hm]
    have hstep : ∃ tx rx, u.canErrStep e = u.canErrAdd e.port tx rx := by
      by_cases h : e.own = none
      · exact ⟨_, _, canErrStep_other h⟩
      · exact ⟨_, _, canErrStep_own h⟩
    obtain ⟨tx, rx, hs⟩ := hstep
    have hn := (canErrAdd_shows u e.port tx rx).2.2
    have ho' : s.onlyIn (u.canErrStep e) [.regs] := by
      rw [hu]
      exact (canErrStep_keeps (wr_keeps (canBump_keeps (Keeps.refl _ s) (List.Subset.refl _)) (List.Subset.refl _)) (List.Subset.refl _)).only
    obtain ⟨off, hf, -, -, h1, h2⟩ := errCtr_at e.kind
    refine ⟨?_, ?_, fun _ h => ?_, fun _ h => ?_, fun h => absurd hm h, ho'⟩
    · rw [hs, hn.regs _ (by omega), hlec]
    · rw [hs, ← hctr]
      refine fld_of_rd (hn.regs _ ?_)
      unfold Ctr.shift Fld.shift
      rw [hf]
      dsimp only
      omega
    · obtain ⟨g1, g2, -⟩ := canErrAdd_shows u e.port 0 (1 + 8 * e.dom)
      rw [canErrStep_other h, g1, g2, h60, h60, Nat.add_zero, Nat.add_assoc]
      exact ⟨Nat.min_eq_right (Nat.le_of_lt_succ (fld_lt s (cfld e.port 0x60 16 9))), rfl⟩
    · obtain ⟨g1, g2, -⟩ := canErrAdd_shows u e.port (u.txAdds e) 0
      rw [canErrStep_own h, g1, g2, h60, h60, htx, Nat.add_zero]
      exact ⟨Nat.min_eq_right (Nat.le_of_lt_succ (fld_lt s (cfld e.port 0x60 0 8))), rfl⟩
  · rw [if_neg hm]
    exact ⟨hlec, hctr, fun h => absurd h hm, fun h => absurd h hm, fun _ => hk 0x60 (by decide), ho⟩

end Sys2Proof.Machine
end

section
/-! ### Plant buses: confinement and clashes -/

namespace Sys2Proof.Machine

/-- What an error in a data field lengthens: the run of the port's own object, of its reference or of its privileged message, or that of the received
identifier. -/
def State.runLonger (s : State) (e : CanErr) : State :=
  match e.own with
  | some o =>
    if o = 64 then s.canMod e.port (fun c => { c with refRun := min 3 (c.refRun + 1) })
    else if o = 65 then s.canMod e.port (fun c => { c with privRun := min 3 (c.privRun + 1) })
    else s.tset (ctab e.port 0) o 7 0 2 (min 3 (s.objFld e.port o 7 0 2 + 1))
  | none =>
    s.canMod e.port (fun c =>
      { c with suspect := (e.id, ((c.suspect.lookup e.id).getD (0, false)).1 + 1, ((c.suspect.lookup e.id).getD (0, false)).2)
          :: c.suspect.filter (fun x => x.1 != e.id) })

theorem canError_eq {s : State} {e : CanErr} (hp : e.port < 2) (hh : s.canHears e.port (s.instant 0) = true) (h1 : 1 ≤ e.kind) (h2 : e.kind ≤ 6) :
    s.canError e = if !e.inData then s.errJudged e else (s.errJudged e).runLonger e := by
  have hc : ¬ (decide (2 ≤ e.port) || !s.canHears e.port (s.instant 0) || e.kind == 0 || decide (6 < e.kind)) = true := by
    simp only [Bool.or_eq_true, decide_eq_true_eq, hh, Bool.not_true, Bool.false_eq_true, or_false, beq_iff_eq]
    omega
  unfold State.canError
  rw [if_neg hc]
  rfl

theorem runLonger_leaves (s : State) (e : CanErr) : (s.runLonger e).regs = s.regs := by
  unfold State.runLonger
  split
  · split
    · exact regs_canMod ..
    · split
      · exact regs_canMod ..
      · exact regs_tset ..
  · exact regs_canMod ..

theorem canError_idles {s : State} {e : CanErr} (h : s.canHears e.port (s.instant 0) = false ∨ e.kind = 0 ∨ 6 < e.kind) : s.canError e = s := by
  refine if_pos ?_
  rcases h with h | h | h <;> simp [h]

section
variable {s : State} {p : Nat}

theorem errPassive_enters (hp : p < 2) (hc : s.fld (canConf p) = 0) (hn : 128 ≤ s.fld (cfld p 0x60 16 9) ∨ 128 ≤ s.fld (cfld p 0x60 0 8)) :
    runs (.errPassive p) s (fun t => t.fld (canConf p) = 1 ∧ t.bit (bitAt (0x14010 + 0x1000 * p) 2) = true) := by
  have he : exec (.errPassive p) s = .next (((s.setF (canConf p) 1).canBump p .CANC_PASSIVE).raiseEv (canPage p) 2) :=
    next_congr (if_pos (by simpa [hp, hc] using hn))
  refine runs_intro he ⟨?_, bit_portEvent hp (by decide)⟩
  rw [fld_of_rd (f := canConf p) (rd_portEvent hp hp (k := 0x4C) (by decide) (by decide)),
    fld_of_rd (f := canConf p) (rd_canBump (k := 0xB8) (j := 0xDC) rfl rfl (by rw [canConf, cfld_addr]; omega) (by rw [canConf, cfld_addr]; omega))]
  exact fld_setF_self (show 5 + 2 ≤ 32 by decide)

theorem errPassive_idles (h : s.fld (canConf p) ≠ 0 ∨ (s.fld (cfld p 0x60 16 9) < 128 ∧ s.fld (cfld p 0x60 0 8) < 128)) : exec (.errPassive p) s = .next s := by
  refine next_congr (if_neg ?_)
  rcases h with h | ⟨h1, h2⟩
  · simp [h]
  · simp only [Bool.and_eq_true, Bool.or_eq_true, decide_eq_true_eq, beq_iff_eq]
    omega

/-- Messages of a port that move leave its objects and its reference, and none is lost. -/
theorem privMove_shows (s : State) {p : Nat} (hp : p < 2) :
    (∀ {α : Type} (g : CanSt → α), (∀ c l n, g { c with priv := l, privRun := n } = g c) → ∀ q, g ((s.privMove p).canP q) = g (s.canP q))
    ∧ (∀ k, 0x30 ≤ k → k ≠ 0xC4 → k ≠ 0xDC → k < 0x1000 → (s.privMove p).rd (0x14000 + 0x1000 * p + k) = s.rd (0x14000 + 0x1000 * p + k))
    ∧ (∀ b, s.bit (bitAt (0x14010 + 0x1000 * p) b) = true → (s.privMove p).bit (bitAt (0x14010 + 0x1000 * p) b) = true)
    ∧ (s.can.length = 2 → ((s.privMove p).canP p).privRun = 0
        ∧ ∀ m ∈ (s.canP p).priv, m ∈ ((s.privMove p).canP p).priv ∨ m ∈ ((s.privMove p).canP (1 - p)).priv) := by
  obtain ⟨go, hgo⟩ : ∃ go, go = (s.canP p).priv.filter (fun m => s.privTakes (1 - p) m.ch) := ⟨_, rfl⟩
  obtain ⟨u, hu⟩ : ∃ u, u = s.canMod p (fun c => { c with priv := c.priv.filter (fun m => !s.privTakes (1 - p) m.ch), privRun := 0 }) := ⟨_, rfl⟩
  obtain ⟨v, hv⟩ : ∃ v, v = u.canMod (1 - p) (fun c => { c with priv := c.priv ++ go }) := ⟨_, rfl⟩
  have he : s.privMove p = go.foldl (fun a _ => (a.canBump p .CANC_PRIV_MOVED).raiseEv (canPage p) 10) v := by
    rw [hv, hu, hgo]
    rfl
  have hcan : ∀ (l : List PrivMsg) (x : State), (l.foldl (fun a _ => (a.canBump p .CANC_PRIV_MOVED).raiseEv (canPage p) 10) x).can = x.can := fun l => by
    induction l with
    | nil => exact fun _ => rfl
    | cons m l ih => exact fun x => (ih _).trans (can_portEvent.trans (canBump_beside x p _ .can (by decide)))
  have hrd : ∀ k, 0x30 ≤ k → k ≠ 0xC4 → k ≠ 0xDC → k < 0x1000 → ∀ (l : List PrivMsg) (x : State),
      (l.foldl (fun a _ => (a.canBump p .CANC_PRIV_MOVED).raiseEv (canPage p) 10) x).rd (0x14000 + 0x1000 * p + k) = x.rd (0x14000 + 0x1000 * p + k) :=
    fun k h1 h2 h3 h4 l => by
      induction l with
      | nil => exact fun _ => rfl
      | cons m l ih =>
        exact fun x => (ih _).trans ((rd_portEvent hp hp h1 h4).trans (rd_canBump (k := 0xC4) (j := 0xDC) rfl rfl (by omega) (by omega)))
  have hbit : ∀ b, ∀ (l : List PrivMsg) (x : State), x.bit (bitAt (0x14010 + 0x1000 * p) b) = true →
      (l.foldl (fun a _ => (a.canBump p .CANC_PRIV_MOVED).raiseEv (canPage p) 10) x).bit (bitAt (0x14010 + 0x1000 * p) b) = true := fun b l => by
    induction l with
    | nil => exact fun _ h => h
    | cons m l ih =>
      refine fun x h => ih _ (bit_portEvent_stays hp (by unfold canPage; omega) ?_)
      refine (bit_of_rd ?_).trans h
      exact rd_canBump (k := 0xC4) (j := 0xDC) rfl rfl (by simp only [bitAt]; omega) (by simp only [bitAt]; omega)
  have hvregs : v.regs = s.regs := by rw [hv, hu, regs_canMod, regs_canMod]
  rw [he]
  refine ⟨fun g hg q => ?_, fun k h1 h2 h3 h4 => ?_, fun b hb => hbit b go v (by rw [bit_of_regs hvregs]; exact hb), fun hlen => ?_⟩
  · rw [canP_of_can (hcan go v), hv, canP_canMod_keeps g (fun c => hg c _ _), hu]
    exact canP_canMod_keeps g (fun c => hg c _ _) q
  · rw [hrd k h1 h2 h3 h4 go v]
    unfold State.rd
    rw [hvregs]
  · have hlu : u.can.length = 2 := by rw [hu, can_length_canMod, hlen]
    have hp' : (v.canP p) = u.canP p := by rw [hv, canP_canMod_ne _ (by omega)]
    have hq : (v.canP (1 - p)).priv = (s.canP (1 - p)).priv ++ go := by
      rw [hv, canP_canMod_self (by omega), hu, canP_canMod_ne _ (by omega)]
    rw [canP_of_can (hcan go v), canP_of_can (hcan go v), hp', hq, hu, canP_canMod_self (by omega), hgo]
    refine ⟨rfl, fun m hm => ?_⟩
    by_cases ht : s.privTakes (1 - p) m.ch = true
    · exact .inr (List.mem_append_right _ (List.mem_filter.2 ⟨hm, ht⟩))
    · exact .inl (List.mem_filter.2 ⟨hm, by simpa using ht⟩)

/-- A port stops as at bus-off. -/
theorem busOff_stops (hp : p < 2) (hc : s.busOff p = false) (hn : 255 < s.fld (cfld p 0x60 16 9)) :
    runs (.busOff p) s (fun t => t.busOff p = true ∧ t.bit (bitAt (0x14010 + 0x1000 * p) 0) = true ∧ t.fld (cfld p 0x68 0 8) = 0
      ∧ (∀ e ∈ (s.canP p).pend, e ∈ (t.canP p).pend)) := by
  have he : exec (.busOff p) s = .next (s.canBusOff p) := next_congr (if_pos (by simp [hp, hc, hn]))
  obtain ⟨u, hu⟩ : ∃ u, u = (s.setF (canConf p) 2).canBump p .CANC_BOFF := ⟨_, rfl⟩
  obtain ⟨v, hv⟩ : ∃ v, v = u.boffZero p := ⟨_, rfl⟩
  obtain ⟨w, hw⟩ : ∃ w, w = v.raiseEv (canPage p) 0 := ⟨_, rfl⟩
  have hoff : s.canBusOff p = w.privMove p := by
    rw [hw, hv, hu]
    rfl
  obtain ⟨hkeep, hrd, hbit, -⟩ := privMove_shows w hp
  have h4C : w.fld (canConf p) = 2 := by
    rw [hw, fld_of_rd (f := canConf p) (rd_portEvent hp hp (k := 0x4C) (by decide) (by decide)), hv]
    unfold State.boffZero
    rw [fld_setF_apart (.inl (by rw [canConf, cfld_addr, cfld_addr]; omega)), fld_canMod, hu,
      fld_of_rd (f := canConf p) (rd_canBump (k := 0xB4) (j := 0xDC) rfl rfl (by rw [canConf, cfld_addr]; omega) (by rw [canConf, cfld_addr]; omega))]
    exact fld_setF_self (show 5 + 2 ≤ 32 by decide)
  have h68 : w.fld (cfld p 0x68 0 8) = 0 := by
    rw [hw, fld_of_rd (f := cfld p 0x68 0 8) (rd_portEvent hp hp (k := 0x68) (by decide) (by decide)), hv]
    exact fld_setF_self (show 0 + 8 ≤ 32 by decide)
  have hpend : (w.canP p).pend = (s.canP p).pend := by
    have hucan : u.can = s.can := by
      rw [hu]
      exact (canBump_beside _ p _ .can (by decide)).trans (can_setF ..)
    rw [hw, canP_of_can can_portEvent, hv]
    unfold State.boffZero
    rw [canP_of_can (can_setF ..)]
    exact (canP_canMod_keeps (f := fun c => { c with boff := 0, boffAt := u.ownFno }) CanSt.pend (fun _ => rfl) p).trans (congrArg CanSt.pend (canP_of_can hucan p))
  refine runs_intro (he.trans (next_congr hoff)) ⟨?_, hbit 0 ?_, ?_, fun e he => ?_⟩
  · unfold State.busOff
    rw [fld_of_rd (f := canConf p) (hrd 0x4C (by decide) (by decide) (by decide) (by decide)), h4C]
    rfl
  · rw [hw]
    exact bit_portEvent hp (by decide)
  · rw [fld_of_rd (f := cfld p 0x68 0 8) (hrd 0x68 (by decide) (by decide) (by decide) (by decide)), h68]
  · rw [hkeep CanSt.pend (fun _ _ _ => rfl) p, hpend]
    exact he

theorem busOff_idles (h : s.busOff p = true ∨ s.fld (cfld p 0x60 16 9) ≤ 255) : exec (.busOff p) s = .next s := by
  refine next_congr (if_neg ?_)
  rcases h with h | h
  · simp [h]
  · simp only [Bool.and_eq_true, decide_eq_true_eq]
    omega

theorem boffRecovered_recovers (hp : p < 2) (hc : s.busOff p = true)
    (hseen : 1408 * s.bitClocks p * 25 ≤ (s.ownSince (s.canP p).boffAt + 1) * 2000000) :
    runs (.boffRecovered p) s (fun t => t.fld (canConf p) = 0 ∧ t.rd (0x14060 + 0x1000 * p) = 0 ∧ t.bit (bitAt (0x14010 + 0x1000 * p) 1) = true) := by
  obtain ⟨u, hu⟩ : ∃ u, u = ((s.setF (canConf p) 0).wr (cfld p 0x60 0 32).addr 0).boffZero p := ⟨_, rfl⟩
  have he : exec (.boffRecovered p) s = .next ((u.canConfine p).raiseEv (canPage p) 1) := by
    rw [hu]
    exact next_congr (if_pos (by simp [hp, hc, hseen]))
  have h60 : u.rd (0x14000 + 0x1000 * p + 0x60) = 0 := by
    rw [hu]
    unfold State.boffZero
    rw [rd_setF_apart (by rw [cfld_addr]; omega), rd_canMod]
    exact rd_wr_self
  have hconf : u.fld (canConf p) = 0 := by
    rw [hu]
    unfold State.boffZero
    rw [fld_setF_apart (.inl (by rw [canConf, cfld_addr, cfld_addr]; omega)), fld_canMod, fld_wr_apart (by rw [canConf, cfld_addr, cfld_addr]; omega)]
    exact fld_setF_self (show 5 + 2 ≤ 32 by decide)
  have hn : Near (fun a => a = 0x14000 + 0x1000 * p + 0x4C) (fun _ => False) u (u.canConfine p) := near_canConfine (Near.refl _ _ u) rfl
  have hconf' : (u.canConfine p).fld (canConf p) = 0 := by
    unfold State.canConfine
    extract_lets a b s1
    have h1 : s1.fld (canConf p) = 0 := (fld_setB_apart (.inr (.inr (show 5 + 2 ≤ 7 by decide)))).trans hconf
    rw [if_neg (by rw [h1]; omega), h1]
  refine runs_intro he ⟨?_, ?_, bit_portEvent hp (by decide)⟩
  · rw [fld_of_rd (f := canConf p) (rd_portEvent hp hp (k := 0x4C) (by decide) (by decide)), hconf']
  · rw [show 0x14060 + 0x1000 * p = 0x14000 + 0x1000 * p + 0x60 by omega, rd_portEvent hp hp (by decide) (by decide), hn.regs _ (by omega), h60]

theorem boffRecovered_idles (h : s.busOff p = false ∨ ¬ 1408 * s.bitClocks p * 25 ≤ (s.ownSince (s.canP p).boffAt + 1) * 2000000) :
    exec (.boffRecovered p) s = .next s := by
  refine next_congr (if_neg ?_)
  rcases h with h | h <;> simp [h]

end

end Sys2Proof.Machine
end

section
/-! ### Plant buses: identifier clashes -/

namespace Sys2Proof.Machine

section
variable {s : State} {p : Nat}

/-- A clash is counted, recorded and raised: the counter, the record and the event of the port. -/
def State.clashTold (s : State) (p : Nat) (c : Ctr) (suspect ref : Bool) (id b : Nat) : State :=
  ((s.canBump p c).canClash p suspect ref id).raiseEv (canPage p) b

theorem clashTold_shows (hp : p < 2) {c : Ctr} {b : Nat} (hb : b < 32)
    (suspect ref : Bool) (id : Nat) :
    (s.clashTold p c suspect ref id b).can = s.can
    ∧ (s.clashTold p c suspect ref id b).bit (bitAt (0x14010 + 0x1000 * p) b) = true
    ∧ (s.clashTold p c suspect ref id b).rd (0x14000 + 0x1000 * p + 0x88) =
        BitVec.ofNat 32 (2 ^ 31 + b2n suspect * 2 ^ 30 + b2n ref * 2 ^ 29 + id % 2 ^ 29)
    ∧ (∀ tid i w, i < 2 ^ 24 → w < 2 ^ 8 → ¬ evTbl tid → (s.clashTold p c suspect ref id b).trd tid i w = s.trd tid i w) := by
  obtain ⟨u, hu⟩ : ∃ u, u = (s.canBump p c).canClash p suspect ref id := ⟨_, rfl⟩
  have ho : s.onlyIn u [.regs] := by
    rw [hu]
    exact (canClash_keeps (canBump_keeps (Keeps.refl _ s) (List.Subset.refl _)) (List.Subset.refl _)).only
  have he : s.clashTold p c suspect ref id b = u.raiseEv (canPage p) b := by
    rw [hu]
    rfl
  rw [he]
  refine ⟨can_portEvent.trans (ho .can (by decide)), bit_portEvent hp hb, ?_, fun tid i w hi hw ht => ?_⟩
  · rw [rd_portEvent hp hp (by decide) (by decide), hu]
    exact rd_wr_self
  · rw [trd_portEvent hp hi hw ht, trd_of_tbl (ho .tbl (by decide))]

theorem idClash_object {o : Nat} (hp : p < 2) (hlen : s.can.length = 2) (ho : o < 64) (hr : s.objFld p o 7 0 2 = 3) (hs : s.objFld p o 7 30 1 = 0) :
    runs (.idClash p o) s (fun t => t.objFld p o 7 30 2 = 3
      ∧ t.objFld p o 7 29 1 = 0 ∧ (t.canP p).pend.lookup o = none ∧ t.bit (bitAt (0x14010 + 0x1000 * p) 3) = true
      ∧ t.rd (0x14088 + 0x1000 * p) = BitVec.ofNat 32 (2 ^ 31 + s.objFld p o 1 0 29)) := by
  obtain ⟨u, hu⟩ : ∃ u, u = (s.canWithdraw p o).tset (ctab p 0) o 7 30 2 3 := ⟨_, rfl⟩
  have he : exec (.idClash p o) s = .next (u.clashTold p .CANC_CLASH false false (u.objFld p o 1 0 29) 3) := by
    rw [hu]
    exact next_congr ((if_neg (by omega)).trans ((if_neg (by omega)).trans ((if_neg (by omega)).trans (if_neg (by omega)))))
  have hid : u.objFld p o 1 0 29 = s.objFld p o 1 0 29 := by
    rw [hu]
    unfold State.objFld State.canWithdraw
    rw [tfld_tset_apart (by decide)]
    exact (tfld_canMod ..).trans (tfld_tset_apart (by decide))
  have h29 : u.tfld (ctab p 0) o 7 29 1 = 0 := by
    rw [hu]
    unfold State.canWithdraw
    rw [tfld_tset_apart (by decide)]
    exact (tfld_canMod ..).trans (tfld_tset_self (by decide))
  have hpend : (u.canP p).pend.lookup o = none := by
    rw [hu, canP_of_can (can_tset ..)]
    unfold State.canWithdraw
    rw [canP_canMod_self (by rw [can_tset, hlen]; exact hp)]
    exact lookup_filter_ne _ _
  rw [hid] at he
  obtain ⟨hcan, hbit, hrd, htrd⟩ := clashTold_shows (s := u) hp (c := .CANC_CLASH) (b := 3) (by decide) false false (s.objFld p o 1 0 29)
  have hw : ∀ lo n, (u.clashTold p .CANC_CLASH false false (s.objFld p o 1 0 29) 3).objFld p o 7 lo n = u.tfld (ctab p 0) o 7 lo n := fun lo n =>
    congrArg (wbits · lo n) (htrd (ctab p 0) o 7 (by omega) (by decide) (by unfold evTbl ctab; omega))
  refine runs_intro he ⟨?_, ?_, ?_, hbit, ?_⟩
  · rw [hw, hu]
    exact tfld_tset_self (by decide)
  · rw [hw, h29]
  · rw [canP_of_can hcan, hpend]
  · rw [show 0x14088 + 0x1000 * p = 0x14000 + 0x1000 * p + 0x88 by omega, hrd, Nat.mod_eq_of_lt (show s.objFld p o 1 0 29 < 2 ^ 29 from tfld_lt s (ctab p 0) o 1 0 29)]
    rfl

theorem idClash_object_idles {o : Nat} (ho : o < 64) (h : s.objFld p o 7 0 2 < 3 ∨ s.objFld p o 7 30 1 = 1) : exec (.idClash p o) s = .next s := by
  refine next_congr (ite_eq_left_iff.2 fun _ => ?_)
  rw [if_neg (by omega), if_neg (by omega), if_pos h]

theorem idClash_reference (hp : p < 2) (hlen : s.can.length = 2) (hr : 3 ≤ (s.canP p).refRun) :
    runs (.idClash p 64) s (fun t => (t.canP p).ref = none ∧ (t.canP p).refRun = 0
      ∧ t.bit (bitAt (0x14010 + 0x1000 * p) 3) = true ∧ t.bit (bitAt (0x14088 + 0x1000 * p) 29) = true) := by
  obtain ⟨u, hu⟩ : ∃ u, u = s.canMod p (fun c => { c with ref := none, refRun := 0, refDly := none }) := ⟨_, rfl⟩
  have he : exec (.idClash p 64) s = .next (u.clashTold p .CANC_CLASH false true (u.fld (cfld p 0x6C 0 29)) 3) := by
    rw [hu]
    exact next_congr ((if_neg (by omega)).trans ((if_pos rfl).trans (if_neg (by omega))))
  have hid := fld_lt u (cfld p 0x6C 0 29)
  obtain ⟨id, hid'⟩ : ∃ id, id = u.fld (cfld p 0x6C 0 29) := ⟨_, rfl⟩
  rw [← hid'] at he hid
  obtain ⟨hcan, hbit, hrd, -⟩ := clashTold_shows (s := u) hp (c := .CANC_CLASH) (b := 3) (by decide) false true id
  have hlt : id < 2 ^ 29 := hid
  refine runs_intro he ⟨?_, ?_, hbit, ?_⟩
  · rw [canP_of_can hcan, hu, canP_canMod_self (by omega)]
  · rw [canP_of_can hcan, hu, canP_canMod_self (by omega)]
  · unfold State.bit State.fld bitAt
    dsimp only
    rw [show 0x14088 + 0x1000 * p = 0x14000 + 0x1000 * p + 0x88 by omega, hrd, wbits_ofNat (by decide)]
    simp only [b2n, Bool.false_eq_true, if_false, if_true, bne_iff_ne]
    omega

theorem idClash_privileged (hp : p < 2) (hlen : s.can.length = 2) (hr : 3 ≤ (s.canP p).privRun) :
    runs (.idClash p 65) s (fun t => (t.canP p).privRun = 0 ∧ t.bit (bitAt (0x14010 + 0x1000 * p) 3) = true
      ∧ (∀ m ∈ (s.canP p).priv, m ∈ (t.canP p).priv ∨ m ∈ (t.canP (1 - p)).priv)) := by
  obtain ⟨u, hu⟩ : ∃ u, u = s.clashTold p .CANC_CLASH false false 0 3 := ⟨_, rfl⟩
  have he : exec (.idClash p 65) s = .next (u.privMove p) := by
    rw [hu]
    exact next_congr ((if_neg (by omega)).trans ((if_neg (by decide)).trans ((if_pos rfl).trans (if_neg (by omega)))))
  obtain ⟨hcan, hbit, -, -⟩ : u.can = s.can ∧ _ ∧ _ ∧ _ := hu ▸ clashTold_shows (s := s) hp (c := .CANC_CLASH) (b := 3) (by decide) false false 0
  obtain ⟨-, -, hstay, hmove⟩ := privMove_shows u hp
  obtain ⟨hrun, hall⟩ := hmove (by rw [hcan]; exact hlen)
  exact runs_intro he ⟨hrun, hstay 3 hbit, fun m hm => hall m (by rw [canP_of_can hcan]; exact hm)⟩

theorem suspect_told (hp : p < 2) (hlen : s.can.length = 2) {id n : Nat} (hl : (s.canP p).suspect.lookup id = some (n, false)) (hn : 3 ≤ n) :
    runs (.idClashSuspect p id) s (fun t => (t.canP p).suspect.lookup id = some (n, true) ∧ t.bit (bitAt (0x14010 + 0x1000 * p) 4) = true
      ∧ t.rd (0x14088 + 0x1000 * p) = BitVec.ofNat 32 (2 ^ 31 + 2 ^ 30 + id % 2 ^ 29)) := by
  obtain ⟨u, hu⟩ : ∃ u, u = s.canMod p (fun c => { c with suspect := (id, n, true) :: c.suspect.filter (fun x => x.1 != id) }) := ⟨_, rfl⟩
  have he : exec (.idClashSuspect p id) s = .next (u.clashTold p .CANC_SUSPECT true false id 4) := by
    rw [hu]
    refine next_congr ?_
    simp only [hl]
    exact if_neg (by simp; omega)
  obtain ⟨hcan, hbit, hrd, -⟩ := clashTold_shows (s := u) hp (c := .CANC_SUSPECT) (b := 4) (by decide) true false id
  refine runs_intro he ⟨?_, hbit, ?_⟩
  · rw [canP_of_can hcan, hu, canP_canMod_self (by omega)]
    exact List.lookup_cons_self
  · rw [show 0x14088 + 0x1000 * p = 0x14000 + 0x1000 * p + 0x88 by omega, hrd]
    rfl

theorem suspect_idles {id n : Nat} {told : Bool} (hl : (s.canP p).suspect.lookup id = some (n, told)) (h : told = true ∨ n < 3) :
    exec (.idClashSuspect p id) s = .next s := by
  refine next_congr ?_
  simp only [hl]
  refine if_pos ?_
  rcases h with h | h <;> simp [h]

end

/-- Settles O34: errors, confinement and clashes, each by the lemma of its operation. -/
theorem busErrors : Obligations.BusErrors := by
  unfold Obligations.BusErrors
  refine ⟨⟨?_, ?_⟩, ?_⟩
  · intro e s hs hp heard tec rec_
    have hcan : s.can.length = 2 := hs.can
    refine ⟨fun hh h1 h2 => ?_, fun h => next_congr (canError_idles h)⟩
    obtain ⟨hlec, hctr, hrx, htx, hkeep, ho⟩ := errJudged_shows s (e := e)
    obtain ⟨t, ht⟩ : ∃ t, t = if !e.inData then s.errJudged e else (s.errJudged e).runLonger e := ⟨_, rfl⟩
    have he : exec (.canError e) s = .next t := by
      rw [ht]
      exact next_congr (canError_eq hp hh h1 h2)
    have hregs : t.regs = (s.errJudged e).regs := by
      rw [ht]
      split
      · rfl
      · exact runLonger_leaves _ e
    have hdata : e.inData = true → t = (s.errJudged e).runLonger e := fun h => by rw [ht, h]; rfl
    have hcan' : (s.errJudged e).can = s.can := ho .can (by decide)
    have htbl : (s.errJudged e).tbl = s.tbl := ho .tbl (by decide)
    have hrd : ∀ a, t.rd a = (s.errJudged e).rd a := fun a => by
      unfold State.rd
      rw [hregs]
    refine runs_intro he ⟨?_, ?_, fun hm hown => ?_, fun hm hown => ?_, fun hm => ?_, fun o hown ho64 hd => ?_, fun hown hd => ?_, fun hown hd r hr => ?_⟩
    · rw [show 0x14064 + 0x1000 * e.port = 0x14000 + 0x1000 * e.port + 0x64 by omega, hrd, hlec]
    · rw [fld_of_regs hregs, hctr]
    · rw [fld_of_regs hregs, fld_of_regs hregs]
      exact hrx hm hown
    · rw [fld_of_regs hregs, fld_of_regs hregs]
      obtain ⟨g1, g2⟩ := htx hm hown
      refine ⟨g1, g2.trans ?_⟩
      unfold State.txAdds
      rw [Nat.add_comm (ite _ _ _), ← Nat.add_assoc]
    · rw [show 0x14060 + 0x1000 * e.port = 0x14000 + 0x1000 * e.port + 0x60 by omega, hrd, hkeep hm]
    · rw [hdata hd]
      unfold State.runLonger
      rw [hown]
      dsimp only
      rw [if_neg (by omega), if_neg (by omega)]
      unfold State.objFld
      rw [tfld_tset_self (by decide), tfld_of_tbl htbl]
      exact Nat.mod_eq_of_lt (Nat.lt_of_le_of_lt (Nat.min_le_left ..) (by decide))
    · rw [hdata hd]
      unfold State.runLonger
      rw [hown]
      dsimp only
      rw [if_pos rfl, canP_canMod_self (by rw [hcan', hcan]; exact hp), canP_of_can hcan']
    · rw [hdata hd]
      unfold State.runLonger
      rw [hown]
      dsimp only
      rw [canP_canMod_self (by rw [hcan', hcan]; exact hp), canP_of_can hcan', hr]
      exact List.lookup_cons_self
  · intro p s hp seen
    exact ⟨errPassive_enters hp, errPassive_idles, busOff_stops hp, busOff_idles, boffRecovered_recovers hp, boffRecovered_idles⟩
  · intro p s hp hs
    have hcan : s.can.length = 2 := hs.can
    refine ⟨fun o ho h3 h0 => idClash_object hp hcan ho h3 h0, fun o ho h => idClash_object_idles ho h, idClash_reference hp hcan, fun h => ?_,
      idClash_privileged hp hcan, fun h => ?_, fun id n hl hn => suspect_told hp hcan hl hn, fun id n told hl h => suspect_idles hl h⟩
    · exact next_congr ((if_neg (by omega)).trans ((if_pos rfl).trans (if_pos h)))
    · exact next_congr ((if_neg (by omega)).trans ((if_neg (by decide)).trans ((if_pos rfl).trans (if_pos h))))

end Sys2Proof.Machine
end

section
/-! ### Plant buses: sleep, wake and the cycles of the stations -/

namespace Sys2Proof.Machine

/-! #### Sleep and wake (R254, R264, R265) -/

section
variable {s : State} {p : Nat}

theorem sleep_sleeps (hp : p < 2) (hlen : s.can.length = 2) (h : (s.canP p).sleep = false) :
    runs (.sleep p) s (fun t => (t.canP p).sleep = true ∧ (t.canP p).ref = (s.canP p).ref ∧ (t.canP p).pend = (s.canP p).pend) := by
  obtain ⟨u, hu⟩ : ∃ u, u = s.tailFrom p := ⟨_, rfl⟩
  obtain ⟨v, hv⟩ : ∃ v, v = u.canMod p (fun c => { c with sleep := true }) := ⟨_, rfl⟩
  have he : exec (.sleep p) s = .next (v.privMove p) := by
    rw [hv, hu]
    exact next_congr (if_neg (by rw [h]; decide))
  obtain ⟨hkeep, -⟩ := privMove_shows v hp
  have hlu : u.can.length = 2 := by
    rw [hu]
    exact (can_length_canMod ..).trans hlen
  have hu' : (u.canP p).ref = (s.canP p).ref ∧ (u.canP p).pend = (s.canP p).pend := by
    rw [hu]
    unfold State.tailFrom
    rw [canP_canMod_self (by omega)]
    exact ⟨rfl, rfl⟩
  have hvp : v.canP p = { u.canP p with sleep := true } := by rw [hv, canP_canMod_self (by omega)]
  refine runs_intro he ⟨?_, ?_, ?_⟩
  · rw [hkeep CanSt.sleep (fun _ _ _ => rfl) p, hvp]
  · rw [hkeep CanSt.ref (fun _ _ _ => rfl) p, hvp]
    exact hu'.1
  · rw [hkeep CanSt.pend (fun _ _ _ => rfl) p, hvp]
    exact hu'.2

/-- A port that wakes integrates, without the reference that waited, and its event is raised. -/
theorem canWake_wakes (hp : p < 2) (hlen : s.can.length = 2) (h : (s.canP p).sleep = true) :
    ((s.canWake p).canP p).sleep = false ∧ ((s.canWake p).canP p).integ = true ∧ ((s.canWake p).canP p).ref = none
    ∧ ((s.canWake p).canP p).pend = (s.canP p).pend ∧ (s.canWake p).bit (bitAt (0x14010 + 0x1000 * p) 7) = true
    ∧ (∀ q, q ≠ p → (s.canWake p).canP q = s.canP q) := by
  obtain ⟨hnone, -, -, -, -, hlen', -⟩ := canRefLost_shows (s := s) (p := p) (by omega) hp
  obtain ⟨u, hu⟩ : ∃ u, u = s.canRefLost p := ⟨_, rfl⟩
  obtain ⟨v, hv⟩ : ∃ v, v = u.canMod p (fun c => { c with sleep := false, integ := true, tail := none }) := ⟨_, rfl⟩
  have he : s.canWake p = v.raiseEv (canPage p) 7 := by
    rw [hv, hu]
    exact if_pos h
  have hother : (u.canP p).pend = (s.canP p).pend ∧ ∀ q, q ≠ p → u.canP q = s.canP q := by
    rw [hu]
    unfold State.canRefLost
    split
    · have hc : ((s.canBump p .CANC_REF_LOST).wr (cfld p 0x74 0 32).addr 0xFFFFFFFF).can = s.can :=
        (can_wr ..).trans (canBump_beside s p _ .can (by decide))
      refine ⟨?_, fun q hq => ?_⟩
      · rw [canP_canMod_self (by rw [hc, hlen]; exact hp), canP_of_can hc]
      · rw [canP_canMod_ne _ hq, canP_of_can hc]
    · exact ⟨rfl, fun _ _ => rfl⟩
  rw [← hu] at hnone hlen'
  have hvp : v.canP p = { u.canP p with sleep := false, integ := true, tail := none } := by rw [hv, canP_canMod_self (by omega)]
  rw [he]
  simp only [canP_of_can can_portEvent, hvp]
  refine ⟨trivial, trivial, hnone, hother.1, bit_portEvent hp (by decide), fun q hq => ?_⟩
  rw [hv, canP_canMod_ne _ hq, hother.2 q hq]

theorem canWake_awake (h : (s.canP p).sleep = false) : s.canWake p = s := if_neg (by rw [h]; decide)

theorem busWake_role3 (hp : p < 2) (hr : s.canRole p = 3) (d : Nat) (f : CanFrame) :
    exec (.busWake p d (some f)) s = .next (if s.wakeFrame p f then s.canWake p else s) := by
  refine next_congr ((if_neg ?_).trans (if_pos hr))
  simp [hr]
  omega

theorem busWake_level (hp : p < 2) (h0 : s.canRole p ≠ 0) (h3 : s.canRole p ≠ 3) (d : Nat) (f : Option CanFrame) :
    exec (.busWake p d f) s = .next (if s.fld (cfld p 0x40 8 4) * 500 < d then s.canWake p else s) := by
  refine next_congr ((if_neg ?_).trans (if_neg h3))
  simp [h0]
  omega

theorem busWake_off (h0 : s.canRole p = 0) (d : Nat) (f : Option CanFrame) : exec (.busWake p d f) s = .next s :=
  next_congr (if_pos (by simp [h0]))

end

/-! #### Stations (R274) -/

/-- The words of the pages beside the plant buses', and the tables that events and the program engines touch. -/
def offBus (a : Nat) : Prop := a < 0x14000 ∨ 0x16000 ≤ a
def offBusTbl (t : Nat) : Prop := evTbl t ∨ 0x1600 ≤ t

theorem offBus_of_faultReg {a : Nat} (h : faultReg a = true) : offBus a := by
  unfold offBus
  simp only [faultReg, modeReg, Bool.or_eq_true, beq_iff_eq, pageOf_eq] at h
  omega

theorem offBus_of_evReg {pg a : Nat} (_hpg : pg = 0x30 ∨ pg = 0x16 ∨ (0x20 ≤ pg ∧ pg < 2 ^ 20)) (h : evReg pg a) : offBus a := by
  unfold evReg at h
  unfold offBus
  simp only [addrOf_eq, pageOf_eq] at h
  omega

theorem near_stnPublish (s : State) (p k : Nat) : Near offBus evTbl s (s.stnPublish p k) := by
  unfold State.stnPublish
  extract_lets st d v n its s1
  have h1 : Near offBus evTbl s s1 := near_fwPutsNext' (fun _ => offBus_of_evReg (.inl rfl)) (fun _ => offBus_of_faultReg)
    (by unfold offBus; decide) (fun _ h => h) ..
  exact near_same h1 (regs_canMod ..) (tbl_canMod ..)

/-- Publishing a station leaves its record. -/
theorem stnFld_stnPublish (s : State) {p k : Nat} (hp : p < 2) (hk : k < 32) {w : Nat} (hw : w < 256) (lo n : Nat) :
    (s.stnPublish p k).stnFld p k w lo n = s.stnFld p k w lo n :=
  congrArg (wbits · lo n) (trd_of_tblBut (near_stnPublish s p k).tbl (by omega) hw (by unfold evTbl ctab; omega))

/-- MISS, GOOD_RUN and STATE of a station. -/
def State.stnShows (s : State) (p k : Nat) (v : Nat × Nat × Nat) : Prop :=
  s.stnFld p k 2 16 8 = v.1 ∧ s.stnFld p k 2 8 8 = v.2.1 ∧ s.stnState p k = v.2.2

section
variable {s : State} {p k : Nat}

theorem stnShows_publish (hp : p < 2) (hk : k < 32) {v : Nat × Nat × Nat} (h : s.stnShows p k v) : (s.stnPublish p k).stnShows p k v := by
  obtain ⟨h1, h2, h3⟩ := h
  exact ⟨(stnFld_stnPublish s hp hk (by decide) 16 8).trans h1, (stnFld_stnPublish s hp hk (by decide) 8 8).trans h2,
    (stnFld_stnPublish s hp hk (by decide) 29 3).trans h3⟩

theorem stnShows_set {v : Nat × Nat × Nat} (h : s.stnShows p k v) {st : Nat} (hst : st < 8) : (s.stnSet p k st).stnShows p k (v.1, v.2.1, st) := by
  obtain ⟨h1, h2, -⟩ := h
  exact ⟨(tfld_tset_apart (by decide)).trans h1, (tfld_tset_apart (by decide)).trans h2, (tfld_tset_self (by decide)).trans (Nat.mod_eq_of_lt hst)⟩

theorem stnShows_event (hp : p < 2) (hk : k < 32) {b : Nat} {v : Nat × Nat × Nat} (h : s.stnShows p k v) :
    (s.raiseEv (canPage p) b).stnShows p k v := by
  have ht : (s.raiseEv (canPage p) b).trd (ctab p 1) k 2 = s.trd (ctab p 1) k 2 :=
    trd_portEvent hp (by omega) (by decide) (by unfold evTbl ctab; omega)
  obtain ⟨h1, h2, h3⟩ := h
  exact ⟨(congrArg (wbits · 16 8) ht).trans h1, (congrArg (wbits · 8 8) ht).trans h2, (congrArg (wbits · 29 3) ht).trans h3⟩

theorem stnShows_counts (s : State) (p k : Nat) {miss run : Nat} (hm : miss < 256) (hr : run < 256) :
    ((s.tset (ctab p 1) k 2 16 8 miss).tset (ctab p 1) k 2 8 8 run).stnShows p k (miss, run, s.stnState p k) := by
  refine ⟨?_, ?_, ?_⟩
  · exact (tfld_tset_apart (by decide)).trans ((tfld_tset_self (by decide)).trans (Nat.mod_eq_of_lt hm))
  · exact (tfld_tset_self (by decide)).trans (Nat.mod_eq_of_lt hr)
  · exact (tfld_tset_apart (by decide)).trans (tfld_tset_apart (by decide))

theorem stnEval_good (hp : p < 2) (hk : k < 32) (he : (s.stn p k).ended = true) :
    (s.stnEval p k).stnShows p k (0, min 255 (s.stnFld p k 2 8 8 + 1),
      if s.stnState p k = 0 then (if 1 ≤ s.stnFld p k 2 8 8 then 1 else 0) else if s.stnState p k = 2 then 1 else if s.stnState p k = 3 then 4
        else if s.stnState p k = 4 then (if 1 ≤ s.stnFld p k 2 8 8 then 1 else 4) else s.stnState p k) := by
  have hrun : 2 ≤ min 255 (s.stnFld p k 2 8 8 + 1) ↔ 1 ≤ s.stnFld p k 2 8 8 := by omega
  have h1 := stnShows_counts s p k (miss := 0) (run := min 255 (s.stnFld p k 2 8 8 + 1)) (by decide) (by omega)
  unfold State.stnEval
  simp only [he, Bool.not_true, Bool.and_false, Bool.false_eq_true, if_false, if_true, hrun]
  refine stnShows_publish hp hk ?_
  obtain ⟨st, hst⟩ : ∃ st, st = s.stnState p k := ⟨_, rfl⟩
  rw [← hst] at h1 ⊢
  split
  · next h0 =>
    split
    · exact stnShows_set h1 (by decide)
    · rw [h0] at h1
      exact h1
  · split
    · exact stnShows_set h1 (by decide)
    · split
      · exact stnShows_set h1 (by decide)
      · split
        · next h4 =>
          split
          · exact stnShows_event hp hk (stnShows_set h1 (by decide))
          · rw [h4] at h1
            exact h1
        · exact h1

theorem stnEval_missed (hp : p < 2) (hk : k < 32) (he : (s.stn p k).ended = false) (hg : (s.canP p).gapEnded = false) :
    (s.stnEval p k).stnShows p k (min 255 (s.stnFld p k 2 16 8 + 1), 0,
      if s.stnState p k = 1 then 2 else if s.stnState p k = 4 then 3 else s.stnState p k) := by
  have h1 := stnShows_counts s p k (miss := min 255 (s.stnFld p k 2 16 8 + 1)) (run := 0) (by omega) (by decide)
  unfold State.stnEval
  simp only [he, hg, Bool.false_and, Bool.false_eq_true, if_false]
  refine stnShows_publish hp hk ?_
  obtain ⟨st, hst⟩ : ∃ st, st = s.stnState p k := ⟨_, rfl⟩
  rw [← hst] at h1 ⊢
  split
  · exact stnShows_set h1 (by decide)
  · split
    · exact stnShows_set h1 (by decide)
    · exact h1

theorem stnEval_gap (hp : p < 2) (hk : k < 32) (he : (s.stn p k).ended = false) (hg : (s.canP p).gapEnded = true) :
    (s.stnEval p k).stnShows p k (s.stnFld p k 2 16 8, s.stnFld p k 2 8 8, s.stnState p k) := by
  unfold State.stnEval
  simp only [he, hg, Bool.not_false, Bool.and_true, if_true]
  exact stnShows_publish hp hk ⟨rfl, rfl, rfl⟩

/-! #### STN_DROP and STN_RESET -/

/-- Error records of the program engines leave the plant buses. -/
theorem near_errQ (s : State) {c : Nat} (hc : c < 2) (cause arg sub : Nat) : Near offBus offBusTbl s (s.errQ c cause arg sub) := by
  have hev : ∀ {u : State} (b : Nat), Near offBus offBusTbl s u → Near offBus offBusTbl s (u.raiseEv (cpePage c) b) := fun b h =>
    near_raiseEv h (by unfold cpePage; omega) (fun _ => offBus_of_evReg (by unfold cpePage; omega)) fun _ h => .inl h
  have hbump : ∀ {u : State} (k : Ctr), k.f.addr = 0x21078 ∨ k.f.addr = 0x2107C → k.ovf.1 = 0x21090 → Near offBus offBusTbl s u →
      Near offBus offBusTbl s (u.cpeBump c k) := fun {u} k h1 h2 h => by
    refine near_bump (c := k.shift c) h ?_ ?_
    · show offBus (k.f.addr + 0x1000 * c)
      unfold offBus
      omega
    · show offBus (k.ovf.1 + 0x1000 * c)
      unfold offBus
      omega
  unfold State.errQ
  extract_lets q dup s1 i s1' s2
  have h0 := Near.refl offBus offBusTbl s
  have h1 : Near offBus offBusTbl s s1 := hbump _ (.inr rfl) rfl h0
  have h1' : Near offBus offBusTbl s s1' := near_trecSet h0 fun j _ _ => .inr (by unfold tkeyTid tkey pt; omega)
  have h2 : Near offBus offBusTbl s s2 := near_same h1' (regs_cpeMod ..) (tbl_cpeMod ..)
  split
  · exact h0
  · split
    · split
      · exact h1
      · exact hev _ (near_same h1 (regs_cpeMod ..) (tbl_cpeMod ..))
    · refine hev _ (hbump _ (.inl rfl) rfl (near_wr h2 ?_))
      unfold offBus
      simp only [pfld]
      omega

/-- A station that is dropped: the state before its publication. -/
def State.dropping (s : State) (p k : Nat) : State :=
  let s1 := ((s.stnSet p k 3).raiseEv (canPage p) 5).canBump p .CANC_DROP
  let n := s1.stnFld p k 3 0 16 + 1
  if 65535 ≤ n then (s1.tset (ctab p 1) k 3 0 16 65535).tset (ctab p 1) k 3 31 1 1 else s1.tset (ctab p 1) k 3 0 16 n

theorem dropping_shows (hp : p < 2) (hk : k < 32) :
    (s.dropping p k).stnState p k = 3 ∧ (s.dropping p k).bit (bitAt (0x14010 + 0x1000 * p) 5) = true
      ∧ (s.dropping p k).stnFld p k 3 0 16 = min 65535 (s.stnFld p k 3 0 16 + 1)
      ∧ (s.dropping p k).fld (Ctr.CANC_DROP.shift p).f = min (2 ^ 32 - 1) (s.fld (Ctr.CANC_DROP.shift p).f + 1) := by
  obtain ⟨u, hu⟩ : ∃ u, u = (s.stnSet p k 3).raiseEv (canPage p) 5 := ⟨_, rfl⟩
  obtain ⟨v, hv⟩ : ∃ v, v = u.canBump p .CANC_DROP := ⟨_, rfl⟩
  have he : s.dropping p k = if 65535 ≤ v.stnFld p k 3 0 16 + 1 then (v.tset (ctab p 1) k 3 0 16 65535).tset (ctab p 1) k 3 31 1 1
      else v.tset (ctab p 1) k 3 0 16 (v.stnFld p k 3 0 16 + 1) := by
    rw [hv, hu]
    rfl
  have hvtbl : v.tbl = u.tbl := hv ▸ canBump_beside u p _ .tbl (by decide)
  have htrd : ∀ w, w < 256 → u.trd (ctab p 1) k w = (s.stnSet p k 3).trd (ctab p 1) k w := fun w hw => by
    rw [hu]
    exact trd_portEvent hp (by omega) hw (by unfold evTbl ctab; omega)
  have hst : v.tfld (ctab p 1) k 2 29 3 = 3 := by
    rw [tfld_of_tbl hvtbl]
    exact (congrArg (wbits · 29 3) (htrd 2 (by decide))).trans (tfld_tset_self (by decide))
  have hn : v.stnFld p k 3 0 16 = s.stnFld p k 3 0 16 := by
    unfold State.stnFld
    rw [tfld_of_tbl hvtbl]
    exact (congrArg (wbits · 0 16) (htrd 3 (by decide))).trans (tfld_tset_apart (by decide))
  have hlt : s.stnFld p k 3 0 16 < 2 ^ 16 := tfld_lt ..
  have hbit : v.bit (bitAt (0x14010 + 0x1000 * p) 5) = true := by
    rw [hv, bit_of_rd (f := bitAt (0x14010 + 0x1000 * p) 5) (rd_canBump (k := 0xD0) (j := 0xDC) rfl rfl (by simp only [bitAt]; omega) (by simp only [bitAt]; omega)), hu]
    exact bit_portEvent hp (by decide)
  have hctr : v.fld (Ctr.CANC_DROP.shift p).f = min (2 ^ 32 - 1) (s.fld (Ctr.CANC_DROP.shift p).f + 1) := by
    rw [hv, canBump_stays u p (k := 0xD0) (j := 0xDC) rfl rfl rfl (by decide), hu]
    have hset : (s.stnSet p k 3).regs = s.regs := regs_tset ..
    refine congrArg (fun x => min (2 ^ 32 - 1) (x + 1)) ((fld_of_rd ?_).trans (fld_of_regs hset _))
    rw [show (Ctr.CANC_DROP.shift p).f.addr = 0x14000 + 0x1000 * p + 0xD0 by show 0x140D0 + 0x1000 * p = _; omega]
    exact rd_portEvent hp hp (by decide) (by decide)
  rw [he, hn]
  split
  · next h =>
    refine ⟨?_, by rw [bit_tset, bit_tset, hbit], ?_, by rw [fld_tset, fld_tset, hctr]⟩
    · unfold State.stnState State.stnFld
      rw [tfld_tset_apart (by decide), tfld_tset_apart (by decide), hst]
    · unfold State.stnFld at h hlt ⊢
      rw [tfld_tset_apart (by decide), tfld_tset_self (by decide)]
      omega
  · next h =>
    refine ⟨?_, by rw [bit_tset, hbit], ?_, by rw [fld_tset, hctr]⟩
    · unfold State.stnState State.stnFld
      rw [tfld_tset_apart (by decide), hst]
    · unfold State.stnFld at h hlt ⊢
      rw [tfld_tset_self (by decide)]
      omega

theorem stnDrop_drops (hp : p < 2) (hk : k < 32) (hd : s.stnDef p k = true) (hst : s.stnState p k = 2) (hm : s.stnFld p k 0 0 8 ≤ s.stnFld p k 2 16 8) :
    runs (.stnDrop p k) s (fun t => t.stnState p k = 3 ∧ t.bit (bitAt (0x14010 + 0x1000 * p) 5) = true
      ∧ t.stnFld p k 3 0 16 = min 65535 (s.stnFld p k 3 0 16 + 1)
      ∧ t.fld (Ctr.CANC_DROP.shift p).f = min (2 ^ 32 - 1) (s.fld (Ctr.CANC_DROP.shift p).f + 1)) := by
  obtain ⟨x, hx⟩ : ∃ x, x = (s.dropping p k).stnPublish p k := ⟨_, rfl⟩
  have hdrop : s.stnDrop p k = (x, true) := by
    rw [hx]
    exact if_pos (by simp [hd, hst, hm])
  obtain ⟨t, he, hnear⟩ : ∃ t, exec (.stnDrop p k) s = .next t ∧ Near offBus offBusTbl x t := by
    refine ⟨[0, 1].foldl (fun a c => if (x.imgInputs c 0).any (fun e => x.stnItem p k e.1) then a.errQ c 1 (p * 256 + k) 0 else a) x, next_congr ?_, ?_⟩
    · rw [if_neg (by omega), hdrop]
    · refine near_foldl (Near.refl _ _ x) fun a c hc ha => ?_
      have hc2 : c < 2 := by
        simp only [List.mem_cons, List.not_mem_nil, or_false] at hc
        omega
      exact near_ite' (ha.trans (near_errQ a hc2 ..)) ha
  have hpub : Near offBus offBusTbl (s.dropping p k) t := by
    rw [hx] at hnear
    exact ((near_stnPublish _ p k).mono (fun _ h => h) fun _ h => .inl h).trans hnear
  obtain ⟨h1, h2, h3, h4⟩ := dropping_shows (s := s) hp hk
  have htrd : ∀ w, w < 256 → t.trd (ctab p 1) k w = (s.dropping p k).trd (ctab p 1) k w := fun w hw =>
    trd_of_tblBut hpub.tbl (by omega) hw (by unfold offBusTbl evTbl ctab; omega)
  refine runs_intro he ⟨(congrArg (wbits · 29 3) (htrd 2 (by decide))).trans h1, ?_, (congrArg (wbits · 0 16) (htrd 3 (by decide))).trans h3, ?_⟩
  · exact (bit_of_rd (hpub.regs _ (by unfold offBus; simp only [bitAt]; omega))).trans h2
  · refine (fld_of_rd (hpub.regs _ ?_)).trans h4
    show ¬ offBus (0x140D0 + 0x1000 * p)
    unfold offBus
    omega

theorem stnDrop_idles (hp : p < 2) (h : s.stnDef p k = false ∨ s.stnState p k ≠ 2 ∨ s.stnFld p k 2 16 8 < s.stnFld p k 0 0 8) :
    exec (.stnDrop p k) s = .next s := by
  have hdrop : s.stnDrop p k = (s, false) := by
    refine if_neg ?_
    rcases h with h | h | h
    · simp [h]
    · simp [h]
    · simp only [Bool.and_eq_true, decide_eq_true_eq]
      omega
  refine next_congr ?_
  rw [if_neg (by omega), hdrop]

theorem stnReset_resets (hp : p < 2) (hk : k < 32) (h : s.fld (cfld p 0x48 0 5) = k) :
    runs (.stnReset p) s (fun t => t.stnState p k = 0 ∧ t.stnFld p k 2 16 8 = 0 ∧ t.stnFld p k 2 8 8 = 0 ∧ t.trd (ctab p 1) k 3 = 0) := by
  obtain ⟨x, hx⟩ : ∃ x, x = s.stnInit p k := ⟨_, rfl⟩
  have he : exec (.stnReset p) s = .next (x.twr (ctab p 1) k 3 0) := by
    rw [hx, ← h]
    rfl
  have hshow : x.stnShows p k (0, 0, 0) := by
    rw [hx]
    unfold State.stnInit
    extract_lets s1
    have h1 : s1.stnShows p k (0, 0, 0) := by
      have h0 : (s.stnSet p k 0).stnState p k = 0 := tfld_tset_self (by decide)
      have h2 := stnShows_counts (s.stnSet p k 0) p k (miss := 0) (run := 0) (by decide) (by decide)
      rw [h0] at h2
      exact h2
    refine stnShows_publish hp hk ?_
    obtain ⟨g1, g2, g3⟩ := h1
    exact ⟨(tfld_canMod ..).trans g1, (tfld_canMod ..).trans g2, (tfld_canMod ..).trans g3⟩
  obtain ⟨h1, h2, h3⟩ := hshow
  exact runs_intro he ⟨(tfld_twr_word (by decide)).trans h3, (tfld_twr_word (by decide)).trans h1, (tfld_twr_word (by decide)).trans h2, trd_twr_self⟩

end

/-- Settles O35: sleep and wake, and the cycle of a station, each by the lemma of its operation. -/
theorem portsSleepAndStationsCycle : Obligations.PortsSleepAndStationsCycle := by
  unfold Obligations.PortsSleepAndStationsCycle
  refine ⟨?_, ?_⟩
  · intro p s hp hs woken
    have hcan : s.can.length = 2 := hs.can
    have hwake : (s.canP p).sleep = true → woken (s.canWake p) := fun h => canWake_wakes hp hcan h
    refine ⟨sleep_sleeps hp hcan, fun h => ⟨next_congr (if_pos h), runs_intro rfl (hwake h)⟩, fun h => next_congr (canWake_awake h),
      fun d f h h0 h3 hd => ?_, fun d f h h3 hf => ?_, fun d f h => ?_, fun d f h3 hd => ?_, fun hm => ?_, fun hm => next_congr (if_neg hm)⟩
    · exact runs_intro ((busWake_level hp h0 h3 d f).trans (next_congr (if_pos hd))) (hwake h)
    · exact runs_intro ((busWake_role3 hp h3 d f).trans (next_congr (if_pos hf))) (hwake h)
    · rcases h with h | ⟨h3, hf⟩
      · exact busWake_off h d _
      · exact (busWake_role3 hp h3 d f).trans (next_congr (if_neg (by rw [hf]; decide)))
    · by_cases h0 : s.canRole p = 0
      · exact busWake_off h0 d f
      · exact (busWake_level hp h0 h3 d f).trans (next_congr (if_neg (by omega)))
    · refine runs_intro (next_congr (if_pos hm)) ⟨?_, (canMod_keeps (Keeps.refl _ s) (List.Subset.refl _)).only⟩
      rw [canP_canMod_self (by omega)]
  · intro p k s hp hk hs st
    refine ⟨stnEval_good hp hk, fun he hg => ?_, fun he hg => ?_, stnDrop_drops hp hk, stnDrop_idles hp, stnReset_resets hp hk⟩
    · obtain ⟨h1, h2, h3⟩ := stnEval_missed hp hk he hg
      exact ⟨h2, h1, h3⟩
    · obtain ⟨h1, h2, h3⟩ := stnEval_gap hp hk he hg
      exact ⟨h2, h1, h3⟩

end Sys2Proof.Machine
end

section
/-! ### The substation network: the checks of a received message -/

namespace Sys2Proof.Machine

/-! #### What counting a datagram leaves -/

/-- The words that counting a datagram changes: those of ports A and B, SNET_DUP_DISC, and the interrupt controller's and the recorder's. -/
def gspReg (a : Nat) : Prop := (0x10000 ≤ a ∧ a < 0x12000) ∨ a = 0x120F0 ∨ pageOf a = 7 ∨ pageOf a = 8

/-- `t` is `s` with datagrams counted. -/
structure Counted (s t : State) : Prop where
  near : Near gspReg evTbl s t
  snet : t.snet = s.snet
  sent : t.sent = s.sent

theorem Counted.refl (s : State) : Counted s s := ⟨Near.refl _ _ s, rfl, rfl⟩

theorem Counted.trans {s t u : State} (h : Counted s t) (h' : Counted t u) : Counted s u :=
  ⟨h.near.trans h'.near, h'.snet.trans h.snet, h'.sent.trans h.sent⟩

theorem counted_bump (s : State) {c : Ctr} (h1 : gspReg c.f.addr) (hw : c.kind = .W ∨ gspReg c.ovf.1) : Counted s (s.bump c) :=
  ⟨hw.elim (fun h => near_bumpW (Near.refl _ _ s) h1 h) fun h => near_bump (Near.refl _ _ s) h1 h, snet_bump .., sent_bump ..⟩

theorem gspReg_of_evReg {p a : Nat} (_hp : p = 0x10 ∨ p = 0x11) (h : evReg p a) : gspReg a := by
  unfold evReg at h
  unfold gspReg
  simp only [addrOf_eq, pageOf_eq] at h ⊢
  omega

theorem counted_ite {s t u : State} {c : Prop} [Decidable c] (h1 : Counted s t) (h2 : Counted s u) : Counted s (if c then t else u) := by
  split
  · exact h1
  · exact h2

theorem counted_countRx (s : State) {g : Gsp} (hp : g.port < 2) : Counted s (s.countRx g) := by
  have hport : ∀ (x : State) (q : Nat) (c : Ctr), q < 2 → c.f.addr = 0x10058 ∨ c.f.addr = 0x1006C ∨ c.f.addr = 0x10070 → c.kind = .W →
      Counted x (x.bump (c.shift q)) := fun x q c hq hc hw => counted_bump x (.inl (by
        have h : (c.shift q).f.addr = c.f.addr + 0x1000 * q := rfl
        rw [h]
        omega)) (.inl hw)
  unfold State.countRx
  split
  · exact .refl s
  · extract_lets s1 s2
    have h1 : Counted s s1 := hport s _ _ hp (.inl rfl) rfl
    have h2 : Counted s s2 := counted_ite (h1.trans ⟨near_raiseEv (near_bump (Near.refl _ _ s1) (.inl (by
        show 0x10000 ≤ 0x10068 + 0x1000 * g.port ∧ 0x10068 + 0x1000 * g.port < 0x12000
        omega)) (.inl (by
        show 0x10000 ≤ 0x10074 + 0x1000 * g.port ∧ 0x10074 + 0x1000 * g.port < 0x12000
        omega))) (by omega) (fun _ => gspReg_of_evReg (by omega)) fun _ h => h,
        (raiseEv_only _ _ _ .snet (by decide)).trans (snet_bump ..), (raiseEv_only _ _ _ .sent (by decide)).trans (sent_bump ..)⟩) h1
    refine counted_ite ?_ (h2.trans (hport s2 _ _ hp (.inr (.inl rfl)) rfl))
    exact (h2.trans (hport s2 _ _ (by omega) (.inl rfl) rfl)).trans (counted_bump _ (.inr (.inl rfl)) (.inl rfl))

/-- The state in which a message that the module hears is judged. -/
def State.heard (s : State) (g : Gsp) : State :=
  if (s.countRx g).mstate = 3 then s.countRx g else (s.countRx g).bump (Ctr.SNA_GSP_FIRST.shift g.port)

theorem counted_heard (s : State) {g : Gsp} (hp : g.port < 2) : Counted s (s.heard g) := by
  have h := counted_countRx s hp
  refine counted_ite h (h.trans (counted_bump _ (.inl ?_) (.inl rfl)))
  show 0x10000 ≤ 0x10070 + 0x1000 * g.port ∧ 0x10070 + 0x1000 * g.port < 0x12000
  omega

section
variable {s t : State}

theorem Counted.rd (h : Counted s t) {a : Nat} (ha : a < 0x7000 ∨ (0x9000 ≤ a ∧ a < 0x10000) ∨ (0x12000 ≤ a ∧ a ≠ 0x120F0)) : t.rd a = s.rd a :=
  h.near.regs a (by
    unfold gspReg
    simp only [pageOf_eq]
    omega)

theorem Counted.trd (h : Counted s t) {tid : Nat} (ht : 0x0803 ≤ tid) (i w : Nat) : t.trd tid i w = s.trd tid i w :=
  h.near.tbl (tkey tid i w) (by
    unfold evTbl tkeyTid tkey
    omega)

theorem Counted.tfld (h : Counted s t) {tid : Nat} (ht : 0x0803 ≤ tid) (i w lo n : Nat) : t.tfld tid i w lo n = s.tfld tid i w lo n :=
  congrArg (wbits · lo n) (h.trd ht i w)

theorem Counted.node (h : Counted s t) (n : Nat) : t.node n = s.node n := by
  unfold State.node
  rw [h.snet]

theorem Counted.mstate (h : Counted s t) : t.mstate = s.mstate := fld_of_rd (f := ⟨0x0054, 28, 4⟩) (h.rd (.inl (by decide)))

theorem Counted.gspOpen (h : Counted s t) : t.gspOpen = s.gspOpen := by
  unfold State.gspOpen State.bootStep
  rw [h.mstate, fld_of_rd (f := ⟨0x0054, 24, 4⟩) (h.rd (.inl (by decide)))]

theorem Counted.nodeDef (h : Counted s t) (n : Nat) : t.nodeDef n = s.nodeDef n := by
  unfold State.nodeDef
  rw [h.tfld (by decide)]

theorem Counted.nodeGroup (h : Counted s t) (n : Nat) : t.nodeGroup n = s.nodeGroup n := h.tfld (by decide) ..

theorem Counted.tagOf (h : Counted s t) (g : Gsp) : t.tagOf g = s.tagOf g := by
  unfold State.tagOf
  rw [h.node]

theorem Counted.grpBit (h : Counted s t) {base : Nat} (hb : 0x120F1 ≤ base) (g : Nat) : t.bit (grpBit base g) = s.bit (grpBit base g) :=
  bit_of_rd (h.rd (.inr (.inr (by simp only [Machine.grpBit, bitAt]; omega))))

theorem Counted.keyUsable (h : Counted s t) (i : Nat) : t.keyUsable i = s.keyUsable i := by
  unfold State.keyUsable State.slotState
  rw [h.tfld (by decide), bit_of_rd (f := bitAt 0x904C 31) (h.rd (.inr (.inl (by decide))))]

theorem Counted.keyOk (h : Counted s t) (g : Gsp) : t.keyOk g = s.keyOk g := by
  have hm : t.masterSlot = s.masterSlot := fld_of_rd (f := ⟨0x1208C, 0, 7⟩) (h.rd (.inr (.inr (by decide))))
  have hw : t.wrapSlot = s.wrapSlot := fld_of_rd (f := ⟨0x1208C, 8, 7⟩) (h.rd (.inr (.inr (by decide))))
  have hg : ∀ n, t.groupGen n = s.groupGen n := fun n => by
    unfold State.groupGen
    rw [h.snet]
  unfold State.keyOk State.groupOk State.genOk State.slotActive grpRev grpOld
  rw [hm, hw, hg, h.keyUsable, h.keyUsable, h.grpBit (by decide), h.grpBit (by decide)]

end

/-! #### The checks in their order (R210) -/

/-- The head of a message is right: destination port, version, flags and length. -/
def State.headOk (s : State) (g : Gsp) : Prop :=
  g.dport = s.fld ⟨0x12050, 0, 16⟩ ∧ g.version = 1 ∧ g.flags / 2 ^ 15 % 2 = 1 ∧ g.flags / 2 ^ 3 % 2 ^ 12 = 0 ∧ g.length ≤ 1400
    ∧ g.length = g.payload.length

/-- Its node is known, and of the group that the key names. -/
def State.nodeKnown (s : State) (g : Gsp) : Prop := s.nodeDef g.node = true ∧ s.nodeGroup g.node = g.group ∧ g.typ ∈ [1, 2, 4, 6, 9]

/-- The checks from the head on. -/
def State.gspJudge (s : State) (g : Gsp) : GspRes :=
  if g.dport != s.fld ⟨0x12050, 0, 16⟩ || g.version != 1 || g.flags / 2 ^ 15 % 2 != 1 || g.flags / 2 ^ 3 % 2 ^ 12 != 0 || decide (1400 < g.length)
      || g.length != g.payload.length then .refused (s.bump .SNET_RX_BAD)
  else if !s.keyOk g || !s.tagOf g then .refused (s.bump .SNET_RX_AUTH_FAIL)
  else if !s.nodeDef g.node || s.nodeGroup g.node != g.group || !([1, 2, 4, 6, 9].contains g.typ) then
    .refused (s.bump .SNET_RX_UNKNOWN)
  else
    match epochCheck (s.node g.node) g.epoch g.seq with
    | .back =>
      if g.typ = 1 then s.gspRecords g (fun a rs => .back (a.bump .SNET_RX_OK) rs)
      else .refused (s.bump .SNET_EPOCH_BACK)
    | .replay => .refused (s.bump .SNET_RX_REPLAY)
    | .ok x fresh =>
      s.gspRecords g (fun a rs =>
        .ok (((a.bump .SNET_RX_OK).nodeMod g.node (fun d => d.track g.epoch x fresh)).twr 0x1201 g.node 16 (BitVec.ofNat 32 g.epoch)) x rs)

section
variable {s : State} {g : Gsp}

theorem gspCheck_deaf (h : 2 ≤ g.port ∨ (s.lineUp g.port = false ∧ s.mstate ≠ 3)) : s.gspCheck g = .refused s := by
  unfold State.gspCheck
  refine if_pos ?_
  rcases h with h | ⟨h1, h2⟩
  · simp [h]
  · simp [h1, h2]

/-- A message that the module hears is judged in the state that has counted it. -/
theorem gspCheck_heard (h : s.gspHears g) : s.gspCheck g = (s.heard g).gspJudge g := by
  obtain ⟨hp, hup, hen, hopen⟩ := h
  have hc := counted_countRx s hp
  have h1 : ¬ ((!s.lineUp g.port && s.mstate != 3) || decide (2 ≤ g.port)) = true := by
    rcases hup with h | h <;> simp [h] <;> omega
  have h2 : ¬ (!(s.countRx g).bit (bitAt 0x12040 0) || !(s.countRx g).gspOpen) = true := by
    rw [bit_of_rd (f := bitAt 0x12040 0) (hc.rd (.inr (.inr (by decide)))), hc.gspOpen, hen, hopen]
    decide
  unfold State.gspCheck
  rw [if_neg h1]
  exact if_neg h2

theorem gspJudge_bad (h : ¬ s.headOk g) : s.gspJudge g = .refused (s.bump .SNET_RX_BAD) := by
  unfold State.gspJudge
  refine if_pos ?_
  by_contra hc
  simp only [Bool.or_eq_true, bne_iff_ne, ne_eq, decide_eq_true_eq, not_or, not_not, Nat.not_lt] at hc
  obtain ⟨⟨⟨⟨⟨h1, h2⟩, h3⟩, h4⟩, h5⟩, h6⟩ := hc
  exact h ⟨h1, h2, h3, h4, h5, h6⟩

theorem headOk_cond (h : s.headOk g) : ¬ (g.dport != s.fld ⟨0x12050, 0, 16⟩ || g.version != 1 || g.flags / 2 ^ 15 % 2 != 1
    || g.flags / 2 ^ 3 % 2 ^ 12 != 0 || decide (1400 < g.length) || g.length != g.payload.length) = true := by
  obtain ⟨h1, h2, h3, h4, h5, h6⟩ := h
  simp only [Bool.or_eq_true, bne_iff_ne, ne_eq, decide_eq_true_eq, not_or, not_not, Nat.not_lt]
  exact ⟨⟨⟨⟨⟨h1, h2⟩, h3⟩, h4⟩, h5⟩, h6⟩

theorem gspJudge_auth (h : s.headOk g) (hk : s.keyOk g = false ∨ s.tagOf g = false) : s.gspJudge g = .refused (s.bump .SNET_RX_AUTH_FAIL) := by
  unfold State.gspJudge
  rw [if_neg (headOk_cond h)]
  exact if_pos (by rcases hk with h | h <;> simp [h])

theorem keyTag_cond (hk : s.keyOk g = true) (ht : s.tagOf g = true) : ¬ (!s.keyOk g || !s.tagOf g) = true := by simp [hk, ht]

theorem known_cond : (!s.nodeDef g.node || s.nodeGroup g.node != g.group || !([1, 2, 4, 6, 9].contains g.typ)) = true ↔ ¬ s.nodeKnown g := by
  unfold State.nodeKnown
  simp only [Bool.or_eq_true, Bool.not_eq_true', bne_iff_ne, ne_eq, List.contains_eq_mem, decide_eq_false_iff_not, not_and_or, Bool.not_eq_true, or_assoc]

theorem gspJudge_unknown (h : s.headOk g) (hk : s.keyOk g = true) (ht : s.tagOf g = true) (hu : ¬ s.nodeKnown g) :
    s.gspJudge g = .refused (s.bump .SNET_RX_UNKNOWN) := by
  unfold State.gspJudge
  rw [if_neg (headOk_cond h), if_neg (keyTag_cond hk ht)]
  exact if_pos (known_cond.2 hu)

/-- What follows the checks of head, key, tag and node. -/
theorem gspJudge_known (h : s.headOk g) (hk : s.keyOk g = true) (ht : s.tagOf g = true) (hn : s.nodeKnown g) :
    s.gspJudge g = match epochCheck (s.node g.node) g.epoch g.seq with
      | .back =>
        if g.typ = 1 then s.gspRecords g (fun a rs => .back (a.bump .SNET_RX_OK) rs)
        else .refused (s.bump .SNET_EPOCH_BACK)
      | .replay => .refused (s.bump .SNET_RX_REPLAY)
      | .ok x fresh =>
        s.gspRecords g (fun a rs =>
          .ok (((a.bump .SNET_RX_OK).nodeMod g.node (fun d => d.track g.epoch x fresh)).twr 0x1201 g.node 16 (BitVec.ofNat 32 g.epoch)) x rs) := by
  unfold State.gspJudge
  rw [if_neg (headOk_cond h), if_neg (keyTag_cond hk ht), if_neg (fun hc => known_cond.1 hc hn)]

end

/-- A message that a check refuses does nothing but what the check has counted. -/
theorem refused_runs {s u : State} {g : Gsp} {c : Instr} (hc : c ∈ [Instr.subHelloRx g, .subReportRx g, .subStateRx g, .subAckRx g, .subPrivAckRx g])
    (h : s.gspCheck g = .refused u) : exec c s = .next u := by
  simp only [List.mem_cons, List.not_mem_nil, or_false] at hc
  rcases hc with rfl | rfl | rfl | rfl | rfl
  all_goals exact next_congr (by rw [h])

/-- The counter that a refusal raises. -/
theorem refused_counts {s : State} {g : Gsp} (hp : g.port < 2) {k : Ctr} (hk : k.kind = .S) (hf : ∃ off, k.f = ⟨0x120A0 + off, 0, 32⟩ ∧ 0x10 ≤ off ∧ off < 0x50)
    (ho : k.ovf.1 = 0x120F4) :
    ((s.heard g).bump k).fld k.f = min (2 ^ 32 - 1) (s.fld k.f + 1) ∧ ((s.heard g).bump k).snet = s.snet
      ∧ s.tblBut ((s.heard g).bump k) (fun tid _ _ => evTbl tid) ∧ ((s.heard g).bump k).sent = s.sent := by
  have h := counted_heard s hp
  obtain ⟨off, hf, h1, h2⟩ := hf
  have hb := fld_bump_stays (s := s.heard g) (c := k) hk (by rw [hf]; exact Nat.le_refl 32) (.inl (by rw [hf, ho]; dsimp only; omega))
  refine ⟨?_, ?_, ?_, ?_⟩
  · rw [hb, hf]
    exact congrArg (fun x => min (2 ^ 32 - 1) (x + 1)) (fld_of_rd (h.rd (.inr (.inr (by dsimp only; omega)))))
  · exact (snet_bump ..).trans h.snet
  · exact tblBut_trans h.near.tbl (tblBut_of_tbl (tbl_bump ..) _)
  · exact (sent_bump ..).trans h.sent

/-- Settles O36: every check's refusal, in the state that has counted the message. -/
theorem messagesAreCheckedInOrder : Obligations.MessagesAreCheckedInOrder := by
  unfold Obligations.MessagesAreCheckedInOrder
  intro g s c hc head known on judged counts
  have hrun : ∀ k : Ctr, k ∈ [Ctr.SNET_RX_BAD, .SNET_RX_AUTH_FAIL, .SNET_RX_UNKNOWN, .SNET_EPOCH_BACK, .SNET_RX_REPLAY] → on →
      (s.heard g).gspJudge g = .refused ((s.heard g).bump k) → counts k := fun k hk hon hj => by
    refine runs_intro (refused_runs hc ((gspCheck_heard hon).trans hj)) ?_
    simp only [List.mem_cons, List.not_mem_nil, or_false] at hk
    rcases hk with rfl | rfl | rfl | rfl | rfl
    · exact refused_counts hon.1 rfl ⟨0x18, rfl, by decide, by decide⟩ rfl
    · exact refused_counts hon.1 rfl ⟨0x10, rfl, by decide, by decide⟩ rfl
    · exact refused_counts hon.1 rfl ⟨0x1C, rfl, by decide, by decide⟩ rfl
    · exact refused_counts hon.1 rfl ⟨0x44, rfl, by decide, by decide⟩ rfl
    · exact refused_counts hon.1 rfl ⟨0x14, rfl, by decide, by decide⟩ rfl
  have hsame : on → ((s.heard g).headOk g ↔ head) ∧ (s.heard g).keyOk g = s.keyOk g ∧ (s.heard g).tagOf g = s.tagOf g
      ∧ ((s.heard g).nodeKnown g ↔ known) ∧ (s.heard g).node g.node = s.node g.node := fun hon => by
    have h := counted_heard s hon.1
    refine ⟨?_, h.keyOk g, h.tagOf g, ?_, h.node _⟩
    · unfold State.headOk
      rw [fld_of_rd (f := ⟨0x12050, 0, 16⟩) (h.rd (.inr (.inr (by decide))))]
    · unfold State.nodeKnown
      rw [h.nodeDef, h.nodeGroup]
  refine ⟨fun h => refused_runs hc (gspCheck_deaf h), fun hon hh => ?_, fun hon hh hk => ?_, fun hon hh hk ht hu => ?_, fun hon hh hk ht hn hj ht1 => ?_,
    fun hon hh hk ht hn hj => ?_, fun x fresh hon hh hk ht hn hj htlv => ?_⟩
  all_goals obtain ⟨e1, e2, e3, e4, e5⟩ := hsame hon
  · exact hrun _ (by decide) hon (gspJudge_bad (fun h => hh (e1.1 h)))
  · exact hrun _ (by decide) hon (gspJudge_auth (e1.2 hh) (by rw [e2, e3]; exact hk))
  · exact hrun _ (by decide) hon (gspJudge_unknown (e1.2 hh) (e2.trans hk) (e3.trans ht) (fun h => hu (e4.1 h)))
  all_goals have hjudge := gspJudge_known (e1.2 hh) (e2.trans hk) (e3.trans ht) (e4.2 hn)
  all_goals rw [e5, show epochCheck (s.node g.node) g.epoch g.seq = _ from hj] at hjudge
  · exact hrun _ (by decide) hon (hjudge.trans (if_neg ht1))
  · exact hrun _ (by decide) hon hjudge
  · refine hrun _ (by decide) hon (hjudge.trans ?_)
    unfold State.gspRecords
    rw [htlv]

end Sys2Proof.Machine
end

section
/-! ### The substation network: what a message that passes its checks does -/

namespace Sys2Proof.Machine

/-! #### The entry of a node -/

theorem node_of_snet {s t : State} (h : t.snet = s.snet) (n : Nat) : t.node n = s.node n := by
  unfold State.node
  rw [h]

@[simp] theorem node_nodeMod_self {s : State} {n : Nat} {f : NodeSt → NodeSt} : (s.nodeMod n f).node n = f (s.node n) := by
  simp [State.nodeMod, State.snetMod, State.node]

theorem node_nodeMod_other {s : State} {n m : Nat} {f : NodeSt → NodeSt} (h : m ≠ n) : (s.nodeMod n f).node m = s.node m := by
  have hb : (m == n) = false := beq_eq_false_iff_ne.2 h
  simp only [State.nodeMod, State.snetMod, State.node, List.lookup, hb]
  rw [lookup_filter_other h]

/-! #### A message that passes -/

/-- The words that the checks of a message that passes change. -/
def passReg (a : Nat) : Prop := gspReg a ∨ a = 0x120B8 ∨ a = 0x120AC ∨ a = 0x120F4

/-- `t` is `s` with the message counted and its node's tracking and budget advanced. -/
structure Judged (g : Gsp) (s t : State) : Prop where
  near : Near passReg (fun tid => evTbl tid ∨ tid = 0x1201) s t
  image : ∀ w, w < 16 → t.trd 0x1201 g.node w = s.trd 0x1201 g.node w
  rest : { t.snet with nodes := s.snet.nodes } = s.snet
  node : ∃ e x l c m, t.node g.node = { s.node g.node with epoch := e, x := x, seen := l, msgCyc := c, msgs := m }
  sent : t.sent = s.sent

section
variable {s t : State} {g : Gsp}

theorem Judged.nodeMod (h : Judged g s t) {f : NodeSt → NodeSt}
    (hf : ∃ e x l c m, f (t.node g.node) = { t.node g.node with epoch := e, x := x, seen := l, msgCyc := c, msgs := m }) :
    Judged g s (t.nodeMod g.node f) := by
  obtain ⟨e, x, l, c, m, hf⟩ := hf
  obtain ⟨e', x', l', c', m', hn⟩ := h.node
  refine ⟨near_same h.near (regs_nodeMod ..) (tbl_nodeMod ..), fun w hw => (trd_of_tbl (tbl_nodeMod ..) ..).trans (h.image w hw), h.rest,
    ⟨e, x, l, c, m, ?_⟩, (sent_nodeMod ..).trans h.sent⟩
  rw [node_nodeMod_self, hf, hn]

theorem Judged.rekeys (h : Judged g s t) : t.snet.rekeys = s.snet.rekeys := (congrArg SnetSt.rekeys h.rest :)

theorem Judged.cyc (h : Judged g s t) : t.snet.cyc = s.snet.cyc := (congrArg SnetSt.cyc h.rest :)

theorem Judged.rd (h : Judged g s t) {a : Nat} (ha : 0x120FD ≤ a ∨ (0x12000 ≤ a ∧ a < 0x120AC)) : t.rd a = s.rd a :=
  h.near.regs a (by
    unfold passReg gspReg
    simp only [pageOf_eq]
    omega)

theorem Judged.nodeState (h : Judged g s t) : t.nodeState g.node = s.nodeState g.node := congrArg (wbits · 0 3) (h.image 0 (by decide))

theorem track_keeps (d : NodeSt) (epoch x : Nat) (fresh : Bool) :
    ∃ e x' l, d.track epoch x fresh = { d with epoch := e, x := x', seen := l } := by
  unfold NodeSt.track
  split
  · exact ⟨_, _, _, rfl⟩
  · exact ⟨_, _, _, rfl⟩

theorem judged_of_counted (h : Counted s t) : Judged g s t :=
  ⟨h.near.mono (fun _ => .inl) (fun _ => .inl), fun _ _ => h.trd (by decide) .., by rw [h.snet], ⟨_, _, _, _, _, h.node _⟩, h.sent⟩

theorem Judged.bumpN (h : Judged g s t) {c : Ctr} (n : Nat) (hc : Near passReg evTbl t (t.bumpN c n)) : Judged g s (t.bumpN c n) :=
  ⟨h.near.trans (hc.mono (fun _ => id) fun _ => .inl), fun w hw => (trd_of_tbl (tbl_bumpN ..) ..).trans (h.image w hw), by rw [snet_bumpN]; exact h.rest,
    by rw [node_of_snet (snet_bumpN ..)]; exact h.node, (sent_bumpN ..).trans h.sent⟩

/-- The state in which a message that passes is accepted. -/
def State.gspTaken (s : State) (g : Gsp) (n x : Nat) (fresh : Bool) : State :=
  ((((s.heard g).bumpN .SNET_RX_BAD n).bump .SNET_RX_OK).nodeMod g.node (fun d => d.track g.epoch x fresh)).twr 0x1201 g.node 16
    (BitVec.ofNat 32 g.epoch)

theorem judged_gspTaken (hp : g.port < 2) (hn : g.node < 2048) (n x : Nat) (fresh : Bool) :
    Judged g s (s.gspTaken g n x fresh) ∧ ((s.gspTaken g n x fresh).node g.node).msgCyc = (s.node g.node).msgCyc
      ∧ ((s.gspTaken g n x fresh).node g.node).msgs = (s.node g.node).msgs := by
  have hc := counted_heard s hp
  have j1 : Judged g s ((s.heard g).bumpN .SNET_RX_BAD n) :=
    (judged_of_counted hc).bumpN _ (near_bumpN (Near.refl _ _ _) (.inr (.inl rfl)) (.inr (.inr (.inr rfl))))
  have j2 : Judged g s (((s.heard g).bumpN .SNET_RX_BAD n).bump .SNET_RX_OK) :=
    j1.bumpN (c := .SNET_RX_OK) 1 (near_bumpW (Near.refl _ _ _) (.inr (.inr (.inl rfl))) rfl)
  have e2 : (((s.heard g).bumpN .SNET_RX_BAD n).bump .SNET_RX_OK).node g.node = s.node g.node :=
    (node_of_snet ((snet_bump ..).trans (snet_bumpN ..)) _).trans (hc.node _)
  obtain ⟨e, x', l, htr⟩ := track_keeps (s.node g.node) g.epoch x fresh
  have hnode : (s.gspTaken g n x fresh).node g.node = { s.node g.node with epoch := e, x := x', seen := l } := by
    unfold State.gspTaken
    rw [node_of_snet (snet_twr ..), node_nodeMod_self, e2, htr]
  refine ⟨⟨near_twr (near_same j2.near (regs_nodeMod ..) (tbl_nodeMod ..)) (.inr (tkeyTid_tkey _ _ _ (by omega) (by decide))), fun w hw => ?_, ?_,
    ⟨_, _, _, _, _, hnode⟩, ?_⟩, (congrArg NodeSt.msgCyc hnode :), (congrArg NodeSt.msgs hnode :)⟩
  · exact (trd_twr_word (by omega)).trans ((trd_of_tbl (tbl_nodeMod ..) ..).trans (j2.image w hw))
  · unfold State.gspTaken
    rw [snet_twr]
    exact j2.rest
  · unfold State.gspTaken
    rw [sent_twr, sent_nodeMod]
    exact j2.sent

theorem node_lt (h : s.nodeDef g.node = true) : g.node < 2048 := by
  unfold State.nodeDef at h
  simp only [Bool.and_eq_true, decide_eq_true_eq] at h
  exact h.1

variable {rs : List (Nat × List Byte)}

theorem gspPasses_lt (h : s.gspPasses g rs) : g.node < 2048 := by
  obtain ⟨-, -, -, -, -, -, -, -, -, hd, -⟩ := h
  exact node_lt hd

/-- A message that passes is accepted with its extended sequence and its records. -/
theorem gspCheck_passes (h : s.gspPasses g rs) {x : Nat} {fresh : Bool} (he : epochCheck (s.node g.node) g.epoch g.seq = .ok x fresh) :
    ∃ n, s.gspCheck g = .ok (s.gspTaken g n x fresh) x rs := by
  obtain ⟨hear, h1, h2, h3, h4, h5, h6, hk, ht, hd, hg, hty, -, all, htlv, rfl⟩ := h
  have hc := counted_heard s hear.1
  have hhead : (s.heard g).headOk g := by
    unfold State.headOk
    rw [fld_of_rd (f := ⟨0x12050, 0, 16⟩) (hc.rd (.inr (.inr (by decide))))]
    exact ⟨h1, h2, h3, h4, h5, h6⟩
  have hknown : (s.heard g).nodeKnown g := by
    unfold State.nodeKnown
    rw [hc.nodeDef, hc.nodeGroup]
    exact ⟨hd, hg, hty⟩
  have hj := gspJudge_known hhead ((hc.keyOk g).trans hk) ((hc.tagOf g).trans ht) hknown
  rw [hc.node, he] at hj
  refine ⟨(all.filter tlvBad).length, (gspCheck_heard hear).trans (hj.trans ?_)⟩
  unfold State.gspRecords
  rw [htlv]
  rfl

/-- A message within the budget of its node's cycle is allowed. -/
theorem msgAllowed_of_budget (h : Judged g s t) (hm : (t.node g.node).msgCyc = (s.node g.node).msgCyc)
    (hs : (t.node g.node).msgs = (s.node g.node).msgs) (hb : s.gspBudget g.node) : ∃ B, t.msgAllowed g.node = (B, true) ∧ Judged g s B := by
  unfold State.gspBudget at hb
  unfold State.msgAllowed
  extract_lets d used
  have hu : used < t.fld ⟨0x12078, 24, 4⟩ := by
    unfold used d
    rw [fld_of_rd (f := ⟨0x12078, 24, 4⟩) (h.rd (.inr (by decide))), h.cyc, hm, hs]
    exact hb
  exact ⟨_, if_pos hu, h.nodeMod ⟨_, _, _, _, _, rfl⟩⟩

/-- A message that passes within its budget is accepted and allowed. -/
theorem message_allowed (h : s.gspPasses g rs) (hb : s.gspBudget g.node) :
    ∃ A x B, s.gspCheck g = .ok A x rs ∧ A.msgAllowed g.node = (B, true) ∧ Judged g s B := by
  have hh := h
  obtain ⟨hear, -, -, -, -, -, -, -, -, -, -, -, ⟨x, fresh, he⟩, -⟩ := hh
  obtain ⟨n, hn⟩ := gspCheck_passes h he
  obtain ⟨hj, hm, hs⟩ := judged_gspTaken (s := s) hear.1 (gspPasses_lt h) n x fresh
  obtain ⟨B, hB, hjB⟩ := msgAllowed_of_budget hj hm hs hb
  exact ⟨_, x, B, hn, hB, hjB⟩

end

end Sys2Proof.Machine
end

section
/-! ### The substation network: messages act on their node's record (R219, R234 to R239) -/

namespace Sys2Proof.Machine

/-! #### The queue of command records -/

/-- The words that queue records, the queue's registers and its events take. -/
def queueReg (a : Nat) : Prop := a = 0x1209C ∨ a = 0x1204C ∨ a = 0x120DC ∨ a = 0x120F4 ∨ evReg 0x12 a ∨ a = 0x120D8

/-- `t` is `s` with records queued or removed: of a node only its steady setpoints and the records of its last command differ. -/
structure Queued (s t : State) : Prop where
  near : Near queueReg (fun tid => evTbl tid ∨ 0x1202 ≤ tid) s t
  node : ∀ m, ∃ st ci, t.node m = { s.node m with steady := st, cmdIdx := ci }

theorem Queued.refl (s : State) : Queued s s := ⟨Near.refl _ _ s, fun _ => ⟨_, _, rfl⟩⟩

theorem Queued.trans {s t u : State} (h : Queued s t) (h' : Queued t u) : Queued s u := by
  refine ⟨h.near.trans h'.near, fun m => ?_⟩
  obtain ⟨st, ci, e⟩ := h.node m
  obtain ⟨st', ci', e'⟩ := h'.node m
  exact ⟨st', ci', by rw [e', e]⟩

theorem queued_of_snet {s t : State} (h : Near queueReg (fun tid => evTbl tid ∨ 0x1202 ≤ tid) s t) (hs : t.snet.nodes = s.snet.nodes) :
    Queued s t := ⟨h, fun m => ⟨_, _, by unfold State.node; rw [hs]⟩⟩

theorem queued_ite {s t u : State} {c : Prop} [Decidable c] (h1 : Queued s t) (h2 : Queued s u) : Queued s (if c then t else u) := by
  split
  · exact h1
  · exact h2

theorem queued_foldl {α : Type} {s t : State} {l : List α} {f : State → α → State} (h : Queued s t) (hf : ∀ a, ∀ e, Queued a (f a e)) :
    Queued s (l.foldl f t) := by
  induction l generalizing t with
  | nil => exact h
  | cons e l ih => exact ih (h.trans (hf t e))

theorem queued_nodeMod {s : State} {n : Nat} {f : NodeSt → NodeSt} (hf : ∀ d, ∃ st ci, f d = { d with steady := st, cmdIdx := ci }) :
    Queued s (s.nodeMod n f) := by
  refine ⟨near_same (Near.refl _ _ s) (regs_nodeMod ..) (tbl_nodeMod ..), fun m => ?_⟩
  by_cases hm : m = n
  · subst hm
    rw [node_nodeMod_self]
    exact hf _
  · exact ⟨_, _, node_nodeMod_other hm⟩

theorem queued_steadySet (s : State) (n : Nat) (v : Steady) : Queued s (s.steadySet n v) := queued_nodeMod fun d => by
  split
  · exact ⟨_, _, rfl⟩
  · split
    · exact ⟨_, _, rfl⟩
    · exact ⟨_, _, rfl⟩

theorem queued_qUse (s : State) : Queued s s.qUse := by
  unfold State.qUse
  extract_lets n hw
  refine queued_of_snet (near_setB (near_setF (near_setF (Near.refl _ _ s) (.inl rfl)) (.inl rfl)) (.inr (.inl rfl))) ?_
  rw [snet_setB, snet_setF, snet_setF]

theorem snet_trecSet (s : State) (t i w : Nat) (vs : List Word) : (s.trecSet t i w vs).snet = s.snet :=
  (trecSet_keeps (T := [.tbl]) (Keeps.refl _ s) (List.Subset.refl _)).only .snet (by decide)

theorem tkeyTid_ge (t i w : Nat) : t ≤ tkeyTid (tkey t i w) := by
  unfold tkeyTid tkey
  omega

theorem queued_qWrite (s : State) (i : Nat) (e : QEntry) : Queued s (s.qWrite i e) :=
  queued_of_snet (near_trecSet (Near.refl _ _ s) fun _ _ _ => .inr (tkeyTid_ge ..)) (congrArg SnetSt.nodes (snet_trecSet ..))

theorem queued_tset (s : State) (i w lo n v : Nat) : Queued s (s.tset 0x1202 i w lo n v) :=
  queued_of_snet (near_tset (Near.refl _ _ s) (.inr (tkeyTid_ge ..))) (congrArg SnetSt.nodes (snet_tset ..))

theorem queued_qFree (s : State) (e : QEntry) (off : Nat) : Queued s (s.qFree e off) := by
  unfold State.qFree
  extract_lets s1 s2
  have h1 : Queued s s1 := queued_ite (queued_steadySet ..) (.refl s)
  have h2 : Queued s s2 := h1.trans (queued_of_snet (near_tclear (Near.refl _ _ s1) (.inr (Nat.le_refl _))) (rfl))
  exact (h2.trans (queued_nodeMod fun d => ⟨_, _, rfl⟩)).trans (queued_qUse _)

theorem queued_enqueue (s : State) (src n kind : Nat) (launch : Option (Nat × Nat)) (vals : List Word) (off : Nat) :
    Queued s (s.enqueue src n kind launch vals off).1 := by
  unfold State.enqueue
  extract_lets t e s1 now took i s2 run s3
  have h1 : Queued s s1 := queued_ite (queued_foldl (.refl s) fun a x => queued_qFree a x off) (.refl s)
  have htook : ∀ a, Queued a (took a) := fun a => by
    unfold took
    exact queued_ite (queued_steadySet ..) (.refl a)
  have hw : ∀ j, Queued s (took (s1.qWrite j e)).qUse := fun j => ((h1.trans (queued_qWrite ..)).trans (htook _)).trans (queued_qUse _)
  have h2 : Queued s s2 := h1.trans (queued_of_snet (near_bump (Near.refl _ _ s1) (.inr (.inr (.inl rfl))) (.inr (.inr (.inr (.inl rfl)))))
    (congrArg SnetSt.nodes (snet_bump ..)))
  have h3 : Queued s s3 := queued_ite h2 (h2.trans (queued_of_snet (near_raiseEv (Near.refl _ _ s2) (by decide)
    (fun _ h => .inr (.inr (.inr (.inr (.inl h))))) fun _ => .inl) (congrArg SnetSt.nodes (raiseEv_only _ _ _ .snet (by decide)))))
  split
  · exact hw _
  · split
    · exact hw _
    · split
      · exact h1
      · exact h3.trans (queued_of_snet (near_same (Near.refl _ _ s3) (regs_snetMod ..) (tbl_snetMod ..)) rfl)

theorem queued_steadyNow (s : State) (n off : Nat) : Queued s (s.steadyNow n off) :=
  queued_foldl (.refl s) fun a _ => queued_steadySet a n _

section
variable {s t : State}

theorem Queued.image (h : Queued s t) {n w : Nat} (hn : n < 2048) (hw : w < 2 ^ 8) : t.trd 0x1201 n w = s.trd 0x1201 n w :=
  h.near.tbl (tkey 0x1201 n w) (by
    rw [tkeyTid_tkey _ _ _ (by omega) hw]
    unfold evTbl
    omega)

/-- A node whose state is accepted keeps its baseline and needs no further state. -/
theorem stateAccept_shows (s : State) {n : Nat} (off : Nat) (hn : n < 2048) :
    ((s.stateAccept n off).node n).needState = false ∧ ((s.stateAccept n off).node n).stateOk = true
      ∧ ((s.stateAccept n off).node n).base = (s.node n).base ∧ (s.stateAccept n off).trd 0x1201 n 0 = s.trd 0x1201 n 0 := by
  unfold State.stateAccept
  extract_lets s0 d s1 s2
  have h0 : Queued s s0 := queued_steadyNow ..
  have h2 : Queued s1 s2 := queued_foldl (.refl s1) fun a _e => queued_ite (queued_tset ..) (.refl a)
  have h3 := h2.trans (queued_foldl (l := d.steady) (.refl s2) fun a (v : Steady) => queued_enqueue a 3 n v.kind none v.vals off)
  obtain ⟨st, ci, e0⟩ := h0.node n
  obtain ⟨st', ci', e3⟩ := h3.node n
  have e1 : s1.node n = { s0.node n with needState := false, stateOk := true, run := 0, lastRegs := [], pend := none } := node_nodeMod_self
  rw [e1, e0] at e3
  refine ⟨(congrArg NodeSt.needState e3 :), (congrArg NodeSt.stateOk e3 :), (congrArg NodeSt.base e3 :), ?_⟩
  exact (h3.image hn (by decide)).trans ((trd_of_tbl (tbl_nodeMod ..) ..).trans (h0.image hn (by decide)))

end

/-! #### The four messages -/

section
variable {s B : State} {g : Gsp}

/-- A SUB_HELLO allowed at `B`. -/
def helloTaken (g : Gsp) (rs : List (Nat × List Byte)) (s2 : State) : State :=
  if ((s2.node g.node).cmdAt).isNone then s2
  else
    let s3 := s2.nodeMod g.node (fun d => { d with hello := some ⟨false, identOf rs⟩, helloWin := true })
    if s3.nodeState g.node = 2 then s3.nodeQuarantine g.node else s3

theorem subHello_runs {A : State} {x : Nat} {rs : List (Nat × List Byte)} (hc : s.gspCheck g = .ok A x rs) (hm : A.msgAllowed g.node = (B, true))
    (ht : g.typ = 1) : exec (.subHelloRx g) s = .next (helloTaken g rs B) := by
  refine next_congr ?_
  rw [hc]
  dsimp only
  rw [if_neg (fun h => h ht), hm]
  rfl

theorem nodeState_nodeMod (s : State) (n m : Nat) (f : NodeSt → NodeSt) : (s.nodeMod n f).nodeState m = s.nodeState m :=
  congrArg (wbits · 0 3) (trd_of_tbl (tbl_nodeMod ..) ..)

theorem nodeState_nodeQuarantine (s : State) (n : Nat) : (s.nodeQuarantine n).nodeState n = 1 := by
  unfold State.nodeQuarantine
  rw [nodeState_nodeMod]
  exact tfld_tset_self (by decide)

theorem node_nodeQuarantine (s : State) (n : Nat) : (s.nodeQuarantine n).node n
    = { s.node n with needState := true, stateOk := false, run := 0, lastRegs := [] } := by
  unfold State.nodeQuarantine
  rw [node_nodeMod_self, node_of_snet (show (s.setNodeState n 1).snet = s.snet from snet_tset ..)]

theorem helloTaken_answers {rs : List (Nat × List Byte)} (h : (B.node g.node).cmdAt ≠ none) :
    ((helloTaken g rs B).node g.node).hello = some ⟨false, identOf rs⟩
      ∧ (helloTaken g rs B).nodeState g.node = if B.nodeState g.node = 2 then 1 else B.nodeState g.node := by
  unfold helloTaken
  rw [if_neg (fun hn => h (Option.isNone_iff_eq_none.1 hn))]
  extract_lets s3
  have hst : s3.nodeState g.node = B.nodeState g.node := nodeState_nodeMod ..
  have hn : s3.node g.node = { B.node g.node with hello := some ⟨false, identOf rs⟩, helloWin := true } := node_nodeMod_self
  rw [hst]
  split
  · exact ⟨by rw [node_nodeQuarantine, hn], nodeState_nodeQuarantine ..⟩
  · exact ⟨(congrArg NodeSt.hello hn :), hst⟩

/-- A SUB_REPORT accepted at `A`. -/
def State.reported (A : State) (g : Gsp) (late : Bool) (r : Report) : State :=
  (if late then A.bump .SNET_RX_LATE else A).nodeMod g.node (fun d => { d with reps := d.reps ++ [r] })

/-- The report lies before the node's previous slot. -/
def State.lateFor (s : State) (g : Gsp) : Bool :=
  match (s.node g.node).prevSlot with
  | none => false
  | some p => decide (ltDiff p (g.launchSec, g.launchNs) < 0)

theorem subReport_runs {A : State} {x : Nat} {rs : List (Nat × List Byte)} (hc : s.gspCheck g = .ok A x rs) (ht : g.typ = 2) :
    exec (.subReportRx g) s = .next (A.reported g (s.lateFor g) ⟨x, g.launchSec, g.launchNs, (s.rxInstant g.port g.rxSec g.rxNs).1,
      (s.rxInstant g.port g.rxSec g.rxNs).2, (s.node g.node).epoch == some g.epoch, rs⟩) := by
  refine next_congr ?_
  rw [hc]
  dsimp only
  rw [if_neg (fun h => h ht)]
  rfl

theorem reported_shows (h : Judged g s B) (late : Bool) (r : Report) :
    (B.reported g late r).nodeState g.node = s.nodeState g.node ∧ ((B.reported g late r).node g.node).reps = (s.node g.node).reps ++ [r]
      ∧ (late = true → (B.reported g late r).fld Ctr.SNET_RX_LATE.f = min (2 ^ 32 - 1) (s.fld Ctr.SNET_RX_LATE.f + 1)) := by
  obtain ⟨e, x, l, c, m, hn⟩ := h.node
  have hu : ∀ u : State, u.tbl = B.tbl → u.snet = B.snet → let t := u.nodeMod g.node (fun d => { d with reps := d.reps ++ [r] })
      t.nodeState g.node = s.nodeState g.node ∧ (t.node g.node).reps = (s.node g.node).reps ++ [r] := fun u h1 h2 => by
    refine ⟨(nodeState_nodeMod ..).trans ((congrArg (wbits · 0 3) (trd_of_tbl h1 ..)).trans h.nodeState), ?_⟩
    rw [node_nodeMod_self, node_of_snet h2, hn]
  unfold State.reported
  cases late with
  | false => exact ⟨(hu B rfl rfl).1, (hu B rfl rfl).2, fun h => absurd h (by decide)⟩
  | true =>
    obtain ⟨h1, h2⟩ := hu (B.bump .SNET_RX_LATE) (tbl_bump ..) (snet_bump ..)
    refine ⟨h1, h2, fun _ => ?_⟩
    refine (fld_nodeMod ..).trans ((fld_bump_stays rfl (by decide) (.inl (by decide))).trans ?_)
    refine congrArg (fun v => min (2 ^ 32 - 1) (v + 1)) (fld_of_rd (f := ⟨0x120C0, 0, 32⟩) (h.near.regs _ ?_))
    unfold passReg gspReg
    decide

/-- A SUB_STATE allowed at `s2`. -/
def stateTaken (g : Gsp) (rs : List (Nat × List Byte)) (s2 : State) : State :=
  let d := s2.node g.node
  if s2.nodeState g.node ≠ 1 ∨ !d.needState then s2
  else
    let regs := energyRegs rs
    if regsBack (typeKinds (s2.nodeType g.node)) d.base regs then
      ((((s2.nodeMod g.node (fun d => { d with needState := false, pend := some (regsTake d.base regs) })).imgFlag
        g.node 18 true).bump .SNET_METER_BACK)).raiseEv 0x12 3
    else
      ((s2.nodeMod g.node (fun d => { d with base := regsTake d.base regs })).imgFlag g.node 18 false).stateAccept
        g.node 0

theorem subState_runs {A : State} {x : Nat} {rs : List (Nat × List Byte)} (hc : s.gspCheck g = .ok A x rs) (hm : A.msgAllowed g.node = (B, true))
    (ht : g.typ = 6) : exec (.subStateRx g) s = .next (stateTaken g rs B) := by
  refine next_congr ?_
  rw [hc]
  dsimp only
  rw [if_neg (fun h => h ht), hm]
  rfl

theorem tfld_imgFlag (s : State) (n b : Nat) (v : Bool) (h : b + 1 ≤ 32) : (s.imgFlag n b v).tfld 0x1201 n 0 b 1 = b2n v := by
  unfold State.imgFlag
  rw [tfld_tset_self h]
  cases v <;> rfl

theorem stateTaken_back {rs : List (Nat × List Byte)} (hn : g.node < 2048) (h1 : B.nodeState g.node = 1) (h2 : (B.node g.node).needState = true)
    (h3 : regsBack (typeKinds (B.nodeType g.node)) (B.node g.node).base (energyRegs rs) = true) :
    (stateTaken g rs B).tfld 0x1201 g.node 0 18 1 = 1 ∧ ((stateTaken g rs B).node g.node).needState = false
      ∧ ((stateTaken g rs B).node g.node).base = (B.node g.node).base ∧ (stateTaken g rs B).bit (bitAt 0x12010 3) = true := by
  unfold stateTaken
  extract_lets d regs
  rw [if_neg (by simp [d, h1, h2]), if_pos h3]
  obtain ⟨u, hu⟩ : ∃ u, u = B.nodeMod g.node (fun d => { d with needState := false, pend := some (regsTake d.base regs) }) := ⟨_, rfl⟩
  have hun : u.node g.node = { B.node g.node with needState := false, pend := some (regsTake (B.node g.node).base regs) } := hu ▸ node_nodeMod_self
  rw [← hu]
  have hs : (((u.imgFlag g.node 18 true).bump .SNET_METER_BACK).raiseEv 0x12 3).node g.node = u.node g.node :=
    node_of_snet ((raiseEv_only _ _ _ .snet (by decide)).trans ((snet_bump ..).trans (snet_tset ..))) _
  rw [hs, hun]
  refine ⟨?_, rfl, rfl, bit_raiseEv_self (by decide) (by decide) (by decide) rfl⟩
  refine (congrArg (wbits · 18 1) (trd_raiseEv_apart (by decide) (by decide) (by decide) (by omega) (by decide))).trans ?_
  exact (congrArg (wbits · 18 1) (trd_of_tbl (tbl_bump ..) ..)).trans (tfld_imgFlag u g.node 18 true (by decide))

theorem stateTaken_accepts {rs : List (Nat × List Byte)} (hn : g.node < 2048) (h1 : B.nodeState g.node = 1) (h2 : (B.node g.node).needState = true)
    (h3 : regsBack (typeKinds (B.nodeType g.node)) (B.node g.node).base (energyRegs rs) = false) :
    (stateTaken g rs B).tfld 0x1201 g.node 0 18 1 = 0 ∧ ((stateTaken g rs B).node g.node).needState = false
      ∧ ((stateTaken g rs B).node g.node).stateOk = true ∧ ((stateTaken g rs B).node g.node).base = regsTake (B.node g.node).base (energyRegs rs) := by
  unfold stateTaken
  extract_lets d regs
  rw [if_neg (by simp [d, h1, h2]), if_neg (by rw [h3]; decide)]
  obtain ⟨u, hu⟩ : ∃ u, u = B.nodeMod g.node (fun d => { d with base := regsTake d.base regs }) := ⟨_, rfl⟩
  have hun : u.node g.node = { B.node g.node with base := regsTake (B.node g.node).base regs } := hu ▸ node_nodeMod_self
  rw [← hu]
  obtain ⟨e1, e2, e3, e4⟩ := stateAccept_shows (u.imgFlag g.node 18 false) 0 hn
  refine ⟨(congrArg (wbits · 18 1) e4).trans (tfld_imgFlag u g.node 18 false (by decide)), e1, e2, e3.trans ?_⟩
  rw [State.imgFlag, node_of_snet (snet_tset ..), hun]

/-- The rekeys without a node of a group. -/
def rekeysWithout (n grp : Nat) (l : List Rekey) : List Rekey :=
  l.map (fun x => if x.group = grp then { x with left := x.left.filter (· != n) } else x)

/-- A SUB_ACK of the key of a rekey. -/
def State.acked (s : State) (g : Gsp) : State :=
  ((s.snetMod (fun q => { q with rekeys := rekeysWithout g.node g.group q.rekeys })).imgFlag g.node 19 false).rekeyDone

theorem subAck_runs {A : State} {x : Nat} {rs : List (Nat × List Byte)} {v : List Byte} {r : Rekey} (hc : s.gspCheck g = .ok A x rs)
    (hm : A.msgAllowed g.node = (B, true)) (ht : g.typ = 4) (hv : tlvGet rs 0xC4 = some v) (hr : B.rekeyOf g.group = some r)
    (h : beAt v 0 1 = 7 ∧ beAt v 3 1 = 0 ∧ g.nk = true ∧ g.gen = r.gen ∧ g.node ∈ r.left) :
    exec (.subAckRx g) s = .next (B.acked g) := by
  obtain ⟨h1, h2, h3, h4, h5⟩ := h
  refine next_congr ?_
  rw [hc]
  dsimp only
  rw [if_neg (fun h => h ht), hm]
  dsimp only
  rw [hv, hr]
  exact if_pos ⟨h1, h2, h3, h4, List.contains_iff_mem.2 h5⟩

theorem snet_rekeyRegs (s : State) : s.rekeyRegs.snet = s.snet := by
  unfold State.rekeyRegs
  split
  · rw [snet_wr, snet_setB]
  · rw [snet_wr, snet_wr, snet_wr, snet_setB]

theorem foldl_snet {α : Type} {f : State → α → State} (hf : ∀ a e, (f a e).snet = a.snet) (l : List α) (s : State) :
    (l.foldl f s).snet = s.snet := by
  induction l generalizing s with
  | nil => rfl
  | cons e l ih => exact (ih (f s e)).trans (hf s e)

/-- The rekeys that remain once the finished ones have been told: each is one of those before, at most marked. -/
theorem rekeyDone_rekeys (s : State) : ∀ x ∈ s.rekeyDone.snet.rekeys, ∃ y ∈ s.snet.rekeys, x.group = y.group ∧ x.left = y.left := by
  intro x hx
  unfold State.rekeyDone at hx
  extract_lets fin s1 mark s2 at hx
  have h1 : s1.snet = s.snet := foldl_snet (fun a _ => raiseEv_only _ _ _ .snet (by decide)) fin s
  rw [snet_rekeyRegs] at hx
  obtain ⟨hx, -⟩ := List.mem_filter.1 hx
  obtain ⟨y, hy, rfl⟩ := List.mem_map.1 hx
  refine ⟨y, h1 ▸ hy, ?_⟩
  unfold mark
  split
  · exact ⟨rfl, rfl⟩
  · exact ⟨rfl, rfl⟩

theorem near_rekeyDone (s : State) : Near (fun a => 0x12000 ≤ a ∨ evReg 0x12 a) evTbl s s.rekeyDone := by
  unfold State.rekeyDone
  extract_lets fin s1 mark s2
  have h1 : Near (fun a => 0x12000 ≤ a ∨ evReg 0x12 a) evTbl s s1 := near_foldl (Near.refl _ _ s) fun a _ _ h =>
    near_raiseEv h (by decide) (fun _ => .inr) fun _ => id
  exact near_rekeyRegs (near_same h1 (regs_snetMod ..) (tbl_snetMod ..)) fun _ => .inl

theorem acked_shows (hn : g.node < 2048) :
    (∀ x ∈ (B.acked g).snet.rekeys, x.group = g.group → g.node ∉ x.left) ∧ (B.acked g).tfld 0x1201 g.node 0 19 1 = 0 := by
  unfold State.acked
  refine ⟨fun x hx hg => ?_, ?_⟩
  · obtain ⟨y, hy, e1, e2⟩ := rekeyDone_rekeys _ x hx
    rw [State.imgFlag, snet_tset] at hy
    obtain ⟨z, -, rfl⟩ := List.mem_map.1 hy
    rw [e2]
    rw [e1] at hg
    split at hg
    · next hz => rw [if_pos hz]; simp
    · next hz => exact absurd hg hz
  · refine (congrArg (wbits · 19 1) ((near_rekeyDone _).tbl (tkey 0x1201 g.node 0) ?_)).trans (tfld_imgFlag _ g.node 19 false (by decide))
    rw [tkeyTid_tkey _ _ _ (by omega) (by decide)]
    unfold evTbl
    omega

end

/-- Settles O37: each message in the state that its checks and its budget leave. -/
theorem messagesActOnTheirNode : Obligations.MessagesActOnTheirNode := by
  unfold Obligations.MessagesActOnTheirNode
  intro g rs s hp n
  have hn : g.node < 2048 := gspPasses_lt hp
  have hkeep : ∀ {B : State}, Judged g s B → (B.node g.node).cmdAt = (s.node g.node).cmdAt ∧ (B.node g.node).hello = (s.node g.node).hello
      ∧ (B.node g.node).needState = (s.node g.node).needState ∧ (B.node g.node).base = (s.node g.node).base
      ∧ B.nodeType g.node = s.nodeType g.node := fun h => by
    obtain ⟨e, x, l, c, m, he⟩ := h.node
    refine ⟨(congrArg NodeSt.cmdAt he :), (congrArg NodeSt.hello he :), (congrArg NodeSt.needState he :), (congrArg NodeSt.base he :), ?_⟩
    refine congrArg (wbits · 27 3) (h.near.tbl (tkey 0x1200 g.node 0) ?_)
    rw [tkeyTid_tkey _ _ _ (by omega) (by decide)]
    unfold evTbl
    omega
  refine ⟨fun ht hb hc => ?_, fun ht hb hc => ?_, fun ht => ?_, fun ht hb h1 h2 => ?_, fun ht hb h12 => ?_,
    fun r v ht hb hr hv h7 h3 hnk hgen hl => ?_⟩
  · obtain ⟨A, x, B, hA, hB, hj⟩ := message_allowed hp hb
    obtain ⟨kc, -⟩ := hkeep hj
    obtain ⟨e1, e2⟩ := helloTaken_answers (B := B) (g := g) (rs := rs) (kc ▸ hc)
    rw [hj.nodeState] at e2
    exact runs_intro (subHello_runs hA hB ht) ⟨e1, e2⟩
  · obtain ⟨A, x, B, hA, hB, hj⟩ := message_allowed hp hb
    obtain ⟨kc, kh, -⟩ := hkeep hj
    refine runs_intro (subHello_runs hA hB ht) ?_
    unfold helloTaken
    rw [if_pos (Option.isNone_iff_eq_none.2 (kc.trans hc))]
    exact ⟨kh, hj.nodeState⟩
  · have hh := hp
    obtain ⟨hear, -, -, -, -, -, -, -, -, -, -, -, ⟨x, fresh, he⟩, -⟩ := hh
    obtain ⟨k, hk⟩ := gspCheck_passes hp he
    obtain ⟨hj, -⟩ := judged_gspTaken (s := s) hear.1 hn k x fresh
    obtain ⟨e1, e2, e3⟩ := reported_shows hj (s.lateFor g) ⟨x, g.launchSec, g.launchNs, (s.rxInstant g.port g.rxSec g.rxNs).1,
      (s.rxInstant g.port g.rxSec g.rxNs).2, (s.node g.node).epoch == some g.epoch, rs⟩
    refine runs_intro (subReport_runs hk ht) ⟨e1, ⟨x, fresh, he, e2⟩, fun p hprev hlate => e3 ?_⟩
    unfold State.lateFor
    rw [show (s.node g.node).prevSlot = some p from hprev]
    exact decide_eq_true hlate
  · obtain ⟨A, x, B, hA, hB, hj⟩ := message_allowed hp hb
    obtain ⟨-, -, kn, kb, kt⟩ := hkeep hj
    have hst : B.nodeState g.node = 1 := hj.nodeState.trans h1
    refine ⟨fun hback => ?_, fun hback => ?_⟩
    · obtain ⟨e1, e2, e3, e4⟩ := stateTaken_back (rs := rs) hn hst (kn.trans h2) (by rw [kt, kb]; exact hback)
      exact runs_intro (subState_runs hA hB ht) ⟨e1, e2, e3.trans kb, e4⟩
    · obtain ⟨e1, e2, e3, e4⟩ := stateTaken_accepts (rs := rs) hn hst (kn.trans h2) (by rw [kt, kb]; exact hback)
      exact runs_intro (subState_runs hA hB ht) ⟨e1, e2, e3, e4.trans (by rw [kb])⟩
  · obtain ⟨A, x, B, hA, hB, hj⟩ := message_allowed hp hb
    obtain ⟨-, -, kn, kb, kt⟩ := hkeep hj
    refine runs_intro (subState_runs hA hB ht) ?_
    unfold stateTaken
    rw [if_pos (by rw [hj.nodeState, kn]; simpa using h12)]
    exact ⟨kb, kn, hj.nodeState⟩
  · obtain ⟨A, x, B, hA, hB, hj⟩ := message_allowed hp hb
    have hrB : B.rekeyOf g.group = some r := by
      unfold State.rekeyOf
      rw [hj.rekeys]
      exact hr
    exact runs_intro (subAck_runs hA hB ht hv hrB ⟨h7, h3, hnk, hgen, hl⟩) (acked_shows hn)

end Sys2Proof.Machine
end

section
/-! ### Privileged requests: their delivery and their end (R279, R285, R286) -/

namespace Sys2Proof.Machine

/-! #### A message that leaves -/

/-- The message that `gspSend` builds. -/
def State.gspMsg (s : State) (n typ flags : Nat) (key : Option (Nat × Nat)) (launch : Nat × Nat) (recs : List (Nat × List Byte)) : GspTx :=
  let d := s.node n
  let group := s.nodeGroup n
  let gen := (key.map (·.2)).getD (s.groupGen group)
  let epoch := (s.rd 0x12074).toNat
  let len := (recs.map (fun r => 2 + r.2.length)).foldl (· + ·) 0
  { ports := s.sendPorts, typ := typ, flags := flags, node := n, seq := d.txX % 65536, group := group,
    gen := gen, nk := key.isSome, sec := launch.1, ns := launch.2, recs := recs,
    hdr := gspHeader 1 typ flags n (d.txX % 65536) epoch len (group * 256 + gen * 2 + b2n key.isSome) launch.1 launch.2,
    nonce := gspNonce (d.txX / 65536 % 65536) (d.txX % 65536) epoch n 0, net := s.netHdr n }

section
variable (s : State) (n typ flags : Nat) (key : Option (Nat × Nat)) (launch : Nat × Nat) (recs : List (Nat × List Byte))

/-- `s` with the message noted and its node's sequence advanced, before it leaves. -/
def State.gspNoted : State :=
  ({ s with twin := { s.twin with msgs := s.twin.msgs ++ [s.gspMsg n typ flags key launch recs] } } : State).nodeMod n
    (fun d => { d with txX := d.txX + 1 })

theorem gspSend_eq : s.gspSend n typ flags key launch recs =
    if s.portsSend then (((s.gspNoted n typ flags key launch recs).countTx).emit (.gsp (s.gspMsg n typ flags key launch recs))).prpStep
    else s.gspNoted n typ flags key launch recs := rfl

theorem near_countTx (t : State) : Near gspReg (fun _ => False) t t.countTx :=
  near_foldl (Near.refl _ _ t) fun a p _ h => by
    unfold State.txFrame
    split
    · refine near_bumpW h (.inl ?_) rfl
      show 0x10000 ≤ 0x1005C + 0x1000 * p ∧ 0x1005C + 0x1000 * p < 0x12000
      omega
    · exact h

theorem sent_gspSend : (s.gspSend n typ flags key launch recs).sent
    = if s.portsSend = true then s.sent ++ [.gsp (s.gspMsg n typ flags key launch recs)] else s.sent := by
  rw [gspSend_eq]
  split
  · show (State.countTx _).sent ++ _ = _
    rw [((countTx_keeps (Keeps.refl _ _) (List.Subset.refl _)).only .sent (by decide) : (State.countTx _).sent = _)]
    rw [State.gspNoted, sent_nodeMod]
  · rw [State.gspNoted, sent_nodeMod]

theorem near_gspSend : Near gspReg (fun _ => False) s (s.gspSend n typ flags key launch recs) := by
  have h1 : Near gspReg (fun _ => False) s (s.gspNoted n typ flags key launch recs) := near_same (Near.refl _ _ s) (regs_nodeMod ..) (tbl_nodeMod ..)
  rw [gspSend_eq]
  split
  · exact near_same (h1.trans (near_countTx _)) rfl rfl
  · exact h1

theorem nodes_gspSend : (s.gspSend n typ flags key launch recs).snet.nodes = (s.nodeMod n (fun d => { d with txX := d.txX + 1 })).snet.nodes := by
  rw [gspSend_eq]
  split
  · show (State.countTx _).snet.nodes = _
    rw [((countTx_keeps (Keeps.refl _ _) (List.Subset.refl _)).only .snet (by decide) : (State.countTx _).snet = _)]
    rfl
  · rfl

end

/-! #### A request that is found -/

section
variable {s t : State} {ch seq : Nat} {r : PrivReq}

theorem privReqOf_of_priv (h : t.priv = s.priv) (ch seq : Nat) : t.privReqOf ch seq = s.privReqOf ch seq := by
  unfold State.privReqOf
  rw [h]

theorem privReqOf_named (h : s.privReqOf ch seq = some r) : r.ch = ch ∧ r.seq = seq := by
  have := List.find?_some h
  simpa using this

/-- A request that is changed in what it is not named by is found as changed. -/
theorem privReqOf_privSet (h : s.privReqOf ch seq = some r) (x : Option Nat) :
    (s.privSet { r with released := x }).privReqOf ch seq = some { r with released := x } := by
  obtain ⟨rfl, rfl⟩ := privReqOf_named h
  unfold State.privReqOf at h
  unfold State.privReqOf State.privSet State.privMod
  rw [List.find?_map]
  have hp : ((fun y : PrivReq => y.ch == r.ch && y.seq == r.seq) ∘ fun y => if y.ch = r.ch ∧ y.seq = r.seq then { r with released := x } else y)
      = fun y => y.ch == r.ch && y.seq == r.seq := by
    funext y
    simp only [Function.comp_apply]
    split
    · next hy => simp [hy.1, hy.2]
    · rfl
  rw [hp, h]
  simp

theorem priv_logReleased (s : State) (r : PrivReq) (t : Nat × Nat) : (s.logReleased r t).priv = s.priv :=
  (logReleased_keeps (Keeps.refl _ s) (List.Subset.refl _)).only .priv (by decide)

theorem regs_logReleased (s : State) (r : PrivReq) (t : Nat × Nat) : (s.logReleased r t).regs = s.regs :=
  (logReleased_keeps (Keeps.refl _ s) (List.Subset.refl _)).only .regs (by decide)

/-! #### A request that ends -/

/-- What the end of a request changes of the tables: the request log, and what events touch. -/
theorem privEnd_shows (s : State) (r : PrivReq) {o : Nat} (ho : o < 16) :
    (s.privEnd r o).privReqOf r.ch r.seq = none ∧ (s.privEnd r o).fld (chStat r.ch 28 4) = o
      ∧ (o = oUNDELIVERED → (s.privEnd r o).bit (bitAt 0x26010 3) = true) := by
  unfold State.privEnd
  extract_lets s1 s2 s3
  have h1 : s1.privReqOf r.ch r.seq = none := by
    unfold State.privReqOf s1 State.privMod
    rw [List.find?_eq_none]
    intro x hx
    have := (List.mem_filter.1 hx).2
    simpa [Classical.or_iff_not_imp_left] using this
  have h2 : s2.priv = s1.priv := by
    unfold s2
    split
    · exact priv_tset ..
    · rfl
  have h3 : s3.privReqOf r.ch r.seq = none := by
    rw [privReqOf_of_priv (s := s1) _ r.ch r.seq]
    · exact h1
    · unfold s3 State.chShow
      rw [priv_setF, priv_setF, h2]
  have hf : s3.fld (chStat r.ch 28 4) = o := by
    unfold s3 State.chShow
    refine (fld_setF_apart (.inr (.inl (show 20 + 4 ≤ 28 by decide)))).trans ((fld_setF_self (show 28 + 4 ≤ 32 by decide)).trans ?_)
    exact Nat.mod_eq_of_lt ho
  have hd : (s3.bump .PRIV_DELIV).fld (chStat r.ch 28 4) = s3.fld (chStat r.ch 28 4) := fld_bump_apart (by simp only [chStat, Ctr.PRIV_DELIV]; omega) (by
    simp only [chStat, Ctr.PRIV_DELIV]; omega)
  have hu : ((s3.bump .PRIV_UNDELIV).raiseEv 0x26 3).fld (chStat r.ch 28 4) = s3.fld (chStat r.ch 28 4) := by
    have h : ¬ evReg 0x26 (0x26140 + 4 * r.ch) := by
      unfold evReg
      simp only [addrOf_eq, pageOf_eq]
      omega
    refine (fld_of_rd (rd_raiseEv _ (by decide) h)).trans (fld_bump_apart ?_ ?_)
    · simp only [chStat, Ctr.PRIV_UNDELIV]; omega
    · simp only [chStat, Ctr.PRIV_UNDELIV]; omega
  split
  · next h => exact ⟨(privReqOf_of_priv (priv_bump ..) ..).trans h3, hd.trans hf, fun h' => by rw [h'] at h; exact absurd h (by decide)⟩
  · split
    · refine ⟨(privReqOf_of_priv ((raiseEv_only _ _ _ .priv (by decide)).trans (priv_bump ..)) ..).trans h3, hu.trans hf, fun _ => ?_⟩
      exact bit_raiseEv_self (by decide) (by decide) (by decide) rfl
    · next h => exact ⟨h3, hf, fun h' => absurd h' h⟩

theorem privDone_shows (s : State) (r : PrivReq) {o : Nat} (ho : o < 16) :
    (s.privDone r o).privReqOf r.ch r.seq = none ∧ (s.privDone r o).fld (chStat r.ch 28 4) = o
      ∧ (o = oUNDELIVERED → (s.privDone r o).bit (bitAt 0x26010 3) = true) := by
  unfold State.privDone
  exact privEnd_shows _ r ho

theorem ackOutcome_lt {res o : Nat} (h : ackOutcome res = some o) : o < 16 := by
  unfold ackOutcome at h
  split at h
  · exact Option.some.inj h ▸ (by decide)
  · split at h
    · exact Option.some.inj h ▸ (by decide)
    · exact absurd h (by simp)

/-- An acknowledgement of a released request ends it. -/
theorem privAck_ends {dest res o : Nat} (h : s.privReqOf ch seq = some r) (hd : s.chDest ch = dest) (hr : r.released.isSome = true)
    (ho : ackOutcome res = some o) :
    (s.privAck r.cls dest ch seq res).privReqOf ch seq = none ∧ (s.privAck r.cls dest ch seq res).fld (chStat ch 28 4) = o := by
  obtain ⟨rfl, rfl⟩ := privReqOf_named h
  have he : s.privAck r.cls dest r.ch r.seq res = s.privDone r o := by
    unfold State.privAck
    rw [h, ho]
    exact if_pos ⟨rfl, hd, .inl hr⟩
  obtain ⟨e1, e2, -⟩ := privDone_shows s r (ackOutcome_lt ho)
  rw [he]
  exact ⟨e1, e2⟩

end

end Sys2Proof.Machine
end

section
/-! ### Privileged requests: release, repetition and acknowledgement -/

namespace Sys2Proof.Machine

section
variable {s t : State} {ch seq ns : Nat} {r : PrivReq}

/-- Requests are released as `t` says, the release in the log. -/
def State.privReleased (s : State) (r : PrivReq) (ns : Nat) : State :=
  (s.privSet { r with released := some (s.elapsed ns) }).logReleased r (s.instant ns)

/-- A release that no condition holds back. -/
theorem privRelease_runs (hr : s.privReqOf ch seq = some r) (h2 : 2 ≤ r.cls) (hrel : r.released = none) (hslot : r.slot ≤ s.elapsed ns)
    (hb : (s.elapsed ns : Int) ≤ s.privBound r) (hp : s.pathsOk ch r.timed ≠ []) (hroom : r.cls = 2 → s.privRoom (s.elapsed ns) = true)
    (hfirst : r.cls = 3 → s.priv.reqs.find? (fun x => x.cls == 3 && x.port == r.port) = some r) :
    exec (.privRelease ch seq ns) s = .next (if r.cls = 2 then ((s.privReleased r ns).privOut (s.elapsed ns)).subPriv r false
      else (s.privReleased r ns).placePriv r (s.elapsed ns)) := by
  refine next_congr ?_
  rw [hr]
  refine if_neg ?_
  rw [hrel]
  simp only [Option.isSome_none, Bool.false_eq_true, false_or, not_or, not_lt, not_and, List.isEmpty_iff, beq_eq_false_iff_ne, ne_eq, Bool.not_eq_false]
  exact ⟨h2, hslot, hb, hp, fun h => not_not.2 (hfirst h), hroom⟩

theorem privRelease_idles (hr : s.privReqOf ch seq = some r)
    (h : r.released.isSome = true ∨ (s.elapsed ns) < r.slot ∨ s.privBound r < s.elapsed ns ∨ s.pathsOk ch r.timed = []
        ∨ (r.cls = 2 ∧ s.privRoom (s.elapsed ns) = false)) : exec (.privRelease ch seq ns) s = .next s := by
  refine next_congr ?_
  rw [hr]
  refine if_pos ?_
  rw [List.isEmpty_iff]
  tauto

theorem regs_privReleased : (s.privReleased r ns).regs = s.regs := regs_logReleased ..

theorem privReqOf_privReleased (hr : s.privReqOf ch seq = some r) :
    (s.privReleased r ns).privReqOf ch seq = some { r with released := some (s.elapsed ns) } :=
  (privReqOf_of_priv (priv_logReleased ..) ..).trans (privReqOf_privSet hr _)

/-- The log of requests is no word of a channel's descriptor. -/
theorem trd_logReleased (s : State) (r : PrivReq) (t : Nat × Nat) {tid i w : Nat} (hw : w % 256 ≠ 6 ∧ w % 256 ≠ 7) :
    (s.logReleased r t).trd tid i w = s.trd tid i w := by
  have hne : ∀ j, (j = 6 ∨ j = 7) → tkey tid i w ≠ tkey 0x2601 r.log j := fun j hj => by
    unfold tkey
    omega
  unfold State.logReleased
  split
  · exact (trd_twr_ne _ _ _ _ _ _ _ _ (hne 7 (.inr rfl))).trans (trd_twr_ne _ _ _ _ _ _ _ _ (hne 6 (.inl rfl)))
  · rfl

theorem chDest_privReleased : (s.privReleased r ns).chDest ch = s.chDest ch :=
  congrArg (wbits · 0 11) (trd_logReleased _ _ _ (by decide))

theorem only_privReleased (s : State) (r : PrivReq) (ns : Nat) : s.onlyIn (s.privReleased r ns) [.tbl, .priv] :=
  (logReleased_keeps (privSet_keeps (Keeps.refl _ s) (by decide)) (by decide)).only

theorem sent_subPriv (s : State) (r : PrivReq) (retx : Bool) : (s.subPriv r retx).sent = if s.portsSend = true then
    s.sent ++ [.gsp (s.gspMsg (s.chDest r.ch) 8 (b2n r.timed + b2n retx * 4) none (if r.timed then (r.sec, r.ns) else (0, 0)) [privRecord r])] else s.sent :=
  sent_gspSend ..

theorem priv_subPriv (s : State) (r : PrivReq) (retx : Bool) : (s.subPriv r retx).priv = s.priv :=
  (subPriv_keeps (Keeps.refl _ s) (List.Subset.refl _)).only .priv (by decide)

theorem portsSend_of_regs (h : t.regs = s.regs) : t.portsSend = s.portsSend := by
  unfold State.portsSend State.mstate
  rw [fld_of_regs h]

/-- A class 2 request that is released leaves as one SUB_PRIV. -/
theorem release_kwp (hr : s.privReqOf ch seq = some r) (t : State) (ht : t = ((s.privReleased r ns).privOut (s.elapsed ns)).subPriv r false) :
    t.privReqOf ch seq = some { r with released := some (s.elapsed ns) }
      ∧ (s.portsSend = true → ∃ m, t.sent = s.sent ++ [.gsp m] ∧ m.typ = 8 ∧ m.node = s.chDest ch ∧ m.flags = b2n r.timed ∧ m.recs = [privRecord r]) := by
  subst ht
  obtain ⟨rfl, rfl⟩ := privReqOf_named hr
  refine ⟨?_, fun hp => ?_⟩
  · rw [privReqOf_of_priv (priv_subPriv ..)]
    exact privReqOf_privReleased hr
  · refine ⟨_, (sent_subPriv ..).trans ((if_pos ?_).trans (congrArg (· ++ _) (only_privReleased s r ns .sent (by decide)))), rfl, ?_, rfl, rfl⟩
    · exact (portsSend_of_regs (s := s) regs_privReleased).trans hp
    · exact chDest_privReleased

/-- A class 3 request that is released waits in its port's buffer. -/
theorem release_can (hr : s.privReqOf ch seq = some r) :
    ((s.privReleased r ns).placePriv r (s.elapsed ns)).privReqOf ch seq = some { r with released := some (s.elapsed ns) }
      ∧ (s.can.length = 2 → r.port < 2 → s.sends = true → s.canSends r.port = true →
          (((s.privReleased r ns).placePriv r (s.elapsed ns)).canP r.port).priv
            = (s.canP r.port).priv ++ [⟨ch, seq, s.chDest ch, privFrame r (s.chDest ch), s.elapsed ns⟩]) := by
  obtain ⟨rfl, rfl⟩ := privReqOf_named hr
  refine ⟨?_, fun hlen hport hs hc => ?_⟩
  · rw [privReqOf_of_priv ((placePriv_keeps (Keeps.refl _ _) (List.Subset.refl _)).only .priv (by decide))]
    exact privReqOf_privReleased hr
  · obtain ⟨u, hu⟩ : ∃ u, u = s.privReleased r ns := ⟨_, rfl⟩
    have hd : u.chDest r.ch = s.chDest r.ch := hu ▸ chDest_privReleased
    have hcan : u.can = s.can := hu ▸ only_privReleased s r ns .can (by decide)
    have hregs : u.regs = s.regs := hu ▸ regs_privReleased
    have hmode : SameMode r.port s u := ⟨fun a _ => by unfold State.rd; rw [hregs], fld_of_regs hregs _,
      by rw [hu]; exact congrArg DevSt.recovery (only_privReleased s r ns .dev (by decide)), by rw [canP_of_can hcan], by rw [canP_of_can hcan]⟩
    have hsends : u.sends = true := by
      unfold State.sends
      rw [hmode.mstate]
      exact hs
    rw [← hu]
    unfold State.placePriv
    extract_lets d m s1
    have hsame : SameMode r.port s s1 := hmode.trans (sameMode_canMod u r.port (fun _ => rfl) fun _ => rfl)
    have hcs : s1.canSends r.port = true := by
      unfold State.canSends
      rw [hsame.mode]
      exact hc
    rw [if_neg (by rw [hsends]; decide), if_pos hcs]
    unfold s1
    rw [canP_canMod_self (by rw [hcan, hlen]; exact hport), canP_of_can hcan]
    show _ ++ [PrivMsg.mk r.ch r.seq d (privFrame r d) (s.elapsed ns)] = _
    unfold d
    rw [hd]

/-! #### Repetition and end -/

/-- A request repeated. -/
def State.privRepeated (s : State) (r : PrivReq) (t : Nat) : State :=
  ((((s.privSet { r with released := some t }).privMod (fun q => { q with slots := (t :: q.slots).take 16 })).privOut t).subPriv r true).bump .PRIV_RETX

theorem privRetx_runs {t0 : Nat} (hr : s.privReqOf ch seq = some r) (h2 : r.cls = 2) (hrel : r.released = some t0)
    (hw : t0 + (s.rd 0x26060).toNat * 1000 ≤ s.elapsed ns) (hslot : s.privSlot (s.elapsed ns) = s.elapsed ns) (hroom : s.privRoom (s.elapsed ns) = true)
    (hb : (s.elapsed ns : Int) ≤ s.privBound r) (ht : s.bit (bitAt 0x12040 1) = true) (hg : s.groupOk (s.nodeGroup (s.chDest ch)) = true) :
    exec (.privRetx ch seq ns) s = .next (s.privRepeated r (s.elapsed ns)) := by
  refine next_congr ?_
  rw [hr]
  dsimp only
  rw [hrel]
  refine if_neg ?_
  simp only [not_or, not_not, not_lt, Bool.not_eq_false]
  exact ⟨h2, hw, hslot, hb, hroom, ht, hg⟩

theorem privRetx_idles (hr : s.privReqOf ch seq = some r) (h : r.released = none ∨ r.cls ≠ 2) : exec (.privRetx ch seq ns) s = .next s := by
  refine next_congr ?_
  rw [hr]
  dsimp only
  cases hrel : r.released with
  | none => rfl
  | some t0 =>
    rw [hrel] at h
    exact if_pos (.inl (h.resolve_left (by simp)))

theorem privRepeated_shows (hr : s.privReqOf ch seq = some r) (t : Nat) :
    (s.privRepeated r t).privReqOf ch seq = some { r with released := some t }
      ∧ (s.privRepeated r t).fld Ctr.PRIV_RETX.f = min (2 ^ 32 - 1) (s.fld Ctr.PRIV_RETX.f + 1)
      ∧ (s.portsSend = true → ∃ m, (s.privRepeated r t).sent = s.sent ++ [.gsp m] ∧ m.typ = 8 ∧ m.flags = b2n r.timed + 4) := by
  unfold State.privRepeated
  obtain ⟨u, hu⟩ : ∃ u, u = ((s.privSet { r with released := some t }).privMod (fun q => { q with slots := (t :: q.slots).take 16 })).privOut t := ⟨_, rfl⟩
  have hreg : u.regs = s.regs := hu ▸ rfl
  have hsent : u.sent = s.sent := hu ▸ rfl
  have hreq : u.privReqOf ch seq = some { r with released := some t } := by
    rw [hu]
    exact privReqOf_privSet hr (some t)
  rw [← hu]
  refine ⟨?_, ?_, fun hp => ?_⟩
  · rw [privReqOf_of_priv ((priv_bump ..).trans (priv_subPriv ..))]
    exact hreq
  · refine (fld_bump_stays rfl (by decide) (.inl (by decide))).trans ?_
    refine congrArg (fun v => min (2 ^ 32 - 1) (v + 1)) ((fld_of_rd (f := ⟨0x26080, 0, 32⟩) ((near_gspSend ..).regs _ ?_)).trans (fld_of_regs hreg _))
    unfold gspReg
    decide
  · refine ⟨_, (sent_bump ..).trans ((sent_subPriv ..).trans ((if_pos ?_).trans (congrArg (· ++ _) hsent))), rfl, rfl⟩
    exact (portsSend_of_regs (s := s) hreg).trans hp

theorem privRequestEnd_runs (hr : s.privReqOf ch seq = some r) (h2 : 2 ≤ r.cls) (ht : r.ta + s.chPromise ch * 1000 ≤ s.elapsed ns) :
    exec (.privRequestEnd ch seq ns) s = .next (s.privDone r (if r.released.isSome then oSENT else oUNDELIVERED)) := by
  refine next_congr ?_
  rw [hr]
  exact if_neg (by omega)

theorem privRequestEnd_idles (hr : s.privReqOf ch seq = some r) (ht : s.elapsed ns < r.ta + s.chPromise ch * 1000) :
    exec (.privRequestEnd ch seq ns) s = .next s := by
  refine next_congr ?_
  rw [hr]
  exact if_pos (.inr ht)

/-! #### Acknowledgements -/

/-- What a CAN acknowledgement that a port takes up does. -/
theorem canPrivAck_ends {f : CanFrame} {o : Nat} (hr : s.privReqOf ch seq = some r) (hf : s.canTakes f) (hide : f.ide = false) (hfdf : f.fdf = true)
    (h1 : 0x040 ≤ f.id) (h2 : f.id ≤ 0x05F) (hl : 6 ≤ f.data.length) (hch : ch < 32) (hpath : s.chPath ch (2 + f.port) = true)
    (ec : beAt f.data 0 1 = ch) (es : beAt f.data 1 4 = seq) (h3 : r.cls = 3) (hd : s.chDest ch = f.id - 0x040) (hrel : r.released.isSome = true)
    (ho : ackOutcome (beAt f.data 5 1) = some o) :
    runs (.canPrivAckRx f) s (fun t => t.privReqOf ch seq = none ∧ t.fld (chStat ch 28 4) = o) := by
  obtain ⟨hon, hnear, -, -⟩ := received_leaves s f
  obtain ⟨u, hu⟩ : ∃ u, u = s.received f := ⟨_, rfl⟩
  rw [← hu] at hon hnear
  have htbl : u.tbl = s.tbl := hon .tbl (by decide)
  have hru : u.privReqOf ch seq = some r := (privReqOf_of_priv (hon .priv (by decide)) ..).trans hr
  have hdu : u.chDest ch = f.id - 0x040 := (tfld_of_tbl htbl ..).trans hd
  have hpu : u.chPath ch (2 + f.port) = true := by
    unfold State.chPath State.chFld
    rw [tfld_of_tbl htbl]
    exact hpath
  have hcond : (!f.ide && f.fdf && decide (0x040 ≤ f.id) && decide (f.id ≤ 0x05F) && decide (6 ≤ f.data.length) && decide (beAt f.data 0 1 < 32)
      && u.chPath (beAt f.data 0 1) (2 + f.port)) = true := by
    rw [ec, hide, hfdf, hpu]
    simp [h1, h2, hl, hch]
  have hack := privAck_ends hru hdu hrel ho
  rw [h3] at hack
  refine runs_intro (t := (u.privAck 3 (f.id - 0x040) ch seq (beAt f.data 5 1)).tailEnd f.port) (next_congr ?_) ?_
  · rw [canRx_takes hf, ← hu]
    dsimp only
    rw [if_pos hcond, ec, es]
  · obtain ⟨he, -⟩ := tailEnd_keeps_rest (u.privAck 3 (f.id - 0x040) ch seq (beAt f.data 5 1)) f.port
    rw [privReqOf_of_priv (he .priv (by decide)), fld_of_regs (he .regs (by decide))]
    exact hack

/-- What an acknowledgement from a node does. -/
theorem subPrivAck_ends {g : Gsp} {rs : List (Nat × List Byte)} {v : List Byte} {o : Nat} (hr : s.privReqOf ch seq = some r) (hp : s.gspPasses g rs)
    (hb : s.gspBudget g.node) (ht : g.typ = 9) (hv : tlvGet rs 0xE1 = some v) (ec : beAt v 0 1 = ch) (es : beAt v 1 4 = seq) (h2 : r.cls = 2)
    (hd : s.chDest ch = g.node) (hrel : r.released.isSome = true) (ho : ackOutcome (beAt v 5 1) = some o) :
    runs (.subPrivAckRx g) s (fun t => t.privReqOf ch seq = none ∧ t.fld (chStat ch 28 4) = o) := by
  obtain ⟨A, x, B, hA, hB, hj⟩ := message_allowed hp hb
  have hpriv : B.priv = s.priv := by
    have h := gspCheck_keeps (T := [.regs, .tbl, .items, .icu, .evr, .snet]) (g := g) (Keeps.refl _ s) (List.Subset.refl _)
    rw [hA] at h
    change Keeps _ s A at h
    have h' := msgAllowed_keeps (n := g.node) h (by decide)
    rw [hB] at h'
    exact h'.only .priv (by decide)
  have hdB : B.chDest ch = g.node := (congrArg (wbits · 0 11) (hj.near.tbl (tkey 0x2600 ch 2) (by
    have := tkeyTid_ge 0x2600 ch 2
    unfold evTbl
    omega))).trans hd
  have hack := privAck_ends ((privReqOf_of_priv hpriv ..).trans hr) hdB hrel ho
  rw [h2] at hack
  refine runs_intro (next_congr ?_) hack
  rw [hA]
  dsimp only
  rw [if_neg (fun h => h ht), hB]
  dsimp only
  rw [hv]
  dsimp only
  rw [ec, es]

end

/-- Settles O32: release, repetition, end and acknowledgement of a request. -/
theorem privilegedRequestsAreDeliveredAndEnd : Obligations.PrivilegedRequestsAreDeliveredAndEnd := by
  unfold Obligations.PrivilegedRequestsAreDeliveredAndEnd
  intro ch seq ns r s hr
  refine ⟨fun h2 hrel hslot hb hp hroom hfirst => ?_, fun h => privRelease_idles hr h, fun t0 h2 hrel hw hslot hroom hb ht hg => ?_,
    fun h => privRetx_idles hr h, fun h2 ht => ?_, fun ht => privRequestEnd_idles hr ht, fun f o hf hide hfdf h1 h2 hl hch hpath ec es h3 hd hrel ho => ?_,
    fun g rs v o hp hb ht hv ec es h2 hd hrel ho => ?_⟩
  · have he := privRelease_runs hr h2 hrel hslot hb hp hroom hfirst
    by_cases hc : r.cls = 2
    · obtain ⟨e1, e2⟩ := release_kwp (ns := ns) hr _ rfl
      exact runs_intro (he.trans (next_congr (if_pos hc))) ⟨e1, fun _ => e2, fun h3 => absurd h3 (by omega)⟩
    · obtain ⟨e1, e2⟩ := release_can (ns := ns) hr
      exact runs_intro (he.trans (next_congr (if_neg hc))) ⟨e1, fun h => absurd h hc, fun _ hs => e2 hs.can⟩
  · exact runs_intro (privRetx_runs hr h2 hrel hw hslot hroom hb ht hg) (privRepeated_shows hr _)
  · obtain ⟨e1, e2, e3⟩ := privDone_shows s r (o := if r.released.isSome then oSENT else oUNDELIVERED) (by split <;> decide)
    obtain ⟨rfl, rfl⟩ := privReqOf_named hr
    refine runs_intro (privRequestEnd_runs hr h2 ht) ⟨e1, e2, fun hrel => e3 ?_⟩
    rw [hrel]
    rfl
  · exact canPrivAck_ends hr hf hide hfdf h1 h2 hl hch hpath ec es h3 hd hrel ho
  · exact subPrivAck_ends hr hp hb ht hv ec es h2 hd hrel ho

end Sys2Proof.Machine
end

section
/-! ### The substation image: what its values leave of a node (R222, R223) -/

namespace Sys2Proof.Machine

/-- The registers beside the counters of missed and excess reports and of lost nodes. -/
def offSlot (a : Nat) : Prop := a ≠ 0x120C4 ∧ a ≠ 0x120C8 ∧ a ≠ 0x120EC

theorem offSlot_of_evReg {p a : Nat} (h : evReg p a) : offSlot a := by
  unfold evReg at h
  unfold offSlot
  simp only [addrOf_eq, pageOf_eq] at h
  omega

theorem offSlot_of_queueReg {a : Nat} (h : queueReg a) : offSlot a := by
  rcases h with rfl | rfl | rfl | rfl | h | rfl
  · unfold offSlot; decide
  · unfold offSlot; decide
  · unfold offSlot; decide
  · unfold offSlot; decide
  · exact offSlot_of_evReg h
  · unfold offSlot; decide

theorem offSlot_of_faultReg {a : Nat} (h : faultReg a = true) : offSlot a := by
  refine ⟨?_, ?_, ?_⟩
  · rintro rfl
    exact absurd h (by decide)
  · rintro rfl
    exact absurd h (by decide)
  · rintro rfl
    exact absurd h (by decide)

/-- Tables that the slots of a node may change. -/
def slotTbl (tid : Nat) : Prop := evTbl tid ∨ 0x1201 ≤ tid

theorem near_fwPuts {p q : Nat → Prop} (hev : ∀ a, evReg 0x30 a → p a) (hf : ∀ a, faultReg a = true → p a)
    (hx : p 0x30044 ∧ p 0x3004C ∧ p Ctr.HLTH_XBAR.f.addr ∧ p Ctr.HLTH_XBAR.ovf.1) (hq : ∀ x, evTbl x → q x) (s : State) (eng n i : Nat)
    (its : List Item) : Near p q s (s.fwPuts eng n i its) := by
  obtain ⟨h1, h2, h3, h4⟩ := hx
  unfold State.fwPuts State.fwViol State.xbarViol
  exact near_ite' (near_enterFault (near_raiseEv (near_bump (near_wr (near_setF (Near.refl _ _ s) h1) h2) h3 h4) (by decide) hev hq) hf hq)
    (near_same (Near.refl _ _ s) (regs_mbxPuts ..) (tbl_mbxPuts ..))

/-- `t` is `s` with values of node `n`'s image, its counters and queue records changed: its state, its missed reports and the report it
used last stand. -/
structure ImageOf (n : Nat) (s t : State) : Prop where
  near : Near offSlot slotTbl s t
  state : t.nodeState n = s.nodeState n
  miss : t.nodeMiss n = s.nodeMiss n
  used : ∀ w, w = 15 ∨ w = 17 ∨ w = 18 → t.trd 0x1201 n w = s.trd 0x1201 n w
  reps : (t.node n).reps = (s.node n).reps
  rxCyc : (t.node n).rxCyc = (s.node n).rxCyc
  needState : (t.node n).needState = (s.node n).needState
  others : ∀ k, k < 2048 → k ≠ n → t.nodeState k = s.nodeState k

section
variable {n : Nat} {s t u : State}

theorem ImageOf.refl (n : Nat) (s : State) : ImageOf n s s := ⟨Near.refl _ _ s, rfl, rfl, fun _ _ => rfl, rfl, rfl, rfl, fun _ _ _ => rfl⟩

theorem ImageOf.trans (h : ImageOf n s t) (h' : ImageOf n t u) : ImageOf n s u :=
  ⟨h.near.trans h'.near, h'.state.trans h.state, h'.miss.trans h.miss, fun w hw => (h'.used w hw).trans (h.used w hw), h'.reps.trans h.reps,
    h'.rxCyc.trans h.rxCyc, h'.needState.trans h.needState, fun k hk hn => (h'.others k hk hn).trans (h.others k hk hn)⟩

theorem image_ite {c : Prop} [Decidable c] (h1 : ImageOf n s t) (h2 : ImageOf n s u) : ImageOf n s (if c then t else u) := by
  split
  · exact h1
  · exact h2

theorem image_foldl {α : Type} {l : List α} {f : State → α → State} (h : ImageOf n s t) (hf : ∀ a, ∀ e ∈ l, ImageOf n a (f a e)) :
    ImageOf n s (l.foldl f t) := by
  induction l generalizing t with
  | nil => exact h
  | cons e l ih => exact ih (h.trans (hf t e (List.mem_cons_self ..))) fun a e' he => hf a e' (List.mem_cons_of_mem _ he)

/-- A change beside the node and its image. -/
theorem image_beside (h : Near offSlot slotTbl s t) (hlt : n < 2 ^ 24)
    (hi : ∀ m w, m < 2 ^ 24 → w < 2 ^ 8 → t.trd 0x1201 m w = s.trd 0x1201 m w) (hn : t.snet.nodes = s.snet.nodes) : ImageOf n s t := by
  have h0 := hi n 0 hlt (by decide)
  have hnode : t.node n = s.node n := by
    unfold State.node
    rw [hn]
  exact ⟨h, congrArg (wbits · 0 3) h0, congrArg (wbits · 8 8) h0, fun w hw => hi n w hlt (by omega), by rw [hnode], by rw [hnode],
    by rw [hnode], fun k hk _ => congrArg (wbits · 0 3) (hi k 0 (by omega) (by decide))⟩

theorem image_nodeMod {m : Nat} {f : NodeSt → NodeSt} (h1 : ∀ d, (f d).reps = d.reps) (h2 : ∀ d, (f d).rxCyc = d.rxCyc)
    (h3 : ∀ d, (f d).needState = d.needState) : ImageOf n s (s.nodeMod m f) := by
  have ht : ∀ w, (s.nodeMod m f).trd 0x1201 n w = s.trd 0x1201 n w := fun w => trd_of_tbl (tbl_nodeMod ..) ..
  have hn : ∀ {α : Type} (g : NodeSt → α), (∀ d, g (f d) = g d) → g ((s.nodeMod m f).node n) = g (s.node n) := fun g hg => by
    by_cases hm : n = m
    · subst hm
      rw [node_nodeMod_self, hg]
    · rw [node_nodeMod_other hm]
  exact ⟨near_same (Near.refl _ _ s) (regs_nodeMod ..) (tbl_nodeMod ..), congrArg (wbits · 0 3) (ht 0), congrArg (wbits · 8 8) (ht 0),
    fun w _ => ht w, hn _ h1, hn _ h2, hn _ h3, fun k _ _ => nodeState_nodeMod ..⟩

/-- A word of an image that tells none of what stands. -/
theorem image_twr {w : Nat} {v : Word} (hw : w ≠ 0 ∧ w ≠ 15 ∧ w ≠ 17 ∧ w ≠ 18 ∧ w < 256) : ImageOf n s (s.twr 0x1201 n w v) := by
  obtain ⟨h0, h15, h17, h18, hlt⟩ := hw
  have hne : ∀ w', w' ≠ w → (s.twr 0x1201 n w v).trd 0x1201 n w' = s.trd 0x1201 n w' := fun w' h => trd_twr_word h
  have hnode : (s.twr 0x1201 n w v).node n = s.node n := node_of_snet (snet_twr ..) n
  refine ⟨near_twr (Near.refl _ _ s) (.inr (tkeyTid_ge ..)), congrArg (wbits · 0 3) (hne 0 (Ne.symm h0)), congrArg (wbits · 8 8) (hne 0 (Ne.symm h0)),
    fun w' h' => hne w' ?_, by rw [hnode], by rw [hnode], by rw [hnode], fun k _ _ => congrArg (wbits · 0 3) (trd_twr_ne _ _ _ _ _ _ _ _ ?_)⟩
  · rcases h' with rfl | rfl | rfl
    · exact Ne.symm h15
    · exact Ne.symm h17
    · exact Ne.symm h18
  · unfold tkey
    omega

theorem image_of_tid (hn : n < 2 ^ 24) {tid i w : Nat} {v : Word} (ht : 0x1202 ≤ tid) : ImageOf n s (s.twr tid i w v) :=
  image_beside (near_twr (Near.refl _ _ s) (.inr (Nat.le_trans (by omega) (tkeyTid_ge ..)))) hn (fun m w' hm hw' => trd_twr_ne _ _ _ _ _ _ _ _ (by
    unfold tkey
    omega)) (congrArg SnetSt.nodes (snet_twr ..))

theorem image_regs (h : Near offSlot evTbl s t) (hn : t.snet.nodes = s.snet.nodes) (hlt : n < 2 ^ 24) : ImageOf n s t :=
  image_beside (h.mono (fun _ => id) fun _ => .inl) hlt (fun m w hm hw => h.tbl (tkey 0x1201 m w) (by
    rw [tkeyTid_tkey _ _ _ hm hw]
    unfold evTbl
    omega)) hn

theorem image_queued (h : Queued s t) (hn : n < 2048) : ImageOf n s t := by
  have h0 := h.image (n := n) (w := 0) hn (by decide)
  obtain ⟨st, ci, e⟩ := h.node n
  refine ⟨h.near.mono (fun _ => offSlot_of_queueReg) fun _ hx => hx.imp id fun hx => by omega, congrArg (wbits · 0 3) h0, congrArg (wbits · 8 8) h0,
    fun w hw => h.image hn (by omega), by rw [e], by rw [e], by rw [e], fun k hk _ => congrArg (wbits · 0 3) (h.image hk (by decide))⟩

/-! #### Values -/

theorem fieldWords_apart (i : Nat) : ∀ w ∈ fieldWords i, w ≠ 0 ∧ w ≠ 15 ∧ w ≠ 17 ∧ w ≠ 18 ∧ w < 256 := by
  by_cases h : i < 12
  · interval_cases i <;> decide
  · unfold fieldWords
    rw [List.getD_eq_default _ _ (by simpa using h)]
    simp

theorem statPlace_apart (i : Nat) : (statPlace i).1 ≠ 0 ∧ (statPlace i).1 ≠ 15 ∧ (statPlace i).1 ≠ 17 ∧ (statPlace i).1 ≠ 18
    ∧ (statPlace i).1 < 256 := by
  unfold statPlace
  dsimp only
  split
  · decide
  · split
    · decide
    · decide

theorem image_imgWords (ps : List (Nat × Word)) (h : ∀ p ∈ ps, p.1 ≠ 0 ∧ p.1 ≠ 15 ∧ p.1 ≠ 17 ∧ p.1 ≠ 18 ∧ p.1 < 256) : ImageOf n s (s.imgWords n ps) :=
  image_foldl (.refl n s) fun _ p hp => image_twr (h p hp)

theorem image_imgSetStat (i st : Nat) : ImageOf n s (s.imgSetStat n i st) := image_twr (statPlace_apart i)

theorem image_imgReport (f : Nat × List Word × Nat) : ImageOf n s (s.imgReport n f) := by
  have h : ImageOf n s (s.imgWords n ((fieldWords f.1).zip f.2.1)) := image_imgWords _ fun p hp => fieldWords_apart f.1 p.1 (List.of_mem_zip hp).1
  have h' := h.trans (image_imgSetStat f.1 (f.2.2 % 64))
  exact h'.trans (image_nodeMod (fun _ => rfl) (fun _ => rfl) fun _ => rfl)

theorem image_imgHold (q i : Nat) : ImageOf n s (s.imgHold n q i) := by
  refine image_ite (image_imgSetStat ..) ((image_imgWords _ fun p hp => ?_).trans (image_imgSetStat ..))
  obtain ⟨w, hw, rfl⟩ := List.mem_map.1 hp
  exact fieldWords_apart i w hw

theorem image_imgStale : ImageOf n s (s.imgStale n) := image_foldl (.refl n s) fun _ _ _ => image_imgHold ..

theorem image_imgSubst : ImageOf n s (s.imgSubst n) := by
  unfold State.imgSubst
  refine image_foldl (.refl n s) fun a i _ => ?_
  dsimp only
  split
  · refine image_ite ((image_imgWords _ fun p hp => ?_).trans (image_imgSetStat ..)) (image_imgHold ..)
    obtain ⟨w, hw, rfl⟩ := List.mem_map.1 hp
    exact fieldWords_apart i w hw
  · exact image_imgHold ..

theorem image_imgTake (rs : List (Nat × List Byte)) : ImageOf n s (s.imgTake n rs) := by
  unfold State.imgTake
  extract_lets t fs s1 s2
  have h1 : ImageOf n s s1 := image_foldl (.refl n s) fun _ _ _ => image_imgReport ..
  have h2 : ImageOf n s s2 := image_foldl h1 fun _ _ _ => image_imgHold ..
  split
  · exact h2
  · exact h2.trans (image_twr (by decide))

theorem image_nodeCount (hn : n < 2 ^ 24) (w : Nat) : ImageOf n s (s.nodeCount n w) := by
  unfold State.nodeCount
  exact image_ite (image_of_tid hn (by decide)) (image_ite ((image_of_tid hn (by decide)).trans (image_of_tid hn (by decide))) (image_of_tid hn (by decide)))

theorem image_imgPublish (hn : n < 2 ^ 24) : ImageOf n s (s.imgPublish n) := by
  unfold State.imgPublish State.rolePuts
  refine image_regs (near_fwPuts (fun _ => offSlot_of_evReg) (fun _ => offSlot_of_faultReg) (by unfold offSlot; decide) (fun _ => id) ..) ?_ hn
  exact congrArg SnetSt.nodes ((fwPuts_keeps (Keeps.refl _ s) (List.Subset.refl _)).only .snet (by decide))

end

end Sys2Proof.Machine
end

section
/-! ### The substation network: the report slot (R217 to R223, R234, R236) -/

namespace Sys2Proof.Machine

section
variable {n : Nat} {s t : State}

theorem image_tset0 (lo k v : Nat) (h : 16 ≤ lo) : ImageOf n s (s.tset 0x1201 n 0 lo k v) := by
  have hnode : (s.tset 0x1201 n 0 lo k v).node n = s.node n := node_of_snet (snet_tset ..) n
  exact ⟨near_tset (Near.refl _ _ s) (.inr (tkeyTid_ge ..)), tfld_tset_apart (.inr (.inr (by omega))), tfld_tset_apart (.inr (.inr (by omega))),
    fun w hw => trd_twr_word (by omega), by rw [hnode], by rw [hnode], by rw [hnode], fun k _ hk => congrArg (wbits · 0 3) (trd_twr_ne _ _ _ _ _ _ _ _ (by
      unfold tkey
      omega))⟩

theorem image_latency (hn : n < 2 ^ 24) (r : Report) : ImageOf n s (s.latency r) := by
  have hlat : ∀ a : State, (a.snetMod (fun q => { q with latHf := true })).snet.nodes = a.snet.nodes := fun _ => rfl
  have hreg : Near offSlot evTbl s (s.latency r) ∧ (s.latency r).snet.nodes = s.snet.nodes := by
    unfold State.latency
    extract_lets d us s1 s2 s3
    have h1 : Near offSlot evTbl s s1 := near_same (Near.refl _ _ s) (regs_useFree s) (tbl_useFree s)
    have e1 : s1.snet = s.snet := rfl
    have h2 : Near offSlot evTbl s s2 ∧ s2.snet = s.snet := by
      unfold s2
      split
      · exact ⟨near_wr h1 (by unfold offSlot; decide), (snet_wr ..).trans e1⟩
      · exact ⟨h1, e1⟩
    have h3 : Near offSlot evTbl s s3 := near_bump h2.1 (by unfold offSlot; decide) (by unfold offSlot; decide)
    have e3 : s3.snet = s.snet := (snet_bump ..).trans h2.2
    split
    · split
      · exact ⟨h3, congrArg SnetSt.nodes e3⟩
      · refine ⟨near_raiseEv (near_same h3 (regs_snetMod ..) (tbl_snetMod ..)) (by decide) (fun _ => offSlot_of_evReg) fun _ => id, ?_⟩
        rw [(raiseEv_only _ _ _ .snet (by decide) : (State.raiseEv _ _ _).snet = _)]
        exact (hlat s3).trans (congrArg SnetSt.nodes e3)
    · exact ⟨h2.1, congrArg SnetSt.nodes h2.2⟩
  exact image_regs hreg.1 hreg.2 hn

theorem image_cmdAck (hn : n < 2048) (off : Nat) (v : List Byte) : ImageOf n s (s.cmdAck n off v) := by
  have hev : ∀ a : State, ImageOf n a (a.raiseEv 0x12 7) := fun a =>
    image_regs (near_raiseEv (Near.refl _ _ a) (by decide) (fun _ => offSlot_of_evReg) fun _ => id)
      (congrArg SnetSt.nodes (raiseEv_only _ _ _ .snet (by decide))) (by omega)
  have hmiss : ∀ a : State, ImageOf n a (a.bump .SNET_CMD_MISSED) := fun a =>
    image_regs (near_bump (Near.refl _ _ a) (by unfold offSlot; decide) (by unfold offSlot; decide)) (congrArg SnetSt.nodes (snet_bump ..)) (by omega)
  unfold State.cmdAck
  extract_lets d res es s1
  have h1 : ImageOf n s s1 := image_foldl (.refl n s) fun a e _ => by
    have hf : ImageOf n a (a.qFree e off) := image_queued (queued_qFree ..) hn
    split
    · exact image_ite hf (image_queued (queued_tset ..) hn)
    · exact image_ite (hf.trans (hmiss _)) ((hf.trans (hmiss _)).trans (hev _))
  exact image_ite (h1.trans (image_nodeMod (fun _ => rfl) (fun _ => rfl) fun _ => rfl)) (.refl n s)

/-- What a report leaves that node `n` uses: its state and its missed reports stand, its words name the report. -/
structure UsedAt (n : Nat) (r : Report) (s t : State) : Prop where
  near : Near offSlot slotTbl s t
  miss : t.nodeMiss n = s.nodeMiss n
  x : t.trd 0x1201 n 15 = BitVec.ofNat 32 r.x
  sec : t.trd 0x1201 n 17 = BitVec.ofNat 32 r.sec
  ns : t.trd 0x1201 n 18 = BitVec.ofNat 32 r.ns
  reps : (t.node n).reps = (s.node n).reps
  rxCyc : (t.node n).rxCyc = (s.node n).rxCyc

theorem UsedAt.image {r : Report} {u : State} (h : UsedAt n r s t) (h' : ImageOf n t u) : UsedAt n r s u :=
  ⟨h.near.trans h'.near, h'.miss.trans h.miss, (h'.used 15 (.inl rfl)).trans h.x, (h'.used 17 (.inr (.inl rfl))).trans h.sec,
    (h'.used 18 (.inr (.inr rfl))).trans h.ns, h'.reps.trans h.reps, h'.rxCyc.trans h.rxCyc⟩

theorem reportUsed_shows (hn : n < 2 ^ 24) (r : Report) : UsedAt n r s (s.reportUsed n r) ∧ (s.reportUsed n r).nodeState n = s.nodeState n := by
  obtain ⟨u, hu⟩ : ∃ u, u = ((s.twr 0x1201 n 15 (BitVec.ofNat 32 r.x)).twr 0x1201 n 17 (BitVec.ofNat 32 r.sec)).twr 0x1201 n 18 (BitVec.ofNat 32 r.ns) :=
    ⟨_, rfl⟩
  have h0 : u.trd 0x1201 n 0 = s.trd 0x1201 n 0 := by
    rw [hu, trd_twr_word (by decide), trd_twr_word (by decide), trd_twr_word (by decide)]
  have hnode : u.node n = s.node n := node_of_snet (by rw [hu, snet_twr, snet_twr, snet_twr]) n
  have h1 : UsedAt n r s u := ⟨by
      rw [hu]
      exact near_twr (near_twr (near_twr (Near.refl _ _ s) (.inr (tkeyTid_ge ..))) (.inr (tkeyTid_ge ..))) (.inr (tkeyTid_ge ..)),
    congrArg (wbits · 8 8) h0, by rw [hu, trd_twr_word (by decide), trd_twr_word (by decide), trd_twr_self],
    by rw [hu, trd_twr_word (by decide), trd_twr_self], by rw [hu, trd_twr_self], by rw [hnode], by rw [hnode]⟩
  have h2 : ImageOf n u (s.reportUsed n r) := by
    unfold State.reportUsed
    extract_lets s1 s2 s3
    have e1 : s1 = u := hu.symm
    have i2 : ImageOf n u s2 := e1 ▸ image_nodeCount hn 0
    have i3 : ImageOf n u s3 := by
      unfold s3
      split
      · exact i2
      · exact i2.trans (image_tset0 _ _ _ (by decide))
    exact image_ite ((i3.trans (image_latency hn r)).trans (image_nodeMod (fun _ => rfl) (fun _ => rfl) fun _ => rfl)) i3
  exact ⟨h1.image h2, h2.state.trans (congrArg (wbits · 0 3) h0)⟩

/-- A report that a node in QUARANTINE or ADMITTED uses. -/
theorem slotReport_shows (hn : n < 2048) (off st : Nat) (r : Report) :
    UsedAt n r s (s.slotReport n off st r)
      ∧ (st = 2 ∨ (st = 1 ∧ (s.node n).stateOk = false) → (s.slotReport n off st r).nodeState n = s.nodeState n)
      ∧ (st = 1 → (s.node n).stateOk = true → 1 ≤ (s.node n).run →
          regsBack (typeKinds (s.nodeType n)) (s.node n).lastRegs (energyRegs r.recs) = false → (s.slotReport n off st r).nodeState n = 2) := by
  unfold State.slotReport
  extract_lets d a b regs take back run c
  obtain ⟨ha, hsa⟩ := reportUsed_shows (s := s) (n := n) (by omega) r
  have hb : ImageOf n a b := by
    unfold b
    split
    · exact .refl n a
    · exact image_cmdAck hn off _
  have htake : ∀ x : State, ImageOf n x (take x) := fun x =>
    (image_imgTake r.recs).trans (image_nodeMod (fun _ => rfl) (fun _ => rfl) fun _ => rfl)
  have hc : ImageOf n b c := image_nodeMod (fun _ => rfl) (fun _ => rfl) fun _ => rfl
  have hset : UsedAt n r s (c.setNodeState n 2) ∧ (c.setNodeState n 2).nodeState n = 2 := by
    have huc := (ha.image hb).image hc
    have hnode : (c.setNodeState n 2).node n = c.node n := node_of_snet (snet_tset ..) n
    have hw : ∀ w, w ≠ 0 → (c.setNodeState n 2).trd 0x1201 n w = c.trd 0x1201 n w := fun w h => trd_twr_word h
    refine ⟨⟨near_tset huc.near (.inr (tkeyTid_ge ..)), (tfld_tset_apart (.inr (.inl (by decide)))).trans huc.miss, (hw 15 (by decide)).trans huc.x,
      (hw 17 (by decide)).trans huc.sec, (hw 18 (by decide)).trans huc.ns, by rw [hnode]; exact huc.reps, by rw [hnode]; exact huc.rxCyc⟩, ?_⟩
    exact tfld_tset_self (by decide)
  by_cases h2 : st = 2
  · rw [if_pos h2]
    exact ⟨(ha.image hb).image (htake b), fun _ => (htake b).state.trans (hb.state.trans hsa), fun h => absurd h (by omega)⟩
  · rw [if_neg h2]
    by_cases h1 : st = 1 ∧ d.stateOk = true
    · rw [if_pos h1]
      have hrun : 1 ≤ d.run → back = false → 2 ≤ run := fun h hbk => by
        unfold run
        rw [if_neg (by rw [hbk]; simp; omega)]
        omega
      split
      · exact ⟨hset.1.image (htake _), fun h => absurd (h.resolve_left h2).2 (by rw [show (s.node n).stateOk = true from h1.2]; decide),
          fun _ _ _ _ => (htake _).state.trans hset.2⟩
      · next hlt =>
        exact ⟨((ha.image hb).image hc).image image_imgSubst, fun h => absurd (h.resolve_left h2).2 (by rw [show (s.node n).stateOk = true from h1.2]; decide),
          fun _ _ hr hbk => absurd (hrun hr hbk) hlt⟩
    · rw [if_neg h1]
      exact ⟨(ha.image hb).image image_imgSubst, fun _ => image_imgSubst.state.trans (hb.state.trans hsa), fun h h' => absurd ⟨h, h'⟩ h1⟩

/-! #### A slot -/

/-- A slot of a node without a report. -/
theorem slotMissed_shows (hn : n < 2048) (st : Nat) :
    (s.slotMissed n st).nodeState n = s.nodeState n ∧ ((s.slotMissed n st).node n).reps = (s.node n).reps
      ∧ ((s.node n).graceCyc = some s.snet.cyc → (s.slotMissed n st).nodeMiss n = s.nodeMiss n
        ∧ (s.slotMissed n st).fld Ctr.SNET_MISS.f = s.fld Ctr.SNET_MISS.f)
      ∧ ((s.node n).graceCyc ≠ some s.snet.cyc → (s.slotMissed n st).nodeMiss n = min 255 (s.nodeMiss n + 1)
        ∧ (s.slotMissed n st).fld Ctr.SNET_MISS.f = min (2 ^ 32 - 1) (s.fld Ctr.SNET_MISS.f + 1)) := by
  unfold State.slotMissed
  extract_lets grace a
  have hmiss : ∀ {u v : State}, ImageOf n u v → v.fld Ctr.SNET_MISS.f = u.fld Ctr.SNET_MISS.f := fun h =>
    fld_of_rd (f := ⟨0x120C8, 0, 32⟩) (h.near.regs _ (by unfold offSlot; decide))
  have hcount : (s.countMiss n).nodeState n = s.nodeState n ∧ (s.countMiss n).node n = s.node n ∧ (s.countMiss n).nodeMiss n = min 255 (s.nodeMiss n + 1)
      ∧ (s.countMiss n).fld Ctr.SNET_MISS.f = min (2 ^ 32 - 1) (s.fld Ctr.SNET_MISS.f + 1) := by
    unfold State.countMiss
    obtain ⟨u, hu⟩ : ∃ u, u = (s.tset 0x1201 n 0 8 8 (min 255 (s.nodeMiss n + 1))).bump .SNET_MISS := ⟨_, rfl⟩
    have e1 : u.nodeState n = s.nodeState n := by
      rw [hu]
      exact (tfld_of_tbl (tbl_bump ..) ..).trans (tfld_tset_apart (.inr (.inr (by decide))))
    have e2 : u.nodeMiss n = min 255 (s.nodeMiss n + 1) := by
      rw [hu]
      refine (tfld_of_tbl (tbl_bump ..) ..).trans ((tfld_tset_self (by decide)).trans (Nat.mod_eq_of_lt ?_))
      omega
    have e3 : u.fld Ctr.SNET_MISS.f = min (2 ^ 32 - 1) (s.fld Ctr.SNET_MISS.f + 1) := by
      rw [hu]
      refine (fld_bump_stays rfl (by decide) (.inl (by decide))).trans ?_
      rw [fld_tset]
      rfl
    have e4 : u.node n = s.node n := node_of_snet (by rw [hu, snet_bump, snet_tset]) n
    have hi : ImageOf n u (u.nodeCount n 1) := image_nodeCount (by omega) 1
    have e5 : (u.nodeCount n 1).node n = u.node n := node_of_snet ((nodeCount_keeps (Keeps.refl _ u) (List.Subset.refl _)).only .snet (by decide)) n
    rw [← hu]
    exact ⟨hi.state.trans e1, e5.trans e4, hi.miss.trans e2, (hmiss hi).trans e3⟩
  have hend : ∀ t, t = (if st = 1 then (a.nodeMod n (fun d => { d with run := 0, lastRegs := [] })).imgSubst n
      else if st = 2 then (if !grace && decide (a.nodeMiss n ≤ 2) then a.imgStale n else a)
      else a.imgSubst n) → ImageOf n a t := fun t ht => by
    rw [ht]
    refine image_ite ?_ (image_ite (image_ite image_imgStale (.refl n a)) image_imgSubst)
    have h : ImageOf n a (a.nodeMod n (fun d => { d with run := 0, lastRegs := [] })) := image_nodeMod (fun _ => rfl) (fun _ => rfl) fun _ => rfl
    exact h.trans image_imgSubst
  have hi := hend _ rfl
  have ea : ∀ h : (s.node n).graceCyc = some s.snet.cyc, a = s := fun h => if_pos (beq_iff_eq.2 h)
  have ea' : ∀ h : (s.node n).graceCyc ≠ some s.snet.cyc, a = s.countMiss n := fun h => if_neg (fun hc => h (beq_iff_eq.1 hc))
  obtain ⟨c1, c2, c3, c4⟩ := hcount
  refine ⟨?_, ?_, fun h => ?_, fun h => ?_⟩
  · refine hi.state.trans ?_
    by_cases h : (s.node n).graceCyc = some s.snet.cyc
    · rw [ea h]
    · rw [ea' h, c1]
  · refine hi.reps.trans ?_
    by_cases h : (s.node n).graceCyc = some s.snet.cyc
    · rw [ea h]
    · rw [ea' h, c2]
  · exact ⟨hi.miss.trans (by rw [ea h]), (hmiss hi).trans (by rw [ea h])⟩
  · exact ⟨hi.miss.trans (by rw [ea' h, c3]), (hmiss hi).trans (by rw [ea' h, c4])⟩

/-- A report was received after the slot's instant. -/
def State.slotLater (s : State) (ns : Nat) (r : Report) : Bool := decide (0 < ltDiff (s.instant ns) (r.rxSec, r.rxNs))

/-- The reports of a slot's window. -/
def State.slotWin (s : State) (n ns : Nat) : List Report :=
  (s.node n).reps.filter (fun r => !s.slotLater ns r && ((s.node n).prevSlot.map (fun p => decide (0 < ltDiff p (r.rxSec, r.rxNs)))).getD true)

/-- The report that a slot takes. -/
def State.slotGot (s : State) (n ns : Nat) : Option Report :=
  if (s.node n).helloWin = true then none
  else bestReport (if s.nodeState n = 3 ∨ s.nodeState n = 4 then (s.slotWin n ns).filter (·.known) else s.slotWin n ns)

/-- A slot has counted its excess reports and closed its window. -/
def State.slotClosed (s : State) (n ns : Nat) : State :=
  (s.bumpN .SNET_RX_EXCESS ((s.slotWin n ns).length - 1)).nodeMod n (fun d =>
    { d with reps := d.reps.filter (s.slotLater ns), helloWin := false, prevSlot := some (s.instant ns) })

theorem slotClosed_shows (s : State) (n ns : Nat) :
    (s.slotClosed n ns).tbl = s.tbl
      ∧ (s.slotClosed n ns).node n = { s.node n with reps := (s.node n).reps.filter (s.slotLater ns), helloWin := false, prevSlot := some (s.instant ns) }
      ∧ (s.slotClosed n ns).snet.cyc = s.snet.cyc ∧ (s.slotClosed n ns).fld Ctr.SNET_MISS.f = s.fld Ctr.SNET_MISS.f
      ∧ (s.slotClosed n ns).fld Ctr.SNET_RX_EXCESS.f = min (2 ^ 32 - 1) (s.fld Ctr.SNET_RX_EXCESS.f + ((s.slotWin n ns).length - 1)) := by
  unfold State.slotClosed
  refine ⟨(tbl_nodeMod ..).trans (tbl_bumpN ..), ?_, ?_, ?_, ?_⟩
  · rw [node_nodeMod_self, node_of_snet (snet_bumpN ..)]
  · exact (congrArg SnetSt.cyc (snet_bumpN ..) :)
  · exact (fld_nodeMod ..).trans (fld_bumpN_apart (by decide) (by decide))
  · exact (fld_nodeMod ..).trans (fld_bumpN_stays rfl (by decide) (.inl (by decide)))

/-- What a slot of a node without any state, or without a report that it uses, ends as. -/
theorem reportSlot_none (h : s.slotGot n ns = none ∨ s.nodeState n = 0) :
    s.reportSlot n ns = (if s.nodeState n = 0 then s.slotClosed n ns else (s.slotClosed n ns).slotMissed n (s.nodeState n)).imgPublish n := by
  unfold State.reportSlot
  extract_lets d st now after win got s0 u s1
  refine congrArg (State.imgPublish · n) ?_
  unfold s1
  by_cases h0 : st = 0
  · rw [if_pos h0]
    exact (if_pos h0).symm
  · rw [if_neg h0]
    refine Eq.trans ?_ (if_neg h0).symm
    have hg : (if d.helloWin = true then none else got) = none := h.resolve_right h0
    rw [hg]
    rfl

/-- What a slot with a report ends as. -/
theorem reportSlot_some {r : Report} (h : s.slotGot n ns = some r) (h0 : s.nodeState n ≠ 0) :
    s.reportSlot n ns = (if s.nodeState n = 3 ∨ s.nodeState n = 4 then (((s.slotClosed n ns).tset 0x1201 n 0 8 8 0).nodeQuarantine n).imgSubst n
      else ((s.slotClosed n ns).tset 0x1201 n 0 8 8 0).slotReport n ns (s.nodeState n) r).imgPublish n := by
  unfold State.reportSlot
  extract_lets d st now after win got s0 u s1
  refine congrArg (State.imgPublish · n) ?_
  unfold s1
  rw [if_neg h0]
  have hg : (if d.helloWin = true then none else got) = some r := h
  rw [hg]
  rfl

end

end Sys2Proof.Machine
end

section
/-! ### The substation network: a closed report slot -/

namespace Sys2Proof.Machine

section
variable {n arg ns : Nat} {s t : State}

/-- The slot of node `n` is drawn for the running cycle. -/
def State.rxDrawn (s : State) (n : Nat) : State := (s.begun 0x0A).nodeMod n (fun d => { d with rxCyc := some s.snet.cyc })

theorem gspRxclose_runs (h : s.takes 0x41 0x0A (fun e => e.has arg && e.begunAt ns)) (hi : s.entryIdx arg 0 11 = some n) (hd : s.nodeDef n = true) :
    exec (.gspRxclose arg ns) s = .next (if (s.node n).rxCyc = some s.snet.cyc then s.begun 0x0A else (s.rxDrawn n).reportSlot n ns) := by
  refine next_congr ?_
  rw [entry_takes h]
  have hi' : (s.begun 0x0A).entryIdx arg 0 11 = some n := hi
  have hd' : (s.begun 0x0A).nodeDef n = true := hd
  rw [hi']
  dsimp only
  rw [hd']
  by_cases hc : (s.node n).rxCyc = some s.snet.cyc
  · rw [if_pos hc]
    refine if_pos ?_
    have hb : ((s.begun 0x0A).node n).rxCyc = some (s.begun 0x0A).snet.cyc := hc
    rw [hb]
    simp
  · rw [if_neg hc]
    refine if_neg ?_
    have hb : ¬ ((s.begun 0x0A).node n).rxCyc = some (s.begun 0x0A).snet.cyc := hc
    simpa using hb

theorem node_rxDrawn : (s.rxDrawn n).node n = { s.node n with rxCyc := some s.snet.cyc } := node_nodeMod_self

theorem tbl_rxDrawn : (s.rxDrawn n).tbl = s.tbl := tbl_nodeMod ..

theorem regs_rxDrawn : (s.rxDrawn n).regs = s.regs := regs_nodeMod ..

theorem later_rxDrawn : (s.rxDrawn n).slotLater ns = s.slotLater ns := rfl

theorem win_rxDrawn : (s.rxDrawn n).slotWin n ns = s.slotWin n ns := by
  unfold State.slotWin
  rw [node_rxDrawn]
  rfl

theorem state_rxDrawn : (s.rxDrawn n).nodeState n = s.nodeState n := tfld_of_tbl tbl_rxDrawn ..

theorem got_rxDrawn : (s.rxDrawn n).slotGot n ns = s.slotGot n ns := by
  unfold State.slotGot
  rw [node_rxDrawn, state_rxDrawn, win_rxDrawn]

/-- The slot closed in the state that has drawn it. -/
theorem drawnClosed_shows (s : State) (n ns : Nat) :
    let u := (s.rxDrawn n).slotClosed n ns
    u.tbl = s.tbl ∧ (u.node n).reps = (s.node n).reps.filter (s.slotLater ns) ∧ (u.node n).rxCyc = some s.snet.cyc
      ∧ ((u.node n).graceCyc = some u.snet.cyc ↔ (s.node n).graceCyc = some s.snet.cyc) ∧ (u.node n).stateOk = (s.node n).stateOk
      ∧ (u.node n).run = (s.node n).run ∧ (u.node n).lastRegs = (s.node n).lastRegs
      ∧ u.fld Ctr.SNET_MISS.f = s.fld Ctr.SNET_MISS.f
      ∧ u.fld Ctr.SNET_RX_EXCESS.f = min (2 ^ 32 - 1) (s.fld Ctr.SNET_RX_EXCESS.f + ((s.slotWin n ns).length - 1)) := by
  obtain ⟨e1, e2, e3, e4, e5⟩ := slotClosed_shows (s.rxDrawn n) n ns
  rw [node_rxDrawn] at e2
  refine ⟨e1.trans tbl_rxDrawn, by rw [e2]; rfl, by rw [e2], ?_, by rw [e2], by rw [e2], by rw [e2], ?_, ?_⟩
  · rw [e2, e3]
    exact Iff.rfl
  · exact e4.trans (fld_of_regs regs_rxDrawn _)
  · rw [e5, win_rxDrawn, fld_of_regs regs_rxDrawn]

theorem excess_of_near (h : Near offSlot slotTbl s t) : t.fld Ctr.SNET_RX_EXCESS.f = s.fld Ctr.SNET_RX_EXCESS.f :=
  fld_of_rd (f := ⟨0x120C4, 0, 32⟩) (h.regs _ (by unfold offSlot; decide))

theorem miss_of_near (h : Near offSlot slotTbl s t) : t.fld Ctr.SNET_MISS.f = s.fld Ctr.SNET_MISS.f :=
  fld_of_rd (f := ⟨0x120C8, 0, 32⟩) (h.regs _ (by unfold offSlot; decide))

/-- A node that enters QUARANTINE at its slot. -/
theorem quarantined_shows (u : State) (n : Nat) :
    let v := (u.tset 0x1201 n 0 8 8 0).nodeQuarantine n
    Near offSlot slotTbl u v ∧ v.nodeState n = 1 ∧ v.nodeMiss n = 0 ∧ (v.node n).reps = (u.node n).reps ∧ (v.node n).rxCyc = (u.node n).rxCyc
      ∧ (v.node n).needState = true ∧ v.trd 0x1201 n 15 = u.trd 0x1201 n 15 := by
  intro v
  have hn : (u.tset 0x1201 n 0 8 8 0).node n = u.node n := node_of_snet (snet_tset ..) n
  have hv : v.node n = { u.node n with needState := true, stateOk := false, run := 0, lastRegs := [] } := by
    unfold v
    rw [node_nodeQuarantine, hn]
  have ht : ∀ w, v.trd 0x1201 n w = ((u.tset 0x1201 n 0 8 8 0).setNodeState n 1).trd 0x1201 n w := fun w => trd_of_tbl (tbl_nodeMod ..) ..
  refine ⟨?_, nodeState_nodeQuarantine .., ?_, by rw [hv], by rw [hv], by rw [hv], ?_⟩
  · unfold v State.nodeQuarantine
    refine near_same (near_tset (near_tset (Near.refl _ _ u) (.inr (tkeyTid_ge ..))) (.inr (tkeyTid_ge ..))) (regs_nodeMod ..) (tbl_nodeMod ..)
  · refine (congrArg (wbits · 8 8) (ht 0)).trans ?_
    exact (tfld_tset_apart (.inr (.inl (by decide)))).trans (tfld_tset_self (by decide))
  · rw [ht 15]
    exact (trd_twr_word (by decide)).trans (trd_twr_word (by decide))

/-- A report slot with a report. -/
theorem rxclose_takes {r : Report} (hn : n < 2048) (hg : s.slotGot n ns = some r) (t : State) (ht : t = (s.rxDrawn n).reportSlot n ns) :
    (t.node n).reps = (s.node n).reps.filter (s.slotLater ns) ∧ (t.node n).rxCyc = some s.snet.cyc
    ∧ t.fld Ctr.SNET_RX_EXCESS.f = min (2 ^ 32 - 1) (s.fld Ctr.SNET_RX_EXCESS.f + ((s.slotWin n ns).length - 1))
    ∧ (s.nodeState n = 2 → t.nodeMiss n = 0 ∧ t.nodeState n = 2 ∧ t.trd 0x1201 n 15 = BitVec.ofNat 32 r.x
        ∧ t.trd 0x1201 n 17 = BitVec.ofNat 32 r.sec ∧ t.trd 0x1201 n 18 = BitVec.ofNat 32 r.ns)
    ∧ (s.nodeState n = 1 → t.nodeMiss n = 0)
    ∧ (s.nodeState n = 1 → (s.node n).stateOk = true → 1 ≤ (s.node n).run →
        regsBack (typeKinds (s.nodeType n)) (s.node n).lastRegs (energyRegs r.recs) = false → t.nodeState n = 2)
    ∧ (s.nodeState n = 1 → (s.node n).stateOk = false → t.nodeState n = 1)
    ∧ (s.nodeState n = 3 ∨ s.nodeState n = 4 → t.nodeState n = 1 ∧ (t.node n).needState = true ∧ t.nodeMiss n = 0
        ∧ t.trd 0x1201 n 15 = s.trd 0x1201 n 15) := by
  obtain ⟨e1, e2, e3, -, e5, e6, e7, -, e9⟩ := drawnClosed_shows s n ns
  obtain ⟨u, hu⟩ : ∃ u, u = (s.rxDrawn n).slotClosed n ns := ⟨_, rfl⟩
  rw [← hu] at e1 e2 e3 e5 e6 e7 e9
  have hst : u.nodeState n = s.nodeState n := tfld_of_tbl e1 ..
  by_cases h0 : s.nodeState n = 0
  · have hrun := reportSlot_none (s := s.rxDrawn n) (n := n) (ns := ns) (.inr (state_rxDrawn.trans h0))
    rw [if_pos (state_rxDrawn.trans h0), ← hu] at hrun
    have hi : ImageOf n u t := (ht.trans hrun) ▸ image_imgPublish (by omega)
    refine ⟨hi.reps.trans e2, hi.rxCyc.trans e3, (excess_of_near hi.near).trans e9, ?_, ?_, ?_, ?_, ?_⟩
    all_goals intro h
    all_goals exact absurd h (by omega)
  have hrun := reportSlot_some (s := s.rxDrawn n) (n := n) (ns := ns) (got_rxDrawn.trans hg) (by rw [state_rxDrawn]; exact h0)
  rw [← hu, state_rxDrawn] at hrun
  rw [hrun] at ht
  have hpub : ∀ v, ImageOf n v (v.imgPublish n) := fun v => image_imgPublish (by omega)
  by_cases h34 : s.nodeState n = 3 ∨ s.nodeState n = 4
  · rw [if_pos h34] at ht
    obtain ⟨q1, q2, q3, q4, q5, q6, q7⟩ := quarantined_shows u n
    have hi : ImageOf n ((u.tset 0x1201 n 0 8 8 0).nodeQuarantine n) t := ht ▸ image_imgSubst.trans (hpub _)
    refine ⟨hi.reps.trans (q4.trans e2), hi.rxCyc.trans (q5.trans e3), (excess_of_near (q1.trans hi.near)).trans e9, fun h => absurd h (by omega),
      fun h => absurd h (by omega), fun h => absurd h (by omega), fun h => absurd h (by omega), fun _ => ?_⟩
    exact ⟨hi.state.trans q2, hi.needState.trans q6, hi.miss.trans q3, (hi.used 15 (.inl rfl)).trans (q7.trans (trd_of_tbl e1 ..))⟩
  · rw [if_neg h34] at ht
    obtain ⟨x, hx⟩ : ∃ x, x = u.tset 0x1201 n 0 8 8 0 := ⟨_, rfl⟩
    have hxn : x.node n = u.node n := node_of_snet (by rw [hx, snet_tset]) n
    have hxs : x.nodeState n = s.nodeState n := by
      rw [hx]
      exact (tfld_tset_apart (.inr (.inr (by decide)))).trans hst
    have hxm : x.nodeMiss n = 0 := by
      rw [hx]
      exact tfld_tset_self (by decide)
    have hxt : x.nodeType n = s.nodeType n := by
      rw [hx]
      refine (congrArg (wbits · 27 3) (trd_twr_ne _ _ _ _ _ _ _ _ ?_)).trans (tfld_of_tbl e1 ..)
      unfold tkey
      omega
    rw [← hx] at ht
    obtain ⟨k1, k2, k3⟩ := slotReport_shows (s := x) hn ns (s.nodeState n) r
    rw [hxn, hxs] at k2
    rw [hxn, hxt] at k3
    have ku := k1.image (hpub _)
    have hstate : ∀ v, (x.slotReport n ns (s.nodeState n) r).nodeState n = v → t.nodeState n = v := fun v h => ht ▸ (hpub _).state.trans h
    rw [← ht] at ku
    have hnear : Near offSlot slotTbl u t := (near_tset (Near.refl _ _ u) (.inr (tkeyTid_ge ..)) : Near offSlot slotTbl u (u.tset 0x1201 n 0 8 8 0)).trans
      (hx ▸ ku.near)
    refine ⟨ku.reps.trans (by rw [hxn, e2]), ku.rxCyc.trans (by rw [hxn, e3]), (excess_of_near hnear).trans e9,
      fun h => ⟨ku.miss.trans hxm, hstate 2 ((k2 (.inl h)).trans h), ku.x, ku.sec, ku.ns⟩, fun _ => ku.miss.trans hxm,
      fun h h' hr hbk => hstate 2 (k3 h (e5.trans h') (by rw [e6]; exact hr) (by rw [e7]; exact hbk)),
      fun h h' => hstate 1 ((k2 (.inr ⟨h, e5.trans h'⟩)).trans h), fun h => absurd h h34⟩

/-- A report slot without a report. -/
theorem rxclose_misses (hn : n < 2048) (hg : s.slotGot n ns = none) (h0 : s.nodeState n ≠ 0) (t : State) (ht : t = (s.rxDrawn n).reportSlot n ns) :
    t.nodeState n = s.nodeState n ∧ (t.node n).reps = (s.node n).reps.filter (s.slotLater ns)
      ∧ ((s.node n).graceCyc = some s.snet.cyc → t.nodeMiss n = s.nodeMiss n ∧ t.fld Ctr.SNET_MISS.f = s.fld Ctr.SNET_MISS.f)
      ∧ (¬ (s.node n).graceCyc = some s.snet.cyc → t.nodeMiss n = min 255 (s.nodeMiss n + 1)
          ∧ t.fld Ctr.SNET_MISS.f = min (2 ^ 32 - 1) (s.fld Ctr.SNET_MISS.f + 1)) := by
  obtain ⟨e1, e2, -, e4, -, -, -, e8, -⟩ := drawnClosed_shows s n ns
  obtain ⟨u, hu⟩ : ∃ u, u = (s.rxDrawn n).slotClosed n ns := ⟨_, rfl⟩
  rw [← hu] at e1 e2 e4 e8
  have hrun := reportSlot_none (s := s.rxDrawn n) (n := n) (ns := ns) (.inl (got_rxDrawn.trans hg))
  rw [← hu, state_rxDrawn, if_neg h0] at hrun
  rw [hrun] at ht
  have hi : ImageOf n (u.slotMissed n (s.nodeState n)) t := ht ▸ image_imgPublish (by omega)
  obtain ⟨k1, k2, k3, k4⟩ := slotMissed_shows (s := u) hn (s.nodeState n)
  have hms : u.nodeMiss n = s.nodeMiss n := tfld_of_tbl e1 ..
  refine ⟨hi.state.trans (k1.trans (tfld_of_tbl e1 ..)), hi.reps.trans (k2.trans e2), fun h => ?_, fun h => ?_⟩
  · obtain ⟨m1, m2⟩ := k3 (e4.2 h)
    exact ⟨hi.miss.trans (m1.trans hms), (miss_of_near hi.near).trans (m2.trans e8)⟩
  · obtain ⟨m1, m2⟩ := k4 (fun h' => h (e4.1 h'))
    exact ⟨hi.miss.trans (m1.trans (by rw [hms])), (miss_of_near hi.near).trans (m2.trans (by rw [e8]))⟩

/-- A report slot of a node in INIT. -/
theorem rxclose_init (hn : n < 2048) (h0 : s.nodeState n = 0) (t : State) (ht : t = (s.rxDrawn n).reportSlot n ns) :
    t.nodeState n = 0 ∧ t.nodeMiss n = s.nodeMiss n ∧ t.fld Ctr.SNET_MISS.f = s.fld Ctr.SNET_MISS.f
      ∧ (t.node n).reps = (s.node n).reps.filter (s.slotLater ns) := by
  obtain ⟨e1, e2, -, -, -, -, -, e8, -⟩ := drawnClosed_shows s n ns
  have hrun := reportSlot_none (s := s.rxDrawn n) (n := n) (ns := ns) (.inr (state_rxDrawn.trans h0))
  rw [if_pos (state_rxDrawn.trans h0)] at hrun
  rw [hrun] at ht
  have hi : ImageOf n ((s.rxDrawn n).slotClosed n ns) t := ht ▸ image_imgPublish (by omega)
  exact ⟨hi.state.trans ((tfld_of_tbl e1 ..).trans h0), hi.miss.trans (tfld_of_tbl e1 ..), (miss_of_near hi.near).trans e8, hi.reps.trans e2⟩

end

end Sys2Proof.Machine
end

section
/-! ### The substation network: the command slot (R217, R220, R221, R227) -/

namespace Sys2Proof.Machine

/-! #### The entries of a command -/

section
variable {n ns arg : Nat} {s : State}

theorem mem_onePerKind {es : List QEntry} : ∀ e ∈ onePerKind es, e ∈ es := by
  have hfold : ∀ (l acc : List QEntry), (∀ e ∈ l, e ∈ es) → (∀ e ∈ acc, e ∈ es) →
      ∀ e ∈ l.foldl (fun l e => if l.any (fun x => x.kind == e.kind) then l else l ++ [e]) acc, e ∈ es := fun l => by
    induction l with
    | nil => exact fun _ _ h => h
    | cons x l ih =>
      intro acc hl ha
      refine ih _ (fun e he => hl e (List.mem_cons_of_mem _ he)) fun e he => ?_
      dsimp only at he
      split at he
      · exact ha e he
      · rcases List.mem_append.1 he with he | he
        · exact ha e he
        · exact hl e (List.mem_singleton.1 he ▸ List.mem_cons_self ..)
  refine hfold _ [] (fun e he => ?_) (by simp)
  rcases List.mem_append.1 he with he | he
  · exact (List.mem_filter.1 he).1
  · exact (List.mem_filter.1 he).1

/-- The entries of a command are the node's, not acknowledged; either all are immediate or all are timed. -/
theorem cmdEntries_mem : (∀ e ∈ s.cmdEntries n ns, e ∈ s.qOfNode n ∧ e.acked = false)
    ∧ ((∀ e ∈ s.cmdEntries n ns, e.immed = true) ∨ ∀ e ∈ s.cmdEntries n ns, e.immed = false) := by
  unfold State.cmdEntries
  extract_lets all open_ imm held groupOf
  have hopen : ∀ e ∈ open_, e ∈ s.qOfNode n ∧ e.acked = false := fun e he => by
    obtain ⟨h1, h2⟩ := List.mem_filter.1 he
    exact ⟨h1, by simpa using h2⟩
  have hgroup : ∀ x, ∀ e ∈ groupOf x, e ∈ open_ := fun x e he => (List.mem_filter.1 (mem_onePerKind e he)).1
  split
  · exact ⟨by simp, .inl (by simp)⟩
  · split
    · have himm : ∀ e ∈ onePerKind imm, e ∈ open_ ∧ e.immed = true := fun e he => List.mem_filter.1 (mem_onePerKind e he)
      exact ⟨fun e he => hopen e (himm e he).1, .inl fun e he => (himm e he).2⟩
    · next hno =>
      have htimed : ∀ e ∈ open_, e.immed = false := fun e he => by
        by_contra hc
        have : e ∈ imm := List.mem_filter.2 ⟨he, by simpa using hc⟩
        rw [Bool.not_eq_true, Bool.not_eq_false', List.isEmpty_iff] at hno
        rw [hno] at this
        exact absurd this (by simp)
      have hall : ∀ l : List QEntry, (∀ e ∈ l, e ∈ open_) → (∀ e ∈ l, e ∈ s.qOfNode n ∧ e.acked = false)
          ∧ ((∀ e ∈ l, e.immed = true) ∨ ∀ e ∈ l, e.immed = false) := fun l hl =>
        ⟨fun e he => hopen e (hl e he), .inr fun e he => htimed e (hl e he)⟩
      split
      · exact hall [] (by simp)
      · next e _ =>
        dsimp only
        split
        · exact hall _ (hgroup e)
        · split
          · exact hall [] (by simp)
          · next x _ => exact hall _ fun e' he' => hgroup x e' (List.mem_filter.1 he').1

/-- No entry is late: none is dropped. -/
theorem dropLate_idles (h : ∀ e ∈ s.qOfNode n, e.immed = true ∨ e.acked = true ∨ 0 ≤ s.ltAhead e.sec e.ns ns) : s.dropLate n ns = s := by
  unfold State.dropLate
  extract_lets grace late
  have hnil : late = [] := by
    unfold late
    rw [List.filter_eq_nil_iff]
    intro e he hc
    simp only [Bool.and_eq_true, Bool.not_eq_true', decide_eq_true_eq] at hc
    obtain ⟨⟨h1, h2⟩, h3⟩ := hc
    have hg : 0 ≤ grace := by
      unfold grace
      positivity
    rcases h e he with h' | h' | h'
    · rw [h'] at h1; exact absurd h1 (by decide)
    · rw [h'] at h2; exact absurd h2 (by decide)
    · omega
  rw [hnil]
  rfl

/-! #### Marking the entries that were sent -/

/-- An entry is marked SENT and its sendings counted. -/
def sentMark (late : Bool) (a : State) (e : QEntry) : State :=
  let w := (a.tset 0x1202 e.idx 0 30 1 1).tset 0x1202 e.idx 3 0 8 (min 255 (a.tfld 0x1202 e.idx 3 0 8 + 1))
  if late then (w.tset 0x1202 e.idx 0 28 1 1).bump .SNET_CMD_LATE else w

theorem sentMark_keeps (late : Bool) (a : State) (e : QEntry) :
    (sentMark late a e).snet = a.snet ∧ (sentMark late a e).sent = a.sent ∧ ((sentMark false a e).tfld 0x1202 e.idx 0 30 1 = 1)
      ∧ ∀ i, a.tfld 0x1202 i 0 30 1 = 1 → (sentMark false a e).tfld 0x1202 i 0 30 1 = 1 := by
  unfold sentMark
  extract_lets w
  have hw : w.snet = a.snet ∧ w.sent = a.sent := ⟨by unfold w; rw [snet_tset, snet_tset], by unfold w; rw [sent_tset, sent_tset]⟩
  have hcount : ∀ (b : State) (v : Nat), (b.tset 0x1202 e.idx 3 0 8 v).tfld 0x1202 e.idx 0 30 1 = b.tfld 0x1202 e.idx 0 30 1 := fun b v =>
    tfld_tset_apart (.inl (by decide))
  have hmark : (a.tset 0x1202 e.idx 0 30 1 1).tfld 0x1202 e.idx 0 30 1 = 1 := tfld_tset_self (by decide)
  have hself : w.tfld 0x1202 e.idx 0 30 1 = 1 := (hcount _ _).trans hmark
  refine ⟨?_, ?_, hself, fun i hi => ?_⟩
  · split
    · rw [snet_bump, snet_tset]; exact hw.1
    · exact hw.1
  · split
    · rw [sent_bump, sent_tset]; exact hw.2
    · exact hw.2
  · by_cases h : tkey 0x1202 i 0 = tkey 0x1202 e.idx 0
    · have : i = e.idx := by
        unfold tkey at h
        omega
      subst this
      exact hself
    · have hne : ∀ (b : State) (w lo n v : Nat), tkey 0x1202 i 0 ≠ tkey 0x1202 e.idx w →
          (b.tset 0x1202 e.idx w lo n v).tfld 0x1202 i 0 30 1 = b.tfld 0x1202 i 0 30 1 := fun b w lo n v hk =>
        congrArg (wbits · 30 1) (trd_twr_ne _ _ _ _ _ _ _ _ hk)
      have h3 : tkey 0x1202 i 0 ≠ tkey 0x1202 e.idx 3 := by
        unfold tkey
        omega
      show w.tfld 0x1202 i 0 30 1 = 1
      exact (hne _ 3 0 8 _ h3).trans ((hne _ 0 30 1 _ h).trans hi)

theorem sentMarks_keep (l : List QEntry) (a : State) (late : Bool) :
    (l.foldl (sentMark late) a).snet = a.snet ∧ (l.foldl (sentMark late) a).sent = a.sent := by
  induction l generalizing a with
  | nil => exact ⟨rfl, rfl⟩
  | cons e l ih =>
    obtain ⟨h1, h2, -, -⟩ := sentMark_keeps late a e
    exact ⟨(ih _).1.trans h1, (ih _).2.trans h2⟩

theorem sentMarks_mark (l : List QEntry) (a : State) :
    (∀ e ∈ l, (l.foldl (sentMark false) a).tfld 0x1202 e.idx 0 30 1 = 1)
      ∧ ∀ i, a.tfld 0x1202 i 0 30 1 = 1 → (l.foldl (sentMark false) a).tfld 0x1202 i 0 30 1 = 1 := by
  induction l generalizing a with
  | nil => exact ⟨by simp, fun _ h => h⟩
  | cons e l ih =>
    obtain ⟨-, -, h1, h2⟩ := sentMark_keeps false a e
    obtain ⟨i1, i2⟩ := ih (sentMark false a e)
    refine ⟨fun x hx => ?_, fun i hi => i2 i (h2 i hi)⟩
    rcases List.mem_cons.1 hx with rfl | hx
    · exact i2 _ h1
    · exact i1 x hx

/-! #### The command -/

/-- The SLOT record of a command that announces one. -/
def slotRecs (d : NodeSt) : List (Nat × List Byte) :=
  match d.slotDue, d.repAt with
  | true, some r => [(0x86, beBytes 4 r)]
  | _, _ => []

/-- The message and the marks of a command whose entries are `es`. -/
def State.cmdSent (s : State) (n : Nat) (es : List QEntry) (flags : Nat) (l : Nat × Nat) (late retx : Bool) : State :=
  let s2 := es.foldl (sentMark late) (s.gspSend n 3 flags none l (es.map (fun e => cmdRec e.kind e.vals) ++ slotRecs (s.node n)))
  let s3 := (if retx then (s2.bump .SNET_RETX).nodeCount n 2 else s2).bump .SNET_TX_CMD
  s3.nodeMod n (fun x => { x with cmdSeq := some ((s.node n).txX % 65536), cmdIdx := es.map (·.idx), slotDue := false })

theorem subCmd_eq (s : State) (n ns : Nat) : ∃ es timed l late, es = (s.dropLate n ns).cmdEntries n ns ∧ timed = es.any (fun e => !e.immed)
    ∧ l = (match es.head? with | some e => if e.immed then (0, 0) else (e.sec, e.ns) | none => (0, 0))
    ∧ late = (timed && decide ((s.dropLate n ns).ltAhead l.1 l.2 ns < 0))
    ∧ s.subCmd n ns = (s.dropLate n ns).cmdSent n es (b2n timed + b2n late * 2 + b2n (es.any (·.sent)) * 4) l late (es.any (·.sent)) :=
  ⟨_, _, _, _, rfl, rfl, rfl, rfl, rfl⟩

theorem retx_keeps (s : State) (n : Nat) (retx : Bool) (f : NodeSt → NodeSt) :
    let t := ((if retx then (s.bump .SNET_RETX).nodeCount n 2 else s).bump .SNET_TX_CMD).nodeMod n f
    t.sent = s.sent ∧ t.node n = f (s.node n) ∧ ∀ i, t.tfld 0x1202 i 0 30 1 = s.tfld 0x1202 i 0 30 1 := by
  intro t
  obtain ⟨u, hu⟩ : ∃ u, u = if retx then (s.bump .SNET_RETX).nodeCount n 2 else s := ⟨_, rfl⟩
  have hk : u.sent = s.sent ∧ u.snet = s.snet ∧ ∀ i, u.tfld 0x1202 i 0 30 1 = s.tfld 0x1202 i 0 30 1 := by
    rw [hu]
    cases retx with
    | false => exact ⟨rfl, rfl, fun _ => rfl⟩
    | true =>
      have ho := (nodeCount_keeps (n := n) (w := 2) (Keeps.refl _ (s.bump .SNET_RETX)) (List.Subset.refl _)).only
      refine ⟨(ho .sent (by decide)).trans (sent_bump ..), (ho .snet (by decide)).trans (snet_bump ..), fun i => ?_⟩
      have hne : ∀ w, (w = 2 ∨ w = 4) → tkey 0x1202 i 0 ≠ tkey 0x1203 n w := fun w hw => by
        unfold tkey
        omega
      have htbl : ((s.bump .SNET_RETX).nodeCount n 2).trd 0x1202 i 0 = (s.bump .SNET_RETX).trd 0x1202 i 0 := by
        unfold State.nodeCount
        extract_lets v
        rw [if_neg (by decide)]
        split
        · exact (trd_twr_ne _ _ _ _ _ _ _ _ (hne 4 (.inr rfl))).trans (trd_twr_ne _ _ _ _ _ _ _ _ (hne 2 (.inl rfl)))
        · exact trd_twr_ne _ _ _ _ _ _ _ _ (hne 2 (.inl rfl))
      exact (congrArg (wbits · 30 1) htbl).trans (tfld_of_tbl (tbl_bump ..) ..)
  obtain ⟨h1, h2, h3⟩ := hk
  have ht : t = (u.bump .SNET_TX_CMD).nodeMod n f := by rw [hu]
  rw [ht]
  refine ⟨(sent_nodeMod ..).trans ((sent_bump ..).trans h1), ?_, fun i => ?_⟩
  · rw [node_nodeMod_self, node_of_snet ((snet_bump ..).trans h2)]
  · exact (tfld_of_tbl (tbl_nodeMod ..) ..).trans ((tfld_of_tbl (tbl_bump ..) ..).trans (h3 i))

theorem node_gspSend (s : State) (n typ flags : Nat) (key : Option (Nat × Nat)) (launch : Nat × Nat) (recs : List (Nat × List Byte)) :
    (s.gspSend n typ flags key launch recs).node n = { s.node n with txX := (s.node n).txX + 1 } := by
  unfold State.node
  rw [nodes_gspSend]
  exact node_nodeMod_self

theorem cmdSent_shows (s : State) (n : Nat) (es : List QEntry) (flags : Nat) (l : Nat × Nat) (late retx : Bool) :
    (s.cmdSent n es flags l late retx).sent = (if s.portsSend = true then s.sent
        ++ [.gsp (s.gspMsg n 3 flags none l (es.map (fun e => cmdRec e.kind e.vals) ++ slotRecs (s.node n)))] else s.sent)
      ∧ (s.cmdSent n es flags l late retx).node n = { s.node n with
          txX := (s.node n).txX + 1, cmdSeq := some ((s.node n).txX % 65536),
          cmdIdx := es.map (·.idx), slotDue := false }
      ∧ (late = false → ∀ e ∈ es, (s.cmdSent n es flags l late retx).tfld 0x1202 e.idx 0 30 1 = 1) := by
  unfold State.cmdSent
  extract_lets s2 s3
  obtain ⟨m1, m2⟩ := sentMarks_keep es (s.gspSend n 3 flags none l (es.map (fun e => cmdRec e.kind e.vals) ++ slotRecs (s.node n))) late
  obtain ⟨r1, r2, r3⟩ := retx_keeps s2 n retx (fun x => { x with cmdSeq := some ((s.node n).txX % 65536), cmdIdx := es.map (·.idx), slotDue := false })
  refine ⟨r1.trans (m2.trans (sent_gspSend ..)), r2.trans ?_, fun hl e he => (r3 e.idx).trans ?_⟩
  · rw [node_of_snet (s := s.gspSend n 3 flags none l (es.map (fun e => cmdRec e.kind e.vals) ++ slotRecs (s.node n))) m1, node_gspSend]
  · subst hl
    exact (sentMarks_mark es _).1 e he

/-- Dropping late entries changes of a node its steady setpoints and the records of its last command alone. -/
theorem queued_dropLate (s : State) (n ns : Nat) : Queued s (s.dropLate n ns) := by
  unfold State.dropLate
  extract_lets grace late
  refine queued_foldl (.refl s) fun a e => ?_
  have h1 : Queued a ((a.qFree e ns).bump .SNET_CMD_MISSED) := (queued_qFree a e ns).trans
    (queued_of_snet (near_bump (Near.refl _ _ _) (.inr (.inr (.inr (.inr (.inr rfl))))) (.inr (.inr (.inr (.inl rfl))))) (congrArg SnetSt.nodes (snet_bump ..)))
  have h2 : Queued a (((a.qFree e ns).bump .SNET_CMD_MISSED).raiseEv 0x12 7) := h1.trans
    (queued_of_snet (near_raiseEv (Near.refl _ _ _) (by decide) (fun _ h => .inr (.inr (.inr (.inr (.inl h))))) fun _ => .inl)
      (congrArg SnetSt.nodes (raiseEv_only _ _ _ .snet (by decide))))
  exact queued_ite h2 (h2.trans (queued_enqueue ..))

theorem sent_dropLate (s : State) (n ns : Nat) : (s.dropLate n ns).sent = s.sent :=
  (dropLate_keeps (Keeps.refl _ s) (List.Subset.refl _)).only .sent (by decide)

/-- A SUB_CMD none of whose entries is late. -/
theorem subCmd_shows (h : ∀ e ∈ s.qOfNode n, e.immed = true ∨ e.acked = true ∨ 0 ≤ s.ltAhead e.sec e.ns ns) : ∃ m,
    (s.subCmd n ns).sent = (if s.portsSend = true then s.sent ++ [.gsp m] else s.sent)
      ∧ m.typ = 3 ∧ m.node = n ∧ m.seq = (s.node n).txX % 65536 ∧ m.ports = s.sendPorts ∧ m.gen = s.groupGen (s.nodeGroup n)
      ∧ m.flags = b2n ((s.cmdEntries n ns).any (fun e => !e.immed)) + b2n ((s.cmdEntries n ns).any (·.sent)) * 4
      ∧ m.recs = (s.cmdEntries n ns).map (fun e => cmdRec e.kind e.vals) ++ slotRecs (s.node n)
      ∧ (∀ e ∈ s.cmdEntries n ns, (s.subCmd n ns).tfld 0x1202 e.idx 0 30 1 = 1)
      ∧ ((s.subCmd n ns).node n).txCyc = (s.node n).txCyc ∧ ((s.subCmd n ns).node n).txX = (s.node n).txX + 1 := by
  obtain ⟨es, timed, l, late, he, ht, hl, hlate, heq⟩ := subCmd_eq s n ns
  rw [dropLate_idles h] at he hlate heq
  obtain ⟨hmem, hkind⟩ := cmdEntries_mem (s := s) (n := n) (ns := ns)
  rw [← he] at hmem hkind
  have hno : late = false := by
    rw [hlate]
    rcases hkind with hk | hk
    · have : timed = false := by
        rw [ht, List.any_eq_false]
        intro e hx
        simp [hk e hx]
      rw [this]
      rfl
    · cases es with
      | nil => rw [ht]; rfl
      | cons e rest =>
        have hx := hk e (List.mem_cons_self ..)
        obtain ⟨hq, hack⟩ := hmem e (List.mem_cons_self ..)
        have ha := h e hq
        rw [hx, hack] at ha
        have hge : 0 ≤ s.ltAhead e.sec e.ns ns := by simpa using ha
        have hl' : l = (e.sec, e.ns) := by
          rw [hl]
          show (if e.immed = true then ((0, 0) : Nat × Nat) else (e.sec, e.ns)) = _
          rw [hx]
          rfl
        rw [hl']
        simp only [Bool.and_eq_false_iff, decide_eq_false_iff_not, not_lt]
        exact .inr hge
  obtain ⟨k1, k2, k3⟩ := cmdSent_shows s n es (b2n timed + b2n late * 2 + b2n (es.any (·.sent)) * 4) l late (es.any (·.sent))
  rw [← heq] at k1 k2 k3
  rw [← he]
  refine ⟨_, k1, rfl, rfl, rfl, rfl, rfl, ?_, rfl, k3 hno, by rw [k2], by rw [k2]⟩
  show b2n timed + b2n late * 2 + _ = _
  rw [hno, ht]
  rfl

/-- A SUB_CMD sends at most itself, and keeps the answer that its node waits for. -/
theorem subCmd_sends (s : State) (n ns : Nat) : (∃ rest, (s.subCmd n ns).sent = s.sent ++ rest) ∧ ((s.subCmd n ns).node n).hello = (s.node n).hello := by
  obtain ⟨es, timed, l, late, -, -, -, -, heq⟩ := subCmd_eq s n ns
  obtain ⟨k1, k2, -⟩ := cmdSent_shows (s.dropLate n ns) n es (b2n timed + b2n late * 2 + b2n (es.any (·.sent)) * 4) l late (es.any (·.sent))
  rw [← heq, sent_dropLate] at k1
  rw [← heq] at k2
  obtain ⟨st, ci, e⟩ := (queued_dropLate s n ns).node n
  refine ⟨?_, by rw [k2, e]⟩
  split at k1
  · exact ⟨_, k1⟩
  · exact ⟨[], k1.trans (List.append_nil _).symm⟩

end

end Sys2Proof.Machine
end

section
/-! ### The substation network: slots send and report periods close -/

namespace Sys2Proof.Machine

section
variable {n ns arg : Nat} {s : State}

/-- The command slot of node `n` is drawn for the running cycle. -/
def State.txDrawn (s : State) (n : Nat) : State := (s.begun 0x0A).nodeMod n (fun d => { d with txCyc := some s.snet.cyc })

theorem gspTx_runs (h : s.takes 0x40 0x0A (fun e => e.has arg && e.begunAt ns)) (hi : s.entryIdx arg 0 11 = some n) (hd : s.nodeDef n = true) :
    exec (.gspTx arg ns) s = .next (if (s.node n).txCyc = some s.snet.cyc then s.begun 0x0A
      else if (s.bit (bitAt 0x12040 1) && s.gspOpen) = true then (s.txDrawn n).commandSlot n ns else s.txDrawn n) := by
  refine next_congr ?_
  rw [entry_takes h]
  have hi' : (s.begun 0x0A).entryIdx arg 0 11 = some n := hi
  have hd' : (s.begun 0x0A).nodeDef n = true := hd
  rw [hi']
  dsimp only
  rw [hd']
  by_cases hc : (s.node n).txCyc = some s.snet.cyc
  · rw [if_pos hc]
    refine if_pos ?_
    have hb : ((s.begun 0x0A).node n).txCyc = some (s.begun 0x0A).snet.cyc := hc
    rw [hb]
    simp
  · rw [if_neg hc]
    refine (if_neg ?_).trans ?_
    · have hb : ¬ ((s.begun 0x0A).node n).txCyc = some (s.begun 0x0A).snet.cyc := hc
      simpa using hb
    · rfl

theorem node_txDrawn : (s.txDrawn n).node n = { s.node n with txCyc := some s.snet.cyc } := node_nodeMod_self

theorem tbl_txDrawn : (s.txDrawn n).tbl = s.tbl := tbl_nodeMod ..

theorem sent_txDrawn : (s.txDrawn n).sent = s.sent := sent_nodeMod ..

theorem regs_txDrawn : (s.txDrawn n).regs = s.regs := regs_nodeMod ..

theorem state_txDrawn : (s.txDrawn n).nodeState n = s.nodeState n := tfld_of_tbl tbl_txDrawn ..

/-! What a node's slot reads stands when the slot is drawn. -/

theorem group_txDrawn : (s.txDrawn n).nodeGroup n = s.nodeGroup n := rfl

theorem ok_txDrawn (g : Nat) : (s.txDrawn n).groupOk g = s.groupOk g := rfl

theorem queue_txDrawn : (s.txDrawn n).qOfNode n = s.qOfNode n := rfl

theorem entries_txDrawn : (s.txDrawn n).cmdEntries n ns = s.cmdEntries n ns := by
  have hp : (s.txDrawn n).qPassed = s.qPassed := rfl
  have hf : (s.txDrawn n).fld = s.fld := rfl
  unfold State.cmdEntries
  rw [queue_txDrawn, state_txDrawn, hp, hf]

/-- The slot of an ADMITTED node without an answer or a rekey that waits. -/
theorem commandSlot_admitted {v : State} (h2 : v.nodeState n = 2) (hh : (v.node n).hello = none) (hr : v.rekeyOf (v.nodeGroup n) = none)
    (hg : v.groupOk (v.nodeGroup n) = true) : v.commandSlot n ns = v.subCmd n ns := by
  have hc : v.ctrlMsg n ns = v := by
    unfold State.ctrlMsg
    dsimp only
    rw [hh]
    dsimp only
    rw [if_neg (by omega), if_neg (fun h => absurd h.1 (by omega)), hr]
  unfold State.commandSlot
  rw [hc]
  refine if_neg ?_
  rw [hg, h2]
  decide

/-- A SUB_HELLO answered at `v`: the answer, and the node's QUARANTINE where it is admitted. -/
def State.helloAnswered (v : State) (n ns : Nat) (h : Hello) : State :=
  let b := (v.gspSend n 4 0 none (v.instant ns)
    [(0xC1, beBytes 1 (v.admitResult n h) ++ beBytes 4 ((v.node n).repAt.getD 0) ++ beBytes 4 ((v.node n).cmdAt.getD 0))]).nodeMod n
      (fun d => { d with hello := none })
  if v.admitResult n h = 0 then b.nodeQuarantine n else b

theorem helloAnswered_shows {v : State} {h : Hello} (hp : v.portsSend = true) : ((v.helloAnswered n ns h).node n).hello = none
    ∧ ∃ m, (v.helloAnswered n ns h).sent = v.sent ++ [.gsp m] ∧ m.typ = 4 ∧ m.node = n
      ∧ m.recs = [(0xC1, beBytes 1 (v.admitResult n h) ++ beBytes 4 ((v.node n).repAt.getD 0) ++ beBytes 4 ((v.node n).cmdAt.getD 0))] := by
  unfold State.helloAnswered
  extract_lets b
  have hb : (b.node n).hello = none := by
    unfold b
    rw [node_nodeMod_self]
  obtain ⟨m, hm⟩ : ∃ m, m = v.gspMsg n 4 0 none (v.instant ns)
      [(0xC1, beBytes 1 (v.admitResult n h) ++ beBytes 4 ((v.node n).repAt.getD 0) ++ beBytes 4 ((v.node n).cmdAt.getD 0))] := ⟨_, rfl⟩
  have hs : b.sent = v.sent ++ [.gsp m] := hm ▸
    (sent_nodeMod ..).trans ((sent_gspSend ..).trans (if_pos hp))
  split
  · refine ⟨by rw [node_nodeQuarantine]; exact hb, m, ?_, by rw [hm]; rfl, by rw [hm]; rfl, by rw [hm]; rfl⟩
    exact ((nodeQuarantine_keeps (Keeps.refl _ b) (List.Subset.refl _)).only .sent (by decide)).trans hs
  · exact ⟨hb, m, hs, by rw [hm]; rfl, by rw [hm]; rfl, by rw [hm]; rfl⟩

theorem commandSlot_answers {v : State} {h : Hello} (hh : (v.node n).hello = some h) (hg : v.groupOk (v.nodeGroup n) = true) :
    v.commandSlot n ns = v.helloAnswered n ns h ∨ v.commandSlot n ns = (v.helloAnswered n ns h).subCmd n ns := by
  have hc : v.ctrlMsg n ns = v.helloAnswered n ns h := by
    unfold State.ctrlMsg
    dsimp only
    rw [hh]
    dsimp only
    rw [if_neg (by rw [hg]; decide)]
    rfl
  unfold State.commandSlot
  rw [hc]
  dsimp only
  split
  · exact .inl rfl
  · exact .inr rfl

end

/-- The first half of O38: a command slot. -/
theorem slots_send (arg ns n : Nat) (s : State) (h : s.takes 0x40 0x0A (fun e => e.has arg && e.begunAt ns)) (hi : s.entryIdx arg 0 11 = some n)
    (hd : s.nodeDef n = true) (hc : (s.node n).txCyc ≠ some s.snet.cyc) (hen : s.bit (bitAt 0x12040 1) = true) (hopen : s.gspOpen = true) :
    exec (.gspTx arg ns) s = .next ((s.txDrawn n).commandSlot n ns) := by
  refine (gspTx_runs h hi hd).trans (next_congr ((if_neg hc).trans (if_pos ?_)))
  rw [hen, hopen]
  rfl

/-- Settles O38: the command slot by its control message and its command, the report slot by the report that it takes. -/
theorem slotsSendAndCloseReports : Obligations.SlotsSendAndCloseReports := by
  unfold Obligations.SlotsSendAndCloseReports
  refine ⟨fun arg ns n s h hi hd => ⟨fun hc hen hopen hg h2 hh hr hq => ?_, fun hl hc hen hopen hp hg hh => ?_, fun hc => ?_, fun hc hoff => ?_⟩,
    fun arg ns n s h hi hd => ?_⟩
  · have hrun := slots_send arg ns n s h hi hd hc hen hopen
    rw [commandSlot_admitted (state_txDrawn.trans h2) (by rw [node_txDrawn]; exact hh) hr hg] at hrun
    obtain ⟨m, k1, k2, k3, k4, k5, k6, k7, k8, k9, k10, k11⟩ := subCmd_shows (s := s.txDrawn n) (n := n) (ns := ns) hq
    rw [node_txDrawn] at k4 k8 k10 k11
    rw [portsSend_of_regs regs_txDrawn, sent_txDrawn] at k1
    rw [entries_txDrawn] at k7 k8 k9
    have hports : (s.txDrawn n).sendPorts = s.sendPorts := rfl
    have hgen : (s.txDrawn n).groupGen (s.nodeGroup n) = s.groupGen (s.nodeGroup n) := rfl
    rw [hports] at k5
    rw [group_txDrawn, hgen] at k6
    refine runs_intro hrun ⟨fun hp => ?_, fun hp => ⟨m, slotRecs (s.node n), ?_, k2, k3, k4, k5, k6, k7, k8, fun hd => ?_, fun r hd hr => ?_⟩, k9, k10, k11⟩
    · rw [hp] at k1
      exact k1
    · rw [hp] at k1
      exact k1
    · unfold slotRecs
      rw [hd]
    · unfold slotRecs
      rw [hd, hr]
  · have hrun := slots_send arg ns n s h hi hd hc hen hopen
    obtain ⟨a1, m, a2, a3, a4, a5⟩ := helloAnswered_shows (v := s.txDrawn n) (n := n) (ns := ns) (h := hl) ((portsSend_of_regs regs_txDrawn).trans hp)
    rw [sent_txDrawn] at a2
    have hres : (s.txDrawn n).admitResult n hl = s.admitResult n hl := by
      unfold State.admitResult
      rw [node_txDrawn]
      rfl
    rw [hres, node_txDrawn] at a5
    rcases commandSlot_answers (v := s.txDrawn n) (n := n) (ns := ns) (h := hl) (by rw [node_txDrawn]; exact hh) hg with he | he
    · rw [he] at hrun
      exact runs_intro hrun ⟨a1, m, [], a2, a3, a4, a5⟩
    · rw [he] at hrun
      obtain ⟨⟨rest, b1⟩, b2⟩ := subCmd_sends ((s.txDrawn n).helloAnswered n ns hl) n ns
      exact runs_intro hrun ⟨b2.trans a1, m, rest, b1.trans (by rw [a2, List.append_assoc]; rfl), a3, a4, a5⟩
  · exact runs_intro ((gspTx_runs h hi hd).trans (next_congr (if_pos hc))) ⟨rfl, rfl, rfl⟩
  · refine runs_intro ((gspTx_runs h hi hd).trans (next_congr ((if_neg hc).trans (if_neg ?_)))) ⟨sent_txDrawn, tbl_txDrawn, by rw [node_txDrawn]⟩
    rcases hoff with h | h <;> simp [h]
  · intro now later win got grace
    have hn : n < 2048 := by
      unfold State.nodeDef at hd
      simp only [Bool.and_eq_true, decide_eq_true_eq] at hd
      exact hd.1
    have hrun := gspRxclose_runs h hi hd
    have hdraw : ∀ hc : (s.node n).rxCyc ≠ some s.snet.cyc, exec (.gspRxclose arg ns) s = .next ((s.rxDrawn n).reportSlot n ns) := fun hc =>
      hrun.trans (next_congr (if_neg hc))
    refine ⟨fun hc => runs_intro (hrun.trans (next_congr (if_pos hc))) ⟨rfl, rfl, rfl⟩, fun r hc hg => ?_, fun hc hg h0 => ?_, fun hc h0 => ?_⟩
    · exact runs_intro (hdraw hc) (rxclose_takes hn hg _ rfl)
    · exact runs_intro (hdraw hc) (rxclose_misses hn hg h0 _ rfl)
    · exact runs_intro (hdraw hc) (rxclose_init hn h0 _ rfl)

end Sys2Proof.Machine
end

section
/-! ### The substation network: nodes change state (R223 to R237) -/

namespace Sys2Proof.Machine

section
variable {n : Nat} {s : State}

/-- A node's new state, and nothing else of it. -/
theorem setNodeState_shows (s : State) (n v : Nat) (hv : v < 8) :
    (s.setNodeState n v).nodeState n = v ∧ (s.setNodeState n v).nodeMiss n = s.nodeMiss n
      ∧ ∀ k, k < 2048 → k ≠ n → (s.setNodeState n v).nodeState k = s.nodeState k := by
  refine ⟨(tfld_tset_self (by decide)).trans (Nat.mod_eq_of_lt hv), tfld_tset_apart (.inr (.inl (by decide))), fun k _ hk =>
    congrArg (wbits · 0 3) (trd_twr_ne _ _ _ _ _ _ _ _ ?_)⟩
  unfold tkey
  omega

theorem nodeSilent_runs (hn : n < 2048) (hd : s.nodeDef n = true)
    (ho : s.nodeState n = 2 ∨ (s.nodeState n = 1 ∧ s.bit (grpRev (s.nodeGroup n)) = true)) (hm : 3 ≤ s.nodeMiss n) :
    runs (.nodeSilent n) s (fun t => t.nodeState n = 3 ∧ t.nodeMiss n = s.nodeMiss n ∧ ∀ k, k < 2048 → k ≠ n → t.nodeState k = s.nodeState k) := by
  obtain ⟨e1, e2, e3⟩ := setNodeState_shows s n 3 (by decide)
  have hi : ImageOf n (s.setNodeState n 3) ((((s.setNodeState n 3).nodeCount n 3).imgSubst n).imgPublish n) :=
    ((image_nodeCount (by omega) 3).trans image_imgSubst).trans (image_imgPublish (by omega))
  refine runs_intro (next_congr (if_pos ?_)) ⟨hi.state.trans e1, hi.miss.trans e2, fun k hk hne => (hi.others k hk hne).trans (e3 k hk hne)⟩
  rw [hd]
  rcases ho with h | ⟨h1, h2⟩
  · simp [h, hm]
  · simp [h1, h2, hm]

theorem nodeSilent_idles (h : s.nodeDef n = false ∨ ¬ (s.nodeState n = 2 ∨ (s.nodeState n = 1 ∧ s.bit (grpRev (s.nodeGroup n)) = true))
    ∨ s.nodeMiss n < 3) : exec (.nodeSilent n) s = .next s := by
  refine next_congr (if_neg ?_)
  simp only [Bool.and_eq_true, Bool.or_eq_true, beq_iff_eq, decide_eq_true_eq]
  rintro ⟨⟨h1, h2⟩, h3⟩
  rcases h with h | h | h
  · rw [h] at h1; exact absurd h1 (by decide)
  · exact h h2
  · omega

theorem nodeLost_runs (hn : n < 2048) (hd : s.nodeDef n = true) (h3 : s.nodeState n = 3) (hm : 50 ≤ s.nodeMiss n) :
    runs (.nodeLost n) s (fun t => t.nodeState n = 4 ∧ t.fld Ctr.SNET_LOST.f = min (2 ^ 32 - 1) (s.fld Ctr.SNET_LOST.f + 1)) := by
  obtain ⟨e1, -, -⟩ := setNodeState_shows s n 4 (by decide)
  obtain ⟨u, hu⟩ : ∃ u, u = (s.setNodeState n 4).bump .SNET_LOST := ⟨_, rfl⟩
  have hst : u.nodeState n = 4 := hu ▸ (tfld_of_tbl (tbl_bump ..) ..).trans e1
  have hct : u.fld Ctr.SNET_LOST.f = min (2 ^ 32 - 1) (s.fld Ctr.SNET_LOST.f + 1) := by
    rw [hu]
    refine (fld_bump_stays rfl (by decide) (.inl (by decide))).trans ?_
    exact congrArg (fun v => min (2 ^ 32 - 1) (v + 1)) (fld_tset ..)
  have hp : ImageOf n u (u.lostPrune n) := by
    unfold State.lostPrune
    extract_lets es beaten
    exact image_foldl (.refl n u) fun a e _ => image_queued (queued_qFree a e 0) hn
  have hi : ImageOf n u ((u.lostPrune n).imgPublish n) := hp.trans (image_imgPublish (by omega))
  refine runs_intro (next_congr ((if_pos ?_).trans (by rw [← hu]))) ⟨hi.state.trans hst, ?_⟩
  · rw [hd, h3]
    simp [hm]
  · exact (fld_of_rd (f := ⟨0x120EC, 0, 32⟩) (hi.near.regs _ (by unfold offSlot; decide))).trans hct

theorem nodeLost_idles (h : s.nodeDef n = false ∨ s.nodeState n ≠ 3 ∨ s.nodeMiss n < 50) : exec (.nodeLost n) s = .next s := by
  refine next_congr (if_neg ?_)
  simp only [Bool.and_eq_true, beq_iff_eq, decide_eq_true_eq]
  rintro ⟨⟨h1, h2⟩, h3⟩
  rcases h with h | h | h
  · rw [h] at h1; exact absurd h1 (by decide)
  · exact h h2
  · omega

/-! #### The queue -/

/-- The records in use once those of some indices are cleared. -/
theorem mem_qUsed_tclear {p : Nat → Bool} {j : Nat} : j ∈ (s.tclear 0x1202 p).qUsed ↔ j ∈ s.qUsed ∧ p j = false := by
  unfold State.qUsed State.tclear smFilter
  simp only [List.mem_map, List.mem_filter, Bool.and_eq_true, beq_iff_eq, Bool.not_eq_true', Bool.and_eq_false_iff, beq_eq_false_iff_ne]
  constructor
  · rintro ⟨e, ⟨⟨h1, h2⟩, ⟨h3, h4⟩, h5⟩, rfl⟩
    exact ⟨⟨e, ⟨h1, ⟨h3, h4⟩, h5⟩, rfl⟩, h2.resolve_left (fun h => h h3)⟩
  · rintro ⟨⟨e, ⟨h1, ⟨h3, h4⟩, h5⟩, rfl⟩, hp⟩
    exact ⟨e, ⟨⟨h1, .inr hp⟩, ⟨h3, h4⟩, h5⟩, rfl⟩

theorem qUsed_of_tbl {t : State} (h : t.tbl = s.tbl) : t.qUsed = s.qUsed := by
  unfold State.qUsed
  rw [h]

theorem qAt_of_tbl {t : State} (h : t.tbl = s.tbl) (i : Nat) : t.qAt i = s.qAt i := by
  unfold State.qAt
  simp only [trd_of_tbl h]

theorem tbl_qUse (s : State) : s.qUse.tbl = s.tbl := by
  unfold State.qUse
  simp only [tbl_setB, tbl_setF]

theorem snet_qUse (s : State) : s.qUse.snet = s.snet := by
  unfold State.qUse
  simp only [snet_setB, snet_setF]

theorem tbl_steadySet (s : State) (n : Nat) (v : Steady) : (s.steadySet n v).tbl = s.tbl := tbl_nodeMod ..

/-- A value stands among a node's steady setpoints once it is set. -/
theorem steadySet_stands (s : State) (n : Nat) (v : Steady) : ∃ x ∈ ((s.steadySet n v).node n).steady, x.kind = v.kind := by
  unfold State.steadySet
  rw [node_nodeMod_self]
  split
  · exact ⟨v, by simp, rfl⟩
  · next o ho =>
    have hok : o.kind = v.kind := by simpa using List.find?_some ho
    have hom : o ∈ (s.node n).steady := List.mem_of_find?_eq_some ho
    split
    · exact ⟨v, List.mem_map.2 ⟨o, hom, if_pos hok⟩, rfl⟩
    · exact ⟨o, hom, hok⟩

theorem launchQueueExpire_runs {i ns : Nat} (hu : i ∈ s.qUsed) (ha : (s.qAt i).acked = true) (hi : (s.qAt i).immed = false)
    (hl : s.ltAhead (s.qAt i).sec (s.qAt i).ns ns ≤ 0) :
    runs (.launchQueueExpire i ns) s (fun t => i ∉ t.qUsed ∧ (∀ j, j ≠ i → (j ∈ t.qUsed ↔ j ∈ s.qUsed))
      ∧ ∃ v ∈ (t.node (s.qAt i).node).steady, v.kind = (s.qAt i).kind) := by
  obtain ⟨e, he⟩ : ∃ e, e = s.qAt i := ⟨_, rfl⟩
  have hpass : s.qPassed e ns = true := by
    unfold State.qPassed
    rw [he, decide_eq_true hl, Bool.or_true]
  have hidx : e.idx = i := he ▸ rfl
  have hrun : exec (.launchQueueExpire i ns) s = .next (s.qFree e ns) := next_congr (by
    rw [← he]
    refine if_pos ?_
    rw [hpass, he, ha, hi, List.contains_iff_mem.2 hu]
    rfl)
  have hused : ∀ j, j ∈ (s.qFree e ns).qUsed ↔ j ∈ s.qUsed ∧ (j == i) = false := fun j => by
    unfold State.qFree
    extract_lets s1 s2
    have h1 : s1.tbl = s.tbl := by
      unfold s1
      split
      · exact tbl_steadySet ..
      · rfl
    rw [qUsed_of_tbl ((tbl_qUse _).trans (tbl_nodeMod ..)), mem_qUsed_tclear, qUsed_of_tbl h1, hidx]
  refine runs_intro hrun ⟨fun h => ?_, fun j hj => ?_, ?_⟩
  · have := ((hused i).1 h).2
    simp at this
  · rw [hused]
    simp [hj]
  · rw [← he]
    unfold State.qFree
    extract_lets s1 s2
    have e1 : s1 = s.steadySet e.node ⟨e.kind, e.sec, e.ns, e.vals⟩ := if_pos (by rw [hpass, he, hi]; rfl)
    have e2 : s2.node e.node = s1.node e.node := node_of_snet rfl _
    rw [node_of_snet (snet_qUse _), node_nodeMod_self, e2, e1]
    exact steadySet_stands s e.node ⟨e.kind, e.sec, e.ns, e.vals⟩

theorem launchQueueExpire_idles {i ns : Nat} (h : (s.qAt i).acked = false ∨ 0 < s.ltAhead (s.qAt i).sec (s.qAt i).ns ns ∨ i ∉ s.qUsed
    ∨ (s.qAt i).immed = true) : exec (.launchQueueExpire i ns) s = .next s := by
  refine next_congr (if_neg ?_)
  intro hc
  simp only [Bool.and_eq_true, Bool.not_eq_true', List.contains_iff_mem] at hc
  obtain ⟨⟨⟨h1, h2⟩, h3⟩, h4⟩ := hc
  rcases h with h | h | h | h
  · rw [h] at h2; exact absurd h2 (by decide)
  · unfold State.qPassed at h4
    rw [h3, Bool.false_or, decide_eq_true_eq] at h4
    omega
  · exact h h1
  · rw [h] at h3; exact absurd h3 (by decide)

/-! #### Commands -/

theorem nodeAccept_runs (hn : n < 2048) (hf : s.fld ⟨0x12048, 0, 11⟩ = n) (hb : s.tfld 0x1201 n 0 18 1 = 1) :
    runs .nodeAccept s (fun t => t.tfld 0x1201 n 0 18 1 = 0 ∧ (t.node n).stateOk = true ∧ (t.node n).needState = false
      ∧ (t.node n).base = (s.node n).pend.getD (s.node n).base) := by
  obtain ⟨u, hu⟩ : ∃ u, u = s.nodeMod n (fun d => { d with base := d.pend.getD d.base }) := ⟨_, rfl⟩
  obtain ⟨e1, e2, e3, e4⟩ := stateAccept_shows (u.imgFlag n 18 false) 0 hn
  refine runs_intro (t := (u.imgFlag n 18 false).stateAccept n 0) (next_congr ?_) ⟨?_, e2, e1, e3.trans ?_⟩
  · unfold nodeAcceptCmd
    extract_lets m s1
    have hm : m = n := hf
    rw [if_neg (by rw [hm, hb]; decide)]
    show s1.stateAccept m 0 = _
    unfold s1
    rw [hm, hu]
  · exact (congrArg (wbits · 18 1) e4).trans (tfld_imgFlag u n 18 false (by decide))
  · rw [State.imgFlag, node_of_snet (snet_tset ..), hu, node_nodeMod_self]

theorem nodeAccept_refuses (hf : s.fld ⟨0x12048, 0, 11⟩ = n) (hb : s.tfld 0x1201 n 0 18 1 = 0) : exec .nodeAccept s = .next s := by
  refine next_congr ?_
  unfold nodeAcceptCmd
  extract_lets m s1
  have hm : m = n := hf
  rw [if_pos (by rw [hm]; exact hb)]

/-- Words of other tables and records stand when records of the queue are cleared. -/
theorem trd_tclear_keeps {p : Nat → Bool} {tid i w : Nat} (h : tkeyTid (tkey tid i w) ≠ 0x1202 ∨ p (tkeyIdx (tkey tid i w)) = false) :
    (s.tclear 0x1202 p).trd tid i w = s.trd tid i w := by
  unfold State.trd State.tclear
  rw [smGet_filter]
  refine if_pos ?_
  rcases h with h | h
  · simp [h]
  · simp [h]

/-- Clearing the records of a list of entries. -/
def clearEntries (l : List QEntry) (s : State) : State := l.foldl (fun a e => a.tclear 0x1202 (· == e.idx)) s

theorem mem_qUsed_clearEntries (l : List QEntry) (s : State) {j : Nat} :
    j ∈ (clearEntries l s).qUsed ↔ j ∈ s.qUsed ∧ ∀ e ∈ l, j ≠ e.idx := by
  induction l generalizing s with
  | nil => simp [clearEntries]
  | cons e l ih =>
    have h := ih (s.tclear 0x1202 (· == e.idx))
    rw [mem_qUsed_tclear] at h
    show j ∈ (clearEntries l (s.tclear 0x1202 (· == e.idx))).qUsed ↔ _
    rw [h]
    simp only [beq_eq_false_iff_ne, ne_eq, List.mem_cons, forall_eq_or_imp, and_assoc]

theorem trd_clearEntries (l : List QEntry) (s : State) {tid i w : Nat}
    (h : tkeyTid (tkey tid i w) ≠ 0x1202 ∨ ∀ e ∈ l, tkeyIdx (tkey tid i w) ≠ e.idx) : (clearEntries l s).trd tid i w = s.trd tid i w := by
  induction l generalizing s with
  | nil => rfl
  | cons e l ih =>
    refine (ih (s.tclear 0x1202 (· == e.idx)) (h.imp id fun h x hx => h x (List.mem_cons_of_mem _ hx))).trans ?_
    exact trd_tclear_keeps (h.imp id fun h => by simpa using h e (List.mem_cons_self ..))

theorem qUsed_lt {j : Nat} (h : j ∈ s.qUsed) : j < 2 ^ 24 := by
  unfold State.qUsed at h
  obtain ⟨e, -, rfl⟩ := List.mem_map.1 h
  unfold tkeyIdx
  omega

/-- A node whose records are cleared has none. -/
theorem qOfNode_clearEntries (s : State) (n : Nat) : (clearEntries (s.qOfNode n) s).qOfNode n = [] := by
  obtain ⟨t, ht⟩ : ∃ t, t = clearEntries (s.qOfNode n) s := ⟨_, rfl⟩
  rw [← ht]
  unfold State.qOfNode
  rw [List.filter_eq_nil_iff]
  intro e he
  obtain ⟨j, hj, rfl⟩ := List.mem_map.1 he
  rw [ht, mem_qUsed_clearEntries] at hj
  obtain ⟨hj, hne⟩ := hj
  have hlt := qUsed_lt hj
  have hword : t.trd 0x1202 j 0 = s.trd 0x1202 j 0 := by
    rw [ht]
    refine trd_clearEntries _ _ (.inr fun e he => ?_)
    rw [show tkeyIdx (tkey 0x1202 j 0) = j by unfold tkeyIdx tkey; omega]
    exact hne e he
  have hnode : (t.qAt j).node = (s.qAt j).node := congrArg (wbits · 0 11) hword
  rw [hnode]
  intro hn
  exact hne (s.qAt j) (List.mem_filter.2 ⟨List.mem_map.2 ⟨j, hj, rfl⟩, hn⟩) rfl

theorem tbl_steadyNow (s : State) (n off : Nat) : (s.steadyNow n off).tbl = s.tbl := by
  have h : ∀ (l : List QEntry) (u : State), (l.foldl (fun a e => a.steadySet n ⟨e.kind, e.sec, e.ns, e.vals⟩) u).tbl = u.tbl := fun l => by
    induction l with
    | nil => exact fun _ => rfl
    | cons e l ih => exact fun u => (ih _).trans (tbl_steadySet ..)
  exact h _ s

theorem qOfNode_of_tbl {t : State} (h : t.tbl = s.tbl) (n : Nat) : t.qOfNode n = s.qOfNode n := by
  unfold State.qOfNode
  rw [qUsed_of_tbl h]
  simp only [qAt_of_tbl h]

theorem tbl_qDiscard (s : State) (n : Nat) : (s.qDiscard n).tbl = (clearEntries (s.qOfNode n) (s.steadyNow n 0)).tbl := by
  unfold State.qDiscard
  rw [tbl_qUse, tbl_nodeMod]
  rfl

theorem nodeInit_shows (s : State) {n : Nat} (hn : n < 2048) : (s.nodeInit n).nodeState n = 0 ∧ (s.nodeInit n).qOfNode n = []
    ∧ ((s.nodeInit n).node n).hello = none ∧ ((s.nodeInit n).node n).stateOk = false
    ∧ ∀ k, k < 2048 → k ≠ n → (s.nodeInit n).nodeState k = s.nodeState k := by
  unfold State.nodeInit
  extract_lets s1
  obtain ⟨u, hu⟩ : ∃ u, u = (s.setNodeState n 0).imgFlag n 18 false := ⟨_, rfl⟩
  obtain ⟨e1, -, e3⟩ := setNodeState_shows s n 0 (by decide)
  have hs1 : s1 = u.qDiscard n := by rw [hu]
  have htbl : s1.tbl = (clearEntries (u.qOfNode n) (u.steadyNow n 0)).tbl := by rw [hs1, tbl_qDiscard]
  have hst : ∀ k, k < 2048 → s1.nodeState k = u.nodeState k := fun k hk => by
    refine congrArg (wbits · 0 3) ((trd_of_tbl htbl ..).trans ((trd_clearEntries _ _ (.inl ?_)).trans (trd_of_tbl (tbl_steadyNow ..) ..)))
    rw [tkeyTid_tkey _ _ _ (by omega) (by decide)]
    decide
  have hflag : ∀ k, u.nodeState k = (s.setNodeState n 0).nodeState k := fun k => by
    rw [hu]
    by_cases hk : k = n
    · rw [hk]
      exact tfld_tset_apart (.inr (.inr (by decide)))
    · exact congrArg (wbits · 0 3) (trd_twr_ne _ _ _ _ _ _ _ _ (by
        unfold tkey
        omega))
  refine ⟨?_, ?_, by rw [node_nodeMod_self], by rw [node_nodeMod_self], fun k hk hne => ?_⟩
  · rw [nodeState_nodeMod, hst n hn, hflag]
    exact e1
  · rw [qOfNode_of_tbl (tbl_nodeMod ..), qOfNode_of_tbl htbl, ← qOfNode_of_tbl (tbl_steadyNow u n 0) n]
    exact qOfNode_clearEntries ..
  · rw [nodeState_nodeMod, hst k hk, hflag]
    exact e3 k hk hne

theorem nodeClr_shows (s : State) {n : Nat} (hn : n < 2048) : (∀ w, w < 256 → (s.tclear 0x1203 (· == n)).trd 0x1203 n w = 0)
    ∧ s.tblBut (s.tclear 0x1203 (· == n)) (fun tid i _ => tid = 0x1203 ∧ i = n) := by
  refine ⟨fun w hw => ?_, fun k hk => ?_⟩
  · unfold State.trd State.tclear
    rw [smGet_filter]
    have ht : tkeyTid (tkey 0x1203 n w) = 0x1203 := tkeyTid_tkey _ _ _ (by omega) hw
    have hi : tkeyIdx (tkey 0x1203 n w) = n := by
      unfold tkeyIdx tkey
      omega
    rw [if_neg (by simp [ht, hi])]
    unfold tblReset initStatus
    rw [ht]
    simp
  · unfold State.tclear
    rw [smGet_filter]
    refine if_pos ?_
    by_contra hc
    exact hk (by simpa using hc)

theorem baselineSave_shows (s : State) (k : Nat) :
    let t := s.snetMod (fun q => { q with nodes := q.nodes.map (fun e => (e.1, { e.2 with saved := e.2.base })) })
    (t.node k).saved = (s.node k).base ∧ (t.node k).base = (s.node k).base := by
  have h : ∀ l : List (Nat × NodeSt), (l.map (fun e => (e.1, { e.2 with saved := e.2.base }))).lookup k
      = (l.lookup k).map (fun d => { d with saved := d.base }) := fun l => by
    induction l with
    | nil => rfl
    | cons e l ih =>
      obtain ⟨i, d⟩ := e
      simp only [List.map_cons, List.lookup]
      split
      · rfl
      · exact ih
  intro t
  have ht : t.node k = ((s.snet.nodes.lookup k).map (fun d => { d with saved := d.base })).getD NodeSt.init := congrArg (Option.getD · NodeSt.init) (h _)
  rw [ht]
  unfold State.node
  cases s.snet.nodes.lookup k with
  | none => exact ⟨rfl, rfl⟩
  | some d => exact ⟨rfl, rfl⟩

end

end Sys2Proof.Machine
end

section
/-! ### The substation network: lines (R200, R245) -/

namespace Sys2Proof.Machine

section
variable {p : Nat} {s : State}

theorem getD_setAt_self {α : Type} {l : List α} {i : Nat} {x d : α} (h : i < l.length) : (setAt l i x).getD i d = x := by
  unfold setAt
  rw [List.getD_eq_getElem?_getD, List.getElem?_set]
  simp [h]

theorem getD_setAt_ne {α : Type} {l : List α} {i j : Nat} {x d : α} (h : j ≠ i) : (setAt l i x).getD j d = l.getD j d := by
  unfold setAt
  rw [List.getD_eq_getElem?_getD, List.getD_eq_getElem?_getD, List.getElem?_set]
  simp [Ne.symm h]

/-- A line goes to `v`, and its event waits for the tick. -/
def State.lineTo (s : State) (p : Nat) (v : Bool) : State :=
  s.snetMod (fun q => { q with lines := setAt q.lines p v, line := if p < 2 then q.line ++ [(p, b2n v)] else q.line })

theorem lineTo_shows (hp : p < 5) (hl : s.snet.lines.length = 5) (v : Bool) :
    (s.lineTo p v).lineUp p = v ∧ (∀ q, q ≠ p → (s.lineTo p v).lineUp q = s.lineUp q)
      ∧ (s.lineTo p v).snet.line = s.snet.line ++ (if p < 2 then [(p, b2n v)] else []) ∧ s.onlyIn (s.lineTo p v) [.snet] := by
  refine ⟨getD_setAt_self (by omega), fun q hq => getD_setAt_ne hq, ?_, snetMod_only s _⟩
  show (if p < 2 then s.snet.line ++ [(p, b2n v)] else s.snet.line) = _
  split
  · rfl
  · exact (List.append_nil _).symm

theorem linkDown_runs (h : s.lineUp p = true) : exec (.linkDown p) s = .next (s.lineTo p false) := next_congr (if_pos h)

theorem linkDown_idles (h : s.lineUp p = false) : exec (.linkDown p) s = .next s := next_congr (if_neg (by rw [h]; decide))

/-- A line may come up: its clock is locked, the loads are on, and ports A and B are enabled. -/
def State.lineMay (s : State) (p : Nat) : Prop :=
  s.portClk p = true ∧ s.shed = false ∧ (2 ≤ p ∨ s.bit (bitAt (0x10040 + 0x1000 * p) 0) = true)

theorem linkUp_runs (h : s.lineUp p = false) (hm : s.lineMay p) : exec (.linkUp p) s = .next (s.lineTo p true) := by
  obtain ⟨h1, h2, h3⟩ := hm
  refine next_congr (if_pos ?_)
  rw [h, h1, h2]
  simpa using h3

theorem linkUp_idles (h : s.lineUp p = true ∨ ¬ s.lineMay p) : exec (.linkUp p) s = .next s := by
  refine next_congr (if_neg fun hc => ?_)
  simp only [Bool.and_eq_true, Bool.not_eq_true', Bool.or_eq_true, decide_eq_true_eq] at hc
  obtain ⟨⟨⟨h1, h2⟩, h3⟩, h4⟩ := hc
  rcases h with h | h
  · rw [h] at h1; exact absurd h1 (by decide)
  · exact h ⟨h2, h3, h4⟩

theorem sfpFault_runs {a b c : Bool} (hp : p < 2) (h : a = true ∨ b = true ∨ c = true) :
    runs (.sfpFault p a b c) s (fun t => t.snet.lines = s.snet.lines
      ∧ ∃ l, t.snet.line = s.snet.line ++ l ++ [(p, 5)] ∧ (∀ k, (p, k) ∈ l ↔ (k = 2 ∧ a = true) ∨ (k = 3 ∧ b = true) ∨ (k = 4 ∧ c = true))) := by
  refine runs_intro (next_congr (if_neg ?_)) ⟨rfl, (if a then [(p, 2)] else []) ++ (if b then [(p, 3)] else []) ++ (if c then [(p, 4)] else []), ?_,
    fun k => ?_⟩
  · rcases h with h | h | h <;> simp [h] <;> omega
  · simp only [List.append_assoc]
    rfl
  · cases a <;> cases b <;> cases c <;> simp

/-! What a tick shows. -/

theorem lineTick_one {k : Nat} (h : s.snet.line = [(p, k)]) : s.lineTick = (s.lineEvent (p, k)).snetMod (fun q => { q with line := [] }) := by
  unfold State.lineTick
  rw [h]
  rfl

theorem bit_raiseEv_stat {u : State} {p : Nat} (hp : p < 2) (b k : Nat) : (u.raiseEv (0x10 + p) b).bit (bitAt (0x10044 + 0x1000 * p) k)
    = u.bit (bitAt (0x10044 + 0x1000 * p) k) := by
  refine bit_of_rd (rd_raiseEv _ (by omega) ?_)
  unfold evReg
  simp only [bitAt, addrOf_eq, pageOf_eq]
  omega

theorem lineTick_shows (hp : p < 2) {k : Nat} (h : s.snet.line = [(p, k)]) : s.lineTick.snet.line = []
    ∧ (k = 0 → s.lineTick.bit (bitAt (0x10044 + 0x1000 * p) 0) = false ∧ s.lineTick.bit (bitAt (0x10010 + 0x1000 * p) 0) = true)
    ∧ (k = 1 → s.lineTick.bit (bitAt (0x10044 + 0x1000 * p) 0) = true ∧ s.lineTick.bit (bitAt (0x10010 + 0x1000 * p) 1) = true)
    ∧ (k = 2 → s.lineTick.bit (bitAt (0x10044 + 0x1000 * p) 3) = true)
    ∧ (k = 5 → s.lineTick.bit (bitAt (0x10010 + 0x1000 * p) 2) = true) := by
  rw [lineTick_one h]
  have hpend : ∀ (u : State) (b : Nat), b < 32 → ((u.raiseEv (0x10 + p) b).snetMod (fun q => { q with line := [] })).bit (bitAt (0x10010 + 0x1000 * p) b) = true :=
    fun u b hb => (bit_snetMod ..).trans (bit_raiseEv_self (by omega) (by omega) hb (by simp only [addrOf_eq]; omega))
  have hst : ∀ b : Nat, (bitAt 0x10044 b).shift p = bitAt (0x10044 + 0x1000 * p) b := fun _ => rfl
  have hap : ∀ (u : State) (b : Nat) (v : Bool), b ≠ 0 →
      (u.setB (bitAt (0x10044 + 0x1000 * p) b) v).bit (bitAt (0x10044 + 0x1000 * p) 0) = u.bit (bitAt (0x10044 + 0x1000 * p) 0) := fun u b v hb =>
    bit_setB_apart (.inr (.inr (by simp only [bitAt]; omega)))
  have hse : ∀ (u : State) (b : Nat) (v : Bool), b < 32 → (u.setB (bitAt (0x10044 + 0x1000 * p) b) v).bit (bitAt (0x10044 + 0x1000 * p) b) = v :=
    fun u b v hb => bit_setB_self hb rfl
  unfold State.lineEvent
  simp only [hst]
  refine ⟨rfl, fun hk => ?_, fun hk => ?_, fun hk => ?_, fun hk => ?_⟩
  all_goals subst hk
  · refine ⟨(bit_snetMod ..).trans ((bit_raiseEv_stat hp 0 0).trans ?_), hpend _ 0 (by decide)⟩
    refine (bit_bump_apart ?_ ?_).trans (hse _ 0 _ (by decide))
    · simp only [bitAt, Ctr.shift, Ctr.SNA_LINK_DOWN, Fld.shift]; omega
    · simp only [bitAt, Ctr.shift, Ctr.SNA_LINK_DOWN]; omega
  · refine ⟨(bit_snetMod ..).trans ((bit_raiseEv_stat hp 1 0).trans ?_), hpend _ 1 (by decide)⟩
    exact (hap _ 3 _ (by decide)).trans ((hap _ 2 _ (by decide)).trans ((hap _ 1 _ (by decide)).trans (hse _ 0 _ (by decide))))
  · exact (bit_snetMod ..).trans (hse _ 3 _ (by decide))
  · exact hpend _ 2 (by decide)

/-! Supervision. -/

theorem prpSupervise_shows (s : State) : s.prpSupervise.sent = s.sent ++ s.sendPorts.map (fun q => OutMsg.prpSup q s.snet.prpSeq)
    ∧ s.prpSupervise.snet.supAt = some s.fno ∧ s.prpSupervise.snet.prpSeq = (s.snet.prpSeq + 1) % 65536 := by
  have hsent : ∀ (l : List Nat) (u : State), (l.foldl (fun a p => a.emit (.prpSup p s.snet.prpSeq)) u).sent
      = u.sent ++ l.map (fun q => OutMsg.prpSup q s.snet.prpSeq) := fun l => by
    induction l with
    | nil => exact fun u => (List.append_nil _).symm
    | cons q l ih =>
      intro u
      refine (ih _).trans ?_
      show (u.sent ++ [_]) ++ _ = _
      rw [List.append_assoc]
      rfl
  have hsnet : ∀ (l : List Nat) (u : State), (l.foldl (fun a p => a.emit (.prpSup p s.snet.prpSeq)) u).snet = u.snet := fun l u =>
    foldl_snet (f := fun a p => a.emit (.prpSup p s.snet.prpSeq)) (fun _ _ => rfl) l u
  have hc := (countTx_keeps (Keeps.refl _ s) (List.Subset.refl _)).only
  obtain ⟨u, hu⟩ : ∃ u, u = s.sendPorts.foldl (fun a p => a.emit (.prpSup p s.snet.prpSeq)) s.countTx := ⟨_, rfl⟩
  have e1 : u.sent = s.sent ++ s.sendPorts.map (fun q => OutMsg.prpSup q s.snet.prpSeq) := by
    rw [hu, hsent, hc .sent (by decide)]
  have e2 : u.snet = s.snet := by rw [hu, hsnet, hc .snet (by decide)]
  have hp : s.prpSupervise = u.prpStep.snetMod (fun q => { q with supAt := some s.fno }) := by rw [hu]; rfl
  rw [hp]
  refine ⟨e1, rfl, ?_⟩
  show (u.snet.prpSeq + 1) % 65536 = _
  rw [e2]

/-- Two seconds have passed since the last supervision frame, or there was none. -/
def State.supDue (s : State) : Bool :=
  match s.snet.supAt with
  | none => true
  | some f => decide (2000 ≤ s.since f)

theorem prpSupervision_eq (s : State) : exec .prpSupervisionFrame s = .next (if (s.supDue && s.portsSend) = true then s.prpSupervise else s) := rfl

theorem prpSupervision_runs (h : s.portsSend = true) (hf : ∀ f, s.snet.supAt = some f → 2000 ≤ s.since f) :
    exec .prpSupervisionFrame s = .next s.prpSupervise := by
  have hd : s.supDue = true := by
    unfold State.supDue
    split
    · rfl
    · next f hs => exact decide_eq_true (hf f hs)
  rw [prpSupervision_eq, hd, h]
  rfl

theorem prpSupervision_idles {f : Nat} (h : s.portsSend = false ∨ (s.snet.supAt = some f ∧ s.since f < 2000)) :
    exec .prpSupervisionFrame s = .next s := by
  rw [prpSupervision_eq]
  refine next_congr (if_neg ?_)
  rcases h with h | ⟨h1, h2⟩
  · rw [h, Bool.and_false]
    decide
  · have hd : s.supDue = false := by
      unfold State.supDue
      rw [h1]
      exact decide_eq_false (by omega)
    rw [hd, Bool.false_and]
    decide

end

/-- Settles O39: the nodes, the queue and the commands, then the lines. -/
theorem nodesAndLines : Obligations.NodesAndLines := by
  unfold Obligations.NodesAndLines
  refine ⟨fun n s hn => ?_, fun p s hp hs => ?_⟩
  · intro open_
    refine ⟨nodeSilent_runs hn, nodeSilent_idles, nodeLost_runs hn, nodeLost_idles, fun i ns => launchQueueExpire_runs,
      fun i ns => launchQueueExpire_idles, fun hf => ⟨nodeAccept_runs hn hf, nodeAccept_refuses hf, ?_, ?_⟩, ?_⟩
    · refine runs_intro (t := s.nodeInit n) (next_congr ?_) (nodeInit_shows s hn)
      unfold nodeResetCmd
      rw [hf]
    · obtain ⟨h1, h2⟩ := nodeClr_shows s hn
      refine runs_intro (t := s.tclear 0x1203 (· == n)) (next_congr ?_) ⟨h1, h2, (tclear_keeps (Keeps.refl _ s) (List.Subset.refl _)).only⟩
      unfold nodeClrCmd
      rw [hf]
    · exact runs_intro rfl ⟨baselineSave_shows s, snetMod_only s _⟩
  · intro may
    refine ⟨fun h => runs_intro (linkDown_runs h) (lineTo_shows hp hs.lines false), linkDown_idles,
      fun h hm => runs_intro (linkUp_runs h hm) (lineTo_shows hp hs.lines true), linkUp_idles, fun a b c h2 h => sfpFault_runs h2 h,
      fun h2 k hk => lineTick_shows h2 hk, fun h hf => runs_intro (prpSupervision_runs h hf) (prpSupervise_shows s),
      fun f => prpSupervision_idles⟩

end Sys2Proof.Machine
end

section
/-! ### The substation network: group keys change (R239 to R242) -/

namespace Sys2Proof.Machine

section
variable {g : Nat} {s : State}

/-- The rekey that is started. -/
def State.newRekey (s : State) (g : Nat) (at_ : Nat × Nat) : Rekey :=
  { group := g, gen := (s.groupGen g + 1) % 128, sec := at_.1, ns := at_.2, switched := false,
    left := s.nodes.filter (fun n => s.nodeGroup n == g), done := false }

theorem bit_rekeyRegs (h : s.snet.rekeys ≠ []) : s.rekeyRegs.bit (bitAt 0x1204C 0) = true := by
  unfold State.rekeyRegs
  split
  · next hn => exact absurd hn h
  · rw [bit_wr_apart (by decide), bit_wr_apart (by decide), bit_wr_apart (by decide)]
    exact bit_setB_self (by decide) rfl

theorem rekeyStart_shows (s : State) (g : Nat) (at_ : Nat × Nat) :
    (s.rekeyStart g at_).bit (bitAt 0x1204C 0) = true ∧ s.newRekey g at_ ∈ (s.rekeyStart g at_).snet.rekeys
      ∧ (s.rekeyStart g at_).rekeyOf g = some (s.newRekey g at_) := by
  obtain ⟨u, hu⟩ : ∃ u, u = s.snetMod (fun q => { q with rekeys := q.rekeys.filter (fun x => x.group != g) ++ [s.newRekey g at_] }) := ⟨_, rfl⟩
  have hr : u.snet.rekeys = s.snet.rekeys.filter (fun x => x.group != g) ++ [s.newRekey g at_] := by rw [hu]; rfl
  have he : s.rekeyStart g at_ = u.rekeyRegs := by rw [hu]; rfl
  rw [he]
  refine ⟨bit_rekeyRegs (by rw [hr]; simp), ?_, ?_⟩
  · rw [snet_rekeyRegs, hr]
    exact List.mem_append_right _ (List.mem_singleton.2 rfl)
  · unfold State.rekeyOf
    rw [snet_rekeyRegs, hr, List.find?_append]
    have hnone : (s.snet.rekeys.filter (fun x => x.group != g)).find? (fun r => r.group == g) = none := by
      rw [List.find?_eq_none]
      intro x hx
      simpa using (List.mem_filter.1 hx).2
    rw [hnone]
    simp [State.newRekey]

theorem rekey_refuses (h : s.bit (bitAt 0x1204C 0) = true ∨ s.masterPromotes = true) : exec .rekey s = .next s := by
  refine next_congr ?_
  unfold rekeyCmd
  rw [if_pos (by rcases h with h | h <;> simp [h])]

theorem rekey_runs (h1 : s.bit (bitAt 0x1204C 0) = false) (h2 : s.masterPromotes = false) (hg : s.fld ⟨0x12048, 16, 8⟩ = g) :
    exec .rekey s = .next (s.rekeyStart g (ltAdd (s.instant 0) (s.fld ⟨0x12088, 0, 16⟩ * 1000000000))) := by
  refine next_congr ?_
  unfold rekeyCmd
  rw [if_neg (by simp [h1, h2]), hg]

/-! #### The switch -/

/-- The group uses the new generation from now on. -/
def State.rekeyGens (s : State) (g : Nat) (r : Rekey) : State :=
  s.snetMod (fun q =>
    { q with gens := (g, r.gen) :: q.gens.filter (fun e => e.1 != g),
             old := (g, s.fno) :: q.old.filter (fun e => e.1 != g),
             rekeys := q.rekeys.map (fun x => if x.group = g then { x with switched := true } else x) })

/-- The flags of a group at its switch: the overlap, or the end of a revocation. -/
def State.rekeyFlags (s : State) (g : Nat) (r : Rekey) : State :=
  if !s.bit (grpRev g) then (s.rekeyGens g r).setB (grpOld g) true
  else (s.rekeyGens g r).setB (grpRev g) (!s.slotActive s.masterSlot)

theorem rekeySwitch_runs {r : Rekey} (hr : s.rekeyOf g = some r) (h1 : r.switched = false) (h2 : s.ltAhead r.sec r.ns 0 ≤ 0) :
    exec (.rekeySwitch g) s = .next (((r.left.foldl (fun a n => a.imgFlag n 19 true) (s.rekeyFlags g r)).raiseEv 0x12 2).rekeyDone) := by
  refine next_congr ?_
  rw [hr]
  refine if_neg ?_
  rw [h1, decide_eq_false (by omega)]
  decide

theorem rekeySwitch_idles (h : s.rekeyOf g = none ∨ ∃ r, s.rekeyOf g = some r ∧ (r.switched = true ∨ 0 < s.ltAhead r.sec r.ns 0)) :
    exec (.rekeySwitch g) s = .next s := by
  refine next_congr ?_
  rcases h with h | ⟨r, hr, h⟩
  · rw [h]
  · rw [hr]
    refine if_pos ?_
    rcases h with h | h
    · rw [h]; rfl
    · rw [decide_eq_true h, Bool.or_true]

/-- What the flags of the nodes leave. -/
theorem imgFlags_show (l : List Nat) (u : State) : (l.foldl (fun a n => a.imgFlag n 19 true) u).regs = u.regs
    ∧ (l.foldl (fun a n => a.imgFlag n 19 true) u).snet = u.snet
    ∧ (∀ m, u.tfld 0x1201 m 0 19 1 = 1 ∨ m ∈ l → (l.foldl (fun a n => a.imgFlag n 19 true) u).tfld 0x1201 m 0 19 1 = 1) := by
  induction l generalizing u with
  | nil => exact ⟨rfl, rfl, fun m h => h.resolve_right (by simp)⟩
  | cons n l ih =>
    obtain ⟨h1, h2, h3⟩ := ih (u.imgFlag n 19 true)
    refine ⟨h1.trans (regs_tset ..), h2.trans (snet_tset ..), fun m hm => h3 m ?_⟩
    by_cases hmn : m = n
    · subst hmn
      exact .inl (tfld_imgFlag u m 19 true (by decide))
    · rcases hm with hm | hm
      · refine .inl ((congrArg (wbits · 19 1) (trd_twr_ne _ _ _ _ _ _ _ _ ?_)).trans hm)
        unfold tkey
        omega
      · exact .inr ((List.mem_cons.1 hm).resolve_left hmn)

theorem rekeyDone_gens (s : State) : s.rekeyDone.snet.gens = s.snet.gens ∧ s.rekeyDone.snet.old = s.snet.old := by
  unfold State.rekeyDone
  extract_lets fin s1 mark s2
  have h1 : s1.snet = s.snet := foldl_snet (fun a _ => raiseEv_only _ _ _ .snet (by decide)) fin s
  rw [snet_rekeyRegs]
  have h2 : s2.snet.gens = s1.snet.gens ∧ s2.snet.old = s1.snet.old := ⟨rfl, rfl⟩
  exact ⟨h2.1.trans (congrArg SnetSt.gens h1), h2.2.trans (congrArg SnetSt.old h1)⟩

/-- A pending event of the page outlasts the rekeys that end, and so do the groups' flags. -/
theorem rekeyDone_keeps_flags (s : State) : (s.bit (bitAt 0x12010 2) = true → s.rekeyDone.bit (bitAt 0x12010 2) = true)
    ∧ ∀ a, 0x12100 ≤ a → a < 0x13000 → s.rekeyDone.rd a = s.rd a := by
  have hregs : ∀ (u : State) (a : Nat), a ≠ 0x1204C → a ≠ 0x12090 → a ≠ 0x12094 → a ≠ 0x12098 → u.rekeyRegs.rd a = u.rd a := fun u a h1 h2 h3 h4 => by
    unfold State.rekeyRegs
    split
    · rw [rd_wr_apart h2, rd_setB_apart h1]
    · rw [rd_wr_apart h4, rd_wr_apart h3, rd_wr_apart h2, rd_setB_apart h1]
  have hfold : ∀ (l : List Rekey) (u : State), (u.bit (bitAt 0x12010 2) = true → (l.foldl (fun a _ => a.raiseEv 0x12 1) u).bit (bitAt 0x12010 2) = true)
      ∧ ∀ a, 0x12100 ≤ a → a < 0x13000 → (l.foldl (fun a _ => a.raiseEv 0x12 1) u).rd a = u.rd a := fun l => by
    induction l with
    | nil => exact fun u => ⟨id, fun _ _ _ => rfl⟩
    | cons x l ih =>
      intro u
      obtain ⟨h1, h2⟩ := ih (u.raiseEv 0x12 1)
      refine ⟨fun h => h1 (bit_raiseEv_stays (p := 0x12) (by decide) (by decide) (by decide) rfl h), fun a ha hb => (h2 a ha hb).trans (rd_raiseEv _ (by decide) ?_)⟩
      unfold evReg
      simp only [addrOf_eq, pageOf_eq]
      omega
  unfold State.rekeyDone
  extract_lets fin s1 mark s2
  obtain ⟨f1, f2⟩ := hfold fin s
  refine ⟨fun h => ?_, fun a ha hb => ?_⟩
  · rw [bit_of_rd (f := bitAt 0x12010 2) (hregs s2 0x12010 (by decide) (by decide) (by decide) (by decide))]
    exact (bit_snetMod ..).trans (f1 h)
  · rw [hregs s2 a (by omega) (by omega) (by omega) (by omega)]
    exact (rd_snetMod ..).trans (f2 a ha hb)

theorem grpBit_lt (h : g < 256) : (grpBit 0x12120 g).addr < 0x12140 ∧ 0x12120 ≤ (grpBit 0x12120 g).addr ∧ (grpBit 0x12140 g).addr < 0x12160
    ∧ 0x12140 ≤ (grpBit 0x12140 g).addr ∧ g % 32 < 32 := by
  simp only [grpBit, bitAt]
  omega

theorem rekeySwitch_shows {r : Rekey} (hg : g < 256) (t : State)
    (ht : t = ((r.left.foldl (fun a n => a.imgFlag n 19 true) (s.rekeyFlags g r)).raiseEv 0x12 2).rekeyDone) :
    t.groupGen g = r.gen ∧ t.bit (bitAt 0x12010 2) = true
      ∧ (s.bit (grpRev g) = false → t.bit (grpOld g) = true ∧ t.bit (grpRev g) = false)
      ∧ (s.bit (grpRev g) = true → t.bit (grpOld g) = s.bit (grpOld g) ∧ t.bit (grpRev g) = !s.slotActive s.masterSlot)
      ∧ (∀ n ∈ r.left, n < 2048 → t.tfld 0x1201 n 0 19 1 = 1) ∧ t.snet.old.lookup g = some s.fno
      ∧ ∀ k, k ≠ g → t.groupGen k = s.groupGen k := by
  obtain ⟨h1, h2, h3, h4, h5⟩ := grpBit_lt hg
  obtain ⟨u, hu⟩ : ∃ u, u = r.left.foldl (fun a n => a.imgFlag n 19 true) (s.rekeyFlags g r) := ⟨_, rfl⟩
  rw [← hu] at ht
  obtain ⟨i1, i2, i3⟩ := imgFlags_show r.left (s.rekeyFlags g r)
  rw [← hu] at i1 i2 i3
  have hsn : (s.rekeyFlags g r).snet = (s.rekeyGens g r).snet := by
    unfold State.rekeyFlags
    split
    · exact snet_setB ..
    · exact snet_setB ..
  have hev : (u.raiseEv 0x12 2).snet = (s.rekeyGens g r).snet := (raiseEv_only _ _ _ .snet (by decide)).trans (i2.trans hsn)
  obtain ⟨d1, d2⟩ := rekeyDone_gens (u.raiseEv 0x12 2)
  obtain ⟨f1, f2⟩ := rekeyDone_keeps_flags (u.raiseEv 0x12 2)
  rw [← ht] at d1 d2 f1 f2
  have hgen : ∀ k, t.groupGen k = (s.rekeyGens g r).groupGen k := fun k => by
    unfold State.groupGen
    rw [d1, hev]
  have hbit : ∀ base, (base = 0x12120 ∨ base = 0x12140) → t.bit (grpBit base g) = (s.rekeyFlags g r).bit (grpBit base g) := fun base hb => by
    have ha : 0x12100 ≤ (grpBit base g).addr ∧ (grpBit base g).addr < 0x13000 := by
      rcases hb with rfl | rfl
      · omega
      · omega
    refine (bit_of_rd (f2 _ ha.1 ha.2)).trans ?_
    refine (bit_of_rd (rd_raiseEv _ (by decide) ?_)).trans (bit_of_regs i1 _)
    unfold evReg
    simp only [addrOf_eq, pageOf_eq]
    omega
  have hold := hbit 0x12120 (.inl rfl)
  have hrev := hbit 0x12140 (.inr rfl)
  refine ⟨?_, f1 (bit_raiseEv_self (by decide) (by decide) (by decide) rfl), fun h => ?_, fun h => ?_, fun n hn hlt => ?_, ?_, fun k hk => ?_⟩
  · rw [hgen]
    simp [State.groupGen, State.rekeyGens, State.snetMod]
  · have he : s.rekeyFlags g r = (s.rekeyGens g r).setB (grpOld g) true := if_pos (by rw [h]; decide)
    refine ⟨hold.trans ?_, hrev.trans ?_⟩
    · rw [he]
      exact bit_setB_self h5 rfl
    · rw [he]
      refine (bit_setB_apart (.inl ?_)).trans ((bit_snetMod ..).trans h)
      show (grpBit 0x12140 g).addr ≠ (grpBit 0x12120 g).addr
      omega
  · have he : s.rekeyFlags g r = (s.rekeyGens g r).setB (grpRev g) (!s.slotActive s.masterSlot) := if_neg (by rw [h]; decide)
    refine ⟨hold.trans ?_, hrev.trans ?_⟩
    · rw [he]
      refine (bit_setB_apart (.inl ?_)).trans (bit_snetMod ..)
      show (grpBit 0x12120 g).addr ≠ (grpBit 0x12140 g).addr
      omega
    · rw [he]
      exact bit_setB_self h5 rfl
  · have hk : tkeyTid (tkey 0x1201 n 0) = 0x1201 := tkeyTid_tkey _ _ _ (by omega) (by decide)
    have hnear : Near (fun _ => True) evTbl u t := by
      rw [ht]
      exact (near_raiseEv (Near.refl _ _ u) (by decide) (fun _ _ => trivial) fun _ => id).trans ((near_rekeyDone _).mono (fun _ _ => trivial) fun _ => id)
    refine (congrArg (wbits · 19 1) (hnear.tbl (tkey 0x1201 n 0) ?_)).trans (i3 n (.inr hn))
    rw [hk]
    unfold evTbl
    omega
  · rw [d2, hev]
    simp [State.rekeyGens, State.snetMod]
  · rw [hgen]
    have hb : (k == g) = false := beq_eq_false_iff_ne.2 hk
    simp only [State.groupGen, State.rekeyGens, State.snetMod, List.lookup, hb, lookup_filter_other hk]

/-! #### The end of the overlap -/

theorem rekeyOverlapEnd_runs {f : Nat} (hg : g < 256) (hl : s.snet.old.lookup g = some f) (hf : 200 ≤ s.since f) :
    runs (.rekeyOverlapEnd g) s (fun t => t.bit (grpOld g) = false ∧ t.snet.old.lookup g = none ∧ t.groupGen g = s.groupGen g) := by
  obtain ⟨-, -, -, -, h5⟩ := grpBit_lt hg
  refine runs_intro (t := (s.snetMod (fun q => { q with old := q.old.filter (fun e => e.1 != g) })).setB (grpOld g) false) (next_congr ?_)
    ⟨bit_setB_self h5 rfl, ?_, ?_⟩
  · rw [hl]
    exact if_neg (by omega)
  · rw [snet_setB]
    exact lookup_filter_ne ..
  · unfold State.groupGen
    rw [snet_setB]
    rfl

theorem rekeyOverlapEnd_waits {f : Nat} (hl : s.snet.old.lookup g = some f) (hf : s.since f < 200) : exec (.rekeyOverlapEnd g) s = .next s := by
  refine next_congr ?_
  rw [hl]
  exact if_pos hf

end

/-- Settles O40: the start of a rekey, its switch and the end of the overlap. -/
theorem groupKeysChange : Obligations.GroupKeysChange := by
  unfold Obligations.GroupKeysChange
  intro g s hg
  refine ⟨rekey_refuses, fun h1 h2 hf => ?_, fun r hr h1 h2 => runs_intro (rekeySwitch_runs hr h1 h2) (rekeySwitch_shows hg _ rfl),
    fun r hr h => rekeySwitch_idles (.inr ⟨r, hr, h⟩), fun h => rekeySwitch_idles (.inl h), fun f => rekeyOverlapEnd_runs hg,
    fun f => rekeyOverlapEnd_waits⟩
  obtain ⟨e1, e2, e3⟩ := rekeyStart_shows s g (ltAdd (s.instant 0) (s.fld ⟨0x12088, 0, 16⟩ * 1000000000))
  refine runs_intro (rekey_runs h1 h2 hf) ⟨e1, _, e2, rfl, rfl, rfl, rfl, e3, rfl, fun n => ?_⟩
  simp [State.newRekey]

end Sys2Proof.Machine
end

section
/-! ### The supply and the clocks (R23, R526, R529, R531) -/

namespace Sys2Proof.Machine

section
variable {s : State} {mv : Nat}

/-! #### The supply -/

theorem undervolt_runs (h1 : mv < s.fld ⟨0x2058, 0, 16⟩) (h2 : s.bit pwrUv = false) :
    runs (.undervolt mv) s (fun t => t.bit pwrUv = true ∧ t.bit (bitAt 0x2010 2) = true ∧ s.regsBut t (fun a => a = 0x2040 ∨ evReg 2 a)
      ∧ s.onlyIn t evParts) := by
  refine runs_intro (next_congr (if_pos (by simp [h1, h2]))) ⟨?_, bit_raiseEv_self (by decide) (by decide) (by decide) rfl, ?_, ?_⟩
  · exact (bit_raiseEv_apart (by decide) (by decide) (by decide) (by decide) (by decide)).trans (bit_setB_self (by decide) rfl)
  · have h : Near (fun a => a = 0x2040 ∨ evReg 2 a) evTbl s ((s.setB pwrUv true).raiseEv 2 2) :=
      near_raiseEv (near_setB (Near.refl _ _ s) (.inl rfl)) (by decide) (fun _ => .inr) fun _ => id
    exact h.regs
  · exact (raiseEv_keeps (setB_keeps (Keeps.refl _ s) (by decide)) (by decide)).only

theorem undervolt_idles (h : s.fld ⟨0x2058, 0, 16⟩ ≤ mv ∨ s.bit pwrUv = true) : exec (.undervolt mv) s = .next s := by
  refine next_congr (if_neg ?_)
  rcases h with h | h
  · simp [h]
  · simp [h]

theorem overvolt_runs (h1 : 60000 < mv) (h2 : s.bit pwrOv = false) :
    runs (.overvolt mv) s (fun t => t.bit pwrOv = true ∧ t.bit (bitAt 0x2010 3) = true
      ∧ t.fld Ctr.PWR_OV.f = min (2 ^ 32 - 1) (s.fld Ctr.PWR_OV.f + 1) ∧ s.onlyIn t evParts) := by
  refine runs_intro (next_congr (if_pos (by simp [h1, h2]))) ⟨?_, ?_, ?_, ?_⟩
  · exact (bit_bump_apart (by decide) (by decide)).trans
      ((bit_raiseEv_apart (by decide) (by decide) (by decide) (by decide) (by decide)).trans (bit_setB_self (by decide) rfl))
  · exact (bit_bump_apart (by decide) (by decide)).trans (bit_raiseEv_self (by decide) (by decide) (by decide) rfl)
  · refine (fld_bump_stays rfl (by decide) (.inl (by decide))).trans (congrArg (fun v => min (2 ^ 32 - 1) (v + 1)) ?_)
    exact (fld_raiseEv_apart (by decide) (by decide) (by decide) (by decide) (by decide)).trans (fld_setB_apart (by decide))
  · exact (bump_keeps (raiseEv_keeps (setB_keeps (Keeps.refl _ s) (by decide)) (by decide)) (by decide)).only

theorem overvolt_idles (h : mv ≤ 60000 ∨ s.bit pwrOv = true) : exec (.overvolt mv) s = .next s := by
  refine next_congr (if_neg ?_)
  rcases h with h | h
  · simp [h]
  · simp [h]

theorem ballastLow_runs (h1 : mv < 68000) (h2 : s.bit pwrBallast = true) (h3 : s.powerFailing = false) :
    runs (.ballastLow mv) s (fun t => t.bit pwrBallast = false ∧ t.bit (bitAt 0x2010 4) = true
      ∧ s.regsBut t (fun a => a = 0x2040 ∨ evReg 2 a) ∧ s.onlyIn t evParts) := by
  refine runs_intro (next_congr (if_pos (by simp [h1, h2, h3]))) ⟨?_, bit_raiseEv_self (by decide) (by decide) (by decide) rfl, ?_, ?_⟩
  · exact (bit_raiseEv_apart (by decide) (by decide) (by decide) (by decide) (by decide)).trans (bit_setB_self (by decide) rfl)
  · have h : Near (fun a => a = 0x2040 ∨ evReg 2 a) evTbl s ((s.setB pwrBallast false).raiseEv 2 4) :=
      near_raiseEv (near_setB (Near.refl _ _ s) (.inl rfl)) (by decide) (fun _ => .inr) fun _ => id
    exact h.regs
  · exact (raiseEv_keeps (setB_keeps (Keeps.refl _ s) (by decide)) (by decide)).only

theorem ballastLow_idles (h : 68000 ≤ mv ∨ s.bit pwrBallast = false ∨ s.powerFailing = true) : exec (.ballastLow mv) s = .next s := by
  refine next_congr (if_neg ?_)
  rcases h with h | h | h
  · simp [h]
  · simp [h]
  · simp [h]

end

/-! #### What a lost domain stops -/

/-- The registers beside the page of the clocks. -/
def offClk (a : Nat) : Prop := pageOf a ≠ 3

theorem offClk_of_evReg {p a : Nat} (hp : p ≠ 3) (h : evReg p a) : offClk a := by
  unfold evReg at h
  unfold offClk
  simp only [addrOf_eq, pageOf_eq] at h ⊢
  omega

theorem offClk_of_faultReg {a : Nat} (h : faultReg a = true) : offClk a := by
  unfold offClk
  simp only [faultReg, modeReg, Bool.or_eq_true, beq_iff_eq, pageOf_eq] at h ⊢
  omega

section

/-- The end of a solve changes words of the optimiser's page, of the host's and those of its event. -/
theorem near_endSolve {p q : Nat → Prop} (hp : ∀ a, pageOf a = 0x25 ∨ pageOf a = 0x0B → p a) (hev : ∀ a, evReg 0x25 a → p a) (hq : ∀ x, evTbl x → q x)
    (u : State) (code group stage index : Nat) : Near p q u (u.endSolve code group stage index) := by
  have hended : ∀ (v : State) (c : Option HCmd), Near p q u v → Near p q u (v.optEnded c) := fun v c hv => by
    unfold State.optEnded
    split
    · exact hv
    · exact near_optMod hv
  have hnote : ∀ (v : State) (w : Word), Near p q u v → Near p q u (v.noteEnd w) := fun v w hv => by
    have hv1 := fun f => near_optMod (f := f) (near_wr (a := 0x2504C) (v := w) hv (hp _ (.inl rfl)))
    exact near_ite' (near_bump (hv1 _) (hp _ (.inl rfl)) (hp _ (.inl rfl)))
      (near_raiseEv (near_bump (hv1 _) (hp _ (.inl rfl)) (hp _ (.inl rfl))) (by decide) hev hq)
  have hcomplete : ∀ (v : State) (c : HCmd) (st : Status) (r : Word), Near p q u v → Near p q u (v.complete c st r) := fun v c st r hv => by
    unfold State.complete
    exact near_ite' (near_addItem (near_sessMod (near_hostMod hv))) (near_bump (near_hostMod hv) (hp _ (.inr rfl)) (hp _ (.inr rfl)))
  unfold State.endSolve
  split
  · exact Near.refl _ _ u
  · extract_lets s1 s2 s3
    have h1 : Near p q u s1 := near_wr (near_wr (Near.refl _ _ u) (hp _ (.inl rfl))) (hp _ (.inl rfl))
    have h3 : Near p q u s3 := hended _ _ (hnote _ _ (near_optMod (near_setF h1 (hp _ (.inl rfl)))))
    split
    · exact hcomplete _ _ _ _ h3
    · exact h3

theorem near_optHalt {p q : Nat → Prop} (hp : ∀ a, pageOf a = 0x25 ∨ pageOf a = 0x0B → p a) (hev : ∀ a, evReg 0x25 a → p a) (hq : ∀ x, evTbl x → q x)
    (u : State) : Near p q u u.optHalt := near_ite' (near_endSolve hp hev hq ..) (Near.refl _ _ u)

theorem near_lineDown {p q : Nat → Prop} (k : Nat) (u : State) : Near p q u (lineDown k u) := by
  unfold lineDown
  exact near_ite' (near_same (Near.refl _ _ u) (regs_snetMod ..) (tbl_snetMod ..)) (Near.refl _ _ u)

theorem near_privMove_offClk {k : Nat} (hk : k < 2) (u : State) : Near offClk evTbl u (u.privMove k) := by
  unfold State.privMove
  refine near_foldl (near_same (Near.refl _ _ u) ((regs_canMod ..).trans (regs_canMod ..)) ((tbl_canMod ..).trans (tbl_canMod ..))) fun a _ _ h => ?_
  refine near_raiseEv (near_canBump (k := 0xC4) (j := 0xDC) h rfl rfl ?_ ?_) (by unfold canPage; omega)
    (fun _ => offClk_of_evReg (by unfold canPage; omega)) fun _ => id
  · unfold offClk
    simp only [pageOf_eq]
    omega
  · unfold offClk
    simp only [pageOf_eq]
    omega

/-- What the loss of a domain stops is no word of the clocks' page. -/
theorem clkConsequence_keeps_clocks {d : Nat} (hd : d < 12) (u : State) : Near offClk evTbl u (clkConsequence d u) := by
  have hpg : ∀ a, pageOf a = 0x25 ∨ pageOf a = 0x0B → offClk a := fun a h => by
    unfold offClk
    omega
  have hfault : Near offClk evTbl u (u.enterFault 3 0) := near_enterFault (Near.refl _ _ u) (fun _ => offClk_of_faultReg) fun _ => id
  have hmod : Near offClk evTbl u u.modClkLost :=
    near_raiseEv (near_same (near_setB (Near.refl _ _ u) (by unfold offClk; decide)) (regs_metMod ..) (tbl_metMod ..)) (by decide)
      (fun _ => offClk_of_evReg (by decide)) fun _ => id
  have hadc : Near offClk evTbl u u.adcClkLost := by
    unfold State.adcClkLost
    refine near_foldl (near_raiseEv (near_setB (Near.refl _ _ u) (by unfold offClk; decide)) (by decide) (fun _ => offClk_of_evReg (by decide)) fun _ => id)
      fun a ch _ h => near_same h rfl rfl
  have haon : Near offClk evTbl u (((u.setB (bitAt 0xA040 8) true).bump .TAMP_XTAL).raiseEv 0x0A 1) :=
    near_raiseEv (near_bump (near_setB (Near.refl _ _ u) (by unfold offClk; decide)) (by unfold offClk; decide) (by unfold offClk; decide)) (by decide)
      (fun _ => offClk_of_evReg (by decide)) fun _ => id
  unfold clkConsequence
  split
  · exact hfault
  · split
    · exact near_optHalt hpg (fun _ => offClk_of_evReg (by decide)) (fun _ => id) u
    · split
      · exact near_lineDown ..
      · split
        · exact (near_lineDown 2 u).trans (near_lineDown 3 _)
        · split
          · exact near_lineDown ..
          · split
            · exact near_privMove_offClk (by omega) u
            · split
              · exact hmod
              · split
                · exact hadc
                · split
                  · exact haon
                  · exact Near.refl _ _ u

end

/-! #### Loss and return of a lock -/

section
variable {s : State} {d : Nat}

/-- A domain's loss noted, before its consequence. -/
def State.lockNoted (s : State) (d : Nat) : State :=
  (((s.setB (clkLock d) false).setB (bitAt 0x3044 d) true).bump (.CLK_LOSS d)).raiseEv 3 0

theorem lockLost_runs (hd : d < 12) (h : s.bit (clkLock d) = true) : exec (.lockLost d) s = .next (clkConsequence d (s.lockNoted d)) := by
  refine next_congr ((if_neg (by omega)).trans (if_neg ?_))
  rw [h]
  simp
  omega

theorem lockLost_idles (h : s.bit (clkLock d) = false) (hd : d < 12) : exec (.lockLost d) s = .next s :=
  next_congr ((if_neg (by omega)).trans (if_pos (.inr h)))

theorem bit_raise3 {u : State} {b c lo : Nat} (h : c = 0x3040 ∨ c = 0x3044) : (u.raiseEv 3 b).bit (bitAt c lo) = u.bit (bitAt c lo) := by
  refine bit_of_rd (rd_raiseEv u (by decide) ?_)
  unfold evReg
  simp only [bitAt, addrOf_eq, pageOf_eq]
  omega

theorem lockNoted_shows (s : State) (hd : d < 12) : (s.lockNoted d).bit (clkLock d) = false ∧ (s.lockNoted d).bit (bitAt 0x3044 d) = true
    ∧ (s.lockNoted d).bit (bitAt 0x3010 0) = true ∧ (s.lockNoted d).fld (Ctr.CLK_LOSS d).f = min (2 ^ 32 - 1) (s.fld (Ctr.CLK_LOSS d).f + 1)
    ∧ ∀ e, e < 12 → e ≠ d → (s.lockNoted d).bit (clkLock e) = s.bit (clkLock e) := by
  unfold State.lockNoted clkLock
  obtain ⟨u, hu⟩ : ∃ u, u = (s.setB (bitAt 0x3040 d) false).setB (bitAt 0x3044 d) true := ⟨_, rfl⟩
  rw [← hu]
  have hbump : ∀ c lo, c = 0x3040 ∨ c = 0x3044 → (u.bump (.CLK_LOSS d)).bit (bitAt c lo) = u.bit (bitAt c lo) := fun c lo h =>
    bit_bump_apart (by simp only [bitAt, Ctr.CLK_LOSS]; omega) (by simp only [bitAt, Ctr.CLK_LOSS]; omega)
  refine ⟨?_, ?_, bit_raiseEv_self (by decide) (by decide) (by decide) rfl, ?_, fun e he hne => ?_⟩
  · rw [bit_raise3 (.inl rfl), hbump _ _ (.inl rfl), hu, bit_setB_apart (.inl (show 0x3040 ≠ 0x3044 by decide))]
    exact bit_setB_self (show d < 32 by omega) rfl
  · rw [bit_raise3 (.inr rfl), hbump _ _ (.inr rfl), hu]
    exact bit_setB_self (show d < 32 by omega) rfl
  · have hev : ((u.bump (.CLK_LOSS d)).raiseEv 3 0).fld (Ctr.CLK_LOSS d).f = (u.bump (.CLK_LOSS d)).fld (Ctr.CLK_LOSS d).f := by
      refine fld_of_rd (rd_raiseEv _ (by decide) ?_)
      unfold evReg
      simp only [Ctr.CLK_LOSS, addrOf_eq, pageOf_eq]
      omega
    rw [hev, fld_bump_stays rfl (show 0 + 32 ≤ 32 by decide) (.inl (by simp only [Ctr.CLK_LOSS]; omega)), hu,
      fld_setB_apart (.inl (by simp only [Ctr.CLK_LOSS, bitAt]; omega)), fld_setB_apart (.inl (by simp only [Ctr.CLK_LOSS, bitAt]; omega))]
    rfl
  · rw [bit_raise3 (.inl rfl), hbump _ _ (.inl rfl), hu, bit_setB_apart (.inl (show 0x3040 ≠ 0x3044 by decide)), bit_setB_apart (.inr (by simp only [bitAt]; omega))]

theorem lineDown_down (k : Nat) (u : State) : (lineDown k u).lineUp k = false := by
  unfold lineDown
  split
  · exact getD_setAt_default ..
  · next h => simpa using h

theorem lineDown_other {k j : Nat} (h : j ≠ k) (u : State) : (lineDown k u).lineUp j = u.lineUp j := by
  unfold lineDown
  split
  · exact getD_setAt_ne h
  · rfl

/-- What each domain's loss stops. -/
theorem clkConsequence_shows (u : State) (hd : d < 12) :
    (d = 0 ∨ d = 2 → (clkConsequence d u).mstate = 6) ∧ (d = 3 ∨ d = 4 → (clkConsequence d u).lineUp (d - 3) = false)
    ∧ (d = 5 → (clkConsequence d u).lineUp 2 = false ∧ (clkConsequence d u).lineUp 3 = false) ∧ (d = 6 → (clkConsequence d u).lineUp 4 = false)
    ∧ (d = 9 → (clkConsequence d u).bit modLost = true) ∧ (d = 11 → (clkConsequence d u).bit (bitAt 0xA040 8) = true) := by
  refine ⟨fun h => ?_, fun h => ?_, fun h => ?_, fun h => ?_, fun h => ?_, fun h => ?_⟩
  · have he : clkConsequence d u = u.enterFault 3 0 := if_pos h
    rw [he]
    by_cases h6 : u.mstate = 6
    · unfold State.enterFault
      rw [if_pos h6]
      exact h6
    · exact (enterFault_enters h6 (by decide)).1
  · have he : clkConsequence d u = lineDown (d - 3) u := by rcases h with rfl | rfl <;> rfl
    rw [he]
    exact lineDown_down ..
  · subst h
    exact ⟨(lineDown_other (k := 3) (j := 2) (by decide) (lineDown 2 u)).trans (lineDown_down 2 u), lineDown_down 3 _⟩
  · subst h
    exact lineDown_down 4 u
  · subst h
    show (((u.setB modLost true).metMod (fun q => { q with lost := true })).raiseEv 0x19 2).bit modLost = true
    rw [bit_raiseEv_apart (by decide) (by decide) (by decide) (by decide) (by decide), bit_metMod]
    exact bit_setB_self (by decide) rfl
  · subst h
    show (((u.setB (bitAt 0xA040 8) true).bump .TAMP_XTAL).raiseEv 0x0A 1).bit (bitAt 0xA040 8) = true
    rw [bit_raiseEv_apart (by decide) (by decide) (by decide) (by decide) (by decide), bit_bump_apart (by decide) (by decide)]
    exact bit_setB_self (by decide) rfl

/-- A domain locked again, before its subsystem resumes. -/
def State.lockBack (s : State) (d : Nat) : State := (s.setB (clkLock d) true).raiseEv 3 1

/-- What a domain's return resumes. -/
def clkResume (d : Nat) (u : State) : State :=
  if d = 7 ∨ d = 8 then u.canMod (d - 7) (fun c => { c with integ := true })
  else if d = 9 then u.modClkBack
  else if d = 10 then u.adcClkBack
  else if d = 11 then u.setB (bitAt 0xA040 8) false
  else u

theorem lockRegained_runs (hd : d < 12) (h : s.bit (clkLock d) = false) : exec (.lockRegained d) s = .next (clkResume d (s.lockBack d)) := by
  refine next_congr (if_neg ?_)
  rw [h]
  simp
  omega

theorem lockRegained_idles (h : s.bit (clkLock d) = true) : exec (.lockRegained d) s = .next s := next_congr (if_pos (.inr h))

theorem lockBack_shows (s : State) (hd : d < 12) : (s.lockBack d).bit (clkLock d) = true ∧ (s.lockBack d).bit (bitAt 0x3010 1) = true
    ∧ ∀ e, e < 12 → e ≠ d → (s.lockBack d).bit (clkLock e) = s.bit (clkLock e) := by
  unfold State.lockBack clkLock
  refine ⟨?_, bit_raiseEv_self (by decide) (by decide) (by decide) rfl, fun e he hne => ?_⟩
  · rw [bit_raise3 (.inl rfl)]
    exact bit_setB_self (show d < 32 by omega) rfl
  · rw [bit_raise3 (.inl rfl), bit_setB_apart (.inr (by simp only [bitAt]; omega))]

theorem clkResume_keeps_clocks (d : Nat) (u : State) : Near offClk evTbl u (clkResume d u) := by
  unfold clkResume
  split
  · exact near_same (Near.refl _ _ u) (regs_canMod ..) (tbl_canMod ..)
  · split
    · exact near_setB (Near.refl _ _ u) (by unfold offClk; decide)
    · split
      · exact near_setB (Near.refl _ _ u) (by unfold offClk; decide)
      · split
        · exact near_setB (Near.refl _ _ u) (by unfold offClk; decide)
        · exact Near.refl _ _ u

theorem clkResume_shows {u : State} (hc : u.can.length = 2) (hd : d < 12) :
    (d = 7 ∨ d = 8 → ((clkResume d u).canP (d - 7)).integ = true) ∧ (d = 9 → (clkResume d u).bit modLost = false)
    ∧ (d = 11 → (clkResume d u).bit (bitAt 0xA040 8) = false) := by
  refine ⟨fun h => ?_, fun h => ?_, fun h => ?_⟩
  · have he : clkResume d u = u.canMod (d - 7) (fun c => { c with integ := true }) := if_pos h
    rw [he, canP_canMod_self (by omega)]
  · subst h
    exact bit_setB_self (by decide) rfl
  · subst h
    exact bit_setB_self (by decide) rfl

end

/-- Settles O43: the supply by its thresholds, each clock by what is noted of it and what its loss stops. -/
theorem supplyAndClocks : Obligations.SupplyAndClocks := by
  unfold Obligations.SupplyAndClocks
  refine ⟨fun mv s => ⟨undervolt_runs, undervolt_idles, overvolt_runs, overvolt_idles, ballastLow_runs, ballastLow_idles⟩,
    fun d s hd => ⟨fun h => ?_, fun h => lockLost_idles h hd, fun h hs => ?_, lockRegained_idles⟩, fun s => ?_⟩
  · obtain ⟨n1, n2, n3, n4, n5⟩ := lockNoted_shows s hd
    have hk := clkConsequence_keeps_clocks hd (s.lockNoted d)
    have hbit : ∀ c lo, c = 0x3040 ∨ c = 0x3044 ∨ c = 0x3010 → (clkConsequence d (s.lockNoted d)).bit (bitAt c lo) = (s.lockNoted d).bit (bitAt c lo) :=
      fun c lo hc => bit_of_rd (hk.regs _ (by unfold offClk; simp only [bitAt, pageOf_eq]; omega))
    refine runs_intro (lockLost_runs hd h) ⟨(hbit _ _ (.inl rfl)).trans n1, (hbit _ _ (.inr (.inl rfl))).trans n2, (hbit _ _ (.inr (.inr rfl))).trans n3,
      Eq.trans (fld_of_rd (hk.regs _ ?_)) n4, fun e he hne => (hbit _ _ (.inl rfl)).trans (n5 e he hne), clkConsequence_shows _ hd⟩
    unfold offClk
    simp only [Ctr.CLK_LOSS, pageOf_eq]
    omega
  · obtain ⟨n1, n2, n3⟩ := lockBack_shows s hd
    have hk := clkResume_keeps_clocks d (s.lockBack d)
    have hbit : ∀ c lo, c = 0x3040 ∨ c = 0x3010 → (clkResume d (s.lockBack d)).bit (bitAt c lo) = (s.lockBack d).bit (bitAt c lo) :=
      fun c lo hc => bit_of_rd (hk.regs _ (by unfold offClk; simp only [bitAt, pageOf_eq]; omega))
    have hcan : (s.lockBack d).can.length = 2 := by
      rw [State.lockBack, (raiseEv_only _ _ _ .can (by decide) : (State.raiseEv _ _ _).can = _), can_setB]
      exact hs.can
    exact runs_intro (lockRegained_runs hd h) ⟨(hbit _ _ (.inl rfl)).trans n1, (hbit _ _ (.inr rfl)).trans n2,
      fun e he hne => (hbit _ _ (.inl rfl)).trans (n3 e he hne), clkResume_shows hcan hd⟩
  · refine runs_intro (t := (s.raiseEv 3 2).enterFault 3 0) rfl ⟨?_, ?_⟩
    · exact (bit_of_rd (rd_enterFault (by decide))).trans (bit_raiseEv_self (by decide) (by decide) (by decide) rfl)
    · by_cases h6 : (s.raiseEv 3 2).mstate = 6
      · unfold State.enterFault
        rw [if_pos h6]
        exact h6
      · exact (enterFault_enters h6 (by decide)).1

end Sys2Proof.Machine
end

section
/-! ### Park controls and self-tests (R471, R521, R542) -/

namespace Sys2Proof.Machine

/-- The registers that a test's outcome changes. -/
def testReg (a : Nat) : Prop := a = 0x30044 ∨ evReg 0x30 a

section
variable {s : State} {k : Nat}

theorem not_testReg {a : Nat} (h : a = 0x0054 ∨ a = 0x3005C ∨ a = 0x30060 ∨ a = 0x30064 ∨ a = 0x30070) : ¬ testReg a := by
  unfold testReg evReg
  simp only [addrOf_eq, pageOf_eq]
  omega

theorem near_testFailed (s : State) (k : Nat) : Near testReg evTbl s (s.testFailed k) :=
  near_raiseEv (near_setB (near_twinMod (Near.refl _ _ s)) (.inl rfl)) (by decide) (fun _ => .inr) fun _ => id

theorem near_testPassed (s : State) (k : Nat) : Near testReg evTbl s (s.testPassed k) := by
  unfold State.testPassed
  extract_lets s1
  exact near_ite' (near_ite' (near_setB (near_twinMod (near_twinMod (Near.refl _ _ s))) (.inl rfl)) (near_twinMod (Near.refl _ _ s))) (Near.refl _ _ s)

/-- A failed test is latched. -/
theorem testFailed_shows (s : State) (k : Nat) : (s.testFailed k).bit testFail = true ∧ (s.testFailed k).bit (bitAt 0x30010 5) = true
    ∧ k ∈ (s.testFailed k).twin.failed ∧ (s.testFailed k).twin.scrubOk = s.twin.scrubOk ∧ (s.testFailed k).twin.loopOk = s.twin.loopOk
    ∧ ∀ c, s.bit (bitAt 0x30010 c) = true → (s.testFailed k).bit (bitAt 0x30010 c) = true := by
  unfold State.testFailed
  obtain ⟨u, hu⟩ : ∃ u, u = s.twinMod (fun q => { q with failed := if q.failed.contains k then q.failed else k :: q.failed }) := ⟨_, rfl⟩
  have ht : ((u.setB testFail true).raiseEv 0x30 5).twin = u.twin := (raiseEv_only _ _ _ .twin (by decide)).trans (twin_setB ..)
  have hf : u.twin = { s.twin with failed := if s.twin.failed.contains k then s.twin.failed else k :: s.twin.failed } := by rw [hu]; rfl
  rw [← hu, ht, hf]
  refine ⟨?_, bit_raiseEv_self (by decide) (by decide) (by decide) rfl, ?_, rfl, rfl, fun c hc => ?_⟩
  · rw [bit_raiseEv_apart (by decide) (by decide) (by decide) (by decide) (by decide)]
    exact bit_setB_self (by decide) rfl
  · show k ∈ if s.twin.failed.contains k then s.twin.failed else k :: s.twin.failed
    split
    · next h => exact List.contains_iff_mem.1 h
    · exact List.mem_cons_self ..
  · refine bit_raiseEv_stays (p := 0x30) (by decide) (by decide) (by decide) rfl ?_
    rw [bit_setB_apart (.inl (show 0x30010 ≠ 0x30044 by decide)), hu]
    exact (bit_twinMod ..).trans hc

/-- A passed test ends TEST_FAIL once TEST_CLR has acted and it was the last that had failed. -/
theorem testPassed_shows (s : State) (k : Nat) : (s.twin.clr = true → s.twin.failed = [k] → (s.testPassed k).bit testFail = false)
    ∧ (s.twin.clr = false → (s.testPassed k).bit testFail = s.bit testFail) ∧ (s.testPassed k).twin.scrubOk = s.twin.scrubOk
    ∧ (s.testPassed k).twin.loopOk = s.twin.loopOk := by
  unfold State.testPassed
  extract_lets s1
  refine ⟨fun h1 h2 => ?_, fun h1 => ?_, ?_, ?_⟩
  · have hnil : s1.twin.failed = [] := by
      show s.twin.failed.filter (· != k) = []
      rw [h2]
      simp
    rw [if_pos (by rw [h1, h2]; simp), if_pos (by rw [hnil]; rfl)]
    exact bit_setB_self (by decide) rfl
  · rw [if_neg (by rw [h1]; simp)]
  · split
    · split
      · rw [twin_setB]
        rfl
      · rfl
    · rfl
  · split
    · split
      · rw [twin_setB]
        rfl
      · rfl
    · rfl

/-- The counts, the events and the outcome of a memory test. -/
theorem scrubDone_shows (s : State) (k corr uncorr : Nat) : let t := s.scrubDone k corr uncorr
    t.fld Ctr.HLTH_SCRUB_CORR.f = min (2 ^ 32 - 1) (s.fld Ctr.HLTH_SCRUB_CORR.f + corr)
    ∧ t.fld Ctr.HLTH_SCRUB_UNCORR.f = min (2 ^ 32 - 1) (s.fld Ctr.HLTH_SCRUB_UNCORR.f + uncorr)
    ∧ t.fld Ctr.HLTH_SCRUB_PASS.f = s.fld Ctr.HLTH_SCRUB_PASS.f ∧ t.mstate = s.mstate ∧ t.twin.scrubOk = (uncorr == 0)
    ∧ (0 < corr → t.bit (bitAt 0x30010 3) = true)
    ∧ (uncorr = 0 → (s.twin.clr = true → s.twin.failed = [k] → t.bit testFail = false) ∧ (s.twin.clr = false → t.bit testFail = s.bit testFail))
    ∧ (0 < uncorr → (t.bit testFail = true ∧ t.bit (bitAt 0x30010 5) = true ∧ k ∈ t.twin.failed) ∧ t.bit (bitAt 0x30010 4) = true) := by
  intro t
  obtain ⟨s1, h1⟩ : ∃ s1, s1 = (s.bumpN .HLTH_SCRUB_CORR corr).bumpN .HLTH_SCRUB_UNCORR uncorr := ⟨_, rfl⟩
  obtain ⟨s3, h3⟩ : ∃ s3, s3 = (if 0 < corr then s1.raiseEv 0x30 3 else s1).twinMod (fun q => { q with scrubOk := uncorr == 0 }) := ⟨_, rfl⟩
  have ht : t = if 0 < uncorr then (s3.raiseEv 0x30 4).testFailed k else s3.testPassed k := by rw [h3, h1]; rfl
  have hn3 : Near testReg evTbl s1 s3 := by
    rw [h3]
    exact near_twinMod (near_ite' (near_raiseEv (Near.refl _ _ s1) (by decide) (fun _ => .inr) fun _ => id) (Near.refl _ _ s1))
  have hnt : Near testReg evTbl s3 t := by
    rw [ht]
    exact near_ite' ((near_raiseEv (Near.refl _ _ s3) (by decide) (fun _ => .inr) fun _ => id).trans (near_testFailed _ k)) (near_testPassed _ k)
  have hn := hn3.trans hnt
  have h1c : s1.fld Ctr.HLTH_SCRUB_CORR.f = min (2 ^ 32 - 1) (s.fld Ctr.HLTH_SCRUB_CORR.f + corr) := by
    rw [h1, fld_bumpN_apart (by decide) (by decide)]
    exact fld_bumpN_stays rfl (by decide) (.inl (by decide))
  have h1u : s1.fld Ctr.HLTH_SCRUB_UNCORR.f = min (2 ^ 32 - 1) (s.fld Ctr.HLTH_SCRUB_UNCORR.f + uncorr) := by
    rw [h1]
    refine (fld_bumpN_stays rfl (by decide) (.inl (by decide))).trans ?_
    rw [fld_bumpN_apart (by decide) (by decide)]
    rfl
  have h1p : s1.fld Ctr.HLTH_SCRUB_PASS.f = s.fld Ctr.HLTH_SCRUB_PASS.f := by
    rw [h1, fld_bumpN_apart (by decide) (by decide), fld_bumpN_apart (by decide) (by decide)]
  have h1m : s1.mstate = s.mstate := by
    unfold State.mstate
    rw [h1, fld_bumpN_apart (by decide) (by decide), fld_bumpN_apart (by decide) (by decide)]
  have h1t : s1.bit testFail = s.bit testFail := by
    rw [h1, bit_bumpN_apart (by decide) (by decide), bit_bumpN_apart (by decide) (by decide)]
  have e1 : s1.twin = s.twin := by rw [h1, twin_bumpN, twin_bumpN]
  have e3 : s3.twin = { s.twin with scrubOk := uncorr == 0 } := by
    rw [h3, ← e1]
    split
    · rw [State.twinMod, (raiseEv_only _ _ _ .twin (by decide) : (State.raiseEv _ _ _).twin = _)]
    · rfl
  have e4 : (s3.raiseEv 0x30 4).twin = s3.twin := raiseEv_only _ _ _ .twin (by decide)
  have hcorr : 0 < corr → s3.bit (bitAt 0x30010 3) = true := fun h => by
    rw [h3, if_pos h]
    exact (bit_twinMod ..).trans (bit_raiseEv_self (by decide) (by decide) (by decide) rfl)
  have h3t : s3.bit testFail = s1.bit testFail := by
    rw [h3]
    refine (bit_twinMod ..).trans ?_
    split
    · exact bit_raiseEv_apart (by decide) (by decide) (by decide) (by decide) (by decide)
    · rfl
  obtain ⟨f1, f2, f3, f4, -, f6⟩ := testFailed_shows (s3.raiseEv 0x30 4) k
  obtain ⟨p1, p2, p3, -⟩ := testPassed_shows s3 k
  refine ⟨(fld_of_rd (hn.regs _ (not_testReg (.inr (.inl rfl))))).trans h1c, (fld_of_rd (hn.regs _ (not_testReg (.inr (.inr (.inl rfl)))))).trans h1u,
    (fld_of_rd (hn.regs _ (not_testReg (.inr (.inr (.inr (.inl rfl))))))).trans h1p,
    (fld_of_rd (f := ⟨0x0054, 28, 4⟩) (hn.regs _ (not_testReg (.inl rfl)))).trans h1m, ?_, fun h => ?_, fun h => ?_, fun h => ?_⟩
  · rw [ht]
    split
    · rw [f4, e4, e3]
    · rw [p3, e3]
  · rw [ht]
    split
    · exact f6 3 (bit_raiseEv_stays (p := 0x30) (by decide) (by decide) (by decide) rfl (hcorr h))
    · refine (bit_of_rd ?_).trans (hcorr h)
      unfold State.testPassed
      extract_lets v
      split
      · split
        · rw [rd_setB_apart (by decide)]
          rfl
        · rfl
      · rfl
  · rw [ht, if_neg (by omega)]
    rw [e3] at p1 p2
    exact ⟨p1, fun hc => (p2 hc).trans (h3t.trans h1t)⟩
  · rw [ht, if_pos h]
    exact ⟨⟨f1, f2, f3⟩, f6 4 (bit_raiseEv_self (by decide) (by decide) (by decide) rfl)⟩

/-! #### Each test -/

theorem sramScrub_shows (s : State) (corr uncorr : Nat) : runs (.sramScrubPass corr uncorr) s (fun t =>
    t.fld Ctr.HLTH_SCRUB_CORR.f = min (2 ^ 32 - 1) (s.fld Ctr.HLTH_SCRUB_CORR.f + corr)
    ∧ t.fld Ctr.HLTH_SCRUB_UNCORR.f = min (2 ^ 32 - 1) (s.fld Ctr.HLTH_SCRUB_UNCORR.f + uncorr)
    ∧ t.fld Ctr.HLTH_SCRUB_PASS.f = (s.fld Ctr.HLTH_SCRUB_PASS.f + 1) % 2 ^ 32
    ∧ (0 < corr → t.bit (bitAt 0x30010 3) = true)
    ∧ (uncorr = 0 → t.twin.scrubOk = true ∧ t.mstate = s.mstate
        ∧ (s.twin.clr = true → s.twin.failed = [0] → t.bit testFail = false) ∧ (s.twin.clr = false → t.bit testFail = s.bit testFail))
    ∧ (0 < uncorr → t.twin.scrubOk = false ∧ (t.bit testFail = true ∧ t.bit (bitAt 0x30010 5) = true ∧ 0 ∈ t.twin.failed)
        ∧ t.bit (bitAt 0x30010 4) = true ∧ (s.mstate = 4 → t.mstate = 6 ∧ t.fld ⟨0x005C, 0, 8⟩ = 5) ∧ (s.mstate ≠ 4 → t.mstate = s.mstate))) := by
  obtain ⟨d1, d2, d3, d4, d5, d6, d7, d8⟩ := scrubDone_shows s 0 corr uncorr
  obtain ⟨u, hu⟩ : ∃ u, u = s.scrubDone 0 corr uncorr := ⟨_, rfl⟩
  obtain ⟨v, hv⟩ : ∃ v, v = u.bump .HLTH_SCRUB_PASS := ⟨_, rfl⟩
  rw [← hu] at d1 d2 d3 d4 d5 d6 d7 d8
  have hvt : v.twin = u.twin := by rw [hv, twin_bump]
  have hb : ∀ c lo, c = 0x30010 ∨ c = 0x30044 → v.bit (bitAt c lo) = u.bit (bitAt c lo) := fun c lo h => by
    rw [hv]
    exact bit_bump_apart (by simp only [bitAt, Ctr.HLTH_SCRUB_PASS]; omega) (by simp only [bitAt, Ctr.HLTH_SCRUB_PASS]; omega)
  have hvm : v.mstate = s.mstate := by
    rw [← d4, hv]
    exact fld_bump_apart (by decide) (by decide)
  have v1 : v.fld Ctr.HLTH_SCRUB_CORR.f = u.fld Ctr.HLTH_SCRUB_CORR.f := by rw [hv, fld_bump_apart (by decide) (by decide)]
  have v2 : v.fld Ctr.HLTH_SCRUB_UNCORR.f = u.fld Ctr.HLTH_SCRUB_UNCORR.f := by rw [hv, fld_bump_apart (by decide) (by decide)]
  have v3 : v.fld Ctr.HLTH_SCRUB_PASS.f = (s.fld Ctr.HLTH_SCRUB_PASS.f + 1) % 2 ^ 32 := by
    rw [hv, fld_bump_wraps rfl (by decide), d3]
    rfl
  obtain ⟨t, ht⟩ : ∃ t, t = if 0 < uncorr ∧ s.mstate = 4 then v.enterFault 5 0 else v := ⟨_, rfl⟩
  have hrun : exec (.sramScrubPass corr uncorr) s = .next t := next_congr (by
    rw [← hu]
    dsimp only
    rw [← hv, ht]
    simp only [Bool.and_eq_true, decide_eq_true_eq, beq_iff_eq, hvm])
  have hrd : ∀ a, faultReg a = false → t.rd a = v.rd a := fun a ha => by
    rw [ht]
    split
    · exact rd_enterFault ha
    · rfl
  have htwin : t.twin = u.twin := by
    rw [ht, ← hvt]
    split
    · exact (enterFault_keeps (Keeps.refl _ v) (List.Subset.refl _)).only .twin (by decide)
    · rfl
  have htf : t.bit testFail = v.bit testFail := by
    rw [ht]
    split
    · unfold State.bit
      rw [fld_enterFault_health (f := testFail) rfl (by decide)]
    · rfl
  refine runs_intro hrun ⟨(fld_of_rd (hrd _ (by decide))).trans (v1.trans d1), (fld_of_rd (hrd _ (by decide))).trans (v2.trans d2),
    (fld_of_rd (hrd _ (by decide))).trans v3, fun h => (bit_of_rd (hrd _ (by decide))).trans ((hb _ _ (.inl rfl)).trans (d6 h)), fun h => ?_, fun h => ?_⟩
  · have he : t = v := by rw [ht, if_neg (by omega)]
    obtain ⟨p1, p2⟩ := d7 h
    refine ⟨by rw [htwin, d5, h]; rfl, by rw [he, hvm], fun h1 h2 => (htf.trans (hb _ _ (.inr rfl))).trans (p1 h1 h2), fun h1 =>
      (htf.trans (hb _ _ (.inr rfl))).trans (p2 h1)⟩
  · obtain ⟨⟨p1, p2, p3⟩, p4⟩ := d8 h
    refine ⟨?_, ⟨(htf.trans (hb _ _ (.inr rfl))).trans p1, (bit_of_rd (hrd _ (by decide))).trans ((hb _ _ (.inl rfl)).trans p2), by rw [htwin]; exact p3⟩,
      (bit_of_rd (hrd _ (by decide))).trans ((hb _ _ (.inl rfl)).trans p4), fun h4 => ?_, fun h4 => ?_⟩
    · rw [htwin, d5]
      exact beq_eq_false_iff_ne.2 (by omega)
    · rw [ht, if_pos ⟨h, h4⟩]
      exact enterFault_enters (by rw [hvm, h4]; decide) (by decide)
    · rw [ht, if_neg (fun hc => h4 hc.2)]
      exact hvm

theorem loopback_shows (h3 : s.mstate = 3) {m : Nat} (hm : m < 16) : runs (.portLoopbackTest m) s (fun t => t.twin.loopOk = (m == 0)
    ∧ t.fld Ctr.HLTH_LOOP_FAIL.f = min (2 ^ 32 - 1) (s.fld Ctr.HLTH_LOOP_FAIL.f + ((List.range 4).filter (fun i => m / 2 ^ i % 2 == 1)).length)
    ∧ (0 < m → t.bit testFail = true ∧ t.bit (bitAt 0x30010 5) = true ∧ 3 ∈ t.twin.failed)
    ∧ (m = 0 → (s.twin.clr = true → s.twin.failed = [3] → t.bit testFail = false) ∧ (s.twin.clr = false → t.bit testFail = s.bit testFail))
    ∧ t.mstate = 3) := by
  obtain ⟨n, hn⟩ : ∃ n, n = ((List.range 4).filter (fun i => m / 2 ^ i % 2 == 1)).length := ⟨_, rfl⟩
  have hn0 : n = 0 ↔ m = 0 := by
    subst hn
    interval_cases m <;> decide
  obtain ⟨u, hu⟩ : ∃ u, u = (s.bumpN .HLTH_LOOP_FAIL n).twinMod (fun q => { q with loopOk := n == 0 }) := ⟨_, rfl⟩
  have ut : u.twin = { s.twin with loopOk := n == 0 } := by
    rw [hu, State.twinMod, twin_bumpN]
  have uc : u.fld Ctr.HLTH_LOOP_FAIL.f = min (2 ^ 32 - 1) (s.fld Ctr.HLTH_LOOP_FAIL.f + n) := by
    rw [hu]
    exact (fld_twinMod ..).trans (fld_bumpN_stays rfl (by decide) (.inl (by decide)))
  have um : u.mstate = 3 := by
    rw [← h3, hu]
    exact (fld_twinMod ..).trans (fld_bumpN_apart (by decide) (by decide))
  have uf : u.bit testFail = s.bit testFail := by
    rw [hu]
    exact (bit_twinMod ..).trans (bit_bumpN_apart (by decide) (by decide))
  have hrun : exec (.portLoopbackTest m) s = .next (if 0 < n then u.testFailed 3 else u.testPassed 3) := next_congr (by
    rw [if_neg (fun h => h h3), ← hn]
    dsimp only
    rw [← hu])
  have hnear : Near testReg evTbl u (if 0 < n then u.testFailed 3 else u.testPassed 3) := near_ite' (near_testFailed u 3) (near_testPassed u 3)
  obtain ⟨f1, f2, f3, -, f5, -⟩ := testFailed_shows u 3
  obtain ⟨p1, p2, -, p4⟩ := testPassed_shows u 3
  rw [ut] at p1 p2
  rw [← hn]
  have hok : (n == 0) = (m == 0) := by
    rw [Bool.eq_iff_iff, beq_iff_eq, beq_iff_eq]
    exact hn0
  refine runs_intro hrun ⟨?_, (fld_of_rd (hnear.regs _ (not_testReg (.inr (.inr (.inr (.inr rfl))))))).trans uc, fun h => ?_, fun h => ?_,
    (fld_of_rd (f := ⟨0x0054, 28, 4⟩) (hnear.regs _ (not_testReg (.inl rfl)))).trans um⟩
  · rw [← hok]
    split
    · rw [f5, ut]
    · rw [p4, ut]
  · rw [if_pos (by omega)]
    exact ⟨f1, f2, f3⟩
  · rw [if_neg (by omega)]
    exact ⟨p1, fun hc => (p2 hc).trans uf⟩

/-- An input has differed for ten checks in a row. -/
theorem plausFail_shows {i : Nat} (h3 : s.mstate = 3) (hl : s.twin.plausRun.lookup i = some 10) (ho : s.plausOn i = true) :
    runs (.plausFail i) s (fun t => t.twin.plausOk = false ∧ t.fld Ctr.HLTH_PLAUS_FAIL.f = min (2 ^ 32 - 1) (s.fld Ctr.HLTH_PLAUS_FAIL.f + 1)
      ∧ t.fld ⟨0x30078, 0, 8⟩ = i % 256 ∧ t.bit (bitAt 0x30010 6) = true ∧ t.eligible' = s.eligible') := by
  obtain ⟨u, hu⟩ : ∃ u, u = s.twinMod (fun q => { q with
      plausOk := false, plausAgree := (i, 0) :: q.plausAgree.filter (fun x => x.1 != i), plausRun := (i, 11) :: q.plausRun.filter (fun x => x.1 != i) }) := ⟨_, rfl⟩
  obtain ⟨t, ht⟩ : ∃ t, t = ((u.bump .HLTH_PLAUS_FAIL).setF ⟨0x30078, 0, 8⟩ i).raiseEv 0x30 6 := ⟨_, rfl⟩
  have hrun : exec (.plausFail i) s = .next t := next_congr (by
    rw [if_pos (by rw [h3, hl, ho]; rfl), ← hu, ht])
  have hur : u.regs = s.regs := hu ▸ rfl
  have htw : t.twin = u.twin := by rw [ht, twin_raiseEv, twin_setF, twin_bump]
  have hsn : t.snet = s.snet := by
    rw [ht, (raiseEv_only _ _ _ .snet (by decide) : (State.raiseEv _ _ _).snet = _), snet_setF, snet_bump, hu]
    rfl
  have hnear : Near (fun a => a = 0x30074 ∨ a = 0x3007C ∨ a = 0x30078 ∨ evReg 0x30 a) evTbl u t := by
    rw [ht]
    exact near_raiseEv (near_setF (near_bump (Near.refl _ _ u) (.inl rfl) (.inr (.inl rfl))) (.inr (.inr (.inl rfl)))) (by decide)
      (fun _ h => .inr (.inr (.inr h))) fun _ => id
  have hrd : ∀ a, a = 0x0054 ∨ a = 0x3040 ∨ a = 0x30044 → t.rd a = s.rd a := fun a ha => by
    rw [hnear.regs a (by
      unfold evReg
      simp only [addrOf_eq, pageOf_eq]
      omega)]
    unfold State.rd
    rw [hur]
  refine runs_intro hrun ⟨by rw [htw, hu]; rfl, ?_, ?_, ht ▸ bit_raiseEv_self (by decide) (by decide) (by decide) rfl, ?_⟩
  · rw [ht, fld_raiseEv_apart (by decide) (by decide) (by decide) (by decide) (by decide), fld_setF_apart (by decide)]
    exact (fld_bump_stays rfl (by decide) (.inl (by decide))).trans (congrArg (fun v => min (2 ^ 32 - 1) (v + 1)) (fld_of_regs hur _))
  · rw [ht, fld_raiseEv_apart (by decide) (by decide) (by decide) (by decide) (by decide)]
    exact fld_setF_self (by decide)
  · have hm : t.mstate = s.mstate := fld_of_rd (f := ⟨0x0054, 28, 4⟩) (hrd _ (.inl rfl))
    have hc : t.clkOk = s.clkOk := congrArg (· == 4095) (fld_of_rd (f := ⟨0x3040, 0, 12⟩) (hrd _ (.inr (.inl rfl))))
    have hf : t.bit testFail = s.bit testFail := bit_of_rd (f := testFail) (hrd _ (.inr (.inr rfl)))
    have hi : t.twin.instep = s.twin.instep ∧ t.twin.agreed = s.twin.agreed := by
      rw [htw, hu]
      exact ⟨rfl, rfl⟩
    unfold State.eligible' State.lineUp
    rw [hm, hc, hf, hi.1, hi.2, hsn]

/-- The clock's reading after an MRAM scrub, and its events. -/
theorem mramScrubEnd_shows (h : s.twin.scrub = true) (corr uncorr : Nat) : runs (.mramScrubEnd corr uncorr) s (fun t => t.twin = { s.twin with scrub := false }
    ∧ t.rd 0x30068 = lo32 s.ownSec ∧ (0 < corr → t.bit (bitAt 0x30010 3) = true) ∧ (0 < uncorr → t.bit (bitAt 0x30010 4) = true)
    ∧ (corr = 0 → uncorr = 0 → s.regsBut t (fun a => a = 0x30068) ∧ s.onlyIn t [.regs, .twin])) := by
  obtain ⟨u, hu⟩ : ∃ u, u = (s.twinMod (fun q => { q with scrub := false })).wr 0x30068 (lo32 s.ownSec) := ⟨_, rfl⟩
  obtain ⟨v, hv⟩ : ∃ v, v = if 0 < corr then u.raiseEv 0x30 3 else u := ⟨_, rfl⟩
  obtain ⟨t, ht⟩ : ∃ t, t = if 0 < uncorr then v.raiseEv 0x30 4 else v := ⟨_, rfl⟩
  have hrun : exec (.mramScrubEnd corr uncorr) s = .next t := next_congr (by
    rw [if_neg (by rw [h]; decide), ht, hv, hu])
  have hut : u.twin = { s.twin with scrub := false } := by rw [hu, twin_wr]; rfl
  have hvt : v.twin = u.twin := by
    rw [hv]
    split
    · exact twin_raiseEv ..
    · rfl
  have htt : t.twin = v.twin := by
    rw [ht]
    split
    · exact twin_raiseEv ..
    · rfl
  have hnear : Near (evReg 0x30) evTbl u t := by
    rw [ht, hv]
    have h1 : Near (evReg 0x30) evTbl u (if 0 < corr then u.raiseEv 0x30 3 else u) :=
      near_ite' (near_raiseEv (Near.refl _ _ u) (by decide) (fun _ => id) fun _ => id) (Near.refl _ _ u)
    exact near_ite' (near_raiseEv h1 (by decide) (fun _ => id) fun _ => id) h1
  refine runs_intro hrun ⟨htt.trans (hvt.trans hut), ?_, fun h => ?_, fun h => ?_, fun h1 h2 => ?_⟩
  · rw [hnear.regs 0x30068 (by unfold evReg; decide), hu]
    exact rd_wr_self
  · have hc : v.bit (bitAt 0x30010 3) = true := by
      rw [hv, if_pos h]
      exact bit_raiseEv_self (by decide) (by decide) (by decide) rfl
    rw [ht]
    split
    · exact bit_raiseEv_stays (p := 0x30) (by decide) (by decide) (by decide) rfl hc
    · exact hc
  · rw [ht, if_pos h]
    exact bit_raiseEv_self (by decide) (by decide) (by decide) rfl
  · have he : t = u := by rw [ht, hv, if_neg (by omega), if_neg (by omega)]
    rw [he, hu]
    exact ⟨fun a ha => rd_wr_apart ha, (wr_keeps (twinMod_keeps (Keeps.refl _ s) (by decide)) (by decide)).only⟩

end

/-- Settles O55: the park controls, then each test by what it counts and latches. -/
theorem parkControlsAndSelfTests : Obligations.ParkControlsAndSelfTests := by
  unfold Obligations.ParkControlsAndSelfTests
  intro s one plus fails passes
  refine ⟨fun e he => ?_, fun cmd n crc => ?_, fun h => ?_, fun h => ?_, sramScrub_shows s, fun h3 => ⟨fun n => ?_, fun m => loopback_shows h3⟩,
    fun h3 => ⟨fun n => next_congr (if_neg h3), fun m => next_congr (if_pos h3)⟩, fun i => ?_, ?_, fun corr uncorr h => mramScrubEnd_shows h corr uncorr,
    fun corr uncorr h => next_congr (if_pos (by rw [h]; rfl))⟩
  · intro sends
    have hdev : ∀ cmd want, (sends' : s.mstate = 4 ∧ s.cfg.pair = true ∧ s.pState = some want) →
        devCmd cmd want s = (s.emit (.parkControl cmd s.partnerSerial), .ok) := fun cmd want ⟨h1, h2, h3⟩ =>
      if_pos (by rw [h1, h2, h3]; simp)
    have hdev' : ∀ cmd want, ¬ (s.mstate = 4 ∧ s.cfg.pair = true ∧ s.pState = some want) → devCmd cmd want s = (s, .refused) := fun cmd want h =>
      if_neg (by simpa [and_assoc] using h)
    simp only [List.mem_cons, List.not_mem_nil, or_false] at he
    rcases he with rfl | rfl | rfl
    · exact ⟨fun h => ⟨runs_intro (next_congr (congrArg Prod.fst (hdev 1 3 h))) ⟨rfl, emit_only s _⟩, congrArg Prod.snd (hdev 1 3 h)⟩,
        fun h => ⟨next_congr (congrArg Prod.fst (hdev' 1 3 h)), congrArg Prod.snd (hdev' 1 3 h)⟩⟩
    · exact ⟨fun h => ⟨runs_intro (next_congr (congrArg Prod.fst (hdev 2 5 h))) ⟨rfl, emit_only s _⟩, congrArg Prod.snd (hdev 2 5 h)⟩,
        fun h => ⟨next_congr (congrArg Prod.fst (hdev' 2 5 h)), congrArg Prod.snd (hdev' 2 5 h)⟩⟩
    · exact ⟨fun h => ⟨runs_intro (next_congr (congrArg Prod.fst (hdev 3 5 h))) ⟨rfl, emit_only s _⟩, congrArg Prod.snd (hdev 3 5 h)⟩,
        fun h => ⟨next_congr (congrArg Prod.fst (hdev' 3 5 h)), congrArg Prod.snd (hdev' 3 5 h)⟩⟩
  · intro mine
    refine ⟨fun ⟨h1, h2, h3, h4, h5, h6⟩ => runs_intro (next_congr (if_pos ?_)) ⟨rfl, twinMod_only s _⟩, fun h => next_congr (if_neg fun hc => h ?_)⟩
    · rw [h1, h2, h3, h4]
      simp [h5, h6]
    · simp only [Bool.and_eq_true, beq_iff_eq, decide_eq_true_eq] at hc
      obtain ⟨⟨⟨⟨h1, h2⟩, h3⟩, h4⟩, h5, h6⟩ := hc
      exact ⟨h1, h2, h3, h4, h5, h6⟩
  · exact runs_intro (next_congr (if_pos h)) ⟨rfl, twinMod_only s _⟩
  · exact next_congr (if_neg (by rw [h]; decide))
  · obtain ⟨-, d2, -, d4, d5, -, d7, d8⟩ := scrubDone_shows s 1 0 n
    exact runs_intro (next_congr (if_pos h3)) ⟨d5, d2, fun h => ⟨(d8 h).1, (d8 h).2⟩, d7, d4.trans h3⟩
  · intro due
    refine ⟨fun ⟨h1, h2, h3⟩ => plausFail_shows h1 h2 h3, fun h => next_congr (if_neg fun hc => h ?_)⟩
    simp only [Bool.and_eq_true, beq_iff_eq, decide_eq_true_eq] at hc
    obtain ⟨⟨h1, h2⟩, h3⟩ := hc
    refine ⟨h1, ?_, h3⟩
    cases hl : s.twin.plausRun.lookup i with
    | none => rw [hl] at h2; exact absurd h2 (by decide)
    | some v => rw [hl] at h2; exact congrArg some h2
  · intro last due
    refine ⟨fun ⟨h1, h2, h3⟩ => runs_intro (next_congr (if_pos ?_)) ⟨rfl, twinMod_only s _⟩, fun h => next_congr (if_neg fun hc => h ?_)⟩
    · rw [h1, h2]
      simpa using h3
    · simp only [Bool.and_eq_true, Bool.not_eq_true', Bool.or_eq_true, beq_iff_eq, decide_eq_true_eq] at hc
      obtain ⟨⟨h1, h2⟩, h3⟩ := hc
      exact ⟨h1, h2, h3⟩

end Sys2Proof.Machine
end

section
/-! ### Joins (R474 to R477) -/

namespace Sys2Proof.Machine

/-- The registers that the failure of a join changes: its count and its code, and the event's. -/
def joinReg (a : Nat) : Prop := a = 0xC098 ∨ a = 0xC0A4 ∨ a = 0xC0A8 ∨ a = 0xC0B4 ∨ evReg 0x0C a

theorem not_joinReg {a : Nat} (h : a = 0x0054 ∨ a = 0xC064 ∨ a = 0x604C ∨ a = 0xC040 ∨ a = 0xC06C ∨ a = 0xC094 ∨ a = 0xC09C ∨ a = 0xC088) :
    ¬ joinReg a := by
  unfold joinReg evReg
  simp only [addrOf_eq, pageOf_eq]
  omega

/-- The twin's part after a join that fails. -/
def TwinSt.unjoined (q : TwinSt) (left : Option Nat) : TwinSt :=
  { q with joining := false, joinF := none, replayed := false, recs := [], stored := 0, leftAt := left }

/-- What a join that fails leaves (R477). -/
structure JoinFailed (s t : State) (code : Nat) : Prop where
  twin : t.twin = s.twin.unjoined (if s.mstate = 4 then some s.ownFno else none)
  code : t.fld ⟨0xC0B4, 0, 4⟩ = code
  segs : t.segs = []
  count : t.fld Ctr.TWIN_JOIN_FAIL.f = min (2 ^ 32 - 1) (s.fld Ctr.TWIN_JOIN_FAIL.f + 1)
  event : t.bit (bitAt 0xC010 6) = true
  near : Near joinReg evTbl s t

theorem joinFail_fails {s : State} {code : Nat} (hj : s.twin.joining = true) (hc : code < 16) : JoinFailed s (s.joinFail code) code := by
  unfold State.joinFail
  rw [if_neg (by rw [hj]; decide)]
  extract_lets s1 s2
  have hn : Near joinReg evTbl s s1 := near_raiseEv
    (near_bump (near_setF (Near.refl _ _ s) (.inr (.inr (.inr (.inl rfl))))) (.inl rfl) (.inr (.inl rfl)))
    (by decide) (fun _ h => .inr (.inr (.inr (.inr h)))) fun _ => id
  have ht : s1.twin = s.twin := by
    unfold s1
    rw [twin_raiseEv, twin_bump, twin_setF]
  refine ⟨?_, ?_, rfl, ?_, bit_raiseEv_self (by decide) (by decide) (by decide) rfl, ⟨hn.regs, hn.tbl⟩⟩
  · show TwinSt.unjoined s1.twin _ = _
    rw [ht]
  · show s1.fld _ = _
    unfold s1
    rw [fld_raiseEv_apart (by decide) (by decide) (by decide) (by decide) (by decide), fld_bump_apart (by decide) (by decide), fld_setF_self (by decide)]
    exact Nat.mod_eq_of_lt hc
  · show s1.fld _ = _
    unfold s1
    rw [fld_raiseEv_apart (by decide) (by decide) (by decide) (by decide) (by decide), fld_bump_stays rfl (by decide) (.inl (by decide)),
      fld_setF_apart (by decide)]
    rfl

theorem joinFail_idle {s : State} {code : Nat} (hj : s.twin.joining = false) : s.joinFail code = s := if_pos (by rw [hj]; rfl)

/-! #### The start of a join (R474) -/

/-- What the start of a join leaves: a new copy table, and the module joining from frame `f`. -/
structure JoinBegun (s t : State) (f : Nat) : Prop where
  joining : t.twin.joining = true
  same : t.twin.same = s.twin.same
  first : t.twin.joinF = some f
  at_ : t.twin.joinAt = some s.ownFno
  shown : t.rd 0xC064 = BitVec.ofNat 32 f
  segs : t.segs = []
  anew : ∀ i, i < 10 → t.tfld 0x0C00 i 0 30 2 = 0
  regs : s.regsBut t (fun a => a = 0xC064)
  only : s.onlyIn t [.regs, .tbl, .segs, .twin]

theorem segTable_record {v : Word} (n : Nat) : ∀ {s : State} {i : Nat}, i < n →
    ((List.range n).foldl (fun a i => a.trecSet 0x0C00 i 0 [0, 0, 0, v]) s).trd 0x0C00 i 0 = 0 := by
  induction n with
  | zero => exact fun h => absurd h (Nat.not_lt_zero _)
  | succ n ih =>
    intro s i hi
    rw [List.range_succ, List.foldl_append, List.foldl_cons, List.foldl_nil]
    rcases Nat.lt_or_eq_of_le (Nat.lt_succ_iff.1 hi) with h | rfl
    · rw [trd_trecSet_apart (fun k hk => by
        have hk : k < 4 := hk
        unfold tkey
        omega)]
      exact ih h
    · exact trd_trecSet_at (vs := [0, 0, 0, v]) (w := 0) (k := 0) (Nat.zero_lt_succ _)

theorem segTable_shows (s : State) (f : Nat) : Near (fun a => a = 0xC064) (fun _ => True) s (s.segTable f) ∧ (s.segTable f).segs = []
    ∧ (s.segTable f).twin = s.twin ∧ (s.segTable f).rd 0xC064 = BitVec.ofNat 32 f ∧ ∀ i, i < 10 → (s.segTable f).trd 0x0C00 i 0 = 0 := by
  unfold State.segTable
  obtain ⟨u, hu⟩ : ∃ u : State, u = { s.wr 0xC064 (BitVec.ofNat 32 f) with segs := [] } := ⟨_, rfl⟩
  have hr : u.regs = (s.wr 0xC064 (BitVec.ofNat 32 f)).regs := by rw [hu]
  have hs : u.segs = [] := by rw [hu]
  have ht : u.twin = s.twin := by
    rw [hu]
    exact twin_wr s 0xC064 (BitVec.ofNat 32 f)
  have hb : u.tbl = (s.wr 0xC064 (BitVec.ofNat 32 f)).tbl := by rw [hu]
  have hv : u.rd 0xC064 = BitVec.ofNat 32 f := by
    unfold State.rd
    rw [hr]
    exact rd_wr_self
  rw [← hu]
  have hk : Keeps [.tbl] u ((List.range 10).foldl (fun a i => a.trecSet 0x0C00 i 0 [0, 0, 0, BitVec.ofNat 32 f]) u) :=
    keeps_foldl (Keeps.refl _ u) fun _ _ h => trecSet_keeps h (List.Subset.refl _)
  refine ⟨near_foldl (near_same (near_wr (Near.refl _ _ s) rfl) hr hb) fun _ _ _ h => near_trecSet h fun _ _ _ => trivial,
    (hk.only .segs (by decide)).trans hs, (hk.only .twin (by decide)).trans ht, ?_, fun i hi => segTable_record 10 hi⟩
  have hrr : _ = u.regs := hk.only .regs (by decide)
  unfold State.rd
  rw [hrr]
  exact hv

theorem joinBegin_begins (s : State) (f : Nat) : JoinBegun s (s.joinBegin f) f := by
  have ho : s.onlyIn (s.joinBegin f) [.regs, .tbl, .segs, .twin] := (joinBegin_keeps (Keeps.refl _ s) (by decide)).only
  unfold State.joinBegin at ho ⊢
  obtain ⟨h1, h2, h3, h4, h5⟩ := segTable_shows s f
  obtain ⟨u, hu⟩ : ∃ u, u = s.segTable f := ⟨_, rfl⟩
  rw [← hu] at h1 h2 h3 h4 h5 ho ⊢
  refine ⟨rfl, (congrArg TwinSt.same h3 :), rfl, rfl, h4, h2, fun i hi => ?_, h1.regs, ho⟩
  show wbits (u.trd 0x0C00 i 0) 30 2 = 0
  rw [h5 i hi]
  rfl

/-- The end of a join that starts: it runs, or other images have ended it (R474). -/
theorem joinStart_begins (s : State) : let t := s.joinStart
    (s.twin.same = true → JoinBegun s t ((s.ownFno + 1) % 2 ^ 32))
    ∧ (s.twin.same = false → ∃ u, JoinBegun s u ((s.ownFno + 1) % 2 ^ 32) ∧ JoinFailed u t 1) := by
  unfold State.joinStart
  have hb := joinBegin_begins s ((s.ownFno + 1) % 2 ^ 32)
  obtain ⟨u, hu⟩ : ∃ u, u = s.joinBegin ((s.ownFno + 1) % 2 ^ 32) := ⟨_, rfl⟩
  rw [← hu] at hb ⊢
  refine ⟨fun h => ?_, fun h => ⟨u, hb, ?_⟩⟩
  · dsimp only
    rw [if_pos h]
    exact hb
  · dsimp only
    rw [if_neg (by rw [h]; decide)]
    exact joinFail_fails hb.joining (by decide)

/-- What a failed join shows, counted from a state whose count is the same. -/
theorem JoinFailed.outcome {s u t : State} {code : Nat} (h : JoinFailed u t code) (hc : u.fld Ctr.TWIN_JOIN_FAIL.f = s.fld Ctr.TWIN_JOIN_FAIL.f) :
    t.twin.joining = false ∧ t.twin.joinF = none ∧ t.twin.recs = [] ∧ t.fld ⟨0xC0B4, 0, 4⟩ = code ∧ t.segs = []
      ∧ t.fld Ctr.TWIN_JOIN_FAIL.f = min (2 ^ 32 - 1) (s.fld Ctr.TWIN_JOIN_FAIL.f + 1) ∧ t.bit (bitAt 0xC010 6) = true := by
  have ht := h.twin
  exact ⟨by rw [ht]; rfl, by rw [ht]; rfl, by rw [ht]; rfl, h.code, h.segs, h.count.trans (by rw [hc]), h.event⟩

/-! #### Segments (R475) -/

/-- The meter copies after a save that came with a segment. -/
def MetNv.taken (save : Option MetSave) (n : MetNv) : MetNv :=
  match save with
  | none => n
  | some m => if n.next = 0 then { n with a := some m, next := 1 } else { n with b := some m, next := 0 }

/-- The copy table's record of a segment, with one more try, its size and its check word. -/
def State.segTried (s : State) (seg size : Nat) (crc : Word) : State :=
  ((s.tset 0x0C00 seg 0 0 3 (s.tfld 0x0C00 seg 0 0 3 + 1)).twr 0x0C00 seg 1 (BitVec.ofNat 32 size)).twr 0x0C00 seg 2 crc

section
variable {s : State} {seg size : Nat} {ok : Bool} {crc : Word} {d : SegData}

theorem segTried_keeps (s : State) (seg size : Nat) (crc : Word) : Keeps [.tbl] s (s.segTried seg size crc) :=
  twr_keeps (twr_keeps (tset_keeps (Keeps.refl _ s) (List.Subset.refl _)) (List.Subset.refl _)) (List.Subset.refl _)

/-- A commit's state bits; the segment's other words stay. -/
theorem tfld_segState {st : Nat} : ((s.segTried seg size crc).tset 0x0C00 seg 0 30 2 st).tfld 0x0C00 seg 0 30 2 = st % 4 :=
  tfld_tset_self (by decide)

theorem tfld_segTries {st : Nat} : ((s.segTried seg size crc).tset 0x0C00 seg 0 30 2 st).tfld 0x0C00 seg 0 0 3 = (s.tfld 0x0C00 seg 0 0 3 + 1) % 8 := by
  unfold State.segTried
  rw [tfld_tset_apart (.inr (.inr (by decide))), tfld_twr_word (by decide), tfld_twr_word (by decide), tfld_tset_self (by decide)]
  rfl

theorem trd_segTried {st : Nat} : ((s.segTried seg size crc).tset 0x0C00 seg 0 30 2 st).trd 0x0C00 seg 1 = BitVec.ofNat 32 size
    ∧ ((s.segTried seg size crc).tset 0x0C00 seg 0 30 2 st).trd 0x0C00 seg 2 = crc := by
  unfold State.segTried
  refine ⟨?_, ?_⟩
  · exact (trd_twr_word (by decide)).trans ((trd_twr_word (by decide)).trans trd_twr_self)
  · exact (trd_twr_word (by decide)).trans trd_twr_self

/-- A segment that is awaited: a join runs, the line to the partner is up, and it has not been committed. -/
theorem execSegmentCommit_comes (hj : s.twin.joining = true) (hs : seg < 10) (hl : s.lineUp 4 = true) (hn : s.tfld 0x0C00 seg 0 30 2 ≠ 2) :
    exec (.segmentCommit seg ok size crc d) s = .next (
      let s1 := s.segTried seg size crc
      if ok then
        let s2 : State := { s1.tset 0x0C00 seg 0 30 2 2 with segs := s1.segs ++ [(seg, d)] }
        if seg = 0 ∧ s2.mstate = 3 then
          s2.metNvMod (MetNv.taken d.metSave)
        else s2
      else if 4 ≤ s.tfld 0x0C00 seg 0 0 3 + 1 then (s1.tset 0x0C00 seg 0 30 2 3).joinFail 2
      else s1.tset 0x0C00 seg 0 30 2 1) :=
  next_congr ((if_neg (by simp [hj, hl, beq_eq_false_iff_ne.2 hn]; omega)).trans rfl)

/-- A segment that has come otherwise has no effect. -/
theorem execSegmentCommit_other (h : ¬ (s.twin.joining = true ∧ seg < 10 ∧ s.lineUp 4 = true ∧ s.tfld 0x0C00 seg 0 30 2 ≠ 2)) :
    exec (.segmentCommit seg ok size crc d) s = .next s :=
  next_congr (if_pos (by
    by_contra hc
    simp only [Bool.or_eq_true, Bool.not_eq_true', decide_eq_true_eq, beq_iff_eq, not_or, Nat.not_le, Bool.not_eq_false] at hc
    exact h ⟨hc.1.1.1, hc.1.1.2, hc.1.2, hc.2⟩))

theorem segment_verified (hj : s.twin.joining = true) (hs : seg < 10) (hl : s.lineUp 4 = true) (hn : s.tfld 0x0C00 seg 0 30 2 ≠ 2) :
    runs (.segmentCommit seg true size crc d) s (fun t => t.tfld 0x0C00 seg 0 30 2 = 2 ∧ t.segs = s.segs ++ [(seg, d)]
      ∧ t.trd 0x0C00 seg 1 = BitVec.ofNat 32 size ∧ t.trd 0x0C00 seg 2 = crc ∧ t.regs = s.regs ∧ t.twin = s.twin
      ∧ (seg ≠ 0 ∨ s.mstate ≠ 3 ∨ d.metSave = none → t.metNv = s.metNv)
      ∧ (∀ m, seg = 0 → s.mstate = 3 → d.metSave = some m → if s.metNv.next = 0 then t.metNv = { s.metNv with a := some m, next := 1 }
          else t.metNv = { s.metNv with b := some m, next := 0 })) := by
  obtain ⟨v, hv⟩ : ∃ v, v = (s.segTried seg size crc).tset 0x0C00 seg 0 30 2 2 := ⟨_, rfl⟩
  have hk : Keeps [.tbl] s v := hv ▸ tset_keeps (segTried_keeps s seg size crc) (List.Subset.refl _)
  have h1 : v.tfld 0x0C00 seg 0 30 2 = 2 := hv ▸ tfld_segState
  have h2 : v.trd 0x0C00 seg 1 = BitVec.ofNat 32 size := hv ▸ trd_segTried.1
  have h3 : v.trd 0x0C00 seg 2 = crc := hv ▸ trd_segTried.2
  have hr : v.regs = s.regs := hk.only .regs (by decide)
  have ht : v.twin = s.twin := hk.only .twin (by decide)
  have hm : v.metNv = s.metNv := hk.only .metNv (by decide)
  have hg : (s.segTried seg size crc).segs = s.segs := (segTried_keeps s seg size crc).only .segs (by decide)
  obtain ⟨u, hu⟩ : ∃ u : State, u = { v with segs := s.segs ++ [(seg, d)] } := ⟨_, rfl⟩
  have um : u.mstate = s.mstate := fld_of_regs (by rw [hu]; exact hr) _
  have ut : u.tbl = v.tbl := by rw [hu]
  have hrun := execSegmentCommit_comes (ok := true) (size := size) (crc := crc) (d := d) hj hs hl hn
  dsimp only at hrun
  rw [if_pos rfl, hg, ← hv, ← hu, um] at hrun
  have hpost : ∀ t : State, t.tbl = v.tbl → t.segs = s.segs ++ [(seg, d)] → t.regs = s.regs → t.twin = s.twin →
      t.tfld 0x0C00 seg 0 30 2 = 2 ∧ t.segs = s.segs ++ [(seg, d)] ∧ t.trd 0x0C00 seg 1 = BitVec.ofNat 32 size ∧ t.trd 0x0C00 seg 2 = crc
        ∧ t.regs = s.regs ∧ t.twin = s.twin := fun t htb hsg hrg htw =>
    ⟨(tfld_of_tbl htb _ _ _ _ _).trans h1, hsg, (trd_of_tbl htb _ _ _).trans h2, (trd_of_tbl htb _ _ _).trans h3, hrg, htw⟩
  by_cases hc : seg = 0 ∧ s.mstate = 3
  · rw [if_pos hc] at hrun
    obtain ⟨t, htt⟩ : ∃ t, t = u.metNvMod (MetNv.taken d.metSave) := ⟨_, rfl⟩
    have hmet : t.metNv = MetNv.taken d.metSave s.metNv := by
      rw [htt, ← hm, hu]
      rfl
    rw [← htt] at hrun
    obtain ⟨p1, p2, p3, p4, p5, p6⟩ := hpost t (htt ▸ ut) (by rw [htt, hu]; rfl) (by rw [htt, hu]; exact hr) (by rw [htt, hu]; exact ht)
    refine runs_intro hrun ⟨p1, p2, p3, p4, p5, p6, fun h => ?_, fun m _ _ hd => ?_⟩
    · have hd : d.metSave = none := by
        rcases h with h | h | h
        · exact absurd hc.1 h
        · exact absurd hc.2 h
        · exact h
      rw [hmet, hd]
      rfl
    · rw [hmet, hd]
      unfold MetNv.taken
      split
      · rfl
      · rfl
  · rw [if_neg hc] at hrun
    obtain ⟨p1, p2, p3, p4, p5, p6⟩ := hpost u ut (by rw [hu]) (by rw [hu]; exact hr) (by rw [hu]; exact ht)
    exact runs_intro hrun ⟨p1, p2, p3, p4, p5, p6, fun _ => by rw [hu]; exact hm, fun m h1 h2 => absurd ⟨h1, h2⟩ hc⟩

/-- A segment that fails is sent again, up to three times. -/
theorem segment_again (hj : s.twin.joining = true) (hs : seg < 10) (hl : s.lineUp 4 = true) (hn : s.tfld 0x0C00 seg 0 30 2 ≠ 2)
    (h3 : s.tfld 0x0C00 seg 0 0 3 < 3) : runs (.segmentCommit seg false size crc d) s (fun t => t.tfld 0x0C00 seg 0 30 2 = 1
      ∧ t.tfld 0x0C00 seg 0 0 3 = s.tfld 0x0C00 seg 0 0 3 + 1 ∧ s.onlyIn t [.tbl]) := by
  have hrun := execSegmentCommit_comes (ok := false) (size := size) (crc := crc) (d := d) hj hs hl hn
  dsimp only at hrun
  rw [if_neg (by decide), if_neg (by omega)] at hrun
  exact runs_intro hrun ⟨tfld_segState, tfld_segTries.trans (Nat.mod_eq_of_lt (by omega)),
    (tset_keeps (segTried_keeps s seg size crc) (List.Subset.refl _)).only⟩

/-- The fourth failure of a segment ends the join. -/
theorem segment_fails (hj : s.twin.joining = true) (hs : seg < 10) (hl : s.lineUp 4 = true) (hn : s.tfld 0x0C00 seg 0 30 2 ≠ 2)
    (h3 : 3 ≤ s.tfld 0x0C00 seg 0 0 3) : runs (.segmentCommit seg false size crc d) s (fun t => t.tfld 0x0C00 seg 0 30 2 = 3
      ∧ t.twin.joining = false ∧ t.twin.joinF = none ∧ t.twin.recs = [] ∧ t.fld ⟨0xC0B4, 0, 4⟩ = 2 ∧ t.segs = []
      ∧ t.fld Ctr.TWIN_JOIN_FAIL.f = min (2 ^ 32 - 1) (s.fld Ctr.TWIN_JOIN_FAIL.f + 1) ∧ t.bit (bitAt 0xC010 6) = true) := by
  have hrun := execSegmentCommit_comes (ok := false) (size := size) (crc := crc) (d := d) hj hs hl hn
  dsimp only at hrun
  rw [if_neg (by decide), if_pos (by omega)] at hrun
  obtain ⟨v, hv⟩ : ∃ v, v = (s.segTried seg size crc).tset 0x0C00 seg 0 30 2 3 := ⟨_, rfl⟩
  have hk : Keeps [.tbl] s v := hv ▸ tset_keeps (segTried_keeps s seg size crc) (List.Subset.refl _)
  have hr : v.regs = s.regs := hk.only .regs (by decide)
  have ht : v.twin = s.twin := hk.only .twin (by decide)
  have h1 : v.tfld 0x0C00 seg 0 30 2 = 3 := hv ▸ tfld_segState
  rw [← hv] at hrun
  have hf := joinFail_fails (s := v) (code := 2) (by rw [ht, hj]) (by decide)
  refine runs_intro hrun ⟨?_, hf.outcome (fld_of_regs hr _)⟩
  rw [← h1]
  exact congrArg (wbits · 30 2) (trd_of_tblBut hf.near.tbl (by omega) (by decide) (by unfold evTbl; decide))

end

/-! #### The replay and the end of a join (R476, R477) -/

theorem twin_overlay (s : State) (d : SegData) : (s.overlay d).twin = { s.twin with fhi := d.fhi.getD s.twin.fhi } := rfl

theorem foldl_overlay (l : List (Nat × SegData)) : ∀ s : State, ∃ x, (l.foldl (fun a e => a.overlay e.2) s).twin = { s.twin with fhi := x } := by
  induction l with
  | nil => exact fun s => ⟨s.twin.fhi, rfl⟩
  | cons e l ih =>
    intro s
    obtain ⟨x, hx⟩ := ih (s.overlay e.2)
    exact ⟨x, hx⟩

theorem replayEnd_ends {s : State} (d : SegData) (h3 : s.mstate = 3) (hj : s.twin.joining = true) (hr : s.twin.replayed = false)
    (hl : s.segs.length = 10) : runs (.replayEnd d) s (fun t => t.twin.replayed = true ∧ t.twin.recs = [] ∧ t.twin.joining = true
      ∧ t.twin.instep = s.twin.instep
      ∧ (∀ r, s.twin.recs.getLast? = some r → t.twin.exec = some r.fno) ∧ (s.twin.recs = [] → t.twin.exec = s.twin.joinF)) := by
  obtain ⟨x, hx⟩ := foldl_overlay s.segs s
  obtain ⟨u, hu⟩ : ∃ u, u = (s.segs.foldl (fun a e => a.overlay e.2) s).overlay d := ⟨_, rfl⟩
  have ht : u.twin = { s.twin with fhi := d.fhi.getD x } := by
    rw [hu, twin_overlay, hx]
  have hrun : exec (.replayEnd d) s = .next (u.twinMod (fun t => { t with
      replayed := true, exec := (s.twin.recs.getLast?.map (·.fno)).orElse (fun _ => t.joinF), recs := [], run := none,
      execSec := (s.twin.recs.getLast?.map RecHdr.sec).getD 0, execLast := (s.twin.recs.getLast?.map RecHdr.frame).getD 0, stored := 0 })) :=
    next_congr ((if_neg (by simp [h3, hj, hr, hl])).trans (by rw [← hu]))
  refine runs_intro hrun ⟨rfl, rfl, (congrArg TwinSt.joining ht :).trans hj, (congrArg TwinSt.instep ht :), fun r h => ?_, fun h => ?_⟩
  · show (s.twin.recs.getLast?.map (·.fno)).orElse (fun _ => u.twin.joinF) = some r.fno
    rw [h]
    rfl
  · show (s.twin.recs.getLast?.map (·.fno)).orElse (fun _ => u.twin.joinF) = s.twin.joinF
    rw [h, ht]
    rfl

/-- The count and the event of a join that is done. -/
theorem joinDone_counts {u : State} : ((u.bump .TWIN_JOIN).raiseEv 0x0C 5).twin = u.twin ∧ ((u.bump .TWIN_JOIN).raiseEv 0x0C 5).bit (bitAt 0xC010 5) = true
    ∧ ((u.bump .TWIN_JOIN).raiseEv 0x0C 5).fld Ctr.TWIN_JOIN.f = (u.fld Ctr.TWIN_JOIN.f + 1) % 2 ^ 32
    ∧ ∀ a, a = 0x604C ∨ a = 0xC04C → ((u.bump .TWIN_JOIN).raiseEv 0x0C 5).rd a = u.rd a := by
  refine ⟨by rw [twin_raiseEv, twin_bump], bit_raiseEv_self (by decide) (by decide) (by decide) rfl, ?_, fun a ha => ?_⟩
  · rw [fld_raiseEv_apart (by decide) (by decide) (by decide) (by decide) (by decide)]
    exact fld_bump_wraps rfl (by decide)
  · rcases ha with rfl | rfl
    · rw [rd_raiseEv_apart (by decide) (by decide) (by decide) (by decide) (by decide)]
      exact rd_bump (by decide) (by decide)
    · rw [rd_raiseEv_apart (by decide) (by decide) (by decide) (by decide) (by decide)]
      exact rd_bump (by decide) (by decide)

/-- The frame count of a module that is in step again: after the record in execution, or by the partner's heartbeat. -/
def State.joinFno (s : State) : State :=
  match s.twin.run, s.twin.hb with
  | some r, _ => s.wr 0x604C (BitVec.ofNat 32 (r.fno + 1))
  | none, some p => s.wr 0x604C (BitVec.ofNat 32 (p.fno + b2n (!(s.twin.link || s.twin.tether))))
  | none, none => s

/-- The epoch of a module that is in step again: the partner's. -/
def State.joinEpoch (s : State) : State :=
  match s.twin.hb with
  | some p => s.wr 0xC04C (BitVec.ofNat 32 p.epoch)
  | none => s

theorem joinFno_shows (s : State) : Near (fun a => a = 0x604C) (fun _ => False) s s.joinFno ∧ s.joinFno.twin = s.twin
    ∧ (∀ r, s.twin.run = some r → s.joinFno.rd 0x604C = BitVec.ofNat 32 (r.fno + 1))
    ∧ (∀ p, s.twin.run = none → s.twin.hb = some p →
        s.joinFno.rd 0x604C = BitVec.ofNat 32 (if s.twin.link = true ∨ s.twin.tether = true then p.fno else p.fno + 1)) := by
  unfold State.joinFno
  cases hr : s.twin.run with
  | some r => exact ⟨near_wr (Near.refl _ _ s) rfl, twin_wr .., fun r' h => by cases h; exact rd_wr_self, fun _ h => nomatch h⟩
  | none => cases hh : s.twin.hb with
    | none => exact ⟨Near.refl _ _ s, rfl, (fun _ h => nomatch h), fun _ _ h => nomatch h⟩
    | some p =>
      refine ⟨near_wr (Near.refl _ _ s) rfl, twin_wr .., (fun _ h => nomatch h), fun p' _ h => ?_⟩
      cases h
      refine rd_wr_self.trans ?_
      cases s.twin.link <;> cases s.twin.tether <;> rfl

theorem joinEpoch_shows (s : State) : Near (fun a => a = 0xC04C) (fun _ => False) s s.joinEpoch ∧ s.joinEpoch.twin = s.twin
    ∧ (∀ p, s.twin.hb = some p → s.joinEpoch.rd 0xC04C = BitVec.ofNat 32 p.epoch) := by
  unfold State.joinEpoch
  cases hh : s.twin.hb with
  | none => exact ⟨Near.refl _ _ s, rfl, fun _ h => nomatch h⟩
  | some p => exact ⟨near_wr (Near.refl _ _ s) rfl, twin_wr .., fun p' h => by cases h; exact rd_wr_self⟩

/-- The standby module is in step (R477). -/
theorem joinDone_here {s : State} (hj : s.twin.joining = true) (h3 : s.mstate = 3) (hr : s.twin.replayed = true) (ha : s.twin.agreed = true) :
    runs .joinDone s (fun t => (t.twin.joining = false ∧ t.twin.joinF = none ∧ t.bit (bitAt 0xC010 5) = true
        ∧ t.fld Ctr.TWIN_JOIN.f = (s.fld Ctr.TWIN_JOIN.f + 1) % 2 ^ 32) ∧ t.twin.instep = true
      ∧ (∀ p, s.twin.hb = some p → t.rd 0xC04C = BitVec.ofNat 32 p.epoch)
      ∧ (∀ r, s.twin.run = some r → t.rd 0x604C = BitVec.ofNat 32 (r.fno + 1))
      ∧ (∀ p, s.twin.run = none → s.twin.hb = some p →
          t.rd 0x604C = BitVec.ofNat 32 (if s.twin.link = true ∨ s.twin.tether = true then p.fno else p.fno + 1))) := by
  obtain ⟨u, hu⟩ : ∃ u, u = s.twinMod (fun t => { t with joining := false, instep := true, replayed := false, joinF := none }) := ⟨_, rfl⟩
  have ut : u.twin = { s.twin with joining := false, instep := true, replayed := false, joinF := none } := by rw [hu]; rfl
  have hrun : exec .joinDone s = .next ((u.joinFno.joinEpoch.bump .TWIN_JOIN).raiseEv 0x0C 5) :=
    next_congr ((if_neg (by rw [hj]; decide)).trans ((if_pos (by rw [h3, hr, ha]; rfl)).trans (by rw [← hu]; rfl)))
  obtain ⟨f1, f2, f3, f4⟩ := joinFno_shows u
  obtain ⟨e1, e2, e3⟩ := joinEpoch_shows u.joinFno
  obtain ⟨c1, c2, c3, c4⟩ := joinDone_counts (u := u.joinFno.joinEpoch)
  rw [f2] at e3
  rw [ut] at f3 f4 e3
  have hc : u.joinFno.joinEpoch.fld Ctr.TWIN_JOIN.f = s.fld Ctr.TWIN_JOIN.f := by
    rw [fld_of_rd (f := Ctr.TWIN_JOIN.f) (e1.regs _ (by decide)), fld_of_rd (f := Ctr.TWIN_JOIN.f) (f1.regs _ (by decide)), hu]
    exact fld_twinMod ..
  have hf : ((u.joinFno.joinEpoch.bump .TWIN_JOIN).raiseEv 0x0C 5).rd 0x604C = u.joinFno.rd 0x604C :=
    (c4 _ (.inl rfl)).trans (e1.regs _ (by decide))
  have htw := c1.trans (e2.trans (f2.trans ut))
  exact runs_intro hrun ⟨⟨by rw [htw], by rw [htw], c2, c3.trans (by rw [hc])⟩, by rw [htw], fun p h => (c4 _ (.inr rfl)).trans (e3 p h),
    fun r h => hf.trans (f3 r h), fun p h1 h2 => hf.trans (f4 p h1 h2)⟩

/-- The active module sees it in its partner's heartbeat. -/
theorem joinDone_there {s : State} (hj : s.twin.joining = true) (h4 : s.mstate = 4) {p : PartnerHb} (hp : s.twin.hb = some p) (hi : p.instep = true) :
    runs .joinDone s (fun t => (t.twin.joining = false ∧ t.twin.joinF = none ∧ t.bit (bitAt 0xC010 5) = true
        ∧ t.fld Ctr.TWIN_JOIN.f = (s.fld Ctr.TWIN_JOIN.f + 1) % 2 ^ 32) ∧ t.twin.leftAt = none ∧ t.rd 0x604C = s.rd 0x604C) := by
  obtain ⟨u, hu⟩ : ∃ u, u = s.twinMod (fun t => { t with joining := false, joinF := none, leftAt := none }) := ⟨_, rfl⟩
  have ut : u.twin = { s.twin with joining := false, joinF := none, leftAt := none } := by rw [hu]; rfl
  have hrun : exec .joinDone s = .next ((u.bump .TWIN_JOIN).raiseEv 0x0C 5) :=
    next_congr ((if_neg (by rw [hj]; decide)).trans ((if_neg (by rw [h4]; simp)).trans
      ((if_pos (by rw [h4, hp]; exact hi)).trans (by rw [← hu]))))
  obtain ⟨c1, c2, c3, c4⟩ := joinDone_counts (u := u)
  have hr : u.regs = s.regs := hu ▸ rfl
  have htw := c1.trans ut
  refine runs_intro hrun ⟨⟨by rw [htw], by rw [htw], c2, c3.trans (by rw [fld_of_regs hr])⟩, by rw [htw], (c4 _ (.inl rfl)).trans ?_⟩
  unfold State.rd
  rw [hr]

theorem joinDone_idle {s : State} (h : s.twin.joining = false ∨ (¬ (s.mstate = 3 ∧ s.twin.replayed = true ∧ s.twin.agreed = true)
    ∧ ¬ (s.mstate = 4 ∧ ∃ p, s.twin.hb = some p ∧ p.instep = true))) : exec .joinDone s = .next s := by
  rcases h with h | ⟨h1, h2⟩
  · exact next_congr (if_pos (by rw [h]; rfl))
  · by_cases hj : s.twin.joining = true
    · refine next_congr ((if_neg (by rw [hj]; decide)).trans ((if_neg fun hc => h1 ?_).trans (if_neg fun hc => h2 ?_)))
      · simpa [and_assoc] using hc
      · simp only [Bool.and_eq_true, decide_eq_true_eq] at hc
        obtain ⟨h4, hi⟩ := hc
        cases hp : s.twin.hb with
        | none => rw [hp] at hi; exact absurd hi (by decide)
        | some p => rw [hp] at hi; exact ⟨h4, p, rfl, hi⟩
    · exact next_congr (if_pos (by simpa using hj))

/-- Settles O54: the start of a join, then its segments, its replay and its ends. -/
theorem joinsStartCopyAndEnd : Obligations.JoinsStartCopyAndEnd := by
  unfold Obligations.JoinsStartCopyAndEnd
  intro s f failed begun refused due
  have hbegun : begun s.joinStart := by
    obtain ⟨h1, h2⟩ := joinStart_begins s
    refine ⟨fun h => ?_, fun h => ?_⟩
    · have hb := h1 h
      exact ⟨hb.joining, hb.first, hb.at_, hb.shown, hb.segs, hb.anew, hb.regs, hb.only⟩
    · obtain ⟨u, hb, hf⟩ := h2 h
      exact hf.outcome (fld_of_rd (hb.regs _ (by decide)))
  refine ⟨fun h => ?_, fun h => ?_, fun h => ?_, fun h => ?_, fun seg ok size crc d => ?_, fun d => ?_, ?_, fun g hj hg hd => ?_, fun h => ?_,
    fun hj => ?_, fun hj => ?_⟩
  · have hn : ¬ (decide (s.mstate ≠ 4) || !s.cfg.pair || s.twin.joining || s.pState != some 3) = true := fun hc => h (by
      simpa [or_assoc] using hc)
    refine ⟨?_, fun hp => runs_intro (next_congr ?_) hbegun, fun hp => next_congr ?_⟩
    · unfold twinJoinCmd
      rw [if_neg hn]
      split <;> rfl
    · unfold twinJoinCmd
      rw [if_neg hn, if_pos hp]
    · unfold twinJoinCmd
      rw [if_neg hn, if_neg (by rw [hp]; decide)]
  · have hc : twinJoinCmd s = (s, .refused) := if_pos (by simpa [or_assoc] using h)
    exact ⟨next_congr (congrArg Prod.fst hc), congrArg Prod.snd hc⟩
  · obtain ⟨g, hg, h4, hp, ha, hj, ho, hd⟩ := h
    refine runs_intro (next_congr ?_) hbegun
    rw [hg]
    exact if_pos (by rw [h4, hp, ha, hj, ho]; simpa using hd)
  · refine next_congr ?_
    split
    · rfl
    · next g hg =>
      refine if_neg fun hc => h ⟨g, hg, ?_⟩
      simp only [Bool.and_eq_true, Bool.not_eq_true', decide_eq_true_eq] at hc
      obtain ⟨⟨⟨⟨⟨h4, hp⟩, ha⟩, hj⟩, ho⟩, hd⟩ := hc
      exact ⟨h4, hp, ha, hj, ho, hd⟩
  · refine ⟨fun ⟨hj, hs, hl, hn⟩ hok => ?_, fun ⟨hj, hs, hl, hn⟩ hok h3 => ?_, fun ⟨hj, hs, hl, hn⟩ hok h3 => ?_, execSegmentCommit_other⟩
    · subst hok
      exact segment_verified hj hs hl hn
    · subst hok
      exact segment_again hj hs hl hn h3
    · subst hok
      exact segment_fails hj hs hl hn h3
  · refine ⟨fun ⟨h3, hj, hr, hl⟩ => replayEnd_ends d h3 hj hr hl, fun h => next_congr (if_pos ?_)⟩
    by_contra hc
    simp only [Bool.or_eq_true, Bool.not_eq_true', decide_eq_true_eq, not_or, ne_eq, not_not, Bool.not_eq_true, Bool.not_eq_false] at hc
    exact h ⟨hc.1.1.1, hc.1.1.2, hc.1.2, hc.2⟩
  · exact ⟨fun hj ⟨h3, hr, ha⟩ => joinDone_here hj h3 hr ha, fun hj ⟨h4, p, hp, hi⟩ => joinDone_there hj h4 hp hi, joinDone_idle⟩
  · refine runs_intro (next_congr ?_) ((joinFail_fails hj (by decide)).outcome rfl)
    rw [hg]
    exact if_pos (by rw [hj]; simpa using hd)
  · refine next_congr ?_
    split
    · rfl
    · next g hg =>
      refine if_neg fun hc => ?_
      simp only [Bool.and_eq_true, decide_eq_true_eq] at hc
      rcases h with h | h
      · exact absurd (hc.1.symm.trans h) (by decide)
      · exact absurd hc.2 (Nat.not_le.2 (h g hg))
  · exact runs_intro (next_congr rfl) ((joinFail_fails hj (by decide)).outcome rfl)
  · exact next_congr (joinFail_idle hj)

end Sys2Proof.Machine
end

section
/-! ### Takeovers (R465) -/

namespace Sys2Proof.Machine

/-- The registers that a takeover writes after it has led: of the timebase, the comparators, the interrupt controller, the recorder, the sessions,
the networks and what follows them. A comparator beyond the 64 of the module (`big`) would lie anywhere above. -/
def gapReg (big : Prop) (a : Nat) : Prop :=
  pageOf a = 4 ∨ pageOf a = 5 ∨ pageOf a = 7 ∨ pageOf a = 8 ∨ pageOf a = 0x0B ∨ 0x10000 ≤ a ∨ (big ∧ 0x5000 ≤ a)

section
variable {big : Prop} {s t : State}

theorem gapReg_of_hiReg {a : Nat} (h : hiReg a) : gapReg big a := by
  unfold hiReg at h
  unfold gapReg
  rcases h with h | h | h
  · exact .inr (.inr (.inr (.inr (.inr (.inl (by omega))))))
  · exact .inr (.inr (.inl h))
  · exact .inr (.inr (.inr (.inl h)))

theorem gapReg_of_evReg {p a : Nat} (hp : p = 4 ∨ p = 5) (h : evReg p a) : gapReg big a := by
  have h : a = addrOf p 0x10 ∨ a = addrOf p 0x28 ∨ pageOf a = 7 ∨ pageOf a = 8 := by
    unfold evReg at h
    simp only [pageOf_eq] at h ⊢
    omega
  unfold gapReg
  rcases hp with rfl | rfl
  · rcases h with rfl | rfl | h | h
    · exact .inl rfl
    · exact .inl rfl
    · exact .inr (.inr (.inl h))
    · exact .inr (.inr (.inr (.inl h)))
  · rcases h with rfl | rfl | h | h
    · exact .inr (.inl rfl)
    · exact .inr (.inl rfl)
    · exact .inr (.inr (.inl h))
    · exact .inr (.inr (.inr (.inl h)))

theorem gapReg_of_icuReg {a : Nat} (h : icuReg a) : gapReg big a := gapReg_of_hiReg (hiReg_of_farReg (farReg_of_icuReg h))

/-- The registers of a comparator. -/
theorem gapReg_lnchReg {n : Nat} (h : n < 64 ∨ big) : gapReg big (lnchReg n 12) := by
  rcases h with h | h
  · exact .inr (.inl (low_lnchReg h).2.2.2)
  · exact .inr (.inr (.inr (.inr (.inr (.inr ⟨h, by unfold lnchReg; omega⟩)))))

/-- A signal of any source, however high its number. -/
theorem near_signal_any {p : Nat → Prop} {src : Nat} (h : Near p (fun _ => True) s t) (hp : ∀ a, icuReg a → p a) : Near p (fun _ => True) s (t.signal src) := by
  unfold State.signal
  refine near_ite' h (near_icuEval ?_ hp)
  have h1 : Near p (fun _ => True) s (t.srcSet src 29 1 1) := near_tset h trivial
  exact near_ite' (near_tset (near_tset h1 trivial) trivial) (near_tset h1 trivial)

section
variable {a : LnchArm} {b : LateBy} {off : Nat} {i : Nat × Nat} (hn : a.n < 64 ∨ big)
include hn

theorem near_lnchEnd (h : Near (gapReg big) (fun _ => True) s t) : Near (gapReg big) (fun _ => True) s (t.lnchEnd a.n) := by
  have h1 : Near (gapReg big) (fun _ => True) s { t with lnch := t.lnch.filter (fun x => x.n != a.n) } := near_same h rfl rfl
  exact near_setB h1 (gapReg_lnchReg hn)

theorem near_lnchFire {late : Bool} (h : Near (gapReg big) (fun _ => True) s t) : Near (gapReg big) (fun _ => True) s (t.lnchFire a late b off i) := by
  have h1 : Near (gapReg big) (fun _ => True) s (((t.lnchEnd a.n).setB (lnchStat a.n 23) true).lnchAct a off) :=
    (near_setB (near_lnchEnd hn h) (gapReg_lnchReg hn)).trans ((near_lnchAct _ a off).mono (fun _ => gapReg_of_hiReg) fun _ _ => trivial)
  have h2 : Near (gapReg big) (fun _ => True) s (if late then
      (((((t.lnchEnd a.n).setB (lnchStat a.n 23) true).lnchAct a off).setB (lnchStat a.n 24) true).bump .TIME_LATE).raiseEv 5 0
      else ((t.lnchEnd a.n).setB (lnchStat a.n 23) true).lnchAct a off) :=
    near_ite' (near_raiseEv (near_bump (near_setB h1 (gapReg_lnchReg hn)) (.inl rfl) (.inl rfl)) (by decide)
      (fun _ => gapReg_of_evReg (.inr rfl)) fun _ _ => trivial) h1
  exact near_signal_any (h2.trans ((near_privFired _ _ _ _ _ _).mono (fun _ hx => gapReg_of_hiReg (hiReg_of_farReg hx)) fun _ h => h))
    fun _ => gapReg_of_icuReg

theorem near_lnchLate {late : Nat} (h : Near (gapReg big) (fun _ => True) s t) : Near (gapReg big) (fun _ => True) s (t.lnchLate a late b off i) := by
  unfold State.lnchLate
  extract_lets s1 grace s2
  have h1 : Near (gapReg big) (fun _ => True) s s1 := near_setF h (gapReg_lnchReg hn)
  have h2 : Near (gapReg big) (fun _ => True) s s2 :=
    near_raiseEv (near_bump (near_setB (near_lnchEnd hn h1) (gapReg_lnchReg hn)) (.inl rfl) (.inl rfl)) (by decide)
      (fun _ => gapReg_of_evReg (.inr rfl)) fun _ _ => trivial
  exact near_ite' (near_lnchFire hn h1) (near_ite' (near_lnchFire hn h1)
    (h2.trans ((near_privFired _ _ _ _ _ _).mono (fun _ hx => gapReg_of_hiReg (hiReg_of_farReg hx)) fun _ h => h)))

end

theorem near_gapLaunches (hl : ∀ a ∈ t.lnch, a.n < 64 ∨ big) (h : Near (gapReg big) (fun _ => True) s t) :
    Near (gapReg big) (fun _ => True) s t.gapLaunches := by
  unfold State.gapLaunches
  refine near_foldl h fun u e he hu => ?_
  dsimp only
  exact near_ite' hu (near_lnchLate (hl e he) hu)

theorem near_takeSessions (h : Near (gapReg big) (fun _ => True) s t) : Near (gapReg big) (fun _ => True) s t.takeSessions := by
  unfold State.takeSessions
  refine near_foldl h fun u i _ hu => ?_
  extract_lets b
  have hb : Near (gapReg big) (fun _ => True) s b := near_sessMod hu
  refine near_ite' ?_ hb
  unfold sendNotify
  exact near_same (near_bumpW (near_sessMod hb) (.inr (.inr (.inr (.inr (.inl (by decide))))) ) rfl) rfl rfl

theorem near_prpSupervise (h : Near (gapReg big) (fun _ => True) s t) : Near (gapReg big) (fun _ => True) s t.prpSupervise := by
  unfold State.prpSupervise
  have h1 : Near (gapReg big) (fun _ => True) s t.countTx := h.trans ((near_countTx t).mono (fun a ha => by
    unfold gspReg at ha
    unfold gapReg
    rcases ha with ⟨ha, -⟩ | ha | ha | ha
    · exact .inr (.inr (.inr (.inr (.inr (.inl ha)))))
    · exact .inr (.inr (.inr (.inr (.inr (.inl (by omega))))))
    · exact .inr (.inr (.inl ha))
    · exact .inr (.inr (.inr (.inl ha)))) fun _ => False.elim)
  have h2 : ∀ (l : List Nat) (k : Nat), Near (gapReg big) (fun _ => True) s (l.foldl (fun a p => a.emit (.prpSup p k)) t.countTx) := fun l k =>
    near_foldl h1 fun _ _ _ hu => near_same hu rfl rfl
  exact near_same (h2 t.sendPorts t.snet.prpSeq) rfl rfl

end

/-! #### The takeover itself -/

/-- The twin's part of a module that has taken over. -/
def TwinSt.led (q : TwinSt) : TwinSt :=
  { q with
    run := none, recs := [], declared := false, passed := false, isolated := false, instep := false, agreed := false, joining := false,
    joinF := none, replayed := false, exec := none, closed := true, notClosed := 0, leftAt := none, lost := false, handover := false }

/-- The module leads: its epoch, its state, its count and the frame and second of the takeover. -/
def State.takeLead (s : State) : State :=
  let s1 := s.gapGrace.twinMod TwinSt.led
  let s2 := (s1.wr 0xC04C (BitVec.ofNat 32 (s1.epoch + 1))).goto 4
  ((s2.bump .TWIN_TAKEOVER).wr 0xC070 (BitVec.ofNat 32 (s2.ownFno + 1))).wr 0xC074 (lo32 (Int.fdiv s2.nextTick 1000000000).toNat)

/-- The plant ports' frames that wait are withdrawn. -/
def State.busesAnew (s : State) : State :=
  [0, 1].foldl (fun a p => ((a.canP p).pend.foldl (fun b e => b.canWithdraw p e.1) a).canMod p (fun c =>
    { c with integ := true, first := true, tail := none, ref := none, refDly := none, priv := [] })) s

/-- What the takeover sends and fires, before its event. -/
def State.takeTail (s : State) : State :=
  let s5 := (((s.busesAnew.prpSupervise).arpSend 0).arpSend 1).privTakeover
  let s6 := ((s5.gapLaunches).takeSessions).timeMod (fun t => { t with twinFno := none })
  (s6.timeEval).servoHold

theorem takeOver_eq (s : State) : s.takeOver = s.takeLead.takeTail.raiseEv 0x0C 1 := rfl

theorem busesAnew_keeps (s : State) : Keeps [.tbl, .can] s s.busesAnew := by
  unfold State.busesAnew
  refine keeps_foldl (Keeps.refl _ s) fun a p ha => canMod_keeps ?_ (by decide)
  exact keeps_foldl ha fun b e hb => canWithdraw_keeps hb (by decide)

theorem near_takeTail {big : Prop} {s : State} (hl : ∀ a ∈ s.lnch, a.n < 64 ∨ big) : Near (gapReg big) (fun _ => True) s s.takeTail := by
  unfold State.takeTail
  extract_lets s5 s6
  have hb := busesAnew_keeps s
  have h4 : Near (gapReg big) (fun _ => True) s s.busesAnew := ⟨regsBut_of_regs (hb.only .regs (by decide)) _, fun _ hk => absurd trivial hk⟩
  have harp : ∀ (u : State) p, Near (gapReg big) (fun _ => True) s u → Near (gapReg big) (fun _ => True) s (u.arpSend p) := fun u p hu =>
    near_ite' (near_same hu rfl rfl) hu
  have h5 : Near (gapReg big) (fun _ => True) s s5 := near_same (harp _ 1 (harp _ 0 (near_prpSupervise h4))) rfl rfl
  have hk : Keeps [.regs, .tbl, .can, .snet, .sent, .priv] s s5 :=
    privTakeover_keeps (arpSend_keeps (arpSend_keeps (prpSupervise_keeps (hb.mono (by decide)) (by decide)) (by decide)) (by decide)) (by decide)
  have hl5 : s5.lnch = s.lnch := hk.only .lnch (by decide)
  have h6 : Near (gapReg big) (fun _ => True) s s6 := near_timeMod (near_takeSessions (near_gapLaunches (fun a ha => hl a (hl5 ▸ ha)) h5))
  have ht : ∀ a, timeReg a = true → gapReg big a := fun a ha => by
    unfold timeReg at ha
    simp only [Bool.or_eq_true, beq_iff_eq] at ha
    unfold gapReg
    have : pageOf a = 4 ∨ pageOf a = 7 ∨ pageOf a = 8 := by
      simp only [pageOf_eq] at ha ⊢
      omega
    rcases this with h | h | h
    · exact .inl h
    · exact .inr (.inr (.inl h))
    · exact .inr (.inr (.inr (.inl h)))
  exact near_setB (near_wr (near_timeEval ht (fun _ _ => trivial) h6) (.inl rfl)) (.inl rfl)

theorem twin_takeTail (s : State) : s.takeTail.twin = s.twin := by
  have hk : Keeps [.regs, .tbl, .host, .items, .icu, .evr, .time, .snet, .can, .dio, .lnch, .priv, .sent] s s.takeTail :=
    servoHold_keeps (timeEval_keeps (timeMod_keeps (takeSessions_keeps (gapLaunches_keeps (privTakeover_keeps (arpSend_keeps (arpSend_keeps
      (prpSupervise_keeps ((busesAnew_keeps s).mono (by decide)) (by decide)) (by decide)) (by decide)) (by decide)) (by decide)) (by decide)) (by decide))
      (by decide)) (by decide)
  exact hk.only .twin (by decide)

theorem takeLead_shows (s : State) : s.takeLead.mstate = 4 ∧ s.takeLead.twin = s.twin.led ∧ s.takeLead.lnch = s.lnch ∧ s.takeLead.segs = s.segs
    ∧ s.takeLead.rd 0xC04C = s.rd 0xC04C + 1 ∧ s.takeLead.fld Ctr.TWIN_TAKEOVER.f = min (2 ^ 32 - 1) (s.fld Ctr.TWIN_TAKEOVER.f + 1)
    ∧ s.takeLead.rd 0xC070 = s.rd 0x604C + 1 := by
  unfold State.takeLead
  extract_lets s1 s2
  have hg : Keeps [.snet, .can] s s.gapGrace := gapGrace_keeps (Keeps.refl _ s) (List.Subset.refl _)
  have h1r : s1.regs = s.regs := hg.only .regs (by decide)
  have h1t : s1.twin = s.twin.led := congrArg TwinSt.led (hg.only .twin (by decide))
  have hs : s2.twin = s1.twin := twin_goto.trans (twin_wr ..)
  have hk : Keeps [.snet, .can, .twin, .regs, .icu, .tbl, .evr, .items] s s2 :=
    goto_keeps (wr_keeps (twinMod_keeps (hg.mono (by decide)) (by decide)) (by decide)) (by decide)
  have h1 : ∀ a, s1.rd a = s.rd a := fun a => by
    unfold State.rd
    rw [h1r]
  have he : s2.rd 0xC04C = s.rd 0xC04C + 1 := by
    refine (rd_goto (by decide)).trans (rd_wr_self.trans ?_)
    unfold State.epoch
    rw [h1]
    apply BitVec.eq_of_toNat_eq
    simp
  have hf : s2.rd 0x604C = s.rd 0x604C := (rd_goto (by decide)).trans ((rd_wr_apart (by decide)).trans (h1 _))
  have hc : s2.fld Ctr.TWIN_TAKEOVER.f = s.fld Ctr.TWIN_TAKEOVER.f :=
    fld_of_rd (f := Ctr.TWIN_TAKEOVER.f) ((rd_goto (by decide)).trans ((rd_wr_apart (by decide)).trans (h1 _)))
  refine ⟨?_, ?_, ?_, ?_, ?_, ?_, ?_⟩
  · refine (fld_wr_apart (by decide)).trans ((fld_wr_apart (by decide)).trans ((fld_bump_apart (by decide) (by decide)).trans ?_))
    exact mstate_goto (by decide)
  · rw [twin_wr, twin_wr, twin_bump, hs, h1t]
  · rw [lnch_wr, lnch_wr, lnch_bump]
    exact hk.only .lnch (by decide)
  · rw [segs_wr, segs_wr, segs_bump]
    exact hk.only .segs (by decide)
  · rw [rd_wr_apart (by decide), rd_wr_apart (by decide), rd_bump (by decide) (by decide), he]
  · rw [fld_wr_apart (by decide), fld_wr_apart (by decide), ← hc]
    exact fld_bump_stays rfl (by decide) (.inl (by decide))
  · rw [rd_wr_apart (by decide), rd_wr_self]
    unfold State.ownFno
    rw [fld_of_rd (f := wordAt 0x604C) hf]
    apply BitVec.eq_of_toNat_eq
    unfold State.fld
    simp [wordAt, wbits, BitVec.toNat_add]

/-- What a takeover leaves (R465); its epoch, its count and its tick where the comparators are the module's own. -/
theorem takeOver_shows (s : State) : s.takeOver.mstate = 4 ∧ s.takeOver.bit (bitAt 0xC010 1) = true ∧ s.takeOver.twin = s.twin.led
    ∧ ((∀ a ∈ s.lnch, a.n < 64) → s.takeOver.rd 0xC04C = s.rd 0xC04C + 1
        ∧ s.takeOver.fld Ctr.TWIN_TAKEOVER.f = min (2 ^ 32 - 1) (s.fld Ctr.TWIN_TAKEOVER.f + 1) ∧ s.takeOver.rd 0xC070 = s.rd 0x604C + 1) := by
  obtain ⟨l1, l2, l3, -, l5, l6, l7⟩ := takeLead_shows s
  have ht := near_takeTail (big := True) (s := s.takeLead) fun _ _ => .inr trivial
  rw [takeOver_eq]
  refine ⟨?_, bit_raiseEv_self (by decide) (by decide) (by decide) rfl, ?_, fun hl => ?_⟩
  · refine (fld_raiseEv_apart (by decide) (by decide) (by decide) (by decide) (by decide)).trans (Eq.trans ?_ l1)
    exact fld_of_rd (f := ⟨0x0054, 28, 4⟩) (ht.regs _ (by unfold gapReg; decide))
  · rw [twin_raiseEv, twin_takeTail, l2]
  · have hn := near_takeTail (big := False) (s := s.takeLead) fun a ha => .inl (hl a (l3 ▸ ha))
    have hrd : ∀ a, a = 0xC04C ∨ a = 0xC080 ∨ a = 0xC070 → (s.takeLead.takeTail.raiseEv 0x0C 1).rd a = s.takeLead.rd a := fun a ha => by
      refine Eq.trans ?_ (hn.regs a (by
        unfold gapReg
        simp only [pageOf_eq, false_and, or_false]
        omega))
      rcases ha with rfl | rfl | rfl
      · exact rd_raiseEv_apart (by decide) (by decide) (by decide) (by decide) (by decide)
      · exact rd_raiseEv_apart (by decide) (by decide) (by decide) (by decide) (by decide)
      · exact rd_raiseEv_apart (by decide) (by decide) (by decide) (by decide) (by decide)
    exact ⟨(hrd _ (.inl rfl)).trans l5, (fld_of_rd (f := Ctr.TWIN_TAKEOVER.f) (hrd _ (.inr (.inl rfl)))).trans l6, (hrd _ (.inr (.inr rfl))).trans l7⟩

end Sys2Proof.Machine
end

section
/-! ### Failure, isolation, takeover and switch-over (R463 to R465, R470, R480) -/

namespace Sys2Proof.Machine

section
variable {s t : State}

/-- A failed join shows its code, and what was received is discarded; counted from a state whose count is the same. -/
theorem JoinFailed.shows {u : State} {code : Nat} (h : JoinFailed u t code) (hc : u.fld Ctr.TWIN_JOIN_FAIL.f = s.fld Ctr.TWIN_JOIN_FAIL.f) :
    t.twin.joining = false ∧ t.fld ⟨0xC0B4, 0, 4⟩ = code ∧ t.segs = []
      ∧ t.fld Ctr.TWIN_JOIN_FAIL.f = min (2 ^ 32 - 1) (s.fld Ctr.TWIN_JOIN_FAIL.f + 1) := by
  obtain ⟨h1, -, -, h4, h5, h6, -⟩ := h.outcome hc
  exact ⟨h1, h4, h5, h6⟩

/-- The end of a join leaves the events of its page that stand. -/
theorem joinFail_event {code b : Nat} (h : s.bit (bitAt 0xC010 b) = true) : (s.joinFail code).bit (bitAt 0xC010 b) = true := by
  unfold State.joinFail
  split
  · exact h
  · refine bit_raiseEv_stays (p := 0x0C) (s := (s.setF ⟨0xC0B4, 0, 4⟩ code).bump .TWIN_JOIN_FAIL) (by decide) (by decide) (by decide) rfl ?_
    rw [bit_bump_apart (show 0xC010 ≠ 0xC098 by decide) (show 0xC010 ≠ 0xC0A4 by decide)]
    exact (bit_of_rd (f := bitAt 0xC010 b) (rd_setF_apart (f := ⟨0xC0B4, 0, 4⟩) (show 0xC010 ≠ 0xC0B4 by decide))).trans h

theorem mstate_joinFail {code : Nat} : (s.joinFail code).mstate = s.mstate := by
  by_cases hj : s.twin.joining = true
  · by_cases hc : code < 16
    · exact fld_of_rd (f := ⟨0x0054, 28, 4⟩) ((joinFail_fails hj hc).near.regs _ (not_joinReg (.inl rfl)))
    · unfold State.joinFail
      rw [if_neg (by rw [hj]; decide)]
      refine (fld_raiseEv_apart (s := (s.setF ⟨0xC0B4, 0, 4⟩ code).bump .TWIN_JOIN_FAIL) (f := ⟨0x0054, 28, 4⟩) (p := 0x0C) (b := 6)
        (by decide) (by decide) (by decide) (by decide) (by decide)).trans ?_
      exact (fld_bump_apart (by decide) (by decide)).trans (fld_setF_apart (.inl (by decide)))
  · rw [joinFail_idle (by simpa using hj)]

/-- PARTNER_LOST (R463). -/
theorem partnerLost_shows (h4 : s.mstate = 4) (hp : s.cfg.pair = true) (ho : s.twin.on = true) (hl : s.twin.lost = false)
    (hd : (2 ≤ s.twin.ticks ∧ s.twin.any = false ∧ s.twin.anyPrev = false)
      ∨ ((∃ p, s.twin.hb = some p ∧ (p.mstate = 5 ∨ p.mstate = 6)) ∧ (s.twin.any = true ∨ s.twin.anyPrev = true))) :
    runs .partnerLost s (fun t => t.twin.lost = true ∧ t.bit (bitAt 0xC010 0) = true ∧ t.mstate = 4
      ∧ (s.twin.joining = true → t.twin.joining = false ∧ t.fld ⟨0xC0B4, 0, 4⟩ = 6 ∧ t.segs = []
          ∧ t.fld Ctr.TWIN_JOIN_FAIL.f = min (2 ^ 32 - 1) (s.fld Ctr.TWIN_JOIN_FAIL.f + 1))
      ∧ (s.twin.joining = false → t.twin = { s.twin with lost := true, leftAt := none })) := by
  obtain ⟨u, hu⟩ : ∃ u, u = (s.twinMod (fun t => { t with lost := true, leftAt := none })).raiseEv 0x0C 0 := ⟨_, rfl⟩
  have ut : u.twin = { s.twin with lost := true, leftAt := none } := by
    rw [hu, twin_raiseEv]
    rfl
  have hrun : exec .partnerLost s = .next (u.joinFail 6) := next_congr ((if_pos (by
    rw [h4, hp, ho, hl]
    rcases hd with ⟨h1, h2, h3⟩ | ⟨⟨p, h1, h2⟩, h3⟩
    · simp [h1, h2, h3]
    · rw [h1]
      simp [h2, h3])).trans (by rw [← hu]))
  have hc : u.fld Ctr.TWIN_JOIN_FAIL.f = s.fld Ctr.TWIN_JOIN_FAIL.f := by
    rw [hu]
    exact (fld_raiseEv_apart (by decide) (by decide) (by decide) (by decide) (by decide)).trans (fld_twinMod ..)
  have hm : u.mstate = 4 := by
    rw [← h4, hu]
    exact (fld_raiseEv_apart (by decide) (by decide) (by decide) (by decide) (by decide)).trans (fld_twinMod ..)
  have hb : u.bit (bitAt 0xC010 0) = true := hu ▸ bit_raiseEv_self (by decide) (by decide) (by decide) rfl
  refine runs_intro hrun ⟨?_, joinFail_event hb, mstate_joinFail.trans hm, fun hj => ?_, fun hj => ?_⟩
  · by_cases hj : u.twin.joining = true
    · rw [(joinFail_fails hj (by decide)).twin, ut]
      rfl
    · rw [joinFail_idle (by simpa using hj), ut]
  · exact (joinFail_fails (by rw [ut]; exact hj) (by decide)).shows hc
  · rw [joinFail_idle (by rw [ut]; exact hj), ut]

/-- FAILURE_DECLARE (R463). -/
theorem failureDeclare_shows (h3 : s.mstate = 3) (hp : s.cfg.pair = true) (ho : s.twin.on = true) (hd : s.twin.declared = false) (hk : 2 ≤ s.twin.ticks)
    (hg : s.twin.good = false) (hg' : s.twin.goodPrev = false) :
    let ends := s.bit (bitAt 0xC040 1) = false ∧ s.twin.any = false ∧ s.twin.anyPrev = false ∧ s.twin.joining = true
    runs .failureDeclare s (fun t => t.twin.declared = true ∧ t.twin.passed = false ∧ t.twin.isoRaised = false
      ∧ (ends → t.twin.joining = false ∧ t.fld ⟨0xC0B4, 0, 4⟩ = 6 ∧ t.segs = []
          ∧ t.fld Ctr.TWIN_JOIN_FAIL.f = min (2 ^ 32 - 1) (s.fld Ctr.TWIN_JOIN_FAIL.f + 1))
      ∧ (¬ ends → s.onlyIn t [.twin] ∧ t.twin.joining = s.twin.joining)) := by
  intro ends
  obtain ⟨u, hu⟩ : ∃ u, u = s.twinMod (fun t => { t with declared := true, passed := false, isoRaised := false }) := ⟨_, rfl⟩
  have ut : u.twin = { s.twin with declared := true, passed := false, isoRaised := false } := hu ▸ rfl
  have ub : u.bit (bitAt 0xC040 1) = s.bit (bitAt 0xC040 1) := hu ▸ bit_twinMod ..
  have hrun : exec .failureDeclare s = .next (if s.bit (bitAt 0xC040 1) = true then u else u.joinStopped) := next_congr ((if_pos (by
    rw [h3, hp, ho, hd, hg, hg']
    simpa using hk)).trans (by
      dsimp only
      rw [← hu, ub]))
  have hstop : u.joinStopped = if s.twin.any || s.twin.anyPrev then u else u.joinFail 6 := by
    unfold State.joinStopped
    rw [ut]
  rw [hstop] at hrun
  by_cases he : ends
  · obtain ⟨e1, e2, e3, e4⟩ := he
    rw [if_neg (by rw [e1]; decide), if_neg (by rw [e2, e3]; decide)] at hrun
    have hf := joinFail_fails (s := u) (code := 6) (by rw [ut]; exact e4) (by decide)
    refine runs_intro hrun ⟨?_, ?_, ?_, fun _ => hf.shows (hu ▸ fld_twinMod ..), fun h => absurd ⟨e1, e2, e3, e4⟩ h⟩
    · rw [hf.twin, ut]
      rfl
    · rw [hf.twin, ut]
      rfl
    · rw [hf.twin, ut]
      rfl
  · have hsame : (if s.bit (bitAt 0xC040 1) = true then u else if s.twin.any || s.twin.anyPrev then u else u.joinFail 6) = u := by
      split
      · rfl
      · next h1 =>
        split
        · rfl
        · next h2 =>
          simp only [Bool.or_eq_true, not_or, Bool.not_eq_true] at h1 h2
          refine joinFail_idle ?_
          rw [ut]
          by_contra hj
          exact he ⟨h1, h2.1, h2.2, by simpa using hj⟩
    rw [hsame] at hrun
    refine runs_intro hrun ⟨by rw [ut], by rw [ut], by rw [ut], fun h => absurd h he, fun _ => ⟨?_, by rw [ut]⟩⟩
    rw [hu]
    exact twinMod_only s _

/-- ISOLATION_CHECK where a beacon has been seen (R464). -/
theorem isolated_shows (h3 : s.mstate = 3) (hd : s.twin.declared = true) (hl : s.lineUp 0 = true ∨ s.lineUp 1 = true)
    (hb : s.twin.beacon = true ∨ s.twin.beaconPrev = true) :
    runs .isolationCheck s (fun t => t.twin.passed = false ∧ t.twin.isolated = true ∧ t.twin.isoRaised = true
      ∧ (s.twin.isoRaised = false → t.fld Ctr.TWIN_ISOLATED.f = min (2 ^ 32 - 1) (s.fld Ctr.TWIN_ISOLATED.f + 1) ∧ t.bit (bitAt 0xC010 2) = true)
      ∧ (s.twin.joining = true → s.twin.any = false → s.twin.anyPrev = false → t.twin.joining = false ∧ t.fld ⟨0xC0B4, 0, 4⟩ = 6 ∧ t.segs = []
          ∧ t.fld Ctr.TWIN_JOIN_FAIL.f = min (2 ^ 32 - 1) (s.fld Ctr.TWIN_JOIN_FAIL.f + 1))
      ∧ (s.twin.isoRaised = true → s.twin.joining = false → s.onlyIn t [.twin])) := by
  obtain ⟨u, hu⟩ : ∃ u, u = s.joinStopped.twinMod (fun t => { t with passed := false, isolated := true, isoRaised := true }) := ⟨_, rfl⟩
  have ut : u.twin = { s.joinStopped.twin with passed := false, isolated := true, isoRaised := true } := hu ▸ rfl
  have hrun : exec .isolationCheck s = .next (if s.twin.isoRaised = true then u else (u.bump .TWIN_ISOLATED).raiseEv 0x0C 2) :=
    next_congr ((if_neg (by rw [h3, hd]; decide)).trans ((if_neg (by
      rcases hl with h | h
      · rw [h]; simp
      · rw [h]; simp)).trans ((if_pos (by simpa using hb)).trans (by
        dsimp only
        rw [← hu]))))
  obtain ⟨t, ht⟩ : ∃ t, t = if s.twin.isoRaised = true then u else (u.bump .TWIN_ISOLATED).raiseEv 0x0C 2 := ⟨_, rfl⟩
  rw [← ht] at hrun
  have htw : t.twin = u.twin := by
    rw [ht]
    split
    · rfl
    · rw [twin_raiseEv, twin_bump]
  have hidle : s.twin.joining = false → s.joinStopped = s := fun hj => by
    unfold State.joinStopped
    rw [joinFail_idle hj, ite_self]
  have hcount : u.fld Ctr.TWIN_ISOLATED.f = s.fld Ctr.TWIN_ISOLATED.f := by
    rw [hu]
    refine (fld_twinMod ..).trans ?_
    unfold State.joinStopped
    split
    · rfl
    · by_cases hj : s.twin.joining = true
      · exact fld_of_rd (f := Ctr.TWIN_ISOLATED.f)
          ((joinFail_fails hj (by decide)).near.regs _ (not_joinReg (.inr (.inr (.inr (.inr (.inr (.inl rfl))))))))
      · rw [joinFail_idle (by simpa using hj)]
  refine runs_intro hrun ⟨by rw [htw, ut], by rw [htw, ut], by rw [htw, ut], fun h => ?_, fun hj h1 h2 => ?_, fun h hj => ?_⟩
  · rw [ht, if_neg (by rw [h]; decide), ← hcount]
    refine ⟨?_, bit_raiseEv_self (by decide) (by decide) (by decide) rfl⟩
    rw [fld_raiseEv_apart (by decide) (by decide) (by decide) (by decide) (by decide)]
    exact fld_bump_stays rfl (by decide) (.inl (by decide))
  · have hs : s.joinStopped = s.joinFail 6 := if_neg (by rw [h1, h2]; decide)
    have hf := joinFail_fails (s := s) (code := 6) hj (by decide)
    rw [← hs] at hf
    obtain ⟨f1, f2, f3, f4⟩ := hf.shows rfl
    have hur : u.regs = s.joinStopped.regs := hu ▸ rfl
    have hus : u.segs = s.joinStopped.segs := hu ▸ rfl
    have hts : t.segs = u.segs := by
      rw [ht]
      split
      · rfl
      · rw [segs_raiseEv, segs_bump]
    have hrd : ∀ f : Fld, f.addr = 0xC0B4 ∨ f.addr = 0xC098 → t.fld f = u.fld f := fun f hf => by
      rw [ht]
      split
      · rfl
      · refine fld_of_rd ?_
        rcases hf with e | e
        · rw [e, rd_raiseEv_apart (by decide) (by decide) (by decide) (by decide) (by decide), rd_bump (by decide) (by decide)]
        · rw [e, rd_raiseEv_apart (by decide) (by decide) (by decide) (by decide) (by decide), rd_bump (by decide) (by decide)]
    refine ⟨by rw [htw, ut]; exact f1, (hrd _ (.inl rfl)).trans ((fld_of_regs hur _).trans f2), hts.trans (hus.trans f3),
      (hrd _ (.inr rfl)).trans ((fld_of_regs hur _).trans f4)⟩
  · rw [ht, if_pos h, hu, hidle hj]
    exact twinMod_only s _

theorem run_noteEnd (u : State) (l : Word) : (u.noteEnd l).opt.run = u.opt.run := by
  unfold State.noteEnd
  extract_lets s1
  have h1 : s1.opt.run = u.opt.run := (congrArg OptSt.run (opt_wr u 0x2504C l) :)
  split
  · rw [opt_bump, h1]
  · rw [opt_raiseEv, opt_bump, h1]

theorem run_optEnded (u : State) (c : Option HCmd) : (u.optEnded c).opt.run = u.opt.run := by
  cases c with
  | none => rfl
  | some c => rfl

theorem opt_complete' (u : State) (c : HCmd) (st : Status) (r : Word) : (u.complete c st r).opt = u.opt :=
  (complete_keeps (Keeps.refl _ u) (List.Subset.refl _)).only .opt (by decide)

theorem run_optClear (u : State) : (u.optMod (fun o => { o with run := none, done := none })).opt.run = none := rfl

/-- No solve runs once the running one has ended. -/
theorem run_endSolve (u : State) (code group stage index : Nat) : (u.endSolve code group stage index).opt.run = none := by
  unfold State.endSolve
  split
  · next hr => exact hr
  · next r _ =>
    extract_lets s1 s2 s3
    have h3 : s3.opt.run = none := by
      unfold s3 s2
      rw [run_optEnded, run_noteEnd, run_optClear]
    split
    · rw [opt_complete', h3]
    · exact h3

theorem run_dropSolve (u : State) : u.dropSolve.opt.run = none := by
  unfold State.dropSolve State.haltSolve
  extract_lets s1
  have h1 : s1.opt.run = none := run_endSolve ..
  split
  · exact h1
  · rw [opt_complete', run_optEnded]
    exact h1

theorem run_standDown (s : State) : s.standDown.opt.run = none := by
  have hrun := run_dropSolve (s.goto 3).standbyHold
  obtain ⟨u, hu⟩ : ∃ u, u = (s.goto 3).standbyHold.dropSolve := ⟨_, rfl⟩
  have hc : u.closeService.opt = u.opt := (closeService_keeps (Keeps.refl _ u) (List.Subset.refl _)).only .opt (by decide)
  have hl : ∀ (a : State) (f : TwinSt → TwinSt), (({ a.outOfStep with lnch := [] } : State).twinMod f).opt.run = a.opt.run := fun _ _ => rfl
  have hr : u.closeService.opt.run = none := by rw [hc, hu, hrun]
  unfold State.standDown
  extract_lets s1
  have h1 : s1 = u.closeService.outOfStep := by rw [hu]
  rw [h1]
  exact (hl _ _).trans hr

/-- The state that a cold takeover starts from: the image with the committed segments over it, and the nodes in INIT (R480). -/
def State.coldStart (s : State) : State :=
  let segs := (List.range 10).filterMap (fun i => s.segs.lookup i)
  let s1 := ((segs.foldl (fun a d => a.overlay d) s.coldLoad).epochUp).metPowerOff
  let s2 := s1.nodes.foldl (fun a n => a.nodeInit n) s1
  { s2 with segs := [] }

theorem segs_coldStart (s : State) : s.coldStart.segs = [] := rfl

theorem execTwinCold_eq (s : State) : exec .twinCold s = .next (
    if s.mstate = 3 && s.cfg.pair && s.twin.declared && s.twin.passed && !s.eligible' && s.bit (bitAt 0xC040 1) then
      (s.coldStart.tickEarly.takeOver.twinMod (fun t => { t with cold := true })).raiseEv 0x0C 7
    else s) := rfl

/-- TWIN_COLD (R480). -/
theorem twinCold_shows (h3 : s.mstate = 3) (hp : s.cfg.pair = true) (hd : s.twin.declared = true) (hc : s.twin.passed = true) (he : s.eligible' = false)
    (hb : s.bit (bitAt 0xC040 1) = true) :
    runs .twinCold s (fun t => t.mstate = 4 ∧ t.twin.cold = true ∧ t.bit (bitAt 0xC010 7) = true ∧ t.segs = []
      ∧ t.twin.declared = false ∧ t.twin.joining = false) := by
  have hrun := execTwinCold_eq s
  rw [if_pos (by rw [h3, hp, hd, hc, he, hb]; rfl)] at hrun
  obtain ⟨u, hu⟩ : ∃ u, u = s.coldStart := ⟨_, rfl⟩
  have hu0 : u.segs = [] := hu ▸ segs_coldStart s
  rw [← hu] at hrun
  obtain ⟨o1, -, o3, -⟩ := takeOver_shows u.tickEarly
  obtain ⟨v, hv⟩ : ∃ v, v = u.tickEarly.takeOver := ⟨_, rfl⟩
  have hs : v.segs = [] := by
    rw [hv, ← hu0]
    exact (takeOver_keeps (tickEarly_keeps (Keeps.refl [.regs, .tbl, .host, .items, .icu, .evr, .time, .snet, .can, .dio, .lnch, .priv, .twin, .sent] u)
      (by decide)) (by decide)).only .segs (by decide)
  rw [← hv] at hrun o1 o3
  have ht : ((v.twinMod (fun t => { t with cold := true })).raiseEv 0x0C 7).twin = { v.twin with cold := true } := twin_raiseEv ..
  refine runs_intro hrun ⟨?_, by rw [ht], bit_raiseEv_self (by decide) (by decide) (by decide) rfl, (segs_raiseEv ..).trans hs, ?_, ?_⟩
  · exact (fld_raiseEv_apart (by decide) (by decide) (by decide) (by decide) (by decide)).trans ((fld_twinMod ..).trans o1)
  · rw [ht, o3]
    rfl
  · rw [ht, o3]
    rfl

end

theorem canSwitch_iff (s : State) : s.canSwitch = true ↔ s.mstate = 4 ∧ s.cfg.pair = true ∧ s.twin.lost = false ∧ ∃ p, s.twin.hb = some p ∧ p.eligible = true := by
  unfold State.canSwitch
  cases s.twin.hb with
  | none => simp
  | some p =>
    simp only [Option.map_some, Option.getD_some, Bool.and_eq_true, beq_iff_eq, Bool.not_eq_true', Option.some.injEq, exists_eq_left']
    tauto

/-- Settles O53: each step by its condition. -/
theorem failureIsDeclaredCheckedAndTakenOver : Obligations.FailureIsDeclaredCheckedAndTakenOver := by
  unfold Obligations.FailureIsDeclaredCheckedAndTakenOver
  intro s one failed6
  refine ⟨?_, ?_, fun h3 hd => ⟨fun h0 h1 => ?_, fun hl => ⟨fun hb hb' => ?_, fun hb => isolated_shows h3 hd hl hb⟩⟩, fun h => ?_, ?_, ?_, fun h => ?_,
    fun h => ?_, canSwitch_iff s⟩
  · intro silent out due
    refine ⟨fun ⟨h4, hp, ho, hl, hd⟩ => partnerLost_shows h4 hp ho hl hd, fun h => next_congr (if_neg fun hc => h ?_)⟩
    simp only [Bool.and_eq_true, Bool.or_eq_true, Bool.not_eq_true', decide_eq_true_eq] at hc
    obtain ⟨⟨⟨⟨h4, hp⟩, ho⟩, hl⟩, hd⟩ := hc
    refine ⟨h4, hp, ho, hl, hd.imp (fun ⟨⟨h1, h2⟩, h3⟩ => ⟨h1, h2, h3⟩) fun hd => ?_⟩
    cases hh : s.twin.hb with
    | none =>
      rw [hh] at hd
      cases hd
    | some p =>
      rw [hh] at hd
      simp only [Bool.and_eq_true, Bool.or_eq_true, beq_iff_eq] at hd
      exact ⟨⟨p, hh, hd.1⟩, hd.2⟩
  · intro due ends
    refine ⟨fun ⟨h3, hp, ho, hd, hk, hg, hg'⟩ => failureDeclare_shows h3 hp ho hd hk hg hg', fun h => next_congr (if_neg fun hc => h ?_)⟩
    simp only [Bool.and_eq_true, Bool.not_eq_true', decide_eq_true_eq] at hc
    obtain ⟨⟨⟨⟨⟨⟨h3, hp⟩, ho⟩, hd⟩, hk⟩, hg⟩, hg'⟩ := hc
    exact ⟨h3, hp, ho, hd, hk, hg, hg'⟩
  · exact runs_intro (next_congr ((if_neg (by rw [h3, hd]; decide)).trans (if_pos (by rw [h0, h1]; rfl)))) ⟨rfl, twinMod_only s _⟩
  · refine runs_intro (next_congr ((if_neg (by rw [h3, hd]; decide)).trans ((if_neg ?_).trans (if_neg (by rw [hb, hb']; decide))))) ⟨rfl, twinMod_only s _⟩
    rcases hl with h | h
    · rw [h]; simp
    · rw [h]; simp
  · exact next_congr (if_pos (by
      rcases h with h | h
      · simp [h]
      · simp [h]))
  · intro takes
    refine ⟨fun ⟨h3, hp, hh⟩ => ?_, fun h => next_congr (if_neg fun hc => h ?_)⟩
    · obtain ⟨o1, o2, o3, o4⟩ := takeOver_shows s.tickEarly
      have hk : Keeps [.icu] s s.tickEarly := tickEarly_keeps (Keeps.refl _ s) (List.Subset.refl _)
      have hr : s.tickEarly.regs = s.regs := hk.only .regs (by decide)
      have hrd : ∀ a, s.tickEarly.rd a = s.rd a := fun a => by
        unfold State.rd
        rw [hr]
      have hln : s.tickEarly.lnch = s.lnch := hk.only .lnch (by decide)
      refine runs_intro (next_congr (if_pos ?_)) ⟨o1, o2, by rw [o3]; rfl, by rw [o3]; rfl, by rw [o3]; rfl, by rw [o3]; rfl, by rw [o3]; rfl, fun hn => ?_⟩
      · rw [h3, hp]
        rcases hh with h | ⟨h, h', h''⟩
        · rw [h]; rfl
        · rw [h, h', h'']
          simp
      · obtain ⟨p1, p2, p3⟩ := o4 (by rw [hln]; exact hn)
        exact ⟨p1.trans (by rw [hrd]), p2.trans (by rw [fld_of_regs hr]), p3.trans (by rw [hrd])⟩
    · simpa [and_assoc] using hc
  · intro cold
    refine ⟨fun ⟨h3, hp, hd, hc, he, hb⟩ => twinCold_shows h3 hp hd hc he hb, fun h => next_congr (if_neg fun hc => h ?_)⟩
    simpa [and_assoc] using hc
  · have hc : twinSwitchCmd s = ((s.emit (.handover ((s.ownFno + 2 ^ 32 - 1) % 2 ^ 32))).standDown, .ok) := if_pos h
    exact ⟨congrArg Prod.snd hc, runs_intro (next_congr (congrArg Prod.fst hc)) ⟨mstate_standDown _, instep_standDown _, rfl, rfl, run_standDown _,
      sent_standDown _⟩⟩
  · have hc : twinSwitchCmd s = (s, .refused) := if_neg (by rw [h]; decide)
    exact ⟨next_congr (congrArg Prod.fst hc), congrArg Prod.snd hc⟩

end Sys2Proof.Machine
end

section
/-! ### Records, heartbeats and beacons (R451 to R462, R468) -/

namespace Sys2Proof.Machine

/-! #### What a standby module does with time -/

section
variable {s t : State} {P : List Nat}

theorem onPages_servoHold (h : OnPages P s t) (hP : 0x04 ∈ P) : OnPages P s t.servoHold :=
  near_setB (near_wr h (onReg_of_range hP (by decide) (by decide))) (onReg_of_range hP (by decide) (by decide))

theorem onPages_servo {th : Int} (h : OnPages P s t) (hP : 0x04 ∈ P) : OnPages P s (t.servo th) := by
  unfold State.servo
  extract_lets kp ki up tried acc y clamped s1 was s2
  have h1 : OnPages P s s1 := near_wr (near_timeMod (near_same h rfl rfl)) (onReg_of_range hP (by decide) (by decide))
  have h2 : OnPages P s s2 := near_setB h1 (onReg_of_range hP (by decide) (by decide))
  exact near_ite' (onPages_raiseEv h2 (by decide) hP) h2

theorem onPages_refuseOff {th : Int} (h : OnPages P s t) (hP : 0x04 ∈ P) : OnPages P s (t.refuseOff th) := by
  unfold State.refuseOff
  extract_lets was s1 s2 s3 s4
  have hreg : ∀ a, 0x4000 ≤ a → a < 0x5000 → onReg P a = true := fun a h1 h2 => onReg_of_range hP h1 h2
  have h1 : OnPages P s s1 := near_bump (near_setB (onPages_servoHold h hP) (hreg _ (by decide) (by decide))) (hreg _ (by decide) (by decide))
    (hreg _ (by decide) (by decide))
  have h3 : OnPages P s s3 := near_timeMod (near_wr (near_wr h1 (hreg _ (by decide) (by decide))) (hreg _ (by decide) (by decide)))
  have h4 : OnPages P s s4 := near_ite' (onPages_toHoldover h3 hP) h3
  exact near_ite' h4 (onPages_raiseEv h4 (by decide) hP)

theorem onPages_acceptOff {th : Int} (h : OnPages P s t) (hP : 0x04 ∈ P) : OnPages P s (t.acceptOff th) := by
  unfold State.acceptOff
  extract_lets s1 s2 n s3
  have h1 : OnPages P s s1 := near_setB h (onReg_of_range hP (by decide) (by decide))
  have h3 : OnPages P s s3 := near_timeMod (near_ite' (onPages_servo h1 hP) (onPages_servoHold h1 hP))
  exact near_ite' (near_ite' (onPages_errEst h3 hP) (onPages_setQuality h3 hP)) (onPages_errEst h3 hP)

theorem onPages_timeOffset {src : Nat} {th : Int} (h : OnPages P s t) (hP : 0x04 ∈ P) : OnPages P s (t.timeOffset src th) := by
  unfold State.timeOffset
  extract_lets s1 s2
  have h2 : OnPages P s s2 := near_wr (near_timeMod h) (onReg_of_range hP (by decide) (by decide))
  exact near_ite' (near_timeMod h) (near_ite' (near_timeMod h2) (near_ite' (onPages_refuseOff h2 hP) (onPages_acceptOff h2 hP)))

theorem onPages_hbTime {h : Heartbeat} (ht : OnPages P s t) (hP : 0x04 ∈ P) : OnPages P s (t.hbTime h) := by
  unfold State.hbTime
  extract_lets t1 t4 d s1
  refine near_ite' ?_ ht
  exact onPages_timeOffset (onPages_timeEval (near_timeMod (near_wr (onPages_timeEval ht hP) (onReg_of_range hP (by decide) (by decide)))) hP) hP

theorem onPages_standbyQuality {q : Nat} (h : OnPages P s t) (hP : 0x04 ∈ P) : OnPages P s (t.standbyQuality q) :=
  near_ite' h (onPages_setQuality h hP)

theorem twin_hbTime (s : State) (h : Heartbeat) : (s.hbTime h).twin = s.twin :=
  (hbTime_keeps (Keeps.refl _ s) (List.Subset.refl _)).only .twin (by decide)

theorem twin_standbyQuality (s : State) (q : Nat) : (s.standbyQuality q).twin = s.twin :=
  (standbyQuality_keeps (Keeps.refl _ s) (List.Subset.refl _)).only .twin (by decide)

end

/-! #### The loss of step (R461) -/

/-- The registers that the loss of step changes: its count, and those of a join that it ends. -/
def lostReg (a : Nat) : Prop := a = 0xC090 ∨ joinReg a

theorem not_lostReg {a : Nat} (h : a = 0x0054 ∨ a = 0xC06C ∨ a = 0x604C) : ¬ lostReg a := by
  unfold lostReg joinReg evReg
  simp only [addrOf_eq, pageOf_eq]
  omega

/-- The twin's part of a module out of step. -/
def TwinSt.apart (q : TwinSt) : TwinSt := { q with instep := false, agreed := false, run := none, recs := [], mine := [], theirs := [] }

/-- What the loss of step leaves. -/
structure StepLost (s t : State) : Prop where
  twin : t.twin = s.twin.apart ∨ ∃ l, t.twin = s.twin.apart.unjoined l
  count : t.fld Ctr.TWIN_REC_LOST.f = min (2 ^ 32 - 1) (s.fld Ctr.TWIN_REC_LOST.f + 1)
  event : t.bit (bitAt 0xC010 4) = true
  near : Near lostReg evTbl s t

theorem StepLost.lost {s u t : State} (h : StepLost u t) (hc : u.fld Ctr.TWIN_REC_LOST.f = s.fld Ctr.TWIN_REC_LOST.f) :
    t.twin.instep = false ∧ t.twin.agreed = false ∧ t.twin.run = none ∧ t.twin.recs = []
      ∧ t.fld Ctr.TWIN_REC_LOST.f = min (2 ^ 32 - 1) (s.fld Ctr.TWIN_REC_LOST.f + 1) ∧ t.bit (bitAt 0xC010 4) = true := by
  rw [← hc]
  rcases h.twin with ht | ⟨l, ht⟩
  · exact ⟨by rw [ht]; rfl, by rw [ht]; rfl, by rw [ht]; rfl, by rw [ht]; rfl, h.count, h.event⟩
  · exact ⟨by rw [ht]; rfl, by rw [ht]; rfl, by rw [ht]; rfl, by rw [ht]; rfl, h.count, h.event⟩

theorem recLost_loses {s : State} (hi : s.twin.instep = true) : StepLost s s.recLost := by
  unfold State.recLost
  rw [if_pos hi]
  obtain ⟨v, hv⟩ : ∃ v, v = (s.bump .TWIN_REC_LOST).raiseEv 0x0C 4 := ⟨_, rfl⟩
  obtain ⟨u, hu⟩ : ∃ u, u = v.outOfStep := ⟨_, rfl⟩
  rw [← hv]
  dsimp only
  rw [← hu]
  have hvt : v.twin = s.twin := by rw [hv, twin_raiseEv, twin_bump]
  have ht : u.twin = s.twin.apart := by
    rw [hu, ← hvt]
    rfl
  have hur : u.regs = v.regs := hu ▸ rfl
  have hut : u.tbl = v.tbl := hu ▸ rfl
  have hc : u.fld Ctr.TWIN_REC_LOST.f = min (2 ^ 32 - 1) (s.fld Ctr.TWIN_REC_LOST.f + 1) := by
    rw [fld_of_regs hur, hv, fld_raiseEv_apart (by decide) (by decide) (by decide) (by decide) (by decide)]
    exact fld_bump_stays rfl (by decide) (.inl (by decide))
  have hb : u.bit (bitAt 0xC010 4) = true := by
    rw [bit_of_regs hur, hv]
    exact bit_raiseEv_self (by decide) (by decide) (by decide) rfl
  have hn : Near lostReg evTbl s u := by
    refine near_same ?_ hur hut
    rw [hv]
    exact near_raiseEv (near_bump (Near.refl _ _ s) (.inl rfl) (.inr (.inr (.inl rfl)))) (by decide) (fun _ h => .inr (.inr (.inr (.inr (.inr h)))))
      fun _ => id
  by_cases hj : u.twin.joining = true
  · have hf := joinFail_fails (s := u) (code := 5) hj (by decide)
    refine ⟨.inr ⟨_, hf.twin.trans (by rw [ht])⟩, ?_, joinFail_event hb, hn.trans (hf.near.mono (fun _ => .inr) fun _ => id)⟩
    exact (fld_of_rd (f := Ctr.TWIN_REC_LOST.f) (hf.near.regs _ (by
      show ¬ joinReg 0xC090
      unfold joinReg evReg
      decide))).trans hc
  · rw [joinFail_idle (by simpa using hj)]
    exact ⟨.inl ht, hc, hb, hn⟩

/-! #### Heartbeats (R451 to R453) -/

/-- What the twin's part keeps of heartbeats. -/
structure HbSame (q r : TwinSt) : Prop where
  hb : r.hb = q.hb
  any : r.any = q.any
  link : r.link = q.link
  tether : r.tether = q.tether
  lost : r.lost = q.lost
  good : r.good = q.good
  declared : r.declared = q.declared

theorem HbSame.refl (q : TwinSt) : HbSame q q := ⟨rfl, rfl, rfl, rfl, rfl, rfl, rfl⟩

theorem HbSame.trans {q r p : TwinSt} (h : HbSame q r) (h' : HbSame r p) : HbSame q p :=
  ⟨h'.hb.trans h.hb, h'.any.trans h.any, h'.link.trans h.link, h'.tether.trans h.tether, h'.lost.trans h.lost, h'.good.trans h.good,
    h'.declared.trans h.declared⟩

/-- The registers beside the module's state. -/
def SameState (s t : State) : Prop := t.mstate = s.mstate ∧ HbSame s.twin t.twin

theorem SameState.refl (s : State) : SameState s s := ⟨rfl, HbSame.refl _⟩

theorem SameState.trans {s t u : State} (h : SameState s t) (h' : SameState t u) : SameState s u := ⟨h'.1.trans h.1, h.2.trans h'.2⟩

theorem sameState_hbTime (s : State) (h : Heartbeat) : SameState s (s.hbTime h) := by
  refine ⟨?_, by rw [twin_hbTime]; exact HbSame.refl _⟩
  exact (onPages_hbTime (P := [0x04]) (Near.refl _ _ s) (by decide)).fld (f := ⟨0x0054, 28, 4⟩) (by decide)

theorem sameState_hbJoin (s : State) (h : Heartbeat) : SameState s (s.hbJoin h) := by
  unfold State.hbJoin
  split
  · split
    · have hb := joinBegin_begins s h.fno
      refine ⟨fld_of_rd (f := ⟨0x0054, 28, 4⟩) (hb.regs _ (by decide)), ?_⟩
      have ht := (segTable_shows s h.fno).2.2.1
      obtain ⟨u, hu⟩ : ∃ u, u = s.segTable h.fno := ⟨_, rfl⟩
      unfold State.joinBegin
      rw [← hu] at ht ⊢
      exact ⟨(congrArg TwinSt.hb ht :), (congrArg TwinSt.any ht :), (congrArg TwinSt.link ht :), (congrArg TwinSt.tether ht :),
        (congrArg TwinSt.lost ht :), (congrArg TwinSt.good ht :), (congrArg TwinSt.declared ht :)⟩
    · split
      · exact ⟨rfl, ⟨rfl, rfl, rfl, rfl, rfl, rfl, rfl⟩⟩
      · exact SameState.refl s
  · split
    · exact ⟨rfl, ⟨rfl, rfl, rfl, rfl, rfl, rfl, rfl⟩⟩
    · exact SameState.refl s

theorem sameState_recLost (s : State) : SameState s s.recLost := by
  by_cases hi : s.twin.instep = true
  · have hl := recLost_loses hi
    refine ⟨fld_of_rd (f := ⟨0x0054, 28, 4⟩) (hl.near.regs _ (not_lostReg (.inl rfl))), ?_⟩
    rcases hl.twin with ht | ⟨l, ht⟩
    · rw [ht]
      exact ⟨rfl, rfl, rfl, rfl, rfl, rfl, rfl⟩
    · rw [ht]
      exact ⟨rfl, rfl, rfl, rfl, rfl, rfl, rfl⟩
  · have he : s.recLost = s.joinFail 5 := by
      unfold State.recLost
      rw [if_neg hi]
    rw [he]
    refine ⟨mstate_joinFail, ?_⟩
    by_cases hj : s.twin.joining = true
    · rw [(joinFail_fails hj (by decide)).twin]
      exact ⟨rfl, rfl, rfl, rfl, rfl, rfl, rfl⟩
    · rw [joinFail_idle (by simpa using hj)]
      exact HbSame.refl _

theorem sameState_digestOne (s : State) (f mine theirs : Nat) : SameState s (s.digestOne f mine theirs) := by
  unfold State.digestOne
  extract_lets s1
  have h1 : SameState s s1 := ⟨rfl, ⟨rfl, rfl, rfl, rfl, rfl, rfl, rfl⟩⟩
  split
  · exact h1.trans ⟨rfl, ⟨rfl, rfl, rfl, rfl, rfl, rfl, rfl⟩⟩
  · split
    · obtain ⟨v, hv⟩ : ∃ v, v = (s1.bump .TWIN_DIVERGE).raiseEv 0x0C 3 := ⟨_, rfl⟩
      have ht : v.twin = s1.twin := by rw [hv, twin_raiseEv, twin_bump]
      have hm : v.mstate = s1.mstate := by
        rw [hv]
        exact (fld_raiseEv_apart (by decide) (by decide) (by decide) (by decide) (by decide)).trans (fld_bump_apart (by decide) (by decide))
      rw [← hv]
      refine h1.trans ⟨hm, ?_⟩
      rw [← ht]
      exact ⟨rfl, rfl, rfl, rfl, rfl, rfl, rfl⟩
    · exact h1

theorem sameState_digestCheck (s : State) : SameState s s.digestCheck := by
  have hf : ∀ (l : List (Nat × Nat)) (u : State), SameState u (l.foldl (fun a e => match a.twin.theirs.lookup e.1 with
      | some d => a.digestOne e.1 e.2 d
      | none => a) u) := fun l => by
    induction l with
    | nil => exact fun u => SameState.refl u
    | cons e l ih =>
      intro u
      refine SameState.trans ?_ (ih _)
      dsimp only
      split
      · exact sameState_digestOne ..
      · exact SameState.refl u
  unfold State.digestCheck
  split
  · exact SameState.refl s
  · exact hf _ _

/-- A module that has lost step compares no digest. -/
theorem digestCheck_idle {s : State} (h : s.twin.mine = []) : s.digestCheck = s := by
  unfold State.digestCheck
  rw [h]
  exact ite_self _

/-- What the heartbeat itself changes of the twin's part. -/
def TwinSt.heard (q : TwinSt) (h : Heartbeat) (rx : Nat) : TwinSt :=
  { q with
    hb := some { mstate := h.mstate, recOk := h.recOk, instep := h.instep, eligible := h.eligible, joining := h.joining,
                 fno := h.fno, epoch := h.epoch, health := h.health },
    link := q.link || h.path == 0, tether := q.tether || h.path == 1, any := true, good := q.good || (h.mstate == 4 && h.recOk),
    same := h.same, rxNs := if h.path = 0 then rx else q.rxNs, lost := q.lost && (h.mstate == 5 || h.mstate == 6),
    theirs := if (q.theirs.lookup h.execFno).isSome then q.theirs else ((h.execFno, h.digest) :: q.theirs).take 8 }

/-- The state of a module that has heard a heartbeat, before what the heartbeat says of time and of joins. -/
def State.hbHeard (s : State) (h : Heartbeat) : State :=
  let s1 := s.twinMod (TwinSt.heard · h ((s.ownNs + h.ns) % 1000000000))
  if h.mstate == 4 && h.recOk && s1.twin.declared then s1.withdraw else s1

/-- A record that a good heartbeat reports is not held. -/
def State.hbMisses (s : State) (h : Heartbeat) : Bool :=
  s.mstate == 3 && (h.mstate == 4 && h.recOk) && (s.twin.instep || (s.twin.joining && s.twin.joinF != some h.fno))
    && !s.holdsRec ((h.fno + 2 ^ 32 - 1) % 2 ^ 32)

theorem execHeartbeatRx_eq (h : Heartbeat) (s : State) : exec (.heartbeatRx h) s = .next (
    if !h.crcOk || decide (100000 < h.ns) || !s.twin.on || s.shed || (h.path == 0 && !s.lineUp 4) then s
    else
      let s3 := ((s.hbHeard h).hbTime h).hbJoin h
      (if s3.hbMisses h then s3.recLost else s3).digestCheck) := rfl

theorem hbHeard_shows (s : State) (h : Heartbeat) : (s.hbHeard h).regs = s.regs ∧ ∃ rx x y z, (s.hbHeard h).twin = { s.twin.heard h rx with
    declared := s.twin.declared && !(h.mstate == 4 && h.recOk), passed := x, isoRaised := y, isolated := z } := by
  unfold State.hbHeard
  extract_lets s1
  split
  · next hc =>
    refine ⟨rfl, (s.ownNs + h.ns) % 1000000000, false, false, false, ?_⟩
    have hg : (h.mstate == 4 && h.recOk) = true := (Bool.and_eq_true_iff.1 hc).1
    rw [hg, Bool.not_true, Bool.and_false]
    rfl
  · next hc =>
    refine ⟨rfl, (s.ownNs + h.ns) % 1000000000, s.twin.passed, s.twin.isoRaised, s.twin.isolated, ?_⟩
    have hd : (s.twin.declared && !(h.mstate == 4 && h.recOk)) = s.twin.declared := by
      have hc : ¬ (h.mstate == 4 && h.recOk && s.twin.declared) = true := hc
      revert hc
      cases (h.mstate == 4 && h.recOk) <;> cases s.twin.declared <;> simp
    rw [hd]
    rfl

theorem heartbeat_counts {s : State} {h : Heartbeat} (hc : h.crcOk = true) (hns : h.ns ≤ 100000) (ho : s.twin.on = true) (hs : s.shed = false)
    (hl : h.path = 0 → s.lineUp 4 = true) : runs (.heartbeatRx h) s (fun t =>
      t.twin.hb = some ⟨h.mstate, h.recOk, h.instep, h.eligible, h.joining, h.fno, h.epoch, h.health⟩ ∧ t.twin.any = true
        ∧ t.twin.link = (s.twin.link || h.path == 0) ∧ t.twin.tether = (s.twin.tether || h.path == 1)
        ∧ t.twin.lost = (s.twin.lost && (h.mstate == 5 || h.mstate == 6)) ∧ t.mstate = s.mstate
        ∧ (h.mstate = 4 ∧ h.recOk = true → t.twin.good = true ∧ t.twin.declared = false)
        ∧ (¬ (h.mstate = 4 ∧ h.recOk = true) → t.twin.good = s.twin.good ∧ t.twin.declared = s.twin.declared)
        ∧ (h.mstate = 4 ∧ h.recOk = true → s.mstate = 3 → s.twin.instep = true → s.holdsRec ((h.fno + 2 ^ 32 - 1) % 2 ^ 32) = false →
            t.twin.instep = false ∧ t.twin.agreed = false ∧ t.twin.run = none ∧ t.twin.recs = []
              ∧ t.fld Ctr.TWIN_REC_LOST.f = min (2 ^ 32 - 1) (s.fld Ctr.TWIN_REC_LOST.f + 1) ∧ t.bit (bitAt 0xC010 4) = true)) := by
  have hrun := execHeartbeatRx_eq h s
  rw [if_neg (by
    rw [hc, ho, hs]
    by_cases h0 : h.path = 0
    · simp [h0, hl h0, hns]
    · simp [h0, hns])] at hrun
  dsimp only at hrun
  obtain ⟨ur, rx, x, y, z, ut⟩ := hbHeard_shows s h
  obtain ⟨u, hu⟩ : ∃ u, u = s.hbHeard h := ⟨_, rfl⟩
  rw [← hu] at ur ut hrun
  have hv1 := sameState_hbTime u h
  have hv2 := twin_hbTime u h
  have hv3 := onPages_hbTime (P := [0x04]) (h := h) (Near.refl _ _ u) (by decide)
  obtain ⟨v, hv⟩ : ∃ v, v = u.hbTime h := ⟨_, rfl⟩
  rw [← hv] at hv1 hv2 hv3 hrun
  have hw1 := sameState_hbJoin v h
  have hwi : v.mstate = 3 → v.twin.instep = true → v.hbJoin h = v := fun h1 h2 => by
    unfold State.hbJoin
    rw [if_pos h1, if_neg (by rw [h2]; simp), if_neg (by rw [h2]; simp)]
  obtain ⟨w, hw⟩ : ∃ w, w = v.hbJoin h := ⟨_, rfl⟩
  rw [← hw] at hw1 hwi hrun
  have hx1 : SameState w (if w.hbMisses h then w.recLost else w) := by
    split
    · exact sameState_recLost w
    · exact SameState.refl w
  have hall := ((hv1.trans hw1).trans hx1).trans (sameState_digestCheck _)
  have um : u.mstate = s.mstate := fld_of_regs ur _
  obtain ⟨hm, hh⟩ := hall
  refine runs_intro hrun ⟨hh.hb.trans (by rw [ut]; rfl), hh.any.trans (by rw [ut]; rfl), hh.link.trans (by rw [ut]; rfl),
    hh.tether.trans (by rw [ut]; rfl), hh.lost.trans (by rw [ut]; rfl), hm.trans um, fun hg => ⟨hh.good.trans ?_, hh.declared.trans ?_⟩,
    fun hg => ⟨hh.good.trans ?_, hh.declared.trans ?_⟩, fun hg h3 hi hr => ?_⟩
  · rw [ut]
    simp [TwinSt.heard, hg.1, hg.2]
  · rw [ut]
    simp [hg.1, hg.2]
  · have hb : (h.mstate == 4 && h.recOk) = false := by simpa using hg
    rw [ut]
    simp [TwinSt.heard, hb]
  · have hb : (h.mstate == 4 && h.recOk) = false := by simpa using hg
    rw [ut]
    simp [hb]
  · have vm : v.mstate = 3 := hv1.1.trans (um.trans h3)
    have vi : v.twin.instep = true := by
      rw [hv2, ut]
      exact hi
    have hwv := hwi vm vi
    have vh : v.holdsRec ((h.fno + 2 ^ 32 - 1) % 2 ^ 32) = false := by
      rw [← hr]
      unfold State.holdsRec
      rw [hv2, ut]
      rfl
    have hmiss : w.hbMisses h = true := by
      unfold State.hbMisses
      rw [hwv, vm, vi, vh, hg.1, hg.2]
      rfl
    have hl := recLost_loses (s := w) (by rw [hwv]; exact vi)
    have hmine : w.recLost.twin.mine = [] := by
      rcases hl.twin with ht | ⟨l, ht⟩
      · rw [ht]
        rfl
      · rw [ht]
        rfl
    rw [if_pos hmiss, digestCheck_idle hmine]
    refine hl.lost ?_
    rw [hwv, hv3.fld (by decide)]
    exact fld_of_regs ur _

end Sys2Proof.Machine
end

section
/-! ### The record of a frame, records that arrive and are lost, and beacons (R455 to R462, R468) -/

namespace Sys2Proof.Machine

section
variable {s : State}

/-- The greatest length of a record (R456): it shows the longest so far. -/
theorem recMax_shows {u : State} {n : Nat} (hn : n < 2 ^ 32) :
    ((if (u.rd 0xC06C).toNat < n then u.wr 0xC06C (BitVec.ofNat 32 n) else u).rd 0xC06C).toNat = max (u.rd 0xC06C).toNat n := by
  split
  · rw [rd_wr_self, BitVec.toNat_ofNat, Nat.mod_eq_of_lt hn]
    omega
  · omega

/-- What closing the frame's record leaves (R455, R456). -/
theorem closeRecord_shows (u : State) (len : Nat) : let t := u.closeRecord len
    t.twin = { u.twin with closed := true } ∧ t.mstate = u.mstate ∧ t.opt.sec = PlanSec.none_ ∧ t.priv.given = []
      ∧ (u.mstate = 4 → u.cfg.pair = true → t.sent = u.sent ++ [.record_ ⟨u.fno, u.frame, u.inExt, u.nowSec, u.nowNs, u.epoch,
          decide (786432 < len), false, u.planSections, u.priv.given⟩ (min len 786432) u.twin.fhi]
          ∧ (t.rd 0xC06C).toNat = max (u.rd 0xC06C).toNat (min len 786432) ∧ u.regsBut t (fun a => a = 0xC06C))
      ∧ (u.mstate ≠ 4 ∨ u.cfg.pair = false → t.sent = u.sent ∧ t.regs = u.regs) := by
  have hsent : ∀ v : State, v.planSent.twin = v.twin ∧ v.planSent.regs = v.regs ∧ v.planSent.sent = v.sent ∧ v.planSent.opt.sec = PlanSec.none_
      ∧ v.planSent.priv.given = [] := fun v => ⟨rfl, rfl, rfl, rfl, rfl⟩
  obtain ⟨s1, h1⟩ : ∃ s1, s1 = u.twinMod (fun t => { t with closed := true }) := ⟨_, rfl⟩
  have h1t : s1.twin = { u.twin with closed := true } := h1 ▸ rfl
  have h1r : s1.regs = u.regs := h1 ▸ rfl
  have h1s : s1.sent = u.sent := h1 ▸ rfl
  by_cases hc : (u.mstate = 4 && u.cfg.pair) = true
  · obtain ⟨v, hv⟩ : ∃ v, v = if (s1.rd 0xC06C).toNat < min len 786432 then s1.wr 0xC06C (BitVec.ofNat 32 (min len 786432)) else s1 := ⟨_, rfl⟩
    have he : u.closeRecord len = (v.emit (.record_ ⟨u.fno, u.frame, u.inExt, u.nowSec, u.nowNs, u.epoch,
        decide (786432 < len), false, u.planSections, u.priv.given⟩ (min len 786432) u.twin.fhi)).planSent := by
      unfold State.closeRecord
      dsimp only
      rw [if_pos hc, hv, h1]
    have hvn : Near (fun a => a = 0xC06C) (fun _ => True) u v := by
      rw [hv]
      have hn1 : Near (fun a => a = 0xC06C) (fun _ => True) u s1 := near_same (Near.refl _ _ u) h1r (h1 ▸ rfl)
      exact near_ite' (near_wr hn1 rfl) hn1
    have hvt : v.twin = s1.twin := by
      rw [hv]
      split
      · exact twin_wr ..
      · rfl
    have hvs : v.sent = s1.sent := by
      rw [hv]
      split
      · exact sent_wr ..
      · rfl
    have hvm : (v.rd 0xC06C).toNat = max (u.rd 0xC06C).toNat (min len 786432) := by
      have hr : s1.rd 0xC06C = u.rd 0xC06C := by
        unfold State.rd
        rw [h1r]
      rw [hv, ← hr]
      exact recMax_shows (by omega)
    obtain ⟨w, hw⟩ : ∃ w, w = v.emit (.record_ ⟨u.fno, u.frame, u.inExt, u.nowSec, u.nowNs, u.epoch,
        decide (786432 < len), false, u.planSections, u.priv.given⟩ (min len 786432) u.twin.fhi) := ⟨_, rfl⟩
    have hwr : w.regs = v.regs := hw ▸ rfl
    have hwt : w.twin = v.twin := hw ▸ rfl
    have hws : w.sent = v.sent ++ [.record_ ⟨u.fno, u.frame, u.inExt, u.nowSec, u.nowNs, u.epoch,
        decide (786432 < len), false, u.planSections, u.priv.given⟩ (min len 786432) u.twin.fhi] := hw ▸ rfl
    intro t
    have ht : t = w.planSent := by
      rw [hw]
      exact he
    obtain ⟨p1, p2, p3, p4, p5⟩ := hsent w
    have htr : t.regs = v.regs := by rw [ht, p2, hwr]
    refine ⟨by rw [ht, p1, hwt, hvt, h1t], ?_, by rw [ht, p4], by rw [ht, p5], fun _ _ => ⟨by rw [ht, p3, hws, hvs, h1s], ?_, fun a ha => ?_⟩, fun h => ?_⟩
    · exact (fld_of_regs htr _).trans (fld_of_rd (f := ⟨0x0054, 28, 4⟩) (hvn.regs _ (by decide)))
    · rw [← hvm]
      unfold State.rd
      rw [htr]
    · refine Eq.trans ?_ (hvn.regs a ha)
      unfold State.rd
      rw [htr]
    · simp only [Bool.and_eq_true, decide_eq_true_eq] at hc
      rcases h with h | h
      · exact absurd hc.1 h
      · exact absurd (hc.2.symm.trans h) (by decide)
  · intro t
    have ht : t = s1.planSent := by
      show u.closeRecord len = _
      unfold State.closeRecord
      dsimp only
      rw [if_neg hc, h1]
    obtain ⟨p1, p2, p3, p4, p5⟩ := hsent s1
    refine ⟨by rw [ht, p1, h1t], ?_, by rw [ht, p4], by rw [ht, p5], fun h1 h2 => absurd (by rw [h1, h2]; rfl) hc, fun _ => ⟨by rw [ht, p3, h1s], by rw [ht, p2, h1r]⟩⟩
    exact fld_of_regs (by rw [ht, p2, h1r]) _

/-- A heartbeat that has not come on a path is counted. -/
theorem heartbeatMiss_shows {p : Nat} (ho : s.twin.on = true) (hn : (if p = 0 then s.twin.link else s.twin.tether) = false) :
    let k := if p = 0 then Ctr.TWIN_HB_MISS_LINK else Ctr.TWIN_HB_MISS_TETHER
    runs (.heartbeatMiss p) s (fun t => t.fld k.f = min (2 ^ 32 - 1) (s.fld k.f + 1) ∧ t.twin = s.twin ∧ (s.mstate ≠ 3 → s.onlyIn t [.regs])) := by
  intro k
  have hk : k = .TWIN_HB_MISS_LINK ∨ k = .TWIN_HB_MISS_TETHER := by
    by_cases hp : p = 0
    · exact .inl (if_pos hp)
    · exact .inr (if_neg hp)
  obtain ⟨u, hu⟩ : ∃ u, u = s.bump k := ⟨_, rfl⟩
  have um : u.mstate = s.mstate := by
    rw [hu]
    rcases hk with h | h
    · rw [h]
      exact fld_bump_apart (by decide) (by decide)
    · rw [h]
      exact fld_bump_apart (by decide) (by decide)
  have uk : u.fld k.f = min (2 ^ 32 - 1) (s.fld k.f + 1) := by
    rw [hu]
    rcases hk with h | h
    · rw [h]
      exact fld_bump_stays rfl (by decide) (.inl (by decide))
    · rw [h]
      exact fld_bump_stays rfl (by decide) (.inl (by decide))
  have ut : u.twin = s.twin := by rw [hu, twin_bump]
  have hrun : exec (.heartbeatMiss p) s = .next (if u.mstate = 3 then u.timeEval.standbyHold else u) :=
    next_congr ((if_neg (by rw [ho, hn]; decide)).trans (by rw [hu]))
  refine runs_intro hrun ⟨?_, ?_, fun h => ?_⟩
  · rw [← uk]
    split
    · refine (onPages_standbyHold (P := [0x04]) (onPages_timeEval (Near.refl _ _ u) (by decide)) (by decide)).fld ?_
      rcases hk with h | h
      · rw [h]
        rfl
      · rw [h]
        rfl
    · rfl
  · rw [← ut]
    split
    · exact (standbyHold_keeps (timeEval_keeps (Keeps.refl _ u) (List.Subset.refl _)) (List.Subset.refl _)).only .twin (by decide)
    · rfl
  · rw [if_neg (by rw [um]; exact h), hu]
    exact (bump_keeps (Keeps.refl _ s) (List.Subset.refl _)).only

/-- A record that verifies (R456, R459, R461). -/
theorem inputRecord_takes {r : InRec} (h3 : s.mstate = 3) (hd : s.twin.declared = false) (hok : r.ok = true) (hl : s.lineUp 4 = true)
    (he : r.hdr.epoch = (s.twin.hb.map (·.epoch)).getD s.epoch) :
    let stored := if s.twin.joining = true ∧ s.twin.replayed = false then s.twin.stored + r.len else s.twin.stored
    runs (.inputRecordRx r) s (fun t =>
      (r.len < 2 ^ 32 → (t.rd 0xC06C).toNat = max (s.rd 0xC06C).toNat r.len)
      ∧ (s.twin.instep = false → s.twin.joining = false → t.twin = s.twin)
      ∧ (s.twin.instep = true → r.hdr.overflow = true → t.twin.instep = false ∧ t.twin.agreed = false ∧ t.twin.run = none ∧ t.twin.recs = []
          ∧ t.fld Ctr.TWIN_REC_LOST.f = min (2 ^ 32 - 1) (s.fld Ctr.TWIN_REC_LOST.f + 1) ∧ t.bit (bitAt 0xC010 4) = true)
      ∧ (s.twin.instep = true ∨ s.twin.joining = true → r.hdr.overflow = false →
          (s.holdsRec r.hdr.fno = true → t.twin = s.twin)
          ∧ (s.holdsRec r.hdr.fno = false → (stored ≤ 2 ^ 32 ∨ s.twin.joining = false →
                t.twin = { s.twin with recs := s.twin.recs ++ [r.hdr], stored := stored })
              ∧ (2 ^ 32 < stored → s.twin.joining = true → t.twin.joining = false ∧ t.fld ⟨0xC0B4, 0, 4⟩ = 3 ∧ t.segs = [])))) := by
  intro stored
  obtain ⟨v, hv⟩ : ∃ v, v = if (s.rd 0xC06C).toNat < r.len then s.wr 0xC06C (BitVec.ofNat 32 r.len) else s := ⟨_, rfl⟩
  obtain ⟨u, hu⟩ : ∃ u, u = v.standbyQuality (wbits r.timeStat 0 3) := ⟨_, rfl⟩
  have hvt : v.twin = s.twin := by
    rw [hv]
    split
    · exact twin_wr ..
    · rfl
  have ut : u.twin = s.twin := by rw [hu, twin_standbyQuality, hvt]
  have hp : OnPages [0x04] v u := by
    rw [hu]
    exact onPages_standbyQuality (Near.refl _ _ v) (by decide)
  have um : r.len < 2 ^ 32 → (u.rd 0xC06C).toNat = max (s.rd 0xC06C).toNat r.len := fun hn => by
    rw [hp.rd (by decide), hv]
    exact recMax_shows hn
  have uc : u.fld Ctr.TWIN_REC_LOST.f = s.fld Ctr.TWIN_REC_LOST.f := by
    rw [hp.fld (by decide), hv]
    split
    · exact fld_wr_apart (by decide)
    · rfl
  have uh : u.holdsRec r.hdr.fno = s.holdsRec r.hdr.fno := by
    unfold State.holdsRec
    rw [ut]
  obtain ⟨w, hw⟩ : ∃ w, w = u.twinMod (fun t => { t with
      recs := t.recs ++ [r.hdr], stored := if t.joining && !t.replayed then t.stored + r.len else t.stored }) := ⟨_, rfl⟩
  have hst : (if s.twin.joining && !s.twin.replayed then s.twin.stored + r.len else s.twin.stored) = stored := by
    simp only [Bool.and_eq_true, Bool.not_eq_true', stored]
  have wt : w.twin = { s.twin with recs := s.twin.recs ++ [r.hdr], stored := stored } := by
    rw [hw, ← hst, ← ut]
    rfl
  have hrun : exec (.inputRecordRx r) s = .next (if !u.twin.instep && !u.twin.joining then u else if r.hdr.overflow then u.recLost
      else if u.holdsRec r.hdr.fno then u else if 2 ^ 32 < w.twin.stored then w.joinFail 3 else w) :=
    next_congr ((if_neg (by rw [h3, hd, hok, hl, he]; simp)).trans (by
      dsimp only
      rw [← hv, ← hu, ← hw]))
  rw [ut, uh, wt] at hrun
  dsimp only at hrun
  by_cases hin : s.twin.instep = false ∧ s.twin.joining = false
  · rw [if_pos (by rw [hin.1, hin.2]; rfl)] at hrun
    exact runs_intro hrun ⟨um, fun _ _ => ut, fun h => absurd (hin.1.symm.trans h) (by decide), fun h => absurd h (by rw [hin.1, hin.2]; decide)⟩
  · rw [if_neg (by simpa using hin)] at hrun
    by_cases hov : r.hdr.overflow = true
    · rw [if_pos hov] at hrun
      refine runs_intro hrun ⟨fun hn => ?_, fun h1 h2 => absurd ⟨h1, h2⟩ hin, fun hi _ => (recLost_loses (by rw [ut]; exact hi)).lost uc,
        fun _ h => absurd (hov.symm.trans h) (by decide)⟩
      rw [← um hn]
      refine congrArg BitVec.toNat ?_
      by_cases hi : u.twin.instep = true
      · exact (recLost_loses hi).near.regs _ (not_lostReg (.inr (.inl rfl)))
      · have heq : u.recLost = u.joinFail 5 := by
          unfold State.recLost
          rw [if_neg hi]
        rw [heq]
        by_cases hj : u.twin.joining = true
        · exact (joinFail_fails hj (by decide)).near.regs _ (not_joinReg (.inr (.inr (.inr (.inr (.inl rfl))))))
        · rw [joinFail_idle (by simpa using hj)]
    · rw [if_neg hov] at hrun
      by_cases hh : s.holdsRec r.hdr.fno = true
      · rw [if_pos hh] at hrun
        exact runs_intro hrun ⟨um, fun _ _ => ut, fun _ h => absurd h hov, fun _ _ => ⟨fun _ => ut, fun h => absurd (hh.symm.trans h) (by decide)⟩⟩
      · rw [if_neg hh] at hrun
        have wr : w.rd 0xC06C = u.rd 0xC06C := by
          rw [hw]
          rfl
        by_cases hbig : 2 ^ 32 < stored
        · rw [if_pos hbig] at hrun
          by_cases hj : s.twin.joining = true
          · have hf := joinFail_fails (s := w) (code := 3) (by rw [wt]; exact hj) (by decide)
            refine runs_intro hrun ⟨fun hn => ?_, fun h1 h2 => absurd ⟨h1, h2⟩ hin, fun _ h => absurd h hov, fun _ _ => ⟨fun h => absurd h hh, fun _ =>
              ⟨fun h => ?_, fun _ _ => ⟨by rw [hf.twin]; rfl, hf.code, hf.segs⟩⟩⟩⟩
            · rw [← um hn, ← wr]
              exact congrArg BitVec.toNat (hf.near.regs _ (not_joinReg (.inr (.inr (.inr (.inr (.inl rfl)))))))
            · rcases h with h | h
              · exact absurd hbig (Nat.not_lt.2 h)
              · exact absurd (hj.symm.trans h) (by decide)
          · rw [joinFail_idle (by rw [wt]; simpa using hj)] at hrun
            exact runs_intro hrun ⟨fun hn => by rw [wr]; exact um hn, fun h1 h2 => absurd ⟨h1, h2⟩ hin, fun _ h => absurd h hov, fun _ _ => ⟨fun h => absurd h hh,
              fun _ => ⟨fun _ => wt, fun _ h => absurd h hj⟩⟩⟩
        · rw [if_neg hbig] at hrun
          exact runs_intro hrun ⟨fun hn => by rw [wr]; exact um hn, fun h1 h2 => absurd ⟨h1, h2⟩ hin, fun _ h => absurd h hov, fun _ _ => ⟨fun h => absurd h hh,
            fun _ => ⟨fun _ => wt, fun h => absurd h hbig⟩⟩⟩

/-- The engine that a module in FAULT names. -/
theorem enterFault_engine {s : State} {c e : Nat} (hs : s.mstate ≠ 6) (he : e < 16) : (s.enterFault c e).fld ⟨0x005C, 8, 4⟩ = e := by
  unfold State.enterFault
  rw [if_neg hs]
  extract_lets s1 s2 d s3 s4
  have h2 : s2.fld ⟨0x005C, 8, 4⟩ = e := (fld_bump_apart (by decide) (by decide)).trans ((fld_setF_self (by decide)).trans (Nat.mod_eq_of_lt he))
  have h4 : s4.fld ⟨0x005C, 8, 4⟩ = s2.fld ⟨0x005C, 8, 4⟩ := fld_of_regs rfl _
  refine (fld_outputsSafe (by decide)).trans (Eq.trans ?_ (h4.trans h2))
  exact fld_of_rd ((near_setMstate (p := (modeReg · = true)) (q := fun _ => True) (Near.refl _ _ s4) (fun _ => id) (fun _ _ => trivial)).regs _
    (by decide))

/-- A beacon of another module (R454, R468). -/
theorem beacon_shows {b : Beacon} (hc : b.crcOk = true) (hs : b.serial ≠ s.serial) (hl : s.lineUp b.port = true) : runs (.beaconRx b) s (fun t =>
    let inTime := decide (b.ns ≤ s.fld ⟨0xC040, 24, 8⟩ * 10000)
    t.twin.beacon = (s.twin.beacon || inTime) ∧ t.twin.seen = (s.twin.seen || inTime)
      ∧ (b.port < 2 → let k := Ctr.SNA_RX_FRAMES.shift b.port
          t.fld k.f = (s.fld k.f + 1) % 2 ^ 32)
      ∧ (s.mstate = 4 → s.epoch < b.epoch → s.twin.split = false → t.twin.split = true
          ∧ t.fld Ctr.TWIN_SPLIT.f = min (2 ^ 32 - 1) (s.fld Ctr.TWIN_SPLIT.f + 1) ∧ t.bit (bitAt 0xC010 8) = true)
      ∧ (s.mstate ≠ 4 ∨ b.epoch ≤ s.epoch → s.onlyIn t [.regs, .twin] ∧ t.twin.split = s.twin.split)) := by
  obtain ⟨tm, htm⟩ : ∃ tm, tm = decide (b.ns ≤ s.fld ⟨0xC040, 24, 8⟩ * 10000) := ⟨_, rfl⟩
  obtain ⟨v, hv⟩ : ∃ v, v = s.rxFrame b.port := ⟨_, rfl⟩
  obtain ⟨u, hu⟩ : ∃ u, u = v.twinMod (fun t => { t with beacon := t.beacon || tm, seen := t.seen || tm }) := ⟨_, rfl⟩
  have hvn : Near (fun a => 0x10000 ≤ a ∧ a < 0x12000) (fun _ => False) s v := by
    rw [hv]
    unfold State.rxFrame
    split
    · refine near_bumpW (Near.refl _ _ s) ?_ rfl
      show 0x10000 ≤ 0x10058 + 0x1000 * b.port ∧ 0x10058 + 0x1000 * b.port < 0x12000
      omega
    · exact Near.refl _ _ s
  have hvt : v.twin = s.twin := by
    rw [hv]
    unfold State.rxFrame
    split
    · exact twin_bump ..
    · rfl
  have ut : u.twin = { s.twin with beacon := s.twin.beacon || tm, seen := s.twin.seen || tm } := by
    rw [hu, ← hvt]
    rfl
  have hun : Near (fun a => 0x10000 ≤ a ∧ a < 0x12000) (fun _ => False) s u := by
    rw [hu]
    exact near_twinMod hvn
  have um : u.mstate = s.mstate := fld_of_rd (f := ⟨0x0054, 28, 4⟩) (hun.regs _ (by decide))
  have ue : u.epoch = s.epoch := congrArg BitVec.toNat (hun.regs 0xC04C (by decide))
  have uo : s.onlyIn u [.regs, .twin] := by
    rw [hu, hv]
    refine (twinMod_keeps (T := [.regs, .twin]) ?_ (by decide)).only
    unfold State.rxFrame
    exact keeps_ite (bump_keeps (Keeps.refl _ s) (by decide)) (Keeps.refl _ s)
  have uk : b.port < 2 → u.fld (Ctr.SNA_RX_FRAMES.shift b.port).f = (s.fld (Ctr.SNA_RX_FRAMES.shift b.port).f + 1) % 2 ^ 32 := fun hp => by
    rw [hu, hv]
    refine (fld_twinMod ..).trans ?_
    unfold State.rxFrame
    rw [if_pos hp]
    exact fld_bump_wraps rfl (show 0 + 32 ≤ 32 by decide)
  have hrun : exec (.beaconRx b) s = .next (if u.mstate = 4 && decide (u.epoch < b.epoch) && !u.twin.split then
      ((u.twinMod (fun t => { t with split := true })).bump .TWIN_SPLIT).raiseEv 0x0C 8 else u) :=
    next_congr ((if_neg (by rw [hc, hl]; simpa using hs)).trans (by
      dsimp only
      rw [← htm, ← hv, ← hu]))
  rw [um, ue] at hrun
  by_cases hsp : (s.mstate = 4 && decide (s.epoch < b.epoch) && !u.twin.split) = true
  · rw [if_pos hsp] at hrun
    obtain ⟨w, hw⟩ : ∃ w, w = u.twinMod (fun t => { t with split := true }) := ⟨_, rfl⟩
    rw [← hw] at hrun
    have wt : ((w.bump .TWIN_SPLIT).raiseEv 0x0C 8).twin = { u.twin with split := true } := by
      rw [twin_raiseEv, twin_bump, hw]
      rfl
    have wn : Near (fun a => a = 0xC09C ∨ a = 0xC0A4 ∨ evReg 0x0C a) evTbl w ((w.bump .TWIN_SPLIT).raiseEv 0x0C 8) :=
      near_raiseEv (near_bump (Near.refl _ _ w) (.inl rfl) (.inr (.inl rfl))) (by decide) (fun _ h => .inr (.inr h)) fun _ => id
    have wr : w.regs = u.regs := hw ▸ rfl
    refine runs_intro hrun ⟨by rw [wt, ut, htm], by rw [wt, ut, htm], fun hp => ?_, fun _ _ _ => ⟨by rw [wt], ?_,
      bit_raiseEv_self (by decide) (by decide) (by decide) rfl⟩, fun h => ?_⟩
    · refine (fld_of_rd (f := (Ctr.SNA_RX_FRAMES.shift b.port).f) (wn.regs _ ?_)).trans ((fld_of_regs wr _).trans (uk hp))
      show ¬ (0x10058 + 0x1000 * b.port = 0xC09C ∨ 0x10058 + 0x1000 * b.port = 0xC0A4 ∨ evReg 0x0C (0x10058 + 0x1000 * b.port))
      unfold evReg
      simp only [addrOf_eq, pageOf_eq]
      omega
    · rw [fld_raiseEv_apart (by decide) (by decide) (by decide) (by decide) (by decide)]
      refine (fld_bump_stays rfl (by decide) (.inl (by decide))).trans ?_
      rw [fld_of_regs wr, fld_of_rd (f := Ctr.TWIN_SPLIT.f) (hun.regs _ (by decide))]
      rfl
    · simp only [Bool.and_eq_true, decide_eq_true_eq] at hsp
      rcases h with h | h
      · exact absurd hsp.1.1 h
      · exact absurd hsp.1.2 (Nat.not_lt.2 h)
  · rw [if_neg hsp] at hrun
    refine runs_intro hrun ⟨by rw [ut, htm], by rw [ut, htm], uk, fun h4 he h => absurd ?_ hsp, fun _ => ⟨uo, by rw [ut]⟩⟩
    rw [ut]
    simp only [h4, he, h]
    decide

end

/-- Settles O52: the frame's record, then heartbeats, records and beacons by what each one changes. -/
theorem recordsHeartbeatsAndBeacons : Obligations.RecordsHeartbeatsAndBeacons := by
  unfold Obligations.RecordsHeartbeatsAndBeacons
  intro s one lost
  refine ⟨fun len ht => ?_, fun len h => ?_, fun len h hoff => ?_, fun h => ?_, fun p => ?_, fun r => ?_, ?_, fun h4 hp hk => ?_, fun h => ?_,
    fun b hc hs hl => beacon_shows hc hs hl, fun b h => ?_⟩
  · exact runs_intro (next_congr (entry_takes ht)) (closeRecord_shows _ len)
  · exact next_congr (entry_waiting h)
  · exact next_congr (entry_off h hoff)
  · intro counts good
    refine ⟨fun hc => next_congr (if_pos ?_), fun ⟨h1, h2, h3, h4, h5⟩ => heartbeat_counts h1 h2 h3 h4 h5⟩
    by_contra hn
    simp only [Bool.or_eq_true, Bool.and_eq_true, Bool.not_eq_true', decide_eq_true_eq, beq_iff_eq, not_or, not_and, Bool.not_eq_false, Nat.not_lt,
      Bool.not_eq_true] at hn
    obtain ⟨⟨⟨⟨h1, h2⟩, h3⟩, h4⟩, h5⟩ := hn
    exact hc ⟨h1, h2, h3, h4, h5⟩
  · intro seen k
    refine ⟨fun ho hn => heartbeatMiss_shows ho hn, fun h => next_congr (if_pos ?_)⟩
    rcases h with h | h
    · rw [h]
      rfl
    · have h : (if p = 0 then s.twin.link else s.twin.tether) = true := h
      rw [h]
      simp
  · intro takes stored
    refine ⟨fun h => next_congr (if_pos ?_), fun ⟨h1, h2, h3, h4, h5⟩ => inputRecord_takes h1 h2 h3 h4 h5⟩
    by_contra hn
    simp only [Bool.or_eq_true, Bool.not_eq_true', decide_eq_true_eq, not_or, ne_eq, not_not, Bool.not_eq_true, Bool.not_eq_false, bne_iff_ne] at hn
    obtain ⟨⟨⟨⟨h1, h2⟩, h3⟩, h4⟩, h5⟩ := hn
    exact h ⟨h1, h2, h3, h4, h5⟩
  · intro gone
    refine ⟨fun ⟨h3, hr, e, he, hk⟩ hi => runs_intro (next_congr ?_) ((recLost_loses hi).lost rfl), fun ⟨h3, hr, e, he, hk⟩ hi hj hp => ?_,
      fun h => next_congr ?_⟩
    · rw [he]
      exact if_pos (by rw [h3, hr, hi]; simpa using hk)
    · have heq : s.recLost = s.joinFail 5 := by
        unfold State.recLost
        rw [if_neg (by rw [hi]; decide)]
      have hf := joinFail_fails (code := 5) hj (by decide)
      refine runs_intro (t := s.joinFail 5) (next_congr ?_) ⟨by rw [hf.twin]; rfl, hf.code, hf.count⟩
      rw [he, ← heq]
      exact if_pos (by rw [h3, hr, hj, hp]; simpa using hk)
    · split
      · rfl
      · next e he =>
        refine if_neg fun hc => ?_
        simp only [Bool.and_eq_true, Bool.or_eq_true, decide_eq_true_eq, Option.isNone_iff_eq_none] at hc
        obtain ⟨⟨⟨h3, hi⟩, hr⟩, hk⟩ := hc
        rcases h with h | ⟨h1, h2⟩
        · exact h ⟨h3, hr, e, he, hk⟩
        · rcases hi with hi | ⟨hj, hp⟩
          · exact absurd (h1.symm.trans hi) (by decide)
          · rcases h2 with h2 | h2
            · exact absurd (h2.symm.trans hj) (by decide)
            · exact absurd (h2.symm.trans hp) (by decide)
  · have hs : s.mstate ≠ 6 := by
      rw [h4]
      decide
    obtain ⟨f1, f2⟩ := enterFault_enters (e := 0x0A) (c := 6) hs (by decide)
    exact runs_intro (next_congr (if_pos (by rw [h4, hp]; simpa using hk))) ⟨f1, f2, enterFault_engine hs (by decide)⟩
  · refine next_congr (if_neg fun hc => ?_)
    simp only [Bool.and_eq_true, decide_eq_true_eq] at hc
    obtain ⟨⟨h4, hp⟩, hk⟩ := hc
    rcases h with h | h | h
    · exact h h4
    · exact absurd (h.symm.trans hp) (by decide)
    · omega
  · refine next_congr (if_pos ?_)
    rcases h with h | h | h
    · simp [h]
    · simp [h]
    · simp [h]

end Sys2Proof.Machine
end

section
/-! ### Meter saves and power fails (R339 to R343) -/

namespace Sys2Proof.Machine

section
variable {s : State}

theorem andShown_eq (s r : State) : ∃ v, s.andShown r = { r with vis := v } := by
  unfold State.andShown
  split
  · exact ⟨r.vis, rfl⟩
  · exact ⟨_, rfl⟩

/-- A command that is shown with the tick runs where it holds of the state beside what readers are shown. -/
theorem runs_andShown {c : Instr} {r : State} {post : State → Prop} (h : exec c s = .next (s.andShown r)) (hp : ∀ v, post { r with vis := v }) :
    runs c s post := by
  obtain ⟨v, hv⟩ := andShown_eq s r
  rw [hv] at h
  exact runs_intro h (hp v)

/-! #### Saves (R339, R340) -/

/-- The slot whose turn it is, as a save begins. -/
def MetNv.opened (n : MetNv) : MetNv := if n.next = 0 then { n with a := none } else { n with b := none }

/-- The slot whose turn it was, with its save committed. -/
def MetNv.saved (m : MetSave) (n : MetNv) : MetNv :=
  if n.next = 0 then { n with a := some m, next := 1 } else { n with b := some m, next := 0 }

theorem meterSave_starts (h : s.met.saveDue = true) : runs .meterSave s (fun t => t.met.saveDue = false ∧ t.bit (bitAt 0x1A04C 12) = true
    ∧ t.met.saving = some (s.metSnap ((s.fld (wordAt 0x1A050) + 1) % 2 ^ 32)) ∧ t.rd 0x1A050 = s.rd 0x1A050
    ∧ (s.metNv.next = 0 → t.metNv = { s.metNv with a := none }) ∧ (s.metNv.next ≠ 0 → t.metNv = { s.metNv with b := none })) := by
  obtain ⟨m, hm⟩ : ∃ m, m = s.metSnap ((s.fld (wordAt 0x1A050) + 1) % 2 ^ 32) := ⟨_, rfl⟩
  obtain ⟨u, hu⟩ : ∃ u, u = (s.metMod (fun q => { q with saveDue := false, saving := some m })).metNvMod MetNv.opened := ⟨_, rfl⟩
  have hrun : exec .meterSave s = .next (s.andShown (u.setB (bitAt 0x1A04C 12) true)) := next_congr (congrArg s.andShown
    ((if_neg (by rw [h]; decide)).trans (by rw [hu, hm]; rfl)))
  have umet : (u.setB (bitAt 0x1A04C 12) true).met = { s.met with saveDue := false, saving := some m } := by
    rw [met_setB, hu]
    rfl
  have unv : (u.setB (bitAt 0x1A04C 12) true).metNv = s.metNv.opened := by
    rw [metNv_setB, hu]
    rfl
  have ur : (u.setB (bitAt 0x1A04C 12) true).rd 0x1A050 = s.rd 0x1A050 := by
    rw [rd_setB_apart (by decide), hu]
    rfl
  have ub : (u.setB (bitAt 0x1A04C 12) true).bit (bitAt 0x1A04C 12) = true := bit_setB_self (by decide) rfl
  obtain ⟨t, ht⟩ : ∃ t, t = u.setB (bitAt 0x1A04C 12) true := ⟨_, rfl⟩
  rw [← ht] at hrun umet unv ur ub
  refine runs_andShown hrun fun v => ⟨(congrArg MetSt.saveDue umet :), ub, ?_, ur, fun h0 => ?_, fun h0 => ?_⟩
  · rw [← hm]
    exact (congrArg MetSt.saving umet :)
  · exact unv.trans (if_pos h0)
  · exact unv.trans (if_neg h0)

theorem meterSave_commits {m : MetSave} (h : s.met.saving = some m) : runs (.meterSaveVerify true) s (fun t => t.rd 0x1A050 = BitVec.ofNat 32 m.seq
    ∧ t.met.saving = none ∧ t.bit (bitAt 0x1A04C 12) = false
    ∧ (s.metNv.next = 0 → t.metNv = { s.metNv with a := some m, next := 1 })
    ∧ (s.metNv.next ≠ 0 → t.metNv = { s.metNv with b := some m, next := 0 })) := by
  obtain ⟨u, hu⟩ : ∃ u, u = (s.metMod (fun q => { q with saving := none })).setB (bitAt 0x1A04C 12) false := ⟨_, rfl⟩
  obtain ⟨w, hw⟩ : ∃ w, w = u.wr 0x1A050 (BitVec.ofNat 32 m.seq) := ⟨_, rfl⟩
  have hrun : exec (.meterSaveVerify true) s = .next (w.metNvMod (MetNv.saved m)) := next_congr (by
    rw [h]
    dsimp only
    rw [if_pos rfl, hw, hu]
    rfl)
  have wm : w.met = { s.met with saving := none } := by
    rw [hw, met_wr, hu, met_setB]
    rfl
  have wn : w.metNv = s.metNv := by
    rw [hw, metNv_wr, hu, metNv_setB]
    rfl
  have wr : w.rd 0x1A050 = BitVec.ofNat 32 m.seq := hw ▸ rd_wr_self
  have wb : w.bit (bitAt 0x1A04C 12) = false := by
    rw [hw, bit_wr_apart (by decide), hu]
    exact bit_setB_self (by decide) rfl
  have hnv : (w.metNvMod (MetNv.saved m)).metNv = s.metNv.saved m := congrArg (MetNv.saved m) wn
  exact runs_intro hrun ⟨wr, (congrArg MetSt.saving wm :), wb, fun h0 => hnv.trans (if_pos h0), fun h0 => hnv.trans (if_neg h0)⟩

theorem meterSave_fails {m : MetSave} (h : s.met.saving = some m) : runs (.meterSaveVerify false) s (fun t => t.metNv = s.metNv
    ∧ t.rd 0x1A050 = s.rd 0x1A050 ∧ t.met.saving = none ∧ t.bit (bitAt 0x1A010 2) = true
    ∧ t.fld Ctr.EMET_SAVE_FAIL.f = min (2 ^ 32 - 1) (s.fld Ctr.EMET_SAVE_FAIL.f + 1)) := by
  obtain ⟨u, hu⟩ : ∃ u, u = (s.metMod (fun q => { q with saving := none })).setB (bitAt 0x1A04C 12) false := ⟨_, rfl⟩
  have hrun : exec (.meterSaveVerify false) s = .next ((u.bump .EMET_SAVE_FAIL).raiseEv 0x1A 2) := next_congr (by
    rw [h]
    dsimp only
    rw [if_neg (by decide), hu])
  have um : u.met = { s.met with saving := none } := by
    rw [hu, met_setB]
    rfl
  refine runs_intro hrun ⟨?_, ?_, ?_, bit_raiseEv_self (by decide) (by decide) (by decide) rfl, ?_⟩
  · rw [metNv_raiseEv, metNv_bump, hu, metNv_setB]
    rfl
  · rw [rd_raiseEv_apart (by decide) (by decide) (by decide) (by decide) (by decide), rd_bump (by decide) (by decide), hu, rd_setB_apart (by decide)]
    rfl
  · rw [met_raiseEv, met_bump, um]
  · rw [fld_raiseEv_apart (by decide) (by decide) (by decide) (by decide) (by decide), fld_bump_stays rfl (by decide) (.inl (by decide)), hu,
      fld_setB_apart (by decide)]
    rfl

/-! #### Power fails (R341 to R343) -/

/-- The registers that shedding the loads may write. -/
def shedReg (a : Nat) : Prop :=
  pageOf a = 0x25 ∨ pageOf a = 0x0B ∨ pageOf a = 7 ∨ pageOf a = 8 ∨ a = 0x2040 ∨ a = 0x1D044

theorem near_shedLoads (u : State) : Near shedReg (fun _ => True) u u.shedLoads := by
  unfold State.shedLoads
  extract_lets s1
  have h1 : Near shedReg (fun _ => True) u s1 := near_setB (near_optHalt (fun a ha => by
      unfold shedReg
      rcases ha with h | h
      · exact .inl h
      · exact .inr (.inl h)) (fun a ha => by
      have h : pageOf a = 0x25 ∨ pageOf a = 7 ∨ pageOf a = 8 := by
        unfold evReg at ha
        simp only [addrOf_eq, pageOf_eq] at ha ⊢
        omega
      unfold shedReg
      rcases h with h | h | h
      · exact .inl h
      · exact .inr (.inr (.inl h))
      · exact .inr (.inr (.inr (.inl h)))) (fun _ _ => trivial) u) (.inr (.inr (.inr (.inr (.inl rfl)))))
  have h2 : Near shedReg (fun _ => True) u ([0, 1, 2, 3, 4].foldl (fun a p => lineDown p a) s1) :=
    near_foldl h1 fun a p _ ha => ha.trans (near_lineDown p a)
  exact near_setF (near_setF h2 (.inr (.inr (.inr (.inr (.inr rfl)))))) (.inr (.inr (.inr (.inr (.inr rfl)))))

theorem bit_lineDown (p : Nat) (u : State) (f : Fld) : (lineDown p u).bit f = u.bit f := by
  unfold lineDown
  split
  · exact bit_snetMod ..
  · rfl

theorem shedLoads_shows (u : State) : u.shedLoads.bit pwrShed = true ∧ u.shedLoads.bit pwrPf = u.bit pwrPf
    ∧ (∀ p, p < 5 → u.shedLoads.lineUp p = false) := by
  unfold State.shedLoads
  extract_lets s1
  have h1 : s1.bit pwrShed = true := bit_setB_self (by decide) rfl
  have h2 : s1.bit pwrPf = u.bit pwrPf := (bit_setB_apart (.inr (by decide))).trans (bit_of_rd (f := pwrPf)
    ((near_optHalt (p := fun a => pageOf a = 0x25 ∨ pageOf a = 0x0B ∨ evReg 0x25 a) (q := fun _ => True)
      (fun a ha => ha.imp_right .inl) (fun a ha => .inr (.inr ha)) (fun _ _ => trivial) u).regs _ (by unfold evReg; decide)))
  obtain ⟨w, hw⟩ : ∃ w, w = [0, 1, 2, 3, 4].foldl (fun a p => lineDown p a) s1 := ⟨_, rfl⟩
  have hb : ∀ f, w.bit f = s1.bit f := fun f => by
    rw [hw]
    simp only [List.foldl_cons, List.foldl_nil, bit_lineDown]
  have hl : ∀ p, p < 5 → w.lineUp p = false := fun p hp => by
    rw [hw]
    simp only [List.foldl_cons, List.foldl_nil]
    by_cases h4 : p = 4
    · subst h4
      exact lineDown_down ..
    by_cases h3 : p = 3
    · subst h3
      rw [lineDown_other (by decide)]
      exact lineDown_down ..
    by_cases h2 : p = 2
    · subst h2
      rw [lineDown_other (by decide), lineDown_other (by decide)]
      exact lineDown_down ..
    by_cases h1 : p = 1
    · subst h1
      rw [lineDown_other (by decide), lineDown_other (by decide), lineDown_other (by decide)]
      exact lineDown_down ..
    · have h0 : p = 0 := by omega
      subst h0
      rw [lineDown_other (by decide), lineDown_other (by decide), lineDown_other (by decide), lineDown_other (by decide)]
      exact lineDown_down ..
  rw [← hw]
  exact ⟨(bit_aoutStat (by decide)).trans ((hb _).trans h1), (bit_aoutStat (by decide)).trans ((hb _).trans h2), hl⟩

/-- The state of a module whose supply has failed, before it sheds its loads. -/
def State.pfNoted (s : State) (ns shedUs : Nat) : State :=
  let s1 := (s.pwrMod (fun _ => { pfAt := some (s.elapsed ns), done := false })).setB pwrPf true
  let s2 := ((s1.bump .PWR_PF).raiseEv 2 0).wr 0x2070 (BitVec.ofNat 32 (s.instant ns).1)
  let s3 := (s2.setB (bitAt 0x1A04C 14) false).tkeep (fun k => !(tkeyTid k == 0x1A03 || tkeyTid k == 0x1B03))
  (s3.metNvMod (fun n => { n with tail := none })).setF ⟨0x2074, 0, 16⟩ shedUs

theorem powerFail_eq (s : State) (ns sh : Nat) : exec (.powerFail ns sh) s = .next (if s.powerFailing then s else (s.pfNoted ns sh).shedLoads) := rfl

theorem pfNoted_shows (s : State) (ns sh : Nat) : (s.pfNoted ns sh).pwr = { pfAt := some (s.elapsed ns), done := false }
    ∧ (s.pfNoted ns sh).bit pwrPf = true ∧ (s.pfNoted ns sh).bit (bitAt 0x2010 0) = true ∧ (s.pfNoted ns sh).metNv.tail = none
    ∧ (s.pfNoted ns sh).rd 0x2070 = BitVec.ofNat 32 (s.instant ns).1
    ∧ (s.pfNoted ns sh).fld Ctr.PWR_PF.f = min (2 ^ 32 - 1) (s.fld Ctr.PWR_PF.f + 1) := by
  unfold State.pfNoted
  extract_lets s1 s2 s3
  have h1b : s1.bit pwrPf = true := bit_setB_self (by decide) rfl
  have h1p : s1.pwr = { pfAt := some (s.elapsed ns), done := false } := by
    unfold s1
    rw [pwr_setB]
    rfl
  have h1c : s1.fld Ctr.PWR_PF.f = s.fld Ctr.PWR_PF.f := by
    unfold s1
    rw [fld_setB_apart (by decide)]
    rfl
  obtain ⟨e, he⟩ : ∃ e, e = (s1.bump .PWR_PF).raiseEv 2 0 := ⟨_, rfl⟩
  have eb : e.bit pwrPf = true := by
    rw [he, bit_raiseEv_apart (by decide) (by decide) (by decide) (by decide) (by decide), bit_bump_apart (by decide) (by decide)]
    exact h1b
  have ev : e.bit (bitAt 0x2010 0) = true := he ▸ bit_raiseEv_self (by decide) (by decide) (by decide) rfl
  have ep : e.pwr = s1.pwr := by rw [he, pwr_raiseEv, pwr_bump]
  have ec : e.fld Ctr.PWR_PF.f = min (2 ^ 32 - 1) (s.fld Ctr.PWR_PF.f + 1) := by
    rw [he, fld_raiseEv_apart (by decide) (by decide) (by decide) (by decide) (by decide), ← h1c]
    exact fld_bump_stays rfl (by decide) (.inl (by decide))
  have h3 : s3.regs = ((e.wr 0x2070 (BitVec.ofNat 32 (s.instant ns).1)).setB (bitAt 0x1A04C 14) false).regs := by
    unfold s3 s2
    rw [he]
    rfl
  have h3p : s3.pwr = e.pwr := by
    unfold s3
    show (s2.setB (bitAt 0x1A04C 14) false).pwr = _
    rw [pwr_setB]
    unfold s2
    rw [pwr_wr, he]
  obtain ⟨w, hw⟩ : ∃ w, w = s3.metNvMod (fun n => { n with tail := none }) := ⟨_, rfl⟩
  have wr : w.regs = s3.regs := hw ▸ rfl
  have wp : w.pwr = s3.pwr := hw ▸ rfl
  have wt : w.metNv.tail = none := hw ▸ rfl
  rw [← hw]
  have hreg := wr.trans h3
  refine ⟨by rw [pwr_setF, wp, h3p, ep, h1p], ?_, ?_, by rw [metNv_setF, wt], ?_, ?_⟩
  · rw [bit_setF_apart (by decide), bit_of_regs hreg, bit_setB_apart (by decide), bit_wr_apart (by decide), eb]
  · rw [bit_setF_apart (by decide), bit_of_regs hreg, bit_setB_apart (by decide), bit_wr_apart (by decide), ev]
  · rw [rd_setF_apart (by decide)]
    refine Eq.trans (b := ((e.wr 0x2070 (BitVec.ofNat 32 (s.instant ns).1)).setB (bitAt 0x1A04C 14) false).rd 0x2070) ?_ ?_
    · unfold State.rd
      rw [hreg]
    · rw [rd_setB_apart (by decide), rd_wr_self]
  · rw [fld_setF_apart (by decide), fld_of_regs hreg, fld_setB_apart (by decide), fld_wr_apart (by decide), ec]

theorem powerFail_sheds {ns sh : Nat} (hf : s.powerFailing = false) : runs (.powerFail ns sh) s (fun t => t.pwr = { pfAt := some (s.elapsed ns), done := false }
    ∧ t.bit pwrPf = true ∧ t.bit pwrShed = true ∧ t.bit (bitAt 0x2010 0) = true ∧ (∀ p, p < 5 → t.lineUp p = false)
    ∧ t.metNv.tail = none ∧ t.rd 0x2070 = BitVec.ofNat 32 (s.instant ns).1
    ∧ t.fld Ctr.PWR_PF.f = min (2 ^ 32 - 1) (s.fld Ctr.PWR_PF.f + 1)) := by
  have hrun := powerFail_eq s ns sh
  rw [if_neg (by rw [hf]; decide)] at hrun
  obtain ⟨n1, n2, n3, n4, n5, n6⟩ := pfNoted_shows s ns sh
  obtain ⟨u, hu⟩ : ∃ u, u = s.pfNoted ns sh := ⟨_, rfl⟩
  rw [← hu] at hrun n1 n2 n3 n4 n5 n6
  obtain ⟨w1, w2, w3⟩ := shedLoads_shows u
  have hn := near_shedLoads u
  have hk := (shedLoads_keeps (Keeps.refl _ u) (List.Subset.refl _)).only
  have hnv : u.shedLoads.metNv = u.metNv := hk .metNv (by decide)
  have hoff : ∀ a, a = 0x2010 ∨ a = 0x2070 ∨ a = 0x205C → ¬ shedReg a := fun a ha => by
    unfold shedReg
    simp only [pageOf_eq]
    omega
  exact runs_intro hrun ⟨(hk .pwr (by decide) : u.shedLoads.pwr = u.pwr).trans n1, w2.trans n2, w1, (bit_of_rd (f := bitAt 0x2010 0) (hn.regs _ (hoff _ (.inl rfl)))).trans n3,
    w3, by rw [hnv, n4], (hn.regs _ (hoff _ (.inr (.inl rfl)))).trans n5, (fld_of_rd (f := Ctr.PWR_PF.f) (hn.regs _ (hoff _ (.inr (.inr rfl))))).trans n6⟩

/-- The snapshot commits the last gasp and the tail record (R341, R342). -/
theorem pfSnapshot_commits {pf commit : Nat} {ok : Bool} (hp : s.pwr.pfAt = some pf) (hd : s.pwr.done = false) (ht : pf + 12000000 ≤ s.elapsed 0) :
    runs (.pfSnapshot commit ok) s (fun t =>
      t.pwr.done = true ∧ (∃ m, t.metNv.tail = some m) ∧ (∀ e ∈ t.met.ints, e.2.pf = true) ∧ t.met.ints.length = s.met.ints.length
        ∧ (ok = true → t.metNv.gasp = some (s.metSnap ((s.fld (wordAt 0x1A050) + 1) % 2 ^ 32))
            ∧ t.fld (wordAt 0x1A050) = (s.fld (wordAt 0x1A050) + 1) % 2 ^ 32)
        ∧ (ok = false → t.metNv.gasp = none ∧ t.rd 0x1A050 = s.rd 0x1A050)) := by
  obtain ⟨tail, htl⟩ : ∃ m, m = s.tailRecord (min 2000 ((commit + 1500000) / 1000)) := ⟨_, rfl⟩
  obtain ⟨g, hg⟩ : ∃ g, g = s.lastGasp ok := ⟨_, rfl⟩
  obtain ⟨u, hu⟩ : ∃ u, u = g.metPowerOff.metNvMod (fun n => { n with tail := some tail }) := ⟨_, rfl⟩
  obtain ⟨x, hx⟩ : ∃ x, x = u.setF ⟨0x2074, 16, 16⟩ ((s.elapsed commit - pf) / 10000) := ⟨_, rfl⟩
  obtain ⟨w, hw⟩ : ∃ w, w = x.pwrMod (fun p => { p with done := true }) := ⟨_, rfl⟩
  have hrun : exec (.pfSnapshot commit ok) s = .next (s.andShown w.aoutStat) := next_congr (congrArg s.andShown (by
    rw [hp]
    dsimp only
    rw [if_neg (by rw [hd]; simpa using ht), ← htl, ← hg, ← hu, ← hx, ← hw]))
  have gm : g.met = s.met := by
    rw [hg]
    unfold State.lastGasp
    cases ok
    · rfl
    · exact met_wr ..
  have gr : (ok = true → g.metNv.gasp = some (s.metSnap ((s.fld (wordAt 0x1A050) + 1) % 2 ^ 32))
      ∧ g.rd 0x1A050 = BitVec.ofNat 32 ((s.fld (wordAt 0x1A050) + 1) % 2 ^ 32)) ∧ (ok = false → g.metNv.gasp = none ∧ g.rd 0x1A050 = s.rd 0x1A050) := by
    rw [hg]
    unfold State.lastGasp
    cases ok
    · exact ⟨fun h => (nomatch h), fun _ => ⟨rfl, rfl⟩⟩
    · refine ⟨fun _ => ⟨?_, rd_wr_self⟩, fun h => nomatch h⟩
      rw [if_pos rfl, metNv_wr]
      rfl
  have wnv : w.metNv = { g.metNv with tail := some tail } := by
    rw [hw]
    show x.metNv = _
    rw [hx, metNv_setF, hu]
    rfl
  have wmet : w.met = g.metPowerOff.met := by
    rw [hw]
    show x.met = _
    rw [hx, met_setF, hu]
    rfl
  have wrd : w.aoutStat.rd 0x1A050 = g.rd 0x1A050 := by
    rw [rd_aoutStat (by decide), hw]
    show x.rd 0x1A050 = _
    rw [hx, rd_setF_apart (by decide), hu]
    rfl
  have wdone : w.pwr.done = true := by rw [hw]; rfl
  have hnv : w.aoutStat.metNv = w.metNv := (metNv_setF ..).trans (metNv_setF ..)
  have hmet : w.aoutStat.met = w.met := (met_setF ..).trans (met_setF ..)
  have hpwr : w.aoutStat.pwr = w.pwr := (pwr_setF ..).trans (pwr_setF ..)
  obtain ⟨t, htt⟩ : ∃ t, t = w.aoutStat := ⟨_, rfl⟩
  rw [← htt] at hrun wrd hnv hmet hpwr
  have tints : t.met.ints = s.met.ints.map (fun e => (e.1, { e.2 with pf := true })) := by
    rw [hmet, wmet, ← gm]
    rfl
  have tnv := hnv.trans wnv
  refine runs_andShown hrun fun v => ⟨(congrArg PwrSt.done hpwr :).trans wdone, ⟨tail, (congrArg MetNv.tail tnv :)⟩, fun e he => ?_, ?_, fun h => ⟨?_, ?_⟩,
    fun h => ⟨?_, wrd.trans (gr.2 h).2⟩⟩
  · have he : e ∈ t.met.ints := he
    rw [tints] at he
    obtain ⟨x, -, rfl⟩ := List.mem_map.1 he
    rfl
  · show t.met.ints.length = _
    rw [tints, List.length_map]
  · exact (congrArg MetNv.gasp tnv :).trans (gr.1 h).1
  · show wbits (t.rd 0x1A050) 0 32 = _
    rw [wrd, (gr.1 h).2, wbits_ofNat (by decide)]
    rw [Nat.pow_zero, Nat.div_one, Nat.mod_mod]
  · exact (congrArg MetNv.gasp tnv :).trans (gr.2 h).1

/-- The loads return (R343). -/
theorem powerRestored_returns {pf ns : Nat} (hp : s.pwr.pfAt = some pf) (hd : s.pwr.done = false) (ht : pf + 10000000 ≤ s.elapsed ns) :
    runs (.powerRestored ns) s (fun t => t.powerFailing = false ∧ t.bit pwrPf = false ∧ t.bit pwrShed = false ∧ t.bit (bitAt 0x2010 1) = true
      ∧ t.fld Ctr.PWR_RESTORED.f = min (2 ^ 32 - 1) (s.fld Ctr.PWR_RESTORED.f + 1)) := by
  obtain ⟨u, hu⟩ : ∃ u, u = ((s.pwrMod (fun p => { p with pfAt := none })).setB pwrPf false).setB pwrShed false := ⟨_, rfl⟩
  have hrun : exec (.powerRestored ns) s = .next ((u.aoutStat.bump .PWR_RESTORED).raiseEv 2 1) := next_congr (by
    rw [hp]
    dsimp only
    rw [if_neg (by rw [hd]; simpa using ht), ← hu])
  have up : u.pwr = { s.pwr with pfAt := none } := by
    rw [hu, pwr_setB, pwr_setB]
    rfl
  have ub1 : u.bit pwrShed = false := hu ▸ bit_setB_self (by decide) rfl
  have ub2 : u.bit pwrPf = false := by
    rw [hu, bit_setB_apart (.inr (by decide))]
    exact bit_setB_self (by decide) rfl
  have uc : u.fld Ctr.PWR_RESTORED.f = s.fld Ctr.PWR_RESTORED.f := by
    rw [hu, fld_setB_apart (by decide), fld_setB_apart (by decide)]
    rfl
  have hb : ∀ f : Fld, f.addr = 0x2040 → ((u.aoutStat.bump .PWR_RESTORED).raiseEv 2 1).bit f = u.bit f := fun f hf => by
    rw [bit_raiseEv_apart (by decide) (by rw [hf]; decide) (by rw [hf]; decide) (by rw [hf]; decide) (by rw [hf]; decide),
      bit_bump_apart (by rw [hf]; decide) (by rw [hf]; decide)]
    exact bit_aoutStat (by rw [hf]; decide)
  have hpw : ((u.aoutStat.bump .PWR_RESTORED).raiseEv 2 1).pwr = u.pwr := by
    rw [pwr_raiseEv, pwr_bump]
    exact (pwr_setF ..).trans (pwr_setF ..)
  refine runs_intro hrun ⟨?_, (hb _ rfl).trans ub2, (hb _ rfl).trans ub1, bit_raiseEv_self (by decide) (by decide) (by decide) rfl, ?_⟩
  · unfold State.powerFailing
    rw [hpw, up]
    rfl
  · rw [fld_raiseEv_apart (by decide) (by decide) (by decide) (by decide) (by decide), fld_bump_stays rfl (by decide) (.inl (by decide)),
      fld_aoutStat (by decide), uc]
    rfl

end

/-- Settles O42: the save that starts, is committed or fails, then the power fail from its start to its end. -/
theorem savesAndPowerFail : Obligations.SavesAndPowerFail := by
  unfold Obligations.SavesAndPowerFail
  refine ⟨fun s => ⟨meterSave_starts, fun h => ?_, fun m => meterSave_commits, fun m => meterSave_fails, fun ok h => next_congr ?_, ?_⟩,
    fun s => ⟨fun ns sh hf _ => powerFail_sheds hf, fun ns sh h => ?_, fun pf commit ok => pfSnapshot_commits, fun pf commit ok hp h => ?_,
      fun pf ns => powerRestored_returns, fun pf ns hp h => next_congr ?_, fun ns h => next_congr ?_⟩⟩
  · exact next_congr ((congrArg s.andShown (if_pos (by rw [h]; rfl))).trans (andShown_self s))
  · rw [h]
  · refine runs_intro (next_congr rfl) ⟨?_, bit_setB_self (by decide) rfl, fun a ha => ?_, (setB_keeps (metMod_keeps (Keeps.refl _ s) (by decide)) (by decide)).only⟩
    · show (State.setB _ _ _).met.unrestored = false
      rw [met_setB]
      rfl
    · exact rd_setB_apart (f := bitAt 0x1A04C 13) (s := s.metMod (fun q => { q with unrestored := false })) ha
  · have hrun := powerFail_eq s ns sh
    rwa [if_pos h] at hrun
  · refine next_congr ((congrArg s.andShown ?_).trans (andShown_self s))
    rw [hp]
    exact if_pos (by simpa using h)
  · rw [hp]
    exact if_pos (by simp [h])
  · cases hp : s.pwr.pfAt with
    | none => rfl
    | some pf =>
      rcases h with h | h
      · rw [hp] at h
        cases h
      · exact if_pos (by simp [h])

end Sys2Proof.Machine
end

section
/-! ### Solves start and end (R183 to R186) -/

namespace Sys2Proof.Machine

/-! #### The end of a solve with another code than OK -/

/-- The registers that the end of a solve writes. -/
def endReg (a : Nat) : Prop :=
  a = 0x25094 ∨ a = 0x25098 ∨ a = 0x25048 ∨ a = 0x2504C ∨ a = 0x250B8 ∨ a = 0x250C0 ∨ a = 0x250D8 ∨ a = 0xB114 ∨ a = 0xB120 ∨ evReg 0x25 a

theorem not_endReg {a : Nat} (h : a = 0x250CC ∨ a = 0x250BC ∨ a = 0x0054 ∨ a = 0x604C) : ¬ endReg a := by
  unfold endReg evReg
  simp only [addrOf_eq, pageOf_eq]
  omega

/-- The word of OPT_LAST. -/
def lastWord (code group stage index : Nat) : Word := BitVec.ofNat 32 (code * 2 ^ 24 + group % 2 ^ 4 * 2 ^ 20 + stage * 2 ^ 16 + index % 2 ^ 16)

theorem lastWord_fields {code group stage index : Nat} (hc : code < 16) (hs : stage < 16) : wbits (lastWord code group stage index) 24 8 = code
    ∧ wbits (lastWord code group stage index) 24 4 = code ∧ wbits (lastWord code group stage index) 16 4 = stage := by
  unfold lastWord
  rw [wbits_ofNat (by decide), wbits_ofNat (by decide), wbits_ofNat (by decide)]
  omega

section
variable {s : State}

theorem near_noteEnd (u : State) (w : Word) : Near endReg evTbl u (u.noteEnd w) := by
  have h1 := fun f => near_optMod (f := f) (near_wr (a := 0x2504C) (v := w) (Near.refl endReg evTbl u) (.inr (.inr (.inr (.inl rfl)))))
  exact near_ite' (near_bump (h1 _) (.inr (.inr (.inr (.inr (.inr (.inl rfl)))))) (.inr (.inr (.inr (.inr (.inr (.inr (.inl rfl))))))))
    (near_raiseEv (near_bump (h1 _) (.inr (.inr (.inr (.inr (.inl rfl))))) (.inr (.inr (.inr (.inr (.inr (.inr (.inl rfl))))))) ) (by decide)
      (fun _ h => .inr (.inr (.inr (.inr (.inr (.inr (.inr (.inr (.inr h))))))))) fun _ => id)

/-- What a noted end shows and counts. -/
theorem noteEnd_shows (u : State) (w : Word) : (u.noteEnd w).rd 0x2504C = w ∧ (u.noteEnd w).rd 0x25048 = u.rd 0x25048
    ∧ (u.noteEnd w).opt.run = u.opt.run ∧ (u.noteEnd w).opt.done = u.opt.done
    ∧ (wbits w 24 8 = 5 → (u.noteEnd w).fld Ctr.OPT_ABORT.f = min (2 ^ 32 - 1) (u.fld Ctr.OPT_ABORT.f + 1) ∧ u.onlyIn (u.noteEnd w) [.regs, .opt])
    ∧ (wbits w 24 8 ≠ 5 → (u.noteEnd w).fld Ctr.OPT_FAIL.f = min (2 ^ 32 - 1) (u.fld Ctr.OPT_FAIL.f + 1)
        ∧ (u.noteEnd w).bit (bitAt 0x25010 1) = true) := by
  unfold State.noteEnd
  extract_lets s1
  have ho : s1.opt = { u.opt with sec := { u.opt.sec with last := some w } } := by
    unfold s1
    show ({ (u.wr 0x2504C w).opt with sec := { (u.wr 0x2504C w).opt.sec with last := some w } } : OptSt) = _
    rw [opt_wr]
  have hr : s1.regs = (u.wr 0x2504C w).regs := rfl
  have h1 : s1.rd 0x2504C = w := rd_wr_self
  have h2 : s1.rd 0x25048 = u.rd 0x25048 := rd_wr_apart (by decide)
  split
  · next h5 =>
    refine ⟨by rw [rd_bump (by decide) (by decide), h1], by rw [rd_bump (by decide) (by decide), h2], by rw [opt_bump, ho], by rw [opt_bump, ho],
      fun _ => ⟨?_, (bump_keeps (optMod_keeps (wr_keeps (Keeps.refl [.regs, .opt] u) (by decide)) (by decide)) (by decide)).only⟩, fun h => absurd h5 h⟩
    refine (fld_bump_stays rfl (by decide) (.inl (by decide))).trans ?_
    rw [fld_of_regs hr, fld_wr_apart (by decide)]
    rfl
  · next h5 =>
    refine ⟨?_, ?_, by rw [opt_raiseEv, opt_bump, ho], by rw [opt_raiseEv, opt_bump, ho], fun h => absurd h h5,
      fun _ => ⟨?_, bit_raiseEv_self (by decide) (by decide) (by decide) rfl⟩⟩
    · rw [rd_raiseEv_apart (by decide) (by decide) (by decide) (by decide) (by decide), rd_bump (by decide) (by decide), h1]
    · rw [rd_raiseEv_apart (by decide) (by decide) (by decide) (by decide) (by decide), rd_bump (by decide) (by decide), h2]
    · rw [fld_raiseEv_apart (by decide) (by decide) (by decide) (by decide) (by decide)]
      refine (fld_bump_stays rfl (by decide) (.inl (by decide))).trans ?_
      rw [fld_of_regs hr, fld_wr_apart (by decide)]
      rfl

/-- What a solve that has ended with a code other than OK shows. -/
structure SolveEnded (s t : State) (code stage : Nat) : Prop where
  run : t.opt.run = none
  done : t.opt.done = none
  code : t.fld ⟨0x2504C, 24, 4⟩ = code
  at_ : t.fld ⟨0x2504C, 16, 4⟩ = stage
  idle : t.solveStage = 0
  count : t.fld Ctr.OPT_FAIL.f = min (2 ^ 32 - 1) (s.fld Ctr.OPT_FAIL.f + 1)
  event : t.bit (bitAt 0x25010 1) = true
  near : Near endReg evTbl s t

theorem near_complete (u : State) (c : HCmd) (st : Status) (r : Word) :
    Near (fun a => a = 0xB114 ∨ a = 0xB120) (fun _ => False) u (u.complete c st r) := by
  unfold State.complete
  extract_lets s1 x rec4
  have h1 : Near (fun a => a = 0xB114 ∨ a = 0xB120) (fun _ => False) u s1 := near_hostMod (Near.refl _ _ u)
  exact near_ite' (near_addItem (near_sessMod h1)) (near_bump h1 (.inl rfl) (.inr rfl))

theorem optEnded_same (u : State) (c : Option HCmd) : (u.optEnded c).regs = u.regs ∧ (u.optEnded c).tbl = u.tbl
    ∧ (u.optEnded c).opt.run = u.opt.run ∧ (u.optEnded c).opt.done = u.opt.done := by
  cases c with
  | none => exact ⟨rfl, rfl, rfl, rfl⟩
  | some c => exact ⟨rfl, rfl, rfl, rfl⟩

theorem optClear_clears (u : State) : (u.optMod (fun o => { o with run := none, done := none })).opt.run = none
    ∧ (u.optMod (fun o => { o with run := none, done := none })).opt.done = none := ⟨rfl, rfl⟩

theorem endSolve_ends {u : State} (hr : u.opt.run ≠ none) {code group stage index : Nat} (hc : code < 16) (h5 : code ≠ 5) (hs : stage < 16) :
    SolveEnded u (u.endSolve code group stage index) code stage := by
  unfold State.endSolve
  split
  · next h => exact absurd h hr
  · next r _ =>
    extract_lets s1 s2 s3
    obtain ⟨v, hv⟩ : ∃ v, v = (s1.setF ⟨0x25048, 16, 3⟩ 0).optMod (fun o => { o with run := none, done := none }) := ⟨_, rfl⟩
    have h1 : Near endReg evTbl u v := by
      rw [hv]
      have h1 : Near endReg evTbl u s1 := near_wr (near_wr (Near.refl _ _ u) (.inl rfl)) (.inr (.inl rfl))
      exact near_optMod (near_setF h1 (.inr (.inr (.inl rfl))))
    have hvo : v.opt.run = none ∧ v.opt.done = none := by
      rw [hv]
      exact optClear_clears _
    have hvs : v.fld ⟨0x25048, 16, 3⟩ = 0 := by
      rw [hv]
      exact (fld_optMod ..).trans (fld_setF_self (by decide))
    have hvc : v.fld Ctr.OPT_FAIL.f = u.fld Ctr.OPT_FAIL.f := by
      rw [hv]
      exact (fld_optMod ..).trans ((fld_setF_apart (by decide)).trans ((fld_wr_apart (by decide)).trans (fld_wr_apart (by decide))))
    obtain ⟨l1, l2, l3⟩ := lastWord_fields (group := group) (index := index) hc hs
    obtain ⟨w, hw⟩ : ∃ w, w = lastWord code group stage index := ⟨_, rfl⟩
    rw [← hw] at l1 l2 l3
    have h2 : s2 = v.noteEnd w := by
      unfold s2
      rw [hv, hw, lastWord]
    obtain ⟨n1, n2, n3, n4, -, n6⟩ := noteEnd_shows v w
    obtain ⟨n6, n7⟩ := n6 (by rw [l1]; exact h5)
    have n8 := near_noteEnd v w
    rw [← h2] at n1 n2 n3 n4 n6 n7 n8
    have h3r : s3.regs = s2.regs ∧ s3.tbl = s2.tbl ∧ s3.opt.run = s2.opt.run ∧ s3.opt.done = s2.opt.done := by
      exact optEnded_same _ _
    obtain ⟨q1, q2, q3, q4⟩ := h3r
    have hpost : ∀ t : State, Near (fun a => a = 0xB114 ∨ a = 0xB120) (fun _ => False) s3 t → t.opt = s3.opt → SolveEnded u t code stage := fun t ht ho => by
      have hrd : ∀ a, a ≠ 0xB114 → a ≠ 0xB120 → t.rd a = s2.rd a := fun a ha hb => by
        rw [ht.regs a (fun hc => hc.elim ha hb)]
        unfold State.rd
        rw [q1]
      have hlast : t.rd 0x2504C = w := (hrd _ (by decide) (by decide)).trans n1
      refine ⟨by rw [ho, q3, n3, hvo.1], by rw [ho, q4, n4, hvo.2], ?_, ?_, ?_, ?_, ?_, ?_⟩
      · show wbits (t.rd 0x2504C) 24 4 = code
        rw [hlast, l2]
      · show wbits (t.rd 0x2504C) 16 4 = stage
        rw [hlast, l3]
      · exact (fld_of_rd (f := ⟨0x25048, 16, 3⟩) ((hrd _ (by decide) (by decide)).trans n2)).trans hvs
      · exact (fld_of_rd (f := Ctr.OPT_FAIL.f) (hrd _ (by decide) (by decide))).trans (n6.trans (by rw [hvc]))
      · exact (bit_of_rd (f := bitAt 0x25010 1) (hrd _ (show 0x25010 ≠ 0xB114 by decide) (show 0x25010 ≠ 0xB120 by decide))).trans n7
      · exact ((h1.trans n8).trans (near_same (Near.refl _ _ s2) q1 q2)).trans
          (ht.mono (fun _ h => .inr (.inr (.inr (.inr (.inr (.inr (.inr (h.imp_right .inl)))))))) fun _ => False.elim)
    split
    · exact hpost _ (near_complete _ _ _ _) (opt_complete' ..)
    · exact hpost _ (Near.refl _ _ s3) rfl

theorem endSolve_idle {u : State} (hr : u.opt.run = none) (code group stage index : Nat) : u.endSolve code group stage index = u := by
  unfold State.endSolve
  rw [hr]

theorem solveStage_lt (s : State) : s.solveStage < 8 := fld_lt s ⟨0x25048, 16, 3⟩

theorem haltSolve_ends {u : State} (hr : u.opt.run ≠ none) {code : Nat} (hc : code < 16) (h5 : code ≠ 5) :
    SolveEnded u (u.haltSolve code) code u.solveStage :=
  endSolve_ends hr hc h5 (Nat.lt_trans (solveStage_lt u) (by decide))

/-- The end of a solve as an obligation states it, counted from a state whose count is the same. -/
theorem SolveEnded.ended {u t : State} {code stage : Nat} (h : SolveEnded u t code stage) (hc : u.fld Ctr.OPT_FAIL.f = s.fld Ctr.OPT_FAIL.f) :
    t.opt.run = none ∧ t.opt.done = none ∧ t.fld ⟨0x2504C, 24, 4⟩ = code ∧ t.fld ⟨0x2504C, 16, 4⟩ = stage ∧ t.solveStage = 0
      ∧ t.fld Ctr.OPT_FAIL.f = min (2 ^ 32 - 1) (s.fld Ctr.OPT_FAIL.f + 1) ∧ t.bit (bitAt 0x25010 1) = true :=
  ⟨h.run, h.done, h.code, h.at_, h.idle, h.count.trans (by rw [hc]), h.event⟩

/-! #### The stages (R184) -/

/-- What a stage gives: a code of 1, 2, 3 or 10, no more iterations than it may make, and where it converges values that meet every constraint. -/
theorem iterate_gives (i : SolveIn) (stage : Nat) (fixed : List (Nat × Int)) : ∀ m n : Nat,
    ((i.iterate stage fixed m n).1 = 1 ∨ (i.iterate stage fixed m n).1 = 2 ∨ (i.iterate stage fixed m n).1 = 3 ∨ (i.iterate stage fixed m n).1 = 10)
    ∧ (i.iterate stage fixed m n).2.1 ≤ n + m
    ∧ ((i.iterate stage fixed m n).1 = 1 → Solution.feasible ⟨i, (i.iterate stage fixed m n).2.2⟩ = true) := by
  intro m
  induction m with
  | zero =>
    intro n
    unfold SolveIn.iterate
    exact ⟨.inr (.inr (.inl rfl)), Nat.le_refl _, fun h => absurd h (show 3 ≠ 1 by decide)⟩
  | succ m ih =>
    intro n
    unfold SolveIn.iterate
    dsimp only
    split
    · exact ⟨.inr (.inr (.inr rfl)), by dsimp only; omega, fun h => absurd h (show 10 ≠ 1 by decide)⟩
    · split
      · next hc =>
        refine ⟨.inl rfl, by dsimp only; omega, fun _ => ?_⟩
        unfold Solution.converged at hc
        exact (Bool.and_eq_true_iff.1 hc).1
      · split
        · exact ⟨.inr (.inl rfl), by dsimp only; omega, fun h => absurd h (show 2 ≠ 1 by decide)⟩
        · obtain ⟨h1, h2, h3⟩ := ih (n + 1)
          exact ⟨h1, by omega, h3⟩

theorem stage_gives (i : SolveIn) (stage : Nat) (fixed : List (Nat × Int)) :
    ((i.stage stage fixed).1 = 1 ∨ (i.stage stage fixed).1 = 2 ∨ (i.stage stage fixed).1 = 3 ∨ (i.stage stage fixed).1 = 10)
    ∧ (i.stage stage fixed).2.1 ≤ i.view.fld ⟨0x25058, 16, 16⟩
    ∧ ((i.stage stage fixed).1 = 1 → Solution.feasible ⟨i, (i.stage stage fixed).2.2⟩ = true) := by
  obtain ⟨h1, h2, h3⟩ := iterate_gives i stage fixed (i.view.fld ⟨0x25058, 16, 16⟩) 0
  exact ⟨h1, by rw [Nat.zero_add] at h2; exact h2, h3⟩

/-- A stage that begins. -/
theorem toStage_shows (s : State) {k : Nat} (hk : k < 8) (r : SolveSt) : (s.toStage k r).opt = { s.opt with run := some r } ∧ (s.toStage k r).solveStage = k
    ∧ s.regsBut (s.toStage k r) (fun a => a = 0x25048) ∧ s.onlyIn (s.toStage k r) [.regs, .opt] := by
  unfold State.toStage
  refine ⟨?_, ?_, (near_optMod (near_setF (q := fun _ => True) (Near.refl (fun a => a = 0x25048) _ s) rfl)).regs,
    (optMod_keeps (setF_keeps (Keeps.refl [.regs, .opt] s) (by decide)) (by decide)).only⟩
  · show ({ (s.setF ⟨0x25048, 16, 3⟩ k).opt with run := some r } : OptSt) = _
    rw [opt_setF]
  · exact (fld_optMod ..).trans ((fld_setF_self (by decide)).trans (Nat.mod_eq_of_lt hk))

theorem stageFails_ends (s : State) {r : SolveSt} {code n : Nat} (hc : code < 16) (h5 : code ≠ 5) :
    ∃ u, u.fld Ctr.OPT_FAIL.f = s.fld Ctr.OPT_FAIL.f ∧ SolveEnded u (s.stageFails r code n) code s.solveStage := by
  obtain ⟨u, hu⟩ : ∃ u, u = s.optMod (fun o => { o with run := some r }) := ⟨_, rfl⟩
  have hr : u.opt.run ≠ none := by
    rw [hu]
    exact Option.some_ne_none r
  have hs : s.solveStage < 16 := Nat.lt_trans (solveStage_lt s) (by decide)
  refine ⟨u, hu ▸ fld_optMod .., ?_⟩
  unfold State.stageFails
  dsimp only
  rw [← hu]
  split
  · next h10 =>
    subst h10
    exact endSolve_ends hr hc h5 hs
  · exact endSolve_ends hr hc h5 hs

end

end Sys2Proof.Machine
end

section
/-! #### The start of a solve (R183), and the obligation -/

namespace Sys2Proof.Machine

section
variable {s : State}

/-- The state from which a solve takes its inputs: with the fit of the day. -/
def State.solveReady (s : State) : State := (s.optMod (fun o => { o with ofsSolve := sint (s.rd 0x25060) })).dailyFit

/-- The solve that starts. -/
def State.newSolve (u : State) (cmd : Option HCmd) : SolveSt :=
  { fno := u.fno, clock := u.clockNs, cmd := cmd, inp := u.solveIn, relaxed := [], fixed := [], halved := false, it1 := 0, it3 := 0 }

/-- The short series of a solve that starts. -/
def State.shortSeries (u : State) : List Nat := (List.range 64).filter (fun x => u.namedSeries.contains x && serShort u.solveIn.tbl x u.solveIn.t0)

/-- The state after a solve has started, before its inputs are judged. -/
def State.solveBegun (u : State) (cmd : Option HCmd) : State :=
  let mask := u.shortSeries.foldl (fun n x => n + 2 ^ x) 0
  let s2 := ((u.wr 0x250A8 (lo32 mask)).wr 0x250AC (hi32 mask)).optMod (fun o =>
    { o with run := some (u.newSolve cmd), done := none, startReq := none, utc := some u.utcOfs, startAt := some u.fno })
  let s3 := (s2.setF ⟨0x25048, 16, 3⟩ 1)
  if u.shortSeries.isEmpty then s3 else s3.raiseEv 0x25 5

theorem startSolve_eq (s : State) (cmd : Option HCmd) : s.startSolve cmd =
    if !s.optClk then (s.solveReady.solveBegun cmd).haltSolve 8
    else if s.solveReady.inputFails s.solveReady.solveIn.tbl s.solveReady.solveIn.t0 then (s.solveReady.solveBegun cmd).haltSolve 6
    else s.solveReady.solveBegun cmd := rfl

theorem near_dailyFit (u : State) : Near (fun a => a = 0x250B0) (fun _ => True) u u.dailyFit := by
  unfold State.dailyFit
  extract_lets day s1
  have h1 : Near (fun a => a = 0x250B0) (fun _ => True) u s1 := near_foldl (Near.refl _ _ u) fun a c _ ha => by
    dsimp only
    unfold State.putFit
    exact near_foldl (near_twr ha trivial) fun b i _ hb => near_twr (near_twr hb trivial) trivial
  exact near_ite' (Near.refl _ _ u) (near_wr (near_optMod h1) rfl)

theorem solveReady_same (s : State) : s.solveReady.fno = s.fno ∧ s.solveReady.clockNs = s.clockNs
    ∧ s.solveReady.fld Ctr.OPT_FAIL.f = s.fld Ctr.OPT_FAIL.f := by
  have hn : Near (fun a => a = 0x250B0) (fun _ => True) s s.solveReady := (near_optMod (Near.refl _ _ s)).trans (near_dailyFit _)
  have hk : Keeps [.regs, .tbl, .opt] s s.solveReady := dailyFit_keeps (optMod_keeps (Keeps.refl _ s) (by decide)) (by decide)
  have ht : s.solveReady.twin = s.twin := hk.only .twin (by decide)
  obtain ⟨u, hu⟩ : ∃ u, u = s.solveReady := ⟨_, rfl⟩
  rw [← hu] at hn ht ⊢
  have hf : ∀ f : Fld, f.addr ≠ 0x250B0 → u.fld f = s.fld f := fun f h => fld_of_rd (hn.regs _ h)
  refine ⟨?_, ?_, hf _ (by decide)⟩
  · unfold State.fno State.recRun State.ownFno
    rw [hf _ (by decide), hf _ (by decide), ht]
  · unfold State.clockNs State.ownSec State.ownNs
    rw [hf _ (by decide), hf _ (by decide), hf _ (by decide)]

theorem solveBegun_shows (u : State) (cmd : Option HCmd) : (u.solveBegun cmd).opt.run = some (u.newSolve cmd) ∧ (u.solveBegun cmd).opt.done = none
    ∧ (u.solveBegun cmd).opt.startAt = some u.fno ∧ (u.solveBegun cmd).solveStage = 1
    ∧ (u.solveBegun cmd).fld Ctr.OPT_FAIL.f = u.fld Ctr.OPT_FAIL.f := by
  unfold State.solveBegun
  extract_lets mask s2 s3
  obtain ⟨w, hw⟩ : ∃ w, w = (u.wr 0x250A8 (lo32 mask)).wr 0x250AC (hi32 mask) := ⟨_, rfl⟩
  have wf : w.fld Ctr.OPT_FAIL.f = u.fld Ctr.OPT_FAIL.f := by rw [hw, fld_wr_apart (by decide), fld_wr_apart (by decide)]
  have h2 : s2 = w.optMod (fun o => { o with
      run := some (u.newSolve cmd), done := none, startReq := none, utc := some u.utcOfs, startAt := some u.fno }) := by
    unfold s2
    rw [hw]
  have h2o : s2.opt.run = some (u.newSolve cmd) ∧ s2.opt.done = none ∧ s2.opt.startAt = some u.fno := by
    rw [h2]
    exact ⟨rfl, rfl, rfl⟩
  have h3o : s3.opt = s2.opt := opt_setF ..
  have h3s : s3.fld ⟨0x25048, 16, 3⟩ = 1 := fld_setF_self (by decide)
  have h3c : s3.fld Ctr.OPT_FAIL.f = u.fld Ctr.OPT_FAIL.f := by
    rw [← wf]
    unfold s3
    rw [fld_setF_apart (by decide), h2]
    exact fld_optMod ..
  have hopt : (if u.shortSeries.isEmpty then s3 else s3.raiseEv 0x25 5).opt = s2.opt := by
    split
    · exact h3o
    · rw [opt_raiseEv, h3o]
  have hfld : ∀ f : Fld, f.addr = 0x25048 ∨ f.addr = 0x250B8 → (if u.shortSeries.isEmpty then s3 else s3.raiseEv 0x25 5).fld f = s3.fld f := fun f hf => by
    split
    · rfl
    · rcases hf with h | h
      · exact fld_raiseEv_apart (by decide) (by rw [h]; decide) (by rw [h]; decide) (by rw [h]; decide) (by rw [h]; decide)
      · exact fld_raiseEv_apart (by decide) (by rw [h]; decide) (by rw [h]; decide) (by rw [h]; decide) (by rw [h]; decide)
  exact ⟨by rw [hopt, h2o.1], by rw [hopt, h2o.2.1], by rw [hopt, h2o.2.2], (hfld _ (.inl rfl)).trans h3s, (hfld _ (.inr rfl)).trans h3c⟩

/-- A second that PERIOD and PHASE name, at its tick, with the engine on: PERIODIC_SOLVE_START acts (R183). -/
def State.solveDue (s : State) : Prop :=
  s.bit (bitAt 0x25040 0) = true ∧ s.mstate ≠ 3 ∧ s.nowNs = 0
    ∧ (s.nowSec + s.fld ⟨0x25050, 16, 16⟩ - s.fld ⟨0x25050, 0, 16⟩ % s.fld ⟨0x25050, 16, 16⟩) % s.fld ⟨0x25050, 16, 16⟩ = 0

theorem periodicStart_due (h : s.solveDue) (hs : s.opt.startAt ≠ some s.fno) :
    exec .periodicSolveStart s = .next (s.andShown (if s.solving then s.skipSolve else s.startSolve none)) := by
  obtain ⟨h1, h2, h3, h4⟩ := h
  exact next_congr (congrArg s.andShown ((if_neg (by rw [h1, h3, h4]; simpa using h2)).trans (if_neg hs)))

theorem periodicStart_idle (h : ¬ s.solveDue ∨ s.opt.startAt = some s.fno) : exec .periodicSolveStart s = .next s := by
  refine next_congr (Eq.trans (congrArg s.andShown ?_) (andShown_self s))
  dsimp only
  split
  · rfl
  · next hc =>
    simp only [Bool.or_eq_true, Bool.not_eq_true', not_or, Bool.not_eq_false, beq_iff_eq, bne_iff_ne, ne_eq, not_not] at hc
    obtain ⟨⟨⟨h1, h2⟩, h3⟩, h4⟩ := hc
    exact if_pos (h.resolve_left fun hn => hn ⟨h1, h2, h3, h4⟩)

/-- Readers' words make no difference to how a solve has ended. -/
theorem SolveEnded.vis {u t : State} {code stage : Nat} (h : SolveEnded u t code stage) (v : SMap) : SolveEnded u { t with vis := v } code stage :=
  ⟨h.run, h.done, h.code, h.at_, h.idle, h.count, h.event, ⟨h.near.regs, h.near.tbl⟩⟩

theorem begun_running (u : State) (cmd : Option HCmd) : (u.solveBegun cmd).opt.run ≠ none := by
  rw [(solveBegun_shows u cmd).1]
  exact Option.some_ne_none _

/-- A solve that starts with the cores halted or without its inputs ends at once. -/
theorem start_ends (h : s.solveDue) (hs : s.opt.startAt ≠ some s.fno) (hr : s.opt.run = none) {code : Nat} (hc : code < 16) (h5 : code ≠ 5)
    (he : s.startSolve none = (s.solveReady.solveBegun none).haltSolve code) : runs .periodicSolveStart s (fun t =>
      t.opt.run = none ∧ t.opt.done = none ∧ t.fld ⟨0x2504C, 24, 4⟩ = code ∧ t.fld ⟨0x2504C, 16, 4⟩ = 1 ∧ t.solveStage = 0
        ∧ t.fld Ctr.OPT_FAIL.f = min (2 ^ 32 - 1) (s.fld Ctr.OPT_FAIL.f + 1) ∧ t.bit (bitAt 0x25010 1) = true) := by
  have hrun := periodicStart_due h hs
  rw [if_neg (by unfold State.solving; rw [hr]; decide), he] at hrun
  obtain ⟨-, -, -, b4, b5⟩ := solveBegun_shows s.solveReady none
  have hb := haltSolve_ends (begun_running s.solveReady none) hc h5
  rw [b4] at hb
  exact runs_andShown hrun fun v => (hb.vis v).ended (b5.trans (solveReady_same s).2.2)

/-- A solve that starts with its inputs is in stage 1. -/
theorem start_runs (h : s.solveDue) (hs : s.opt.startAt ≠ some s.fno) (hr : s.opt.run = none) (hk : s.optClk = true)
    (hi : s.solveReady.inputFails s.solveReady.solveIn.tbl s.solveReady.solveIn.t0 = false) : runs .periodicSolveStart s (fun t =>
      t.opt.run = some ⟨s.fno, s.clockNs, none, s.solveReady.solveIn, [], [], false, 0, 0⟩ ∧ t.opt.done = none ∧ t.solveStage = 1
        ∧ t.opt.startAt = some s.fno) := by
  have hrun := periodicStart_due h hs
  have he := startSolve_eq s none
  rw [if_neg (by rw [hk]; decide), if_neg (by rw [hi]; decide)] at he
  rw [if_neg (by unfold State.solving; rw [hr]; decide), he] at hrun
  obtain ⟨b1, b2, b3, b4, -⟩ := solveBegun_shows s.solveReady none
  obtain ⟨f1, f2, -⟩ := solveReady_same s
  unfold State.newSolve at b1
  rw [f1, f2] at b1
  rw [f1] at b3
  exact runs_andShown hrun fun v => ⟨b1, b2, b4, b3⟩

theorem start_skips (h : s.solveDue) (hs : s.opt.startAt ≠ some s.fno) (hr : s.opt.run ≠ none) : runs .periodicSolveStart s (fun t =>
      t.opt = s.opt ∧ t.fld Ctr.OPT_SKIP.f = min (2 ^ 32 - 1) (s.fld Ctr.OPT_SKIP.f + 1) ∧ t.bit (bitAt 0x25010 4) = true) := by
  have hrun := periodicStart_due h hs
  rw [if_pos (by unfold State.solving; exact Option.isSome_iff_ne_none.2 hr)] at hrun
  have ho : s.skipSolve.opt = s.opt := (opt_raiseEv ..).trans (opt_bump ..)
  have hc : s.skipSolve.fld Ctr.OPT_SKIP.f = min (2 ^ 32 - 1) (s.fld Ctr.OPT_SKIP.f + 1) :=
    (fld_raiseEv_apart (by decide) (by decide) (by decide) (by decide) (by decide)).trans (fld_bump_stays rfl (by decide) (.inl (by decide)))
  have hb : s.skipSolve.bit (bitAt 0x25010 4) = true := bit_raiseEv_self (by decide) (by decide) (by decide) rfl
  obtain ⟨w, hw⟩ : ∃ w, w = s.skipSolve := ⟨_, rfl⟩
  rw [← hw] at hrun ho hc hb
  exact runs_andShown hrun fun v => ⟨ho, hc, hb⟩

/-! #### The end of a stage -/

theorem solveEnd_runs {r : SolveSt} {k : Nat} (hn : s.recRun = none) (hr : s.opt.run = some r) (hd : s.opt.done = none) : exec (.solveEnd k) s =
    .next (if s.solveLate r then s.haltSolve 4 else if k = s.solveStage then s.stageEnd r else s) := next_congr (by rw [hn, hr, hd])

theorem stage1_ends {r : SolveSt} (hn : s.recRun = none) (hr : s.opt.run = some r) (hd : s.opt.done = none) (hl : s.since r.fno < 45000)
    (h1 : s.solveStage = 1) : runs (.solveEnd 1) s (fun t =>
      let e := r.inp.stage 1 []
      (e.1 = 1 → t.opt = { s.opt with run := some { r with it1 := e.2.1, relaxed := e.2.2 } } ∧ t.solveStage = 2
          ∧ Solution.feasible ⟨r.inp, e.2.2⟩ = true ∧ e.2.1 ≤ r.inp.view.fld ⟨0x25058, 16, 16⟩
          ∧ s.regsBut t (fun a => a = 0x25048) ∧ s.onlyIn t [.regs, .opt])
      ∧ (e.1 ≠ 1 → (t.opt.run = none ∧ t.opt.done = none ∧ t.fld ⟨0x2504C, 24, 4⟩ = e.1 ∧ t.fld ⟨0x2504C, 16, 4⟩ = 1 ∧ t.solveStage = 0
          ∧ t.fld Ctr.OPT_FAIL.f = min (2 ^ 32 - 1) (s.fld Ctr.OPT_FAIL.f + 1) ∧ t.bit (bitAt 0x25010 1) = true)
          ∧ (e.1 = 2 ∨ e.1 = 3 ∨ e.1 = 10))) := by
  have hrun := solveEnd_runs (k := 1) hn hr hd
  rw [if_neg (by unfold State.solveLate; simpa using hl), if_pos h1.symm, State.stageEnd, if_pos h1] at hrun
  obtain ⟨g1, g2, g3⟩ := stage_gives r.inp 1 []
  obtain ⟨e, he⟩ : ∃ e, e = r.inp.stage 1 [] := ⟨_, rfl⟩
  rw [← he] at hrun g1 g2 g3 ⊢
  dsimp only at hrun ⊢
  by_cases hc : e.1 = 1
  · rw [if_pos hc] at hrun
    obtain ⟨t1, t2, t3, t4⟩ := toStage_shows s (k := 2) (by decide) { r with it1 := e.2.1, relaxed := e.2.2 }
    exact runs_intro hrun ⟨fun _ => ⟨t1, t2, g3 hc, g2, t3, t4⟩, fun h => absurd hc h⟩
  · rw [if_neg hc] at hrun
    have hcode := g1.resolve_left hc
    obtain ⟨u, hu, hends⟩ := stageFails_ends s (r := { r with it1 := e.2.1, relaxed := e.2.2 }) (code := e.1) (n := e.2.1) (by omega) (by omega)
    rw [h1] at hends
    exact runs_intro hrun ⟨fun h => absurd h hc, fun _ => ⟨hends.ended hu, hcode⟩⟩

theorem stage3_ends {r : SolveSt} (hn : s.recRun = none) (hr : s.opt.run = some r) (hd : s.opt.done = none) (hl : s.since r.fno < 45000)
    (h3 : s.solveStage = 3) : runs (.solveEnd 3) s (fun t =>
      let e := r.inp.stage 3 r.fixed
      let p : Solution := ⟨r.inp, e.2.2⟩
      let r1 := { r with it3 := r.it3 + e.2.1 }
      (e.1 = 1 → t.opt = { s.opt with run := some r1, done := some ⟨r1.it1, r1.it3, p.terms, p.plan⟩ } ∧ p.feasible = true
          ∧ e.2.1 ≤ r.inp.view.fld ⟨0x25058, 16, 16⟩
          ∧ t.rd 0x25098 = BitVec.ofNat 32 (r1.it1 % 2 ^ 16 * 2 ^ 16 + r1.it3 % 2 ^ 16)
          ∧ s.regsBut t (fun a => a = 0x25098) ∧ s.onlyIn t [.regs, .opt])
      ∧ (e.1 = 2 → r.halved = false → t.opt = { s.opt with run := some { r1 with halved := true } } ∧ t.solveStage = 2
          ∧ s.regsBut t (fun a => a = 0x25048) ∧ s.onlyIn t [.regs, .opt])
      ∧ (e.1 ≠ 1 → (e.1 = 2 → r.halved = true) → (t.opt.run = none ∧ t.opt.done = none ∧ t.fld ⟨0x2504C, 24, 4⟩ = e.1 ∧ t.fld ⟨0x2504C, 16, 4⟩ = 3
          ∧ t.solveStage = 0 ∧ t.fld Ctr.OPT_FAIL.f = min (2 ^ 32 - 1) (s.fld Ctr.OPT_FAIL.f + 1) ∧ t.bit (bitAt 0x25010 1) = true)
          ∧ (e.1 = 2 ∨ e.1 = 3 ∨ e.1 = 10))) := by
  have hrun := solveEnd_runs (k := 3) hn hr hd
  rw [if_neg (by unfold State.solveLate; simpa using hl), if_pos h3.symm, State.stageEnd, if_neg (by omega), if_neg (by omega)] at hrun
  obtain ⟨g1, g2, g3⟩ := stage_gives r.inp 3 r.fixed
  obtain ⟨e, he⟩ : ∃ e, e = r.inp.stage 3 r.fixed := ⟨_, rfl⟩
  rw [← he] at hrun g1 g2 g3 ⊢
  dsimp only at hrun ⊢
  by_cases hc : e.1 = 1
  · rw [if_pos hc] at hrun
    obtain ⟨w, hw⟩ : ∃ w, w = s.wr 0x25098 (BitVec.ofNat 32 (r.it1 % 2 ^ 16 * 2 ^ 16 + (r.it3 + e.2.1) % 2 ^ 16)) := ⟨_, rfl⟩
    have wo : w.opt = s.opt := by rw [hw, opt_wr]
    have wr : w.rd 0x25098 = BitVec.ofNat 32 (r.it1 % 2 ^ 16 * 2 ^ 16 + (r.it3 + e.2.1) % 2 ^ 16) := hw ▸ rd_wr_self
    have wn : Near (fun a => a = 0x25098) (fun _ => True) s w := hw ▸ near_wr (Near.refl _ _ s) rfl
    have wk : Keeps [.regs, .opt] s w := hw ▸ wr_keeps (Keeps.refl _ s) (by decide)
    rw [← hw] at hrun
    refine runs_intro hrun ⟨fun _ => ⟨?_, g3 hc, g2, wr, (near_optMod wn).regs, (optMod_keeps wk (by decide)).only⟩, fun h => absurd (hc.symm.trans h) (by decide),
      fun h => absurd hc h⟩
    rw [← wo]
    rfl
  · rw [if_neg hc] at hrun
    have hcode := g1.resolve_left hc
    by_cases h2 : e.1 = 2 ∧ r.halved = false
    · rw [if_pos ⟨h2.1, by rw [h2.2]; rfl⟩] at hrun
      obtain ⟨t1, t2, t3, t4⟩ := toStage_shows s (k := 2) (by decide) { r with it3 := r.it3 + e.2.1, halved := true }
      exact runs_intro hrun ⟨fun h => absurd h hc, fun _ _ => ⟨t1, t2, t3, t4⟩, fun _ h => absurd (h2.2.symm.trans (h h2.1)) (by decide)⟩
    · rw [if_neg (by simpa using h2)] at hrun
      obtain ⟨u, hu, hends⟩ := stageFails_ends s (r := { r with it3 := r.it3 + e.2.1 }) (code := e.1) (n := e.2.1) (by omega) (by omega)
      rw [h3] at hends
      exact runs_intro hrun ⟨fun h => absurd h hc, fun h h' => absurd ⟨h, h'⟩ h2, fun _ _ => ⟨hends.ended hu, hcode⟩⟩

/-- An uncorrected DRAM error is counted and ends the running solve (R39). -/
theorem eccUncorr_shows (s : State) : runs .eccUncorr s (fun t => t.fld Ctr.OPT_ECC_UNCORR.f = min (2 ^ 32 - 1) (s.fld Ctr.OPT_ECC_UNCORR.f + 1)
    ∧ t.bit (bitAt 0x25010 10) = true ∧ t.opt.run = none
    ∧ (s.opt.run ≠ none → t.opt.run = none ∧ t.opt.done = none ∧ t.fld ⟨0x2504C, 24, 4⟩ = 7 ∧ t.fld ⟨0x2504C, 16, 4⟩ = s.solveStage ∧ t.solveStage = 0
        ∧ t.fld Ctr.OPT_FAIL.f = min (2 ^ 32 - 1) (s.fld Ctr.OPT_FAIL.f + 1) ∧ t.bit (bitAt 0x25010 1) = true)
    ∧ (s.opt.run = none → t.opt = s.opt ∧ t.rd 0x2504C = s.rd 0x2504C)) := by
  obtain ⟨u, hu⟩ : ∃ u, u = (s.bump .OPT_ECC_UNCORR).raiseEv 0x25 10 := ⟨_, rfl⟩
  have hrun : exec .eccUncorr s = .next (u.haltSolve 7) := next_congr (by rw [hu])
  have uo : u.opt = s.opt := by rw [hu, opt_raiseEv, opt_bump]
  have uc : u.fld Ctr.OPT_ECC_UNCORR.f = min (2 ^ 32 - 1) (s.fld Ctr.OPT_ECC_UNCORR.f + 1) := by
    rw [hu, fld_raiseEv_apart (by decide) (by decide) (by decide) (by decide) (by decide)]
    exact fld_bump_stays rfl (by decide) (.inl (by decide))
  have ub : u.bit (bitAt 0x25010 10) = true := hu ▸ bit_raiseEv_self (by decide) (by decide) (by decide) rfl
  have ur : ∀ f : Fld, f.addr = 0x250B8 ∨ f.addr = 0x25048 ∨ f.addr = 0x2504C → u.fld f = s.fld f := fun f hf => by
    have hf' : pageOf f.addr = 0x25 ∧ f.addr ≠ addrOf 0x25 0x10 ∧ f.addr ≠ addrOf 0x25 0x28 := by
      simp only [pageOf_eq, addrOf_eq]
      omega
    rw [hu, fld_raiseEv_apart (by decide) hf'.2.1 hf'.2.2 (by rw [hf'.1]; decide) (by rw [hf'.1]; decide)]
    exact fld_bump_apart (by simp only [Ctr.OPT_ECC_UNCORR]; omega) (by simp only [Ctr.OPT_ECC_UNCORR]; omega)
  by_cases hr : s.opt.run = none
  · have he : u.haltSolve 7 = u := endSolve_idle (by rw [uo, hr]) _ _ _ _
    rw [he] at hrun
    refine runs_intro hrun ⟨uc, ub, by rw [uo, hr], fun h => absurd hr h, fun _ => ⟨uo, ?_⟩⟩
    rw [hu, rd_raiseEv_apart (by decide) (by decide) (by decide) (by decide) (by decide)]
    exact rd_bump (by decide) (by decide)
  · have hends := haltSolve_ends (u := u) (by rw [uo]; exact hr) (code := 7) (by decide) (by decide)
    have hst : u.solveStage = s.solveStage := ur _ (.inr (.inl rfl))
    have hev : (u.haltSolve 7).bit (bitAt 0x25010 10) = true := by
      have hnote : ∀ (v : State) (w : Word), v.bit (bitAt 0x25010 10) = true → (v.noteEnd w).bit (bitAt 0x25010 10) = true := fun v w hv => by
        unfold State.noteEnd
        extract_lets s1
        have h1 : s1.bit (bitAt 0x25010 10) = true := (bit_optMod ..).trans ((bit_wr_apart (by decide)).trans hv)
        split
        · exact (bit_bump_apart (by decide) (by decide)).trans h1
        · exact bit_raiseEv_stays (p := 0x25) (by decide) (by decide) (by decide) rfl ((bit_bump_apart (by decide) (by decide)).trans h1)
      unfold State.haltSolve State.endSolve
      split
      · exact ub
      · next r _ =>
        extract_lets s1 s2 s3
        have h1 : s1.bit (bitAt 0x25010 10) = true := (bit_wr_apart (by decide)).trans ((bit_wr_apart (by decide)).trans ub)
        have h2 : s2.bit (bitAt 0x25010 10) = true := hnote _ _ ((bit_optMod ..).trans ((bit_setF_apart (by decide)).trans h1))
        have h3 : s3.bit (bitAt 0x25010 10) = true := (bit_of_regs (optEnded_same s2 r.cmd).1 _).trans h2
        split
        · exact (bit_of_rd (f := bitAt 0x25010 10) ((near_complete _ _ _ _).regs _ (by decide))).trans h3
        · exact h3
    exact runs_intro hrun ⟨(fld_of_rd (f := Ctr.OPT_ECC_UNCORR.f) (hends.near.regs _ (not_endReg (.inl rfl)))).trans uc, hev, hends.run,
      fun _ => by rw [← hst]; exact hends.ended (ur _ (.inl rfl)), fun h => absurd h hr⟩

end

/-- Settles O49: the start by its condition, each stage by its outcome, then the deadline and the memory errors. -/
theorem solvesStartAndEnd : Obligations.SolvesStartAndEnd := by
  unfold Obligations.SolvesStartAndEnd
  intro s per now one ended u
  refine ⟨fun h hs hr => ⟨fun hk => ?_, fun hk hi => ?_, fun hk hi => start_runs h hs hr hk hi⟩, fun h hs hr => start_skips h hs hr, periodicStart_idle,
    fun h hh => ⟨fun hp k => next_congr (by rw [hh]; dsimp only; rw [hp]; rfl), fun w k hp => ?_⟩, fun r hn hr hd hl => ⟨stage1_ends hn hr hd hl, fun k hk => ?_, fun h2 => ?_,
      stage3_ends hn hr hd hl⟩, fun r hr hd => ⟨fun hl => ⟨?_, fun hn k => ?_⟩, fun hl => ?_⟩, fun h => ⟨?_, fun hn k => ?_⟩, eccUncorr_shows s, ?_⟩
  · refine start_ends h hs hr (by decide) (by decide) ?_
    rw [startSolve_eq, if_pos (by rw [hk]; rfl)]
  · refine start_ends h hs hr (by decide) (by decide) ?_
    rw [startSolve_eq, if_neg (by rw [hk]; decide)]
    exact if_pos hi
  · obtain ⟨n1, -, n3, n4, n5, n6⟩ := noteEnd_shows s w
    exact runs_intro (next_congr (by rw [hh]; dsimp only; rw [hp]; rfl)) ⟨n1, n3, n4, n5, n6⟩
  · rw [solveEnd_runs hn hr hd, if_neg (by unfold State.solveLate; simpa using hl), if_neg hk]
  · have hrun := solveEnd_runs (k := 2) hn hr hd
    rw [if_neg (by unfold State.solveLate; simpa using hl), if_pos h2.symm, State.stageEnd, if_neg (by omega), if_pos h2] at hrun
    exact runs_intro hrun (toStage_shows s (by decide) _)
  · have hrun : exec .solveDeadline s = .next (s.haltSolve 4) := next_congr (by
      rw [hr, hd]
      exact if_pos (by unfold State.solveLate; simpa using hl))
    exact runs_intro hrun ((haltSolve_ends (by rw [hr]; exact Option.some_ne_none r) (by decide) (by decide)).ended rfl)
  · have hrun := solveEnd_runs (k := k) hn hr hd
    rw [if_pos (by unfold State.solveLate; simpa using hl)] at hrun
    exact runs_intro hrun ((haltSolve_ends (by rw [hr]; exact Option.some_ne_none r) (by decide) (by decide)).ended rfl)
  · refine next_congr ?_
    rw [hr, hd]
    exact if_neg (by unfold State.solveLate; simpa using hl)
  · refine next_congr ?_
    split
    · next r hr hd => exact (h.elim (fun h => nomatch hr.symm.trans h) fun h => absurd hd h)
    · rfl
  · refine next_congr ?_
    rw [hn]
    dsimp only
    split
    · next r hr hd => exact (h.elim (fun h => nomatch hr.symm.trans h) fun h => absurd hd h)
    · rfl
  · exact runs_intro (next_congr rfl) ⟨fld_bump_stays rfl (by decide) (.inl (by decide)), (bump_keeps (Keeps.refl _ s) (List.Subset.refl _)).only⟩

end Sys2Proof.Machine
end

section
/-! ### Plans are put in force (R37, R186 to R189) -/

namespace Sys2Proof.Machine

/-! #### The plan slice -/

/-- The registers of the slice: OPT_C_TSUP_c and OPT_G_IMP_g. -/
def sliceReg (a : Nat) : Prop := 0x250F0 ≤ a ∧ a < 0x25120

section
variable {s : State}

/-- Words written at every fourth address from `b` on. -/
theorem rd_foldl_wr4 {b : Nat} {v : Nat → Word} (n : Nat) : ∀ u : State,
    (∀ c, c < n → ((List.range n).foldl (fun a c => a.wr (b + 4 * c) (v c)) u).rd (b + 4 * c) = v c)
    ∧ ∀ a, (a < b ∨ b + 4 * n ≤ a) → ((List.range n).foldl (fun a c => a.wr (b + 4 * c) (v c)) u).rd a = u.rd a := by
  induction n with
  | zero => exact fun u => ⟨fun c hc => absurd hc (Nat.not_lt_zero c), fun _ _ => rfl⟩
  | succ n ih =>
    intro u
    obtain ⟨h1, h2⟩ := ih u
    rw [List.range_succ, List.foldl_append, List.foldl_cons, List.foldl_nil]
    refine ⟨fun c hc => ?_, fun a ha => ?_⟩
    · rcases Nat.lt_or_eq_of_le (Nat.lt_succ_iff.1 hc) with h | rfl
      · rw [rd_wr_apart (by omega), h1 c h]
      · exact rd_wr_self
    · rw [rd_wr_apart (by omega), h2 a (by omega)]

theorem foldl_slicePuts (l : List Nat) (k : Nat → Nat) (its : Nat → List Item) (u : State) :
    Keeps [.mbx] u (l.foldl (fun a i => a.slicePuts (k i) (its i)) u) :=
  keeps_foldl (Keeps.refl _ u) fun _ _ h => slicePuts_keeps h (List.Subset.refl _)

/-- What putting the slice leaves. -/
theorem putSlice_shows (u : State) : (∀ c, c < 4 → u.putSlice.rd (0x250F0 + 4 * c) = u.planStep 11 c 0)
    ∧ (∀ g, g < 8 → u.putSlice.rd (0x25100 + 4 * g) = u.planStep 8 g 0)
    ∧ (∀ a, ¬ sliceReg a → u.putSlice.rd a = u.rd a) ∧ u.putSlice.tbl = u.tbl
    ∧ u.putSlice.opt = { u.opt with appliedSec := u.nowSec, appliedNs := u.nowNs } := by
  unfold State.putSlice
  extract_lets it s1 recs s2 s3 s4
  have h1 : Keeps [.mbx] u s1 := slicePuts_keeps (Keeps.refl _ u) (List.Subset.refl _)
  have h2 : Keeps [.mbx] u s2 := keeps_foldl h1 fun _ _ h => slicePuts_keeps h (List.Subset.refl _)
  have h2r : s2.regs = u.regs := h2.only .regs (by decide)
  have h2o : s2.opt = u.opt := h2.only .opt (by decide)
  have h4k : Keeps [.regs] s2 s4 := keeps_foldl (keeps_foldl (Keeps.refl _ s2) fun _ _ h => wr_keeps h (List.Subset.refl _))
    fun _ _ h => wr_keeps h (List.Subset.refl _)
  have h4o : s4.opt = u.opt := (h4k.only .opt (by decide)).trans h2o
  obtain ⟨f1, f2⟩ := rd_foldl_wr4 (b := 0x250F0) (v := fun c => u.planStep 11 c 0) 4 s2
  obtain ⟨g1, g2⟩ := rd_foldl_wr4 (b := 0x25100) (v := fun g => u.planStep 8 g 0) 8 s3
  have hrd : ∀ a, s2.rd a = u.rd a := fun a => by
    unfold State.rd
    rw [h2r]
  obtain ⟨w, hw⟩ : ∃ w, w = s4.swapMbx (s4.roleMbx 5) := ⟨_, rfl⟩
  have hwk : Keeps [.mbx] s4 w := hw ▸ swapMbx_keeps (Keeps.refl _ s4) (List.Subset.refl _)
  have hwr : w.regs = s4.regs := hwk.only .regs (by decide)
  have hwo : w.opt = u.opt := (hwk.only .opt (by decide)).trans h4o
  have hwrd : ∀ a, w.rd a = s4.rd a := fun a => by
    unfold State.rd
    rw [hwr]
  have hwt : w.tbl = u.tbl := (hwk.only .tbl (by decide)).trans ((h4k.only .tbl (by decide)).trans (h2.only .tbl (by decide)))
  rw [← hw]
  refine ⟨fun c hc => ?_, fun g hg => ?_, fun a ha => ?_, hwt, ?_⟩
  · exact (hwrd _).trans ((g2 _ (by omega)).trans (f1 c hc))
  · exact (hwrd _).trans (g1 g hg)
  · unfold sliceReg at ha
    exact (hwrd _).trans ((g2 _ (by omega)).trans ((f2 _ (by omega)).trans (hrd a)))
  · show ({ w.opt with appliedSec := u.nowSec, appliedNs := u.nowNs } : OptSt) = _
    rw [hwo]

theorem planStep_congr {u t : State} (hr : t.rd 0x25088 = u.rd 0x25088) (ht : ∀ q a k, q < 256 → a < 256 → k < 192 → t.trd 0x250D (q * 256 + a) (4 + k)
      = u.trd 0x250D (q * 256 + a) (4 + k)) {q a : Nat} (hq : q < 256) (ha : a < 256) (j : Nat) : t.planStep q a j = u.planStep q a j := by
  unfold State.planStep
  rw [fld_of_rd (f := ⟨0x25088, 0, 8⟩) hr]
  exact ht q a _ hq ha (by omega)

/-- The slice's registers show the plan's step. -/
def State.sliced (t : State) : Prop := (∀ c, c < 4 → t.rd (0x250F0 + 4 * c) = t.planStep 11 c 0) ∧ ∀ g, g < 8 → t.rd (0x25100 + 4 * g) = t.planStep 8 g 0

theorem putSlice_sliced (u : State) : u.putSlice.sliced := by
  obtain ⟨h1, h2, h3, h4, -⟩ := putSlice_shows u
  have hp : ∀ q a, q < 256 → a < 256 → u.putSlice.planStep q a 0 = u.planStep q a 0 := fun q a hq ha =>
    planStep_congr (h3 _ (by unfold sliceReg; decide)) (fun q a k _ _ _ => trd_of_tbl h4 _ _ _) hq ha 0
  exact ⟨fun c hc => (h1 c hc).trans (hp 11 c (by decide) (by omega)).symm, fun g hg => (h2 g hg).trans (hp 8 g (by decide) (by omega)).symm⟩

/-- The slice still shows the plan's step where neither has changed. -/
theorem sliced_congr {u t : State} (h : u.sliced) (hr : ∀ a, sliceReg a ∨ a = 0x25088 → t.rd a = u.rd a)
    (ht : ∀ i w, i < 2 ^ 16 → w < 196 → t.trd 0x250D i w = u.trd 0x250D i w) : t.sliced := by
  have hp : ∀ q a, q < 256 → a < 256 → t.planStep q a 0 = u.planStep q a 0 := fun q a hq ha =>
    planStep_congr (hr _ (.inr rfl)) (fun q a k hq ha hk => ht _ _ (by omega) (by omega)) hq ha 0
  refine ⟨fun c hc => ?_, fun g hg => ?_⟩
  · rw [hr _ (.inl ⟨by omega, by omega⟩), hp 11 c (by decide) (by omega)]
    exact h.1 c hc
  · rw [hr _ (.inl ⟨by omega, by omega⟩), hp 8 g (by decide) (by omega)]
    exact h.2 g hg

/-! #### The plan in force -/

/-- The registers of the plan, with the values that they take. -/
def planRegs (id t0 : Nat) (clock : Int) (sec ns : Nat) (summary : List Word) : List (Nat × Word) :=
  [(0x25070, lo32 id), (0x25074, lo32 t0), (0x25078, lo32 (clock / 1000000000).toNat), (0x2507C, lo32 sec), (0x25080, lo32 ns),
    (0x25088, lo32 (shiftAt t0 sec)), (0x2508C, summary.getD 2 0), (0x25090, summary.getD 3 0), (0x2504C, BitVec.ofNat 32 (1 * 2 ^ 24 + 3 * 2 ^ 16))]

theorem putPlan_eq (u : State) (id t0 : Nat) (clock ofs : Int) (summary : List Word) : u.putPlan id t0 clock ofs summary =
    (((((planRegs id t0 clock u.nowSec u.nowNs summary).foldl (fun a e => a.wr e.1 e.2)
      ((u.tclear 0x250E (fun _ => true)).trecSet 0x250E 0 0 summary)).setF (bitAt 0x25048 8) 1).optMod (fun o =>
        { o with planStart := some clock, ofsPlan := ofs })).putSlice) := rfl

/-- What the plan put in force shows. -/
structure PlanPut (u t : State) (id t0 : Nat) (clock : Int) : Prop where
  planId : t.rd 0x25070 = lo32 id
  begins : t.rd 0x25074 = lo32 t0
  solved : t.rd 0x25078 = lo32 (clock / 1000000000).toNat
  sec : t.rd 0x2507C = lo32 u.nowSec
  ns : t.rd 0x25080 = lo32 u.nowNs
  shift : t.rd 0x25088 = lo32 (shiftAt t0 u.nowSec)
  ok : t.fld ⟨0x2504C, 24, 4⟩ = 1
  valid : t.bit (bitAt 0x25048 8) = true
  start : t.opt.planStart = some clock
  sliced : t.sliced
  run : t.opt.run = u.opt.run
  done : t.opt.done = u.opt.done
  fbAt : t.opt.fbAt = u.opt.fbAt
  stat : ∀ f : Fld, f.addr = 0x25048 → (8 + 1 ≤ f.lo ∨ f.lo + f.w ≤ 8) → t.fld f = u.fld f
  regs : ∀ a, (a < 0x25048 ∨ (0x25094 ≤ a ∧ a < 0x250F0) ∨ 0x25120 ≤ a) → t.rd a = u.rd a
  recs : ∀ i w, i < 2 ^ 16 → w < 2 ^ 8 → t.trd 0x250D i w = u.trd 0x250D i w
  keeps : Keeps [.regs, .tbl, .mbx, .opt] u t

theorem putPlan_puts (u : State) (id t0 : Nat) (clock ofs : Int) (summary : List Word) : PlanPut u (u.putPlan id t0 clock ofs summary) id t0 clock := by
  have hkeeps : Keeps [.regs, .tbl, .mbx, .opt] u (u.putPlan id t0 clock ofs summary) := putPlan_keeps (Keeps.refl _ u) (List.Subset.refl _)
  rw [putPlan_eq] at hkeeps ⊢
  obtain ⟨v, hv⟩ : ∃ v, v = (u.tclear 0x250E (fun _ => true)).trecSet 0x250E 0 0 summary := ⟨_, rfl⟩
  have vr : v.regs = u.regs := by
    rw [hv, regs_trecSet]
    rfl
  have vk : Keeps [.tbl] u v := hv ▸ trecSet_keeps (tclear_keeps (Keeps.refl _ u) (List.Subset.refl _)) (List.Subset.refl _)
  have vrec : ∀ i w, i < 2 ^ 16 → w < 2 ^ 8 → v.trd 0x250D i w = u.trd 0x250D i w := fun i w hi hw => by
    rw [hv, trd_trecSet_apart (fun k _ => by unfold tkey; omega)]
    exact trd_tclear_tid (by decide) (by omega) hw
  obtain ⟨w, hw⟩ : ∃ w, w = (planRegs id t0 clock u.nowSec u.nowNs summary).foldl (fun a e => a.wr e.1 e.2) v := ⟨_, rfl⟩
  have wk : Keeps [.tbl, .regs] u w := hw ▸ keeps_foldl (vk.mono (by decide)) fun _ _ h => wr_keeps h (by decide)
  have wt : w.tbl = v.tbl := by
    rw [hw]
    exact (keeps_foldl (Keeps.refl [.regs] v) fun _ _ h => wr_keeps h (by decide)).only .tbl (by decide)
  rw [← hv, ← hw] at hkeeps ⊢
  rw [planRegs] at hw
  simp only [List.foldl_cons, List.foldl_nil] at hw
  obtain ⟨x, hx⟩ : ∃ x, x = (w.setF (bitAt 0x25048 8) 1).optMod (fun o => { o with planStart := some clock, ofsPlan := ofs }) := ⟨_, rfl⟩
  have xo : x.opt = { u.opt with planStart := some clock, ofsPlan := ofs } := by
    rw [hx]
    show ({ (w.setF (bitAt 0x25048 8) 1).opt with planStart := some clock, ofsPlan := ofs } : OptSt) = _
    rw [opt_setF, (wk.only .opt (by decide) : w.opt = u.opt)]
  have xt : x.tbl = v.tbl := by
    rw [hx, ← wt]
    exact tbl_setF w (bitAt 0x25048 8) 1
  have xr : ∀ a, a ≠ 0x25048 → x.rd a = w.rd a := fun a ha => by
    rw [hx]
    exact (rd_optMod ..).trans (rd_setF_apart ha)
  have xb : x.bit (bitAt 0x25048 8) = true := by
    rw [hx, bit_iff_fld rfl]
    exact (fld_optMod ..).trans (fld_setF_self (by decide))
  have xf : ∀ f : Fld, f.addr = 0x25048 → (8 + 1 ≤ f.lo ∨ f.lo + f.w ≤ 8) → x.fld f = w.fld f := fun f _ hf => by
    rw [hx]
    exact (fld_optMod ..).trans (fld_setF_apart (.inr (by simp only [bitAt]; omega)))
  have wa : ∀ a, (a < 0x2504C ∨ 0x25094 ≤ a) → w.rd a = u.rd a := fun a ha => by
    have e : w.rd a = v.rd a := by
      rw [hw]
      iterate 9 rw [rd_wr_apart (by omega)]
    rw [e]
    unfold State.rd
    rw [vr]
  obtain ⟨-, -, p3, p4, p5⟩ := putSlice_shows x
  have hsl := putSlice_sliced x
  have hout : ∀ a, a < 0x250F0 ∨ 0x25120 ≤ a → a ≠ 0x25048 → x.putSlice.rd a = w.rd a := fun a ha h48 =>
    (p3 a (by unfold sliceReg; omega)).trans (xr a h48)
  rw [← hx] at hkeeps ⊢
  refine ⟨?_, ?_, ?_, ?_, ?_, ?_, ?_, ?_, ?_, hsl, ?_, ?_, ?_, fun f ha hf => ?_, fun a ha => ?_, fun i k hi hk => ?_, hkeeps⟩
  · rw [hout _ (.inl (by decide)) (by decide), hw]
    iterate 8 rw [rd_wr_apart (by decide)]
    exact rd_wr_self
  · rw [hout _ (.inl (by decide)) (by decide), hw]
    iterate 7 rw [rd_wr_apart (by decide)]
    exact rd_wr_self
  · rw [hout _ (.inl (by decide)) (by decide), hw]
    iterate 6 rw [rd_wr_apart (by decide)]
    exact rd_wr_self
  · rw [hout _ (.inl (by decide)) (by decide), hw]
    iterate 5 rw [rd_wr_apart (by decide)]
    exact rd_wr_self
  · rw [hout _ (.inl (by decide)) (by decide), hw]
    iterate 4 rw [rd_wr_apart (by decide)]
    exact rd_wr_self
  · rw [hout _ (.inl (by decide)) (by decide), hw]
    iterate 3 rw [rd_wr_apart (by decide)]
    exact rd_wr_self
  · show wbits (x.putSlice.rd 0x2504C) 24 4 = 1
    rw [hout _ (.inl (by decide)) (by decide), hw, rd_wr_self]
    decide
  · exact (bit_of_rd (f := bitAt 0x25048 8) (p3 _ (by unfold sliceReg; decide))).trans xb
  · rw [p5, xo]
  · rw [p5, xo]
  · rw [p5, xo]
  · rw [p5, xo]
  · refine (fld_of_rd (f := f) (p3 _ (by unfold sliceReg; omega))).trans ((xf f ha hf).trans ?_)
    exact fld_of_rd (wa _ (by omega))
  · rw [hout a (by omega) (by omega)]
    exact wa a (by omega)
  · rw [trd_of_tbl p4, trd_of_tbl xt]
    exact vrec i k hi hk

end

end Sys2Proof.Machine
end

section
/-! ### Plans are published, shift and age (R34, R186 to R191) -/

namespace Sys2Proof.Machine

section
variable {s : State}

/-- The clock and the frame number as the engines take them rest on six registers and the record in execution. -/
theorem sameInstant {s t : State} (hr : ∀ a, a = 0x0054 ∨ a = 0x604C ∨ a = 0x4074 ∨ a = 0x4078 ∨ a = 0x407C → t.rd a = s.rd a) (ht : t.twin = s.twin) :
    t.fno = s.fno ∧ t.nowSec = s.nowSec ∧ t.nowNs = s.nowNs := by
  have hf : ∀ f : Fld, (f.addr = 0x0054 ∨ f.addr = 0x604C ∨ f.addr = 0x4074 ∨ f.addr = 0x4078 ∨ f.addr = 0x407C) → t.fld f = s.fld f := fun f h =>
    fld_of_rd (hr _ h)
  unfold State.fno State.nowSec State.nowNs State.recRun State.ownFno State.ownSec State.ownNs
  rw [hf _ (.inl rfl), hf (wordAt 0x604C) (.inr (.inl rfl)), hf (wordAt 0x4074) (.inr (.inr (.inl rfl))),
    hf ⟨0x4078, 0, 16⟩ (.inr (.inr (.inr (.inl rfl)))), hf ⟨0x407C, 0, 30⟩ (.inr (.inr (.inr (.inr rfl)))), ht]
  exact ⟨rfl, rfl, rfl⟩

/-! #### What a publication raises and ends (R190, R199) -/

/-- The registers that a publication writes beside the plan's own. -/
def pubReg (a : Nat) : Prop := a = 0x250B4 ∨ a = 0x25084 ∨ a = 0x25048 ∨ evReg 0x25 a

theorem published_shows (u : State) : Near pubReg evTbl u u.published ∧ u.published.opt = u.opt
    ∧ u.published.fld Ctr.OPT_SOLVE.f = (u.fld Ctr.OPT_SOLVE.f + 1) % 2 ^ 32 ∧ u.published.bit (bitAt 0x25010 0) = true
    ∧ (∀ f : Fld, f.addr = 0x25048 → (9 + 1 ≤ f.lo ∨ f.lo + f.w ≤ 9) → u.published.fld f = u.fld f)
    ∧ (u.opt.fbAt ≠ some u.fno → u.published.bit optFallback = false) := by
  unfold State.published
  obtain ⟨v, hv⟩ : ∃ v, v = (u.bump .OPT_SOLVE).raiseEv 0x25 0 := ⟨_, rfl⟩
  rw [← hv]
  have vn : Near pubReg evTbl u v := by
    rw [hv]
    exact near_raiseEv (near_bumpW (Near.refl _ _ u) (.inl rfl) rfl) (by decide) (fun _ h => .inr (.inr (.inr h))) fun _ => id
  have vo : v.opt = u.opt := by rw [hv, opt_raiseEv, opt_bump]
  have vt : v.twin = u.twin := by rw [hv, twin_raiseEv, twin_bump]
  have vc : v.fld Ctr.OPT_SOLVE.f = (u.fld Ctr.OPT_SOLVE.f + 1) % 2 ^ 32 := by
    rw [hv, fld_raiseEv_apart (by decide) (by decide) (by decide) (by decide) (by decide)]
    exact fld_bump_wraps rfl (by decide)
  have vb : v.bit (bitAt 0x25010 0) = true := hv ▸ bit_raiseEv_self (by decide) (by decide) (by decide) rfl
  have vs : ∀ f : Fld, f.addr = 0x25048 → v.fld f = u.fld f := fun f hf => by
    rw [hv, fld_raiseEv_apart (by decide) (by rw [hf]; decide) (by rw [hf]; decide) (by rw [hf]; decide) (by rw [hf]; decide)]
    exact fld_bump_apart (by rw [hf]; decide) (by rw [hf]; decide)
  have hpr : ∀ a, a = 0x0054 ∨ a = 0x604C ∨ a = 0x4074 ∨ a = 0x4078 ∨ a = 0x407C → v.rd a = u.rd a := fun a ha => vn.regs a (by
    unfold pubReg evReg
    simp only [addrOf_eq, pageOf_eq]
    omega)
  have vf : v.fno = u.fno := (sameInstant hpr vt).1
  obtain ⟨w, hw⟩ : ∃ w, w = v.endFallback := ⟨_, rfl⟩
  have hwc : w = if v.opt.fbAt = some v.fno ∨ !v.bit optFallback then v else (v.setB optFallback false).raiseEv 0x25 3 := hw
  rw [← hw]
  have wn : Near pubReg evTbl u w := by
    rw [hwc]
    exact near_ite' vn (near_raiseEv (near_setB vn (.inr (.inr (.inl rfl)))) (by decide) (fun _ h => .inr (.inr (.inr h))) fun _ => id)
  have wo : w.opt = u.opt := by
    rw [hwc, ← vo]
    split
    · rfl
    · rw [opt_raiseEv, opt_setB]
  have wc : w.fld Ctr.OPT_SOLVE.f = v.fld Ctr.OPT_SOLVE.f := by
    rw [hwc]
    split
    · rfl
    · rw [fld_raiseEv_apart (by decide) (by decide) (by decide) (by decide) (by decide)]
      exact fld_setB_apart (by decide)
  have wb : w.bit (bitAt 0x25010 0) = true := by
    rw [hwc]
    split
    · exact vb
    · exact bit_raiseEv_stays (p := 0x25) (by decide) (by decide) (by decide) rfl ((bit_setB_apart (by decide)).trans vb)
  have wst : ∀ f : Fld, f.addr = 0x25048 → (9 + 1 ≤ f.lo ∨ f.lo + f.w ≤ 9) → w.fld f = v.fld f := fun f hf hl => by
    rw [hwc]
    split
    · rfl
    · rw [fld_raiseEv_apart (by decide) (by rw [hf]; decide) (by rw [hf]; decide) (by rw [hf]; decide) (by rw [hf]; decide)]
      exact fld_setB_apart (.inr (by
        show 9 + 1 ≤ f.lo ∨ f.lo + f.w ≤ 9
        exact hl))
  have wfb : u.opt.fbAt ≠ some u.fno → w.bit optFallback = false := fun h => by
    rw [hwc]
    split
    · next hc =>
      rw [vo, vf] at hc
      simpa using hc.resolve_left h
    · rw [bit_raiseEv_apart (by decide) (by decide) (by decide) (by decide) (by decide)]
      exact bit_setB_self (by decide) rfl
  have hage : ∀ x : State, Near (fun a => a = 0x25084) (fun _ => False) x x.ageReg ∧ x.ageReg.opt = x.opt := fun x => by
    unfold State.ageReg
    split
    · exact ⟨Near.refl _ _ x, rfl⟩
    · exact ⟨near_wr (Near.refl _ _ x) rfl, opt_wr ..⟩
  obtain ⟨an, ao⟩ := hage w
  refine ⟨wn.trans (an.mono (fun _ h => .inr (.inl h)) fun _ => False.elim), ao.trans wo, ?_, ?_, fun f hf hl => ?_, fun h => ?_⟩
  · exact (fld_of_rd (f := Ctr.OPT_SOLVE.f) (an.regs _ (by decide))).trans (wc.trans vc)
  · exact (bit_of_rd (f := bitAt 0x25010 0) (an.regs _ (by decide))).trans wb
  · exact (fld_of_rd (f := f) (an.regs _ (by rw [hf]; decide))).trans ((wst f hf hl).trans (vs f hf))
  · exact (bit_of_rd (f := optFallback) (an.regs _ (by decide))).trans (wfb h)

/-- What a publication shows of its plan. -/
structure InForce (s t : State) (id t0 : Nat) (clock : Int) : Prop where
  planId : t.rd 0x25070 = lo32 id
  begins : t.rd 0x25074 = lo32 t0
  solved : t.rd 0x25078 = lo32 (clock / 1000000000).toNat
  sec : t.rd 0x2507C = lo32 s.nowSec
  ns : t.rd 0x25080 = lo32 s.nowNs
  shift : t.rd 0x25088 = lo32 (shiftAt t0 s.nowSec)
  ok : t.fld ⟨0x2504C, 24, 4⟩ = 1
  count : t.fld Ctr.OPT_SOLVE.f = (s.fld Ctr.OPT_SOLVE.f + 1) % 2 ^ 32
  event : t.bit (bitAt 0x25010 0) = true
  valid : t.bit (bitAt 0x25048 8) = true
  back : s.opt.fbAt ≠ some s.fno → t.bit optFallback = false
  start : t.opt.planStart = some clock

/-- A plan put in force and published. -/
theorem published_inForce {v u w : State} {id t0 : Nat} {clock : Int} (hp : PlanPut v u id t0 clock) (hr : w.regs = u.regs) (ht : w.twin = u.twin)
    (hs : w.opt.planStart = u.opt.planStart) (hb : w.opt.fbAt = u.opt.fbAt) (hvt : v.twin = s.twin) (hvb : v.opt.fbAt = s.opt.fbAt)
    (hvr : ∀ a, a ≠ 0x25094 → a ≠ 0x25048 → v.rd a = s.rd a) : InForce s w.published id t0 clock := by
  obtain ⟨pn, po, pc, pb, ps, pf⟩ := published_shows w
  have hw : ∀ a, w.rd a = u.rd a := fun a => by
    unfold State.rd
    rw [hr]
  have hin : ∀ a, a = 0x25070 ∨ a = 0x25074 ∨ a = 0x25078 ∨ a = 0x2507C ∨ a = 0x25080 ∨ a = 0x25088 ∨ a = 0x2504C → w.published.rd a = u.rd a := fun a ha =>
    (pn.regs a (by
      unfold pubReg evReg
      simp only [addrOf_eq, pageOf_eq]
      omega)).trans (hw a)
  have hnow := sameInstant (s := s) (t := v) (fun a ha => hvr a (by omega) (by omega)) hvt
  have hut : u.twin = v.twin := hp.keeps.only .twin (by decide)
  have hnowu := sameInstant (s := v) (t := w) (fun a ha => (hw a).trans (hp.regs a (by omega))) (ht.trans hut)
  obtain ⟨n1, n2, n3⟩ := hnow
  refine ⟨(hin _ (by decide)).trans hp.planId, (hin _ (by decide)).trans hp.begins, (hin _ (by decide)).trans hp.solved, (hin _ (by decide)).trans (by rw [hp.sec, n2]),
    (hin _ (by decide)).trans (by rw [hp.ns, n3]), (hin _ (by decide)).trans (by rw [hp.shift, n2]), ?_, ?_, pb, ?_, fun h => pf ?_, ?_⟩
  · exact (fld_of_rd (f := ⟨0x2504C, 24, 4⟩) (hin _ (by decide))).trans hp.ok
  · rw [pc, fld_of_regs hr, fld_of_rd (f := Ctr.OPT_SOLVE.f) (hp.regs _ (by decide)), fld_of_rd (f := Ctr.OPT_SOLVE.f) (hvr _ (by decide) (by decide))]
  · rw [bit_iff_fld rfl, ps _ rfl (.inr (by decide)), fld_of_regs hr, ← bit_iff_fld rfl]
    exact hp.valid
  · rw [hb, hp.fbAt, hvb, hnowu.1, n1]
    exact h
  · rw [po, hs, hp.start]

/-- A published plan's slice. -/
theorem published_sliced {v u w : State} {id t0 : Nat} {clock : Int} (hp : PlanPut v u id t0 clock) (hr : w.regs = u.regs) (ht : w.tbl = u.tbl) :
    w.published.sliced ∧ ∀ i k, i < 2 ^ 16 → k < 2 ^ 8 → w.published.trd 0x250D i k = v.trd 0x250D i k := by
  obtain ⟨pn, -⟩ := published_shows w
  have hrec : ∀ i k, i < 2 ^ 16 → k < 2 ^ 8 → w.published.trd 0x250D i k = u.trd 0x250D i k := fun i k hi hk =>
    (trd_of_tblBut pn.tbl (by omega) (by omega) (by unfold evTbl; decide)).trans (trd_of_tbl ht _ _ _)
  refine ⟨sliced_congr hp.sliced (fun a ha => ?_) fun i k hi hk => hrec i k hi (by omega), fun i k hi hk => (hrec i k hi hk).trans (hp.recs i k hi hk)⟩
  refine (pn.regs a (by
    unfold sliceReg at ha
    unfold pubReg evReg
    simp only [addrOf_eq, pageOf_eq]
    omega)).trans ?_
  unfold State.rd
  rw [hr]

/-! #### The plan's records (R187) -/

/-- The plan table with the records of a solve. -/
def State.planRecs (s : State) (id sh : Nat) (recs : List (Nat × List Word)) : State :=
  recs.foldl (fun a e => (a.trecSet 0x250D e.1 0 e.2).planHead id sh e.1) s

theorem planRecs_keeps (id sh : Nat) (recs : List (Nat × List Word)) (u : State) : Keeps [.tbl] u (u.planRecs id sh recs) :=
  keeps_foldl (Keeps.refl _ u) fun _ _ h => twr_keeps (twr_keeps (trecSet_keeps h (List.Subset.refl _)) (List.Subset.refl _)) (List.Subset.refl _)

/-- One record put: its own words with PLAN_ID and SHIFT. -/
theorem planRec_put (u : State) {id sh i : Nat} {vs : List Word} (hl : vs.length = 196) :
    let t := (u.trecSet 0x250D i 0 vs).planHead id sh i
    t.trd 0x250D i 0 = vs.getD 0 0 ∧ t.trd 0x250D i 1 = lo32 id ∧ t.trd 0x250D i 3 = lo32 sh
      ∧ (∀ w, 4 ≤ w → w < 196 → t.trd 0x250D i w = vs.getD w 0)
      ∧ ∀ j w, j ≠ i → w < 2 ^ 8 → t.trd 0x250D j w = u.trd 0x250D j w := by
  intro t
  have hat : ∀ w, w < 196 → (u.trecSet 0x250D i 0 vs).trd 0x250D i w = vs.getD w 0 := fun w hw => by
    have h := trd_trecSet_at (s := u) (t := 0x250D) (i := i) (vs := vs) (w := 0) (k := w) (by omega)
    rwa [Nat.zero_add] at h
  have hoff : ∀ w, w ≠ 1 → w ≠ 3 → t.trd 0x250D i w = (u.trecSet 0x250D i 0 vs).trd 0x250D i w := fun w h1 h3 =>
    (trd_twr_word h3).trans (trd_twr_word h1)
  refine ⟨(hoff 0 (by decide) (by decide)).trans (hat 0 (by decide)), (trd_twr_word (by decide)).trans trd_twr_self, trd_twr_self,
    fun w h4 hw => (hoff w (by omega) (by omega)).trans (hat w hw), fun j w hj hw => ?_⟩
  refine (trd_twr_idx hj (by decide) hw).trans ((trd_twr_idx hj (by decide) hw).trans (trd_trecSet_apart fun k hk => ?_))
  unfold tkey
  omega

theorem planRecs_show {id sh : Nat} (recs : List (Nat × List Word)) : ∀ u : State, (∀ e ∈ recs, e.1 < 2 ^ 16 ∧ e.2.length = 196) →
    recs.Pairwise (fun x y => x.1 ≠ y.1) →
    (∀ e ∈ recs, (u.planRecs id sh recs).trd 0x250D e.1 0 = e.2.getD 0 0 ∧ (u.planRecs id sh recs).trd 0x250D e.1 1 = lo32 id
      ∧ (u.planRecs id sh recs).trd 0x250D e.1 3 = lo32 sh ∧ ∀ w, 4 ≤ w → w < 196 → (u.planRecs id sh recs).trd 0x250D e.1 w = e.2.getD w 0)
    ∧ ∀ j w, (∀ e ∈ recs, j ≠ e.1) → w < 2 ^ 8 → (u.planRecs id sh recs).trd 0x250D j w = u.trd 0x250D j w := by
  induction recs with
  | nil => exact fun u _ _ => ⟨fun e he => absurd he List.not_mem_nil, fun _ _ _ _ => rfl⟩
  | cons x l ih =>
    intro u hwf hd
    obtain ⟨hx, hl⟩ := List.pairwise_cons.1 hd
    obtain ⟨-, hxl⟩ := hwf x List.mem_cons_self
    obtain ⟨p0, p1, p3, p4, po⟩ := planRec_put u (id := id) (sh := sh) hxl
    obtain ⟨v, hv⟩ : ∃ v, v = (u.trecSet 0x250D x.1 0 x.2).planHead id sh x.1 := ⟨_, rfl⟩
    rw [← hv] at p0 p1 p3 p4 po
    have he : u.planRecs id sh (x :: l) = v.planRecs id sh l := by rw [hv]; rfl
    obtain ⟨i1, i2⟩ := ih v (fun e he => hwf e (List.mem_cons_of_mem _ he)) hl
    rw [he]
    refine ⟨fun e hm => ?_, fun j w hj hw => ?_⟩
    · rcases List.mem_cons.1 hm with rfl | hm
      · exact ⟨(i2 _ _ hx (by decide)).trans p0, (i2 _ _ hx (by decide)).trans p1, (i2 _ _ hx (by decide)).trans p3,
          fun w h4 hw => (i2 _ _ hx (by omega)).trans (p4 w h4 hw)⟩
      · exact i1 e hm
    · rw [i2 j w (fun e hm => hj e (List.mem_cons_of_mem _ hm)) hw]
      exact po j w (hj x List.mem_cons_self) hw

end

end Sys2Proof.Machine
end

section
/-! #### Each publication, the shift and the fallback -/

namespace Sys2Proof.Machine

section
variable {s : State}

/-- The publication of a plan that later changes leave in force. -/
theorem InForce.congr {t u : State} {id t0 : Nat} {clock : Int} (h : InForce s t id t0 clock) (hr : ∀ a, pageOf a = 0x25 → u.rd a = t.rd a)
    (ho : u.opt.planStart = t.opt.planStart) : InForce s u id t0 clock :=
  ⟨(hr _ rfl).trans h.planId, (hr _ rfl).trans h.begins, (hr _ rfl).trans h.solved, (hr _ rfl).trans h.sec, (hr _ rfl).trans h.ns, (hr _ rfl).trans h.shift,
    (fld_of_rd (f := ⟨0x2504C, 24, 4⟩) (hr _ rfl)).trans h.ok, (fld_of_rd (f := Ctr.OPT_SOLVE.f) (hr _ rfl)).trans h.count,
    (bit_of_rd (f := bitAt 0x25010 0) (hr _ rfl)).trans h.event, (bit_of_rd (f := bitAt 0x25048 8) (hr _ rfl)).trans h.valid,
    fun hb => (bit_of_rd (f := optFallback) (hr _ rfl)).trans (h.back hb), ho.trans h.start⟩

/-- The state in which a finished solve's plan is put: its records in the plan table, and no solve running. -/
def State.planReady (s : State) (r : SolveSt) (d : PlanOut) : State :=
  let s1 := (s.tclear 0x250D (fun _ => true)).planRecs ((s.fld Ctr.OPT_PLAN_ID.f + 1) % 2 ^ 32) (shiftAt r.inp.t0 s.nowSec) d.recs
  ((s1.wr 0x25094 (BitVec.ofNat 32 (s.since r.fno))).setF ⟨0x25048, 16, 3⟩ 0).optMod (fun o => { o with run := none, done := none })

theorem publishPlan_eq (s : State) (r : SolveSt) (d : PlanOut) : ∃ summary sec, s.publishPlan r d =
    ((s.planReady r d).putPlan ((s.fld Ctr.OPT_PLAN_ID.f + 1) % 2 ^ 32) r.inp.t0 r.clock r.inp.ofs summary).optMod
      (fun o => { o with sec := { o.sec with pub := some sec }, parts := d.recs.map (·.1) }) := ⟨_, _, rfl⟩

theorem planReady_shows (s : State) (r : SolveSt) (d : PlanOut) : (s.planReady r d).twin = s.twin
    ∧ (s.planReady r d).opt = { s.opt with run := none, done := none } ∧ (∀ a, a ≠ 0x25094 → a ≠ 0x25048 → (s.planReady r d).rd a = s.rd a)
    ∧ (s.planReady r d).rd 0x25094 = lo32 (s.since r.fno) ∧ (s.planReady r d).fld ⟨0x25048, 16, 3⟩ = 0
    ∧ ∀ i w, (s.planReady r d).trd 0x250D i w
      = ((s.tclear 0x250D (fun _ => true)).planRecs ((s.fld Ctr.OPT_PLAN_ID.f + 1) % 2 ^ 32) (shiftAt r.inp.t0 s.nowSec) d.recs).trd 0x250D i w := by
  unfold State.planReady
  extract_lets s1
  have h1 : Keeps [.tbl] s s1 := (tclear_keeps (Keeps.refl _ s) (List.Subset.refl _)).trans (planRecs_keeps _ _ _ _)
  have h1r : s1.regs = s.regs := h1.only .regs (by decide)
  have h1t : s1.twin = s.twin := h1.only .twin (by decide)
  have h1o : s1.opt = s.opt := h1.only .opt (by decide)
  obtain ⟨v, hv⟩ : ∃ v, v = (s1.wr 0x25094 (BitVec.ofNat 32 (s.since r.fno))).setF ⟨0x25048, 16, 3⟩ 0 := ⟨_, rfl⟩
  have vo : v.opt = s.opt := by rw [hv, opt_setF, opt_wr, h1o]
  rw [← hv]
  refine ⟨?_, ?_, fun a ha hb => ?_, ?_, ?_, fun i w => ?_⟩
  · show v.twin = _
    rw [hv, twin_setF, twin_wr, h1t]
  · show ({ v.opt with run := none, done := none } : OptSt) = _
    rw [vo]
  · rw [rd_optMod, hv, rd_setF_apart hb, rd_wr_apart ha]
    unfold State.rd
    rw [h1r]
  · rw [rd_optMod, hv, rd_setF_apart (by decide), rd_wr_self]
    rfl
  · rw [fld_optMod, hv]
    exact fld_setF_self (by decide)
  · have ht : v.tbl = s1.tbl := by rw [hv, tbl_setF, tbl_wr]
    exact trd_of_tbl (s := s1) (t := v.optMod (fun o => { o with run := none, done := none })) ht _ _ _

/-- A finished solve is published (R186). -/
theorem planPub_solve {r : SolveSt} {d : PlanOut} (hn : s.recRun = none) (hr : s.opt.run = some r) (hd : s.opt.done = some d) :
    runs .planPub s (fun t => InForce s t ((s.fld Ctr.OPT_PLAN_ID.f + 1) % 2 ^ 32) r.inp.t0 r.clock ∧ t.sliced ∧ t.opt.run = none ∧ t.opt.done = none
      ∧ t.solveStage = 0 ∧ t.opt.parts = d.recs.map (·.1) ∧ t.rd 0x25094 = lo32 (s.since r.fno)
      ∧ ((∀ e ∈ d.recs, e.1 < 2 ^ 16 ∧ e.2.length = 196) → d.recs.Pairwise (fun x y => x.1 ≠ y.1) → ∀ e ∈ d.recs,
          t.trd 0x250D e.1 0 = e.2.getD 0 0 ∧ t.trd 0x250D e.1 1 = t.rd 0x25070 ∧ t.trd 0x250D e.1 3 = t.rd 0x25088
            ∧ ∀ w, 4 ≤ w → w < 196 → t.trd 0x250D e.1 w = e.2.getD w 0)) := by
  obtain ⟨summary, sec, hpub⟩ := publishPlan_eq s r d
  obtain ⟨v1, v2, v3, v4, v5, v6⟩ := planReady_shows s r d
  obtain ⟨v, hv⟩ : ∃ v, v = s.planReady r d := ⟨_, rfl⟩
  rw [← hv] at hpub v1 v2 v3 v4 v5 v6
  have hp := putPlan_puts v ((s.fld Ctr.OPT_PLAN_ID.f + 1) % 2 ^ 32) r.inp.t0 r.clock r.inp.ofs summary
  obtain ⟨u, hu⟩ : ∃ u, u = v.putPlan ((s.fld Ctr.OPT_PLAN_ID.f + 1) % 2 ^ 32) r.inp.t0 r.clock r.inp.ofs summary := ⟨_, rfl⟩
  rw [← hu] at hp hpub
  obtain ⟨w, hw⟩ : ∃ w, w = s.publishPlan r d := ⟨_, rfl⟩
  rw [← hw] at hpub
  have wo : w.opt = { u.opt with sec := { u.opt.sec with pub := some sec }, parts := d.recs.map (·.1) } := by rw [hpub]; rfl
  have wr : w.regs = u.regs := by rw [hpub]; rfl
  have wt : w.tbl = u.tbl := by rw [hpub]; rfl
  have hf := published_inForce (s := s) hp wr (by rw [hpub]; rfl) (by rw [wo]) (by rw [wo]) v1 (by rw [v2]) v3
  obtain ⟨hsl, hrec⟩ := published_sliced hp wr wt
  obtain ⟨pn, po, -, -, ps, -⟩ := published_shows w
  obtain ⟨x, hx⟩ : ∃ x, x = w.published := ⟨_, rfl⟩
  rw [← hx] at hf hsl hrec pn po ps
  obtain ⟨y, hy⟩ : ∃ y, y = x.optEnded r.cmd := ⟨_, rfl⟩
  have hyo : y.regs = x.regs ∧ y.tbl = x.tbl ∧ y.opt.run = x.opt.run ∧ y.opt.done = x.opt.done := hy ▸ optEnded_same x r.cmd
  have hyp : y.opt.parts = x.opt.parts ∧ y.opt.planStart = x.opt.planStart := by
    rw [hy]
    cases r.cmd with
    | none => exact ⟨rfl, rfl⟩
    | some c => exact ⟨rfl, rfl⟩
  have hall : ∀ t : State, Near (fun a => a = 0xB114 ∨ a = 0xB120) (fun _ => False) y t → t.opt = y.opt →
      InForce s t ((s.fld Ctr.OPT_PLAN_ID.f + 1) % 2 ^ 32) r.inp.t0 r.clock ∧ t.sliced ∧ t.opt.run = none ∧ t.opt.done = none
        ∧ t.solveStage = 0 ∧ t.opt.parts = d.recs.map (·.1) ∧ t.rd 0x25094 = lo32 (s.since r.fno)
        ∧ ((∀ e ∈ d.recs, e.1 < 2 ^ 16 ∧ e.2.length = 196) → d.recs.Pairwise (fun x y => x.1 ≠ y.1) → ∀ e ∈ d.recs,
            t.trd 0x250D e.1 0 = e.2.getD 0 0 ∧ t.trd 0x250D e.1 1 = t.rd 0x25070 ∧ t.trd 0x250D e.1 3 = t.rd 0x25088
              ∧ ∀ w, 4 ≤ w → w < 196 → t.trd 0x250D e.1 w = e.2.getD w 0) := fun t ht hto => by
    have hrd : ∀ a, pageOf a = 0x25 → t.rd a = x.rd a := fun a ha => by
      rw [ht.regs a (by
        rintro (rfl | rfl)
        · exact absurd ha (by decide)
        · exact absurd ha (by decide))]
      unfold State.rd
      rw [hyo.1]
    have htrd : ∀ i k, i < 2 ^ 16 → k < 2 ^ 8 → t.trd 0x250D i k = x.trd 0x250D i k := fun i k hi hk =>
      (trd_of_tblBut ht.tbl (by omega) (by omega) id).trans (trd_of_tbl hyo.2.1 _ _ _)
    have hforce := hf.congr hrd (by rw [hto, hyp.2])
    refine ⟨hforce, sliced_congr hsl (fun a ha => hrd a ?_) fun i k hi hk => htrd i k hi (by omega), ?_, ?_, ?_, ?_, ?_, fun hwf hd e he => ?_⟩
    · unfold sliceReg at ha
      rw [pageOf_eq]
      omega
    · rw [hto, hyo.2.2.1, po, wo]
      exact hp.run.trans (by rw [v2])
    · rw [hto, hyo.2.2.2, po, wo]
      exact hp.done.trans (by rw [v2])
    · show t.fld ⟨0x25048, 16, 3⟩ = 0
      rw [fld_of_rd (f := ⟨0x25048, 16, 3⟩) (hrd _ rfl), ps _ rfl (.inl (by decide)), fld_of_regs wr, hp.stat _ rfl (.inl (by decide)), v5]
    · rw [hto, hyp.1, po, wo]
    · rw [hrd _ rfl, pn.regs _ (by unfold pubReg evReg; decide), ← v4]
      refine Eq.trans ?_ (hp.regs _ (by decide))
      unfold State.rd
      rw [wr]
    · obtain ⟨r1, -⟩ := planRecs_show d.recs _ hwf hd (id := (s.fld Ctr.OPT_PLAN_ID.f + 1) % 2 ^ 32) (sh := shiftAt r.inp.t0 s.nowSec)
      obtain ⟨e0, e1, e3, e4⟩ := r1 e he
      have hi := (hwf e he).1
      have hword : ∀ k, k < 2 ^ 8 → t.trd 0x250D e.1 k = ((s.tclear 0x250D (fun _ => true)).planRecs ((s.fld Ctr.OPT_PLAN_ID.f + 1) % 2 ^ 32)
          (shiftAt r.inp.t0 s.nowSec) d.recs).trd 0x250D e.1 k := fun k hk =>
        (htrd _ _ hi hk).trans ((hrec _ _ hi hk).trans (v6 _ _))
      rw [hword 0 (by decide), hword 1 (by decide), hword 3 (by decide), hforce.planId, hforce.shift]
      exact ⟨e0, e1, e3, fun k h4 hk => (hword k (by omega)).trans (e4 k h4 hk)⟩
  obtain ⟨t, ht, hn, ho⟩ : ∃ t, planPub s = t ∧ Near (fun a => a = 0xB114 ∨ a = 0xB120) (fun _ => False) y t ∧ t.opt = y.opt := by
    refine ⟨_, rfl, ?_⟩
    unfold planPub
    rw [hn, hr, hd]
    dsimp only
    rw [← hw, ← hx, ← hy]
    cases r.cmd with
    | none => exact ⟨Near.refl _ _ y, rfl⟩
    | some c => exact ⟨near_complete y c _ _, opt_complete' ..⟩
  refine runs_andShown (r := t) (next_congr (congrArg s.andShown ht)) fun vis => ?_
  exact hall { t with vis := vis } ⟨hn.regs, hn.tbl⟩ ho

/-- A standby module publishes the plan that the record in execution gives (R192). -/
theorem planPub_record {h : RecHdr} {d : PlanPub} (hr : s.recRun = some h) (hd : h.plan.pub = some d) : runs .planPub s (fun t =>
    InForce s t (d.summary.getD 0 0).toNat d.t0 d.clock ∧ (h.plan.parts = [] → t.sliced) ∧ t.opt.run = s.opt.run ∧ t.opt.done = s.opt.done) := by
  obtain ⟨v, hv, hpub⟩ : ∃ v, Keeps [.tbl] s v ∧ s.publishRec d = v.putPlan (d.summary.getD 0 0).toNat d.t0 d.clock d.ofs d.summary := by
    refine ⟨_, ?_, rfl⟩
    refine keeps_foldl (keeps_foldl (tclear_keeps (Keeps.refl _ s) (List.Subset.refl _)) fun a e ha => ?_) fun _ _ ha =>
      trecSet_keeps ha (List.Subset.refl _)
    exact twr_keeps (twr_keeps (trecSet_keeps ha (List.Subset.refl _)) (List.Subset.refl _)) (List.Subset.refl _)
  have hp := putPlan_puts v (d.summary.getD 0 0).toNat d.t0 d.clock d.ofs d.summary
  rw [← hpub] at hp
  have vo : v.opt = s.opt := hv.only .opt (by decide)
  have vr : v.regs = s.regs := hv.only .regs (by decide)
  obtain ⟨u, hu⟩ : ∃ u, u = s.publishRec d := ⟨_, rfl⟩
  rw [← hu] at hp
  have hf := published_inForce (s := s) hp rfl rfl rfl rfl (hv.only .twin (by decide)) (by rw [vo]) (fun a _ _ => by unfold State.rd; rw [vr])
  obtain ⟨hsl, -⟩ := published_sliced hp rfl rfl
  obtain ⟨-, po, -⟩ := published_shows u
  obtain ⟨x, hx⟩ : ∃ x, x = u.published := ⟨_, rfl⟩
  rw [← hx] at hf hsl po
  obtain ⟨t, ht⟩ : ∃ t, t = h.plan.parts.foldl (fun a e => a.trecSet 0x250D e.1 0 e.2) x := ⟨_, rfl⟩
  have tk : Keeps [.tbl] x t := ht ▸ keeps_foldl (Keeps.refl _ x) fun _ _ ha => trecSet_keeps ha (List.Subset.refl _)
  have tr : t.regs = x.regs := tk.only .regs (by decide)
  have tto : t.opt = u.opt := (tk.only .opt (by decide)).trans po
  have hrun : exec .planPub s = .next (s.andShown t) := next_congr (congrArg s.andShown (by
    unfold planPub
    rw [hr]
    dsimp only
    rw [hd]
    dsimp only
    rw [← hu, ← hx, ← ht]))
  have hforce := hf.congr (u := t) (fun a _ => by unfold State.rd; rw [tr]) (by rw [tto, po])
  refine runs_andShown hrun fun vis => ⟨hforce.congr (fun _ _ => rfl) rfl, fun he => ?_, ?_, ?_⟩
  · have htx : t = x := by rw [ht, he]; rfl
    rw [htx]
    exact ⟨hsl.1, hsl.2⟩
  · exact (congrArg OptSt.run tto :).trans (hp.run.trans (by rw [vo]))
  · exact (congrArg OptSt.done tto :).trans (hp.done.trans (by rw [vo]))

theorem InForce.inForce {t : State} {id t0 : Nat} {clock : Int} (h : InForce s t id t0 clock) : t.rd 0x25070 = lo32 id ∧ t.rd 0x25074 = lo32 t0
      ∧ t.rd 0x25078 = lo32 (clock / 1000000000).toNat ∧ t.rd 0x2507C = lo32 s.nowSec ∧ t.rd 0x25080 = lo32 s.nowNs
      ∧ t.rd 0x25088 = lo32 (shiftAt t0 s.nowSec) ∧ t.fld ⟨0x2504C, 24, 4⟩ = 1
      ∧ t.fld Ctr.OPT_SOLVE.f = (s.fld Ctr.OPT_SOLVE.f + 1) % 2 ^ 32 ∧ t.bit (bitAt 0x25010 0) = true
      ∧ t.bit (bitAt 0x25048 8) = true ∧ (s.opt.fbAt ≠ some s.fno → t.bit optFallback = false)
      ∧ t.opt.planStart = some clock :=
  ⟨h.planId, h.begins, h.solved, h.sec, h.ns, h.shift, h.ok, h.count, h.event, h.valid, h.back, h.start⟩

theorem andShown_of_regs {r : State} (h : r.regs = s.regs) : s.andShown r = r := if_pos h

/-- The state of a source is followed: since when it has been on or off (R178). -/
def State.heldNote (a : State) (i : Nat) : State :=
  match a.snapItem (a.trd 0x2501 i 1) with
  | none => a
  | some w =>
    match a.opt.held.lookup i with
    | some e => if e.1 = (w != 0) then a else
        a.optMod (fun o => { o with held := (i, w != 0, a.nowSec) :: o.held.filter (fun x => x.1 != i) })
    | none => a.optMod (fun o => { o with held := (i, w != 0, a.nowSec) :: o.held })

theorem heldNote_keeps {a : State} (hk : Keeps [.opt] s a) (i : Nat) : Keeps [.opt] s (a.heldNote i) ∧ (a.heldNote i).opt.snap = a.opt.snap := by
  unfold State.heldNote
  split
  · exact ⟨hk, rfl⟩
  · split
    · split
      · exact ⟨hk, rfl⟩
      · exact ⟨optMod_keeps hk (List.Subset.refl _), rfl⟩
    · exact ⟨optMod_keeps hk (List.Subset.refl _), rfl⟩

theorem foldl_heldNote (l : List Nat) : ∀ {a : State}, Keeps [.opt] s a → Keeps [.opt] s (l.foldl State.heldNote a)
    ∧ (l.foldl State.heldNote a).opt.snap = a.opt.snap := by
  induction l with
  | nil => exact fun hk => ⟨hk, rfl⟩
  | cons i l ih =>
    intro a hk
    obtain ⟨h1, h2⟩ := heldNote_keeps hk i
    obtain ⟨h3, h4⟩ := ih h1
    exact ⟨h3, h4.trans h2⟩

/-- A mailbox that the cores read is copied (R34). -/
theorem bridgeCopy_copies {n : Nat} {m : Mbx} (hm : s.mbxOf n = some m) (hw : m.swapped = true) (hr : m.readers / 4 % 16 ≠ 0) :
    runs (.bridgeSnapshotCopy n) s (fun t =>
      t.opt.snap.lookup n = some m.front ∧ (∀ k, k ≠ n → t.opt.snap.lookup k = s.opt.snap.lookup k) ∧ s.onlyIn t [.opt]) := by
  obtain ⟨u, hu⟩ : ∃ u, u = s.optMod (fun o => { o with snap := (n, m.front) :: o.snap.filter (fun e => e.1 != n) }) := ⟨_, rfl⟩
  have us : u.opt.snap = (n, m.front) :: s.opt.snap.filter (fun e => e.1 != n) := hu ▸ rfl
  have uk : Keeps [.opt] s u := hu ▸ optMod_keeps (Keeps.refl _ s) (List.Subset.refl _)
  obtain ⟨hk, hs⟩ := foldl_heldNote (u.defined 0x2501 0) uk
  have hrun : exec (.bridgeSnapshotCopy n) s = .next ((u.defined 0x2501 0).foldl State.heldNote u) := next_congr (by
    rw [hm]
    dsimp only
    rw [if_pos (by rw [hw]; simpa using hr), ← hu]
    rfl)
  refine runs_intro hrun ⟨?_, fun k hkn => ?_, hk.only⟩
  · rw [hs, us]
    simp
  · rw [hs, us, List.lookup_cons, beq_eq_false_iff_ne.2 hkn]
    exact lookup_filter_other hkn

/-- The fallback is entered once (R190). -/
theorem enterFallback_shows (s : State) : s.enterFallback.bit optFallback = true ∧ (s.bit optFallback = true → s.enterFallback = s)
    ∧ (s.bit optFallback = false → s.enterFallback.bit (bitAt 0x25010 2) = true
        ∧ s.enterFallback.fld Ctr.OPT_FALLBACK.f = min (2 ^ 32 - 1) (s.fld Ctr.OPT_FALLBACK.f + 1)) := by
  unfold State.enterFallback
  by_cases hb : s.bit optFallback = true
  · rw [if_pos hb]
    exact ⟨hb, fun _ => rfl, fun h => absurd (hb.symm.trans h) (by decide)⟩
  · rw [if_neg hb]
    obtain ⟨u, hu⟩ : ∃ u, u = (s.setB optFallback true).optMod (fun o => { o with appliedSec := s.nowSec, appliedNs := s.nowNs }) := ⟨_, rfl⟩
    have ub : u.bit optFallback = true := by
      rw [hu]
      exact (bit_optMod ..).trans (bit_setB_self (by decide) rfl)
    have uc : u.fld Ctr.OPT_FALLBACK.f = s.fld Ctr.OPT_FALLBACK.f := by
      rw [hu]
      exact (fld_optMod ..).trans (fld_setB_apart (by decide))
    rw [← hu]
    refine ⟨?_, fun h => absurd h hb, fun _ => ⟨bit_raiseEv_self (by decide) (by decide) (by decide) rfl, ?_⟩⟩
    · rw [bit_raiseEv_apart (by decide) (by decide) (by decide) (by decide) (by decide)]
      exact (bit_bump_apart (by decide) (by decide)).trans ub
    · rw [fld_raiseEv_apart (by decide) (by decide) (by decide) (by decide) (by decide), ← uc]
      exact fld_bump_stays rfl (by decide) (.inl (by decide))

/-- The plan shifts where no plan is published with the step (R188). -/
theorem planShift_shifts (ha : s.atStep = true) (hv : s.bit (bitAt 0x25048 8) = true) (hd : s.opt.done = none)
    (hp : ¬ (s.rd 0x2507C = lo32 s.nowSec ∧ s.rd 0x25080 = lo32 s.nowNs)) : runs .planShift s (fun t =>
      t.fld ⟨0x25088, 0, 8⟩ = min 191 (s.fld ⟨0x25088, 0, 8⟩ + 1) ∧ t.rd 0x25070 = s.rd 0x25070
        ∧ t.sliced ∧ t.opt.appliedSec = s.nowSec ∧ t.opt.appliedNs = s.nowNs ∧ t.tbl = s.tbl) := by
  obtain ⟨u, hu⟩ : ∃ u, u = (s.stepHistory).optMod (fun o => { o with ofsDef := sint (s.rd 0x25060) }) := ⟨_, rfl⟩
  have uk : Keeps [.opt] s u := hu ▸ optMod_keeps (stepHistory_keeps (Keeps.refl _ s) (List.Subset.refl _)) (List.Subset.refl _)
  have ur : u.regs = s.regs := uk.only .regs (by decide)
  obtain ⟨x, hx⟩ : ∃ x, x = u.setF ⟨0x25088, 0, 8⟩ (min 191 (u.fld ⟨0x25088, 0, 8⟩ + 1)) := ⟨_, rfl⟩
  have hrun : exec .planShift s = .next (s.andShown x.putSlice) := next_congr (congrArg s.andShown ((if_neg (by rw [ha]; decide)).trans (by
    dsimp only
    rw [if_neg (by
      rw [hv, hd]
      simpa using hp), ← hu, ← hx])))
  obtain ⟨-, -, p3, p4, p5⟩ := putSlice_shows x
  have hsl := putSlice_sliced x
  have hnow := sameInstant (s := s) (t := x) (fun a ha => by
    rw [hx, rd_setF_apart (show a ≠ 0x25088 by omega)]
    unfold State.rd
    rw [ur]) (by rw [hx, twin_setF]; exact uk.only .twin (by decide))
  obtain ⟨w, hw⟩ : ∃ w, w = x.putSlice := ⟨_, rfl⟩
  rw [← hw] at hrun p3 p4 p5 hsl
  refine runs_andShown hrun fun v => ⟨?_, ?_, ⟨hsl.1, hsl.2⟩, (congrArg OptSt.appliedSec p5 :).trans hnow.2.1,
    (congrArg OptSt.appliedNs p5 :).trans hnow.2.2, ?_⟩
  · refine (fld_of_rd (s := x) (t := w) (f := ⟨0x25088, 0, 8⟩) (p3 _ (by unfold sliceReg; decide))).trans ?_
    rw [hx, fld_setF_self (by decide), fld_of_regs ur]
    exact Nat.mod_eq_of_lt (show _ < 256 by omega)
  · refine (p3 0x25070 (by unfold sliceReg; decide)).trans ?_
    rw [hx, rd_setF_apart (by decide)]
    unfold State.rd
    rw [ur]
  · show w.tbl = s.tbl
    rw [p4, hx, tbl_setF]
    exact uk.only .tbl (by decide)

/-- A step that opens with a plan just published, or with none, only takes the step's history. -/
theorem planShift_stays (ha : s.atStep = true) (hn : ¬ (s.bit (bitAt 0x25048 8) = true ∧ s.opt.done = none
    ∧ ¬ (s.rd 0x2507C = lo32 s.nowSec ∧ s.rd 0x25080 = lo32 s.nowNs))) :
    runs .planShift s (fun t => s.onlyIn t [.opt] ∧ t.opt.planStart = s.opt.planStart) := by
  obtain ⟨u, hu⟩ : ∃ u, u = (s.stepHistory).optMod (fun o => { o with ofsDef := sint (s.rd 0x25060) }) := ⟨_, rfl⟩
  have uk : Keeps [.opt] s u := hu ▸ optMod_keeps (stepHistory_keeps (Keeps.refl _ s) (List.Subset.refl _)) (List.Subset.refl _)
  have up : u.opt.planStart = s.opt.planStart := hu ▸ rfl
  have hrun : exec .planShift s = .next (s.andShown u) := next_congr (congrArg s.andShown ((if_neg (by rw [ha]; decide)).trans (by
    dsimp only
    rw [if_pos (by
      by_contra hc
      simp only [Bool.or_eq_true, Bool.not_eq_true', not_or, Bool.not_eq_false, Bool.and_eq_true, beq_iff_eq, Option.isSome_iff_ne_none, ne_eq,
        not_not] at hc
      obtain ⟨⟨hv, hp⟩, hd⟩ := hc
      exact hn ⟨hv, hd, fun h => hp ⟨h, hv⟩⟩), ← hu])))
  rw [andShown_of_regs (uk.only .regs (by decide))] at hrun
  exact runs_intro hrun ⟨uk.only, up⟩

/-- A standby module without a publication in its record fills the plan table only. -/
theorem planPub_parts {h : RecHdr} (hr : s.recRun = some h) (hd : h.plan.pub = none) :
    runs .planPub s (fun t => s.onlyIn t [.tbl] ∧ (h.plan.parts = [] → t = s)) := by
  obtain ⟨t, ht⟩ : ∃ t, t = h.plan.parts.foldl (fun a e => a.trecSet 0x250D e.1 0 e.2) s := ⟨_, rfl⟩
  have tk : Keeps [.tbl] s t := ht ▸ keeps_foldl (Keeps.refl _ s) fun _ _ ha => trecSet_keeps ha (List.Subset.refl _)
  have hrun : exec .planPub s = .next (s.andShown t) := next_congr (congrArg s.andShown (by
    unfold planPub
    rw [hr]
    dsimp only
    rw [hd]
    dsimp only
    rw [← ht]))
  rw [andShown_of_regs (tk.only .regs (by decide))] at hrun
  exact runs_intro hrun ⟨tk.only, fun he => by rw [ht, he]; rfl⟩

end

/-- Settles O50: each publication, the copy of a mailbox, the shift, and the fallback. -/
theorem plansArePublishedAndAge : Obligations.PlansArePublishedAndAge := by
  unfold Obligations.PlansArePublishedAndAge
  intro s entered sliceRegs inForce
  have hent : ∀ t : State, t.regs = s.enterFallback.regs → entered t := fun t ht => by
    obtain ⟨e1, e2, e3⟩ := enterFallback_shows s
    exact ⟨(bit_of_regs ht _).trans e1, fun h => by rw [ht, e2 h], fun h => ⟨(bit_of_regs ht _).trans (e3 h).1, (fld_of_regs ht _).trans (e3 h).2⟩⟩
  refine ⟨fun r d hn hr hd => ?_, fun h d hr hd => ?_, fun h hr hd => planPub_parts hr hd, fun hn h => ?_, fun n m hm hw hr => bridgeCopy_copies hm hw hr,
    fun n m hm h => ?_, fun n hm => ?_, fun ha => ⟨fun ⟨hv, hd, hp⟩ => planShift_shifts ha hv hd hp, planShift_stays ha⟩, fun ha => ?_,
    fun a ha hl hd => ?_, fun h => ?_, ?_⟩
  · obtain ⟨t, ht, h1, h2⟩ := planPub_solve hn hr hd
    exact ⟨t, ht, h1.inForce, h2⟩
  · obtain ⟨t, ht, h1, h2⟩ := planPub_record hr hd
    have hid : lo32 (d.summary.getD 0 0).toNat = d.summary.getD 0 0 := BitVec.ofNat_toNat _ _
    obtain ⟨i1, i2⟩ := h1.inForce
    exact ⟨t, ht, ⟨i1.trans hid, i2⟩, h2⟩
  · refine next_congr (Eq.trans (congrArg s.andShown ?_) (andShown_self s))
    unfold planPub
    rw [hn]
    dsimp only
    split
    · next hr hd => exact h.elim (fun h => nomatch hr.symm.trans h) fun h => nomatch hd.symm.trans h
    · rfl
  · refine next_congr ?_
    rw [hm]
    refine if_neg ?_
    rcases h with h | h
    · simp [h]
    · simp [h]
  · refine next_congr ?_
    rw [hm]
  · exact next_congr ((congrArg s.andShown (if_pos (by rw [ha]; rfl))).trans (andShown_self s))
  · have hrun : exec .fallbackAgeExpire s = .next (s.andShown s.enterFallback) := next_congr (congrArg s.andShown (by
      rw [ha]
      exact if_pos ⟨hl, by rw [hd]; rfl⟩))
    exact runs_andShown hrun fun v => hent _ rfl
  · refine next_congr (Eq.trans (congrArg s.andShown ?_) (andShown_self s))
    split
    · rfl
    · next a ha =>
      refine if_neg fun hc => ?_
      rcases h with h | h
      · have := h a ha
        omega
      · exact h (Option.isNone_iff_eq_none.1 hc.2)
  · exact runs_intro (t := optFallbackCmd s) (next_congr rfl) ⟨hent _ rfl, rfl⟩

end Sys2Proof.Machine
end

section
/-! ### A loop that is not due beside one that is (R348, R356)

The clause for a loop that is not due speaks of its word `w` for every number `w`. The words of a table are numbered through: word 256 + 14 of
loop 0 is word 14 of loop 1, the output that loop 1 publishes in the same group. -/

namespace Sys2Proof.Machine

/-- LOOP_GROUP of loops 0 and 1 is the entry that comes next, the loop engine is on, loop 0 is not defined, and loop 1 is defined, OFF and
due in every frame, with an output of 1. -/
def besideOff : State :=
  { State.reset with
    seq := { State.reset.seq with started := true }
    tbl := [(tkey 0x0600 0 0, 0x60000100), (tkey 0x0600 0 1, 0x00000200), (tkey 0x2000 1 0, 0x80000400), (tkey 0x2000 1 14, 1)] }.wr 0x20040 1

theorem besideOff_takes : besideOff.takes 0x20 0x06 (·.has 0x100) := by
  unfold State.takes
  decide

theorem besideOff_ready : besideOff.bit (bitAt 0x20040 0) = true ∧ besideOff.loop.tune = none ∧ besideOff.loopDef 0 = false := by decide

/-- The run clears the output of loop 1, which is word 270 counted from loop 0. -/
theorem besideOff_clears : (loopGroup 0x100 besideOff).lw 0 270 ≠ besideOff.lw 0 270 := by decide +kernel

/-- Refutes O44: on `besideOff` loop 0 is not due, and its word 270, the output of loop 1, changes from 1 to 0. -/
theorem not_loopsExecuteAndHold : ¬ Obligations.LoopsExecuteAndHold := by
  unfold Obligations.LoopsExecuteAndHold
  intro h
  obtain ⟨hon, htune, hdef⟩ := besideOff_ready
  have hidle := ((h.1 0x100 besideOff besideOff_takes).2 0 0 hon (Nat.zero_le _) rfl (by simp [htune])).1 (by simp [hdef])
  obtain ⟨t, ht, hwords, -⟩ := hidle
  change (.next (loopGroup 0x100 besideOff) : Out) = .next t at ht
  cases ht
  exact besideOff_clears (hwords 270)

end Sys2Proof.Machine
end

section
/-! ### Meters take their frames: the modulator front-end (R319, R320) -/

namespace Sys2Proof.Machine

section
variable {s : State}

/-! #### The inputs of a point -/

/-- What decides which inputs of a point are invalid, and the rest of the front-end that judging an input leaves alone. -/
structure ModKept (s t : State) : Prop where
  ctrl : t.rd 0x19040 = s.rd 0x19040
  clk : t.bit modLost = s.bit modLost
  lost : t.met.lost = s.met.lost
  dropped : t.met.dropped = s.met.dropped

theorem ModKept.refl (s : State) : ModKept s s := ⟨rfl, rfl, rfl, rfl⟩

theorem ModKept.trans {s t u : State} (h : ModKept s t) (h' : ModKept t u) : ModKept s u :=
  ⟨h'.ctrl.trans h.ctrl, h'.clk.trans h.clk, h'.lost.trans h.lost, h'.dropped.trans h.dropped⟩

theorem ModKept.modBad {s t : State} (h : ModKept s t) (p stuck : Nat) : t.modBad p stuck = s.modBad p stuck := by
  have hctrl : ∀ b, t.bit (bitAt 0x19040 b) = s.bit (bitAt 0x19040 b) := fun b => bit_of_rd (f := bitAt 0x19040 b) h.ctrl
  unfold State.modBad State.modOn
  rw [hctrl, hctrl, h.clk, h.lost]

/-- An input judged in a frame: DATA_OK follows, DATA_FAULT is latched, and the points stay. -/
structure InputJudged (s t : State) (m : Nat) (bad : Bool) : Prop where
  kept : ModKept s t
  pts : t.met.pts = s.met.pts
  good : t.met.good = s.met.good
  ok : ∀ j, t.bit (bitAt 0x19044 j) = if j = m then !bad else s.bit (bitAt 0x19044 j)
  fault : ∀ j, t.bit (bitAt 0x19048 j) = true ↔ s.bit (bitAt 0x19048 j) = true ∨ (j = m ∧ bad = true)

/-- The counting of a fault and its event reach neither the status registers nor the points. -/
theorem modInput_counts (u : State) (was : Bool) :
    let v := if u.met.faulted then u else (u.bump .MOD_FAULT).metMod (fun q => { q with faulted := true })
    let w := if was then v else v.raiseEv 0x19 0
    (∀ a, a = 0x19040 ∨ a = 0x19044 ∨ a = 0x19048 → w.rd a = u.rd a) ∧ w.met.pts = u.met.pts ∧ w.met.good = u.met.good ∧ w.met.lost = u.met.lost
      ∧ w.met.dropped = u.met.dropped := by
  intro v w
  have hv : (∀ a, a = 0x19040 ∨ a = 0x19044 ∨ a = 0x19048 → v.rd a = u.rd a) ∧ v.met.pts = u.met.pts ∧ v.met.good = u.met.good
      ∧ v.met.lost = u.met.lost ∧ v.met.dropped = u.met.dropped := by
    unfold v
    split
    · exact ⟨fun _ _ => rfl, rfl, rfl, rfl, rfl⟩
    · refine ⟨fun a ha => ?_, ?_⟩
      · rcases ha with rfl | rfl | rfl <;> exact rd_bump (by decide) (by decide)
      · simp [State.metMod]
  have hw : w.met = v.met ∧ ∀ a, a = 0x19040 ∨ a = 0x19044 ∨ a = 0x19048 → w.rd a = v.rd a := by
    unfold w
    split
    · exact ⟨rfl, fun _ _ => rfl⟩
    · refine ⟨met_raiseEv .., fun a ha => ?_⟩
      rcases ha with rfl | rfl | rfl <;> exact rd_raiseEv_apart (by decide) (by decide) (by decide) (by decide) (by decide)
  rw [hw.1]
  exact ⟨fun a ha => (hw.2 a ha).trans (hv.1 a ha), hv.2⟩

theorem modInput_judged (s : State) {m : Nat} (hm : m < 28) (bad : Bool) : InputJudged s (s.modInput m bad) m bad := by
  have hok : ∀ j, (s.setB (bitAt 0x19044 m) (!bad)).bit (bitAt 0x19044 j) = if j = m then !bad else s.bit (bitAt 0x19044 j) := fun j => by
    split
    · next h =>
      subst h
      exact bit_setB_self (f := bitAt 0x19044 j) (show j < 32 by omega) rfl
    · next h => exact bit_setB_apart (.inr (by simp only [bitAt]; omega))
  have hclk : (s.setB (bitAt 0x19044 m) (!bad)).bit modLost = s.bit modLost := bit_setB_apart (.inr (by simp only [bitAt, modLost]; omega))
  have hctrl : (s.setB (bitAt 0x19044 m) (!bad)).rd 0x19040 = s.rd 0x19040 :=
    rd_setB_apart (show (0x19040 : Nat) ≠ 0x19044 by decide)
  have hlat : ∀ j, (s.setB (bitAt 0x19044 m) (!bad)).bit (bitAt 0x19048 j) = s.bit (bitAt 0x19048 j) := fun j =>
    bit_setB_apart (.inl (show (0x19048 : Nat) ≠ 0x19044 by decide))
  unfold State.modInput
  extract_lets was s1 s2 s3
  cases bad with
  | false => exact ⟨⟨hctrl, hclk, rfl, rfl⟩, rfl, rfl, hok, fun j => by
      show s1.bit (bitAt 0x19048 j) = true ↔ _
      rw [show s1.bit (bitAt 0x19048 j) = s.bit (bitAt 0x19048 j) from hlat j]
      simp⟩
  | true =>
    obtain ⟨hrd, hpts, hgood, hlost, hdrop⟩ := modInput_counts s2 was
    have h44 : ∀ j, s2.bit (bitAt 0x19044 j) = s1.bit (bitAt 0x19044 j) := fun j =>
      bit_setB_apart (.inl (show (0x19044 : Nat) ≠ 0x19048 by decide))
    refine ⟨⟨(hrd _ (.inl rfl)).trans ((rd_setB_apart (show (0x19040 : Nat) ≠ 0x19048 by decide)).trans hctrl), ?_, hlost, hdrop⟩, hpts, hgood, fun j => ?_, fun j => ?_⟩
    · exact (bit_of_rd (f := modLost) (hrd _ (.inr (.inl rfl)))).trans ((h44 28).trans hclk)
    · exact (bit_of_rd (f := bitAt 0x19044 j) (hrd _ (.inr (.inl rfl)))).trans ((h44 j).trans (hok j))
    · rw [if_pos rfl, bit_of_rd (f := bitAt 0x19048 j) (hrd _ (.inr (.inr rfl)))]
      by_cases hj : j = m
      · subst hj
        exact iff_of_true (bit_setB_self (f := bitAt 0x19048 j) (show j < 32 by omega) rfl) (.inr ⟨rfl, rfl⟩)
      · rw [show s2.bit (bitAt 0x19048 j) = s1.bit (bitAt 0x19048 j) from bit_setB_apart (.inr (by simp only [bitAt]; omega))]
        rw [show s1.bit (bitAt 0x19048 j) = s.bit (bitAt 0x19048 j) from hlat j]
        simp [hj]

/-- The inputs of a point judged, the first `n` of them so far. -/
structure PointJudged (s t : State) (p n : Nat) (bad : Nat → Bool) : Prop where
  kept : ModKept s t
  pts : t.met.pts = s.met.pts
  good : t.met.good = s.met.good
  ok : ∀ q k, k < 7 → t.bit (bitAt 0x19044 (7 * q + k)) = if q = p ∧ k < n then !bad k else s.bit (bitAt 0x19044 (7 * q + k))
  fault : ∀ q k, k < 7 → (t.bit (bitAt 0x19048 (7 * q + k)) = true ↔ s.bit (bitAt 0x19048 (7 * q + k)) = true ∨ (q = p ∧ k < n ∧ bad k = true))

theorem modInputs_judged (s : State) {p : Nat} (hp : p < 4) (bad : Nat → Bool) (n : Nat) (hn : n ≤ 7) :
    PointJudged s ((List.range n).foldl (fun a k => a.modInput (7 * p + k) (bad k)) s) p n bad := by
  induction n with
  | zero => exact ⟨.refl s, rfl, rfl, fun q k _ => by simp, fun q k _ => by simp⟩
  | succ n ih =>
    have hprev := ih (by omega)
    rw [List.range_succ, List.foldl_append]
    have hnext := modInput_judged ((List.range n).foldl (fun a k => a.modInput (7 * p + k) (bad k)) s) (m := 7 * p + n) (by omega) (bad n)
    refine ⟨hprev.kept.trans hnext.kept, hnext.pts.trans hprev.pts, hnext.good.trans hprev.good, fun q k hk => ?_, fun q k hk => ?_⟩
    all_goals
      have hat : 7 * q + k = 7 * p + n ↔ q = p ∧ k = n := by omega
      have hlt : (q = p ∧ k < n + 1) ↔ (q = p ∧ k = n) ∨ (q = p ∧ k < n) := by omega
    · refine (hnext.ok _).trans ?_
      rw [hprev.ok q k hk]
      by_cases hq : q = p ∧ k = n
      · rw [if_pos (hat.2 hq), if_pos (hlt.2 (.inl hq)), hq.2]
      · rw [if_neg (mt hat.1 hq)]
        exact if_congr (by tauto) rfl rfl
    · refine (hnext.fault _).trans ?_
      rw [hprev.fault q k hk, hat]
      by_cases hq : q = p ∧ k = n
      · obtain ⟨rfl, rfl⟩ := hq
        simp
      · simp only [hq, false_and, or_false]
        have hk' : q = p → (k < n + 1 ↔ k < n) := by omega
        exact or_congr_right ⟨fun ⟨a, b, c⟩ => ⟨a, (hk' a).2 b, c⟩, fun ⟨a, b, c⟩ => ⟨a, (hk' a).1 b, c⟩⟩

/-! #### The samples of a point -/

/-- Clipping is counted and told on its own words. -/
structure ClipSame (s t : State) : Prop where
  regs : ∀ a, a = 0x19040 ∨ a = 0x19044 ∨ a = 0x19048 → t.rd a = s.rd a
  met : t.met = s.met

theorem ClipSame.trans {s t u : State} (h : ClipSame s t) (h' : ClipSame t u) : ClipSame s u :=
  ⟨fun a ha => (h'.regs a ha).trans (h.regs a ha), h'.met.trans h.met⟩

theorem modClip_same (s : State) (m : Nat) (c : Int) : ClipSame s (s.modClip m c) := by
  unfold State.modClip
  split
  · refine ⟨fun a ha => ?_, by simp⟩
    rcases ha with rfl | rfl | rfl
    all_goals
      exact (rd_raiseEv_apart (by decide) (by decide) (by decide) (by decide) (by decide)).trans ((rd_bump (by decide) (by decide)).trans
        (rd_setB_apart (show _ ≠ (0x19050 : Nat) by decide)))
  · exact ⟨fun _ _ => rfl, rfl⟩

theorem clipSame_foldl {α : Type} {l : List α} {f : State → α → State} (s : State) (h : ∀ a x, ClipSame a (f a x)) : ClipSame s (l.foldl f s) := by
  induction l generalizing s with
  | nil => exact ⟨fun _ _ => rfl, rfl⟩
  | cons x l ih => exact (h s x).trans (ih _)

/-! #### The points of a mask -/

/-- A point that MOD_LATCH has not reached yet, or does not name. -/
structure LatchKept (s t : State) (q : Nat) : Prop where
  latch : (t.metPt q).latch = (s.metPt q).latch
  good : q ∈ s.met.good → q ∈ t.met.good
  ok : ∀ k, k < 7 → t.bit (bitAt 0x19044 (7 * q + k)) = s.bit (bitAt 0x19044 (7 * q + k))
  fault : ∀ k, k < 7 → s.bit (bitAt 0x19048 (7 * q + k)) = true → t.bit (bitAt 0x19048 (7 * q + k)) = true

/-- What MOD_LATCH makes of a point it names, where the inputs of `bad` are invalid (R319, R320). -/
structure Latched (t : State) (q bad : Nat) (dropped : Bool) (was : Option (List (List Int) × Nat)) (smp : List (List Int)) : Prop where
  takes : dropped = false → (t.metPt q).latch = some (smp.take 16, bad) ∧ (bad % 64 = 0 → q ∈ t.met.good)
  drops : dropped = true → (t.metPt q).latch = was
  ok : ∀ k, k < 7 → (t.bit (bitAt 0x19044 (7 * q + k)) = true ↔ bad / 2 ^ k % 2 = 0)
  fault : ∀ k, k < 7 → bad / 2 ^ k % 2 = 1 → t.bit (bitAt 0x19048 (7 * q + k)) = true

theorem LatchKept.trans {s t u : State} {q : Nat} (h : LatchKept s t q) (h' : LatchKept t u q) : LatchKept s u q :=
  ⟨h'.latch.trans h.latch, fun hg => h'.good (h.good hg), fun k hk => (h'.ok k hk).trans (h.ok k hk), fun k hk hf => h'.fault k hk (h.fault k hk hf)⟩

theorem Latched.later {t u : State} {q bad : Nat} {dropped : Bool} {was : Option (List (List Int) × Nat)} {smp : List (List Int)}
    (h : Latched t q bad dropped was smp) (h' : LatchKept t u q) : Latched u q bad dropped was smp :=
  ⟨fun hd => ⟨h'.latch.trans (h.takes hd).1, fun hb => h'.good ((h.takes hd).2 hb)⟩, fun hd => h'.latch.trans (h.drops hd),
    fun k hk => (h'.ok k hk) ▸ h.ok k hk, fun k hk hb => h'.fault k hk (h.fault k hk hb)⟩

theorem metPt_metPtMod_self {p : Nat} {f : MetPt → MetPt} (h : p < s.met.pts.length) : (s.metPtMod p f).metPt p = f (s.metPt p) :=
  (modAt_getD ..).trans (if_pos ⟨rfl, h⟩)

theorem metPt_metPtMod_other {p q : Nat} {f : MetPt → MetPt} (h : q ≠ p) : (s.metPtMod p f).metPt q = s.metPt q :=
  (modAt_getD ..).trans (if_neg fun hc => h hc.1)

theorem modLatchPt_latches {p : Nat} (hp : p < 4) (hlen : s.met.pts.length = 4) (smp : List (List Int)) (stuck : Nat) :
    let t := s.modLatchPt p smp stuck
    ModKept s t ∧ t.met.pts.length = 4 ∧ Latched t p (s.modBad p stuck) s.met.dropped (s.metPt p).latch smp ∧ ∀ q, q ≠ p → LatchKept s t q := by
  unfold State.modLatchPt
  extract_lets bad s1 valid s2 t
  have h1 : PointJudged s s1 p 7 (fun k => bad / 2 ^ k % 2 == 1) := modInputs_judged s hp _ 7 (Nat.le_refl _)
  have h2 : ClipSame s1 s2 := clipSame_foldl s1 fun a x => clipSame_foldl a fun b k => modClip_same b _ _
  have k2 : ModKept s s2 := h1.kept.trans
    ⟨h2.regs _ (.inl rfl), bit_of_rd (f := modLost) (h2.regs _ (.inr (.inl rfl))), by rw [h2.met], by rw [h2.met]⟩
  have hbit : ∀ u : State, u.regs = s2.regs → ∀ a, a = 0x19040 ∨ a = 0x19044 ∨ a = 0x19048 → ∀ b, u.bit (bitAt a b) = s1.bit (bitAt a b) :=
    fun u hu a ha b => (bit_of_regs hu _).trans (bit_of_rd (f := bitAt a b) (h2.regs a ha))
  have hok : ∀ u : State, u.regs = s2.regs → ∀ k, k < 7 → (u.bit (bitAt 0x19044 (7 * p + k)) = true ↔ bad / 2 ^ k % 2 = 0) := fun u hu k hk => by
    rw [hbit u hu _ (.inr (.inl rfl)), h1.ok p k hk, if_pos ⟨rfl, hk⟩]
    rcases Nat.mod_two_eq_zero_or_one (bad / 2 ^ k) with h | h <;> simp [h]
  have hfault : ∀ u : State, u.regs = s2.regs → ∀ k, k < 7 → bad / 2 ^ k % 2 = 1 → u.bit (bitAt 0x19048 (7 * p + k)) = true := fun u hu k hk hb => by
    rw [hbit u hu _ (.inr (.inr rfl)), h1.fault p k hk]
    exact .inr ⟨rfl, hk, by simp [hb]⟩
  have hother : ∀ u : State, u.regs = s2.regs → (∀ q, q ≠ p → (u.metPt q).latch = (s2.metPt q).latch) → (∀ q, q ∈ s2.met.good → q ∈ u.met.good) →
      ∀ q, q ≠ p → LatchKept s u q := fun u hu hl hg q hq =>
    ⟨(hl q hq).trans (by unfold State.metPt; rw [h2.met, h1.pts]), fun h => hg q (by rw [h2.met, h1.good]; exact h),
      fun k hk => by rw [hbit u hu _ (.inr (.inl rfl)), h1.ok q k hk, if_neg fun h => hq h.1],
      fun k hk h => by rw [hbit u hu _ (.inr (.inr rfl)), h1.fault q k hk]; exact .inl h⟩
  have hpts : s2.met.pts = s.met.pts := by rw [h2.met, h1.pts]
  have hpt : s2.metPt p = s.metPt p := by unfold State.metPt; rw [hpts]
  by_cases hd : s2.met.dropped = true
  · have hds : s.met.dropped = true := k2.dropped ▸ hd
    rw [show t = s2 from if_pos hd]
    exact ⟨k2, by rw [hpts, hlen], ⟨fun h => absurd hds (by rw [h]; decide), fun _ => by rw [hpt], hok _ rfl, hfault _ rfl⟩,
      hother _ rfl (fun _ _ => rfl) (fun _ h => h)⟩
  · have hds : s.met.dropped = false := by rw [← k2.dropped]; simpa using hd
    obtain ⟨u, hu⟩ : ∃ u, u = (s2.metPtMod p (fun d => { d with latch := some (smp.take 16, bad) })).metMod (fun q =>
      { q with good := if bad % 64 = 0 then p :: q.good else q.good }) := ⟨_, rfl⟩
    rw [show t = u from (if_neg hd).trans hu.symm]
    have hur : u.regs = s2.regs := hu ▸ rfl
    have hself : u.metPt p = { s2.metPt p with latch := some (smp.take 16, bad) } := by
      rw [hu]
      exact metPt_metPtMod_self (by rw [hpts, hlen]; exact hp)
    have hne : ∀ q, q ≠ p → u.metPt q = s2.metPt q := fun q hq => by
      rw [hu]
      exact metPt_metPtMod_other hq
    have hgood : u.met.good = if bad % 64 = 0 then p :: s2.met.good else s2.met.good := hu ▸ rfl
    have hlost : u.met.lost = s2.met.lost ∧ u.met.dropped = s2.met.dropped := hu ▸ ⟨rfl, rfl⟩
    have hul : u.met.pts.length = s2.met.pts.length := by
      rw [hu]
      exact modAt_length ..
    refine ⟨⟨?_, (bit_of_regs hur _).trans k2.clk, hlost.1.trans k2.lost, hlost.2.trans k2.dropped⟩, by rw [hul, hpts, hlen], ⟨fun _ => ⟨?_, fun hb => ?_⟩,
      fun h => absurd hds (by rw [h]; decide), hok _ hur, hfault _ hur⟩, hother _ hur (fun q hq => by rw [hne q hq]) fun q hq => ?_⟩
    · exact (congrArg (fun r => smGet regReset r 0x19040) hur : _).trans k2.ctrl
    · rw [hself]
    · rw [hgood, if_pos hb]
      exact List.mem_cons_self
    · rw [hgood]
      split
      · exact List.mem_cons_of_mem _ hq
      · exact hq

/-- The points of a mask, each with its samples. -/
theorem modLatchPts_latch (stuck : Nat) (l : List (Nat × List (List Int))) (hl : ∀ e ∈ l, e.1 < 4) (hnd : (l.map (·.1)).Nodup)
    (hlen : s.met.pts.length = 4) :
    let t := l.foldl (fun a e => a.modLatchPt e.1 e.2 stuck) s
    (∀ p smp, (p, smp) ∈ l → Latched t p (s.modBad p stuck) s.met.dropped (s.metPt p).latch smp) ∧ ∀ q, q ∉ l.map (·.1) → LatchKept s t q := by
  induction l generalizing s with
  | nil => exact ⟨fun _ _ h => absurd h List.not_mem_nil, fun q _ => ⟨rfl, id, fun _ _ => rfl, fun _ _ => id⟩⟩
  | cons e l ih =>
    obtain ⟨p, smp⟩ := e
    obtain ⟨hkept, hlen', hhere, hrest⟩ := modLatchPt_latches (hl _ List.mem_cons_self) hlen smp stuck
    obtain ⟨hnot, hnd'⟩ := List.nodup_cons.1 hnd
    obtain ⟨hin, hout⟩ := ih (s := s.modLatchPt p smp stuck) (fun e he => hl e (List.mem_cons_of_mem _ he)) hnd' hlen'
    refine ⟨fun q x hq => ?_, fun q hq => ?_⟩
    · rcases List.mem_cons.1 hq with h | h
      · obtain ⟨rfl, rfl⟩ := Prod.mk.inj h
        exact hhere.later (hout q hnot)
      · have hqp : q ≠ p := fun e => hnot (e ▸ List.mem_map_of_mem (f := (·.1)) h)
        have hq' := hin q x h
        rw [hkept.modBad, hkept.dropped, (hrest q hqp).latch] at hq'
        exact hq'
    · rw [List.map_cons, List.mem_cons, not_or] at hq
      exact (hrest q hq.1).trans (hout q hq.2)

end
end Sys2Proof.Machine
end

section
/-! #### Register words of the meters and intervals (R323, R330, R337) -/

namespace Sys2Proof.Machine

section
variable {s : State}

/-! #### Items of the firmware's mailboxes (R24, R33) -/

/-- The registers that a refused access of an engine's firmware writes, with those of its events. -/
def violReg (a : Nat) : Prop := evReg 0x30 a ∨ faultReg a = true ∨ a = 0x30044 ∨ a = 0x3004C ∨ a = 0x30050 ∨ a = 0x3007C

theorem near_viol (s : State) (eng n i : Nat) (its : List Item) : Near violReg evTbl s (s.fwPuts eng n i its) :=
  near_fwPuts (fun _ => .inl) (fun _ h => .inr (.inl h)) ⟨.inr (.inr (.inl rfl)), .inr (.inr (.inr (.inl rfl))), .inr (.inr (.inr (.inr (.inl rfl)))),
    .inr (.inr (.inr (.inr (.inr rfl))))⟩ (fun _ => id) s eng n i its

/-- The pages that such an access leaves alone. -/
theorem not_violReg {a : Nat} (h : pageOf a ∉ [0x00, 0x07, 0x08, 0x1D, 0x30]) (hm : modeReg a = false) : ¬ violReg a := by
  simp only [List.mem_cons, List.not_mem_nil, or_false, not_or] at h
  unfold pageOf at h
  intro hv
  unfold violReg faultReg at hv
  rw [hm] at hv
  simp only [evReg, addrOf, pageOf, Bool.false_or, Bool.or_eq_true, beq_iff_eq] at hv
  omega

/-! #### Register words as the engine holds them -/

@[simp] theorem metRd_metWr (s : State) (t i w t' i' w' : Nat) (v : Word) :
    (s.metWr t i w v).metRd t' i' w' = if tkey t' i' w' = tkey t i w then v else s.metRd t' i' w' := by
  show (smFind (smInsert s.met.pend (tkey t i w) v) (tkey t' i' w')).getD _ = _
  rw [smFind_insert]
  split
  · rfl
  · rfl

theorem metRd_metWr_self {t i w : Nat} {v : Word} : (s.metWr t i w v).metRd t i w = v := by simp

theorem metRd_metWr_other {t i w t' i' w' : Nat} {v : Word} (h : t' ≠ t ∨ i' ≠ i ∨ w' ≠ w) (hi : i < 2 ^ 24) (hw : w < 2 ^ 8) (hi' : i' < 2 ^ 24)
    (hw' : w' < 2 ^ 8) : (s.metWr t i w v).metRd t' i' w' = s.metRd t' i' w' := by
  rw [metRd_metWr, if_neg]
  intro he
  obtain ⟨h1, h2, h3⟩ := (tkey_inj _ _ _ _ _ _ hi' hw' hi hw).1 he
  exact h.elim (· h1) (·.elim (· h2) (· h3))

/-- A register word rests on the words formed and on the table. -/
theorem metRd_of {s t : State} {p : Nat → Prop} (hm : t.met.pend = s.met.pend) (hn : Near p evTbl s t) {tid i w : Nat} (ht : ¬ evTbl tid) (hi : i < 2 ^ 24)
    (hw : w < 2 ^ 8) : t.metRd tid i w = s.metRd tid i w := by
  unfold State.metRd
  rw [hm, trd_of_tblBut hn.tbl hi hw ht]

theorem metRd_metMod {f : MetSt → MetSt} (h : (f s.met).pend = s.met.pend) (t i w : Nat) : (s.metMod f).metRd t i w = s.metRd t i w := by
  show (smFind (f s.met).pend _).getD _ = _
  rw [h]
  rfl

theorem metWrs_append (s : State) (t i w : Nat) (l : List Word) (v : Word) : s.metWrs t i w (l ++ [v]) = (s.metWrs t i w l).metWr t i (w + l.length) v := by
  induction l generalizing s w with
  | nil => rfl
  | cons x l ih =>
    show ((s.metWr t i w x).metWrs t i (w + 1) (l ++ [v])) = ((s.metWr t i w x).metWrs t i (w + 1) l).metWr t i (w + (l.length + 1)) v
    rw [ih, Nat.add_assoc, Nat.add_comm 1]

theorem metRd_metWrs_other {t i : Nat} (l : List Word) {w t' i' w' : Nat} (h : t' ≠ t ∨ i' ≠ i ∨ w' < w ∨ w + l.length ≤ w') (hi : i < 2 ^ 24)
    (hw : w + l.length ≤ 2 ^ 8) (hi' : i' < 2 ^ 24) (hw' : w' < 2 ^ 8) : (s.metWrs t i w l).metRd t' i' w' = s.metRd t' i' w' := by
  induction l generalizing s w with
  | nil => rfl
  | cons x l ih =>
    rw [List.length_cons] at h hw
    exact (ih (s := s.metWr t i w x) (w := w + 1) (by omega) (by omega)).trans (metRd_metWr_other (by omega) hi (by omega) hi' hw')

theorem metRd_metWrs_at {t i : Nat} (l : List Word) {w k : Nat} (hk : k < l.length) (hi : i < 2 ^ 24) (hw : w + l.length ≤ 2 ^ 8) :
    (s.metWrs t i w l).metRd t i (w + k) = l.getD k 0 := by
  induction l generalizing s w k with
  | nil => exact absurd hk (Nat.not_lt_zero _)
  | cons x l ih =>
    rw [List.length_cons] at hk hw
    cases k with
    | zero => exact (metRd_metWrs_other (s := s.metWr t i w x) l (by omega) hi (by omega) hi (by omega)).trans metRd_metWr_self
    | succ k =>
      have h := ih (s := s.metWr t i w x) (w := w + 1) (k := k) (by omega) (by omega)
      rw [Nat.add_assoc, Nat.add_comm 1] at h
      exact h

/-- Writing register words leaves the rest of the engine as it is, but for what a residue keeps. -/
structure WordsOnly (s t : State) : Prop where
  regs : t.regs = s.regs
  tbl : t.tbl = s.tbl
  keeps : Keeps [.met] s t
  base : ∀ {α : Type} (g : MetSt → α), (∀ m v r, g { m with pend := v, res := r } = g m) → g t.met = g s.met

theorem WordsOnly.refl (s : State) : WordsOnly s s := ⟨rfl, rfl, Keeps.refl _ s, fun _ _ => rfl⟩

theorem WordsOnly.trans {s t u : State} (h : WordsOnly s t) (h' : WordsOnly t u) : WordsOnly s u :=
  ⟨h'.regs.trans h.regs, h'.tbl.trans h.tbl, h.keeps.trans h'.keeps, fun g hg => (h'.base g hg).trans (h.base g hg)⟩

theorem wordsOnly_metMod (s : State) (f : MetSt → MetSt) (h : ∀ {α : Type} (g : MetSt → α), (∀ m v r, g { m with pend := v, res := r } = g m) → g (f s.met) = g s.met) :
    WordsOnly s (s.metMod f) := ⟨rfl, rfl, metMod_keeps (Keeps.refl _ s) (List.Subset.refl _), h⟩

theorem wordsOnly_metWr (s : State) (t i w : Nat) (v : Word) : WordsOnly s (s.metWr t i w v) := wordsOnly_metMod s _ fun _ hg => hg s.met _ s.met.res

theorem wordsOnly_metWrs (s : State) (t i w : Nat) (l : List Word) : WordsOnly s (s.metWrs t i w l) := by
  induction l generalizing s w with
  | nil => exact .refl s
  | cons v l ih => exact (wordsOnly_metWr s t i w v).trans (ih _ _)

theorem wordsOnly_metAdd (s : State) (t i w : Nat) (x : Num) : WordsOnly s (s.metAdd t i w x) := by
  unfold State.metAdd
  exact ((wordsOnly_metWr s _ _ _ _).trans (wordsOnly_metWr _ _ _ _ _)).trans (wordsOnly_metMod _ _ fun _ hg => hg _ _ _)

theorem metRd_metAdd_other {t i w t' i' w' : Nat} {x : Num} (h : t' ≠ t ∨ i' ≠ i ∨ w' < w ∨ w + 2 ≤ w') (hi : i < 2 ^ 24) (hw : w + 2 ≤ 2 ^ 8)
    (hi' : i' < 2 ^ 24) (hw' : w' < 2 ^ 8) : (s.metAdd t i w x).metRd t' i' w' = s.metRd t' i' w' := by
  unfold State.metAdd
  exact (metRd_metMod rfl _ _ _).trans ((metRd_metWr_other (by omega) hi (by omega) hi' hw').trans (metRd_metWr_other (by omega) hi (by omega) hi' hw'))

end
end Sys2Proof.Machine
end

section
/-! #### Intervals (R337) -/

namespace Sys2Proof.Machine

section
variable {s : State}

theorem hmetPt_hmetMod_self {h : Nat} {f : HmetPt → HmetPt} : (s.hmetMod h f).hmetPt h = f (s.hmetPt h) := by
  show ((((h, f (s.hmetPt h)) :: s.met.hpts.filter (fun e => e.1 != h)).lookup h).getD HmetPt.init) = _
  rw [List.lookup_cons_self]
  rfl

theorem hmetPt_hmetMod_other {h k : Nat} {f : HmetPt → HmetPt} (hk : k ≠ h) : (s.hmetMod h f).hmetPt k = s.hmetPt k := by
  show ((((h, f (s.hmetPt h)) :: s.met.hpts.filter (fun e => e.1 != h)).lookup k).getD HmetPt.init) = _
  rw [List.lookup_cons, beq_false_of_ne hk, lookup_filter_other hk]
  rfl

/-- What the close of an interval leaves alone: of the registers all but the start shown, of a thermal point all but its FAULT_MS and the
mark of a reversal told, of the register words all but the records and FAULT_MS. -/
structure IntSame (s t : State) : Prop where
  keeps : Keeps [.regs, .met] s t
  rd : ∀ a, a ≠ 0x1A05C → a ≠ 0x1B04C → t.rd a = s.rd a
  base : ∀ {α : Type} (g : MetSt → α), (∀ m v h l n, g { m with pend := v, hpts := h, ints := l, pfNext := n } = g m) → g t.met = g s.met
  hpt : ∀ {α : Type} (g : HmetPt → α), (∀ d n b, g { d with faultT := n, revRaised := b } = g d) → ∀ q, g (t.hmetPt q) = g (s.hmetPt q)
  words : ∀ tid i w, tid ≠ 0x1A02 → tid ≠ 0x1B02 → (tid = 0x1B01 → w ≠ 13) → i < 2 ^ 24 → w < 2 ^ 8 → t.metRd tid i w = s.metRd tid i w

theorem IntSame.refl (s : State) : IntSame s s := ⟨Keeps.refl _ s, fun _ _ _ => rfl, fun _ _ => rfl, fun _ _ _ => rfl, fun _ _ _ _ _ _ _ _ => rfl⟩

theorem IntSame.trans {s t u : State} (h : IntSame s t) (h' : IntSame t u) : IntSame s u :=
  ⟨h.keeps.trans h'.keeps, fun a h1 h2 => (h'.rd a h1 h2).trans (h.rd a h1 h2), fun g hg => (h'.base g hg).trans (h.base g hg),
    fun g hg q => (h'.hpt g hg q).trans (h.hpt g hg q), fun tid i w h1 h2 h3 hi hw => (h'.words tid i w h1 h2 h3 hi hw).trans (h.words tid i w h1 h2 h3 hi hw)⟩

/-- The instant and the registers that place an interval. -/
theorem IntSame.instant {s t : State} (h : IntSame s t) : t.tai = s.tai ∧ (∀ k, t.intMin k = s.intMin k) ∧ ∀ m x, t.intStart m x = s.intStart m x := by
  refine ⟨congrArg Int.ofNat (sameInstant (fun a ha => h.rd a (by omega) (by omega)) (h.keeps.only .twin (by decide))).2.1, fun k => ?_, fun m x => ?_⟩
  · unfold State.intMin
    rw [fld_of_rd (f := ⟨0x1A044, 0, 6⟩) (h.rd _ (by decide) (by decide)), fld_of_rd (f := ⟨0x1B044, 0, 6⟩) (h.rd _ (by decide) (by decide))]
  · unfold State.intStart
    rw [fld_of_rd (f := ⟨0x408C, 0, 16⟩) (h.rd _ (by decide) (by decide))]

theorem intSame_intMod (s : State) (k : Nat) (f : MetInt → MetInt) : IntSame s (s.intMod k f) :=
  ⟨intMod_keeps (Keeps.refl _ s) (by decide), fun _ _ _ => rfl, fun _ hg => hg s.met s.met.pend s.met.hpts _ s.met.pfNext, fun _ _ _ => rfl,
    fun tid i w _ _ _ _ _ => metRd_metMod rfl tid i w⟩

/-- The interval that is opened holds the tick. -/
theorem intOpen_opens (s : State) (k no : Nat) : IntSame s (s.intOpen k no) ∧ ∃ j, (s.intOpen k no).met.ints.lookup k = some j ∧ j.no = no
    ∧ j.start = s.intStart (s.intMin k) s.tai ∧ j.stop = j.start + 60 * s.intMin k := by
  have hkeeps : Keeps [.regs, .met] s (s.intOpen k no) := intOpen_keeps (Keeps.refl _ s) (List.Subset.refl _)
  unfold State.intOpen
  extract_lets
  refine ⟨⟨hkeeps, fun a h1 h2 => rd_wr_apart ?_, fun _ hg => hg s.met s.met.pend s.met.hpts _ _, fun _ _ _ => rfl,
    fun _ _ _ _ _ _ _ _ => rfl⟩, _, List.lookup_cons_self, rfl, rfl, rfl⟩
  split
  · exact h1
  · exact h2

theorem metWrs_met (s : State) (t i w : Nat) (l : List Word) : (s.metWrs t i w l).met = { s.met with
    pend := (s.metWrs t i w l).met.pend } := by
  induction l generalizing s w with
  | nil => rfl
  | cons v l ih => exact ih (s.metWr t i w v) (w + 1)

theorem intSame_metWrs {s : State} {t i w : Nat} (l : List Word) (ht : t = 0x1A02 ∨ t = 0x1B02 ∨ t = 0x1B01 ∧ w = 13 ∧ l.length = 1) (hi : i < 2 ^ 24)
    (hw : w + l.length ≤ 2 ^ 8) : IntSame s (s.metWrs t i w l) :=
  ⟨(wordsOnly_metWrs s t i w l).keeps.mono (by decide), fun a _ _ => congrArg (smGet regReset · a) (wordsOnly_metWrs s t i w l).regs,
    fun g hg => (congrArg g (metWrs_met s t i w l)).trans (hg s.met _ s.met.hpts s.met.ints s.met.pfNext),
    fun g _ q => congrArg g (congrArg (fun m : MetSt => (m.hpts.lookup q).getD HmetPt.init) (metWrs_met s t i w l) : _),
    fun tid i' w' h1 h2 h3 hi' hw' => metRd_metWrs_other l (by
      rcases ht with rfl | rfl | ⟨rfl, rfl, h⟩
      · exact .inl h1
      · exact .inl h2
      · by_cases htid : tid = 0x1B01
        · have := h3 htid
          omega
        · exact .inl htid) hi hw hi' hw'⟩

theorem intSame_hmetMod {s : State} {h : Nat} {f : HmetPt → HmetPt} (hf : ∀ {α : Type} (g : HmetPt → α), (∀ d n b, g { d with
      faultT := n,
      revRaised := b } = g d) → ∀ d, g (f d) = g d) : IntSame s (s.hmetMod h f) :=
  ⟨hmetMod_keeps (Keeps.refl _ s) (by decide), fun _ _ _ => rfl, fun _ hg => hg s.met s.met.pend _ s.met.ints s.met.pfNext, fun g hg q => by
    by_cases hq : q = h
    · rw [hq, hmetPt_hmetMod_self]
      exact hf g hg _
    · rw [hmetPt_hmetMod_other hq], fun _ _ _ _ _ _ _ _ => rfl⟩

/-- The record of a closed interval. -/
theorem intRecord_records (s : State) {k : Nat} (hk : k < 32) (i : MetInt) : IntSame s (s.intRecord k i)
    ∧ (k < 16 → (s.intRecord k i).metRd 0x1A02 (k * 96 + i.no % 96) 1 = ofInt i.start
      ∧ (s.intRecord k i).metRd 0x1A02 (k * 96 + i.no % 96) 2 = BitVec.ofNat 32 i.gap) := by
  have hmod : i.no % 96 < 96 := Nat.mod_lt _ (by decide)
  unfold State.intRecord
  extract_lets now deltas flt tid pt s1
  have hdeltas : deltas.length = 12 := by simp [deltas, List.range_succ]
  have hidx : pt * 96 + i.no % 96 < 2 ^ 24 := by
    unfold pt
    split <;> omega
  have h1 : IntSame s s1 := intSame_metWrs _ (by
    unfold tid
    split
    · exact .inl rfl
    · exact .inr (.inl rfl)) hidx (by simp [hdeltas])
  by_cases hk16 : k < 16
  · rw [if_pos hk16]
    have htid : tid = 0x1A02 := if_pos hk16
    have hpt : pt = k := if_pos hk16
    have hflt : flt = i.gap := if_pos hk16
    refine ⟨h1, fun _ => ?_⟩
    rw [← hpt, ← htid, ← hflt]
    exact ⟨metRd_metWrs_at (k := 1) (w := 0) _ (by simp) hidx (by simp [hdeltas]), metRd_metWrs_at (k := 2) (w := 0) _ (by simp) hidx (by simp [hdeltas])⟩
  · rw [if_neg hk16]
    have h2 : IntSame s1 (s1.metWr 0x1B01 pt 13 0) :=
      intSame_metWrs (t := 0x1B01) (w := 13) [0] (.inr (.inr ⟨rfl, rfl, rfl⟩)) (by omega) (by decide)
    exact ⟨(h1.trans h2).trans (intSame_hmetMod fun g hg d => hg d 0 false), fun h => absurd h hk16⟩

/-- What the close of an interval makes of it (R337). -/
structure IntClosed (s t : State) (k : Nat) : Prop where
  same : IntSame s t
  first : s.met.ints.lookup k = none → ∃ j, t.met.ints.lookup k = some j ∧ j.no = 0 ∧ j.start = s.intStart (s.intMin k) s.tai
  ended : ∀ i, s.met.ints.lookup k = some i → i.stop ≤ s.tai →
    (k < 16 → t.metRd 0x1A02 (k * 96 + i.no % 96) 1 = ofInt i.start ∧ t.metRd 0x1A02 (k * 96 + i.no % 96) 2 = BitVec.ofNat 32 i.gap)
    ∧ ∃ j, t.met.ints.lookup k = some j ∧ j.no = (i.no + 1) % 2 ^ 32 ∧ j.start = s.intStart (s.intMin k) s.tai
      ∧ j.stop = j.start + 60 * s.intMin k
  runs : ∀ i, s.met.ints.lookup k = some i → s.tai < i.stop → k ∉ s.met.pfNext → t.met.ints.lookup k = some i

theorem intClose_closes (s : State) {k : Nat} (hk : k < 32) : IntClosed s (s.intClose k) k := by
  unfold State.intClose
  cases hi : s.met.ints.lookup k with
  | none =>
    obtain ⟨hsame, j, hj, hno, hstart, -⟩ := intOpen_opens s k 0
    exact ⟨hsame, fun _ => ⟨j, hj, hno, hstart⟩, fun i h => absurd (hi ▸ h) (by simp), fun i h => absurd (hi ▸ h) (by simp)⟩
  | some i =>
    have hinj : ∀ i', s.met.ints.lookup k = some i' → i' = i := fun i' h => (Option.some.inj (hi ▸ h)).symm
    dsimp only
    by_cases hstop : i.stop ≤ s.tai
    · rw [if_pos hstop]
      obtain ⟨hrec, hwords⟩ := intRecord_records s hk i
      obtain ⟨hopen, j, hj, hno, hstart, hend⟩ := intOpen_opens (s.intRecord k i) k ((i.no + 1) % 2 ^ 32)
      obtain ⟨htai, hmin, hst⟩ := hrec.instant
      refine ⟨hrec.trans hopen, fun h => absurd (hi ▸ h) (by simp), fun i' h _ => ?_, fun i' h hlt => absurd hstop ?_⟩
      · rw [hinj i' h]
        refine ⟨fun hk16 => ?_, j, hj, hno, by rw [hstart, hst, hmin, htai], by rw [hend, hmin]⟩
        obtain ⟨h1, h2⟩ := hwords hk16
        have hkeep : ∀ w, (State.intOpen (s.intRecord k i) k ((i.no + 1) % 2 ^ 32)).metRd 0x1A02 (k * 96 + i.no % 96) w
          = (s.intRecord k i).metRd 0x1A02 (k * 96 + i.no % 96) w := fun _ => rfl
        exact ⟨(hkeep 1).trans h1, (hkeep 2).trans h2⟩
      · rw [hinj i' h] at hlt
        omega
    · rw [if_neg hstop]
      have hnot : ∀ i', s.met.ints.lookup k = some i' → i'.stop ≤ s.tai → False := fun i' h hle => hstop (hinj i' h ▸ hle)
      split
      · next hpf =>
        refine ⟨(intSame_intMod s k _).trans ⟨metMod_keeps (Keeps.refl _ _) (by decide), fun _ _ _ => rfl,
          fun _ hg => hg _ _ _ _ _, fun _ _ _ => rfl, fun tid i w _ _ _ _ _ => metRd_metMod rfl tid i w⟩, fun h => absurd (hi ▸ h) (by simp),
          fun i' h hle => (hnot i' h hle).elim, fun i' h _ hno => absurd ?_ hno⟩
        simpa using hpf
      · exact ⟨.refl s, fun h => absurd (hi ▸ h) (by simp), fun i' h hle => (hnot i' h hle).elim, fun i' h _ _ => h⟩

end
end Sys2Proof.Machine
end

section
/-! #### Electrical points (R322, R325, R326) -/

namespace Sys2Proof.Machine

section
variable {s : State}

/-- The registers that the close of an electrical point writes: the results of the inputs and of its page, with the page's events. -/
def emetReg (a : Nat) : Prop := pageOf a = 0x19 ∨ (pageOf a = 0x1A ∧ a ≠ 0x1A044) ∨ evReg 0x1A a

/-- Energies added and a window judged: the intervals, the points beside their runs, and the results and records stay. -/
structure EmetKept (s t : State) : Prop where
  near : Near emetReg evTbl s t
  twin : t.twin = s.twin
  ints : t.met.ints = s.met.ints
  pf : t.met.pfNext = s.met.pfNext
  len : t.met.pts.length = s.met.pts.length
  pt : ∀ {α : Type} (g : MetPt → α), (∀ d a b, g { d with seqRun := a, nlRun := b } = g d) → ∀ q, g (t.metPt q) = g (s.metPt q)
  words : ∀ tid i w, tid = 0x1A01 ∨ tid = 0x1A02 → i < 2 ^ 24 → w < 2 ^ 8 → t.metRd tid i w = s.metRd tid i w

theorem EmetKept.refl (s : State) : EmetKept s s := ⟨Near.refl _ _ s, rfl, rfl, rfl, rfl, fun _ _ _ => rfl, fun _ _ _ _ _ _ => rfl⟩

theorem EmetKept.trans {s t u : State} (h : EmetKept s t) (h' : EmetKept t u) : EmetKept s u :=
  ⟨h.near.trans h'.near, h'.twin.trans h.twin, h'.ints.trans h.ints, h'.pf.trans h.pf, h'.len.trans h.len,
    fun g hg q => (h'.pt g hg q).trans (h.pt g hg q), fun tid i w ht hi hw => (h'.words tid i w ht hi hw).trans (h.words tid i w ht hi hw)⟩

theorem emetKept_of_regs {s t : State} (hn : Near emetReg evTbl s t) (ht : t.twin = s.twin) (hm : t.met = s.met) : EmetKept s t :=
  ⟨hn, ht, by rw [hm], by rw [hm], by rw [hm], fun g _ q => congrArg g (by unfold State.metPt; rw [hm]),
    fun tid i w h hi hw => metRd_of (by rw [hm]) hn (by
      unfold evTbl
      omega) hi hw⟩

theorem emetKept_wr {a : Nat} (v : Word) (ha : emetReg a) : EmetKept s (s.wr a v) :=
  emetKept_of_regs (near_wr (Near.refl _ _ s) ha) (twin_wr ..) (met_wr ..)

theorem emetKept_setB {f : Fld} (b : Bool) (ha : emetReg f.addr) : EmetKept s (s.setB f b) :=
  emetKept_of_regs (near_setB (Near.refl _ _ s) ha) (twin_setB ..) (met_setB ..)

theorem emetKept_metAdd {i w : Nat} (x : Num) (hi : i < 2 ^ 24) (hw : w + 2 ≤ 2 ^ 8) : EmetKept s (s.metAdd 0x1A00 i w x) := by
  have h := wordsOnly_metAdd s 0x1A00 i w x
  exact ⟨near_same (Near.refl _ _ s) h.regs h.tbl, h.keeps.only .twin (by decide), h.base (·.ints) fun _ _ _ => rfl, h.base (·.pfNext) fun _ _ _ => rfl,
    congrArg List.length (h.base (·.pts) fun _ _ _ => rfl), fun g _ q => h.base (fun m => g (m.pts.getD q MetPt.init)) fun _ _ _ => rfl,
    fun tid i' w' ht hi' hw' => metRd_metAdd_other (.inl (by rcases ht with rfl | rfl <;> decide)) hi hw hi' hw'⟩

theorem emetKept_foldl {α : Type} {l : List α} {f : State → α → State} (s : State) (h : ∀ a x, x ∈ l → EmetKept a (f a x)) : EmetKept s (l.foldl f s) := by
  induction l generalizing s with
  | nil => exact .refl s
  | cons x l ih => exact (h s x List.mem_cons_self).trans (ih _ fun a y hy => h a y (List.mem_cons_of_mem _ hy))

theorem emetKept_classify {i : Nat} (p q : Num) (hi : i < 2 ^ 24) : EmetKept s (s.metClassify i p q) := by
  have hw : ∀ b c : Bool, (if b then (if c then 4 else 10) else if c then 6 else 8) + 2 ≤ 2 ^ 8 := by decide
  have hw' : ∀ b : Bool, (if b then 0 else 2) + 2 ≤ 2 ^ 8 := by decide
  unfold State.metClassify
  exact (emetKept_metAdd _ hi (hw' _)).trans (emetKept_metAdd _ hi (hw _ _))

/-- A judgement of the window: its flag with its event and counter, or the flag's end. -/
theorem emetKept_flag {a b e : Nat} {c : Ctr} {A B : Prop} [Decidable A] [Decidable B] (ha : emetReg a) (h1 : emetReg c.f.addr) (h2 : emetReg c.ovf.1) :
    EmetKept s (if A then ((s.setB (bitAt a b) true).raiseEv 0x1A e).bump c else if B then s.setB (bitAt a b) false else s) := by
  split
  · exact emetKept_of_regs (near_bump (near_raiseEv (near_setB (Near.refl _ _ s) ha) (by decide) (fun _ h => .inr (.inr h)) fun _ => id) h1 h2)
      (by simp) (by simp)
  · split
    · exact emetKept_setB _ ha
    · exact .refl s

theorem emetKept_runs (s : State) (p : Nat) (a b : Nat × Nat) : EmetKept s (s.metPtMod p (fun d => { d with seqRun := a, nlRun := b })) :=
  ⟨near_same (Near.refl _ _ s) rfl rfl, rfl, rfl, rfl, modAt_length .., fun g hg q => by
    by_cases hq : q = p ∧ p < s.met.pts.length
    · obtain ⟨rfl, hlt⟩ := hq
      rw [metPt_metPtMod_self hlt]
      exact hg _ _ _
    · exact congrArg g ((modAt_getD ..).trans (if_neg hq)), fun _ _ _ _ _ _ => rfl⟩

theorem emetKept_judge (s : State) (p : Nat) (v : List Num) (a2 a3 u0 irms : Num) (nBad : Bool) :
    EmetKept s (s.metJudge p v a2 a3 u0 irms nBad) := by
  unfold State.metJudge
  extract_lets d u all ok rev sr disp cur lost nr s1 fs fn s2
  have hreg : ∀ a, a = 0x1A04C ∨ a = 0x1A0E0 ∨ a = 0x1A0E4 ∨ a = 0x1A0EC → emetReg a := fun a h => .inr (.inl (by
    simp only [pageOf_eq]
    omega))
  exact ((emetKept_runs s p sr nr).trans (emetKept_flag (hreg _ (.inl rfl)) (hreg _ (.inr (.inl rfl))) (hreg _ (.inr (.inr (.inr rfl)))))).trans
    (emetKept_flag (hreg _ (.inl rfl)) (hreg _ (.inr (.inr (.inl rfl)))) (hreg _ (.inr (.inr (.inr rfl)))))

/-- A closed window's results (R325): the time of the close, the point's window empty, nothing due. -/
structure WindowShown (s t : State) (p : Nat) (c : MetDue) : Prop where
  near : Near emetReg evTbl s t
  twin : t.twin = s.twin
  ints : t.met.ints = s.met.ints
  pf : t.met.pfNext = s.met.pfNext
  len : t.met.pts.length = s.met.pts.length
  latch : (t.metPt p).latch = (s.metPt p).latch
  due : (t.metPt p).due = none
  win : (t.metPt p).win = []
  data : (t.metPt p).hadData = decide (0 < (s.metPt p).win.length)
  sec : t.metRd 0x1A01 p 28 = BitVec.ofNat 32 c.sec
  ns : t.metRd 0x1A01 p 29 = BitVec.ofNat 32 c.ns

theorem metResults_shows {p : Nat} (hp : p < 4) (hlen : s.met.pts.length = 4) (c : MetDue) : WindowShown s (s.metResults p c) p c := by
  have hpage : ∀ k, 0x1A06C + 0x20 * p ≤ k → k ≤ 0x1A074 + 0x20 * p → emetReg k := fun k h1 h2 => .inr (.inl (by
    simp only [pageOf_eq]
    omega))
  unfold State.metResults
  extract_lets d l n dt v i P Q pT qT S low f a2 a3 phi u0 ires has q st w0 vals s1 s2 s3 s4 sw started s5 s6 s7
  have hw2 : WordsOnly s s2 := (wordsOnly_metWr s _ _ _ _).trans (by
    unfold s2
    split
    · exact wordsOnly_metWrs ..
    · exact .refl s1)
  have hw3 : WordsOnly s s3 := hw2.trans (wordsOnly_metWrs ..)
  have h4 : EmetKept s3 s4 := by
    unfold s4
    split
    · exact ((emetKept_wr _ (hpage _ (by omega) (by omega))).trans (emetKept_wr _ (hpage _ (by omega) (by omega)))).trans (emetKept_wr _ (hpage _ (by omega) (by omega)))
    · exact .refl s3
  have h5 : EmetKept s4 s5 := by
    unfold s5
    split
    · exact .refl s4
    · refine (emetKept_foldl s4 fun a k hk => emetKept_metAdd _ ?_ ?_).trans (emetKept_metAdd _ (by omega) ?_)
      · have := (List.mem_filter.1 hk).1
        simp only [List.mem_cons, List.not_mem_nil, or_false] at this
        omega
      · split <;> decide
      · unfold sw
        split <;> decide
  have h6 : EmetKept s5 s6 := by
    unfold s6
    split
    · exact emetKept_judge s5 p ..
    · exact .refl s5
  have h7 : EmetKept s6 s7 := emetKept_foldl s6 fun a k hk => emetKept_wr _ (.inl (by
    have := List.mem_range.1 hk
    simp only [pageOf_eq]
    omega))
  have hk : EmetKept s3 s7 := ((h4.trans h5).trans h6).trans h7
  have hmet3 : s3.met.pts = s.met.pts := hw3.base (·.pts) fun _ _ _ => rfl
  have hlen7 : p < s7.met.pts.length := by rw [hk.len, hmet3, hlen]; exact hp
  have hpt : ∀ {α : Type} (g : MetPt → α), g (s3.metPt p) = g (s.metPt p) := fun g => congrArg g (by unfold State.metPt; rw [hmet3])
  refine ⟨(near_same (Near.refl _ _ s) hw3.regs hw3.tbl).trans (near_same hk.near rfl rfl), hk.twin.trans (hw3.keeps.only .twin (by decide)),
    hk.ints.trans (hw3.base (·.ints) fun _ _ _ => rfl), hk.pf.trans (hw3.base (·.pfNext) fun _ _ _ => rfl), ?_, ?_, ?_, ?_, ?_, ?_, ?_⟩
  · exact (modAt_length ..).trans (hk.len.trans (congrArg List.length hmet3))
  all_goals have hwords := hk.words 0x1A01 p
  · exact (congrArg MetPt.latch (metPt_metPtMod_self hlen7)).trans ((hk.pt (·.latch) (fun _ _ _ => rfl) p).trans (hpt _))
  · exact congrArg MetPt.due (metPt_metPtMod_self hlen7)
  · exact congrArg MetPt.win (metPt_metPtMod_self hlen7)
  · exact congrArg MetPt.hadData (metPt_metPtMod_self hlen7)
  · exact (hwords 28 (.inl rfl) (by omega) (by decide)).trans (metRd_metWrs_at (w := 28) (k := 0) _ (Nat.zero_lt_succ _) (by omega) (Nat.le_of_ble_eq_true rfl))
  · exact (hwords 29 (.inl rfl) (by omega) (by decide)).trans (metRd_metWrs_at (w := 28) (k := 1) _ (Nat.lt_succ_self _) (by omega) (Nat.le_of_ble_eq_true rfl))

/-- The samples of a frame join the window of their point (R322). -/
structure SamplesTaken (s t : State) (p n : Nat) : Prop where
  ints : t.met.ints = s.met.ints
  latch : (t.metPt p).latch = none
  due : (t.metPt p).due = (s.metPt p).due
  win : (t.metPt p).win.length = (s.metPt p).win.length + n
  data : (t.metPt p).hadData = (s.metPt p).hadData
  words : ∀ tid i w, tid = 0x1A01 ∨ tid = 0x1A02 → i < 2 ^ 24 → w < 2 ^ 8 → t.metRd tid i w = s.metRd tid i w

theorem metSamples_takes {p : Nat} (hp : p < 4) (hlen : s.met.pts.length = 4) (smp : List (List Int)) (bad : Nat) :
    SamplesTaken s (s.metSamples p smp bad) p smp.length := by
  unfold State.metSamples
  extract_lets d cal hist okPh ph pass s1 all s2 sum3 eP eQ dt ok s3
  have h1 : EmetKept s s1 := emetKept_foldl s fun a k hk => emetKept_classify _ _ (by
    have := (List.mem_filter.1 hk).1
    simp only [List.mem_cons, List.not_mem_nil, or_false] at this
    omega)
  have h2 : EmetKept s s2 := h1.trans (by
    unfold s2
    split
    · exact emetKept_classify _ _ (by omega)
    · exact .refl s1)
  have hlt : p < s2.met.pts.length := by rw [h2.len, hlen]; exact hp
  have hpt : ∀ {α : Type} (g : MetPt → α), g ((s3.setB (bitAt 0x1A04C p) (!pass.isEmpty)).metPt p) = g (s3.metPt p) := fun g => rfl
  have h3 := metPt_metPtMod_self (s := s2) (f := fun d => { d with
    hist := hist, win := d.win ++ cal, latch := none, lastP := ndiv (eP.getD 3 0) dt, lastQ := ndiv (eQ.getD 3 0) dt,
    eP := (List.range 4).map (fun k => nadd (d.eP.getD k 0) (eP.getD k 0)),
    eQ := (List.range 4).map (fun k => nadd (d.eQ.getD k 0) (eQ.getD k 0)),
    clip := d.clip || smp.any (fun x => (List.range 7).any (fun k => ok k && decide (clipCode ≤ (x.getD k 0).natAbs))),
    nBad := d.nBad || !ok 6,
    peaks := (List.range 7).map (fun k => smp.foldl (fun m x => max m (x.getD k 0).natAbs) (d.peaks.getD k 0)) }) hlt
  refine ⟨h2.ints, congrArg MetPt.latch h3, (congrArg MetPt.due h3).trans (h2.pt (·.due) (fun _ _ _ => rfl) p), ?_,
    (congrArg MetPt.hadData h3).trans (h2.pt (·.hadData) (fun _ _ _ => rfl) p), fun tid i w ht hi hw => h2.words tid i w ht hi hw⟩
  refine (congrArg (fun d : MetPt => d.win.length) h3).trans ?_
  rw [List.length_append, h2.pt (·.win) (fun _ _ _ => rfl) p, List.length_map]

end
end Sys2Proof.Machine
end

section
/-! #### The closes of electrical points (R322, R337) -/

namespace Sys2Proof.Machine

section
variable {s : State}

/-- What EMET_CLOSE makes of an enabled point. -/
structure EmetClosed (s t : State) (p : Nat) : Prop where
  latch : (t.metPt p).latch = none
  due : (t.metPt p).due = none
  takes : ∀ smp bad, (s.metPt p).latch = some (smp, bad) →
    (t.metPt p).win.length = (if (s.metPt p).due = none then (s.metPt p).win.length else 0) + smp.length
  idle : (s.metPt p).latch = none → t.bit (bitAt 0x1A04C p) = false ∧ (t.metPt p).win = (if (s.metPt p).due = none then (s.metPt p).win else [])
  window : ∀ c, (s.metPt p).due = some c → t.metRd 0x1A01 p 28 = BitVec.ofNat 32 c.sec ∧ t.metRd 0x1A01 p 29 = BitVec.ofNat 32 c.ns
    ∧ (t.metPt p).hadData = decide (0 < (s.metPt p).win.length)
  ended : ∀ i, s.met.ints.lookup p = some i → i.stop ≤ s.tai →
    t.metRd 0x1A02 (p * 96 + i.no % 96) 1 = ofInt i.start ∧ t.metRd 0x1A02 (p * 96 + i.no % 96) 2 = BitVec.ofNat 32 i.gap
      ∧ ∃ j, t.met.ints.lookup p = some j ∧ j.no = (i.no + 1) % 2 ^ 32 ∧ j.start = s.intStart (s.intMin p) s.tai ∧ j.stop = j.start + 60 * s.intMin p
  runs : ∀ i, s.met.ints.lookup p = some i → s.tai < i.stop → p ∉ s.met.pfNext → t.met.ints.lookup p = some i
  first : s.met.ints.lookup p = none → ∃ j, t.met.ints.lookup p = some j ∧ j.no = 0 ∧ j.start = s.intStart (s.intMin p) s.tai

/-- What the first step of the close leaves: a closed window shown, or nothing where none was due. -/
structure WindowEnded (s t : State) (p : Nat) : Prop where
  instant : t.tai = s.tai ∧ t.intMin p = s.intMin p ∧ ∀ m x, t.intStart m x = s.intStart m x
  ints : t.met.ints = s.met.ints
  pf : t.met.pfNext = s.met.pfNext
  len : t.met.pts.length = s.met.pts.length
  latch : (t.metPt p).latch = (s.metPt p).latch
  due : (t.metPt p).due = none
  win : (t.metPt p).win = if (s.metPt p).due = none then (s.metPt p).win else []
  shown : ∀ c, (s.metPt p).due = some c → t.metRd 0x1A01 p 28 = BitVec.ofNat 32 c.sec ∧ t.metRd 0x1A01 p 29 = BitVec.ofNat 32 c.ns
    ∧ (t.metPt p).hadData = decide (0 < (s.metPt p).win.length)

theorem not_emetReg {a : Nat} (h : pageOf a ∉ [0x07, 0x08, 0x19]) (hm : pageOf a = 0x1A → a = 0x1A044) : ¬ emetReg a := by
  simp only [List.mem_cons, List.not_mem_nil, or_false, not_or] at h
  intro he
  unfold emetReg evReg addrOf at he
  unfold pageOf at h he hm
  omega

theorem windowEnded (s : State) {p : Nat} (hp : p < 4) (hlen : s.met.pts.length = 4) : WindowEnded s (match (s.metPt p).due with
    | none => s
    | some c => s.metResults p c) p := by
  cases hd : (s.metPt p).due with
  | none => exact ⟨⟨rfl, rfl, fun _ _ => rfl⟩, rfl, rfl, rfl, rfl, hd, by rw [if_pos hd], fun c h => absurd (hd ▸ h) (by simp)⟩
  | some c =>
    have h := metResults_shows hp hlen c
    have hrd : ∀ a, ¬ emetReg a → (s.metResults p c).rd a = s.rd a := h.near.regs
    have hfld : ∀ f : Fld, ¬ emetReg f.addr → (s.metResults p c).fld f = s.fld f := fun f hf => fld_of_rd (hrd _ hf)
    refine ⟨⟨?_, ?_, fun m x => ?_⟩, h.ints, h.pf, h.len, h.latch, h.due, by rw [if_neg (by simp [hd])]; exact h.win, fun c' hc => ?_⟩
    · refine congrArg Int.ofNat (sameInstant (fun a ha => hrd a (not_emetReg ?_ ?_)) h.twin).2.1
      all_goals rcases ha with rfl | rfl | rfl | rfl | rfl <;> decide
    · unfold State.intMin
      rw [if_pos (by omega), if_pos (by omega)]
      exact hfld _ (not_emetReg (by decide) (fun _ => rfl))
    · unfold State.intStart
      rw [hfld ⟨0x408C, 0, 16⟩ (not_emetReg (by decide) (by decide))]
    · obtain rfl := Option.some.inj (hd ▸ hc : some c = some c')
      exact ⟨h.sec, h.ns, h.data⟩

theorem emetClose_closes {p : Nat} (hp : p < 4) (hlen : s.met.pts.length = 4) (hen : s.bit (bitAt 0x1A040 p) = true) :
    EmetClosed s (s.emetClose p) p := by
  unfold State.emetClose
  rw [if_neg (by simp [hen])]
  extract_lets d s1 s2 s3
  have h1 : WindowEnded s s1 p := windowEnded s hp hlen
  have h2 : IntClosed s1 s2 p := intClose_closes s1 (by omega)
  have hpt2 : s2.metPt p = s1.metPt p := h2.same.base (fun m => m.pts.getD p MetPt.init) fun _ _ _ _ _ => rfl
  have hlen2 : s2.met.pts.length = 4 := (h2.same.base (fun m => m.pts.length) fun _ _ _ _ _ => rfl).trans (h1.len.trans hlen)
  have h3 : s3.met.ints = s2.met.ints ∧ (s3.metPt p).latch = none ∧ (s3.metPt p).due = none ∧ (s3.metPt p).hadData = (s2.metPt p).hadData
      ∧ (∀ tid i w, tid = 0x1A01 ∨ tid = 0x1A02 → i < 2 ^ 24 → w < 2 ^ 8 → s3.metRd tid i w = s2.metRd tid i w)
      ∧ ((s.metPt p).latch = none → s3 = s2.setB (bitAt 0x1A04C p) false)
      ∧ ∀ smp bad, (s.metPt p).latch = some (smp, bad) → (s3.metPt p).win.length = (s2.metPt p).win.length + smp.length := by
    unfold s3 d
    cases hl : (s.metPt p).latch with
    | none =>
      exact ⟨rfl, (congrArg MetPt.latch hpt2).trans (h1.latch.trans hl), (congrArg MetPt.due hpt2).trans h1.due, rfl, fun _ _ _ _ _ _ => rfl, fun _ => rfl,
        fun _ _ h => absurd h (by simp)⟩
    | some e =>
      obtain ⟨smp, bad⟩ := e
      have ht := metSamples_takes hp hlen2 smp bad
      refine ⟨ht.ints, ht.latch, ht.due.trans ((congrArg MetPt.due hpt2).trans h1.due), ht.data, ht.words, fun h => absurd h (by simp), fun x b h => ?_⟩
      obtain ⟨rfl, rfl⟩ := Prod.mk.inj (Option.some.inj h)
      exact ht.win
  obtain ⟨hints, hlatch, hdue, hdata, hwords, hidle, htake⟩ := h3
  have hm : (s3.emetPublish p).met = s3.met := met_fwPuts ..
  have hpt : (s3.emetPublish p).metPt p = s3.metPt p := by
    unfold State.metPt
    rw [hm]
  have hout : ∀ tid i w, tid = 0x1A01 ∨ tid = 0x1A02 → i < 2 ^ 24 → w < 2 ^ 8 → (s3.emetPublish p).metRd tid i w = s2.metRd tid i w := fun tid i w ht hi hw =>
    (metRd_of (congrArg MetSt.pend hm) (near_viol s3 ..) (by unfold evTbl; omega) hi hw).trans (hwords tid i w ht hi hw)
  have hlk : (s3.emetPublish p).met.ints.lookup p = s2.met.ints.lookup p := by rw [hm, hints]
  obtain ⟨htai, hmin, hst⟩ := h1.instant
  refine ⟨by rw [hpt, hlatch], by rw [hpt, hdue], fun smp bad h => by rw [hpt, htake smp bad h, hpt2, h1.win, apply_ite List.length]; rfl, fun h => ⟨?_, ?_⟩,
    fun c hc => ?_, fun i hi hle => ?_, fun i hi hlt hno => ?_, fun hn => ?_⟩
  · have hn : ¬ violReg 0x1A04C := not_violReg (by decide) (by decide)
    refine (bit_of_rd (f := bitAt 0x1A04C p) ((near_viol s3 ..).regs _ hn)).trans ?_
    rw [hidle h]
    exact bit_setB_self (f := bitAt 0x1A04C p) (show p < 32 by omega) rfl
  · rw [hpt, hidle h]
    show (s2.metPt p).win = _
    rw [hpt2, h1.win]
  · obtain ⟨hsec, hns, hdt⟩ := h1.shown c hc
    have hsame := fun w (hw : w < 2 ^ 8) => (hout 0x1A01 p w (.inl rfl) (by omega) hw).trans
      (h2.same.words 0x1A01 p w (by decide) (by decide) (fun h => absurd h (by decide)) (by omega) hw)
    exact ⟨(hsame 28 (by decide)).trans hsec, (hsame 29 (by decide)).trans hns, by rw [hpt, hdata, hpt2, hdt]⟩
  · obtain ⟨hrec, j, hj, hno, hstart, hstop⟩ := h2.ended i (h1.ints ▸ hi) (htai ▸ hle)
    obtain ⟨hr1, hr2⟩ := hrec (by omega)
    have hmod : i.no % 96 < 96 := Nat.mod_lt _ (by decide)
    exact ⟨(hout _ _ _ (.inr rfl) (by omega) (by decide)).trans hr1, (hout _ _ _ (.inr rfl) (by omega) (by decide)).trans hr2, j, hlk.trans hj, hno,
      by rw [hstart, hst, hmin, htai], by rw [hstop, hmin]⟩
  · exact hlk.trans (h2.runs i (h1.ints ▸ hi) (htai ▸ hlt) (h1.pf ▸ hno))
  · obtain ⟨j, hj, hno, hstart⟩ := h2.first (h1.ints ▸ hn)
    exact ⟨j, hlk.trans hj, hno, by rw [hstart, hst, hmin, htai]⟩

theorem emetClose_off {p : Nat} (hen : s.bit (bitAt 0x1A040 p) = false) : s.emetClose p = s := by
  unfold State.emetClose
  rw [hen]
  rfl

theorem exec_emetClose {arg p : Nat} (ht : s.takes 0x18 0x07 (·.has arg)) (hi : s.entryIdx arg 0 2 = some p) :
    exec (.emetClose arg) s = .next ((s.begun 0x07).emetClose p) := by
  refine next_congr ((entry_takes ht).trans ?_)
  rw [show (s.begun 0x07).entryIdx arg 0 2 = some p from hi]

theorem begun_only (s : State) (u : Nat) : s.onlyIn (s.begun u) [.seq] := by
  unfold State.begun
  exact (ackBy_keeps (passEntry_keeps (Keeps.refl _ s) (List.Subset.refl _)) (List.Subset.refl _)).only

end
end Sys2Proof.Machine
end

section
/-! #### Thermal points (R332 to R336) -/

namespace Sys2Proof.Machine

section
variable {s : State} {h : Nat}

/-! ##### The words and the inputs of a thermal point -/

/-- What a 64-bit register comes to with an amount added, by its words and its residue (R323). -/
def State.metSum (s : State) (t i w : Nat) (x : Num) : Nat :=
  s.metReg t i w + (Config.numFloor (nadd ((s.met.res.lookup (tkey t i w)).getD n0) x)).toNat

theorem metReg_metAdd (s : State) (t i w : Nat) (x : Num) :
    (s.metAdd t i w x).metReg t i w = (lo32 (s.metSum t i w x)).toNat + (hi32 (s.metSum t i w x)).toNat * 2 ^ 32 := by
  have hne : tkey t i w ≠ tkey t i (w + 1) := by
    unfold tkey
    omega
  unfold State.metAdd State.metSum
  unfold State.metReg
  dsimp only
  rw [metRd_metMod rfl, metRd_metMod rfl, metRd_metWr, if_neg hne, metRd_metWr_self, metRd_metWr_self]

theorem metReg_metAdd_congr {a b : State} {t i w : Nat} (x : Num) (hr : a.met.res.lookup (tkey t i w) = b.met.res.lookup (tkey t i w))
    (h0 : a.metRd t i w = b.metRd t i w) (h1 : a.metRd t i (w + 1) = b.metRd t i (w + 1)) :
    (a.metAdd t i w x).metReg t i w = (b.metAdd t i w x).metReg t i w := by
  have hv : a.metSum t i w x = b.metSum t i w x := by
    unfold State.metSum State.metReg
    rw [h0, h1, hr]
  rw [metReg_metAdd, metReg_metAdd, hv]

theorem res_metAdd_other {t i w t' i' w' : Nat} {x : Num} (hk : tkey t' i' w' ≠ tkey t i w) :
    (s.metAdd t i w x).met.res.lookup (tkey t' i' w') = s.met.res.lookup (tkey t' i' w') := by
  show List.lookup (tkey t' i' w') (_ :: _) = _
  rw [List.lookup_cons, beq_false_of_ne hk]
  exact lookup_filter_other hk

theorem hmetPt_of_hpts {s t : State} (hp : t.met.hpts = s.met.hpts) (q : Nat) : t.hmetPt q = s.hmetPt q := by
  unfold State.hmetPt
  rw [hp]

/-- The inputs of a thermal point as the engine takes them are not changed by the close of an interval. -/
theorem IntSame.inputs {s t : State} (hs : IntSame s t) (h : Nat) : (∀ c d, t.hVolume h c d = s.hVolume h c d) ∧ (∀ w, t.hTemp h w = s.hTemp h w)
    ∧ t.hPress h = s.hPress h ∧ (∀ w, t.trd 0x1B00 h w = s.trd 0x1B00 h w) ∧ ∀ w lo n, t.hFld h w lo n = s.hFld h w lo n := by
  have htbl : t.tbl = s.tbl := hs.keeps.only .tbl (by decide)
  have hmbx : t.mbx = s.mbx := hs.keeps.only .mbx (by decide)
  have htrd : ∀ a b c, t.trd a b c = s.trd a b c := fun a b c => trd_of_tbl htbl a b c
  have hfld : ∀ w lo n, t.hFld h w lo n = s.hFld h w lo n := fun w lo n => tfld_of_tbl htbl _ _ _ _ _
  have href : ∀ w, t.vref w = s.vref w := fun w => by
    unfold State.vref State.mbxItem State.mbxOf
    rw [hmbx]
  have hgood : ∀ w, t.goodItem w = s.goodItem w := fun w => by
    unfold State.goodItem
    rw [href]
  have hcnt : (t.hmetPt h).count = (s.hmetPt h).count := hs.hpt (·.count) (fun _ _ _ => rfl) h
  have hbit : ∀ a b, a = 0x1C040 ∨ a = 0x1C044 → t.bit (bitAt a b) = s.bit (bitAt a b) := fun a b ha =>
    bit_of_rd (f := bitAt a b) (hs.rd a (by omega) (by omega))
  refine ⟨fun c d => ?_, fun w => ?_, ?_, fun w => htrd _ _ _, hfld⟩
  · unfold State.hVolume
    dsimp only
    rw [hfld, hfld, hcnt, hbit _ _ (.inl rfl), hbit _ _ (.inr rfl), htrd, htrd, hgood]
  · unfold State.hTemp
    rw [htrd, hgood, hfld]
  · unfold State.hPress State.vrefUsable
    rw [htrd, htrd, href]

/-! ##### STATUS, faults and what is accumulated -/

/-- STATUS, POWER and the page's registers of a thermal point as they are shown (R336). -/
structure StatusShown (s t : State) (h : Nat) (fault : Bool) (power flow : Num) : Prop where
  hpts : t.met.hpts = s.met.hpts
  words : ∀ w, w < 14 → t.metRd 0x1B01 h w = s.metRd 0x1B01 h w
  power : t.metRd 0x1B01 h 15 = ofInt (Config.numToInt power)
  flow : t.rd (0x1B094 + 4 * h) = ofInt (Config.numToInt flow)
  fault : t.bit (bitAt 0x1B048 (16 + h)) = fault
  rd : ∀ a, a = 0x1B010 ∨ a = 0x1B0D4 → t.rd a = s.rd a

theorem hmetStatus_shows (s : State) (hh : h < 16) (fault : Bool) (power flow : Num) : StatusShown s (s.hmetStatus h fault power flow) h fault power flow := by
  unfold State.hmetStatus
  extract_lets q rev pw s1
  have hpt : ∀ t i w, ((((s1.wr (0x1B054 + 4 * h) pw).wr (0x1B094 + 4 * h) (ofInt (Config.numToInt flow))).setB (bitAt 0x1B048 (16 + h)) fault).setB
    (bitAt 0x1B048 h) rev).metRd t i w = s1.metRd t i w := fun _ _ _ => rfl
  refine ⟨rfl, fun w hw => ?_, ?_, ?_, ?_, fun a ha => ?_⟩
  · rw [hpt]
    exact (metRd_metWr_other (by omega) (by omega) (by decide) (by omega) (by omega)).trans
      (metRd_metWr_other (by omega) (by omega) (by decide) (by omega) (by omega))
  · rw [hpt]
    exact metRd_metWr_self
  · rw [rd_setB_apart (show 0x1B094 + 4 * h ≠ 0x1B048 by omega), rd_setB_apart (show 0x1B094 + 4 * h ≠ 0x1B048 by omega), rd_wr_self]
  · rw [bit_setB_apart (.inr (by simp only [bitAt]; omega))]
    exact bit_setB_self (f := bitAt 0x1B048 (16 + h)) (show 16 + h < 32 by omega) rfl
  · rw [rd_setB_apart (show a ≠ 0x1B048 by omega), rd_setB_apart (show a ≠ 0x1B048 by omega), rd_wr_apart (by omega), rd_wr_apart (by omega)]
    rfl

/-- The registers of a thermal point hold at a close whose conditions fail (R335). -/
structure ThermalHeld (s t : State) (h : Nat) : Prop where
  fault : (t.hmetPt h).fault = true
  shown : t.bit (bitAt 0x1B048 (16 + h)) = true
  power : t.metRd 0x1B01 h 15 = ofInt (Config.numToInt n0)
  words : ∀ w, w < 12 → t.metRd 0x1B01 h w = s.metRd 0x1B01 h w
  told : (s.hmetPt h).fault = false → t.bit (bitAt 0x1B010 0) = true ∧ t.fld Ctr.HMET_FAULT.f = min (2 ^ 32 - 1) (s.fld Ctr.HMET_FAULT.f + 1)

theorem hmetFault_holds (s : State) (hh : h < 16) (dt8 : Nat) : ThermalHeld s (s.hmetFault h dt8) h := by
  unfold State.hmetFault
  extract_lets d n s1 s2
  have hst := hmetStatus_shows s2 hh true n0 n0
  have h1 : (s1.hmetPt h).fault = true := by
    show ((s.hmetMod h (fun d => { d with
      fault := true
      faultT := n })).hmetPt h).fault = true
    rw [hmetPt_hmetMod_self]
  have w1 : ∀ w, w < 12 → s1.metRd 0x1B01 h w = s.metRd 0x1B01 h w := fun w hw =>
    (metRd_metWr_other (by omega) (by omega) (by decide) (by omega) (by omega)).trans (metRd_metMod rfl _ _ _)
  have h2 : s2.met = s1.met ∧ (∀ w, w < 12 → s2.metRd 0x1B01 h w = s1.metRd 0x1B01 h w)
      ∧ (d.fault = false → s2.bit (bitAt 0x1B010 0) = true ∧ s2.fld Ctr.HMET_FAULT.f = min (2 ^ 32 - 1) (s.fld Ctr.HMET_FAULT.f + 1)) := by
    unfold s2
    split
    · next hd => exact ⟨rfl, fun _ _ => rfl, fun h => absurd hd (by simp [h])⟩
    · have hn : Near (fun _ => True) evTbl s1 ((s1.bump .HMET_FAULT).raiseEv 0x1B 0) :=
        near_raiseEv (near_bump (Near.refl _ _ s1) trivial trivial) (by decide) (fun _ _ => trivial) fun _ => id
      refine ⟨by simp, fun w hw => metRd_of (by simp) hn (by unfold evTbl; omega) (by omega) (by omega), fun _ =>
        ⟨bit_raiseEv_self (p := 0x1B) (by decide) (by decide) (by decide) rfl, ?_⟩⟩
      exact (fld_raiseEv_apart (by decide) (by decide) (by decide) (by decide) (by decide)).trans (fld_bump_stays rfl (by decide) (.inl (by decide)))
  refine ⟨?_, hst.fault, hst.power, fun w hw => (hst.words w (by omega)).trans ((h2.2.1 w hw).trans (w1 w hw)), fun hf => ?_⟩
  · rw [hmetPt_of_hpts hst.hpts, hmetPt_of_hpts (congrArg MetSt.hpts h2.1)]
    exact h1
  · obtain ⟨he, hc⟩ := h2.2.2 hf
    exact ⟨(bit_of_rd (f := bitAt 0x1B010 0) (hst.rd _ (.inl rfl))).trans he, (fld_of_rd (f := Ctr.HMET_FAULT.f) (hst.rd _ (.inr rfl))).trans hc⟩

/-! ##### The volume and the energy of a close -/

/-- The register that takes the volume of a direction, and the one that takes the energy of a direction and a sign. -/
def volumeWord (back : Bool) : Nat := if back then 10 else 8
def energyWord (back cold : Bool) : Nat := (if cold then 4 else 0) + (if back then 2 else 0)

/-- What a close whose conditions hold makes of the registers, the volume `dv` moved and the energy `dE` with it (R333, R334). -/
structure ThermalAdded (s t : State) (h : Nat) (zero neg cold warm : Bool) (dv dE flow : Num) : Prop where
  fault : (t.hmetPt h).fault = false
  shown : t.bit (bitAt 0x1B048 (16 + h)) = false
  flow : t.rd (0x1B094 + 4 * h) = ofInt (Config.numToInt flow)
  volume : zero = false → t.metReg 0x1B01 h (volumeWord neg) = (s.metAdd 0x1B01 h (volumeWord neg) (nabs dv)).metReg 0x1B01 h (volumeWord neg)
  energy : zero = false → warm = true →
    t.metReg 0x1B01 h (energyWord neg cold) = (s.metAdd 0x1B01 h (energyWord neg cold) (toMwh dE)).metReg 0x1B01 h (energyWord neg cold)
  held : zero = true → ∀ w, w < 12 → t.metRd 0x1B01 h w = s.metRd 0x1B01 h w

/-- A turn of the flow is counted and told; the registers of the volume and the energy stay. -/
theorem turn_words (u : State) (hh : h < 16) (b : Bool) (f : MetInt → MetInt) (g : HmetPt → HmetPt) (k : Nat) {w : Nat} (hw : w < 12) :
    let v := ((u.metWr 0x1B01 h 12 (u.metRd 0x1B01 h 12 + 1)).intMod k f).hmetMod h g
    (if b then v else v.raiseEv 0x1B 1).metRd 0x1B01 h w = u.metRd 0x1B01 h w := by
  intro v
  have hv : v.metRd 0x1B01 h w = u.metRd 0x1B01 h w := metRd_metWr_other (by omega) (by omega) (by decide) (by omega) (by omega)
  split
  · exact hv
  · exact (metRd_of (by simp) (near_raiseEv (p := fun _ => True) (Near.refl _ _ v) (by decide) (fun _ _ => trivial) fun _ => id) (by unfold evTbl; omega)
      (by omega) (by omega)).trans hv

/-- The registers of a close: the volume and the energy added, and a turn of the flow. -/
def State.thermCounted (s : State) (h : Nat) (zero neg cold warm : Bool) (dv dE : Num) : State :=
  let reg := !zero && warm
  let s1 := if zero then s else s.metAdd 0x1B01 h (volumeWord neg) (nabs dv)
  let s2 := if reg then s1.metAdd 0x1B01 h (if cold then (if neg then 6 else 4) else (if neg then 2 else 0)) (toMwh dE) else s1
  let turn := !zero && (s.hmetPt h).flowed && neg != (s.hmetPt h).rev
  if turn then
    let a := ((s2.metWr 0x1B01 h 12 (s2.metRd 0x1B01 h 12 + 1)).intMod (16 + h) (fun i => { i with reversals := i.reversals + 1 }))
    let b := a.hmetMod h (fun d => { d with revRaised := true })
    if (s2.hmetPt h).revRaised then b else b.raiseEv 0x1B 1
  else s2

theorem thermCounted_counts (s : State) (hh : h < 16) (zero neg cold warm : Bool) (dv dE : Num) :
    let t := s.thermCounted h zero neg cold warm dv dE
    (zero = false → t.metReg 0x1B01 h (volumeWord neg) = (s.metAdd 0x1B01 h (volumeWord neg) (nabs dv)).metReg 0x1B01 h (volumeWord neg))
    ∧ (zero = false → warm = true →
      t.metReg 0x1B01 h (energyWord neg cold) = (s.metAdd 0x1B01 h (energyWord neg cold) (toMwh dE)).metReg 0x1B01 h (energyWord neg cold))
    ∧ (zero = true → ∀ w, w < 12 → t.metRd 0x1B01 h w = s.metRd 0x1B01 h w) := by
  have hword : (if cold then (if neg then 6 else 4) else (if neg then 2 else 0)) = energyWord neg cold := by
    cases cold <;> cases neg <;> rfl
  have hvol : volumeWord neg = 8 ∨ volumeWord neg = 10 := by cases neg <;> decide
  have hen : energyWord neg cold ≤ 6 := by cases neg <;> cases cold <;> decide
  unfold State.thermCounted
  rw [hword]
  extract_lets reg s1 s2 turn a b t
  have ht : ∀ w, w < 12 → t.metRd 0x1B01 h w = s2.metRd 0x1B01 h w := fun w hw => by
    unfold t
    split
    · exact turn_words s2 hh _ _ _ _ hw
    · rfl
  have hreg : ∀ w, w < 11 → t.metReg 0x1B01 h w = s2.metReg 0x1B01 h w := fun w hw => by
    unfold State.metReg
    rw [ht w (by omega), ht (w + 1) (by omega)]
  refine ⟨fun hz => ?_, fun hz hw => ?_, fun hz w hw => ?_⟩
  · have h1 : s1 = s.metAdd 0x1B01 h (volumeWord neg) (nabs dv) := if_neg (by simp [hz])
    rw [hreg _ (by omega), ← h1]
    unfold s2
    split
    · unfold State.metReg
      rw [metRd_metAdd_other (by omega) (by omega) (by omega) (by omega) (by omega),
        metRd_metAdd_other (by omega) (by omega) (by omega) (by omega) (by omega)]
    · rfl
  · have h1 : s1 = s.metAdd 0x1B01 h (volumeWord neg) (nabs dv) := if_neg (by simp [hz])
    have h2 : s2 = s1.metAdd 0x1B01 h (energyWord neg cold) (toMwh dE) := if_pos (by simp [reg, hz, hw])
    rw [hreg _ (by omega), h2, h1]
    refine metReg_metAdd_congr _ (res_metAdd_other ?_) ?_ ?_
    · unfold tkey
      omega
    · exact metRd_metAdd_other (by omega) (by omega) (by omega) (by omega) (by omega)
    · exact metRd_metAdd_other (by omega) (by omega) (by omega) (by omega) (by omega)
  · have h1 : s1 = s := if_pos hz
    have h2 : s2 = s1 := if_neg (by simp [reg, hz])
    rw [ht w hw, h2, h1]

/-- The volume moved, its direction, and the sign and the size of the temperature difference of a close (R333, R334). -/
def State.thermSmall (s : State) (h dt8 : Nat) (q : Num) : Bool := decide (dt8 ≠ 0) && nlt (nabs q) (nf32 (s.trd 0x1B00 h 6))
def State.thermDv (s : State) (h dt8 : Nat) (v q : Num) : Num := if s.thermSmall h dt8 q then n0 else v
def isZero (v : Num) : Bool := nle v n0 && nle n0 v
def State.thermWarm (s : State) (h : Nat) (tf tr : Num) : Bool := nle (nf32 (s.trd 0x1B00 h 7)) (nabs (nsub tf tr))
def State.thermDE (s : State) (h : Nat) (dv tf tr p : Num) : Num :=
  nmul (nmul (nmul (nabs dv) (nrat 1 1000000)) (Config.waterRho (if s.hFld h 0 28 1 = 0 then tf else tr) p))
    (nabs (nsub (Config.waterH tf p) (Config.waterH tr p)))

theorem hmetAccumulate_eq (s : State) (h dt8 : Nat) (v q tf tr p : Num) : ∃ zero' power, s.hmetAccumulate h dt8 v q tf tr p =
    ((s.thermCounted h (isZero (s.thermDv h dt8 v q)) (nlt (s.thermDv h dt8 v q) n0) (nlt (nsub tf tr) n0) (s.thermWarm h tf tr)
      (s.thermDv h dt8 v q) (s.thermDE h (s.thermDv h dt8 v q) tf tr p)).hmetMod h (fun d => { d with
        fault := false, rev := if zero' then d.rev else nlt (s.thermDv h dt8 v q) n0, flowed := d.flowed || !zero' })).hmetStatus h false power
      (if s.thermSmall h dt8 q then n0 else q) := ⟨_, _, rfl⟩

theorem hmetAccumulate_adds (s : State) (hh : h < 16) (dt8 : Nat) (v q tf tr p : Num) :
    ThermalAdded s (s.hmetAccumulate h dt8 v q tf tr p) h (isZero (s.thermDv h dt8 v q)) (nlt (s.thermDv h dt8 v q) n0) (nlt (nsub tf tr) n0)
      (s.thermWarm h tf tr) (s.thermDv h dt8 v q) (s.thermDE h (s.thermDv h dt8 v q) tf tr p) (if s.thermSmall h dt8 q then n0 else q) := by
  obtain ⟨zero', power, he⟩ := hmetAccumulate_eq s h dt8 v q tf tr p
  rw [he]
  obtain ⟨hvol, hen, hheld⟩ := thermCounted_counts s hh (isZero (s.thermDv h dt8 v q)) (nlt (s.thermDv h dt8 v q) n0) (nlt (nsub tf tr) n0)
    (s.thermWarm h tf tr) (s.thermDv h dt8 v q) (s.thermDE h (s.thermDv h dt8 v q) tf tr p)
  generalize s.thermCounted h (isZero (s.thermDv h dt8 v q)) (nlt (s.thermDv h dt8 v q) n0) (nlt (nsub tf tr) n0) (s.thermWarm h tf tr)
    (s.thermDv h dt8 v q) (s.thermDE h (s.thermDv h dt8 v q) tf tr p) = u at hvol hen hheld ⊢
  obtain ⟨f, hf⟩ : ∃ f : HmetPt → HmetPt, f = fun d => { d with
        fault := false, rev := if zero' then d.rev else nlt (s.thermDv h dt8 v q) n0, flowed := d.flowed || !zero' } := ⟨_, rfl⟩
  rw [← hf]
  have hst := hmetStatus_shows (u.hmetMod h f) hh false power (if s.thermSmall h dt8 q then n0 else q)
  have hwords : ∀ w, w < 14 → ((u.hmetMod h f).hmetStatus h false power (if s.thermSmall h dt8 q then n0 else q)).metRd 0x1B01 h w = u.metRd 0x1B01 h w :=
    hst.words
  have hregs : ∀ w, w < 13 → ((u.hmetMod h f).hmetStatus h false power (if s.thermSmall h dt8 q then n0 else q)).metReg 0x1B01 h w
      = u.metReg 0x1B01 h w := fun w hw => by
    unfold State.metReg
    rw [hwords w (by omega), hwords (w + 1) (by omega)]
  refine ⟨?_, hst.fault, hst.flow, fun hz => (hregs _ ?_).trans (hvol hz), fun hz hw => (hregs _ ?_).trans (hen hz hw), fun hz w hw =>
    (hwords w (by omega)).trans (hheld hz w hw)⟩
  · rw [hmetPt_of_hpts hst.hpts, hmetPt_hmetMod_self, hf]
  · unfold volumeWord
    split <;> decide
  · unfold energyWord
    split <;> split <;> decide

end
end Sys2Proof.Machine
end

section
/-! #### The closes of thermal points, and the front-end's statement (R332 to R337) -/

namespace Sys2Proof.Machine

section
variable {s : State} {h : Nat}

theorem modeReg_off {a : Nat} (h : pageOf a ∉ [0x00, 0x07, 0x08, 0x0C, 0x1D, 0x30]) : modeReg a = false := by
  simp only [List.mem_cons, List.not_mem_nil, or_false, not_or] at h
  unfold modeReg
  simp only [Bool.or_eq_false_iff, beq_eq_false_iff_ne]
  unfold pageOf at h ⊢
  omega

theorem hmetClose_off {ns : Nat} (hoff : ¬ (s.bit (bitAt 0x1B040 h) = true ∧ s.hFld h 0 31 1 = 1)) : s.hmetClose h ns = s := by
  unfold State.hmetClose
  refine if_pos ?_
  have h1 : s.hFld h 0 31 1 < 2 := tfld_lt ..
  cases hb : s.bit (bitAt 0x1B040 h) with
  | false => rfl
  | true =>
    have h0 : s.hFld h 0 31 1 = 0 := by
      have : s.hFld h 0 31 1 ≠ 1 := fun e => hoff ⟨hb, e⟩
      omega
    simp [h0]

/-- The 8 kHz sample count of a close, its pulse count and the samples since the last one (R332). -/
def State.thermNow (s : State) (ns : Nat) : Nat := (s.elapsed ns + s.met.longNs) / 125000
def State.thermCnt (s : State) (h : Nat) : Nat := (s.rd (0x1C068 + 4 * s.hFld h 0 16 4)).toNat
def State.thermDt (s : State) (h ns : Nat) : Nat := ((s.hmetPt h).at_.map (fun a => min 8000 (s.thermNow ns - a))).getD 0

/-- What the conditions of a close make of a point whose interval has been looked at: the increments, or a fault (R332, R335). -/
def State.thermJudged (u : State) (h cnt dt8 : Nat) : State :=
  match u.hVolume h cnt dt8, u.hTemp h 2, u.hTemp h 3, u.hPress h with
  | some (v, q), some tf, some tr, some p =>
    if (nle n0 tf && nle tf (nint 180)) && (nle n0 tr && nle tr (nint 180)) then u.hmetAccumulate h dt8 v q tf tr p else u.hmetFault h dt8
  | _, _, _, _ => u.hmetFault h dt8

theorem hmetClose_eq {ns : Nat} (hen : s.bit (bitAt 0x1B040 h) = true) (hdef : s.hFld h 0 31 1 = 1) :
    s.hmetClose h ns = (((s.intClose (16 + h)).thermJudged h (s.thermCnt h) (s.thermDt h ns)).hmetMod h (fun d => { d with
      at_ := some (s.thermNow ns)
      count := some (s.thermCnt h) })).hmetPublish h := by
  unfold State.hmetClose
  rw [if_neg (by simp [hen, hdef])]
  extract_lets now dt8 cnt s1 inRange s2
  have hdt : dt8 = s.thermDt h ns := by
    unfold dt8 State.thermDt
    cases (s.hmetPt h).at_ with
    | none => rfl
    | some a => rw [Option.map_some, Option.getD_some, State.thermNow]
  have hnow : now = s.thermNow ns := rfl
  have hcnt : cnt = s.thermCnt h := rfl
  have hs1 : s1 = s.intClose (16 + h) := rfl
  have hs2 : s2 = s1.thermJudged h cnt dt8 := by
    unfold s2 State.thermJudged
    clear_value dt8 cnt s1
    rfl
  rw [hs2, hdt, hcnt, hnow, hs1]

/-- The instant of a close noted and the items published: everything else that the statement speaks of stays. -/
structure ThermShown (u t : State) (h now cnt : Nat) : Prop where
  at_ : (t.hmetPt h).at_ = some now
  count : (t.hmetPt h).count = some cnt
  fault : (t.hmetPt h).fault = (u.hmetPt h).fault
  words : ∀ w, w < 16 → t.metRd 0x1B01 h w = u.metRd 0x1B01 h w
  rd : ∀ a, pageOf a = 0x1B → t.rd a = u.rd a

theorem hmetNoted_shows (u : State) (hh : h < 16) (now cnt : Nat) : ThermShown u ((u.hmetMod h (fun d => { d with
    at_ := some now
    count := some cnt })).hmetPublish h) h now cnt := by
  obtain ⟨v, hv⟩ : ∃ v, v = u.hmetMod h (fun d => { d with
    at_ := some now
    count := some cnt }) := ⟨_, rfl⟩
  have hpt : v.hmetPt h = { u.hmetPt h with
      at_ := some now
      count := some cnt } := by rw [hv, hmetPt_hmetMod_self]
  have hm : (v.hmetPublish h).met = v.met := met_fwPuts ..
  have hn : Near violReg evTbl v (v.hmetPublish h) := near_viol ..
  rw [← hv]
  refine ⟨?_, ?_, ?_, fun w hw => (metRd_of (congrArg MetSt.pend hm) hn (by unfold evTbl; omega) (by omega) (by omega)).trans (hv ▸ rfl),
    fun a ha => (hn.regs a (not_violReg (by rw [ha]; decide) (modeReg_off (by rw [ha]; decide)))).trans (hv ▸ rfl)⟩
  · rw [hmetPt_of_hpts (congrArg MetSt.hpts hm), hpt]
  · rw [hmetPt_of_hpts (congrArg MetSt.hpts hm), hpt]
  · rw [hmetPt_of_hpts (congrArg MetSt.hpts hm), hpt]

theorem thermJudged_fault (u : State) {cnt dt8 : Nat} (hf : u.hTemp h 2 = none ∨ u.hTemp h 3 = none ∨ u.hPress h = none ∨ u.hVolume h cnt dt8 = none) :
    u.thermJudged h cnt dt8 = u.hmetFault h dt8 := by
  unfold State.thermJudged
  split
  · next e1 e2 e3 e4 => simp [e1, e2, e3, e4] at hf
  · rfl

theorem thermJudged_some (u : State) {cnt dt8 : Nat} {v q tf tr p : Num} (h1 : u.hVolume h cnt dt8 = some (v, q)) (h2 : u.hTemp h 2 = some tf)
    (h3 : u.hTemp h 3 = some tr) (h4 : u.hPress h = some p) : u.thermJudged h cnt dt8
      = if (nle n0 tf && nle tf (nint 180)) && (nle n0 tr && nle tr (nint 180)) then u.hmetAccumulate h dt8 v q tf tr p else u.hmetFault h dt8 := by
  unfold State.thermJudged
  rw [h1, h2, h3, h4]

/-- A fault shown at the end of a close, by the state before it. -/
theorem ThermalHeld.closed {u v t : State} {now cnt : Nat} (hu : IntSame s u) (hh : h < 16) (hv : ThermalHeld u v h) (ht : ThermShown v t h now cnt) :
    ThermalHeld s t h := by
  have hold : (u.hmetPt h).fault = (s.hmetPt h).fault := hu.hpt (·.fault) (fun _ _ _ => rfl) h
  refine ⟨ht.fault.trans hv.fault, (bit_of_rd (f := bitAt 0x1B048 (16 + h)) (ht.rd 0x1B048 (by decide))).trans hv.shown, (ht.words 15 (by decide)).trans hv.power,
    fun w hw => (ht.words w (by omega)).trans ((hv.words w hw).trans (hu.words _ _ _ (by decide) (by decide) (by omega) (by omega) (by omega))), fun hf => ?_⟩
  obtain ⟨he, hc⟩ := hv.told (hold.trans hf)
  exact ⟨(bit_of_rd (f := bitAt 0x1B010 0) (ht.rd _ rfl)).trans he, (fld_of_rd (f := Ctr.HMET_FAULT.f) (ht.rd _ rfl)).trans (hc.trans (by
    rw [fld_of_rd (f := Ctr.HMET_FAULT.f) (hu.rd _ (by decide) (by decide))]))⟩

theorem ThermalAdded.closed {u v t : State} {now cnt : Nat} {zero neg cold warm : Bool} {dv dE flow : Num} (hu : IntSame s u) (hh : h < 16)
    (hv : ThermalAdded u v h zero neg cold warm dv dE flow) (ht : ThermShown v t h now cnt) : ThermalAdded s t h zero neg cold warm dv dE flow := by
  have hin : ∀ w, w < 12 → u.metRd 0x1B01 h w = s.metRd 0x1B01 h w := fun w hw => hu.words _ _ _ (by decide) (by decide) (by omega) (by omega) (by omega)
  have hout : ∀ w, w < 15 → t.metReg 0x1B01 h w = v.metReg 0x1B01 h w := fun w hw => by
    unfold State.metReg
    rw [ht.words w (by omega), ht.words (w + 1) (by omega)]
  have hadd : ∀ w x, w < 11 → (u.metAdd 0x1B01 h w x).metReg 0x1B01 h w = (s.metAdd 0x1B01 h w x).metReg 0x1B01 h w := fun w x hw =>
    metReg_metAdd_congr x (hu.base (fun m => m.res.lookup (tkey 0x1B01 h w)) fun _ _ _ _ _ => rfl) (hin w (by omega)) (hin _ (by omega))
  have hvol : volumeWord neg < 11 := by cases neg <;> decide
  have hen : energyWord neg cold < 11 := by cases neg <;> cases cold <;> decide
  exact ⟨ht.fault.trans hv.fault, (bit_of_rd (f := bitAt 0x1B048 (16 + h)) (ht.rd 0x1B048 (by decide))).trans hv.shown, (ht.rd _ (by simp only [pageOf_eq]; omega)).trans hv.flow,
    fun hz => (hout _ (by omega)).trans ((hv.volume hz).trans (hadd _ _ hvol)), fun hz hw => (hout _ (by omega)).trans ((hv.energy hz hw).trans (hadd _ _ hen)),
    fun hz w hw => (ht.words w (by omega)).trans ((hv.held hz w hw).trans (hin w hw))⟩

/-- HMET_CLOSE of an enabled, defined point (R332 to R335). -/
structure ThermalClosed (s t : State) (h ns : Nat) : Prop where
  at_ : (t.hmetPt h).at_ = some (s.thermNow ns)
  count : (t.hmetPt h).count = some (s.thermCnt h)
  failed : s.hTemp h 2 = none ∨ s.hTemp h 3 = none ∨ s.hPress h = none ∨ s.hVolume h (s.thermCnt h) (s.thermDt h ns) = none → ThermalHeld s t h
  judged : ∀ v q tf tr p, s.hVolume h (s.thermCnt h) (s.thermDt h ns) = some (v, q) → s.hTemp h 2 = some tf → s.hTemp h 3 = some tr → s.hPress h = some p →
    (((nle n0 tf && nle tf (nint 180)) && (nle n0 tr && nle tr (nint 180))) = false → ThermalHeld s t h)
    ∧ (((nle n0 tf && nle tf (nint 180)) && (nle n0 tr && nle tr (nint 180))) = true →
      ThermalAdded s t h (isZero (s.thermDv h (s.thermDt h ns) v q)) (nlt (s.thermDv h (s.thermDt h ns) v q) n0) (nlt (nsub tf tr) n0) (s.thermWarm h tf tr)
        (s.thermDv h (s.thermDt h ns) v q) (s.thermDE h (s.thermDv h (s.thermDt h ns) v q) tf tr p) (if s.thermSmall h (s.thermDt h ns) q then n0 else q))

theorem hmetClose_closes {ns : Nat} (hh : h < 16) (hen : s.bit (bitAt 0x1B040 h) = true) (hdef : s.hFld h 0 31 1 = 1) :
    ThermalClosed s (s.hmetClose h ns) h ns := by
  rw [hmetClose_eq hen hdef]
  have hu : IntSame s (s.intClose (16 + h)) := (intClose_closes s (by omega)).same
  generalize s.intClose (16 + h) = u at hu ⊢
  obtain ⟨hvol, htemp, hpress, htrd, hfld⟩ := hu.inputs h
  have ht := fun v => hmetNoted_shows v hh (s.thermNow ns) (s.thermCnt h)
  refine ⟨(ht _).at_, (ht _).count, fun hf => ?_, fun v q tf tr p h1 h2 h3 h4 => ?_⟩
  · rw [← hvol, ← htemp, ← htemp, ← hpress] at hf
    have hh' := ht (u.thermJudged h (s.thermCnt h) (s.thermDt h ns))
    rw [thermJudged_fault u hf] at hh' ⊢
    exact (hmetFault_holds u hh _).closed hu hh hh'
  · have hj := thermJudged_some u ((hvol _ _).trans h1) ((htemp _).trans h2) ((htemp _).trans h3) (hpress.trans h4)
    have hh' := ht (u.thermJudged h (s.thermCnt h) (s.thermDt h ns))
    refine ⟨fun hr => ?_, fun hr => ?_⟩
    · rw [hj, if_neg (by rw [hr]; decide)] at hh' ⊢
      exact (hmetFault_holds u hh _).closed hu hh hh'
    · rw [hj, if_pos hr] at hh' ⊢
      have hadd := (hmetAccumulate_adds u hh (s.thermDt h ns) v q tf tr p).closed hu hh hh'
      unfold State.thermSmall State.thermDv State.thermDE State.thermWarm State.thermSmall at hadd ⊢
      rw [htrd, htrd, hfld] at hadd
      exact hadd

theorem exec_hmetClose {arg ns : Nat} (ht : s.takes 0x19 0x07 (fun e => e.has arg && e.begunAt ns)) (hi : s.entryIdx arg 0 4 = some h) :
    exec (.hmetClose arg ns) s = .next ((s.begun 0x07).hmetClose h ns) := by
  refine next_congr ((entry_takes ht).trans ?_)
  rw [show (s.begun 0x07).entryIdx arg 0 4 = some h from hi]

end
end Sys2Proof.Machine
end

section
/-! #### Meters take their frames: the statement -/

namespace Sys2Proof.Machine

section
variable {s : State}

theorem map_fst_zip_sublist {α β : Type} (l : List α) (m : List β) : ((l.zip m).map (·.1)).Sublist l := by
  induction l generalizing m with
  | nil => exact List.nil_sublist _
  | cons x l ih => cases m with
    | nil => exact List.nil_sublist _
    | cons y m => exact (ih m).cons_cons x

/-- The points of a mask are different points. -/
theorem maskPts_nodup (arg : Nat) (samples : List (List (List Int))) :
    let pts := ((List.range 4).filter (fun p => arg / 2 ^ p % 2 == 1)).zip samples
    (∀ e ∈ pts, e.1 < 4) ∧ (pts.map (·.1)).Nodup := by
  refine ⟨fun e he => List.mem_range.1 (List.mem_filter.1 (List.of_mem_zip he).1).1, ?_⟩
  exact (List.nodup_range.filter _).sublist (map_fst_zip_sublist _ _)

theorem exec_modLatch {arg stuck : Nat} {samples : List (List (List Int))} (ht : s.takes 0x12 0x20 (·.has arg)) : exec (.modLatch arg samples stuck) s
    = .next ((((List.range 4).filter (fun p => arg / 2 ^ p % 2 == 1)).zip samples).foldl (fun a e => a.modLatchPt e.1 e.2 stuck) (s.begun 0x20)) :=
  next_congr (entry_takes ht)

theorem modLatch_latches {arg stuck : Nat} {samples : List (List (List Int))} (hs : s.Sized) (ht : s.takes 0x12 0x20 (·.has arg)) :
    let pts := ((List.range 4).filter (fun p => arg / 2 ^ p % 2 == 1)).zip samples
    runs (.modLatch arg samples stuck) s (fun t =>
      (∀ p smp, (p, smp) ∈ pts →
        (s.met.dropped = false → (t.metPt p).latch = some (smp.take 16, s.modBad p stuck)
          ∧ (s.modBad p stuck % 64 = 0 → p ∈ t.met.good))
        ∧ (s.met.dropped = true → (t.metPt p).latch = (s.metPt p).latch)
        ∧ (∀ k, k < 7 → (t.bit (bitAt 0x19044 (7 * p + k)) = true ↔ s.modBad p stuck / 2 ^ k % 2 = 0)
          ∧ (s.modBad p stuck / 2 ^ k % 2 = 1 → t.bit (bitAt 0x19048 (7 * p + k)) = true)))
      ∧ (∀ q, q ∉ pts.map (·.1) → (t.metPt q).latch = (s.metPt q).latch)) := by
  intro pts
  obtain ⟨hlt, hnd⟩ := maskPts_nodup arg samples
  obtain ⟨hin, hout⟩ := modLatchPts_latch (s := s.begun 0x20) stuck pts hlt hnd hs.pts
  refine runs_intro (exec_modLatch ht) ⟨fun p smp hp => ?_, fun q hq => (hout q hq).latch⟩
  have h := hin p smp hp
  exact ⟨h.takes, h.drops, fun k hk => ⟨h.ok k hk, h.fault k hk⟩⟩

theorem isZero_iff {v : Num} : isZero v = false ↔ (nle v n0 && nle n0 v) = false := Iff.rfl

/-- A close of a thermal point whose temperatures lie in range, in the words of the statement. -/
theorem ThermalAdded.words {t : State} {h dt8 : Nat} {v q tf tr p : Num}
    (ha : ThermalAdded s t h (isZero (s.thermDv h dt8 v q)) (nlt (s.thermDv h dt8 v q) n0) (nlt (nsub tf tr) n0) (s.thermWarm h tf tr)
      (s.thermDv h dt8 v q) (s.thermDE h (s.thermDv h dt8 v q) tf tr p) (if s.thermSmall h dt8 q then n0 else q)) :
    let small := dt8 ≠ 0 ∧ nlt (nabs q) (nf32 (s.trd 0x1B00 h 6)) = true
    let moved := ¬ small ∧ (nle v n0 && nle n0 v) = false
    let back := nlt v n0 = true
    let cold := nlt (nsub tf tr) n0 = true
    let warm := nle (nf32 (s.trd 0x1B00 h 7)) (nabs (nsub tf tr)) = true
    let dE := nmul (nmul (nmul (nabs v) (nrat 1 1000000)) (Config.waterRho (if s.hFld h 0 28 1 = 0 then tf else tr) p))
      (nabs (nsub (Config.waterH tf p) (Config.waterH tr p)))
    (t.hmetPt h).fault = false ∧ t.bit (bitAt 0x1B048 (16 + h)) = false
      ∧ (small → t.rd (0x1B094 + 4 * h) = ofInt (Config.numToInt n0))
      ∧ (¬ small → t.rd (0x1B094 + 4 * h) = ofInt (Config.numToInt q))
      ∧ (moved → ∀ w, w = (if back then 10 else 8) → t.metReg 0x1B01 h w = (s.metAdd 0x1B01 h w (nabs v)).metReg 0x1B01 h w)
      ∧ (moved → warm → ∀ w, w = (if cold then 4 else 0) + (if back then 2 else 0) →
        t.metReg 0x1B01 h w = (s.metAdd 0x1B01 h w (toMwh dE)).metReg 0x1B01 h w)
      ∧ (¬ small → (nle v n0 && nle n0 v) = true → ∀ w, w < 12 → t.metRd 0x1B01 h w = s.metRd 0x1B01 h w) := by
  intro small moved back cold warm dE
  have hsmall : s.thermSmall h dt8 q = true ↔ small := by
    simp only [State.thermSmall, small, Bool.and_eq_true, decide_eq_true_eq]
  have hdv : ¬ small → s.thermDv h dt8 v q = v := fun hn => if_neg (mt hsmall.1 hn)
  refine ⟨ha.fault, ha.shown, fun hs => ha.flow.trans (by rw [if_pos (hsmall.2 hs)]), fun hs => ha.flow.trans (by rw [if_neg (mt hsmall.1 hs)]),
    fun hm w hw => ?_, fun hm hwarm w hw => ?_, fun hs hz => ?_⟩
  · obtain ⟨hns, hz⟩ := hm
    have h := ha.volume
    rw [hdv hns] at h
    exact hw ▸ h hz
  · obtain ⟨hns, hz⟩ := hm
    have h := ha.energy
    rw [hdv hns] at h
    exact hw ▸ h hz hwarm
  · have h := ha.held
    rw [hdv hs] at h
    exact h hz

/-- The increments of a close rest on nothing of the sequencer. -/
theorem ThermalAdded.of_begun {t : State} {u h dt8 : Nat} {v q tf tr p : Num}
    (ha : ThermalAdded (s.begun u) t h (isZero ((s.begun u).thermDv h dt8 v q)) (nlt ((s.begun u).thermDv h dt8 v q) n0) (nlt (nsub tf tr) n0)
      ((s.begun u).thermWarm h tf tr) ((s.begun u).thermDv h dt8 v q) ((s.begun u).thermDE h ((s.begun u).thermDv h dt8 v q) tf tr p)
      (if (s.begun u).thermSmall h dt8 q then n0 else q)) :
    ThermalAdded s t h (isZero (s.thermDv h dt8 v q)) (nlt (s.thermDv h dt8 v q) n0) (nlt (nsub tf tr) n0) (s.thermWarm h tf tr)
      (s.thermDv h dt8 v q) (s.thermDE h (s.thermDv h dt8 v q) tf tr p) (if s.thermSmall h dt8 q then n0 else q) := by
  have hsmall : (s.begun u).thermSmall h dt8 q = s.thermSmall h dt8 q := rfl
  have hdv : (s.begun u).thermDv h dt8 v q = s.thermDv h dt8 v q := rfl
  have hwarm : (s.begun u).thermWarm h tf tr = s.thermWarm h tf tr := rfl
  have hdE : ∀ x, (s.begun u).thermDE h x tf tr p = s.thermDE h x tf tr p := fun _ => rfl
  rw [hsmall, hdv, hwarm, hdE] at ha
  exact ⟨ha.fault, ha.shown, ha.flow, fun hz => (ha.volume hz).trans (metReg_metAdd_congr _ rfl rfl rfl),
    fun hz hw => (ha.energy hz hw).trans (metReg_metAdd_congr _ rfl rfl rfl), ha.held⟩

theorem inRange_iff {x y : Num} : ((nle n0 x && nle x (nint 180)) && (nle n0 y && nle y (nint 180))) = true
    ↔ (nle n0 x = true ∧ nle x (nint 180) = true) ∧ (nle n0 y = true ∧ nle y (nint 180) = true) := by
  simp only [Bool.and_eq_true]

end

/-- Settles O41: each clause is a property of the one unit's step on the state after its entry was issued. -/
theorem metersTakeTheirFrames : Obligations.MetersTakeTheirFrames := by
  unfold Obligations.MetersTakeTheirFrames
  refine ⟨fun arg stuck samples s hs ht => modLatch_latches hs ht, fun arg p s hs ht hi hp => ⟨fun hoff => ?_, fun hen => ?_⟩, fun arg ns h s ht hi hh => ?_⟩
  · refine runs_intro (exec_emetClose ht hi) ?_
    rw [emetClose_off (s := s.begun 0x07) hoff]
    exact begun_only s _
  · refine runs_intro (exec_emetClose ht hi) ?_
    have h := emetClose_closes (s := s.begun 0x07) hp hs.pts hen
    exact ⟨h.latch, h.due, h.takes, h.idle, h.window, h.ended, h.runs, h.first⟩
  · intro now cnt dt8 on inRange held
    have heq := exec_hmetClose ht hi
    have hclose := fun hon : on => hmetClose_closes (s := s.begun 0x07) (ns := ns) hh hon.1 hon.2
    have hheld : ∀ t, ThermalHeld (s.begun 0x07) t h → held t := fun t ht => ⟨ht.fault, ht.shown, ht.power, ht.words, ht.told⟩
    refine ⟨fun hoff => ?_, fun hon => runs_intro heq ⟨(hclose hon).at_, (hclose hon).count⟩, fun hon hf => runs_intro heq (hheld _ ((hclose hon).failed hf)),
      fun v q tf tr p hon h1 h2 h3 h4 => ?_⟩
    · refine runs_intro heq ?_
      rw [hmetClose_off (s := s.begun 0x07) hoff]
      exact begun_only s _
    · intro small moved back cold warm dE
      obtain ⟨hfail, hadd⟩ := (hclose hon).judged v q tf tr p h1 h2 h3 h4
      have hdt : (s.begun 0x07).thermDt h ns = dt8 := rfl
      rw [hdt] at hadd
      refine runs_intro heq ⟨fun hr => hheld _ (hfail ?_), fun hr => (hadd (inRange_iff.2 hr)).of_begun.words⟩
      exact Bool.eq_false_iff.2 fun h => hr (inRange_iff.1 h)

end Sys2Proof.Machine
end

section
/-! ### Programs run: what an execution leaves alone (R376, R380, R385 to R387) -/

namespace Sys2Proof.Machine

/-- The counters of a CPE that only the end of an execution moves: its runtime errors and the runs of its tasks. -/
def cpeWord (p a : Nat) : Prop := a = 0x21080 + 0x1000 * p ∨ ∃ j, j < 5 ∧ a = 0x2109C + 0x1000 * p + 8 * j

/-- All registers but those counters, and all tables but instance data, may change. -/
def CpeNear (p : Nat) (s t : State) : Prop := Near (fun a => ¬ cpeWord p a) (fun tid => tid ≠ pt p 1) s t

section
variable {p : Nat} (hp : p < 2)

theorem not_cpeWord_of_evReg {pg a : Nat} (h : evReg pg a) : ¬ cpeWord p a := by
  rintro (rfl | ⟨j, hj, rfl⟩)
  all_goals
    unfold evReg at h
    simp only [addrOf_eq, pageOf_eq] at h
    omega

theorem not_cpeWord_of_icuReg {a : Nat} (h : icuReg a) : ¬ cpeWord p a := by
  rintro (rfl | ⟨j, hj, rfl⟩)
  all_goals
    unfold icuReg at h
    omega

include hp

theorem not_cpeWord_of_range {a : Nat} (h : a < 0x21000 ∨ 0x23000 ≤ a) : ¬ cpeWord p a := by
  rintro (rfl | ⟨j, hj, rfl⟩) <;> omega

omit hp in
theorem pt_ne_of_evTbl {x : Nat} (h : evTbl x) : x ≠ pt p 1 := by
  unfold evTbl at h
  unfold pt
  omega

omit hp in
theorem le_tkeyTid (t i w : Nat) : t ≤ tkeyTid (tkey t i w) := by
  unfold tkeyTid tkey
  omega

omit hp in
/-- Words of a table that lies above instance data. -/
theorem pt_ne_of_above {t i w : Nat} (h : pt p 1 < t) : tkeyTid (tkey t i w) ≠ pt p 1 := by
  have := le_tkeyTid t i w
  omega

theorem pt_lt_log : pt p 1 < 0x2601 := by
  unfold pt
  omega

/-! #### Requests of privileged channels -/

section
variable {s t : State}

omit hp in
theorem cpeNear_raiseEv {pg b : Nat} (h : CpeNear p s t) (hpg : pg < 2 ^ 23) : CpeNear p s (t.raiseEv pg b) :=
  near_raiseEv h hpg (fun _ => not_cpeWord_of_evReg) fun _ => pt_ne_of_evTbl

theorem cpeNear_privEnd (r : PrivReq) (o : Nat) (h : CpeNear p s t) : CpeNear p s (t.privEnd r o) := by
  unfold State.privEnd State.chShow
  extract_lets s1 s2 s3
  have hst : ∀ lo w, ¬ cpeWord p (chStat r.ch lo w).addr := fun lo w => not_cpeWord_of_range hp (.inr (by simp only [chStat]; omega))
  have h1 : CpeNear p s s1 := near_same h rfl rfl
  have h3 : CpeNear p s s3 := near_setF (near_setF (near_ite' (near_tset h1 (pt_ne_of_above (pt_lt_log hp))) h1) (hst _ _)) (hst _ _)
  exact near_ite' (near_bumpW h3 (not_cpeWord_of_range hp (.inr (by decide))) rfl) (near_ite' (cpeNear_raiseEv
    (near_bump h3 (not_cpeWord_of_range hp (.inr (by decide))) (not_cpeWord_of_range hp (.inr (by decide)))) (by decide)) h3)

theorem cpeNear_privFired {n : Nat} {late missed : Bool} {b : LateBy} {i : Nat × Nat} (h : CpeNear p s t) : CpeNear p s (t.privFired n late missed b i) := by
  unfold State.privFired
  split
  · exact h
  · extract_lets s1 s2
    have h1 : CpeNear p s s1 := near_ite' (cpeNear_raiseEv (near_bump h (not_cpeWord_of_range hp (.inr (by decide)))
      (not_cpeWord_of_range hp (.inr (by decide)))) (by decide)) h
    have h2 : CpeNear p s s2 := by
      refine near_ite' h1 ?_
      unfold State.logReleased
      exact near_ite' (near_twr (near_twr h1 (pt_ne_of_above (pt_lt_log hp))) (pt_ne_of_above (pt_lt_log hp))) h1
    exact cpeNear_privEnd hp _ _ h2

theorem cpeNear_lnchAct {a : LnchArm} {off : Nat} (ha : a.tgt < 256) (h : CpeNear p s t) : CpeNear p s (t.lnchAct a off) := by
  have hdo : ∀ o on, CpeNear p s (t.doLaunch o on) := fun o on => near_setB h (not_cpeWord_of_range hp (.inl (by simp [doCmd])))
  unfold State.lnchAct
  split
  · exact near_ite' h (hdo _ _)
  · exact near_ite' h (hdo _ _)
  · exact near_ite' h (near_setF h (not_cpeWord_of_range hp (.inl (by dsimp only; omega))))
  · exact near_ite' h (near_pwmStart (near_setF h (not_cpeWord_of_range hp (.inl (by dsimp only; omega)))))
  · split
    · exact h
    · extract_lets act tgt
      exact near_ite' (near_dioMod (near_setB h (not_cpeWord_of_range hp (.inr (by simp [privTripped]))))) (hdo _ _)
  · exact h

theorem cpeNear_lnchLate {a : LnchArm} {late off : Nat} {b : LateBy} {i : Nat × Nat} (hn : a.n < 64) (ha : a.tgt < 256) (h : CpeNear p s t) :
    CpeNear p s (t.lnchLate a late b off i) := by
  have hreg : ∀ o, o < 16 → ¬ cpeWord p (lnchReg a.n o) := fun o ho => not_cpeWord_of_range hp (.inl (by
    unfold lnchReg
    omega))
  have hend : ∀ {u : State}, CpeNear p s u → CpeNear p s (u.lnchEnd a.n) := fun {u} hu =>
    near_setB (near_same hu rfl rfl) (hreg 12 (by decide))
  have hfire : ∀ {u : State} (l : Bool), CpeNear p s u → CpeNear p s (u.lnchFire a l b off i) := fun {u} l hu => by
    have h1 : CpeNear p s (((u.lnchEnd a.n).setB (lnchStat a.n 23) true).lnchAct a off) :=
      cpeNear_lnchAct hp ha (near_setB (hend hu) (hreg 12 (by decide)))
    unfold State.lnchFire
    extract_lets s1 s2
    have h2 : CpeNear p s s2 := near_ite' (cpeNear_raiseEv (near_bump (near_setB h1 (hreg 12 (by decide)))
      (not_cpeWord_of_range hp (.inl (by decide))) (not_cpeWord_of_range hp (.inl (by decide)))) (by decide)) h1
    exact near_signal (cpeNear_privFired hp h2) (by omega) (fun _ => not_cpeWord_of_icuReg) (pt_ne_of_evTbl (.inl rfl))
  unfold State.lnchLate
  extract_lets s1 grace s2
  have h1 : CpeNear p s s1 := near_setF h (hreg 12 (by decide))
  have h2 : CpeNear p s s2 := cpeNear_raiseEv (near_bump (near_setB (hend h1) (hreg 12 (by decide)))
    (not_cpeWord_of_range hp (.inl (by decide))) (not_cpeWord_of_range hp (.inl (by decide)))) (by decide)
  exact near_ite' (hfire false h1) (near_ite' (hfire true h1) (cpeNear_privFired hp h2))

theorem cpeNear_lnchArm {n off : Nat} (hn : n < 64) (h : CpeNear p s t) : CpeNear p s (t.lnchArm n off) := by
  have hreg : ∀ o, o < 16 → ¬ cpeWord p (lnchReg n o) := fun o ho => not_cpeWord_of_range hp (.inl (by
    unfold lnchReg
    omega))
  unfold State.lnchArm
  extract_lets was act a st s1 s2 s3 d
  have h2 : CpeNear p s s2 := near_same (near_wr h (hreg 12 (by decide))) rfl rfl
  have h3 : CpeNear p s s3 := near_ite' (cpeNear_raiseEv (near_setB h2 (hreg 12 (by decide))) (by decide)) h2
  exact near_ite' h3 (cpeNear_lnchLate hp hn (wbits_lt _ _ _) h3)

omit hp in
theorem freeComp_lt (s : State) (ch : Nat) : (s.freeComp ch).getD 0 < 64 := by
  cases h : s.freeComp ch with
  | none => decide
  | some n => exact List.mem_range.1 (List.mem_of_find?_eq_some h)

theorem cpeNear_privArmComp {r : PrivReq} {off : Nat} (hr : r.comp < 64) (h : CpeNear p s t) : CpeNear p s (t.privArmComp r off) := by
  have hput : ∀ {u : State} (o : Nat) (v : Word), o < 16 → CpeNear p s u →
      CpeNear p s { u.wr (lnchReg r.comp o) v with shadow := smErase u.shadow (lnchReg r.comp o) } := fun {u} o v ho hu =>
    near_same (near_wr hu (not_cpeWord_of_range hp (.inl (by
      unfold lnchReg
      omega)))) rfl rfl
  unfold State.privArmComp
  exact cpeNear_lnchArm hp hr (hput 8 _ (by decide) (hput 4 _ (by decide) (hput 0 _ (by decide) h)))

theorem cpeNear_privLog (ws : List Word) (h : CpeNear p s t) : CpeNear p s (t.privLog ws) := by
  unfold State.privLog
  exact near_setF (near_trecSet h fun j _ _ => pt_ne_of_above (pt_lt_log hp)) (not_cpeWord_of_range hp (.inr (by decide)))

omit hp in
/-- An acceptance puts a request on its channel, and arms the comparator that is free for it. -/
theorem privAccept_shape (s : State) (src off : Nat) (w : List Word) (seq : Nat) : ∃ (ws : List Word) (f : PrivSt → PrivSt) (r : PrivReq) (ch : Nat),
    (s.privAccept src seq w off).1 = (if s.chClass ch = 1 then (s.takenOn ws f ch seq).privArmComp r off else s.takenOn ws f ch seq) ∧ r.comp < 64 := by
  unfold State.privAccept
  extract_lets ch cls timed paths port t b lt sec ns bl slot r s1 s2 s3 s4
  exact ⟨_, _, r, ch, rfl, freeComp_lt _ _⟩

theorem not_cpeWord_chStat (ch lo n : Nat) : ¬ cpeWord p (chStat ch lo n).addr := not_cpeWord_of_range hp (.inr (by simp only [chStat]; omega))

theorem cpeNear_takenOn (ws : List Word) (f : PrivSt → PrivSt) (ch seq : Nat) (h : CpeNear p s t) : CpeNear p s (t.takenOn ws f ch seq) := by
  unfold State.takenOn State.chShow
  have h2 : CpeNear p s ((t.privLog ws).privMod f) := near_same (cpeNear_privLog hp _ h) rfl rfl
  exact near_setF (near_setF (near_wr (near_bumpW h2 (not_cpeWord_of_range hp (.inr (by decide))) rfl)
    (not_cpeWord_of_range hp (.inr (by omega)))) (not_cpeWord_chStat hp _ _ _)) (not_cpeWord_chStat hp _ _ _)

theorem cpeNear_privRequest (own : Bool) (src : Nat) (w : List Word) (off : Nat) (h : CpeNear p s t) : CpeNear p s (t.privRequest own src w off).1 := by
  have h1 : CpeNear p s (t.noteVerdict (t.verdictOf own src w off)) := near_same h rfl rfl
  by_cases hv : (t.verdictOf own src w off).code = 0
  · rw [privRequest_accepted (s := t) own src off w rfl hv]
    obtain ⟨ws, f, r, ch, he, hr⟩ := privAccept_shape (t.noteVerdict (t.verdictOf own src w off)) src off w (t.verdictOf own src w off).seq
    dsimp only
    rw [he]
    exact near_ite' (cpeNear_privArmComp hp hr (cpeNear_takenOn hp _ _ _ _ h1)) (cpeNear_takenOn hp _ _ _ _ h1)
  · rw [privRequest_refused (s := t) own src off w rfl hv]
    dsimp only
    unfold State.privRefuse
    exact cpeNear_raiseEv (near_bump (near_setF (near_wr (cpeNear_privLog hp _ h1) (not_cpeWord_of_range hp (.inr (by decide))))
      (not_cpeWord_chStat hp _ _ _)) (not_cpeWord_of_range hp (.inr (by decide))) (not_cpeWord_of_range hp (.inr (by decide)))) (by decide)

theorem cpeNear_request {q : Nat} (hq : q < 2) (w : List Word) (off : Nat) (h : CpeNear p s t) : CpeNear p s (t.cpeRequest q w off) := by
  have hreg : ∀ i, ¬ cpeWord p (0x260C0 + 64 * q + i) := fun i => not_cpeWord_of_range hp (.inr (by omega))
  unfold State.cpeRequest
  extract_lets base s1 r
  have h1 : CpeNear p s s1 := near_foldl h fun u i _ hu => near_wr hu (hreg _)
  have hr : CpeNear p s r.1 := cpeNear_privRequest hp _ _ _ _ h1
  exact near_wr (near_ite' (near_wr hr (hreg _)) hr) (hreg _)

end
end
end Sys2Proof.Machine
end

section
/-! #### An execution, and the writing of its outputs (R376, R380) -/

namespace Sys2Proof.Machine

/-- What an execution of CPE `p` and the writing of its outputs leave alone: instance data, the counters of its end, and the tasks that have not
completed. -/
structure VmKept (p : Nat) (s t : State) : Prop where
  near : CpeNear p s t
  stale : (t.cpeP p).stale = (s.cpeP p).stale
  len : t.cpe.length = s.cpe.length

section
variable {p : Nat}

theorem VmKept.refl (p : Nat) (s : State) : VmKept p s s := ⟨Near.refl _ _ s, rfl, rfl⟩

theorem VmKept.trans {s t u : State} (h : VmKept p s t) (h' : VmKept p t u) : VmKept p s u :=
  ⟨h.near.trans h'.near, h'.stale.trans h.stale, h'.len.trans h.len⟩

theorem vmKept_of_near {s t : State} (hn : CpeNear p s t) (hc : t.cpe = s.cpe) : VmKept p s t := ⟨hn, by unfold State.cpeP; rw [hc], by rw [hc]⟩

theorem cpeP_cpeMod_self {s : State} {f : CpeSt → CpeSt} (h : p < s.cpe.length) : (s.cpeMod p f).cpeP p = f (s.cpeP p) :=
  (modAt_getD ..).trans (if_pos ⟨rfl, h⟩)

theorem cpeP_cpeMod_other {s : State} {q : Nat} {f : CpeSt → CpeSt} (h : q ≠ p) : (s.cpeMod p f).cpeP q = s.cpeP q :=
  (modAt_getD ..).trans (if_neg fun hc => h hc.1)

theorem vmKept_cpeMod {s : State} (f : CpeSt → CpeSt) (hf : ∀ c, (f c).stale = c.stale) : VmKept p s (s.cpeMod p f) :=
  ⟨near_same (Near.refl _ _ s) rfl rfl, by
    by_cases h : p < s.cpe.length
    · rw [cpeP_cpeMod_self h]
      exact hf _
    · exact congrArg CpeSt.stale ((modAt_getD ..).trans (if_neg fun hc => h hc.2)), modAt_length ..⟩

/-! ##### What a kept state shows -/

theorem VmKept.instByte {s t : State} (h : VmKept p s t) {off : Nat} (ho : off < 2 ^ 21) : t.instByte p off = s.instByte p off := by
  unfold State.instByte State.tfld
  rw [trd_of_tblBut h.near.tbl (by omega) (by omega) (fun hc => hc rfl)]

theorem VmKept.runs {s t : State} (h : VmKept p s t) {j : Nat} (hj : j < 5) :
    t.fld ((Ctr.CPE0_TASK_RUN j).shift p).f = s.fld ((Ctr.CPE0_TASK_RUN j).shift p).f :=
  fld_of_rd (h.near.regs _ fun hc => hc (.inr ⟨j, hj, by simp only [Ctr.shift, Fld.shift, Ctr.CPE0_TASK_RUN]; omega⟩))

theorem VmKept.errors {s t : State} (h : VmKept p s t) : t.fld (Ctr.CPE0_RTF.shift p).f = s.fld (Ctr.CPE0_RTF.shift p).f :=
  fld_of_rd (h.near.regs _ fun hc => hc (.inl (by simp only [Ctr.shift, Fld.shift, Ctr.CPE0_RTF])))

/-! ##### Errors, requests and library blocks -/

theorem not_cpeWord_page {off : Nat} (h : off ∈ [0x10, 0x28, 0x74, 0x78, 0x7C, 0x90]) : ¬ cpeWord p (0x21000 + 0x1000 * p + off) := by
  simp only [List.mem_cons, List.not_mem_nil, or_false] at h
  rintro (hc | ⟨j, hj, hc⟩) <;> omega

variable (hp : p < 2)
include hp

theorem vmKept_errQ (s : State) (cause arg sub : Nat) : VmKept p s (s.errQ p cause arg sub) := by
  have hreg : ∀ {a off : Nat}, a = 0x21000 + 0x1000 * p + off → off ∈ [0x10, 0x28, 0x74, 0x78, 0x7C, 0x90] → ¬ cpeWord p a := fun ha ho =>
    ha ▸ not_cpeWord_page ho
  have hbump : ∀ {u : State} (c : Ctr), c = .CPE0_ERR ∨ c = .CPE0_ERRQ_LOST → VmKept p s u → VmKept p s (u.cpeBump p c) := fun {u} c hc hu =>
    hu.trans (vmKept_of_near (by
      unfold State.cpeBump
      rcases hc with rfl | rfl
      · exact near_bump (Near.refl _ _ u) (hreg (off := 0x78) (by simp only [Ctr.shift, Fld.shift, Ctr.CPE0_ERR]; omega) (by decide))
          (hreg (off := 0x90) (by simp only [Ctr.shift, Ctr.CPE0_ERR]; omega) (by decide))
      · exact near_bump (Near.refl _ _ u) (hreg (off := 0x7C) (by simp only [Ctr.shift, Fld.shift, Ctr.CPE0_ERRQ_LOST]; omega) (by decide))
          (hreg (off := 0x90) (by simp only [Ctr.shift, Ctr.CPE0_ERRQ_LOST]; omega) (by decide))) (cpe_bump ..))
  have hraise : ∀ {u : State} (b : Nat), VmKept p s u → VmKept p s (u.raiseEv (cpePage p) b) := fun {u} b hu =>
    hu.trans (vmKept_of_near (cpeNear_raiseEv (Near.refl _ _ u) (by unfold cpePage; omega)) (cpe_raiseEv ..))
  unfold State.errQ
  extract_lets q dup s1 i u1 u2
  split
  · exact .refl p s
  · split
    · have h1 : VmKept p s s1 := hbump _ (.inr rfl) (.refl p s)
      split
      · exact h1
      · exact hraise _ (h1.trans (vmKept_cpeMod _ fun _ => rfl))
    · have h1 : VmKept p s u1 := vmKept_of_near (near_trecSet (Near.refl _ _ s) fun j _ _ => pt_ne_of_above (by unfold pt; omega))
        (trecSet_keeps (T := [.tbl]) (Keeps.refl _ s) (List.Subset.refl _) |>.only .cpe (by decide))
      have h2 : VmKept p s u2 := h1.trans (vmKept_cpeMod _ fun _ => rfl)
      exact hraise _ (hbump _ (.inl rfl) (h2.trans (vmKept_of_near (near_wr (Near.refl _ _ u2) (hreg (off := 0x74) rfl (by decide))) (cpe_wr ..))))

theorem vmKept_xbarViol (s : State) (eng : Nat) (a : Word) : VmKept p s (s.xbarViol eng a) := by
  unfold State.xbarViol
  refine vmKept_of_near (cpeNear_raiseEv (near_bump (near_wr (near_setF (Near.refl _ _ s) ?_) ?_) ?_ ?_) (by decide)) (by simp)
  all_goals exact not_cpeWord_of_range hp (.inr (by decide))

theorem vmKept_refused (s : State) (eng task : Nat) (a : Word) : VmKept p s ((s.xbarViol eng a).errQ p 4 task 0) :=
  (vmKept_xbarViol hp s eng a).trans (vmKept_errQ hp _ _ _ _)

theorem vmKept_cpePut (s : State) (i : Nat) (it : Item) (task : Nat) : VmKept p s (s.cpePut p i it task) := by
  unfold State.cpePut
  extract_lets n
  split
  · exact vmKept_refused hp s _ _ _
  · exact vmKept_of_near (near_same (Near.refl _ _ s) rfl rfl) rfl

theorem vmKept_cpeOutputs (s : State) : VmKept p s (s.cpeOutputs p) := by
  unfold State.cpeOutputs
  extract_lets forced
  suffices h : ∀ (l : List (Nat × Nat)) (u : State), VmKept p s u → VmKept p s (l.foldl (fun a e =>
      match s.varOf p 0 e.1 with
      | some v =>
        let it := bytesItem v.typ (s.instBytes p v.off v.size)
        let st := if forced.contains v.id then FORCED
          else if (s.cpeP p).stale.contains v.task then STALEQ else it.st
        a.cpePut p e.2 { it with st := st } v.task
      | none => a) u) from h _ s (.refl p s)
  intro l
  induction l with
  | nil => exact fun _ hu => hu
  | cons e l ih =>
    refine fun u hu => ih _ (hu.trans ?_)
    dsimp only
    split
    · exact vmKept_cpePut hp u _ _ _
    · exact .refl p u

theorem vmKept_tcmdAsk (s : State) (task : Nat) (r : TcmdReq) : VmKept p s (s.tcmdAsk p task r) := by
  unfold State.tcmdAsk
  extract_lets n
  split
  · exact vmKept_refused hp s _ _ _
  · exact vmKept_cpeMod _ fun _ => rfl

theorem vmKept_tcmdBlk (s : State) (task inst : Nat) (i : Nat → Nat → Nat) (o : List Nat) (rise : Bool) : VmKept p s (tcmdBlk p task inst i o rise s).1 := by
  unfold tcmdBlk
  split
  · split
    · exact .refl p s
    · exact vmKept_tcmdAsk hp s _ _
  · split
    · exact .refl p s
    · exact vmKept_cpeMod _ fun _ => rfl

theorem vmKept_privBlk (s : State) (i : Nat → Nat → Nat) (o : List Nat) (rise : Bool) (at_ : Nat) : VmKept p s (privBlk p i o rise at_ s).1 := by
  unfold privBlk
  split
  · exact vmKept_of_near (cpeNear_request hp hp _ _ (Near.refl _ _ s))
      ((cpeRequest_keeps (Keeps.refl _ s) (List.Subset.refl _)).only .cpe (by decide))
  · exact .refl p s

/-! ##### The engine's steps -/

omit hp in
theorem s_puts (c : CpeCtx) (v : CpeVm) (l : List (Nat × Nat × Nat)) : (v.puts c l).s = v.s := by
  unfold CpeVm.puts
  induction l generalizing v with
  | nil => rfl
  | cons e l ih => exact (ih (v.put c e.1 e.2.1 e.2.2)).trans rfl

omit hp in
theorem s_setReg (v : CpeVm) (r : Nat) (x : BitVec 64) : (v.setReg r x).s = v.s := by
  unfold CpeVm.setReg
  split <;> rfl

omit hp in
theorem s_branch (c : CpeCtx) (v : CpeVm) (off : BitVec 64) : (v.branch c off).1.s = v.s := by
  unfold CpeVm.branch
  extract_lets t
  split <;> rfl

theorem vmKept_block {c : CpeCtx} (hc : c.p = p) (v : CpeVm) (code base : Nat) : VmKept p v.s (v.block c code base).s := by
  unfold CpeVm.block
  extract_lets offs vars n i o inst old el rise r b v1
  rw [show ∀ x : CpeVm, (x.executed c base).s = x.s from fun _ => rfl, s_puts]
  show VmKept p v.s r.1
  unfold r CpeVm.blkRun
  split
  · exact hc ▸ vmKept_tcmdBlk (hc.symm ▸ hp) v.s ..
  · split
    · exact hc ▸ vmKept_privBlk (hc.symm ▸ hp) v.s ..
    · split <;> exact .refl p v.s

theorem vmKept_does {c : CpeCtx} (hc : c.p = p) (v : CpeVm) (w : Nat) (o : CpeOp) : VmKept p v.s (v.does c w o).1.s := by
  have hsame : ∀ {x : CpeVm}, x.s = v.s → VmKept p v.s x.s := fun h => h ▸ .refl p v.s
  have hblk : ∀ code base, VmKept p v.s (v.block c code base).next.s := fun code base => vmKept_block hp hc v code base
  have hres : ∀ d x, (v.setReg d x).next.s = v.s := fun d x => s_setReg v d x
  unfold CpeVm.does
  extract_lets a b d res addr
  cases o with
  | jump => exact hsame (s_branch ..)
  | branchZero =>
    dsimp only
    split
    · exact hsame (s_branch ..)
    · exact hsame rfl
  | branchNonzero =>
    dsimp only
    split
    · exact hsame (s_branch ..)
    · exact hsame rfl
  | endTask => exact hsame rfl
  | load k sg =>
    dsimp only
    split
    · exact hsame (hres _ _)
    · exact hsame rfl
  | store k =>
    dsimp only
    split <;> exact hsame rfl
  | readSlot =>
    dsimp only
    split
    · exact hsame (hres _ _)
    · exact hsame rfl
  | writeSlot =>
    dsimp only
    split <;> exact hsame rfl
  | int f k sg =>
    dsimp only
    split
    · exact hsame (hres _ _)
    · exact hsame rfl
  | f32 f => exact hsame (hres _ _)
  | f64 f => exact hsame (hres _ _)
  | cmp r t => exact hsame (hres _ _)
  | cvt s t => exact hsame (hres _ _)
  | const high =>
    dsimp only
    split
    · exact hsame rfl
    · exact hsame (s_setReg ..)
  | svc =>
    dsimp only
    split
    · exact hsame rfl
    · split
      · exact hblk _ _
      · exact hsame rfl
  | call =>
    dsimp only
    split
    · exact hsame rfl
    · split
      · split
        · exact hblk _ _
        · exact hsame rfl
      · split
        · exact hsame rfl
        · split
          · exact hsame rfl
          · split
            · exact hsame (s_branch ..)
            · exact hsame (s_branch ..)
  | ret =>
    dsimp only
    split <;> exact hsame rfl

theorem vmKept_instr {c : CpeCtx} (hc : c.p = p) (v : CpeVm) : VmKept p v.s (v.instr c).1.s := by
  unfold CpeVm.instr
  split
  · exact .refl p v.s
  · split
    · exact .refl p v.s
    · exact vmKept_does hp hc v _ _

theorem vmKept_go {c : CpeCtx} (hc : c.p = p) (n : Nat) (v : CpeVm) : VmKept p v.s (CpeVm.go c n v).1.s := by
  induction n generalizing v with
  | zero => exact .refl p v.s
  | succ n ih =>
    have h1 := vmKept_instr hp hc v
    unfold CpeVm.go
    split
    · next v1 he =>
      rw [he] at h1
      exact h1.trans (ih v1)
    · next v1 e he =>
      rw [he] at h1
      exact h1

end
end Sys2Proof.Machine
end

section
/-! #### The end of an execution (R380, R383) -/

namespace Sys2Proof.Machine

section
variable {p : Nat}

/-! ##### The commit of a journal -/

/-- A byte of instance data put elsewhere leaves a byte as it is. -/
theorem instByte_instPut_other {s : State} {off o v : Nat} (h : o ≠ off) : (s.instPut p o v).instByte p off = s.instByte p off := by
  unfold State.instPut State.instByte
  refine tfld_tset_ne _ _ _ _ _ _ _ _ _ _ _ _ ?_
  unfold tkey
  omega

theorem instByte_instPuts_other (l : List (Nat × Nat)) (s : State) {off : Nat} (h : ∀ e ∈ l, e.1 ≠ off) :
    (l.foldl (fun a e => a.instPut p e.1 e.2) s).instByte p off = s.instByte p off := by
  induction l generalizing s with
  | nil => rfl
  | cons e l ih =>
    exact (ih _ fun x hx => h x (List.mem_cons_of_mem _ hx)).trans (instByte_instPut_other (h e List.mem_cons_self))

theorem instPut_foldl_keeps (l : List (Nat × Nat)) (s : State) : Keeps [.tbl] s (l.foldl (fun a e => a.instPut p e.1 e.2) s) := by
  induction l generalizing s with
  | nil => exact Keeps.refl _ s
  | cons e l ih => exact (tset_keeps (Keeps.refl _ s) (List.Subset.refl _)).trans (ih (s.instPut p e.1 e.2))

/-- A commit changes instance data, and the library blocks. -/
theorem commit_shows {c : CpeCtx} (v : CpeVm) (hc : c.p = p) : (v.commit c).regs = v.s.regs ∧ ((v.commit c).cpeP p).stale = (v.s.cpeP p).stale
    ∧ (v.commit c).cpe.length = v.s.cpe.length
    ∧ ∀ off, (∀ e ∈ v.mem, e.1 ≠ off) → (v.commit c).instByte p off = v.s.instByte p off := by
  subst hc
  unfold CpeVm.commit
  have hk := instPut_foldl_keeps (p := c.p) v.mem.reverse v.s
  have hcpe : (v.mem.reverse.foldl (fun a e => a.instPut c.p e.1 e.2) v.s).cpe = v.s.cpe := hk.only .cpe (by decide)
  have hmod := vmKept_cpeMod (p := c.p) (s := v.mem.reverse.foldl (fun a e => a.instPut c.p e.1 e.2) v.s) (fun x => { x with blks := v.blks }) fun _ => rfl
  refine ⟨hk.only .regs (by decide), hmod.stale.trans (by unfold State.cpeP; rw [hcpe]), hmod.len.trans (by rw [hcpe]), fun off h => ?_⟩
  exact instByte_instPuts_other v.mem.reverse v.s fun e he => h e (List.mem_reverse.1 he)

/-! ##### The event of a runtime error -/

/-- RUNTIME_ERROR stays pending. -/
def FaultPends (p : Nat) (s t : State) : Prop := s.bit (bitAt (0x21010 + 0x1000 * p) 7) = true → t.bit (bitAt (0x21010 + 0x1000 * p) 7) = true

theorem faultPends_of_rd {s t : State} (h : t.rd (0x21010 + 0x1000 * p) = s.rd (0x21010 + 0x1000 * p)) : FaultPends p s t := fun hs =>
  (bit_of_rd (f := bitAt (0x21010 + 0x1000 * p) 7) h).trans hs

theorem faultPends_of_regs {s t : State} (h : t.regs = s.regs) : FaultPends p s t := fun hs => (bit_of_regs h _).trans hs

theorem FaultPends.trans {s t u : State} (h : FaultPends p s t) (h' : FaultPends p t u) : FaultPends p s u := fun hs => h' (h hs)

variable (hp : p < 2)
include hp

theorem faultPends_raiseEv (s : State) {q : Nat} (hq : q < 2 ^ 23) (b : Nat) : FaultPends p s (s.raiseEv q b) := fun hs =>
  bit_raiseEv_stays (p := 0x21 + p) hq (by omega) (by omega) (by simp only [addrOf_eq]; omega) hs

omit hp in
theorem faultPends_cpeBump (s : State) {c : Ctr} (h1 : c.f.addr ≠ 0x21010) (h2 : c.ovf.1 ≠ 0x21010) : FaultPends p s (s.cpeBump p c) := by
  refine faultPends_of_rd (rd_bump ?_ ?_)
  · simp only [Ctr.shift, Fld.shift]
    omega
  · simp only [Ctr.shift]
    omega

theorem faultPends_errQ (s : State) (cause arg sub : Nat) : FaultPends p s (s.errQ p cause arg sub) := by
  have hpage : cpePage p < 2 ^ 23 := by unfold cpePage; omega
  unfold State.errQ
  extract_lets q dup s1 i u1 u2
  split
  · exact id
  · split
    · have h1 : FaultPends p s s1 := faultPends_cpeBump s (by decide) (by decide)
      split
      · exact h1
      · exact (h1.trans (faultPends_of_regs (regs_cpeMod ..))).trans (faultPends_raiseEv hp _ hpage 5)
    · have h2 : FaultPends p s u2 := faultPends_of_regs ((regs_cpeMod ..).trans (regs_trecSet ..))
      have h3 : FaultPends p u2 (u2.wr (pfld p 0x74 0 32).addr (BitVec.ofNat 32 (cause * 2 ^ 24 + sub * 2 ^ 16 + arg))) :=
        faultPends_of_rd (rd_wr_apart (by simp only [pfld]; omega))
      exact ((h2.trans h3).trans (faultPends_cpeBump _ (by decide) (by decide))).trans (faultPends_raiseEv hp _ hpage 4)

theorem faultPends_xbarViol (s : State) (eng : Nat) (a : Word) : FaultPends p s (s.xbarViol eng a) := by
  unfold State.xbarViol
  refine FaultPends.trans (faultPends_of_rd ?_) (faultPends_raiseEv hp _ (by decide) 0)
  rw [rd_bump (by simp only [Ctr.HLTH_XBAR]; omega) (by simp only [Ctr.HLTH_XBAR]; omega), rd_wr_apart (by omega), rd_setF_apart (by dsimp only; omega)]

theorem faultPends_cpeOutputs (s : State) : FaultPends p s (s.cpeOutputs p) := by
  have hput : ∀ (u : State) (i : Nat) (it : Item) (task : Nat), FaultPends p u (u.cpePut p i it task) := fun u i it task => by
    unfold State.cpePut
    extract_lets n
    split
    · exact (faultPends_xbarViol hp u _ _).trans (faultPends_errQ hp _ _ _ _)
    · exact faultPends_of_regs (regs_mbxMod ..)
  unfold State.cpeOutputs
  extract_lets forced
  suffices h : ∀ (l : List (Nat × Nat)) (u : State), FaultPends p s u → FaultPends p s (l.foldl (fun a e =>
      match s.varOf p 0 e.1 with
      | some v =>
        let it := bytesItem v.typ (s.instBytes p v.off v.size)
        let st := if forced.contains v.id then FORCED
          else if (s.cpeP p).stale.contains v.task then STALEQ else it.st
        a.cpePut p e.2 { it with st := st } v.task
      | none => a) u) from h _ s id
  intro l
  induction l with
  | nil => exact fun _ hu => hu
  | cons e l ih =>
    refine fun u hu => ih _ (hu.trans ?_)
    dsimp only
    split
    · exact hput u _ _ _
    · exact id

/-! ##### An execution's end -/

omit hp in
theorem vmKept_trigEnd (s : State) : VmKept p s (s.trigEnd p) := vmKept_cpeMod _ fun _ => rfl

/-- An execution that comes to its end (R380): its journal is committed, and its task is not STALE. -/
structure RunEnded (s t : State) (k : Nat) (c : State) : Prop where
  len : t.cpe.length = s.cpe.length
  stale : k ∉ (t.cpeP p).stale
  runs : ∀ j, j < 5 → t.fld ((Ctr.CPE0_TASK_RUN j).shift p).f = s.fld ((Ctr.CPE0_TASK_RUN j).shift p).f
  data : ∀ off, off < 2 ^ 21 → t.instByte p off = c.instByte p off

/-- An execution that ends in a fault (R383): instance data stay, its task is STALE, and the fault is counted and told. -/
structure RunFailed (s t : State) (k : Nat) : Prop where
  stale : k ∈ (t.cpeP p).stale
  event : t.bit (bitAt (0x21010 + 0x1000 * p) 7) = true
  runs : ∀ j, j < 5 → t.fld ((Ctr.CPE0_TASK_RUN j).shift p).f = s.fld ((Ctr.CPE0_TASK_RUN j).shift p).f
  errors : t.fld (Ctr.CPE0_RTF.shift p).f = min (2 ^ 32 - 1) (s.fld (Ctr.CPE0_RTF.shift p).f + 1)
  data : ∀ off, off < 2 ^ 21 → t.instByte p off = s.instByte p off

end
end Sys2Proof.Machine
end

section
/-! #### Task executions (R371, R379 to R381) -/

namespace Sys2Proof.Machine

section
variable {p : Nat} (hp : p < 2) {s : State} {k n : Nat}

theorem cpeBegin_begins (s : State) (p k : Nat) (sv : Option Nat) (r : CpeRun) : (s.cpeBegin p k sv r).1.p = p ∧ (s.cpeBegin p k sv r).2.s = s := ⟨rfl, rfl⟩

theorem vmKept_of_regs {s t : State} (hr : t.regs = s.regs) (ht : t.tbl = s.tbl) (hc : t.cpe = s.cpe) : VmKept p s t :=
  vmKept_of_near (near_same (Near.refl _ _ s) hr ht) hc

include hp

theorem vmKept_goFrom (sv : Option Nat) (r : CpeRun) : VmKept p s (CpeVm.go (s.cpeBegin p k sv r).1 n (s.cpeBegin p k sv r).2).1.s :=
  vmKept_go hp rfl n (s.cpeBegin p k sv r).2

theorem cpeRun_ends {sv : Option Nat} {r : CpeRun} {x : CpeVm × CpeStop × Nat}
    (hx : x = CpeVm.go (s.cpeBegin p k sv r).1 n (s.cpeBegin p k sv r).2) (hlen : p < s.cpe.length) (he : x.2.1 = .ended) :
    ∃ t, s.cpeRun p k sv r n = (t, some x.2.2) ∧ RunEnded s t k (x.1.commit (s.cpeBegin p k sv r).1) (p := p)
      ∧ ∀ off, (∀ e ∈ x.1.mem, e.1 ≠ off) → off < 2 ^ 21 → (x.1.commit (s.cpeBegin p k sv r).1).instByte p off = s.instByte p off := by
  have hvm : VmKept p s x.1.s := hx ▸ vmKept_goFrom hp sv r
  obtain ⟨hregs, hstale, hclen, hdata⟩ := commit_shows (p := p) x.1 (c := (s.cpeBegin p k sv r).1) rfl
  obtain ⟨c, hc⟩ : ∃ c, c = x.1.commit (s.cpeBegin p k sv r).1 := ⟨_, rfl⟩
  rw [← hc] at hregs hstale hclen hdata ⊢
  obtain ⟨u, hu⟩ : ∃ u, u = (c.cpeMod p (fun d => { d with wreg := x.1.regs })).cpeMod p (fun d => { d with
      stale := d.stale.filter (· != k)
      warm := (k :: d.warm).eraseDups }) := ⟨_, rfl⟩
  have hrun : s.cpeRun p k sv r n = ((u.cpeOutputs p).trigEnd p, some x.2.2) := by
    unfold State.cpeRun
    dsimp only
    rw [← hx, he, hu, hc]
  have hlen1 : c.cpe.length = s.cpe.length := hclen.trans hvm.len
  have h1 := vmKept_cpeMod (p := p) (s := c) (fun d => { d with wreg := x.1.regs }) fun _ => rfl
  have hustale : k ∉ (u.cpeP p).stale := by
    rw [hu, cpeP_cpeMod_self (by rw [h1.len, hlen1]; exact hlen)]
    simp
  have hulen : u.cpe.length = s.cpe.length := by
    rw [hu]
    exact (modAt_length ..).trans (h1.len.trans hlen1)
  have hout : VmKept p u ((u.cpeOutputs p).trigEnd p) := (vmKept_cpeOutputs hp u).trans (vmKept_trigEnd _)
  have hur : ∀ f : Fld, u.fld f = x.1.s.fld f := fun f => fld_of_regs ((show u.regs = c.regs by rw [hu]; rfl).trans hregs) f
  have hut : ∀ off, u.instByte p off = c.instByte p off := fun off => tfld_of_tbl (by rw [hu]; rfl) _ _ _ _ _
  exact ⟨_, hrun, ⟨hout.len.trans hulen, by rw [hout.stale]; exact hustale, fun j hj => (hout.runs hj).trans ((hur _).trans (hvm.runs hj)),
    fun off ho => (hout.instByte ho).trans (hut off)⟩, fun off hoff ho => (hdata off hoff).trans (hvm.instByte ho)⟩

theorem cpeRun_fails {sv : Option Nat} {r : CpeRun} {x : CpeVm × CpeStop × Nat} {f : Nat}
    (hx : x = CpeVm.go (s.cpeBegin p k sv r).1 n (s.cpeBegin p k sv r).2) (hlen : p < s.cpe.length) (he : x.2.1 = .fault f) :
    ∃ t, s.cpeRun p k sv r n = (t, some x.2.2) ∧ RunFailed s t k (p := p) := by
  have hvm : VmKept p s x.1.s := hx ▸ vmKept_goFrom hp sv r
  have hpage : cpePage p < 2 ^ 23 := by unfold cpePage; omega
  obtain ⟨v, hv⟩ : ∃ v, v = x.1.s.cpeMod p (fun d => { d with wreg := x.1.regs }) := ⟨_, rfl⟩
  obtain ⟨u, hu⟩ : ∃ u, u = (v.cpeBump p .CPE0_RTF).raiseEv (cpePage p) 7 := ⟨_, rfl⟩
  obtain ⟨w, hw⟩ : ∃ w, w = if k = 4 then u else u.errQ p 3 k f := ⟨_, rfl⟩
  obtain ⟨y, hy⟩ : ∃ y, y = w.cpeMod p (fun c => { c with stale := k :: c.stale.filter (· != k) }) := ⟨_, rfl⟩
  have hrun : s.cpeRun p k sv r n = ((y.cpeOutputs p).trigEnd p, some x.2.2) := by
    unfold State.cpeRun State.cpeStale
    dsimp only
    rw [← hx, he, hy, hw, hu, hv]
  have hv1 : VmKept p x.1.s v := hv ▸ vmKept_cpeMod _ fun _ => rfl
  have hsv := hvm.trans hv1
  have huc : u.cpe = v.cpe := by rw [hu, cpe_raiseEv]; exact cpe_bump ..
  have huw : VmKept p u w := by
    rw [hw]
    split
    · exact .refl p u
    · exact vmKept_errQ hp u 3 k f
  have huwp : FaultPends p u w := by
    rw [hw]
    split
    · exact id
    · exact faultPends_errQ hp u 3 k f
  have hout : VmKept p y ((y.cpeOutputs p).trigEnd p) := (vmKept_cpeOutputs hp y).trans (vmKept_trigEnd _)
  have hyr : y.regs = w.regs ∧ y.tbl = w.tbl := hy ▸ ⟨rfl, rfl⟩
  have hrtf : (Ctr.CPE0_RTF.shift p).f.addr = 0x21080 + 0x1000 * p := rfl
  have hnot : ∀ a, a = 0x21080 + 0x1000 * p ∨ (∃ j, j < 5 ∧ a = 0x2109C + 0x1000 * p + 8 * j) → ¬ evReg (cpePage p) a := fun a ha he =>
    not_cpeWord_of_evReg he ha
  have hraise : ∀ g : Fld, cpeWord p g.addr → u.fld g = (v.cpeBump p .CPE0_RTF).fld g := fun g hg => by
    rw [hu]
    exact fld_of_rd (rd_raiseEv _ hpage (hnot _ hg))
  have hruns : ∀ j, j < 5 → u.fld ((Ctr.CPE0_TASK_RUN j).shift p).f = v.fld ((Ctr.CPE0_TASK_RUN j).shift p).f := fun j hj => by
    rw [hraise _ (.inr ⟨j, hj, by simp only [Ctr.shift, Fld.shift, Ctr.CPE0_TASK_RUN]; omega⟩)]
    refine fld_bump_apart ?_ ?_ <;> simp only [Ctr.shift, Fld.shift, Ctr.CPE0_TASK_RUN, Ctr.CPE0_RTF] <;> omega
  have herr : u.fld (Ctr.CPE0_RTF.shift p).f = min (2 ^ 32 - 1) (s.fld (Ctr.CPE0_RTF.shift p).f + 1) := by
    rw [hraise _ (.inl hrtf)]
    exact (fld_bump_stays (c := Ctr.CPE0_RTF.shift p) rfl (by show 0 + 32 ≤ 32; decide) (.inl (by
      simp only [Ctr.shift, Fld.shift, Ctr.CPE0_RTF]
      omega))).trans (by rw [hsv.errors]; rfl)
  have hdata : ∀ off, off < 2 ^ 21 → u.instByte p off = v.instByte p off := fun off ho => by
    unfold State.instByte State.tfld
    have hn : Near (fun _ => True) evTbl v u := by
      rw [hu]
      exact near_raiseEv (near_bump (Near.refl _ _ v) trivial trivial) hpage (fun _ _ => trivial) fun _ => id
    rw [trd_of_tblBut hn.tbl (by omega) (by omega) (by unfold evTbl pt; omega)]
  refine ⟨_, hrun, ⟨?_, ?_, fun j hj => ?_, ?_, fun off ho => ?_⟩⟩
  · rw [hout.stale, hy, cpeP_cpeMod_self (by rw [huw.len, huc, hsv.len]; exact hlen)]
    exact List.mem_cons_self
  · refine (bit_of_regs (s := y.cpeOutputs p) (regs_cpeMod ..) _).trans (faultPends_cpeOutputs hp y ((bit_of_regs hyr.1 _).trans (huwp ?_)))
    rw [hu]
    exact bit_raiseEv_self (p := cpePage p) hpage (by unfold cpePage; omega) (by decide) (by unfold cpePage; simp only [addrOf_eq]; omega)
  · exact (hout.runs hj).trans ((fld_of_regs hyr.1 _).trans ((huw.runs hj).trans ((hruns j hj).trans (hsv.runs hj))))
  · exact hout.errors.trans ((fld_of_regs hyr.1 _).trans (huw.errors.trans herr))
  · exact (hout.instByte ho).trans ((tfld_of_tbl hyr.2 _ _ _ _ _).trans ((huw.instByte ho).trans ((hdata off ho).trans (hsv.instByte ho))))

omit hp in
theorem cpeRun_stuck {sv : Option Nat} {r : CpeRun} (he : (CpeVm.go (s.cpeBegin p k sv r).1 n (s.cpeBegin p k sv r).2).2.1 = .stuck) :
    (s.cpeRun p k sv r n).2 = none := by
  unfold State.cpeRun
  dsimp only
  rw [he]

end
end Sys2Proof.Machine
end

section
/-! #### CPE_TASK (R371, R379) -/

namespace Sys2Proof.Machine

section
variable {p : Nat} (hp : p < 2) {s : State} {k n : Nat} {rs : List CpeRun}

/-- The entry of a defined task is its execution. -/
theorem cpeEntry_run (hk : k < 4) (hd : s.taskDef p k = true) : s.cpeEntry p k rs n = match s.cpeRun p k none (runOf rs k) n with
    | (u, none) => (u, false)
    | (u, some _) => (if (u.cpeP p).stale.contains k then u.cpeTime p k (runOf rs k).ns
      else (u.cpeTime p k (runOf rs k).ns).cpeBump p (.CPE0_TASK_RUN k), true) := by
  unfold State.cpeEntry
  rw [if_neg (by omega), if_neg (by simp [hd]; omega)]
  unfold cpeMany
  obtain ⟨u, o⟩ := s.cpeRun p k none (runOf rs k) n
  cases o <;> rfl

/-- An entry of a task that is not defined executes nothing. -/
theorem cpeEntry_idle (hk : k ≠ 4) (hd : s.taskDef p k = false ∨ 4 < k) : s.cpeEntry p k rs n = (s, true) := by
  unfold State.cpeEntry
  rw [if_neg hk, if_pos (by simpa using hd)]

/-- An entry of task 4 with nothing to serve notes the triggers alone. -/
theorem cpeTask4_idle (he : s.errServed p = none) (ht : (s.trigItems p).evtRun p = []) :
    ∃ f : CpeSt → CpeSt, (∀ c, (f c).stale = c.stale) ∧ s.cpeEntry p 4 rs n = ((s.trigItems p).cpeMod p f, true) := by
  have hes : (s.trigItems p).errServed p = none := by
    rw [← he]
    unfold State.errServed State.taskDef State.errQueue
    have hc : ∀ {α : Type} (g : CpeSt → α), (∀ c a b, g { c with evtItem := a, evtPend := b } = g c) → g ((s.trigItems p).cpeP p) = g (s.cpeP p) := fun g hg => by
      unfold State.trigItems
      by_cases h : p < s.cpe.length
      · rw [cpeP_cpeMod_self h]
        exact hg _ _ _
      · exact congrArg g ((modAt_getD ..).trans (if_neg fun hc => h hc.2))
    rw [hc (·.tasks) fun _ _ _ => rfl, hc (·.errNext) fun _ _ _ => rfl]
    rfl
  refine ⟨fun c => { c with evtPend := c.evtPend.filter (fun e => !([] : List Nat).contains (8 + e)) }, fun _ => rfl, ?_⟩
  unfold State.cpeEntry State.cpeTask4
  rw [if_pos rfl]
  dsimp only
  rw [hes]
  simp only [Option.toList_none, List.map_nil, cpeMany, List.foldl_nil, ht]
  rfl

theorem vmKept_trigItems (s : State) : VmKept p s (s.trigItems p) := vmKept_cpeMod _ fun _ => rfl

theorem vmKept_cpeTime (s : State) (k ns : Nat) : VmKept p s (s.cpeTime p k ns) := by
  unfold State.cpeTime
  refine vmKept_of_near (near_setF (Near.refl _ _ s) ?_) (cpe_setF ..)
  simp only [pfld]
  rintro (hc | ⟨j, hj, hc⟩) <;> omega

theorem vmKept_serveXfer (s : State) (pg m : Nat) : VmKept p s (s.serveXfer pg m) := by
  have h : Keeps [.host, .items, .sent] s (s.serveXfer pg m) := serveXfer_keeps (Keeps.refl _ s) (List.Subset.refl _)
  exact vmKept_of_regs (h.only .regs (by decide)) (h.only .tbl (by decide)) (h.only .cpe (by decide))

/-- The runs of a task counted. -/
theorem cpeBump_runs (s : State) (k : Nat) : (s.cpeBump p (.CPE0_TASK_RUN k)).fld ((Ctr.CPE0_TASK_RUN k).shift p).f
      = (s.fld ((Ctr.CPE0_TASK_RUN k).shift p).f + 1) % 2 ^ 32 ∧ (s.cpeBump p (.CPE0_TASK_RUN k)).cpe = s.cpe
    ∧ ∀ off, (s.cpeBump p (.CPE0_TASK_RUN k)).instByte p off = s.instByte p off :=
  ⟨fld_bump_wraps (c := (Ctr.CPE0_TASK_RUN k).shift p) rfl (by show 0 + 32 ≤ 32; decide), cpe_bump .., fun off => tfld_of_tbl (tbl_bump ..) _ _ _ _ _⟩

include hp

/-- What an entry answers to the unit: the sequencer waits where the executions have not come to their ends. -/
theorem exec_cpeTask {arg : Nat} (ht : s.takes 0x28 (8 + p) (·.has arg)) (he : s.cpeEmpty p = false) :
    exec (.cpeTask (8 + p) arg rs) s = .next (if ((s.begun (8 + p)).cpeEntry p (arg % 8) rs (s.cpeFuel p (arg % 8))).2 then
      ((s.begun (8 + p)).cpeEntry p (arg % 8) rs (s.cpeFuel p (arg % 8))).1.serveXfer (cpePage p) 512 else s) := by
  refine next_congr ?_
  have hb : (s.begun (8 + p)).cpeEmpty p = false := he
  unfold cpeTask
  rw [Nat.add_sub_cancel_left]
  dsimp only
  rw [if_neg (by omega), entry_takes ht, hb, ht.1, ht.2, he]
  unfold State.begun
  cases ((s.passEntry.ackBy (8 + p)).cpeEntry p (arg % 8) rs (s.cpeFuel p (arg % 8))).2 <;> rfl

theorem exec_cpeTask_empty {arg : Nat} (ht : s.takes 0x28 (8 + p) (·.has arg)) (he : s.cpeEmpty p = true) :
    exec (.cpeTask (8 + p) arg rs) s = .next (s.begun (8 + p)) := by
  refine next_congr ?_
  have hb : (s.begun (8 + p)).cpeEmpty p = true := he
  unfold cpeTask
  rw [Nat.add_sub_cancel_left]
  dsimp only
  rw [if_neg (by omega), entry_takes ht, hb, he]
  simp

/-! ##### The clauses of CPE_TASK -/

theorem cpeTask_runs {arg : Nat} (hs : s.Sized) (ht : s.takes 0x28 (8 + p) (·.has arg)) (he : s.cpeEmpty p = false) (hk : arg % 8 < 4)
    (hd : s.taskDef p (arg % 8) = true) :
    let k := arg % 8
    let b := (s.begun (8 + p)).cpeBegin p k none (runOf rs k)
    let x := CpeVm.go b.1 (s.cpeFuel p k) b.2
    runs (.cpeTask (8 + p) arg rs) s (fun t =>
      (x.2.1 = .ended → k ∉ (t.cpeP p).stale
        ∧ t.fld ((Ctr.CPE0_TASK_RUN k).shift p).f = (s.fld ((Ctr.CPE0_TASK_RUN k).shift p).f + 1) % 2 ^ 32
        ∧ (∀ off, off < 2 ^ 21 → t.instByte p off = (x.1.commit b.1).instByte p off)
        ∧ (∀ off, off < 2 ^ 21 → (∀ e ∈ x.1.mem, e.1 ≠ off) → t.instByte p off = s.instByte p off))
      ∧ (∀ f, x.2.1 = .fault f → k ∈ (t.cpeP p).stale ∧ t.bit (bitAt (0x21010 + 0x1000 * p) 7) = true
        ∧ t.fld ((Ctr.CPE0_TASK_RUN k).shift p).f = s.fld ((Ctr.CPE0_TASK_RUN k).shift p).f
        ∧ t.fld (Ctr.CPE0_RTF.shift p).f = min (2 ^ 32 - 1) (s.fld (Ctr.CPE0_RTF.shift p).f + 1)
        ∧ ∀ off, off < 2 ^ 21 → t.instByte p off = s.instByte p off)
      ∧ (x.2.1 = .stuck → t = s)) := by
  intro k b x
  have hlen : p < (s.begun (8 + p)).cpe.length := hs.cpe.symm ▸ hp
  have hentry := cpeEntry_run (rs := rs) (n := s.cpeFuel p k) (s := s.begun (8 + p)) hk hd
  have hexec := exec_cpeTask (rs := rs) hp ht he
  have hx : x = CpeVm.go ((s.begun (8 + p)).cpeBegin p k none (runOf rs k)).1 (s.cpeFuel p k) ((s.begun (8 + p)).cpeBegin p k none (runOf rs k)).2 := rfl
  cases hstop : x.2.1 with
  | ended =>
    obtain ⟨u, hu, hend, hdata⟩ := cpeRun_ends hp hx hlen hstop
    rw [hu] at hentry
    have hstale : ((u.cpeP p).stale.contains k) = false := by simpa using hend.stale
    dsimp only at hentry
    rw [hstale] at hentry
    have ht1 := vmKept_cpeTime (p := p) u k (runOf rs k).ns
    obtain ⟨hcount, hcpe, hbytes⟩ := cpeBump_runs (p := p) (u.cpeTime p k (runOf rs k).ns) k
    rw [hentry, if_pos rfl, if_neg (by decide)] at hexec
    have hout := vmKept_serveXfer (p := p) ((u.cpeTime p k (runOf rs k).ns).cpeBump p (.CPE0_TASK_RUN k)) (cpePage p) 512
    have hreg := (serveXfer_keeps (T := [.host, .items, .sent]) (page := cpePage p) (n := 512)
      (Keeps.refl _ ((u.cpeTime p k (runOf rs k).ns).cpeBump p (.CPE0_TASK_RUN k))) (List.Subset.refl _)).only .regs (by decide)
    have hall : ∀ off, off < 2 ^ 21 → (((u.cpeTime p k (runOf rs k).ns).cpeBump p (.CPE0_TASK_RUN k)).serveXfer (cpePage p) 512).instByte p off
        = (x.1.commit b.1).instByte p off := fun off ho =>
      (hout.instByte ho).trans ((hbytes off).trans ((ht1.instByte ho).trans (hend.data off ho)))
    refine runs_intro hexec ⟨fun _ => ⟨?_, ?_, hall, fun off ho hoff => (hall off ho).trans (hdata off hoff ho)⟩, fun f h => absurd h (by simp), fun h => absurd h (by simp)⟩
    · rw [hout.stale]
      unfold State.cpeP
      rw [hcpe]
      exact ht1.stale ▸ hend.stale
    · rw [fld_of_regs hreg, hcount, ht1.runs (by omega), hend.runs k (by omega)]
      rfl
  | fault f =>
    obtain ⟨u, hu, hfail⟩ := cpeRun_fails hp hx hlen hstop
    rw [hu] at hentry
    have hstale : ((u.cpeP p).stale.contains k) = true := by simpa using hfail.stale
    dsimp only at hentry
    rw [hstale, if_pos rfl] at hentry
    have ht1 := vmKept_cpeTime (p := p) u k (runOf rs k).ns
    rw [hentry, if_pos rfl] at hexec
    have hout := ht1.trans (vmKept_serveXfer (p := p) (u.cpeTime p k (runOf rs k).ns) (cpePage p) 512)
    have hreg := (serveXfer_keeps (T := [.host, .items, .sent]) (page := cpePage p) (n := 512)
      (Keeps.refl _ (u.cpeTime p k (runOf rs k).ns)) (List.Subset.refl _)).only .regs (by decide)
    refine runs_intro hexec ⟨fun h => absurd h (by simp), fun g _ => ⟨?_, ?_, ?_, ?_, fun off ho => (hout.instByte ho).trans (hfail.data off ho)⟩,
      fun h => absurd h (by simp)⟩
    · rw [hout.stale]
      exact hfail.stale
    · refine (bit_of_regs hreg _).trans ((bit_of_rd (f := bitAt (0x21010 + 0x1000 * p) 7) ?_).trans hfail.event)
      unfold State.cpeTime
      exact rd_setF_apart (by simp only [pfld, bitAt]; omega)
    · exact (hout.runs (by omega)).trans (hfail.runs k (by omega))
    · exact hout.errors.trans hfail.errors
  | stuck =>
    have hnone := cpeRun_stuck (s := s.begun (8 + p)) (p := p) (k := k) (n := s.cpeFuel p k) (sv := none) (r := runOf rs k) hstop
    have hfalse : ((s.begun (8 + p)).cpeEntry p k rs (s.cpeFuel p k)).2 = false := by
      rw [hentry]
      generalize (s.begun (8 + p)).cpeRun p k none (runOf rs k) (s.cpeFuel p k) = r at hnone ⊢
      obtain ⟨u, o⟩ := r
      dsimp only at hnone
      subst hnone
      rfl
    rw [hfalse] at hexec
    exact runs_intro hexec ⟨fun h => absurd h (by simp), fun g h => absurd h (by simp), fun _ => rfl⟩

theorem cpeTask_idles {arg : Nat} (ht : s.takes 0x28 (8 + p) (·.has arg)) (he : s.cpeEmpty p = false)
    (h : (arg % 8 ≠ 4 ∧ (s.taskDef p (arg % 8) = false ∨ 4 < arg % 8)) ∨ (arg % 8 = 4 ∧ s.errServed p = none ∧ (s.trigItems p).evtRun p = [])) :
    runs (.cpeTask (8 + p) arg rs) s (fun t => (t.cpeP p).stale = (s.cpeP p).stale
      ∧ (∀ j, j < 5 → t.fld ((Ctr.CPE0_TASK_RUN j).shift p).f = s.fld ((Ctr.CPE0_TASK_RUN j).shift p).f)
      ∧ ∀ off, off < 2 ^ 21 → t.instByte p off = s.instByte p off) := by
  have hexec := exec_cpeTask (rs := rs) hp ht he
  suffices hk : ∃ u, (s.begun (8 + p)).cpeEntry p (arg % 8) rs (s.cpeFuel p (arg % 8)) = (u, true) ∧ VmKept p (s.begun (8 + p)) u by
    obtain ⟨u, hu, hkept⟩ := hk
    rw [hu, if_pos rfl] at hexec
    have hbegun : VmKept p s (s.begun (8 + p)) := vmKept_of_regs rfl rfl rfl
    have hout : VmKept p s (u.serveXfer (cpePage p) 512) := (hbegun.trans hkept).trans (vmKept_serveXfer u _ _)
    exact runs_intro hexec ⟨hout.stale, fun j hj => hout.runs hj, fun off ho => hout.instByte ho⟩
  rcases h with ⟨hk, hd⟩ | ⟨hk, herr, hev⟩
  · exact ⟨_, cpeEntry_idle hk hd, .refl p _⟩
  · obtain ⟨f, hf, hu⟩ := cpeTask4_idle (s := s.begun (8 + p)) (rs := rs) (n := s.cpeFuel p (arg % 8)) herr hev
    rw [hk] at hu ⊢
    exact ⟨_, hu, (vmKept_trigItems _).trans (vmKept_cpeMod f hf)⟩

end
end Sys2Proof.Machine
end

section
/-! #### Forces and retained variables (R390, R392) -/

namespace Sys2Proof.Machine

section
variable {p : Nat} (hp : p < 2) {s : State}

/-! ##### CLR_FORCES -/

theorem forces_foldl_keeps (l : List Nat) (t : State) : Keeps [.tbl] t (l.foldl (fun a i => a.tset (pt p 2) i 0 31 1 0) t) := by
  induction l generalizing t with
  | nil => exact Keeps.refl _ t
  | cons i l ih => exact (tset_keeps (Keeps.refl _ t) (List.Subset.refl _)).trans (ih _)

/-- A record beside those cleared so far is as it was. -/
theorem forces_foldl_trd (l : List Nat) (t : State) {k : Nat} (hk : ∀ i ∈ l, k ≠ tkey (pt p 2) i 0) :
    smGet tblReset (l.foldl (fun a i => a.tset (pt p 2) i 0 31 1 0) t).tbl k = smGet tblReset t.tbl k := by
  induction l generalizing t with
  | nil => rfl
  | cons i l ih =>
    refine (ih (t.tset (pt p 2) i 0 31 1 0) fun j hj => hk j (List.mem_cons_of_mem _ hj)).trans ?_
    exact smGet_set_ne _ _ _ _ _ (hk i List.mem_cons_self)

theorem forces_foldl_clears (l : List Nat) (t : State) {i : Nat} (hi : i ∈ l) :
    (l.foldl (fun a i => a.tset (pt p 2) i 0 31 1 0) t).tfld (pt p 2) i 0 31 1 = 0 := by
  induction l generalizing t with
  | nil => exact absurd hi List.not_mem_nil
  | cons j l ih =>
    by_cases hl : i ∈ l
    · exact ih _ hl
    · obtain rfl : i = j := (List.mem_cons.1 hi).resolve_right hl
      have h := forces_foldl_trd (p := p) l (t.tset (pt p 2) i 0 31 1 0) (k := tkey (pt p 2) i 0) fun j hj he => hl (by
        unfold tkey at he
        have : i = j := by omega
        exact this ▸ hj)
      exact (congrArg (fun w => wbits w 31 1) h : _).trans (tfld_tset_self (s := t) (by decide))

include hp

theorem clrForces_clears : runs (.clrForces p) s (fun t => (∀ i, i < 256 → t.tfld (pt p 2) i 0 31 1 = 0)
    ∧ s.tblBut t (fun tid i w => tid = pt p 2 ∧ i < 256 ∧ w = 0) ∧ s.onlyIn t [.tbl]) := by
  refine runs_intro (next_congr (if_pos hp)) ⟨fun i hi => forces_foldl_clears _ s (List.mem_range.2 hi), fun k hk => forces_foldl_trd _ s fun i hi he => hk ?_,
    (forces_foldl_keeps _ s).only⟩
  have hi' := List.mem_range.1 hi
  rw [he]
  refine ⟨tkeyTid_tkey _ _ _ (by omega) (by decide), ?_, ?_⟩
  · unfold tkeyIdx tkey
    omega
  · unfold tkeyWord tkey
    omega

end

/-! ##### RETAIN_SAVE -/

section
variable {p q : Nat} {s t : State}

/-- What a save of another CPE leaves of CPE `p`, and all that a save of `p` rests on. -/
structure RetSame (p : Nat) (s t : State) : Prop where
  tbl : t.tbl = s.tbl
  twin : t.twin = s.twin
  rd : ∀ a, a ≠ 0x2108C + 0x1000 * (1 - p) → t.rd a = s.rd a
  cpe : t.cpeP p = s.cpeP p
  nv : t.cpeNv[p]? = s.cpeNv[p]?
  lens : t.cpe.length = s.cpe.length ∧ t.cpeNv.length = s.cpeNv.length

/-- The image and the retained variables are read from the tables alone. -/
theorem image_of_tbl (h : t.tbl = s.tbl) : t.imgLen p 0 = s.imgLen p 0 ∧ t.imgId p 0 = s.imgId p 0 ∧ t.retained p = s.retained p :=
  ⟨(congrArg (fun m => ({ State.reset with tbl := m } : State).imgLen p 0) h : _), (congrArg (fun m => ({ State.reset with tbl := m } : State).imgId p 0) h : _),
    (congrArg (fun m => ({ State.reset with tbl := m } : State).retained p) h : _)⟩

theorem RetSame.fno (h : RetSame p s t) : t.fno = s.fno :=
  (sameInstant (fun a ha => h.rd a (by omega)) h.twin).1

/-- The number of the last save of a CPE. -/
theorem RetSame.seq (hp : p < 2) (h : RetSame p s t) : t.fld (wordAt (0x2108C + 0x1000 * p)) = s.fld (wordAt (0x2108C + 0x1000 * p)) :=
  fld_of_rd (h.rd _ (by simp only [wordAt]; omega))

theorem modAt_getElem? {α : Type} (l : List α) (i j : Nat) (f : α → α) : (modAt l i f)[j]? = if j = i then (l[j]?).map f else l[j]? := by
  induction l generalizing i j with
  | nil => simp [modAt]
  | cons x l ih =>
    cases i with
    | zero => cases j <;> simp [modAt]
    | succ i => cases j with
      | zero => simp [modAt]
      | succ j => simp only [modAt, List.getElem?_cons_succ, ih, Nat.add_right_cancel_iff]

/-- One CPE of RETAIN_SAVE. -/
def State.retOne (a : State) (p : Nat) : State := if (a.cpeP p).retAt = some a.fno ∨ a.imgLen p 0 = 0 then a else a.retSave p

theorem retOne_same (hp : p < 2) (s : State) : RetSame p s (s.retOne (1 - p)) := by
  unfold State.retOne
  split
  · exact ⟨rfl, rfl, fun _ _ => rfl, rfl, rfl, rfl, rfl⟩
  · unfold State.retSave
    extract_lets n v s1
    refine ⟨rfl, rfl, fun a ha => ?_, cpeP_cpeMod_other (by omega), ?_, modAt_length .., modAt_length ..⟩
    · exact rd_wr_apart (by simp only [pfld]; omega)
    · show (modAt s.cpeNv (1 - p) _)[p]? = _
      rw [modAt_getElem?, if_neg (by omega)]

/-- A save goes to the slot whose turn it is, under the next number. -/
structure RetSaved (s t : State) (p : Nat) : Prop where
  at_ : (t.cpeP p).retAt = some s.fno
  seq : t.fld (wordAt (0x2108C + 0x1000 * p)) = (s.fld (wordAt (0x2108C + 0x1000 * p)) + 1) % 2 ^ 32
  slot : ∃ n v, s.cpeNv[p]? = some n ∧ v.seq = (s.fld (wordAt (0x2108C + 0x1000 * p)) + 1) % 2 ^ 32 ∧ v.vars = s.retained p ∧ v.image = s.imgId p 0
    ∧ t.cpeNv[p]? = some (if n.next = 0 then { n with a := some v, next := 1 } else { n with b := some v, next := 0 })

theorem retOne_saves (hs : p < s.cpe.length) (hn : p < s.cpeNv.length) (hl : s.imgLen p 0 ≠ 0) (ha : (s.cpeP p).retAt ≠ some s.fno) :
    RetSaved s (s.retOne p) p := by
  unfold State.retOne
  rw [if_neg (by simp [hl, ha])]
  unfold State.retSave
  extract_lets n v s1
  have hn' : n = (s.fld (wordAt (0x2108C + 0x1000 * p)) + 1) % 2 ^ 32 := by
    unfold n
    rw [show (pfld p 0x8C 0 32).addr = 0x2108C + 0x1000 * p by simp only [pfld]; omega]
  refine ⟨?_, ?_, s.cpeNv[p], v, List.getElem?_eq_getElem hn, ?_, rfl, rfl, ?_⟩
  · exact (congrArg CpeSt.retAt (cpeP_cpeMod_self (s := s1.wr _ _) hs) : _)
  · refine (fld_of_regs (s := s1.wr (pfld p 0x8C 0 32).addr (BitVec.ofNat 32 n)) (regs_cpeMod ..) _).trans ?_
    have haddr : (pfld p 0x8C 0 32).addr = 0x2108C + 0x1000 * p := by
      simp only [pfld]
      omega
    unfold State.fld
    rw [haddr, show (wordAt (0x2108C + 0x1000 * p)).addr = 0x2108C + 0x1000 * p from rfl, rd_wr_self]
    refine (wbits_ofNat (lo := 0) (n := 32) (by decide)).trans ?_
    rw [Nat.pow_zero, Nat.div_one, hn']
    exact Nat.mod_mod _ _
  · exact hn'
  · show (modAt s.cpeNv p _)[p]? = _
    rw [modAt_getElem?, if_pos rfl, List.getElem?_eq_getElem hn]
    rfl

theorem RetSaved.of_same (hp : p < 2) {u : State} (h : RetSame p s u) (ht : RetSaved u t p) : RetSaved s t p := by
  obtain ⟨hlen, himg, hret⟩ := image_of_tbl (p := p) h.tbl
  obtain ⟨hat, hseq, n, v, hn, hv, hvars, hi, ho⟩ := ht
  exact ⟨hat.trans (by rw [h.fno]), hseq.trans (by rw [h.seq hp]), n, v, h.nv ▸ hn, hv.trans (by rw [h.seq hp]), hvars.trans hret, hi.trans himg, ho⟩

theorem RetSaved.same_after (hp : p < 2) {u : State} (ht : RetSaved s t p) (h : RetSame p t u) : RetSaved s u p := by
  obtain ⟨hat, hseq, n, v, hn, hv, hvars, hi, ho⟩ := ht
  exact ⟨(congrArg CpeSt.retAt h.cpe).trans hat, (h.seq hp).trans hseq, n, v, hn, hv, hvars, hi, h.nv.trans ho⟩

theorem retainSave_saves (hp : p < 2) (hs : s.Sized) (hf : s.frame = 500) (he : s.inExt = false) (hl : s.imgLen p 0 ≠ 0) (ha : (s.cpeP p).retAt ≠ some s.fno) :
    runs .retainSave s (fun t => RetSaved s t p) := by
  have hrun : exec .retainSave s = .next (s.andShown ((s.retOne 0).retOne 1)) := next_congr (congrArg s.andShown (by
    rw [hf, he]
    rfl))
  refine runs_andShown hrun fun v => ?_
  have hsaved : RetSaved s ((s.retOne 0).retOne 1) p := by
    rcases (by omega : p = 0 ∨ p = 1) with rfl | rfl
    · exact (retOne_saves (hs.cpe.symm ▸ hp) (hs.cpeNv.symm ▸ hp) hl ha).same_after hp (retOne_same hp (s.retOne 0))
    · have h0 : RetSame 1 s (s.retOne 0) := retOne_same hp s
      exact (retOne_saves (by rw [h0.lens.1, hs.cpe]; exact hp) (by rw [h0.lens.2, hs.cpeNv]; exact hp) (by rw [(image_of_tbl h0.tbl).1]; exact hl)
        (by rw [h0.cpe, h0.fno]; exact ha)).of_same hp h0
  exact ⟨hsaved.at_, hsaved.seq, hsaved.slot⟩

end

/-- Settles O47: the executions by what an execution leaves alone and what its end commits, the saves one CPE after the other. -/
theorem programsRunAndSave : Obligations.ProgramsRunAndSave := by
  unfold Obligations.ProgramsRunAndSave
  intro p s hp hs
  refine ⟨fun arg rs ht he hk hd => cpeTask_runs hp hs ht he hk hd, fun arg rs ht he h => cpeTask_idles hp ht he h,
    fun arg rs ht he => runs_intro (exec_cpeTask_empty hp ht he) (begun_only s _), clrForces_clears hp, fun hf he hl ha => ?_, fun h => ?_⟩
  · obtain ⟨t, ht, hsaved⟩ := retainSave_saves hp hs hf he hl ha
    exact runs_intro ht ⟨hsaved.at_, hsaved.seq, hsaved.slot⟩
  · refine next_congr ((congrArg s.andShown (if_pos ?_)).trans (andShown_self s))
    rcases h with h | h
    · simp [h]
    · simp [h]

end Sys2Proof.Machine
end

section
/-! ### A refresh of arrival records whose items are refused, on a standby module (R33, R156, R459)

The statement has a refreshed part not STALE at once. The items of a record are written by E1's firmware, and where another engine is the mailbox's
writer the write is refused and the module enters FAULT. A standby module counts frames by the record in execution, one in FAULT by its own clock:
the refresh is noted under the record's frame number and read under the module's own. -/

namespace Sys2Proof.Machine

/-- MODEL_ARR of part 0 is the entry that comes next. The module is STANDBY and executes a record of frame 5,000, its own frame count stands at 0;
ARR_EN is 1, circuit 0 has converged, node 0 is the only node of part 0, and the mailbox of the arrival delays belongs to engine 2. -/
def arrRefused : State :=
  (((({ State.reset with
    seq := { State.reset.seq with started := true }
    twin := { State.reset.twin with run := some ⟨5000, 0, false, 0, 0, 0, false, false, PlanSec.none_, []⟩ }
    mbx := [⟨Config.mbxRole 2 0, 2, 0, 4096, [], [], [], [], false, false, false⟩]
    tbl := [(tkey 0x0600 0 0, 0x10000000), (tkey 0x0600 0 1, 0x00000320), (tkey 0x2406 0 0, 0x80000000)] }.wr 0x54 0x30000000).wr 0x24040 4).wr
      0x240A0 0x20).wr 0x24080 1)

theorem arrRefused_takes : arrRefused.takes 0x32 0x01 (·.has 0) := by
  unfold State.takes
  decide +kernel

theorem arrRefused_ready : arrRefused.modelEn 2 = true ∧ arrRefused.arrBud 0 ≠ 0 ∧ arrRefused.partNodes 0 = [0] ∧ arrRefused.everConv 0 = true
    ∧ arrRefused.tfld 0x2406 0 0 28 2 = 0 ∧ arrRefused.fno = 5000 ∧ arrRefused.rd 0x604C = 0 ∧ arrRefused.mstate = 3 := by decide +kernel

theorem arrRefused_foreign : arrRefused.mbxForeign (arrRefused.roleMbx 2) 1 = true := by
  unfold State.mbxForeign State.mbxOf
  rw [show arrRefused.roleMbx 2 = Config.mbxRole 2 0 from rfl]
  simp [arrRefused, State.wr]

theorem arrRefused_sized : arrRefused.Sized := by
  constructor
  all_goals decide +kernel

section
variable {s t : State}

/-- What a refused write of items makes of a module that is not in FAULT. -/
structure Faulted (s t : State) : Prop where
  state : t.mstate = 6
  count : t.rd 0x604C = s.rd 0x604C

theorem Faulted.of_regs (h : Faulted s t) {u : State} (h1 : u.rd 0x54 = t.rd 0x54) (h2 : u.rd 0x604C = t.rd 0x604C) : Faulted s u :=
  ⟨(fld_of_rd (f := ⟨0x54, 28, 4⟩) h1).trans h.state, h2.trans h.count⟩

theorem fwPuts_faults {n i : Nat} {its : List Item} (hm : s.mstate ≠ 6) (hf : s.mbxForeign n 1 = true) : Faulted s (s.fwPuts 1 n i its) := by
  refine ⟨?_, (near_viol s 1 n i its).regs _ (by unfold violReg evReg; decide)⟩
  unfold State.fwPuts
  rw [if_pos hf]
  unfold State.fwViol State.xbarViol
  refine (enterFault_enters ?_ (by decide)).1
  intro h6
  refine hm (Eq.trans ?_ h6)
  refine (fld_of_rd (f := ⟨0x54, 28, 4⟩) ?_).symm
  rw [rd_raiseEv _ (by decide) (by unfold evReg; decide), rd_bump (by decide) (by decide), rd_wr_apart (by decide), rd_setF_apart (by decide)]

theorem arrRecord_faults {n : Nat} {sa : NumMap × NumMap} {cyc : List Nat} {pred : List NumMap} (hm : s.mstate ≠ 6)
    (hf : s.mbxForeign (s.roleMbx 2) 1 = true) : Faulted s (s.arrRecord n sa cyc pred) := by
  unfold State.arrRecord
  extract_lets j onCyc share noPath st shown delay s1 s2
  have hk : Keeps [.tbl] s s2 := keeps_foldl (twr_keeps (twr_keeps (twr_keeps (twr_keeps (Keeps.refl _ s) (List.Subset.refl _)) (List.Subset.refl _))
    (List.Subset.refl _)) (List.Subset.refl _)) fun a k ha => twr_keeps ha (List.Subset.refl _)
  have hregs : s2.regs = s.regs := hk.only .regs (by decide)
  have hmbx : s2.mbx = s.mbx := hk.only .mbx (by decide)
  clear_value s2
  have hrole : s2.roleMbx 2 = s.roleMbx 2 := by
    unfold State.roleMbx State.rd
    rw [hregs]
  have hf2 : s2.mbxForeign (s2.roleMbx 2) 1 = true := by
    rw [hrole]
    unfold State.mbxForeign State.mbxOf at hf ⊢
    rw [hmbx]
    exact hf
  have hm2 : s2.mstate ≠ 6 := fun h => hm ((fld_of_regs hregs _).symm.trans h)
  have h := fwPuts_faults (i := s2.roleItem 2 n) (its := [⟨s2.trd 0x240C n 1, s2.tfld 0x240C n 0 24 8⟩, ⟨BitVec.ofNat 32 (s2.tfld 0x240C n 0 0 10), s2.tfld 0x240C n 0 24 8⟩])
    hm2 hf2
  have hrd : s2.rd 0x604C = s.rd 0x604C := congrArg (fun m => smGet regReset m 0x604C) hregs
  exact ⟨h.state, h.count.trans hrd⟩

/-- The refresh of a part whose one node lies in circuit 0: its record, then nothing that ends the FAULT. -/
theorem modelArrRun_faults {p : Nat} (hn : s.partNodes p = [0]) (hc : s.tfld 0x2406 0 0 28 2 = 0) (hev : s.everConv 0 = true) (hm : s.mstate ≠ 6)
    (hf : s.mbxForeign (s.roleMbx 2) 1 = true) : Faulted s (modelArrRun p s) := by
  unfold modelArrRun
  extract_lets nodes r s1 s2
  have hr : Faulted s r.1 := by
    have hmine : ∀ c, nodes.filter (fun n => s.tfld 0x2406 n 0 28 2 == c) = if 0 = c then [0] else [] := fun c => by
      rw [show nodes = [0] from hn, List.filter_singleton, hc]
      by_cases h : 0 = c
      · subst h
        rfl
      · rw [if_neg h, beq_false_of_ne h]
        rfl
    have hk := (readInputs_keeps (c := 0) (Keeps.refl [.model] s) (List.Subset.refl _)).only
    have hregs : (s.readInputs 0).regs = s.regs := hk .regs (by decide)
    have hmbx : (s.readInputs 0).mbx = s.mbx := hk .mbx (by decide)
    have hin : Faulted (s.readInputs 0) r.1 := by
      have hm' : (s.readInputs 0).mstate ≠ 6 := fun h => hm ((fld_of_regs hregs _).symm.trans h)
      have hf' : (s.readInputs 0).mbxForeign ((s.readInputs 0).roleMbx 2) 1 = true := by
        rw [show (s.readInputs 0).roleMbx 2 = s.roleMbx 2 by unfold State.roleMbx State.rd; rw [hregs]]
        unfold State.mbxForeign State.mbxOf at hf ⊢
        rw [hmbx]
        exact hf
      unfold r
      simp only [List.foldl_cons, List.foldl_nil, hmine, hev]
      exact arrRecord_faults hm' hf'
    exact ⟨hin.state, hin.count.trans (congrArg (fun m => smGet regReset m 0x604C) hregs)⟩
  have h1 : Faulted s s1 := hr.of_regs rfl rfl
  have h2 : Faulted s s2 := by
    unfold s2
    split
    · exact h1.of_regs (rd_setF_apart (show (0x54 : Nat) ≠ 0x24060 by decide)) (rd_setF_apart (show (0x604C : Nat) ≠ 0x24060 by decide))
    · exact h1
  split
  · exact h2.of_regs (rd_raiseEv _ (by decide) (by unfold evReg; decide)) (rd_raiseEv _ (by decide) (by unfold evReg; decide))
  · exact h2

end

/-- Refutes O48: on `arrRefused` the part is refreshed under frame number 5,000, the items of node 0 are refused, and the module in FAULT, whose
own frame count is 0, has the part STALE. -/
theorem not_theModelSolves : ¬ Obligations.TheModelSolves := by
  unfold Obligations.TheModelSolves
  intro h
  obtain ⟨hen, hbud, hnodes, hev, hc, hfno, hown, hm⟩ := arrRefused_ready
  obtain ⟨t, ht, hdone, -⟩ := (h.1 0 arrRefused arrRefused_sized).2.2.2.2.1 arrRefused_takes hen hbud
  obtain ⟨hat, -, hstale⟩ := hdone (.inr ⟨0, hnodes ▸ List.mem_cons_self, hc.symm ▸ hev⟩)
  have hrun : exec (.modelArr 0) arrRefused = .next ((modelArrRun 0 (arrRefused.begun 1)).modelXfer) := by
    refine next_congr ((entry_takes arrRefused_takes).trans ?_)
    rw [hen, bne_iff_ne.2 hbud]
    rfl
  have hf := modelArrRun_faults (s := arrRefused.begun 1) (p := 0) hnodes hc hev (by rw [show (arrRefused.begun 1).mstate = 3 from hm]; decide) arrRefused_foreign
  have hx := (serveXfer_keeps (page := 0x24) (n := 1024) (Keeps.refl [.host, .items, .sent] (modelArrRun 0 (arrRefused.begun 1))) (List.Subset.refl _)).only
  generalize modelArrRun 0 (arrRefused.begun 1) = u at hrun hf hx
  have hregs : u.modelXfer.regs = u.regs := hx .regs (by decide)
  have htf : Faulted (arrRefused.begun 1) u.modelXfer :=
    hf.of_regs (congrArg (fun m => smGet regReset m 0x54) hregs) (congrArg (fun m => smGet regReset m 0x604C) hregs)
  generalize u.modelXfer = v at hrun htf
  rw [hrun] at ht
  cases ht
  have hv : t.fno = 0 := by
    have h0 : t.recRun = none := if_neg (by rw [show t.fld ⟨0x0054, 28, 4⟩ = 6 from htf.state]; decide)
    unfold State.fno State.ownFno
    rw [h0]
    exact (congrArg (wbits · 0 32) (htf.count.trans hown) : t.fld (wordAt 0x604C) = 0)
  unfold State.partStale State.since at hstale
  rw [show t.model.arrAt.getD (0 % 16) none = some 5000 from hat.trans (congrArg some hfno), hv] at hstale
  simp at hstale

end Sys2Proof.Machine
end

section
/-! ### Lists that keep their lengths (R475)

The lists of `State.Sized` are replaced element by element, or by lists of the same length. Said once for each meaning, in the order of the
model's definitions: from a state whose lists have their lengths each operation makes another. A meaning that changes none of the parts that
hold such lists needs no look: the frame of `Laws/` answers for it. -/

namespace Sys2Proof.Machine

/-- The parts that hold the lists of fixed length. -/
def sizedParts : List Part := [.host, .icu, .time, .snet, .can, .adc, .met, .cpe, .cpeNv, .model, .segs]

/-- What a command answers has its lists' lengths. -/
def SizedO (o : Out) : Prop := ∀ t, o = .next t → t.Sized

section
variable {s t x : State}

/-- States that agree on the lists agree on their lengths. -/
theorem State.Sized.congr (h : s.Sized) (hhost : t.host.sess.length = s.host.sess.length) (hicu : t.icu = s.icu) (htime : t.time = s.time)
    (hsnet : t.snet = s.snet) (hcan : t.can = s.can) (hadc : t.adc = s.adc) (hmet : t.met = s.met) (hcpe : t.cpe = s.cpe) (hnv : t.cpeNv = s.cpeNv)
    (hmodel : t.model = s.model) (hsegs : t.segs = s.segs) : t.Sized :=
  ⟨hhost.trans h.sess, hicu ▸ h.stack, hicu ▸ h.pres, htime ▸ h.ports, hsnet ▸ h.lines, hcan ▸ h.can, hadc ▸ h.settle, hadc ▸ h.conv, hmet ▸ h.pts,
    hcpe ▸ h.cpe, hnv ▸ h.cpeNv, hmodel ▸ h.thmAt, hmodel ▸ h.arrAt, hsegs ▸ h.segs⟩

/-- A change of other parts keeps the lengths. -/
theorem Keeps.sized {T : List Part} (k : Keeps T s t) (h : s.Sized) (hT : ∀ p ∈ sizedParts, p ∉ T) : t.Sized := by
  have ho : ∀ p ∈ sizedParts, p.agree s t := fun p hp => k.only p (hT p hp)
  exact h.congr (sessN_of_still (ho .host (by decide))) (ho .icu (by decide)) (ho .time (by decide)) (ho .snet (by decide)) (ho .can (by decide))
    (ho .adc (by decide)) (ho .met (by decide)) (ho .cpe (by decide)) (ho .cpeNv (by decide)) (ho .model (by decide)) (ho .segs (by decide))

/-! #### One part replaced -/

theorem State.Sized.withHost (h : x.Sized) {v : HostSt} (hv : v.sess.length = x.host.sess.length) : State.Sized { x with host := v } :=
  h.congr hv rfl rfl rfl rfl rfl rfl rfl rfl rfl rfl

theorem State.Sized.withIcu (h : x.Sized) {v : IcuSt} (hs : v.stack.length = x.icu.stack.length) (hp : v.pres.length = x.icu.pres.length) :
    State.Sized { x with icu := v } :=
  ⟨h.sess, hs.trans h.stack, hp.trans h.pres, h.ports, h.lines, h.can, h.settle, h.conv, h.pts, h.cpe, h.cpeNv, h.thmAt, h.arrAt, h.segs⟩

theorem State.Sized.withTime (h : x.Sized) {v : TimeSt} (hv : v.ports.length = x.time.ports.length) : State.Sized { x with time := v } :=
  ⟨h.sess, h.stack, h.pres, hv.trans h.ports, h.lines, h.can, h.settle, h.conv, h.pts, h.cpe, h.cpeNv, h.thmAt, h.arrAt, h.segs⟩

theorem State.Sized.withSnet (h : x.Sized) {v : SnetSt} (hv : v.lines.length = x.snet.lines.length) : State.Sized { x with snet := v } :=
  ⟨h.sess, h.stack, h.pres, h.ports, hv.trans h.lines, h.can, h.settle, h.conv, h.pts, h.cpe, h.cpeNv, h.thmAt, h.arrAt, h.segs⟩

theorem State.Sized.withCan (h : x.Sized) {v : List CanSt} (hv : v.length = x.can.length) : State.Sized { x with can := v } :=
  ⟨h.sess, h.stack, h.pres, h.ports, h.lines, hv.trans h.can, h.settle, h.conv, h.pts, h.cpe, h.cpeNv, h.thmAt, h.arrAt, h.segs⟩

theorem State.Sized.withAdc (h : x.Sized) {v : AdcSt} (hs : v.settle.length = x.adc.settle.length) (hc : v.conv.length = x.adc.conv.length) :
    State.Sized { x with adc := v } :=
  ⟨h.sess, h.stack, h.pres, h.ports, h.lines, h.can, hs.trans h.settle, hc.trans h.conv, h.pts, h.cpe, h.cpeNv, h.thmAt, h.arrAt, h.segs⟩

theorem State.Sized.withMet (h : x.Sized) {v : MetSt} (hv : v.pts.length = x.met.pts.length) : State.Sized { x with met := v } :=
  ⟨h.sess, h.stack, h.pres, h.ports, h.lines, h.can, h.settle, h.conv, hv.trans h.pts, h.cpe, h.cpeNv, h.thmAt, h.arrAt, h.segs⟩

theorem State.Sized.withCpe (h : x.Sized) {v : List CpeSt} (hv : v.length = x.cpe.length) : State.Sized { x with cpe := v } :=
  ⟨h.sess, h.stack, h.pres, h.ports, h.lines, h.can, h.settle, h.conv, h.pts, hv.trans h.cpe, h.cpeNv, h.thmAt, h.arrAt, h.segs⟩

theorem State.Sized.withCpeNv (h : x.Sized) {v : List RetNv} (hv : v.length = x.cpeNv.length) : State.Sized { x with cpeNv := v } :=
  ⟨h.sess, h.stack, h.pres, h.ports, h.lines, h.can, h.settle, h.conv, h.pts, h.cpe, hv.trans h.cpeNv, h.thmAt, h.arrAt, h.segs⟩

theorem State.Sized.withModel (h : x.Sized) {v : ModelSt} (ht : v.thmAt.length = x.model.thmAt.length)
    (ha : v.arrAt.length = x.model.arrAt.length) : State.Sized { x with model := v } :=
  ⟨h.sess, h.stack, h.pres, h.ports, h.lines, h.can, h.settle, h.conv, h.pts, h.cpe, h.cpeNv, ht.trans h.thmAt, ha.trans h.arrAt, h.segs⟩

theorem State.Sized.withSegs (h : x.Sized) {v : List (Nat × SegData)} (hv : ∀ e ∈ v, SegData.wf e.2 = true) : State.Sized { x with segs := v } :=
  ⟨h.sess, h.stack, h.pres, h.ports, h.lines, h.can, h.settle, h.conv, h.pts, h.cpe, h.cpeNv, h.thmAt, h.arrAt, hv⟩

/-- The copy that came over is discarded. -/
theorem State.Sized.noSegs (h : x.Sized) : State.Sized { x with segs := [] } := h.withSegs fun _ he => absurd he List.not_mem_nil

theorem State.Sized.withEvr (h : x.Sized) {v : EvrSt} : State.Sized { x with evr := v } := h.congr rfl rfl rfl rfl rfl rfl rfl rfl rfl rfl rfl
theorem State.Sized.withDev (h : x.Sized) {v : DevSt} : State.Sized { x with dev := v } := h.congr rfl rfl rfl rfl rfl rfl rfl rfl rfl rfl rfl
theorem State.Sized.withTwin (h : x.Sized) {v : TwinSt} : State.Sized { x with twin := v } := h.congr rfl rfl rfl rfl rfl rfl rfl rfl rfl rfl rfl
theorem State.Sized.withLnch (h : x.Sized) {v : List LnchArm} : State.Sized { x with lnch := v } := h.congr rfl rfl rfl rfl rfl rfl rfl rfl rfl rfl rfl
theorem State.Sized.withMbx (h : x.Sized) {v : List Mbx} : State.Sized { x with mbx := v } := h.congr rfl rfl rfl rfl rfl rfl rfl rfl rfl rfl rfl
theorem State.Sized.withSent (h : x.Sized) {v : List OutMsg} : State.Sized { x with sent := v } := h.congr rfl rfl rfl rfl rfl rfl rfl rfl rfl rfl rfl
theorem State.Sized.withShadow (h : x.Sized) {v : SMap} : State.Sized { x with shadow := v } := h.congr rfl rfl rfl rfl rfl rfl rfl rfl rfl rfl rfl
theorem State.Sized.withCommitDue (h : x.Sized) {v : List Nat} : State.Sized { x with commitDue := v } := h.congr rfl rfl rfl rfl rfl rfl rfl rfl rfl rfl rfl
theorem State.Sized.withTbl (h : x.Sized) {v : SMap} : State.Sized { x with tbl := v } := h.congr rfl rfl rfl rfl rfl rfl rfl rfl rfl rfl rfl

theorem length_setAt {α : Type} (l : List α) (i : Nat) (y : α) : (setAt l i y).length = l.length := List.length_set

/-! #### Branches, folds and pairs -/

theorem sized_ite {a b : State} {c : Prop} [Decidable c] (ha : a.Sized) (hb : b.Sized) : (if c then a else b).Sized := by
  split
  · exact ha
  · exact hb

theorem sized_iteP {α : Type} {a b : State × α} {c : Prop} [Decidable c] (ha : a.1.Sized) (hb : b.1.Sized) : (if c then a else b).1.Sized := by
  split
  · exact ha
  · exact hb

theorem sized_foldl {α : Type} {l : List α} {f : State → α → State} (h : x.Sized) (hf : ∀ a e, a.Sized → (f a e).Sized) : (l.foldl f x).Sized := by
  induction l generalizing x with
  | nil => exact h
  | cons e l ih => exact ih (hf x e h)

theorem sized_foldlP {α β : Type} {y : State × β} {l : List α} {f : State × β → α → State × β} (h : y.1.Sized)
    (hf : ∀ a e, a.1.Sized → (f a e).1.Sized) : (l.foldl f y).1.Sized := by
  induction l generalizing y with
  | nil => exact h
  | cons e l ih => exact ih (hf y e h)

theorem sized_foldl_mem {α : Type} {l : List α} {f : State → α → State} (h : x.Sized) (hf : ∀ a e, e ∈ l → a.Sized → (f a e).Sized) :
    (l.foldl f x).Sized := by
  induction l generalizing x with
  | nil => exact h
  | cons e l ih => exact ih (hf x e List.mem_cons_self h) fun a b hb => hf a b (List.mem_cons_of_mem _ hb)

/-- Notification items put with every session that asks for them (R434). -/
theorem sized_notify {p : Nat} {it : NItem} (h : x.Sized) : State.Sized { x with host := { x.host with
    sess := x.host.sess.map (fun y => if y.pageMask / 2 ^ p % 2 = 1 then y.addItem it x.tickUs else y) } } := h.withHost (List.length_map ..)

theorem sized_tblPut (m : SMap) (h : x.Sized) : (m.foldl (fun a e => { a with tbl := smSet tblReset a.tbl e.1 e.2 }) x).Sized :=
  sized_foldl h fun _ _ ha => ha.withTbl

theorem sized_of_pair {α : Type} {a : State} {b : α} {p : State × α} (e : p = (a, b)) (h : p.1.Sized) : a.Sized := by
  rw [e] at h
  exact h

theorem sized_fst {α : Type} {b : α} (h : s.Sized) : (s, b).1.Sized := h

theorem sizedO_next (h : s.Sized) : SizedO (.next s) := by
  intro t ht
  cases ht
  exact h

/-! #### Results of the checks of a message -/

theorem sized_refused {p : GspRes} (e : p = .refused s) (h : p.state.Sized) : s.Sized := by
  rw [e] at h
  exact h

theorem sized_back {p : GspRes} {l : List (Nat × List Byte)} (e : p = .back s l) (h : p.state.Sized) : s.Sized := by
  rw [e] at h
  exact h

theorem sized_ok {p : GspRes} {n : Nat} {l : List (Nat × List Byte)} (e : p = .ok s n l) (h : p.state.Sized) : s.Sized := by
  rw [e] at h
  exact h

theorem sizedG_refused (h : s.Sized) : (GspRes.refused s).state.Sized := h

theorem sizedG_back {l : List (Nat × List Byte)} (h : s.Sized) : (GspRes.back s l).state.Sized := h

theorem sizedG_ok {n : Nat} {l : List (Nat × List Byte)} (h : s.Sized) : (GspRes.ok s n l).state.Sized := h

theorem sizedG_ite {a b : GspRes} {c : Prop} [Decidable c] (ha : a.state.Sized) (hb : b.state.Sized) : (if c then a else b).state.Sized := by
  split
  · exact ha
  · exact hb

/-! #### Commands of a register -/

/-- Every command of a register, if there is one, keeps the lengths. -/
def AllSized (o : Option (List (State → State × Status))) : Prop := ∀ l, o = some l → ∀ f ∈ l, ∀ x, x.Sized → (f x).1.Sized

theorem allSized_ite {a b : Option (List (State → State × Status))} {c : Prop} [Decidable c] (ha : AllSized a) (hb : AllSized b) :
    AllSized (if c then a else b) := by
  split
  · exact ha
  · exact hb

theorem allSized_none : AllSized none := fun _ h => by cases h

theorem allSized_nil : AllSized (some []) := by
  intro l h f hf
  cases h
  exact absurd hf List.not_mem_nil

theorem allSized_cons {f : State → State × Status} {l : List (State → State × Status)} (hf : ∀ x, x.Sized → (f x).1.Sized) (hl : AllSized (some l)) :
    AllSized (some (f :: l)) := by
  intro l' h g hg
  cases h
  rcases List.mem_cons.1 hg with h | h
  · exact h ▸ hf
  · exact hl l rfl g h

end
end Sys2Proof.Machine
end

section
namespace Sys2Proof.Machine

/-! #### Words, fields, events and items -/

theorem State.Sized.wr {s : State} {a : Nat} {v : Word} (hs : s.Sized) : (State.wr s a v).Sized :=
  (wr_keeps (Keeps.refl _ _) (List.Subset.refl _)).sized hs (of_decide_eq_true rfl)

theorem State.Sized.setF {s : State} {f : Fld} {v : Nat} (hs : s.Sized) : (State.setF s f v).Sized :=
  (setF_keeps (Keeps.refl _ _) (List.Subset.refl _)).sized hs (of_decide_eq_true rfl)

theorem State.Sized.setB {s : State} {f : Fld} {b : Bool} (hs : s.Sized) : (State.setB s f b).Sized :=
  (setB_keeps (Keeps.refl _ _) (List.Subset.refl _)).sized hs (of_decide_eq_true rfl)

theorem State.Sized.twr {s : State} {tid : Nat} {idx : Nat} {w : Nat} {v : Word} (hs : s.Sized) : (State.twr s tid idx w v).Sized :=
  (twr_keeps (Keeps.refl _ _) (List.Subset.refl _)).sized hs (of_decide_eq_true rfl)

theorem State.Sized.tset {s : State} {tid : Nat} {idx : Nat} {w : Nat} {lo : Nat} {n : Nat} {v : Nat} (hs : s.Sized) :
    (State.tset s tid idx w lo n v).Sized :=
  (tset_keeps (Keeps.refl _ _) (List.Subset.refl _)).sized hs (of_decide_eq_true rfl)

theorem State.Sized.trecSet {s : State} {tid : Nat} {idx : Nat} {w : Nat} {a4 : List Word} (hs : s.Sized) : (State.trecSet s tid idx w a4).Sized :=
  (trecSet_keeps (Keeps.refl _ _) (List.Subset.refl _)).sized hs (of_decide_eq_true rfl)

theorem State.Sized.tclear {s : State} {tid : Nat} {p : Nat → Bool} (hs : s.Sized) : (State.tclear s tid p).Sized :=
  (tclear_keeps (Keeps.refl _ _) (List.Subset.refl _)).sized hs (of_decide_eq_true rfl)

theorem State.Sized.bankSwap {s : State} {p : Nat → Bool} (hs : s.Sized) : (State.bankSwap s p).Sized :=
  (bankSwap_keeps (Keeps.refl _ _) (List.Subset.refl _)).sized hs (of_decide_eq_true rfl)

theorem State.Sized.tkeep {s : State} {p : Nat → Bool} (hs : s.Sized) : (State.tkeep s p).Sized :=
  (tkeep_keeps (Keeps.refl _ _) (List.Subset.refl _)).sized hs (of_decide_eq_true rfl)

theorem State.Sized.bumpN {s : State} {c : Ctr} {n : Nat} (hs : s.Sized) : (State.bumpN s c n).Sized :=
  (bumpN_keeps (Keeps.refl _ _) (List.Subset.refl _)).sized hs (of_decide_eq_true rfl)

theorem State.Sized.bump {s : State} {c : Ctr} (hs : s.Sized) : (State.bump s c).Sized :=
  (bump_keeps (Keeps.refl _ _) (List.Subset.refl _)).sized hs (of_decide_eq_true rfl)

theorem State.Sized.clearCtr {s : State} {c : Ctr} (hs : s.Sized) : (State.clearCtr s c).Sized :=
  (clearCtr_keeps (Keeps.refl _ _) (List.Subset.refl _)).sized hs (of_decide_eq_true rfl)

theorem State.Sized.srcSet {s : State} {src : Nat} {lo : Nat} {n : Nat} {v : Nat} (hs : s.Sized) : (State.srcSet s src lo n v).Sized :=
  (srcSet_keeps (Keeps.refl _ _) (List.Subset.refl _)).sized hs (of_decide_eq_true rfl)

theorem State.Sized.addItem {s : State} {i : Nat} {it : NItem} (hs : s.Sized) : (State.addItem s i it).Sized :=
  (addItem_keeps (Keeps.refl _ _) (List.Subset.refl _)).sized hs (of_decide_eq_true rfl)

theorem State.Sized.icuTgtStat {s : State} {t : Nat} (hs : s.Sized) : (State.icuTgtStat s t).Sized :=
  (icuTgtStat_keeps (Keeps.refl _ _) (List.Subset.refl _)).sized hs (of_decide_eq_true rfl)

theorem State.Sized.icuEvalT {s : State} {t : Nat} (hs : s.Sized) : (State.icuEvalT s t).Sized := by
  delta State.icuEvalT
  extract_lets +onlyGivenNames y1 y2 y3 y4
  have hy4 : y4.Sized := hs.withIcu rfl (length_setAt ..)
  extract_lets +onlyGivenNames y5
  have hy5 : y5.Sized := by
    unfold y5
    split
    · exact sized_ite hy4.addItem hy4
    · exact hy4
  exact hy5.icuTgtStat

theorem State.Sized.icuPendN {s : State} (hs : s.Sized) : (State.icuPendN s).Sized :=
  (icuPendN_keeps (Keeps.refl _ _) (List.Subset.refl _)).sized hs (of_decide_eq_true rfl)

theorem State.Sized.icuEval {s : State} (hs : s.Sized) : (State.icuEval s).Sized := by
  delta State.icuEval
  exact (sized_foldl hs (fun a e ha => ha.icuEvalT)).icuPendN

theorem State.Sized.signal {s : State} {src : Nat} (hs : s.Sized) : (State.signal s src).Sized := by
  delta State.signal
  refine sized_ite hs ?_
  extract_lets +onlyGivenNames y1
  have hy1 : y1.Sized := hs.srcSet
  extract_lets +onlyGivenNames y2 y3
  have hy3 : y3.Sized := sized_ite hy1.srcSet.srcSet hy1.srcSet
  exact hy3.icuEval

theorem State.Sized.noteEv {s : State} {p : Nat} {b : Nat} {was : Bool} (hs : s.Sized) : (State.noteEv s p b was).Sized := by
  delta State.noteEv
  exact hs.withIcu (by rfl) (by rfl)

theorem State.Sized.tickEarly {s : State} (hs : s.Sized) : (State.tickEarly s).Sized := by
  delta State.tickEarly
  exact sized_ite hs (hs.withIcu (by rfl) (by rfl))

theorem State.Sized.tickNotes {s : State} (hs : s.Sized) : (State.tickNotes s).Sized := by
  delta State.tickNotes
  exact hs.withIcu (by rfl) (by rfl)

theorem State.Sized.raiseNoRec {s : State} {p : Nat} {b : Nat} (hs : s.Sized) : (State.raiseNoRec s p b).Sized := by
  delta State.raiseNoRec
  extract_lets base was s1 s2 h s3
  have h1 : s1.Sized := State.Sized.noteEv (State.Sized.setF hs)
  have h2 : s2.Sized := State.Sized.bumpN h1
  have h3 : s3.Sized := sized_notify h2
  refine sized_ite ?_ h3
  exact State.Sized.signal h3

theorem State.Sized.evrSetTokens {s : State} {k : Nat} {n : Nat} (hs : s.Sized) : (State.evrSetTokens s k n).Sized :=
  (evrSetTokens_keeps (Keeps.refl _ _) (List.Subset.refl _)).sized hs (of_decide_eq_true rfl)

theorem State.Sized.evrSetSupp {s : State} {k : Nat} {n : Nat} (hs : s.Sized) : (State.evrSetSupp s k n).Sized :=
  (evrSetSupp_keeps (Keeps.refl _ _) (List.Subset.refl _)).sized hs (of_decide_eq_true rfl)

theorem State.Sized.evrSuppress {s : State} {k : Nat} {sec : Nat} {ns : Nat} (hs : s.Sized) : (State.evrSuppress s k sec ns).Sized := by
  delta State.evrSuppress
  extract_lets +onlyGivenNames y1 y2
  have hy2 : y2.Sized := sized_ite hs.twr.twr hs
  extract_lets +onlyGivenNames y3
  have hy3 : y3.Sized := hy2.twr.twr
  extract_lets +onlyGivenNames y4
  have hy4 : y4.Sized := hy3.bump
  refine sized_ite ?_ ?_
  · extract_lets +onlyGivenNames y5
    have hy5 : y5.Sized := hy4.evrSetSupp
    exact sized_ite hy5.raiseNoRec hy5
  · exact hy4

theorem State.Sized.evrTake {s : State} {k : Nat} (hs : s.Sized) : (State.evrTake s k).Sized :=
  (evrTake_keeps (Keeps.refl _ _) (List.Subset.refl _)).sized hs (of_decide_eq_true rfl)

theorem State.Sized.offer {s : State} {code : Nat} {kind : Nat} (hs : s.Sized) : (State.offer s code kind).Sized := by
  delta State.offer
  extract_lets +onlyGivenNames y1 y2 y3
  refine sized_ite hs ?_
  refine sized_ite hs ?_
  refine sized_ite hs.bump ?_
  refine sized_ite ?_ ?_
  · extract_lets +onlyGivenNames y4
    have hy4 : y4.Sized := hs.bump
    exact sized_ite hy4 hy4.withEvr.raiseNoRec
  · refine sized_ite hs.evrSuppress ?_
    refine sized_ite ?_ ?_
    · extract_lets +onlyGivenNames y5
      have hy5 : y5.Sized := hs.bump
      exact sized_ite hy5 hy5.setF.raiseNoRec
    · extract_lets +onlyGivenNames y6
      have hy6 : y6.Sized := hs.evrTake
      extract_lets +onlyGivenNames y7 y8 y9
      have hy9 : y9.Sized := hy6.withEvr
      extract_lets +onlyGivenNames y10 y11
      have hy11 : y11.Sized := hy9.setF.setF
      extract_lets +onlyGivenNames y12
      have hy12 : y12.Sized := sized_ite hy11.setF hy11
      exact sized_ite hy12.tset hy12

theorem State.Sized.raiseEv {s : State} {p : Nat} {b : Nat} (hs : s.Sized) : (State.raiseEv s p b).Sized := by
  delta State.raiseEv
  extract_lets +onlyGivenNames y1
  have hy1 : y1.Sized := hs.raiseNoRec
  exact sized_ite hy1 hy1.offer

theorem State.Sized.mbxMod {s : State} {n : Nat} {f : Mbx → Mbx} (hs : s.Sized) : (State.mbxMod s n f).Sized :=
  (mbxMod_keeps (Keeps.refl _ _) (List.Subset.refl _)).sized hs (of_decide_eq_true rfl)

theorem State.Sized.mbxPuts {s : State} {n : Nat} {i : Nat} {a3 : List Item} (hs : s.Sized) : (State.mbxPuts s n i a3).Sized :=
  (mbxPuts_keeps (Keeps.refl _ _) (List.Subset.refl _)).sized hs (of_decide_eq_true rfl)

theorem State.Sized.mbxPutsNext {s : State} {n : Nat} {i : Nat} {a3 : List Item} (hs : s.Sized) : (State.mbxPutsNext s n i a3).Sized :=
  (mbxPutsNext_keeps (Keeps.refl _ _) (List.Subset.refl _)).sized hs (of_decide_eq_true rfl)

theorem State.Sized.xbarViol {s : State} {eng : Nat} {addr : Word} (hs : s.Sized) : (State.xbarViol s eng addr).Sized := by
  delta State.xbarViol
  exact hs.setF.wr.bump.raiseEv

theorem State.Sized.setMstate {s : State} {m : Nat} (hs : s.Sized) : (State.setMstate s m).Sized := by
  delta State.setMstate
  exact sized_ite hs hs.setF.setF.setF.raiseEv

theorem State.Sized.emit {s : State} {m : OutMsg} (hs : s.Sized) : (State.emit s m).Sized :=
  (emit_keeps (Keeps.refl _ _) (List.Subset.refl _)).sized hs (of_decide_eq_true rfl)

theorem State.Sized.rxFrame {s : State} {p : Nat} (hs : s.Sized) : (State.rxFrame s p).Sized :=
  (rxFrame_keeps (Keeps.refl _ _) (List.Subset.refl _)).sized hs (of_decide_eq_true rfl)

theorem State.Sized.txFrame {s : State} {p : Nat} (hs : s.Sized) : (State.txFrame s p).Sized :=
  (txFrame_keeps (Keeps.refl _ _) (List.Subset.refl _)).sized hs (of_decide_eq_true rfl)

theorem State.Sized.prpStep {s : State} (hs : s.Sized) : (State.prpStep s).Sized := by
  delta State.prpStep
  exact hs.withSnet (by rfl)

theorem State.Sized.prpNext {s : State} {port : Nat} {m : Option Nat → OutMsg} (hs : s.Sized) : (State.prpNext s port m).Sized := by
  delta State.prpNext
  exact sized_ite hs.emit.prpStep hs.emit

theorem State.Sized.prpSkip {s : State} {port : Nat} (hs : s.Sized) : (State.prpSkip s port).Sized := by
  delta State.prpSkip
  exact sized_ite hs.prpStep hs

theorem State.Sized.useFree {s : State} (hs : s.Sized) : (State.useFree s).Sized :=
  (useFree_keeps (Keeps.refl _ _) (List.Subset.refl _)).sized hs (of_decide_eq_true rfl)

/-! #### Program images -/

theorem State.Sized.cpeMod {s : State} {p : Nat} {f : CpeSt → CpeSt} (hs : s.Sized) : (State.cpeMod s p f).Sized := by
  delta State.cpeMod
  exact hs.withCpe (modAt_length ..)

theorem State.Sized.cpeBump {s : State} {p : Nat} {c : Ctr} (hs : s.Sized) : (State.cpeBump s p c).Sized :=
  (cpeBump_keeps (Keeps.refl _ _) (List.Subset.refl _)).sized hs (of_decide_eq_true rfl)

theorem State.Sized.instPut {s : State} {p : Nat} {off : Nat} {v : Nat} (hs : s.Sized) : (State.instPut s p off v).Sized :=
  (instPut_keeps (Keeps.refl _ _) (List.Subset.refl _)).sized hs (of_decide_eq_true rfl)

theorem State.Sized.instPuts {s : State} {p : Nat} {off : Nat} {bs : List Nat} (hs : s.Sized) : (State.instPuts s p off bs).Sized :=
  (instPuts_keeps (Keeps.refl _ _) (List.Subset.refl _)).sized hs (of_decide_eq_true rfl)

theorem State.Sized.errQ {s : State} {p : Nat} {cause : Nat} {arg : Nat} {sub : Nat} (hs : s.Sized) : (State.errQ s p cause arg sub).Sized := by
  delta State.errQ
  extract_lets +onlyGivenNames y1 y2
  refine sized_ite hs ?_
  refine sized_ite ?_ ?_
  · extract_lets +onlyGivenNames y3
    have hy3 : y3.Sized := hs.cpeBump
    exact sized_ite hy3 hy3.cpeMod.raiseEv
  · extract_lets +onlyGivenNames y4 y5
    have hy5 : y5.Sized := hs.trecSet
    extract_lets +onlyGivenNames y6
    have hy6 : y6.Sized := hy5.cpeMod
    exact hy6.wr.cpeBump.raiseEv

/-! #### Sessions and sources -/

theorem State.Sized.sessMod {s : State} {i : Nat} {f : Sess → Sess} (hs : s.Sized) : (State.sessMod s i f).Sized := by
  delta State.sessMod
  exact hs.withHost (modAt_length ..)

theorem State.Sized.hostMod {s : State} {f : HostSt → HostSt} (hs : s.Sized) (hsess : (f s.host).sess.length = s.host.sess.length) :
    (State.hostMod s f).Sized := hs.withHost hsess

theorem State.Sized.say {s : State} {svc : Bool} {m : OutMsg} (hs : s.Sized) : (State.say s svc m).Sized :=
  (say_keeps (Keeps.refl _ _) (List.Subset.refl _)).sized hs (of_decide_eq_true rfl)

theorem State.Sized.hostRegs {s : State} (hs : s.Sized) : (State.hostRegs s).Sized :=
  (hostRegs_keeps (Keeps.refl _ _) (List.Subset.refl _)).sized hs (of_decide_eq_true rfl)

theorem State.Sized.authFail {s : State} (hs : s.Sized) : (State.authFail s).Sized := by
  delta State.authFail
  extract_lets +onlyGivenNames y1
  have hy1 : y1.Sized := hs.bump
  exact sized_ite hy1 (hy1.hostMod (by rfl)).raiseEv

theorem State.Sized.recvKwp {s : State} {k : Kwp} (hs : s.Sized) : (State.recvKwp s k).1.Sized := by
  delta State.recvKwp
  extract_lets +onlyGivenNames y1
  refine sized_iteP (sized_fst hs) ?_
  refine sized_iteP (sized_fst hs.bump) ?_
  refine sized_iteP (sized_fst hs.authFail) ?_
  refine sized_iteP (sized_fst hs.authFail) ?_
  refine sized_iteP (sized_fst hs.bump) ?_
  extract_lets +onlyGivenNames y2
  have hy2 : y2.Sized := hs.bump.sessMod
  exact sized_iteP (sized_fst hy2.bump.raiseEv) (sized_fst hy2)

theorem State.Sized.respond {s : State} {i : Nat} {reqId : Nat} {op : Nat} {st : Status} {data : List Word} (hs : s.Sized) :
    (State.respond s i reqId op st data).Sized := by
  delta State.respond
  extract_lets +onlyGivenNames y1 y2
  exact hs.sessMod.say

theorem State.Sized.respondOnly {s : State} {i : Nat} {r : Resp} (hs : s.Sized) : (State.respondOnly s i r).Sized := by
  delta State.respondOnly
  extract_lets +onlyGivenNames y1
  exact hs.sessMod.say

theorem State.Sized.respondTo {s : State} {q : HReq} {op : Nat} {st : Status} {data : List Word} (hs : s.Sized) :
    (State.respondTo s q op st data).Sized := by
  delta State.respondTo
  exact sized_ite hs.respond hs

theorem State.Sized.request {s : State} {k : Kwp} {op : Nat} {f : State → State} (hs : s.Sized) (hf : ∀ x, x.Sized → (f x).Sized) :
    (State.request s k op f).Sized := by
  delta State.request
  split
  · refine sized_of_pair (by assumption) ?_
    exact hs.recvKwp
  · extract_lets +onlyGivenNames y1
    split
    · refine State.Sized.respondOnly ?_
      refine sized_of_pair (by assumption) ?_
      exact hs.recvKwp
    · refine sized_ite ?_ ?_
      · refine sized_of_pair (by assumption) ?_
        exact hs.recvKwp
      · refine sized_ite ?_ ?_
        · refine State.Sized.respondOnly ?_
          refine sized_of_pair (by assumption) ?_
          exact hs.recvKwp
        · refine hf _ ?_
          refine sized_of_pair (by assumption) ?_
          exact hs.recvKwp

theorem State.Sized.hold {s : State} {k : Kwp} {op : HOp} (hs : s.Sized) : (State.hold s k op).Sized := by
  delta State.hold
  extract_lets +onlyGivenNames y1
  have hy1 : y1.Sized := hs.sessMod
  exact hy1.hostMod (by rfl)

theorem State.Sized.holdOwn {s : State} {k : Kwp} {op : HOp} (hs : s.Sized) : (State.holdOwn s k op).Sized := by
  delta State.holdOwn
  extract_lets +onlyGivenNames y1
  have hy1 : y1.Sized := hs.sessMod
  exact hy1.hostMod (by rfl)

theorem State.Sized.complete {s : State} {c : HCmd} {st : Status} {result : Word} (hs : s.Sized) : (State.complete s c st result).Sized := by
  delta State.complete
  extract_lets +onlyGivenNames y1
  have hy1 : y1.Sized := hs.hostMod (by rfl)
  extract_lets +onlyGivenNames y2
  refine sized_ite ?_ ?_
  · extract_lets +onlyGivenNames y3
    exact hy1.sessMod.addItem
  · exact hy1.bump

theorem State.Sized.closeSess {s : State} {i : Nat} (hs : s.Sized) : (State.closeSess s i).Sized := by
  delta State.closeSess
  extract_lets +onlyGivenNames y1
  refine sized_ite hs ?_
  extract_lets +onlyGivenNames y2 y3
  have hy3 : y3.Sized := hs.sessMod
  extract_lets +onlyGivenNames y4
  have hy4 : y4.Sized := sized_ite (hy3.hostMod (by rfl)) hy3
  exact sized_ite hy4 hy4.raiseEv

theorem State.Sized.shown {s : State} (hs : s.Sized) : (State.shown s).Sized :=
  (shown_keeps (Keeps.refl _ _) (List.Subset.refl _)).sized hs (of_decide_eq_true rfl)

theorem State.Sized.andShown {s : State} {r : State} (_hs : s.Sized) (hr : r.Sized) : (State.andShown s r).Sized := by
  delta State.andShown
  exact sized_ite hr hr.shown

/-! #### Banks -/

theorem State.Sized.bankUnverify {s : State} {b : BankPg} (hs : s.Sized) : (State.bankUnverify s b).Sized := by
  delta State.bankUnverify
  extract_lets +onlyGivenNames y1
  have hy1 : y1.Sized := hs.setB
  exact sized_ite hy1.setB.raiseEv hy1

theorem State.Sized.bankVerify {s : State} {b : BankPg} (hs : s.Sized) : (State.bankVerify s b).1.Sized :=
  (bankVerify_keeps (Keeps.refl _ _) (List.Subset.refl _)).sized hs (of_decide_eq_true rfl)

theorem State.Sized.bankFail {s : State} {b : BankPg} {w : Word} (hs : s.Sized) : (State.bankFail s b w).Sized := by
  delta State.bankFail
  exact hs.wr.setB.setB.raiseEv

theorem State.Sized.bankPass {s : State} {b : BankPg} (hs : s.Sized) : (State.bankPass s b).Sized := by
  delta State.bankPass
  exact hs.wr.setB.setB.setB.raiseEv

theorem State.Sized.bankSwitch {s : State} {b : BankPg} (hs : s.Sized) : (State.bankSwitch s b).1.Sized :=
  (bankSwitch_keeps (Keeps.refl _ _) (List.Subset.refl _)).sized hs (of_decide_eq_true rfl)

theorem State.Sized.bankCancel {s : State} {b : BankPg} (hs : s.Sized) : (State.bankCancel s b).Sized :=
  (bankCancel_keeps (Keeps.refl _ _) (List.Subset.refl _)).sized hs (of_decide_eq_true rfl)

theorem State.Sized.bankWritten {s : State} {b : BankPg} (hs : s.Sized) : (State.bankWritten s b).Sized := by
  delta State.bankWritten
  extract_lets +onlyGivenNames y1
  have hy1 : y1.Sized := hs.bankUnverify
  exact sized_ite hy1.bankFail hy1

theorem State.Sized.bankExchange {s : State} {b : BankPg} {p : Nat → Bool} (hs : s.Sized) : (State.bankExchange s b p).Sized :=
  (bankExchange_keeps (Keeps.refl _ _) (List.Subset.refl _)).sized hs (of_decide_eq_true rfl)

theorem State.Sized.bankSoftReset {s : State} {b : BankPg} (hs : s.Sized) : (State.bankSoftReset s b).Sized := by
  delta State.bankSoftReset
  exact hs.bankUnverify

theorem State.Sized.writeRecord {s : State} {t : TableInfo} {idx : Nat} {ws : List Word} (hs : s.Sized) : (State.writeRecord s t idx ws).Sized :=
  (writeRecord_keeps (Keeps.refl _ _) (List.Subset.refl _)).sized hs (of_decide_eq_true rfl)

theorem State.Sized.serveXfer {s : State} {page : Nat} {n : Nat} (hs : s.Sized) : (State.serveXfer s page n).Sized := by
  delta State.serveXfer
  extract_lets +onlyGivenNames y1
  refine sized_foldl ?_ (fun a e ha => ?_)
  · exact hs
  · extract_lets +onlyGivenNames y2
    have hy2 : y2.Sized := ha.hostMod (by rfl)
    split
    · split
      · exact hy2.respondTo
      · exact hy2
    · exact hy2.hostMod (by rfl)
    · exact hy2

/-! #### Operands -/

theorem State.Sized.keyTaken {s : State} {n : Nat} (hs : s.Sized) : (State.keyTaken s n).Sized :=
  (keyTaken_keeps (Keeps.refl _ _) (List.Subset.refl _)).sized hs (of_decide_eq_true rfl)

/-! #### Inputs and outputs -/

theorem State.Sized.dioMod {s : State} {f : DioSt → DioSt} (hs : s.Sized) : (State.dioMod s f).Sized :=
  (dioMod_keeps (Keeps.refl _ _) (List.Subset.refl _)).sized hs (of_decide_eq_true rfl)

theorem State.Sized.aoutStat {s : State} (hs : s.Sized) : (State.aoutStat s).Sized :=
  (aoutStat_keeps (Keeps.refl _ _) (List.Subset.refl _)).sized hs (of_decide_eq_true rfl)

theorem State.Sized.outputsSafe {s : State} (hs : s.Sized) : (State.outputsSafe s).Sized :=
  (outputsSafe_keeps (Keeps.refl _ _) (List.Subset.refl _)).sized hs (of_decide_eq_true rfl)

theorem State.Sized.enterFault {s : State} {cause : Nat} {eng : Nat} (hs : s.Sized) : (State.enterFault s cause eng).Sized := by
  delta State.enterFault
  refine sized_ite hs ?_
  extract_lets +onlyGivenNames y1
  have hy1 : y1.Sized := hs.setF.setF
  extract_lets +onlyGivenNames y2
  have hy2 : y2.Sized := hy1.bump
  extract_lets +onlyGivenNames y3 y4
  have hy4 : y4.Sized := hy2.withDev
  extract_lets +onlyGivenNames y5
  have hy5 : y5.Sized := hy4.dioMod
  exact hy5.setMstate.outputsSafe

theorem State.Sized.fwViol {s : State} {eng : Nat} {addr : Word} (hs : s.Sized) : (State.fwViol s eng addr).Sized := by
  delta State.fwViol
  exact hs.xbarViol.enterFault

theorem State.Sized.fwPuts {s : State} {eng : Nat} {n : Nat} {i : Nat} {its : List Item} (hs : s.Sized) : (State.fwPuts s eng n i its).Sized := by
  delta State.fwPuts
  exact sized_ite hs.fwViol hs.mbxPuts

theorem State.Sized.fwPutsNext {s : State} {eng : Nat} {n : Nat} {i : Nat} {its : List Item} (hs : s.Sized) :
    (State.fwPutsNext s eng n i its).Sized := by
  delta State.fwPutsNext
  exact sized_ite hs.fwViol hs.mbxPutsNext

theorem State.Sized.rolePuts {s : State} {r : Nat} {k : Nat} {its : List Item} (hs : s.Sized) : (State.rolePuts s r k its).Sized := by
  delta State.rolePuts
  exact hs.fwPuts

theorem State.Sized.goto {s : State} {m : Nat} (hs : s.Sized) : (State.goto s m).Sized := by
  delta State.goto
  exact hs.setMstate.aoutStat

theorem State.Sized.tripLatch {s : State} {ch : Nat} {mask : Nat} (hs : s.Sized) : (State.tripLatch s ch mask).Sized :=
  (tripLatch_keeps (Keeps.refl _ _) (List.Subset.refl _)).sized hs (of_decide_eq_true rfl)

theorem State.Sized.reflexTrip {s : State} {ch : Nat} (hs : s.Sized) : (State.reflexTrip s ch).Sized := by
  delta State.reflexTrip
  exact sized_ite hs hs.tripLatch.bump.raiseEv

theorem State.Sized.privArmCmd {s : State} (hs : s.Sized) : (privArmCmd s).1.Sized :=
  (privArmCmd_keeps (Keeps.refl _ _) (List.Subset.refl _)).sized hs (of_decide_eq_true rfl)

theorem State.Sized.privDisarmCmd {s : State} (hs : s.Sized) : (privDisarmCmd s).Sized :=
  (privDisarmCmd_keeps (Keeps.refl _ _) (List.Subset.refl _)).sized hs (of_decide_eq_true rfl)

theorem State.Sized.resetTripCmd {s : State} (hs : s.Sized) : (resetTripCmd s).1.Sized :=
  (resetTripCmd_keeps (Keeps.refl _ _) (List.Subset.refl _)).sized hs (of_decide_eq_true rfl)

theorem State.Sized.execDiEdge {i : Nat} {rising : Bool} {s : State} (hs : s.Sized) : SizedO (execDiEdge i rising s) := by
  delta execDiEdge
  refine sizedO_next ?_
  refine sized_ite hs ?_
  extract_lets +onlyGivenNames y1
  have hy1 : y1.Sized := hs.dioMod
  extract_lets +onlyGivenNames y2
  exact sized_ite hy1.bump.signal hy1

theorem State.Sized.execFastInputEdge {i : Nat} {rising : Bool} {s : State} (hs : s.Sized) : SizedO (execFastInputEdge i rising s) := by
  delta execFastInputEdge
  refine sizedO_next ?_
  refine sized_ite hs ?_
  extract_lets +onlyGivenNames y1
  have hy1 : y1.Sized := hs.dioMod.signal
  exact sized_foldl hy1 (fun a e ha => ha.reflexTrip)

theorem State.Sized.dioDoWrite {on : Bool} {v : Word} {s : State} (hs : s.Sized) : (dioDoWrite on v s).Sized :=
  (dioDoWrite_keeps (Keeps.refl _ _) (List.Subset.refl _)).sized hs (of_decide_eq_true rfl)

theorem State.Sized.dioOcClr {v : Word} {s : State} (hs : s.Sized) : (dioOcClr v s).Sized :=
  (dioOcClr_keeps (Keeps.refl _ _) (List.Subset.refl _)).sized hs (of_decide_eq_true rfl)

theorem State.Sized.execOvercurrent {o : Nat} {s : State} (hs : s.Sized) : SizedO (execOvercurrent o s) := by
  delta execOvercurrent
  exact sizedO_next (sized_ite hs.setB.bump.raiseEv hs)

theorem State.Sized.execReadback {o : Nat} {s : State} (hs : s.Sized) : SizedO (execReadback o s) := by
  delta execReadback
  exact sizedO_next (sized_ite hs.bump.raiseEv hs)

theorem State.Sized.doItems {s : State} (hs : s.Sized) : (State.doItems s).Sized :=
  (doItems_keeps (Keeps.refl _ _) (List.Subset.refl _)).sized hs (of_decide_eq_true rfl)

theorem State.Sized.doReadback {s : State} (hs : s.Sized) : (State.doReadback s).Sized :=
  (doReadback_keeps (Keeps.refl _ _) (List.Subset.refl _)).sized hs (of_decide_eq_true rfl)

theorem State.Sized.dioSoftReset {s : State} (hs : s.Sized) : (State.dioSoftReset s).Sized :=
  (dioSoftReset_keeps (Keeps.refl _ _) (List.Subset.refl _)).sized hs (of_decide_eq_true rfl)

theorem State.Sized.aoutApply {s : State} {a : Nat} (hs : s.Sized) : (State.aoutApply s a).Sized :=
  (aoutApply_keeps (Keeps.refl _ _) (List.Subset.refl _)).sized hs (of_decide_eq_true rfl)

theorem State.Sized.aoutTick {s : State} {a : Nat} (hs : s.Sized) : (State.aoutTick s a).Sized := by
  delta State.aoutTick
  extract_lets +onlyGivenNames y1 y2 y3
  have hy3 : y3.Sized := hs.useFree
  extract_lets +onlyGivenNames y4
  have hy4 : y4.Sized := by
    unfold y4
    refine sized_ite ?_ ?_
    · split
      · exact hy3.setB
      · extract_lets +onlyGivenNames y5
        have hy5 : y5.Sized := hy3.setF.setB.setB
        exact sized_ite hy5.raiseEv hy5
    · exact hs.setB.setB
  exact sized_ite hy4 hy4.aoutApply

theorem State.Sized.pwmTick {s : State} {k : Nat} (hs : s.Sized) : (State.pwmTick s k).Sized :=
  (pwmTick_keeps (Keeps.refl _ _) (List.Subset.refl _)).sized hs (of_decide_eq_true rfl)

theorem State.Sized.execOpenLoop {a : Nat} {s : State} (hs : s.Sized) : SizedO (execOpenLoop a s) := by
  delta execOpenLoop
  exact sizedO_next (sized_ite hs.setB.bump.raiseEv hs)

theorem State.Sized.dioTick {s : State} {aoutUa : List Nat} {rbDiff : Nat} (hs : s.Sized) : (State.dioTick s aoutUa rbDiff).Sized := by
  delta State.dioTick
  extract_lets +onlyGivenNames y1 y2
  have hy2 : y2.Sized := hs.setF
  extract_lets +onlyGivenNames y3
  have hy3 : y3.Sized := sized_ite hy2.setF hy2
  extract_lets +onlyGivenNames y4
  have hy4 : y4.Sized := hy3.doItems.dioMod
  extract_lets +onlyGivenNames y5
  have hy5 : y5.Sized := sized_foldl hy4 (fun a e ha => ha.aoutTick.pwmTick)
  extract_lets +onlyGivenNames y6
  have hy6 : y6.Sized := sized_foldl hy5 (fun a e ha => ha.setF)
  extract_lets +onlyGivenNames y7
  have hy7 : y7.Sized := hy6.doReadback.aoutStat
  extract_lets +onlyGivenNames y8
  exact hy7.fwPuts

/-! #### The sequencer -/

theorem State.Sized.seqMod {s : State} {f : SeqSt → SeqSt} (hs : s.Sized) : (State.seqMod s f).Sized :=
  (seqMod_keeps (Keeps.refl _ _) (List.Subset.refl _)).sized hs (of_decide_eq_true rfl)

theorem State.Sized.ackBy {s : State} {unit : Nat} (hs : s.Sized) : (State.ackBy s unit).Sized :=
  (ackBy_keeps (Keeps.refl _ _) (List.Subset.refl _)).sized hs (of_decide_eq_true rfl)

theorem State.Sized.passEntry {s : State} (hs : s.Sized) : (State.passEntry s).Sized :=
  (passEntry_keeps (Keeps.refl _ _) (List.Subset.refl _)).sized hs (of_decide_eq_true rfl)

theorem State.Sized.entry {s : State} {op : Nat} {unit : Nat} {p : Entry → Bool} {f : State → State} (hs : s.Sized)
    (hf : ∀ x, x.Sized → (f x).Sized) : (State.entry s op unit p f).Sized := by
  delta State.entry
  refine sized_ite hs ?_
  refine sized_ite hs.passEntry.ackBy ?_
  refine hf _ ?_
  exact hs.passEntry.ackBy

theorem State.Sized.execSnap {code : Nat} {s : State} (hs : s.Sized) : SizedO (execSnap code s) := by
  delta execSnap
  exact sizedO_next (hs.entry (fun x hx => hx.offer))

theorem State.Sized.seqInfo {s : State} (hs : s.Sized) : (State.seqInfo s).Sized :=
  (seqInfo_keeps (Keeps.refl _ _) (List.Subset.refl _)).sized hs (of_decide_eq_true rfl)

theorem State.Sized.seqUnverify {s : State} (hs : s.Sized) : (State.seqUnverify s).Sized := by
  delta State.seqUnverify
  extract_lets +onlyGivenNames y1
  have hy1 : y1.Sized := hs.setB
  exact sized_ite hy1.setB.raiseEv hy1

theorem State.Sized.seqVfyFail {s : State} {e : VfyErr} (hs : s.Sized) : (State.seqVfyFail s e).Sized := by
  delta State.seqVfyFail
  extract_lets +onlyGivenNames y1
  have hy1 : y1.Sized := hs.wr
  exact hy1.wr.setB.setB.raiseEv

theorem State.Sized.seqVerifyCmd {s : State} (hs : s.Sized) : (seqVerifyCmd s).1.Sized :=
  (seqVerifyCmd_keeps (Keeps.refl _ _) (List.Subset.refl _)).sized hs (of_decide_eq_true rfl)

theorem State.Sized.execSeqVerifyEnd {s : State} (hs : s.Sized) : SizedO (execSeqVerifyEnd s) := by
  delta execSeqVerifyEnd
  refine sizedO_next ?_
  refine sized_ite hs ?_
  split
  · exact hs.seqVfyFail
  · exact hs.wr.wr.setB.setB.setB.raiseEv

theorem State.Sized.seqSwitchCmd {s : State} (hs : s.Sized) : (seqSwitchCmd s).1.Sized :=
  (seqSwitchCmd_keeps (Keeps.refl _ _) (List.Subset.refl _)).sized hs (of_decide_eq_true rfl)

theorem State.Sized.seqCancelCmd {s : State} (hs : s.Sized) : (seqCancelCmd s).Sized :=
  (seqCancelCmd_keeps (Keeps.refl _ _) (List.Subset.refl _)).sized hs (of_decide_eq_true rfl)

theorem State.Sized.seqWritten {s : State} (hs : s.Sized) : (State.seqWritten s).Sized := by
  delta State.seqWritten
  extract_lets +onlyGivenNames y1
  have hy1 : y1.Sized := hs.seqUnverify
  exact sized_ite hy1.seqVfyFail hy1

theorem State.Sized.seqBankSwitch {s : State} (hs : s.Sized) : (State.seqBankSwitch s).Sized := by
  delta State.seqBankSwitch
  refine sized_ite ?_ ?_
  · extract_lets +onlyGivenNames y1
    have hy1 : y1.Sized := hs.bankSwap
    extract_lets +onlyGivenNames y2
    have hy2 : y2.Sized := hy1.setF.setB.setB
    extract_lets +onlyGivenNames y3
    have hy3 : y3.Sized := hy2.setF
    exact hy3.seqInfo.raiseEv
  · exact hs

/-! #### Converters -/

theorem State.Sized.adcMod {s : State} {f : AdcSt → AdcSt} (hs : s.Sized) (hsettle : (f s.adc).settle.length = s.adc.settle.length)
    (hconv : (f s.adc).conv.length = s.adc.conv.length) :
    (State.adcMod s f).Sized := hs.withAdc hsettle hconv

theorem State.Sized.trigLost {s : State} {cs : List Nat} (hs : s.Sized) : (State.trigLost s cs).Sized := by
  delta State.trigLost
  exact sized_ite hs ((sized_foldl hs (fun a e ha => ha.bump)).raiseEv)

theorem State.Sized.adcSample {s : State} {e : AdcTrg} (hs : s.Sized) : (State.adcSample s e).Sized := by
  delta State.adcSample
  extract_lets +onlyGivenNames y1
  have hy1 : y1.Sized := (hs.adcMod rfl (length_setAt ..)).setB
  split
  · exact hy1
  · exact sized_ite hs (sized_ite hs.trigLost hy1)

theorem State.Sized.adcAdvance {s : State} {t : Nat} (hs : s.Sized) : (State.adcAdvance s t).Sized := by
  delta State.adcAdvance
  extract_lets +onlyGivenNames y1 y2
  have hy2 : y2.Sized := hs.adcMod (by rfl) (by rfl)
  exact sized_foldl hy2 (fun a e ha => ha.adcSample)

theorem State.Sized.adcTrigger {s : State} {src : Nat} {mask : Nat} {dly : Nat} {t : Nat} (hs : s.Sized) :
    (State.adcTrigger s src mask dly t).Sized := by
  delta State.adcTrigger
  refine sized_ite hs ?_
  extract_lets +onlyGivenNames y1
  have hy1 : y1.Sized := hs.adcAdvance
  extract_lets +onlyGivenNames y2
  refine sized_ite hy1.trigLost ?_
  extract_lets +onlyGivenNames y3
  exact hy1.adcMod (by rfl) (by rfl)

theorem State.Sized.execAdcSel {conv : Nat} {arg : Nat} {ns : Nat} {s : State} (hs : s.Sized) : SizedO (execAdcSel conv arg ns s) := by
  delta execAdcSel
  refine sizedO_next ?_
  refine hs.entry (fun x hx => ?_)
  split
  · exact hx
  · exact hx.adcAdvance.adcMod (by rfl) (by rfl)

theorem State.Sized.adcChsel {s : State} {n : Nat} {c : Nat} (hs : s.Sized) : (State.adcChsel s n c).Sized := by
  delta State.adcChsel
  exact hs.adcMod (by rfl) (by rfl)

theorem State.Sized.adcSels {s : State} (hs : s.Sized) : (State.adcSels s).Sized := by
  delta State.adcSels
  exact hs.adcMod (by rfl) (by rfl)

theorem State.Sized.execAdcTrig {arg : Nat} {ns : Nat} {s : State} (hs : s.Sized) : SizedO (execAdcTrig arg ns s) := by
  delta execAdcTrig
  exact sizedO_next (hs.entry (fun x hx => hx.adcTrigger))

theorem State.Sized.adcTrg {s : State} {k : Nat} {ns : Nat} (hs : s.Sized) : (State.adcTrg s k ns).Sized := by
  delta State.adcTrg
  extract_lets +onlyGivenNames y1
  exact sized_ite hs.adcTrigger hs

theorem State.Sized.execAdcTimerTrigger {k : Nat} {ns : Nat} {s : State} (hs : s.Sized) : SizedO (execAdcTimerTrigger k ns s) := by
  delta execAdcTimerTrigger
  extract_lets +onlyGivenNames y1
  exact sizedO_next (sized_ite hs.adcTrg hs)

theorem State.Sized.execPwmCompareTrigger {k : Nat} {ns : Nat} {s : State} (hs : s.Sized) : SizedO (execPwmCompareTrigger k ns s) := by
  delta execPwmCompareTrigger
  extract_lets +onlyGivenNames y1 y2 y3
  exact sizedO_next (sized_ite hs.adcTrg hs)

theorem State.Sized.adcSetWin {s : State} {ch : Nat} {w : AdcWin} (hs : s.Sized) : (State.adcSetWin s ch w).Sized := by
  delta State.adcSetWin
  exact hs.adcMod (by rfl) (by rfl)

theorem State.Sized.reflexConv {s : State} {conv : Nat} {inp : Nat} {code : Int} (hs : s.Sized) : (State.reflexConv s conv inp code).Sized := by
  delta State.reflexConv
  refine sized_foldl ?_ (fun a e ha => ?_)
  · exact hs
  · extract_lets +onlyGivenNames y1 y2 y3 y4
    have hy4 : y4.Sized := ha.dioMod
    exact sized_ite hy4.reflexTrip hy4

theorem State.Sized.adcResult {s : State} {ch : Nat} {c : AdcClose} (hs : s.Sized) : (State.adcResult s ch c).Sized := by
  delta State.adcResult
  extract_lets +onlyGivenNames y1 y2 y3 y4 y5 y6 y7 y8 y9 y10 y11
  have hy11 : y11.Sized := hs.trecSet
  extract_lets +onlyGivenNames y12 y13 y14 y15 y16
  have hy16 : y16.Sized := hy11.fwPutsNext
  exact sized_ite hy16.raiseEv hy16

theorem State.Sized.adcClose {s : State} {ch : Nat} {late : Bool} {short : Bool} (hs : s.Sized) : (State.adcClose s ch late short).Sized := by
  delta State.adcClose
  extract_lets +onlyGivenNames y1 y2 y3 y4 y5
  have hy5 : y5.Sized := hs.adcSetWin
  exact sized_ite (hy5.adcMod (by rfl) (by rfl)) hy5.adcResult

theorem State.Sized.adcTick {s : State} {skips : List (Nat × Nat)} (hs : s.Sized) : (State.adcTick s skips).Sized := by
  delta State.adcTick
  extract_lets +onlyGivenNames y1
  have hy1 : y1.Sized := hs.adcAdvance
  refine sized_foldl ?_ (fun a e ha => ?_)
  · exact hy1
  · extract_lets +onlyGivenNames y2 y3
    exact sized_ite ha.adcClose ha

theorem State.Sized.adcShort {s : State} {chs : List Nat} (hs : s.Sized) : (State.adcShort s chs).Sized := by
  delta State.adcShort
  exact sized_foldl hs (fun a e ha => ha.adcClose)

theorem State.Sized.execAdcConversionEnd {conv : Nat} {code : Int} {ns : Nat} {s : State} (hs : s.Sized) :
    SizedO (execAdcConversionEnd conv code ns s) := by
  delta execAdcConversionEnd
  extract_lets +onlyGivenNames y1 y2
  have hy2 : y2.Sized := hs.adcAdvance
  refine sizedO_next ?_
  split
  · exact hy2
  · refine sized_ite hy2 ?_
    extract_lets +onlyGivenNames y3 y4 y5 y6 y7
    have hy7 : y7.Sized := (hy2.adcMod (length_setAt ..) (length_setAt ..)).setB.bump
    extract_lets +onlyGivenNames y8
    have hy8 : y8.Sized := hy7.reflexConv
    refine sized_ite hy8 ?_
    extract_lets +onlyGivenNames y9 y10
    have hy10 : y10.Sized := sized_ite hy8.setB hy8
    clear_value y9
    split
    · extract_lets +onlyGivenNames y11
      have hy11 : y11.Sized := sized_ite hy10.raiseEv hy10
      exact (hy11.adcMod (by rfl) (by rfl)).adcResult
    · extract_lets +onlyGivenNames y12
      refine sized_ite hy10 ?_
      extract_lets +onlyGivenNames y13
      have hy13 : y13.Sized := sized_ite hy10.raiseEv hy10
      exact hy13.adcSetWin

theorem State.Sized.adcClkLost {s : State} (hs : s.Sized) : (State.adcClkLost s).Sized := by
  delta State.adcClkLost
  extract_lets +onlyGivenNames y1
  have hy1 : y1.Sized := hs.setB.raiseEv
  exact sized_foldl hy1 (fun a e ha => ha.adcSetWin)

theorem State.Sized.adcClkBack {s : State} (hs : s.Sized) : (State.adcClkBack s).Sized :=
  (adcClkBack_keeps (Keeps.refl _ _) (List.Subset.refl _)).sized hs (of_decide_eq_true rfl)

theorem State.Sized.adcSoftReset {s : State} (hs : s.Sized) : (State.adcSoftReset s).Sized := by
  delta State.adcSoftReset
  extract_lets +onlyGivenNames y1
  have hy1 : y1.Sized := hs.adcSels.adcMod (by rfl) (by rfl)
  exact sized_foldl hy1 (fun a e ha => ha.adcSetWin)

end Sys2Proof.Machine
end

section
namespace Sys2Proof.Machine

/-! #### Plant buses -/

theorem State.Sized.canMod {s : State} {p : Nat} {f : CanSt → CanSt} (hs : s.Sized) : (State.canMod s p f).Sized := by
  delta State.canMod
  exact hs.withCan (modAt_length ..)

theorem State.Sized.canBump {s : State} {p : Nat} {c : Ctr} (hs : s.Sized) : (State.canBump s p c).Sized :=
  (canBump_keeps (Keeps.refl _ _) (List.Subset.refl _)).sized hs (of_decide_eq_true rfl)

theorem State.Sized.tailEnd {s : State} {p : Nat} (hs : s.Sized) : (State.tailEnd s p).Sized := by
  delta State.tailEnd
  exact hs.canMod

theorem State.Sized.tailFrom {s : State} {p : Nat} (hs : s.Sized) : (State.tailFrom s p).Sized := by
  delta State.tailFrom
  exact hs.canMod

theorem State.Sized.mbxPutRaw {s : State} {n : Nat} {i : Nat} {a3 : List Item} (hs : s.Sized) : (State.mbxPutRaw s n i a3).Sized :=
  (mbxPutRaw_keeps (Keeps.refl _ _) (List.Subset.refl _)).sized hs (of_decide_eq_true rfl)

theorem State.Sized.mbxPutBytes {s : State} {n : Nat} {b : Nat} {d : List Byte} (hs : s.Sized) : (State.mbxPutBytes s n b d).Sized := by
  delta State.mbxPutBytes
  split
  · exact hs
  · exact sized_ite hs.mbxPutRaw hs.fwViol

theorem State.Sized.stnMod {s : State} {p : Nat} {t : Nat} {f : StnSt → StnSt} (hs : s.Sized) : (State.stnMod s p t f).Sized := by
  delta State.stnMod
  exact hs.canMod

theorem State.Sized.stnPublish {s : State} {p : Nat} {t : Nat} (hs : s.Sized) : (State.stnPublish s p t).Sized := by
  delta State.stnPublish
  extract_lets +onlyGivenNames y1 y2 y3 y4 y5 y6
  have hy6 : y6.Sized := hs.fwPutsNext
  exact hy6.stnMod

theorem State.Sized.stnSet {s : State} {p : Nat} {t : Nat} {st : Nat} (hs : s.Sized) : (State.stnSet s p t st).Sized :=
  (stnSet_keeps (Keeps.refl _ _) (List.Subset.refl _)).sized hs (of_decide_eq_true rfl)

theorem State.Sized.stnInit {s : State} {p : Nat} {t : Nat} (hs : s.Sized) : (State.stnInit s p t).Sized := by
  delta State.stnInit
  extract_lets +onlyGivenNames y1
  have hy1 : y1.Sized := hs.stnSet.tset.tset
  exact hy1.stnMod.stnPublish

theorem State.Sized.stnEval {s : State} {p : Nat} {t : Nat} (hs : s.Sized) : (State.stnEval s p t).Sized := by
  delta State.stnEval
  extract_lets +onlyGivenNames y1 y2
  refine sized_ite hs.stnPublish ?_
  extract_lets +onlyGivenNames y3 y4 y5
  have hy5 : y5.Sized := hs.tset.tset
  extract_lets +onlyGivenNames y6
  have hy6 : y6.Sized := by
    unfold y6
    refine sized_ite ?_ ?_
    · refine sized_ite (sized_ite hy5.stnSet hy5) ?_
      exact sized_ite hy5.stnSet (sized_ite hy5.stnSet (sized_ite (sized_ite hy5.stnSet.raiseEv hy5) hy5))
    · exact sized_ite hy5.stnSet (sized_ite hy5.stnSet hy5)
  exact hy6.stnPublish

theorem State.Sized.canCycle {s : State} {p : Nat} (hs : s.Sized) : (State.canCycle s p).Sized := by
  delta State.canCycle
  exact hs.canMod

theorem State.Sized.stnDrop {s : State} {p : Nat} {t : Nat} (hs : s.Sized) : (State.stnDrop s p t).1.Sized := by
  delta State.stnDrop
  refine sized_iteP ?_ ?_
  · extract_lets +onlyGivenNames y1
    have hy1 : y1.Sized := hs.stnSet.raiseEv.canBump
    extract_lets +onlyGivenNames y2 y3
    have hy3 : y3.Sized := sized_ite hy1.tset.tset hy1.tset
    exact sized_fst hy3.stnPublish
  · exact sized_fst hs

theorem State.Sized.stnResetCmd {p : Nat} {s : State} (hs : s.Sized) : (stnResetCmd p s).Sized := by
  delta stnResetCmd
  extract_lets +onlyGivenNames y1
  exact hs.stnInit.twr

theorem State.Sized.execStnReset {p : Nat} {s : State} (hs : s.Sized) : SizedO (execStnReset p s) := by
  delta execStnReset
  exact sizedO_next hs.stnResetCmd

theorem State.Sized.outMsg {s : State} {p : Nat} {t : Nat} (hs : s.Sized) : (State.outMsg s p t).2.Sized := by
  have h : (s.stnMod p t (fun d => { d with outCnt := ((s.stn p t).outCnt + 1) % 256 })).Sized :=
    State.Sized.stnMod hs
  exact h

theorem State.Sized.canTx {s : State} {p : Nat} {o : Nat} (hs : s.Sized) : (State.canTx s p o).Sized := by
  delta State.canTx
  refine sized_ite hs ?_
  extract_lets +onlyGivenNames len r
  have hr : r.2.Sized := by
    unfold r
    split
    · exact hs
    · split
      · exact State.Sized.outMsg hs
      · exact hs
  clear_value r
  obtain ⟨l, x⟩ := r
  extract_lets +onlyGivenNames q1 q2 s1
  have h1 : s1.Sized := State.Sized.withTwin hr
  refine sized_ite h1 ?_
  extract_lets +onlyGivenNames s2
  have h2 : s2.Sized := sized_ite (State.Sized.canBump h1) h1
  extract_lets +onlyGivenNames since
  exact State.Sized.canMod (State.Sized.tset h2)

theorem State.Sized.execCanTx {arg : Nat} {s : State} (hs : s.Sized) : SizedO (execCanTx arg s) := by
  delta execCanTx
  refine sizedO_next ?_
  refine hs.entry (fun x hx => ?_)
  split
  · exact hx
  · exact hx.canTx

theorem State.Sized.canWithdraw {s : State} {p : Nat} {o : Nat} (hs : s.Sized) : (State.canWithdraw s p o).Sized := by
  delta State.canWithdraw
  exact hs.tset.canMod

theorem State.Sized.canRefLost {s : State} {p : Nat} (hs : s.Sized) : (State.canRefLost s p).Sized := by
  delta State.canRefLost
  exact sized_ite hs.canBump.wr.canMod hs

theorem State.Sized.canQueueRef {s : State} {p : Nat} (hs : s.Sized) : (State.canQueueRef s p).Sized := by
  delta State.canQueueRef
  extract_lets +onlyGivenNames y1
  exact hs.canMod

theorem State.Sized.canRef {s : State} {p : Nat} (hs : s.Sized) : (State.canRef s p).Sized := by
  delta State.canRef
  extract_lets +onlyGivenNames y1
  have hy1 : y1.Sized := hs.canRefLost
  extract_lets +onlyGivenNames y2
  have hy2 : y2.Sized := sized_ite hy1.canQueueRef hy1
  exact sized_ite hy2 (sized_foldl hy2 (fun a e ha => ha.stnEval))

theorem State.Sized.execCanRef {arg : Nat} {s : State} (hs : s.Sized) : SizedO (execCanRef arg s) := by
  delta execCanRef
  exact sizedO_next (hs.entry (fun x hx => hx.canRef))

theorem State.Sized.canClash {s : State} {p : Nat} {suspect : Bool} {ref : Bool} {id : Nat} (hs : s.Sized) :
    (State.canClash s p suspect ref id).Sized :=
  (canClash_keeps (Keeps.refl _ _) (List.Subset.refl _)).sized hs (of_decide_eq_true rfl)

theorem State.Sized.canConfine {s : State} {p : Nat} (hs : s.Sized) : (State.canConfine s p).Sized :=
  (canConfine_keeps (Keeps.refl _ _) (List.Subset.refl _)).sized hs (of_decide_eq_true rfl)

theorem State.Sized.canRxOk {s : State} {p : Nat} {m : Nat} (hs : s.Sized) : (State.canRxOk s p m).Sized :=
  (canRxOk_keeps (Keeps.refl _ _) (List.Subset.refl _)).sized hs (of_decide_eq_true rfl)

theorem State.Sized.stnInput {s : State} {p : Nat} {t : Nat} {d : List Byte} (hs : s.Sized) : (State.stnInput s p t d).Sized := by
  delta State.stnInput
  exact State.Sized.stnPublish (State.Sized.stnMod (State.Sized.tset hs))

theorem State.Sized.canAccept {s : State} {p : Nat} {o : Nat} {f : CanFrame} (hs : s.Sized) : (State.canAccept s p o f).Sized := by
  delta State.canAccept
  extract_lets +onlyGivenNames y1
  have hy1 : y1.Sized := hs.twr.twr.twr
  refine sized_ite hy1.mbxPutBytes ?_
  split
  · exact hy1
  · exact hy1.stnInput

theorem State.Sized.canErrAdd {s : State} {p : Nat} {tx : Nat} {rx : Nat} (hs : s.Sized) : (State.canErrAdd s p tx rx).Sized :=
  (canErrAdd_keeps (Keeps.refl _ _) (List.Subset.refl _)).sized hs (of_decide_eq_true rfl)

theorem State.Sized.canNoFd {s : State} {p : Nat} {m : Nat} {id : Nat} (hs : s.Sized) : (State.canNoFd s p m id).Sized := by
  delta State.canNoFd
  refine sized_ite hs.canBump.canMod ?_
  extract_lets +onlyGivenNames y1
  have hy1 : y1.Sized := hs.canBump.wr
  exact sized_ite hy1.canErrAdd hy1

theorem State.Sized.canTake {s : State} {f : CanFrame} {m : Nat} {k : State → State} (hs : s.Sized) (hk : ∀ x, x.Sized → (k x).Sized) :
    (State.canTake s f m k).Sized := by
  delta State.canTake
  extract_lets +onlyGivenNames y1
  refine sized_ite hs.canNoFd ?_
  extract_lets +onlyGivenNames y2
  have hy2 : y2.Sized := hs.canRxOk.canMod
  refine sized_ite hy2.canBump ?_
  refine sized_ite (sized_ite hy2 hy2.canClash.raiseEv) ?_
  refine hk _ ?_
  exact hy2

theorem State.Sized.canRx {s : State} {f : CanFrame} {k : State → State} (hs : s.Sized) (hk : ∀ x, x.Sized → (k x).Sized) :
    (State.canRx s f k).Sized := by
  delta State.canRx
  extract_lets +onlyGivenNames y1 y2
  refine sized_ite hs ?_
  refine State.Sized.tailEnd ?_
  refine hs.canTake (fun x hx => ?_)
  refine hk _ ?_
  exact hx

theorem State.Sized.canObjRx {s : State} {f : CanFrame} (hs : s.Sized) : (State.canObjRx s f).Sized := by
  delta State.canObjRx
  extract_lets +onlyGivenNames y1
  refine sized_ite hs ?_
  split
  · exact hs.canBump
  · exact sized_ite hs.canAccept hs.canBump

theorem State.Sized.execCanFrameRx {f : CanFrame} {s : State} (hs : s.Sized) : SizedO (execCanFrameRx f s) := by
  delta execCanFrameRx
  exact sizedO_next (hs.canRx (fun x hx => hx.canObjRx))

theorem State.Sized.privMove {s : State} {p : Nat} (hs : s.Sized) : (State.privMove s p).Sized := by
  delta State.privMove
  extract_lets +onlyGivenNames y1 y2 y3
  have hy3 : y3.Sized := hs.canMod.canMod
  exact sized_foldl hy3 (fun a e ha => ha.canBump.raiseEv)

theorem State.Sized.canOut {s : State} {p : Nat} {item : Nat} {ide : Bool} {fdf : Bool} {brs : Bool} {id : Nat} {d : List Byte} {sof : Nat × Nat}
    (hs : s.Sized) : (State.canOut s p item ide fdf brs id d sof).Sized := by
  delta State.canOut
  extract_lets +onlyGivenNames y1
  have hy1 : y1.Sized := hs.canBump.tailEnd
  refine sized_ite ?_ ?_
  · extract_lets +onlyGivenNames y2
    exact hy1.canRxOk.canObjRx
  · extract_lets +onlyGivenNames y3
    exact hy1.setF.canConfine.emit

theorem State.Sized.canTdc {s : State} {p : Nat} {edges : List Nat} (hs : s.Sized) : (State.canTdc s p edges).Sized :=
  (canTdc_keeps (Keeps.refl _ _) (List.Subset.refl _)).sized hs (of_decide_eq_true rfl)

theorem State.Sized.canSent {s : State} {p : Nat} {item : Nat} {sof : Nat × Nat} {edges : List Nat} {ns : Nat} (hs : s.Sized) :
    (State.canSent s p item sof edges ns).Sized := by
  delta State.canSent
  extract_lets +onlyGivenNames y1
  refine sized_ite hs ?_
  refine sized_ite ?_ ?_
  · split
    · exact hs
    · extract_lets +onlyGivenNames y2
      exact hs.canMod.canOut
  · refine sized_ite ?_ ?_
    · split
      · exact hs
      · extract_lets +onlyGivenNames y3 y4
        have hy4 : y4.Sized := hs.canMod.wr
        exact hy4.canBump.canOut
    · split
      · exact hs
      · extract_lets +onlyGivenNames y5
        have hy5 : y5.Sized := hs.canWithdraw
        extract_lets +onlyGivenNames y6
        have hy6 : y6.Sized := hy5.twr.twr.twr.tset
        extract_lets +onlyGivenNames y7 y8 y9
        have hy9 : y9.Sized := sized_ite hy6.canTdc hy6
        exact hy9.canOut

theorem State.Sized.execCanFrameTxDone {p : Nat} {item : Nat} {sofSec : Nat} {sofNs : Nat} {edges : List Nat} {ns : Nat} {s : State}
    (hs : s.Sized) : SizedO (execCanFrameTxDone p item sofSec sofNs edges ns s) := by
  delta execCanFrameTxDone
  exact sizedO_next hs.canSent

theorem State.Sized.canErrStep {s : State} {e : CanErr} (hs : s.Sized) : (State.canErrStep s e).Sized :=
  (canErrStep_keeps (Keeps.refl _ _) (List.Subset.refl _)).sized hs (of_decide_eq_true rfl)

theorem State.Sized.canError {s : State} {e : CanErr} (hs : s.Sized) : (State.canError s e).Sized := by
  delta State.canError
  extract_lets +onlyGivenNames y1
  refine sized_ite hs ?_
  extract_lets +onlyGivenNames y2
  have hy2 : y2.Sized := hs.canBump.wr
  extract_lets +onlyGivenNames y3
  have hy3 : y3.Sized := sized_ite hy2.canErrStep hy2
  refine sized_ite hy3 ?_
  split
  · exact sized_ite hy3.canMod (sized_ite hy3.canMod hy3.tset)
  · exact hy3.canMod

theorem State.Sized.execCanError {e : CanErr} {s : State} (hs : s.Sized) : SizedO (execCanError e s) := by
  delta execCanError
  exact sizedO_next hs.canError

theorem State.Sized.execErrPassive {p : Nat} {s : State} (hs : s.Sized) : SizedO (execErrPassive p s) := by
  delta execErrPassive
  exact sizedO_next (sized_ite hs.setF.canBump.raiseEv hs)

theorem State.Sized.boffZero {s : State} {p : Nat} (hs : s.Sized) : (State.boffZero s p).Sized := by
  delta State.boffZero
  exact hs.canMod.setF

theorem State.Sized.canBusOff {s : State} {p : Nat} (hs : s.Sized) : (State.canBusOff s p).Sized := by
  delta State.canBusOff
  extract_lets +onlyGivenNames y1
  have hy1 : y1.Sized := hs.setF.canBump.boffZero
  exact hy1.raiseEv.privMove

theorem State.Sized.execBusOff {p : Nat} {s : State} (hs : s.Sized) : SizedO (execBusOff p s) := by
  delta execBusOff
  exact sizedO_next (sized_ite hs.canBusOff hs)

theorem State.Sized.execBoffRecovered {p : Nat} {s : State} (hs : s.Sized) : SizedO (execBoffRecovered p s) := by
  delta execBoffRecovered
  exact sizedO_next (sized_ite hs.setF.wr.boffZero.canConfine.raiseEv hs)

theorem State.Sized.execIdClash {p : Nat} {item : Nat} {s : State} (hs : s.Sized) : SizedO (execIdClash p item s) := by
  delta execIdClash
  refine sizedO_next ?_
  refine sized_ite hs ?_
  refine sized_ite ?_ ?_
  · refine sized_ite hs ?_
    extract_lets +onlyGivenNames y1
    have hy1 : y1.Sized := hs.canMod
    exact hy1.canBump.canClash.raiseEv
  · refine sized_ite (sized_ite hs hs.canBump.canClash.raiseEv.privMove) ?_
    refine sized_ite hs ?_
    extract_lets +onlyGivenNames y2
    have hy2 : y2.Sized := hs.canWithdraw.tset
    exact hy2.canBump.canClash.raiseEv

theorem State.Sized.execIdClashSuspect {p : Nat} {id : Nat} {s : State} (hs : s.Sized) : SizedO (execIdClashSuspect p id s) := by
  delta execIdClashSuspect
  refine sizedO_next ?_
  split
  · exact hs
  · refine sized_ite hs ?_
    extract_lets +onlyGivenNames y1
    have hy1 : y1.Sized := hs.canMod
    exact hy1.canBump.canClash.raiseEv

theorem State.Sized.sleepCmd {p : Nat} {s : State} (hs : s.Sized) : (sleepCmd p s).Sized := by
  delta sleepCmd
  exact sized_ite hs hs.tailFrom.canMod.privMove

theorem State.Sized.execSleep {p : Nat} {s : State} (hs : s.Sized) : SizedO (execSleep p s) := by
  delta execSleep
  exact sizedO_next hs.sleepCmd

theorem State.Sized.canWake {s : State} {p : Nat} (hs : s.Sized) : (State.canWake s p).Sized := by
  delta State.canWake
  exact sized_ite hs.canRefLost.canMod.raiseEv hs

theorem State.Sized.wakeCmd {p : Nat} {s : State} (hs : s.Sized) : (wakeCmd p s).Sized := by
  delta wakeCmd
  exact hs.canWake

theorem State.Sized.execWake {p : Nat} {s : State} (hs : s.Sized) : SizedO (execWake p s) := by
  delta execWake
  exact sizedO_next hs.wakeCmd

theorem State.Sized.execBusWake {p : Nat} {domNs : Nat} {f : Option CanFrame} {s : State} (hs : s.Sized) : SizedO (execBusWake p domNs f s) := by
  delta execBusWake
  refine sizedO_next ?_
  refine sized_ite hs ?_
  refine sized_ite ?_ ?_
  · split
    · exact hs
    · exact sized_ite hs.canWake hs
  · exact sized_ite hs.canWake hs

theorem State.Sized.execCanIntegrated {p : Nat} {s : State} (hs : s.Sized) : SizedO (execCanIntegrated p s) := by
  delta execCanIntegrated
  exact sizedO_next (sized_ite hs.canMod hs)

theorem State.Sized.canRetimed {s : State} {p : Nat} (hs : s.Sized) : (State.canRetimed s p).Sized := by
  delta State.canRetimed
  extract_lets +onlyGivenNames y1
  have hy1 : y1.Sized := hs.tailFrom.canMod
  exact sized_ite hy1.boffZero hy1

theorem State.Sized.canObjWritten {s : State} {p : Nat} {o : Nat} (hs : s.Sized) : (State.canObjWritten s p o).Sized := by
  delta State.canObjWritten
  exact hs.canWithdraw.tset.tset

theorem State.Sized.canSoftReset {s : State} {p : Nat} (hs : s.Sized) : (State.canSoftReset s p).Sized := by
  delta State.canSoftReset
  extract_lets +onlyGivenNames y1
  have hy1 : y1.Sized := sized_foldl hs (fun a e ha => ha.tset)
  extract_lets +onlyGivenNames y2
  have hy2 : y2.Sized := hy1.canMod
  extract_lets +onlyGivenNames y3
  have hy3 : y3.Sized := hy2.wr.setF.boffZero.canConfine
  exact (sized_foldl hy3 (fun a e ha => ha.stnInit)).privMove

theorem State.Sized.boffShow {s : State} {p : Nat} (hs : s.Sized) : (State.boffShow s p).Sized := by
  delta State.boffShow
  extract_lets +onlyGivenNames y1
  refine sized_ite ?_ ?_
  · extract_lets +onlyGivenNames y2
    exact hs.canMod.setF.useFree
  · exact hs

theorem State.Sized.canTick {s : State} {p : Nat} (hs : s.Sized) : (State.canTick s p).Sized :=
  (canTick_keeps (Keeps.refl _ _) (List.Subset.refl _)).sized hs (of_decide_eq_true rfl)

/-! #### Host requests -/

theorem State.Sized.addNonce {s : State} {c : Nat} {n : Nat} (hs : s.Sized) : (State.addNonce s c n).Sized := by
  delta State.addNonce
  extract_lets +onlyGivenNames y1
  exact hs.hostMod (by rfl)

theorem State.Sized.openSess {s : State} {o : KwpOpen} {i : Nat} (hs : s.Sized) : (State.openSess s o i).Sized := by
  delta State.openSess
  extract_lets +onlyGivenNames y1 y2
  have hy2 : y2.Sized := hs.hostMod (by rfl)
  extract_lets +onlyGivenNames y3 y4
  have hy4 : y4.Sized := hy2.sessMod
  exact hy4.say

theorem State.Sized.execKwpOpen {o : KwpOpen} {s : State} (hs : s.Sized) : SizedO (execKwpOpen o s) := by
  delta execKwpOpen
  refine sizedO_next ?_
  refine sized_ite hs ?_
  refine sized_ite hs.bump ?_
  refine sized_ite hs.authFail ?_
  refine sized_ite hs.bump ?_
  extract_lets +onlyGivenNames y1
  have hy1 : y1.Sized := hs.bump.addNonce
  refine sized_ite hy1.say ?_
  split
  · exact hy1.say
  · exact hy1.openSess

theorem State.Sized.execSessionOpeningTimeout {i : Nat} {s : State} (hs : s.Sized) : SizedO (execSessionOpeningTimeout i s) := by
  delta execSessionOpeningTimeout
  exact sizedO_next (sized_ite hs.closeSess hs)

theorem State.Sized.execSessionIdleTimeout {i : Nat} {s : State} (hs : s.Sized) : SizedO (execSessionIdleTimeout i s) := by
  delta execSessionIdleTimeout
  exact sizedO_next (sized_ite hs.closeSess hs)

theorem State.Sized.execDormancyTimeout {i : Nat} {s : State} (hs : s.Sized) : SizedO (execDormancyTimeout i s) := by
  delta execDormancyTimeout
  exact sizedO_next (sized_ite hs.closeSess hs)

theorem State.Sized.kick {writer : Nat} {s : State} (hs : s.Sized) : (kick writer s).1.Sized := by
  delta kick
  extract_lets +onlyGivenNames y1
  exact sized_iteP (sized_fst hs) (sized_fst hs.closeSess)

theorem State.Sized.execKick {writer : Nat} {s : State} (hs : s.Sized) : SizedO (execKick writer s) := by
  delta execKick
  exact sizedO_next hs.kick

theorem State.Sized.claim {t : Nat} {s : State} (hs : s.Sized) : (claim t s).1.Sized := by
  delta claim
  extract_lets +onlyGivenNames y1
  refine sized_iteP (sized_fst hs.bump) ?_
  extract_lets +onlyGivenNames y2 y3
  have hy3 : y3.Sized := hs.srcSet.srcSet.srcSet.srcSet
  extract_lets +onlyGivenNames y4 y5
  have hy5 : y5.Sized := hy3.withIcu (modAt_length ..) (length_setAt ..)
  exact sized_fst hy5.icuEval

theorem State.Sized.execRead {k : Kwp} {addr : Nat} {s : State} (hs : s.Sized) : SizedO (execRead k addr s) := by
  delta execRead
  refine sizedO_next ?_
  refine hs.request (fun x hx => ?_)
  extract_lets +onlyGivenNames y1
  refine sized_ite hx.respond ?_
  refine sized_ite hx.respond ?_
  refine sized_ite ?_ ?_
  · refine sized_ite ?_ ?_
    · extract_lets +onlyGivenNames y2
      have hy2 : y2.1.Sized := hx.claim
      exact hy2.respond
    · exact hx.respond
  · exact hx.useFree.respond

theorem State.Sized.readWords {own : Bool} {a1 : Nat} {a2 : Nat} {a3 : State} (ha3 : a3.Sized) : (readWords own a1 a2 a3).1.Sized := by
  induction a1 generalizing a2 a3 with
  | zero => exact ha3
  | succ n ih =>
    simp only [Machine.readWords]
    split
    · split
      · exact ih (State.Sized.claim ha3)
      · exact ih ha3
    · exact ih (State.Sized.useFree ha3)

theorem State.Sized.execReadBlock {k : Kwp} {addr : Nat} {cnt : Nat} {s : State} (hs : s.Sized) : SizedO (execReadBlock k addr cnt s) := by
  delta execReadBlock
  refine sizedO_next ?_
  refine hs.request (fun x hx => ?_)
  extract_lets +onlyGivenNames y1
  refine sized_ite hx.respond ?_
  refine sized_ite hx.respond ?_
  extract_lets +onlyGivenNames y2 y3 y4
  have hy4 : y4.1.Sized := hx.readWords
  exact hy4.respond

theorem State.Sized.execTableRead {k : Kwp} {tid : Nat} {cnt : Nat} {idx : Nat} {s : State} (hs : s.Sized) :
    SizedO (execTableRead k tid cnt idx s) := by
  delta execTableRead
  refine sizedO_next ?_
  refine hs.request (fun x hx => ?_)
  split
  · exact hx.respond
  · refine sized_ite hx.respond ?_
    refine sized_ite hx.respond ?_
    refine sized_ite hx.respond ?_
    refine sized_ite ?_ ?_
    · extract_lets +onlyGivenNames y1
      have hy1 : y1.Sized := hx.sessMod
      exact hy1.hostMod (by rfl)
    · exact hx.respond

theorem State.Sized.execWrite {k : Kwp} {addr : Nat} {v : Word} {s : State} (hs : s.Sized) : SizedO (execWrite k addr v s) := by
  delta execWrite
  refine sizedO_next ?_
  refine hs.request (fun x hx => ?_)
  extract_lets +onlyGivenNames y1
  split
  · exact hx.hold
  · exact hx.respond

theorem State.Sized.execWriteBlock {k : Kwp} {addr : Nat} {ws : List Word} {s : State} (hs : s.Sized) : SizedO (execWriteBlock k addr ws s) := by
  delta execWriteBlock
  refine sizedO_next ?_
  refine hs.request (fun x hx => ?_)
  extract_lets +onlyGivenNames y1 y2
  refine sized_ite hx.respond ?_
  refine sized_ite hx.respond ?_
  refine sized_ite hx.respond ?_
  split
  · exact hx.hold
  · exact hx.respond

theorem State.Sized.execTableWrite {k : Kwp} {tid : Nat} {idx : Nat} {ws : List Word} {s : State} (hs : s.Sized) :
    SizedO (execTableWrite k tid idx ws s) := by
  delta execTableWrite
  refine sizedO_next ?_
  refine hs.request (fun x hx => ?_)
  refine sized_ite hx.respond ?_
  split
  · exact hx.respond
  · split
    · exact hx.hold
    · exact hx.respond

theorem State.Sized.command {k : Kwp} {code : Nat} {tag : Nat} {args : List Word} {s : State} (hs : s.Sized) :
    (command k code tag args s).Sized := by
  delta command
  refine hs.request (fun x hx => ?_)
  extract_lets +onlyGivenNames y1
  exact sized_ite hx.respond (sized_ite hx.respond (sized_ite hx.respond (hx.hostMod (by rfl)).respond))

theorem State.Sized.execCancel {k : Kwp} {tag : Nat} {args : List Word} {s : State} (hs : s.Sized) : SizedO (execCancel k tag args s) := by
  delta execCancel
  exact sizedO_next hs.command

theorem State.Sized.execSolve {k : Kwp} {tag : Nat} {args : List Word} {s : State} (hs : s.Sized) : SizedO (execSolve k tag args s) := by
  delta execSolve
  exact sizedO_next hs.command

theorem State.Sized.execAbort {k : Kwp} {tag : Nat} {args : List Word} {s : State} (hs : s.Sized) : SizedO (execAbort k tag args s) := by
  delta execAbort
  exact sizedO_next hs.command

theorem State.Sized.execPrivReq {k : Kwp} {tag : Nat} {args : List Word} {s : State} (hs : s.Sized) : SizedO (execPrivReq k tag args s) := by
  delta execPrivReq
  exact sizedO_next hs.command

theorem State.Sized.execCqRead {k : Kwp} {maxN : Nat} {s : State} (hs : s.Sized) : SizedO (execCqRead k maxN s) := by
  delta execCqRead
  refine sizedO_next ?_
  refine hs.request (fun x hx => ?_)
  refine sized_ite hx.respond ?_
  extract_lets +onlyGivenNames y1
  exact hx.sessMod.respond

theorem State.Sized.execNotifyCfg {k : Kwp} {cnt : Nat} {dly : Nat} {mask : Nat} {us : Nat} {s : State} (hs : s.Sized) :
    SizedO (execNotifyCfg k cnt dly mask us s) := by
  delta execNotifyCfg
  exact sizedO_next (hs.request (fun x hx => sized_ite hx.respond hx.sessMod.respond))

theorem State.Sized.sendNotify {i : Nat} {aggregate : Bool} {s : State} (hs : s.Sized) : (sendNotify i aggregate s).Sized := by
  delta sendNotify
  extract_lets +onlyGivenNames y1 y2 y3
  have hy3 : y3.Sized := hs.sessMod
  exact hy3.bump.say

theorem State.Sized.execNotifySend {i : Nat} {us : Nat} {s : State} (hs : s.Sized) : SizedO (execNotifySend i us s) := by
  delta execNotifySend
  extract_lets +onlyGivenNames y1
  exact sizedO_next (sized_ite hs.sendNotify hs)

theorem State.Sized.execWakeOnLan {i : Nat} {s : State} (hs : s.Sized) : SizedO (execWakeOnLan i s) := by
  delta execWakeOnLan
  extract_lets +onlyGivenNames y1 y2 y3 y4
  have hy4 : y4.Sized := hs.sessMod
  exact sizedO_next (sized_ite (sized_ite hy4.sessMod.bump.say hy4) hs)

theorem State.Sized.execDormant {k : Kwp} {sev : Nat} {mac : Nat} {s : State} (hs : s.Sized) : SizedO (execDormant k sev mac s) := by
  delta execDormant
  refine sizedO_next ?_
  refine hs.request (fun x hx => ?_)
  extract_lets +onlyGivenNames y1
  have hy1 : y1.Sized := hx.sessMod
  extract_lets +onlyGivenNames y2
  have hy2 : y2.Sized := sized_ite (hy1.hostMod (by rfl)) hy1
  exact hy2.respond

theorem State.Sized.execResume {k : Kwp} {us : Nat} {s : State} (hs : s.Sized) : SizedO (execResume k us s) := by
  delta execResume
  refine sizedO_next ?_
  refine hs.request (fun x hx => ?_)
  extract_lets +onlyGivenNames y1
  have hy1 : y1.Sized := hx.sessMod
  extract_lets +onlyGivenNames y2
  have hy2 : y2.Sized := hy1.sendNotify.sessMod
  extract_lets +onlyGivenNames y3
  have hy3 : y3.Sized := sized_ite (hy2.hostMod (by rfl)) hy2
  exact hy3.respond

theorem State.Sized.execCloseReq {k : Kwp} {s : State} (hs : s.Sized) : SizedO (execCloseReq k s) := by
  delta execCloseReq
  exact sizedO_next (hs.request (fun x hx => hx.respond.closeSess))

theorem State.Sized.execOwnReq {k : Kwp} {prio : Nat} {ovr : Nat} {s : State} (hs : s.Sized) : SizedO (execOwnReq k prio ovr s) := by
  delta execOwnReq
  refine sizedO_next ?_
  refine hs.request (fun x hx => ?_)
  extract_lets +onlyGivenNames y1
  have hy1 : y1.Sized := hx.sessMod
  refine sized_ite hy1.respond ?_
  exact sized_ite hy1.respond (sized_ite hy1.respond (sized_ite (hy1.hostMod (by rfl)).respond hy1.holdOwn))

theorem State.Sized.execOwnRenew {k : Kwp} {s : State} (hs : s.Sized) : SizedO (execOwnRenew k s) := by
  delta execOwnRenew
  exact sizedO_next (hs.request (fun x hx => sized_ite hx.holdOwn hx.respond))

theorem State.Sized.execOwnHandover {k : Kwp} {dst : Nat} {s : State} (hs : s.Sized) : SizedO (execOwnHandover k dst s) := by
  delta execOwnHandover
  exact sizedO_next (hs.request (fun x hx => sized_ite hx.respond hx.holdOwn))

theorem State.Sized.execOwnRelease {k : Kwp} {s : State} (hs : s.Sized) : SizedO (execOwnRelease k s) := by
  delta execOwnRelease
  exact sizedO_next (hs.request (fun x hx => sized_ite hx.holdOwn hx.respond))

theorem State.Sized.stackReset {t : Nat} {s : State} (hs : s.Sized) : (stackReset t s).Sized := by
  delta stackReset
  extract_lets +onlyGivenNames y1
  have hy1 : y1.Sized := sized_foldl hs (fun a e ha => ha.srcSet)
  extract_lets +onlyGivenNames y2 y3
  have hy3 : y3.Sized := hy1.withIcu (length_setAt ..) (by rfl)
  exact hy3.setF.icuEval

theorem State.Sized.ownerShown {s : State} (hs : s.Sized) : (ownerShown s).Sized := by
  delta ownerShown
  extract_lets +onlyGivenNames y1 y2
  have hy2 : y2.Sized := sized_foldl hs (fun a e ha => ha.setF)
  exact hy2.stackReset.bump.raiseEv

theorem State.Sized.dormClose {s : State} (hs : s.Sized) : (State.dormClose s).Sized := by
  delta State.dormClose
  split
  · exact sized_ite hs.closeSess hs
  · exact hs

theorem State.Sized.noOwner {s : State} (hs : s.Sized) : (State.noOwner s).Sized := by
  delta State.noOwner
  exact hs.hostMod (by rfl)

theorem State.Sized.newOwner {s : State} {i : Nat} {p : Nat} (hs : s.Sized) : (State.newOwner s i p).Sized := by
  delta State.newOwner
  exact hs.hostMod (by rfl)

theorem State.Sized.resolveEnd {s : State} (hs : s.Sized) : (resolveEnd s).Sized := by
  delta resolveEnd
  refine sized_ite hs.noOwner ?_
  split
  · exact hs.respondTo.noOwner
  · exact sized_ite hs.noOwner.bump.raiseEv hs

theorem State.Sized.resolveRenew {s : State} (hs : s.Sized) : (resolveRenew s).Sized := by
  delta resolveRenew
  exact sized_foldl hs (fun a e ha => sized_ite (sized_ite (ha.hostMod (by rfl)).respondTo ha.respondTo) ha)

theorem State.Sized.resolvePreempt {s : State} (hs : s.Sized) : (resolvePreempt s).Sized := by
  delta resolvePreempt
  split
  · exact hs
  · split
    · exact hs
    · exact hs.newOwner.bump.raiseEv.respondTo

theorem State.Sized.resolveHandover {was : Option Nat} {s : State} (hs : s.Sized) : (resolveHandover was s).Sized := by
  delta resolveHandover
  refine sized_foldl ?_ (fun a e ha => ?_)
  · exact hs
  · split
    · exact sized_ite ha.newOwner.respondTo ha.respondTo
    · exact ha

theorem State.Sized.resolveElect {s : State} (hs : s.Sized) : (resolveElect s).Sized := by
  delta resolveElect
  split
  · exact hs
  · split
    · exact hs
    · exact hs.newOwner.respondTo

theorem State.Sized.resolveRest {s : State} (hs : s.Sized) : (resolveRest s).Sized := by
  delta resolveRest
  extract_lets +onlyGivenNames y1
  have hy1 : y1.Sized := by
    unfold y1
    refine sized_foldl ?_ (fun a e ha => ?_)
    · exact hs
    · refine sized_ite ?_ ?_
      · split
        · exact ha.respondTo
        · exact ha.respondTo
        · exact ha
      · exact ha
  exact hy1.hostMod (by rfl)

theorem State.Sized.ownershipResolve {s : State} (hs : s.Sized) : (ownershipResolve s).Sized := by
  delta ownershipResolve
  extract_lets +onlyGivenNames y1 y2
  have hy2 : y2.Sized := hs.dormClose.resolveEnd
  extract_lets +onlyGivenNames y3
  have hy3 : y3.Sized := hy2.resolveRenew
  extract_lets +onlyGivenNames y4
  have hy4 : y4.Sized := hy3.resolvePreempt
  extract_lets +onlyGivenNames y5
  have hy5 : y5.Sized := hy4.resolveHandover
  extract_lets +onlyGivenNames y6
  have hy6 : y6.Sized := hy5.resolveElect
  extract_lets +onlyGivenNames y7
  have hy7 : y7.Sized := hy6.resolveRest
  extract_lets +onlyGivenNames y8
  have hy8 : y8.Sized := sized_ite hy7.ownerShown hy7
  exact hy8.hostRegs

theorem State.Sized.execOwnershipResolve {s : State} (hs : s.Sized) : SizedO (execOwnershipResolve s) := by
  delta execOwnershipResolve
  refine sizedO_next ?_
  refine State.Sized.andShown ?_ ?_
  · exact hs
  · exact hs.ownershipResolve

theorem State.Sized.execLeaseLapsed {s : State} (hs : s.Sized) : SizedO (execLeaseLapsed s) := by
  delta execLeaseLapsed
  refine sizedO_next ?_
  refine State.Sized.andShown ?_ ?_
  · exact hs
  · exact sized_ite hs hs.noOwner.bump.raiseEv.ownerShown.hostRegs

/-! #### Time -/

theorem State.Sized.timeMod {s : State} {f : TimeSt → TimeSt} (hs : s.Sized) (hports : (f s.time).ports.length = s.time.ports.length) :
    (State.timeMod s f).Sized := hs.withTime hports

theorem State.Sized.setClock {s : State} {t : Int} (hs : s.Sized) : (State.setClock s t).Sized :=
  (setClock_keeps (Keeps.refl _ _) (List.Subset.refl _)).sized hs (of_decide_eq_true rfl)

theorem State.Sized.errEst {s : State} (hs : s.Sized) : (State.errEst s).Sized :=
  (errEst_keeps (Keeps.refl _ _) (List.Subset.refl _)).sized hs (of_decide_eq_true rfl)

theorem State.Sized.setQuality {s : State} {q : Nat} (hs : s.Sized) : (State.setQuality s q).Sized := by
  delta State.setQuality
  refine sized_ite hs.errEst ?_
  extract_lets +onlyGivenNames y1
  have hy1 : y1.Sized := hs.setF
  extract_lets +onlyGivenNames y2
  have hy2 : y2.Sized := hy1.timeMod (by rfl)
  extract_lets +onlyGivenNames y3
  have hy3 : y3.Sized := sized_ite hy2.setF hy2
  exact hy3.errEst.raiseEv

theorem State.Sized.ownQuality {s : State} {q : Nat} (hs : s.Sized) : (State.ownQuality s q).Sized := by
  delta State.ownQuality
  exact sized_ite hs.errEst hs.setQuality

theorem State.Sized.toHoldover {s : State} (hs : s.Sized) : (State.toHoldover s).Sized := by
  delta State.toHoldover
  exact sized_ite hs.ownQuality hs

theorem State.Sized.ptpSelect {s : State} {pair : Nat} (hs : s.Sized) : (State.ptpSelect s pair).Sized :=
  (ptpSelect_keeps (Keeps.refl _ _) (List.Subset.refl _)).sized hs (of_decide_eq_true rfl)

theorem State.Sized.srcNote {s : State} {c : Nat} (hs : s.Sized) : (State.srcNote s c).Sized := by
  delta State.srcNote
  split
  · exact hs.timeMod (by rfl)
  · exact hs.timeMod (by rfl)
  · exact hs

theorem State.Sized.selectSrc {s : State} {c : Nat} (hs : s.Sized) : (State.selectSrc s c).Sized := by
  delta State.selectSrc
  refine sized_ite hs ?_
  extract_lets +onlyGivenNames y1
  have hy1 : y1.Sized := (hs.setF.timeMod (by rfl)).bump.raiseEv
  exact sized_ite hy1.toHoldover hy1

theorem State.Sized.timeEval {s : State} (hs : s.Sized) : (State.timeEval s).Sized := by
  delta State.timeEval
  extract_lets +onlyGivenNames y1
  have hy1 : y1.Sized := hs.ptpSelect.ptpSelect
  extract_lets +onlyGivenNames y2
  have hy2 : y2.Sized := sized_foldl hy1 (fun a e ha => ha.srcNote)
  extract_lets +onlyGivenNames y3 y4
  refine sized_ite hy2.selectSrc ?_
  refine sized_ite hy2 ?_
  extract_lets +onlyGivenNames y5
  have hy5 : y5.Sized := sized_ite hy2.raiseEv hy2
  exact hy5.selectSrc

theorem State.Sized.execSourceInvalid {s : State} (hs : s.Sized) : SizedO (execSourceInvalid s) := by
  delta execSourceInvalid
  exact sizedO_next hs.timeEval

theorem State.Sized.timeUpgrade {s : State} (hs : s.Sized) : (State.timeUpgrade s).Sized := by
  delta State.timeUpgrade
  extract_lets +onlyGivenNames y1
  have hy1 : y1.Sized := hs.timeEval
  extract_lets +onlyGivenNames y2 y3
  refine sized_ite hy1 ?_
  split
  · exact hy1.selectSrc
  · exact hy1

theorem State.Sized.execSourceUpgrade {s : State} (hs : s.Sized) : SizedO (execSourceUpgrade s) := by
  delta execSourceUpgrade
  exact sizedO_next hs.timeUpgrade

theorem State.Sized.standbyHold {s : State} (hs : s.Sized) : (State.standbyHold s).Sized := by
  delta State.standbyHold
  exact sized_ite hs.timeEval.setQuality hs

theorem State.Sized.servoHold {s : State} (hs : s.Sized) : (State.servoHold s).Sized :=
  (servoHold_keeps (Keeps.refl _ _) (List.Subset.refl _)).sized hs (of_decide_eq_true rfl)

theorem State.Sized.servo {s : State} {th : Int} (hs : s.Sized) : (State.servo s th).Sized := by
  delta State.servo
  extract_lets +onlyGivenNames y1 y2 y3 y4 y5 y6 y7 y8
  have hy8 : y8.Sized := (hs.useFree.timeMod (by rfl)).wr
  extract_lets +onlyGivenNames y9 y10
  have hy10 : y10.Sized := hy8.setB
  exact sized_ite hy10.raiseEv hy10

theorem State.Sized.refuseOff {s : State} {th : Int} (hs : s.Sized) : (State.refuseOff s th).Sized := by
  delta State.refuseOff
  extract_lets +onlyGivenNames y1 y2
  have hy2 : y2.Sized := hs.servoHold.setB.bump
  extract_lets +onlyGivenNames y3
  have hy3 : y3.Sized := hy2.wr.wr
  extract_lets +onlyGivenNames y4
  have hy4 : y4.Sized := hy3.timeMod (by rfl)
  extract_lets +onlyGivenNames y5
  have hy5 : y5.Sized := sized_ite hy4.toHoldover hy4
  exact sized_ite hy5 hy5.raiseEv

theorem State.Sized.acceptOff {s : State} {th : Int} (hs : s.Sized) : (State.acceptOff s th).Sized := by
  delta State.acceptOff
  extract_lets +onlyGivenNames y1
  have hy1 : y1.Sized := hs.setB
  extract_lets +onlyGivenNames y2
  have hy2 : y2.Sized := sized_ite hy1.servo hy1.servoHold
  extract_lets +onlyGivenNames y3 y4
  have hy4 : y4.Sized := hy2.timeMod (by rfl)
  exact sized_ite hy4.ownQuality hy4.errEst

theorem State.Sized.timeOffset {s : State} {src : Nat} {th : Int} (hs : s.Sized) : (State.timeOffset s src th).Sized := by
  delta State.timeOffset
  extract_lets +onlyGivenNames y1
  have hy1 : y1.Sized := hs.timeMod (by rfl)
  refine sized_ite hy1 ?_
  extract_lets +onlyGivenNames y2
  have hy2 : y2.Sized := hy1.wr
  exact sized_ite (hy2.timeMod (by rfl)) (sized_ite hy2.refuseOff hy2.acceptOff)

theorem State.Sized.ptpShow {s : State} {pair : Nat} (hs : s.Sized) : (State.ptpShow s pair).Sized :=
  (ptpShow_keeps (Keeps.refl _ _) (List.Subset.refl _)).sized hs (of_decide_eq_true rfl)

theorem State.Sized.ptpMod {s : State} {p : Nat} {f : PtpPort → PtpPort} (hs : s.Sized) : (State.ptpMod s p f).Sized := by
  delta State.ptpMod
  exact hs.timeMod (modAt_length ..)

theorem State.Sized.ptpState {s : State} {p : Nat} {st : Nat} (hs : s.Sized) : (State.ptpState s p st).Sized := by
  delta State.ptpState
  exact hs.ptpMod.timeMod (by rfl)

theorem State.Sized.ptpStart {s : State} {pair : Nat} (hs : s.Sized) : (State.ptpStart s pair).Sized := by
  delta State.ptpStart
  extract_lets +onlyGivenNames y1 y2
  have hy2 : y2.Sized := sized_foldl hs (fun a e ha => ha.ptpState.ptpMod)
  exact hy2.timeEval.ptpShow

theorem State.Sized.ptpFrames {s : State} {port : Nat} {n : Nat} (hs : s.Sized) : (State.ptpFrames s port n).Sized :=
  (ptpFrames_keeps (Keeps.refl _ _) (List.Subset.refl _)).sized hs (of_decide_eq_true rfl)

theorem State.Sized.execPtpSyncRx {port : Nat} {domain : Nat} {master : Int} {rx : Int} {s : State} (hs : s.Sized) :
    SizedO (execPtpSyncRx port domain master rx s) := by
  delta execPtpSyncRx
  refine sizedO_next ?_
  extract_lets +onlyGivenNames y1
  have hy1 : y1.Sized := hs.ptpFrames
  refine sized_ite hy1 ?_
  extract_lets +onlyGivenNames y2
  have hy2 : y2.Sized := hy1.timeEval.ptpMod.timeEval
  extract_lets +onlyGivenNames y3 y4
  exact sized_ite hy2.timeOffset.ptpShow hy2

theorem State.Sized.ptpDecide {s : State} {pair : Nat} (hs : s.Sized) : (State.ptpDecide s pair).Sized := by
  delta State.ptpDecide
  extract_lets +onlyGivenNames y1
  have hy1 : y1.Sized := sized_foldl hs (fun a e ha => ha.ptpState)
  exact hy1.timeEval.ptpShow

theorem State.Sized.execPtpAnnounceRx {port : Nat} {domain : Nat} {cls : Nat} {gmLo : Word} {gmHi : Word} {bmca : PtpData} {s : State}
    (hs : s.Sized) : SizedO (execPtpAnnounceRx port domain cls gmLo gmHi bmca s) := by
  delta execPtpAnnounceRx
  refine sizedO_next ?_
  extract_lets +onlyGivenNames y1
  have hy1 : y1.Sized := hs.ptpFrames
  exact sized_ite hy1 hy1.timeEval.ptpMod.ptpDecide

theorem State.Sized.execAnnounceReceiptTimeout {port : Nat} {s : State} (hs : s.Sized) : SizedO (execAnnounceReceiptTimeout port s) := by
  delta execAnnounceReceiptTimeout
  refine sizedO_next ?_
  split
  · exact hs
  · exact sized_ite hs.timeEval.ptpMod.ptpState.ptpDecide hs

theorem State.Sized.execPtpPdelayExchange {port : Nat} {domain : Nat} {t1 : Int} {t2 : Int} {t3 : Int} {t4 : Int} {s : State} (hs : s.Sized) :
    SizedO (execPtpPdelayExchange port domain t1 t2 t3 t4 s) := by
  delta execPtpPdelayExchange
  refine sizedO_next ?_
  extract_lets +onlyGivenNames y1
  have hy1 : y1.Sized := hs.ptpFrames
  refine sized_ite hy1 ?_
  extract_lets +onlyGivenNames y2
  exact hy1.txFrame.prpSkip.wr

theorem State.Sized.execPtpSyncTx {port : Nat} {s : State} (hs : s.Sized) : SizedO (execPtpSyncTx port s) := by
  delta execPtpSyncTx
  exact sizedO_next (sized_ite hs.txFrame.txFrame.prpNext.prpSkip hs)

theorem State.Sized.execPtpAnnounceTx {port : Nat} {s : State} (hs : s.Sized) : SizedO (execPtpAnnounceTx port s) := by
  delta execPtpAnnounceTx
  exact sizedO_next (sized_ite hs.txFrame.prpNext hs)

theorem State.Sized.execTodSentenceRx {utc : Nat} {crcOk : Bool} {s : State} (hs : s.Sized) : SizedO (execTodSentenceRx utc crcOk s) := by
  delta execTodSentenceRx
  exact sizedO_next (sized_ite (hs.timeMod (by rfl)) hs)

theorem State.Sized.execPpsEdge {edge : Int} {s : State} (hs : s.Sized) : SizedO (execPpsEdge edge s) := by
  delta execPpsEdge
  refine sizedO_next ?_
  extract_lets +onlyGivenNames y1 y2
  have hy2 : y2.Sized := (hs.timeEval.timeMod (by rfl)).timeEval
  split
  · exact hy2
  · exact sized_ite hy2.timeOffset hy2

theorem State.Sized.stepAccept {s : State} (hs : s.Sized) : (stepAccept s).Sized := by
  delta stepAccept
  refine sized_ite hs ?_
  extract_lets +onlyGivenNames y1
  split
  · exact hs
  · exact hs.setB.timeMod (by rfl)

theorem State.Sized.execStepAccept {s : State} (hs : s.Sized) : SizedO (execStepAccept s) := by
  delta execStepAccept
  exact sizedO_next hs.stepAccept

theorem State.Sized.relearn {s : State} (hs : s.Sized) : (relearn s).Sized := by
  delta relearn
  exact (hs.clearCtr.setB.wr.timeMod (by rfl)).errEst

theorem State.Sized.execRelearn {s : State} (hs : s.Sized) : SizedO (execRelearn s) := by
  delta execRelearn
  exact sizedO_next hs.relearn

theorem State.Sized.timeClrCnt {s : State} (hs : s.Sized) : (timeClrCnt s).Sized :=
  (timeClrCnt_keeps (Keeps.refl _ _) (List.Subset.refl _)).sized hs (of_decide_eq_true rfl)

theorem State.Sized.holdFreq {s : State} (hs : s.Sized) : (State.holdFreq s).Sized :=
  (holdFreq_keeps (Keeps.refl _ _) (List.Subset.refl _)).sized hs (of_decide_eq_true rfl)

theorem State.Sized.execLearnMinute {tempOk : Bool} {s : State} (hs : s.Sized) : SizedO (execLearnMinute tempOk s) := by
  delta execLearnMinute
  refine sizedO_next ?_
  refine sized_ite (sized_ite hs (hs.timeMod (by rfl)).bump.errEst) ?_
  refine sized_ite hs ?_
  extract_lets +onlyGivenNames y1
  have hy1 : y1.Sized := hs.timeMod (by rfl)
  refine sized_ite ?_ ?_
  · extract_lets +onlyGivenNames y2
    have hy2 : y2.Sized := (hy1.timeMod (by rfl)).bump
    extract_lets +onlyGivenNames y3
    have hy3 : y3.Sized := hy2.holdFreq
    exact sized_ite hy3.setB hy3
  · exact hy1

end Sys2Proof.Machine
end

section
namespace Sys2Proof.Machine

/-! #### Launch comparators -/

theorem State.Sized.privMod {s : State} {f : PrivSt → PrivSt} (hs : s.Sized) : (State.privMod s f).Sized :=
  (privMod_keeps (Keeps.refl _ _) (List.Subset.refl _)).sized hs (of_decide_eq_true rfl)

theorem State.Sized.chShow {s : State} {ch : Nat} (hs : s.Sized) : (State.chShow s ch).Sized :=
  (chShow_keeps (Keeps.refl _ _) (List.Subset.refl _)).sized hs (of_decide_eq_true rfl)

theorem State.Sized.logReleased {s : State} {r : PrivReq} {t : Nat × Nat} (hs : s.Sized) : (State.logReleased s r t).Sized :=
  (logReleased_keeps (Keeps.refl _ _) (List.Subset.refl _)).sized hs (of_decide_eq_true rfl)

theorem State.Sized.privEnd {s : State} {r : PrivReq} {o : Nat} (hs : s.Sized) : (State.privEnd s r o).Sized := by
  delta State.privEnd
  extract_lets +onlyGivenNames y1
  have hy1 : y1.Sized := hs.privMod
  extract_lets +onlyGivenNames y2
  have hy2 : y2.Sized := sized_ite hy1.tset hy1
  extract_lets +onlyGivenNames y3
  have hy3 : y3.Sized := hy2.setF.chShow
  exact sized_ite hy3.bump (sized_ite hy3.bump.raiseEv hy3)

theorem State.Sized.lnchEnd {s : State} {n : Nat} (hs : s.Sized) : (State.lnchEnd s n).Sized :=
  (lnchEnd_keeps (Keeps.refl _ _) (List.Subset.refl _)).sized hs (of_decide_eq_true rfl)

theorem State.Sized.privFired {s : State} {n : Nat} {late : Bool} {missed : Bool} {by_ : LateBy} {t : Nat × Nat} (hs : s.Sized) :
    (State.privFired s n late missed by_ t).Sized := by
  delta State.privFired
  split
  · exact hs
  · extract_lets +onlyGivenNames y1
    have hy1 : y1.Sized := sized_ite hs.bump.raiseEv hs
    extract_lets +onlyGivenNames y2
    have hy2 : y2.Sized := sized_ite hy1 hy1.logReleased
    exact hy2.privEnd

theorem State.Sized.lnchAct {s : State} {a : LnchArm} {off : Nat} (hs : s.Sized) : (State.lnchAct s a off).Sized :=
  (lnchAct_keeps (Keeps.refl _ _) (List.Subset.refl _)).sized hs (of_decide_eq_true rfl)

theorem State.Sized.lnchFire {s : State} {a : LnchArm} {late : Bool} {by_ : LateBy} {off : Nat} {t : Nat × Nat} (hs : s.Sized) :
    (State.lnchFire s a late by_ off t).Sized := by
  delta State.lnchFire
  extract_lets +onlyGivenNames y1
  have hy1 : y1.Sized := hs.lnchEnd.setB.lnchAct
  extract_lets +onlyGivenNames y2
  have hy2 : y2.Sized := sized_ite hy1.setB.bump.raiseEv hy1
  exact hy2.privFired.signal

theorem State.Sized.lnchLate {s : State} {a : LnchArm} {late : Nat} {by_ : LateBy} {off : Nat} {t : Nat × Nat} (hs : s.Sized) :
    (State.lnchLate s a late by_ off t).Sized := by
  delta State.lnchLate
  extract_lets +onlyGivenNames y1
  have hy1 : y1.Sized := hs.setF
  extract_lets +onlyGivenNames y2
  refine sized_ite hy1.lnchFire ?_
  refine sized_ite hy1.lnchFire ?_
  extract_lets +onlyGivenNames y3
  have hy3 : y3.Sized := hy1.lnchEnd.setB.bump.raiseEv
  exact hy3.privFired

theorem State.Sized.lnchArm {s : State} {n : Nat} {off : Nat} (hs : s.Sized) : (State.lnchArm s n off).Sized := by
  delta State.lnchArm
  extract_lets +onlyGivenNames y1 y2 y3 y4 y5
  have hy5 : y5.Sized := hs.wr
  extract_lets +onlyGivenNames y6
  have hy6 : y6.Sized := hy5.withLnch
  extract_lets +onlyGivenNames y7
  have hy7 : y7.Sized := sized_ite hy6.setB.raiseEv hy6
  extract_lets +onlyGivenNames y8
  exact sized_ite hy7 hy7.lnchLate

theorem State.Sized.execLaunchArm {arg : Nat} {ns : Nat} {s : State} (hs : s.Sized) : SizedO (execLaunchArm arg ns s) := by
  delta execLaunchArm
  refine sizedO_next ?_
  refine hs.entry (fun x hx => ?_)
  split
  · exact hx
  · exact sized_ite hx.lnchArm hx

theorem State.Sized.armCmd {n : Nat} {s : State} (hs : s.Sized) : (armCmd n s).1.Sized := by
  delta armCmd
  exact sized_iteP (sized_fst hs) (sized_fst hs.lnchArm)

theorem State.Sized.disarmCmd {n : Nat} {s : State} (hs : s.Sized) : (disarmCmd n s).1.Sized :=
  (disarmCmd_keeps (Keeps.refl _ _) (List.Subset.refl _)).sized hs (of_decide_eq_true rfl)

theorem State.Sized.execArm {n : Nat} {s : State} (hs : s.Sized) : SizedO (execArm n s) := by
  delta execArm
  exact sizedO_next hs.armCmd

theorem State.Sized.execLaunchFire {n : Nat} {s : State} (hs : s.Sized) : SizedO (execLaunchFire n s) := by
  delta execLaunchFire
  refine sizedO_next ?_
  split
  · exact hs
  · extract_lets +onlyGivenNames y1
    refine sized_ite ?_ ?_
    · extract_lets +onlyGivenNames y2
      exact hs.setF.lnchFire
    · exact hs

theorem State.Sized.lnchSoftReset {s : State} (hs : s.Sized) : (State.lnchSoftReset s).Sized :=
  (lnchSoftReset_keeps (Keeps.refl _ _) (List.Subset.refl _)).sized hs (of_decide_eq_true rfl)

theorem State.Sized.stepClock {s : State} {d : Int} {ev : Nat} (hs : s.Sized) : (State.stepClock s d ev).Sized := by
  delta State.stepClock
  extract_lets +onlyGivenNames y1 y2
  have hy2 : y2.Sized := hs.tickEarly.setClock.timeMod (by rfl)
  extract_lets +onlyGivenNames y3
  have hy3 : y3.Sized := hy2.wr.wr.wr
  extract_lets +onlyGivenNames y4
  have hy4 : y4.Sized := hy3.bump.setB.setB.setB
  extract_lets +onlyGivenNames y5
  have hy5 : y5.Sized := hy4.ownQuality.raiseEv
  refine sized_foldl ?_ (fun a e ha => ?_)
  · exact hy5
  · extract_lets +onlyGivenNames y6
    exact sized_ite ha ha.lnchLate

theorem State.Sized.execStepApplied {s : State} (hs : s.Sized) : SizedO (execStepApplied s) := by
  delta execStepApplied
  refine sizedO_next ?_
  split
  · exact sized_ite hs.stepClock hs
  · exact hs

theorem State.Sized.execInitSet {s : State} (hs : s.Sized) : SizedO (execInitSet s) := by
  delta execInitSet
  refine sizedO_next ?_
  split
  · exact sized_ite hs hs.stepClock
  · exact hs

/-! #### The substation network -/

theorem State.Sized.snetMod {s : State} {f : SnetSt → SnetSt} (hs : s.Sized) (hlines : (f s.snet).lines.length = s.snet.lines.length) :
    (State.snetMod s f).Sized := hs.withSnet hlines

theorem State.Sized.nodeMod {s : State} {n : Nat} {f : NodeSt → NodeSt} (hs : s.Sized) : (State.nodeMod s n f).Sized := by
  delta State.nodeMod
  exact hs.snetMod (by rfl)

theorem State.Sized.countTx {s : State} (hs : s.Sized) : (State.countTx s).Sized :=
  (countTx_keeps (Keeps.refl _ _) (List.Subset.refl _)).sized hs (of_decide_eq_true rfl)

theorem State.Sized.lineDown {p : Nat} {s : State} (hs : s.Sized) : (lineDown p s).Sized := by
  delta lineDown
  exact sized_ite (hs.snetMod (length_setAt ..)) hs

theorem State.Sized.execLinkDown {p : Nat} {s : State} (hs : s.Sized) : SizedO (execLinkDown p s) := by
  delta execLinkDown
  exact sizedO_next hs.lineDown

theorem State.Sized.execLinkUp {p : Nat} {s : State} (hs : s.Sized) : SizedO (execLinkUp p s) := by
  delta execLinkUp
  exact sizedO_next (sized_ite (hs.snetMod (length_setAt ..)) hs)

theorem State.Sized.execSfpFault {p : Nat} {txf : Bool} {los : Bool} {removed : Bool} {s : State} (hs : s.Sized) :
    SizedO (execSfpFault p txf los removed s) := by
  delta execSfpFault
  exact sizedO_next (sized_ite hs (hs.snetMod (by rfl)))

theorem State.Sized.lineEvent {s : State} {e : Nat × Nat} (hs : s.Sized) : (State.lineEvent s e).Sized := by
  delta State.lineEvent
  extract_lets +onlyGivenNames y1 y2
  refine sized_ite hs.setB.bump.raiseEv ?_
  refine sized_ite hs.setB.setB.setB.setB.raiseEv ?_
  exact sized_ite hs.setB (sized_ite hs.setB (sized_ite hs.setB hs.raiseEv))

theorem State.Sized.lineTick {s : State} (hs : s.Sized) : (State.lineTick s).Sized := by
  delta State.lineTick
  exact (sized_foldl hs (fun a e ha => ha.lineEvent)).snetMod (by rfl)

theorem State.Sized.prpSupervise {s : State} (hs : s.Sized) : (State.prpSupervise s).Sized := by
  delta State.prpSupervise
  exact ((sized_foldl hs.countTx (fun a e ha => ha.emit)).prpStep).snetMod (by rfl)

theorem State.Sized.execPrpSupervisionFrame {s : State} (hs : s.Sized) : SizedO (execPrpSupervisionFrame s) := by
  delta execPrpSupervisionFrame
  refine sizedO_next ?_
  extract_lets +onlyGivenNames y1
  exact sized_ite hs.prpSupervise hs

theorem State.Sized.setNodeState {s : State} {n : Nat} {st : Nat} (hs : s.Sized) : (State.setNodeState s n st).Sized :=
  (setNodeState_keeps (Keeps.refl _ _) (List.Subset.refl _)).sized hs (of_decide_eq_true rfl)

theorem State.Sized.imgFlag {s : State} {n : Nat} {b : Nat} {v : Bool} (hs : s.Sized) : (State.imgFlag s n b v).Sized :=
  (imgFlag_keeps (Keeps.refl _ _) (List.Subset.refl _)).sized hs (of_decide_eq_true rfl)

theorem State.Sized.nodeCount {s : State} {n : Nat} {w : Nat} (hs : s.Sized) : (State.nodeCount s n w).Sized :=
  (nodeCount_keeps (Keeps.refl _ _) (List.Subset.refl _)).sized hs (of_decide_eq_true rfl)

theorem State.Sized.nodeCounts {s : State} (hs : s.Sized) : (State.nodeCounts s).Sized :=
  (nodeCounts_keeps (Keeps.refl _ _) (List.Subset.refl _)).sized hs (of_decide_eq_true rfl)

theorem State.Sized.groupDefs {s : State} (hs : s.Sized) : (State.groupDefs s).Sized :=
  (groupDefs_keeps (Keeps.refl _ _) (List.Subset.refl _)).sized hs (of_decide_eq_true rfl)

theorem State.Sized.leadChanged {s : State} (hs : s.Sized) : (State.leadChanged s).Sized := by
  delta State.leadChanged
  exact sized_foldl hs (fun a e ha => ha.nodeMod)

theorem State.Sized.nodeSlots {s : State} {n : Nat} (hs : s.Sized) : (State.nodeSlots s n).Sized := by
  delta State.nodeSlots
  extract_lets +onlyGivenNames y1 y2 y3 y4
  have hy4 : y4.Sized := hs.nodeMod
  exact hy4.imgFlag

theorem State.Sized.allSlots {s : State} (hs : s.Sized) : (State.allSlots s).Sized := by
  delta State.allSlots
  exact sized_foldl hs (fun a e ha => ha.nodeSlots)

theorem State.Sized.rekeyRegs {s : State} (hs : s.Sized) : (State.rekeyRegs s).Sized :=
  (rekeyRegs_keeps (Keeps.refl _ _) (List.Subset.refl _)).sized hs (of_decide_eq_true rfl)

theorem State.Sized.rekeyDone {s : State} (hs : s.Sized) : (State.rekeyDone s).Sized := by
  delta State.rekeyDone
  extract_lets +onlyGivenNames y1 y2
  have hy2 : y2.Sized := sized_foldl hs (fun a e ha => ha.raiseEv)
  extract_lets +onlyGivenNames y3 y4
  have hy4 : y4.Sized := hy2.snetMod (by rfl)
  exact hy4.rekeyRegs

theorem State.Sized.rekeyJoin {s : State} {n : Nat} (hs : s.Sized) : (State.rekeyJoin s n).Sized := by
  delta State.rekeyJoin
  exact hs.snetMod (by rfl)

theorem State.Sized.rekeyStart {s : State} {g : Nat} {at_ : Nat × Nat} (hs : s.Sized) : (State.rekeyStart s g at_).Sized := by
  delta State.rekeyStart
  extract_lets +onlyGivenNames y1
  exact (hs.snetMod (by rfl)).rekeyRegs

theorem State.Sized.rekeyCmd {s : State} (hs : s.Sized) : (rekeyCmd s).1.Sized := by
  delta rekeyCmd
  exact sized_iteP (sized_fst hs) (sized_fst hs.rekeyStart)

theorem State.Sized.execRekey {s : State} (hs : s.Sized) : SizedO (execRekey s) := by
  delta execRekey
  exact sizedO_next hs.rekeyCmd

theorem State.Sized.execRekeySwitch {g : Nat} {s : State} (hs : s.Sized) : SizedO (execRekeySwitch g s) := by
  delta execRekeySwitch
  refine sizedO_next ?_
  split
  · exact hs
  · refine sized_ite hs ?_
    extract_lets +onlyGivenNames y1
    have hy1 : y1.Sized := hs.snetMod (by rfl)
    extract_lets +onlyGivenNames y2
    have hy2 : y2.Sized := sized_ite hy1.setB hy1.setB
    extract_lets +onlyGivenNames y3
    have hy3 : y3.Sized := sized_foldl hy2 (fun a e ha => ha.imgFlag)
    exact hy3.raiseEv.rekeyDone

theorem State.Sized.execRekeyOverlapEnd {g : Nat} {s : State} (hs : s.Sized) : SizedO (execRekeyOverlapEnd g s) := by
  delta execRekeyOverlapEnd
  refine sizedO_next ?_
  split
  · exact hs
  · exact sized_ite hs (hs.snetMod (by rfl)).setB

theorem State.Sized.groupsRevoked {s : State} (hs : s.Sized) : (State.groupsRevoked s).Sized := by
  delta State.groupsRevoked
  extract_lets +onlyGivenNames y1 y2 y3
  have hy3 : y3.Sized := sized_foldl hs (fun a e ha => ha.setB)
  extract_lets +onlyGivenNames y4
  have hy4 : y4.Sized := sized_foldl hy3 (fun a e ha => ha.setB)
  extract_lets +onlyGivenNames y5
  have hy5 : y5.Sized := (hy4.snetMod (by rfl)).rekeyRegs
  exact sized_ite hy5 hy5.raiseEv

theorem State.Sized.qUse {s : State} (hs : s.Sized) : (State.qUse s).Sized :=
  (qUse_keeps (Keeps.refl _ _) (List.Subset.refl _)).sized hs (of_decide_eq_true rfl)

theorem State.Sized.steadySet {s : State} {n : Nat} {v : Steady} (hs : s.Sized) : (State.steadySet s n v).Sized := by
  delta State.steadySet
  exact hs.nodeMod

theorem State.Sized.qFree {s : State} {e : QEntry} {off : Nat} (hs : s.Sized) : (State.qFree s e off).Sized := by
  delta State.qFree
  extract_lets +onlyGivenNames y1
  have hy1 : y1.Sized := sized_ite hs.steadySet hs
  extract_lets +onlyGivenNames y2
  have hy2 : y2.Sized := hy1.tclear
  exact hy2.nodeMod.qUse

theorem State.Sized.steadyNow {s : State} {n : Nat} {off : Nat} (hs : s.Sized) : (State.steadyNow s n off).Sized := by
  delta State.steadyNow
  exact sized_foldl hs (fun a e ha => ha.steadySet)

theorem State.Sized.qDiscard {s : State} {n : Nat} (hs : s.Sized) : (State.qDiscard s n).Sized := by
  delta State.qDiscard
  exact ((sized_foldl hs.steadyNow (fun a e ha => ha.tclear)).nodeMod).qUse

theorem State.Sized.qWrite {s : State} {i : Nat} {e : QEntry} (hs : s.Sized) : (State.qWrite s i e).Sized :=
  (qWrite_keeps (Keeps.refl _ _) (List.Subset.refl _)).sized hs (of_decide_eq_true rfl)

theorem State.Sized.enqueue {s : State} {src : Nat} {n : Nat} {kind : Nat} {launch : Option (Nat × Nat)} {vals : List Word} {off : Nat}
    (hs : s.Sized) : (State.enqueue s src n kind launch vals off).1.Sized := by
  delta State.enqueue
  extract_lets +onlyGivenNames y1 y2 y3
  have hy3 : y3.Sized := sized_ite (sized_foldl hs (fun a e ha => ha.qFree)) hs
  extract_lets +onlyGivenNames y4 y5
  split
  · refine sized_fst ?_
    refine State.Sized.qUse ?_
    unfold y5
    exact sized_ite hy3.qWrite.steadySet hy3.qWrite
  · extract_lets +onlyGivenNames y6
    refine sized_iteP ?_ ?_
    · refine sized_fst ?_
      refine State.Sized.qUse ?_
      unfold y5
      exact sized_ite hy3.qWrite.steadySet hy3.qWrite
    · refine sized_iteP (sized_fst hy3) ?_
      extract_lets +onlyGivenNames y7
      have hy7 : y7.Sized := hy3.bump
      extract_lets +onlyGivenNames y8 y9
      have hy9 : y9.Sized := sized_ite hy7 hy7.raiseEv
      exact sized_fst (hy9.snetMod (by rfl))

theorem State.Sized.execLaunchQueueExpire {i : Nat} {ns : Nat} {s : State} (hs : s.Sized) : SizedO (execLaunchQueueExpire i ns s) := by
  delta execLaunchQueueExpire
  extract_lets +onlyGivenNames y1
  exact sizedO_next (sized_ite hs.qFree hs)

theorem State.Sized.nodeInit {s : State} {n : Nat} (hs : s.Sized) : (State.nodeInit s n).Sized := by
  delta State.nodeInit
  extract_lets +onlyGivenNames y1
  have hy1 : y1.Sized := hs.setNodeState.imgFlag.qDiscard
  exact hy1.nodeMod

theorem State.Sized.nodeQuarantine {s : State} {n : Nat} (hs : s.Sized) : (State.nodeQuarantine s n).Sized := by
  delta State.nodeQuarantine
  exact hs.setNodeState.nodeMod

theorem State.Sized.stateAccept {s : State} {n : Nat} {off : Nat} (hs : s.Sized) : (State.stateAccept s n off).Sized := by
  delta State.stateAccept
  extract_lets +onlyGivenNames y1
  have hy1 : y1.Sized := hs.steadyNow
  extract_lets +onlyGivenNames y2 y3
  have hy3 : y3.Sized := hy1.nodeMod
  extract_lets +onlyGivenNames y4
  have hy4 : y4.Sized := sized_foldl hy3 (fun a e ha => sized_ite ha.tset ha)
  exact sized_foldl hy4 (fun a e ha => ha.enqueue)

theorem State.Sized.nodeAcceptCmd {s : State} (hs : s.Sized) : (nodeAcceptCmd s).1.Sized := by
  delta nodeAcceptCmd
  extract_lets +onlyGivenNames y1
  refine sized_iteP (sized_fst hs) ?_
  extract_lets +onlyGivenNames y2
  have hy2 : y2.Sized := hs.nodeMod.imgFlag
  exact sized_fst hy2.stateAccept

theorem State.Sized.execNodeAccept {s : State} (hs : s.Sized) : SizedO (execNodeAccept s) := by
  delta execNodeAccept
  exact sizedO_next hs.nodeAcceptCmd

theorem State.Sized.nodeResetCmd {s : State} (hs : s.Sized) : (nodeResetCmd s).Sized := by
  delta nodeResetCmd
  exact hs.nodeInit

theorem State.Sized.execNodeReset {s : State} (hs : s.Sized) : SizedO (execNodeReset s) := by
  delta execNodeReset
  exact sizedO_next hs.nodeResetCmd

theorem State.Sized.nodeClrCmd {s : State} (hs : s.Sized) : (nodeClrCmd s).Sized :=
  (nodeClrCmd_keeps (Keeps.refl _ _) (List.Subset.refl _)).sized hs (of_decide_eq_true rfl)

theorem State.Sized.execNodeBaselineSave {s : State} (hs : s.Sized) : SizedO (execNodeBaselineSave s) := by
  delta execNodeBaselineSave
  exact sizedO_next (hs.snetMod (by rfl))

theorem State.Sized.imgSetStat {s : State} {n : Nat} {i : Nat} {st : Nat} (hs : s.Sized) : (State.imgSetStat s n i st).Sized :=
  (imgSetStat_keeps (Keeps.refl _ _) (List.Subset.refl _)).sized hs (of_decide_eq_true rfl)

theorem State.Sized.imgWords {s : State} {n : Nat} {ps : List (Nat × Word)} (hs : s.Sized) : (State.imgWords s n ps).Sized :=
  (imgWords_keeps (Keeps.refl _ _) (List.Subset.refl _)).sized hs (of_decide_eq_true rfl)

theorem State.Sized.imgType {s : State} {n : Nat} (hs : s.Sized) : (State.imgType s n).Sized := by
  delta State.imgType
  extract_lets +onlyGivenNames y1 y2
  have hy2 : y2.Sized := hs.tset
  extract_lets +onlyGivenNames y3
  have hy3 : y3.Sized := sized_foldl hy2 (fun a e ha => ha.imgWords.imgSetStat)
  exact hy3.nodeMod

theorem State.Sized.nodeTableWrite {s : State} {n : Nat} {old : List Word} (hs : s.Sized) : (State.nodeTableWrite s n old).Sized := by
  delta State.nodeTableWrite
  extract_lets +onlyGivenNames y1 y2
  have hy2 : y2.Sized := sized_ite hs.nodeInit hs
  extract_lets +onlyGivenNames y3
  have hy3 : y3.Sized := hy2.snetMod (by rfl)
  extract_lets +onlyGivenNames y4 y5
  have hy5 : y5.Sized := sized_ite ((sized_ite hy3.rekeyJoin hy3).imgType.nodeSlots) hy3.imgType
  exact hy5.groupDefs.rekeyDone

theorem State.Sized.snetSoftReset {s : State} (hs : s.Sized) : (State.snetSoftReset s).Sized := by
  delta State.snetSoftReset
  extract_lets +onlyGivenNames y1
  have hy1 : y1.Sized := sized_foldl hs (fun a e ha => ha.nodeInit)
  extract_lets +onlyGivenNames y2
  have hy2 : y2.Sized := hy1.tclear.setF
  exact hy2.qUse

theorem State.Sized.countRx {s : State} {g : Gsp} (hs : s.Sized) : (State.countRx s g).Sized := by
  delta State.countRx
  refine sized_ite hs ?_
  extract_lets +onlyGivenNames y1
  have hy1 : y1.Sized := hs.bump
  extract_lets +onlyGivenNames y2
  have hy2 : y2.Sized := sized_ite hy1.bump.raiseEv hy1
  exact sized_ite hy2.bump.bump hy2.bump

theorem State.Sized.gspRecords {s : State} {g : Gsp} {k : State → List (Nat × List Byte) → GspRes} (hs : s.Sized)
    (hk : ∀ x l, x.Sized → (k x l).state.Sized) : (State.gspRecords s g k).state.Sized := by
  delta State.gspRecords
  split
  · exact State.Sized.bump hs
  · rename_i l _
    exact hk _ _ (State.Sized.bumpN hs)

theorem State.Sized.gspCheck {s0a0 : State} {g : Gsp} (hs0a0 : s0a0.Sized) : (State.gspCheck s0a0 g).state.Sized := by
  delta State.gspCheck
  refine sizedG_ite (sizedG_refused hs0a0) ?_
  extract_lets +onlyGivenNames y1
  have hy1 : y1.Sized := hs0a0.countRx
  refine sizedG_ite (sizedG_refused hy1) ?_
  extract_lets +onlyGivenNames y2
  have hy2 : y2.Sized := sized_ite hy1 hy1.bump
  refine sizedG_ite (sizedG_refused hy2.bump) ?_
  refine sizedG_ite (sizedG_refused hy2.bump) ?_
  refine sizedG_ite (sizedG_refused hy2.bump) ?_
  split
  · refine sizedG_ite ?_ ?_
    · refine State.Sized.gspRecords ?_ (fun x l hx => ?_)
      · exact hy2
      · exact sizedG_back hx.bump
    · exact sizedG_refused hy2.bump
  · exact sizedG_refused hy2.bump
  · refine State.Sized.gspRecords ?_ (fun x l hx => ?_)
    · exact hy2
    · exact sizedG_ok hx.bump.nodeMod.twr

theorem State.Sized.msgAllowed {s : State} {n : Nat} (hs : s.Sized) : (State.msgAllowed s n).1.Sized := by
  delta State.msgAllowed
  extract_lets +onlyGivenNames y1 y2
  exact sized_iteP (sized_fst hs.nodeMod) (sized_fst hs.bump)

theorem State.Sized.execSubHelloRx {g : Gsp} {s : State} (hs : s.Sized) : SizedO (execSubHelloRx g s) := by
  delta execSubHelloRx
  refine sizedO_next ?_
  split
  · refine sized_refused (by assumption) ?_
    exact hs.gspCheck
  · split
    · refine sized_of_pair (by assumption) ?_
      refine State.Sized.msgAllowed ?_
      refine sized_back (by assumption) ?_
      exact hs.gspCheck
    · extract_lets +onlyGivenNames y1
      have hy1 : y1.Sized := by
        unfold y1
        refine State.Sized.raiseEv ?_
        refine State.Sized.bump ?_
        refine sized_of_pair (by assumption) ?_
        refine State.Sized.msgAllowed ?_
        refine sized_back (by assumption) ?_
        exact hs.gspCheck
      exact sized_ite hy1 hy1.nodeMod
  · refine sized_ite ?_ ?_
    · refine sized_ok (by assumption) ?_
      exact hs.gspCheck
    · split
      · refine sized_of_pair (by assumption) ?_
        refine State.Sized.msgAllowed ?_
        refine sized_ok (by assumption) ?_
        exact hs.gspCheck
      · refine sized_ite ?_ ?_
        · refine sized_of_pair (by assumption) ?_
          refine State.Sized.msgAllowed ?_
          refine sized_ok (by assumption) ?_
          exact hs.gspCheck
        · extract_lets +onlyGivenNames y2
          have hy2 : y2.Sized := by
            unfold y2
            refine State.Sized.nodeMod ?_
            refine sized_of_pair (by assumption) ?_
            refine State.Sized.msgAllowed ?_
            refine sized_ok (by assumption) ?_
            exact hs.gspCheck
          exact sized_ite hy2.nodeQuarantine hy2

theorem State.Sized.execSubReportRx {g : Gsp} {s : State} (hs : s.Sized) : SizedO (execSubReportRx g s) := by
  delta execSubReportRx
  refine sizedO_next ?_
  split
  · refine sized_refused (by assumption) ?_
    exact hs.gspCheck
  · refine sized_back (by assumption) ?_
    exact hs.gspCheck
  · extract_lets +onlyGivenNames y1
    refine sized_ite ?_ ?_
    · refine sized_ok (by assumption) ?_
      exact hs.gspCheck
    · extract_lets +onlyGivenNames y2 y3
      have hy3 : y3.Sized := by
        unfold y3
        refine sized_ite ?_ ?_
        · refine State.Sized.bump ?_
          refine sized_ok (by assumption) ?_
          exact hs.gspCheck
        · refine sized_ok (by assumption) ?_
          exact hs.gspCheck
      extract_lets +onlyGivenNames y4
      exact hy3.nodeMod

theorem State.Sized.execSubStateRx {g : Gsp} {s : State} (hs : s.Sized) : SizedO (execSubStateRx g s) := by
  delta execSubStateRx
  refine sizedO_next ?_
  split
  · refine sized_refused (by assumption) ?_
    exact hs.gspCheck
  · refine sized_back (by assumption) ?_
    exact hs.gspCheck
  · refine sized_ite ?_ ?_
    · refine sized_ok (by assumption) ?_
      exact hs.gspCheck
    · split
      · refine sized_of_pair (by assumption) ?_
        refine State.Sized.msgAllowed ?_
        refine sized_ok (by assumption) ?_
        exact hs.gspCheck
      · extract_lets +onlyGivenNames y1
        refine sized_ite ?_ ?_
        · refine sized_of_pair (by assumption) ?_
          refine State.Sized.msgAllowed ?_
          refine sized_ok (by assumption) ?_
          exact hs.gspCheck
        · extract_lets +onlyGivenNames y2
          refine sized_ite ?_ ?_
          · refine State.Sized.raiseEv ?_
            refine State.Sized.bump ?_
            refine State.Sized.imgFlag ?_
            refine State.Sized.nodeMod ?_
            refine sized_of_pair (by assumption) ?_
            refine State.Sized.msgAllowed ?_
            refine sized_ok (by assumption) ?_
            exact hs.gspCheck
          · refine State.Sized.stateAccept ?_
            refine State.Sized.imgFlag ?_
            refine State.Sized.nodeMod ?_
            refine sized_of_pair (by assumption) ?_
            refine State.Sized.msgAllowed ?_
            refine sized_ok (by assumption) ?_
            exact hs.gspCheck

theorem State.Sized.execSubAckRx {g : Gsp} {s : State} (hs : s.Sized) : SizedO (execSubAckRx g s) := by
  delta execSubAckRx
  refine sizedO_next ?_
  split
  · refine sized_refused (by assumption) ?_
    exact hs.gspCheck
  · refine sized_back (by assumption) ?_
    exact hs.gspCheck
  · refine sized_ite ?_ ?_
    · refine sized_ok (by assumption) ?_
      exact hs.gspCheck
    · split
      · refine sized_of_pair (by assumption) ?_
        refine State.Sized.msgAllowed ?_
        refine sized_ok (by assumption) ?_
        exact hs.gspCheck
      · split
        · refine sized_ite ?_ ?_
          · refine State.Sized.rekeyDone ?_
            refine State.Sized.imgFlag ?_
            refine State.Sized.snetMod ?_ (by rfl)
            refine sized_of_pair (by assumption) ?_
            refine State.Sized.msgAllowed ?_
            refine sized_ok (by assumption) ?_
            exact hs.gspCheck
          · refine sized_of_pair (by assumption) ?_
            refine State.Sized.msgAllowed ?_
            refine sized_ok (by assumption) ?_
            exact hs.gspCheck
        · refine sized_of_pair (by assumption) ?_
          refine State.Sized.msgAllowed ?_
          refine sized_ok (by assumption) ?_
          exact hs.gspCheck

theorem State.Sized.imgReport {s : State} {n : Nat} {f : Nat × List Word × Nat} (hs : s.Sized) : (State.imgReport s n f).Sized := by
  delta State.imgReport
  exact hs.imgWords.imgSetStat.nodeMod

theorem State.Sized.imgHold {s : State} {n : Nat} {q : Nat} {i : Nat} (hs : s.Sized) : (State.imgHold s n q i).Sized :=
  (imgHold_keeps (Keeps.refl _ _) (List.Subset.refl _)).sized hs (of_decide_eq_true rfl)

theorem State.Sized.imgPublish {s : State} {n : Nat} (hs : s.Sized) : (State.imgPublish s n).Sized := by
  delta State.imgPublish
  extract_lets +onlyGivenNames y1
  exact hs.rolePuts

theorem State.Sized.imgStale {s : State} {n : Nat} (hs : s.Sized) : (State.imgStale s n).Sized :=
  (imgStale_keeps (Keeps.refl _ _) (List.Subset.refl _)).sized hs (of_decide_eq_true rfl)

theorem State.Sized.imgSubst {s : State} {n : Nat} (hs : s.Sized) : (State.imgSubst s n).Sized :=
  (imgSubst_keeps (Keeps.refl _ _) (List.Subset.refl _)).sized hs (of_decide_eq_true rfl)

theorem State.Sized.imgTake {s : State} {n : Nat} {rs : List (Nat × List Byte)} (hs : s.Sized) : (State.imgTake s n rs).Sized := by
  delta State.imgTake
  extract_lets +onlyGivenNames y1 y2 y3
  have hy3 : y3.Sized := sized_foldl hs (fun a e ha => ha.imgReport)
  extract_lets +onlyGivenNames y4
  have hy4 : y4.Sized := sized_foldl hy3 (fun a e ha => ha.imgHold)
  split
  · exact hy4
  · exact hy4.twr

theorem State.Sized.latHfSet {s : State} (hs : s.Sized) : (s.snetMod (fun q => { q with latHf := true })).Sized := hs.snetMod (by rfl)

theorem State.Sized.latency {s : State} {r : Report} (hs : s.Sized) : (State.latency s r).Sized := by
  delta State.latency
  extract_lets +onlyGivenNames y1 y2 y3
  have hy3 : y3.Sized := hs.useFree
  extract_lets +onlyGivenNames y4
  have hy4 : y4.Sized := sized_ite hy3.wr hy3
  refine sized_ite ?_ ?_
  · extract_lets +onlyGivenNames y5
    have hy5 : y5.Sized := hy4.bump
    exact sized_ite hy5 hy5.latHfSet.raiseEv
  · exact hy4

theorem State.Sized.reportUsed {s : State} {n : Nat} {r : Report} (hs : s.Sized) : (State.reportUsed s n r).Sized := by
  delta State.reportUsed
  extract_lets +onlyGivenNames y1
  have hy1 : y1.Sized := hs.twr.twr.twr
  extract_lets +onlyGivenNames y2
  have hy2 : y2.Sized := hy1.nodeCount
  extract_lets +onlyGivenNames y3
  have hy3 : y3.Sized := by
    unfold y3
    split
    · exact hy2
    · exact hy2.tset
  exact sized_ite hy3.latency.nodeMod hy3

theorem State.Sized.cmdAck {s : State} {n : Nat} {off : Nat} {v : List Byte} (hs : s.Sized) : (State.cmdAck s n off v).Sized := by
  delta State.cmdAck
  extract_lets +onlyGivenNames y1 y2
  refine sized_ite ?_ ?_
  · extract_lets +onlyGivenNames y3 y4
    have hy4 : y4.Sized := by
      unfold y4
      refine sized_foldl ?_ (fun a e ha => ?_)
      · exact hs
      · refine sized_ite (sized_ite ha.qFree ha.tset) ?_
        extract_lets +onlyGivenNames y5
        have hy5 : y5.Sized := ha.qFree.bump
        exact sized_ite hy5 hy5.raiseEv
    exact hy4.nodeMod
  · exact hs

theorem State.Sized.countMiss {s : State} {n : Nat} (hs : s.Sized) : (State.countMiss s n).Sized :=
  (countMiss_keeps (Keeps.refl _ _) (List.Subset.refl _)).sized hs (of_decide_eq_true rfl)

theorem State.Sized.slotReport {s : State} {n : Nat} {off : Nat} {st : Nat} {r : Report} (hs : s.Sized) :
    (State.slotReport s n off st r).Sized := by
  delta State.slotReport
  extract_lets +onlyGivenNames y1 y2
  have hy2 : y2.Sized := hs.reportUsed
  extract_lets +onlyGivenNames y3
  have hy3 : y3.Sized := by
    unfold y3
    split
    · exact hy2
    · exact hy2.cmdAck
  extract_lets +onlyGivenNames y4 y5
  refine sized_ite ?_ ?_
  · unfold y5
    exact hy3.imgTake.nodeMod
  · refine sized_ite ?_ ?_
    · extract_lets +onlyGivenNames y6 y7 y8
      have hy8 : y8.Sized := hy3.nodeMod
      refine sized_ite ?_ ?_
      · unfold y5
        exact hy8.setNodeState.imgTake.nodeMod
      · exact hy8.imgSubst
    · exact hy3.imgSubst

theorem State.Sized.slotMissed {s : State} {n : Nat} {st : Nat} (hs : s.Sized) : (State.slotMissed s n st).Sized := by
  delta State.slotMissed
  extract_lets +onlyGivenNames y1 y2
  have hy2 : y2.Sized := sized_ite hs hs.countMiss
  exact sized_ite hy2.nodeMod.imgSubst (sized_ite (sized_ite hy2.imgStale hy2) hy2.imgSubst)

theorem State.Sized.reportSlot {s : State} {n : Nat} {off : Nat} (hs : s.Sized) : (State.reportSlot s n off).Sized := by
  delta State.reportSlot
  extract_lets +onlyGivenNames y1 y2 y3 y4 y5 y6 y7
  have hy7 : y7.Sized := hs.bumpN.nodeMod
  extract_lets +onlyGivenNames y8
  have hy8 : y8.Sized := hy7.tset
  extract_lets +onlyGivenNames y9
  have hy9 : y9.Sized := by
    unfold y9
    refine sized_ite hy7 ?_
    split
    · exact hy7.slotMissed
    · exact sized_ite hy8.nodeQuarantine.imgSubst hy8.slotReport
  exact hy9.imgPublish

theorem State.Sized.execGspRxclose {arg : Nat} {ns : Nat} {s : State} (hs : s.Sized) : SizedO (execGspRxclose arg ns s) := by
  delta execGspRxclose
  refine sizedO_next ?_
  refine hs.entry (fun x hx => ?_)
  split
  · exact hx
  · exact sized_ite hx hx.nodeMod.reportSlot

theorem State.Sized.execNodeSilent {n : Nat} {s : State} (hs : s.Sized) : SizedO (execNodeSilent n s) := by
  delta execNodeSilent
  refine sizedO_next ?_
  extract_lets +onlyGivenNames y1
  exact sized_ite hs.setNodeState.nodeCount.imgSubst.imgPublish hs

theorem State.Sized.lostPrune {s : State} {n : Nat} (hs : s.Sized) : (State.lostPrune s n).Sized := by
  delta State.lostPrune
  extract_lets +onlyGivenNames y1 y2
  exact sized_foldl hs (fun a e ha => ha.qFree)

theorem State.Sized.execNodeLost {n : Nat} {s : State} (hs : s.Sized) : SizedO (execNodeLost n s) := by
  delta execNodeLost
  exact sizedO_next (sized_ite hs.setNodeState.bump.lostPrune.imgPublish hs)

theorem State.Sized.gspSend {s : State} {n : Nat} {typ : Nat} {flags : Nat} {key : Option (Nat × Nat)} {launch : Nat × Nat}
    {recs : List (Nat × List Byte)} (hs : s.Sized) : (State.gspSend s n typ flags key launch recs).Sized := by
  delta State.gspSend
  extract_lets +onlyGivenNames y1 y2 y3 y4 y5 y6 y7 y8
  have hy8 : y8.Sized := hs.withTwin
  extract_lets +onlyGivenNames y9
  have hy9 : y9.Sized := hy8.nodeMod
  exact sized_ite hy9.countTx.emit.prpStep hy9

theorem State.Sized.ctrlMsg {s : State} {n : Nat} {off : Nat} (hs : s.Sized) : (State.ctrlMsg s n off).Sized := by
  delta State.ctrlMsg
  extract_lets +onlyGivenNames y1 y2 y3 y4
  split
  · refine sized_ite hs ?_
    extract_lets +onlyGivenNames y5 y6
    have hy6 : y6.Sized := hs.gspSend
    extract_lets +onlyGivenNames y7
    have hy7 : y7.Sized := hy6.nodeMod
    exact sized_ite hy7.nodeQuarantine hy7
  · refine sized_ite hs ?_
    refine sized_ite hs.gspSend ?_
    split
    · exact sized_ite hs.gspSend hs
    · exact hs

theorem State.Sized.dropLate {s : State} {n : Nat} {off : Nat} (hs : s.Sized) : (State.dropLate s n off).Sized := by
  delta State.dropLate
  extract_lets +onlyGivenNames y1 y2
  refine sized_foldl ?_ (fun a e ha => ?_)
  · exact hs
  · extract_lets +onlyGivenNames y3
    have hy3 : y3.Sized := ha.qFree.bump.raiseEv
    extract_lets +onlyGivenNames y4
    exact sized_ite hy3 hy3.enqueue

theorem State.Sized.subCmd {s0a0 : State} {n : Nat} {off : Nat} (hs0a0 : s0a0.Sized) : (State.subCmd s0a0 n off).Sized := by
  delta State.subCmd
  extract_lets +onlyGivenNames y1
  have hy1 : y1.Sized := hs0a0.dropLate
  extract_lets +onlyGivenNames y2 y3 y4 y5 y6 y7 y8 y9 y10
  have hy10 : y10.Sized := hy1.gspSend
  extract_lets +onlyGivenNames y11
  have hy11 : y11.Sized := by
    unfold y11
    refine sized_foldl ?_ (fun a e ha => ?_)
    · exact hy10
    · extract_lets +onlyGivenNames y12
      have hy12 : y12.Sized := ha.tset.tset
      exact sized_ite hy12.tset.bump hy12
  extract_lets +onlyGivenNames y13
  have hy13 : y13.Sized := (sized_ite hy11.bump.nodeCount hy11).bump
  exact hy13.nodeMod

theorem State.Sized.commandSlot {s : State} {n : Nat} {off : Nat} (hs : s.Sized) : (State.commandSlot s n off).Sized := by
  delta State.commandSlot
  extract_lets +onlyGivenNames y1 y2
  have hy2 : y2.Sized := hs.ctrlMsg
  exact sized_ite hy2 hy2.subCmd

theorem State.Sized.execGspTx {arg : Nat} {ns : Nat} {s : State} (hs : s.Sized) : SizedO (execGspTx arg ns s) := by
  delta execGspTx
  refine sizedO_next ?_
  refine hs.entry (fun x hx => ?_)
  split
  · exact hx
  · refine sized_ite hx ?_
    extract_lets +onlyGivenNames y1
    have hy1 : y1.Sized := hx.nodeMod
    exact sized_ite hy1.commandSlot hy1

theorem State.Sized.snetTick {s : State} {newCycle : Bool} {newHf : Bool} (hs : s.Sized) : (State.snetTick s newCycle newHf).Sized := by
  delta State.snetTick
  extract_lets +onlyGivenNames y1
  have hy1 : y1.Sized := hs.snetMod (by rfl)
  exact hy1.lineTick

/-! #### Privileged channels -/

theorem State.Sized.privTick {s : State} (hs : s.Sized) : (State.privTick s).Sized := by
  delta State.privTick
  refine sized_foldl ?_ (fun a e ha => ?_)
  · exact hs
  · extract_lets +onlyGivenNames y1 y2 y3 y4 y5 y6
    have hy6 : y6.Sized := sized_foldl ha (fun a e ha => ha.bump.raiseEv)
    extract_lets +onlyGivenNames y7
    have hy7 : y7.Sized := hy6.privMod
    extract_lets +onlyGivenNames y8 y9 y10 y11
    have hy11 : y11.Sized := hy7.setB.setF
    extract_lets +onlyGivenNames y12
    have hy12 : y12.Sized := hy11.setB.setB.setB
    exact sized_ite hy12.raiseEv hy12

theorem State.Sized.privLog {s : State} {ws : List Word} (hs : s.Sized) : (State.privLog s ws).Sized :=
  (privLog_keeps (Keeps.refl _ _) (List.Subset.refl _)).sized hs (of_decide_eq_true rfl)

theorem State.Sized.privRefuse {s : State} {src : Nat} {ch : Nat} {code : Nat} {off : Nat} (hs : s.Sized) :
    (State.privRefuse s src ch code off).Sized := by
  delta State.privRefuse
  extract_lets +onlyGivenNames y1 y2
  have hy2 : y2.Sized := hs.privLog
  extract_lets +onlyGivenNames y3
  have hy3 : y3.Sized := hy2.wr.setF
  exact hy3.bump.raiseEv

theorem State.Sized.privArmComp {s : State} {r : PrivReq} {off : Nat} (hs : s.Sized) : (State.privArmComp s r off).Sized := by
  have hp : ∀ (a : State) (reg : Nat) (v : Word), a.Sized → { a.wr reg v with shadow := smErase a.shadow reg }.Sized :=
    fun a reg v h => State.Sized.withShadow (x := a.wr reg v) (State.Sized.wr h)
  delta State.privArmComp
  exact State.Sized.lnchArm (hp _ _ _ (hp _ _ _ (hp _ _ _ hs)))

theorem State.Sized.privAccept {s : State} {src : Nat} {seq : Nat} {w : List Word} {off : Nat} (hs : s.Sized) :
    (State.privAccept s src seq w off).1.Sized := by
  delta State.privAccept
  extract_lets +onlyGivenNames y1 y2 y3 y4 y5 y6 y7 y8 y9 y10 y11 y12 y13 y14
  have hy14 : y14.Sized := hs.privLog
  extract_lets +onlyGivenNames y15
  have hy15 : y15.Sized := hy14.privMod
  extract_lets +onlyGivenNames y16
  have hy16 : y16.Sized := hy15.bump.wr.setF
  extract_lets +onlyGivenNames y17
  have hy17 : y17.Sized := hy16.chShow
  exact sized_fst (sized_ite hy17.privArmComp hy17)

theorem State.Sized.privRequest {s : State} {own : Bool} {src : Nat} {w : List Word} {off : Nat} (hs : s.Sized) :
    (State.privRequest s own src w off).1.Sized := by
  delta State.privRequest
  extract_lets +onlyGivenNames y1 y2
  have hy2 : y2.Sized := hs.privMod
  refine sized_iteP ?_ ?_
  · extract_lets +onlyGivenNames y3
    have hy3 : y3.1.Sized := hy2.privAccept
    exact sized_fst hy3
  · exact sized_fst hy2.privRefuse

theorem State.Sized.cpeRequest {s : State} {p : Nat} {w : List Word} {off : Nat} (hs : s.Sized) : (State.cpeRequest s p w off).Sized := by
  delta State.cpeRequest
  extract_lets +onlyGivenNames y1 y2
  have hy2 : y2.Sized := sized_foldl hs (fun a e ha => ha.wr)
  extract_lets +onlyGivenNames y3
  have hy3 : y3.1.Sized := hy2.privRequest
  exact (sized_ite hy3.wr hy3).wr

theorem State.Sized.actPrivReq {s : State} {c : HCmd} (hs : s.Sized) : (State.actPrivReq s c).Sized := by
  delta State.actPrivReq
  extract_lets +onlyGivenNames y1
  have hy1 : y1.1.Sized := hs.privRequest
  exact sized_ite hy1.complete hy1.complete

theorem State.Sized.privSet {s : State} {r : PrivReq} (hs : s.Sized) : (State.privSet s r).Sized :=
  (privSet_keeps (Keeps.refl _ _) (List.Subset.refl _)).sized hs (of_decide_eq_true rfl)

theorem State.Sized.privDone {s : State} {r : PrivReq} {o : Nat} (hs : s.Sized) : (State.privDone s r o).Sized := by
  delta State.privDone
  extract_lets +onlyGivenNames y1
  exact hs.canMod.canMod.privEnd

theorem State.Sized.subPriv {s : State} {r : PrivReq} {retx : Bool} (hs : s.Sized) : (State.subPriv s r retx).Sized := by
  delta State.subPriv
  exact hs.gspSend

theorem State.Sized.placePriv {s : State} {r : PrivReq} {t : Nat} (hs : s.Sized) : (State.placePriv s r t).Sized := by
  delta State.placePriv
  refine sized_ite hs ?_
  extract_lets +onlyGivenNames y1 y2 y3
  have hy3 : y3.Sized := hs.canMod
  exact sized_ite hy3 hy3.privMove

theorem State.Sized.privOut {s : State} {t : Nat} (hs : s.Sized) : (State.privOut s t).Sized :=
  (privOut_keeps (Keeps.refl _ _) (List.Subset.refl _)).sized hs (of_decide_eq_true rfl)

theorem State.Sized.execPrivRelease {ch : Nat} {seq : Nat} {ns : Nat} {s : State} (hs : s.Sized) : SizedO (execPrivRelease ch seq ns s) := by
  delta execPrivRelease
  extract_lets +onlyGivenNames y1
  refine sizedO_next ?_
  split
  · exact hs
  · extract_lets +onlyGivenNames y2
    refine sized_ite hs ?_
    extract_lets +onlyGivenNames y3
    have hy3 : y3.Sized := hs.privSet.logReleased
    exact sized_ite hy3.privOut.subPriv hy3.placePriv

theorem State.Sized.execPrivRetx {ch : Nat} {seq : Nat} {ns : Nat} {s : State} (hs : s.Sized) : SizedO (execPrivRetx ch seq ns s) := by
  delta execPrivRetx
  extract_lets +onlyGivenNames y1
  refine sizedO_next ?_
  split
  · exact hs
  · split
    · exact hs
    · refine sized_ite hs ?_
      extract_lets +onlyGivenNames y2
      have hy2 : y2.Sized := hs.privSet.privMod
      exact hy2.privOut.subPriv.bump

theorem State.Sized.privAck {s : State} {cls : Nat} {dest : Nat} {ch : Nat} {seq : Nat} {res : Nat} (hs : s.Sized) :
    (State.privAck s cls dest ch seq res).Sized := by
  delta State.privAck
  split
  · exact sized_ite hs.privDone hs
  · exact hs

theorem State.Sized.execSubPrivAckRx {g : Gsp} {s : State} (hs : s.Sized) : SizedO (execSubPrivAckRx g s) := by
  delta execSubPrivAckRx
  refine sizedO_next ?_
  split
  · refine sized_refused (by assumption) ?_
    exact hs.gspCheck
  · refine sized_back (by assumption) ?_
    exact hs.gspCheck
  · refine sized_ite ?_ ?_
    · refine sized_ok (by assumption) ?_
      exact hs.gspCheck
    · split
      · refine sized_of_pair (by assumption) ?_
        refine State.Sized.msgAllowed ?_
        refine sized_ok (by assumption) ?_
        exact hs.gspCheck
      · split
        · refine sized_of_pair (by assumption) ?_
          refine State.Sized.msgAllowed ?_
          refine sized_ok (by assumption) ?_
          exact hs.gspCheck
        · refine State.Sized.privAck ?_
          refine sized_of_pair (by assumption) ?_
          refine State.Sized.msgAllowed ?_
          refine sized_ok (by assumption) ?_
          exact hs.gspCheck

theorem State.Sized.execCanPrivAckRx {f : CanFrame} {s : State} (hs : s.Sized) : SizedO (execCanPrivAckRx f s) := by
  delta execCanPrivAckRx
  refine sizedO_next ?_
  refine hs.canRx (fun x hx => ?_)
  extract_lets +onlyGivenNames y1
  exact sized_ite hx.privAck hx

theorem State.Sized.execPrivRequestEnd {ch : Nat} {seq : Nat} {ns : Nat} {s : State} (hs : s.Sized) : SizedO (execPrivRequestEnd ch seq ns s) := by
  delta execPrivRequestEnd
  refine sizedO_next ?_
  split
  · exact hs
  · exact sized_ite hs hs.privDone

theorem State.Sized.privTakeover {s : State} (hs : s.Sized) : (State.privTakeover s).Sized :=
  (privTakeover_keeps (Keeps.refl _ _) (List.Subset.refl _)).sized hs (of_decide_eq_true rfl)

theorem State.Sized.execPrivBreach {kind : Nat} {ch : Nat} {seq : Nat} {ns : Nat} {s : State} (hs : s.Sized) :
    SizedO (execPrivBreach kind ch seq ns s) := by
  delta execPrivBreach
  refine sizedO_next ?_
  refine sized_ite ?_ ?_
  · extract_lets +onlyGivenNames y1
    have hy1 : y1.Sized := by
      unfold y1
      split
      · exact hs
      · exact hs.privDone
    extract_lets +onlyGivenNames y2
    have hy2 : y2.Sized := hy1.setB.wr
    exact hy2.raiseEv.enterFault
  · exact hs

end Sys2Proof.Machine
end

section
namespace Sys2Proof.Machine

/-! #### Program code -/

theorem State.Sized.tcmdAsk {s : State} {p : Nat} {task : Nat} {r : TcmdReq} (hs : s.Sized) : (State.tcmdAsk s p task r).Sized := by
  delta State.tcmdAsk
  extract_lets +onlyGivenNames y1
  exact sized_ite hs.xbarViol.errQ hs.cpeMod

theorem State.Sized.tcmdBlk {p : Nat} {task : Nat} {inst : Nat} {i : Nat → Nat → Nat} {o : List Nat} {rise : Bool} {s : State} (hs : s.Sized) :
    (tcmdBlk p task inst i o rise s).1.Sized := by
  delta tcmdBlk
  refine sized_iteP ?_ ?_
  · refine sized_iteP (sized_fst hs) ?_
    extract_lets +onlyGivenNames y1 y2
    exact sized_fst hs.tcmdAsk
  · split
    · exact sized_fst hs
    · extract_lets +onlyGivenNames y3
      exact sized_fst hs.cpeMod

theorem State.Sized.privBlk {p : Nat} {i : Nat → Nat → Nat} {o : List Nat} {rise : Bool} {at_ : Nat} {s : State} (hs : s.Sized) :
    (privBlk p i o rise at_ s).1.Sized := by
  delta privBlk
  refine sized_iteP ?_ ?_
  · extract_lets +onlyGivenNames y1 y2 y3 y4
    have hy4 : y4.Sized := hs.cpeRequest
    extract_lets +onlyGivenNames y5
    exact sized_fst hy4
  · exact sized_fst hs

/-! #### Programs -/

theorem State.Sized.cpePut {s : State} {p : Nat} {i : Nat} {it : Item} {task : Nat} (hs : s.Sized) : (State.cpePut s p i it task).Sized := by
  delta State.cpePut
  extract_lets +onlyGivenNames y1
  exact sized_ite hs.xbarViol.errQ hs.mbxMod

theorem State.Sized.cpeOutputs {s : State} {p : Nat} (hs : s.Sized) : (State.cpeOutputs s p).Sized := by
  delta State.cpeOutputs
  extract_lets +onlyGivenNames y1
  refine sized_foldl ?_ (fun a e ha => ?_)
  · exact hs
  · split
    · extract_lets +onlyGivenNames y2 y3
      exact ha.cpePut
    · exact ha

theorem State.Sized.trigEnd {s : State} {p : Nat} (hs : s.Sized) : (State.trigEnd s p).Sized := by
  delta State.trigEnd
  extract_lets +onlyGivenNames y1
  exact hs.cpeMod

theorem State.Sized.trigItems {s : State} {p : Nat} (hs : s.Sized) : (State.trigItems s p).Sized := by
  delta State.trigItems
  extract_lets +onlyGivenNames y1
  exact hs.cpeMod

theorem State.Sized.cpeTime {s : State} {p : Nat} {k : Nat} {ns : Nat} (hs : s.Sized) : (State.cpeTime s p k ns).Sized :=
  (cpeTime_keeps (Keeps.refl _ _) (List.Subset.refl _)).sized hs (of_decide_eq_true rfl)

theorem State.Sized.cpeStale {s : State} {p : Nat} {k : Nat} (hs : s.Sized) : (State.cpeStale s p k).Sized := by
  delta State.cpeStale
  exact hs.cpeMod.cpeOutputs.trigEnd

/-! #### An execution of a program: its writes wait in the machine, its blocks act on the state -/

section
variable {c : CpeCtx} {v : CpeVm}

theorem CpeVm.setReg_sized {r : Nat} {y : BitVec 64} (hv : v.s.Sized) : (CpeVm.setReg v r y).s.Sized := by
  delta CpeVm.setReg
  split
  · exact hv
  · exact hv

theorem CpeVm.next_sized (hv : v.s.Sized) : v.next.s.Sized := hv

theorem CpeVm.puts_sized {l : List (Nat × Nat × Nat)} (hv : v.s.Sized) : (CpeVm.puts c v l).s.Sized := by
  induction l generalizing v with
  | nil => exact hv
  | cons e l ih => exact ih hv

theorem CpeVm.branch_sized {off : BitVec 64} (hv : v.s.Sized) : (CpeVm.branch c v off).1.s.Sized := by
  delta CpeVm.branch
  extract_lets +onlyGivenNames t
  split
  · exact hv
  · exact hv

theorem CpeVm.blkRun_sized {code inst : Nat} {i : Nat → Nat → Nat} {o : List Nat} {old : Option BlkSt} {el : Nat} {rise : Bool} (hv : v.s.Sized) :
    (CpeVm.blkRun c v code inst i o old el rise).1.Sized := by
  delta CpeVm.blkRun
  refine sized_iteP (sized_fst hv.tcmdBlk) ?_
  refine sized_iteP (sized_fst hv.privBlk) ?_
  exact sized_iteP hv hv

theorem CpeVm.block_sized {code base : Nat} (hv : v.s.Sized) : (CpeVm.block c v code base).s.Sized := by
  delta CpeVm.block
  extract_lets
  exact CpeVm.puts_sized (CpeVm.blkRun_sized hv)

theorem CpeVm.does_sized {w : Nat} {o : CpeOp} (hv : v.s.Sized) : (CpeVm.does c v w o).1.s.Sized := by
  delta CpeVm.does
  extract_lets +onlyGivenNames y1 y2 y3 y4 y5
  have hres : ∀ y, (y4 y).1.s.Sized := fun y => CpeVm.next_sized (CpeVm.setReg_sized hv)
  clear_value y1 y2 y3 y4 y5
  cases o <;> dsimp only
  case f32 | f64 | cmp | cvt => exact hres _
  case jump => exact CpeVm.branch_sized hv
  case endTask => exact hv
  case branchZero | branchNonzero =>
    split
    · exact CpeVm.branch_sized hv
    · exact hv
  case load | readSlot | int =>
    split
    · exact hres _
    · exact hv
  case store | writeSlot | ret =>
    split
    · exact hv
    · exact hv
  case const =>
    split
    · exact hv
    · exact CpeVm.next_sized (CpeVm.next_sized (CpeVm.setReg_sized hv))
  case svc =>
    split
    · exact hv
    · split
      · exact CpeVm.next_sized (CpeVm.block_sized hv)
      · exact hv
  case call =>
    split
    · exact hv
    · split
      · split
        · exact CpeVm.next_sized (CpeVm.block_sized hv)
        · exact hv
      · split
        · exact hv
        · split
          · exact hv
          · have hr : (v.branch c y2).1.s.Sized := CpeVm.branch_sized hv
            generalize v.branch c y2 = r at hr ⊢
            split
            · exact hr
            · exact hr

theorem CpeVm.instr_sized (hv : v.s.Sized) : (CpeVm.instr c v).1.s.Sized := by
  delta CpeVm.instr
  split
  · exact hv
  · split
    · exact hv
    · exact CpeVm.does_sized hv

theorem CpeVm.go_sized {n : Nat} (hv : v.s.Sized) : (CpeVm.go c n v).1.s.Sized := by
  induction n generalizing v with
  | zero => exact hv
  | succ n ih =>
    have h := CpeVm.instr_sized (c := c) hv
    simp only [CpeVm.go]
    split
    · rename_i e
      rw [e] at h
      exact ih h
    · rename_i e
      rw [e] at h
      exact h

theorem CpeVm.commit_sized (hv : v.s.Sized) : (CpeVm.commit c v).Sized := by
  delta CpeVm.commit
  exact State.Sized.cpeMod (sized_foldl hv fun _ _ ha => ha.instPut)

end

theorem State.Sized.cpeRun {s : State} {p : Nat} {k : Nat} {serving : Option Nat} {r : CpeRun} {n : Nat} (hs : s.Sized) :
    (State.cpeRun s p k serving r n).1.Sized := by
  delta State.cpeRun
  extract_lets +onlyGivenNames b x
  have hx : x.1.s.Sized := CpeVm.go_sized (c := b.1) (n := n) (v := b.2) hs
  extract_lets +onlyGivenNames regs keep
  have hk : ∀ a, a.Sized → (keep a).Sized := fun a h => State.Sized.cpeMod h
  clear_value keep regs x
  split
  · exact State.Sized.trigEnd (State.Sized.cpeOutputs (State.Sized.cpeMod (hk _ (CpeVm.commit_sized hx))))
  · have h1 := State.Sized.raiseEv (p := cpePage p) (b := 7) (State.Sized.cpeBump (p := p) (c := .CPE0_RTF) (hk _ hx))
    exact State.Sized.cpeStale (sized_ite h1 (State.Sized.errQ h1))
  · exact State.Sized.cpeStale (State.Sized.errQ (hk _ hx))

theorem State.Sized.cpeMany {p : Nat} {runs : List CpeRun} {a2 : List (Nat × Option Nat)} {a3 : Nat} {a4 : State} (ha4 : a4.Sized) :
    (Machine.cpeMany p runs a2 a3 a4).1.Sized := by
  induction a2 generalizing a3 a4 with
  | nil => exact ha4
  | cons e l ih =>
    have h := fun r => State.Sized.cpeRun (p := p) (k := e.1) (serving := e.2) (r := r) (n := a3) ha4
    simp only [Machine.cpeMany]
    split
    · rename_i q; have h1 := h (runOf runs e.1); rw [q] at h1; exact h1
    · rename_i q; have h1 := h (runOf runs e.1); rw [q] at h1; exact ih h1

theorem State.Sized.cpeTask4 {s0a0 : State} {p : Nat} {runs : List CpeRun} {n : Nat} (hs0a0 : s0a0.Sized) :
    (State.cpeTask4 s0a0 p runs n).1.Sized := by
  delta State.cpeTask4
  extract_lets +onlyGivenNames y1
  have hy1 : y1.Sized := hs0a0.trigItems
  extract_lets +onlyGivenNames y2 y3
  have hy3 : y3.1.Sized := hy1.cpeMany
  extract_lets +onlyGivenNames y4
  have hy4 : y4.Sized := sized_foldl hy3 (fun a e ha => ha.tset)
  split
  · exact sized_fst hy4
  · extract_lets +onlyGivenNames y5 y6
    have hy6 : y6.1.Sized := hy4.cpeMany
    extract_lets +onlyGivenNames y7
    have hy7 : y7.Sized := hy6.cpeMod
    extract_lets +onlyGivenNames y8
    exact sized_iteP (sized_fst hy7) (sized_iteP (sized_fst hy7) (sized_fst hy7.cpeBump.cpeTime))

theorem State.Sized.cpeEntry {s : State} {p : Nat} {k : Nat} {runs : List CpeRun} {n : Nat} (hs : s.Sized) :
    (State.cpeEntry s p k runs n).1.Sized := by
  delta State.cpeEntry
  refine sized_iteP hs.cpeTask4 ?_
  refine sized_iteP (sized_fst hs) ?_
  extract_lets +onlyGivenNames y1
  have hy1 : y1.1.Sized := hs.cpeMany
  refine sized_iteP (sized_fst hy1) ?_
  extract_lets +onlyGivenNames y2
  have hy2 : y2.Sized := hy1.cpeTime
  exact sized_fst (sized_ite hy2 hy2.cpeBump)

theorem State.Sized.cpeTask {unit : Nat} {arg : Nat} {runs : List CpeRun} {s : State} (hs : s.Sized) : (cpeTask unit arg runs s).Sized := by
  delta cpeTask
  extract_lets +onlyGivenNames y1 y2 y3
  refine sized_ite hs ?_
  refine sized_ite hs ?_
  refine hs.entry (fun x hx => ?_)
  refine sized_ite hx ?_
  refine State.Sized.serveXfer ?_
  unfold y3
  exact hx.cpeEntry

theorem State.Sized.execCpeTask {unit : Nat} {arg : Nat} {runs : List CpeRun} {s : State} (hs : s.Sized) :
    SizedO (execCpeTask unit arg runs s) := by
  delta execCpeTask
  exact sizedO_next hs.cpeTask

theorem State.Sized.cpeOverrun {s : State} {p : Nat} {k : Nat} {n : Nat} (hs : s.Sized) : (State.cpeOverrun s p k n).Sized := by
  delta State.cpeOverrun
  exact sized_ite hs hs.cpeEntry

theorem State.Sized.execStnDrop {port : Nat} {stn : Nat} {s : State} (hs : s.Sized) : SizedO (execStnDrop port stn s) := by
  delta execStnDrop
  refine sizedO_next ?_
  refine sized_ite hs ?_
  split
  · refine sized_of_pair (by assumption) ?_
    exact hs.stnDrop
  · refine sized_foldl ?_ (fun a e ha => ?_)
    · refine sized_of_pair (by assumption) ?_
      exact hs.stnDrop
    · exact sized_ite ha.errQ ha

theorem State.Sized.clrForces {p : Nat} {s : State} (hs : s.Sized) : (clrForces p s).Sized :=
  (clrForces_keeps (Keeps.refl _ _) (List.Subset.refl _)).sized hs (of_decide_eq_true rfl)

theorem State.Sized.forceWrite {p : Nat} {i : Nat} {ws : List Word} {s : State} (hs : s.Sized) : (forceWrite p i ws s).Sized :=
  (forceWrite_keeps (Keeps.refl _ _) (List.Subset.refl _)).sized hs (of_decide_eq_true rfl)

theorem State.Sized.cpeNvMod {s : State} {p : Nat} {f : RetNv → RetNv} (hs : s.Sized) : (State.cpeNvMod s p f).Sized := by
  delta State.cpeNvMod
  exact hs.withCpeNv (modAt_length ..)

theorem State.Sized.retSave {s : State} {p : Nat} (hs : s.Sized) : (State.retSave s p).Sized := by
  delta State.retSave
  extract_lets +onlyGivenNames y1 y2 y3
  have hy3 : y3.Sized := hs.cpeNvMod
  exact hy3.wr.cpeMod

theorem State.Sized.execRetainSave {s : State} (hs : s.Sized) : SizedO (execRetainSave s) := by
  delta execRetainSave
  refine sizedO_next ?_
  refine State.Sized.andShown ?_ ?_
  · exact hs
  · exact sized_ite hs (sized_foldl hs (fun a e ha => sized_ite ha ha.retSave))

theorem State.Sized.cpeImageRegs {s : State} {p : Nat} (hs : s.Sized) : (State.cpeImageRegs s p).Sized := by
  delta State.cpeImageRegs
  extract_lets +onlyGivenNames y1 y2 y3
  have hy3 : y3.Sized := hs.cpeMod
  extract_lets +onlyGivenNames y4
  have hy4 : y4.Sized := hy3.wr.wr.wr
  exact sized_foldl hy4 (fun a e ha => ha.wr)

theorem State.Sized.instStart {s : State} {p : Nat} {data : List Nat} (hs : s.Sized) : (State.instStart s p data).Sized :=
  (instStart_keeps (Keeps.refl _ _) (List.Subset.refl _)).sized hs (of_decide_eq_true rfl)

theorem State.Sized.cpeLoad {s : State} {p : Nat} {data : List Nat} (hs : s.Sized) : (State.cpeLoad s p data).Sized := by
  delta State.cpeLoad
  extract_lets +onlyGivenNames y1
  have hy1 : y1.Sized := hs.instStart
  exact hy1.cpeMod

theorem State.Sized.cpeSoftReset {p : Nat} {s : State} (hs : s.Sized) : (cpeSoftReset p s).Sized := by
  delta cpeSoftReset
  extract_lets +onlyGivenNames y1 y2
  have hy2 : y2.Sized := hs.cpeLoad.tclear.tclear
  extract_lets +onlyGivenNames y3
  have hy3 : y3.Sized := by
    unfold y3
    refine sized_foldl ?_ (fun a e ha => ?_)
    · exact hy2
    · split
      · exact ha.instPuts
      · exact ha
  extract_lets +onlyGivenNames y4
  have hy4 : y4.Sized := hy3.cpeImageRegs.cpeMod
  exact hy4.bankSoftReset

theorem State.Sized.retRestore {s : State} {p : Nat} (hs : s.Sized) : (State.retRestore s p).Sized := by
  delta State.retRestore
  extract_lets +onlyGivenNames y1 y2
  clear_value y2
  split
  · extract_lets +onlyGivenNames y3
    have hy3 : y3.Sized := hs.wr.cpeNvMod
    refine sized_ite ?_ ?_
    · refine sized_foldl ?_ (fun a e ha => ?_)
      · exact hy3
      · split
        · exact ha.instPuts
        · exact ha
    · exact hy3.raiseEv.errQ
  · exact hs.raiseEv.errQ

theorem State.Sized.cpeStart {s : State} {p : Nat} (hs : s.Sized) : (State.cpeStart s p).Sized := by
  delta State.cpeStart
  exact sized_ite hs.cpeMod hs.cpeLoad.cpeImageRegs.retRestore.cpeMod

theorem State.Sized.cpeVerifyCmd {p : Nat} {s : State} (hs : s.Sized) : (cpeVerifyCmd p s).1.Sized := by
  delta cpeVerifyCmd
  extract_lets +onlyGivenNames y1
  exact sized_iteP (sized_fst hs) (sized_fst hs.bankUnverify.setB.keyTaken)

theorem State.Sized.cpeSwitchCmd {p : Nat} {s : State} (hs : s.Sized) : (cpeSwitchCmd p s).1.Sized := by
  delta cpeSwitchCmd
  extract_lets +onlyGivenNames y1
  have hy1 : y1.1.Sized := hs.bankSwitch
  exact sized_iteP (sized_fst hy1.cpeMod) hy1

theorem State.Sized.cpeCancelCmd {p : Nat} {s : State} (hs : s.Sized) : (cpeCancelCmd p s).Sized :=
  (cpeCancelCmd_keeps (Keeps.refl _ _) (List.Subset.refl _)).sized hs (of_decide_eq_true rfl)

theorem State.Sized.execCpeVerify {p : Nat} {s : State} (hs : s.Sized) : SizedO (execCpeVerify p s) := by
  delta execCpeVerify
  exact sizedO_next (sized_ite hs.cpeVerifyCmd hs)

theorem State.Sized.execCpeSwitch {p : Nat} {s : State} (hs : s.Sized) : SizedO (execCpeSwitch p s) := by
  delta execCpeSwitch
  exact sizedO_next (sized_ite hs.cpeSwitchCmd hs)

theorem State.Sized.execCpeVerifyEnd {p : Nat} {sigOk : Bool} {s : State} (hs : s.Sized) : SizedO (execCpeVerifyEnd p sigOk s) := by
  delta execCpeVerifyEnd
  refine sizedO_next ?_
  refine sized_ite hs ?_
  split
  · exact hs.bankFail
  · extract_lets +onlyGivenNames y1
    have hy1 : y1.Sized := hs.wr.wr.wr
    exact hy1.bankPass

theorem State.Sized.migrate {s : State} {p : Nat} (hs : s.Sized) : (State.migrate s p).Sized := by
  delta State.migrate
  extract_lets +onlyGivenNames y1 y2 y3 y4 y5 y6
  have hy6 : y6.Sized := hs.cpeLoad
  extract_lets +onlyGivenNames y7
  have hy7 : y7.Sized := sized_foldl hy6 (fun a e ha => ha.instPuts)
  extract_lets +onlyGivenNames y8
  have hy8 : y8.Sized := hy7.wr
  exact hy8.cpeMod

theorem State.Sized.migrateForces {s : State} {p : Nat} (hs : s.Sized) : (State.migrateForces s p).Sized := by
  delta State.migrateForces
  refine sized_foldl ?_ (fun a e ha => ?_)
  · exact hs
  · extract_lets +onlyGivenNames y1
    exact sized_ite ha ha.tset.tset.cpeBump.raiseEv

theorem State.Sized.execCpeBankSwitch {p : Nat} {s : State} (hs : s.Sized) : SizedO (execCpeBankSwitch p s) := by
  delta execCpeBankSwitch
  refine sizedO_next ?_
  refine State.Sized.andShown ?_ ?_
  · exact hs
  · refine sized_ite hs ?_
    extract_lets +onlyGivenNames y1
    have hy1 : y1.Sized := hs.bankExchange
    extract_lets +onlyGivenNames y2
    have hy2 : y2.Sized := hy1.migrate.migrateForces.cpeImageRegs
    extract_lets +onlyGivenNames y3
    have hy3 : y3.Sized := hy2.cpeMod
    extract_lets +onlyGivenNames y4
    have hy4 : y4.Sized := hy3.wr.wr.wr
    exact hy4.cpeBump.raiseEv.seqUnverify.seqInfo

theorem State.Sized.execSeqBankSwitch {s : State} (hs : s.Sized) : SizedO (execSeqBankSwitch s) := by
  delta execSeqBankSwitch
  refine sizedO_next ?_
  refine State.Sized.andShown ?_ ?_
  · exact hs
  · refine sized_ite hs.seqUnverify ?_
    extract_lets +onlyGivenNames y1
    have hy1 : y1.Sized := hs.seqBankSwitch
    exact sized_ite hy1.allSlots hy1

theorem State.Sized.cpeBankWrite {p : Nat} {idx : Nat} {ws : List Word} {s : State} (hs : s.Sized) : (cpeBankWrite p idx ws s).1.Sized := by
  delta cpeBankWrite
  split
  · exact sized_fst hs
  · exact sized_iteP (sized_fst hs) (sized_fst hs.writeRecord.bankWritten)

theorem State.Sized.cpeTick {s : State} {skips : List (Nat × Nat)} {p : Nat} (hs : s.Sized) : (State.cpeTick s skips p).Sized := by
  delta State.cpeTick
  extract_lets +onlyGivenNames y1
  have hy1 : y1.Sized := hs.setF
  extract_lets +onlyGivenNames y2
  have hy2 : y2.Sized := hy1.setF
  extract_lets +onlyGivenNames y3
  have hy3 : y3.Sized := hy2.setF
  extract_lets +onlyGivenNames y4 y5
  exact hy3.cpeMod

theorem State.Sized.cpesTick {s : State} {skips : List (Nat × Nat)} (hs : s.Sized) : (State.cpesTick s skips).Sized := by
  delta State.cpesTick
  extract_lets +onlyGivenNames y1
  have hy1 : y1.Sized := hs.cpeTick.cpeTick
  exact hy1.setF

/-! #### Keys -/

theorem State.Sized.keysMod {s : State} {f : KeySt → KeySt} (hs : s.Sized) : (State.keysMod s f).Sized :=
  (keysMod_keeps (Keeps.refl _ _) (List.Subset.refl _)).sized hs (of_decide_eq_true rfl)

theorem State.Sized.setSlotState {s : State} {i : Nat} {st : Nat} (hs : s.Sized) : (State.setSlotState s i st).Sized :=
  (setSlotState_keeps (Keeps.refl _ _) (List.Subset.refl _)).sized hs (of_decide_eq_true rfl)

theorem State.Sized.setSlotNext {s : State} {i : Nat} {n : Nat} (hs : s.Sized) : (State.setSlotNext s i n).Sized :=
  (setSlotNext_keeps (Keeps.refl _ _) (List.Subset.refl _)).sized hs (of_decide_eq_true rfl)

theorem State.Sized.unstage {s : State} {i : Nat} (hs : s.Sized) : (State.unstage s i).Sized :=
  (unstage_keeps (Keeps.refl _ _) (List.Subset.refl _)).sized hs (of_decide_eq_true rfl)

theorem State.Sized.stage {s : State} {i : Nat} {n : KeyNew} (hs : s.Sized) : (State.stage s i n).Sized :=
  (stage_keeps (Keeps.refl _ _) (List.Subset.refl _)).sized hs (of_decide_eq_true rfl)

theorem State.Sized.slotPut {s : State} {i : Nat} {st : Nat} {n : KeyNew} (hs : s.Sized) : (State.slotPut s i st n).Sized :=
  (slotPut_keeps (Keeps.refl _ _) (List.Subset.refl _)).sized hs (of_decide_eq_true rfl)

theorem State.Sized.slotEmpty {s : State} {i : Nat} (hs : s.Sized) : (State.slotEmpty s i).Sized :=
  (slotEmpty_keeps (Keeps.refl _ _) (List.Subset.refl _)).sized hs (of_decide_eq_true rfl)

theorem State.Sized.keyRegs {s : State} (hs : s.Sized) : (State.keyRegs s).Sized :=
  (keyRegs_keeps (Keeps.refl _ _) (List.Subset.refl _)).sized hs (of_decide_eq_true rfl)

theorem State.Sized.keyEnd {s : State} {op : Nat} {slot : Nat} {code : Nat} (hs : s.Sized) : (State.keyEnd s op slot code).Sized := by
  delta State.keyEnd
  extract_lets +onlyGivenNames y1
  have hy1 : y1.Sized := hs.setF.setF.setF
  extract_lets +onlyGivenNames y2
  have hy2 : y2.Sized := hy1.keyRegs.bump
  exact sized_ite hy2.raiseEv hy2.bump.raiseEv

theorem State.Sized.keyCmd {s : State} {ok : Bool} {f : State → State} (hs : s.Sized) (hf : ∀ x, x.Sized → (f x).Sized) :
    (State.keyCmd s ok f).1.Sized := by
  delta State.keyCmd
  split
  · exact sized_fst hs
  · refine sized_iteP ?_ ?_
    · refine sized_fst ?_
      refine hf _ ?_
      exact hs
    · exact sized_fst hs

theorem State.Sized.zeroBuf {s : State} (hs : s.Sized) : (State.zeroBuf s).Sized :=
  (zeroBuf_keeps (Keeps.refl _ _) (List.Subset.refl _)).sized hs (of_decide_eq_true rfl)

theorem State.Sized.keyStageCmd {s : State} (hs : s.Sized) : (keyStageCmd s).1.Sized :=
  (keyStageCmd_keeps (Keeps.refl _ _) (List.Subset.refl _)).sized hs (of_decide_eq_true rfl)

theorem State.Sized.keyRunEnd {s : State} (hs : s.Sized) : (State.keyRunEnd s).Sized :=
  (keyRunEnd_keeps (Keeps.refl _ _) (List.Subset.refl _)).sized hs (of_decide_eq_true rfl)

theorem State.Sized.execKeyStageEnd {tagOk : Bool} {pointOk : Bool} {kcv : Word} {s : State} (hs : s.Sized) :
    SizedO (execKeyStageEnd tagOk pointOk kcv s) := by
  delta execKeyStageEnd
  refine sizedO_next ?_
  split
  · exact hs
  · refine sized_ite hs ?_
    extract_lets +onlyGivenNames y1 y2
    have hy2 : y2.Sized := hs.keyRunEnd.zeroBuf
    extract_lets +onlyGivenNames y3 y4
    have hy4 : y4.Sized := sized_ite hy2 (sized_ite hy2.stage.slotPut hy2.stage.setSlotNext.twr)
    exact hy4.keyEnd

theorem State.Sized.keyVerifyCmd {s : State} (hs : s.Sized) : (keyVerifyCmd s).1.Sized :=
  (keyVerifyCmd_keeps (Keeps.refl _ _) (List.Subset.refl _)).sized hs (of_decide_eq_true rfl)

theorem State.Sized.execKeyVerifyEnd {pointOk : Bool} {sigOk : Bool} {s : State} (hs : s.Sized) : SizedO (execKeyVerifyEnd pointOk sigOk s) := by
  delta execKeyVerifyEnd
  refine sizedO_next ?_
  split
  · exact hs
  · refine sized_ite hs ?_
    split
    · exact hs.keyRunEnd
    · extract_lets +onlyGivenNames y1 y2 y3
      have hy3 : y3.Sized := hs.keyRunEnd
      extract_lets +onlyGivenNames y4
      have hy4 : y4.Sized := sized_ite hy3 (sized_ite hy3.setSlotState hy3.setSlotNext)
      extract_lets +onlyGivenNames y5
      have hy5 : y5.Sized := sized_ite hy4.raiseEv hy4
      exact hy5.keyEnd

theorem State.Sized.keyPromoteCmd {s : State} (hs : s.Sized) : (keyPromoteCmd s).1.Sized :=
  (keyPromoteCmd_keeps (Keeps.refl _ _) (List.Subset.refl _)).sized hs (of_decide_eq_true rfl)

theorem State.Sized.pendClear {s : State} (hs : s.Sized) : (State.pendClear s).Sized :=
  (pendClear_keeps (Keeps.refl _ _) (List.Subset.refl _)).sized hs (of_decide_eq_true rfl)

theorem State.Sized.pendFail {s : State} {code : Nat} (hs : s.Sized) : (State.pendFail s code).Sized := by
  delta State.pendFail
  exact hs.pendClear.keyEnd

theorem State.Sized.keyReplaced {s : State} {i : Nat} (hs : s.Sized) : (State.keyReplaced s i).Sized := by
  delta State.keyReplaced
  extract_lets +onlyGivenNames y1 y2
  have hy2 : y2.Sized := sized_foldl hs (fun a e ha => ha.twr.twr.useFree)
  refine sized_ite ?_ ?_
  · extract_lets +onlyGivenNames y3
    exact sized_foldl hy2 (fun a e ha => ha.rekeyStart)
  · exact hy2

theorem State.Sized.promoteKey {s : State} {i : Nat} {n : KeyNew} (hs : s.Sized) : (State.promoteKey s i n).Sized := by
  delta State.promoteKey
  extract_lets +onlyGivenNames y1 y2
  have hy2 : y2.Sized := hs.unstage.slotPut.twr.twr
  extract_lets +onlyGivenNames y3
  have hy3 : y3.Sized := sized_ite hy2.twr.trecSet hy2
  exact sized_ite hy3.keyReplaced hy3

theorem State.Sized.execPromoted {s : State} (hs : s.Sized) : SizedO (execPromoted s) := by
  delta execPromoted
  refine sizedO_next ?_
  refine State.Sized.andShown ?_ ?_
  · exact hs
  · refine sized_ite hs ?_
    extract_lets +onlyGivenNames y1
    split
    · exact hs.pendClear
    · exact sized_ite hs.pendFail hs.pendClear.promoteKey.raiseEv.keyEnd

theorem State.Sized.keyCancelCmd {s : State} (hs : s.Sized) : (keyCancelCmd s).1.Sized := by
  delta keyCancelCmd
  extract_lets +onlyGivenNames y1
  refine hs.keyCmd (fun x hx => ?_)
  extract_lets +onlyGivenNames y2
  have hy2 : y2.Sized := sized_ite hx.pendClear hx
  extract_lets +onlyGivenNames y3
  have hy3 : y3.Sized := sized_ite hy2.unstage.setSlotNext.twr hy2.slotEmpty
  exact hy3.keyEnd

theorem State.Sized.execKeyCancel {s : State} (hs : s.Sized) : SizedO (execKeyCancel s) := by
  delta execKeyCancel
  exact sizedO_next hs.keyCancelCmd

theorem State.Sized.runFail {s : State} {code : Nat} (hs : s.Sized) : (State.runFail s code).Sized := by
  delta State.runFail
  split
  · exact hs
  · exact (sized_ite hs.keyRunEnd hs.keyRunEnd.zeroBuf).keyEnd

theorem State.Sized.closeUnder {s : State} {xs : List Nat} (hs : s.Sized) : (State.closeUnder s xs).Sized := by
  delta State.closeUnder
  exact sized_foldl hs (fun a e ha => sized_ite ha.closeSess ha)

theorem State.Sized.revokeSlot {s : State} {i : Nat} (hs : s.Sized) : (State.revokeSlot s i).Sized := by
  delta State.revokeSlot
  extract_lets +onlyGivenNames y1 y2
  have hy2 : y2.Sized := sized_ite hs.pendFail hs
  extract_lets +onlyGivenNames y3
  have hy3 : y3.Sized := by
    unfold y3
    split
    · exact sized_ite hy2.runFail hy2
    · exact hy2
  extract_lets +onlyGivenNames y4
  have hy4 : y4.Sized := sized_foldl hy3 (fun a e ha => ha.unstage.setSlotNext.twr.setSlotState)
  extract_lets +onlyGivenNames y5
  have hy5 : y5.Sized := hy4.bumpN.raiseEv
  extract_lets +onlyGivenNames y6
  have hy6 : y6.Sized := sized_ite hy5.groupsRevoked hy5
  exact hy6.closeUnder.keyEnd

theorem State.Sized.keyRevokeCmd {s : State} (hs : s.Sized) : (keyRevokeCmd s).1.Sized := by
  delta keyRevokeCmd
  extract_lets +onlyGivenNames y1
  split
  · exact sized_fst hs
  · exact sized_iteP (sized_fst hs.keyEnd) (sized_iteP (sized_fst hs.revokeSlot) (sized_fst hs))

theorem State.Sized.execKeyRevoke {s : State} (hs : s.Sized) : SizedO (execKeyRevoke s) := by
  delta execKeyRevoke
  exact sizedO_next hs.keyRevokeCmd

theorem State.Sized.keyEraseCmd {s : State} (hs : s.Sized) : (keyEraseCmd s).1.Sized := by
  delta keyEraseCmd
  extract_lets +onlyGivenNames y1
  refine hs.keyCmd (fun x hx => ?_)
  extract_lets +onlyGivenNames y2
  have hy2 : y2.Sized := sized_ite hx.pendFail hx
  extract_lets +onlyGivenNames y3
  have hy3 : y3.Sized := sized_ite hy2.tclear hy2
  exact hy3.slotEmpty.keyEnd

theorem State.Sized.execKeyErase {s : State} (hs : s.Sized) : SizedO (execKeyErase s) := by
  delta execKeyErase
  exact sizedO_next hs.keyEraseCmd

theorem State.Sized.twinKey {s : State} (hs : s.Sized) : (State.twinKey s).Sized :=
  (twinKey_keeps (Keeps.refl _ _) (List.Subset.refl _)).sized hs (of_decide_eq_true rfl)

theorem State.Sized.tampLog {s : State} {sensors : Nat} {ns : Nat} (hs : s.Sized) : (State.tampLog s sensors ns).Sized :=
  (tampLog_keeps (Keeps.refl _ _) (List.Subset.refl _)).sized hs (of_decide_eq_true rfl)

theorem State.Sized.zeroise {s : State} (hs : s.Sized) : (State.zeroise s).Sized := by
  delta State.zeroise
  extract_lets +onlyGivenNames y1
  have hy1 : y1.Sized := hs.runFail.zeroBuf
  extract_lets +onlyGivenNames y2
  have hy2 : y2.Sized := sized_ite hy1.pendFail hy1
  exact sized_ite hy2 hy2.setB.raiseEv

theorem State.Sized.tamperResponse {s : State} {sensors : Nat} {ns : Nat} {fuse : Bool} (hs : s.Sized) :
    (State.tamperResponse s sensors ns fuse).Sized := by
  delta State.tamperResponse
  extract_lets +onlyGivenNames y1 y2
  have hy2 : y2.Sized := hs.zeroise.setF
  extract_lets +onlyGivenNames y3
  have hy3 : y3.Sized := hy2.setF.setF.setB
  exact hy3.tampLog.bump.raiseEv.signal

theorem State.Sized.execTamper {sensors : Nat} {ns : Nat} {s : State} (hs : s.Sized) : SizedO (execTamper sensors ns s) := by
  delta execTamper
  exact sizedO_next (sized_ite hs hs.tamperResponse.keysMod)

theorem State.Sized.promTick {s : State} {skips : List (Nat × Nat)} (hs : s.Sized) : (State.promTick s skips).Sized :=
  (promTick_keeps (Keeps.refl _ _) (List.Subset.refl _)).sized hs (of_decide_eq_true rfl)

/-! #### Loops -/

theorem State.Sized.loopMod {s : State} {f : LoopEng → LoopEng} (hs : s.Sized) : (State.loopMod s f).Sized :=
  (loopMod_keeps (Keeps.refl _ _) (List.Subset.refl _)).sized hs (of_decide_eq_true rfl)

theorem State.Sized.loopPut {s : State} {l : Nat} {f : LoopSt → LoopSt} (hs : s.Sized) : (State.loopPut s l f).Sized :=
  (loopPut_keeps (Keeps.refl _ _) (List.Subset.refl _)).sized hs (of_decide_eq_true rfl)

theorem State.Sized.lwSet {s : State} {l : Nat} {w : Nat} {v : Word} (hs : s.Sized) : (State.lwSet s l w v).Sized :=
  (lwSet_keeps (Keeps.refl _ _) (List.Subset.refl _)).sized hs (of_decide_eq_true rfl)

theorem State.Sized.lbSet {s : State} {l : Nat} {w : Nat} {lo : Nat} {n : Nat} {v : Nat} (hs : s.Sized) : (State.lbSet s l w lo n v).Sized :=
  (lbSet_keeps (Keeps.refl _ _) (List.Subset.refl _)).sized hs (of_decide_eq_true rfl)

theorem State.Sized.loopGroupFields {s : State} (hs : s.Sized) : (State.loopGroupFields s).Sized :=
  (loopGroupFields_keeps (Keeps.refl _ _) (List.Subset.refl _)).sized hs (of_decide_eq_true rfl)

theorem State.Sized.lflagSet {s : State} {l : Nat} {b : Nat} {v : Bool} (hs : s.Sized) : (State.lflagSet s l b v).Sized :=
  (lflagSet_keeps (Keeps.refl _ _) (List.Subset.refl _)).sized hs (of_decide_eq_true rfl)

theorem State.Sized.loopOut {s : State} {l : Nat} {u : Word} {q : Nat} (hs : s.Sized) : (State.loopOut s l u q).Sized := by
  delta State.loopOut
  exact hs.lwSet.lbSet.fwPuts

theorem State.Sized.loopRan {s : State} {l : Nat} (hs : s.Sized) : (State.loopRan s l).Sized :=
  (loopRan_keeps (Keeps.refl _ _) (List.Subset.refl _)).sized hs (of_decide_eq_true rfl)

theorem State.Sized.loopSeen {s : State} {l : Nat} {pv : Word} {sp : Word} (hs : s.Sized) : (State.loopSeen s l pv sp).Sized :=
  (loopSeen_keeps (Keeps.refl _ _) (List.Subset.refl _)).sized hs (of_decide_eq_true rfl)

theorem State.Sized.tuneLeave {s : State} {t : TuneSt} (hs : s.Sized) : (State.tuneLeave s t).Sized := by
  delta State.tuneLeave
  extract_lets +onlyGivenNames y1
  have hy1 : y1.Sized := hs.loopMod.setB
  extract_lets +onlyGivenNames y2
  have hy2 : y2.Sized := hy1.lflagSet.loopPut
  exact hy2.loopOut

theorem State.Sized.tuneAbort {s : State} {reason : Nat} (hs : s.Sized) : (State.tuneAbort s reason).Sized := by
  delta State.tuneAbort
  split
  · exact hs
  · exact hs.tuneLeave.tset.tset.raiseEv

theorem State.Sized.tuneDone {s : State} {t : TuneSt} {cyc : List (Nat × Word)} (hs : s.Sized) : (State.tuneDone s t cyc).Sized := by
  delta State.tuneDone
  extract_lets +onlyGivenNames y1 y2 y3 y4 y5
  refine sized_ite hs.tuneAbort ?_
  refine sized_ite hs.tuneAbort ?_
  extract_lets +onlyGivenNames y6 y7 y8 y9 y10 y11 y12 y13 y14
  have hy14 : y14.Sized := hs.tuneLeave.trecSet
  exact hy14.bump.raiseEv

theorem State.Sized.tuneRun {s : State} {t : TuneSt} {pv : Word} {sp : Word} {pvq : Nat} {spBad : Bool} (hs : s.Sized) :
    (State.tuneRun s t pv sp pvq spBad).Sized := by
  delta State.tuneRun
  extract_lets +onlyGivenNames y1
  refine sized_ite hs.tuneAbort ?_
  extract_lets +onlyGivenNames y2 y3 y4 y5 y6 y7 y8 y9 y10
  refine sized_ite hs.tuneDone ?_
  extract_lets +onlyGivenNames y11
  exact hs.loopMod.loopOut

theorem State.Sized.loopBad {s : State} {l : Nat} {bad : Bool} (hs : s.Sized) : (State.loopBad s l bad).Sized := by
  delta State.loopBad
  extract_lets +onlyGivenNames y1
  have hy1 : y1.Sized := hs.lflagSet
  exact sized_ite hy1.bump.raiseEv hy1

theorem State.Sized.loopExec {s0a0 : State} {l : Nat} (hs0a0 : s0a0.Sized) : (State.loopExec s0a0 l).Sized := by
  delta State.loopExec
  extract_lets +onlyGivenNames y1 y2 y3
  have hy3 : y3.Sized := hs0a0.loopRan
  extract_lets +onlyGivenNames y4 y5 y6 y7 y8 y9 y10
  have hy10 : y10.Sized := hy3.lflagSet.loopPut
  refine sized_ite ?_ ?_
  · split
    · refine State.Sized.tuneRun ?_
      unfold y7
      split
      · exact hy10.loopSeen.loopPut
      · exact hy10
    · exact hy10.tuneAbort
  · refine sized_ite ?_ ?_
    · refine State.Sized.loopOut ?_
      refine State.Sized.loopPut ?_
      unfold y7
      split
      · exact hy10.loopBad.loopSeen.loopPut
      · exact hy10.loopBad
    · refine sized_ite ?_ ?_
      · extract_lets +onlyGivenNames y11 y12
        have hy12 : y12.Sized := sized_ite hy10.lwSet hy10
        extract_lets +onlyGivenNames y13
        have hy13 : y13.Sized := by
          unfold y13
          refine State.Sized.loopPut ?_
          unfold y8
          refine State.Sized.lflagSet ?_
          refine State.Sized.lflagSet ?_
          refine State.Sized.lflagSet ?_
          refine State.Sized.lflagSet ?_
          unfold y7
          split
          · exact hy12.loopSeen.loopPut
          · exact hy12
        exact hy13.lflagSet.loopOut
      · extract_lets +onlyGivenNames y14
        have hy14 : y14.Sized := hy10.loopPut.loopBad
        split
        · extract_lets +onlyGivenNames y15 y16
          have hy16 : y16.Sized := hy14.loopSeen
          refine sized_ite ?_ ?_
          · extract_lets +onlyGivenNames y17
            have hy17 : y17.Sized := by
              unfold y17
              refine State.Sized.loopPut ?_
              refine State.Sized.lflagSet ?_
              refine State.Sized.lflagSet ?_
              refine State.Sized.lflagSet ?_
              refine State.Sized.lwSet ?_
              unfold y8
              exact hy16.lflagSet.lflagSet.lflagSet
            exact hy17.loopOut
          · extract_lets +onlyGivenNames y18
            have hy18 : y18.Sized := hy16.lflagSet.loopPut
            extract_lets +onlyGivenNames y19
            have hy19 : y19.Sized := sized_ite hy18 hy18.bump.raiseEv
            exact hy19.loopOut
        · extract_lets +onlyGivenNames y20
          have hy20 : y20.Sized := by
            unfold y20
            refine State.Sized.loopPut ?_
            unfold y8
            exact hy14.lflagSet.lflagSet.lflagSet
          exact sized_ite hy20.loopOut hy20.loopOut

theorem State.Sized.loopRun {s : State} {l : Nat} (hs : s.Sized) : (State.loopRun s l).1.Sized := by
  delta State.loopRun
  refine sized_iteP (sized_fst hs.fwPuts) ?_
  exact sized_iteP (sized_fst hs) (sized_iteP (sized_fst hs.lbSet.loopOut) (sized_fst hs.loopExec))

theorem State.Sized.groupSelect {s : State} {g : Nat} (hs : s.Sized) : (State.groupSelect s g).Sized := by
  delta State.groupSelect
  extract_lets +onlyGivenNames y1
  split
  · exact hs.fwPuts
  · extract_lets +onlyGivenNames y2 y3
    have hy3 : y3.Sized := hs.twr.fwPuts
    extract_lets +onlyGivenNames y4 y5
    have hy5 : y5.Sized := sized_ite hy3.tset.raiseEv hy3
    extract_lets +onlyGivenNames y6
    have hy6 : y6.Sized := hy5.tset.tset.loopMod
    exact sized_foldl hy6 (fun a e ha => ha.lwSet.lflagSet)

theorem State.Sized.loopsRun {s : State} {arg : Nat} {n : Nat} (hs : s.Sized) : (State.loopsRun s arg n).1.Sized := by
  delta State.loopsRun
  refine sized_foldlP ?_ (fun a e ha => ?_)
  · exact sized_fst hs
  · extract_lets +onlyGivenNames y1 y2
    have hy2 : y2.1.Sized := ha.loopRun
    exact sized_fst hy2

theorem State.Sized.loopGroup {arg : Nat} {s : State} (hs : s.Sized) : (Machine.loopGroup arg s).Sized := by
  delta Machine.loopGroup
  refine hs.entry (fun x hx => ?_)
  refine sized_ite hx ?_
  extract_lets +onlyGivenNames y1
  have hy1 : y1.1.Sized := hx.loopsRun
  exact sized_foldl hy1 (fun a e ha => ha.groupSelect)

theorem State.Sized.execLoopGroup {arg : Nat} {s : State} (hs : s.Sized) : SizedO (execLoopGroup arg s) := by
  delta execLoopGroup
  exact sizedO_next hs.loopGroup

theorem State.Sized.tuneCmd {s : State} (hs : s.Sized) : (tuneCmd s).1.Sized :=
  (tuneCmd_keeps (Keeps.refl _ _) (List.Subset.refl _)).sized hs (of_decide_eq_true rfl)

theorem State.Sized.execTuneTimeout {s : State} (hs : s.Sized) : SizedO (execTuneTimeout s) := by
  delta execTuneTimeout
  refine sizedO_next ?_
  split
  · exact hs
  · exact sized_ite hs.tuneAbort hs

theorem State.Sized.tuneAbortCmd {s : State} (hs : s.Sized) : (tuneAbortCmd s).Sized := by
  delta tuneAbortCmd
  exact hs.tuneAbort

theorem State.Sized.execTuneAbort {s : State} (hs : s.Sized) : SizedO (execTuneAbort s) := by
  delta execTuneAbort
  exact sizedO_next hs.tuneAbortCmd

theorem State.Sized.applyPropCmd {s : State} (hs : s.Sized) : (applyPropCmd s).1.Sized :=
  (applyPropCmd_keeps (Keeps.refl _ _) (List.Subset.refl _)).sized hs (of_decide_eq_true rfl)

theorem State.Sized.loopHoldSet {k : Nat} {v : Word} {s : State} (hs : s.Sized) : (loopHoldSet k v s).Sized := by
  delta loopHoldSet
  refine sized_foldl ?_ (fun a e ha => ?_)
  · exact hs
  · extract_lets +onlyGivenNames y1
    have hy1 : y1.Sized := by
      unfold y1
      split
      · exact sized_ite ha.tuneAbort ha
      · exact ha
    exact hy1.lbSet

theorem State.Sized.loopHoldClr {k : Nat} {v : Word} {s : State} (hs : s.Sized) : (loopHoldClr k v s).Sized :=
  (loopHoldClr_keeps (Keeps.refl _ _) (List.Subset.refl _)).sized hs (of_decide_eq_true rfl)

theorem State.Sized.execLoopHoldSet {k : Nat} {v : Word} {s : State} (hs : s.Sized) : SizedO (execLoopHoldSet k v s) := by
  delta execLoopHoldSet
  exact sizedO_next hs.loopHoldSet

theorem State.Sized.loopWordWrite {s : State} {l : Nat} {w : Nat} {v : Word} (hs : s.Sized) : (State.loopWordWrite s l w v).Sized := by
  delta State.loopWordWrite
  refine sized_ite ?_ ?_
  · extract_lets +onlyGivenNames y1
    have hy1 : y1.Sized := by
      unfold y1
      split
      · exact sized_ite hs.tuneAbort hs
      · exact hs
    extract_lets +onlyGivenNames y2 y3
    have hy3 : y3.Sized := hy1.lwSet
    extract_lets +onlyGivenNames y4
    have hy4 : y4.Sized := sized_ite hy3.loopPut hy3
    exact hy4.lbSet
  · exact sized_ite hs.lwSet.loopPut hs.lwSet

theorem State.Sized.groupWrite {s : State} {g : Nat} {ws : List Word} (hs : s.Sized) : (State.groupWrite s g ws).Sized :=
  (groupWrite_keeps (Keeps.refl _ _) (List.Subset.refl _)).sized hs (of_decide_eq_true rfl)

theorem State.Sized.loopTick {s : State} (hs : s.Sized) : (State.loopTick s).Sized :=
  (loopTick_keeps (Keeps.refl _ _) (List.Subset.refl _)).sized hs (of_decide_eq_true rfl)

theorem State.Sized.loopSoftReset {s : State} (hs : s.Sized) : (loopSoftReset s).Sized := by
  delta loopSoftReset
  extract_lets +onlyGivenNames y1
  have hy1 : y1.Sized := hs.tuneAbort
  extract_lets +onlyGivenNames y2
  have hy2 : y2.Sized := sized_foldl hy1 (fun a e ha => ha.lbSet)
  exact hy2.loopMod

end Sys2Proof.Machine
end

section
namespace Sys2Proof.Machine

/-! #### Meters -/

theorem State.Sized.metMod {s : State} {f : MetSt → MetSt} (hs : s.Sized) (hpts : (f s.met).pts.length = s.met.pts.length) :
    (State.metMod s f).Sized := hs.withMet hpts

theorem State.Sized.metNvMod {s : State} {f : MetNv → MetNv} (hs : s.Sized) : (State.metNvMod s f).Sized :=
  (metNvMod_keeps (Keeps.refl _ _) (List.Subset.refl _)).sized hs (of_decide_eq_true rfl)

theorem State.Sized.metPtMod {s : State} {p : Nat} {f : MetPt → MetPt} (hs : s.Sized) : (State.metPtMod s p f).Sized := by
  delta State.metPtMod
  exact hs.metMod (modAt_length ..)

theorem State.Sized.metWr {s : State} {tid : Nat} {idx : Nat} {w : Nat} {v : Word} (hs : s.Sized) : (State.metWr s tid idx w v).Sized := by
  delta State.metWr
  exact hs.metMod (by rfl)

theorem State.Sized.metWrs {s : State} {tid : Nat} {idx : Nat} {w : Nat} {a4 : List Word} (hs : s.Sized) : (State.metWrs s tid idx w a4).Sized := by
  induction a4 generalizing s w with
  | nil => exact hs
  | cons v vs ih => exact ih (State.Sized.metWr hs)

theorem State.Sized.metAdd {s : State} {tid : Nat} {idx : Nat} {w : Nat} {x : Num} (hs : s.Sized) : (State.metAdd s tid idx w x).Sized := by
  delta State.metAdd
  extract_lets +onlyGivenNames y1 y2 y3 y4
  exact hs.metWr.metWr.metMod (by rfl)

theorem State.Sized.metShow {s : State} (hs : s.Sized) : (State.metShow s).Sized := by
  delta State.metShow
  exact State.Sized.metMod (sized_tblPut _ hs) (by rfl)

theorem State.Sized.modInput {s : State} {m : Nat} {bad : Bool} (hs : s.Sized) : (State.modInput s m bad).Sized := by
  delta State.modInput
  extract_lets +onlyGivenNames y1 y2
  have hy2 : y2.Sized := hs.setB.metMod (by rfl)
  refine sized_ite ?_ ?_
  · extract_lets +onlyGivenNames y3
    have hy3 : y3.Sized := hy2.setB
    extract_lets +onlyGivenNames y4
    have hy4 : y4.Sized := sized_ite hy3 (hy3.bump.metMod (by rfl))
    exact sized_ite hy4 hy4.raiseEv
  · exact hy2

theorem State.Sized.modClip {s : State} {m : Nat} {c : Int} (hs : s.Sized) : (State.modClip s m c).Sized := by
  delta State.modClip
  exact sized_ite hs.setB.bump.raiseEv hs

theorem State.Sized.modLatchPt {s : State} {p : Nat} {smp : List (List Int)} {stuck : Nat} (hs : s.Sized) :
    (State.modLatchPt s p smp stuck).Sized := by
  delta State.modLatchPt
  extract_lets +onlyGivenNames y1 y2
  have hy2 : y2.Sized := sized_foldl hs (fun a e ha => ha.modInput)
  extract_lets +onlyGivenNames y3 y4
  have hy4 : y4.Sized := sized_foldl hy2 (fun a e ha => sized_foldl ha (fun a e ha => ha.modClip))
  exact sized_ite hy4 (hy4.metPtMod.metMod (by rfl))

theorem State.Sized.execModLatch {arg : Nat} {samples : List (List (List Int))} {stuck : Nat} {s : State} (hs : s.Sized) :
    SizedO (execModLatch arg samples stuck s) := by
  delta execModLatch
  exact sizedO_next (hs.entry (fun x hx => sized_foldl hx (fun a e ha => ha.modLatchPt)))

theorem State.Sized.modSoftReset {s : State} (hs : s.Sized) : (State.modSoftReset s).Sized := by
  delta State.modSoftReset
  exact (sized_foldl hs (fun a e ha => ha.metPtMod)).metMod (by rfl)

theorem State.Sized.metClassify {s : State} {idx : Nat} {p : Num} {q : Num} (hs : s.Sized) : (State.metClassify s idx p q).Sized := by
  delta State.metClassify
  extract_lets +onlyGivenNames y1 y2 y3
  have hy3 : y3.Sized := hs.metAdd
  exact hy3.metAdd

theorem State.Sized.metJudge {s : State} {p : Nat} {vrms : List Num} {a2 : Num} {a3 : Num} {u0 : Num} {irms : Num} {nBad : Bool} (hs : s.Sized) :
    (State.metJudge s p vrms a2 a3 u0 irms nBad).Sized := by
  delta State.metJudge
  extract_lets +onlyGivenNames y1 y2 y3 y4 y5 y6 y7 y8 y9 y10 y11
  have hy11 : y11.Sized := hs.metPtMod
  extract_lets +onlyGivenNames y12 y13 y14
  have hy14 : y14.Sized := sized_ite hy11.setB.raiseEv.bump (sized_ite hy11.setB hy11)
  exact sized_ite hy14.setB.raiseEv.bump (sized_ite hy14.setB hy14)

theorem State.Sized.metResults {s : State} {p : Nat} {c : MetDue} (hs : s.Sized) : (State.metResults s p c).Sized := by
  delta State.metResults
  extract_lets +onlyGivenNames y1 y2 y3 y4 y5 y6 y7 y8 y9 y10 y11 y12 y13 y14 y15 y16 y17 y18 y19 y20 y21 y22 y23 y24
  have hy24 : y24.Sized := hs.metWr
  extract_lets +onlyGivenNames y25
  have hy25 : y25.Sized := sized_ite hy24.metWrs hy24
  extract_lets +onlyGivenNames y26
  have hy26 : y26.Sized := hy25.metWrs
  extract_lets +onlyGivenNames y27
  have hy27 : y27.Sized := sized_ite hy26.wr.wr.wr hy26
  extract_lets +onlyGivenNames y28 y29 y30
  have hy30 : y30.Sized := sized_ite hy27 ((sized_foldl hy27 (fun a e ha => ha.metAdd)).metAdd)
  extract_lets +onlyGivenNames y31
  have hy31 : y31.Sized := sized_ite hy30.metJudge hy30
  extract_lets +onlyGivenNames y32
  have hy32 : y32.Sized := sized_foldl hy31 (fun a e ha => ha.wr)
  exact hy32.metPtMod

theorem State.Sized.metSamples {s : State} {p : Nat} {smp : List (List Int)} {bad : Nat} (hs : s.Sized) : (State.metSamples s p smp bad).Sized := by
  delta State.metSamples
  extract_lets +onlyGivenNames y1 y2 y3 y4 y5 y6 y7
  have hy7 : y7.Sized := sized_foldl hs (fun a e ha => ha.metClassify)
  extract_lets +onlyGivenNames y8 y9
  have hy9 : y9.Sized := sized_ite hy7.metClassify hy7
  extract_lets +onlyGivenNames y10 y11 y12 y13 y14 y15
  have hy15 : y15.Sized := hy9.metPtMod
  exact hy15.setB

theorem State.Sized.intOpen {s : State} {k : Nat} {no : Nat} (hs : s.Sized) : (State.intOpen s k no).Sized := by
  delta State.intOpen
  extract_lets +onlyGivenNames y1 y2 y3 y4
  exact (hs.metMod (by rfl)).wr

theorem State.Sized.hmetMod {s : State} {t : Nat} {f : HmetPt → HmetPt} (hs : s.Sized) : (State.hmetMod s t f).Sized := by
  delta State.hmetMod
  exact hs.metMod (by rfl)

theorem State.Sized.intRecord {s : State} {k : Nat} {i : MetInt} (hs : s.Sized) : (State.intRecord s k i).Sized := by
  delta State.intRecord
  extract_lets +onlyGivenNames y1 y2 y3 y4 y5 y6
  have hy6 : y6.Sized := hs.metWrs
  exact sized_ite hy6 hy6.metWr.hmetMod

theorem State.Sized.intMod {s : State} {k : Nat} {f : MetInt → MetInt} (hs : s.Sized) : (State.intMod s k f).Sized := by
  delta State.intMod
  exact hs.metMod (by rfl)

theorem State.Sized.intClose {s : State} {k : Nat} (hs : s.Sized) : (State.intClose s k).Sized := by
  delta State.intClose
  split
  · exact hs.intOpen
  · exact sized_ite hs.intRecord.intOpen (sized_ite (hs.intMod.metMod (by rfl)) hs)

theorem State.Sized.metStep {s : State} {a : Int} {b : Int} (hs : s.Sized) : (State.metStep s a b).Sized := by
  delta State.metStep
  extract_lets +onlyGivenNames y1 y2
  exact hs.metMod (by rfl)

theorem State.Sized.emetPublish {s : State} {p : Nat} (hs : s.Sized) : (State.emetPublish s p).Sized := by
  delta State.emetPublish
  extract_lets +onlyGivenNames y1 y2
  exact hs.fwPuts

theorem State.Sized.emetClose {s : State} {p : Nat} (hs : s.Sized) : (State.emetClose s p).Sized := by
  delta State.emetClose
  refine sized_ite hs ?_
  extract_lets +onlyGivenNames y1 y2
  have hy2 : y2.Sized := by
    unfold y2
    split
    · exact hs
    · exact hs.metResults
  extract_lets +onlyGivenNames y3
  have hy3 : y3.Sized := hy2.intClose
  extract_lets +onlyGivenNames y4
  have hy4 : y4.Sized := by
    unfold y4
    split
    · exact hy3.setB
    · exact hy3.metSamples
  exact hy4.emetPublish

theorem State.Sized.execEmetClose {arg : Nat} {s : State} (hs : s.Sized) : SizedO (execEmetClose arg s) := by
  delta execEmetClose
  refine sizedO_next ?_
  refine hs.entry (fun x hx => ?_)
  split
  · exact hx
  · exact hx.emetClose

theorem State.Sized.hmetPublish {s : State} {t : Nat} (hs : s.Sized) : (State.hmetPublish s t).Sized := by
  delta State.hmetPublish
  extract_lets +onlyGivenNames y1
  exact hs.fwPuts

theorem State.Sized.hmetStatus {s : State} {t : Nat} {fault : Bool} {power : Num} {flow : Num} (hs : s.Sized) :
    (State.hmetStatus s t fault power flow).Sized := by
  delta State.hmetStatus
  extract_lets +onlyGivenNames y1 y2 y3 y4
  have hy4 : y4.Sized := hs.metWr.metWr
  exact hy4.wr.wr.setB.setB

theorem State.Sized.hmetAccumulate {s : State} {t : Nat} {dt8 : Nat} {v : Num} {q : Num} {tf : Num} {tr : Num} {p : Num} (hs : s.Sized) :
    (State.hmetAccumulate s t dt8 v q tf tr p).Sized := by
  delta State.hmetAccumulate
  extract_lets +onlyGivenNames y1 y2 y3 y4 y5 y6 y7 y8 y9 y10
  have hy10 : y10.Sized := sized_ite hs hs.metAdd
  extract_lets +onlyGivenNames y11
  have hy11 : y11.Sized := sized_ite hy10.metAdd hy10
  extract_lets +onlyGivenNames y12 y13
  have hy13 : y13.Sized := hy11.metWr.intMod
  extract_lets +onlyGivenNames y14
  have hy14 : y14.Sized := hy13.hmetMod
  extract_lets +onlyGivenNames y15
  have hy15 : y15.Sized := sized_ite (sized_ite hy14 hy14.raiseEv) hy11
  extract_lets +onlyGivenNames y16
  exact hy15.hmetMod.hmetStatus

theorem State.Sized.hmetFault {s : State} {t : Nat} {dt8 : Nat} (hs : s.Sized) : (State.hmetFault s t dt8).Sized := by
  delta State.hmetFault
  extract_lets +onlyGivenNames y1 y2 y3
  have hy3 : y3.Sized := hs.hmetMod.metWr
  extract_lets +onlyGivenNames y4
  have hy4 : y4.Sized := sized_ite hy3 hy3.bump.raiseEv
  exact hy4.hmetStatus

theorem State.Sized.hmetClose {s : State} {t : Nat} {ns : Nat} (hs : s.Sized) : (State.hmetClose s t ns).Sized := by
  delta State.hmetClose
  refine sized_ite hs ?_
  extract_lets +onlyGivenNames y1 y2 y3 y4
  have hy4 : y4.Sized := hs.intClose
  extract_lets +onlyGivenNames y5 y6
  have hy6 : y6.Sized := by
    unfold y6
    split
    · exact sized_ite hy4.hmetAccumulate hy4.hmetFault
    · exact hy4.hmetFault
  exact hy6.hmetMod.hmetPublish

theorem State.Sized.execHmetClose {arg : Nat} {ns : Nat} {s : State} (hs : s.Sized) : SizedO (execHmetClose arg ns s) := by
  delta execHmetClose
  refine sizedO_next ?_
  refine hs.entry (fun x hx => ?_)
  split
  · exact hx
  · exact hx.hmetClose

theorem State.Sized.metCloseWins {s : State} {late : Bool} {short : Bool} (hs : s.Sized) : (State.metCloseWins s late short).Sized := by
  delta State.metCloseWins
  exact sized_foldl hs (fun a e ha => ha.metPtMod)

theorem State.Sized.metWindows {s : State} {skips : List (Nat × Nat)} (hs : s.Sized) : (State.metWindows s skips).Sized := by
  delta State.metWindows
  extract_lets +onlyGivenNames y1 y2
  exact sized_ite hs.metCloseWins hs

theorem State.Sized.metShort {s : State} (hs : s.Sized) : (State.metShort s).Sized := by
  delta State.metShort
  exact hs.metCloseWins

theorem State.Sized.metFrameEnd {s : State} (hs : s.Sized) : (State.metFrameEnd s).Sized := by
  delta State.metFrameEnd
  extract_lets +onlyGivenNames y1
  have hy1 : y1.Sized := sized_foldl hs (fun a e ha => sized_foldl ha (fun a e ha => ha.modInput))
  extract_lets +onlyGivenNames y2
  have hy2 : y2.Sized := by
    unfold y2
    refine sized_foldl ?_ (fun a e ha => ?_)
    · exact hy1
    · extract_lets +onlyGivenNames y3 y4
      have hy4 : y4.Sized := ha.metPtMod
      exact sized_ite hy4.bump.intMod hy4
  exact hy2.metMod (by rfl)

theorem State.Sized.metTick {s : State} {skips : List (Nat × Nat)} (hs : s.Sized) : (State.metTick s skips).Sized := by
  delta State.metTick
  extract_lets +onlyGivenNames y1
  have hy1 : y1.Sized := hs.metShow.metWindows
  extract_lets +onlyGivenNames y2
  exact sized_ite (hy1.metMod (by rfl)) hy1

theorem State.Sized.execMeterSave {s : State} (hs : s.Sized) : SizedO (execMeterSave s) := by
  delta execMeterSave
  refine sizedO_next ?_
  refine State.Sized.andShown ?_ ?_
  · exact hs
  · refine sized_ite hs ?_
    extract_lets +onlyGivenNames y1 y2
    have hy2 : y2.Sized := hs.metMod (by rfl)
    exact hy2.metNvMod.setB

theorem State.Sized.execMeterSaveVerify {ok : Bool} {s : State} (hs : s.Sized) : SizedO (execMeterSaveVerify ok s) := by
  delta execMeterSaveVerify
  refine sizedO_next ?_
  split
  · exact hs
  · extract_lets +onlyGivenNames y1
    have hy1 : y1.Sized := (hs.metMod (by rfl)).setB
    exact sized_ite hy1.wr.metNvMod hy1.bump.raiseEv

theorem State.Sized.restoreAck {s : State} (hs : s.Sized) : (restoreAck s).Sized := by
  delta restoreAck
  exact (hs.metMod (by rfl)).setB

theorem State.Sized.execRestoreAck {s : State} (hs : s.Sized) : SizedO (execRestoreAck s) := by
  delta execRestoreAck
  exact sizedO_next hs.restoreAck

theorem State.Sized.metRestore {s : State} (hs : s.Sized) : (State.metRestore s).Sized := by
  delta State.metRestore
  extract_lets +onlyGivenNames n older z x0
  have h0 : x0.Sized := (State.Sized.metMod (f := fun _ => { z with
    ints := s.met.ints, pfNext := s.met.pfNext }) hs hs.pts.symm).metNvMod
  extract_lets +onlyGivenNames x1
  have h1 : x1.Sized := State.Sized.tkeep h0
  extract_lets +onlyGivenNames put
  have hput : ∀ a m, a.Sized → (put a m).Sized := fun a m h => sized_tblPut m h
  clear_value put x1 n
  extract_lets +onlyGivenNames x2
  have h2 : x2.Sized := by
    unfold x2
    split
    · exact State.Sized.setB (hput _ _ h1)
    · exact h1
  clear_value x2
  split
  · exact ((hput _ _ h2).metMod (by rfl)).wr.setF
  · exact (((sized_foldl h2 (fun _ _ h => State.Sized.tset h)).metMod (by rfl)).setB).raiseEv

theorem State.Sized.modClkLost {s : State} (hs : s.Sized) : (State.modClkLost s).Sized := by
  delta State.modClkLost
  exact (hs.setB.metMod (by rfl)).raiseEv

theorem State.Sized.modClkBack {s : State} (hs : s.Sized) : (State.modClkBack s).Sized :=
  (modClkBack_keeps (Keeps.refl _ _) (List.Subset.refl _)).sized hs (of_decide_eq_true rfl)

/-! #### The network model -/

theorem State.Sized.modelMod {s : State} {f : ModelSt → ModelSt} (hs : s.Sized) (hthmAt : (f s.model).thmAt.length = s.model.thmAt.length)
    (harrAt : (f s.model).arrAt.length = s.model.arrAt.length) :
    (State.modelMod s f).Sized := hs.withModel hthmAt harrAt

theorem State.Sized.keepIn {s : State} {key : Nat} {v : Option Word} (hs : s.Sized) : (State.keepIn s key v).Sized := by
  delta State.keepIn
  split
  · exact hs
  · exact hs.modelMod (by rfl) (by rfl)

theorem State.Sized.readInputs {s : State} {c : Nat} (hs : s.Sized) : (State.readInputs s c).Sized := by
  delta State.readInputs
  extract_lets +onlyGivenNames y1
  have hy1 : y1.Sized := hs.keepIn
  extract_lets +onlyGivenNames y2
  have hy2 : y2.Sized := sized_foldl hy1 (fun a e ha => ha.keepIn)
  extract_lets +onlyGivenNames y3
  have hy3 : y3.Sized := sized_foldl hy2 (fun a e ha => ha.keepIn)
  extract_lets +onlyGivenNames y4
  have hy4 : y4.Sized := sized_foldl hy3 (fun a e ha => ha.keepIn.keepIn)
  extract_lets +onlyGivenNames y5
  have hy5 : y5.Sized := sized_foldl hy4 (fun a e ha => ha.keepIn.keepIn.keepIn)
  exact sized_foldl hy5 (fun a e ha => ha.keepIn.keepIn)

theorem State.Sized.putResults {s : State} {c : Nat} (hs : s.Sized) : (State.putResults s c).Sized :=
  (putResults_keeps (Keeps.refl _ _) (List.Subset.refl _)).sized hs (of_decide_eq_true rfl)

theorem State.Sized.critDp {s : State} {c : Nat} (hs : s.Sized) : (State.critDp s c).Sized := by
  delta State.critDp
  split
  · exact hs.setF.rolePuts
  · exact hs.wr.setF.setF.rolePuts

theorem State.Sized.nodeEst {s : State} {n : Nat} (hs : s.Sized) : (State.nodeEst s n).Sized := by
  delta State.nodeEst
  refine sized_ite ?_ ?_
  · extract_lets +onlyGivenNames y1 y2
    exact hs.rolePuts
  · exact hs

theorem State.Sized.nodeBias {s : State} {n : Nat} (hs : s.Sized) : (State.nodeBias s n).Sized := by
  delta State.nodeBias
  extract_lets +onlyGivenNames y1
  have hy1 : y1.Sized := by
    unfold y1
    refine sized_foldl ?_ (fun a e ha => ?_)
    · exact hs
    · extract_lets +onlyGivenNames y2
      refine sized_ite ?_ ?_
      · extract_lets +onlyGivenNames y3 y4 y5
        exact (ha.modelMod (by rfl) (by rfl)).twr.tset
      · exact sized_ite ha.tset ha
  exact hy1.nodeEst

theorem State.Sized.estimates {s : State} {c : Nat} (hs : s.Sized) : (State.estimates s c).Sized := by
  delta State.estimates
  extract_lets +onlyGivenNames y1
  have hy1 : y1.Sized := sized_foldl hs (fun a e ha => ha.nodeBias)
  extract_lets +onlyGivenNames y2 y3
  exact hy1.wr

theorem State.Sized.addResidual {s : State} {path : List Nat} {drop : Nat → Num} {r : Num} {thermal : Bool} (hs : s.Sized) :
    (State.addResidual s path drop r thermal).Sized := by
  delta State.addResidual
  extract_lets +onlyGivenNames y1
  refine sized_foldl ?_ (fun a e ha => ?_)
  · exact hs
  · extract_lets +onlyGivenNames y2 y3 y4
    exact ha.modelMod (by rfl) (by rfl)

theorem State.Sized.collectNode {s : State} {c : Nat} {n : Nat} (hs : s.Sized) : (State.collectNode s c n).Sized := by
  delta State.collectNode
  refine sized_ite hs ?_
  extract_lets +onlyGivenNames y1 y2 y3 y4 y5
  have hy5 : y5.Sized := sized_ite hs.addResidual hs
  extract_lets +onlyGivenNames y6
  have hy6 : y6.Sized := sized_ite hy5.addResidual hy5
  exact hy6.keepIn

theorem State.Sized.collectJunction {s : State} {c : Nat} {j : Nat} (hs : s.Sized) : (State.collectJunction s c j).Sized := by
  delta State.collectJunction
  split
  · exact hs
  · extract_lets +onlyGivenNames y1
    exact hs.addResidual

theorem State.Sized.collect {s : State} {c : Nat} (hs : s.Sized) : (State.collect s c).Sized := by
  delta State.collect
  refine sized_ite hs ?_
  extract_lets +onlyGivenNames y1
  have hy1 : y1.Sized := sized_foldl hs (fun a e ha => ha.collectNode)
  exact sized_foldl hy1 (fun a e ha => ha.collectJunction)

theorem State.Sized.adaptSeg {s : State} {i : Nat} (hs : s.Sized) : (State.adaptSeg s i).Sized := by
  delta State.adaptSeg
  extract_lets +onlyGivenNames y1 y2 y3 y4
  have hy4 : y4.Sized := hs.tset.tset
  extract_lets +onlyGivenNames y5
  have hy5 : y5.Sized := hy4.modelMod (by rfl) (by rfl)
  exact sized_ite hy5.raiseEv hy5

theorem State.Sized.dropSums {s : State} {c : Nat} (hs : s.Sized) : (State.dropSums s c).Sized := by
  delta State.dropSums
  extract_lets +onlyGivenNames y1
  exact hs.modelMod (by rfl) (by rfl)

theorem State.Sized.hourly {s : State} {c : Nat} (hs : s.Sized) : (State.hourly s c).Sized := by
  delta State.hourly
  extract_lets +onlyGivenNames y1
  refine sized_ite hs ?_
  extract_lets +onlyGivenNames y2
  have hy2 : y2.Sized := hs.modelMod (by rfl) (by rfl)
  exact sized_ite (((sized_foldl hy2 (fun a e ha => ha.adaptSeg)).wr).dropSums) hy2.dropSums

theorem State.Sized.modelTableWrite {tid : Nat} {idx : Nat} {ws : List Word} {s : State} (hs : s.Sized) :
    (modelTableWrite tid idx ws s).1.Sized := by
  delta modelTableWrite
  split
  · exact sized_fst hs
  · exact sized_iteP (sized_fst hs) (sized_fst hs.writeRecord.bankWritten)

theorem State.Sized.modelXfer {s : State} (hs : s.Sized) : (State.modelXfer s).Sized := by
  delta State.modelXfer
  exact hs.serveXfer

theorem State.Sized.modelOp {s : State} {op : Nat} {arg : Nat} {on : Bool} {f : State → State} (hs : s.Sized) (hf : ∀ x, x.Sized → (f x).Sized) :
    (State.modelOp s op arg on f).Sized := by
  delta State.modelOp
  refine hs.entry (fun x hx => ?_)
  refine State.Sized.modelXfer ?_
  refine sized_ite ?_ ?_
  · refine hf _ ?_
    exact hx
  · exact hx

theorem State.Sized.hydEnd {s : State} {c : Nat} {r : HydRes} (hs : s.Sized) : (State.hydEnd s c r).Sized := by
  delta State.hydEnd
  extract_lets +onlyGivenNames y1 y2
  have hy2 : y2.Sized := hs.setF.wr
  refine sized_ite ?_ ?_
  · extract_lets +onlyGivenNames y3
    have hy3 : y3.Sized := hy2.modelMod (by rfl) (by rfl)
    exact hy3.setF.setF.setF.bump
  · extract_lets +onlyGivenNames y4 y5
    have hy5 : y5.Sized := hy2.setF.setF.bump
    exact sized_ite hy5 hy5.raiseEv

theorem State.Sized.modelHydRun {c : Nat} {s : State} (hs : s.Sized) : (modelHydRun c s).Sized := by
  delta modelHydRun
  extract_lets +onlyGivenNames y1
  have hy1 : y1.Sized := hs.readInputs.hourly
  extract_lets +onlyGivenNames y2
  have hy2 : y2.Sized := hy1.hydEnd
  extract_lets +onlyGivenNames y3
  have hy3 : y3.Sized := hy2.putResults.critDp
  exact hy3.collect.estimates

theorem State.Sized.execModelHyd {arg : Nat} {s : State} (hs : s.Sized) : SizedO (execModelHyd arg s) := by
  delta execModelHyd
  exact sizedO_next (hs.modelOp (fun x hx => hx.modelHydRun))

theorem State.Sized.putParcels {s : State} {i : Nat} {l : List Parcel} (hs : s.Sized) : (State.putParcels s i l).Sized := by
  delta State.putParcels
  extract_lets +onlyGivenNames y1
  exact hs.modelMod (by rfl) (by rfl)

theorem State.Sized.restartSeg {s : State} {c : Nat} {i : Nat} (hs : s.Sized) : (State.restartSeg s c i).Sized := by
  delta State.restartSeg
  extract_lets +onlyGivenNames y1 y2
  exact hs.putParcels.modelMod (by rfl) (by rfl)

theorem State.Sized.startSegs {s : State} {c : Nat} (hs : s.Sized) : (State.startSegs s c).Sized := by
  delta State.startSegs
  exact sized_foldl hs (fun a e ha => sized_ite ha.restartSeg ha)

theorem State.Sized.thmJunction {s : State} {c : Nat} {dt : Num} {outs : NumMap} {bs : List Branch} {j : Nat} (hs : s.Sized) :
    (State.thmJunction s c dt outs bs j).Sized := by
  delta State.thmJunction
  extract_lets +onlyGivenNames y1 y2
  exact sized_ite hs (hs.modelMod (by rfl) (by rfl))

theorem State.Sized.forcedMerge {s : State} (hs : s.Sized) : (State.forcedMerge s).Sized := by
  delta State.forcedMerge
  extract_lets +onlyGivenNames y1
  have hy1 : y1.Sized := hs.bump
  exact sized_ite hy1 (hy1.modelMod (by rfl) (by rfl)).raiseEv

theorem State.Sized.pushParcel {s : State} {i : Nat} {l : List Parcel} {p : Parcel} (hs : s.Sized) : (State.pushParcel s i l p).Sized := by
  delta State.pushParcel
  split
  · refine sized_ite hs.putParcels ?_
    refine sized_ite ?_ ?_
    · split
      · exact hs.putParcels.forcedMerge
      · exact hs.putParcels.forcedMerge
    · exact hs.putParcels
  · exact hs.putParcels

theorem State.Sized.drainSegment {s : State} {c : Nat} {dt : Num} {b : Branch} (hs : s.Sized) : (State.drainSegment s c dt b).Sized := by
  delta State.drainSegment
  exact sized_ite hs.putParcels hs

theorem State.Sized.fillSegment {s : State} {c : Nat} {dt : Num} {b : Branch} (hs : s.Sized) : (State.fillSegment s c dt b).Sized := by
  delta State.fillSegment
  extract_lets +onlyGivenNames y1 y2 y3
  refine sized_ite ?_ ?_
  · extract_lets +onlyGivenNames y4
    have hy4 : y4.Sized := hs.pushParcel
    split
    · exact hy4
    · extract_lets +onlyGivenNames y5
      exact hy4.modelMod (by rfl) (by rfl)
  · exact hs

theorem State.Sized.coolSegment {s : State} {c : Nat} {dt : Num} {i : Nat} (hs : s.Sized) : (State.coolSegment s c dt i).Sized := by
  delta State.coolSegment
  extract_lets +onlyGivenNames y1 y2
  exact hs.modelMod (by rfl) (by rfl)

theorem State.Sized.thmMove {s : State} {c : Nat} {dt : Num} {outs : NumMap} (hs : s.Sized) : (State.thmMove s c dt outs).Sized := by
  delta State.thmMove
  extract_lets +onlyGivenNames y1 y2 y3 y4
  have hy4 : y4.Sized := sized_foldl hs (fun a e ha => ha.thmJunction)
  exact sized_foldl (sized_foldl hy4 (fun a e ha => ha.drainSegment)) (fun a e ha => ha.fillSegment)

theorem State.Sized.thmCool {s : State} {c : Nat} {dt : Num} (hs : s.Sized) : (State.thmCool s c dt).Sized := by
  delta State.thmCool
  exact sized_foldl hs (fun a e ha => ha.coolSegment)

theorem State.Sized.addBalance {s : State} {c : Nat} (hs : s.Sized) : (State.addBalance s c).Sized := by
  delta State.addBalance
  extract_lets +onlyGivenNames y1 y2 y3 y4 y5 y6
  have hy6 : y6.Sized := hs.modelMod (by rfl) (by rfl)
  exact hy6.wr.fwPuts

theorem State.Sized.execLeakDetect {c : Nat} {s : State} (hs : s.Sized) : SizedO (execLeakDetect c s) := by
  delta execLeakDetect
  extract_lets +onlyGivenNames y1 y2
  exact sizedO_next (sized_ite hs (sized_ite hs.setF.setF.raiseEv (sized_ite hs.setF.setF hs)))

theorem State.Sized.parcelRegs {s : State} (hs : s.Sized) : (State.parcelRegs s).Sized :=
  (parcelRegs_keeps (Keeps.refl _ _) (List.Subset.refl _)).sized hs (of_decide_eq_true rfl)

theorem State.Sized.modelThmRun {c : Nat} {s : State} (hs : s.Sized) : (modelThmRun c s).Sized := by
  delta modelThmRun
  refine sized_ite hs ?_
  extract_lets +onlyGivenNames y1 y2 y3
  have hy3 : y3.Sized := hs.readInputs.startSegs.thmMove
  extract_lets +onlyGivenNames y4
  have hy4 : y4.Sized := hy3.thmCool
  extract_lets +onlyGivenNames y5 y6 y7
  clear_value y4
  have hy7 : y7.Sized := hy4.modelMod (length_setAt ..) (by rfl)
  extract_lets +onlyGivenNames y8
  have hy8 : y8.Sized := sized_ite hy7 hy7.wr
  exact hy8.parcelRegs.putResults.addBalance.estimates

theorem State.Sized.execModelThm {arg : Nat} {s : State} (hs : s.Sized) : SizedO (execModelThm arg s) := by
  delta execModelThm
  exact sizedO_next (hs.modelOp (fun x hx => hx.modelThmRun))

theorem State.Sized.arrItems {s : State} {n : Nat} (hs : s.Sized) : (State.arrItems s n).Sized := by
  delta State.arrItems
  extract_lets +onlyGivenNames y1
  exact hs.rolePuts

theorem State.Sized.arrRecord {s : State} {n : Nat} {sa : NumMap × NumMap} {cyc : List Nat} {pred : List NumMap} (hs : s.Sized) :
    (State.arrRecord s n sa cyc pred).Sized := by
  delta State.arrRecord
  extract_lets +onlyGivenNames y1 y2 y3 y4 y5 y6 y7 y8
  have hy8 : y8.Sized := hs.twr.twr.twr.twr
  extract_lets +onlyGivenNames y9
  have hy9 : y9.Sized := sized_foldl hy8 (fun a e ha => ha.twr)
  exact hy9.arrItems

theorem State.Sized.modelArrRun {p : Nat} {s : State} (hs : s.Sized) : (modelArrRun p s).Sized := by
  delta modelArrRun
  extract_lets +onlyGivenNames y1 y2
  have hy2 : y2.1.Sized := by
    unfold y2
    refine sized_foldlP ?_ (fun a e ha => ?_)
    · exact sized_fst hs
    · extract_lets +onlyGivenNames y3
      refine sized_iteP ha ?_
      extract_lets +onlyGivenNames y4
      have hy4 : y4.Sized := ha.readInputs
      extract_lets +onlyGivenNames y5 y6 y7
      exact sized_fst (sized_foldl hy4 (fun a e ha => ha.arrRecord))
  extract_lets +onlyGivenNames y8
  have hy8 : y8.Sized := hy2.useFree
  extract_lets +onlyGivenNames y9
  have hy9 : y9.Sized := sized_ite (hy8.modelMod rfl (length_setAt ..)).setF hy8
  exact sized_ite hy9.raiseEv hy9

theorem State.Sized.execModelArr {arg : Nat} {s : State} (hs : s.Sized) : SizedO (execModelArr arg s) := by
  delta execModelArr
  exact sizedO_next (hs.modelOp (fun x hx => hx.modelArrRun))

theorem State.Sized.arrQual {s : State} {p : Nat} (hs : s.Sized) : (State.arrQual s p).Sized := by
  delta State.arrQual
  extract_lets +onlyGivenNames y1
  refine sized_foldl ?_ (fun a e ha => ?_)
  · exact hs.setF
  · extract_lets +onlyGivenNames y2
    exact ha.tset.arrItems

theorem State.Sized.execArrPartStale {part : Nat} {s : State} (hs : s.Sized) : SizedO (execArrPartStale part s) := by
  delta execArrPartStale
  exact sizedO_next (sized_ite hs hs.arrQual)

theorem State.Sized.critQual {s : State} {c : Nat} (hs : s.Sized) : (State.critQual s c).Sized := by
  delta State.critQual
  extract_lets +onlyGivenNames y1 y2
  exact hs.setF.rolePuts

theorem State.Sized.modelQual {s : State} {c : Nat} (hs : s.Sized) : (State.modelQual s c).Sized := by
  delta State.modelQual
  extract_lets +onlyGivenNames y1
  have hy1 : y1.Sized := hs.putResults.critQual
  exact sized_foldl hy1 (fun a e ha => ha.nodeEst)

theorem State.Sized.modelEnChanged {s : State} (hs : s.Sized) : (State.modelEnChanged s).Sized := by
  delta State.modelEnChanged
  exact sized_foldl hs (fun a e ha => ha.modelQual)

theorem State.Sized.arrEnChanged {s : State} (hs : s.Sized) : (State.arrEnChanged s).Sized := by
  delta State.arrEnChanged
  exact sized_foldl hs (fun a e ha => ha.arrQual)

theorem State.Sized.parcelReset {s : State} (hs : s.Sized) : (parcelReset s).Sized := by
  delta parcelReset
  exact (hs.modelMod (by rfl) (by rfl)).parcelRegs

theorem State.Sized.execParcelReset {s : State} (hs : s.Sized) : SizedO (execParcelReset s) := by
  delta execParcelReset
  exact sizedO_next hs.parcelReset

theorem State.Sized.facReset {s : State} {i : Nat} (hs : s.Sized) : (State.facReset s i).Sized :=
  (facReset_keeps (Keeps.refl _ _) (List.Subset.refl _)).sized hs (of_decide_eq_true rfl)

theorem State.Sized.adaptReset {s : State} (hs : s.Sized) : (adaptReset s).Sized := by
  delta adaptReset
  exact sized_foldl (hs.modelMod (by rfl) (by rfl)) (fun a e ha => ha.facReset)

theorem State.Sized.execAdaptReset {s : State} (hs : s.Sized) : SizedO (execAdaptReset s) := by
  delta execAdaptReset
  exact sizedO_next hs.adaptReset

theorem State.Sized.execModelVerifyEnd {s : State} (hs : s.Sized) : SizedO (execModelVerifyEnd s) := by
  delta execModelVerifyEnd
  refine sizedO_next ?_
  refine sized_ite hs ?_
  split
  · exact hs.bankFail
  · exact hs.bankPass

theorem State.Sized.modelDef {s : State} (hs : s.Sized) : (State.modelDef s).Sized :=
  (modelDef_keeps (Keeps.refl _ _) (List.Subset.refl _)).sized hs (of_decide_eq_true rfl)

theorem State.Sized.modelCarry {s : State} (hs : s.Sized) : (State.modelCarry s).Sized := by
  delta State.modelCarry
  extract_lets +onlyGivenNames y1
  have hy1 : y1.Sized := sized_foldl hs (fun a e ha => sized_ite ha (ha.facReset.modelMod (by rfl) (by rfl)))
  extract_lets +onlyGivenNames y2 y3
  have hy3 : y3.Sized := hy1.modelMod (by rfl) (by rfl)
  extract_lets +onlyGivenNames y4
  exact hy3.modelMod (by rfl) (by rfl)

theorem State.Sized.arrInit {s : State} {c : Nat} (hs : s.Sized) : (State.arrInit s c).Sized := by
  delta State.arrInit
  exact sized_foldl hs (fun a e ha => ha.tset.arrItems)

theorem State.Sized.execModelBankSwitch {s : State} (hs : s.Sized) : SizedO (execModelBankSwitch s) := by
  delta execModelBankSwitch
  refine sizedO_next ?_
  refine State.Sized.andShown ?_ ?_
  · exact hs
  · refine sized_ite ?_ ?_
    · extract_lets +onlyGivenNames y1
      have hy1 : y1.Sized := hs.bankExchange.modelCarry.modelDef.seqInfo
      extract_lets +onlyGivenNames y2
      have hy2 : y2.Sized := sized_foldl hy1 (fun a e ha => ha.modelQual.arrInit)
      exact hy2.setF.parcelRegs.raiseEv
    · exact hs

theorem State.Sized.modelSoftReset {s : State} (hs : s.Sized) : (modelSoftReset s).Sized := by
  delta modelSoftReset
  extract_lets +onlyGivenNames y1
  have hy1 : y1.Sized := hs.parcelReset.bankSoftReset
  extract_lets +onlyGivenNames y2
  have hy2 : y2.Sized := hy1.modelMod rfl hy1.arrAt.symm
  extract_lets +onlyGivenNames y3
  have hy3 : y3.Sized := sized_foldl hy2 (fun a e ha => ha.modelQual.arrInit)
  exact hy3.setF.setF.parcelRegs

/-! #### The optimiser -/

theorem State.Sized.optMod {s : State} {f : OptSt → OptSt} (hs : s.Sized) : (State.optMod s f).Sized :=
  (optMod_keeps (Keeps.refl _ _) (List.Subset.refl _)).sized hs (of_decide_eq_true rfl)

theorem State.Sized.dailyFit {s : State} (hs : s.Sized) : (State.dailyFit s).Sized :=
  (dailyFit_keeps (Keeps.refl _ _) (List.Subset.refl _)).sized hs (of_decide_eq_true rfl)

theorem State.Sized.optEnded {s : State} {c : Option HCmd} (hs : s.Sized) : (State.optEnded s c).Sized :=
  (optEnded_keeps (Keeps.refl _ _) (List.Subset.refl _)).sized hs (of_decide_eq_true rfl)

theorem State.Sized.noteEnd {s : State} {last : Word} (hs : s.Sized) : (State.noteEnd s last).Sized := by
  delta State.noteEnd
  extract_lets +onlyGivenNames y1
  have hy1 : y1.Sized := hs.wr.optMod
  exact sized_ite hy1.bump hy1.bump.raiseEv

theorem State.Sized.endSolve {s : State} {code : Nat} {group : Nat} {stage : Nat} {index : Nat} (hs : s.Sized) :
    (State.endSolve s code group stage index).Sized := by
  delta State.endSolve
  split
  · exact hs
  · extract_lets +onlyGivenNames y1
    have hy1 : y1.Sized := hs.wr.wr
    extract_lets +onlyGivenNames y2
    have hy2 : y2.Sized := hy1.setF.optMod.noteEnd
    extract_lets +onlyGivenNames y3
    have hy3 : y3.Sized := hy2.optEnded
    split
    · exact hy3.complete
    · exact hy3

theorem State.Sized.haltSolve {s : State} {code : Nat} (hs : s.Sized) : (State.haltSolve s code).Sized := by
  delta State.haltSolve
  exact hs.endSolve

theorem State.Sized.dropSolve {s : State} (hs : s.Sized) : (State.dropSolve s).Sized := by
  delta State.dropSolve
  extract_lets +onlyGivenNames y1
  have hy1 : y1.Sized := hs.haltSolve
  split
  · exact hy1
  · exact hy1.optMod.optEnded.complete

theorem State.Sized.optHalt {s : State} (hs : s.Sized) : (State.optHalt s).Sized := by
  delta State.optHalt
  exact sized_ite hs.haltSolve hs

theorem State.Sized.startSolve {s : State} {cmd : Option HCmd} (hs : s.Sized) : (State.startSolve s cmd).Sized := by
  delta State.startSolve
  extract_lets +onlyGivenNames y1
  have hy1 : y1.Sized := hs.optMod.dailyFit
  extract_lets +onlyGivenNames y2 y3 y4 y5 y6
  have hy6 : y6.Sized := hy1.wr.wr.optMod
  extract_lets +onlyGivenNames y7
  have hy7 : y7.Sized := hy6.setF
  extract_lets +onlyGivenNames y8
  have hy8 : y8.Sized := sized_ite hy7 hy7.raiseEv
  exact sized_ite hy8.haltSolve (sized_ite hy8.haltSolve hy8)

theorem State.Sized.skipSolve {s : State} (hs : s.Sized) : (State.skipSolve s).Sized := by
  delta State.skipSolve
  exact hs.bump.raiseEv

theorem State.Sized.commandedSolve {s : State} (hs : s.Sized) : (State.commandedSolve s).Sized := by
  delta State.commandedSolve
  split
  · exact hs
  · exact sized_ite hs.optMod.skipSolve.optEnded.complete hs.startSolve

theorem State.Sized.execPeriodicSolveStart {s : State} (hs : s.Sized) : SizedO (execPeriodicSolveStart s) := by
  delta execPeriodicSolveStart
  refine sizedO_next ?_
  refine State.Sized.andShown ?_ ?_
  · exact hs
  · extract_lets +onlyGivenNames y1
    exact sized_ite hs (sized_ite hs (sized_ite hs.skipSolve hs.startSolve))

theorem State.Sized.toStage {s : State} {k : Nat} {r : SolveSt} (hs : s.Sized) : (State.toStage s k r).Sized :=
  (toStage_keeps (Keeps.refl _ _) (List.Subset.refl _)).sized hs (of_decide_eq_true rfl)

theorem State.Sized.stageFails {s : State} {r : SolveSt} {code : Nat} {n : Nat} (hs : s.Sized) : (State.stageFails s r code n).Sized := by
  delta State.stageFails
  extract_lets +onlyGivenNames y1 y2 y3
  have hy3 : y3.Sized := hs.optMod
  exact sized_ite hy3.endSolve hy3.endSolve

theorem State.Sized.stageEnd {s : State} {r : SolveSt} (hs : s.Sized) : (State.stageEnd s r).Sized := by
  delta State.stageEnd
  refine sized_ite ?_ ?_
  · extract_lets +onlyGivenNames y1 y2
    exact sized_ite hs.toStage hs.stageFails
  · refine sized_ite hs.toStage ?_
    extract_lets +onlyGivenNames y3 y4
    refine sized_ite ?_ ?_
    · extract_lets +onlyGivenNames y5
      exact hs.wr.optMod
    · exact sized_ite hs.toStage hs.stageFails

theorem State.Sized.execSolveEnd {r : Nat} {s : State} (hs : s.Sized) : SizedO (execSolveEnd r s) := by
  delta execSolveEnd
  refine sizedO_next ?_
  split
  · cases ‹RecHdr›.plan.last with
    | none => exact hs
    | some e => exact State.Sized.noteEnd hs
  · split
    · exact sized_ite (State.Sized.haltSolve hs) (sized_ite (State.Sized.stageEnd hs) hs)
    · exact hs

theorem State.Sized.execSolveDeadline {s : State} (hs : s.Sized) : SizedO (execSolveDeadline s) := by
  delta execSolveDeadline
  refine sizedO_next ?_
  split
  · exact sized_ite hs.haltSolve hs
  · exact hs

theorem State.Sized.execEccUncorr {s : State} (hs : s.Sized) : SizedO (execEccUncorr s) := by
  delta execEccUncorr
  exact sizedO_next hs.bump.raiseEv.haltSolve

theorem State.Sized.publishPlan {s : State} {r : SolveSt} {d : PlanOut} (hs : s.Sized) : (State.publishPlan s r d).Sized :=
  (publishPlan_keeps (Keeps.refl _ _) (List.Subset.refl _)).sized hs (of_decide_eq_true rfl)

theorem State.Sized.publishRec {s : State} {d : PlanPub} (hs : s.Sized) : (State.publishRec s d).Sized :=
  (publishRec_keeps (Keeps.refl _ _) (List.Subset.refl _)).sized hs (of_decide_eq_true rfl)

theorem State.Sized.ageReg {s : State} (hs : s.Sized) : (State.ageReg s).Sized :=
  (ageReg_keeps (Keeps.refl _ _) (List.Subset.refl _)).sized hs (of_decide_eq_true rfl)

theorem State.Sized.enterFallback {s : State} (hs : s.Sized) : (State.enterFallback s).Sized := by
  delta State.enterFallback
  exact sized_ite hs hs.setB.optMod.bump.raiseEv

theorem State.Sized.endFallback {s : State} (hs : s.Sized) : (State.endFallback s).Sized := by
  delta State.endFallback
  exact sized_ite hs hs.setB.raiseEv

theorem State.Sized.published {s : State} (hs : s.Sized) : (State.published s).Sized := by
  delta State.published
  exact hs.bump.raiseEv.endFallback.ageReg

theorem State.Sized.planPub {s : State} (hs : s.Sized) : (planPub s).Sized := by
  delta planPub
  split
  · extract_lets +onlyGivenNames y1
    have hy1 : y1.Sized := by
      unfold y1
      split
      · exact hs.publishRec.published
      · exact hs
    exact sized_foldl hy1 (fun a e ha => ha.trecSet)
  · split
    · extract_lets +onlyGivenNames y2
      have hy2 : y2.Sized := hs.publishPlan.published.optEnded
      split
      · exact hy2.complete
      · exact hy2
    · exact hs

theorem State.Sized.execPlanPub {s : State} (hs : s.Sized) : SizedO (execPlanPub s) := by
  delta execPlanPub
  refine sizedO_next ?_
  refine State.Sized.andShown ?_ ?_
  · exact hs
  · exact hs.planPub

theorem State.Sized.execFallbackAgeExpire {s : State} (hs : s.Sized) : SizedO (execFallbackAgeExpire s) := by
  delta execFallbackAgeExpire
  refine sizedO_next ?_
  refine State.Sized.andShown ?_ ?_
  · exact hs
  · split
    · exact hs
    · exact sized_ite hs.enterFallback hs

theorem State.Sized.optFallbackCmd {s : State} (hs : s.Sized) : (optFallbackCmd s).Sized := by
  delta optFallbackCmd
  exact hs.enterFallback.optMod

theorem State.Sized.execFallback {s : State} (hs : s.Sized) : SizedO (execFallback s) := by
  delta execFallback
  exact sizedO_next hs.optFallbackCmd

theorem State.Sized.actSolve {s : State} {c : HCmd} (hs : s.Sized) : (State.actSolve s c).Sized := by
  delta State.actSolve
  exact sized_ite hs.optEnded.complete hs.optMod

theorem State.Sized.actAbort {s : State} {c : HCmd} (hs : s.Sized) : (State.actAbort s c).Sized := by
  delta State.actAbort
  extract_lets +onlyGivenNames y1 y2
  split
  · extract_lets +onlyGivenNames y3
    exact sized_ite (sized_ite hs.complete hs.haltSolve.complete) (sized_ite hs.complete hs.complete)
  · split
    · refine sized_ite hs.complete ?_
      exact sized_ite hs.optMod.bump.optEnded.complete.complete (sized_ite hs.complete hs.complete)
    · exact sized_ite hs.complete (sized_ite hs.complete hs.complete)

theorem State.Sized.execOptVerifyEnd {s : State} (hs : s.Sized) : SizedO (execOptVerifyEnd s) := by
  delta execOptVerifyEnd
  refine sizedO_next ?_
  refine sized_ite hs ?_
  split
  · exact hs.bankFail
  · exact hs.bankPass

theorem State.Sized.optCounts {s : State} (hs : s.Sized) : (State.optCounts s).Sized :=
  (optCounts_keeps (Keeps.refl _ _) (List.Subset.refl _)).sized hs (of_decide_eq_true rfl)

theorem State.Sized.execOptBankSwitch {s : State} (hs : s.Sized) : SizedO (execOptBankSwitch s) := by
  delta execOptBankSwitch
  refine sizedO_next ?_
  refine State.Sized.andShown ?_ ?_
  · exact hs
  · refine sized_ite ?_ ?_
    · extract_lets +onlyGivenNames y1
      have hy1 : y1.Sized := hs.bankExchange.haltSolve
      exact hy1.optCounts.raiseEv
    · exact hs

theorem State.Sized.optSoftReset {s : State} (hs : s.Sized) : (optSoftReset s).Sized := by
  delta optSoftReset
  exact (sized_ite hs.haltSolve hs.wr).bankSoftReset

theorem State.Sized.optTableWrite {tid : Nat} {idx : Nat} {ws : List Word} {s : State} (hs : s.Sized) : (optTableWrite tid idx ws s).1.Sized := by
  delta optTableWrite
  split
  · exact sized_fst hs
  · exact sized_iteP (sized_iteP (sized_fst hs) (sized_fst hs.writeRecord.bankWritten)) (sized_fst hs.writeRecord)

end Sys2Proof.Machine
end

section
namespace Sys2Proof.Machine

/-! #### Supply and power failure -/

theorem State.Sized.pwrMod {s : State} {f : PwrSt → PwrSt} (hs : s.Sized) : (State.pwrMod s f).Sized :=
  (pwrMod_keeps (Keeps.refl _ _) (List.Subset.refl _)).sized hs (of_decide_eq_true rfl)

theorem State.Sized.execUndervolt {mv : Nat} {s : State} (hs : s.Sized) : SizedO (execUndervolt mv s) := by
  delta execUndervolt
  exact sizedO_next (sized_ite hs.setB.raiseEv hs)

theorem State.Sized.execOvervolt {mv : Nat} {s : State} (hs : s.Sized) : SizedO (execOvervolt mv s) := by
  delta execOvervolt
  exact sizedO_next (sized_ite hs.setB.raiseEv.bump hs)

theorem State.Sized.execBallastLow {mv : Nat} {s : State} (hs : s.Sized) : SizedO (execBallastLow mv s) := by
  delta execBallastLow
  exact sizedO_next (sized_ite hs.setB.raiseEv hs)

theorem State.Sized.shedLoads {s : State} (hs : s.Sized) : (State.shedLoads s).Sized := by
  delta State.shedLoads
  extract_lets +onlyGivenNames y1
  have hy1 : y1.Sized := hs.optHalt.setB
  exact (sized_foldl hy1 (fun a e ha => ha.lineDown)).aoutStat

theorem State.Sized.execPowerFail {ns : Nat} {shedUs : Nat} {s : State} (hs : s.Sized) : SizedO (execPowerFail ns shedUs s) := by
  delta execPowerFail
  refine sizedO_next ?_
  refine sized_ite hs ?_
  extract_lets +onlyGivenNames y1
  have hy1 : y1.Sized := hs.pwrMod.setB
  extract_lets +onlyGivenNames y2
  have hy2 : y2.Sized := hy1.bump.raiseEv.wr
  extract_lets +onlyGivenNames y3
  have hy3 : y3.Sized := hy2.setB.tkeep
  extract_lets +onlyGivenNames y4
  have hy4 : y4.Sized := hy3.metNvMod.setF
  exact hy4.shedLoads

theorem State.Sized.metPowerOff {s : State} (hs : s.Sized) : (State.metPowerOff s).Sized := by
  delta State.metPowerOff
  exact hs.metMod (by rfl)

theorem State.Sized.lastGasp {s : State} {ok : Bool} (hs : s.Sized) : (State.lastGasp s ok).Sized :=
  (lastGasp_keeps (Keeps.refl _ _) (List.Subset.refl _)).sized hs (of_decide_eq_true rfl)

theorem State.Sized.execPfSnapshot {commit : Nat} {ok : Bool} {s : State} (hs : s.Sized) : SizedO (execPfSnapshot commit ok s) := by
  delta execPfSnapshot
  refine sizedO_next ?_
  refine State.Sized.andShown ?_ ?_
  · exact hs
  · split
    · exact hs
    · refine sized_ite hs ?_
      extract_lets +onlyGivenNames y1 y2
      have hy2 : y2.Sized := hs.lastGasp.metPowerOff
      extract_lets +onlyGivenNames y3
      have hy3 : y3.Sized := hy2.metNvMod
      extract_lets +onlyGivenNames y4
      have hy4 : y4.Sized := hy3.setF
      exact hy4.pwrMod.aoutStat

theorem State.Sized.execPowerRestored {ns : Nat} {s : State} (hs : s.Sized) : SizedO (execPowerRestored ns s) := by
  delta execPowerRestored
  refine sizedO_next ?_
  split
  · exact hs
  · refine sized_ite hs ?_
    extract_lets +onlyGivenNames y1
    have hy1 : y1.Sized := hs.pwrMod.setB
    exact hy1.setB.aoutStat.bump.raiseEv

theorem State.Sized.clkConsequence {d : Nat} {s : State} (hs : s.Sized) : (clkConsequence d s).Sized := by
  delta clkConsequence
  refine sized_ite hs.enterFault ?_
  refine sized_ite hs.optHalt ?_
  refine sized_ite hs.lineDown ?_
  refine sized_ite hs.lineDown.lineDown ?_
  refine sized_ite hs.lineDown ?_
  exact sized_ite hs.privMove (sized_ite hs.modClkLost (sized_ite hs.adcClkLost (sized_ite hs.setB.bump.raiseEv hs)))

theorem State.Sized.execLockLost {d : Nat} {s : State} (hs : s.Sized) : SizedO (execLockLost d s) := by
  delta execLockLost
  refine sizedO_next ?_
  refine sized_ite hs.raiseEv.enterFault ?_
  refine sized_ite hs ?_
  extract_lets +onlyGivenNames y1
  have hy1 : y1.Sized := hs.setB.setB.bump
  exact hy1.raiseEv.clkConsequence

theorem State.Sized.execLockRegained {d : Nat} {s : State} (hs : s.Sized) : SizedO (execLockRegained d s) := by
  delta execLockRegained
  refine sizedO_next ?_
  refine sized_ite hs ?_
  extract_lets +onlyGivenNames y1
  have hy1 : y1.Sized := hs.setB.raiseEv
  exact sized_ite hy1.canMod (sized_ite hy1.modClkBack (sized_ite hy1.adcClkBack (sized_ite hy1.setB hy1)))

/-! #### The twin -/

theorem State.Sized.twinMod {s : State} {f : TwinSt → TwinSt} (hs : s.Sized) : (State.twinMod s f).Sized :=
  (twinMod_keeps (Keeps.refl _ _) (List.Subset.refl _)).sized hs (of_decide_eq_true rfl)

theorem State.Sized.closeService {s : State} (hs : s.Sized) : (State.closeService s).Sized := by
  delta State.closeService
  exact sized_foldl hs (fun a e ha => ha.closeSess)

theorem State.Sized.outOfStep {s : State} (hs : s.Sized) : (State.outOfStep s).Sized :=
  (outOfStep_keeps (Keeps.refl _ _) (List.Subset.refl _)).sized hs (of_decide_eq_true rfl)

theorem State.Sized.joinFail {s : State} {code : Nat} (hs : s.Sized) : (State.joinFail s code).Sized := by
  delta State.joinFail
  refine sized_ite hs ?_
  extract_lets +onlyGivenNames y1
  have hy1 : y1.Sized := hs.setF.bump.raiseEv
  extract_lets +onlyGivenNames y2
  have hy2 : y2.Sized := hy1.noSegs
  exact hy2.twinMod

theorem State.Sized.recLost {s : State} (hs : s.Sized) : (State.recLost s).Sized := by
  delta State.recLost
  extract_lets +onlyGivenNames y1
  have hy1 : y1.Sized := sized_ite hs.bump.raiseEv.outOfStep hs
  exact hy1.joinFail

theorem State.Sized.park {s : State} {reason : Nat} (hs : s.Sized) : (State.park s reason).Sized := by
  delta State.park
  extract_lets +onlyGivenNames y1
  have hy1 : y1.Sized := hs.setF.goto.raiseEv
  exact hy1.dropSolve.closeService.outOfStep.twinMod

theorem State.Sized.standDown {s : State} (hs : s.Sized) : (State.standDown s).Sized := by
  delta State.standDown
  extract_lets +onlyGivenNames y1
  have hy1 : y1.Sized := hs.goto.standbyHold.dropSolve.closeService.outOfStep
  exact hy1.withLnch.twinMod

theorem State.Sized.standbyQuality {s : State} {q : Nat} (hs : s.Sized) : (State.standbyQuality s q).Sized := by
  delta State.standbyQuality
  exact sized_ite hs hs.setQuality

theorem State.Sized.digestOne {s : State} {f : Nat} {mine : Nat} {theirs : Nat} (hs : s.Sized) : (State.digestOne s f mine theirs).Sized := by
  delta State.digestOne
  extract_lets +onlyGivenNames y1
  have hy1 : y1.Sized := hs.twinMod
  exact sized_ite hy1.twinMod (sized_ite hy1.bump.raiseEv.outOfStep hy1)

theorem State.Sized.digestCheck {s : State} (hs : s.Sized) : (State.digestCheck s).Sized := by
  delta State.digestCheck
  refine sized_ite hs ?_
  refine sized_foldl ?_ (fun a e ha => ?_)
  · exact hs
  · split
    · exact ha.digestOne
    · exact ha

theorem State.Sized.withdraw {s : State} (hs : s.Sized) : (State.withdraw s).Sized :=
  (withdraw_keeps (Keeps.refl _ _) (List.Subset.refl _)).sized hs (of_decide_eq_true rfl)

theorem State.Sized.segTable {s : State} {f : Nat} (hs : s.Sized) : (State.segTable s f).Sized := by
  delta State.segTable
  refine sized_foldl ?_ (fun a e ha => ?_)
  · extract_lets +onlyGivenNames y1
    have hy1 : y1.Sized := hs.wr
    exact hy1.noSegs
  · exact ha.trecSet

theorem State.Sized.joinBegin {s : State} {f : Nat} (hs : s.Sized) : (State.joinBegin s f).Sized := by
  delta State.joinBegin
  exact hs.segTable.twinMod

theorem State.Sized.hbTime {s : State} {h : Heartbeat} (hs : s.Sized) : (State.hbTime s h).Sized := by
  delta State.hbTime
  refine sized_ite ?_ ?_
  · extract_lets +onlyGivenNames y1 y2 y3 y4
    have hy4 : y4.Sized := hs.timeEval.wr.timeMod (by rfl)
    exact hy4.timeEval.timeOffset
  · exact hs

theorem State.Sized.hbJoin {s : State} {h : Heartbeat} (hs : s.Sized) : (State.hbJoin s h).Sized := by
  delta State.hbJoin
  exact sized_ite (sized_ite hs.joinBegin (sized_ite hs.noSegs.twinMod hs)) (sized_ite hs.twinMod hs)

theorem State.Sized.execHeartbeatRx {h : Heartbeat} {s : State} (hs : s.Sized) : SizedO (execHeartbeatRx h s) := by
  delta execHeartbeatRx
  refine sizedO_next ?_
  refine sized_ite hs ?_
  extract_lets +onlyGivenNames y1 y2 y3
  have hy3 : y3.Sized := hs.twinMod
  extract_lets +onlyGivenNames y4
  have hy4 : y4.Sized := sized_ite hy3.withdraw hy3
  extract_lets +onlyGivenNames y5
  have hy5 : y5.Sized := hy4.hbTime.hbJoin
  extract_lets +onlyGivenNames y6
  exact (sized_ite hy5.recLost hy5).digestCheck

theorem State.Sized.execHeartbeatMiss {path : Nat} {s : State} (hs : s.Sized) : SizedO (execHeartbeatMiss path s) := by
  delta execHeartbeatMiss
  refine sizedO_next ?_
  refine sized_ite hs ?_
  extract_lets +onlyGivenNames y1
  have hy1 : y1.Sized := hs.bump
  exact sized_ite hy1.timeEval.standbyHold hy1

theorem State.Sized.execPartnerLost {s : State} (hs : s.Sized) : SizedO (execPartnerLost s) := by
  delta execPartnerLost
  refine sizedO_next ?_
  extract_lets +onlyGivenNames y1 y2
  exact sized_ite hs.twinMod.raiseEv.joinFail hs

theorem State.Sized.joinStopped {s : State} (hs : s.Sized) : (State.joinStopped s).Sized := by
  delta State.joinStopped
  exact sized_ite hs hs.joinFail

theorem State.Sized.execFailureDeclare {s : State} (hs : s.Sized) : SizedO (execFailureDeclare s) := by
  delta execFailureDeclare
  refine sizedO_next ?_
  refine sized_ite ?_ ?_
  · extract_lets +onlyGivenNames y1
    have hy1 : y1.Sized := hs.twinMod
    exact sized_ite hy1 hy1.joinStopped
  · exact hs

theorem State.Sized.execIsolationCheck {s : State} (hs : s.Sized) : SizedO (execIsolationCheck s) := by
  delta execIsolationCheck
  refine sizedO_next ?_
  refine sized_ite hs ?_
  refine sized_ite hs.twinMod ?_
  refine sized_ite ?_ ?_
  · extract_lets +onlyGivenNames y1
    have hy1 : y1.Sized := hs.joinStopped.twinMod
    exact sized_ite hy1 hy1.bump.raiseEv
  · exact hs.twinMod

theorem State.Sized.gapGrace {s : State} (hs : s.Sized) : (State.gapGrace s).Sized := by
  delta State.gapGrace
  extract_lets +onlyGivenNames y1 y2
  have hy2 : y2.Sized := by
    unfold y2
    refine sized_foldl ?_ (fun a e ha => ?_)
    · exact hs
    · split
      · exact ha
      · exact sized_ite ha.nodeMod ha
  exact hy2.canMod.canMod

theorem State.Sized.gapLaunches {s : State} (hs : s.Sized) : (State.gapLaunches s).Sized := by
  delta State.gapLaunches
  refine sized_foldl ?_ (fun a e ha => ?_)
  · exact hs
  · extract_lets +onlyGivenNames y1
    exact sized_ite ha ha.lnchLate

theorem State.Sized.takeSessions {s : State} (hs : s.Sized) : (State.takeSessions s).Sized := by
  delta State.takeSessions
  refine sized_foldl ?_ (fun a e ha => ?_)
  · exact hs
  · extract_lets +onlyGivenNames y1
    have hy1 : y1.Sized := ha.sessMod
    exact sized_ite hy1.sendNotify hy1

theorem State.Sized.arpSend {s : State} {p : Nat} (hs : s.Sized) : (State.arpSend s p).Sized :=
  (arpSend_keeps (Keeps.refl _ _) (List.Subset.refl _)).sized hs (of_decide_eq_true rfl)

theorem State.Sized.takeOver {s : State} (hs : s.Sized) : (State.takeOver s).Sized := by
  delta State.takeOver
  extract_lets +onlyGivenNames y1
  have hy1 : y1.Sized := hs.gapGrace
  extract_lets +onlyGivenNames y2
  have hy2 : y2.Sized := hy1.twinMod
  extract_lets +onlyGivenNames y3
  have hy3 : y3.Sized := hy2.wr.goto
  extract_lets +onlyGivenNames y4
  have hy4 : y4.Sized := hy3.bump.wr.wr
  extract_lets +onlyGivenNames y5
  have hy5 : y5.Sized := sized_foldl hy4 (fun a e ha => (sized_foldl ha (fun a e ha => ha.canWithdraw)).canMod)
  extract_lets +onlyGivenNames y6
  have hy6 : y6.Sized := hy5.prpSupervise.arpSend.arpSend.privTakeover
  have h7 := hy6.gapLaunches.takeSessions
  generalize y6.gapLaunches.takeSessions = z at h7 ⊢
  extract_lets +onlyGivenNames y7
  have hy7 : y7.Sized := h7.timeMod (by rfl)
  exact hy7.timeEval.servoHold.raiseEv

theorem State.Sized.execTakeover {s : State} (hs : s.Sized) : SizedO (execTakeover s) := by
  delta execTakeover
  exact sizedO_next (sized_ite hs.tickEarly.takeOver hs)

theorem State.Sized.execInputRecordRx {r : InRec} {s : State} (hs : s.Sized) : SizedO (execInputRecordRx r s) := by
  delta execInputRecordRx
  refine sizedO_next ?_
  refine sized_ite hs ?_
  extract_lets +onlyGivenNames y1
  have hy1 : y1.Sized := sized_ite hs.wr hs
  extract_lets +onlyGivenNames y2
  have hy2 : y2.Sized := hy1.standbyQuality
  refine sized_ite hy2 ?_
  refine sized_ite hy2.recLost ?_
  refine sized_ite hy2 ?_
  extract_lets +onlyGivenNames y3
  have hy3 : y3.Sized := hy2.twinMod
  exact sized_ite hy3.joinFail hy3

theorem State.Sized.execRecLost {s : State} (hs : s.Sized) : SizedO (execRecLost s) := by
  delta execRecLost
  refine sizedO_next ?_
  split
  · exact hs
  · exact sized_ite hs.recLost hs

theorem State.Sized.execRecordNotClosed {s : State} (hs : s.Sized) : SizedO (execRecordNotClosed s) := by
  delta execRecordNotClosed
  exact sizedO_next (sized_ite hs.enterFault hs)

theorem State.Sized.execBeaconRx {b : Beacon} {s : State} (hs : s.Sized) : SizedO (execBeaconRx b s) := by
  delta execBeaconRx
  refine sizedO_next ?_
  refine sized_ite hs ?_
  extract_lets +onlyGivenNames y1 y2
  have hy2 : y2.Sized := hs.rxFrame.twinMod
  exact sized_ite hy2.twinMod.bump.raiseEv hy2

theorem State.Sized.twinSwitchCmd {s : State} (hs : s.Sized) : (twinSwitchCmd s).1.Sized := by
  delta twinSwitchCmd
  exact sized_iteP (sized_fst hs.emit.standDown) (sized_fst hs)

theorem State.Sized.execTwinSwitch {s : State} (hs : s.Sized) : SizedO (execTwinSwitch s) := by
  delta execTwinSwitch
  exact sizedO_next hs.twinSwitchCmd

theorem State.Sized.joinStart {s : State} (hs : s.Sized) : (State.joinStart s).Sized := by
  delta State.joinStart
  extract_lets +onlyGivenNames y1
  have hy1 : y1.Sized := hs.joinBegin
  exact sized_ite hy1 hy1.joinFail

theorem State.Sized.twinJoinCmd {s : State} (hs : s.Sized) : (twinJoinCmd s).1.Sized := by
  delta twinJoinCmd
  exact sized_iteP (sized_fst hs) (sized_iteP (sized_fst hs.joinStart) (sized_fst hs))

theorem State.Sized.execTwinJoin {s : State} (hs : s.Sized) : SizedO (execTwinJoin s) := by
  delta execTwinJoin
  exact sizedO_next hs.twinJoinCmd

theorem State.Sized.execJoinStart {s : State} (hs : s.Sized) : SizedO (execJoinStart s) := by
  delta execJoinStart
  refine sizedO_next ?_
  split
  · exact hs
  · exact sized_ite hs.joinStart hs

theorem State.Sized.twinAbandonCmd {s : State} (hs : s.Sized) : (twinAbandonCmd s).Sized := by
  delta twinAbandonCmd
  exact hs.joinFail

theorem State.Sized.execAbandon {s : State} (hs : s.Sized) : SizedO (execAbandon s) := by
  delta execAbandon
  exact sizedO_next hs.twinAbandonCmd

theorem State.Sized.execJoinTimeout {s : State} (hs : s.Sized) : SizedO (execJoinTimeout s) := by
  delta execJoinTimeout
  refine sizedO_next ?_
  split
  · exact hs
  · exact sized_ite hs.joinFail hs

theorem State.Sized.execSegmentCommit {seg : Nat} {ok : Bool} {size : Nat} {crc : Word} {d : SegData} {s : State} (hs : s.Sized)
    (hd : SegData.wf d = true) : SizedO (execSegmentCommit seg ok size crc d s) := by
  delta execSegmentCommit
  refine sizedO_next ?_
  refine sized_ite hs ?_
  extract_lets +onlyGivenNames y1 y2
  have hy2 : y2.Sized := hs.tset.twr.twr
  refine sized_ite ?_ ?_
  · extract_lets +onlyGivenNames y3
    have hy3 : y3.Sized := hy2.tset
    extract_lets +onlyGivenNames y4
    have hy4 : y4.Sized := hy3.withSegs (fun e he => (List.mem_append.1 he).elim (hy2.segs e) fun h => List.eq_of_mem_singleton h ▸ hd)
    exact sized_ite hy4.metNvMod hy4
  · exact sized_ite hy2.tset.joinFail hy2.tset

/-- What a copy holds, or the part's own where it holds none. -/
theorem getD_of_all {α : Type} {o : Option α} {b : α} {p : α → Bool} (h : o.all p = true) (hb : p b = true) : p (o.getD b) = true := by
  cases o with
  | none => exact hb
  | some a => exact h

/-- Sessions 6 and 7 stay the module's own (R475). -/
theorem HostSt.copy_length {a b : HostSt} (ha : a.sess.length = 8) (hb : b.sess.length = 8) : (a.copy b).sess.length = 8 := by
  simp only [HostSt.copy, List.length_append, List.length_take, List.length_drop, ha, hb]
  decide

/-- A copy of the shape of a module's state laid over it keeps the lengths (R475). -/
theorem State.Sized.overlay {s : State} {d : SegData} (hs : s.Sized) (hd : SegData.wf d = true) : (State.overlay s d).Sized := by
  simp only [SegData.wf, Bool.and_eq_true] at hd
  obtain ⟨⟨⟨⟨⟨⟨hhost, hicu⟩, hcan⟩, hcpe⟩, hnv⟩, hmet⟩, hmodel⟩ := hd
  have icu := getD_of_all hicu (b := s.icu) (by simp [hs.stack, hs.pres])
  have model := getD_of_all hmodel (b := s.model) (by simp [hs.thmAt, hs.arrAt])
  simp only [Bool.and_eq_true, beq_iff_eq] at icu model
  obtain ⟨stack, pres⟩ := icu
  obtain ⟨thmAt, arrAt⟩ := model
  refine ⟨?_, stack, pres, hs.ports, ?_, beq_iff_eq.1 (getD_of_all hcan (beq_iff_eq.2 hs.can)), hs.settle, hs.conv,
    beq_iff_eq.1 (getD_of_all hmet (beq_iff_eq.2 hs.pts)), beq_iff_eq.1 (getD_of_all hcpe (beq_iff_eq.2 hs.cpe)),
    beq_iff_eq.1 (getD_of_all hnv (beq_iff_eq.2 hs.cpeNv)), thmAt, arrAt, hs.segs⟩
  · simp only [State.overlay]
    split
    · rename_i y e
      rw [e] at hhost
      exact HostSt.copy_length hs.sess (beq_iff_eq.1 hhost)
    · exact hs.sess
  · simp only [State.overlay]
    split
    · exact hs.lines
    · exact hs.lines

theorem State.Sized.execReplayEnd {d : SegData} {s : State} (hs : s.Sized) (hd : SegData.wf d = true) : SizedO (execReplayEnd d s) := by
  delta execReplayEnd
  refine sizedO_next ?_
  refine sized_ite hs ?_
  extract_lets +onlyGivenNames y1
  have hy1 : y1.Sized := (sized_foldl_mem hs (fun a e he ha => ha.overlay (hs.segs e he))).overlay hd
  extract_lets +onlyGivenNames y2
  exact hy1.twinMod

theorem State.Sized.execJoinDone {s : State} (hs : s.Sized) : SizedO (execJoinDone s) := by
  delta execJoinDone
  refine sizedO_next ?_
  refine sized_ite hs ?_
  refine sized_ite ?_ ?_
  · extract_lets +onlyGivenNames y1
    have hy1 : y1.Sized := hs.twinMod
    extract_lets +onlyGivenNames y2
    have hy2 : y2.Sized := by
      unfold y2
      split
      · exact hy1.wr
      · exact hy1.wr
      · exact hy1
    extract_lets +onlyGivenNames y3
    have hy3 : y3.Sized := by
      unfold y3
      split
      · exact hy2.wr
      · exact hy2
    exact hy3.bump.raiseEv
  · exact sized_ite hs.twinMod.bump.raiseEv hs

theorem State.Sized.discardState {s : State} (hs : s.Sized) : (State.discardState s).Sized :=
  ⟨hs.sess, hs.stack, hs.pres, hs.ports, hs.lines, hs.can, hs.settle, hs.conv, rfl, (List.length_map ..).trans hs.cpe, (List.length_map ..).trans
    hs.cpeNv,
    rfl, rfl, hs.segs⟩

theorem State.Sized.parkCmd {s : State} (hs : s.Sized) : (parkCmd s).1.Sized :=
  (parkCmd_keeps (Keeps.refl _ _) (List.Subset.refl _)).sized hs (of_decide_eq_true rfl)

theorem State.Sized.unparkCmd {s : State} (hs : s.Sized) : (unparkCmd s).1.Sized :=
  (unparkCmd_keeps (Keeps.refl _ _) (List.Subset.refl _)).sized hs (of_decide_eq_true rfl)

theorem State.Sized.unparkDiscardCmd {s : State} (hs : s.Sized) : (unparkDiscardCmd s).1.Sized :=
  (unparkDiscardCmd_keeps (Keeps.refl _ _) (List.Subset.refl _)).sized hs (of_decide_eq_true rfl)

theorem State.Sized.leavePark {s : State} {discard : Bool} (hs : s.Sized) : (State.leavePark s discard).Sized := by
  delta State.leavePark
  extract_lets +onlyGivenNames y1
  have hy1 : y1.Sized := sized_ite hs.discardState hs
  extract_lets +onlyGivenNames y2
  have hy2 : y2.Sized := hy1.setF.setF.setF.goto
  extract_lets +onlyGivenNames y3
  have hy3 : y3.Sized := sized_foldl hy2 (fun a e ha => ha.canMod)
  exact hy3.withDev.raiseEv

theorem State.Sized.controlAct {s : State} (hs : s.Sized) : (State.controlAct s).Sized := by
  delta State.controlAct
  split
  · exact hs
  · extract_lets +onlyGivenNames y1
    have hy1 : y1.Sized := hs.twinMod
    exact sized_ite (sized_ite hy1.park hy1) (sized_ite hy1.leavePark hy1)

theorem State.Sized.tamperAct {s : State} (hs : s.Sized) : (State.tamperAct s).Sized := by
  delta State.tamperAct
  extract_lets +onlyGivenNames y1
  refine sized_ite ?_ ?_
  · extract_lets +onlyGivenNames y2
    have hy2 : y2.Sized := hs.keysMod
    exact sized_ite hy2 (sized_ite hy2.park (sized_foldl hy2.goto.dropSolve.outOfStep (fun a e ha => ha.closeSess)))
  · exact sized_ite hs.goto hs

theorem State.Sized.splitAct {s : State} (hs : s.Sized) : (State.splitAct s).Sized := by
  delta State.splitAct
  refine sized_ite ?_ ?_
  · extract_lets +onlyGivenNames y1
    have hy1 : y1.Sized := hs.twinMod
    exact sized_ite hy1.park hy1
  · exact hs

theorem State.Sized.testFailed {s : State} {t : Nat} (hs : s.Sized) : (State.testFailed s t).Sized := by
  delta State.testFailed
  exact hs.twinMod.setB.raiseEv

theorem State.Sized.testPassed {s : State} {t : Nat} (hs : s.Sized) : (State.testPassed s t).Sized :=
  (testPassed_keeps (Keeps.refl _ _) (List.Subset.refl _)).sized hs (of_decide_eq_true rfl)

theorem State.Sized.testClrCmd {s : State} (hs : s.Sized) : (testClrCmd s).Sized :=
  (testClrCmd_keeps (Keeps.refl _ _) (List.Subset.refl _)).sized hs (of_decide_eq_true rfl)

theorem State.Sized.scrubDone {s : State} {t : Nat} {corr : Nat} {uncorr : Nat} (hs : s.Sized) : (State.scrubDone s t corr uncorr).Sized := by
  delta State.scrubDone
  extract_lets +onlyGivenNames y1
  have hy1 : y1.Sized := hs.bumpN.bumpN
  extract_lets +onlyGivenNames y2
  have hy2 : y2.Sized := sized_ite hy1.raiseEv hy1
  extract_lets +onlyGivenNames y3
  have hy3 : y3.Sized := hy2.twinMod
  exact sized_ite hy3.raiseEv.testFailed hy3.testPassed

theorem State.Sized.execSramScrubPass {corr : Nat} {uncorr : Nat} {s : State} (hs : s.Sized) : SizedO (execSramScrubPass corr uncorr s) := by
  delta execSramScrubPass
  refine sizedO_next ?_
  extract_lets +onlyGivenNames y1
  have hy1 : y1.Sized := hs.scrubDone.bump
  exact sized_ite hy1.enterFault hy1

theorem State.Sized.execDramScrubPass {uncorr : Nat} {s : State} (hs : s.Sized) : SizedO (execDramScrubPass uncorr s) := by
  delta execDramScrubPass
  exact sizedO_next (sized_ite hs.scrubDone hs)

theorem State.Sized.execPortLoopbackTest {fail : Nat} {s : State} (hs : s.Sized) : SizedO (execPortLoopbackTest fail s) := by
  delta execPortLoopbackTest
  refine sizedO_next ?_
  refine sized_ite hs ?_
  extract_lets +onlyGivenNames y1 y2
  have hy2 : y2.Sized := hs.bumpN.twinMod
  exact sized_ite hy2.testFailed hy2.testPassed

theorem State.Sized.readbackTest {s : State} {drivers : Nat} {lineDiff : Nat} (hs : s.Sized) : (State.readbackTest s drivers lineDiff).Sized := by
  delta State.readbackTest
  refine sized_ite hs ?_
  extract_lets +onlyGivenNames y1 y2 y3
  have hy3 : y3.Sized := hs.twinMod
  exact sized_ite hy3.testPassed (sized_ite hy3.bump.testFailed hy3)

theorem State.Sized.plausTick {s : State} {checks : List (Nat × Nat)} (hs : s.Sized) : (State.plausTick s checks).Sized :=
  (plausTick_keeps (Keeps.refl _ _) (List.Subset.refl _)).sized hs (of_decide_eq_true rfl)

theorem State.Sized.execPlausFail {inp : Nat} {s : State} (hs : s.Sized) : SizedO (execPlausFail inp s) := by
  delta execPlausFail
  refine sizedO_next ?_
  refine sized_ite ?_ ?_
  · extract_lets +onlyGivenNames y1
    have hy1 : y1.Sized := hs.twinMod
    exact hy1.bump.setF.raiseEv
  · exact hs

theorem State.Sized.execMramScrubEnd {corr : Nat} {uncorr : Nat} {s : State} (hs : s.Sized) : SizedO (execMramScrubEnd corr uncorr s) := by
  delta execMramScrubEnd
  refine sizedO_next ?_
  refine sized_ite hs ?_
  extract_lets +onlyGivenNames y1
  have hy1 : y1.Sized := hs.twinMod.wr
  extract_lets +onlyGivenNames y2
  have hy2 : y2.Sized := sized_ite hy1.raiseEv hy1
  exact sized_ite hy2.raiseEv hy2

theorem State.Sized.twinRegs {s : State} (hs : s.Sized) : (State.twinRegs s).Sized :=
  (twinRegs_keeps (Keeps.refl _ _) (List.Subset.refl _)).sized hs (of_decide_eq_true rfl)

theorem State.Sized.digestTick {s : State} (hs : s.Sized) : (State.digestTick s).Sized := by
  delta State.digestTick
  extract_lets +onlyGivenNames y1 y2 y3
  have hy3 : y3.Sized := hs.wr.wr
  extract_lets +onlyGivenNames y4
  have hy4 : y4.Sized := by
    unfold y4
    clear_value y1
    split
    · exact hs
    · refine sized_ite hs ?_
      extract_lets +onlyGivenNames y5
      have hy5 : y5.Sized := sized_ite hy3.wr hy3
      exact hy5.twinMod
  exact hy4.twinMod.digestCheck

theorem State.Sized.recNext {s : State} (hs : s.Sized) : (State.recNext s).Sized :=
  (recNext_keeps (Keeps.refl _ _) (List.Subset.refl _)).sized hs (of_decide_eq_true rfl)

theorem State.Sized.recTick {s : State} (hs : s.Sized) : (State.recTick s).Sized :=
  (recTick_keeps (Keeps.refl _ _) (List.Subset.refl _)).sized hs (of_decide_eq_true rfl)

theorem State.Sized.hbTick {s : State} (hs : s.Sized) : (State.hbTick s).Sized :=
  (hbTick_keeps (Keeps.refl _ _) (List.Subset.refl _)).sized hs (of_decide_eq_true rfl)

theorem State.Sized.frameHi {s : State} {first : Bool} (hs : s.Sized) : (State.frameHi s first).Sized :=
  (frameHi_keeps (Keeps.refl _ _) (List.Subset.refl _)).sized hs (of_decide_eq_true rfl)

theorem State.Sized.hbSend {s : State} (hs : s.Sized) : (State.hbSend s).Sized := by
  delta State.hbSend
  refine sized_ite hs ?_
  extract_lets +onlyGivenNames y1 y2 y3 y4 y5
  have hy5 : y5.Sized := sized_ite hs.emit.useFree.twinMod hs
  extract_lets +onlyGivenNames y6
  have hy6 : y6.Sized := hy5.emit
  exact sized_ite ((sized_foldl hy6 (fun a e ha => ha.txFrame.emit)).prpStep) hy6

/-! #### Publication -/

theorem State.Sized.pubMod {s : State} {f : PubSt → PubSt} (hs : s.Sized) : (State.pubMod s f).Sized :=
  (pubMod_keeps (Keeps.refl _ _) (List.Subset.refl _)).sized hs (of_decide_eq_true rfl)

theorem State.Sized.pubPut {s : State} (hs : s.Sized) : (State.pubPut s).Sized := by
  delta State.pubPut
  extract_lets +onlyGivenNames y1
  exact (sized_foldl hs (fun a e ha => sized_ite ha.rolePuts ha.rolePuts)).useFree

theorem State.Sized.pubCircuit {s : State} {c : Nat} {t : Nat × Nat × Nat} (hs : s.Sized) : (State.pubCircuit s c t).Sized :=
  (pubCircuit_keeps (Keeps.refl _ _) (List.Subset.refl _)).sized hs (of_decide_eq_true rfl)

theorem State.Sized.pubZone {s : State} {z : Nat} {t : Nat × Nat × Nat} (hs : s.Sized) : (State.pubZone s z t).Sized :=
  (pubZone_keeps (Keeps.refl _ _) (List.Subset.refl _)).sized hs (of_decide_eq_true rfl)

theorem State.Sized.pubOne {s : State} {p : PubCmd} (hs : s.Sized) : (State.pubOne s p).Sized := by
  delta State.pubOne
  extract_lets +onlyGivenNames y1
  have hy1 : y1.1.Sized := hs.enqueue
  exact sized_ite hy1.bump.pubMod hy1

theorem State.Sized.pubQueue {s : State} (hs : s.Sized) : (State.pubQueue s).Sized := by
  delta State.pubQueue
  extract_lets +onlyGivenNames y1 y2
  have hy2 : y2.Sized := sized_foldl hs (fun a e ha => ha.pubOne)
  exact sized_ite hy2.bump hy2

theorem State.Sized.setpoints {s : State} (hs : s.Sized) : (State.setpoints s).Sized := by
  delta State.setpoints
  extract_lets +onlyGivenNames y1
  have hy1 : y1.Sized := hs.pubPut
  refine sized_ite hy1 ?_
  extract_lets +onlyGivenNames y2 y3
  have hy3 : y3.Sized := sized_foldl hy1 (fun a e ha => sized_foldl ha (fun a e ha => ha.pubCircuit))
  extract_lets +onlyGivenNames y4
  have hy4 : y4.Sized := sized_foldl hy3 (fun a e ha => sized_foldl ha (fun a e ha => ha.pubZone))
  extract_lets +onlyGivenNames y5
  exact hy4.pubMod.pubQueue

theorem State.Sized.tcmdOne {s : State} {p : Nat} {k : Nat} {r : TcmdReq} (hs : s.Sized) : (State.tcmdOne s p k r).Sized := by
  delta State.tcmdOne
  extract_lets +onlyGivenNames y1
  have hy1 : y1.1.Sized := sized_iteP hs.enqueue (sized_fst hs)
  extract_lets +onlyGivenNames y2
  have hy2 : y2.Sized := hy1.cpeMod
  exact hy2.rolePuts

theorem State.Sized.tcmds {s : State} {p : Nat} (hs : s.Sized) : (State.tcmds s p).Sized := by
  delta State.tcmds
  extract_lets +onlyGivenNames y1
  exact sized_foldl hs.cpeMod (fun a e ha => ha.tcmdOne)

theorem State.Sized.closeRecord {s : State} {len : Nat} (hs : s.Sized) : (State.closeRecord s len).Sized :=
  (closeRecord_keeps (Keeps.refl _ _) (List.Subset.refl _)).sized hs (of_decide_eq_true rfl)

theorem State.Sized.execTwinRec {len : Nat} {s : State} (hs : s.Sized) : SizedO (execTwinRec len s) := by
  delta execTwinRec
  exact sizedO_next (hs.entry (fun x hx => hx.setpoints.tcmds.tcmds.closeRecord))

/-! #### Start-up -/

theorem State.Sized.cfgLoad {s : State} {c : Nat} (hs : s.Sized) : (State.cfgLoad s c).Sized :=
  (cfgLoad_keeps (Keeps.refl _ _) (List.Subset.refl _)).sized hs (of_decide_eq_true rfl)

theorem State.Sized.cfgDerive {s : State} (hs : s.Sized) : (State.cfgDerive s).Sized := by
  delta State.cfgDerive
  extract_lets +onlyGivenNames y1
  have hy1 : y1.Sized := sized_foldl hs (fun a e ha => ha.setB)
  extract_lets +onlyGivenNames y2 y3
  have hy3 : y3.Sized := (sized_foldl hy1 (fun a e ha => ha.evrSetTokens)).evrSetTokens
  extract_lets +onlyGivenNames y4
  have hy4 : y4.Sized := hy3.setF.optMod
  extract_lets +onlyGivenNames y5
  have hy5 : y5.Sized := hy4.cpeStart.cpeStart.adaptReset
  extract_lets +onlyGivenNames y6
  have hy6 : y6.Sized := hy5.modelDef.seqInfo.optCounts.modelSoftReset
  extract_lets +onlyGivenNames y7
  have hy7 : y7.Sized := sized_foldl hy6 (fun a e ha => ha.nodeInit.imgType)
  extract_lets +onlyGivenNames y8
  have hy8 : y8.Sized := hy7.groupDefs.allSlots.loopGroupFields
  extract_lets +onlyGivenNames y9
  have hy9 : y9.Sized := sized_foldl hy8 (fun a e ha => (sized_foldl ha (fun a e ha => ha.stnInit)).canTick)
  exact hy9.ptpStart.ptpStart.keyRegs.hostRegs.adcSels.aoutStat

theorem State.Sized.cfgUnpend {s : State} (hs : s.Sized) : (State.cfgUnpend s).Sized :=
  (cfgUnpend_keeps (Keeps.refl _ _) (List.Subset.refl _)).sized hs (of_decide_eq_true rfl)

theorem State.Sized.cfgUnverify {s : State} (hs : s.Sized) : (State.cfgUnverify s).Sized := by
  delta State.cfgUnverify
  extract_lets +onlyGivenNames y1
  have hy1 : y1.Sized := hs.setB
  exact sized_ite hy1.cfgUnpend.raiseEv hy1

theorem State.Sized.cfgVerifyCmd {s : State} (hs : s.Sized) : (cfgVerifyCmd s).1.Sized :=
  (cfgVerifyCmd_keeps (Keeps.refl _ _) (List.Subset.refl _)).sized hs (of_decide_eq_true rfl)

theorem State.Sized.cfgFail {s : State} {code : Nat} {off : Nat} {sub : Word} {rec_ : Word} (hs : s.Sized) :
    (State.cfgFail s code off sub rec_).Sized := by
  delta State.cfgFail
  extract_lets +onlyGivenNames y1
  have hy1 : y1.Sized := hs.wr.wr
  exact hy1.wr.setB.setB.raiseEv

theorem State.Sized.execCfgVerifyEnd {o : CfgObs} {s : State} (hs : s.Sized) : SizedO (execCfgVerifyEnd o s) := by
  delta execCfgVerifyEnd
  refine sizedO_next ?_
  refine sized_ite hs ?_
  extract_lets +onlyGivenNames y1
  refine sized_ite ?_ ?_
  · extract_lets +onlyGivenNames y2
    have hy2 : y2.Sized := hs.wr.wr.wr
    extract_lets +onlyGivenNames y3
    have hy3 : y3.Sized := hy2.wr.wr.wr
    exact hy3.setB.setB.setB.raiseEv
  · exact hs.cfgFail

theorem State.Sized.cfgWritten {s : State} (hs : s.Sized) : (State.cfgWritten s).Sized := by
  delta State.cfgWritten
  extract_lets +onlyGivenNames y1
  have hy1 : y1.Sized := hs.cfgUnverify
  exact sized_ite hy1.cfgFail hy1

theorem State.Sized.cfgSwitchCmd {s : State} (hs : s.Sized) : (cfgSwitchCmd s).1.Sized :=
  (cfgSwitchCmd_keeps (Keeps.refl _ _) (List.Subset.refl _)).sized hs (of_decide_eq_true rfl)

theorem State.Sized.cfgCancelCmd {s : State} (hs : s.Sized) : (cfgCancelCmd s).Sized :=
  (cfgCancelCmd_keeps (Keeps.refl _ _) (List.Subset.refl _)).sized hs (of_decide_eq_true rfl)

theorem State.Sized.cfgSoftReset {s : State} (hs : s.Sized) : (cfgSoftReset s).Sized := by
  delta cfgSoftReset
  exact hs.cfgUnverify

theorem State.Sized.restartNow {s : State} {cause : Nat} (hs : s.Sized) : (State.restartNow s cause).Sized :=
  (restartNow_keeps (Keeps.refl _ _) (List.Subset.refl _)).sized hs (of_decide_eq_true rfl)

theorem State.Sized.restartMet {s : State} (hs : s.Sized) : (State.restartMet s).Sized := by
  delta State.restartMet
  exact hs.lastGasp.metPowerOff.restartNow

theorem State.Sized.restartCmd {s : State} (hs : s.Sized) : (restartCmd s).Sized := by
  delta restartCmd
  refine sized_ite ?_ ?_
  · extract_lets +onlyGivenNames y1
    have hy1 : y1.Sized := hs.twinSwitchCmd
    exact hy1.withDev
  · exact hs.restartMet

theorem State.Sized.execRestart {s : State} (hs : s.Sized) : SizedO (execRestart s) := by
  delta execRestart
  exact sizedO_next hs.restartCmd

theorem State.Sized.restartPairCmd {s : State} (hs : s.Sized) : (restartPairCmd s).1.Sized := by
  delta restartPairCmd
  exact sized_iteP (sized_fst hs.restartMet) (sized_fst hs)

theorem State.Sized.execRestartPair {s : State} (hs : s.Sized) : SizedO (execRestartPair s) := by
  delta execRestartPair
  exact sizedO_next hs.restartPairCmd

theorem State.Sized.powerBase {s : State} {cause : Nat} {ms : Nat} (hs : s.Sized) : (State.powerBase s cause ms).Sized := by
  delta State.powerBase
  extract_lets +onlyGivenNames at_ act x1 x2 x3 x4 x5 x6 x7 b
  have hb : b.Sized := ⟨rfl, rfl, rfl, rfl, rfl, rfl, rfl, rfl, rfl, (List.length_map ..).trans hs.cpe, hs.cpeNv, rfl, rfl,
    fun _ he => absurd he List.not_mem_nil⟩
  clear_value b
  exact hb.setF.setF

theorem State.Sized.stepEnd {s : State} {k : Nat} {ms : Nat} (hs : s.Sized) : (State.stepEnd s k ms).Sized :=
  (stepEnd_keeps (Keeps.refl _ _) (List.Subset.refl _)).sized hs (of_decide_eq_true rfl)

theorem State.Sized.inStep {s : State} {k : Nat} (hs : s.Sized) : (State.inStep s k).Sized :=
  (inStep_keeps (Keeps.refl _ _) (List.Subset.refl _)).sized hs (of_decide_eq_true rfl)

theorem State.Sized.stepEnds {s : State} {o : BootObs} {k : Nat} {n : Nat} (hs : s.Sized) : (State.stepEnds s o k n).Sized :=
  (stepEnds_keeps (Keeps.refl _ _) (List.Subset.refl _)).sized hs (of_decide_eq_true rfl)

theorem State.Sized.bootFirmware {s : State} {o : BootObs} (hs : s.Sized) : (State.bootFirmware s o).1.Sized :=
  (bootFirmware_keeps (Keeps.refl _ _) (List.Subset.refl _)).sized hs (of_decide_eq_true rfl)

theorem State.Sized.factoryLoad {s : State} (hs : s.Sized) : (State.factoryLoad s).Sized :=
  (factoryLoad_keeps (Keeps.refl _ _) (List.Subset.refl _)).sized hs (of_decide_eq_true rfl)

theorem State.Sized.bootBank {s : State} {o : BootObs} (hs : s.Sized) : (State.bootBank s o).1.Sized :=
  (bootBank_keeps (Keeps.refl _ _) (List.Subset.refl _)).sized hs (of_decide_eq_true rfl)

theorem State.Sized.cfgActive {s : State} (hs : s.Sized) : (State.cfgActive s).Sized :=
  (cfgActive_keeps (Keeps.refl _ _) (List.Subset.refl _)).sized hs (of_decide_eq_true rfl)

theorem State.Sized.epochUp {s : State} (hs : s.Sized) : (State.epochUp s).Sized :=
  (epochUp_keeps (Keeps.refl _ _) (List.Subset.refl _)).sized hs (of_decide_eq_true rfl)

theorem State.Sized.bootLoad {s : State} (hs : s.Sized) : (State.bootLoad s).Sized := by
  delta State.bootLoad
  extract_lets +onlyGivenNames y1
  have hy1 : y1.Sized := hs.cfgLoad.cfgActive.epochUp
  extract_lets +onlyGivenNames y2
  have hy2 : y2.Sized := hy1.metRestore.cfgDerive
  exact sized_ite hy2.raiseEv hy2

theorem State.Sized.step10 {s : State} (hs : s.Sized) : (State.step10 s).Sized :=
  (step10_keeps (Keeps.refl _ _) (List.Subset.refl _)).sized hs (of_decide_eq_true rfl)

theorem State.Sized.bootSecure {s : State} {o : BootObs} (hs : s.Sized) : (State.bootSecure s o).Sized := by
  delta State.bootSecure
  extract_lets +onlyGivenNames y1
  have hy1 : y1.Sized := hs.powerBase
  extract_lets +onlyGivenNames y2
  have hy2 : y2.Sized := hy1.stepEnd.setF.bump.stepEnd
  extract_lets +onlyGivenNames y3
  have hy3 : y3.Sized := sized_ite hy2.tamperResponse hy2
  exact sized_ite hy3.zeroise.setB hy3.stepEnd

theorem State.Sized.bootRole {s : State} (hs : s.Sized) : (State.bootRole s).Sized :=
  (bootRole_keeps (Keeps.refl _ _) (List.Subset.refl _)).sized hs (of_decide_eq_true rfl)

theorem State.Sized.bootWith {o : BootObs} {r : State × Bool} (hs : r.1.Sized) : (bootWith o r).Sized := by
  obtain ⟨b, d⟩ := r
  have hb : b.Sized := hs
  cases d with
  | true =>
    refine State.Sized.bootRole ?_
    refine State.Sized.inStep ?_
    refine State.Sized.stepEnds ?_
    refine State.Sized.setB ?_
    exact State.Sized.bootLoad hb
  | false =>
    refine State.Sized.goto ?_
    refine State.Sized.raiseEv ?_
    refine State.Sized.setB ?_
    refine State.Sized.inStep ?_
    refine State.Sized.stepEnds ?_
    refine State.Sized.cfgDerive ?_
    refine State.Sized.setB ?_
    exact State.Sized.factoryLoad hb

theorem State.Sized.bootConfig {s : State} {o : BootObs} (hs : s.Sized) : (State.bootConfig s o).Sized := by
  delta State.bootConfig
  exact State.Sized.bootWith (State.Sized.bootBank (State.Sized.inStep hs))

theorem State.Sized.bootTest {s : State} {o : BootObs} (hs : s.Sized) : (State.bootTest s o).Sized := by
  delta State.bootTest
  extract_lets +onlyGivenNames y1
  have hy1 : y1.Sized := hs.stepEnd.inStep
  exact sized_ite hy1.enterFault hy1.setF.stepEnd.bootConfig

theorem State.Sized.execPowerGood {o : BootObs} {s : State} (hs : s.Sized) : SizedO (execPowerGood o s) := by
  delta execPowerGood
  extract_lets +onlyGivenNames y1
  have hy1 : y1.1.Sized := hs.bootSecure.inStep.bootFirmware
  exact sizedO_next (sized_ite hy1.enterFault hy1.bootTest)

theorem State.Sized.leadFrom {s : State} {e : Nat} (hs : s.Sized) : (State.leadFrom s e).Sized :=
  (leadFrom_keeps (Keeps.refl _ _) (List.Subset.refl _)).sized hs (of_decide_eq_true rfl)

theorem State.Sized.standBy {s : State} (hs : s.Sized) : (State.standBy s).Sized := by
  delta State.standBy
  exact hs.step10.goto

theorem State.Sized.negotiate {s : State} {o : NegObs} {p : PartnerHb} (hs : s.Sized) : (State.negotiate s o p).Sized := by
  delta State.negotiate
  refine sized_ite hs.park ?_
  refine sized_ite (sized_ite hs.leadFrom hs.park) ?_
  refine sized_ite ?_ ?_
  · exact sized_ite hs.twinKey.discardState.standBy (sized_ite hs.park.raiseEv hs.twinKey.standBy)
  · refine sized_ite ?_ ?_
    · extract_lets +onlyGivenNames y1 y2
      have hy2 : y2.Sized := hs.twinKey
      exact sized_ite hy2.leadFrom hy2.wr.standBy
    · exact hs.leadFrom

theorem State.Sized.execRoleNegotiation {o : NegObs} {s : State} (hs : s.Sized) : SizedO (execRoleNegotiation o s) := by
  delta execRoleNegotiation
  refine sizedO_next ?_
  refine sized_ite hs ?_
  extract_lets +onlyGivenNames y1
  have hy1 : y1.Sized := hs.inStep.twinMod
  split
  · extract_lets +onlyGivenNames y2
    have hy2 : y2.Sized := hy1.wr.wr
    exact sized_ite (sized_ite hy2.park (sized_ite hy2 hy2.step10)) hy2.negotiate
  · exact sized_ite hy1.park hy1

theorem State.Sized.execBootDone {s : State} (hs : s.Sized) : SizedO (execBootDone s) := by
  delta execBootDone
  refine sizedO_next ?_
  refine sized_ite ?_ ?_
  · extract_lets +onlyGivenNames y1 y2
    have hy2 : y2.Sized := (sized_ite hs hs.wr).wr.inStep
    extract_lets +onlyGivenNames y3 y4
    have hy4 : y4.Sized := hy2.withDev.setB
    exact (sized_ite hy4 hy4.goto).raiseEv
  · exact hs

theorem State.Sized.coldLoad {s : State} (hs : s.Sized) : (State.coldLoad s).Sized := by
  delta State.coldLoad
  extract_lets +onlyGivenNames mine x1 x2 x3 x4 b
  have hb : b.Sized := ⟨hs.sess, hs.stack, hs.pres, hs.ports, hs.lines, rfl, rfl, rfl, rfl, hs.cpe, hs.cpeNv, rfl, rfl, hs.segs⟩
  clear_value b
  exact hb.cfgLoad.metRestore.cfgDerive

theorem State.Sized.execTwinCold {s : State} (hs : s.Sized) : SizedO (execTwinCold s) := by
  delta execTwinCold
  refine sizedO_next ?_
  refine sized_ite ?_ ?_
  · extract_lets +onlyGivenNames y1 y2
    have hy : ∀ d ∈ y1, SegData.wf d = true := by
      intro d hd
      obtain ⟨i, _, hi⟩ := List.mem_filterMap.1 hd
      obtain ⟨l, r, e, _⟩ := List.lookup_eq_some_iff.1 hi
      exact hs.segs (i, d) (e ▸ List.mem_append_right l List.mem_cons_self)
    have hy2 : y2.Sized := ((sized_foldl_mem hs.coldLoad (fun a e he ha => ha.overlay (hy e he))).epochUp).metPowerOff
    extract_lets +onlyGivenNames y3
    have hy3 : y3.Sized := sized_foldl hy2 (fun a e ha => ha.nodeInit)
    extract_lets +onlyGivenNames y4
    have hy4 : y4.Sized := hy3.noSegs.tickEarly.takeOver
    exact hy4.twinMod.raiseEv
  · exact hs

/-! #### Overruns -/

theorem State.Sized.overrunWork {s : State} {e : Entry} {done : Nat} (hs : s.Sized) : (State.overrunWork s e done).Sized := by
  delta State.overrunWork
  exact sized_ite hs.cpeOverrun (sized_ite hs.loopsRun hs)

theorem State.Sized.execEntryDeadline {unit : Nat} {entry : Nat} {acked : Stopped} {s : State} (hs : s.Sized) :
    SizedO (execEntryDeadline unit entry acked s) := by
  delta execEntryDeadline
  refine sizedO_next ?_
  extract_lets +onlyGivenNames y1 y2
  refine sized_ite hs ?_
  extract_lets +onlyGivenNames y3
  have hy3 : y3.Sized := sized_ite hs.passEntry.overrunWork hs
  exact hy3.seqMod

theorem State.Sized.execEngineLost {e : Nat} {s : State} (hs : s.Sized) : SizedO (execEngineLost e s) := by
  delta execEngineLost
  exact sizedO_next (sized_ite hs.setF.seqMod.raiseEv.enterFault hs)

end Sys2Proof.Machine
end

section
namespace Sys2Proof.Machine

/-! #### The interrupt controller -/

theorem State.Sized.icuApply {op : IcuOp} {src : Nat} {s : State} (hs : s.Sized) : (icuApply op src s).Sized := by
  delta icuApply
  split
  · exact hs.signal
  · exact hs.signal
  · exact hs.srcSet.icuEval
  · exact hs.srcSet.srcSet.icuEval
  · exact hs.srcSet.icuEval
  · exact hs.srcSet.icuEval
  · exact hs.srcSet.icuEval

theorem State.Sized.icuWrite {op : IcuOp} {eng : Option Nat} {src : Nat} {s : State} (hs : s.Sized) : (icuWrite op eng src s).1.Sized := by
  delta icuWrite
  refine sized_iteP (sized_fst hs) ?_
  split
  · exact sized_iteP (sized_fst hs) (sized_fst hs.icuApply)
  · exact sized_iteP (sized_fst hs.bump.raiseEv) (sized_fst hs.icuApply)

theorem State.Sized.execIcuDoorbell {eng : Option Nat} {src : Nat} {s : State} (hs : s.Sized) : SizedO (execIcuDoorbell eng src s) := by
  delta execIcuDoorbell
  exact sizedO_next hs.icuWrite

theorem State.Sized.execIcuEnSet {eng : Option Nat} {src : Nat} {s : State} (hs : s.Sized) : SizedO (execIcuEnSet eng src s) := by
  delta execIcuEnSet
  exact sizedO_next hs.icuWrite

theorem State.Sized.execIcuEnClr {eng : Option Nat} {src : Nat} {s : State} (hs : s.Sized) : SizedO (execIcuEnClr eng src s) := by
  delta execIcuEnClr
  exact sizedO_next hs.icuWrite

theorem State.Sized.execIcuMaskSet {eng : Option Nat} {src : Nat} {s : State} (hs : s.Sized) : SizedO (execIcuMaskSet eng src s) := by
  delta execIcuMaskSet
  exact sizedO_next hs.icuWrite

theorem State.Sized.execIcuMaskClr {eng : Option Nat} {src : Nat} {s : State} (hs : s.Sized) : SizedO (execIcuMaskClr eng src s) := by
  delta execIcuMaskClr
  exact sizedO_next hs.icuWrite

theorem State.Sized.execIcuPendSet {eng : Option Nat} {src : Nat} {s : State} (hs : s.Sized) : SizedO (execIcuPendSet eng src s) := by
  delta execIcuPendSet
  exact sizedO_next hs.icuWrite

theorem State.Sized.execIcuPendClr {eng : Option Nat} {src : Nat} {s : State} (hs : s.Sized) : SizedO (execIcuPendClr eng src s) := by
  delta execIcuPendClr
  exact sizedO_next hs.icuWrite

theorem State.Sized.execIcuClaim {t : Nat} {s : State} (hs : s.Sized) : SizedO (execIcuClaim t s) := by
  delta execIcuClaim
  extract_lets +onlyGivenNames y1
  have hy1 : y1.1.Sized := hs.claim
  exact sizedO_next hy1.emit

theorem State.Sized.icuEoi {t : Nat} {src : Nat} {s : State} (hs : s.Sized) : (icuEoi t src s).Sized := by
  delta icuEoi
  refine sized_ite hs ?_
  extract_lets +onlyGivenNames y1
  refine sized_ite ?_ ?_
  · extract_lets +onlyGivenNames y2
    have hy2 : y2.Sized := hs.srcSet
    exact (hy2.withIcu (length_setAt ..) (by rfl)).icuEval
  · exact hs.setF.icuEval.bump.raiseEv

theorem State.Sized.execIcuEoi {t : Nat} {src : Nat} {s : State} (hs : s.Sized) : SizedO (execIcuEoi t src s) := by
  delta execIcuEoi
  exact sizedO_next hs.icuEoi

theorem State.Sized.execIcuStackReset {t : Nat} {s : State} (hs : s.Sized) : SizedO (execIcuStackReset t s) := by
  delta execIcuStackReset
  exact sizedO_next hs.stackReset

theorem State.Sized.icuTableWrite {src : Nat} {v : Word} {s : State} (hs : s.Sized) : (icuTableWrite src v s).1.Sized := by
  delta icuTableWrite
  extract_lets +onlyGivenNames y1 y2 y3
  refine sized_iteP (sized_fst hs) ?_
  refine sized_iteP (sized_fst hs) ?_
  extract_lets +onlyGivenNames y4
  have hy4 : y4.Sized := hs.srcSet.srcSet
  extract_lets +onlyGivenNames y5 y6
  have hy6 : y6.Sized := sized_ite (hy4.withIcu rfl (List.length_map ..)) hy4
  exact sized_fst hy6.icuEval

/-! #### The recorder -/

theorem State.Sized.evrFreeze {s : State} (hs : s.Sized) : (evrFreeze s).Sized :=
  (evrFreeze_keeps (Keeps.refl _ _) (List.Subset.refl _)).sized hs (of_decide_eq_true rfl)

theorem State.Sized.evrUnfreeze {s : State} (hs : s.Sized) : (evrUnfreeze s).Sized :=
  (evrUnfreeze_keeps (Keeps.refl _ _) (List.Subset.refl _)).sized hs (of_decide_eq_true rfl)

theorem State.Sized.evrClear {s : State} (hs : s.Sized) : (evrClear s).1.Sized :=
  (evrClear_keeps (Keeps.refl _ _) (List.Subset.refl _)).sized hs (of_decide_eq_true rfl)

theorem State.Sized.evrClrSupp {s : State} (hs : s.Sized) : (evrClrSupp s).Sized :=
  (evrClrSupp_keeps (Keeps.refl _ _) (List.Subset.refl _)).sized hs (of_decide_eq_true rfl)

theorem State.Sized.execFrzExpired {s : State} (hs : s.Sized) : SizedO (execFrzExpired s) := by
  delta execFrzExpired
  extract_lets +onlyGivenNames y1
  exact sizedO_next (sized_ite hs.evrUnfreeze.raiseEv hs)

theorem State.Sized.evrSoftReset {s : State} (hs : s.Sized) : (evrSoftReset s).Sized :=
  (evrSoftReset_keeps (Keeps.refl _ _) (List.Subset.refl _)).sized hs (of_decide_eq_true rfl)

theorem State.Sized.evrTableWrite {idx : Nat} {ws : List Word} {s : State} (hs : s.Sized) : (evrTableWrite idx ws s).1.Sized :=
  (evrTableWrite_keeps (Keeps.refl _ _) (List.Subset.refl _)).sized hs (of_decide_eq_true rfl)

/-! #### Writes of registers and tables -/

theorem State.Sized.plainWrite {s : State} {a : Nat} {v : Word} (hs : s.Sized) : (State.plainWrite s a v).Sized :=
  (plainWrite_keeps (Keeps.refl _ _) (List.Subset.refl _)).sized hs (of_decide_eq_true rfl)

theorem State.Sized.shadowApply {s : State} {p : Nat} (hs : s.Sized) : (State.shadowApply s p).Sized :=
  (shadowApply_keeps (Keeps.refl _ _) (List.Subset.refl _)).sized hs (of_decide_eq_true rfl)

theorem State.Sized.shadowDrop {s : State} {p : Nat} (hs : s.Sized) : (State.shadowDrop s p).Sized :=
  (shadowDrop_keeps (Keeps.refl _ _) (List.Subset.refl _)).sized hs (of_decide_eq_true rfl)

theorem State.Sized.hostRebind {s : State} (hs : s.Sized) : (State.hostRebind s).Sized := by
  delta State.hostRebind
  extract_lets +onlyGivenNames y1
  refine sized_foldl ?_ (fun a e ha => ?_)
  · exact hs
  · extract_lets +onlyGivenNames y2 y3 y4
    exact sized_ite ha.closeSess ha

theorem State.Sized.commitSide {s : State} {p : Nat} (hs : s.Sized) : (State.commitSide s p).Sized := by
  delta State.commitSide
  exact sized_ite hs.adcShort (sized_ite hs.hostRebind hs)

theorem State.Sized.commitPage {s : State} {p : Nat} (hs : s.Sized) : (State.commitPage s p).Sized := by
  delta State.commitPage
  extract_lets +onlyGivenNames y1
  have hy1 : y1.Sized := hs.withCommitDue.setB
  extract_lets +onlyGivenNames y2
  refine sized_ite ?_ ?_
  · extract_lets +onlyGivenNames y3
    have hy3 : y3.Sized := hy1.setF
    exact sized_ite hy3 hy3.raiseEv
  · extract_lets +onlyGivenNames y4 y5
    have hy5 : y5.Sized := hy1.commitSide.shadowApply.setB
    extract_lets +onlyGivenNames y6
    have hy6 : y6.Sized := sized_ite hy5.canRetimed hy5
    extract_lets +onlyGivenNames y7
    have hy7 : y7.Sized := sized_ite hy6.timeUpgrade hy6
    exact hy7.raiseEv

theorem State.Sized.execTimedCommit {page : Nat} {s : State} (hs : s.Sized) : SizedO (execTimedCommit page s) := by
  delta execTimedCommit
  refine sizedO_next ?_
  refine State.Sized.andShown ?_ ?_
  · exact hs
  · exact sized_ite hs.commitPage hs

theorem State.Sized.imageBack {s : State} {p : Nat} (hs : s.Sized) : (State.imageBack s p).Sized :=
  (imageBack_keeps (Keeps.refl _ _) (List.Subset.refl _)).sized hs (of_decide_eq_true rfl)

theorem State.Sized.srstSide {s : State} {p : Nat} {writer : Option Nat} (hs : s.Sized) : (State.srstSide s p writer).Sized := by
  delta State.srstSide
  refine sized_ite hs.cfgSoftReset ?_
  refine sized_ite hs.lnchSoftReset ?_
  refine sized_ite hs.evrSoftReset ?_
  refine sized_ite (sized_foldl hs (fun a e ha => sized_ite ha ha.closeSess)) ?_
  refine sized_ite hs.snetSoftReset ?_
  refine sized_ite hs.canSoftReset ?_
  refine sized_ite hs.adcSoftReset ?_
  refine sized_ite hs.modSoftReset ?_
  refine sized_ite hs.dioSoftReset ?_
  refine sized_ite hs.loopSoftReset ?_
  exact sized_ite hs.cpeSoftReset (sized_ite hs.modelSoftReset (sized_ite hs.optSoftReset hs))

theorem State.Sized.recCtrClear {s : State} {p : Nat} (hs : s.Sized) : (State.recCtrClear s p).Sized :=
  (recCtrClear_keeps (Keeps.refl _ _) (List.Subset.refl _)).sized hs (of_decide_eq_true rfl)

theorem State.Sized.softReset {s : State} {p : Nat} {writer : Option Nat} (hs : s.Sized) : (State.softReset s p writer).Sized := by
  delta State.softReset
  extract_lets +onlyGivenNames y1
  have hy1 : y1.Sized := hs.imageBack.shadowDrop
  extract_lets +onlyGivenNames y2
  have hy2 : y2.Sized := hy1.wr.wr
  extract_lets +onlyGivenNames y3
  have hy3 : y3.Sized := (sized_foldl hy2 (fun a e ha => ha.clearCtr)).recCtrClear
  exact hy3.srstSide

theorem State.Sized.freeze {s : State} {p : Nat} {on : Bool} (hs : s.Sized) : (State.freeze s p on).Sized :=
  (freeze_keeps (Keeps.refl _ _) (List.Subset.refl _)).sized hs (of_decide_eq_true rfl)

theorem State.Sized.evtSet {s : State} {p : Nat} {v : Word} (hs : s.Sized) : (State.evtSet s p v).Sized := by
  delta State.evtSet
  exact sized_foldl hs (fun a e ha => ha.raiseEv)

theorem State.Sized.evtClr {s : State} {p : Nat} {v : Word} (hs : s.Sized) : (State.evtClr s p v).Sized :=
  (evtClr_keeps (Keeps.refl _ _) (List.Subset.refl _)).sized hs (of_decide_eq_true rfl)

theorem State.Sized.maskSet {s : State} {p : Nat} {v : Word} (hs : s.Sized) : (State.maskSet s p v).Sized :=
  (maskSet_keeps (Keeps.refl _ _) (List.Subset.refl _)).sized hs (of_decide_eq_true rfl)

theorem State.Sized.maskClr {s : State} {p : Nat} {v : Word} (hs : s.Sized) : (State.maskClr s p v).Sized := by
  delta State.maskClr
  extract_lets +onlyGivenNames y1
  exact sized_foldl hs.wr (fun a e ha => ha.signal)

theorem State.Sized.commitWrite {s : State} {p : Nat} {v : Word} (hs : s.Sized) : (State.commitWrite s p v).Sized :=
  (commitWrite_keeps (Keeps.refl _ _) (List.Subset.refl _)).sized hs (of_decide_eq_true rfl)

theorem State.Sized.headerWrite {s : State} {p : Nat} {off : Nat} {v : Word} {writer : Option Nat} (hs : s.Sized) :
    (State.headerWrite s p off v writer).1.Sized := by
  delta State.headerWrite
  refine sized_iteP ?_ ?_
  · refine sized_iteP (sized_fst hs) ?_
    extract_lets +onlyGivenNames y1
    have hy1 : y1.Sized := hs.plainWrite.freeze
    exact sized_fst (sized_ite hy1.softReset hy1)
  · refine sized_iteP (sized_fst hs.evtSet) ?_
    refine sized_iteP (sized_fst hs.evtClr) ?_
    refine sized_iteP (sized_fst hs.maskSet) ?_
    refine sized_iteP (sized_fst hs.maskClr) ?_
    refine sized_iteP (sized_fst (sized_ite hs.wr hs)) ?_
    exact sized_iteP (sized_fst hs.commitWrite) (sized_iteP (sized_fst hs.plainWrite) (sized_fst hs))

theorem State.Sized.cmds {s : State} {v : Word} {l : List (State → State × Status)} (hs : s.Sized) (hl : ∀ f ∈ l, ∀ x, x.Sized → (f x).1.Sized) :
    (State.cmds s v l).1.Sized := by
  delta State.cmds
  have hm : ∀ e ∈ l.zipIdx.filter (fun e => wbit v e.2), ∀ x, x.Sized → (e.1 x).1.Sized := by
    intro e he
    exact hl _ (List.fst_mem_of_mem_zipIdx (List.mem_filter.1 he).1)
  generalize l.zipIdx.filter (fun e => wbit v e.2) = m at hm
  have hs' : (s, Status.ok).1.Sized := hs
  generalize (s, Status.ok) = q at hs'
  induction m generalizing q with
  | nil => exact hs'
  | cons e m ih => exact ih (fun e he => hm e (List.mem_cons_of_mem _ he)) _ (hm e (List.mem_cons_self ..) _ hs')

theorem State.Sized.always {f : State → State} {a1 : State} (hf : ∀ x, x.Sized → (f x).Sized) (ha1 : a1.Sized) : (always f a1).1.Sized := by
  delta always
  refine sized_fst ?_
  refine hf _ ?_
  exact ha1

theorem State.Sized.cmdsAt {a : Nat} {writer : Option Nat} : AllSized (cmdsAt a writer) := by
  delta cmdsAt
  refine allSized_ite ?_ ?_
  · refine allSized_cons (fun x hx => State.Sized.parkCmd hx) ?_
    refine allSized_cons (fun x hx => State.Sized.unparkCmd hx) ?_
    refine allSized_cons (fun x hx => State.Sized.unparkDiscardCmd hx) ?_
    exact allSized_nil
  refine allSized_ite ?_ ?_
  · refine allSized_cons (fun x hx => State.Sized.cfgVerifyCmd hx) ?_
    refine allSized_cons (fun x hx => State.Sized.cfgSwitchCmd hx) ?_
    refine allSized_cons (fun x hx => State.Sized.cfgCancelCmd hx) ?_
    refine allSized_cons (fun x hx => State.Sized.restartCmd hx) ?_
    refine allSized_cons (fun x hx => State.Sized.restartPairCmd hx) ?_
    exact allSized_nil
  refine allSized_ite ?_ ?_
  · refine allSized_cons (fun x hx => State.Sized.stepAccept hx) ?_
    refine allSized_cons (fun x hx => State.Sized.relearn hx) ?_
    refine allSized_cons (fun x hx => State.Sized.timeClrCnt hx) ?_
    exact allSized_nil
  refine allSized_ite ?_ ?_
  · refine allSized_cons (fun x hx => State.Sized.seqVerifyCmd hx) ?_
    refine allSized_cons (fun x hx => State.Sized.seqSwitchCmd hx) ?_
    refine allSized_cons (fun x hx => State.Sized.seqCancelCmd hx) ?_
    exact allSized_nil
  refine allSized_ite ?_ ?_
  · refine allSized_cons (fun x hx => State.Sized.evrFreeze hx) ?_
    refine allSized_cons (fun x hx => State.Sized.evrUnfreeze hx) ?_
    refine allSized_cons (fun x hx => State.Sized.evrClear hx) ?_
    refine allSized_cons (fun x hx => State.Sized.evrClrSupp hx) ?_
    exact allSized_nil
  refine allSized_ite ?_ ?_
  · refine allSized_cons (fun x hx => State.Sized.keyStageCmd hx) ?_
    refine allSized_cons (fun x hx => State.Sized.keyVerifyCmd hx) ?_
    refine allSized_cons (fun x hx => State.Sized.keyPromoteCmd hx) ?_
    refine allSized_cons (fun x hx => State.Sized.keyCancelCmd hx) ?_
    refine allSized_cons (fun x hx => State.Sized.keyRevokeCmd hx) ?_
    refine allSized_cons (fun x hx => State.Sized.keyEraseCmd hx) ?_
    exact allSized_nil
  refine allSized_ite ?_ ?_
  · refine allSized_cons (fun x hx => State.Sized.kick hx) ?_
    exact allSized_nil
  refine allSized_ite ?_ ?_
  · refine allSized_cons (fun x hx => State.Sized.twinJoinCmd hx) ?_
    refine allSized_cons (fun x hx => State.Sized.twinSwitchCmd hx) ?_
    refine allSized_cons (fun x hx => State.Sized.twinAbandonCmd hx) ?_
    exact allSized_nil
  refine allSized_ite ?_ ?_
  · refine allSized_cons (fun x hx => State.Sized.rekeyCmd hx) ?_
    refine allSized_cons (fun x hx => State.Sized.nodeAcceptCmd hx) ?_
    refine allSized_cons (fun x hx => State.Sized.nodeResetCmd hx) ?_
    refine allSized_cons (fun x hx => State.Sized.nodeClrCmd hx) ?_
    exact allSized_nil
  refine allSized_ite ?_ ?_
  · refine allSized_cons (fun x hx => State.Sized.sleepCmd hx) ?_
    refine allSized_cons (fun x hx => State.Sized.wakeCmd hx) ?_
    refine allSized_cons (fun x hx => State.Sized.stnResetCmd hx) ?_
    exact allSized_nil
  refine allSized_ite ?_ ?_
  · refine allSized_cons (fun x hx => State.Sized.sleepCmd hx) ?_
    refine allSized_cons (fun x hx => State.Sized.wakeCmd hx) ?_
    refine allSized_cons (fun x hx => State.Sized.stnResetCmd hx) ?_
    exact allSized_nil
  refine allSized_ite ?_ ?_
  · refine allSized_cons (fun x hx => State.Sized.restoreAck hx) ?_
    exact allSized_nil
  refine allSized_ite ?_ ?_
  · refine allSized_cons (fun x hx => State.Sized.tuneCmd hx) ?_
    refine allSized_cons (fun x hx => State.Sized.tuneAbortCmd hx) ?_
    refine allSized_cons (fun x hx => State.Sized.applyPropCmd hx) ?_
    exact allSized_nil
  refine allSized_ite ?_ ?_
  · refine allSized_cons (fun x hx => State.Sized.cpeVerifyCmd hx) ?_
    refine allSized_cons (fun x hx => State.Sized.cpeSwitchCmd hx) ?_
    refine allSized_cons (fun x hx => State.Sized.always (f := Machine.cpeCancelCmd 0) (fun y hy => State.Sized.cpeCancelCmd hy) hx) ?_
    refine allSized_cons (fun x hx => State.Sized.always (f := Machine.clrForces 0) (fun y hy => State.Sized.clrForces hy) hx) ?_
    exact allSized_nil
  refine allSized_ite ?_ ?_
  · refine allSized_cons (fun x hx => State.Sized.cpeVerifyCmd hx) ?_
    refine allSized_cons (fun x hx => State.Sized.cpeSwitchCmd hx) ?_
    refine allSized_cons (fun x hx => State.Sized.always (f := Machine.cpeCancelCmd 1) (fun y hy => State.Sized.cpeCancelCmd hy) hx) ?_
    refine allSized_cons (fun x hx => State.Sized.always (f := Machine.clrForces 1) (fun y hy => State.Sized.clrForces hy) hx) ?_
    exact allSized_nil
  refine allSized_ite ?_ ?_
  · refine allSized_cons (fun x hx => State.Sized.bankVerify hx) ?_
    refine allSized_cons (fun x hx => State.Sized.bankSwitch hx) ?_
    refine allSized_cons (fun x hx => State.Sized.bankCancel hx) ?_
    refine allSized_cons (fun x hx => State.Sized.adaptReset hx) ?_
    refine allSized_cons (fun x hx => State.Sized.parcelReset hx) ?_
    exact allSized_nil
  refine allSized_ite ?_ ?_
  · refine allSized_cons (fun x hx => State.Sized.bankVerify hx) ?_
    refine allSized_cons (fun x hx => State.Sized.bankSwitch hx) ?_
    refine allSized_cons (fun x hx => State.Sized.bankCancel hx) ?_
    refine allSized_cons (fun x hx => State.Sized.optFallbackCmd hx) ?_
    exact allSized_nil
  refine allSized_ite ?_ ?_
  · refine allSized_cons (fun x hx => State.Sized.privArmCmd hx) ?_
    refine allSized_cons (fun x hx => State.Sized.privDisarmCmd hx) ?_
    refine allSized_cons (fun x hx => State.Sized.resetTripCmd hx) ?_
    exact allSized_nil
  refine allSized_ite ?_ ?_
  · refine allSized_cons (fun x hx => State.Sized.testClrCmd hx) ?_
    exact allSized_nil
  exact allSized_none

theorem State.Sized.ctrClear {s : State} {a : Nat} {v : Word} (hs : s.Sized) : (State.ctrClear s a v).Sized :=
  (ctrClear_keeps (Keeps.refl _ _) (List.Subset.refl _)).sized hs (of_decide_eq_true rfl)

theorem State.Sized.clearSide {s : State} {a : Nat} {v : Word} (hs : s.Sized) : (State.clearSide s a v).Sized :=
  (clearSide_keeps (Keeps.refl _ _) (List.Subset.refl _)).sized hs (of_decide_eq_true rfl)

theorem State.Sized.icuPage {s : State} {a : Nat} {v : Word} (hs : s.Sized) : (State.icuPage s a v).1.Sized := by
  delta State.icuPage
  extract_lets +onlyGivenNames y1
  refine sized_iteP hs.icuWrite ?_
  refine sized_iteP hs.icuWrite ?_
  refine sized_iteP hs.icuWrite ?_
  refine sized_iteP hs.icuWrite ?_
  refine sized_iteP hs.icuWrite ?_
  refine sized_iteP hs.icuWrite ?_
  refine sized_iteP hs.icuWrite ?_
  refine sized_iteP (sized_fst hs.icuEoi) ?_
  exact sized_iteP (sized_fst hs.stackReset) (sized_fst hs.plainWrite.ctrClear.icuEval)

theorem State.Sized.wrote {s : State} {a : Nat} {old : Word} {v : Word} (hs : s.Sized) : (State.wrote s a old v).Sized := by
  delta State.wrote
  refine sized_ite hs.servoHold ?_
  refine sized_ite hs.ptpStart ?_
  refine sized_ite hs.ptpDecide ?_
  refine sized_ite (sized_ite hs.lineDown hs) ?_
  refine sized_ite (sized_ite hs hs.leadChanged) ?_
  refine sized_ite ?_ ?_
  · extract_lets +onlyGivenNames y1
    exact sized_ite hs.canMod (sized_ite hs.privMove hs)
  · refine sized_ite hs.adcChsel ?_
    refine sized_ite hs.metShort ?_
    refine sized_ite hs.tuneAbort ?_
    refine sized_ite ?_ ?_
    · extract_lets +onlyGivenNames y2
      have hy2 : y2.Sized := sized_ite hs.modelEnChanged hs
      exact sized_ite hy2 hy2.arrEnChanged
    · exact hs

theorem State.Sized.blockWrite {s : State} {a : Nat} {v : Word} {writer : Option Nat} (hs : s.Sized) : (State.blockWrite s a v writer).1.Sized := by
  delta State.blockWrite
  split
  · rename_i l e
    exact State.Sized.cmds hs (State.Sized.cmdsAt l e)
  · refine sized_iteP (State.Sized.icuPage hs) ?_
    refine sized_iteP (sized_iteP hs (sized_iteP hs (State.Sized.plainWrite hs))) ?_
    refine sized_iteP hs ?_
    refine sized_iteP (State.Sized.dioDoWrite hs) ?_
    refine sized_iteP (State.Sized.dioDoWrite hs) ?_
    refine sized_iteP (State.Sized.dioOcClr hs) ?_
    refine sized_iteP (State.Sized.loopHoldSet hs) ?_
    refine sized_iteP (State.Sized.loopHoldClr hs) ?_
    refine sized_iteP hs ?_
    refine sized_iteP hs ?_
    refine sized_iteP hs ?_
    exact (State.Sized.plainWrite hs).ctrClear.clearSide.wrote

theorem State.Sized.wordWrite {s : State} {writer : Option Nat} {a : Nat} {v : Word} (hs : s.Sized) : (State.wordWrite s writer a v).1.Sized := by
  delta State.wordWrite
  exact sized_iteP (sized_fst hs) (sized_iteP hs.headerWrite hs.blockWrite)

theorem State.Sized.regsWrite {s : State} {writer : Option Nat} {ws : List (Nat × Word)} (hs : s.Sized) :
    (State.regsWrite s writer ws).1.Sized := by
  delta State.regsWrite
  extract_lets +onlyGivenNames y1
  have hy1 : y1.1.Sized := by
    unfold y1
    refine sized_foldlP ?_ (fun a e ha => ?_)
    · exact sized_fst hs
    · extract_lets +onlyGivenNames y2
      have hy2 : y2.1.Sized := ha.wordWrite
      exact sized_fst hy2
  split
  · exact sized_fst hy1
  · exact sized_fst hs

theorem State.Sized.commitNow {s : State} {resets : List Nat} (hs : s.Sized) : (State.commitNow s resets).Sized := by
  delta State.commitNow
  exact sized_foldl hs (fun a e ha => sized_ite ha.setB (sized_ite ha.commitPage (sized_ite ha.commitPage ha)))

theorem State.Sized.armWords {s : State} {resets : List Nat} {ws : List (Nat × Word)} (hs : s.Sized) : (State.armWords s resets ws).Sized := by
  delta State.armWords
  refine sized_ite hs ?_
  refine sized_foldl ?_ (fun a e ha => ?_)
  · exact hs
  · refine sized_ite ?_ ?_
    · extract_lets +onlyGivenNames y1
      exact sized_ite ha.disarmCmd (sized_ite ha.armCmd ha)
    · exact ha

theorem State.Sized.evtWin {s : State} {p : Nat} {b : Nat} (hs : s.Sized) : (State.evtWin s p b).Sized := by
  delta State.evtWin
  split
  · exact hs
  · extract_lets +onlyGivenNames y1
    have hy1 : y1.Sized := hs.setF
    extract_lets +onlyGivenNames y2 y3
    have hy3 : y3.Sized := hy1.withIcu (by rfl) (by rfl)
    exact sized_ite hy3.signal hy3

theorem State.Sized.evtWins {s : State} {ws : List (Nat × Word)} (hs : s.Sized) : (State.evtWins s ws).Sized := by
  delta State.evtWins
  exact sized_foldl hs (fun a e ha => sized_foldl ha (fun a e ha => ha.evtWin))

theorem State.Sized.writeNow {s : State} {ws : List (Nat × Word)} (hs : s.Sized) : (State.writeNow s ws).Sized := by
  delta State.writeNow
  refine sized_ite hs ?_
  extract_lets +onlyGivenNames y1
  have hy1 : y1.1.Sized := hs.regsWrite
  refine sized_ite hs ?_
  extract_lets +onlyGivenNames y2 y3
  have hy3 : y3.Sized := sized_foldl hy1.evtWins (fun a e ha => sized_ite ha.commitPage ha)
  exact hy3.armWords

theorem State.Sized.execRegisterWrite {addr : Nat} {v : Word} {s : State} (hs : s.Sized) : SizedO (execRegisterWrite addr v s) := by
  delta execRegisterWrite
  exact sizedO_next hs.writeNow

theorem State.Sized.execSrst {page : Nat} {s : State} (hs : s.Sized) : SizedO (execSrst page s) := by
  delta execSrst
  exact sizedO_next hs.writeNow

theorem State.Sized.execFreeze {page : Nat} {on : Bool} {s : State} (hs : s.Sized) : SizedO (execFreeze page on s) := by
  delta execFreeze
  exact sizedO_next hs.writeNow

theorem State.Sized.execFrzTmo {page : Nat} {s : State} (hs : s.Sized) : SizedO (execFrzTmo page s) := by
  delta execFrzTmo
  refine sizedO_next ?_
  split
  · exact sized_ite hs.setB.freeze.raiseEv hs
  · exact hs

theorem State.Sized.execCommit {page : Nat} {v : Word} {s : State} (hs : s.Sized) : SizedO (execCommit page v s) := by
  delta execCommit
  exact sizedO_next hs.writeNow

theorem State.Sized.execDiscard {page : Nat} {s : State} (hs : s.Sized) : SizedO (execDiscard page s) := by
  delta execDiscard
  exact sizedO_next hs.writeNow

theorem State.Sized.execPgEvtSet {page : Nat} {v : Word} {s : State} (hs : s.Sized) : SizedO (execPgEvtSet page v s) := by
  delta execPgEvtSet
  exact sizedO_next hs.writeNow

theorem State.Sized.execPgEvtClr {page : Nat} {v : Word} {s : State} (hs : s.Sized) : SizedO (execPgEvtClr page v s) := by
  delta execPgEvtClr
  exact sizedO_next hs.writeNow

theorem State.Sized.execPgMaskSet {page : Nat} {v : Word} {s : State} (hs : s.Sized) : SizedO (execPgMaskSet page v s) := by
  delta execPgMaskSet
  exact sizedO_next hs.writeNow

theorem State.Sized.execPgMaskClr {page : Nat} {v : Word} {s : State} (hs : s.Sized) : SizedO (execPgMaskClr page v s) := by
  delta execPgMaskClr
  exact sizedO_next hs.writeNow

theorem State.Sized.execCounterClear {addr : Nat} {v : Word} {s : State} (hs : s.Sized) : SizedO (execCounterClear addr v s) := by
  delta execCounterClear
  exact sizedO_next (sized_ite hs.writeNow hs)

theorem State.Sized.recordShadow {s : State} {t : TableInfo} {idx : Nat} {ws : List Word} (hs : s.Sized) : (State.recordShadow s t idx ws).Sized :=
  (recordShadow_keeps (Keeps.refl _ _) (List.Subset.refl _)).sized hs (of_decide_eq_true rfl)

theorem State.Sized.credWrite {s : State} {t : TableInfo} {idx : Nat} {ws : List Word} (hs : s.Sized) : (State.credWrite s t idx ws).Sized := by
  delta State.credWrite
  extract_lets +onlyGivenNames y1
  have hy1 : y1.Sized := hs.writeRecord
  exact sized_ite (sized_foldl hy1 (fun a e ha => sized_ite ha.closeSess ha)) hy1

theorem State.Sized.tableWrite {s : State} {t : TableInfo} {idx : Nat} {ws : List Word} (hs : s.Sized) : (State.tableWrite s t idx ws).1.Sized := by
  delta State.tableWrite
  extract_lets +onlyGivenNames y1
  refine sized_iteP (sized_fst hs) ?_
  refine sized_iteP ?_ ?_
  · exact sized_iteP (sized_fst hs) (sized_fst hs.writeRecord.cfgWritten)
  · refine sized_iteP ?_ ?_
    · exact sized_iteP (sized_fst hs) (sized_fst hs.writeRecord.seqWritten)
    · refine sized_iteP hs.icuTableWrite ?_
      refine sized_iteP hs.evrTableWrite ?_
      refine sized_iteP (sized_fst hs.credWrite) ?_
      refine sized_iteP ?_ ?_
      · extract_lets +onlyGivenNames y2
        exact sized_fst hs.writeRecord.nodeTableWrite
      · refine sized_iteP ?_ ?_
        · extract_lets +onlyGivenNames y3
          exact sized_iteP (sized_fst hs.writeRecord.canObjWritten) (sized_fst hs)
        · refine sized_iteP ?_ ?_
          · extract_lets +onlyGivenNames y4
            exact sized_iteP (sized_fst hs.writeRecord.stnInit) (sized_fst hs)
          · refine sized_iteP (sized_fst hs.recordShadow) ?_
            refine sized_iteP (sized_iteP (sized_fst hs.recordShadow) (sized_fst hs)) ?_
            refine sized_iteP (sized_iteP (sized_fst hs.groupWrite) (sized_fst hs)) ?_
            refine sized_iteP hs.cpeBankWrite ?_
            refine sized_iteP hs.cpeBankWrite ?_
            refine sized_iteP (sized_fst hs.forceWrite) ?_
            refine sized_iteP (sized_fst hs.forceWrite) ?_
            exact sized_iteP hs.modelTableWrite (sized_iteP hs.optTableWrite (sized_fst hs.writeRecord))

theorem State.Sized.queueOne {acc : QueueOut} {q : HReq} (hacc : acc.1.Sized) : (queueOne acc q).1.Sized := by
  delta queueOne
  extract_lets +onlyGivenNames y1
  have hy1 : y1.Sized := hacc
  split
  · extract_lets +onlyGivenNames y2
    have hy2 : y2.1.Sized := hy1.regsWrite
    exact sized_fst ((sized_ite hy2.evtWins hy2).respondTo)
  · split
    · exact hacc
    · refine sized_iteP ?_ ?_
      · refine sized_iteP (sized_fst hy1.respondTo) ?_
        refine sized_iteP (sized_fst hy1.respondTo) ?_
        extract_lets +onlyGivenNames y3
        have hy3 : y3.Sized := hy1.loopWordWrite
        exact sized_iteP (sized_fst hy3.respondTo) (sized_fst hy3)
      · refine sized_iteP ?_ ?_
        · exact sized_iteP (sized_fst hy1.respondTo) (sized_iteP (sized_fst hy1.respondTo) (sized_fst (hy1.hostMod (by rfl))))
        · extract_lets +onlyGivenNames y4
          have hy4 : y4.1.Sized := hy1.tableWrite
          exact sized_fst hy4.respondTo
  · exact hacc

theorem State.Sized.queueTick {s : State} (hs : s.Sized) : (State.queueTick s).Sized := by
  delta State.queueTick
  extract_lets +onlyGivenNames q r
  have hr : r.1.Sized := by
    refine sized_foldlP (y := (s.hostMod _, [], [])) ?_ (fun a e ha => State.Sized.queueOne ha)
    exact sized_fst (State.Sized.hostMod hs (by rfl))
  clear_value r
  exact (State.Sized.hostMod hr (by rfl)).commitNow.armWords

/-! #### The tick -/

theorem State.Sized.hfEnd {s : State} {q : SeqSt} (hs : s.Sized) : (State.hfEnd s q).Sized := by
  delta State.hfEnd
  extract_lets +onlyGivenNames y1
  have hy1 : y1.Sized := hs.wr
  extract_lets +onlyGivenNames y2
  have hy2 : y2.Sized := sized_ite hy1.bump.raiseEv hy1
  exact sized_ite hy2.bump.raiseEv hy2

theorem State.Sized.overruns {s : State} {l : List (Nat × Nat)} {t : Nat} {f : Nat} (hs : s.Sized) : (State.overruns s l t f).Sized := by
  delta State.overruns
  exact sized_foldl hs (fun a e ha => ha.bump.wr.wr.raiseEv)

theorem State.Sized.longFrame {s : State} (hs : s.Sized) : (State.longFrame s).Sized := by
  delta State.longFrame
  exact sized_ite (hs.withMet (by rfl)) hs

theorem State.Sized.tickClock {s : State} (hs : s.Sized) : (State.tickClock s).Sized := by
  delta State.tickClock
  split
  · exact (hs.timeMod (by rfl)).metStep
  · exact hs.longFrame.setClock

theorem State.Sized.seqFrame {s : State} {p : TickAt} (hs : s.Sized) : (State.seqFrame s p).Sized :=
  (seqFrame_keeps (Keeps.refl _ _) (List.Subset.refl _)).sized hs (of_decide_eq_true rfl)

theorem State.Sized.frameBegin {s : State} {p : TickAt} (hs : s.Sized) : (State.frameBegin s p).Sized := by
  delta State.frameBegin
  extract_lets +onlyGivenNames y1 y2 y3 y4 y5
  have hy5 : y5.Sized := (sized_ite hs hs.bump).tickClock
  extract_lets +onlyGivenNames y6 y7
  have hy7 : y7.Sized := hy5.seqMod
  extract_lets +onlyGivenNames y8 y9
  have hy9 : y9.Sized := hy7.seqMod
  extract_lets +onlyGivenNames y10
  have hy10 : y10.Sized := hy9.seqFrame
  extract_lets +onlyGivenNames y11
  have hy11 : y11.Sized := sized_ite hy10.bump hy10
  extract_lets +onlyGivenNames y12
  have hy12 : y12.Sized := sized_ite hy11.hfEnd hy11
  exact hy12.overruns

theorem State.Sized.timeTick {s : State} (hs : s.Sized) : (State.timeTick s).Sized := by
  delta State.timeTick
  extract_lets +onlyGivenNames y1 y2
  exact (hs.timeMod (by rfl)).wr.standbyHold

theorem State.Sized.actCmd {s : State} {dead : List HCmd} {c : HCmd} (hs : s.Sized) : (State.actCmd s dead c).Sized := by
  delta State.actCmd
  extract_lets +onlyGivenNames y1
  have hy1 : y1.Sized := hs.hostMod (by rfl)
  refine sized_ite (sized_ite hy1.actPrivReq hy1.complete) ?_
  refine sized_ite hy1.complete ?_
  refine sized_ite ?_ ?_
  · exact sized_ite hy1.complete (sized_ite hy1.complete hy1.complete)
  · exact sized_ite hy1.actSolve (sized_ite hy1.actAbort hy1.actPrivReq)

theorem State.Sized.hostCmds {s : State} (hs : s.Sized) : (State.hostCmds s).Sized := by
  delta State.hostCmds
  extract_lets +onlyGivenNames y1
  exact sized_foldl hs (fun a e ha => ha.actCmd)

theorem State.Sized.swapAll {s : State} (hs : s.Sized) : (State.swapAll s).Sized := by
  delta State.swapAll
  extract_lets +onlyGivenNames y1 y2
  have hy2 : y2.Sized := hs.withMbx
  split
  · exact hy2
  · exact hy2.bumpN.setF.raiseEv

theorem State.Sized.commitSkips {s : State} {skips : List (Nat × Nat)} (hs : s.Sized) : (State.commitSkips s skips).Sized :=
  (commitSkips_keeps (Keeps.refl _ _) (List.Subset.refl _)).sized hs (of_decide_eq_true rfl)

theorem State.Sized.hfNew {s : State} (hs : s.Sized) : (State.hfNew s).Sized := by
  delta State.hfNew
  exact (hs.hostMod (by rfl)).modelMod (by rfl) (by rfl)

theorem State.Sized.hostTick {s : State} (hs : s.Sized) : (State.hostTick s).Sized := by
  delta State.hostTick
  exact sized_ite hs hs.queueTick.commandedSolve.hostCmds

theorem State.Sized.engineTick {s : State} {p : TickAt} {first : Bool} {m : Meas} (hs : s.Sized) : (State.engineTick s p first m).Sized := by
  delta State.engineTick
  extract_lets +onlyGivenNames y1
  have hy1 : y1.Sized := hs.seqMod
  extract_lets +onlyGivenNames y2
  have hy2 : y2.Sized := (sized_ite hy1.hfNew hy1).commitSkips
  extract_lets +onlyGivenNames y3
  have hy3 : y3.Sized := sized_ite hy2.hostTick hy2.metFrameEnd.hostTick.swapAll
  extract_lets +onlyGivenNames y4
  have hy4 : y4.Sized := hy3.adcTick.metTick.dioTick
  extract_lets +onlyGivenNames y5
  have hy5 : y5.Sized := hy4.snetTick.nodeCounts
  extract_lets +onlyGivenNames y6 y7
  have hy7 : y7.Sized := sized_ite hy5.canCycle.canCycle hy5
  extract_lets +onlyGivenNames y8
  have hy8 : y8.Sized := hy7.boffShow.canTick.boffShow.canTick.loopTick
  exact hy8.cpesTick.privTick.ageReg.promTick

theorem State.Sized.enginesAt {s : State} {prev : Option RecHdr} {p : TickAt} {first : Bool} {m : Meas} (hs : s.Sized) :
    (State.enginesAt s prev p first m).Sized := by
  delta State.enginesAt
  refine sized_ite ?_ ?_
  · split
    · exact hs.seqMod
    · extract_lets +onlyGivenNames y1 y2
      have hy2 : y2.Sized := hs.privMod.twinMod
      exact hy2.engineTick
  · exact hs.engineTick

theorem State.Sized.moduleTick {s : State} {m : Meas} (hs : s.Sized) : (State.moduleTick s m).Sized :=
  (moduleTick_keeps (Keeps.refl _ _) (List.Subset.refl _)).sized hs (of_decide_eq_true rfl)

theorem State.Sized.snapsOf {s : State} {old : List Intake} (hs : s.Sized) : (State.snapsOf s old).Sized :=
  (snapsOf_keeps (Keeps.refl _ _) (List.Subset.refl _)).sized hs (of_decide_eq_true rfl)

theorem State.Sized.tick {s : State} {m : Meas} (hs : s.Sized) : (State.tick s m).Sized := by
  delta State.tick
  extract_lets +onlyGivenNames y1 y2 y3 y4 y5
  have hy5 : y5.Sized := sized_foldl hs.withSent.tickNotes (fun a e ha => sized_ite ha.fwViol ha)
  extract_lets +onlyGivenNames y6
  have hy6 : y6.Sized := hy5.digestTick.recTick.tamperAct
  extract_lets +onlyGivenNames y7
  have hy7 : y7.Sized := hy6.controlAct.splitAct.frameBegin.frameHi
  extract_lets +onlyGivenNames y8
  have hy8 : y8.Sized := hy7.timeTick.recNext.enginesAt
  extract_lets +onlyGivenNames y9
  have hy9 : y9.Sized := hy8.readbackTest.plausTick.moduleTick
  extract_lets +onlyGivenNames y10
  have hy10 : y10.Sized := hy9.twinRegs
  extract_lets +onlyGivenNames y11
  have hy11 : y11.Sized := (sized_ite hy10 hy10.hbSend).hbTick
  extract_lets +onlyGivenNames y12
  have hy12 : y12.Sized := hy11.shown.snapsOf
  extract_lets +onlyGivenNames y13
  have hy13 : y13.Sized := hy12.signal
  exact sized_ite hy13.signal hy13

theorem State.Sized.execFrameTick {m : Meas} {s : State} (hs : s.Sized) : SizedO (execFrameTick m s) := by
  delta execFrameTick
  exact sizedO_next (sized_ite hs (sized_ite hs.restartNow hs.tick))

end Sys2Proof.Machine
end

section
/-! ### Every step keeps the lengths (R475)

Row by row: a row whose parts hold none of the lists keeps them by its frame, any other by its operation. Only what comes over port T brings
lists of its own, and a well-formed command's have the shape of a module's (assumption 108). -/

namespace Sys2Proof.Machine

/-- A row that changes none of the parts that hold the lists. -/
theorem exec_sized_of_parts {c : Instr} {s : State} (h : s.Sized) (hT : ∀ p ∈ sizedParts, p ∉ cmdParts c) : SizedO (exec c s) :=
  fun t ht => (exec_keeps c s t ht).sized h hT

/-- A well-formed command keeps the lengths. -/
theorem exec_sized (c : Instr) (s : State) (h : s.Sized) (hw : c.wf = true) : SizedO (exec c s) :=
  match c, hw with
  | .frameTick .., _ => h.execFrameTick
  | .nop .., _ => exec_sized_of_parts h (of_decide_eq_true rfl)
  | .endEntry, _ => exec_sized_of_parts h (of_decide_eq_true rfl)
  | .publish .., _ => exec_sized_of_parts h (of_decide_eq_true rfl)
  | .snap .., _ => h.execSnap
  | .launchArm .., _ => h.execLaunchArm
  | .adcSel .., _ => h.execAdcSel
  | .adcTrig .., _ => h.execAdcTrig
  | .modLatch .., _ => h.execModLatch
  | .emetClose .., _ => h.execEmetClose
  | .hmetClose .., _ => h.execHmetClose
  | .loopGroup .., _ => h.execLoopGroup
  | .cpeTask .., _ => h.execCpeTask
  | .modelHyd .., _ => h.execModelHyd
  | .modelThm .., _ => h.execModelThm
  | .modelArr .., _ => h.execModelArr
  | .arrPartStale .., _ => h.execArrPartStale
  | .leakDetect .., _ => h.execLeakDetect
  | .gspTx .., _ => h.execGspTx
  | .gspRxclose .., _ => h.execGspRxclose
  | .nodeSilent .., _ => h.execNodeSilent
  | .nodeLost .., _ => h.execNodeLost
  | .canRef .., _ => h.execCanRef
  | .stnDrop .., _ => h.execStnDrop
  | .canTx .., _ => h.execCanTx
  | .twinRec .., _ => h.execTwinRec
  | .entryDeadline .., _ => h.execEntryDeadline
  | .engineLost .., _ => h.execEngineLost
  | .timedCommit .., _ => h.execTimedCommit
  | .seqBankSwitch, _ => h.execSeqBankSwitch
  | .modelBankSwitch, _ => h.execModelBankSwitch
  | .optBankSwitch, _ => h.execOptBankSwitch
  | .cpeBankSwitch .., _ => h.execCpeBankSwitch
  | .kwpOpen .., _ => h.execKwpOpen
  | .sessionOpeningTimeout .., _ => h.execSessionOpeningTimeout
  | .sessionIdleTimeout .., _ => h.execSessionIdleTimeout
  | .dormancyTimeout .., _ => h.execDormancyTimeout
  | .read .., _ => h.execRead
  | .write .., _ => h.execWrite
  | .readBlock .., _ => h.execReadBlock
  | .writeBlock .., _ => h.execWriteBlock
  | .tableRead .., _ => h.execTableRead
  | .tableWrite .., _ => h.execTableWrite
  | .cancel .., _ => h.execCancel
  | .solve .., _ => h.execSolve
  | .abort .., _ => h.execAbort
  | .privReq .., _ => h.execPrivReq
  | .cqRead .., _ => h.execCqRead
  | .notifyCfg .., _ => h.execNotifyCfg
  | .ownReq .., _ => h.execOwnReq
  | .ownershipResolve, _ => h.execOwnershipResolve
  | .ownRenew .., _ => h.execOwnRenew
  | .ownHandover .., _ => h.execOwnHandover
  | .ownRelease .., _ => h.execOwnRelease
  | .leaseLapsed, _ => h.execLeaseLapsed
  | .dormant .., _ => h.execDormant
  | .resume .., _ => h.execResume
  | .closeReq .., _ => h.execCloseReq
  | .notifySend .., _ => h.execNotifySend
  | .wakeOnLan .., _ => h.execWakeOnLan
  | .kick .., _ => h.execKick
  | .registerWrite .., _ => h.execRegisterWrite
  | .srst .., _ => h.execSrst
  | .freeze .., _ => h.execFreeze
  | .frzTmo .., _ => h.execFrzTmo
  | .commit .., _ => h.execCommit
  | .discard .., _ => h.execDiscard
  | .pgEvtSet .., _ => h.execPgEvtSet
  | .pgEvtClr .., _ => h.execPgEvtClr
  | .pgMaskSet .., _ => h.execPgMaskSet
  | .pgMaskClr .., _ => h.execPgMaskClr
  | .counterClear .., _ => h.execCounterClear
  | .seqVerify, _ => exec_sized_of_parts h (of_decide_eq_true rfl)
  | .seqVerifyEnd, _ => h.execSeqVerifyEnd
  | .seqSwitch, _ => exec_sized_of_parts h (of_decide_eq_true rfl)
  | .seqCancel, _ => exec_sized_of_parts h (of_decide_eq_true rfl)
  | .ptpSyncRx .., _ => h.execPtpSyncRx
  | .ptpAnnounceRx .., _ => h.execPtpAnnounceRx
  | .ptpPdelayExchange .., _ => h.execPtpPdelayExchange
  | .ppsEdge .., _ => h.execPpsEdge
  | .todSentenceRx .., _ => h.execTodSentenceRx
  | .sourceInvalid, _ => h.execSourceInvalid
  | .sourceUpgrade, _ => h.execSourceUpgrade
  | .initSet, _ => h.execInitSet
  | .stepAccept, _ => h.execStepAccept
  | .stepApplied, _ => h.execStepApplied
  | .relearn, _ => h.execRelearn
  | .clrCnt, _ => exec_sized_of_parts h (of_decide_eq_true rfl)
  | .learnMinute .., _ => h.execLearnMinute
  | .arm .., _ => h.execArm
  | .disarm .., _ => exec_sized_of_parts h (of_decide_eq_true rfl)
  | .launchFire .., _ => h.execLaunchFire
  | .parcelReset, _ => h.execParcelReset
  | .adaptReset, _ => h.execAdaptReset
  | .modelVerify, _ => exec_sized_of_parts h (of_decide_eq_true rfl)
  | .modelVerifyEnd, _ => h.execModelVerifyEnd
  | .modelSwitch, _ => exec_sized_of_parts h (of_decide_eq_true rfl)
  | .modelCancel, _ => exec_sized_of_parts h (of_decide_eq_true rfl)
  | .periodicSolveStart, _ => h.execPeriodicSolveStart
  | .solveEnd .., _ => h.execSolveEnd
  | .solveDeadline, _ => h.execSolveDeadline
  | .planPub, _ => h.execPlanPub
  | .bridgeSnapshotCopy .., _ => exec_sized_of_parts h (of_decide_eq_true rfl)
  | .planShift, _ => exec_sized_of_parts h (of_decide_eq_true rfl)
  | .fallbackAgeExpire, _ => h.execFallbackAgeExpire
  | .fallback, _ => h.execFallback
  | .optVerify, _ => exec_sized_of_parts h (of_decide_eq_true rfl)
  | .optVerifyEnd, _ => h.execOptVerifyEnd
  | .optSwitch, _ => exec_sized_of_parts h (of_decide_eq_true rfl)
  | .optCancel, _ => exec_sized_of_parts h (of_decide_eq_true rfl)
  | .eccUncorr, _ => h.execEccUncorr
  | .subHelloRx .., _ => h.execSubHelloRx
  | .subReportRx .., _ => h.execSubReportRx
  | .subStateRx .., _ => h.execSubStateRx
  | .subAckRx .., _ => h.execSubAckRx
  | .subPrivAckRx .., _ => h.execSubPrivAckRx
  | .launchQueueExpire .., _ => h.execLaunchQueueExpire
  | .nodeAccept, _ => h.execNodeAccept
  | .nodeReset, _ => h.execNodeReset
  | .nodeClr, _ => exec_sized_of_parts h (of_decide_eq_true rfl)
  | .rekey, _ => h.execRekey
  | .rekeySwitch .., _ => h.execRekeySwitch
  | .rekeyOverlapEnd .., _ => h.execRekeyOverlapEnd
  | .linkDown .., _ => h.execLinkDown
  | .linkUp .., _ => h.execLinkUp
  | .sfpFault .., _ => h.execSfpFault
  | .canFrameRx .., _ => h.execCanFrameRx
  | .canPrivAckRx .., _ => h.execCanPrivAckRx
  | .canFrameTxDone .., _ => h.execCanFrameTxDone
  | .canError .., _ => h.execCanError
  | .errPassive .., _ => h.execErrPassive
  | .busOff .., _ => h.execBusOff
  | .boffRecovered .., _ => h.execBoffRecovered
  | .idClash .., _ => h.execIdClash
  | .idClashSuspect .., _ => h.execIdClashSuspect
  | .sleep .., _ => h.execSleep
  | .wake .., _ => h.execWake
  | .busWake .., _ => h.execBusWake
  | .stnReset .., _ => h.execStnReset
  | .fastInputEdge .., _ => h.execFastInputEdge
  | .privArm, _ => exec_sized_of_parts h (of_decide_eq_true rfl)
  | .privDisarm, _ => exec_sized_of_parts h (of_decide_eq_true rfl)
  | .resetTrip, _ => exec_sized_of_parts h (of_decide_eq_true rfl)
  | .privRelease .., _ => h.execPrivRelease
  | .privRetx .., _ => h.execPrivRetx
  | .privRequestEnd .., _ => h.execPrivRequestEnd
  | .privBreach .., _ => h.execPrivBreach
  | .adcTimerTrigger .., _ => h.execAdcTimerTrigger
  | .pwmCompareTrigger .., _ => h.execPwmCompareTrigger
  | .adcConversionEnd .., _ => h.execAdcConversionEnd
  | .diEdge .., _ => h.execDiEdge
  | .overcurrent .., _ => h.execOvercurrent
  | .readback .., _ => h.execReadback
  | .openLoop .., _ => h.execOpenLoop
  | .dioDoSet .., _ => exec_sized_of_parts h (of_decide_eq_true rfl)
  | .dioDoClr .., _ => exec_sized_of_parts h (of_decide_eq_true rfl)
  | .dioOcClr .., _ => exec_sized_of_parts h (of_decide_eq_true rfl)
  | .meterSave, _ => h.execMeterSave
  | .retainSave, _ => h.execRetainSave
  | .restoreAck, _ => h.execRestoreAck
  | .powerFail .., _ => h.execPowerFail
  | .pfSnapshot .., _ => h.execPfSnapshot
  | .powerRestored .., _ => h.execPowerRestored
  | .overvolt .., _ => h.execOvervolt
  | .ballastLow .., _ => h.execBallastLow
  | .lockLost .., _ => h.execLockLost
  | .lockRegained .., _ => h.execLockRegained
  | .tune, _ => exec_sized_of_parts h (of_decide_eq_true rfl)
  | .tuneTimeout, _ => h.execTuneTimeout
  | .tuneAbort, _ => h.execTuneAbort
  | .applyProp, _ => exec_sized_of_parts h (of_decide_eq_true rfl)
  | .loopHoldSet .., _ => h.execLoopHoldSet
  | .loopHoldClr .., _ => exec_sized_of_parts h (of_decide_eq_true rfl)
  | .cpeVerify .., _ => h.execCpeVerify
  | .cpeVerifyEnd .., _ => h.execCpeVerifyEnd
  | .cpeSwitch .., _ => h.execCpeSwitch
  | .cpeCancel .., _ => exec_sized_of_parts h (of_decide_eq_true rfl)
  | .clrForces .., _ => exec_sized_of_parts h (of_decide_eq_true rfl)
  | .icuDoorbell .., _ => h.execIcuDoorbell
  | .icuEnSet .., _ => h.execIcuEnSet
  | .icuEnClr .., _ => h.execIcuEnClr
  | .icuMaskSet .., _ => h.execIcuMaskSet
  | .icuMaskClr .., _ => h.execIcuMaskClr
  | .icuPendSet .., _ => h.execIcuPendSet
  | .icuPendClr .., _ => h.execIcuPendClr
  | .icuClaim .., _ => h.execIcuClaim
  | .icuEoi .., _ => h.execIcuEoi
  | .icuStackReset .., _ => h.execIcuStackReset
  | .evrRecordCommit, _ => exec_sized_of_parts h (of_decide_eq_true rfl)
  | .evrTokenRefill .., _ => exec_sized_of_parts h (of_decide_eq_true rfl)
  | .evrFreeze, _ => exec_sized_of_parts h (of_decide_eq_true rfl)
  | .unfreeze, _ => exec_sized_of_parts h (of_decide_eq_true rfl)
  | .evrClear, _ => exec_sized_of_parts h (of_decide_eq_true rfl)
  | .clrSupp, _ => exec_sized_of_parts h (of_decide_eq_true rfl)
  | .frzExpired, _ => h.execFrzExpired
  | .heartbeatRx .., _ => h.execHeartbeatRx
  | .heartbeatMiss .., _ => h.execHeartbeatMiss
  | .partnerLost, _ => h.execPartnerLost
  | .failureDeclare, _ => h.execFailureDeclare
  | .isolationCheck, _ => h.execIsolationCheck
  | .takeover, _ => h.execTakeover
  | .twinCold, _ => h.execTwinCold
  | .inputRecordRx .., _ => h.execInputRecordRx
  | .recLost, _ => h.execRecLost
  | .recordNotClosed, _ => h.execRecordNotClosed
  | .beaconRx .., _ => h.execBeaconRx
  | .twinSwitch, _ => h.execTwinSwitch
  | .twinJoin, _ => h.execTwinJoin
  | .joinStart, _ => h.execJoinStart
  | .segmentCommit .., hw => h.execSegmentCommit (Bool.and_eq_true_iff.1 hw).2
  | .replayEnd .., hw => h.execReplayEnd hw
  | .joinDone, _ => h.execJoinDone
  | .joinTimeout, _ => h.execJoinTimeout
  | .abandon, _ => h.execAbandon
  | .parkControlRx .., _ => exec_sized_of_parts h (of_decide_eq_true rfl)
  | .park, _ => exec_sized_of_parts h (of_decide_eq_true rfl)
  | .unpark, _ => exec_sized_of_parts h (of_decide_eq_true rfl)
  | .unparkDiscard, _ => exec_sized_of_parts h (of_decide_eq_true rfl)
  | .testClr, _ => exec_sized_of_parts h (of_decide_eq_true rfl)
  | .sramScrubPass .., _ => h.execSramScrubPass
  | .dramScrubPass .., _ => h.execDramScrubPass
  | .portLoopbackTest .., _ => h.execPortLoopbackTest
  | .plausFail .., _ => h.execPlausFail
  | .mramScrubStart, _ => exec_sized_of_parts h (of_decide_eq_true rfl)
  | .mramScrubEnd .., _ => h.execMramScrubEnd
  | .keyStage, _ => exec_sized_of_parts h (of_decide_eq_true rfl)
  | .keyStageEnd .., _ => h.execKeyStageEnd
  | .keyVerify, _ => exec_sized_of_parts h (of_decide_eq_true rfl)
  | .keyVerifyEnd .., _ => h.execKeyVerifyEnd
  | .promote, _ => exec_sized_of_parts h (of_decide_eq_true rfl)
  | .promoted, _ => h.execPromoted
  | .keyCancel, _ => h.execKeyCancel
  | .keyRevoke, _ => h.execKeyRevoke
  | .keyErase, _ => h.execKeyErase
  | .tamper .., _ => h.execTamper
  | .powerGood .., _ => h.execPowerGood
  | .roleNegotiation .., _ => h.execRoleNegotiation
  | .negWaitExpire, _ => exec_sized_of_parts h (of_decide_eq_true rfl)
  | .bootDone, _ => h.execBootDone
  | .faultRestart, _ => exec_sized_of_parts h (of_decide_eq_true rfl)
  | .cfgVerify, _ => exec_sized_of_parts h (of_decide_eq_true rfl)
  | .cfgVerifyEnd .., _ => h.execCfgVerifyEnd
  | .cfgSwitch, _ => exec_sized_of_parts h (of_decide_eq_true rfl)
  | .cfgCancel, _ => exec_sized_of_parts h (of_decide_eq_true rfl)
  | .restart, _ => h.execRestart
  | .restartPair, _ => h.execRestartPair
  | .announceReceiptTimeout .., _ => h.execAnnounceReceiptTimeout
  | .ptpSyncTx .., _ => h.execPtpSyncTx
  | .ptpAnnounceTx .., _ => h.execPtpAnnounceTx
  | .prpSupervisionFrame, _ => h.execPrpSupervisionFrame
  | .canIntegrated .., _ => h.execCanIntegrated
  | .openCleared .., _ => exec_sized_of_parts h (of_decide_eq_true rfl)
  | .meterSaveVerify .., _ => h.execMeterSaveVerify
  | .dramCorrectedError, _ => exec_sized_of_parts h (of_decide_eq_true rfl)
  | .nodeBaselineSave, _ => h.execNodeBaselineSave
  | .undervolt .., _ => h.execUndervolt

theorem State.Sized.dequeued {s : State} (h : s.Sized) (rest : List Instr) : State.Sized { s with pending := rest } :=
  h.congr rfl rfl rfl rfl rfl rfl rfl rfl rfl rfl rfl

/-- Settles O5: a step idles or runs one command, and no well-formed command changes a length. -/
theorem everyStepKeepsTheLengths : Obligations.EveryStepKeepsTheLengths := by
  intro s t hs hwf ht
  cases hp : s.pending with
  | nil =>
    rw [step_of_idle hp] at ht
    injection ht with ht
    exact ht ▸ hs
  | cons c rest =>
    rw [step_of_pending hp] at ht
    exact exec_sized c _ (hs.dequeued rest) (hwf c rest hp) t ht

end Sys2Proof.Machine
end
